-- ==== Sys2Proof/Word.lean ====
section
/-!
DEFINITION. The words the module's layouts are made of, the numbers that name its units, and the
sparse tables its state is held in.

A fixed-size layout of the manual is a bit vector; a field of it is read with `fld`, numbered as R8
numbers bits.  A unit that the manual numbers is a `Fin`, so no command can name one that does not
exist (R19, R20).
-/

namespace Sys2Proof

/-- One byte (R9). -/
abbrev Byte := BitVec 8

/-- A global core number, die × 48 + row × 8 + column (R20). -/
abbrev Core := Fin 192
/-- A context of a core (R182). -/
abbrev Ctx := Fin 8
/-- A link of the module: 0-31 on H-die 0, 32-63 on H-die 1 (R27). -/
abbrev Link := Fin 64
/-- A lane of a link (R19). -/
abbrev Lane := Fin 4
/-- A C-die (R19). -/
abbrev Die := Fin 4
/-- An H-die (R19). -/
abbrev HDie := Fin 2
/-- A memory stack (R354). -/
abbrev Stack := Fin 32
/-- An update engine (R273). -/
abbrev Engine := Fin 32
/-- A mover, 2 × core + MOVER (R418). -/
abbrev Mover := Fin 384
/-- A semaphore of a core (R200). -/
abbrev Sem := Fin 64
/-- A site (R11). -/
abbrev Site := Fin 8
/-- A rope session, 32 × site + stripe (R322). -/
abbrev Sess := Fin 256
/-- A flow context (R106). -/
abbrev FlowId := Fin 262144
/-- A pseudo-channel of the module: stack × 64 + channel × 2 + pseudo-channel (R354, R367). -/
abbrev PseudoChan := Fin 2048

/-- Field [hi:lo] of a layout (R8), as a number. -/
def fld (w hi lo : Nat) : Nat := (w / 2 ^ lo) % 2 ^ (hi + 1 - lo)

/-- The layout with field [hi:lo] set. -/
def setFld (w hi lo v : Nat) : Nat := w - fld w hi lo * 2 ^ lo + (v % 2 ^ (hi + 1 - lo)) * 2 ^ lo

/-- Bit [i] of a layout (R8). -/
def bitAt (w i : Nat) : Bool := w.testBit i

/-- The number that bytes spell, the lowest address first (R9). -/
def leNat : List Byte → Nat
  | [] => 0
  | b :: bs => b.toNat + 256 * leNat bs

/-- The `n` bytes of a number, the lowest address first (R9). -/
def leBytes : Nat → Nat → List Byte
  | 0, _ => []
  | n + 1, v => BitVec.ofNat 8 v :: leBytes n (v / 256)

/-- Bytes `off` to `off + n - 1` of a record, as a number (R9). -/
def leAt (bs : List Byte) (off n : Nat) : Nat := leNat ((bs.drop off).take n)

/-- The two's-complement value of the low `n` bits of a number. -/
def sext (n v : Nat) : Int :=
  if v % 2 ^ n < 2 ^ (n - 1) then (v % 2 ^ n : Nat) else ((v % 2 ^ n : Nat) : Int) - 2 ^ n

/-- The low `n` bits of an integer, as a number. -/
def unsext (n : Nat) (v : Int) : Nat := (v % (2 ^ n : Nat)).toNat

/-- `a` rounded up to a multiple of `m`. -/
def roundUp (a m : Nat) : Nat := (a + m - 1) / m * m

/-! ### Sparse tables

A table has a value at every key.  It lists only the keys whose value differs from the table's
default, keys strictly rising, so that equal tables are equal lists. -/

/-- A sparse table: the listed keys, strictly rising. -/
abbrev Tbl (α : Type) := List (Nat × α)

namespace Tbl

variable {α : Type} [DecidableEq α]

/-- The value at a key: `d` where the table lists none. -/
def get (d : α) : Tbl α → Nat → α
  | [], _ => d
  | (j, v) :: t, k => if j = k then v else get d t k

/-- The table without key `k`. -/
def del : Tbl α → Nat → Tbl α
  | [], _ => []
  | (j, v) :: t, k => if j = k then del t k else (j, v) :: del t k

/-- The table with an entry at `k`, whatever the value. -/
def put : Tbl α → Nat → α → Tbl α
  | [], k, x => [(k, x)]
  | (j, v) :: t, k, x =>
    if j = k then (k, x) :: t else if k < j then (k, x) :: (j, v) :: t else (j, v) :: put t k x

/-- The table with value `x` at `k`; an entry equal to the default is not listed. -/
def set (d : α) (t : Tbl α) (k : Nat) (x : α) : Tbl α := if x = d then del t k else put t k x

/-- The canonical form: keys strictly rising from `lo`, no value equal to the default. -/
def wfFrom (d : α) : Nat → Tbl α → Bool
  | _, [] => true
  | lo, (j, v) :: t => decide (lo ≤ j) && decide (v ≠ d) && wfFrom d (j + 1) t

/-- The canonical form of a table. -/
def wf (d : α) (t : Tbl α) : Bool := wfFrom d 0 t

end Tbl

end Sys2Proof
end

