-- ==== Sys2Proof/Syntax.lean ====
section
/-!
DEFINITION. The commands: one constructor per row of spec/opcode_table.json.

A command is an operation or an event of the module, whole and indivisible (95_what_each_step_holds).
Its operands name the unit it concerns and hold what arrives from outside; the rows give none, so
their choice is the model's (assumption 2).
-/

namespace Sys2Proof

/-- A packet of the fabric (R104): its header flit and its data. -/
structure Packet where
  header : BitVec 512
  data : List Byte
  deriving DecidableEq, Repr

/-- A DXP message as it arrives (R396, R399): the transport that carries it, the source on that
transport (R397), the header and the bytes that follow it. -/
structure DxpMsg where
  transport : Fin 4
  source : Nat
  header : BitVec 256
  data : List Byte
  deriving DecidableEq, Repr

/-- The window-open word of a timed window (R69). -/
structure OpenWord where
  dstKind : BitVec 3
  dstAddr : BitVec 41
  dstPattern : BitVec 12
  tag : BitVec 16
  stageKey : BitVec 8
  op : BitVec 4
  byteCount : Nat
  deriving DecidableEq, Repr

/-- A rope frame as it arrives (R331): the header in clear and the bytes that follow it, which are
the body of an OPEN or ACCEPT, and the ciphertext and its 16-byte tag otherwise. -/
structure RopeFrame where
  header : BitVec 512
  body : List Byte
  deriving DecidableEq, Repr

/-- What a repair's READ requests return for one block (R316): the arrays in their layouts, the tag
entry, the source's records, and whether every request succeeded. -/
structure RepairData where
  ok : Bool
  master : List Byte
  m1 : List Byte
  m2 : List Byte
  work : List Byte
  maps : List Byte
  rope : List Byte
  /-- Of a ROPE block: the map bytes of its anchor slots, and its engine's histogram copies and cursor. -/
  anchorMaps : List Byte
  hists : List Byte
  cursor : BitVec 256
  tag : BitVec 128
  /-- The source's step record and rope record. -/
  step : BitVec 512
  ropeRec : BitVec 512
  deriving DecidableEq, Repr

/-- A PTP message of a master (R40): SYNC with its sequence number, whether a FOLLOW_UP carries its time (two-step), and
the time at which it left; FOLLOW_UP with that time; DELAY_RESP with the time at which the module's DELAY_REQ arrived.
Times are TAI in ns, corrected as IEEE 1588 asks. -/
inductive PtpMsg where
  | sync (seq : BitVec 16) (twoStep : Bool) (t1 : BitVec 64)
  | followUp (seq : BitVec 16) (t1 : BitVec 64)
  | delayResp (seq : BitVec 16) (t4 : BitVec 64)
  deriving DecidableEq, Repr

/-- An arriving timed slot: its 512 bytes, and the flits of credit for VC0-VC4 that the partner returns in its framing
(R99). -/
structure SlotWord where
  bytes : List Byte
  credits : List Nat
  deriving DecidableEq, Repr

/-- A change of the region table (R240): the entry, the hall time (ns) at which the change was named, and the hall time (ns)
that it names. -/
structure RegionChange where
  word : BitVec 128
  named : Nat
  effective : Nat
  deriving DecidableEq, Repr

/-- Who waits for a translation walk (R239): a mover of the core, or its streamer for a context. -/
inductive WalkUser where
  | mover (out : Bool)
  | streamer (ctx : Ctx)
  deriving DecidableEq, Repr

/-- How an ECC retry of a codeword ends (R360). -/
inductive RetryOutcome where
  | clean
  | corrected
  | uncorrectable
  deriving DecidableEq, Repr

/-- The commands of the module. -/
inductive Instr where
  /-- POWER_ON (R382): `mv` is the input voltage in mV. -/
  | powerOn (mv : Nat)
  /-- POWER_GOOD (R36): `straps` are the levels of STRAP_ADDR2-0 and STRAP_PORT, in the layout of STRAPS (R492). -/
  | powerGood (straps : BitVec 4)
  /-- ROM_BOOT_STAGE (R457). -/
  | romBootStage
  /-- FIRST_BOOT_STAGE (R457): `failed` are the pseudo-channels of stacks 0-7 that fail interface training (R362). -/
  | firstBootStage (failed : List PseudoChan)
  /-- LINKS_AND_TIME_STAGE (R457). -/
  | linksAndTimeStage
  /-- MEMORY_BOOT_STAGE (R457): `failed` are the pseudo-channels of stacks 8-31 that fail interface training (R362). -/
  | memoryBootStage (failed : List PseudoChan)
  /-- FIRST_STAGE_TIMEOUT (R458). -/
  | firstStageTimeout
  /-- TRIAL_BUNDLE_TIMEOUT (R458). -/
  | trialBundleTimeout
  /-- MODULE_WARM_RESET (R418). -/
  | moduleWarmReset
  /-- MODULE_COLD_RESET (R418). -/
  | moduleColdReset
  /-- TIME_SYMBOL_SEND (R43). -/
  | timeSymbolSend (link : Link)
  /-- TIME_SYMBOL_RECEIVE (R43): `arrival` is this module's hall time as the symbol crossed the receive reference point. -/
  | timeSymbolReceive (link : Link) (symbol : BitVec 192) (arrival : BitVec 70)
  /-- OFFSET_ESTIMATE (R44). -/
  | offsetEstimate
  /-- LOCK_DWELL_EXPIRE (R46). -/
  | lockDwellExpire
  /-- PARENT_LOST (R50). -/
  | parentLost
  /-- SYMBOL_TIMEOUT (R50). -/
  | symbolTimeout
  /-- HOLDOVER_LIMIT_EXPIRE (R50). -/
  | holdoverLimitExpire
  /-- PPS_EDGE (R41): `edge` is this module's hall time at the rising edge. -/
  | ppsEdge (edge : BitVec 70)
  /-- PPS_EDGE_MISSED (R41). -/
  | ppsEdgeMissed
  /-- PTP_MESSAGE (R40): a message of the module's master, arriving now. -/
  | ptpMessage (domain : BitVec 8) (msg : PtpMsg)
  /-- PTP_LOSS_TIMEOUT (R41). -/
  | ptpLossTimeout
  /-- ROOT_SOURCE_WAIT_EXPIRE (R42). -/
  | rootSourceWaitExpire
  /-- ROOT_BEAT_TICK (R45). -/
  | rootBeatTick
  /-- ROOT_BEAT_TIMEOUT (R51). -/
  | rootBeatTimeout
  /-- ROOT_PROMOTE (R51). -/
  | rootPromote
  /-- HALL_TIME_READ (R57). -/
  | hallTimeRead (m : DxpMsg)
  /-- PPS_OUT_PULSE (R55). -/
  | ppsOutPulse
  /-- TT_LOAD (R452). -/
  | ttLoad (e : BitVec 512)
  /-- BANK_CHECK (R63). -/
  | bankCheck (m : DxpMsg)
  /-- SWITCH_BANK_ARM (R65). -/
  | switchBankArm (m : DxpMsg)
  /-- SWITCH_BANK_DISARM (R65). -/
  | switchBankDisarm (m : DxpMsg)
  /-- BANK_SWITCH (R64). -/
  | bankSwitch
  /-- TT_BATCH_ARRIVE (R72): `link` names the timetable engine. -/
  | ttBatchArrive (link : Link)
  /-- WINDOW_START (R73). -/
  | windowStart (link : Link)
  /-- WINDOW_SLOT_SEND (R73). -/
  | windowSlotSend (link : Link)
  /-- WINDOW_OPEN_RECEIVE (R73). -/
  | windowOpenReceive (link : Link) (w : OpenWord)
  /-- SLOT_LAND (R73): `bad`: the slot carries a poison mark or part of an uncorrectable codeword; `overflow`: the elasticity FIFO overflowed. -/
  | slotLand (link : Link) (data : SlotWord) (bad : Bool) (overflow : Bool)
  /-- REDUCE_GROUP_COMBINE (R496). -/
  | reduceGroupCombine (link : Link)
  /-- WAKE_CORE (R78). -/
  | wakeCore (core : Core)
  /-- WAKE_DIE (R78). -/
  | wakeDie (die : Die)
  /-- SLEEP_CORE (R78). -/
  | sleepCore (core : Core)
  /-- SLEEP_DIE (R78). -/
  | sleepDie (die : Die)
  /-- EVENT_SEM_POST (R78): `sem` is SRC_ADDR[7:0] of the entry. -/
  | eventSemPost (core : Core) (sem : BitVec 8)
  /-- STROBE (R78). -/
  | strobe
  /-- HOLD_REQUEST (R83). -/
  | holdRequest (m : DxpMsg)
  /-- HOLD (R85). -/
  | hold (link : Link) (msg : BitVec 256)
  /-- RESUME (R85). -/
  | resume (link : Link) (msg : BitVec 256)
  /-- HOLD_TICK (R84). -/
  | holdTick
  /-- RESUME_TICK (R85). -/
  | resumeTick
  /-- HOLD_LIMIT_EXPIRE (R86). -/
  | holdLimitExpire
  /-- KEPT_RESUME_EXPIRE (R85). -/
  | keptResumeExpire (origin seq : BitVec 16)
  /-- LINK_TRAIN (R94): What the partner offers: module number, link number, map entry and link protocol versions. -/
  | linkTrain (link : Link) (partner : BitVec 16) (plink : Link) (entry : BitVec 16) (versions : List Nat)
  /-- CODEWORD_UNCORRECTABLE (R96): `slots`: how many timed slots hold part of the codeword; `flits`: it lies in a frame of unscheduled flits; `lane`: the lane it is attributed to. -/
  | codewordUncorrectable (link : Link) (slots : Fin 3) (flits : Bool) (lane : Option Lane)
  /-- FREE_SLOT_SEND (R100): `credits`: the flits of credit the partner has returned for VC0-VC4 with this slot. -/
  | freeSlotSend (link : Link) (credits : List Nat)
  /-- PACKET_FORWARD (R102). -/
  | packetForward (die : HDie) (port : Fin 35) (p : Packet)
  /-- ESCAPE_WAIT_EXPIRE (R102). -/
  | escapeWaitExpire (p : Packet)
  /-- REQUEST_ISSUE (R110). -/
  | requestIssue (die : HDie)
  /-- READ (R111). -/
  | memRead (p : Packet)
  /-- WRITE (R111). -/
  | memWrite (p : Packet)
  /-- ATOMIC (R111). -/
  | memAtomic (p : Packet)
  /-- MESSAGE (R111). -/
  | memMessage (p : Packet)
  /-- RESPONSE_ARRIVE (R110). -/
  | responseArrive (die : HDie) (p : Packet)
  /-- BREAK (R109). -/
  | flowBreak (p : Packet)
  /-- LEASE_LAPSE (R109). -/
  | leaseLapse (c : FlowId)
  /-- RESP_TIMEOUT_EXPIRE (R109). -/
  | respTimeoutExpire (c : FlowId) (seq : BitVec 32)
  /-- ROPE_FRAME (R113). -/
  | ropeFrame (p : Packet)
  /-- MM (R129). -/
  | mm (core : Core) (ctx : Ctx)
  /-- MM_G (R144). -/
  | mmG (core : Core) (ctx : Ctx)
  /-- QUEUE_ADMIT (R184). -/
  | queueAdmit (core : Core) (ctx : Ctx)
  /-- PASS_START (R137). -/
  | passStart (core : Core)
  /-- PASS_COMPLETE (R134). -/
  | passComplete (core : Core)
  /-- GATHER_HOLD_EXPIRE (R146). -/
  | gatherHoldExpire (core : Core) (slot : Fin 4)
  /-- GATHER_GROUP_START (R146). -/
  | gatherGroupStart (core : Core)
  /-- FRAME_GATE_APPLY (R151). -/
  | frameGateApply (core : Core)
  /-- VADD (R196). -/
  | vadd (core : Core) (ctx : Ctx)
  /-- VSUB (R196). -/
  | vsub (core : Core) (ctx : Ctx)
  /-- VMUL (R196). -/
  | vmul (core : Core) (ctx : Ctx)
  /-- VFMA (R196). -/
  | vfma (core : Core) (ctx : Ctx)
  /-- VMAX (R196). -/
  | vmax (core : Core) (ctx : Ctx)
  /-- VMIN (R196). -/
  | vmin (core : Core) (ctx : Ctx)
  /-- VCVT (R197). -/
  | vcvt (core : Core) (ctx : Ctx)
  /-- VADD_CP (R176). -/
  | vaddCp (core : Core) (ctx : Ctx)
  /-- VRED_SUM (R198). -/
  | vredSum (core : Core) (ctx : Ctx)
  /-- VRED_MAX (R198). -/
  | vredMax (core : Core) (ctx : Ctx)
  /-- VRED_SSQ (R198). -/
  | vredSsq (core : Core) (ctx : Ctx)
  /-- SF_EXP (R175). -/
  | sfExp (core : Core) (ctx : Ctx)
  /-- SF_LOG (R175). -/
  | sfLog (core : Core) (ctx : Ctx)
  /-- SF_RSQRT (R175). -/
  | sfRsqrt (core : Core) (ctx : Ctx)
  /-- VECTOR_COMPLETE (R185). -/
  | vectorComplete (core : Core)
  /-- MOV_X (R224). -/
  | movX (core : Core) (ctx : Ctx)
  /-- SEM_INIT (R201). -/
  | semInit (core : Core) (ctx : Ctx)
  /-- SEM_POST (R201). -/
  | semPost (core : Core) (ctx : Ctx)
  /-- SEM_POST_ARRIVE (R202): `posts`: how many of the posts in flight to that semaphore, oldest first, arrive in this cycle. -/
  | semPostArrive (core : Core) (sem : BitVec 8) (posts : Nat)
  /-- SEM_WAIT (R201). -/
  | semWait (core : Core) (ctx : Ctx)
  /-- SEM_TRY (R201). -/
  | semTry (core : Core) (ctx : Ctx)
  /-- SEM_LEASE_LAPSE (R200). -/
  | semLeaseLapse (core : Core) (sem : Sem)
  /-- WAIT_T (R201). -/
  | waitT (core : Core) (ctx : Ctx)
  /-- WAIT_T_RELEASE (R55). -/
  | waitTRelease (core : Core) (ctx : Ctx)
  /-- WAIT_Q (R201). -/
  | waitQ (core : Core) (ctx : Ctx)
  /-- FENCE (R204). -/
  | fence (core : Core) (ctx : Ctx)
  /-- FENCE_FORM (R204). -/
  | fenceForm (core : Core)
  /-- FENCE_SPAN_EXCEEDED (R206). -/
  | fenceSpanExceeded (core : Core)
  /-- TIME_RD (R201). -/
  | timeRd (core : Core) (ctx : Ctx)
  /-- NOP (R191). -/
  | nop (core : Core) (ctx : Ctx)
  /-- ALU (R191). -/
  | alu (core : Core) (ctx : Ctx)
  /-- CMP (R191). -/
  | cmp (core : Core) (ctx : Ctx)
  /-- LD (R191). -/
  | ld (core : Core) (ctx : Ctx)
  /-- ST (R191). -/
  | st (core : Core) (ctx : Ctx)
  /-- BR (R191). -/
  | br (core : Core) (ctx : Ctx)
  /-- LOOP (R191). -/
  | loop (core : Core) (ctx : Ctx)
  /-- HALT (R191). -/
  | halt (core : Core) (ctx : Ctx)
  /-- TAL_RD (R209). -/
  | talRd (core : Core) (ctx : Ctx)
  /-- TALLY_READ_SERVE (R301). -/
  | tallyReadServe (core : Core) (ctx : Ctx)
  /-- TAL_NF (R209). -/
  | talNf (core : Core) (ctx : Ctx)
  /-- STREAM_REFILL (R187). -/
  | streamRefill (core : Core) (ctx : Ctx)
  /-- START (R213): `regs` are S1-S15, `preds` P1-P7. -/
  | dcStart (core : Core) (ctx : Ctx) (stream : Bool) (key : BitVec 8) (pc : BitVec 44) (regs : List (BitVec 64)) (preds : BitVec 7)
  /-- STOP (R213). -/
  | dcStop (core : Core) (ctx : Ctx)
  /-- CONTEXT_READ (R213). -/
  | contextRead (core : Core) (ctx : Ctx)
  /-- SEQ_IMEM_LOAD (R213). -/
  | seqImemLoad (core : Core) (first : BitVec 13) (count : BitVec 13) (src : BitVec 41)
  /-- SEM_SET (R213). -/
  | semSet (core : Core) (sem : Sem) (count producer lease : BitVec 16)
  /-- REPLAY (R207). -/
  | replay (core : Core)
  /-- ISOLATE (R213). -/
  | isolate (core : Core) (ctx : Ctx)
  /-- RERUN_END (R423). -/
  | rerunEnd (core : Core)
  /-- DESCRIPTOR_START (R218). -/
  | descriptorStart (mover : Mover)
  /-- DESCRIPTOR_COMPLETE (R218). -/
  | descriptorComplete (mover : Mover)
  /-- TABLE_WALK_COMPLETE (R238). -/
  | tableWalkComplete (core : Core) (user : WalkUser) (va : BitVec 48) (write : Bool)
  /-- MOVER_RESET (R244). -/
  | moverReset (mover : Mover)
  /-- TRANSLATION_INVALIDATE (R239): `none` invalidates entirely. -/
  | translationInvalidate (page : Option (BitVec 48))
  /-- INVALIDATE_COMPLETE (R239). -/
  | invalidateComplete
  /-- REGION_CHANGE_EFFECTIVE (R240). -/
  | regionChangeEffective (n : Fin 256) (entry : RegionChange)
  /-- EXPANDER_RETRY (R262). -/
  | expanderRetry (core : Core)
  /-- MOVER_CHECK_RETRY (R263). -/
  | moverCheckRetry (mover : Mover)
  /-- GROUP_QUANTISE (R279). -/
  | groupQuantise (g : Fin 1024)
  /-- NORM_SUM (R281). -/
  | normSum
  /-- NORM_RECORD_WRITE (R281). -/
  | normRecordWrite
  /-- COMMIT_DECISION (R282). -/
  | commitDecision
  /-- SWEEP_END (R288). -/
  | sweepEnd
  /-- SWEEP_LIMIT_EXPIRE (R290). -/
  | sweepLimitExpire
  /-- FRESH_START (R277). -/
  | freshStart (m : DxpMsg)
  /-- RESTORE (R296). -/
  | restore (m : DxpMsg)
  /-- RESTORE_COMPLETE (R296). -/
  | restoreComplete
  /-- BELAY_REQUEST (R294). -/
  | belayRequest (m : DxpMsg)
  /-- BELAY_MANIFEST_WRITE (R294). -/
  | belayManifestWrite
  /-- TALLY_DELTA (R300): The oldest delta waiting at the tally table is applied. -/
  | tallyDelta
  /-- FP_RECORD_WRITE (R312). -/
  | fpRecordWrite
  /-- FP_CHECK (R313). -/
  | fpCheck
  /-- REPAIR_BLOCK (R316): `data` is what the READ requests on the repair context returned for block `b`. -/
  | repairBlock (b : Nat) (data : RepairData)
  /-- LS_INIT_WRITE (R309). -/
  | lsInitWrite (m : DxpMsg)
  /-- OPEN (R335). -/
  | ropeOpen (f : RopeFrame)
  /-- ACCEPT (R335). -/
  | ropeAccept (f : RopeFrame)
  /-- SESSION_OPEN_ATTEMPT (R335). -/
  | sessionOpenAttempt (site : Site)
  /-- DELTA (R334). -/
  | ropeDelta (f : RopeFrame)
  /-- SACK (R337). -/
  | ropeSack (f : RopeFrame)
  /-- SACK_TIMER (R337). -/
  | sackTimer (sess : Sess)
  /-- RESEND_TIMEOUT (R337). -/
  | resendTimeout (sess : Sess)
  /-- ROUND_INFO (R333). -/
  | roundInfo (f : RopeFrame)
  /-- REKEY (R340). -/
  | rekey (f : RopeFrame)
  /-- REKEY_ACK (R340). -/
  | rekeyAck (f : RopeFrame)
  /-- REKEY_INTERVAL_EXPIRE (R340). -/
  | rekeyIntervalExpire (site : Site)
  /-- NONCE_LIMIT (R340). -/
  | nonceLimit (sess : Sess)
  /-- REGROUP (R348). -/
  | regroup (f : RopeFrame)
  /-- BELAY (R349). -/
  | ropeBelay (f : RopeFrame)
  /-- DXP_FRAME (R332). -/
  | dxpFrame (f : RopeFrame)
  /-- PROBE (R346). -/
  | probe (f : RopeFrame)
  /-- ROPE_SEND (R338). -/
  | ropeSend (sess : Sess)
  /-- ROUND_DEADLINE (R342). -/
  | roundDeadline
  /-- PREPARE (R343): `entry` is the 64-byte MESSAGE entry of R343. -/
  | closePrepare (entry : List Byte)
  /-- ACK (R343): `replica` is the sender's replica index. -/
  | closeAck (replica : Fin 64) (entry : List Byte)
  /-- COMMIT (R343). -/
  | closeCommit (entry : List Byte)
  /-- CLOSE_ACK_LIMIT_EXPIRE (R343). -/
  | closeAckLimitExpire
  /-- REGROUP_REQUEST (R347). -/
  | regroupRequest (m : DxpMsg)
  /-- SESSION_PACE_EXPIRE (R428). -/
  | sessionPaceExpire (sess : Sess)
  /-- MEMORY_RETRY (R360). -/
  | memoryRetry (a : BitVec 41) (outcome : RetryOutcome)
  /-- SCRUB_READ (R361): `symbols`: symbols of the codeword in error. -/
  | scrubRead (a : BitVec 41) (symbols : Nat)
  /-- MIGRATION_COMPLETE (R364). -/
  | migrationComplete
  /-- MEMORY_STACK_RESET (R365). -/
  | memoryStackReset (stack : Stack) (failed : List PseudoChan)
  /-- REF_IN_LOST (R370). -/
  | refInLost
  /-- REF_IN_RESTORE (R370). -/
  | refInRestore
  /-- CORE_GATE (R372). -/
  | coreGate (core : Core)
  /-- CORE_WAKE_COMPLETE (R372). -/
  | coreWakeComplete (core : Core)
  /-- DIE_WAKE_COMPLETE (R372). -/
  | dieWakeComplete (die : Die)
  /-- BIVOUAC_WAKE_START (R373). -/
  | bivouacWakeStart
  /-- POWER_SAMPLE (R388): Input voltage in mV and current in mA; `bank`: the hold-up bank's usable energy in mJ; `loads`: delivered W of each load of R30, on the samples that take them. -/
  | powerSample (mv ma : Nat) (bank : Nat) (loads : List Nat)
  /-- GOVERNOR_CLEAR (R381). -/
  | governorClear
  /-- BALLAST_ADJUST (R378). -/
  | ballastAdjust
  /-- DRAW_TARGET_WRITE (R379). -/
  | drawTargetWrite (m : DxpMsg)
  /-- TARGET_TICK (R379). -/
  | targetTick
  /-- TARGET_TIMEOUT_EXPIRE (R379). -/
  | targetTimeoutExpire
  /-- DIP_DECLARE (R383). -/
  | dipDeclare
  /-- BRACE_START (R384). -/
  | braceStart
  /-- BRACE_RELEASE (R385). -/
  | braceRelease
  /-- BRACE_RESUME_SEND (R385). -/
  | braceResumeSend
  /-- OVERVOLTAGE_DISCONNECT (R382). -/
  | overvoltageDisconnect
  /-- OVERVOLTAGE_RECONNECT (R382). -/
  | overvoltageReconnect
  /-- POWER_FAIL (R387). -/
  | powerFail
  /-- THERMAL_SAMPLE (R489): Degrees Celsius: C-die 0-3 then H-die 0-1; stacks 0-31; the lid. -/
  | thermalSample (dies hbms : List Int) (lid : Int)
  /-- THERMAL_WARN_CLEAR (R489). -/
  | thermalWarnClear
  /-- HELLO (R397). -/
  | dxpHello (m : DxpMsg)
  /-- DXP_READ (R400). -/
  | dxpRead (m : DxpMsg)
  /-- DXP_WRITE (R394). -/
  | dxpWrite (m : DxpMsg)
  /-- READ_BLOB (R400). -/
  | readBlob (m : DxpMsg)
  /-- WRITE_BLOB (R400). -/
  | writeBlob (m : DxpMsg)
  /-- DESCRIBE (R400). -/
  | describe (m : DxpMsg)
  /-- LIST (R400). -/
  | dxpList (m : DxpMsg)
  /-- SUBSCRIBE (R441). -/
  | subscribe (m : DxpMsg)
  /-- GROUP_KEY (R402). -/
  | groupKey (m : DxpMsg)
  /-- CLOSE (R400). -/
  | dxpClose (m : DxpMsg)
  /-- SESSION_IDLE_EXPIRE (R397). -/
  | sessionIdleExpire (session : BitVec 16)
  /-- VC0_RETRY_EXPIRE (R401). -/
  | vc0RetryExpire (seq : BitVec 32)
  /-- CAMP_IMAGE_WRITE (R497). -/
  | campImageWrite (m : DxpMsg)
  /-- SWITCH_SLOT_ARM (R409). -/
  | switchSlotArm (m : DxpMsg)
  /-- SWITCH_SLOT_DISARM (R409). -/
  | switchSlotDisarm (m : DxpMsg)
  /-- CAMP_SWITCH (R410). -/
  | campSwitch
  /-- CONTEXT_PACE_EXPIRE (R423). -/
  | contextPaceExpire (core : Core) (ctx : Ctx)
  /-- MOVER_PACE_EXPIRE (R425). -/
  | moverPaceExpire (mover : Mover)
  /-- ENGINE_PACE_EXPIRE (R428). -/
  | enginePaceExpire (engine : Engine)
  /-- LANE_LOSS (R429). -/
  | laneLoss (link : Link) (lane : Lane)
  /-- LINK_LOSS (R429). -/
  | linkLoss (link : Link)
  /-- LANE_RELOCK_COMPLETE (R429): `ok`: the relock succeeded here; `partnerOk`: the partner reports success. -/
  | laneRelockComplete (link : Link) (lane : Lane) (ok partnerOk : Bool)
  /-- LINK_RETRAIN_COMPLETE (R429). -/
  | linkRetrainComplete (link : Link) (ok partnerOk : Bool)
  /-- LINK_AGREEMENT_TIMEOUT (R429). -/
  | linkAgreementTimeout (link : Link)
  /-- DIE_CONTROLLER_FAULT (R428). -/
  | dieControllerFault (die : Die)
  /-- WATCHDOG_EXPIRE (R436). -/
  | watchdogExpire (die : HDie)
  /-- MP_RESTART_COMPLETE (R436). -/
  | mpRestartComplete (die : HDie)
  /-- CAIRN_STREAM_SEND (R441). -/
  | cairnStreamSend (stream : Fin 4)
  /-- MBOX_DOORBELL (R447): `msg` is what the host wrote into the request buffer, `value` what it writes to MBOX_DOORBELL. -/
  | mboxDoorbell (msg : List Byte) (value : BitVec 32)
  /-- JOB_LOAD (R453). -/
  | jobLoad (e : BitVec 512)
  /-- JOB_UNLOAD (R454). -/
  | jobUnload (e : BitVec 512)
  /-- IMEM_LOAD (R452). -/
  | imemLoad (e : BitVec 512)
  /-- CTX_START (R452). -/
  | ctxStart (e : BitVec 512)
  /-- CTX_STOP (R452). -/
  | ctxStop (e : BitVec 512)
  /-- CTX_READ (R452). -/
  | ctxRead (e : BitVec 512)
  /-- FLOW_OPEN (R108). -/
  | flowOpen (e : BitVec 512)
  /-- FLOW_CLOSE (R452). -/
  | flowClose (e : BitVec 512)
  /-- FLOW_HEAD (R452). -/
  | flowHead (e : BitVec 512)
  /-- BULK_COPY (R452): `bus`: what the host bus returns for the reads of a host-to-device copy; `busError`: the host bus answers with an error. -/
  | bulkCopy (e : BitVec 512) (bus : List Byte) (busError : Bool)
  /-- BAR2_READ (R448). -/
  | bar2Read (offset : BitVec 41) (len : Nat)
  /-- BAR2_WRITE (R448). -/
  | bar2Write (offset : BitVec 41) (data : List Byte)
  /-- HOST_FUNCTION_RESET (R449). -/
  | hostFunctionReset
  /-- DOE_ATTEST (R464). -/
  | doeAttest (nonce : BitVec 256)
  /-- DOE_MEASURE_LOG (R464). -/
  | doeMeasureLog
  /-- ATTEST_NONCE (R464). -/
  | attestNonce (m : DxpMsg)
  /-- FW_STAGING_WRITE (R466). -/
  | fwStagingWrite (m : DxpMsg)
  /-- FW_INSTALL_FIRST_STAGE (R466). -/
  | fwInstallFirstStage (m : DxpMsg)
  /-- FW_INSTALL_BUNDLE (R466). -/
  | fwInstallBundle (m : DxpMsg)
  /-- WARM_RESET_REQUEST (R466). -/
  | warmResetRequest (m : DxpMsg)
  /-- COLD_RESET_REQUEST (R466). -/
  | coldResetRequest (m : DxpMsg)
  /-- SVN_COMMIT (R466). -/
  | svnCommit (m : DxpMsg)
  /-- OPERATOR_KEY_WRITE (R467). -/
  | operatorKeyWrite (m : DxpMsg)
  /-- READ_VIN (R485). -/
  | readVin
  /-- READ_IIN (R485). -/
  | readIin
  /-- READ_TEMPERATURE_1 (R485). -/
  | readTemperature1
  /-- READ_TEMPERATURE_2 (R485). -/
  | readTemperature2
  /-- READ_TEMPERATURE_3 (R485). -/
  | readTemperature3
  /-- READ_PIN (R485). -/
  | readPin
  /-- PMBUS_REVISION (R485). -/
  | pmbusRevision
  /-- MFR_STATUS (R486). -/
  | mfrStatus
  /-- MFR_STATE (R485). -/
  | mfrState
  /-- MFR_CAUSE (R485). -/
  | mfrCause
  /-- MFR_MODULE (R485). -/
  | mfrModule
  /-- MFR_SERIAL (R485). -/
  | mfrSerial
  /-- MFR_ENERGY (R485). -/
  | mfrEnergy
  /-- SMBUS_INVALID (R485). -/
  | smbusInvalid (code : BitVec 8) (write : Bool)
  /-- ALERT_RESPONSE (R486). -/
  | alertResponse
  /-- PROBE_INTERVAL_EXPIRE (R346). -/
  | probeIntervalExpire (sess : Sess)
  /-- PERSIST_WRITE_COMPLETE (R405). -/
  | persistWriteComplete (ok : Bool)
  /-- FW_INSTALL_COMPLETE (R466). -/
  | fwInstallComplete
  /-- DXP_RESPONSE (R314). -/
  | dxpResponse (m : DxpMsg)
  /-- DIE_RESET_COMPLETE (R432): `die`: 0-3 C-die, 4-5 H-die (R418). -/
  | dieResetComplete (die : Fin 6) (ok : Bool)
  /-- PERST_DEASSERT (R444). -/
  | perstDeassert
  /-- IDE_KM (R445): `stream`: false the link IDE stream, true the selective one; `slot`: the key slot of the stream that the request names. -/
  | ideKm (stream : Bool) (slot : Nat) (key : List Byte)
  deriving DecidableEq, Repr

end Sys2Proof
end

