-- ==== Sys2Proof/Decode.lean ====
section
/-!
DEFINITION. Decoding of table words.

The commands are operations and events of the module.  No row of the opcode table gives one any bits:
it reaches the module as the message, packet, ring entry or pin event that its operands hold, and the
layouts of those are decoded where they are taken in.
-/

namespace Sys2Proof

/-- The command that a table word spells: none, since no row of the table gives bits. -/
def decodeTableWord (_nbits _w : Nat) : Option Instr := none

end Sys2Proof
end

