-- ==== Sys2Proof/Config.lean ====
section
/-!
DEFINITION. What the manual leaves to the implementation, and its free values.

A constant here has no body, so nothing can be proved of its value and a claim holds whatever it is.
-/

namespace Sys2Proof.Config

/-! ### Free values -/

/-- Fresh free values: `freeValue n` is the `n`th (assumption 5). -/
opaque freeValue : Nat → Nat

/-- What a management processor obtains from an address that it cannot read. -/
opaque unreadable : Nat → Byte

/-! ### Hall time (R44): the filters of the time unit, over the 64 newest samples, in 1/128 ns -/

/-- The offset estimate of 64 offset samples, in 1/64 ns. -/
opaque offsetFilter : List Int → Int
/-- The frequency correction that goes with it, in ppb. -/
opaque freqFilter : List Int → Int
/-- The filtered delay of a link, in 1/64 ns. -/
opaque delayFilter : List Int → Nat

/-! ### Special functions (R175): where in its error bound a function's result lies, by input code -/

opaque sfExp : Nat → Nat
opaque sfLog : Nat → Nat
opaque sfRsqrt : Nat → Nat

/-! ### Random numbers (R165): the step key before the first commit point -/

opaque srFirstStep : Nat

/-! ### Cryptography: standards outside the manual -/

/-- SHA3-384, 48 bytes. -/
opaque sha3 : List Byte → List Byte
/-- ML-DSA-65 verification: public key, message, signature. -/
opaque mldsaVerify : List Byte → List Byte → List Byte → Bool
/-- ML-DSA-65 signature with the module's identity key. -/
opaque identitySign : List Byte → List Byte
/-- ML-KEM-768 encapsulation: key and randomness to ciphertext and shared secret. -/
opaque mlkemEncaps : List Byte → Nat → List Byte × List Byte
/-- A fresh ML-KEM-768 key pair from randomness: public and secret key. -/
opaque mlkemKeygen : Nat → List Byte × List Byte
/-- ML-KEM-768 decapsulation: secret key and ciphertext. -/
opaque mlkemDecaps : List Byte → List Byte → List Byte
/-- AES-256-GCM: key, nonce, additional data, plaintext to ciphertext and 16-byte tag. -/
opaque gcmSeal : List Byte → List Byte → List Byte → List Byte → List Byte × List Byte
/-- AES-256-GCM opening: key, nonce, additional data, ciphertext, tag. -/
opaque gcmOpen : List Byte → List Byte → List Byte → List Byte → List Byte → Option (List Byte)

/-! ### Layouts the manual does not give -/

/-- The record of at most 16 KiB that holds a snapshot's items (R424). -/
opaque snapshotImage : List (List Byte) → List Byte

/-- The TAI instant (ns) of hall time 0 at a site, which no frame or object of this module gives (R53). -/
opaque siteEpoch : Nat → Nat

/-- The virtual address at which a ROUND_INFO is kept, by site × 2 + round mod 2 (R343). -/
opaque roundInfoAt : Nat → Nat
/-- FREE VALUE (R364, R495): units of a migrating pseudo-channel copied by an instant of hall time. -/
opaque unitsCopied : Nat → Nat → Nat

/-- A REC object whose items the manual names without a layout, by object and items. -/
opaque recLayout : Nat → List Nat → List Byte

/-- The bytes of a base camp copy (R404) with the given values, and of the other records that boot measures:
operator key list and retirement records (R457, R459). -/
opaque baseCampImage : List (Nat × Nat) → List (Nat × List Byte) → List Byte
opaque keyListImage : List (List Byte) → List Byte
opaque retirementImage : List Nat → List Byte

/-- The item code of a measurement that is not an image's (R462): 3 base camp copy, 4 boot camp image, 5 operator
key list, 6 retirement records, 7 manifest. -/
opaque itemCode : Nat → Byte

/-- The loop stack as CTX_READ writes it, 24 bytes (R452): the five numbers of each entry, the outermost first. -/
opaque loopImage : List (List Nat) → List Byte

/-- The number with which RESULT word 0 gives the reason of R213, by opcode of R452. -/
opaque refusalReason : Nat → Nat

/-! ### Images and memory contents -/

/-- The flash image of a slot as delivered: 0, 1 first stage A and B; 2, 3 bundle A and B. -/
opaque factoryImage : Nat → List Byte

/-- The hashes of the image signing keys fused in the security block and not revoked (R461). -/
opaque signerHashes : List (List Byte)

/-- Whether the check of a base camp copy passes at a boot, by BOOT_COUNT (R404): the flash may lose both. -/
opaque baseCampOk : Nat → Bool

/-- Whether the module carries its provisioned identity key and the key verifies (R2, R463). -/
opaque identityOk : Bool

/-- Bytes of a region whose interleave mode has changed (R356): addresses and values. -/
opaque regionContents : Nat → List (Nat × Byte)

/-- What the stores, store maps and instruction memories of the cores of a die hold after its reset: values by
key, for the `n`th reset of a run. -/
opaque dieStores : Nat → List (Nat × Byte)
opaque dieMaps : Nat → List (Nat × Byte)
opaque dieImem : Nat → List (Nat × BitVec 128)

/-! ### The individual module -/

/-- SERIAL (R414): 12 ASCII characters. -/
opaque serial : List Byte
/-- DIE_STEPPINGS (R414). -/
opaque dieSteppings : Nat
/-- The identity public key, 1,952 bytes (R463). -/
opaque identityKey : List Byte
/-- The identity certificate chain (R463). -/
opaque identityCert : List Byte

end Sys2Proof.Config
end

