-- ==== Sys2Proof/Machine/Numbers.lean ====
section
/-!
DEFINITION. The number formats and the arithmetic (R155-R176): decoding, exact values, narrowing,
rounding and random numbers.
-/

namespace Sys2Proof.Machine

/-! ### Formats (R155, R156) -/

/-- A floating-point format: exponent bits, mantissa bits, and whether it has infinity and NaN. -/
structure FloatFmt where
  e : Nat
  m : Nat
  inf : Bool
  deriving DecidableEq, Repr

def FloatFmt.bias (f : FloatFmt) : Nat := 2 ^ (f.e - 1) - 1
def FloatFmt.ones (f : FloatFmt) : Nat := 2 ^ f.e - 1
def FloatFmt.signBit (f : FloatFmt) (neg : Bool) : Nat := if neg then 2 ^ (f.e + f.m) else 0
/-- The exponents of the largest finite value and of the smallest normal value. -/
def FloatFmt.emax (f : FloatFmt) : Int := (if f.inf then f.ones - 1 else f.ones : Nat) - (f.bias : Int)
def FloatFmt.emin (f : FloatFmt) : Int := 1 - (f.bias : Int)
/-- The codes of the largest finite value, of infinity and of the canonical NaN (0 without NaN). -/
def FloatFmt.maxCode (f : FloatFmt) : Nat := (if f.inf then f.ones - 1 else f.ones) * 2 ^ f.m + (2 ^ f.m - 1)
def FloatFmt.infCode (f : FloatFmt) : Nat := f.ones * 2 ^ f.m
def FloatFmt.nanCode (f : FloatFmt) : Nat := if f.inf then f.infCode + 2 ^ (f.m - 1) else 0

def f32 : FloatFmt := ⟨8, 23, true⟩
def b16 : FloatFmt := ⟨8, 7, true⟩

/-- The floating-point formats by code. -/
def floatFmt (code : Nat) : Option FloatFmt :=
  match code with
  | 0x01 => some f32
  | 0x02 => some ⟨5, 10, true⟩
  | 0x03 => some b16
  | 0x04 => some ⟨5, 2, true⟩
  | 0x05 => some ⟨4, 3, true⟩
  | 0x06 => some ⟨3, 4, true⟩
  | 0x07 => some ⟨3, 2, false⟩
  | 0x08 => some ⟨2, 3, false⟩
  | 0x09 => some ⟨2, 1, false⟩
  | _ => none

/-- The range of an integer format (R158). -/
def intRange (code : Nat) : Option (Int × Int) :=
  match code with
  | 0x0B => some (-2147483648, 2147483647)
  | 0x0C => some (-32768, 32767)
  | 0x0D => some (-128, 127)
  | 0x0E => some (0, 255)
  | 0x0F => some (-8, 7)
  | _ => none

/-- The width of an element in bits (R156, R158); 0 of a code that names no element format. -/
def elemBits (code : Nat) : Nat :=
  match code with
  | 0x01 => 32 | 0x02 => 16 | 0x03 => 16 | 0x04 => 8 | 0x05 => 8 | 0x06 => 8 | 0x07 => 6 | 0x08 => 6
  | 0x09 => 4 | 0x0B => 32 | 0x0C => 16 | 0x0D => 8 | 0x0E => 8 | 0x0F => 4
  | _ => 0

/-- An element format of R155 other than E8. -/
def isElem (code : Nat) : Bool := elemBits code != 0
def isFloat (code : Nat) : Bool := (floatFmt code).isSome
def isInt (code : Nat) : Bool := (intRange code).isSome
/-- E2M1, E3M2 and E2M3: always block-scaled. -/
def blockOnly (code : Nat) : Bool := code == 7 || code == 8 || code == 9
/-- The six formats that a block scale may go with (R126). -/
def blockable (code : Nat) : Bool := decide (4 ≤ code) && decide (code ≤ 9)

/-! ### Exact values -/

/-- An exact value: `fin neg n e` is ± n × 2^e; n = 0 is a signed zero. -/
inductive Num where
  | nan
  | inf (neg : Bool)
  | fin (neg : Bool) (n : Nat) (e : Int)
  deriving DecidableEq, Repr

def Num.zero : Num := .fin false 0 0

/-- A signed count of 2^e. -/
def Num.ofInt (v : Int) (e : Int := 0) : Num := .fin (decide (v < 0)) v.natAbs e

/-- The code denotes a subnormal, which is flushed and counted (R157). -/
def isSubnormal (f : FloatFmt) (code : Nat) : Bool :=
  code / 2 ^ f.m % 2 ^ f.e == 0 && code % 2 ^ f.m != 0

/-- The value of an element code (R157). -/
def decodeFloat (f : FloatFmt) (code : Nat) : Num :=
  let x := code / 2 ^ f.m % 2 ^ f.e
  let m := code % 2 ^ f.m
  let neg := code.testBit (f.e + f.m)
  if x = 0 then .fin neg 0 0
  else if f.inf ∧ x = f.ones then (if m = 0 then .inf neg else .nan)
  else .fin neg (2 ^ f.m + m) ((x : Int) - f.bias - f.m)

/-- The value of an element code of any format (R157, R158). -/
def decodeElem (code : Nat) (v : Nat) : Num :=
  match floatFmt code with
  | some f => decodeFloat f v
  | none => if code = 0x0E then .ofInt v else .ofInt (sext (elemBits code) v)

/-- The value times 2^x. -/
def Num.scale (v : Num) (x : Int) : Num :=
  match v with
  | .fin s n e => .fin s n (e + x)
  | v => v

def Num.neg (v : Num) : Num :=
  match v with
  | .fin s n e => .fin (!s) n e
  | .inf s => .inf (!s)
  | .nan => .nan

/-- The exact product (R138 steps 2 and 3). -/
def Num.mul (a b : Num) : Num :=
  match a, b with
  | .nan, _ => .nan
  | _, .nan => .nan
  | .inf s, .inf t => .inf (s != t)
  | .inf s, .fin t n _ => if n = 0 then .nan else .inf (s != t)
  | .fin s n _, .inf t => if n = 0 then .nan else .inf (s != t)
  | .fin s n e, .fin t m x => .fin (s != t) (n * m) (e + x)

/-- The signed multiple of 2^`e0` that a value is, `e0` not above its exponent. -/
def toUnits (s : Bool) (n : Nat) (e e0 : Int) : Int :=
  let v : Int := (n * 2 ^ (e - e0).toNat : Nat)
  if s then -v else v

/-- The exact sum; an exact zero of unlike signs is +0 (R174), and ∞ − ∞ is NaN. -/
def Num.add (a b : Num) : Num :=
  match a, b with
  | .nan, _ => .nan
  | _, .nan => .nan
  | .inf s, .inf t => if s = t then .inf s else .nan
  | .inf s, _ => .inf s
  | _, .inf t => .inf t
  | .fin s n e, .fin t m x =>
    if n = 0 ∧ m = 0 then .fin (s && t) 0 0
    else if n = 0 then .fin t m x
    else if m = 0 then .fin s n e
    else
      let e0 := min e x
      .ofInt (toUnits s n e e0 + toUnits t m x e0) e0

def Num.sub (a b : Num) : Num := a.add b.neg

/-- `a < b`, with −0 below +0 (R196); neither is NaN. -/
def Num.lt (a b : Num) : Bool :=
  match a, b with
  | .inf s, .inf t => s && !t
  | .inf s, _ => s
  | _, .inf t => !t
  | .fin s n e, .fin t m x =>
    if n = 0 ∧ m = 0 then s && !t
    else
      let e0 := min e x
      decide (toUnits s n e e0 < toUnits t m x e0)
  | _, _ => false

/-- The maximum and minimum of R196. -/
def Num.max (a b : Num) : Num :=
  if a = .nan ∨ b = .nan then .nan else if a.lt b then b else a
def Num.min (a b : Num) : Num :=
  if a = .nan ∨ b = .nan then .nan else if a.lt b then a else b

/-! ### Rounding (R163-R165) -/

/-- A rounding mode; stochastic rounding has its 32-bit random number. -/
inductive Mode where
  | rne
  | rtz
  | sr (u : Nat)
  deriving DecidableEq, Repr

/-- n × 2^e rounded to a multiple of 2^u, in units of 2^u. -/
def roundTo (mode : Mode) (n : Nat) (e u : Int) : Nat :=
  if u ≤ e then n * 2 ^ (e - u).toNat
  else
    let d := (u - e).toNat
    let lo := n / 2 ^ d
    let r := n % 2 ^ d
    match mode with
    | .rtz => lo
    | .rne => if 2 ^ d < 2 * r ∨ (2 * r = 2 ^ d ∧ lo % 2 = 1) then lo + 1 else lo
    | .sr x => if 2 ^ 32 ≤ r * 2 ^ 32 / 2 ^ d + x then lo + 1 else lo

/-- `mix` of R165. -/
def mix (z : Nat) : Nat :=
  let z := Nat.xor z (z / 2 ^ 31)
  let z := z * 0xA3B195A64E2D7C35 % 2 ^ 64
  let z := Nat.xor z (z / 2 ^ 29)
  let z := z * 0xC6E71B3F9D5824A1 % 2 ^ 64
  Nat.xor z (z / 2 ^ 32)

/-- `sr_random` of R165. -/
def srRandom (seed step tag index : Nat) : Nat :=
  let k := mix (Nat.xor (Nat.xor seed (step * 2 ^ 16)) tag % 2 ^ 64)
  mix (Nat.xor k index) / 2 ^ 32

/-! ### Narrowing (R161, R162, R167) -/

/-- What a written value counts as (R168); a value that enters the histogram has its exponent. -/
inductive Outcome where
  | zero | vanished | saturated | inf | nan
  | value (exp : Int)
  deriving DecidableEq, Repr

/-- The exponent ⌊log₂⌋ of n × 2^e, n not zero. -/
def expOf (n : Nat) (e : Int) : Int := e + Nat.log2 n

/-- Narrowing into a floating-point format (R161, R162): the code and what it counts as. -/
def narrow (f : FloatFmt) (mode : Mode) (sat : Bool) (v : Num) : Nat × Outcome :=
  match v with
  | .nan => (f.nanCode, .nan)
  | .inf s => if f.inf then (f.signBit s + f.infCode, .inf) else (0, .nan)
  | .fin s n e =>
    if n = 0 then (f.signBit s, .zero)
    else
      let b := expOf n e
      let q := roundTo mode n e (b - f.m)
      let (q, b) := if q = 2 ^ (f.m + 1) then (2 ^ f.m, b + 1) else (q, b)
      if f.emax < b then
        if sat ∨ mode = .rtz ∨ !f.inf then (f.signBit s + f.maxCode, .saturated)
        else (f.signBit s + f.infCode, .inf)
      else if b < f.emin then (f.signBit s, .vanished)
      else (f.signBit s + (b + f.bias).toNat * 2 ^ f.m + (q - 2 ^ f.m), .value b)

/-- A conversion to an integer format, given by its range (R167): the integer and what it counts as. -/
def toIntegral (lo hi : Int) (mode : Mode) (v : Num) : Int × Outcome :=
  match v with
  | .nan => (0, .nan)
  | .inf s => (if s then lo else hi, .saturated)
  | .fin s n e =>
    if n = 0 then (0, .zero)
    else
      let q := roundTo mode n e 0
      let i : Int := if s then -(q : Int) else q
      if q = 0 then (0, .vanished)
      else if hi < i then (hi, .saturated)
      else if i < lo then (lo, .saturated)
      else (i, .value (Nat.log2 q))

/-- Narrowing into any element format. -/
def narrowElem (code : Nat) (mode : Mode) (sat : Bool) (v : Num) : Nat × Outcome :=
  match floatFmt code, intRange code with
  | some f, _ => narrow f mode sat v
  | none, some (lo, hi) =>
    let r := toIntegral lo hi mode v
    (unsext (elemBits code) r.1, r.2)
  | none, none => (0, .nan)

/-- The F32 code of a value, with RNE and IEEE overflow. -/
def toF32 (v : Num) : Nat := (narrow f32 .rne false v).1

/-- The value of an F32 code. -/
def ofF32 (c : Nat) : Num := decodeFloat f32 c

/-! ### Block scales (R160, R169-R171) -/

/-- The smallest x with m × 2^e × 2^−x at most the largest finite value, and at least −126. -/
def blockExp (f : FloatFmt) (n : Nat) (e : Int) : Int :=
  let b := expOf n e
  -- the largest finite value is (2^(m+1) − 1) × 2^(emax − m)
  let fits := decide (n * 2 ^ (f.m + 1) ≤ (2 ^ (f.m + 1) - 1) * 2 ^ (Nat.log2 n + 1))
  let x := b - f.emax + (if fits then 0 else 1)
  Max.max x (-126)

/-- The largest magnitude of a block, as a finite value. -/
def maxAbs : List Num → Num
  | [] => .zero
  | v :: vs =>
    let r := maxAbs vs
    match v with
    | .fin _ n e => if r.lt (.fin false n e) then .fin false n e else r
    | _ => r

/-- `quantise_block` of R169, with the counts of R170: scale, codes, and what each element counts as.
`modes` gives each element's rounding. -/
def quantiseBlock (f : FloatFmt) (modes : List Mode) (vs : List Num) : Nat × List Nat × List Outcome :=
  let zeros := vs.map fun _ => 0
  if vs.any fun v => match v with | .fin _ _ _ => false | _ => true then
    (0xFF, zeros, vs.map fun _ => .nan)
  else
    match maxAbs vs with
    | .fin _ n e =>
      if n = 0 then (0x00, zeros, vs.map fun _ => .zero)
      else
        let x := blockExp f n e
        let qs := (vs.zip modes).map fun p => narrow f p.2 false (p.1.scale (-x))
        if qs.all fun q => q.1 % 2 ^ (f.e + f.m) == 0 then (0x00, zeros, qs.map (·.2))
        else
          (127 + x.toNat - (-x).toNat, qs.map (·.1),
            qs.map fun q => match q.2 with | .value b => .value (b + x) | o => o)
    | _ => (0xFF, zeros, vs.map fun _ => .nan)

/-- An element of a block with scale code `sc` (R171). -/
def decodeScaled (code : Nat) (sc : Nat) (v : Nat) : Num :=
  if sc = 0x00 then .zero
  else if sc = 0xFF then .nan
  else (decodeElem code v).scale ((sc : Int) - 127)

/-! ### F32 operations (R174) -/

/-- The F32 sum, difference and product of two F32 codes, rounded once. -/
def f32Add (a b : Nat) : Nat := toF32 ((ofF32 a).add (ofF32 b))
def f32Sub (a b : Nat) : Nat := toF32 ((ofF32 a).sub (ofF32 b))
def f32Mul (a b : Nat) : Nat := toF32 ((ofF32 a).mul (ofF32 b))
/-- a × b + c, rounded once. -/
def f32Fma (a b c : Nat) : Nat := toF32 (((ofF32 a).mul (ofF32 b)).add (ofF32 c))

/-! ### Elements in memory (R159) -/

/-- Element `i` of packed elements of width `w` bits. -/
def elemAt (bs : List Byte) (w i : Nat) : Nat :=
  let bit := w * i
  leNat ((bs.drop (bit / 8)).take ((w + 7) / 8 + 1)) / 2 ^ (bit % 8) % 2 ^ w

/-- Codes of width `w` bits, packed. -/
def packElems (w : Nat) (cs : List Nat) : List Byte :=
  leBytes ((w * cs.length + 7) / 8) (cs.foldr (fun c n => c % 2 ^ w + 2 ^ w * n) 0)

end Sys2Proof.Machine
end

