-- ==== Sys2Proof/Machine/Objects.lean ====
section
/-!
DEFINITION. The object table of the dictionary (R391): every object that a chapter defines, with its
type, access, persistence, default, range and unit, in the order of R395.

The table is written from the object tables of the chapters (R57, R89, R120, R153, R180, R215, R245,
R266, R298, R318, R352, R367, R389, R414, R415, R442, R468, R492).  Ranges are those of the Meaning
columns; an F32 range is given as bit patterns, which order as the values do.
-/

namespace Sys2Proof

/-- The types of R392. -/
inductive ObjType where
  | bool | u8 | u16 | u32 | u64 | i16 | i32 | i64 | f32 | time64 | str | blob | recd
  deriving DecidableEq, Repr

/-- The access rights of R393. -/
inductive Access where
  | const | ro | rw | wo | rwd
  deriving DecidableEq, Repr

/-- The type code of R392. -/
def ObjType.code : ObjType → Nat
  | .bool => 1
  | .u8 => 2
  | .u16 => 3
  | .u32 => 4
  | .u64 => 5
  | .i16 => 6
  | .i32 => 7
  | .i64 => 8
  | .f32 => 9
  | .time64 => 0xA
  | .str => 0xB
  | .blob => 0xC
  | .recd => 0xD

def Access.code : Access → Nat
  | .const => 0
  | .ro => 1
  | .rw => 2
  | .wo => 3
  | .rwd => 4

/-- A scalar type. -/
def ObjType.scalar : ObjType → Bool
  | .str | .blob | .recd => false
  | _ => true

def ObjType.signed : ObjType → Bool
  | .i16 | .i32 | .i64 => true
  | _ => false

/-- One row of the object table: objects `idx`.`lo` to `idx`.`hi` (and the same subindices of every
index up to `idxLast`). -/
structure ObjRow where
  idx : Nat
  idxLast : Nat
  lo : Nat
  hi : Nat
  ty : ObjType
  acc : Access
  stored : Bool
  /-- Bytes of a scalar or record, capacity of a BLOB or STR. -/
  size : Nat
  dflt : Nat
  min : Int
  max : Int
  /-- The value must be a multiple of this. -/
  mult : Nat
  /-- The object's chapter refuses writes while a job is loaded (R394). -/
  jobRefused : Bool
  unit : String
  deriving DecidableEq, Repr

namespace Objects

/-- Objects 0x1000-0x1FFF. -/
def identity : List ObjRow :=
  [⟨0x1000, 0x1000, 0x01, 0x01, .u16, .const, false, 2, 7996, 0, 65535, 1, false, ""⟩,  -- VENDOR_ID
   ⟨0x1000, 0x1000, 0x02, 0x02, .u16, .const, false, 2, 45568, 0, 65535, 1, false, ""⟩,  -- DEVICE_ID
   ⟨0x1000, 0x1000, 0x03, 0x03, .str, .const, false, 11, 0, 0, 0, 1, false, ""⟩,  -- ORDER_CODE
   ⟨0x1000, 0x1000, 0x04, 0x04, .str, .const, false, 12, 0, 0, 0, 1, false, ""⟩,  -- SERIAL
   ⟨0x1000, 0x1000, 0x05, 0x05, .u64, .const, false, 8, 0, 0, 18446744073709551615, 1, false, ""⟩,  -- DIE_STEPPINGS
   ⟨0x1000, 0x1000, 0x06, 0x06, .u32, .ro, false, 4, 0, 0, 4294967295, 1, false, ""⟩,  -- FIRMWARE_VERSION
   ⟨0x1000, 0x1000, 0x07, 0x07, .time64, .ro, false, 8, 0, 0, 18446744073709551615, 1, false, "ns"⟩,  -- UPTIME
   ⟨0x1000, 0x1000, 0x08, 0x08, .bool, .ro, false, 1, 0, 0, 1, 1, false, ""⟩,  -- READY
   ⟨0x1000, 0x1000, 0x09, 0x09, .u8, .ro, false, 1, 0, 0, 255, 1, false, ""⟩,  -- STRAPS
   ⟨0x1001, 0x1001, 0x00, 0x00, .u32, .const, false, 4, 131072, 0, 4294967295, 1, false, ""⟩,  -- DICT_REVISION
   ⟨0x1002, 0x1002, 0x01, 0x01, .u8, .const, false, 1, 2, 0, 255, 1, false, ""⟩,  -- DXP_VERSION_MIN
   ⟨0x1002, 0x1002, 0x02, 0x02, .u8, .const, false, 1, 2, 0, 255, 1, false, ""⟩,  -- DXP_VERSION_MAX
   ⟨0x1002, 0x1002, 0x03, 0x03, .u16, .rw, true, 2, 49330, 1024, 65535, 1, false, ""⟩,  -- DXP_PORT
   ⟨0x1002, 0x1002, 0x04, 0x04, .u8, .rw, true, 1, 0, 0, 1, 1, false, ""⟩,  -- ADDR_MODE
   ⟨0x1002, 0x1002, 0x05, 0x05, .recd, .rw, true, 17, 0, 0, 0, 1, false, ""⟩,  -- STATIC_ADDR
   ⟨0x1002, 0x1002, 0x06, 0x06, .recd, .rw, true, 16, 0, 0, 0, 1, false, ""⟩,  -- MCAST_GROUP
   ⟨0x1002, 0x1002, 0x07, 0x07, .u8, .ro, false, 1, 0, 0, 255, 1, false, ""⟩,  -- PORT_MODE
   ⟨0x1002, 0x1002, 0x08, 0x08, .u32, .rw, true, 4, 60, 10, 3600, 1, false, "s"⟩,  -- SESSION_IDLE
   ⟨0x1002, 0x1002, 0x09, 0x09, .u8, .ro, false, 1, 0, 0, 255, 1, false, ""⟩,  -- SESSIONS
   ⟨0x1002, 0x1002, 0x0A, 0x0A, .u32, .ro, false, 4, 0, 0, 4294967295, 1, false, ""⟩,  -- ABORTS_SENT
   ⟨0x1002, 0x1002, 0x0B, 0x0B, .u32, .ro, false, 4, 0, 0, 4294967295, 1, false, ""⟩,  -- AUTH_FAILURES
   ⟨0x1002, 0x1002, 0x0C, 0x0C, .u32, .ro, false, 4, 0, 0, 4294967295, 1, false, ""⟩,  -- DUPLICATES
   ⟨0x1002, 0x1002, 0x0D, 0x0D, .u32, .rw, true, 4, 50, 20, 10000, 1, false, "us"⟩,  -- VC0_RETRY
   ⟨0x1002, 0x1002, 0x0E, 0x0E, .u8, .rw, true, 1, 8, 1, 64, 1, false, ""⟩]  -- VC0_ATTEMPTS

/-- Objects 0x2000-0x2FFF. -/
def time : List ObjRow :=
  [⟨0x2000, 0x2000, 0x01, 0x01, .time64, .ro, false, 8, 0, 0, 18446744073709551615, 1, false, "ns"⟩,  -- HALL_TIME_NS
   ⟨0x2000, 0x2000, 0x02, 0x02, .u8, .ro, false, 1, 0, 0, 255, 1, false, "1/64 ns"⟩,  -- HALL_TIME_FRAC
   ⟨0x2000, 0x2000, 0x03, 0x03, .u8, .ro, false, 1, 0, 0, 255, 1, false, ""⟩,  -- TIME_STATE
   ⟨0x2000, 0x2000, 0x04, 0x04, .u8, .ro, false, 1, 0, 0, 255, 1, false, ""⟩,  -- TIME_ROLE
   ⟨0x2000, 0x2000, 0x05, 0x05, .u8, .ro, false, 1, 7, 0, 255, 1, false, ""⟩,  -- TIER
   ⟨0x2000, 0x2000, 0x06, 0x06, .u8, .ro, false, 1, 255, 0, 255, 1, false, ""⟩,  -- PARENT_LINK
   ⟨0x2000, 0x2000, 0x07, 0x07, .i32, .ro, false, 4, 0, -2147483648, 2147483647, 1, false, "1/64 ns"⟩,  -- OFFSET_EST
   ⟨0x2000, 0x2000, 0x08, 0x08, .i32, .ro, false, 4, 0, -2147483648, 2147483647, 1, false, "ppb"⟩,  -- FREQ_ADJ
   ⟨0x2000, 0x2000, 0x09, 0x09, .u32, .ro, false, 4, 0, 0, 4294967295, 1, false, "us"⟩,  -- HOLDOVER_ELAPSED
   ⟨0x2001, 0x2001, 0x00, 0x00, .u8, .rw, true, 1, 1, 1, 8, 1, false, ""⟩,  -- ROOT_COUNT
   ⟨0x2001, 0x2001, 0x01, 0x08, .u16, .rw, true, 2, 0, 0, 65535, 1, false, ""⟩,  -- ROOT_n
   ⟨0x2002, 0x2002, 0x01, 0x01, .u8, .rw, true, 1, 1, 0, 2, 1, false, ""⟩,  -- ROOT_SOURCE
   ⟨0x2002, 0x2002, 0x02, 0x02, .time64, .rw, true, 8, 0, 0, 18446744073709551615, 1, false, "ns"⟩,  -- EPOCH_TAI
   ⟨0x2002, 0x2002, 0x03, 0x03, .u8, .rw, true, 1, 0, 0, 127, 1, false, ""⟩,  -- PTP_DOMAIN
   ⟨0x2002, 0x2002, 0x04, 0x04, .bool, .ro, false, 1, 0, 0, 1, 1, false, ""⟩,  -- TAI_VALID
   ⟨0x2002, 0x2002, 0x05, 0x05, .i64, .ro, false, 8, 0, -9223372036854775808, 9223372036854775807, 1, false, "ns"⟩,  -- TAI_ERROR
   ⟨0x2003, 0x2003, 0x01, 0x01, .u32, .rw, true, 4, 50, 20, 1000, 1, false, "us"⟩,  -- ROOT_TIMEOUT
   ⟨0x2003, 0x2003, 0x02, 0x02, .u32, .rw, true, 4, 1000, 100, 10000, 1, false, "us"⟩,  -- HOLDOVER_LIMIT
   ⟨0x2003, 0x2003, 0x03, 0x03, .u8, .rw, true, 1, 4, 2, 32, 1, false, "1/64 ns"⟩,  -- LOCK_THRESHOLD
   ⟨0x2003, 0x2003, 0x04, 0x04, .u32, .rw, true, 4, 1000, 100, 100000, 1, false, "us"⟩,  -- LOCK_DWELL
   ⟨0x2004, 0x2004, 0x00, 0x3F, .i16, .rw, true, 2, 0, -1024, 1024, 1, false, "1/64 ns"⟩,  -- LINK_ASYM
   ⟨0x2005, 0x2005, 0x00, 0x3F, .u32, .ro, false, 4, 0, 0, 4294967295, 1, false, "1/64 ns"⟩,  -- LINK_DELAY
   ⟨0x2006, 0x2006, 0x01, 0x01, .u8, .rw, true, 1, 0, 0, 2, 1, false, ""⟩,  -- TIME_OUT_MODE
   ⟨0x2010, 0x2010, 0x01, 0x01, .u8, .ro, false, 1, 255, 0, 255, 1, false, ""⟩,  -- ACTIVE_BANK
   ⟨0x2010, 0x2010, 0x02, 0x02, .u32, .rw, false, 4, 0, 0, 4294967295, 1, false, "ns"⟩]  -- PERIOD_LEN_A
  ++
  [⟨0x2010, 0x2010, 0x03, 0x03, .u32, .rw, false, 4, 0, 0, 4294967295, 1, false, "ns"⟩,  -- PERIOD_LEN_B
   ⟨0x2010, 0x2010, 0x04, 0x04, .u64, .rw, false, 8, 0, 0, 18446744073709551615, 1, false, ""⟩,  -- PATTERN_BASE_A
   ⟨0x2010, 0x2010, 0x05, 0x05, .u64, .rw, false, 8, 0, 0, 18446744073709551615, 1, false, ""⟩,  -- PATTERN_BASE_B
   ⟨0x2010, 0x2010, 0x06, 0x06, .u16, .rw, false, 2, 0, 0, 65535, 1, false, ""⟩,  -- PATTERN_COUNT_A
   ⟨0x2010, 0x2010, 0x07, 0x07, .u16, .rw, false, 2, 0, 0, 65535, 1, false, ""⟩,  -- PATTERN_COUNT_B
   ⟨0x2010, 0x2010, 0x08, 0x08, .time64, .rw, false, 8, 0, 0, 18446744073709551615, 1, false, "ns"⟩,  -- SWITCH_TICK
   ⟨0x2010, 0x2010, 0x09, 0x09, .u8, .rw, false, 1, 255, 0, 255, 1, false, ""⟩,  -- SWITCH_BANK
   ⟨0x2010, 0x2010, 0x0A, 0x0A, .recd, .ro, false, 8, 0, 0, 0, 1, false, ""⟩,  -- LOAD_STATUS
   ⟨0x2010, 0x2010, 0x0B, 0x0B, .u8, .wo, false, 1, 0, 0, 1, 1, false, ""⟩,  -- BANK_CHECK
   ⟨0x2011, 0x2011, 0x00, 0x3F, .blob, .wo, false, 2097152, 0, 0, 0, 1, false, ""⟩,  -- TABLE_A_n
   ⟨0x2011, 0x2011, 0x40, 0x7F, .u32, .rw, false, 4, 0, 0, 65536, 1, false, ""⟩,  -- COUNT_A_n
   ⟨0x2012, 0x2012, 0x00, 0x3F, .blob, .wo, false, 2097152, 0, 0, 0, 1, false, ""⟩,  -- TABLE_B_n
   ⟨0x2012, 0x2012, 0x40, 0x7F, .u32, .rw, false, 4, 0, 0, 65536, 1, false, ""⟩,  -- COUNT_B_n
   ⟨0x2013, 0x2013, 0x01, 0x01, .u32, .rw, true, 4, 2000, 2000, 10000, 20, false, "ns"⟩,  -- HOLD_LEAD
   ⟨0x2013, 0x2013, 0x02, 0x02, .u32, .rw, true, 4, 400, 100, 2000, 1, false, "ns"⟩,  -- LINK_DELAY_BOUND
   ⟨0x2013, 0x2013, 0x03, 0x03, .time64, .ro, false, 8, 0, 0, 18446744073709551615, 1, false, "ns"⟩,  -- HOLD_OFFSET
   ⟨0x2013, 0x2013, 0x04, 0x04, .bool, .ro, false, 1, 0, 0, 1, 1, false, ""⟩,  -- HELD
   ⟨0x2013, 0x2013, 0x05, 0x05, .recd, .ro, false, 260, 0, 0, 0, 1, false, ""⟩,  -- LOST_LINKS
   ⟨0x2013, 0x2013, 0x06, 0x06, .u32, .rw, true, 4, 1000, 100, 100000, 1, false, "us"⟩,  -- HOLD_LIMIT
   ⟨0x2013, 0x2013, 0x07, 0x07, .u64, .wo, false, 8, 0, 0, 18446744073709551615, 1, false, "ns"⟩,  -- HOLD_REQUEST
   ⟨0x2014, 0x2014, 0x01, 0x01, .u32, .rw, true, 4, 64, 50, 1000, 1, false, "ns"⟩,  -- WAKE_LEAD_CORE
   ⟨0x2014, 0x2014, 0x02, 0x02, .u32, .rw, true, 4, 24000, 20000, 100000, 1, false, "ns"⟩,  -- WAKE_LEAD_DIE
   ⟨0x2014, 0x2014, 0x03, 0x03, .u32, .ro, false, 4, 0, 0, 4294967295, 1, false, ""⟩,  -- EVENTS_IGNORED
   ⟨0x2015, 0x2015, 0x00, 0x3F, .u32, .ro, false, 4, 0, 0, 4294967295, 1, false, ""⟩,  -- LOST_WINDOWS
   ⟨0x2016, 0x2016, 0x00, 0x3F, .u32, .ro, false, 4, 0, 0, 4294967295, 1, false, "slots"⟩]  -- LANDING_FAULTS

/-- Objects 0x3000-0x3FFF. -/
def power : List ObjRow :=
  [⟨0x3000, 0x3000, 0x01, 0x01, .u32, .ro, false, 4, 0, 0, 4294967295, 1, false, "mV"⟩,  -- INPUT_V
   ⟨0x3000, 0x3000, 0x02, 0x02, .u32, .ro, false, 4, 0, 0, 4294967295, 1, false, "mA"⟩,  -- INPUT_I
   ⟨0x3000, 0x3000, 0x03, 0x03, .u32, .ro, false, 4, 0, 0, 4294967295, 1, false, "W"⟩,  -- INPUT_P
   ⟨0x3000, 0x3000, 0x04, 0x04, .u32, .ro, false, 4, 0, 0, 4294967295, 1, false, "W"⟩,  -- INPUT_P_AVG
   ⟨0x3000, 0x3000, 0x05, 0x05, .u32, .ro, false, 4, 0, 0, 4294967295, 1, false, "W"⟩,  -- INPUT_P_PEAK
   ⟨0x3000, 0x3000, 0x06, 0x06, .u32, .ro, false, 4, 0, 0, 4294967295, 1, false, "mJ"⟩,  -- BANK_ENERGY
   ⟨0x3000, 0x3000, 0x07, 0x07, .u8, .ro, false, 1, 0, 0, 255, 1, false, ""⟩,  -- SUPPLY_STATE
   ⟨0x3000, 0x3000, 0x08, 0x08, .recd, .ro, false, 44, 0, 0, 0, 1, false, ""⟩,  -- LOAD_P
   ⟨0x3000, 0x3000, 0x09, 0x09, .u64, .ro, false, 8, 0, 0, 18446744073709551615, 1, false, "mJ"⟩,  -- ENERGY
   ⟨0x3001, 0x3001, 0x01, 0x01, .u32, .rw, true, 4, 44000, 40000, 47000, 1, true, "mV"⟩,  -- BRACE_V
   ⟨0x3001, 0x3001, 0x02, 0x02, .u32, .rw, true, 4, 200, 0, 1000, 1, true, "us"⟩,  -- BRACE_DELAY
   ⟨0x3001, 0x3001, 0x03, 0x03, .u32, .rw, true, 4, 47000, 45000, 50000, 1, true, "mV"⟩,  -- BRACE_RELEASE_V
   ⟨0x3001, 0x3001, 0x04, 0x04, .u32, .rw, true, 4, 100, 10, 10000, 1, true, "us"⟩,  -- BRACE_RELEASE_TIME
   ⟨0x3001, 0x3001, 0x05, 0x05, .u16, .rw, true, 2, 2000, 400, 10000, 1, true, "W/ms"⟩,  -- BRACE_RESTORE_RATE
   ⟨0x3001, 0x3001, 0x06, 0x06, .u16, .rw, true, 2, 300, 50, 300, 1, true, "W"⟩,  -- RECHARGE_MAX
   ⟨0x3001, 0x3001, 0x07, 0x07, .u32, .ro, false, 4, 0, 0, 4294967295, 1, false, ""⟩,  -- DIPS_RIDDEN
   ⟨0x3001, 0x3001, 0x08, 0x08, .u32, .ro, false, 4, 0, 0, 4294967295, 1, false, ""⟩,  -- BRACES
   ⟨0x3002, 0x3002, 0x01, 0x01, .u16, .rw, true, 2, 3600, 1000, 3600, 1, true, "W"⟩,  -- PLAN_LIMIT
   ⟨0x3002, 0x3002, 0x02, 0x02, .u16, .rw, true, 2, 3700, 1000, 3780, 1, true, "W"⟩,  -- GOV_LIMIT
   ⟨0x3002, 0x3002, 0x03, 0x03, .u16, .rw, true, 2, 100, 10, 1000, 1, true, "us"⟩,  -- GOV_WINDOW
   ⟨0x3002, 0x3002, 0x04, 0x04, .u32, .ro, false, 4, 0, 0, 4294967295, 1, false, ""⟩,  -- GOV_TRIPS
   ⟨0x3002, 0x3002, 0x05, 0x05, .u64, .rw, false, 8, 0, 0, 18446744073709551615, 1, false, ""⟩,  -- PLAN_BASE_A
   ⟨0x3002, 0x3002, 0x06, 0x06, .u64, .rw, false, 8, 0, 0, 18446744073709551615, 1, false, ""⟩,  -- PLAN_BASE_B
   ⟨0x3002, 0x3002, 0x07, 0x07, .u16, .rw, false, 2, 0, 0, 4096, 1, false, ""⟩,  -- PLAN_COUNT_A
   ⟨0x3002, 0x3002, 0x08, 0x08, .u16, .rw, false, 2, 0, 0, 4096, 1, false, ""⟩]  -- PLAN_COUNT_B
  ++
  [⟨0x3002, 0x3002, 0x09, 0x09, .recd, .ro, false, 8, 0, 0, 0, 1, false, ""⟩,  -- PLAN_STATUS
   ⟨0x3003, 0x3003, 0x01, 0x01, .u16, .rw, true, 2, 400, 50, 4000, 1, false, "W/ms"⟩,  -- RAMP_LIMIT
   ⟨0x3003, 0x3003, 0x02, 0x02, .u16, .rw, true, 2, 0, 0, 2880, 1, false, "W"⟩,  -- DRAW_FLOOR
   ⟨0x3003, 0x3003, 0x03, 0x03, .recd, .rw, false, 10, 0, 0, 0, 1, false, ""⟩,  -- DRAW_TARGET
   ⟨0x3003, 0x3003, 0x04, 0x04, .u32, .rw, true, 4, 10, 1, 3600, 1, false, "s"⟩,  -- TARGET_TIMEOUT
   ⟨0x3003, 0x3003, 0x05, 0x05, .u32, .ro, false, 4, 0, 0, 4294967295, 1, false, "W"⟩,  -- BALLAST_P
   ⟨0x3003, 0x3003, 0x06, 0x06, .u16, .ro, false, 2, 0, 0, 65535, 1, false, "W"⟩,  -- FLOOR_SHORT
   ⟨0x3003, 0x3003, 0x07, 0x07, .u16, .ro, false, 2, 0, 0, 65535, 1, false, "W"⟩,  -- RAMP_EXCESS
   ⟨0x3003, 0x3003, 0x08, 0x08, .u16, .ro, false, 2, 0, 0, 65535, 1, false, "W"⟩,  -- TARGET_EXCESS
   ⟨0x3004, 0x3004, 0x00, 0xBF, .u8, .ro, false, 1, 0, 0, 255, 1, false, ""⟩,  -- CORE_POWER
   ⟨0x3005, 0x3005, 0x01, 0x01, .u8, .ro, false, 1, 0, 0, 255, 1, false, ""⟩,  -- REF_SOURCE
   ⟨0x3006, 0x3006, 0x00, 0x05, .i16, .ro, false, 2, 0, -32768, 32767, 1, false, "C"⟩,  -- DIE_TEMP
   ⟨0x3006, 0x3006, 0x06, 0x06, .i16, .ro, false, 2, 0, -32768, 32767, 1, false, "C"⟩,  -- LID_TEMP
   ⟨0x3007, 0x3007, 0x01, 0x01, .i16, .rw, true, 2, 95, 80, 100, 1, false, "C"⟩,  -- DIE_WARN
   ⟨0x3007, 0x3007, 0x02, 0x02, .i16, .const, false, 2, 105, -32768, 32767, 1, false, "C"⟩,  -- DIE_TRIP
   ⟨0x3007, 0x3007, 0x03, 0x03, .i16, .const, false, 2, 115, -32768, 32767, 1, false, "C"⟩,  -- DIE_CRITICAL
   ⟨0x3007, 0x3007, 0x04, 0x04, .i16, .const, false, 2, 95, -32768, 32767, 1, false, "C"⟩,  -- STACK_TRIP
   ⟨0x3007, 0x3007, 0x05, 0x05, .i16, .const, false, 2, 105, -32768, 32767, 1, false, "C"⟩]  -- STACK_CRITICAL

/-- Objects 0x4000-0x4FFF. -/
def cores : List ObjRow :=
  [⟨0x4010, 0x4010, 0x01, 0x01, .bool, .rw, true, 1, 1, 0, 1, 1, true, ""⟩,  -- GATHER_ENABLE
   ⟨0x4010, 0x4010, 0x02, 0x02, .u16, .rw, true, 2, 32, 1, 256, 1, false, "rows"⟩,  -- GATHER_FILL
   ⟨0x4010, 0x4010, 0x03, 0x03, .u32, .rw, true, 4, 2000, 100, 100000, 1, false, "ns"⟩,  -- GATHER_HOLD
   ⟨0x4010, 0x4010, 0x04, 0x04, .u64, .ro, false, 8, 0, 0, 18446744073709551615, 1, false, "passes"⟩,  -- GATHER_STARTS_FILL
   ⟨0x4010, 0x4010, 0x05, 0x05, .u64, .ro, false, 8, 0, 0, 18446744073709551615, 1, false, "passes"⟩,  -- GATHER_STARTS_HOLD
   ⟨0x4010, 0x4010, 0x06, 0x06, .u64, .ro, false, 8, 0, 0, 18446744073709551615, 1, false, "passes"⟩,  -- GATHER_STARTS_FLUSH
   ⟨0x4010, 0x4010, 0x07, 0x07, .u64, .ro, false, 8, 0, 0, 18446744073709551615, 1, false, "cycles"⟩,  -- GATHER_SLOT_STALLS
   ⟨0x4011, 0x4011, 0x00, 0xBF, .u64, .ro, false, 8, 0, 0, 18446744073709551615, 1, false, "passes"⟩,  -- PASSES_DONE
   ⟨0x4012, 0x4012, 0x00, 0xBF, .u64, .ro, false, 8, 0, 0, 18446744073709551615, 1, false, ""⟩,  -- INT_SATURATIONS
   ⟨0x4013, 0x4013, 0x00, 0xBF, .u64, .ro, false, 8, 0, 0, 18446744073709551615, 1, false, "cycles"⟩,  -- FRAME_BUSY
   ⟨0x4014, 0x4014, 0x00, 0xBF, .u32, .ro, false, 4, 0, 0, 4294967295, 1, false, ""⟩,  -- PASS_REJECTS
   ⟨0x4020, 0x4020, 0x01, 0x01, .u64, .rw, false, 8, 0, 0, 18446744073709551615, 1, true, ""⟩,  -- SR_SEED
   ⟨0x4020, 0x4020, 0x02, 0x02, .u64, .ro, false, 8, 0, 0, 18446744073709551615, 1, false, "elements"⟩,  -- SUBNORMAL_INPUTS
   ⟨0x4020, 0x4020, 0x03, 0x03, .bool, .rw, true, 1, 1, 0, 1, 1, false, ""⟩,  -- SR_ENABLE
   ⟨0x4020, 0x4020, 0x04, 0x04, .u32, .ro, false, 4, 0, 0, 4294967295, 1, false, ""⟩,  -- FORMAT_FAULTS
   ⟨0x4030, 0x4030, 0x01, 0x01, .u32, .rw, true, 4, 8000, 1000, 8000, 1, true, "ns"⟩,  -- FENCE_SPAN
   ⟨0x4030, 0x4030, 0x02, 0x02, .u32, .ro, false, 4, 0, 0, 4294967295, 1, false, "posts"⟩,  -- BAD_SEM_POSTS
   ⟨0x4031, 0x4031, 0x00, 0xBF, .u32, .ro, false, 4, 0, 0, 4294967295, 1, false, ""⟩,  -- CONTEXT_STATES
   ⟨0x4032, 0x4032, 0x00, 0xBF, .u32, .ro, false, 4, 0, 0, 4294967295, 1, false, ""⟩,  -- SEQ_FAULTS
   ⟨0x4033, 0x4033, 0x00, 0xBF, .u32, .ro, false, 4, 0, 0, 4294967295, 1, false, ""⟩,  -- FENCE_OVERRUNS
   ⟨0x4034, 0x4034, 0x00, 0xBF, .u64, .ro, false, 8, 0, 0, 18446744073709551615, 1, false, ""⟩,  -- WAITS_LATE
   ⟨0x4035, 0x4035, 0x00, 0xBF, .u64, .ro, false, 8, 0, 0, 18446744073709551615, 1, false, ""⟩,  -- STREAM_MISSES
   ⟨0x4036, 0x4036, 0x00, 0xBF, .u32, .ro, false, 4, 0, 0, 4294967295, 1, false, ""⟩,  -- REPLAYS
   ⟨0x4037, 0x4037, 0x00, 0xBF, .u64, .ro, false, 8, 0, 0, 18446744073709551615, 1, false, "instructions"⟩,  -- ISSUED
   ⟨0x4040, 0x4040, 0x01, 0x01, .u64, .ro, false, 8, 0, 0, 18446744073709551615, 1, false, ""⟩]  -- TT_ROOT
  ++
  [⟨0x4040, 0x4040, 0x02, 0x02, .u16, .const, false, 2, 256, 0, 65535, 1, false, "entries"⟩,  -- TC_ENTRIES
   ⟨0x4040, 0x4040, 0x03, 0x03, .u32, .ro, false, 4, 0, 0, 4294967295, 1, false, ""⟩,  -- REGION_CHANGES
   ⟨0x4041, 0x4041, 0x00, 0xFF, .recd, .ro, false, 16, 0, 0, 0, 1, false, ""⟩,  -- REGION
   ⟨0x4042, 0x4042, 0x00, 0xBF, .u32, .ro, false, 4, 0, 0, 4294967295, 1, false, ""⟩,  -- STORE_KEYS
   ⟨0x4043, 0x4043, 0x00, 0xBF, .u64, .ro, false, 8, 0, 0, 18446744073709551615, 1, false, "descriptors"⟩,  -- DESC_DONE
   ⟨0x4044, 0x4044, 0x00, 0xBF, .u32, .ro, false, 4, 0, 0, 4294967295, 1, false, ""⟩,  -- MOVER_FAULTS
   ⟨0x4045, 0x4045, 0x00, 0xBF, .u64, .ro, false, 8, 0, 0, 18446744073709551615, 1, false, ""⟩,  -- TC_MISSES
   ⟨0x4046, 0x4046, 0x00, 0xBF, .u32, .ro, false, 4, 0, 0, 4294967295, 1, false, "descriptors"⟩,  -- ALIAS_RUNS
   ⟨0x4050, 0x4050, 0x01, 0x01, .u64, .rw, false, 8, 0, 0, 281474976710655, 65536, true, ""⟩,  -- LENMAP_VBASE
   ⟨0x4050, 0x4050, 0x02, 0x02, .u64, .ro, false, 8, 0, 0, 18446744073709551615, 1, false, "slots"⟩,  -- SLOTS_CODED
   ⟨0x4050, 0x4050, 0x03, 0x03, .u64, .ro, false, 8, 0, 0, 18446744073709551615, 1, false, "slots"⟩,  -- SLOTS_RAW
   ⟨0x4050, 0x4050, 0x04, 0x04, .u64, .ro, false, 8, 0, 0, 18446744073709551615, 1, false, "bytes"⟩,  -- BYTES_SAVED
   ⟨0x4050, 0x4050, 0x05, 0x05, .u32, .ro, false, 4, 0, 0, 4294967295, 1, false, ""⟩,  -- MOVER_CHECK_RETRIES
   ⟨0x4051, 0x4051, 0x00, 0xBF, .u32, .ro, false, 4, 0, 0, 4294967295, 1, false, ""⟩,  -- EXPANDER_RETRIES
   ⟨0x4052, 0x4052, 0x00, 0xBF, .u32, .ro, false, 4, 0, 0, 4294967295, 1, false, ""⟩,  -- EXPANDER_FAILURES
   ⟨0x4053, 0x4053, 0x00, 0xBF, .u64, .ro, false, 8, 0, 0, 18446744073709551615, 1, false, "slots"⟩]  -- SLOTS_DECODED

/-- Objects 0x5000-0x5FFF. -/
def memory : List ObjRow :=
  [⟨0x5000, 0x5000, 0x01, 0x01, .u32, .const, false, 4, 1572864, 0, 4294967295, 1, false, "MiB"⟩,  -- CAPACITY
   ⟨0x5000, 0x5000, 0x02, 0x02, .u32, .ro, false, 4, 1569488, 0, 4294967295, 1, false, "MiB"⟩,  -- VISIBLE
   ⟨0x5000, 0x5000, 0x03, 0x03, .u8, .rw, true, 1, 0, 0, 4, 1, true, "pseudo-channels"⟩,  -- RETIRE_RESERVE
   ⟨0x5000, 0x5000, 0x04, 0x06, .u8, .rw, true, 1, 0, 0, 2, 1, true, ""⟩,  -- INTERLEAVE_1–3
   ⟨0x5000, 0x5000, 0x07, 0x07, .u16, .rw, true, 2, 24, 1, 168, 1, false, "h"⟩,  -- SCRUB_PERIOD
   ⟨0x5000, 0x5000, 0x08, 0x08, .u8, .rw, true, 1, 8, 1, 255, 1, true, ""⟩,  -- RETIRE_RETRIES
   ⟨0x5000, 0x5000, 0x09, 0x09, .u16, .rw, true, 2, 4096, 16, 65535, 1, true, ""⟩,  -- RETIRE_CORRECTED
   ⟨0x5000, 0x5000, 0x0A, 0x0A, .u32, .rw, true, 4, 60, 1, 3600, 1, true, "s"⟩,  -- RETIRE_WINDOW
   ⟨0x5000, 0x5000, 0x0B, 0x0B, .recd, .ro, false, 8, 0, 0, 0, 1, false, ""⟩,  -- MIGRATION
   ⟨0x5001, 0x5001, 0x00, 0x1F, .u8, .ro, false, 1, 0, 0, 255, 1, false, ""⟩,  -- STACK_STATE
   ⟨0x5002, 0x5002, 0x00, 0x1F, .i16, .ro, false, 2, 0, -32768, 32767, 1, false, "C"⟩,  -- STACK_TEMP
   ⟨0x5003, 0x5003, 0x00, 0x03, .u32, .ro, false, 4, 0, 0, 4294967295, 1, false, "MiB"⟩,  -- REGION_VISIBLE
   ⟨0x5004, 0x5004, 0x00, 0x03, .u8, .ro, false, 1, 0, 0, 255, 1, false, ""⟩,  -- REGION_RETIRED
   ⟨0x5020, 0x503F, 0x00, 0x3F, .recd, .ro, false, 16, 0, 0, 0, 1, false, ""⟩]  -- PC_ERRORS

/-- Objects 0x6000-0x6FFF. -/
def fabric : List ObjRow :=
  [⟨0x6000, 0x6000, 0x01, 0x01, .u8, .rw, true, 1, 4, 1, 4, 1, false, ""⟩,  -- HALL_DIMS
   ⟨0x6000, 0x6000, 0x02, 0x02, .u16, .rw, true, 2, 0, 0, 65535, 1, false, ""⟩,  -- MODULE_NUMBER
   ⟨0x6000, 0x6000, 0x03, 0x03, .bool, .rw, true, 1, 0, 0, 1, 1, false, ""⟩,  -- MODULE_VALID
   ⟨0x6000, 0x6000, 0x04, 0x04, .u32, .rw, true, 4, 500, 100, 10000, 1, false, "ns"⟩,  -- ESCAPE_WAIT
   ⟨0x6000, 0x6000, 0x05, 0x05, .u32, .ro, false, 4, 0, 0, 4294967295, 1, false, "packets"⟩,  -- VC0_RING_DROPS
   ⟨0x6000, 0x6000, 0x06, 0x06, .u32, .ro, false, 4, 0, 0, 4294967295, 1, false, "packets"⟩,  -- UNREACHABLE
   ⟨0x6000, 0x6000, 0x07, 0x07, .u32, .ro, false, 4, 0, 0, 4294967295, 1, false, "packets"⟩,  -- FORMAT_DISCARDS
   ⟨0x6000, 0x6000, 0x08, 0x08, .u32, .ro, false, 4, 0, 0, 4294967295, 1, false, "packets"⟩,  -- STRAY_RESPONSES
   ⟨0x6001, 0x6001, 0x00, 0x3F, .u16, .rw, true, 2, 0, 0, 65535, 1, false, ""⟩,  -- LINK_MAP
   ⟨0x6002, 0x6002, 0x00, 0x3F, .u8, .ro, false, 1, 0, 0, 255, 1, false, ""⟩,  -- LINK_STATE
   ⟨0x6003, 0x6003, 0x00, 0x3F, .u32, .ro, false, 4, 0, 0, 4294967295, 1, false, ""⟩,  -- LINK_PARTNER
   ⟨0x6004, 0x6004, 0x00, 0x3F, .u32, .ro, false, 4, 0, 0, 4294967295, 1, false, "codewords"⟩,  -- FEC_UNCORRECTABLE
   ⟨0x6005, 0x6005, 0x00, 0x3F, .u8, .ro, false, 1, 15, 0, 255, 1, false, ""⟩,  -- LANES_IN_SERVICE
   ⟨0x6010, 0x6010, 0x01, 0x01, .u32, .rw, true, 4, 10000, 1000, 10000000, 1, false, "us"⟩,  -- LEASE_LEN
   ⟨0x6010, 0x6010, 0x02, 0x02, .u16, .rw, true, 2, 100, 10, 10000, 1, false, "us"⟩,  -- RESP_TIMEOUT_DEFAULT
   ⟨0x6010, 0x6010, 0x03, 0x03, .u32, .ro, false, 4, 0, 0, 4294967295, 1, false, ""⟩,  -- CONTEXTS_OPEN
   ⟨0x6010, 0x6010, 0x04, 0x04, .u32, .ro, false, 4, 0, 0, 4294967295, 1, false, ""⟩,  -- CONTEXT_BREAKS
   ⟨0x6010, 0x6010, 0x05, 0x05, .u64, .ro, false, 8, 0, 0, 18446744073709551615, 1, false, ""⟩,  -- CACHE_MISSES
   ⟨0x6010, 0x6010, 0x06, 0x06, .u32, .ro, false, 4, 1048576, 0, 4294967295, 1, false, "bytes"⟩,  -- POOL_FREE_H0
   ⟨0x6010, 0x6010, 0x07, 0x07, .u32, .ro, false, 4, 1048576, 0, 4294967295, 1, false, "bytes"⟩]  -- POOL_FREE_H1

/-- Objects 0x7000-0x7FFF. -/
def rope : List ObjRow :=
  [⟨0x7000, 0x7000, 0x01, 0x01, .u8, .rw, true, 1, 0, 0, 7, 1, true, ""⟩,  -- SITE_ID
   ⟨0x7000, 0x7000, 0x02, 0x02, .u8, .rw, true, 1, 0, 0, 255, 1, true, ""⟩,  -- SITE_MASK
   ⟨0x7000, 0x7000, 0x03, 0x03, .u16, .rw, true, 2, 0, 0, 65535, 1, true, ""⟩,  -- ROPE_VIA
   ⟨0x7000, 0x7000, 0x04, 0x04, .u64, .rw, false, 8, 0, 0, 18446744073709551615, 4096, true, ""⟩,  -- ROPE_STATE_BASE
   ⟨0x7000, 0x7000, 0x05, 0x05, .u64, .rw, false, 8, 0, 0, 18446744073709551615, 4096, true, ""⟩,  -- RX_BASE
   ⟨0x7000, 0x7000, 0x06, 0x06, .u32, .rw, true, 4, 6291456, 65536, 7864320, 4096, true, "bytes"⟩,  -- ENGINE_CAP
   ⟨0x7000, 0x7000, 0x07, 0x07, .u64, .rw, false, 8, 0, 0, 18446744073709551615, 65536, true, ""⟩,  -- REGROUP_BASE
   ⟨0x7000, 0x7000, 0x08, 0x08, .u32, .rw, false, 4, 1, 1, 4294967295, 1, true, "samples"⟩,  -- SAMPLES_PER_STEP
   ⟨0x7001, 0x7001, 0x00, 0x07, .recd, .rw, true, 59, 0, 0, 0, 1, true, ""⟩,  -- PEER_n
   ⟨0x7002, 0x7002, 0x01, 0x01, .u16, .rw, true, 2, 500, 1, 65535, 1, true, "steps"⟩,  -- ROPE_H
   ⟨0x7002, 0x7002, 0x02, 0x02, .f32, .rw, true, 4, 1015021568, 8388608, 1065353216, 1, true, ""⟩,  -- RHO
   ⟨0x7002, 0x7002, 0x03, 0x03, .f32, .rw, true, 4, 1056964608, 1028443341, 1064514355, 1, true, ""⟩,  -- DEADLINE_FRAC
   ⟨0x7002, 0x7002, 0x04, 0x04, .f32, .rw, true, 4, 1060320051, 8388608, 1073741824, 1, true, ""⟩,  -- OUTER_LR
   ⟨0x7002, 0x7002, 0x05, 0x05, .f32, .rw, true, 4, 1063675494, 0, 1065353215, 1, true, ""⟩,  -- OUTER_MOMENTUM
   ⟨0x7002, 0x7002, 0x06, 0x06, .u8, .rw, true, 1, 4, 1, 7, 1, true, "rounds"⟩,  -- MAX_STALE_ROUNDS
   ⟨0x7002, 0x7002, 0x07, 0x07, .u32, .rw, true, 4, 1000, 100, 100000, 1, true, "us"⟩,  -- CLOSE_ACK_LIMIT
   ⟨0x7002, 0x7002, 0x08, 0x08, .u16, .rw, true, 2, 65535, 0, 65535, 1, true, ""⟩,  -- ROPE_TAG
   ⟨0x7003, 0x7003, 0x01, 0x01, .u64, .rw, true, 8, 1000000000, 1000000, 409600000000, 1, false, "bytes/s"⟩,  -- ROPE_RATE
   ⟨0x7003, 0x7003, 0x02, 0x02, .u32, .rw, true, 4, 1048576, 1024, 1048576, 1, true, "frames"⟩,  -- SESSION_WINDOW
   ⟨0x7003, 0x7003, 0x04, 0x04, .u32, .rw, true, 4, 900, 60, 900, 1, false, "s"⟩,  -- REKEY_INTERVAL
   ⟨0x7003, 0x7003, 0x05, 0x05, .u32, .rw, true, 4, 1000, 100, 60000, 1, false, "ms"⟩,  -- PROBE_INTERVAL
   ⟨0x7004, 0x7004, 0x00, 0xFF, .recd, .ro, false, 24, 0, 0, 0, 1, false, ""⟩,  -- SESSION_STATE
   ⟨0x7005, 0x7005, 0x01, 0x01, .u32, .ro, false, 4, 0, 0, 4294967295, 1, false, ""⟩,  -- ROUND
   ⟨0x7005, 0x7005, 0x02, 0x02, .u32, .ro, false, 4, 4294967295, 0, 4294967295, 1, false, ""⟩,  -- CLOSED
   ⟨0x7005, 0x7005, 0x03, 0x03, .u64, .ro, false, 8, 0, 0, 18446744073709551615, 1, false, ""⟩]  -- REF_FP
  ++
  [⟨0x7005, 0x7005, 0x04, 0x04, .u64, .ro, false, 8, 0, 0, 18446744073709551615, 1, false, ""⟩,  -- ANCHOR_FP
   ⟨0x7005, 0x7005, 0x05, 0x05, .u32, .ro, false, 4, 0, 0, 4294967295, 1, false, ""⟩,  -- ANCHOR_ROUND
   ⟨0x7005, 0x7005, 0x06, 0x06, .u16, .ro, false, 2, 1020, 0, 65535, 1, false, "bin"⟩,  -- THRESHOLD
   ⟨0x7005, 0x7005, 0x07, 0x07, .u64, .ro, false, 8, 0, 0, 18446744073709551615, 1, false, "values"⟩,  -- SENT_LAST
   ⟨0x7005, 0x7005, 0x08, 0x08, .u32, .ro, false, 4, 0, 0, 4294967295, 1, false, "deltas"⟩,  -- LATE_HELD
   ⟨0x7005, 0x7005, 0x09, 0x09, .u32, .ro, false, 4, 0, 0, 4294967295, 1, false, "deltas"⟩,  -- LATE_DISCARDED
   ⟨0x7005, 0x7005, 0x0A, 0x0A, .u32, .ro, false, 4, 0, 0, 4294967295, 1, false, ""⟩,  -- REGROUPS
   ⟨0x7005, 0x7005, 0x0B, 0x0B, .u64, .ro, false, 8, 0, 0, 18446744073709551615, 1, false, "frames"⟩,  -- AUTH_FAILURES
   ⟨0x7005, 0x7005, 0x0C, 0x0C, .u64, .ro, false, 8, 0, 0, 18446744073709551615, 1, false, "frames"⟩,  -- RESENDS
   ⟨0x7005, 0x7005, 0x0D, 0x0D, .u64, .ro, false, 8, 0, 0, 18446744073709551615, 1, false, "values"⟩,  -- NONFINITE_DELTAS
   ⟨0x7005, 0x7005, 0x0E, 0x0E, .u32, .ro, false, 4, 0, 0, 4294967295, 1, false, ""⟩,  -- CAP_EXCEEDED
   ⟨0x7005, 0x7005, 0x10, 0x10, .u8, .wo, false, 1, 0, 1, 1, 1, false, ""⟩]  -- REGROUP_REQUEST

/-- Objects 0x8000-0x8FFF. -/
def training : List ObjRow :=
  [⟨0x8000, 0x8000, 0x01, 0x01, .u32, .ro, false, 4, 0, 0, 4294967295, 1, false, "steps"⟩,  -- STEP
   ⟨0x8000, 0x8000, 0x02, 0x02, .u8, .ro, false, 1, 0, 0, 255, 1, false, ""⟩,  -- ERR_SLOT
   ⟨0x8000, 0x8000, 0x03, 0x03, .u8, .rw, false, 1, 0, 0, 255, 1, true, ""⟩,  -- STATE_KEY
   ⟨0x8000, 0x8000, 0x04, 0x04, .u64, .rw, false, 8, 0, 0, 18446744073709551615, 4096, true, ""⟩,  -- STATE_BASE
   ⟨0x8000, 0x8000, 0x05, 0x05, .u64, .rw, false, 8, 0, 0, 18446744073709551615, 64, true, ""⟩,  -- GROUP_BASE
   ⟨0x8000, 0x8000, 0x06, 0x06, .u16, .rw, false, 2, 0, 0, 1024, 1, true, "groups"⟩,  -- GROUP_COUNT
   ⟨0x8000, 0x8000, 0x07, 0x07, .u64, .rw, false, 8, 0, 0, 18446744073709551615, 16, true, ""⟩,  -- TAG_BASE
   ⟨0x8000, 0x8000, 0x08, 0x08, .u16, .rw, false, 2, 1, 1, 65535, 1, true, "periods"⟩,  -- STEP_PERIODS
   ⟨0x8000, 0x8000, 0x09, 0x09, .u64, .rw, false, 8, 0, 0, 18446744073709551615, 20, true, "ns"⟩,  -- NORM_OFFSET
   ⟨0x8000, 0x8000, 0x0A, 0x0A, .u64, .rw, false, 8, 0, 0, 18446744073709551615, 20, true, "ns"⟩,  -- COMMIT_OFFSET
   ⟨0x8000, 0x8000, 0x0B, 0x0B, .u32, .rw, true, 4, 10000, 100, 1000000, 1, true, "us"⟩,  -- SWEEP_LIMIT
   ⟨0x8000, 0x8000, 0x0C, 0x0C, .bool, .rw, false, 1, 1, 0, 1, 1, true, ""⟩,  -- NORM_CONTRIB
   ⟨0x8000, 0x8000, 0x0D, 0x0D, .f32, .rw, false, 4, 1065353216, 8388608, 2139095039, 1, true, ""⟩,  -- GRAD_MUL
   ⟨0x8001, 0x8001, 0x01, 0x01, .f32, .rw, true, 4, 1063675494, 0, 1065353215, 1, true, ""⟩,  -- BETA1
   ⟨0x8001, 0x8001, 0x02, 0x02, .f32, .rw, true, 4, 1065336439, 0, 1065353215, 1, true, ""⟩,  -- BETA2
   ⟨0x8001, 0x8001, 0x03, 0x03, .f32, .rw, true, 4, 841731191, 0, 1065353216, 1, true, ""⟩,  -- EPS
   ⟨0x8001, 0x8001, 0x04, 0x04, .f32, .rw, true, 4, 1063675494, 0, 1065353215, 1, true, ""⟩,  -- MOMENTUM
   ⟨0x8001, 0x8001, 0x05, 0x05, .bool, .rw, true, 1, 1, 0, 1, 1, true, ""⟩,  -- CLIP_ENABLE
   ⟨0x8001, 0x8001, 0x06, 0x06, .f32, .rw, true, 4, 1065353216, 8388608, 2139095039, 1, true, ""⟩,  -- MAX_NORM
   ⟨0x8001, 0x8001, 0x07, 0x07, .u8, .rw, true, 1, 0, 0, 1, 1, true, ""⟩,  -- MOMENT_ROUND
   ⟨0x8001, 0x8001, 0x08, 0x08, .u8, .rw, true, 1, 0, 0, 1, 1, true, ""⟩,  -- WORK_ROUND
   ⟨0x8001, 0x8001, 0x09, 0x09, .u8, .rw, true, 1, 0, 0, 1, 1, true, ""⟩,  -- GRAD_ROUND
   ⟨0x8002, 0x8002, 0x01, 0x01, .u8, .rw, true, 1, 0, 0, 3, 1, true, ""⟩,  -- LR_MODE
   ⟨0x8002, 0x8002, 0x02, 0x02, .f32, .rw, true, 4, 953267991, 0, 2139095039, 1, true, ""⟩,  -- LR_BASE
   ⟨0x8002, 0x8002, 0x03, 0x03, .f32, .rw, true, 4, 0, 0, 2139095039, 1, true, ""⟩]  -- LR_END
  ++
  [⟨0x8002, 0x8002, 0x04, 0x04, .u32, .rw, true, 4, 0, 0, 4294967295, 1, true, "steps"⟩,  -- WARMUP
   ⟨0x8002, 0x8002, 0x05, 0x05, .u32, .rw, true, 4, 1, 1, 4294967295, 1, true, "steps"⟩,  -- DECAY
   ⟨0x8002, 0x8002, 0x06, 0x06, .recd, .rw, true, 516, 0, 0, 0, 1, false, ""⟩,  -- LR_TABLE
   ⟨0x8002, 0x8002, 0x07, 0x07, .f32, .ro, false, 4, 0, 0, 4294967295, 1, false, ""⟩,  -- LR_NOW
   ⟨0x8003, 0x8003, 0x01, 0x01, .u32, .ro, false, 4, 0, 0, 4294967295, 1, false, "steps"⟩,  -- SKIPS_NONFINITE
   ⟨0x8003, 0x8003, 0x02, 0x02, .u32, .ro, false, 4, 0, 0, 4294967295, 1, false, "steps"⟩,  -- SKIPS_SCHEDULE
   ⟨0x8003, 0x8003, 0x03, 0x03, .u32, .ro, false, 4, 0, 0, 4294967295, 1, false, ""⟩,  -- SWEEP_RESUMES
   ⟨0x8003, 0x8003, 0x04, 0x04, .u32, .ro, false, 4, 0, 0, 4294967295, 1, false, "blocks"⟩,  -- TAG_FAULTS
   ⟨0x8003, 0x8003, 0x05, 0x05, .u32, .ro, false, 4, 0, 0, 4294967295, 1, false, ""⟩,  -- QUANT_LATE
   ⟨0x8003, 0x8003, 0x06, 0x06, .u32, .ro, false, 4, 0, 0, 4294967295, 1, false, ""⟩,  -- SWEEP_OVERRUNS
   ⟨0x8003, 0x8003, 0x07, 0x07, .f32, .ro, false, 4, 0, 0, 4294967295, 1, false, ""⟩,  -- LAST_NORM
   ⟨0x8003, 0x8003, 0x08, 0x08, .f32, .ro, false, 4, 1065353216, 0, 4294967295, 1, false, ""⟩,  -- LAST_CLIP
   ⟨0x8004, 0x8004, 0x01, 0x01, .u64, .rw, false, 8, 0, 0, 18446744073709551615, 1, true, ""⟩,  -- BELAY_BASE
   ⟨0x8004, 0x8004, 0x02, 0x02, .u8, .wo, false, 1, 0, 1, 1, 1, false, ""⟩,  -- BELAY_REQUEST
   ⟨0x8004, 0x8004, 0x03, 0x03, .u8, .wo, false, 1, 0, 1, 2, 1, false, ""⟩,  -- RESTORE_REQUEST
   ⟨0x8004, 0x8004, 0x04, 0x04, .recd, .ro, false, 16, 0, 0, 0, 1, false, ""⟩,  -- STATE_STATUS
   ⟨0x8010, 0x8010, 0x01, 0x01, .i32, .rw, true, 4, 4294967264, -126, 96, 1, true, "binade"⟩,  -- HIST_BASE
   ⟨0x8010, 0x8010, 0x02, 0x02, .u8, .rw, true, 1, 2, 1, 8, 1, true, "binades"⟩,  -- HIST_WIDTH
   ⟨0x8010, 0x8010, 0x03, 0x03, .u32, .ro, false, 4, 0, 0, 4294967295, 1, false, ""⟩,  -- WATCH_EPOCH
   ⟨0x8010, 0x8010, 0x04, 0x04, .u64, .ro, false, 8, 0, 0, 18446744073709551615, 1, false, "values"⟩,  -- NF_COUNT
   ⟨0x8010, 0x8010, 0x05, 0x05, .u64, .ro, false, 8, 0, 0, 18446744073709551615, 1, false, ""⟩,  -- TALLY_LOADS
   ⟨0x8010, 0x8010, 0x06, 0x06, .u32, .ro, false, 4, 0, 0, 4294967295, 1, false, ""⟩,  -- TALLY_STUCK
   ⟨0x8011, 0x8011, 0x01, 0x0F, .recd, .ro, false, 32, 0, 0, 0, 1, false, ""⟩,  -- FORMAT_SHARES
   ⟨0x8012, 0x8012, 0x01, 0x01, .bool, .rw, true, 1, 1, 0, 1, 1, true, ""⟩,  -- LS_ENABLE
   ⟨0x8012, 0x8012, 0x02, 0x02, .u8, .rw, true, 1, 16, 0, 24, 1, true, "binade"⟩]  -- LS_INIT
  ++
  [⟨0x8012, 0x8012, 0x03, 0x03, .u8, .rw, true, 1, 24, 0, 24, 1, true, "binade"⟩,  -- LS_MAX
   ⟨0x8012, 0x8012, 0x04, 0x04, .u32, .rw, true, 4, 2000, 1, 1000000, 1, true, "steps"⟩,  -- LS_GROWTH
   ⟨0x8012, 0x8012, 0x05, 0x05, .u8, .rw, true, 1, 1, 0, 24, 1, true, "binades"⟩,  -- LS_BACKOFF
   ⟨0x8012, 0x8012, 0x06, 0x06, .u8, .rw, false, 1, 16, 0, 24, 1, true, "binade"⟩,  -- LS_EXP
   ⟨0x8012, 0x8012, 0x07, 0x07, .u32, .rw, false, 4, 0, 0, 4294967295, 1, true, "steps"⟩,  -- LS_CLEAN
   ⟨0x8012, 0x8012, 0x08, 0x08, .u32, .ro, false, 4, 0, 0, 4294967295, 1, false, "steps"⟩,  -- SKIP_STREAK
   ⟨0x8012, 0x8012, 0x09, 0x09, .u16, .rw, true, 2, 8, 1, 65535, 1, false, "steps"⟩,  -- SKIP_ALARM
   ⟨0x8012, 0x8012, 0x0A, 0x0A, .u32, .rw, true, 4, 524224, 0, 4294967295, 1, true, ""⟩,  -- LS_SCRATCH
   ⟨0x8013, 0x8013, 0x00, 0x00, .u8, .rw, false, 1, 1, 1, 64, 1, true, ""⟩,  -- REPLICA_COUNT
   ⟨0x8013, 0x8013, 0x01, 0x40, .u64, .rw, false, 8, 0, 0, 17179869183, 1, true, ""⟩,  -- REPLICA_n
   ⟨0x8014, 0x8014, 0x01, 0x01, .u64, .rw, false, 8, 0, 0, 18446744073709551615, 1, true, "ns"⟩,  -- FP_OFFSET
   ⟨0x8014, 0x8014, 0x02, 0x02, .u64, .rw, false, 8, 0, 0, 18446744073709551615, 1, true, "ns"⟩,  -- FP_CHECK_OFFSET
   ⟨0x8014, 0x8014, 0x03, 0x03, .u64, .ro, false, 8, 0, 0, 18446744073709551615, 1, false, ""⟩,  -- SHARD_FP
   ⟨0x8014, 0x8014, 0x04, 0x04, .blob, .ro, false, 131072, 0, 0, 0, 1, false, ""⟩,  -- SPAN_FPS
   ⟨0x8014, 0x8014, 0x05, 0x05, .blob, .ro, false, 268435456, 0, 0, 0, 1, false, ""⟩,  -- BLOCK_FPS
   ⟨0x8014, 0x8014, 0x06, 0x06, .u32, .ro, false, 4, 0, 0, 4294967295, 1, false, "blocks"⟩,  -- BLOCKS_REPAIRED
   ⟨0x8014, 0x8014, 0x07, 0x07, .u32, .ro, false, 4, 0, 0, 4294967295, 1, false, ""⟩,  -- FP_CHECKS
   ⟨0x8014, 0x8014, 0x08, 0x08, .u32, .ro, false, 4, 0, 0, 4294967295, 1, false, ""⟩,  -- FP_MISMATCHES
   ⟨0x8014, 0x8014, 0x0A, 0x0A, .u32, .ro, false, 4, 0, 0, 4294967295, 1, false, ""⟩]  -- FP_INCOMPLETE

/-- Objects 0x9000-0x9FFF. -/
def faults : List ObjRow :=
  [⟨0x9000, 0x9000, 0x01, 0x01, .u32, .rw, true, 4, 8000, 2000, 100000, 1, true, "ns"⟩,  -- PACE_CONTEXT
   ⟨0x9000, 0x9000, 0x02, 0x02, .u32, .rw, true, 4, 8000, 2000, 100000, 1, true, "ns"⟩,  -- PACE_MOVER
   ⟨0x9000, 0x9000, 0x03, 0x03, .u32, .rw, true, 4, 16000, 4000, 100000, 1, true, "ns"⟩,  -- PACE_ENGINE
   ⟨0x9000, 0x9000, 0x04, 0x04, .u32, .rw, true, 4, 1000, 100, 60000, 1, true, "ms"⟩,  -- PACE_SESSION
   ⟨0x9001, 0x9001, 0x01, 0x01, .u16, .rw, true, 2, 16, 1, 1000, 1, false, ""⟩,  -- LANE_RETIRE_COUNT
   ⟨0x9001, 0x9001, 0x02, 0x02, .u32, .rw, true, 4, 1000, 10, 60000, 1, false, "ms"⟩,  -- LANE_WINDOW
   ⟨0x9001, 0x9001, 0x03, 0x03, .u8, .rw, true, 1, 3, 1, 16, 1, false, ""⟩,  -- LINK_RETIRE_COUNT
   ⟨0x9001, 0x9001, 0x04, 0x04, .u32, .rw, true, 4, 600, 10, 86400, 1, false, "s"⟩,  -- LINK_WINDOW
   ⟨0x9001, 0x9001, 0x05, 0x05, .u8, .rw, true, 1, 8, 1, 64, 1, false, ""⟩,  -- SESSION_RETIRE_COUNT
   ⟨0x9001, 0x9001, 0x06, 0x06, .u32, .rw, true, 4, 600, 10, 86400, 1, false, "s"⟩,  -- SESSION_RETIRE_WINDOW
   ⟨0x9002, 0x9002, 0x01, 0x01, .u8, .rw, true, 1, 3, 1, 16, 1, true, "resets"⟩,  -- RESET_LIMIT
   ⟨0x9002, 0x9002, 0x02, 0x02, .u32, .rw, true, 4, 600, 60, 86400, 1, true, "s"⟩,  -- RESET_WINDOW
   ⟨0x9002, 0x9002, 0x03, 0x03, .u8, .ro, false, 1, 0, 0, 255, 1, false, "resets"⟩,  -- RESETS_IN_WINDOW
   ⟨0x9003, 0x9003, 0x01, 0x01, .bool, .ro, false, 1, 0, 0, 1, 1, false, ""⟩,  -- OUT_OF_SERVICE
   ⟨0x9003, 0x9003, 0x02, 0x02, .u16, .ro, false, 2, 0, 0, 65535, 1, false, ""⟩,  -- OOS_CAUSE
   ⟨0x9003, 0x9003, 0x03, 0x03, .bool, .ro, false, 1, 0, 0, 1, 1, false, ""⟩,  -- JOB_STAGE_FAILED
   ⟨0x9003, 0x9003, 0x04, 0x04, .u8, .ro, false, 1, 0, 0, 255, 1, false, ""⟩,  -- JOB_FAIL_CAUSE
   ⟨0x9004, 0x9004, 0x01, 0x01, .blob, .ro, false, 262144, 0, 0, 0, 1, false, ""⟩,  -- CAIRN_RING
   ⟨0x9004, 0x9004, 0x02, 0x02, .u32, .ro, false, 4, 0, 0, 4294967295, 1, false, ""⟩,  -- CAIRN_NEXT_SEQ
   ⟨0x9004, 0x9004, 0x03, 0x03, .u64, .ro, false, 8, 0, 0, 18446744073709551615, 1, false, "records"⟩,  -- CAIRN_OVERWRITTEN
   ⟨0x9004, 0x9004, 0x04, 0x04, .u64, .ro, false, 8, 0, 0, 18446744073709551615, 1, false, "records"⟩,  -- CAIRN_DROPPED
   ⟨0x9004, 0x9004, 0x05, 0x05, .u32, .ro, false, 4, 0, 0, 4294967295, 1, false, ""⟩,  -- STREAM_GAPS
   ⟨0x9005, 0x9005, 0x00, 0x12, .u32, .ro, false, 4, 0, 0, 4294967295, 1, false, ""⟩,  -- FAULT_COUNTS
   ⟨0x9006, 0x9006, 0x01, 0x01, .blob, .ro, false, 65536, 0, 0, 0, 1, false, ""⟩]  -- SNAPSHOT

/-- Objects 0xA000-0xAFFF. -/
def security : List ObjRow :=
  [⟨0xA000, 0xA000, 0x01, 0x01, .u8, .ro, false, 1, 0, 0, 255, 1, false, ""⟩,  -- BOOT_STAGE
   ⟨0xA000, 0xA000, 0x02, 0x02, .u8, .wo, false, 1, 0, 1, 2, 1, false, ""⟩,  -- RESET_REQUEST
   ⟨0xA000, 0xA000, 0x03, 0x03, .u32, .ro, false, 4, 0, 0, 4294967295, 1, false, ""⟩,  -- BOOT_COUNT
   ⟨0xA000, 0xA000, 0x04, 0x04, .recd, .ro, false, 8, 0, 0, 0, 1, false, ""⟩,  -- BOOT_SLOTS
   ⟨0xA000, 0xA000, 0x05, 0x05, .u8, .ro, false, 1, 0, 0, 255, 1, false, ""⟩,  -- HOST_KEY
   ⟨0xA000, 0xA000, 0x06, 0x06, .u32, .ro, false, 4, 0, 0, 4294967295, 1, false, "accesses"⟩,  -- BAR2_BLOCKED
   ⟨0xA001, 0xA001, 0x01, 0x01, .blob, .rw, false, 16777216, 0, 0, 0, 1, false, ""⟩,  -- FW_STAGING
   ⟨0xA001, 0xA001, 0x02, 0x02, .u8, .wo, false, 1, 0, 1, 2, 1, false, ""⟩,  -- FW_INSTALL
   ⟨0xA001, 0xA001, 0x03, 0x03, .recd, .ro, false, 3, 0, 0, 0, 1, false, ""⟩,  -- FW_STATUS
   ⟨0xA001, 0xA001, 0x04, 0x04, .u8, .wo, false, 1, 0, 1, 1, 1, false, ""⟩,  -- SVN_COMMIT
   ⟨0xA001, 0xA001, 0x05, 0x05, .recd, .ro, false, 16, 0, 0, 0, 1, false, ""⟩,  -- SVN_FLOOR
   ⟨0xA001, 0xA001, 0x06, 0x06, .recd, .ro, false, 384, 0, 0, 0, 1, false, ""⟩,  -- MEASUREMENTS
   ⟨0xA001, 0xA001, 0x07, 0x07, .blob, .ro, false, 4096, 0, 0, 0, 1, false, ""⟩,  -- MEASURE_LOG
   ⟨0xA002, 0xA002, 0x01, 0x01, .blob, .const, false, 1952, 0, 0, 0, 1, false, ""⟩,  -- IDENTITY_KEY
   ⟨0xA002, 0xA002, 0x02, 0x02, .recd, .const, false, 48, 0, 0, 0, 1, false, ""⟩,  -- IDENTITY_KEY_HASH
   ⟨0xA002, 0xA002, 0x03, 0x03, .blob, .const, false, 65536, 0, 0, 0, 1, false, ""⟩,  -- IDENTITY_CERT
   ⟨0xA002, 0xA002, 0x04, 0x04, .recd, .wo, false, 32, 0, 0, 0, 1, false, ""⟩,  -- ATTEST_NONCE
   ⟨0xA002, 0xA002, 0x05, 0x05, .blob, .ro, false, 4333, 0, 0, 0, 1, false, ""⟩,  -- ATTEST_REPORT
   ⟨0xA003, 0xA003, 0x00, 0x00, .u8, .rw, true, 1, 0, 0, 16, 1, false, ""⟩,  -- OPERATOR_KEY_COUNT
   ⟨0xA003, 0xA003, 0x01, 0x10, .recd, .rw, true, 48, 0, 0, 0, 1, false, ""⟩,  -- OPERATOR_KEY_n
   ⟨0xA004, 0xA004, 0x01, 0x01, .u32, .rw, true, 4, 100, 10, 1000, 1, false, "ms"⟩,  -- WDT_PERIOD
   ⟨0xA004, 0xA004, 0x02, 0x02, .u32, .ro, false, 4, 0, 0, 4294967295, 1, false, ""⟩]  -- WDT_EXPIRIES

/-- Objects 0xB000-0xBFFF. -/
def camps : List ObjRow :=
  [⟨0xB000, 0xB000, 0x01, 0x01, .u8, .ro, false, 1, 254, 0, 255, 1, false, ""⟩,  -- ACTIVE_SLOT
   ⟨0xB000, 0xB000, 0x02, 0x02, .u8, .ro, false, 1, 0, 0, 255, 1, false, ""⟩,  -- ACTIVE_KIND
   ⟨0xB000, 0xB000, 0x03, 0x03, .u8, .rw, false, 1, 255, 0, 255, 1, false, ""⟩,  -- SWITCH_SLOT
   ⟨0xB000, 0xB000, 0x04, 0x04, .time64, .rw, false, 8, 0, 0, 18446744073709551615, 1, false, "ns"⟩,  -- SWITCH_TICK
   ⟨0xB000, 0xB000, 0x05, 0x05, .recd, .ro, false, 16, 0, 0, 0, 1, false, ""⟩,  -- SWITCH_STATUS
   ⟨0xB000, 0xB000, 0x06, 0x06, .u32, .rw, true, 4, 1000, 100, 100000, 1, false, "us"⟩,  -- CAMP_LEAD
   ⟨0xB000, 0xB000, 0x07, 0x07, .u8, .rw, true, 1, 254, 0, 255, 1, false, ""⟩,  -- BOOT_SLOT
   ⟨0xB000, 0xB000, 0x08, 0x08, .u32, .ro, false, 4, 0, 0, 4294967295, 1, false, ""⟩,  -- SWITCHES
   ⟨0xB010, 0xB010, 0x00, 0x0F, .blob, .rw, true, 8256, 0, 0, 0, 1, false, ""⟩,  -- CAMP_n
   ⟨0xB011, 0xB011, 0x00, 0x0F, .recd, .ro, false, 8, 0, 0, 0, 1, false, ""⟩,  -- CAMP_INFO_n
   ⟨0xB020, 0xB020, 0x01, 0x01, .u8, .rw, true, 1, 1, 0, 2, 1, false, ""⟩,  -- TIME_OUT_OWNER
   ⟨0xB020, 0xB020, 0x02, 0x02, .u8, .rw, true, 1, 8, 2, 14, 1, true, "comparators"⟩,  -- HOLD_SHARE_H0
   ⟨0xB020, 0xB020, 0x03, 0x03, .u8, .rw, true, 1, 8, 2, 14, 1, true, "comparators"⟩,  -- HOLD_SHARE_H1
   ⟨0xB020, 0xB020, 0x04, 0x04, .u8, .rw, true, 1, 1, 1, 2, 1, true, ""⟩,  -- ROPE_STORE_OWNER
   ⟨0xB021, 0xB021, 0x00, 0x3F, .u8, .rw, true, 1, 1, 0, 2, 1, true, ""⟩,  -- LINK_ROLE
   ⟨0xB022, 0xB022, 0x00, 0xBF, .u8, .rw, true, 1, 0, 0, 1, 1, true, ""⟩]  -- CORE_PARTITION

/-- The object table. -/
def table : List ObjRow :=
  identity ++ time ++ power ++ cores ++ memory ++ fabric ++ rope ++ training ++ faults ++ security ++ camps

end Objects

/-- The key of an object in the dictionary's stores: INDEX × 256 + SUB. -/
def okey (idx sub : Nat) : Nat := idx * 256 + sub

/-- The row of the object table that defines an object, if one does (R391). -/
def objRow (k : Nat) : Option ObjRow :=
  Objects.table.find? fun r =>
    decide (r.idx ≤ k / 256) && decide (k / 256 ≤ r.idxLast) && decide (r.lo ≤ k % 256) && decide (k % 256 ≤ r.hi)

/-- The default of a LINK_MAP entry (R93): a four-dimension hall. -/
def defaultLinkMap (n : Nat) : Nat :=
  if n % 16 = 15 then 0 else 256 + 64 * (n / 16) + 4 * (n % 16 + 1)

/-- The default of an object: the Default column of its table (R405). -/
def objDefault (k : Nat) : Nat :=
  if k / 256 = 0x6001 then defaultLinkMap (k % 256)
  else if k / 256 = 0xB021 then (if k % 256 % 16 = 15 then 2 else 1)
  else match objRow k with
    | some r => r.dflt
    | none => 0

end Sys2Proof
end

