-- ==== Sys2Proof/Machine/FabricState.lean ====
section
/-!
DEFINITION. The state of links, junctions and flow contexts (chapter 04).
-/

namespace Sys2Proof.Machine

/-- A packet that waits in a junction for an output link (R97, R98, R100). -/
structure Queued where
  /-- The input port of the link's H-die by which it came. -/
  port : Nat
  /-- This module originates it. -/
  own : Bool
  /-- A hold or resume message, ahead of all other VC0 traffic (R83). -/
  first : Bool
  /-- Credit for its flits at the next input is already taken. -/
  paid : Bool
  /-- The VC whose buffer of the input port holds it; none: no buffer does. -/
  buf : Option Nat
  p : Packet
  deriving DecidableEq, Repr

/-- A packet that waits for a hop: at its input port's buffer, or, where that has no room, at the unit that sends it. -/
structure Waiting where
  die : Nat
  port : Nat
  own : Bool
  /-- It lies in the buffer of its input port. -/
  buffered : Bool
  /-- It has waited ESCAPE_WAIT and moves to VC4 once that has credit (R102). -/
  escaping : Bool
  p : Packet
  /-- Hall time (ns) since which it waits. -/
  since : Nat
  deriving DecidableEq, Repr

/-- One link (R93-R100). LINK_STATE, LANES_IN_SERVICE and the counts are objects of the dictionary. -/
structure LinkSt where
  /-- Packets for this link, VC0 to VC4, oldest first. -/
  queue : List Queued
  /-- Flits of credit at the partner, VC0 to VC4 (R98). -/
  credits : List Nat
  /-- Flits of credit, VC0 to VC4, that this module has still to return to the partner (R99). -/
  owed : List Nat
  /-- The packet being sent and its flits still to go. -/
  sending : Option (Queued × Nat)
  /-- Packets sent in the current run of 16, and whether VC2 and VC3 had theirs (R100). -/
  run : Nat
  had2 : Bool
  had3 : Bool
  /-- Hall time (ns) of the last slot of originated VC0. -/
  lastVc0 : Option Nat
  /-- The lane in relock. -/
  relock : Option Nat
  /-- Training in place after a loss; what the partner said of it. -/
  retraining : Bool
  /-- The link is permanently lost until module warm reset (R422). -/
  permanent : Bool
  /-- SEQ of the hold that the link's recovery resumes (R429). -/
  holdSeq : Option Nat
  /-- Timed slots that are still to be discarded for an uncorrectable codeword (R96). -/
  badSlots : Nat
  /-- Hall times (ns) of transients, per lane and of the link (R422). -/
  laneTransients : List (Nat × Nat)
  linkTransients : List Nat
  deriving DecidableEq, Repr

/-- The buffers of R98, in flits. -/
def fullCredits : List Nat := [32, 384, 384, 512, 288]

def LinkSt.reset : LinkSt :=
  ⟨[], [0, 0, 0, 0, 0], [0, 0, 0, 0, 0], none, 0, false, false, none, none, false, false, none, 0, [], []⟩

/-- STATE of a flow context (R107). -/
inductive FlowState where
  | free | opened | broken
  deriving DecidableEq, Repr

/-- A flow context (R107). Its layout is `Flow.image`. -/
structure Flow where
  state : FlowState
  peerModule : BitVec 16
  peerContext : BitVec 18
  stageKey : BitVec 8
  owner : BitVec 16
  leaseEnd : BitVec 48
  reqVc : BitVec 2
  ordered : Bool
  txSeq : BitVec 32
  rxNext : BitVec 32
  outstanding : BitVec 16
  outLimit : BitVec 16
  respReserved : BitVec 24
  ringBase : BitVec 41
  ringLog2 : BitVec 5
  ringHead : BitVec 24
  ringTail : BitVec 24
  notifyMode : BitVec 2
  notifyCore : BitVec 8
  notifySem : BitVec 8
  msixVector : BitVec 11
  error : BitVec 8
  /-- none: the reset value, RESP_TIMEOUT_DEFAULT. -/
  respTimeout : Option (BitVec 16)
  deriving DecidableEq, Repr

def Flow.reset : Flow :=
  ⟨.free, 0, 0, 0, 0, 0, 0, false, 0, 0, 0, 0, 0, 0, 0, 0, 0, 0, 0, 0, 0, 0, none⟩

/-- The unit that waits for a request's response. -/
inductive Issuer where
  /-- Mover `m`, and the destination of the bytes that a READ returns: address and count. -/
  | mover (m : Nat) (dst count : Nat)
  /-- An update engine that copies a block from a replica (R316). -/
  | repair
  /-- A unit that needs nothing of the response. -/
  | other
  deriving DecidableEq, Repr

/-- A request that waits to enter the fabric or waits for its response (R110). -/
structure Request where
  ctx : FlowId
  op : Nat
  addr : Nat
  addrKind : Nat
  length : Nat
  data : List Byte
  issuer : Issuer
  /-- Set at issue: SEQ, bytes reserved, and hall time of issue (ns). -/
  seq : Nat
  bytes : Nat
  at_ : Nat
  deriving DecidableEq, Repr

/-- The junctions and the remote operations (R97-R114). -/
structure Fabric where
  /-- Packets that wait for a hop, oldest first (R98, R102). -/
  waiting : List Waiting
  /-- The VC0 receive ring, oldest first (R119). -/
  vc0Ring : List Packet
  /-- Requests that wait at their issuers, per home H-die in order, and requests in flight. -/
  waitReq : List Request
  inFlight : List Request
  /-- Flow contexts cached per H-die and set, most recent first: key H-die × 2,048 + set (R106). -/
  cache : Tbl (List Nat)
  /-- Free bytes of the response pools (R110). -/
  poolFree0 : Nat
  poolFree1 : Nat
  flows : Tbl Flow
  deriving DecidableEq, Repr

def Fabric.reset : Fabric := ⟨[], [], [], [], [], 1048576, 1048576, []⟩

end Sys2Proof.Machine
end

