-- ==== Sys2Proof/Machine/CoreState.lean ====
section
/-!
DEFINITION. The state of the cores: contexts, semaphores, queues, frames, gatherer, movers and
translation caches (chapters 05, 07, 08 and 09).
-/

namespace Sys2Proof.Machine

/-- The state of a context (R183). -/
inductive CtxStatus where
  | idle | ready | waiting | parkedT | atFence | stopped | faulted
  deriving DecidableEq, Repr

/-- An entry of the loop stack (R191): the body's first slot and the slot after its last, the
iterations left after this one, the index register and the iteration number. -/
structure LoopFrame where
  first : Nat
  last : Nat
  left : Nat
  reg : Nat
  iter : Nat
  deriving DecidableEq, Repr

/-- One accepted pass or gathered request, decoded from its record (R194), addresses in bytes. -/
structure PassRec where
  version : Nat
  aFmt : Nat
  wFmt : Nat
  aScaled : Bool
  wScaled : Bool
  sat : Bool
  accumulate : Bool
  wb : Bool
  flush : Bool
  m : Nat
  t : Nat
  kValid : Nat
  accBase : Nat
  doneSem : Nat
  tag : Nat
  aAddr : Nat
  aRow : Nat
  aTile : Nat
  wAddr : Nat
  wTile : Nat
  rAddr : Nat
  rRow : Nat
  rowMask : Option Nat
  colMask : Nat
  deriving DecidableEq, Repr

/-- A request of a gathered pass: the context that made it and its record (R144). -/
structure GatherReq where
  ctx : Nat
  rec_ : PassRec
  deriving DecidableEq, Repr

/-- An item of the pass queue: one MM, or a gathered pass of its requests (R147). -/
structure PassItem where
  /-- The issuing context; none for a gathered pass. -/
  ctx : Option Nat
  rec_ : PassRec
  reqs : List GatherReq
  deriving DecidableEq, Repr

/-- A group of the gatherer (R145). GATHER_FILL and GATHER_HOLD are those in force when it opened. -/
structure Group where
  reqs : List GatherReq
  rows : Nat
  first : Nat
  fill : Nat
  hold : Nat
  /-- Ready by FLUSH, or by its hold's expiry; chosen to start, and then it takes no more rows. -/
  flush : Bool
  expired : Bool
  chosen : Bool
  deriving DecidableEq, Repr

/-- A tally delta (R300): tag, format (0 for a reduce unit) and outcome counts. -/
structure Delta where
  tag : Nat
  fmt : Nat
  total : Nat
  zero : Nat
  vanished : Nat
  saturated : Nat
  inf : Nat
  nan : Nat
  /-- Bytes that CAPACITY windows dropped (R75). -/
  dropped : Nat
  /-- Values per exponent bin of the histogram. -/
  hist : Tbl Nat
  deriving DecidableEq, Repr

/-- The pass in the frames: the next tile to load, what it will write back (result-store offset and
bytes) once every tile is done, its tally deltas, its cycles (R137), the row mask as read at the first broadcast (R142), and the slot whose corruption stalls
it (R262). -/
structure Running where
  item : PassItem
  tile : Nat
  writes : List (Nat × List Byte)
  deltas : List Delta
  cycles : Nat
  mask : Nat
  corrupt : Option Nat
  deriving DecidableEq, Repr

/-- An item of the vector queue (R195), its operand addresses resolved at issue. -/
structure VecItem where
  ctx : Nat
  /-- Opcode and version of R190. -/
  op : Nat
  version : Nat
  dstFmt : Nat
  srcFmt : Nat
  dst : Nat
  a : Nat
  b : Nat
  c : Nat
  len : Nat
  rows : Nat
  round : Nat
  sat : Bool
  bcast : Bool
  block : Bool
  scale : Nat
  tag : Nat
  idxBase : Nat
  doneSem : Nat
  deriving DecidableEq, Repr

/-- A descriptor in a mover's queue (R218), with its scratch address and the 128 bytes read at issue. -/
structure MovItem where
  ctx : Nat
  addr : Nat
  key : BitVec 8
  doneSem : Nat
  desc : BitVec 1024
  deriving DecidableEq, Repr

/-- Why a context does not issue. -/
inductive Wait where
  | none
  /-- SEM.WAIT for `n` of semaphore `sem`, waiting since `since` (hall time, ns) or the last post. -/
  | sem (sem n since : Nat)
  | waitQ (mask : Nat)
  | waitT (target : Nat)
  /-- Stalled on a full queue with its item (R184). -/
  | pass (p : PassRec)
  | gather (p : PassRec) (since : Nat)
  | vec (v : VecItem)
  | mov (out : Bool) (m : MovItem)
  | streamMiss
  /-- TAL.RD of a tag to a scratch offset (R301), with the deltas that must be applied first. -/
  | tally (tag addr ahead : Nat)
  deriving DecidableEq, Repr

/-- One context (R182). S0 and P0 are never stored. -/
structure CtxSt where
  regs : Vector (BitVec 64) 16
  preds : BitVec 8
  pc : BitVec 44
  stream : Bool
  loops : List LoopFrame
  stageKey : BitVec 8
  status : CtxStatus
  cause : BitVec 8
  wait : Wait
  /-- Hall time (ns) of the last advance of the pace counter. -/
  pace : Nat
  /-- Since the fence: SEM.POSTs to other cores, and MOV.X issues per mover (R205). -/
  posts : Nat
  movs0 : Nat
  movs1 : Nat
  /-- Descriptors completed since the fence, per mover (R425). -/
  done0 : Nat
  done1 : Nat
  /-- Issues still to suppress in a re-run (R207). -/
  skipPosts : Nat
  skipMovs : Nat
  /-- The stream ring: 16-byte unit number of its first instruction, and the instructions held. -/
  ringLo : Nat
  ring : List (BitVec 128)
  deriving DecidableEq, Repr

def CtxSt.reset : CtxSt where
  regs := Vector.replicate 16 0
  preds := 0
  pc := 0
  stream := false
  loops := []
  stageKey := 0
  status := .idle
  cause := 0
  wait := .none
  pace := 0
  posts := 0
  movs0 := 0
  movs1 := 0
  done0 := 0
  done1 := 0
  skipPosts := 0
  skipMovs := 0
  ringLo := 0
  ring := []

/-- A semaphore (R200), with its counts since the fence (R205). -/
structure SemSt where
  count : BitVec 16
  broken : Bool
  producer : BitVec 16
  lease : BitVec 16
  innerPosts : Nat
  innerTakes : Nat
  deriving DecidableEq, Repr

def SemSt.reset : SemSt := ⟨0, false, 0, 0, 0, 0⟩

/-- A context as the replay record keeps it (R205). -/
structure ReplayCtx where
  status : CtxStatus
  stream : Bool
  pc : BitVec 44
  regs : Vector (BitVec 64) 16
  preds : BitVec 8
  loops : List LoopFrame
  stageKey : BitVec 8
  deriving DecidableEq, Repr

/-- A page of the translation cache (R239). -/
structure TcEntry where
  va : Nat
  size : Nat
  pa : Nat
  read : Bool
  write : Bool
  deriving DecidableEq, Repr

/-- Clocking of a core (R371, R372). -/
inductive CorePower where
  | awake
  /-- SLEEP_CORE accepted; the clock gates when the queues have drained. -/
  | draining
  | asleep
  | waking
  deriving DecidableEq, Repr

/-- One core. -/
structure CoreSt where
  /-- The weight registers (R122): bank in use, and the bytes of banks A and B; empty: none. -/
  bankB : Bool
  bankABytes : List Byte
  bankBBytes : List Byte
  passQ : List PassItem
  running : Option Running
  groups : Tbl (Option Group)
  vecQ : List VecItem
  /-- Frames gated by the power manager, and the pass suspended by it (R151). -/
  gated : Bool
  suspended : Bool
  power : CorePower
  /-- Posts that wait for the wake: semaphore, count (R203). -/
  latePosts : List (Nat × Nat)
  /-- A scale-word write that waits for the wake (R308). -/
  lateScale : Bool
  /-- The replay record; empty: no fence has formed since the contexts started (R205). -/
  replay : List ReplayCtx
  /-- Schedule time of the last fence, later by the time since in which every context was PARKED_T or IDLE; since when
all are; and whether the interval has been counted (R206). -/
  fenceAt : Option Nat
  parkedAt : Option Nat
  overrun : Bool
  /-- A re-run is in progress (R207), and the one context that may issue (R213). -/
  rerun : Bool
  isolate : Option Nat
  suppressedPosts : Nat
  suppressedMovs : Nat
  /-- The translation cache, most recently used first, at most 256 (R239). -/
  tcache : List TcEntry
  /-- Hall time (ns) at which the last wake began (R371). -/
  wakeAt : Nat
  /-- The last choice of R101 among the contexts (0), and among those that wait for the pass queue (1), a group slot (2),
  the vector queue (3), the in-mover (4) or the out-mover (5): its interval of 5 ns plus 1, and who won. -/
  turns : Tbl (Nat × Nat)
  deriving DecidableEq, Repr

def CoreSt.reset : CoreSt where
  bankB := false
  bankABytes := []
  bankBBytes := []
  passQ := []
  running := none
  groups := []
  vecQ := []
  gated := false
  suspended := false
  power := .awake
  latePosts := []
  lateScale := false
  replay := []
  fenceAt := none
  parkedAt := none
  overrun := false
  rerun := false
  isolate := none
  suppressedPosts := 0
  suppressedMovs := 0
  tcache := []
  wakeAt := 0
  turns := []

/-- A slot that a coded move or a compressor writes (R259): in memory, or in the weight store; its first
byte's key, its bytes, and its map byte with its key. -/
structure SlotWrite where
  toMem : Bool
  at_ : Nat
  bytes : List Byte
  mapAt : Nat
  map : Byte
  deriving DecidableEq, Repr

/-- The descriptor a mover runs. -/
structure MovRun where
  item : MovItem
  /-- Pages resolved for it, and the 64 KiB units (address / 65,536) that still need a walk (R239). -/
  xlat : List TcEntry
  need : List Nat
  /-- Its accesses have been translated and its reads made. -/
  moved : Bool
  /-- Remote requests still to be answered. -/
  remaining : Nat
  /-- A run-time fault: code of R246 and address. -/
  fault : Option (Nat × Nat)
  /-- A slot whose check failed once and is to be read again (R263). -/
  retry : Bool
  /-- Bytes to write, by device address and by store key; they land when the descriptor completes. -/
  memWrites : List (Nat × Byte)
  storeWrites : List (Nat × Byte)
  slots : List SlotWrite
  /-- Remote requests still to be made, each after the answer to the one before it: under ALIAS_OK (R227). -/
  later : List Request
  deriving DecidableEq, Repr

/-- One mover (R217). -/
structure MoverSt where
  queue : List MovItem
  run : Option MovRun
  pace : Nat
  deriving DecidableEq, Repr

def MoverSt.reset : MoverSt := ⟨[], none, 0⟩

end Sys2Proof.Machine
end

