-- ==== Sys2Proof/Machine/DictState.lean ====
section
/-!
DEFINITION. The state of the dictionary, its sessions and camps (chapter 15), and of the fault
handling and the cairn log (chapter 16).
-/

namespace Sys2Proof.Machine

/-- A DXP response as the module keeps and sends it (R399). -/
structure DxpReply where
  header : BitVec 256
  data : List Byte
  deriving DecidableEq, Repr

/-- A DXP session (R397). -/
structure Session where
  transport : Fin 4
  source : Nat
  number : Nat
  write : Bool
  /-- The highest SEQ seen. -/
  high : Option Nat
  /-- The last 64 responses, newest first (R401). -/
  kept : List (Nat × DxpReply)
  /-- Hall time (ns) of the last message. -/
  last : Nat
  /-- Keys and salts of R398, requests then responses; empty on an unencrypted transport. -/
  keyIn : List Byte
  keyOut : List Byte
  /-- SHA3-384 of the operator key that gave write access (R467). -/
  operator : List Byte
  deriving DecidableEq, Repr

/-- A camp image being staged (R497): slot, session, bytes so far. -/
structure CampStaging where
  slot : Nat
  session : Nat
  bytes : List Byte
  deriving DecidableEq, Repr

/-- A write of flash in progress whose response is still to come (R401, R405). -/
structure PersistJob where
  session : Nat
  transport : Fin 4
  source : Nat
  header : BitVec 256
  key : Nat
  value : Nat
  bytes : List Byte
  deriving DecidableEq, Repr

/-- A request the module has sent over VC0 (R314, R401). -/
structure OwnRequest where
  seq : Nat
  dst : Nat
  /-- The session it uses, once HELLO_ACK has given it. -/
  session : Option Nat
  header : BitVec 256
  data : List Byte
  attempts : Nat
  /-- Hall time (ns) of the last sending. -/
  sentAt : Nat
  deriving DecidableEq, Repr

/-- The dictionary (R391-R415).  A scalar object is kept as its bit pattern, keyed index × 256 + sub;
`none` is its default. -/
structure Dict where
  objs : Tbl (Option Nat)
  base : Tbl (Option Nat)
  /-- STR, BLOB and REC objects that are written whole. -/
  recs : Tbl (List Byte)
  baseRecs : Tbl (List Byte)
  /-- Camp images; an empty one is not valid (R408). -/
  camps : Tbl (List Byte)
  /-- The entries of the active camp as it took effect: object, value (R405). -/
  overlay : List (Nat × Nat)
  staging : List CampStaging
  sessions : List Session
  /-- The next session number. -/
  nextSession : Nat
  /-- Pieces of a management-port HELLO (R398): source, header of its first piece, and bytes so far. -/
  hellos : List (Nat × BitVec 256 × List Byte)
  groupKey : Option (List Byte × List Byte)
  groupSeq : Option Nat
  persist : List PersistJob
  /-- Requests that wait behind a PERSIST write. -/
  waiting : List DxpMsg
  ownRequests : List OwnRequest
  ownSeq : Nat
  deriving DecidableEq, Repr

def Dict.reset : Dict :=
  ⟨[], [], [], [], [], [], [], [], 1, [], none, none, [], [], [], 0⟩

/-- A cairn subscription (R441). -/
structure Stream where
  session : Nat
  minSeverity : Nat
  mask : Nat
  /-- SEQ of the SUBSCRIBE request, which the records' messages carry. -/
  request : Nat
  /-- SEQ of the next record to look at. -/
  next : Nat
  deriving DecidableEq, Repr

/-- The recovery of a core in progress (R423-R428). -/
structure Recovery where
  cause : Nat
  /-- SEQ of the hold that the recovery resumes. -/
  holdSeq : Nat
  /-- The mover reset before the replay (R425). -/
  mover : Option (Fin 2)
  /-- Replayed: the contexts have been restored and run again. -/
  replayed : Bool
  /-- Suspects still to be isolated, ascending, and the one that runs (R427). -/
  suspects : List Nat
  isolated : Option Nat
  deriving DecidableEq, Repr

/-- The fault handling (R417-R443). -/
structure Faults where
  /-- The cairn ring, newest first, at most 8,192 records (R437). -/
  ring : List (BitVec 256)
  streams : Tbl (Option Stream)
  /-- Hall times (ns) of the counted resets (R434). -/
  resets : List Nat
  recovery : Tbl (Option Recovery)
  /-- Cores recovered since their last fence, and those that failed permanently. -/
  recovered : List Nat
  deadCores : List Nat
  /-- Rope sessions: resets (session, hall time in ns) and retirements (R422). -/
  sessResets : List (Nat × Nat)
  deadSessions : List Nat
  /-- Snapshots, newest first, at most four, each as the items it holds (R424). -/
  snapshots : List (List (List Byte))
  /-- Dies (0-3 C-die, 4-5 H-die) and management processors in reset. -/
  diesDown : List Nat
  mpsDown : List Nat
  deriving DecidableEq, Repr

def Faults.reset : Faults := ⟨[], [], [], [], [], [], [], [], [], [], []⟩

end Sys2Proof.Machine
end

