-- ==== Sys2Proof/Machine/HostState.lean ====
section
/-!
DEFINITION. The state of memory stacks, power, the host port, boot and security (chapters 13, 14, 17
and 19).
-/

namespace Sys2Proof.Machine

/-- The job in force (R453). -/
structure Job where
  loaded : Bool
  /-- GATHER_ENABLE, SR_ENABLE, HIST_BASE and HIST_WIDTH as read at job load. -/
  gather : Bool
  sr : Bool
  histBase : Int
  histWidth : Nat
  clockMhz : Nat
  deriving DecidableEq, Repr

def Job.reset : Job := ⟨false, true, true, -32, 2, 1050⟩

/-- The supply and the power manager (R369-R390). Voltages in mV, currents in mA, power in mW. -/
structure Supply where
  mv : Nat
  ma : Nat
  /-- Usable energy of the hold-up bank, in mJ (R383). -/
  bank : Nat
  /-- The input stage draws from the busbar (R382). -/
  connected : Bool
  /-- Hall times (ns) since when the input is below BRACE_V, at or above BRACE_RELEASE_V, above 60 V,
  at or below 60 V. -/
  belowSince : Option Nat
  releaseSince : Option Nat
  overSince : Option Nat
  okSince : Option Nat
  lowLine : Bool
  surge : Bool
  /-- A dip is declared (R383). -/
  dip : Bool
  /-- A brace is in force; the load cut is in force, or waits for the hold tick; it is the governor's. -/
  brace : Bool
  cut : Bool
  cutPending : Bool
  governor : Bool
  /-- The dip began, or is being carried, with the bank below half of its energy. -/
  lowBank : Bool
  /-- SEQ of the holds that the brace and the governor resume. -/
  holdSeq : Option Nat
  govSeq : Option Nat
  /-- The cut has lifted and the draw rises toward the envelope (R385). -/
  restoring : Bool
  /-- Hall time (ns) since when the governor's cause has been clear. -/
  clearSince : Option Nat
  /-- Governor trips of the last 600 s (R381). -/
  trips : List Nat
  /-- Input power of the latest samples in mW, newest first, at most 1,000 (R388). -/
  samples : List Nat
  /-- The working envelope, the part of it that floor and target make, and the ballast in force, in mW (R378). -/
  envelope : Nat
  raised : Nat
  ballast : Nat
  /-- The target in force, the one that waits for its tick, and the last write (R379), in W. -/
  target : Nat
  nextTarget : Option (Nat × Nat)
  targetAt : Option Nat
  /-- Every domain runs from the internal oscillator (R370). -/
  refLost : Bool
  /-- Hall time (ns) at which a die began to wake (R372); the module wakes from module bivouac (R373). -/
  dieWakes : Tbl Nat
  bivouacWaking : Bool
  /-- Temperatures in degrees: dies, stacks, lid (R489); the sensors (0-5 dies, 6-37 stacks) that have a warning,
  and those that hold a trip. -/
  dieTemps : List Int
  stackTemps : List Int
  lidTemp : Int
  warned : List Nat
  coolSince : Option Nat
  tripped : List Nat
  /-- Energy since power-on in nJ, and the highest sample in mW since the last read (R388). -/
  energy : Nat
  peak : Nat
  /-- Delivered W of each load of R30, at the latest sample of them. -/
  loads : List Nat
  deriving DecidableEq, Repr

def Supply.reset : Supply where
  mv := 0
  ma := 0
  bank := 0
  connected := true
  belowSince := none
  releaseSince := none
  overSince := none
  okSince := none
  lowLine := false
  surge := false
  dip := false
  brace := false
  cut := false
  cutPending := false
  governor := false
  lowBank := false
  holdSeq := none
  govSeq := none
  restoring := false
  clearSince := none
  trips := []
  samples := []
  envelope := 0
  raised := 0
  ballast := 0
  target := 0
  nextTarget := none
  targetAt := none
  refLost := false
  dieWakes := []
  bivouacWaking := false
  dieTemps := []
  stackTemps := []
  lidTemp := 0
  warned := []
  coolSince := none
  tripped := []
  energy := 0
  peak := 0
  loads := []

/-- A pseudo-channel (R360, R367): its counts, STATE (0 in service, 1 pending, 2 migrating, 3 retired), and
the hall time (ns) of its last event 0x5001. -/
structure PcErr where
  corrected : Nat
  retried : Nat
  poisoned : Nat
  state : Nat
  loggedAt : Option Nat
  deriving DecidableEq, Repr

def PcErr.reset : PcErr := ⟨0, 0, 0, 0, none⟩

/-- The memory system beside its contents (R354-R365).  A pseudo-channel is numbered stack × 64 +
channel × 2 + pseudo-channel. -/
structure MemCtl where
  pcs : Tbl PcErr
  /-- Retries and corrections: pseudo-channel, hall time (ns). -/
  retries : List (Nat × Nat)
  corrections : List (Nat × Nat)
  /-- Retirement records, ascending; flash keeps them (R422). -/
  retired : List Nat
  /-- Pseudo-channels that migrate, oldest first (R364). -/
  migrating : List Nat
  /-- Stacks trained, and those that failed training. -/
  trained : List Nat
  failed : List Nat
  /-- The interleave mode in force of regions 1-3 (R356). -/
  modes : List Nat
  deriving DecidableEq, Repr

def MemCtl.reset : MemCtl := ⟨[], [], [], [], [], [], [], [0, 0, 0]⟩

/-- Boot, images, measurement and attestation (R457-R467).  Flash keeps the slots, images, boot count,
floors and keys. -/
structure Boot where
  /-- Power-good has been asserted. -/
  good : Bool
  /-- The boot stage in progress, 0-3; 4: READY. -/
  stage : Nat
  cold : Bool
  /-- Both slots of a kind have failed (R458). -/
  failed : Bool
  /-- Slots 0 A, 1 B: running and active, of the first stage and the bundle. -/
  runFirst : Nat
  runBundle : Nat
  activeFirst : Nat
  activeBundle : Nat
  trialBundle : Bool
  /-- The next boot uses the bundle slot that is not active (R458). -/
  otherBundle : Bool
  /-- The other first-stage slot has been tried in this boot. -/
  triedFirst : Bool
  /-- BOOT_COUNT (0xA000.03). -/
  count : Nat
  /-- Images in flash: 0, 1 first stage A and B; 2, 3 bundle A and B.  Empty: as delivered. -/
  images : Tbl (List Byte)
  /-- Fused SVN floor by KIND (R461). -/
  floors : Tbl Nat
  /-- Bytes 0-2,047 of the headers of the running first stage and bundle images. -/
  firstHeader : List Byte
  bundleHeaders : List (List Byte)
  /-- M0-M7, and the measurement log, oldest first (R462). -/
  measures : List (List Byte)
  log : List (List Byte)
  /-- FW_STAGING: owner, bytes, and the end of what has been written (R466). -/
  owner : Option Nat
  staging : Tbl Byte
  stagingEnd : Nat
  /-- An install under way: KIND and the image; and FW_STATUS: state, KIND, rule. -/
  install : Option (Nat × List Byte)
  fwState : Nat × Nat × Nat
  /-- ATTEST_REPORT by session (R464). -/
  reports : Tbl (List Byte)
  /-- JOB_ID and the manifest's digest of the job in force. -/
  jobId : Nat
  /-- Hall time (ns) that counts as power-good: steps of the counter move it (UPTIME, 0x1000.07). -/
  since : Int
  /-- SMB_ALERT_N is asserted (R486). -/
  alert : Bool
  /-- The reset that RESET_REQUEST has asked for: 1 warm, 2 cold (R466). -/
  asked : Nat
  deriving DecidableEq, Repr

def Boot.reset : Boot where
  good := true
  stage := 0
  cold := true
  failed := false
  runFirst := 0
  runBundle := 0
  activeFirst := 0
  activeBundle := 0
  trialBundle := false
  otherBundle := false
  triedFirst := false
  count := 0
  images := []
  floors := []
  firstHeader := []
  bundleHeaders := []
  measures := List.replicate 8 (List.replicate 48 0)
  log := []
  owner := none
  staging := []
  stagingEnd := 0
  install := none
  fwState := (0, 0, 0)
  reports := []
  jobId := 0
  since := 0
  alert := false
  asked := 0

/-- The host port (R444-R456). -/
structure HostPort where
  /-- The link has begun training since PERST# (R444). -/
  linkUp : Bool
  cmdTail : Nat
  cmdHead : Nat
  cplTail : Nat
  cplHead : Nat
  mboxStatus : Nat
  windowBase : Nat
  /-- PHASE of the next completion entry (R451). -/
  phase : Bool
  /-- The command ring, the completion ring, and the mailbox buffers. -/
  commands : Tbl (BitVec 512)
  completions : Tbl (BitVec 256)
  mboxRequest : List Byte
  mboxResponse : List Byte
  /-- Hall time latched for the high word of the status page (R447). -/
  timeLatch : Nat
  /-- Vectors that are not masked, and those whose pending bit is set (R445, R456). -/
  unmasked : Tbl Bool
  pendingBits : Tbl Bool
  /-- Contexts started by CTX_START: 8 × core + context. -/
  started : List Nat
  /-- IDE keys: stream × 256 + slot (R445). -/
  ideKeys : Tbl (List Byte)
  deriving DecidableEq, Repr

def HostPort.reset : HostPort where
  linkUp := false
  cmdTail := 0
  cmdHead := 0
  cplTail := 0
  cplHead := 0
  mboxStatus := 0
  windowBase := 0
  phase := true
  commands := []
  completions := []
  mboxRequest := []
  mboxResponse := []
  timeLatch := 0
  unmasked := []
  pendingBits := []
  started := []
  ideKeys := []

end Sys2Proof.Machine
end

