-- ==== Sys2Proof/Machine/RopeState.lean ====
section
/-!
DEFINITION. The state of the rope tier (chapter 12): sessions, peers, rounds and the rope store.
The rope record, its histograms and cursors lie in memory.
-/

namespace Sys2Proof.Machine

/-- A frame that a stripe sends (R331): its content; its SEQ, epoch and hall time (ns) of the last
sending. -/
structure OutFrame where
  kind : Nat
  round : Nat
  engine : Nat
  slot : Nat
  item : Nat
  body : List Byte
  seq : Nat
  epoch : Nat
  sentAt : Nat
  /-- It waits to be sent again. -/
  due : Bool := false
  deriving DecidableEq, Repr

/-- The keys of one epoch of a stripe: 32-byte keys and 4-byte salts (R339). -/
structure KeyEpoch where
  number : Nat
  keyOut : List Byte
  saltOut : List Byte
  keyIn : List Byte
  saltIn : List Byte
  deriving DecidableEq, Repr

def KeyEpoch.none : KeyEpoch := ⟨0, [], [], [], []⟩

/-- STATE of a session (R352). -/
inductive SessState where
  | closed | opening | opened | slack
  deriving DecidableEq, Repr

/-- A stripe (R336-R341). -/
structure RopeSess where
  state : SessState
  cur : KeyEpoch
  /-- The previous epoch, as the sender and as the receiver still hold it (R341). -/
  prevOut : Option KeyEpoch
  prevIn : Option KeyEpoch
  /-- An agreed epoch, used for first sends from this SEQ on (R340). -/
  next : Option (KeyEpoch × Nat)
  /-- The switch SEQ that the peer gave for its sends. -/
  peerSwitch : Option Nat
  nonce : Nat
  txSeq : Nat
  cumOut : Nat
  window : Nat
  /-- Frames not yet sent, and frames sent and not acknowledged, oldest first. -/
  queue : List OutFrame
  unacked : List OutFrame
  rxCum : Nat
  /-- SEQs received at or beyond `rxCum`. -/
  rxHave : List Nat
  /-- Smoothed round-trip time in ns. -/
  srtt : Nat
  /-- TIME_US of the newest frame received, its arrival (ns); frames not yet reported and since when. -/
  newest : Nat
  newestAt : Nat
  /-- The peer's TAI_VALID, its hall time less this module's in µs as the round trips give it, and the own hall time (µs) at
  which the newest frame was sent (R53). -/
  peerTai : Bool
  offset : Int
  sentUs : Int
  /-- Hall time (ns) of the last PROBE. -/
  probedAt : Option Nat
  unreported : Nat
  since : Option Nat
  /-- SACKs and probes to send: kind and body. -/
  urgent : List (Nat × List Byte)
  pace : Nat
  deriving DecidableEq, Repr

def RopeSess.reset : RopeSess where
  state := .closed
  cur := .none
  prevOut := none
  prevIn := none
  next := none
  peerSwitch := none
  nonce := 0
  txSeq := 0
  cumOut := 0
  window := 0
  queue := []
  unacked := []
  rxCum := 0
  rxHave := []
  srtt := 1000000
  newest := 0
  newestAt := 0
  peerTai := false
  offset := 0
  sentUs := 0
  probedAt := none
  unreported := 0
  since := none
  urgent := []
  pace := 0

/-- A handshake or rekey that this module has begun: its secret key and the frame it sent. -/
structure Handshake where
  secret : List Byte
  sent : List Byte
  switches : List Nat
  deriving DecidableEq, Repr

/-- What the leader knows of a peer site. -/
structure RopePeer where
  opening : Option Handshake
  /-- Hall time (ns) of the last OPEN. -/
  triedAt : Option Nat
  /-- A PROBE has been answered, and the sessions are to be opened again (R346). -/
  answered : Bool
  /-- Stripes and window agreed. -/
  stripes : Nat
  window : Nat
  epochAt : Nat
  rekey : Option Handshake
  rekeyDue : Bool
  /-- Round of the newest ROUND_INFO. -/
  lastInfo : Option Nat
  /-- Bytes in the token bucket (R338), and when it was filled (ns). -/
  tokens : Nat
  tokensAt : Nat
  /-- The peer has set JOIN, or this module joins through it (R349). -/
  joining : Bool
  /-- The stripe that the next DELTA frame goes to. -/
  turn : Nat
  /-- The peer's identity key, as its handshake gave it. -/
  idKey : List Byte
  deriving DecidableEq, Repr

def RopePeer.reset : RopePeer :=
  ⟨none, none, false, 0, 0, 0, none, false, none, 65536, 0, false, 0, []⟩

/-- A late delta that is held (R345): its round, and the F32 codes by module block × 16,384 + p. -/
structure HeldDelta where
  round : Nat
  vals : Tbl Nat
  deriving DecidableEq, Repr

/-- A regroup bid (R348). -/
structure Bid where
  site : Nat
  number : Nat
  participants : Nat
  round : Nat
  deriving DecidableEq, Repr

/-- The rope engines and the leader's part (R320-R351). -/
structure Rope where
  peers : Tbl RopePeer
  sess : Tbl RopeSess
  /-- Own delta streams in the rope store: area × 32 + engine (R350). -/
  streams : Tbl (List Byte)
  /-- Engines that stopped selecting in the sweep in progress (R330), and values selected in it. -/
  full : List Nat
  sent : Nat
  /-- ROUND_INFO bodies by site × 2^32 + round. -/
  infos : Tbl (List Byte)
  /-- Slots received: site, round, engine, slot. -/
  got : List (Nat × Nat × Nat × Nat)
  held : Tbl (Option HeldDelta)
  /-- The pending or last close: round, the eight weights, replica indices whose ACK has arrived, and since
  when they are awaited (ns). -/
  closeRound : Nat
  weights : List Nat
  acks : List Nat
  closingAt : Option Nat
  /-- A PREPARE that has not been answered yet. -/
  unanswered : Bool
  trigger : Bool
  /-- The highest regroup number seen, and the bid adopted. -/
  regroupSeq : Nat
  bid : Option Bid
  /-- Difference planes received: site × 2 + plane, slot. -/
  planes : List (Nat × Nat)
  /-- Slots of a belay received from the sponsor, by plane × 2^29 + slot (R349). -/
  belay : Tbl (List Byte)
  /-- Frames discarded, and duplicates (R334, R336); no object shows either. -/
  discarded : Nat
  duplicates : Nat
  /-- SPILL and gateway frames that wait for a rope port: destination site, frame. -/
  gateway : List RopeFrame
  /-- The module total bucket (R338). -/
  tokens : Nat
  tokensAt : Nat
  /-- Hall time (ns) of the job's first bank activation. -/
  activeAt : Nat
  /-- This module has joined late and no round has closed with it since (R349). -/
  joined : Bool
  deriving DecidableEq, Repr

def Rope.reset : Rope where
  peers := []
  sess := []
  streams := []
  full := []
  sent := 0
  infos := []
  got := []
  held := []
  closeRound := 0
  weights := []
  acks := []
  closingAt := none
  unanswered := false
  trigger := false
  regroupSeq := 0
  bid := none
  planes := []
  belay := []
  discarded := 0
  duplicates := 0
  gateway := []
  tokens := 65536
  tokensAt := 0
  activeAt := 0
  joined := false

end Sys2Proof.Machine
end

