-- ==== Sys2Proof/Machine/TimeState.lean ====
section
/-!
DEFINITION. The state of hall time, the timetable and the hall hold (chapters 02 and 03).

Times are hall times.  A field that counts in 1/64 ns says so; every other time is in whole ns.
-/

namespace Sys2Proof.Machine

/-- The lock states of R46. -/
inductive LockState where
  | unset | coarse | fine | locked | holdover
  deriving DecidableEq, Repr

/-- What the time unit knows of one link (R43, R44, R103). -/
structure LinkTime where
  /-- SEQ of the next symbol sent. -/
  txSeq : Nat
  /-- Symbols sent: SEQ, T_TX, and t1, t2 of the symbol that each echoes (1/64 ns); newest first. -/
  sent : List (Nat × Nat × Nat × Nat)
  /-- Whether a symbol has been received since the link came up. -/
  heard : Bool
  /-- SEQ, T_TX and arrival of the latest valid symbol (1/64 ns). -/
  rxSeq : Nat
  rxT1 : Nat
  rxAt : Nat
  /-- STATE, TIER, ROOT_INDEX and ROOT_BEAT of the latest valid symbol. -/
  state : Nat
  tier : Nat
  rootIndex : Nat
  beat : Nat
  /-- OUT_OF_SERVICE of the latest symbol, and the partner out of service (R103). -/
  oosBit : Bool
  oos : Bool
  /-- Delay samples, in 1/128 ns, newest first, at most 64. -/
  delays : List Int
  deriving DecidableEq, Repr

def LinkTime.reset : LinkTime :=
  ⟨0, [], false, 0, 0, 0, 0, 7, 7, 0, false, false, []⟩

/-- The time unit (R35-R58). -/
structure TimeUnit where
  state : LockState
  /-- LOCKED has been entered since the last module cold reset (R36). -/
  everLocked : Bool
  /-- The module is the active root (R45). -/
  isRoot : Bool
  /-- Hall time has been started by this module as a root (R42). -/
  started : Bool
  tier : Nat
  parent : Option Link
  /-- The root the module follows and the beat last seen of it. -/
  rootIndex : Option Nat
  rootBeat : Nat
  /-- Hall time at which that beat last advanced. -/
  beatAt : Nat
  /-- The beat timeout of R51 has passed since the beat last advanced. -/
  beatLost : Bool
  /-- Root index, latest beat and hall time of its last advance, if any, of every root heard (R51). -/
  beats : List (Nat × Nat × Option Nat)
  /-- Offset samples to the parent, or of a root to its source, in 1/128 ns, newest first, at most 64. -/
  samples : List Int
  offsetEst : Int
  freqAdj : Int
  /-- Correction still to be slewed (1/64 ns), and ns since the last unit of it (R36). -/
  slew : Int
  slewPhase : Nat
  /-- Hall time from which every estimate has been within LOCK_THRESHOLD. -/
  within : Option Nat
  /-- Consecutive estimates beyond twice LOCK_THRESHOLD (R47). -/
  beyond : Nat
  /-- Hall time at which HOLDOVER was entered. -/
  holdoverAt : Nat
  fracLatch : Nat
  taiValid : Bool
  taiError : Int
  /-- The root's source is acquired (R42). -/
  acquired : Bool
  /-- The external reference is declared lost (R41), and its missing or rejected edges in a row. -/
  extLost : Bool
  misses : Nat
  /-- A source has been acquired since this module became root (R42). -/
  tied : Bool
  /-- What a source gave before hall time started: TAI in ns, and the counter (1/64 ns) at that instant (R42, R51). -/
  early : Option (Int × Nat)
  /-- The latest accepted PTP time: TAI in ns and hall time (1/64 ns) of it. -/
  ptp : Option (Int × Nat)
  /-- The latest SYNC: sequence number, t1 (TAI in ns) once known, and t2 (1/64 ns) (R40). -/
  ptpSync : Option (Nat × Option Nat × Nat)
  /-- The DELAY_REQ that waits for its answer: sequence number and t3 (1/64 ns); and the next number. -/
  ptpReq : Option (Nat × Nat)
  ptpSeq : Nat
  /-- Time symbols discarded (R43). -/
  discarded : Nat
  /-- Hall time of the latest beat sent as root, and of the latest PPS pulse. -/
  lastBeatTick : Nat
  lastPps : Nat
  links : Tbl LinkTime
  /-- The root list in effect, as module numbers: a change takes effect at a camp switch tick (R38). -/
  roots : List Nat
  /-- The epoch in force, in TAI ns: a root's own from its cold start, else the parent's (R37). -/
  epoch : Nat
  deriving DecidableEq, Repr

def TimeUnit.reset : TimeUnit where
  state := .unset
  everLocked := false
  isRoot := false
  started := false
  tier := 7
  parent := none
  rootIndex := none
  rootBeat := 0
  beatAt := 0
  beatLost := false
  beats := []
  samples := []
  offsetEst := 0
  freqAdj := 0
  slew := 0
  slewPhase := 0
  within := none
  beyond := 0
  holdoverAt := 0
  fracLatch := 0
  taiValid := false
  taiError := 0
  acquired := false
  extLost := false
  misses := 0
  tied := false
  early := none
  ptp := none
  ptpSync := none
  ptpReq := none
  ptpSeq := 0
  discarded := 0
  lastBeatTick := 0
  lastPps := 0
  links := []
  roots := [0]
  epoch := 0

/-- A window in progress at a sender (R73). -/
structure TxWindow where
  /-- The table entry (R67). -/
  entry : Nat
  /-- Schedule time of the window's first slot. -/
  start : Nat
  /-- Data slots sent so far, and data slots to send (R62, R75). -/
  sent : Nat
  slots : Nat
  /-- The bytes the window carries, in iteration order; REQUESTED of a CAPACITY window. -/
  bytes : Nat
  requested : Nat
  deriving DecidableEq, Repr

/-- One timetable engine (R72, R80). -/
structure TtEngine where
  /-- Schedule time at which the period of the next entry starts, and the next entry's index. -/
  period : Nat
  index : Nat
  /-- Entries fetched ahead, at most 4,096. -/
  fetched : Nat
  window : Option TxWindow
  /-- Schedule time at which the span of the last window that started ends. -/
  spanEnd : Nat
  /-- Instances of each EVENT entry that have fired since the bank became active, by entry index (R77). -/
  fired : Tbl Nat
  deriving DecidableEq, Repr

def TtEngine.reset : TtEngine := ⟨0, 0, 0, none, 0, []⟩

/-- A window landing at a receiver (R73). -/
structure RxWindow where
  open_ : OpenWord
  /-- The window is discarded whole. -/
  refused : Bool
  /-- The pattern record that places it; none for index 0. -/
  pattern : Option Nat
  /-- Slots received, and whether any has been discarded. -/
  slots : Nat
  faulted : Bool
  /-- Bytes of a REDUCE window that wait for their group, with the group's first byte number, and
  the groups with a discarded slot (R496). -/
  held : List (Nat × Byte)
  bad : List Nat
  deriving DecidableEq, Repr

/-- The timetable (R59-R81). Its tables lie in the timetable store (R357). -/
structure Timetable where
  /-- 0 A, 1 B; none: no bank active. -/
  active : Option (Fin 2)
  /-- Schedule time at which the active bank's slot 0 started. -/
  origin : Nat
  /-- Bank A and bank B have passed both checks (R63). -/
  armedA : Bool
  armedB : Bool
  /-- The pattern memories (R66), keyed bank × 4,096 + index. -/
  patterns : Tbl Nat
  /-- The armed switch (R65). -/
  switch : Option (Fin 2)
  engines : Tbl TtEngine
  rx : Tbl (Option RxWindow)
  deriving DecidableEq, Repr

def Timetable.reset : Timetable := ⟨none, 0, false, false, [], none, [], []⟩

/-- A hold or resume identity with its cause (R82). -/
structure HoldId where
  origin : Nat
  seq : Nat
  cause : Nat
  deriving DecidableEq, Repr

/-- A RESUME taken in (R82): its identity, tick and lost links as 22-bit entries. -/
structure ResumeMsg where
  origin : Nat
  seq : Nat
  tick : Nat
  lost : List Nat
  deriving DecidableEq, Repr

/-- The hall hold (R82-R88). -/
structure HallHold where
  /-- Hall time (ns) at which timed work stops or has stopped; none: no hold is joined. -/
  tick : Option Nat
  held : Bool
  joined : List HoldId
  /-- Holds that start at or after the coming resume tick. -/
  later : List (HoldId × Nat)
  resumes : List ResumeMsg
  /-- Resumes whose HOLD has not arrived, with their arrival. -/
  kept : List (ResumeMsg × Nat)
  /-- Identities and kinds flooded (R83). -/
  seen : List (Nat × Nat × Nat)
  ownSeq : Nat
  /-- Lost-link entries in force, in the order they entered (R87). -/
  lost : List Nat
  /-- Lost links that the next own RESUME names. -/
  toName : List Nat
  offset : Nat
  /-- Own holds that recoveries wait to resume: SEQ and cause. -/
  own : List (Nat × Nat)
  /-- The module has failed the job stage in a hold and sends no RESUME for it (R431). -/
  noResume : Bool
  /-- The schedule-fault flag (R81), and on every step until job unload (R87, R88). -/
  schedFault : Bool
  sticky : Bool
  /-- Hall length of the last completed hold. -/
  lastLength : Nat
  /-- Hall time (ns) at which the last hold ended. -/
  endedAt : Nat
  deriving DecidableEq, Repr

def HallHold.reset : HallHold where
  tick := none
  held := false
  joined := []
  later := []
  resumes := []
  kept := []
  seen := []
  ownSeq := 0
  lost := []
  toName := []
  offset := 0
  own := []
  noResume := false
  schedFault := false
  sticky := false
  lastLength := 0
  endedAt := 0

end Sys2Proof.Machine
end

