-- ==== Sys2Proof/Machine/TrainState.lean ====
section
/-!
DEFINITION. The state of the numeric watch, the update engines and the replica check (chapters 10
and 11).  Training state itself lies in memory.
-/

namespace Sys2Proof.Machine

/-- The counts of a tally record for one epoch (R302). -/
structure Counts where
  zero : Nat
  vanished : Nat
  saturated : Nat
  inf : Nat
  nan : Nat
  dropped : Nat
  total : Nat
  deriving DecidableEq, Repr

def Counts.none : Counts := ⟨0, 0, 0, 0, 0, 0, 0⟩

/-- A tally record (R302). -/
structure TallyRec where
  stuck : Bool
  mixed : Bool
  fmt : Nat
  epoch : Nat
  prevEpoch : Nat
  cur : Counts
  hist : Tbl Nat
  prev : Counts
  deriving DecidableEq, Repr

/-- The module-wide counts of one destination format (R305). -/
structure FmtCount where
  total : Nat
  overflow : Nat
  vanished : Nat
  zero : Nat
  nan : Nat
  deriving DecidableEq, Repr

/-- The watch (R300-R308). -/
structure Watch where
  /-- Tags and records on chip, most recently used first, at most 4,096 (R300). -/
  chip : List (Nat × TallyRec)
  /-- Tags whose spill slot has been written since the last job load; the slot of any other tag holds the record that this
  load cleared, at the epoch `cleared`. -/
  spilled : List Nat
  cleared : Nat
  shares : Tbl FmtCount
  /-- NF_COUNT as latched with the norm record (R306). -/
  latch : Nat
  deriving DecidableEq, Repr

def Watch.reset : Watch := ⟨[], [], 0, [], 0⟩

/-- An update engine (R273, R421). -/
structure EngineSt where
  /-- The translation cache, most recently used first, at most 64. -/
  tcache : List TcEntry
  /-- The engine has stopped on a translation or permission fault. -/
  stopped : Bool
  /-- Hall time (ns) of its last progress. -/
  pace : Nat
  deriving DecidableEq, Repr

def EngineSt.reset : EngineSt := ⟨[], false, 0⟩

/-- What a replica says of itself (R314). -/
structure PeerFp where
  step : Option Nat
  fp : Option Nat
  deriving DecidableEq, Repr

/-- What the localisation waits for (R314). -/
inductive LocPhase where
  /-- STEP and SHARD_FP of every peer. -/
  | values
  /-- SPAN_FPS of the source, from an offset. -/
  | spans
  /-- BLOCK_FPS of the source: the spans still to be read. -/
  | blocks (left : List Nat)
  /-- The blocks listed are being repaired. -/
  | repair
  deriving DecidableEq, Repr

/-- Localisation and repair in progress (R314-R317). -/
structure Repair where
  phase : LocPhase
  peers : Tbl (Option PeerFp)
  /-- DXP sessions at the peers, by replica index. -/
  sessions : Tbl Nat
  /-- The good value (STEP, SHARD_FP); none for a repair of bad blocks only. -/
  good : Option (Nat × Nat)
  /-- Replica index of the source, and those that have failed. -/
  src : Nat
  failed : List Nat
  /-- SPAN_FPS of the source, and bytes of it still to come. -/
  spanBytes : List Byte
  /-- Blocks still to be repaired, ascending, and the count of repaired ones. -/
  todo : List Nat
  done : Nat
  /-- The block at the head has been copied once and did not agree. -/
  again : Bool
  /-- The comparison has been repeated once. -/
  second : Bool
  /-- The READs of the copy under way have been made (R316). -/
  asked : Bool
  deriving DecidableEq, Repr

/-- The items of STATE_STATUS (R495): SOURCE, ITEM, group and module block number. -/
structure StateFault where
  source : Nat
  item : Nat
  group : Nat
  block : Nat
  deriving DecidableEq, Repr

/-- A restore or fresh start under way (R277, R296), and its first failure. -/
structure Restoring where
  fresh : Bool
  failed : Option StateFault
  deriving DecidableEq, Repr

/-- The management processor's part in training (R278-R299). -/
structure Train where
  /-- The group table as read at job load. -/
  groups : List Nat
  /-- Number of the current step, and the activation tick it counts from. -/
  stepNo : Nat
  stepOrigin : Nat
  /-- Groups quantised in the current step, and those that waited for a sweep (R289). -/
  quantised : List Nat
  delayed : List Nat
  /-- Sums of squares of engines 0-31, once formed. -/
  norms : Option (List Nat)
  normWritten : Bool
  fpWritten : Bool
  fpChecked : Bool
  /-- The current sweep has passed its limit. -/
  overran : Bool
  /-- Schedule time of the commit point whose sweep runs (R290); none: the sweep was taken up at job load. -/
  sweepAt : Option Nat
  engines : Tbl EngineSt
  restoring : Option Restoring
  belayAsked : Bool
  repair : Option Repair
  deriving DecidableEq, Repr

def Train.reset : Train where
  groups := []
  stepNo := 0
  stepOrigin := 0
  quantised := []
  delayed := []
  norms := none
  normWritten := false
  fpWritten := false
  fpChecked := false
  overran := false
  sweepAt := none
  engines := []
  restoring := none
  belayAsked := false
  repair := none

end Sys2Proof.Machine
end

