-- ==== Sys2Proof/Machine/State.lean ====
section
/-!
DEFINITION. The state of the module, its state after reset, and the reasons a step can stop.
-/

namespace Sys2Proof.Machine

/-- Why the machine stops. -/
inductive Fault where
  /-- Raised by a step that would carry hall time past the 70 bits of R35, after 584 years.  Safe:
  the manual says that the count does not wrap in service. -/
  | hallTimeExhausted
  deriving DecidableEq, Repr

/-- Why a command has no meaning. -/
inductive Refusal where
  /-- Raised by an arm of `exec` for a command that has no meaning yet.  Safe: nothing is claimed of
  it. -/
  | notModelled (mnemonic : String)
  deriving DecidableEq, Repr

/-- Why the sequencer refuses a command of its die controller (R213); the last, an instruction load out of range. -/
inductive DcReason where
  /-- START: the context is not IDLE, STOPPED or FAULTED. -/
  | notStartable
  /-- IMEM_LOAD: a resident-mode context is READY, WAITING, PARKED_T or AT_FENCE. -/
  | residentRuns
  /-- REPLAY, ISOLATE: no fence has formed since the contexts started. -/
  | noFence
  /-- IMEM_LOAD of slots or instructions that do not exist. -/
  | badRange
  deriving DecidableEq, Repr

/-- What the module sends out, newest first in `State.out`. -/
inductive Out where
  /-- A packet sent whole on a link (R100), or handed to a unit of this module. -/
  | packet (link : Nat) (p : Packet)
  | deliver (p : Packet)
  /-- Credits returned on a link in the framing of a slot: flits for VC0 to VC4 (R99). -/
  | credits (link : Nat) (flits : List Nat)
  /-- What the module gives its partner in link training: module number, link number, map entry, versions (R94). -/
  | offer (link moduleNumber entry : Nat) (versions : List Nat)
  | timeSymbol (link : Nat) (sym : BitVec 192)
  /-- A DELAY_REQ of PTP with its sequence number (R40). -/
  | delayReq (seq : Nat)
  | windowOpen (link : Nat) (w : OpenWord)
  | slot (link : Nat) (data : List Byte) (poison : Bool)
  /-- A DXP message: transport, destination on it, header and data. -/
  | dxp (transport : Nat) (dest : Nat) (header : BitVec 256) (data : List Byte)
  | msix (vector : Nat)
  | smbus (data : List Byte)
  | smbusNack
  /-- Completion data of a host read. -/
  | hostData (data : List Byte)
  /-- A write by the module as bus master. -/
  | hostWrite (address : Nat) (data : List Byte)
  /-- A pulse on TIME_OUT: hall time (ns) of its rising edge, and its length. -/
  | pulse (at_ length : Nat)
  /-- What READ returns to the die controller (R213). -/
  | context (status : BitVec 128) (regs : List (BitVec 64)) (preds : BitVec 8) (loops : List LoopFrame)
  /-- A command of the die controller is refused (R213). -/
  | dcRefused (why : DcReason)
  /-- A context that halts or faults interrupts its die controller (R191, R210). -/
  | dcInterrupt (core ctx : Nat)
  | doe (data : List Byte)
  /-- A rope frame by a rope port. -/
  | rope (link : Nat) (header : BitVec 512) (body : List Byte)
  deriving DecidableEq, Repr

/-- Bytes by address: sorted, no entry equal to the zero that an unlisted byte reads as (R355, R21). -/
abbrev Memory := List Host.Cell

/-- The module. -/
structure State where
  /-- Commands that wait, first in, first out. -/
  pending : List Instr
  out : List Out
  /-- Hall time in 1/64 ns (R35). -/
  hall : Nat
  /-- Free values drawn so far (the model's own field). -/
  drawn : Nat
  /-- Power has failed or was never applied: nothing but POWER_ON acts. -/
  down : Bool
  time : TimeUnit
  tt : Timetable
  hold : HallHold
  links : Tbl LinkSt
  fabric : Fabric
  /-- Device memory (R25), and its poisoned codewords, numbered by address / 64, ascending (R360). -/
  mem : Memory
  poison : List Nat
  /-- The core stores (R21): byte `off` of store `st` of core `c` at (4c + st) × 2^23 + off. -/
  stores : Memory
  /-- The store maps (R256): byte `i` of core `c` at 4,096 c + i. -/
  maps : Memory
  /-- Resident instructions (R186): slot `i` of core `c` at 4,096 c + i. -/
  imem : Tbl (BitVec 128)
  /-- Accumulators (R124): entry `e` of rod `n` of frame `f` of core `c` at ((4c + f) × 64 + n) × 256 + e. -/
  accs : Tbl (BitVec 32)
  cores : Tbl CoreSt
  ctxs : Tbl CtxSt
  sems : Tbl SemSt
  movers : Tbl MoverSt
  /-- Posts in flight: target core × 64 + semaphore, count (R201). -/
  posts : List (Nat × Nat)
  /-- C-dies in die bivouac or waking (R371). -/
  dies : Tbl CorePower
  /-- The engine mailboxes (R280): byte `i` of mailbox `m` at 512 m + i. -/
  mailboxes : Memory
  /-- Tally deltas that wait at the tally table, oldest first (R300). -/
  deltas : List Delta
  /-- The region table (R240), and changes not yet in force: effective hall time (ns), entry number,
  entry. -/
  regions : Tbl (BitVec 128)
  /-- Pseudo-channels of span in force per region (R363). -/
  spans : Tbl Nat
  /-- Translation invalidations not yet complete: a page's address, or everything (R239). -/
  invals : List (Option Nat)
  watch : Watch
  train : Train
  rope : Rope
  dict : Dict
  faults : Faults
  job : Job
  host : HostPort
  supply : Supply
  memctl : MemCtl
  boot : Boot
  deriving DecidableEq, Repr

/-- An entry of the region table after reset (R240). -/
def regionReset : BitVec 128 := 0x2#4 ++ 0#124

/-- The module right after power-good or a module cold reset, before boot stage 0 ends (R36, R418,
R457). -/
def State.reset : State where
  pending := []
  out := []
  hall := 0
  drawn := 0
  down := false
  time := .reset
  tt := .reset
  hold := .reset
  links := []
  fabric := .reset
  mem := []
  poison := []
  stores := []
  maps := []
  imem := []
  accs := []
  cores := []
  ctxs := []
  sems := []
  movers := []
  posts := []
  dies := []
  mailboxes := []
  deltas := []
  regions := []
  spans := []
  invals := []
  watch := .reset
  train := .reset
  rope := .reset
  dict := .reset
  faults := .reset
  job := .reset
  host := .reset
  supply := .reset
  memctl := .reset
  boot := .reset

end Sys2Proof.Machine
end

