-- ==== Sys2Proof/Machine/Tick.lean ====
section
/-!
DEFINITION. The passing of hall time.
-/

namespace Sys2Proof.Machine

/-- The first count that the 70 bits of R35 cannot hold. -/
def hallEnd : Nat := 2 ^ 70

/-- Units of 1/64 ns that slewing adds or takes away while `d` ns pass, and what is left of it: at
most one unit per 1,000 ns (R36). -/
def slewStep (t : TimeUnit) (d : Nat) : Int × TimeUnit :=
  let p := t.slewPhase % 1000 + d
  let n := p / 1000
  let c : Int := if 0 ≤ t.slew then min t.slew n else max t.slew (-(n : Int))
  (c, { t with slew := t.slew - c, slewPhase := p % 1000 })

/-- Nothing commanded: 1 ns of hall time passes (R12). -/
def idleTick (s : State) : Host.Outcome State Fault Refusal :=
  let c := slewStep s.time 1
  let hall := ((s.hall : Int) + 64 + c.1).toNat
  if hall < hallEnd then .next { s with hall := hall, time := c.2 } else .fault .hallTimeExhausted

/-- Hall time is at least `t`, in 1/64 ns: an event with a stated instant happens no earlier
(assumption 3). -/
def State.reach64 (s : State) (t : Nat) : State :=
  if s.hall < t then { s with hall := t, time := (slewStep s.time ((t - s.hall) / 64)).2 } else s

/-- Hall time is at least `t` ns. -/
def State.reach (s : State) (t : Nat) : State := s.reach64 (64 * t)

end Sys2Proof.Machine
end

