-- ==== Sys2Proof/Machine/Ops.lean ====
section
/-!
DEFINITION. The operations every command is made of: time, objects, the cairn log, interrupts, device
memory, core stores and permissions.
-/

namespace Sys2Proof.Machine

/-! ### Time and free values -/

/-- Hall time in whole ns (R35). -/
def State.now (s : State) : Nat := s.hall / 64

/-- What schedule time lies behind hall time: nothing while no bank is active (R60, R64). -/
def State.lag (s : State) : Nat := if s.tt.active.isNone then 0 else s.hold.offset

/-- Schedule time in ns (R60): from the hold tick on it stands there, until the hall resumes (R84). -/
def State.sched (s : State) : Nat :=
  match s.hold.tick with
  | some t => min t s.now - s.lag
  | none => s.now - s.lag

/-- Timed work due at hall time `h` (ns) does not take effect: the hall is held, or `h` is the hold tick or later (R84). -/
def State.frozenAt (s : State) (h : Nat) : Bool := s.hold.held || s.hold.tick.any fun t => decide (t ≤ h)

/-- Timed work due now does not take effect. -/
def State.frozen (s : State) : Bool := s.frozenAt s.now

/-- A fresh free value, and the state with it drawn (assumption 5). -/
def State.draw (s : State) : Nat × State := (Config.freeValue s.drawn, { s with drawn := s.drawn + 1 })

/-- The module sends `o`. -/
def State.emit (s : State) (o : Out) : State := { s with out := o :: s.out }

/-- `s` unless the condition holds, and then `f s`. -/
def State.on (s : State) (c : Bool) (f : State → State) : State := if c then f s else s

/-! ### Objects (R391) -/

/-- The value of a scalar object, as its bit pattern. -/
def State.obj (s : State) (idx sub : Nat) : Nat :=
  (Tbl.get none s.dict.objs (okey idx sub)).getD (objDefault (okey idx sub))

/-- The object takes a value; a value equal to the default is not listed. -/
def State.setObj (s : State) (idx sub v : Nat) : State :=
  let k := okey idx sub
  { s with dict := { s.dict with
      objs := Tbl.set none s.dict.objs k (if v = objDefault k then none else some v) } }

/-- A 32-bit count goes up by `n` (assumption 9: modulo its width). -/
def State.count (s : State) (idx sub : Nat) (n : Nat := 1) : State :=
  s.setObj idx sub ((s.obj idx sub + n) % 2 ^ 32)

/-- A 64-bit count goes up by `n`. -/
def State.count64 (s : State) (idx sub : Nat) (n : Nat := 1) : State :=
  s.setObj idx sub ((s.obj idx sub + n) % 2 ^ 64)

/-- The bytes of a STR, BLOB or REC object that is written whole. -/
def State.recOf (s : State) (idx sub : Nat) : List Byte := Tbl.get [] s.dict.recs (okey idx sub)

def State.setRec (s : State) (idx sub : Nat) (v : List Byte) : State :=
  { s with dict := { s.dict with recs := Tbl.set [] s.dict.recs (okey idx sub) v } }

/-- This module's number (R120). -/
def State.moduleNumber (s : State) : Nat := s.obj 0x6000 2

/-- The active camp's kind (R406). -/
def State.kind (s : State) : Nat := s.obj 0xB000 2

/-! ### Owner domains (R417, R418) -/

def domCore (c : Nat) : Nat := 0x1000 + c
def domMover (m : Nat) : Nat := 0x2000 + m
def domEngine (e : Nat) : Nat := 0x3000 + e
def domLink (l : Nat) : Nat := 0x4000 + l
def domSession (x : Nat) : Nat := 0x5000 + x
def domStack (x : Nat) : Nat := 0x6000 + x
def domDie (d : Nat) : Nat := 0x7000 + d
def domMp (d : Nat) : Nat := 0x8000 + d
def domHost : Nat := 0x9000

/-- The number of instances of a domain kind (R418). -/
def domInstances (kind : Nat) : Nat :=
  [1, 192, 384, 32, 64, 256, 32, 6, 2, 1, 1, 1].getD kind 0

/-- A code that names an existing domain (R417). -/
def domValid (code : Nat) : Bool := decide (code % 4096 < domInstances (code / 4096))

/-- Domain `inner` is `outer` or lies within it (R418). -/
def domWithin (inner outer : Nat) : Bool :=
  let ki := inner / 4096
  let i := inner % 4096
  let o := outer % 4096
  inner == outer ||
  match outer / 4096 with
  | 0x7 =>
    if o < 4 then
      (ki == 1 && i / 48 == o) || (ki == 2 && i / 96 == o) || (ki == 3 && i / 8 == o) || (ki == 6 && i / 8 == o)
    else (ki == 4 && i / 32 == o - 4) || (ki == 5 && i / 32 % 2 == o - 4) || (ki == 8 && i == o - 4)
  | 0xA => ki != 0 && ki != 0xB
  | 0xB => ki != 0
  | _ => false

/-! ### The cairn log (R437-R440) -/

/-- The gravest outcome that an event has by itself (assumption 11). -/
def severity (ev : Nat) : Nat :=
  if ev ∈ [0x9011, 0x900C, 0x5007, 0x5008, 0x3007] then 3
  else if ev ∈ [0x9010, 0x2017, 0x9009, 0x900A, 0x9005, 0x2004, 0x7012, 0x8014] then 2
  else if ev ∈ [0x2002, 0x2003, 0x2005, 0x2006, 0x2007, 0x2008, 0x2010, 0x2011, 0x2015, 0x2016, 0x2019,
      0x4010, 0x4011, 0x4012, 0x4030, 0x4031, 0x4032, 0x4033, 0x4034, 0x4035, 0x4036, 0x4040, 0x4041,
      0x4042, 0x4043, 0x4044, 0x4045, 0x6002, 0x6003, 0x6004, 0x6005, 0x6006, 0x6007, 0x6008, 0x6009,
      0x600A, 0x600B, 0x600C, 0x9001, 0x9002, 0x9003, 0x9004, 0x9006, 0x9007, 0x9008, 0x900B, 0x9012,
      0x9013, 0x1002, 0x1003, 0x1005, 0xB004, 0xB005, 0xB006, 0x5001, 0x5002, 0x5003, 0x5004, 0x5006, 0x500A,
      0x3002, 0x3003, 0x3006, 0x3008, 0x300A, 0x300E, 0x3011, 0x7002, 0x7003, 0x7004, 0x7006, 0x700B, 0x700C, 0x700E,
      0x7010, 0x7011, 0x7013, 0x7014, 0x8001, 0x8002, 0x8003, 0x8004, 0x8005, 0x8006, 0x8009, 0x800A, 0x8010, 0x8011,
      0x8012, 0x8015, 0x8016, 0xA001, 0xA002, 0xA008, 0xA009, 0xA00C] then 1
  else 0

/-- Items packed from bit `pos` upward; an item that would pass bit 119, and every item after it, is
left out (R439). -/
def packItems : Nat → List (Nat × Nat) → Nat
  | _, [] => 0
  | pos, (w, v) :: rest =>
    if pos + w ≤ 120 then (v % 2 ^ w) * 2 ^ pos + packItems (pos + w) rest else 0

/-- A record of R438. -/
def cairnRecord (sev : Nat) (unlocked : Bool) (ev seq time dom data : Nat) : BitVec 256 :=
  0x2#4 ++ BitVec.ofNat 2 sev ++ BitVec.ofBool unlocked ++ 0#1 ++ BitVec.ofNat 16 ev ++
  BitVec.ofNat 32 seq ++ BitVec.ofNat 64 time ++ BitVec.ofNat 16 dom ++ BitVec.ofNat 120 data

/-- The module logs an event with the items its chapter lists: each a width and a value (R439). -/
def State.log (s : State) (ev : Nat) (dom : Nat := 0) (items : List (Nat × Nat) := []) : State :=
  let seq := s.obj 0x9004 2
  let r := cairnRecord (severity ev) (!s.time.everLocked) ev seq s.now dom (packItems 0 items)
  let full := s.faults.ring.length == 8192
  let s := { s with faults := { s.faults with ring := (r :: s.faults.ring).take 8192 } }
  let s := s.setObj 0x9004 2 ((seq + 1) % 2 ^ 32)
  s.on full (·.count64 0x9004 3)

/-! ### Sideband status (R382, R486) -/

/-- SUPPLY_STATE (0x3000.07). -/
def Supply.state (p : Supply) : Nat :=
  if !p.connected then 5 else if p.brace then 3 else if p.dip then 2 else if p.surge then 4
  else if p.lowLine then 1 else 0

/-- MFR_STATUS. -/
def State.mfrStatus (s : State) : BitVec 16 :=
  let p := s.supply
  0#7 ++ BitVec.ofBool (s.obj 0x9003 3 == 1) ++ BitVec.ofBool p.refLost ++ BitVec.ofBool p.governor ++
  BitVec.ofBool (!p.warned.isEmpty) ++ BitVec.ofBool p.brace ++
  BitVec.ofBool (p.state != 0) ++ BitVec.ofBool s.boot.failed ++ BitVec.ofBool (s.obj 0x9003 1 == 1) ++
  BitVec.ofBool (s.obj 0x1000 8 == 0)

/-- A change of state that may set a bit of MFR_STATUS: one that rises asserts SMB_ALERT_N. -/
def State.alerting (s : State) (f : State → State) : State :=
  let t := f s
  if t.mfrStatus &&& ~~~ s.mfrStatus = 0 then t else { t with boot := { t.boot with alert := true } }

/-- An interrupt to the host: a masked vector sets its pending bit (R456). -/
def State.interrupt (s : State) (v : Nat) : State :=
  if Tbl.get false s.host.unmasked v then s.emit (.msix v)
  else { s with host := { s.host with pendingBits := Tbl.set false s.host.pendingBits v true } }

/-! ### Device memory (R25, R355-R360) -/

/-- The top of populated memory (R25). -/
def memTop : Nat := 0x18000000000
def memUnpopulatedEnd : Nat := 0x20000000000
/-- The reserved areas of region 0 (R26, R357). -/
def tallySpill : Nat := 0x5F2D000000
def flowTable : Nat := 0x5F2E000000
def timetableStore : Nat := 0x5F30000000
def shadowArea : Nat := 0x5F40000000
def ropeStore : Nat := 0x5F80000000
def reservedEnd : Nat := 0x6000000000

/-- The `n` bytes from `a`, each the memory's value at its address. -/
def Memory.read (m : Memory) (a : Nat) : Nat → List Byte
  | 0 => []
  | n + 1 => Tbl.get 0 m a :: Memory.read m (a + 1) n

/-- The memory with the bytes written from `a` on. -/
def Memory.write (m : Memory) (a : Nat) : List Byte → Memory
  | [] => m
  | b :: bs => Memory.write (Tbl.set 0 m a b) (a + 1) bs

/-- The canonical form: addresses strictly rising, no zero byte listed. -/
def Memory.wf (m : Memory) : Bool := Tbl.wf 0 m

def State.read (s : State) (a n : Nat) : List Byte := Memory.read s.mem a n
def State.readNat (s : State) (a n : Nat) : Nat := leNat (Memory.read s.mem a n)

/-- A read of the bytes touches a poisoned codeword (R360). -/
def State.poisoned (s : State) (a n : Nat) : Bool :=
  s.poison.any fun c => decide (a < 64 * c + 64) && decide (64 * c < a + n)

/-- Bytes are written; a write that covers a whole codeword clears its poison (R360). -/
def State.write (s : State) (a : Nat) (bs : List Byte) : State :=
  { s with
    mem := Memory.write s.mem a bs
    poison := s.poison.filter fun c => !(decide (a ≤ 64 * c) && decide (64 * c + 64 ≤ a + bs.length)) }

/-- Single bytes are written, in order; a codeword that they cover whole loses its poison. -/
def State.writeBytes (s : State) (ws : List (Nat × Byte)) : State :=
  { s with
    mem := ws.foldl (fun m w => Tbl.set 0 m w.1 w.2) s.mem
    poison := s.poison.filter fun c =>
      !((List.range 64).all fun i => ws.any fun w => w.1 == 64 * c + i) }

/-- Codewords poisoned, in ascending order without repeats. -/
def insertAsc (c : Nat) : List Nat → List Nat
  | [] => [c]
  | d :: ds => if c = d then d :: ds else if c < d then c :: d :: ds else d :: insertAsc c ds

def State.poisonAt (s : State) (a : Nat) : State := { s with poison := insertAsc (a / 64) s.poison }

/-- The bytes touch a reserved area of R26. -/
def touchesReserved (a n : Nat) : Bool := decide (a < reservedEnd) && decide (tallySpill < a + n)

/-- Region `d` of an address (R25). -/
def regionOf (a : Nat) : Nat := a / 0x6000000000

/-- Bytes of retirement span in force below the end of region `d`'s software-visible part (R363). -/
def State.spanBytes (s : State) (d : Nat) : Nat := 0x30000000 * Tbl.get 0 s.spans d

/-- The bytes touch a retirement span (R363). -/
def State.touchesSpan (s : State) (a n : Nat) : Bool :=
  (List.range 4).any fun d =>
    let top := if d = 0 then tallySpill else (d + 1) * 0x6000000000
    decide (a < top) && decide (top - s.spanBytes d < a + n) && decide (0 < s.spanBytes d)

/-- The bytes lie in software-visible memory (R26). -/
def State.visible (s : State) (a n : Nat) : Bool :=
  decide (a + n ≤ memTop) && !touchesReserved a n && !s.touchesSpan a n

/-! ### Region permissions (R240) -/

/-- Entry `e` grants `key` the access to the byte at `a`. -/
def regionGrants (e : BitVec 128) (key : BitVec 8) (write : Bool) (a : Nat) : Bool :=
  let w := e.toNat
  bitAt w 123 && bitAt w (if write then 121 else 122) && decide (fld w 120 113 = key.toNat) &&
  decide (key ≠ 0) && decide (fld w 49 25 ≤ a / 65536) && decide (a / 65536 ≤ fld w 24 0)

/-- Some entry in force grants the byte. -/
def State.grantsByte (s : State) (key : BitVec 8) (write : Bool) (a : Nat) : Bool :=
  s.regions.any fun e => regionGrants e.2 key write a

/-- The 64 KiB units that `n` bytes from `a` touch are each granted (R240). -/
def State.granted (s : State) (key : BitVec 8) (write : Bool) (a n : Nat) : Bool :=
  n == 0 || ((List.range ((a + n - 1) / 65536 - a / 65536 + 1)).all fun i =>
    s.grantsByte key write (a / 65536 * 65536 + 65536 * i))

/-! ### Core stores (R21) -/

/-- The stores of R69 and their sizes. -/
def storeSize (st : Nat) : Nat := [3145728, 6291456, 1572864, 524288].getD st 0

def storeKey (core st off : Nat) : Nat := (4 * core + st) * 2 ^ 23 + off

def State.storeRead (s : State) (core st off n : Nat) : List Byte :=
  Memory.read s.stores (storeKey core st off) n

def State.storeNat (s : State) (core st off n : Nat) : Nat := leNat (s.storeRead core st off n)

def State.storeWrite (s : State) (core st off : Nat) (bs : List Byte) : State :=
  { s with stores := Memory.write s.stores (storeKey core st off) bs }

/-- A write into a core store by other than a coded move clears store-map entries (R256). -/
def State.storeWriteRaw (s : State) (c st off : Nat) (bs : List Byte) : State :=
  let s := s.storeWrite c st off bs
  if st ≠ 0 ∨ bs.isEmpty then s
  else
    let lo := off / 1024 - 3
    let hi := (off + bs.length - 1) / 1024
    { s with maps := (List.range (hi + 1 - lo)).foldl (fun m i => Tbl.set 0 m (4096 * c + lo + i) 0) s.maps }

/-- Single bytes are written into core stores, by key, as `storeWriteRaw` writes them. -/
def State.storeBytes (s : State) (ws : List (Nat × Byte)) : State :=
  { s with
    stores := ws.foldl (fun m w => Tbl.set 0 m w.1 w.2) s.stores
    maps := ws.foldl (fun m w =>
      let u := w.1 % 2 ^ 23 / 1024
      if w.1 / 2 ^ 23 % 4 = 0 then
        (List.range (u + 1 - (u - 3))).foldl (fun m i => Tbl.set 0 m (4096 * (w.1 / 2 ^ 25) + (u - 3) + i) 0) m
      else m) s.maps }

/-- The key is one of the four that reach the core's stores from outside (R241). -/
def State.storeKeyOk (s : State) (core : Nat) (key : BitVec 8) : Bool :=
  let k := s.obj 0x4042 core
  decide (key ≠ 0) && ([fld k 7 0, fld k 15 8, fld k 23 16, fld k 31 24].any (· == key.toNat))

/-! ### Units -/

def State.core (s : State) (c : Nat) : CoreSt := Tbl.get .reset s.cores c
def State.setCore (s : State) (c : Nat) (x : CoreSt) : State :=
  { s with cores := Tbl.set .reset s.cores c x }
def State.mapCore (s : State) (c : Nat) (f : CoreSt → CoreSt) : State := s.setCore c (f (s.core c))

/-- A C-die awake, in bivouac or waking (R371). -/
def State.setDie (s : State) (d : Nat) (p : CorePower) : State := { s with dies := Tbl.set .awake s.dies d p }

def ctxKey (c x : Nat) : Nat := 8 * c + x
def State.ctx (s : State) (c x : Nat) : CtxSt := Tbl.get .reset s.ctxs (ctxKey c x)
def State.setCtx (s : State) (c x : Nat) (v : CtxSt) : State :=
  { s with ctxs := Tbl.set .reset s.ctxs (ctxKey c x) v }
def State.mapCtx (s : State) (c x : Nat) (f : CtxSt → CtxSt) : State := s.setCtx c x (f (s.ctx c x))

def State.sem (s : State) (c n : Nat) : SemSt := Tbl.get .reset s.sems (64 * c + n)
def State.setSem (s : State) (c n : Nat) (v : SemSt) : State :=
  { s with sems := Tbl.set .reset s.sems (64 * c + n) v }

def State.mover (s : State) (m : Nat) : MoverSt := Tbl.get .reset s.movers m
def State.setMover (s : State) (m : Nat) (v : MoverSt) : State :=
  { s with movers := Tbl.set .reset s.movers m v }

def State.link (s : State) (l : Nat) : LinkSt := Tbl.get .reset s.links l
def State.setLink (s : State) (l : Nat) (v : LinkSt) : State :=
  { s with links := Tbl.set .reset s.links l v }
def State.mapLink (s : State) (l : Nat) (f : LinkSt → LinkSt) : State := s.setLink l (f (s.link l))

def State.flow (s : State) (c : Nat) : Flow := Tbl.get .reset s.fabric.flows c
def State.setFlow (s : State) (c : Nat) (v : Flow) : State :=
  { s with fabric := { s.fabric with flows := Tbl.set .reset s.fabric.flows c v } }

/-! ### Links -/

/-- The role of a link (R28): 0 idle, 1 fabric, 2 rope port. -/
def State.role (s : State) (l : Nat) : Nat := s.obj 0xB021 l
def State.linkState (s : State) (l : Nat) : Nat := s.obj 0x6002 l
/-- The link is up (R120: 2, or 3 on three lanes). -/
def State.linkUp (s : State) (l : Nat) : Bool := s.linkState l == 2 || s.linkState l == 3
/-- Links of the module in the fabric role, ascending. -/
def State.fabricLinks (s : State) : List Nat := (List.range 64).filter (s.role · == 1)

/-- Apply `f` to every element of a list, in order. -/
def State.each {α : Type} (s : State) (xs : List α) (f : State → α → State) : State := xs.foldl f s

end Sys2Proof.Machine

namespace Sys2Proof.Machine

/-- A command acts on a powered module; with power failed it finds nothing that could act (R387). -/
def act (s : State) (f : State → State) : Host.Outcome State Fault Refusal :=
  .next (if s.down then s else f s)

end Sys2Proof.Machine
end

