-- ==== Sys2Proof/Machine/Flags.lean ====
section
/-!
DEFINITION. What values count as: the outcomes of R168, gathered in tally deltas (R300).
-/

namespace Sys2Proof.Machine

def Delta.empty (tag fmt : Nat) : Delta := ⟨tag, fmt, 0, 0, 0, 0, 0, 0, 0, []⟩

/-- The histogram bin of an exponent (R304). -/
def histBin (base : Int) (width : Nat) (e : Int) : Nat :=
  (min (max ((e - base) / (width : Int)) 0) 31).toNat

/-- One written value is counted (R168). -/
def Delta.add (base : Int) (width : Nat) (d : Delta) (o : Outcome) : Delta :=
  let d := { d with total := d.total + 1 }
  match o with
  | .zero => { d with zero := d.zero + 1 }
  | .vanished => { d with vanished := d.vanished + 1 }
  | .saturated => { d with saturated := d.saturated + 1 }
  | .inf => { d with inf := d.inf + 1 }
  | .nan => { d with nan := d.nan + 1 }
  | .value e =>
    let b := histBin base width e
    { d with hist := Tbl.set 0 d.hist b (Tbl.get 0 d.hist b + 1) }

/-- An event of the rod or accumulate stage: only flushes and saturations count (R138, R139). -/
def Delta.stage (d : Delta) (o : Outcome) : Delta :=
  match o with
  | .vanished => { d with vanished := d.vanished + 1 }
  | .saturated => { d with saturated := d.saturated + 1 }
  | _ => d

/-- The written values of an item, in the module's bins. -/
def State.tally (s : State) (d : Delta) (os : List Outcome) : Delta :=
  os.foldl (Delta.add s.job.histBase s.job.histWidth) d

/-- A value as R168 classifies it where it is written as it stands. -/
def classify (v : Num) : Outcome :=
  match v with
  | .nan => .nan
  | .inf _ => .inf
  | .fin _ n e => if n = 0 then .zero else .value (expOf n e)

/-- Subnormal codes among elements of a format (R157). -/
def flushed (f : FloatFmt) (codes : List Nat) : Nat := codes.countP (isSubnormal f)

/-- Subnormal inputs that have been flushed are counted (R157). -/
def State.countFlushed (s : State) (n : Nat) : State := s.on (n != 0) (·.count64 0x4020 2 n)

/-- Subnormal elements of a block under its scale. -/
def flushedBlock (f : FloatFmt) (sc : Nat) (bs : List Byte) : Nat :=
  if sc = 0 ∨ sc = 0xFF then 0 else flushed f (bs.map (·.toNat))

/-- Subnormal elements of a group of 64 blocks. -/
def flushedGroup (fmt : Nat) (bs : List Byte) : Nat :=
  match floatFmt fmt with
  | none => 0
  | some f => ((bs.take 64).mapIdx fun i sc => flushedBlock f sc.toNat ((bs.drop (64 + 32 * i)).take 32)).foldl (· + ·) 0

/-- An item that has completed sends its deltas to the tally table (R300). -/
def State.sendDeltas (s : State) (ds : List Delta) : State := { s with deltas := s.deltas ++ ds }

end Sys2Proof.Machine
end

