-- ==== Sys2Proof/Machine/MemMap.lean ====
section
/-!
DEFINITION. Where a device physical address lies: interleave and retirement map (R354, R356, R363).
-/

namespace Sys2Proof.Machine

/-- Units of 2 KiB in a region, and in a stack (R356). -/
def regionUnits : Nat := 201326592
def stackUnits : Nat := 25165824

/-- The pseudo-channel of its region, stack × 64 + channel × 2 + pseudo-channel, that index `q` names in the
modes HASHED and LINEAR. -/
def pcOfIndex (q : Nat) : Nat := q % 8 * 64 + q / 8 % 32 * 2 + q / 256

/-- The pseudo-channel of its region and the row that R356 gives unit `u` in an interleave mode. -/
def place (mode u : Nat) : Nat × Nat :=
  match mode with
  | 0 => (pcOfIndex (Nat.xor (Nat.xor u (u / 2 ^ 9)) (u / 2 ^ 18) % 512), u / 512)
  | 1 => (pcOfIndex (u % 512), u / 512)
  | _ =>
    let v := u % stackUnits
    (u / stackUnits * 64 + Nat.xor (Nat.xor v (v / 2 ^ 6)) (v / 2 ^ 12) % 64, v / 64)

/-- The interleave mode in force of region `d`; region 0 is always HASHED. -/
def State.interleave (s : State) (d : Nat) : Nat := if d = 0 then 0 else s.memctl.modes.getD (d - 1) 0

/-- Consecutive units that each pseudo-channel they cover meets once. -/
def blockUnits (mode : Nat) : Nat := if mode = 2 then 64 else 512

def State.pcErr (s : State) (p : Nat) : PcErr := Tbl.get .reset s.memctl.pcs p
def State.setMem (s : State) (f : MemCtl → MemCtl) : State := { s with memctl := f s.memctl }
def State.setPc (s : State) (p : Nat) (v : PcErr) : State :=
  s.setMem fun m => { m with pcs := Tbl.set .reset m.pcs p v }

/-- Pseudo-channels of region `d`, numbered within it, whose retirement is complete. -/
def State.gone (s : State) (d : Nat) : List Nat :=
  (s.memctl.retired.filter fun p => p / 512 == d && (s.pcErr p).state == 3).map (· % 512)

/-- The first unit past the region's software-visible part, span included (R363). -/
def topUnit (d : Nat) : Nat := if d = 0 then tallySpill / 2048 else regionUnits

/-- The first unit of the region's span. -/
def State.spanUnit (s : State) (d : Nat) : Nat := topUnit d - 393216 * Tbl.get 0 s.spans d

/-- Retired pseudo-channels that the block of units number `b` meets. -/
def goneIn (mode : Nat) (gone : List Nat) (b : Nat) : List Nat :=
  if mode = 2 then gone.filter fun p => p / 64 == b / 393216 else gone

/-- Units on retired pseudo-channels in blocks `lo` to `hi` - 1. -/
def goneUnits (mode : Nat) (gone : List Nat) (lo hi : Nat) : Nat :=
  if mode = 2 then
    (List.range 8).foldl (fun n i =>
      n + (goneIn mode gone (393216 * i)).length * (min hi (393216 * (i + 1)) - max lo (393216 * i))) 0
  else gone.length * (hi - lo)

/-- Unit that holds unit `u` of region `d` (R363): its own location, or, on a retired pseudo-channel, that of
the span unit that step 2 gives it. -/
def State.holder (s : State) (d u : Nat) : Nat :=
  let mode := s.interleave d
  let gone := s.gone d
  if !gone.contains (place mode u).1 then u
  else
    let n := blockUnits mode
    let b := u / n
    let span := s.spanUnit d / n
    let top := topUnit d / n
    let before := goneUnits mode gone 0 (min b span) + goneUnits mode gone top b
    let inBlock := ((List.range (u % n)).filter fun i => gone.contains (place mode (b * n + i)).1).length
    let k := before + inBlock
    let live := n - (goneIn mode gone span).length
    let t := span + k / live
    let spare := (List.range n).filter fun i => !gone.contains (place mode (t * n + i)).1
    t * n + spare.getD (k % live) 0

/-- The pseudo-channel of the module and the byte within it where an address lies. -/
def State.locate (s : State) (a : Nat) : Nat × Nat :=
  let d := a / 0x6000000000
  let o := a % 0x6000000000
  let l := place (s.interleave d) (s.holder d (o / 2048))
  (512 * d + l.1, l.2 * 2048 + o % 2048)

/-- A record of the memory system: stack, channel, pseudo-channel, and the address where it has one (R368). -/
def State.logPc (s : State) (ev p : Nat) (a : Option Nat) : State :=
  s.log ev (domStack (p / 64)) ([(5, p / 64), (5, p / 2 % 32), (1, p % 2)] ++
    match a with | some a => [(48, a)] | none => [])

/-- A poisoned codeword among `n` bytes from `a` has been read: event 0x5003. -/
def State.readPoison (s : State) (a n : Nat) : State :=
  match s.poison.find? fun c => decide (a < 64 * c + 64) && decide (64 * c < a + n) with
  | some c => s.logPc 0x5003 (s.locate (64 * c)).1 (some (64 * c))
  | none => s

end Sys2Proof.Machine
end

