-- ==== Sys2Proof/Machine/Packets.lean ====
section
/-!
DEFINITION. Packets, the buffers of the junctions' input ports and the queues of their output links (R97-R99, R104, R105).
-/

namespace Sys2Proof

/-! ### Packet headers (R104) -/

def Packet.op (p : Packet) : Nat := fld p.header.toNat 507 502
def Packet.vc (p : Packet) : Nat := fld p.header.toNat 501 499
def Packet.src (p : Packet) : Nat := fld p.header.toNat 498 483
def Packet.dst (p : Packet) : Nat := fld p.header.toNat 482 467
def Packet.dstCtx (p : Packet) : Nat := fld p.header.toNat 466 449
def Packet.srcCtx (p : Packet) : Nat := fld p.header.toNat 448 431
def Packet.seq (p : Packet) : Nat := fld p.header.toNat 430 399
def Packet.key (p : Packet) : BitVec 8 := BitVec.ofNat 8 (fld p.header.toNat 398 391)
def Packet.addr (p : Packet) : Nat := fld p.header.toNat 390 350
def Packet.addrKind (p : Packet) : Nat := fld p.header.toNat 349 347
def Packet.length (p : Packet) : Nat := fld p.header.toNat 346 333
def Packet.atomicOp (p : Packet) : Nat := fld p.header.toNat 332 329
def Packet.atomicSize (p : Packet) : Nat := fld p.header.toNat 328 327
def Packet.operand0 (p : Packet) : Nat := fld p.header.toNat 326 263
def Packet.operand1 (p : Packet) : Nat := fld p.header.toNat 262 199
def Packet.status (p : Packet) : Nat := fld p.header.toNat 198 191

/-- The bytes of data that follow the header: none in a READ, whose LENGTH is what it asks for. -/
def Packet.dataLength (p : Packet) : Nat := if p.op = 1 then 0 else p.length

/-- The packet in flits of 64 bytes: its header and its data (R104). -/
def Packet.flits (p : Packet) : Nat := 1 + (p.dataLength + 63) / 64

/-- The largest payload of a VC (R98). -/
def vcLimit (vc : Nat) : Nat := [256, 4096, 4096, 8192, 8192].getD vc 0

/-- A request (R105). -/
def isRequest (op : Nat) : Bool := decide (1 ≤ op) && decide (op ≤ 4)

/-- The packet passes R104 and R105. -/
def Packet.ok (p : Packet) : Bool :=
  let w := p.header.toNat
  let op := p.op
  decide (fld w 511 508 = 2) &&
  ((decide (1 ≤ op) && decide (op ≤ 7)) || (decide (0x21 ≤ op) && decide (op ≤ 0x25))) &&
  decide (p.vc ≤ 4) && decide (fld w 186 0 = 0) && decide (p.length ≤ vcLimit p.vc) &&
  decide (p.data.length = p.dataLength)

/-- The packet with another VC, ESCAPED and one hop more. -/
def Packet.hopped (p : Packet) (vc : Nat) (escaped : Bool) : Packet :=
  let w := p.header.toNat
  let w := setFld w 501 499 vc
  let w := if escaped then setFld w 190 190 1 else w
  { p with header := BitVec.ofNat 512 (setFld w 189 187 (fld w 189 187 + 1)) }

end Sys2Proof

namespace Sys2Proof.Machine

/-- A header of R104. -/
def packetHeader (op vc src dst dstCtx srcCtx seq key addr addrKind length atomicOp atomicSize
    operand0 operand1 status : Nat) : BitVec 512 :=
  0x2#4 ++ BitVec.ofNat 6 op ++ BitVec.ofNat 3 vc ++ BitVec.ofNat 16 src ++ BitVec.ofNat 16 dst ++
  BitVec.ofNat 18 dstCtx ++ BitVec.ofNat 18 srcCtx ++ BitVec.ofNat 32 seq ++ BitVec.ofNat 8 key ++
  BitVec.ofNat 41 addr ++ BitVec.ofNat 3 addrKind ++ BitVec.ofNat 14 length ++
  BitVec.ofNat 4 atomicOp ++ BitVec.ofNat 2 atomicSize ++ BitVec.ofNat 64 operand0 ++
  BitVec.ofNat 64 operand1 ++ BitVec.ofNat 8 status ++ 0#191

/-! ### Input ports and their buffers (R97-R99) -/

/-- The buffers of R98 per input port, in flits, VC0 to VC4. -/
def bufferFlits : List Nat := fullCredits

/-- The port of H-die `h` by which a unit's packets enter: the bridge to its C-die, or to the other H-die. R97 gives the
units of the H-die itself no port; here they come by port 32 (assumption 113). -/
def unitPort (h : Nat) : Option Nat → Nat
  | none => 32
  | some d => if d / 2 = h then 32 + d % 2 else 34

/-- The C-die that a request reaches: that of its region, or of its core (R25, R20). -/
def cdieOf (p : Packet) : Option Nat :=
  match p.addrKind with
  | 0 => some (min 3 (regionOf p.addr))
  | 1 => some (fld p.addr 40 33 / 48)
  | _ => none

/-- Flits of VC `vc` that the buffer of an input port holds. -/
def State.portFlits (s : State) (die port vc : Nat) : Nat :=
  let queued := (List.range 32).foldl (fun n i =>
    let v := s.link (32 * die + i)
    let qs := v.queue ++ (v.sending.map (·.1)).toList
    (qs.filter fun q => q.port == port && q.buf == some vc).foldl (fun n q => n + q.p.flits) n) 0
  (s.fabric.waiting.filter fun w => w.die == die && w.port == port && w.buffered && w.p.vc == vc).foldl
    (fun n w => n + w.p.flits) queued

/-- The buffer has room for the whole packet. -/
def State.portRoom (s : State) (die port : Nat) (p : Packet) : Bool :=
  decide (s.portFlits die port p.vc + p.flits ≤ bufferFlits.getD p.vc 0)

/-- A packet leaves the buffer of a link's input port: its flits of credit are owed to the link's partner (R99). -/
def State.owe (s : State) (die port vc n : Nat) : State :=
  if port < 32 then s.mapLink (32 * die + port) fun v => { v with owed := v.owed.set vc (v.owed.getD vc 0 + n) }
  else s

/-- The framing of a slot returns the credits that are owed (R99). -/
def State.returnCredits (s : State) (l : Nat) : State :=
  (s.mapLink l fun v => { v with owed := [0, 0, 0, 0, 0] }).emit (.credits l (s.link l).owed)

/-- Credits returned by the partner, no more than its buffers hold (R98, R99). -/
def State.addCredits (s : State) (l : Nat) (credits : List Nat) : State :=
  s.mapLink l fun v => { v with
    credits := (List.range 5).map fun i =>
      min (fullCredits.getD i 0) (v.credits.getD i 0 + credits.getD i 0) }

/-- A link that comes up has its partner's whole buffers, but for the packets whose credit is already taken; the packet
that was being sent is sent from its start (R96, R98). -/
def LinkSt.fresh (v : LinkSt) : LinkSt :=
  let taken := fun vc => ((v.queue.filter fun q => q.paid && q.p.vc == vc) ++
    ((v.sending.map (·.1)).toList.filter fun q => q.p.vc == vc)).foldl (fun n q => n + q.p.flits) 0
  { v with
    credits := (List.range 5).map fun i => fullCredits.getD i 0 - taken i
    owed := [0, 0, 0, 0, 0]
    sending := v.sending.map fun x => (x.1, x.1.p.flits) }

/-- A packet joins the queue of a link. -/
def State.enqueue (s : State) (l : Nat) (q : Queued) : State :=
  s.mapLink l fun v => { v with
    queue := if q.first then v.queue.takeWhile (·.first) ++ q :: v.queue.dropWhile (·.first) else v.queue ++ [q]
    credits := if q.paid then v.credits.set q.p.vc (v.credits.getD q.p.vc 0 - q.p.flits) else v.credits }

end Sys2Proof.Machine
end

