-- ==== Sys2Proof/Machine/Hold.lean ====
section
/-!
DEFINITION. The hall hold: messages, merging and origination (R82-R88), and the failure of a job stage
(R431, R432).
-/

namespace Sys2Proof.Machine

/-! ### Messages (R82) -/

/-- A HOLD (kind 1) or RESUME (kind 2) message. -/
def holdMessage (kind origin seq cause tick : Nat) (lost : List Nat) : BitVec 256 :=
  0x2#4 ++ BitVec.ofNat 4 kind ++ BitVec.ofNat 16 origin ++ BitVec.ofNat 16 seq ++
  BitVec.ofNat 8 cause ++ BitVec.ofNat 8 lost.length ++ BitVec.ofNat 64 tick ++
  BitVec.ofNat 22 (lost.getD 0 0) ++ BitVec.ofNat 22 (lost.getD 1 0) ++
  BitVec.ofNat 22 (lost.getD 2 0) ++ BitVec.ofNat 22 (lost.getD 3 0) ++ 0#48

/-- The four lost-link fields of a message. -/
def msgLost (w : Nat) : List Nat := [fld w 135 114, fld w 113 92, fld w 91 70, fld w 69 48]

/-- The message passes the checks of R82, for its kind. -/
def holdMessageOk (w kind : Nat) : Bool :=
  let n := fld w 207 200
  decide (fld w 255 252 = 2) && decide (fld w 251 248 = kind) &&
  decide (1 ≤ fld w 215 208) && decide (fld w 215 208 ≤ 0x12) &&
  decide (fld w 199 136 % 20 = 0) && decide (n ≤ 4) && (kind == 2 || n == 0) &&
  ((msgLost w).drop n).all (· == 0) && decide (fld w 47 0 = 0)

/-- The MGMT packet on VC0 that carries a hold or resume message to the next module (R82, R105). -/
def State.holdPacket (s : State) (l : Nat) (msg : BitVec 256) : Packet :=
  ⟨packetHeader 6 0 s.moduleNumber (s.obj 0x6003 l / 64) 0 0 0 0 0 0 32 0 0 0 0 0, leBytes 32 msg.toNat⟩

/-- The module sends a message on every fabric link that is up, except the one it came by, ahead of all other VC0 traffic
(R83). A message of its own comes from the management processor; one that it forwards has been consumed, so no buffer
holds it (R119). -/
def State.flood (s : State) (msg : BitVec 256) (except : Option Nat) : State :=
  s.each (s.fabricLinks.filter fun l => s.linkUp l && except != some l) fun s l =>
    let port := match except with
      | none => if l / 32 = 0 then 32 else 34
      | some k => if l / 32 = k / 32 then k % 32 else 34
    s.enqueue l ⟨port, except.isNone, true, false, none, s.holdPacket l msg⟩

/-- The identity and kind has not been flooded before; it is noted (R83). -/
def State.firstSeen (s : State) (origin seq kind : Nat) : Bool × State :=
  if s.hold.seen.contains (origin, seq, kind) then (false, s)
  else (true, { s with hold := { s.hold with seen := (origin, seq, kind) :: s.hold.seen } })

/-! ### Merging (R85) -/

def State.setHold (s : State) (f : HallHold → HallHold) : State := { s with hold := f s.hold }

/-- The RESUME of a joined identity has been taken in. -/
def HallHold.resumed (h : HallHold) (i : HoldId) : Bool :=
  h.resumes.any fun r => r.origin == i.origin && r.seq == i.seq

/-- Every joined hold has its RESUME. -/
def HallHold.allResumed (h : HallHold) : Bool := !h.joined.isEmpty && h.joined.all h.resumed

/-- The latest resume tick taken in. -/
def HallHold.resumeTick (h : HallHold) : Nat := h.resumes.foldl (fun t r => max t r.tick) 0

/-- A RESUME kept for the identity counts now (R85). -/
def HallHold.takeKept (h : HallHold) (i : HoldId) : HallHold :=
  let mine := h.kept.filter fun r => r.1.origin == i.origin && r.1.seq == i.seq
  { h with
    resumes := h.resumes ++ mine.map (·.1)
    kept := h.kept.filter fun r => !(r.1.origin == i.origin && r.1.seq == i.seq) }

/-- One hold joins: the effective tick is the earliest among the joined ones; while the module is held it
joins whatever its tick; at or after the coming resume tick it is a hold of its own. -/
def HallHold.joinOne (h : HallHold) (i : HoldId) (tick : Nat) : HallHold :=
  if h.joined.contains i then h
  else match h.tick with
    | none => { h with tick := some tick, joined := [i] }.takeKept i
    | some t =>
      if !h.held && h.allResumed && decide (h.resumeTick ≤ tick) then { h with later := h.later ++ [(i, tick)] }
      else { h with tick := some (min t tick), joined := h.joined ++ [i] }.takeKept i

/-- A hold joins (R85). One that joins a hold in progress puts off its resume, so the holds that were to come
after that resume are judged again. -/
def HallHold.join (h : HallHold) (i : HoldId) (tick : Nat) : HallHold :=
  let g := h.joinOne i tick
  if h.tick.isNone || g.joined.length == h.joined.length then g
  else g.later.foldl (fun h x => h.joinOne x.1 x.2) { g with later := [] }

/-- This module originates a hold with its tick (R83); its SEQ, and the state. Who sends the RESUME of a hold that a write of
HOLD_REQUEST originates, and when, is open: this module never does (assumption 106). -/
def State.originateHoldAt (s : State) (cause tick : Nat) : Nat × State :=
  let seq := s.hold.ownSeq
  let me := s.moduleNumber
  let s := (s.firstSeen me seq 1).2
  let s := s.setHold fun h =>
    { h.join ⟨me, seq, cause⟩ tick with ownSeq := (seq + 1) % 2 ^ 16, own := h.own ++ [(seq, cause)] }
  (seq, s.flood (holdMessage 1 me seq cause tick []) none)

/-- A tick that leaves HOLD_LEAD from now, on the 20 ns grid (R82, R83). -/
def State.leadTick (s : State) : Nat := roundUp (s.now + s.obj 0x2013 1) 20

def State.originateHold (s : State) (cause : Nat) : Nat × State := s.originateHoldAt cause s.leadTick

/-- This module sends the RESUME of its hold `seq`, naming up to four lost links; none for a hold in
which it has failed the job stage (R431). -/
def State.originateResume (s : State) (seq : Nat) : State :=
  match s.hold.own.find? (·.1 == seq) with
  | none => s
  | some (_, cause) =>
    let s := s.setHold fun h => { h with own := h.own.filter (·.1 != seq) }
    if s.hold.noResume then s
    else
      let me := s.moduleNumber
      let lost := s.hold.toName.take 4
      let tick := s.leadTick
      let s := (s.firstSeen me seq 2).2
      let s := s.setHold fun h =>
        { h with toName := h.toName.drop 4, resumes := h.resumes ++ [⟨me, seq, tick, lost⟩] }
      s.flood (holdMessage 2 me seq cause tick lost) none

/-- The 22-bit name of a link: its lower-numbered end (R67, R82). -/
def State.linkName (s : State) (l : Nat) : Nat :=
  let p := s.obj 0x6003 l
  let partner := fld p 21 6
  if s.moduleNumber ≤ partner then s.moduleNumber * 64 + l else partner * 64 + fld p 5 0

/-- The schedule-fault flag (R81). -/
def State.schedFault (s : State) : State := s.setHold fun h => { h with schedFault := true }

/-! ### Job-stage failure and out of service -/

/-- STOP (R213): a context that runs enters STOPPED. -/
def CtxSt.stop (c : CtxSt) : CtxSt :=
  match c.status with
  | .idle | .faulted | .stopped => c
  | _ => { c with status := .stopped, wait := .none }

def State.stopAll (s : State) : State :=
  s.each (List.range 1536) fun s k =>
    let c := Tbl.get .reset s.ctxs k
    if c.stop = c then s else { s with ctxs := Tbl.set .reset s.ctxs k c.stop }

/-- A fault is counted under its cause (R442). -/
def State.faultCount (s : State) (cause : Nat) : State := s.count 0x9005 cause

/-- The module fails the job stage (R431); with no job loaded there is no stage to fail, and one that has failed
is not failed again. -/
def State.jobFail (s : State) (cause : Nat) : State :=
  if !s.job.loaded ∨ s.obj 0x9003 3 = 1 then s
  else
    let s := s.log 0x9010 0 [(8, cause)]
    let s := (s.alerting fun s => (s.setObj 0x9003 3 1).setObj 0x9003 4 cause).interrupt 2
    let s := s.stopAll
    let s := if s.hold.joined.isEmpty then (s.originateHold 9).2 else s
    (s.setHold fun h => { h with noResume := true }).schedFault

/-- The module goes out of service for the event `ev` (R432). -/
def State.outOfService (s : State) (ev : Nat) : State :=
  if s.obj 0x9003 1 = 1 then s
  else
    let s := s.log 0x9011 0 [(16, ev)]
    let s := (s.alerting fun s => (s.setObj 0x9003 1 1).setObj 0x9003 2 ev).interrupt 2
    (s.faultCount 0x0C).jobFail 0x0C

/-- Counted resets within RESET_WINDOW (R434). -/
def State.resetsInWindow (s : State) : Nat :=
  (s.faults.resets.filter fun t => decide (s.now < t + s.obj 0x9002 2 * 1000000000)).length

/-- A counted reset: performed as `f`, or, where it would reach RESET_LIMIT, not performed and the
module goes out of service (R434). -/
def State.countedReset (s : State) (f : State → State) : State :=
  if s.resetsInWindow + 1 < s.obj 0x9002 1 then
    f { s with faults := { s.faults with resets := s.now :: s.faults.resets } }
  else (s.log 0x900C).outOfService 0x900C

/-- The time-loss fault (R47): only with a job loaded. -/
def State.timeLoss (s : State) : State :=
  if s.job.loaded then ((s.faultCount 0x0A).log 0x900A).jobFail 0x0A else s

end Sys2Proof.Machine
end

