-- ==== Sys2Proof/Machine/Sync.lean ====
section
/-!
DEFINITION. Contexts and semaphores: registers, retirement, faults, posts and breaks (R182-R210).
-/

namespace Sys2Proof.Machine

/-! ### Registers (R182) -/

/-- S0 reads as zero. -/
def CtxSt.s (c : CtxSt) (i : Nat) : BitVec 64 := if i = 0 then 0 else c.regs.toList.getD i 0

/-- A write to S0 is discarded. -/
def CtxSt.setS (c : CtxSt) (i : Nat) (v : BitVec 64) : CtxSt :=
  if h : i < 16 then if i = 0 then c else { c with regs := c.regs.set i v } else c

/-- P0 reads as 1. -/
def CtxSt.p (c : CtxSt) (i : Nat) : Bool := i == 0 || c.preds.getLsbD i

/-- A write to P0 is discarded. -/
def CtxSt.setP (c : CtxSt) (i : Nat) (v : Bool) : CtxSt :=
  if i = 0 then c
  else { c with preds := if v then c.preds ||| (1#8 <<< i) else c.preds &&& ~~~(1#8 <<< i) }

/-! ### The order of R101 -/

/-- The contenders, ascending, in the order in which they win at this instant: number ⌊t / 5 ns⌋ mod n
first, then ascending with wrap. -/
def rotate101 (now : Nat) (xs : List Nat) : List Nat :=
  if xs.isEmpty then [] else
    let k := now / 5 % xs.length
    xs.drop k ++ xs.take k

/-! ### Retirement -/

/-- The program counter has reached a slot: a loop whose body ends there starts its next iteration or
ends (R191). -/
def loopEnd (c : CtxSt) : CtxSt :=
  go c.loops c
where
  go : List LoopFrame → CtxSt → CtxSt
  | [], c => { c with loops := [] }
  | f :: fs, c =>
    if c.pc.toNat = f.last then
      if f.left = 0 then go fs c
      else { c.setS f.reg (BitVec.ofNat 64 (f.iter + 1)) with
          pc := BitVec.ofNat 44 f.first
          loops := { f with left := f.left - 1, iter := f.iter + 1 } :: fs }
    else { c with loops := f :: fs }

/-- The context after the instruction at its program counter. -/
def advance (c : CtxSt) : CtxSt := loopEnd { c with pc := c.pc + 1 }

/-- The instruction at the context's program counter retires: the pace counter advances (R208), and a
context that waited may issue again. -/
def State.retire (s : State) (c x : Nat) : State :=
  s.mapCtx c x fun v => { advance v with status := .ready, wait := .none, pace := s.now }

/-- PC of the status word (R212). -/
def CtxSt.pcField (c : CtxSt) : Nat := if c.stream then c.pc.toNat else c.pc.toNat % 4096

/-- STATE of the status word (R183). -/
def CtxStatus.code : CtxStatus → Nat
  | .idle => 0
  | .ready => 1
  | .waiting => 2
  | .parkedT => 3
  | .atFence => 4
  | .stopped => 5
  | .faulted => 6

/-- The status word (R212). -/
def CtxSt.word (v : CtxSt) : BitVec 128 :=
  BitVec.ofNat 4 v.status.code ++ v.cause ++ BitVec.ofBool v.stream ++ BitVec.ofNat 3 v.loops.length ++
  v.stageKey ++ 0#60 ++ BitVec.ofNat 44 v.pcField

/-- A context started by the host that enters IDLE or FAULTED sends vector 5 (R456). -/
def State.ctxEnded (s : State) (c x : Nat) : State :=
  if s.host.started.contains (ctxKey c x) then s.interrupt 5 else s

/-- The context has ended or faulted: its die controller is interrupted (R191, R210). -/
def State.ctxStops (s : State) (c x : Nat) : State := (s.emit (.dcInterrupt c x)).ctxEnded c x

/-- The context enters FAULTED (R210); in a job, the die controller fails the job stage (R428). -/
def State.ctxFault (s : State) (c x cause : Nat) : State :=
  let v := s.ctx c x
  let s := s.setCtx c x { v with status := .faulted, cause := BitVec.ofNat 8 cause, wait := .none }
  let s := (s.count 0x4032 c).log 0x4030 (domCore c) [(8, c), (3, x), (44, v.pcField), (8, cause)]
  let s := s.ctxStops c x
  s.on s.job.loaded fun s => (s.faultCount 0x0F).jobFail 0x0F

/-! ### Semaphores (R200-R203) -/

/-- The contexts of core `c` that wait on semaphore `n`, with their counts, ascending. -/
def State.semWaiters (s : State) (c n : Nat) : List (Nat × Nat) :=
  (List.range 8).filterMap fun x =>
    match (s.ctx c x).wait with
    | .sem m k _ => if m = n then some (x, k) else none
    | _ => none

/-- A wait ends with a broken semaphore (R202). -/
def State.brokenWait (s : State) (c x : Nat) : State :=
  (s.log 0x4031 (domCore c)).ctxFault c x 4

/-- Waiters are examined in the order of R101: each is released if its count is there, or faults if the
semaphore is broken (R202). -/
def State.evalSem (s : State) (c n : Nat) : State :=
  let ws := (s.semWaiters c n).map (·.1)
  s.each (rotate101 s.now ws) fun s x =>
    match (s.ctx c x).wait with
    | .sem m k _ =>
      let v := s.sem c n
      if m ≠ n then s
      else if v.broken then s.brokenWait c x
      else if k ≤ v.count.toNat then
        (s.setSem c n { v with count := v.count - BitVec.ofNat 16 k, innerTakes := v.innerTakes + k }).retire c x
      else s
    | _ => s

/-- The semaphore breaks, and waits on it end (R200, R202). -/
def State.breakSem (s : State) (c n : Nat) : State :=
  (s.setSem c n { s.sem c n with broken := true }).evalSem c n

/-- A sleeping die begins to wake (R372). -/
def State.wakeDie (s : State) (d : Nat) : State :=
  match Tbl.get .awake s.dies d with
  | .asleep =>
    { s with
      dies := Tbl.set .awake s.dies d .waking
      supply := { s.supply with dieWakes := Tbl.set 0 s.supply.dieWakes d s.now } }
  | _ => s

/-- A sleeping core begins to wake (R372); with its die asleep, the die first. -/
def State.wakeCore (s : State) (c : Nat) : State :=
  (s.wakeDie (c / 48)).mapCore c fun v =>
    match v.power with
    | .asleep => { v with power := .waking, wakeAt := s.now }
    | .draining => { v with power := .awake }
    | _ => v

/-- Posts of one cycle arrive at a semaphore as one sum (R202, R203). `inner`: made by the core's own
contexts or items, and counted in INNER_POSTS (R205). -/
def State.post (s : State) (c sem n : Nat) (inner : Bool) : State :=
  if 64 ≤ sem then (s.count 0x4030 2).log 0x4033 (domCore c)
  else
    let p := (s.core c).power
    if p = .asleep ∨ p = .waking then
      (s.mapCore c fun v => { v with latePosts := v.latePosts ++ [(sem, n)] }).wakeCore c
    else
      let v := s.sem c sem
      let v := if inner then { v with innerPosts := v.innerPosts + n } else v
      if 65535 < v.count.toNat + n then
        ((s.setSem c sem v).log 0x4034 (domCore c)).breakSem c sem
      else
        let s := s.setSem c sem { v with count := v.count + BitVec.ofNat 16 n }
        let s := s.each (List.range 8) fun s x =>
          match (s.ctx c x).wait with
          | .sem m k _ => if m = sem then s.mapCtx c x fun v => { v with wait := .sem m k s.now } else s
          | _ => s
        s.evalSem c sem

/-- A completed item posts its DONE_SEM, if it names one (R194: 0xFF names none). -/
def State.postDone (s : State) (c sem : Nat) (inner : Bool) : State :=
  if sem = 0xFF then s else s.post c sem 1 inner

/-- The DONE_SEM of a discarded or failed item breaks. -/
def State.breakDone (s : State) (c sem : Nat) : State :=
  if sem < 64 then s.breakSem c sem else s

/-- Every semaphore whose PRODUCER lies in the domain breaks (R419). -/
def State.breakProducer (s : State) (dom : Nat) : State :=
  s.each (s.sems.filterMap fun e =>
      let p := e.2.producer.toNat
      if p ≠ 0 && domWithin p dom then some e.1 else none)
    fun s k => s.breakSem (k / 64) (k % 64)

/-! ### Stalled MM.Gs (R153) -/

/-- The cycles in which any MM.G has stalled are counted up to now; every stall still on counts from here. -/
def State.countStalls (s : State) : State :=
  match s.ctxs.filterMap fun e => match e.2.wait with | .gather _ t => some t | _ => none with
  | [] => s
  | t :: ts =>
    let s := s.count64 0x4010 7 ((s.now - ts.foldl min t) * s.job.clockMhz / 1000)
    { s with ctxs := s.ctxs.map fun e => (e.1, match e.2.wait with | .gather p _ => { e.2 with wait := .gather p s.now } | _ => e.2) }

/-! ### The interval between fences (R206) -/

/-- After a change of a context of the core: the interval stands still while all of them are PARKED_T or IDLE. -/
def State.noteActive (s : State) (c : Nat) : State :=
  let active := (List.range 8).any fun x => !([CtxStatus.idle, .parkedT].contains (s.ctx c x).status)
  s.mapCore c fun k =>
    match k.fenceAt, k.parkedAt, active with
    | some _, none, false => { k with parkedAt := some s.sched }
    | some t, some p, true => { k with fenceAt := some (t + (s.sched - p)), parkedAt := none }
    | _, _, _ => k

/-! ### Items of a context (R184, R201) -/

/-- The context has an item of a kind selected by a WAIT.Q mask that has not completed: [4] MM, [3]
MM.G, [2] vector, [1] in-mover, [0] out-mover. -/
def State.ownItems (s : State) (c x mask : Nat) : Bool :=
  let k := s.core c
  let run := match k.running with
    | some r => r.item :: k.passQ
    | none => k.passQ
  let mov (out : Nat) : Bool :=
    let m := s.mover (2 * c + out)
    m.queue.any (·.ctx == x) || (match m.run with | some r => r.item.ctx == x | none => false)
  (bitAt mask 4 && run.any fun i => i.ctx == some x) ||
  (bitAt mask 3 && (run.any (fun i => i.ctx.isNone && i.reqs.any (·.ctx == x)) ||
    k.groups.any fun g => match g.2 with | some g => g.reqs.any (·.ctx == x) | none => false)) ||
  (bitAt mask 2 && k.vecQ.any (·.ctx == x)) ||
  (bitAt mask 1 && mov 0) || (bitAt mask 0 && mov 1)

/-- A WAIT.Q whose items have all completed ends. -/
def State.evalWaitQ (s : State) (c : Nat) : State :=
  s.each (List.range 8) fun s x =>
    match (s.ctx c x).wait with
    | .waitQ m => if s.ownItems c x m then s else s.retire c x
    | _ => s

/-- Every queue of the core (R184) is empty. -/
def State.queuesEmpty (s : State) (c : Nat) : Bool :=
  let k := s.core c
  k.passQ.isEmpty && k.running.isNone && k.vecQ.isEmpty && k.groups.isEmpty &&
  ([0, 1].all fun o => let m := s.mover (2 * c + o); m.queue.isEmpty && m.run.isNone)

end Sys2Proof.Machine
end

