-- ==== Sys2Proof/Machine/Junction.lean ====
section
/-!
DEFINITION. The junctions: the link map, routing, link queues and credits, and flow contexts
(R91-R114).
-/

namespace Sys2Proof.Machine

/-! ### The link map (R91-R94) -/

def nibble (m k : Nat) : Nat := m / 16 ^ k % 16

def mapUsed (e : Nat) : Bool := bitAt e 8
def mapDim (e : Nat) : Nat := fld e 7 6
def mapXor (e : Nat) : Nat := fld e 5 2
def mapGang (e : Nat) : Nat := fld e 1 0

/-- Links that a partner of XOR value `x` has in each dimension (R92). -/
def gangSize (dims x : Nat) : Nat :=
  let per := 60 / dims
  per / 15 + (if decide (per % 15 = 5) && [1, 2, 4, 8, 15].contains x then 1 else 0)

/-- A link map, given entry by entry, describes R91 and R92 for `dims` dimensions (R93). -/
def linkMapOk (dims : Nat) (entry : Nat → Nat) : Bool :=
  let used := (List.range 64).filter fun l => mapUsed (entry l)
  decide (1 ≤ dims) && decide (dims ≤ 4) && decide (used.length = 60) &&
  ((List.range 64).all fun l => decide (fld (entry l) 15 9 = 0)) &&
  used.all fun l =>
    let e := entry l
    decide (mapDim e < dims) && decide (mapXor e ≠ 0) && decide (mapGang e < gangSize dims (mapXor e)) &&
    decide ((used.filter fun k => entry k % 512 == e % 512).length = 1)

def State.mapEntry (s : State) (l : Nat) : Nat := s.obj 0x6001 l

/-- The map in force is valid and agrees with the link roles (R93). -/
def State.mapOk (s : State) : Bool :=
  linkMapOk (s.obj 0x6000 1) s.mapEntry &&
  (List.range 64).all fun l => !mapUsed (s.mapEntry l) || s.role l == 1

/-- The partner is out of service for routing (R103). -/
def State.partnerOos (s : State) (l : Nat) : Bool := (Tbl.get .reset s.time.links l).oos

/-- Links of the gang toward XOR value `x` in dimension `k` that are up, in gang order (R103). -/
def State.gang (s : State) (k x : Nat) : List Nat :=
  ((List.range 4).flatMap fun g => (List.range 64).filter fun l =>
    let e := s.mapEntry l
    mapUsed e && mapDim e == k && mapXor e == x && mapGang e == g).filter s.linkUp

/-! ### Routing (R102, R103) -/

/-- Where a packet goes next. -/
inductive Hop where
  | here
  | link (l : Nat)
  | wait
  | unreachable
  deriving DecidableEq, Repr

/-- The lowest dimension in which two module numbers differ. -/
def firstDim (a b : Nat) : Option Nat := (List.range 4).find? fun k => nibble a k != nibble b k

/-- The second link of a detour, from nibble `m` to the destination's, is up. How a module knows that is open: here by the
lost-link set, with the link numbers of its own map (assumption 110). -/
def State.detourEndUp (s : State) (cur dst k m : Nat) : Bool :=
  let x := Nat.xor m (nibble dst k)
  let far := cur - nibble cur k * 16 ^ k + m * 16 ^ k
  let end_ := far - m * 16 ^ k + nibble dst k * 16 ^ k
  (List.range 64).any fun l =>
    let e := s.mapEntry l
    mapUsed e && mapDim e == k && mapXor e == x && !(s.hold.lost.contains (min far end_ * 64 + l))

/-- The hop of a packet on VC0, VC1 or VC4 that came by link `from_` (R103). -/
def State.orderedHop (s : State) (dst seq : Nat) (from_ : Option Nat) : Hop :=
  let cur := s.moduleNumber
  match firstDim cur dst with
  | none => .here
  | some k =>
    let x := Nat.xor (nibble cur k) (nibble dst k)
    let g := (s.gang k x)
    let oos := g.any s.partnerOos
    if !g.isEmpty && !oos then .link (g.getD (seq % g.length) 0)
    else
      let onDetour := match from_ with
        | some l => mapUsed (s.mapEntry l) && mapDim (s.mapEntry l) == k
        | none => false
      let isDst := oos && (firstDim (cur - nibble cur k * 16 ^ k + nibble dst k * 16 ^ k) dst).isNone
      if onDetour || isDst then .unreachable
      else
        let low := min (nibble cur k) (nibble dst k)
        match (List.range low).find? fun m =>
            let h := s.gang k (Nat.xor (nibble cur k) m)
            !h.isEmpty && !h.any s.partnerOos && s.detourEndUp cur dst k m with
        | some m =>
          let h := s.gang k (Nat.xor (nibble cur k) m)
          .link (h.getD (seq % h.length) 0)
        | none => .unreachable

/-- The hop of a packet on VC2 or VC3: the minimal link with the most free credits, ties to the lowest
number (R102). -/
def State.adaptiveHop (s : State) (dst vc flits : Nat) : Hop :=
  let cur := s.moduleNumber
  if cur = dst then .here
  else
    let ok := (List.range 64).filter fun l =>
      let e := s.mapEntry l
      let k := mapDim e
      mapUsed e && s.linkUp l && !s.partnerOos l && nibble cur k != nibble dst k &&
      mapXor e == Nat.xor (nibble cur k) (nibble dst k) && decide (flits ≤ (s.link l).credits.getD vc 0)
    match ok with
    | [] => .wait
    | l :: ls =>
      .link (ls.foldl (fun b l =>
        if (s.link b).credits.getD vc 0 < (s.link l).credits.getD vc 0 then l else b) l)

/-- Out of service or in module bivouac: no packet in transit is accepted (R43, R103). -/
def State.noTransit (s : State) : Bool := s.obj 0x9003 1 == 1 || s.kind == 6

/-- A packet for a unit of this module: management goes to the receive ring, and is dropped when the
ring is full (R119). -/
def State.deliver (s : State) (p : Packet) : State :=
  if p.op = 6 then
    if s.fabric.vc0Ring.length < 256 then
      { s with fabric := { s.fabric with vc0Ring := s.fabric.vc0Ring ++ [p] } }
    else (s.count 0x6000 5).log 0x600B (domDie 4)
  else s.emit (.deliver p)

/-- The input port of die `h` as a link of the module, if it is one (R97). -/
def portLink (die port : Nat) : Option Nat := if port < 32 then some (32 * die + port) else none

/-- The hop of a packet that waits: by its class, or toward VC4 once it escapes, each with the credit that R102 asks for. -/
def State.hopOf (s : State) (w : Waiting) : Hop :=
  let p := w.p
  if p.dst = s.moduleNumber then .here
  else if w.escaping then
    match s.orderedHop p.dst p.seq (portLink w.die w.port) with
    | .link l => if p.flits ≤ (s.link l).credits.getD 4 0 then .link l else .wait
    | h => h
  else if s.noTransit && !w.own && p.vc != 0 then .unreachable
  else if p.vc = 2 ∨ p.vc = 3 then s.adaptiveHop p.dst p.vc p.flits
  else s.orderedHop p.dst p.seq (portLink w.die w.port)

/-- An ERROR that answers a request (R105, R111), as a packet: under the key of the context that answers, if this module has
it. -/
def State.errorFor (s : State) (p : Packet) (status : Nat) : Packet :=
  let key := if p.dst = s.moduleNumber then (s.flow p.dstCtx).stageKey.toNat else 0
  ⟨packetHeader 0x25 1 s.moduleNumber p.src p.srcCtx p.dstCtx p.seq key 0 0 0 0 0 0 0 status, []⟩

/-- The packet waits on. -/
def State.keepWaiting (s : State) (w : Waiting) : State :=
  { s with fabric := { s.fabric with waiting := s.fabric.waiting ++ [w] } }

/-- A packet takes its hop (R97-R103): into the queue of a link, of the other H-die by the bridge between them where that
has room; to a unit of this module; or it waits. An unreachable one is discarded, and a request answered by `answer`.
A packet on VC2 or VC3, and one that escapes, takes its credit at the next input with the hop. -/
def State.route (s : State) (w : Waiting) (answer : State → Packet → State) : State :=
  let p := w.p
  let freed := fun s : State => if w.buffered then s.owe w.die w.port p.vc p.flits else s
  match s.hopOf w with
  | .here => (freed s).deliver p
  | .wait => s.keepWaiting w
  | .link l =>
    let paid := w.escaping || p.vc == 2 || p.vc == 3
    let next := p.hopped (if w.escaping then 4 else p.vc) w.escaping
    if l / 32 = w.die then
      s.enqueue l ⟨w.port, w.own, false, paid, if w.buffered then some p.vc else none, next⟩
    else if s.portRoom (l / 32) 34 p then (freed s).enqueue l ⟨34, w.own, false, paid, some p.vc, next⟩
    else s.keepWaiting w
  | .unreachable =>
    let s := ((freed s).count 0x6000 6).log 0x600C (domDie (4 + w.die))
    if isRequest p.op then answer s (s.errorFor p 6) else s

/-- A packet of the units of this module enters the junction of `die`, by the bridge to the C-die it comes from, and takes
its first hop; without room in the port's buffer it waits at its unit. -/
def State.inject (s : State) (die : Nat) (p : Packet) (unit : Option Nat := none) : State :=
  let port := unitPort die unit
  let w : Waiting := ⟨die, port, true, s.portRoom die port p, false, p, s.now⟩
  if w.buffered || p.dst == s.moduleNumber then s.route w fun s _ => s else s.keepWaiting w

/-- The ERROR that answers a request (R105, R111). -/
def State.errorTo (s : State) (die : Nat) (p : Packet) (status : Nat) : State :=
  s.inject die (s.errorFor p status) (cdieOf p)

/-- A discarded or unreachable request is answered. -/
def State.refusePacket (s : State) (die : Nat) (p : Packet) (status : Nat) : State :=
  if isRequest p.op then s.errorTo die p status else s

/-- The junction of `die` takes in an arriving packet and routes it (R102-R105). The sender holds credit for all of its
flits, so one for which the buffer has no room does not arrive. -/
def State.forward (s : State) (die port : Nat) (p : Packet) : State :=
  if !p.ok then
    (((s.owe die port p.vc p.flits).count 0x6000 7).log 0x600A (domDie (4 + die))).refusePacket die p 7
  else if !s.portRoom die port p then s
  else s.route ⟨die, port, false, true, false, p, s.now⟩ fun s e => s.inject die e

/-- Packets that wait are tried again, in order. -/
def State.retryWaiting (s : State) : State :=
  let ws := s.fabric.waiting
  let s := { s with fabric := { s.fabric with waiting := [] } }
  s.each ws fun s w =>
    let w := { w with buffered := w.buffered || s.portRoom w.die w.port w.p }
    if w.buffered then s.route w fun s e => s.inject w.die e else s.keepWaiting w

/-- A link is lost for good: the packets in its queue, and the one being sent, take another way. -/
def State.reroute (s : State) (l : Nat) : State :=
  let v := s.link l
  let qs := (v.sending.map (·.1)).toList ++ v.queue
  let s := s.setLink l { v with queue := [], sending := none }
  s.each (qs.filter fun q => !q.first) fun s q =>
    let h := q.p.header.toNat
    let p := { q.p with header := BitVec.ofNat 512 (setFld h 189 187 (fld h 189 187 - 1)) }
    s.route ⟨l / 32, q.port, q.own, q.buf.isSome, false, p, s.now⟩ fun s e => s.inject (l / 32) e

/-! ### Free slots (R98-R101) -/

/-- The flits that a free slot of the link carries: eight, six on three lanes (R95). -/
def State.slotFlits (s : State) (l : Nat) : Nat := if s.linkState l = 3 then 6 else 8

/-- A queued packet may be sent with `budget` flits of this slot left: the next input has credit for all of it, and VC0 that
this module originates stays within one slot per 60 ns (R98, R100). -/
def Queued.sendable (q : Queued) (v : LinkSt) (now budget : Nat) (bivouac : Bool) : Bool :=
  (q.paid || decide (q.p.flits ≤ v.credits.getD q.p.vc 0)) && (!bivouac || q.p.vc == 0) &&
  (q.p.vc != 0 || !q.own ||
    (decide (q.p.flits ≤ budget) &&
      match v.lastVc0 with | some t => decide (t + 60 ≤ now) || t / 5 == now / 5 | none => true))

/-- The first packet of each port on a VC, ports ascending: the contenders (R101); hold and resume messages before all else
on VC0 (R83). -/
def contenders (q : List Queued) (vc : Nat) (ok : Queued → Bool) : List Queued :=
  let heads := ((List.range 35).filterMap fun p => q.find? fun e => e.port == p && e.p.vc == vc).filter ok
  if heads.any (·.first) then heads.filter (·.first) else heads

/-- The VC that a link serves next: the order of R100, with the share of VC2 and VC3. The runs of 16 packets are read as
consecutive blocks, not as any 16 packets in a row (assumption 112). -/
def nextVc (v : LinkSt) (ok : Nat → Bool) : Option Nat :=
  let need2 := !v.had2 && ok 2
  let need3 := !v.had3 && ok 3
  let need := (if need2 then 1 else 0) + (if need3 then 1 else 0)
  if 0 < need ∧ 16 - v.run ≤ need then some (if need2 then 2 else 3)
  else [0, 1, 4, 2, 3].find? ok

/-- The winner among the contenders of a VC: number ⌊t / 5 ns⌋ mod n first, then, in the same slot, the next in port
order (R101). -/
def winner (now vc : Nat) (last : Option (Nat × Nat)) (cs : List Queued) : Option Queued :=
  match last with
  | some (v, p) =>
    if v = vc then
      match cs.find? fun c => decide (p < c.port) with
      | some c => some c
      | none => cs.head?
    else cs[now / 5 % cs.length]?
  | none => cs[now / 5 % cs.length]?

/-- A packet has left whole: its buffer is free. -/
def State.sent (s : State) (l : Nat) (q : Queued) : State :=
  let s := (s.mapLink l fun v => { v with sending := none }).emit (.packet l q.p)
  match q.buf with
  | some vc => s.owe (l / 32) q.port vc q.p.flits
  | none => s

/-- One slot's flits on a link. -/
def State.sendFlits (s : State) (l : Nat) : Nat → Nat → Option (Nat × Nat) → State
  | 0, _, _ => s
  | fuel + 1, budget, last =>
    let v := s.link l
    match v.sending with
    | some (q, r) =>
      if budget < r then s.setLink l { v with sending := some (q, r - budget) }
      else (s.sent l q).sendFlits l fuel (budget - r) last
    | none =>
      if budget = 0 then s
      else
        let ok := fun q => Queued.sendable q v s.now budget (s.kind == 6)
        match nextVc v fun vc => !(contenders v.queue vc ok).isEmpty with
        | none => s
        | some vc =>
          match winner s.now vc last (contenders v.queue vc ok) with
          | none => s
          | some q =>
            let run := (v.run + 1) % 16
            let v := { v with
              queue := v.queue.erase q
              credits := if q.paid then v.credits else v.credits.set vc (v.credits.getD vc 0 - q.p.flits)
              sending := some (q, q.p.flits)
              run := run
              had2 := run != 0 && (v.had2 || vc == 2)
              had3 := run != 0 && (v.had3 || vc == 3)
              lastVc0 := if vc = 0 ∧ q.own then some s.now else v.lastVc0 }
            (s.setLink l v).sendFlits l fuel budget (some (vc, q.port))

/-! ### Flow contexts (R106-R110) -/

/-- The H-die that homes a context (R106). -/
def home (c : Nat) : Nat := c / 131072

/-- Every use by the owner renews the lease (R109). -/
def State.renewLease (s : State) (c : Nat) : State :=
  s.setFlow c { s.flow c with leaseEnd := BitVec.ofNat 48 (s.now / 1000 + s.obj 0x6010 1) }

/-- RESP_TIMEOUT of a context, in µs. -/
def State.respTimeout (s : State) (c : Nat) : Nat :=
  match (s.flow c).respTimeout with
  | some t => t.toNat
  | none => s.obj 0x6010 2

def State.poolFree (s : State) (die : Nat) : Nat :=
  if die = 0 then s.fabric.poolFree0 else s.fabric.poolFree1

def State.setPool (s : State) (die n : Nat) : State :=
  { s with fabric := if die = 0 then { s.fabric with poolFree0 := n } else { s.fabric with poolFree1 := n } }

/-- The unit that waits for a request is completed with an error (R109): a mover's descriptor fails with
code 0x14. -/
def State.failIssuer (s : State) (r : Request) : State :=
  match r.issuer with
  | .mover m _ _ =>
    let v := s.mover m
    s.setMover m { v with run := v.run.map fun x =>
      { x with fault := x.fault.orElse fun _ => some (0x14, r.addr), remaining := 0 } }
  | _ => s

/-- Requests queue at their issuers (R110); one on a context that is not open is completed with an error at once (R109). -/
def State.queueRequests (s : State) (rs : List Request) : State :=
  s.each rs fun s r =>
    if (s.flow r.ctx).state = .opened then { s with fabric := { s.fabric with waitReq := s.fabric.waitReq ++ [r] } }
    else s.failIssuer r

/-- Bytes that a request reserves (R110). -/
def Request.reserve (r : Request) : Nat := if r.op = 1 then 64 + roundUp r.length 64 else 64

/-- A response has come: its reservation is released. -/
def State.releaseRequest (s : State) (r : Request) (st : Nat) : State :=
  let f := s.flow r.ctx
  let s := { s with fabric := { s.fabric with inFlight := s.fabric.inFlight.erase r } }
  let s := s.setPool (home r.ctx) (s.poolFree (home r.ctx) + r.bytes)
  s.setFlow r.ctx { f with
    outstanding := f.outstanding - 1
    respReserved := f.respReserved - BitVec.ofNat 24 r.bytes
    error := if st = 0 then f.error else BitVec.ofNat 8 st }

/-- A BREAK to the peer of a context. -/
def State.sendBreak (s : State) (c : Nat) (f : Flow) : State :=
  s.inject (home c)
    ⟨packetHeader 7 0 s.moduleNumber f.peerModule.toNat f.peerContext.toNat c 0 f.stageKey.toNat 0 0 0 0 0 0 0 0, []⟩

/-- An open context becomes `f`: its response reservations are released, and each unit that waits on it is completed
with an error. -/
def State.endFlow (s : State) (c : Nat) (f : Flow) (note : State → State) : State :=
  let die := home c
  let mine := (s.fabric.inFlight ++ s.fabric.waitReq).filter (·.ctx.val == c)
  let bytes := (s.fabric.inFlight.filter (·.ctx.val == c)).foldl (fun n r => n + r.bytes) 0
  let s := { s with fabric := { s.fabric with
    inFlight := s.fabric.inFlight.filter (·.ctx.val != c)
    waitReq := s.fabric.waitReq.filter (·.ctx.val != c) } }
  let s := (s.setPool die (s.poolFree die + bytes)).setFlow c f
  let s := note (s.setObj 0x6010 3 (s.obj 0x6010 3 - 1))
  s.each mine fun s r => s.failIssuer r

/-- The context breaks (R109). -/
def State.breakFlow (s : State) (c err : Nat) (tell : Bool) : State :=
  let f := s.flow c
  if f.state ≠ .opened then s
  else
    let g := { f with state := .broken, error := BitVec.ofNat 8 err, outstanding := 0, respReserved := 0 }
    let s := s.endFlow c g fun s => (s.count 0x6010 4).log (if err = 9 then 0x6009 else 0x6008)
      (domDie (4 + home c)) [(32, c), (8, err)]
    s.on tell (·.sendBreak c f)

/-- A use of a context through its home die's cache (R106). A fill that meets a poisoned codeword breaks the context with
ERROR 0x08 (R360). -/
def State.useFlow (s : State) (c : Nat) : State :=
  let k := 2048 * home c + c % 2048
  let set := Tbl.get [] s.fabric.cache k
  let hit := set.contains c
  let set := (c :: set.erase c).take 8
  let s := { s with fabric := { s.fabric with cache := Tbl.set [] s.fabric.cache k set } }
  s.on (!hit) fun s =>
    let s := s.count64 0x6010 5
    let at_ := flowTable + 128 * c
    s.on (s.poisoned at_ 128) fun s => (s.readPoison at_ 128).breakFlow c 8 true

/-- A request reserves its response and enters the fabric; one whose destination is unreachable is answered at once (R103,
R110). -/
def State.issueRequest (s : State) (r : Request) : State :=
  let die := home r.ctx
  let s := s.useFlow r.ctx
  if (s.flow r.ctx).state ≠ .opened then s
  else
    let s := s.renewLease r.ctx
    let f := s.flow r.ctx
    let n := r.reserve
    let s := s.setFlow r.ctx { f with
      txSeq := f.txSeq + 1, outstanding := f.outstanding + 1
      respReserved := f.respReserved + BitVec.ofNat 24 n }
    let s := s.setPool die (s.poolFree die - n)
    let seq := f.txSeq.toNat
    let s := { s with fabric := { s.fabric with
      waitReq := s.fabric.waitReq.erase r
      inFlight := s.fabric.inFlight ++ [{ r with seq := seq, bytes := n, at_ := s.now }] } }
    let vc := if f.ordered then 4 else f.reqVc.toNat
    let p : Packet := ⟨packetHeader r.op vc s.moduleNumber f.peerModule.toNat f.peerContext.toNat r.ctx seq
      f.stageKey.toNat r.addr r.addrKind r.length 0 0 0 0 0, r.data⟩
    let lost := s.orderedHop p.dst p.seq none == .unreachable && vc == 4
    let unit := match r.issuer with
      | .mover m _ _ => some (m / 96)
      | .repair | .other => none
    let s := s.inject die p unit
    s.on lost fun s => s.errorTo die p 6

/-- Contexts owned by the domain break (R419). -/
def State.breakOwned (s : State) (dom : Nat) : State :=
  s.each (s.fabric.flows.filterMap fun e =>
      if e.2.owner.toNat ≠ 0 && domWithin e.2.owner.toNat dom then some e.1 else none)
    fun s c => s.breakFlow c 5 true

/-- A reset of a domain releases the holds that it, or a domain within it, owns (R419). -/
def State.releaseHolds (s : State) (dom : Nat) : State := (s.breakProducer dom).breakOwned dom

/-- The BREAKs of a module reset, which begins by releasing its holds, leave on the links before these restart. -/
def State.flushBreaks (s : State) : State :=
  s.each (List.range 64) fun s l =>
    s.each ((s.link l).queue.filter fun q => q.own && q.p.op == 7) fun s q => s.emit (.packet l q.p)

/-- The 1,024-bit layout of R107. -/
def State.flowImage (s : State) (c : Nat) : BitVec 1024 :=
  let f := s.flow c
  let st : BitVec 4 := match f.state with | .free => 0 | .opened => 1 | .broken => 2
  0x2#4 ++ st ++ f.peerModule ++ f.peerContext ++ f.stageKey ++ f.owner ++ f.leaseEnd ++ f.reqVc ++
  BitVec.ofBool f.ordered ++ f.txSeq ++ f.rxNext ++ f.outstanding ++ f.outLimit ++ f.respReserved ++
  f.ringBase ++ f.ringLog2 ++ f.ringHead ++ f.ringTail ++ f.notifyMode ++ f.notifyCore ++ f.notifySem ++
  f.msixVector ++ f.error ++ BitVec.ofNat 16 (s.respTimeout c) ++ 0#640

/-- The context that an image describes. -/
def flowOf (w : Nat) : Flow where
  state := .opened
  peerModule := BitVec.ofNat 16 (fld w 1015 1000)
  peerContext := BitVec.ofNat 18 (fld w 999 982)
  stageKey := BitVec.ofNat 8 (fld w 981 974)
  owner := BitVec.ofNat 16 (fld w 973 958)
  leaseEnd := BitVec.ofNat 48 (fld w 957 910)
  reqVc := BitVec.ofNat 2 (fld w 909 908)
  ordered := bitAt w 907
  txSeq := BitVec.ofNat 32 (fld w 906 875)
  rxNext := BitVec.ofNat 32 (fld w 874 843)
  outstanding := BitVec.ofNat 16 (fld w 842 827)
  outLimit := BitVec.ofNat 16 (fld w 826 811)
  respReserved := BitVec.ofNat 24 (fld w 810 787)
  ringBase := BitVec.ofNat 41 (fld w 786 746)
  ringLog2 := BitVec.ofNat 5 (fld w 745 741)
  ringHead := BitVec.ofNat 24 (fld w 740 717)
  ringTail := BitVec.ofNat 24 (fld w 716 693)
  notifyMode := BitVec.ofNat 2 (fld w 692 691)
  notifyCore := BitVec.ofNat 8 (fld w 690 683)
  notifySem := BitVec.ofNat 8 (fld w 682 675)
  msixVector := BitVec.ofNat 11 (fld w 674 664)
  error := BitVec.ofNat 8 (fld w 663 656)
  respTimeout := some (BitVec.ofNat 16 (fld w 655 640))

/-- An image that an open accepts (R107, R108); its ring lies in software-visible memory (R25, R26, R357). Whether one may
carry OUTSTANDING or RESP_RESERVED not zero is open: here it is refused (assumption 114). -/
def flowOk (w : Nat) : Bool :=
  decide (fld w 1023 1020 = 2) && decide (fld w 1019 1016 < 3) && decide (2 ≤ fld w 909 908) &&
  domValid (fld w 973 958) && decide (1 ≤ fld w 826 811) && decide (fld w 786 746 % 64 = 0) &&
  (decide (fld w 745 741 = 0) || (decide (12 ≤ fld w 745 741) && decide (fld w 745 741 ≤ 24) &&
    decide (fld w 786 746 + 2 ^ fld w 745 741 ≤ memTop) && !touchesReserved (fld w 786 746) (2 ^ fld w 745 741))) &&
  decide (fld w 692 691 < 3) && decide (10 ≤ fld w 655 640) && decide (fld w 655 640 ≤ 10000) &&
  decide (fld w 639 0 = 0) && decide (fld w 842 827 = 0) && decide (fld w 810 787 = 0) &&
  (fld w 692 691 != 1 || (decide (fld w 690 683 < 192) && decide (fld w 682 675 < 64)))

end Sys2Proof.Machine
end

