-- ==== Sys2Proof/Machine/Resets.lean ====
section
/-!
DEFINITION. Core and mover resets (R152, R207, R244, R418, R419).
-/

namespace Sys2Proof.Machine

/-- Those of `xs` whose bit is set in a free value: any of them, none or all (R243). -/
def freeSubset {α : Type} (n : Nat) : List α → List α
  | [] => []
  | x :: xs => if n.testBit 0 then x :: freeSubset (n / 2) xs else freeSubset (n / 2) xs

/-- A slot's bytes with their keys. -/
def SlotWrite.cells (w : SlotWrite) : List (Nat × Byte) :=
  ((List.range w.bytes.length).zip w.bytes).map fun p => (w.at_ + p.1, p.2)

/-- A slot is written with its map byte (R259). -/
def State.landCoded (s : State) (w : SlotWrite) : State :=
  if w.toMem then (s.writeBytes w.cells).writeBytes [(w.mapAt, w.map)]
  else
    { s with
      stores := w.cells.foldl (fun m c => Tbl.set 0 m c.1 c.2) s.stores
      maps := Tbl.set 0 s.maps w.mapAt w.map }

/-- A descriptor ends early: each byte of its written footprint holds its old or its new value (R243);
a slot's map byte is new only with the slot's bytes (R259). -/
def State.partialWrites (s : State) (r : MovRun) : State :=
  let (a, s) := s.draw
  let (b, s) := s.draw
  let s := (s.writeBytes (freeSubset a r.memWrites)).storeBytes (freeSubset b r.storeWrites)
  s.each r.slots fun s w =>
    let (n, s) := s.draw
    if n.testBit 0 then s.landCoded w
    else if w.toMem then s.writeBytes (freeSubset (n / 2) w.cells)
    else { s with stores := (freeSubset (n / 2) w.cells).foldl (fun m c => Tbl.set 0 m c.1 c.2) s.stores }

/-- Requests of a mover whose claim has been released: their responses go nowhere (R244). -/
def State.releaseClaims (s : State) (m : Nat) : State :=
  let drop := fun r : Request => match r.issuer with
    | .mover k _ _ => if k = m then { r with issuer := .other } else r
    | _ => r
  let keep := fun r : Request => match r.issuer with
    | .mover k _ _ => k != m
    | _ => true
  { s with fabric := { s.fabric with
      inFlight := s.fabric.inFlight.map drop
      waitReq := s.fabric.waitReq.filter keep } }

/-- A mover reset (R244). Its record names the issuing context of the first descriptor discarded (assumption 119). -/
def State.moverReset (s : State) (m : Nat) : State :=
  let v := s.mover m
  let items := (match v.run with | some r => [r.item] | none => []) ++ v.queue
  let s := match v.run with
    | some r => s.partialWrites r
    | none => s
  let s := (s.setMover m { MoverSt.reset with pace := s.now }).releaseClaims m
  let s := s.each items fun s i => s.breakDone (m / 2) i.doneSem
  let s := s.releaseHolds (domMover m)
  (s.log 0x4045 (domMover m) [(8, m / 2), (1, m % 2), (3, (items.head?.map (·.ctx)).getD 0), (8, 0x16), (32, items.length)]).evalWaitQ (m / 2)

/-- A list without the entries whose key lies in [lo, hi). -/
def eraseKeys {α : Type} (lo hi : Nat) (t : Tbl α) : Tbl α :=
  t.filter fun e => !(decide (lo ≤ e.1) && decide (e.1 < hi))

/-! ### Rows of a pass (R131, R147) -/

/-- A row: its number, the request it belongs to, its number in it, and the tally delta it counts in. -/
structure PassRow where
  m : Nat
  rec_ : PassRec
  i : Nat
  delta : Nat
  deriving DecidableEq, Repr

def PassItem.rows (p : PassItem) : List PassRow :=
  match p.ctx with
  | some _ => (List.range p.rec_.m).map fun m => ⟨m, p.rec_, m, 0⟩
  | none =>
    (p.reqs.flatMap fun q => (List.range q.rec_.m).map fun i => (q.rec_, i)).mapIdx
      fun m q => ⟨m, q.1, q.2, m⟩

/-- Rows that the mask leaves. -/
def PassItem.live (p : PassItem) (mask : Nat) : List PassRow := p.rows.filter fun r => !mask.testBit r.m

/-- Passes, gathered requests and vector instructions of a core are discarded, rows already written
back staying, and its accumulators and weight registers cleared (R152). -/
def State.discardPasses (s : State) (c : Nat) : State :=
  let s := s.countStalls
  let k := s.core c
  let (n, s) := s.draw
  let s := match k.running with
    | some r =>
      let rows := (r.item.live r.mask).length
      let per := r.writes.length / max 1 rows
      s.each (r.writes.take (per * (n % (rows + 1)))) fun s w => s.storeWrite c 2 w.1 w.2
    | none => s
  let passes := k.passQ.length + (if k.running.isSome then 1 else 0)
  let reqs := k.groups.foldl (fun n g => match g.2 with | some g => n + g.reqs.length | none => n) 0
  let s := s.setCore c { k with
    passQ := [], running := none, groups := [], vecQ := [], suspended := false
    bankB := false, bankABytes := [], bankBBytes := [] }
  let s := { s with accs := eraseKeys (65536 * c) (65536 * (c + 1)) s.accs }
  let s := s.log 0x4011 (domCore c) [(32, passes)]
  s.on (reqs != 0) (·.log 0x4012 (domCore c))

/-- A core reset (R152, R418, R419): contexts, semaphores, frames, queues. Stores, store map,
instruction memory and the replay record are kept. -/
def State.coreReset (s : State) (c : Nat) : State :=
  let s := s.discardPasses c
  let s := s.each (List.range 64) fun s n => s.setSem c n { s.sem c n with broken := true }
  let s := s.each (List.range 8) fun s x =>
    (s.on ((s.ctx c x).status != .idle) (·.ctxEnded c x)).setCtx c x { CtxSt.reset with pace := s.now }
  let k := s.core c
  let s := s.setCore c { CoreSt.reset with
    gated := k.gated, power := k.power, replay := k.replay, tcache := k.tcache, wakeAt := k.wakeAt }
  s.releaseHolds (domCore c)

/-- A context as the replay record kept it, with what it must suppress (R207, R425). -/
def ReplayCtx.restore (r : ReplayCtx) (old : CtxSt) (now : Nat) : CtxSt :=
  { CtxSt.reset with
    status := r.status, stream := r.stream, pc := r.pc, regs := r.regs, preds := r.preds
    loops := r.loops, stageKey := r.stageKey, pace := now
    posts := old.posts, movs0 := old.movs0, movs1 := old.movs1
    done0 := old.done0, done1 := old.done1
    skipPosts := old.posts, skipMovs := old.movs0 + old.movs1
    ringLo := old.ringLo, ring := old.ring }

/-- The replay reset of R207; only from a replay record. -/
def State.replayReset (s : State) (c : Nat) : State :=
  let old := (List.range 8).map (s.ctx c)
  let rec_ := (s.core c).replay
  let s := s.discardPasses c
  let s := s.each (List.range 64) fun s n =>
    let v := s.sem c n
    s.setSem c n { v with
      count := BitVec.ofNat 16 (v.count.toNat + v.innerTakes - v.innerPosts)
      innerPosts := 0, innerTakes := 0 }
  let s := s.breakOwned (domCore c)
  let s := s.each (List.range 8) fun s x =>
    match rec_[x]?, old[x]? with
    | some r, some o => s.setCtx c x (r.restore o s.now)
    | _, _ => s
  (s.noteActive c |>.mapCore c fun k => { k with rerun := true, suppressedPosts := 0, suppressedMovs := 0 }).count 0x4036 c

end Sys2Proof.Machine
end

