-- ==== Sys2Proof/Machine/Issue.lean ====
section
/-!
DEFINITION. Fetching and issuing an instruction: the header, predication, the issue checks and their
faults (R184-R190, R210).
-/

namespace Sys2Proof.Machine

/-- Bits [hi:lo] as a mask. -/
def span (hi lo : Nat) : Nat := 2 ^ (hi + 1) - 2 ^ lo

/-- A bit of [111:0] that the layout does not assign is set (R188). -/
def unassigned (w : Nat) (fields : List (Nat × Nat)) : Bool :=
  let used := fields.foldl (fun n f => n + span f.1 f.2) 0
  Nat.land (w % 2 ^ 112) (2 ^ 112 - 1 - used) != 0

/-- The opcodes of R190. -/
def listedOpcode (o : Nat) : Bool :=
  o == 0x10 || o == 0x11 || (decide (0x20 ≤ o) && decide (o ≤ 0x2A)) || (decide (0x30 ≤ o) && decide (o ≤ 0x32)) ||
  o == 0x40 || (decide (0x50 ≤ o) && decide (o ≤ 0x57)) || (decide (0x60 ≤ o) && decide (o ≤ 0x67)) ||
  o == 0x70 || o == 0x71

/-- The opcodes with version 0x1 encodings (R190). -/
def heritageOpcode (o : Nat) : Bool :=
  listedOpcode o && !([0x11, 0x27, 0x2A, 0x71].contains o)

/-- Why an instruction fails its issue checks (R210). -/
inductive Reject where
  /-- The cause, with nothing counted or logged beyond the context fault. -/
  | cause (n : Nat)
  /-- A format fault (R181): the rule. -/
  | format (rule : Nat)
  /-- A pass or gathered request rejected: the rule of R129; `fmt`: it names a reserved format code. -/
  | pass (rule : Nat) (fmt : Bool)
  /-- A descriptor rejected: mover and code of R246; `fmt`: it names a reserved format code. -/
  | descriptor (mover code : Nat) (fmt : Bool)
  deriving DecidableEq, Repr

/-- The instruction does not execute and its context faults (R210). -/
def State.reject (s : State) (c x : Nat) (r : Reject) : State :=
  match r with
  | .cause n => s.ctxFault c x n
  | .format rule =>
    ((s.count 0x4020 4).log 0x4020 (domCore c) [(8, c), (3, x), (8, rule)]).ctxFault c x 3
  | .pass rule fmt =>
    let s := s.on fmt fun s => (s.count 0x4020 4).log 0x4020 (domCore c) [(8, c), (3, x), (8, 155)]
    ((s.count 0x4014 c).log 0x4010 (domCore c) [(8, c), (3, x), (8, rule)]).ctxFault c x 2
  | .descriptor m code fmt =>
    let s := s.on fmt fun s => (s.count 0x4020 4).log 0x4020 (domCore c) [(8, c), (3, x), (8, 155)]
    ((s.count 0x4044 c).log 0x4040 (domMover (2 * c + m)) [(8, c), (1, m), (3, x), (8, code)]).ctxFault c x 9

/-- The C-die of a core is not running: power-gated, in reset or asleep. -/
def State.coreDown (s : State) (c : Nat) : Bool :=
  s.kind == 6 || s.faults.diesDown.contains (c / 48)

/-- The core is clocked. -/
def State.coreAwake (s : State) (c : Nat) : Bool :=
  !s.coreDown c && ((s.core c).power == .awake || (s.core c).power == .draining)

/-! ### Turns (R101, R184) -/

/-- The contenders of kind `q` at a core, ascending, in the order of R101. A choice that falls into the 5 ns of the last
one goes to the next contender in ascending order. -/
def State.order101 (s : State) (c q : Nat) (xs : List Nat) : List Nat :=
  let t := Tbl.get (0, 0) (s.core c).turns q
  if t.1 = s.now / 5 + 1 then xs.filter (fun x => decide (t.2 < x)) ++ xs.filter (fun x => decide (x ≤ t.2))
  else rotate101 s.now xs

/-- `x` is the first of the contenders. -/
def State.winsPlace (s : State) (c q : Nat) (xs : List Nat) (x : Nat) : Bool := (s.order101 c q xs).head? == some x

/-- `x` has won. -/
def State.tookTurn (s : State) (c q x : Nat) : State :=
  s.mapCore c fun k => { k with turns := Tbl.set (0, 0) k.turns q (s.now / 5 + 1, x) }

/-- Contexts of a core that wait as `f` says, ascending. -/
def State.waiters (s : State) (c : Nat) (f : Wait → Bool) : List Nat :=
  (List.range 8).filter fun x => f (s.ctx c x).wait

/-- A context's item enters a queue for whose place it contends with `xs`, and its instruction retires; without room, or
with the place another's, the context waits with it (R184). -/
def State.enterQueue (s : State) (c x q : Nat) (xs : List Nat) (room : Bool) (enter : State → State) (w : Wait) : State :=
  if room && s.winsPlace c q (insertAsc x xs) x then ((enter s).tookTurn c q x).retire c x
  else s.mapCtx c x fun v => { v with status := .waiting, wait := w }

/-! ### Issue -/

/-- The context may issue, but for the choice among several: READY, its core clocked, and the hall not held but for a
re-run (R84, R207). -/
def State.mayIssue (s : State) (c x : Nat) : Bool :=
  let k := s.core c
  s.coreAwake c && (s.ctx c x).status == .ready && (!s.frozen || k.rerun) &&
  (match k.isolate with | some y => y == x | none => true)

/-- The context issues next: of those that may, R101 chooses it (R184). -/
def State.canIssue (s : State) (c x : Nat) : Bool :=
  s.mayIssue c x && s.winsPlace c 0 ((List.range 8).filter (s.mayIssue c)) x

/-- What the context fetches at its program counter (R186, R187). -/
inductive Fetch where
  | word (w : BitVec 128)
  | miss
  | outside
  deriving DecidableEq, Repr

def State.fetch (s : State) (c x : Nat) : Fetch :=
  let v := s.ctx c x
  let pc := v.pc.toNat
  if v.stream then
    if pc < v.ringLo then .miss
    else match v.ring[pc - v.ringLo]? with
      | some w => .word w
      | none => .miss
  else if pc < 4096 then .word (Tbl.get 0 s.imem (4096 * c + pc))
  else .outside

/-- A stream miss: the context waits for its ring to be refilled (R187). -/
def State.streamMiss (s : State) (c x : Nat) : State :=
  (s.mapCtx c x fun v => { v with status := .waiting, wait := .streamMiss }).count64 0x4035 c

/-- The issue of the instruction with opcode `op` by a context. `enc` checks the word, `dyn` what it
addresses; checks on register values are made only where it executes (R189, R210). -/
def State.issue (s : State) (c x op : Nat) (enc : Nat → Option Reject)
    (dyn : State → Nat → Option Reject) (run : State → Nat → State) : State :=
  if !s.canIssue c x then s
  else match s.fetch c x with
    | .outside => (s.tookTurn c 0 x).ctxFault c x 8
    | .miss => s.streamMiss c x
    | .word w =>
      let w := w.toNat
      let o := fld w 123 116
      let v := fld w 127 124
      if listedOpcode o && o != op then s
      else
      let s := s.tookTurn c 0 x
      if !listedOpcode o then s.ctxFault c x 1
      else if v ≠ 2 ∧ !(v == 1 && s.kind == 4 && heritageOpcode o) then s.ctxFault c x 1
      else match enc w with
        | some r => s.reject c x r
        | none =>
          if (s.ctx c x).p (fld w 115 113) == bitAt w 112 then (s.count64 0x4037 c).retire c x
          else match dyn s w with
            | some r => s.reject c x r
            | none => run (s.count64 0x4037 c) w

/-- The value of S register `i` of a context. -/
def State.sreg (s : State) (c x i : Nat) : Nat := ((s.ctx c x).s i).toNat

/-- A check that fails with a cause. -/
def failIf (b : Bool) (cause : Nat) : Option Reject := if b then some (.cause cause) else none

end Sys2Proof.Machine
end

