-- ==== Sys2Proof/Machine/Sec.lean ====
section
/-!
DEFINITION. Split-exponent coding (R249-R260): the check, the decoder of a slot and the compressor.
-/

namespace Sys2Proof.Machine

/-- Width, exponent bits, mantissa bits and blocks per slot of the formats that may be coded (R249). -/
def secFmt (code : Nat) : Option (Nat × Nat × Nat × Nat) :=
  match code with
  | 0x02 => some (16, 5, 10, 1)
  | 0x03 => some (16, 8, 7, 1)
  | 0x04 => some (8, 5, 2, 2)
  | 0x05 => some (8, 4, 3, 2)
  | 0x06 => some (8, 3, 4, 2)
  | 0x09 => some (4, 2, 1, 4)
  | _ => none

/-- One bit of CRC-32C, reflected polynomial. -/
def crcStep (c : Nat) : Nat := if c % 2 = 1 then Nat.xor (c / 2) 0x82F63B78 else c / 2

/-- CRC-32C over bytes: initial and final value 0xFFFF_FFFF (R251). -/
def crc32c (bs : List Byte) : Nat :=
  Nat.xor 0xFFFFFFFF (bs.foldl (fun c b =>
    crcStep (crcStep (crcStep (crcStep (crcStep (crcStep (crcStep (crcStep (Nat.xor c b.toNat))))))))) 0xFFFFFFFF)

/-! ### Decoding -/

/-- `n` bits of a stream from position `pos`, the first most significant. -/
def readMsb (x pos : Nat) : Nat → Nat
  | 0 => 0
  | n + 1 => (if x.testBit pos then 2 ^ n else 0) + readMsb x (pos + 1) n

/-- One exponent code of R253 at `pos`: the exponent field and the position after it; none: it names a
rank at or above NT. -/
def readExp (x : Nat) (table : List Nat) (e pos : Nat) : Option (Nat × Nat) :=
  if !x.testBit pos then (table[0]?).map (·, pos + 1)
  else if !x.testBit (pos + 1) then (table[1 + readMsb x (pos + 2) 1]?).map (·, pos + 3)
  else if !x.testBit (pos + 2) then (table[3 + readMsb x (pos + 3) 2]?).map (·, pos + 5)
  else if !x.testBit (pos + 3) then (table[7 + readMsb x (pos + 4) 3]?).map (·, pos + 7)
  else some (readMsb x (pos + 4) e, pos + 4 + e)

/-- `n` exponent fields from `pos`, and the position after them. -/
def readExps (x : Nat) (table : List Nat) (e : Nat) : Nat → Nat → Option (List Nat × Nat)
  | 0, pos => some ([], pos)
  | n + 1, pos =>
    match readExp x table e pos with
    | none => none
    | some (v, pos) => (readExps x table e n pos).map fun r => (v :: r.1, r.2)

/-- The 128 elements of a sub-stream, or the rule of R260 that it breaks. -/
def readSub (sub : List Byte) (table : List Nat) (e m : Nat) : Except Nat (List Nat) :=
  let signs := leNat (sub.take 16)
  let mants := leNat ((sub.drop 16).take (16 * m))
  match readExps (leNat (sub.drop (16 + 16 * m))) table e 128 0 with
  | none => .error 5
  | some (exps, bits) =>
    if sub.length ≠ 16 + 16 * m + (bits + 7) / 8 then .error 4
    else .ok ((List.range 128).zip exps |>.map fun p =>
      (if signs.testBit p.1 then 2 ^ (e + m) else 0) + p.2 * 2 ^ m + mants / 2 ^ (m * p.1) % 2 ^ m)

/-- The sub-streams of the given lengths, in order. -/
def readSubs (bs : List Byte) (table : List Nat) (e m : Nat) : List Nat → Except Nat (List Nat)
  | [] => .ok []
  | l :: ls =>
    match readSub (bs.take l) table e m, readSubs (bs.drop l) table e m ls with
    | .ok a, .ok b => .ok (a ++ b)
    | .error r, _ => .error r
    | _, .error r => .error r

/-- One coded block at the head of the bytes: its raw bytes, and its padded length (R251, R260). -/
def readBlock (code : Nat) (bs : List Byte) : Except Nat (List Byte × Nat) :=
  match secFmt code with
  | none => .error 2
  | some (w, e, m, _) =>
    let h := leNat (bs.take 64)
    let raw := bitAt h 502
    let nt := fld h 501 498
    let table := (List.range nt).map fun i => fld h (383 + 8 * i) (376 + 8 * i)
    let lens := (List.range 16).map fun i => fld h (193 + 10 * i) (184 + 10 * i)
    let size := if raw then 256 * w else lens.foldl (· + ·) 0
    let padded := roundUp (64 + size) 64
    if fld h 511 508 ≠ 2 ∨ fld h 507 503 ≠ code ∨ fld h 497 496 ≠ 0 ∨ fld h 183 0 ≠ 0 ∨
        (raw ∧ nt ≠ 0) ∨ table.any (fun v => decide (2 ^ e ≤ v)) ∨
        ((List.range 15).drop nt).any (fun i => fld h (383 + 8 * i) (376 + 8 * i) != 0) then .error 2
    else if bs.length < padded then .error 3
    else if raw ∧ lens.any (· != 0) then .error 4
    else
      let body := bs.take padded
      let clear := leBytes 64 (setFld h 375 344 0) ++ body.drop 64
      match (if raw then .ok [] else readSubs (body.drop 64) table e m lens) with
      | .error r => .error r
      | .ok els =>
        if crc32c clear ≠ fld h 375 344 then .error 6
        else .ok (if raw then (body.drop 64).take (256 * w) else packElems w els, padded)

/-- `n` blocks, one after another; the bytes must be used up (R260 rule 3). -/
def readBlocks (code : Nat) : Nat → List Byte → Except Nat (List Byte)
  | 0, bs => if bs.isEmpty then .ok [] else .error 3
  | n + 1, bs =>
    match readBlock code bs with
    | .error r => .error r
    | .ok (raw, len) => (readBlocks code n (bs.drop len)).map (raw ++ ·)

/-- The raw bytes of a slot from its map byte and its 4,096 bytes, or the rule of R260 it breaks. -/
def decodeSlot (code map : Nat) (bs : List Byte) : Except Nat (List Byte) :=
  if map = 0 then .ok bs
  else if 0x40 ≤ map then .error 1
  else match secFmt code with
    | none => .error 2
    | some (_, _, _, blocks) => readBlocks code blocks (bs.take (64 * map))

/-! ### Compressing (R257) -/

/-- The position of the largest count, the lowest at a tie; none where every count is zero. -/
def topCount (hist : List Nat) : Option Nat :=
  let best := hist.foldl max 0
  if best = 0 then none else hist.findIdx? (· == best)

/-- Values by count descending, ties to the lower value, at most `n`. -/
def expTable : Nat → List Nat → List Nat
  | 0, _ => []
  | n + 1, hist =>
    match topCount hist with
    | none => []
    | some v => v :: expTable n (hist.set v 0)

/-- `n` bits, most significant first. -/
def msbBits (v : Nat) : Nat → List Bool
  | 0 => []
  | n + 1 => v.testBit n :: msbBits v n

/-- The code of an exponent field (R253). -/
def expCode (table : List Nat) (e v : Nat) : List Bool :=
  match table.findIdx? (· == v) with
  | none => [true, true, true, true] ++ msbBits v e
  | some r =>
    if r = 0 then [false]
    else if r ≤ 2 then [true, false] ++ msbBits (r - 1) 1
    else if r ≤ 6 then [true, true, false] ++ msbBits (r - 3) 2
    else [true, true, true, false] ++ msbBits (r - 7) 3

/-- Bits as a number, bit 0 first. -/
def bitsNat : List Bool → Nat
  | [] => 0
  | b :: bs => (if b then 1 else 0) + 2 * bitsNat bs

/-- One sub-stream of 128 elements (R252). -/
def codeSub (table : List Nat) (e m : Nat) (xs : List Nat) : List Byte :=
  let stream := xs.flatMap fun x => expCode table e (x / 2 ^ m % 2 ^ e)
  leBytes 16 (bitsNat (xs.map (·.testBit (e + m)))) ++
  packElems m (xs.map (· % 2 ^ m)) ++
  leBytes ((stream.length + 7) / 8) (bitsNat stream)

/-- The header of R251 without its check. -/
def blockHeader (code : Nat) (raw : Bool) (table lens : List Nat) : Nat :=
  2 * 2 ^ 508 + code * 2 ^ 503 + (if raw then 2 ^ 502 else 0) + table.length * 2 ^ 498 +
  table.foldr (fun v n => v + 256 * n) 0 * 2 ^ 376 + lens.foldr (fun v n => v + 1024 * n) 0 * 2 ^ 184

/-- One block of raw bytes, coded and padded. -/
def codeBlock (code w e m : Nat) (raw : List Byte) : List Byte :=
  let xs := (List.range 2048).map (elemAt raw w)
  let hist := (List.range (2 ^ e)).map fun v => xs.countP fun x => x / 2 ^ m % 2 ^ e == v
  let table := expTable 15 hist
  let subs := (List.range 16).map fun i => codeSub table e m ((xs.drop (128 * i)).take 128)
  let lens := subs.map List.length
  let small := decide (lens.foldl (· + ·) 0 < 256 * w)
  let h := if small then blockHeader code false table lens else blockHeader code true [] []
  let body := if small then subs.flatten else raw
  let body := body ++ List.replicate (roundUp body.length 64 - body.length) 0
  let check := crc32c (leBytes 64 h ++ body)
  leBytes 64 (h + check * 2 ^ 344) ++ body

/-- `compress_slot`: the bytes written and the map byte. -/
def compressSlot (code : Nat) (raw : List Byte) : List Byte × Nat :=
  match secFmt code with
  | none => (raw, 0)
  | some (w, e, m, blocks) =>
    let out := (List.range blocks).flatMap fun b =>
      codeBlock code w e m ((raw.drop (256 * w * b)).take (256 * w))
    if 4096 ≤ out.length then (raw, 0) else (out, out.length / 64)

end Sys2Proof.Machine
end

