-- ==== Sys2Proof/Machine/Time.lean ====
section
/-!
DEFINITION. Hall time: symbols, lock, parents, roots and sources (chapter 02).
-/

namespace Sys2Proof.Machine

def State.setTime (s : State) (f : TimeUnit → TimeUnit) : State := { s with time := f s.time }

def State.linkTime (s : State) (l : Nat) : LinkTime := Tbl.get .reset s.time.links l
def State.setLinkTime (s : State) (l : Nat) (v : LinkTime) : State :=
  s.setTime fun t => { t with links := Tbl.set .reset t.links l v }

/-- A link's record after a step of the counter: its symbol's arrival in the new count, and no symbol
sent in the old one. -/
def LinkTime.stepped (v : LinkTime) (d : Int) : LinkTime :=
  { v with rxAt := if v.heard then ((v.rxAt : Int) + d).toNat else v.rxAt, sent := [] }

/-- The counter is set (R36): the times that the time unit keeps move with it, and the time since
power-good does not change. A whole second that comes again has its pulse again (R55). -/
def State.stepHall (s : State) (h : Nat) : State :=
  let d : Int := (h : Int) - s.hall
  let t := s.time
  { s with
    hall := h
    time := { t with
      links := (List.range 64).foldl (fun m l => Tbl.set .reset m l ((Tbl.get .reset m l).stepped d)) t.links
      beats := t.beats.map fun b => (b.1, b.2.1, b.2.2.map fun n => ((n : Int) + d / 64).toNat)
      ptp := t.ptp.map fun p => (p.1, ((p.2 : Int) + d).toNat)
      ptpSync := t.ptpSync.map fun p => (p.1, p.2.1, ((p.2.2 : Int) + d).toNat)
      ptpReq := t.ptpReq.map fun p => (p.1, ((p.2 : Int) + d).toNat)
      lastPps := min t.lastPps (roundUp (h / 64) 1000000000 - 1000000000) }
    boot := { s.boot with since := s.boot.since + d / 64 } }

/-- The state code of R46. -/
def LockState.code : LockState → Nat
  | .unset => 0 | .coarse => 1 | .fine => 2 | .locked => 3 | .holdover => 4

/-- Timed traffic and job load are permitted: in LOCKED, and in HOLDOVER until HOLDOVER_LIMIT (R46). -/
def State.timeOk (s : State) : Bool :=
  s.time.state == .locked ||
  (s.time.state == .holdover && decide (s.now < s.time.holdoverAt + 1000 * s.obj 0x2003 2))

/-! ### The root list (R38, R39) -/

/-- The root list that the dictionary holds. -/
def State.rootList (s : State) : List Nat := (List.range (s.obj 0x2001 0)).map fun i => s.obj 0x2001 (i + 1)

/-- This module's index in the root list in effect. -/
def State.ownIndex (s : State) : Option Nat := s.time.roots.findIdx? (· == s.moduleNumber)

/-- The root's source (R39): 0 FREE, 1 PPS_PTP, 2 PTP. -/
def State.source (s : State) : Nat := s.obj 0x2002 1

/-- The epoch in force, in TAI ns (R37); before hall time starts, that of EPOCH_TAI, which is effective
at hall cold start only (R57). -/
def State.epoch (s : State) : Int :=
  if s.time.started ∨ s.time.state ≠ .unset then s.time.epoch else s.obj 0x2002 2

/-! ### State changes -/

/-- LOCKED is entered (R46, R47). -/
def State.enterLocked (s : State) : State :=
  (s.setTime fun t => { t with state := .locked, everLocked := true, beyond := 0 }).log 0x2001

/-- LOCKED or HOLDOVER is left for FINE; with a job loaded, leaving LOCKED is a time loss (R47). -/
def State.leaveToFine (s : State) (fromLocked : Bool) : State :=
  let s := (s.setTime fun t => { t with state := .fine, within := none, beyond := 0 }).log 0x2002
  if fromLocked then s.timeLoss else s

/-- The module becomes the active root of index `i`, at its current hall time; its own source is still to be acquired, so
TAI_VALID is 0 (R39, R51). -/
def State.becomeRoot (s : State) (i : Nat) : State :=
  s.setTime fun t => { t with
    isRoot := true, started := true, tier := 0, parent := none, rootIndex := some i, samples := []
    acquired := false, taiValid := false, extLost := false, misses := 0, tied := false, early := none
    lastBeatTick := s.now, beatAt := s.now, beatLost := false }

/-- A root starts hall time: COARSE, and LOCKED on leaving it (R42, R46). `valid`: its source is acquired. -/
def State.startRoot (s : State) (i : Nat) (valid : Bool) : State :=
  (((s.setTime fun t => { t with epoch := s.obj 0x2002 2 }).becomeRoot i).setTime fun t => { t with
    acquired := valid, taiValid := valid, tied := valid }).enterLocked

/-! ### Parents (R45) -/

/-- The link is a candidate for the parent: a fabric link that is up, whose partner reports LOCKED (or, while
this module acquires, FINE: assumption 21); a higher ROOT_INDEX is accepted only after the beat timeout (R51). -/
def State.candidate (s : State) (l : Nat) : Bool :=
  let v := s.linkTime l
  s.role l == 1 && s.linkUp l && v.heard &&
  (v.state == 3 || (v.state == 2 && !s.time.everLocked)) &&
  (match s.time.rootIndex with
   | some r => decide (v.rootIndex ≤ r) || s.time.beatLost
   | none => true)

/-- The root that a link reports is not beating: it is this module's own and its beat is lost, or another one whose beat
has not advanced within ROOT_TIMEOUT (R51). -/
def State.stale (s : State) (l : Nat) : Bool :=
  match s.time.rootIndex with
  | none => false
  | some r =>
    let i := (s.linkTime l).rootIndex
    if i = r then s.time.beatLost
    else !s.time.beats.any fun b => b.1 == i &&
      match b.2.2 with | some t => decide (s.now ≤ t + 1000 * s.obj 0x2003 1) | none => false

/-- The order of R45: lowest ROOT_INDEX, a root that beats before one that does not (R51), then TIER, then link number. -/
def betterParent (s : State) (a b : Nat) : Bool :=
  let x := s.linkTime a
  let y := s.linkTime b
  if s.stale a != s.stale b then !s.stale a
  else decide (x.rootIndex < y.rootIndex) || (x.rootIndex == y.rootIndex && (decide (x.tier < y.tier) ||
    (x.tier == y.tier && decide (a < b))))

/-- The parent of R45; a best candidate with TIER 7 leaves none. -/
def State.bestParent (s : State) : Option Nat :=
  (((List.range 64).filter s.candidate).foldl (fun b l =>
    match b with
    | none => some l
    | some k => if betterParent s l k then some l else some k) none).filter
    fun l => decide ((s.linkTime l).tier < 7)

/-- The module takes link `l`'s partner as its parent, without a step, or follows what its parent now reports (R45, R50).
Chapter 02 lists no items for event 0x2005, so its DATA is zero (assumption 101). -/
def State.takeParent (s : State) (l : Nat) : State :=
  if h : l < 64 then
    let v := s.linkTime l
    let changed := s.time.parent != some ⟨l, h⟩
    let same := s.time.rootIndex == some v.rootIndex && s.time.rootBeat == v.beat
    let s := s.setTime fun t => { t with
      parent := some ⟨l, h⟩, tier := v.tier + 1, rootIndex := some v.rootIndex, rootBeat := v.beat
      beatAt := if same then t.beatAt else s.now
      beatLost := t.beatLost && same
      samples := if changed then [] else t.samples }
    s.on changed (·.log 0x2005)
  else s

/-- The parent is lost: a new one at once if there is one, else HOLDOVER, whatever the state that the module had reached
under it (R46, R50). -/
def State.loseParent (s : State) : State :=
  let s := s.setTime fun t => { t with parent := none, tier := 7, samples := [] }
  match s.bestParent with
  | some l => s.takeParent l
  | none =>
    if s.time.state != .unset && s.time.state != .holdover then
      (s.setTime fun t => { t with state := .holdover, holdoverAt := s.now }).log 0x2003
    else s

/-! ### Time symbols (R43) -/

/-- TIME_SYMBOL_SEND: a fabric link that is up sends its symbol for this microsecond. What R28 asks of an idle link beside
R43 is open: the model sends no symbol on one, and keeps its record in `TimeUnit.links` (assumption 102). -/
def State.sendSymbol (s : State) (l : Nat) : State :=
  if s.role l = 1 ∧ s.linkUp l then
    let v := s.linkTime l
    let oos := s.noTransit
    let sym : BitVec 192 :=
      0x2#4 ++ 0x1#4 ++ BitVec.ofNat 8 v.txSeq ++ BitVec.ofNat 8 v.rxSeq ++ BitVec.ofNat 70 s.hall ++
      BitVec.ofNat 70 v.rxAt ++ BitVec.ofNat 3 s.time.state.code ++
      BitVec.ofNat 3 (if s.obj 0x9003 1 = 1 then 7 else s.time.tier) ++
      BitVec.ofNat 3 (s.time.rootIndex.getD 7) ++ BitVec.ofNat 16 s.time.rootBeat ++ BitVec.ofBool oos ++ 0#2
    let v := { v with
      txSeq := (v.txSeq + 1) % 256
      sent := ((v.txSeq, s.hall, v.rxT1, v.rxAt) :: v.sent).take 256 }
    (s.setLinkTime l v).emit (.timeSymbol l sym)
  else s

def execTimeSymbolSend (link : Link) (s : State) : Host.Outcome State Fault Refusal :=
  act s (·.sendSymbol link)

/-- The symbol passes R43. -/
def symbolOk (w : Nat) : Bool :=
  decide (fld w 191 188 = 2) && decide (fld w 187 184 = 1) && decide (fld w 27 25 ≤ 4) &&
  decide (fld w 1 0 = 0)

/-- The delay and offset samples of R43, doubled: 1/128 ns. -/
def samplesOf (t1 t2 t3 t4 : Nat) (asym : Int) : Int × Int :=
  ((((t4 : Int) - t1) - ((t3 : Int) - t2)), (((t2 : Int) - t1) - ((t4 : Int) - t3)) - asym)

/-- What a symbol tells of its root's beat (R51): whether it has advanced, and the list. -/
def noteBeat (beats : List (Nat × Nat × Option Nat)) (r beat now : Nat) :
    Bool × List (Nat × Nat × Option Nat) :=
  match beats.find? (·.1 == r) with
  | none => (false, (r, beat, none) :: beats)
  | some b =>
    if b.2.1 = beat then (false, beats) else (true, (r, beat, some now) :: beats.filter (·.1 != r))

/-- A valid symbol is taken in: the link's record, its samples and the partner's state (R43, R44, R103). -/
def State.noteSymbol (s : State) (l w at_ : Nat) : State :=
  let v := s.linkTime l
  let oosBit := bitAt w 2
  let oos := if v.heard && v.oosBit == oosBit then oosBit else v.oos
  let isParent := match s.time.parent with | some p => p.val == l | none => false
  let asym := sext 16 (s.obj 0x2004 l)
  let hit := v.sent.find? (·.1 == fld w 175 168)
  let v' := { v with
    heard := true, rxSeq := fld w 183 176, rxT1 := fld w 167 98, rxAt := at_
    state := fld w 27 25, tier := fld w 24 22, rootIndex := fld w 21 19, beat := fld w 18 3
    oosBit := oosBit, oos := oos }
  match hit with
  | none => s.setLinkTime l v'
  | some (_, t3, t1, t2) =>
    let (d, o) := samplesOf t1 t2 t3 (fld w 97 28) asym
    let s := s.setLinkTime l { v' with delays := (d :: v.delays).take 64 }
    if isParent then s.setTime fun t => { t with samples := (o :: t.samples).take 64 } else s

/-- An active root that sees a lower root beating becomes a follower (R52); with no eligible parent it
holds over (R46). What TAI_VALID and TAI_ERROR read at a module that is no root is open: here they keep their last
values (assumption 103). -/
def State.demote (s : State) : State :=
  ((s.setTime fun t => { t with isRoot := false, rootIndex := none }).log 0x2007).loseParent

/-- A module that is not a root has the parent that R45 chooses: it takes it, steps to it from UNSET, or leaves
HOLDOVER (R45-R47). With no link eligible it keeps the parent it has until R50 loses it. -/
def State.followSymbol (s : State) (l w : Nat) : State :=
  match s.time.state with
  | .unset =>
    match s.bestParent with
    | some k =>
      if k = l then
        let (e, s) := (s.takeParent l).draw
        (s.setTime fun t => { t with state := .coarse, epoch := e % 2 ^ 64 }).stepHall (fld w 167 98)
      else s
    | none => s
  | .holdover =>
    match s.bestParent with
    | some k => (s.takeParent k).leaveToFine false
    | none => s
  | _ =>
    match s.bestParent with
    | some k => s.takeParent k
    | none => s

/-- TIME_SYMBOL_RECEIVE (R43, R45, R51, R52). -/
def State.receiveSymbol (s : State) (l w at_ : Nat) : State :=
  if s.role l ≠ 1 ∨ !s.linkUp l then s
  else if !symbolOk w then s.setTime fun t => { t with discarded := t.discarded + 1 }
  else
    let s := s.noteSymbol l w at_
    let r := fld w 21 19
    let (adv, beats) := noteBeat s.time.beats r (fld w 18 3) s.now
    let s := s.setTime fun t => { t with beats := beats }
    if s.time.isRoot then
      match s.time.rootIndex with
      | some i => if adv ∧ r < i then s.demote else s
      | none => s
    else s.followSymbol l w

def execTimeSymbolReceive (link : Link) (symbol : BitVec 192) (arrival : BitVec 70) (s : State) :
    Host.Outcome State Fault Refusal :=
  act s fun s => (s.reach64 arrival.toNat).receiveSymbol link symbol.toNat arrival.toNat

/-! ### Estimates and lock (R44, R46, R47, R74) -/

/-- A fabric link is lost for its delay (R74, R87): LINK_STATE 4 for good, event 0x6002, and a hold of cause 0x06. Its
recovery has nothing to retrain, so it ends, with the RESUME that names the link, as the agreement stage of R429 does;
one that is in a recovery already is named by that one. -/
def State.declareLinkLost (s : State) (l : Nat) : State :=
  let name := s.linkName l
  let s := (s.setObj 0x6002 l 4).log 0x6002 (domLink l)
  let s := (s.faultCount 6).schedFault
  let s := s.setHold fun h => if h.toName.contains name then h else { h with toName := h.toName ++ [name] }
  let s := if (s.link l).holdSeq.isSome then s
    else
      let (q, s) := s.originateHold 6
      s.mapLink l fun v => { v with holdSeq := some q }
  (s.mapLink l fun v => { v with permanent := true }).reroute l

/-- The filtered delays are published; during a job a fabric link beyond LINK_DELAY_BOUND is lost. -/
def State.publishDelays (s : State) : State :=
  s.each (List.range 64) fun s l =>
    let v := s.linkTime l
    if v.delays.isEmpty then s
    else
      let d := Config.delayFilter v.delays
      let s := s.setObj 0x2005 l (d % 2 ^ 32)
      if s.job.loaded && s.role l == 1 && s.linkUp l && decide (64 * s.obj 0x2013 2 < d)
      then s.declareLinkLost l else s

/-- The new estimate moves the lock state (R46, R47). -/
def State.judgeEstimate (s : State) (e : Int) : State :=
  let thr : Int := s.obj 0x2003 3
  match s.time.state with
  | .coarse => if e.natAbs < 640 then s.setTime fun t => { t with
      state := .fine, within := if (e.natAbs : Int) ≤ thr then some s.now else none } else s
  | .fine => s.setTime fun t => { t with
      within := if (e.natAbs : Int) ≤ thr then t.within.orElse fun _ => some s.now else none }
  | .locked =>
    let n := if 2 * thr < e.natAbs then s.time.beyond + 1 else 0
    let s := s.setTime fun t => { t with beyond := n }
    if 3 ≤ n then s.leaveToFine true else s
  | _ => s

/-- OFFSET_ESTIMATE: 64 samples make an estimate; the counter slews against it, and its frequency is
corrected within 100 ppm (R36, R37, R44). -/
def State.estimate (s : State) : State :=
  let s := s.publishDelays
  if s.time.samples.length < 64 ∨ s.time.isRoot then s
  else
    let e := Config.offsetFilter s.time.samples
    let f := max (-100000) (min 100000 (Config.freqFilter s.time.samples))
    let s := s.setTime fun t => { t with offsetEst := e, freqAdj := f, slew := -e, samples := [] }
    s.judgeEstimate e

def execOffsetEstimate (s : State) : Host.Outcome State Fault Refusal := act s State.estimate

/-- LOCK_DWELL_EXPIRE (R46): within threshold for LOCK_DWELL, under a parent that is LOCKED (R48). -/
def execLockDwellExpire (s : State) : Host.Outcome State Fault Refusal :=
  act s fun s =>
    match s.time.state, s.time.within, s.time.parent with
    | .fine, some t, some p =>
      if (s.linkTime p).state = 3 then (s.reach (t + 1000 * s.obj 0x2003 4)).enterLocked else s
    | _, _, _ => s

/-! ### Losing a parent (R50) -/

def State.parentLink (s : State) : Option Nat := s.time.parent.map (·.val)

/-- PARENT_LOST: the link is down, or the parent's STATE has left LOCKED. -/
def execParentLost (s : State) : Host.Outcome State Fault Refusal :=
  act s fun s =>
    match s.parentLink with
    | some p =>
      let st := (s.linkTime p).state
      if !s.linkUp p || !(st == 3 || (st == 2 && !s.time.everLocked)) then s.loseParent else s
    | none => s

/-- SYMBOL_TIMEOUT: no valid symbol on the parent link for 4 µs; the link's pace has expired (R421). -/
def execSymbolTimeout (s : State) : Host.Outcome State Fault Refusal :=
  act s fun s =>
    match s.parentLink with
    | some p =>
      let v := s.linkTime p
      (((s.reach64 (v.rxAt + 4000 * 64)).setLinkTime p { v with heard := false })).loseParent
    | none => s

/-- HOLDOVER_LIMIT_EXPIRE: event 0x2004 and the time-loss fault (R47, R50). -/
def execHoldoverLimitExpire (s : State) : Host.Outcome State Fault Refusal :=
  act s fun s =>
    if s.time.state = .holdover then
      ((s.reach (s.time.holdoverAt + 1000 * s.obj 0x2003 2)).log 0x2004).timeLoss
    else s

/-! ### The external reference (R40-R42) -/

/-- The module takes external time: it is the active root, or a listed module that has read the base camp, that hall time
has not reached and that may still start it (R42, R48, R51, R52). -/
def State.takesSource (s : State) : Bool :=
  s.source != 0 && (s.time.isRoot ||
    (decide (2 ≤ s.boot.stage) && s.ownIndex.isSome && !s.time.started && s.time.state == .unset))

/-- How long a root waits for its source after power-good, in ns (R42). -/
def sourceWait : Nat := 3500000000

/-- Hall time is started as root `i`: from the source where it was acquired in time, the counter then set to TAI less
the epoch, else from the module's own counter with TAI_VALID 0 (R42). -/
def State.coldStart (s : State) (i : Nat) : State :=
  match s.time.early with
  | some (tai, at_) => (s.stepHall ((s.hall : Int) + (tai - s.epoch) * 64 - at_).toNat).startRoot i true
  | none => s.startRoot i false

/-- A started root measures its source, slews phase and disciplines frequency, within 100 ppm; it never steps (R36, R37,
R42). -/
def State.discipline (s : State) (tai : Int) (at_ : Nat) : State :=
  let diff : Int := (at_ : Int) + (s.epoch - tai) * 64
  s.setTime fun t =>
    let xs := (2 * diff :: t.samples).take 64
    { t with
      acquired := true, tied := true, taiValid := true, extLost := false, misses := 0
      taiError := diff / 64, slew := -diff, samples := xs
      freqAdj := max (-100000) (min 100000 (Config.freqFilter xs)) }

/-- A source gives TAI `tai` (ns) for hall time `at_` (1/64 ns). Before hall time starts, within the wait of R42, index 0
starts it so, and any other candidate keeps it for its promotion (R51); index 0 past the wait has started free. -/
def State.acquire (s : State) (tai : Int) (at_ : Nat) : State :=
  if s.time.started then s.discipline tai at_
  else
    let inTime := decide (at_ ≤ 64 * sourceWait)
    let s := s.on inTime (·.setTime fun t => { t with early := some (tai, at_) })
    if s.ownIndex ≠ some 0 then s
    else if inTime then s.coldStart 0 else (s.coldStart 0).discipline tai at_

/-- The external reference is declared lost (R41). -/
def State.loseReference (s : State) : State :=
  if s.time.extLost then s
  else (s.setTime fun t => { t with extLost := true, taiValid := false, acquired := false }).log 0x2008

/-- ROOT_SOURCE has changed. With FREE no source is acquired, TAI_VALID is 0 and the counter runs free (R39). -/
def State.sourceChanged (s : State) : State :=
  if s.source = 0 then
    s.setTime fun t => { t with
      acquired := false, taiValid := false, extLost := false, misses := 0, tied := false, early := none
      slew := if t.isRoot then 0 else t.slew }
  else s

/-- A missing or rejected edge: three in a row lose the reference (R41). -/
def State.missEdge (s : State) : State :=
  let s := s.setTime fun t => { t with misses := t.misses + 1 }
  if 3 ≤ s.time.misses then s.loseReference else s

/-- The whole second of TAI nearest to a time in 1/64 ns. -/
def nearestSecond (x : Int) : Int := (x + 32000000000) / 64000000000 * 1000000000

/-- PPS_EDGE (R41): a root that has acquired its source rejects an edge more than 100 ns from the whole second that its
own hall time and epoch predict, the difference still to be slewed taken in (assumption 104); a root that has not labels
it by PTP. -/
def State.edge (s : State) (at_ : Nat) : State :=
  if s.source ≠ 1 ∨ !s.takesSource then s
  else if s.time.tied then
    let own := (at_ : Int) + s.epoch * 64 + s.time.slew
    let sec := nearestSecond own
    if 6400 < (own - sec * 64).natAbs then s.missEdge else s.acquire sec at_
  else match s.time.ptp with
    | some (tai, t) => s.acquire (nearestSecond (tai * 64 + at_ - t)) at_
    | none => s

def execPpsEdge (edge : BitVec 70) (s : State) : Host.Outcome State Fault Refusal :=
  act s fun s => (s.reach64 edge.toNat).edge edge.toNat

def execPpsEdgeMissed (s : State) : Host.Outcome State Fault Refusal :=
  act s fun s => if s.source = 1 ∧ s.time.isRoot then s.missEdge else s

/-- A PTP time is accepted: TAI `tai` (ns) at hall time `at_` (1/64 ns). It labels seconds, and with PTP as the source it
sets or disciplines the root. -/
def State.ptpTime (s : State) (tai : Int) (at_ : Nat) : State :=
  let s := s.setTime fun t => { t with ptp := some (tai, at_) }
  if s.source = 2 ∧ s.takesSource then s.acquire tai at_ else s

/-- The slave asks for the path's delay: a DELAY_REQ leaves now (t3). -/
def State.askDelay (s : State) : State :=
  let n := s.time.ptpSeq
  (s.setTime fun t => { t with ptpReq := some (n, s.hall), ptpSeq := (n + 1) % 65536 }).emit (.delayReq n)

/-- The exchange is complete: with t1 and t4 of the master and t2 and t3 of this module, the offset from the master is
((t2 − t1) − (t4 − t3)) / 2, and so TAI at this instant is known. -/
def State.ptpExchange (s : State) (t1 t2 t3 t4 : Nat) : State :=
  let off : Int := (((t2 : Int) - 64 * t1) - (64 * t4 - t3)) / 2
  let tai : Int := (s.hall : Int) - off
  s.ptpTime (tai / 64) (s.hall - (tai % 64).toNat)

/-- PTP_MESSAGE (R40): in the slave role and in the module's own domain, of a one-step or a two-step master; with FREE
PTP is ignored. -/
def State.ptpMessage (s : State) (domain : Nat) (m : PtpMsg) : State :=
  if domain ≠ s.obj 0x2002 3 ∨ s.source = 0 then s
  else match m with
    | .sync n two t1 =>
      let s := s.setTime fun t => { t with ptpSync := some (n.toNat, if two then none else some t1.toNat, s.hall) }
      if two then s else s.askDelay
    | .followUp n t1 =>
      match s.time.ptpSync with
      | some (k, none, t2) =>
        if k = n.toNat then
          (s.setTime fun t => { t with ptpSync := some (k, some t1.toNat, t2) }).askDelay
        else s
      | _ => s
    | .delayResp n t4 =>
      match s.time.ptpSync, s.time.ptpReq with
      | some (_, some t1, t2), some (k, t3) =>
        if k = n.toNat then (s.setTime fun t => { t with ptpReq := none }).ptpExchange t1 t2 t3 t4.toNat else s
      | _, _ => s

def execPtpMessage (domain : BitVec 8) (msg : PtpMsg) (s : State) : Host.Outcome State Fault Refusal :=
  act s (·.ptpMessage domain.toNat msg)

/-- PTP_LOSS_TIMEOUT (R41): no PTP time accepted for 3 s, or none ever. -/
def execPtpLossTimeout (s : State) : Host.Outcome State Fault Refusal :=
  act s fun s =>
    if s.source = 2 ∧ s.time.isRoot then
      let t := match s.time.ptp with | some p => p.2 | none => 0
      (s.reach64 (t + 192000000000)).loseReference
    else s

/-! ### Roots (R42, R45, R51) -/

/-- ROOT_SOURCE_WAIT_EXPIRE (R42): 3.5 s after power-good. -/
def execRootSourceWaitExpire (s : State) : Host.Outcome State Fault Refusal :=
  act s fun s =>
    if s.ownIndex = some 0 ∧ !s.time.started ∧ s.time.state = .unset then (s.reach sourceWait).coldStart 0 else s

/-- ROOT_BEAT_TICK (R45): the active root's beat, every 10 µs. -/
def execRootBeatTick (s : State) : Host.Outcome State Fault Refusal :=
  act s fun s =>
    if s.time.isRoot then
      let s := s.reach (s.time.lastBeatTick + 10000)
      s.setTime fun t => { t with
        rootBeat := (t.rootBeat + 1) % 65536, lastBeatTick := t.lastBeatTick + 10000, beatAt := s.now }
    else s

/-- ROOT_BEAT_TIMEOUT (R51): the beat has not advanced for ROOT_TIMEOUT. -/
def execRootBeatTimeout (s : State) : Host.Outcome State Fault Refusal :=
  act s fun s =>
    if s.time.isRoot ∨ s.time.rootIndex.isNone then s
    else (s.reach (s.time.beatAt + 1000 * s.obj 0x2003 1)).setTime fun t => { t with beatLost := true }

/-- A root of index below `j` has beaten since `t`, or ever (R51). -/
def State.lowerBeating (s : State) (j : Nat) (t : Option Nat) : Bool :=
  s.time.beats.any fun b => decide (b.1 < j) &&
    match b.2.2, t with
    | some a, some t => decide (t < a)
    | some _, none => true
    | none, _ => false

/-- ROOT_PROMOTE (R51): at failover a listed, LOCKED module j after (j − a − 1) further timeouts; at cold
start a listed module j > 0 after 3.5 s and j timeouts. -/
def execRootPromote (s : State) : Host.Outcome State Fault Refusal :=
  act s fun s =>
    match s.ownIndex with
    | none => s
    | some j =>
      let span := 1000 * s.obj 0x2003 1
      if s.time.isRoot then s
      else if s.time.state = .locked ∨ s.time.state = .holdover then
        match s.time.rootIndex with
        | some a =>
          if a < j ∧ s.time.beatLost ∧ s.time.state = .locked then
            let s := s.reach (s.time.beatAt + span + (j - a - 1) * span)
            if s.lowerBeating j (some s.time.beatAt) then s
            else (s.becomeRoot j).log 0x2006
          else s
        | none => s
      else if 0 < j ∧ !s.time.started ∧ s.time.state = .unset then
        let s := s.reach (sourceWait + j * span)
        if s.lowerBeating j none then s else (s.coldStart j).log 0x2006
      else s

/-! ### TIME_OUT (R55, R56) -/

/-- PPS_OUT_PULSE: high for 1 ms at each whole second of hall time, in PPS mode with the pin owned. -/
def execPpsOutPulse (s : State) : Host.Outcome State Fault Refusal :=
  act s fun s =>
    if s.obj 0x2006 1 = 0 ∧ s.obj 0xB020 1 = 1 then
      let t := max (s.time.lastPps + 1000000000) (roundUp s.now 1000000000)
      ((s.reach t).setTime fun u => { u with lastPps := t }).emit (.pulse t 1000000)
    else s

end Sys2Proof.Machine
end

