-- ==== Sys2Proof/Machine/Timetable.lean ====
section
/-!
DEFINITION. The timetable: banks, load check, windows, landings and events (chapter 03).
-/

namespace Sys2Proof.Machine

/-! ### Entries (R67-R69) -/

def entKind (e : Nat) : Nat := fld e 251 248
def entStart (e : Nat) : Nat := fld e 247 218
def entLength (e : Nat) : Nat := fld e 217 194
def entDstKind (e : Nat) : Nat := fld e 193 191
def entSrcKind (e : Nat) : Nat := fld e 190 188
def entSrcPat (e : Nat) : Nat := fld e 187 176
def entDstPat (e : Nat) : Nat := fld e 175 164
def entSrc (e : Nat) : Nat := fld e 163 123
def entDst (e : Nat) : Nat := fld e 122 82
def entTag (e : Nat) : Nat := fld e 81 66
def entKey (e : Nat) : BitVec 8 := BitVec.ofNat 8 (fld e 65 58)
def entMode (e : Nat) : Nat := fld e 57 56
def entDetour (e : Nat) : Nat := fld e 55 34
def entOp (e : Nat) : Nat := fld e 33 30

/-- The entry takes slots: DATA, REDUCE or CAPACITY. -/
def entWindow (e : Nat) : Bool := decide (1 ≤ entKind e) && decide (entKind e ≤ 3)

/-- Slots from a window's first to its last data slot, VC0 slots stepped over included (R61, R62). -/
def spanSlots (start len : Nat) : Nat :=
  let first := 11 - start % 12
  if len ≤ first then len else len + 1 + (len - first - 1) / 11

/-- Slot, counted from the window's first, of data slot `n` (R62). -/
def dataSlot (start n : Nat) : Nat := spanSlots start (n + 1) - 1

/-! ### Banks (R63) -/

def bankTable (b l i : Nat) : Nat := timetableStore + b * 2 ^ 27 + l * 2 ^ 21 + 32 * i
def State.bankPeriod (s : State) (b : Nat) : Nat := s.obj 0x2010 (2 + b)
def State.bankBase (s : State) (b : Nat) : Nat := s.obj 0x2010 (4 + b)
def State.bankPatterns (s : State) (b : Nat) : Nat := s.obj 0x2010 (6 + b)
def State.bankCount (s : State) (b l : Nat) : Nat := s.obj (0x2011 + b) (0x40 + l)
def State.entry (s : State) (b l i : Nat) : Nat := s.readNat (bankTable b l i) 32
def State.bankArmed (s : State) (b : Nat) : Bool := if b = 0 then s.tt.armedA else s.tt.armedB
def State.setArmed (s : State) (b : Nat) (v : Bool) : State :=
  { s with tt := if b = 0 then { s.tt with armedA := v } else { s.tt with armedB := v } }

/-- A write to a bank's objects is refused while the bank is active or a switch into it is armed. -/
def State.bankBusy (s : State) (b : Nat) : Bool :=
  s.tt.active.any (·.val == b) || s.tt.switch.any (·.val == b)

/-! ### Patterns (R70, R225) -/

/-- The dimensions of a record, dimension 0 first: signed stride and extent. -/
def patDims (w : Nat) : List (Int × Nat) :=
  (List.range (fld w 507 505)).map fun k =>
    (sext 40 (fld w (64 * k + 63) (64 * k + 24)), fld w (64 * k + 23) (64 * k) + 1)

def patElem (w : Nat) : Nat := 2 ^ fld w 504 503
def patBytes (w : Nat) : Nat := (patDims w).foldl (fun n d => n * d.2) (patElem w)

/-- A record passes R16, R17 and R70. -/
def patOk (w : Nat) : Bool :=
  let n := fld w 507 505
  decide (fld w 511 508 = 2) && decide (1 ≤ n) && decide (n ≤ 6) && decide (fld w 502 384 = 0) &&
  (List.range 6).all fun k => decide (k < n) || decide (fld w (64 * k + 63) (64 * k) = 0)

/-- Offset from the base of element number `i`, in iteration order. -/
def elemOffset : List (Int × Nat) → Nat → Int
  | [], _ => 0
  | (st, ext) :: ds, i => st * (i % ext : Nat) + elemOffset ds (i / ext)

/-- Offset from the base of byte `i` of the pattern's byte stream. -/
def patOffset (w i : Nat) : Int := elemOffset (patDims w) (i / patElem w) + (i % patElem w : Nat)

/-- Dimensions in ascending order of their stride's magnitude. -/
def insertDim (d : Int × Nat) : List (Int × Nat) → List (Int × Nat)
  | [] => [d]
  | e :: es => if d.1.natAbs ≤ e.1.natAbs then d :: e :: es else e :: insertDim d es

/-- The injectivity check (R225). -/
def injective (dims : List (Int × Nat)) (elem : Nat) : Bool :=
  let ds := (dims.filter (1 < ·.2)).foldr insertDim []
  go ds elem
where
  go : List (Int × Nat) → Nat → Bool
  | [], _ => true
  | d :: ds, span => if d.1.natAbs < span then false else go ds (span + d.1.natAbs * (d.2 - 1))

/-! ### Where a window's bytes are -/

/-- Byte `i` of a window lies at this offset from its address. -/
def winOffset (pattern : Option Nat) (i : Nat) : Int :=
  match pattern with
  | some w => patOffset w i
  | none => i

/-- One byte at an address in a form of R69, read. -/
def State.landRead (s : State) (kind addr : Nat) (off : Int) : Byte :=
  match kind with
  | 0 => Tbl.get 0 s.mem ((addr : Int) + off).toNat
  | 1 => Tbl.get 0 s.stores (storeKey (fld addr 40 33) (fld addr 32 31) ((fld addr 22 0 : Int) + off).toNat)
  | _ => Tbl.get 0 s.mailboxes ((512 * fld addr 4 0 : Nat) + off).toNat

/-- Bytes written, each at its offset from the address. -/
def State.landWrite (s : State) (kind addr : Nat) (bs : List (Int × Byte)) : State :=
  match kind with
  | 0 => s.writeBytes (bs.map fun b => (((addr : Int) + b.1).toNat, b.2))
  | 1 => s.storeBytes (bs.map fun b =>
      (storeKey (fld addr 40 33) (fld addr 32 31) ((fld addr 22 0 : Int) + b.1).toNat, b.2))
  | _ => { s with mailboxes := bs.foldl (fun m b =>
      Tbl.set 0 m (((512 * fld addr 4 0 : Nat) : Int) + b.1).toNat b.2) s.mailboxes }

/-- The bytes from number `i` on, written where the window places them. -/
def State.landBytes (s : State) (kind addr : Nat) (pat : Option Nat) (i : Nat) (bs : List Byte) : State :=
  s.landWrite kind addr (((List.range bs.length).zip bs).map fun b => (winOffset pat (i + b.1), b.2))

/-- Every byte number below `n` satisfies `f`. -/
def allBytes (f : Nat → Bool) : Nat → Bool
  | 0 => true
  | n + 1 => f n && allBytes f n

/-- A store address in the form of R69. -/
def storeFormOk (a : Nat) : Bool := decide (fld a 40 33 < 192) && decide (fld a 30 23 = 0)

/-- Byte at offset `off` of a window's address may be touched: in HBM it is granted to the key, in a
store it lies within the store (and, for a landing, the key is admitted: R241), in a mailbox it lies
within the mailbox. -/
def State.landOk (s : State) (kind addr : Nat) (off : Int) (key : BitVec 8) (write : Bool) : Bool :=
  match kind with
  | 0 =>
    let a := (addr : Int) + off
    decide (0 ≤ a) && s.visible a.toNat 1 && s.grantsByte key write a.toNat
  | 1 =>
    let o := (fld addr 22 0 : Int) + off
    storeFormOk addr && decide (0 ≤ o) && decide (o < storeSize (fld addr 32 31)) &&
    (!write || s.storeKeyOk (fld addr 40 33) key)
  | 2 => decide (addr < 2) && decide (0 ≤ off) && decide (off < 512)
  | _ => false

/-! ### The load check (R71) -/

/-- An address of an entry keeps its form, and reaches no reserved area at its base (R69). Whether the load check tests
the core and the offset of a STORE address is open: here they fail it under rule 1 (assumption 108). -/
def entAddrOk (kind a : Nat) : Bool :=
  match kind with
  | 0 => decide (a < memTop) && !touchesReserved a 1
  | 1 => storeFormOk a && decide (fld a 22 0 < storeSize (fld a 32 31))
  | 2 => decide (a < 32)
  | _ => false

/-- Rule 1: version, reserved fields and codes. -/
def loadRule1 (e : Nat) : Bool :=
  let k := entKind e
  decide (fld e 255 252 = 2) && decide (1 ≤ k) && decide (k ≤ 4) && decide (fld e 29 0 = 0) &&
  decide (entStart e < 858993456) && decide (entMode e < 3) && (entMode e != 0 || entDetour e == 0) &&
  (if k = 4 then
    decide (entLength e = 0) && decide (fld e 193 164 = 0) && decide (fld e 81 58 = 0) &&
    (match entOp e with
     | 1 | 3 => decide (entDst e < 192) && decide (entSrc e = 0)
     | 2 | 4 => decide (entDst e < 4) && decide (entSrc e = 0)
     | 5 => decide (entDst e < 192) && decide (entSrc e < 256)
     | 6 => decide (entDst e = 0) && decide (entSrc e = 0)
     | _ => false)
   else
    decide (1 ≤ entLength e) && entAddrOk (entSrcKind e) (entSrc e) && entAddrOk (entDstKind e) (entDst e) &&
    (if k = 2 then decide (1 ≤ entOp e) && decide (entOp e ≤ 4) else decide (entOp e = 0)))

/-- The pattern record `i` of bank `b` in memory (R66). -/
def State.bankRecord (s : State) (b i : Nat) : Nat := s.readNat (s.bankBase b + 64 * (i - 1)) 64

/-- The source pattern of an entry as the load check finds it in memory, and the bytes its window carries. -/
def State.entSource (s : State) (b e : Nat) : Option Nat × Nat :=
  if entKind e = 1 ∧ entSrcPat e ≠ 0 then
    let w := s.bankRecord b (entSrcPat e)
    (some w, patBytes w)
  else (none, entLength e * 512)

/-- The source pattern of an entry of the active bank, and the bytes its window carries: by the record that was copied
when the bank was armed (R66). -/
def State.sendSource (s : State) (b e : Nat) : Option Nat × Nat :=
  if entKind e = 1 ∧ entSrcPat e ≠ 0 then
    let w := Tbl.get 0 s.tt.patterns (4096 * b + entSrcPat e)
    (some w, patBytes w)
  else (none, entLength e * 512)

/-- Rule 5. -/
def State.loadRule5 (s : State) (b e : Nat) : Bool :=
  if entKind e = 1 then
    decide (entSrcPat e ≤ s.bankPatterns b) &&
    decide ((entLength e - 1) * 512 < (s.entSource b e).2) && decide ((s.entSource b e).2 ≤ entLength e * 512)
  else decide (entSrcPat e = 0) && decide (entDstPat e = 0) &&
    (!(entKind e == 2 && decide (entOp e ≤ 2)) || decide (entLength e % 33 = 0))

/-- Rule 7: every byte that the window reads is granted to its key. -/
def State.loadRule7 (s : State) (b e : Nat) : Bool :=
  let (pat, n) := s.entSource b e
  allBytes (fun i => s.landOk (entSrcKind e) (entSrc e) (winOffset pat i) (entKey e) false) n

/-- A rule that concerns single entries, for entry `i` of link `l` (R71). Whether the 1,024 consecutive entries of rule 4
run on across the period end is open: here they are counted within one pass of the table (assumption 107). -/
def State.entryRule (s : State) (b l rule i : Nat) : Bool :=
  let e := s.entry b l i
  match rule with
  | 1 => loadRule1 e
  | 2 => i == 0 || decide (entStart (s.entry b l (i - 1)) ≤ entStart e)
  | 3 => !entWindow e || (decide (entStart e % 12 ≠ 11) &&
      decide (entStart e + spanSlots (entStart e) (entLength e) ≤ s.bankPeriod b / 5))
  | 4 => !(decide (i + 1023 < s.bankCount b l)) ||
      decide (entStart e + 400 ≤ entStart (s.entry b l (i + 1023)))
  | 5 => !entWindow e || s.loadRule5 b e
  | 7 => !entWindow e || s.loadRule7 b e
  | 8 => s.role l == 1 || entKind e == 4
  | _ => true

/-- The first failure of the load check: rule, link, entry or pattern index.  Rules are taken in their
order, and within a rule links and entries (assumption 24). -/
def State.loadCheck (s : State) (b : Nat) : Option (Nat × Nat × Nat) :=
  let byEntry (r : Nat) : Option (Nat × Nat × Nat) :=
    (List.range 64).findSome? fun l =>
      if r = 2 ∧ 65536 < s.bankCount b l then some (2, l, 0)
      else ((List.range (s.bankCount b l)).find? fun i => !s.entryRule b l r i).map fun i => (r, l, i)
  let p := s.bankPeriod b
  let bank9 := if p % 60 = 0 ∧ 60 ≤ p then none else some (9, 0, 0)
  let bank10 :=
    if 4095 < s.bankPatterns b then some (10, 0, 0)
    else ((List.range (s.bankPatterns b)).find? fun i => !patOk (s.bankRecord b (i + 1))).map fun i => (10, 0, i + 1)
  ([1, 2, 3, 4, 5, 7, 8].findSome? byEntry).orElse fun _ => bank9.orElse fun _ => bank10

/-- LOAD_STATUS (R495). -/
def loadStatus (b : Nat) : Option (Nat × Nat × Nat) → List Byte
  | none => []
  | some (r, l, i) => leBytes 1 r ++ leBytes 1 b ++ leBytes 1 l ++ [0] ++ leBytes 4 i

/-- The bank's records are copied into its pattern memory as it is armed (R66). -/
def State.copyPatterns (s : State) (b : Nat) : State :=
  let t := s.tt.patterns.filter fun e => e.1 / 4096 != b
  { s with tt := { s.tt with
      patterns := (List.range (s.bankPatterns b)).foldl
        (fun t i => Tbl.set 0 t (4096 * b + i + 1) (s.bankRecord b (i + 1))) t } }

/-! ### Comparators (R79) -/

/-- Comparators of the hold-scheduling share of H-die 0 in use: armed switches, and the ticks of a hold
that are to come. -/
def State.holdComparators (s : State) : Nat :=
  (if s.tt.switch.isSome then 1 else 0) + (if s.obj 0xB000 3 = 0xFF then 0 else 1) +
  (if s.hold.tick.isSome && !s.hold.held then 1 else 0) + (if s.hold.allResumed then 1 else 0)

def State.comparatorFree (s : State) : Bool := decide (s.holdComparators < s.obj 0xB020 2)

/-! ### The switch (R64, R65) -/

/-- SWITCH_BANK is written with a bank number: the abort of R65, or none and the switch is armed. -/
def State.armSwitch (s : State) (b : Fin 2) : Nat × State :=
  let tick := s.obj 0x2010 8
  if s.tt.switch.isSome then (9, s)
  else if s.tt.active = some b ∨ !s.bankArmed b then (9, s)
  else if tick % 60 ≠ 0 then (3, s)
  else if (match s.tt.active with
      | some a => decide (tick < s.tt.origin) || (tick - s.tt.origin) % s.bankPeriod a != 0
      | none => false) then (3, s)
  else if tick < s.sched + 1000 * s.obj 0xB000 6 then (3, s)
  else if !s.comparatorFree then (6, s)
  else (0, (({ s with tt := { s.tt with switch := some b } }.setObj 0x2010 9 b).log 0x2012))

def State.disarmBankSwitch (s : State) : State :=
  { s with tt := { s.tt with switch := none } }.setObj 0x2010 9 0xFF

/-- Entries that an engine has fetched when its table starts (R72). -/
def firstFetch (count : Nat) : Nat := if count = 0 then 0 else 4096

/-! ### Lost links (R87, R88) -/

/-- A link's windows are never sent while it is in the lost-link set. -/
def State.ownLost (s : State) (l : Nat) : Bool := s.hold.lost.contains (s.linkName l)

/-- The entry is active under the lost-link set (R87). -/
def State.entActive (s : State) (e : Nat) : Bool :=
  match entMode e with
  | 0 => true
  | 1 => !s.hold.lost.contains (entDetour e)
  | _ => s.hold.lost.contains (entDetour e)

/-- An active window of the active bank lies on one of the module's own lost links (R88). -/
def State.unplannedLoss (s : State) : Bool :=
  match s.tt.active with
  | none => false
  | some b =>
    (List.range 64).any fun l => s.ownLost l &&
      (List.range (s.bankCount b l)).any fun i =>
        let e := s.entry b l i
        entWindow e && s.entActive e

/-- A lost-link set that would overflow, or a loss without a detour: event 0x2017, job-stage failure with
cause 0x12, and the schedule-fault flag on every step (R87, R88). -/
def State.unplanned (s : State) : State :=
  (((s.log 0x2017).setHold fun h => { h with sticky := true, schedFault := true }).faultCount 0x12).jobFail 0x12

/-- The loss is found as soon as such a window is active, and reported once. -/
def State.checkLoss (s : State) : State := if s.unplannedLoss && !s.hold.sticky then s.unplanned else s

/-! ### Events of the table (R77, R78) -/

def State.engine (s : State) (l : Nat) : TtEngine := Tbl.get .reset s.tt.engines l
def State.setEngine (s : State) (l : Nat) (e : TtEngine) : State :=
  { s with tt := { s.tt with engines := Tbl.set .reset s.tt.engines l e } }

/-- How far before its START_SLOT an EVENT fires, in ns: a wake by its lead. -/
def State.eventLead (s : State) (op : Nat) : Nat :=
  if op = 1 then s.obj 0x2014 1 else if op = 2 then s.obj 0x2014 2 else 0

/-- Instances of an EVENT of bank `b` whose fire times fall before the bank's first slot. -/
def State.earlyInstances (s : State) (b e : Nat) : Nat :=
  let ahead := s.eventLead (entOp e) - 5 * entStart e
  (ahead + s.bankPeriod b - 1) / s.bankPeriod b

/-- Schedule time at which the next instance of entry `i` of link `l` fires. -/
def State.eventTime (s : State) (b l i : Nat) : Nat :=
  let e := s.entry b l i
  s.tt.origin + Tbl.get 0 (s.engine l).fired i * s.bankPeriod b + 5 * entStart e - s.eventLead (entOp e)

/-- The entry has fired up to its instance `n`. -/
def State.markFired (s : State) (l i n : Nat) : State :=
  let e := s.engine l
  s.setEngine l { e with fired := Tbl.set 0 e.fired i n }

/-- EVENT entries of the active bank that `f` holds of: link and index, in table order. -/
def State.eventsOf (s : State) (b : Nat) (f : Nat → Bool) : List (Nat × Nat) :=
  (List.range 64).flatMap fun l =>
    ((List.range (s.bankCount b l)).filter fun i => entKind (s.entry b l i) == 4 && f (s.entry b l i)).map fun i => (l, i)

/-- Instances of a wake whose fire times fall before the switch tick fire together as a single wake at the tick. -/
def State.mergedWakes (s : State) : State :=
  match s.tt.active with
  | none => s
  | some b =>
    s.each (s.eventsOf b fun e => (entOp e == 1 || entOp e == 2) && s.earlyInstances b e != 0) fun s x =>
      let e := s.entry b x.1 x.2
      let s := s.markFired x.1 x.2 (s.earlyInstances b e)
      if entOp e = 1 then s.wakeCore (entDst e) else s.wakeDie (entDst e)

/-- The EVENT that fires next among those that `f` holds of: its link, index and fire time. -/
def State.nextEvent (s : State) (f : Nat → Bool) : Option (Nat × Nat × Nat) :=
  match s.tt.active with
  | none => none
  | some b =>
    (s.eventsOf b f).foldl (fun best x =>
      let t := s.eventTime b x.1 x.2
      match best with
      | some (_, _, u) => if t < u then some (x.1, x.2, t) else best
      | none => some (x.1, x.2, t)) none

/-! ### The switch takes effect -/

/-- The armed bank becomes active, at its slot 0 (R60, R64); FLOOR_SHORT is the new bank's (R378). -/
def State.switchBank (s : State) : State :=
  match s.tt.switch with
  | none => s
  | some b =>
    let first := s.tt.active.isNone
    let s := s.on first fun s => s.setHold fun h => { h with offset := 0 }
    let origin := max (s.obj 0x2010 8) s.sched
    let s := { s with tt := { s.tt with
      active := some b, switch := none, origin := origin
      engines := (List.range 64).foldl (fun t l =>
        Tbl.set .reset t l ⟨origin, 0, firstFetch (s.bankCount b l), none, 0, []⟩) [] } }
    let s := s.on first fun s => { s with rope := { s.rope with activeAt := s.now } }
    ((((s.setObj 0x2010 9 0xFF).setObj 0x2010 1 b).setObj 0x3003 6 0).log 0x2018).mergedWakes.checkLoss

/-- BANK_SWITCH: at the tick; a tick within a hall hold waits for the resume tick. -/
def execBankSwitch (s : State) : Host.Outcome State Fault Refusal :=
  act s fun s =>
    let due := s.obj 0x2010 8 + s.lag
    if s.tt.switch.isNone ∨ s.frozenAt due then s else (s.reach due).switchBank

/-! ### Prefetch (R72) -/

/-- TT_BATCH_ARRIVE: 1,024 entries more, when 3,072 or fewer remain. -/
def execTtBatchArrive (link : Link) (s : State) : Host.Outcome State Fault Refusal :=
  act s fun s =>
    let e := s.engine link
    if s.tt.active.isSome ∧ e.fetched ≤ 3072 then
      s.setEngine link { e with fetched := e.fetched + 1024 }
    else s

/-! ### Sending (R73, R75, R80, R87) -/

/-- The next entry that takes slots and is active, from the engine's position, looking through at most
`n` entries: its position, and the entries passed over. -/
def State.nextWindow (s : State) (b l : Nat) : Nat → TtEngine → Nat → Option (TtEngine × Nat)
  | 0, _, _ => none
  | n + 1, e, passed =>
    let count := s.bankCount b l
    if count = 0 then none
    else
      let x := s.entry b l e.index
      if entWindow x && s.entActive x then some (e, passed)
      else
        let e := if e.index + 1 < count then { e with index := e.index + 1 }
          else { e with index := 0, period := e.period + s.bankPeriod b }
        s.nextWindow b l n e (passed + 1)

/-- The engine after its current entry. -/
def State.pastEntry (s : State) (b l : Nat) (e : TtEngine) : TtEngine :=
  if e.index + 1 < s.bankCount b l then { e with index := e.index + 1 }
  else { e with index := 0, period := e.period + s.bankPeriod b }

/-- A window is lost whole (R80). -/
def State.loseWindow (s : State) (l : Nat) : State :=
  (((s.count 0x2015 l).log 0x2010 (domLink l)).interrupt 4).schedFault

/-- What a CAPACITY window sends: requested and sent byte counts (R75). -/
def State.capacity (s : State) (e : Nat) : Nat × Nat :=
  let req := leNat ((List.range 4).map fun i : Nat => s.landRead (entSrcKind e) (entSrc e) i)
  (req, min req (entLength e * 512 - 64))

/-- The open word of a window (R69). -/
def openWord (e bytes : Nat) : OpenWord :=
  ⟨BitVec.ofNat 3 (entDstKind e), BitVec.ofNat 41 (entDst e), BitVec.ofNat 12 (entDstPat e),
   BitVec.ofNat 16 (entTag e), entKey e, BitVec.ofNat 4 (entOp e), bytes⟩

/-- A delta that only drops (R75). -/
def dropDelta (tag n : Nat) : Delta := ⟨tag, 0, 0, 0, 0, 0, 0, 0, n, []⟩

/-- The window starts: the open word goes out; a CAPACITY window reads its count and drops the excess. -/
def State.openWindow (s : State) (b l e start : Nat) (eng : TtEngine) : State :=
  let len := entLength e
  let spanEnd := start + 5 * spanSlots (entStart e) len
  let (w, s) :=
    if entKind e = 3 then
      let (req, sent) := s.capacity e
      let s := s.on (decide (sent < req)) fun s => { s with deltas := s.deltas ++ [dropDelta (entTag e) (req - sent)] }
      (⟨e, start, 0, (64 + sent + 511) / 512, 64 + sent, req⟩, s)
    else (⟨e, start, 0, len, (s.sendSource b e).2, 0⟩, s)
  let s := s.setEngine l { eng with window := some w, spanEnd := spanEnd }
  s.emit (.windowOpen l (openWord e w.bytes))

/-- WINDOW_START: the link's next active window reaches its first slot. Timed traffic is refused while hall time is not
LOCKED, nor in HOLDOVER within its limit: the window is then not sent (R46; assumption 109). -/
def State.startWindow (s : State) (l : Nat) : State :=
  match s.tt.active with
  | none => s
  | some b =>
    match s.nextWindow b l (2 * s.bankCount b l) (s.engine l) 0 with
    | none => s
    | some (e, passed) =>
      let x := s.entry b l e.index
      let start := e.period + 5 * entStart x
      if s.frozenAt (start + s.lag) then s
      else
        let s := s.reach (start + s.lag)
        let have_ := decide (passed < e.fetched)
        let next := { s.pastEntry b l e with fetched := e.fetched - (passed + 1) }
        if s.ownLost l || !s.timeOk then s.setEngine l next
        else if !have_ ∨ s.poisoned (bankTable b l e.index) 32 ∨ start < e.spanEnd then
          ((s.readPoison (bankTable b l e.index) 32).setEngine l next).loseWindow l
        else s.openWindow b l x start next

def execWindowStart (link : Link) (s : State) : Host.Outcome State Fault Refusal := act s (·.startWindow link)

/-- The 64-byte header that a CAPACITY window lands (R75). -/
def capacityHeader (w : TxWindow) : List Byte :=
  let cap := entLength w.entry * 512 - 64
  leBytes 4 (w.bytes - 64) ++ leBytes 4 w.requested ++ leBytes 4 cap ++ leBytes 2 (entTag w.entry) ++
  [if cap < w.requested then 1 else 0, 0] ++ leBytes 8 w.start ++ leBytes 40 0

/-- Byte `i` of the window in progress. -/
def State.windowByte (s : State) (w : TxWindow) (pat : Option Nat) (i : Nat) : Byte :=
  let e := w.entry
  if entKind e = 3 then
    if i < 64 then (capacityHeader w).getD i 0 else s.landRead (entSrcKind e) (entSrc e) i
  else s.landRead (entSrcKind e) (entSrc e) (winOffset pat i)

/-- Where byte `i` of the window is read in device memory. -/
def windowAt (w : TxWindow) (pat : Option Nat) (i : Nat) : Nat :=
  ((entSrc w.entry : Int) + (if entKind w.entry = 3 then (i : Int) else winOffset pat i)).toNat

/-- The read of byte `i` returns an uncorrectable error. -/
def State.windowPoison (s : State) (w : TxWindow) (pat : Option Nat) (i : Nat) : Bool :=
  entSrcKind w.entry == 0 && s.poisoned (windowAt w pat i) 1

/-- WINDOW_SLOT_SEND: the next data slot of the window, padded with zeros past the window's bytes, with
a poison mark where the read fails. -/
def State.sendSlot (s : State) (l : Nat) : State :=
  match s.tt.active, (s.engine l).window with
  | some b, some w =>
    let due := w.start + 5 * dataSlot (entStart w.entry) w.sent + s.lag
    if s.frozenAt due then s
    else
      let s := s.reach due
      let pat := (s.sendSource b w.entry).1
      let from_ := 512 * w.sent
      let n := min 512 (w.bytes - from_)
      let data := (List.range n).map fun i => s.windowByte w pat (from_ + i)
      let poison := (List.range n).find? fun i => s.windowPoison w pat (from_ + i)
      let bad := poison.isSome
      let s := match poison with
        | some i => s.readPoison (windowAt w pat (from_ + i)) 1
        | none => s
      let e := s.engine l
      let w' := { w with sent := w.sent + 1 }
      let s := s.setEngine l { e with window := if w'.sent < w.slots then some w' else none }
      (s.emit (.slot l (data ++ List.replicate (512 - n) 0) bad)).returnCredits l
  | _, _ => s

def execWindowSlotSend (link : Link) (s : State) : Host.Outcome State Fault Refusal := act s (·.sendSlot link)

/-! ### Landing (R73, R496) -/

def State.rxOf (s : State) (l : Nat) : Option RxWindow := Tbl.get none s.tt.rx l
def State.setRx (s : State) (l : Nat) (w : Option RxWindow) : State :=
  { s with tt := { s.tt with rx := Tbl.set none s.tt.rx l w } }

/-- The destination pattern passes the checks of R73 in the active bank's memory: the record, or none
for pattern 0, or a failure. -/
def State.landPattern (s : State) (w : OpenWord) : Option (Option Nat) :=
  let i := w.dstPattern.toNat
  if i = 0 then some none
  else
    match s.tt.active with
    | none => none
    | some b =>
      let r := Tbl.get 0 s.tt.patterns (4096 * b + i)
      if i ≤ s.bankPatterns b ∧ patOk r ∧ patBytes r = w.byteCount ∧
          !((patDims r).any fun d => d.1 == 0 && decide (1 < d.2)) ∧ injective (patDims r) (patElem r)
      then some (some r) else none

/-- The open word passes the permission checks of R73. -/
def State.landPermitted (s : State) (w : OpenWord) (pat : Option Nat) : Bool :=
  decide (w.op.toNat ≤ 4) && decide (w.dstKind.toNat ≤ 2) && (w.op == 0 || pat.isNone) &&
  (w.dstKind.toNat != 2 || w.stageKey.toNat == s.obj 0x8000 3) &&
  allBytes (fun i => s.landOk w.dstKind.toNat w.dstAddr.toNat (winOffset pat i) w.stageKey true) w.byteCount

/-- WINDOW_OPEN_RECEIVE: the window is accepted, or will be discarded whole. -/
def execWindowOpenReceive (link : Link) (w : OpenWord) (s : State) : Host.Outcome State Fault Refusal :=
  act s fun s =>
    match s.landPattern w with
    | some pat => s.setRx link (some ⟨w, !s.landPermitted w pat, pat, 0, false, [], []⟩)
    | none => s.setRx link (some ⟨w, true, none, 0, false, [], []⟩)

/-- Bytes of a group of a REDUCE window (R115, R496). -/
def groupBytes (op : Nat) : Nat := if op ≤ 2 then 2112 else 512

/-- The core that a landing aims at, when it sleeps. -/
def State.sleepingTarget (s : State) (w : OpenWord) : Option Nat :=
  if w.dstKind.toNat = 1 then
    let c := fld w.dstAddr.toNat 40 33
    if (s.core c).power == .asleep || (s.core c).power == .waking then some c else none
  else none

/-- A discarded slot: counted, logged once per window, and the schedule-fault flag set. -/
def State.landingFault (s : State) (l : Nat) (w : RxWindow) (slots : Nat) : State :=
  let s := s.count 0x2016 l slots
  let s := s.on (!w.faulted) (·.log 0x2011 (domLink l))
  s.schedFault

/-- SLOT_LAND: the slot is written to its destination, held for its groups, or discarded. Its framing returns credits (R99). -/
def State.landSlot (s : State) (l : Nat) (data : List Byte) (bad overflow : Bool) : State :=
  match s.rxOf l with
  | none => s
  | some w =>
    let k := w.slots
    let o := w.open_
    let lk := s.link l
    let torn := decide (0 < lk.badSlots)
    let s := s.on torn fun s => s.setLink l { lk with badSlots := lk.badSlots - 1 }
    let asleep := s.sleepingTarget o
    let s := match asleep with | some c => s.wakeCore c | none => s
    let from_ := 512 * k
    let bytes := data.take (min 512 (o.byteCount - from_))
    let g := groupBytes o.op.toNat
    if w.refused || bad || overflow || torn || asleep.isSome then
      let groups := if o.op = 0 then [] else
        (List.range ((from_ + 511) / g - from_ / g + 1)).map (from_ / g + ·)
      (s.landingFault l w 1).setRx l (some { w with slots := k + 1, faulted := true, bad := w.bad ++ groups })
    else if o.op = 0 then
      (s.landBytes o.dstKind.toNat o.dstAddr.toNat w.pattern from_ bytes).setRx l (some { w with slots := k + 1 })
    else
      s.setRx l (some { w with slots := k + 1, held := w.held ++ bytes.mapIdx fun i b => (from_ + i, b) })

def execSlotLand (link : Link) (data : SlotWord) (bad overflow : Bool) (s : State) : Host.Outcome State Fault Refusal :=
  act s fun s => (s.addCredits link data.credits).landSlot link data.bytes bad overflow

/-! ### Events (R77, R78) -/

/-- The next EVENT of an action and a target fires at its time, each instance once; events freeze with schedule time while
the hall is held (R84). An entry that cannot be read is handled as a lost window (R72, R80). With no such EVENT in the
active bank nothing fires. -/
def onEvent (s : State) (is : Nat → Bool) (f : State → State) : Host.Outcome State Fault Refusal :=
  act s fun s =>
    match s.tt.active, s.nextEvent is with
    | some b, some (l, i, t) =>
      if s.frozenAt (t + s.lag) then s
      else
        let s := (s.reach (t + s.lag)).markFired l i (Tbl.get 0 (s.engine l).fired i + 1)
        if s.poisoned (bankTable b l i) 32 then (s.readPoison (bankTable b l i) 32).loseWindow l else f s
    | _, _ => s

/-- An EVENT of action `op` on target `dst`. -/
def isEvent (op dst e : Nat) : Bool := entOp e == op && entDst e == dst

def execWakeCore (core : Core) (s : State) : Host.Outcome State Fault Refusal :=
  onEvent s (isEvent 1 core) (·.wakeCore core)

/-- WAKE_DIE wakes the die alone; its cores stay in core bivouac (R372). -/
def execWakeDie (die : Die) (s : State) : Host.Outcome State Fault Refusal :=
  onEvent s (isEvent 2 die) (·.wakeDie die)

/-- A sleep that does not apply is ignored, counted and logged (R78). -/
def State.ignoreSleep (s : State) (dom : Nat) : State := (s.count 0x2014 3).log 0x2019 dom

/-- Every context of the core is parked in WAIT.T or idle. -/
def State.coreParked (s : State) (c : Nat) : Bool :=
  (List.range 8).all fun x => (s.ctx c x).status == .parkedT || (s.ctx c x).status == .idle

def execSleepCore (core : Core) (s : State) : Host.Outcome State Fault Refusal :=
  onEvent s (isEvent 3 core) fun s =>
    if s.coreParked core then
      s.mapCore core fun v => if v.power = .awake then { v with power := .draining } else v
    else s.ignoreSleep (domCore core)

def execSleepDie (die : Die) (s : State) : Host.Outcome State Fault Refusal :=
  onEvent s (isEvent 4 die) fun s =>
    if (List.range 48).all fun i => (s.core (48 * die + i)).power == .asleep then
      s.setDie die .asleep
    else s.ignoreSleep (domDie die)

def execEventSemPost (core : Core) (sem : BitVec 8) (s : State) : Host.Outcome State Fault Refusal :=
  onEvent s (fun e => isEvent 5 core e && entSrc e == sem.toNat) fun s => s.post core sem.toNat 1 false

/-- STROBE: one 20 ns pulse, if the debug strobe owns TIME_OUT (R56). -/
def execStrobe (s : State) : Host.Outcome State Fault Refusal :=
  onEvent s (isEvent 6 0) fun s => if s.obj 0x2006 1 = 1 ∧ s.obj 0xB020 1 = 2 then s.emit (.pulse s.now 20) else s

end Sys2Proof.Machine
end

