-- ==== Sys2Proof/Machine/Descriptor.lean ====
section
/-!
DEFINITION. Mover descriptors: layout, the check at issue, and the moves they describe (R220-R235,
R258).
-/

namespace Sys2Proof.Machine

/-! ### Fields (R220) -/

def dKind (w : Nat) : Nat := fld w 1019 1016
def dNdim (w : Nat) : Nat := fld w 1015 1013
/-- Element size in bytes. -/
def dElem (w : Nat) : Nat := 2 ^ fld w 1012 1011
def dSrcKind (w : Nat) : Nat := fld w 1010 1009
def dDstKind (w : Nat) : Nat := fld w 1008 1007
def dAlias (w : Nat) : Bool := bitAt w 1006
def dPad (w : Nat) : Nat := fld w 1005 1004
def dSec (w : Nat) : Nat := fld w 1003 1002
def dFormat (w : Nat) : Nat := fld w 1001 997
def dContext (w : Nat) : Nat := fld w 995 978
def dPadValue (w : Nat) : Nat := fld w 977 914
def dSrc (w : Nat) : Nat := fld w 913 866
def dDst (w : Nat) : Nat := fld w 865 818
def dLo (w : Nat) : Nat := fld w 817 770
def dHi (w : Nat) : Nat := fld w 769 722

/-- A dimension: extent, strides, and the pads of a COPY (R223). -/
structure Dim where
  ext : Nat
  ss : Int
  ds : Int
  lo : Nat
  hi : Nat
  deriving DecidableEq, Repr

/-- Dimension `k` of the descriptor. -/
def dDim (w k : Nat) : Dim where
  ext := fld w (104 * k + 103) (104 * k + 80) + 1
  ss := sext 40 (fld w (104 * k + 79) (104 * k + 40))
  ds := sext 40 (fld w (104 * k + 39) (104 * k))
  lo := if dKind w = 1 then fld w (721 - 12 * k) (716 - 12 * k) else 0
  hi := if dKind w = 1 then fld w (715 - 12 * k) (710 - 12 * k) else 0

/-- Data positions along a dimension. -/
def Dim.cnt (d : Dim) : Nat := d.ext - d.lo - d.hi

def dDims (w : Nat) : List Dim := (List.range (dNdim w)).map (dDim w)

/-- The windows of R231. -/
structure Win where
  c : Nat
  w : Nat
  h : Nat
  n : Nat
  kh : Nat
  kw : Nat
  sh : Nat
  sw : Nat
  dh : Nat
  dw : Nat
  phLo : Nat
  phHi : Nat
  pwLo : Nat
  pwHi : Nat
  deriving DecidableEq, Repr

def dWin (w : Nat) : Win where
  c := (dDim w 0).ext
  w := (dDim w 1).ext
  h := (dDim w 2).ext
  n := (dDim w 3).ext
  kh := fld w 721 718 + 1
  kw := fld w 717 714 + 1
  sh := fld w 713 710 + 1
  sw := fld w 709 706 + 1
  dh := fld w 705 702 + 1
  dw := fld w 701 698 + 1
  phLo := fld w 697 694
  phHi := fld w 693 690
  pwLo := fld w 689 686
  pwHi := fld w 685 682

/-- ⌊(n + lo + hi − d × (k − 1) − 1) / s⌋ + 1. -/
def outSize (n lo hi d k s : Nat) : Int := ((n + lo + hi : Nat) - (d * (k - 1) + 1 : Nat) : Int) / (s : Int) + 1

def Win.oh (v : Win) : Int := outSize v.h v.phLo v.phHi v.dh v.kh v.sh
def Win.ow (v : Win) : Int := outSize v.w v.pwLo v.pwHi v.dw v.kw v.sw
/-- Elements of an output row, and output rows. -/
def Win.l (v : Win) : Nat := v.kh * v.kw * v.c
def Win.rows (v : Win) : Nat := v.n * v.oh.toNat * v.ow.toNat

/-- Input coordinates that the taps of one axis reach; those inside [0, n) are data. -/
def tapCoords (out : Int) (k s d lo : Nat) : List Int :=
  (List.range out.toNat).flatMap fun o => (List.range k).map fun i => ((o * s + i * d : Nat) : Int) - lo

def Win.hs (v : Win) : List Int := tapCoords v.oh v.kh v.sh v.dh v.phLo
def Win.ws (v : Win) : List Int := tapCoords v.ow v.kw v.sw v.dw v.pwLo
def inside (n : Nat) (i : Int) : Bool := decide (0 ≤ i) && decide (i < n)
def Win.padded (v : Win) : Bool := !(v.hs.all (inside v.h) && v.ws.all (inside v.w))

/-! ### The PACK kinds (R234) -/

def pkKb (w : Nat) : Nat := fld w 721 719 + 1
def pkTile (w : Nat) : Bool := bitAt w 718
def pkRb (w : Nat) : Nat := fld w 717 694
def pkB0 (w : Nat) : Nat := fld w 693 662
/-- Bytes of a block's elements. -/
def pkE (w : Nat) : Nat := 4 * elemBits (dFormat w)
def pkRows (w : Nat) : Nat := (dDim w 0).ext

/-- Offsets of packed block `b`: its scale and its elements (R172). -/
def pkScaleOff (w b : Nat) : Nat := b / 64 * (64 + 64 * pkE w) + b % 64
def pkElemOff (w b : Nat) : Nat := b / 64 * (64 + 64 * pkE w) + 64 + b % 64 * pkE w

/-- Offsets in the image of block `j` of row `r`: elements and scale. -/
def pkImageOff (w r j : Nat) : Int × Int :=
  let e := pkE w
  let kb := pkKb w
  if pkTile w then ((r * (kb * e) + j * e : Nat), (64 * (kb * e) + 64 * j + r : Nat))
  else (r * (dDim w 0).ds + (j * e : Nat), r * (dDim w 0).ds + (kb * e + j : Nat))

def pkBlock (w r j : Nat) : Nat := pkB0 w + r * pkRb w + j
def pkLast (w : Nat) : Nat := pkBlock w (pkRows w - 1) (pkKb w - 1)

/-! ### Footprints (R224) -/

/-- The lowest address and one past the highest of a box of positions: base, element size, and per
dimension the first and last multiple of its stride. -/
def box (base : Int) (elem : Nat) (ds : List (Int × Int × Int)) : Int × Int :=
  ds.foldl (fun r d => (r.1 + min (d.1 * d.2.2) (d.2.1 * d.2.2), r.2 + max (d.1 * d.2.2) (d.2.1 * d.2.2)))
    (base, base + elem)

def packedBox (w base : Nat) : Int × Int :=
  ((base + pkScaleOff w (pkB0 w) : Nat), (base + pkElemOff w (pkLast w) + pkE w : Nat))

def imageBox (w base : Nat) : Int × Int :=
  let row := pkKb w * (pkE w + 1)
  if pkTile w then ((base : Nat), (base + 64 * row : Nat))
  else box base row [(0, (pkRows w : Int) - 1, (dDim w 0).ds)]

/-- Bits [40:0] of a REMOTE address, the low bits of the others. -/
def dBase (kind a : Nat) : Nat := if kind = 2 then fld a 40 0 else a

/-- What is read: none where no position is a data position. -/
def srcBox (w : Nat) : Option (Int × Int) :=
  let base := dBase (dSrcKind w) (dSrc w)
  match dKind w with
  | 2 =>
    let v := dWin w
    let hs := v.hs.filter (inside v.h)
    let ws := v.ws.filter (inside v.w)
    match hs, ws with
    | h :: hs, x :: ws => some (box base (dElem w)
        [(0, (v.c : Int) - 1, (dDim w 0).ss), (ws.foldl min x, ws.foldl max x, (dDim w 1).ss),
          (hs.foldl min h, hs.foldl max h, (dDim w 2).ss), (0, (v.n : Int) - 1, (dDim w 3).ss)])
    | _, _ => none
  | 3 => some (packedBox w base)
  | 4 => some (imageBox w base)
  | _ => some (box base (dElem w) ((dDims w).map fun d => (0, (d.cnt : Int) - 1, d.ss)))

/-- What is written. -/
def dstBox (w : Nat) : Option (Int × Int) :=
  let base := dBase (dDstKind w) (dDst w)
  match dKind w with
  | 2 =>
    let v := dWin w
    if v.rows = 0 then none
    else some (box base (dElem w)
      [(0, (v.l : Int) - 1, (dDim w 0).ds), (0, (v.rows : Int) - 1, (dDim w 1).ds)])
  | 3 => some (imageBox w base)
  | 4 => some (packedBox w base)
  | _ => some (box base (dElem w) ((dDims w).map fun d =>
      if dPad w = 1 then (0, (d.ext : Int) - 1, d.ds) else (d.lo, (d.ext : Int) - 1 - d.hi, d.ds)))

/-- The dimensions of the destination pattern and its element size (R224 rules 4 and 5, R232, R234). -/
def dstPattern (w : Nat) : List (Int × Nat) × Nat :=
  match dKind w with
  | 2 => ([((dDim w 0).ds, (dWin w).l), ((dDim w 1).ds, (dWin w).rows)], dElem w)
  | 3 => if pkTile w then ([], 1) else ([((dDim w 0).ds, pkRows w)], pkKb w * (pkE w + 1))
  | 4 => ([((pkRb w : Int), pkRows w)], pkKb w)
  | _ => ((dDims w).map fun d => (d.ds, d.ext), dElem w)

/-! ### The check (R224) -/

/-- An address in the form of its kind (R222). -/
def formOk (kind a : Nat) : Bool :=
  match kind with
  | 1 => decide (fld a 47 33 = 0) && decide (fld a 30 23 = 0)
  | 2 => decide (fld a 47 45 ≤ 1) && decide (fld a 44 41 = 0)
  | _ => true

/-- FORMAT names a format: a PACK, and any SEC but 0b00. -/
def dCoded (w : Nat) : Bool := dKind w == 3 || dKind w == 4 || dSec w != 0

/-- FORMAT holds a reserved code (R155). -/
def dReserved (w : Nat) : Bool := dCoded w && !(decide (1 ≤ dFormat w) && decide (dFormat w ≤ 0xF))

/-- Rule 1. -/
def descRule1 (heritage : Bool) (w : Nat) : Bool :=
  let v := fld w 1023 1020
  let k := dKind w
  let remote := dSrcKind w == 2 || dDstKind w == 2
  (v == 2 || (v == 1 && heritage)) && decide (1 ≤ k) && decide (k ≤ 4) &&
  decide (1 ≤ dNdim w) && decide (dNdim w ≤ 6) && decide (dSrcKind w < 3) && decide (dDstKind w < 3) &&
  !(dSrcKind w == 2 && dDstKind w == 2) && decide (dPad w < 3) && decide (dSec w < 3) &&
  !dReserved w && (dCoded w || dFormat w == 0) &&
  !bitAt w 996 && (remote || dContext w == 0) && decide (dPadValue w < 2 ^ (8 * dElem w)) &&
  formOk (dSrcKind w) (dSrc w) && formOk (dDstKind w) (dDst w) && formOk (dDstKind w) (dLo w) &&
  formOk (dDstKind w) (dHi w) && decide (fld w 639 624 = 0) &&
  (match k with
    | 1 => decide (fld w 649 640 = 0)
    | 2 => decide (fld w 681 640 = 0)
    | _ => decide (fld w 661 640 = 0)) &&
  (List.range 6).all fun i => decide (i < dNdim w) || decide (fld w (104 * i + 103) (104 * i) = 0)

/-- Rule 2: the pads of a COPY. -/
def descRule2 (w : Nat) : Bool :=
  dKind w != 1 || (List.range 6).all fun i =>
    let d := dDim w i
    decide (d.lo + d.hi < d.ext) && (dPad w != 0 || (d.lo == 0 && d.hi == 0))

/-- Rule 3: alignment of VIRT and STORE sides. -/
def descRule3 (w : Nat) : Bool :=
  let e : Int := dElem w
  (dSrcKind w == 2 || (decide (dSrc w % dElem w = 0) && (dDims w).all fun d => d.ss % e == 0)) &&
  (dDstKind w == 2 || (decide (dDst w % dElem w = 0) && (dDims w).all fun d => d.ds % e == 0))

/-- Two boxes meet. -/
def boxesMeet (a b : Option (Int × Int)) : Bool :=
  match a, b with
  | some a, some b => decide (a.1 < b.2) && decide (b.1 < a.2)
  | _, _ => false

/-- Rule 6: both sides in one space, and their footprints intersect. -/
def descOverlap (w : Nat) : Bool :=
  ((dSrcKind w == 0 && dDstKind w == 0) ||
    (dSrcKind w == 1 && dDstKind w == 1 && fld (dSrc w) 32 31 == fld (dDst w) 32 31)) &&
  boxesMeet (srcBox w) (dstBox w)

/-- The end of a side's address space (R222, R224 rule 8), in the numbering of its addresses. -/
def spaceEnd (kind a : Nat) : Nat :=
  match kind with
  | 0 => 2 ^ 48
  | 1 => fld a 32 31 * 2 ^ 31 + storeSize (fld a 32 31)
  | _ => 2 ^ 41

def spaceStart (kind a : Nat) : Nat := if kind = 1 then fld a 32 31 * 2 ^ 31 else 0

def boxWithin (lo hi : Nat) (b : Option (Int × Int)) : Bool :=
  match b with
  | some b => decide ((lo : Int) ≤ b.1) && decide (b.2 ≤ (hi : Int))
  | none => true

/-- Rule 7: the fence (R228). -/
def descRule7 (w : Nat) : Bool :=
  let k := dDstKind w
  let lo := dBase k (dLo w)
  let hi := dBase k (dHi w)
  let sameSpace := k != 2 || (fld (dLo w) 47 45 == fld (dDst w) 47 45 && fld (dHi w) 47 45 == fld (dDst w) 47 45)
  sameSpace && decide (lo < hi) && decide (spaceStart k (dDst w) ≤ lo) && decide (hi ≤ spaceEnd k (dDst w)) &&
  boxWithin lo hi (dstBox w)

/-- Rule 8. -/
def descRule8 (w : Nat) : Bool :=
  boxWithin (spaceStart (dSrcKind w) (dSrc w)) (spaceEnd (dSrcKind w) (dSrc w)) (srcBox w) &&
  boxWithin (spaceStart (dDstKind w) (dDst w)) (spaceEnd (dDstKind w) (dDst w)) (dstBox w)

/-- R232. -/
def windowOk (w : Nat) : Bool :=
  let v := dWin w
  dNdim w == 4 && dDstKind w == 1 && fld (dDst w) 32 31 == 1 && decide (1 ≤ v.oh) && decide (1 ≤ v.ow) &&
  decide (v.l ≤ 2 ^ 24) && decide (v.rows ≤ 2 ^ 24) && (dDim w 2).ds == 0 && (dDim w 3).ds == 0 &&
  dSec w == 0 && !(dPad w == 0 && v.padded)

/-- R234. -/
def packOk (w : Nat) : Bool :=
  dNdim w == 1 && (dDim w 0).ss == 0 && [0x04, 0x05, 0x06, 0x07, 0x08, 0x09].contains (dFormat w) &&
  (!pkTile w || pkRows w == 64) && dElem w == 1 && dPad w == 0 && dSec w == 0 &&
  (if dKind w = 3 then dSrcKind w != 2 && dDstKind w == 1 && fld (dDst w) 32 31 == (if pkTile w then 0 else 1)
   else !pkTile w && dSrcKind w == 1 && dDstKind w != 2)

/-- A side that holds slots. -/
def slotSideOk (kind a : Nat) : Bool :=
  if kind = 0 then decide (a % 4096 = 0) else kind == 1 && fld a 32 31 == 0 && decide (a % 1024 = 0)

/-- R258. -/
def secOk (w : Nat) : Bool :=
  let d := dDim w 0
  dKind w == 1 && dNdim w == 1 && dElem w == 8 && d.ss == 8 && d.ds == 8 && decide (d.ext % 512 = 0) &&
  decide (d.ext ≤ 32768 * 512) && dPad w == 0 && d.lo == 0 && d.hi == 0 && dPadValue w == 0 && !dAlias w &&
  (secFmt (dFormat w)).isSome && slotSideOk (dDstKind w) (dDst w) && dSrcKind w != 2 &&
  (if dSec w = 1 then slotSideOk (dSrcKind w) (dSrc w)
   else !(dSrcKind w == 1 && fld (dSrc w) 32 31 == 0) || decide (dSrc w % 1024 = 0))

/-- Rule 9, with the code of the kind that breaks it. -/
def descRule9 (w : Nat) : Option Nat :=
  if dKind w = 2 ∧ !windowOk w then some 0x09
  else if (dKind w = 3 ∨ dKind w = 4) ∧ !packOk w then some 0x0A
  else if dSec w ≠ 0 ∧ !secOk w then some 0x0C
  else none

/-- Rule 10: the context of a REMOTE side. -/
def State.descRule10 (s : State) (key : BitVec 8) (w : Nat) : Bool :=
  !(dSrcKind w == 2 || dDstKind w == 2) ||
  ((s.flow (dContext w)).state == .opened && (s.flow (dContext w)).stageKey == key)

/-- The code of the first rule that the descriptor breaks. -/
def State.descCheck (s : State) (key : BitVec 8) (w : Nat) : Option Nat :=
  let pat := dstPattern w
  if !descRule1 (s.kind == 4) w then some 0x01
  else if !descRule2 w then some 0x02
  else if !descRule3 w then some 0x03
  else if pat.1.any fun d => d.1 == 0 && decide (1 < d.2) then some 0x04
  else if !dAlias w && !injective pat.1 pat.2 then some 0x05
  else if !dAlias w && descOverlap w then some 0x06
  else if !descRule7 w then some 0x07
  else if !descRule8 w then some 0x08
  else match descRule9 w with
    | some c => some c
    | none => if s.descRule10 key w then none else some 0x0B

/-! ### Moves (R223, R227, R229, R231, R234) -/

/-- One position: where it reads (none: a pad), where it writes, its size, and the byte of PAD_VALUE that
its first byte takes. -/
structure Mv where
  src : Option Nat
  dst : Nat
  size : Nat
  off : Nat
  deriving DecidableEq, Repr

/-- Position `i` of a COPY: whether it is a pad, and its two offsets. -/
def copyAt : List Dim → Nat → Bool × Int × Int
  | [], _ => (false, 0, 0)
  | d :: ds, i =>
    let k := i % d.ext
    let r := copyAt ds (i / d.ext)
    let j : Int := k - d.lo
    (r.1 || decide (j < 0) || decide ((d.cnt : Int) ≤ j), r.2.1 + j * d.ss, r.2.2 + k * d.ds)

def copyMoves (w : Nat) : List Mv :=
  let ds := dDims w
  (List.range (ds.foldl (fun n d => n * d.ext) 1)).filterMap fun i =>
    let (pad, so, offs) := copyAt ds i
    let dst := ((dDst w : Int) + offs).toNat
    if !pad then some ⟨some ((dSrc w : Int) + so).toNat, dst, dElem w, 0⟩
    else if dPad w = 1 then some ⟨none, dst, dElem w, 0⟩
    else none

def windowMoves (w : Nat) : List Mv :=
  let v := dWin w
  let l := v.l
  (List.range (v.rows * l)).filterMap fun i =>
    let r := i / l
    let e := i % l
    let c := e % v.c
    let kw := e / v.c % v.kw
    let kh := e / v.c / v.kw
    let ow := r % v.ow.toNat
    let oh := r / v.ow.toNat % v.oh.toNat
    let n := r / v.ow.toNat / v.oh.toNat
    let h : Int := ((oh * v.sh + kh * v.dh : Nat) : Int) - v.phLo
    let x : Int := ((ow * v.sw + kw * v.dw : Nat) : Int) - v.pwLo
    let dst := ((dDst w : Int) + r * (dDim w 1).ds + e * (dDim w 0).ds).toNat
    if inside v.h h && inside v.w x then
      some ⟨some ((dSrc w : Int) + n * (dDim w 3).ss + h * (dDim w 2).ss + x * (dDim w 1).ss +
        c * (dDim w 0).ss).toNat, dst, dElem w, 0⟩
    else if dPad w = 1 then some ⟨none, dst, dElem w, 0⟩
    else none

def packMoves (w : Nat) : List Mv :=
  (List.range (pkRows w)).flatMap fun r => (List.range (pkKb w)).flatMap fun j =>
    let b := pkBlock w r j
    let im := pkImageOff w r j
    let one := fun (packed : Nat) (image : Int) (n : Nat) =>
      if dKind w = 3 then ⟨some (dSrc w + packed), ((dDst w : Int) + image).toNat, n, 0⟩
      else (⟨some ((dSrc w : Int) + image).toNat, dDst w + packed, n, 0⟩ : Mv)
    [one (pkElemOff w b) im.1 (pkE w), one (pkScaleOff w b) im.2 1]

/-- A byte that no data position of the list reaches. -/
def unreached (ms : List Mv) (a : Nat) : Bool :=
  ms.all fun m => m.src.isNone || !(decide (m.dst ≤ a) && decide (a < m.dst + m.size))

/-- The moves in iteration order, without the bytes of pads that data positions reach (R227). -/
def descMoves (w : Nat) : List Mv :=
  let ms := match dKind w with
    | 2 => windowMoves w
    | 1 => copyMoves w
    | _ => packMoves w
  if !dAlias w || dPad w != 1 then ms
  else ms.flatMap fun m =>
    if m.src.isSome then [m]
    else ((List.range m.size).filter fun i => unreached ms (m.dst + i)).map fun i => ⟨none, m.dst + i, 1, i⟩

end Sys2Proof.Machine
end

