-- ==== Sys2Proof/Machine/Operands.lean ====
section
/-!
DEFINITION. The operands of a matrix pass: width classes, pass records and their checks, tile and slice
images, and the expander (R125-R129, R193, R194, R260).
-/

namespace Sys2Proof.Machine

/-! ### Width classes (R125, R126) -/

/-- K of the width class of a matrix operand format; 0 of any other code. -/
def classK (code : Nat) : Nat :=
  match code with
  | 0x01 => 16
  | 0x02 => 64 | 0x03 => 64 | 0x0C => 64
  | 0x04 => 128 | 0x05 => 128 | 0x06 => 128 | 0x07 => 128 | 0x08 => 128 | 0x0D => 128 | 0x0E => 128
  | 0x09 => 256 | 0x0F => 256
  | _ => 0

/-- The SCALED flag fits the format (R126). -/
def scaledOk (code : Nat) (scaled : Bool) : Bool :=
  if blockOnly code then scaled else !scaled || blockable code

/-- The formats of a heritage pass (R148). -/
def heritageFmt (code : Nat) : Bool := [0x01, 0x02, 0x03, 0x04, 0x05, 0x0C, 0x0D].contains code

/-- The two formats and their flags may meet in a pass (R126, R148). -/
def PassRec.formatsOk (r : PassRec) : Bool :=
  decide (classK r.aFmt ≠ 0) && decide (classK r.wFmt ≠ 0) && (isFloat r.aFmt == isFloat r.wFmt) &&
  scaledOk r.aFmt r.aScaled && scaledOk r.wFmt r.wScaled &&
  (r.version != 1 || (heritageFmt r.aFmt && heritageFmt r.wFmt && !r.aScaled && !r.wScaled))

/-- K of the pass: that of the wider class. -/
def PassRec.k (r : PassRec) : Nat := min (classK r.aFmt) (classK r.wFmt)

/-- Bytes of one column, of the elements of a slice, and of scales per column or slice (R127). -/
def PassRec.colBytes (r : PassRec) : Nat := r.k * elemBits r.wFmt / 8
def PassRec.sliceBytes (r : PassRec) : Nat := r.k * elemBits r.aFmt / 8
def PassRec.blocks (r : PassRec) : Nat := r.k / 32

def PassRec.tileImage (r : PassRec) : Nat := 64 * r.colBytes + (if r.wScaled then 64 * r.blocks else 0)
def PassRec.sliceImage (r : PassRec) : Nat := r.sliceBytes + (if r.aScaled then r.blocks else 0)

/-! ### The pass record (R193, R194) -/

/-- The record at a scratch address, the offsets of R193 added. -/
def passOf (w aOff wOff rOff : Nat) : PassRec where
  version := fld w 511 508
  aFmt := fld w 507 503
  wFmt := fld w 502 498
  aScaled := bitAt w 497
  wScaled := bitAt w 496
  sat := bitAt w 495
  accumulate := bitAt w 494
  wb := bitAt w 493
  flush := bitAt w 491
  m := fld w 490 481 + 1
  t := fld w 480 472 + 1
  kValid := fld w 471 464 + 1
  accBase := fld w 463 456
  doneSem := fld w 455 448
  tag := fld w 447 432
  aAddr := fld w 431 409 + aOff
  aRow := 64 * fld w 408 392
  aTile := 64 * fld w 391 375
  wAddr := 64 * fld w 374 359 + wOff
  wTile := 64 * fld w 358 343
  rAddr := 64 * fld w 342 328 + rOff
  rRow := 64 * fld w 327 313
  rowMask := if bitAt w 492 then some (8 * fld w 312 297) else none
  colMask := fld w 296 233

/-- Bits that the instruction's layout of the record keeps at zero. -/
def recReserved (w : Nat) (gathered : Bool) : Bool :=
  fld w 232 0 != 0 ||
  (if gathered then fld w 494 492 != 0 || fld w 463 456 != 0 || fld w 312 297 != 0
   else bitAt w 491)

/-- The rule of R129 that a pass or request breaks; `limit` is the highest accumulator entry. -/
def PassRec.broken (r : PassRec) (gathered : Bool) (limit : Nat) : Option Nat :=
  let stride := storeSize 1 - 64
  let wb := r.wb || gathered
  if !r.formatsOk || decide (384 < r.t) || decide (r.k < r.kValid) || decide (stride < r.aRow) ||
      decide (stride < r.aTile) || (gathered && decide (64 < r.m)) then some 1
  else if decide (limit < r.accBase + (r.m + 3) / 4 - 1) then some 2
  else if decide (storeSize 1 < r.aAddr + (r.m - 1) * r.aRow + (r.t - 1) * r.aTile + r.sliceImage) ||
      decide (storeSize 0 < r.wAddr + (r.t - 1) * r.wTile + r.tileImage) ||
      (match r.rowMask with | some a => decide (storeSize 3 < a + (r.m + 7) / 8) | none => false) then some 3
  else if wb ∧ storeSize 2 < r.rAddr + (r.m - 1) * r.rRow + 256 then some 4
  else if wb ∧ 1 < r.m ∧ r.rRow < 256 then some 5
  else none

/-- The record address of an MM or MM.G, and the record. -/
def State.recAddr (s : State) (c x w : Nat) : Nat := s.sreg c x (fld w 111 108) + 64 * fld w 107 95
def State.passAt (s : State) (c x w : Nat) : PassRec :=
  passOf (s.storeNat c 3 (s.recAddr c x w) 64) (s.sreg c x (fld w 94 91)) (s.sreg c x (fld w 90 87))
    (s.sreg c x (fld w 86 83))

/-- A format code that R155 does not list. -/
def reservedFmt (f : Nat) : Bool := f == 0 || decide (0x10 ≤ f)

/-- The checks of R129, R144, R193 and R194 at issue. -/
def State.passCheck (s : State) (c x w : Nat) (gathered : Bool) : Option Reject :=
  let a := s.recAddr c x w
  if decide (a % 64 ≠ 0) || decide (storeSize 3 < a + 64) || decide (s.sreg c x (fld w 90 87) % 64 ≠ 0) ||
      decide (s.sreg c x (fld w 86 83) % 64 ≠ 0) then some (.cause 5)
  else
    let n := s.storeNat c 3 a 64
    let r := s.passAt c x w
    if r.version ≠ fld w 127 124 ∨ recReserved n gathered then some (.pass 1 false)
    else if 64 ≤ r.doneSem ∧ r.doneSem ≠ 0xFF then some (.cause 0xA)
    else if gathered ∧ !s.job.gather then some (.pass 1 false)
    else
      match r.broken gathered (if s.job.gather && !gathered then 191 else 255) with
      | some n => some (.pass n (reservedFmt r.aFmt || reservedFmt r.wFmt))
      | none => none

/-! ### The expander (R256, R260) -/

def State.mapByte (s : State) (c off : Nat) : Nat := (Tbl.get 0 s.maps (4096 * c + off / 1024)).toNat

/-- The element region of a tile is decoded slot by slot. -/
def PassRec.coded (r : PassRec) (addr : Nat) : Bool :=
  (64 * r.colBytes == 4096 || 64 * r.colBytes == 8192) && addr % 1024 == 0 && (secFmt r.wFmt).isSome

/-- The bytes of `n` slots from `addr`, or the address of a corrupt one and the rule it breaks; the
number of coded ones. -/
def State.slots (s : State) (c fmt addr : Nat) : Nat → Except (Nat × Nat) (List Byte × Nat)
  | 0 => .ok ([], 0)
  | n + 1 =>
    let map := s.mapByte c addr
    match decodeSlot fmt map (s.storeRead c 0 addr 4096) with
    | .error r => .error (addr, r)
    | .ok bs => (s.slots c fmt (addr + 4096) n).map fun r => (bs ++ r.1, r.2 + if map = 0 then 0 else 1)

/-- The element bytes of the tile at `addr`. -/
def State.tileElems (s : State) (c : Nat) (r : PassRec) (addr : Nat) : Except (Nat × Nat) (List Byte × Nat) :=
  if r.coded addr then s.slots c r.wFmt addr (64 * r.colBytes / 4096)
  else .ok (s.storeRead c 0 addr (64 * r.colBytes), 0)

/-! ### Operand values (R138 step 1, R141) -/

/-- A decoded vector of operands: its values, and its subnormal codes. -/
structure OperandVec where
  vals : List Num
  subs : Nat
  deriving DecidableEq, Repr

/-- The element at position `k` under its block's scale (R171), and whether it is a flushed subnormal
(R157). -/
def operand (fmt : Nat) (scale : Option Nat) (code : Nat) : Num × Bool :=
  let sub := match floatFmt fmt with | some f => isSubnormal f code | none => false
  match scale with
  | none => (decodeElem fmt code, sub)
  | some sc => (decodeScaled fmt sc code, sub && sc != 0 && sc != 0xFF)

/-- `K` operands from packed bytes, those at or above `valid` masked (R141). -/
def operands (fmt k valid : Nat) (bs : List Byte) (scale : Nat → Option Nat) : OperandVec :=
  let xs := (List.range k).map fun i =>
    if i < valid then operand fmt (scale (i / 32)) (elemAt bs (elemBits fmt) i) else (Num.zero, false)
  ⟨xs.map (·.1), xs.countP (·.2)⟩

end Sys2Proof.Machine
end

