-- ==== Sys2Proof/Machine/Recovery.lean ====
section
/-!
DEFINITION. Hang recovery: pace counters, snapshots, replay and suspect replay (R207, R208, R421-R428).
-/

namespace Sys2Proof.Machine

def State.setFaults (s : State) (f : Faults → Faults) : State := { s with faults := f s.faults }

/-- The recovery in progress on a core, and its change. -/
def State.recovery (s : State) (c : Nat) : Option Recovery := Tbl.get none s.faults.recovery c
def State.setRecovery (s : State) (c : Nat) (r : Option Recovery) : State :=
  s.setFaults fun f => { f with recovery := Tbl.set none f.recovery c r }

/-! ### Pace (R208, R421) -/

/-- A producer code names a unit with a pace counter of its own. -/
def pacedProducer (code : Nat) : Bool := decide (1 ≤ code / 4096) && decide (code / 4096 ≤ 5)

/-- The context's pace counter is exempt. -/
def State.paceExempt (s : State) (c x : Nat) : Bool :=
  let v := s.ctx c x
  let k := s.core c
  !s.coreAwake c || (s.frozen && !k.rerun) ||
  (match k.isolate with | some y => y != x | none => false) ||
  match v.status with
  | .idle | .stopped | .faulted | .parkedT | .atFence => true
  | .ready => false
  | .waiting => match v.wait with
    | .sem n _ _ => k.isolate.isSome || pacedProducer (s.sem c n).producer.toNat
    | .waitQ m => s.ownItems c x (Nat.land m 0b11011)
    | .pass _ | .gather _ _ | .mov _ _ => true
    | _ => false

/-! ### Snapshots (R424) -/

def natItem (n : Nat) : List Byte := leBytes 8 n

def ctxItems (v : CtxSt) : List (List Byte) :=
  [leBytes 16 v.word.toNat] ++ ((List.range 15).map fun i => natItem (v.s (i + 1)).toNat) ++
  [[v.preds]] ++ (v.loops.flatMap fun f => [f.first, f.last, f.left, f.reg, f.iter].map natItem) ++
  [natItem v.pace]

def semItems (v : SemSt) : List (List Byte) :=
  [v.count.toNat, (if v.broken then 1 else 0), v.producer.toNat, v.lease.toNat].map natItem

def passItems (r : PassRec) : List (List Byte) :=
  [r.version, r.aFmt, r.wFmt, (if r.aScaled then 1 else 0), (if r.wScaled then 1 else 0),
    (if r.sat then 1 else 0), (if r.accumulate then 1 else 0), (if r.wb then 1 else 0), r.m, r.t, r.kValid,
    r.accBase, r.doneSem, r.tag, r.aAddr, r.aRow, r.aTile, r.wAddr, r.wTile, r.rAddr, r.rRow, r.colMask].map natItem

def vecItems (v : VecItem) : List (List Byte) :=
  [v.ctx, v.op, v.version, v.dstFmt, v.srcFmt, v.dst, v.a, v.b, v.c, v.len, v.rows, v.round, v.scale, v.tag,
    v.idxBase, v.doneSem].map natItem

def movItems (m : MovItem) : List (List Byte) := [natItem m.ctx, natItem m.addr, natItem m.doneSem]

/-- The items of the snapshot of a core. -/
def State.snapshotItems (s : State) (c : Nat) : List (List Byte) :=
  let k := s.core c
  ((List.range 8).flatMap fun x => ctxItems (s.ctx c x)) ++
  ((List.range 64).flatMap fun n => semItems (s.sem c n)) ++
  ((match k.running with | some r => [r.item] | none => []) ++ k.passQ).flatMap (fun p => passItems p.rec_) ++
  k.vecQ.flatMap vecItems ++
  ([0, 1].flatMap fun o =>
    let m := s.mover (2 * c + o)
    ((match m.run with | some r => [r.item] | none => []) ++ m.queue).flatMap movItems) ++
  (k.groups.flatMap fun g => match g.2 with
    | some g => [natItem g.rows, natItem g.first] ++ g.reqs.flatMap fun q => passItems q.rec_
    | none => []) ++
  [natItem s.now]

/-- The contexts are stopped and the snapshot written, the four newest kept. -/
def State.snapshot (s : State) (c : Nat) : State :=
  let s := s.countStalls.each (List.range 8) fun s x => s.mapCtx c x CtxSt.stop
  let items := s.snapshotItems c
  (s.setFaults fun f => { f with snapshots := (items :: f.snapshots).take 4 }).log 0x9013 (domCore c)

/-! ### Core, mover and expander failures (R423, R425, R426, R428) -/

/-- A recovery starts: the schedule-fault flag, a hold with the cause, and the snapshot. Without a replay
record the job stage fails instead (R426). -/
def State.startRecovery (s : State) (c cause : Nat) (mover : Option (Fin 2)) : State :=
  let s := s.schedFault.faultCount cause
  if (s.core c).replay.isEmpty then s.jobFail cause
  else
    let (seq, s) := s.originateHold cause
    (s.setRecovery c (some ⟨cause, seq, mover, false, [], none⟩)).snapshot c

/-- The suspects: contexts not IDLE in the replay record, ascending (R427). -/
def State.suspects (s : State) (c : Nat) : List Nat :=
  (List.range 8).filter fun x => match (s.core c).replay[x]? with
    | some r => r.status != .idle
    | none => false

/-- A hang that recurs before the next fence: suspect replay, one counted reset (R427, R434). -/
def State.startSuspects (s : State) (c : Nat) (r : Recovery) : State :=
  let xs := s.suspects c
  s.countedReset fun s =>
    (s.setRecovery c (some { r with suspects := xs, isolated := none })).log 0x9004 (domCore c)
      (xs.map fun x => (3, x))

/-- A hang of a core or of a mover (R423, R425, R427): one that recurs in the re-run, or before the next fence after it, is
a second fault; any other starts a recovery, or is absorbed by the one under way (R435). -/
def State.hang (s : State) (c cause : Nat) (mover : Option (Fin 2)) : State :=
  match s.recovery c with
  | some r =>
    if r.replayed ∧ r.suspects = [] ∧ r.isolated = none then
      if r.cause = 4 then ((s.setRecovery c none).faultCount 4).jobFail 4
      else s.startSuspects c { r with mover := mover }
    else s.setRecovery c (some { r with mover := r.mover.orElse fun _ => mover })
  | none =>
    if s.faults.recovered.contains c && !(s.core c).replay.isEmpty then
      let s := s.schedFault.faultCount cause
      let (seq, s) := s.originateHold cause
      (s.snapshot c).startSuspects c ⟨cause, seq, mover, true, [], none⟩
    else s.startRecovery c cause mover

/-- An isolated context that runs past its window without being blocked is guilty (R427). -/
def State.guilty (s : State) (c x : Nat) : State :=
  let s := s.mapCore c fun k => { k with rerun := false, isolate := none }
  (((s.setRecovery c none).faultCount 0x0E).jobFail 0x0E).log 0x9005 (domCore c) [(3, x)]

/-- CONTEXT_PACE_EXPIRE (R421, R423, R427). -/
def execContextPaceExpire (core : Core) (ctx : Ctx) (s : State) : Host.Outcome State Fault Refusal :=
  act s fun s =>
    if s.paceExempt core ctx then s
    else
      let s := s.reach (max (s.ctx core ctx).pace s.hold.endedAt + s.obj 0x9000 1)
      let s := (s.faultCount 0).log 0x9001 (domCore core) [(8, core), (3, ctx)]
      if (s.recovery core).any (·.isolated == some ctx.val) then s.guilty core ctx else s.hang core 2 none

/-- MOVER_PACE_EXPIRE (R421, R425). -/
def execMoverPaceExpire (mover : Mover) (s : State) : Host.Outcome State Fault Refusal :=
  act s fun s =>
    let v := s.mover mover
    let busy := match v.run with
      | some r => !(r.moved && decide (0 < r.remaining))
      | none => !v.queue.isEmpty
    if !busy || s.coreDown (mover / 2) then s
    else
      let s := s.reach (v.pace + s.obj 0x9000 2)
      let s := (s.faultCount 0).log 0x9001 (domMover mover) [(8, mover / 2), (1, mover % 2)]
      s.hang (mover / 2) 3 (some ⟨mover % 2, Nat.mod_lt _ (by decide)⟩)

/-- The mover reset of R425, before the replay: each context's count of issues to the mover becomes that
of its completed descriptors, and the BROKEN flags it sets are cleared. -/
def State.replayMover (s : State) (c : Nat) (m : Fin 2) : State :=
  let before := s.sems
  let s := s.moverReset (2 * c + m)
  let s := s.each s.sems fun s e =>
    s.setSem (e.1 / 64) (e.1 % 64) { e.2 with broken := (Tbl.get .reset before e.1).broken }
  s.each (List.range 8) fun s x => s.mapCtx c x fun v =>
    if m = 0 then { v with movs0 := v.done0 } else { v with movs1 := v.done1 }

/-- The replay reset with what precedes it, as a domain reset (R443: event 0x9002). -/
def State.doReplay (s : State) (c cause : Nat) (m : Option (Fin 2)) : State :=
  let s := match m with
    | some m => s.replayMover c m
    | none => s
  (s.replayReset c).log 0x9002 (domCore c) [(16, domCore c), (8, cause)]

/-- REPLAY (R213, R423): in a recovery, at or after the hold tick, as a counted reset; else a replay of its own. -/
def execReplay (core : Core) (s : State) : Host.Outcome State Fault Refusal :=
  act s fun s =>
    let s := s.wakeCore core
    if (s.core core).replay.isEmpty then s.emit (.dcRefused .noFence)
    else match s.recovery core with
      | none => s.doReplay core 0 none
      | some r =>
        if r.replayed || !s.hold.held then s.doReplay core 0 none
        else
          let t := s.countedReset fun s =>
            (s.doReplay core r.cause r.mover).setRecovery core (some { r with replayed := true, mover := none })
          t.on (t.obj 0x9003 1 == 1) (·.setRecovery core none)

/-- ISOLATE (R213, R427): the replay reset, with that of a mover that hung (R425), and only the named context issues. -/
def execIsolate (core : Core) (ctx : Ctx) (s : State) : Host.Outcome State Fault Refusal :=
  act s fun s =>
    let s := s.wakeCore core
    if (s.core core).replay.isEmpty then s.emit (.dcRefused .noFence)
    else
      let m := (s.recovery core).bind (·.mover)
      let s := (s.doReplay core 0 m).mapCore core fun k => { k with isolate := some ctx.val }
      match s.recovery core with
      | some r => s.setRecovery core (some { r with suspects := r.suspects.erase ctx.val, isolated := some ctx.val, mover := none })
      | none => s

/-- The core has failed permanently (R427). -/
def State.coreDead (s : State) (c : Nat) : State :=
  let s := (s.setRecovery c none).setFaults fun f => { f with deadCores := f.deadCores ++ [c] }
  s.outOfService 0x9004

/-- The re-run may still bring a context to issue: one may issue, or passes or vector instructions of the core are under way
(assumption 117). -/
def State.rerunGoesOn (s : State) (c : Nat) : Bool :=
  let k := s.core c
  (List.range 8).any (s.mayIssue c) || !k.passQ.isEmpty || k.running.isSome || !k.vecQ.isEmpty

/-- RERUN_END (R207): no context of the core can issue. The recovery goes on: RESUME, or the next suspect, or the core is
declared permanently failed. -/
def execRerunEnd (core : Core) (s : State) : Host.Outcome State Fault Refusal :=
  act s fun s =>
    let k := s.core core
    if !k.rerun || s.rerunGoesOn core then s
    else
      let s := s.mapCore core fun k => { k with rerun := false, isolate := none }
      let s := s.log 0x4036 (domCore core) [(32, k.suppressedPosts), (32, k.suppressedMovs)]
      match s.recovery core with
      | none => s
      | some r =>
        if r.isolated.isSome then
          if r.suspects.isEmpty then s.coreDead core
          else s.setRecovery core (some { r with isolated := none })
        else if !r.suspects.isEmpty then s
        else
          let s := s.setFaults fun f => { f with recovered := f.recovered ++ [core.val] }
          s.originateResume r.holdSeq

end Sys2Proof.Machine
end

