-- ==== Sys2Proof/Machine/Frames.lean ====
section
/-!
DEFINITION. Matrix passes, the batch gatherer and the frames (R122-R154, R260-R262).
-/

namespace Sys2Proof.Machine

/-! ### A rod's output (R138, R140, R148) -/

/-- E of a nonzero finite product: the sum of the two exponents. -/
def prodExp (a w : Num) : Option Int :=
  match a, w with
  | .fin _ n e, .fin _ m x => if n = 0 ∨ m = 0 then none else some (expOf n e + expOf m x)
  | _, _ => none

/-- NaN or an infinity, where the products hold one (step 4). -/
def specialSum (ps : List Num) : Option Num :=
  let pos := ps.any (· == .inf false)
  let neg := ps.any (· == .inf true)
  if ps.any (· == .nan) || (pos && neg) then some .nan
  else if pos then some (.inf false)
  else if neg then some (.inf true)
  else none

/-- A finite product is −0. -/
def isNegZero (p : Num) : Bool := match p with | .fin s n _ => s && n == 0 | _ => false

/-- A product's signed count of 2^`lsb`, its magnitude truncated toward zero. -/
def windowTerm (lsb : Int) (p : Num) : Int :=
  match p with
  | .fin s n e => let q : Int := roundTo .rtz n e lsb; if s then -q else q
  | _ => 0

/-- The rod output of a Balor 2 floating-point pass (R138): an F32 code and its event. -/
def rodOutput (sat : Bool) (xs : List (Num × Num)) : Nat × Outcome :=
  let ps := xs.map fun p => p.1.mul p.2
  match specialSum ps with
  | some v => narrow f32 .rne sat v
  | none =>
    match xs.filterMap fun p => prodExp p.1 p.2 with
    | [] => (f32.signBit (ps.all isNegZero), .zero)
    | e :: es =>
      let lsb := es.foldl max e - 53
      narrow f32 .rne sat (.ofInt (ps.foldl (fun n p => n + windowTerm lsb p) 0) lsb)

/-- The exact sum of a heritage group, rounded toward zero (R148 steps 2 and 3). -/
def groupOutput (xs : List (Num × Num)) : Nat × Outcome :=
  let ps := xs.map fun p => p.1.mul p.2
  match specialSum ps with
  | some v => narrow f32 .rtz true v
  | none =>
    if ps.all fun p => match p with | .fin _ n _ => n == 0 | _ => false then
      (f32.signBit (ps.all isNegZero), .zero)
    else narrow f32 .rtz true (ps.foldl Num.add (.fin true 0 0))

/-- The accumulate stage (R139): entry and rod output. -/
def accumulate (mode : Mode) (sat : Bool) (entry out : Nat) : Nat × Outcome :=
  narrow f32 mode sat ((ofF32 entry).add (ofF32 out))

/-- The integer that an integer operand is. -/
def intOf (v : Num) : Int := match v with | .fin s n e => toUnits s n e 0 | _ => 0

/-- The accumulate stage of an integer pass (R140). -/
def accumulateInt (first : Bool) (entry : Nat) (xs : List (Num × Num)) : Nat × Outcome :=
  let sum := xs.foldl (fun n p => n + intOf p.1 * intOf p.2) 0
  let v := if first then sum else sext 32 entry + sum
  let c := max (-2147483648) (min 2147483647 v)
  (unsext 32 c, if c = v then .zero else .saturated)

/-- Groups of 32 consecutive positions. -/
def groups32 (n : Nat) (xs : List (Num × Num)) : List (List (Num × Num)) :=
  (List.range n).map fun i => (xs.drop (32 * i)).take 32

/-- One tile's contribution to an entry, and the events of its stages in order. -/
def tileEntry (r : PassRec) (first : Bool) (entry : Nat) (xs : List (Num × Num)) : Nat × List Outcome :=
  if isInt r.aFmt then
    let v := accumulateInt first entry xs
    (v.1, [v.2])
  else if r.version = 1 then
    (groups32 ((xs.length + 31) / 32) xs).foldl (fun (st : Nat × List Outcome × Bool) g =>
        let o := groupOutput g
        if st.2.2 then (o.1, st.2.1 ++ [o.2], false)
        else
          let a := accumulate .rtz true st.1 o.1
          (a.1, st.2.1 ++ [o.2, a.2], false))
      (entry, [], first) |> fun st => (st.1, st.2.1)
  else
    let o := rodOutput r.sat xs
    if first then (o.1, [o.2])
    else
      let a := accumulate .rne r.sat entry o.1
      (a.1, [o.2, a.2])

/-! ### Masks, accumulators and deltas of a pass (R131, R142, R143, R300) -/

/-- The row mask of a pass, as scratch holds it (R142). -/
def State.rowMask (s : State) (c : Nat) (p : PassItem) : Nat :=
  match p.rec_.rowMask with
  | none => 0
  | some a => s.storeNat c 3 a ((p.rec_.m + 7) / 8)

/-- Columns that the pass does not mask (R143). -/
def PassRec.cols (r : PassRec) : List Nat := (List.range 64).filter fun n => !bitAt r.colMask n

/-- The key of row `m`'s accumulator in column `n`. -/
def accKey (c base m n : Nat) : Nat := ((4 * c + m % 4) * 64 + n) * 256 + (base + m / 4)

/-- The tally deltas of a pass, still empty: one, or one per gathered row (R300). -/
def PassItem.deltas (p : PassItem) : List Delta :=
  let fmt := if isInt p.rec_.aFmt then 0x0B else 0x01
  match p.ctx with
  | some _ => [.empty p.rec_.tag fmt]
  | none => p.rows.map fun r => .empty r.rec_.tag fmt

/-! ### One tile -/

/-- The scale of block `j`; with K below 32 no layout places it, and it is a free value (assumption 5). -/
def scaleOf (k : Nat) (scaled : Bool) (free key : Nat) (stored : Nat → Nat) (j : Nat) : Option Nat :=
  if !scaled then none else if k < 32 then some (free / 256 ^ key % 256) else some (stored j)

/-- The column vectors of a tile, from its element bytes and its image. -/
def State.tileCols (s : State) (c : Nat) (r : PassRec) (addr valid free : Nat) (bs : List Byte) :
    List (Nat × OperandVec) :=
  r.cols.map fun n =>
    (n, operands r.wFmt r.k valid ((bs.drop (n * r.colBytes)).take r.colBytes)
      (scaleOf r.k r.wScaled free n fun j => s.storeNat c 0 (addr + 64 * r.colBytes + 64 * j + n) 1))

/-- The slice vector of a row. -/
def State.sliceVec (s : State) (c : Nat) (r : PassRec) (row : PassRow) (t valid free : Nat) : OperandVec :=
  let a := row.rec_.aAddr + row.i * row.rec_.aRow + t * row.rec_.aTile
  operands r.aFmt r.k valid (s.storeRead c 1 a r.sliceBytes)
    (scaleOf r.k r.aScaled free (64 + row.m) fun j => s.storeNat c 1 (a + r.sliceBytes + j) 1)

/-- One entry's contribution: accumulators, deltas and integer saturations so far, updated. -/
def tileCell (c base : Nat) (r : PassRec) (first : Bool) (row : PassRow) (av : List Num)
    (st : Tbl (BitVec 32) × List Delta × Nat) (col : Nat × OperandVec) : Tbl (BitVec 32) × List Delta × Nat :=
  let key := accKey c base row.m col.1
  let v := tileEntry r first (Tbl.get 0 st.1 key).toNat (av.zip col.2.vals)
  let d := st.2.1.modify row.delta fun d => v.2.foldl Delta.stage d
  (Tbl.set 0 st.1 key (BitVec.ofNat 32 v.1), d,
    st.2.2 + if isInt r.aFmt then v.2.countP (· == .saturated) else 0)

/-- Tile `t` of the pass in the frames, from its element bytes. -/
def State.runTile (s : State) (c : Nat) (g : Running) (t : Nat) (bs : List Byte) : State × List Delta :=
  let r := g.item.rec_
  let valid := if t + 1 = r.t then r.kValid else r.k
  let base := if g.item.ctx.isNone then 192 else r.accBase
  let (free, s) := if r.k < 32 ∧ (r.aScaled ∨ r.wScaled) then s.draw else (0, s)
  let cols := s.tileCols c r (r.wAddr + t * r.wTile) valid free bs
  let first := t == 0 && !r.accumulate
  let rows := (g.item.live g.mask).map fun row => (row, s.sliceVec c r row t valid free)
  let st := rows.foldl (fun st row => cols.foldl (tileCell c base r first row.1 row.2.vals) st)
    (s.accs, g.deltas, 0)
  let subs := cols.foldl (fun n x => n + x.2.subs) 0 + rows.foldl (fun n x => n + x.2.subs) 0
  let s := { s with accs := st.1 }
  let s := s.countFlushed subs
  (s.on (st.2.2 != 0) (·.count64 0x4012 c st.2.2), st.2.1)

/-- A tile is in the weight registers: it was loaded into the idle bank, which is now in use (R122). -/
def State.loadBank (s : State) (c : Nat) (r : PassRec) (t : Nat) (bs : List Byte) : State :=
  let image := bs ++ s.storeRead c 0 (r.wAddr + t * r.wTile + 64 * r.colBytes) (r.tileImage - 64 * r.colBytes)
  s.mapCore c fun k =>
    if k.bankB then { k with bankB := false, bankABytes := image } else { k with bankB := true, bankBBytes := image }

/-- The tiles still to come, one after another; a corrupt slot stalls the load (R262). -/
def State.runTiles (s : State) (c : Nat) (g : Running) : Nat → State × Running × Option Nat
  | 0 => (s, g, none)
  | n + 1 =>
    let r := g.item.rec_
    match s.tileElems c r (r.wAddr + g.tile * r.wTile) with
    | .error (addr, rule) => (s, { g with corrupt := some addr }, some rule)
    | .ok (bs, coded) =>
      let (s, ds) := (s.loadBank c r g.tile bs).runTile c g g.tile bs
      let s := s.on (coded != 0) (·.count64 0x4053 c coded)
      s.runTiles c { g with deltas := ds, tile := g.tile + 1, corrupt := none } n

/-! ### Write-back (R133, R139, R168) -/

/-- The values that the pass writes back: result-store offset, bytes, delta and outcome. -/
def State.writeBack (s : State) (c : Nat) (p : PassItem) (mask : Nat) : List (Nat × List Byte × Nat × Outcome) :=
  let r := p.rec_
  let base := if p.ctx.isNone then 192 else r.accBase
  if !(r.wb || p.ctx.isNone) then []
  else (p.live mask).flatMap fun row => r.cols.map fun n =>
    let v := (Tbl.get 0 s.accs (accKey c base row.m n)).toNat
    (row.rec_.rAddr + row.i * row.rec_.rRow + 4 * n, leBytes 4 v, row.delta,
      classify (if isInt r.aFmt then .ofInt (sext 32 v) else ofF32 v))

/-- Cycles of an isolated pass (R137, R149). -/
def PassItem.cycles (p : PassItem) : Nat :=
  let r := p.rec_
  let rf := (p.rows.length + 3) / 4 * (if r.version = 1 then 4 else 1)
  let l := (64 * r.colBytes + 1023) / 1024
  l + (r.t - 1) * max rf l + rf + 5

/-- Cycles in which at least one frame is clocked for the pass. -/
def PassItem.busyCycles (p : PassItem) (mask : Nat) : Nat :=
  let rf := (p.rows.length + 3) / 4
  let live := (List.range rf).countP fun r => (p.live mask).any fun row => row.m / 4 == r
  p.rec_.t * live * (if p.rec_.version = 1 then 4 else 1)

/-- The pass has run its tiles: its write-back is ready. -/
def State.finishTiles (s : State) (c : Nat) (g : Running) : State :=
  let ws := s.writeBack c g.item g.mask
  let ds := ws.foldl (fun ds w => ds.modify w.2.2.1 fun d =>
    Delta.add s.job.histBase s.job.histWidth d w.2.2.2) g.deltas
  s.mapCore c fun k => { k with running := some { g with writes := ws.map (fun w => (w.1, w.2.1)), deltas := ds } }

/-- A corrupt slot is found: logged, counted, and the load waits for the retry (R262). -/
def State.stallSlot (s : State) (c : Nat) (g : Running) (addr rule : Nat) : State :=
  let s := s.mapCore c fun k => { k with running := some { g with cycles := g.cycles + 8 } }
  (s.count 0x4051 c).log 0x4050 (domCore c) [(8, c), (48, addr), (8, s.mapByte c addr), (8, rule)]

/-- The frames go on with a pass from its next tile. -/
def State.runPass (s : State) (c : Nat) (g : Running) : State :=
  let r := s.runTiles c g (g.item.rec_.t - g.tile)
  match r.2.1.corrupt, r.2.2 with
  | some addr, some rule => r.1.stallSlot c r.2.1 addr rule
  | _, _ => r.1.finishTiles c r.2.1

/-! ### MM, MM.G and the pass queue (R129, R130, R144, R145) -/

/-- The pass queue has a free place. -/
def State.passRoom (s : State) (c : Nat) : Bool :=
  let k := s.core c
  decide (k.passQ.length + (if k.running.isSome then 1 else 0) < 4)

def State.queuePass (s : State) (c : Nat) (p : PassItem) : State :=
  s.mapCore c fun k => { k with passQ := k.passQ ++ [p] }

/-- The fields of MM and MM.G instruction words. -/
def passEnc (w : Nat) : Option Reject := failIf (unassigned w [(111, 83)]) 1

/-- The key fields of R144 agree. -/
def sameKey (a b : PassRec) : Bool :=
  a.aFmt == b.aFmt && a.wFmt == b.wFmt && a.aScaled == b.aScaled && a.wScaled == b.wScaled &&
  a.sat == b.sat && a.t == b.t && a.kValid == b.kValid && a.wAddr == b.wAddr && a.wTile == b.wTile &&
  a.colMask == b.colMask

/-- The slot a request joins, or the lowest free slot it opens (R145). -/
def State.groupSlot (s : State) (c : Nat) (r : PassRec) : Option Nat :=
  let gs := (s.core c).groups
  let at_ := fun i => Tbl.get none gs i
  match (List.range 4).find? fun i => match at_ i with
      | some g => !g.chosen && decide (g.rows + r.m ≤ 256) &&
          (match g.reqs with | q :: _ => sameKey q.rec_ r | [] => false)
      | none => false with
  | some i => some i
  | none => (List.range 4).find? fun i => (at_ i).isNone

/-- The request enters its group; while a fence forms, an open group is marked as if flushed (R204). -/
def State.joinGroup (s : State) (c x i : Nat) (r : PassRec) : State :=
  let fence := (List.range 8).any fun y => (s.ctx c y).status == .atFence
  let g := match Tbl.get none (s.core c).groups i with
    | some g => { g with reqs := g.reqs ++ [⟨x, r⟩], rows := g.rows + r.m, flush := g.flush || r.flush || fence }
    | none => ⟨[⟨x, r⟩], r.m, s.sched, s.obj 0x4010 2, s.obj 0x4010 3, r.flush || fence, false, false⟩
  s.mapCore c fun k => { k with groups := Tbl.set none k.groups i (some g) }

/-- The context's request joins its group; the stalls so far are counted. -/
def State.joinGathered (s : State) (c x : Nat) (r : PassRec) : State :=
  match s.groupSlot c r with
  | some i => s.countStalls.joinGroup c x i r
  | none => s

/-- Contexts stalled with a request that a group slot would take now. -/
def State.gatherContenders (s : State) (c : Nat) : List Nat :=
  s.waiters c fun w => match w with | .gather q _ => (s.groupSlot c q).isSome | _ => false

/-- MM.G: the request is checked and joins a group; without a free slot the context waits with it. -/
def execMmG (core : Core) (ctx : Ctx) (s : State) : Host.Outcome State Fault Refusal :=
  act s (·.issue core ctx 0x11 passEnc (fun s w => s.passCheck core ctx w true)
    fun s w =>
      let r := s.passAt core ctx w
      s.enterQueue core ctx 2 (s.gatherContenders core) (s.groupSlot core r).isSome (·.joinGathered core ctx r)
        (.gather r s.now))

/-! ### The gatherer (R146) -/

/-- A group is ready, and by which of the three causes: 4 fill, 5 hold, 6 flush (R153). -/
def Group.ready (g : Group) (sched : Nat) : Option Nat :=
  if g.fill ≤ g.rows then some 4
  else if g.expired ∨ g.first + g.hold ≤ sched then some 5
  else if g.flush then some 6
  else none

/-- The open groups of a core with their slots. -/
def State.openGroups (s : State) (c : Nat) : List (Nat × Group) :=
  (List.range 4).filterMap fun i => (Tbl.get none (s.core c).groups i).map (i, ·)

/-- The ready group of least first arrival, ties to the lowest slot, with its cause; one already chosen
stays chosen. -/
def State.readyGroup (s : State) (c : Nat) : Option (Nat × Group × Nat) :=
  match (s.openGroups c).find? (·.2.chosen) with
  | some (i, g) => some (i, g, 0)
  | none =>
    ((s.openGroups c).filterMap fun e => (e.2.ready s.sched).map (e.1, e.2, ·)).foldl
      (fun b e => match b with
        | none => some e
        | some b => if e.2.1.first < b.2.1.first then some e else some b) none

/-- Requesters of a place in the pass queue: contexts stalled with a pass, and the gatherer as 8. -/
def State.passContenders (s : State) (c : Nat) : List Nat :=
  (s.waiters c fun w => match w with | .pass _ => true | _ => false) ++
  (if !s.frozen && (s.readyGroup c).isSome then [8] else [])

/-- MM: the pass is checked and queued; on a full queue, or with the place another's (R130), the context waits with it. -/
def execMm (core : Core) (ctx : Ctx) (s : State) : Host.Outcome State Fault Refusal :=
  act s (·.issue core ctx 0x10 passEnc (fun s w => s.passCheck core ctx w false)
    fun s w =>
      let r := s.passAt core ctx w
      s.enterQueue core ctx 1 (s.passContenders core) (s.passRoom core) (·.queuePass core ⟨some ctx, r, []⟩) (.pass r))

/-- GATHER_HOLD_EXPIRE: a group's hold runs out in schedule time; its timer stands still in a hold. -/
def execGatherHoldExpire (core : Core) (slot : Fin 4) (s : State) : Host.Outcome State Fault Refusal :=
  act s fun s =>
    match Tbl.get none (s.core core).groups slot with
    | none => s
    | some g =>
      let due := g.first + g.hold + s.lag
      if s.frozenAt due then s
      else
        let s := s.reach due
        s.mapCore core fun k =>
          { k with groups := Tbl.set none k.groups slot (some { g with expired := true }) }

/-- GATHER_GROUP_START: the group is chosen, and queued where the pass queue has room and R101 gives
the gatherer the place. -/
def execGatherGroupStart (core : Core) (s : State) : Host.Outcome State Fault Refusal :=
  act s fun s =>
    match s.readyGroup core with
    | none => s
    | some (i, g, why) =>
      if s.frozen then s
      else
        let wins := s.winsPlace core 1 (s.passContenders core) 8
        let s := s.on (!g.chosen) fun s =>
          (s.count64 0x4010 why).mapCore core fun k =>
            { k with groups := Tbl.set none k.groups i (some { g with chosen := true }) }
        match s.passRoom core && wins, g.reqs with
        | true, q :: _ =>
          let s := s.mapCore core fun k => { k with groups := Tbl.set none k.groups i none }
          (s.tookTurn core 1 8).queuePass core ⟨none, { q.rec_ with m := g.rows, accBase := 192, accumulate := false, wb := true, rowMask := none }, g.reqs⟩
        | _, _ => s

/-! ### Passes in the frames -/

/-- PASS_START: the pass at the head of the queue enters the frames; they are not gated, and run in a
hall hold (R150). -/
def execPassStart (core : Core) (s : State) : Host.Outcome State Fault Refusal :=
  act s fun s =>
    let k := s.core core
    match k.running, k.passQ with
    | none, p :: ps =>
      if !s.coreAwake core || k.gated then s
      else (s.setCore core { k with passQ := ps }).runPass core ⟨p, 0, [], p.deltas, p.cycles, s.rowMask core p, none⟩
    | _, _ => s

/-- The DONE_SEMs that a pass posts: its own, or one per gathered request (R134, R147). -/
def PassItem.doneSems (p : PassItem) : List Nat :=
  match p.ctx with
  | some _ => [p.rec_.doneSem]
  | none => p.reqs.map (·.rec_.doneSem)

/-- EXPANDER_RETRY: the slot is read again; corrupt again, the pass is discarded (R262). It pauses with the frames (R264). A
failure on a core already recovered since its last fence, or in recovery, fails the job stage (R428). -/
def execExpanderRetry (core : Core) (s : State) : Host.Outcome State Fault Refusal :=
  act s fun s =>
    match (s.core core).running with
    | some g =>
      match g.corrupt with
      | none => s
      | some addr =>
        if (s.core core).gated || (s.core core).suspended then s
        else
        let r := s.runTiles core g (g.item.rec_.t - g.tile)
        match r.2.1.corrupt, r.2.2 with
        | some a, some rule =>
          if a = addr ∧ r.2.1.tile = g.tile then
            let s := (s.mapCore core fun k => { k with running := none }).count 0x4052 core
            let s := s.log 0x4051 (domCore core) [(8, core), (48, addr), (8, s.mapByte core addr), (8, rule)]
            let s := (s.each g.item.doneSems fun s n => s.breakDone core n).evalWaitQ core
            if s.faults.recovered.contains core.val || (s.recovery core).isSome then
              ((s.setRecovery core none).schedFault.faultCount 4).jobFail 4
            else s.startRecovery core 4 none
          else r.1.stallSlot core r.2.1 a rule
        | _, _ => r.1.finishTiles core r.2.1
    | none => s

/-- PASS_COMPLETE: the rows are written back, counted and posted; a suspended pass waits (R151). -/
def execPassComplete (core : Core) (s : State) : Host.Outcome State Fault Refusal :=
  act s fun s =>
    let k := s.core core
    match k.running with
    | none => s
    | some g =>
      if k.suspended || g.corrupt.isSome || decide (g.tile < g.item.rec_.t) then s
      else
        let busy := g.item.busyCycles g.mask
        let s := s.setCore core { k with running := none }
        let s := s.each g.writes fun s w => s.storeWrite core 2 w.1 w.2
        let s := s.sendDeltas g.deltas
        let s := (s.count64 0x4011 core).count64 0x4013 core busy
        (s.each g.item.doneSems fun s n => s.postDone core n true).evalWaitQ core

/-- FRAME_GATE_APPLY (R151): at the next tile boundary the gate suspends the pass in progress; where it
has lifted, the pass continues. -/
def execFrameGateApply (core : Core) (s : State) : Host.Outcome State Fault Refusal :=
  act s fun s =>
    s.mapCore core fun k => { k with gated := s.supply.cut, suspended := s.supply.cut && k.running.isSome }

end Sys2Proof.Machine
end

