-- ==== Sys2Proof/Machine/Functions.lean ====
section
/-!
DEFINITION. The special functions (R175): special cases as stated, and elsewhere a free value within the
error bound of the function's true value.

The true value is computed in fixed point, far more finely than an F32 ulp; the free value places the
result within the bound around the nearest F32 code (assumption 33).
-/

namespace Sys2Proof.Machine

/-- Fraction bits of the fixed point. -/
def fx : Nat := 160

/-- ln 2 × 2^160. -/
def ln2Fx : Int := 1013035739299659071135698605846798551586536899366

/-- x^n / n! summed for n below `fuel` from term `t`, in fixed point. -/
def expSeries (x : Int) : Nat → Nat → Int → Int
  | 0, _, _ => 0
  | fuel + 1, n, t => t + expSeries x fuel (n + 1) (t * x / 2 ^ fx / ((n : Int) + 1))

/-- e^x for x = v / 2^160. -/
def expFx (v : Int) : Num :=
  let k := v / ln2Fx
  .ofInt (expSeries (v - k * ln2Fx) 60 0 (2 ^ fx)) (k - fx)

/-- z^(2i+1) / (2i+1) summed from term `t` = z^(2i+1), in fixed point. -/
def atanhSeries (z2 : Int) : Nat → Nat → Int → Int
  | 0, _, _ => 0
  | fuel + 1, i, t => t / (2 * (i : Int) + 1) + atanhSeries z2 fuel (i + 1) (t * z2 / 2 ^ fx)

/-- ln of n × 2^e. -/
def logFx (n : Nat) (e : Int) : Num :=
  let l := Nat.log2 n
  let m : Int := (n * 2 ^ fx / 2 ^ l : Nat)
  let one : Int := 2 ^ fx
  let z := (m - one) * 2 ^ fx / (m + one)
  .ofInt (2 * atanhSeries (z * z / 2 ^ fx) 60 0 z + (e + l) * ln2Fx) (-(fx : Int))

/-- The integer square root of `n` by Newton's steps from above. -/
def isqrtFrom (n : Nat) : Nat → Nat → Nat
  | 0, x => x
  | fuel + 1, x =>
    let y := (x + n / x) / 2
    if y < x then isqrtFrom n fuel y else x

def isqrt (n : Nat) : Nat := if n = 0 then 0 else isqrtFrom n (Nat.log2 n + 2) (2 ^ (Nat.log2 n / 2 + 1))

/-- The correctly rounded F32 square root, and quotient, of finite values (R282, R285). -/
def sqrtNum (v : Num) : Num :=
  match v with
  | .nan => .nan
  | .inf s => if s then .nan else .inf false
  | .fin s n e =>
    if n = 0 then .fin s 0 0
    else if s then .nan
    else
      let sh : Nat := if e % 2 = 0 then 200 else 201
      let r := isqrt (n * 2 ^ sh)
      -- a sticky bit below keeps the rounding correct
      .fin false (2 * r + (if r * r = n * 2 ^ sh then 0 else 1)) ((e - sh) / 2 - 1)

def divNum (a b : Num) : Num :=
  match a, b with
  | .nan, _ => .nan
  | _, .nan => .nan
  | .inf _, .inf _ => .nan
  | .inf s, .fin t _ _ => .inf (s != t)
  | .fin s _ _, .inf t => .fin (s != t) 0 0
  | .fin s n e, .fin t m x =>
    if m = 0 then (if n = 0 then .nan else .inf (s != t))
    else
      let q := n * 2 ^ 200 / m
      .fin (s != t) (if n = 0 then 0 else 2 * q + (if q * m = n * 2 ^ 200 then 0 else 1)) (e - x - 201)

def f32Sqrt (a : Nat) : Nat := toF32 (sqrtNum (ofF32 a))
def f32Div (a b : Nat) : Nat := toF32 (divNum (ofF32 a) (ofF32 b))

/-- The code is finite and normal, and its value lies within `ulps` of the finite true value `v`. -/
def withinUlps (ulps : Nat) (v : Num) (code : Nat) : Bool :=
  decide (0x00800000 ≤ code % 2 ^ 31) && decide (code % 2 ^ 31 ≤ f32.maxCode) &&
  match v, v.sub (ofF32 code) with
  | .fin _ n e, .fin _ m x => !(Num.fin false ulps (expOf n e - 23)).lt (.fin false m x)
  | _, _ => false

/-- A code within the error bound of a true value, by a free value; a true value of zero gives +0. -/
def nearCode (ulps free : Nat) (v : Num) : Nat :=
  let c := toF32 v
  match v with
  | .fin _ 0 _ => 0
  | _ =>
    let ok := ((List.range (2 * ulps + 1)).map fun i => c + i - ulps).filter (withinUlps ulps v)
    ok.getD (free % max 1 ok.length) c

/-- The F32 result of a special function before CONV; `none`: it overflows. -/
def specialF32 (op code : Nat) : Option (Nat × Outcome) :=
  let near := fun ulps free v =>
    let c := nearCode ulps free v
    some (c, classify' c)
  match op, ofF32 code with
  | _, .nan => some (f32.nanCode, .nan)
  | 0x30, .inf s => if s then some (0, .zero) else some (f32.infCode, .inf)
  | 0x30, .fin s n e =>
    let v : Int := toUnits s n (max e (-(fx : Int))) (-(fx : Int)) / (if e < -(fx : Int) then 2 ^ (-(fx : Int) - e).toNat else 1)
    if 88722839 * 2 ^ fx < v * 1000000 then none
    else if v * 1000000 < -87336544 * 2 ^ fx then some (0, .vanished)
    else near 2 (Config.sfExp code) (expFx v)
  | 0x31, .inf s => if s then some (f32.nanCode, .nan) else some (f32.infCode, .inf)
  | 0x31, .fin s n e =>
    if n = 0 then some (f32.signBit true + f32.infCode, .inf)
    else if s then some (f32.nanCode, .nan)
    else near 2 (Config.sfLog code) (logFx n e)
  | _, .inf s => if s then some (f32.nanCode, .nan) else some (0, .zero)
  | _, .fin s n e =>
    if n = 0 then some (f32.signBit s + f32.infCode, .inf)
    else if s then some (f32.nanCode, .nan)
    else near 1 (Config.sfRsqrt code) (divNum (.fin false 1 0) (sqrtNum (.fin false n e)))
where
  classify' (c : Nat) : Outcome :=
    match ofF32 c with
    | .fin _ n e => if n = 0 then .zero else .value (expOf n e)
    | .inf _ => .inf
    | .nan => .nan

/-- The F32 result of a special function under CONV, and what it counts as. -/
def specialFn (op : Nat) (sat : Bool) (code : Nat) : Nat × Outcome :=
  match specialF32 op code with
  | some r => r
  | none => if sat then (f32.maxCode, .saturated) else (f32.infCode, .inf)

end Sys2Proof.Machine
end

