-- ==== Sys2Proof/Machine/Vector.lean ====
section
/-!
DEFINITION. Vector and special-function instructions (R163-R178, R195-R198).
-/

namespace Sys2Proof.Machine

/-! ### What each instruction uses -/

def usesB (op : Nat) : Bool := decide (0x20 ≤ op) && decide (op ≤ 0x25)
def usesC (op : Nat) : Bool := op == 0x23 || op == 0x27
def isReduction (op : Nat) : Bool := decide (0x28 ≤ op) && decide (op ≤ 0x2A)
def isSpecial (op : Nat) : Bool := decide (0x30 ≤ op)
/-- ROUND governs these; the others round by RNE only (R163). -/
def roundable (op : Nat) : Bool := decide (op ≤ 0x26)

def wide (f : Nat) : Bool := f == 1 || f == 2 || f == 3

/-- The formats of R196, and of R178 for a heritage conversion. -/
def vecFormats (op version src dst : Nat) : Bool :=
  if op = 0x26 then
    isElem src && isElem dst &&
    (version != 1 || ((heritage src) && (heritage dst)))
  else if op = 0x27 then src == 1 && dst == 1
  else if isReduction op then wide src && dst == 1
  else (wide src && wide dst) || (op != 0x23 && !isSpecial op && [0x0B, 0x0C, 0x0D].contains src && src == dst)
where
  heritage (f : Nat) : Bool := [0x01, 0x02, 0x03, 0x04, 0x05, 0x0B, 0x0C, 0x0D].contains f

/-- The block-scaled side of a VCVT: its format is of 8 bits or narrower (R197). -/
def narrowSide (f : Nat) : Bool := decide (elemBits f ≤ 8)

/-- BLOCK and the block-only formats (R197); a heritage conversion is never block-scaled (R148, R178). -/
def vecBlockOk (op version src dst len : Nat) (block : Bool) : Bool :=
  if block then
    op == 0x26 && version != 1 && (narrowSide src != narrowSide dst) && len % 32 == 0 &&
    (if narrowSide src then isFloat src else isFloat dst)
  else !(blockOnly src || blockOnly dst)

/-- SCALE: only on VMUL and VCVT, never 0x00 or 0xFF, and not into a block-scaled side (R173, R196). -/
def vecScaleOk (op dst scale : Nat) (block : Bool) : Bool :=
  scale == 0x7F ||
  ((op == 0x22 || op == 0x26) && scale != 0 && scale != 0xFF && !(block && narrowSide dst))

/-- The encoding checks of R163, R173 and R195-R197. -/
def vecEnc (op w : Nat) : Option Reject :=
  let src := fld w 106 102
  let dst := fld w 111 107
  if unassigned w [(111, 25)] || (!usesB op && (fld w 93 90 != 0 || bitAt w 62)) ||
      (!usesC op && fld w 89 86 != 0) || (roundable op && fld w 65 64 == 3) then some (.cause 1)
  else if src = 0 ∨ 0x10 ≤ src ∨ dst = 0 ∨ 0x10 ≤ dst then some (.format 155)
  else if !vecFormats op (fld w 127 124) src dst then
    some (.format (if op = 0x26 ∧ isElem src ∧ isElem dst then 178 else 196))
  else if !vecScaleOk op dst (fld w 60 53) (bitAt w 61) then some (.format 173)
  else if !roundable op && fld w 65 64 != 0 then some (.format 163)
  else if !vecBlockOk op (fld w 127 124) src dst (fld w 85 70 + 1) (bitAt w 61) then some (.format 197)
  else failIf (decide (64 ≤ fld w 32 25) && fld w 32 25 != 0xFF) 0xA

/-! ### Operands -/

/-- Bytes of `n` elements. -/
def elemBytes (fmt n : Nat) : Nat := (n * elemBits fmt + 7) / 8

/-- Bytes of an operand of `rows` rows: a block-scaled side has its scales after each row's elements. -/
def sideBytes (fmt rows len : Nat) (block : Bool) : Nat :=
  if block then rows * (elemBytes fmt len + len / 32) else elemBytes fmt (rows * len)

/-- A store address of R195 that holds `n` bytes. -/
def storeAddrOk (a n : Nat) : Bool :=
  fld a 63 33 == 0 && fld a 30 23 == 0 && decide (fld a 22 0 + n ≤ storeSize (fld a 32 31))

def State.vecRows (s : State) (c x w : Nat) : Nat :=
  if fld w 69 66 = 0 then 1 else s.sreg c x (fld w 69 66)

/-- The queued form of a vector instruction. -/
def State.vecItem (s : State) (c x w : Nat) : VecItem where
  ctx := x
  op := fld w 123 116
  version := fld w 127 124
  dstFmt := fld w 111 107
  srcFmt := fld w 106 102
  dst := s.sreg c x (fld w 101 98)
  a := s.sreg c x (fld w 97 94)
  b := s.sreg c x (fld w 93 90)
  c := s.sreg c x (fld w 89 86)
  len := fld w 85 70 + 1
  rows := s.vecRows c x w
  round := fld w 65 64
  sat := bitAt w 63
  bcast := bitAt w 62
  block := bitAt w 61
  scale := fld w 60 53
  tag := fld w 52 37
  idxBase := s.sreg c x (fld w 36 33) % 2 ^ 40
  doneSem := fld w 32 25

/-- Bytes that the destination takes. -/
def VecItem.dstBytes (v : VecItem) : Nat :=
  if isReduction v.op then 4 * v.rows else sideBytes v.dstFmt v.rows v.len (v.block && narrowSide v.dstFmt)

/-- Row count and operand addresses (R195). -/
def VecItem.ok (v : VecItem) : Bool :=
  let n := v.rows * v.len
  decide (1 ≤ v.rows) && decide (v.rows ≤ 65536) && storeAddrOk v.dst v.dstBytes &&
  storeAddrOk v.a (sideBytes v.srcFmt v.rows v.len (v.block && narrowSide v.srcFmt)) &&
  (!usesB v.op || storeAddrOk v.b (elemBytes v.srcFmt (if v.bcast then 1 else n))) &&
  (!usesC v.op || storeAddrOk v.c (if v.op = 0x27 then 2 * n else elemBytes v.dstFmt n))

/-! ### Elements -/

/-- Bytes of an operand. -/
def State.vecRead (s : State) (c a n : Nat) : List Byte := s.storeRead c (fld a 32 31) (fld a 22 0) n

/-- `n` plain elements at an operand address: their values and the subnormal codes among them. -/
def State.vecVals (s : State) (c fmt a n : Nat) : List Num × Nat :=
  let bs := s.vecRead c a (elemBytes fmt n)
  let xs := (List.range n).map fun i => operand fmt none (elemAt bs (elemBits fmt) i)
  (xs.map (·.1), xs.countP (·.2))

/-- The elements of a block-scaled side (R171, R197). -/
def State.vecBlockVals (s : State) (c fmt a rows len : Nat) : List Num × Nat :=
  let eb := elemBytes fmt len
  let bs := s.vecRead c a (rows * (eb + len / 32))
  let xs := (List.range (rows * len)).map fun i =>
    let row := bs.drop (i / len * (eb + len / 32))
    let sc := (row.getD (eb + i % len / 32) 0).toNat
    operand fmt (some sc) (elemAt row (elemBits fmt) (i % len))
  (xs.map (·.1), xs.countP (·.2))

/-- The step key of R165: STEP before the most recent commit point. -/
def State.srStep (s : State) : Nat :=
  let step := s.obj 0x8000 1
  if step = 0 then Config.srFirstStep % 2 ^ 32 else step - 1

/-- The rounding mode of element `i` of an operation that asks for stochastic rounding (R165, R166). -/
def State.srMode (s : State) (tag index : Nat) : Mode :=
  if s.job.sr then .sr (srRandom (s.obj 0x4020 1) s.srStep tag (index % 2 ^ 40)) else .rne

/-- The rounding mode of element `i` (R163, R178). -/
def State.vecMode (s : State) (v : VecItem) (i : Nat) : Mode :=
  if v.op = 0x26 ∧ v.version = 1 then .rtz
  else match v.round with
    | 1 => s.srMode v.tag (v.idxBase + i)
    | 2 => .rtz
    | _ => .rne

/-- The exact result of an elementwise instruction. -/
def elementwise (op : Nat) (a b c : Num) : Num :=
  match op with
  | 0x20 => a.add b
  | 0x21 => a.sub b
  | 0x22 => a.mul b
  | 0x23 => (a.mul b).add c
  | 0x24 => a.max b
  | 0x25 => a.min b
  | _ => a

/-! ### Row reductions (R198) -/

/-- `combine`, at a lane and in the tree. -/
def combine (op : Nat) (tree sat : Bool) (a x : Nat × Outcome) : Nat × Outcome :=
  let av := ofF32 a.1
  let xv := ofF32 x.1
  narrow f32 .rne sat
    (if op = 0x29 then av.max xv else if op = 0x2A ∧ !tree then (xv.mul xv).add av else av.add xv)

/-- One level of the tree. -/
def pairUp (f : Nat × Outcome → Nat × Outcome → Nat × Outcome) : List (Nat × Outcome) → List (Nat × Outcome)
  | a :: b :: rest => f a b :: pairUp f rest
  | rest => rest

/-- The reduction of a row given as F32 codes. -/
def reduceRow (op : Nat) (sat : Bool) (xs : List Nat) : Nat × Outcome :=
  let lanes := (List.range 128).map fun j =>
    ((List.range ((xs.length + 127 - j) / 128)).map fun k => xs.getD (j + 128 * k) 0).foldl
      (fun a x => combine op false sat a (x, .zero)) (0, .zero)
  let t := pairUp (combine op true sat)
  (t (t (t (t (t (t (t lanes))))))).headD (0, .zero)

/-! ### The compensated add (R176) -/

/-- The new pair, and what h′ counts as. -/
def carryAdd (sat : Bool) (h c x : Num) : Nat × Nat × Outcome :=
  let v := (h.add c).add x
  let r := narrow f32 .rne sat v
  match ofF32 r.1 with
  | .fin s n e => (r.1, (narrow b16 .rne sat (v.sub (.fin s n e))).1, r.2)
  | _ => (r.1, 0, r.2)

/-! ### Execution -/

/-- What an item writes: operand address and bytes; what the values count as; subnormal inputs. -/
structure VecOut where
  writes : List (Nat × List Byte)
  counts : List Outcome
  subs : Nat
  deriving DecidableEq, Repr

/-- Packed elements at an operand address; a last nibble alone leaves its neighbour as it is. -/
def State.vecPack (s : State) (c fmt a : Nat) (codes : List Nat) : Nat × List Byte :=
  let w := elemBits fmt
  let codes := if w = 4 ∧ codes.length % 2 = 1 then
      codes ++ [elemAt (s.vecRead c a (elemBytes fmt codes.length)) 4 codes.length]
    else codes
  (a, packElems w codes)

/-- Chunks of `n` elements, `k` of them. -/
def chunks {α : Type} (n : Nat) : Nat → List α → List (List α)
  | 0, _ => []
  | k + 1, xs => xs.take n :: chunks n k (xs.drop n)

/-- Elementwise instructions and conversions. -/
def State.vecMap (s : State) (c : Nat) (v : VecItem) : VecOut :=
  let n := v.rows * v.len
  let a := if v.block && narrowSide v.srcFmt then s.vecBlockVals c v.srcFmt v.a v.rows v.len
    else s.vecVals c v.srcFmt v.a n
  let b := if usesB v.op then s.vecVals c v.srcFmt v.b (if v.bcast then 1 else n) else ([], 0)
  let z := if v.op = 0x23 then s.vecVals c v.dstFmt v.c n else ([], 0)
  let subs := a.2 + b.2 + z.2
  if v.block && narrowSide v.dstFmt then
    match floatFmt v.dstFmt with
    | none => ⟨[], [], subs⟩
    | some f =>
      let rows := (chunks v.len v.rows a.1).mapIdx fun r row =>
        (chunks 32 (v.len / 32) row).mapIdx fun j xs =>
          quantiseBlock f ((List.range 32).map fun i => s.vecMode v (r * v.len + 32 * j + i)) xs
      let bytes := rows.flatMap fun bs =>
        packElems (elemBits v.dstFmt) (bs.flatMap (·.2.1)) ++ bs.map fun b => BitVec.ofNat 8 b.1
      ⟨[(v.dst, bytes)], rows.flatMap fun bs => bs.flatMap (·.2.2), subs⟩
  else
    let sat := v.sat || (v.op == 0x26 && v.version == 1)
    let rs := a.1.mapIdx fun i x =>
      let y := if v.bcast then b.1.getD 0 .zero else b.1.getD i .zero
      narrowElem v.dstFmt (s.vecMode v i) sat
        ((elementwise v.op x y (z.1.getD i .zero)).scale ((v.scale : Int) - 127))
    ⟨[s.vecPack c v.dstFmt v.dst (rs.map (·.1))], rs.map (·.2), subs⟩

/-- VADD.CP. -/
def State.vecCarry (s : State) (c : Nat) (v : VecItem) : VecOut :=
  let n := v.rows * v.len
  let x := s.vecVals c 1 v.a n
  let h := s.vecVals c 1 v.dst n
  let z := s.vecVals c 3 v.c n
  let rs := x.1.mapIdx fun i x => carryAdd v.sat (h.1.getD i .zero) (z.1.getD i .zero) x
  ⟨[(v.dst, packElems 32 (rs.map (·.1))), (v.c, packElems 16 (rs.map (·.2.1)))], rs.map (·.2.2),
    x.2 + h.2 + z.2⟩

/-- VRED.SUM, VRED.MAX and VRED.SSQ. -/
def State.vecReduce (s : State) (c : Nat) (v : VecItem) : VecOut :=
  let x := s.vecVals c v.srcFmt v.a (v.rows * v.len)
  let rs := (chunks v.len v.rows (x.1.map toF32)).map (reduceRow v.op v.sat)
  ⟨[(v.dst, packElems 32 (rs.map (·.1)))], rs.map (·.2), x.2⟩

/-- SF.EXP, SF.LOG and SF.RSQRT: narrowed to F32, and once more for a 16-bit destination. -/
def State.vecSpecial (s : State) (c : Nat) (v : VecItem) : VecOut :=
  let x := s.vecVals c v.srcFmt v.a (v.rows * v.len)
  let rs := x.1.map fun x =>
    let r := specialFn v.op v.sat (toF32 x)
    if v.dstFmt = 1 then r
    else
      let q := narrowElem v.dstFmt .rne v.sat (ofF32 r.1)
      (q.1, if r.2 = .vanished then .vanished else q.2)
  ⟨[s.vecPack c v.dstFmt v.dst (rs.map (·.1))], rs.map (·.2), x.2⟩

def State.vecRun (s : State) (c : Nat) (v : VecItem) : VecOut :=
  if v.op = 0x27 then s.vecCarry c v
  else if isReduction v.op then s.vecReduce c v
  else if isSpecial v.op then s.vecSpecial c v
  else s.vecMap c v

/-- VECTOR_COMPLETE (R185): the oldest vector instruction has its effect, in entry order. -/
def execVectorComplete (core : Core) (s : State) : Host.Outcome State Fault Refusal :=
  act s fun s =>
    let k := s.core core
    match k.vecQ with
    | [] => s
    | v :: vs =>
      if !s.coreAwake core then s
      else
        let o := s.vecRun core v
        let s := s.setCore core { k with vecQ := vs }
        let s := s.each o.writes fun s w => s.storeWriteRaw core (fld w.1 32 31) (fld w.1 22 0) w.2
        let s := s.countFlushed o.subs
        let s := s.sendDeltas [s.tally (.empty v.tag v.dstFmt) o.counts]
        (s.postDone core v.doneSem true).evalWaitQ core

/-! ### Issue -/

def State.queueVec (s : State) (c : Nat) (v : VecItem) : State := s.mapCore c fun k => { k with vecQ := k.vecQ ++ [v] }

def State.vecContenders (s : State) (c : Nat) : List Nat := s.waiters c fun w => match w with | .vec _ => true | _ => false

/-- The instruction enters the vector queue; on a full queue the context waits with it (R184). -/
def State.issueVec (s : State) (c x op : Nat) : State :=
  s.issue c x op (vecEnc op) (fun s w => failIf (!(s.vecItem c x w).ok) 5)
    fun s w =>
      let v := s.vecItem c x w
      s.enterQueue c x 3 (s.vecContenders c) (decide ((s.core c).vecQ.length < 8)) (·.queueVec c v) (.vec v)

def execVadd (core : Core) (ctx : Ctx) (s : State) : Host.Outcome State Fault Refusal :=
  act s (·.issueVec core ctx 0x20)
def execVsub (core : Core) (ctx : Ctx) (s : State) : Host.Outcome State Fault Refusal :=
  act s (·.issueVec core ctx 0x21)
def execVmul (core : Core) (ctx : Ctx) (s : State) : Host.Outcome State Fault Refusal :=
  act s (·.issueVec core ctx 0x22)
def execVfma (core : Core) (ctx : Ctx) (s : State) : Host.Outcome State Fault Refusal :=
  act s (·.issueVec core ctx 0x23)
def execVmax (core : Core) (ctx : Ctx) (s : State) : Host.Outcome State Fault Refusal :=
  act s (·.issueVec core ctx 0x24)
def execVmin (core : Core) (ctx : Ctx) (s : State) : Host.Outcome State Fault Refusal :=
  act s (·.issueVec core ctx 0x25)
def execVcvt (core : Core) (ctx : Ctx) (s : State) : Host.Outcome State Fault Refusal :=
  act s (·.issueVec core ctx 0x26)
def execVaddCp (core : Core) (ctx : Ctx) (s : State) : Host.Outcome State Fault Refusal :=
  act s (·.issueVec core ctx 0x27)
def execVredSum (core : Core) (ctx : Ctx) (s : State) : Host.Outcome State Fault Refusal :=
  act s (·.issueVec core ctx 0x28)
def execVredMax (core : Core) (ctx : Ctx) (s : State) : Host.Outcome State Fault Refusal :=
  act s (·.issueVec core ctx 0x29)
def execVredSsq (core : Core) (ctx : Ctx) (s : State) : Host.Outcome State Fault Refusal :=
  act s (·.issueVec core ctx 0x2A)
def execSfExp (core : Core) (ctx : Ctx) (s : State) : Host.Outcome State Fault Refusal :=
  act s (·.issueVec core ctx 0x30)
def execSfLog (core : Core) (ctx : Ctx) (s : State) : Host.Outcome State Fault Refusal :=
  act s (·.issueVec core ctx 0x31)
def execSfRsqrt (core : Core) (ctx : Ctx) (s : State) : Host.Outcome State Fault Refusal :=
  act s (·.issueVec core ctx 0x32)

end Sys2Proof.Machine
end

