-- ==== Sys2Proof/Machine/Movers.lean ====
section
/-!
DEFINITION. Movers, translation, regions, the instruction streamer and the admission of stalled
instructions (R184, R187, R199, R217-R248, R254-R263).
-/

namespace Sys2Proof.Machine

/-! ### Translation (R237-R239) -/

/-- Bytes of a table, and of the page that a leaf maps, by level. -/
def tableBytes (level : Nat) : Nat := if level = 3 then 256 else 4096
def leafSize (level : Nat) : Nat := [2 ^ 39, 2 ^ 30, 2 ^ 21, 2 ^ 16].getD level 0

/-- The index of a virtual address at a level. -/
def vaIndex (va level : Nat) : Nat := va / leafSize level % (if level = 3 then 32 else 512)

/-- A walk from a table of a level: the page, or the fault code (R238, R360). -/
def State.walkFrom (s : State) (va : Nat) : Nat → Nat → Nat → Except Nat TcEntry
  | 0, _, _ => .error 0x10
  | fuel + 1, level, table =>
    let a := table + 8 * vaIndex va level
    if s.poisoned a 8 then .error 0x13
    else
      let e := s.readNat a 8
      let next := 256 * fld e 40 8
      if fld e 59 41 ≠ 0 ∨ fld e 7 0 ≠ 0 then .error 0x10
      else if fld e 63 62 = 1 then
        if level = 3 ∨ next % tableBytes (level + 1) ≠ 0 then .error 0x10
        else s.walkFrom va fuel (level + 1) next
      else if fld e 63 62 = 2 then
        let size := leafSize level
        if level = 0 ∨ next % size ≠ 0 ∨ !s.visible next size then .error 0x10
        else .ok ⟨va / size * size, size, next, bitAt e 60, bitAt e 61⟩
      else .error 0x10

def State.walk (s : State) (va : Nat) : Except Nat TcEntry := s.walkFrom va 4 0 (s.obj 0x4040 1)

/-- The page of an address, among pages. -/
def pageOf (ps : List TcEntry) (va : Nat) : Option TcEntry :=
  ps.find? fun e => decide (e.va ≤ va) && decide (va < e.va + e.size)

/-- A page of the cache, used: it becomes the most recent. -/
def State.tcUse (s : State) (c : Nat) (e : TcEntry) : State :=
  s.mapCore c fun k => { k with tcache := (e :: k.tcache.erase e).take 256 }

/-- The 64 KiB units of a range. -/
def unitsOf (va n : Nat) : List Nat :=
  if n = 0 then [] else (List.range ((va + n - 1) / 65536 - va / 65536 + 1)).map (va / 65536 + ·)

/-- A range cut at 64 KiB boundaries. -/
def pieces (va n : Nat) : List (Nat × Nat) :=
  (unitsOf va n).map fun u =>
    let lo := max va (65536 * u)
    (lo, min (va + n) (65536 * (u + 1)) - lo)

/-- One piece of an access: its physical address, or the fault code. -/
def State.xlate1 (s : State) (ps : List TcEntry) (key : BitVec 8) (write : Bool) (va n : Nat) : Except Nat Nat :=
  match pageOf ps va with
  | none => .error 0x10
  | some e =>
    let pa := e.pa + (va - e.va)
    if !(if write then e.write else e.read) then .error 0x11
    else if !s.granted key write pa n then .error 0x12
    else if !write && s.poisoned pa n then .error 0x13
    else .ok pa

/-- The pieces of an access with their physical addresses, or the fault code and its address. -/
def State.xlate (s : State) (ps : List TcEntry) (key : BitVec 8) (write : Bool) :
    List (Nat × Nat) → Except (Nat × Nat) (List (Nat × Nat))
  | [] => .ok []
  | (va, n) :: rest =>
    match s.xlate1 ps key write va n, s.xlate ps key write rest with
    | .error c, _ => .error (c, va)
    | .ok pa, .ok xs => .ok ((pa, n) :: xs)
    | _, .error e => .error e

/-! ### The accesses of a descriptor -/

/-- The map byte of a slot (R255, R256): its address, in the form of the slot's side. -/
def State.mapAddr (s : State) (kind a : Nat) : Nat :=
  if kind = 0 then s.obj 0x4050 1 + a / 4096 else a

/-- The 64 KiB units of virtual memory that a descriptor touches, without repeats. -/
def State.descUnits (s : State) (w : Nat) : List Nat :=
  let side := fun (kind : Nat) (b : Option (Nat × Nat)) => match b with
    | some (a, n) => if kind = 0 then unitsOf a n else []
    | none => []
  if dSec w ≠ 0 then
    let n := 8 * (dDim w 0).ext
    let map := fun kind a => side kind (some (s.mapAddr kind a, n / 4096))
    (side (dSrcKind w) (some (dSrc w, n)) ++ side (dDstKind w) (some (dDst w, n)) ++
      (if dSec w = 1 then map (dSrcKind w) (dSrc w) else []) ++ map (dDstKind w) (dDst w)).eraseDups
  else
    ((descMoves w).flatMap fun m =>
      side (dSrcKind w) (m.src.map fun a => (a, m.size)) ++ side (dDstKind w) (some (m.dst, m.size))).eraseDups

/-- What a descriptor's moves have done so far: the memories as it leaves them, what it wrote, newest
first, and its first fault. -/
structure Acc where
  mem : Memory
  stores : Memory
  memWrites : List (Nat × Byte)
  storeWrites : List (Nat × Byte)
  fault : Option (Nat × Nat)
  deriving DecidableEq, Repr

def Acc.fail (a : Acc) (f : Nat × Nat) : Acc := { a with fault := a.fault.orElse fun _ => some f }

/-- The store key of a STORE address (R195). -/
def formKey (c a : Nat) : Nat := storeKey c (fld a 32 31) (fld a 22 0)

/-- Bytes read at an address of a side. -/
def State.sideRead (s : State) (c : Nat) (key : BitVec 8) (ps : List TcEntry) (acc : Acc) (kind a n : Nat) :
    Except (Nat × Nat) (List Byte) :=
  if kind = 1 then .ok (Memory.read acc.stores (formKey c a) n)
  else (s.xlate ps key false (pieces a n)).map fun xs => xs.flatMap fun x => Memory.read acc.mem x.1 x.2

/-- The bytes of a list with consecutive keys. -/
def cellsAt (a : Nat) (bs : List Byte) : List (Nat × Byte) :=
  ((List.range bs.length).zip bs).map fun p => (a + p.1, p.2)

/-- Physical cells for bytes over translated pieces. -/
def cellsOver : List (Nat × Nat) → List Byte → List (Nat × Byte)
  | [], _ => []
  | (pa, n) :: xs, bs => cellsAt pa (bs.take n) ++ cellsOver xs (bs.drop n)

/-- Bytes written at an address of a side. -/
def State.sideWrite (s : State) (c : Nat) (key : BitVec 8) (ps : List TcEntry) (acc : Acc) (kind a : Nat)
    (bs : List Byte) : Acc :=
  if kind = 1 then
    { acc with
      stores := Memory.write acc.stores (formKey c a) bs
      storeWrites := (cellsAt (formKey c a) bs).reverse ++ acc.storeWrites }
  else
    match s.xlate ps key true (pieces a bs.length) with
    | .error f => acc.fail f
    | .ok xs =>
      let cells := cellsOver xs bs
      { acc with
        mem := cells.foldl (fun m x => Tbl.set 0 m x.1 x.2) acc.mem
        memWrites := cells.reverse ++ acc.memWrites }

/-- The bytes of a pad. -/
def padBytes (w : Nat) (m : Mv) : List Byte := ((leBytes 8 (dPadValue w)).drop m.off).take m.size

/-- One move between sides of the module; what cannot be moved is left out, with its fault. -/
def State.moveOne (s : State) (c w : Nat) (key : BitVec 8) (ps : List TcEntry) (acc : Acc) (m : Mv) : Acc :=
  match m.src with
  | none => s.sideWrite c key ps acc (dDstKind w) m.dst (padBytes w m)
  | some a =>
    match s.sideRead c key ps acc (dSrcKind w) a m.size with
    | .error f => acc.fail f
    | .ok bs => s.sideWrite c key ps acc (dDstKind w) m.dst bs

/-! ### Remote sides (R236) -/

/-- A move cut at a boundary of the spans, where it crosses one; no move is longer than a span. -/
def cutAt (span : Nat) (remote : Mv → Nat) (m : Mv) : List Mv :=
  let n := span - remote m % span
  if m.size ≤ n then [m]
  else [{ m with size := n }, ⟨m.src.map (· + n), m.dst + n, m.size - n, m.off + n⟩]

/-- A request's share of the moves: one run within one span of the peer's addresses. -/
def joinRuns (overlap : Bool) (span : Nat) (remote : Mv → Nat) : List Mv → List (List Mv)
  | [] => []
  | m :: ms =>
    match joinRuns overlap span remote ms with
    | (n :: r) :: rs =>
      let len := (n :: r).foldl (fun k v => k + v.size) m.size
      if !overlap && m.src.isSome == n.src.isSome && m.dst + m.size == n.dst &&
          (match m.src, n.src with | some a, some b => a + m.size == b | _, _ => true) &&
          remote m / span == (remote m + len - 1) / span && (m.src.isSome || m.off == n.off) then (m :: n :: r) :: rs
      else [m] :: (n :: r) :: rs
    | rs => [m] :: rs

/-- The requests of a descriptor with a REMOTE side, and what kept some from being made. A pad position of a REMOTE source
reads nothing, and makes no request (R223, R229). -/
def State.remoteRequests (s : State) (m : Nat) (item : MovItem) (ps : List TcEntry) :
    List Request × Option (Nat × Nat) :=
  let w := item.desc.toNat
  let c := m / 2
  let ctx : FlowId := ⟨dContext w % 262144, Nat.mod_lt _ (by decide)⟩
  let acc : Acc := ⟨s.mem, s.stores, [], [], none⟩
  let read := dSrcKind w == 2
  let side := if read then dSrc w else dDst w
  let span := if !read && (s.flow ctx).reqVc == 3 then 8192 else 4096
  let remote := fun v : Mv => (if read then v.src.getD 0 else v.dst) % 2 ^ 41
  let runs := joinRuns (dAlias w) span remote
    (((descMoves w).filter fun v => !read || v.src.isSome).flatMap (cutAt span remote))
  let one : List Mv → Except (Nat × Nat) Request := fun run =>
    let n := run.foldl (fun n v => n + v.size) 0
    match run with
    | [] => .error (0x14, 0)
    | v :: _ =>
      if read then
        .ok ⟨ctx, 1, v.src.getD 0 % 2 ^ 41, fld side 47 45, n, [], .mover m v.dst n, 0, 0, 0⟩
      else
        let data := match v.src with
          | some a => s.sideRead c item.key ps acc (dSrcKind w) a n
          | none => .ok (run.flatMap (padBytes w))
        data.map fun bs => ⟨ctx, 2, v.dst % 2 ^ 41, fld side 47 45, n, bs, .mover m 0 0, 0, 0, 0⟩
  runs.foldl (fun r run => match one run with
    | .ok q => (r.1 ++ [q], r.2)
    | .error f => (r.1, r.2.orElse fun _ => some f)) ([], none)

/-! ### Coded moves (R257-R259, R263) -/

/-- Slot `i` of a SEC descriptor: what it writes; a fault; or, for a corrupt source, the map byte and the
rule of R260. -/
inductive SlotMove where
  | ok (w : SlotWrite)
  | fault (code addr : Nat)
  | corrupt (addr map rule : Nat)
  deriving DecidableEq, Repr

def State.slotMove (s : State) (c w : Nat) (key : BitVec 8) (ps : List TcEntry) (i : Nat) : SlotMove :=
  let acc : Acc := ⟨s.mem, s.stores, [], [], none⟩
  let sk := dSrcKind w
  let dk := dDstKind w
  let src := dSrc w + 4096 * i
  let dst := dDst w + 4096 * i
  let code := dFormat w
  let srcMap : Except (Nat × Nat) Nat :=
    if dSec w = 2 then .ok 0
    else if sk = 1 then .ok (s.mapByte c (fld src 22 0))
    else (s.sideRead c key ps acc 0 (s.mapAddr 0 src) 1).map leNat
  match srcMap with
  | .error f => .fault f.1 f.2
  | .ok map =>
    if 0x40 ≤ map then .corrupt src map 1
    else
      match s.sideRead c key ps acc sk src (if map = 0 then 4096 else 64 * map) with
      | .error f => .fault f.1 f.2
      | .ok bs =>
        match decodeSlot code map bs with
        | .error rule => .corrupt src map rule
        | .ok _ =>
          let out := if dSec w = 2 then compressSlot code bs else (bs, map)
          if dk = 1 then
            .ok ⟨false, formKey c dst, out.1, 4096 * c + fld dst 22 0 / 1024, BitVec.ofNat 8 out.2⟩
          else
            match s.xlate ps key true (pieces dst out.1.length), s.xlate ps key true [(s.mapAddr 0 dst, 1)] with
            | .ok ((pa, _) :: _), .ok ((pm, _) :: _) => .ok ⟨true, pa, out.1, pm, BitVec.ofNat 8 out.2⟩
            | .error f, _ => .fault f.1 f.2
            | _, .error f => .fault f.1 f.2
            | _, _ => .fault 0x10 dst

/-- A slot that has been moved is counted (R266). -/
def State.countSlot (s : State) (sec : Nat) (w : SlotWrite) : State :=
  if sec = 2 then s.count64 0x4050 (if w.map = 0 then 3 else 2)
  else s.on (w.map != 0) fun s => s.count64 0x4050 4 (4096 - w.bytes.length)

/-! ### Ending a descriptor -/

def faultEvent (code : Nat) : Nat :=
  match code with
  | 0x10 => 0x4041
  | 0x11 => 0x4041
  | 0x12 => 0x4042
  | 0x13 => 0x4043
  | 0x14 => 0x4044
  | _ => 0x4052

def State.setRun (s : State) (m : Nat) (r : MovRun) : State :=
  s.setMover m { s.mover m with run := some r }

/-- A run-time fault ends the descriptor (R243), and in a job the job stage fails (R428). `slot`: the map
byte and rule of a corrupt slot (R267). -/
def State.moverFault (s : State) (m : Nat) (r : MovRun) (code addr : Nat) (slot : Option (Nat × Nat)) : State :=
  let c := m / 2
  let x := r.item.ctx
  let s := (s.partialWrites r).releaseClaims m
  let s := s.setMover m { s.mover m with run := none, pace := s.now }
  let s := match pageOf r.xlat addr with
    | some e => s.on (code == 0x13) (·.readPoison (e.pa + (addr - e.va)) 64)
    | none => s
  let s := (s.count 0x4044 c).log (faultEvent code) (domMover m) (match slot with
    | some (map, rule) => [(8, c), (1, m % 2), (48, addr), (8, map), (8, rule)]
    | none => [(8, c), (1, m % 2), (3, x), (8, code), (48, addr)])
  let s := (s.emit (.dcInterrupt c x)).breakDone c r.item.doneSem
  let s := match (s.ctx c x).wait with
    | .waitQ k => s.on (bitAt k (1 - m % 2)) (·.ctxFault c x 9)
    | _ => s
  ((s.evalWaitQ c).faultCount 0x0F).jobFail 0x0F

/-- The slots from number `i` on, up to the first that fails; `again`: the first is read a second time. -/
def State.runSlots (s : State) (m : Nat) (r : MovRun) (again : Bool) : Nat → State
  | 0 => s.setRun m { r with moved := true, retry := false }
  | n + 1 =>
    let w := r.item.desc.toNat
    match s.slotMove (m / 2) w r.item.key r.xlat (r.slots.length) with
    | .ok v => (s.countSlot (dSec w) v).runSlots m { r with slots := r.slots ++ [v] } false n
    | .fault code a => s.moverFault m r code a none
    | .corrupt a map rule =>
      if again then s.moverFault m r 0x15 a (some (map, rule))
      else (s.count 0x4050 5).setRun m { r with retry := true }

/-- Slots of a SEC descriptor still to move. -/
def MovRun.slotsLeft (r : MovRun) : Nat := (dDim r.item.desc.toNat 0).ext / 512 - r.slots.length

/-- Every page is resolved: the descriptor reads, and makes its remote requests. -/
def State.runMoves (s : State) (m : Nat) (r : MovRun) : State :=
  let w := r.item.desc.toNat
  let c := m / 2
  if dSec w ≠ 0 then s.runSlots m r false r.slotsLeft
  else if dSrcKind w = 2 ∨ dDstKind w = 2 then
    let pads := (descMoves w).filter fun v => dSrcKind w == 2 && v.src.isNone
    let acc := pads.foldl (s.moveOne c w r.item.key r.xlat) ⟨s.mem, s.stores, [], [], none⟩
    let r := { r with memWrites := acc.memWrites.reverse, storeWrites := acc.storeWrites.reverse }
    match s.remoteRequests m r.item r.xlat, acc.fault with
    | (_, some (code, a)), _ => s.moverFault m r code a none
    | _, some (code, a) => s.moverFault m r code a none
    | (qs, none), none =>
      -- under ALIAS_OK each position is read and written before the next starts (R227)
      let now := if dAlias w then qs.take 1 else qs
      let later := if dAlias w then qs.drop 1 else []
      (s.setRun m { r with moved := true, remaining := qs.length, later := later }).queueRequests now
  else
    let acc := (descMoves w).foldl (s.moveOne c w r.item.key r.xlat) ⟨s.mem, s.stores, [], [], none⟩
    let r := { r with moved := true, memWrites := acc.memWrites.reverse, storeWrites := acc.storeWrites.reverse }
    match acc.fault with
    | some (code, a) => s.moverFault m r code a none
    | none => s.setRun m r

/-- The writes that a fault in translation leaves possible: those whose pages are resolved. -/
def State.partMoves (s : State) (m : Nat) (r : MovRun) : MovRun :=
  let w := r.item.desc.toNat
  if dSec w ≠ 0 ∨ dSrcKind w = 2 ∨ dDstKind w = 2 then r
  else
    let acc := (descMoves w).foldl (s.moveOne (m / 2) w r.item.key r.xlat) ⟨s.mem, s.stores, [], [], none⟩
    { r with memWrites := acc.memWrites.reverse, storeWrites := acc.storeWrites.reverse }

/-- Pages in the cache are taken over; with none missing the moves run. -/
def State.resolve (s : State) (m : Nat) (r : MovRun) : State :=
  let c := m / 2
  let hits := r.need.filterMap fun u => pageOf (s.core c).tcache (65536 * u)
  let s := s.each hits fun s e => s.tcUse c e
  let r := { r with
    xlat := r.xlat ++ hits.eraseDups
    need := r.need.filter fun u => (pageOf hits (65536 * u)).isNone }
  if r.need.isEmpty then s.runMoves m r else s.setRun m r

/-- DESCRIPTOR_START (R218): the mover is free, and takes the descriptor at the head of its queue; in a
hall hold as well (R219). -/
def execDescriptorStart (mover : Mover) (s : State) : Host.Outcome State Fault Refusal :=
  act s fun s =>
    let v := s.mover mover
    match v.run, v.queue with
    | none, item :: rest =>
      if s.coreDown (mover / 2) then s
      else
        let w := item.desc.toNat
        let s := s.setMover mover { v with queue := rest, pace := s.now }
        let s := s.on (dAlias w) (·.count 0x4046 (mover / 2))
        s.resolve mover ⟨item, [], s.descUnits w, false, 0, none, false, [], [], [], []⟩
    | _, _ => s

/-- DESCRIPTOR_COMPLETE (R218): every write is visible and every response has arrived; a remote failure
ends the descriptor instead (R236). -/
def execDescriptorComplete (mover : Mover) (s : State) : Host.Outcome State Fault Refusal :=
  act s fun s =>
    match (s.mover mover).run with
    | none => s
    | some r =>
      match r.fault with
      | some (code, a) => s.moverFault mover r code a none
      | none =>
        if !r.moved || r.retry || decide (0 < r.remaining) then s
        else
          let c := mover / 2
          let s := (s.writeBytes r.memWrites).storeBytes r.storeWrites
          let s := s.each r.slots State.landCoded
          let s := s.setMover mover { s.mover mover with run := none, pace := s.now }
          let s := s.count64 0x4043 c
          let s := s.mapCtx c r.item.ctx fun v =>
            if mover % 2 = 0 then { v with done0 := v.done0 + 1 } else { v with done1 := v.done1 + 1 }
          (s.postDone c r.item.doneSem false).evalWaitQ c

/-- MOVER_CHECK_RETRY (R263): the corrupt slot is read once more. -/
def execMoverCheckRetry (mover : Mover) (s : State) : Host.Outcome State Fault Refusal :=
  act s fun s =>
    match (s.mover mover).run with
    | none => s
    | some r => if r.retry then s.runSlots mover r true r.slotsLeft else s

/-- MOVER_RESET (R244). -/
def execMoverReset (mover : Mover) (s : State) : Host.Outcome State Fault Refusal :=
  act s fun s => (s.moverReset mover).log 0x9002 (domMover mover) [(16, domMover mover), (8, 0)]

/-! ### MOV.X (R199, R224) -/

def State.movAddr (s : State) (c x w : Nat) : Nat := s.sreg c x (fld w 110 107) + 64 * fld w 106 94

/-- The queue of the mover that a MOV.X names has room. -/
def State.movRoom (s : State) (m : Nat) : Bool :=
  let v := s.mover m
  decide (v.queue.length + (if v.run.isSome then 1 else 0) < 16)

/-- The descriptor enters the queue, counted by its context (R205). -/
def State.queueMov (s : State) (c x : Nat) (out : Bool) (i : MovItem) : State :=
  let m := 2 * c + (if out then 1 else 0)
  let v := s.mover m
  let idle := v.queue.isEmpty && v.run.isNone
  let s := s.setMover m { v with queue := v.queue ++ [i], pace := if idle then s.now else v.pace }
  s.mapCtx c x fun v => if out then { v with movs1 := v.movs1 + 1 } else { v with movs0 := v.movs0 + 1 }

/-- Contexts that wait for a place in a mover's queue. -/
def State.movContenders (s : State) (c : Nat) (out : Bool) : List Nat :=
  s.waiters c fun w => match w with | .mov o _ => o == out | _ => false

/-- MOV.X. A re-run suppresses as many as the replay record says (R207). -/
def execMovX (core : Core) (ctx : Ctx) (s : State) : Host.Outcome State Fault Refusal :=
  act s (·.issue core ctx 0x40
    (fun w =>
      if unassigned w [(111, 86)] then some (.cause 1)
      else failIf (decide (64 ≤ fld w 93 86) && fld w 93 86 != 0xFF) 0xA)
    (fun s w =>
      let a := s.movAddr core ctx w
      if a % 64 ≠ 0 ∨ storeSize 3 < a + 128 then some (.cause 5)
      else if (s.ctx core ctx).skipMovs ≠ 0 then none
      else
        let d := s.storeNat core 3 a 128
        (s.descCheck (s.ctx core ctx).stageKey d).map
          fun code => .descriptor (if bitAt w 111 then 1 else 0) code (code == 1 && dReserved d))
    fun s w =>
      let v := s.ctx core ctx
      let out := bitAt w 111
      if v.skipMovs ≠ 0 then
        ((s.setCtx core ctx { v with skipMovs := v.skipMovs - 1 }).mapCore core fun k =>
          { k with suppressedMovs := k.suppressedMovs + 1 }).retire core ctx
      else
        let a := s.movAddr core ctx w
        let i : MovItem := ⟨ctx, a, v.stageKey, fld w 93 86, BitVec.ofNat 1024 (s.storeNat core 3 a 128)⟩
        s.enterQueue core ctx (if out then 5 else 4) (s.movContenders core out) (s.movRoom (2 * core + (if out then 1 else 0)))
          (·.queueMov core ctx out i) (.mov out i))

/-! ### Admission (R184) -/

/-- QUEUE_ADMIT: the queue has room and the context is the one that R101 names: its item enters and its
instruction retires. -/
def execQueueAdmit (core : Core) (ctx : Ctx) (s : State) : Host.Outcome State Fault Refusal :=
  act s fun s =>
    if !s.coreAwake core then s
    else
      let w := (s.ctx core ctx).wait
      let enter := fun q xs room f => if room && s.winsPlace core q xs ctx then s.enterQueue core ctx q xs room f w else s
      match w with
      | .pass p => enter 1 (s.passContenders core) (s.passRoom core) (·.queuePass core ⟨some ctx, p, []⟩)
      | .gather p _ => enter 2 (s.gatherContenders core) (s.groupSlot core p).isSome (·.joinGathered core ctx p)
      | .vec v => enter 3 (s.vecContenders core) (decide ((s.core core).vecQ.length < 8)) (·.queueVec core v)
      | .mov out i => enter (if out then 5 else 4) (s.movContenders core out) (s.movRoom (2 * core + (if out then 1 else 0)))
          (·.queueMov core ctx out i)
      | _ => s

/-! ### The instruction streamer (R187) -/

/-- The number of the next instruction that the streamer reads for a context: behind the ring, or the
program counter after a miss outside it. -/
def CtxSt.streamNext (v : CtxSt) : Nat :=
  let pc := v.pc.toNat
  if v.ringLo ≤ pc ∧ pc ≤ v.ringLo + v.ring.length then v.ringLo + v.ring.length else pc

/-- Fewer than 320 instructions remain ahead of the program counter. -/
def CtxSt.streamHungry (v : CtxSt) : Bool :=
  v.stream && v.status != .idle && v.status != .faulted && decide (v.streamNext < v.pc.toNat + 320) &&
  decide (v.streamNext < 2 ^ 44)

/-- A burst of the streamer: virtual address and bytes. -/
def CtxSt.burst (v : CtxSt) : Nat × Nat := (16 * v.streamNext, 16 * min 64 (2 ^ 44 - v.streamNext))

/-- A refill fails: a context that waits for it faults (R210). -/
def State.streamFail (s : State) (c x : Nat) : State :=
  match (s.ctx c x).wait with
  | .streamMiss => s.ctxFault c x 6
  | _ => s

/-- STREAM_REFILL: a burst enters the ring, and the last 128 behind the program counter stay. -/
def execStreamRefill (core : Core) (ctx : Ctx) (s : State) : Host.Outcome State Fault Refusal :=
  act s fun s =>
    let v := s.ctx core ctx
    if !v.streamHungry || s.coreDown core then s
    else
      let (va, n) := v.burst
      let pages := (unitsOf va n).map fun u => pageOf (s.core core).tcache (65536 * u)
      if pages.any (·.isNone) then s
      else
        let ps := pages.filterMap id
        let s := s.each ps fun s e => s.tcUse core e
        match s.xlate ps v.stageKey false (pieces va n) with
        | .error _ => s.streamFail core ctx
        | .ok xs =>
          let bs := xs.flatMap fun x => s.read x.1 x.2
          let words := (List.range (n / 16)).map fun i => BitVec.ofNat 128 (leAt bs (16 * i) 16)
          let start := v.streamNext
          let (lo, ring) := if start = v.ringLo + v.ring.length then (v.ringLo, v.ring) else (start, [])
          let cut := v.pc.toNat - 128 - lo
          s.setCtx core ctx { v with
            ringLo := lo + cut
            ring := (ring ++ words).drop cut
            status := if v.wait = .streamMiss then .ready else v.status
            wait := if v.wait = .streamMiss then .none else v.wait }

/-- TABLE_WALK_COMPLETE (R238): a walk that a mover or the streamer of the core needs ends. -/
def execTableWalkComplete (core : Core) (user : WalkUser) (va : BitVec 48) (_write : Bool) (s : State) :
    Host.Outcome State Fault Refusal :=
  act s fun s =>
    let u := va.toNat / 65536
    let miss := (pageOf (s.core core).tcache (65536 * u)).isNone
    match user with
    | .mover out =>
      let m := 2 * core.val + (if out then 1 else 0)
      match (s.mover m).run with
      | none => s
      | some r =>
        if !r.need.contains u then s
        else if !miss then s.resolve m r
        else
          let s := s.count64 0x4045 core
          match s.walk va.toNat with
          | .ok e => (s.tcUse core e).resolve m r
          | .error code => s.moverFault m (s.partMoves m r) code va.toNat none
    | .streamer x =>
      let v := s.ctx core x
      let (a, n) := v.burst
      if !v.streamHungry || !(unitsOf a n).contains u || !miss || s.coreDown core then s
      else
        let s := s.count64 0x4045 core
        match s.walk va.toNat with
        | .ok e => s.tcUse core e
        | .error _ => s.streamFail core x

/-! ### Invalidation and regions (R239, R240) -/

/-- TRANSLATION_INVALIDATE: a die controller's command, which completes later. -/
def execTranslationInvalidate (page : Option (BitVec 48)) (s : State) : Host.Outcome State Fault Refusal :=
  act s fun s => { s with invals := s.invals ++ [page.map (·.toNat)] }

/-- Pages that an invalidation leaves. -/
def keptPages (page : Option Nat) (ps : List TcEntry) : List TcEntry :=
  match page with
  | none => []
  | some a => ps.filter fun e => !(decide (e.va ≤ a) && decide (a < e.va + e.size))

/-- INVALIDATE_COMPLETE: every cache has dropped the entries of the oldest invalidation. -/
def execInvalidateComplete (s : State) : Host.Outcome State Fault Refusal :=
  act s fun s =>
    match s.invals with
    | [] => s
    | p :: ps =>
      { s with
        invals := ps
        cores := s.cores.foldr (fun e t =>
          Tbl.set .reset t e.1 { e.2 with tcache := keptPages p e.2.tcache }) []
        train := { s.train with engines := s.train.engines.foldr (fun e t =>
          Tbl.set .reset t e.1 { e.2 with tcache := keptPages p e.2.tcache }) [] } }

/-- An entry that the die controller of C-die 0 puts into the table: its reserved bits zero, its version 2,
and outside the reserved areas and spans (R240, R363). -/
def State.regionEntryOk (s : State) (e : Nat) : Bool :=
  let a := 65536 * fld e 49 25
  let n := 65536 * (fld e 24 0 + 1) - a
  decide (fld e 127 124 = 2) && decide (fld e 112 50 = 0) && !touchesReserved a n && (!bitAt e 123 || !s.touchesSpan a n)

/-- REGION_CHANGE_EFFECTIVE: at its hall time an entry takes its new value; a change that the die controller refuses, or that
does not name its hall time at least 10 µs ahead, never does. Its record names no core, mover, context or code: zeros
stand in their places (R248, assumption 119). -/
def execRegionChangeEffective (n : Fin 256) (entry : RegionChange) (s : State) :
    Host.Outcome State Fault Refusal :=
  act s fun s =>
    if !s.job.loaded || !s.regionEntryOk entry.word.toNat || decide (entry.effective < entry.named + 10000) then s
    else
      let s := s.reach entry.effective
      let s := { s with regions := Tbl.set regionReset s.regions n entry.word }
      (s.count 0x4040 3).log 0x4046 (domDie 0) [(8, 0), (1, 0), (3, 0), (8, 0)]

end Sys2Proof.Machine
end

