-- ==== Sys2Proof/Machine/Watch.lean ====
section
/-!
DEFINITION. The numeric watch: tally records, shares per format, the non-finite count and the loss
scale (R300-R309).
-/

namespace Sys2Proof.Machine

/-! ### Tally records (R302, R303) -/

def counterMax : Nat := 0xFFFFFFFF

/-- A record as job load leaves it. -/
def TallyRec.cleared (epoch : Nat) : TallyRec := ⟨false, false, 0, epoch, epoch, .none, [], .none⟩

/-- The 256 bytes of a record. -/
def TallyRec.image (tag : Nat) (r : TallyRec) : List Byte :=
  let five := fun c : Counts => [c.zero, c.vanished, c.saturated, c.inf, c.nan, c.dropped].flatMap (leBytes 4)
  leBytes 1 2 ++ leBytes 1 ((if r.stuck then 1 else 0) + (if r.mixed then 2 else 0)) ++ leBytes 1 r.fmt ++
  leBytes 1 0 ++ leBytes 2 tag ++ leBytes 2 0 ++ leBytes 4 r.epoch ++ leBytes 4 r.prevEpoch ++
  five r.cur ++ leBytes 8 r.cur.total ++
  ((List.range 32).flatMap fun i => leBytes 4 (Tbl.get 0 r.hist i)) ++
  five r.prev ++ leBytes 8 r.prev.total ++ List.replicate 48 0

/-- The record that 256 bytes hold. -/
def TallyRec.ofImage (bs : List Byte) : TallyRec :=
  let counts := fun i : Nat => (⟨leAt bs i 4, leAt bs (i + 4) 4, leAt bs (i + 8) 4, leAt bs (i + 12) 4, leAt bs (i + 16) 4,
    leAt bs (i + 20) 4, leAt bs (i + 24) 8⟩ : Counts)
  { stuck := bitAt (leAt bs 1 1) 0
    mixed := bitAt (leAt bs 1 1) 1
    fmt := leAt bs 2 1
    epoch := leAt bs 8 4
    prevEpoch := leAt bs 12 4
    cur := counts 16
    hist := (List.range 32).foldl (fun t i => Tbl.set 0 t i (leAt bs (48 + 4 * i) 4)) []
    prev := counts 176 }

/-- The record in epoch `e`: rolled over where its own epoch is another. -/
def TallyRec.rollOver (e : Nat) (r : TallyRec) : TallyRec :=
  if r.epoch = e then r
  else { r with mixed := false, fmt := 0, epoch := e, prevEpoch := r.epoch, cur := .none, hist := [], prev := r.cur }

/-- A U32 counter after `n` more, and whether it has reached its limit with them. -/
def bump (c n : Nat) : Nat × Bool := (min (c + n) counterMax, decide (c < counterMax) && decide (counterMax ≤ c + n))

/-- A delta charged to a record of the current epoch, and the counters that reached their limit. -/
def TallyRec.charge (r : TallyRec) (d : Delta) : TallyRec × Nat :=
  let z := bump r.cur.zero d.zero
  let v := bump r.cur.vanished d.vanished
  let s := bump r.cur.saturated d.saturated
  let i := bump r.cur.inf d.inf
  let n := bump r.cur.nan d.nan
  let dr := bump r.cur.dropped d.dropped
  let hist := d.hist.foldl (fun (acc : Tbl Nat × Nat) b =>
    let x := bump (Tbl.get 0 acc.1 b.1) b.2
    (Tbl.set 0 acc.1 b.1 x.1, acc.2 + if x.2 then 1 else 0)) (r.hist, 0)
  let stuck := hist.2 + ([z, v, s, i, n, dr].countP (·.2))
  let writes := d.fmt != 0 && decide (0 < d.total)
  ({ r with
      stuck := r.stuck || decide (0 < stuck)
      mixed := r.mixed || (writes && r.fmt != 0 && r.fmt != d.fmt)
      fmt := if writes then d.fmt else r.fmt
      cur := ⟨z.1, v.1, s.1, i.1, n.1, dr.1, (r.cur.total + d.total) % 2 ^ 64⟩
      hist := hist.1 }, stuck)

/-! ### The table (R300) -/

def State.setWatch (s : State) (f : Watch → Watch) : State := { s with watch := f s.watch }

/-- The spill slot of a tag. -/
def tallySlot (tag : Nat) : Nat := tallySpill + 256 * tag

/-- The record that a tag's spill slot gives: zero with STUCK set where the slot is poisoned (R360). -/
def State.slotRec (s : State) (tag : Nat) : TallyRec :=
  if s.poisoned (tallySlot tag) 256 then { TallyRec.cleared 0 with stuck := true }
  else if s.watch.spilled.contains tag then .ofImage (s.read (tallySlot tag) 256)
  else .cleared s.watch.cleared

/-- The record of a tag, on chip or as a load would bring it there. -/
def State.tallyRec (s : State) (tag : Nat) : TallyRec :=
  match s.watch.chip.find? (·.1 == tag) with
  | some e => e.2
  | none => s.slotRec tag

/-- A record is the most recently used on chip; the least recently used makes room and goes to its slot. -/
def State.tallyPut (s : State) (tag : Nat) (r : TallyRec) : State :=
  let rest := s.watch.chip.filter (·.1 != tag)
  let s := match rest[4095]? with
    | some e => (s.write (tallySlot e.1) (e.2.image e.1)).setWatch fun w => { w with spilled := insertAsc e.1 w.spilled }
    | none => s
  s.setWatch fun w => { w with chip := (tag, r) :: rest.take 4095 }

/-- The record of a tag comes on chip and is brought to the current epoch. -/
def State.tallyLoad (s : State) (tag : Nat) : TallyRec × State :=
  let hit := s.watch.chip.any (·.1 == tag)
  let r := (s.tallyRec tag).rollOver (s.obj 0x8010 3)
  let s := s.on (!hit) fun s => (s.readPoison (tallySlot tag) 256).count64 0x8010 5
  (r, s.tallyPut tag r)

/-- The shares of a destination format (R305). -/
def FmtCount.add (f : FmtCount) (d : Delta) : FmtCount :=
  ⟨f.total + d.total, f.overflow + d.inf + d.saturated, f.vanished + d.vanished, f.zero + d.zero, f.nan + d.nan⟩

def FmtCount.none : FmtCount := ⟨0, 0, 0, 0, 0⟩

/-- A delta is applied. -/
def State.applyDelta (s : State) (d : Delta) : State :=
  let (r, s) := s.tallyLoad d.tag
  let (r, stuck) := r.charge d
  let s := (s.tallyPut d.tag r).setWatch fun w => { w with
    shares := if d.fmt = 0 then w.shares
      else Tbl.set .none w.shares d.fmt ((Tbl.get .none w.shares d.fmt).add d) }
  let s := s.count64 0x8010 4 (d.inf + d.nan)
  s.on (stuck != 0) (·.count 0x8010 6 stuck)

/-- TALLY_DELTA: the oldest delta is applied; reads that wait for it come nearer. -/
def execTallyDelta (s : State) : Host.Outcome State Fault Refusal :=
  act s fun s =>
    match s.deltas with
    | [] => s
    | d :: ds =>
      let s := ({ s with deltas := ds }).applyDelta d
      s.each (s.ctxs.map (·.1)) fun s k =>
        let v := Tbl.get .reset s.ctxs k
        match v.wait with
        | .tally tag a n => { s with ctxs := Tbl.set .reset s.ctxs k { v with wait := .tally tag a (n - 1) } }
        | _ => s

/-- TALLY_READ_SERVE (R301): every earlier delta has been applied, and the record is written to scratch. -/
def execTallyReadServe (core : Core) (ctx : Ctx) (s : State) : Host.Outcome State Fault Refusal :=
  act s fun s =>
    match (s.ctx core ctx).wait with
    | .tally tag a 0 =>
      let (r, s) := s.tallyLoad tag
      (s.storeWrite core 3 a (r.image tag)).retire core ctx
    | _ => s

/-- Job load clears every record, in the table and in the slots, whose codewords are written whole (R303). -/
def State.clearTally (s : State) : State :=
  ({ s with poison := s.poison.filter fun c => !(decide (tallySpill ≤ 64 * c) && decide (64 * c < flowTable)) }).setWatch
    fun w => { w with chip := [], spilled := [], cleared := s.obj 0x8010 3, shares := [] }

/-! ### Decisions (R305-R308) -/

/-- The record of a closed epoch for one format: U64 TOTAL, OVERFLOW, VANISHED, F32 shares. -/
def FmtCount.image (f : FmtCount) : List Byte :=
  let n := f.total - f.zero - f.nan
  let f32 := fun x : Nat => toF32 (.fin false x 0)
  let share := fun x : Nat => if n = 0 then 0 else f32Div (f32 x) (f32 n)
  leBytes 8 f.total ++ leBytes 8 f.overflow ++ leBytes 8 f.vanished ++
  leBytes 4 (share f.overflow) ++ leBytes 4 (share f.vanished)

/-- The epoch closes: shares are published and the counts start again, the watch epoch advances, and
NF_COUNT keeps what came after the latch (R303, R305, R306). -/
def State.closeEpoch (s : State) : State :=
  let s := s.each ((List.range 15).map (· + 1)) fun s f =>
    s.setRec 0x8011 f (Tbl.get .none s.watch.shares f).image
  let s := s.setObj 0x8010 3 ((s.obj 0x8010 3 + 1) % 2 ^ 32)
  let s := s.setObj 0x8010 4 (s.obj 0x8010 4 - s.watch.latch)
  s.setWatch fun w => { w with shares := [], latch := 0 }

/-- How a step is decided (R307). -/
inductive Decision where
  | commit | nonfinite | schedule
  deriving DecidableEq, Repr

/-- The scale words of R308. -/
def State.scaleWords (s : State) : List Byte :=
  let l := s.obj 0x8012 6
  leBytes 4 (toF32 (.fin false 1 l)) ++ leBytes 4 (toF32 (.fin false 1 (-(l : Int)))) ++ leBytes 4 l ++
  leBytes 4 (s.obj 0x8010 3) ++ List.replicate 48 0

/-- The scale words reach a core. -/
def State.writeScale (s : State) (c : Nat) : State :=
  if s.obj 0x8012 0xA = 0xFFFFFFFF then s else s.storeWrite c 3 (s.obj 0x8012 0xA) s.scaleWords

/-- The scale words of a decision: a core in bivouac takes them at its wake. -/
def State.sendScale (s : State) : State :=
  s.each (List.range 192) fun s c =>
    let p := (s.core c).power
    if p = .asleep ∨ p = .waking then s.mapCore c fun k => { k with lateScale := true } else s.writeScale c

/-- The loss-scale controller (R307); a changed scale is logged (R319). -/
def State.lossScale (s : State) (kind : Decision) : State :=
  let on := s.obj 0x8012 1 == 1
  let l := s.obj 0x8012 6
  let set := fun (s : State) (l' : Nat) =>
    (s.setObj 0x8012 6 l').on (l' != l) (·.log 0x8013 (domMp 0) [(8, l), (8, l')])
  let s :=
    if kind = .commit then
      let s := s.setObj 0x8012 8 0
      if !on then s
      else
        let clean := s.obj 0x8012 7 + 1
        if s.obj 0x8012 4 ≤ clean then (set s (min (l + 1) (s.obj 0x8012 3))).setObj 0x8012 7 0
        else s.setObj 0x8012 7 clean
    else
      let streak := (s.obj 0x8012 8 + 1) % 2 ^ 32
      let s := s.setObj 0x8012 8 streak
      let s := if kind = .nonfinite ∧ on then (set s (l - s.obj 0x8012 5)).setObj 0x8012 7 0 else s
      s.on (decide (streak % s.obj 0x8012 9 = 0)) fun s => (s.log 0x8010 (domMp 0) [(32, streak)]).interrupt 3
  s.sendScale

end Sys2Proof.Machine
end

