-- ==== Sys2Proof/Machine/Engines.lean ====
section
/-!
DEFINITION. The update engines: groups and their arrays, access to memory, the first quantisation, the
sums of squares and the optimiser (R268-R289).
-/

namespace Sys2Proof.Machine

/-! ### Access under STATE_KEY -/

def State.stateKey (s : State) : BitVec 8 := BitVec.ofNat 8 (s.obj 0x8000 3)

/-- Pages of a range, each walked afresh. -/
def State.walkPages (s : State) (va n : Nat) : List TcEntry :=
  (unitsOf va n).filterMap fun u => match s.walk (65536 * u) with
    | .ok e => some e
    | .error _ => none

/-- A read by the management processor; what it cannot read is a free value. -/
def State.mpRead (s : State) (va n : Nat) : List Byte :=
  match s.xlate (s.walkPages va n) s.stateKey false (pieces va n) with
  | .ok xs => xs.flatMap fun x => s.read x.1 x.2
  | .error _ => (List.range n).map fun i => Config.unreadable (va + i)

/-- A write by the management processor; where it may not write, nothing is written. -/
def State.mpWrite (s : State) (va : Nat) (bs : List Byte) : State :=
  match s.xlate (s.walkPages va bs.length) s.stateKey true (pieces va bs.length) with
  | .ok xs => s.writeBytes (cellsOver xs bs)
  | .error _ => s

def State.setTrain (s : State) (f : Train → Train) : State := { s with train := f s.train }

def State.engineSt (s : State) (n : Nat) : EngineSt := Tbl.get .reset s.train.engines n
def State.setEngineSt (s : State) (n : Nat) (e : EngineSt) : State :=
  s.setTrain fun t => { t with engines := Tbl.set .reset t.engines n e }

/-- The pages of 64 KiB units, through the engine's cache (R273); a unit without a page is left out. -/
def State.enginePages (s : State) (n : Nat) (us : List Nat) : State × List TcEntry :=
  us.foldl (fun (acc : State × List TcEntry) u =>
    if (pageOf acc.2 (65536 * u)).isSome then acc
    else
      let e := acc.1.engineSt n
      let use := fun (p : TcEntry) =>
        (acc.1.setEngineSt n { e with tcache := (p :: e.tcache.erase p).take 64 }, acc.2 ++ [p])
      match pageOf e.tcache (65536 * u) with
      | some p => use p
      | none => match acc.1.walk (65536 * u) with
        | .ok p => use p
        | .error _ => acc) (s, [])

/-- Work of an engine that may stop with a fault code. -/
abbrev Eff := State × Option Nat

def Eff.andThen (e : Eff) (f : State → Eff) : Eff :=
  match e.2 with
  | none => f e.1
  | some _ => e

def State.ok (s : State) : Eff := (s, none)

/-- A read by an engine: the bytes, or the fault code. -/
def State.eRead (s : State) (ps : List TcEntry) (va n : Nat) : Except Nat (List Byte) :=
  match s.xlate ps s.stateKey false (pieces va n) with
  | .ok xs => .ok (xs.flatMap fun x => s.read x.1 x.2)
  | .error f => .error f.1

/-- Several reads. -/
def State.eReads (s : State) (ps : List TcEntry) : List (Nat × Nat) → Except Nat (List (List Byte))
  | [] => .ok []
  | (va, n) :: rest =>
    match s.eRead ps va n, s.eReads ps rest with
    | .ok b, .ok bs => .ok (b :: bs)
    | .error c, _ => .error c
    | _, .error c => .error c

def State.eWrite (s : State) (ps : List TcEntry) (va : Nat) (bs : List Byte) : Eff :=
  match s.xlate ps s.stateKey true (pieces va bs.length) with
  | .ok xs => (s.writeBytes (cellsOver xs bs)).ok
  | .error f => (s, some f.1)

def State.eWrites (s : State) (ps : List TcEntry) (ws : List (Nat × List Byte)) : Eff :=
  ws.foldl (fun e w => e.andThen fun s => s.eWrite ps w.1 w.2) s.ok

/-! ### Groups (R268-R271) -/

def gOpt (w : Nat) : Nat := fld w 507 504
def gRegion (w : Nat) : Nat := fld w 503 502
def gGrad (w : Nat) : Nat := fld w 501 497
def gRaw (w : Nat) : Nat := fld w 496 492
def gWork (w : Nat) : Nat := fld w 491 487
def gTile (w : Nat) : Bool := bitAt w 486
def gSec (w : Nat) : Bool := bitAt w 485
def gNoDecay (w : Nat) : Bool := bitAt w 484
def gRope (w : Nat) : Bool := bitAt w 483
def gTag (w : Nat) : Nat := fld w 482 467
def gFirst (w : Nat) : Nat := fld w 466 443
def gCount (w : Nat) : Nat := fld w 442 419
def gWd (w : Nat) : Nat := fld w 418 387
def gLrMul (w : Nat) : Nat := fld w 386 355
def gQuant (w : Nat) : Nat := fld w 354 323
def gFrozen (w : Nat) : Bool := gOpt w == 4
def gAdam (w : Nat) : Bool := gOpt w == 1

def gMaster (w i : Nat) : Nat := 4096 * fld w 322 287 + 65536 * i
def gM1 (w i : Nat) : Nat := 4096 * fld w 286 251 + 32768 * i
def gM2 (w i : Nat) : Nat := 4096 * fld w 250 215 + 32768 * i
def gGradAt (w i : Nat) : Nat := 4096 * fld w 214 179 + 16896 * i
def gErr (w slot i : Nat) : Nat := 4096 * fld w 178 143 + 32768 * (slot * gCount w + i)
def gRawBytes (w : Nat) : Nat := if gRaw w = 1 then 65536 else 32768
def gRawAt (w i : Nat) : Nat := 4096 * fld w 142 107 + gRawBytes w * i
def gWorkBytes (w : Nat) : Nat := if gWork w = 3 then 32768 else if gTile w then 24576 else 16896
def gWorkAt (w i : Nat) : Nat := 4096 * fld w 106 71 + gWorkBytes w * i
def gRopeAt (w i : Nat) : Nat := 4096 * fld w 70 35 + 524288 * i

/-- A block of an engine's list: its group, its number in the group and its module block number. -/
structure Blk where
  g : Nat
  i : Nat
  b : Nat
  deriving DecidableEq, Repr

/-- The block list of engine `n` (R273). -/
def engineList (groups : List Nat) (n : Nat) : List Blk :=
  groups.flatMap fun g =>
    if gFrozen g then []
    else ((List.range (gCount g)).filter fun i => 8 * gRegion g + i % 8 == n).map fun i => ⟨g, i, gFirst g + i⟩

/-- Every block that is not frozen, ascending. -/
def allBlocks (groups : List Nat) : List Blk :=
  groups.flatMap fun g => if gFrozen g then [] else (List.range (gCount g)).map fun i => ⟨g, i, gFirst g + i⟩

/-- Every block of the table, ascending, the frozen ones too. -/
def everyBlock (groups : List Nat) : List Blk :=
  groups.flatMap fun g => (List.range (gCount g)).map fun i => ⟨g, i, gFirst g + i⟩

/-- The engine that serves a block. -/
def Blk.engine (k : Blk) : Nat := 8 * gRegion k.g + k.i % 8

/-- The addresses of a block's tag entry (R274), of the step record and of a cursor (R275, R276). -/
def State.tagAt (s : State) (b : Nat) : Nat := s.obj 0x8000 7 + 16 * b
def State.stepAt (s : State) : Nat := s.obj 0x8000 4
def State.cursorAt (s : State) (n : Nat) : Nat := s.stepAt + 64 + 16 * n

/-- Coded slots of a working copy with their map bytes (R255, R286): offsets within the block's copy. -/
def workSlots (g : Nat) : List Nat :=
  if gWork g = 3 then (List.range 8).map (4096 * ·)
  else if gTile g then [0, 4096, 12288, 16384] else []

/-- The length-map address of a slot in virtual memory. -/
def State.lenMap (s : State) (va : Nat) : Nat := s.obj 0x4050 1 + va / 4096

/-! ### Arrays of numbers -/

/-- Little-endian words of 4 and of 2 bytes. -/
def words4 : List Byte → List Nat
  | a :: b :: c :: d :: r => leNat [a, b, c, d] :: words4 r
  | _ => []

def words2 : List Byte → List Nat
  | a :: b :: r => leNat [a, b] :: words2 r
  | _ => []

def bytes4 (xs : List Nat) : List Byte := xs.flatMap (leBytes 4)
def bytes2 (xs : List Nat) : List Byte := xs.flatMap (leBytes 2)

/-- A B16 code as the F32 code of the same value. -/
def b16f32 (c : Nat) : Nat := toF32 (decodeFloat b16 c)

/-- `narrow_b16`. -/
def toB16 (mode : Mode) (c : Nat) : Nat := (narrow b16 mode false (ofF32 c)).1

/-- F32 values of packed groups (R115, R172): 8 groups of 64 blocks. -/
def unpackGroups (fmt : Nat) (bs : List Byte) : List Nat :=
  (List.range 8).flatMap fun g =>
    let grp := (bs.drop (2112 * g)).take 2112
    ((List.range 64).zip (grp.take 64)).flatMap fun sc =>
      ((grp.drop (64 + 32 * sc.1)).take 32).map fun e => toF32 (decodeScaled fmt sc.2.toNat e.toNat)

/-- Subnormal inputs of an update engine: F32 words, B16 words, and the elements of packed groups (R157). -/
def flushed4 (bs : List Byte) : Nat := flushed f32 (words4 bs)
def flushed2 (bs : List Byte) : Nat := flushed b16 (words2 bs)
def flushedGroups (fmt : Nat) (bs : List Byte) : Nat :=
  ((List.range 8).map fun g => flushedGroup fmt ((bs.drop (2112 * g)).take 2112)).foldl (· + ·) 0

/-- A quantised block: its scale, codes, and what its elements count as. -/
abbrev QBlock := Nat × List Nat × List Outcome

/-- `n` blocks of 32 values from index `p` on, each element's rounding by its index. -/
def quantBlocks (f : FloatFmt) (mode : Nat → Mode) : Nat → Nat → List Nat → List QBlock
  | 0, _, _ => []
  | n + 1, p, xs =>
    quantiseBlock f ((List.range 32).map fun i => mode (p + i)) ((xs.take 32).map ofF32) ::
      quantBlocks f mode n (p + 32) (xs.drop 32)

/-- Blocks as packed groups. -/
def packGroups (qs : List QBlock) : List Byte :=
  (List.range ((qs.length + 63) / 64)).flatMap fun g =>
    let grp := (qs.drop (64 * g)).take 64
    (grp.map fun q => BitVec.ofNat 8 q.1) ++ grp.flatMap fun q => q.2.1.map (BitVec.ofNat 8)

/-- One delta per quantised block. -/
def State.tallyBlocks (s : State) (tag fmt : Nat) (os : List (List Outcome)) : State :=
  s.sendDeltas (os.map fun o => s.tally (Delta.empty tag fmt) o)

/-- The rounding that an object of 0x8001 selects, for element `p` of block `k`. -/
def State.trainMode (s : State) (sub : Nat) (k : Blk) (p : Nat) : Mode :=
  if s.obj 0x8001 sub = 1 then s.srMode (gTag k.g) (16384 * k.b + p) else .rne

def State.stepRec (s : State) : Nat := leNat (s.mpRead s.stepAt 64)
def recState (w : Nat) : Nat := fld w 507 506
def recStep (w : Nat) : Nat := fld w 479 448

/-! ### The replica list (R310) -/

/-- The module and the repair context of replica `r`, how many there are, and the module's own index. -/
def State.replicaModule (s : State) (r : Nat) : Nat := s.obj 0x8013 (r + 1) % 65536
def State.replicaCtx (s : State) (r : Nat) : Nat := fld (s.obj 0x8013 (r + 1)) 33 16
def State.replicaCount (s : State) : Nat := s.obj 0x8013 0
def State.ownReplica (s : State) : Nat :=
  ((List.range s.replicaCount).find? fun r => s.replicaModule r == s.moduleNumber).getD 0

/-! ### Where the rope record and its parts lie (R320, R326) -/

def State.ropeBase (s : State) : Nat := s.obj 0x7000 4
def State.siteMask (s : State) : Nat := s.obj 0x7000 2
/-- The rope tier is on. -/
def State.ropeOn (s : State) : Bool := s.siteMask != 0
def State.ropeCursorAt (s : State) (n : Nat) : Nat := s.ropeBase + 8192 + 32 * n
/-- Histogram copy `i` mod 2 of an engine, and the module histogram. -/
def State.histAt (s : State) (n i : Nat) : Nat := s.ropeBase + 16384 + 8192 * n + 4096 * (i % 2)
def State.moduleHistAt (s : State) : Nat := s.ropeBase + 4096

/-! ### The copy of a block (R316) -/

def State.setRepair (s : State) (r : Option Repair) : State := s.setTrain fun t => { t with repair := r }

/-- The map bytes of a block's anchor slots (R324). -/
def State.anchorMaps (s : State) (k : Blk) : List Nat :=
  (List.range 16).map fun i => s.lenMap (gRopeAt k.g k.i + 458752 + 4096 * i)

/-- What a copy of a block takes, in the order of R316. -/
def State.copyRanges (s : State) (k : Blk) : List (Nat × Nat) :=
  [(gMaster k.g k.i, 65536), (gM1 k.g k.i, 32768)] ++ (if gAdam k.g then [(gM2 k.g k.i, 32768)] else []) ++
  [(gWorkAt k.g k.i, gWorkBytes k.g)] ++
  (if gSec k.g then (workSlots k.g).map fun o => (s.lenMap (gWorkAt k.g k.i + o), 1) else []) ++
  (if gRope k.g then (gRopeAt k.g k.i, 524288) :: ((s.anchorMaps k).map fun a => (a, 1)) ++
    [(s.histAt k.engine 0, 8192), (s.ropeCursorAt k.engine, 32)] else []) ++ [(s.tagAt k.b, 16)]

/-- A physical range in pieces of at most 4,096 bytes. -/
def readPieces (a n : Nat) : List (Nat × Nat) :=
  (List.range ((n + 4095) / 4096)).map fun i => (a + 4096 * i, min 4096 (n - 4096 * i))

/-- READs of a range at the same physical addresses. -/
def State.readsOf (s : State) (va n : Nat) : List (Nat × Nat) :=
  match s.xlate (s.walkPages va n) s.stateKey true (pieces va n) with
  | .ok xs => xs.flatMap fun x => readPieces x.1 x.2
  | .error _ => []

/-- READs on the repair context of replica `r`. -/
def State.repairReads (s : State) (r : Nat) (xs : List (Nat × Nat)) : List Request :=
  if h : s.replicaCtx r < 262144 then
    xs.map fun x => ⟨⟨s.replicaCtx r, h⟩, 1, x.1, 0, x.2, [], .repair, 0, 0, 0⟩
  else []

/-- The step record is copied too where the own STEP is not that of the good value; the rope record with the first block
(R351). -/
def State.recordRanges (s : State) (r : Repair) : List (Nat × Nat) :=
  (match r.good with
    | some (step, _) => if recStep s.stepRec = step then [] else [(s.stepAt, 64)]
    | none => []) ++
  (if s.ropeOn && r.done == 0 then [(s.ropeBase, 64)] else [])

/-- The copy that is next is asked for: the records, and the block at the head of the list. -/
def State.askRepair (s : State) : State :=
  match s.train.repair with
  | some r =>
    if r.phase ≠ .repair ∨ r.asked then s
    else
      let block := match r.todo.head?.bind fun b => (allBlocks s.train.groups).find? (·.b == b) with
        | some k => s.copyRanges k
        | none => []
      (s.setRepair (some { r with asked := true })).queueRequests
        (s.repairReads r.src ((s.recordRanges r ++ block).flatMap fun a => s.readsOf a.1 a.2))
  | none => s

/-! ### Faults of an engine (R273, R292, R360) -/

/-- A repair is impossible: the job stage fails, and event 0x8014 is logged (R314). -/
def State.repairImpossible (s : State) : State := ((s.faultCount 9).jobFail 9).log 0x8014 (domMp 0)

/-- The queue of blocks to repair; without replicas the job stage fails (R317). -/
def State.queueRepair (s : State) (b : Nat) : State :=
  if s.replicaCount ≤ 1 then s.repairImpossible
  else
    match s.train.repair with
    | some r =>
      if r.todo.contains b then s
      else s.setRepair (some { r with todo := insertAsc b r.todo, asked := r.asked && !r.todo.isEmpty })
    | none =>
      let src := if s.ownReplica = 0 then 1 else 0
      ((s.setRepair (some ⟨.repair, [], [], none, src, [], [], [b], 0, false, false, false⟩)).schedFault).askRepair

/-- `tag_fault` of R292: the engine that serves the block logs it. -/
def State.tagFault (s : State) (k : Blk) : State :=
  ((s.count 0x8003 4).log 0x8004 (domEngine k.engine)).queueRepair k.b

/-- The engine's domain is reset, as a counted reset (R418, R434): its claims break, and its work waits to be
resumed. -/
def State.engineReset (s : State) (n cause : Nat) : State :=
  s.countedReset fun s =>
    let s := s.setEngineSt n { s.engineSt n with tcache := [], stopped := true, pace := s.now }
    let s := s.releaseHolds (domEngine n)
    s.log 0x9002 (domEngine n) [(16, domEngine n), (8, cause)]

/-- Work on a block has ended: a memory error in its state is a tag fault, any other fault the engine's. -/
def Eff.settle (e : Eff) (k : Blk) : Eff :=
  match e.2 with
  | some 0x13 => (e.1.tagFault k).ok
  | some c => (e.1.engineReset k.engine c, some c)
  | none => e

/-! ### First quantisation (R279) -/

/-- F32 raw gradients. -/
def rawValues (g : Nat) (bs : List Byte) : List Nat :=
  if gRaw g = 1 then words4 bs else (words2 bs).map b16f32

/-- A block quantised: reduced gradient, new error term, and the quantised blocks. -/
def State.quantise (s : State) (k : Blk) (raw err : List Byte) : List Byte × List Byte × List QBlock :=
  match floatFmt (gGrad k.g) with
  | none => ([], [], [])
  | some f =>
    let scale := toF32 (.fin false 1 (-(s.obj 0x8012 6 : Int)))
    let v := ((rawValues k.g raw).zip (words2 err)).map fun x => f32Add (f32Mul x.1 scale) (b16f32 x.2)
    let qs := quantBlocks f (s.trainMode 9 k) 512 0 v
    let packed := packGroups qs
    let back := unpackGroups (gGrad k.g) packed
    let nan := qs.flatMap fun q => List.replicate 32 (q.1 == 0xFF)
    let errs := ((v.zip back).zip nan).map fun x => if x.2 then 0 else toB16 .rne (f32Sub x.1.1 x.1.2)
    (packed, bytes2 errs, qs)

def State.quantiseBlk (s : State) (k : Blk) : Eff :=
  let slot := s.obj 0x8000 2
  let src := [(gRawAt k.g k.i, gRawBytes k.g), (gErr k.g slot k.i, 32768)]
  let dst := [(gGradAt k.g k.i, 16896), (gErr k.g (1 - slot) k.i, 32768)]
  let (s, ps) := s.enginePages k.engine ((src ++ dst).flatMap fun a => unitsOf a.1 a.2)
  Eff.settle (match s.eReads ps src with
    | .ok [raw, err] =>
      let q := s.quantise k raw err
      let s := s.countFlushed ((if gRaw k.g = 1 then flushed4 raw else flushed2 raw) + flushed2 err)
      (s.eWrites ps [(gGradAt k.g k.i, q.1), (gErr k.g (1 - slot) k.i, q.2.1)]).andThen fun s =>
        (s.tallyBlocks (gTag k.g) (gGrad k.g) (q.2.2.map (·.2.2))).ok
    | .ok _ => s.ok
    | .error c => (s, some c)) k

/-! ### Step timing (R278) -/

/-- The number of the current step of the active bank. -/
def State.stepNo (s : State) : Nat := if s.train.stepOrigin = s.tt.origin then s.train.stepNo else 0

/-- Schedule time of an offset of the current step; none with no bank active. -/
def State.stepTime (s : State) (off : Nat) : Option Nat :=
  s.tt.active.map fun b => s.tt.origin + s.stepNo * s.obj 0x8000 8 * s.bankPeriod b + off

/-- The job carries training state. -/
def State.training (s : State) : Bool := s.job.loaded && !s.train.groups.isEmpty

/-- An event of a step at an offset: its schedule time has come, or comes now; schedule time stands still in
a hall hold (R84). -/
def State.atStep (s : State) (off : Nat) (f : State → State) : State :=
  match s.stepTime off with
  | none => s
  | some t =>
    if !s.training then s
    else if s.frozenAt (t + s.lag) then (if t < s.sched then f s else s)
    else f (s.reach (t + s.lag))

/-- The cursor of an engine: STEP and DONE. -/
def State.cursor (s : State) (n : Nat) : Nat × Nat :=
  let w := leNat (s.mpRead (s.cursorAt n) 16)
  (fld w 127 96, fld w 95 72)

/-- Every engine's cursor has passed the blocks of a group in the sweep in progress (R289). -/
def State.sweptPast (s : State) (g : Nat) : Bool :=
  let w := s.stepRec
  recState w != 1 || (List.range 32).all fun n =>
    let xs := engineList s.train.groups n
    let c := s.cursor n
    let mine := (xs.zip (List.range xs.length)).filter fun x => x.1.g == g
    mine.all fun x => c.1 == recStep w && decide (x.2 < c.2)

/-- GROUP_QUANTISE: at its time in the step, once the sweep before has passed the group; late, it sets the
schedule-fault flag. -/
def execGroupQuantise (g : Fin 1024) (s : State) : Host.Outcome State Fault Refusal :=
  act s fun s =>
    match s.train.groups[g.val]? with
    | none => s
    | some w =>
      if s.train.quantised.contains g.val || gFrozen w then s
      else s.atStep (20 * gQuant w) fun s =>
        if !s.sweptPast w then s.setTrain fun t => { t with delayed := insertAsc g t.delayed }
        else
          let late := s.train.delayed.contains g.val
          let s := s.on late fun s => ((s.count 0x8003 5).log 0x8005 (domEngine (8 * gRegion w))).schedFault
          let ks := (List.range (gCount w)).map fun i => (⟨w, i, gFirst w + i⟩ : Blk)
          let e := ks.foldl (fun (e : Eff) k => e.andThen fun s => s.quantiseBlk k) s.ok
          match e.2 with
          | some _ => e.1
          | none => e.1.setTrain fun t => { t with
              quantised := insertAsc g t.quantised
              delayed := t.delayed.erase g
              stepNo := s.stepNo
              stepOrigin := s.tt.origin }

/-! ### Sums of squares and the norm record (R280, R281) -/

/-- The running sum of squares over a block. -/
def sumSquares (mul acc : Nat) (xs : List Nat) : Nat :=
  xs.foldl (fun a x => let y := f32Mul x mul; f32Add a (f32Mul y y)) acc

/-- The sum of an engine over its list, or a fault. -/
def State.engineSum (s : State) (n : Nat) : State × Option Nat :=
  (engineList s.train.groups n).foldl (fun (acc : State × Option Nat) k =>
    match acc.2 with
    | none => acc
    | some a =>
      let (s, ps) := acc.1.enginePages n (unitsOf (gGradAt k.g k.i) 16896)
      match s.eRead ps (gGradAt k.g k.i) 16896 with
      | .ok bs => (s.countFlushed (flushedGroups (gGrad k.g) bs),
          some (sumSquares (s.obj 0x8000 0xD) a (unpackGroups (gGrad k.g) bs)))
      | .error c =>
        let e := Eff.settle (s, some c) k
        (e.1, if e.2.isNone then some a else none)) (s, some 0)

/-- NORM_SUM: from NORM_OFFSET every engine sums its squares. -/
def execNormSum (s : State) : Host.Outcome State Fault Refusal :=
  act s fun s =>
    if s.train.norms.isSome || s.train.normWritten then s
    else s.atStep (s.obj 0x8000 9) fun s =>
      let r := (List.range 32).foldl (fun (acc : State × Option (List Nat)) n =>
        match acc.2 with
        | none => acc
        | some xs =>
          let e := acc.1.engineSum n
          (e.1, e.2.map fun x => xs ++ [x])) (s, some [])
      r.1.setTrain fun t => { t with norms := r.2, stepNo := s.stepNo, stepOrigin := s.tt.origin }

/-- Mailbox bytes (R280). -/
def State.mailbox (s : State) (m : Nat) : List Byte := Memory.read s.mailboxes (512 * m) 512
def State.setMailbox (s : State) (m : Nat) (bs : List Byte) : State :=
  { s with mailboxes := Memory.write s.mailboxes (512 * m) bs }

/-! ### Optimiser (R285) -/

/-- The values that a sweep applies to a group: the step record's fields and the job's constants. -/
structure StepVals where
  gs : Nat
  k1 : Nat
  k2 : Nat
  lr : Nat
  shift : Bool
  deriving DecidableEq, Repr

def f32One : Nat := 0x3F800000

/-- New moments of one parameter, before narrowing. -/
def newMoments (s : State) (g grad m1 m2 : Nat) : Nat × Nat :=
  let b1 := s.obj 0x8001 1
  let b2 := s.obj 0x8001 2
  if gAdam g then
    (f32Add (f32Mul b1 m1) (f32Mul (f32Sub f32One b1) grad),
      f32Add (f32Mul b2 m2) (f32Mul (f32Sub f32One b2) (f32Mul grad grad)))
  else (f32Add (f32Mul (s.obj 0x8001 4) m1) grad, 0)

/-- The step direction u. -/
def direction (s : State) (v : StepVals) (g grad m m2 : Nat) : Nat :=
  match gOpt g with
  | 1 => f32Div (f32Mul m v.k1) (f32Add (f32Sqrt (f32Mul m2 v.k2)) (s.obj 0x8001 3))
  | 2 => m
  | _ => f32Add grad (f32Mul (s.obj 0x8001 4) m)

/-- The new master weight of one parameter; `shift` is ref_new − ref_old where it applies. -/
def newWeight (s : State) (v : StepVals) (g grad m m2 w : Nat) (shift : Option Nat) : Nat :=
  let w := match shift with | some d => f32Add w d | none => w
  let lam := if gNoDecay g then 0 else gWd g
  let lrg := f32Mul v.lr (gLrMul g)
  f32Sub w (f32Mul lrg (f32Add (direction s v g grad m m2) (f32Mul lam w)))

/-- The fingerprint of a block (R287). -/
def fingerprint (b : Nat) (master m1 m2 : List Nat) : Nat :=
  ((List.range 16384).zip (master.zip (m1.zip m2))).foldl (fun f x =>
    let word := x.2.1 + x.2.2.1 * 2 ^ 32 + x.2.2.2 * 2 ^ 48
    (f + mix (Nat.xor word (16384 * b + x.1))) % 2 ^ 64) 0

/-! ### The working copy (R271, R286) -/

/-- The bytes of a working copy at offsets within the block's copy, and what its values count as. -/
def State.workImage (s : State) (k : Blk) (master : List Nat) : List (Nat × List Byte) × List (List Outcome) :=
  let mode := s.trainMode 8 k
  if gWork k.g = 3 then
    let rs := ((List.range 16384).zip master).map fun x => narrow b16 (mode x.1) false (ofF32 x.2)
    ([(0, bytes2 (rs.map (·.1)))], (List.range 512).map fun j => ((rs.drop (32 * j)).take 32).map (·.2))
  else
    match floatFmt 0x05 with
    | none => ([], [])
    | some f =>
      let qs := quantBlocks f mode 512 0 master
      let os := qs.map (·.2.2)
      if !gTile k.g then ([(0, packGroups qs)], os)
      else
        ((List.range 2).map fun t =>
          let tq := (qs.drop (256 * t)).take 256
          -- scale of block j of column n at 64 j + n
          let scales := (List.range 256).map fun i =>
            match tq[4 * (i % 64) + i / 64]? with
            | some q => BitVec.ofNat 8 q.1
            | none => 0
          (12288 * t, (tq.flatMap fun q => q.2.1.map (BitVec.ofNat 8)) ++ scales), os)

/-- The writes of a working copy: raw, or its slots coded, each with its map byte. -/
def State.workWrites (s : State) (k : Blk) (image : List (Nat × List Byte)) : List (Nat × List Byte) :=
  let base := gWorkAt k.g k.i
  if !gSec k.g then image.map fun w => (base + w.1, w.2)
  else
    image.flatMap fun w =>
      let slots := (workSlots k.g).filter fun o => decide (w.1 ≤ o) && decide (o < w.1 + w.2.length)
      let coded := slots.flatMap fun o =>
        let c := compressSlot (gWork k.g) ((w.2.drop (o - w.1)).take 4096)
        [(base + o, c.1), (s.lenMap (base + o), leBytes 1 c.2)]
      let rest := w.2.drop (4096 * slots.length)
      coded ++ (if rest.isEmpty then [] else [(base + w.1 + 4096 * slots.length, rest)])

/-- The slots among writes of a compressor are counted, coded or raw (R266): each has a map byte of its own. -/
def State.countSlots (s : State) (ws : List (Nat × List Byte)) : State :=
  let maps := ws.filter fun w => w.2.length == 1
  let raw := maps.countP fun w => w.2 == [0]
  (s.on (raw != 0) (·.count64 0x4050 3 raw)).on (raw != maps.length) (·.count64 0x4050 2 (maps.length - raw))

/-- The address ranges that a working copy's writes may touch. -/
def State.workRanges (s : State) (k : Blk) : List (Nat × Nat) :=
  (gWorkAt k.g k.i, gWorkBytes k.g) ::
    (if gSec k.g then (workSlots k.g).map fun o => (s.lenMap (gWorkAt k.g k.i + o), 1) else [])

/-! ### The shard fingerprint (R311) -/

/-- SHARD_FP with a block's fingerprint changed. -/
def State.moveShardFp (s : State) (old new : Nat) : State :=
  s.setObj 0x8014 3 ((s.obj 0x8014 3 + 2 ^ 64 - old % 2 ^ 64 + new) % 2 ^ 64)

end Sys2Proof.Machine
end

