-- ==== Sys2Proof/Machine/RopeSweep.lean ====
section
/-!
DEFINITION. The rope tier's part of an update sweep: the rope record, delta streams, the outer step and
the round-end writes (R324-R330, R344, R345, R348).
-/

namespace Sys2Proof.Machine

def State.setRope (s : State) (f : Rope → Rope) : State := { s with rope := f s.rope }

/-- What had arrived of rounds is forgotten. -/
def Rope.forget (r : Rope) (infos : Tbl (List Byte)) (held : Tbl (Option HeldDelta)) : Rope :=
  { r with got := [], infos := infos, held := held, bid := none, planes := [], belay := [], trigger := false }

/-! ### The rope record (R326) -/

def State.ownSite (s : State) : Nat := s.obj 0x7000 1

/-- Configured sites other than this one, ascending. -/
def State.peerSites (s : State) : List Nat :=
  (List.range 8).filter fun x => bitAt s.siteMask x && x != s.ownSite

/-- Sites of a mask, ascending. -/
def sitesOf (mask : Nat) : List Nat := (List.range 8).filter (bitAt mask)

/-- The mask of a list of sites. -/
def maskOf (xs : List Nat) : Nat := xs.foldl (fun m x => Nat.lor m (2 ^ x)) 0

/-- No round has closed. -/
def noRound : Nat := 0xFFFFFFFF

def rrState (w : Nat) : Nat := fld w 507 506
def rrRefSlot (w : Nat) : Nat := fld w 505 505
def rrResSlot (w : Nat) : Nat := fld w 504 504
def rrRegroup (w : Nat) : Bool := bitAt w 503
def rrRound (w : Nat) : Nat := fld w 495 464
def rrClosed (w : Nat) : Nat := fld w 463 432
def rrApplyStep (w : Nat) : Nat := fld w 431 400
def rrMembers (w : Nat) : Nat := fld w 399 392
def rrCarry (w : Nat) : Nat := fld w 391 384
def rrAnchorRound (w : Nat) : Nat := fld w 383 352
def rrAnchorFp (w : Nat) : Nat := fld w 351 288
def rrRefFp (w : Nat) : Nat := fld w 287 224
def rrThreshold (w : Nat) : Nat := fld w 223 214
def rrEndUs (w : Nat) : Nat := fld w 191 128
def rrPrevEndUs (w : Nat) : Nat := fld w 127 64
def rrSamples (w : Nat) : Nat := fld w 63 0

/-- STATE codes of the record. -/
def rrIdle : Nat := 0
def rrOpen : Nat := 1
def rrPrepared : Nat := 2
def rrCommitted : Nat := 3

/-- The record of a fresh start (R277). -/
def freshRopeRec : Nat := 2 * 2 ^ 508 + noRound * 2 ^ 432 + 1020 * 2 ^ 214

def State.ropeRec (s : State) : Nat := leNat (s.mpRead s.ropeBase 64)

/-- The record is written, and the objects that show its fields follow it. -/
def State.setRopeRec (s : State) (w : Nat) : State :=
  let s := s.mpWrite s.ropeBase (leBytes 64 w)
  let s := (s.setObj 0x7005 1 (rrRound w)).setObj 0x7005 2 (rrClosed w)
  let s := (s.setObj 0x7005 3 (rrRefFp w)).setObj 0x7005 4 (rrAnchorFp w)
  (s.setObj 0x7005 5 (rrAnchorRound w)).setObj 0x7005 6 (rrThreshold w)

/-- The cursor of an engine: STEP, DONE, OUT_OFFSET and FP_PART. -/
structure RopeCursor where
  step : Nat
  done : Nat
  out : Nat
  fp : Nat
  deriving DecidableEq, Repr

def ropeCursorOf (w : Nat) : RopeCursor := ⟨fld w 255 224, fld w 223 200, fld w 199 176, fld w 175 112⟩

def RopeCursor.word (c : RopeCursor) : Nat :=
  c.step % 2 ^ 32 * 2 ^ 224 + c.done % 2 ^ 24 * 2 ^ 200 + c.out % 2 ^ 24 * 2 ^ 176 + c.fp % 2 ^ 64 * 2 ^ 112

def State.ropeCursor (s : State) (n : Nat) : RopeCursor := ropeCursorOf (leNat (s.mpRead (s.ropeCursorAt n) 32))

/-! ### Rope arrays (R324, R325) -/

def ropeRef (k : Blk) (slot : Nat) : Nat := gRopeAt k.g k.i + 65536 * slot
def ropeMom (k : Blk) (slot : Nat) : Nat := gRopeAt k.g k.i + 131072 + 65536 * slot
def ropeRes (k : Blk) (slot : Nat) : Nat := gRopeAt k.g k.i + 262144 + 65536 * slot
def ropeBaseArr (k : Blk) : Nat := gRopeAt k.g k.i + 393216
/-- Half 0 is ANCHOR_HI, half 1 is ANCHOR_LO. -/
def ropeAnchor (k : Blk) (half : Nat) : Nat := gRopeAt k.g k.i + 458752 + 32768 * half

/-- The blocks of ROPE groups, ascending. -/
def ropeBlocks (groups : List Nat) : List Blk := (allBlocks groups).filter fun k => gRope k.g

/-- The fingerprint of an F32 array of a block (R325). -/
def arrayFp (b : Nat) (xs : List Nat) : Nat :=
  ((List.range xs.length).zip xs).foldl (fun f x => (f + mix (Nat.xor x.2 (16384 * b + x.1))) % 2 ^ 64) 0

/-- High and low halves of F32 words. -/
def halves (xs : List Nat) : List Nat × List Nat := (xs.map (· / 65536), xs.map (· % 65536))

/-- The eight coded slots of a plane of 16,384 16-bit words: address, bytes and map byte of each. -/
def State.planeWrites (s : State) (va : Nat) (xs : List Nat) : List (Nat × List Byte) :=
  (List.range 8).flatMap fun i =>
    let c := compressSlot 3 (bytes2 ((xs.drop (2048 * i)).take 2048))
    [(va + 4096 * i, c.1), (s.lenMap (va + 4096 * i), leBytes 1 c.2)]

/-- The raw words of a plane, from its slots and map bytes; none where a slot fails its check. -/
def decodePlane : List (List Byte × Nat) → Option (List Nat)
  | [] => some []
  | (bs, m) :: r =>
    match decodeSlot 3 m bs, decodePlane r with
    | .ok raw, some xs => some (words2 raw ++ xs)
    | _, _ => none

/-- The reads of a plane. -/
def State.planeReads (s : State) (va : Nat) : List (Nat × Nat) :=
  (List.range 8).flatMap fun i => [(va + 4096 * i, 4096), (s.lenMap (va + 4096 * i), 1)]

/-- Slots with their map bytes, from the bytes of `planeReads`. -/
def planeSlots : List (List Byte) → List (List Byte × Nat)
  | a :: b :: r => (a, leNat b) :: planeSlots r
  | _ => []

/-- The anchor copy of a block, or the fault code: a slot that fails its check counts as unreadable. -/
def State.anchorOf (s : State) (ps : List TcEntry) (k : Blk) : Except Nat (List Nat) :=
  match s.eReads ps (s.planeReads (ropeAnchor k 0)), s.eReads ps (s.planeReads (ropeAnchor k 1)) with
  | .ok h, .ok l =>
    match decodePlane (planeSlots h), decodePlane (planeSlots l) with
    | some hs, some ls => .ok ((hs.zip ls).map fun x => x.1 * 65536 + x.2)
    | _, _ => .error 0x13
  | .error c, _ => .error c
  | _, .error c => .error c

/-- The units that a block's rope arrays and their map bytes lie in. -/
def State.ropeUnits (s : State) (k : Blk) : List Nat :=
  let map := fun half => (s.planeReads (ropeAnchor k half)).flatMap fun a => unitsOf a.1 a.2
  unitsOf (gRopeAt k.g k.i) 524288 ++ map 0 ++ map 1

/-! ### Delta streams (R330) -/

/-- `n` index gaps as positions, from position `next` on, and the bytes they take. -/
def readGaps : Nat → Nat → List Byte → Option (List Nat × Nat)
  | 0, _, _ => some ([], 0)
  | _ + 1, _, [] => none
  | n + 1, next, b :: r =>
    if b ≠ 0xFF then (readGaps n (next + b.toNat + 1) r).map fun x => ((next + b.toNat) :: x.1, x.2 + 1)
    else match r with
      | lo :: hi :: r =>
        let p := next + leNat [lo, hi]
        (readGaps n (p + 1) r).map fun x => (p :: x.1, x.2 + 3)
      | _ => none

/-- The index gaps of ascending positions. -/
def codeGaps : Nat → List Nat → List Byte
  | _, [] => []
  | next, p :: ps =>
    let g := p - next
    (if g ≤ 254 then leBytes 1 g else 0xFF :: leBytes 2 g) ++ codeGaps (p + 1) ps

/-- A block record at the head of a stream: its block, its values by position as F32, and its length. -/
def readRecord (bs : List Byte) : Option (Nat × List (Nat × Nat) × Nat) :=
  let h := leAt bs 0 8
  let count := fld h 38 24
  match readGaps count 0 (bs.drop 8) with
  | none => none
  | some (ps, len) =>
    let vals := bs.drop (8 + len)
    let v := fun i : Nat => toF32 (decodeScaled 5 (leAt vals (33 * (i / 32)) 1) (leAt vals (33 * (i / 32) + 1 + i % 32) 1))
    some (fld h 23 0, ((List.range count).zip ps).map fun x => (x.2, v x.1),
      roundUp (8 + len + 33 * ((count + 31) / 32)) 8)

/-- The records of a stream up to its end record; none without one. -/
def readStream : Nat → List Byte → Option (List (Nat × List (Nat × Nat)))
  | 0, _ => none
  | fuel + 1, bs =>
    if bs.length < 8 then none
    else if leAt bs 0 8 = 0xFFFFFF then some []
    else match readRecord bs with
      | none => none
      | some (b, xs, len) => (readStream fuel (bs.drop len)).map ((b, xs) :: ·)

/-- The end record. -/
def endRecord : List Byte := leBytes 8 0xFFFFFF

/-- A block record: positions and quantised runs. -/
def blockRecord (b : Nat) (ps : List Nat) (qs : List QBlock) : List Byte :=
  let body := leBytes 8 (b + ps.length * 2 ^ 24) ++ codeGaps 0 ps ++
    qs.flatMap fun q => BitVec.ofNat 8 q.1 :: q.2.1.map (BitVec.ofNat 8)
  body ++ List.replicate (roundUp body.length 8 - body.length) 0

/-- The key of an engine's stream of a round in the rope store (R350). -/
def streamKey (round n : Nat) : Nat := round % 8 * 32 + n
def State.ownStream (s : State) (round n : Nat) : List Byte := Tbl.get [] s.rope.streams (streamKey round n)

/-- Where a slot of a stream lies in the rope store (R350). -/
def storeSlotAt (round n slot : Nat) : Nat := ropeStore + 251658240 * (round % 8) + 7864320 * n + 4096 * slot

/-- A slot of the rope store fails its check: a codeword of it is poisoned (R360). -/
def State.storeBad (s : State) (round n slot : Nat) : Bool := s.poisoned (storeSlotAt round n slot) 4096

/-- A stream changes: the slots from the first that differs on are written whole. -/
def State.setStream (s : State) (round n : Nat) (bs : List Byte) : State :=
  let first := storeSlotAt round n (min bs.length (s.ownStream round n).length / 4096)
  let end_ := storeSlotAt round n ((bs.length + 4095) / 4096)
  { s with poison := s.poison.filter fun c => !(decide (first ≤ 64 * c) && decide (64 * c < end_)) }.setRope
    fun r => { r with streams := Tbl.set [] r.streams (streamKey round n) bs }

/-- A stream as it is read back from the store: up to the first slot that fails its check. -/
def State.readOwn (s : State) (round n : Nat) : List Byte :=
  let bs := s.ownStream round n
  match (List.range ((bs.length + 4095) / 4096)).find? (s.storeBad round n) with
  | some k => bs.take (4096 * k)
  | none => bs

/-- The coded slots of a stream, the last one padded with zeros. -/
def streamSlots (bs : List Byte) : List (List Byte) :=
  (List.range ((bs.length + 4095) / 4096)).map fun i =>
    let raw := (bs.drop (4096 * i)).take 4096
    (compressSlot 5 (raw ++ List.replicate (4096 - raw.length) 0)).1

/-- Where a received slot lies (R350). -/
def State.rxAt (s : State) (site round n slot : Nat) : Nat :=
  s.obj 0x7000 5 + ((site * 2 + round % 2) * 32 + n) * s.obj 0x7000 6 + 4096 * slot

/-- Decoded slots of a received stream, up to the first that fails its check. -/
def State.rxStream (s : State) (site round n : Nat) : Nat → Nat → List Byte
  | 0, _ => []
  | fuel + 1, slot =>
    let va := s.rxAt site round n slot
    match decodeSlot 5 (leNat (s.mpRead (s.lenMap va) 1)) (s.mpRead va 4096) with
    | .ok raw => raw ++ s.rxStream site round n fuel (slot + 1)
    | .error _ => []

/-- The records that a site sent for a round to engine `n`'s blocks; none: the stream is not whole. -/
def State.siteStream (s : State) (site round n : Nat) : Option (List (Nat × List (Nat × Nat))) :=
  let bs := if site = s.ownSite then s.readOwn round n
    else s.rxStream site round n (s.obj 0x7000 6 / 4096) 0
  readStream bs.length bs

/-! ### The values of a sweep -/

/-- What a sweep applies (R285, R327). -/
structure Sweep where
  step : Nat
  old : Nat
  v : StepVals
  roundEnd : Bool
  thr : Nat
  refSlot : Nat
  resSlot : Nat
  /-- The round that ends with a ROUND_END sweep, and the round that a SHIFT applies. -/
  round : Nat
  closed : Nat
  regroup : Bool
  members : List Nat
  carry : List Nat
  /-- c[s], and c′[s] of a regroup, by site (R344, R348). -/
  coef : List Nat
  coefD : List Nat
  deriving DecidableEq, Repr

/-- Coefficients of member sites from their weights. -/
def coefficients (members : List Nat) (w : Nat → Nat) : List Nat :=
  let sum := members.foldl (fun a x => f32Add a (w x)) 0
  (List.range 8).map fun x =>
    if members.contains x ∧ sum ≠ 0 then f32Div (w x) sum else 0

/-- The F32 of a count. -/
def f32Nat (n : Nat) : Nat := toF32 (.fin false n 0)

/-- ROUND_INFO of a site for a round as received (R333). -/
def State.infoOf (s : State) (site round : Nat) : List Byte :=
  Tbl.get [] s.rope.infos (site * 2 ^ 32 + round)

/-- Samples of a site since the anchor, as its ROUND_INFO of the round says (this module's own too, so that
every site forms the same coefficients). -/
def State.samplesOf (s : State) (site round : Nat) : Nat := leAt (s.infoOf site round) 40 8

/-- The sweep that the step record and the rope record describe. -/
def State.sweepOf (s : State) : Sweep :=
  let w := s.stepRec
  let step := recStep w
  let r := s.ropeRec
  let on := s.ropeOn
  let members := sitesOf (rrMembers r)
  { step := step
    old := (step + 2 ^ 32 - 1) % 2 ^ 32
    v := ⟨fld w 415 384, fld w 351 320, fld w 319 288, fld w 447 416, on && bitAt w 504⟩
    roundEnd := on && bitAt w 503
    thr := rrThreshold r
    refSlot := rrRefSlot r
    resSlot := rrResSlot r
    round := rrRound r
    closed := rrClosed r
    regroup := rrRegroup r
    members := members
    carry := sitesOf (rrCarry r)
    coef := coefficients members fun x => s.rope.weights.getD x 0
    coefD := coefficients members fun x => f32Nat (s.samplesOf x (rrClosed r)) }

/-! ### The outer step (R344, R345, R348) -/

/-- A value at every position, +0 where the list has none. -/
def dense : Nat → Nat → List (Nat × Nat) → List Nat
  | 0, _, _ => []
  | n + 1, p, [] => 0 :: dense n (p + 1) []
  | n + 1, p, (q, v) :: r => if q = p then v :: dense n (p + 1) r else 0 :: dense n (p + 1) ((q, v) :: r)

/-- x[s][p] of a block: what the site sent for the round, and for a site in CARRY its held values too. -/
def State.siteValues (s : State) (sw : Sweep) (site : Nat) (k : Blk) : List Nat :=
  let recs := (s.siteStream site sw.closed k.engine).getD []
  let xs := dense 16384 0 (((recs.find? (·.1 == k.b)).map (·.2)).getD [])
  match sw.carry.contains site, Tbl.get none s.rope.held site with
  | true, some h => ((List.range 16384).zip xs).map fun x => f32Add (Tbl.get 0 h.vals (16384 * k.b + x.1)) x.2
  | _, _ => xs

/-- The weighted sum over member sites, ascending. -/
def weighted (sites : List Nat) (coef : List Nat) (x : Nat → List Nat) : List Nat :=
  sites.foldl (fun acc st => (acc.zip (x st)).map fun p => f32Add p.1 (f32Mul (coef.getD st 0) p.2))
    (List.replicate 16384 0)

/-- Where a peer's difference of a rope block lies in the regroup area (R348). -/
def State.regroupAt (s : State) (site : Nat) (k : Blk) : Nat :=
  let blocks := ropeBlocks s.train.groups
  let j := (s.peerSites.filter (decide <| · < site)).length
  let i := (blocks.filter fun x => decide (x.b < k.b)).length
  s.obj 0x7000 7 + (j * blocks.length + i) * 65536

/-- g of a regroup close: the anchor and the weighted differences, in ascending site order. -/
def State.regroupRef (s : State) (ps : List TcEntry) (sw : Sweep) (k : Blk) (ref : List Nat) : Except Nat (List Nat) :=
  match s.anchorOf ps k, s.eReads ps ((sw.members.filter (· != s.ownSite)).map fun x => (s.regroupAt x k, 65536)) with
  | .ok an, .ok ds =>
    let peers := (sw.members.filter (· != s.ownSite)).zip ds
    let diff := fun x : Nat =>
      if x = s.ownSite then (ref.zip an).map fun p => f32Sub p.1 p.2
      else words4 (((peers.find? (·.1 == x)).map (·.2)).getD [])
    .ok ((an.zip (weighted sw.members sw.coefD diff)).map fun p => f32Add p.1 p.2)
  | .error c, _ => .error c
  | _, .error c => .error c

/-- The outer writes of a block; a regroup writes the anchor too. -/
def State.outerBlk (s : State) (ps : List TcEntry) (sw : Sweep) (k : Blk) : Eff :=
  let o := sw.refSlot
  match s.eReads ps [(ropeRef k o, 65536), (ropeMom k o, 65536)] with
  | .error c => (s, some c)
  | .ok [rb, mb] =>
    let a := weighted sw.members sw.coef fun x => s.siteValues sw x k
    let ref := words4 rb
    match (if sw.regroup then s.regroupRef ps sw k ref else .ok ref) with
    | .error c => (s, some c)
    | .ok r0 =>
      let m0 := if sw.regroup then List.replicate 16384 0 else words4 mb
      let mu := s.obj 0x7002 5
      let m := (m0.zip a).map fun x => f32Add (f32Mul mu x.1) x.2
      let new := (r0.zip (a.zip m)).map fun x =>
        f32Sub x.1 (f32Mul (s.obj 0x7002 4) (f32Add x.2.1 (f32Mul mu x.2.2)))
      let h := halves new
      let anchor := if sw.regroup then s.planeWrites (ropeAnchor k 0) h.1 ++ s.planeWrites (ropeAnchor k 1) h.2 else []
      (s.eWrites ps ([(ropeRef k (1 - o), bytes4 new), (ropeMom k (1 - o), bytes4 m)] ++ anchor)).andThen
        fun s => (s.countSlots anchor).ok
  | .ok _ => s.ok

/-! ### Round-end writes (R328) -/

/-- The bin of an F32 code. -/
def deltaBin (d : Nat) : Nat := fld d 30 21
def f32Finite (d : Nat) : Bool := decide (fld d 30 23 < 255)

/-- Runs of 32 of the selected values, the last padded with +0; their outcomes without the pads. -/
def quantRuns : Nat → List Nat → List QBlock
  | 0, _ => []
  | n + 1, xs =>
    match floatFmt 5 with
    | none => []
    | some f =>
      let run := xs.take 32
      let q := quantiseBlock f (List.replicate 32 .rne) ((run ++ List.replicate (32 - run.length) 0).map ofF32)
      (q.1, q.2.1, q.2.2.take run.length) :: quantRuns n (xs.drop 32)

/-- The new residuals: a listed position's own, else the value itself, or +0 where it is not finite. -/
def residuals : List (Nat × Nat) → List (Nat × Nat) → List Nat
  | [], _ => []
  | (_, d) :: r, [] => (if f32Finite d then d else 0) :: residuals r []
  | (p, d) :: r, (q, v) :: xs =>
    if p = q then v :: residuals r xs else (if f32Finite d then d else 0) :: residuals r ((q, v) :: xs)

/-- What a round end did to a block: the counts per bin. -/
abbrev BinCounts := Tbl Nat

/-- The round-end writes of a block (R328), and its values per bin. -/
def State.roundEndBlk (s : State) (ps : List TcEntry) (sw : Sweep) (k : Blk) : Eff × BinCounts :=
  let n := k.engine
  let c := if sw.v.shift then 1 - sw.refSlot else sw.refSlot
  match s.eReads ps [(ropeRef k c, 65536), (gMaster k.g k.i, 65536), (ropeRes k sw.resSlot, 65536)] with
  | .error e => ((s, some e), [])
  | .ok [rb, mb, eb] =>
    let ds := ((words4 rb).zip ((words4 mb).zip (words4 eb))).map fun x => f32Add (f32Sub x.1 x.2.1) x.2.2
    let all := (List.range 16384).zip ds
    let fin := all.filter fun x => f32Finite x.2
    let want := if s.rope.full.contains n then [] else fin.filter fun x => decide (sw.thr ≤ deltaBin x.2)
    let qs := quantRuns ((want.length + 31) / 32) (want.map (·.2))
    let stream := s.ownStream sw.round n
    let rec_ := if want.isEmpty then [] else blockRecord k.b (want.map (·.1)) qs
    let fits := decide (stream.length + rec_.length + 8 ≤ s.obj 0x7000 6)
    let sel := if fits then want else []
    let back := qs.flatMap fun q => q.2.1.map fun e => toF32 (decodeScaled 5 q.1 e)
    let res := residuals all ((sel.zip back).map fun x => (x.1.1, f32Sub x.1.2 x.2))
    let s := s.on (!fits) fun s =>
      ((s.setRope fun r => { r with full := insertAsc n r.full }).count 0x7005 0xE).log 0x7011 (domEngine n)
    let s := s.count64 0x7005 0xD (all.length - fin.length)
    let s := s.on (!sel.isEmpty) fun s => s.tallyBlocks (s.obj 0x7002 8) 5 (qs.map (·.2.2))
    let e := s.eWrites ps [(ropeBaseArr k, mb), (ropeRes k (1 - sw.resSlot), bytes4 res)]
    (e.andThen fun s => (s.on (fits && !sel.isEmpty) fun s =>
        (s.setStream sw.round n (stream ++ rec_)).setRope fun r => { r with sent := r.sent + sel.length }).ok,
      fin.foldl (fun t x => Tbl.set 0 t (deltaBin x.2) (Tbl.get 0 t (deltaBin x.2) + 1)) [])
  | .ok _ => (s.ok, [])

/-- A histogram of 1,024 U32 bins with counts added. -/
def addBins (hist : List Byte) (t : BinCounts) : List Byte :=
  bytes4 (((List.range 1024).zip (words4 hist)).map fun x => (x.2 + Tbl.get 0 t x.1) % 2 ^ 32)

/-- The rope writes of block `i` of an engine's list, between write 4 and write 5 (R327): none where the
cursor has passed the block; `skip`: its tags are faulty and only the cursor moves on. -/
def State.ropeBlk (s : State) (ps : List TcEntry) (sw : Sweep) (i : Nat) (k : Blk) (skip : Bool) : Eff :=
  let n := k.engine
  let c := s.ropeCursor n
  let mine := c.step == sw.step
  if !(sw.v.shift || sw.roundEnd) || (mine && decide (i < c.done)) then s.ok
  else
    let part := gRope k.g && !skip
    let r := if sw.roundEnd && part then s.roundEndBlk ps sw k else (s.ok, [])
    r.1.andThen fun s =>
      let fresh := if sw.v.shift && part then s.eRead ps (ropeRef k (1 - sw.refSlot)) 65536 else .ok []
      match s.eRead ps (s.histAt n c.done) 4096, fresh with
      | .ok h, .ok ref =>
        let hist := if mine then h else List.replicate 4096 0
        let fp := if sw.v.shift then (if mine then c.fp else 0) + arrayFp k.b (words4 ref) else c.fp
        s.eWrites ps [(s.histAt n (i + 1), addBins hist r.2),
          (s.ropeCursorAt n, leBytes 32 (RopeCursor.word ⟨sw.step, i + 1, (s.ownStream sw.round n).length, fp⟩))]
      | .error e, _ => (s, some e)
      | _, .error e => (s, some e)

/-! ### Threshold (R329) -/

/-- The threshold from bins `k` downward. -/
def thresholdFrom (hist : List Nat) (budget : Nat) : Nat → Nat → Nat
  | 0, _ => 1
  | k + 1, cum =>
    if budget < cum + hist.getD (k + 1) 0 then k + 2 else thresholdFrom hist budget k (cum + hist.getD (k + 1) 0)

def threshold (hist : List Nat) (budget : Nat) : Nat := thresholdFrom hist budget 1019 0

/-- ⌊ρ × N⌋ of the exact product. -/
def ropeBudget (rho n : Nat) : Nat :=
  match ofF32 rho with
  | .fin false m e => if 0 ≤ e then m * n * 2 ^ e.toNat else m * n / 2 ^ (-e).toNat
  | _ => 0

/-- The threshold of the round that ends: nothing is sent in the first. -/
def State.roundThreshold (s : State) : Nat :=
  let r := s.ropeRec
  if rrRound r = 0 ∨ rrEndUs r = 0 then 1020
  else threshold (words4 (s.mpRead s.moduleHistAt 4096))
    (ropeBudget (s.obj 0x7002 2) (16384 * (ropeBlocks s.train.groups).length))

/-! ### Slack (R346, R350) -/

def State.ropePeer (s : State) (site : Nat) : RopePeer := Tbl.get .reset s.rope.peers site
def State.setPeer (s : State) (site : Nat) (p : RopePeer) : State :=
  s.setRope fun r => { r with peers := Tbl.set .reset r.peers site p }
def State.ropeSess (s : State) (x : Nat) : RopeSess := Tbl.get .reset s.rope.sess x
def State.setSess (s : State) (x : Nat) (v : RopeSess) : State :=
  s.setRope fun r => { r with sess := Tbl.set .reset r.sess x v }
def State.mapSess (s : State) (x : Nat) (f : RopeSess → RopeSess) : State := s.setSess x (f (s.ropeSess x))

/-- Sessions toward a site. -/
def sessionsTo (site : Nat) : List Nat := (List.range 32).map (32 * site + ·)

/-- A site's session is slack. -/
def State.siteSlack (s : State) (site : Nat) : Bool :=
  (sessionsTo site).any fun x => (s.ropeSess x).state == .slack

/-- Frames that a session holds: not yet sent, or not acknowledged. -/
def RopeSess.heldFrames (v : RopeSess) : List OutFrame := v.unacked ++ v.queue

/-- A session goes slack: it drops its frames and only probes. -/
def State.goSlack (s : State) (x : Nat) : State :=
  let v := s.ropeSess x
  let site := x / 32
  if v.state = .slack then s
  else
    let lost := v.heldFrames.any fun f => f.kind == 6
    let p := s.ropePeer site
    let s := s.setPeer site { p with
      answered := false
      rekey := if lost then none else p.rekey
      rekeyDue := p.rekeyDue && !lost }
    let v := { v with
      state := .slack
      queue := []
      unacked := []
      urgent := []
      next := none
      rxHave := []
      since := none
      unreported := 0
      probedAt := some s.now }
    (s.setSess x v).log 0x7006 (domSession x) [(3, site), (5, x % 32)]

/-- A round area is written again: sessions that still need its old round go slack (R350). -/
def State.reuseArea (s : State) (round : Nat) : State :=
  if round < 8 then s
  else
    let needs := fun x => ((s.ropeSess x).heldFrames).any fun f => f.kind == 3 && f.round == round - 8
    s.each ((s.peerSites.flatMap sessionsTo).filter needs) fun s x =>
      (s.goSlack x).log 0x7010 (domSession x) [(3, x / 32), (5, x % 32)]

/-- A session's lag: ROUND less the oldest round for which it holds frames not yet acknowledged (R346). -/
def State.sessionLag (s : State) (x : Nat) : Nat :=
  let rounds := ((s.ropeSess x).heldFrames.filter fun f => f.kind == 3 || f.kind == 5).map (·.round)
  match rounds with
  | [] => 0
  | r :: rs => rrRound s.ropeRec - rs.foldl min r

end Sys2Proof.Machine
end

