-- ==== Sys2Proof/Machine/Dxp.lean ====
section
/-!
DEFINITION. DXP messages: their header, and how the module sends one on each transport (R396-R401).
-/

namespace Sys2Proof.Machine

/-- A header of R399. -/
def dxpHead (kind op abort session seq index sub offset length : Nat) (responder : Nat := 0) (type : Nat := 0)
    (multicast : Bool := false) (more : Bool := false) : BitVec 256 :=
  0x2#4 ++ BitVec.ofNat 4 kind ++ BitVec.ofNat 8 op ++ BitVec.ofNat 8 abort ++ BitVec.ofNat 16 session ++
  BitVec.ofNat 32 seq ++ BitVec.ofNat 16 index ++ BitVec.ofNat 8 sub ++ BitVec.ofNat 32 offset ++
  BitVec.ofNat 12 length ++ BitVec.ofBool multicast ++ 0#1 ++ BitVec.ofBool more ++ 0#1 ++
  BitVec.ofNat 16 responder ++ BitVec.ofNat 4 type ++ 0#92

def hVersion (w : Nat) : Nat := fld w 255 252
def hKind (w : Nat) : Nat := fld w 251 248
def hOp (w : Nat) : Nat := fld w 247 240
def hAbort (w : Nat) : Nat := fld w 239 232
def hSession (w : Nat) : Nat := fld w 231 216
def hSeq (w : Nat) : Nat := fld w 215 184
def hIndex (w : Nat) : Nat := fld w 183 168
def hSub (w : Nat) : Nat := fld w 167 160
def hOffset (w : Nat) : Nat := fld w 159 128
def hLength (w : Nat) : Nat := fld w 127 116
def hMulticast (w : Nat) : Bool := bitAt w 115
def hPersist (w : Nat) : Bool := bitAt w 114
def hMore (w : Nat) : Bool := bitAt w 113
def hResponder (w : Nat) : Nat := fld w 111 96
def hType (w : Nat) : Nat := fld w 95 92

/-- The bytes of a message. -/
def dxpBytes (h : BitVec 256) (data : List Byte) : List Byte := leBytes 32 h.toNat ++ data

def State.setDict (s : State) (f : Dict → Dict) : State := { s with dict := f s.dict }
def State.setHost (s : State) (f : HostPort → HostPort) : State := { s with host := f s.host }

/-- A MGMT packet on VC0 (R105). -/
def State.sendMgmt (s : State) (dst : Nat) (bs : List Byte) : State :=
  s.inject 0 ⟨packetHeader 6 0 s.moduleNumber dst 0 0 0 0 0 0 bs.length 0 0 0 0 0, bs⟩

/-- A message goes out on a transport (R396) to a source as R397 names it: the mailbox's response buffer, the
management port, VC0, or stripe 0 toward the site of a rope leader. -/
def State.sendDxp (s : State) (transport dest : Nat) (h : BitVec 256) (data : List Byte) : State :=
  match transport with
  | 0 => (s.setHost fun p => { p with mboxResponse := dxpBytes h data, mboxStatus := 2 }).interrupt 1
  | 1 => s.emit (.dxp 1 dest h data)
  | 2 => s.sendMgmt dest (dxpBytes h data)
  | _ => s.mapSess (32 * (dest / 65536)) fun v =>
      { v with queue := v.queue ++ [⟨0xA, 0, 0, 0, 0, dxpBytes h data, 0, 0, 0, false⟩] }

/-! ### Protection on the management port (R398) -/

/-- The bytes of a number, the highest first. -/
def beBytes (n v : Nat) : List Byte := (leBytes n v).reverse

/-- The nonce of a message: salt, dir, a zero byte, RESPONDER and SEQ. -/
def dxpNonce (salt : List Byte) (dir : Byte) (w : Nat) : List Byte :=
  salt ++ [dir, 0] ++ leBytes 2 (hResponder w) ++ beBytes 4 (hSeq w)

/-- Key and salt of a direction (32 and 4 bytes) protect a message: ciphertext and tag. -/
def dxpSeal (key : List Byte) (dir : Byte) (h : BitVec 256) (data : List Byte) : List Byte :=
  let r := Config.gcmSeal (key.take 32) (dxpNonce (key.drop 32) dir h.toNat) (leBytes 32 h.toNat) data
  r.1 ++ r.2

/-- A protected message is opened; none: its tag fails. -/
def dxpOpen (key : List Byte) (dir : Byte) (h : BitVec 256) (bs : List Byte) : Option (List Byte) :=
  let n := bs.length - 16
  if bs.length < 16 then none
  else Config.gcmOpen (key.take 32) (dxpNonce (key.drop 32) dir h.toNat) (leBytes 32 h.toNat) (bs.take n) (bs.drop n)

/-- A message of the module goes out in a session. -/
def State.sendSession (s : State) (v : Session) (h : BitVec 256) (data : List Byte) : State :=
  s.sendDxp v.transport v.source h (if v.transport = 1 then dxpSeal v.keyOut 1 h data else data)

/-! ### Streams of cairn records (R441) -/

/-- The record passes a stream's selector. -/
def Stream.takes (m : Stream) (r : BitVec 256) : Bool :=
  decide (m.minSeverity ≤ fld r.toNat 251 250) && bitAt m.mask (fld r.toNat 247 244)

/-- Records that a message carries. -/
def streamRoom (transport : Nat) : Nat := if transport = 1 then 36 else 127

/-- The SEQ `n` records before `seq`, and the one after it. -/
def seqBefore (seq n : Nat) : Nat := (seq + 2 ^ 32 - n) % 2 ^ 32
def seqAfter (seq : Nat) : Nat := (seq + 1) % 2 ^ 32

/-- The records still in the ring from SEQ `next` on, oldest first. -/
def State.recordsFrom (s : State) (next : Nat) : List (BitVec 256) :=
  (s.faults.ring.take (seqBefore (s.obj 0x9004 2) next)).reverse

/-- The ring, of `held` records, has lost some that the subscription has not looked at. -/
def Stream.gap (m : Stream) (seq held : Nat) : Bool := decide (held < seqBefore seq m.next)

/-- A subscription is written, or ended. -/
def State.setSubscription (s : State) (n : Nat) (x : Option Stream) : State :=
  { s with faults := { s.faults with streams := Tbl.set none s.faults.streams n x } }

/-- A stream sends its pending records, as many as one message carries.  One that has fallen a whole ring
behind skips to the oldest record. -/
def State.streamSend (s : State) (n : Nat) : State :=
  match Tbl.get none s.faults.streams n with
  | none => s
  | some m =>
    match s.dict.sessions.find? (·.number == m.session) with
    | none => s
    | some v =>
      let seq := s.obj 0x9004 2
      let gap := m.gap seq s.faults.ring.length
      let next := if gap then seqBefore seq s.faults.ring.length else m.next
      let s := s.on gap fun s => (s.count 0x9004 5).log 0x9012
      let rs := s.recordsFrom next
      let wanted := (rs.filter m.takes).take (streamRoom v.transport)
      let last := match wanted.getLast? with
        | some r => if (rs.filter m.takes).length ≤ wanted.length then s.obj 0x9004 2 else seqAfter (fld r.toNat 231 200)
        | none => s.obj 0x9004 2
      let s := s.setSubscription n (some { m with next := last })
      if wanted.isEmpty then s
      else
        let data := wanted.flatMap fun r => leBytes 32 r.toNat
        s.sendSession v (dxpHead 4 7 0 v.number m.request 0 0 0 data.length s.moduleNumber) data

def State.streamAll (s : State) : State := s.each (List.range 4) State.streamSend

/-- CAIRN_STREAM_SEND. -/
def execCairnStreamSend (stream : Fin 4) (s : State) : Host.Outcome State Fault Refusal :=
  act s (·.streamSend stream)

/-! ### Requests that this module makes over VC0 (R401) -/

/-- A request is sent and kept until it is answered. -/
def State.ownRequest (s : State) (dst : Nat) (session : Option Nat) (op index sub offset length : Nat)
    (data : List Byte) : State :=
  let seq := s.dict.ownSeq
  let h := match session with
    | none => dxpHead 1 0 0 0 seq 0 0 0 data.length
    | some x => dxpHead 3 op 0 x seq index sub offset length
  let r : OwnRequest := ⟨seq, dst, session, h, data, 1, s.now⟩
  (s.setDict fun d => { d with ownSeq := (seq + 1) % 2 ^ 32, ownRequests := d.ownRequests ++ [r] }).sendMgmt dst
    (dxpBytes h data)

/-- A HELLO that asks for read access. -/
def State.ownHello (s : State) (dst : Nat) : State :=
  s.ownRequest dst none 0 0 0 0 0 ([2, 2, 0] ++ List.replicate 13 0)

def State.dropOwn (s : State) (seq : Nat) : State :=
  s.setDict fun d => { d with ownRequests := d.ownRequests.filter (·.seq != seq) }

end Sys2Proof.Machine
end

