-- ==== Sys2Proof/Machine/HoldCmds.lean ====
section
/-!
DEFINITION. The commands of the hall hold (R82-R88).
-/

namespace Sys2Proof.Machine

def State.setSupply (s : State) (f : Supply → Supply) : State := { s with supply := f s.supply }

/-- The load cut is in force: frames gate at their next tile boundary (R151, R384). -/
def State.applyCut (s : State) : State := s.setSupply fun p => { p with cut := true, cutPending := false }

/-- Timed work stops (R84); a cut that waits for the hold tick is applied (R384). -/
def State.enterHold (s : State) : State :=
  let s := (s.setHold fun h => { h with held := true }).log 0x2013
  s.on s.supply.cutPending State.applyCut

/-- A discarded hold or resume message (R82). -/
def State.discardMessage (s : State) : State := (s.count 0x6000 7).log 0x600A (domDie 4)

/-- HOLD (R83, R85, R86): the packet that carries it leaves its buffer at once (R119); it is checked, flooded once, merged;
after its tick it stops the module at once. -/
def State.receiveHold (s : State) (l w : Nat) : State :=
  let s := s.owe (l / 32) (l % 32) 0 2
  if !holdMessageOk w 1 then s.discardMessage
  else
    let origin := fld w 247 232
    let seq := fld w 231 216
    let tick := fld w 199 136
    let (first, s) := s.firstSeen origin seq 1
    if !first then s
    else
      let s := s.flood (BitVec.ofNat 256 w) (some l)
      let held := s.hold.held
      let late := decide (tick < s.now) && (!held || s.hold.tick.any (tick < ·))
      let s := s.setHold (·.join ⟨origin, seq, fld w 215 208⟩ tick)
      let s := s.on late fun s => (s.log 0x2015).schedFault
      s.on (late && !held) State.enterHold

def execHold (link : Link) (msg : BitVec 256) (s : State) : Host.Outcome State Fault Refusal :=
  act s (·.receiveHold link msg.toNat)

/-- RESUME (R85, R87): checked, flooded once, counted for its identity or kept. -/
def State.receiveResume (s : State) (l w : Nat) : State :=
  let s := s.owe (l / 32) (l % 32) 0 2
  if !holdMessageOk w 2 then s.discardMessage
  else
    let origin := fld w 247 232
    let seq := fld w 231 216
    let m : ResumeMsg := ⟨origin, seq, fld w 199 136, (msgLost w).take (fld w 207 200)⟩
    let (first, s) := s.firstSeen origin seq 2
    if !first then s
    else
      let s := s.flood (BitVec.ofNat 256 w) (some l)
      if s.hold.joined.any fun i => i.origin == origin && i.seq == seq then
        s.setHold fun h => { h with resumes := h.resumes ++ [m] }
      else s.setHold fun h => { h with kept := h.kept ++ [(m, s.now)] }

def execResume (link : Link) (msg : BitVec 256) (s : State) : Host.Outcome State Fault Refusal :=
  act s (·.receiveResume link msg.toNat)

/-- HOLD_TICK (R84). -/
def execHoldTick (s : State) : Host.Outcome State Fault Refusal :=
  act s fun s =>
    match s.hold.tick with
    | some t => if s.hold.held then s else (s.reach t).enterHold
    | none => s

/-- RESUME messages in ascending order of their ticks, equal ticks in the order taken in. -/
def insertResume (r : ResumeMsg) : List ResumeMsg → List ResumeMsg
  | [] => [r]
  | x :: xs => if r.tick ≤ x.tick then r :: x :: xs else x :: insertResume r xs

/-- The links that RESUME messages name, in the order of their ticks, each once. -/
def namedLinks (h : HallHold) : List Nat :=
  let rs := h.resumes.foldr insertResume []
  (rs.flatMap (·.lost)).foldl (fun ls x => if ls.contains x || h.lost.contains x then ls else ls ++ [x]) []

/-- The lost links of the RESUME messages enter the set, all or none (R87, R88). -/
def State.enterLost (s : State) : State :=
  let new := namedLinks s.hold
  if new.isEmpty then s
  else if 64 < s.hold.lost.length + new.length then s.unplanned
  else
    let s := (s.setHold fun h => { h with lost := h.lost ++ new }).log 0x2016
    s.checkLoss

/-- The next hold after a resume, if one already waits. -/
def HallHold.nextHold (h : HallHold) : HallHold :=
  match h.later with
  | [] => { h with tick := none, joined := [], resumes := [] }
  | (i, t) :: rest =>
    rest.foldl (fun h x => h.join x.1 x.2)
      ({ h with tick := some t, joined := [i], resumes := [], later := [] }.takeKept i)

/-- Every recovery whose hold has ended logs event 0x9003 with the hold length (R423). -/
def State.recoveriesEnd (s : State) (length : Nat) : State :=
  s.each (s.faults.recovery.filterMap fun e =>
      match e.2 with
      | some r => if s.hold.own.any (·.1 == r.holdSeq) then none else some e.1
      | none => none)
    fun s c =>
      let s := { s with faults := { s.faults with recovery := Tbl.set none s.faults.recovery c none } }
      s.log 0x9003 (domCore c) [(48, length)]

/-- The records of the power manager carry INPUT_V, INPUT_P and BANK_ENERGY (R390). -/
def State.powerItems (s : State) : List (Nat × Nat) :=
  [(32, s.supply.mv), (32, (s.supply.samples.getD 0 0) / 1000), (32, s.supply.bank)]

/-- A resume at which the draw held before lies below the envelope (R380): the step is logged, and the largest
kept. -/
def State.resumeStep (s : State) : State :=
  let draw := s.supply.samples.getD 0 0
  let step := (s.supply.envelope - draw) / 1000
  if s.tt.active.isNone ∨ step = 0 then s
  else
    let s := s.log 0x300E 0 (s.powerItems ++ [(32, step)])
    s.on (decide (s.obj 0x3003 7 < step)) (·.setObj 0x3003 7 (min step 65535))

/-- RESUME_TICK (R85): at the latest resume tick HOLD_OFFSET grows by the hold length, counted from the
job's first bank activation (R60), and everything goes on. -/
def State.resumeHall (s : State) : State :=
  match s.hold.tick with
  | none => s
  | some t0 =>
    if !s.hold.held || !s.hold.allResumed then s
    else
      let t := s.hold.resumeTick
      let s := s.reach t
      let len := t - t0
      let s := s.enterLost
      let grow := if s.tt.active.isSome then len else 0
      let s := s.setHold fun h =>
        { h.nextHold with held := false, offset := h.offset + grow, lastLength := len, endedAt := t }
      let s := ((s.log 0x2014).recoveriesEnd len).resumeStep
      s.on (s.tt.switch.isSome && decide (s.obj 0x2010 8 ≤ s.sched)) State.switchBank

def execResumeTick (s : State) : Host.Outcome State Fault Refusal := act s State.resumeHall

/-- HOLD_LIMIT_EXPIRE (R86). -/
def execHoldLimitExpire (s : State) : Host.Outcome State Fault Refusal :=
  act s fun s =>
    match s.hold.held, s.hold.tick with
    | true, some t =>
      (((s.reach (t + 1000 * s.obj 0x2013 6)).faultCount 0x11).log 0x9009).jobFail 0x11
    | _, _ => s

/-- KEPT_RESUME_EXPIRE (R85). -/
def execKeptResumeExpire (origin seq : BitVec 16) (s : State) : Host.Outcome State Fault Refusal :=
  act s fun s =>
    match s.hold.kept.find? fun r => r.1.origin == origin.toNat && r.1.seq == seq.toNat with
    | some r => (s.reach (r.2 + 1000 * s.obj 0x2013 6)).setHold fun h => { h with kept := h.kept.erase r }
    | none => s

end Sys2Proof.Machine
end

