-- ==== Sys2Proof/Machine/Memory.lean ====
section
/-!
DEFINITION. Memory stacks: error counts, retirement, migration and the stack reset (R360-R368).
-/

namespace Sys2Proof.Machine

/-! ### Retirement (R362-R364) -/

/-- Retired pseudo-channels of region `d`: R_d. -/
def State.retiredIn (s : State) (d : Nat) : Nat := (s.memctl.retired.filter (· / 512 == d)).length

/-- Pseudo-channels of region `d`'s span in force. -/
def State.spanOf (s : State) (d : Nat) : Nat := Tbl.get 0 s.spans d

/-- Units of a retired pseudo-channel that its migration copies: those outside the span. -/
def State.migrationUnits (s : State) (p : Nat) : Nat :=
  let d := p / 512
  let n := s.spanOf d
  393216 - (if s.interleave d = 2 then (if p / 64 % 8 = 7 then 6144 * n else 0) else 768 * n)

/-- The retirement of a pseudo-channel takes effect: its units migrate (R364). -/
def State.migrate (s : State) (p : Nat) : State :=
  (s.setPc p { s.pcErr p with state := 2 }).setMem fun m => { m with migrating := m.migrating ++ [p] }

/-- A migration is complete: event 0x5005. -/
def State.migrated (s : State) (p : Nat) : State :=
  ((s.setPc p { s.pcErr p with state := 3 }).setMem fun m => { m with migrating := m.migrating.erase p }).logPc
    0x5005 p none

/-- A pseudo-channel is permanent (R362): event 0x5004; within the limits its retirement takes effect where
the span in force allows it, and waits for the next job load otherwise. -/
def State.pcPermanent (s : State) (p : Nat) : State :=
  if s.memctl.retired.contains p then s
  else
    let s := (s.setMem fun m => { m with retired := insertAsc p m.retired }).logPc 0x5004 p none
    let s := s.log 0x9008 (domStack (p / 64)) [(5, p / 64), (5, p / 2 % 32), (1, p % 2)]
    let d := p / 512
    let s :=
      if s.retiredIn d ≤ s.spanOf d then s.migrate p
      else (s.setPc p { s.pcErr p with state := 1 }).logPc 0x5006 p none
    if 4 < s.retiredIn d ∨ 8 < s.memctl.retired.length then (s.logPc 0x5007 p none).outOfService 0x5007
    else s

/-- RETIRE_WINDOW in ns. -/
def State.retireWindow (s : State) : Nat := 1000000000 * s.obj 0x5000 0xA

/-- Counts of a pseudo-channel within the window. -/
def State.windowCount (s : State) (p : Nat) (xs : List (Nat × Nat)) : Nat :=
  (xs.filter fun x => x.1 == p && decide (s.now < x.2 + s.retireWindow)).length

/-- The thresholds of R362. -/
def State.judgePc (s : State) (p : Nat) : State :=
  if s.obj 0x5000 8 ≤ s.windowCount p s.memctl.retries ∨ s.obj 0x5000 9 ≤ s.windowCount p s.memctl.corrections
  then s.pcPermanent p else s

/-- A correction is counted (R360). -/
def State.countCorrected (s : State) (p : Nat) : State :=
  let v := s.pcErr p
  (s.setPc p { v with corrected := (v.corrected + 1) % 2 ^ 32 }).setMem fun m =>
    { m with corrections := (p, s.now) :: m.corrections }

/-- A retry that succeeded is counted; event 0x5001, at most once a second (R368). -/
def State.countRetried (s : State) (p a : Nat) : State :=
  let v := s.pcErr p
  let due := match v.loggedAt with
    | some t => decide (t + 1000000000 ≤ s.now)
    | none => true
  let v := { v with retried := (v.retried + 1) % 2 ^ 32, loggedAt := if due then some s.now else v.loggedAt }
  let s := (s.setPc p v).setMem fun m => { m with retries := (p, s.now) :: m.retries }
  s.on due (·.logPc 0x5001 p (some a))

/-- A codeword is poisoned: event 0x5002; a poisoning counts as a retry toward retirement (R362). -/
def State.poisonCodeword (s : State) (p a : Nat) : State :=
  let v := s.pcErr p
  let s := ((s.poisonAt a).setPc p { v with poisoned := (v.poisoned + 1) % 2 ^ 32 }).setMem fun m =>
    { m with retries := (p, s.now) :: m.retries }
  s.logPc 0x5002 p (some (a / 64 * 64))

/-- The address is populated, and its memory runs: not in self-refresh (R355). -/
def State.memoryRuns (s : State) (a : Nat) : Bool := decide (a < memTop) && s.kind != 6

/-- MEMORY_RETRY (R360): the retries of a codeword end. -/
def execMemoryRetry (a : BitVec 41) (outcome : RetryOutcome) (s : State) : Host.Outcome State Fault Refusal :=
  act s fun s =>
    let a := a.toNat
    if !s.memoryRuns a then s
    else
      let p := (s.locate a).1
      let s := match outcome with
        | .clean => s.countRetried p a
        | .corrected => (s.countRetried p a).countCorrected p
        | .uncorrectable => s.poisonCodeword p a
      s.judgePc p

/-- The 64 bytes of a codeword are free: an error beyond what the code detects (R360). -/
def State.freeCodeword (s : State) (a : Nat) : State :=
  s.each (List.range 64) fun s i =>
    let (v, s) := s.draw
    { s with mem := Tbl.set 0 s.mem (a / 64 * 64 + i) (BitVec.ofNat 8 v) }

/-- SCRUB_READ (R361): one access reads, corrects or poisons.  More than five symbols in error may go
undetected, and then the codeword's value is free.  With the last codeword of a controller its pass ends. -/
def execScrubRead (a : BitVec 41) (symbols : Nat) (s : State) : Host.Outcome State Fault Refusal :=
  act s fun s =>
    let a := a.toNat
    if !s.memoryRuns a then s
    else
      let l := s.locate a
      let p := l.1
      let s :=
        if symbols = 0 then s
        else if symbols ≤ 3 then (s.countCorrected p).judgePc p
        else if symbols ≤ 5 then (s.poisonCodeword p a).judgePc p
        else
          let (n, s) := s.draw
          if n.testBit 0 then (s.poisonCodeword p a).judgePc p else s.freeCodeword a
      s.on (p % 2 == 1 && l.2 / 64 == 393216 * 32 - 1) (·.logPc 0x5009 p none)

/-- MIGRATION_COMPLETE (R364): the oldest copy ends; it pauses in module bivouac. -/
def execMigrationComplete (s : State) : Host.Outcome State Fault Refusal :=
  act s fun s =>
    match s.memctl.migrating with
    | p :: _ => if s.kind = 6 then s else s.migrated p
    | [] => s

/-! ### Training and the stack reset (R362, R365) -/

/-- A stack ends its training; the pseudo-channels that failed it are permanent, and with all of them the
stack has failed. -/
def State.trainStack (s : State) (n : Nat) (bad : List Nat) : State :=
  let mine := bad.filter (· / 64 == n)
  let s := s.each mine State.pcPermanent
  if (List.range 64).all fun i => mine.contains (64 * n + i) then
    let s := s.setMem fun m => { m with trained := m.trained.erase n, failed := insertAsc n m.failed }
    (s.log 0x5008 (domStack n) [(5, n)]).outOfService 0x5008
  else s.setMem fun m => { m with trained := insertAsc n m.trained }

/-- The reset of R365, within the hold that the management processor originates for it. -/
def State.stackReset (s : State) (n : Nat) (bad : List Nat) : State :=
  let (seq, s) := (s.faultCount 8).originateHold 8
  let tick := s.hold.tick.getD s.now
  let s := if s.hold.held then s else (s.reach tick).enterHold
  let s := (s.reach (tick + s.obj 0x2013 2 + 100)).releaseHolds (domStack n)
  let s := (s.log 0x500A (domStack n) [(5, n)]).log 0x9002 (domStack n) [(16, domStack n), (8, 8)]
  (s.trainStack n bad).originateResume seq

/-- MEMORY_STACK_RESET: a counted reset (R434). -/
def execMemoryStackReset (stack : Stack) (failed : List PseudoChan) (s : State) :
    Host.Outcome State Fault Refusal :=
  act s fun s => if s.kind = 6 then s else s.countedReset (·.stackReset stack (failed.map (·.val)))

end Sys2Proof.Machine
end

