-- ==== Sys2Proof/Machine/Plan.lean ====
section
/-!
DEFINITION. The power plan: its checks and its envelope (R376-R378).
-/

namespace Sys2Proof.Machine

/-! ### The plan in memory (R376) -/

/-- An entry: OFFSET (ns), DRAW (W), FRAMES_FREE. -/
structure PlanEntry where
  offset : Nat
  draw : Nat
  free : Nat
  deriving DecidableEq, Repr

def planEntryOf (w : Nat) : PlanEntry := ⟨fld w 63 32, fld w 31 16, fld w 15 6⟩

def State.planBase (s : State) (b : Nat) : Nat := s.obj 0x3002 (5 + b)
def State.planCount (s : State) (b : Nat) : Nat := s.obj 0x3002 (7 + b)

/-- The entries of bank `b`'s plan. -/
def State.planEntries (s : State) (b : Nat) : List PlanEntry :=
  (List.range (s.planCount b)).map fun i => planEntryOf (s.readNat (s.planBase b + 64 + 8 * i) 8)

/-! ### The ramp envelope (R377) -/

/-- Distance from `t` to the closed interval [lo, hi] within a period, in either direction round it. -/
def ringDistance (period lo hi t : Nat) : Nat :=
  if lo ≤ t ∧ t ≤ hi then 0
  else
    let after := if hi < t then t - hi else t + period - hi
    let before := if t < lo then lo - t else lo + period - t
    min after before

/-- The intervals of a plan: start, end and draw.  Before the first OFFSET the last entry holds. -/
def planSpans (period : Nat) (es : List PlanEntry) : List (Nat × Nat × Nat) :=
  match es.head?, es.getLast? with
  | some f, some l =>
    (if f.offset = 0 then [] else [(0, f.offset, l.draw)]) ++
    (es.zip ((es.drop 1).map (·.offset) ++ [period])).map fun p => (p.1.offset, p.2, p.1.draw)
  | _, _ => []

/-- E_r(t) in µW: the highest draw less RAMP_LIMIT for the distance to it, 1 W/ms being 1 µW/ns. -/
def rampEnvelope (period ramp : Nat) (spans : List (Nat × Nat × Nat)) (t : Nat) : Int :=
  spans.foldl (fun m x => max m ((x.2.2 * 1000000 : Nat) - (ramp * ringDistance period x.1 x.2.1 t : Nat) : Int)) 0

/-- Ballast capacity of `frames` frames at `mhz`, in units of 1/10,500 W: 1.2 W × f/1.05 each. -/
def ballastUnits (frames mhz : Nat) : Nat := frames * 12 * mhz

/-- E_r − P ≤ c at an end of an entry's interval. -/
def rampOk (period ramp mhz : Nat) (spans : List (Nat × Nat × Nat)) (e : PlanEntry) (t : Nat) : Bool :=
  decide ((rampEnvelope period ramp spans t - (e.draw * 1000000 : Nat)) * 10500 ≤
    ((ballastUnits e.free mhz * 1000000 : Nat) : Int))

/-- Check 3 for entry number `i`: the excess is a convex function within the interval, so its ends decide. -/
def rampCheck (period ramp mhz : Nat) (es : List PlanEntry) (i : Nat) : Bool :=
  let spans := planSpans period es
  match es[i]? with
  | none => true
  | some e =>
    let stop := match es[i + 1]? with | some n => n.offset | none => period
    let wrap := match es.head? with | some f => f.offset | none => 0
    rampOk period ramp mhz spans e e.offset && rampOk period ramp mhz spans e stop &&
    (i + 1 != es.length || wrap == 0 || (rampOk period ramp mhz spans e 0 && rampOk period ramp mhz spans e wrap))

/-! ### The checks (R377) -/

/-- The header passes check 1. -/
def State.planHeaderOk (s : State) (b : Nat) : Bool :=
  let w := s.readNat (s.planBase b) 64
  let n := s.planCount b
  decide (1 ≤ n) && s.visible (s.planBase b) (64 + 8 * n) && !s.poisoned (s.planBase b) (64 + 8 * n) &&
  decide (fld w 511 508 = 2) && decide (fld w 507 496 = 0) && decide (fld w 495 480 = n) &&
  decide (n ≤ 4096) && decide (fld w 479 464 = s.job.clockMhz) && decide (fld w 463 0 = 0)

/-- Entry `i` passes check 1. -/
def State.planEntryOk (s : State) (b i : Nat) : Bool :=
  let w := s.readNat (s.planBase b + 64 + 8 * i) 8
  let e := planEntryOf w
  let before := s.readNat (s.planBase b + 64 + 8 * (i - 1)) 8
  decide (fld w 5 0 = 0) && decide (e.free ≤ 768) && decide (e.offset < s.bankPeriod b) &&
  (i == 0 || decide ((planEntryOf before).offset < e.offset))

/-- The first failure of the plan check: check and entry, 0xFFFF_FFFF for the header. -/
def State.planCheck (s : State) (b : Nat) : Option (Nat × Nat) :=
  if !s.planHeaderOk b then some (1, 0xFFFFFFFF)
  else
    let ns := List.range (s.planCount b)
    let es := s.planEntries b
    match ns.find? fun i => !s.planEntryOk b i with
    | some i => some (1, i)
    | none => match ns.find? fun i => match es[i]? with
        | some e => decide (s.obj 0x3002 1 < e.draw)
        | none => false with
      | some i => some (2, i)
      | none => (ns.find? fun i =>
          !rampCheck (s.bankPeriod b) (s.obj 0x3003 1) s.job.clockMhz es i).map fun i => (3, i)

/-- PLAN_STATUS (R495). -/
def planStatus (b : Nat) : Option (Nat × Nat) → List Byte
  | none => leBytes 8 0
  | some (check, i) => [BitVec.ofNat 8 check, BitVec.ofNat 8 b, 0, 0] ++ leBytes 4 i

/-- A bank's load check and plan check; one that passes both is armed, and its patterns are copied (R63). -/
def State.checkBank (s : State) (b : Nat) : State × Option (Nat × Nat × Nat) × Option (Nat × Nat) :=
  let l := s.loadCheck b
  let p := s.planCheck b
  let s := (s.setRec 0x2010 0xA (loadStatus b l)).setRec 0x3002 9 (planStatus b p)
  let s := s.on p.isSome fun s => s.log 0x300B 0 s.powerItems
  if l.isNone ∧ p.isNone then ((s.copyPatterns b).setArmed b true, none, none) else (s.setArmed b false, l, p)

/-! ### The working envelope (R378) -/

/-- E_r(t) of the active bank's plan, in mW; none with no bank active. -/
def State.rampNow (s : State) : Option Nat :=
  match s.tt.active with
  | none => none
  | some b =>
    let period := s.bankPeriod b
    let t := if period = 0 then 0 else (s.sched - s.tt.origin) % period
    some ((rampEnvelope period (s.obj 0x3003 1) (planSpans period (s.planEntries b)) t).toNat / 1000)

/-- Frames that ballast runs on: those of clocked cores with no pass in the frames or the queue, and no gate (R151). -/
def State.freeFrames (s : State) : Nat :=
  4 * ((List.range 192).filter fun c =>
    (s.core c).running.isNone && (s.core c).passQ.isEmpty && !(s.core c).gated && (s.core c).power == .awake && !s.faults.diesDown.contains (c / 48)).length

/-- Capacity of the free frames in mW. -/
def State.ballastRoom (s : State) : Nat := ballastUnits s.freeFrames s.job.clockMhz * 1000 / 10500

/-- Latest sample of input power, in mW. -/
def State.drawNow (s : State) : Nat := s.supply.samples.getD 0 0

/-- The mean of the latest `n` samples, in mW (R388). -/
def State.drawMean (s : State) (n : Nat) : Nat :=
  let xs := s.supply.samples.take n
  if xs.isEmpty then 0 else xs.foldl (· + ·) 0 / xs.length

end Sys2Proof.Machine
end

