-- ==== Sys2Proof/Machine/Power.lean ====
section
/-!
DEFINITION. The power manager, the supply, the thermal monitor and the clocks (R369-R390, R489).
-/

namespace Sys2Proof.Machine

/-! ### Power failure (R387) -/

/-- What a loss of power leaves: the flash (R404, R422, R459), and what has been sent. -/
def State.flashOnly (s : State) : State :=
  { State.reset with
    pending := s.pending
    out := s.out
    drawn := s.drawn
    dict := { Dict.reset with
      base := s.dict.base
      baseRecs := s.dict.baseRecs
      camps := s.dict.camps }
    memctl := { MemCtl.reset with retired := s.memctl.retired }
    boot := { Boot.reset with
      activeFirst := s.boot.activeFirst
      activeBundle := s.boot.activeBundle
      trialBundle := s.boot.trialBundle
      otherBundle := s.boot.otherBundle
      count := s.boot.count
      images := s.boot.images
      floors := s.boot.floors } }

/-- Event 0x3007 is logged and streamed, and every domain stops. -/
def State.powerFail (s : State) : State :=
  let s := (s.log 0x3007 0 s.powerItems).streamAll.flashOnly
  { s with down := true, boot := { s.boot with good := false } }

/-! ### The load cut (R381, R384, R385) -/

/-- A hold for the cut: with a bank active one is originated, and the cut waits for its tick; with the hall
held already, or with no bank active, the cut applies at once. The SEQ of the hold. -/
def State.takeCut (s : State) (cause : Nat) : Option Nat × State :=
  let s := s.faultCount cause
  if s.tt.active.isNone then (none, s.applyCut)
  else
    let held := s.hold.held
    let (seq, s) := s.originateHold cause
    (some seq, if held then s.applyCut else s.setSupply fun p => { p with cutPending := true })

/-- A brace starts (R384). -/
def State.startBrace (s : State) : State :=
  let s := s.alerting fun s => s.setSupply fun p => { p with brace := true, ballast := 0, restoring := false }
  let s := (s.count 0x3001 8).log 0x3003 0 s.powerItems
  let (seq, s) := s.takeCut 7
  s.setSupply fun p => { p with holdSeq := seq }

/-- A governor trip (R381): 0 for the input power, else the sensor's number. A trip during a brace, or with
the governor's cut in force, has no further effect. -/
def State.governorTrip (s : State) (cause : Nat) : State :=
  if s.supply.brace ∨ s.supply.governor then s
  else
    let s := s.alerting fun s => s.setSupply fun p =>
      { p with governor := true, ballast := 0, restoring := false, clearSince := none, trips := s.now :: p.trips }
    let s := (s.count 0x3002 4).log 0x300A 0 (s.powerItems ++ [(8, cause)])
    let (seq, s) := s.takeCut 0x0D
    let s := s.setSupply fun p => { p with govSeq := seq }
    let recent := (s.supply.trips.filter fun t => decide (s.now < t + 600000000000)).length
    s.on (decide (3 ≤ recent)) (·.jobFail 0x0D)

/-- A cut lifts unless another cause still holds it; the draw rises again (R385). -/
def State.liftCut (s : State) : State :=
  s.setSupply fun p =>
    if p.brace || p.governor then p
    else { p with cut := false, cutPending := false, restoring := p.holdSeq.isSome || p.govSeq.isSome }

/-! ### Samples (R388) -/

/-- The governor's cause is absent: the mean is within its limit and no sensor is tripped. -/
def State.causeClear (s : State) : Bool :=
  decide (s.drawMean (s.obj 0x3002 3) ≤ 1000 * s.obj 0x3002 2) && s.supply.tripped.isEmpty

def State.noteClear (s : State) : State :=
  let c := s.causeClear
  s.setSupply fun p => { p with clearSince := if c then p.clearSince.orElse fun _ => some s.now else none }

/-- Since when a condition has held. -/
def since (now : Nat) (c : Bool) (old : Option Nat) : Option Nat :=
  if c then old.orElse fun _ => some now else none

/-- The values of a sample, at their resolution of 10 mV and 10 mA. -/
def State.takeSample (s : State) (mv ma bank : Nat) (loads : List Nat) : State :=
  let mv := mv / 10 * 10
  let ma := ma / 10 * 10
  let p := mv * ma / 1000
  let now := s.now
  let low := s.obj 0x3001 1
  let release := s.obj 0x3001 3
  s.setSupply fun u => { u with
    mv := mv
    ma := ma
    bank := bank
    samples := (p :: u.samples).take 1000
    peak := max u.peak p
    energy := u.energy + p
    loads := if loads.isEmpty then u.loads else loads
    belowSince := since now (decide (mv < low)) u.belowSince
    releaseSince := since now (decide (release ≤ mv)) u.releaseSince
    overSince := since now (decide (60000 < mv)) u.overSince
    okSince := since now (decide (mv ≤ 60000)) u.okSince }

/-- Low line and surge, each logged as it begins (R382). -/
def State.judgeLine (s : State) : State :=
  let u := s.supply
  let low := decide (44000 ≤ u.mv) && decide (u.mv < 48000)
  let surge := decide (60000 < u.mv) && decide (u.mv ≤ 80000)
  let s := s.on (low && !u.lowLine) fun s => s.log 0x3001 0 s.powerItems
  let s := s.on (surge && !u.surge) fun s => s.log 0x3005 0 s.powerItems
  s.alerting fun s => s.setSupply fun p => { p with lowLine := low, surge := surge }

/-- A dip that ends before a brace has started is ridden through (R383). -/
def State.endDip (s : State) : State :=
  if s.supply.dip ∧ s.supply.connected ∧ s.obj 0x3001 1 ≤ s.supply.mv then
    let brace := s.supply.brace
    let s := s.setSupply fun p => { p with dip := false, lowBank := false }
    s.on (!brace) fun s => (s.count 0x3001 7).log 0x3002 0 s.powerItems
  else s

/-- POWER_SAMPLE: every 1 µs. -/
def execPowerSample (mv ma bank : Nat) (loads : List Nat) (s : State) : Host.Outcome State Fault Refusal :=
  act s fun s =>
    let s := ((s.takeSample mv ma bank loads).judgeLine).endDip
    let s := s.noteClear
    s.on (decide (1000 * s.obj 0x3002 2 < s.drawMean (s.obj 0x3002 3))) (·.governorTrip 0)

/-- DIP_DECLARE: the input has stayed below BRACE_V for 1 µs. -/
def execDipDeclare (s : State) : Host.Outcome State Fault Refusal :=
  act s fun s =>
    match s.supply.belowSince with
    | none => s
    | some t =>
      if s.supply.dip then s
      else (s.reach (t + 1000)).alerting fun s => s.setSupply fun p =>
        { p with dip := true, lowBank := decide (p.bank < 2800) }

/-- BRACE_START: the dip lasts longer than BRACE_DELAY, or began on a low bank. -/
def execBraceStart (s : State) : Host.Outcome State Fault Refusal :=
  act s fun s =>
    if !s.supply.dip || s.supply.brace then s
    else
      let t := s.supply.belowSince.getD s.now
      (if s.supply.lowBank then s else s.reach (t + 1000 * s.obj 0x3001 2)).startBrace

/-- BRACE_RELEASE: the input has stayed at or above BRACE_RELEASE_V for BRACE_RELEASE_TIME. -/
def execBraceRelease (s : State) : Host.Outcome State Fault Refusal :=
  act s fun s =>
    match s.supply.brace, s.supply.connected, s.supply.releaseSince with
    | true, true, some t =>
      let s := s.reach (t + 1000 * s.obj 0x3001 4)
      let s := s.setSupply fun p => { p with brace := false, dip := false, lowBank := false }
      (s.log 0x3004 0 s.powerItems).liftCut
    | _, _, _ => s

/-- GOVERNOR_CLEAR: the cause has been clear for 1 ms. -/
def execGovernorClear (s : State) : Host.Outcome State Fault Refusal :=
  act s fun s =>
    match s.supply.governor, s.supply.clearSince with
    | true, some t => ((s.reach (t + 1000000)).setSupply fun p => { p with governor := false }).liftCut
    | _, _ => s

/-! ### Ballast (R378, R380, R385) -/

/-- A value moves toward another by at most `step`. -/
def approach (from_ goal step : Nat) : Nat := if from_ ≤ goal then min goal (from_ + step) else max goal (from_ - step)

/-- What floor and target ask of the envelope after one more microsecond: a change of it follows RAMP_LIMIT, 1 W/ms being
1 mW/µs, and it stands still in a hall hold (R378-R380). -/
def State.nextRaised (s : State) : Nat :=
  let goal := 1000 * max (s.obj 0x3003 2) s.supply.target
  if s.tt.active.isNone then 0
  else if s.hold.held then s.supply.raised
  else if s.supply.envelope = 0 then goal
  else approach s.supply.raised goal (s.obj 0x3003 1)

/-- The envelope in force after one more microsecond: E_r, DRAW_FLOOR and the target; it keeps its value in a hall hold,
and with no bank active it falls at RAMP_LIMIT (R378, R380). -/
def State.nextEnvelope (s : State) : Nat :=
  match s.rampNow with
  | some e => if s.hold.held then s.supply.envelope else max e s.nextRaised
  | none => approach s.supply.envelope 0 (s.obj 0x3003 1)

/-- The ballast after one more microsecond, in mW: what brings the measured draw to the envelope within the free
frames; none under the cut; while the draw is restored, by BRACE_RESTORE_RATE at most. -/
def State.nextBallast (s : State) : Nat :=
  let u := s.supply
  if u.brace || u.governor then 0
  else
    let want := min s.ballastRoom (u.ballast + s.nextEnvelope - s.drawNow)
    if u.restoring then min want (u.ballast + s.obj 0x3001 5)
    else if s.tt.active.isNone then approach u.ballast (min want u.ballast) (s.obj 0x3003 1)
    else want

/-- The ballast that a bank switch asks for ahead of its tick: enough that the draw has reached the new bank's envelope at
the tick, rising at RAMP_LIMIT; none under the cut. -/
def State.preBallast (s : State) : Option Nat :=
  match s.supply.brace || s.supply.governor, s.tt.switch with
  | false, some b =>
    let period := s.bankPeriod b
    let e := (rampEnvelope period (s.obj 0x3003 1) (planSpans period (s.planEntries b)) 0).toNat / 1000
    let e := max e (1000 * max (s.obj 0x3003 2) s.supply.target)
    let left := s.obj 0x2010 8 - s.sched
    let due := e - s.obj 0x3003 1 * (left / 1000)
    some (min s.ballastRoom (min (s.supply.ballast + due - s.drawNow) (s.supply.ballast + s.obj 0x3003 1)))
  | _, _ => none

/-- BALLAST_ADJUST: every 1 µs. -/
def execBallastAdjust (s : State) : Host.Outcome State Fault Refusal :=
  act s fun s =>
    let e := s.nextEnvelope
    let b := match s.preBallast with
      | some b => max b s.nextBallast
      | none => s.nextBallast
    let short := (e - (s.drawNow - s.supply.ballast + b)) / 1000
    let watched := s.tt.active.isSome && !s.supply.cut && !s.supply.restoring
    let s := s.setSupply fun p => { p with envelope := e, raised := s.nextRaised, ballast := b }
    s.on (watched && decide (s.obj 0x3003 6 < short)) (·.setObj 0x3003 6 (min short 65535))

/-- BRACE_RESUME_SEND: the cut has lifted, the draw has stopped rising, and every queue of the module is
empty. -/
def execBraceResumeSend (s : State) : Host.Outcome State Fault Refusal :=
  act s fun s =>
    let u := s.supply
    if !u.restoring || u.cut || decide (u.ballast < s.nextBallast) ||
        !((List.range 192).all s.queuesEmpty) then s
    else
      let s := s.setSupply fun p => { p with restoring := false, holdSeq := none, govSeq := none }
      let s := match u.holdSeq with | some q => s.originateResume q | none => s
      match u.govSeq with | some q => s.originateResume q | none => s

/-! ### The hall draw target (R379) -/

def State.applyTarget (s : State) (w : Nat) : State :=
  (s.setSupply fun p => { p with target := w, nextTarget := none }).log 0x300C 0 s.powerItems

/-- A write of DRAW_TARGET: its value is TARGET (U16) and TICK (TIME64). In a brace it waits until the cut has lifted
(R386). -/
def State.writeTarget (s : State) (val : List Byte) : State :=
  let target := leAt val 0 2
  let tick := leAt val 2 8
  let s := (s.setRec 0x3003 3 val).setSupply fun p => { p with targetAt := some s.now }
  if tick ≤ s.now ∧ !s.supply.brace then s.applyTarget target
  else s.setSupply fun p => { p with nextTarget := some (target, tick) }

/-- TARGET_TICK: not before a brace has ended (R386). -/
def execTargetTick (s : State) : Host.Outcome State Fault Refusal :=
  act s fun s =>
    match s.supply.nextTarget with
    | some (w, t) => if s.supply.brace then s else (s.reach t).applyTarget w
    | none => s

/-- TARGET_TIMEOUT_EXPIRE. -/
def execTargetTimeoutExpire (s : State) : Host.Outcome State Fault Refusal :=
  act s fun s =>
    match s.supply.targetAt with
    | none => s
    | some t =>
      let s := s.reach (t + 1000000000 * s.obj 0x3003 4)
      (s.setSupply fun p => { p with target := 0, nextTarget := none, targetAt := none }).log 0x300D 0 s.powerItems

/-! ### Over-voltage and power failure (R382, R387) -/

/-- OVERVOLTAGE_DISCONNECT: above 60 V for more than 1 ms, or above 80 V; the module proceeds as for a dip. -/
def execOvervoltageDisconnect (s : State) : Host.Outcome State Fault Refusal :=
  act s fun s =>
    match s.supply.connected, s.supply.overSince with
    | true, some t =>
      let s := if 80000 < s.supply.mv then s else s.reach (t + 1000001)
      let s := s.alerting fun s => s.setSupply fun p => { p with
        connected := false
        dip := true
        lowBank := decide (p.bank < 2800)
        belowSince := some s.now }
      s.log 0x3006 0 s.powerItems
    | _, _ => s

/-- OVERVOLTAGE_RECONNECT: at or below 60 V for 100 µs. -/
def execOvervoltageReconnect (s : State) : Host.Outcome State Fault Refusal :=
  act s fun s =>
    match s.supply.connected, s.supply.okSince with
    | false, some t => (s.reach (t + 100000)).setSupply fun p => { p with connected := true }
    | _, _ => s

/-- A die or a stack is at its critical temperature (R489). -/
def Supply.critical (u : Supply) : Bool :=
  (u.dieTemps.any fun t => decide (115 ≤ t)) || u.stackTemps.any fun t => decide (105 ≤ t)

/-- POWER_FAIL: the bank is exhausted in a dip, or a temperature is critical. -/
def execPowerFail (s : State) : Host.Outcome State Fault Refusal :=
  act s fun s => if (s.supply.dip && s.supply.bank == 0) || s.supply.critical then s.powerFail else s

/-- POWER_ON: the input first reaches 46 V. -/
def execPowerOn (mv : Nat) (s : State) : Host.Outcome State Fault Refusal :=
  .next (if s.down && decide (46000 ≤ mv) then s.setSupply fun p => { p with mv := mv / 10 * 10 } else s)

/-- POWER_GOOD: hall time starts at 0 in UNSET, and the straps are sampled (R36, R483). -/
def execPowerGood (straps : BitVec 4) (s : State) : Host.Outcome State Fault Refusal :=
  .next (if s.down && decide (46000 ≤ s.supply.mv) then
      ({ s.flashOnly with supply := { Supply.reset with mv := s.supply.mv } }).setObj 0x1000 9 straps.toNat
    else s)

/-! ### Temperatures (R489) -/

/-- Sensors: 0-5 the dies, 6-37 the stacks. Those at or above a level. -/
def hotSensors (dies hbms : List Int) (die stack : Int) : List Nat :=
  ((List.range dies.length).filter fun i => decide (die ≤ dies.getD i 0)) ++
  ((List.range hbms.length).filter fun i => decide (stack ≤ hbms.getD i 0)).map (· + 6)

/-- The temperature of a sensor, from its number. -/
def Supply.sensor (u : Supply) (n : Nat) : Int := if n < 6 then u.dieTemps.getD n 0 else u.stackTemps.getD (n - 6) 0

/-- A temperature as an item of 32 bits. -/
def tempItem (t : Int) : Nat := unsext 32 t

/-- DIE_WARN. -/
def State.dieWarn (s : State) : Int := sext 16 (s.obj 0x3007 1)

/-- The warning level of each sensor reached is logged as it is entered. -/
def State.thermalWarn (s : State) : State :=
  let u := s.supply
  let hot := hotSensors u.dieTemps u.stackTemps s.dieWarn 85
  let new := hot.filter fun n => !(u.warned.contains n)
  let s := s.each new fun s n => s.log 0x3011 0 [(8, n), (32, tempItem (u.sensor n))]
  s.alerting fun s => s.setSupply fun p => { p with warned := p.warned ++ new }

/-- Sensors tripped: at their trip, or not yet 5 degrees below it. One at its trip trips the governor. -/
def State.thermalTrip (s : State) : State :=
  let u := s.supply
  let hot := hotSensors u.dieTemps u.stackTemps 105 95
  let warm := hotSensors u.dieTemps u.stackTemps 101 91
  let new := hot.filter fun n => !(u.tripped.contains n)
  let s := (s.setSupply fun p => { p with tripped := p.tripped.filter warm.contains ++ new }).noteClear
  match hot with
  | n :: _ => s.governorTrip (n + 1)
  | [] => s

/-- Every sensor has been 3 degrees below its warning: since when. -/
def State.noteCool (s : State) : State :=
  let u := s.supply
  let cool := (hotSensors u.dieTemps u.stackTemps (s.dieWarn - 2) 83).isEmpty
  s.setSupply fun p => { p with coolSince := since s.now cool p.coolSince }

/-- THERMAL_SAMPLE: the action of each level reached, in the order warning, trip, critical. -/
def execThermalSample (dies hbms : List Int) (lid : Int) (s : State) : Host.Outcome State Fault Refusal :=
  act s fun s =>
    let s := s.setSupply fun p => { p with dieTemps := dies.take 6, stackTemps := hbms.take 32, lidTemp := lid }
    let s := (s.thermalWarn.noteCool).thermalTrip
    if s.supply.critical then s.powerFail else s

/-- THERMAL_WARN_CLEAR. -/
def execThermalWarnClear (s : State) : Host.Outcome State Fault Refusal :=
  act s fun s =>
    match s.supply.warned, s.supply.coolSince with
    | _ :: _, some t =>
      ((s.reach (t + 1000000000)).setSupply fun p => { p with warned := [] }).log 0x3012
    | _, _ => s

/-! ### REF_IN (R370) -/

/-- REF_IN_LOST. -/
def execRefInLost (s : State) : Host.Outcome State Fault Refusal :=
  act s fun s =>
    if s.supply.refLost then s
    else
      let s := s.alerting fun s => s.setSupply fun p => { p with refLost := true }
      (s.log 0x3008 0 s.powerItems).timeLoss

/-- REF_IN_RESTORE: only with no job loaded. -/
def execRefInRestore (s : State) : Host.Outcome State Fault Refusal :=
  act s fun s =>
    if !s.supply.refLost || s.job.loaded then s
    else (s.setSupply fun p => { p with refLost := false }).log 0x3009 0 s.powerItems

/-! ### Core and die bivouac (R371, R372) -/

/-- CORE_GATE: the queues have drained. -/
def execCoreGate (core : Core) (s : State) : Host.Outcome State Fault Refusal :=
  act s fun s =>
    if (s.core core).power = .draining ∧ s.queuesEmpty core then
      s.mapCore core fun v => { v with power := .asleep }
    else s

/-- A core is awake: its pace counters start again, and what waited for the wake arrives (R203, R308). -/
def State.coreAwakes (s : State) (c : Nat) : State :=
  let late := (s.core c).latePosts
  let scale := (s.core c).lateScale
  let s := s.mapCore c fun v => { v with power := .awake, latePosts := [], lateScale := false }
  let s := s.each (List.range 8) fun s x => s.mapCtx c x fun v => { v with pace := s.now }
  let s := s.each [2 * c, 2 * c + 1] fun s m => s.setMover m { s.mover m with pace := s.now }
  let s := s.on scale (·.writeScale c)
  s.each late fun s p => s.post c p.1 p.2 false

/-- CORE_WAKE_COMPLETE: 50 ns after the wake began; not before its die is awake. -/
def execCoreWakeComplete (core : Core) (s : State) : Host.Outcome State Fault Refusal :=
  act s fun s =>
    if (s.core core).power = .waking ∧ Tbl.get .awake s.dies (core / 48) = .awake then
      (s.reach ((s.core core).wakeAt + 50)).coreAwakes core
    else s

/-- DIE_WAKE_COMPLETE: 20 µs after the wake began; cores that wake with it follow. -/
def execDieWakeComplete (die : Die) (s : State) : Host.Outcome State Fault Refusal :=
  act s fun s =>
    if Tbl.get .awake s.dies die ≠ .waking then s
    else
      let s := s.reach (Tbl.get 0 s.supply.dieWakes die + 20000)
      let s := s.setDie die .awake
      let s := s.setSupply fun p => { p with dieWakes := Tbl.set 0 p.dieWakes die 0 }
      s.each (List.range 48) fun s i => s.mapCore (48 * die + i) fun v =>
        if v.power = .waking then { v with wakeAt := s.now } else v

end Sys2Proof.Machine
end

