-- ==== Sys2Proof/Machine/Sweep.lean ====
section
/-!
DEFINITION. The update sweep and what surrounds it: the norm record, the commit decision, the sweep and its
resumption, belays, restore and the fingerprint record (R272-R298, R311, R312).
-/

namespace Sys2Proof.Machine

/-! The 257 constants cᵢ of R284, as F32 codes. -/

def cosPart0 : List Nat :=
  [0x3F800000, 0x3F7FFD88, 0x3F7FF622, 0x3F7FE9CC, 0x3F7FD888, 0x3F7FC256, 0x3F7FA737, 0x3F7F872C,
   0x3F7F6237, 0x3F7F3858, 0x3F7F0992, 0x3F7ED5E6, 0x3F7E9D56, 0x3F7E5FE5, 0x3F7E1D94, 0x3F7DD667,
   0x3F7D8A5F, 0x3F7D3981, 0x3F7CE3CF, 0x3F7C894C, 0x3F7C29FC, 0x3F7BC5E3, 0x3F7B5D04, 0x3F7AEF63,
   0x3F7A7D05, 0x3F7A05EF, 0x3F798A24, 0x3F7909A9, 0x3F788484, 0x3F77FABA, 0x3F776C4F, 0x3F76D94A]

def cosPart1 : List Nat :=
  [0x3F7641AF, 0x3F75A586, 0x3F7504D3, 0x3F745F9E, 0x3F73B5EC, 0x3F7307C4, 0x3F72552D, 0x3F719E2D,
   0x3F70E2CC, 0x3F702311, 0x3F6F5F03, 0x3F6E96AA, 0x3F6DCA0D, 0x3F6CF935, 0x3F6C2429, 0x3F6B4AF2,
   0x3F6A6D99, 0x3F698C24, 0x3F68A69F, 0x3F67BD10, 0x3F66CF81, 0x3F65DDFC, 0x3F64E889, 0x3F63EF33,
   0x3F62F202, 0x3F61F100, 0x3F60EC38, 0x3F5FE3B4, 0x3F5ED77D, 0x3F5DC79D, 0x3F5CB421, 0x3F5B9D11]

def cosPart2 : List Nat :=
  [0x3F5A827A, 0x3F596465, 0x3F5842DD, 0x3F571DEF, 0x3F55F5A5, 0x3F54CA0A, 0x3F539B2B, 0x3F526912,
   0x3F5133CD, 0x3F4FFB65, 0x3F4EBFE9, 0x3F4D8163, 0x3F4C3FE0, 0x3F4AFB6D, 0x3F49B415, 0x3F4869E6,
   0x3F471CED, 0x3F45CD36, 0x3F447ACD, 0x3F4325C1, 0x3F41CE1E, 0x3F4073F2, 0x3F3F174A, 0x3F3DB833,
   0x3F3C56BA, 0x3F3AF2EF, 0x3F398CDD, 0x3F382494, 0x3F36BA20, 0x3F354D90, 0x3F33DEF3, 0x3F326E55]

def cosPart3 : List Nat :=
  [0x3F30FBC5, 0x3F2F8752, 0x3F2E110A, 0x3F2C98FC, 0x3F2B1F35, 0x3F29A3C5, 0x3F2826B9, 0x3F26A822,
   0x3F25280C, 0x3F23A688, 0x3F2223A5, 0x3F209F70, 0x3F1F19F9, 0x3F1D9350, 0x3F1C0B82, 0x3F1A82A0,
   0x3F18F8B8, 0x3F176DDA, 0x3F15E214, 0x3F145577, 0x3F12C810, 0x3F1139F1, 0x3F0FAB27, 0x3F0E1BC3,
   0x3F0C8BD3, 0x3F0AFB68, 0x3F096A90, 0x3F07D95C, 0x3F0647D9, 0x3F04B619, 0x3F03242B, 0x3F01921D]

def cosPart4 : List Nat :=
  [0x3F000000, 0x3EFCDBC6, 0x3EF9B7AB, 0x3EF693CD, 0x3EF3704D, 0x3EF04D49, 0x3EED2ADF, 0x3EEA0930,
   0x3EE6E859, 0x3EE3C87A, 0x3EE0A9B2, 0x3EDD8C1E, 0x3EDA6FDF, 0x3ED75513, 0x3ED43BD7, 0x3ED1244C,
   0x3ECE0E90, 0x3ECAFAC0, 0x3EC7E8FB, 0x3EC4D960, 0x3EC1CC0D, 0x3EBEC120, 0x3EBBB8B6, 0x3EB8B2EF,
   0x3EB5AFE7, 0x3EB2AFBD, 0x3EAFB28E, 0x3EACB877, 0x3EA9C196, 0x3EA6CE09, 0x3EA3DDEB, 0x3EA0F15B]

def cosPart5 : List Nat :=
  [0x3E9E0875, 0x3E9B2356, 0x3E98421B, 0x3E9564DF, 0x3E928BC0, 0x3E8FB6D9, 0x3E8CE646, 0x3E8A1A23,
   0x3E87528B, 0x3E848F9B, 0x3E81D16D, 0x3E7E3038, 0x3E78C786, 0x3E7368FB, 0x3E6E14CB, 0x3E68CB2A,
   0x3E638C4C, 0x3E5E5866, 0x3E592FAB, 0x3E54124E, 0x3E4F0080, 0x3E49FA75, 0x3E45005D, 0x3E40126B,
   0x3E3B30CE, 0x3E365BB6, 0x3E319354, 0x3E2CD7D7, 0x3E28296D, 0x3E238844, 0x3E1EF48B, 0x3E1A6E6E]

def cosPart6 : List Nat :=
  [0x3E15F61A, 0x3E118BBB, 0x3E0D2F7D, 0x3E08E18A, 0x3E04A20E, 0x3E007132, 0x3DF89E3F, 0x3DF077FE,
   0x3DE86FF3, 0x3DE0866C, 0x3DD8BBB7, 0x3DD11021, 0x3DC983F7, 0x3DC21782, 0x3DBACB0C, 0x3DB39EDD,
   0x3DAC933B, 0x3DA5A86C, 0x3D9EDEB5, 0x3D983658, 0x3D91AF97, 0x3D8B4AB3, 0x3D8507EA, 0x3D7DCEF6,
   0x3D71D344, 0x3D661D33, 0x3D5AAD38, 0x3D4F83C3, 0x3D44A143, 0x3D3A0623, 0x3D2FB2CC, 0x3D25A7A3]

def cosPart7 : List Nat :=
  [0x3D1BE50C, 0x3D126B67, 0x3D093B12, 0x3D005467, 0x3CEF6F7E, 0x3CDECADA, 0x3CCEBB8A, 0x3CBF422A,
   0x3CB05F55, 0x3CA2139C, 0x3C945F8C, 0x3C8743AE, 0x3C758104, 0x3C5DAD09, 0x3C470C54, 0x3C319FC5,
   0x3C1D6830, 0x3C0A665C, 0x3BF1360B, 0x3BD00DB6, 0x3BB15502, 0x3B950D1D, 0x3B766E3C, 0x3B47A80A,
   0x3B1DC971, 0x3AF1A81A, 0x3AB19298, 0x3A76A9A7, 0x3A1DE1C8, 0x39B1A200, 0x391DE7DF, 0x381DE964]

def cosPart8 : List Nat :=
  [0x00000000]

/-- cᵢ = 0.5 × (1 + cos(πi / 256)), rounded from its exact value. -/
def cosTable : List Nat :=
  cosPart0 ++ cosPart1 ++ cosPart2 ++ cosPart3 ++ cosPart4 ++ cosPart5 ++ cosPart6 ++ cosPart7 ++ cosPart8

/-! ### Learning rate (R284) -/

/-- ⌊x⌋ of a non-negative F32. -/
def f32Floor (c : Nat) : Nat :=
  match ofF32 c with
  | .fin false n e => if 0 ≤ e then n * 2 ^ e.toNat else n / 2 ^ (-e).toNat
  | _ => 0

/-- C(f). -/
def cosineOf (f : Nat) : Nat :=
  let x := f32Mul f (f32Nat 256)
  let i := min (f32Floor x) 255
  let a := f32Sub x (f32Nat i)
  let c := fun j => cosTable.getD j 0
  f32Add (c i) (f32Mul a (f32Sub (c (i + 1)) (c i)))

/-- F(x) / F(y). -/
def f32Ratio (x y : Nat) : Nat := f32Div (f32Nat x) (f32Nat y)

/-- The rate of TABLE at step `s`: points in ascending order. -/
def tableRate (s : Nat) : List (Nat × Nat) → Nat
  | [] => 0
  | [(_, r)] => r
  | (s0, r0) :: (s1, r1) :: ps =>
    if s < s0 then r0
    else if s < s1 then f32Add r0 (f32Mul (f32Sub r1 r0) (f32Ratio (s - s0) (s1 - s0)))
    else tableRate s ((s1, r1) :: ps)

/-- The points of LR_TABLE. -/
def State.lrPoints (s : State) : List (Nat × Nat) :=
  let bs := s.recOf 0x8002 6
  (List.range (leAt bs 0 4)).map fun i => (leAt bs (4 + 8 * i) 4, leAt bs (8 + 8 * i) 4)

def State.schedule (s : State) (n : Nat) : Nat :=
  let b := s.obj 0x8002 2
  let e := s.obj 0x8002 3
  let w := s.obj 0x8002 4
  let d := s.obj 0x8002 5
  let mode := s.obj 0x8002 1
  let t := n - w
  if mode = 3 then tableRate n s.lrPoints
  else if n < w then f32Mul b (f32Ratio (n + 1) w)
  else if mode = 1 then (if d ≤ t then e else f32Add b (f32Mul (f32Sub e b) (f32Ratio t d)))
  else if mode = 2 then
    let f := if d ≤ t then f32One else f32Ratio t d
    f32Add e (f32Mul (f32Sub b e) (cosineOf f))
  else b

/-! ### The norm record (R280, R281) -/

/-- A repair is open (R315): it has gone past the comparison of values, or blocks wait for it. -/
def State.repairOpen (s : State) : Bool :=
  match s.train.repair with
  | some r => r.phase != .values || !r.todo.isEmpty
  | none => false

/-- NORM_RECORD_WRITE: when every engine has finished. Faults after it are charged to the next step. -/
def execNormRecordWrite (s : State) : Host.Outcome State Fault Refusal :=
  act s fun s =>
    match s.train.norms with
    | none => s
    | some sums =>
      if s.train.normWritten || !s.training then s
      else
        let vals := if s.obj 0x8000 0xC = 1 then sums else List.replicate 32 0
        let nf := s.obj 0x8010 4
        let prepared := s.ropeOn && rrState s.ropeRec == rrPrepared
        let fault := s.hold.schedFault || s.hold.sticky || s.repairOpen || prepared
        let flags := (if nf ≠ 0 then 1 else 0) + (if fault then 2 else 0)
        let s := s.setMailbox 0 (bytes4 (vals.take 32) ++ List.replicate 128 0 ++ leBytes 4 flags ++
          List.replicate 252 0)
        let s := s.setWatch fun w => { w with latch := nf }
        let s := s.setHold fun h => { h with schedFault := h.sticky }
        s.setTrain fun t => { t with normWritten := true }

/-! ### The fingerprint record (R311, R312) -/

/-- Pages for accesses of the management processor. -/
def State.tagOf (s : State) (b : Nat) : Nat := leNat (s.mpRead (s.tagAt b) 16)

/-- The sum of the fingerprints of blocks. -/
def State.sumFps (s : State) (ks : List Blk) : Nat :=
  ks.foldl (fun f k => (f + fld (s.tagOf k.b) 127 64) % 2 ^ 64) 0

/-- SHARD_FP is formed anew from the tag table. -/
def State.loadShardFp (s : State) : State := s.setObj 0x8014 3 (s.sumFps (allBlocks s.train.groups))

def notBits (n v : Nat) : Nat := 2 ^ n - 1 - v % 2 ^ n

/-- FP_RECORD_WRITE. -/
def execFpRecordWrite (s : State) : Host.Outcome State Fault Refusal :=
  act s fun s =>
    if s.train.fpWritten then s
    else s.atStep (s.obj 0x8014 1) fun s =>
      let w := s.stepRec
      let busy := recState w == 1
      let fp := s.obj 0x8014 3
      let step := recStep w
      let words := if busy then List.replicate 24 0
        else leBytes 8 fp ++ leBytes 8 (notBits 64 fp) ++ leBytes 4 step ++ leBytes 4 (notBits 32 step)
      let r := leBytes 4 f32One ++ List.replicate 252 0 ++ words ++ leBytes 8 (2 ^ s.ownReplica) ++
        leBytes 4 (if busy then 1 else 0) ++ List.replicate 220 0
      (s.setMailbox 1 r).setTrain fun t =>
        { t with fpWritten := true, stepNo := s.stepNo, stepOrigin := s.tt.origin }

/-! ### The sweep (R285-R288, R327) -/

/-- The ranges that a block's sweep touches. -/
def State.sweepUnits (s : State) (sw : Sweep) (k : Blk) : List Nat :=
  let n := k.engine
  let own := [(gMaster k.g k.i, 65536), (gM1 k.g k.i, 32768), (gGradAt k.g k.i, 16896), (s.tagAt k.b, 16),
    (s.cursorAt n, 16)] ++ (if gAdam k.g then [(gM2 k.g k.i, 32768)] else []) ++ s.workRanges k
  let rope := if sw.v.shift || sw.roundEnd then
      (if gRope k.g then s.ropeUnits k ++ (sw.members.flatMap fun x =>
        if sw.regroup then unitsOf (s.regroupAt x k) 65536 else []) else []) ++
      unitsOf (s.ropeCursorAt n) 32 ++ unitsOf (s.histAt n 0) 8192
    else []
  (own.flatMap fun a => unitsOf a.1 a.2) ++ rope

/-- The second moments of a block as read; zeros unless ADAMW. -/
def moments2 (g : Nat) (bs : List Byte) : List Nat := if gAdam g then words2 bs else List.replicate 16384 0

/-- The ranges of both moments. -/
def momentRanges (k : Blk) : List (Nat × Nat) :=
  (gM1 k.g k.i, 32768) :: (if gAdam k.g then [(gM2 k.g k.i, 32768)] else [])

/-- The moments among the bytes of `momentRanges`. -/
def momentsOf (k : Blk) : List (List Byte) → List Nat × List Nat
  | [a, b] => (words2 a, moments2 k.g b)
  | [a] => (words2 a, moments2 k.g [])
  | _ => ([], [])

/-- g of R285 for every parameter. -/
def scaledGrad (g gs : Nat) (bs : List Byte) : List Nat := (unpackGroups (gGrad g) bs).map fun x => f32Mul x gs

/-- `moments(b)`, writes 1 and 2. -/
def State.momentsBlk (s : State) (ps : List TcEntry) (sw : Sweep) (k : Blk) : Eff :=
  match s.eRead ps (gGradAt k.g k.i) 16896, s.eReads ps (momentRanges k) with
  | .ok gb, .ok ms =>
    let old := momentsOf k ms
    let mode := s.trainMode 7 k
    let s := s.countFlushed (flushedGroups (gGrad k.g) gb + (ms.map flushed2).foldl (· + ·) 0)
    let new := ((List.range 16384).zip ((scaledGrad k.g sw.v.gs gb).zip (old.1.zip old.2))).map fun x =>
      let r := newMoments s k.g x.2.1 (b16f32 x.2.2.1) (b16f32 x.2.2.2)
      (toB16 (mode x.1) r.1, toB16 (mode x.1) r.2)
    s.eWrites ps ([(gM1 k.g k.i, bytes2 (new.map (·.1)))] ++
      (if gAdam k.g then [(gM2 k.g k.i, bytes2 (new.map (·.2)))] else []) ++
      [(s.tagAt k.b + 4, leBytes 4 sw.step)])
  | .error c, _ => (s, some c)
  | _, .error c => (s, some c)

/-- The shift of a block: ref_new − ref_old per parameter, or none (R293, R344). -/
def State.shiftOf (s : State) (ps : List TcEntry) (sw : Sweep) (k : Blk) : Except Nat (List (Option Nat)) :=
  if sw.v.shift && gRope k.g then
    match s.eReads ps [(ropeRef k (1 - sw.refSlot), 65536), (ropeBaseArr k, 65536)] with
    | .ok [n, b] => .ok (((words4 n).zip (words4 b)).map fun x => some (f32Sub x.1 x.2))
    | .ok _ => .ok []
    | .error c => .error c
  else .ok (List.replicate 16384 none)

/-- `weights(b)`, writes 3 and 4, from the moments as stored. -/
def State.weightsBlk (s : State) (ps : List TcEntry) (sw : Sweep) (k : Blk) (tag : Nat) : Eff :=
  match s.eRead ps (gGradAt k.g k.i) 16896, s.eReads ps (momentRanges k), s.eRead ps (gMaster k.g k.i) 65536,
      s.shiftOf ps sw k with
  | .ok gb, .ok ms, .ok mb, .ok sh =>
    let m := momentsOf k ms
    let new := ((scaledGrad k.g sw.v.gs gb).zip ((m.1.zip m.2).zip ((words4 mb).zip sh))).map fun x =>
      newWeight s sw.v k.g x.1 (b16f32 x.2.1.1) (b16f32 x.2.1.2) x.2.2.1 x.2.2.2
    let w := s.workImage k new
    let fp := fingerprint k.b new m.1 m.2
    let copies := s.workWrites k w.1
    let s := s.countFlushed (flushedGroups (gGrad k.g) gb + (ms.map flushed2).foldl (· + ·) 0 + flushed4 mb)
    (s.eWrites ps ((gMaster k.g k.i, bytes4 new) :: copies)).andThen fun s =>
      let s := s.countSlots copies
      (s.eWrites ps [(s.tagAt k.b, leBytes 4 sw.step), (s.tagAt k.b + 8, leBytes 8 fp)]).andThen fun s =>
        ((s.tallyBlocks (gTag k.g) (gWork k.g) w.2).moveShardFp (fld tag 127 64) fp).ok
  | .error c, _, _, _ => (s, some c)
  | _, .error c, _, _ => (s, some c)
  | _, _, .error c, _ => (s, some c)
  | _, _, _, .error c => (s, some c)

/-- Write 5. -/
def State.cursorWrite (s : State) (ps : List TcEntry) (sw : Sweep) (n i : Nat) : Eff :=
  s.eWrite ps (s.cursorAt n) (leBytes 16 (sw.step * 2 ^ 96 + (i + 1) * 2 ^ 72))

/-- Block `i` of an engine's list (R288): what its tags call for, up to write 5. -/
def State.sweepBlk (s : State) (sw : Sweep) (i : Nat) (k : Blk) : Eff :=
  let n := k.engine
  let (s, ps) := s.enginePages n (s.sweepUnits sw k)
  match s.eRead ps (s.tagAt k.b) 16 with
  | .error c =>
    (Eff.settle (s, some c) k).andThen fun s => (s.ropeBlk ps sw i k true).andThen (·.cursorWrite ps sw n i)
  | .ok t =>
    let w := leNat t
    let mt := fld w 63 32
    let wt := fld w 31 0
    let known := (mt == sw.old && wt == sw.old) || (mt == sw.step && wt == sw.old) || (mt == sw.step && wt == sw.step)
    let work : Eff :=
      if mt = sw.old ∧ wt = sw.old then
        ((if sw.v.shift && gRope k.g then s.outerBlk ps sw k else s.ok).andThen (·.momentsBlk ps sw k)).andThen
          fun s => s.weightsBlk ps sw k w
      else if mt = sw.step ∧ wt = sw.old then s.weightsBlk ps sw k w
      else if known then s.ok
      else (s.tagFault k).ok
    let bad := !known || work.2 == some 0x13
    let e := (work.settle k).andThen fun s => s.ropeBlk ps sw i k bad
    let bad2 := e.2 == some 0x13
    (e.settle k).andThen fun s =>
      (if bad2 then s.ropeBlk ps sw i k true else s.ok).andThen fun s => (s.cursorWrite ps sw n i).settle k

/-- Before an engine's first block of a ROUND_END sweep its stream is empty; at a resumption it is cut at its
OUT_OFFSET (R330). -/
def State.openStream (s : State) (sw : Sweep) (n : Nat) : State :=
  if !sw.roundEnd then s
  else
    let c := s.ropeCursor n
    let out := if c.step = sw.step then c.out else 0
    s.setStream sw.round n ((s.ownStream sw.round n).take out)

/-- `sweep(n)` (R288): a first run and a resumption alike. -/
def State.sweepEngine (s : State) (n : Nat) : State :=
  let sw := s.sweepOf
  let xs := engineList s.train.groups n
  let c := s.cursor n
  let start := if c.1 = sw.step then c.2 else 0
  let s := s.setEngineSt n { s.engineSt n with stopped := false, pace := s.now }
  let s := s.openStream sw n
  (((List.range xs.length).zip xs).drop start).foldl
    (fun (e : Eff) x => e.andThen fun s => s.sweepBlk sw x.1 x.2) s.ok |>.1

/-- An engine's cursor is complete. -/
def State.engineDone (s : State) (n : Nat) : Bool :=
  let len := (engineList s.train.groups n).length
  len == 0 || s.cursor n == (recStep s.stepRec, len)

/-! ### The commit decision (R282, R283, R307) -/

/-- The step record's word, from its fields. -/
def stepWord (state errSlot : Nat) (shift roundEnd : Bool) (step lr gs clip k1 k2 p1 p2 count : Nat) : Nat :=
  2 * 2 ^ 508 + state * 2 ^ 506 + errSlot * 2 ^ 505 + (if shift then 2 ^ 504 else 0) +
  (if roundEnd then 2 ^ 503 else 0) + step * 2 ^ 448 + lr * 2 ^ 416 + gs * 2 ^ 384 + clip * 2 ^ 352 +
  k1 * 2 ^ 320 + k2 * 2 ^ 288 + p1 * 2 ^ 256 + p2 * 2 ^ 224 + count * 2 ^ 192

def State.setStepRec (s : State) (w : Nat) : State :=
  let s := s.mpWrite s.stepAt (leBytes 64 w)
  (s.setObj 0x8000 1 (recStep w)).setObj 0x8000 2 (fld w 505 505)

/-- The step is over: the next one begins (R278). -/
def State.nextStep (s : State) : State :=
  s.setTrain fun t => { t with
    stepNo := s.stepNo + 1
    stepOrigin := s.tt.origin
    quantised := []
    delayed := []
    norms := none
    normWritten := false
    fpWritten := false
    fpChecked := false }

/-- A decision is made: the epoch closes and the loss scale follows. -/
def State.decided (s : State) (d : Decision) : State := (s.closeEpoch.lossScale d).nextStep

/-- A skipped step. -/
def State.skipStep (s : State) (d : Decision) : State :=
  let s := if d = .nonfinite then (s.count 0x8003 1).log 0x8001 (domMp 0) else (s.count 0x8003 2).log 0x8002 (domMp 0)
  s.decided d

/-- `a > b` for F32 codes. -/
def f32Gt (a b : Nat) : Bool := (ofF32 b).lt (ofF32 a)

/-- The step commits with its norm: the record is written and the sweep runs on all 32 engines. -/
def State.commitStep (s : State) (norm : Nat) : State :=
  let w := s.stepRec
  let maxNorm := s.obj 0x8001 6
  let clip := if s.obj 0x8001 5 = 1 ∧ f32Gt norm maxNorm then f32Div maxNorm norm else f32One
  let step := (recStep w + 1) % 2 ^ 32
  let p1 := f32Mul (fld w 287 256) (s.obj 0x8001 1)
  let p2 := f32Mul (fld w 255 224) (s.obj 0x8001 2)
  let k1 := f32Div f32One (f32Sub f32One p1)
  let k2 := f32Div f32One (f32Sub f32One p2)
  let lr := s.schedule (recStep w)
  let gs := f32Mul (s.obj 0x8000 0xD) clip
  let count := (fld w 223 192 + 1) % 2 ^ 32
  let r := s.ropeRec
  let roundEnd := s.ropeOn && count == s.obj 0x7002 1
  let shift := s.ropeOn && rrState r == rrCommitted && decide (rrApplyStep r ≤ step)
  let s := s.on s.ropeOn fun s =>
    let r := setFld r 63 0 (rrSamples r + s.obj 0x7000 8)
    s.setRopeRec (if roundEnd then setFld r 223 214 s.roundThreshold else r)
  let s := s.on roundEnd fun s => (s.reuseArea (rrRound r)).setRope fun x => { x with full := [], sent := 0 }
  let s := s.setStepRec (stepWord 1 (1 - fld w 505 505) shift roundEnd step lr gs clip k1 k2 p1 p2 count)
  let s := ((s.setObj 0x8003 7 norm).setObj 0x8003 8 clip).setObj 0x8002 7 lr
  let at_ := s.stepTime (s.obj 0x8000 0xA)
  let s := (s.decided .commit).setTrain fun t => { t with overran := false, sweepAt := at_ }
  s.each (List.range 32) fun s n => s.sweepEngine n

/-- COMMIT_DECISION. -/
def execCommitDecision (s : State) : Host.Outcome State Fault Refusal :=
  act s (fun s => s.atStep (s.obj 0x8000 0xA) fun s =>
    let rec_ := s.mailbox 0
    let flags := leAt rec_ 256 4
    let total := (List.range 32).foldl (fun a n => f32Add a (leAt rec_ (4 * n) 4)) 0
    if bitAt flags 1 || recState s.stepRec == 1 then s.skipStep .schedule
    else if bitAt flags 0 || !f32Finite total then s.skipStep .nonfinite
    else s.commitStep (f32Sqrt total))

/-- SWEEP_LIMIT_EXPIRE: the sweep still runs SWEEP_LIMIT after its commit point (R290). -/
def execSweepLimitExpire (s : State) : Host.Outcome State Fault Refusal :=
  act s fun s =>
    if !s.training || s.train.overran || recState s.stepRec != 1 then s
    else
      match s.train.sweepAt with
      | none => s
      | some t =>
        let t := t + 1000 * s.obj 0x8000 0xB
        let s := if s.frozenAt (t + s.lag) then s else s.reach (t + s.lag)
        if s.sched < t then s
        else (((s.setTrain fun x => { x with overran := true }).count 0x8003 6).log 0x8006 (domMp 0)).schedFault

/-- Engines whose cursors are not complete take up their sweep again (R288). -/
def State.resumeSweeps (s : State) : State :=
  s.each (List.range 32) fun s n =>
    if s.engineDone n then s else ((s.count 0x8003 3).log 0x8003 (domEngine n)).sweepEngine n

/-! ### Groups at job load and restore (R272) -/

/-- The group table. -/
def State.readGroups (s : State) : List Nat :=
  (List.range (s.obj 0x8000 6)).map fun i => leNat (s.mpRead (s.obj 0x8000 5 + 64 * i) 64)

/-- A range is granted to STATE_KEY for reading and writing. -/
def State.rangeGranted (s : State) (va n : Nat) : Bool :=
  (pieces va n).all fun p =>
    match s.walk p.1 with
    | .ok e => e.read && e.write && s.granted s.stateKey false (e.pa + (p.1 - e.va)) p.2 &&
        s.granted s.stateKey true (e.pa + (p.1 - e.va)) p.2
    | .error _ => false

/-- A group's fields keep R270, and ROPE is off where the rope tier is (R320). -/
def groupFieldsOk (w : Nat) (rope : Bool) : Bool :=
  let coef := fun x => f32Finite x && (x < 2 ^ 31 || x == 2 ^ 31)
  decide (fld w 511 508 = 2) && decide (1 ≤ gOpt w) && decide (gOpt w ≤ 4) &&
  [4, 5].contains (gGrad w) && [1, 3].contains (gRaw w) && [5, 3].contains (gWork w) &&
  decide (1 ≤ gCount w) && coef (gWd w) && coef (gLrMul w) && decide (fld w 34 0 = 0) &&
  (gAdam w || decide (fld w 250 215 = 0)) && (gRope w || decide (fld w 70 35 = 0)) && (rope || !gRope w)

/-- The arrays of a group. -/
def State.groupArrays (s : State) (w : Nat) : List (Nat × Nat) :=
  let n := gCount w
  [(gMaster w 0, 65536 * n), (gM1 w 0, 32768 * n), (gGradAt w 0, 16896 * n), (gErr w 0 0, 65536 * n),
    (gRawAt w 0, gRawBytes w * n), (gWorkAt w 0, gWorkBytes w * n)] ++
  (if gAdam w then [(gM2 w 0, 32768 * n)] else []) ++
  (if gSec w then [(s.lenMap (gWorkAt w 0), (gWorkBytes w * n + 4095) / 4096)] else []) ++
  (if gRope w then [(gRopeAt w 0, 524288 * n)] else [])

/-- The first condition of R272 that group `i` breaks; `last` is the end of the blocks before it. -/
def State.groupItem (s : State) (w last : Nat) : Option Nat :=
  if !groupFieldsOk w s.ropeOn then some 2
  else if gFirst w < last then some 3
  else if 2 ^ 24 < gFirst w + gCount w then some 4
  else if gSec w ∧ gWork w = 5 ∧ !gTile w then some 5
  else if !(s.groupArrays w).all (fun (a : Nat × Nat) => s.rangeGranted a.1 a.2) then some 6
  else none

def State.groupScan (s : State) : Nat → Nat → List Nat → Option StateFault
  | _, _, [] => none
  | i, last, w :: ws =>
    match s.groupItem w last with
    | some item => some ⟨1, item, i, 0xFFFFFFFF⟩
    | none => s.groupScan (i + 1) (gFirst w + gCount w) ws

/-- The receive and regroup areas are granted too (R350). -/
def State.ropeAreasOk (s : State) : Bool :=
  !s.ropeOn || (s.rangeGranted (s.obj 0x7000 5) (512 * s.obj 0x7000 6) &&
    s.rangeGranted (s.obj 0x7000 7) (s.peerSites.length * (ropeBlocks s.readGroups).length * 65536))

/-- The check of the group table. -/
def State.groupCheck (s : State) : Option StateFault :=
  let gs := s.readGroups
  if gs.isEmpty then none
  else if s.obj 0x8000 3 = 0 then some ⟨1, 1, 0xFFFF, 0xFFFFFFFF⟩
  else (s.groupScan 0 0 gs).orElse fun _ =>
    if s.ropeAreasOk then none else some ⟨1, 6, 0xFFFF, 0xFFFFFFFF⟩

/-- STATE_STATUS in the layout of R495. -/
def StateFault.image (f : StateFault) : List Byte :=
  leBytes 1 f.source ++ leBytes 1 f.item ++ leBytes 2 f.group ++ leBytes 4 f.block ++ List.replicate 8 0

def State.setStateStatus (s : State) (f : Option StateFault) : State :=
  s.setRec 0x8004 4 (match f with | some f => f.image | none => [])

/-! ### Restore and fresh start (R277, R295, R296) -/

/-- A block's group number. -/
def State.groupNumber (s : State) (k : Blk) : Nat := (s.train.groups.findIdx? (· == k.g)).getD 0xFFFF

/-- A block's fingerprint and working copy are formed anew from its master weights and moments; the tag entry
takes the fingerprint where `tag` is set.  Of a frozen block the working copy alone, from its master weights.  0, or the
ITEM of R495 that failed. -/
def State.rebuildBlk (s : State) (k : Blk) (check : Nat → Bool) (tag : Bool) : State × Nat :=
  let ranges := (gMaster k.g k.i, 65536) :: (if gFrozen k.g then [] else momentRanges k)
  let (s, ps) := s.enginePages k.engine
    ((ranges ++ s.workRanges k ++ [(s.tagAt k.b, 16)]).flatMap fun (a : Nat × Nat) => unitsOf a.1 a.2)
  match s.eReads ps ranges with
  | .ok (mb :: ms) =>
    let m := momentsOf k ms
    let master := words4 mb
    let fp := fingerprint k.b master m.1 m.2
    if !gFrozen k.g && !check fp then (s, 2)
    else
      let w := s.workImage k master
      let copies := s.workWrites k w.1
      let s := s.countFlushed (flushed4 mb)
      let e := (s.eWrites ps copies).andThen fun s =>
        let s := s.countSlots copies
        (if tag && !gFrozen k.g then s.eWrite ps (s.tagAt k.b + 8) (leBytes 8 fp) else s.ok).andThen fun s =>
          (s.tallyBlocks (gTag k.g) (gWork k.g) w.2).ok
      (e.1, if e.2.isSome then 3 else 0)
  | _ => (s, 3)

/-- Every block in ascending order, until one fails: R295 and the fingerprints pass frozen blocks over, but their working
copies are built too (R277, R296). -/
def State.rebuildAll (s : State) (step : Nat) (fresh : Bool) : State × Option StateFault :=
  (everyBlock s.train.groups).foldl (fun (acc : State × Option StateFault) k =>
    match acc.2 with
    | some _ => acc
    | none =>
      let s := acc.1
      let t := s.tagOf k.b
      let torn := !fresh && !gFrozen k.g && !(fld t 63 32 == step && fld t 31 0 == step)
      let r := if torn then (s, 1)
        else s.rebuildBlk k (fun fp => fresh || fp == fld t 127 64) fresh
      (r.1, if r.2 = 0 then none else some ⟨2, r.2, s.groupNumber k, k.b⟩)) (s, none)

/-- The fingerprints of the reference in force and of the anchor (R325). -/
def State.formRopeFps (s : State) : State :=
  if !s.ropeOn then s
  else
    let r := s.ropeRec
    let sums := (ropeBlocks s.train.groups).foldl (fun (acc : Nat × Nat) k =>
      let ps := s.walkPages (gRopeAt k.g k.i) 524288 ++
        (List.range 2).flatMap fun h => s.walkPages (s.lenMap (ropeAnchor k h)) 8
      let an := match s.anchorOf ps k with
        | .ok xs => xs
        | .error _ => []
      ((acc.1 + arrayFp k.b (words4 (s.mpRead (ropeRef k (rrRefSlot r)) 65536))) % 2 ^ 64,
        (acc.2 + arrayFp k.b an) % 2 ^ 64)) (0, 0)
    s.setRopeRec (setFld (setFld r 287 224 sums.1) 351 288 sums.2)

/-- The records of a fresh start (R277 steps 2 and 4). -/
def State.freshRecords (s : State) : State :=
  let s := s.setStepRec (stepWord 0 0 false false 0 0 0 f32One 0 0 f32One f32One 0)
  s.mpWrite (s.cursorAt 0) (List.replicate 512 0)

def State.freshRope (s : State) : State :=
  if !s.ropeOn then s
  else
    let s := s.mpWrite s.moduleHistAt (List.replicate 4096 0)
    let s := s.mpWrite (s.ropeCursorAt 0) (List.replicate 1024 0)
    let s := s.mpWrite (s.histAt 0 0) (List.replicate (8192 * 32) 0)
    (s.setRopeRec freshRopeRec).formRopeFps

/-- A fresh start (value 2). -/
def State.freshStart (s : State) : State :=
  let s := (s.setTrain fun t => { t with groups := s.readGroups }).setRope fun r => r.forget [] []
  match s.groupCheck with
  | some f => s.setTrain fun t => { t with restoring := some ⟨true, some f⟩ }
  | none =>
    let r := s.freshRecords.rebuildAll 0 true
    let s := if r.2.isNone then r.1.freshRope else r.1
    s.setTrain fun t => { t with restoring := some ⟨true, r.2⟩ }

/-- A restore (value 1). -/
def State.restoreState (s : State) : State :=
  let s := (s.setTrain fun t => { t with groups := s.readGroups }).setRope fun r => r.forget [] []
  match s.groupCheck with
  | some f => s.setTrain fun t => { t with restoring := some ⟨false, some f⟩ }
  | none =>
    let w := s.stepRec
    let r : State × Option StateFault :=
      if fld w 511 508 ≠ 2 ∨ recState w ≠ 2 then (s, some ⟨2, 1, 0xFFFF, 0xFFFFFFFF⟩)
      else s.rebuildAll (recStep w) false
    r.1.setTrain fun t => { t with restoring := some ⟨false, r.2⟩ }

/-- RESTORE_COMPLETE: the check ends, with the record IDLE or left RESTORED. -/
def execRestoreComplete (s : State) : Host.Outcome State Fault Refusal :=
  act s fun s =>
    match s.train.restoring with
    | none => s
    | some r =>
      let s := s.setTrain fun t => { t with restoring := none }
      let s := s.setStateStatus r.failed
      match r.failed with
      | none => ((s.setStepRec (setFld s.stepRec 507 506 0)).loadShardFp).log 0x8008 (domMp 0)
      | some f => (s.setStepRec (setFld s.stepRec 507 506 2)).log 0x8009 (domMp 0) [(16, f.group), (24, f.block)]

/-! ### Belays (R294) -/

/-- A section entry of a manifest. -/
def sectionEntry (type group va len : Nat) : List Byte :=
  leBytes 1 type ++ leBytes 1 0 ++ leBytes 2 group ++ List.replicate 4 0 ++ leBytes 8 va ++ leBytes 8 len ++
  List.replicate 8 0

/-- The sections of a group: its arrays, of a FROZEN group its weights and working copy. -/
def State.groupSections (s : State) (i w : Nat) : List (List Byte) :=
  let n := gCount w
  let slot := s.obj 0x8000 2
  [sectionEntry 4 i (gMaster w 0) (65536 * n)] ++
  (if gFrozen w then [] else
    [sectionEntry 5 i (gM1 w 0) (32768 * n)] ++
    (if gAdam w then [sectionEntry 6 i (gM2 w 0) (32768 * n)] else []) ++
    [sectionEntry 7 i (gErr w slot 0) (32768 * n)]) ++
  [sectionEntry 8 i (gWorkAt w 0) (gWorkBytes w * n)] ++
  (if gSec w then [sectionEntry 9 i (s.lenMap (gWorkAt w 0)) ((gWorkBytes w * n + 4095) / 4096)] else []) ++
  (if gRope w then [sectionEntry 0xA i (gRopeAt w 0) (524288 * n)] else [])

/-- The manifest, its check taken over itself with CHECK zero. -/
def State.manifest (s : State) : List Byte :=
  let gs := s.train.groups
  let blocks := gs.foldl (fun n w => max n (gFirst w + gCount w)) 0
  let secs := ([sectionEntry 1 0 s.stepAt 576, sectionEntry 2 0 (s.obj 0x8000 5) (64 * gs.length),
    sectionEntry 3 0 (s.obj 0x8000 7) (16 * blocks)] ++
    ((List.range gs.length).zip gs).flatMap fun x => s.groupSections x.1 x.2).take 4096
  let head := leBytes 1 2 ++ leBytes 1 1 ++ leBytes 2 secs.length ++ leBytes 4 (recStep s.stepRec) ++
    leBytes 2 s.moduleNumber ++ leBytes 1 s.ownSite ++ leBytes 1 (s.obj 0x8000 2) ++ leBytes 8 (s.obj 0x4020 1) ++
    leBytes 1 (s.obj 0x8012 6) ++ List.replicate 3 0 ++ leBytes 8 (s.obj 0x8014 3) ++ leBytes 8 s.now ++
    List.replicate 84 0
  let body := secs.flatten
  head ++ leBytes 4 (crc32c (head ++ List.replicate 4 0 ++ body)) ++ body

/-- BELAY_MANIFEST_WRITE: once STATE is IDLE, and no repair is open (R317). -/
def execBelayManifestWrite (s : State) : Host.Outcome State Fault Refusal :=
  act s fun s =>
    if !s.train.belayAsked || recState s.stepRec != 0 || s.repairOpen then s
    else ((s.mpWrite (s.obj 0x8004 1) s.manifest).log 0x8007 (domMp 0)).setTrain fun t => { t with belayAsked := false }

end Sys2Proof.Machine
end

