-- ==== Sys2Proof/Machine/Replica.lean ====
section
/-!
DEFINITION. Replica agreement: the fingerprint check, localisation and the repair of blocks (R310-R317), and
an update engine that hangs (R428).
-/

namespace Sys2Proof.Machine

/-- The repair is impossible and ends. -/
def State.repairFails (s : State) : State := (s.setRepair none).repairImpossible

/-- The repair ends. -/
def State.repairEnds (s : State) (r : Repair) : State :=
  (s.setRepair none).log 0x8012 (domMp 0) [(8, r.src), (32, r.done)]

/-- The lowest replica that may serve as source: one that holds the good value, has not failed, and toward which the repair
context is open (R316). -/
def State.nextSource (s : State) (r : Repair) : Option Nat :=
  (List.range s.replicaCount).find? fun i =>
    i != s.ownReplica && !r.failed.contains i && (s.flow (s.replicaCtx i)).state == .opened &&
    match r.good with
    | none => true
    | some (step, fp) => Tbl.get none r.peers i == some ⟨some step, some fp⟩

/-- Blocks numbered module-wide that a span covers, with their tag entries, as this module holds them. -/
def State.spanBlocks (s : State) (j : Nat) : List Blk :=
  (allBlocks s.train.groups).filter fun k => k.b / 1024 == j

/-- The number of spans. -/
def State.spanCount (s : State) : Nat :=
  (s.train.groups.foldl (fun n g => max n (gFirst g + gCount g)) 0 + 1023) / 1024

/-- The next piece of a BLOB of the source is asked for. -/
def State.askPiece (s : State) (r : Repair) (sub offset total : Nat) : State :=
  let n := min 224 (total - r.spanBytes.length)
  s.ownRequest (s.replicaModule r.src) (some (Tbl.get 0 r.sessions r.src)) 3 0x8014 sub
    (offset + r.spanBytes.length) n []

/-- The comparison of spans begins, over all of SPAN_FPS of the source. -/
def State.askSpans (s : State) (r : Repair) : State :=
  let r := { r with phase := .spans, spanBytes := [] }
  if s.spanCount = 0 then s.setRepair (some { r with phase := .repair })
  else (s.setRepair (some r)).askPiece r 4 0 (8 * s.spanCount)

/-- The blocks of the spans listed are compared, one span after another, and then the repair goes on. -/
def State.askBlocks (s : State) (r : Repair) (spans : List Nat) : State :=
  match spans with
  | [] => s.setRepair (some { r with phase := .repair, spanBytes := [] })
  | j :: _ =>
    let r := { r with phase := .blocks spans, spanBytes := [] }
    (s.setRepair (some r)).askPiece r 5 (16384 * j) 16384

/-- Every block of the list has been repaired: the repair ends, or is compared once more (R314). -/
def State.repairCheck (s : State) (r : Repair) : State :=
  match r.good with
  | none => s.repairEnds r
  | some (_, fp) =>
    if s.obj 0x8014 3 = fp then s.repairEnds r
    else if r.second then s.repairFails
    else s.askSpans { r with second := true }

/-- The step record is at the step of the good value (R314). -/
def State.stepAgrees (s : State) (r : Repair) : Bool :=
  match r.good with
  | some (step, _) => recStep s.stepRec == step
  | none => true

/-- With nothing left to repair and the step record copied, the repair ends. -/
def State.repairIfDone (s : State) : State :=
  match s.train.repair with
  | some r => if r.phase = .repair ∧ r.todo.isEmpty ∧ s.stepAgrees r then s.repairCheck r else s
  | none => s

/-- READs of a copy that have not been issued are given up. -/
def State.dropReads (s : State) : State :=
  { s with fabric := { s.fabric with waitReq := s.fabric.waitReq.filter (·.issuer != .repair) } }

/-- The source has failed: the next replica that holds good takes its place (R316). -/
def State.sourceFails (s : State) (r : Repair) : State :=
  let r := { r with failed := r.src :: r.failed, asked := false }
  let s := s.dropReads
  match s.nextSource r with
  | none => s.repairFails
  | some i =>
    let r := { r with src := i }
    match r.phase with
    | .spans | .blocks _ => s.askSpans r
    | _ => (s.setRepair (some r)).askRepair

/-- A READ of the copy has failed on a context: that of the source counts. -/
def State.copyFails (s : State) (c : Nat) : State :=
  match s.train.repair with
  | some r => if r.phase = .repair ∧ r.asked ∧ s.replicaCtx r.src = c then s.sourceFails r else s
  | none => s

/-- A repair context that has broken moves the repair to the next replica (R316). -/
def State.repairMoves (s : State) : State :=
  match s.train.repair with
  | some r =>
    if r.phase = .repair ∧ r.asked ∧ (s.flow (s.replicaCtx r.src)).state ≠ .opened then s.sourceFails r else s
  | none => s

/-- A value that more than half of the replicas hold. -/
def majority (vs : List (Nat × Nat)) (n : Nat) : Option (Nat × Nat) := vs.find? fun v => decide (n < 2 * vs.count v)

/-- Every peer has answered, or has failed to: the good value is chosen (R314). -/
def State.judgeValues (s : State) (r : Repair) : State :=
  let n := s.replicaCount
  let peers := (List.range n).filter (· != s.ownReplica)
  let known := fun i => match Tbl.get none r.peers i with
    | some ⟨some a, some b⟩ => some (a, b)
    | _ => none
  if peers.any fun i => (known i).isNone && !r.failed.contains i then s.setRepair (some r)
  else
    let own := (recStep s.stepRec, s.obj 0x8014 3)
    let value := fun i => if i = s.ownReplica then some own else known i
    let good := if 3 ≤ n then majority ((List.range n).filterMap value) n else value 0
    match good with
    | none => s.repairFails
    | some g =>
      let r := { r with good := some g }
      if g = own then
        if r.todo.isEmpty then s.setRepair none
        else
          let r := { r with phase := .repair, good := none }
          match s.nextSource r with
          | none => s.repairFails
          | some i => s.setRepair (some { r with src := i })
      else match s.nextSource r with
        | none => s.repairFails
        | some i => (s.schedFault).askSpans { r with src := i }

/-- Localisation begins: STEP and SHARD_FP of every peer are read. -/
def State.localise (s : State) : State :=
  let todo := match s.train.repair with | some r => r.todo | none => []
  let r : Repair := ⟨.values, [], [], none, 0, [], [], todo, 0, false, false, false⟩
  let peers := (List.range s.replicaCount).filter (· != s.ownReplica)
  let s := s.setRepair (some r)
  if peers.isEmpty then s.judgeValues r else s.each peers fun s i => s.ownHello (s.replicaModule i)

/-- FP_CHECK (R313). -/
def execFpCheck (s : State) : Host.Outcome State Fault Refusal :=
  act s fun s =>
    if s.train.fpChecked then s
    else s.atStep (s.obj 0x8014 2) fun s =>
      let s' := s
      let s := s.setTrain fun t => { t with fpChecked := true, stepNo := s'.stepNo, stepOrigin := s'.tt.origin }
      let r := s.mailbox 1
      let word := fun w => leAt r (256 + 4 * w) 4
      let wide := fun w => leAt r (256 + 4 * w) 8
      let n := s.replicaCount
      let present := (List.range n).all fun i => (wide 6).testBit i
      let diff := Nat.land (wide 0) (wide 2)
      if leAt r 0 4 ≠ f32Nat n ∨ !present ∨ bitAt (word 8) 0 then (s.count 0x8014 0xA).log 0x8015 (domMp 0)
      else if diff ≠ 0 ∨ Nat.land (word 4) (word 5) ≠ 0 then
        (((s.count 0x8014 8).log 0x8011 (domMp 0) [(64, diff)]).interrupt 3).localise
      else s.count 0x8014 7

/-! ### Answers over VC0 -/

/-- The replica index of a module. -/
def State.replicaOf (s : State) (module_ : Nat) : Option Nat :=
  (List.range s.replicaCount).find? fun r => s.replicaModule r == module_

/-- A request of the localisation has failed: the peer has no value, or the source fails. -/
def State.ownFails (s : State) (q : OwnRequest) : State :=
  match s.train.repair, s.replicaOf q.dst with
  | some r, some i =>
    if r.phase = .values then s.judgeValues { r with failed := i :: r.failed }
    else if i = r.src then s.sourceFails r
    else s
  | _, _ => s

/-- A value read from a peer. -/
def State.takeValue (s : State) (r : Repair) (i sub : Nat) (index : Nat) (data : List Byte) (session : Nat) : State :=
  let old : PeerFp := (Tbl.get none r.peers i).getD ⟨none, none⟩
  if index = 0x8000 ∧ sub = 1 then
    let r := { r with peers := Tbl.set none r.peers i (some { old with step := some (leAt data 0 4) }) }
    (s.setRepair (some r)).ownRequest (s.replicaModule i) (some session) 1 0x8014 3 0 0 []
  else if index = 0x8014 ∧ sub = 3 then
    s.judgeValues { r with peers := Tbl.set none r.peers i (some { old with fp := some (leAt data 0 8) }) }
  else s

/-- Spans of this module whose fingerprint differs from the source's. -/
def State.differingSpans (s : State) (src : List Byte) : List Nat :=
  (List.range s.spanCount).filter fun j => s.sumFps (s.spanBlocks j) != leAt src (8 * j) 8

/-- Blocks of span `j` whose tag entry differs from the source's. -/
def State.differingBlocks (s : State) (j : Nat) (src : List Byte) : List Nat :=
  ((s.spanBlocks j).filter fun k => s.tagOf k.b != leAt src (16 * (k.b % 1024)) 16).map (·.b)

/-- A piece of SPAN_FPS or BLOCK_FPS of the source. -/
def State.takePiece (s : State) (r : Repair) (data : List Byte) : State :=
  let r := { r with spanBytes := r.spanBytes ++ data }
  match r.phase with
  | .spans =>
    if r.spanBytes.length < 8 * s.spanCount then (s.setRepair (some r)).askPiece r 4 0 (8 * s.spanCount)
    else (s.askBlocks r (s.differingSpans r.spanBytes)).repairIfDone
  | .blocks (j :: js) =>
    if r.spanBytes.length < 16384 then (s.setRepair (some r)).askPiece r 5 (16384 * j) 16384
    else
      let more := s.differingBlocks j r.spanBytes
      (s.askBlocks { r with todo := more.foldl (fun t b => insertAsc b t) r.todo } js).repairIfDone
  | _ => s

/-- An answer to a request that this module made. -/
def State.takeAnswer (s : State) (q : OwnRequest) (w : Nat) (data : List Byte) : State :=
  let s := s.dropOwn q.seq
  match s.train.repair, s.replicaOf q.dst with
  | some r, some i =>
    if hAbort w ≠ 0 then s.ownFails q
    else match q.session with
      | none =>
        let r := { r with sessions := Tbl.set 0 r.sessions i (leAt data 2 2) }
        (s.setRepair (some r)).ownRequest q.dst (some (leAt data 2 2)) 1 0x8000 1 0 0 []
      | some x =>
        let h := q.header.toNat
        if r.phase = .values then s.takeValue r i (hSub h) (hIndex h) data x
        else if i = r.src ∧ data.length = hLength h then s.takePiece r data
        else s.ownFails q
  | _, _ => s

/-- The packet that carried a VC0 message leaves the receive ring (R119). -/
def State.popVc0 (s : State) (m : DxpMsg) : State :=
  if m.transport ≠ 2 then s
  else
    match s.fabric.vc0Ring.find? fun p => p.src == m.source && p.data == dxpBytes m.header m.data with
    | some p => { s with fabric := { s.fabric with vc0Ring := s.fabric.vc0Ring.erase p } }
    | none => s

/-- The format of R399, for an answer over VC0 with `n` bytes of data. -/
def answerFormat (w n : Nat) : Bool :=
  decide (hVersion w = 2) && decide (fld w 112 112 = 0) && decide (fld w 91 0 = 0) && decide (hType w < 0xE) &&
  !hMulticast w && !hMore w && !hPersist w && decide (hLength w ≤ 4064) && decide (n = hLength w)

/-- DXP_RESPONSE: a RESPONSE or HELLO_ACK for a request that this module has sent over VC0. One that breaks the format is
rejected whole (R17, R399). -/
def execDxpResponse (m : DxpMsg) (s : State) : Host.Outcome State Fault Refusal :=
  act s fun s =>
    let w := m.header.toNat
    if m.transport ≠ 2 ∨ !(hKind w == 2 || hKind w == 4) then s
    else
      let s := s.popVc0 m
      match s.dict.ownRequests.find? fun q =>
          answerFormat w m.data.length && q.seq == hSeq w && q.dst == m.source && (if q.session.isNone then hKind w == 2 else hKind w == 4) with
      | none => s
      | some q => (s.takeAnswer q w m.data).askRepair

/-- VC0_RETRY_EXPIRE: the request is sent again, or fails after its last attempt. -/
def execVc0RetryExpire (seq : BitVec 32) (s : State) : Host.Outcome State Fault Refusal :=
  act s fun s =>
    match s.dict.ownRequests.find? fun q => q.seq == seq.toNat with
    | none => s
    | some q =>
      let s := s.reach (q.sentAt + 1000 * s.obj 0x1002 0xD)
      if s.obj 0x1002 0xE ≤ q.attempts then ((s.dropOwn q.seq).ownFails q).askRepair
      else
        let again := fun x : OwnRequest =>
          if x.seq = q.seq then { x with attempts := x.attempts + 1, sentAt := s.now } else x
        (s.setDict fun d => { d with ownRequests := d.ownRequests.map again }).sendMgmt q.dst
          (dxpBytes q.header q.data)

/-! ### Repair (R316, R317) -/

/-- The arrays have the sizes of the block. -/
def repairFits (d : RepairData) (k : Blk) : Bool :=
  d.master.length == 65536 && d.m1.length == 32768 && (!gAdam k.g || d.m2.length == 32768) &&
  d.work.length == gWorkBytes k.g && (!gSec k.g || d.maps.length == (workSlots k.g).length) &&
  (!gRope k.g || (d.rope.length == 524288 && d.anchorMaps.length == 16 && d.hists.length == 8192))

/-- The source's records are taken: the rope record with the first block (R351), and, of a module behind the good value, the
step record's fields with STATE IDLE. -/
def State.takeRecords (s : State) (r : Repair) (d : RepairData) : State :=
  let s := s.on (s.ropeOn && r.done == 0) fun s => s.setRopeRec d.ropeRec.toNat
  match r.good with
  | none => s
  | some (step, _) =>
    let w := d.step.toNat
    if recStep s.stepRec = step then s
    else
      let old := s.stepRec
      s.setStepRec (stepWord 0 (fld w 505 505) (bitAt old 504) (bitAt old 503) (recStep w) (fld w 447 416)
        (fld old 415 384) (fld old 383 352) (fld w 351 320) (fld w 319 288) (fld w 287 256) (fld w 255 224)
        (fld w 223 192))

/-- The rope part of a repair: the arrays with the map bytes of the anchor, and, once the engine has finished its list, its
histogram copies and cursor, which follow the repaired block (R351). -/
def State.repairRope (s : State) (k : Blk) (d : RepairData) : List (Nat × List Byte) :=
  if !gRope k.g then []
  else
    (gRopeAt k.g k.i, d.rope) :: (((s.anchorMaps k).zip d.anchorMaps).map fun x => (x.1, [x.2])) ++
    (if s.engineDone k.engine then
      [(s.histAt k.engine 0, d.hists), (s.ropeCursorAt k.engine, leBytes 32 d.cursor.toNat)] else [])

/-- The writes of a repair, in order: the arrays, then the tags, then the fingerprint. -/
def State.repairWrites (s : State) (k : Blk) (d : RepairData) : List (Nat × List Byte) :=
  [(gMaster k.g k.i, d.master), (gM1 k.g k.i, d.m1)] ++
  (if gAdam k.g then [(gM2 k.g k.i, d.m2)] else []) ++
  [(gWorkAt k.g k.i, d.work)] ++
  (if gSec k.g then ((workSlots k.g).zip d.maps).map fun x => (s.lenMap (gWorkAt k.g k.i + x.1), [x.2]) else []) ++
  s.repairRope k d ++
  [(s.tagAt k.b, leBytes 8 (fld d.tag.toNat 63 0)), (s.tagAt k.b + 8, leBytes 8 (fld d.tag.toNat 127 64))]

/-- repair(b, src): the block is written and its fingerprint verified. -/
def State.repairBlk (s : State) (r : Repair) (k : Blk) (d : RepairData) : State :=
  let old := fld (s.tagOf k.b) 127 64
  let s := s.takeRecords r d
  let ranges := (s.repairWrites k d).map fun w => (w.1, w.2.length)
  let (s, ps) := s.enginePages k.engine (ranges.flatMap fun a => unitsOf a.1 a.2)
  let e := s.eWrites ps (s.repairWrites k d)
  let fp := fld d.tag.toNat 127 64
  match e.2 with
  | some c => e.1.engineReset k.engine c
  | none =>
    let s := e.1.moveShardFp old fp
    let m2 := if gAdam k.g then words2 d.m2 else List.replicate 16384 0
    if fingerprint k.b (words4 d.master) (words2 d.m1) m2 = fp then
      ((((s.count 0x8014 6).setRepair (some
        { r with todo := r.todo.erase k.b, done := r.done + 1, again := false, asked := false }))).repairIfDone).askRepair
    else if r.again then s.repairFails
    else (s.setRepair (some { r with again := true, asked := false })).askRepair

/-- The copy has come whole: every READ of it has entered the fabric and been answered. -/
def State.finishCopy (s : State) : State :=
  let mine := fun xs : List Request => xs.filter (·.issuer == .repair)
  let s := s.askRepair
  let s := s.each (mine s.fabric.waitReq) State.issueRequest
  s.each (mine s.fabric.inFlight) fun s r => s.releaseRequest r 0

/-- REPAIR_BLOCK: the copy of the lowest block that waits has arrived, or a request for it has failed; where no
block waits, the records alone. A repair whose context has broken moves on instead. -/
def execRepairBlock (b : Nat) (data : RepairData) (s : State) : Host.Outcome State Fault Refusal :=
  act s fun s =>
    match s.train.repair with
    | none => s
    | some r =>
      if r.phase ≠ .repair ∨ !(r.todo.isEmpty || r.todo.head? == some b) then s
      else if !data.ok then s.sourceFails r
      else
        let s := s.finishCopy
        let r := { r with asked := true }
        if (s.flow (s.replicaCtx r.src)).state ≠ .opened then s.sourceFails r
        else if r.todo.isEmpty then (s.takeRecords r data).repairIfDone
        else match (allBlocks s.train.groups).find? (·.b == b) with
          | none => s
          | some k => if repairFits data k then s.repairBlk r k data else s.sourceFails r

/-! ### Update engine hang (R421, R428) -/

/-- ENGINE_PACE_EXPIRE: an engine with work that has not advanced is reset, and its sweep resumes. -/
def execEnginePaceExpire (engine : Engine) (s : State) : Host.Outcome State Fault Refusal :=
  act s fun s =>
    let n := engine.val
    let busy := recState s.stepRec == 1 && !s.engineDone n
    if !s.training || !(busy || (s.engineSt n).stopped) then s
    else
      let s := s.reach ((s.engineSt n).pace + s.obj 0x9000 3)
      let s := ((s.faultCount 0).log 0x9001 (domEngine n) [(5, n)]).engineReset n 0
      if s.obj 0x9003 1 = 1 then s
      else if busy then ((s.count 0x8003 3).log 0x8003 (domEngine n)).sweepEngine n
      else s.setEngineSt n { s.engineSt n with stopped := false }

end Sys2Proof.Machine
end

