-- ==== Sys2Proof/Machine/Remote.lean ====
section
/-!
DEFINITION. Remote operations and the reduce units (R109-R117, R496).
-/

namespace Sys2Proof.Machine

/-! ### Issue (R110) -/

/-- The request may enter the fabric. -/
def State.issuable (s : State) (r : Request) : Bool :=
  let f := s.flow r.ctx
  f.state == .opened && decide (f.outstanding.toNat < f.outLimit.toNat) &&
  decide (r.reserve ≤ s.poolFree (home r.ctx))

/-- The first request of a die that may be issued and passes no earlier one of its context. -/
def State.nextRequest (s : State) (die : Nat) : List Nat → List Request → Option Request
  | _, [] => none
  | skip, r :: rs =>
    if home r.ctx = die ∧ !skip.contains r.ctx.val ∧ s.issuable r then some r
    else s.nextRequest die (r.ctx.val :: skip) rs

/-- REQUEST_ISSUE. -/
def execRequestIssue (die : HDie) (s : State) : Host.Outcome State Fault Refusal :=
  act s fun s =>
    match s.nextRequest die [] s.fabric.waitReq with
    | none => s
    | some r => s.issueRequest r

/-! ### Requests at the target (R111) -/

/-- The bytes that a request may touch: the status otherwise (R111 step 3, R241). -/
def State.targetCheck (s : State) (p : Packet) (write : Bool) (n : Nat) : Option Nat :=
  let a := p.addr
  match p.addrKind with
  | 0 => if s.visible a n && s.granted p.key write a n then none else some 2
  | 1 =>
    if storeFormOk a && decide (fld a 22 0 + n ≤ storeSize (fld a 32 31)) && s.storeKeyOk (fld a 40 33) p.key
    then none else some 2
  | _ => some 7

def State.targetRead (s : State) (p : Packet) (n : Nat) : List Byte :=
  let a := p.addr
  if p.addrKind = 0 then s.read a n else s.storeRead (fld a 40 33) (fld a 32 31) (fld a 22 0) n

def State.targetWrite (s : State) (p : Packet) (bs : List Byte) : State :=
  let a := p.addr
  if p.addrKind = 0 then s.write a bs else s.storeWriteRaw (fld a 40 33) (fld a 32 31) (fld a 22 0) bs

/-- The response to a request, on VC1. -/
def State.respond (s : State) (p : Packet) (op status operand : Nat) (data : List Byte) : State :=
  s.inject (home p.dstCtx) ⟨packetHeader op 1 s.moduleNumber p.src p.srcCtx p.dstCtx p.seq
    (s.flow p.dstCtx).stageKey.toNat 0 0 data.length 0 0 operand 0 status, data⟩ (cdieOf p)

/-- A request arrives: the checks of R111 and the order of R112, then the operation. -/
def State.target (s : State) (p : Packet) (op : Nat) (run : State → State) : State :=
  if p.op ≠ op ∨ !p.ok ∨ p.dst ≠ s.moduleNumber then s
  else
    let c := p.dstCtx
    let s := s.useFlow c
    let f := s.flow c
    let fail := s.errorTo (home c) p
    if f.state ≠ .opened ∨ f.peerModule.toNat ≠ p.src ∨ f.peerContext.toNat ≠ p.srcCtx then fail 5
    else if f.ordered ∧ p.seq ≠ f.rxNext.toNat then (fail 5).breakFlow c 5 true
    else
      let s := s.on f.ordered fun s => s.setFlow c { f with rxNext := f.rxNext + 1 }
      if p.key ≠ f.stageKey then s.errorTo (home c) p 1 else run s

/-- READ: up to 4 KiB. -/
def execMemRead (p : Packet) (s : State) : Host.Outcome State Fault Refusal :=
  act s (·.target p 1 fun s =>
    let die := home p.dstCtx
    if 4096 < p.length then s.errorTo die p 7
    else match s.targetCheck p false p.length with
      | some st => s.errorTo die p st
      | none =>
        if p.addrKind = 0 ∧ s.poisoned p.addr p.length then (s.readPoison p.addr p.length).errorTo die p 8
        else s.respond p 0x21 0 0 (s.targetRead p p.length))

/-- A WRITE at its target. -/
def State.serveWrite (s : State) (p : Packet) : State :=
  s.target p 2 fun s =>
    match s.targetCheck p true p.length with
    | some st => s.errorTo (home p.dstCtx) p st
    | none => (s.targetWrite p p.data).respond p 0x22 0 0 []

/-- The new value of an atomic on `n` bits, none for a reserved operation or size. -/
def atomicFn (op n old a b : Nat) : Option Nat :=
  let m := 2 ^ n
  let a := a % m
  let b := b % m
  match op with
  | 0x1 => some ((old + a) % m)
  | 0x2 => some (Nat.land old a)
  | 0x3 => some (Nat.lor old a)
  | 0x4 => some (Nat.xor old a)
  | 0x5 => some a
  | 0x6 => some (if old = a then b else old)
  | 0x7 => some (max old a)
  | 0x8 => some (min old a)
  | 0x9 => some (if sext n old < sext n a then a else old)
  | 0xA => some (if sext n a < sext n old then a else old)
  | 0xB => if n = 32 then some (f32Add old a) else none
  | _ => none

/-- ATOMIC: read, modify and write as one step. -/
def execMemAtomic (p : Packet) (s : State) : Host.Outcome State Fault Refusal :=
  act s (·.target p 3 fun s =>
    let die := home p.dstCtx
    if p.atomicSize < 2 then s.errorTo die p 7
    else
      let n := if p.atomicSize = 2 then 4 else 8
      match (s.targetCheck p false n).orElse fun _ => s.targetCheck p true n with
      | some st => s.errorTo die p st
      | none =>
        if p.addr % n ≠ 0 then s.errorTo die p 3
        else if p.addrKind = 0 ∧ s.poisoned p.addr n then (s.readPoison p.addr n).errorTo die p 8
        else
          let old := leNat (s.targetRead p n)
          match atomicFn p.atomicOp (8 * n) old p.operand0 p.operand1 with
          | none => s.errorTo die p 7
          | some v => (s.targetWrite p (leBytes n v)).respond p 0x23 0 old [])

/-- The owner of a ring is told of an entry (NOTIFY_MODE). -/
def State.notify (s : State) (f : Flow) : State :=
  match f.notifyMode.toNat with
  | 1 => s.post f.notifyCore.toNat f.notifySem.toNat 1 false
  | 2 => s.interrupt f.msixVector.toNat
  | _ => s

/-- MESSAGE: an entry is appended to the ring, after a pad entry where it would cross the ring's end.
Of the pad only its length is given: its other bytes are free. A ring outside software-visible memory is refused (R25,
R111 step 3, R357); whether the region permissions are asked for the ring is open: here they are not (assumption 111). -/
def execMemMessage (p : Packet) (s : State) : Host.Outcome State Fault Refusal :=
  act s (·.target p 4 fun s =>
    let die := home p.dstCtx
    let f := s.flow p.dstCtx
    let size := 2 ^ f.ringLog2.toNat
    let pos := f.ringTail.toNat % size
    let used := (f.ringTail.toNat + size - f.ringHead.toNat % size) % size
    let entry := roundUp (16 + p.length) 64
    let pad := if size < pos + entry then size - pos else 0
    if 4096 < p.length then s.errorTo die p 7
    else if f.ringLog2 ≠ 0 ∧ !s.visible f.ringBase.toNat size then s.errorTo die p 2
    else if f.ringLog2 = 0 ∨ size ≤ used + pad + entry then s.respond p 0x24 4 0 []
    else
      let (n, s) := if pad = 0 then (0, s) else s.draw
      let s := s.on (pad != 0) fun s =>
        s.write (f.ringBase.toNat + pos) (leBytes 2 0xFFFF ++ leBytes (pad - 2) n)
      let at_ := if pad = 0 then pos else 0
      let head := leBytes 2 p.length ++ leBytes 2 p.src ++ leBytes 4 p.srcCtx ++ leBytes 4 p.seq ++ leBytes 4 0
      let body := head ++ p.data
      let s := s.write (f.ringBase.toNat + at_) (body ++ List.replicate (entry - body.length) 0)
      let s := s.setFlow p.dstCtx { s.flow p.dstCtx with ringTail := BitVec.ofNat 24 ((at_ + entry) % size) }
      (s.notify f).respond p 0x24 0 0 [])

/-! ### Responses and breaks (R109, R110, R114) -/

/-- The status of a response: a reserved one counts as 0x07. -/
def responseStatus (p : Packet) (r : Request) : Nat :=
  if p.op ≠ 0x25 ∧ p.op ≠ 0x20 + r.op then 7
  else if 0xC ≤ p.status then 7
  else if p.status = 0 ∧ p.op = 0x25 then 7
  else if p.status = 0 ∧ r.op = 1 ∧ p.data.length ≠ r.length then 7
  else p.status

/-- A mover's request is answered; the bytes of a READ are placed at its destination (R236). -/
def State.answerMover (s : State) (m dst count : Nat) (data : List Byte) : State :=
  match (s.mover m).run with
  | none => s
  | some r =>
    let acc : Acc := ⟨s.mem, s.stores, [], [], none⟩
    let w := r.item.desc.toNat
    let acc := if count = 0 then acc
      else s.sideWrite (m / 2) r.item.key r.xlat acc (dDstKind w) dst (data.take count)
    let fault := r.fault.orElse fun _ => acc.fault
    let s := s.setMover m { s.mover m with
      pace := s.now
      run := some { r with
        remaining := if acc.fault.isSome then 0 else r.remaining - 1
        fault := fault
        memWrites := r.memWrites ++ acc.memWrites.reverse
        storeWrites := r.storeWrites ++ acc.storeWrites.reverse
        later := r.later.drop 1 } }
    if fault.isSome then s else s.queueRequests (r.later.take 1)

/-- RESPONSE_ARRIVE: a packet on VC1 reaches the reservation that matches its context and SEQ, or is
discarded and counted. -/
def execResponseArrive (die : HDie) (p : Packet) (s : State) : Host.Outcome State Fault Refusal :=
  act s fun s =>
    if !(decide (0x21 ≤ p.op) && decide (p.op ≤ 0x25) && p.ok) || p.dst != s.moduleNumber then s
    else match s.fabric.inFlight.find? fun r =>
        r.ctx.val == p.dstCtx && r.seq == p.seq && home r.ctx == die.val with
      | none => s.count 0x6000 8
      | some r =>
        let s := s.useFlow r.ctx
        let f := s.flow r.ctx
        if f.state ≠ .opened then s
        else
        let st := responseStatus p r
        let s := s.releaseRequest r st
        match r.issuer with
        | .mover m dst count => if st ≠ 0 then s.failIssuer r else s.answerMover m dst count p.data
        | .repair => if st ≠ 0 then s.copyFails r.ctx else s
        | .other => s

/-- BREAK: the peer's context has broken. -/
def execFlowBreak (p : Packet) (s : State) : Host.Outcome State Fault Refusal :=
  act s fun s =>
    if p.op ≠ 7 ∨ !p.ok ∨ p.dst ≠ s.moduleNumber then s else (s.breakFlow p.dstCtx 0xA false).repairMoves

/-- LEASE_LAPSE. -/
def execLeaseLapse (c : FlowId) (s : State) : Host.Outcome State Fault Refusal :=
  act s fun s =>
    let f := s.flow c
    if f.state ≠ .opened then s else ((s.reach (1000 * f.leaseEnd.toNat)).breakFlow c 9 true).repairMoves

/-- RESP_TIMEOUT_EXPIRE: a request has waited RESP_TIMEOUT for its response. -/
def execRespTimeoutExpire (c : FlowId) (seq : BitVec 32) (s : State) : Host.Outcome State Fault Refusal :=
  act s fun s =>
    match s.fabric.inFlight.find? fun r => r.ctx == c && r.seq == seq.toNat with
    | none => s
    | some r => ((s.reach (r.at_ + 1000 * s.respTimeout c)).breakFlow c 0xB true).repairMoves

/-! ### Reduce units (R115-R117) -/

/-- The element format of a block operation. -/
def reduceFmt (op : Nat) : Nat := if op = 1 then 0x05 else 0x04

/-- What a block counts as: NaN blocks as R170 has it, elements turned to zero, exact zeros. -/
def Delta.reduceBlock (d : Delta) (os : List Outcome) : Delta :=
  os.foldl (fun d o => match o with
    | .nan => { d with nan := d.nan + 1, total := d.total + 1 }
    | .vanished => { d with vanished := d.vanished + 1 }
    | .zero => { d with zero := d.zero + 1 }
    | _ => d) d

/-- One block pair (R116): the scale and elements written, and the delta. -/
def reduceBlock (fmt : Nat) (d : Delta) (s1 s2 : Nat) (x y : List Byte) : Nat × List Byte × Delta :=
  match floatFmt fmt with
  | none => (0xFF, x, d)
  | some f =>
    let one := fun (sc : Nat) (b : Byte) => decodeScaled fmt sc b.toNat
    let sums := (x.zip y).map fun p => narrow f32 .rne false ((one s1 p.1).add (one s2 p.2))
    let vals := sums.map fun r => ofF32 r.1
    let q := quantiseBlock f (sums.map fun _ => .rne) vals
    let os := (q.2.2.zip sums).map fun r => if r.1 = .zero ∧ r.2.2 = .vanished then .vanished else r.1
    (q.1, q.2.1.map (BitVec.ofNat 8), d.reduceBlock os)

/-- A group of 2,112 bytes: local operand, arriving data. -/
def reduceGroup (fmt : Nat) (d : Delta) (a b : List Byte) : List Byte × Delta :=
  let r := (List.range 64).foldl (fun (acc : List Byte × List Byte × Delta) i =>
    let blk := fun bs : List Byte => (bs.drop (64 + 32 * i)).take 32
    let q := reduceBlock fmt acc.2.2 (leAt a i 1) (leAt b i 1) (blk a) (blk b)
    (acc.1 ++ [BitVec.ofNat 8 q.1], acc.2.1 ++ q.2.1, q.2.2)) ([], [], d)
  (r.1 ++ r.2.1, r.2.2)

/-- F32 values added: the bytes, and what each counts as. -/
def addF32s (n : Nat) (a b : List Byte) : List Byte × List Outcome :=
  let rs := (List.range n).map fun i =>
    narrow f32 .rne false ((ofF32 (leAt a (4 * i) 4)).add (ofF32 (leAt b (4 * i) 4)))
  (rs.flatMap fun r => leBytes 4 r.1, rs.map (·.2))

/-- A group combined: what is written, and the delta. -/
def State.reduce (s : State) (op tag : Nat) (a b : List Byte) : List Byte × Delta :=
  let d := Delta.empty tag 0
  match op with
  | 3 =>
    let r := addF32s (b.length / 4) a b
    (r.1, s.tally d r.2)
  | 4 =>
    let r := addF32s 64 a b
    let flags := (List.range 64).flatMap fun i =>
      leBytes 4 (Nat.lor (leAt a (256 + 4 * i) 4) (leAt b (256 + 4 * i) 4))
    (r.1 ++ flags, d)
  | _ => reduceGroup (reduceFmt op) d a b

/-- F32 words of bytes. -/
def f32Words (n : Nat) (bs : List Byte) : List Nat := (List.range n).map fun i => leAt bs (4 * i) 4

/-- Subnormal inputs of a combined group (R157). -/
def reduceFlushed (op : Nat) (a b : List Byte) : Nat :=
  let n := if op = 3 then b.length / 4 else 64
  match op with
  | 3 | 4 => flushed f32 (f32Words n a) + flushed f32 (f32Words n b)
  | _ => flushedGroup (reduceFmt op) a + flushedGroup (reduceFmt op) b

/-- The lowest group of which every byte is held. -/
def RxWindow.wholeGroup (w : RxWindow) : Option Nat :=
  let g := groupBytes w.open_.op.toNat
  (List.range ((w.open_.byteCount + g - 1) / g)).find? fun j =>
    !w.bad.contains j &&
    (w.held.filter fun b => decide (g * j ≤ b.1) && decide (b.1 < g * (j + 1))).length ==
      min g (w.open_.byteCount - g * j)

/-- REDUCE_GROUP_COMBINE (R496): a group that is held whole is combined with its local operand, or left
unchanged where that cannot be read. -/
def execReduceGroupCombine (link : Link) (s : State) : Host.Outcome State Fault Refusal :=
  act s fun s =>
    match s.rxOf link with
    | none => s
    | some w =>
      match w.wholeGroup with
      | none => s
      | some j =>
        let o := w.open_
        let g := groupBytes o.op.toNat
        let lo := g * j
        let mine := w.held.filter fun b => decide (lo ≤ b.1) && decide (b.1 < lo + g)
        let w := { w with held := w.held.filter fun b => !(decide (lo ≤ b.1) && decide (b.1 < lo + g)) }
        let n := mine.length
        let kind := o.dstKind.toNat
        let addr := o.dstAddr.toNat
        if kind = 0 ∧ s.poisoned (addr + lo) n then
          ((s.readPoison (addr + lo) n).landingFault link w ((lo + n - 1) / 512 + 1 - lo / 512)).setRx link
            (some { w with faulted := true })
        else
          let local_ := (List.range n).map fun i => s.landRead kind addr (lo + i : Nat)
          let r := s.reduce o.op.toNat o.tag.toNat local_ (mine.map (·.2))
          let s := ((s.landBytes kind addr none lo r.1).setRx link (some w)).countFlushed (reduceFlushed o.op.toNat local_ (mine.map (·.2)))
          s.on (o.op != 4) (·.sendDeltas [r.2])

end Sys2Proof.Machine
end

