-- ==== Sys2Proof/Machine/RopeLink.lean ====
section
/-!
DEFINITION. Rope sessions: frames, handshakes and key epochs, sending, acknowledgement and slack (R320-R323,
R331-R341, R346, R422, R428).
-/

namespace Sys2Proof.Machine

/-! ### Frames (R331) -/

def rfVersion (w : Nat) : Nat := fld w 511 508
def rfKind (w : Nat) : Nat := fld w 507 504
def rfEpoch (w : Nat) : Nat := fld w 503 502
def rfSrcSite (w : Nat) : Nat := fld w 499 497
def rfDstSite (w : Nat) : Nat := fld w 496 494
def rfSrcModule (w : Nat) : Nat := fld w 493 478
def rfDstModule (w : Nat) : Nat := fld w 477 462
def rfStripe (w : Nat) : Nat := fld w 461 457
def rfSeq (w : Nat) : Nat := fld w 456 425
def rfRound (w : Nat) : Nat := fld w 424 393
def rfEngine (w : Nat) : Nat := fld w 392 388
def rfSlot (w : Nat) : Nat := fld w 387 372
def rfBodyLen (w : Nat) : Nat := fld w 371 358
def rfCrc (w : Nat) : Nat := fld w 357 326
def rfTimeUs (w : Nat) : Nat := fld w 325 270
def rfNonce (w : Nat) : Nat := fld w 269 206
def rfItem (w : Nat) : Nat := fld w 205 174

/-- The kinds that are delivered reliably (R332). -/
def sequencedKind (kind : Nat) : Bool := [3, 5, 6, 7, 8, 9, 0xA].contains kind

/-- PEER_n (R352): leader module, key hash, stripes and rate. -/
def State.peerModule (s : State) (site : Nat) : Nat := leAt (s.recOf 0x7001 site) 0 2
def State.peerHash (s : State) (site : Nat) : List Byte := ((s.recOf 0x7001 site).drop 2).take 48
def State.peerStripes (s : State) (site : Nat) : Nat := leAt (s.recOf 0x7001 site) 50 1
def State.peerRate (s : State) (site : Nat) : Nat := leAt (s.recOf 0x7001 site) 51 8

/-- This module is its group's rope leader (R321). -/
def State.isLeader (s : State) : Bool := s.replicaCount == 1 || s.ownReplica == 0

/-- The header of a frame of this module toward a peer. -/
def State.ropeHeader (s : State) (x kind epoch : Nat) (retx : Bool) (seq round engine slot : Nat) (body : List Byte)
    (nonce item : Nat) : BitVec 512 :=
  0x2#4 ++ BitVec.ofNat 4 kind ++ BitVec.ofNat 2 epoch ++ BitVec.ofBool retx ++ BitVec.ofBool s.time.taiValid ++
  BitVec.ofNat 3 s.ownSite ++ BitVec.ofNat 3 (x / 32) ++ BitVec.ofNat 16 s.moduleNumber ++
  BitVec.ofNat 16 (s.peerModule (x / 32)) ++ BitVec.ofNat 5 (x % 32) ++ BitVec.ofNat 32 seq ++
  BitVec.ofNat 32 round ++ BitVec.ofNat 5 engine ++ BitVec.ofNat 16 slot ++ BitVec.ofNat 14 body.length ++
  BitVec.ofNat 32 (crc32c body) ++ BitVec.ofNat 56 (s.now / 1000) ++ BitVec.ofNat 64 nonce ++
  BitVec.ofNat 32 item ++ 0#174

/-! ### Ports (R323) -/

/-- Rope ports in service, ascending. -/
def State.ropePorts (s : State) : List Nat := (List.range 64).filter fun l => s.role l == 2 && s.linkUp l

/-- A frame leaves by a rope port of this module; with none in service it waits. -/
def State.portSend (s : State) (stripe : Nat) (h : BitVec 512) (body : List Byte) : State :=
  let ports := s.ropePorts
  match ports[stripe % ports.length]? with
  | some l => s.emit (.rope l h body)
  | none => s.setRope fun r => { r with gateway := r.gateway ++ [⟨h, body⟩] }

/-- A frame in a ROPE_FRAME packet to another module (R113). -/
def State.packetSend (s : State) (dst : Nat) (h : BitVec 512) (body : List Byte) : State :=
  let bs := leBytes 64 h.toNat ++ body
  s.inject 0 ⟨packetHeader 5 3 s.moduleNumber dst 0 0 0 0 0 0 bs.length 0 0 0 0 0, bs⟩

/-- A frame of this module is sent by way of ROPE_VIA. -/
def State.routeFrame (s : State) (stripe : Nat) (h : BitVec 512) (body : List Byte) : State :=
  if s.obj 0x7000 3 = s.moduleNumber then s.portSend stripe h body else s.packetSend (s.obj 0x7000 3) h body

/-- The path to the gateway has a rope port in service, as far as this module sees. -/
def State.pathUp (s : State) : Bool := s.obj 0x7000 3 != s.moduleNumber || !s.ropePorts.isEmpty

/-! ### Keys (R339) -/

/-- Key and salt of a direction, stripe and epoch. -/
def ropeKey (ss th : List Byte) (dir stripe epoch : Nat) : List Byte × List Byte :=
  let o := Config.sha3 (ss ++ th ++ leBytes 1 dir ++ leBytes 1 stripe ++ leBytes 4 epoch)
  (o.take 32, (o.drop 32).take 4)

/-- The keys of a stripe toward a site, in an epoch. -/
def State.epochKeys (s : State) (ss th : List Byte) (x epoch : Nat) : KeyEpoch :=
  let mine := if s.ownSite < x / 32 then 0 else 1
  let out := ropeKey ss th mine (x % 32) epoch
  let inn := ropeKey ss th (1 - mine) (x % 32) epoch
  ⟨epoch, out.1, out.2, inn.1, inn.2⟩

/-- The GCM nonce. -/
def ropeNonce (salt : List Byte) (n : Nat) : List Byte := salt ++ (leBytes 8 n).reverse

/-! ### Sending (R336, R338) -/

/-- A token bucket of 64 KiB at a rate in bytes/s, filled to hall time `now`. -/
def refill (tokens at_ rate now : Nat) : Nat := min 65536 (tokens + rate * (now - at_) / 1000000000)

/-- Both buckets hold the frame's bytes; they are taken. -/
def State.takeTokens (s : State) (site n : Nat) : Option State :=
  let p := s.ropePeer site
  let a := refill p.tokens p.tokensAt (s.peerRate site) s.now
  let b := refill s.rope.tokens s.rope.tokensAt (s.obj 0x7003 1) s.now
  if n ≤ a ∧ n ≤ b then
    some ((s.setPeer site { p with tokens := a - n, tokensAt := s.now }).setRope fun r =>
      { r with tokens := b - n, tokensAt := s.now })
  else none

/-- A frame is encrypted under the sender's epoch with a fresh nonce and sent; no frame without tokens. -/
def State.transmit (s : State) (x kind : Nat) (retx : Bool) (seq round engine slot item : Nat) (body : List Byte) :
    Option State :=
  let v := s.ropeSess x
  if 2 ^ 32 - 1 ≤ v.nonce ∧ kind ≠ 4 then none
  else match s.takeTokens (x / 32) (80 + body.length) with
    | none => none
    | some s =>
      let h := s.ropeHeader x kind (v.cur.number % 4) retx seq round engine slot body v.nonce item
      let c := Config.gcmSeal v.cur.keyOut (ropeNonce v.cur.saltOut v.nonce) (leBytes 64 h.toNat) body
      some ((s.setSess x { v with nonce := v.nonce + 1 }).routeFrame (x % 32) h (c.1 ++ c.2))

/-- `a` lies before `b` (R336). -/
def serialLt (a b : Nat) : Bool := let d := (b + 2 ^ 32 - a % 2 ^ 32) % 2 ^ 32; decide (0 < d) && decide (d < 2 ^ 31)

/-- The class of a frame in the order of R338, and its place within it. -/
def OutFrame.rank (f : OutFrame) : Nat × Nat :=
  match f.kind with
  | 6 | 7 | 5 => (0, 0)
  | 3 => (1, (f.round * 32 + f.engine) * 65536 + f.slot)
  | 8 => (2, 0)
  | 9 => (3, 0)
  | _ => (4, 0)

/-- The frame to be sent first: the lowest rank, the oldest among equals. -/
def firstFrame : List OutFrame → Option OutFrame
  | [] => none
  | f :: fs =>
    match firstFrame fs with
    | some g =>
      let a := f.rank
      let b := g.rank
      if b.1 < a.1 ∨ (b.1 = a.1 ∧ b.2 < a.2) then some g else some f
    | none => some f

/-- A first send at or beyond the sender's SWITCH_SEQ takes the new epoch (R340). -/
def State.switchEpoch (s : State) (x seq : Nat) : State :=
  let v := s.ropeSess x
  match v.next with
  | some (k, sw) =>
    if serialLt seq sw then s
    else (s.setSess x { v with prevOut := some v.cur, prevIn := some v.cur, cur := k, next := none, nonce := 0 }).log 0x7005 (domSession x)
      [(3, x / 32), (5, x % 32)]
  | none => s

/-- A SACK's body (R337). -/
def sackBody (v : RopeSess) (now : Nat) : List Byte :=
  let bit := fun i => v.rxHave.contains ((v.rxCum + 1 + i) % 2 ^ 32)
  leBytes 4 v.rxCum ++ leBytes 8 v.newest ++ leBytes 4 ((now - v.newestAt) / 1000) ++ List.replicate 48 0 ++
  ((List.range 512).map fun j =>
    BitVec.ofNat 8 (((List.range 8).filter fun b => bit (8 * j + b)).foldl (fun n b => n + 2 ^ b) 0))

/-- A SACK is due: it is queued, and nothing is unreported. -/
def State.queueSack (s : State) (x : Nat) : State :=
  s.mapSess x fun v => { v with urgent := v.urgent ++ [(4, sackBody v s.now)], unreported := 0, since := none }

/-- A frame that is due is sent again (R341). -/
def State.resend (s : State) (x : Nat) (f : OutFrame) : State :=
  match s.transmit x f.kind true f.seq f.round f.engine f.slot f.item f.body with
  | none => s
  | some s =>
    let again := fun g : OutFrame => if g.seq = f.seq then { g with sentAt := s.now, due := false } else g
    (s.mapSess x fun v => { v with unacked := v.unacked.map again }).count64 0x7005 0xC

/-- The stripe sends its next frame. -/
def State.ropeSendNext (s : State) (x : Nat) : State :=
  let v := s.ropeSess x
  match v.urgent with
  | (kind, body) :: rest =>
    match s.transmit x kind false 0 0 0 0 0 body with
    | some s => s.mapSess x fun v => { v with urgent := rest }
    | none => s
  | [] =>
    if v.state ≠ .opened then s
    else
      -- a frame whose slot in the store fails its check waits (R360)
      let bad := fun f : OutFrame => f.kind == 3 && s.storeBad f.round f.engine f.slot
      match v.unacked.find? fun f => f.due && !bad f with
      | some f => s.resend x f
      | none =>
        match firstFrame (v.queue.filter fun f => !bad f) with
        | none => s
        | some f =>
          if !serialLt v.txSeq (v.cumOut + v.window) then s
          else
            let s := s.switchEpoch x v.txSeq
            let seq := v.txSeq
            match s.transmit x f.kind false seq f.round f.engine f.slot f.item f.body with
            | none => s
            | some s => s.mapSess x fun v => { v with
                txSeq := (seq + 1) % 2 ^ 32
                queue := v.queue.erase f
                unacked := v.unacked ++ [{ f with seq := seq, epoch := v.cur.number, sentAt := s.now }]
                pace := if v.unacked.isEmpty then s.now else v.pace }

/-- Frames that waited for a rope port leave. -/
def State.flushGateway (s : State) : State :=
  if s.ropePorts.isEmpty then s
  else (s.setRope fun r => { r with gateway := [] }).each s.rope.gateway fun s f =>
    s.portSend (rfStripe f.header.toNat) f.header f.body

/-- ROPE_SEND. -/
def execRopeSend (sess : Sess) (s : State) : Host.Outcome State Fault Refusal :=
  act s (·.flushGateway.ropeSendNext sess)

/-- RESEND_TIMEOUT: the lowest unacknowledged frame whose last sending is older than max(2 × SRTT, 1 ms). -/
def execResendTimeout (sess : Sess) (s : State) : Host.Outcome State Fault Refusal :=
  act s fun s =>
    let v := s.ropeSess sess
    match v.state, v.unacked with
    | .opened, f :: fs =>
      let limit := max (2 * v.srtt) 1000000
      let oldest := fs.foldl (fun g h => if h.sentAt < g.sentAt then h else g) f
      let s := s.reach (oldest.sentAt + limit + 1)
      let old := fun g : OutFrame => decide (g.sentAt + limit < s.now)
      let s := s.mapSess sess fun v => { v with unacked := v.unacked.map fun g => if old g then { g with due := true } else g }
      match v.unacked.find? old with
      | some g => s.resend sess g
      | none => s
    | _, _ => s

/-- SACK_TIMER: 20 µs after the first frame not yet reported. -/
def execSackTimer (sess : Sess) (s : State) : Host.Outcome State Fault Refusal :=
  act s fun s =>
    match (s.ropeSess sess).since with
    | some t => (s.reach (t + 20000)).queueSack sess
    | none => s

/-! ### Queueing for a peer -/

/-- Stripes toward a site that carry frames: those agreed, or those of the peer entry, without the retired. -/
def State.stripesTo (s : State) (site : Nat) : List Nat :=
  let n := (s.ropePeer site).stripes
  let n := if n = 0 then s.peerStripes site else n
  (List.range n).filter fun k => !s.faults.deadSessions.contains (32 * site + k)

def State.queueFrame (s : State) (x : Nat) (f : OutFrame) : State :=
  s.mapSess x fun v => { v with queue := v.queue ++ [f] }

/-- A frame on the first stripe toward a site. -/
def State.queueTo (s : State) (site : Nat) (f : OutFrame) : State :=
  match s.stripesTo site with
  | k :: _ => s.queueFrame (32 * site + k) f
  | [] => s

/-- DELTA frames are dealt to the stripes in turn. -/
def State.dealTo (s : State) (site : Nat) (f : OutFrame) : State :=
  let ks := s.stripesTo site
  let p := s.ropePeer site
  match ks[p.turn % ks.length]? with
  | some k => (s.setPeer site { p with turn := p.turn + 1 }).queueFrame (32 * site + k) f
  | none => s

/-! ### Handshake (R335) -/

/-- A stripe opens with the keys of epoch 0; frames that it still holds are sent again. -/
def State.openStripe (s : State) (ss th : List Byte) (x window : Nat) : State :=
  let v := s.ropeSess x
  let again := v.heldFrames.map fun f => { f with seq := 0, epoch := 0, sentAt := 0, due := false }
  s.setSess x { RopeSess.reset with
    state := .opened, cur := s.epochKeys ss th x 0, window := window, queue := again, pace := s.now }

/-- Both ends have agreed: every stripe opens, and a session that was slack has left slack (R346, R347). -/
def State.openSession (s : State) (site stripes window : Nat) (ss th idKey : List Byte) : State :=
  let wasSlack := s.siteSlack site
  let s := s.setPeer site { s.ropePeer site with
    opening := none, answered := false, stripes := stripes, window := window, epochAt := s.now, rekey := none
    rekeyDue := false, idKey := idKey }
  let alive := (List.range stripes).filter fun k => !s.faults.deadSessions.contains (32 * site + k)
  let s := s.each alive fun s k => s.openStripe ss th (32 * site + k) window
  let s := s.log 0x7001 (domSession (32 * site)) [(3, site)]
  s.on wasSlack fun s =>
    (s.log 0x7007 (domSession (32 * site)) [(3, site)]).setRope fun r => { r with trigger := true }

/-- A late joiner has no rope record of its own (R349; assumption 61). -/
def State.isJoiner (s : State) : Bool := s.ropeOn && !s.rope.joined && fld s.ropeRec 511 508 != 2

/-- The OPEN body without its signature. -/
def State.openBody (s : State) (site : Nat) (ek : List Byte) : List Byte :=
  leBytes 1 2 ++ leBytes 1 2 ++ leBytes 1 (s.peerStripes site) ++ leBytes 1 (if s.isJoiner then 1 else 0) ++
  leBytes 4 (s.obj 0x7003 2) ++ List.replicate 8 0 ++ ek ++ Config.identityKey

/-- What a signature of a handshake frame covers of its header: all of it, CRC as zero, since CRC covers the
signature (assumption 62). -/
def signedHeader (w : Nat) : List Byte := leBytes 64 (setFld w 357 326 0)

/-- A stripe that is to be opened: closed, or slack with a PROBE answered; a slack one that never had a key sends no
PROBE. -/
def State.wantsOpen (s : State) (x : Nat) : Bool :=
  let v := s.ropeSess x
  match v.state with
  | .opened => false
  | .slack => (s.ropePeer (x / 32)).answered || v.cur.keyOut.isEmpty
  | _ => true

/-- SESSION_OPEN_ATTEMPT: the leader of the lower-numbered site opens, and the leader of a late joiner toward every site
(R349). -/
def execSessionOpenAttempt (site : Site) (s : State) : Host.Outcome State Fault Refusal :=
  act s fun s =>
    let p := s.ropePeer site
    let x0 := 32 * site.val
    if !s.job.loaded || !s.isLeader || !(s.peerSites.contains site.val) || (site.val ≤ s.ownSite && !s.isJoiner) ||
        !((s.stripesTo site).any fun k => s.wantsOpen (x0 + k)) then s
    else
      let s := match p.triedAt with
        | some t => s.reach (t + 1000000 * s.obj 0x7003 5)
        | none => s
      if !s.pathUp then (s.setPeer site { p with triedAt := some s.now }).log 0x7013 (domSession x0) [(3, site)]
      else match s.takeTokens site 6525 with
      | none => s
      | some s =>
        let p := s.ropePeer site
        let (rnd, s) := s.draw
        let (ek, sk) := Config.mlkemKeygen rnd
        let body := s.openBody site ek
        let h0 := (s.ropeHeader x0 1 0 false 0 0 0 0 body 0 0).toNat
        let whole := body ++ Config.identitySign (signedHeader (setFld h0 371 358 6461) ++ body)
        let h := s.ropeHeader x0 1 0 false 0 0 0 0 whole 0 0
        let s := s.setPeer site { p with
          triedAt := some s.now, opening := some ⟨sk, leBytes 64 h.toNat ++ whole, []⟩ }
        let s := s.each (s.stripesTo site) fun s k =>
          if (s.ropeSess (x0 + k)).state = .closed then s.mapSess (x0 + k) fun v => { v with state := .opening } else s
        s.routeFrame 0 h whole

/-- A frame is discarded and counted (R334). -/
def State.discard (s : State) : State := s.setRope fun r => { r with discarded := r.discarded + 1 }

/-- A frame in clear addressed to this module, from the leader of a configured site. -/
def State.clearFrameOk (s : State) (f : RopeFrame) (kind : Nat) : Bool :=
  let w := f.header.toNat
  rfVersion w == 2 && rfKind w == kind && decide (fld w 173 0 = 0) && rfDstSite w == s.ownSite &&
  rfDstModule w == s.moduleNumber && s.peerSites.contains (rfSrcSite w) &&
  rfSrcModule w == s.peerModule (rfSrcSite w) && rfBodyLen w == f.body.length && rfCrc w == crc32c f.body

/-- OPEN at the responder. -/
def State.takeOpen (s : State) (f : RopeFrame) : State :=
  let w := f.header.toNat
  let site := rfSrcSite w
  let b := f.body
  let dom := domSession (32 * site)
  if rfKind w ≠ 1 then s
  else if !s.clearFrameOk f 1 then s.discard
  else if !s.job.loaded || !s.isLeader || (s.ownSite ≤ site && !bitAt (leAt b 3 1) 0) then s
  else if b.length ≠ 6461 ∨ 2 < leAt b 0 1 ∨ leAt b 1 1 < 2 ∨ leAt b 2 1 = 0 ∨ 32 < leAt b 2 1 ∨ 1 < leAt b 3 1 ∨
      leAt b 4 4 < 1024 ∨ 1048576 < leAt b 4 4 ∨ leAt b 8 8 ≠ 0 ∨ s.peerStripes site = 0 then s.log 0x7002 dom [(3, site)]
  else
    let key := (b.drop 1200).take 1952
    let msg := signedHeader w ++ b.take 3152
    if Config.sha3 key ≠ s.peerHash site ∨ !Config.mldsaVerify key msg (b.drop 3152) then s.log 0x7003 dom [(3, site)]
    else
      let (rnd, s) := s.draw
      let (ct, ss) := Config.mlkemEncaps ((b.drop 16).take 1184) rnd
      let stripes := min (leAt b 2 1) (s.peerStripes site)
      let window := min (leAt b 4 4) (s.obj 0x7003 2)
      let open_ := leBytes 64 w ++ b
      let body := leBytes 1 2 ++ leBytes 1 stripes ++ leBytes 2 0 ++ leBytes 4 window ++ List.replicate 8 0 ++ ct ++
        Config.identityKey
      let h0 := (s.ropeHeader (32 * site) 2 0 false 0 0 0 0 body 0 0).toNat
      let whole := body ++ Config.identitySign (signedHeader (setFld h0 371 358 6365) ++ body ++ Config.sha3 open_)
      let h := s.ropeHeader (32 * site) 2 0 false 0 0 0 0 whole 0 0
      let th := Config.sha3 (open_ ++ leBytes 64 h.toNat ++ whole)
      match s.takeTokens site 6429 with
      | none => s
      | some s =>
        let s := (s.routeFrame 0 h whole).openSession site stripes window ss th key
        s.setPeer site { s.ropePeer site with joining := bitAt (leAt b 3 1) 0 }

/-- ACCEPT at the opener. -/
def State.takeAccept (s : State) (f : RopeFrame) : State :=
  let w := f.header.toNat
  let site := rfSrcSite w
  let b := f.body
  let dom := domSession (32 * site)
  match (s.ropePeer site).opening with
  | none => s
  | some o =>
    if rfKind w ≠ 2 then s
    else if !s.clearFrameOk f 2 then s.discard
    else if b.length ≠ 6365 ∨ leAt b 0 1 ≠ 2 ∨ leAt b 1 1 = 0 ∨ s.peerStripes site < leAt b 1 1 ∨ leAt b 2 2 ≠ 0 ∨
        leAt b 4 4 < 1024 ∨ s.obj 0x7003 2 < leAt b 4 4 ∨ leAt b 8 8 ≠ 0 then s.log 0x7002 dom [(3, site)]
    else
      let key := (b.drop 1104).take 1952
      let msg := signedHeader w ++ b.take 3056 ++ Config.sha3 o.sent
      if Config.sha3 key ≠ s.peerHash site ∨ !Config.mldsaVerify key msg (b.drop 3056) then s.log 0x7003 dom [(3, site)]
      else
        let ss := Config.mlkemDecaps o.secret ((b.drop 16).take 1088)
        let th := Config.sha3 (o.sent ++ leBytes 64 w ++ b)
        s.openSession site (leAt b 1 1) (leAt b 4 4) ss th key

/-! ### Receiving (R334, R336, R341) -/

/-- The epoch of a session that a frame names: the current, the previous, or an agreed one. -/
def RopeSess.epochOf (v : RopeSess) (e : Nat) : Option KeyEpoch :=
  (([v.cur] ++ v.prevIn.toList ++ (v.next.map (·.1)).toList).find? fun k => k.number % 4 == e)

/-- A frame of a session passes R334: the session and its plain body. -/
def State.openFrame (s : State) (f : RopeFrame) : State × Option (Nat × List Byte) :=
  let w := f.header.toNat
  let site := rfSrcSite w
  let x := 32 * site + rfStripe w
  let v := s.ropeSess x
  if rfVersion w ≠ 2 ∨ fld w 173 0 ≠ 0 ∨ rfDstSite w ≠ s.ownSite ∨ rfDstModule w ≠ s.moduleNumber ∨
      !s.peerSites.contains site ∨ rfSrcModule w ≠ s.peerModule site ∨
      (!sequencedKind (rfKind w) ∧ rfSeq w ≠ 0) ∨ !(v.state == .opened || v.state == .slack) then (s.discard, none)
  else match v.epochOf (rfEpoch w) with
    | none => (s.discard, none)
    | some k =>
      let n := f.body.length - 16
      if f.body.length < 16 ∨ rfBodyLen w ≠ n then (s.discard, none)
      else match Config.gcmOpen k.keyIn (ropeNonce k.saltIn (rfNonce w)) (leBytes 64 w) (f.body.take n)
          (f.body.drop n) with
        | none => ((s.discard.count64 0x7005 0xB).log 0x7004 (domSession x) [(3, site), (5, x % 32)], none)
        | some body => if crc32c body ≠ rfCrc w then (s.discard, none) else (s, some (x, body))

/-- A coded slot of a body: its map byte, when it passes R260 (a slot of 4,096 bytes is raw). -/
def bodySlot (fmt : Nat) (body : List Byte) : Option (Nat × List Byte) :=
  let map := if body.length = 4096 then 0 else body.length / 64
  if body.length = 0 ∨ 4096 < body.length ∨ body.length % 64 ≠ 0 then none
  else match decodeSlot fmt map body with
    | .ok raw => some (map, raw)
    | .error _ => none

/-- CUM over every contiguous SEQ received. -/
def advanceCum : Nat → Nat → List Nat → Nat × List Nat
  | 0, cum, have_ => (cum, have_)
  | n + 1, cum, have_ =>
    if have_.contains cum then advanceCum n ((cum + 1) % 2 ^ 32) (have_.erase cum) else (cum, have_)

/-- The sender retires the previous epoch when every frame first sent under it has been acknowledged (R341). -/
def RopeSess.retireOut (v : RopeSess) : RopeSess :=
  match v.prevOut with
  | some k => if v.unacked.any fun f => f.epoch == k.number then v else { v with prevOut := none }
  | none => v

/-- The receiver retires the previous epoch when a frame of the current one has arrived at or beyond the peer's SWITCH_SEQ,
and every SEQ below it has been received (R341). -/
def RopeSess.retireIn (v : RopeSess) : RopeSess :=
  match v.prevIn, v.peerSwitch with
  | some _, some sw =>
    if !serialLt v.rxCum sw && (serialLt sw v.rxCum || v.rxHave.any fun q => !serialLt q sw) then
      { v with prevIn := none, peerSwitch := none } else v
  | some _, none => { v with prevIn := none }
  | none, _ => v

/-- The own hall time (µs) of a hall time of the peer: through the two epochs where both have TAI, else by the offset of the
round trips (R53). -/
def State.ownTime (s : State) (x : Nat) (v : RopeSess) (us : Nat) : Int :=
  if s.time.taiValid && v.peerTai then (us : Int) + ((Config.siteEpoch (x / 32) : Int) - s.obj 0x2002 2) / 1000
  else us - v.offset

/-- A frame has come: its time is noted, and a sequenced one is taken into the SACK. -/
def State.noteFrame (s : State) (x w : Nat) (fresh : Bool) : State :=
  let v := s.ropeSess x
  let v := { v with
    pace := s.now, newest := rfTimeUs w, newestAt := s.now, peerTai := bitAt w 500
    offset := (rfTimeUs w : Int) + v.srtt / 2000 - s.now / 1000 }
  let v := { v with sentUs := s.ownTime x v (rfTimeUs w) }
  if !sequencedKind (rfKind w) then s.setSess x v
  else
    let have_ := if fresh then v.rxHave ++ [rfSeq w] else v.rxHave
    let (cum, have_) := advanceCum have_.length v.rxCum have_
    let v := { v with
      rxCum := cum, rxHave := have_, unreported := v.unreported + 1
      since := some (v.since.getD s.now) }
    let s := s.setSess x v.retireIn
    s.on (decide (64 ≤ v.unreported)) (·.queueSack x)

/-- The frame is new within the window; a duplicate is only acknowledged again. -/
def RopeSess.fresh (v : RopeSess) (seq : Nat) : Option Bool :=
  let d := (seq + 2 ^ 32 - v.rxCum % 2 ^ 32) % 2 ^ 32
  if d < v.window then some (!v.rxHave.contains seq)
  else if serialLt seq v.rxCum then some false
  else none

/-- A frame of `kind` is received: the checks, the effect of a new one (none: it is refused), and its
acknowledgement. -/
def State.receiveFrame (s : State) (f : RopeFrame) (kind : Nat)
    (effect : State → Nat → List Byte → Option State) : State :=
  let w := f.header.toNat
  if rfKind w ≠ kind then s
  else
    let (s, r) := s.openFrame f
    match r with
    | none => s
    | some (x, body) =>
      let v := s.ropeSess x
      if v.state ≠ .opened then s
      else if sequencedKind kind then
        match v.fresh (rfSeq w) with
        | none => s.discard
        | some false => (s.setRope fun r => { r with duplicates := r.duplicates + 1 }).noteFrame x w false
        | some true =>
          match effect s x body with
          | none => s.discard.log 0x7014 (domSession x) [(3, x / 32), (5, x % 32)]
          | some s => s.noteFrame x w true
      else match effect s x body with
        | none => s.discard
        | some s => s.noteFrame x w true

/-! ### Acknowledgement (R337) -/

/-- SEQs that a SACK reports beyond CUM. -/
def sackSeqs (cum : Nat) (bits : List Byte) : List Nat :=
  ((List.range bits.length).zip bits).flatMap fun p =>
    ((List.range 8).filter fun b => p.2.toNat.testBit b).map fun b => (cum + 1 + 8 * p.1 + b) % 2 ^ 32

/-- A SACK's effect: CUM, the round-trip time, frames acknowledged and frames due again. -/
def State.takeSack (s : State) (x : Nat) (body : List Byte) : Option State :=
  if body.length ≠ 576 ∨ leAt body 16 48 ≠ 0 then none
  else
    let v := s.ropeSess x
    let cum := leAt body 0 4
    let got := sackSeqs cum (body.drop 64)
    let sample := 1000 * ((s.now / 1000) - leAt body 4 8 - leAt body 12 4)
    let srtt := ((7 * v.srtt + sample) / 8)
    let left := v.unacked.filter fun f => !(serialLt f.seq cum || got.contains f.seq)
    let due := fun f : OutFrame =>
      decide (3 ≤ (got.filter fun q => serialLt f.seq q).length) && decide (f.sentAt + srtt + 20000 < s.now)
    let v' := { v with
      cumOut := if serialLt v.cumOut cum then cum else v.cumOut
      srtt := srtt
      unacked := left.map fun f => if due f then { f with due := true } else f }
    some (s.setSess x v'.retireOut)

/-! ### Rekey (R340) -/

/-- A rekey can begin: no stripe still holds a previous or an agreed epoch. -/
def State.rekeyFree (s : State) (site : Nat) : Bool :=
  (s.ropePeer site).rekey.isNone && (s.stripesTo site).all fun k =>
    let v := s.ropeSess (32 * site + k)
    v.prevOut.isNone && v.prevIn.isNone && v.next.isNone

/-- The SWITCH_SEQ of every stripe: 64 beyond its next SEQ. -/
def State.switchSeqs (s : State) (site : Nat) : List Nat :=
  (sessionsTo site).map fun x => ((s.ropeSess x).txSeq + (s.ropeSess x).queue.length + 64) % 2 ^ 32

/-- A REKEY or REKEY_ACK as th takes it (R339): the header without what a sending sets (EPOCH, RETX, TAI_VALID, SEQ, TIME_US,
NONCE_CTR), and the plain body, so that a frame sent again counts as the same (assumption 120). -/
def rekeyForm (w : Nat) (body : List Byte) : List Byte :=
  leBytes 64 (setFld (setFld (setFld w 503 500 0) 456 425 0) 325 206 0) ++ body

/-- The form of a frame of this module toward a site, on the first stripe. -/
def State.ownForm (s : State) (site kind : Nat) (body : List Byte) : List Byte :=
  let x := 32 * site + (s.stripesTo site).headD 0
  rekeyForm (s.ropeHeader x kind 0 false 0 0 0 0 body 0 0).toNat body

/-- A rekey starts, or waits until the previous epoch has retired. -/
def State.startRekey (s : State) (site : Nat) : State :=
  let p := s.ropePeer site
  if !s.rekeyFree site then s.setPeer site { p with rekeyDue := true }
  else
    let (rnd, s) := s.draw
    let (ek, sk) := Config.mlkemKeygen rnd
    let sws := s.switchSeqs site
    let body := ek ++ sws.flatMap (leBytes 4)
    let body := body ++ Config.identitySign body
    (s.setPeer site { p with rekey := some ⟨sk, s.ownForm site 6 body, sws⟩, rekeyDue := false }).queueTo site
      ⟨6, 0, 0, 0, 0, body, 0, 0, 0, false⟩

/-- The new epoch is agreed on every stripe. -/
def State.agreeEpoch (s : State) (site : Nat) (ss th : List Byte) (own peer : List Nat) : State :=
  let s := s.setPeer site { s.ropePeer site with rekey := none, rekeyDue := false, epochAt := s.now }
  s.each (s.stripesTo site) fun s k =>
    let x := 32 * site + k
    s.mapSess x fun v => { v with
      next := some (s.epochKeys ss th x (v.cur.number + 1), own.getD k 0)
      peerSwitch := some (peer.getD k 0) }

/-- Thirty-two U32 from an offset. -/
def seqsAt (b : List Byte) (off : Nat) : List Nat := (List.range 32).map fun i => leAt b (off + 4 * i) 4

/-- REKEY: answered, unless this end's own REKEY proceeds. The lower-numbered site drops the other's also when it comes after
its own rekey was agreed: such a REKEY was first sent below the SWITCH_SEQ that the peer gave since. The other end gives up
its own (R340). -/
def State.takeRekey (s : State) (w x : Nat) (b : List Byte) : Option State :=
  let site := x / 32
  let p := s.ropePeer site
  let crossed : Bool := match (s.ropeSess x).peerSwitch with
    | some sw => serialLt (rfSeq w) sw
    | none => false
  if s.ownSite < site ∧ (p.rekey.isSome || crossed) then some s
  else if b.length ≤ 1312 ∨ !Config.mldsaVerify p.idKey (b.take 1312) (b.drop 1312) then
    some (s.log 0x7003 (domSession x) [(3, site)])
  else
    let s := s.on p.rekey.isSome fun s => s.each (sessionsTo site) fun s y =>
      if (s.ropeSess y).queue.any fun f => f.kind == 6 then
        s.mapSess y fun v => { v with queue := v.queue.filter fun f => f.kind != 6 } else s
    let (rnd, s) := s.draw
    let (ct, ss) := Config.mlkemEncaps (b.take 1184) rnd
    let sws := s.switchSeqs site
    let body := ct ++ sws.flatMap (leBytes 4)
    let body := body ++ Config.identitySign body
    let th := Config.sha3 (rekeyForm w b ++ s.ownForm site 7 body)
    let s := s.queueTo site ⟨7, 0, 0, 0, 0, body, 0, 0, 0, false⟩
    some (s.agreeEpoch site ss th sws (seqsAt b 1184))

/-- REKEY_ACK: the rekey completes. -/
def State.takeRekeyAck (s : State) (w x : Nat) (b : List Byte) : Option State :=
  let site := x / 32
  let p := s.ropePeer site
  match p.rekey with
  | none => some s
  | some o =>
    if b.length ≤ 1216 ∨ !Config.mldsaVerify p.idKey (b.take 1216) (b.drop 1216) then
      some (s.log 0x7003 (domSession x) [(3, site)])
    else
      let ss := Config.mlkemDecaps o.secret (b.take 1088)
      some (s.agreeEpoch site ss (Config.sha3 (o.sent ++ rekeyForm w b)) o.switches (seqsAt b 1088))

def State.receiveRekey (s : State) (f : RopeFrame) : State :=
  s.receiveFrame f 6 fun s x body => s.takeRekey f.header.toNat x body
def State.receiveRekeyAck (s : State) (f : RopeFrame) : State :=
  s.receiveFrame f 7 fun s x body => s.takeRekeyAck f.header.toNat x body

/-- REKEY_INTERVAL_EXPIRE: the epoch has lasted REKEY_INTERVAL, or a rekey that was due can begin. -/
def execRekeyIntervalExpire (site : Site) (s : State) : Host.Outcome State Fault Refusal :=
  act s fun s =>
    let p := s.ropePeer site
    if !(sessionsTo site).any (fun x => (s.ropeSess x).state == .opened) || p.rekey.isSome then s
    else if p.rekeyDue then s.startRekey site
    else (s.reach (p.epochAt + 1000000000 * s.obj 0x7003 4)).startRekey site

/-- NONCE_LIMIT: NONCE_CTR of a stripe has reached 2³¹. -/
def execNonceLimit (sess : Sess) (s : State) : Host.Outcome State Fault Refusal :=
  act s fun s =>
    let v := s.ropeSess sess
    if v.state ≠ .opened ∨ v.nonce < 2 ^ 31 ∨ (s.ropePeer (sess / 32)).rekey.isSome then s
    else s.startRekey (sess / 32)

/-! ### Slack and probes (R346) -/

/-- A PROBE has been answered: the sessions toward the site are opened again at once. -/
def State.leaveSlack (s : State) (site : Nat) : State :=
  s.setPeer site { s.ropePeer site with triedAt := none, answered := true }

/-- PROBE_INTERVAL_EXPIRE: a slack session sends a PROBE. -/
def execProbeIntervalExpire (sess : Sess) (s : State) : Host.Outcome State Fault Refusal :=
  act s fun s =>
    if (s.ropeSess sess).state ≠ .slack then s
    else
      let s := match (s.ropeSess sess).probedAt with
        | some t => s.reach (t + 1000000 * s.obj 0x7003 5)
        | none => s
      match s.transmit sess 0xB false 0 0 0 0 0 [] with
      | some s => s.mapSess sess fun v => { v with probedAt := some s.now }
      | none => s

/-- PROBE: answered with a SACK, and the session, which the peer has dropped, is opened afresh; a slack session
that hears of its peer reopens. -/
def State.receiveProbe (s : State) (f : RopeFrame) : State :=
  let w := f.header.toNat
  if rfKind w ≠ 0xB then s
  else
    let (s, r) := s.openFrame f
    match r with
    | none => s
    | some (x, body) =>
      if !body.isEmpty then s
      else
        let s := s.noteFrame x w true
        if (s.ropeSess x).state = .slack then s.leaveSlack (x / 32)
        else
          let s := (s.transmit x 4 false 0 0 0 0 0 (sackBody (s.ropeSess x) s.now)).getD s
          let close := fun (v : RopeSess) => { RopeSess.reset with queue := v.heldFrames, pace := s.now }
          (s.each (sessionsTo (x / 32)) fun s y =>
            if (s.ropeSess y).state = .opened then s.mapSess y close else s).leaveSlack (x / 32)

/-- SACK: at a slack session it answers a PROBE. -/
def State.receiveSack (s : State) (f : RopeFrame) : State :=
  let w := f.header.toNat
  if (s.ropeSess (32 * rfSrcSite w + rfStripe w)).state = .slack ∧ rfKind w = 4 then
    let (s, r) := s.openFrame f
    if r.isSome then s.leaveSlack (rfSrcSite w) else s
  else s.receiveFrame f 4 (·.takeSack)

/-! ### Session reset (R351, R422, R428) -/

/-- A stripe loses its keys and state; the frames that it holds wait for it to reopen. -/
def State.resetStripe (s : State) (x : Nat) : State :=
  let v := s.ropeSess x
  let s := s.setSess x { RopeSess.reset with queue := v.heldFrames, pace := s.now }
  let s := s.releaseHolds (domSession x)
  (s.setPeer (x / 32) { s.ropePeer (x / 32) with opening := none }).log 0x9002 (domSession x) [(16, domSession x), (8, 0)]

/-- A stripe retires: its frames go to the others, or with none left the peer is slack. -/
def State.retireStripe (s : State) (x : Nat) : State :=
  let site := x / 32
  let held := (s.ropeSess x).heldFrames
  let s := { s with faults := { s.faults with deadSessions := insertAsc x s.faults.deadSessions } }
  let s := (s.setSess x RopeSess.reset).log 0x9008 (domSession x) [(8, x)]
  if (s.stripesTo site).isEmpty then
    (s.setSess x { RopeSess.reset with state := .slack }).log 0x7006 (domSession x) [(3, site), (5, x % 32)]
  else s.each held fun s f => s.dealTo site { f with seq := 0, due := false }

/-- A session reset counts against its stripe, which retires at the threshold (R422). -/
def State.countSessReset (s : State) (x : Nat) : State :=
  s.setFaults fun f => { f with sessResets := (x, s.now) :: f.sessResets }

def State.sessResetsIn (s : State) (x : Nat) : Nat :=
  (s.faults.sessResets.filter fun r => r.1 == x && decide (s.now < r.2 + 1000000000 * s.obj 0x9001 6)).length

def State.resetSession (s : State) (x : Nat) : State :=
  let s := (s.countSessReset x).resetStripe x
  if s.obj 0x9001 5 ≤ s.sessResetsIn x then s.retireStripe x else s

/-- SESSION_PACE_EXPIRE. -/
def execSessionPaceExpire (sess : Sess) (s : State) : Host.Outcome State Fault Refusal :=
  act s fun s =>
    let v := s.ropeSess sess.val
    if v.state ≠ .opened ∨ v.unacked.isEmpty then s
    else
      let s := s.reach (v.pace + 1000000 * s.obj 0x9000 4)
      ((s.faultCount 0).log 0x9001 (domSession sess.val) [(8, sess.val)]).resetSession sess.val

end Sys2Proof.Machine
end

