-- ==== Sys2Proof/Machine/RopeRounds.lean ====
section
/-!
DEFINITION. Rope rounds: deltas received and forwarded, the close of a round, regroup and late joiners, and the
end of a sweep (R288, R327, R333, R342-R350).
-/

namespace Sys2Proof.Machine

/-! ### Replicas (R343) -/

/-- Replica indices other than this module's. -/
def State.otherReplicas (s : State) : List Nat := (List.range s.replicaCount).filter (· != s.ownReplica)

/-- A request on the repair context of a replica. -/
def State.repairRequest (s : State) (r op addr : Nat) (data : List Byte) : State :=
  if h : s.replicaCtx r < 262144 then
    let q : Request := ⟨⟨s.replicaCtx r, h⟩, op, addr, 0, data.length, data, .other, 0, 0, 0⟩
    s.queueRequests [q]
  else s

/-- Bytes at a virtual address are written here and, by the leader, at every replica. A WRITE carries a device physical
address (R104, R111): the one at which the same virtual address lies, at every replica as here (assumption 121). -/
def State.writeAll (s : State) (va : Nat) (bs : List Byte) : State :=
  let s := s.mpWrite va bs
  match s.xlate (s.walkPages va bs.length) s.stateKey true (pieces va bs.length) with
  | .ok xs =>
    let parts := (xs.foldl (fun (acc : List (Nat × List Byte) × List Byte) x =>
      (acc.1 ++ [(x.1, acc.2.take x.2)], acc.2.drop x.2)) ([], bs)).1
    s.each s.otherReplicas fun s r => s.each parts fun s p => s.repairRequest r 2 p.1 p.2
  | .error _ => s

/-! ### Rounds -/

/-- The round after `r`. -/
def nextRound (r : Nat) : Nat := if r = noRound then 0 else r + 1

/-- The round that the next close closes. -/
def State.pendingRound (s : State) : Nat := nextRound (rrClosed s.ropeRec)

/-- No close is under way, and the pending round has ended. -/
def State.closable (s : State) : Bool :=
  let w := s.ropeRec
  s.ropeOn && rrState w != rrPrepared && rrState w != rrCommitted && decide (s.pendingRound < rrRound w)

/-- A peer's delta of a round is complete (R333). -/
def State.deltaComplete (s : State) (site round : Nat) : Bool :=
  let i := s.infoOf site round
  !i.isEmpty && (List.range 32).all fun n =>
    (List.range (leAt i (64 + 2 * n) 2)).all fun k => s.rope.got.contains (site, round, n, k)

/-! ### The close (R342, R343) -/

/-- A 64-byte entry of the close exchange. -/
def State.closeEntry (s : State) (kind : Nat) : List Byte :=
  let w := s.ropeRec
  leBytes 1 kind ++ leBytes 1 (rrMembers w) ++ leBytes 1 (rrCarry w) ++ leBytes 1 (if rrRegroup w then 1 else 0) ++
  leBytes 4 (rrClosed w) ++ leBytes 4 (if kind = 3 then rrApplyStep w else 0) ++ List.replicate 4 0 ++
  ((List.range 8).flatMap fun x => leBytes 4 (s.rope.weights.getD x 0)) ++ List.replicate 16 0

def State.setRopeState (s : State) (st : Nat) : State := s.setRopeRec (setFld s.ropeRec 507 506 st)

/-- COMMIT: APPLY_STEP is the next step, and every replica is told. -/
def State.commitClose (s : State) : State :=
  let s := s.setRopeRec (setFld (setFld s.ropeRec 507 506 rrCommitted) 431 400 ((recStep s.stepRec + 1) % 2 ^ 32))
  let s := s.setRope fun r => { r with closingAt := none }
  s.each s.otherReplicas fun s r => s.repairRequest r 4 0 (s.closeEntry 3)

/-- A delta of a site is discarded (R345). -/
def State.deltaGone (s : State) (site : Nat) : State :=
  (s.count 0x7005 9).log 0x700B (domSession (32 * site)) [(3, site)]

/-- Held deltas are discarded. -/
def State.dropHeld (s : State) : State :=
  (s.each (s.rope.held.map (·.1)) State.deltaGone).setRope fun r => { r with held := [] }

/-- The leader closes the pending round with its members (cause of R342; 0 for a regroup, which has none and is not
logged). -/
def State.closeWith (s : State) (members : List Nat) (regroup : Bool) (cause : Nat) : State :=
  let r := s.pendingRound
  let s := if regroup then s.dropHeld else s
  let carry := if regroup then [] else members.filter fun x => (Tbl.get none s.rope.held x).isSome
  let weights := (List.range 8).map fun x => if members.contains x then leAt (s.infoOf x r) 4 4 else 0
  let w := setFld (setFld s.ropeRec 507 506 rrPrepared) 503 503 (if regroup then 1 else 0)
  let w := setFld (setFld (setFld w 463 432 r) 399 392 (maskOf members)) 391 384 (maskOf carry)
  let s := (s.setRopeRec w).setRope fun x => { x with
    weights := weights, closeRound := r, acks := [], closingAt := some s.now }
  let s := if cause = 3 then s.log 0x7009 (domMp 0) else
    s.on (cause != 0) fun s => s.log 0x7008 (domMp 0) [(8, maskOf members), (8, cause)]
  if s.otherReplicas.isEmpty then s.commitClose
  else s.each s.otherReplicas fun s i => s.repairRequest i 4 0 (s.closeEntry 1)

/-- This site and every site whose delta of the round is complete, ascending. -/
def State.membersNow (s : State) (round : Nat) : List Nat :=
  (List.range 8).filter fun x =>
    x == s.ownSite || (s.peerSites.contains x && !s.siteSlack x && s.deltaComplete x round)

/-- Both difference planes of a site have arrived whole (R348). -/
def State.planesComplete (s : State) (site : Nat) : Bool :=
  let n := 8 * (ropeBlocks s.train.groups).length
  [0, 1].all fun p => (List.range n).all fun k => s.rope.planes.contains (site * 2 + p, k)

/-- The pending round closes if its condition is met: a regroup when every participant's delta and difference are
here, otherwise when every site that counts is complete. -/
def State.tryClose (s : State) : State :=
  if !(s.closable && s.isLeader) then s
  else
    let r := s.pendingRound
    let regroup := match s.rope.bid with
      | some b => if b.round = r then some b else none
      | none => none
    match regroup with
    | some b =>
      let others := (sitesOf b.participants).filter (· != s.ownSite)
      if others.all fun x => s.deltaComplete x r && s.planesComplete x then s.closeWith (sitesOf b.participants) true 0
      else s
    | none =>
      if s.peerSites.all fun x => s.siteSlack x || s.deltaComplete x r then s.closeWith (s.membersNow r) false 1
      else s

/-- ROUND_DEADLINE (R342): not for a regroup close. -/
def execRoundDeadline (s : State) : Host.Outcome State Fault Refusal :=
  act s fun s =>
    let r := s.pendingRound
    let w := s.ropeRec
    let bid := match s.rope.bid with
      | some b => b.round == r
      | none => false
    if !(s.closable && s.isLeader) || bid || r + 1 != rrRound w then s
    else
      let start := if r = 0 then s.rope.activeAt else 1000 * rrPrevEndUs w
      let span := ropeBudget (s.obj 0x7002 3) (1000 * rrEndUs w - start)
      let s := s.reach (1000 * rrEndUs w + span)
      s.closeWith (s.membersNow r) false 2

/-- The entry is one of the close exchange of this module's rope tier. -/
def State.entryOk (s : State) (e : List Byte) (kind : Nat) : Bool :=
  s.ropeOn && s.training && e.length == 64 && leAt e 0 1 == kind && leAt e 12 4 == 0 && leAt e 48 16 == 0

/-- The F32 values of a whole delta, by module block × 16,384 + p; none: a stream is not whole. -/
def State.deltaValues (s : State) (site round : Nat) : Option (Tbl Nat) :=
  (List.range 32).foldl (fun acc n =>
    match acc, s.siteStream site round n with
    | some t, some recs => some (recs.foldl (fun t r =>
        r.2.foldl (fun t v => Tbl.set 0 t (16384 * r.1 + v.1) v.2) t) t)
    | _, _ => none) (some [])

/-- A late delta is held; one that is a round newer takes the held values in. Of two further apart the older is
discarded (R345). -/
def State.holdDelta (s : State) (site round : Nat) (vals : Tbl Nat) : State :=
  let sum := fun (old new : Tbl Nat) => old.foldl (fun t v => Tbl.set 0 t v.1 (f32Add v.2 (Tbl.get 0 t v.1))) new
  let put := fun (s : State) (h : HeldDelta) => s.setRope fun r => { r with held := Tbl.set none r.held site (some h) }
  match Tbl.get none s.rope.held site with
  | some h =>
    if h.round + 1 = round then put s ⟨round, sum h.vals vals⟩
    else if round + 1 = h.round then put s ⟨h.round, sum vals h.vals⟩
    else if round + 1 < h.round then s.deltaGone site
    else put (s.on (h.round != round) (·.deltaGone site)) ⟨round, vals⟩
  | none => put s ⟨round, vals⟩

/-- At a replica: late deltas of the round before, which its leader has held. -/
def State.replicaHold (s : State) (prev : Nat) (prevMembers now carry : List Nat) : State :=
  if prev = noRound then s
  else s.each (s.peerSites.filter fun x => !prevMembers.contains x && (carry.contains x || !now.contains x)) fun s x =>
    match s.deltaValues x prev with
    | some v => s.holdDelta x prev v
    | none => s

/-- The replica holds every forwarded slot of the members and of CARRY, and answers. -/
def State.answerPrepare (s : State) : State :=
  let w := s.ropeRec
  if !s.rope.unanswered || rrState w != rrPrepared then s
  else
    let members := (sitesOf (rrMembers w)).filter (· != s.ownSite)
    let whole := members.all fun x => (s.deltaValues x (rrClosed w)).isSome
    let held := (sitesOf (rrCarry w)).all fun x => (Tbl.get none s.rope.held x).isSome
    if whole && held then
      (s.setRope fun r => { r with unanswered := false }).repairRequest 0 4 0 (s.closeEntry 2)
    else s

/-- PREPARE at a replica. -/
def execClosePrepare (entry : List Byte) (s : State) : Host.Outcome State Fault Refusal :=
  act s fun s =>
    if s.isLeader || !s.entryOk entry 1 then s
    else
      let w := s.ropeRec
      let members := leAt entry 1 1
      let carry := leAt entry 2 1
      let round := leAt entry 4 4
      let s := if bitAt (leAt entry 3 1) 0 then s.dropHeld
        else s.replicaHold (rrClosed w) (sitesOf (rrMembers w)) (sitesOf members) (sitesOf carry)
      let infos := ((sitesOf members).filter (· != s.ownSite)).foldl (fun t x =>
        let b := s.mpRead (Config.roundInfoAt (x * 2 + round % 2)) 256
        if leAt b 0 4 = round then Tbl.set [] t (x * 2 ^ 32 + round) b else t) s.rope.infos
      let w := setFld (setFld w 507 506 rrPrepared) 503 503 (leAt entry 3 1)
      let w := setFld (setFld (setFld w 463 432 round) 399 392 members) 391 384 carry
      let s := (s.setRopeRec w).setRope fun r => { r with
        weights := (List.range 8).map fun x => leAt entry (16 + 4 * x) 4
        closeRound := round, infos := infos, unanswered := true }
      s.answerPrepare

/-- ACK at the leader: after the last one the close commits. -/
def execCloseAck (replica : Fin 64) (entry : List Byte) (s : State) : Host.Outcome State Fault Refusal :=
  act s fun s =>
    let w := s.ropeRec
    if !s.isLeader || !s.entryOk entry 2 || rrState w != rrPrepared || leAt entry 4 4 != rrClosed w ||
        !s.otherReplicas.contains replica.val then s
    else
      let s := s.setRope fun r => { r with acks := insertAsc replica r.acks }
      if s.otherReplicas.all s.rope.acks.contains then s.commitClose else s

/-- COMMIT at a replica. -/
def execCloseCommit (entry : List Byte) (s : State) : Host.Outcome State Fault Refusal :=
  act s fun s =>
    let w := s.ropeRec
    if s.isLeader || !s.entryOk entry 3 || rrState w != rrPrepared || leAt entry 4 4 != rrClosed w then s
    else s.setRopeRec (setFld (setFld w 507 506 rrCommitted) 431 400 (leAt entry 8 4))

/-- CLOSE_ACK_LIMIT_EXPIRE: the ACKs are not complete in time. -/
def execCloseAckLimitExpire (s : State) : Host.Outcome State Fault Refusal :=
  act s fun s =>
    match s.rope.closingAt with
    | none => s
    | some t =>
      if rrState s.ropeRec != rrPrepared then s
      else
        let s := (s.reach (t + 1000 * s.obj 0x7002 7)).setRope fun r => { r with closingAt := none }
        ((s.log 0x7012 (domMp 0)).faultCount 9).jobFail 9

/-- WRITE: at a replica it may complete what a PREPARE waits for. -/
def execMemWrite (p : Packet) (s : State) : Host.Outcome State Fault Refusal :=
  act s fun s =>
    let s := s.serveWrite p
    if s.rope.unanswered then s.answerPrepare else s

/-! ### Deltas (R334, R343, R345) -/

/-- A part of a site's delta has arrived; one that is complete with it (`was`: it was before) counts for the
pending round, or comes late. -/
def State.deltaArrived (s : State) (site round : Nat) (was : Bool) : State :=
  let closed := rrClosed s.ropeRec
  if was || !s.deltaComplete site round then s
  else if closed = noRound ∨ closed < round then s.tryClose
  else if round + 1 < closed then s.deltaGone site
  else match s.deltaValues site round with
    | none => s
    | some v => ((s.holdDelta site round v).count 0x7005 8).log 0x700A (domSession (32 * site)) [(3, site)]

/-- DELTA: a coded slot goes to its place in the receive area, here and at the replicas. A slot of a round older than
CLOSED − 1 is not kept, and its delta is discarded when it is whole (R345). -/
def State.takeDelta (s : State) (w x : Nat) (body : List Byte) : Option State :=
  match bodySlot 5 body with
  | none => none
  | some (map, _) =>
    let site := x / 32
    let round := rfRound w
    let closed := rrClosed s.ropeRec
    if s.obj 0x7000 6 ≤ 4096 * rfSlot w then some s
    else
      let va := s.rxAt site round (rfEngine w) (rfSlot w)
      let was := s.deltaComplete site round
      let old := closed != noRound && decide (round + 1 < closed)
      let s := s.on (!old) fun s => (s.writeAll va body).writeAll (s.lenMap va) (leBytes 1 map)
      let s := s.setRope fun r => { r with got := (site, round, rfEngine w, rfSlot w) :: r.got }
      some (s.deltaArrived site round was)

def State.receiveDelta (s : State) (f : RopeFrame) : State :=
  s.receiveFrame f 3 fun s x body => s.takeDelta f.header.toNat x body

/-! ### Round information and regroup bids (R333, R347, R348) -/

/-- The peer's reference of a round differs from this module's own. -/
def State.compareRefs (s : State) (site round : Nat) : State :=
  let own := s.infoOf s.ownSite round
  let peer := s.infoOf site round
  if own.isEmpty ∨ peer.isEmpty ∨ leAt own 8 8 = leAt peer 8 8 then s
  else (s.log 0x700C (domSession (32 * site)) [(3, site)]).setRope fun r => { r with trigger := true }

/-- A plane of the difference REF − anchor of a block: its eight coded slots. -/
def State.diffSlots (s : State) (k : Blk) (half : Nat) : List (List Byte) :=
  let ref := words4 (s.mpRead (ropeRef k (rrRefSlot s.ropeRec)) 65536)
  let ps := s.walkPages (gRopeAt k.g k.i) 524288 ++
    (List.range 2).flatMap fun h => s.walkPages (s.lenMap (ropeAnchor k h)) 8
  let an := match s.anchorOf ps k with
    | .ok xs => xs
    | .error _ => []
  let d := (ref.zip an).map fun p => f32Sub p.1 p.2
  let h := if half = 0 then (halves d).1 else (halves d).2
  (List.range 8).map fun i => (compressSlot 3 (bytes2 ((h.drop (2048 * i)).take 2048))).1

/-- Coded slots of a plane over all ROPE blocks, with their slot numbers. -/
def State.planeFrames (s : State) (slots : Blk → List (List Byte)) : List (Nat × List Byte) :=
  let ks := ropeBlocks s.train.groups
  ((List.range ks.length).zip ks).flatMap fun x => ((List.range 8).zip (slots x.2)).map fun y => (8 * x.1 + y.1, y.2)

/-- A participant sends its difference to the other participants. -/
def State.sendDifference (s : State) (b : Bid) : State :=
  let frames := [0, 1].flatMap fun half => (s.planeFrames fun k => s.diffSlots k half).map fun p => (half, p)
  s.each ((sitesOf b.participants).filter (· != s.ownSite)) fun s site =>
    s.each frames fun s p => s.queueTo site ⟨8, b.number, 0, 0, p.1 * 2 ^ 29 + p.2.1, p.2.2, 0, 0, 0, false⟩

/-- A bid is held: the one of the lowest site is adopted, and a participant whose round has ended sends its
difference. -/
def State.adoptBid (s : State) (b : Bid) : State :=
  let s := s.setRope fun r => { r with regroupSeq := max r.regroupSeq b.number }
  let better := match s.rope.bid with
    | some c => c.round != b.round || decide (b.site < c.site)
    | none => true
  if !better || !(sitesOf b.participants).contains s.ownSite then s
  else
    let s := s.setRope fun r => { r with bid := some b }
    if b.round + 1 = rrRound s.ropeRec then s.sendDifference b else s

/-- ROUND_INFO: kept, forwarded, and judged. -/
def State.takeInfo (s : State) (x : Nat) (body : List Byte) : Option State :=
  if body.length ≠ 256 ∨ leAt body 31 1 ≠ 0 ∨ leAt body 48 16 ≠ 0 ∨ leAt body 128 128 ≠ 0 ∨ 3 < leAt body 29 1 then none
  else
    let site := x / 32
    let round := leAt body 0 4
    let was := s.deltaComplete site round
    let s := s.setPeer site { s.ropePeer site with lastInfo := some round }
    let s := s.setRope fun r => { r with infos := Tbl.set [] r.infos (site * 2 ^ 32 + round) body }
    let s := (s.writeAll (Config.roundInfoAt (site * 2 + round % 2)) body).compareRefs site round
    let s := if bitAt (leAt body 29 1) 1 then s.adoptBid ⟨site, leAt body 36 4, leAt body 30 1, round⟩ else s
    some ((s.deltaArrived site round was).tryClose)

def State.receiveInfo (s : State) (f : RopeFrame) : State := s.receiveFrame f 5 (·.takeInfo)

/-- 16-bit words laid into one half of F32 words. -/
def overlayHalf (old : List Nat) (half : Nat) (xs : List Nat) : List Nat :=
  (old.zip xs).map fun p => if half = 0 then p.2 * 65536 + p.1 % 65536 else p.1 / 65536 * 65536 + p.2

/-- REGROUP: a slot of a peer's difference is decoded into the regroup area. -/
def State.takeRegroup (s : State) (w x : Nat) (body : List Byte) : Option State :=
  let plane := rfItem w / 2 ^ 29
  let slot := rfItem w % 2 ^ 29
  match bodySlot 3 body, (ropeBlocks s.train.groups)[slot / 8]? with
  | some (_, raw), some k =>
    if 1 < plane then none
    else
      let va := s.regroupAt (x / 32) k + 8192 * (slot % 8)
      let s := s.writeAll va (bytes4 (overlayHalf (words4 (s.mpRead va 8192)) plane (words2 raw)))
      let s := s.setRope fun r => { r with planes := (x / 32 * 2 + plane, slot) :: r.planes }
      some s.tryClose
  | _, _ => none

def State.receiveRegroup (s : State) (f : RopeFrame) : State :=
  s.receiveFrame f 8 fun s x body => s.takeRegroup f.header.toNat x body

/-! ### Late joiners (R349) -/

/-- The belay information record: the rope record, ROPE_H and STEP (assumption 63). -/
def State.belayInfo (s : State) : List Byte :=
  leBytes 64 s.ropeRec ++ leBytes 2 (s.obj 0x7002 1) ++ leBytes 4 (recStep s.stepRec)

/-- The slots of a plane as the sponsor sends them. -/
def State.belaySlots (s : State) (plane : Nat) (k : Blk) : List (List Byte) :=
  if plane < 4 then
    (List.range 8).map fun i =>
      let va := ropeAnchor k (plane - 2) + 4096 * i
      let m := leNat (s.mpRead (s.lenMap va) 1)
      (s.mpRead va 4096).take (if m = 0 then 4096 else 64 * m)
  else
    let slot := rrRefSlot s.ropeRec
    let xs := words4 (s.mpRead (if plane < 6 then ropeRef k slot else ropeMom k slot) 65536)
    let h := if plane % 2 = 0 then (halves xs).1 else (halves xs).2
    (List.range 8).map fun i => (compressSlot 3 (bytes2 ((h.drop (2048 * i)).take 2048))).1

/-- The sponsor sends its belay. -/
def State.sendBelay (s : State) (site : Nat) : State :=
  let s := s.each [2, 3, 4, 5, 6, 7] fun s plane =>
    s.each (s.planeFrames (s.belaySlots plane)) fun s p =>
      s.queueTo site ⟨9, 0, 0, 0, plane * 2 ^ 29 + p.1, p.2, 0, 0, 0, false⟩
  s.queueTo site ⟨9, 0, 0, 0, 0, s.belayInfo, 0, 0, 0, false⟩

/-- A session toward a site is open. -/
def State.siteOpen (s : State) (site : Nat) : Bool := (sessionsTo site).any fun y => (s.ropeSess y).state == .opened

/-- This site is the sponsor of a joiner: the lowest whose session opens, as far as this site knows which others are up: it
has an open session toward them (assumption 122). -/
def State.isSponsor (s : State) (joiner : Nat) : Bool :=
  !(s.peerSites.any fun x => x != joiner && decide (x < s.ownSite) && s.siteOpen x)

/-- OPEN: answered; a joiner is sent the belay. -/
def State.receiveOpen (s : State) (f : RopeFrame) : State :=
  let site := rfSrcSite f.header.toNat
  let s := (s.setPeer site { s.ropePeer site with joining := false }).takeOpen f
  if (s.ropePeer site).joining && s.isSponsor site then s.sendBelay site else s

/-- REF_SLOT flips before the belay has been acknowledged: it is sent again whole. -/
def State.repeatBelays (s : State) : State :=
  s.each s.peerSites fun s site =>
    let held := (sessionsTo site).any fun x => (s.ropeSess x).heldFrames.any fun f => f.kind == 9
    if !held then s
    else
      let s := s.each (sessionsTo site) fun s x =>
        if (s.ropeSess x).queue.any fun f => f.kind == 9 then
          s.mapSess x fun v => { v with queue := v.queue.filter fun f => f.kind != 9 } else s
      s.sendBelay site

/-- The words of a plane of a block, from the slots received. -/
def belayWords (t : Tbl (List Byte)) (plane i : Nat) : List Nat :=
  (List.range 8).flatMap fun j => words2 (Tbl.get [] t (plane * 2 ^ 29 + 8 * i + j))

/-- F32 words from two planes. -/
def belayF32 (t : Tbl (List Byte)) (plane i : Nat) : List Nat :=
  ((belayWords t plane i).zip (belayWords t (plane + 1) i)).map fun p => p.1 * 65536 + p.2

/-- Every slot and the information record have arrived. -/
def State.belayWhole (s : State) : Bool :=
  let n := 8 * (ropeBlocks s.train.groups).length
  !(Tbl.get [] s.rope.belay 0).isEmpty && [2, 3, 4, 5, 6, 7].all fun p =>
    (List.range n).all fun k => !(Tbl.get [] s.rope.belay (p * 2 ^ 29 + k)).isEmpty

/-- The joiner writes a block, here and at its replicas (R343): the arrays, the weights on the reference, and zero elsewhere. -/
def State.joinBlk (s : State) (t : Tbl (List Byte)) (i : Nat) (k : Blk) : State :=
  let ref := bytes4 (belayF32 t 4 i)
  let an := belayF32 t 2 i
  let h := halves an
  let zero := fun n : Nat => List.replicate n (0 : Byte)
  let ws := [(gMaster k.g k.i, ref), (ropeBaseArr k, ref), (ropeRef k 0, ref), (ropeMom k 0, bytes4 (belayF32 t 6 i)),
    (gM1 k.g k.i, zero 32768), (gErr k.g 0 k.i, zero 32768), (gErr k.g 1 k.i, zero 32768),
    (ropeRes k 0, zero 65536), (ropeRes k 1, zero 65536)] ++
    (if gAdam k.g then [(gM2 k.g k.i, zero 32768)] else [])
  let anchor := s.planeWrites (ropeAnchor k 0) h.1 ++ s.planeWrites (ropeAnchor k 1) h.2
  (s.each (ws ++ anchor) fun s w => s.writeAll w.1 w.2).countSlots anchor

/-- The transfer is whole: it is checked, and applied or discarded. -/
def State.finishJoin (s : State) (site : Nat) : State :=
  let t := s.rope.belay
  let ks := ropeBlocks s.train.groups
  let fps := ((List.range ks.length).zip ks).foldl (fun (acc : Nat × Nat) x =>
    ((acc.1 + arrayFp x.2.b (belayF32 t 4 x.1)) % 2 ^ 64, (acc.2 + arrayFp x.2.b (belayF32 t 2 x.1)) % 2 ^ 64)) (0, 0)
  let w := leAt (Tbl.get [] t 0) 0 64
  let s := s.setRope fun r => { r with belay := [] }
  if fps.1 ≠ rrRefFp w ∨ fps.2 ≠ rrAnchorFp w then
    (s.each (sessionsTo site) fun s x => s.setSess x .reset).setPeer site
      { s.ropePeer site with triedAt := none, opening := none, answered := false }
  else
    let s := s.each ((List.range ks.length).zip ks) fun s x => s.joinBlk t x.1 x.2
    let own := freshRopeRec
    let own := setFld (setFld own 495 464 (rrRound w)) 463 432 (rrClosed w)
    let own := setFld (setFld (setFld own 383 352 (rrAnchorRound w)) 351 288 (rrAnchorFp w)) 287 224 (rrRefFp w)
    let own := setFld own 63 0 (rrSamples w)
    let s := (s.setRopeRec own).writeAll s.ropeBase (leBytes 64 own)
    (s.log 0x700F (domSession (32 * site)) [(3, site)]).setRope fun r => { r with joined := true }

/-- BELAY: a slot of a plane, or the information record, at a joiner. -/
def State.takeBelay (s : State) (w x : Nat) (body : List Byte) : Option State :=
  let item := rfItem w
  let put := fun (bs : List Byte) =>
    if !s.isJoiner then some s else
    let s := s.setRope fun r => { r with belay := Tbl.set [] r.belay item bs }
    some (if s.belayWhole then s.finishJoin (x / 32) else s)
  if item = 0 then (if body.length = 70 then put body else none)
  else if item / 2 ^ 29 < 2 then none
  else match bodySlot 3 body with
    | some (_, raw) => put raw
    | none => none

def State.receiveBelay (s : State) (f : RopeFrame) : State :=
  s.receiveFrame f 9 fun s x body => s.takeBelay f.header.toNat x body

/-! ### The end of a round (R327, R333, R342, R346, R348) -/

/-- The module's ROUND_INFO for the round that has just ended. -/
def State.makeInfo (s : State) (round : Nat) (bid : Option Bid) : List Byte :=
  let w := s.ropeRec
  let joining := s.rope.joined
  let weight := if joining then 0 else f32Nat (s.obj 0x7000 8 * s.obj 0x7002 1)
  let flags := (if joining then 1 else 0) + (if bid.isSome then 2 else 0)
  let slots := (List.range 32).flatMap fun n => leBytes 2 (((s.ownStream round n).length + 4095) / 4096)
  leBytes 4 round ++ leBytes 4 weight ++ leBytes 8 (rrRefFp w) ++ leBytes 4 (rrAnchorRound w) ++
  leBytes 8 (rrAnchorFp w) ++ leBytes 1 (rrMembers w) ++ leBytes 1 flags ++
  leBytes 1 (match bid with | some b => b.participants | none => 0) ++ leBytes 1 0 ++ leBytes 4 (rrClosed w) ++
  leBytes 4 (match bid with | some b => b.number | none => 0) ++ leBytes 8 (rrSamples w) ++ List.replicate 16 0 ++
  slots ++ List.replicate 128 0

/-- Sessions whose lag is too long, and those of a peer that has been silent too long, go slack (R346). -/
def State.checkSlack (s : State) : State :=
  let limit := s.obj 0x7002 6
  let stale := fun site => match (s.ropePeer site).lastInfo with
    | some r => decide (r + limit < rrRound s.ropeRec)
    | none => false
  let stripes := s.peerSites.flatMap fun site => (s.stripesTo site).map (32 * site + ·)
  s.each (stripes.filter fun x => decide (limit < s.sessionLag x) || stale (x / 32)) State.goSlack

/-- The round's information and delta are queued toward every site that is not slack. -/
def State.sendRound (s : State) (round : Nat) (info : List Byte) : State :=
  s.each (s.peerSites.filter fun x => !s.siteSlack x) fun s site =>
    let s := s.queueTo site ⟨5, round, 0, 0, 0, info, 0, 0, 0, false⟩
    s.each (List.range 32) fun s n =>
      let slots := streamSlots (s.ownStream round n)
      s.each ((List.range slots.length).zip slots) fun s p =>
        s.dealTo site ⟨3, round, n, p.1, 0, p.2, 0, 0, 0, false⟩

/-- A regroup that has not closed when the next round ends is dropped (R348). -/
def State.abandonRegroup (s : State) (round : Nat) : State :=
  match s.rope.bid with
  | some b =>
    let w := s.ropeRec
    let closing := rrRegroup w && (rrState w == rrPrepared || rrState w == rrCommitted)
    if b.round < round ∧ !closing then (s.log 0x700E (domMp 0)).setRope fun r => { r with bid := none, planes := [] } else s
  | none => s

/-- At a leader: a round before this one is closed by force. -/
def State.forceClose (s : State) (round : Nat) : State :=
  if s.closable && s.isLeader && decide (s.pendingRound < round) then s.closeWith (s.membersNow s.pendingRound) false 3
  else s

/-- This module bids, if it has the trigger. -/
def State.makeBid (s : State) (round : Nat) : State × Option Bid :=
  if !s.rope.trigger || !s.isLeader then (s, none)
  else
    let sites := (List.range 8).filter fun x => x == s.ownSite || (s.peerSites.contains x &&
      !s.siteSlack x && s.siteOpen x)
    let b : Bid := ⟨s.ownSite, s.rope.regroupSeq + 1, maskOf sites, round⟩
    (s.setRope fun r => { r with trigger := false }, some b)

/-- A round has ended. -/
def State.afterRound (s : State) (round : Nat) : State :=
  let s := ((s.abandonRegroup round).forceClose round).checkSlack
  let held := match s.rope.bid with
    | some b => if b.round = round then some b else none
    | none => none
  let (s, bid) := s.makeBid round
  let info := s.makeInfo round bid
  let s := s.setRope fun r => { r with
    infos := Tbl.set [] r.infos (s.ownSite * 2 ^ 32 + round) info, joined := false }
  let s := s.each s.peerSites fun s site => s.compareRefs site round
  let s := if s.isLeader then s.sendRound round info else s
  let s := match bid, held with
    | some b, some h => if b.site < h.site then s.adoptBid b else s.sendDifference h
    | some b, none => s.adoptBid b
    | none, some h => s.sendDifference h
    | none, none => s
  s.tryClose

/-! ### The end of a sweep (R288, R327) -/

/-- The module histogram of a round: the sum of the engines' valid copies. -/
def State.sumHists (s : State) (step : Nat) : List Byte :=
  let copies := (List.range 32).filterMap fun n =>
    let c := s.ropeCursor n
    if c.step = step then some (words4 (s.mpRead (s.histAt n c.done) 4096)) else none
  bytes4 (copies.foldl (fun acc h => (acc.zip h).map fun p => (p.1 + p.2) % 2 ^ 32) (List.replicate 1024 0))

/-- The reference after a SHIFT, and the end of a regroup. -/
def State.endShift (s : State) (step : Nat) : State :=
  let w := s.ropeRec
  let fp := (List.range 32).foldl (fun f n =>
    let c := s.ropeCursor n
    if c.step = step then (f + c.fp) % 2 ^ 64 else f) 0
  let carried := sitesOf (rrCarry w)
  let w' := setFld (setFld (setFld w 505 505 (1 - rrRefSlot w)) 507 506 rrIdle) 287 224 fp
  let s := s.setRope fun r => { r with held := r.held.filter fun h => !carried.contains h.1 }
  let s :=
    if !rrRegroup w then s.setRopeRec w'
    else
      let rounds := (sitesOf (rrMembers w)).map fun x =>
        if x = s.ownSite then rrRound w else
          match (s.ropePeer x).lastInfo with | some r => r + 1 | none => 0
      let w' := setFld (setFld (setFld w' 383 352 (rrClosed w)) 351 288 fp) 63 0 0
      let w' := setFld (setFld w' 503 503 0) 495 464 (rounds.foldl max (rrRound w))
      (((s.setRopeRec w').count 0x7005 0xA).log 0x700D (domMp 0)).setRope fun r => { r with bid := none, planes := [] }
  s.repeatBelays

/-- The record after a ROUND_END: streams end, the residual slot flips, and the round counts as ended. -/
def State.endRound (s : State) (step : Nat) : State :=
  let w := s.ropeRec
  let round := rrRound w
  let s := s.each (List.range 32) fun s n => s.setStream round n (s.ownStream round n ++ endRecord)
  let s := s.mpWrite s.moduleHistAt (s.sumHists step)
  let w := setFld (setFld w 495 464 (round + 1)) 504 504 (1 - rrResSlot w)
  let w := setFld (setFld w 127 64 (rrEndUs w)) 191 128 (s.now / 1000)
  (s.setRopeRec (setFld w 507 506 rrOpen)).setObj 0x7005 7 s.rope.sent

/-- The sweep ends: engines that have not finished take up their sweep, and once all have, the management processor
updates the rope record and then writes STATE IDLE. No sweep ends while a repair is open (R317). -/
def State.endSweep (s : State) : State :=
  if recState s.stepRec != 1 || s.train.groups.isEmpty then s
  else
    let s := s.resumeSweeps
    if s.repairOpen || !(List.range 32).all s.engineDone then s
    else
      let w := s.stepRec
      let shift := s.ropeOn && bitAt w 504
      let ends := s.ropeOn && bitAt w 503
      let round := rrRound s.ropeRec
      let s := s.on shift (·.endShift (recStep w))
      let s := s.on ends (·.endRound (recStep w))
      let s := s.setStepRec (setFld (if ends then setFld w 223 192 0 else w) 507 506 0)
      if ends then s.afterRound round else if shift then s.tryClose else s

/-- SWEEP_END. -/
def execSweepEnd (s : State) : Host.Outcome State Fault Refusal := act s State.endSweep

/-! ### Job load and restore (R321, R335, R342) -/

/-- At job load every session is to be opened afresh, and the leader queues the rounds that have not closed from its own rope
store: also one that has just become replica 0 (R321). What carries into a close that has been committed stays. -/
def State.ropeJob (s : State) : State :=
  let w := s.ropeRec
  let rounds := (List.range (rrRound w)).drop s.pendingRound
  let own := rounds.filterMap fun r =>
    let i := s.infoOf s.ownSite r
    if i.isEmpty then none else some (s.ownSite * 2 ^ 32 + r, i)
  let carried := s.rope.held.filter fun h => (sitesOf (rrCarry w)).contains h.1
  let s := s.setRope fun r => { r.forget own carried with
    sess := [], peers := [], acks := [], closingAt := none, unanswered := false, joined := false, activeAt := 0 }
  if !(s.ropeOn && s.isLeader) then s
  else s.each own fun s e => s.sendRound (e.1 % 2 ^ 32) e.2

/-! ### The rows of received frames -/

/-- The gateway hands a frame for another module of its site on (R323); others are this module's. -/
def State.atGateway (s : State) (f : RopeFrame) (run : State → State) : State :=
  let w := f.header.toNat
  if rfDstSite w = s.ownSite ∧ rfDstModule w ≠ s.moduleNumber ∧ (List.range 64).any (s.role · == 2) then
    s.packetSend (rfDstModule w) f.header f.body
  else run s

def execRopeOpen (f : RopeFrame) (s : State) : Host.Outcome State Fault Refusal :=
  act s fun s => s.atGateway f (·.receiveOpen f)

def execRopeAccept (f : RopeFrame) (s : State) : Host.Outcome State Fault Refusal :=
  act s fun s => s.atGateway f (·.takeAccept f)

def execRopeDelta (f : RopeFrame) (s : State) : Host.Outcome State Fault Refusal :=
  act s fun s => s.atGateway f (·.receiveDelta f)

def execRopeSack (f : RopeFrame) (s : State) : Host.Outcome State Fault Refusal :=
  act s fun s => s.atGateway f (·.receiveSack f)

def execRoundInfo (f : RopeFrame) (s : State) : Host.Outcome State Fault Refusal :=
  act s fun s => s.atGateway f (·.receiveInfo f)

def execRekey (f : RopeFrame) (s : State) : Host.Outcome State Fault Refusal :=
  act s fun s => s.atGateway f (·.receiveRekey f)

def execRekeyAck (f : RopeFrame) (s : State) : Host.Outcome State Fault Refusal :=
  act s fun s => s.atGateway f (·.receiveRekeyAck f)

def execRegroup (f : RopeFrame) (s : State) : Host.Outcome State Fault Refusal :=
  act s fun s => s.atGateway f (·.receiveRegroup f)

def execRopeBelay (f : RopeFrame) (s : State) : Host.Outcome State Fault Refusal :=
  act s fun s => s.atGateway f (·.receiveBelay f)

def execProbe (f : RopeFrame) (s : State) : Host.Outcome State Fault Refusal :=
  act s fun s => s.atGateway f (·.receiveProbe f)

end Sys2Proof.Machine
end

