-- ==== Sys2Proof/Machine/Registry.lean ====
section
/-!
DEFINITION. Reading the dictionary: scalars, records, strings and BLOBs, those that mirror a unit included
(R391-R395, R495).
-/

namespace Sys2Proof.Machine

/-! ### Scalars that mirror a unit -/

def bit01 (b : Bool) : Nat := if b then 1 else 0

/-- TIME_ROLE. -/
def State.timeRole (s : State) : Nat := if s.time.isRoot then 1 else if s.ownIndex.isSome then 2 else 0

/-- Nibble c: the state of context c (R215). -/
def State.contextStates (s : State) (c : Nat) : Nat :=
  (List.range 8).foldl (fun n x => n + (s.ctx c x).status.code * 16 ^ x) 0

/-- CORE_POWER. -/
def State.corePower (s : State) (c : Nat) : Nat :=
  if s.kind = 6 then 3
  else if Tbl.get .awake s.dies (c / 48) ≠ .awake then 2
  else if (s.core c).power = .asleep ∨ (s.core c).power = .waking then 1
  else 0

/-- STACK_STATE: self-refresh in module bivouac, training while it wakes. -/
def State.stackState (s : State) (n : Nat) : Nat :=
  if s.memctl.failed.contains n then 4
  else if s.supply.bivouacWaking then 1
  else if s.kind = 6 then 2
  else if s.memctl.trained.contains n then 0 else 1

/-- REGION_VISIBLE in MiB (R363). -/
def State.regionVisible (s : State) (d : Nat) : Nat := 393216 - 768 * s.spanOf d - (if d = 0 then 3376 else 0)

/-- The objects that mirror a unit: index, first and last subindex, value by subindex. -/
def mirrors : List (Nat × Nat × Nat × (State → Nat → Nat)) :=
  [(0x1000, 5, 5, fun _ _ => Config.dieSteppings),
   (0x1000, 6, 6, fun s _ => leAt (s.boot.bundleHeaders.getD 0 []) 8 4),
   (0x1000, 7, 7, fun s _ => ((s.now : Int) - s.boot.since).toNat),
   (0x1002, 7, 7, fun s _ => s.obj 0x1000 9 % 2),
   (0x1002, 9, 9, fun s _ => s.dict.sessions.length),
   (0x2000, 1, 1, fun s _ => s.now),
   (0x2000, 2, 2, fun s _ => s.time.fracLatch),
   (0x2000, 3, 3, fun s _ => s.time.state.code),
   (0x2000, 4, 4, fun s _ => s.timeRole),
   (0x2000, 5, 5, fun s _ => s.time.tier),
   (0x2000, 6, 6, fun s _ => match s.time.parent with | some l => l.val | none => 0xFF),
   (0x2000, 7, 7, fun s _ => unsext 32 s.time.offsetEst),
   (0x2000, 8, 8, fun s _ => unsext 32 s.time.freqAdj),
   (0x2000, 9, 9, fun s _ => if s.time.state = .holdover then (s.now - s.time.holdoverAt) / 1000 else 0),
   (0x2002, 4, 4, fun s _ => bit01 s.time.taiValid),
   (0x2002, 5, 5, fun s _ => unsext 64 s.time.taiError),
   (0x2013, 3, 3, fun s _ => s.hold.offset),
   (0x2013, 4, 4, fun s _ => bit01 s.hold.held),
   (0x3000, 1, 1, fun s _ => s.supply.mv),
   (0x3000, 2, 2, fun s _ => s.supply.ma),
   (0x3000, 3, 3, fun s _ => s.drawNow / 1000),
   (0x3000, 4, 4, fun s _ => s.drawMean 100 / 1000),
   (0x3000, 5, 5, fun s _ => s.supply.peak / 1000),
   (0x3000, 6, 6, fun s _ => s.supply.bank),
   (0x3000, 7, 7, fun s _ => s.supply.state),
   (0x3000, 9, 9, fun s _ => s.supply.energy / 1000000),
   (0x3003, 5, 5, fun s _ => s.supply.ballast / 1000),
   (0x3003, 8, 8, fun s _ => if s.supply.target = 0 then 0 else min (s.drawMean 100 / 1000 - s.supply.target) 65535),
   (0x3004, 0, 0xBF, State.corePower),
   (0x3005, 1, 1, fun s _ => bit01 s.supply.refLost),
   (0x3006, 0, 5, fun s n => unsext 16 (s.supply.dieTemps.getD n 0)),
   (0x3006, 6, 6, fun s _ => unsext 16 s.supply.lidTemp),
   (0x4031, 0, 0xBF, State.contextStates),
   (0x5000, 2, 2, fun s _ => (List.range 4).foldl (fun n d => n + s.regionVisible d) 0),
   (0x5001, 0, 0x1F, State.stackState),
   (0x5002, 0, 0x1F, fun s n => unsext 16 (s.supply.stackTemps.getD n 0)),
   (0x5003, 0, 3, State.regionVisible),
   (0x5004, 0, 3, State.retiredIn),
   (0x6010, 6, 7, fun s n => s.poolFree (n - 6)),
   (0x9002, 3, 3, fun s _ => s.resetsInWindow),
   (0xA000, 3, 3, fun s _ => s.boot.count)]

/-- The value of a scalar, as its bit pattern. -/
def State.scalar (s : State) (idx sub : Nat) : Nat :=
  match mirrors.find? fun m => m.1 == idx && decide (m.2.1 ≤ sub) && decide (sub ≤ m.2.2.1) with
  | some m => m.2.2.2 s sub
  | none => s.obj idx sub

/-! ### Records (R495) -/

/-- Bytes cut or filled with zeros to `n`. -/
def fit (n : Nat) (bs : List Byte) : List Byte := (bs ++ List.replicate (n - bs.length) 0).take n

/-- LOST_LINKS. -/
def State.lostLinks (s : State) : List Byte :=
  leBytes 4 s.hold.lost.length ++ s.hold.lost.flatMap (leBytes 4)

/-- MIGRATION. How far the copy has come is a free value (R364). -/
def State.migration (s : State) : List Byte :=
  match s.memctl.migrating with
  | [] => leBytes 8 0
  | p :: _ => leBytes 1 (p / 512) ++ leBytes 1 (p / 64) ++ leBytes 1 (p / 2 % 32) ++ leBytes 1 (p % 2) ++
      leBytes 4 (s.migrationUnits p - min (s.migrationUnits p) (Config.unitsCopied p s.now))

/-- PC_ERRORS. -/
def State.pcErrors (s : State) (p : Nat) : List Byte :=
  let v := s.pcErr p
  leBytes 4 v.corrected ++ leBytes 4 v.retried ++ leBytes 4 v.poisoned ++ leBytes 1 v.state ++ leBytes 3 0

/-- BOOT_SLOTS. A first stage has no TRIAL mark (R466). -/
def State.bootSlots (s : State) : List Byte :=
  let b := s.boot
  ([b.runFirst, b.activeFirst, 0, b.runBundle, b.activeBundle, bit01 b.trialBundle].map (BitVec.ofNat 8)) ++ [0, 0]

/-- CAMP_INFO_n. -/
def campInfo (image : List Byte) : List Byte :=
  let w := leAt image 0 64
  if image.isEmpty then leBytes 8 0
  else leBytes 1 1 ++ leBytes 1 (fld w 507 500) ++ leBytes 2 (fld w 499 490) ++ leBytes 4 (fld w 489 458)

/-- STATE of a rope session (R352). -/
def SessState.code : SessState → Nat
  | .closed => 0
  | .opening => 1
  | .opened => 2
  | .slack => 3

/-- The items of SESSION_STATE: state, epoch, CUM in each direction, SRTT and lag. -/
def State.sessionItems (s : State) (x : Nat) : List Nat :=
  let v := s.ropeSess x
  [v.state.code, v.cur.number, v.cumOut, v.rxCum, v.srtt, s.sessionLag x]

/-- The bytes of a record or string that is not kept as written; none: it is. -/
def State.mirrorRec (s : State) (idx sub : Nat) : Option (List Byte) :=
  if idx = 0x1000 then
    (if sub = 3 then some ("BL2-1536-LC".toList.map fun c => BitVec.ofNat 8 c.toNat)
     else if sub = 4 then some Config.serial else none)
  else if idx = 0x2013 then some s.lostLinks
  else if idx = 0x3000 then some (Config.recLayout 0x300008 s.supply.loads)
  else if idx = 0x4041 then some (leBytes 16 (Tbl.get regionReset s.regions sub).toNat)
  else if idx = 0x5000 then some s.migration
  else if 0x5020 ≤ idx ∧ idx ≤ 0x503F then some (s.pcErrors (64 * (idx - 0x5020) + sub))
  else if idx = 0x7004 then some (Config.recLayout 0x700400 (s.sessionItems sub))
  else if idx = 0xA000 then some s.bootSlots
  else if idx = 0xA001 then
    (if sub = 3 then some (Config.recLayout 0xA00103 [s.boot.fwState.1, s.boot.fwState.2.1, s.boot.fwState.2.2])
     else if sub = 5 then some ((List.range 4).flatMap fun k => leBytes 4 (Tbl.get 0 s.boot.floors (k + 1)))
     else if sub = 6 then some s.boot.measures.flatten else none)
  else if idx = 0xA002 then some (Config.sha3 Config.identityKey)
  else if idx = 0xB011 then some (campInfo (Tbl.get [] s.dict.camps sub))
  else none

/-- The value of an object that READ returns: little-endian bytes of its type's size. -/
def State.valueOf (s : State) (r : ObjRow) (idx sub : Nat) : List Byte :=
  match r.ty with
  | .recd => fit r.size ((s.mirrorRec idx sub).getD (s.recOf idx sub))
  | .str => (s.mirrorRec idx sub).getD (s.recOf idx sub)
  | .blob => []
  | _ => leBytes r.size (s.scalar idx sub)

/-! ### BLOBs -/

/-- Byte `i` of CAIRN_RING: the record whose SEQ mod 8,192 is i / 32. -/
def State.ringByte (s : State) (i : Nat) : Byte :=
  match s.faults.ring.find? fun r => fld r.toNat 231 200 % 8192 == i / 32 with
  | some r => (leBytes 32 r.toNat).getD (i % 32) 0
  | none => 0

/-- Bytes `off` to `off + n - 1` of a BLOB as a session sees it. -/
def State.blobPiece (s : State) (session idx sub off n : Nat) : List Byte :=
  let cut := fun bs : List Byte => fit n (bs.drop off)
  if idx = 0x8014 then
    (if sub = 4 then cut ((List.range s.spanCount).flatMap fun j => leBytes 8 (s.sumFps (s.spanBlocks j)))
     else s.mpRead (s.obj 0x8000 7 + off) n)
  else if idx = 0x9004 then (List.range n).map fun i => s.ringByte (off + i)
  else if idx = 0x9006 then cut (s.faults.snapshots.flatMap fun x => fit 16384 (Config.snapshotImage x))
  else if idx = 0xA001 then
    (if sub = 1 then Memory.read s.boot.staging off n else cut s.boot.log.flatten)
  else if idx = 0xA002 then
    (if sub = 1 then cut Config.identityKey else if sub = 3 then cut Config.identityCert
     else cut (Tbl.get [] s.boot.reports session))
  else if idx = 0xB010 then cut (Tbl.get [] s.dict.camps sub)
  else List.replicate n 0

/-! ### Definition (R18, R391, R403) -/

/-- The row of an object that answers in the active camp. -/
def State.defined (s : State) (idx sub : Nat) : Option ObjRow :=
  if 0xC000 ≤ idx ∧ (idx < 0xF000 ∨ s.kind ≠ 5) then none else objRow (okey idx sub)

/-- The answer to DESCRIBE (R400): 48 bytes. -/
def describeRow (r : ObjRow) (k : Nat) : List Byte :=
  let v := fun n : Nat => if r.ty.scalar then leBytes 8 n else leBytes 8 0
  let i := fun n : Int => if r.ty.scalar then leBytes 8 (if r.ty.signed then unsext (8 * r.size) n else n.toNat) else leBytes 8 0
  [BitVec.ofNat 8 r.ty.code, BitVec.ofNat 8 r.acc.code, BitVec.ofNat 8 (bit01 r.stored),
    BitVec.ofNat 8 (bit01 (!r.jobRefused))] ++ leBytes 4 r.size ++ v (objDefault k) ++ i r.min ++ i r.max ++
  fit 16 (r.unit.toList.map fun c => BitVec.ofNat 8 c.toNat)

/-- The objects of a row as entries of LIST: key and type code, ascending. -/
def rowEntries (r : ObjRow) : List (Nat × Nat) :=
  (List.range (r.idxLast + 1 - r.idx)).flatMap fun i =>
    (List.range (r.hi + 1 - r.lo)).map fun j => (okey (r.idx + i) (r.lo + j), r.ty.code)

/-- Entries in ascending order of their keys. -/
def insertEntry (e : Nat × Nat) : List (Nat × Nat) → List (Nat × Nat)
  | [] => [e]
  | x :: xs => if e.1 ≤ x.1 then e :: x :: xs else x :: insertEntry e xs

/-- The answer to LIST (R400): entries after an object that answer in the active camp, at most `n`. -/
def listAfter (kind k n : Nat) : List Byte :=
  let later := (Objects.table.flatMap rowEntries).filter fun e =>
    decide (k < e.1) && (decide (e.1 / 256 < 0xF000) || kind == 5)
  ((later.foldr insertEntry []).take n).flatMap fun e =>
    leBytes 2 (e.1 / 256) ++ leBytes 1 (e.1 % 256) ++ leBytes 1 e.2

end Sys2Proof.Machine
end

