-- ==== Sys2Proof/Machine/Sequencer.lean ====
section
/-!
DEFINITION. Control, synchronisation and tally instructions, and the commands of the die controller
(R191, R192, R200-R209, R213).
-/

namespace Sys2Proof.Machine

/-! ### Control (R191, R192) -/

/-- Operand B: S[SB] + IMM modulo 2^64. -/
def State.operandB (s : State) (c x w : Nat) : BitVec 64 :=
  (s.ctx c x).s (fld w 103 100) + BitVec.ofNat 64 (fld w 63 0)

/-- ALU functions. -/
def aluFn (fn : Nat) (a b : BitVec 64) : BitVec 64 :=
  let sh := b.toNat % 64
  match fn with
  | 0x0 => a + b
  | 0x1 => a - b
  | 0x2 => a * b
  | 0x3 => a &&& b
  | 0x4 => a ||| b
  | 0x5 => a ^^^ b
  | 0x6 => a <<< sh
  | 0x7 => a >>> sh
  | 0x8 => a.sshiftRight sh
  | 0x9 => if a.toInt ≤ b.toInt then a else b
  | 0xA => if a.toInt ≤ b.toInt then b else a
  | 0xB => if a.toNat ≤ b.toNat then a else b
  | _ => if a.toNat ≤ b.toNat then b else a

/-- CMP conditions. -/
def cmpFn (fn : Nat) (a b : BitVec 64) : Bool :=
  match fn with
  | 0x0 => a == b
  | 0x1 => a != b
  | 0x2 => decide (a.toInt < b.toInt)
  | 0x3 => decide (a.toInt ≤ b.toInt)
  | 0x4 => decide (a.toNat < b.toNat)
  | _ => decide (a.toNat ≤ b.toNat)

/-- S[DST] takes a value and the instruction retires. -/
def State.retireS (s : State) (c x dst : Nat) (v : BitVec 64) : State :=
  (s.mapCtx c x (·.setS dst v)).retire c x

/-- P[PD] takes a value and the instruction retires. -/
def State.retireP (s : State) (c x pd : Nat) (v : Bool) : State :=
  (s.mapCtx c x (·.setP pd v)).retire c x

/-- The instruction retires and the program counter goes to `pc`. -/
def State.retireTo (s : State) (c x : Nat) (f : CtxSt → CtxSt) : State :=
  s.mapCtx c x fun v => { f v with status := .ready, wait := .none, pace := s.now }

def execNop (core : Core) (ctx : Ctx) (s : State) : Host.Outcome State Fault Refusal :=
  act s (·.issue core ctx 0x60 (fun w => failIf (unassigned w []) 1) (fun _ _ => none)
    fun s _ => s.retire core ctx)

def execAlu (core : Core) (ctx : Ctx) (s : State) : Host.Outcome State Fault Refusal :=
  act s (·.issue core ctx 0x61
    (fun w => failIf (unassigned w [(111, 96), (63, 0)] || decide (0xC < fld w 99 96)) 1)
    (fun _ _ => none)
    fun s w => s.retireS core ctx (fld w 111 108)
      (aluFn (fld w 99 96) ((s.ctx core ctx).s (fld w 107 104)) (s.operandB core ctx w)))

def execCmp (core : Core) (ctx : Ctx) (s : State) : Host.Outcome State Fault Refusal :=
  act s (·.issue core ctx 0x62
    (fun w => failIf (unassigned w [(110, 96), (63, 0)] || decide (5 < fld w 99 96)) 1)
    (fun _ _ => none)
    fun s w => s.retireP core ctx (fld w 110 108)
      (cmpFn (fld w 99 96) ((s.ctx core ctx).s (fld w 107 104)) (s.operandB core ctx w)))

/-- The scratch address of LD and ST. -/
def State.scratchAddr (s : State) (c x w : Nat) : Nat :=
  ((s.ctx c x).s (fld w 107 104) + BitVec.ofNat 64 (fld w 63 0)).toNat

/-- LD and ST: a multiple of 8 within scratch. -/
def State.scratchCheck (s : State) (c x w : Nat) : Option Reject :=
  let a := s.scratchAddr c x w
  failIf (decide (a % 8 ≠ 0) || decide (storeSize 3 < a + 8)) 5

def execLd (core : Core) (ctx : Ctx) (s : State) : Host.Outcome State Fault Refusal :=
  act s (·.issue core ctx 0x63
    (fun w => failIf (unassigned w [(111, 104), (63, 0)]) 1)
    (fun s w => s.scratchCheck core ctx w)
    fun s w => s.retireS core ctx (fld w 111 108)
      (BitVec.ofNat 64 (s.storeNat core 3 (s.scratchAddr core ctx w) 8)))

def execSt (core : Core) (ctx : Ctx) (s : State) : Host.Outcome State Fault Refusal :=
  act s (·.issue core ctx 0x64
    (fun w => failIf (unassigned w [(107, 100), (63, 0)]) 1)
    (fun s w => s.scratchCheck core ctx w)
    fun s w => (s.storeWrite core 3 (s.scratchAddr core ctx w)
      (leBytes 8 (s.sreg core ctx (fld w 103 100)))).retire core ctx)

/-- The target of a branch: an instruction number, before any check. -/
def State.branchTarget (s : State) (c x w : Nat) : Int := (s.ctx c x).pc.toNat + sext 64 (fld w 63 0)

/-- The loops whose body holds the target, from the innermost outward (R192). -/
def keepLoops (target : Nat) : List LoopFrame → List LoopFrame
  | [] => []
  | f :: fs => if f.first ≤ target ∧ target < f.last then f :: fs else keepLoops target fs

def execBr (core : Core) (ctx : Ctx) (s : State) : Host.Outcome State Fault Refusal :=
  act s (·.issue core ctx 0x65
    (fun w => failIf (unassigned w [(63, 0)]) 1)
    (fun s w =>
      let t := s.branchTarget core ctx w
      failIf (!(s.ctx core ctx).stream && (decide (t < 0) || decide (4095 < t))) 8)
    fun s w =>
      let t := unsext 44 (s.branchTarget core ctx w)
      s.retireTo core ctx fun v => { v with pc := BitVec.ofNat 44 t, loops := keepLoops t v.loops })

/-- The count of a LOOP. -/
def State.loopCount (s : State) (c x w : Nat) : Nat :=
  ((s.ctx c x).s (fld w 107 104) + BitVec.ofNat 64 (fld w 63 0)).toNat

def execLoop (core : Core) (ctx : Ctx) (s : State) : Host.Outcome State Fault Refusal :=
  act s (·.issue core ctx 0x66
    (fun w => failIf (unassigned w [(111, 104), (95, 80), (63, 0)] || fld w 95 80 == 0) 1)
    (fun s w =>
      let v := s.ctx core ctx
      let last := v.pc.toNat + 1 + fld w 95 80
      if 2 ^ 32 ≤ s.loopCount core ctx w then some (.cause 1)
      else failIf ((match v.loops with | f :: _ => decide (f.last < last) | [] => false) ||
        (s.loopCount core ctx w != 0 && decide (4 ≤ v.loops.length))) 7)
    fun s w =>
      let n := s.loopCount core ctx w
      let dst := fld w 111 108
      s.retireTo core ctx fun v =>
        let first := v.pc.toNat + 1
        let last := first + fld w 95 80
        if n = 0 then loopEnd { v with pc := BitVec.ofNat 44 last }
        else { v.setS dst 0 with
          pc := BitVec.ofNat 44 first
          loops := ⟨first, last, n - 1, dst, 0⟩ :: v.loops })

/-- HALT: the context enters IDLE; the program counter stays at the instruction. -/
def execHalt (core : Core) (ctx : Ctx) (s : State) : Host.Outcome State Fault Refusal :=
  act s (·.issue core ctx 0x67 (fun w => failIf (unassigned w []) 1) (fun _ _ => none)
    fun s _ => ((s.mapCtx core ctx fun v =>
      { v with status := .idle, wait := .none, pace := s.now }).ctxStops core ctx).noteActive core)

/-! ### Semaphores (R200-R203) -/

/-- SEM.INIT and SEM_SET: COUNT, PRODUCER and LEASE are set and BROKEN cleared. -/
def State.semInit (s : State) (c n count producer lease : Nat) : State :=
  (s.setSem c n { s.sem c n with
    count := BitVec.ofNat 16 count, producer := BitVec.ofNat 16 producer
    lease := BitVec.ofNat 16 lease, broken := false }).evalSem c n

/-- The encoding checks that SEM instructions share: bits, then the semaphore number, then N. -/
def semEnc (fields : List (Nat × Nat)) (needN : Bool) (w : Nat) : Option Reject :=
  if unassigned w fields then some (.cause 1)
  else if 64 ≤ fld w 95 88 then some (.cause 0xA)
  else failIf (needN && fld w 79 64 == 0) 1

def execSemInit (core : Core) (ctx : Ctx) (s : State) : Host.Outcome State Fault Refusal :=
  act s (·.issue core ctx 0x50 (semEnc [(95, 88), (79, 32)] false) (fun _ _ => none)
    fun s w => (s.retire core ctx).semInit core (fld w 95 88) (fld w 79 64) (fld w 63 48) (fld w 47 32))

/-- SEM.POST: a post to another core travels; one to the own core arrives in the issue cycle
(assumption 31). -/
def execSemPost (core : Core) (ctx : Ctx) (s : State) : Host.Outcome State Fault Refusal :=
  act s (·.issue core ctx 0x51
    (fun w => match semEnc [(103, 88), (79, 64)] true w with
      | some r => some r
      | none => failIf (decide (0xC0 ≤ fld w 103 96) && fld w 103 96 != 0xFF) 0xA)
    (fun _ _ => none)
    fun s w =>
      let dest := if fld w 103 96 = 0xFF then core.val else fld w 103 96
      let n := fld w 79 64
      let v := s.ctx core ctx
      if dest = core.val then (s.retire core ctx).post core (fld w 95 88) n true
      else if v.skipPosts ≠ 0 then
        ((s.setCtx core ctx { v with skipPosts := v.skipPosts - 1 }).mapCore core fun k =>
          { k with suppressedPosts := k.suppressedPosts + 1 }).retire core ctx
      else
        let s := (s.setCtx core ctx { v with posts := v.posts + 1 }).retire core ctx
        { s with posts := s.posts ++ [(64 * dest + fld w 95 88, n)] })

/-- The first `n` posts that travel to `key`: their counts' sum, and the posts that stay in flight. -/
def takePosts (key : Nat) : List (Nat × Nat) → Nat → Nat × List (Nat × Nat)
  | [], _ => (0, [])
  | p :: ps, n =>
    if n ≠ 0 ∧ p.1 = key then
      let r := takePosts key ps (n - 1)
      (p.2 + r.1, r.2)
    else
      let r := takePosts key ps n
      (r.1, p :: r.2)

/-- SEM_POST_ARRIVE: the posts of one cycle count as one sum (R202). -/
def execSemPostArrive (core : Core) (sem : BitVec 8) (posts : Nat) (s : State) : Host.Outcome State Fault Refusal :=
  act s fun s =>
    let r := takePosts (64 * core + sem.toNat) s.posts posts
    if r.1 ≠ 0 ∧ sem.toNat < 64 then ({ s with posts := r.2 }).post core sem.toNat r.1 false else s

def execSemWait (core : Core) (ctx : Ctx) (s : State) : Host.Outcome State Fault Refusal :=
  act s (·.issue core ctx 0x52 (semEnc [(95, 88), (79, 64)] true) (fun _ _ => none)
    fun s w =>
      let n := fld w 95 88
      let k := fld w 79 64
      let v := s.sem core n
      if v.broken then s.brokenWait core ctx
      else if k ≤ v.count.toNat then
        (s.setSem core n { v with
          count := v.count - BitVec.ofNat 16 k, innerTakes := v.innerTakes + k }).retire core ctx
      else s.mapCtx core ctx fun v => { v with status := .waiting, wait := .sem n k s.now })

def execSemTry (core : Core) (ctx : Ctx) (s : State) : Host.Outcome State Fault Refusal :=
  act s (·.issue core ctx 0x53 (semEnc [(107, 105), (95, 88), (79, 64)] true) (fun _ _ => none)
    fun s w =>
      let n := fld w 95 88
      let k := fld w 79 64
      let v := s.sem core n
      if v.broken then s.brokenWait core ctx
      else if k ≤ v.count.toNat then
        (s.setSem core n { v with
          count := v.count - BitVec.ofNat 16 k, innerTakes := v.innerTakes + k }).retireP core ctx (fld w 107 105) true
      else s.retireP core ctx (fld w 107 105) false)

/-- SEM_LEASE_LAPSE (R200): a context has waited for LEASE without a post. -/
def execSemLeaseLapse (core : Core) (sem : Sem) (s : State) : Host.Outcome State Fault Refusal :=
  act s fun s =>
    let v := s.sem core sem
    let since := (List.range 8).filterMap fun x => match (s.ctx core x).wait with
      | .sem m _ t => if m = sem.val then some t else none
      | _ => none
    if v.lease = 0 ∨ v.broken then s
    else match since with
      | [] => s
      | t :: ts =>
        let s := s.reach (ts.foldl min t + 1000 * v.lease.toNat)
        (s.log 0x4035 (domCore core)).breakSem core sem

/-! ### Waits and time (R201, R203) -/

/-- The first arithmetic clock edge at or after hall time `t` ns, in 1/64 ns, rounded up (R54, R55). -/
def State.edge64 (s : State) (t : Nat) : Nat :=
  let f := s.job.clockMhz
  let k := (t * f + 999) / 1000
  (64000 * k + f - 1) / f

/-- A parked context is released at the first edge at or after its target; a core that has woken since, at the first
edge after its wake (R203). A release after the first edge counts as late, but not in a re-run. -/
def State.releaseWaitT (s : State) (c x target : Nat) : State :=
  let edge := s.edge64 (target + s.lag)
  let wake := (s.core c).wakeAt
  let wake := if wake = 0 then 0 else s.edge64 (wake + 50)
  let s := if s.hold.held then s else s.reach64 (max edge wake)
  if target ≤ s.sched then
    ((s.on (decide (edge < s.hall) && !(s.core c).rerun) (·.count64 0x4034 c)).retire c x).noteActive c
  else s

/-- WAIT.T parks the context; a target that has passed releases it at once (R423). -/
def execWaitT (core : Core) (ctx : Ctx) (s : State) : Host.Outcome State Fault Refusal :=
  act s (·.issue core ctx 0x54 (fun w => failIf (unassigned w [(111, 108), (47, 0)]) 1) (fun _ _ => none)
    fun s w =>
      let t := unsext 64 (s.sreg core ctx (fld w 111 108) + sext 48 (fld w 47 0))
      if t ≤ s.sched then s.releaseWaitT core ctx t
      else (s.mapCtx core ctx fun v => { v with status := .parkedT, wait := .waitT t }).noteActive core)

/-- WAIT_T_RELEASE: the target is reached; a core in bivouac wakes first (R203). -/
def execWaitTRelease (core : Core) (ctx : Ctx) (s : State) : Host.Outcome State Fault Refusal :=
  act s fun s =>
    match (s.ctx core ctx).wait with
    | .waitT t =>
      let edge := s.edge64 (t + s.lag)
      if s.coreDown core || (s.frozenAt (edge / 64) && !(s.core core).rerun) then s
      else if s.coreAwake core then s.releaseWaitT core ctx t
      else (s.reach64 edge).wakeCore core
    | _ => s

def execWaitQ (core : Core) (ctx : Ctx) (s : State) : Host.Outcome State Fault Refusal :=
  act s (·.issue core ctx 0x55 (fun w => failIf (unassigned w [(87, 83)]) 1) (fun _ _ => none)
    fun s w =>
      let m := fld w 87 83
      if s.ownItems core ctx m then
        s.mapCtx core ctx fun v => { v with status := .waiting, wait := .waitQ m }
      else s.retire core ctx)

/-- TIME.RD: schedule time or hall time in whole ns. -/
def execTimeRd (core : Core) (ctx : Ctx) (s : State) : Host.Outcome State Fault Refusal :=
  act s (·.issue core ctx 0x57 (fun w => failIf (unassigned w [(111, 108), (104, 104)]) 1) (fun _ _ => none)
    fun s w => s.retireS core ctx (fld w 111 108)
      (BitVec.ofNat 64 (if bitAt w 104 then s.now else s.sched)))

/-! ### Fences (R204-R206) -/

/-- Open groups are marked as if flushed while a fence forms. -/
def State.flushGroups (s : State) (c : Nat) : State :=
  s.mapCore c fun k => { k with groups := k.groups.map fun g => (g.1, g.2.map fun g => { g with flush := true }) }

/-- FENCE: the context enters AT_FENCE, its program counter at the next instruction. -/
def execFence (core : Core) (ctx : Ctx) (s : State) : Host.Outcome State Fault Refusal :=
  act s (·.issue core ctx 0x56 (fun w => failIf (unassigned w []) 1) (fun _ _ => none)
    fun s _ => ((s.retire core ctx).mapCtx core ctx fun v => { v with status := .atFence }).flushGroups core)

/-- Every context that takes part is at the fence, and every queue is empty. -/
def State.fenceReady (s : State) (c : Nat) : Bool :=
  (List.range 8).any (fun x => (s.ctx c x).status == .atFence) &&
  (List.range 8).all (fun x => !([CtxStatus.ready, .waiting, .parkedT].contains (s.ctx c x).status)) &&
  s.queuesEmpty c && !(s.core c).rerun

/-- A context as the fence records it. -/
def CtxSt.record (v : CtxSt) : ReplayCtx :=
  ⟨if v.status = .atFence then .ready else v.status, v.stream, v.pc, v.regs, v.preds, v.loops, v.stageKey⟩

/-- A context as a fence that forms leaves it: its counts start at 0, and if it is at the fence it is READY. -/
def CtxSt.fenced (v : CtxSt) (now : Nat) : CtxSt :=
  let v := { v with posts := 0, movs0 := 0, movs1 := 0, done0 := 0, done1 := 0, skipPosts := 0, skipMovs := 0 }
  if v.status = .atFence then { v with status := .ready, pace := now } else v

/-- FENCE_FORM: the replay record is taken, its counts start at 0, and the contexts return to READY. -/
def execFenceForm (core : Core) (s : State) : Host.Outcome State Fault Refusal :=
  act s fun s =>
    if !s.fenceReady core then s
    else
      let record := (List.range 8).map fun x => (s.ctx core x).record
      let s := s.each (List.range 64) fun s n =>
        s.setSem core n { s.sem core n with innerPosts := 0, innerTakes := 0 }
      let s := s.each (List.range 8) fun s x => s.mapCtx core x (·.fenced s.now)
      let s := s.mapCore core fun k =>
        { k with replay := record, fenceAt := some s.sched, parkedAt := none, overrun := false }
      { s with faults := { s.faults with recovered := s.faults.recovered.erase core.val } }

/-- FENCE_SPAN_EXCEEDED (R206 rule 4): counted and logged, and the core keeps running. The interval stands still while
every context is PARKED_T or IDLE, and in a hall hold. -/
def execFenceSpanExceeded (core : Core) (s : State) : Host.Outcome State Fault Refusal :=
  act s fun s =>
    let k := s.core core
    match k.fenceAt with
    | none => s
    | some t =>
      if k.overrun || k.parkedAt.isSome || s.hold.held then s
      else
        let s := s.reach (t + s.obj 0x4030 1 + s.lag)
        ((s.setCore core { k with overrun := true }).count 0x4033 core).log 0x4032 (domCore core)

/-! ### Tally instructions (R209) -/

/-- TAL.RD: the context waits for every delta sent before (R301). -/
def execTalRd (core : Core) (ctx : Ctx) (s : State) : Host.Outcome State Fault Refusal :=
  act s (·.issue core ctx 0x70 (fun w => failIf (unassigned w [(111, 104), (95, 80)]) 1)
    (fun s w =>
      let a := s.sreg core ctx (fld w 107 104)
      failIf (decide (a % 64 ≠ 0) || decide (storeSize 3 < a + 256)) 5)
    fun s w =>
      let tag := (s.sreg core ctx (fld w 111 108) + fld w 95 80) % 65536
      s.mapCtx core ctx fun v =>
        { v with status := .waiting, wait := .tally tag (s.sreg core ctx (fld w 107 104)) s.deltas.length })

/-- TAL.NF: the non-finite count and whether it is nonzero (R306). -/
def execTalNf (core : Core) (ctx : Ctx) (s : State) : Host.Outcome State Fault Refusal :=
  act s (·.issue core ctx 0x71 (fun w => failIf (unassigned w [(103, 97)]) 1) (fun _ _ => none)
    fun s w =>
      let n := s.obj 0x8010 4
      (s.mapCtx core ctx (·.setP (fld w 99 97) (n != 0))).retireS core ctx (fld w 103 100) (BitVec.ofNat 64 n))

/-! ### Commands of the die controller (R212, R213) -/

/-- The context may be started. -/
def CtxSt.startable (v : CtxSt) : Bool := [CtxStatus.idle, .stopped, .faulted].contains v.status

/-- START: the registers, MODE, PC and STAGE_KEY are set; no fence formed before counts (R426). -/
def State.startCtx (s : State) (c x : Nat) (stream : Bool) (key : BitVec 8) (pc : BitVec 44)
    (regs : List (BitVec 64)) (preds : BitVec 7) : State :=
  let s := s.mapCtx c x fun v =>
    { CtxSt.reset with
      regs := Vector.ofFn fun i => if i.val = 0 then 0 else regs.getD (i.val - 1) 0
      preds := preds ++ 0#1
      pc := pc, stream := stream, stageKey := key, status := .ready, cause := v.cause, pace := s.now }
  let s := { s with host := { s.host with started := s.host.started.filter (· != ctxKey c x) } }
  s.mapCore c fun k => { k with replay := [], fenceAt := none, parkedAt := none, overrun := false }

def execDcStart (core : Core) (ctx : Ctx) (stream : Bool) (key : BitVec 8) (pc : BitVec 44)
    (regs : List (BitVec 64)) (preds : BitVec 7) (s : State) : Host.Outcome State Fault Refusal :=
  act s fun s =>
    let s := s.wakeCore core
    if (s.ctx core ctx).startable then s.startCtx core ctx stream key pc regs preds else s.emit (.dcRefused .notStartable)

/-- STOP: the context ends at its instruction boundary, and its queued items go on (R213). -/
def State.stopCtx (s : State) (c x : Nat) : State := (s.mapCtx c x CtxSt.stop).noteActive c

def execDcStop (core : Core) (ctx : Ctx) (s : State) : Host.Outcome State Fault Refusal :=
  act s fun s => (s.countStalls.wakeCore core).stopCtx core ctx

/-- READ: the status word, S1-S15, P1-P7 and the loop stack. -/
def execContextRead (core : Core) (ctx : Ctx) (s : State) : Host.Outcome State Fault Refusal :=
  act s fun s =>
    let s := s.wakeCore core
    let v := s.ctx core ctx
    s.emit (.context v.word ((List.range 15).map fun i => v.s (i + 1)) v.preds v.loops)

/-- A resident-mode context is running (R213). -/
def State.residentBusy (s : State) (c : Nat) : Bool :=
  (List.range 8).any fun x =>
    let v := s.ctx c x
    !v.stream && [CtxStatus.ready, .waiting, .parkedT, .atFence].contains v.status

/-- Instructions copied from device memory to resident slots. -/
def State.loadImem (s : State) (c first count src : Nat) : State :=
  { s with imem := (List.range count).foldl (fun t i =>
      Tbl.set 0 t (4096 * c + first + i) (BitVec.ofNat 128 (s.readNat (src + 16 * i) 16))) s.imem }

/-- The slots and the source of an instruction load exist (R186, R25). -/
def imemRange (s : State) (first count src : Nat) : Bool :=
  decide (1 ≤ count) && decide (count ≤ 4096) && decide (first + count ≤ 4096) && s.visible src (16 * count) &&
  !s.poisoned src (16 * count)

def execSeqImemLoad (core : Core) (first count : BitVec 13) (src : BitVec 41) (s : State) :
    Host.Outcome State Fault Refusal :=
  act s fun s =>
    let s := s.wakeCore core
    if s.residentBusy core then s.emit (.dcRefused .residentRuns)
    else if !imemRange s first.toNat count.toNat src.toNat then s.emit (.dcRefused .badRange)
    else s.loadImem core first.toNat count.toNat src.toNat

def execSemSet (core : Core) (sem : Sem) (count producer lease : BitVec 16) (s : State) :
    Host.Outcome State Fault Refusal :=
  act s fun s => (s.wakeCore core).semInit core sem count.toNat producer.toNat lease.toNat

end Sys2Proof.Machine
end

