-- ==== Sys2Proof/Machine/Camps.lean ====
section
/-!
DEFINITION. Values of objects: ranges, base camp and camps, the resource table, and the camp switch (R392,
R404-R413, R497).
-/

namespace Sys2Proof.Machine

/-! ### Ranges (R6, R392) -/

/-- Codes that an object's table reserves within its range. -/
def reservedValue (k v : Nat) : Bool :=
  if k = okey 0xB000 3 then decide (0x10 ≤ v) && decide (v ≤ 0xFD)
  else if k = okey 0xB000 7 then decide (0x10 ≤ v) && v != 0xFE
  else if k = okey 0x2010 9 then decide (2 ≤ v) && v != 0xFF
  else if k / 256 = 0x6001 then fld v 15 9 != 0
  else if k = okey 0x8010 2 then !([1, 2, 4, 8].contains v)
  else if k = okey 0x8012 0xA then !(decide (v % 64 = 0) && decide (v < 0x80000)) && v != 0xFFFFFFFF
  else false

/-- A binary32 value that is finite and not subnormal; zero of either sign counts as zero. -/
def f32Ok (v : Nat) : Bool :=
  let e := fld v 30 23
  e != 255 && (e != 0 || fld v 22 0 == 0)

/-- The value of a scalar lies in its object's range. -/
def inRange (r : ObjRow) (k v : Nat) : Bool :=
  let x : Int :=
    if r.ty.signed then sext (8 * r.size) v
    else if r.ty = .f32 ∧ v = 0x80000000 then 0 else v
  decide (v < 2 ^ (8 * r.size)) && (r.ty != .f32 || f32Ok v) && decide (r.min ≤ x) && decide (x ≤ r.max) &&
  decide (v % r.mult = 0) && !reservedValue k v

/-- Two objects of which the range of one names the other: the lower, what lies between them at least, the
upper (R318, R389). -/
def bounds : List (Nat × Nat × Nat) :=
  [(okey 0x3001 1, 1000, okey 0x3001 3), (okey 0x3002 1, 0, okey 0x3002 2),
   (okey 0x8012 2, 0, okey 0x8012 3), (okey 0x8012 6, 0, okey 0x8012 3)]

/-- A write of `x` to `k` keeps every range that names `k` or that `k` names another object for. -/
def boundsKept (f : Nat → Nat) (k x : Nat) : Bool :=
  let v := fun j => if j = k then x else f j
  bounds.all fun b => (k != b.1 && k != b.2.2) || decide (v b.1 + b.2.1 ≤ v b.2.2)

/-- The value of a record lies within what its chapter gives for it: STATIC_ADDR and MCAST_GROUP (R414), DRAW_TARGET
(R379), PEER_n (R322), LR_TABLE (R284). -/
def recInRange (k : Nat) (bs : List Byte) : Bool :=
  let zero := bs.all (· == 0)
  if k = okey 0x1002 5 then zero || (decide (1 ≤ leAt bs 16 1) && decide (leAt bs 16 1 ≤ 128))
  else if k = okey 0x1002 6 then zero || leAt bs 0 1 == 0xFF
  else if k = okey 0x3003 3 then decide (leAt bs 0 2 ≤ 2880)
  else if k / 256 = 0x7001 then zero || (decide (1 ≤ leAt bs 50 1) && decide (leAt bs 50 1 ≤ 32))
  else if k = okey 0x8002 6 then
    decide (leAt bs 0 4 ≤ 64) && (List.range (min 64 (leAt bs 0 4))).all fun i => f32Ok (leAt bs (8 + 8 * i) 4)
  else true

/-! ### The base camp and the camp slots (R404, R406, R407) -/

def storedKey (k : Nat) : Bool := match objRow k with | some r => r.stored | none => false

/-- The base value of an object. -/
def State.baseValue (s : State) (k : Nat) : Nat := (Tbl.get none s.dict.base k).getD (objDefault k)

/-- The value in force of an object. -/
def State.inForce (s : State) (k : Nat) : Nat := s.obj (k / 256) (k % 256)

/-- Values with some keys replaced. -/
def overlaid (es : List (Nat × Nat)) (f : Nat → Nat) (k : Nat) : Nat :=
  match es.find? (·.1 == k) with
  | some e => e.2
  | none => f k

def campHeader (image : List Byte) : Nat := leAt image 0 64
def campCount (w : Nat) : Nat := fld w 499 490
def campEntryAt (image : List Byte) (i : Nat) : Nat := leAt image (64 + 16 * i) 16
def entryKey (e : Nat) : Nat := fld e 127 104

/-- The entries of an image: object and value. -/
def campEntries (image : List Byte) : List (Nat × Nat) :=
  (List.range (campCount (campHeader image))).map fun i =>
    let e := campEntryAt image i
    (entryKey e, fld e 63 0)

/-- A slot's image; none for slot 0xFE and for an invalid slot. -/
def State.campImage (s : State) (slot : Nat) : List Byte := if slot < 16 then Tbl.get [] s.dict.camps slot else []

/-- The slot may be switched to: it is valid, or the base camp. -/
def State.slotValid (s : State) (slot : Nat) : Bool := slot == 0xFE || !(s.campImage slot).isEmpty

/-- Kind and entries of a slot. -/
def State.slotKind (s : State) (slot : Nat) : Nat := fld (campHeader (s.campImage slot)) 507 500
def State.slotEntries (s : State) (slot : Nat) : List (Nat × Nat) :=
  if slot = 0xFE then [] else campEntries (s.campImage slot)

/-! ### The resource table (R412, R413) -/

/-- The resource held against its owner entry: owner entry and feature, for TIME_OUT, the rope store, link `l`, and
the core partitions. -/
def timeOutConflict (v : Nat → Nat) : Option (Nat × Nat) :=
  let mode := v (okey 0x2006 1)
  let own := v (okey 0xB020 1)
  if (mode = 0 ∧ own ≠ 1) ∨ (mode = 1 ∧ own ≠ 2) then some (okey 0xB020 1, okey 0x2006 1) else none

def ropeStoreConflict (v : Nat → Nat) : Option (Nat × Nat) :=
  if v (okey 0x7000 2) ≠ 0 ∧ v (okey 0xB020 4) ≠ 1 then some (okey 0xB020 4, okey 0x7000 2) else none

def linkConflict (v : Nat → Nat) (l : Nat) : Option (Nat × Nat) :=
  if mapUsed (v (okey 0x6001 l)) && v (okey 0xB021 l) != 1 then some (okey 0xB021 l, okey 0x6001 l) else none

def partitionConflict (v : Nat → Nat) (kind : Nat) : Option (Nat × Nat) :=
  let teachers := (List.range 192).filter fun c => v (okey 0xB022 c) == 1
  if (kind ≠ 2 ∧ teachers ≠ []) ∨ (kind = 2 ∧ (teachers = [] ∨ teachers.length = 192)) then
    some (okey 0xB022 (teachers.headD 0), okey 0xB000 2)
  else none

/-- A hold-scheduling share below the comparators that are armed. -/
def State.shareConflict (s : State) (v : Nat → Nat) : Option (Nat × Nat) :=
  if v (okey 0xB020 2) < s.holdComparators then some (okey 0xB020 2, okey 0xB020 2) else none

/-- The first resource that the values put in conflict under a kind. -/
def State.conflict (s : State) (v : Nat → Nat) (kind : Nat) : Option (Nat × Nat) :=
  (timeOutConflict v).orElse fun _ => (ropeStoreConflict v).orElse fun _ =>
    (partitionConflict v kind).orElse fun _ => (s.shareConflict v).orElse fun _ =>
      (List.range 64).findSome? (linkConflict v)

/-- The conflict that one write brings: the new value of `k` enables a feature whose resource another holds, or
takes a resource from a feature that is enabled. -/
def State.writeConflict (s : State) (k v : Nat) : Option (Nat × Nat) :=
  let f := overlaid [(k, v)] s.inForce
  let idx := k / 256
  let sub := k % 256
  if idx = 0x2006 ∨ k = okey 0xB020 1 then timeOutConflict f
  else if k = okey 0x7000 2 ∨ k = okey 0xB020 4 then ropeStoreConflict f
  else if k = okey 0xB020 2 then s.shareConflict f
  else if idx = 0x6001 then linkConflict f sub
  else if idx = 0xB021 then
    (linkConflict f sub).orElse fun _ =>
      if s.inForce k = 2 ∧ v ≠ 2 ∧ s.obj 0x7000 2 ≠ 0 then some (k, okey 0x7000 2) else none
  else if idx = 0xB022 then partitionConflict f s.kind
  else none

/-- The rules between objects that their chapters state (R93, R284, R318, R320, R389); `n` is the number of
points of LR_TABLE. -/
def crossRules (v : Nat → Nat) (n : Nat) : Bool :=
  let mask := v (okey 0x7000 2)
  (bounds.take 3).all (fun b => decide (v b.1 + b.2.1 ≤ v b.2.2)) &&
  linkMapOk (v (okey 0x6000 1)) (fun l => v (okey 0x6001 l)) &&
  (mask == 0 || bitAt mask (v (okey 0x7000 1))) &&
  (v (okey 0x8002 1) != 3 || (v (okey 0x8002 4) == 0 && decide (2 ≤ n) && decide (n ≤ 64)))

/-- An ownership conflict is refused: event 0xB005 with the resource and the requesting object. -/
def State.logConflict (s : State) (c : Nat × Nat) : State := s.log 0xB005 (domMp 0) [(24, c.1), (24, c.2)]

/-! ### Camp images (R407, R408) -/

/-- The size of a type code's value; 0: not one of a camp entry. -/
def typeSize (c : Nat) : Nat := [0, 1, 1, 2, 4, 8, 2, 4, 8, 4, 8].getD c 0

/-- The format of an image: version, kind, reserved fields, check, no value beyond its type's size. -/
def campFormat (image : List Byte) : Bool :=
  let w := campHeader image
  let es := (List.range (campCount w)).map (campEntryAt image)
  decide (fld w 511 508 = 2) && decide (1 ≤ fld w 507 500) && decide (fld w 507 500 ≤ 6) &&
  decide (fld w 457 0 = 0) && decide (crc32c (leBytes 64 (setFld w 489 458 0) ++ image.drop 64) = fld w 489 458) &&
  es.all fun e => decide (fld e 99 64 = 0) &&
    (typeSize (fld e 103 100) == 0 || decide (fld e 63 0 < 2 ^ (8 * typeSize (fld e 103 100))))

/-- Entries in strictly ascending order. -/
def campOrder : List Nat → Bool
  | a :: b :: es => decide (entryKey a < entryKey b) && campOrder (b :: es)
  | _ => true

/-- What one entry breaks: abort and rule of R408, counted from 1. -/
def campEntryFault (e : Nat) : Option (Nat × Nat) :=
  let k := entryKey e
  match objRow k with
  | none => some (1, 3)
  | some r =>
    if !r.stored || (decide (okey 0xB000 0 ≤ k) && decide (k ≤ okey 0xB011 0xFF)) then some (2, 3)
    else if !r.ty.scalar then some (4, 3)
    else if fld e 103 100 ≠ r.ty.code then some (4, 4)
    else if !inRange r k (fld e 63 0) then some (3, 4)
    else none

/-- The checks of R408 on a whole image: the abort and the rule that refuse it. -/
def State.campCheck (s : State) (image : List Byte) : Option (Nat × Nat) :=
  let w := campHeader image
  let es := (List.range (campCount w)).map (campEntryAt image)
  let v := overlaid (campEntries image) s.baseValue
  if !campFormat image then some (8, 1)
  else if !campOrder es then some (8, 2)
  else match es.findSome? campEntryFault with
    | some f => some f
    | none =>
      let points := leAt (Tbl.get [] s.dict.baseRecs (okey 0x8002 6)) 0 4
      if (s.conflict v (fld w 507 500)).isSome || !crossRules v points then some (6, 6) else none

/-! ### What a changed value does at once -/

/-- A link's role changes: it leaves the role it had, and trains anew in the new one (R28, R94). -/
def State.changeRole (s : State) (l : Nat) : State :=
  if (s.link l).permanent then s
  else (s.setObj 0x6002 l (if s.role l = 0 then 7 else 0)).reroute l

/-- The streams, stagings and reports of a session end with it (R397, R441, R464, R466, R497). -/
def State.closeSession (s : State) (n : Nat) : State :=
  let s := s.setDict fun d => { d with
    sessions := d.sessions.filter (·.number != n)
    staging := d.staging.filter (·.session != n) }
  let s := { s with faults := { s.faults with
    streams := s.faults.streams.filter fun e => match e.2 with | some m => m.session != n | none => true } }
  { s with boot := { s.boot with
    owner := if s.boot.owner = some n then none else s.boot.owner
    reports := Tbl.set [] s.boot.reports n [] } }

/-- The operator keys in force (R467). -/
def State.operatorKeys (s : State) : List (List Byte) :=
  (List.range (s.obj 0xA003 0)).map fun i => fit 48 (s.recOf 0xA003 (i + 1))

/-- The operator key list has changed: event 0xA006, and management-port write sessions whose key is no longer
listed close. -/
def State.operatorsChanged (s : State) : State :=
  let s := s.log 0xA006 (domMp 0)
  let keys := s.operatorKeys
  s.each ((s.dict.sessions.filter fun v => v.transport == 1 && v.write && !keys.contains v.operator).map (·.number))
    State.closeSession

/-- An object has taken another value: what the chapter of the object does at once. -/
def State.valueChanged (s : State) (k : Nat) : State :=
  if k = okey 0x8012 2 then (s.setObj 0x8012 6 (s.obj 0x8012 2)).setObj 0x8012 7 0
  else if k = okey 0x2002 1 then s.sourceChanged
  else if k / 256 = 0xB021 then s.changeRole (k % 256)
  else if k / 256 = 0xA003 then s.operatorsChanged
  else s

/-- A scalar takes a value. A write of LS_INIT acts whatever the value was (R309). -/
def State.assign (s : State) (k v : Nat) : State :=
  let same := s.inForce k == v
  let t := s.setObj (k / 256) (k % 256) v
  if same && k != okey 0x8012 2 then t else t.valueChanged k

/-! ### Loading values at boot (R405) -/

/-- Stored objects take the boot camp's entry or their base value; volatile ones keep theirs. -/
def State.loadValues (s : State) (slot : Nat) : State :=
  let es := s.slotEntries slot
  let s := s.setDict fun d => { d with
    objs := d.base.foldl (fun t e => Tbl.set none t e.1 e.2) (d.objs.filter fun e => !storedKey e.1)
    recs := d.baseRecs.foldl (fun t e => Tbl.set [] t e.1 e.2) (d.recs.filter fun e => !storedKey e.1)
    overlay := es }
  let s := s.each es fun s e => s.setObj (e.1 / 256) (e.1 % 256) e.2
  (s.setObj 0xB000 1 slot).setObj 0xB000 2 (s.slotKind slot)

/-- The boot camp: an invalid boot slot is replaced by the base camp, with event 0xB006 (R408). -/
def State.loadCamp (s : State) : State :=
  let slot := s.baseValue (okey 0xB000 7)
  if s.slotValid slot then s.loadValues slot else (s.loadValues 0xFE).log 0xB006 (domMp 0)

/-! ### The root list (R38) -/

/-- Some module of the list's first `j` is LOCKED: the symbols of a neighbour say so, and of any other module this one
cannot know, so it is free. -/
def State.lowerLocked (s : State) (list : List Nat) (j : Nat) : Bool × State :=
  let heard := s.fabricLinks.any fun l =>
    s.linkUp l && (s.linkTime l).heard && (s.linkTime l).state == 3 && (list.take j).contains (s.obj 0x6003 l / 64)
  if j = 0 then (false, s)
  else
    let (n, s) := s.draw
    (heard || n.testBit 0, s)

/-- The list in the dictionary takes effect: the active root stays active under its new index; one that is no longer
listed gives way to the lowest-index listed module that is LOCKED. R38 names no event for this; the model logs 0x2006 at
the new root and 0x2007 at the old one (assumption 105). -/
def State.latchRoots (s : State) : State :=
  let old := s.time.roots
  let new := s.rootList
  if old = new then s
  else
    let s := s.setTime fun t => { t with roots := new }
    if s.time.isRoot then
      match s.ownIndex with
      | some i => s.setTime fun t => { t with rootIndex := some i }
      | none => s.demote
    else
      match (s.time.rootIndex.bind (old[·]?)).bind fun m => new.findIdx? (· == m) with
      | some i => s.setTime fun t => { t with rootIndex := some i }
      | none =>
        match s.ownIndex, s.time.state with
        | some j, .locked =>
          let (lower, s) := s.lowerLocked new j
          if lower then s else (s.becomeRoot j).log 0x2006
        | _, _ => s

/-! ### Camp switches (R409-R411) -/

def State.campArmed (s : State) : Bool := s.obj 0xB000 3 != 0xFF

/-- The objects that a switch into `slot` sets, with the values they take: those named in the active camp or in the
new one (R405). -/
def State.switchValues (s : State) (slot : Nat) : List (Nat × Nat) :=
  let es := s.slotEntries slot
  let back := (s.dict.overlay.filter fun e => !(es.any (·.1 == e.1))).map fun e => (e.1, s.baseValue e.1)
  es ++ back

/-- The object's chapter allows a write while a job is loaded. -/
def liveKey (k : Nat) : Bool := match objRow k with | some r => !r.jobRefused | none => true

/-- A switch into `slot` that a loaded job forbids: the object that is not live, 0 for the kind. -/
def State.switchForbids (s : State) (slot : Nat) : Option Nat :=
  match (s.switchValues slot).find? fun e => s.inForce e.1 != e.2 && !liveKey e.1 with
  | some e => some e.1
  | none => if s.slotKind slot = s.kind then none else some 0

/-- A refusal of R409 is recorded in SWITCH_STATUS (R495). -/
def State.switchRefused (s : State) (abort slot row k : Nat) : Nat × State :=
  (abort, s.setRec 0xB000 5 ([abort, slot, row, 0].map (BitVec.ofNat 8) ++ leBytes 4 k ++ leBytes 8 s.now))

/-- SWITCH_SLOT is written with a slot: the abort, 0 when the switch is armed. -/
def State.armCamp (s : State) (slot : Nat) : Nat × State :=
  let tick := s.obj 0xB000 4
  let lead := 1000 * s.obj 0xB000 6
  let lead := if s.kind = 6 then max lead 2500000 else lead
  let kind := s.slotKind slot
  let v := overlaid (s.switchValues slot) s.inForce
  if s.campArmed then s.switchRefused 9 slot 1 0
  else if !s.timeOk then s.switchRefused 9 slot 2 0
  else if tick % 20 ≠ 0 ∨ tick < s.now + lead then s.switchRefused 3 slot 3 (okey 0xB000 4)
  else if !s.slotValid slot then s.switchRefused 9 slot 4 0
  else if s.obj 0x9003 1 = 1 ∧ kind ≠ 5 ∧ kind ≠ 6 then s.switchRefused 9 slot 0 0
  else match s.conflict v kind with
    | some c => (s.logConflict c).switchRefused 6 slot 5 c.2
    | none =>
      if !crossRules v (leAt (s.recOf 0x8002 6) 0 4) then s.switchRefused 6 slot 5 0
      else match s.job.loaded, s.switchForbids slot with
        | true, some k => s.switchRefused 5 slot 6 k
        | _, _ =>
          if !s.comparatorFree then s.switchRefused 6 slot 7 (okey 0xB020 2)
          else if kind = 6 ∧ (s.tt.active.isSome ∨ s.memctl.migrating ≠ []) then s.switchRefused 9 slot 8 0
          else (0, ((s.setObj 0xB000 3 slot).setRec 0xB000 5 []).log 0xB001 (domMp 0))

/-- The armed switch is disarmed: event 0xB003. -/
def State.disarmCamp (s : State) : State :=
  s.on s.campArmed fun s => (s.setObj 0xB000 3 0xFF).log 0xB003 (domMp 0)

/-- Core state as a module warm reset leaves it: stores, maps, contexts, semaphores, queues, accumulators (R21,
R373, R418). -/
def State.clearCores (s : State) : State :=
  { s with
    stores := []
    maps := []
    imem := []
    accs := []
    cores := []
    ctxs := []
    sems := []
    movers := []
    posts := []
    dies := []
    invals := [] }

/-- The module enters or leaves module bivouac (R373). -/
def State.bivouac (s : State) (old new : Nat) : State :=
  if old ≠ 6 ∧ new = 6 then s.log 0x300F 0 s.powerItems
  else if old = 6 ∧ new ≠ 6 then
    (s.clearCores.setSupply fun p => { p with bivouacWaking := false }).log 0x3010 0 s.powerItems
  else s

/-- The armed switch takes effect: values, slot and kind in one step. -/
def State.switchCamp (s : State) : State :=
  let slot := s.obj 0xB000 3
  let oldSlot := s.obj 0xB000 1
  let oldKind := s.kind
  let kind := s.slotKind slot
  let vs := s.switchValues slot
  let es := s.slotEntries slot
  let s := s.each vs fun s e => if s.inForce e.1 = e.2 then s else s.assign e.1 e.2
  let s := s.setDict fun d => { d with overlay := es }
  let s := ((s.setObj 0xB000 1 slot).setObj 0xB000 2 kind).setObj 0xB000 3 0xFF
  let s := (s.count 0xB000 8).log 0xB002 (domMp 0) [(8, oldSlot), (8, slot)]
  (s.bivouac oldKind kind).latchRoots

/-- CAMP_SWITCH: at the first cycle edge at or after the tick, a hall hold notwithstanding (R410, R411). -/
def execCampSwitch (s : State) : Host.Outcome State Fault Refusal :=
  act s fun s =>
    if s.campArmed then (s.reach64 (s.edge64 (s.obj 0xB000 4))).switchCamp else s

/-- BIVOUAC_WAKE_START: 2 ms before the tick of a switch away from module bivouac (R373). -/
def execBivouacWakeStart (s : State) : Host.Outcome State Fault Refusal :=
  act s fun s =>
    if s.campArmed && s.kind == 6 && s.slotKind (s.obj 0xB000 3) != 6 then
      (s.reach (s.obj 0xB000 4 - 2000000)).setSupply fun p => { p with bivouacWaking := true }
    else s

/-! ### Writing a camp image (R497) -/

/-- A complete image: refused with its abort, or installed. -/
def State.installCamp (s : State) (slot : Nat) (image : List Byte) : Nat × State :=
  let s := s.setDict fun d => { d with staging := d.staging.filter (·.slot != slot) }
  match s.campCheck image with
  | some (a, rule) => (a, s.log 0xB004 (domMp 0) [(8, rule)])
  | none => (0, s.setDict fun d => { d with camps := Tbl.set [] d.camps slot image })

/-- A piece of CAMP_n: the abort, 0 when it is taken. -/
def State.campPiece (s : State) (session slot off : Nat) (data : List Byte) : Nat × State :=
  let cur := s.dict.staging.find? (·.slot == slot)
  let old := match cur with | some c => c.bytes | none => []
  if cur.any (·.session != session) then (6, s)
  else if off ≠ 0 ∧ (cur.isNone ∨ off ≠ old.length) then (9, s)
  else
    let bytes := (if off = 0 then [] else old) ++ data
    let rest := s.dict.staging.filter (·.slot != slot)
    let count := campCount (campHeader bytes)
    let len := 64 + 16 * count
    if 64 ≤ bytes.length ∧ 512 < count then (8, s.setDict fun d => { d with staging := rest })
    else if 64 ≤ bytes.length ∧ len < bytes.length then (0xB, s)
    else if 64 ≤ bytes.length ∧ bytes.length = len then s.installCamp slot bytes
    else (0, s.setDict fun d => { d with staging := rest ++ [⟨slot, session, bytes⟩] })

end Sys2Proof.Machine
end

