-- ==== Sys2Proof/Machine/Security.lean ====
section
/-!
DEFINITION. Images, measurements, attestation and field update (R460-R467).
-/

namespace Sys2Proof.Machine

/-! ### Images (R460, R461) -/

def allZero (bs : List Byte) : Bool := bs.all (· == 0)

/-- Bytes `off` to `off + n - 1`. -/
def piece (bs : List Byte) (off n : Nat) : List Byte := (bs.drop off).take n

/-- Bytes that an image takes: header and body, padded to 4 KiB. -/
def imageLength (bs : List Byte) : Nat := 8192 + roundUp (leAt bs 12 4) 4096

/-- The images of a slot, one for a first stage, three in a row for a bundle. -/
def splitImages : Nat → List Byte → List (List Byte)
  | 0, _ => []
  | n + 1, bs => bs.take (imageLength bs) :: splitImages n (bs.drop (imageLength bs))

/-- The kinds a slot holds: first stage, or the three of a bundle. -/
def slotKinds (bundle : Bool) : List Nat := if bundle then [2, 3, 4] else [1]

/-- Size of a slot in flash (R459). -/
def slotSize (bundle : Bool) : Nat := if bundle then 0x1000000 else 0x100000

/-- The first rule of R461, counted from 1, that an image of a kind fails. -/
def State.imageFault (s : State) (kind room : Nat) (bs : List Byte) : Option Nat :=
  let key := piece bs 64 1952
  let zero := allZero (piece bs 2 2) && allZero (piece bs 2016 32) && allZero (piece bs 5357 2835)
  if leAt bs 0 1 ≠ 2 ∨ !zero then some 1
  else if leAt bs 1 1 ≠ kind then some 2
  else if !Config.signerHashes.contains (Config.sha3 key) then some 3
  else if !Config.mldsaVerify key (bs.take 2048) (piece bs 2048 3309) then some 4
  else if leAt bs 4 4 < Tbl.get 0 s.boot.floors kind then some 5
  else if Config.sha3 (piece bs 8192 (leAt bs 12 4)) ≠ piece bs 16 48 then some 6
  else if room < imageLength bs then some 7
  else none

/-- The first failure among a slot's images: kind and rule. -/
def State.slotFault (s : State) (bundle : Bool) (bs : List Byte) : Option (Nat × Nat) :=
  let kinds := slotKinds bundle
  let total := (splitImages kinds.length bs).foldl (fun n i => n + imageLength i) 0
  let room := if slotSize bundle < total then 0 else slotSize bundle
  (kinds.zip (splitImages kinds.length bs)).findSome? fun x =>
    (s.imageFault x.1 room x.2).map fun rule => (x.1, rule)

/-- An image slot of the flash: 0, 1 first stage; 2, 3 bundle. -/
def State.flashImage (s : State) (slot : Nat) : List Byte :=
  let bs := Tbl.get [] s.boot.images slot
  if bs.isEmpty then Config.factoryImage slot else bs

/-- The measured part of an image's header. -/
def headerOf (bs : List Byte) : List Byte := bs.take 2048

/-! ### Measurements (R462) -/

def State.setBoot (s : State) (f : Boot → Boot) : State := { s with boot := f s.boot }

/-- Register `r` is set to zero, and its log entries are removed. -/
def State.clearMeasure (s : State) (r : Nat) : State :=
  s.setBoot fun b => { b with
    measures := b.measures.set r (List.replicate 48 0)
    log := b.log.filter fun e => leAt e 0 1 != r }

/-- Register `r` is extended with digest `d`, and the log takes an entry. -/
def State.extend (s : State) (r : Nat) (item : Byte) (d : List Byte) : State :=
  s.setBoot fun b => { b with
    measures := b.measures.set r (Config.sha3 (b.measures.getD r [] ++ d))
    log := (b.log ++ [[BitVec.ofNat 8 r, item] ++ List.replicate 14 0 ++ d]).take 64 }

/-- An image is measured with its KIND. -/
def State.extendImage (s : State) (r kind : Nat) (header : List Byte) : State :=
  s.extend r (BitVec.ofNat 8 kind) (Config.sha3 header)

/-! ### Attestation (R463, R464) -/

/-- The bundle slot that runs is on trial. -/
def State.trialRuns (s : State) : Bool := s.boot.trialBundle && s.boot.runBundle != s.boot.activeBundle

/-- The firmware version that runs. -/
def State.fwVersion (s : State) : Nat := leAt (s.boot.bundleHeaders.getD 0 []) 8 4

/-- A report for a nonce. -/
def State.report (s : State) (nonce : List Byte) : List Byte :=
  let slot := s.obj 0xB000 1
  let flags := s.obj 0x1000 8 + 2 * bit01 s.job.loaded + 4 * s.obj 0x9003 1 + 8 * bit01 (s.kind == 5) +
    16 * bit01 s.trialRuns
  let body :=
    leBytes 1 2 ++ leBytes 1 flags ++ leBytes 2 0x1F3C ++ leBytes 2 0xB200 ++ leBytes 2 s.moduleNumber ++
    fit 32 nonce ++ leBytes 8 s.now ++ leBytes 4 s.fwVersion ++ leBytes 4 (leAt s.boot.firstHeader 4 4) ++
    leBytes 4 (leAt (s.boot.bundleHeaders.getD 0 []) 4 4) ++ leBytes 4 s.boot.count ++ s.boot.measures.flatten ++
    Config.sha3 Config.identityKey ++
    (if slot = 0xFE then List.replicate 48 0 else Config.sha3 (s.campImage slot)) ++
    leBytes 1 slot ++ leBytes 1 s.kind ++ leBytes 2 0 ++ leBytes 4 s.boot.log.length ++
    leBytes 8 (if s.job.loaded then s.boot.jobId else 0) ++ fit 16 Config.serial
  let body := fit 1024 body
  body ++ Config.identitySign body

/-- A report is signed: event 0xA007. -/
def State.attest (s : State) (nonce : List Byte) : List Byte × State := (s.report nonce, s.log 0xA007 (domMp 0))

/-- DOE answers once boot stage 1 has ended (R457). -/
def State.configUp (s : State) : Bool := s.boot.good && decide (2 ≤ s.boot.stage)

/-- DOE_ATTEST: type 0x01, with the nonce as its body. -/
def execDoeAttest (nonce : BitVec 256) (s : State) : Host.Outcome State Fault Refusal :=
  act s fun s =>
    if !s.configUp then s
    else
      let (r, s) := s.attest (leBytes 32 nonce.toNat)
      s.emit (.doe r)

/-- DOE_MEASURE_LOG: type 0x02. -/
def execDoeMeasureLog (s : State) : Host.Outcome State Fault Refusal :=
  act s fun s => if s.configUp then s.emit (.doe s.boot.log.flatten) else s

/-- IDE_KM programs a key of the link stream or the selective stream (R445). -/
def execIdeKm (stream : Bool) (slot : Nat) (key : List Byte) (s : State) : Host.Outcome State Fault Refusal :=
  act s fun s =>
    if !s.configUp then s
    else s.setHost fun p => { p with ideKeys := Tbl.set [] p.ideKeys (256 * bit01 stream + slot % 256) key }

/-! ### Field update (R466) -/

/-- States of FW_STATUS: 0 idle, 1 writing, 2 done, 3 failed (assumption 40). -/
def State.setFw (s : State) (state kind rule : Nat) : State := s.setBoot fun b => { b with fwState := (state, kind, rule) }

/-- A piece of FW_STAGING: the abort, 0 when it is taken. -/
def State.stagePiece (s : State) (session off : Nat) (data : List Byte) : Nat × State :=
  if s.boot.install.isSome then (9, s)
  else if s.boot.owner.any (· != session) then (6, s)
  else (0, s.setBoot fun b => { b with
    owner := if off = 0 then some session else b.owner
    staging := Memory.write b.staging off data
    stagingEnd := max b.stagingEnd (off + data.length) })

/-- The staged image: as long as its headers say, zero beyond what has been written. -/
def State.staged (s : State) (bundle : Bool) : List Byte :=
  let n := min s.boot.stagingEnd (slotSize bundle + 1)
  Memory.read s.boot.staging 0 n

/-- FW_INSTALL: the image is verified; a good one is being written to the inactive slot until FW_INSTALL_COMPLETE. -/
def State.startInstall (s : State) (session : Nat) (bundle : Bool) : State :=
  let image := s.staged bundle
  let kind := if bundle then 2 else 1
  let slot := if bundle then 3 - s.boot.activeBundle else 1 - s.boot.activeFirst
  let s := s.setBoot fun b => { b with owner := if b.owner = some session then none else b.owner }
  match s.slotFault bundle image with
  | some (k, rule) => (s.setFw 3 k rule).log 0xA001 (domMp 0) [(8, slot), (8, rule)]
  | none => (s.setFw 1 kind 0).setBoot fun b => { b with install := some (kind, image) }

/-- FW_INSTALL_COMPLETE: event 0xA004. A bundle is marked TRIAL and runs from the next reset; a first stage runs from
the next cold reset. -/
def execFwInstallComplete (s : State) : Host.Outcome State Fault Refusal :=
  act s fun s =>
    match s.boot.install with
    | none => s
    | some (kind, image) =>
      let s :=
        if kind = 1 then
          let slot := 1 - s.boot.activeFirst
          s.setBoot fun b => { b with images := Tbl.set [] b.images slot image, activeFirst := slot, install := none }
        else
          let slot := 1 - s.boot.activeBundle
          s.setBoot fun b => { b with
            images := Tbl.set [] b.images (2 + slot) image, trialBundle := true, otherBundle := true, install := none }
      (s.setFw 2 kind 0).log 0xA004 (domMp 0)

/-- SVN_COMMIT: the floor of each kind rises to its running image's SVN, and is never lowered; event 0xA005. -/
def State.commitSvn (s : State) : State :=
  let svns := (1, leAt s.boot.firstHeader 4 4) :: [2, 3, 4].map fun k => (k, leAt (s.boot.bundleHeaders.getD (k - 2) []) 4 4)
  let s := s.setBoot fun b => { b with
    floors := svns.foldl (fun t x => Tbl.set 0 t x.1 (max (Tbl.get 0 t x.1) x.2)) b.floors }
  s.log 0xA005 (domMp 0)

end Sys2Proof.Machine
end

