-- ==== Sys2Proof/Machine/Dictionary.lean ====
section
/-!
DEFINITION. The Dictionary Exchange Protocol: sessions, requests, the checks of a write and its effect (R393-R403,
R411-R413, R441).
-/

namespace Sys2Proof.Machine

/-- A request in the form its checks see: the session that makes it (0xFFFF: multicast), whether that may write, the
header, and the data in clear. -/
structure DxpReq where
  session : Nat
  transport : Fin 4
  source : Nat
  writer : Bool
  w : Nat
  data : List Byte
  deriving DecidableEq, Repr

def DxpReq.idx (q : DxpReq) : Nat := hIndex q.w
def DxpReq.sub (q : DxpReq) : Nat := hSub q.w
def DxpReq.key (q : DxpReq) : Nat := okey q.idx q.sub

/-- What a request is answered with: an abort, a type code and data; or its answer waits for flash. -/
inductive Answer where
  | done (abort type : Nat) (data : List Byte)
  | later
  deriving DecidableEq, Repr

def Answer.abort (n : Nat) : Answer := .done n 0 []
def Answer.ok : Answer := .done 0 0 []

/-- Data bytes a message may carry on a transport (R396). -/
def dxpLimit (transport : Nat) : Nat := [4064, 1184, 224, 4064].getD transport 0

/-! ### The rules of an object's chapter (R394) -/

/-- The bank that an object belongs to (R63). -/
def bankOf (k : Nat) : Option Nat :=
  let idx := k / 256
  let sub := k % 256
  if idx = 0x2010 ∧ 2 ≤ sub ∧ sub ≤ 7 then some (sub % 2)
  else if idx = 0x2011 then some 0
  else if idx = 0x2012 then some 1
  else if idx = 0x3002 ∧ 5 ≤ sub ∧ sub ≤ 8 then some ((sub + 1) % 2)
  else none

/-- A write of PEER_n that changes nothing but PEER_RATE is live (R352). -/
def State.onlyRate (s : State) (k : Nat) (data : List Byte) : Bool :=
  k / 256 == 0x7001 && (fit 59 (s.recOf 0x7001 (k % 256))).take 51 == data.take 51

/-- An armed camp switch keeps the object from being written (R411). -/
def State.switchGuards (s : State) (k : Nat) : Bool :=
  let idx := k / 256
  let slot := s.obj 0xB000 3
  s.campArmed &&
  (s.dict.overlay.any (·.1 == k) || (s.slotEntries slot).any (·.1 == k) ||
   (decide (0xB020 ≤ idx) && decide (idx ≤ 0xB022)) || k == okey 0xB000 4 ||
   (idx == 0xB010 && (k % 256 == slot || k % 256 == s.obj 0xB000 1)))

/-- The abort with which the object's chapter refuses a write in the present state, beside ownership; 0: none. -/
def State.chapterRule (s : State) (r : ObjRow) (k v : Nat) (data : List Byte) : Nat :=
  let points := leAt (s.recOf 0x8002 6) 0 4
  if s.job.loaded && r.jobRefused && !s.onlyRate k data then 5
  else if s.job.loaded && k == okey 0xA000 2 then 5
  else if s.switchGuards k then 9
  else if (bankOf k).any s.bankBusy then 9
  else if k = okey 0x2010 8 ∧ s.tt.switch.isSome then 9
  else if k = okey 0x2010 0xB ∧ s.bankBusy v then 9
  else if k = okey 0x2013 7 ∧ (v < s.now + s.obj 0x2013 1 ∨ v % 20 ≠ 0) then 3
  else if k = okey 0x8002 1 ∧ v = 3 ∧ (s.obj 0x8002 4 ≠ 0 ∨ points < 2 ∨ 64 < points) then 3
  else if k = okey 0x8002 4 ∧ v ≠ 0 ∧ s.obj 0x8002 1 = 3 then 3
  else if k = okey 0x8002 6 ∧ s.obj 0x8002 1 = 3 ∧ leAt data 0 4 < 2 then 3
  else if k = okey 0x7000 2 ∧ v ≠ 0 ∧ !bitAt v (s.obj 0x7000 1) then 3
  else if k = okey 0x7000 1 ∧ s.obj 0x7000 2 ≠ 0 ∧ !bitAt (s.obj 0x7000 2) v then 3
  else if k = okey 0x8004 3 ∧ (s.tt.active.isSome ∨ s.train.restoring.isSome) then 9
  else if k = okey 0xA001 2 ∧ s.boot.install.isSome then 9
  else if k = okey 0xA001 4 ∧ s.obj 0x1000 8 = 0 then 9
  else 0

/-! ### The effect of a write -/

/-- A write of SWITCH_BANK (R65). -/
def State.writeSwitchBank (s : State) (v : Nat) : Nat × State :=
  if v = 0 then s.armSwitch 0
  else if v = 1 then s.armSwitch 1
  else (0, s.on s.tt.switch.isSome State.disarmBankSwitch)

/-- A write of SWITCH_SLOT (R409). -/
def State.writeSwitchSlot (s : State) (v : Nat) : Nat × State :=
  if v = 0xFF then (0, s.disarmCamp) else s.armCamp v

/-- A write of RESTORE_REQUEST: 1 restore, 2 fresh start (R277, R296). -/
def State.writeRestore (s : State) (v : Nat) : State := if v = 2 then s.freshStart else s.restoreState

/-- The nonce of an attestation: the session takes its report (R464). -/
def State.writeNonce (s : State) (session : Nat) (data : List Byte) : State :=
  let (r, s) := s.attest data
  s.setBoot fun b => { b with reports := Tbl.set [] b.reports session r }

/-- The action that a write triggers in place of, or beside, taking a value; none: the object is plain. -/
def State.trigger (s : State) (q : DxpReq) (v : Nat) : Option (Nat × State) :=
  let k := q.key
  if k = okey 0x2010 9 then some (s.writeSwitchBank v)
  else if k = okey 0x2010 0xB then some (0, (s.checkBank v).1)
  else if k = okey 0x2013 7 then some (0, (s.originateHoldAt 1 v).2)
  else if k = okey 0x3003 3 then some (0, s.writeTarget q.data)
  else if k = okey 0x7005 0x10 then some (0, s.setRope fun r => { r with trigger := true })
  else if k = okey 0x8004 2 then some (0, s.setTrain fun t => { t with belayAsked := true })
  else if k = okey 0x8004 3 then some (0, s.writeRestore v)
  else if k = okey 0xA000 2 then some (0, s.setBoot fun b => { b with asked := v })
  else if k = okey 0xA001 2 then some (0, s.startInstall q.session (v == 2))
  else if k = okey 0xA001 4 then some (0, s.commitSvn)
  else if k = okey 0xA002 4 then some (0, s.writeNonce q.session q.data)
  else if k = okey 0xB000 3 then some (s.writeSwitchSlot v)
  else none

/-- An object takes the value of a write, and its bank is no longer armed (R63). -/
def State.take (s : State) (r : ObjRow) (k v : Nat) (data : List Byte) : State :=
  let s := match bankOf k with
    | some b => s.setArmed b false
    | none => s
  if r.ty = .recd then
    let same := s.recOf (k / 256) (k % 256) == data
    let s := s.setRec (k / 256) (k % 256) data
    if same then s else s.valueChanged k
  else s.assign k v

/-- WRITE: the checks of R394 in their order, then the effect. A PERSIST write first goes to flash (R405). -/
def State.writeRequest (s : State) (q : DxpReq) : Answer × State :=
  let k := q.key
  let v := leNat q.data
  match s.defined q.idx q.sub with
  | none => (.abort 1, s)
  | some r =>
    if r.acc = .const ∨ r.acc = .ro ∨ (r.acc = .rwd ∧ s.kind ≠ 5) ∨ (hPersist q.w ∧ !r.stored) then (.abort 2, s)
    else if r.ty = .blob ∨ hType q.w ≠ r.ty.code ∨ q.data.length ≠ r.size then (.abort 4, s)
    else if !(if r.ty = .recd then recInRange k q.data else inRange r k v && boundsKept s.inForce k v) then (.abort 3, s)
    else
      let a := s.chapterRule r k v q.data
      if a ≠ 0 then (.abort a, s)
      else match (if r.ty = .recd then none else s.writeConflict k v) with
        | some c => (.abort 6, s.logConflict c)
        | none =>
          match s.trigger q v with
          | some (a, s) => (.abort a, s)
          | none =>
            if hPersist q.w then
              (.later, s.setDict fun d => { d with
                persist := d.persist ++ [⟨q.session, q.transport, q.source, BitVec.ofNat 256 q.w, k, v, q.data⟩] })
            else (.ok, s.take r k v q.data)

/-- The checks of a BLOB piece that is written; 0: it is taken. -/
def State.blobRule (s : State) (q : DxpReq) : Nat :=
  match s.defined q.idx q.sub with
  | none => 1
  | some r =>
    if r.acc = .const ∨ r.acc = .ro ∨ (r.acc = .rwd ∧ s.kind ≠ 5) then 2
    else if r.ty ≠ .blob then 4
    else if r.size < hOffset q.w + hLength q.w then 0xB
    else s.chapterRule r q.key 0 []

/-- A piece of a timetable lands in the timetable store, and the bank is no longer armed (R63). -/
def State.writeTable (s : State) (q : DxpReq) : State :=
  let b := q.idx - 0x2011
  (s.setArmed b false).write (bankTable b q.sub 0 + hOffset q.w) q.data

/-- WRITE_BLOB. -/
def State.writeBlobRequest (s : State) (q : DxpReq) : Answer × State :=
  let a := s.blobRule q
  if a ≠ 0 then (.abort a, s)
  else if q.idx = 0xB010 then
    let r := s.campPiece q.session q.sub (hOffset q.w) q.data
    (.abort r.1, r.2)
  else if q.idx = 0xA001 then
    let r := s.stagePiece q.session (hOffset q.w) q.data
    (.abort r.1, r.2)
  else (.ok, s.writeTable q)

/-! ### The other operations (R400) -/

/-- What reading an object does beside returning its value (R57, R388). -/
def State.afterRead (s : State) (k : Nat) : State :=
  if k = okey 0x2000 1 then s.setTime fun t => { t with fracLatch := s.hall % 64 }
  else if k = okey 0x3000 5 then s.setSupply fun p => { p with peak := 0 }
  else s

/-- Data longer than the transport carries cannot be sent (assumption 41). -/
def answerData (transport type : Nat) (data : List Byte) : Answer :=
  if dxpLimit transport < data.length then .abort 8 else .done 0 type data

/-- READ. -/
def State.readRequest (s : State) (q : DxpReq) : Answer × State :=
  match s.defined q.idx q.sub with
  | none => (.abort 1, s)
  | some r =>
    if r.acc = .wo then (.abort 2, s)
    else if r.ty = .blob then (.abort 4, s)
    else (answerData q.transport r.ty.code (s.valueOf r q.idx q.sub), s.afterRead q.key)

/-- READ_BLOB. -/
def State.readBlobRequest (s : State) (q : DxpReq) : Answer :=
  match s.defined q.idx q.sub with
  | none => .abort 1
  | some r =>
    if r.acc = .wo then .abort 2
    else if r.ty ≠ .blob then .abort 4
    else if r.size < hOffset q.w + hLength q.w then .abort 0xB
    else .done 0 ObjType.blob.code (s.blobPiece q.session q.idx q.sub (hOffset q.w) (hLength q.w))

/-- DESCRIBE. -/
def State.describeRequest (s : State) (q : DxpReq) : Answer :=
  match s.defined q.idx q.sub with
  | none => .abort 1
  | some r => .done 0 0 (describeRow r q.key)

/-- SUBSCRIBE: one stream a session, four in all (R441). -/
def State.subscribeRequest (s : State) (q : DxpReq) : Answer × State :=
  let flags := leAt q.data 1 1
  let mask := leAt q.data 2 2
  let start := leAt q.data 4 4
  let seq := s.obj 0x9004 2
  let back := (seq + 2 ^ 32 - start) % 2 ^ 32
  let have_ := s.faults.ring.length
  let next :=
    if flags % 2 = 0 ∨ 2 ^ 31 ≤ back then seq
    else if back ≤ have_ then start else (seq + 2 ^ 32 - have_) % 2 ^ 32
  let mine := (List.range 4).find? fun n => (Tbl.get none s.faults.streams n).any (·.session == q.session)
  let free := (List.range 4).find? fun n => (Tbl.get none s.faults.streams n).isNone
  if q.transport = 2 ∨ q.transport = 3 then (.abort 9, s)
  else if q.data.length ≠ 16 then (.abort 4, s)
  else if flags / 2 ≠ 0 ∨ !allZero (q.data.drop 8) then (.abort 8, s)
  else if 3 < leAt q.data 0 1 then (.abort 3, s)
  else
    let put := fun (s : State) (n : Nat) (m : Option Stream) =>
      { s with faults := { s.faults with streams := Tbl.set none s.faults.streams n m } }
    if mask = 0 then
      (.ok, match mine with | some n => put s n none | none => s)
    else match mine.orElse fun _ => free with
      | some n => (.ok, put s n (some ⟨q.session, leAt q.data 0 1, mask, hSeq q.w, next⟩))
      | none => (.abort 0xC, s)

/-- GROUP_KEY (R402). -/
def State.groupKeyRequest (s : State) (q : DxpReq) : Answer × State :=
  if q.transport ≠ 1 then (.abort 7, s)
  else if q.data.length ≠ 36 then (.abort 4, s)
  else (.ok, s.setDict fun d => { d with
    groupKey := some (q.data.take 32, q.data.drop 32), groupSeq := none })

/-- A request is executed: write access first, then by its operation. -/
def State.request (s : State) (q : DxpReq) : Answer × State :=
  let op := hOp q.w
  if [2, 4, 8].contains op && !q.writer then (.abort 7, s)
  else match op with
    | 1 => s.readRequest q
    | 2 => s.writeRequest q
    | 3 => (s.readBlobRequest q, s)
    | 4 => s.writeBlobRequest q
    | 5 => (s.describeRequest q, s)
    | 6 => (answerData q.transport 0 (listAfter s.kind q.key (hLength q.w / 4)), s)
    | 7 => s.subscribeRequest q
    | 8 => s.groupKeyRequest q
    | _ => (.ok, s)

/-! ### Messages (R397-R402) -/

/-- READ_BLOB and LIST name a length and carry no data. -/
def carriesNone (w : Nat) : Bool := hKind w == 3 && (hOp w == 3 || hOp w == 6)

/-- The format of R399, for a HELLO or a request whose data in clear is `n` bytes. -/
def dxpFormat (transport w n : Nat) : Bool :=
  let port := transport == 1
  decide (hVersion w = 2) && (hKind w == 1 || hKind w == 3) &&
  (hKind w == 1 || (decide (1 ≤ hOp w) && decide (hOp w ≤ 9))) &&
  decide (hAbort w = 0) && decide (hResponder w = 0) && decide (fld w 112 112 = 0) && decide (fld w 91 0 = 0) &&
  decide (hType w < 0xE) && (port || (!hMulticast w && !hMore w)) &&
  (hKind w != 1 || (decide (hSession w = 0) && !hMulticast w)) && (hKind w != 3 || !hMore w) &&
  (!hMulticast w || (hSession w == 0xFFFF && (hOp w == 1 || hOp w == 2) && !hPersist w)) &&
  decide (hLength w ≤ dxpLimit transport) && decide (n = if carriesNone w then 0 else hLength w)

/-- The header of an answer to `w`. -/
def State.answerHead (s : State) (w kind abort session type length : Nat) (more : Bool := false) (offset : Nat := 0) :
    BitVec 256 :=
  dxpHead kind (hOp w) abort session (hSeq w) (hIndex w) (hSub w) (if kind = 2 then offset else hOffset w) length
    s.moduleNumber type (kind == 4 && hMulticast w) more

/-- Responses with an abort are counted (R414). -/
def State.countAbort (s : State) (abort : Nat) : State := s.on (abort != 0) (·.count 0x1002 0xA)

/-- An answer that no session protects. -/
def State.plainAnswer (s : State) (m : DxpMsg) (kind abort : Nat) : State :=
  let w := m.header.toNat
  (s.countAbort abort).sendDxp m.transport m.source (s.answerHead w kind abort (hSession w) 0 0) []

/-- An answer goes out in its session and is kept (R401). -/
def State.sessionAnswer (s : State) (v : Session) (w abort type : Nat) (data : List Byte) : State :=
  let h := s.answerHead w 4 abort v.number type data.length
  let s := s.setDict fun d => { d with
    sessions := d.sessions.map fun x =>
      if x.number = v.number then { x with kept := ((hSeq w, ⟨h, data⟩) :: x.kept).take 64 } else x }
  (s.countAbort abort).sendSession v h data

/-- The session of a message: its number, transport and source (R397). -/
def State.sessionOf (s : State) (m : DxpMsg) : Option Session :=
  s.dict.sessions.find? fun v =>
    v.number == hSession m.header.toNat && v.transport == m.transport && v.source == m.source

/-- Data in clear of a message on the management port, by the key of its session or of the group; none: its tag
fails, or there is no such key. -/
def State.clearData (s : State) (m : DxpMsg) : Option (List Byte) :=
  let w := m.header.toNat
  if m.transport ≠ 1 ∨ hKind w = 1 then some m.data
  else if hSession w = 0xFFFF ∧ hMulticast w then
    s.dict.groupKey.bind fun g => dxpOpen (g.1 ++ g.2) 0 m.header m.data
  else match s.sessionOf m with
    | some v => dxpOpen v.keyIn 0 m.header m.data
    | none => some m.data

/-- A request of the message to an object whose PERSIST write is pending waits (R401). -/
def State.mustWait (s : State) (w : Nat) : Bool :=
  decide (1 ≤ hOp w) && decide (hOp w ≤ 5) && s.dict.persist.any (·.key == okey (hIndex w) (hSub w))

/-- A multicast request: executed if its SEQ is above the highest accepted, and answered under the group key (R402). -/
def State.multicast (s : State) (m : DxpMsg) (data : List Byte) : State :=
  let w := m.header.toNat
  match s.dict.groupKey with
  | none => s
  | some g =>
    if s.dict.groupSeq.any fun n => decide (hSeq w ≤ n) then s
    else if s.mustWait w then s.setDict fun d => { d with waiting := d.waiting ++ [m] }
    else
      let s := s.setDict fun d => { d with groupSeq := some (hSeq w) }
      let r := if dxpFormat 1 w data.length then s.request ⟨0xFFFF, m.transport, m.source, true, w, data⟩
        else (.abort 8, s)
      match r with
      | (.later, s) => s
      | (.done abort type out, s) =>
        let h := s.answerHead w 4 abort 0xFFFF type out.length
        (s.countAbort abort).emit (.dxp 1 m.source h (dxpSeal (g.1 ++ g.2) 1 h out))

/-- A request in a session: an answer that is kept is sent again, one too old is dropped, and any other is executed
(R401). -/
def State.inSession (s : State) (v : Session) (m : DxpMsg) (data : List Byte) : State :=
  let w := m.header.toNat
  let seq := hSeq w
  let s := s.setDict fun d => { d with
    sessions := d.sessions.map fun x => if x.number = v.number then { x with last := s.now } else x }
  match v.kept.find? (·.1 == seq) with
  | some r => (s.count 0x1002 0xC).sendSession v r.2.header r.2.data
  | none =>
    if v.high.any fun n => decide (seq + 64 < n) then s
    else if s.mustWait w then s.setDict fun d => { d with waiting := d.waiting ++ [m] }
    else
      let s := s.setDict fun d => { d with
        sessions := d.sessions.map fun x =>
          if x.number = v.number then { x with high := some (max seq (x.high.getD 0)) } else x }
      match s.request ⟨v.number, m.transport, m.source, v.write, w, data⟩ with
      | (.later, s) => s
      | (.done abort type out, s) =>
        let s := s.sessionAnswer v w abort type out
        s.on (hOp w == 9 && abort == 0) (·.closeSession v.number)

/-! ### HELLO (R397, R398) -/

/-- The next session number that is free. -/
def State.freeSession (s : State) : Nat → Nat → Nat
  | 0, n => n
  | fuel + 1, n =>
    let n := if n = 0 ∨ 0xFFFE < n then 1 else n
    if s.dict.sessions.any (·.number == n) then s.freeSession fuel (n + 1) else n

/-- A session opens for a source, in the place of one that it has; none: the table is full. -/
def State.openDxp (s : State) (m : DxpMsg) (write : Bool) (operator : List Byte) : State × Option Session :=
  let s := s.each ((s.dict.sessions.filter fun v => v.transport == m.transport && v.source == m.source).map (·.number))
    State.closeSession
  if 64 ≤ s.dict.sessions.length then (s, none)
  else
    let n := s.freeSession 65 s.dict.nextSession
    let v : Session := ⟨m.transport, m.source, n, write, none, [], s.now, [], [], operator⟩
    (s.setDict fun d => { d with nextSession := n + 1, sessions := d.sessions ++ [v] }, some v)

/-- Bytes 0-15 of a HELLO are as R397 gives them. -/
def helloOk (b : List Byte) : Bool := decide (leAt b 2 1 ≤ 1) && allZero (piece b 3 13)

/-- Bytes 0-15 of a HELLO_ACK. -/
def ackStart (access n : Nat) : List Byte := leBytes 1 2 ++ leBytes 1 access ++ leBytes 2 n ++ List.replicate 12 0

def State.logOpened (s : State) (transport access : Nat) : State := s.log 0x1001 (domMp 0) [(8, transport), (8, access)]

/-- A HELLO without keys. Over the rope only reading is granted (R396). -/
def State.plainHello (s : State) (m : DxpMsg) : State :=
  let w := m.header.toNat
  let b := m.data
  let access := if m.transport = 3 then 0 else leAt b 2 1
  if b.length ≠ 16 ∨ !helloOk b then s.plainAnswer m 2 8
  else if 2 < leAt b 0 1 ∨ leAt b 1 1 < 2 then (s.log 0x1002 (domMp 0)).plainAnswer m 2 8
  else match s.openDxp m (access == 1) [] with
    | (s, none) => s.plainAnswer m 2 0xC
    | (s, some v) =>
      (s.logOpened m.transport access).sendDxp m.transport m.source (s.answerHead w 2 0 v.number 0 16)
        (ackStart access v.number)

/-- A HELLO_ACK in pieces of at most 1,184 bytes. -/
def State.sendPieces (s : State) (m : DxpMsg) (abort n : Nat) (body : List Byte) : State :=
  s.each (List.range ((body.length + 1183) / 1184)) fun s i =>
    let p := piece body (1184 * i) 1184
    s.sendDxp 1 m.source
      (s.answerHead m.header.toNat 2 abort n 0 p.length (decide (1184 * (i + 1) < body.length)) (1184 * i)) p

/-- The operator's signature and listing: write access may be granted. -/
def State.operatorOk (s : State) (first : BitVec 256) (b : List Byte) : Bool :=
  let key := piece b 1200 1952
  s.operatorKeys.contains (Config.sha3 key) &&
  Config.mldsaVerify key (leBytes 32 first.toNat ++ b.take 3152) (piece b 3152 3309)

/-- A whole HELLO of the management port: keys by ML-KEM, the module's signature, and write access for a listed
operator. -/
def State.keyedHello (s : State) (m : DxpMsg) (first : BitVec 256) (b : List Byte) : State :=
  let asked := leAt b 2 1
  if b.length ≠ (if asked = 1 then 6461 else 1200) ∨ !helloOk b then s.plainAnswer m 2 8
  else if 2 < leAt b 0 1 ∨ leAt b 1 1 < 2 then (s.log 0x1002 (domMp 0)).plainAnswer m 2 8
  else
    let granted := asked == 1 && s.operatorOk first b
    let operator := if granted then Config.sha3 (piece b 1200 1952) else []
    match s.openDxp m granted operator with
    | (s, none) => s.plainAnswer m 2 0xC
    | (s, some v) =>
      let access := bit01 granted
      let denied := asked == 1 && !granted
      let abort := if denied then 7 else 0
      let s := (s.on denied (·.log 0x1003 (domMp 0))).countAbort abort
      let (rnd, s) := s.draw
      let enc := Config.mlkemEncaps (piece b 16 1184) rnd
      let part := ackStart access v.number ++ enc.1 ++ Config.identityKey
      let h := s.answerHead m.header.toNat 2 abort v.number 0 1184 true
      let ack := part ++ Config.identitySign (leBytes 32 h.toNat ++ part ++ Config.sha3 b)
      let th := Config.sha3 (b ++ ack)
      let key := fun dir : Byte => (Config.sha3 (enc.2 ++ th ++ [dir])).take 36
      let s := s.setDict fun d => { d with
        sessions := d.sessions.map fun x => if x.number = v.number then { x with keyIn := key 0, keyOut := key 1 } else x }
      (s.logOpened 1 access).sendPieces m abort v.number ack

/-- A piece of a HELLO on the management port, placed by its OFFSET. -/
def State.helloPiece (s : State) (m : DxpMsg) : State :=
  let w := m.header.toNat
  let cur := s.dict.hellos.find? (·.1 == m.source)
  let rest := s.dict.hellos.filter (·.1 != m.source)
  let have_ := if hOffset w = 0 then some (m.header, []) else cur.map (·.2)
  let s := s.setDict fun d => { d with hellos := rest }
  match have_ with
  | none => s.plainAnswer m 2 8
  | some (first, old) =>
    let b := old ++ m.data
    if hOffset w ≠ old.length ∨ 6461 < b.length then s.plainAnswer m 2 8
    else if hMore w then s.setDict fun d => { d with hellos := rest ++ [(m.source, first, b)] }
    else s.keyedHello m first b

/-- HELLO. -/
def State.hello (s : State) (m : DxpMsg) : State := if m.transport = 1 then s.helloPiece m else s.plainHello m

/-! ### Arrival -/

/-- The dictionary answers: from the end of boot stage 1 (R396, R457), and not while its processor is in reset. -/
def State.dictUp (s : State) : Bool := decide (2 ≤ s.boot.stage) && !s.faults.mpsDown.contains 0

/-- A message of kind HELLO or REQUEST, or of a reserved kind, is handled. -/
def State.handle (s : State) (m : DxpMsg) : State :=
  let w := m.header.toNat
  match s.clearData m with
  | none => if hSession w = 0xFFFF ∧ s.dict.groupKey.isNone then s else s.count 0x1002 0xB
  | some data =>
    if m.transport = 1 ∧ hKind w = 3 ∧ hSession w = 0xFFFF ∧ hMulticast w then s.multicast m data
    else
      let ok := dxpFormat m.transport w data.length
      if hKind w = 1 then (if ok then s.hello m else s.plainAnswer m 2 8)
      else match s.sessionOf m with
        | none => s.plainAnswer m 4 (if ok then 0xC else 8)
        | some v =>
          if ok then s.inSession v m data
          else
            let h := s.answerHead w 4 8 v.number 0 0
            (s.countAbort 8).sendSession v h []

/-- The mailbox is idle again when nothing of it is pending (R447). -/
def State.mboxSettle (s : State) : State :=
  if s.host.mboxStatus = 1 ∧ !s.faults.mpsDown.contains 0 ∧ !s.dict.persist.any (·.transport == 0) ∧
      !s.dict.waiting.any (·.transport == 0) then
    s.setHost fun p => { p with mboxStatus := 0 }
  else s

/-- A message arrives on its transport; before boot stage 1 has ended it is discarded (R396). On the mailbox it is submitted, and discarded while MBOX_STATUS is 1; a
packet leaves the VC0 ring; a message that is not a HELLO or a request is no business of the dictionary's. -/
def State.arrive (s : State) (m : DxpMsg) : State :=
  let kind := hKind m.header.toNat
  if kind == 2 || kind == 4 || (m.transport == 0 && s.host.mboxStatus == 1) then s
  else if !s.dictUp then (if s.boot.stage < 2 then s.popVc0 m else s)
  else
    let s := s.popVc0 m
    let s := s.on (m.transport == 0) (·.setHost fun p => { p with mboxStatus := 1 })
    ((s.handle m).mboxSettle).streamAll

/-! ### PERSIST (R401, R404, R405) -/

/-- The answer to a PERSIST write that has ended. -/
def State.persistAnswer (s : State) (j : PersistJob) (abort : Nat) : State :=
  match s.dict.sessions.find? fun v => v.number == j.session && v.transport == j.transport && v.source == j.source with
  | some v => s.sessionAnswer v j.header.toNat abort 0 []
  | none => s

/-- The oldest write of flash ends: the base camp and then the value in force take the value; or nothing changes. -/
def State.persistEnds (s : State) (j : PersistJob) (ok : Bool) : State :=
  let s := s.setDict fun d => { d with persist := d.persist.drop 1 }
  if !ok then (s.log 0x1005 (domMp 0)).persistAnswer j 0xA
  else
    match objRow j.key with
    | none => s
    | some r =>
      let s := s.setDict fun d =>
        if r.ty = .recd then { d with baseRecs := Tbl.set [] d.baseRecs j.key j.bytes }
        else { d with base := Tbl.set none d.base j.key (if j.value = objDefault j.key then none else some j.value) }
      ((s.log 0x1004 (domMp 0)).take r j.key j.value j.bytes).persistAnswer j 0

/-- PERSIST_WRITE_COMPLETE: requests that waited are executed in their order, or go on waiting. -/
def execPersistWriteComplete (ok : Bool) (s : State) : Host.Outcome State Fault Refusal :=
  act s fun s =>
    match s.dict.persist with
    | [] => s
    | j :: _ =>
      let s := s.persistEnds j ok
      let ms := s.dict.waiting
      let s := s.setDict fun d => { d with waiting := [] }
      (s.each ms State.handle).mboxSettle.streamAll

/-- SESSION_IDLE_EXPIRE (R397). -/
def execSessionIdleExpire (session : BitVec 16) (s : State) : Host.Outcome State Fault Refusal :=
  act s fun s =>
    match s.dict.sessions.find? (·.number == session.toNat) with
    | some v => (s.reach (v.last + 1000000000 * s.obj 0x1002 8)).closeSession v.number
    | none => s

end Sys2Proof.Machine
end

