-- ==== Sys2Proof/Machine/DictRows.lean ====
section
/-!
DEFINITION. The commands that are DXP messages. A message is one command's, by its operation, its object and, where
several commands share an object, its value (assumption 42).
-/

namespace Sys2Proof.Machine

/-- The commands that a DXP message can be. -/
inductive DxpRow where
  | hello | read | hallTime | write | readBlob | writeBlob | describe | list | subscribe | groupKey | close
  | bankCheck | bankArm | bankDisarm | holdRequest | restore | freshStart | belay | lsInit | regroup | drawTarget
  | campImage | slotArm | slotDisarm | nonce | staging | installFirst | installBundle | warmReset | coldReset
  | svnCommit | operatorKey | answer
  deriving DecidableEq, Repr

/-- The command of a WRITE of value `v` to object `k`. -/
def writeRow (k v : Nat) : DxpRow :=
  if k = okey 0x2010 0xB then .bankCheck
  else if k = okey 0x2010 9 then (if v = 0xFF then .bankDisarm else .bankArm)
  else if k = okey 0x2013 7 then .holdRequest
  else if k = okey 0x8004 3 then (if v = 2 then .freshStart else .restore)
  else if k = okey 0x8004 2 then .belay
  else if k = okey 0x8012 2 then .lsInit
  else if k = okey 0x7005 0x10 then .regroup
  else if k = okey 0x3003 3 then .drawTarget
  else if k = okey 0xB000 3 then (if v = 0xFF then .slotDisarm else .slotArm)
  else if k = okey 0xA002 4 then .nonce
  else if k = okey 0xA001 2 then (if v = 1 then .installFirst else .installBundle)
  else if k = okey 0xA000 2 then (if v = 2 then .coldReset else .warmReset)
  else if k = okey 0xA001 4 then .svnCommit
  else if k / 256 = 0xA003 then .operatorKey
  else .write

/-- The command of a message. What no other command takes, a reserved kind or operation included, is DXP_READ's. -/
def State.dxpRow (s : State) (m : DxpMsg) : DxpRow :=
  let w := m.header.toNat
  let k := okey (hIndex w) (hSub w)
  let v := leNat (((s.clearData m).getD []).take 8)
  if hKind w = 1 then .hello
  else if hKind w = 2 ∨ hKind w = 4 then .answer
  else if hKind w ≠ 3 then .read
  else match hOp w with
    | 1 => if k = okey 0x2000 1 then .hallTime else .read
    | 2 => writeRow k v
    | 3 => .readBlob
    | 4 => if k / 256 = 0xB010 then .campImage else if k = okey 0xA001 1 then .staging else .writeBlob
    | 5 => .describe
    | 6 => .list
    | 7 => .subscribe
    | 8 => .groupKey
    | 9 => .close
    | _ => .read

/-- A message is handled if it is the command `row`. -/
def onRow (row : DxpRow) (m : DxpMsg) (s : State) : Host.Outcome State Fault Refusal :=
  act s fun s => if s.dxpRow m = row then s.arrive m else s

/-- HELLO (R397, R398). -/
def execDxpHello (m : DxpMsg) (s : State) : Host.Outcome State Fault Refusal := onRow .hello m s

/-- DXP_READ (R400). -/
def execDxpRead (m : DxpMsg) (s : State) : Host.Outcome State Fault Refusal := onRow .read m s

/-- HALL_TIME_READ (R57: the fraction is latched). -/
def execHallTimeRead (m : DxpMsg) (s : State) : Host.Outcome State Fault Refusal := onRow .hallTime m s

/-- DXP_WRITE (R394, R405). -/
def execDxpWrite (m : DxpMsg) (s : State) : Host.Outcome State Fault Refusal := onRow .write m s

/-- READ_BLOB (R400). -/
def execReadBlob (m : DxpMsg) (s : State) : Host.Outcome State Fault Refusal := onRow .readBlob m s

/-- WRITE_BLOB (R394, R400). -/
def execWriteBlob (m : DxpMsg) (s : State) : Host.Outcome State Fault Refusal := onRow .writeBlob m s

/-- DESCRIBE (R400). -/
def execDescribe (m : DxpMsg) (s : State) : Host.Outcome State Fault Refusal := onRow .describe m s

/-- LIST (R400). -/
def execDxpList (m : DxpMsg) (s : State) : Host.Outcome State Fault Refusal := onRow .list m s

/-- SUBSCRIBE (R441). -/
def execSubscribe (m : DxpMsg) (s : State) : Host.Outcome State Fault Refusal := onRow .subscribe m s

/-- GROUP_KEY (R402). -/
def execGroupKey (m : DxpMsg) (s : State) : Host.Outcome State Fault Refusal := onRow .groupKey m s

/-- CLOSE (R400). -/
def execDxpClose (m : DxpMsg) (s : State) : Host.Outcome State Fault Refusal := onRow .close m s

/-- BANK_CHECK (R63). -/
def execBankCheck (m : DxpMsg) (s : State) : Host.Outcome State Fault Refusal := onRow .bankCheck m s

/-- SWITCH_BANK_ARM (R65). -/
def execSwitchBankArm (m : DxpMsg) (s : State) : Host.Outcome State Fault Refusal := onRow .bankArm m s

/-- SWITCH_BANK_DISARM (R65). -/
def execSwitchBankDisarm (m : DxpMsg) (s : State) : Host.Outcome State Fault Refusal := onRow .bankDisarm m s

/-- HOLD_REQUEST (R83, R89). -/
def execHoldRequest (m : DxpMsg) (s : State) : Host.Outcome State Fault Refusal := onRow .holdRequest m s

/-- RESTORE (R296). -/
def execRestore (m : DxpMsg) (s : State) : Host.Outcome State Fault Refusal := onRow .restore m s

/-- FRESH_START (R277). -/
def execFreshStart (m : DxpMsg) (s : State) : Host.Outcome State Fault Refusal := onRow .freshStart m s

/-- BELAY_REQUEST (R294). -/
def execBelayRequest (m : DxpMsg) (s : State) : Host.Outcome State Fault Refusal := onRow .belay m s

/-- LS_INIT_WRITE (R309). -/
def execLsInitWrite (m : DxpMsg) (s : State) : Host.Outcome State Fault Refusal := onRow .lsInit m s

/-- REGROUP_REQUEST (R347). -/
def execRegroupRequest (m : DxpMsg) (s : State) : Host.Outcome State Fault Refusal := onRow .regroup m s

/-- DRAW_TARGET_WRITE (R379). -/
def execDrawTargetWrite (m : DxpMsg) (s : State) : Host.Outcome State Fault Refusal := onRow .drawTarget m s

/-- CAMP_IMAGE_WRITE (R408, R497). -/
def execCampImageWrite (m : DxpMsg) (s : State) : Host.Outcome State Fault Refusal := onRow .campImage m s

/-- SWITCH_SLOT_ARM (R409). -/
def execSwitchSlotArm (m : DxpMsg) (s : State) : Host.Outcome State Fault Refusal := onRow .slotArm m s

/-- SWITCH_SLOT_DISARM (R409). -/
def execSwitchSlotDisarm (m : DxpMsg) (s : State) : Host.Outcome State Fault Refusal := onRow .slotDisarm m s

/-- ATTEST_NONCE (R464). -/
def execAttestNonce (m : DxpMsg) (s : State) : Host.Outcome State Fault Refusal := onRow .nonce m s

/-- FW_STAGING_WRITE (R466). -/
def execFwStagingWrite (m : DxpMsg) (s : State) : Host.Outcome State Fault Refusal := onRow .staging m s

/-- FW_INSTALL_FIRST_STAGE (R466). -/
def execFwInstallFirstStage (m : DxpMsg) (s : State) : Host.Outcome State Fault Refusal := onRow .installFirst m s

/-- FW_INSTALL_BUNDLE (R466). -/
def execFwInstallBundle (m : DxpMsg) (s : State) : Host.Outcome State Fault Refusal := onRow .installBundle m s

/-- WARM_RESET_REQUEST (R466). -/
def execWarmResetRequest (m : DxpMsg) (s : State) : Host.Outcome State Fault Refusal := onRow .warmReset m s

/-- COLD_RESET_REQUEST (R466). -/
def execColdResetRequest (m : DxpMsg) (s : State) : Host.Outcome State Fault Refusal := onRow .coldReset m s

/-- SVN_COMMIT (R466). -/
def execSvnCommit (m : DxpMsg) (s : State) : Host.Outcome State Fault Refusal := onRow .svnCommit m s

/-- OPERATOR_KEY_WRITE (R467). -/
def execOperatorKeyWrite (m : DxpMsg) (s : State) : Host.Outcome State Fault Refusal := onRow .operatorKey m s

/-- MBOX_DOORBELL (R447): the request buffer holds one message; a value other than 1, and a doorbell while the mailbox is
busy, does nothing. -/
def execMboxDoorbell (msg : List Byte) (value : BitVec 32) (s : State) : Host.Outcome State Fault Refusal :=
  act s fun s =>
    let s := s.setHost fun p => { p with mboxRequest := msg.take 4096 }
    let w := leAt msg 0 32
    let n := if carriesNone w then 0 else min 4064 (hLength w)
    let m : DxpMsg := ⟨0, 0, BitVec.ofNat 256 w, fit n (msg.drop 32)⟩
    if value ≠ 1 ∨ s.host.mboxStatus = 1 ∨ msg.length < 32 then s else s.arrive m

/-- A message between rope leaders, on stripe 0 (R332, R396). -/
def State.receiveDxp (s : State) (f : RopeFrame) : State :=
  s.receiveFrame f 0xA fun s x body =>
    let site := x / 32
    if x % 32 ≠ 0 then none
    else if body.length < 32 then some s
    else some (s.arrive ⟨3, 65536 * site + s.peerModule site, BitVec.ofNat 256 (leAt body 0 32), body.drop 32⟩)

/-- DXP_FRAME. -/
def execDxpFrame (f : RopeFrame) (s : State) : Host.Outcome State Fault Refusal :=
  act s fun s => s.atGateway f (·.receiveDxp f)

/-! ### ROPE_FRAME packets (R113) -/

/-- A frame reaches the rope engine of its module. -/
def State.receiveRope (s : State) (f : RopeFrame) : State :=
  match rfKind f.header.toNat with
  | 1 => s.receiveOpen f
  | 2 => s.takeAccept f
  | 3 => s.receiveDelta f
  | 4 => s.receiveSack f
  | 5 => s.receiveInfo f
  | 6 => s.receiveRekey f
  | 7 => s.receiveRekeyAck f
  | 8 => s.receiveRegroup f
  | 9 => s.receiveBelay f
  | 0xA => s.receiveDxp f
  | 0xB => s.receiveProbe f
  | _ => s

/-- ROPE_FRAME: a frame of this site goes to its rope engine, and one for another site out by a rope port. -/
def execRopeFrame (p : Packet) (s : State) : Host.Outcome State Fault Refusal :=
  act s fun s =>
    let f : RopeFrame := ⟨BitVec.ofNat 512 (leAt p.data 0 64), p.data.drop 64⟩
    if p.op ≠ 5 ∨ p.dst ≠ s.moduleNumber ∨ p.data.length < 64 then s
    else if rfDstSite f.header.toNat = s.ownSite then s.atGateway f (·.receiveRope f)
    else s.portSend (rfStripe f.header.toNat) f.header f.body

end Sys2Proof.Machine
end

