-- ==== Sys2Proof/Machine/Boot.lean ====
section
/-!
DEFINITION. Boot, the module and die resets, and the watchdogs (R418, R428, R432, R436, R444, R457-R459, R465).
-/

namespace Sys2Proof.Machine

/-! ### Boot stages (R457, R458) -/

/-- A boot stage has ended: event 0xA003, and BOOT_STAGE. -/
def State.stageEnds (s : State) (stage reported : Nat) : State :=
  ((s.setBoot fun b => { b with stage := stage + 1 }).setObj 0xA000 1 reported).log 0xA003 (domMp 0)
    [(48, s.now)]

/-- Both slots of a kind have failed. -/
def State.bootFails (s : State) : State := s.alerting fun s => s.setBoot fun b => { b with failed := true }

/-- A slot is verified (R461): a failure logs event 0xA001 with the slot and the rule. -/
def State.verifySlot (s : State) (bundle : Bool) (slot : Nat) : Bool × State :=
  match s.slotFault bundle (s.flashImage (if bundle then 2 + slot else slot)) with
  | none => (true, s)
  | some (_, rule) => (false, s.log 0xA001 (domMp 0) [(8, slot), (8, rule)])

/-- The first stage of a slot runs: its header is measured into M0. -/
def State.runFirstStage (s : State) (slot : Nat) : State :=
  let header := headerOf (s.flashImage slot)
  (s.setBoot fun b => { b with runFirst := slot, firstHeader := header }).extendImage 0 1 header

/-- The other first-stage slot is booted: event 0xA002. -/
def State.otherFirstStage (s : State) (slot : Nat) : State :=
  let s := s.log 0xA002 (domMp 0)
  match s.verifySlot false slot with
  | (true, s) => s.runFirstStage slot
  | (false, s) => s.bootFails

/-- ROM_BOOT_STAGE. -/
def execRomBootStage (s : State) : Host.Outcome State Fault Refusal :=
  act s fun s =>
    if !s.boot.good || s.boot.failed || s.boot.stage != 0 then s
    else
      let s := s.setBoot fun b => { b with count := (b.count + 1) % 2 ^ 32, triedFirst := false }
      let slot := s.boot.activeFirst
      let s := match s.verifySlot false slot with
        | (true, s) => s.runFirstStage slot
        | (false, s) => (s.setBoot fun b => { b with triedFirst := true }).otherFirstStage (1 - slot)
      s.on (!s.boot.failed) (·.stageEnds 0 0)

/-- The bundle of a slot runs, or, where it fails, that of the other slot. -/
def State.loadBundle (s : State) (slot : Nat) : State :=
  let run := fun (s : State) (slot : Nat) =>
    let hs := (splitImages 3 (s.flashImage (2 + slot))).map headerOf
    let s := s.setBoot fun b => { b with runBundle := slot, bundleHeaders := hs }
    let s := (s.clearMeasure 1).extendImage 1 2 (hs.getD 0 [])
    ((s.clearMeasure 2).extendImage 2 3 (hs.getD 1 [])).extendImage 2 4 (hs.getD 2 [])
  match s.verifySlot true slot with
  | (true, s) => run s slot
  | (false, s) =>
    match s.verifySlot true (1 - slot) with
    | (true, s) => run s (1 - slot)
    | (false, s) => s.bootFails

/-- Something that is not an image is measured. -/
def State.measure (s : State) (r item : Nat) (bs : List Byte) : State :=
  s.extend r (Config.itemCode item) (Config.sha3 bs)

/-- Values of the base camp, as they are measured. -/
def State.baseImage (s : State) : List Byte :=
  Config.baseCampImage (s.dict.base.map fun e => (e.1, e.2.getD (objDefault e.1))) s.dict.baseRecs

/-- The interleave modes take effect; the contents of a region whose mode changes are free (R356). -/
def State.latchModes (s : State) : State :=
  s.each [1, 2, 3] fun s d =>
    let mode := s.obj 0x5000 (3 + d)
    let s :=
      if s.boot.cold ∨ s.interleave d = mode then s
      else s.writeBytes ((Config.regionContents d).filter fun w => regionOf w.1 == d)
    s.setMem fun m => { m with modes := m.modes.set (d - 1) mode }

/-- Camps, keys and measurements of stage 1. The root list is read at a cold boot: a module warm reset does not reset the
time unit, and a list that has changed waits for a camp switch tick (R36, R38, R48). A root of source FREE starts hall time as soon as it has read it (R42). -/
def State.loadShadow (s : State) : State :=
  let s := s.loadCamp
  let s := (s.clearMeasure 3).measure 3 3 s.baseImage
  let s := s.measure 3 4 (s.campImage (s.obj 0xB000 1))
  let s := (s.clearMeasure 4).measure 4 5 (Config.keyListImage s.operatorKeys)
  let s := s.on s.boot.cold fun s => (s.setObj 0x8012 6 (s.obj 0x8012 2)).setObj 0x8012 7 0
  let s := (s.on (s.boot.cold || s.time.state == .unset) (·.setTime fun t => { t with roots := s.rootList })).latchModes
  s.on (s.source == 0 && s.ownIndex == some 0 && s.time.state == .unset) (·.startRoot 0 false)

/-- FIRST_BOOT_STAGE: with the pseudo-channels of stacks 0-7 that failed training. A module whose base camp copies both
fail, or whose identity key fails, does not report ready (R2, R404). -/
def execFirstBootStage (failed : List PseudoChan) (s : State) : Host.Outcome State Fault Refusal :=
  act s fun s =>
    if s.boot.failed || s.boot.stage != 1 then s
    else
      let s := s.each (List.range 8) fun s n => s.trainStack n (failed.map (·.val))
      let late := s.boot.trialBundle && !s.boot.otherBundle
      let s := s.on late fun s => (s.log 0xA002 (domMp 0)).setBoot fun b =>
        { b with trialBundle := false }
      let s := s.loadBundle (if s.boot.otherBundle then 1 - s.boot.activeBundle else s.boot.activeBundle)
      if s.boot.failed then s
      else if Config.baseCampOk s.boot.count && Config.identityOk then s.loadShadow.stageEnds 1 1
      else s.bootFails

/-- LINKS_AND_TIME_STAGE. -/
def execLinksAndTimeStage (s : State) : Host.Outcome State Fault Refusal :=
  act s fun s => if s.boot.failed || s.boot.stage != 2 then s else s.stageEnds 2 2

/-- Pseudo-channels retired past a limit of R362. -/
def State.retiredTooMany (s : State) : Bool :=
  decide (8 < s.memctl.retired.length) || (List.range 4).any fun d => decide (4 < s.retiredIn d)

/-- The retirement records are applied: at a cold boot every record takes effect, its contents being zero. -/
def State.applyRetirements (s : State) : State :=
  if !s.boot.cold then s
  else
    let s := { s with spans := (List.range 4).foldl (fun t d => Tbl.set 0 t d (s.retiredIn d)) s.spans }
    let s := s.each s.memctl.retired fun s p => s.setPc p { s.pcErr p with state := 3 }
    s.setMem fun m => { m with migrating := [] }

/-- READY becomes 1; a bundle on trial that runs becomes the active one. -/
def State.becomeReady (s : State) : State :=
  let s := s.alerting fun s => s.setObj 0x1000 8 1
  s.on s.trialRuns fun s => s.setBoot fun b =>
    { b with activeBundle := b.runBundle, trialBundle := false, otherBundle := false }

/-- MEMORY_BOOT_STAGE: with the pseudo-channels of stacks 8-31 that failed training. A module out of service does
not report ready. -/
def execMemoryBootStage (failed : List PseudoChan) (s : State) : Host.Outcome State Fault Refusal :=
  act s fun s =>
    if s.boot.failed || s.boot.stage != 3 then s
    else
      let s := s.each ((List.range 24).map (8 + ·)) fun s n => s.trainStack n (failed.map (·.val))
      let s := s.applyRetirements
      let s := (s.clearMeasure 5).measure 5 6 (Config.retirementImage s.memctl.retired)
      let s := s.on s.retiredTooMany (·.outOfService 0x5007)
      if s.obj 0x9003 1 = 1 then s.stageEnds 3 3 else s.becomeReady.stageEnds 3 4

/-- FIRST_STAGE_TIMEOUT: the ROM boots the other slot; when that does not end stage 1 either, both have failed. -/
def execFirstStageTimeout (s : State) : Host.Outcome State Fault Refusal :=
  act s fun s =>
    if s.boot.failed || s.boot.stage != 1 then s
    else if s.boot.triedFirst then s.bootFails
    else (s.setBoot fun b => { b with triedFirst := true }).otherFirstStage (1 - s.boot.runFirst)

/-- TRIAL_BUNDLE_TIMEOUT: the next boot uses the other slot, and logs event 0xA002. -/
def execTrialBundleTimeout (s : State) : Host.Outcome State Fault Refusal :=
  act s fun s =>
    if s.trialRuns ∧ 2 ≤ s.boot.stage ∧ s.boot.stage ≤ 3 then s.setBoot fun b => { b with otherBundle := false } else s

/-- PERST_DEASSERT: link training starts, independently of firmware. -/
def execPerstDeassert (s : State) : Host.Outcome State Fault Refusal :=
  act s fun s => s.setHost fun p => { p with linkUp := true }

/-- FAULT_N is high (R484). -/
def State.faultN (s : State) : Bool :=
  !s.down && s.boot.good && decide (1 ≤ s.boot.stage) && s.obj 0x9003 1 == 0 && !s.boot.failed

/-! ### Module resets (R418) -/

/-- An RO object of a unit that a module warm reset restarts. -/
def restarts (k : Nat) : Bool :=
  let idx := k / 256
  (match objRow k with | some r => decide (r.acc = .ro) | none => false) &&
  ((decide (0x2010 ≤ idx) && decide (idx ≤ 0x2016)) || idx / 0x1000 == 4 ||
   (idx / 0x1000 == 6 && idx != 0x6005) || idx / 0x1000 == 7 || idx / 0x1000 == 8 || idx == 0x1002 ||
   idx == 0xA000 || k == okey 0x1000 8 || k == okey 0x9003 3 || k == okey 0x9003 4)

/-- The dictionary through a module warm reset: values in force stay, RO objects follow their units, and sessions and
what they had under way are gone. -/
def Dict.warm (d : Dict) : Dict :=
  { Dict.reset with
    objs := d.objs.filter fun e => !restarts e.1
    recs := d.recs.filter fun e => !restarts e.1
    base := d.base
    baseRecs := d.baseRecs
    camps := d.camps
    overlay := d.overlay }

/-- The links of a module that has been reset: each that has a role trains (R94). -/
def State.linksDown (s : State) : State :=
  { s with links := [] }.each (List.range 64) fun s l => s.setObj 0x6002 l (if s.role l = 0 then 7 else 0)

/-- A module warm reset writes M1-M5 afresh and no other measurement (R457, R462). -/
def warmMeasures : List Nat := [1, 2, 3, 4, 5]

/-- A module warm reset: everything but the always-on island, the time units and HBM contents. A sweep in progress
runs to its end (R291). -/
def State.warmReset (s : State) : State :=
  let s := (s.releaseHolds 0xA000).flushBreaks
  let s := s.on s.training State.endSweep
  let s := s.disarmCamp.disarmBankSwitch
  let s := s.clearCores
  let s := { s with
    tt := .reset
    hold := { HallHold.reset with ownSeq := s.hold.ownSeq }
    fabric := .reset
    mailboxes := []
    deltas := []
    regions := []
    watch := .reset
    train := .reset
    rope := .reset
    job := .reset
    dict := s.dict.warm
    host := { HostPort.reset with linkUp := s.host.linkUp }
    faults := { s.faults with
      streams := []
      recovery := []
      recovered := []
      sessResets := []
      deadSessions := []
      diesDown := []
      mpsDown := [] }
    supply := { s.supply with
      dieWakes := []
      bivouacWaking := false
      holdSeq := none
      govSeq := none }
    memctl := { s.memctl with
      trained := []
      failed := [] } }
  let s := s.each warmMeasures State.clearMeasure
  (s.setBoot fun b => { b with
    stage := 1
    cold := false
    owner := none
    staging := []
    stagingEnd := 0
    install := none
    reports := []
    jobId := 0
    asked := 0 }).linksDown

/-- MODULE_WARM_RESET: boot goes on with stage 1; a module that was ready reports NOT_READY anew (R486). -/
def execModuleWarmReset (s : State) : Host.Outcome State Fault Refusal :=
  act s fun s =>
    if s.boot.good && !s.boot.failed && decide (1 ≤ s.boot.stage) then s.alerting State.warmReset else s

/-- A module cold reset: everything as at power-up but the flash; the supply stays, and the straps as they were
sampled. -/
def State.coldReset (s : State) : State :=
  let straps := s.obj 0x1000 9
  let s := (s.releaseHolds 0xB000).flushBreaks.disarmCamp.streamAll
  let t := s.flashOnly
  { t with
    supply := { Supply.reset with
      mv := s.supply.mv
      ma := s.supply.ma
      bank := s.supply.bank
      connected := s.supply.connected
      dieTemps := s.supply.dieTemps
      stackTemps := s.supply.stackTemps
      lidTemp := s.supply.lidTemp }
    host := { HostPort.reset with linkUp := s.host.linkUp } }.setObj 0x1000 9 straps

/-- MODULE_COLD_RESET. -/
def execModuleColdReset (s : State) : Host.Outcome State Fault Refusal :=
  act s fun s => if s.boot.good then s.coldReset else s

/-! ### Die resets (R418, R428, R432) -/

/-- Free contents written over the keys that a test selects. -/
def overwrite (m : Memory) (ws : List (Nat × Byte)) (mine : Nat → Bool) : Memory :=
  (ws.filter fun w => mine w.1).foldl (fun m w => Tbl.set 0 m w.1 w.2) m

/-- The stores, maps and instruction memories of a C-die's cores hold free contents after its reset. -/
def State.loseStores (s : State) (d : Nat) : State :=
  let (_, t) := s.draw
  let mine := fun c => c / 48 == d
  { t with
    stores := overwrite t.stores (Config.dieStores s.drawn) fun k => mine (k / 2 ^ 25)
    maps := overwrite t.maps (Config.dieMaps s.drawn) fun k => mine (k / 4096)
    imem := ((Config.dieImem s.drawn).filter fun w => mine (w.1 / 4096)).foldl
      (fun m w => Tbl.set 0 m w.1 w.2) t.imem }

/-- The engines of a C-die stop, and their sweeps wait to be resumed. -/
def State.enginesDown (s : State) (d : Nat) : State :=
  s.each (List.range 8) fun s i =>
    let n := 8 * d + i
    s.setEngineSt n { s.engineSt n with tcache := [], stopped := true, pace := s.now }

/-- The reset of a C-die. -/
def State.dieReset (s : State) (d cause : Nat) : State :=
  let s := s.each (List.range 96) fun s i => s.moverReset (96 * d + i)
  let s := s.each (List.range 48) fun s i => s.coreReset (48 * d + i)
  let s := s.each (List.range 48) fun s i => s.setCore (48 * d + i) .reset
  let s := ((s.enginesDown d).releaseHolds (domDie d)).loseStores d
  let s := s.setDie d .awake
  let s := s.setFaults fun f => { f with
    diesDown := insertAsc d f.diesDown
    recovery := f.recovery.filter fun e => e.1 / 48 != d }
  s.log 0x9002 (domDie d) [(16, domDie d), (8, cause)]

/-- DIE_CONTROLLER_FAULT: a counted reset of the C-die; the job stage fails with cause 0x10. -/
def execDieControllerFault (die : Die) (s : State) : Host.Outcome State Fault Refusal :=
  act s fun s =>
    if s.faults.diesDown.contains die.val then s
    else (s.faultCount 0x10).countedReset fun s => (s.dieReset die 0x10).jobFail 0x10

/-- DIE_RESET_COMPLETE: the die is in service again, or the module goes out of service. -/
def execDieResetComplete (die : Fin 6) (ok : Bool) (s : State) : Host.Outcome State Fault Refusal :=
  act s fun s =>
    if !s.faults.diesDown.contains die.val then s
    else if ok then
      let s := s.setFaults fun f => { f with diesDown := f.diesDown.erase die }
      let s := s.each ((List.range 32).filter (· / 8 == die.val)) fun s n =>
        s.setEngineSt n { s.engineSt n with stopped := false, pace := s.now }
      s.on (s.training && recState s.stepRec == 1) State.resumeSweeps
    else s.outOfService 0x9002

/-! ### Watchdogs (R436, R465) -/

/-- What the management processor of H-die 0 held: the armed camp switch, the DXP sessions, and what it had under
way. -/
def State.firmwareLost (s : State) : State :=
  let s := s.disarmCamp
  let s := s.each (s.dict.sessions.map (·.number)) State.closeSession
  let s := s.setDict fun d => { d with
    hellos := []
    groupKey := none
    groupSeq := none
    persist := []
    waiting := []
    ownRequests := [] }
  let s := s.setBoot fun b => { b with install := none }
  let s := s.setTrain fun t => { t with restoring := none, belayAsked := false }
  s.setHost fun p => { p with mboxStatus := 1 }

/-- The hold of a management processor's reset: sent by the junction, and never resumed. -/
def State.holdForever (s : State) (cause : Nat) : State :=
  let (seq, s) := s.originateHold cause
  s.setHold fun h => { h with own := h.own.filter (·.1 != seq) }

/-- WATCHDOG_EXPIRE. -/
def execWatchdogExpire (die : HDie) (s : State) : Host.Outcome State Fault Refusal :=
  act s fun s =>
    if s.faults.mpsDown.contains die.val then s
    else
      let s := (s.count 0xA004 2).log 0x900B (domMp die)
      s.countedReset fun s =>
        let s := s.log 0x9002 (domMp die) [(16, domMp die), (8, 0x0B)]
        let s := s.setFaults fun f => { f with mpsDown := insertAsc die f.mpsDown }
        let s := s.faultCount 0x0B
        let s := (s.releaseHolds (domMp die)).on (die.val == 0) State.firmwareLost
        let s := s.on s.tt.active.isSome (·.holdForever 0x0B)
        s.jobFail 0x0B

/-- MP_RESTART_COMPLETE: it runs again from the verified firmware in the shadow. -/
def execMpRestartComplete (die : HDie) (s : State) : Host.Outcome State Fault Refusal :=
  act s fun s =>
    if !s.faults.mpsDown.contains die.val then s
    else
      let s := s.setFaults fun f => { f with mpsDown := f.mpsDown.erase die }
      s.on (die.val == 0) fun s => s.setHost fun p => { p with mboxStatus := 0 }

end Sys2Proof.Machine
end

