-- ==== Sys2Proof/Machine/Smbus.lean ====
section
/-!
DEFINITION. The SMBus target (R482, R485, R486).
-/

namespace Sys2Proof.Machine

/-! ### LINEAR11 -/

/-- a / b rounded to nearest, ties to even. -/
def nearest (a : Int) (b : Nat) : Int :=
  let q := a / b
  let r := 2 * (a % b)
  if r < b then q else if (b : Int) < r then q + 1 else if q % 2 = 0 then q else q + 1

/-- The mantissa of a / b for an exponent. -/
def mantissa (a : Int) (b : Nat) (n : Int) : Int :=
  if 0 ≤ n then nearest a (b * 2 ^ n.toNat) else nearest (a * 2 ^ (-n).toNat) b

/-- A value a / b in PMBus LINEAR11: the exponent in bits 15-11, the mantissa in bits 10-0, with the smallest exponent
that keeps the mantissa in range. -/
def linear11 (a : Int) (b : Nat) : Nat :=
  let fits := fun i : Nat =>
    let n := (i : Int) - 16
    let y := mantissa a b n
    if -1024 ≤ y ∧ y ≤ 1023 then some (unsext 5 n * 2048 + unsext 11 y) else none
  ((List.range 32).findSome? fits).getD 0

/-! ### Reads -/

/-- The target answers from power-good until power failure, in every other state. -/
def State.smbusAnswer (s : State) (data : List Byte) : State := s.on s.boot.good (·.emit (.smbus data))

/-- A block read: the byte count, then the bytes. -/
def block (data : List Byte) : List Byte := BitVec.ofNat 8 data.length :: data

/-- The hottest of `n` sensors. -/
def hottest (temps : List Int) (n : Nat) : Int :=
  (List.range n).foldl (fun t i => max t (temps.getD i 0)) (temps.getD 0 0)

/-- READ_VIN: INPUT_V in volts. -/
def execReadVin (s : State) : Host.Outcome State Fault Refusal :=
  act s fun s => s.smbusAnswer (leBytes 2 (linear11 s.supply.mv 1000))

/-- READ_IIN: INPUT_I in amperes. -/
def execReadIin (s : State) : Host.Outcome State Fault Refusal :=
  act s fun s => s.smbusAnswer (leBytes 2 (linear11 s.supply.ma 1000))

/-- READ_TEMPERATURE_1: the hottest die. -/
def execReadTemperature1 (s : State) : Host.Outcome State Fault Refusal :=
  act s fun s => s.smbusAnswer (leBytes 2 (linear11 (hottest s.supply.dieTemps 6) 1))

/-- READ_TEMPERATURE_2: the hottest stack. -/
def execReadTemperature2 (s : State) : Host.Outcome State Fault Refusal :=
  act s fun s => s.smbusAnswer (leBytes 2 (linear11 (hottest s.supply.stackTemps 32) 1))

/-- READ_TEMPERATURE_3: the lid. -/
def execReadTemperature3 (s : State) : Host.Outcome State Fault Refusal :=
  act s fun s => s.smbusAnswer (leBytes 2 (linear11 s.supply.lidTemp 1))

/-- READ_PIN: INPUT_P in watts. -/
def execReadPin (s : State) : Host.Outcome State Fault Refusal :=
  act s fun s => s.smbusAnswer (leBytes 2 (linear11 (s.drawNow / 1000 : Nat) 1))

/-- PMBUS_REVISION. -/
def execPmbusRevision (s : State) : Host.Outcome State Fault Refusal :=
  act s fun s => s.smbusAnswer [0x44]

/-- MFR_STATUS (R486). -/
def execMfrStatus (s : State) : Host.Outcome State Fault Refusal :=
  act s fun s => s.smbusAnswer (leBytes 2 s.mfrStatus.toNat)

/-- MFR_STATE: READY, BOOT_STAGE, SUPPLY_STATE, ACTIVE_KIND. -/
def execMfrState (s : State) : Host.Outcome State Fault Refusal :=
  act s fun s => s.smbusAnswer (block ([s.obj 0x1000 8, s.obj 0xA000 1, s.supply.state, s.kind].map (BitVec.ofNat 8)))

/-- MFR_CAUSE: OOS_CAUSE, JOB_FAIL_CAUSE and a zero byte. -/
def execMfrCause (s : State) : Host.Outcome State Fault Refusal :=
  act s fun s => s.smbusAnswer (block (leBytes 2 (s.obj 0x9003 2) ++ leBytes 1 (s.obj 0x9003 4) ++ [0]))

/-- MFR_MODULE. -/
def execMfrModule (s : State) : Host.Outcome State Fault Refusal :=
  act s fun s => s.smbusAnswer (block (leBytes 2 s.moduleNumber))

/-- MFR_SERIAL. -/
def execMfrSerial (s : State) : Host.Outcome State Fault Refusal :=
  act s fun s => s.smbusAnswer (block Config.serial)

/-- MFR_ENERGY: ENERGY in mJ. -/
def execMfrEnergy (s : State) : Host.Outcome State Fault Refusal :=
  act s fun s => s.smbusAnswer (block (leBytes 8 (s.supply.energy / 1000000)))

/-- The codes that a read may name. -/
def smbusCodes : List Nat :=
  [0x88, 0x89, 0x8D, 0x8E, 0x8F, 0x97, 0x98, 0xD0, 0xD1, 0xD2, 0xD3, 0xD4, 0xD5]

/-- SMBUS_INVALID: every write, and a read of a code not listed, is NACKed. -/
def execSmbusInvalid (code : BitVec 8) (write : Bool) (s : State) : Host.Outcome State Fault Refusal :=
  act s fun s => s.on (s.boot.good && (write || !smbusCodes.contains code.toNat)) (·.emit .smbusNack)

/-- ALERT_RESPONSE: a module that asserts SMB_ALERT_N returns its address and releases it; any other does not answer. -/
def execAlertResponse (s : State) : Host.Outcome State Fault Refusal :=
  act s fun s =>
    if s.boot.alert then
      (s.setBoot fun b => { b with alert := false }).smbusAnswer [BitVec.ofNat 8 (0x58 + s.obj 0x1000 9 / 2 % 8)]
    else s.on s.boot.good (·.emit .smbusNack)

end Sys2Proof.Machine
end

