-- ==== Sys2Proof/Machine/HostRing.lean ====
section
/-!
DEFINITION. The command and completion rings, the BAR2 window and the reset of the host function (R447-R451, R455).
-/

namespace Sys2Proof.Machine

/-! ### Entries (R451) -/

def eVersion (e : Nat) : Nat := fld e 511 508
def eOpcode (e : Nat) : Nat := fld e 507 500
def eTag (e : Nat) : Nat := fld e 499 484
/-- Argument An. -/
def eArg (e n : Nat) : Nat := fld e (64 * n + 63) (64 * n)

/-- A completion entry. -/
def completionEntry (phase : Bool) (opcode tag status : Nat) (words : List Nat) : BitVec 256 :=
  0x2#4 ++ BitVec.ofBool phase ++ BitVec.ofNat 8 opcode ++ BitVec.ofNat 16 tag ++ BitVec.ofNat 8 status ++ 0#27 ++
  BitVec.ofNat 64 (words.getD 2 0) ++ BitVec.ofNat 64 (words.getD 1 0) ++ BitVec.ofNat 64 (words.getD 0 0)

/-- The completion of a command is written, vector 0 fires, and a refusal logs event 0xA00C. -/
def State.complete (s : State) (e status : Nat) (words : List Nat) : State :=
  let s := s.setHost fun p => { p with
    completions := Tbl.set 0 p.completions p.cplTail (completionEntry p.phase (eOpcode e) (eTag e) status words)
    cplTail := (p.cplTail + 1) % 256
    phase := if p.cplTail = 255 then !p.phase else p.phase }
  (s.on (status != 0) (·.log 0xA00C (domMp 0) [(8, eOpcode e), (8, status)])).interrupt 0

/-- What a command does: its STATUS, its RESULT words and the state that it leaves. -/
abbrev Result := Nat × List Nat × State

def State.done (s : State) : Result := (0, [], s)
def State.fails (s : State) (status : Nat) (word : Nat := 0) : Result := (status, [word], s)

/-- The bits of the arguments that a command's row names; the others of these arguments are reserved. -/
def argMask (opcode n : Nat) : Nat :=
  match opcode, n with
  | 3, 0 => 1
  | 4, 1 => 0x1FFF1FFF
  | 5, 0 => 0xFFFFF
  | 6, 0 | 7, 0 => 0x7FF
  | 11, 0 => 1
  | 11, 4 => 0xFF
  | _, _ => 2 ^ 64 - 1

/-- The entry's version and its reserved fields are as R451 and R452 give them. -/
def entryOk (e : Nat) : Bool :=
  decide (eVersion e = 2) && decide (1 ≤ eOpcode e) && decide (eOpcode e ≤ 0xB) && decide (fld e 483 448 = 0) &&
  (List.range 7).all fun n => Nat.land (eArg e n) (argMask (eOpcode e) n) == eArg e n

/-- The processor of H-die 0 is up: a command waits until it has restarted (R465). -/
def State.mpUp (s : State) : State :=
  if s.faults.mpsDown.contains 0 then
    (s.setFaults fun f => { f with mpsDown := f.mpsDown.erase 0 }).setHost fun p => { p with mboxStatus := 0 }
  else s

/-- The entry is taken from the ring, where the host wrote it at CMD_TAIL; with the completion ring full it waits until
the host has advanced CPL_HEAD. -/
def State.takeEntry (s : State) (e : BitVec 512) : State :=
  s.setHost fun p => { p with
    commands := Tbl.set 0 p.commands p.cmdTail e
    cmdTail := (p.cmdTail + 1) % 256
    cmdHead := (p.cmdTail + 1) % 256
    cplHead := if (p.cplTail + 1) % 256 = p.cplHead then p.cplTail else p.cplHead }

/-- A command of the ring: executed once management firmware runs, and completed. An entry whose opcode is another
command's is not this one; a reserved opcode is completed with STATUS 0x01 by any. -/
def hostCommand (opcode : Nat) (e : BitVec 512) (run : Nat → State → Result) (s : State) :
    Host.Outcome State Fault Refusal :=
  act s fun s =>
    let w := e.toNat
    if s.boot.stage < 2 || (eOpcode w != opcode && decide (1 ≤ eOpcode w) && decide (eOpcode w ≤ 0xB)) then s
    else
      let s := s.mpUp.takeEntry e
      let r := if entryOk w then run w s else (1, [], s)
      (r.2.2.complete w r.1 r.2.1).streamAll

/-! ### Memory that an argument names -/

/-- `n` bytes of software-visible memory at an address: `f` of them, or STATUS 0x05, or 0x07 for a poisoned one. -/
def State.fetchArg (s : State) (a n : Nat) (f : List Byte → Result) : Result :=
  if !s.visible a n then s.fails 5
  else if s.poisoned a n then (s.readPoison a n).fails 7
  else f (s.read a n)

/-! ### BAR2 (R448) -/

/-- The access is served: the bytes lie in software-visible memory, and a loaded job grants them to HOST_KEY. -/
def State.bar2Ok (s : State) (write : Bool) (a n : Nat) : Bool :=
  s.visible a n && (!s.job.loaded || s.granted (BitVec.ofNat 8 (s.obj 0xA000 5)) write a n)

/-- A blocked access is counted, and logs event 0xA008. -/
def State.bar2Blocked (s : State) (a : Nat) : State := (s.count 0xA000 6).log 0xA008 domHost [(48, a)]

/-- BAR2_READ: a blocked read completes with all-ones data; poisoned memory returns a free value. -/
def execBar2Read (offset : BitVec 41) (len : Nat) (s : State) : Host.Outcome State Fault Refusal :=
  act s fun s =>
    let a := s.host.windowBase + offset.toNat
    if !s.configUp then s
    else if !s.bar2Ok false a len then (s.bar2Blocked a).emit (.hostData (List.replicate len 0xFF))
    else if s.poisoned a len then
      let (n, s) := (s.readPoison a len).draw
      s.emit (.hostData (leBytes len n))
    else s.emit (.hostData (s.read a len))

/-- BAR2_WRITE: a blocked write is discarded. -/
def execBar2Write (offset : BitVec 41) (data : List Byte) (s : State) : Host.Outcome State Fault Refusal :=
  act s fun s =>
    let a := s.host.windowBase + offset.toNat
    if !s.configUp then s
    else if s.bar2Ok true a data.length then s.write a data
    else s.bar2Blocked a

/-! ### Function Level Reset (R449) -/

/-- HOST_FUNCTION_RESET: the host function domain, and nothing else of the module. -/
def execHostFunctionReset (s : State) : Host.Outcome State Fault Refusal :=
  act s fun s =>
    let s := s.releaseHolds domHost
    let s := s.setHost fun p => { p with
      cmdTail := 0
      cmdHead := 0
      cplTail := 0
      cplHead := 0
      windowBase := 0
      phase := true
      mboxStatus := if s.faults.mpsDown.contains 0 then 1 else 0
      unmasked := [] }
    let s := s.each ((s.dict.sessions.filter (·.transport == 0)).map (·.number)) State.closeSession
    let s := s.setDict fun d => { d with waiting := d.waiting.filter (·.transport != 0) }
    s.log 0xA009 domHost

end Sys2Proof.Machine
end

