-- ==== Sys2Proof/Machine/HostCmds.lean ====
section
/-!
DEFINITION. The commands of the ring that act on cores, banks, flow contexts and memory (R452).
-/

namespace Sys2Proof.Machine

/-! ### Timetable banks (R63, R452) -/

/-- The entry counts at the head of a bank's image. -/
def bankCounts (bs : List Byte) : List Nat := (List.range 64).map fun l => leAt bs (4 * l) 4

/-- Address of table `l` within an image, from its start. -/
def tableAt (counts : List Nat) (l : Nat) : Nat := 256 + 32 * (counts.take l).foldl (· + ·) 0

/-- The first value of a bank's objects that lies out of its object's range. -/
def bankRange (vs : List (Nat × Nat)) : Option Nat :=
  (vs.find? fun e => match objRow e.1 with
    | some r => !inRange r e.1 e.2
    | none => true).map (·.1)

/-- The objects of bank `b` that TT_LOAD sets. -/
def bankValues (b : Nat) (e : Nat) (counts : List Nat) : List (Nat × Nat) :=
  [(okey 0x2010 (2 + b), eArg e 2), (okey 0x2010 (4 + b), eArg e 3), (okey 0x2010 (6 + b), eArg e 4),
    (okey 0x3002 (5 + b), eArg e 5), (okey 0x3002 (7 + b), eArg e 6)] ++
  ((List.range 64).zip counts).map fun x => (okey (0x2011 + b) (0x40 + x.1), x.2)

/-- TT_LOAD: the image is copied into a bank that is free, its objects are set, and both checks run. -/
def State.loadTables (s : State) (e : Nat) : Result :=
  let b := eArg e 0 % 2
  let a := eArg e 1
  if s.tt.active.any (·.val == b) then s.fails 2 (okey 0x2010 1)
  else if s.tt.switch.any (·.val == b) then s.fails 2 (okey 0x2010 9)
  else s.fetchArg a 256 fun head =>
    let counts := bankCounts head
    match bankRange (bankValues b e counts) with
    | some k => s.fails 3 k
    | none =>
      s.fetchArg a (tableAt counts 64) fun image =>
        let s := s.setArmed b false
        let s := s.each (bankValues b e counts) fun s x => s.setObj (x.1 / 256) (x.1 % 256) x.2
        let s := s.each (List.range 64) fun s l =>
          s.write (bankTable b l 0) ((image.drop (tableAt counts l)).take (32 * counts.getD l 0))
        let r := s.checkBank b
        let words := [leNat (r.1.recOf 0x2010 0xA), leNat (r.1.recOf 0x3002 9)]
        (if r.2.1.isNone ∧ r.2.2.isNone then 0 else 3, words, r.1)

/-- TT_LOAD. -/
def execTtLoad (e : BitVec 512) (s : State) : Host.Outcome State Fault Refusal :=
  hostCommand 3 e (fun e s => s.loadTables e) s

/-! ### Cores (R213) -/

/-- The core that A0 names, and the context. -/
def argCore (e : Nat) : Nat := fld (eArg e 0) 7 0
def argCtx (e : Nat) : Nat := fld (eArg e 0) 10 8

/-- A command to a core: 0x03 where there is no such core. -/
def State.onCore (s : State) (c : Nat) (f : State → Result) : Result :=
  if c < 192 then f (s.wakeCore c) else s.fails 3 452

/-- IMEM_LOAD. -/
def execImemLoad (e : BitVec 512) (s : State) : Host.Outcome State Fault Refusal :=
  hostCommand 4 e (fun e s =>
    let first := fld (eArg e 1) 12 0
    let count := fld (eArg e 1) 28 16
    s.onCore (eArg e 0) fun s =>
      if count = 0 ∨ 4096 < count ∨ 4096 < first + count then s.fails 3 213
      else s.fetchArg (eArg e 2) (16 * count) fun _ =>
        if s.residentBusy (eArg e 0) then s.fails 6 (Config.refusalReason 4)
        else (s.loadImem (eArg e 0) first count (eArg e 2)).done) s

/-- CTX_START: the context counts as started by the host (R456). -/
def execCtxStart (e : BitVec 512) (s : State) : Host.Outcome State Fault Refusal :=
  hostCommand 5 e (fun e s =>
    let c := argCore e
    let x := argCtx e
    s.onCore c fun s => s.fetchArg (eArg e 2) 128 fun bs =>
      if !(s.ctx c x).startable then s.fails 6 (Config.refusalReason 5)
      else
        let regs := (List.range 15).map fun i => BitVec.ofNat 64 (leAt bs (8 * i) 8)
        let s := s.startCtx c x (bitAt (eArg e 0) 11) (BitVec.ofNat 8 (fld (eArg e 0) 19 12))
          (BitVec.ofNat 44 (eArg e 1)) regs (BitVec.ofNat 7 (leAt bs 120 1))
        (s.setHost fun p => { p with started := p.started ++ [ctxKey c x] }).done) s

/-- CTX_STOP. -/
def execCtxStop (e : BitVec 512) (s : State) : Host.Outcome State Fault Refusal :=
  hostCommand 6 e (fun e s =>
    s.onCore (argCore e) fun s => (s.countStalls.stopCtx (argCore e) (argCtx e)).done) s

/-- What CTX_READ writes: status word, register image, loop stack. -/
def CtxSt.image (v : CtxSt) : List Byte :=
  leBytes 16 v.word.toNat ++ ((List.range 15).flatMap fun i => leBytes 8 (v.s (i + 1)).toNat) ++
  leBytes 8 (v.preds.toNat / 2) ++
  fit 24 (Config.loopImage (v.loops.map fun f => [f.first, f.last, f.left, f.reg, f.iter]))

/-- CTX_READ. -/
def execCtxRead (e : BitVec 512) (s : State) : Host.Outcome State Fault Refusal :=
  hostCommand 7 e (fun e s =>
    s.onCore (argCore e) fun s =>
      if !s.visible (eArg e 1) 168 then s.fails 5
      else (s.write (eArg e 1) (s.ctx (argCore e) (argCtx e)).image).done) s

/-! ### Flow contexts (R107-R109) -/

/-- A command to a flow context: 0x03 where there is no such context. -/
def State.onFlow (s : State) (c : Nat) (f : State → Result) : Result :=
  if c < 262144 then f s else s.fails 3 106

/-- FLOW_OPEN. -/
def execFlowOpen (e : BitVec 512) (s : State) : Host.Outcome State Fault Refusal :=
  hostCommand 8 e (fun e s =>
    let c := eArg e 0
    s.onFlow c fun s => s.fetchArg (eArg e 1) 128 fun bs =>
      let w := leNat bs
      if (s.flow c).state ≠ .free then s.fails 3 108
      else if !flowOk w then s.fails 3 107
      else if fld w 674 664 < 16 then s.fails 3 452
      else (((s.useFlow c).setFlow c (flowOf w)).count 0x6010 3).done) s

/-- FLOW_CLOSE. -/
def execFlowClose (e : BitVec 512) (s : State) : Host.Outcome State Fault Refusal :=
  hostCommand 9 e (fun e s =>
    let c := eArg e 0
    s.onFlow c fun s =>
      let s := s.useFlow c
      let f := s.flow c
      match f.state with
      | .free => s.done
      | .broken => (s.setFlow c .reset).done
      | .opened => ((s.sendBreak c f).endFlow c .reset fun s => s).done) s

/-- FLOW_HEAD: the new consumer offset lies in the filled part of the ring, its end included. -/
def execFlowHead (e : BitVec 512) (s : State) : Host.Outcome State Fault Refusal :=
  hostCommand 0xA e (fun e s =>
    let c := eArg e 0
    let h := eArg e 1
    s.onFlow c fun s =>
      let s := s.useFlow c
      let f := s.flow c
      let size := 2 ^ f.ringLog2.toNat
      let head := f.ringHead.toNat
      let filled := (f.ringTail.toNat + size - head % size) % size
      if f.ringLog2 = 0 ∨ size ≤ h ∨ filled < (h + size - head % size) % size then s.fails 3 452
      else ((s.setFlow c { f with ringHead := BitVec.ofNat 24 h }).renewLease c).done) s

/-! ### Bulk copies (R452) -/

/-- The STATUS of a piece that a bulk copy cannot access. -/
def bulkStatus (code : Nat) : Nat := if code = 0x13 then 7 else 5

/-- The pieces of a bulk copy with their physical addresses, up to the first that cannot be accessed, and its STATUS. -/
def State.bulkPieces (s : State) (ps : List TcEntry) (key : BitVec 8) (write : Bool) :
    List (Nat × Nat) → List (Nat × Nat) × Nat
  | [] => ([], 0)
  | (va, n) :: rest =>
    match s.xlate1 ps key write va n with
    | .error c => ([], bulkStatus c)
    | .ok pa =>
      let r := s.bulkPieces ps key write rest
      ((pa, n) :: r.1, r.2)

/-- Pieces of an access of `n` bytes, cut to `m` bytes. -/
def cutPieces : Nat → List (Nat × Nat) → List (Nat × Nat)
  | _, [] => []
  | m, (a, n) :: rest => if m = 0 then [] else (a, min m n) :: cutPieces (m - n) rest

/-- Bytes are written over pieces of physical memory. -/
def State.writePieces (s : State) : List (Nat × Nat) → List Byte → State
  | [], _ => s
  | (a, n) :: rest, bs => (s.write a (bs.take n)).writePieces rest (bs.drop n)

/-- BULK_COPY: 64 bytes at a time. A copy that fails has copied any number of them from the start, up to the one it fails
at. -/
def State.bulkCopy (s : State) (e : Nat) (bus : List Byte) (busError : Bool) : Result :=
  let out := bitAt (eArg e 0) 0
  let va := eArg e 2
  let len := eArg e 3
  let key := BitVec.ofNat 8 (eArg e 4)
  if s.obj 0xB020 4 ≠ 2 then s.fails 4 (okey 0xB020 4)
  else if len = 0 ∨ len % 64 ≠ 0 ∨ 2 ^ 32 < len ∨ 2 ^ 48 < va + len then s.fails 3 452
  else
    let ps := s.walkPages va len
    let r := s.bulkPieces ps key (!out) (pieces va len)
    let total := r.1.foldl (fun n p => n + p.2) 0
    let status := if r.2 ≠ 0 then r.2 else if busError then 8 else 0
    let (n, s) := s.draw
    let part := if status = 0 then total else min total (64 * (n % (total / 64 + 1)))
    let cut := cutPieces part r.1
    let s :=
      if out then s.on (part != 0) (·.emit (.hostWrite (eArg e 1) (cut.flatMap fun p => s.read p.1 p.2)))
      else s.writePieces cut (fit part bus)
    (status, [], s)

/-- BULK_COPY. -/
def execBulkCopy (e : BitVec 512) (bus : List Byte) (busError : Bool) (s : State) :
    Host.Outcome State Fault Refusal :=
  hostCommand 0xB e (fun e s => s.bulkCopy e bus busError) s

end Sys2Proof.Machine
end

