-- ==== Sys2Proof/Machine/JobLoad.lean ====
section
/-!
DEFINITION. Loading and unloading a job (R453, R454).
-/

namespace Sys2Proof.Machine

/-! ### The manifest -/

def jClock (m : List Byte) : Nat := leAt m 4 2
def jHostKey (m : List Byte) : Nat := leAt m 6 1
def jId (m : List Byte) : Nat := leAt m 8 8
def jTree (m : List Byte) : Nat := leAt m 16 8
def jRegions (m : List Byte) : Nat := leAt m 24 8
def jCount (m : List Byte) : Nat := leAt m 32 2
def jKeys (m : List Byte) : Nat := leAt m 40 8

/-- The manifest is as R453 lays it out. -/
def manifestOk (m : List Byte) : Bool :=
  decide (leAt m 0 1 = 2) && allZero (piece m 1 3) && allZero (piece m 7 1) && allZero (piece m 34 6) &&
  allZero (piece m 48 12) && decide (700 ≤ jClock m) && decide (jClock m ≤ 1050) && decide (jClock m % 50 = 0) &&
  decide (jCount m ≤ 256) && decide (crc32c (m.take 60 ++ List.replicate 4 0) = leAt m 60 4)

/-- Entry `n` of the region table that the manifest names. -/
def regionWord (bs : List Byte) (n : Nat) : BitVec 128 := BitVec.ofNat 128 (leAt bs (16 * n) 16)

/-! ### Checks -/

/-- A refusal of JOB_LOAD: STATUS and RESULT words. -/
abbrev LoadFault := Nat × List Nat

/-- What refuses a load before its manifest is read: RESULT word 0 names the rule. -/
def State.loadState (s : State) : Option LoadFault :=
  if s.job.loaded || !s.timeOk then some (2, [])
  else if s.obj 0x9003 1 = 1 then some (3, [432])
  else if s.kind = 6 then some (3, [373])
  else if s.campArmed && (s.switchForbids (s.obj 0xB000 3)).isSome then some (3, [411])
  else none

/-- The tree, the region table and the retirement spans in force after the load can be installed. -/
def State.tablesFault (s : State) (m regs : List Byte) : Option LoadFault :=
  if jTree m % 4096 ≠ 0 ∨ memTop < jTree m + 4096 then some (3, [okey 0x4040 1])
  else ((List.range (jCount m)).find? fun n => !s.regionEntryOk (regionWord regs n).toNat).map fun n =>
    (3, [okey 0x4041 n])

/-- A fabric link that is up with a filtered delay above the bound (R74). -/
def State.delayFault (s : State) : Option LoadFault :=
  ((List.range 64).find? fun l =>
    s.role l == 1 && s.linkUp l && decide (64 * s.obj 0x2013 2 < s.obj 0x2005 l)).map fun l =>
      (3, [okey 0x2013 2, l])

/-- The first entry of the replica list that breaks R310; 0 for the list as a whole. -/
def State.replicaFault (s : State) : Option Nat :=
  let n := s.replicaCount
  let me := s.moduleNumber
  if n ≤ 1 then none
  else ((List.range n).find? fun r =>
      (r != 0 && decide (s.replicaModule r ≤ s.replicaModule (r - 1))) ||
      (s.replicaModule r != me && (s.flow (s.replicaCtx r)).state != .opened)).map (· + 1) |>.orElse fun _ =>
    if (List.range n).any (s.replicaModule · == me) then none else some 0

/-- FP_OFFSET < FP_CHECK_OFFSET < NORM_OFFSET, all multiples of 20 ns (R312); a job without training state makes no
fingerprint check (R272). -/
def State.offsetsOk (s : State) : Bool :=
  let a := s.obj 0x8014 1
  let b := s.obj 0x8014 2
  let c := s.obj 0x8000 9
  s.obj 0x8000 6 == 0 ||
  (decide (a < b) && decide (b < c) && decide (a % 20 = 0) && decide (b % 20 = 0) && decide (c % 20 = 0))

/-- The state in memory is left RESTORED by a restore or a fresh start that failed or has not ended (R277, R296). -/
def State.leftRestored (s : State) : Bool :=
  s.obj 0x8000 6 != 0 && (s.train.restoring.isSome || recState s.stepRec == 2)

/-- The stage keys of a core's STORE_KEYS. -/
def storeKeys (w : Nat) : List Nat := [fld w 7 0, fld w 15 8, fld w 23 16, fld w 31 24]

def teacherKey (k : Nat) : Bool := decide (0x80 ≤ k)

/-- Two region entries share a unit. -/
def sharesUnit (a b : Nat) : Bool := decide (fld a 49 25 ≤ fld b 24 0) && decide (fld b 49 25 ≤ fld a 24 0)

/-- The partition of a DISTIL job (R472): the object that breaks it. -/
def State.distilFault (s : State) (hostKey : Nat) : Option Nat :=
  let badCore := (List.range 192).find? fun c =>
    (storeKeys (s.obj 0x4042 c)).any fun k => k != 0 && teacherKey k != (s.obj 0xB022 c == 1)
  let state := s.obj 0x8000 3
  let entries := s.regions.filter fun e => bitAt e.2.toNat 123
  let badRegion := (entries.find? fun e =>
    bitAt e.2.toNat 121 && teacherKey (fld e.2.toNat 120 113) &&
    entries.any fun x => fld x.2.toNat 120 113 == state && state != 0 && sharesUnit e.2.toNat x.2.toNat)
  if s.kind ≠ 2 then none
  else (badCore.map (okey 0x4042 ·)).orElse fun _ =>
    if teacherKey state then some (okey 0x8000 3)
    else if teacherKey hostKey then some (okey 0xA000 5)
    else badRegion.map fun e => okey 0x4041 e.1

/-! ### JOB_LOAD -/

/-- The spans that the load puts in force (R363). -/
def State.growSpans (s : State) : State :=
  { s with spans := (List.range 4).foldl (fun t d =>
      Tbl.set 0 t d (max (s.retiredIn d) (s.obj 0x5000 3))) s.spans }

/-- Step 2: the tree, the region table and the store keys. -/
def State.installTables (s : State) (m regs keys : List Byte) : State :=
  let s := { s with
    regions := (List.range (jCount m)).foldl (fun t n => Tbl.set regionReset t n (regionWord regs n)) []
    job := { s.job with clockMhz := jClock m } }
  let s := (s.setObj 0x4040 1 (jTree m)).setObj 0x4040 3 0
  s.each (List.range 192) fun s c =>
    (s.setObj 0x4042 c (leAt keys (4 * c) 4)).mapCore c fun k => { k with tcache := [] }

/-- Step 3: migrations that were pending run before the load completes (R364). -/
def State.runPending (s : State) : State :=
  s.each (s.memctl.retired.filter fun p => (s.pcErr p).state == 1) fun s p => (s.migrate p).migrated p

/-- Steps 4 and 5: tallies, HOLD_OFFSET, banks and the lost-link set. -/
def State.clearForJob (s : State) : State :=
  let s := s.clearTally
  let s := s.setHold fun h => { h with
    offset := 0
    lost := []
    toName := []
    own := if h.noResume then [] else h.own
    noResume := false
    schedFault := false
    sticky := false }
  ((s.setArmed 0 false).setArmed 1 false).setObj 0x8012 8 0

/-- Training state as the job takes it up: the group table, fingerprints, and a sweep that has not ended (R288). -/
def State.takeTraining (s : State) : State :=
  let s := s.setTrain fun _ => { Train.reset with groups := s.readGroups }
  if s.train.groups.isEmpty then s
  else
    let w := s.stepRec
    let s := ((s.setObj 0x8000 1 (recStep w)).setObj 0x8000 2 (fld w 505 505)).loadShardFp.formRopeFps
    s.on (fld w 511 508 == 2 && recState w == 1) State.resumeSweeps

/-- Steps 6 and 7: M6, and event 0xA00A. -/
def State.jobLoaded (s : State) (m : List Byte) : State :=
  let s := ((s.clearMeasure 6).measure 6 7 m).setBoot fun b => { b with jobId := jId m }
  let s := s.setObj 0xA000 5 (jHostKey m)
  let s := { s with
    job := {
      loaded := true
      gather := s.obj 0x4010 1 == 1
      sr := s.obj 0x4020 3 == 1
      histBase := sext 32 (s.obj 0x8010 1)
      histWidth := s.obj 0x8010 2
      clockMhz := jClock m } }
  (s.takeTraining.ropeJob).log 0xA00A (domMp 0) [(64, jId m)]

/-- The checks that need the tables in place, in a state that has them. -/
def State.subjectFault (t : State) (hostKey : Nat) : Option LoadFault :=
  t.delayFault.orElse fun _ =>
    (t.replicaFault.map fun r => (3, [okey 0x8013 r])).orElse fun _ =>
      if !t.offsetsOk then some (3, [okey 0x8014 1])
      else if t.groupCheck.isSome || t.leftRestored then some (3, [okey 0x8004 4])
      else (t.distilFault hostKey).map fun k => (3, [k])

/-- What a refused load leaves: events 0x8016 and 0x800A, and STATE_STATUS. -/
def State.noteRefusal (s t : State) : State :=
  if t.delayFault.isSome then s
  else if t.replicaFault.isSome then s.log 0x8016 (domMp 0)
  else if !t.offsetsOk then s
  else
    match t.groupCheck with
    | some f => (s.log 0x800A (domMp 0)).setStateStatus (some f)
    | none => s

/-- JOB_LOAD with its manifest, region entries and store keys read. -/
def State.loadJob (s : State) (m regs keys : List Byte) : Result :=
  let t := s.growSpans
  match t.tablesFault m regs with
  | some f => (f.1, f.2, s)
  | none =>
    let t := t.installTables m regs keys
    match t.subjectFault (jHostKey m) with
    | some f => (f.1, f.2, s.noteRefusal t)
    | none => (((t.setStateStatus none).runPending.clearForJob).jobLoaded m).done

/-- JOB_LOAD. -/
def execJobLoad (e : BitVec 512) (s : State) : Host.Outcome State Fault Refusal :=
  hostCommand 1 e (fun e s =>
    match s.loadState with
    | some f => (f.1, f.2, s)
    | none =>
      s.fetchArg (eArg e 0) 64 fun m =>
        if !manifestOk m then s.fails 3 453
        else s.fetchArg (jRegions m) (16 * jCount m) fun regs =>
          s.fetchArg (jKeys m) 768 fun keys => s.loadJob m regs keys) s

/-! ### JOB_UNLOAD -/

/-- Step 1: contexts stop, and the sweep ends, or SWEEP_LIMIT passes. -/
def State.quiesce (s : State) : State :=
  let s := s.stopAll
  if !s.training ∨ recState s.stepRec ≠ 1 then s
  else
    let s := s.endSweep
    if recState s.stepRec = 1 then s.reach (s.now + 1000 * s.obj 0x8000 0xB) else s

/-- Step 4: flow contexts not owned by the host function break. -/
def State.breakJobFlows (s : State) : State :=
  s.each (s.fabric.flows.filterMap fun e => if e.2.owner.toNat / 4096 ≠ 9 then some e.1 else none)
    fun s c => s.breakFlow c 5 true

/-- No bank is active. -/
def State.stopTables (s : State) : State := { s with tt := { s.tt with active := none, engines := [] } }

/-- No job is in force, and the region table grants nothing. Which arithmetic clock runs with no job loaded is open beside
R22: the last job's stays (assumption 116). -/
def State.dropJob (s : State) : State :=
  { s with regions := [], job := { s.job with loaded := false }, train := .reset }

/-- JOB_UNLOAD always succeeds. -/
def State.unloadJob (s : State) : State :=
  let s := s.quiesce.disarmBankSwitch
  let s := s.stopTables.setObj 0x2010 1 0xFF
  let s := ((s.each (List.range 192) State.coreReset).breakJobFlows).dropJob
  let s := s.setFaults fun f => { f with recovery := [], recovered := [] }
  let s := (s.setObj 0x4040 1 0).setObj 0x9003 3 0
  let s := ((s.setArmed 0 false).setArmed 1 false).setHold fun h => { h with
    own := if h.noResume then [] else h.own
    noResume := false
    schedFault := false
    sticky := false }
  (s.clearMeasure 6).log 0xA00B (domMp 0)

/-- JOB_UNLOAD. -/
def execJobUnload (e : BitVec 512) (s : State) : Host.Outcome State Fault Refusal :=
  hostCommand 2 e (fun _ s => s.unloadJob.done) s

end Sys2Proof.Machine
end

