-- ==== Sys2Proof/Machine/Links.lean ====
section
/-!
DEFINITION. Links: training, codewords, free slots, packets in transit, and the recovery of lanes and
links (R93-R105, R422, R429).
-/

namespace Sys2Proof.Machine

/-! ### Training (R94) -/

/-- The partner a map entry gives this module (R91, R94). -/
def State.partnerOf (s : State) (e : Nat) : Nat := Nat.xor s.moduleNumber (mapXor e * 16 ^ mapDim e)

/-- The link comes up: on three lanes when one is retired (R95). -/
def State.bringUp (s : State) (l partner plink : Nat) : State :=
  let st := if s.obj 0x6005 l = 0x0F then 2 else 3
  let s := (s.setObj 0x6002 l st).setObj 0x6003 l (partner * 64 + plink)
  let s := s.mapLink l .fresh
  (s.setLinkTime l .reset).log 0x6001 (domLink l)

/-- This module's side of the exchange: its module number, link number and map entry, and link protocol version 2 alone
(R34, R94). -/
def State.offer (s : State) (l : Nat) : State := s.emit (.offer l s.moduleNumber (s.mapEntry l) [2])

/-- LINK_TRAIN (R34, R94): what the partner offers, against this module's map. -/
def State.trainLink (s : State) (l partner plink entry : Nat) (versions : List Nat) : State :=
  let e := s.mapEntry l
  let okVersion := versions.any (2 ≤ ·)
  if (s.link l).permanent then s
  else match s.role l with
    | 0 => s.setObj 0x6002 l 7
    | 1 =>
      if s.obj 0x6000 3 = 0 then s.setObj 0x6002 l 0
      else if !s.mapOk then (s.setObj 0x6002 l 0).log 0x6006
      else if !mapUsed e then s.setObj 0x6002 l 0
      else
        let s := s.offer l
        if !okVersion then (s.setObj 0x6002 l 5).log 0x6004 (domLink l)
        else if partner ≠ s.partnerOf e ∨ entry % 512 ≠ e % 512 then
          (s.setObj 0x6002 l 6).log 0x6005 (domLink l)
        else s.bringUp l partner plink
    | _ =>
      let s := s.offer l
      if !okVersion then (s.setObj 0x6002 l 5).log 0x6004 (domLink l)
      else s.bringUp l partner plink

def execLinkTrain (link : Link) (partner : BitVec 16) (plink : Link) (entry : BitVec 16)
    (versions : List Nat) (s : State) : Host.Outcome State Fault Refusal :=
  act s (·.trainLink link partner.toNat plink entry.toNat versions)

/-! ### Lanes and links that fail (R95, R422, R429) -/

/-- The transients of one channel within its window (ns). -/
def recent (now window : Nat) (ts : List Nat) : Nat := (ts.filter fun t => decide (now < t + window)).length

/-- The link is named lost in the module's next RESUME (R87). -/
def State.nameLost (s : State) (l : Nat) : State :=
  if s.role l = 1 then
    let n := s.linkName l
    s.setHold fun h => if h.toName.contains n then h else { h with toName := h.toName ++ [n] }
  else s

/-- The link is lost until module warm reset (R422). -/
def State.loseLink (s : State) (l : Nat) : State :=
  let s := (s.setObj 0x6002 l 4).mapLink l fun v => { v with permanent := true, retraining := false }
  (((s.log 0x6002 (domLink l)).log 0x9008 (domLink l) [(6, l)]).nameLost l).reroute l

/-- A lane is retired: three lanes, and detours for timed traffic; a second one loses the link (R95). -/
def State.retireLane (s : State) (l lane : Nat) : State :=
  let lanes := s.obj 0x6005 l
  if !bitAt lanes lane then s
  else
    let s := (s.setObj 0x6005 l (lanes - 2 ^ lane)).log 0x6003 (domLink l)
    let s := s.log 0x9008 (domLink l) [(6, l), (2, lane)]
    if lanes = 0x0F then (s.setObj 0x6002 l 3).nameLost l else s.loseLink l

/-- A transient of a lane is counted, and may retire it (R422). -/
def State.laneTransient (s : State) (l lane : Nat) : State :=
  let s := (s.mapLink l fun v => { v with laneTransients := (lane, s.now) :: v.laneTransients }).log 0x9006
    (domLink l) [(6, l), (2, lane)]
  let ts := ((s.link l).laneTransients.filter (·.1 == lane)).map (·.2)
  if s.obj 0x9001 1 ≤ recent s.now (1000000 * s.obj 0x9001 2) ts then s.retireLane l lane else s

/-- The recovery of the link ends: its RESUME is sent (R429). -/
def State.endLinkRecovery (s : State) (l : Nat) : State :=
  match (s.link l).holdSeq with
  | some q => (s.mapLink l fun v => { v with holdSeq := none, relock := none, retraining := false }).originateResume q
  | none => s.mapLink l fun v => { v with relock := none, retraining := false }

/-- A loss on a fabric link holds the hall and spoils the step (R429). -/
def State.lossHold (s : State) (l cause : Nat) : State :=
  if s.role l = 1 then
    let (q, s) := (s.faultCount cause).schedFault.originateHold cause
    s.mapLink l fun v => { v with holdSeq := some q }
  else s.faultCount cause

/-- LANE_LOSS: loss of lock or an error burst; the lane relocks within a hall hold. -/
def execLaneLoss (link : Link) (lane : Lane) (s : State) : Host.Outcome State Fault Refusal :=
  act s fun s =>
    if s.linkUp link ∧ (s.link link).relock = none ∧ bitAt (s.obj 0x6005 link) lane then
      (s.mapLink link fun v => { v with relock := some lane }).lossHold link 5
    else s

/-- LANE_RELOCK_COMPLETE: a lane that fails to relock is retired; the link enters lost unless both ends
report success. -/
def execLaneRelockComplete (link : Link) (lane : Lane) (ok partnerOk : Bool) (s : State) :
    Host.Outcome State Fault Refusal :=
  act s fun s =>
    if (s.link link).relock = some lane.val then
      let s := if ok then s.laneTransient link lane else s.retireLane link lane
      let s := s.on (!(ok && partnerOk)) (·.nameLost link)
      s.endLinkRecovery link
    else s

/-- LINK_LOSS: a pace expiry or loss of signal on every lane; the link retrains within a hall hold. A
parent's link that goes down loses the parent (R50). -/
def execLinkLoss (link : Link) (s : State) : Host.Outcome State Fault Refusal :=
  act s fun s =>
    if s.linkUp link then
      let late := decide ((s.linkTime link).rxAt + 4000 * 64 ≤ s.hall)
      let s := s.on late fun s => (s.count 0x9005 0).log 0x9001 (domLink link) [(6, link)]
      let s := ((s.setObj 0x6002 link 1).mapLink link fun v => { v with retraining := true }).releaseHolds (domLink link)
      let s := s.lossHold link 6
      s.on (s.time.parent == some link) State.loseParent
    else s

/-- LINK_RETRAIN_COMPLETE. -/
def execLinkRetrainComplete (link : Link) (ok partnerOk : Bool) (s : State) :
    Host.Outcome State Fault Refusal :=
  act s fun s =>
    if (s.link link).retraining then
      let s :=
        if ok then
          let s := (s.setObj 0x6002 link (if s.obj 0x6005 link = 0x0F then 2 else 3)).mapLink link fun v =>
            { v.fresh with linkTransients := s.now :: v.linkTransients }
          let s := (s.setLinkTime link .reset).log 0x9007 (domLink link)
          if s.obj 0x9001 3 ≤ recent s.now (1000000000 * s.obj 0x9001 4) (s.link link).linkTransients
          then s.loseLink link else s
        else s.loseLink link
      let s := s.on (!(ok && partnerOk)) (·.nameLost link)
      s.endLinkRecovery link
    else s

/-- LINK_AGREEMENT_TIMEOUT: nothing heard from the partner; the link enters lost. -/
def execLinkAgreementTimeout (link : Link) (s : State) : Host.Outcome State Fault Refusal :=
  act s fun s =>
    if (s.link link).holdSeq.isSome then (s.nameLost link).endLinkRecovery link else s

/-! ### Codewords (R96) -/

/-- CODEWORD_UNCORRECTABLE: timed slots that hold part of it will be discarded; unscheduled flits are
replayed in order, so they are neither lost nor reordered. -/
def execCodewordUncorrectable (link : Link) (slots : Fin 3) (_flits : Bool) (lane : Option Lane)
    (s : State) : Host.Outcome State Fault Refusal :=
  act s fun s =>
    let s := s.count 0x6004 link
    let s := if slots.val = 0 then s
      else (((s.mapLink link fun v => { v with badSlots := v.badSlots + slots }).log 0x6007 (domLink link))).schedFault
    match lane with
    | some n => s.laneTransient link n
    | none => s

/-! ### Free slots and packets (R98-R105) -/

/-- FREE_SLOT_SEND: credits come back and are returned, and flits go out in the order of R100. -/
def execFreeSlotSend (link : Link) (credits : List Nat) (s : State) : Host.Outcome State Fault Refusal :=
  act s fun s =>
    if s.linkUp link then
      (((s.addCredits link credits).retryWaiting).returnCredits link).sendFlits link 16 (s.slotFlits link) none
    else s

/-- A MGMT packet that carries a hold or resume message: 32 bytes whose KIND and other fields are those of R82. How such a
packet is told from a DXP message is open (assumption 115). -/
def holdIn (p : Packet) : Option Nat :=
  let w := leNat p.data
  if p.ok && p.op == 6 && p.data.length == 32 then
    if holdMessageOk w 1 then some 1 else if holdMessageOk w 2 then some 2 else none
  else none

/-- PACKET_FORWARD. A hold or resume message is consumed where it arrives, and not put into the VC0 ring (R105, R119). -/
def execPacketForward (die : HDie) (port : Fin 35) (p : Packet) (s : State) :
    Host.Outcome State Fault Refusal :=
  act s fun s =>
    match portLink die port, holdIn p with
    | some l, some 1 => s.receiveHold l (leNat p.data)
    | some l, some _ => s.receiveResume l (leNat p.data)
    | _, _ => s.forward die port p

/-- ESCAPE_WAIT_EXPIRE: a packet that has found no adaptive link moves to VC4 as soon as that has credit, and stays there
(R102). -/
def execEscapeWaitExpire (p : Packet) (s : State) : Host.Outcome State Fault Refusal :=
  act s fun s =>
    match s.fabric.waiting.find? fun w => w.p == p && (p.vc == 2 || p.vc == 3) && w.buffered && !w.escaping with
    | some w =>
      let s := s.reach (w.since + s.obj 0x6000 4)
      let s := { s with fabric := { s.fabric with waiting := s.fabric.waiting.erase w } }
      s.route { w with escaping := true } fun s e => s.inject w.die e
    | none => s

end Sys2Proof.Machine
end

