-- ==== Sys2Proof/Machine/Dispatch.lean ====
section
/-!
DEFINITION. What every command does to the state, the queue of waiting commands apart.
-/

namespace Sys2Proof.Machine

def exec (i : Instr) (s : State) : Host.Outcome State Fault Refusal :=
  match i with
  | .powerOn mv => Sys2Proof.Machine.execPowerOn mv s
  | .powerGood straps => Sys2Proof.Machine.execPowerGood straps s
  | .romBootStage => Sys2Proof.Machine.execRomBootStage s
  | .firstBootStage failed => Sys2Proof.Machine.execFirstBootStage failed s
  | .linksAndTimeStage => Sys2Proof.Machine.execLinksAndTimeStage s
  | .memoryBootStage failed => Sys2Proof.Machine.execMemoryBootStage failed s
  | .firstStageTimeout => Sys2Proof.Machine.execFirstStageTimeout s
  | .trialBundleTimeout => Sys2Proof.Machine.execTrialBundleTimeout s
  | .moduleWarmReset => Sys2Proof.Machine.execModuleWarmReset s
  | .moduleColdReset => Sys2Proof.Machine.execModuleColdReset s
  | .timeSymbolSend link => Sys2Proof.Machine.execTimeSymbolSend link s
  | .timeSymbolReceive link symbol arrival => Sys2Proof.Machine.execTimeSymbolReceive link symbol arrival s
  | .offsetEstimate => Sys2Proof.Machine.execOffsetEstimate s
  | .lockDwellExpire => Sys2Proof.Machine.execLockDwellExpire s
  | .parentLost => Sys2Proof.Machine.execParentLost s
  | .symbolTimeout => Sys2Proof.Machine.execSymbolTimeout s
  | .holdoverLimitExpire => Sys2Proof.Machine.execHoldoverLimitExpire s
  | .ppsEdge edge => Sys2Proof.Machine.execPpsEdge edge s
  | .ppsEdgeMissed => Sys2Proof.Machine.execPpsEdgeMissed s
  | .ptpMessage domain msg => Sys2Proof.Machine.execPtpMessage domain msg s
  | .ptpLossTimeout => Sys2Proof.Machine.execPtpLossTimeout s
  | .rootSourceWaitExpire => Sys2Proof.Machine.execRootSourceWaitExpire s
  | .rootBeatTick => Sys2Proof.Machine.execRootBeatTick s
  | .rootBeatTimeout => Sys2Proof.Machine.execRootBeatTimeout s
  | .rootPromote => Sys2Proof.Machine.execRootPromote s
  | .hallTimeRead m => Sys2Proof.Machine.execHallTimeRead m s
  | .ppsOutPulse => Sys2Proof.Machine.execPpsOutPulse s
  | .ttLoad e => Sys2Proof.Machine.execTtLoad e s
  | .bankCheck m => Sys2Proof.Machine.execBankCheck m s
  | .switchBankArm m => Sys2Proof.Machine.execSwitchBankArm m s
  | .switchBankDisarm m => Sys2Proof.Machine.execSwitchBankDisarm m s
  | .bankSwitch => Sys2Proof.Machine.execBankSwitch s
  | .ttBatchArrive link => Sys2Proof.Machine.execTtBatchArrive link s
  | .windowStart link => Sys2Proof.Machine.execWindowStart link s
  | .windowSlotSend link => Sys2Proof.Machine.execWindowSlotSend link s
  | .windowOpenReceive link w => Sys2Proof.Machine.execWindowOpenReceive link w s
  | .slotLand link data bad overflow => Sys2Proof.Machine.execSlotLand link data bad overflow s
  | .reduceGroupCombine link => Sys2Proof.Machine.execReduceGroupCombine link s
  | .wakeCore core => Sys2Proof.Machine.execWakeCore core s
  | .wakeDie die => Sys2Proof.Machine.execWakeDie die s
  | .sleepCore core => Sys2Proof.Machine.execSleepCore core s
  | .sleepDie die => Sys2Proof.Machine.execSleepDie die s
  | .eventSemPost core sem => Sys2Proof.Machine.execEventSemPost core sem s
  | .strobe => Sys2Proof.Machine.execStrobe s
  | .holdRequest m => Sys2Proof.Machine.execHoldRequest m s
  | .hold link msg => Sys2Proof.Machine.execHold link msg s
  | .resume link msg => Sys2Proof.Machine.execResume link msg s
  | .holdTick => Sys2Proof.Machine.execHoldTick s
  | .resumeTick => Sys2Proof.Machine.execResumeTick s
  | .holdLimitExpire => Sys2Proof.Machine.execHoldLimitExpire s
  | .keptResumeExpire origin seq => Sys2Proof.Machine.execKeptResumeExpire origin seq s
  | .linkTrain link partner plink entry versions => Sys2Proof.Machine.execLinkTrain link partner plink entry versions s
  | .codewordUncorrectable link slots flits lane => Sys2Proof.Machine.execCodewordUncorrectable link slots flits lane s
  | .freeSlotSend link credits => Sys2Proof.Machine.execFreeSlotSend link credits s
  | .packetForward die port p => Sys2Proof.Machine.execPacketForward die port p s
  | .escapeWaitExpire p => Sys2Proof.Machine.execEscapeWaitExpire p s
  | .requestIssue die => Sys2Proof.Machine.execRequestIssue die s
  | .memRead p => Sys2Proof.Machine.execMemRead p s
  | .memWrite p => Sys2Proof.Machine.execMemWrite p s
  | .memAtomic p => Sys2Proof.Machine.execMemAtomic p s
  | .memMessage p => Sys2Proof.Machine.execMemMessage p s
  | .responseArrive die p => Sys2Proof.Machine.execResponseArrive die p s
  | .flowBreak p => Sys2Proof.Machine.execFlowBreak p s
  | .leaseLapse c => Sys2Proof.Machine.execLeaseLapse c s
  | .respTimeoutExpire c seq => Sys2Proof.Machine.execRespTimeoutExpire c seq s
  | .ropeFrame p => Sys2Proof.Machine.execRopeFrame p s
  | .mm core ctx => Sys2Proof.Machine.execMm core ctx s
  | .mmG core ctx => Sys2Proof.Machine.execMmG core ctx s
  | .queueAdmit core ctx => Sys2Proof.Machine.execQueueAdmit core ctx s
  | .passStart core => Sys2Proof.Machine.execPassStart core s
  | .passComplete core => Sys2Proof.Machine.execPassComplete core s
  | .gatherHoldExpire core slot => Sys2Proof.Machine.execGatherHoldExpire core slot s
  | .gatherGroupStart core => Sys2Proof.Machine.execGatherGroupStart core s
  | .frameGateApply core => Sys2Proof.Machine.execFrameGateApply core s
  | .vadd core ctx => Sys2Proof.Machine.execVadd core ctx s
  | .vsub core ctx => Sys2Proof.Machine.execVsub core ctx s
  | .vmul core ctx => Sys2Proof.Machine.execVmul core ctx s
  | .vfma core ctx => Sys2Proof.Machine.execVfma core ctx s
  | .vmax core ctx => Sys2Proof.Machine.execVmax core ctx s
  | .vmin core ctx => Sys2Proof.Machine.execVmin core ctx s
  | .vcvt core ctx => Sys2Proof.Machine.execVcvt core ctx s
  | .vaddCp core ctx => Sys2Proof.Machine.execVaddCp core ctx s
  | .vredSum core ctx => Sys2Proof.Machine.execVredSum core ctx s
  | .vredMax core ctx => Sys2Proof.Machine.execVredMax core ctx s
  | .vredSsq core ctx => Sys2Proof.Machine.execVredSsq core ctx s
  | .sfExp core ctx => Sys2Proof.Machine.execSfExp core ctx s
  | .sfLog core ctx => Sys2Proof.Machine.execSfLog core ctx s
  | .sfRsqrt core ctx => Sys2Proof.Machine.execSfRsqrt core ctx s
  | .vectorComplete core => Sys2Proof.Machine.execVectorComplete core s
  | .movX core ctx => Sys2Proof.Machine.execMovX core ctx s
  | .semInit core ctx => Sys2Proof.Machine.execSemInit core ctx s
  | .semPost core ctx => Sys2Proof.Machine.execSemPost core ctx s
  | .semPostArrive core sem posts => Sys2Proof.Machine.execSemPostArrive core sem posts s
  | .semWait core ctx => Sys2Proof.Machine.execSemWait core ctx s
  | .semTry core ctx => Sys2Proof.Machine.execSemTry core ctx s
  | .semLeaseLapse core sem => Sys2Proof.Machine.execSemLeaseLapse core sem s
  | .waitT core ctx => Sys2Proof.Machine.execWaitT core ctx s
  | .waitTRelease core ctx => Sys2Proof.Machine.execWaitTRelease core ctx s
  | .waitQ core ctx => Sys2Proof.Machine.execWaitQ core ctx s
  | .fence core ctx => Sys2Proof.Machine.execFence core ctx s
  | .fenceForm core => Sys2Proof.Machine.execFenceForm core s
  | .fenceSpanExceeded core => Sys2Proof.Machine.execFenceSpanExceeded core s
  | .timeRd core ctx => Sys2Proof.Machine.execTimeRd core ctx s
  | .nop core ctx => Sys2Proof.Machine.execNop core ctx s
  | .alu core ctx => Sys2Proof.Machine.execAlu core ctx s
  | .cmp core ctx => Sys2Proof.Machine.execCmp core ctx s
  | .ld core ctx => Sys2Proof.Machine.execLd core ctx s
  | .st core ctx => Sys2Proof.Machine.execSt core ctx s
  | .br core ctx => Sys2Proof.Machine.execBr core ctx s
  | .loop core ctx => Sys2Proof.Machine.execLoop core ctx s
  | .halt core ctx => Sys2Proof.Machine.execHalt core ctx s
  | .talRd core ctx => Sys2Proof.Machine.execTalRd core ctx s
  | .tallyReadServe core ctx => Sys2Proof.Machine.execTallyReadServe core ctx s
  | .talNf core ctx => Sys2Proof.Machine.execTalNf core ctx s
  | .streamRefill core ctx => Sys2Proof.Machine.execStreamRefill core ctx s
  | .dcStart core ctx stream key pc regs preds => Sys2Proof.Machine.execDcStart core ctx stream key pc regs preds s
  | .dcStop core ctx => Sys2Proof.Machine.execDcStop core ctx s
  | .contextRead core ctx => Sys2Proof.Machine.execContextRead core ctx s
  | .seqImemLoad core first count src => Sys2Proof.Machine.execSeqImemLoad core first count src s
  | .semSet core sem count producer lease => Sys2Proof.Machine.execSemSet core sem count producer lease s
  | .replay core => Sys2Proof.Machine.execReplay core s
  | .isolate core ctx => Sys2Proof.Machine.execIsolate core ctx s
  | .rerunEnd core => Sys2Proof.Machine.execRerunEnd core s
  | .descriptorStart mover => Sys2Proof.Machine.execDescriptorStart mover s
  | .descriptorComplete mover => Sys2Proof.Machine.execDescriptorComplete mover s
  | .tableWalkComplete core user va write => Sys2Proof.Machine.execTableWalkComplete core user va write s
  | .moverReset mover => Sys2Proof.Machine.execMoverReset mover s
  | .translationInvalidate page => Sys2Proof.Machine.execTranslationInvalidate page s
  | .invalidateComplete => Sys2Proof.Machine.execInvalidateComplete s
  | .regionChangeEffective n entry => Sys2Proof.Machine.execRegionChangeEffective n entry s
  | .expanderRetry core => Sys2Proof.Machine.execExpanderRetry core s
  | .moverCheckRetry mover => Sys2Proof.Machine.execMoverCheckRetry mover s
  | .groupQuantise g => Sys2Proof.Machine.execGroupQuantise g s
  | .normSum => Sys2Proof.Machine.execNormSum s
  | .normRecordWrite => Sys2Proof.Machine.execNormRecordWrite s
  | .commitDecision => Sys2Proof.Machine.execCommitDecision s
  | .sweepEnd => Sys2Proof.Machine.execSweepEnd s
  | .sweepLimitExpire => Sys2Proof.Machine.execSweepLimitExpire s
  | .freshStart m => Sys2Proof.Machine.execFreshStart m s
  | .restore m => Sys2Proof.Machine.execRestore m s
  | .restoreComplete => Sys2Proof.Machine.execRestoreComplete s
  | .belayRequest m => Sys2Proof.Machine.execBelayRequest m s
  | .belayManifestWrite => Sys2Proof.Machine.execBelayManifestWrite s
  | .tallyDelta => Sys2Proof.Machine.execTallyDelta s
  | .fpRecordWrite => Sys2Proof.Machine.execFpRecordWrite s
  | .fpCheck => Sys2Proof.Machine.execFpCheck s
  | .repairBlock b data => Sys2Proof.Machine.execRepairBlock b data s
  | .lsInitWrite m => Sys2Proof.Machine.execLsInitWrite m s
  | .ropeOpen f => Sys2Proof.Machine.execRopeOpen f s
  | .ropeAccept f => Sys2Proof.Machine.execRopeAccept f s
  | .sessionOpenAttempt site => Sys2Proof.Machine.execSessionOpenAttempt site s
  | .ropeDelta f => Sys2Proof.Machine.execRopeDelta f s
  | .ropeSack f => Sys2Proof.Machine.execRopeSack f s
  | .sackTimer sess => Sys2Proof.Machine.execSackTimer sess s
  | .resendTimeout sess => Sys2Proof.Machine.execResendTimeout sess s
  | .roundInfo f => Sys2Proof.Machine.execRoundInfo f s
  | .rekey f => Sys2Proof.Machine.execRekey f s
  | .rekeyAck f => Sys2Proof.Machine.execRekeyAck f s
  | .rekeyIntervalExpire site => Sys2Proof.Machine.execRekeyIntervalExpire site s
  | .nonceLimit sess => Sys2Proof.Machine.execNonceLimit sess s
  | .regroup f => Sys2Proof.Machine.execRegroup f s
  | .ropeBelay f => Sys2Proof.Machine.execRopeBelay f s
  | .dxpFrame f => Sys2Proof.Machine.execDxpFrame f s
  | .probe f => Sys2Proof.Machine.execProbe f s
  | .ropeSend sess => Sys2Proof.Machine.execRopeSend sess s
  | .roundDeadline => Sys2Proof.Machine.execRoundDeadline s
  | .closePrepare entry => Sys2Proof.Machine.execClosePrepare entry s
  | .closeAck replica entry => Sys2Proof.Machine.execCloseAck replica entry s
  | .closeCommit entry => Sys2Proof.Machine.execCloseCommit entry s
  | .closeAckLimitExpire => Sys2Proof.Machine.execCloseAckLimitExpire s
  | .regroupRequest m => Sys2Proof.Machine.execRegroupRequest m s
  | .sessionPaceExpire sess => Sys2Proof.Machine.execSessionPaceExpire sess s
  | .memoryRetry a outcome => Sys2Proof.Machine.execMemoryRetry a outcome s
  | .scrubRead a symbols => Sys2Proof.Machine.execScrubRead a symbols s
  | .migrationComplete => Sys2Proof.Machine.execMigrationComplete s
  | .memoryStackReset stack failed => Sys2Proof.Machine.execMemoryStackReset stack failed s
  | .refInLost => Sys2Proof.Machine.execRefInLost s
  | .refInRestore => Sys2Proof.Machine.execRefInRestore s
  | .coreGate core => Sys2Proof.Machine.execCoreGate core s
  | .coreWakeComplete core => Sys2Proof.Machine.execCoreWakeComplete core s
  | .dieWakeComplete die => Sys2Proof.Machine.execDieWakeComplete die s
  | .bivouacWakeStart => Sys2Proof.Machine.execBivouacWakeStart s
  | .powerSample mv ma bank loads => Sys2Proof.Machine.execPowerSample mv ma bank loads s
  | .governorClear => Sys2Proof.Machine.execGovernorClear s
  | .ballastAdjust => Sys2Proof.Machine.execBallastAdjust s
  | .drawTargetWrite m => Sys2Proof.Machine.execDrawTargetWrite m s
  | .targetTick => Sys2Proof.Machine.execTargetTick s
  | .targetTimeoutExpire => Sys2Proof.Machine.execTargetTimeoutExpire s
  | .dipDeclare => Sys2Proof.Machine.execDipDeclare s
  | .braceStart => Sys2Proof.Machine.execBraceStart s
  | .braceRelease => Sys2Proof.Machine.execBraceRelease s
  | .braceResumeSend => Sys2Proof.Machine.execBraceResumeSend s
  | .overvoltageDisconnect => Sys2Proof.Machine.execOvervoltageDisconnect s
  | .overvoltageReconnect => Sys2Proof.Machine.execOvervoltageReconnect s
  | .powerFail => Sys2Proof.Machine.execPowerFail s
  | .thermalSample dies hbms lid => Sys2Proof.Machine.execThermalSample dies hbms lid s
  | .thermalWarnClear => Sys2Proof.Machine.execThermalWarnClear s
  | .dxpHello m => Sys2Proof.Machine.execDxpHello m s
  | .dxpRead m => Sys2Proof.Machine.execDxpRead m s
  | .dxpWrite m => Sys2Proof.Machine.execDxpWrite m s
  | .readBlob m => Sys2Proof.Machine.execReadBlob m s
  | .writeBlob m => Sys2Proof.Machine.execWriteBlob m s
  | .describe m => Sys2Proof.Machine.execDescribe m s
  | .dxpList m => Sys2Proof.Machine.execDxpList m s
  | .subscribe m => Sys2Proof.Machine.execSubscribe m s
  | .groupKey m => Sys2Proof.Machine.execGroupKey m s
  | .dxpClose m => Sys2Proof.Machine.execDxpClose m s
  | .sessionIdleExpire session => Sys2Proof.Machine.execSessionIdleExpire session s
  | .vc0RetryExpire seq => Sys2Proof.Machine.execVc0RetryExpire seq s
  | .campImageWrite m => Sys2Proof.Machine.execCampImageWrite m s
  | .switchSlotArm m => Sys2Proof.Machine.execSwitchSlotArm m s
  | .switchSlotDisarm m => Sys2Proof.Machine.execSwitchSlotDisarm m s
  | .campSwitch => Sys2Proof.Machine.execCampSwitch s
  | .contextPaceExpire core ctx => Sys2Proof.Machine.execContextPaceExpire core ctx s
  | .moverPaceExpire mover => Sys2Proof.Machine.execMoverPaceExpire mover s
  | .enginePaceExpire engine => Sys2Proof.Machine.execEnginePaceExpire engine s
  | .laneLoss link lane => Sys2Proof.Machine.execLaneLoss link lane s
  | .linkLoss link => Sys2Proof.Machine.execLinkLoss link s
  | .laneRelockComplete link lane ok partnerOk => Sys2Proof.Machine.execLaneRelockComplete link lane ok partnerOk s
  | .linkRetrainComplete link ok partnerOk => Sys2Proof.Machine.execLinkRetrainComplete link ok partnerOk s
  | .linkAgreementTimeout link => Sys2Proof.Machine.execLinkAgreementTimeout link s
  | .dieControllerFault die => Sys2Proof.Machine.execDieControllerFault die s
  | .watchdogExpire die => Sys2Proof.Machine.execWatchdogExpire die s
  | .mpRestartComplete die => Sys2Proof.Machine.execMpRestartComplete die s
  | .cairnStreamSend stream => Sys2Proof.Machine.execCairnStreamSend stream s
  | .mboxDoorbell msg value => Sys2Proof.Machine.execMboxDoorbell msg value s
  | .jobLoad e => Sys2Proof.Machine.execJobLoad e s
  | .jobUnload e => Sys2Proof.Machine.execJobUnload e s
  | .imemLoad e => Sys2Proof.Machine.execImemLoad e s
  | .ctxStart e => Sys2Proof.Machine.execCtxStart e s
  | .ctxStop e => Sys2Proof.Machine.execCtxStop e s
  | .ctxRead e => Sys2Proof.Machine.execCtxRead e s
  | .flowOpen e => Sys2Proof.Machine.execFlowOpen e s
  | .flowClose e => Sys2Proof.Machine.execFlowClose e s
  | .flowHead e => Sys2Proof.Machine.execFlowHead e s
  | .bulkCopy e bus busError => Sys2Proof.Machine.execBulkCopy e bus busError s
  | .bar2Read offset len => Sys2Proof.Machine.execBar2Read offset len s
  | .bar2Write offset data => Sys2Proof.Machine.execBar2Write offset data s
  | .hostFunctionReset => Sys2Proof.Machine.execHostFunctionReset s
  | .doeAttest nonce => Sys2Proof.Machine.execDoeAttest nonce s
  | .doeMeasureLog => Sys2Proof.Machine.execDoeMeasureLog s
  | .attestNonce m => Sys2Proof.Machine.execAttestNonce m s
  | .fwStagingWrite m => Sys2Proof.Machine.execFwStagingWrite m s
  | .fwInstallFirstStage m => Sys2Proof.Machine.execFwInstallFirstStage m s
  | .fwInstallBundle m => Sys2Proof.Machine.execFwInstallBundle m s
  | .warmResetRequest m => Sys2Proof.Machine.execWarmResetRequest m s
  | .coldResetRequest m => Sys2Proof.Machine.execColdResetRequest m s
  | .svnCommit m => Sys2Proof.Machine.execSvnCommit m s
  | .operatorKeyWrite m => Sys2Proof.Machine.execOperatorKeyWrite m s
  | .readVin => Sys2Proof.Machine.execReadVin s
  | .readIin => Sys2Proof.Machine.execReadIin s
  | .readTemperature1 => Sys2Proof.Machine.execReadTemperature1 s
  | .readTemperature2 => Sys2Proof.Machine.execReadTemperature2 s
  | .readTemperature3 => Sys2Proof.Machine.execReadTemperature3 s
  | .readPin => Sys2Proof.Machine.execReadPin s
  | .pmbusRevision => Sys2Proof.Machine.execPmbusRevision s
  | .mfrStatus => Sys2Proof.Machine.execMfrStatus s
  | .mfrState => Sys2Proof.Machine.execMfrState s
  | .mfrCause => Sys2Proof.Machine.execMfrCause s
  | .mfrModule => Sys2Proof.Machine.execMfrModule s
  | .mfrSerial => Sys2Proof.Machine.execMfrSerial s
  | .mfrEnergy => Sys2Proof.Machine.execMfrEnergy s
  | .smbusInvalid code write => Sys2Proof.Machine.execSmbusInvalid code write s
  | .alertResponse => Sys2Proof.Machine.execAlertResponse s
  | .probeIntervalExpire sess => Sys2Proof.Machine.execProbeIntervalExpire sess s
  | .persistWriteComplete ok => Sys2Proof.Machine.execPersistWriteComplete ok s
  | .fwInstallComplete => Sys2Proof.Machine.execFwInstallComplete s
  | .dxpResponse m => Sys2Proof.Machine.execDxpResponse m s
  | .dieResetComplete die ok => Sys2Proof.Machine.execDieResetComplete die ok s
  | .perstDeassert => Sys2Proof.Machine.execPerstDeassert s
  | .ideKm stream slot key => Sys2Proof.Machine.execIdeKm stream slot key s

end Sys2Proof.Machine
end

