-- ==== Sys2Proof/Safety.lean ====
section
/-!
DEFINITION. What counts as a safe run: no step stops, and the machine stays well-formed.
-/

namespace Sys2Proof.Machine

/-- A step of `s` answers a next state. -/
def Runs (s : State) : Prop := ∃ t, step s = .next t

/-- The well-formedness of the parts that `State.Inv` names. -/
structure Sound (mem stores maps mailboxes : Memory) (measures log : List (List Byte)) (ring : List (BitVec 256)) :
    Prop where
  /-- Every memory is in its canonical form. -/
  mem : Memory.wf mem = true
  stores : Memory.wf stores = true
  maps : Memory.wf maps = true
  mailboxes : Memory.wf mailboxes = true
  /-- There are eight measurement registers, and M7 is zero (R462). -/
  count : measures.length = 8
  m7 : measures[7]? = some (List.replicate 48 0)
  /-- The measurement log holds at most 64 entries (R462), the cairn ring at most 8,192 (R437). -/
  log : log.length ≤ 64
  ring : ring.length ≤ 8192

/-- The invariant of the machine. -/
def State.Inv (s : State) : Prop :=
  Sound s.mem s.stores s.maps s.mailboxes s.boot.measures s.boot.log s.faults.ring

/-- A part of the state. -/
inductive Part where
  /-- What the module has sent. -/
  | out
  /-- Hall time (R35). -/
  | hall
  /-- The model's own count of free values drawn. -/
  | drawn
  /-- Power has failed. -/
  | down
  /-- The time unit (R35-R58). -/
  | time
  /-- The timetable (R59-R81). -/
  | tt
  /-- The hall hold (R82-R88). -/
  | hold
  /-- Links and their queues (R93-R100). -/
  | links
  /-- Junctions, flow contexts, requests (R97-R114). -/
  | fabric
  /-- Every byte of device memory (R25). -/
  | mem
  /-- Poisoned codewords (R360). -/
  | poison
  /-- Every byte of the core stores (R21). -/
  | stores
  /-- The store maps (R256). -/
  | maps
  /-- Resident instructions (R186). -/
  | imem
  /-- Accumulators (R124). -/
  | accs
  /-- Cores: frames, queues, gatherers, replay records. -/
  | cores
  /-- Every context of every core (R182). -/
  | ctxs
  /-- Every semaphore (R200). -/
  | sems
  /-- Movers and their queues (R217). -/
  | movers
  /-- Posts in flight (R201). -/
  | posts
  /-- Die bivouac (R371). -/
  | dies
  /-- The engine mailboxes (R280). -/
  | mailboxes
  /-- Tally deltas that wait (R300). -/
  | deltas
  /-- The region table (R240). -/
  | regions
  /-- Retirement spans in force (R363). -/
  | spans
  /-- Invalidations not yet complete (R239). -/
  | invals
  /-- The tally table (R300-R308). -/
  | watch
  /-- Training beside its memory (R278-R299). -/
  | train
  /-- The rope tier (R320-R351). -/
  | rope
  /-- Scalar objects of the dictionary: settings, status, counts (R391). -/
  | objects
  /-- The rest of the dictionary: sessions, camps, blobs (R391-R415). -/
  | dict
  /-- The cairn ring (R437). -/
  | ring
  /-- The rest of fault handling: recoveries, resets, snapshots (R417-R443). -/
  | faults
  /-- The job in force (R453). -/
  | job
  /-- Pending bits of MSI-X vectors (R456). -/
  | msix
  /-- The rest of the host port (R444-R456). -/
  | host
  /-- The supply and the power manager (R369-R390). -/
  | supply
  /-- Error counts and retirement of memory (R354-R365). -/
  | memctl
  /-- SMB_ALERT_N (R486). -/
  | alert
  /-- The rest of boot: stages, images, measurements (R457-R467). -/
  | boot
  deriving DecidableEq, Repr

/-- The part is the same in `t` as in `s`. -/
def Part.same (p : Part) (s t : State) : Prop :=
  match p with
  | .out => t.out = s.out
  | .hall => t.hall = s.hall
  | .drawn => t.drawn = s.drawn
  | .down => t.down = s.down
  | .time => t.time = s.time
  | .tt => t.tt = s.tt
  | .hold => t.hold = s.hold
  | .links => t.links = s.links
  | .fabric => t.fabric = s.fabric
  | .mem => t.mem = s.mem
  | .poison => t.poison = s.poison
  | .stores => t.stores = s.stores
  | .maps => t.maps = s.maps
  | .imem => t.imem = s.imem
  | .accs => t.accs = s.accs
  | .cores => t.cores = s.cores
  | .ctxs => t.ctxs = s.ctxs
  | .sems => t.sems = s.sems
  | .movers => t.movers = s.movers
  | .posts => t.posts = s.posts
  | .dies => t.dies = s.dies
  | .mailboxes => t.mailboxes = s.mailboxes
  | .deltas => t.deltas = s.deltas
  | .regions => t.regions = s.regions
  | .spans => t.spans = s.spans
  | .invals => t.invals = s.invals
  | .watch => t.watch = s.watch
  | .train => t.train = s.train
  | .rope => t.rope = s.rope
  | .objects => t.dict.objs = s.dict.objs
  | .dict => t.dict = { s.dict with objs := t.dict.objs }
  | .ring => t.faults.ring = s.faults.ring
  | .faults => t.faults = { s.faults with ring := t.faults.ring }
  | .job => t.job = s.job
  | .msix => t.host.pendingBits = s.host.pendingBits
  | .host => t.host = { s.host with pendingBits := t.host.pendingBits }
  | .supply => t.supply = s.supply
  | .memctl => t.memctl = s.memctl
  | .alert => t.boot.alert = s.boot.alert
  | .boot => t.boot = { s.boot with alert := t.boot.alert }

/-- From `s` to `t` nothing changes but the parts named; the queue of waiting commands never does. -/
def Only (ps : List Part) (s t : State) : Prop := t.pending = s.pending ∧ ∀ p, p ∉ ps → p.same s t

/-- The event of a cairn record (R438). -/
def eventOf (r : BitVec 256) : Nat := (r.extractLsb' 232 16).toNat

/-- From `s` to `t` the machine has logged records of these events, newest first, and nothing else (R437). -/
def Logged (s t : State) (events : List Nat) : Prop :=
  ∃ rs : List (BitVec 256), rs.map eventOf = events ∧ t.faults.ring = (rs ++ s.faults.ring).take 8192

/-- A request of this opcode is for this module, and its flow context takes it: it can be read, it is open, the peer is
the one it names, and the request is the next one of an ordered context (R106, R111, R112). -/
def State.Reaches (s : State) (p : Packet) (op : Nat) : Prop :=
  p.op = op ∧ p.ok = true ∧ p.dst = s.moduleNumber ∧ s.poisoned (flowTable + 128 * p.dstCtx) 128 = false ∧
  (s.flow p.dstCtx).state = .opened ∧
  (s.flow p.dstCtx).peerModule.toNat = p.src ∧ (s.flow p.dstCtx).peerContext.toNat = p.srcCtx ∧
  ((s.flow p.dstCtx).ordered = true → p.seq = (s.flow p.dstCtx).rxNext.toNat)

/-- It carries the key of the context as well (R111). -/
def State.Accepts (s : State) (p : Packet) (op : Nat) : Prop := s.Reaches p op ∧ p.key = (s.flow p.dstCtx).stageKey

/-- From `s` to `t` the packet `p` of a unit has been handed to a unit of this module, where it is for this module, or has
joined the queue of the link that is its hop, where that link is of the unit's H-die and the port has room (R97-R102). -/
def State.Sends (s t : State) (die : Nat) (p : Packet) (unit : Option Nat) : Prop :=
  let adaptive := p.vc == 2 || p.vc == 3
  let hop := if adaptive then s.adaptiveHop p.dst p.vc p.flits else s.orderedHop p.dst p.seq none
  (p.dst = s.moduleNumber → p.op ≠ 6 → t.out = .deliver p :: s.out) ∧
  ∀ l, p.dst ≠ s.moduleNumber → hop = .link l → l / 32 = die → s.portRoom die (unitPort die unit) p = true →
    (t.link l).queue = (s.link l).queue ++ [⟨unitPort die unit, true, false, adaptive, some p.vc, p.hopped p.vc false⟩]

/-- `s` with hall time at least `n` ns: what a row with a stated instant starts from (assumption 3).
Nothing else changes, except what is left of a slew. -/
def Reached (s : State) (n : Nat) (t : State) : Prop :=
  t.hall = max s.hall (64 * n) ∧ ∃ u : TimeUnit, t.time = { s.time with slew := u.slew, slewPhase := u.slewPhase } ∧
    t = { s with hall := t.hall, time := t.time }

/-- Of the EVENTs that `f` holds of, the next is entry `i` of link `l`, at schedule time `due`; it is not frozen, and the
entry can be read: it fires (R77, R78, R84). -/
def State.EventDue (s : State) (f : Nat → Bool) (l i due : Nat) : Prop :=
  ∃ b, s.tt.active = some b ∧ s.nextEvent f = some (l, i, due) ∧ s.frozenAt (due + s.lag) = false ∧
    s.poisoned (bankTable b l i) 32 = false

/-- Context `x` of core `c` may issue, and the word it fetches is `w`, of this opcode and of version 0x2, with its
predicate true: the instruction executes if its issue checks pass (R84, R186-R190). -/
def State.Issues (s : State) (c x op w : Nat) : Prop :=
  s.canIssue c x = true ∧ s.fetch c x = .word (BitVec.ofNat 128 w) ∧ w < 2 ^ 128 ∧ fld w 123 116 = op ∧
  fld w 127 124 = 2 ∧ (s.ctx c x).p (fld w 115 113) ≠ bitAt w 112

/-- The context after an instruction that left it `v`: READY, its program counter past the instruction or back at the
start of its loop, its pace counter at this instant (R183, R191, R208). -/
def State.retired (s : State) (v : CtxSt) : CtxSt :=
  { advance v with status := .ready, wait := .none, pace := s.now }

/-- No context of the machine but this one has changed. -/
def OnlyCtx (s t : State) (c : Core) (x : Ctx) : Prop :=
  ∀ (d : Core) (y : Ctx), (d, y) ≠ (c, x) → t.ctx d y = s.ctx d y

/-- The same, but for the stalls of MM.G, which have been counted up to now and are counted from here (R153). -/
def OnlyCtxAndStalls (s t : State) (c : Core) (x : Ctx) : Prop :=
  ∀ (d : Core) (y : Ctx), (d, y) ≠ (c, x) → t.ctx d y = s.ctx d y ∨
    ∃ p a, (s.ctx d y).wait = .gather p a ∧ t.ctx d y = { s.ctx d y with wait := .gather p s.now }

end Sys2Proof.Machine
end

