-- ==== Sys2Proof/Touches.lean ====
section
/-!
DEFINITION. The parts of the state that each command may change: what the frames of the statements name.

Hall time and the time unit are named where a row acts at an instant of its own, which it does not act before
(assumption 3); the objects and the ring, where a row counts or logs.  A row that stops the job stage names what R431
does: the hold, the contexts, the host's interrupt and SMB_ALERT_N.
-/

namespace Sys2Proof

open Sys2Proof.Machine

/-- The parts that a command may change. -/
def Instr.touches : Instr → List Part
  | .powerOn .. =>
      [.supply]
  | .powerGood .. =>
      [.hall, .down, .time, .tt, .hold, .links, .fabric, .mem, .poison, .stores, .maps, .imem, .accs, .cores,
        .ctxs, .sems, .movers, .posts, .dies, .mailboxes, .deltas, .regions, .spans, .invals, .watch, .train,
        .rope, .objects, .dict, .ring, .faults, .job, .msix, .host, .supply, .memctl, .alert, .boot]
  | .romBootStage | .firstStageTimeout =>
      [.objects, .ring, .alert, .boot]
  | .firstBootStage .. =>
      [.out, .time, .hold, .links, .mem, .poison, .ctxs, .objects, .dict, .ring, .msix, .memctl, .alert, .boot]
  | .linksAndTimeStage | .fwInstallComplete =>
      [.objects, .ring, .boot]
  | .memoryBootStage .. =>
      [.out, .hold, .links, .ctxs, .spans, .objects, .ring, .msix, .memctl, .alert, .boot]
  | .trialBundleTimeout =>
      [.boot]
  | .moduleWarmReset =>
      [.out, .tt, .hold, .links, .fabric, .mem, .poison, .stores, .maps, .imem, .accs, .cores, .ctxs, .sems,
        .movers, .posts, .dies, .mailboxes, .deltas, .regions, .invals, .watch, .train, .rope, .objects, .dict,
        .ring, .faults, .job, .msix, .host, .supply, .memctl, .alert, .boot]
  | .moduleColdReset | .powerFail | .thermalSample .. =>
      [.out, .hall, .down, .time, .tt, .hold, .links, .fabric, .mem, .poison, .stores, .maps, .imem, .accs, .cores,
        .ctxs, .sems, .movers, .posts, .dies, .mailboxes, .deltas, .regions, .spans, .invals, .watch, .train,
        .rope, .objects, .dict, .ring, .faults, .job, .msix, .host, .supply, .memctl, .alert, .boot]
  | .timeSymbolSend .. =>
      [.out, .time]
  | .timeSymbolReceive .. =>
      [.out, .hall, .drawn, .time, .hold, .links, .ctxs, .objects, .ring, .msix, .alert, .boot]
  | .offsetEstimate =>
      [.out, .time, .hold, .links, .fabric, .ctxs, .objects, .ring, .msix, .alert]
  | .lockDwellExpire | .symbolTimeout | .ptpLossTimeout =>
      [.hall, .time, .objects, .ring]
  | .parentLost | .ppsEdgeMissed =>
      [.time, .objects, .ring]
  | .holdoverLimitExpire | .holdLimitExpire =>
      [.out, .hall, .time, .hold, .links, .ctxs, .objects, .ring, .msix, .alert]
  | .ppsEdge .. | .rootSourceWaitExpire | .rootPromote =>
      [.hall, .time, .objects, .ring, .boot]
  | .ptpMessage .. =>
      [.out, .hall, .time, .objects, .ring, .boot]
  | .rootBeatTick | .rootBeatTimeout =>
      [.hall, .time]
  | .hallTimeRead .. | .bankCheck .. | .switchBankArm .. | .switchBankDisarm .. | .holdRequest .. | .freshStart ..
    | .restore .. | .belayRequest .. | .lsInitWrite .. | .dxpFrame .. | .regroupRequest .. | .drawTargetWrite .. |
    .dxpHello .. | .dxpRead .. | .dxpWrite .. | .readBlob .. | .writeBlob .. | .describe .. | .dxpList .. |
    .subscribe .. | .groupKey .. | .dxpClose .. | .campImageWrite .. | .switchSlotArm .. | .switchSlotDisarm .. |
    .mboxDoorbell .. | .attestNonce .. | .fwStagingWrite .. | .fwInstallFirstStage .. | .fwInstallBundle .. |
    .warmResetRequest .. | .coldResetRequest .. | .svnCommit .. | .operatorKeyWrite .. | .persistWriteComplete ..
    =>
      [.out, .drawn, .time, .tt, .hold, .links, .fabric, .mem, .poison, .deltas, .train, .rope, .objects, .dict,
        .ring, .faults, .msix, .host, .supply, .boot]
  | .ppsOutPulse =>
      [.out, .hall, .time]
  | .ttLoad .. =>
      [.out, .tt, .links, .fabric, .mem, .poison, .rope, .objects, .dict, .ring, .faults, .msix, .host]
  | .bankSwitch =>
      [.out, .hall, .time, .tt, .hold, .links, .cores, .ctxs, .dies, .rope, .objects, .ring, .msix, .supply,
        .alert]
  | .ttBatchArrive .. | .windowOpenReceive .. =>
      [.tt]
  | .windowStart .. =>
      [.out, .hall, .time, .tt, .hold, .deltas, .objects, .ring, .msix]
  | .windowSlotSend .. =>
      [.out, .hall, .time, .tt, .links, .objects, .ring]
  | .slotLand .. =>
      [.tt, .hold, .links, .mem, .poison, .stores, .maps, .cores, .dies, .mailboxes, .objects, .ring, .supply]
  | .reduceGroupCombine .. =>
      [.tt, .hold, .mem, .poison, .stores, .maps, .mailboxes, .deltas, .objects, .ring]
  | .wakeCore .. =>
      [.out, .hall, .time, .tt, .hold, .cores, .dies, .objects, .ring, .msix, .supply]
  | .wakeDie .. =>
      [.out, .hall, .time, .tt, .hold, .dies, .objects, .ring, .msix, .supply]
  | .sleepCore .. =>
      [.out, .hall, .time, .tt, .hold, .cores, .objects, .ring, .msix]
  | .sleepDie .. =>
      [.out, .hall, .time, .tt, .hold, .dies, .objects, .ring, .msix]
  | .eventSemPost .. =>
      [.out, .hall, .time, .tt, .hold, .links, .cores, .ctxs, .sems, .dies, .objects, .ring, .msix, .supply,
        .alert]
  | .strobe =>
      [.out, .hall, .time, .tt, .hold, .objects, .ring, .msix]
  | .hold .. =>
      [.hold, .links, .objects, .ring, .supply]
  | .resume .. =>
      [.hold, .links, .objects, .ring]
  | .holdTick =>
      [.hall, .time, .hold, .objects, .ring, .supply]
  | .resumeTick =>
      [.out, .hall, .time, .tt, .hold, .links, .cores, .ctxs, .dies, .rope, .objects, .ring, .faults, .msix,
        .supply, .alert]
  | .keptResumeExpire .. =>
      [.hall, .time, .hold]
  | .linkTrain .. =>
      [.out, .time, .links, .objects, .ring]
  | .codewordUncorrectable .. | .laneRelockComplete .. =>
      [.out, .hold, .links, .fabric, .objects, .ring]
  | .freeSlotSend .. =>
      [.out, .links, .fabric, .objects, .ring]
  | .packetForward .. =>
      [.out, .hold, .links, .fabric, .objects, .ring, .supply]
  | .escapeWaitExpire .. =>
      [.out, .hall, .time, .links, .fabric, .objects, .ring]
  | .requestIssue .. | .memRead .. =>
      [.out, .links, .fabric, .movers, .objects, .ring]
  | .memWrite .. =>
      [.out, .links, .fabric, .mem, .poison, .stores, .maps, .movers, .rope, .objects, .ring]
  | .memAtomic .. =>
      [.out, .links, .fabric, .mem, .poison, .stores, .maps, .movers, .objects, .ring]
  | .memMessage .. =>
      [.out, .drawn, .hold, .links, .fabric, .mem, .poison, .cores, .ctxs, .sems, .movers, .dies, .objects, .ring,
        .msix, .supply, .alert]
  | .responseArrive .. | .flowBreak .. | .dxpResponse .. =>
      [.out, .hold, .links, .fabric, .ctxs, .movers, .train, .objects, .dict, .ring, .msix, .alert]
  | .leaseLapse .. | .respTimeoutExpire .. | .vc0RetryExpire .. =>
      [.out, .hall, .time, .hold, .links, .fabric, .ctxs, .movers, .train, .objects, .dict, .ring, .msix, .alert]
  | .ropeFrame .. =>
      [.out, .drawn, .time, .tt, .hold, .links, .fabric, .mem, .poison, .movers, .deltas, .train, .rope, .objects,
        .dict, .ring, .faults, .msix, .host, .supply, .boot]
  | .mm .. | .mmG .. | .vadd .. | .vsub .. | .vmul .. | .vfma .. | .vmax .. | .vmin .. | .vcvt .. | .vaddCp .. |
    .vredSum .. | .vredMax .. | .vredSsq .. | .sfExp .. | .sfLog .. | .sfRsqrt .. | .waitQ .. | .fence .. | .timeRd
    .. | .nop .. | .alu .. | .cmp .. | .ld .. | .br .. | .loop .. | .halt .. | .talRd .. | .talNf .. |
    .streamRefill .. =>
      [.out, .hold, .links, .cores, .ctxs, .objects, .ring, .msix, .alert]
  | .queueAdmit .. =>
      [.cores, .ctxs, .movers, .objects]
  | .passStart .. =>
      [.drawn, .accs, .cores, .objects, .ring]
  | .passComplete .. =>
      [.out, .hold, .links, .stores, .cores, .ctxs, .sems, .dies, .deltas, .objects, .ring, .msix, .supply, .alert]
  | .gatherHoldExpire .. =>
      [.hall, .time, .cores]
  | .gatherGroupStart .. =>
      [.cores, .objects]
  | .frameGateApply .. | .coreGate .. =>
      [.cores]
  | .vectorComplete .. =>
      [.out, .hold, .links, .stores, .maps, .cores, .ctxs, .sems, .dies, .deltas, .objects, .ring, .msix, .supply,
        .alert]
  | .movX .. =>
      [.out, .hold, .links, .cores, .ctxs, .movers, .objects, .ring, .msix, .alert]
  | .semInit .. | .semWait .. | .semTry .. =>
      [.out, .hold, .links, .cores, .ctxs, .sems, .objects, .ring, .msix, .alert]
  | .semPost .. | .semPostArrive .. =>
      [.out, .hold, .links, .cores, .ctxs, .sems, .posts, .dies, .objects, .ring, .msix, .supply, .alert]
  | .semLeaseLapse .. =>
      [.out, .hall, .time, .hold, .links, .ctxs, .sems, .objects, .ring, .msix, .alert]
  | .waitT .. =>
      [.out, .hall, .time, .hold, .links, .cores, .ctxs, .objects, .ring, .msix, .alert]
  | .waitTRelease .. =>
      [.hall, .time, .cores, .ctxs, .dies, .objects, .supply]
  | .fenceForm .. =>
      [.cores, .ctxs, .sems, .faults]
  | .fenceSpanExceeded .. =>
      [.hall, .time, .cores, .objects, .ring]
  | .st .. =>
      [.out, .hold, .links, .stores, .cores, .ctxs, .objects, .ring, .msix, .alert]
  | .tallyReadServe .. =>
      [.mem, .poison, .stores, .ctxs, .watch, .objects, .ring]
  | .dcStart .. =>
      [.out, .cores, .ctxs, .dies, .host, .supply]
  | .dcStop .. =>
      [.cores, .ctxs, .dies, .objects, .supply]
  | .contextRead .. =>
      [.out, .cores, .dies, .supply]
  | .seqImemLoad .. =>
      [.out, .imem, .cores, .dies, .supply]
  | .semSet .. =>
      [.out, .hold, .links, .cores, .ctxs, .sems, .dies, .objects, .ring, .msix, .supply, .alert]
  | .replay .. | .isolate .. =>
      [.out, .drawn, .hold, .links, .fabric, .mem, .poison, .stores, .maps, .accs, .cores, .ctxs, .sems, .movers,
        .dies, .objects, .ring, .faults, .msix, .supply, .alert]
  | .rerunEnd .. =>
      [.out, .hold, .links, .cores, .ctxs, .objects, .ring, .faults, .msix, .alert]
  | .descriptorStart .. | .tableWalkComplete .. =>
      [.out, .drawn, .hold, .links, .fabric, .mem, .poison, .stores, .maps, .cores, .ctxs, .sems, .movers,
        .objects, .ring, .msix, .alert]
  | .descriptorComplete .. =>
      [.out, .drawn, .hold, .links, .fabric, .mem, .poison, .stores, .maps, .cores, .ctxs, .sems, .movers, .dies,
        .objects, .ring, .msix, .supply, .alert]
  | .moverReset .. | .moverCheckRetry .. =>
      [.out, .drawn, .hold, .links, .fabric, .mem, .poison, .stores, .maps, .ctxs, .sems, .movers, .objects, .ring,
        .msix, .alert]
  | .translationInvalidate .. =>
      [.invals]
  | .invalidateComplete =>
      [.cores, .invals, .train]
  | .regionChangeEffective .. =>
      [.hall, .time, .regions, .objects, .ring]
  | .expanderRetry .. =>
      [.out, .drawn, .hold, .links, .accs, .cores, .ctxs, .sems, .objects, .ring, .faults, .msix, .alert]
  | .groupQuantise .. =>
      [.out, .hall, .time, .hold, .links, .fabric, .mem, .poison, .ctxs, .sems, .movers, .deltas, .train, .objects,
        .ring, .faults, .msix, .alert]
  | .normSum =>
      [.out, .hall, .time, .hold, .links, .fabric, .ctxs, .sems, .movers, .train, .objects, .ring, .faults, .msix,
        .alert]
  | .normRecordWrite =>
      [.hold, .mailboxes, .watch, .train]
  | .commitDecision =>
      [.out, .hall, .time, .hold, .links, .fabric, .mem, .poison, .stores, .cores, .ctxs, .sems, .movers, .deltas,
        .watch, .train, .rope, .objects, .dict, .ring, .faults, .msix, .alert]
  | .sweepEnd | .dieResetComplete .. =>
      [.out, .hold, .links, .fabric, .mem, .poison, .ctxs, .sems, .movers, .deltas, .train, .rope, .objects, .ring,
        .faults, .msix, .alert]
  | .sweepLimitExpire =>
      [.hall, .time, .hold, .train, .objects, .ring]
  | .restoreComplete =>
      [.mem, .poison, .train, .objects, .dict, .ring]
  | .belayManifestWrite =>
      [.mem, .poison, .train, .objects, .ring]
  | .tallyDelta =>
      [.mem, .poison, .ctxs, .deltas, .watch, .objects, .ring]
  | .fpRecordWrite =>
      [.hall, .time, .mailboxes, .train]
  | .fpCheck =>
      [.out, .hall, .time, .hold, .links, .fabric, .ctxs, .train, .objects, .dict, .ring, .msix, .alert]
  | .repairBlock .. =>
      [.out, .hold, .links, .fabric, .mem, .poison, .ctxs, .sems, .movers, .train, .objects, .dict, .ring, .faults,
        .msix, .alert]
  | .ropeOpen .. | .rekey .. =>
      [.out, .drawn, .links, .fabric, .rope, .objects, .ring]
  | .ropeAccept .. | .ropeSack .. | .rekeyAck .. | .probe .. | .ropeSend .. =>
      [.out, .links, .fabric, .rope, .objects, .ring]
  | .sessionOpenAttempt .. =>
      [.out, .hall, .drawn, .time, .links, .fabric, .rope, .objects, .ring]
  | .ropeDelta .. | .roundInfo .. | .regroup .. | .ropeBelay .. =>
      [.out, .links, .fabric, .mem, .poison, .movers, .rope, .objects, .ring]
  | .sackTimer .. =>
      [.hall, .time, .rope]
  | .resendTimeout .. | .probeIntervalExpire .. =>
      [.out, .hall, .time, .links, .fabric, .rope, .objects, .ring]
  | .rekeyIntervalExpire .. =>
      [.hall, .drawn, .time, .rope]
  | .nonceLimit .. =>
      [.drawn, .rope]
  | .roundDeadline =>
      [.hall, .time, .fabric, .mem, .poison, .movers, .rope, .objects, .ring]
  | .closePrepare .. =>
      [.fabric, .mem, .poison, .movers, .rope, .objects, .ring]
  | .closeAck .. =>
      [.fabric, .mem, .poison, .movers, .rope, .objects]
  | .closeCommit .. =>
      [.mem, .poison, .objects]
  | .closeAckLimitExpire =>
      [.out, .hall, .time, .hold, .links, .ctxs, .rope, .objects, .ring, .msix, .alert]
  | .sessionPaceExpire .. =>
      [.out, .hall, .time, .hold, .links, .fabric, .ctxs, .sems, .movers, .rope, .objects, .ring, .faults, .msix,
        .alert]
  | .memoryRetry .. =>
      [.out, .hold, .links, .poison, .ctxs, .objects, .ring, .msix, .memctl, .alert]
  | .scrubRead .. =>
      [.out, .drawn, .hold, .links, .mem, .poison, .ctxs, .objects, .ring, .msix, .memctl, .alert]
  | .migrationComplete =>
      [.objects, .ring, .memctl]
  | .memoryStackReset .. =>
      [.out, .hall, .time, .hold, .links, .fabric, .ctxs, .sems, .movers, .objects, .ring, .faults, .msix, .supply,
        .memctl, .alert]
  | .refInLost | .powerSample .. =>
      [.out, .hold, .links, .ctxs, .objects, .ring, .msix, .supply, .alert]
  | .refInRestore =>
      [.objects, .ring, .supply]
  | .coreWakeComplete .. =>
      [.out, .hall, .time, .hold, .links, .stores, .cores, .ctxs, .sems, .movers, .dies, .objects, .ring, .msix,
        .supply, .alert]
  | .dieWakeComplete .. =>
      [.hall, .time, .cores, .dies, .supply]
  | .bivouacWakeStart | .governorClear | .overvoltageReconnect =>
      [.hall, .time, .supply]
  | .ballastAdjust =>
      [.objects, .supply]
  | .targetTick | .targetTimeoutExpire | .braceRelease | .thermalWarnClear =>
      [.hall, .time, .objects, .ring, .supply]
  | .dipDeclare =>
      [.hall, .time, .supply, .alert]
  | .braceStart =>
      [.hall, .time, .hold, .links, .objects, .ring, .supply, .alert]
  | .braceResumeSend =>
      [.hold, .links, .supply]
  | .overvoltageDisconnect =>
      [.hall, .time, .objects, .ring, .supply, .alert]
  | .sessionIdleExpire .. =>
      [.hall, .time, .dict, .faults, .boot]
  | .campSwitch =>
      [.out, .hall, .drawn, .time, .links, .fabric, .stores, .maps, .imem, .accs, .cores, .ctxs, .sems, .movers,
        .posts, .dies, .invals, .objects, .dict, .ring, .faults, .supply, .boot]
  | .contextPaceExpire .. =>
      [.out, .hall, .time, .hold, .links, .cores, .ctxs, .objects, .ring, .faults, .msix, .alert]
  | .moverPaceExpire .. =>
      [.out, .hall, .time, .hold, .links, .ctxs, .objects, .ring, .faults, .msix, .alert]
  | .enginePaceExpire .. =>
      [.out, .hall, .time, .hold, .links, .fabric, .mem, .poison, .ctxs, .sems, .movers, .deltas, .train, .rope,
        .objects, .ring, .faults, .msix, .alert]
  | .laneLoss .. =>
      [.hold, .links, .objects]
  | .linkLoss .. =>
      [.out, .time, .hold, .links, .fabric, .ctxs, .sems, .movers, .objects, .ring, .msix, .alert]
  | .linkRetrainComplete .. =>
      [.out, .time, .hold, .links, .fabric, .objects, .ring]
  | .linkAgreementTimeout .. =>
      [.hold, .links]
  | .dieControllerFault .. =>
      [.out, .drawn, .hold, .links, .fabric, .mem, .poison, .stores, .maps, .imem, .accs, .cores, .ctxs, .sems,
        .movers, .dies, .train, .objects, .ring, .faults, .msix, .alert]
  | .watchdogExpire .. =>
      [.out, .hold, .links, .fabric, .ctxs, .sems, .movers, .train, .objects, .dict, .ring, .faults, .msix, .host,
        .alert, .boot]
  | .mpRestartComplete .. =>
      [.faults, .host]
  | .cairnStreamSend .. =>
      [.out, .links, .fabric, .rope, .objects, .ring, .faults, .msix, .host]
  | .jobLoad .. =>
      [.out, .tt, .hold, .links, .fabric, .mem, .poison, .cores, .ctxs, .sems, .movers, .deltas, .regions, .spans,
        .watch, .train, .rope, .objects, .dict, .ring, .faults, .job, .msix, .host, .memctl, .alert, .boot]
  | .jobUnload .. =>
      [.out, .hall, .drawn, .time, .tt, .hold, .links, .fabric, .mem, .poison, .stores, .accs, .cores, .ctxs,
        .sems, .movers, .deltas, .regions, .train, .rope, .objects, .ring, .faults, .job, .msix, .host, .alert,
        .boot]
  | .imemLoad .. =>
      [.out, .links, .fabric, .imem, .cores, .dies, .rope, .objects, .ring, .faults, .msix, .host, .supply]
  | .ctxStart .. | .ctxStop .. =>
      [.out, .links, .fabric, .cores, .ctxs, .dies, .rope, .objects, .ring, .faults, .msix, .host, .supply]
  | .ctxRead .. =>
      [.out, .links, .fabric, .mem, .poison, .cores, .dies, .rope, .objects, .ring, .faults, .msix, .host, .supply]
  | .flowOpen .. | .flowClose .. | .flowHead .. =>
      [.out, .links, .fabric, .movers, .rope, .objects, .ring, .faults, .msix, .host]
  | .bulkCopy .. =>
      [.out, .drawn, .links, .fabric, .mem, .poison, .rope, .objects, .ring, .faults, .msix, .host]
  | .bar2Read .. =>
      [.out, .drawn, .objects, .ring]
  | .bar2Write .. =>
      [.mem, .poison, .objects, .ring]
  | .hostFunctionReset =>
      [.out, .hold, .links, .fabric, .ctxs, .sems, .movers, .objects, .dict, .ring, .faults, .msix, .host, .alert,
        .boot]
  | .doeAttest .. =>
      [.out, .objects, .ring]
  | .doeMeasureLog | .readVin | .readIin | .readTemperature1 | .readTemperature2 | .readTemperature3 | .readPin |
    .pmbusRevision | .mfrStatus | .mfrState | .mfrCause | .mfrModule | .mfrSerial | .mfrEnergy | .smbusInvalid ..
    =>
      [.out]
  | .alertResponse =>
      [.out, .alert]
  | .perstDeassert | .ideKm .. =>
      [.host]

end Sys2Proof
end

