-- ==== Sys2Proof/Certificates/Slice0/Obligations.lean ====
section
/-! DEFINITION. The statements about the module, one proposition each.  Every row of the command
table has a statement whose conclusion is that `exec` answers a next state, with what it holds. -/

open Sys2Proof Sys2Proof.Machine

/-- A step takes the command at the front of the queue and runs it on the state with the rest of
the queue. -/
def Obligations.StepRunsTheFrontCommand : Prop :=
  ∀ (s : State) (c : Instr) (rest : List Instr),
    step { s with pending := c :: rest } = exec c { s with pending := rest }

/-- With nothing waiting, 1 ns of hall time passes and nothing else changes: the count moves by 64
units and by at most one unit of slewing (the model's choice: log entry 1). Only a count that
would leave its 70 bits stops. -/
def Obligations.EmptyQueuePassesOneNanosecond : Prop :=
  ∀ s : State, s.pending = [] →
    (s.hall + 65 < 2 ^ 70 → ∃ t, step s = .next t ∧ s.hall + 63 ≤ t.hall ∧ t.hall ≤ s.hall + 65 ∧
      t.time = { s.time with slew := t.time.slew, slewPhase := t.time.slewPhase } ∧
      t = { s with hall := t.hall, time := t.time }) ∧
    (2 ^ 70 ≤ s.hall + 63 → step s = .fault .hallTimeExhausted)

/-- The state after reset meets the invariant: memories, stores, maps and mailboxes in canonical
form, eight measurement registers with M7 zero, a log of at most 64 entries, a ring of at most
8,192 records. -/
def Obligations.ResetMeetsTheInvariant : Prop := State.reset.Inv

/-- Every step, from every state that meets the invariant, gives a state that meets it: no command
leaves a memory out of its canonical form, writes M7, or grows the measurement log or the cairn
ring past its bound (R437, R462). -/
def Obligations.EveryStepKeepsTheInvariant : Prop :=
  ∀ s t : State, s.Inv → step s = .next t → t.Inv

/-- Every command, in every state, completes, and changes nothing outside the parts of the state
that its row names: the queue of waiting commands stays, and every part not named is as it was.
The parts are those of Sys2Proof.Touches (R419 and the rules of each row). -/
def Obligations.EveryCommandCompletesWithinItsFrame : Prop :=
  ∀ (c : Instr) (s : State), ∃ t, exec c s = .next t ∧ Only c.touches s t

/-- The SVN floors never fall (R466): whatever is commanded, through resets and power failures,
the floor of no kind is lower after a step than before it. -/
def Obligations.SvnFloorsNeverFall : Prop :=
  ∀ (s t : State), step s = .next t → ∀ kind, Tbl.get 0 s.boot.floors kind ≤ Tbl.get 0 t.boot.floors kind

/-- A job is loaded only by JOB_LOAD (R453): whatever else is commanded, a module with no job has
none after it. -/
def Obligations.JobsComeOnlyFromJobLoad : Prop :=
  ∀ (c : Instr) (s t : State), exec c s = .next t → s.job.loaded = false → t.job.loaded = true → ∃ e, c = .jobLoad e

/-- Power failure (R387): with the bank empty in a dip or a critical temperature, event 0x3007 is
logged and streamed, FAULT_N is asserted and every domain stops: no command but the return of
power acts. The job and HBM contents are lost, and the module starts as from power-on. -/
def Obligations.PowerFailureStopsTheModule : Prop :=
  (∀ s : State, s.down = false → (s.supply.dip = true ∧ s.supply.bank = 0) ∨ s.supply.critical = true →
    let logged := s.log 0x3007 0 s.powerItems
    ∃ t, exec .powerFail s = .next t ∧ Logged s logged [0x3007] ∧ t.out = logged.streamAll.out ∧ t.faultN = false ∧
      t.down = true ∧ t.job.loaded = false ∧ t.mem = [] ∧ (∀ a n, t.read a n = List.replicate n 0)) ∧
  (∀ (s : State) (c : Instr), s.down = true → (∀ mv, c ≠ .powerOn mv) → (∀ straps, c ≠ .powerGood straps) → exec c s = .next s) ∧
  (∀ s : State, s.down = true →
    (∀ mv, 46000 ≤ mv → ∃ t, exec (.powerOn mv) s = .next t ∧ t.down = true ∧ t.supply.mv = mv / 10 * 10) ∧
    (∀ straps, 46000 ≤ s.supply.mv → ∃ t, exec (.powerGood straps) s = .next t ∧ t.down = false ∧ t.hall = 0 ∧ t.boot.stage = 0 ∧
      t.boot.good = true ∧ t.obj 0x1000 8 = 0))

/-- Device memory (R9, R355, R360): bytes written are read back, in little-endian order; every
other byte is as it was; a memory in canonical form stays so; a byte that nothing has written
reads as zero; and a write poisons no codeword. -/
def Obligations.MemoryKeepsWhatIsWritten : Prop :=
  ∀ (s : State) (a : Nat) (bs : List Byte), let t := s.write a bs
    t.read a bs.length = bs ∧ (∀ b n, b + n ≤ a ∨ a + bs.length ≤ b → t.read b n = s.read b n) ∧
    (Memory.wf s.mem = true → Memory.wf t.mem = true) ∧ (∀ b n, State.reset.read b n = List.replicate n 0) ∧
    (∀ b n, t.poisoned b n = true → s.poisoned b n = true) ∧
    (∀ b, a ≤ 64 * b → 64 * b + 64 ≤ a + bs.length → t.poisoned (64 * b) 64 = false) ∧
    ∀ n v, v < 256 ^ n → (s.write a (leBytes n v)).readNat a n = v ∧
      ∀ i, i < n → (s.write a (leBytes n v)).readNat (a + i) 1 = fld v (8 * i + 7) (8 * i)

/-- The failure of a job stage (R431): event 0x9010 is logged, JOB_STAGE_FAILED and JOB_FAIL_CAUSE
are set, the host is interrupted, every context stops, a hold is originated unless one is in
force, the schedule-fault flag is set and no RESUME follows; memory, flow contexts, sessions and
the job itself stay. It happens once, and only with a job loaded. That a second failure changes
nothing is the model's reading: log entry 12. -/
def Obligations.JobStageFails : Prop :=
  ∀ (s : State) (cause : Nat),
    (s.job.loaded = false ∨ s.obj 0x9003 3 = 1 → s.jobFail cause = s) ∧
    (s.job.loaded = true → s.obj 0x9003 3 ≠ 1 → let t := s.jobFail cause
      Logged s t [0x9010] ∧ t.obj 0x9003 3 = 1 ∧ t.obj 0x9003 4 = cause ∧ t.hold.schedFault = true ∧ t.hold.noResume = true ∧
      (∀ (c : Core) (x : Ctx), t.ctx c x = (s.ctx c x).stop) ∧
      (if Tbl.get false s.host.unmasked 2 then Out.msix 2 ∈ t.out else Tbl.get false t.host.pendingBits 2 = true) ∧
      t.hold.own = (if s.hold.joined = [] then s.hold.own ++ [(s.hold.ownSeq, 9)] else s.hold.own) ∧
      Only [.out, .hold, .links, .ctxs, .objects, .ring, .msix, .alert] s t)

/-- A core or mover hang on a core that has formed no fence since its contexts started is not
re-run (R426): the job stage fails, with cause 0x02 or 0x03, and no recovery starts. -/
def Obligations.NoFenceNoReplay : Prop :=
  ∀ (s : State) (core : Core), s.down = false → (s.core core).replay = [] → s.recovery core = none → s.job.loaded = true →
    s.obj 0x9003 3 ≠ 1 →
    (∀ x : Ctx, s.paceExempt core x = false → ∃ t, exec (.contextPaceExpire core x) s = .next t ∧
      t.obj 0x9003 3 = 1 ∧ t.obj 0x9003 4 = 2 ∧ t.recovery core = none) ∧
    (∀ (m : Mover), m.val / 2 = core.val → s.coreDown core = false →
      ((s.mover m).run = none ∧ (s.mover m).queue ≠ []) ∨ (∃ r, (s.mover m).run = some r ∧ (r.moved = false ∨ r.remaining = 0)) →
      ∃ t, exec (.moverPaceExpire m) s = .next t ∧ t.obj 0x9003 3 = 1 ∧ t.obj 0x9003 4 = 3 ∧ t.recovery core = none) ∧
    ∃ t, exec (.replay core) s = .next t ∧ t.out = .dcRefused .noFence :: s.out ∧ t.ctxs = s.ctxs

/-- Elements narrower than a byte (R159): in the 4-bit formats element 2i is the low half of byte
i and 2i + 1 its high half; in the 6-bit formats each group of four fills three bytes; a block of
32 takes 16 and 24 bytes; and what is packed is read back. -/
def Obligations.NarrowElementsArePacked : Prop :=
  (elemBits 9 = 4 ∧ elemBits 15 = 4 ∧ elemBits 7 = 6 ∧ elemBits 8 = 6) ∧
  (∀ (bs : List Byte) (i : Nat), i < bs.length →
    elemAt bs 4 (2 * i) = fld (bs.getD i 0).toNat 3 0 ∧ elemAt bs 4 (2 * i + 1) = fld (bs.getD i 0).toNat 7 4) ∧
  (∀ (bs : List Byte) (g j : Nat), 3 * g + 2 < bs.length → j < 4 →
    elemAt bs 6 (4 * g + j) = fld (leNat ((bs.drop (3 * g)).take 3)) (6 * j + 5) (6 * j)) ∧
  (∀ cs : List Nat, cs.length = 32 → (packElems 4 cs).length = 16 ∧ (packElems 6 cs).length = 24) ∧
  ∀ (w : Nat) (cs : List Nat) (i : Nat), w = 4 ∨ w = 6 → i < cs.length → elemAt (packElems w cs) w i = cs.getD i 0 % 2 ^ w

/-- A record of the cairn log (R437-R439): the newest of at most 8,192, with its version,
severity, event, number, time, domain and items; the number that follows is counted, and the
record that the ring loses; items are packed from bit 0, and none after the first that does not
fit. Bit 248, DROPPED, is 0 by the model's choice: log entry 10. -/
def Obligations.CairnRecordsHaveTheirLayout : Prop :=
  (∀ (s : State) (ev dom : Nat) (items : List (Nat × Nat)), ev < 2 ^ 16 → dom < 2 ^ 16 → s.faults.ring.length ≤ 8192 →
    let t := s.log ev dom items
    (∃ r, t.faults.ring = (r :: s.faults.ring).take 8192 ∧ (let w := r.toNat;
      fld w 255 252 = 2 ∧ fld w 251 250 = severity ev ∧ bitAt w 249 = !s.time.everLocked ∧ bitAt w 248 = false ∧
      fld w 247 232 = ev ∧ fld w 231 200 = s.obj 0x9004 2 % 2 ^ 32 ∧ fld w 199 136 = s.now % 2 ^ 64 ∧ fld w 135 120 = dom ∧
      fld w 119 0 = packItems 0 items)) ∧
    t.obj 0x9004 2 = (s.obj 0x9004 2 + 1) % 2 ^ 32 ∧
    t.obj 0x9004 3 = (if s.faults.ring.length = 8192 then (s.obj 0x9004 3 + 1) % 2 ^ 64 else s.obj 0x9004 3)) ∧
  (∀ (pos w v : Nat) (rest : List (Nat × Nat)), pos + w ≤ 120 →
    packItems pos ((w, v) :: rest) = v % 2 ^ w * 2 ^ pos + packItems (pos + w) rest) ∧
  (∀ (pos w v : Nat) (rest : List (Nat × Nat)), 120 < pos + w → packItems pos ((w, v) :: rest) = 0) ∧
  ∀ items, packItems 0 items < 2 ^ 120

/-- The machine after reset (R21, R36, R46, R82, R120, R355, R357, R412, R415, R458, R462, R486): hall
time 0 in UNSET, no hold, no job, no context running, memory and stores zero, links in their default
roles and down, READY 0, measurement registers zero, NOT_READY alone in MFR_STATUS. Where the rules give no value,
zero, idle and none are the model's choice: log entries 7 and 8. -/
def Obligations.TheStateAfterReset : Prop :=
  let s := State.reset
  s.pending = [] ∧ s.hall = 0 ∧ s.time.state = .unset ∧ s.time.isRoot = false ∧ s.time.parent = none ∧ s.hold.held = false ∧
  s.hold.offset = 0 ∧ s.job.loaded = false ∧ (∀ (c : Core) (x : Ctx), (s.ctx c x).status = .idle) ∧
  (∀ a n, s.read a n = List.replicate n 0) ∧ (∀ k, Tbl.get 0 s.stores k = 0) ∧ (∀ k, Tbl.get 0 s.maps k = 0) ∧
  s.obj 0x1000 8 = 0 ∧ s.obj 0x9003 1 = 0 ∧ s.obj 0x9003 3 = 0 ∧ s.boot.stage = 0 ∧ s.boot.alert = false ∧
  (∀ n, n < 8 → s.boot.measures.getD n [] = List.replicate 48 0) ∧ s.mfrStatus = 1 ∧ s.faultN = false ∧
  (∀ l : Link, s.role l = (if l.val % 16 = 15 then 2 else 1) ∧ s.linkUp l = false) ∧ s.tt.active = none ∧ s.tt.armedA = false ∧ s.tt.armedB = false ∧ (∀ c : FlowId, (s.flow c).state = .free) ∧ s.dict.sessions = []

/-- The time symbol of a link (R43): a fabric link that is up sends it, with the layout's fields,
and the SEQ of the next symbol of that link is the next one. -/
def Obligations.TimeSymbolIsSent : Prop :=
  ∀ (s : State) (link : Link), s.down = false → s.role link = 1 → s.linkUp link = true →
    let v := s.linkTime link
    ∃ t sym, exec (.timeSymbolSend link) s = .next t ∧ t.out = .timeSymbol link sym :: s.out ∧
      sym = 0x2#4 ++ 0x1#4 ++ BitVec.ofNat 8 v.txSeq ++ BitVec.ofNat 8 v.rxSeq ++ BitVec.ofNat 70 s.hall ++
        BitVec.ofNat 70 v.rxAt ++ BitVec.ofNat 3 s.time.state.code ++
        BitVec.ofNat 3 (if s.obj 0x9003 1 = 1 then 7 else s.time.tier) ++
        BitVec.ofNat 3 (s.time.rootIndex.getD 7) ++ BitVec.ofNat 16 s.time.rootBeat ++ BitVec.ofBool s.noTransit ++
        0#2 ∧
      (t.linkTime link).txSeq = (v.txSeq + 1) % 256 ∧ ∀ l : Link, l ≠ link → t.linkTime l = s.linkTime l

/-- A symbol received (R43): one that fails the checks of R43 is discarded and counted; from one
that passes, the link's record takes SEQ, STATE, TIER, ROOT_INDEX and ROOT_BEAT. -/
def Obligations.TimeSymbolIsReceived : Prop :=
  ∀ (s : State) (link : Link) (symbol : BitVec 192) (arrival : BitVec 70),
    s.down = false → s.role link = 1 → s.linkUp link = true →
    ∃ t, exec (.timeSymbolReceive link symbol arrival) s = .next t ∧
      let w := symbol.toNat
      if fld w 191 188 = 2 ∧ fld w 187 184 = 1 ∧ fld w 27 25 ≤ 4 ∧ fld w 1 0 = 0 then
        (t.linkTime link).heard = true ∧ (t.linkTime link).rxSeq = fld w 183 176 ∧
        (t.linkTime link).state = fld w 27 25 ∧ (t.linkTime link).tier = fld w 24 22 ∧
        (t.linkTime link).rootIndex = fld w 21 19 ∧ (t.linkTime link).beat = fld w 18 3
      else
        t.time.discarded = s.time.discarded + 1 ∧ t.time.links = s.time.links ∧ t.out = s.out

/-- Lock and its loss (R44, R46, R47, R50): 64 samples make an estimate, with its frequency
correction within 100 ppm; the dwell within threshold under a LOCKED parent ends in LOCKED; a lost
parent, and a silent one, with no other to take, leaves a module that has had time in HOLDOVER
without a parent; the holdover limit is logged, and fails the stage of a loaded job. Filters are opaque (log
entry 95); which parents may be taken is log entry 21. -/
def Obligations.LockAndHoldover : Prop :=
  ∀ s : State, s.down = false →
    (64 ≤ s.time.samples.length → s.time.isRoot = false →
      ∃ t, exec .offsetEstimate s = .next t ∧ t.time.offsetEst = Config.offsetFilter s.time.samples ∧
        t.time.freqAdj = max (-100000) (min 100000 (Config.freqFilter s.time.samples)) ∧ t.time.samples = []) ∧
    (∀ (since : Nat) (p : Link), s.time.state = .fine → s.time.within = some since → s.time.parent = some p →
      (s.linkTime p).state = 3 →
      ∃ t, exec .lockDwellExpire s = .next t ∧ t.time.state = .locked ∧ t.time.everLocked = true ∧
        t.hall = max s.hall (64 * (since + 1000 * s.obj 0x2003 4)) ∧ Logged s t [0x2001]) ∧
    (∀ p : Link, s.time.parent = some p → s.linkUp p = false → s.time.state ≠ .unset → s.time.state ≠ .holdover →
      (∀ l < 64, s.candidate l = false) →
      ∃ t, exec .parentLost s = .next t ∧ t.time.state = .holdover ∧ t.time.parent = none ∧ t.time.tier = 7 ∧
        t.time.holdoverAt = s.now ∧ Logged s t [0x2003]) ∧
    (∀ p : Link, s.time.parent = some p → s.time.state ≠ .unset → s.time.state ≠ .holdover →
      (∀ l < 64, l ≠ (p : Nat) → s.candidate l = false) →
      ∃ t, exec .symbolTimeout s = .next t ∧ t.time.state = .holdover ∧ t.time.parent = none ∧
        t.hall = max s.hall ((s.linkTime p).rxAt + 256000) ∧ (t.linkTime p).heard = false ∧ Logged s t [0x2003]) ∧
    (s.time.state = .holdover →
      ∃ t, exec .holdoverLimitExpire s = .next t ∧
        t.hall = max s.hall (64 * (s.time.holdoverAt + 1000 * s.obj 0x2003 2)) ∧
        (s.job.loaded = false → Logged s t [0x2004]) ∧
        (s.job.loaded = true → s.obj 0x9003 3 ≠ 1 →
          Logged s t [0x9010, 0x900A, 0x2004] ∧ t.obj 0x9003 3 = 1 ∧ t.obj 0x9003 4 = 0x0A))

/-- The root's source (R40-R42): a root tied to its source takes an edge within 100 ns of the whole
second that its own time predicts, and counts any other as a miss; three misses in a row lose the
reference, and so do 3 s without PTP; a SYNC, one-step or two-step, is followed by a DELAY_REQ, and
the answer gives TAI, which labels seconds or, with PTP as the source, starts the first root LOCKED
at it; with no source by 3.5 s the first root starts from its own counter with TAI_VALID 0. That
what is left of a slew counts in the edge's test is the model's choice: log entry 104. What is kept
of the epoch is log entry 23. -/
def Obligations.RootSource : Prop :=
  ∀ s : State, s.down = false →
    (∀ edge : BitVec 70, s.source = 1 → s.time.isRoot = true → s.time.started = true → s.time.tied = true →
      let own := (edge.toNat : Int) + s.time.epoch * 64 + (s.reach64 edge.toNat).time.slew
      let sec := nearestSecond own
      ∃ t, exec (.ppsEdge edge) s = .next t ∧ t.hall = max s.hall edge.toNat ∧
        ((own - sec * 64).natAbs ≤ 6400 → t.time.acquired = true ∧ t.time.taiValid = true ∧ t.time.misses = 0 ∧
          t.time.taiError = ((edge.toNat : Int) + (s.time.epoch - sec) * 64) / 64 ∧
          t.time.slew = -((edge.toNat : Int) + (s.time.epoch - sec) * 64) ∧
          -100000 ≤ t.time.freqAdj ∧ t.time.freqAdj ≤ 100000) ∧
        (6400 < (own - sec * 64).natAbs → t.time.misses = s.time.misses + 1)) ∧
    (s.source = 1 → s.time.isRoot = true → s.time.extLost = false →
      ∃ t, exec .ppsEdgeMissed s = .next t ∧ t.time.misses = s.time.misses + 1 ∧
        (2 ≤ s.time.misses → t.time.extLost = true ∧ t.time.taiValid = false ∧ Logged s t [0x2008]) ∧
        (s.time.misses < 2 → t.time.extLost = false ∧ t.time.taiValid = s.time.taiValid)) ∧
    (∀ domain : BitVec 8, domain.toNat = s.obj 0x2002 3 → s.source ≠ 0 →
      (∀ (n : BitVec 16) (two : Bool) (t1 : BitVec 64),
        ∃ t, exec (.ptpMessage domain (.sync n two t1)) s = .next t ∧ t.hall = s.hall ∧
          t.time.ptpSync = some (n.toNat, if two then none else some t1.toNat, s.hall) ∧
          (two = true → t.out = s.out) ∧
          (two = false → t.out = .delayReq s.time.ptpSeq :: s.out ∧ t.time.ptpReq = some (s.time.ptpSeq, s.hall))) ∧
      (∀ (n : BitVec 16) (t1 : BitVec 64) (t2 : Nat), s.time.ptpSync = some (n.toNat, none, t2) →
        ∃ t, exec (.ptpMessage domain (.followUp n t1)) s = .next t ∧
          t.time.ptpSync = some (n.toNat, some t1.toNat, t2) ∧ t.out = .delayReq s.time.ptpSeq :: s.out ∧
          t.time.ptpReq = some (s.time.ptpSeq, s.hall)) ∧
      (∀ (n : BitVec 16) (t4 : BitVec 64) (k t1 t2 t3 : Nat), s.time.ptpSync = some (k, some t1, t2) →
        s.time.ptpReq = some (n.toNat, t3) →
        let tai : Int := s.hall - (((t2 : Int) - 64 * t1) - (64 * t4.toNat - t3)) / 2
        let at_ := s.hall - (tai % 64).toNat
        (s.source = 1 → ∃ t, exec (.ptpMessage domain (.delayResp n t4)) s = .next t ∧ t.time.ptp = some (tai / 64, at_) ∧
          t.time.ptpReq = none ∧ t.hall = s.hall ∧ t.time.state = s.time.state) ∧
        (s.source = 2 → s.ownIndex = some 0 → s.time.started = false → s.time.state = .unset → 2 ≤ s.boot.stage →
          at_ ≤ 64 * 3500000000 →
          ∃ t, exec (.ptpMessage domain (.delayResp n t4)) s = .next t ∧
            t.hall = ((s.hall : Int) + (tai / 64 - s.obj 0x2002 2) * 64 - at_).toNat ∧
            t.time.isRoot = true ∧ t.time.state = .locked ∧ t.time.taiValid = true ∧ t.time.epoch = s.obj 0x2002 2 ∧
            Logged s t [0x2001]))) ∧
    (s.source = 2 → s.time.isRoot = true → s.time.extLost = false →
      let last := match s.time.ptp with | some p => p.2 | none => 0
      ∃ t, exec .ptpLossTimeout s = .next t ∧ t.hall = max s.hall (last + 192000000000) ∧
        t.time.extLost = true ∧ t.time.taiValid = false ∧ Logged s t [0x2008]) ∧
    (s.ownIndex = some 0 → s.time.started = false → s.time.state = .unset →
      ∃ t, exec .rootSourceWaitExpire s = .next t ∧ t.time.isRoot = true ∧
        t.time.state = .locked ∧ t.time.tier = 0 ∧ t.time.rootIndex = some 0 ∧ t.time.epoch = s.obj 0x2002 2 ∧
        Logged s t [0x2001] ∧
        (s.time.early = none → t.time.taiValid = false ∧ t.hall = max s.hall (64 * 3500000000)) ∧
        ∀ (tai : Int) (at_ : Nat), s.time.early = some (tai, at_) → t.time.taiValid = true ∧
          t.hall = (((max s.hall (64 * 3500000000) : Nat) : Int) + (tai - s.obj 0x2002 2) * 64 - at_).toNat)

/-- Roots at work (R45, R51, R55, R56): the beat goes on every 10 us; a beat that stands still is
noted after ROOT_TIMEOUT; a listed, LOCKED module becomes the root after its share of further
timeouts, and a listed module that has never had time starts it, with TAI if it has acquired a
source; TIME_OUT pulses at the whole second, or once for a STROBE of the timetable. -/
def Obligations.RootsAndPulses : Prop :=
  ∀ s : State, s.down = false →
    (s.time.isRoot = true →
      ∃ t, exec .rootBeatTick s = .next t ∧ t.time.rootBeat = (s.time.rootBeat + 1) % 65536 ∧
        t.hall = max s.hall (64 * (s.time.lastBeatTick + 10000)) ∧ t.time.lastBeatTick = s.time.lastBeatTick + 10000) ∧
    (∀ a : Nat, s.time.isRoot = false → s.time.rootIndex = some a →
      ∃ t, exec .rootBeatTimeout s = .next t ∧ t.time.beatLost = true ∧
        t.hall = max s.hall (64 * (s.time.beatAt + 1000 * s.obj 0x2003 1))) ∧
    (∀ a j : Nat, s.ownIndex = some j → s.time.isRoot = false → s.time.state = .locked → s.time.rootIndex = some a →
      a < j → s.time.beatLost = true → s.lowerBeating j (some s.time.beatAt) = false →
      ∃ t, exec .rootPromote s = .next t ∧ t.time.isRoot = true ∧ t.time.tier = 0 ∧ t.time.rootIndex = some j ∧
        t.time.parent = none ∧ t.hall = max s.hall (64 * (s.time.beatAt + (j - a) * (1000 * s.obj 0x2003 1))) ∧
        Logged s t [0x2006]) ∧
    (∀ j : Nat, s.ownIndex = some j → 0 < j → s.time.isRoot = false → s.time.started = false → s.time.state = .unset →
      s.lowerBeating j none = false →
      ∃ t, exec .rootPromote s = .next t ∧ t.time.isRoot = true ∧ t.time.state = .locked ∧ t.time.rootIndex = some j ∧
        t.time.taiValid = s.time.early.isSome ∧
        (s.time.early = none → t.hall = max s.hall (64 * (3500000000 + j * (1000 * s.obj 0x2003 1)))) ∧
        Logged s t [0x2006, 0x2001]) ∧
    (s.obj 0x2006 1 = 0 → s.obj 0xB020 1 = 1 →
      let second := max (s.time.lastPps + 1000000000) (roundUp s.now 1000000000)
      ∃ t, exec .ppsOutPulse s = .next t ∧ t.out = .pulse second 1000000 :: s.out ∧ t.time.lastPps = second ∧
        t.hall = max s.hall (64 * second)) ∧
    (∀ l i due : Nat, s.EventDue (isEvent 6 0) l i due → s.obj 0x2006 1 = 1 → s.obj 0xB020 1 = 2 →
      ∃ t, exec .strobe s = .next t ∧ t.hall = max s.hall (64 * (due + s.lag)) ∧ t.out = .pulse t.now 20 :: s.out)

/-- Banks and windows (R60, R64, R72, R73, R75): an armed switch makes its bank active at the
tick, with nothing armed; a batch brings 1,024 entries; a DATA window that has its entry and
follows the span before it, with hall time that permits timed traffic, sends its open word and is in
progress; each of its slots carries 512 bytes, zeros past the window's bytes, and returns the
credits owed; the window of an open word is accepted or discarded whole. A command with an instant
brings hall time to it: log entry 3. -/
def Obligations.BanksAndWindows : Prop :=
  ∀ s : State, s.down = false →
    (∀ b : Fin 2, s.tt.switch = some b → s.frozenAt (s.obj 0x2010 8 + s.lag) = false →
      ∃ t, exec .bankSwitch s = .next t ∧ t.tt.active = some b ∧ t.tt.switch = none ∧
        t.hall = max s.hall (64 * (s.obj 0x2010 8 + s.lag)) ∧ t.obj 0x2010 1 = b ∧ t.obj 0x3003 6 = 0 ∧
        (s.hall ≤ 64 * (s.obj 0x2010 8 + s.lag) → t.tt.origin = s.obj 0x2010 8)) ∧
    (∀ link : Link, s.tt.active.isSome → (s.engine link).fetched ≤ 3072 →
      ∃ t, exec (.ttBatchArrive link) s = .next t ∧ (t.engine link).fetched = (s.engine link).fetched + 1024) ∧
    (∀ (link : Link) (b : Fin 2) (e : TtEngine) (passed : Nat), s.tt.active = some b →
      s.nextWindow b link (2 * s.bankCount b link) (s.engine link) 0 = some (e, passed) →
      s.ownLost link = false → passed < e.fetched → s.poison = [] →
      let x := s.entry b link e.index
      let start := e.period + 5 * entStart x
      let w : TxWindow :=
        if entKind x = 3 then ⟨x, start, 0, (64 + (s.capacity x).2 + 511) / 512, 64 + (s.capacity x).2, (s.capacity x).1⟩
        else ⟨x, start, 0, entLength x, (s.sendSource b x).2, 0⟩
      e.spanEnd ≤ start → s.frozenAt (start + s.lag) = false → (s.reach (start + s.lag)).timeOk = true →
      ∃ t, exec (.windowStart link) s = .next t ∧ t.hall = max s.hall (64 * (start + s.lag)) ∧
        t.out = .windowOpen link (openWord x w.bytes) :: s.out ∧ (t.engine link).window = some w ∧
        (t.engine link).fetched = e.fetched - (passed + 1)) ∧
    (∀ (link : Link) (b : Fin 2) (w : TxWindow), s.tt.active = some b → (s.engine link).window = some w →
      let due := w.start + 5 * dataSlot (entStart w.entry) w.sent + s.lag
      s.frozenAt due = false → s.poison = [] →
      let n := min 512 (w.bytes - 512 * w.sent)
      ∃ t, exec (.windowSlotSend link) s = .next t ∧ t.hall = max s.hall (64 * due) ∧
        t.out = .credits link (s.link link).owed ::
          .slot link ((List.range n).map (fun i => s.windowByte w (s.sendSource b w.entry).1 (512 * w.sent + i)) ++
            List.replicate (512 - n) 0) false :: s.out ∧
        (t.engine link).window = if w.sent + 1 < w.slots then some { w with sent := w.sent + 1 } else none) ∧
    (∀ (link : Link) (w : OpenWord),
      ∃ t, exec (.windowOpenReceive link w) s = .next t ∧
        (∀ pat, s.landPattern w = some pat →
          t.rxOf link = some ⟨w, !s.landPermitted w pat, pat, 0, false, [], []⟩) ∧
        (s.landPattern w = none → t.rxOf link = some ⟨w, true, none, 0, false, [], []⟩))

/-- Landings (R73, R78, R496): a good slot of an accepted DATA window without a pattern is written
to device memory where it belongs, and nowhere else; a bad one is counted, sets the schedule-fault
flag and is written nowhere; a REDUCE group that is held whole is combined with its local operand,
written back, and held no longer. A REDUCE group with a discarded slot is log entry 100. -/
def Obligations.SlotsLand : Prop :=
  ∀ (s : State) (link : Link) (w : RxWindow), s.down = false → s.rxOf link = some w →
    (∀ data : SlotWord, w.open_.op = 0 → w.refused = false → (s.link link).badSlots = 0 →
      s.sleepingTarget w.open_ = none → w.pattern = none → w.open_.dstKind = 0 →
      let bytes := data.bytes.take (min 512 (w.open_.byteCount - 512 * w.slots))
      let a := w.open_.dstAddr.toNat + 512 * w.slots
      ∃ t, exec (.slotLand link data false false) s = .next t ∧ t.read a bytes.length = bytes ∧
        (∀ x, x < a ∨ a + bytes.length ≤ x → Tbl.get 0 t.mem x = Tbl.get 0 s.mem x) ∧
        t.rxOf link = some { w with slots := w.slots + 1 }) ∧
    (∀ (data : SlotWord) (overflow : Bool),
      ∃ t, exec (.slotLand link data true overflow) s = .next t ∧ t.mem = s.mem ∧ t.stores = s.stores ∧
        t.mailboxes = s.mailboxes ∧ t.obj 0x2016 link = (s.obj 0x2016 link + 1) % 2 ^ 32 ∧
        t.hold.schedFault = true ∧ (t.rxOf link).map (·.slots) = some (w.slots + 1)) ∧
    (∀ j : Nat, w.wholeGroup = some j →
      let o := w.open_
      let lo := groupBytes o.op.toNat * j
      let mine := w.held.filter fun b => decide (lo ≤ b.1) && decide (b.1 < lo + groupBytes o.op.toNat)
      let operand := (List.range mine.length).map fun i =>
        s.landRead o.dstKind.toNat o.dstAddr.toNat ((lo + i : Nat) : Int)
      let r := s.reduce o.op.toNat o.tag.toNat operand (mine.map (·.2))
      o.dstKind = 0 → s.poison = [] →
      ∃ t, exec (.reduceGroupCombine link) s = .next t ∧ t.read (o.dstAddr.toNat + lo) r.1.length = r.1 ∧
        t.rxOf link = some { w with held := w.held.filter fun b =>
          !(decide (lo ≤ b.1) && decide (b.1 < lo + groupBytes o.op.toNat)) } ∧
        t.deltas = if o.op = 4 then s.deltas else s.deltas ++ [r.2])

/-- Events and bivouac (R77, R78, R202, R203, R371, R372): the EVENT that is next fires at its time,
once: a sleeping core or die begins to wake; a core whose contexts are all parked or idle drains,
one with work does not and the event is counted; the die sleeps once its 48 cores do; an event posts
one to a semaphore of a clocked core, and a semaphore that does not exist is counted. A drained core
sleeps once its queues are empty; a wake ends 50 ns, of a die 20 us, after it began. That SLEEP_DIE
is ignored unless every core is gated is the model's reading: log entry 86. -/
def Obligations.EventsAndBivouac : Prop :=
  ∀ s : State, s.down = false →
    (∀ (core : Core) (l i due : Nat), s.EventDue (isEvent 1 core) l i due → (s.core core).power = .asleep →
      ∃ t, exec (.wakeCore core) s = .next t ∧ t.hall = max s.hall (64 * (due + s.lag)) ∧
        (t.core core).power = .waking ∧ (t.core core).wakeAt = t.now ∧
        Tbl.get 0 (t.engine l).fired i = Tbl.get 0 (s.engine l).fired i + 1) ∧
    (∀ (die : Die) (l i due : Nat), s.EventDue (isEvent 2 die) l i due → Tbl.get .awake s.dies die = .asleep →
      ∃ t, exec (.wakeDie die) s = .next t ∧ t.hall = max s.hall (64 * (due + s.lag)) ∧
        Tbl.get .awake t.dies die = .waking ∧ Tbl.get 0 t.supply.dieWakes die = t.now ∧ t.cores = s.cores) ∧
    (∀ (core : Core) (l i due : Nat), s.EventDue (isEvent 3 core) l i due →
      ∃ t, exec (.sleepCore core) s = .next t ∧ t.hall = max s.hall (64 * (due + s.lag)) ∧
        (s.coreParked core = true → (s.core core).power = .awake → (t.core core).power = .draining) ∧
        (s.coreParked core = false → t.cores = s.cores ∧ t.obj 0x2014 3 = (s.obj 0x2014 3 + 1) % 2 ^ 32 ∧
          Logged s t [0x2019])) ∧
    (∀ (die : Die) (l i due : Nat), s.EventDue (isEvent 4 die) l i due →
      ∃ t, exec (.sleepDie die) s = .next t ∧ t.hall = max s.hall (64 * (due + s.lag)) ∧
        ((∀ i < 48, (s.core (48 * die + i)).power = .asleep) → Tbl.get .awake t.dies die = .asleep) ∧
        ((∃ i < 48, (s.core (48 * die + i)).power ≠ .asleep) → t.dies = s.dies ∧
          t.obj 0x2014 3 = (s.obj 0x2014 3 + 1) % 2 ^ 32 ∧ Logged s t [0x2019])) ∧
    (∀ (core : Core) (sem : BitVec 8) (l i due : Nat),
      s.EventDue (fun e => isEvent 5 core e && entSrc e == sem.toNat) l i due →
      ∃ t, exec (.eventSemPost core sem) s = .next t ∧ t.hall = max s.hall (64 * (due + s.lag)) ∧
        (sem.toNat < 64 → (s.core core).power = .awake → s.semWaiters core sem.toNat = [] →
          (s.sem core sem.toNat).count.toNat < 65535 →
          (t.sem core sem.toNat).count = (s.sem core sem.toNat).count + 1) ∧
        (64 ≤ sem.toNat → t.sems = s.sems ∧ t.obj 0x4030 2 = (s.obj 0x4030 2 + 1) % 2 ^ 32 ∧ Logged s t [0x4033])) ∧
    (∀ core : Core, (s.core core).power = .draining → s.queuesEmpty core = true →
      ∃ t, exec (.coreGate core) s = .next t ∧ (t.core core).power = .asleep) ∧
    (∀ core : Core, (s.core core).power = .waking → Tbl.get .awake s.dies (core / 48) = .awake →
      ∃ t, exec (.coreWakeComplete core) s = .next t ∧ t.hall = max s.hall (64 * ((s.core core).wakeAt + 50)) ∧
        ((s.core core).latePosts = [] → (s.core core).lateScale = false → (t.core core).power = .awake)) ∧
    (∀ die : Die, Tbl.get .awake s.dies die = .waking →
      ∃ t, exec (.dieWakeComplete die) s = .next t ∧ Tbl.get .awake t.dies die = .awake ∧
        t.hall = max s.hall (64 * (Tbl.get 0 s.supply.dieWakes die + 20000)))

/-- The hall hold (R82-R86): a message that fails the checks is discarded and counted; a new HOLD
whose tick is still to come is joined, one whose tick has passed stops the module at once and sets
the schedule-fault flag; a repeat does nothing; a RESUME counts for its joined hold or is kept;
timed work stops at the hold tick and goes on at the resume tick, HOLD_OFFSET grown by the hold
length once a bank is active; a hold past its limit fails the job stage. That a late HOLD stops
the module at once, and that the clock is brought to an instant, are the model's reading: log
entries 3 and 15. -/
def Obligations.HoldsAndResumes : Prop :=
  ∀ s : State, s.down = false →
    (∀ (link : Link) (msg : BitVec 256),
      let w := msg.toNat
      let id : HoldId := ⟨fld w 247 232, fld w 231 216, fld w 215 208⟩
      ∃ t, exec (.hold link msg) s = .next t ∧
        (holdMessageOk w 1 = false → t.hold = s.hold ∧ t.obj 0x6000 7 = (s.obj 0x6000 7 + 1) % 2 ^ 32 ∧
          Logged s t [0x600A]) ∧
        (holdMessageOk w 1 = true → s.hold.seen.contains (id.origin, id.seq, 1) = true → Only [.links] s t ∧
          ∀ l, (t.link l).queue = (s.link l).queue) ∧
        (holdMessageOk w 1 = true → s.hold.seen.contains (id.origin, id.seq, 1) = false → s.hold.tick = none →
          s.hold.held = false → s.hold.joined = [] → t.hold.tick = some (fld w 199 136) ∧ t.hold.joined = [id] ∧
          (s.now ≤ fld w 199 136 → t.hold.held = false ∧ t.hold.schedFault = s.hold.schedFault) ∧
          (fld w 199 136 < s.now → t.hold.held = true ∧ t.hold.schedFault = true ∧ Logged s t [0x2013, 0x2015]))) ∧
    (∀ (link : Link) (msg : BitVec 256),
      let w := msg.toNat
      let m : ResumeMsg := ⟨fld w 247 232, fld w 231 216, fld w 199 136, (msgLost w).take (fld w 207 200)⟩
      ∃ t, exec (.resume link msg) s = .next t ∧
        (holdMessageOk w 2 = false → t.hold = s.hold ∧ t.obj 0x6000 7 = (s.obj 0x6000 7 + 1) % 2 ^ 32 ∧
          Logged s t [0x600A]) ∧
        (holdMessageOk w 2 = true → s.hold.seen.contains (m.origin, m.seq, 2) = true → Only [.links] s t ∧
          ∀ l, (t.link l).queue = (s.link l).queue) ∧
        (holdMessageOk w 2 = true → s.hold.seen.contains (m.origin, m.seq, 2) = false →
          if s.hold.joined.any (fun i => i.origin == m.origin && i.seq == m.seq)
          then t.hold.resumes = s.hold.resumes ++ [m] ∧ t.hold.kept = s.hold.kept
          else t.hold.kept = s.hold.kept ++ [(m, s.now)] ∧ t.hold.resumes = s.hold.resumes)) ∧
    (∀ tick : Nat, s.hold.tick = some tick → s.hold.held = false →
      ∃ t, exec .holdTick s = .next t ∧ t.hold = { s.hold with held := true } ∧ t.hall = max s.hall (64 * tick) ∧
        (s.supply.cutPending = true → t.supply.cut = true) ∧ Logged s t [0x2013]) ∧
    (∀ tick : Nat, s.hold.tick = some tick → s.hold.held = true → s.hold.allResumed = true →
      namedLinks s.hold = [] → s.hold.later = [] → s.tt.switch = none →
      ∃ t, exec .resumeTick s = .next t ∧ t.hall = max s.hall (64 * s.hold.resumeTick) ∧
        t.hold = { s.hold with
          held := false, tick := none, joined := [], resumes := []
          offset := s.hold.offset + if s.tt.active.isSome then s.hold.resumeTick - tick else 0
          lastLength := s.hold.resumeTick - tick, endedAt := s.hold.resumeTick }) ∧
    (∀ tick : Nat, s.hold.tick = some tick → s.hold.held = true →
      ∃ t, exec .holdLimitExpire s = .next t ∧ t.hall = max s.hall (64 * (tick + 1000 * s.obj 0x2013 6)) ∧
        (s.job.loaded = false → Logged s t [0x9009]) ∧
        (s.job.loaded = true → s.obj 0x9003 3 ≠ 1 →
          Logged s t [0x9010, 0x9009] ∧ t.obj 0x9003 3 = 1 ∧ t.obj 0x9003 4 = 0x11)) ∧
    (∀ (origin seq : BitVec 16) (r : ResumeMsg × Nat),
      (s.hold.kept.find? fun r => r.1.origin == origin.toNat && r.1.seq == seq.toNat) = some r →
      ∃ t, exec (.keptResumeExpire origin seq) s = .next t ∧
        t.hold = { s.hold with kept := s.hold.kept.erase r } ∧ t.hall = max s.hall (64 * (r.2 + 1000 * s.obj 0x2013 6)))

/-- Links (R34, R87, R94-R96, R422, R429): training brings a fabric link up when its partner is
the one of the map, and refuses any other by its state; a lane or a link that is lost holds the
hall, and sets the schedule-fault flag; a lane that fails to relock is retired, and a link that
fails to retrain is lost until warm reset; a partner not heard from is named in the RESUME; an
uncorrectable codeword is counted and spoils the timed slots it holds. -/
def Obligations.LinksTrainAndFail : Prop :=
  ∀ (s : State) (link : Link), s.down = false →
    (∀ (partner : BitVec 16) (plink : Link) (entry : BitVec 16) (versions : List Nat),
      s.role link = 1 → (s.link link).permanent = false → s.obj 0x6000 3 ≠ 0 → mapUsed (s.mapEntry link) = true →
      s.mapOk = true →
      ∃ t, exec (.linkTrain link partner plink entry versions) s = .next t ∧
        if versions.any (2 ≤ ·) = false then t.obj 0x6002 link = 5 ∧ Logged s t [0x6004]
        else if partner.toNat ≠ s.partnerOf (s.mapEntry link) ∨ entry.toNat % 512 ≠ s.mapEntry link % 512 then
          t.obj 0x6002 link = 6 ∧ Logged s t [0x6005]
        else t.obj 0x6002 link = (if s.obj 0x6005 link = 0x0F then 2 else 3) ∧
          t.obj 0x6003 link = partner.toNat * 64 + plink ∧ t.link link = (s.link link).fresh ∧
          t.linkTime link = .reset ∧ t.out = .offer link s.moduleNumber (s.mapEntry link) [2] :: s.out ∧
          Logged s t [0x6001]) ∧
    (∀ lane : Lane, s.linkUp link = true → (s.link link).relock = none → bitAt (s.obj 0x6005 link) lane = true →
      ∃ t, exec (.laneLoss link lane) s = .next t ∧ (t.link link).relock = some lane.val ∧
        t.obj 0x9005 5 = (s.obj 0x9005 5 + 1) % 2 ^ 32 ∧
        (s.role link = 1 → (t.link link).holdSeq = some s.hold.ownSeq ∧ t.hold.schedFault = true) ∧
        (s.role link ≠ 1 → t.hold = s.hold)) ∧
    (∀ lane : Lane, (s.link link).relock = some lane.val →
      (recent s.now (1000000 * s.obj 0x9001 2)
          ((((lane.val, s.now) :: (s.link link).laneTransients).filter (·.1 == lane.val)).map (·.2)) < s.obj 0x9001 1 →
        ∃ t, exec (.laneRelockComplete link lane true true) s = .next t ∧ (t.link link).relock = none ∧
          (t.link link).holdSeq = none ∧ t.obj 0x6005 link = s.obj 0x6005 link ∧ Logged s t [0x9006]) ∧
      (s.obj 0x6005 link = 0x0F → ∀ partnerOk : Bool,
        ∃ t, exec (.laneRelockComplete link lane false partnerOk) s = .next t ∧ (t.link link).relock = none ∧
          t.obj 0x6005 link = 0x0F - 2 ^ lane.val ∧ t.obj 0x6002 link = 3 ∧ Logged s t [0x9008, 0x6003])) ∧
    (s.linkUp link = true → s.hall < (s.linkTime link).rxAt + 256000 → s.time.parent ≠ some link →
      ∃ t, exec (.linkLoss link) s = .next t ∧ t.obj 0x6002 link = 1 ∧ (t.link link).retraining = true ∧
        t.obj 0x9005 6 = (s.obj 0x9005 6 + 1) % 2 ^ 32 ∧
        (s.role link = 1 → (t.link link).holdSeq = some s.hold.ownSeq ∧ t.hold.schedFault = true)) ∧
    ((s.link link).retraining = true →
      (recent s.now (1000000000 * s.obj 0x9001 4) (s.now :: (s.link link).linkTransients) < s.obj 0x9001 3 →
        ∃ t, exec (.linkRetrainComplete link true true) s = .next t ∧ (t.link link).retraining = false ∧
          t.obj 0x6002 link = (if s.obj 0x6005 link = 0x0F then 2 else 3) ∧
          (t.link link).credits = (s.link link).fresh.credits ∧ t.linkTime link = .reset ∧ Logged s t [0x9007]) ∧
      (∀ partnerOk : Bool, (s.link link).queue = [] → (s.link link).sending = none →
        ∃ t, exec (.linkRetrainComplete link false partnerOk) s = .next t ∧ t.obj 0x6002 link = 4 ∧
          (t.link link).permanent = true ∧ Logged s t [0x9008, 0x6002])) ∧
    (∀ (q cause : Nat), (s.link link).holdSeq = some q → s.role link = 1 → s.hold.own.find? (·.1 == q) = some (q, cause) →
      s.hold.noResume = false → s.hold.toName = [] →
      ∃ t, exec (.linkAgreementTimeout link) s = .next t ∧ (t.link link).holdSeq = none ∧
        t.hold.resumes = s.hold.resumes ++ [⟨s.moduleNumber, q, s.leadTick, [s.linkName link]⟩]) ∧
    (∀ (slots : Fin 3) (flits : Bool),
      ∃ t, exec (.codewordUncorrectable link slots flits none) s = .next t ∧
        t.obj 0x6004 link = (s.obj 0x6004 link + 1) % 2 ^ 32 ∧
        (slots.val ≠ 0 → (t.link link).badSlots = (s.link link).badSlots + slots ∧ t.hold.schedFault = true ∧
          Logged s t [0x6007]) ∧
        (slots.val = 0 → t.links = s.links ∧ t.hold = s.hold))

/-- Packets and flow contexts (R98-R110, R114): a free slot takes in credits, returns those owed, and
carries a packet's flits on, and with its last ones the packet leaves; a packet in transit is queued
for its hop, a hold or resume message is taken in as such, a packet for this module is delivered, a
malformed one is counted; a packet that has waited moves to VC4; a request that may issue reserves
its response, takes the next SEQ and is sent; its response frees the reservation, and one that
matches none is counted; a BREAK, a lapsed lease and a missing response break an open context, with
the error of each. Corners of packets are log entries 39, 113 and 115. -/
def Obligations.PacketsAndFlows : Prop :=
  ∀ s : State, s.down = false →
    (∀ (link : Link) (credits : List Nat) (q : Queued) (r : Nat), s.linkUp link = true → s.fabric.waiting = [] →
      (s.link link).queue = [] → (s.link link).sending = some (q, r) →
      ∃ t, exec (.freeSlotSend link credits) s = .next t ∧
        (t.link link).credits = (List.range 5).map (fun i =>
          min (fullCredits.getD i 0) ((s.link link).credits.getD i 0 + credits.getD i 0)) ∧
        (r ≤ s.slotFlits link → t.out = .packet link q.p :: .credits link (s.link link).owed :: s.out ∧
          (t.link link).sending = none) ∧
        (s.slotFlits link < r → t.out = .credits link (s.link link).owed :: s.out ∧
          (t.link link).sending = some (q, r - s.slotFlits link) ∧ (t.link link).owed = [0, 0, 0, 0, 0])) ∧
    (∀ (die : HDie) (port : Fin 35) (p : Packet),
      (∀ l : Link, portLink die port = some l.val → holdIn p = some 1 →
        exec (.packetForward die port p) s = exec (.hold l (BitVec.ofNat 256 (leNat p.data))) s) ∧
      (∀ l : Link, portLink die port = some l.val → holdIn p = some 2 →
        exec (.packetForward die port p) s = exec (.resume l (BitVec.ofNat 256 (leNat p.data))) s) ∧
      (portLink die port = none ∨ holdIn p = none →
        ∃ t, exec (.packetForward die port p) s = .next t ∧
          (p.ok = false → t.obj 0x6000 7 = (s.obj 0x6000 7 + 1) % 2 ^ 32) ∧
          (p.ok = true → s.portRoom die port p = true →
            (p.dst = s.moduleNumber → p.op ≠ 6 → t.out = .deliver p :: s.out) ∧
            (p.dst = s.moduleNumber → p.op = 6 → s.fabric.vc0Ring.length < 256 →
              t.fabric.vc0Ring = s.fabric.vc0Ring ++ [p]) ∧
            (∀ l, p.dst ≠ s.moduleNumber → s.noTransit = false ∨ p.vc = 0 → p.vc ≠ 2 → p.vc ≠ 3 →
              s.orderedHop p.dst p.seq (portLink die port) = .link l → l / 32 = die.val ∨ s.portRoom (l / 32) 34 p = true →
              (t.link l).queue = (s.link l).queue ++
                [⟨if l / 32 = die.val then port else 34, false, false, false, some p.vc, p.hopped p.vc false⟩]) ∧
            (∀ l, p.dst ≠ s.moduleNumber → s.noTransit = false → p.vc = 2 ∨ p.vc = 3 →
              s.adaptiveHop p.dst p.vc p.flits = .link l → l / 32 = die.val ∨ s.portRoom (l / 32) 34 p = true →
              (t.link l).queue = (s.link l).queue ++
                [⟨if l / 32 = die.val then port else 34, false, false, true, some p.vc, p.hopped p.vc false⟩])))) ∧
    (∀ (p : Packet) (w : Waiting) (l : Nat),
      (s.fabric.waiting.find? fun w => w.p == p && (p.vc == 2 || p.vc == 3) && w.buffered && !w.escaping) = some w →
      p.dst ≠ s.moduleNumber → s.orderedHop p.dst p.seq (portLink w.die w.port) = .link l → l / 32 = w.die →
      p.flits ≤ (s.link l).credits.getD 4 0 →
      ∃ t, exec (.escapeWaitExpire p) s = .next t ∧ t.hall = max s.hall (64 * (w.since + s.obj 0x6000 4)) ∧
        (t.link l).queue = (s.link l).queue ++ [⟨w.port, w.own, false, true, some p.vc, p.hopped 4 true⟩] ∧
        t.fabric.waiting = s.fabric.waiting.erase w) ∧
    (∀ (die : HDie) (r : Request), s.nextRequest die [] s.fabric.waitReq = some r →
      s.poisoned (flowTable + 128 * r.ctx.val) 128 = false →
      let f := s.flow r.ctx
      ∃ t, exec (.requestIssue die) s = .next t ∧ t.fabric.waitReq = s.fabric.waitReq.erase r ∧
        (t.flow r.ctx).txSeq = f.txSeq + 1 ∧ (t.flow r.ctx).outstanding = f.outstanding + 1 ∧
        t.fabric.inFlight = s.fabric.inFlight ++ [{ r with seq := f.txSeq.toNat, bytes := r.reserve, at_ := s.now }] ∧
        s.Sends t die ⟨packetHeader r.op (if f.ordered then 4 else f.reqVc.toNat) s.moduleNumber f.peerModule.toNat
            f.peerContext.toNat r.ctx f.txSeq.toNat f.stageKey.toNat r.addr r.addrKind r.length 0 0 0 0 0, r.data⟩
          (match r.issuer with | .mover m _ _ => some (m / 96) | _ => none)) ∧
    (∀ (die : HDie) (p : Packet), p.ok = true → 0x21 ≤ p.op → p.op ≤ 0x25 → p.dst = s.moduleNumber →
      (∀ r, (s.fabric.inFlight.find? fun r => r.ctx.val == p.dstCtx && r.seq == p.seq && home r.ctx == die.val) = some r →
        s.poisoned (flowTable + 128 * r.ctx.val) 128 = false → (s.flow r.ctx).state = .opened →
        r.issuer ≠ .repair ∨ responseStatus p r = 0 →
        ∃ t, exec (.responseArrive die p) s = .next t ∧ t.fabric.inFlight = s.fabric.inFlight.erase r ∧
          (t.flow r.ctx).outstanding = (s.flow r.ctx).outstanding - 1) ∧
      ((s.fabric.inFlight.find? fun r => r.ctx.val == p.dstCtx && r.seq == p.seq && home r.ctx == die.val) = none →
        ∃ t, exec (.responseArrive die p) s = .next t ∧ t.obj 0x6000 8 = (s.obj 0x6000 8 + 1) % 2 ^ 32 ∧
          t.fabric = s.fabric)) ∧
    (∀ p : Packet, p.op = 7 → p.ok = true → p.dst = s.moduleNumber → (s.flow p.dstCtx).state = .opened →
      ∃ t, exec (.flowBreak p) s = .next t ∧ (t.flow p.dstCtx).state = .broken ∧ (t.flow p.dstCtx).error = 0xA ∧
        ∀ r ∈ t.fabric.inFlight, r.ctx.val ≠ p.dstCtx) ∧
    (∀ c : FlowId, (s.flow c).state = .opened →
      ∃ t, exec (.leaseLapse c) s = .next t ∧ (t.flow c).state = .broken ∧ (t.flow c).error = 9 ∧
        t.hall = max s.hall (64 * (1000 * (s.flow c).leaseEnd.toNat))) ∧
    (∀ (c : FlowId) (seq : BitVec 32) (r : Request),
      (s.fabric.inFlight.find? fun r => r.ctx == c && r.seq == seq.toNat) = some r → (s.flow c).state = .opened →
      ∃ t, exec (.respTimeoutExpire c seq) s = .next t ∧ (t.flow c).state = .broken ∧ (t.flow c).error = 0xB ∧
        t.hall = max s.hall (64 * (r.at_ + 1000 * s.respTimeout c)))

/-- Remote operations at their target (R109-R114): a READ is answered with the bytes it names, and
changes none; a WRITE puts its bytes where it names, and is answered; an ATOMIC replaces the old
value, which it returns, by its function of it; a MESSAGE that fits is appended to the ring behind
its header of 16 bytes; with another key than the context's each of them is answered with status
0x01 and changes no byte. Ring room, the length limit and the die that a response leaves are the
model's reading where R104 to R114 leave them open: log entries 39, 111 and 113. -/
def Obligations.RemoteOperations : Prop :=
  ∀ (s : State) (p : Packet), s.down = false →
    let die := home p.dstCtx
    let f := s.flow p.dstCtx
    let answer := fun (op len operand status : Nat) (data : List Byte) => (⟨packetHeader op 1 s.moduleNumber p.src p.srcCtx
      p.dstCtx p.seq f.stageKey.toNat 0 0 len 0 0 operand 0 status, data⟩ : Packet)
    (s.Accepts p 1 → p.length ≤ 4096 → s.targetCheck p false p.length = none → s.poison = [] →
      ∃ t, exec (.memRead p) s = .next t ∧ s.Sends t die (answer 0x21 p.length 0 0 (s.targetRead p p.length)) (cdieOf p) ∧
        t.mem = s.mem ∧ t.stores = s.stores ∧
        (t.flow p.dstCtx).rxNext = if f.ordered then f.rxNext + 1 else f.rxNext) ∧
    (s.Accepts p 2 → s.targetCheck p true p.length = none → s.rope.unanswered = false →
      ∃ t, exec (.memWrite p) s = .next t ∧ s.Sends t die (answer 0x22 0 0 0 []) (cdieOf p) ∧
        t.targetRead p p.length = p.data ∧
        (t.flow p.dstCtx).rxNext = if f.ordered then f.rxNext + 1 else f.rxNext) ∧
    (∀ v : Nat, s.Accepts p 3 → s.poison = [] →
      let n := if p.atomicSize = 2 then 4 else 8
      let old := leNat (s.targetRead p n)
      2 ≤ p.atomicSize → s.targetCheck p false n = none → s.targetCheck p true n = none → p.addr % n = 0 →
      atomicFn p.atomicOp (8 * n) old p.operand0 p.operand1 = some v →
      ∃ t, exec (.memAtomic p) s = .next t ∧ s.Sends t die (answer 0x23 0 old 0 []) (cdieOf p) ∧
        t.targetRead p n = leBytes n v) ∧
    (s.Accepts p 4 → p.length ≤ 4096 → f.ringLog2 ≠ 0 → f.notifyMode = 0 →
      let size := 2 ^ f.ringLog2.toNat
      let pos := f.ringTail.toNat % size
      let entry := roundUp (16 + p.length) 64
      s.visible f.ringBase.toNat size = true → pos + entry ≤ size →
      (f.ringTail.toNat + size - f.ringHead.toNat % size) % size + entry < size →
      ∃ t, exec (.memMessage p) s = .next t ∧ s.Sends t die (answer 0x24 0 0 0 []) (cdieOf p) ∧
        t.read (f.ringBase.toNat + pos) (16 + p.length) =
          leBytes 2 p.length ++ leBytes 2 p.src ++ leBytes 4 p.srcCtx ++ leBytes 4 p.seq ++ leBytes 4 0 ++ p.data ∧
        (t.flow p.dstCtx).ringTail = BitVec.ofNat 24 ((pos + entry) % size)) ∧
    (∀ c : Instr, (p.op = 1 ∧ c = .memRead p) ∨ (p.op = 2 ∧ c = .memWrite p) ∨ (p.op = 3 ∧ c = .memAtomic p) ∨
        (p.op = 4 ∧ c = .memMessage p) →
      s.Reaches p p.op → p.key ≠ f.stageKey → s.rope.unanswered = false →
      ∃ t, exec c s = .next t ∧ s.Sends t die (answer 0x25 0 0 1 []) (cdieOf p) ∧ t.mem = s.mem ∧ t.stores = s.stores)

/-- The scalar instructions (R189, R191, R203, R306): where a context issues one and its word is
in order, it takes a value computed from the registers, from scratch, from time or from the tally
into DST, which for register 0 and predicate 0 is discarded; ST writes 8 bytes of scratch; NOP has
no effect. The context goes to its next instruction, and no other context changes. -/
def Obligations.ScalarInstructions : Prop :=
  ∀ (s : State) (core : Core) (ctx : Ctx) (w : Nat), s.down = false →
    let c := s.ctx core ctx
    let dst := fld w 111 108
    let a := c.s (fld w 107 104)
    let b := c.s (fld w 103 100) + BitVec.ofNat 64 (fld w 63 0)
    let addr := (a + BitVec.ofNat 64 (fld w 63 0)).toNat
    (s.Issues core ctx 0x60 w → unassigned w [] = false →
      ∃ t, exec (.nop core ctx) s = .next t ∧ t.ctx core ctx = s.retired c ∧ OnlyCtx s t core ctx) ∧
    (s.Issues core ctx 0x61 w → unassigned w [(111, 96), (63, 0)] = false → fld w 99 96 ≤ 0xC →
      ∃ t, exec (.alu core ctx) s = .next t ∧
        t.ctx core ctx = s.retired (c.setS dst (aluFn (fld w 99 96) a b)) ∧ OnlyCtx s t core ctx) ∧
    (s.Issues core ctx 0x62 w → unassigned w [(110, 96), (63, 0)] = false → fld w 99 96 ≤ 5 →
      ∃ t, exec (.cmp core ctx) s = .next t ∧
        t.ctx core ctx = s.retired (c.setP (fld w 110 108) (cmpFn (fld w 99 96) a b)) ∧ OnlyCtx s t core ctx) ∧
    (s.Issues core ctx 0x63 w → unassigned w [(111, 104), (63, 0)] = false → addr % 8 = 0 → addr + 8 ≤ storeSize 3 →
      ∃ t, exec (.ld core ctx) s = .next t ∧
        t.ctx core ctx = s.retired (c.setS dst (BitVec.ofNat 64 (leNat (s.storeRead core 3 addr 8)))) ∧
        OnlyCtx s t core ctx) ∧
    (s.Issues core ctx 0x64 w → unassigned w [(107, 100), (63, 0)] = false → addr % 8 = 0 → addr + 8 ≤ storeSize 3 →
      ∃ t, exec (.st core ctx) s = .next t ∧ t.ctx core ctx = s.retired c ∧ OnlyCtx s t core ctx ∧
        leNat (t.storeRead core 3 addr 8) = (c.s (fld w 103 100)).toNat ∧
        ∀ key, (key < storeKey core 3 addr ∨ storeKey core 3 addr + 8 ≤ key) →
          Tbl.get 0 t.stores key = Tbl.get 0 s.stores key) ∧
    (s.Issues core ctx 0x57 w → unassigned w [(111, 108), (104, 104)] = false →
      ∃ t, exec (.timeRd core ctx) s = .next t ∧
        t.ctx core ctx = s.retired (c.setS dst (BitVec.ofNat 64 (if bitAt w 104 then s.now else s.sched))) ∧
        OnlyCtx s t core ctx) ∧
    (s.Issues core ctx 0x71 w → unassigned w [(103, 97)] = false →
      ∃ t, exec (.talNf core ctx) s = .next t ∧
        t.ctx core ctx = s.retired ((c.setP (fld w 99 97) (s.obj 0x8010 4 != 0)).setS (fld w 103 100)
          (BitVec.ofNat 64 (s.obj 0x8010 4))) ∧ OnlyCtx s t core ctx)

/-- Branches, loops, halts, fences and waits (R191, R192, R201, R203, R204): BR goes IMM
instructions on and ends the loops it leaves; LOOP enters a body of its count, or skips it; HALT
makes the context IDLE at the instruction and interrupts its die controller; FENCE makes it AT_FENCE and marks every open group as
flushed; WAIT.Q holds it while it has an item of a kind named; WAIT.T parks it until its schedule
time comes, or goes on where it has passed; WAIT_T_RELEASE lets it go on at the first cycle edge at
or after its time, and of a core that has woken at or after the wake. -/
def Obligations.ControlInstructions : Prop :=
  ∀ (s : State) (core : Core) (ctx : Ctx) (w : Nat), s.down = false →
    let c := s.ctx core ctx
    let goOn := fun v : CtxSt => ({ v with status := .ready, wait := .none, pace := s.now } : CtxSt)
    let target : Int := c.pc.toNat + sext 64 (fld w 63 0)
    let n := (c.s (fld w 107 104) + BitVec.ofNat 64 (fld w 63 0)).toNat
    let first := c.pc.toNat + 1
    let last := first + fld w 95 80
    let due := unsext 64 ((c.s (fld w 111 108)).toNat + sext 48 (fld w 47 0))
    (s.Issues core ctx 0x65 w → unassigned w [(63, 0)] = false → (c.stream = true ∨ (0 ≤ target ∧ target ≤ 4095)) →
      ∃ t, exec (.br core ctx) s = .next t ∧ OnlyCtx s t core ctx ∧
        t.ctx core ctx = goOn { c with pc := BitVec.ofNat 44 (unsext 44 target), loops := keepLoops (unsext 44 target) c.loops }) ∧
    (s.Issues core ctx 0x66 w → unassigned w [(111, 104), (95, 80), (63, 0)] = false → fld w 95 80 ≠ 0 → n < 2 ^ 32 →
      (∀ f fs, c.loops = f :: fs → last ≤ f.last) → (n = 0 ∨ c.loops.length < 4) →
      ∃ t, exec (.loop core ctx) s = .next t ∧ OnlyCtx s t core ctx ∧
        t.ctx core ctx = goOn (if n = 0 then loopEnd { c with pc := BitVec.ofNat 44 last } else
          { c.setS (fld w 111 108) 0 with pc := BitVec.ofNat 44 first, loops := ⟨first, last, n - 1, fld w 111 108, 0⟩ :: c.loops })) ∧
    (s.Issues core ctx 0x67 w → unassigned w [] = false →
      ∃ t, exec (.halt core ctx) s = .next t ∧ OnlyCtx s t core ctx ∧ .dcInterrupt core ctx ∈ t.out ∧
        t.ctx core ctx = { c with status := .idle, wait := .none, pace := s.now }) ∧
    (s.Issues core ctx 0x56 w → unassigned w [] = false →
      ∃ t, exec (.fence core ctx) s = .next t ∧ OnlyCtx s t core ctx ∧
        t.ctx core ctx = { s.retired c with status := .atFence } ∧
        ∀ e ∈ (t.core core).groups, ∀ g, e.2 = some g → g.flush = true) ∧
    (s.Issues core ctx 0x55 w → unassigned w [(87, 83)] = false →
      ∃ t, exec (.waitQ core ctx) s = .next t ∧ OnlyCtx s t core ctx ∧
        t.ctx core ctx = if s.ownItems core ctx (fld w 87 83) then { c with status := .waiting, wait := .waitQ (fld w 87 83) }
          else s.retired c) ∧
    (s.Issues core ctx 0x54 w → unassigned w [(111, 108), (47, 0)] = false → s.sched < due →
      ∃ t, exec (.waitT core ctx) s = .next t ∧ OnlyCtx s t core ctx ∧
        t.ctx core ctx = { c with status := .parkedT, wait := .waitT due }) ∧
    (s.Issues core ctx 0x54 w → unassigned w [(111, 108), (47, 0)] = false → due ≤ s.sched →
      ∃ t, exec (.waitT core ctx) s = .next t ∧ OnlyCtx s t core ctx ∧ t.ctx core ctx = t.retired c) ∧
    (∀ d, c.wait = .waitT d → s.coreAwake core = true → s.hold.held = false → s.hold.tick = none → s.job.clockMhz ≠ 0 →
      let wake := (s.core core).wakeAt
      ∃ t, exec (.waitTRelease core ctx) s = .next t ∧ OnlyCtx s t core ctx ∧
        t.hall = max s.hall (max (s.edge64 (d + s.lag)) (if wake = 0 then 0 else s.edge64 (wake + 50))) ∧
        t.ctx core ctx = t.retired c)

/-- Semaphores (R200-R203): SEM.INIT and the die controller's SEM_SET give COUNT, PRODUCER and
LEASE and clear BROKEN; SEM.POST adds N, to its own core at once and to another core by a post
that travels and arrives as SEM_POST_ARRIVE; the waiters are then examined. SEM.WAIT and SEM.TRY
take N where it is there; otherwise the one waits and the other clears its predicate; on a broken
semaphore both end the context's run with cause 0x04. A lapsed lease breaks the semaphore, and is
logged. That a post to the own core arrives at issue is the model's reading: log entry 31. -/
def Obligations.Semaphores : Prop :=
  ∀ (s : State) (core : Core) (ctx : Ctx) (w : Nat), s.down = false →
    let c := s.ctx core ctx
    let n := fld w 95 88
    let k := fld w 79 64
    let v := s.sem core n
    let dest := if fld w 103 96 = 0xFF then core.val else fld w 103 96
    (s.Issues core ctx 0x50 w → unassigned w [(95, 88), (79, 32)] = false → n < 64 →
      ∃ t u : State, exec (.semInit core ctx) s = .next t ∧ t = u.evalSem core n ∧ (s.semWaiters core n = [] → t = u) ∧
        u.ctx core ctx = s.retired c ∧
        u.sem core n = { v with count := BitVec.ofNat 16 k, producer := BitVec.ofNat 16 (fld w 63 48), lease := BitVec.ofNat 16 (fld w 47 32), broken := false }) ∧
    (∀ (sem : Sem) (count producer lease : BitVec 16),
      ∃ t u : State, exec (.semSet core sem count producer lease) s = .next t ∧ t = u.evalSem core sem ∧
        (s.semWaiters core sem = [] → t = u) ∧
        u.sem core sem = { s.sem core sem with count := count, producer := producer, lease := lease, broken := false }) ∧
    (s.Issues core ctx 0x51 w → unassigned w [(103, 88), (79, 64)] = false → n < 64 → k ≠ 0 →
      (fld w 103 96 = 0xFF ∨ fld w 103 96 < 192) →
      (dest = core.val → v.count.toNat + k ≤ 65535 →
        ∃ t u : State, exec (.semPost core ctx) s = .next t ∧ t = u.evalSem core n ∧ (s.semWaiters core n = [] → t = u) ∧
          u.ctx core ctx = s.retired c ∧ u.sem core n = { v with count := v.count + BitVec.ofNat 16 k, innerPosts := v.innerPosts + k }) ∧
      (dest = core.val → 65535 < v.count.toNat + k →
        ∃ t u : State, exec (.semPost core ctx) s = .next t ∧ t = u.breakSem core n ∧ (t.sem core n).broken = true ∧
          u.ctx core ctx = s.retired c ∧ Logged s u [0x4034]) ∧
      (dest ≠ core.val →
        ∃ t, exec (.semPost core ctx) s = .next t ∧ OnlyCtx s t core ctx ∧
          if c.skipPosts = 0 then t.ctx core ctx = s.retired { c with posts := c.posts + 1 } ∧
            t.posts = s.posts ++ [(64 * dest + n, k)]
          else t.ctx core ctx = s.retired { c with skipPosts := c.skipPosts - 1 } ∧ t.posts = s.posts)) ∧
    (∀ (sem : BitVec 8) (count : Nat), sem.toNat < 64 → (s.core core).power = .awake →
      let r := takePosts (64 * core + sem.toNat) s.posts count
      let x := s.sem core sem.toNat
      r.1 ≠ 0 → x.count.toNat + r.1 ≤ 65535 →
      ∃ t u : State, exec (.semPostArrive core sem count) s = .next t ∧ t = u.evalSem core sem.toNat ∧ t.posts = r.2 ∧
        (s.semWaiters core sem.toNat = [] → t = u) ∧
        u.sem core sem.toNat = { x with count := x.count + BitVec.ofNat 16 r.1 }) ∧
    (s.Issues core ctx 0x52 w → unassigned w [(95, 88), (79, 64)] = false → n < 64 → k ≠ 0 →
      (v.broken = true → ∃ t u : State, exec (.semWait core ctx) s = .next t ∧ t = u.ctxFault core ctx 4 ∧ Logged s u [0x4031] ∧
        (t.ctx core ctx).status = .faulted ∧ (t.ctx core ctx).cause = 4) ∧
      (v.broken = false → ∃ t, exec (.semWait core ctx) s = .next t ∧ OnlyCtx s t core ctx ∧
        if k ≤ v.count.toNat then t.ctx core ctx = s.retired c ∧
          t.sem core n = { v with count := v.count - BitVec.ofNat 16 k, innerTakes := v.innerTakes + k }
        else t.ctx core ctx = { c with status := .waiting, wait := .sem n k s.now } ∧ t.sems = s.sems)) ∧
    (s.Issues core ctx 0x53 w → unassigned w [(107, 105), (95, 88), (79, 64)] = false → n < 64 → k ≠ 0 →
      v.broken = true → ∃ t u : State, exec (.semTry core ctx) s = .next t ∧ t = u.ctxFault core ctx 4 ∧ Logged s u [0x4031] ∧
        (t.ctx core ctx).status = .faulted ∧ (t.ctx core ctx).cause = 4) ∧
    (s.Issues core ctx 0x53 w → unassigned w [(107, 105), (95, 88), (79, 64)] = false → n < 64 → k ≠ 0 →
      v.broken = false → ∃ t, exec (.semTry core ctx) s = .next t ∧ OnlyCtx s t core ctx ∧
        t.ctx core ctx = s.retired (c.setP (fld w 107 105) (decide (k ≤ v.count.toNat))) ∧
        if k ≤ v.count.toNat then
          t.sem core n = { v with count := v.count - BitVec.ofNat 16 k, innerTakes := v.innerTakes + k }
        else t.sems = s.sems) ∧
    (∀ (sem : Sem) (t0 : Nat), (s.sem core sem).broken = false → (s.sem core sem).lease ≠ 0 →
      (∃ (x : Ctx) (j : Nat), (s.ctx core x).wait = .sem sem j t0) →
      (∀ (x : Ctx) (j t1 : Nat), (s.ctx core x).wait = .sem sem j t1 → t0 ≤ t1) →
      ∃ t u : State, exec (.semLeaseLapse core sem) s = .next t ∧ t = u.breakSem core sem ∧ Logged s u [0x4035] ∧
        (t.sem core sem).broken = true ∧ t.hall = max s.hall (64 * (t0 + 1000 * (s.sem core sem).lease.toNat)))

/-- Matrix passes (R129, R130, R133, R144-R146, R151, R262): MM queues its pass and MM.G joins a
group, or the context waits for room; a group whose hold runs out is ready, and the chosen one
becomes a pass; PASS_START takes the head of the queue into the frames, and PASS_COMPLETE stores
what it writes back, sends its tally deltas and posts its DONE_SEMs. A slot that is corrupt once
is read again while the frames are not gated, and corrupt again loses the pass: its core recovers, or
fails the job stage where it has recovered before. The frame gate follows the cut of the supply. The
second failure of a slot on a recovered core is the model's reading: log entry 34. -/
def Obligations.MatrixPasses : Prop :=
  ∀ (s : State) (core : Core) (ctx : Ctx) (w : Nat), s.down = false →
    let c := s.ctx core ctx
    let k := s.core core
    let r := s.passAt core ctx w
    (s.Issues core ctx 0x10 w → unassigned w [(111, 83)] = false → s.passCheck core ctx w false = none →
      let enters := s.passRoom core && s.winsPlace core 1 (insertAsc ctx (s.passContenders core)) ctx
      (enters = true → ∃ t, exec (.mm core ctx) s = .next t ∧ OnlyCtx s t core ctx ∧ t.ctx core ctx = s.retired c ∧
        (t.core core).passQ = k.passQ ++ [⟨some ctx, r, []⟩]) ∧
      (enters = false → ∃ t, exec (.mm core ctx) s = .next t ∧ OnlyCtx s t core ctx ∧
        t.ctx core ctx = { c with status := .waiting, wait := .pass r } ∧ (t.core core).passQ = k.passQ)) ∧
    (s.Issues core ctx 0x11 w → unassigned w [(111, 83)] = false → s.passCheck core ctx w true = none →
      let wins := s.winsPlace core 2 (insertAsc ctx (s.gatherContenders core)) ctx
      (∀ i, s.groupSlot core r = some i → wins = true →
        ∃ t g, exec (.mmG core ctx) s = .next t ∧ OnlyCtxAndStalls s t core ctx ∧ t.ctx core ctx = s.retired c ∧
          Tbl.get none (t.core core).groups i = some g ∧
          match Tbl.get none k.groups i with
          | some old => g.reqs = old.reqs ++ [⟨ctx, r⟩] ∧ g.rows = old.rows + r.m
          | none => g.reqs = [⟨ctx, r⟩] ∧ g.rows = r.m ∧ g.first = s.sched) ∧
      (s.groupSlot core r = none ∨ wins = false →
        ∃ t, exec (.mmG core ctx) s = .next t ∧ OnlyCtx s t core ctx ∧ (t.core core).groups = k.groups ∧
          t.ctx core ctx = { c with status := .waiting, wait := .gather r s.now })) ∧
    (∀ (slot : Fin 4) (g : Group), Tbl.get none k.groups slot = some g → s.frozenAt (g.first + g.hold + s.lag) = false →
      ∃ t, exec (.gatherHoldExpire core slot) s = .next t ∧ t.hall = max s.hall (64 * (g.first + g.hold + s.lag)) ∧
        Tbl.get none (t.core core).groups slot = some { g with expired := true }) ∧
    (∀ i g why q qs, s.readyGroup core = some (i, g, why) → s.frozen = false → g.reqs = q :: qs →
      s.passRoom core = true → s.winsPlace core 1 (s.passContenders core) 8 = true →
      ∃ t, exec (.gatherGroupStart core) s = .next t ∧ Tbl.get none (t.core core).groups i = none ∧
        (t.core core).passQ = k.passQ ++ [⟨none, { q.rec_ with m := g.rows, accBase := 192, accumulate := false, wb := true, rowMask := none }, g.reqs⟩]) ∧
    (∀ p ps, k.running = none → k.passQ = p :: ps → s.coreAwake core = true → k.gated = false →
      ∃ t g, exec (.passStart core) s = .next t ∧ (t.core core).passQ = ps ∧ (t.core core).running = some g ∧
        g.item = p ∧ (g.corrupt = none → g.tile = p.rec_.t)) ∧
    (∀ g, k.running = some g → k.suspended = false → g.corrupt = none → g.item.rec_.t ≤ g.tile →
      ∃ t u : State, exec (.passComplete core) s = .next t ∧
        t = (u.each g.item.doneSems fun s n => s.postDone core n true).evalWaitQ core ∧
        (t.core core).running = none ∧ t.deltas = s.deltas ++ g.deltas ∧ u.sems = s.sems ∧
        t.stores = g.writes.foldl (fun m x => Memory.write m (storeKey core 2 x.1) x.2) s.stores) ∧
    (∀ g addr, k.running = some g → g.corrupt = some addr → g.tile < g.item.rec_.t → k.gated = false → k.suspended = false →
      (∀ rule, s.tileElems core g.item.rec_ (g.item.rec_.wAddr + g.tile * g.item.rec_.wTile) = .error (addr, rule) →
        ∃ t u : State, exec (.expanderRetry core) s = .next t ∧ Logged s u [0x4051] ∧ (t.core core).running = none ∧
          t.hold.schedFault = true ∧
          let v := (u.each g.item.doneSems fun s n => s.breakDone core n).evalWaitQ core
          t = if v.faults.recovered.contains core.val || (v.recovery core).isSome then
              ((v.setRecovery core none).schedFault.faultCount 4).jobFail 4
            else v.startRecovery core 4 none) ∧
      (∀ bs n, s.tileElems core g.item.rec_ (g.item.rec_.wAddr + g.tile * g.item.rec_.wTile) = .ok (bs, n) →
        g.item.rec_.t = g.tile + 1 →
        ∃ t h, exec (.expanderRetry core) s = .next t ∧ (t.core core).running = some h ∧ h.item = g.item ∧
          h.corrupt = none ∧ h.tile = g.tile + 1)) ∧
    ∃ t, exec (.frameGateApply core) s = .next t ∧ (t.core core).gated = s.supply.cut ∧
      (t.core core).suspended = (s.supply.cut && k.running.isSome)

/-- Vector and special-function instructions (R163, R184, R185, R195-R198): an instruction whose
word and operands pass the checks enters the vector queue of its core, or its context waits with
it while the queue holds eight or the place is another's; the oldest one then completes: its results are stored, its
outcomes sent to the tally, its DONE_SEM posted. -/
def Obligations.VectorInstructions : Prop :=
  ∀ (s : State) (core : Core) (ctx : Ctx) (w : Nat), s.down = false →
    let c := s.ctx core ctx
    let q := (s.core core).vecQ
    let v := s.vecItem core ctx w
    (∀ p ∈ [(Instr.vadd core ctx, 0x20), (.vsub core ctx, 0x21), (.vmul core ctx, 0x22), (.vfma core ctx, 0x23),
        (.vmax core ctx, 0x24), (.vmin core ctx, 0x25), (.vcvt core ctx, 0x26), (.vaddCp core ctx, 0x27),
        (.vredSum core ctx, 0x28), (.vredMax core ctx, 0x29), (.vredSsq core ctx, 0x2A), (.sfExp core ctx, 0x30),
        (.sfLog core ctx, 0x31), (.sfRsqrt core ctx, 0x32)],
      s.Issues core ctx p.2 w → vecEnc p.2 w = none → v.ok = true →
      let enters := decide (q.length < 8) && s.winsPlace core 3 (insertAsc ctx (s.vecContenders core)) ctx
      (enters = true → ∃ t, exec p.1 s = .next t ∧ OnlyCtx s t core ctx ∧ t.ctx core ctx = s.retired c ∧
        (t.core core).vecQ = q ++ [v]) ∧
      (enters = false → ∃ t, exec p.1 s = .next t ∧ OnlyCtx s t core ctx ∧
        t.ctx core ctx = { c with status := .waiting, wait := .vec v } ∧ (t.core core).vecQ = q)) ∧
    ∀ x xs, q = x :: xs → s.coreAwake core = true →
      let o := s.vecRun core x
      ∃ t u : State, exec (.vectorComplete core) s = .next t ∧ t = (u.postDone core x.doneSem true).evalWaitQ core ∧
        (t.core core).vecQ = xs ∧ t.deltas = s.deltas ++ [s.tally (.empty x.tag x.dstFmt) o.counts] ∧ u.sems = s.sems ∧
        t.stores = o.writes.foldl (fun m y => Memory.write m (storeKey core (fld y.1 32 31) (fld y.1 22 0)) y.2) s.stores

/-- Movers (R184, R199, R207, R218, R243, R244, R263): MOV.X queues its descriptor, or waits for
room, or is one of those that a re-run suppresses; a context that waits for room of any queue
enters it in its turn (QUEUE_ADMIT). A free mover takes the descriptor at the head of its queue;
when its moves are made and answered, its bytes land, it is counted and its DONE_SEM posted. A
slot that failed its check is read once more. A reset clears the mover and breaks the DONE_SEM of
everything it held. That bytes land when the descriptor completes is the model's choice: log entry
38. -/
def Obligations.Movers : Prop :=
  ∀ (s : State) (core : Core) (ctx : Ctx) (w : Nat), s.down = false →
    let c := s.ctx core ctx
    let out := bitAt w 111
    let m := 2 * core.val + (if out then 1 else 0)
    let a := s.movAddr core ctx w
    let item : MovItem := ⟨ctx, a, c.stageKey, fld w 93 86, BitVec.ofNat 1024 (s.storeNat core 3 a 128)⟩
    let counted := fun (out : Bool) (v : CtxSt) => if out then { v with movs1 := v.movs1 + 1 } else { v with movs0 := v.movs0 + 1 }
    (s.Issues core ctx 0x40 w → unassigned w [(111, 86)] = false → (fld w 93 86 < 64 ∨ fld w 93 86 = 0xFF) →
      a % 64 = 0 → a + 128 ≤ storeSize 3 →
      (c.skipMovs ≠ 0 → ∃ t, exec (.movX core ctx) s = .next t ∧ OnlyCtx s t core ctx ∧ t.movers = s.movers ∧
        t.ctx core ctx = s.retired { c with skipMovs := c.skipMovs - 1 }) ∧
      (c.skipMovs = 0 → s.descCheck c.stageKey (s.storeNat core 3 a 128) = none →
        let enters := s.movRoom m && s.winsPlace core (if out then 5 else 4) (insertAsc ctx (s.movContenders core out)) ctx
        (enters = true → ∃ t, exec (.movX core ctx) s = .next t ∧ OnlyCtx s t core ctx ∧
          t.ctx core ctx = s.retired (counted out c) ∧ (t.mover m).queue = (s.mover m).queue ++ [item]) ∧
        (enters = false → ∃ t, exec (.movX core ctx) s = .next t ∧ OnlyCtx s t core ctx ∧
          t.ctx core ctx = { c with status := .waiting, wait := .mov out item } ∧ t.movers = s.movers))) ∧
    (s.coreAwake core = true →
      (∀ p, c.wait = .pass p → s.passRoom core = true → s.winsPlace core 1 (s.passContenders core) ctx = true →
        ∃ t, exec (.queueAdmit core ctx) s = .next t ∧ t.ctx core ctx = s.retired c ∧
          (t.core core).passQ = (s.core core).passQ ++ [⟨some ctx, p, []⟩]) ∧
      (∀ (p : PassRec) (since i : Nat), c.wait = .gather p since → s.groupSlot core p = some i →
        s.winsPlace core 2 (s.gatherContenders core) ctx = true →
        ∃ t g, exec (.queueAdmit core ctx) s = .next t ∧ t.ctx core ctx = s.retired c ∧
          Tbl.get none (t.core core).groups i = some g ∧
          g.reqs = (match Tbl.get none (s.core core).groups i with | some old => old.reqs | none => []) ++ [⟨ctx, p⟩]) ∧
      (∀ v, c.wait = .vec v → (s.core core).vecQ.length < 8 → s.winsPlace core 3 (s.vecContenders core) ctx = true →
        ∃ t, exec (.queueAdmit core ctx) s = .next t ∧ t.ctx core ctx = s.retired c ∧
          (t.core core).vecQ = (s.core core).vecQ ++ [v]) ∧
      (∀ o i, c.wait = .mov o i → s.movRoom (2 * core.val + (if o then 1 else 0)) = true →
        s.winsPlace core (if o then 5 else 4) (s.movContenders core o) ctx = true →
        ∃ t, exec (.queueAdmit core ctx) s = .next t ∧ t.ctx core ctx = s.retired (counted o c) ∧
          (t.mover (2 * core.val + (if o then 1 else 0))).queue = (s.mover (2 * core.val + (if o then 1 else 0))).queue ++ [i])) ∧
    ∀ n : Mover, let v := s.mover n
      (∀ i is, v.run = none → v.queue = i :: is → s.coreDown (n / 2) = false →
        let r : MovRun := ⟨i, [], s.descUnits i.desc.toNat, false, 0, none, false, [], [], [], []⟩
        ∃ t u : State, exec (.descriptorStart n) s = .next t ∧ t = u.resolve n r ∧
          u.mover n = { v with queue := is, pace := s.now } ∧ (t.mover n).queue = is ∧
          ((∀ x ∈ r.need, pageOf (s.core (n / 2)).tcache (65536 * x) = none) → r.need ≠ [] → (t.mover n).run = some r)) ∧
      (∀ r, v.run = some r → r.fault = none → r.moved = true → r.retry = false → r.remaining = 0 → r.slots = [] →
        ∃ t u : State, exec (.descriptorComplete n) s = .next t ∧
          t = (u.postDone (n / 2) r.item.doneSem false).evalWaitQ (n / 2) ∧ u.sems = s.sems ∧
          u.obj 0x4043 (n / 2) = (s.obj 0x4043 (n / 2) + 1) % 2 ^ 64 ∧
          t.mover n = { v with run := none, pace := s.now } ∧
          t.mem = r.memWrites.foldl (fun t x => Tbl.set 0 t x.1 x.2) s.mem ∧
          t.stores = r.storeWrites.foldl (fun t x => Tbl.set 0 t x.1 x.2) s.stores) ∧
      (∀ r x, v.run = some r → r.retry = true → r.slotsLeft = 1 →
        s.slotMove (n / 2) r.item.desc.toNat r.item.key r.xlat r.slots.length = .ok x →
        ∃ t, exec (.moverCheckRetry n) s = .next t ∧
          (t.mover n).run = some { r with moved := true, retry := false, slots := r.slots ++ [x] }) ∧
      let items := (match v.run with | some r => [r.item] | none => []) ++ v.queue
      ∃ t, exec (.moverReset n) s = .next t ∧ t.mover n = { MoverSt.reset with pace := s.now } ∧
        (∀ i ∈ items, i.doneSem < 64 → (t.sem (n / 2) i.doneSem).broken = true) ∧
        (∀ r ∈ t.fabric.waitReq, ∀ a b, r.issuer ≠ .mover n a b) ∧ (∀ r ∈ t.fabric.inFlight, ∀ a b, r.issuer ≠ .mover n a b) ∧
        (items = [] → s.sems = [] → s.fabric.flows = [] → Logged s t [0x9002, 0x4045])

/-- Translation (R187, R238-R240): a page walk that a mover or a streamer waits for brings its
page to the front of the core's cache; a burst whose pages are cached enters the ring of a stream,
which keeps the last 128 instructions; an invalidation waits for its turn, and then every cache
has dropped its page, or all; a region entry that the die controller takes replaces the one of its
number at the hall time that it names, 10 us or more ahead, and is counted and logged. -/
def Obligations.Translation : Prop :=
  ∀ (s : State) (core : Core) (ctx : Ctx), s.down = false →
    let c := s.ctx core ctx
    let cache := (s.core core).tcache
    (∀ ps xs, c.streamHungry = true → s.coreDown core = false →
      (unitsOf c.burst.1 c.burst.2).map (fun u => pageOf cache (65536 * u)) = ps.map some →
      s.xlate ps c.stageKey false (pieces c.burst.1 c.burst.2) = .ok xs →
      let words := (List.range (c.burst.2 / 16)).map fun i => BitVec.ofNat 128 (leAt (xs.flatMap fun x => s.read x.1 x.2) (16 * i) 16)
      let goesOn := c.streamNext = c.ringLo + c.ring.length
      let lo := if goesOn then c.ringLo else c.streamNext
      let cut := c.pc.toNat - 128 - lo
      ∃ t, exec (.streamRefill core ctx) s = .next t ∧ OnlyCtx s t core ctx ∧
        (t.ctx core ctx).ringLo = lo + cut ∧
        (t.ctx core ctx).ring = ((if goesOn then c.ring else []) ++ words).drop cut ∧
        (c.wait = .streamMiss → (t.ctx core ctx).status = .ready ∧ (t.ctx core ctx).wait = .none)) ∧
    (∀ (out : Bool) (va : BitVec 48) (write : Bool) (r : MovRun) (e : TcEntry), let u := va.toNat / 65536
      let m := 2 * core.val + (if out then 1 else 0)
      (s.mover m).run = some r → r.need.contains u = true → pageOf cache (65536 * u) = none → s.walk va.toNat = .ok e →
      ∃ t v : State, exec (.tableWalkComplete core (.mover out) va write) s = .next t ∧ t = v.resolve m r ∧
        v.movers = s.movers ∧ (v.core core).tcache = (e :: cache.erase e).take 256 ∧
        ((∃ x ∈ r.need, pageOf (v.core core).tcache (65536 * x) = none) →
          ∃ r', (t.mover m).run = some r' ∧ r'.item = r.item ∧ r'.moved = r.moved)) ∧
    (∀ (va : BitVec 48) (write : Bool) (e : TcEntry), let u := va.toNat / 65536
      c.streamHungry = true → (unitsOf c.burst.1 c.burst.2).contains u = true → pageOf cache (65536 * u) = none →
      s.coreDown core = false → s.walk va.toNat = .ok e →
      ∃ t, exec (.tableWalkComplete core (.streamer ctx) va write) s = .next t ∧ t.ctxs = s.ctxs ∧
        (t.core core).tcache = (e :: cache.erase e).take 256) ∧
    (∀ page : Option (BitVec 48), ∃ t, exec (.translationInvalidate page) s = .next t ∧
      t.invals = s.invals ++ [page.map (·.toNat)] ∧ t.cores = s.cores) ∧
    (∀ p ps, s.invals = p :: ps → ∃ t, exec .invalidateComplete s = .next t ∧ t.invals = ps ∧
      (∀ d : Core, t.core d = { s.core d with tcache := keptPages p (s.core d).tcache }) ∧
      ∀ n : Engine, t.engineSt n = { s.engineSt n with tcache := keptPages p (s.engineSt n).tcache }) ∧
    ∀ (n : Fin 256) (entry : RegionChange), s.job.loaded = true → s.regionEntryOk entry.word.toNat = true →
      entry.named + 10000 ≤ entry.effective →
      ∃ t, exec (.regionChangeEffective n entry) s = .next t ∧ Logged s t [0x4046] ∧
        t.obj 0x4040 3 = (s.obj 0x4040 3 + 1) % 2 ^ 32 ∧
        t.hall = max s.hall (64 * entry.effective) ∧ t.regions = Tbl.set regionReset s.regions n entry.word

/-- The die controller's commands (R213): START gives an IDLE, STOPPED or FAULTED context its
registers, mode, program counter and key, and no fence formed before counts; STOP stops a context
that runs; READ answers with its status word, registers and loop stack; a load of resident
instructions, with no resident context running, copies them from memory. Each wakes a sleeping
core. -/
def Obligations.DieControllerCommands : Prop :=
  ∀ (s : State) (core : Core) (ctx : Ctx), s.down = false →
    let c := s.ctx core ctx
    let wakes := fun t : State => (s.core core).power = .asleep → (t.core core).power = .waking
    (∀ (stream : Bool) (key : BitVec 8) (pc : BitVec 44) (regs : List (BitVec 64)) (preds : BitVec 7),
      (c.startable = true → ∃ t, exec (.dcStart core ctx stream key pc regs preds) s = .next t ∧ OnlyCtx s t core ctx ∧
        (t.core core).replay = [] ∧ (t.core core).fenceAt = none ∧ wakes t ∧
        let v := t.ctx core ctx
        v.status = .ready ∧ v.stream = stream ∧ v.stageKey = key ∧ v.pc = pc ∧ v.loops = [] ∧ v.wait = .none ∧
        (∀ i : Fin 15, v.s (i + 1) = regs.getD i 0) ∧ ∀ i : Fin 7, v.p (i + 1) = preds.getLsbD i) ∧
      (c.startable = false → ∃ t, exec (.dcStart core ctx stream key pc regs preds) s = .next t ∧
        t.out = .dcRefused .notStartable :: s.out ∧ t.ctxs = s.ctxs ∧ wakes t)) ∧
    (c.status ≠ .idle → c.status ≠ .faulted → c.status ≠ .stopped →
      ∃ t, exec (.dcStop core ctx) s = .next t ∧ OnlyCtxAndStalls s t core ctx ∧ wakes t ∧
        t.ctx core ctx = { c with status := .stopped, wait := .none }) ∧
    (c.status = .idle ∨ c.status = .faulted ∨ c.status = .stopped →
      ∃ t, exec (.dcStop core ctx) s = .next t ∧ OnlyCtxAndStalls s t core ctx ∧ wakes t ∧ (t.ctx core ctx).status = c.status ∧
        (t.ctx core ctx).pc = c.pc ∧ (t.ctx core ctx).regs = c.regs) ∧
    (∃ t, exec (.contextRead core ctx) s = .next t ∧ t.ctxs = s.ctxs ∧ wakes t ∧
      t.out = .context c.word ((List.range 15).map fun i => c.s (i + 1)) c.preds c.loops :: s.out) ∧
    ∀ (first count : BitVec 13) (src : BitVec 41),
      (s.residentBusy core = true → ∃ t, exec (.seqImemLoad core first count src) s = .next t ∧
        t.out = .dcRefused .residentRuns :: s.out ∧ t.imem = s.imem ∧ wakes t) ∧
      (s.residentBusy core = false → imemRange s first.toNat count.toNat src.toNat = true →
      ∃ t, exec (.seqImemLoad core first count src) s = .next t ∧ wakes t ∧ ∀ k,
        Tbl.get 0 t.imem k = if 4096 * core + first.toNat ≤ k ∧ k < 4096 * core + first.toNat + count.toNat then
          BitVec.ofNat 128 (s.readNat (src.toNat + 16 * (k - (4096 * core + first.toNat))) 16)
        else Tbl.get 0 s.imem k)

/-- Fences and recovery (R204-R207, R213, R421, R423, R425, R427): a fence that forms records
every context and starts the counts of R205 at zero; a span beyond FENCE_SPAN and a pace counter
that runs out are logged and counted, and the latter starts the recovery of its core; REPLAY and
ISOLATE put the contexts back as the record has them and the semaphores back to their counts at
the fence, and start a re-run; at its end the core goes on, and the hold of the recovery resumes.
When a re-run has ended is the model's reading: log entry 117. -/
def Obligations.FencesAndRecovery : Prop :=
  ∀ (s : State) (core : Core), s.down = false →
    let k := s.core core
    let atFence := fun x : Ctx => (s.ctx core x).status = .atFence
    let semsBack := fun t : State => ∀ n : Sem, let v := s.sem core n
      (t.sem core n).count = BitVec.ofNat 16 (v.count.toNat + v.innerTakes - v.innerPosts) ∧
      (t.sem core n).innerPosts = 0 ∧ (t.sem core n).innerTakes = 0
    (s.fenceReady core = true → ∃ t, exec (.fenceForm core) s = .next t ∧
      (t.core core).replay = ((List.range 8).map fun x => (s.ctx core x).record) ∧ (t.core core).fenceAt = some s.sched ∧
      (∀ n : Sem, t.sem core n = { s.sem core n with innerPosts := 0, innerTakes := 0 }) ∧
      ∀ x : Ctx, (atFence x → (t.ctx core x).status = .ready) ∧ (t.ctx core x).pc = (s.ctx core x).pc ∧
        (t.ctx core x).posts = 0 ∧ (t.ctx core x).movs0 = 0 ∧ (t.ctx core x).movs1 = 0) ∧
    (∀ t0, k.fenceAt = some t0 → k.overrun = false → k.parkedAt = none → s.hold.held = false →
      ∃ t, exec (.fenceSpanExceeded core) s = .next t ∧ Logged s t [0x4032] ∧ (t.core core).overrun = true ∧
        t.hall = max s.hall (64 * (t0 + s.obj 0x4030 1 + s.lag)) ∧
        t.obj 0x4033 core = (s.obj 0x4033 core + 1) % 2 ^ 32 ∧ t.ctxs = s.ctxs) ∧
    (∀ x : Ctx, s.paceExempt core x = false → s.recovery core = none → s.faults.recovered.contains core.val = false →
      k.replay ≠ [] →
      ∃ t, exec (.contextPaceExpire core x) s = .next t ∧ t.recovery core = some ⟨2, s.hold.ownSeq, none, false, [], none⟩ ∧
        t.hold.schedFault = true ∧ (∀ y : Ctx, (t.ctx core y).status = (s.ctx core y).stop.status) ∧
        t.obj 0x9005 0 = (s.obj 0x9005 0 + 1) % 2 ^ 32 ∧ t.obj 0x9005 2 = (s.obj 0x9005 2 + 1) % 2 ^ 32 ∧ Logged s t [0x9013, 0x9001] ∧ t.hall = max s.hall (64 * (max (s.ctx core x).pace s.hold.endedAt + s.obj 0x9000 1))) ∧
    (∀ (out : Fin 2) (m : Mover), m.val = 2 * core.val + out.val → s.coreDown core = false →
      ((s.mover m).run = none ∧ (s.mover m).queue ≠ []) ∨ (∃ r, (s.mover m).run = some r ∧ (r.moved = false ∨ r.remaining = 0)) →
      s.recovery core = none → s.faults.recovered.contains core.val = false → k.replay ≠ [] →
      ∃ t, exec (.moverPaceExpire m) s = .next t ∧
        t.recovery core = some ⟨3, s.hold.ownSeq, some out, false, [], none⟩ ∧ t.hold.schedFault = true ∧
        t.obj 0x9005 0 = (s.obj 0x9005 0 + 1) % 2 ^ 32 ∧ t.obj 0x9005 3 = (s.obj 0x9005 3 + 1) % 2 ^ 32 ∧ Logged s t [0x9013, 0x9001] ∧ t.hall = max s.hall (64 * ((s.mover m).pace + s.obj 0x9000 2))) ∧
    (k.replay.length = 8 → s.recovery core = none →
      (∃ t, exec (.replay core) s = .next t ∧ (t.core core).rerun = true ∧
        (∀ x : Ctx, ∃ r, k.replay[x.val]? = some r ∧ t.ctx core x = r.restore (s.ctx core x) s.now) ∧ semsBack t) ∧
      ∀ y : Ctx, ∃ t, exec (.isolate core y) s = .next t ∧ (t.core core).rerun = true ∧ (t.core core).isolate = some y.val ∧
        semsBack t ∧ ∀ x : Ctx, ∃ r, k.replay[x.val]? = some r ∧ t.ctx core x = r.restore (s.ctx core x) s.now) ∧
    (∀ r, k.replay.length = 8 → s.recovery core = some r → r.replayed = false → r.mover = none → s.hold.held = true →
      s.resetsInWindow + 1 < s.obj 0x9002 1 → s.obj 0x9003 1 ≠ 1 →
      ∃ t, exec (.replay core) s = .next t ∧ (t.core core).rerun = true ∧
        t.recovery core = some { r with replayed := true } ∧ t.faults.resets = s.now :: s.faults.resets) ∧
    (k.replay = [] → ∀ y : Ctx,
      (∃ t, exec (.replay core) s = .next t ∧ t.out = .dcRefused .noFence :: s.out ∧ t.ctxs = s.ctxs) ∧
      ∃ t, exec (.isolate core y) s = .next t ∧ t.out = .dcRefused .noFence :: s.out ∧ t.ctxs = s.ctxs) ∧
    (k.rerun = true → s.rerunGoesOn core = false →
      (s.recovery core = none → ∃ t, exec (.rerunEnd core) s = .next t ∧ Logged s t [0x4036] ∧
        (t.core core).rerun = false ∧ (t.core core).isolate = none) ∧
      ∀ r, s.recovery core = some r → r.isolated = none → r.suspects = [] →
        ∃ t, exec (.rerunEnd core) s = .next t ∧ Logged s t [0x4036] ∧ (t.core core).rerun = false ∧
          t.faults.recovered = s.faults.recovered ++ [core.val] ∧
          ∀ cause, s.hold.own.find? (·.1 == r.holdSeq) = some (r.holdSeq, cause) → s.hold.noResume = false →
            t.hold.resumes = s.hold.resumes ++ [⟨s.moduleNumber, r.holdSeq, s.leadTick, s.hold.toName.take 4⟩])

/-- The numeric watch (R209, R300-R303, R306): the oldest tally delta is charged to the record of
its tag in the current epoch, and its non-finite values to NF_COUNT; TAL.RD makes its context wait
for every delta sent before, and then the 256 bytes of the record are in scratch and the context
goes on. Records off the chip are log entry 43. -/
def Obligations.TallyTable : Prop :=
  ∀ (s : State), s.down = false →
    (∀ d ds, s.deltas = d :: ds → ∃ t, exec .tallyDelta s = .next t ∧ t.deltas = ds ∧
      t.tallyRec d.tag = (((s.tallyRec d.tag).rollOver (s.obj 0x8010 3)).charge d).1 ∧
      t.obj 0x8010 4 = (s.obj 0x8010 4 + (d.inf + d.nan)) % 2 ^ 64 ∧ t.stores = s.stores) ∧
    ∀ (core : Core) (ctx : Ctx), let c := s.ctx core ctx
      (∀ w, let a := (c.s (fld w 107 104)).toNat
        s.Issues core ctx 0x70 w → unassigned w [(111, 104), (95, 80)] = false → a % 64 = 0 → a + 256 ≤ storeSize 3 →
        ∃ t, exec (.talRd core ctx) s = .next t ∧ OnlyCtx s t core ctx ∧ t.ctx core ctx =
          { c with status := .waiting, wait := .tally (((c.s (fld w 111 108)).toNat + fld w 95 80) % 65536) a s.deltas.length }) ∧
      ∀ tag a, c.wait = .tally tag a 0 →
        ∃ t, exec (.tallyReadServe core ctx) s = .next t ∧ OnlyCtx s t core ctx ∧ t.ctx core ctx = s.retired c ∧
          t.storeRead core 3 a 256 = ((s.tallyRec tag).rollOver (s.obj 0x8010 3)).image tag

/-- A training step outside a hold (R278-R290, R294, R295, R307): at its time a group is quantised
block by block, or waits for the sweep before it; the sums of squares are formed; the norm record
gives them with the non-finite and schedule-fault flags; the commit decision skips the step for a
fault or a running sweep, then for a non-finite value, and commits it otherwise. A sweep ends when
every engine is done, and is late at its limit; a restore ends with its record, and a belay writes
its manifest. What engines do within one command is the model's choice: log entry 44. -/
def Obligations.TrainingStep : Prop :=
  ∀ (s : State), s.down = false → s.training = true → s.hold.held = false → s.hold.tick = none →
    let at_ := fun t => s.reach (t + s.lag)
    (∀ (g : Fin 1024) w t, s.train.groups[g.val]? = some w → s.train.quantised.contains g.val = false →
      gFrozen w = false → s.stepTime (20 * gQuant w) = some t → let u := at_ t
      (u.sweptPast w = false → ∃ v, exec (.groupQuantise g) s = .next v ∧ v.train.quantised = s.train.quantised ∧
        v.train.delayed = insertAsc g s.train.delayed ∧ v.mem = s.mem) ∧
      (u.sweptPast w = true → s.train.delayed.contains g.val = false → ∀ v : State,
        (List.range (gCount w)).foldl (fun (e : Eff) i => e.andThen fun x => x.quantiseBlk ⟨w, i, gFirst w + i⟩) u.ok = (v, none) →
        ∃ x, exec (.groupQuantise g) s = .next x ∧ x.train.quantised = insertAsc g v.train.quantised ∧ x.mem = v.mem ∧
          x.deltas = v.deltas)) ∧
    (∀ t v xs, s.train.norms = none → s.train.normWritten = false → s.stepTime (s.obj 0x8000 9) = some t →
      (List.range 32).foldl (fun (acc : State × Option (List Nat)) n => match acc.2 with
        | none => acc
        | some xs => ((acc.1.engineSum n).1, (acc.1.engineSum n).2.map fun x => xs ++ [x])) (at_ t, some []) = (v, some xs) →
      ∃ x, exec .normSum s = .next x ∧ x.train.norms = some xs) ∧
    (∀ sums, s.train.norms = some sums → s.train.normWritten = false → sums.length = 32 →
      let fault := s.hold.schedFault || s.hold.sticky || s.repairOpen || (s.ropeOn && rrState s.ropeRec == rrPrepared)
      ∃ t, exec .normRecordWrite s = .next t ∧ t.train.normWritten = true ∧ t.hold.schedFault = s.hold.sticky ∧
        t.mailbox 0 = bytes4 (if s.obj 0x8000 0xC = 1 then sums else List.replicate 32 0) ++ List.replicate 128 0 ++
          leBytes 4 ((if s.obj 0x8010 4 ≠ 0 then 1 else 0) + (if fault then 2 else 0)) ++ List.replicate 252 0) ∧
    (∀ t, s.stepTime (s.obj 0x8000 0xA) = some t → let u := at_ t
      let flags := leAt (u.mailbox 0) 256 4
      let total := (List.range 32).foldl (fun a n => f32Add a (leAt (u.mailbox 0) (4 * n) 4)) 0
      let schedule := bitAt flags 1 = true ∨ recState u.stepRec = 1
      let nonfinite := bitAt flags 0 = true ∨ f32Finite total = false
      ∃ v, exec .commitDecision s = .next v ∧
        (schedule → v = u.skipStep .schedule ∧ v.obj 0x8003 2 = (s.obj 0x8003 2 + 1) % 2 ^ 32) ∧
        (¬ schedule → nonfinite → v = u.skipStep .nonfinite ∧ v.obj 0x8003 1 = (s.obj 0x8003 1 + 1) % 2 ^ 32) ∧
        (¬ schedule → ¬ nonfinite → v = u.commitStep (f32Sqrt total) ∧ v.obj 0x8003 7 = f32Sqrt total)) ∧
    (recState s.stepRec = 1 → s.train.groups ≠ [] → let u := s.resumeSweeps
      (∀ n : Engine, u.engineDone n = true) → u.repairOpen = false → u.ropeOn = false →
      ∃ v, exec .sweepEnd s = .next v ∧ v = u.setStepRec (setFld u.stepRec 507 506 0)) ∧
    (∀ t, s.train.overran = false → recState s.stepRec = 1 → s.train.sweepAt = some t →
      ∃ v, exec .sweepLimitExpire s = .next v ∧ Logged s v [0x8006] ∧ v.train.overran = true ∧ v.hold.schedFault = true ∧
        v.hall = max s.hall (64 * (t + 1000 * s.obj 0x8000 0xB + s.lag))) ∧
    (∀ r, s.train.restoring = some r → ∃ v, exec .restoreComplete s = .next v ∧ v.train.restoring = none ∧
      Logged s v [if r.failed.isNone then 0x8008 else 0x8009]) ∧
    (s.train.belayAsked = true → recState s.stepRec = 0 → s.repairOpen = false →
      ∃ v, exec .belayManifestWrite s = .next v ∧ Logged s v [0x8007] ∧ v.train.belayAsked = false ∧
        v.mem = (s.mpWrite (s.obj 0x8004 1) s.manifest).mem)

/-- Replica agreement (R310-R317, R421, R428): the fingerprint record carries the module's fingerprint
and step with their complements; the check counts an agreement, an incomplete exchange or a
mismatch, and a mismatch begins the localisation; an answer of a peer is taken, an unanswered
request is repeated and is given up after its last attempt; a block whose copy has come is repaired
from it, and one whose copy has failed sends the repair to the next source; an update engine that
hangs is reset and takes up its sweep. The order of sources and the open repair are the model's
reading: log entries 48 and 128. -/
def Obligations.ReplicaAgreement : Prop :=
  ∀ (s : State), s.down = false →
    (∀ t, s.training = true → s.hold.held = false → s.hold.tick = none → s.train.fpWritten = false →
      s.stepTime (s.obj 0x8014 1) = some t →
      let u := s.reach (t + s.lag)
      let busy := recState u.stepRec = 1
      ∃ v, exec .fpRecordWrite s = .next v ∧ v.train.fpWritten = true ∧
        v.mailbox 1 = leBytes 4 f32One ++ List.replicate 252 0 ++
          (if busy then List.replicate 24 0 else
            leBytes 8 (u.obj 0x8014 3) ++ leBytes 8 (notBits 64 (u.obj 0x8014 3)) ++ leBytes 4 (recStep u.stepRec) ++
              leBytes 4 (notBits 32 (recStep u.stepRec))) ++ leBytes 8 (2 ^ u.ownReplica) ++
          leBytes 4 (if busy then 1 else 0) ++ List.replicate 220 0) ∧
    (∀ t, s.training = true → s.hold.held = false → s.hold.tick = none → s.train.fpChecked = false →
      s.stepTime (s.obj 0x8014 2) = some t →
      let r := (s.reach (t + s.lag)).mailbox 1
      let complete := leAt r 0 4 = f32Nat s.replicaCount ∧ (∀ i < s.replicaCount, (leAt r 280 8).testBit i = true) ∧
        bitAt (leAt r 288 4) 0 = false
      let equal := Nat.land (leAt r 256 8) (leAt r 264 8) = 0 ∧ Nat.land (leAt r 272 4) (leAt r 276 4) = 0
      (complete ∧ equal → ∃ v, exec .fpCheck s = .next v ∧ v.train.fpChecked = true ∧ v.faults.ring = s.faults.ring ∧
        v.obj 0x8014 7 = (s.obj 0x8014 7 + 1) % 2 ^ 32 ∧ v.train.repair = s.train.repair) ∧
      (¬ complete → ∃ v, exec .fpCheck s = .next v ∧ v.train.fpChecked = true ∧ Logged s v [0x8015] ∧
        v.obj 0x8014 0xA = (s.obj 0x8014 0xA + 1) % 2 ^ 32 ∧ v.train.repair = s.train.repair) ∧
      (complete ∧ ¬ equal → ∃ v u : State, exec .fpCheck s = .next v ∧ v = u.localise ∧ Logged s u [0x8011] ∧
        u.train.fpChecked = true ∧ u.obj 0x8014 8 = (s.obj 0x8014 8 + 1) % 2 ^ 32 ∧
        ((∃ i < s.replicaCount, i ≠ s.ownReplica) → v.train.repair.map (·.phase) = some .values))) ∧
    (∀ m : DxpMsg, m.transport = 2 → hKind m.header.toNat = 2 ∨ hKind m.header.toNat = 4 → let u := s.popVc0 m
      let w := m.header.toNat
      let mine := fun q : OwnRequest => answerFormat w m.data.length && q.seq == hSeq w && q.dst == m.source &&
        (if q.session.isNone then hKind w == 2 else hKind w == 4)
      (u.dict.ownRequests.find? mine = none → ∃ t, exec (.dxpResponse m) s = .next t ∧ t = u) ∧
      (∀ q r i, u.dict.ownRequests.find? mine = some q → u.train.repair = some r → s.replicaOf q.dst = some i →
        hAbort w = 0 → q.session = none → r.phase ≠ .repair →
        ∃ t h, exec (.dxpResponse m) s = .next t ∧
          t.train.repair = some { r with sessions := Tbl.set 0 r.sessions i (leAt m.data 2 2) } ∧
          t.dict.ownRequests = (u.dict.ownRequests.filter (·.seq != q.seq)) ++
            [⟨s.dict.ownSeq, q.dst, some (leAt m.data 2 2), h, [], 1, s.now⟩]) ∧
      (∀ q r i, u.dict.ownRequests.find? mine = some q → u.train.repair = some r → s.replicaOf q.dst = some i →
        hAbort w ≠ 0 → ∃ t, exec (.dxpResponse m) s = .next t ∧ t = ((u.dropOwn q.seq).ownFails q).askRepair)) ∧
    (∀ (n : BitVec 32) (q : OwnRequest), s.dict.ownRequests.find? (fun q => q.seq == n.toNat) = some q →
      let u := s.reach (q.sentAt + 1000 * s.obj 0x1002 0xD)
      (q.attempts < s.obj 0x1002 0xE → ∃ t, exec (.vc0RetryExpire n) s = .next t ∧ t.hall = u.hall ∧
        t.dict.ownRequests = (s.dict.ownRequests.map fun x =>
          if x.seq = q.seq then { x with attempts := x.attempts + 1, sentAt := u.now } else x) ∧
        t = (u.setDict fun d => { d with ownRequests := d.ownRequests.map fun x =>
          if x.seq = q.seq then { x with attempts := x.attempts + 1, sentAt := u.now } else x }).sendMgmt q.dst
            (dxpBytes q.header q.data)) ∧
      (s.obj 0x1002 0xE ≤ q.attempts → ∃ t, exec (.vc0RetryExpire n) s = .next t ∧
        t = ((u.dropOwn q.seq).ownFails q).askRepair ∧
        (s.train.repair = none → t.dict.ownRequests = s.dict.ownRequests.filter (·.seq != q.seq)))) ∧
    (∀ b d r k, s.train.repair = some r → r.phase = .repair → r.todo.head? = some b →
      (allBlocks s.train.groups).find? (·.b == b) = some k →
      let u := s.finishCopy
      (d.ok = true → (u.flow (u.replicaCtx r.src)).state = .opened → repairFits d k = true →
        ∃ t, exec (.repairBlock b d) s = .next t ∧ t = u.repairBlk { r with asked := true } k d) ∧
      (d.ok = true → (u.flow (u.replicaCtx r.src)).state ≠ .opened ∨ repairFits d k = false →
        ∃ t, exec (.repairBlock b d) s = .next t ∧ t = u.sourceFails { r with asked := true }) ∧
      (d.ok = false → ∃ t, exec (.repairBlock b d) s = .next t ∧ t = s.sourceFails r)) ∧
    (∀ n : Engine, s.training = true →
      (recState s.stepRec = 1 → s.engineDone n = false →
        ∃ t u : State, exec (.enginePaceExpire n) s = .next t ∧ Logged s u [0x9001] ∧
          u.hall = max s.hall (64 * ((s.engineSt n).pace + s.obj 0x9000 3)) ∧ let v := u.engineReset n 0
          (v.obj 0x9003 1 = 1 → t = v) ∧
          (v.obj 0x9003 1 ≠ 1 → t = ((v.count 0x8003 3).log 0x8003 (domEngine n)).sweepEngine n)) ∧
      (recState s.stepRec ≠ 1 → (s.engineSt n).stopped = true → s.obj 0x9003 1 ≠ 1 → s.resetsInWindow + 1 < s.obj 0x9002 1 →
        s.hall = 64 * ((s.engineSt n).pace + s.obj 0x9000 3) →
        ∃ t, exec (.enginePaceExpire n) s = .next t ∧ (t.engineSt n).stopped = false ∧ (t.engineSt n).tcache = [] ∧
          t.faults.resets = s.now :: s.faults.resets))

/-- A rope frame that is received (R331-R337, R339-R341, R346, R348, R349). The gateway hands on a
frame for another module of its site. A frame with a reserved field set, from or for another module,
of a session that is not open or of an epoch not held is discarded and counted; one whose tag fails
is logged and counted. On an open stripe a sequenced frame of the window is taken once and goes
into the acknowledgement, a duplicate is counted and only acknowledged again, one beyond the window
is discarded, and one whose content is refused is discarded with event 0x7014. A SACK moves the
smoothed round-trip time and CUM and removes what it acknowledges; one that comes to a slack session
answers its PROBE. A PROBE to an open session is answered and every stripe toward that site closes,
to be opened afresh. OPEN from the lower-numbered site, or from a joiner, is answered when the tokens
suffice, and OPEN and ACCEPT open every stripe agreed in key epoch 0 with SEQ from 0; a joiner is
sent the belay by its sponsor. -/
def Obligations.RopeFrames : Prop :=
  ∀ (s : State) (f : RopeFrame), s.down = false →
    let w := f.header.toNat
    let y := 32 * rfSrcSite w + rfStripe w
    let forwards := rfDstSite w = s.ownSite ∧ rfDstModule w ≠ s.moduleNumber ∧ (List.range 64).any (s.role · == 2) = true
    let rows := [(Instr.ropeDelta f, 3), (.ropeSack f, 4), (.roundInfo f, 5), (.rekey f, 6), (.rekeyAck f, 7),
      (.regroup f, 8), (.ropeBelay f, 9), (.probe f, 0xB)]
    (forwards → ∀ c ∈ [Instr.ropeOpen f, .ropeAccept f] ++ rows.map (·.1),
      exec c s = .next (s.packetSend (rfDstModule w) f.header f.body)) ∧
    (¬ forwards → ∀ r ∈ rows, rfKind w = r.2 →
      let foreign := rfVersion w ≠ 2 ∨ fld w 173 0 ≠ 0 ∨ rfDstSite w ≠ s.ownSite ∨ rfDstModule w ≠ s.moduleNumber ∨
        s.peerSites.contains (rfSrcSite w) = false ∨ rfSrcModule w ≠ s.peerModule (rfSrcSite w) ∨
        (sequencedKind r.2 = false ∧ rfSeq w ≠ 0) ∨ ((s.ropeSess y).state ≠ .opened ∧ (s.ropeSess y).state ≠ .slack)
      (foreign ∨ (s.ropeSess y).epochOf (rfEpoch w) = none ∨ f.body.length ≠ rfBodyLen w + 16 →
        exec r.1 s = .next s.discard) ∧
      (¬ foreign → f.body.length = rfBodyLen w + 16 → ∀ k, (s.ropeSess y).epochOf (rfEpoch w) = some k →
        let plain := Config.gcmOpen k.keyIn (ropeNonce k.saltIn (rfNonce w)) (leBytes 64 w)
          (f.body.take (rfBodyLen w)) (f.body.drop (rfBodyLen w))
        (plain = none → ∃ t, exec r.1 s = .next t ∧ Logged s t [0x7004] ∧ t.rope.sess = s.rope.sess ∧
          t.obj 0x7005 0xB = (s.obj 0x7005 0xB + 1) % 2 ^ 64) ∧
        (∀ body, plain = some body → crc32c body ≠ rfCrc w → exec r.1 s = .next s.discard) ∧
        (∀ body, plain = some body → crc32c body = rfCrc w → s.openFrame f = (s, some (y, body))))) ∧
    (¬ forwards → ∀ x body, s.openFrame f = (s, some (x, body)) →
      (∀ r ∈ [(Instr.ropeDelta f, 3, s.takeDelta w x body), (.roundInfo f, 5, s.takeInfo x body),
          (.rekey f, 6, s.takeRekey w x body), (.rekeyAck f, 7, s.takeRekeyAck w x body),
          (.regroup f, 8, s.takeRegroup w x body), (.ropeBelay f, 9, s.takeBelay w x body)], rfKind w = r.2.1 →
        (s.ropeSess x).state = .opened →
        (∀ u, (s.ropeSess x).fresh (rfSeq w) = some true → r.2.2 = some u → exec r.1 s = .next (u.noteFrame x w true)) ∧
        ((s.ropeSess x).fresh (rfSeq w) = some true → r.2.2 = none → ∃ t, exec r.1 s = .next t ∧ Logged s t [0x7014] ∧
          t.rope.sess = s.rope.sess ∧ t.rope.discarded = s.rope.discarded + 1) ∧
        ((s.ropeSess x).fresh (rfSeq w) = some false → ∃ t u : State, exec r.1 s = .next t ∧ t = u.noteFrame x w false ∧
          u.rope.duplicates = s.rope.duplicates + 1 ∧ u.rope.sess = s.rope.sess ∧ u.mem = s.mem) ∧
        ((s.ropeSess x).fresh (rfSeq w) = none → exec r.1 s = .next s.discard)) ∧
      (rfKind w = 4 → (s.ropeSess x).state = .opened → body.length = 576 → leAt body 16 48 = 0 →
        ∃ t, exec (.ropeSack f) s = .next t ∧ let v := s.ropeSess x; let v' := t.ropeSess x
          v'.srtt = (7 * v.srtt + 1000 * (s.now / 1000 - leAt body 4 8 - leAt body 12 4)) / 8 ∧
          v'.cumOut = (if serialLt v.cumOut (leAt body 0 4) then leAt body 0 4 else v.cumOut) ∧
          v'.unacked.map (·.seq) = (v.unacked.map (·.seq)).filter fun q =>
            !(serialLt q (leAt body 0 4) || (sackSeqs (leAt body 0 4) (body.drop 64)).contains q)) ∧
      (rfKind w = 4 → (s.ropeSess y).state = .slack → exec (.ropeSack f) s = .next (s.leaveSlack (rfSrcSite w))) ∧
      (rfKind w = 0xB → body = [] → (s.ropeSess x).state = .opened →
        let v := s.noteFrame x w true
        ∃ t u : State, exec (.probe f) s = .next t ∧ t = u.leaveSlack (x / 32) ∧
          u.out = ((v.transmit x 4 false 0 0 0 0 0 (sackBody (v.ropeSess x) v.now)).getD v).out ∧
          ∀ k < 32, (t.ropeSess (32 * (x / 32) + k)).state ≠ .opened)) ∧
    (let site := rfSrcSite w
      let b := f.body
      let opens := fun (u : State) (n : Nat) => ∀ k < n, s.faults.deadSessions.contains (32 * site + k) = false →
        (u.ropeSess (32 * site + k)).state = .opened ∧ (u.ropeSess (32 * site + k)).cur.number = 0 ∧
        (u.ropeSess (32 * site + k)).txSeq = 0 ∧ (u.ropeSess (32 * site + k)).rxCum = 0
      ¬ forwards → s.job.loaded = true → s.isLeader = true →
      (site < s.ownSite ∨ bitAt (leAt b 3 1) 0 = true → s.clearFrameOk f 1 = true → b.length = 6461 → leAt b 0 1 ≤ 2 →
        2 ≤ leAt b 1 1 → 1 ≤ leAt b 2 1 → leAt b 2 1 ≤ 32 → leAt b 3 1 ≤ 1 → 1024 ≤ leAt b 4 4 → leAt b 4 4 ≤ 1048576 →
        leAt b 8 8 = 0 → s.peerStripes site ≠ 0 → Config.sha3 ((b.drop 1200).take 1952) = s.peerHash site →
        Config.mldsaVerify ((b.drop 1200).take 1952) (signedHeader w ++ b.take 3152) (b.drop 3152) = true →
        6429 ≤ refill (s.ropePeer site).tokens (s.ropePeer site).tokensAt (s.peerRate site) s.now →
        6429 ≤ refill s.rope.tokens s.rope.tokensAt (s.obj 0x7003 1) s.now →
        let n := min (leAt b 2 1) (s.peerStripes site)
        ∃ t u : State, exec (.ropeOpen f) s = .next t ∧ (u.ropePeer site).stripes = n ∧
          (u.ropePeer site).window = min (leAt b 4 4) (s.obj 0x7003 2) ∧ opens u n ∧
          (bitAt (leAt b 3 1) 0 = true → u.isSponsor site = true → t = u.sendBelay site) ∧
          (bitAt (leAt b 3 1) 0 = false ∨ u.isSponsor site = false → t = u)) ∧
      (∀ o, (s.ropePeer site).opening = some o → s.clearFrameOk f 2 = true → b.length = 6365 → leAt b 0 1 = 2 →
        1 ≤ leAt b 1 1 → leAt b 1 1 ≤ s.peerStripes site → leAt b 2 2 = 0 → 1024 ≤ leAt b 4 4 →
        leAt b 4 4 ≤ s.obj 0x7003 2 → leAt b 8 8 = 0 → Config.sha3 ((b.drop 1104).take 1952) = s.peerHash site →
        Config.mldsaVerify ((b.drop 1104).take 1952) (signedHeader w ++ b.take 3056 ++ Config.sha3 o.sent) (b.drop 3056) = true →
        ∃ t, exec (.ropeAccept f) s = .next t ∧ (t.ropePeer site).stripes = leAt b 1 1 ∧
          (t.ropePeer site).window = leAt b 4 4 ∧ (t.ropePeer site).opening = none ∧ opens t (leAt b 1 1)))

/-- What a stripe sends (R335, R336, R338-R341, R346, R349, R428). A frame goes out under a fresh
nonce when both token buckets hold its bytes. SACKs go before everything, a frame that is due goes
next, and the first new frame in the order of R338 goes when the window allows it, is kept
unacknowledged, and begins the agreed epoch at its SWITCH_SEQ with event 0x7005. A frame without an
answer for max(2 × SRTT, 1 ms) is sent again and counted. A SACK is due 20 µs after the first frame
not reported. The leader of the lower-numbered site opens, and a joiner opens toward every site with
JOIN set; without a rope port it logs event 0x7013. A key epoch that has lasted, or a nonce counter
at 2³¹, begins a rekey, which waits while the epoch before is still held. A slack session probes. A
session without progress is reset: it closes and keeps its frames. A DELTA whose slot of the store
is poisoned waits, and the retirement of each side's epoch is as log entry 50 says. -/
def Obligations.RopeSending : Prop :=
  ∀ (s : State), s.down = false →
    (∀ x kind retx seq round engine slot item body, let p := s.ropePeer (x / 32); let n := 80 + body.length
      let a := refill p.tokens p.tokensAt (s.peerRate (x / 32)) s.now
      let b := refill s.rope.tokens s.rope.tokensAt (s.obj 0x7003 1) s.now
      (a < n ∨ b < n → s.transmit x kind retx seq round engine slot item body = none) ∧
      (n ≤ a → n ≤ b → (s.ropeSess x).nonce < 2 ^ 32 - 1 ∨ kind = 4 → ∃ (u : State) (h : BitVec 512) (bs : List Byte),
        s.transmit x kind retx seq round engine slot item body = some (u.routeFrame (x % 32) h bs) ∧
        rfKind h.toNat = kind % 16 ∧ rfNonce h.toNat = (s.ropeSess x).nonce % 2 ^ 64 ∧ bitAt h.toNat 501 = retx ∧
        (u.ropeSess x).nonce = (s.ropeSess x).nonce + 1 ∧ (u.ropePeer (x / 32)).tokens = a - n ∧ u.rope.tokens = b - n)) ∧
    (∀ x : Sess, let u := s.flushGateway; let v := u.ropeSess x.val
      let bad := fun f : OutFrame => f.kind == 3 && u.storeBad f.round f.engine f.slot
      (∀ kind body rest z, v.urgent = (kind, body) :: rest → u.transmit x kind false 0 0 0 0 0 body = some z →
        exec (.ropeSend x) s = .next (z.mapSess x fun v => { v with urgent := rest })) ∧
      (∀ f, v.urgent = [] → v.state = .opened → v.unacked.find? (fun f => f.due && !bad f) = some f →
        exec (.ropeSend x) s = .next (u.resend x f)) ∧
      (∀ f z, v.urgent = [] → v.state = .opened → v.unacked.find? (fun f => f.due && !bad f) = none →
        firstFrame (v.queue.filter fun f => !bad f) = some f → serialLt v.txSeq (v.cumOut + v.window) = true →
        (u.switchEpoch x v.txSeq).transmit x f.kind false v.txSeq f.round f.engine f.slot f.item f.body = some z →
        ∃ t, exec (.ropeSend x) s = .next t ∧ (t.ropeSess x).txSeq = (v.txSeq + 1) % 2 ^ 32 ∧
          (t.ropeSess x).queue = (z.ropeSess x).queue.erase f ∧
          (t.ropeSess x).unacked = (z.ropeSess x).unacked ++
            [{ f with seq := v.txSeq, epoch := (z.ropeSess x).cur.number, sentAt := z.now }])) ∧
    (∀ (x : Sess) seq k sw, (s.ropeSess x).next = some (k, sw) →
      (serialLt seq sw = true → s.switchEpoch x seq = s) ∧
      (serialLt seq sw = false → let t := s.switchEpoch x seq
        Logged s t [0x7005] ∧ (t.ropeSess x).cur = k ∧ (t.ropeSess x).nonce = 0 ∧ (t.ropeSess x).next = none ∧
        (t.ropeSess x).prevOut = some (s.ropeSess x).cur ∧ (t.ropeSess x).prevIn = some (s.ropeSess x).cur)) ∧
    (∀ x f z, s.transmit x f.kind true f.seq f.round f.engine f.slot f.item f.body = some z → let t := s.resend x f
      t.obj 0x7005 0xC = (z.obj 0x7005 0xC + 1) % 2 ^ 64 ∧
      ∀ q ∈ (t.ropeSess x).unacked, q.seq = f.seq → q.sentAt = z.now ∧ q.due = false) ∧
    (∀ (x : Sess) f fs, (s.ropeSess x).state = .opened → (s.ropeSess x).unacked = f :: fs →
      let limit := max (2 * (s.ropeSess x).srtt) 1000000
      let oldest := fs.foldl (fun g h => if h.sentAt < g.sentAt then h else g) f
      let u := s.reach (oldest.sentAt + limit + 1)
      let old := fun g : OutFrame => decide (g.sentAt + limit < u.now)
      ∀ g, (f :: fs).find? old = some g → exec (.resendTimeout x) s = .next ((u.mapSess x fun v =>
        { v with unacked := v.unacked.map fun g => if old g then { g with due := true } else g }).resend x g)) ∧
    (∀ (x : Sess) t, (s.ropeSess x).since = some t → ∃ u, exec (.sackTimer x) s = .next u ∧
      u.hall = max s.hall (64 * (t + 20000)) ∧ (u.ropeSess x).since = none ∧ (u.ropeSess x).unreported = 0 ∧
      (u.ropeSess x).urgent = (s.ropeSess x).urgent ++ [(4, sackBody (s.ropeSess x) u.now)]) ∧
    (∀ (n : Site), s.job.loaded = true → s.isLeader = true → s.peerSites.contains n.val = true →
      s.ownSite < n.val ∨ s.isJoiner = true → (∃ k ∈ s.stripesTo n.val, s.wantsOpen (32 * n.val + k) = true) →
      let u := match (s.ropePeer n.val).triedAt with
        | some t => s.reach (t + 1000000 * s.obj 0x7003 5)
        | none => s
      (s.pathUp = false → ∃ t, exec (.sessionOpenAttempt n) s = .next t ∧ Logged s t [0x7013] ∧
        (t.ropePeer n.val).triedAt = some u.now) ∧
      (s.pathUp = true → 6525 ≤ refill (s.ropePeer n.val).tokens (s.ropePeer n.val).tokensAt (s.peerRate n.val) u.now →
        6525 ≤ refill s.rope.tokens s.rope.tokensAt (s.obj 0x7003 1) u.now →
        ∃ (t z : State) (h : BitVec 512) (body : List Byte) (o : Handshake), exec (.sessionOpenAttempt n) s = .next t ∧
          t = z.routeFrame 0 h body ∧ rfKind h.toNat = 1 ∧ leAt body 0 2 = 0x202 ∧ bitAt (leAt body 3 1) 0 = s.isJoiner ∧
          (z.ropePeer n.val).triedAt = some u.now ∧ (z.ropePeer n.val).opening = some o ∧
          o.sent = leBytes 64 h.toNat ++ body ∧
          ∀ k ∈ s.stripesTo n.val, (s.ropeSess (32 * n.val + k)).state = .closed →
            (z.ropeSess (32 * n.val + k)).state = .opening)) ∧
    (∀ (n : Site), (sessionsTo n.val).any (fun x => (s.ropeSess x).state == .opened) = true → (s.ropePeer n.val).rekey = none →
      ((s.ropePeer n.val).rekeyDue = true → exec (.rekeyIntervalExpire n) s = .next (s.startRekey n.val)) ∧
      ((s.ropePeer n.val).rekeyDue = false → exec (.rekeyIntervalExpire n) s =
        .next ((s.reach ((s.ropePeer n.val).epochAt + 1000000000 * s.obj 0x7003 4)).startRekey n.val))) ∧
    (∀ (x : Sess), (s.ropeSess x).state = .opened → 2 ^ 31 ≤ (s.ropeSess x).nonce →
      (s.ropePeer (x.val / 32)).rekey = none → exec (.nonceLimit x) s = .next (s.startRekey (x.val / 32))) ∧
    (∀ n, (s.rekeyFree n = false → (s.startRekey n).ropePeer n = { s.ropePeer n with rekeyDue := true }) ∧
      (s.rekeyFree n = true → ∃ (u : State) (o : Handshake) (body : List Byte), (u.ropePeer n).rekey = some o ∧
        (u.ropePeer n).rekeyDue = false ∧ o.switches = s.switchSeqs n ∧
        s.startRekey n = u.queueTo n ⟨6, 0, 0, 0, 0, body, 0, 0, 0, false⟩)) ∧
    (∀ (x : Sess), (s.ropeSess x).state = .slack → let u := match (s.ropeSess x).probedAt with
        | some t => s.reach (t + 1000000 * s.obj 0x7003 5)
        | none => s
      ∀ z, u.transmit x 0xB false 0 0 0 0 0 [] = some z → ∃ t, exec (.probeIntervalExpire x) s = .next t ∧
        t.ropeSess x = { z.ropeSess x with probedAt := some z.now }) ∧
    (∀ (x : Sess), (s.ropeSess x).state = .opened → (s.ropeSess x).unacked ≠ [] → ∃ t u : State,
      exec (.sessionPaceExpire x) s = .next t ∧ t = u.resetSession x.val ∧ Logged s u [0x9001] ∧
      u.rope = s.rope ∧ u.hall = max s.hall (64 * ((s.ropeSess x).pace + 1000000 * s.obj 0x9000 4))) ∧
    (∀ (x : Sess), s.sessResetsIn x.val + 1 < s.obj 0x9001 5 → let t := s.resetSession x.val
      (t.ropeSess x).state = .closed ∧ (t.ropeSess x).queue = (s.ropeSess x).heldFrames ∧
      (t.ropeSess x).cur = .none ∧ (t.ropePeer (x.val / 32)).opening = none)

/-- The close of a rope round (R342, R343): at the deadline the leader closes the pending round
with the sites whose deltas are complete; it is recorded PREPARED and every other replica is
asked, or committed at once where there is none; a replica that is asked takes the round, its
members and weights, and answers when its deltas are whole; after the last answer the leader
commits, with APPLY_STEP the next step; a replica takes the commit; answers that do not come in
time fail the job. CLOSED and the carry mask at PREPARE are the model's reading: log entry 52. -/
def Obligations.RopeRoundClose : Prop :=
  ∀ (s : State), s.down = false →
    (s.closable = true → s.isLeader = true → (∀ b, s.rope.bid = some b → b.round ≠ s.pendingRound) →
      s.pendingRound + 1 = rrRound s.ropeRec →
      let w := s.ropeRec
      let start := if s.pendingRound = 0 then s.rope.activeAt else 1000 * rrPrevEndUs w
      let u := s.reach (1000 * rrEndUs w + ropeBudget (s.obj 0x7002 3) (1000 * rrEndUs w - start))
      exec .roundDeadline s = .next (u.closeWith (u.membersNow s.pendingRound) false 2)) ∧
    (∀ members cause, cause ≠ 0 → let r := s.pendingRound
      let carry := members.filter fun x => (Tbl.get none s.rope.held x).isSome
      let w := setFld (setFld (setFld (setFld (setFld s.ropeRec 507 506 rrPrepared) 503 503 0) 463 432 r) 399 392
        (maskOf members)) 391 384 (maskOf carry)
      ∃ u : State, Logged s u [if cause = 3 then 0x7009 else 0x7008] ∧ u.mem = (s.setRopeRec w).mem ∧ u.rope.closeRound = r ∧
        u.rope.closingAt = some s.now ∧ u.rope.acks = [] ∧
        u.rope.weights = (List.range 8).map (fun x => if members.contains x then leAt (s.infoOf x r) 4 4 else 0) ∧
        s.closeWith members false cause = if u.otherReplicas = [] then u.commitClose
          else u.each u.otherReplicas fun t i => t.repairRequest i 4 0 (t.closeEntry 1)) ∧
    (let w := setFld (setFld s.ropeRec 507 506 rrCommitted) 431 400 ((recStep s.stepRec + 1) % 2 ^ 32)
      ∃ u : State, u.mem = (s.setRopeRec w).mem ∧ u.rope.closingAt = none ∧
        s.commitClose = u.each u.otherReplicas fun t i => t.repairRequest i 4 0 (t.closeEntry 3)) ∧
    (∀ e, s.isLeader = false → s.entryOk e 1 = true →
      let w := setFld (setFld (setFld (setFld (setFld s.ropeRec 507 506 rrPrepared) 503 503 (leAt e 3 1)) 463 432 (leAt e 4 4))
        399 392 (leAt e 1 1)) 391 384 (leAt e 2 1)
      ∃ t u : State, exec (.closePrepare e) s = .next t ∧ t = u.answerPrepare ∧ u.mem = (s.setRopeRec w).mem ∧
        u.rope.closeRound = leAt e 4 4 ∧ u.rope.weights = (List.range 8).map (fun x => leAt e (16 + 4 * x) 4) ∧
        u.rope.unanswered = true) ∧
    (let members := (sitesOf (rrMembers s.ropeRec)).filter (· != s.ownSite)
      let ready := (∀ x ∈ members, (s.deltaValues x (rrClosed s.ropeRec)).isSome = true) ∧
        ∀ x ∈ sitesOf (rrCarry s.ropeRec), (Tbl.get none s.rope.held x).isSome = true
      s.rope.unanswered = true → rrState s.ropeRec = rrPrepared →
      (ready → ∃ u : State, u.rope = { s.rope with unanswered := false } ∧ u.mem = s.mem ∧
        s.answerPrepare = u.repairRequest 0 4 0 (s.closeEntry 2)) ∧ (¬ ready → s.answerPrepare = s)) ∧
    (∀ (r : Fin 64) e, s.isLeader = true → s.entryOk e 2 = true → rrState s.ropeRec = rrPrepared →
      leAt e 4 4 = rrClosed s.ropeRec → s.otherReplicas.contains r.val = true →
      let u := s.setRope fun x => { x with acks := insertAsc r.val x.acks }
      (u.otherReplicas.all u.rope.acks.contains = true → exec (.closeAck r e) s = .next u.commitClose) ∧
      (u.otherReplicas.all u.rope.acks.contains = false → exec (.closeAck r e) s = .next u)) ∧
    (∀ e, s.isLeader = false → s.entryOk e 3 = true → rrState s.ropeRec = rrPrepared → leAt e 4 4 = rrClosed s.ropeRec →
      exec (.closeCommit e) s = .next (s.setRopeRec (setFld (setFld s.ropeRec 507 506 rrCommitted) 431 400 (leAt e 8 4)))) ∧
    (∀ t, s.rope.closingAt = some t → rrState s.ropeRec = rrPrepared → ∃ u : State, Logged s u [0x7012] ∧
      u.hall = max s.hall (64 * (t + 1000 * s.obj 0x7002 7)) ∧ u.rope.closingAt = none ∧
      exec .closeAckLimitExpire s = .next ((u.faultCount 9).jobFail 9))

/-- Errors of memory (R355, R360-R368): a retry that succeeded and a correction are counted, a
codeword that stays uncorrectable is poisoned and logged as event 0x5002, and the counts within
the window are held against the thresholds; event 0x5001 comes at most once a second. A
pseudo-channel past a threshold is permanent: it is retired and logged, and it migrates where the
span in force has room, or stays until the next job load; more than 4 of a region or 8 in all take
the module out of service. The scrub corrects up to three symbols and poisons four or five; more
are detected or change the codeword to any value. A migration ends with event 0x5005. A stack reset
is a counted reset, logs event 0x500A and keeps the contents. That a corrected retry counts twice, and
the end of a scrub's pass, are the model's reading: log entry 55; the stack reset's hold is log
entry 56. -/
def Obligations.MemoryErrors : Prop :=
  ∀ (s : State), s.down = false → s.kind ≠ 6 →
    (∀ (a : BitVec 41), a.toNat < memTop → let p := (s.locate a.toNat).1; let v := s.pcErr p
      let due := ∀ t, v.loggedAt = some t → t + 1000000000 ≤ s.now
      (∃ u : State, (due → Logged s u [0x5001]) ∧ (¬ due → Logged s u []) ∧
        (u.pcErr p).retried = (v.retried + 1) % 2 ^ 32 ∧ (u.pcErr p).corrected = v.corrected ∧
        u.memctl.retries = (p, s.now) :: s.memctl.retries ∧ u.mem = s.mem ∧ u.poison = s.poison ∧
        exec (.memoryRetry a .clean) s = .next (u.judgePc p)) ∧
      (∃ u : State, (u.pcErr p).retried = (v.retried + 1) % 2 ^ 32 ∧ (u.pcErr p).corrected = (v.corrected + 1) % 2 ^ 32 ∧
        u.memctl.corrections = (p, s.now) :: s.memctl.corrections ∧ u.mem = s.mem ∧ u.poison = s.poison ∧
        exec (.memoryRetry a .corrected) s = .next (u.judgePc p)) ∧
      (∃ u : State, (u.pcErr p).poisoned = (v.poisoned + 1) % 2 ^ 32 ∧ u.poison = insertAsc (a.toNat / 64) s.poison ∧
        Logged s u [0x5002] ∧ u.mem = s.mem ∧ exec (.memoryRetry a .uncorrectable) s = .next (u.judgePc p)) ∧
      (∀ n, let ends := fun u : State =>
          if p % 2 = 1 ∧ (s.locate a.toNat).2 / 64 = 393216 * 32 - 1 then u.logPc 0x5009 p none else u
        (n = 0 → exec (.scrubRead a n) s = .next (ends s)) ∧
        (1 ≤ n → n ≤ 3 → ∃ u : State, (u.pcErr p).corrected = (v.corrected + 1) % 2 ^ 32 ∧ u.poison = s.poison ∧
          u.mem = s.mem ∧ exec (.scrubRead a n) s = .next (ends (u.judgePc p))) ∧
        (n = 4 ∨ n = 5 → ∃ u : State, (u.pcErr p).poisoned = (v.poisoned + 1) % 2 ^ 32 ∧
          u.poison = insertAsc (a.toNat / 64) s.poison ∧ Logged s u [0x5002] ∧
          exec (.scrubRead a n) s = .next (ends (u.judgePc p))) ∧
        (6 ≤ n → ∃ u : State, exec (.scrubRead a n) s = .next (ends u) ∧
          ((u.poison = s.poison ∧ u.pcErr p = v ∧ ∀ b k, b + k ≤ a.toNat / 64 * 64 ∨ a.toNat / 64 * 64 + 64 ≤ b →
            u.read b k = s.read b k) ∨
          ∃ x : State, Logged s x [0x5002] ∧ x.poison = insertAsc (a.toNat / 64) s.poison ∧ u = x.judgePc p)))) ∧
    (∀ p, let past := s.obj 0x5000 8 ≤ s.windowCount p s.memctl.retries ∨ s.obj 0x5000 9 ≤ s.windowCount p s.memctl.corrections
      (¬ past → s.judgePc p = s) ∧
      (past → s.memctl.retired.contains p = true → s.judgePc p = s) ∧
      (past → s.memctl.retired.contains p = false →
        let t := s.judgePc p
        let all := insertAsc p s.memctl.retired
        let mine := (all.filter (· / 512 == p / 512)).length
        t.memctl.retired = all ∧
        (mine ≤ 4 → all.length ≤ 8 →
          (mine ≤ s.spanOf (p / 512) → Logged s t [0x9008, 0x5004] ∧ (t.pcErr p).state = 2 ∧
            t.memctl.migrating = s.memctl.migrating ++ [p]) ∧
          (s.spanOf (p / 512) < mine → Logged s t [0x5006, 0x9008, 0x5004] ∧ (t.pcErr p).state = 1)) ∧
        (4 < mine ∨ 8 < all.length → ∃ u : State, Logged s u ([0x5007] ++
          (if mine ≤ s.spanOf (p / 512) then [] else [0x5006]) ++ [0x9008, 0x5004]) ∧ t = u.outOfService 0x5007))) ∧
    (∀ p rest, s.memctl.migrating = p :: rest → ∃ t, exec .migrationComplete s = .next t ∧ Logged s t [0x5005] ∧
      (t.pcErr p).state = 3 ∧ t.memctl.migrating = rest ∧ t.memctl.retired = s.memctl.retired) ∧
    (∀ (n : Nat) bad, ∃ (x y : State) (seq : Nat), Logged x y [0x9002, 0x500A] ∧ y.mem = s.mem ∧ y.poison = s.poison ∧
      s.stackReset n bad = (y.trainStack n bad).originateResume seq) ∧
    (∀ (n : Stack) (bad : List PseudoChan),
      (s.resetsInWindow + 1 < s.obj 0x9002 1 → ∃ u : State, u.faults.resets = s.now :: s.faults.resets ∧
        exec (.memoryStackReset n bad) s = .next (u.stackReset n (bad.map (·.val)))) ∧
      (s.obj 0x9002 1 ≤ s.resetsInWindow + 1 → ∃ u : State, Logged s u [0x900C] ∧
        exec (.memoryStackReset n bad) s = .next (u.outOfService 0x900C)))

/-- The power manager (R378-R388): a sample is taken at its resolution, and a mean above the limit
trips the governor, which has no further effect during a brace or another trip; a dip is declared
1 µs below BRACE_V, a brace starts after BRACE_DELAY, at once on a low bank, and ends when the
input has recovered; the governor clears after 1 ms; the ballast follows the envelope; and the
resume of a cut is sent once the draw has risen again. Edges of thresholds and the limit of an
adjustment are the model's reading: log entry 57. -/
def Obligations.PowerManager : Prop :=
  ∀ (s : State), s.down = false →
    (∀ mv ma bank loads, ∃ u : State, u.supply.mv = mv / 10 * 10 ∧ u.supply.ma = ma / 10 * 10 ∧ u.supply.bank = bank ∧
      u.supply.samples = ((mv / 10 * 10) * (ma / 10 * 10) / 1000 :: s.supply.samples).take 1000 ∧
      u.supply.energy = s.supply.energy + (mv / 10 * 10) * (ma / 10 * 10) / 1000 ∧
      u.supply.lowLine = (decide (44000 ≤ mv / 10 * 10) && decide (mv / 10 * 10 < 48000)) ∧
      u.supply.surge = (decide (60000 < mv / 10 * 10) && decide (mv / 10 * 10 ≤ 80000)) ∧
      exec (.powerSample mv ma bank loads) s =
        .next (if 1000 * u.obj 0x3002 2 < u.drawMean (u.obj 0x3002 3) then u.governorTrip 0 else u)) ∧
    (∀ c, (s.supply.brace = true ∨ s.supply.governor = true → s.governorTrip c = s) ∧
      (s.supply.brace = false → s.supply.governor = false → (s.governorTrip c).supply.governor = true ∧
        (s.governorTrip c).supply.ballast = 0)) ∧
    (∀ t, s.supply.belowSince = some t → s.supply.dip = false → ∃ u, exec .dipDeclare s = .next u ∧
      u.hall = max s.hall (64 * (t + 1000)) ∧ u.supply.dip = true ∧ u.supply.lowBank = decide (s.supply.bank < 2800)) ∧
    (s.supply.dip = true → s.supply.brace = false → ∃ u : State, u.supply = s.supply ∧
      u.hall = (if s.supply.lowBank then s.hall
        else max s.hall (64 * (s.supply.belowSince.getD s.now + 1000 * s.obj 0x3001 2))) ∧
      exec .braceStart s = .next u.startBrace ∧ u.startBrace.supply.brace = true ∧ u.startBrace.supply.ballast = 0) ∧
    (∀ t, s.supply.brace = true → s.supply.connected = true → s.supply.releaseSince = some t →
      ∃ u, exec .braceRelease s = .next u ∧ Logged s u [0x3004] ∧ u.hall = max s.hall (64 * (t + 1000 * s.obj 0x3001 4)) ∧
        u.supply.brace = false ∧ u.supply.dip = false ∧ u.supply.cut = (s.supply.governor && s.supply.cut)) ∧
    (∀ t, s.supply.governor = true → s.supply.clearSince = some t → ∃ u, exec .governorClear s = .next u ∧
      u.hall = max s.hall (64 * (t + 1000000)) ∧ u.supply.governor = false ∧ u.supply.cut = (s.supply.brace && s.supply.cut)) ∧
    (∃ u, exec .ballastAdjust s = .next u ∧ u.supply.envelope = s.nextEnvelope ∧ u.supply.raised = s.nextRaised ∧
      u.supply.ballast = (match s.preBallast with | some b => max b s.nextBallast | none => s.nextBallast)) ∧
    (s.supply.restoring = true → s.supply.cut = false → s.nextBallast ≤ s.supply.ballast →
      (∀ c : Core, s.queuesEmpty c = true) → ∃ u : State,
        u.supply = { s.supply with restoring := false, holdSeq := none, govSeq := none } ∧ u.hold = s.hold ∧
        exec .braceResumeSend s = .next (match s.supply.holdSeq, s.supply.govSeq with
          | some a, some b => (u.originateResume a).originateResume b
          | some a, none => u.originateResume a
          | none, some b => u.originateResume b
          | none, none => u))

/-- The draw target, the input and the temperatures (R36, R369, R370, R379, R382, R387, R483,
R489): a target takes effect at its tick, not before a brace has ended, and falls to 0 when it has not been written for its
timeout; an over-voltage input disconnects as for a dip and reconnects after 100 µs; a power
failure stops the module and keeps only its flash; power that returns starts hall time at 0 with
the straps sampled; a sample of temperatures replaces the one before, and a critical one fails the
power; REF_IN lost is a time loss. That POWER_ON and POWER_GOOD act only without power is the
model's choice: log entry 59. -/
def Obligations.SupplyAndHeat : Prop :=
  ∀ (s : State),
    (s.down = false →
      (s.supply.brace = true → exec .targetTick s = .next s) ∧
      (∀ w t, s.supply.brace = false → s.supply.nextTarget = some (w, t) → ∃ u, exec .targetTick s = .next u ∧ Logged s u [0x300C] ∧
        u.hall = max s.hall (64 * t) ∧ u.supply.target = w ∧ u.supply.nextTarget = none) ∧
      (∀ t, s.supply.targetAt = some t → ∃ u, exec .targetTimeoutExpire s = .next u ∧ Logged s u [0x300D] ∧
        u.hall = max s.hall (64 * (t + 1000000000 * s.obj 0x3003 4)) ∧ u.supply.target = 0 ∧ u.supply.nextTarget = none ∧
        u.supply.targetAt = none) ∧
      (∀ t, s.supply.connected = true → s.supply.overSince = some t → ∃ u, exec .overvoltageDisconnect s = .next u ∧
        Logged s u [0x3006] ∧ u.hall = (if 80000 < s.supply.mv then s.hall else max s.hall (64 * (t + 1000001))) ∧
        u.supply.connected = false ∧ u.supply.dip = true ∧ u.supply.belowSince = some u.now ∧
        u.supply.lowBank = decide (s.supply.bank < 2800)) ∧
      (∀ t, s.supply.connected = false → s.supply.okSince = some t → ∃ u, exec .overvoltageReconnect s = .next u ∧
        u.hall = max s.hall (64 * (t + 100000)) ∧ u.supply = { s.supply with connected := true }) ∧
      ((s.supply.dip = true ∧ s.supply.bank = 0) ∨ s.supply.critical = true → ∃ u, exec .powerFail s = .next u ∧
        u.down = true ∧ u.mem = [] ∧ u.stores = [] ∧ u.ctxs = [] ∧ u.job.loaded = false ∧ u.faults.ring = [] ∧
        u.pending = s.pending ∧ u.dict.camps = s.dict.camps ∧ u.boot.floors = s.boot.floors ∧ u.boot.good = false) ∧
      (∀ dies hbms lid, ∃ u : State, u.supply.dieTemps = dies.take 6 ∧ u.supply.stackTemps = hbms.take 32 ∧
        u.supply.lidTemp = lid ∧
        exec (.thermalSample dies hbms lid) s = .next (if u.supply.critical then u.powerFail else u)) ∧
      (∀ t, s.supply.warned ≠ [] → s.supply.coolSince = some t → ∃ u, exec .thermalWarnClear s = .next u ∧
        Logged s u [0x3012] ∧ u.hall = max s.hall (64 * (t + 1000000000)) ∧ u.supply = { s.supply with warned := [] }) ∧
      (s.supply.refLost = false → ∃ u : State, Logged s u [0x3008] ∧ u.supply = { s.supply with refLost := true } ∧
        exec .refInLost s = .next u.timeLoss) ∧
      (s.supply.refLost = true → s.job.loaded = false → ∃ u, exec .refInRestore s = .next u ∧ Logged s u [0x3009] ∧
        u.supply = { s.supply with refLost := false })) ∧
    (s.down = true → (∀ mv, 46000 ≤ mv → exec (.powerOn mv) s = .next (s.setSupply fun p => { p with mv := mv / 10 * 10 })) ∧
      (∀ straps : BitVec 4, 46000 ≤ s.supply.mv → ∃ u, exec (.powerGood straps) s = .next u ∧ u.down = false ∧ u.hall = 0 ∧
        u.time = State.reset.time ∧ u.obj 0x1000 9 = straps.toNat ∧ u.supply = { Supply.reset with mv := s.supply.mv } ∧
        u.mem = [] ∧ u.dict.camps = s.dict.camps ∧ u.boot.floors = s.boot.floors))

/-- A request of the Dictionary Exchange Protocol (R394-R402). A message in an open session whose
SEQ is new, in the form of R399, is executed at once by the command that it is, answered in its
session unless its answer waits for flash, and its SEQ becomes the session's highest; CLOSE then
ends the session. A SEQ whose answer is kept has it sent again, one more than 64 below the highest
is dropped, and nothing is executed twice; a request to an object whose PERSIST write is pending
waits; one in another form than R399's, or in no session, is answered with an abort. A multicast
request with a higher SEQ than the last is executed and answered under the group key. Before boot
stage 1 has ended a message is discarded. What each request does is said by DictionaryRequests and
DictionaryTriggers. -/
def Obligations.DictionaryRequestIsExecuted : Prop :=
  ∀ (s : State) (m : DxpMsg) (row : DxpRow) (c : Instr), s.down = false →
    (row, c) ∈ [(DxpRow.read, Instr.dxpRead m), (.hallTime, .hallTimeRead m), (.write, .dxpWrite m),
      (.readBlob, .readBlob m), (.writeBlob, .writeBlob m), (.describe, .describe m), (.list, .dxpList m),
      (.subscribe, .subscribe m), (.groupKey, .groupKey m), (.close, .dxpClose m), (.bankCheck, .bankCheck m),
      (.bankArm, .switchBankArm m), (.bankDisarm, .switchBankDisarm m), (.holdRequest, .holdRequest m),
      (.restore, .restore m), (.freshStart, .freshStart m), (.belay, .belayRequest m), (.lsInit, .lsInitWrite m),
      (.regroup, .regroupRequest m), (.drawTarget, .drawTargetWrite m), (.campImage, .campImageWrite m),
      (.slotArm, .switchSlotArm m), (.slotDisarm, .switchSlotDisarm m), (.nonce, .attestNonce m),
      (.staging, .fwStagingWrite m), (.installFirst, .fwInstallFirstStage m), (.installBundle, .fwInstallBundle m),
      (.warmReset, .warmResetRequest m), (.coldReset, .coldResetRequest m), (.svnCommit, .svnCommit m),
      (.operatorKey, .operatorKeyWrite m)] →
    let w := m.header.toNat
    s.dxpRow m = row → hKind w = 3 → ¬ (m.transport = 0 ∧ s.host.mboxStatus = 1) →
    let u := (s.popVc0 m).on (m.transport == 0) (·.setHost fun p => { p with mboxStatus := 1 })
    let ends := fun t : State => t.mboxSettle.streamAll
    let multicast := m.transport = 1 ∧ hSession w = 0xFFFF ∧ hMulticast w = true
    (s.boot.stage < 2 → exec c s = .next (s.popVc0 m)) ∧
    (∀ v data, s.dictUp = true → u.clearData m = some data → ¬ multicast → u.sessionOf m = some v →
      let touched := fun (t : State) (f : Session → Session) => t.setDict fun d => { d with
        sessions := d.sessions.map fun x => if x.number = v.number then f x else x }
      let y := touched u fun x => { x with last := u.now }
      (dxpFormat m.transport w data.length = false → ∃ h, hAbort h.toNat = 8 ∧
        exec c s = .next (ends ((u.count 0x1002 0xA).sendSession v h []))) ∧
      (dxpFormat m.transport w data.length = true →
        (∀ r, v.kept.find? (·.1 == hSeq w) = some r →
          exec c s = .next (ends ((y.count 0x1002 0xC).sendSession v r.2.header r.2.data))) ∧
        (v.kept.find? (·.1 == hSeq w) = none → (∃ n, v.high = some n ∧ hSeq w + 64 < n) → exec c s = .next (ends y)) ∧
        (v.kept.find? (·.1 == hSeq w) = none → (∀ n, v.high = some n → n ≤ hSeq w + 64) →
          (u.mustWait w = true → exec c s = .next (ends (y.setDict fun d => { d with waiting := d.waiting ++ [m] }))) ∧
          (u.mustWait w = false →
            let x := touched y fun x => { x with high := some (max (hSeq w) (x.high.getD 0)) }
            (∀ t, x.request ⟨v.number, m.transport, m.source, v.write, w, data⟩ = (.later, t) →
              exec c s = .next (ends t)) ∧
            ∀ abort type out t, x.request ⟨v.number, m.transport, m.source, v.write, w, data⟩ = (.done abort type out, t) →
              (hOp w = 9 → abort = 0 →
                exec c s = .next (ends ((t.sessionAnswer v w abort type out).closeSession v.number))) ∧
              (hOp w ≠ 9 ∨ abort ≠ 0 → exec c s = .next (ends (t.sessionAnswer v w abort type out))))))) ∧
    (∀ data, s.dictUp = true → u.clearData m = some data → ¬ multicast → u.sessionOf m = none →
      exec c s = .next (ends (u.plainAnswer m 4 (if dxpFormat m.transport w data.length then 0xC else 8)))) ∧
    (∀ data g, s.dictUp = true → u.clearData m = some data → multicast → u.dict.groupKey = some g →
      ((∃ n, u.dict.groupSeq = some n ∧ hSeq w ≤ n) → exec c s = .next (ends u)) ∧
      ((∀ n, u.dict.groupSeq = some n → n < hSeq w) → u.mustWait w = false → dxpFormat 1 w data.length = true →
        ∀ abort type out t, (u.setDict fun d => { d with groupSeq := some (hSeq w) }).request
            ⟨0xFFFF, m.transport, m.source, true, w, data⟩ = (.done abort type out, t) →
          let h := t.answerHead w 4 abort 0xFFFF type out.length
          exec c s = .next (ends ((t.countAbort abort).emit
            (.dxp 1 m.source h (dxpSeal (g.1 ++ g.2) 1 h out))))))

/-- What each operation on the dictionary does (R393, R394, R400-R402, R405, R441): a request to
change anything needs write access; READ gives the object's value, and of HALL_TIME latches the
fraction; a WRITE is held against the checks of R394 in their order, and one that passes them
takes effect at once, or waits for flash with PERSIST; READ_BLOB and WRITE_BLOB move a piece;
DESCRIBE and LIST tell what there is; SUBSCRIBE opens, changes or ends a stream; GROUP_KEY sets
the group's key and forgets the highest SEQ; CLOSE is answered. An answer that is too long, and
the checks of SUBSCRIBE and GROUP_KEY, are the model's reading: log entries 41 and 64. -/
def Obligations.DictionaryRequests : Prop :=
  ∀ (s : State) (q : DxpReq), let op := hOp q.w
    (op = 2 ∨ op = 4 ∨ op = 8 → q.writer = false → s.request q = (.abort 7, s)) ∧
    (s.defined q.idx q.sub = none → q.writer = true → 1 ≤ op → op ≤ 3 ∨ op = 5 → s.request q = (.abort 1, s)) ∧
    (∀ r, s.defined q.idx q.sub = some r →
      (op = 1 → (r.acc = .wo → s.request q = (.abort 2, s)) ∧
        (r.acc ≠ .wo → r.ty = .blob → s.request q = (.abort 4, s)) ∧
        (r.acc ≠ .wo → r.ty ≠ .blob → (s.valueOf r q.idx q.sub).length ≤ dxpLimit q.transport → ∃ t, 
          s.request q = (.done 0 r.ty.code (s.valueOf r q.idx q.sub), t) ∧
          (q.key = okey 0x2000 1 → t = s.setTime fun x => { x with fracLatch := s.hall % 64 }) ∧
          (q.key = okey 0x3000 5 → t = s.setSupply fun x => { x with peak := 0 }) ∧
          (q.key ≠ okey 0x2000 1 → q.key ≠ okey 0x3000 5 → t = s)) ∧
        (r.acc ≠ .wo → r.ty ≠ .blob → dxpLimit q.transport < (s.valueOf r q.idx q.sub).length →
          (s.request q).1 = .abort 8)) ∧
      (op = 2 → q.writer = true → let v := leNat q.data
        let barred := r.acc = .const ∨ r.acc = .ro ∨ (r.acc = .rwd ∧ s.kind ≠ 5) ∨ (hPersist q.w = true ∧ r.stored = false)
        let shaped := r.ty ≠ .blob ∧ hType q.w = r.ty.code ∧ q.data.length = r.size
        let ranged := (if r.ty = .recd then recInRange q.key q.data else inRange r q.key v && boundsKept s.inForce q.key v) = true
        let rule := s.chapterRule r q.key v q.data
        (barred → s.request q = (.abort 2, s)) ∧
        (¬ barred → ¬ shaped → s.request q = (.abort 4, s)) ∧
        (¬ barred → shaped → ¬ ranged → s.request q = (.abort 3, s)) ∧
        (¬ barred → shaped → ranged → rule ≠ 0 → s.request q = (.abort rule, s)) ∧
        (¬ barred → shaped → ranged → rule = 0 →
          (∀ c, r.ty ≠ .recd → s.writeConflict q.key v = some c → s.request q = (.abort 6, s.logConflict c)) ∧
          (r.ty = .recd ∨ s.writeConflict q.key v = none → s.trigger q v = none →
            (hPersist q.w = false → s.request q = (.ok, s.take r q.key v q.data)) ∧
            (hPersist q.w = true → ∃ t, s.request q = (.later, t) ∧ t.dict.persist = s.dict.persist ++
              [⟨q.session, q.transport, q.source, BitVec.ofNat 256 q.w, q.key, v, q.data⟩] ∧ t.dict.objs = s.dict.objs)))) ∧
      (op = 3 → r.acc ≠ .wo → r.ty = .blob → hOffset q.w + hLength q.w ≤ r.size → s.request q =
        (.done 0 ObjType.blob.code (s.blobPiece q.session q.idx q.sub (hOffset q.w) (hLength q.w)), s)) ∧
      (op = 3 → r.acc = .wo → s.request q = (.abort 2, s)) ∧ (op = 3 → r.acc ≠ .wo → r.ty ≠ .blob → s.request q = (.abort 4, s)) ∧
      (op = 3 → r.acc ≠ .wo → r.ty = .blob → r.size < hOffset q.w + hLength q.w → s.request q = (.abort 0xB, s)) ∧
      (op = 4 → q.writer = true → s.blobRule q ≠ 0 → s.request q = (.abort (s.blobRule q), s)) ∧
      (op = 4 → q.writer = true → s.blobRule q = 0 → q.idx ≠ 0xB010 → q.idx ≠ 0xA001 →
        s.request q = (.ok, s.writeTable q)) ∧
      (op = 5 → s.request q = (.done 0 0 (describeRow r q.key), s))) ∧
    (op = 6 → (listAfter s.kind q.key (hLength q.w / 4)).length ≤ dxpLimit q.transport →
      s.request q = (.done 0 0 (listAfter s.kind q.key (hLength q.w / 4)), s)) ∧
    (op = 7 → q.transport = 0 ∨ q.transport = 1 → q.data.length = 16 → leAt q.data 1 1 ≤ 1 → allZero (q.data.drop 8) = true →
      leAt q.data 0 1 ≤ 3 → leAt q.data 2 2 ≠ 0 → ∀ n < 4, Tbl.get none s.faults.streams n = none →
      (∀ k < 4, ∀ m, Tbl.get none s.faults.streams k = some m → m.session ≠ q.session) →
      (∀ k < n, Tbl.get none s.faults.streams k ≠ none) → ∃ m t, s.request q = (.ok, t) ∧
        Tbl.get none t.faults.streams n = some m ∧ m.session = q.session ∧ m.minSeverity = leAt q.data 0 1 ∧
        m.mask = leAt q.data 2 2 ∧ (leAt q.data 1 1 = 0 → m.next = s.obj 0x9004 2)) ∧
    (op = 7 → q.transport = 0 ∨ q.transport = 1 → q.data.length = 16 → leAt q.data 1 1 ≤ 1 → allZero (q.data.drop 8) = true →
      leAt q.data 0 1 ≤ 3 → ∀ n < 4, ∀ m, Tbl.get none s.faults.streams n = some m → m.session = q.session →
      (∀ k < n, ∀ m, Tbl.get none s.faults.streams k = some m → m.session ≠ q.session) → ∃ t, s.request q = (.ok, t) ∧
        (leAt q.data 2 2 = 0 → Tbl.get none t.faults.streams n = none) ∧
        (leAt q.data 2 2 ≠ 0 → (Tbl.get none t.faults.streams n).map (fun m => (m.session, m.minSeverity, m.mask)) =
          some (q.session, leAt q.data 0 1, leAt q.data 2 2))) ∧
    (op = 7 → q.transport = 2 ∨ q.transport = 3 → s.request q = (.abort 9, s)) ∧
    (op = 8 → q.writer = true → q.transport = 1 → q.data.length = 36 → ∃ t, s.request q = (.ok, t) ∧
      t.dict.groupKey = some (q.data.take 32, q.data.drop 32) ∧ t.dict.groupSeq = none ∧ t.dict.objs = s.dict.objs) ∧
    (op = 9 → s.request q = (.ok, s))

/-- What a WRITE of an object that acts does (R63, R65, R83, R277, R294, R296, R309, R347, R379,
R409, R464, R466, R467, R497): a bank is checked, a switch into it is armed or disarmed; a hold is
originated; a restore or a fresh start begins; a belay, a regroup, a reset is asked for; LS_INIT
sets the loss scale; a draw target takes effect at its tick; a camp switch is armed or disarmed; a
nonce is attested; an install begins or fails; the SVN floors rise; an operator key takes effect;
a piece of a camp image or of a staged image is taken. FW_STATUS codes and the owner of a staging
piece are the model's choice: log entries 40 and 68. -/
def Obligations.DictionaryTriggers : Prop :=
  ∀ (s : State) (q : DxpReq) (v : Nat),
    (q.key = okey 0x2010 0xB → s.trigger q v = some (0, (s.checkBank v).1)) ∧
    (∀ b : Fin 2, q.key = okey 0x2010 9 → v = b.val → let tick := s.obj 0x2010 8
      s.tt.switch = none → s.tt.active ≠ some b → s.bankArmed b = true → tick % 60 = 0 →
      (∀ a, s.tt.active = some a → s.tt.origin ≤ tick ∧ (tick - s.tt.origin) % s.bankPeriod a = 0) →
      s.sched + 1000 * s.obj 0xB000 6 ≤ tick → s.comparatorFree = true → ∃ t, s.trigger q v = some (0, t) ∧
        t.tt.switch = some b ∧ t.obj 0x2010 9 = b.val ∧ Logged s t [0x2012]) ∧
    (q.key = okey 0x2010 9 → 2 ≤ v → ∃ t, s.trigger q v = some (0, t) ∧ t.tt.switch = none ∧
      (s.tt.switch.isSome = true → t.obj 0x2010 9 = 0xFF)) ∧
    (q.key = okey 0x2013 7 → s.trigger q v = some (0, (s.originateHoldAt 1 v).2) ∧
      (s.originateHoldAt 1 v).2.hold.ownSeq = (s.hold.ownSeq + 1) % 2 ^ 16) ∧
    (q.key = okey 0x8004 3 → ∃ t, s.trigger q v = some (0, t) ∧ ∃ r, t.train.restoring = some r ∧ r.fresh = (v == 2)) ∧
    (q.key = okey 0x8004 2 → s.trigger q v = some (0, s.setTrain fun t => { t with belayAsked := true })) ∧
    (q.key = okey 0x7005 0x10 → s.trigger q v = some (0, s.setRope fun r => { r with trigger := true })) ∧
    (q.key = okey 0xA000 2 → s.trigger q v = some (0, s.setBoot fun b => { b with asked := v })) ∧
    (q.key = okey 0x3003 3 → ∃ t, s.trigger q v = some (0, t) ∧ t.recOf 0x3003 3 = q.data ∧ t.supply.targetAt = some s.now ∧
      (leAt q.data 2 8 ≤ s.now → s.supply.brace = false → t.supply.target = leAt q.data 0 2 ∧ Logged s t [0x300C]) ∧
      (s.now < leAt q.data 2 8 ∨ s.supply.brace = true → t.supply.target = s.supply.target ∧
        t.supply.nextTarget = some (leAt q.data 0 2, leAt q.data 2 8))) ∧
    (q.key = okey 0xB000 3 → v = 0xFF → ∃ t, s.trigger q v = some (0, t) ∧ t.campArmed = false ∧
      (s.campArmed = true → Logged s t [0xB003])) ∧
    (q.key = okey 0xB000 3 → v ≠ 0xFF → let tick := s.obj 0xB000 4
      let vs := overlaid (s.switchValues v) s.inForce
      let lead := 1000 * s.obj 0xB000 6
      s.campArmed = false → s.timeOk = true → tick % 20 = 0 →
      s.now + (if s.kind = 6 then max lead 2500000 else lead) ≤ tick → s.slotValid v = true →
      (s.obj 0x9003 1 = 1 → s.slotKind v = 5 ∨ s.slotKind v = 6) → s.conflict vs (s.slotKind v) = none →
      crossRules vs (leAt (s.recOf 0x8002 6) 0 4) = true →
      (s.job.loaded = false ∨ s.switchForbids v = none) → s.comparatorFree = true →
      (s.slotKind v = 6 → s.tt.active = none ∧ s.memctl.migrating = []) →
      ∃ t, s.trigger q v = some (0, t) ∧ t.obj 0xB000 3 = v ∧ t.recOf 0xB000 5 = [] ∧ Logged s t [0xB001]) ∧
    (q.key = okey 0xA002 4 → ∃ t, s.trigger q v = some (0, t) ∧ Logged s t [0xA007] ∧
      Tbl.get [] t.boot.reports q.session = s.report q.data) ∧
    (q.key = okey 0xA001 2 → let image := s.staged (v == 2)
      (∀ k rule, s.slotFault (v == 2) image = some (k, rule) → ∃ t, s.trigger q v = some (0, t) ∧ Logged s t [0xA001] ∧
        t.boot.fwState = (3, k, rule) ∧ t.boot.install = s.boot.install) ∧
      (s.slotFault (v == 2) image = none → ∃ t, s.trigger q v = some (0, t) ∧
        t.boot.install = some (if v = 2 then 2 else 1, image) ∧ t.boot.images = s.boot.images)) ∧
    (q.key = okey 0xA001 4 → ∃ t, s.trigger q v = some (0, t) ∧ Logged s t [0xA005] ∧
      Tbl.get 0 t.boot.floors 1 = max (Tbl.get 0 s.boot.floors 1) (leAt s.boot.firstHeader 4 4) ∧
      ∀ k < 3, Tbl.get 0 t.boot.floors (k + 2) = max (Tbl.get 0 s.boot.floors (k + 2)) (leAt (s.boot.bundleHeaders.getD k []) 4 4)) ∧
    (∀ r : ObjRow, r.ty ≠ .recd →
      (s.take r (okey 0x8012 2) v q.data).obj 0x8012 2 = v ∧ (s.take r (okey 0x8012 2) v q.data).obj 0x8012 6 = v ∧
      (s.take r (okey 0x8012 2) v q.data).obj 0x8012 7 = 0) ∧
    (∀ (r : ObjRow) (n : Nat), r.ty = .recd → 1 ≤ n → n < 256 → (s.take r (okey 0xA003 n) v q.data).recOf 0xA003 n = q.data ∧
      (s.recOf 0xA003 n ≠ q.data → Logged s (s.take r (okey 0xA003 n) v q.data) [0xA006])) ∧
    (∀ slot off, (∀ c, s.dict.staging.find? (·.slot == slot) = some c → c.session = q.session ∧ (off ≠ 0 → off = c.bytes.length)) →
      (s.dict.staging.find? (·.slot == slot) = none → off = 0) →
      let old := match s.dict.staging.find? (·.slot == slot) with | some c => if off = 0 then [] else c.bytes | none => []
      let bytes := old ++ q.data
      (bytes.length < 64 ∨ campCount (campHeader bytes) ≤ 512 ∧ bytes.length < 64 + 16 * campCount (campHeader bytes)) →
      ∃ t, s.campPiece q.session slot off q.data = (0, t) ∧ t.dict.staging =
        s.dict.staging.filter (·.slot != slot) ++ [⟨slot, q.session, bytes⟩]) ∧
    (∀ slot off, (∀ c, s.dict.staging.find? (·.slot == slot) = some c → c.session = q.session ∧ (off ≠ 0 → off = c.bytes.length)) →
      (s.dict.staging.find? (·.slot == slot) = none → off = 0) →
      let old := match s.dict.staging.find? (·.slot == slot) with | some c => if off = 0 then [] else c.bytes | none => []
      let bytes := old ++ q.data
      64 ≤ bytes.length → campCount (campHeader bytes) ≤ 512 → bytes.length = 64 + 16 * campCount (campHeader bytes) →
      let u := s.setDict fun d => { d with staging := d.staging.filter (·.slot != slot) }
      (∀ a rule, u.campCheck bytes = some (a, rule) → ∃ t, s.campPiece q.session slot off q.data = (a, t) ∧
        Logged s t [0xB004] ∧ t.dict.camps = s.dict.camps) ∧
      (u.campCheck bytes = none → ∃ t, s.campPiece q.session slot off q.data = (0, t) ∧
        t.dict.camps = Tbl.set [] s.dict.camps slot bytes ∧ t.dict.staging = u.dict.staging)) ∧
    (∀ off, s.boot.install = none → (∀ n, s.boot.owner = some n → n = q.session) →
      ∃ t, s.stagePiece q.session off q.data = (0, t) ∧ t.boot.staging = Memory.write s.boot.staging off q.data ∧
        t.boot.stagingEnd = max s.boot.stagingEnd (off + q.data.length))

/-- Messages of the dictionary beside requests (R113, R396-R398, R401, R405, R441, R447): a HELLO
opens a session in the place of one that its source has, and one on the management port comes in
pieces and is answered with keys, with write access for a listed operator; the doorbell submits the request buffer
while the mailbox is idle; a frame between rope leaders carries a message; a ROPE_FRAME packet
goes to the rope engine of its site or out by a rope port; a write of flash that ends is answered,
its value taken, and requests that waited are executed; an idle session closes; a stream sends its
records, and one that has fallen a whole ring behind logs event 0x9012 and goes on with the oldest. -/
def Obligations.DictionaryMessages : Prop :=
  ∀ (s : State), s.down = false →
    (∀ m : DxpMsg, let w := m.header.toNat; let u := (s.popVc0 m).on (m.transport == 0) (·.setHost fun p => { p with mboxStatus := 1 })
      let access := if m.transport = 3 then 0 else leAt m.data 2 1
      s.dictUp = true → hKind w = 1 → m.transport ≠ 1 → ¬ (m.transport = 0 ∧ s.host.mboxStatus = 1) →
      dxpFormat m.transport w m.data.length = true → m.data.length = 16 → helloOk m.data = true → leAt m.data 0 1 ≤ 2 →
      2 ≤ leAt m.data 1 1 → ∀ z v, u.openDxp m (access == 1) [] = (z, some v) →
      exec (.dxpHello m) s = .next (((z.logOpened m.transport access).sendDxp m.transport m.source
        (z.answerHead w 2 0 v.number 0 16) (ackStart access v.number)).mboxSettle.streamAll)) ∧
    (∀ (m : DxpMsg), let w := m.header.toNat
      s.dictUp = true → hKind w = 1 → m.transport = 1 → dxpFormat 1 w m.data.length = true →
      let rest := s.dict.hellos.filter (·.1 != m.source)
      ∀ first old, (if hOffset w = 0 then some (m.header, []) else (s.dict.hellos.find? (·.1 == m.source)).map (·.2)) =
          some (first, old) → hOffset w = old.length → (old ++ m.data).length ≤ 6461 →
        (hMore w = true → exec (.dxpHello m) s = .next ((s.setDict fun d =>
          { d with hellos := rest ++ [(m.source, first, old ++ m.data)] }).mboxSettle.streamAll)) ∧
        (hMore w = false → exec (.dxpHello m) s = .next (((s.setDict fun d => { d with hellos := rest }).keyedHello m first
          (old ++ m.data)).mboxSettle.streamAll))) ∧
    (∀ (m : DxpMsg) first b, let asked := leAt b 2 1
      let granted := asked == 1 && s.operatorOk first b
      let denied := asked == 1 && !granted
      b.length = (if asked = 1 then 6461 else 1200) → helloOk b = true → leAt b 0 1 ≤ 2 → 2 ≤ leAt b 1 1 → ∀ z v,
        s.openDxp m granted (if granted then Config.sha3 (piece b 1200 1952) else []) = (z, some v) →
        ∃ (t : State) (ack : List Byte) (rnd : Nat), let enc := Config.mlkemEncaps (piece b 16 1184) rnd
          let key := fun dir : Byte => (Config.sha3 (enc.2 ++ Config.sha3 (b ++ ack) ++ [dir])).take 36
          s.keyedHello m first b = t.sendPieces m (if denied then 7 else 0) v.number ack ∧
          Logged z t (if denied then [0x1001, 0x1003] else [0x1001]) ∧
          ack.take 16 = ackStart (bit01 granted) v.number ∧
          ∀ x ∈ t.dict.sessions, x.number = v.number → x.keyIn = key 0 ∧ x.keyOut = key 1) ∧
    (∀ (m : DxpMsg) wr op, let old := (s.dict.sessions.filter fun v => v.transport == m.transport && v.source == m.source).map (·.number)
      let u := s.each old State.closeSession
      (64 ≤ u.dict.sessions.length → s.openDxp m wr op = (u, none)) ∧
      (u.dict.sessions.length < 64 → ∃ t v, s.openDxp m wr op = (t, some v) ∧ t.dict.sessions = u.dict.sessions ++ [v] ∧
        v.transport = m.transport ∧ v.source = m.source ∧ v.write = wr ∧ v.last = u.now ∧ v.high = none ∧ v.kept = [])) ∧
    (∀ msg (v : BitVec 32), let u := s.setHost fun p => { p with mboxRequest := msg.take 4096 }
      let w := leAt msg 0 32
      (v = 1 → s.host.mboxStatus ≠ 1 → 32 ≤ msg.length → exec (.mboxDoorbell msg v) s = .next (u.arrive
        ⟨0, 0, BitVec.ofNat 256 w, fit (if carriesNone w then 0 else min 4064 (hLength w)) (msg.drop 32)⟩)) ∧
      (v ≠ 1 ∨ s.host.mboxStatus = 1 → exec (.mboxDoorbell msg v) s = .next u)) ∧
    (∀ (f : RopeFrame) x body, let w := f.header.toNat
      ¬ (rfDstSite w = s.ownSite ∧ rfDstModule w ≠ s.moduleNumber ∧ (List.range 64).any (s.role · == 2) = true) →
      s.openFrame f = (s, some (x, body)) → (s.ropeSess x).state = .opened → rfKind w = 0xA →
      (s.ropeSess x).fresh (rfSeq w) = some true → x % 32 = 0 → 32 ≤ body.length → exec (.dxpFrame f) s =
        .next ((s.arrive ⟨3, 65536 * (x / 32) + s.peerModule (x / 32), BitVec.ofNat 256 (leAt body 0 32), body.drop 32⟩).noteFrame
          x w true)) ∧
    (∀ p : Packet, let f : RopeFrame := ⟨BitVec.ofNat 512 (leAt p.data 0 64), p.data.drop 64⟩; let w := f.header.toNat
      p.op = 5 → p.dst = s.moduleNumber → 64 ≤ p.data.length →
      (rfDstSite w = s.ownSite → exec (.ropeFrame p) s = .next (s.atGateway f (·.receiveRope f))) ∧
      (rfDstSite w ≠ s.ownSite → exec (.ropeFrame p) s = .next (s.portSend (rfStripe w) f.header f.body))) ∧
    (∀ ok j rest, s.dict.persist = j :: rest → let u := s.persistEnds j ok
      exec (.persistWriteComplete ok) s = .next (((u.setDict fun d => { d with waiting := [] }).each u.dict.waiting
        State.handle).mboxSettle.streamAll)) ∧
    (∀ j r, objRow j.key = some r → let u := s.setDict fun d => { d with persist := d.persist.drop 1 }
      (s.persistEnds j false = (u.log 0x1005 (domMp 0)).persistAnswer j 0xA) ∧
      ∃ t : State, Logged s t [0x1004] ∧
        (r.ty ≠ .recd → t.dict.base = Tbl.set none s.dict.base j.key
          (if j.value = objDefault j.key then none else some j.value)) ∧
        (r.ty = .recd → t.dict.baseRecs = Tbl.set [] s.dict.baseRecs j.key j.bytes) ∧ t.dict.persist = s.dict.persist.drop 1 ∧
        s.persistEnds j true = (t.take r j.key j.value j.bytes).persistAnswer j 0) ∧
    (∀ (n : BitVec 16) v, s.dict.sessions.find? (·.number == n.toNat) = some v → ∃ t, exec (.sessionIdleExpire n) s = .next t ∧
      t.hall = max s.hall (64 * (v.last + 1000000000 * s.obj 0x1002 8)) ∧
      t.dict.sessions = s.dict.sessions.filter (·.number != n.toNat)) ∧
    (∀ (n : Fin 4) m v, Tbl.get none s.faults.streams n.val = some m → s.dict.sessions.find? (·.number == m.session) = some v →
      let gap := m.gap (s.obj 0x9004 2) s.faults.ring.length
      let g := if gap then (s.count 0x9004 5).log 0x9012 else s
      let next := if gap then seqBefore (s.obj 0x9004 2) s.faults.ring.length else m.next
      let wanted := ((g.recordsFrom next).filter m.takes).take (streamRoom v.transport)
      let data := wanted.flatMap fun r => leBytes 32 r.toNat
      ∃ u : State, u.faults.ring = g.faults.ring ∧ u.dict.sessions = s.dict.sessions ∧
        (wanted = [] → exec (.cairnStreamSend n) s = .next u) ∧
        (wanted ≠ [] → exec (.cairnStreamSend n) s = .next (u.sendSession v
          (dxpHead 4 7 0 v.number m.request 0 0 0 data.length u.moduleNumber) data)))

/-- Boot (R444, R457-R462, R466): the ROM verifies the active first-stage slot, measures and runs
it, boots the other slot when it fails, and fails the boot when both do; the first stage trains
its stacks, runs a bundle and loads the values; the stages end in order, each with event 0xA003;
the module is READY after the last, unless it is out of service; a first stage that does not end
in time gives way to the other slot; a bundle on trial that does not become READY is not used
again; and a module whose base camp copies or identity key fail does not become ready (the outcome of
those checks is open: log entry 65). That the other slot extends the same M0 is the model's reading: log entry 70. -/
def Obligations.BootStages : Prop :=
  ∀ (s : State), s.down = false →
    (∀ u : State, ∀ a b, (u.stageEnds a b).boot.stage = a + 1 ∧ (u.stageEnds a b).obj 0xA000 1 = b ∧
      Logged u (u.stageEnds a b) [0xA003]) ∧
    (∀ u : State, u.becomeReady.obj 0x1000 8 = 1 ∧ u.becomeReady.boot.trialBundle = (u.boot.trialBundle && !u.trialRuns) ∧
      u.becomeReady.boot.activeBundle = if u.trialRuns then u.boot.runBundle else u.boot.activeBundle) ∧
    (s.boot.good = true → s.boot.failed = false → s.boot.stage = 0 → s.boot.measures.length = 8 → let slot := s.boot.activeFirst
      let measured := fun n : Nat => Config.sha3 (s.boot.measures.getD 0 [] ++ Config.sha3 (headerOf (s.flashImage n)))
      (s.slotFault false (s.flashImage slot) = none → ∃ t, exec .romBootStage s = .next t ∧ t.boot.stage = 1 ∧
        t.boot.runFirst = slot ∧ t.boot.firstHeader = headerOf (s.flashImage slot) ∧ t.boot.count = (s.boot.count + 1) % 2 ^ 32 ∧
        t.boot.measures.getD 0 [] = measured slot ∧ Logged s t [0xA003]) ∧
      (s.slotFault false (s.flashImage slot) ≠ none → s.slotFault false (s.flashImage (1 - slot)) = none →
        ∃ t, exec .romBootStage s = .next t ∧ t.boot.stage = 1 ∧ t.boot.runFirst = 1 - slot ∧
          t.boot.measures.getD 0 [] = measured (1 - slot) ∧ Logged s t [0xA003, 0xA002, 0xA001]) ∧
      (s.slotFault false (s.flashImage slot) ≠ none → s.slotFault false (s.flashImage (1 - slot)) ≠ none →
        ∃ t, exec .romBootStage s = .next t ∧ t.boot.stage = 0 ∧ t.boot.failed = true ∧
          Logged s t [0xA001, 0xA002, 0xA001])) ∧
    (∀ failed : List PseudoChan, s.boot.failed = false → s.boot.stage = 1 →
      let u := s.each (List.range 8) fun s n => s.trainStack n (failed.map (·.val))
      u.boot = { s.boot with alert := u.boot.alert } ∧
      let late := s.boot.trialBundle && !s.boot.otherBundle
      let z := if late then (u.log 0xA002 (domMp 0)).setBoot fun b => { b with trialBundle := false } else u
      let v := z.loadBundle (if s.boot.otherBundle then 1 - s.boot.activeBundle else s.boot.activeBundle)
      let ok := Config.baseCampOk v.boot.count && Config.identityOk
      (v.boot.failed = true → exec (.firstBootStage failed) s = .next v) ∧
      (v.boot.failed = false → ok = true → exec (.firstBootStage failed) s = .next (v.loadShadow.stageEnds 1 1)) ∧
      (v.boot.failed = false → ok = false → ∃ t, exec (.firstBootStage failed) s = .next t ∧ t.boot.failed = true ∧
        t.boot.stage = 1 ∧ t.obj 0x1000 8 = v.obj 0x1000 8)) ∧
    (∀ slot, s.boot.measures.length = 8 → s.slotFault true (s.flashImage (2 + slot)) = none →
      let hs := (splitImages 3 (s.flashImage (2 + slot))).map headerOf
      (s.loadBundle slot).boot.runBundle = slot ∧ (s.loadBundle slot).boot.bundleHeaders = hs ∧
      (s.loadBundle slot).boot.measures.getD 1 [] = Config.sha3 (List.replicate 48 0 ++ Config.sha3 (hs.getD 0 [])) ∧
      (s.loadBundle slot).boot.measures.getD 2 [] = Config.sha3 (Config.sha3 (List.replicate 48 0 ++
        Config.sha3 (hs.getD 1 [])) ++ Config.sha3 (hs.getD 2 []))) ∧
    (s.boot.failed = false → s.boot.stage = 2 → exec .linksAndTimeStage s = .next (s.stageEnds 2 2)) ∧
    (∀ failed : List PseudoChan, s.boot.failed = false → s.boot.stage = 3 →
      let u := (s.each ((List.range 24).map (8 + ·)) fun s n => s.trainStack n (failed.map (·.val))).applyRetirements
      let v := (u.clearMeasure 5).measure 5 6 (Config.retirementImage u.memctl.retired)
      let z := if v.retiredTooMany then v.outOfService 0x5007 else v
      (z.obj 0x9003 1 = 1 → exec (.memoryBootStage failed) s = .next (z.stageEnds 3 3)) ∧
      (z.obj 0x9003 1 ≠ 1 → exec (.memoryBootStage failed) s = .next (z.becomeReady.stageEnds 3 4))) ∧
    (s.boot.failed = false → s.boot.stage = 1 →
      (s.boot.triedFirst = true → ∃ t, exec .firstStageTimeout s = .next t ∧ t.boot.failed = true) ∧
      (s.boot.triedFirst = false → ∃ u : State, u.boot = { s.boot with triedFirst := true } ∧
        exec .firstStageTimeout s = .next (u.otherFirstStage (1 - s.boot.runFirst)))) ∧
    (s.trialRuns = true → 2 ≤ s.boot.stage → s.boot.stage ≤ 3 → ∃ t, exec .trialBundleTimeout s = .next t ∧
      t.boot = { s.boot with otherBundle := false }) ∧
    (∃ t, exec .perstDeassert s = .next t ∧ t.host = { s.host with linkUp := true })

/-- Module resets, installation and camp switches (R373, R405, R410, R418, R466): what a module
warm reset clears and keeps, after the sweep in progress and the BREAKs of every context that a unit
owns, raising SMB_ALERT_N when the module was ready, and what a cold reset keeps; an installed image takes the inactive slot, and a bundle is on trial; an armed camp switch
takes effect at its edge, with values, slot and kind, and leaving module bivouac clears the cores.
Which values a warm reset keeps beyond those that R418 names is the model's reading: log entry 72.
-/
def Obligations.ModuleResetsAndCamps : Prop :=
  ∀ (s : State), s.down = false →
    (s.boot.good = true → s.boot.failed = false → 1 ≤ s.boot.stage →
      let b := (s.releaseHolds 0xA000).flushBreaks
      let v := if b.training then b.endSweep else b
      ∃ t, exec .moduleWarmReset s = .next t ∧ (s.obj 0x1000 8 ≠ 0 → t.boot.alert = true) ∧ t.boot.stage = 1 ∧
        t.boot.cold = false ∧ t.mem = v.mem ∧ t.time = s.time ∧ t.hall = s.hall ∧ (t.stores = [] ∧ t.maps = [] ∧ t.imem = [] ∧ t.accs = [] ∧ t.cores = [] ∧ t.ctxs = [] ∧ t.sems = [] ∧
          t.movers = [] ∧ t.fabric = .reset ∧ t.tt = .reset ∧ t.watch = .reset ∧ t.train = .reset ∧ t.rope = .reset ∧
          t.job = .reset ∧ t.regions = [] ∧ t.deltas = [] ∧ t.mailboxes = []) ∧
        (t.dict.sessions = [] ∧ t.dict.base = s.dict.base ∧ t.dict.baseRecs = s.dict.baseRecs ∧ t.dict.camps = s.dict.camps) ∧
        (t.boot.images = s.boot.images ∧ t.boot.floors = s.boot.floors ∧ t.memctl.retired = s.memctl.retired) ∧
        (s.boot.measures.length = 8 → ∀ n, t.boot.measures.getD n [] =
          if 1 ≤ n ∧ n ≤ 5 then List.replicate 48 0 else s.boot.measures.getD n []) ∧
        t.obj 0xB000 3 = 0xFF ∧ t.obj 0x2010 9 = 0xFF ∧
        (∀ idx sub, sub < 256 → idx ≠ 0x6002 → idx ≠ 0x9004 → okey idx sub ≠ okey 0xB000 3 → okey idx sub ≠ okey 0x2010 9 →
          t.obj idx sub = if restarts (okey idx sub) then objDefault (okey idx sub) else v.obj idx sub) ∧
        ∀ l : Link, t.obj 0x6002 l = if v.role l = 0 then 7 else 0) ∧
    (s.boot.good = true → ∃ t, exec .moduleColdReset s = .next t ∧ t.boot.stage = 0 ∧ t.boot.cold = true ∧ t.boot.good = true ∧
      t.mem = [] ∧ t.ctxs = [] ∧ t.dict.sessions = [] ∧ t.job.loaded = false ∧ t.faults.ring = [] ∧ t.obj 0x1000 9 = s.obj 0x1000 9 ∧
      (t.dict.base = s.dict.base ∧ t.dict.camps = s.dict.camps ∧ t.boot.images = s.boot.images ∧ t.boot.floors = s.boot.floors ∧
        t.boot.count = s.boot.count ∧ t.memctl.retired = s.memctl.retired) ∧ t.supply.mv = s.supply.mv) ∧
    (∀ kind image, s.boot.install = some (kind, image) → ∃ t, exec .fwInstallComplete s = .next t ∧ Logged s t [0xA004] ∧
      t.boot.install = none ∧ t.boot.fwState = (2, kind, 0) ∧
      (kind = 1 → (image ≠ [] → t.flashImage (1 - s.boot.activeFirst) = image) ∧ t.boot.activeFirst = 1 - s.boot.activeFirst) ∧
      (kind = 2 → (image ≠ [] → s.boot.activeBundle ≤ 1 → t.flashImage (3 - s.boot.activeBundle) = image) ∧ t.boot.trialBundle = true ∧ t.boot.otherBundle = true ∧ t.boot.activeBundle = s.boot.activeBundle)) ∧
    (s.campArmed = true → exec .campSwitch s = .next (s.reach64 (s.edge64 (s.obj 0xB000 4))).switchCamp) ∧
    (∀ u : State, let t := u.switchCamp
      t.obj 0xB000 1 = u.obj 0xB000 3 ∧ t.obj 0xB000 2 = u.slotKind (u.obj 0xB000 3) ∧ t.obj 0xB000 3 = 0xFF ∧
      t.dict.overlay = u.slotEntries (u.obj 0xB000 3) ∧
      (u.kind = 6 → t.kind ≠ 6 → t.cores = [] ∧ t.ctxs = [] ∧ t.stores = [])) ∧
    (s.campArmed = true → s.kind = 6 → s.slotKind (s.obj 0xB000 3) ≠ 6 → ∃ t, exec .bivouacWakeStart s = .next t ∧
      t.supply = { s.supply with bivouacWaking := true } ∧ t.hall = max s.hall (64 * (s.obj 0xB000 4 - 2000000)))

/-- Die resets and watchdogs (R418, R428, R432, R434, R436, R465): a die controller's fault resets
its C-die as a counted reset and fails the job stage; the die is in service again, its sweeps
resumed, or the module goes out of service; a watchdog that expires is logged and counted, fails
the job stage, and, on H-die 0, ends the sessions and disarms the camp switch; a processor that
has restarted serves the mailbox again. What firmware loses, and the free contents of a die, are
log entries 73 and 74. -/
def Obligations.DieResetsAndWatchdogs : Prop :=
  ∀ (s : State), s.down = false →
    (∀ die : Die, s.faults.diesDown.contains die.val = false → let u := s.faultCount 0x10
      u.obj 0x9005 0x10 = (s.obj 0x9005 0x10 + 1) % 2 ^ 32 ∧
      (s.resetsInWindow + 1 < s.obj 0x9002 1 → exec (.dieControllerFault die) s = .next
        ((({ u with faults := { u.faults with resets := s.now :: s.faults.resets } }).dieReset die 0x10).jobFail 0x10)) ∧
      (s.obj 0x9002 1 ≤ s.resetsInWindow + 1 → exec (.dieControllerFault die) s = .next ((u.log 0x900C).outOfService 0x900C))) ∧
    (∀ (u : State) (die : Die), let t := u.dieReset die 0x10
      t.faults.diesDown = insertAsc die u.faults.diesDown ∧ (∀ i, i < 48 → t.core (48 * die + i) = .reset) ∧
      (t.faults.ring.map eventOf).head? = some 0x9002) ∧
    (∀ (die : Fin 6), s.faults.diesDown.contains die.val = true →
      (∃ u : State, u.faults.diesDown = s.faults.diesDown.erase die ∧ u.mem = s.mem ∧
        (∀ n < 32, n / 8 = die.val → (u.engineSt n).stopped = false) ∧
        exec (.dieResetComplete die true) s = .next (u.on (u.training && recState u.stepRec == 1) State.resumeSweeps)) ∧
      exec (.dieResetComplete die false) s = .next (s.outOfService 0x9002)) ∧
    (∀ die : HDie, s.faults.mpsDown.contains die.val = false → let u := (s.count 0xA004 2).log 0x900B (domMp die)
      u.obj 0xA004 2 = (s.obj 0xA004 2 + 1) % 2 ^ 32 ∧
      Logged s u [0x900B] ∧ (s.obj 0x9002 1 ≤ s.resetsInWindow + 1 →
        exec (.watchdogExpire die) s = .next ((u.log 0x900C).outOfService 0x900C)) ∧
      (s.resetsInWindow + 1 < s.obj 0x9002 1 → ∃ w : State, exec (.watchdogExpire die) s = .next (w.jobFail 0x0B) ∧
        w.faults.mpsDown = insertAsc die s.faults.mpsDown ∧
        (die.val = 0 → w.dict.sessions = [] ∧ w.obj 0xB000 3 = 0xFF ∧ w.host.mboxStatus = 1))) ∧
    (∀ die : HDie, s.faults.mpsDown.contains die.val = true → ∃ t, exec (.mpRestartComplete die) s = .next t ∧
      t.faults.mpsDown = s.faults.mpsDown.erase die ∧ t.host.mboxStatus = if die.val = 0 then 0 else s.host.mboxStatus)

/-- The SMBus target (R482, R485, R486): from power-good every listed read answers the value of
its object and nothing else changes; every write, and a read of a code not listed, is refused;
MFR_STATUS has its bits; a module that asserts SMB_ALERT_N answers the Alert Response Address with
its own and releases the line; before power-good nothing answers. -/
def Obligations.SmbusTarget : Prop :=
  ∀ (s : State), s.down = false →
    let reads := fun (c : Instr) (data : List Byte) => ∃ t, exec c s = .next t ∧ t.out = .smbus data :: s.out ∧ Only [.out] s t
    (s.boot.good = true →
      reads .readVin (leBytes 2 (linear11 s.supply.mv 1000)) ∧ reads .readIin (leBytes 2 (linear11 s.supply.ma 1000)) ∧
      reads .readTemperature1 (leBytes 2 (linear11 (hottest s.supply.dieTemps 6) 1)) ∧
      reads .readTemperature2 (leBytes 2 (linear11 (hottest s.supply.stackTemps 32) 1)) ∧
      reads .readTemperature3 (leBytes 2 (linear11 s.supply.lidTemp 1)) ∧
      reads .readPin (leBytes 2 (linear11 (s.drawNow / 1000 : Nat) 1)) ∧ reads .pmbusRevision [0x44] ∧
      reads .mfrStatus (leBytes 2 s.mfrStatus.toNat) ∧
      reads .mfrState ([4, s.obj 0x1000 8, s.obj 0xA000 1, s.supply.state, s.obj 0xB000 2].map (BitVec.ofNat 8)) ∧
      reads .mfrCause (4 :: leBytes 2 (s.obj 0x9003 2) ++ leBytes 1 (s.obj 0x9003 4) ++ [0]) ∧
      reads .mfrModule (2 :: leBytes 2 s.moduleNumber) ∧ reads .mfrSerial (BitVec.ofNat 8 Config.serial.length :: Config.serial) ∧
      reads .mfrEnergy (8 :: leBytes 8 (s.supply.energy / 1000000)) ∧
      (∀ code write, write = true ∨ code.toNat ∉ smbusCodes → ∃ t, exec (.smbusInvalid code write) s = .next t ∧
        t.out = .smbusNack :: s.out ∧ Only [.out] s t) ∧
      (s.boot.alert = true → ∃ t, exec .alertResponse s = .next t ∧ t.boot.alert = false ∧
        t.out = .smbus [BitVec.ofNat 8 (0x58 + s.obj 0x1000 9 / 2 % 8)] :: s.out ∧ Only [.out, .alert] s t) ∧
      (s.boot.alert = false → ∃ t, exec .alertResponse s = .next t ∧ t.out = .smbusNack :: s.out ∧ Only [.out] s t)) ∧
    (s.boot.good = false → ∀ c ∈ [Instr.readVin, .readIin, .readTemperature1, .readTemperature2, .readTemperature3, .readPin,
      .pmbusRevision, .mfrStatus, .mfrState, .mfrCause, .mfrModule, .mfrSerial, .mfrEnergy], exec c s = .next s) ∧
    (let w := s.mfrStatus.toNat;
      (bitAt w 0 = true ↔ s.obj 0x1000 8 = 0) ∧ (bitAt w 1 = true ↔ s.obj 0x9003 1 = 1) ∧ bitAt w 2 = s.boot.failed ∧
      (bitAt w 3 = true ↔ s.supply.state ≠ 0) ∧ bitAt w 4 = s.supply.brace ∧ (bitAt w 5 = true ↔ s.supply.warned ≠ []) ∧
      bitAt w 6 = s.supply.governor ∧ bitAt w 7 = s.supply.refLost ∧ (bitAt w 8 = true ↔ s.obj 0x9003 3 = 1) ∧ w < 512) ∧
    ∀ f : State → State, (s.alerting f).boot.alert = true ∨
      (s.alerting f = f s ∧ ∀ i, i < 16 → bitAt (f s).mfrStatus.toNat i = true → bitAt s.mfrStatus.toNat i = true)

/-- A value in PMBus LINEAR11 (R486): the mantissa is the value rounded to nearest at the
exponent, in two's complement, and no smaller exponent keeps it in range. -/
def Obligations.LinearElevenIsTheSmallestExponent : Prop :=
  ∀ (a : Int) (b : Nat), 0 < b → a.natAbs ≤ 1023 * 2 ^ 15 * b →
    let w := linear11 a b
    let n := sext 5 (w / 2048)
    let y := sext 11 (w % 2048)
    w < 65536 ∧ y = mantissa a b n ∧ (0 ≤ n → 2 * (a - y * (b * 2 ^ n.toNat : Nat)).natAbs ≤ b * 2 ^ n.toNat) ∧
    (n < 0 → 2 * (a * 2 ^ (-n).toNat - y * (b : Nat)).natAbs ≤ b) ∧
    ∀ m : Int, -16 ≤ m → m < n → mantissa a b m < -1024 ∨ 1023 < mantissa a b m

/-- The rings of the host (R450-R452, R456): an entry whose fields are not as the ring gives them
completes with STATUS 0x01; the entry is taken at CMD_TAIL; the completion is written at CPL_TAIL
with the ring's phase, opcode, tag, STATUS and RESULT words, the phase turning over where the ring
wraps, and a refusal logs event 0xA00C; a command before management firmware runs waits. That a
full completion ring is taken as read is the model's reading: log entry 76. -/
def Obligations.CommandAndCompletionRings : Prop :=
  ∀ (s : State) (e : BitVec 512) (bus : List Byte) (err : Bool), s.down = false →
    let w := e.toNat
    let cmds : List (Nat × Instr) := [(1, .jobLoad e), (2, .jobUnload e), (3, .ttLoad e), (4, .imemLoad e), (5, .ctxStart e),
      (6, .ctxStop e), (7, .ctxRead e), (8, .flowOpen e), (9, .flowClose e), (10, .flowHead e), (11, .bulkCopy e bus err)]
    (∀ c ∈ cmds, s.boot.stage < 2 → exec c.2 s = .next s) ∧
    (∀ c ∈ cmds, 2 ≤ s.boot.stage → entryOk w = false → eOpcode w = c.1 ∨ eOpcode w = 0 ∨ 11 < eOpcode w →
      exec c.2 s = .next (((s.mpUp.takeEntry e).complete w 1 []).streamAll)) ∧
    (∀ c ∈ cmds, 2 ≤ s.boot.stage → entryOk w = true → eOpcode w = c.1 → ∃ (v : State) (status : Nat) (words : List Nat),
      exec c.2 s = .next ((v.complete w status words).streamAll)) ∧
    (let u := s.takeEntry e;
      Tbl.get 0 u.host.commands s.host.cmdTail = e ∧ u.host.cmdTail = (s.host.cmdTail + 1) % 256 ∧ u.host.cmdHead = u.host.cmdTail ∧
      (s.host.cplTail < 256 → (u.host.cplTail + 1) % 256 ≠ u.host.cplHead)) ∧
    ∀ (status : Nat) (words : List Nat), status < 256 → let t := s.complete w status words
      (let c := (Tbl.get 0 t.host.completions s.host.cplTail).toNat;
        fld c 255 252 = 2 ∧ bitAt c 251 = s.host.phase ∧ fld c 250 243 = eOpcode w ∧ fld c 242 227 = eTag w ∧
        fld c 226 219 = status ∧ fld c 218 192 = 0 ∧ ∀ i, i < 3 → fld c (64 * i + 63) (64 * i) = words.getD i 0 % 2 ^ 64) ∧
      t.host.cplTail = (s.host.cplTail + 1) % 256 ∧ t.host.phase = (if s.host.cplTail = 255 then !s.host.phase else s.host.phase) ∧
      (status ≠ 0 → Logged s t [0xA00C]) ∧ (status = 0 → t.faults.ring = s.faults.ring) ∧
      (if Tbl.get false s.host.unmasked 0 then t.out = .msix 0 :: s.out else Tbl.get false t.host.pendingBits 0 = true)

/-- Commands of the ring to a core (R213, R426, R452, R456): instructions are copied to resident
slots, a context starts with its registers and is the host's, one is stopped, and one is read into
memory; a core that does not exist, a slot range that does not, memory that is not visible or
poisoned, and a context or core that is busy are refused with their STATUS. RESULT words and the
opaque refusal reason are the model's choice: log entry 77. -/
def Obligations.CoreCommandsOfTheRing : Prop :=
  ∀ (s : State) (e : BitVec 512), s.down = false → 2 ≤ s.boot.stage → entryOk e.toNat = true →
    let w := e.toNat
    let u := s.mpUp.takeEntry e
    let c := argCore w
    let x := argCtx w
    let ends := fun (i : Instr) (v : State) (status : Nat) (words : List Nat) =>
      exec i s = .next ((v.complete w status words).streamAll)
    (eOpcode w = 4 → let n := fld (eArg w 1) 28 16; let first := fld (eArg w 1) 12 0
      (192 ≤ eArg w 0 → ends (.imemLoad e) u 3 [452]) ∧
      (eArg w 0 < 192 → let v := u.wakeCore (eArg w 0)
        (n = 0 ∨ 4096 < n ∨ 4096 < first + n → ends (.imemLoad e) v 3 [213]) ∧
        (1 ≤ n → n ≤ 4096 → first + n ≤ 4096 →
          (v.visible (eArg w 2) (16 * n) = false → ends (.imemLoad e) v 5 [0]) ∧
          (v.visible (eArg w 2) (16 * n) = true → v.poisoned (eArg w 2) (16 * n) = true →
            ends (.imemLoad e) (v.readPoison (eArg w 2) (16 * n)) 7 [0]) ∧
          (v.visible (eArg w 2) (16 * n) = true → v.poisoned (eArg w 2) (16 * n) = false →
            (v.residentBusy (eArg w 0) = true → ends (.imemLoad e) v 6 [Config.refusalReason 4]) ∧
            (v.residentBusy (eArg w 0) = false → ∃ t : State, ends (.imemLoad e) t 0 [] ∧ t = { v with imem := t.imem } ∧
              ∀ k, Tbl.get 0 t.imem k = if 4096 * eArg w 0 + first ≤ k ∧ k < 4096 * eArg w 0 + first + n then
                BitVec.ofNat 128 (v.readNat (eArg w 2 + 16 * (k - (4096 * eArg w 0 + first))) 16)
              else Tbl.get 0 v.imem k))))) ∧
    (eOpcode w = 5 → (192 ≤ c → ends (.ctxStart e) u 3 [452]) ∧ (c < 192 → let v := u.wakeCore c
      (v.visible (eArg w 2) 128 = false → ends (.ctxStart e) v 5 [0]) ∧
      (v.visible (eArg w 2) 128 = true → v.poisoned (eArg w 2) 128 = true →
        ends (.ctxStart e) (v.readPoison (eArg w 2) 128) 7 [0]) ∧
      (v.visible (eArg w 2) 128 = true → v.poisoned (eArg w 2) 128 = false →
        ((v.ctx c x).startable = false → ends (.ctxStart e) v 6 [Config.refusalReason 5]) ∧
        ((v.ctx c x).startable = true → ∃ t : State, ends (.ctxStart e) t 0 [] ∧ ctxKey c x ∈ t.host.started ∧
          let k := t.ctx c x
          k.status = .ready ∧ k.stream = bitAt (eArg w 0) 11 ∧ k.stageKey.toNat = fld (eArg w 0) 19 12 ∧
          k.pc = BitVec.ofNat 44 (eArg w 1) ∧ k.loops = [] ∧ (∀ i : Fin 15, k.s (i + 1) = BitVec.ofNat 64 (v.readNat (eArg w 2 + 8 * i) 8)) ∧
          ∀ i : Fin 7, k.p (i + 1) = bitAt (v.readNat (eArg w 2 + 120) 1) i)))) ∧
    (eOpcode w = 6 → (192 ≤ c → ends (.ctxStop e) u 3 [452]) ∧ (c < 192 → ∃ t : State, ends (.ctxStop e) t 0 [] ∧
      (t.ctx c x).status = (s.ctx c x).stop.status ∧ (t.ctx c x).pc = (s.ctx c x).pc ∧ (t.ctx c x).regs = (s.ctx c x).regs ∧
      ((s.ctx c x).stop ≠ s.ctx c x → t.ctx c x = (s.ctx c x).stop) ∧
      ∀ d y, ctxKey d y ≠ ctxKey c x → t.ctx d y = s.ctx d y ∨
        ∃ p a, (s.ctx d y).wait = .gather p a ∧ t.ctx d y = { s.ctx d y with wait := .gather p s.now })) ∧
    (eOpcode w = 7 → (192 ≤ c → ends (.ctxRead e) u 3 [452]) ∧ (c < 192 → let v := u.wakeCore c
      (v.visible (eArg w 1) 168 = false → ends (.ctxRead e) v 5 [0]) ∧
      (v.visible (eArg w 1) 168 = true → ∃ t : State, ends (.ctxRead e) t 0 [] ∧ t.ctxs = s.ctxs ∧
        t.readNat (eArg w 1) 16 = (s.ctx c x).word.toNat ∧
        (∀ i : Fin 15, t.readNat (eArg w 1 + 16 + 8 * i) 8 = ((s.ctx c x).s (i + 1)).toNat) ∧
        t.readNat (eArg w 1 + 136) 8 = (s.ctx c x).preds.toNat / 2 ∧
        ∀ a, a < eArg w 1 ∨ eArg w 1 + 168 ≤ a → Tbl.get 0 t.mem a = Tbl.get 0 s.mem a)))

/-- Commands of the ring to flow contexts (R107-R109, R452): an image that describes one opens a
free context as it says, and is counted; any other image, a context in use and a reserved RX
buffer are refused; a close frees a context that is free, broken or open, and tells the peer of an
open one; a new consumer offset within the filled part of the ring is taken, and the lease
renewed. The answers in other states are the model's reading: log entry 79. -/
def Obligations.FlowCommandsOfTheRing : Prop :=
  ∀ (s : State) (e : BitVec 512), s.down = false → 2 ≤ s.boot.stage → entryOk e.toNat = true →
    let w := e.toNat
    let u := s.mpUp.takeEntry e
    let c := eArg w 0
    let ends := fun (i : Instr) (v : State) (status : Nat) (words : List Nat) =>
      exec i s = .next ((v.complete w status words).streamAll)
    (262144 ≤ c → (eOpcode w = 8 → ends (.flowOpen e) u 3 [106]) ∧ (eOpcode w = 9 → ends (.flowClose e) u 3 [106]) ∧
      (eOpcode w = 10 → ends (.flowHead e) u 3 [106])) ∧
    (c < 262144 → eOpcode w = 8 → (u.visible (eArg w 1) 128 = false → ends (.flowOpen e) u 5 [0]) ∧
      (u.visible (eArg w 1) 128 = true → u.poisoned (eArg w 1) 128 = true →
        ends (.flowOpen e) (u.readPoison (eArg w 1) 128) 7 [0])) ∧
    (c < 262144 → eOpcode w = 8 → u.visible (eArg w 1) 128 = true → u.poisoned (eArg w 1) 128 = false →
      let image := u.readNat (eArg w 1) 128
      ((s.flow c).state ≠ .free → ends (.flowOpen e) u 3 [108]) ∧
      ((s.flow c).state = .free → (flowOk image = false → ends (.flowOpen e) u 3 [107]) ∧
        (flowOk image = true → fld image 674 664 < 16 → ends (.flowOpen e) u 3 [452]) ∧
        (flowOk image = true → 16 ≤ fld image 674 664 → ∃ t : State, ends (.flowOpen e) t 0 [] ∧
          t.obj 0x6010 3 = (s.obj 0x6010 3 + 1) % 2 ^ 32 ∧ t.mem = s.mem ∧
          let f := t.flow c
          f.state = .opened ∧ f.peerModule.toNat = fld image 1015 1000 ∧ f.peerContext.toNat = fld image 999 982 ∧
          f.stageKey.toNat = fld image 981 974 ∧ f.owner.toNat = fld image 973 958 ∧ f.leaseEnd.toNat = fld image 957 910 ∧
          f.reqVc.toNat = fld image 909 908 ∧ f.ordered = bitAt image 907 ∧ f.txSeq.toNat = fld image 906 875 ∧
          f.rxNext.toNat = fld image 874 843 ∧ f.outLimit.toNat = fld image 826 811 ∧ f.ringBase.toNat = fld image 786 746 ∧
          f.ringLog2.toNat = fld image 745 741))) ∧
    (c < 262144 → eOpcode w = 9 → ∃ t : State, ends (.flowClose e) t 0 [] ∧ (t.flow c).state = .free ∧
      ((s.flow c).state = .opened → t.obj 0x6010 3 = s.obj 0x6010 3 - 1 ∧
        (∀ r ∈ t.fabric.inFlight, r.ctx.val ≠ c) ∧ ∀ r ∈ t.fabric.waitReq, r.ctx.val ≠ c)) ∧
    (c < 262144 → eOpcode w = 10 → let f := s.flow c; let size := 2 ^ f.ringLog2.toNat
      f.ringLog2 ≠ 0 → f.ringHead.toNat < size → f.ringTail.toNat < size → f.ringLog2.toNat ≤ 24 → ∀ k,
        k ≤ (f.ringTail.toNat + size - f.ringHead.toNat) % size → eArg w 1 = (f.ringHead.toNat + k) % size →
        ∃ t : State, ends (.flowHead e) t 0 [] ∧ (t.flow c).ringHead.toNat = eArg w 1 ∧
          (t.flow c).leaseEnd = BitVec.ofNat 48 (s.now / 1000 + s.obj 0x6010 1) ∧ (t.flow c).ringTail = f.ringTail) ∧
    (c < 262144 → eOpcode w = 10 → (s.flow c).ringLog2 = 0 ∨ 2 ^ (s.flow c).ringLog2.toNat ≤ eArg w 1 →
      ∃ t : State, ends (.flowHead e) t 3 [452])

/-- BULK_COPY (R452, R455): it needs the bulk resource and a length within its bounds; out of the
module it hands the host the bytes of the pages that hold them, into the module it writes what the
bus brought; a page that cannot be accessed gives STATUS 0x05 or 0x07, a bus error 0x08. RESULT
452 of a bad length is the model's choice: log entry 77. -/
def Obligations.BulkCopies : Prop :=
  ∀ (s : State) (e : BitVec 512) (bus : List Byte) (err : Bool), s.down = false → 2 ≤ s.boot.stage → entryOk e.toNat = true →
    eOpcode e.toNat = 11 →
    let w := e.toNat
    let u := s.mpUp.takeEntry e
    let va := eArg w 2
    let len := eArg w 3
    let key := BitVec.ofNat 8 (eArg w 4)
    let out := bitAt (eArg w 0) 0
    let c := Instr.bulkCopy e bus err
    let ends := fun (v : State) (status : Nat) (words : List Nat) => exec c s = .next ((v.complete w status words).streamAll)
    let bad := len = 0 ∨ len % 64 ≠ 0 ∨ 2 ^ 32 < len ∨ 2 ^ 48 < va + len
    (s.obj 0xB020 4 ≠ 2 → ends u 4 [okey 0xB020 4]) ∧
    (s.obj 0xB020 4 = 2 → (bad → ends u 3 [452]) ∧ (¬ bad →
      let r := u.bulkPieces (u.walkPages va len) key (!out) (pieces va len)
      (r.2 = 0 → err = false → out = true → ∃ v : State, ends v 0 [] ∧ v.mem = s.mem ∧
        v.out = .hostWrite (eArg w 1) (r.1.flatMap fun p => s.read p.1 p.2) :: u.out) ∧
      (r.2 = 0 → err = false → out = false → bus.length = len → ∃ v : State, ends v 0 [] ∧
        v.mem = (u.writePieces r.1 bus).mem) ∧
      (r.2 ≠ 0 → ∃ v : State, ends v r.2 [] ∧ (r.2 = 5 ∨ r.2 = 7)) ∧ (r.2 = 0 → err = true → ∃ v : State, ends v 8 [])))

/-- JOB_LOAD and JOB_UNLOAD (R310, R312, R363, R373, R411, R432, R453, R454): what refuses a load,
with its STATUS and rule; a load installs the tree, the region table and the store keys, starts
the job's holds and banks afresh, measures the manifest and logs event 0xA00A; an unload always
succeeds, and leaves no job, region, bank or stage failure. The order of refusals, their RESULT
words and what is cleared beyond R453 and R454 are the model's reading: log entries 77, 83 and 84.
-/
def Obligations.JobsLoadAndUnload : Prop :=
  ∀ (s : State) (e : BitVec 512), s.down = false → 2 ≤ s.boot.stage → entryOk e.toNat = true →
    let w := e.toNat
    let u := s.mpUp.takeEntry e
    let ends := fun (i : Instr) (v : State) (status : Nat) (words : List Nat) =>
      exec i s = .next ((v.complete w status words).streamAll)
    (eOpcode w = 1 →
      (s.job.loaded = true ∨ s.timeOk = false → ends (.jobLoad e) u 2 []) ∧
      (s.job.loaded = false → s.timeOk = true →
        (s.obj 0x9003 1 = 1 → ends (.jobLoad e) u 3 [432]) ∧
        (s.obj 0x9003 1 ≠ 1 → s.obj 0xB000 2 = 6 → ends (.jobLoad e) u 3 [373]) ∧
        (s.obj 0x9003 1 ≠ 1 → s.obj 0xB000 2 ≠ 6 → s.campArmed = true → s.switchForbids (s.obj 0xB000 3) ≠ none →
          ends (.jobLoad e) u 3 [411])) ∧
      (u.loadState = none → u.visible (eArg w 0) 64 = false → ends (.jobLoad e) u 5 [0]) ∧
      (u.loadState = none → u.visible (eArg w 0) 64 = true → u.poisoned (eArg w 0) 64 = true →
        ends (.jobLoad e) (u.readPoison (eArg w 0) 64) 7 [0]) ∧
      (u.loadState = none → u.visible (eArg w 0) 64 = true → u.poisoned (eArg w 0) 64 = false →
        let m := u.read (eArg w 0) 64
        (manifestOk m = false → ends (.jobLoad e) u 3 [453]) ∧
        (manifestOk m = true → u.visible (jRegions m) (16 * jCount m) = true → u.poisoned (jRegions m) (16 * jCount m) = false →
          u.visible (jKeys m) 768 = true → u.poisoned (jKeys m) 768 = false →
          let regs := u.read (jRegions m) (16 * jCount m)
          let keys := u.read (jKeys m) 768
          (∀ f, u.growSpans.tablesFault m regs = some f → ends (.jobLoad e) u f.1 f.2) ∧
          (u.growSpans.tablesFault m regs = none → let t := u.growSpans.installTables m regs keys
            (∀ f, t.subjectFault (jHostKey m) = some f → ends (.jobLoad e) (u.noteRefusal t) f.1 f.2) ∧
            (t.subjectFault (jHostKey m) = none → ∃ x : State,
              ends (.jobLoad e) ((x.takeTraining.ropeJob).log 0xA00A (domMp 0) [(64, jId m)]) 0 [] ∧
              x.job.loaded = true ∧ x.job.clockMhz = jClock m ∧ x.obj 0x4040 1 = jTree m ∧ x.obj 0xA000 5 = jHostKey m ∧
              x.boot.jobId = jId m ∧ (∀ c : Core, x.obj 0x4042 c = leAt keys (4 * c) 4) ∧
              (∀ n, Tbl.get regionReset x.regions n = if n < jCount m then BitVec.ofNat 128 (leAt regs (16 * n) 16) else regionReset) ∧
              x.tt.armedA = false ∧ x.tt.armedB = false ∧ x.hold.offset = 0 ∧ x.hold.lost = [] ∧ x.hold.noResume = false ∧
              x.hold.schedFault = false ∧ (s.boot.measures.length = 8 → x.boot.measures.getD 6 [] =
                Config.sha3 (List.replicate 48 0 ++ Config.sha3 m))))))) ∧
    (eOpcode w = 2 → ends (.jobUnload e) u.unloadJob 0 []) ∧
    (let t := s.unloadJob; t.job.loaded = false ∧ t.regions = [] ∧ t.train = .reset ∧ t.tt.active = none ∧ t.obj 0x2010 1 = 0xFF ∧
      t.obj 0x4040 1 = 0 ∧ t.obj 0x9003 3 = 0 ∧ t.tt.armedA = false ∧ t.tt.armedB = false ∧ t.hold.noResume = false ∧
      t.hold.schedFault = false ∧ t.faults.recovery = [] ∧ (s.boot.measures.length = 8 → t.boot.measures.getD 6 [] = List.replicate 48 0) ∧
      (t.faults.ring.map eventOf).head? = some 0xA00B ∧ ∀ (c : Core) (x : Ctx), (t.ctx c x).status = .idle)

/-- TT_LOAD (R63, R452): a bank that is active or about to be is refused; a value out of its
object's range is refused with the object; otherwise the image is copied into the bank's tables,
its objects are set, and both checks run and decide the STATUS. -/
def Obligations.TimetableImagesLoad : Prop :=
  ∀ (s : State) (e : BitVec 512), s.down = false → 2 ≤ s.boot.stage → entryOk e.toNat = true → eOpcode e.toNat = 3 →
    let w := e.toNat
    let u := s.mpUp.takeEntry e
    let b := eArg w 0 % 2
    let ends := fun (v : State) (status : Nat) (words : List Nat) => exec (.ttLoad e) s = .next ((v.complete w status words).streamAll)
    ((∃ a : Fin 2, s.tt.active = some a ∧ a.val = b) → ends u 2 [okey 0x2010 1]) ∧
    ((∀ a : Fin 2, s.tt.active = some a → a.val ≠ b) → (∃ a : Fin 2, s.tt.switch = some a ∧ a.val = b) → ends u 2 [okey 0x2010 9]) ∧
    ((∀ a : Fin 2, s.tt.active = some a ∨ s.tt.switch = some a → a.val ≠ b) →
      (u.visible (eArg w 1) 256 = false → ends u 5 [0]) ∧
      (u.visible (eArg w 1) 256 = true → u.poisoned (eArg w 1) 256 = false →
        let counts := bankCounts (u.read (eArg w 1) 256)
        let vs := bankValues b w counts
        (∀ k, bankRange vs = some k → ends u 3 [k]) ∧
        (bankRange vs = none → u.visible (eArg w 1) (tableAt counts 64) = true → u.poisoned (eArg w 1) (tableAt counts 64) = false →
          ∃ v : State, let r := v.checkBank b
            ends r.1 (if r.2.1.isNone ∧ r.2.2.isNone then 0 else 3) [leNat (r.1.recOf 0x2010 0xA), leNat (r.1.recOf 0x3002 9)] ∧
            v.obj 0x2010 (2 + b) = eArg w 2 ∧ v.obj 0x2010 (4 + b) = eArg w 3 ∧ v.obj 0x2010 (6 + b) = eArg w 4 ∧
            v.obj 0x3002 (5 + b) = eArg w 5 ∧ v.obj 0x3002 (7 + b) = eArg w 6 ∧
            (∀ l : Link, v.obj (0x2011 + b) (0x40 + l) = u.readNat (eArg w 1 + 4 * l) 4) ∧ v.bankArmed b = false ∧
            ∀ l : Link, ∀ i, i < v.obj (0x2011 + b) (0x40 + l) →
              v.read (bankTable b l i) 32 = u.read (eArg w 1 + tableAt counts l + 32 * i) 32)))

/-- The host function (R445, R447-R449, R455, R457, R463, R464): once boot stage 1 has ended, a
BAR2 access reaches memory where it is visible and granted, and any other is counted, logged, and
answered with ones or discarded; DOE answers a report signed over its nonce, and the measurement
log; IDE_KM takes a key; a function reset breaks the flow contexts that the host owns, clears the
rings and closes the mailbox sessions, and memory, cores and the job stay. A poisoned read, and the IDE keys through a function reset, are
log entries 81 and 82. -/
def Obligations.HostFunction : Prop :=
  ∀ (s : State), s.down = false →
    let blocked := fun (t : State) => t.obj 0xA000 6 = (s.obj 0xA000 6 + 1) % 2 ^ 32 ∧ Logged s t [0xA008] ∧ t.mem = s.mem
    (s.boot.good = true → 2 ≤ s.boot.stage →
      (∀ (off : BitVec 41) (n : Nat), let a := s.host.windowBase + off.toNat
        (s.bar2Ok false a n = true → s.poisoned a n = false →
          ∃ t, exec (.bar2Read off n) s = .next t ∧ t.out = .hostData (s.read a n) :: s.out ∧ Only [.out] s t) ∧
        (s.bar2Ok false a n = false →
          ∃ t, exec (.bar2Read off n) s = .next t ∧ blocked t ∧ t.out = .hostData (List.replicate n 0xFF) :: s.out) ∧
        (s.bar2Ok false a n = true → s.poisoned a n = true → ∃ t, exec (.bar2Read off n) s = .next t ∧
          (∃ bs : List Byte, bs.length = n ∧ t.out = .hostData bs :: s.out) ∧ t.mem = s.mem)) ∧
      (∀ (off : BitVec 41) (bs : List Byte), let a := s.host.windowBase + off.toNat
        (s.bar2Ok true a bs.length = true → ∃ t, exec (.bar2Write off bs) s = .next t ∧ t.read a bs.length = bs ∧
          Only [.mem, .poison] s t ∧ ∀ b, b < a ∨ a + bs.length ≤ b → Tbl.get 0 t.mem b = Tbl.get 0 s.mem b) ∧
        (s.bar2Ok true a bs.length = false → ∃ t, exec (.bar2Write off bs) s = .next t ∧ blocked t ∧ t.out = s.out)) ∧
      (∀ nonce : BitVec 256, ∃ t, exec (.doeAttest nonce) s = .next t ∧ Logged s t [0xA007] ∧
        t.out = .doe (s.report (leBytes 32 nonce.toNat)) :: s.out) ∧
      (∃ t, exec .doeMeasureLog s = .next t ∧ t.out = .doe s.boot.log.flatten :: s.out ∧ Only [.out] s t) ∧
      (∀ (stream : Bool) (slot : Nat) (key : List Byte), slot < 256 → ∃ t, exec (.ideKm stream slot key) s = .next t ∧
        Tbl.get [] t.host.ideKeys (256 * bit01 stream + slot) = key ∧ Only [.host] s t)) ∧
    (s.boot.good = false ∨ s.boot.stage < 2 → ∀ (off : BitVec 41) (n : Nat) (bs : List Byte) (nonce : BitVec 256) (stream : Bool),
      exec (.bar2Read off n) s = .next s ∧ exec (.bar2Write off bs) s = .next s ∧ exec (.doeAttest nonce) s = .next s ∧
      exec .doeMeasureLog s = .next s ∧ exec (.ideKm stream n bs) s = .next s) ∧
    (∀ nonce : List Byte, ∃ body : List Byte, body.length = 1024 ∧ s.report nonce = body ++ Config.identitySign body) ∧
    ∃ t, exec .hostFunctionReset s = .next t ∧ (let h := t.host; h.cmdTail = 0 ∧ h.cmdHead = 0 ∧ h.cplTail = 0 ∧ h.cplHead = 0 ∧
        h.windowBase = 0 ∧ h.phase = true ∧ h.mboxStatus = (if s.faults.mpsDown.contains 0 then 1 else 0) ∧ h.unmasked = [] ∧
        h.ideKeys = s.host.ideKeys ∧ h.linkUp = s.host.linkUp) ∧
      (∀ v ∈ t.dict.sessions, v.transport ≠ 0 ∧ v ∈ s.dict.sessions) ∧
      (∀ v ∈ s.dict.sessions, v.transport ≠ 0 → (∀ x ∈ s.dict.sessions, x.number = v.number → x = v) → v ∈ t.dict.sessions) ∧
      (t.faults.ring.map eventOf).head? = some 0xA009 ∧ t.mem = s.mem ∧ t.cores = s.cores ∧ t.job = s.job ∧
      (∀ e ∈ s.fabric.flows, e.2.owner.toNat = 0x9000 → (t.flow e.1).state ≠ .opened) ∧
      ((∀ e ∈ s.sems, e.2.producer.toNat = 0 ∨ domWithin e.2.producer.toNat domHost = false) → t.ctxs = s.ctxs)
end

