-- ==== Sys2Proof/Laws/Tables.lean ====
section
/-!
SUPPORT. Sparse tables and memories: reading after writing, and the canonical form.
-/

namespace Sys2Proof.Tbl

variable {α : Type} [DecidableEq α]

theorem wfFrom_mono {d : α} {a b : Nat} {t : Tbl α} (h : wfFrom d b t = true) (hab : a ≤ b) :
    wfFrom d a t = true := by
  cases t with
  | nil => rfl
  | cons e t =>
    obtain ⟨j, v⟩ := e
    simp only [wfFrom, Bool.and_eq_true, decide_eq_true_eq] at h ⊢
    exact ⟨⟨by omega, h.1.2⟩, h.2⟩

theorem del_wfFrom {d : α} {lo : Nat} {t : Tbl α} (k : Nat) (h : wfFrom d lo t = true) :
    wfFrom d lo (del t k) = true := by
  induction t generalizing lo with
  | nil => rfl
  | cons e t ih =>
    obtain ⟨j, v⟩ := e
    simp only [wfFrom, Bool.and_eq_true, decide_eq_true_eq] at h
    simp only [del]
    split
    · exact wfFrom_mono (ih h.2) (by omega)
    · simp only [wfFrom, Bool.and_eq_true, decide_eq_true_eq]
      exact ⟨h.1, ih h.2⟩

theorem put_wfFrom {d : α} {lo : Nat} {t : Tbl α} {k : Nat} {x : α} (h : wfFrom d lo t = true) (hk : lo ≤ k)
    (hx : x ≠ d) : wfFrom d lo (put t k x) = true := by
  induction t generalizing lo with
  | nil => simp [put, wfFrom, hk, hx]
  | cons e t ih =>
    obtain ⟨j, v⟩ := e
    have h' := h
    simp only [wfFrom, Bool.and_eq_true, decide_eq_true_eq] at h
    simp only [put]
    split
    · next hj =>
      subst hj
      simp [wfFrom, h.1.1, hx, h.2]
    · split
      · next hj hlt =>
        simp only [wfFrom, Bool.and_eq_true, decide_eq_true_eq]
        exact ⟨⟨hk, hx⟩, ⟨by omega, h.1.2⟩, h.2⟩
      · next hj hlt =>
        simp only [wfFrom, Bool.and_eq_true, decide_eq_true_eq]
        exact ⟨h.1, ih h.2 (by omega)⟩

/-- Setting a value keeps the canonical form. -/
theorem set_wf {d : α} {t : Tbl α} (k : Nat) (x : α) (h : wf d t = true) : wf d (set d t k x) = true := by
  unfold set
  split
  · exact del_wfFrom k h
  · next hx => exact put_wfFrom h (Nat.zero_le k) hx

theorem get_of_lt {d : α} {lo k : Nat} {t : Tbl α} (h : wfFrom d lo t = true) (hk : k < lo) : get d t k = d := by
  induction t generalizing lo with
  | nil => rfl
  | cons e t ih =>
    obtain ⟨j, v⟩ := e
    simp only [wfFrom, Bool.and_eq_true, decide_eq_true_eq] at h
    simp only [get]
    rw [if_neg (by omega)]
    exact ih h.2 (by omega)

omit [DecidableEq α] in
theorem get_put_same {d x : α} {t : Tbl α} {k : Nat} : get d (put t k x) k = x := by
  induction t with
  | nil => simp [put, get]
  | cons e t ih =>
    obtain ⟨j, v⟩ := e
    simp only [put]
    split
    · simp [get]
    · split
      · simp [get]
      · next hj _ => simp [get, hj, ih]

omit [DecidableEq α] in
theorem get_put_other {d x : α} {t : Tbl α} {k i : Nat} (hi : i ≠ k) : get d (put t k x) i = get d t i := by
  induction t with
  | nil => simp [put, get, hi.symm]
  | cons e t ih =>
    obtain ⟨j, v⟩ := e
    simp only [put]
    split
    · next hj => subst hj; simp [get, hi.symm]
    · split
      · simp [get, hi.symm]
      · simp only [get, ih]

omit [DecidableEq α] in
theorem get_del_same {d : α} {k : Nat} {t : Tbl α} : get d (del t k) k = d := by
  induction t with
  | nil => rfl
  | cons e t ih =>
    obtain ⟨j, v⟩ := e
    simp only [del]
    split
    · exact ih
    · next hj => simp [get, hj, ih]

omit [DecidableEq α] in
theorem get_del_other {d : α} {k i : Nat} {t : Tbl α} (hi : i ≠ k) : get d (del t k) i = get d t i := by
  induction t with
  | nil => rfl
  | cons e t ih =>
    obtain ⟨j, v⟩ := e
    simp only [del]
    split
    · next hj => subst hj; simp [get, hi.symm, ih]
    · simp only [get, ih]

/-- A value set is the value read. -/
theorem get_set_same {d x : α} {t : Tbl α} {k : Nat} : get d (set d t k x) k = x := by
  unfold set
  split
  · next hx => rw [hx]; exact get_del_same
  · exact get_put_same

/-- Setting a value leaves every other key's value as it was. -/
theorem get_set_other {d x : α} {t : Tbl α} {k i : Nat} (hi : i ≠ k) : get d (set d t k x) i = get d t i := by
  unfold set
  split
  · exact get_del_other hi
  · exact get_put_other hi

/-- Setting values one after another keeps the canonical form. -/
theorem foldl_set_wf {β : Type} {d : α} (key : β → Nat) (val : Tbl α → β → α) {ws : List β} {t : Tbl α}
    (h : wf d t = true) : wf d (ws.foldl (fun t w => set d t (key w) (val t w)) t) = true := by
  induction ws generalizing t with
  | nil => exact h
  | cons w ws ih => exact ih (set_wf _ _ h)

/-- A canonical table is what its values say: two that read the same at every key are the same list. -/
theorem eq_of_get {d : α} {t u : Tbl α} {lo : Nat} (ht : wfFrom d lo t = true) (hu : wfFrom d lo u = true)
    (h : ∀ k, get d t k = get d u k) : t = u := by
  induction t generalizing u lo with
  | nil =>
    cases u with
    | nil => rfl
    | cons e u =>
      obtain ⟨j, v⟩ := e
      simp only [wfFrom, Bool.and_eq_true, decide_eq_true_eq] at hu
      have := h j
      simp only [get, if_pos] at this
      exact absurd this.symm hu.1.2
  | cons e t ih =>
    obtain ⟨j, v⟩ := e
    have ht' := ht
    have hu' := hu
    simp only [wfFrom, Bool.and_eq_true, decide_eq_true_eq] at ht
    cases u with
    | nil =>
      have := h j
      simp only [get, if_pos] at this
      exact absurd this ht.1.2
    | cons e' u =>
      obtain ⟨i, w⟩ := e'
      simp only [wfFrom, Bool.and_eq_true, decide_eq_true_eq] at hu
      have hij : j = i := by
        rcases Nat.lt_trichotomy j i with hlt | heq | hgt
        · have := h j
          simp only [get, if_pos] at this
          rw [if_neg (by omega), get_of_lt hu.2 (by omega)] at this
          exact absurd this ht.1.2
        · exact heq
        · have := h i
          simp only [get, if_pos] at this
          rw [if_neg (by omega), get_of_lt ht.2 (by omega)] at this
          exact absurd this.symm hu.1.2
      subst hij
      have hv : v = w := by
        have := h j
        simpa only [get, if_pos] using this
      subst hv
      congr 1
      refine ih (lo := j + 1) ht.2 hu.2 fun k => ?_
      by_cases hk : k < j + 1
      · rw [get_of_lt ht.2 hk, get_of_lt hu.2 hk]
      · have := h k
        simp only [get] at this
        rwa [if_neg (by omega), if_neg (by omega)] at this

end Sys2Proof.Tbl

namespace Sys2Proof.Machine

/-- A write keeps the canonical form. -/
theorem Memory.write_wf {m : Memory} (a : Nat) (bs : List Byte) (h : Memory.wf m = true) :
    Memory.wf (Memory.write m a bs) = true := by
  induction bs generalizing m a with
  | nil => exact h
  | cons b bs ih => exact ih _ (Tbl.set_wf _ _ h)

/-- A byte outside those written reads as before. -/
theorem Memory.get_write_other {m : Memory} {a i : Nat} {bs : List Byte} (h : i < a ∨ a + bs.length ≤ i) :
    Tbl.get 0 (Memory.write m a bs) i = Tbl.get 0 m i := by
  induction bs generalizing m a with
  | nil => rfl
  | cons b bs ih =>
    simp only [List.length_cons] at h
    rw [Memory.write, ih (by omega), Tbl.get_set_other (by omega)]

/-- A byte written reads as the one written. -/
theorem Memory.get_write_same {m : Memory} {a i : Nat} {bs : List Byte} (hi : i < bs.length) :
    Tbl.get 0 (Memory.write m a bs) (a + i) = bs[i] := by
  induction bs generalizing m a i with
  | nil => simp at hi
  | cons b bs ih =>
    rw [Memory.write]
    cases i with
    | zero =>
      rw [Memory.get_write_other (by omega)]
      exact Tbl.get_set_same
    | succ i =>
      rw [show a + (i + 1) = a + 1 + i by omega, ih (by simpa using hi)]
      simp

theorem Memory.read_congr {m m' : Memory} {a n : Nat} (h : ∀ i, a ≤ i → i < a + n → Tbl.get 0 m i = Tbl.get 0 m' i) :
    Memory.read m a n = Memory.read m' a n := by
  induction n generalizing a with
  | zero => rfl
  | succ n ih =>
    rw [Memory.read, Memory.read, h a (Nat.le_refl a) (by omega), ih fun i h1 h2 => h i (by omega) (by omega)]

@[simp] theorem Memory.read_length {m : Memory} {a n : Nat} : (Memory.read m a n).length = n := by
  induction n generalizing a with
  | zero => rfl
  | succ n ih => simp [Memory.read, ih]

/-- What is written is what is read. -/
theorem Memory.read_write_same {m : Memory} {a : Nat} {bs : List Byte} :
    Memory.read (Memory.write m a bs) a bs.length = bs := by
  induction bs generalizing m a with
  | nil => rfl
  | cons b bs ih =>
    rw [List.length_cons, Memory.read]
    congr 1
    · exact Memory.get_write_same (i := 0) (a := a) (bs := b :: bs) (by simp)
    · exact ih

/-- Bytes that a write does not touch read as before. -/
theorem Memory.read_write_other {m : Memory} {a b n : Nat} {bs : List Byte} (h : b + n ≤ a ∨ a + bs.length ≤ b) :
    Memory.read (Memory.write m a bs) b n = Memory.read m b n :=
  Memory.read_congr fun i h1 h2 => Memory.get_write_other (by omega)

/-- A write of nothing but what an unlisted byte reads as adds no entry. -/
theorem Memory.write_nil (a : Nat) (m : Memory) : Memory.write m a [] = m := rfl

end Sys2Proof.Machine
end

