-- ==== Sys2Proof/Laws/Keep.lean ====
section
/-!
SUPPORT. What every operation of the machine keeps: the queue of waiting commands, the invariant, and
every SVN floor at least as high as it was.  The files Keep… beside this one have one lemma per
operation.
-/

namespace Sys2Proof.Machine

/-- The parts of a state that `Keep` speaks of follow from those of `s0`. -/
structure Kept (s0 : State) (pending : List Instr) (mem stores maps mailboxes : Memory)
    (measures log : List (List Byte)) (floors : Tbl Nat) (ring : List (BitVec 256)) : Prop where
  queue : pending = s0.pending
  floors : ∀ k, Tbl.get 0 s0.boot.floors k ≤ Tbl.get 0 floors k
  sound : s0.Inv → Sound mem stores maps mailboxes measures log ring

/-- From `s0` to `t` the queue stays, the invariant is kept, and no SVN floor falls. -/
def Keep (s0 t : State) : Prop :=
  Kept s0 t.pending t.mem t.stores t.maps t.mailboxes t.boot.measures t.boot.log t.boot.floors t.faults.ring

/-- The same of an outcome. -/
def Keeps (s0 : State) (o : Host.Outcome State Fault Refusal) : Prop := ∀ t, o = .next t → Keep s0 t

/-- The same of a state that may be answered, alone or beside a number. -/
def KeepsOpt (s0 : State) (o : Option State) : Prop := ∀ t, o = some t → Keep s0 t

def KeepsOpt2 (s0 : State) (o : Option (Nat × State)) : Prop := ∀ r, o = some r → Keep s0 r.2

variable {s0 s : State} {p : List Instr} {mem sto maps mb : Memory} {ms lg : List (List Byte)} {fl : Tbl Nat}
  {rg : List (BitVec 256)}

theorem Keep.refl (s : State) : Keep s s := ⟨rfl, fun _ => Nat.le_refl _, fun h => h⟩

/-- A state written out: only the parts named matter. -/
theorem Keep.mk {out hall drawn down time tt hold links fabric poison imem accs cores ctxs sems movers posts dies deltas
    regions spans invals watch train rope dict job host supply memctl faults boot}
    (h : Kept s0 p mem sto maps mb boot.measures boot.log boot.floors faults.ring) :
    Keep s0 ⟨p, out, hall, drawn, down, time, tt, hold, links, fabric, mem, poison, sto, maps, imem, accs, cores, ctxs,
      sems, movers, posts, dies, mb, deltas, regions, spans, invals, watch, train, rope, dict,
      faults, job, host, supply, memctl,
      boot⟩ := h

/-- The same with the fault handling written out. -/
theorem Keep.mkF {out hall drawn down time tt hold links fabric poison imem accs cores ctxs sems movers posts dies deltas
    regions spans invals watch train rope dict job host supply memctl boot}
    {f1 f2 f3 f4 f5 f6 f7 f8 f9 f10}
    (h : Kept s0 p mem sto maps mb boot.measures boot.log boot.floors rg) :
    Keep s0 ⟨p, out, hall, drawn, down, time, tt, hold, links, fabric, mem, poison, sto, maps, imem, accs, cores, ctxs,
      sems, movers, posts, dies, mb, deltas, regions, spans, invals, watch, train, rope, dict,
      ⟨rg, f1, f2, f3, f4, f5, f6, f7, f8, f9, f10⟩, job, host, supply, memctl,
      boot⟩ := h

/-- The same with boot written out. -/
theorem Keep.mkB {out hall drawn down time tt hold links fabric poison imem accs cores ctxs sems movers posts dies deltas
    regions spans invals watch train rope dict job host supply memctl faults}
    {b0 b1 b2 b3 b4 b5 b6 b7 b8 b9 b10 b11 b12 b14 b15 b18 b19 b20 b21 b22 b23 b24 b25 b26 b27}
    (h : Kept s0 p mem sto maps mb ms lg fl faults.ring) :
    Keep s0 ⟨p, out, hall, drawn, down, time, tt, hold, links, fabric, mem, poison, sto, maps, imem, accs, cores, ctxs,
      sems, movers, posts, dies, mb, deltas, regions, spans, invals, watch, train, rope, dict,
      faults, job, host, supply, memctl,
      ⟨b0, b1, b2, b3, b4, b5, b6, b7, b8, b9, b10, b11, b12, fl, b14,
        b15, ms, lg, b18, b19, b20, b21, b22, b23, b24, b25, b26, b27⟩⟩ := h

/-- The same with both. -/
theorem Keep.mkFB {out hall drawn down time tt hold links fabric poison imem accs cores ctxs sems movers posts dies deltas
    regions spans invals watch train rope dict job host supply memctl}
    {f1 f2 f3 f4 f5 f6 f7 f8 f9 f10}
    {b0 b1 b2 b3 b4 b5 b6 b7 b8 b9 b10 b11 b12 b14 b15 b18 b19 b20 b21 b22 b23 b24 b25 b26 b27}
    (h : Kept s0 p mem sto maps mb ms lg fl rg) :
    Keep s0 ⟨p, out, hall, drawn, down, time, tt, hold, links, fabric, mem, poison, sto, maps, imem, accs, cores, ctxs,
      sems, movers, posts, dies, mb, deltas, regions, spans, invals, watch, train, rope, dict,
      ⟨rg, f1, f2, f3, f4, f5, f6, f7, f8, f9, f10⟩, job, host, supply, memctl,
      ⟨b0, b1, b2, b3, b4, b5, b6, b7, b8, b9, b10, b11, b12, fl, b14,
        b15, ms, lg, b18, b19, b20, b21, b22, b23, b24, b25, b26, b27⟩⟩ := h

theorem Keep.kept (h : Keep s0 s) : Kept s0 s.pending s.mem s.stores s.maps s.mailboxes s.boot.measures s.boot.log
    s.boot.floors s.faults.ring := h

theorem Keep.inv (h : Keep s0 s) (hi : s0.Inv) : s.Inv := h.sound hi

theorem Kept.mem_write (h : Kept s0 p mem sto maps mb ms lg fl rg) (a : Nat) (bs : List Byte) :
    Kept s0 p (Memory.write mem a bs) sto maps mb ms lg fl rg :=
  ⟨h.queue, h.floors, fun hi => { h.sound hi with mem := Memory.write_wf a bs (h.sound hi).mem }⟩

theorem Kept.mem_set (h : Kept s0 p mem sto maps mb ms lg fl rg) (a : Nat) (b : Byte) :
    Kept s0 p (Tbl.set 0 mem a b) sto maps mb ms lg fl rg :=
  ⟨h.queue, h.floors, fun hi => { h.sound hi with mem := Tbl.set_wf a b (h.sound hi).mem }⟩

theorem Kept.mem_cells {β : Type} (h : Kept s0 p mem sto maps mb ms lg fl rg) (ws : List β) (k : β → Nat)
    (v : β → Byte) :
    Kept s0 p (ws.foldl (fun m w => Tbl.set 0 m (k w) (v w)) mem) sto maps mb ms lg fl rg :=
  ⟨h.queue, h.floors, fun hi => { h.sound hi with mem := Tbl.foldl_set_wf k (fun _ => v) (h.sound hi).mem }⟩

theorem Kept.stores_write (h : Kept s0 p mem sto maps mb ms lg fl rg) (a : Nat) (bs : List Byte) :
    Kept s0 p mem (Memory.write sto a bs) maps mb ms lg fl rg :=
  ⟨h.queue, h.floors, fun hi => { h.sound hi with stores := Memory.write_wf a bs (h.sound hi).stores }⟩

theorem Kept.stores_cells {β : Type} (h : Kept s0 p mem sto maps mb ms lg fl rg) (ws : List β) (k : β → Nat)
    (v : β → Byte) :
    Kept s0 p mem (ws.foldl (fun m w => Tbl.set 0 m (k w) (v w)) sto) maps mb ms lg fl rg :=
  ⟨h.queue, h.floors, fun hi => { h.sound hi with stores := Tbl.foldl_set_wf k (fun _ => v) (h.sound hi).stores }⟩

theorem Kept.stores_nil (h : Kept s0 p mem sto maps mb ms lg fl rg) : Kept s0 p mem [] maps mb ms lg fl rg :=
  ⟨h.queue, h.floors, fun hi => { h.sound hi with stores := rfl }⟩

theorem Kept.maps_set (h : Kept s0 p mem sto maps mb ms lg fl rg) (a : Nat) (b : Byte) :
    Kept s0 p mem sto (Tbl.set 0 maps a b) mb ms lg fl rg :=
  ⟨h.queue, h.floors, fun hi => { h.sound hi with maps := Tbl.set_wf a b (h.sound hi).maps }⟩

theorem Kept.maps_cells {β : Type} (h : Kept s0 p mem sto maps mb ms lg fl rg) (ws : List β) (k : β → Nat)
    (v : β → Byte) :
    Kept s0 p mem sto (ws.foldl (fun m w => Tbl.set 0 m (k w) (v w)) maps) mb ms lg fl rg :=
  ⟨h.queue, h.floors, fun hi => { h.sound hi with maps := Tbl.foldl_set_wf k (fun _ => v) (h.sound hi).maps }⟩

/-- Any fold whose every step keeps the form. -/
theorem Kept.maps_fold {β : Type} (h : Kept s0 p mem sto maps mb ms lg fl rg) (ws : List β)
    (f : Memory → β → Memory) (hf : ∀ m w, Memory.wf m = true → Memory.wf (f m w) = true) :
    Kept s0 p mem sto (ws.foldl f maps) mb ms lg fl rg := by
  refine ⟨h.queue, h.floors, fun hi => { h.sound hi with maps := ?_ }⟩
  have := (h.sound hi).maps
  revert this
  generalize maps = m
  induction ws generalizing m with
  | nil => exact id
  | cons w ws ih => exact fun hm => ih (f m w) (hf m w hm)

theorem Kept.maps_nil (h : Kept s0 p mem sto maps mb ms lg fl rg) : Kept s0 p mem sto [] mb ms lg fl rg :=
  ⟨h.queue, h.floors, fun hi => { h.sound hi with maps := rfl }⟩

theorem Kept.mailboxes_write (h : Kept s0 p mem sto maps mb ms lg fl rg) (a : Nat) (bs : List Byte) :
    Kept s0 p mem sto maps (Memory.write mb a bs) ms lg fl rg :=
  ⟨h.queue, h.floors, fun hi => { h.sound hi with mailboxes := Memory.write_wf a bs (h.sound hi).mailboxes }⟩

theorem Kept.mailboxes_cells {β : Type} (h : Kept s0 p mem sto maps mb ms lg fl rg) (ws : List β) (k : β → Nat)
    (v : β → Byte) :
    Kept s0 p mem sto maps (ws.foldl (fun m w => Tbl.set 0 m (k w) (v w)) mb) ms lg fl rg :=
  ⟨h.queue, h.floors, fun hi =>
    { h.sound hi with mailboxes := Tbl.foldl_set_wf k (fun _ => v) (h.sound hi).mailboxes }⟩

theorem Kept.mailboxes_nil (h : Kept s0 p mem sto maps mb ms lg fl rg) : Kept s0 p mem sto maps [] ms lg fl rg :=
  ⟨h.queue, h.floors, fun hi => { h.sound hi with mailboxes := rfl }⟩

theorem Kept.measure (h : Kept s0 p mem sto maps mb ms lg fl rg) {r : Nat} (hr : r ≠ 7) (m : List Byte) :
    Kept s0 p mem sto maps mb (ms.set r m) lg fl rg := by
  refine ⟨h.queue, h.floors, fun hi => { h.sound hi with count := ?_, m7 := ?_ }⟩
  · simpa using (h.sound hi).count
  · simpa [List.getElem?_set, hr] using (h.sound hi).m7

theorem Kept.log_filter (h : Kept s0 p mem sto maps mb ms lg fl rg) (f : List Byte → Bool) :
    Kept s0 p mem sto maps mb ms (lg.filter f) fl rg :=
  ⟨h.queue, h.floors, fun hi =>
    { h.sound hi with log := Nat.le_trans (List.length_filter_le f lg) (h.sound hi).log }⟩

theorem Kept.log_take (h : Kept s0 p mem sto maps mb ms lg fl rg) (e : List Byte) :
    Kept s0 p mem sto maps mb ms ((lg ++ [e]).take 64) fl rg :=
  ⟨h.queue, h.floors, fun hi => { h.sound hi with log := List.length_take_le _ _ }⟩

theorem Kept.ring_take (h : Kept s0 p mem sto maps mb ms lg fl rg) (r : BitVec 256) :
    Kept s0 p mem sto maps mb ms lg fl ((r :: rg).take 8192) :=
  ⟨h.queue, h.floors, fun hi => { h.sound hi with ring := List.length_take_le _ _ }⟩

/-! ### Combinators -/

theorem State.each_keep {α : Type} (h : Keep s0 s) (xs : List α) (f : State → α → State)
    (hf : ∀ s x, Keep s0 s → Keep s0 (f s x)) : Keep s0 (s.each xs f) := by
  unfold State.each
  induction xs generalizing s with
  | nil => exact h
  | cons x xs ih => exact ih (hf s x h)

/-- The same where `f` need keep only what a member of the list asks for. -/
theorem State.each_keep_of_mem {α : Type} (h : Keep s0 s) (xs : List α) (f : State → α → State)
    (hf : ∀ s x, x ∈ xs → Keep s0 s → Keep s0 (f s x)) : Keep s0 (s.each xs f) := by
  unfold State.each
  induction xs generalizing s with
  | nil => exact h
  | cons x xs ih =>
    exact ih (hf s x List.mem_cons_self h) fun u y hy => hf u y (List.mem_cons_of_mem _ hy)

theorem State.on_keep (h : Keep s0 s) (c : Bool) (f : State → State) (hf : ∀ s, Keep s0 s → Keep s0 (f s)) :
    Keep s0 (s.on c f) := by
  unfold State.on
  split
  · exact hf s h
  · exact h

theorem State.alerting_keep (h : Keep s0 s) (f : State → State) (hf : ∀ s, Keep s0 s → Keep s0 (f s)) :
    Keep s0 (s.alerting f) := by
  unfold State.alerting
  have := hf s h
  dsimp only
  split
  · exact this
  · exact Keep.mkB this.kept

theorem act_keep (h : Keep s0 s) (f : State → State) (hf : ∀ s, Keep s0 s → Keep s0 (f s)) : Keeps s0 (act s f) := by
  intro t ht
  unfold act at ht
  injection ht with ht
  subst ht
  split
  · exact h
  · exact hf s h

theorem KeepsOpt.some {t : State} (h : Keep s0 t) : KeepsOpt s0 (some t) := by
  intro u hu
  injection hu with hu
  exact hu ▸ h

theorem KeepsOpt.none : KeepsOpt s0 none := fun _ hu => by cases hu

theorem KeepsOpt.ite {c : Prop} [Decidable c] {a b : Option State} (ha : KeepsOpt s0 a) (hb : KeepsOpt s0 b) :
    KeepsOpt s0 (if c then a else b) := by
  by_cases hc : c
  · rw [if_pos hc]; exact ha
  · rw [if_neg hc]; exact hb

theorem KeepsOpt.get {o : Option State} {t : State} (h : KeepsOpt s0 o) (e : o = Option.some t) : Keep s0 t := h t e

theorem KeepsOpt.getD {o : Option State} (h : KeepsOpt s0 o) (hs : Keep s0 s) : Keep s0 (o.getD s) := by
  cases ho : o with
  | none => exact hs
  | some t => exact h t ho

theorem KeepsOpt2.some {r : Nat × State} (h : Keep s0 r.2) : KeepsOpt2 s0 (some r) := by
  intro u hu
  injection hu with hu
  exact hu ▸ h

theorem KeepsOpt2.none : KeepsOpt2 s0 none := fun _ hu => by cases hu

theorem KeepsOpt2.ite {c : Prop} [Decidable c] {a b : Option (Nat × State)} (ha : KeepsOpt2 s0 a)
    (hb : KeepsOpt2 s0 b) : KeepsOpt2 s0 (if c then a else b) := by
  by_cases hc : c
  · rw [if_pos hc]; exact ha
  · rw [if_neg hc]; exact hb

theorem KeepsOpt2.get {o : Option (Nat × State)} {r : Nat × State} (h : KeepsOpt2 s0 o) (e : o = Option.some r) :
    Keep s0 r.2 := h r e

theorem KeepsOpt2.get' {o : Option (Nat × State)} {n : Nat} {t : State} (h : KeepsOpt2 s0 o)
    (e : o = Option.some (n, t)) : Keep s0 t := h _ e

theorem Keeps.next {t : State} (h : Keep s0 t) : Keeps s0 (.next t) := by
  intro u hu
  injection hu with hu
  exact hu ▸ h

/-- What a function answers beside a value. -/
theorem Keep.snd {α : Type} {r : α × State} {x : α} {t : State} (h : Keep s0 r.2) (e : r = (x, t)) : Keep s0 t := by
  subst e; exact h

theorem Keep.fst {α : Type} {r : State × α} {x : α} {t : State} (h : Keep s0 r.1) (e : r = (t, x)) : Keep s0 t := by
  subst e; exact h

theorem Keep.foldl {β : Type} (h : Keep s0 s) (xs : List β) (f : State → β → State)
    (hf : ∀ u x, Keep s0 u → Keep s0 (f u x)) : Keep s0 (xs.foldl f s) := by
  induction xs generalizing s with
  | nil => exact h
  | cons x xs ih => exact ih (hf s x h)

theorem Keep.foldl1 {β γ : Type} {a : State × γ} (h : Keep s0 a.1) (xs : List β) (f : State × γ → β → State × γ)
    (hf : ∀ u x, Keep s0 u.1 → Keep s0 (f u x).1) : Keep s0 (xs.foldl f a).1 := by
  induction xs generalizing a with
  | nil => exact h
  | cons x xs ih => exact ih (hf a x h)

theorem Keep.foldl2 {β γ : Type} {a : γ × State} (h : Keep s0 a.2) (xs : List β) (f : γ × State → β → γ × State)
    (hf : ∀ u x, Keep s0 u.2 → Keep s0 (f u x).2) : Keep s0 (xs.foldl f a).2 := by
  induction xs generalizing a with
  | nil => exact h
  | cons x xs ih => exact ih (hf a x h)

theorem Keep.ite {c : Prop} [Decidable c] {a b : State} (ha : Keep s0 a) (hb : Keep s0 b) :
    Keep s0 (if c then a else b) := by
  by_cases hc : c
  · rw [if_pos hc]; exact ha
  · rw [if_neg hc]; exact hb

theorem Keep.ite1 {α : Type} {c : Prop} [Decidable c] {a b : State × α} (ha : Keep s0 a.1) (hb : Keep s0 b.1) :
    Keep s0 (if c then a else b).1 := by
  by_cases hc : c
  · rw [if_pos hc]; exact ha
  · rw [if_neg hc]; exact hb

theorem Keep.ite2 {α : Type} {c : Prop} [Decidable c] {a b : α × State} (ha : Keep s0 a.2) (hb : Keep s0 b.2) :
    Keep s0 (if c then a else b).2 := by
  by_cases hc : c
  · rw [if_pos hc]; exact ha
  · rw [if_neg hc]; exact hb

theorem Keep.ite11 {α β : Type} {c : Prop} [Decidable c] {a b : (State × α) × β} (ha : Keep s0 a.1.1) (hb : Keep s0 b.1.1) :
    Keep s0 (if c then a else b).1.1 := by
  by_cases hc : c
  · rw [if_pos hc]; exact ha
  · rw [if_neg hc]; exact hb

theorem Keep.ite22 {α β : Type} {c : Prop} [Decidable c] {a b : α × β × State} (ha : Keep s0 a.2.2) (hb : Keep s0 b.2.2) :
    Keep s0 (if c then a else b).2.2 := by
  by_cases hc : c
  · rw [if_pos hc]; exact ha
  · rw [if_neg hc]; exact hb

end Sys2Proof.Machine
end

