-- ==== Sys2Proof/Laws/KeepTick.lean ====
section
/-!
SUPPORT. What the operations of Machine/Tick.lean keep (Laws/Keep.lean).
-/

namespace Sys2Proof.Machine

theorem idleTick_keep (s : State) : Keeps s (idleTick s) := by
  intro t ht
  unfold idleTick at ht
  dsimp only at ht
  split at ht
  · injection ht with ht; subst ht; exact Keep.mk (Keep.refl s).kept
  · cases ht

theorem State.reach64_keep {s0 s : State} (h : Keep s0 s) (t : Nat) :
    Keep s0 (State.reach64 s t) := by
  unfold State.reach64
  repeat' first
    | with_reducible assumption | with_reducible intro _ | (with_reducible apply Keep.ite) | (dsimp only) | split
    | (with_reducible apply Keep.kept) | (with_reducible refine Keep.mk (Keep.kept ?_))

theorem State.reach_keep {s0 s : State} (h : Keep s0 s) (t : Nat) :
    Keep s0 (State.reach s t) := by
  unfold State.reach
  repeat' first
    | with_reducible assumption | with_reducible intro _ | (with_reducible apply State.reach64_keep) | (dsimp only)
    | split | (with_reducible apply Keep.kept) | (with_reducible refine Keep.mk (Keep.kept ?_))

end Sys2Proof.Machine
end

