-- ==== Sys2Proof/Laws/KeepOps.lean ====
section
/-!
SUPPORT. What the operations of Machine/Ops.lean keep (Laws/Keep.lean).
-/

namespace Sys2Proof.Machine

theorem State.draw_keep {s0 s : State} (h : Keep s0 s)  :
    Keep s0 (State.draw s).2 := by
  unfold State.draw
  repeat' first
    | with_reducible assumption | with_reducible intro _ | (dsimp only) | split | (with_reducible apply Keep.kept)
    | (with_reducible refine Keep.mk (Keep.kept ?_))

theorem State.emit_keep {s0 s : State} (h : Keep s0 s) (o : Out) :
    Keep s0 (State.emit s o) := by
  unfold State.emit
  repeat' first
    | with_reducible assumption | with_reducible intro _ | (dsimp only) | split | (with_reducible apply Keep.kept)
    | (with_reducible refine Keep.mk (Keep.kept ?_))

theorem State.setObj_keep {s0 s : State} (h : Keep s0 s) (idx sub v : Nat) :
    Keep s0 (State.setObj s idx sub v) := by
  unfold State.setObj
  repeat' first
    | with_reducible assumption | with_reducible intro _ | (with_reducible apply Keep.ite) | (dsimp only) | split
    | (with_reducible apply Keep.kept) | (with_reducible refine Keep.mk (Keep.kept ?_))

theorem State.count_keep {s0 s : State} (h : Keep s0 s) (idx sub : Nat) (n : Nat) :
    Keep s0 (State.count s idx sub n) := by
  unfold State.count
  repeat' first
    | with_reducible assumption | with_reducible intro _ | (with_reducible apply State.setObj_keep) | (dsimp only)
    | split | (with_reducible apply Keep.kept) | (with_reducible refine Keep.mk (Keep.kept ?_))

theorem State.count64_keep {s0 s : State} (h : Keep s0 s) (idx sub : Nat) (n : Nat) :
    Keep s0 (State.count64 s idx sub n) := by
  unfold State.count64
  repeat' first
    | with_reducible assumption | with_reducible intro _ | (with_reducible apply State.setObj_keep) | (dsimp only)
    | split | (with_reducible apply Keep.kept) | (with_reducible refine Keep.mk (Keep.kept ?_))

theorem State.setRec_keep {s0 s : State} (h : Keep s0 s) (idx sub : Nat) (v : List Byte) :
    Keep s0 (State.setRec s idx sub v) := by
  unfold State.setRec
  repeat' first
    | with_reducible assumption | with_reducible intro _ | (dsimp only) | split | (with_reducible apply Keep.kept)
    | (with_reducible refine Keep.mk (Keep.kept ?_))

theorem State.log_keep {s0 s : State} (h : Keep s0 s) (ev : Nat) (dom : Nat) (items : List (Nat × Nat)) :
    Keep s0 (State.log s ev dom items) := by
  unfold State.log
  repeat' first
    | with_reducible assumption | with_reducible intro _ | (with_reducible apply State.on_keep)
    | (with_reducible apply State.setObj_keep) | (with_reducible apply State.count64_keep)
    | (with_reducible apply State.take_keep) | (with_reducible apply Kept.ring_take) | (dsimp only) | split
    | (with_reducible apply Keep.mkF; (try dsimp only); with_reducible apply Kept.ring_take)
    | (with_reducible apply Keep.kept) | (with_reducible refine Keep.mkF (Keep.kept ?_))

theorem State.interrupt_keep {s0 s : State} (h : Keep s0 s) (v : Nat) :
    Keep s0 (State.interrupt s v) := by
  unfold State.interrupt
  repeat' first
    | with_reducible assumption | with_reducible intro _ | (with_reducible apply Keep.ite)
    | (with_reducible apply State.emit_keep) | (dsimp only) | split | (with_reducible apply Keep.kept)
    | (with_reducible refine Keep.mk (Keep.kept ?_))

theorem State.write_keep {s0 s : State} (h : Keep s0 s) (a : Nat) (bs : List Byte) :
    Keep s0 (State.write s a bs) := by
  unfold State.write
  repeat' first
    | with_reducible assumption | with_reducible intro _ | (with_reducible apply Kept.mem_write)
    | (with_reducible apply Kept.mem_set) | (with_reducible apply Kept.mem_cells) | (dsimp only) | split
    | (with_reducible apply Keep.mk; (try dsimp only); with_reducible apply Kept.mem_write)
    | (with_reducible apply Keep.mk; (try dsimp only); with_reducible apply Kept.mem_set)
    | (with_reducible apply Keep.mk; (try dsimp only); with_reducible apply Kept.mem_cells)
    | (with_reducible apply Keep.kept) | (with_reducible refine Keep.mk (Keep.kept ?_))

theorem State.writeBytes_keep {s0 s : State} (h : Keep s0 s) (ws : List (Nat × Byte)) :
    Keep s0 (State.writeBytes s ws) := by
  unfold State.writeBytes
  repeat' first
    | with_reducible assumption | with_reducible intro _ | (with_reducible apply Keep.foldl)
    | (with_reducible apply Keep.foldl1) | (with_reducible apply Keep.foldl2)
    | (with_reducible apply Kept.mem_write) | (with_reducible apply Kept.mem_set)
    | (with_reducible apply Kept.mem_cells) | (dsimp only) | split
    | (with_reducible apply Keep.mk; (try dsimp only); with_reducible apply Kept.mem_write)
    | (with_reducible apply Keep.mk; (try dsimp only); with_reducible apply Kept.mem_set)
    | (with_reducible apply Keep.mk; (try dsimp only); with_reducible apply Kept.mem_cells)
    | (with_reducible apply Keep.kept) | (with_reducible refine Keep.mk (Keep.kept ?_))

theorem State.poisonAt_keep {s0 s : State} (h : Keep s0 s) (a : Nat) :
    Keep s0 (State.poisonAt s a) := by
  unfold State.poisonAt
  repeat' first
    | with_reducible assumption | with_reducible intro _ | (dsimp only) | split | (with_reducible apply Keep.kept)
    | (with_reducible refine Keep.mk (Keep.kept ?_))

theorem State.storeWrite_keep {s0 s : State} (h : Keep s0 s) (core st off : Nat) (bs : List Byte) :
    Keep s0 (State.storeWrite s core st off bs) := by
  unfold State.storeWrite
  repeat' first
    | with_reducible assumption | with_reducible intro _ | (with_reducible apply State.write_keep)
    | (with_reducible apply Kept.stores_nil) | (with_reducible apply Kept.stores_write)
    | (with_reducible apply Kept.stores_cells) | (dsimp only) | split
    | (with_reducible apply Keep.mk; (try dsimp only); with_reducible apply Kept.stores_nil)
    | (with_reducible apply Keep.mk; (try dsimp only); with_reducible apply Kept.stores_write)
    | (with_reducible apply Keep.mk; (try dsimp only); with_reducible apply Kept.stores_cells)
    | (with_reducible apply Keep.kept) | (with_reducible refine Keep.mk (Keep.kept ?_))

theorem State.storeWriteRaw_keep {s0 s : State} (h : Keep s0 s) (c st off : Nat) (bs : List Byte) :
    Keep s0 (State.storeWriteRaw s c st off bs) := by
  unfold State.storeWriteRaw
  repeat' first
    | with_reducible assumption | with_reducible intro _ | (with_reducible apply Keep.ite)
    | (with_reducible apply State.storeWrite_keep) | (with_reducible apply Keep.foldl)
    | (with_reducible apply Keep.foldl1) | (with_reducible apply Keep.foldl2)
    | (with_reducible apply Kept.maps_nil) | (with_reducible apply Kept.maps_set)
    | (with_reducible apply Kept.maps_cells) | (dsimp only) | split
    | (with_reducible apply Keep.mk; (try dsimp only); with_reducible apply Kept.maps_nil)
    | (with_reducible apply Keep.mk; (try dsimp only); with_reducible apply Kept.maps_set)
    | (with_reducible apply Keep.mk; (try dsimp only); with_reducible apply Kept.maps_cells)
    | (with_reducible apply Keep.kept) | (with_reducible refine Keep.mk (Keep.kept ?_))

theorem State.storeBytes_keep {s0 s : State} (h : Keep s0 s) (ws : List (Nat × Byte)) :
    Keep s0 (State.storeBytes s ws) := by
  unfold State.storeBytes
  refine Keep.mk ((Kept.stores_cells h.kept ws _ _).maps_fold ws _ fun m w hm => ?_)
  dsimp only
  split
  · exact Tbl.foldl_set_wf _ (fun _ _ => 0) hm
  · exact hm

theorem State.setCore_keep {s0 s : State} (h : Keep s0 s) (c : Nat) (x : CoreSt) :
    Keep s0 (State.setCore s c x) := by
  unfold State.setCore
  repeat' first
    | with_reducible assumption | with_reducible intro _ | (dsimp only) | split | (with_reducible apply Keep.kept)
    | (with_reducible refine Keep.mk (Keep.kept ?_))

theorem State.mapCore_keep {s0 s : State} (h : Keep s0 s) (c : Nat) (f : CoreSt → CoreSt) :
    Keep s0 (State.mapCore s c f) := by
  unfold State.mapCore
  repeat' first
    | with_reducible assumption | with_reducible intro _ | (with_reducible apply State.setCore_keep) | (dsimp only)
    | split | (with_reducible apply Keep.kept) | (with_reducible refine Keep.mk (Keep.kept ?_))

theorem State.setDie_keep {s0 s : State} (h : Keep s0 s) (d : Nat) (p : CorePower) :
    Keep s0 (State.setDie s d p) := by
  unfold State.setDie
  repeat' first
    | with_reducible assumption | with_reducible intro _ | (dsimp only) | split | (with_reducible apply Keep.kept)
    | (with_reducible refine Keep.mk (Keep.kept ?_))

theorem State.setCtx_keep {s0 s : State} (h : Keep s0 s) (c x : Nat) (v : CtxSt) :
    Keep s0 (State.setCtx s c x v) := by
  unfold State.setCtx
  repeat' first
    | with_reducible assumption | with_reducible intro _ | (dsimp only) | split | (with_reducible apply Keep.kept)
    | (with_reducible refine Keep.mk (Keep.kept ?_))

theorem State.mapCtx_keep {s0 s : State} (h : Keep s0 s) (c x : Nat) (f : CtxSt → CtxSt) :
    Keep s0 (State.mapCtx s c x f) := by
  unfold State.mapCtx
  repeat' first
    | with_reducible assumption | with_reducible intro _ | (with_reducible apply State.setCtx_keep) | (dsimp only)
    | split | (with_reducible apply Keep.kept) | (with_reducible refine Keep.mk (Keep.kept ?_))

theorem State.setSem_keep {s0 s : State} (h : Keep s0 s) (c n : Nat) (v : SemSt) :
    Keep s0 (State.setSem s c n v) := by
  unfold State.setSem
  repeat' first
    | with_reducible assumption | with_reducible intro _ | (dsimp only) | split | (with_reducible apply Keep.kept)
    | (with_reducible refine Keep.mk (Keep.kept ?_))

theorem State.setMover_keep {s0 s : State} (h : Keep s0 s) (m : Nat) (v : MoverSt) :
    Keep s0 (State.setMover s m v) := by
  unfold State.setMover
  repeat' first
    | with_reducible assumption | with_reducible intro _ | (dsimp only) | split | (with_reducible apply Keep.kept)
    | (with_reducible refine Keep.mk (Keep.kept ?_))

theorem State.setLink_keep {s0 s : State} (h : Keep s0 s) (l : Nat) (v : LinkSt) :
    Keep s0 (State.setLink s l v) := by
  unfold State.setLink
  repeat' first
    | with_reducible assumption | with_reducible intro _ | (dsimp only) | split | (with_reducible apply Keep.kept)
    | (with_reducible refine Keep.mk (Keep.kept ?_))

theorem State.mapLink_keep {s0 s : State} (h : Keep s0 s) (l : Nat) (f : LinkSt → LinkSt) :
    Keep s0 (State.mapLink s l f) := by
  unfold State.mapLink
  repeat' first
    | with_reducible assumption | with_reducible intro _ | (with_reducible apply State.setLink_keep) | (dsimp only)
    | split | (with_reducible apply Keep.kept) | (with_reducible refine Keep.mk (Keep.kept ?_))

theorem State.setFlow_keep {s0 s : State} (h : Keep s0 s) (c : Nat) (v : Flow) :
    Keep s0 (State.setFlow s c v) := by
  unfold State.setFlow
  repeat' first
    | with_reducible assumption | with_reducible intro _ | (dsimp only) | split | (with_reducible apply Keep.kept)
    | (with_reducible refine Keep.mk (Keep.kept ?_))

end Sys2Proof.Machine
end

