-- ==== Sys2Proof/Laws/KeepFlags.lean ====
section
/-!
SUPPORT. What the operations of Machine/Flags.lean keep (Laws/Keep.lean).
-/

namespace Sys2Proof.Machine

theorem State.countFlushed_keep {s0 s : State} (h : Keep s0 s) (n : Nat) :
    Keep s0 (State.countFlushed s n) := by
  unfold State.countFlushed
  repeat' first
    | with_reducible assumption | with_reducible intro _ | (with_reducible apply State.on_keep)
    | (with_reducible apply State.count64_keep) | (dsimp only) | split | (with_reducible apply Keep.kept)
    | (with_reducible refine Keep.mk (Keep.kept ?_))

theorem State.sendDeltas_keep {s0 s : State} (h : Keep s0 s) (ds : List Delta) :
    Keep s0 (State.sendDeltas s ds) := by
  unfold State.sendDeltas
  repeat' first
    | with_reducible assumption | with_reducible intro _ | (dsimp only) | split | (with_reducible apply Keep.kept)
    | (with_reducible refine Keep.mk (Keep.kept ?_))

end Sys2Proof.Machine
end

