-- ==== Sys2Proof/Laws/KeepMemMap.lean ====
section
/-!
SUPPORT. What the operations of Machine/MemMap.lean keep (Laws/Keep.lean).
-/

namespace Sys2Proof.Machine

theorem State.setMem_keep {s0 s : State} (h : Keep s0 s) (f : MemCtl → MemCtl) :
    Keep s0 (State.setMem s f) := by
  unfold State.setMem
  repeat' first
    | with_reducible assumption | with_reducible intro _ | (dsimp only) | split | (with_reducible apply Keep.kept)
    | (with_reducible refine Keep.mk (Keep.kept ?_))

theorem State.setPc_keep {s0 s : State} (h : Keep s0 s) (p : Nat) (v : PcErr) :
    Keep s0 (State.setPc s p v) := by
  unfold State.setPc
  repeat' first
    | with_reducible assumption | with_reducible intro _ | (with_reducible apply State.setMem_keep) | (dsimp only)
    | split | (with_reducible apply Keep.kept) | (with_reducible refine Keep.mk (Keep.kept ?_))

theorem State.logPc_keep {s0 s : State} (h : Keep s0 s) (ev p : Nat) (a : Option Nat) :
    Keep s0 (State.logPc s ev p a) := by
  unfold State.logPc
  repeat' first
    | with_reducible assumption | with_reducible intro _ | (with_reducible apply State.log_keep) | (dsimp only)
    | split | (with_reducible apply Keep.kept) | (with_reducible refine Keep.mk (Keep.kept ?_))

theorem State.readPoison_keep {s0 s : State} (h : Keep s0 s) (a n : Nat) :
    Keep s0 (State.readPoison s a n) := by
  unfold State.readPoison
  repeat' first
    | with_reducible assumption | with_reducible intro _ | (with_reducible apply State.logPc_keep) | (dsimp only)
    | split | (with_reducible apply Keep.kept) | (with_reducible refine Keep.mk (Keep.kept ?_))

end Sys2Proof.Machine
end

