-- ==== Sys2Proof/Laws/KeepPackets.lean ====
section
/-!
SUPPORT. What the operations of Machine/Packets.lean keep (Laws/Keep.lean).
-/

namespace Sys2Proof.Machine

theorem State.owe_keep {s0 s : State} (h : Keep s0 s) (die port vc n : Nat) :
    Keep s0 (State.owe s die port vc n) := by
  unfold State.owe
  repeat' first
    | with_reducible assumption | with_reducible intro _ | (with_reducible apply Keep.ite)
    | (with_reducible apply State.mapLink_keep) | (dsimp only) | split | (with_reducible apply Keep.kept)
    | (with_reducible refine Keep.mk (Keep.kept ?_))

theorem State.returnCredits_keep {s0 s : State} (h : Keep s0 s) (l : Nat) :
    Keep s0 (State.returnCredits s l) := by
  unfold State.returnCredits
  repeat' first
    | with_reducible assumption | with_reducible intro _ | (with_reducible apply State.emit_keep)
    | (with_reducible apply State.mapLink_keep) | (dsimp only) | split | (with_reducible apply Keep.kept)
    | (with_reducible refine Keep.mk (Keep.kept ?_))

theorem State.addCredits_keep {s0 s : State} (h : Keep s0 s) (l : Nat) (credits : List Nat) :
    Keep s0 (State.addCredits s l credits) := by
  unfold State.addCredits
  repeat' first
    | with_reducible assumption | with_reducible intro _ | (with_reducible apply State.mapLink_keep) | (dsimp only)
    | split | (with_reducible apply Keep.kept) | (with_reducible refine Keep.mk (Keep.kept ?_))

theorem State.enqueue_keep {s0 s : State} (h : Keep s0 s) (l : Nat) (q : Queued) :
    Keep s0 (State.enqueue s l q) := by
  unfold State.enqueue
  repeat' first
    | with_reducible assumption | with_reducible intro _ | (with_reducible apply Keep.ite)
    | (with_reducible apply State.mapLink_keep) | (dsimp only) | split | (with_reducible apply Keep.kept)
    | (with_reducible refine Keep.mk (Keep.kept ?_))

end Sys2Proof.Machine
end

