-- ==== Sys2Proof/Laws/KeepHold.lean ====
section
/-!
SUPPORT. What the operations of Machine/Hold.lean keep (Laws/Keep.lean).
-/

namespace Sys2Proof.Machine

theorem State.flood_keep {s0 s : State} (h : Keep s0 s) (msg : BitVec 256) (except : Option Nat) :
    Keep s0 (State.flood s msg except) := by
  unfold State.flood
  repeat' first
    | with_reducible assumption | with_reducible intro _ | (with_reducible apply Keep.ite)
    | (with_reducible apply State.each_keep) | (with_reducible apply State.enqueue_keep) | (dsimp only) | split
    | (with_reducible apply Keep.kept) | (with_reducible refine Keep.mk (Keep.kept ?_))

theorem State.firstSeen_keep {s0 s : State} (h : Keep s0 s) (origin seq kind : Nat) :
    Keep s0 (State.firstSeen s origin seq kind).2 := by
  unfold State.firstSeen
  repeat' first
    | with_reducible assumption | with_reducible intro _ | (with_reducible apply Keep.ite)
    | (with_reducible apply Keep.ite2) | (dsimp only) | split | (with_reducible apply Keep.kept)
    | (with_reducible refine Keep.mk (Keep.kept ?_))

theorem State.setHold_keep {s0 s : State} (h : Keep s0 s) (f : HallHold → HallHold) :
    Keep s0 (State.setHold s f) := by
  unfold State.setHold
  repeat' first
    | with_reducible assumption | with_reducible intro _ | (dsimp only) | split | (with_reducible apply Keep.kept)
    | (with_reducible refine Keep.mk (Keep.kept ?_))

theorem State.originateHoldAt_keep {s0 s : State} (h : Keep s0 s) (cause tick : Nat) :
    Keep s0 (State.originateHoldAt s cause tick).2 := by
  unfold State.originateHoldAt
  repeat' first
    | with_reducible assumption | with_reducible intro _ | (with_reducible apply State.flood_keep)
    | (with_reducible apply State.firstSeen_keep) | (with_reducible apply State.setHold_keep)
    | (with_reducible refine Keep.snd ?_ (by assumption)) | (dsimp only) | split | (with_reducible apply Keep.kept)
    | (with_reducible refine Keep.mk (Keep.kept ?_))

theorem State.originateHold_keep {s0 s : State} (h : Keep s0 s) (cause : Nat) :
    Keep s0 (State.originateHold s cause).2 := by
  unfold State.originateHold
  repeat' first
    | with_reducible assumption | with_reducible intro _ | (with_reducible apply State.originateHoldAt_keep)
    | (with_reducible refine Keep.snd ?_ (by assumption)) | (dsimp only) | split | (with_reducible apply Keep.kept)
    | (with_reducible refine Keep.mk (Keep.kept ?_))

theorem State.originateResume_keep {s0 s : State} (h : Keep s0 s) (seq : Nat) :
    Keep s0 (State.originateResume s seq) := by
  unfold State.originateResume
  repeat' first
    | with_reducible assumption | with_reducible intro _ | (with_reducible apply Keep.ite)
    | (with_reducible apply State.flood_keep) | (with_reducible apply State.firstSeen_keep)
    | (with_reducible apply State.setHold_keep) | (with_reducible apply State.take_keep)
    | (with_reducible refine Keep.snd ?_ (by assumption)) | (dsimp only) | split | (with_reducible apply Keep.kept)
    | (with_reducible refine Keep.mk (Keep.kept ?_))

theorem State.schedFault_keep {s0 s : State} (h : Keep s0 s)  :
    Keep s0 (State.schedFault s) := by
  unfold State.schedFault
  repeat' first
    | with_reducible assumption | with_reducible intro _ | (with_reducible apply State.setHold_keep) | (dsimp only)
    | split | (with_reducible apply Keep.kept) | (with_reducible refine Keep.mk (Keep.kept ?_))

theorem State.stopAll_keep {s0 s : State} (h : Keep s0 s)  :
    Keep s0 (State.stopAll s) := by
  unfold State.stopAll
  repeat' first
    | with_reducible assumption | with_reducible intro _ | (with_reducible apply Keep.ite)
    | (with_reducible apply State.each_keep) | (dsimp only) | split | (with_reducible apply Keep.kept)
    | (with_reducible refine Keep.mk (Keep.kept ?_))

theorem State.faultCount_keep {s0 s : State} (h : Keep s0 s) (cause : Nat) :
    Keep s0 (State.faultCount s cause) := by
  unfold State.faultCount
  repeat' first
    | with_reducible assumption | with_reducible intro _ | (with_reducible apply State.count_keep) | (dsimp only)
    | split | (with_reducible apply Keep.kept) | (with_reducible refine Keep.mk (Keep.kept ?_))

theorem State.jobFail_keep {s0 s : State} (h : Keep s0 s) (cause : Nat) :
    Keep s0 (State.jobFail s cause) := by
  unfold State.jobFail
  repeat' first
    | with_reducible assumption | with_reducible intro _ | (with_reducible apply Keep.ite)
    | (with_reducible apply State.setObj_keep) | (with_reducible apply State.log_keep)
    | (with_reducible apply State.alerting_keep) | (with_reducible apply State.interrupt_keep)
    | (with_reducible apply State.setHold_keep) | (with_reducible apply State.originateHold_keep)
    | (with_reducible apply State.schedFault_keep) | (with_reducible apply State.stopAll_keep)
    | (with_reducible refine Keep.snd ?_ (by assumption)) | (dsimp only) | split | (with_reducible apply Keep.kept)
    | (with_reducible refine Keep.mk (Keep.kept ?_))

theorem State.outOfService_keep {s0 s : State} (h : Keep s0 s) (ev : Nat) :
    Keep s0 (State.outOfService s ev) := by
  unfold State.outOfService
  repeat' first
    | with_reducible assumption | with_reducible intro _ | (with_reducible apply Keep.ite)
    | (with_reducible apply State.setObj_keep) | (with_reducible apply State.log_keep)
    | (with_reducible apply State.alerting_keep) | (with_reducible apply State.interrupt_keep)
    | (with_reducible apply State.faultCount_keep) | (with_reducible apply State.jobFail_keep) | (dsimp only)
    | split | (with_reducible apply Keep.kept) | (with_reducible refine Keep.mk (Keep.kept ?_))

theorem State.countedReset_keep {s0 s : State} (h : Keep s0 s) (f : State → State) (hf : ∀ u, Keep s0 u → Keep s0 (f
      u)) :
    Keep s0 (State.countedReset s f) := by
  unfold State.countedReset
  repeat' first
    | with_reducible assumption | with_reducible intro _ | (with_reducible apply Keep.ite)
    | (with_reducible apply hf) | (with_reducible apply State.log_keep)
    | (with_reducible apply State.outOfService_keep) | (dsimp only) | split | (with_reducible apply Keep.kept)
    | (with_reducible refine Keep.mkF (Keep.kept ?_))

theorem State.timeLoss_keep {s0 s : State} (h : Keep s0 s)  :
    Keep s0 (State.timeLoss s) := by
  unfold State.timeLoss
  repeat' first
    | with_reducible assumption | with_reducible intro _ | (with_reducible apply Keep.ite)
    | (with_reducible apply State.log_keep) | (with_reducible apply State.faultCount_keep)
    | (with_reducible apply State.jobFail_keep) | (dsimp only) | split | (with_reducible apply Keep.kept)
    | (with_reducible refine Keep.mk (Keep.kept ?_))

end Sys2Proof.Machine
end

