-- ==== Sys2Proof/Laws/KeepSync.lean ====
section
/-!
SUPPORT. What the operations of Machine/Sync.lean keep (Laws/Keep.lean).
-/

namespace Sys2Proof.Machine

theorem State.retire_keep {s0 s : State} (h : Keep s0 s) (c x : Nat) :
    Keep s0 (State.retire s c x) := by
  unfold State.retire
  repeat' first
    | with_reducible assumption | with_reducible intro _ | (with_reducible apply State.mapCtx_keep) | (dsimp only)
    | split | (with_reducible apply Keep.kept) | (with_reducible refine Keep.mk (Keep.kept ?_))

theorem State.ctxEnded_keep {s0 s : State} (h : Keep s0 s) (c x : Nat) :
    Keep s0 (State.ctxEnded s c x) := by
  unfold State.ctxEnded
  repeat' first
    | with_reducible assumption | with_reducible intro _ | (with_reducible apply Keep.ite)
    | (with_reducible apply State.interrupt_keep) | (dsimp only) | split | (with_reducible apply Keep.kept)
    | (with_reducible refine Keep.mk (Keep.kept ?_))

theorem State.ctxStops_keep {s0 s : State} (h : Keep s0 s) (c x : Nat) :
    Keep s0 (State.ctxStops s c x) := by
  unfold State.ctxStops
  repeat' first
    | with_reducible assumption | with_reducible intro _ | (with_reducible apply State.emit_keep)
    | (with_reducible apply State.ctxEnded_keep) | (dsimp only) | split | (with_reducible apply Keep.kept)
    | (with_reducible refine Keep.mk (Keep.kept ?_))

theorem State.ctxFault_keep {s0 s : State} (h : Keep s0 s) (c x cause : Nat) :
    Keep s0 (State.ctxFault s c x cause) := by
  unfold State.ctxFault
  repeat' first
    | with_reducible assumption | with_reducible intro _ | (with_reducible apply State.on_keep)
    | (with_reducible apply State.count_keep) | (with_reducible apply State.log_keep)
    | (with_reducible apply State.setCtx_keep) | (with_reducible apply State.faultCount_keep)
    | (with_reducible apply State.jobFail_keep) | (with_reducible apply State.ctxStops_keep) | (dsimp only) | split
    | (with_reducible apply Keep.kept) | (with_reducible refine Keep.mk (Keep.kept ?_))

theorem State.brokenWait_keep {s0 s : State} (h : Keep s0 s) (c x : Nat) :
    Keep s0 (State.brokenWait s c x) := by
  unfold State.brokenWait
  repeat' first
    | with_reducible assumption | with_reducible intro _ | (with_reducible apply State.log_keep)
    | (with_reducible apply State.ctxFault_keep) | (dsimp only) | split | (with_reducible apply Keep.kept)
    | (with_reducible refine Keep.mk (Keep.kept ?_))

theorem State.evalSem_keep {s0 s : State} (h : Keep s0 s) (c n : Nat) :
    Keep s0 (State.evalSem s c n) := by
  unfold State.evalSem
  repeat' first
    | with_reducible assumption | with_reducible intro _ | (with_reducible apply Keep.ite)
    | (with_reducible apply State.count_keep) | (with_reducible apply State.setSem_keep)
    | (with_reducible apply State.each_keep) | (with_reducible apply State.retire_keep)
    | (with_reducible apply State.brokenWait_keep) | (dsimp only) | split | (with_reducible apply Keep.kept)
    | (with_reducible refine Keep.mk (Keep.kept ?_))

theorem State.breakSem_keep {s0 s : State} (h : Keep s0 s) (c n : Nat) :
    Keep s0 (State.breakSem s c n) := by
  unfold State.breakSem
  repeat' first
    | with_reducible assumption | with_reducible intro _ | (with_reducible apply State.setSem_keep)
    | (with_reducible apply State.evalSem_keep) | (dsimp only) | split | (with_reducible apply Keep.kept)
    | (with_reducible refine Keep.mk (Keep.kept ?_))

theorem State.wakeDie_keep {s0 s : State} (h : Keep s0 s) (d : Nat) :
    Keep s0 (State.wakeDie s d) := by
  unfold State.wakeDie
  repeat' first
    | with_reducible assumption | with_reducible intro _ | (dsimp only) | split | (with_reducible apply Keep.kept)
    | (with_reducible refine Keep.mk (Keep.kept ?_))

theorem State.wakeCore_keep {s0 s : State} (h : Keep s0 s) (c : Nat) :
    Keep s0 (State.wakeCore s c) := by
  unfold State.wakeCore
  repeat' first
    | with_reducible assumption | with_reducible intro _ | (with_reducible apply State.mapCore_keep)
    | (with_reducible apply State.wakeDie_keep) | (dsimp only) | split | (with_reducible apply Keep.kept)
    | (with_reducible refine Keep.mk (Keep.kept ?_))

theorem State.post_keep {s0 s : State} (h : Keep s0 s) (c sem n : Nat) (inner : Bool) :
    Keep s0 (State.post s c sem n inner) := by
  unfold State.post
  repeat' first
    | with_reducible assumption | with_reducible intro _ | (with_reducible apply Keep.ite)
    | (with_reducible apply State.count_keep) | (with_reducible apply State.log_keep)
    | (with_reducible apply State.mapCore_keep) | (with_reducible apply State.mapCtx_keep)
    | (with_reducible apply State.setSem_keep) | (with_reducible apply State.each_keep)
    | (with_reducible apply State.evalSem_keep) | (with_reducible apply State.breakSem_keep)
    | (with_reducible apply State.wakeCore_keep) | (dsimp only) | split | (with_reducible apply Keep.kept)
    | (with_reducible refine Keep.mk (Keep.kept ?_))

theorem State.postDone_keep {s0 s : State} (h : Keep s0 s) (c sem : Nat) (inner : Bool) :
    Keep s0 (State.postDone s c sem inner) := by
  unfold State.postDone
  repeat' first
    | with_reducible assumption | with_reducible intro _ | (with_reducible apply Keep.ite)
    | (with_reducible apply State.post_keep) | (dsimp only) | split | (with_reducible apply Keep.kept)
    | (with_reducible refine Keep.mk (Keep.kept ?_))

theorem State.breakDone_keep {s0 s : State} (h : Keep s0 s) (c sem : Nat) :
    Keep s0 (State.breakDone s c sem) := by
  unfold State.breakDone
  repeat' first
    | with_reducible assumption | with_reducible intro _ | (with_reducible apply Keep.ite)
    | (with_reducible apply State.breakSem_keep) | (dsimp only) | split | (with_reducible apply Keep.kept)
    | (with_reducible refine Keep.mk (Keep.kept ?_))

theorem State.breakProducer_keep {s0 s : State} (h : Keep s0 s) (dom : Nat) :
    Keep s0 (State.breakProducer s dom) := by
  unfold State.breakProducer
  repeat' first
    | with_reducible assumption | with_reducible intro _ | (with_reducible apply Keep.ite)
    | (with_reducible apply State.each_keep) | (with_reducible apply State.breakSem_keep) | (dsimp only) | split
    | (with_reducible apply Keep.kept) | (with_reducible refine Keep.mk (Keep.kept ?_))

theorem State.countStalls_keep {s0 s : State} (h : Keep s0 s)  :
    Keep s0 (State.countStalls s) := by
  unfold State.countStalls
  repeat' first
    | with_reducible assumption | with_reducible intro _ | (with_reducible apply State.count64_keep)
    | (with_reducible apply Keep.foldl) | (with_reducible apply Keep.foldl1) | (with_reducible apply Keep.foldl2)
    | (dsimp only) | split | (with_reducible apply Keep.kept) | (with_reducible refine Keep.mk (Keep.kept ?_))

theorem State.noteActive_keep {s0 s : State} (h : Keep s0 s) (c : Nat) :
    Keep s0 (State.noteActive s c) := by
  unfold State.noteActive
  repeat' first
    | with_reducible assumption | with_reducible intro _ | (with_reducible apply State.mapCore_keep) | (dsimp only)
    | split | (with_reducible apply Keep.kept) | (with_reducible refine Keep.mk (Keep.kept ?_))

theorem State.evalWaitQ_keep {s0 s : State} (h : Keep s0 s) (c : Nat) :
    Keep s0 (State.evalWaitQ s c) := by
  unfold State.evalWaitQ
  repeat' first
    | with_reducible assumption | with_reducible intro _ | (with_reducible apply Keep.ite)
    | (with_reducible apply State.each_keep) | (with_reducible apply State.retire_keep) | (dsimp only) | split
    | (with_reducible apply Keep.kept) | (with_reducible refine Keep.mk (Keep.kept ?_))

end Sys2Proof.Machine
end

