-- ==== Sys2Proof/Laws/KeepJunction.lean ====
section
/-!
SUPPORT. What the operations of Machine/Junction.lean keep (Laws/Keep.lean).
-/

namespace Sys2Proof.Machine

theorem State.deliver_keep {s0 s : State} (h : Keep s0 s) (p : Packet) :
    Keep s0 (State.deliver s p) := by
  unfold State.deliver
  repeat' first
    | with_reducible assumption | with_reducible intro _ | (with_reducible apply Keep.ite)
    | (with_reducible apply State.emit_keep) | (with_reducible apply State.count_keep)
    | (with_reducible apply State.log_keep) | (dsimp only) | split | (with_reducible apply Keep.kept)
    | (with_reducible refine Keep.mk (Keep.kept ?_))

theorem State.keepWaiting_keep {s0 s : State} (h : Keep s0 s) (w : Waiting) :
    Keep s0 (State.keepWaiting s w) := by
  unfold State.keepWaiting
  repeat' first
    | with_reducible assumption | with_reducible intro _ | (dsimp only) | split | (with_reducible apply Keep.kept)
    | (with_reducible refine Keep.mk (Keep.kept ?_))

theorem State.route_keep {s0 s : State} (h : Keep s0 s) (w : Waiting) (answer : State → Packet → State) (hanswer : ∀
      u x1, Keep s0 u → Keep s0 (answer u x1)) :
    Keep s0 (State.route s w answer) := by
  unfold State.route
  repeat' first
    | with_reducible assumption | with_reducible intro _ | (with_reducible apply Keep.ite)
    | (with_reducible apply hanswer) | (with_reducible apply State.count_keep)
    | (with_reducible apply State.log_keep) | (with_reducible apply State.owe_keep)
    | (with_reducible apply State.enqueue_keep) | (with_reducible apply State.deliver_keep)
    | (with_reducible apply State.keepWaiting_keep) | (dsimp only) | split | (with_reducible apply Keep.kept)
    | (with_reducible refine Keep.mk (Keep.kept ?_))

theorem State.inject_keep {s0 s : State} (h : Keep s0 s) (die : Nat) (p : Packet) (unit : Option Nat) :
    Keep s0 (State.inject s die p unit) := by
  unfold State.inject
  repeat' first
    | with_reducible assumption | with_reducible intro _ | (with_reducible apply Keep.ite)
    | (with_reducible apply State.keepWaiting_keep) | (with_reducible apply State.route_keep) | (dsimp only)
    | split | (with_reducible apply Keep.kept) | (with_reducible refine Keep.mk (Keep.kept ?_))

theorem State.errorTo_keep {s0 s : State} (h : Keep s0 s) (die : Nat) (p : Packet) (status : Nat) :
    Keep s0 (State.errorTo s die p status) := by
  unfold State.errorTo
  repeat' first
    | with_reducible assumption | with_reducible intro _ | (with_reducible apply State.inject_keep) | (dsimp only)
    | split | (with_reducible apply Keep.kept) | (with_reducible refine Keep.mk (Keep.kept ?_))

theorem State.refusePacket_keep {s0 s : State} (h : Keep s0 s) (die : Nat) (p : Packet) (status : Nat) :
    Keep s0 (State.refusePacket s die p status) := by
  unfold State.refusePacket
  repeat' first
    | with_reducible assumption | with_reducible intro _ | (with_reducible apply Keep.ite)
    | (with_reducible apply State.errorTo_keep) | (dsimp only) | split | (with_reducible apply Keep.kept)
    | (with_reducible refine Keep.mk (Keep.kept ?_))

theorem State.forward_keep {s0 s : State} (h : Keep s0 s) (die port : Nat) (p : Packet) :
    Keep s0 (State.forward s die port p) := by
  unfold State.forward
  repeat' first
    | with_reducible assumption | with_reducible intro _ | (with_reducible apply Keep.ite)
    | (with_reducible apply State.count_keep) | (with_reducible apply State.log_keep)
    | (with_reducible apply State.owe_keep) | (with_reducible apply State.route_keep)
    | (with_reducible apply State.inject_keep) | (with_reducible apply State.refusePacket_keep)
    | (with_reducible apply State.ok_keep) | (with_reducible refine Keep.fst ?_ (by assumption)) | (dsimp only)
    | split | (with_reducible apply Keep.kept) | (with_reducible refine Keep.mk (Keep.kept ?_))

theorem State.retryWaiting_keep {s0 s : State} (h : Keep s0 s)  :
    Keep s0 (State.retryWaiting s) := by
  unfold State.retryWaiting
  repeat' first
    | with_reducible assumption | with_reducible intro _ | (with_reducible apply Keep.ite)
    | (with_reducible apply State.each_keep) | (with_reducible apply State.keepWaiting_keep)
    | (with_reducible apply State.route_keep) | (with_reducible apply State.inject_keep) | (dsimp only) | split
    | (with_reducible apply Keep.kept) | (with_reducible refine Keep.mk (Keep.kept ?_))

theorem State.reroute_keep {s0 s : State} (h : Keep s0 s) (l : Nat) :
    Keep s0 (State.reroute s l) := by
  unfold State.reroute
  repeat' first
    | with_reducible assumption | with_reducible intro _ | (with_reducible apply State.setLink_keep)
    | (with_reducible apply State.each_keep) | (with_reducible apply State.route_keep)
    | (with_reducible apply State.inject_keep) | (dsimp only) | split | (with_reducible apply Keep.kept)
    | (with_reducible refine Keep.mk (Keep.kept ?_))

theorem State.sent_keep {s0 s : State} (h : Keep s0 s) (l : Nat) (q : Queued) :
    Keep s0 (State.sent s l q) := by
  unfold State.sent
  repeat' first
    | with_reducible assumption | with_reducible intro _ | (with_reducible apply State.emit_keep)
    | (with_reducible apply State.mapLink_keep) | (with_reducible apply State.owe_keep) | (dsimp only) | split
    | (with_reducible apply Keep.kept) | (with_reducible refine Keep.mk (Keep.kept ?_))

theorem State.sendFlits_keep {s0 s : State} (h : Keep s0 s) (l : Nat) (y0 : Nat) (y1 : Nat) (y2 : Option (Nat × Nat))
      :
    Keep s0 (State.sendFlits s l y0 y1 y2) := by
  induction y0 generalizing s l y1 y2 with
  | zero => exact h
  | succ n ih =>
    unfold State.sendFlits
    repeat' first
    | with_reducible assumption | with_reducible intro _ | (with_reducible apply Keep.ite)
    | (with_reducible apply ih) | (with_reducible apply State.setLink_keep)
    | (with_reducible apply State.sent_keep) | (with_reducible apply State.ok_keep)
    | (with_reducible refine Keep.fst ?_ (by assumption)) | (dsimp only) | split | (with_reducible apply Keep.kept)
    | (with_reducible refine Keep.mk (Keep.kept ?_))

theorem State.renewLease_keep {s0 s : State} (h : Keep s0 s) (c : Nat) :
    Keep s0 (State.renewLease s c) := by
  unfold State.renewLease
  repeat' first
    | with_reducible assumption | with_reducible intro _ | (with_reducible apply State.setFlow_keep) | (dsimp only)
    | split | (with_reducible apply Keep.kept) | (with_reducible refine Keep.mk (Keep.kept ?_))

theorem State.setPool_keep {s0 s : State} (h : Keep s0 s) (die n : Nat) :
    Keep s0 (State.setPool s die n) := by
  unfold State.setPool
  repeat' first
    | with_reducible assumption | with_reducible intro _ | (with_reducible apply Keep.ite) | (dsimp only) | split
    | (with_reducible apply Keep.kept) | (with_reducible refine Keep.mk (Keep.kept ?_))

theorem State.failIssuer_keep {s0 s : State} (h : Keep s0 s) (r : Request) :
    Keep s0 (State.failIssuer s r) := by
  unfold State.failIssuer
  repeat' first
    | with_reducible assumption | with_reducible intro _ | (with_reducible apply State.setMover_keep)
    | (dsimp only) | split | (with_reducible apply Keep.kept) | (with_reducible refine Keep.mk (Keep.kept ?_))

theorem State.queueRequests_keep {s0 s : State} (h : Keep s0 s) (rs : List Request) :
    Keep s0 (State.queueRequests s rs) := by
  unfold State.queueRequests
  repeat' first
    | with_reducible assumption | with_reducible intro _ | (with_reducible apply Keep.ite)
    | (with_reducible apply State.each_keep) | (with_reducible apply State.failIssuer_keep) | (dsimp only) | split
    | (with_reducible apply Keep.kept) | (with_reducible refine Keep.mk (Keep.kept ?_))

theorem State.releaseRequest_keep {s0 s : State} (h : Keep s0 s) (r : Request) (st : Nat) :
    Keep s0 (State.releaseRequest s r st) := by
  unfold State.releaseRequest
  repeat' first
    | with_reducible assumption | with_reducible intro _ | (with_reducible apply Keep.ite)
    | (with_reducible apply State.setFlow_keep) | (with_reducible apply State.setPool_keep) | (dsimp only) | split
    | (with_reducible apply Keep.kept) | (with_reducible refine Keep.mk (Keep.kept ?_))

theorem State.sendBreak_keep {s0 s : State} (h : Keep s0 s) (c : Nat) (f : Flow) :
    Keep s0 (State.sendBreak s c f) := by
  unfold State.sendBreak
  repeat' first
    | with_reducible assumption | with_reducible intro _ | (with_reducible apply State.inject_keep) | (dsimp only)
    | split | (with_reducible apply Keep.kept) | (with_reducible refine Keep.mk (Keep.kept ?_))

theorem State.endFlow_keep {s0 s : State} (h : Keep s0 s) (c : Nat) (f : Flow) (note : State → State) (hnote : ∀ u,
      Keep s0 u → Keep s0 (note u)) :
    Keep s0 (State.endFlow s c f note) := by
  unfold State.endFlow
  repeat' first
    | with_reducible assumption | with_reducible intro _ | (with_reducible apply hnote)
    | (with_reducible apply State.setObj_keep) | (with_reducible apply State.setFlow_keep)
    | (with_reducible apply State.each_keep) | (with_reducible apply State.setPool_keep)
    | (with_reducible apply State.failIssuer_keep) | (with_reducible apply Keep.foldl)
    | (with_reducible apply Keep.foldl1) | (with_reducible apply Keep.foldl2) | (dsimp only) | split
    | (with_reducible apply Keep.kept) | (with_reducible refine Keep.mk (Keep.kept ?_))

theorem State.breakFlow_keep {s0 s : State} (h : Keep s0 s) (c err : Nat) (tell : Bool) :
    Keep s0 (State.breakFlow s c err tell) := by
  unfold State.breakFlow
  repeat' first
    | with_reducible assumption | with_reducible intro _ | (with_reducible apply Keep.ite)
    | (with_reducible apply State.on_keep) | (with_reducible apply State.count_keep)
    | (with_reducible apply State.log_keep) | (with_reducible apply State.sendBreak_keep)
    | (with_reducible apply State.endFlow_keep) | (dsimp only) | split | (with_reducible apply Keep.kept)
    | (with_reducible refine Keep.mk (Keep.kept ?_))

theorem State.useFlow_keep {s0 s : State} (h : Keep s0 s) (c : Nat) :
    Keep s0 (State.useFlow s c) := by
  unfold State.useFlow
  repeat' first
    | with_reducible assumption | with_reducible intro _ | (with_reducible apply State.on_keep)
    | (with_reducible apply State.count64_keep) | (with_reducible apply State.readPoison_keep)
    | (with_reducible apply State.breakFlow_keep) | (with_reducible apply State.take_keep) | (dsimp only) | split
    | (with_reducible apply Keep.kept) | (with_reducible refine Keep.mk (Keep.kept ?_))

theorem State.issueRequest_keep {s0 s : State} (h : Keep s0 s) (r : Request) :
    Keep s0 (State.issueRequest s r) := by
  unfold State.issueRequest
  repeat' first
    | with_reducible assumption | with_reducible intro _ | (with_reducible apply Keep.ite)
    | (with_reducible apply State.on_keep) | (with_reducible apply State.setFlow_keep)
    | (with_reducible apply State.inject_keep) | (with_reducible apply State.errorTo_keep)
    | (with_reducible apply State.renewLease_keep) | (with_reducible apply State.setPool_keep)
    | (with_reducible apply State.useFlow_keep) | (dsimp only) | split | (with_reducible apply Keep.kept)
    | (with_reducible refine Keep.mk (Keep.kept ?_))

theorem State.breakOwned_keep {s0 s : State} (h : Keep s0 s) (dom : Nat) :
    Keep s0 (State.breakOwned s dom) := by
  unfold State.breakOwned
  repeat' first
    | with_reducible assumption | with_reducible intro _ | (with_reducible apply Keep.ite)
    | (with_reducible apply State.each_keep) | (with_reducible apply State.breakFlow_keep) | (dsimp only) | split
    | (with_reducible apply Keep.kept) | (with_reducible refine Keep.mk (Keep.kept ?_))

theorem State.releaseHolds_keep {s0 s : State} (h : Keep s0 s) (dom : Nat) :
    Keep s0 (State.releaseHolds s dom) := by
  unfold State.releaseHolds
  repeat' first
    | with_reducible assumption | with_reducible intro _ | (with_reducible apply State.breakProducer_keep)
    | (with_reducible apply State.breakOwned_keep) | (dsimp only) | split | (with_reducible apply Keep.kept)
    | (with_reducible refine Keep.mk (Keep.kept ?_))

theorem State.flushBreaks_keep {s0 s : State} (h : Keep s0 s)  :
    Keep s0 (State.flushBreaks s) := by
  unfold State.flushBreaks
  repeat' first
    | with_reducible assumption | with_reducible intro _ | (with_reducible apply State.emit_keep)
    | (with_reducible apply State.each_keep) | (dsimp only) | split | (with_reducible apply Keep.kept)
    | (with_reducible refine Keep.mk (Keep.kept ?_))

end Sys2Proof.Machine
end

