-- ==== Sys2Proof/Laws/KeepResets.lean ====
section
/-!
SUPPORT. What the operations of Machine/Resets.lean keep (Laws/Keep.lean).
-/

namespace Sys2Proof.Machine

theorem State.landCoded_keep {s0 s : State} (h : Keep s0 s) (w : SlotWrite) :
    Keep s0 (State.landCoded s w) := by
  unfold State.landCoded
  repeat' first
    | with_reducible assumption | with_reducible intro _ | (with_reducible apply Keep.ite)
    | (with_reducible apply State.writeBytes_keep) | (with_reducible apply Keep.foldl)
    | (with_reducible apply Keep.foldl1) | (with_reducible apply Keep.foldl2)
    | (with_reducible apply Kept.stores_nil) | (with_reducible apply Kept.stores_write)
    | (with_reducible apply Kept.stores_cells) | (with_reducible apply Kept.maps_nil)
    | (with_reducible apply Kept.maps_set) | (with_reducible apply Kept.maps_cells) | (dsimp only) | split
    | (with_reducible apply Keep.mk; (try dsimp only); with_reducible apply Kept.stores_nil)
    | (with_reducible apply Keep.mk; (try dsimp only); with_reducible apply Kept.stores_write)
    | (with_reducible apply Keep.mk; (try dsimp only); with_reducible apply Kept.stores_cells)
    | (with_reducible apply Keep.mk; (try dsimp only); with_reducible apply Kept.maps_nil)
    | (with_reducible apply Keep.mk; (try dsimp only); with_reducible apply Kept.maps_set)
    | (with_reducible apply Keep.mk; (try dsimp only); with_reducible apply Kept.maps_cells)
    | (with_reducible apply Keep.kept) | (with_reducible refine Keep.mk (Keep.kept ?_))

theorem State.partialWrites_keep {s0 s : State} (h : Keep s0 s) (r : MovRun) :
    Keep s0 (State.partialWrites s r) := by
  unfold State.partialWrites
  repeat' first
    | with_reducible assumption | with_reducible intro _ | (with_reducible apply Keep.ite)
    | (with_reducible apply State.draw_keep) | (with_reducible apply State.writeBytes_keep)
    | (with_reducible apply State.storeBytes_keep) | (with_reducible apply State.each_keep)
    | (with_reducible apply State.landCoded_keep) | (with_reducible apply Keep.foldl)
    | (with_reducible apply Keep.foldl1) | (with_reducible apply Keep.foldl2)
    | (with_reducible apply Kept.stores_nil) | (with_reducible apply Kept.stores_write)
    | (with_reducible apply Kept.stores_cells) | (with_reducible refine Keep.snd ?_ (by assumption)) | (dsimp only)
    | split | (with_reducible apply Keep.mk; (try dsimp only); with_reducible apply Kept.stores_nil)
    | (with_reducible apply Keep.mk; (try dsimp only); with_reducible apply Kept.stores_write)
    | (with_reducible apply Keep.mk; (try dsimp only); with_reducible apply Kept.stores_cells)
    | (with_reducible apply Keep.kept) | (with_reducible refine Keep.mk (Keep.kept ?_))

theorem State.releaseClaims_keep {s0 s : State} (h : Keep s0 s) (m : Nat) :
    Keep s0 (State.releaseClaims s m) := by
  unfold State.releaseClaims
  repeat' first
    | with_reducible assumption | with_reducible intro _ | (with_reducible apply Keep.ite) | (dsimp only) | split
    | (with_reducible apply Keep.kept) | (with_reducible refine Keep.mk (Keep.kept ?_))

theorem State.moverReset_keep {s0 s : State} (h : Keep s0 s) (m : Nat) :
    Keep s0 (State.moverReset s m) := by
  unfold State.moverReset
  repeat' first
    | with_reducible assumption | with_reducible intro _ | (with_reducible apply State.log_keep)
    | (with_reducible apply State.setMover_keep) | (with_reducible apply State.each_keep)
    | (with_reducible apply State.breakDone_keep) | (with_reducible apply State.evalWaitQ_keep)
    | (with_reducible apply State.releaseHolds_keep) | (with_reducible apply State.partialWrites_keep)
    | (with_reducible apply State.releaseClaims_keep) | (dsimp only) | split | (with_reducible apply Keep.kept)
    | (with_reducible refine Keep.mk (Keep.kept ?_))

theorem State.discardPasses_keep {s0 s : State} (h : Keep s0 s) (c : Nat) :
    Keep s0 (State.discardPasses s c) := by
  unfold State.discardPasses
  repeat' first
    | with_reducible assumption | with_reducible intro _ | (with_reducible apply Keep.ite)
    | (with_reducible apply State.draw_keep) | (with_reducible apply State.on_keep)
    | (with_reducible apply State.log_keep) | (with_reducible apply State.storeWrite_keep)
    | (with_reducible apply State.setCore_keep) | (with_reducible apply State.each_keep)
    | (with_reducible apply State.countStalls_keep) | (with_reducible apply State.take_keep)
    | (with_reducible apply Keep.foldl) | (with_reducible apply Keep.foldl1) | (with_reducible apply Keep.foldl2)
    | (with_reducible refine Keep.snd ?_ (by assumption)) | (dsimp only) | split | (with_reducible apply Keep.kept)
    | (with_reducible refine Keep.mk (Keep.kept ?_))

theorem State.coreReset_keep {s0 s : State} (h : Keep s0 s) (c : Nat) :
    Keep s0 (State.coreReset s c) := by
  unfold State.coreReset
  repeat' first
    | with_reducible assumption | with_reducible intro _ | (with_reducible apply State.on_keep)
    | (with_reducible apply State.setCore_keep) | (with_reducible apply State.setCtx_keep)
    | (with_reducible apply State.setSem_keep) | (with_reducible apply State.each_keep)
    | (with_reducible apply State.ctxEnded_keep) | (with_reducible apply State.releaseHolds_keep)
    | (with_reducible apply State.discardPasses_keep) | (dsimp only) | split | (with_reducible apply Keep.kept)
    | (with_reducible refine Keep.mk (Keep.kept ?_))

theorem State.replayReset_keep {s0 s : State} (h : Keep s0 s) (c : Nat) :
    Keep s0 (State.replayReset s c) := by
  unfold State.replayReset
  repeat' first
    | with_reducible assumption | with_reducible intro _ | (with_reducible apply State.count_keep)
    | (with_reducible apply State.mapCore_keep) | (with_reducible apply State.setCtx_keep)
    | (with_reducible apply State.setSem_keep) | (with_reducible apply State.each_keep)
    | (with_reducible apply State.noteActive_keep) | (with_reducible apply State.breakOwned_keep)
    | (with_reducible apply State.discardPasses_keep) | (dsimp only) | split | (with_reducible apply Keep.kept)
    | (with_reducible refine Keep.mk (Keep.kept ?_))

end Sys2Proof.Machine
end

