-- ==== Sys2Proof/Laws/KeepIssue.lean ====
section
/-!
SUPPORT. What the operations of Machine/Issue.lean keep (Laws/Keep.lean).
-/

namespace Sys2Proof.Machine

theorem State.reject_keep {s0 s : State} (h : Keep s0 s) (c x : Nat) (r : Reject) :
    Keep s0 (State.reject s c x r) := by
  unfold State.reject
  repeat' first
    | with_reducible assumption | with_reducible intro _ | (with_reducible apply State.on_keep)
    | (with_reducible apply State.count_keep) | (with_reducible apply State.log_keep)
    | (with_reducible apply State.ctxFault_keep) | (dsimp only) | split | (with_reducible apply Keep.kept)
    | (with_reducible refine Keep.mk (Keep.kept ?_))

theorem State.tookTurn_keep {s0 s : State} (h : Keep s0 s) (c q x : Nat) :
    Keep s0 (State.tookTurn s c q x) := by
  unfold State.tookTurn
  repeat' first
    | with_reducible assumption | with_reducible intro _ | (with_reducible apply State.mapCore_keep) | (dsimp only)
    | split | (with_reducible apply Keep.kept) | (with_reducible refine Keep.mk (Keep.kept ?_))

theorem State.enterQueue_keep {s0 s : State} (h : Keep s0 s) (c x q : Nat) (xs : List Nat) (room : Bool) (enter :
      State → State) (w : Wait) (henter : ∀ u, Keep s0 u → Keep s0 (enter u)) :
    Keep s0 (State.enterQueue s c x q xs room enter w) := by
  unfold State.enterQueue
  repeat' first
    | with_reducible assumption | with_reducible intro _ | (with_reducible apply Keep.ite)
    | (with_reducible apply henter) | (with_reducible apply State.mapCtx_keep)
    | (with_reducible apply State.retire_keep) | (with_reducible apply State.tookTurn_keep) | (dsimp only) | split
    | (with_reducible apply Keep.kept) | (with_reducible refine Keep.mk (Keep.kept ?_))

theorem State.streamMiss_keep {s0 s : State} (h : Keep s0 s) (c x : Nat) :
    Keep s0 (State.streamMiss s c x) := by
  unfold State.streamMiss
  repeat' first
    | with_reducible assumption | with_reducible intro _ | (with_reducible apply State.count64_keep)
    | (with_reducible apply State.mapCtx_keep) | (dsimp only) | split | (with_reducible apply Keep.kept)
    | (with_reducible refine Keep.mk (Keep.kept ?_))

theorem State.issue_keep {s0 s : State} (h : Keep s0 s) (c x op : Nat) (enc : Nat → Option Reject) (dyn : State → Nat
      → Option Reject) (run : State → Nat → State) (hrun : ∀ u x1, Keep s0 u → Keep s0 (run u x1)) :
    Keep s0 (State.issue s c x op enc dyn run) := by
  unfold State.issue
  repeat' first
    | with_reducible assumption | with_reducible intro _ | (with_reducible apply Keep.ite)
    | (with_reducible apply hdyn) | (with_reducible apply hrun) | (with_reducible apply State.count64_keep)
    | (with_reducible apply State.retire_keep) | (with_reducible apply State.ctxFault_keep)
    | (with_reducible apply State.reject_keep) | (with_reducible apply State.tookTurn_keep)
    | (with_reducible apply State.streamMiss_keep) | (dsimp only) | split | (with_reducible apply Keep.kept)
    | (with_reducible refine Keep.mk (Keep.kept ?_))

end Sys2Proof.Machine
end

