-- ==== Sys2Proof/Laws/KeepRecovery.lean ====
section
/-!
SUPPORT. What the operations of Machine/Recovery.lean keep (Laws/Keep.lean).
-/

namespace Sys2Proof.Machine

theorem State.setFaults_keep {s0 s : State} (h : Keep s0 s) (f : Faults → Faults)
    (hf : ∀ x, (f x).ring = x.ring) : Keep s0 (State.setFaults s f) := by
  unfold State.setFaults
  have : Kept s0 s.pending s.mem s.stores s.maps s.mailboxes s.boot.measures s.boot.log s.boot.floors
      (f s.faults).ring := by
    rw [hf]
    exact h.kept
  exact this

theorem State.setRecovery_keep {s0 s : State} (h : Keep s0 s) (c : Nat) (r : Option Recovery) :
    Keep s0 (State.setRecovery s c r) := by
  unfold State.setRecovery
  repeat' first
    | with_reducible assumption | with_reducible intro _ | (with_reducible apply State.setFaults_keep)
    | with_reducible rfl | (dsimp only) | split | (with_reducible apply Keep.kept)
    | (with_reducible refine Keep.mk (Keep.kept ?_))

theorem State.snapshot_keep {s0 s : State} (h : Keep s0 s) (c : Nat) :
    Keep s0 (State.snapshot s c) := by
  unfold State.snapshot
  repeat' first
    | with_reducible assumption | with_reducible intro _ | (with_reducible apply State.log_keep)
    | (with_reducible apply State.mapCtx_keep) | (with_reducible apply State.each_keep)
    | (with_reducible apply State.countStalls_keep) | (with_reducible apply State.setFaults_keep)
    | (with_reducible apply State.take_keep) | with_reducible rfl | (dsimp only) | split
    | (with_reducible apply Keep.kept) | (with_reducible refine Keep.mk (Keep.kept ?_))

theorem State.startRecovery_keep {s0 s : State} (h : Keep s0 s) (c cause : Nat) (mover : Option (Fin 2)) :
    Keep s0 (State.startRecovery s c cause mover) := by
  unfold State.startRecovery
  repeat' first
    | with_reducible assumption | with_reducible intro _ | (with_reducible apply Keep.ite)
    | (with_reducible apply State.originateHold_keep) | (with_reducible apply State.schedFault_keep)
    | (with_reducible apply State.faultCount_keep) | (with_reducible apply State.jobFail_keep)
    | (with_reducible apply State.setRecovery_keep) | (with_reducible apply State.snapshot_keep)
    | (with_reducible refine Keep.snd ?_ (by assumption)) | (dsimp only) | split | (with_reducible apply Keep.kept)
    | (with_reducible refine Keep.mk (Keep.kept ?_))

theorem State.startSuspects_keep {s0 s : State} (h : Keep s0 s) (c : Nat) (r : Recovery) :
    Keep s0 (State.startSuspects s c r) := by
  unfold State.startSuspects
  repeat' first
    | with_reducible assumption | with_reducible intro _ | (with_reducible apply State.log_keep)
    | (with_reducible apply State.countedReset_keep) | (with_reducible apply State.setRecovery_keep) | (dsimp only)
    | split | (with_reducible apply Keep.kept) | (with_reducible refine Keep.mk (Keep.kept ?_))

theorem State.hang_keep {s0 s : State} (h : Keep s0 s) (c cause : Nat) (mover : Option (Fin 2)) :
    Keep s0 (State.hang s c cause mover) := by
  unfold State.hang
  repeat' first
    | with_reducible assumption | with_reducible intro _ | (with_reducible apply Keep.ite)
    | (with_reducible apply State.originateHold_keep) | (with_reducible apply State.schedFault_keep)
    | (with_reducible apply State.faultCount_keep) | (with_reducible apply State.jobFail_keep)
    | (with_reducible apply State.setRecovery_keep) | (with_reducible apply State.snapshot_keep)
    | (with_reducible apply State.startRecovery_keep) | (with_reducible apply State.startSuspects_keep)
    | (with_reducible refine Keep.snd ?_ (by assumption)) | (dsimp only) | split | (with_reducible apply Keep.kept)
    | (with_reducible refine Keep.mk (Keep.kept ?_))

theorem State.guilty_keep {s0 s : State} (h : Keep s0 s) (c x : Nat) :
    Keep s0 (State.guilty s c x) := by
  unfold State.guilty
  repeat' first
    | with_reducible assumption | with_reducible intro _ | (with_reducible apply State.log_keep)
    | (with_reducible apply State.mapCore_keep) | (with_reducible apply State.faultCount_keep)
    | (with_reducible apply State.jobFail_keep) | (with_reducible apply State.setRecovery_keep) | (dsimp only)
    | split | (with_reducible apply Keep.kept) | (with_reducible refine Keep.mk (Keep.kept ?_))

theorem execContextPaceExpire_keep {s0 s : State} (h : Keep s0 s) (core : Core) (ctx : Ctx) :
    Keeps s0 (execContextPaceExpire core ctx s) := by
  unfold execContextPaceExpire
  repeat' first
    | with_reducible assumption | (with_reducible apply act_keep) | with_reducible intro _
    | (with_reducible apply Keep.ite) | (with_reducible apply State.reach_keep)
    | (with_reducible apply State.log_keep) | (with_reducible apply State.faultCount_keep)
    | (with_reducible apply State.hang_keep) | (with_reducible apply State.guilty_keep) | (dsimp only) | split
    | (with_reducible apply Keep.kept) | (with_reducible refine Keep.mk (Keep.kept ?_))

theorem execMoverPaceExpire_keep {s0 s : State} (h : Keep s0 s) (mover : Mover) :
    Keeps s0 (execMoverPaceExpire mover s) := by
  unfold execMoverPaceExpire
  repeat' first
    | with_reducible assumption | (with_reducible apply act_keep) | with_reducible intro _
    | (with_reducible apply Keep.ite) | (with_reducible apply State.reach_keep)
    | (with_reducible apply State.log_keep) | (with_reducible apply State.faultCount_keep)
    | (with_reducible apply State.hang_keep) | (dsimp only) | split | (with_reducible apply Keep.kept)
    | (with_reducible refine Keep.mk (Keep.kept ?_))

theorem State.replayMover_keep {s0 s : State} (h : Keep s0 s) (c : Nat) (m : Fin 2) :
    Keep s0 (State.replayMover s c m) := by
  unfold State.replayMover
  repeat' first
    | with_reducible assumption | with_reducible intro _ | (with_reducible apply Keep.ite)
    | (with_reducible apply State.mapCtx_keep) | (with_reducible apply State.setSem_keep)
    | (with_reducible apply State.each_keep) | (with_reducible apply State.moverReset_keep) | (dsimp only) | split
    | (with_reducible apply Keep.kept) | (with_reducible refine Keep.mk (Keep.kept ?_))

theorem State.doReplay_keep {s0 s : State} (h : Keep s0 s) (c cause : Nat) (m : Option (Fin 2)) :
    Keep s0 (State.doReplay s c cause m) := by
  unfold State.doReplay
  repeat' first
    | with_reducible assumption | with_reducible intro _ | (with_reducible apply State.log_keep)
    | (with_reducible apply State.replayReset_keep) | (with_reducible apply State.replayMover_keep) | (dsimp only)
    | split | (with_reducible apply Keep.kept) | (with_reducible refine Keep.mk (Keep.kept ?_))

theorem execReplay_keep {s0 s : State} (h : Keep s0 s) (core : Core) :
    Keeps s0 (execReplay core s) := by
  unfold execReplay
  repeat' first
    | with_reducible assumption | (with_reducible apply act_keep) | with_reducible intro _
    | (with_reducible apply Keep.ite) | (with_reducible apply State.emit_keep)
    | (with_reducible apply State.on_keep) | (with_reducible apply State.countedReset_keep)
    | (with_reducible apply State.wakeCore_keep) | (with_reducible apply State.setRecovery_keep)
    | (with_reducible apply State.doReplay_keep) | (dsimp only) | split | (with_reducible apply Keep.kept)
    | (with_reducible refine Keep.mk (Keep.kept ?_))

theorem execIsolate_keep {s0 s : State} (h : Keep s0 s) (core : Core) (ctx : Ctx) :
    Keeps s0 (execIsolate core ctx s) := by
  unfold execIsolate
  repeat' first
    | with_reducible assumption | (with_reducible apply act_keep) | with_reducible intro _
    | (with_reducible apply Keep.ite) | (with_reducible apply State.emit_keep)
    | (with_reducible apply State.mapCore_keep) | (with_reducible apply State.wakeCore_keep)
    | (with_reducible apply State.setRecovery_keep) | (with_reducible apply State.doReplay_keep) | (dsimp only)
    | split | (with_reducible apply Keep.kept) | (with_reducible refine Keep.mk (Keep.kept ?_))

theorem State.coreDead_keep {s0 s : State} (h : Keep s0 s) (c : Nat) :
    Keep s0 (State.coreDead s c) := by
  unfold State.coreDead
  repeat' first
    | with_reducible assumption | with_reducible intro _ | (with_reducible apply State.outOfService_keep)
    | (with_reducible apply State.setFaults_keep) | (with_reducible apply State.setRecovery_keep)
    | with_reducible rfl | (dsimp only) | split | (with_reducible apply Keep.kept)
    | (with_reducible refine Keep.mk (Keep.kept ?_))

theorem execRerunEnd_keep {s0 s : State} (h : Keep s0 s) (core : Core) :
    Keeps s0 (execRerunEnd core s) := by
  unfold execRerunEnd
  repeat' first
    | with_reducible assumption | (with_reducible apply act_keep) | with_reducible intro _
    | (with_reducible apply Keep.ite) | (with_reducible apply State.log_keep)
    | (with_reducible apply State.mapCore_keep) | (with_reducible apply State.originateResume_keep)
    | (with_reducible apply State.setFaults_keep) | (with_reducible apply State.setRecovery_keep)
    | (with_reducible apply State.coreDead_keep) | with_reducible rfl | (dsimp only) | split
    | (with_reducible apply Keep.kept) | (with_reducible refine Keep.mk (Keep.kept ?_))

end Sys2Proof.Machine
end

