-- ==== Sys2Proof/Laws/KeepFrames.lean ====
section
/-!
SUPPORT. What the operations of Machine/Frames.lean keep (Laws/Keep.lean).
-/

namespace Sys2Proof.Machine

theorem State.runTile_keep {s0 s : State} (h : Keep s0 s) (c : Nat) (g : Running) (t : Nat) (bs : List Byte) :
    Keep s0 (State.runTile s c g t bs).1 := by
  unfold State.runTile
  repeat' first
    | with_reducible assumption | with_reducible intro _ | (with_reducible apply Keep.ite)
    | (with_reducible apply Keep.ite1) | (with_reducible apply State.draw_keep)
    | (with_reducible apply State.on_keep) | (with_reducible apply State.count64_keep)
    | (with_reducible apply State.countFlushed_keep) | (with_reducible apply Keep.foldl)
    | (with_reducible apply Keep.foldl1) | (with_reducible apply Keep.foldl2)
    | (with_reducible refine Keep.snd ?_ (by assumption)) | (dsimp only) | split | (with_reducible apply Keep.kept)
    | (with_reducible refine Keep.mk (Keep.kept ?_))

theorem State.loadBank_keep {s0 s : State} (h : Keep s0 s) (c : Nat) (r : PassRec) (t : Nat) (bs : List Byte) :
    Keep s0 (State.loadBank s c r t bs) := by
  unfold State.loadBank
  repeat' first
    | with_reducible assumption | with_reducible intro _ | (with_reducible apply Keep.ite)
    | (with_reducible apply State.mapCore_keep) | (dsimp only) | split | (with_reducible apply Keep.kept)
    | (with_reducible refine Keep.mk (Keep.kept ?_))

theorem State.runTiles_keep {s0 s : State} (h : Keep s0 s) (c : Nat) (g : Running) (y0 : Nat) :
    Keep s0 (State.runTiles s c g y0).1 := by
  induction y0 generalizing s c g with
  | zero => exact h
  | succ n ih =>
    unfold State.runTiles
    repeat' first
    | with_reducible assumption | with_reducible intro _ | (with_reducible apply ih)
    | (with_reducible apply State.on_keep) | (with_reducible apply State.count64_keep)
    | (with_reducible apply State.runTile_keep) | (with_reducible apply State.loadBank_keep)
    | (with_reducible apply State.ok_keep) | (with_reducible refine Keep.fst ?_ (by assumption)) | (dsimp only)
    | split | (with_reducible apply Keep.kept) | (with_reducible refine Keep.mk (Keep.kept ?_))

theorem State.finishTiles_keep {s0 s : State} (h : Keep s0 s) (c : Nat) (g : Running) :
    Keep s0 (State.finishTiles s c g) := by
  unfold State.finishTiles
  repeat' first
    | with_reducible assumption | with_reducible intro _ | (with_reducible apply State.mapCore_keep)
    | (with_reducible apply Keep.foldl) | (with_reducible apply Keep.foldl1) | (with_reducible apply Keep.foldl2)
    | (dsimp only) | split | (with_reducible apply Keep.kept) | (with_reducible refine Keep.mk (Keep.kept ?_))

theorem State.stallSlot_keep {s0 s : State} (h : Keep s0 s) (c : Nat) (g : Running) (addr rule : Nat) :
    Keep s0 (State.stallSlot s c g addr rule) := by
  unfold State.stallSlot
  repeat' first
    | with_reducible assumption | with_reducible intro _ | (with_reducible apply State.count_keep)
    | (with_reducible apply State.log_keep) | (with_reducible apply State.mapCore_keep) | (dsimp only) | split
    | (with_reducible apply Keep.kept) | (with_reducible refine Keep.mk (Keep.kept ?_))

theorem State.runPass_keep {s0 s : State} (h : Keep s0 s) (c : Nat) (g : Running) :
    Keep s0 (State.runPass s c g) := by
  unfold State.runPass
  repeat' first
    | with_reducible assumption | with_reducible intro _ | (with_reducible apply State.runTiles_keep)
    | (with_reducible apply State.finishTiles_keep) | (with_reducible apply State.stallSlot_keep)
    | (with_reducible refine Keep.fst ?_ (by assumption)) | (dsimp only) | split | (with_reducible apply Keep.kept)
    | (with_reducible refine Keep.mk (Keep.kept ?_))

theorem State.queuePass_keep {s0 s : State} (h : Keep s0 s) (c : Nat) (p : PassItem) :
    Keep s0 (State.queuePass s c p) := by
  unfold State.queuePass
  repeat' first
    | with_reducible assumption | with_reducible intro _ | (with_reducible apply State.mapCore_keep) | (dsimp only)
    | split | (with_reducible apply Keep.kept) | (with_reducible refine Keep.mk (Keep.kept ?_))

theorem State.joinGroup_keep {s0 s : State} (h : Keep s0 s) (c x i : Nat) (r : PassRec) :
    Keep s0 (State.joinGroup s c x i r) := by
  unfold State.joinGroup
  repeat' first
    | with_reducible assumption | with_reducible intro _ | (with_reducible apply State.mapCore_keep) | (dsimp only)
    | split | (with_reducible apply Keep.kept) | (with_reducible refine Keep.mk (Keep.kept ?_))

theorem State.joinGathered_keep {s0 s : State} (h : Keep s0 s) (c x : Nat) (r : PassRec) :
    Keep s0 (State.joinGathered s c x r) := by
  unfold State.joinGathered
  repeat' first
    | with_reducible assumption | with_reducible intro _ | (with_reducible apply State.countStalls_keep)
    | (with_reducible apply State.joinGroup_keep) | (dsimp only) | split | (with_reducible apply Keep.kept)
    | (with_reducible refine Keep.mk (Keep.kept ?_))

theorem execMmG_keep {s0 s : State} (h : Keep s0 s) (core : Core) (ctx : Ctx) :
    Keeps s0 (execMmG core ctx s) := by
  unfold execMmG
  repeat' first
    | with_reducible assumption | (with_reducible apply act_keep) | with_reducible intro _
    | (with_reducible apply State.enterQueue_keep) | (with_reducible apply State.issue_keep)
    | (with_reducible apply State.joinGathered_keep) | (dsimp only) | split | (with_reducible apply Keep.kept)
    | (with_reducible refine Keep.mk (Keep.kept ?_))

theorem execMm_keep {s0 s : State} (h : Keep s0 s) (core : Core) (ctx : Ctx) :
    Keeps s0 (execMm core ctx s) := by
  unfold execMm
  repeat' first
    | with_reducible assumption | (with_reducible apply act_keep) | with_reducible intro _
    | (with_reducible apply State.enterQueue_keep) | (with_reducible apply State.issue_keep)
    | (with_reducible apply State.queuePass_keep) | (dsimp only) | split | (with_reducible apply Keep.kept)
    | (with_reducible refine Keep.mk (Keep.kept ?_))

theorem execGatherHoldExpire_keep {s0 s : State} (h : Keep s0 s) (core : Core) (slot : Fin 4) :
    Keeps s0 (execGatherHoldExpire core slot s) := by
  unfold execGatherHoldExpire
  repeat' first
    | with_reducible assumption | (with_reducible apply act_keep) | with_reducible intro _
    | (with_reducible apply Keep.ite) | (with_reducible apply State.reach_keep)
    | (with_reducible apply State.mapCore_keep) | (dsimp only) | split | (with_reducible apply Keep.kept)
    | (with_reducible refine Keep.mk (Keep.kept ?_))

theorem execGatherGroupStart_keep {s0 s : State} (h : Keep s0 s) (core : Core) :
    Keeps s0 (execGatherGroupStart core s) := by
  unfold execGatherGroupStart
  repeat' first
    | with_reducible assumption | (with_reducible apply act_keep) | with_reducible intro _
    | (with_reducible apply Keep.ite) | (with_reducible apply State.on_keep)
    | (with_reducible apply State.count64_keep) | (with_reducible apply State.mapCore_keep)
    | (with_reducible apply State.tookTurn_keep) | (with_reducible apply State.queuePass_keep) | (dsimp only)
    | split | (with_reducible apply Keep.kept) | (with_reducible refine Keep.mk (Keep.kept ?_))

theorem execPassStart_keep {s0 s : State} (h : Keep s0 s) (core : Core) :
    Keeps s0 (execPassStart core s) := by
  unfold execPassStart
  repeat' first
    | with_reducible assumption | (with_reducible apply act_keep) | with_reducible intro _
    | (with_reducible apply Keep.ite) | (with_reducible apply State.setCore_keep)
    | (with_reducible apply State.runPass_keep) | (dsimp only) | split | (with_reducible apply Keep.kept)
    | (with_reducible refine Keep.mk (Keep.kept ?_))

theorem execExpanderRetry_keep {s0 s : State} (h : Keep s0 s) (core : Core) :
    Keeps s0 (execExpanderRetry core s) := by
  unfold execExpanderRetry
  repeat' first
    | with_reducible assumption | (with_reducible apply act_keep) | with_reducible intro _
    | (with_reducible apply Keep.ite) | (with_reducible apply State.count_keep)
    | (with_reducible apply State.log_keep) | (with_reducible apply State.mapCore_keep)
    | (with_reducible apply State.each_keep) | (with_reducible apply State.schedFault_keep)
    | (with_reducible apply State.faultCount_keep) | (with_reducible apply State.jobFail_keep)
    | (with_reducible apply State.breakDone_keep) | (with_reducible apply State.evalWaitQ_keep)
    | (with_reducible apply State.setRecovery_keep) | (with_reducible apply State.startRecovery_keep)
    | (with_reducible apply State.runTiles_keep) | (with_reducible apply State.finishTiles_keep)
    | (with_reducible apply State.stallSlot_keep) | (with_reducible refine Keep.fst ?_ (by assumption))
    | (dsimp only) | split | (with_reducible apply Keep.kept) | (with_reducible refine Keep.mk (Keep.kept ?_))

theorem execPassComplete_keep {s0 s : State} (h : Keep s0 s) (core : Core) :
    Keeps s0 (execPassComplete core s) := by
  unfold execPassComplete
  repeat' first
    | with_reducible assumption | (with_reducible apply act_keep) | with_reducible intro _
    | (with_reducible apply Keep.ite) | (with_reducible apply State.count64_keep)
    | (with_reducible apply State.storeWrite_keep) | (with_reducible apply State.setCore_keep)
    | (with_reducible apply State.each_keep) | (with_reducible apply State.sendDeltas_keep)
    | (with_reducible apply State.postDone_keep) | (with_reducible apply State.evalWaitQ_keep) | (dsimp only)
    | split | (with_reducible apply Keep.kept) | (with_reducible refine Keep.mk (Keep.kept ?_))

theorem execFrameGateApply_keep {s0 s : State} (h : Keep s0 s) (core : Core) :
    Keeps s0 (execFrameGateApply core s) := by
  unfold execFrameGateApply
  repeat' first
    | with_reducible assumption | (with_reducible apply act_keep) | with_reducible intro _
    | (with_reducible apply State.mapCore_keep) | (dsimp only) | split | (with_reducible apply Keep.kept)
    | (with_reducible refine Keep.mk (Keep.kept ?_))

end Sys2Proof.Machine
end

