-- ==== Sys2Proof/Laws/KeepTime.lean ====
section
/-!
SUPPORT. What the operations of Machine/Time.lean keep (Laws/Keep.lean).
-/

namespace Sys2Proof.Machine

theorem State.setTime_keep {s0 s : State} (h : Keep s0 s) (f : TimeUnit → TimeUnit) :
    Keep s0 (State.setTime s f) := by
  unfold State.setTime
  repeat' first
    | with_reducible assumption | with_reducible intro _ | (dsimp only) | split | (with_reducible apply Keep.kept)
    | (with_reducible refine Keep.mk (Keep.kept ?_))

theorem State.setLinkTime_keep {s0 s : State} (h : Keep s0 s) (l : Nat) (v : LinkTime) :
    Keep s0 (State.setLinkTime s l v) := by
  unfold State.setLinkTime
  repeat' first
    | with_reducible assumption | with_reducible intro _ | (with_reducible apply State.setTime_keep) | (dsimp only)
    | split | (with_reducible apply Keep.kept) | (with_reducible refine Keep.mk (Keep.kept ?_))

theorem State.stepHall_keep {s0 s : State} (h : Keep s0 s) (h : Nat) :
    Keep s0 (State.stepHall s h) := by
  unfold State.stepHall
  repeat' first
    | with_reducible assumption | with_reducible intro _ | (with_reducible apply Keep.foldl)
    | (with_reducible apply Keep.foldl1) | (with_reducible apply Keep.foldl2) | (dsimp only) | split
    | (with_reducible apply Keep.kept) | (with_reducible refine Keep.mkB (Keep.kept ?_))

theorem State.enterLocked_keep {s0 s : State} (h : Keep s0 s)  :
    Keep s0 (State.enterLocked s) := by
  unfold State.enterLocked
  repeat' first
    | with_reducible assumption | with_reducible intro _ | (with_reducible apply State.log_keep)
    | (with_reducible apply State.setTime_keep) | (dsimp only) | split | (with_reducible apply Keep.kept)
    | (with_reducible refine Keep.mk (Keep.kept ?_))

theorem State.leaveToFine_keep {s0 s : State} (h : Keep s0 s) (fromLocked : Bool) :
    Keep s0 (State.leaveToFine s fromLocked) := by
  unfold State.leaveToFine
  repeat' first
    | with_reducible assumption | with_reducible intro _ | (with_reducible apply Keep.ite)
    | (with_reducible apply State.log_keep) | (with_reducible apply State.timeLoss_keep)
    | (with_reducible apply State.setTime_keep) | (dsimp only) | split | (with_reducible apply Keep.kept)
    | (with_reducible refine Keep.mk (Keep.kept ?_))

theorem State.becomeRoot_keep {s0 s : State} (h : Keep s0 s) (i : Nat) :
    Keep s0 (State.becomeRoot s i) := by
  unfold State.becomeRoot
  repeat' first
    | with_reducible assumption | with_reducible intro _ | (with_reducible apply State.setTime_keep) | (dsimp only)
    | split | (with_reducible apply Keep.kept) | (with_reducible refine Keep.mk (Keep.kept ?_))

theorem State.startRoot_keep {s0 s : State} (h : Keep s0 s) (i : Nat) (valid : Bool) :
    Keep s0 (State.startRoot s i valid) := by
  unfold State.startRoot
  repeat' first
    | with_reducible assumption | with_reducible intro _ | (with_reducible apply State.setTime_keep)
    | (with_reducible apply State.enterLocked_keep) | (with_reducible apply State.becomeRoot_keep) | (dsimp only)
    | split | (with_reducible apply Keep.kept) | (with_reducible refine Keep.mk (Keep.kept ?_))

theorem State.takeParent_keep {s0 s : State} (h : Keep s0 s) (l : Nat) :
    Keep s0 (State.takeParent s l) := by
  unfold State.takeParent
  repeat' first
    | with_reducible assumption | with_reducible intro _ | (with_reducible apply Keep.ite)
    | (with_reducible apply State.on_keep) | (with_reducible apply State.log_keep)
    | (with_reducible apply State.setTime_keep) | (dsimp only) | split | (with_reducible apply Keep.kept)
    | (with_reducible refine Keep.mk (Keep.kept ?_))

theorem State.loseParent_keep {s0 s : State} (h : Keep s0 s)  :
    Keep s0 (State.loseParent s) := by
  unfold State.loseParent
  repeat' first
    | with_reducible assumption | with_reducible intro _ | (with_reducible apply Keep.ite)
    | (with_reducible apply State.log_keep) | (with_reducible apply State.setTime_keep)
    | (with_reducible apply State.takeParent_keep) | (dsimp only) | split | (with_reducible apply Keep.kept)
    | (with_reducible refine Keep.mk (Keep.kept ?_))

theorem State.sendSymbol_keep {s0 s : State} (h : Keep s0 s) (l : Nat) :
    Keep s0 (State.sendSymbol s l) := by
  unfold State.sendSymbol
  repeat' first
    | with_reducible assumption | with_reducible intro _ | (with_reducible apply Keep.ite)
    | (with_reducible apply State.emit_keep) | (with_reducible apply State.sent_keep)
    | (with_reducible apply State.setLinkTime_keep) | (with_reducible apply State.take_keep) | (dsimp only) | split
    | (with_reducible apply Keep.kept) | (with_reducible refine Keep.mk (Keep.kept ?_))

theorem execTimeSymbolSend_keep {s0 s : State} (h : Keep s0 s) (link : Link) :
    Keeps s0 (execTimeSymbolSend link s) := by
  unfold execTimeSymbolSend
  repeat' first
    | with_reducible assumption | (with_reducible apply act_keep) | with_reducible intro _
    | (with_reducible apply State.sendSymbol_keep) | (dsimp only) | split | (with_reducible apply Keep.kept)
    | (with_reducible refine Keep.mk (Keep.kept ?_))

theorem State.noteSymbol_keep {s0 s : State} (h : Keep s0 s) (l w at_ : Nat) :
    Keep s0 (State.noteSymbol s l w at_) := by
  unfold State.noteSymbol
  repeat' first
    | with_reducible assumption | with_reducible intro _ | (with_reducible apply Keep.ite)
    | (with_reducible apply State.sent_keep) | (with_reducible apply State.setTime_keep)
    | (with_reducible apply State.setLinkTime_keep) | (with_reducible apply State.take_keep) | (dsimp only) | split
    | (with_reducible apply Keep.kept) | (with_reducible refine Keep.mk (Keep.kept ?_))

theorem State.demote_keep {s0 s : State} (h : Keep s0 s)  :
    Keep s0 (State.demote s) := by
  unfold State.demote
  repeat' first
    | with_reducible assumption | with_reducible intro _ | (with_reducible apply State.log_keep)
    | (with_reducible apply State.setTime_keep) | (with_reducible apply State.loseParent_keep) | (dsimp only)
    | split | (with_reducible apply Keep.kept) | (with_reducible refine Keep.mk (Keep.kept ?_))

theorem State.followSymbol_keep {s0 s : State} (h : Keep s0 s) (l w : Nat) :
    Keep s0 (State.followSymbol s l w) := by
  unfold State.followSymbol
  repeat' first
    | with_reducible assumption | with_reducible intro _ | (with_reducible apply Keep.ite)
    | (with_reducible apply State.draw_keep) | (with_reducible apply State.setTime_keep)
    | (with_reducible apply State.stepHall_keep) | (with_reducible apply State.leaveToFine_keep)
    | (with_reducible apply State.takeParent_keep) | (with_reducible refine Keep.snd ?_ (by assumption))
    | (dsimp only) | split | (with_reducible apply Keep.kept) | (with_reducible refine Keep.mk (Keep.kept ?_))

theorem State.receiveSymbol_keep {s0 s : State} (h : Keep s0 s) (l w at_ : Nat) :
    Keep s0 (State.receiveSymbol s l w at_) := by
  unfold State.receiveSymbol
  repeat' first
    | with_reducible assumption | with_reducible intro _ | (with_reducible apply Keep.ite)
    | (with_reducible apply State.setTime_keep) | (with_reducible apply State.noteSymbol_keep)
    | (with_reducible apply State.demote_keep) | (with_reducible apply State.followSymbol_keep) | (dsimp only)
    | split | (with_reducible apply Keep.kept) | (with_reducible refine Keep.mk (Keep.kept ?_))

theorem execTimeSymbolReceive_keep {s0 s : State} (h : Keep s0 s) (link : Link) (symbol : BitVec 192) (arrival :
      BitVec 70) :
    Keeps s0 (execTimeSymbolReceive link symbol arrival s) := by
  unfold execTimeSymbolReceive
  repeat' first
    | with_reducible assumption | (with_reducible apply act_keep) | with_reducible intro _
    | (with_reducible apply State.reach64_keep) | (with_reducible apply State.receiveSymbol_keep) | (dsimp only)
    | split | (with_reducible apply Keep.kept) | (with_reducible refine Keep.mk (Keep.kept ?_))

theorem State.declareLinkLost_keep {s0 s : State} (h : Keep s0 s) (l : Nat) :
    Keep s0 (State.declareLinkLost s l) := by
  unfold State.declareLinkLost
  repeat' first
    | with_reducible assumption | with_reducible intro _ | (with_reducible apply Keep.ite)
    | (with_reducible apply State.setObj_keep) | (with_reducible apply State.log_keep)
    | (with_reducible apply State.mapLink_keep) | (with_reducible apply State.setHold_keep)
    | (with_reducible apply State.originateHold_keep) | (with_reducible apply State.schedFault_keep)
    | (with_reducible apply State.faultCount_keep) | (with_reducible apply State.reroute_keep)
    | (with_reducible refine Keep.snd ?_ (by assumption)) | (dsimp only) | split | (with_reducible apply Keep.kept)
    | (with_reducible refine Keep.mk (Keep.kept ?_))

theorem State.publishDelays_keep {s0 s : State} (h : Keep s0 s)  :
    Keep s0 (State.publishDelays s) := by
  unfold State.publishDelays
  repeat' first
    | with_reducible assumption | with_reducible intro _ | (with_reducible apply Keep.ite)
    | (with_reducible apply State.setObj_keep) | (with_reducible apply State.each_keep)
    | (with_reducible apply State.declareLinkLost_keep) | (dsimp only) | split | (with_reducible apply Keep.kept)
    | (with_reducible refine Keep.mk (Keep.kept ?_))

theorem State.judgeEstimate_keep {s0 s : State} (h : Keep s0 s) (e : Int) :
    Keep s0 (State.judgeEstimate s e) := by
  unfold State.judgeEstimate
  repeat' first
    | with_reducible assumption | with_reducible intro _ | (with_reducible apply Keep.ite)
    | (with_reducible apply State.setTime_keep) | (with_reducible apply State.leaveToFine_keep) | (dsimp only)
    | split | (with_reducible apply Keep.kept) | (with_reducible refine Keep.mk (Keep.kept ?_))

theorem State.estimate_keep {s0 s : State} (h : Keep s0 s)  :
    Keep s0 (State.estimate s) := by
  unfold State.estimate
  repeat' first
    | with_reducible assumption | with_reducible intro _ | (with_reducible apply Keep.ite)
    | (with_reducible apply State.setTime_keep) | (with_reducible apply State.publishDelays_keep)
    | (with_reducible apply State.judgeEstimate_keep) | (dsimp only) | split | (with_reducible apply Keep.kept)
    | (with_reducible refine Keep.mk (Keep.kept ?_))

theorem execOffsetEstimate_keep {s0 s : State} (h : Keep s0 s)  :
    Keeps s0 (execOffsetEstimate s) := by
  unfold execOffsetEstimate
  repeat' first
    | with_reducible assumption | (with_reducible apply act_keep) | with_reducible intro _
    | (with_reducible apply State.estimate_keep) | (dsimp only) | split | (with_reducible apply Keep.kept)
    | (with_reducible refine Keep.mk (Keep.kept ?_))

theorem execLockDwellExpire_keep {s0 s : State} (h : Keep s0 s)  :
    Keeps s0 (execLockDwellExpire s) := by
  unfold execLockDwellExpire
  repeat' first
    | with_reducible assumption | (with_reducible apply act_keep) | with_reducible intro _
    | (with_reducible apply Keep.ite) | (with_reducible apply State.reach_keep)
    | (with_reducible apply State.enterLocked_keep) | (dsimp only) | split | (with_reducible apply Keep.kept)
    | (with_reducible refine Keep.mk (Keep.kept ?_))

theorem execParentLost_keep {s0 s : State} (h : Keep s0 s)  :
    Keeps s0 (execParentLost s) := by
  unfold execParentLost
  repeat' first
    | with_reducible assumption | (with_reducible apply act_keep) | with_reducible intro _
    | (with_reducible apply Keep.ite) | (with_reducible apply State.loseParent_keep) | (dsimp only) | split
    | (with_reducible apply Keep.kept) | (with_reducible refine Keep.mk (Keep.kept ?_))

theorem execSymbolTimeout_keep {s0 s : State} (h : Keep s0 s)  :
    Keeps s0 (execSymbolTimeout s) := by
  unfold execSymbolTimeout
  repeat' first
    | with_reducible assumption | (with_reducible apply act_keep) | with_reducible intro _
    | (with_reducible apply State.reach64_keep) | (with_reducible apply State.setLinkTime_keep)
    | (with_reducible apply State.loseParent_keep) | (dsimp only) | split | (with_reducible apply Keep.kept)
    | (with_reducible refine Keep.mk (Keep.kept ?_))

theorem execHoldoverLimitExpire_keep {s0 s : State} (h : Keep s0 s)  :
    Keeps s0 (execHoldoverLimitExpire s) := by
  unfold execHoldoverLimitExpire
  repeat' first
    | with_reducible assumption | (with_reducible apply act_keep) | with_reducible intro _
    | (with_reducible apply Keep.ite) | (with_reducible apply State.reach_keep)
    | (with_reducible apply State.log_keep) | (with_reducible apply State.timeLoss_keep) | (dsimp only) | split
    | (with_reducible apply Keep.kept) | (with_reducible refine Keep.mk (Keep.kept ?_))

theorem State.coldStart_keep {s0 s : State} (h : Keep s0 s) (i : Nat) :
    Keep s0 (State.coldStart s i) := by
  unfold State.coldStart
  repeat' first
    | with_reducible assumption | with_reducible intro _ | (with_reducible apply State.stepHall_keep)
    | (with_reducible apply State.startRoot_keep) | (dsimp only) | split | (with_reducible apply Keep.kept)
    | (with_reducible refine Keep.mk (Keep.kept ?_))

theorem State.discipline_keep {s0 s : State} (h : Keep s0 s) (tai : Int) (at_ : Nat) :
    Keep s0 (State.discipline s tai at_) := by
  unfold State.discipline
  repeat' first
    | with_reducible assumption | with_reducible intro _ | (with_reducible apply State.setTime_keep)
    | (with_reducible apply State.take_keep) | (dsimp only) | split | (with_reducible apply Keep.kept)
    | (with_reducible refine Keep.mk (Keep.kept ?_))

theorem State.acquire_keep {s0 s : State} (h : Keep s0 s) (tai : Int) (at_ : Nat) :
    Keep s0 (State.acquire s tai at_) := by
  unfold State.acquire
  repeat' first
    | with_reducible assumption | with_reducible intro _ | (with_reducible apply Keep.ite)
    | (with_reducible apply State.on_keep) | (with_reducible apply State.setTime_keep)
    | (with_reducible apply State.coldStart_keep) | (with_reducible apply State.discipline_keep) | (dsimp only)
    | split | (with_reducible apply Keep.kept) | (with_reducible refine Keep.mk (Keep.kept ?_))

theorem State.loseReference_keep {s0 s : State} (h : Keep s0 s)  :
    Keep s0 (State.loseReference s) := by
  unfold State.loseReference
  repeat' first
    | with_reducible assumption | with_reducible intro _ | (with_reducible apply Keep.ite)
    | (with_reducible apply State.log_keep) | (with_reducible apply State.setTime_keep) | (dsimp only) | split
    | (with_reducible apply Keep.kept) | (with_reducible refine Keep.mk (Keep.kept ?_))

theorem State.sourceChanged_keep {s0 s : State} (h : Keep s0 s)  :
    Keep s0 (State.sourceChanged s) := by
  unfold State.sourceChanged
  repeat' first
    | with_reducible assumption | with_reducible intro _ | (with_reducible apply Keep.ite)
    | (with_reducible apply State.setTime_keep) | (dsimp only) | split | (with_reducible apply Keep.kept)
    | (with_reducible refine Keep.mk (Keep.kept ?_))

theorem State.missEdge_keep {s0 s : State} (h : Keep s0 s)  :
    Keep s0 (State.missEdge s) := by
  unfold State.missEdge
  repeat' first
    | with_reducible assumption | with_reducible intro _ | (with_reducible apply Keep.ite)
    | (with_reducible apply State.setTime_keep) | (with_reducible apply State.loseReference_keep) | (dsimp only)
    | split | (with_reducible apply Keep.kept) | (with_reducible refine Keep.mk (Keep.kept ?_))

theorem State.edge_keep {s0 s : State} (h : Keep s0 s) (at_ : Nat) :
    Keep s0 (State.edge s at_) := by
  unfold State.edge
  repeat' first
    | with_reducible assumption | with_reducible intro _ | (with_reducible apply Keep.ite)
    | (with_reducible apply State.acquire_keep) | (with_reducible apply State.missEdge_keep) | (dsimp only) | split
    | (with_reducible apply Keep.kept) | (with_reducible refine Keep.mk (Keep.kept ?_))

theorem execPpsEdge_keep {s0 s : State} (h : Keep s0 s) (edge : BitVec 70) :
    Keeps s0 (execPpsEdge edge s) := by
  unfold execPpsEdge
  repeat' first
    | with_reducible assumption | (with_reducible apply act_keep) | with_reducible intro _
    | (with_reducible apply State.reach64_keep) | (with_reducible apply State.edge_keep) | (dsimp only) | split
    | (with_reducible apply Keep.kept) | (with_reducible refine Keep.mk (Keep.kept ?_))

theorem execPpsEdgeMissed_keep {s0 s : State} (h : Keep s0 s)  :
    Keeps s0 (execPpsEdgeMissed s) := by
  unfold execPpsEdgeMissed
  repeat' first
    | with_reducible assumption | (with_reducible apply act_keep) | with_reducible intro _
    | (with_reducible apply Keep.ite) | (with_reducible apply State.missEdge_keep) | (dsimp only) | split
    | (with_reducible apply Keep.kept) | (with_reducible refine Keep.mk (Keep.kept ?_))

theorem State.ptpTime_keep {s0 s : State} (h : Keep s0 s) (tai : Int) (at_ : Nat) :
    Keep s0 (State.ptpTime s tai at_) := by
  unfold State.ptpTime
  repeat' first
    | with_reducible assumption | with_reducible intro _ | (with_reducible apply Keep.ite)
    | (with_reducible apply State.setTime_keep) | (with_reducible apply State.acquire_keep) | (dsimp only) | split
    | (with_reducible apply Keep.kept) | (with_reducible refine Keep.mk (Keep.kept ?_))

theorem State.askDelay_keep {s0 s : State} (h : Keep s0 s)  :
    Keep s0 (State.askDelay s) := by
  unfold State.askDelay
  repeat' first
    | with_reducible assumption | with_reducible intro _ | (with_reducible apply State.emit_keep)
    | (with_reducible apply State.setTime_keep) | (dsimp only) | split | (with_reducible apply Keep.kept)
    | (with_reducible refine Keep.mk (Keep.kept ?_))

theorem State.ptpExchange_keep {s0 s : State} (h : Keep s0 s) (t1 t2 t3 t4 : Nat) :
    Keep s0 (State.ptpExchange s t1 t2 t3 t4) := by
  unfold State.ptpExchange
  repeat' first
    | with_reducible assumption | with_reducible intro _ | (with_reducible apply State.ptpTime_keep) | (dsimp only)
    | split | (with_reducible apply Keep.kept) | (with_reducible refine Keep.mk (Keep.kept ?_))

theorem State.ptpMessage_keep {s0 s : State} (h : Keep s0 s) (domain : Nat) (m : PtpMsg) :
    Keep s0 (State.ptpMessage s domain m) := by
  unfold State.ptpMessage
  repeat' first
    | with_reducible assumption | with_reducible intro _ | (with_reducible apply Keep.ite)
    | (with_reducible apply State.setTime_keep) | (with_reducible apply State.askDelay_keep)
    | (with_reducible apply State.ptpExchange_keep) | (dsimp only) | split | (with_reducible apply Keep.kept)
    | (with_reducible refine Keep.mk (Keep.kept ?_))

theorem execPtpMessage_keep {s0 s : State} (h : Keep s0 s) (domain : BitVec 8) (msg : PtpMsg) :
    Keeps s0 (execPtpMessage domain msg s) := by
  unfold execPtpMessage
  repeat' first
    | with_reducible assumption | (with_reducible apply act_keep) | with_reducible intro _
    | (with_reducible apply State.ptpMessage_keep) | (dsimp only) | split | (with_reducible apply Keep.kept)
    | (with_reducible refine Keep.mk (Keep.kept ?_))

theorem execPtpLossTimeout_keep {s0 s : State} (h : Keep s0 s)  :
    Keeps s0 (execPtpLossTimeout s) := by
  unfold execPtpLossTimeout
  repeat' first
    | with_reducible assumption | (with_reducible apply act_keep) | with_reducible intro _
    | (with_reducible apply Keep.ite) | (with_reducible apply State.reach64_keep)
    | (with_reducible apply State.loseReference_keep) | (dsimp only) | split | (with_reducible apply Keep.kept)
    | (with_reducible refine Keep.mk (Keep.kept ?_))

theorem execRootSourceWaitExpire_keep {s0 s : State} (h : Keep s0 s)  :
    Keeps s0 (execRootSourceWaitExpire s) := by
  unfold execRootSourceWaitExpire
  repeat' first
    | with_reducible assumption | (with_reducible apply act_keep) | with_reducible intro _
    | (with_reducible apply Keep.ite) | (with_reducible apply State.reach_keep)
    | (with_reducible apply State.coldStart_keep) | (dsimp only) | split | (with_reducible apply Keep.kept)
    | (with_reducible refine Keep.mk (Keep.kept ?_))

theorem execRootBeatTick_keep {s0 s : State} (h : Keep s0 s)  :
    Keeps s0 (execRootBeatTick s) := by
  unfold execRootBeatTick
  repeat' first
    | with_reducible assumption | (with_reducible apply act_keep) | with_reducible intro _
    | (with_reducible apply Keep.ite) | (with_reducible apply State.reach_keep)
    | (with_reducible apply State.setTime_keep) | (dsimp only) | split | (with_reducible apply Keep.kept)
    | (with_reducible refine Keep.mk (Keep.kept ?_))

theorem execRootBeatTimeout_keep {s0 s : State} (h : Keep s0 s)  :
    Keeps s0 (execRootBeatTimeout s) := by
  unfold execRootBeatTimeout
  repeat' first
    | with_reducible assumption | (with_reducible apply act_keep) | with_reducible intro _
    | (with_reducible apply Keep.ite) | (with_reducible apply State.reach_keep)
    | (with_reducible apply State.setTime_keep) | (dsimp only) | split | (with_reducible apply Keep.kept)
    | (with_reducible refine Keep.mk (Keep.kept ?_))

theorem execRootPromote_keep {s0 s : State} (h : Keep s0 s)  :
    Keeps s0 (execRootPromote s) := by
  unfold execRootPromote
  repeat' first
    | with_reducible assumption | (with_reducible apply act_keep) | with_reducible intro _
    | (with_reducible apply Keep.ite) | (with_reducible apply State.reach_keep)
    | (with_reducible apply State.log_keep) | (with_reducible apply State.becomeRoot_keep)
    | (with_reducible apply State.coldStart_keep) | (dsimp only) | split | (with_reducible apply Keep.kept)
    | (with_reducible refine Keep.mk (Keep.kept ?_))

theorem execPpsOutPulse_keep {s0 s : State} (h : Keep s0 s)  :
    Keeps s0 (execPpsOutPulse s) := by
  unfold execPpsOutPulse
  repeat' first
    | with_reducible assumption | (with_reducible apply act_keep) | with_reducible intro _
    | (with_reducible apply Keep.ite) | (with_reducible apply State.reach_keep)
    | (with_reducible apply State.emit_keep) | (with_reducible apply State.setTime_keep) | (dsimp only) | split
    | (with_reducible apply Keep.kept) | (with_reducible refine Keep.mk (Keep.kept ?_))

end Sys2Proof.Machine
end

