-- ==== Sys2Proof/Laws/KeepTimetable.lean ====
section
/-!
SUPPORT. What the operations of Machine/Timetable.lean keep (Laws/Keep.lean).
-/

namespace Sys2Proof.Machine

theorem State.setArmed_keep {s0 s : State} (h : Keep s0 s) (b : Nat) (v : Bool) :
    Keep s0 (State.setArmed s b v) := by
  unfold State.setArmed
  repeat' first
    | with_reducible assumption | with_reducible intro _ | (with_reducible apply Keep.ite) | (dsimp only) | split
    | (with_reducible apply Keep.kept) | (with_reducible refine Keep.mk (Keep.kept ?_))

theorem State.landWrite_keep {s0 s : State} (h : Keep s0 s) (kind addr : Nat) (bs : List (Int × Byte)) :
    Keep s0 (State.landWrite s kind addr bs) := by
  unfold State.landWrite
  repeat' first
    | with_reducible assumption | with_reducible intro _ | (with_reducible apply State.writeBytes_keep)
    | (with_reducible apply State.storeBytes_keep) | (with_reducible apply Keep.foldl)
    | (with_reducible apply Keep.foldl1) | (with_reducible apply Keep.foldl2)
    | (with_reducible apply Kept.mailboxes_nil) | (with_reducible apply Kept.mailboxes_write)
    | (with_reducible apply Kept.mailboxes_cells) | (dsimp only) | split
    | (with_reducible apply Keep.mk; (try dsimp only); with_reducible apply Kept.mailboxes_nil)
    | (with_reducible apply Keep.mk; (try dsimp only); with_reducible apply Kept.mailboxes_write)
    | (with_reducible apply Keep.mk; (try dsimp only); with_reducible apply Kept.mailboxes_cells)
    | (with_reducible apply Keep.kept) | (with_reducible refine Keep.mk (Keep.kept ?_))

theorem State.landBytes_keep {s0 s : State} (h : Keep s0 s) (kind addr : Nat) (pat : Option Nat) (i : Nat) (bs : List
      Byte) :
    Keep s0 (State.landBytes s kind addr pat i bs) := by
  unfold State.landBytes
  repeat' first
    | with_reducible assumption | with_reducible intro _ | (with_reducible apply State.landWrite_keep)
    | (dsimp only) | split | (with_reducible apply Keep.kept) | (with_reducible refine Keep.mk (Keep.kept ?_))

theorem State.copyPatterns_keep {s0 s : State} (h : Keep s0 s) (b : Nat) :
    Keep s0 (State.copyPatterns s b) := by
  unfold State.copyPatterns
  repeat' first
    | with_reducible assumption | with_reducible intro _ | (with_reducible apply Keep.foldl)
    | (with_reducible apply Keep.foldl1) | (with_reducible apply Keep.foldl2) | (dsimp only) | split
    | (with_reducible apply Keep.kept) | (with_reducible refine Keep.mk (Keep.kept ?_))

theorem State.armSwitch_keep {s0 s : State} (h : Keep s0 s) (b : Fin 2) :
    Keep s0 (State.armSwitch s b).2 := by
  unfold State.armSwitch
  repeat' first
    | exact h | with_reducible apply Keep.ite2 | apply State.log_keep | apply State.setObj_keep | dsimp only

theorem State.disarmBankSwitch_keep {s0 s : State} (h : Keep s0 s)  :
    Keep s0 (State.disarmBankSwitch s) := by
  unfold State.disarmBankSwitch
  repeat' first
    | with_reducible assumption | with_reducible intro _ | (with_reducible apply State.setObj_keep) | (dsimp only)
    | split | (with_reducible apply Keep.kept) | (with_reducible refine Keep.mk (Keep.kept ?_))

theorem State.unplanned_keep {s0 s : State} (h : Keep s0 s)  :
    Keep s0 (State.unplanned s) := by
  unfold State.unplanned
  repeat' first
    | with_reducible assumption | with_reducible intro _ | (with_reducible apply State.log_keep)
    | (with_reducible apply State.setHold_keep) | (with_reducible apply State.schedFault_keep)
    | (with_reducible apply State.faultCount_keep) | (with_reducible apply State.jobFail_keep) | (dsimp only)
    | split | (with_reducible apply Keep.kept) | (with_reducible refine Keep.mk (Keep.kept ?_))

theorem State.checkLoss_keep {s0 s : State} (h : Keep s0 s)  :
    Keep s0 (State.checkLoss s) := by
  unfold State.checkLoss
  repeat' first
    | with_reducible assumption | with_reducible intro _ | (with_reducible apply Keep.ite)
    | (with_reducible apply State.unplanned_keep) | (dsimp only) | split | (with_reducible apply Keep.kept)
    | (with_reducible refine Keep.mk (Keep.kept ?_))

theorem State.setEngine_keep {s0 s : State} (h : Keep s0 s) (l : Nat) (e : TtEngine) :
    Keep s0 (State.setEngine s l e) := by
  unfold State.setEngine
  repeat' first
    | with_reducible assumption | with_reducible intro _ | (dsimp only) | split | (with_reducible apply Keep.kept)
    | (with_reducible refine Keep.mk (Keep.kept ?_))

theorem State.markFired_keep {s0 s : State} (h : Keep s0 s) (l i n : Nat) :
    Keep s0 (State.markFired s l i n) := by
  unfold State.markFired
  repeat' first
    | with_reducible assumption | with_reducible intro _ | (with_reducible apply State.setEngine_keep)
    | (dsimp only) | split | (with_reducible apply Keep.kept) | (with_reducible refine Keep.mk (Keep.kept ?_))

theorem State.mergedWakes_keep {s0 s : State} (h : Keep s0 s)  :
    Keep s0 (State.mergedWakes s) := by
  unfold State.mergedWakes
  repeat' first
    | with_reducible assumption | with_reducible intro _ | (with_reducible apply Keep.ite)
    | (with_reducible apply State.each_keep) | (with_reducible apply State.wakeDie_keep)
    | (with_reducible apply State.wakeCore_keep) | (with_reducible apply State.markFired_keep) | (dsimp only)
    | split | (with_reducible apply Keep.kept) | (with_reducible refine Keep.mk (Keep.kept ?_))

theorem State.switchBank_keep {s0 s : State} (h : Keep s0 s)  :
    Keep s0 (State.switchBank s) := by
  unfold State.switchBank
  repeat' first
    | with_reducible assumption | with_reducible intro _ | (with_reducible apply State.on_keep)
    | (with_reducible apply State.setObj_keep) | (with_reducible apply State.log_keep)
    | (with_reducible apply State.setHold_keep) | (with_reducible apply State.checkLoss_keep)
    | (with_reducible apply State.mergedWakes_keep) | (with_reducible apply Keep.foldl)
    | (with_reducible apply Keep.foldl1) | (with_reducible apply Keep.foldl2) | (dsimp only) | split
    | (with_reducible apply Keep.kept) | (with_reducible refine Keep.mk (Keep.kept ?_))

theorem execBankSwitch_keep {s0 s : State} (h : Keep s0 s)  :
    Keeps s0 (execBankSwitch s) := by
  unfold execBankSwitch
  repeat' first
    | with_reducible assumption | (with_reducible apply act_keep) | with_reducible intro _
    | (with_reducible apply Keep.ite) | (with_reducible apply State.reach_keep)
    | (with_reducible apply State.switchBank_keep) | (dsimp only) | split | (with_reducible apply Keep.kept)
    | (with_reducible refine Keep.mk (Keep.kept ?_))

theorem execTtBatchArrive_keep {s0 s : State} (h : Keep s0 s) (link : Link) :
    Keeps s0 (execTtBatchArrive link s) := by
  unfold execTtBatchArrive
  repeat' first
    | with_reducible assumption | (with_reducible apply act_keep) | with_reducible intro _
    | (with_reducible apply Keep.ite) | (with_reducible apply State.setEngine_keep) | (dsimp only) | split
    | (with_reducible apply Keep.kept) | (with_reducible refine Keep.mk (Keep.kept ?_))

theorem State.loseWindow_keep {s0 s : State} (h : Keep s0 s) (l : Nat) :
    Keep s0 (State.loseWindow s l) := by
  unfold State.loseWindow
  repeat' first
    | with_reducible assumption | with_reducible intro _ | (with_reducible apply State.count_keep)
    | (with_reducible apply State.log_keep) | (with_reducible apply State.interrupt_keep)
    | (with_reducible apply State.schedFault_keep) | (dsimp only) | split | (with_reducible apply Keep.kept)
    | (with_reducible refine Keep.mk (Keep.kept ?_))

theorem State.openWindow_keep {s0 s : State} (h : Keep s0 s) (b l e start : Nat) (eng : TtEngine) :
    Keep s0 (State.openWindow s b l e start eng) := by
  unfold State.openWindow
  repeat' first
    | with_reducible assumption | with_reducible intro _ | (with_reducible apply Keep.ite)
    | (with_reducible apply State.emit_keep) | (with_reducible apply State.on_keep)
    | (with_reducible apply State.sent_keep) | (with_reducible apply State.setEngine_keep) | (dsimp only) | split
    | (with_reducible apply Keep.kept) | (with_reducible refine Keep.mk (Keep.kept ?_))

theorem State.startWindow_keep {s0 s : State} (h : Keep s0 s) (l : Nat) :
    Keep s0 (State.startWindow s l) := by
  unfold State.startWindow
  repeat' first
    | with_reducible assumption | (with_reducible apply Keeps.next) | with_reducible intro _
    | (with_reducible apply Keep.ite) | (with_reducible apply State.reach_keep)
    | (with_reducible apply State.readPoison_keep) | (with_reducible apply State.setEngine_keep)
    | (with_reducible apply State.loseWindow_keep) | (with_reducible apply State.openWindow_keep) | (dsimp only)
    | split | (with_reducible apply Keep.kept) | (with_reducible refine Keep.mk (Keep.kept ?_))

theorem execWindowStart_keep {s0 s : State} (h : Keep s0 s) (link : Link) :
    Keeps s0 (execWindowStart link s) := by
  unfold execWindowStart
  repeat' first
    | with_reducible assumption | (with_reducible apply act_keep) | with_reducible intro _
    | (with_reducible apply State.startWindow_keep) | (dsimp only) | split | (with_reducible apply Keep.kept)
    | (with_reducible refine Keep.mk (Keep.kept ?_))

theorem State.sendSlot_keep {s0 s : State} (h : Keep s0 s) (l : Nat) :
    Keep s0 (State.sendSlot s l) := by
  unfold State.sendSlot
  repeat' first
    | with_reducible assumption | with_reducible intro _ | (with_reducible apply Keep.ite)
    | (with_reducible apply State.reach_keep) | (with_reducible apply State.emit_keep)
    | (with_reducible apply State.readPoison_keep) | (with_reducible apply State.returnCredits_keep)
    | (with_reducible apply State.sent_keep) | (with_reducible apply State.setEngine_keep) | (dsimp only) | split
    | (with_reducible apply Keep.kept) | (with_reducible refine Keep.mk (Keep.kept ?_))

theorem execWindowSlotSend_keep {s0 s : State} (h : Keep s0 s) (link : Link) :
    Keeps s0 (execWindowSlotSend link s) := by
  unfold execWindowSlotSend
  repeat' first
    | with_reducible assumption | (with_reducible apply act_keep) | with_reducible intro _
    | (with_reducible apply State.sendSlot_keep) | (dsimp only) | split | (with_reducible apply Keep.kept)
    | (with_reducible refine Keep.mk (Keep.kept ?_))

theorem State.setRx_keep {s0 s : State} (h : Keep s0 s) (l : Nat) (w : Option RxWindow) :
    Keep s0 (State.setRx s l w) := by
  unfold State.setRx
  repeat' first
    | with_reducible assumption | with_reducible intro _ | (dsimp only) | split | (with_reducible apply Keep.kept)
    | (with_reducible refine Keep.mk (Keep.kept ?_))

theorem execWindowOpenReceive_keep {s0 s : State} (h : Keep s0 s) (link : Link) (w : OpenWord) :
    Keeps s0 (execWindowOpenReceive link w s) := by
  unfold execWindowOpenReceive
  repeat' first
    | with_reducible assumption | (with_reducible apply act_keep) | with_reducible intro _
    | (with_reducible apply State.setRx_keep) | (dsimp only) | split | (with_reducible apply Keep.kept)
    | (with_reducible refine Keep.mk (Keep.kept ?_))

theorem State.landingFault_keep {s0 s : State} (h : Keep s0 s) (l : Nat) (w : RxWindow) (slots : Nat) :
    Keep s0 (State.landingFault s l w slots) := by
  unfold State.landingFault
  repeat' first
    | with_reducible assumption | with_reducible intro _ | (with_reducible apply State.on_keep)
    | (with_reducible apply State.count_keep) | (with_reducible apply State.log_keep)
    | (with_reducible apply State.schedFault_keep) | (dsimp only) | split | (with_reducible apply Keep.kept)
    | (with_reducible refine Keep.mk (Keep.kept ?_))

theorem State.landSlot_keep {s0 s : State} (h : Keep s0 s) (l : Nat) (data : List Byte) (bad overflow : Bool) :
    Keep s0 (State.landSlot s l data bad overflow) := by
  unfold State.landSlot
  repeat' first
    | with_reducible assumption | with_reducible intro _ | (with_reducible apply Keep.ite)
    | (with_reducible apply State.on_keep) | (with_reducible apply State.setLink_keep)
    | (with_reducible apply State.wakeCore_keep) | (with_reducible apply State.landBytes_keep)
    | (with_reducible apply State.setRx_keep) | (with_reducible apply State.landingFault_keep)
    | (with_reducible apply State.take_keep) | (dsimp only) | split | (with_reducible apply Keep.kept)
    | (with_reducible refine Keep.mk (Keep.kept ?_))

theorem execSlotLand_keep {s0 s : State} (h : Keep s0 s) (link : Link) (data : SlotWord) (bad overflow : Bool) :
    Keeps s0 (execSlotLand link data bad overflow s) := by
  unfold execSlotLand
  repeat' first
    | with_reducible assumption | (with_reducible apply act_keep) | with_reducible intro _
    | (with_reducible apply State.addCredits_keep) | (with_reducible apply State.landSlot_keep) | (dsimp only)
    | split | (with_reducible apply Keep.kept) | (with_reducible refine Keep.mk (Keep.kept ?_))

theorem onEvent_keep {s0 s : State} (h : Keep s0 s) (is : Nat → Bool) (f : State → State) (hf : ∀ u, Keep s0 u → Keep
      s0 (f u)) :
    Keeps s0 (onEvent s is f) := by
  unfold onEvent
  repeat' first
    | with_reducible assumption | (with_reducible apply act_keep) | (with_reducible apply Keeps.next)
    | with_reducible intro _ | (with_reducible apply Keep.ite) | (with_reducible apply hf)
    | (with_reducible apply State.reach_keep) | (with_reducible apply State.readPoison_keep)
    | (with_reducible apply State.markFired_keep) | (with_reducible apply State.loseWindow_keep) | (dsimp only)
    | split | (with_reducible apply Keep.kept) | (with_reducible refine Keep.mk (Keep.kept ?_))

theorem execWakeCore_keep {s0 s : State} (h : Keep s0 s) (core : Core) :
    Keeps s0 (execWakeCore core s) := by
  unfold execWakeCore
  repeat' first
    | with_reducible assumption | (with_reducible apply onEvent_keep) | with_reducible intro _
    | (with_reducible apply State.wakeCore_keep) | (dsimp only) | split | (with_reducible apply Keep.kept)
    | (with_reducible refine Keep.mk (Keep.kept ?_))

theorem execWakeDie_keep {s0 s : State} (h : Keep s0 s) (die : Die) :
    Keeps s0 (execWakeDie die s) := by
  unfold execWakeDie
  repeat' first
    | with_reducible assumption | (with_reducible apply onEvent_keep) | with_reducible intro _
    | (with_reducible apply State.wakeDie_keep) | (dsimp only) | split | (with_reducible apply Keep.kept)
    | (with_reducible refine Keep.mk (Keep.kept ?_))

theorem State.ignoreSleep_keep {s0 s : State} (h : Keep s0 s) (dom : Nat) :
    Keep s0 (State.ignoreSleep s dom) := by
  unfold State.ignoreSleep
  repeat' first
    | with_reducible assumption | with_reducible intro _ | (with_reducible apply State.count_keep)
    | (with_reducible apply State.log_keep) | (dsimp only) | split | (with_reducible apply Keep.kept)
    | (with_reducible refine Keep.mk (Keep.kept ?_))

theorem execSleepCore_keep {s0 s : State} (h : Keep s0 s) (core : Core) :
    Keeps s0 (execSleepCore core s) := by
  unfold execSleepCore
  repeat' first
    | with_reducible assumption | (with_reducible apply onEvent_keep) | with_reducible intro _
    | (with_reducible apply Keep.ite) | (with_reducible apply State.mapCore_keep)
    | (with_reducible apply State.ignoreSleep_keep) | (dsimp only) | split | (with_reducible apply Keep.kept)
    | (with_reducible refine Keep.mk (Keep.kept ?_))

theorem execSleepDie_keep {s0 s : State} (h : Keep s0 s) (die : Die) :
    Keeps s0 (execSleepDie die s) := by
  unfold execSleepDie
  repeat' first
    | with_reducible assumption | (with_reducible apply onEvent_keep) | with_reducible intro _
    | (with_reducible apply Keep.ite) | (with_reducible apply State.setDie_keep)
    | (with_reducible apply State.ignoreSleep_keep) | (dsimp only) | split | (with_reducible apply Keep.kept)
    | (with_reducible refine Keep.mk (Keep.kept ?_))

theorem execEventSemPost_keep {s0 s : State} (h : Keep s0 s) (core : Core) (sem : BitVec 8) :
    Keeps s0 (execEventSemPost core sem s) := by
  unfold execEventSemPost
  repeat' first
    | with_reducible assumption | (with_reducible apply onEvent_keep) | with_reducible intro _
    | (with_reducible apply State.post_keep) | (dsimp only) | split | (with_reducible apply Keep.kept)
    | (with_reducible refine Keep.mk (Keep.kept ?_))

theorem execStrobe_keep {s0 s : State} (h : Keep s0 s)  :
    Keeps s0 (execStrobe s) := by
  unfold execStrobe
  repeat' first
    | with_reducible assumption | (with_reducible apply onEvent_keep) | with_reducible intro _
    | (with_reducible apply Keep.ite) | (with_reducible apply State.emit_keep) | (dsimp only) | split
    | (with_reducible apply Keep.kept) | (with_reducible refine Keep.mk (Keep.kept ?_))

end Sys2Proof.Machine
end

