-- ==== Sys2Proof/Laws/KeepVector.lean ====
section
/-!
SUPPORT. What the operations of Machine/Vector.lean keep (Laws/Keep.lean).
-/

namespace Sys2Proof.Machine

theorem execVectorComplete_keep {s0 s : State} (h : Keep s0 s) (core : Core) :
    Keeps s0 (execVectorComplete core s) := by
  unfold execVectorComplete
  repeat' first
    | with_reducible assumption | (with_reducible apply act_keep) | with_reducible intro _
    | (with_reducible apply Keep.ite) | (with_reducible apply State.storeWriteRaw_keep)
    | (with_reducible apply State.setCore_keep) | (with_reducible apply State.each_keep)
    | (with_reducible apply State.countFlushed_keep) | (with_reducible apply State.sendDeltas_keep)
    | (with_reducible apply State.postDone_keep) | (with_reducible apply State.evalWaitQ_keep) | (dsimp only)
    | split | (with_reducible apply Keep.kept) | (with_reducible refine Keep.mk (Keep.kept ?_))

theorem State.queueVec_keep {s0 s : State} (h : Keep s0 s) (c : Nat) (v : VecItem) :
    Keep s0 (State.queueVec s c v) := by
  unfold State.queueVec
  repeat' first
    | with_reducible assumption | with_reducible intro _ | (with_reducible apply State.mapCore_keep) | (dsimp only)
    | split | (with_reducible apply Keep.kept) | (with_reducible refine Keep.mk (Keep.kept ?_))

theorem State.issueVec_keep {s0 s : State} (h : Keep s0 s) (c x op : Nat) :
    Keep s0 (State.issueVec s c x op) := by
  unfold State.issueVec
  repeat' first
    | with_reducible assumption | with_reducible intro _ | (with_reducible apply State.enterQueue_keep)
    | (with_reducible apply State.issue_keep) | (with_reducible apply State.queueVec_keep)
    | (with_reducible apply State.ok_keep) | (with_reducible refine Keep.fst ?_ (by assumption)) | (dsimp only)
    | split | (with_reducible apply Keep.kept) | (with_reducible refine Keep.mk (Keep.kept ?_))

theorem execVadd_keep {s0 s : State} (h : Keep s0 s) (core : Core) (ctx : Ctx) :
    Keeps s0 (execVadd core ctx s) := by
  unfold execVadd
  repeat' first
    | with_reducible assumption | (with_reducible apply act_keep) | with_reducible intro _
    | (with_reducible apply State.issueVec_keep) | (dsimp only) | split | (with_reducible apply Keep.kept)
    | (with_reducible refine Keep.mk (Keep.kept ?_))

theorem execVsub_keep {s0 s : State} (h : Keep s0 s) (core : Core) (ctx : Ctx) :
    Keeps s0 (execVsub core ctx s) := by
  unfold execVsub
  repeat' first
    | with_reducible assumption | (with_reducible apply act_keep) | with_reducible intro _
    | (with_reducible apply State.issueVec_keep) | (dsimp only) | split | (with_reducible apply Keep.kept)
    | (with_reducible refine Keep.mk (Keep.kept ?_))

theorem execVmul_keep {s0 s : State} (h : Keep s0 s) (core : Core) (ctx : Ctx) :
    Keeps s0 (execVmul core ctx s) := by
  unfold execVmul
  repeat' first
    | with_reducible assumption | (with_reducible apply act_keep) | with_reducible intro _
    | (with_reducible apply State.issueVec_keep) | (dsimp only) | split | (with_reducible apply Keep.kept)
    | (with_reducible refine Keep.mk (Keep.kept ?_))

theorem execVfma_keep {s0 s : State} (h : Keep s0 s) (core : Core) (ctx : Ctx) :
    Keeps s0 (execVfma core ctx s) := by
  unfold execVfma
  repeat' first
    | with_reducible assumption | (with_reducible apply act_keep) | with_reducible intro _
    | (with_reducible apply State.issueVec_keep) | (dsimp only) | split | (with_reducible apply Keep.kept)
    | (with_reducible refine Keep.mk (Keep.kept ?_))

theorem execVmax_keep {s0 s : State} (h : Keep s0 s) (core : Core) (ctx : Ctx) :
    Keeps s0 (execVmax core ctx s) := by
  unfold execVmax
  repeat' first
    | with_reducible assumption | (with_reducible apply act_keep) | with_reducible intro _
    | (with_reducible apply State.issueVec_keep) | (dsimp only) | split | (with_reducible apply Keep.kept)
    | (with_reducible refine Keep.mk (Keep.kept ?_))

theorem execVmin_keep {s0 s : State} (h : Keep s0 s) (core : Core) (ctx : Ctx) :
    Keeps s0 (execVmin core ctx s) := by
  unfold execVmin
  repeat' first
    | with_reducible assumption | (with_reducible apply act_keep) | with_reducible intro _
    | (with_reducible apply State.issueVec_keep) | (dsimp only) | split | (with_reducible apply Keep.kept)
    | (with_reducible refine Keep.mk (Keep.kept ?_))

theorem execVcvt_keep {s0 s : State} (h : Keep s0 s) (core : Core) (ctx : Ctx) :
    Keeps s0 (execVcvt core ctx s) := by
  unfold execVcvt
  repeat' first
    | with_reducible assumption | (with_reducible apply act_keep) | with_reducible intro _
    | (with_reducible apply State.issueVec_keep) | (dsimp only) | split | (with_reducible apply Keep.kept)
    | (with_reducible refine Keep.mk (Keep.kept ?_))

theorem execVaddCp_keep {s0 s : State} (h : Keep s0 s) (core : Core) (ctx : Ctx) :
    Keeps s0 (execVaddCp core ctx s) := by
  unfold execVaddCp
  repeat' first
    | with_reducible assumption | (with_reducible apply act_keep) | with_reducible intro _
    | (with_reducible apply State.issueVec_keep) | (dsimp only) | split | (with_reducible apply Keep.kept)
    | (with_reducible refine Keep.mk (Keep.kept ?_))

theorem execVredSum_keep {s0 s : State} (h : Keep s0 s) (core : Core) (ctx : Ctx) :
    Keeps s0 (execVredSum core ctx s) := by
  unfold execVredSum
  repeat' first
    | with_reducible assumption | (with_reducible apply act_keep) | with_reducible intro _
    | (with_reducible apply State.issueVec_keep) | (dsimp only) | split | (with_reducible apply Keep.kept)
    | (with_reducible refine Keep.mk (Keep.kept ?_))

theorem execVredMax_keep {s0 s : State} (h : Keep s0 s) (core : Core) (ctx : Ctx) :
    Keeps s0 (execVredMax core ctx s) := by
  unfold execVredMax
  repeat' first
    | with_reducible assumption | (with_reducible apply act_keep) | with_reducible intro _
    | (with_reducible apply State.issueVec_keep) | (dsimp only) | split | (with_reducible apply Keep.kept)
    | (with_reducible refine Keep.mk (Keep.kept ?_))

theorem execVredSsq_keep {s0 s : State} (h : Keep s0 s) (core : Core) (ctx : Ctx) :
    Keeps s0 (execVredSsq core ctx s) := by
  unfold execVredSsq
  repeat' first
    | with_reducible assumption | (with_reducible apply act_keep) | with_reducible intro _
    | (with_reducible apply State.issueVec_keep) | (dsimp only) | split | (with_reducible apply Keep.kept)
    | (with_reducible refine Keep.mk (Keep.kept ?_))

theorem execSfExp_keep {s0 s : State} (h : Keep s0 s) (core : Core) (ctx : Ctx) :
    Keeps s0 (execSfExp core ctx s) := by
  unfold execSfExp
  repeat' first
    | with_reducible assumption | (with_reducible apply act_keep) | with_reducible intro _
    | (with_reducible apply State.issueVec_keep) | (dsimp only) | split | (with_reducible apply Keep.kept)
    | (with_reducible refine Keep.mk (Keep.kept ?_))

theorem execSfLog_keep {s0 s : State} (h : Keep s0 s) (core : Core) (ctx : Ctx) :
    Keeps s0 (execSfLog core ctx s) := by
  unfold execSfLog
  repeat' first
    | with_reducible assumption | (with_reducible apply act_keep) | with_reducible intro _
    | (with_reducible apply State.issueVec_keep) | (dsimp only) | split | (with_reducible apply Keep.kept)
    | (with_reducible refine Keep.mk (Keep.kept ?_))

theorem execSfRsqrt_keep {s0 s : State} (h : Keep s0 s) (core : Core) (ctx : Ctx) :
    Keeps s0 (execSfRsqrt core ctx s) := by
  unfold execSfRsqrt
  repeat' first
    | with_reducible assumption | (with_reducible apply act_keep) | with_reducible intro _
    | (with_reducible apply State.issueVec_keep) | (dsimp only) | split | (with_reducible apply Keep.kept)
    | (with_reducible refine Keep.mk (Keep.kept ?_))

end Sys2Proof.Machine
end

