-- ==== Sys2Proof/Laws/KeepMovers.lean ====
section
/-!
SUPPORT. What the operations of Machine/Movers.lean keep (Laws/Keep.lean).
-/

namespace Sys2Proof.Machine

theorem State.tcUse_keep {s0 s : State} (h : Keep s0 s) (c : Nat) (e : TcEntry) :
    Keep s0 (State.tcUse s c e) := by
  unfold State.tcUse
  repeat' first
    | with_reducible assumption | with_reducible intro _ | (with_reducible apply State.mapCore_keep)
    | (with_reducible apply State.take_keep) | (dsimp only) | split | (with_reducible apply Keep.kept)
    | (with_reducible refine Keep.mk (Keep.kept ?_))

theorem State.countSlot_keep {s0 s : State} (h : Keep s0 s) (sec : Nat) (w : SlotWrite) :
    Keep s0 (State.countSlot s sec w) := by
  unfold State.countSlot
  repeat' first
    | with_reducible assumption | with_reducible intro _ | (with_reducible apply Keep.ite)
    | (with_reducible apply State.on_keep) | (with_reducible apply State.count64_keep) | (dsimp only) | split
    | (with_reducible apply Keep.kept) | (with_reducible refine Keep.mk (Keep.kept ?_))

theorem State.setRun_keep {s0 s : State} (h : Keep s0 s) (m : Nat) (r : MovRun) :
    Keep s0 (State.setRun s m r) := by
  unfold State.setRun
  repeat' first
    | with_reducible assumption | with_reducible intro _ | (with_reducible apply State.setMover_keep)
    | (dsimp only) | split | (with_reducible apply Keep.kept) | (with_reducible refine Keep.mk (Keep.kept ?_))

theorem State.moverFault_keep {s0 s : State} (h : Keep s0 s) (m : Nat) (r : MovRun) (code addr : Nat) (slot : Option
      (Nat × Nat)) :
    Keep s0 (State.moverFault s m r code addr slot) := by
  unfold State.moverFault
  repeat' first
    | with_reducible assumption | with_reducible intro _ | (with_reducible apply State.emit_keep)
    | (with_reducible apply State.on_keep) | (with_reducible apply State.count_keep)
    | (with_reducible apply State.log_keep) | (with_reducible apply State.setMover_keep)
    | (with_reducible apply State.readPoison_keep) | (with_reducible apply State.faultCount_keep)
    | (with_reducible apply State.jobFail_keep) | (with_reducible apply State.ctxFault_keep)
    | (with_reducible apply State.breakDone_keep) | (with_reducible apply State.evalWaitQ_keep)
    | (with_reducible apply State.partialWrites_keep) | (with_reducible apply State.releaseClaims_keep)
    | (dsimp only) | split | (with_reducible apply Keep.kept) | (with_reducible refine Keep.mk (Keep.kept ?_))

theorem State.runSlots_keep {s0 s : State} (h : Keep s0 s) (m : Nat) (r : MovRun) (again : Bool) (n : Nat) :
    Keep s0 (State.runSlots s m r again n) := by
  induction n generalizing s r again with
  | zero => exact State.setRun_keep h _ _
  | succ n ih =>
    unfold State.runSlots
    dsimp only
    split
    · exact ih (State.countSlot_keep h _ _) _ _
    · exact State.moverFault_keep h _ _ _ _ _
    · split
      · exact State.moverFault_keep h _ _ _ _ _
      · exact State.setRun_keep (State.count_keep h _ _ _) _ _

theorem State.runMoves_keep {s0 s : State} (h : Keep s0 s) (m : Nat) (r : MovRun) :
    Keep s0 (State.runMoves s m r) := by
  unfold State.runMoves
  repeat' first
    | with_reducible assumption | with_reducible intro _ | (with_reducible apply Keep.ite)
    | (with_reducible apply State.queueRequests_keep) | (with_reducible apply State.setRun_keep)
    | (with_reducible apply State.moverFault_keep) | (with_reducible apply State.runSlots_keep)
    | (with_reducible apply State.take_keep) | (with_reducible apply Keep.foldl)
    | (with_reducible apply Keep.foldl1) | (with_reducible apply Keep.foldl2) | (dsimp only) | split
    | (with_reducible apply Keep.kept) | (with_reducible refine Keep.mk (Keep.kept ?_))

theorem State.resolve_keep {s0 s : State} (h : Keep s0 s) (m : Nat) (r : MovRun) :
    Keep s0 (State.resolve s m r) := by
  unfold State.resolve
  repeat' first
    | with_reducible assumption | with_reducible intro _ | (with_reducible apply Keep.ite)
    | (with_reducible apply State.each_keep) | (with_reducible apply State.tcUse_keep)
    | (with_reducible apply State.setRun_keep) | (with_reducible apply State.runMoves_keep) | (dsimp only) | split
    | (with_reducible apply Keep.kept) | (with_reducible refine Keep.mk (Keep.kept ?_))

theorem execDescriptorStart_keep {s0 s : State} (h : Keep s0 s) (mover : Mover) :
    Keeps s0 (execDescriptorStart mover s) := by
  unfold execDescriptorStart
  repeat' first
    | with_reducible assumption | (with_reducible apply act_keep) | with_reducible intro _
    | (with_reducible apply Keep.ite) | (with_reducible apply State.on_keep)
    | (with_reducible apply State.count_keep) | (with_reducible apply State.setMover_keep)
    | (with_reducible apply State.resolve_keep) | (dsimp only) | split | (with_reducible apply Keep.kept)
    | (with_reducible refine Keep.mk (Keep.kept ?_))

theorem execDescriptorComplete_keep {s0 s : State} (h : Keep s0 s) (mover : Mover) :
    Keeps s0 (execDescriptorComplete mover s) := by
  unfold execDescriptorComplete
  repeat' first
    | with_reducible assumption | (with_reducible apply act_keep) | with_reducible intro _
    | (with_reducible apply Keep.ite) | (with_reducible apply State.count64_keep)
    | (with_reducible apply State.writeBytes_keep) | (with_reducible apply State.storeBytes_keep)
    | (with_reducible apply State.mapCtx_keep) | (with_reducible apply State.setMover_keep)
    | (with_reducible apply State.each_keep) | (with_reducible apply State.postDone_keep)
    | (with_reducible apply State.evalWaitQ_keep) | (with_reducible apply State.landCoded_keep)
    | (with_reducible apply State.moverFault_keep) | (dsimp only) | split | (with_reducible apply Keep.kept)
    | (with_reducible refine Keep.mk (Keep.kept ?_))

theorem execMoverCheckRetry_keep {s0 s : State} (h : Keep s0 s) (mover : Mover) :
    Keeps s0 (execMoverCheckRetry mover s) := by
  unfold execMoverCheckRetry
  repeat' first
    | with_reducible assumption | (with_reducible apply act_keep) | with_reducible intro _
    | (with_reducible apply Keep.ite) | (with_reducible apply State.runSlots_keep) | (dsimp only) | split
    | (with_reducible apply Keep.kept) | (with_reducible refine Keep.mk (Keep.kept ?_))

theorem execMoverReset_keep {s0 s : State} (h : Keep s0 s) (mover : Mover) :
    Keeps s0 (execMoverReset mover s) := by
  unfold execMoverReset
  repeat' first
    | with_reducible assumption | (with_reducible apply act_keep) | with_reducible intro _
    | (with_reducible apply State.log_keep) | (with_reducible apply State.moverReset_keep) | (dsimp only) | split
    | (with_reducible apply Keep.kept) | (with_reducible refine Keep.mk (Keep.kept ?_))

theorem State.queueMov_keep {s0 s : State} (h : Keep s0 s) (c x : Nat) (out : Bool) (i : MovItem) :
    Keep s0 (State.queueMov s c x out i) := by
  unfold State.queueMov
  repeat' first
    | with_reducible assumption | with_reducible intro _ | (with_reducible apply Keep.ite)
    | (with_reducible apply State.mapCtx_keep) | (with_reducible apply State.setMover_keep) | (dsimp only) | split
    | (with_reducible apply Keep.kept) | (with_reducible refine Keep.mk (Keep.kept ?_))

theorem execMovX_keep {s0 s : State} (h : Keep s0 s) (core : Core) (ctx : Ctx) :
    Keeps s0 (execMovX core ctx s) := by
  unfold execMovX
  repeat' first
    | with_reducible assumption | (with_reducible apply act_keep) | with_reducible intro _
    | (with_reducible apply Keep.ite) | (with_reducible apply State.mapCore_keep)
    | (with_reducible apply State.setCtx_keep) | (with_reducible apply State.retire_keep)
    | (with_reducible apply State.enterQueue_keep) | (with_reducible apply State.issue_keep)
    | (with_reducible apply State.queueMov_keep) | (dsimp only) | split | (with_reducible apply Keep.kept)
    | (with_reducible refine Keep.mk (Keep.kept ?_))

theorem execQueueAdmit_keep {s0 s : State} (h : Keep s0 s) (core : Core) (ctx : Ctx) :
    Keeps s0 (execQueueAdmit core ctx s) := by
  unfold execQueueAdmit
  repeat' first
    | with_reducible assumption | (with_reducible apply act_keep) | with_reducible intro _
    | (with_reducible apply Keep.ite) | (with_reducible apply State.enterQueue_keep)
    | (with_reducible apply State.queuePass_keep) | (with_reducible apply State.joinGathered_keep)
    | (with_reducible apply State.queueVec_keep) | (with_reducible apply State.queueMov_keep) | (dsimp only)
    | split | (with_reducible apply Keep.kept) | (with_reducible refine Keep.mk (Keep.kept ?_))

theorem State.streamFail_keep {s0 s : State} (h : Keep s0 s) (c x : Nat) :
    Keep s0 (State.streamFail s c x) := by
  unfold State.streamFail
  repeat' first
    | with_reducible assumption | with_reducible intro _ | (with_reducible apply State.ctxFault_keep)
    | (with_reducible apply State.streamMiss_keep) | (dsimp only) | split | (with_reducible apply Keep.kept)
    | (with_reducible refine Keep.mk (Keep.kept ?_))

theorem execStreamRefill_keep {s0 s : State} (h : Keep s0 s) (core : Core) (ctx : Ctx) :
    Keeps s0 (execStreamRefill core ctx s) := by
  unfold execStreamRefill
  repeat' first
    | with_reducible assumption | (with_reducible apply act_keep) | with_reducible intro _
    | (with_reducible apply Keep.ite) | (with_reducible apply State.setCtx_keep)
    | (with_reducible apply State.each_keep) | (with_reducible apply State.streamMiss_keep)
    | (with_reducible apply State.tcUse_keep) | (with_reducible apply State.streamFail_keep)
    | (with_reducible apply State.ok_keep) | (with_reducible apply Kept.ring_take)
    | (with_reducible refine Keep.fst ?_ (by assumption)) | (dsimp only) | split
    | (with_reducible apply Keep.mk; (try dsimp only); with_reducible apply Kept.ring_take)
    | (with_reducible apply Keep.kept) | (with_reducible refine Keep.mk (Keep.kept ?_))

theorem execTableWalkComplete_keep {s0 s : State} (h : Keep s0 s) (core : Core) (user : WalkUser) (va : BitVec 48)
      (_write : Bool) :
    Keeps s0 (execTableWalkComplete core user va _write s) := by
  unfold execTableWalkComplete
  repeat' first
    | with_reducible assumption | (with_reducible apply act_keep) | with_reducible intro _
    | (with_reducible apply Keep.ite) | (with_reducible apply State.count64_keep)
    | (with_reducible apply State.tcUse_keep) | (with_reducible apply State.moverFault_keep)
    | (with_reducible apply State.resolve_keep) | (with_reducible apply State.streamFail_keep)
    | (with_reducible apply State.ok_keep) | (with_reducible refine Keep.fst ?_ (by assumption)) | (dsimp only)
    | split | (with_reducible apply Keep.kept) | (with_reducible refine Keep.mk (Keep.kept ?_))

theorem execTranslationInvalidate_keep {s0 s : State} (h : Keep s0 s) (page : Option (BitVec 48)) :
    Keeps s0 (execTranslationInvalidate page s) := by
  unfold execTranslationInvalidate
  repeat' first
    | with_reducible assumption | (with_reducible apply act_keep) | with_reducible intro _ | (dsimp only) | split
    | (with_reducible apply Keep.kept) | (with_reducible refine Keep.mk (Keep.kept ?_))

theorem execInvalidateComplete_keep {s0 s : State} (h : Keep s0 s)  :
    Keeps s0 (execInvalidateComplete s) := by
  unfold execInvalidateComplete
  repeat' first
    | with_reducible assumption | (with_reducible apply act_keep) | with_reducible intro _ | (dsimp only) | split
    | (with_reducible apply Keep.kept) | (with_reducible refine Keep.mk (Keep.kept ?_))

theorem execRegionChangeEffective_keep {s0 s : State} (h : Keep s0 s) (n : Fin 256) (entry : RegionChange) :
    Keeps s0 (execRegionChangeEffective n entry s) := by
  unfold execRegionChangeEffective
  repeat' first
    | with_reducible assumption | (with_reducible apply act_keep) | with_reducible intro _
    | (with_reducible apply Keep.ite) | (with_reducible apply State.reach_keep)
    | (with_reducible apply State.count_keep) | (with_reducible apply State.log_keep) | (dsimp only) | split
    | (with_reducible apply Keep.kept) | (with_reducible refine Keep.mk (Keep.kept ?_))

end Sys2Proof.Machine
end

