-- ==== Sys2Proof/Laws/KeepWatch.lean ====
section
/-!
SUPPORT. What the operations of Machine/Watch.lean keep (Laws/Keep.lean).
-/

namespace Sys2Proof.Machine

theorem State.setWatch_keep {s0 s : State} (h : Keep s0 s) (f : Watch → Watch) :
    Keep s0 (State.setWatch s f) := by
  unfold State.setWatch
  repeat' first
    | with_reducible assumption | with_reducible intro _ | (dsimp only) | split | (with_reducible apply Keep.kept)
    | (with_reducible refine Keep.mk (Keep.kept ?_))

theorem State.tallyPut_keep {s0 s : State} (h : Keep s0 s) (tag : Nat) (r : TallyRec) :
    Keep s0 (State.tallyPut s tag r) := by
  unfold State.tallyPut
  repeat' first
    | with_reducible assumption | with_reducible intro _ | (with_reducible apply State.write_keep)
    | (with_reducible apply State.setWatch_keep) | (with_reducible apply State.take_keep) | (dsimp only) | split
    | (with_reducible apply Keep.kept) | (with_reducible refine Keep.mk (Keep.kept ?_))

theorem State.tallyLoad_keep {s0 s : State} (h : Keep s0 s) (tag : Nat) :
    Keep s0 (State.tallyLoad s tag).2 := by
  unfold State.tallyLoad
  repeat' first
    | with_reducible assumption | with_reducible intro _ | (with_reducible apply State.on_keep)
    | (with_reducible apply State.count64_keep) | (with_reducible apply State.readPoison_keep)
    | (with_reducible apply State.tallyPut_keep) | (dsimp only) | split | (with_reducible apply Keep.kept)
    | (with_reducible refine Keep.mk (Keep.kept ?_))

theorem State.applyDelta_keep {s0 s : State} (h : Keep s0 s) (d : Delta) :
    Keep s0 (State.applyDelta s d) := by
  unfold State.applyDelta
  repeat' first
    | with_reducible assumption | with_reducible intro _ | (with_reducible apply Keep.ite)
    | (with_reducible apply State.on_keep) | (with_reducible apply State.count_keep)
    | (with_reducible apply State.count64_keep) | (with_reducible apply State.setWatch_keep)
    | (with_reducible apply State.tallyPut_keep) | (with_reducible apply State.tallyLoad_keep)
    | (with_reducible refine Keep.snd ?_ (by assumption)) | (dsimp only) | split | (with_reducible apply Keep.kept)
    | (with_reducible refine Keep.mk (Keep.kept ?_))

theorem execTallyDelta_keep {s0 s : State} (h : Keep s0 s)  :
    Keeps s0 (execTallyDelta s) := by
  unfold execTallyDelta
  repeat' first
    | with_reducible assumption | (with_reducible apply act_keep) | with_reducible intro _
    | (with_reducible apply State.each_keep) | (with_reducible apply State.applyDelta_keep) | (dsimp only) | split
    | (with_reducible apply Keep.kept) | (with_reducible refine Keep.mk (Keep.kept ?_))

theorem execTallyReadServe_keep {s0 s : State} (h : Keep s0 s) (core : Core) (ctx : Ctx) :
    Keeps s0 (execTallyReadServe core ctx s) := by
  unfold execTallyReadServe
  repeat' first
    | with_reducible assumption | (with_reducible apply act_keep) | with_reducible intro _
    | (with_reducible apply State.storeWrite_keep) | (with_reducible apply State.retire_keep)
    | (with_reducible apply State.tallyLoad_keep) | (with_reducible refine Keep.snd ?_ (by assumption))
    | (dsimp only) | split | (with_reducible apply Keep.kept) | (with_reducible refine Keep.mk (Keep.kept ?_))

theorem State.clearTally_keep {s0 s : State} (h : Keep s0 s)  :
    Keep s0 (State.clearTally s) := by
  unfold State.clearTally
  repeat' first
    | with_reducible assumption | with_reducible intro _ | (with_reducible apply State.setWatch_keep)
    | (dsimp only) | split | (with_reducible apply Keep.kept) | (with_reducible refine Keep.mk (Keep.kept ?_))

theorem State.closeEpoch_keep {s0 s : State} (h : Keep s0 s)  :
    Keep s0 (State.closeEpoch s) := by
  unfold State.closeEpoch
  repeat' first
    | with_reducible assumption | with_reducible intro _ | (with_reducible apply State.setObj_keep)
    | (with_reducible apply State.setRec_keep) | (with_reducible apply State.each_keep)
    | (with_reducible apply State.setWatch_keep) | (dsimp only) | split | (with_reducible apply Keep.kept)
    | (with_reducible refine Keep.mk (Keep.kept ?_))

theorem State.writeScale_keep {s0 s : State} (h : Keep s0 s) (c : Nat) :
    Keep s0 (State.writeScale s c) := by
  unfold State.writeScale
  repeat' first
    | with_reducible assumption | with_reducible intro _ | (with_reducible apply Keep.ite)
    | (with_reducible apply State.storeWrite_keep) | (dsimp only) | split | (with_reducible apply Keep.kept)
    | (with_reducible refine Keep.mk (Keep.kept ?_))

theorem State.sendScale_keep {s0 s : State} (h : Keep s0 s)  :
    Keep s0 (State.sendScale s) := by
  unfold State.sendScale
  repeat' first
    | with_reducible assumption | with_reducible intro _ | (with_reducible apply Keep.ite)
    | (with_reducible apply State.mapCore_keep) | (with_reducible apply State.each_keep)
    | (with_reducible apply State.writeScale_keep) | (dsimp only) | split | (with_reducible apply Keep.kept)
    | (with_reducible refine Keep.mk (Keep.kept ?_))

theorem State.lossScale_keep {s0 s : State} (h : Keep s0 s) (kind : Decision) :
    Keep s0 (State.lossScale s kind) := by
  unfold State.lossScale
  repeat' first
    | with_reducible assumption | with_reducible intro _ | (with_reducible apply Keep.ite)
    | (with_reducible apply State.on_keep) | (with_reducible apply State.setObj_keep)
    | (with_reducible apply State.log_keep) | (with_reducible apply State.interrupt_keep)
    | (with_reducible apply State.sendScale_keep) | (dsimp only) | split | (with_reducible apply Keep.kept)
    | (with_reducible refine Keep.mk (Keep.kept ?_))

end Sys2Proof.Machine
end

