-- ==== Sys2Proof/Laws/KeepEngines.lean ====
section
/-!
SUPPORT. What the operations of Machine/Engines.lean keep (Laws/Keep.lean).
-/

namespace Sys2Proof.Machine

theorem State.mpWrite_keep {s0 s : State} (h : Keep s0 s) (va : Nat) (bs : List Byte) :
    Keep s0 (State.mpWrite s va bs) := by
  unfold State.mpWrite
  repeat' first
    | with_reducible assumption | with_reducible intro _ | (with_reducible apply State.writeBytes_keep)
    | (with_reducible apply State.ok_keep) | (with_reducible refine Keep.fst ?_ (by assumption)) | (dsimp only)
    | split | (with_reducible apply Keep.kept) | (with_reducible refine Keep.mk (Keep.kept ?_))

theorem State.setTrain_keep {s0 s : State} (h : Keep s0 s) (f : Train → Train) :
    Keep s0 (State.setTrain s f) := by
  unfold State.setTrain
  repeat' first
    | with_reducible assumption | with_reducible intro _ | (dsimp only) | split | (with_reducible apply Keep.kept)
    | (with_reducible refine Keep.mk (Keep.kept ?_))

theorem State.setEngineSt_keep {s0 s : State} (h : Keep s0 s) (n : Nat) (e : EngineSt) :
    Keep s0 (State.setEngineSt s n e) := by
  unfold State.setEngineSt
  repeat' first
    | with_reducible assumption | with_reducible intro _ | (with_reducible apply State.setTrain_keep)
    | (dsimp only) | split | (with_reducible apply Keep.kept) | (with_reducible refine Keep.mk (Keep.kept ?_))

theorem State.enginePages_keep {s0 s : State} (h : Keep s0 s) (n : Nat) (us : List Nat) :
    Keep s0 (State.enginePages s n us).1 := by
  unfold State.enginePages
  repeat' first
    | with_reducible assumption | with_reducible intro _ | (with_reducible apply Keep.ite)
    | (with_reducible apply Keep.ite1) | (with_reducible apply State.setEngineSt_keep)
    | (with_reducible apply State.ok_keep) | (with_reducible apply State.take_keep)
    | (with_reducible apply Keep.foldl) | (with_reducible apply Keep.foldl1) | (with_reducible apply Keep.foldl2)
    | (with_reducible refine Keep.fst ?_ (by assumption)) | (dsimp only) | split | (with_reducible apply Keep.kept)
    | (with_reducible refine Keep.mk (Keep.kept ?_))

theorem Eff.andThen_keep {s0 : State} {e : Eff} (h : Keep s0 e.1) (f : State → Eff)
    (hf : ∀ u, Keep s0 u → Keep s0 (f u).1) : Keep s0 (Eff.andThen e f).1 := by
  unfold Eff.andThen
  split
  · exact hf _ h
  · exact h

theorem State.ok_keep {s0 s : State} (h : Keep s0 s)  :
    Keep s0 (State.ok s).1 := by
  unfold State.ok
  repeat' first
    | with_reducible assumption | with_reducible intro _ | (dsimp only) | split | (with_reducible apply Keep.kept)
    | (with_reducible refine Keep.mk (Keep.kept ?_))

theorem State.eWrite_keep {s0 s : State} (h : Keep s0 s) (ps : List TcEntry) (va : Nat) (bs : List Byte) :
    Keep s0 (State.eWrite s ps va bs).1 := by
  unfold State.eWrite
  repeat' first
    | with_reducible assumption | with_reducible intro _ | (with_reducible apply State.writeBytes_keep)
    | (with_reducible apply State.ok_keep) | (with_reducible refine Keep.fst ?_ (by assumption)) | (dsimp only)
    | split | (with_reducible apply Keep.kept) | (with_reducible refine Keep.mk (Keep.kept ?_))

theorem State.eWrites_keep {s0 s : State} (h : Keep s0 s) (ps : List TcEntry) (ws : List (Nat × List Byte)) :
    Keep s0 (State.eWrites s ps ws).1 := by
  unfold State.eWrites
  repeat' first
    | with_reducible assumption | with_reducible intro _ | (with_reducible apply Eff.andThen_keep)
    | (with_reducible apply State.ok_keep) | (with_reducible apply State.eWrite_keep)
    | (with_reducible apply Keep.foldl) | (with_reducible apply Keep.foldl1) | (with_reducible apply Keep.foldl2)
    | (with_reducible refine Keep.fst ?_ (by assumption)) | (dsimp only) | split | (with_reducible apply Keep.kept)
    | (with_reducible refine Keep.mk (Keep.kept ?_))

theorem State.tallyBlocks_keep {s0 s : State} (h : Keep s0 s) (tag fmt : Nat) (os : List (List Outcome)) :
    Keep s0 (State.tallyBlocks s tag fmt os) := by
  unfold State.tallyBlocks
  repeat' first
    | with_reducible assumption | with_reducible intro _ | (with_reducible apply State.sendDeltas_keep)
    | (dsimp only) | split | (with_reducible apply Keep.kept) | (with_reducible refine Keep.mk (Keep.kept ?_))

theorem State.setRepair_keep {s0 s : State} (h : Keep s0 s) (r : Option Repair) :
    Keep s0 (State.setRepair s r) := by
  unfold State.setRepair
  repeat' first
    | with_reducible assumption | with_reducible intro _ | (with_reducible apply State.setTrain_keep)
    | (dsimp only) | split | (with_reducible apply Keep.kept) | (with_reducible refine Keep.mk (Keep.kept ?_))

theorem State.askRepair_keep {s0 s : State} (h : Keep s0 s)  :
    Keep s0 (State.askRepair s) := by
  unfold State.askRepair
  repeat' first
    | with_reducible assumption | with_reducible intro _ | (with_reducible apply Keep.ite)
    | (with_reducible apply State.queueRequests_keep) | (with_reducible apply State.setRepair_keep) | (dsimp only)
    | split | (with_reducible apply Keep.kept) | (with_reducible refine Keep.mk (Keep.kept ?_))

theorem State.repairImpossible_keep {s0 s : State} (h : Keep s0 s)  :
    Keep s0 (State.repairImpossible s) := by
  unfold State.repairImpossible
  repeat' first
    | with_reducible assumption | with_reducible intro _ | (with_reducible apply State.log_keep)
    | (with_reducible apply State.faultCount_keep) | (with_reducible apply State.jobFail_keep) | (dsimp only)
    | split | (with_reducible apply Keep.kept) | (with_reducible refine Keep.mk (Keep.kept ?_))

theorem State.queueRepair_keep {s0 s : State} (h : Keep s0 s) (b : Nat) :
    Keep s0 (State.queueRepair s b) := by
  unfold State.queueRepair
  repeat' first
    | with_reducible assumption | with_reducible intro _ | (with_reducible apply Keep.ite)
    | (with_reducible apply State.schedFault_keep) | (with_reducible apply State.setRepair_keep)
    | (with_reducible apply State.askRepair_keep) | (with_reducible apply State.repairImpossible_keep)
    | (dsimp only) | split | (with_reducible apply Keep.kept) | (with_reducible refine Keep.mk (Keep.kept ?_))

theorem State.tagFault_keep {s0 s : State} (h : Keep s0 s) (k : Blk) :
    Keep s0 (State.tagFault s k) := by
  unfold State.tagFault
  repeat' first
    | with_reducible assumption | with_reducible intro _ | (with_reducible apply State.count_keep)
    | (with_reducible apply State.log_keep) | (with_reducible apply State.queueRepair_keep) | (dsimp only) | split
    | (with_reducible apply Keep.kept) | (with_reducible refine Keep.mk (Keep.kept ?_))

theorem State.engineReset_keep {s0 s : State} (h : Keep s0 s) (n cause : Nat) :
    Keep s0 (State.engineReset s n cause) := by
  unfold State.engineReset
  repeat' first
    | with_reducible assumption | with_reducible intro _ | (with_reducible apply State.log_keep)
    | (with_reducible apply State.countedReset_keep) | (with_reducible apply State.releaseHolds_keep)
    | (with_reducible apply State.setEngineSt_keep) | (dsimp only) | split | (with_reducible apply Keep.kept)
    | (with_reducible refine Keep.mk (Keep.kept ?_))

theorem Eff.settle_keep {s0 : State} {e : Eff} (h : Keep s0 e.1) (k : Blk) : Keep s0 (Eff.settle e k).1 := by
  unfold Eff.settle
  split
  · exact State.tagFault_keep h _
  · exact State.engineReset_keep h _ _
  · exact h

theorem State.quantiseBlk_keep {s0 s : State} (h : Keep s0 s) (k : Blk) :
    Keep s0 (State.quantiseBlk s k).1 := by
  unfold State.quantiseBlk
  repeat' first
    | with_reducible assumption | with_reducible intro _ | (with_reducible apply Keep.ite)
    | (with_reducible apply Keep.ite1) | (with_reducible apply State.countFlushed_keep)
    | (with_reducible apply State.enginePages_keep) | (with_reducible apply Eff.andThen_keep)
    | (with_reducible apply State.ok_keep) | (with_reducible apply State.eWrites_keep)
    | (with_reducible apply State.tallyBlocks_keep) | (with_reducible apply Eff.settle_keep)
    | (with_reducible refine Keep.fst ?_ (by assumption)) | (dsimp only) | split | (with_reducible apply Keep.kept)
    | (with_reducible refine Keep.mk (Keep.kept ?_))

theorem State.atStep_keep {s0 s : State} (h : Keep s0 s) (off : Nat) (f : State → State) (hf : ∀ u, Keep s0 u → Keep
      s0 (f u)) :
    Keep s0 (State.atStep s off f) := by
  unfold State.atStep
  repeat' first
    | with_reducible assumption | with_reducible intro _ | (with_reducible apply Keep.ite)
    | (with_reducible apply hf) | (with_reducible apply State.reach_keep) | (dsimp only) | split
    | (with_reducible apply Keep.kept) | (with_reducible refine Keep.mk (Keep.kept ?_))

theorem execGroupQuantise_keep {s0 s : State} (h : Keep s0 s) (g : Fin 1024) :
    Keeps s0 (execGroupQuantise g s) := by
  unfold execGroupQuantise
  repeat' first
    | with_reducible assumption | (with_reducible apply act_keep) | with_reducible intro _
    | (with_reducible apply Keep.ite) | (with_reducible apply State.on_keep)
    | (with_reducible apply State.count_keep) | (with_reducible apply State.log_keep)
    | (with_reducible apply State.schedFault_keep) | (with_reducible apply State.setTrain_keep)
    | (with_reducible apply Eff.andThen_keep) | (with_reducible apply State.ok_keep)
    | (with_reducible apply State.quantiseBlk_keep) | (with_reducible apply State.atStep_keep)
    | (with_reducible apply Keep.foldl) | (with_reducible apply Keep.foldl1) | (with_reducible apply Keep.foldl2)
    | (with_reducible refine Keep.fst ?_ (by assumption)) | (dsimp only) | split | (with_reducible apply Keep.kept)
    | (with_reducible refine Keep.mk (Keep.kept ?_))

theorem State.engineSum_keep {s0 s : State} (h : Keep s0 s) (n : Nat) :
    Keep s0 (State.engineSum s n).1 := by
  unfold State.engineSum
  repeat' first
    | with_reducible assumption | with_reducible intro _ | (with_reducible apply Keep.ite)
    | (with_reducible apply Keep.ite1) | (with_reducible apply State.countFlushed_keep)
    | (with_reducible apply State.enginePages_keep) | (with_reducible apply State.ok_keep)
    | (with_reducible apply Eff.settle_keep) | (with_reducible apply Keep.foldl)
    | (with_reducible apply Keep.foldl1) | (with_reducible apply Keep.foldl2)
    | (with_reducible refine Keep.fst ?_ (by assumption)) | (dsimp only) | split | (with_reducible apply Keep.kept)
    | (with_reducible refine Keep.mk (Keep.kept ?_))

theorem execNormSum_keep {s0 s : State} (h : Keep s0 s)  :
    Keeps s0 (execNormSum s) := by
  unfold execNormSum
  repeat' first
    | with_reducible assumption | (with_reducible apply act_keep) | with_reducible intro _
    | (with_reducible apply Keep.ite) | (with_reducible apply State.setTrain_keep)
    | (with_reducible apply State.atStep_keep) | (with_reducible apply State.engineSum_keep)
    | (with_reducible apply Keep.foldl) | (with_reducible apply Keep.foldl1) | (with_reducible apply Keep.foldl2)
    | (with_reducible refine Keep.fst ?_ (by assumption)) | (dsimp only) | split | (with_reducible apply Keep.kept)
    | (with_reducible refine Keep.mk (Keep.kept ?_))

theorem State.setMailbox_keep {s0 s : State} (h : Keep s0 s) (m : Nat) (bs : List Byte) :
    Keep s0 (State.setMailbox s m bs) := by
  unfold State.setMailbox
  repeat' first
    | with_reducible assumption | with_reducible intro _ | (with_reducible apply State.write_keep)
    | (with_reducible apply Kept.mailboxes_nil) | (with_reducible apply Kept.mailboxes_write)
    | (with_reducible apply Kept.mailboxes_cells) | (dsimp only) | split
    | (with_reducible apply Keep.mk; (try dsimp only); with_reducible apply Kept.mailboxes_nil)
    | (with_reducible apply Keep.mk; (try dsimp only); with_reducible apply Kept.mailboxes_write)
    | (with_reducible apply Keep.mk; (try dsimp only); with_reducible apply Kept.mailboxes_cells)
    | (with_reducible apply Keep.kept) | (with_reducible refine Keep.mk (Keep.kept ?_))

theorem State.countSlots_keep {s0 s : State} (h : Keep s0 s) (ws : List (Nat × List Byte)) :
    Keep s0 (State.countSlots s ws) := by
  unfold State.countSlots
  repeat' first
    | with_reducible assumption | with_reducible intro _ | (with_reducible apply State.on_keep)
    | (with_reducible apply State.count64_keep) | (with_reducible apply Kept.maps_nil)
    | (with_reducible apply Kept.maps_set) | (with_reducible apply Kept.maps_cells) | (dsimp only) | split
    | (with_reducible apply Keep.mk; (try dsimp only); with_reducible apply Kept.maps_nil)
    | (with_reducible apply Keep.mk; (try dsimp only); with_reducible apply Kept.maps_set)
    | (with_reducible apply Keep.mk; (try dsimp only); with_reducible apply Kept.maps_cells)
    | (with_reducible apply Keep.kept) | (with_reducible refine Keep.mk (Keep.kept ?_))

theorem State.moveShardFp_keep {s0 s : State} (h : Keep s0 s) (old new : Nat) :
    Keep s0 (State.moveShardFp s old new) := by
  unfold State.moveShardFp
  repeat' first
    | with_reducible assumption | with_reducible intro _ | (with_reducible apply State.setObj_keep) | (dsimp only)
    | split | (with_reducible apply Keep.kept) | (with_reducible refine Keep.mk (Keep.kept ?_))

end Sys2Proof.Machine
end

