-- ==== Sys2Proof/Laws/KeepRopeSweep.lean ====
section
/-!
SUPPORT. What the operations of Machine/RopeSweep.lean keep (Laws/Keep.lean).
-/

namespace Sys2Proof.Machine

theorem State.setRope_keep {s0 s : State} (h : Keep s0 s) (f : Rope → Rope) :
    Keep s0 (State.setRope s f) := by
  unfold State.setRope
  repeat' first
    | with_reducible assumption | with_reducible intro _ | (dsimp only) | split | (with_reducible apply Keep.kept)
    | (with_reducible refine Keep.mk (Keep.kept ?_))

theorem State.setRopeRec_keep {s0 s : State} (h : Keep s0 s) (w : Nat) :
    Keep s0 (State.setRopeRec s w) := by
  unfold State.setRopeRec
  repeat' first
    | with_reducible assumption | with_reducible intro _ | (with_reducible apply State.setObj_keep)
    | (with_reducible apply State.mpWrite_keep) | (dsimp only) | split | (with_reducible apply Keep.kept)
    | (with_reducible refine Keep.mk (Keep.kept ?_))

theorem State.setStream_keep {s0 s : State} (h : Keep s0 s) (round n : Nat) (bs : List Byte) :
    Keep s0 (State.setStream s round n bs) := by
  unfold State.setStream
  repeat' first
    | with_reducible assumption | with_reducible intro _ | (with_reducible apply State.setRope_keep) | (dsimp only)
    | split | (with_reducible apply Keep.kept) | (with_reducible refine Keep.mk (Keep.kept ?_))

theorem State.outerBlk_keep {s0 s : State} (h : Keep s0 s) (ps : List TcEntry) (sw : Sweep) (k : Blk) :
    Keep s0 (State.outerBlk s ps sw k).1 := by
  unfold State.outerBlk
  generalize List.replicate 16384 0 = z
  dsimp only
  split
  · with_reducible exact h
  · split
    · with_reducible exact h
    · exact Eff.andThen_keep (State.eWrites_keep h _ _) _ fun _ hu => State.ok_keep (State.countSlots_keep hu _)
  · exact State.ok_keep h

theorem State.roundEndBlk_keep {s0 s : State} (h : Keep s0 s) (ps : List TcEntry) (sw : Sweep) (k : Blk) :
    Keep s0 (State.roundEndBlk s ps sw k).1.1 := by
  unfold State.roundEndBlk
  repeat' first
    | with_reducible assumption | with_reducible intro _ | (with_reducible apply Keep.ite)
    | (with_reducible apply Keep.ite11) | (with_reducible apply State.on_keep)
    | (with_reducible apply State.count_keep) | (with_reducible apply State.count64_keep)
    | (with_reducible apply State.log_keep) | (with_reducible apply State.sent_keep)
    | (with_reducible apply Eff.andThen_keep) | (with_reducible apply State.ok_keep)
    | (with_reducible apply State.eWrites_keep) | (with_reducible apply State.tallyBlocks_keep)
    | (with_reducible apply State.setRope_keep) | (with_reducible apply State.setStream_keep)
    | (with_reducible apply Keep.foldl) | (with_reducible apply Keep.foldl1) | (with_reducible apply Keep.foldl2)
    | (with_reducible refine Keep.fst ?_ (by assumption)) | (dsimp only) | split | (with_reducible apply Keep.kept)
    | (with_reducible refine Keep.mk (Keep.kept ?_))

theorem State.ropeBlk_keep {s0 s : State} (h : Keep s0 s) (ps : List TcEntry) (sw : Sweep) (i : Nat) (k : Blk) (skip
      : Bool) :
    Keep s0 (State.ropeBlk s ps sw i k skip).1 := by
  unfold State.ropeBlk
  repeat' first
    | with_reducible assumption | (with_reducible apply step_keep) | with_reducible intro _
    | (with_reducible apply Keep.ite) | (with_reducible apply Keep.ite1) | (with_reducible apply Eff.andThen_keep)
    | (with_reducible apply State.ok_keep) | (with_reducible apply State.eWrites_keep)
    | (with_reducible apply State.roundEndBlk_keep) | (with_reducible apply State.done_keep)
    | (with_reducible refine Keep.snd ?_ (by assumption)) | (with_reducible refine Keep.fst ?_ (by assumption))
    | (dsimp only) | split | (with_reducible apply Keep.kept) | (with_reducible refine Keep.mk (Keep.kept ?_))

theorem State.setPeer_keep {s0 s : State} (h : Keep s0 s) (site : Nat) (p : RopePeer) :
    Keep s0 (State.setPeer s site p) := by
  unfold State.setPeer
  repeat' first
    | with_reducible assumption | with_reducible intro _ | (with_reducible apply State.setRope_keep) | (dsimp only)
    | split | (with_reducible apply Keep.kept) | (with_reducible refine Keep.mk (Keep.kept ?_))

theorem State.setSess_keep {s0 s : State} (h : Keep s0 s) (x : Nat) (v : RopeSess) :
    Keep s0 (State.setSess s x v) := by
  unfold State.setSess
  repeat' first
    | with_reducible assumption | with_reducible intro _ | (with_reducible apply State.setRope_keep) | (dsimp only)
    | split | (with_reducible apply Keep.kept) | (with_reducible refine Keep.mk (Keep.kept ?_))

theorem State.mapSess_keep {s0 s : State} (h : Keep s0 s) (x : Nat) (f : RopeSess → RopeSess) :
    Keep s0 (State.mapSess s x f) := by
  unfold State.mapSess
  repeat' first
    | with_reducible assumption | with_reducible intro _ | (with_reducible apply State.setSess_keep) | (dsimp only)
    | split | (with_reducible apply Keep.kept) | (with_reducible refine Keep.mk (Keep.kept ?_))

theorem State.goSlack_keep {s0 s : State} (h : Keep s0 s) (x : Nat) :
    Keep s0 (State.goSlack s x) := by
  unfold State.goSlack
  repeat' first
    | with_reducible assumption | with_reducible intro _ | (with_reducible apply Keep.ite)
    | (with_reducible apply State.log_keep) | (with_reducible apply State.setPeer_keep)
    | (with_reducible apply State.setSess_keep) | (dsimp only) | split | (with_reducible apply Keep.kept)
    | (with_reducible refine Keep.mk (Keep.kept ?_))

theorem State.reuseArea_keep {s0 s : State} (h : Keep s0 s) (round : Nat) :
    Keep s0 (State.reuseArea s round) := by
  unfold State.reuseArea
  repeat' first
    | with_reducible assumption | with_reducible intro _ | (with_reducible apply Keep.ite)
    | (with_reducible apply State.log_keep) | (with_reducible apply State.each_keep)
    | (with_reducible apply State.goSlack_keep) | (dsimp only) | split | (with_reducible apply Keep.kept)
    | (with_reducible refine Keep.mk (Keep.kept ?_))

end Sys2Proof.Machine
end

