-- ==== Sys2Proof/Laws/KeepDxp.lean ====
section
/-!
SUPPORT. What the operations of Machine/Dxp.lean keep (Laws/Keep.lean).
-/

namespace Sys2Proof.Machine

theorem State.setDict_keep {s0 s : State} (h : Keep s0 s) (f : Dict → Dict) :
    Keep s0 (State.setDict s f) := by
  unfold State.setDict
  repeat' first
    | with_reducible assumption | with_reducible intro _ | (dsimp only) | split | (with_reducible apply Keep.kept)
    | (with_reducible refine Keep.mk (Keep.kept ?_))

theorem State.setHost_keep {s0 s : State} (h : Keep s0 s) (f : HostPort → HostPort) :
    Keep s0 (State.setHost s f) := by
  unfold State.setHost
  repeat' first
    | with_reducible assumption | with_reducible intro _ | (dsimp only) | split | (with_reducible apply Keep.kept)
    | (with_reducible refine Keep.mk (Keep.kept ?_))

theorem State.sendMgmt_keep {s0 s : State} (h : Keep s0 s) (dst : Nat) (bs : List Byte) :
    Keep s0 (State.sendMgmt s dst bs) := by
  unfold State.sendMgmt
  repeat' first
    | with_reducible assumption | with_reducible intro _ | (with_reducible apply State.inject_keep) | (dsimp only)
    | split | (with_reducible apply Keep.kept) | (with_reducible refine Keep.mk (Keep.kept ?_))

theorem State.sendDxp_keep {s0 s : State} (h : Keep s0 s) (transport dest : Nat) (h : BitVec 256) (data : List Byte) :
    Keep s0 (State.sendDxp s transport dest h data) := by
  unfold State.sendDxp
  repeat' first
    | with_reducible assumption | with_reducible intro _ | (with_reducible apply State.emit_keep)
    | (with_reducible apply State.interrupt_keep) | (with_reducible apply State.mapSess_keep)
    | (with_reducible apply State.setHost_keep) | (with_reducible apply State.sendMgmt_keep) | (dsimp only) | split
    | (with_reducible apply Keep.kept) | (with_reducible refine Keep.mk (Keep.kept ?_))

theorem State.sendSession_keep {s0 s : State} (h : Keep s0 s) (v : Session) (h : BitVec 256) (data : List Byte) :
    Keep s0 (State.sendSession s v h data) := by
  unfold State.sendSession
  repeat' first
    | with_reducible assumption | with_reducible intro _ | (with_reducible apply Keep.ite)
    | (with_reducible apply State.sendDxp_keep) | (dsimp only) | split | (with_reducible apply Keep.kept)
    | (with_reducible refine Keep.mk (Keep.kept ?_))

theorem State.setSubscription_keep {s0 s : State} (h : Keep s0 s) (n : Nat) (x : Option Stream) :
    Keep s0 (State.setSubscription s n x) := by
  unfold State.setSubscription
  repeat' first
    | with_reducible assumption | with_reducible intro _ | (dsimp only) | split | (with_reducible apply Keep.kept)
    | (with_reducible refine Keep.mkF (Keep.kept ?_))

theorem State.streamSend_keep {s0 s : State} (h : Keep s0 s) (n : Nat) :
    Keep s0 (State.streamSend s n) := by
  unfold State.streamSend
  repeat' first
    | with_reducible assumption | (with_reducible apply Keeps.next) | with_reducible intro _
    | (with_reducible apply Keep.ite) | (with_reducible apply State.on_keep)
    | (with_reducible apply State.count_keep) | (with_reducible apply State.log_keep)
    | (with_reducible apply State.sendSession_keep) | (with_reducible apply State.setSubscription_keep)
    | (with_reducible apply State.take_keep) | (with_reducible apply State.request_keep)
    | (with_reducible refine Keep.snd ?_ (by assumption)) | (dsimp only) | split | (with_reducible apply Keep.kept)
    | (with_reducible refine Keep.mk (Keep.kept ?_))

theorem State.streamAll_keep {s0 s : State} (h : Keep s0 s)  :
    Keep s0 (State.streamAll s) := by
  unfold State.streamAll
  repeat' first
    | with_reducible assumption | with_reducible intro _ | (with_reducible apply State.each_keep)
    | (with_reducible apply State.streamSend_keep) | (dsimp only) | split | (with_reducible apply Keep.kept)
    | (with_reducible refine Keep.mk (Keep.kept ?_))

theorem execCairnStreamSend_keep {s0 s : State} (h : Keep s0 s) (stream : Fin 4) :
    Keeps s0 (execCairnStreamSend stream s) := by
  unfold execCairnStreamSend
  repeat' first
    | with_reducible assumption | (with_reducible apply act_keep) | with_reducible intro _
    | (with_reducible apply State.streamSend_keep) | (dsimp only) | split | (with_reducible apply Keep.kept)
    | (with_reducible refine Keep.mk (Keep.kept ?_))

theorem State.ownRequest_keep {s0 s : State} (h : Keep s0 s) (dst : Nat) (session : Option Nat) (op index sub offset
      length : Nat) (data : List Byte) :
    Keep s0 (State.ownRequest s dst session op index sub offset length data) := by
  unfold State.ownRequest
  repeat' first
    | with_reducible assumption | with_reducible intro _ | (with_reducible apply State.setDict_keep)
    | (with_reducible apply State.sendMgmt_keep) | (dsimp only) | split | (with_reducible apply Keep.kept)
    | (with_reducible refine Keep.mk (Keep.kept ?_))

theorem State.ownHello_keep {s0 s : State} (h : Keep s0 s) (dst : Nat) :
    Keep s0 (State.ownHello s dst) := by
  unfold State.ownHello
  repeat' first
    | with_reducible assumption | with_reducible intro _ | (with_reducible apply State.ownRequest_keep)
    | (dsimp only) | split | (with_reducible apply Keep.kept) | (with_reducible refine Keep.mk (Keep.kept ?_))

theorem State.dropOwn_keep {s0 s : State} (h : Keep s0 s) (seq : Nat) :
    Keep s0 (State.dropOwn s seq) := by
  unfold State.dropOwn
  repeat' first
    | with_reducible assumption | with_reducible intro _ | (with_reducible apply State.setDict_keep) | (dsimp only)
    | split | (with_reducible apply Keep.kept) | (with_reducible refine Keep.mk (Keep.kept ?_))

end Sys2Proof.Machine
end

