-- ==== Sys2Proof/Laws/KeepHoldCmds.lean ====
section
/-!
SUPPORT. What the operations of Machine/HoldCmds.lean keep (Laws/Keep.lean).
-/

namespace Sys2Proof.Machine

theorem State.setSupply_keep {s0 s : State} (h : Keep s0 s) (f : Supply → Supply) :
    Keep s0 (State.setSupply s f) := by
  unfold State.setSupply
  repeat' first
    | with_reducible assumption | with_reducible intro _ | (dsimp only) | split | (with_reducible apply Keep.kept)
    | (with_reducible refine Keep.mk (Keep.kept ?_))

theorem State.applyCut_keep {s0 s : State} (h : Keep s0 s)  :
    Keep s0 (State.applyCut s) := by
  unfold State.applyCut
  repeat' first
    | with_reducible assumption | with_reducible intro _ | (with_reducible apply State.setSupply_keep)
    | (dsimp only) | split | (with_reducible apply Keep.kept) | (with_reducible refine Keep.mk (Keep.kept ?_))

theorem State.enterHold_keep {s0 s : State} (h : Keep s0 s)  :
    Keep s0 (State.enterHold s) := by
  unfold State.enterHold
  repeat' first
    | with_reducible assumption | with_reducible intro _ | (with_reducible apply State.on_keep)
    | (with_reducible apply State.log_keep) | (with_reducible apply State.setHold_keep)
    | (with_reducible apply State.applyCut_keep) | (dsimp only) | split | (with_reducible apply Keep.kept)
    | (with_reducible refine Keep.mk (Keep.kept ?_))

theorem State.discardMessage_keep {s0 s : State} (h : Keep s0 s)  :
    Keep s0 (State.discardMessage s) := by
  unfold State.discardMessage
  repeat' first
    | with_reducible assumption | with_reducible intro _ | (with_reducible apply State.count_keep)
    | (with_reducible apply State.log_keep) | (dsimp only) | split | (with_reducible apply Keep.kept)
    | (with_reducible refine Keep.mk (Keep.kept ?_))

theorem State.receiveHold_keep {s0 s : State} (h : Keep s0 s) (l w : Nat) :
    Keep s0 (State.receiveHold s l w) := by
  unfold State.receiveHold
  repeat' first
    | with_reducible assumption | with_reducible intro _ | (with_reducible apply Keep.ite)
    | (with_reducible apply State.on_keep) | (with_reducible apply State.log_keep)
    | (with_reducible apply State.owe_keep) | (with_reducible apply State.flood_keep)
    | (with_reducible apply State.firstSeen_keep) | (with_reducible apply State.setHold_keep)
    | (with_reducible apply State.schedFault_keep) | (with_reducible apply State.enterHold_keep)
    | (with_reducible apply State.discardMessage_keep) | (with_reducible refine Keep.snd ?_ (by assumption))
    | (dsimp only) | split | (with_reducible apply Keep.kept) | (with_reducible refine Keep.mk (Keep.kept ?_))

theorem execHold_keep {s0 s : State} (h : Keep s0 s) (link : Link) (msg : BitVec 256) :
    Keeps s0 (execHold link msg s) := by
  unfold execHold
  repeat' first
    | with_reducible assumption | (with_reducible apply act_keep) | with_reducible intro _
    | (with_reducible apply State.receiveHold_keep) | (dsimp only) | split | (with_reducible apply Keep.kept)
    | (with_reducible refine Keep.mk (Keep.kept ?_))

theorem State.receiveResume_keep {s0 s : State} (h : Keep s0 s) (l w : Nat) :
    Keep s0 (State.receiveResume s l w) := by
  unfold State.receiveResume
  repeat' first
    | with_reducible assumption | with_reducible intro _ | (with_reducible apply Keep.ite)
    | (with_reducible apply State.owe_keep) | (with_reducible apply State.flood_keep)
    | (with_reducible apply State.firstSeen_keep) | (with_reducible apply State.setHold_keep)
    | (with_reducible apply State.discardMessage_keep) | (with_reducible apply State.take_keep)
    | (with_reducible refine Keep.snd ?_ (by assumption)) | (dsimp only) | split | (with_reducible apply Keep.kept)
    | (with_reducible refine Keep.mk (Keep.kept ?_))

theorem execResume_keep {s0 s : State} (h : Keep s0 s) (link : Link) (msg : BitVec 256) :
    Keeps s0 (execResume link msg s) := by
  unfold execResume
  repeat' first
    | with_reducible assumption | (with_reducible apply act_keep) | with_reducible intro _
    | (with_reducible apply State.receiveResume_keep) | (dsimp only) | split | (with_reducible apply Keep.kept)
    | (with_reducible refine Keep.mk (Keep.kept ?_))

theorem execHoldTick_keep {s0 s : State} (h : Keep s0 s)  :
    Keeps s0 (execHoldTick s) := by
  unfold execHoldTick
  repeat' first
    | with_reducible assumption | (with_reducible apply act_keep) | with_reducible intro _
    | (with_reducible apply Keep.ite) | (with_reducible apply State.reach_keep)
    | (with_reducible apply State.enterHold_keep) | (dsimp only) | split | (with_reducible apply Keep.kept)
    | (with_reducible refine Keep.mk (Keep.kept ?_))

theorem State.enterLost_keep {s0 s : State} (h : Keep s0 s)  :
    Keep s0 (State.enterLost s) := by
  unfold State.enterLost
  repeat' first
    | with_reducible assumption | with_reducible intro _ | (with_reducible apply Keep.ite)
    | (with_reducible apply State.log_keep) | (with_reducible apply State.setHold_keep)
    | (with_reducible apply State.unplanned_keep) | (with_reducible apply State.checkLoss_keep) | (dsimp only)
    | split | (with_reducible apply Keep.kept) | (with_reducible refine Keep.mk (Keep.kept ?_))

theorem State.recoveriesEnd_keep {s0 s : State} (h : Keep s0 s) (length : Nat) :
    Keep s0 (State.recoveriesEnd s length) := by
  unfold State.recoveriesEnd
  repeat' first
    | with_reducible assumption | with_reducible intro _ | (with_reducible apply Keep.ite)
    | (with_reducible apply State.log_keep) | (with_reducible apply State.each_keep) | (dsimp only) | split
    | (with_reducible apply Keep.kept) | (with_reducible refine Keep.mkF (Keep.kept ?_))

theorem State.resumeStep_keep {s0 s : State} (h : Keep s0 s)  :
    Keep s0 (State.resumeStep s) := by
  unfold State.resumeStep
  repeat' first
    | with_reducible assumption | (with_reducible apply step_keep) | with_reducible intro _
    | (with_reducible apply Keep.ite) | (with_reducible apply State.draw_keep)
    | (with_reducible apply State.on_keep) | (with_reducible apply State.setObj_keep)
    | (with_reducible apply State.log_keep) | (with_reducible refine Keep.snd ?_ (by assumption)) | (dsimp only)
    | split | (with_reducible apply Keep.kept) | (with_reducible refine Keep.mk (Keep.kept ?_))

theorem State.resumeHall_keep {s0 s : State} (h : Keep s0 s)  :
    Keep s0 (State.resumeHall s) := by
  unfold State.resumeHall
  repeat' first
    | with_reducible assumption | (with_reducible apply Keeps.next) | with_reducible intro _
    | (with_reducible apply Keep.ite) | (with_reducible apply State.reach_keep)
    | (with_reducible apply State.on_keep) | (with_reducible apply State.log_keep)
    | (with_reducible apply State.setHold_keep) | (with_reducible apply State.switchBank_keep)
    | (with_reducible apply State.enterLost_keep) | (with_reducible apply State.recoveriesEnd_keep)
    | (with_reducible apply State.resumeStep_keep) | (dsimp only) | split | (with_reducible apply Keep.kept)
    | (with_reducible refine Keep.mk (Keep.kept ?_))

theorem execResumeTick_keep {s0 s : State} (h : Keep s0 s)  :
    Keeps s0 (execResumeTick s) := by
  unfold execResumeTick
  repeat' first
    | with_reducible assumption | (with_reducible apply act_keep) | with_reducible intro _
    | (with_reducible apply State.resumeHall_keep) | (dsimp only) | split | (with_reducible apply Keep.kept)
    | (with_reducible refine Keep.mk (Keep.kept ?_))

theorem execHoldLimitExpire_keep {s0 s : State} (h : Keep s0 s)  :
    Keeps s0 (execHoldLimitExpire s) := by
  unfold execHoldLimitExpire
  repeat' first
    | with_reducible assumption | (with_reducible apply act_keep) | with_reducible intro _
    | (with_reducible apply State.reach_keep) | (with_reducible apply State.log_keep)
    | (with_reducible apply State.faultCount_keep) | (with_reducible apply State.jobFail_keep) | (dsimp only)
    | split | (with_reducible apply Keep.kept) | (with_reducible refine Keep.mk (Keep.kept ?_))

theorem execKeptResumeExpire_keep {s0 s : State} (h : Keep s0 s) (origin seq : BitVec 16) :
    Keeps s0 (execKeptResumeExpire origin seq s) := by
  unfold execKeptResumeExpire
  repeat' first
    | with_reducible assumption | (with_reducible apply act_keep) | with_reducible intro _
    | (with_reducible apply State.reach_keep) | (with_reducible apply State.setHold_keep) | (dsimp only) | split
    | (with_reducible apply Keep.kept) | (with_reducible refine Keep.mk (Keep.kept ?_))

end Sys2Proof.Machine
end

