-- ==== Sys2Proof/Laws/KeepMemory.lean ====
section
/-!
SUPPORT. What the operations of Machine/Memory.lean keep (Laws/Keep.lean).
-/

namespace Sys2Proof.Machine

theorem State.migrate_keep {s0 s : State} (h : Keep s0 s) (p : Nat) :
    Keep s0 (State.migrate s p) := by
  unfold State.migrate
  repeat' first
    | with_reducible assumption | with_reducible intro _ | (with_reducible apply State.setMem_keep)
    | (with_reducible apply State.setPc_keep) | (dsimp only) | split | (with_reducible apply Keep.kept)
    | (with_reducible refine Keep.mk (Keep.kept ?_))

theorem State.migrated_keep {s0 s : State} (h : Keep s0 s) (p : Nat) :
    Keep s0 (State.migrated s p) := by
  unfold State.migrated
  repeat' first
    | with_reducible assumption | with_reducible intro _ | (with_reducible apply State.setMem_keep)
    | (with_reducible apply State.setPc_keep) | (with_reducible apply State.logPc_keep) | (dsimp only) | split
    | (with_reducible apply Keep.kept) | (with_reducible refine Keep.mk (Keep.kept ?_))

theorem State.pcPermanent_keep {s0 s : State} (h : Keep s0 s) (p : Nat) :
    Keep s0 (State.pcPermanent s p) := by
  unfold State.pcPermanent
  repeat' first
    | with_reducible assumption | with_reducible intro _ | (with_reducible apply Keep.ite)
    | (with_reducible apply State.log_keep) | (with_reducible apply State.setMem_keep)
    | (with_reducible apply State.setPc_keep) | (with_reducible apply State.logPc_keep)
    | (with_reducible apply State.outOfService_keep) | (with_reducible apply State.migrate_keep) | (dsimp only)
    | split | (with_reducible apply Keep.kept) | (with_reducible refine Keep.mk (Keep.kept ?_))

theorem State.judgePc_keep {s0 s : State} (h : Keep s0 s) (p : Nat) :
    Keep s0 (State.judgePc s p) := by
  unfold State.judgePc
  repeat' first
    | with_reducible assumption | with_reducible intro _ | (with_reducible apply Keep.ite)
    | (with_reducible apply State.pcPermanent_keep) | (dsimp only) | split | (with_reducible apply Keep.kept)
    | (with_reducible refine Keep.mk (Keep.kept ?_))

theorem State.countCorrected_keep {s0 s : State} (h : Keep s0 s) (p : Nat) :
    Keep s0 (State.countCorrected s p) := by
  unfold State.countCorrected
  repeat' first
    | with_reducible assumption | with_reducible intro _ | (with_reducible apply State.setMem_keep)
    | (with_reducible apply State.setPc_keep) | (dsimp only) | split | (with_reducible apply Keep.kept)
    | (with_reducible refine Keep.mk (Keep.kept ?_))

theorem State.countRetried_keep {s0 s : State} (h : Keep s0 s) (p a : Nat) :
    Keep s0 (State.countRetried s p a) := by
  unfold State.countRetried
  repeat' first
    | with_reducible assumption | with_reducible intro _ | (with_reducible apply Keep.ite)
    | (with_reducible apply State.on_keep) | (with_reducible apply State.setMem_keep)
    | (with_reducible apply State.setPc_keep) | (with_reducible apply State.logPc_keep) | (dsimp only) | split
    | (with_reducible apply Keep.kept) | (with_reducible refine Keep.mk (Keep.kept ?_))

theorem State.poisonCodeword_keep {s0 s : State} (h : Keep s0 s) (p a : Nat) :
    Keep s0 (State.poisonCodeword s p a) := by
  unfold State.poisonCodeword
  repeat' first
    | with_reducible assumption | with_reducible intro _ | (with_reducible apply State.poisonAt_keep)
    | (with_reducible apply State.setMem_keep) | (with_reducible apply State.setPc_keep)
    | (with_reducible apply State.logPc_keep) | (dsimp only) | split | (with_reducible apply Keep.kept)
    | (with_reducible refine Keep.mk (Keep.kept ?_))

theorem execMemoryRetry_keep {s0 s : State} (h : Keep s0 s) (a : BitVec 41) (outcome : RetryOutcome) :
    Keeps s0 (execMemoryRetry a outcome s) := by
  unfold execMemoryRetry
  repeat' first
    | with_reducible assumption | (with_reducible apply act_keep) | with_reducible intro _
    | (with_reducible apply Keep.ite) | (with_reducible apply State.judgePc_keep)
    | (with_reducible apply State.countCorrected_keep) | (with_reducible apply State.countRetried_keep)
    | (with_reducible apply State.poisonCodeword_keep) | (dsimp only) | split | (with_reducible apply Keep.kept)
    | (with_reducible refine Keep.mk (Keep.kept ?_))

theorem State.freeCodeword_keep {s0 s : State} (h : Keep s0 s) (a : Nat) :
    Keep s0 (State.freeCodeword s a) := by
  unfold State.freeCodeword
  repeat' first
    | with_reducible assumption | with_reducible intro _ | (with_reducible apply State.draw_keep)
    | (with_reducible apply State.each_keep) | (with_reducible apply Kept.mem_write)
    | (with_reducible apply Kept.mem_set) | (with_reducible apply Kept.mem_cells)
    | (with_reducible refine Keep.snd ?_ (by assumption)) | (dsimp only) | split
    | (with_reducible apply Keep.mk; (try dsimp only); with_reducible apply Kept.mem_write)
    | (with_reducible apply Keep.mk; (try dsimp only); with_reducible apply Kept.mem_set)
    | (with_reducible apply Keep.mk; (try dsimp only); with_reducible apply Kept.mem_cells)
    | (with_reducible apply Keep.kept) | (with_reducible refine Keep.mk (Keep.kept ?_))

theorem execScrubRead_keep {s0 s : State} (h : Keep s0 s) (a : BitVec 41) (symbols : Nat) :
    Keeps s0 (execScrubRead a symbols s) := by
  unfold execScrubRead
  repeat' first
    | with_reducible assumption | (with_reducible apply act_keep) | with_reducible intro _
    | (with_reducible apply Keep.ite) | (with_reducible apply State.draw_keep)
    | (with_reducible apply State.on_keep) | (with_reducible apply State.logPc_keep)
    | (with_reducible apply State.judgePc_keep) | (with_reducible apply State.countCorrected_keep)
    | (with_reducible apply State.poisonCodeword_keep) | (with_reducible apply State.freeCodeword_keep)
    | (with_reducible refine Keep.snd ?_ (by assumption)) | (dsimp only) | split | (with_reducible apply Keep.kept)
    | (with_reducible refine Keep.mk (Keep.kept ?_))

theorem execMigrationComplete_keep {s0 s : State} (h : Keep s0 s)  :
    Keeps s0 (execMigrationComplete s) := by
  unfold execMigrationComplete
  repeat' first
    | with_reducible assumption | (with_reducible apply act_keep) | with_reducible intro _
    | (with_reducible apply Keep.ite) | (with_reducible apply State.migrated_keep) | (dsimp only) | split
    | (with_reducible apply Keep.kept) | (with_reducible refine Keep.mk (Keep.kept ?_))

theorem State.trainStack_keep {s0 s : State} (h : Keep s0 s) (n : Nat) (bad : List Nat) :
    Keep s0 (State.trainStack s n bad) := by
  unfold State.trainStack
  repeat' first
    | with_reducible assumption | with_reducible intro _ | (with_reducible apply Keep.ite)
    | (with_reducible apply State.log_keep) | (with_reducible apply State.each_keep)
    | (with_reducible apply State.setMem_keep) | (with_reducible apply State.outOfService_keep)
    | (with_reducible apply State.pcPermanent_keep) | (dsimp only) | split | (with_reducible apply Keep.kept)
    | (with_reducible refine Keep.mk (Keep.kept ?_))

theorem State.stackReset_keep {s0 s : State} (h : Keep s0 s) (n : Nat) (bad : List Nat) :
    Keep s0 (State.stackReset s n bad) := by
  unfold State.stackReset
  repeat' first
    | with_reducible assumption | with_reducible intro _ | (with_reducible apply Keep.ite)
    | (with_reducible apply State.reach_keep) | (with_reducible apply State.log_keep)
    | (with_reducible apply State.originateHold_keep) | (with_reducible apply State.originateResume_keep)
    | (with_reducible apply State.faultCount_keep) | (with_reducible apply State.releaseHolds_keep)
    | (with_reducible apply State.enterHold_keep) | (with_reducible apply State.trainStack_keep)
    | (with_reducible refine Keep.snd ?_ (by assumption)) | (dsimp only) | split | (with_reducible apply Keep.kept)
    | (with_reducible refine Keep.mk (Keep.kept ?_))

theorem execMemoryStackReset_keep {s0 s : State} (h : Keep s0 s) (stack : Stack) (failed : List PseudoChan) :
    Keeps s0 (execMemoryStackReset stack failed s) := by
  unfold execMemoryStackReset
  repeat' first
    | with_reducible assumption | (with_reducible apply act_keep) | with_reducible intro _
    | (with_reducible apply Keep.ite) | (with_reducible apply State.countedReset_keep)
    | (with_reducible apply State.stackReset_keep) | (dsimp only) | split | (with_reducible apply Keep.kept)
    | (with_reducible refine Keep.mk (Keep.kept ?_))

end Sys2Proof.Machine
end

