-- ==== Sys2Proof/Laws/KeepPlan.lean ====
section
/-!
SUPPORT. What the operations of Machine/Plan.lean keep (Laws/Keep.lean).
-/

namespace Sys2Proof.Machine

theorem State.checkBank_keep {s0 s : State} (h : Keep s0 s) (b : Nat) :
    Keep s0 (State.checkBank s b).1 := by
  unfold State.checkBank
  repeat' first
    | with_reducible assumption | with_reducible intro _ | (with_reducible apply Keep.ite)
    | (with_reducible apply Keep.ite1) | (with_reducible apply State.on_keep)
    | (with_reducible apply State.setRec_keep) | (with_reducible apply State.log_keep)
    | (with_reducible apply State.setArmed_keep) | (with_reducible apply State.copyPatterns_keep) | (dsimp only)
    | split | (with_reducible apply Keep.kept) | (with_reducible refine Keep.mk (Keep.kept ?_))

end Sys2Proof.Machine
end

