-- ==== Sys2Proof/Laws/KeepPower.lean ====
section
/-!
SUPPORT. What the operations of Machine/Power.lean keep (Laws/Keep.lean).
-/

namespace Sys2Proof.Machine

theorem State.flashOnly_keep {s0 s : State} (h : Keep s0 s) : Keep s0 (State.flashOnly s) :=
  Keep.mkFB ⟨h.kept.queue, h.kept.floors, fun _ =>
    { mem := rfl, stores := rfl, maps := rfl, mailboxes := rfl, count := rfl, m7 := rfl
      log := Nat.zero_le _, ring := Nat.zero_le _ }⟩

theorem State.powerFail_keep {s0 s : State} (h : Keep s0 s)  :
    Keep s0 (State.powerFail s) := by
  unfold State.powerFail
  repeat' first
    | with_reducible assumption | with_reducible intro _ | (with_reducible apply State.log_keep)
    | (with_reducible apply State.streamAll_keep) | (with_reducible apply State.flashOnly_keep) | (dsimp only)
    | split | (with_reducible apply Keep.kept) | (with_reducible refine Keep.mkB (Keep.kept ?_))

theorem State.takeCut_keep {s0 s : State} (h : Keep s0 s) (cause : Nat) :
    Keep s0 (State.takeCut s cause).2 := by
  unfold State.takeCut
  repeat' first
    | with_reducible assumption | with_reducible intro _ | (with_reducible apply Keep.ite)
    | (with_reducible apply Keep.ite2) | (with_reducible apply State.originateHold_keep)
    | (with_reducible apply State.faultCount_keep) | (with_reducible apply State.setSupply_keep)
    | (with_reducible apply State.applyCut_keep) | (with_reducible refine Keep.snd ?_ (by assumption))
    | (dsimp only) | split | (with_reducible apply Keep.kept) | (with_reducible refine Keep.mk (Keep.kept ?_))

theorem State.startBrace_keep {s0 s : State} (h : Keep s0 s)  :
    Keep s0 (State.startBrace s) := by
  unfold State.startBrace
  repeat' first
    | with_reducible assumption | with_reducible intro _ | (with_reducible apply State.count_keep)
    | (with_reducible apply State.log_keep) | (with_reducible apply State.alerting_keep)
    | (with_reducible apply State.setSupply_keep) | (with_reducible apply State.takeCut_keep)
    | (with_reducible refine Keep.snd ?_ (by assumption)) | (dsimp only) | split | (with_reducible apply Keep.kept)
    | (with_reducible refine Keep.mk (Keep.kept ?_))

theorem State.governorTrip_keep {s0 s : State} (h : Keep s0 s) (cause : Nat) :
    Keep s0 (State.governorTrip s cause) := by
  unfold State.governorTrip
  repeat' first
    | with_reducible assumption | with_reducible intro _ | (with_reducible apply Keep.ite)
    | (with_reducible apply State.on_keep) | (with_reducible apply State.count_keep)
    | (with_reducible apply State.log_keep) | (with_reducible apply State.alerting_keep)
    | (with_reducible apply State.jobFail_keep) | (with_reducible apply State.setSupply_keep)
    | (with_reducible apply State.takeCut_keep) | (with_reducible refine Keep.snd ?_ (by assumption))
    | (dsimp only) | split | (with_reducible apply Keep.kept) | (with_reducible refine Keep.mk (Keep.kept ?_))

theorem State.liftCut_keep {s0 s : State} (h : Keep s0 s)  :
    Keep s0 (State.liftCut s) := by
  unfold State.liftCut
  repeat' first
    | with_reducible assumption | with_reducible intro _ | (with_reducible apply Keep.ite)
    | (with_reducible apply State.setSupply_keep) | (dsimp only) | split | (with_reducible apply Keep.kept)
    | (with_reducible refine Keep.mk (Keep.kept ?_))

theorem State.noteClear_keep {s0 s : State} (h : Keep s0 s)  :
    Keep s0 (State.noteClear s) := by
  unfold State.noteClear
  repeat' first
    | with_reducible assumption | with_reducible intro _ | (with_reducible apply Keep.ite)
    | (with_reducible apply State.setSupply_keep) | (dsimp only) | split | (with_reducible apply Keep.kept)
    | (with_reducible refine Keep.mk (Keep.kept ?_))

theorem State.takeSample_keep {s0 s : State} (h : Keep s0 s) (mv ma bank : Nat) (loads : List Nat) :
    Keep s0 (State.takeSample s mv ma bank loads) := by
  unfold State.takeSample
  repeat' first
    | with_reducible assumption | with_reducible intro _ | (with_reducible apply Keep.ite)
    | (with_reducible apply State.setSupply_keep) | (with_reducible apply State.take_keep) | (dsimp only) | split
    | (with_reducible apply Keep.kept) | (with_reducible refine Keep.mk (Keep.kept ?_))

theorem State.judgeLine_keep {s0 s : State} (h : Keep s0 s)  :
    Keep s0 (State.judgeLine s) := by
  unfold State.judgeLine
  repeat' first
    | with_reducible assumption | with_reducible intro _ | (with_reducible apply State.on_keep)
    | (with_reducible apply State.log_keep) | (with_reducible apply State.alerting_keep)
    | (with_reducible apply State.setSupply_keep) | (dsimp only) | split | (with_reducible apply Keep.kept)
    | (with_reducible refine Keep.mk (Keep.kept ?_))

theorem State.endDip_keep {s0 s : State} (h : Keep s0 s)  :
    Keep s0 (State.endDip s) := by
  unfold State.endDip
  repeat' first
    | with_reducible assumption | with_reducible intro _ | (with_reducible apply Keep.ite)
    | (with_reducible apply State.on_keep) | (with_reducible apply State.count_keep)
    | (with_reducible apply State.log_keep) | (with_reducible apply State.setSupply_keep) | (dsimp only) | split
    | (with_reducible apply Keep.kept) | (with_reducible refine Keep.mk (Keep.kept ?_))

theorem execPowerSample_keep {s0 s : State} (h : Keep s0 s) (mv ma bank : Nat) (loads : List Nat) :
    Keeps s0 (execPowerSample mv ma bank loads s) := by
  unfold execPowerSample
  repeat' first
    | with_reducible assumption | (with_reducible apply act_keep) | with_reducible intro _
    | (with_reducible apply State.on_keep) | (with_reducible apply State.governorTrip_keep)
    | (with_reducible apply State.noteClear_keep) | (with_reducible apply State.takeSample_keep)
    | (with_reducible apply State.judgeLine_keep) | (with_reducible apply State.endDip_keep) | (dsimp only) | split
    | (with_reducible apply Keep.kept) | (with_reducible refine Keep.mk (Keep.kept ?_))

theorem execDipDeclare_keep {s0 s : State} (h : Keep s0 s)  :
    Keeps s0 (execDipDeclare s) := by
  unfold execDipDeclare
  repeat' first
    | with_reducible assumption | (with_reducible apply act_keep) | with_reducible intro _
    | (with_reducible apply Keep.ite) | (with_reducible apply State.reach_keep)
    | (with_reducible apply State.alerting_keep) | (with_reducible apply State.setSupply_keep) | (dsimp only)
    | split | (with_reducible apply Keep.kept) | (with_reducible refine Keep.mk (Keep.kept ?_))

theorem execBraceStart_keep {s0 s : State} (h : Keep s0 s)  :
    Keeps s0 (execBraceStart s) := by
  unfold execBraceStart
  repeat' first
    | with_reducible assumption | (with_reducible apply act_keep) | with_reducible intro _
    | (with_reducible apply Keep.ite) | (with_reducible apply State.reach_keep)
    | (with_reducible apply State.startBrace_keep) | (dsimp only) | split | (with_reducible apply Keep.kept)
    | (with_reducible refine Keep.mk (Keep.kept ?_))

theorem execBraceRelease_keep {s0 s : State} (h : Keep s0 s)  :
    Keeps s0 (execBraceRelease s) := by
  unfold execBraceRelease
  repeat' first
    | with_reducible assumption | (with_reducible apply act_keep) | with_reducible intro _
    | (with_reducible apply State.reach_keep) | (with_reducible apply State.log_keep)
    | (with_reducible apply State.setSupply_keep) | (with_reducible apply State.liftCut_keep) | (dsimp only)
    | split | (with_reducible apply Keep.kept) | (with_reducible refine Keep.mk (Keep.kept ?_))

theorem execGovernorClear_keep {s0 s : State} (h : Keep s0 s)  :
    Keeps s0 (execGovernorClear s) := by
  unfold execGovernorClear
  repeat' first
    | with_reducible assumption | (with_reducible apply act_keep) | with_reducible intro _
    | (with_reducible apply State.reach_keep) | (with_reducible apply State.setSupply_keep)
    | (with_reducible apply State.liftCut_keep) | (dsimp only) | split | (with_reducible apply Keep.kept)
    | (with_reducible refine Keep.mk (Keep.kept ?_))

theorem execBallastAdjust_keep {s0 s : State} (h : Keep s0 s)  :
    Keeps s0 (execBallastAdjust s) := by
  unfold execBallastAdjust
  repeat' first
    | with_reducible assumption | (with_reducible apply act_keep) | (with_reducible apply Keeps.next)
    | with_reducible intro _ | (with_reducible apply State.on_keep) | (with_reducible apply State.setObj_keep)
    | (with_reducible apply State.setSupply_keep) | (dsimp only) | split | (with_reducible apply Keep.kept)
    | (with_reducible refine Keep.mk (Keep.kept ?_))

theorem execBraceResumeSend_keep {s0 s : State} (h : Keep s0 s)  :
    Keeps s0 (execBraceResumeSend s) := by
  unfold execBraceResumeSend
  repeat' first
    | with_reducible assumption | (with_reducible apply act_keep) | (with_reducible apply Keeps.next)
    | with_reducible intro _ | (with_reducible apply Keep.ite) | (with_reducible apply State.originateResume_keep)
    | (with_reducible apply State.setSupply_keep) | (dsimp only) | split | (with_reducible apply Keep.kept)
    | (with_reducible refine Keep.mk (Keep.kept ?_))

theorem State.applyTarget_keep {s0 s : State} (h : Keep s0 s) (w : Nat) :
    Keep s0 (State.applyTarget s w) := by
  unfold State.applyTarget
  repeat' first
    | with_reducible assumption | with_reducible intro _ | (with_reducible apply State.log_keep)
    | (with_reducible apply State.setSupply_keep) | (with_reducible apply State.target_keep) | (dsimp only) | split
    | (with_reducible apply Keep.kept) | (with_reducible refine Keep.mk (Keep.kept ?_))

theorem State.writeTarget_keep {s0 s : State} (h : Keep s0 s) (val : List Byte) :
    Keep s0 (State.writeTarget s val) := by
  unfold State.writeTarget
  repeat' first
    | with_reducible assumption | with_reducible intro _ | (with_reducible apply Keep.ite)
    | (with_reducible apply State.setRec_keep) | (with_reducible apply State.setSupply_keep)
    | (with_reducible apply State.applyTarget_keep) | (with_reducible apply State.target_keep) | (dsimp only)
    | split | (with_reducible apply Keep.kept) | (with_reducible refine Keep.mk (Keep.kept ?_))

theorem execTargetTick_keep {s0 s : State} (h : Keep s0 s)  :
    Keeps s0 (execTargetTick s) := by
  unfold execTargetTick
  repeat' first
    | with_reducible assumption | (with_reducible apply act_keep) | (with_reducible apply Keeps.next)
    | with_reducible intro _ | (with_reducible apply Keep.ite) | (with_reducible apply State.reach_keep)
    | (with_reducible apply State.applyTarget_keep) | (dsimp only) | split | (with_reducible apply Keep.kept)
    | (with_reducible refine Keep.mk (Keep.kept ?_))

theorem execTargetTimeoutExpire_keep {s0 s : State} (h : Keep s0 s)  :
    Keeps s0 (execTargetTimeoutExpire s) := by
  unfold execTargetTimeoutExpire
  repeat' first
    | with_reducible assumption | (with_reducible apply act_keep) | with_reducible intro _
    | (with_reducible apply State.reach_keep) | (with_reducible apply State.log_keep)
    | (with_reducible apply State.setSupply_keep) | (with_reducible apply State.target_keep) | (dsimp only) | split
    | (with_reducible apply Keep.kept) | (with_reducible refine Keep.mk (Keep.kept ?_))

theorem execOvervoltageDisconnect_keep {s0 s : State} (h : Keep s0 s)  :
    Keeps s0 (execOvervoltageDisconnect s) := by
  unfold execOvervoltageDisconnect
  repeat' first
    | with_reducible assumption | (with_reducible apply act_keep) | with_reducible intro _
    | (with_reducible apply Keep.ite) | (with_reducible apply State.reach_keep)
    | (with_reducible apply State.log_keep) | (with_reducible apply State.alerting_keep)
    | (with_reducible apply State.setSupply_keep) | (dsimp only) | split | (with_reducible apply Keep.kept)
    | (with_reducible refine Keep.mk (Keep.kept ?_))

theorem execOvervoltageReconnect_keep {s0 s : State} (h : Keep s0 s)  :
    Keeps s0 (execOvervoltageReconnect s) := by
  unfold execOvervoltageReconnect
  repeat' first
    | with_reducible assumption | (with_reducible apply act_keep) | with_reducible intro _
    | (with_reducible apply State.reach_keep) | (with_reducible apply State.setSupply_keep) | (dsimp only) | split
    | (with_reducible apply Keep.kept) | (with_reducible refine Keep.mk (Keep.kept ?_))

theorem execPowerFail_keep {s0 s : State} (h : Keep s0 s)  :
    Keeps s0 (execPowerFail s) := by
  unfold execPowerFail
  repeat' first
    | with_reducible assumption | (with_reducible apply act_keep) | with_reducible intro _
    | (with_reducible apply Keep.ite) | (with_reducible apply State.powerFail_keep) | (dsimp only) | split
    | (with_reducible apply Keep.kept) | (with_reducible refine Keep.mk (Keep.kept ?_))

theorem execPowerOn_keep {s0 s : State} (h : Keep s0 s) (mv : Nat) :
    Keeps s0 (execPowerOn mv s) := by
  unfold execPowerOn
  repeat' first
    | with_reducible assumption | (with_reducible apply Keeps.next) | with_reducible intro _
    | (with_reducible apply Keep.ite) | (with_reducible apply State.setSupply_keep) | (dsimp only) | split
    | (with_reducible apply Keep.kept) | (with_reducible refine Keep.mk (Keep.kept ?_))

theorem execPowerGood_keep {s0 s : State} (h : Keep s0 s) (straps : BitVec 4) :
    Keeps s0 (execPowerGood straps s) := by
  unfold execPowerGood
  repeat' first
    | with_reducible assumption | (with_reducible apply Keeps.next) | with_reducible intro _
    | (with_reducible apply Keep.ite) | (with_reducible apply State.setObj_keep)
    | (with_reducible apply State.flashOnly_keep) | (dsimp only) | split | (with_reducible apply Keep.kept)
    | (with_reducible refine Keep.mk (Keep.kept ?_))

theorem State.thermalWarn_keep {s0 s : State} (h : Keep s0 s)  :
    Keep s0 (State.thermalWarn s) := by
  unfold State.thermalWarn
  repeat' first
    | with_reducible assumption | with_reducible intro _ | (with_reducible apply State.log_keep)
    | (with_reducible apply State.alerting_keep) | (with_reducible apply State.each_keep)
    | (with_reducible apply State.setSupply_keep) | (dsimp only) | split | (with_reducible apply Keep.kept)
    | (with_reducible refine Keep.mk (Keep.kept ?_))

theorem State.thermalTrip_keep {s0 s : State} (h : Keep s0 s)  :
    Keep s0 (State.thermalTrip s) := by
  unfold State.thermalTrip
  repeat' first
    | with_reducible assumption | with_reducible intro _ | (with_reducible apply State.setSupply_keep)
    | (with_reducible apply State.governorTrip_keep) | (with_reducible apply State.noteClear_keep) | (dsimp only)
    | split | (with_reducible apply Keep.kept) | (with_reducible refine Keep.mk (Keep.kept ?_))

theorem State.noteCool_keep {s0 s : State} (h : Keep s0 s)  :
    Keep s0 (State.noteCool s) := by
  unfold State.noteCool
  repeat' first
    | with_reducible assumption | with_reducible intro _ | (with_reducible apply State.setSupply_keep)
    | (dsimp only) | split | (with_reducible apply Keep.kept) | (with_reducible refine Keep.mk (Keep.kept ?_))

theorem execThermalSample_keep {s0 s : State} (h : Keep s0 s) (dies hbms : List Int) (lid : Int) :
    Keeps s0 (execThermalSample dies hbms lid s) := by
  unfold execThermalSample
  repeat' first
    | with_reducible assumption | (with_reducible apply act_keep) | with_reducible intro _
    | (with_reducible apply Keep.ite) | (with_reducible apply State.setSupply_keep)
    | (with_reducible apply State.powerFail_keep) | (with_reducible apply State.thermalWarn_keep)
    | (with_reducible apply State.thermalTrip_keep) | (with_reducible apply State.noteCool_keep)
    | (with_reducible apply State.take_keep) | (dsimp only) | split | (with_reducible apply Keep.kept)
    | (with_reducible refine Keep.mk (Keep.kept ?_))

theorem execThermalWarnClear_keep {s0 s : State} (h : Keep s0 s)  :
    Keeps s0 (execThermalWarnClear s) := by
  unfold execThermalWarnClear
  repeat' first
    | with_reducible assumption | (with_reducible apply act_keep) | with_reducible intro _
    | (with_reducible apply State.reach_keep) | (with_reducible apply State.log_keep)
    | (with_reducible apply State.setSupply_keep) | (dsimp only) | split | (with_reducible apply Keep.kept)
    | (with_reducible refine Keep.mk (Keep.kept ?_))

theorem execRefInLost_keep {s0 s : State} (h : Keep s0 s)  :
    Keeps s0 (execRefInLost s) := by
  unfold execRefInLost
  repeat' first
    | with_reducible assumption | (with_reducible apply act_keep) | with_reducible intro _
    | (with_reducible apply Keep.ite) | (with_reducible apply State.log_keep)
    | (with_reducible apply State.alerting_keep) | (with_reducible apply State.timeLoss_keep)
    | (with_reducible apply State.setSupply_keep) | (dsimp only) | split | (with_reducible apply Keep.kept)
    | (with_reducible refine Keep.mk (Keep.kept ?_))

theorem execRefInRestore_keep {s0 s : State} (h : Keep s0 s)  :
    Keeps s0 (execRefInRestore s) := by
  unfold execRefInRestore
  repeat' first
    | with_reducible assumption | (with_reducible apply act_keep) | with_reducible intro _
    | (with_reducible apply Keep.ite) | (with_reducible apply State.log_keep)
    | (with_reducible apply State.setSupply_keep) | (dsimp only) | split | (with_reducible apply Keep.kept)
    | (with_reducible refine Keep.mk (Keep.kept ?_))

theorem execCoreGate_keep {s0 s : State} (h : Keep s0 s) (core : Core) :
    Keeps s0 (execCoreGate core s) := by
  unfold execCoreGate
  repeat' first
    | with_reducible assumption | (with_reducible apply act_keep) | with_reducible intro _
    | (with_reducible apply Keep.ite) | (with_reducible apply State.mapCore_keep) | (dsimp only) | split
    | (with_reducible apply Keep.kept) | (with_reducible refine Keep.mk (Keep.kept ?_))

theorem State.coreAwakes_keep {s0 s : State} (h : Keep s0 s) (c : Nat) :
    Keep s0 (State.coreAwakes s c) := by
  unfold State.coreAwakes
  repeat' first
    | with_reducible assumption | with_reducible intro _ | (with_reducible apply State.on_keep)
    | (with_reducible apply State.mapCore_keep) | (with_reducible apply State.mapCtx_keep)
    | (with_reducible apply State.setMover_keep) | (with_reducible apply State.each_keep)
    | (with_reducible apply State.post_keep) | (with_reducible apply State.writeScale_keep) | (dsimp only) | split
    | (with_reducible apply Keep.kept) | (with_reducible refine Keep.mk (Keep.kept ?_))

theorem execCoreWakeComplete_keep {s0 s : State} (h : Keep s0 s) (core : Core) :
    Keeps s0 (execCoreWakeComplete core s) := by
  unfold execCoreWakeComplete
  repeat' first
    | with_reducible assumption | (with_reducible apply act_keep) | with_reducible intro _
    | (with_reducible apply Keep.ite) | (with_reducible apply State.reach_keep)
    | (with_reducible apply State.coreAwakes_keep) | (dsimp only) | split | (with_reducible apply Keep.kept)
    | (with_reducible refine Keep.mk (Keep.kept ?_))

theorem execDieWakeComplete_keep {s0 s : State} (h : Keep s0 s) (die : Die) :
    Keeps s0 (execDieWakeComplete die s) := by
  unfold execDieWakeComplete
  repeat' first
    | with_reducible assumption | (with_reducible apply act_keep) | with_reducible intro _
    | (with_reducible apply Keep.ite) | (with_reducible apply State.reach_keep)
    | (with_reducible apply State.mapCore_keep) | (with_reducible apply State.setDie_keep)
    | (with_reducible apply State.each_keep) | (with_reducible apply State.setSupply_keep) | (dsimp only) | split
    | (with_reducible apply Keep.kept) | (with_reducible refine Keep.mk (Keep.kept ?_))

end Sys2Proof.Machine
end

