-- ==== Sys2Proof/Laws/KeepSweep.lean ====
section
/-!
SUPPORT. What the operations of Machine/Sweep.lean keep (Laws/Keep.lean).
-/

namespace Sys2Proof.Machine

theorem execNormRecordWrite_keep {s0 s : State} (h : Keep s0 s)  :
    Keeps s0 (execNormRecordWrite s) := by
  unfold execNormRecordWrite
  repeat' first
    | with_reducible assumption | (with_reducible apply act_keep) | with_reducible intro _
    | (with_reducible apply Keep.ite) | (with_reducible apply State.setHold_keep)
    | (with_reducible apply State.schedFault_keep) | (with_reducible apply State.setWatch_keep)
    | (with_reducible apply State.setTrain_keep) | (with_reducible apply State.setMailbox_keep)
    | (with_reducible apply State.take_keep) | (dsimp only) | split | (with_reducible apply Keep.kept)
    | (with_reducible refine Keep.mk (Keep.kept ?_))

theorem State.loadShardFp_keep {s0 s : State} (h : Keep s0 s)  :
    Keep s0 (State.loadShardFp s) := by
  unfold State.loadShardFp
  repeat' first
    | with_reducible assumption | with_reducible intro _ | (with_reducible apply State.setObj_keep) | (dsimp only)
    | split | (with_reducible apply Keep.kept) | (with_reducible refine Keep.mk (Keep.kept ?_))

theorem execFpRecordWrite_keep {s0 s : State} (h : Keep s0 s)  :
    Keeps s0 (execFpRecordWrite s) := by
  unfold execFpRecordWrite
  repeat' first
    | with_reducible assumption | (with_reducible apply act_keep) | (with_reducible apply step_keep)
    | with_reducible intro _ | (with_reducible apply Keep.ite) | (with_reducible apply State.setTrain_keep)
    | (with_reducible apply State.atStep_keep) | (with_reducible apply State.setMailbox_keep) | (dsimp only)
    | split | (with_reducible apply Keep.kept) | (with_reducible refine Keep.mk (Keep.kept ?_))

theorem State.momentsBlk_keep {s0 s : State} (h : Keep s0 s) (ps : List TcEntry) (sw : Sweep) (k : Blk) :
    Keep s0 (State.momentsBlk s ps sw k).1 := by
  unfold State.momentsBlk
  repeat' first
    | with_reducible assumption | (with_reducible apply step_keep) | with_reducible intro _
    | (with_reducible apply Keep.ite) | (with_reducible apply Keep.ite1)
    | (with_reducible apply State.countFlushed_keep) | (with_reducible apply State.ok_keep)
    | (with_reducible apply State.eWrites_keep) | (with_reducible apply Keep.foldl)
    | (with_reducible apply Keep.foldl1) | (with_reducible apply Keep.foldl2)
    | (with_reducible refine Keep.fst ?_ (by assumption)) | (dsimp only) | split | (with_reducible apply Keep.kept)
    | (with_reducible refine Keep.mk (Keep.kept ?_))

theorem State.weightsBlk_keep {s0 s : State} (h : Keep s0 s) (ps : List TcEntry) (sw : Sweep) (k : Blk) (tag : Nat) :
    Keep s0 (State.weightsBlk s ps sw k tag).1 := by
  unfold State.weightsBlk
  repeat' first
    | with_reducible assumption | (with_reducible apply step_keep) | with_reducible intro _
    | (with_reducible apply State.countFlushed_keep) | (with_reducible apply Eff.andThen_keep)
    | (with_reducible apply State.ok_keep) | (with_reducible apply State.eWrites_keep)
    | (with_reducible apply State.tallyBlocks_keep) | (with_reducible apply State.countSlots_keep)
    | (with_reducible apply State.moveShardFp_keep) | (with_reducible apply Keep.foldl)
    | (with_reducible apply Keep.foldl1) | (with_reducible apply Keep.foldl2)
    | (with_reducible refine Keep.fst ?_ (by assumption)) | (dsimp only) | split | (with_reducible apply Keep.kept)
    | (with_reducible refine Keep.mk (Keep.kept ?_))

theorem State.cursorWrite_keep {s0 s : State} (h : Keep s0 s) (ps : List TcEntry) (sw : Sweep) (n i : Nat) :
    Keep s0 (State.cursorWrite s ps sw n i).1 := by
  unfold State.cursorWrite
  repeat' first
    | with_reducible assumption | (with_reducible apply step_keep) | with_reducible intro _
    | (with_reducible apply State.eWrite_keep) | (with_reducible refine Keep.fst ?_ (by assumption)) | (dsimp only)
    | split | (with_reducible apply Keep.kept) | (with_reducible refine Keep.mk (Keep.kept ?_))

theorem State.sweepBlk_keep {s0 s : State} (h : Keep s0 s) (sw : Sweep) (i : Nat) (k : Blk) :
    Keep s0 (State.sweepBlk s sw i k).1 := by
  unfold State.sweepBlk
  repeat' first
    | with_reducible assumption | (with_reducible apply step_keep) | with_reducible intro _
    | (with_reducible apply Keep.ite) | (with_reducible apply Keep.ite1)
    | (with_reducible apply State.enginePages_keep) | (with_reducible apply Eff.andThen_keep)
    | (with_reducible apply State.ok_keep) | (with_reducible apply State.tagFault_keep)
    | (with_reducible apply Eff.settle_keep) | (with_reducible apply State.outerBlk_keep)
    | (with_reducible apply State.ropeBlk_keep) | (with_reducible apply State.momentsBlk_keep)
    | (with_reducible apply State.weightsBlk_keep) | (with_reducible apply State.cursorWrite_keep)
    | (with_reducible refine Keep.fst ?_ (by assumption)) | (dsimp only) | split | (with_reducible apply Keep.kept)
    | (with_reducible refine Keep.mk (Keep.kept ?_))

theorem State.openStream_keep {s0 s : State} (h : Keep s0 s) (sw : Sweep) (n : Nat) :
    Keep s0 (State.openStream s sw n) := by
  unfold State.openStream
  repeat' first
    | with_reducible assumption | (with_reducible apply step_keep) | with_reducible intro _
    | (with_reducible apply Keep.ite) | (with_reducible apply State.setStream_keep)
    | (with_reducible apply State.take_keep) | (dsimp only) | split | (with_reducible apply Keep.kept)
    | (with_reducible refine Keep.mk (Keep.kept ?_))

theorem State.sweepEngine_keep {s0 s : State} (h : Keep s0 s) (n : Nat) :
    Keep s0 (State.sweepEngine s n) := by
  unfold State.sweepEngine
  repeat' first
    | with_reducible assumption | (with_reducible apply step_keep) | with_reducible intro _
    | (with_reducible apply Keep.ite) | (with_reducible apply State.setEngineSt_keep)
    | (with_reducible apply Eff.andThen_keep) | (with_reducible apply State.ok_keep)
    | (with_reducible apply State.sweepBlk_keep) | (with_reducible apply State.openStream_keep)
    | (with_reducible apply Keep.foldl) | (with_reducible apply Keep.foldl1) | (with_reducible apply Keep.foldl2)
    | (with_reducible refine Keep.fst ?_ (by assumption)) | (dsimp only) | split | (with_reducible apply Keep.kept)
    | (with_reducible refine Keep.mk (Keep.kept ?_))

theorem State.setStepRec_keep {s0 s : State} (h : Keep s0 s) (w : Nat) :
    Keep s0 (State.setStepRec s w) := by
  unfold State.setStepRec
  repeat' first
    | with_reducible assumption | with_reducible intro _ | (with_reducible apply State.setObj_keep)
    | (with_reducible apply State.mpWrite_keep) | (dsimp only) | split | (with_reducible apply Keep.kept)
    | (with_reducible refine Keep.mk (Keep.kept ?_))

theorem State.nextStep_keep {s0 s : State} (h : Keep s0 s)  :
    Keep s0 (State.nextStep s) := by
  unfold State.nextStep
  repeat' first
    | with_reducible assumption | with_reducible intro _ | (with_reducible apply State.setTrain_keep)
    | (dsimp only) | split | (with_reducible apply Keep.kept) | (with_reducible refine Keep.mk (Keep.kept ?_))

theorem State.decided_keep {s0 s : State} (h : Keep s0 s) (d : Decision) :
    Keep s0 (State.decided s d) := by
  unfold State.decided
  repeat' first
    | with_reducible assumption | (with_reducible apply Keeps.next) | with_reducible intro _
    | (with_reducible apply State.closeEpoch_keep) | (with_reducible apply State.lossScale_keep)
    | (with_reducible apply State.nextStep_keep) | (dsimp only) | split | (with_reducible apply Keep.kept)
    | (with_reducible refine Keep.mk (Keep.kept ?_))

theorem State.skipStep_keep {s0 s : State} (h : Keep s0 s) (d : Decision) :
    Keep s0 (State.skipStep s d) := by
  unfold State.skipStep
  repeat' first
    | with_reducible assumption | with_reducible intro _ | (with_reducible apply Keep.ite)
    | (with_reducible apply State.count_keep) | (with_reducible apply State.log_keep)
    | (with_reducible apply State.decided_keep) | (dsimp only) | split | (with_reducible apply Keep.kept)
    | (with_reducible refine Keep.mk (Keep.kept ?_))

theorem State.commitStep_keep {s0 s : State} (h : Keep s0 s) (norm : Nat) :
    Keep s0 (State.commitStep s norm) := by
  unfold State.commitStep
  repeat' first
    | with_reducible assumption | (with_reducible apply step_keep) | with_reducible intro _
    | (with_reducible apply Keep.ite) | (with_reducible apply State.on_keep)
    | (with_reducible apply State.setObj_keep) | (with_reducible apply State.count_keep)
    | (with_reducible apply State.each_keep) | (with_reducible apply State.sent_keep)
    | (with_reducible apply State.setTrain_keep) | (with_reducible apply State.setRope_keep)
    | (with_reducible apply State.setRopeRec_keep) | (with_reducible apply State.reuseArea_keep)
    | (with_reducible apply State.sweepEngine_keep) | (with_reducible apply State.setStepRec_keep)
    | (with_reducible apply State.decided_keep) | (dsimp only) | split | (with_reducible apply Keep.kept)
    | (with_reducible refine Keep.mk (Keep.kept ?_))

theorem execCommitDecision_keep {s0 s : State} (h : Keep s0 s)  :
    Keeps s0 (execCommitDecision s) := by
  unfold execCommitDecision
  repeat' first
    | with_reducible assumption | (with_reducible apply act_keep) | with_reducible intro _
    | (with_reducible apply Keep.ite) | (with_reducible apply State.atStep_keep)
    | (with_reducible apply State.skipStep_keep) | (with_reducible apply State.commitStep_keep)
    | (with_reducible apply Keep.foldl) | (with_reducible apply Keep.foldl1) | (with_reducible apply Keep.foldl2)
    | (dsimp only) | split | (with_reducible apply Keep.kept) | (with_reducible refine Keep.mk (Keep.kept ?_))

theorem execSweepLimitExpire_keep {s0 s : State} (h : Keep s0 s)  :
    Keeps s0 (execSweepLimitExpire s) := by
  unfold execSweepLimitExpire
  repeat' first
    | with_reducible assumption | (with_reducible apply act_keep) | with_reducible intro _
    | (with_reducible apply Keep.ite) | (with_reducible apply State.reach_keep)
    | (with_reducible apply State.count_keep) | (with_reducible apply State.log_keep)
    | (with_reducible apply State.schedFault_keep) | (with_reducible apply State.setTrain_keep) | (dsimp only)
    | split | (with_reducible apply Keep.kept) | (with_reducible refine Keep.mk (Keep.kept ?_))

theorem State.resumeSweeps_keep {s0 s : State} (h : Keep s0 s)  :
    Keep s0 (State.resumeSweeps s) := by
  unfold State.resumeSweeps
  repeat' first
    | with_reducible assumption | with_reducible intro _ | (with_reducible apply Keep.ite)
    | (with_reducible apply State.count_keep) | (with_reducible apply State.log_keep)
    | (with_reducible apply State.each_keep) | (with_reducible apply State.sweepEngine_keep) | (dsimp only) | split
    | (with_reducible apply Keep.kept) | (with_reducible refine Keep.mk (Keep.kept ?_))

theorem State.setStateStatus_keep {s0 s : State} (h : Keep s0 s) (f : Option StateFault) :
    Keep s0 (State.setStateStatus s f) := by
  unfold State.setStateStatus
  repeat' first
    | with_reducible assumption | with_reducible intro _ | (with_reducible apply hf)
    | (with_reducible apply State.setRec_keep) | (with_reducible refine KeepsOpt.get ?_ (by assumption))
    | (with_reducible apply KeepsOpt.getD) | (dsimp only) | split | (with_reducible apply Keep.kept)
    | (with_reducible refine Keep.mk (Keep.kept ?_))

theorem State.rebuildBlk_keep {s0 s : State} (h : Keep s0 s) (k : Blk) (check : Nat → Bool) (tag : Bool) :
    Keep s0 (State.rebuildBlk s k check tag).1 := by
  unfold State.rebuildBlk
  repeat' first
    | with_reducible assumption | with_reducible intro _ | (with_reducible apply Keep.ite)
    | (with_reducible apply Keep.ite1) | (with_reducible apply State.countFlushed_keep)
    | (with_reducible apply State.enginePages_keep) | (with_reducible apply Eff.andThen_keep)
    | (with_reducible apply State.ok_keep) | (with_reducible apply State.eWrite_keep)
    | (with_reducible apply State.eWrites_keep) | (with_reducible apply State.tallyBlocks_keep)
    | (with_reducible apply State.countSlots_keep) | (with_reducible refine Keep.fst ?_ (by assumption))
    | (dsimp only) | split | (with_reducible apply Keep.kept) | (with_reducible refine Keep.mk (Keep.kept ?_))

theorem State.rebuildAll_keep {s0 s : State} (h : Keep s0 s) (step : Nat) (fresh : Bool) :
    Keep s0 (State.rebuildAll s step fresh).1 := by
  unfold State.rebuildAll
  repeat' first
    | with_reducible assumption | (with_reducible apply step_keep) | with_reducible intro _
    | (with_reducible apply Keep.ite) | (with_reducible apply Keep.ite1)
    | (with_reducible apply State.rebuildBlk_keep) | (with_reducible apply Keep.foldl)
    | (with_reducible apply Keep.foldl1) | (with_reducible apply Keep.foldl2)
    | (with_reducible refine Keep.fst ?_ (by assumption)) | (dsimp only) | split | (with_reducible apply Keep.kept)
    | (with_reducible refine Keep.mk (Keep.kept ?_))

theorem State.formRopeFps_keep {s0 s : State} (h : Keep s0 s)  :
    Keep s0 (State.formRopeFps s) := by
  unfold State.formRopeFps
  repeat' first
    | with_reducible assumption | with_reducible intro _ | (with_reducible apply Keep.ite)
    | (with_reducible apply State.ok_keep) | (with_reducible apply State.setRopeRec_keep)
    | (with_reducible apply Keep.foldl) | (with_reducible apply Keep.foldl1) | (with_reducible apply Keep.foldl2)
    | (with_reducible refine Keep.fst ?_ (by assumption)) | (dsimp only) | split | (with_reducible apply Keep.kept)
    | (with_reducible refine Keep.mk (Keep.kept ?_))

theorem State.freshRecords_keep {s0 s : State} (h : Keep s0 s)  :
    Keep s0 (State.freshRecords s) := by
  unfold State.freshRecords
  repeat' first
    | with_reducible assumption | with_reducible intro _ | (with_reducible apply State.mpWrite_keep)
    | (with_reducible apply State.setStepRec_keep) | (dsimp only) | split | (with_reducible apply Keep.kept)
    | (with_reducible refine Keep.mk (Keep.kept ?_))

theorem State.freshRope_keep {s0 s : State} (h : Keep s0 s)  :
    Keep s0 (State.freshRope s) := by
  unfold State.freshRope
  repeat' first
    | with_reducible assumption | with_reducible intro _ | (with_reducible apply Keep.ite)
    | (with_reducible apply State.mpWrite_keep) | (with_reducible apply State.setRopeRec_keep)
    | (with_reducible apply State.formRopeFps_keep) | (dsimp only) | split | (with_reducible apply Keep.kept)
    | (with_reducible refine Keep.mk (Keep.kept ?_))

theorem State.freshStart_keep {s0 s : State} (h : Keep s0 s)  :
    Keep s0 (State.freshStart s) := by
  unfold State.freshStart
  repeat' first
    | with_reducible assumption | with_reducible intro _ | (with_reducible apply Keep.ite)
    | (with_reducible apply State.setTrain_keep) | (with_reducible apply State.setRope_keep)
    | (with_reducible apply State.rebuildAll_keep) | (with_reducible apply State.freshRecords_keep)
    | (with_reducible apply State.freshRope_keep) | (with_reducible refine Keep.fst ?_ (by assumption))
    | (dsimp only) | split | (with_reducible apply Keep.kept) | (with_reducible refine Keep.mk (Keep.kept ?_))

theorem State.restoreState_keep {s0 s : State} (h : Keep s0 s)  :
    Keep s0 (State.restoreState s) := by
  unfold State.restoreState
  repeat' first
    | with_reducible assumption | with_reducible intro _ | (with_reducible apply Keep.ite)
    | (with_reducible apply State.setTrain_keep) | (with_reducible apply State.setRope_keep)
    | (with_reducible apply State.rebuildAll_keep) | (with_reducible refine Keep.fst ?_ (by assumption))
    | (dsimp only) | split | (with_reducible apply Keep.kept) | (with_reducible refine Keep.mk (Keep.kept ?_))

theorem execRestoreComplete_keep {s0 s : State} (h : Keep s0 s)  :
    Keeps s0 (execRestoreComplete s) := by
  unfold execRestoreComplete
  repeat' first
    | with_reducible assumption | (with_reducible apply act_keep) | with_reducible intro _
    | (with_reducible apply State.log_keep) | (with_reducible apply State.setTrain_keep)
    | (with_reducible apply State.loadShardFp_keep) | (with_reducible apply State.setStepRec_keep)
    | (with_reducible apply State.setStateStatus_keep) | (dsimp only) | split | (with_reducible apply Keep.kept)
    | (with_reducible refine Keep.mk (Keep.kept ?_))

theorem execBelayManifestWrite_keep {s0 s : State} (h : Keep s0 s)  :
    Keeps s0 (execBelayManifestWrite s) := by
  unfold execBelayManifestWrite
  repeat' first
    | with_reducible assumption | (with_reducible apply act_keep) | with_reducible intro _
    | (with_reducible apply Keep.ite) | (with_reducible apply State.log_keep)
    | (with_reducible apply State.mpWrite_keep) | (with_reducible apply State.setTrain_keep) | (dsimp only) | split
    | (with_reducible apply Keep.kept) | (with_reducible refine Keep.mk (Keep.kept ?_))

end Sys2Proof.Machine
end

