-- ==== Sys2Proof/Laws/KeepReplica.lean ====
section
/-!
SUPPORT. What the operations of Machine/Replica.lean keep (Laws/Keep.lean).
-/

namespace Sys2Proof.Machine

theorem State.repairFails_keep {s0 s : State} (h : Keep s0 s)  :
    Keep s0 (State.repairFails s) := by
  unfold State.repairFails
  repeat' first
    | with_reducible assumption | with_reducible intro _ | (with_reducible apply State.setRepair_keep)
    | (with_reducible apply State.repairImpossible_keep) | (dsimp only) | split | (with_reducible apply Keep.kept)
    | (with_reducible refine Keep.mk (Keep.kept ?_))

theorem State.repairEnds_keep {s0 s : State} (h : Keep s0 s) (r : Repair) :
    Keep s0 (State.repairEnds s r) := by
  unfold State.repairEnds
  repeat' first
    | with_reducible assumption | with_reducible intro _ | (with_reducible apply State.log_keep)
    | (with_reducible apply State.setRepair_keep) | (with_reducible apply State.done_keep)
    | (with_reducible refine Keep.snd ?_ (by assumption)) | (dsimp only) | split | (with_reducible apply Keep.kept)
    | (with_reducible refine Keep.mk (Keep.kept ?_))

theorem State.askPiece_keep {s0 s : State} (h : Keep s0 s) (r : Repair) (sub offset total : Nat) :
    Keep s0 (State.askPiece s r sub offset total) := by
  unfold State.askPiece
  repeat' first
    | with_reducible assumption | with_reducible intro _ | (with_reducible apply State.ownRequest_keep)
    | (dsimp only) | split | (with_reducible apply Keep.kept) | (with_reducible refine Keep.mk (Keep.kept ?_))

theorem State.askSpans_keep {s0 s : State} (h : Keep s0 s) (r : Repair) :
    Keep s0 (State.askSpans s r) := by
  unfold State.askSpans
  repeat' first
    | with_reducible assumption | with_reducible intro _ | (with_reducible apply Keep.ite)
    | (with_reducible apply State.setRepair_keep) | (with_reducible apply State.askPiece_keep) | (dsimp only)
    | split | (with_reducible apply Keep.kept) | (with_reducible refine Keep.mk (Keep.kept ?_))

theorem State.askBlocks_keep {s0 s : State} (h : Keep s0 s) (r : Repair) (spans : List Nat) :
    Keep s0 (State.askBlocks s r spans) := by
  unfold State.askBlocks
  repeat' first
    | with_reducible assumption | with_reducible intro _ | (with_reducible apply State.setRepair_keep)
    | (with_reducible apply State.askPiece_keep) | (dsimp only) | split | (with_reducible apply Keep.kept)
    | (with_reducible refine Keep.mk (Keep.kept ?_))

theorem State.repairCheck_keep {s0 s : State} (h : Keep s0 s) (r : Repair) :
    Keep s0 (State.repairCheck s r) := by
  unfold State.repairCheck
  repeat' first
    | with_reducible assumption | with_reducible intro _ | (with_reducible apply Keep.ite)
    | (with_reducible apply State.repairFails_keep) | (with_reducible apply State.repairEnds_keep)
    | (with_reducible apply State.askSpans_keep) | (dsimp only) | split | (with_reducible apply Keep.kept)
    | (with_reducible refine Keep.mk (Keep.kept ?_))

theorem State.repairIfDone_keep {s0 s : State} (h : Keep s0 s)  :
    Keep s0 (State.repairIfDone s) := by
  unfold State.repairIfDone
  repeat' first
    | with_reducible assumption | with_reducible intro _ | (with_reducible apply Keep.ite)
    | (with_reducible apply State.repairCheck_keep) | (dsimp only) | split | (with_reducible apply Keep.kept)
    | (with_reducible refine Keep.mk (Keep.kept ?_))

theorem State.dropReads_keep {s0 s : State} (h : Keep s0 s)  :
    Keep s0 (State.dropReads s) := by
  unfold State.dropReads
  repeat' first
    | with_reducible assumption | with_reducible intro _ | (dsimp only) | split | (with_reducible apply Keep.kept)
    | (with_reducible refine Keep.mk (Keep.kept ?_))

theorem State.sourceFails_keep {s0 s : State} (h : Keep s0 s) (r : Repair) :
    Keep s0 (State.sourceFails s r) := by
  unfold State.sourceFails
  repeat' first
    | with_reducible assumption | (with_reducible apply Keeps.next) | with_reducible intro _
    | (with_reducible apply State.setRepair_keep) | (with_reducible apply State.askRepair_keep)
    | (with_reducible apply State.repairFails_keep) | (with_reducible apply State.askSpans_keep)
    | (with_reducible apply State.dropReads_keep) | (dsimp only) | split | (with_reducible apply Keep.kept)
    | (with_reducible refine Keep.mk (Keep.kept ?_))

theorem State.copyFails_keep {s0 s : State} (h : Keep s0 s) (c : Nat) :
    Keep s0 (State.copyFails s c) := by
  unfold State.copyFails
  repeat' first
    | with_reducible assumption | with_reducible intro _ | (with_reducible apply Keep.ite)
    | (with_reducible apply State.sourceFails_keep) | (dsimp only) | split | (with_reducible apply Keep.kept)
    | (with_reducible refine Keep.mk (Keep.kept ?_))

theorem State.repairMoves_keep {s0 s : State} (h : Keep s0 s)  :
    Keep s0 (State.repairMoves s) := by
  unfold State.repairMoves
  repeat' first
    | with_reducible assumption | with_reducible intro _ | (with_reducible apply Keep.ite)
    | (with_reducible apply State.sourceFails_keep) | (dsimp only) | split | (with_reducible apply Keep.kept)
    | (with_reducible refine Keep.mk (Keep.kept ?_))

theorem State.judgeValues_keep {s0 s : State} (h : Keep s0 s) (r : Repair) :
    Keep s0 (State.judgeValues s r) := by
  unfold State.judgeValues
  repeat' first
    | with_reducible assumption | (with_reducible apply Keeps.next) | with_reducible intro _
    | (with_reducible apply Keep.ite) | (with_reducible apply State.schedFault_keep)
    | (with_reducible apply State.setRepair_keep) | (with_reducible apply State.repairFails_keep)
    | (with_reducible apply State.askSpans_keep) | (dsimp only) | split | (with_reducible apply Keep.kept)
    | (with_reducible refine Keep.mk (Keep.kept ?_))

theorem State.localise_keep {s0 s : State} (h : Keep s0 s)  :
    Keep s0 (State.localise s) := by
  unfold State.localise
  repeat' first
    | with_reducible assumption | with_reducible intro _ | (with_reducible apply Keep.ite)
    | (with_reducible apply State.each_keep) | (with_reducible apply State.setRepair_keep)
    | (with_reducible apply State.ownHello_keep) | (with_reducible apply State.judgeValues_keep) | (dsimp only)
    | split | (with_reducible apply Keep.kept) | (with_reducible refine Keep.mk (Keep.kept ?_))

theorem execFpCheck_keep {s0 s : State} (h : Keep s0 s)  :
    Keeps s0 (execFpCheck s) := by
  unfold execFpCheck
  repeat' first
    | with_reducible assumption | (with_reducible apply act_keep) | with_reducible intro _
    | (with_reducible apply Keep.ite) | (with_reducible apply State.count_keep)
    | (with_reducible apply State.log_keep) | (with_reducible apply State.interrupt_keep)
    | (with_reducible apply State.setTrain_keep) | (with_reducible apply State.atStep_keep)
    | (with_reducible apply State.localise_keep) | (dsimp only) | split | (with_reducible apply Keep.kept)
    | (with_reducible refine Keep.mk (Keep.kept ?_))

theorem State.ownFails_keep {s0 s : State} (h : Keep s0 s) (q : OwnRequest) :
    Keep s0 (State.ownFails s q) := by
  unfold State.ownFails
  repeat' first
    | with_reducible assumption | with_reducible intro _ | (with_reducible apply Keep.ite)
    | (with_reducible apply State.sourceFails_keep) | (with_reducible apply State.judgeValues_keep) | (dsimp only)
    | split | (with_reducible apply Keep.kept) | (with_reducible refine Keep.mk (Keep.kept ?_))

theorem State.takeValue_keep {s0 s : State} (h : Keep s0 s) (r : Repair) (i sub : Nat) (index : Nat) (data : List
      Byte) (session : Nat) :
    Keep s0 (State.takeValue s r i sub index data session) := by
  unfold State.takeValue
  repeat' first
    | with_reducible assumption | (with_reducible apply step_keep) | with_reducible intro _
    | (with_reducible apply Keep.ite) | (with_reducible apply State.setRepair_keep)
    | (with_reducible apply State.ownRequest_keep) | (with_reducible apply State.judgeValues_keep) | (dsimp only)
    | split | (with_reducible apply Keep.kept) | (with_reducible refine Keep.mk (Keep.kept ?_))

theorem State.takePiece_keep {s0 s : State} (h : Keep s0 s) (r : Repair) (data : List Byte) :
    Keep s0 (State.takePiece s r data) := by
  unfold State.takePiece
  repeat' first
    | with_reducible assumption | with_reducible intro _ | (with_reducible apply Keep.ite)
    | (with_reducible apply State.setRepair_keep) | (with_reducible apply State.askPiece_keep)
    | (with_reducible apply State.askBlocks_keep) | (with_reducible apply State.repairIfDone_keep)
    | (with_reducible apply Keep.foldl) | (with_reducible apply Keep.foldl1) | (with_reducible apply Keep.foldl2)
    | (dsimp only) | split | (with_reducible apply Keep.kept) | (with_reducible refine Keep.mk (Keep.kept ?_))

theorem State.takeAnswer_keep {s0 s : State} (h : Keep s0 s) (q : OwnRequest) (w : Nat) (data : List Byte) :
    Keep s0 (State.takeAnswer s q w data) := by
  unfold State.takeAnswer
  repeat' first
    | with_reducible assumption | with_reducible intro _ | (with_reducible apply Keep.ite)
    | (with_reducible apply State.setRepair_keep) | (with_reducible apply State.ownRequest_keep)
    | (with_reducible apply State.dropOwn_keep) | (with_reducible apply State.ownFails_keep)
    | (with_reducible apply State.takeValue_keep) | (with_reducible apply State.takePiece_keep) | (dsimp only)
    | split | (with_reducible apply Keep.kept) | (with_reducible refine Keep.mk (Keep.kept ?_))

theorem State.popVc0_keep {s0 s : State} (h : Keep s0 s) (m : DxpMsg) :
    Keep s0 (State.popVc0 s m) := by
  unfold State.popVc0
  repeat' first
    | with_reducible assumption | with_reducible intro _ | (with_reducible apply Keep.ite) | (dsimp only) | split
    | (with_reducible apply Keep.kept) | (with_reducible refine Keep.mk (Keep.kept ?_))

theorem execDxpResponse_keep {s0 s : State} (h : Keep s0 s) (m : DxpMsg) :
    Keeps s0 (execDxpResponse m s) := by
  unfold execDxpResponse
  repeat' first
    | with_reducible assumption | (with_reducible apply act_keep) | with_reducible intro _
    | (with_reducible apply Keep.ite) | (with_reducible apply State.askRepair_keep)
    | (with_reducible apply State.takeAnswer_keep) | (with_reducible apply State.popVc0_keep) | (dsimp only)
    | split | (with_reducible apply Keep.kept) | (with_reducible refine Keep.mk (Keep.kept ?_))

theorem execVc0RetryExpire_keep {s0 s : State} (h : Keep s0 s) (seq : BitVec 32) :
    Keeps s0 (execVc0RetryExpire seq s) := by
  unfold execVc0RetryExpire
  repeat' first
    | with_reducible assumption | (with_reducible apply act_keep) | with_reducible intro _
    | (with_reducible apply Keep.ite) | (with_reducible apply State.reach_keep)
    | (with_reducible apply State.askRepair_keep) | (with_reducible apply State.setDict_keep)
    | (with_reducible apply State.sendMgmt_keep) | (with_reducible apply State.dropOwn_keep)
    | (with_reducible apply State.ownFails_keep) | (dsimp only) | split | (with_reducible apply Keep.kept)
    | (with_reducible refine Keep.mk (Keep.kept ?_))

theorem State.takeRecords_keep {s0 s : State} (h : Keep s0 s) (r : Repair) (d : RepairData) :
    Keep s0 (State.takeRecords s r d) := by
  unfold State.takeRecords
  repeat' first
    | with_reducible assumption | (with_reducible apply step_keep) | with_reducible intro _
    | (with_reducible apply Keep.ite) | (with_reducible apply State.on_keep)
    | (with_reducible apply State.setRopeRec_keep) | (with_reducible apply State.setStepRec_keep)
    | (with_reducible apply State.done_keep) | (with_reducible refine Keep.snd ?_ (by assumption)) | (dsimp only)
    | split | (with_reducible apply Keep.kept) | (with_reducible refine Keep.mk (Keep.kept ?_))

theorem State.repairBlk_keep {s0 s : State} (h : Keep s0 s) (r : Repair) (k : Blk) (d : RepairData) :
    Keep s0 (State.repairBlk s r k d) := by
  unfold State.repairBlk
  repeat' first
    | with_reducible assumption | with_reducible intro _ | (with_reducible apply Keep.ite)
    | (with_reducible apply State.count_keep) | (with_reducible apply State.enginePages_keep)
    | (with_reducible apply State.eWrites_keep) | (with_reducible apply State.setRepair_keep)
    | (with_reducible apply State.askRepair_keep) | (with_reducible apply State.engineReset_keep)
    | (with_reducible apply State.moveShardFp_keep) | (with_reducible apply State.repairFails_keep)
    | (with_reducible apply State.repairIfDone_keep) | (with_reducible apply State.takeRecords_keep)
    | (with_reducible apply State.done_keep) | (with_reducible refine Keep.snd ?_ (by assumption))
    | (with_reducible refine Keep.fst ?_ (by assumption)) | (dsimp only) | split | (with_reducible apply Keep.kept)
    | (with_reducible refine Keep.mk (Keep.kept ?_))

theorem State.finishCopy_keep {s0 s : State} (h : Keep s0 s)  :
    Keep s0 (State.finishCopy s) := by
  unfold State.finishCopy
  repeat' first
    | with_reducible assumption | with_reducible intro _ | (with_reducible apply State.each_keep)
    | (with_reducible apply State.releaseRequest_keep) | (with_reducible apply State.issueRequest_keep)
    | (with_reducible apply State.askRepair_keep) | (dsimp only) | split | (with_reducible apply Keep.kept)
    | (with_reducible refine Keep.mk (Keep.kept ?_))

theorem execRepairBlock_keep {s0 s : State} (h : Keep s0 s) (b : Nat) (data : RepairData) :
    Keeps s0 (execRepairBlock b data s) := by
  unfold execRepairBlock
  repeat' first
    | with_reducible assumption | (with_reducible apply act_keep) | with_reducible intro _
    | (with_reducible apply Keep.ite) | (with_reducible apply State.ok_keep)
    | (with_reducible apply State.repairIfDone_keep) | (with_reducible apply State.sourceFails_keep)
    | (with_reducible apply State.takeRecords_keep) | (with_reducible apply State.repairBlk_keep)
    | (with_reducible apply State.finishCopy_keep) | (with_reducible refine Keep.fst ?_ (by assumption))
    | (dsimp only) | split | (with_reducible apply Keep.kept) | (with_reducible refine Keep.mk (Keep.kept ?_))

theorem execEnginePaceExpire_keep {s0 s : State} (h : Keep s0 s) (engine : Engine) :
    Keeps s0 (execEnginePaceExpire engine s) := by
  unfold execEnginePaceExpire
  repeat' first
    | with_reducible assumption | (with_reducible apply act_keep) | with_reducible intro _
    | (with_reducible apply Keep.ite) | (with_reducible apply State.reach_keep)
    | (with_reducible apply State.count_keep) | (with_reducible apply State.log_keep)
    | (with_reducible apply State.faultCount_keep) | (with_reducible apply State.setEngineSt_keep)
    | (with_reducible apply State.engineReset_keep) | (with_reducible apply State.sweepEngine_keep) | (dsimp only)
    | split | (with_reducible apply Keep.kept) | (with_reducible refine Keep.mk (Keep.kept ?_))

end Sys2Proof.Machine
end

