-- ==== Sys2Proof/Laws/KeepRemote.lean ====
section
/-!
SUPPORT. What the operations of Machine/Remote.lean keep (Laws/Keep.lean).
-/

namespace Sys2Proof.Machine

theorem execRequestIssue_keep {s0 s : State} (h : Keep s0 s) (die : HDie) :
    Keeps s0 (execRequestIssue die s) := by
  unfold execRequestIssue
  repeat' first
    | with_reducible assumption | (with_reducible apply act_keep) | (with_reducible apply Keeps.next)
    | with_reducible intro _ | (with_reducible apply State.issueRequest_keep) | (dsimp only) | split
    | (with_reducible apply Keep.kept) | (with_reducible refine Keep.mk (Keep.kept ?_))

theorem State.targetWrite_keep {s0 s : State} (h : Keep s0 s) (p : Packet) (bs : List Byte) :
    Keep s0 (State.targetWrite s p bs) := by
  unfold State.targetWrite
  repeat' first
    | with_reducible assumption | with_reducible intro _ | (with_reducible apply Keep.ite)
    | (with_reducible apply State.write_keep) | (with_reducible apply State.storeWriteRaw_keep) | (dsimp only)
    | split | (with_reducible apply Keep.kept) | (with_reducible refine Keep.mk (Keep.kept ?_))

theorem State.respond_keep {s0 s : State} (h : Keep s0 s) (p : Packet) (op status operand : Nat) (data : List Byte) :
    Keep s0 (State.respond s p op status operand data) := by
  unfold State.respond
  repeat' first
    | with_reducible assumption | with_reducible intro _ | (with_reducible apply State.inject_keep) | (dsimp only)
    | split | (with_reducible apply Keep.kept) | (with_reducible refine Keep.mk (Keep.kept ?_))

theorem State.target_keep {s0 s : State} (h : Keep s0 s) (p : Packet) (op : Nat) (run : State → State) (hrun : ∀ u,
      Keep s0 u → Keep s0 (run u)) :
    Keep s0 (State.target s p op run) := by
  unfold State.target
  repeat' first
    | with_reducible assumption | with_reducible intro _ | (with_reducible apply Keep.ite)
    | (with_reducible apply hrun) | (with_reducible apply State.on_keep)
    | (with_reducible apply State.setFlow_keep) | (with_reducible apply State.errorTo_keep)
    | (with_reducible apply State.breakFlow_keep) | (with_reducible apply State.useFlow_keep)
    | (with_reducible apply State.ok_keep) | (with_reducible refine Keep.fst ?_ (by assumption)) | (dsimp only)
    | split | (with_reducible apply Keep.kept) | (with_reducible refine Keep.mk (Keep.kept ?_))

theorem execMemRead_keep {s0 s : State} (h : Keep s0 s) (p : Packet) :
    Keeps s0 (execMemRead p s) := by
  unfold execMemRead
  repeat' first
    | with_reducible assumption | (with_reducible apply act_keep) | with_reducible intro _
    | (with_reducible apply Keep.ite) | (with_reducible apply State.readPoison_keep)
    | (with_reducible apply State.errorTo_keep) | (with_reducible apply State.respond_keep)
    | (with_reducible apply State.target_keep) | (dsimp only) | split | (with_reducible apply Keep.kept)
    | (with_reducible refine Keep.mk (Keep.kept ?_))

theorem State.serveWrite_keep {s0 s : State} (h : Keep s0 s) (p : Packet) :
    Keep s0 (State.serveWrite s p) := by
  unfold State.serveWrite
  repeat' first
    | with_reducible assumption | with_reducible intro _ | (with_reducible apply State.errorTo_keep)
    | (with_reducible apply State.targetWrite_keep) | (with_reducible apply State.respond_keep)
    | (with_reducible apply State.target_keep) | (dsimp only) | split | (with_reducible apply Keep.kept)
    | (with_reducible refine Keep.mk (Keep.kept ?_))

theorem execMemAtomic_keep {s0 s : State} (h : Keep s0 s) (p : Packet) :
    Keeps s0 (execMemAtomic p s) := by
  unfold execMemAtomic
  repeat' first
    | with_reducible assumption | (with_reducible apply act_keep) | with_reducible intro _
    | (with_reducible apply Keep.ite) | (with_reducible apply State.readPoison_keep)
    | (with_reducible apply State.errorTo_keep) | (with_reducible apply State.targetWrite_keep)
    | (with_reducible apply State.respond_keep) | (with_reducible apply State.target_keep) | (dsimp only) | split
    | (with_reducible apply Keep.kept) | (with_reducible refine Keep.mk (Keep.kept ?_))

theorem State.notify_keep {s0 s : State} (h : Keep s0 s) (f : Flow) :
    Keep s0 (State.notify s f) := by
  unfold State.notify
  repeat' first
    | with_reducible assumption | with_reducible intro _ | (with_reducible apply State.interrupt_keep)
    | (with_reducible apply State.post_keep) | (dsimp only) | split | (with_reducible apply Keep.kept)
    | (with_reducible refine Keep.mk (Keep.kept ?_))

theorem execMemMessage_keep {s0 s : State} (h : Keep s0 s) (p : Packet) :
    Keeps s0 (execMemMessage p s) := by
  unfold execMemMessage
  repeat' first
    | with_reducible assumption | (with_reducible apply act_keep) | with_reducible intro _
    | (with_reducible apply Keep.ite) | (with_reducible apply State.draw_keep)
    | (with_reducible apply State.on_keep) | (with_reducible apply State.write_keep)
    | (with_reducible apply State.setFlow_keep) | (with_reducible apply State.errorTo_keep)
    | (with_reducible apply State.respond_keep) | (with_reducible apply State.target_keep)
    | (with_reducible apply State.notify_keep) | (with_reducible refine Keep.snd ?_ (by assumption)) | (dsimp only)
    | split | (with_reducible apply Keep.kept) | (with_reducible refine Keep.mk (Keep.kept ?_))

theorem State.answerMover_keep {s0 s : State} (h : Keep s0 s) (m dst count : Nat) (data : List Byte) :
    Keep s0 (State.answerMover s m dst count data) := by
  unfold State.answerMover
  repeat' first
    | with_reducible assumption | with_reducible intro _ | (with_reducible apply Keep.ite)
    | (with_reducible apply State.count_keep) | (with_reducible apply State.setMover_keep)
    | (with_reducible apply State.queueRequests_keep) | (with_reducible apply State.take_keep) | (dsimp only)
    | split | (with_reducible apply Keep.kept) | (with_reducible refine Keep.mk (Keep.kept ?_))

theorem execResponseArrive_keep {s0 s : State} (h : Keep s0 s) (die : HDie) (p : Packet) :
    Keeps s0 (execResponseArrive die p s) := by
  unfold execResponseArrive
  repeat' first
    | with_reducible assumption | (with_reducible apply act_keep) | with_reducible intro _
    | (with_reducible apply Keep.ite) | (with_reducible apply State.count_keep)
    | (with_reducible apply State.failIssuer_keep) | (with_reducible apply State.releaseRequest_keep)
    | (with_reducible apply State.useFlow_keep) | (with_reducible apply State.ok_keep)
    | (with_reducible apply State.copyFails_keep) | (with_reducible apply State.answerMover_keep)
    | (with_reducible refine Keep.fst ?_ (by assumption)) | (dsimp only) | split | (with_reducible apply Keep.kept)
    | (with_reducible refine Keep.mk (Keep.kept ?_))

theorem execFlowBreak_keep {s0 s : State} (h : Keep s0 s) (p : Packet) :
    Keeps s0 (execFlowBreak p s) := by
  unfold execFlowBreak
  repeat' first
    | with_reducible assumption | (with_reducible apply act_keep) | with_reducible intro _
    | (with_reducible apply Keep.ite) | (with_reducible apply State.breakFlow_keep)
    | (with_reducible apply State.ok_keep) | (with_reducible apply State.repairMoves_keep)
    | (with_reducible refine Keep.fst ?_ (by assumption)) | (dsimp only) | split | (with_reducible apply Keep.kept)
    | (with_reducible refine Keep.mk (Keep.kept ?_))

theorem execLeaseLapse_keep {s0 s : State} (h : Keep s0 s) (c : FlowId) :
    Keeps s0 (execLeaseLapse c s) := by
  unfold execLeaseLapse
  repeat' first
    | with_reducible assumption | (with_reducible apply act_keep) | with_reducible intro _
    | (with_reducible apply Keep.ite) | (with_reducible apply State.reach_keep)
    | (with_reducible apply State.breakFlow_keep) | (with_reducible apply State.repairMoves_keep) | (dsimp only)
    | split | (with_reducible apply Keep.kept) | (with_reducible refine Keep.mk (Keep.kept ?_))

theorem execRespTimeoutExpire_keep {s0 s : State} (h : Keep s0 s) (c : FlowId) (seq : BitVec 32) :
    Keeps s0 (execRespTimeoutExpire c seq s) := by
  unfold execRespTimeoutExpire
  repeat' first
    | with_reducible assumption | (with_reducible apply act_keep) | with_reducible intro _
    | (with_reducible apply State.reach_keep) | (with_reducible apply State.breakFlow_keep)
    | (with_reducible apply State.repairMoves_keep) | (dsimp only) | split | (with_reducible apply Keep.kept)
    | (with_reducible refine Keep.mk (Keep.kept ?_))

theorem execReduceGroupCombine_keep {s0 s : State} (h : Keep s0 s) (link : Link) :
    Keeps s0 (execReduceGroupCombine link s) := by
  unfold execReduceGroupCombine
  repeat' first
    | with_reducible assumption | (with_reducible apply act_keep) | with_reducible intro _
    | (with_reducible apply Keep.ite) | (with_reducible apply State.on_keep)
    | (with_reducible apply State.countFlushed_keep) | (with_reducible apply State.sendDeltas_keep)
    | (with_reducible apply State.readPoison_keep) | (with_reducible apply State.landBytes_keep)
    | (with_reducible apply State.setRx_keep) | (with_reducible apply State.landingFault_keep) | (dsimp only)
    | split | (with_reducible apply Keep.kept) | (with_reducible refine Keep.mk (Keep.kept ?_))

end Sys2Proof.Machine
end

