-- ==== Sys2Proof/Laws/KeepRopeLink.lean ====
section
/-!
SUPPORT. What the operations of Machine/RopeLink.lean keep (Laws/Keep.lean).
-/

namespace Sys2Proof.Machine

theorem State.portSend_keep {s0 s : State} (h : Keep s0 s) (stripe : Nat) (h : BitVec 512) (body : List Byte) :
    Keep s0 (State.portSend s stripe h body) := by
  unfold State.portSend
  repeat' first
    | with_reducible assumption | with_reducible intro _ | (with_reducible apply State.emit_keep)
    | (with_reducible apply State.setRope_keep) | (dsimp only) | split | (with_reducible apply Keep.kept)
    | (with_reducible refine Keep.mk (Keep.kept ?_))

theorem State.packetSend_keep {s0 s : State} (h : Keep s0 s) (dst : Nat) (h : BitVec 512) (body : List Byte) :
    Keep s0 (State.packetSend s dst h body) := by
  unfold State.packetSend
  repeat' first
    | with_reducible assumption | with_reducible intro _ | (with_reducible apply State.inject_keep) | (dsimp only)
    | split | (with_reducible apply Keep.kept) | (with_reducible refine Keep.mk (Keep.kept ?_))

theorem State.routeFrame_keep {s0 s : State} (h : Keep s0 s) (stripe : Nat) (h : BitVec 512) (body : List Byte) :
    Keep s0 (State.routeFrame s stripe h body) := by
  unfold State.routeFrame
  repeat' first
    | with_reducible assumption | with_reducible intro _ | (with_reducible apply Keep.ite)
    | (with_reducible apply State.portSend_keep) | (with_reducible apply State.packetSend_keep) | (dsimp only)
    | split | (with_reducible apply Keep.kept) | (with_reducible refine Keep.mk (Keep.kept ?_))

theorem State.takeTokens_keep {s0 s : State} (h : Keep s0 s) (site n : Nat) :
    KeepsOpt s0 (State.takeTokens s site n) := by
  unfold State.takeTokens
  repeat' first
    | with_reducible assumption | with_reducible intro _ | (with_reducible apply KeepsOpt.none)
    | (with_reducible apply KeepsOpt.some) | (with_reducible apply KeepsOpt.ite) | (with_reducible apply Keep.ite)
    | (with_reducible apply State.setRope_keep) | (with_reducible apply State.setPeer_keep) | (dsimp only) | split
    | (with_reducible apply Keep.kept) | (with_reducible refine Keep.mk (Keep.kept ?_))

theorem State.transmit_keep {s0 s : State} (h : Keep s0 s) (x kind : Nat) (retx : Bool) (seq round engine slot item :
      Nat) (body : List Byte) :
    KeepsOpt s0 (State.transmit s x kind retx seq round engine slot item body) := by
  unfold State.transmit
  repeat' first
    | with_reducible assumption | with_reducible intro _ | (with_reducible apply KeepsOpt.none)
    | (with_reducible apply KeepsOpt.some) | (with_reducible apply KeepsOpt.ite) | (with_reducible apply Keep.ite)
    | (with_reducible apply State.setSess_keep) | (with_reducible apply State.routeFrame_keep)
    | (with_reducible apply State.takeTokens_keep) | (with_reducible refine KeepsOpt.get ?_ (by assumption))
    | (with_reducible apply KeepsOpt.getD) | (dsimp only) | split | (with_reducible apply Keep.kept)
    | (with_reducible refine Keep.mk (Keep.kept ?_))

theorem State.switchEpoch_keep {s0 s : State} (h : Keep s0 s) (x seq : Nat) :
    Keep s0 (State.switchEpoch s x seq) := by
  unfold State.switchEpoch
  repeat' first
    | with_reducible assumption | (with_reducible apply Keeps.next) | with_reducible intro _
    | (with_reducible apply Keep.ite) | (with_reducible apply State.log_keep)
    | (with_reducible apply State.setSess_keep) | (dsimp only) | split | (with_reducible apply Keep.kept)
    | (with_reducible refine Keep.mk (Keep.kept ?_))

theorem State.queueSack_keep {s0 s : State} (h : Keep s0 s) (x : Nat) :
    Keep s0 (State.queueSack s x) := by
  unfold State.queueSack
  repeat' first
    | with_reducible assumption | with_reducible intro _ | (with_reducible apply State.mapSess_keep) | (dsimp only)
    | split | (with_reducible apply Keep.kept) | (with_reducible refine Keep.mk (Keep.kept ?_))

theorem State.resend_keep {s0 s : State} (h : Keep s0 s) (x : Nat) (f : OutFrame) :
    Keep s0 (State.resend s x f) := by
  unfold State.resend
  repeat' first
    | with_reducible assumption | with_reducible intro _ | (with_reducible apply Keep.ite)
    | (with_reducible apply State.count64_keep) | (with_reducible apply State.mapSess_keep)
    | (with_reducible apply State.transmit_keep) | (with_reducible refine KeepsOpt.get ?_ (by assumption))
    | (with_reducible apply KeepsOpt.getD) | (dsimp only) | split | (with_reducible apply Keep.kept)
    | (with_reducible refine Keep.mk (Keep.kept ?_))

theorem State.ropeSendNext_keep {s0 s : State} (h : Keep s0 s) (x : Nat) :
    Keep s0 (State.ropeSendNext s x) := by
  unfold State.ropeSendNext
  repeat' first
    | with_reducible assumption | with_reducible intro _ | (with_reducible apply Keep.ite)
    | (with_reducible apply State.mapSess_keep) | (with_reducible apply State.transmit_keep)
    | (with_reducible apply State.switchEpoch_keep) | (with_reducible apply State.resend_keep)
    | (with_reducible refine KeepsOpt.get ?_ (by assumption)) | (with_reducible apply KeepsOpt.getD) | (dsimp only)
    | split | (with_reducible apply Keep.kept) | (with_reducible refine Keep.mk (Keep.kept ?_))

theorem State.flushGateway_keep {s0 s : State} (h : Keep s0 s)  :
    Keep s0 (State.flushGateway s) := by
  unfold State.flushGateway
  repeat' first
    | with_reducible assumption | with_reducible intro _ | (with_reducible apply Keep.ite)
    | (with_reducible apply State.each_keep) | (with_reducible apply State.setRope_keep)
    | (with_reducible apply State.portSend_keep) | (dsimp only) | split | (with_reducible apply Keep.kept)
    | (with_reducible refine Keep.mk (Keep.kept ?_))

theorem execRopeSend_keep {s0 s : State} (h : Keep s0 s) (sess : Sess) :
    Keeps s0 (execRopeSend sess s) := by
  unfold execRopeSend
  repeat' first
    | with_reducible assumption | (with_reducible apply act_keep) | with_reducible intro _
    | (with_reducible apply State.ropeSendNext_keep) | (with_reducible apply State.flushGateway_keep)
    | (dsimp only) | split | (with_reducible apply Keep.kept) | (with_reducible refine Keep.mk (Keep.kept ?_))

theorem execResendTimeout_keep {s0 s : State} (h : Keep s0 s) (sess : Sess) :
    Keeps s0 (execResendTimeout sess s) := by
  unfold execResendTimeout
  repeat' first
    | with_reducible assumption | (with_reducible apply act_keep) | with_reducible intro _
    | (with_reducible apply Keep.ite) | (with_reducible apply State.reach_keep)
    | (with_reducible apply State.mapSess_keep) | (with_reducible apply State.resend_keep)
    | (with_reducible apply Keep.foldl) | (with_reducible apply Keep.foldl1) | (with_reducible apply Keep.foldl2)
    | (dsimp only) | split | (with_reducible apply Keep.kept) | (with_reducible refine Keep.mk (Keep.kept ?_))

theorem execSackTimer_keep {s0 s : State} (h : Keep s0 s) (sess : Sess) :
    Keeps s0 (execSackTimer sess s) := by
  unfold execSackTimer
  repeat' first
    | with_reducible assumption | (with_reducible apply act_keep) | with_reducible intro _
    | (with_reducible apply State.reach_keep) | (with_reducible apply State.queueSack_keep) | (dsimp only) | split
    | (with_reducible apply Keep.kept) | (with_reducible refine Keep.mk (Keep.kept ?_))

theorem State.queueFrame_keep {s0 s : State} (h : Keep s0 s) (x : Nat) (f : OutFrame) :
    Keep s0 (State.queueFrame s x f) := by
  unfold State.queueFrame
  repeat' first
    | with_reducible assumption | with_reducible intro _ | (with_reducible apply State.mapSess_keep) | (dsimp only)
    | split | (with_reducible apply Keep.kept) | (with_reducible refine Keep.mk (Keep.kept ?_))

theorem State.queueTo_keep {s0 s : State} (h : Keep s0 s) (site : Nat) (f : OutFrame) :
    Keep s0 (State.queueTo s site f) := by
  unfold State.queueTo
  repeat' first
    | with_reducible assumption | with_reducible intro _ | (with_reducible apply State.queueFrame_keep)
    | (dsimp only) | split | (with_reducible apply Keep.kept) | (with_reducible refine Keep.mk (Keep.kept ?_))

theorem State.dealTo_keep {s0 s : State} (h : Keep s0 s) (site : Nat) (f : OutFrame) :
    Keep s0 (State.dealTo s site f) := by
  unfold State.dealTo
  repeat' first
    | with_reducible assumption | with_reducible intro _ | (with_reducible apply State.setPeer_keep)
    | (with_reducible apply State.queueFrame_keep) | (dsimp only) | split | (with_reducible apply Keep.kept)
    | (with_reducible refine Keep.mk (Keep.kept ?_))

theorem State.openStripe_keep {s0 s : State} (h : Keep s0 s) (ss th : List Byte) (x window : Nat) :
    Keep s0 (State.openStripe s ss th x window) := by
  unfold State.openStripe
  repeat' first
    | with_reducible assumption | with_reducible intro _ | (with_reducible apply State.setSess_keep) | (dsimp only)
    | split | (with_reducible apply Keep.kept) | (with_reducible refine Keep.mk (Keep.kept ?_))

theorem State.openSession_keep {s0 s : State} (h : Keep s0 s) (site stripes window : Nat) (ss th idKey : List Byte) :
    Keep s0 (State.openSession s site stripes window ss th idKey) := by
  unfold State.openSession
  repeat' first
    | with_reducible assumption | with_reducible intro _ | (with_reducible apply State.on_keep)
    | (with_reducible apply State.log_keep) | (with_reducible apply State.each_keep)
    | (with_reducible apply State.setRope_keep) | (with_reducible apply State.setPeer_keep)
    | (with_reducible apply State.openStripe_keep) | (with_reducible apply State.trigger_keep)
    | (with_reducible refine KeepsOpt2.get' ?_ (by assumption))
    | (with_reducible refine KeepsOpt2.get ?_ (by assumption)) | (dsimp only) | split
    | (with_reducible apply Keep.kept) | (with_reducible refine Keep.mk (Keep.kept ?_))

theorem execSessionOpenAttempt_keep {s0 s : State} (h : Keep s0 s) (site : Site) :
    Keeps s0 (execSessionOpenAttempt site s) := by
  unfold execSessionOpenAttempt
  repeat' first
    | with_reducible assumption | (with_reducible apply act_keep) | with_reducible intro _
    | (with_reducible apply Keep.ite) | (with_reducible apply State.reach_keep)
    | (with_reducible apply State.draw_keep) | (with_reducible apply State.log_keep)
    | (with_reducible apply State.each_keep) | (with_reducible apply State.setPeer_keep)
    | (with_reducible apply State.mapSess_keep) | (with_reducible apply State.routeFrame_keep)
    | (with_reducible apply State.takeTokens_keep) | (with_reducible refine Keep.snd ?_ (by assumption))
    | (with_reducible refine KeepsOpt.get ?_ (by assumption)) | (with_reducible apply KeepsOpt.getD) | (dsimp only)
    | split | (with_reducible apply Keep.kept) | (with_reducible refine Keep.mk (Keep.kept ?_))

theorem State.discard_keep {s0 s : State} (h : Keep s0 s)  :
    Keep s0 (State.discard s) := by
  unfold State.discard
  repeat' first
    | with_reducible assumption | with_reducible intro _ | (with_reducible apply State.setRope_keep) | (dsimp only)
    | split | (with_reducible apply Keep.kept) | (with_reducible refine Keep.mk (Keep.kept ?_))

theorem State.takeOpen_keep {s0 s : State} (h : Keep s0 s) (f : RopeFrame) :
    Keep s0 (State.takeOpen s f) := by
  unfold State.takeOpen
  repeat' first
    | with_reducible assumption | with_reducible intro _ | (with_reducible apply Keep.ite)
    | (with_reducible apply State.draw_keep) | (with_reducible apply State.log_keep)
    | (with_reducible apply State.setPeer_keep) | (with_reducible apply State.routeFrame_keep)
    | (with_reducible apply State.takeTokens_keep) | (with_reducible apply State.openSession_keep)
    | (with_reducible apply State.discard_keep) | (with_reducible apply State.take_keep)
    | (with_reducible refine Keep.snd ?_ (by assumption)) | (with_reducible refine KeepsOpt.get ?_ (by assumption))
    | (with_reducible apply KeepsOpt.getD) | (dsimp only) | split | (with_reducible apply Keep.kept)
    | (with_reducible refine Keep.mk (Keep.kept ?_))

theorem State.takeAccept_keep {s0 s : State} (h : Keep s0 s) (f : RopeFrame) :
    Keep s0 (State.takeAccept s f) := by
  unfold State.takeAccept
  repeat' first
    | with_reducible assumption | with_reducible intro _ | (with_reducible apply Keep.ite)
    | (with_reducible apply State.log_keep) | (with_reducible apply State.sent_keep)
    | (with_reducible apply State.openSession_keep) | (with_reducible apply State.discard_keep)
    | (with_reducible apply State.take_keep) | (dsimp only) | split | (with_reducible apply Keep.kept)
    | (with_reducible refine Keep.mk (Keep.kept ?_))

theorem State.openFrame_keep {s0 s : State} (h : Keep s0 s) (f : RopeFrame) :
    Keep s0 (State.openFrame s f).1 := by
  unfold State.openFrame
  repeat' first
    | with_reducible assumption | with_reducible intro _ | (with_reducible apply Keep.ite)
    | (with_reducible apply Keep.ite1) | (with_reducible apply State.count64_keep)
    | (with_reducible apply State.log_keep) | (with_reducible apply State.discard_keep)
    | (with_reducible apply State.take_keep) | (dsimp only) | split | (with_reducible apply Keep.kept)
    | (with_reducible refine Keep.mk (Keep.kept ?_))

theorem State.noteFrame_keep {s0 s : State} (h : Keep s0 s) (x w : Nat) (fresh : Bool) :
    Keep s0 (State.noteFrame s x w fresh) := by
  unfold State.noteFrame
  repeat' first
    | with_reducible assumption | with_reducible intro _ | (with_reducible apply Keep.ite)
    | (with_reducible apply State.on_keep) | (with_reducible apply State.setSess_keep)
    | (with_reducible apply State.queueSack_keep) | (dsimp only) | split | (with_reducible apply Keep.kept)
    | (with_reducible refine Keep.mk (Keep.kept ?_))

theorem State.receiveFrame_keep {s0 s : State} (h : Keep s0 s) (f : RopeFrame) (kind : Nat) (effect : State → Nat →
      List Byte → Option State) (heffect : ∀ u x1 x2, Keep s0 u → KeepsOpt s0 (effect u x1 x2)) :
    Keep s0 (State.receiveFrame s f kind effect) := by
  unfold State.receiveFrame
  repeat' first
    | with_reducible assumption | with_reducible intro _ | (with_reducible apply Keep.ite)
    | (with_reducible apply heffect) | (with_reducible apply State.log_keep)
    | (with_reducible apply State.setRope_keep) | (with_reducible apply State.discard_keep)
    | (with_reducible apply State.openFrame_keep) | (with_reducible apply State.noteFrame_keep)
    | (with_reducible refine Keep.fst ?_ (by assumption)) | (with_reducible refine KeepsOpt.get ?_ (by assumption))
    | (with_reducible apply KeepsOpt.getD) | (dsimp only) | split | (with_reducible apply Keep.kept)
    | (with_reducible refine Keep.mk (Keep.kept ?_))

theorem State.takeSack_keep {s0 s : State} (h : Keep s0 s) (x : Nat) (body : List Byte) :
    KeepsOpt s0 (State.takeSack s x body) := by
  unfold State.takeSack
  repeat' first
    | with_reducible assumption | with_reducible intro _ | (with_reducible apply KeepsOpt.none)
    | (with_reducible apply KeepsOpt.some) | (with_reducible apply KeepsOpt.ite) | (with_reducible apply Keep.ite)
    | (with_reducible apply State.setSess_keep) | (dsimp only) | split | (with_reducible apply Keep.kept)
    | (with_reducible refine Keep.mk (Keep.kept ?_))

theorem State.startRekey_keep {s0 s : State} (h : Keep s0 s) (site : Nat) :
    Keep s0 (State.startRekey s site) := by
  unfold State.startRekey
  repeat' first
    | with_reducible assumption | with_reducible intro _ | (with_reducible apply Keep.ite)
    | (with_reducible apply State.draw_keep) | (with_reducible apply State.setPeer_keep)
    | (with_reducible apply State.queueTo_keep) | (with_reducible refine Keep.snd ?_ (by assumption))
    | (dsimp only) | split | (with_reducible apply Keep.kept) | (with_reducible refine Keep.mk (Keep.kept ?_))

theorem State.agreeEpoch_keep {s0 s : State} (h : Keep s0 s) (site : Nat) (ss th : List Byte) (own peer : List Nat) :
    Keep s0 (State.agreeEpoch s site ss th own peer) := by
  unfold State.agreeEpoch
  repeat' first
    | with_reducible assumption | with_reducible intro _ | (with_reducible apply State.each_keep)
    | (with_reducible apply State.setPeer_keep) | (with_reducible apply State.mapSess_keep) | (dsimp only) | split
    | (with_reducible apply Keep.kept) | (with_reducible refine Keep.mk (Keep.kept ?_))

theorem State.takeRekey_keep {s0 s : State} (h : Keep s0 s) (w x : Nat) (b : List Byte) :
    KeepsOpt s0 (State.takeRekey s w x b) := by
  unfold State.takeRekey
  repeat' first
    | with_reducible assumption | with_reducible intro _ | (with_reducible apply KeepsOpt.none)
    | (with_reducible apply KeepsOpt.some) | (with_reducible apply KeepsOpt.ite) | (with_reducible apply Keep.ite)
    | (with_reducible apply State.draw_keep) | (with_reducible apply State.on_keep)
    | (with_reducible apply State.log_keep) | (with_reducible apply State.each_keep)
    | (with_reducible apply State.mapSess_keep) | (with_reducible apply State.queueTo_keep)
    | (with_reducible apply State.agreeEpoch_keep) | (with_reducible apply State.take_keep)
    | (with_reducible refine Keep.snd ?_ (by assumption)) | (dsimp only) | split | (with_reducible apply Keep.kept)
    | (with_reducible refine Keep.mk (Keep.kept ?_))

theorem State.takeRekeyAck_keep {s0 s : State} (h : Keep s0 s) (w x : Nat) (b : List Byte) :
    KeepsOpt s0 (State.takeRekeyAck s w x b) := by
  unfold State.takeRekeyAck
  repeat' first
    | with_reducible assumption | with_reducible intro _ | (with_reducible apply KeepsOpt.none)
    | (with_reducible apply KeepsOpt.some) | (with_reducible apply KeepsOpt.ite) | (with_reducible apply Keep.ite)
    | (with_reducible apply State.log_keep) | (with_reducible apply State.sent_keep)
    | (with_reducible apply State.agreeEpoch_keep) | (with_reducible apply State.take_keep) | (dsimp only) | split
    | (with_reducible apply Keep.kept) | (with_reducible refine Keep.mk (Keep.kept ?_))

theorem State.receiveRekey_keep {s0 s : State} (h : Keep s0 s) (f : RopeFrame) :
    Keep s0 (State.receiveRekey s f) := by
  unfold State.receiveRekey
  repeat' first
    | with_reducible assumption | with_reducible intro _ | (with_reducible apply KeepsOpt.none)
    | (with_reducible apply KeepsOpt.some) | (with_reducible apply KeepsOpt.ite)
    | (with_reducible apply State.receiveFrame_keep) | (with_reducible apply State.takeRekey_keep)
    | (with_reducible refine KeepsOpt.get ?_ (by assumption)) | (with_reducible apply KeepsOpt.getD) | (dsimp only)
    | split | (with_reducible apply Keep.kept) | (with_reducible refine Keep.mk (Keep.kept ?_))

theorem State.receiveRekeyAck_keep {s0 s : State} (h : Keep s0 s) (f : RopeFrame) :
    Keep s0 (State.receiveRekeyAck s f) := by
  unfold State.receiveRekeyAck
  repeat' first
    | with_reducible assumption | with_reducible intro _ | (with_reducible apply KeepsOpt.none)
    | (with_reducible apply KeepsOpt.some) | (with_reducible apply KeepsOpt.ite)
    | (with_reducible apply State.receiveFrame_keep) | (with_reducible apply State.takeRekeyAck_keep)
    | (with_reducible refine KeepsOpt.get ?_ (by assumption)) | (with_reducible apply KeepsOpt.getD) | (dsimp only)
    | split | (with_reducible apply Keep.kept) | (with_reducible refine Keep.mk (Keep.kept ?_))

theorem execRekeyIntervalExpire_keep {s0 s : State} (h : Keep s0 s) (site : Site) :
    Keeps s0 (execRekeyIntervalExpire site s) := by
  unfold execRekeyIntervalExpire
  repeat' first
    | with_reducible assumption | (with_reducible apply act_keep) | with_reducible intro _
    | (with_reducible apply Keep.ite) | (with_reducible apply State.reach_keep)
    | (with_reducible apply State.startRekey_keep) | (dsimp only) | split | (with_reducible apply Keep.kept)
    | (with_reducible refine Keep.mk (Keep.kept ?_))

theorem execNonceLimit_keep {s0 s : State} (h : Keep s0 s) (sess : Sess) :
    Keeps s0 (execNonceLimit sess s) := by
  unfold execNonceLimit
  repeat' first
    | with_reducible assumption | (with_reducible apply act_keep) | with_reducible intro _
    | (with_reducible apply Keep.ite) | (with_reducible apply State.startRekey_keep) | (dsimp only) | split
    | (with_reducible apply Keep.kept) | (with_reducible refine Keep.mk (Keep.kept ?_))

theorem State.leaveSlack_keep {s0 s : State} (h : Keep s0 s) (site : Nat) :
    Keep s0 (State.leaveSlack s site) := by
  unfold State.leaveSlack
  repeat' first
    | with_reducible assumption | with_reducible intro _ | (with_reducible apply State.setPeer_keep) | (dsimp only)
    | split | (with_reducible apply Keep.kept) | (with_reducible refine Keep.mk (Keep.kept ?_))

theorem execProbeIntervalExpire_keep {s0 s : State} (h : Keep s0 s) (sess : Sess) :
    Keeps s0 (execProbeIntervalExpire sess s) := by
  unfold execProbeIntervalExpire
  repeat' first
    | with_reducible assumption | (with_reducible apply act_keep) | with_reducible intro _
    | (with_reducible apply Keep.ite) | (with_reducible apply State.reach_keep)
    | (with_reducible apply State.mapSess_keep) | (with_reducible apply State.transmit_keep)
    | (with_reducible refine KeepsOpt.get ?_ (by assumption)) | (with_reducible apply KeepsOpt.getD) | (dsimp only)
    | split | (with_reducible apply Keep.kept) | (with_reducible refine Keep.mk (Keep.kept ?_))

theorem State.receiveProbe_keep {s0 s : State} (h : Keep s0 s) (f : RopeFrame) :
    Keep s0 (State.receiveProbe s f) := by
  unfold State.receiveProbe
  repeat' first
    | with_reducible assumption | with_reducible intro _ | (with_reducible apply Keep.ite)
    | (with_reducible apply State.each_keep) | (with_reducible apply State.mapSess_keep)
    | (with_reducible apply State.transmit_keep) | (with_reducible apply State.openFrame_keep)
    | (with_reducible apply State.noteFrame_keep) | (with_reducible apply State.leaveSlack_keep)
    | (with_reducible refine Keep.fst ?_ (by assumption)) | (with_reducible refine KeepsOpt.get ?_ (by assumption))
    | (with_reducible apply KeepsOpt.getD) | (dsimp only) | split | (with_reducible apply Keep.kept)
    | (with_reducible refine Keep.mk (Keep.kept ?_))

theorem State.receiveSack_keep {s0 s : State} (h : Keep s0 s) (f : RopeFrame) :
    Keep s0 (State.receiveSack s f) := by
  unfold State.receiveSack
  repeat' first
    | with_reducible assumption | with_reducible intro _ | (with_reducible apply Keep.ite)
    | (with_reducible apply KeepsOpt.none) | (with_reducible apply KeepsOpt.some)
    | (with_reducible apply KeepsOpt.ite) | (with_reducible apply State.openFrame_keep)
    | (with_reducible apply State.receiveFrame_keep) | (with_reducible apply State.takeSack_keep)
    | (with_reducible apply State.leaveSlack_keep) | (with_reducible refine Keep.fst ?_ (by assumption))
    | (with_reducible refine KeepsOpt.get ?_ (by assumption)) | (with_reducible apply KeepsOpt.getD) | (dsimp only)
    | split | (with_reducible apply Keep.kept) | (with_reducible refine Keep.mk (Keep.kept ?_))

theorem State.resetStripe_keep {s0 s : State} (h : Keep s0 s) (x : Nat) :
    Keep s0 (State.resetStripe s x) := by
  unfold State.resetStripe
  repeat' first
    | with_reducible assumption | with_reducible intro _ | (with_reducible apply State.log_keep)
    | (with_reducible apply State.releaseHolds_keep) | (with_reducible apply State.setPeer_keep)
    | (with_reducible apply State.setSess_keep) | (dsimp only) | split | (with_reducible apply Keep.kept)
    | (with_reducible refine Keep.mk (Keep.kept ?_))

theorem State.retireStripe_keep {s0 s : State} (h : Keep s0 s) (x : Nat) :
    Keep s0 (State.retireStripe s x) := by
  unfold State.retireStripe
  repeat' first
    | with_reducible assumption | with_reducible intro _ | (with_reducible apply Keep.ite)
    | (with_reducible apply State.log_keep) | (with_reducible apply State.each_keep)
    | (with_reducible apply State.setSess_keep) | (with_reducible apply State.dealTo_keep) | (dsimp only) | split
    | (with_reducible apply Keep.kept) | (with_reducible refine Keep.mkF (Keep.kept ?_))

theorem State.countSessReset_keep {s0 s : State} (h : Keep s0 s) (x : Nat) :
    Keep s0 (State.countSessReset s x) := by
  unfold State.countSessReset
  repeat' first
    | with_reducible assumption | with_reducible intro _ | (with_reducible apply State.setFaults_keep)
    | with_reducible rfl | (dsimp only) | split | (with_reducible apply Keep.kept)
    | (with_reducible refine Keep.mk (Keep.kept ?_))

theorem State.resetSession_keep {s0 s : State} (h : Keep s0 s) (x : Nat) :
    Keep s0 (State.resetSession s x) := by
  unfold State.resetSession
  repeat' first
    | with_reducible assumption | with_reducible intro _ | (with_reducible apply Keep.ite)
    | (with_reducible apply State.resetStripe_keep) | (with_reducible apply State.retireStripe_keep)
    | (with_reducible apply State.countSessReset_keep) | (dsimp only) | split | (with_reducible apply Keep.kept)
    | (with_reducible refine Keep.mk (Keep.kept ?_))

theorem execSessionPaceExpire_keep {s0 s : State} (h : Keep s0 s) (sess : Sess) :
    Keeps s0 (execSessionPaceExpire sess s) := by
  unfold execSessionPaceExpire
  repeat' first
    | with_reducible assumption | (with_reducible apply act_keep) | with_reducible intro _
    | (with_reducible apply Keep.ite) | (with_reducible apply State.reach_keep)
    | (with_reducible apply State.log_keep) | (with_reducible apply State.faultCount_keep)
    | (with_reducible apply State.resetSession_keep) | (dsimp only) | split | (with_reducible apply Keep.kept)
    | (with_reducible refine Keep.mk (Keep.kept ?_))

end Sys2Proof.Machine
end

