-- ==== Sys2Proof/Laws/KeepRopeRounds.lean ====
section
/-!
SUPPORT. What the operations of Machine/RopeRounds.lean keep (Laws/Keep.lean).
-/

namespace Sys2Proof.Machine

theorem State.repairRequest_keep {s0 s : State} (h : Keep s0 s) (r op addr : Nat) (data : List Byte) :
    Keep s0 (State.repairRequest s r op addr data) := by
  unfold State.repairRequest
  repeat' first
    | with_reducible assumption | with_reducible intro _ | (with_reducible apply Keep.ite)
    | (with_reducible apply State.queueRequests_keep) | (dsimp only) | split | (with_reducible apply Keep.kept)
    | (with_reducible refine Keep.mk (Keep.kept ?_))

theorem State.writeAll_keep {s0 s : State} (h : Keep s0 s) (va : Nat) (bs : List Byte) :
    Keep s0 (State.writeAll s va bs) := by
  unfold State.writeAll
  repeat' first
    | with_reducible assumption | with_reducible intro _ | (with_reducible apply State.each_keep)
    | (with_reducible apply State.mpWrite_keep) | (with_reducible apply State.ok_keep)
    | (with_reducible apply State.repairRequest_keep) | (with_reducible apply State.take_keep)
    | (with_reducible apply Keep.foldl) | (with_reducible apply Keep.foldl1) | (with_reducible apply Keep.foldl2)
    | (with_reducible refine Keep.fst ?_ (by assumption)) | (dsimp only) | split | (with_reducible apply Keep.kept)
    | (with_reducible refine Keep.mk (Keep.kept ?_))

theorem State.setRopeState_keep {s0 s : State} (h : Keep s0 s) (st : Nat) :
    Keep s0 (State.setRopeState s st) := by
  unfold State.setRopeState
  repeat' first
    | with_reducible assumption | with_reducible intro _ | (with_reducible apply State.setRopeRec_keep)
    | (dsimp only) | split | (with_reducible apply Keep.kept) | (with_reducible refine Keep.mk (Keep.kept ?_))

theorem State.commitClose_keep {s0 s : State} (h : Keep s0 s)  :
    Keep s0 (State.commitClose s) := by
  unfold State.commitClose
  repeat' first
    | with_reducible assumption | with_reducible intro _ | (with_reducible apply State.each_keep)
    | (with_reducible apply State.setRope_keep) | (with_reducible apply State.setRopeRec_keep)
    | (with_reducible apply State.repairRequest_keep) | (dsimp only) | split | (with_reducible apply Keep.kept)
    | (with_reducible refine Keep.mk (Keep.kept ?_))

theorem State.deltaGone_keep {s0 s : State} (h : Keep s0 s) (site : Nat) :
    Keep s0 (State.deltaGone s site) := by
  unfold State.deltaGone
  repeat' first
    | with_reducible assumption | with_reducible intro _ | (with_reducible apply State.count_keep)
    | (with_reducible apply State.log_keep) | (dsimp only) | split | (with_reducible apply Keep.kept)
    | (with_reducible refine Keep.mk (Keep.kept ?_))

theorem State.dropHeld_keep {s0 s : State} (h : Keep s0 s)  :
    Keep s0 (State.dropHeld s) := by
  unfold State.dropHeld
  repeat' first
    | with_reducible assumption | with_reducible intro _ | (with_reducible apply State.each_keep)
    | (with_reducible apply State.setRope_keep) | (with_reducible apply State.deltaGone_keep) | (dsimp only)
    | split | (with_reducible apply Keep.kept) | (with_reducible refine Keep.mk (Keep.kept ?_))

theorem State.closeWith_keep {s0 s : State} (h : Keep s0 s) (members : List Nat) (regroup : Bool) (cause : Nat) :
    Keep s0 (State.closeWith s members regroup cause) := by
  unfold State.closeWith
  repeat' first
    | with_reducible assumption | with_reducible intro _ | (with_reducible apply Keep.ite)
    | (with_reducible apply State.on_keep) | (with_reducible apply State.log_keep)
    | (with_reducible apply State.each_keep) | (with_reducible apply State.setRope_keep)
    | (with_reducible apply State.setRopeRec_keep) | (with_reducible apply State.repairRequest_keep)
    | (with_reducible apply State.commitClose_keep) | (with_reducible apply State.dropHeld_keep) | (dsimp only)
    | split | (with_reducible apply Keep.kept) | (with_reducible refine Keep.mk (Keep.kept ?_))

theorem State.tryClose_keep {s0 s : State} (h : Keep s0 s)  :
    Keep s0 (State.tryClose s) := by
  unfold State.tryClose
  repeat' first
    | with_reducible assumption | with_reducible intro _ | (with_reducible apply Keep.ite)
    | (with_reducible apply State.closeWith_keep) | (dsimp only) | split | (with_reducible apply Keep.kept)
    | (with_reducible refine Keep.mk (Keep.kept ?_))

theorem execRoundDeadline_keep {s0 s : State} (h : Keep s0 s)  :
    Keeps s0 (execRoundDeadline s) := by
  unfold execRoundDeadline
  repeat' first
    | with_reducible assumption | (with_reducible apply act_keep) | with_reducible intro _
    | (with_reducible apply Keep.ite) | (with_reducible apply State.reach_keep)
    | (with_reducible apply State.closeWith_keep) | (dsimp only) | split | (with_reducible apply Keep.kept)
    | (with_reducible refine Keep.mk (Keep.kept ?_))

theorem State.holdDelta_keep {s0 s : State} (h : Keep s0 s) (site round : Nat) (vals : Tbl Nat) :
    Keep s0 (State.holdDelta s site round vals) := by
  unfold State.holdDelta
  repeat' first
    | with_reducible assumption | with_reducible intro _ | (with_reducible apply Keep.ite)
    | (with_reducible apply State.on_keep) | (with_reducible apply State.setRope_keep)
    | (with_reducible apply State.deltaGone_keep) | (with_reducible apply Keep.foldl)
    | (with_reducible apply Keep.foldl1) | (with_reducible apply Keep.foldl2) | (dsimp only) | split
    | (with_reducible apply Keep.kept) | (with_reducible refine Keep.mk (Keep.kept ?_))

theorem State.replicaHold_keep {s0 s : State} (h : Keep s0 s) (prev : Nat) (prevMembers now carry : List Nat) :
    Keep s0 (State.replicaHold s prev prevMembers now carry) := by
  unfold State.replicaHold
  repeat' first
    | with_reducible assumption | with_reducible intro _ | (with_reducible apply Keep.ite)
    | (with_reducible apply State.each_keep) | (with_reducible apply State.holdDelta_keep) | (dsimp only) | split
    | (with_reducible apply Keep.kept) | (with_reducible refine Keep.mk (Keep.kept ?_))

theorem State.answerPrepare_keep {s0 s : State} (h : Keep s0 s)  :
    Keep s0 (State.answerPrepare s) := by
  unfold State.answerPrepare
  repeat' first
    | with_reducible assumption | with_reducible intro _ | (with_reducible apply Keep.ite)
    | (with_reducible apply State.setRope_keep) | (with_reducible apply State.repairRequest_keep) | (dsimp only)
    | split | (with_reducible apply Keep.kept) | (with_reducible refine Keep.mk (Keep.kept ?_))

theorem execClosePrepare_keep {s0 s : State} (h : Keep s0 s) (entry : List Byte) :
    Keeps s0 (execClosePrepare entry s) := by
  unfold execClosePrepare
  repeat' first
    | with_reducible assumption | (with_reducible apply act_keep) | with_reducible intro _
    | (with_reducible apply Keep.ite) | (with_reducible apply State.setRope_keep)
    | (with_reducible apply State.setRopeRec_keep) | (with_reducible apply State.dropHeld_keep)
    | (with_reducible apply State.replicaHold_keep) | (with_reducible apply State.answerPrepare_keep)
    | (with_reducible apply Keep.foldl) | (with_reducible apply Keep.foldl1) | (with_reducible apply Keep.foldl2)
    | (dsimp only) | split | (with_reducible apply Keep.kept) | (with_reducible refine Keep.mk (Keep.kept ?_))

theorem execCloseAck_keep {s0 s : State} (h : Keep s0 s) (replica : Fin 64) (entry : List Byte) :
    Keeps s0 (execCloseAck replica entry s) := by
  unfold execCloseAck
  repeat' first
    | with_reducible assumption | (with_reducible apply act_keep) | with_reducible intro _
    | (with_reducible apply Keep.ite) | (with_reducible apply State.setRope_keep)
    | (with_reducible apply State.commitClose_keep) | (dsimp only) | split | (with_reducible apply Keep.kept)
    | (with_reducible refine Keep.mk (Keep.kept ?_))

theorem execCloseCommit_keep {s0 s : State} (h : Keep s0 s) (entry : List Byte) :
    Keeps s0 (execCloseCommit entry s) := by
  unfold execCloseCommit
  repeat' first
    | with_reducible assumption | (with_reducible apply act_keep) | with_reducible intro _
    | (with_reducible apply Keep.ite) | (with_reducible apply State.setRopeRec_keep) | (dsimp only) | split
    | (with_reducible apply Keep.kept) | (with_reducible refine Keep.mk (Keep.kept ?_))

theorem execCloseAckLimitExpire_keep {s0 s : State} (h : Keep s0 s)  :
    Keeps s0 (execCloseAckLimitExpire s) := by
  unfold execCloseAckLimitExpire
  repeat' first
    | with_reducible assumption | (with_reducible apply act_keep) | with_reducible intro _
    | (with_reducible apply Keep.ite) | (with_reducible apply State.reach_keep)
    | (with_reducible apply State.log_keep) | (with_reducible apply State.faultCount_keep)
    | (with_reducible apply State.jobFail_keep) | (with_reducible apply State.setRope_keep) | (dsimp only) | split
    | (with_reducible apply Keep.kept) | (with_reducible refine Keep.mk (Keep.kept ?_))

theorem execMemWrite_keep {s0 s : State} (h : Keep s0 s) (p : Packet) :
    Keeps s0 (execMemWrite p s) := by
  unfold execMemWrite
  repeat' first
    | with_reducible assumption | (with_reducible apply act_keep) | with_reducible intro _
    | (with_reducible apply Keep.ite) | (with_reducible apply State.serveWrite_keep)
    | (with_reducible apply State.answerPrepare_keep) | (dsimp only) | split | (with_reducible apply Keep.kept)
    | (with_reducible refine Keep.mk (Keep.kept ?_))

theorem State.deltaArrived_keep {s0 s : State} (h : Keep s0 s) (site round : Nat) (was : Bool) :
    Keep s0 (State.deltaArrived s site round was) := by
  unfold State.deltaArrived
  repeat' first
    | with_reducible assumption | with_reducible intro _ | (with_reducible apply Keep.ite)
    | (with_reducible apply State.count_keep) | (with_reducible apply State.log_keep)
    | (with_reducible apply State.deltaGone_keep) | (with_reducible apply State.tryClose_keep)
    | (with_reducible apply State.holdDelta_keep) | (dsimp only) | split | (with_reducible apply Keep.kept)
    | (with_reducible refine Keep.mk (Keep.kept ?_))

theorem State.takeDelta_keep {s0 s : State} (h : Keep s0 s) (w x : Nat) (body : List Byte) :
    KeepsOpt s0 (State.takeDelta s w x body) := by
  unfold State.takeDelta
  repeat' first
    | with_reducible assumption | with_reducible intro _ | (with_reducible apply KeepsOpt.none)
    | (with_reducible apply KeepsOpt.some) | (with_reducible apply KeepsOpt.ite) | (with_reducible apply Keep.ite)
    | (with_reducible apply State.on_keep) | (with_reducible apply State.setRope_keep)
    | (with_reducible apply State.writeAll_keep) | (with_reducible apply State.deltaArrived_keep) | (dsimp only)
    | split | (with_reducible apply Keep.kept) | (with_reducible refine Keep.mk (Keep.kept ?_))

theorem State.receiveDelta_keep {s0 s : State} (h : Keep s0 s) (f : RopeFrame) :
    Keep s0 (State.receiveDelta s f) := by
  unfold State.receiveDelta
  repeat' first
    | with_reducible assumption | with_reducible intro _ | (with_reducible apply KeepsOpt.none)
    | (with_reducible apply KeepsOpt.some) | (with_reducible apply KeepsOpt.ite)
    | (with_reducible apply State.receiveFrame_keep) | (with_reducible apply State.takeDelta_keep)
    | (with_reducible refine KeepsOpt.get ?_ (by assumption)) | (with_reducible apply KeepsOpt.getD) | (dsimp only)
    | split | (with_reducible apply Keep.kept) | (with_reducible refine Keep.mk (Keep.kept ?_))

theorem State.compareRefs_keep {s0 s : State} (h : Keep s0 s) (site round : Nat) :
    Keep s0 (State.compareRefs s site round) := by
  unfold State.compareRefs
  repeat' first
    | with_reducible assumption | with_reducible intro _ | (with_reducible apply Keep.ite)
    | (with_reducible apply State.log_keep) | (with_reducible apply State.setRope_keep)
    | (with_reducible apply State.trigger_keep) | (with_reducible refine KeepsOpt2.get' ?_ (by assumption))
    | (with_reducible refine KeepsOpt2.get ?_ (by assumption)) | (dsimp only) | split
    | (with_reducible apply Keep.kept) | (with_reducible refine Keep.mk (Keep.kept ?_))

theorem State.sendDifference_keep {s0 s : State} (h : Keep s0 s) (b : Bid) :
    Keep s0 (State.sendDifference s b) := by
  unfold State.sendDifference
  repeat' first
    | with_reducible assumption | with_reducible intro _ | (with_reducible apply State.each_keep)
    | (with_reducible apply State.queueTo_keep) | (dsimp only) | split | (with_reducible apply Keep.kept)
    | (with_reducible refine Keep.mk (Keep.kept ?_))

theorem State.adoptBid_keep {s0 s : State} (h : Keep s0 s) (b : Bid) :
    Keep s0 (State.adoptBid s b) := by
  unfold State.adoptBid
  repeat' first
    | with_reducible assumption | with_reducible intro _ | (with_reducible apply Keep.ite)
    | (with_reducible apply State.setRope_keep) | (with_reducible apply State.sendDifference_keep) | (dsimp only)
    | split | (with_reducible apply Keep.kept) | (with_reducible refine Keep.mk (Keep.kept ?_))

theorem State.takeInfo_keep {s0 s : State} (h : Keep s0 s) (x : Nat) (body : List Byte) :
    KeepsOpt s0 (State.takeInfo s x body) := by
  unfold State.takeInfo
  repeat' first
    | with_reducible assumption | with_reducible intro _ | (with_reducible apply KeepsOpt.none)
    | (with_reducible apply KeepsOpt.some) | (with_reducible apply KeepsOpt.ite) | (with_reducible apply Keep.ite)
    | (with_reducible apply State.setRope_keep) | (with_reducible apply State.setPeer_keep)
    | (with_reducible apply State.writeAll_keep) | (with_reducible apply State.tryClose_keep)
    | (with_reducible apply State.deltaArrived_keep) | (with_reducible apply State.compareRefs_keep)
    | (with_reducible apply State.adoptBid_keep) | (dsimp only) | split | (with_reducible apply Keep.kept)
    | (with_reducible refine Keep.mk (Keep.kept ?_))

theorem State.receiveInfo_keep {s0 s : State} (h : Keep s0 s) (f : RopeFrame) :
    Keep s0 (State.receiveInfo s f) := by
  unfold State.receiveInfo
  repeat' first
    | with_reducible assumption | with_reducible intro _ | (with_reducible apply KeepsOpt.none)
    | (with_reducible apply KeepsOpt.some) | (with_reducible apply KeepsOpt.ite)
    | (with_reducible apply State.receiveFrame_keep) | (with_reducible apply State.takeInfo_keep)
    | (with_reducible refine KeepsOpt.get ?_ (by assumption)) | (with_reducible apply KeepsOpt.getD) | (dsimp only)
    | split | (with_reducible apply Keep.kept) | (with_reducible refine Keep.mk (Keep.kept ?_))

theorem State.takeRegroup_keep {s0 s : State} (h : Keep s0 s) (w x : Nat) (body : List Byte) :
    KeepsOpt s0 (State.takeRegroup s w x body) := by
  unfold State.takeRegroup
  repeat' first
    | with_reducible assumption | with_reducible intro _ | (with_reducible apply KeepsOpt.none)
    | (with_reducible apply KeepsOpt.some) | (with_reducible apply KeepsOpt.ite) | (with_reducible apply Keep.ite)
    | (with_reducible apply State.setRope_keep) | (with_reducible apply State.writeAll_keep)
    | (with_reducible apply State.tryClose_keep) | (dsimp only) | split | (with_reducible apply Keep.kept)
    | (with_reducible refine Keep.mk (Keep.kept ?_))

theorem State.receiveRegroup_keep {s0 s : State} (h : Keep s0 s) (f : RopeFrame) :
    Keep s0 (State.receiveRegroup s f) := by
  unfold State.receiveRegroup
  repeat' first
    | with_reducible assumption | with_reducible intro _ | (with_reducible apply KeepsOpt.none)
    | (with_reducible apply KeepsOpt.some) | (with_reducible apply KeepsOpt.ite)
    | (with_reducible apply State.receiveFrame_keep) | (with_reducible apply State.takeRegroup_keep)
    | (with_reducible refine KeepsOpt.get ?_ (by assumption)) | (with_reducible apply KeepsOpt.getD) | (dsimp only)
    | split | (with_reducible apply Keep.kept) | (with_reducible refine Keep.mk (Keep.kept ?_))

theorem State.sendBelay_keep {s0 s : State} (h : Keep s0 s) (site : Nat) :
    Keep s0 (State.sendBelay s site) := by
  unfold State.sendBelay
  repeat' first
    | with_reducible assumption | with_reducible intro _ | (with_reducible apply State.each_keep)
    | (with_reducible apply State.queueTo_keep) | (dsimp only) | split | (with_reducible apply Keep.kept)
    | (with_reducible refine Keep.mk (Keep.kept ?_))

theorem State.receiveOpen_keep {s0 s : State} (h : Keep s0 s) (f : RopeFrame) :
    Keep s0 (State.receiveOpen s f) := by
  unfold State.receiveOpen
  repeat' first
    | with_reducible assumption | with_reducible intro _ | (with_reducible apply Keep.ite)
    | (with_reducible apply State.setPeer_keep) | (with_reducible apply State.takeOpen_keep)
    | (with_reducible apply State.sendBelay_keep) | (dsimp only) | split | (with_reducible apply Keep.kept)
    | (with_reducible refine Keep.mk (Keep.kept ?_))

theorem State.repeatBelays_keep {s0 s : State} (h : Keep s0 s)  :
    Keep s0 (State.repeatBelays s) := by
  unfold State.repeatBelays
  repeat' first
    | with_reducible assumption | with_reducible intro _ | (with_reducible apply Keep.ite)
    | (with_reducible apply State.each_keep) | (with_reducible apply State.mapSess_keep)
    | (with_reducible apply State.sendBelay_keep) | (dsimp only) | split | (with_reducible apply Keep.kept)
    | (with_reducible refine Keep.mk (Keep.kept ?_))

theorem State.joinBlk_keep {s0 s : State} (h : Keep s0 s) (t : Tbl (List Byte)) (i : Nat) (k : Blk) :
    Keep s0 (State.joinBlk s t i k) := by
  unfold State.joinBlk
  repeat' first
    | with_reducible assumption | with_reducible intro _ | (with_reducible apply Keep.ite)
    | (with_reducible apply State.each_keep) | (with_reducible apply State.countSlots_keep)
    | (with_reducible apply State.writeAll_keep) | (dsimp only) | split | (with_reducible apply Keep.kept)
    | (with_reducible refine Keep.mk (Keep.kept ?_))

theorem State.finishJoin_keep {s0 s : State} (h : Keep s0 s) (site : Nat) :
    Keep s0 (State.finishJoin s site) := by
  unfold State.finishJoin
  repeat' first
    | with_reducible assumption | with_reducible intro _ | (with_reducible apply Keep.ite)
    | (with_reducible apply State.log_keep) | (with_reducible apply State.each_keep)
    | (with_reducible apply State.setRope_keep) | (with_reducible apply State.setRopeRec_keep)
    | (with_reducible apply State.setPeer_keep) | (with_reducible apply State.setSess_keep)
    | (with_reducible apply State.writeAll_keep) | (with_reducible apply State.joinBlk_keep)
    | (with_reducible apply Keep.foldl) | (with_reducible apply Keep.foldl1) | (with_reducible apply Keep.foldl2)
    | (dsimp only) | split | (with_reducible apply Keep.kept) | (with_reducible refine Keep.mk (Keep.kept ?_))

theorem State.takeBelay_keep {s0 s : State} (h : Keep s0 s) (w x : Nat) (body : List Byte) :
    KeepsOpt s0 (State.takeBelay s w x body) := by
  unfold State.takeBelay
  repeat' first
    | with_reducible assumption | with_reducible intro _ | (with_reducible apply KeepsOpt.none)
    | (with_reducible apply KeepsOpt.some) | (with_reducible apply KeepsOpt.ite) | (with_reducible apply Keep.ite)
    | (with_reducible apply State.setRope_keep) | (with_reducible apply State.finishJoin_keep) | (dsimp only)
    | split | (with_reducible apply Keep.kept) | (with_reducible refine Keep.mk (Keep.kept ?_))

theorem State.receiveBelay_keep {s0 s : State} (h : Keep s0 s) (f : RopeFrame) :
    Keep s0 (State.receiveBelay s f) := by
  unfold State.receiveBelay
  repeat' first
    | with_reducible assumption | with_reducible intro _ | (with_reducible apply KeepsOpt.none)
    | (with_reducible apply KeepsOpt.some) | (with_reducible apply KeepsOpt.ite)
    | (with_reducible apply State.receiveFrame_keep) | (with_reducible apply State.takeBelay_keep)
    | (with_reducible refine KeepsOpt.get ?_ (by assumption)) | (with_reducible apply KeepsOpt.getD) | (dsimp only)
    | split | (with_reducible apply Keep.kept) | (with_reducible refine Keep.mk (Keep.kept ?_))

theorem State.checkSlack_keep {s0 s : State} (h : Keep s0 s)  :
    Keep s0 (State.checkSlack s) := by
  unfold State.checkSlack
  repeat' first
    | with_reducible assumption | with_reducible intro _ | (with_reducible apply State.each_keep)
    | (with_reducible apply State.goSlack_keep) | (dsimp only) | split | (with_reducible apply Keep.kept)
    | (with_reducible refine Keep.mk (Keep.kept ?_))

theorem State.sendRound_keep {s0 s : State} (h : Keep s0 s) (round : Nat) (info : List Byte) :
    Keep s0 (State.sendRound s round info) := by
  unfold State.sendRound
  repeat' first
    | with_reducible assumption | with_reducible intro _ | (with_reducible apply State.each_keep)
    | (with_reducible apply State.queueTo_keep) | (with_reducible apply State.dealTo_keep) | (dsimp only) | split
    | (with_reducible apply Keep.kept) | (with_reducible refine Keep.mk (Keep.kept ?_))

theorem State.abandonRegroup_keep {s0 s : State} (h : Keep s0 s) (round : Nat) :
    Keep s0 (State.abandonRegroup s round) := by
  unfold State.abandonRegroup
  repeat' first
    | with_reducible assumption | with_reducible intro _ | (with_reducible apply Keep.ite)
    | (with_reducible apply State.log_keep) | (with_reducible apply State.setRope_keep) | (dsimp only) | split
    | (with_reducible apply Keep.kept) | (with_reducible refine Keep.mk (Keep.kept ?_))

theorem State.forceClose_keep {s0 s : State} (h : Keep s0 s) (round : Nat) :
    Keep s0 (State.forceClose s round) := by
  unfold State.forceClose
  repeat' first
    | with_reducible assumption | with_reducible intro _ | (with_reducible apply Keep.ite)
    | (with_reducible apply State.closeWith_keep) | (dsimp only) | split | (with_reducible apply Keep.kept)
    | (with_reducible refine Keep.mk (Keep.kept ?_))

theorem State.makeBid_keep {s0 s : State} (h : Keep s0 s) (round : Nat) :
    Keep s0 (State.makeBid s round).1 := by
  unfold State.makeBid
  repeat' first
    | with_reducible assumption | with_reducible intro _ | (with_reducible apply Keep.ite)
    | (with_reducible apply Keep.ite1) | (with_reducible apply State.setRope_keep)
    | (with_reducible apply State.trigger_keep) | (with_reducible refine KeepsOpt2.get' ?_ (by assumption))
    | (with_reducible refine KeepsOpt2.get ?_ (by assumption)) | (dsimp only) | split
    | (with_reducible apply Keep.kept) | (with_reducible refine Keep.mk (Keep.kept ?_))

theorem State.afterRound_keep {s0 s : State} (h : Keep s0 s) (round : Nat) :
    Keep s0 (State.afterRound s round) := by
  unfold State.afterRound
  repeat' first
    | with_reducible assumption | with_reducible intro _ | (with_reducible apply Keep.ite)
    | (with_reducible apply State.each_keep) | (with_reducible apply State.setRope_keep)
    | (with_reducible apply State.tryClose_keep) | (with_reducible apply State.compareRefs_keep)
    | (with_reducible apply State.sendDifference_keep) | (with_reducible apply State.adoptBid_keep)
    | (with_reducible apply State.checkSlack_keep) | (with_reducible apply State.sendRound_keep)
    | (with_reducible apply State.abandonRegroup_keep) | (with_reducible apply State.forceClose_keep)
    | (with_reducible apply State.makeBid_keep) | (with_reducible refine Keep.fst ?_ (by assumption))
    | (dsimp only) | split | (with_reducible apply Keep.kept) | (with_reducible refine Keep.mk (Keep.kept ?_))

theorem State.endShift_keep {s0 s : State} (h : Keep s0 s) (step : Nat) :
    Keep s0 (State.endShift s step) := by
  unfold State.endShift
  repeat' first
    | with_reducible assumption | (with_reducible apply step_keep) | with_reducible intro _
    | (with_reducible apply Keep.ite) | (with_reducible apply State.count_keep)
    | (with_reducible apply State.log_keep) | (with_reducible apply State.setRope_keep)
    | (with_reducible apply State.setRopeRec_keep) | (with_reducible apply State.repeatBelays_keep)
    | (with_reducible apply Keep.foldl) | (with_reducible apply Keep.foldl1) | (with_reducible apply Keep.foldl2)
    | (dsimp only) | split | (with_reducible apply Keep.kept) | (with_reducible refine Keep.mk (Keep.kept ?_))

theorem State.endRound_keep {s0 s : State} (h : Keep s0 s) (step : Nat) :
    Keep s0 (State.endRound s step) := by
  unfold State.endRound
  repeat' first
    | with_reducible assumption | (with_reducible apply step_keep) | with_reducible intro _
    | (with_reducible apply State.setObj_keep) | (with_reducible apply State.each_keep)
    | (with_reducible apply State.sent_keep) | (with_reducible apply State.mpWrite_keep)
    | (with_reducible apply State.setRopeRec_keep) | (with_reducible apply State.setStream_keep) | (dsimp only)
    | split | (with_reducible apply Keep.kept) | (with_reducible refine Keep.mk (Keep.kept ?_))

theorem State.endSweep_keep {s0 s : State} (h : Keep s0 s)  :
    Keep s0 (State.endSweep s) := by
  unfold State.endSweep
  repeat' first
    | with_reducible assumption | with_reducible intro _ | (with_reducible apply Keep.ite)
    | (with_reducible apply State.on_keep) | (with_reducible apply State.setStepRec_keep)
    | (with_reducible apply State.resumeSweeps_keep) | (with_reducible apply State.tryClose_keep)
    | (with_reducible apply State.afterRound_keep) | (with_reducible apply State.endShift_keep)
    | (with_reducible apply State.endRound_keep) | (dsimp only) | split | (with_reducible apply Keep.kept)
    | (with_reducible refine Keep.mk (Keep.kept ?_))

theorem execSweepEnd_keep {s0 s : State} (h : Keep s0 s)  :
    Keeps s0 (execSweepEnd s) := by
  unfold execSweepEnd
  repeat' first
    | with_reducible assumption | (with_reducible apply act_keep) | with_reducible intro _
    | (with_reducible apply State.endSweep_keep) | (dsimp only) | split | (with_reducible apply Keep.kept)
    | (with_reducible refine Keep.mk (Keep.kept ?_))

theorem State.ropeJob_keep {s0 s : State} (h : Keep s0 s)  :
    Keep s0 (State.ropeJob s) := by
  unfold State.ropeJob
  repeat' first
    | with_reducible assumption | with_reducible intro _ | (with_reducible apply Keep.ite)
    | (with_reducible apply State.each_keep) | (with_reducible apply State.setRope_keep)
    | (with_reducible apply State.sendRound_keep) | (dsimp only) | split | (with_reducible apply Keep.kept)
    | (with_reducible refine Keep.mk (Keep.kept ?_))

theorem State.atGateway_keep {s0 s : State} (h : Keep s0 s) (f : RopeFrame) (run : State → State) (hrun : ∀ u, Keep
      s0 u → Keep s0 (run u)) :
    Keep s0 (State.atGateway s f run) := by
  unfold State.atGateway
  repeat' first
    | with_reducible assumption | with_reducible intro _ | (with_reducible apply Keep.ite)
    | (with_reducible apply hrun) | (with_reducible apply State.packetSend_keep) | (dsimp only) | split
    | (with_reducible apply Keep.kept) | (with_reducible refine Keep.mk (Keep.kept ?_))

theorem execRopeOpen_keep {s0 s : State} (h : Keep s0 s) (f : RopeFrame) :
    Keeps s0 (execRopeOpen f s) := by
  unfold execRopeOpen
  repeat' first
    | with_reducible assumption | (with_reducible apply act_keep) | with_reducible intro _
    | (with_reducible apply State.receiveOpen_keep) | (with_reducible apply State.atGateway_keep) | (dsimp only)
    | split | (with_reducible apply Keep.kept) | (with_reducible refine Keep.mk (Keep.kept ?_))

theorem execRopeAccept_keep {s0 s : State} (h : Keep s0 s) (f : RopeFrame) :
    Keeps s0 (execRopeAccept f s) := by
  unfold execRopeAccept
  repeat' first
    | with_reducible assumption | (with_reducible apply act_keep) | with_reducible intro _
    | (with_reducible apply State.takeAccept_keep) | (with_reducible apply State.atGateway_keep) | (dsimp only)
    | split | (with_reducible apply Keep.kept) | (with_reducible refine Keep.mk (Keep.kept ?_))

theorem execRopeDelta_keep {s0 s : State} (h : Keep s0 s) (f : RopeFrame) :
    Keeps s0 (execRopeDelta f s) := by
  unfold execRopeDelta
  repeat' first
    | with_reducible assumption | (with_reducible apply act_keep) | with_reducible intro _
    | (with_reducible apply State.receiveDelta_keep) | (with_reducible apply State.atGateway_keep) | (dsimp only)
    | split | (with_reducible apply Keep.kept) | (with_reducible refine Keep.mk (Keep.kept ?_))

theorem execRopeSack_keep {s0 s : State} (h : Keep s0 s) (f : RopeFrame) :
    Keeps s0 (execRopeSack f s) := by
  unfold execRopeSack
  repeat' first
    | with_reducible assumption | (with_reducible apply act_keep) | with_reducible intro _
    | (with_reducible apply State.receiveSack_keep) | (with_reducible apply State.atGateway_keep) | (dsimp only)
    | split | (with_reducible apply Keep.kept) | (with_reducible refine Keep.mk (Keep.kept ?_))

theorem execRoundInfo_keep {s0 s : State} (h : Keep s0 s) (f : RopeFrame) :
    Keeps s0 (execRoundInfo f s) := by
  unfold execRoundInfo
  repeat' first
    | with_reducible assumption | (with_reducible apply act_keep) | with_reducible intro _
    | (with_reducible apply State.receiveInfo_keep) | (with_reducible apply State.atGateway_keep) | (dsimp only)
    | split | (with_reducible apply Keep.kept) | (with_reducible refine Keep.mk (Keep.kept ?_))

theorem execRekey_keep {s0 s : State} (h : Keep s0 s) (f : RopeFrame) :
    Keeps s0 (execRekey f s) := by
  unfold execRekey
  repeat' first
    | with_reducible assumption | (with_reducible apply act_keep) | with_reducible intro _
    | (with_reducible apply State.receiveRekey_keep) | (with_reducible apply State.atGateway_keep) | (dsimp only)
    | split | (with_reducible apply Keep.kept) | (with_reducible refine Keep.mk (Keep.kept ?_))

theorem execRekeyAck_keep {s0 s : State} (h : Keep s0 s) (f : RopeFrame) :
    Keeps s0 (execRekeyAck f s) := by
  unfold execRekeyAck
  repeat' first
    | with_reducible assumption | (with_reducible apply act_keep) | with_reducible intro _
    | (with_reducible apply State.receiveRekeyAck_keep) | (with_reducible apply State.atGateway_keep)
    | (dsimp only) | split | (with_reducible apply Keep.kept) | (with_reducible refine Keep.mk (Keep.kept ?_))

theorem execRegroup_keep {s0 s : State} (h : Keep s0 s) (f : RopeFrame) :
    Keeps s0 (execRegroup f s) := by
  unfold execRegroup
  repeat' first
    | with_reducible assumption | (with_reducible apply act_keep) | with_reducible intro _
    | (with_reducible apply State.receiveRegroup_keep) | (with_reducible apply State.atGateway_keep) | (dsimp only)
    | split | (with_reducible apply Keep.kept) | (with_reducible refine Keep.mk (Keep.kept ?_))

theorem execRopeBelay_keep {s0 s : State} (h : Keep s0 s) (f : RopeFrame) :
    Keeps s0 (execRopeBelay f s) := by
  unfold execRopeBelay
  repeat' first
    | with_reducible assumption | (with_reducible apply act_keep) | with_reducible intro _
    | (with_reducible apply State.receiveBelay_keep) | (with_reducible apply State.atGateway_keep) | (dsimp only)
    | split | (with_reducible apply Keep.kept) | (with_reducible refine Keep.mk (Keep.kept ?_))

theorem execProbe_keep {s0 s : State} (h : Keep s0 s) (f : RopeFrame) :
    Keeps s0 (execProbe f s) := by
  unfold execProbe
  repeat' first
    | with_reducible assumption | (with_reducible apply act_keep) | with_reducible intro _
    | (with_reducible apply State.receiveProbe_keep) | (with_reducible apply State.atGateway_keep) | (dsimp only)
    | split | (with_reducible apply Keep.kept) | (with_reducible refine Keep.mk (Keep.kept ?_))

end Sys2Proof.Machine
end

