-- ==== Sys2Proof/Laws/KeepSequencer.lean ====
section
/-!
SUPPORT. What the operations of Machine/Sequencer.lean keep (Laws/Keep.lean).
-/

namespace Sys2Proof.Machine

theorem State.retireS_keep {s0 s : State} (h : Keep s0 s) (c x dst : Nat) (v : BitVec 64) :
    Keep s0 (State.retireS s c x dst v) := by
  unfold State.retireS
  repeat' first
    | with_reducible assumption | with_reducible intro _ | (with_reducible apply State.mapCtx_keep)
    | (with_reducible apply State.retire_keep) | (dsimp only) | split | (with_reducible apply Keep.kept)
    | (with_reducible refine Keep.mk (Keep.kept ?_))

theorem State.retireP_keep {s0 s : State} (h : Keep s0 s) (c x pd : Nat) (v : Bool) :
    Keep s0 (State.retireP s c x pd v) := by
  unfold State.retireP
  repeat' first
    | with_reducible assumption | with_reducible intro _ | (with_reducible apply State.mapCtx_keep)
    | (with_reducible apply State.retire_keep) | (dsimp only) | split | (with_reducible apply Keep.kept)
    | (with_reducible refine Keep.mk (Keep.kept ?_))

theorem State.retireTo_keep {s0 s : State} (h : Keep s0 s) (c x : Nat) (f : CtxSt → CtxSt) :
    Keep s0 (State.retireTo s c x f) := by
  unfold State.retireTo
  repeat' first
    | with_reducible assumption | with_reducible intro _ | (with_reducible apply State.mapCtx_keep) | (dsimp only)
    | split | (with_reducible apply Keep.kept) | (with_reducible refine Keep.mk (Keep.kept ?_))

theorem execNop_keep {s0 s : State} (h : Keep s0 s) (core : Core) (ctx : Ctx) :
    Keeps s0 (execNop core ctx s) := by
  unfold execNop
  repeat' first
    | with_reducible assumption | (with_reducible apply act_keep) | with_reducible intro _
    | (with_reducible apply State.retire_keep) | (with_reducible apply State.issue_keep) | (dsimp only) | split
    | (with_reducible apply Keep.kept) | (with_reducible refine Keep.mk (Keep.kept ?_))

theorem execAlu_keep {s0 s : State} (h : Keep s0 s) (core : Core) (ctx : Ctx) :
    Keeps s0 (execAlu core ctx s) := by
  unfold execAlu
  repeat' first
    | with_reducible assumption | (with_reducible apply act_keep) | with_reducible intro _
    | (with_reducible apply State.issue_keep) | (with_reducible apply State.retireS_keep) | (dsimp only) | split
    | (with_reducible apply Keep.kept) | (with_reducible refine Keep.mk (Keep.kept ?_))

theorem execCmp_keep {s0 s : State} (h : Keep s0 s) (core : Core) (ctx : Ctx) :
    Keeps s0 (execCmp core ctx s) := by
  unfold execCmp
  repeat' first
    | with_reducible assumption | (with_reducible apply act_keep) | with_reducible intro _
    | (with_reducible apply State.issue_keep) | (with_reducible apply State.retireP_keep) | (dsimp only) | split
    | (with_reducible apply Keep.kept) | (with_reducible refine Keep.mk (Keep.kept ?_))

theorem execLd_keep {s0 s : State} (h : Keep s0 s) (core : Core) (ctx : Ctx) :
    Keeps s0 (execLd core ctx s) := by
  unfold execLd
  repeat' first
    | with_reducible assumption | (with_reducible apply act_keep) | with_reducible intro _
    | (with_reducible apply State.issue_keep) | (with_reducible apply State.retireS_keep) | (dsimp only) | split
    | (with_reducible apply Keep.kept) | (with_reducible refine Keep.mk (Keep.kept ?_))

theorem execSt_keep {s0 s : State} (h : Keep s0 s) (core : Core) (ctx : Ctx) :
    Keeps s0 (execSt core ctx s) := by
  unfold execSt
  repeat' first
    | with_reducible assumption | (with_reducible apply act_keep) | with_reducible intro _
    | (with_reducible apply State.storeWrite_keep) | (with_reducible apply State.retire_keep)
    | (with_reducible apply State.issue_keep) | (dsimp only) | split | (with_reducible apply Keep.kept)
    | (with_reducible refine Keep.mk (Keep.kept ?_))

theorem execBr_keep {s0 s : State} (h : Keep s0 s) (core : Core) (ctx : Ctx) :
    Keeps s0 (execBr core ctx s) := by
  unfold execBr
  repeat' first
    | with_reducible assumption | (with_reducible apply act_keep) | with_reducible intro _
    | (with_reducible apply State.issue_keep) | (with_reducible apply State.retireTo_keep) | (dsimp only) | split
    | (with_reducible apply Keep.kept) | (with_reducible refine Keep.mk (Keep.kept ?_))

theorem execLoop_keep {s0 s : State} (h : Keep s0 s) (core : Core) (ctx : Ctx) :
    Keeps s0 (execLoop core ctx s) := by
  unfold execLoop
  repeat' first
    | with_reducible assumption | (with_reducible apply act_keep) | with_reducible intro _
    | (with_reducible apply Keep.ite) | (with_reducible apply State.issue_keep)
    | (with_reducible apply State.retireTo_keep) | (dsimp only) | split | (with_reducible apply Keep.kept)
    | (with_reducible refine Keep.mk (Keep.kept ?_))

theorem execHalt_keep {s0 s : State} (h : Keep s0 s) (core : Core) (ctx : Ctx) :
    Keeps s0 (execHalt core ctx s) := by
  unfold execHalt
  repeat' first
    | with_reducible assumption | (with_reducible apply act_keep) | with_reducible intro _
    | (with_reducible apply State.mapCtx_keep) | (with_reducible apply State.ctxStops_keep)
    | (with_reducible apply State.noteActive_keep) | (with_reducible apply State.issue_keep) | (dsimp only) | split
    | (with_reducible apply Keep.kept) | (with_reducible refine Keep.mk (Keep.kept ?_))

theorem State.semInit_keep {s0 s : State} (h : Keep s0 s) (c n count producer lease : Nat) :
    Keep s0 (State.semInit s c n count producer lease) := by
  unfold State.semInit
  repeat' first
    | with_reducible assumption | with_reducible intro _ | (with_reducible apply State.count_keep)
    | (with_reducible apply State.setSem_keep) | (with_reducible apply State.evalSem_keep) | (dsimp only) | split
    | (with_reducible apply Keep.kept) | (with_reducible refine Keep.mk (Keep.kept ?_))

theorem execSemInit_keep {s0 s : State} (h : Keep s0 s) (core : Core) (ctx : Ctx) :
    Keeps s0 (execSemInit core ctx s) := by
  unfold execSemInit
  repeat' first
    | with_reducible assumption | (with_reducible apply act_keep) | with_reducible intro _
    | (with_reducible apply State.retire_keep) | (with_reducible apply State.issue_keep)
    | (with_reducible apply State.semInit_keep) | (dsimp only) | split | (with_reducible apply Keep.kept)
    | (with_reducible refine Keep.mk (Keep.kept ?_))

theorem execSemPost_keep {s0 s : State} (h : Keep s0 s) (core : Core) (ctx : Ctx) :
    Keeps s0 (execSemPost core ctx s) := by
  unfold execSemPost
  repeat' first
    | with_reducible assumption | (with_reducible apply act_keep) | with_reducible intro _
    | (with_reducible apply Keep.ite) | (with_reducible apply State.mapCore_keep)
    | (with_reducible apply State.setCtx_keep) | (with_reducible apply State.retire_keep)
    | (with_reducible apply State.post_keep) | (with_reducible apply State.issue_keep) | (dsimp only) | split
    | (with_reducible apply Keep.kept) | (with_reducible refine Keep.mk (Keep.kept ?_))

theorem execSemPostArrive_keep {s0 s : State} (h : Keep s0 s) (core : Core) (sem : BitVec 8) (posts : Nat) :
    Keeps s0 (execSemPostArrive core sem posts s) := by
  unfold execSemPostArrive
  repeat' first
    | with_reducible assumption | (with_reducible apply act_keep) | with_reducible intro _
    | (with_reducible apply Keep.ite) | (with_reducible apply State.post_keep) | (dsimp only) | split
    | (with_reducible apply Keep.kept) | (with_reducible refine Keep.mk (Keep.kept ?_))

theorem execSemWait_keep {s0 s : State} (h : Keep s0 s) (core : Core) (ctx : Ctx) :
    Keeps s0 (execSemWait core ctx s) := by
  unfold execSemWait
  repeat' first
    | with_reducible assumption | (with_reducible apply act_keep) | with_reducible intro _
    | (with_reducible apply Keep.ite) | (with_reducible apply State.count_keep)
    | (with_reducible apply State.mapCtx_keep) | (with_reducible apply State.setSem_keep)
    | (with_reducible apply State.retire_keep) | (with_reducible apply State.brokenWait_keep)
    | (with_reducible apply State.issue_keep) | (dsimp only) | split | (with_reducible apply Keep.kept)
    | (with_reducible refine Keep.mk (Keep.kept ?_))

theorem execSemTry_keep {s0 s : State} (h : Keep s0 s) (core : Core) (ctx : Ctx) :
    Keeps s0 (execSemTry core ctx s) := by
  unfold execSemTry
  repeat' first
    | with_reducible assumption | (with_reducible apply act_keep) | with_reducible intro _
    | (with_reducible apply Keep.ite) | (with_reducible apply State.count_keep)
    | (with_reducible apply State.setSem_keep) | (with_reducible apply State.brokenWait_keep)
    | (with_reducible apply State.issue_keep) | (with_reducible apply State.retireP_keep) | (dsimp only) | split
    | (with_reducible apply Keep.kept) | (with_reducible refine Keep.mk (Keep.kept ?_))

theorem execSemLeaseLapse_keep {s0 s : State} (h : Keep s0 s) (core : Core) (sem : Sem) :
    Keeps s0 (execSemLeaseLapse core sem s) := by
  unfold execSemLeaseLapse
  repeat' first
    | with_reducible assumption | (with_reducible apply act_keep) | with_reducible intro _
    | (with_reducible apply Keep.ite) | (with_reducible apply State.reach_keep)
    | (with_reducible apply State.log_keep) | (with_reducible apply State.breakSem_keep)
    | (with_reducible apply Keep.foldl) | (with_reducible apply Keep.foldl1) | (with_reducible apply Keep.foldl2)
    | (dsimp only) | split | (with_reducible apply Keep.kept) | (with_reducible refine Keep.mk (Keep.kept ?_))

theorem State.releaseWaitT_keep {s0 s : State} (h : Keep s0 s) (c x target : Nat) :
    Keep s0 (State.releaseWaitT s c x target) := by
  unfold State.releaseWaitT
  repeat' first
    | with_reducible assumption | with_reducible intro _ | (with_reducible apply Keep.ite)
    | (with_reducible apply State.reach64_keep) | (with_reducible apply State.on_keep)
    | (with_reducible apply State.count64_keep) | (with_reducible apply State.retire_keep)
    | (with_reducible apply State.noteActive_keep) | (with_reducible apply State.edge_keep)
    | (with_reducible apply State.target_keep) | (dsimp only) | split | (with_reducible apply Keep.kept)
    | (with_reducible refine Keep.mk (Keep.kept ?_))

theorem execWaitT_keep {s0 s : State} (h : Keep s0 s) (core : Core) (ctx : Ctx) :
    Keeps s0 (execWaitT core ctx s) := by
  unfold execWaitT
  repeat' first
    | with_reducible assumption | (with_reducible apply act_keep) | with_reducible intro _
    | (with_reducible apply Keep.ite) | (with_reducible apply State.mapCtx_keep)
    | (with_reducible apply State.noteActive_keep) | (with_reducible apply State.issue_keep)
    | (with_reducible apply State.releaseWaitT_keep) | (dsimp only) | split | (with_reducible apply Keep.kept)
    | (with_reducible refine Keep.mk (Keep.kept ?_))

theorem execWaitTRelease_keep {s0 s : State} (h : Keep s0 s) (core : Core) (ctx : Ctx) :
    Keeps s0 (execWaitTRelease core ctx s) := by
  unfold execWaitTRelease
  repeat' first
    | with_reducible assumption | (with_reducible apply act_keep) | with_reducible intro _
    | (with_reducible apply Keep.ite) | (with_reducible apply State.reach64_keep)
    | (with_reducible apply State.wakeCore_keep) | (with_reducible apply State.edge_keep)
    | (with_reducible apply State.releaseWaitT_keep) | (dsimp only) | split | (with_reducible apply Keep.kept)
    | (with_reducible refine Keep.mk (Keep.kept ?_))

theorem execWaitQ_keep {s0 s : State} (h : Keep s0 s) (core : Core) (ctx : Ctx) :
    Keeps s0 (execWaitQ core ctx s) := by
  unfold execWaitQ
  repeat' first
    | with_reducible assumption | (with_reducible apply act_keep) | with_reducible intro _
    | (with_reducible apply Keep.ite) | (with_reducible apply State.mapCtx_keep)
    | (with_reducible apply State.retire_keep) | (with_reducible apply State.issue_keep) | (dsimp only) | split
    | (with_reducible apply Keep.kept) | (with_reducible refine Keep.mk (Keep.kept ?_))

theorem execTimeRd_keep {s0 s : State} (h : Keep s0 s) (core : Core) (ctx : Ctx) :
    Keeps s0 (execTimeRd core ctx s) := by
  unfold execTimeRd
  repeat' first
    | with_reducible assumption | (with_reducible apply act_keep) | with_reducible intro _
    | (with_reducible apply Keep.ite) | (with_reducible apply State.issue_keep)
    | (with_reducible apply State.retireS_keep) | (dsimp only) | split | (with_reducible apply Keep.kept)
    | (with_reducible refine Keep.mk (Keep.kept ?_))

theorem State.flushGroups_keep {s0 s : State} (h : Keep s0 s) (c : Nat) :
    Keep s0 (State.flushGroups s c) := by
  unfold State.flushGroups
  repeat' first
    | with_reducible assumption | with_reducible intro _ | (with_reducible apply State.mapCore_keep) | (dsimp only)
    | split | (with_reducible apply Keep.kept) | (with_reducible refine Keep.mk (Keep.kept ?_))

theorem execFence_keep {s0 s : State} (h : Keep s0 s) (core : Core) (ctx : Ctx) :
    Keeps s0 (execFence core ctx s) := by
  unfold execFence
  repeat' first
    | with_reducible assumption | (with_reducible apply act_keep) | with_reducible intro _
    | (with_reducible apply State.mapCtx_keep) | (with_reducible apply State.retire_keep)
    | (with_reducible apply State.issue_keep) | (with_reducible apply State.flushGroups_keep) | (dsimp only)
    | split | (with_reducible apply Keep.kept) | (with_reducible refine Keep.mk (Keep.kept ?_))

theorem execFenceForm_keep {s0 s : State} (h : Keep s0 s) (core : Core) :
    Keeps s0 (execFenceForm core s) := by
  unfold execFenceForm
  repeat' first
    | with_reducible assumption | (with_reducible apply act_keep) | with_reducible intro _
    | (with_reducible apply Keep.ite) | (with_reducible apply State.mapCore_keep)
    | (with_reducible apply State.mapCtx_keep) | (with_reducible apply State.setSem_keep)
    | (with_reducible apply State.each_keep) | (dsimp only) | split | (with_reducible apply Keep.kept)
    | (with_reducible refine Keep.mkF (Keep.kept ?_))

theorem execFenceSpanExceeded_keep {s0 s : State} (h : Keep s0 s) (core : Core) :
    Keeps s0 (execFenceSpanExceeded core s) := by
  unfold execFenceSpanExceeded
  repeat' first
    | with_reducible assumption | (with_reducible apply act_keep) | with_reducible intro _
    | (with_reducible apply Keep.ite) | (with_reducible apply State.reach_keep)
    | (with_reducible apply State.count_keep) | (with_reducible apply State.log_keep)
    | (with_reducible apply State.setCore_keep) | (dsimp only) | split | (with_reducible apply Keep.kept)
    | (with_reducible refine Keep.mk (Keep.kept ?_))

theorem execTalRd_keep {s0 s : State} (h : Keep s0 s) (core : Core) (ctx : Ctx) :
    Keeps s0 (execTalRd core ctx s) := by
  unfold execTalRd
  repeat' first
    | with_reducible assumption | (with_reducible apply act_keep) | with_reducible intro _
    | (with_reducible apply State.mapCtx_keep) | (with_reducible apply State.issue_keep) | (dsimp only) | split
    | (with_reducible apply Keep.kept) | (with_reducible refine Keep.mk (Keep.kept ?_))

theorem execTalNf_keep {s0 s : State} (h : Keep s0 s) (core : Core) (ctx : Ctx) :
    Keeps s0 (execTalNf core ctx s) := by
  unfold execTalNf
  repeat' first
    | with_reducible assumption | (with_reducible apply act_keep) | with_reducible intro _
    | (with_reducible apply State.mapCtx_keep) | (with_reducible apply State.issue_keep)
    | (with_reducible apply State.retireS_keep) | (dsimp only) | split | (with_reducible apply Keep.kept)
    | (with_reducible refine Keep.mk (Keep.kept ?_))

theorem State.startCtx_keep {s0 s : State} (h : Keep s0 s) (c x : Nat) (stream : Bool) (key : BitVec 8) (pc : BitVec
      44) (regs : List (BitVec 64)) (preds : BitVec 7) :
    Keep s0 (State.startCtx s c x stream key pc regs preds) := by
  unfold State.startCtx
  repeat' first
    | with_reducible assumption | with_reducible intro _ | (with_reducible apply Keep.ite)
    | (with_reducible apply State.mapCore_keep) | (with_reducible apply State.mapCtx_keep) | (dsimp only) | split
    | (with_reducible apply Keep.kept) | (with_reducible refine Keep.mk (Keep.kept ?_))

theorem execDcStart_keep {s0 s : State} (h : Keep s0 s) (core : Core) (ctx : Ctx) (stream : Bool) (key : BitVec 8)
      (pc : BitVec 44) (regs : List (BitVec 64)) (preds : BitVec 7) :
    Keeps s0 (execDcStart core ctx stream key pc regs preds s) := by
  unfold execDcStart
  repeat' first
    | with_reducible assumption | (with_reducible apply act_keep) | with_reducible intro _
    | (with_reducible apply Keep.ite) | (with_reducible apply State.emit_keep)
    | (with_reducible apply State.wakeCore_keep) | (with_reducible apply State.startCtx_keep) | (dsimp only)
    | split | (with_reducible apply Keep.kept) | (with_reducible refine Keep.mk (Keep.kept ?_))

theorem State.stopCtx_keep {s0 s : State} (h : Keep s0 s) (c x : Nat) :
    Keep s0 (State.stopCtx s c x) := by
  unfold State.stopCtx
  repeat' first
    | with_reducible assumption | with_reducible intro _ | (with_reducible apply State.mapCtx_keep)
    | (with_reducible apply State.noteActive_keep) | (dsimp only) | split | (with_reducible apply Keep.kept)
    | (with_reducible refine Keep.mk (Keep.kept ?_))

theorem execDcStop_keep {s0 s : State} (h : Keep s0 s) (core : Core) (ctx : Ctx) :
    Keeps s0 (execDcStop core ctx s) := by
  unfold execDcStop
  repeat' first
    | with_reducible assumption | (with_reducible apply act_keep) | with_reducible intro _
    | (with_reducible apply State.wakeCore_keep) | (with_reducible apply State.countStalls_keep)
    | (with_reducible apply State.stopCtx_keep) | (dsimp only) | split | (with_reducible apply Keep.kept)
    | (with_reducible refine Keep.mk (Keep.kept ?_))

theorem execContextRead_keep {s0 s : State} (h : Keep s0 s) (core : Core) (ctx : Ctx) :
    Keeps s0 (execContextRead core ctx s) := by
  unfold execContextRead
  repeat' first
    | with_reducible assumption | (with_reducible apply act_keep) | with_reducible intro _
    | (with_reducible apply State.emit_keep) | (with_reducible apply State.wakeCore_keep) | (dsimp only) | split
    | (with_reducible apply Keep.kept) | (with_reducible refine Keep.mk (Keep.kept ?_))

theorem State.loadImem_keep {s0 s : State} (h : Keep s0 s) (c first count src : Nat) :
    Keep s0 (State.loadImem s c first count src) := by
  unfold State.loadImem
  repeat' first
    | with_reducible assumption | with_reducible intro _ | (with_reducible apply State.count_keep)
    | (with_reducible apply Keep.foldl) | (with_reducible apply Keep.foldl1) | (with_reducible apply Keep.foldl2)
    | (dsimp only) | split | (with_reducible apply Keep.kept) | (with_reducible refine Keep.mk (Keep.kept ?_))

theorem execSeqImemLoad_keep {s0 s : State} (h : Keep s0 s) (core : Core) (first count : BitVec 13) (src : BitVec 41)
      :
    Keeps s0 (execSeqImemLoad core first count src s) := by
  unfold execSeqImemLoad
  repeat' first
    | with_reducible assumption | (with_reducible apply act_keep) | with_reducible intro _
    | (with_reducible apply Keep.ite) | (with_reducible apply State.emit_keep)
    | (with_reducible apply State.wakeCore_keep) | (with_reducible apply State.loadImem_keep) | (dsimp only)
    | split | (with_reducible apply Keep.kept) | (with_reducible refine Keep.mk (Keep.kept ?_))

theorem execSemSet_keep {s0 s : State} (h : Keep s0 s) (core : Core) (sem : Sem) (count producer lease : BitVec 16) :
    Keeps s0 (execSemSet core sem count producer lease s) := by
  unfold execSemSet
  repeat' first
    | with_reducible assumption | (with_reducible apply act_keep) | with_reducible intro _
    | (with_reducible apply State.wakeCore_keep) | (with_reducible apply State.semInit_keep) | (dsimp only) | split
    | (with_reducible apply Keep.kept) | (with_reducible refine Keep.mk (Keep.kept ?_))

end Sys2Proof.Machine
end

