-- ==== Sys2Proof/Laws/KeepCamps.lean ====
section
/-!
SUPPORT. What the operations of Machine/Camps.lean keep (Laws/Keep.lean).
-/

namespace Sys2Proof.Machine

theorem State.logConflict_keep {s0 s : State} (h : Keep s0 s) (c : Nat × Nat) :
    Keep s0 (State.logConflict s c) := by
  unfold State.logConflict
  repeat' first
    | with_reducible assumption | with_reducible intro _ | (with_reducible apply State.log_keep) | (dsimp only)
    | split | (with_reducible apply Keep.kept) | (with_reducible refine Keep.mk (Keep.kept ?_))

theorem State.changeRole_keep {s0 s : State} (h : Keep s0 s) (l : Nat) :
    Keep s0 (State.changeRole s l) := by
  unfold State.changeRole
  repeat' first
    | with_reducible assumption | with_reducible intro _ | (with_reducible apply Keep.ite)
    | (with_reducible apply State.setObj_keep) | (with_reducible apply State.reroute_keep) | (dsimp only) | split
    | (with_reducible apply Keep.kept) | (with_reducible refine Keep.mk (Keep.kept ?_))

theorem State.closeSession_keep {s0 s : State} (h : Keep s0 s) (n : Nat) :
    Keep s0 (State.closeSession s n) := by
  unfold State.closeSession
  repeat' first
    | with_reducible assumption | with_reducible intro _ | (with_reducible apply Keep.ite)
    | (with_reducible apply State.setDict_keep) | (dsimp only) | split | (with_reducible apply Keep.kept)
    | (with_reducible refine Keep.mkFB (Keep.kept ?_))

theorem State.operatorsChanged_keep {s0 s : State} (h : Keep s0 s)  :
    Keep s0 (State.operatorsChanged s) := by
  unfold State.operatorsChanged
  repeat' first
    | with_reducible assumption | with_reducible intro _ | (with_reducible apply State.log_keep)
    | (with_reducible apply State.write_keep) | (with_reducible apply State.each_keep)
    | (with_reducible apply State.closeSession_keep) | (dsimp only) | split | (with_reducible apply Keep.kept)
    | (with_reducible refine Keep.mk (Keep.kept ?_))

theorem State.valueChanged_keep {s0 s : State} (h : Keep s0 s) (k : Nat) :
    Keep s0 (State.valueChanged s k) := by
  unfold State.valueChanged
  repeat' first
    | with_reducible assumption | with_reducible intro _ | (with_reducible apply Keep.ite)
    | (with_reducible apply State.setObj_keep) | (with_reducible apply State.sourceChanged_keep)
    | (with_reducible apply State.changeRole_keep) | (with_reducible apply State.operatorsChanged_keep)
    | (dsimp only) | split | (with_reducible apply Keep.kept) | (with_reducible refine Keep.mk (Keep.kept ?_))

theorem State.assign_keep {s0 s : State} (h : Keep s0 s) (k v : Nat) :
    Keep s0 (State.assign s k v) := by
  unfold State.assign
  repeat' first
    | with_reducible assumption | with_reducible intro _ | (with_reducible apply Keep.ite)
    | (with_reducible apply State.setObj_keep) | (with_reducible apply State.valueChanged_keep) | (dsimp only)
    | split | (with_reducible apply Keep.kept) | (with_reducible refine Keep.mk (Keep.kept ?_))

theorem State.loadValues_keep {s0 s : State} (h : Keep s0 s) (slot : Nat) :
    Keep s0 (State.loadValues s slot) := by
  unfold State.loadValues
  repeat' first
    | with_reducible assumption | with_reducible intro _ | (with_reducible apply State.setObj_keep)
    | (with_reducible apply State.each_keep) | (with_reducible apply State.setDict_keep)
    | (with_reducible apply Keep.foldl) | (with_reducible apply Keep.foldl1) | (with_reducible apply Keep.foldl2)
    | (dsimp only) | split | (with_reducible apply Keep.kept) | (with_reducible refine Keep.mk (Keep.kept ?_))

theorem State.loadCamp_keep {s0 s : State} (h : Keep s0 s)  :
    Keep s0 (State.loadCamp s) := by
  unfold State.loadCamp
  repeat' first
    | with_reducible assumption | with_reducible intro _ | (with_reducible apply Keep.ite)
    | (with_reducible apply State.log_keep) | (with_reducible apply State.loadValues_keep) | (dsimp only) | split
    | (with_reducible apply Keep.kept) | (with_reducible refine Keep.mk (Keep.kept ?_))

theorem State.lowerLocked_keep {s0 s : State} (h : Keep s0 s) (list : List Nat) (j : Nat) :
    Keep s0 (State.lowerLocked s list j).2 := by
  unfold State.lowerLocked
  repeat' first
    | with_reducible assumption | with_reducible intro _ | (with_reducible apply Keep.ite)
    | (with_reducible apply Keep.ite2) | (with_reducible apply State.draw_keep)
    | (with_reducible apply State.take_keep) | (with_reducible refine Keep.snd ?_ (by assumption)) | (dsimp only)
    | split | (with_reducible apply Keep.kept) | (with_reducible refine Keep.mk (Keep.kept ?_))

theorem State.latchRoots_keep {s0 s : State} (h : Keep s0 s)  :
    Keep s0 (State.latchRoots s) := by
  unfold State.latchRoots
  repeat' first
    | with_reducible assumption | with_reducible intro _ | (with_reducible apply Keep.ite)
    | (with_reducible apply State.log_keep) | (with_reducible apply State.setTime_keep)
    | (with_reducible apply State.becomeRoot_keep) | (with_reducible apply State.demote_keep)
    | (with_reducible apply State.lowerLocked_keep) | (with_reducible refine Keep.snd ?_ (by assumption))
    | (dsimp only) | split | (with_reducible apply Keep.kept) | (with_reducible refine Keep.mk (Keep.kept ?_))

theorem State.switchRefused_keep {s0 s : State} (h : Keep s0 s) (abort slot row k : Nat) :
    Keep s0 (State.switchRefused s abort slot row k).2 := by
  unfold State.switchRefused
  repeat' first
    | with_reducible assumption | with_reducible intro _ | (with_reducible apply State.setRec_keep) | (dsimp only)
    | split | (with_reducible apply Keep.kept) | (with_reducible refine Keep.mk (Keep.kept ?_))

theorem State.armCamp_keep {s0 s : State} (h : Keep s0 s) (slot : Nat) :
    Keep s0 (State.armCamp s slot).2 := by
  unfold State.armCamp
  repeat' first
    | with_reducible assumption | with_reducible intro _ | (with_reducible apply Keep.ite)
    | (with_reducible apply Keep.ite2) | (with_reducible apply State.setObj_keep)
    | (with_reducible apply State.setRec_keep) | (with_reducible apply State.log_keep)
    | (with_reducible apply State.logConflict_keep) | (with_reducible apply State.switchRefused_keep)
    | (with_reducible refine Keep.snd ?_ (by assumption)) | (dsimp only) | split | (with_reducible apply Keep.kept)
    | (with_reducible refine Keep.mk (Keep.kept ?_))

theorem State.disarmCamp_keep {s0 s : State} (h : Keep s0 s)  :
    Keep s0 (State.disarmCamp s) := by
  unfold State.disarmCamp
  repeat' first
    | with_reducible assumption | with_reducible intro _ | (with_reducible apply State.on_keep)
    | (with_reducible apply State.setObj_keep) | (with_reducible apply State.log_keep) | (dsimp only) | split
    | (with_reducible apply Keep.kept) | (with_reducible refine Keep.mk (Keep.kept ?_))

theorem State.clearCores_keep {s0 s : State} (h : Keep s0 s) : Keep s0 (State.clearCores s) :=
  Keep.mk h.kept.stores_nil.maps_nil

theorem State.bivouac_keep {s0 s : State} (h : Keep s0 s) (old new : Nat) :
    Keep s0 (State.bivouac s old new) := by
  unfold State.bivouac
  repeat' first
    | with_reducible assumption | with_reducible intro _ | (with_reducible apply Keep.ite)
    | (with_reducible apply State.log_keep) | (with_reducible apply State.setSupply_keep)
    | (with_reducible apply State.clearCores_keep) | (dsimp only) | split | (with_reducible apply Keep.kept)
    | (with_reducible refine Keep.mk (Keep.kept ?_))

theorem State.switchCamp_keep {s0 s : State} (h : Keep s0 s)  :
    Keep s0 (State.switchCamp s) := by
  unfold State.switchCamp
  repeat' first
    | with_reducible assumption | with_reducible intro _ | (with_reducible apply Keep.ite)
    | (with_reducible apply State.setObj_keep) | (with_reducible apply State.count_keep)
    | (with_reducible apply State.log_keep) | (with_reducible apply State.each_keep)
    | (with_reducible apply State.setDict_keep) | (with_reducible apply State.assign_keep)
    | (with_reducible apply State.latchRoots_keep) | (with_reducible apply State.bivouac_keep) | (dsimp only)
    | split | (with_reducible apply Keep.kept) | (with_reducible refine Keep.mk (Keep.kept ?_))

theorem execCampSwitch_keep {s0 s : State} (h : Keep s0 s)  :
    Keeps s0 (execCampSwitch s) := by
  unfold execCampSwitch
  repeat' first
    | with_reducible assumption | (with_reducible apply act_keep) | with_reducible intro _
    | (with_reducible apply Keep.ite) | (with_reducible apply State.reach64_keep)
    | (with_reducible apply State.switchCamp_keep) | (dsimp only) | split | (with_reducible apply Keep.kept)
    | (with_reducible refine Keep.mk (Keep.kept ?_))

theorem execBivouacWakeStart_keep {s0 s : State} (h : Keep s0 s)  :
    Keeps s0 (execBivouacWakeStart s) := by
  unfold execBivouacWakeStart
  repeat' first
    | with_reducible assumption | (with_reducible apply act_keep) | with_reducible intro _
    | (with_reducible apply Keep.ite) | (with_reducible apply State.reach_keep)
    | (with_reducible apply State.setSupply_keep) | (dsimp only) | split | (with_reducible apply Keep.kept)
    | (with_reducible refine Keep.mk (Keep.kept ?_))

theorem State.installCamp_keep {s0 s : State} (h : Keep s0 s) (slot : Nat) (image : List Byte) :
    Keep s0 (State.installCamp s slot image).2 := by
  unfold State.installCamp
  repeat' first
    | with_reducible assumption | with_reducible intro _ | (with_reducible apply State.log_keep)
    | (with_reducible apply State.setDict_keep) | (dsimp only) | split | (with_reducible apply Keep.kept)
    | (with_reducible refine Keep.mk (Keep.kept ?_))

theorem State.campPiece_keep {s0 s : State} (h : Keep s0 s) (session slot off : Nat) (data : List Byte) :
    Keep s0 (State.campPiece s session slot off data).2 := by
  unfold State.campPiece
  repeat' first
    | with_reducible assumption | with_reducible intro _ | (with_reducible apply Keep.ite)
    | (with_reducible apply Keep.ite2) | (with_reducible apply State.count_keep)
    | (with_reducible apply State.setDict_keep) | (with_reducible apply State.installCamp_keep)
    | (with_reducible refine Keep.snd ?_ (by assumption)) | (dsimp only) | split | (with_reducible apply Keep.kept)
    | (with_reducible refine Keep.mk (Keep.kept ?_))

end Sys2Proof.Machine
end

