-- ==== Sys2Proof/Laws/KeepSecurity.lean ====
section
/-!
SUPPORT. What the operations of Machine/Security.lean keep (Laws/Keep.lean).
-/

namespace Sys2Proof.Machine

theorem State.setBoot_keep {s0 s : State} (h : Keep s0 s) (f : Boot → Boot)
    (hm : ∀ b, (f b).measures = b.measures) (hl : ∀ b, (f b).log = b.log) (hf : ∀ b, (f b).floors = b.floors) :
    Keep s0 (State.setBoot s f) := by
  unfold State.setBoot
  have : Kept s0 s.pending s.mem s.stores s.maps s.mailboxes (f s.boot).measures (f s.boot).log (f s.boot).floors
      s.faults.ring := by
    rw [hm, hl, hf]
    exact h.kept
  exact this

theorem State.clearMeasure_keep {s0 s : State} (h : Keep s0 s) {r : Nat} (hr : r ≠ 7) :
    Keep s0 (State.clearMeasure s r) := by
  unfold State.clearMeasure State.setBoot
  exact (Kept.measure (Keep.kept h) hr _).log_filter _

theorem State.extend_keep {s0 s : State} (h : Keep s0 s) {r : Nat} (hr : r ≠ 7) (item : Byte) (d : List Byte) :
    Keep s0 (State.extend s r item d) := by
  unfold State.extend State.setBoot
  exact (Kept.measure (Keep.kept h) hr _).log_take _

theorem State.extendImage_keep {s0 s : State} (h : Keep s0 s) {r : Nat} (hr : r ≠ 7) (kind : Nat)
    (header : List Byte) : Keep s0 (State.extendImage s r kind header) :=
  State.extend_keep h hr _ _

theorem State.attest_keep {s0 s : State} (h : Keep s0 s) (nonce : List Byte) :
    Keep s0 (State.attest s nonce).2 := by
  unfold State.attest
  repeat' first
    | with_reducible assumption | with_reducible intro _ | (with_reducible apply State.log_keep) | (dsimp only)
    | split | (with_reducible apply Keep.kept) | (with_reducible refine Keep.mk (Keep.kept ?_))

theorem execDoeAttest_keep {s0 s : State} (h : Keep s0 s) (nonce : BitVec 256) :
    Keeps s0 (execDoeAttest nonce s) := by
  unfold execDoeAttest
  repeat' first
    | with_reducible assumption | (with_reducible apply act_keep) | with_reducible intro _
    | (with_reducible apply Keep.ite) | (with_reducible apply State.emit_keep)
    | (with_reducible apply State.attest_keep) | (with_reducible refine Keep.snd ?_ (by assumption)) | (dsimp only)
    | split | (with_reducible apply Keep.kept) | (with_reducible refine Keep.mk (Keep.kept ?_))

theorem execDoeMeasureLog_keep {s0 s : State} (h : Keep s0 s)  :
    Keeps s0 (execDoeMeasureLog s) := by
  unfold execDoeMeasureLog
  repeat' first
    | with_reducible assumption | (with_reducible apply act_keep) | with_reducible intro _
    | (with_reducible apply Keep.ite) | (with_reducible apply State.emit_keep)
    | (with_reducible apply State.log_keep) | (dsimp only) | split | (with_reducible apply Keep.kept)
    | (with_reducible refine Keep.mk (Keep.kept ?_))

theorem execIdeKm_keep {s0 s : State} (h : Keep s0 s) (stream : Bool) (slot : Nat) (key : List Byte) :
    Keeps s0 (execIdeKm stream slot key s) := by
  unfold execIdeKm
  repeat' first
    | with_reducible assumption | (with_reducible apply act_keep) | with_reducible intro _
    | (with_reducible apply Keep.ite) | (with_reducible apply State.setHost_keep) | (dsimp only) | split
    | (with_reducible apply Keep.kept) | (with_reducible refine Keep.mk (Keep.kept ?_))

theorem State.setFw_keep {s0 s : State} (h : Keep s0 s) (state kind rule : Nat) :
    Keep s0 (State.setFw s state kind rule) := by
  unfold State.setFw
  repeat' first
    | with_reducible assumption | with_reducible intro _ | (with_reducible apply State.setBoot_keep)
    | with_reducible rfl | (dsimp only) | split | (with_reducible apply Keep.kept)
    | (with_reducible refine Keep.mk (Keep.kept ?_))

theorem State.stagePiece_keep {s0 s : State} (h : Keep s0 s) (session off : Nat) (data : List Byte) :
    Keep s0 (State.stagePiece s session off data).2 := by
  unfold State.stagePiece
  repeat' first
    | with_reducible assumption | with_reducible intro _ | (with_reducible apply Keep.ite)
    | (with_reducible apply Keep.ite2) | (with_reducible apply State.write_keep)
    | (with_reducible apply State.setBoot_keep) | with_reducible rfl | (dsimp only) | split
    | (with_reducible apply Keep.kept) | (with_reducible refine Keep.mk (Keep.kept ?_))

theorem State.startInstall_keep {s0 s : State} (h : Keep s0 s) (session : Nat) (bundle : Bool) :
    Keep s0 (State.startInstall s session bundle) := by
  unfold State.startInstall
  repeat' first
    | with_reducible assumption | with_reducible intro _ | (with_reducible apply Keep.ite)
    | (with_reducible apply State.log_keep) | (with_reducible apply State.setBoot_keep)
    | (with_reducible apply State.setFw_keep) | with_reducible rfl | (dsimp only) | split
    | (with_reducible apply Keep.kept) | (with_reducible refine Keep.mk (Keep.kept ?_))

theorem execFwInstallComplete_keep {s0 s : State} (h : Keep s0 s)  :
    Keeps s0 (execFwInstallComplete s) := by
  unfold execFwInstallComplete
  repeat' first
    | with_reducible assumption | (with_reducible apply act_keep) | with_reducible intro _
    | (with_reducible apply Keep.ite) | (with_reducible apply State.log_keep)
    | (with_reducible apply State.setBoot_keep) | (with_reducible apply State.setFw_keep) | with_reducible rfl
    | (dsimp only) | split | (with_reducible apply Keep.kept) | (with_reducible refine Keep.mk (Keep.kept ?_))

theorem le_set_max (t : Tbl Nat) (k v i : Nat) :
    Tbl.get 0 t i ≤ Tbl.get 0 (Tbl.set 0 t k (max (Tbl.get 0 t k) v)) i := by
  by_cases hi : i = k
  · subst hi
    unfold Tbl.set
    split
    · omega
    · rw [Tbl.get_put_same]
      omega
  · exact Nat.le_of_eq (Tbl.get_set_other hi).symm

/-- Floors only rise (R466). -/
theorem le_raise (xs : List (Nat × Nat)) (t : Tbl Nat) (i : Nat) :
    Tbl.get 0 t i ≤ Tbl.get 0 (xs.foldl (fun t x => Tbl.set 0 t x.1 (max (Tbl.get 0 t x.1) x.2)) t) i := by
  induction xs generalizing t with
  | nil => exact Nat.le_refl _
  | cons x xs ih => exact Nat.le_trans (le_set_max t x.1 x.2 i) (ih _)

theorem State.commitSvn_keep {s0 s : State} (h : Keep s0 s) : Keep s0 (State.commitSvn s) := by
  unfold State.commitSvn State.setBoot
  refine State.log_keep (Keep.mkB ⟨h.kept.queue, fun k => ?_, h.kept.sound⟩) _ _ _
  exact Nat.le_trans (h.kept.floors k) (le_raise _ _ k)

end Sys2Proof.Machine
end

