-- ==== Sys2Proof/Laws/KeepDictionary.lean ====
section
/-!
SUPPORT. What the operations of Machine/Dictionary.lean keep (Laws/Keep.lean).
-/

namespace Sys2Proof.Machine

theorem State.writeSwitchBank_keep {s0 s : State} (h : Keep s0 s) (v : Nat) :
    Keep s0 (State.writeSwitchBank s v).2 := by
  unfold State.writeSwitchBank
  repeat' first
    | with_reducible assumption | with_reducible intro _ | (with_reducible apply Keep.ite)
    | (with_reducible apply Keep.ite2) | (with_reducible apply State.on_keep)
    | (with_reducible apply State.armSwitch_keep) | (with_reducible apply State.disarmBankSwitch_keep)
    | (with_reducible refine Keep.snd ?_ (by assumption)) | (dsimp only) | split | (with_reducible apply Keep.kept)
    | (with_reducible refine Keep.mk (Keep.kept ?_))

theorem State.writeSwitchSlot_keep {s0 s : State} (h : Keep s0 s) (v : Nat) :
    Keep s0 (State.writeSwitchSlot s v).2 := by
  unfold State.writeSwitchSlot
  repeat' first
    | with_reducible assumption | with_reducible intro _ | (with_reducible apply Keep.ite)
    | (with_reducible apply Keep.ite2) | (with_reducible apply State.armCamp_keep)
    | (with_reducible apply State.disarmCamp_keep) | (with_reducible refine Keep.snd ?_ (by assumption))
    | (dsimp only) | split | (with_reducible apply Keep.kept) | (with_reducible refine Keep.mk (Keep.kept ?_))

theorem State.writeRestore_keep {s0 s : State} (h : Keep s0 s) (v : Nat) :
    Keep s0 (State.writeRestore s v) := by
  unfold State.writeRestore
  repeat' first
    | with_reducible assumption | with_reducible intro _ | (with_reducible apply Keep.ite)
    | (with_reducible apply State.freshStart_keep) | (with_reducible apply State.restoreState_keep) | (dsimp only)
    | split | (with_reducible apply Keep.kept) | (with_reducible refine Keep.mk (Keep.kept ?_))

theorem State.writeNonce_keep {s0 s : State} (h : Keep s0 s) (session : Nat) (data : List Byte) :
    Keep s0 (State.writeNonce s session data) := by
  unfold State.writeNonce
  repeat' first
    | with_reducible assumption | with_reducible intro _ | (with_reducible apply State.setBoot_keep)
    | (with_reducible apply State.attest_keep) | (with_reducible refine Keep.snd ?_ (by assumption))
    | with_reducible rfl | (dsimp only) | split | (with_reducible apply Keep.kept)
    | (with_reducible refine Keep.mk (Keep.kept ?_))

theorem State.trigger_keep {s0 s : State} (h : Keep s0 s) (q : DxpReq) (v : Nat) :
    KeepsOpt2 s0 (State.trigger s q v) := by
  unfold State.trigger
  repeat' first
    | with_reducible assumption | with_reducible intro _ | (with_reducible apply KeepsOpt2.none)
    | (with_reducible apply KeepsOpt2.some) | (with_reducible apply KeepsOpt2.ite)
    | (with_reducible apply Keep.ite) | (with_reducible apply Keep.ite2)
    | (with_reducible apply State.originateHoldAt_keep) | (with_reducible apply State.setTrain_keep)
    | (with_reducible apply State.setRope_keep) | (with_reducible apply State.checkBank_keep)
    | (with_reducible apply State.writeTarget_keep) | (with_reducible apply State.setBoot_keep)
    | (with_reducible apply State.startInstall_keep) | (with_reducible apply State.commitSvn_keep)
    | (with_reducible apply State.writeSwitchBank_keep) | (with_reducible apply State.writeSwitchSlot_keep)
    | (with_reducible apply State.writeRestore_keep) | (with_reducible apply State.writeNonce_keep)
    | (with_reducible refine Keep.snd ?_ (by assumption)) | (with_reducible refine Keep.fst ?_ (by assumption))
    | with_reducible rfl | (dsimp only) | split | (with_reducible apply Keep.kept)
    | (with_reducible refine Keep.mk (Keep.kept ?_))

theorem State.take_keep {s0 s : State} (h : Keep s0 s) (r : ObjRow) (k v : Nat) (data : List Byte) :
    Keep s0 (State.take s r k v data) := by
  unfold State.take
  repeat' first
    | with_reducible assumption | with_reducible intro _ | (with_reducible apply Keep.ite)
    | (with_reducible apply State.setRec_keep) | (with_reducible apply State.setArmed_keep)
    | (with_reducible apply State.valueChanged_keep) | (with_reducible apply State.assign_keep) | (dsimp only)
    | split | (with_reducible apply Keep.kept) | (with_reducible refine Keep.mk (Keep.kept ?_))

theorem State.writeRequest_keep {s0 s : State} (h : Keep s0 s) (q : DxpReq) :
    Keep s0 (State.writeRequest s q).2 := by
  unfold State.writeRequest
  repeat' first
    | with_reducible assumption | with_reducible intro _ | (with_reducible apply Keep.ite)
    | (with_reducible apply Keep.ite2) | (with_reducible apply State.ok_keep)
    | (with_reducible apply State.setDict_keep) | (with_reducible apply State.logConflict_keep)
    | (with_reducible apply State.trigger_keep) | (with_reducible apply State.take_keep)
    | (with_reducible refine Keep.fst ?_ (by assumption))
    | (with_reducible refine KeepsOpt2.get' ?_ (by assumption))
    | (with_reducible refine KeepsOpt2.get ?_ (by assumption)) | (dsimp only) | split
    | (with_reducible apply Keep.kept) | (with_reducible refine Keep.mk (Keep.kept ?_))

theorem State.writeTable_keep {s0 s : State} (h : Keep s0 s) (q : DxpReq) :
    Keep s0 (State.writeTable s q) := by
  unfold State.writeTable
  repeat' first
    | with_reducible assumption | with_reducible intro _ | (with_reducible apply State.write_keep)
    | (with_reducible apply State.setArmed_keep) | (dsimp only) | split | (with_reducible apply Keep.kept)
    | (with_reducible refine Keep.mk (Keep.kept ?_))

theorem State.writeBlobRequest_keep {s0 s : State} (h : Keep s0 s) (q : DxpReq) :
    Keep s0 (State.writeBlobRequest s q).2 := by
  unfold State.writeBlobRequest
  repeat' first
    | with_reducible assumption | with_reducible intro _ | (with_reducible apply Keep.ite)
    | (with_reducible apply Keep.ite2) | (with_reducible apply State.ok_keep)
    | (with_reducible apply State.campPiece_keep) | (with_reducible apply State.stagePiece_keep)
    | (with_reducible apply State.writeTable_keep) | (with_reducible refine Keep.snd ?_ (by assumption))
    | (with_reducible refine Keep.fst ?_ (by assumption)) | (dsimp only) | split | (with_reducible apply Keep.kept)
    | (with_reducible refine Keep.mk (Keep.kept ?_))

theorem State.afterRead_keep {s0 s : State} (h : Keep s0 s) (k : Nat) :
    Keep s0 (State.afterRead s k) := by
  unfold State.afterRead
  repeat' first
    | with_reducible assumption | with_reducible intro _ | (with_reducible apply Keep.ite)
    | (with_reducible apply State.setTime_keep) | (with_reducible apply State.setSupply_keep) | (dsimp only)
    | split | (with_reducible apply Keep.kept) | (with_reducible refine Keep.mk (Keep.kept ?_))

theorem State.readRequest_keep {s0 s : State} (h : Keep s0 s) (q : DxpReq) :
    Keep s0 (State.readRequest s q).2 := by
  unfold State.readRequest
  repeat' first
    | with_reducible assumption | with_reducible intro _ | (with_reducible apply Keep.ite)
    | (with_reducible apply Keep.ite2) | (with_reducible apply State.afterRead_keep) | (dsimp only) | split
    | (with_reducible apply Keep.kept) | (with_reducible refine Keep.mk (Keep.kept ?_))

theorem State.subscribeRequest_keep {s0 s : State} (h : Keep s0 s) (q : DxpReq) :
    Keep s0 (State.subscribeRequest s q).2 := by
  unfold State.subscribeRequest
  repeat' first
    | with_reducible assumption | with_reducible intro _ | (with_reducible apply Keep.ite)
    | (with_reducible apply Keep.ite2) | (with_reducible apply State.ok_keep)
    | (with_reducible refine Keep.fst ?_ (by assumption)) | (dsimp only) | split | (with_reducible apply Keep.kept)
    | (with_reducible refine Keep.mkF (Keep.kept ?_))

theorem State.groupKeyRequest_keep {s0 s : State} (h : Keep s0 s) (q : DxpReq) :
    Keep s0 (State.groupKeyRequest s q).2 := by
  unfold State.groupKeyRequest
  repeat' first
    | with_reducible assumption | with_reducible intro _ | (with_reducible apply Keep.ite)
    | (with_reducible apply Keep.ite2) | (with_reducible apply State.ok_keep)
    | (with_reducible apply State.setDict_keep) | (with_reducible apply State.take_keep)
    | (with_reducible refine Keep.fst ?_ (by assumption)) | (dsimp only) | split | (with_reducible apply Keep.kept)
    | (with_reducible refine Keep.mk (Keep.kept ?_))

theorem State.request_keep {s0 s : State} (h : Keep s0 s) (q : DxpReq) :
    Keep s0 (State.request s q).2 := by
  unfold State.request
  repeat' first
    | with_reducible assumption | with_reducible intro _ | (with_reducible apply Keep.ite)
    | (with_reducible apply Keep.ite2) | (with_reducible apply State.ok_keep)
    | (with_reducible apply State.writeRequest_keep) | (with_reducible apply State.writeBlobRequest_keep)
    | (with_reducible apply State.readRequest_keep) | (with_reducible apply State.subscribeRequest_keep)
    | (with_reducible apply State.groupKeyRequest_keep) | (with_reducible refine Keep.snd ?_ (by assumption))
    | (with_reducible refine Keep.fst ?_ (by assumption)) | (dsimp only) | split | (with_reducible apply Keep.kept)
    | (with_reducible refine Keep.mk (Keep.kept ?_))

theorem State.countAbort_keep {s0 s : State} (h : Keep s0 s) (abort : Nat) :
    Keep s0 (State.countAbort s abort) := by
  unfold State.countAbort
  repeat' first
    | with_reducible assumption | with_reducible intro _ | (with_reducible apply State.on_keep)
    | (with_reducible apply State.count_keep) | (dsimp only) | split | (with_reducible apply Keep.kept)
    | (with_reducible refine Keep.mk (Keep.kept ?_))

theorem State.plainAnswer_keep {s0 s : State} (h : Keep s0 s) (m : DxpMsg) (kind abort : Nat) :
    Keep s0 (State.plainAnswer s m kind abort) := by
  unfold State.plainAnswer
  repeat' first
    | with_reducible assumption | with_reducible intro _ | (with_reducible apply State.sendDxp_keep)
    | (with_reducible apply State.countAbort_keep) | (dsimp only) | split | (with_reducible apply Keep.kept)
    | (with_reducible refine Keep.mk (Keep.kept ?_))

theorem State.sessionAnswer_keep {s0 s : State} (h : Keep s0 s) (v : Session) (w abort type : Nat) (data : List Byte)
      :
    Keep s0 (State.sessionAnswer s v w abort type data) := by
  unfold State.sessionAnswer
  repeat' first
    | with_reducible assumption | with_reducible intro _ | (with_reducible apply Keep.ite)
    | (with_reducible apply State.setDict_keep) | (with_reducible apply State.sendSession_keep)
    | (with_reducible apply State.take_keep) | (with_reducible apply State.countAbort_keep) | (dsimp only) | split
    | (with_reducible apply Keep.kept) | (with_reducible refine Keep.mk (Keep.kept ?_))

theorem State.multicast_keep {s0 s : State} (h : Keep s0 s) (m : DxpMsg) (data : List Byte) :
    Keep s0 (State.multicast s m data) := by
  unfold State.multicast
  repeat' first
    | with_reducible assumption | with_reducible intro _ | (with_reducible apply Keep.ite)
    | (with_reducible apply State.emit_keep) | (with_reducible apply State.setDict_keep)
    | (with_reducible apply State.request_keep) | (with_reducible apply State.countAbort_keep)
    | (with_reducible apply State.done_keep) | (with_reducible refine Keep.snd ?_ (by assumption)) | (dsimp only)
    | split | (with_reducible apply Keep.kept) | (with_reducible refine Keep.mk (Keep.kept ?_))

theorem State.inSession_keep {s0 s : State} (h : Keep s0 s) (v : Session) (m : DxpMsg) (data : List Byte) :
    Keep s0 (State.inSession s v m data) := by
  unfold State.inSession
  repeat' first
    | with_reducible assumption | with_reducible intro _ | (with_reducible apply Keep.ite)
    | (with_reducible apply State.on_keep) | (with_reducible apply State.count_keep)
    | (with_reducible apply State.write_keep) | (with_reducible apply State.setDict_keep)
    | (with_reducible apply State.sendSession_keep) | (with_reducible apply State.closeSession_keep)
    | (with_reducible apply State.request_keep) | (with_reducible apply State.sessionAnswer_keep)
    | (with_reducible apply State.done_keep) | (with_reducible refine Keep.snd ?_ (by assumption)) | (dsimp only)
    | split | (with_reducible apply Keep.kept) | (with_reducible refine Keep.mk (Keep.kept ?_))

theorem State.openDxp_keep {s0 s : State} (h : Keep s0 s) (m : DxpMsg) (write : Bool) (operator : List Byte) :
    Keep s0 (State.openDxp s m write operator).1 := by
  unfold State.openDxp
  repeat' first
    | with_reducible assumption | (with_reducible apply Keeps.next) | with_reducible intro _
    | (with_reducible apply Keep.ite) | (with_reducible apply Keep.ite1) | (with_reducible apply State.write_keep)
    | (with_reducible apply State.each_keep) | (with_reducible apply State.setDict_keep)
    | (with_reducible apply State.closeSession_keep) | (dsimp only) | split | (with_reducible apply Keep.kept)
    | (with_reducible refine Keep.mk (Keep.kept ?_))

theorem State.logOpened_keep {s0 s : State} (h : Keep s0 s) (transport access : Nat) :
    Keep s0 (State.logOpened s transport access) := by
  unfold State.logOpened
  repeat' first
    | with_reducible assumption | with_reducible intro _ | (with_reducible apply State.log_keep) | (dsimp only)
    | split | (with_reducible apply Keep.kept) | (with_reducible refine Keep.mk (Keep.kept ?_))

theorem State.plainHello_keep {s0 s : State} (h : Keep s0 s) (m : DxpMsg) :
    Keep s0 (State.plainHello s m) := by
  unfold State.plainHello
  repeat' first
    | with_reducible assumption | with_reducible intro _ | (with_reducible apply Keep.ite)
    | (with_reducible apply State.log_keep) | (with_reducible apply State.sendDxp_keep)
    | (with_reducible apply State.plainAnswer_keep) | (with_reducible apply State.openDxp_keep)
    | (with_reducible apply State.logOpened_keep) | (with_reducible refine Keep.fst ?_ (by assumption))
    | (dsimp only) | split | (with_reducible apply Keep.kept) | (with_reducible refine Keep.mk (Keep.kept ?_))

theorem State.sendPieces_keep {s0 s : State} (h : Keep s0 s) (m : DxpMsg) (abort n : Nat) (body : List Byte) :
    Keep s0 (State.sendPieces s m abort n body) := by
  unfold State.sendPieces
  repeat' first
    | with_reducible assumption | with_reducible intro _ | (with_reducible apply State.each_keep)
    | (with_reducible apply State.sendDxp_keep) | (dsimp only) | split | (with_reducible apply Keep.kept)
    | (with_reducible refine Keep.mk (Keep.kept ?_))

theorem State.keyedHello_keep {s0 s : State} (h : Keep s0 s) (m : DxpMsg) (first : BitVec 256) (b : List Byte) :
    Keep s0 (State.keyedHello s m first b) := by
  unfold State.keyedHello
  repeat' first
    | with_reducible assumption | with_reducible intro _ | (with_reducible apply Keep.ite)
    | (with_reducible apply State.draw_keep) | (with_reducible apply State.on_keep)
    | (with_reducible apply State.log_keep) | (with_reducible apply State.setDict_keep)
    | (with_reducible apply State.take_keep) | (with_reducible apply State.countAbort_keep)
    | (with_reducible apply State.plainAnswer_keep) | (with_reducible apply State.openDxp_keep)
    | (with_reducible apply State.logOpened_keep) | (with_reducible apply State.sendPieces_keep)
    | (with_reducible refine Keep.snd ?_ (by assumption)) | (with_reducible refine Keep.fst ?_ (by assumption))
    | (dsimp only) | split | (with_reducible apply Keep.kept) | (with_reducible refine Keep.mk (Keep.kept ?_))

theorem State.helloPiece_keep {s0 s : State} (h : Keep s0 s) (m : DxpMsg) :
    Keep s0 (State.helloPiece s m) := by
  unfold State.helloPiece
  repeat' first
    | with_reducible assumption | with_reducible intro _ | (with_reducible apply Keep.ite)
    | (with_reducible apply State.setDict_keep) | (with_reducible apply State.plainAnswer_keep)
    | (with_reducible apply State.keyedHello_keep) | (dsimp only) | split | (with_reducible apply Keep.kept)
    | (with_reducible refine Keep.mk (Keep.kept ?_))

theorem State.hello_keep {s0 s : State} (h : Keep s0 s) (m : DxpMsg) :
    Keep s0 (State.hello s m) := by
  unfold State.hello
  repeat' first
    | with_reducible assumption | with_reducible intro _ | (with_reducible apply Keep.ite)
    | (with_reducible apply State.plainHello_keep) | (with_reducible apply State.helloPiece_keep) | (dsimp only)
    | split | (with_reducible apply Keep.kept) | (with_reducible refine Keep.mk (Keep.kept ?_))

theorem State.handle_keep {s0 s : State} (h : Keep s0 s) (m : DxpMsg) :
    Keep s0 (State.handle s m) := by
  unfold State.handle
  repeat' first
    | with_reducible assumption | with_reducible intro _ | (with_reducible apply Keep.ite)
    | (with_reducible apply State.count_keep) | (with_reducible apply State.ok_keep)
    | (with_reducible apply State.sendSession_keep) | (with_reducible apply State.countAbort_keep)
    | (with_reducible apply State.plainAnswer_keep) | (with_reducible apply State.multicast_keep)
    | (with_reducible apply State.inSession_keep) | (with_reducible apply State.hello_keep)
    | (with_reducible refine Keep.fst ?_ (by assumption)) | (dsimp only) | split | (with_reducible apply Keep.kept)
    | (with_reducible refine Keep.mk (Keep.kept ?_))

theorem State.mboxSettle_keep {s0 s : State} (h : Keep s0 s)  :
    Keep s0 (State.mboxSettle s) := by
  unfold State.mboxSettle
  repeat' first
    | with_reducible assumption | with_reducible intro _ | (with_reducible apply Keep.ite)
    | (with_reducible apply State.setHost_keep) | (dsimp only) | split | (with_reducible apply Keep.kept)
    | (with_reducible refine Keep.mk (Keep.kept ?_))

theorem State.arrive_keep {s0 s : State} (h : Keep s0 s) (m : DxpMsg) :
    Keep s0 (State.arrive s m) := by
  unfold State.arrive
  repeat' first
    | with_reducible assumption | with_reducible intro _ | (with_reducible apply Keep.ite)
    | (with_reducible apply State.on_keep) | (with_reducible apply State.setHost_keep)
    | (with_reducible apply State.streamAll_keep) | (with_reducible apply State.popVc0_keep)
    | (with_reducible apply State.handle_keep) | (with_reducible apply State.mboxSettle_keep) | (dsimp only)
    | split | (with_reducible apply Keep.kept) | (with_reducible refine Keep.mk (Keep.kept ?_))

theorem State.persistAnswer_keep {s0 s : State} (h : Keep s0 s) (j : PersistJob) (abort : Nat) :
    Keep s0 (State.persistAnswer s j abort) := by
  unfold State.persistAnswer
  repeat' first
    | with_reducible assumption | with_reducible intro _ | (with_reducible apply State.sessionAnswer_keep)
    | (dsimp only) | split | (with_reducible apply Keep.kept) | (with_reducible refine Keep.mk (Keep.kept ?_))

theorem State.persistEnds_keep {s0 s : State} (h : Keep s0 s) (j : PersistJob) (ok : Bool) :
    Keep s0 (State.persistEnds s j ok) := by
  unfold State.persistEnds
  repeat' first
    | with_reducible assumption | with_reducible intro _ | (with_reducible apply Keep.ite)
    | (with_reducible apply State.log_keep) | (with_reducible apply State.ok_keep)
    | (with_reducible apply State.setDict_keep) | (with_reducible apply State.take_keep)
    | (with_reducible apply State.persistAnswer_keep) | (with_reducible refine Keep.fst ?_ (by assumption))
    | (dsimp only) | split | (with_reducible apply Keep.kept) | (with_reducible refine Keep.mk (Keep.kept ?_))

theorem execPersistWriteComplete_keep {s0 s : State} (h : Keep s0 s) (ok : Bool) :
    Keeps s0 (execPersistWriteComplete ok s) := by
  unfold execPersistWriteComplete
  repeat' first
    | with_reducible assumption | (with_reducible apply act_keep) | with_reducible intro _
    | (with_reducible apply State.each_keep) | (with_reducible apply State.ok_keep)
    | (with_reducible apply State.setDict_keep) | (with_reducible apply State.streamAll_keep)
    | (with_reducible apply State.handle_keep) | (with_reducible apply State.mboxSettle_keep)
    | (with_reducible apply State.persistEnds_keep) | (with_reducible refine Keep.fst ?_ (by assumption))
    | (dsimp only) | split | (with_reducible apply Keep.kept) | (with_reducible refine Keep.mk (Keep.kept ?_))

theorem execSessionIdleExpire_keep {s0 s : State} (h : Keep s0 s) (session : BitVec 16) :
    Keeps s0 (execSessionIdleExpire session s) := by
  unfold execSessionIdleExpire
  repeat' first
    | with_reducible assumption | (with_reducible apply act_keep) | with_reducible intro _
    | (with_reducible apply State.reach_keep) | (with_reducible apply State.closeSession_keep) | (dsimp only)
    | split | (with_reducible apply Keep.kept) | (with_reducible refine Keep.mk (Keep.kept ?_))

end Sys2Proof.Machine
end

