-- ==== Sys2Proof/Laws/KeepDictRows.lean ====
section
/-!
SUPPORT. What the operations of Machine/DictRows.lean keep (Laws/Keep.lean).
-/

namespace Sys2Proof.Machine

theorem onRow_keep {s0 s : State} (h : Keep s0 s) (row : DxpRow) (m : DxpMsg) :
    Keeps s0 (onRow row m s) := by
  unfold onRow
  repeat' first
    | with_reducible assumption | (with_reducible apply act_keep) | with_reducible intro _
    | (with_reducible apply Keep.ite) | (with_reducible apply State.arrive_keep) | (dsimp only) | split
    | (with_reducible apply Keep.kept) | (with_reducible refine Keep.mk (Keep.kept ?_))

theorem execDxpHello_keep {s0 s : State} (h : Keep s0 s) (m : DxpMsg) :
    Keeps s0 (execDxpHello m s) := by
  unfold execDxpHello
  repeat' first
    | with_reducible assumption | (with_reducible apply onRow_keep) | with_reducible intro _
    | (with_reducible apply State.hello_keep) | (dsimp only) | split | (with_reducible apply Keep.kept)
    | (with_reducible refine Keep.mk (Keep.kept ?_))

theorem execDxpRead_keep {s0 s : State} (h : Keep s0 s) (m : DxpMsg) :
    Keeps s0 (execDxpRead m s) := by
  unfold execDxpRead
  repeat' first
    | with_reducible assumption | (with_reducible apply onRow_keep) | with_reducible intro _ | (dsimp only) | split
    | (with_reducible apply Keep.kept) | (with_reducible refine Keep.mk (Keep.kept ?_))

theorem execHallTimeRead_keep {s0 s : State} (h : Keep s0 s) (m : DxpMsg) :
    Keeps s0 (execHallTimeRead m s) := by
  unfold execHallTimeRead
  repeat' first
    | with_reducible assumption | (with_reducible apply onRow_keep) | with_reducible intro _ | (dsimp only) | split
    | (with_reducible apply Keep.kept) | (with_reducible refine Keep.mk (Keep.kept ?_))

theorem execDxpWrite_keep {s0 s : State} (h : Keep s0 s) (m : DxpMsg) :
    Keeps s0 (execDxpWrite m s) := by
  unfold execDxpWrite
  repeat' first
    | with_reducible assumption | (with_reducible apply onRow_keep) | with_reducible intro _
    | (with_reducible apply State.write_keep) | (dsimp only) | split | (with_reducible apply Keep.kept)
    | (with_reducible refine Keep.mk (Keep.kept ?_))

theorem execReadBlob_keep {s0 s : State} (h : Keep s0 s) (m : DxpMsg) :
    Keeps s0 (execReadBlob m s) := by
  unfold execReadBlob
  repeat' first
    | with_reducible assumption | (with_reducible apply onRow_keep) | with_reducible intro _ | (dsimp only) | split
    | (with_reducible apply Keep.kept) | (with_reducible refine Keep.mk (Keep.kept ?_))

theorem execWriteBlob_keep {s0 s : State} (h : Keep s0 s) (m : DxpMsg) :
    Keeps s0 (execWriteBlob m s) := by
  unfold execWriteBlob
  repeat' first
    | with_reducible assumption | (with_reducible apply onRow_keep) | with_reducible intro _ | (dsimp only) | split
    | (with_reducible apply Keep.kept) | (with_reducible refine Keep.mk (Keep.kept ?_))

theorem execDescribe_keep {s0 s : State} (h : Keep s0 s) (m : DxpMsg) :
    Keeps s0 (execDescribe m s) := by
  unfold execDescribe
  repeat' first
    | with_reducible assumption | (with_reducible apply onRow_keep) | with_reducible intro _ | (dsimp only) | split
    | (with_reducible apply Keep.kept) | (with_reducible refine Keep.mk (Keep.kept ?_))

theorem execDxpList_keep {s0 s : State} (h : Keep s0 s) (m : DxpMsg) :
    Keeps s0 (execDxpList m s) := by
  unfold execDxpList
  repeat' first
    | with_reducible assumption | (with_reducible apply onRow_keep) | with_reducible intro _ | (dsimp only) | split
    | (with_reducible apply Keep.kept) | (with_reducible refine Keep.mk (Keep.kept ?_))

theorem execSubscribe_keep {s0 s : State} (h : Keep s0 s) (m : DxpMsg) :
    Keeps s0 (execSubscribe m s) := by
  unfold execSubscribe
  repeat' first
    | with_reducible assumption | (with_reducible apply onRow_keep) | with_reducible intro _ | (dsimp only) | split
    | (with_reducible apply Keep.kept) | (with_reducible refine Keep.mk (Keep.kept ?_))

theorem execGroupKey_keep {s0 s : State} (h : Keep s0 s) (m : DxpMsg) :
    Keeps s0 (execGroupKey m s) := by
  unfold execGroupKey
  repeat' first
    | with_reducible assumption | (with_reducible apply onRow_keep) | with_reducible intro _ | (dsimp only) | split
    | (with_reducible apply Keep.kept) | (with_reducible refine Keep.mk (Keep.kept ?_))

theorem execDxpClose_keep {s0 s : State} (h : Keep s0 s) (m : DxpMsg) :
    Keeps s0 (execDxpClose m s) := by
  unfold execDxpClose
  repeat' first
    | with_reducible assumption | (with_reducible apply onRow_keep) | with_reducible intro _ | (dsimp only) | split
    | (with_reducible apply Keep.kept) | (with_reducible refine Keep.mk (Keep.kept ?_))

theorem execBankCheck_keep {s0 s : State} (h : Keep s0 s) (m : DxpMsg) :
    Keeps s0 (execBankCheck m s) := by
  unfold execBankCheck
  repeat' first
    | with_reducible assumption | (with_reducible apply onRow_keep) | with_reducible intro _ | (dsimp only) | split
    | (with_reducible apply Keep.kept) | (with_reducible refine Keep.mk (Keep.kept ?_))

theorem execSwitchBankArm_keep {s0 s : State} (h : Keep s0 s) (m : DxpMsg) :
    Keeps s0 (execSwitchBankArm m s) := by
  unfold execSwitchBankArm
  repeat' first
    | with_reducible assumption | (with_reducible apply onRow_keep) | with_reducible intro _ | (dsimp only) | split
    | (with_reducible apply Keep.kept) | (with_reducible refine Keep.mk (Keep.kept ?_))

theorem execSwitchBankDisarm_keep {s0 s : State} (h : Keep s0 s) (m : DxpMsg) :
    Keeps s0 (execSwitchBankDisarm m s) := by
  unfold execSwitchBankDisarm
  repeat' first
    | with_reducible assumption | (with_reducible apply onRow_keep) | with_reducible intro _ | (dsimp only) | split
    | (with_reducible apply Keep.kept) | (with_reducible refine Keep.mk (Keep.kept ?_))

theorem execHoldRequest_keep {s0 s : State} (h : Keep s0 s) (m : DxpMsg) :
    Keeps s0 (execHoldRequest m s) := by
  unfold execHoldRequest
  repeat' first
    | with_reducible assumption | (with_reducible apply onRow_keep) | with_reducible intro _ | (dsimp only) | split
    | (with_reducible apply Keep.kept) | (with_reducible refine Keep.mk (Keep.kept ?_))

theorem execRestore_keep {s0 s : State} (h : Keep s0 s) (m : DxpMsg) :
    Keeps s0 (execRestore m s) := by
  unfold execRestore
  repeat' first
    | with_reducible assumption | (with_reducible apply onRow_keep) | with_reducible intro _ | (dsimp only) | split
    | (with_reducible apply Keep.kept) | (with_reducible refine Keep.mk (Keep.kept ?_))

theorem execFreshStart_keep {s0 s : State} (h : Keep s0 s) (m : DxpMsg) :
    Keeps s0 (execFreshStart m s) := by
  unfold execFreshStart
  repeat' first
    | with_reducible assumption | (with_reducible apply onRow_keep) | with_reducible intro _
    | (with_reducible apply State.freshStart_keep) | (dsimp only) | split | (with_reducible apply Keep.kept)
    | (with_reducible refine Keep.mk (Keep.kept ?_))

theorem execBelayRequest_keep {s0 s : State} (h : Keep s0 s) (m : DxpMsg) :
    Keeps s0 (execBelayRequest m s) := by
  unfold execBelayRequest
  repeat' first
    | with_reducible assumption | (with_reducible apply onRow_keep) | with_reducible intro _ | (dsimp only) | split
    | (with_reducible apply Keep.kept) | (with_reducible refine Keep.mk (Keep.kept ?_))

theorem execLsInitWrite_keep {s0 s : State} (h : Keep s0 s) (m : DxpMsg) :
    Keeps s0 (execLsInitWrite m s) := by
  unfold execLsInitWrite
  repeat' first
    | with_reducible assumption | (with_reducible apply onRow_keep) | with_reducible intro _ | (dsimp only) | split
    | (with_reducible apply Keep.kept) | (with_reducible refine Keep.mk (Keep.kept ?_))

theorem execRegroupRequest_keep {s0 s : State} (h : Keep s0 s) (m : DxpMsg) :
    Keeps s0 (execRegroupRequest m s) := by
  unfold execRegroupRequest
  repeat' first
    | with_reducible assumption | (with_reducible apply onRow_keep) | with_reducible intro _ | (dsimp only) | split
    | (with_reducible apply Keep.kept) | (with_reducible refine Keep.mk (Keep.kept ?_))

theorem execDrawTargetWrite_keep {s0 s : State} (h : Keep s0 s) (m : DxpMsg) :
    Keeps s0 (execDrawTargetWrite m s) := by
  unfold execDrawTargetWrite
  repeat' first
    | with_reducible assumption | (with_reducible apply onRow_keep) | with_reducible intro _ | (dsimp only) | split
    | (with_reducible apply Keep.kept) | (with_reducible refine Keep.mk (Keep.kept ?_))

theorem execCampImageWrite_keep {s0 s : State} (h : Keep s0 s) (m : DxpMsg) :
    Keeps s0 (execCampImageWrite m s) := by
  unfold execCampImageWrite
  repeat' first
    | with_reducible assumption | (with_reducible apply onRow_keep) | with_reducible intro _ | (dsimp only) | split
    | (with_reducible apply Keep.kept) | (with_reducible refine Keep.mk (Keep.kept ?_))

theorem execSwitchSlotArm_keep {s0 s : State} (h : Keep s0 s) (m : DxpMsg) :
    Keeps s0 (execSwitchSlotArm m s) := by
  unfold execSwitchSlotArm
  repeat' first
    | with_reducible assumption | (with_reducible apply onRow_keep) | with_reducible intro _ | (dsimp only) | split
    | (with_reducible apply Keep.kept) | (with_reducible refine Keep.mk (Keep.kept ?_))

theorem execSwitchSlotDisarm_keep {s0 s : State} (h : Keep s0 s) (m : DxpMsg) :
    Keeps s0 (execSwitchSlotDisarm m s) := by
  unfold execSwitchSlotDisarm
  repeat' first
    | with_reducible assumption | (with_reducible apply onRow_keep) | with_reducible intro _ | (dsimp only) | split
    | (with_reducible apply Keep.kept) | (with_reducible refine Keep.mk (Keep.kept ?_))

theorem execAttestNonce_keep {s0 s : State} (h : Keep s0 s) (m : DxpMsg) :
    Keeps s0 (execAttestNonce m s) := by
  unfold execAttestNonce
  repeat' first
    | with_reducible assumption | (with_reducible apply onRow_keep) | with_reducible intro _ | (dsimp only) | split
    | (with_reducible apply Keep.kept) | (with_reducible refine Keep.mk (Keep.kept ?_))

theorem execFwStagingWrite_keep {s0 s : State} (h : Keep s0 s) (m : DxpMsg) :
    Keeps s0 (execFwStagingWrite m s) := by
  unfold execFwStagingWrite
  repeat' first
    | with_reducible assumption | (with_reducible apply onRow_keep) | with_reducible intro _ | (dsimp only) | split
    | (with_reducible apply Keep.kept) | (with_reducible refine Keep.mk (Keep.kept ?_))

theorem execFwInstallFirstStage_keep {s0 s : State} (h : Keep s0 s) (m : DxpMsg) :
    Keeps s0 (execFwInstallFirstStage m s) := by
  unfold execFwInstallFirstStage
  repeat' first
    | with_reducible assumption | (with_reducible apply onRow_keep) | with_reducible intro _ | (dsimp only) | split
    | (with_reducible apply Keep.kept) | (with_reducible refine Keep.mk (Keep.kept ?_))

theorem execFwInstallBundle_keep {s0 s : State} (h : Keep s0 s) (m : DxpMsg) :
    Keeps s0 (execFwInstallBundle m s) := by
  unfold execFwInstallBundle
  repeat' first
    | with_reducible assumption | (with_reducible apply onRow_keep) | with_reducible intro _ | (dsimp only) | split
    | (with_reducible apply Keep.kept) | (with_reducible refine Keep.mk (Keep.kept ?_))

theorem execWarmResetRequest_keep {s0 s : State} (h : Keep s0 s) (m : DxpMsg) :
    Keeps s0 (execWarmResetRequest m s) := by
  unfold execWarmResetRequest
  repeat' first
    | with_reducible assumption | (with_reducible apply onRow_keep) | with_reducible intro _
    | (with_reducible apply State.warmReset_keep) | (dsimp only) | split | (with_reducible apply Keep.kept)
    | (with_reducible refine Keep.mk (Keep.kept ?_))

theorem execColdResetRequest_keep {s0 s : State} (h : Keep s0 s) (m : DxpMsg) :
    Keeps s0 (execColdResetRequest m s) := by
  unfold execColdResetRequest
  repeat' first
    | with_reducible assumption | (with_reducible apply onRow_keep) | with_reducible intro _
    | (with_reducible apply State.coldReset_keep) | (dsimp only) | split | (with_reducible apply Keep.kept)
    | (with_reducible refine Keep.mk (Keep.kept ?_))

theorem execSvnCommit_keep {s0 s : State} (h : Keep s0 s) (m : DxpMsg) :
    Keeps s0 (execSvnCommit m s) := by
  unfold execSvnCommit
  repeat' first
    | with_reducible assumption | (with_reducible apply onRow_keep) | with_reducible intro _ | (dsimp only) | split
    | (with_reducible apply Keep.kept) | (with_reducible refine Keep.mk (Keep.kept ?_))

theorem execOperatorKeyWrite_keep {s0 s : State} (h : Keep s0 s) (m : DxpMsg) :
    Keeps s0 (execOperatorKeyWrite m s) := by
  unfold execOperatorKeyWrite
  repeat' first
    | with_reducible assumption | (with_reducible apply onRow_keep) | with_reducible intro _ | (dsimp only) | split
    | (with_reducible apply Keep.kept) | (with_reducible refine Keep.mk (Keep.kept ?_))

theorem execMboxDoorbell_keep {s0 s : State} (h : Keep s0 s) (msg : List Byte) (value : BitVec 32) :
    Keeps s0 (execMboxDoorbell msg value s) := by
  unfold execMboxDoorbell
  repeat' first
    | with_reducible assumption | (with_reducible apply act_keep) | with_reducible intro _
    | (with_reducible apply Keep.ite) | (with_reducible apply State.setHost_keep)
    | (with_reducible apply State.take_keep) | (with_reducible apply State.arrive_keep) | (dsimp only) | split
    | (with_reducible apply Keep.kept) | (with_reducible refine Keep.mk (Keep.kept ?_))

theorem State.receiveDxp_keep {s0 s : State} (h : Keep s0 s) (f : RopeFrame) :
    Keep s0 (State.receiveDxp s f) := by
  unfold State.receiveDxp
  repeat' first
    | with_reducible assumption | with_reducible intro _ | (with_reducible apply Keep.ite)
    | (with_reducible apply KeepsOpt.none) | (with_reducible apply KeepsOpt.some)
    | (with_reducible apply KeepsOpt.ite) | (with_reducible apply State.receiveFrame_keep)
    | (with_reducible apply State.arrive_keep) | (dsimp only) | split | (with_reducible apply Keep.kept)
    | (with_reducible refine Keep.mk (Keep.kept ?_))

theorem execDxpFrame_keep {s0 s : State} (h : Keep s0 s) (f : RopeFrame) :
    Keeps s0 (execDxpFrame f s) := by
  unfold execDxpFrame
  repeat' first
    | with_reducible assumption | (with_reducible apply act_keep) | with_reducible intro _
    | (with_reducible apply State.atGateway_keep) | (with_reducible apply State.receiveDxp_keep) | (dsimp only)
    | split | (with_reducible apply Keep.kept) | (with_reducible refine Keep.mk (Keep.kept ?_))

theorem State.receiveRope_keep {s0 s : State} (h : Keep s0 s) (f : RopeFrame) :
    Keep s0 (State.receiveRope s f) := by
  unfold State.receiveRope
  repeat' first
    | with_reducible assumption | with_reducible intro _ | (with_reducible apply State.takeAccept_keep)
    | (with_reducible apply State.receiveRekey_keep) | (with_reducible apply State.receiveRekeyAck_keep)
    | (with_reducible apply State.receiveProbe_keep) | (with_reducible apply State.receiveSack_keep)
    | (with_reducible apply State.receiveDelta_keep) | (with_reducible apply State.receiveInfo_keep)
    | (with_reducible apply State.receiveRegroup_keep) | (with_reducible apply State.receiveOpen_keep)
    | (with_reducible apply State.receiveBelay_keep) | (with_reducible apply State.receiveDxp_keep) | (dsimp only)
    | split | (with_reducible apply Keep.kept) | (with_reducible refine Keep.mk (Keep.kept ?_))

theorem execRopeFrame_keep {s0 s : State} (h : Keep s0 s) (p : Packet) :
    Keeps s0 (execRopeFrame p s) := by
  unfold execRopeFrame
  repeat' first
    | with_reducible assumption | (with_reducible apply act_keep) | with_reducible intro _
    | (with_reducible apply Keep.ite) | (with_reducible apply State.portSend_keep)
    | (with_reducible apply State.atGateway_keep) | (with_reducible apply State.receiveRope_keep) | (dsimp only)
    | split | (with_reducible apply Keep.kept) | (with_reducible refine Keep.mk (Keep.kept ?_))

end Sys2Proof.Machine
end

