-- ==== Sys2Proof/Laws/KeepBoot.lean ====
section
/-!
SUPPORT. What the operations of Machine/Boot.lean keep (Laws/Keep.lean).
-/

namespace Sys2Proof.Machine

theorem State.stageEnds_keep {s0 s : State} (h : Keep s0 s) (stage reported : Nat) :
    Keep s0 (State.stageEnds s stage reported) := by
  unfold State.stageEnds
  repeat' first
    | with_reducible assumption | with_reducible intro _ | (with_reducible apply State.setObj_keep)
    | (with_reducible apply State.log_keep) | (with_reducible apply State.setBoot_keep) | with_reducible rfl
    | (dsimp only) | split | (with_reducible apply Keep.kept) | (with_reducible refine Keep.mk (Keep.kept ?_))

theorem State.bootFails_keep {s0 s : State} (h : Keep s0 s)  :
    Keep s0 (State.bootFails s) := by
  unfold State.bootFails
  repeat' first
    | with_reducible assumption | with_reducible intro _ | (with_reducible apply State.alerting_keep)
    | (with_reducible apply State.setBoot_keep) | with_reducible rfl | (dsimp only) | split
    | (with_reducible apply Keep.kept) | (with_reducible refine Keep.mk (Keep.kept ?_))

theorem State.verifySlot_keep {s0 s : State} (h : Keep s0 s) (bundle : Bool) (slot : Nat) :
    Keep s0 (State.verifySlot s bundle slot).2 := by
  unfold State.verifySlot
  repeat' first
    | with_reducible assumption | with_reducible intro _ | (with_reducible apply Keep.ite)
    | (with_reducible apply Keep.ite2) | (with_reducible apply State.log_keep) | (dsimp only) | split
    | (with_reducible apply Keep.kept) | (with_reducible refine Keep.mk (Keep.kept ?_))

theorem State.runFirstStage_keep {s0 s : State} (h : Keep s0 s) (slot : Nat) :
    Keep s0 (State.runFirstStage s slot) := by
  unfold State.runFirstStage
  repeat' first
    | with_reducible assumption | with_reducible intro _ | (with_reducible apply State.setBoot_keep)
    | (with_reducible apply State.extendImage_keep) | with_reducible rfl | decide | (dsimp only) | split
    | (with_reducible apply Keep.kept) | (with_reducible refine Keep.mk (Keep.kept ?_))

theorem State.otherFirstStage_keep {s0 s : State} (h : Keep s0 s) (slot : Nat) :
    Keep s0 (State.otherFirstStage s slot) := by
  unfold State.otherFirstStage
  repeat' first
    | with_reducible assumption | with_reducible intro _ | (with_reducible apply State.log_keep)
    | (with_reducible apply State.bootFails_keep) | (with_reducible apply State.verifySlot_keep)
    | (with_reducible apply State.runFirstStage_keep) | (with_reducible refine Keep.snd ?_ (by assumption))
    | (dsimp only) | split | (with_reducible apply Keep.kept) | (with_reducible refine Keep.mk (Keep.kept ?_))

theorem execRomBootStage_keep {s0 s : State} (h : Keep s0 s)  :
    Keeps s0 (execRomBootStage s) := by
  unfold execRomBootStage
  repeat' first
    | with_reducible assumption | (with_reducible apply act_keep) | with_reducible intro _
    | (with_reducible apply Keep.ite) | (with_reducible apply State.on_keep)
    | (with_reducible apply State.count_keep) | (with_reducible apply State.setBoot_keep)
    | (with_reducible apply State.stageEnds_keep) | (with_reducible apply State.verifySlot_keep)
    | (with_reducible apply State.runFirstStage_keep) | (with_reducible apply State.otherFirstStage_keep)
    | (with_reducible refine Keep.snd ?_ (by assumption)) | with_reducible rfl | (dsimp only) | split
    | (with_reducible apply Keep.kept) | (with_reducible refine Keep.mk (Keep.kept ?_))

theorem State.loadBundle_keep {s0 s : State} (h : Keep s0 s) (slot : Nat) :
    Keep s0 (State.loadBundle s slot) := by
  unfold State.loadBundle
  repeat' first
    | with_reducible assumption | with_reducible intro _ | (with_reducible apply State.setBoot_keep)
    | (with_reducible apply State.clearMeasure_keep) | (with_reducible apply State.extendImage_keep)
    | (with_reducible apply State.bootFails_keep) | (with_reducible apply State.verifySlot_keep)
    | (with_reducible refine Keep.snd ?_ (by assumption)) | with_reducible rfl | decide | (dsimp only) | split
    | (with_reducible apply Keep.kept) | (with_reducible refine Keep.mk (Keep.kept ?_))

theorem State.measure_keep {s0 s : State} (h : Keep s0 s) {r : Nat} (hr : r ≠ 7) (item : Nat) (bs : List Byte) :
    Keep s0 (State.measure s r item bs) :=
  State.extend_keep h hr _ _

theorem State.latchModes_keep {s0 s : State} (h : Keep s0 s)  :
    Keep s0 (State.latchModes s) := by
  unfold State.latchModes
  repeat' first
    | with_reducible assumption | with_reducible intro _ | (with_reducible apply Keep.ite)
    | (with_reducible apply State.writeBytes_keep) | (with_reducible apply State.each_keep)
    | (with_reducible apply State.setMem_keep) | (dsimp only) | split | (with_reducible apply Keep.kept)
    | (with_reducible refine Keep.mk (Keep.kept ?_))

theorem State.loadShadow_keep {s0 s : State} (h : Keep s0 s)  :
    Keep s0 (State.loadShadow s) := by
  unfold State.loadShadow
  repeat' first
    | with_reducible assumption | with_reducible intro _ | (with_reducible apply State.on_keep)
    | (with_reducible apply State.setObj_keep) | (with_reducible apply State.setTime_keep)
    | (with_reducible apply State.startRoot_keep) | (with_reducible apply State.loadCamp_keep)
    | (with_reducible apply State.clearMeasure_keep) | (with_reducible apply State.measure_keep)
    | (with_reducible apply State.latchModes_keep) | decide | (dsimp only) | split
    | (with_reducible apply Keep.kept) | (with_reducible refine Keep.mk (Keep.kept ?_))

theorem execFirstBootStage_keep {s0 s : State} (h : Keep s0 s) (failed : List PseudoChan) :
    Keeps s0 (execFirstBootStage failed s) := by
  unfold execFirstBootStage
  repeat' first
    | with_reducible assumption | (with_reducible apply act_keep) | with_reducible intro _
    | (with_reducible apply Keep.ite) | (with_reducible apply State.on_keep)
    | (with_reducible apply State.count_keep) | (with_reducible apply State.log_keep)
    | (with_reducible apply State.each_keep) | (with_reducible apply State.trainStack_keep)
    | (with_reducible apply State.setBoot_keep) | (with_reducible apply State.stageEnds_keep)
    | (with_reducible apply State.bootFails_keep) | (with_reducible apply State.loadBundle_keep)
    | (with_reducible apply State.loadShadow_keep) | with_reducible rfl | (dsimp only) | split
    | (with_reducible apply Keep.kept) | (with_reducible refine Keep.mk (Keep.kept ?_))

theorem execLinksAndTimeStage_keep {s0 s : State} (h : Keep s0 s)  :
    Keeps s0 (execLinksAndTimeStage s) := by
  unfold execLinksAndTimeStage
  repeat' first
    | with_reducible assumption | (with_reducible apply act_keep) | with_reducible intro _
    | (with_reducible apply Keep.ite) | (with_reducible apply State.stageEnds_keep) | (dsimp only) | split
    | (with_reducible apply Keep.kept) | (with_reducible refine Keep.mk (Keep.kept ?_))

theorem State.applyRetirements_keep {s0 s : State} (h : Keep s0 s)  :
    Keep s0 (State.applyRetirements s) := by
  unfold State.applyRetirements
  repeat' first
    | with_reducible assumption | with_reducible intro _ | (with_reducible apply Keep.ite)
    | (with_reducible apply State.each_keep) | (with_reducible apply State.setMem_keep)
    | (with_reducible apply State.setPc_keep) | (with_reducible apply Keep.foldl)
    | (with_reducible apply Keep.foldl1) | (with_reducible apply Keep.foldl2) | (dsimp only) | split
    | (with_reducible apply Keep.kept) | (with_reducible refine Keep.mk (Keep.kept ?_))

theorem State.becomeReady_keep {s0 s : State} (h : Keep s0 s)  :
    Keep s0 (State.becomeReady s) := by
  unfold State.becomeReady
  repeat' first
    | with_reducible assumption | with_reducible intro _ | (with_reducible apply State.on_keep)
    | (with_reducible apply State.setObj_keep) | (with_reducible apply State.alerting_keep)
    | (with_reducible apply State.setBoot_keep) | with_reducible rfl | (dsimp only) | split
    | (with_reducible apply Keep.kept) | (with_reducible refine Keep.mk (Keep.kept ?_))

theorem execMemoryBootStage_keep {s0 s : State} (h : Keep s0 s) (failed : List PseudoChan) :
    Keeps s0 (execMemoryBootStage failed s) := by
  unfold execMemoryBootStage
  repeat' first
    | with_reducible assumption | (with_reducible apply act_keep) | with_reducible intro _
    | (with_reducible apply Keep.ite) | (with_reducible apply State.on_keep)
    | (with_reducible apply State.each_keep) | (with_reducible apply State.outOfService_keep)
    | (with_reducible apply State.trainStack_keep) | (with_reducible apply State.clearMeasure_keep)
    | (with_reducible apply State.stageEnds_keep) | (with_reducible apply State.measure_keep)
    | (with_reducible apply State.applyRetirements_keep) | (with_reducible apply State.becomeReady_keep) | decide
    | (dsimp only) | split | (with_reducible apply Keep.kept) | (with_reducible refine Keep.mk (Keep.kept ?_))

theorem execFirstStageTimeout_keep {s0 s : State} (h : Keep s0 s)  :
    Keeps s0 (execFirstStageTimeout s) := by
  unfold execFirstStageTimeout
  repeat' first
    | with_reducible assumption | (with_reducible apply act_keep) | with_reducible intro _
    | (with_reducible apply Keep.ite) | (with_reducible apply State.setBoot_keep)
    | (with_reducible apply State.bootFails_keep) | (with_reducible apply State.otherFirstStage_keep)
    | with_reducible rfl | (dsimp only) | split | (with_reducible apply Keep.kept)
    | (with_reducible refine Keep.mk (Keep.kept ?_))

theorem execTrialBundleTimeout_keep {s0 s : State} (h : Keep s0 s)  :
    Keeps s0 (execTrialBundleTimeout s) := by
  unfold execTrialBundleTimeout
  repeat' first
    | with_reducible assumption | (with_reducible apply act_keep) | with_reducible intro _
    | (with_reducible apply Keep.ite) | (with_reducible apply State.setBoot_keep) | with_reducible rfl
    | (dsimp only) | split | (with_reducible apply Keep.kept) | (with_reducible refine Keep.mk (Keep.kept ?_))

theorem execPerstDeassert_keep {s0 s : State} (h : Keep s0 s)  :
    Keeps s0 (execPerstDeassert s) := by
  unfold execPerstDeassert
  repeat' first
    | with_reducible assumption | (with_reducible apply act_keep) | with_reducible intro _
    | (with_reducible apply State.setHost_keep) | (dsimp only) | split | (with_reducible apply Keep.kept)
    | (with_reducible refine Keep.mk (Keep.kept ?_))

theorem State.linksDown_keep {s0 s : State} (h : Keep s0 s)  :
    Keep s0 (State.linksDown s) := by
  unfold State.linksDown
  repeat' first
    | with_reducible assumption | with_reducible intro _ | (with_reducible apply Keep.ite)
    | (with_reducible apply State.setObj_keep) | (with_reducible apply State.each_keep) | (dsimp only) | split
    | (with_reducible apply Keep.kept) | (with_reducible refine Keep.mk (Keep.kept ?_))

theorem State.warmReset_keep {s0 s : State} (h : Keep s0 s) : Keep s0 (State.warmReset s) := by
  unfold State.warmReset
  have h1 := State.flushBreaks_keep (State.releaseHolds_keep h 0xA000)
  generalize (s.releaseHolds 0xA000).flushBreaks = a at h1 ⊢
  have h2 := State.clearCores_keep (State.disarmBankSwitch_keep (State.disarmCamp_keep
    (State.on_keep h1 a.training State.endSweep fun u hu => State.endSweep_keep hu)))
  dsimp only
  generalize (a.on a.training State.endSweep).disarmCamp.disarmBankSwitch.clearCores = b at h2 ⊢
  refine State.linksDown_keep (State.setBoot_keep (State.each_keep_of_mem (Keep.mkF h2.kept.mailboxes_nil)
    _ _ ?_) _ (fun _ => rfl) (fun _ => rfl) fun _ => rfl)
  intro u x hx hu
  refine State.clearMeasure_keep hu ?_
  rintro rfl
  exact absurd hx (by decide)

theorem execModuleWarmReset_keep {s0 s : State} (h : Keep s0 s)  :
    Keeps s0 (execModuleWarmReset s) := by
  unfold execModuleWarmReset
  repeat' first
    | with_reducible assumption | (with_reducible apply act_keep) | with_reducible intro _
    | (with_reducible apply Keep.ite) | (with_reducible apply State.alerting_keep)
    | (with_reducible apply State.warmReset_keep) | (dsimp only) | split | (with_reducible apply Keep.kept)
    | (with_reducible refine Keep.mk (Keep.kept ?_))

theorem State.coldReset_keep {s0 s : State} (h : Keep s0 s)  :
    Keep s0 (State.coldReset s) := by
  unfold State.coldReset
  repeat' first
    | with_reducible assumption | with_reducible intro _ | (with_reducible apply State.setObj_keep)
    | (with_reducible apply State.releaseHolds_keep) | (with_reducible apply State.flushBreaks_keep)
    | (with_reducible apply State.streamAll_keep) | (with_reducible apply State.flashOnly_keep)
    | (with_reducible apply State.disarmCamp_keep) | (dsimp only) | split | (with_reducible apply Keep.kept)
    | (with_reducible refine Keep.mk (Keep.kept ?_))

theorem execModuleColdReset_keep {s0 s : State} (h : Keep s0 s)  :
    Keeps s0 (execModuleColdReset s) := by
  unfold execModuleColdReset
  repeat' first
    | with_reducible assumption | (with_reducible apply act_keep) | with_reducible intro _
    | (with_reducible apply Keep.ite) | (with_reducible apply State.coldReset_keep) | (dsimp only) | split
    | (with_reducible apply Keep.kept) | (with_reducible refine Keep.mk (Keep.kept ?_))

theorem overwrite_eq (m : Memory) (ws : List (Nat × Byte)) (f : Nat → Bool) :
    overwrite m ws f = (ws.filter fun w => f w.1).foldl (fun m w => Tbl.set 0 m w.1 w.2) m := rfl

theorem State.loseStores_keep {s0 s : State} (h : Keep s0 s) (d : Nat) : Keep s0 (State.loseStores s d) := by
  unfold State.loseStores
  dsimp only
  rw [overwrite_eq, overwrite_eq]
  exact Keep.mk (((State.draw_keep h).kept.stores_cells _ _ _).maps_cells _ _ _)

theorem State.enginesDown_keep {s0 s : State} (h : Keep s0 s) (d : Nat) :
    Keep s0 (State.enginesDown s d) := by
  unfold State.enginesDown
  repeat' first
    | with_reducible assumption | with_reducible intro _ | (with_reducible apply State.each_keep)
    | (with_reducible apply State.setEngineSt_keep) | (dsimp only) | split | (with_reducible apply Keep.kept)
    | (with_reducible refine Keep.mk (Keep.kept ?_))

theorem State.dieReset_keep {s0 s : State} (h : Keep s0 s) (d cause : Nat) :
    Keep s0 (State.dieReset s d cause) := by
  unfold State.dieReset
  repeat' first
    | with_reducible assumption | with_reducible intro _ | (with_reducible apply State.log_keep)
    | (with_reducible apply State.setCore_keep) | (with_reducible apply State.setDie_keep)
    | (with_reducible apply State.each_keep) | (with_reducible apply State.releaseHolds_keep)
    | (with_reducible apply State.moverReset_keep) | (with_reducible apply State.coreReset_keep)
    | (with_reducible apply State.setFaults_keep) | (with_reducible apply State.loseStores_keep)
    | (with_reducible apply State.enginesDown_keep) | with_reducible rfl | (dsimp only) | split
    | (with_reducible apply Keep.kept) | (with_reducible refine Keep.mk (Keep.kept ?_))

theorem execDieControllerFault_keep {s0 s : State} (h : Keep s0 s) (die : Die) :
    Keeps s0 (execDieControllerFault die s) := by
  unfold execDieControllerFault
  repeat' first
    | with_reducible assumption | (with_reducible apply act_keep) | with_reducible intro _
    | (with_reducible apply Keep.ite) | (with_reducible apply State.faultCount_keep)
    | (with_reducible apply State.jobFail_keep) | (with_reducible apply State.countedReset_keep)
    | (with_reducible apply State.dieReset_keep) | (dsimp only) | split | (with_reducible apply Keep.kept)
    | (with_reducible refine Keep.mk (Keep.kept ?_))

theorem execDieResetComplete_keep {s0 s : State} (h : Keep s0 s) (die : Fin 6) (ok : Bool) :
    Keeps s0 (execDieResetComplete die ok s) := by
  unfold execDieResetComplete
  repeat' first
    | with_reducible assumption | (with_reducible apply act_keep) | with_reducible intro _
    | (with_reducible apply Keep.ite) | (with_reducible apply State.on_keep)
    | (with_reducible apply State.each_keep) | (with_reducible apply State.outOfService_keep)
    | (with_reducible apply State.setFaults_keep) | (with_reducible apply State.setEngineSt_keep)
    | (with_reducible apply State.ok_keep) | (with_reducible apply State.resumeSweeps_keep)
    | (with_reducible refine Keep.fst ?_ (by assumption)) | with_reducible rfl | (dsimp only) | split
    | (with_reducible apply Keep.kept) | (with_reducible refine Keep.mk (Keep.kept ?_))

theorem State.firmwareLost_keep {s0 s : State} (h : Keep s0 s)  :
    Keep s0 (State.firmwareLost s) := by
  unfold State.firmwareLost
  repeat' first
    | with_reducible assumption | with_reducible intro _ | (with_reducible apply State.each_keep)
    | (with_reducible apply State.setTrain_keep) | (with_reducible apply State.setDict_keep)
    | (with_reducible apply State.setHost_keep) | (with_reducible apply State.closeSession_keep)
    | (with_reducible apply State.disarmCamp_keep) | (with_reducible apply State.setBoot_keep) | with_reducible rfl
    | (dsimp only) | split | (with_reducible apply Keep.kept) | (with_reducible refine Keep.mk (Keep.kept ?_))

theorem State.holdForever_keep {s0 s : State} (h : Keep s0 s) (cause : Nat) :
    Keep s0 (State.holdForever s cause) := by
  unfold State.holdForever
  repeat' first
    | with_reducible assumption | with_reducible intro _ | (with_reducible apply State.setHold_keep)
    | (with_reducible apply State.originateHold_keep) | (with_reducible refine Keep.snd ?_ (by assumption))
    | (dsimp only) | split | (with_reducible apply Keep.kept) | (with_reducible refine Keep.mk (Keep.kept ?_))

theorem execWatchdogExpire_keep {s0 s : State} (h : Keep s0 s) (die : HDie) :
    Keeps s0 (execWatchdogExpire die s) := by
  unfold execWatchdogExpire
  repeat' first
    | with_reducible assumption | (with_reducible apply act_keep) | with_reducible intro _
    | (with_reducible apply Keep.ite) | (with_reducible apply State.on_keep)
    | (with_reducible apply State.count_keep) | (with_reducible apply State.log_keep)
    | (with_reducible apply State.faultCount_keep) | (with_reducible apply State.jobFail_keep)
    | (with_reducible apply State.countedReset_keep) | (with_reducible apply State.releaseHolds_keep)
    | (with_reducible apply State.setFaults_keep) | (with_reducible apply State.firmwareLost_keep)
    | (with_reducible apply State.holdForever_keep) | with_reducible rfl | (dsimp only) | split
    | (with_reducible apply Keep.kept) | (with_reducible refine Keep.mk (Keep.kept ?_))

theorem execMpRestartComplete_keep {s0 s : State} (h : Keep s0 s) (die : HDie) :
    Keeps s0 (execMpRestartComplete die s) := by
  unfold execMpRestartComplete
  repeat' first
    | with_reducible assumption | (with_reducible apply act_keep) | with_reducible intro _
    | (with_reducible apply Keep.ite) | (with_reducible apply State.on_keep)
    | (with_reducible apply State.setFaults_keep) | (with_reducible apply State.setHost_keep) | with_reducible rfl
    | (dsimp only) | split | (with_reducible apply Keep.kept) | (with_reducible refine Keep.mk (Keep.kept ?_))

end Sys2Proof.Machine
end

