-- ==== Sys2Proof/Laws/KeepSmbus.lean ====
section
/-!
SUPPORT. What the operations of Machine/Smbus.lean keep (Laws/Keep.lean).
-/

namespace Sys2Proof.Machine

theorem State.smbusAnswer_keep {s0 s : State} (h : Keep s0 s) (data : List Byte) :
    Keep s0 (State.smbusAnswer s data) := by
  unfold State.smbusAnswer
  repeat' first
    | with_reducible assumption | with_reducible intro _ | (with_reducible apply State.emit_keep)
    | (with_reducible apply State.on_keep) | (dsimp only) | split | (with_reducible apply Keep.kept)
    | (with_reducible refine Keep.mk (Keep.kept ?_))

theorem execReadVin_keep {s0 s : State} (h : Keep s0 s)  :
    Keeps s0 (execReadVin s) := by
  unfold execReadVin
  repeat' first
    | with_reducible assumption | (with_reducible apply act_keep) | with_reducible intro _
    | (with_reducible apply State.smbusAnswer_keep) | (dsimp only) | split | (with_reducible apply Keep.kept)
    | (with_reducible refine Keep.mk (Keep.kept ?_))

theorem execReadIin_keep {s0 s : State} (h : Keep s0 s)  :
    Keeps s0 (execReadIin s) := by
  unfold execReadIin
  repeat' first
    | with_reducible assumption | (with_reducible apply act_keep) | with_reducible intro _
    | (with_reducible apply State.smbusAnswer_keep) | (dsimp only) | split | (with_reducible apply Keep.kept)
    | (with_reducible refine Keep.mk (Keep.kept ?_))

theorem execReadTemperature1_keep {s0 s : State} (h : Keep s0 s)  :
    Keeps s0 (execReadTemperature1 s) := by
  unfold execReadTemperature1
  repeat' first
    | with_reducible assumption | (with_reducible apply act_keep) | with_reducible intro _
    | (with_reducible apply State.smbusAnswer_keep) | (dsimp only) | split | (with_reducible apply Keep.kept)
    | (with_reducible refine Keep.mk (Keep.kept ?_))

theorem execReadTemperature2_keep {s0 s : State} (h : Keep s0 s)  :
    Keeps s0 (execReadTemperature2 s) := by
  unfold execReadTemperature2
  repeat' first
    | with_reducible assumption | (with_reducible apply act_keep) | with_reducible intro _
    | (with_reducible apply State.smbusAnswer_keep) | (dsimp only) | split | (with_reducible apply Keep.kept)
    | (with_reducible refine Keep.mk (Keep.kept ?_))

theorem execReadTemperature3_keep {s0 s : State} (h : Keep s0 s)  :
    Keeps s0 (execReadTemperature3 s) := by
  unfold execReadTemperature3
  repeat' first
    | with_reducible assumption | (with_reducible apply act_keep) | with_reducible intro _
    | (with_reducible apply State.smbusAnswer_keep) | (dsimp only) | split | (with_reducible apply Keep.kept)
    | (with_reducible refine Keep.mk (Keep.kept ?_))

theorem execReadPin_keep {s0 s : State} (h : Keep s0 s)  :
    Keeps s0 (execReadPin s) := by
  unfold execReadPin
  repeat' first
    | with_reducible assumption | (with_reducible apply act_keep) | with_reducible intro _
    | (with_reducible apply State.smbusAnswer_keep) | (dsimp only) | split | (with_reducible apply Keep.kept)
    | (with_reducible refine Keep.mk (Keep.kept ?_))

theorem execPmbusRevision_keep {s0 s : State} (h : Keep s0 s)  :
    Keeps s0 (execPmbusRevision s) := by
  unfold execPmbusRevision
  repeat' first
    | with_reducible assumption | (with_reducible apply act_keep) | with_reducible intro _
    | (with_reducible apply State.smbusAnswer_keep) | (dsimp only) | split | (with_reducible apply Keep.kept)
    | (with_reducible refine Keep.mk (Keep.kept ?_))

theorem execMfrStatus_keep {s0 s : State} (h : Keep s0 s)  :
    Keeps s0 (execMfrStatus s) := by
  unfold execMfrStatus
  repeat' first
    | with_reducible assumption | (with_reducible apply act_keep) | with_reducible intro _
    | (with_reducible apply State.smbusAnswer_keep) | (dsimp only) | split | (with_reducible apply Keep.kept)
    | (with_reducible refine Keep.mk (Keep.kept ?_))

theorem execMfrState_keep {s0 s : State} (h : Keep s0 s)  :
    Keeps s0 (execMfrState s) := by
  unfold execMfrState
  repeat' first
    | with_reducible assumption | (with_reducible apply act_keep) | with_reducible intro _
    | (with_reducible apply State.smbusAnswer_keep) | (dsimp only) | split | (with_reducible apply Keep.kept)
    | (with_reducible refine Keep.mk (Keep.kept ?_))

theorem execMfrCause_keep {s0 s : State} (h : Keep s0 s)  :
    Keeps s0 (execMfrCause s) := by
  unfold execMfrCause
  repeat' first
    | with_reducible assumption | (with_reducible apply act_keep) | with_reducible intro _
    | (with_reducible apply State.smbusAnswer_keep) | (dsimp only) | split | (with_reducible apply Keep.kept)
    | (with_reducible refine Keep.mk (Keep.kept ?_))

theorem execMfrModule_keep {s0 s : State} (h : Keep s0 s)  :
    Keeps s0 (execMfrModule s) := by
  unfold execMfrModule
  repeat' first
    | with_reducible assumption | (with_reducible apply act_keep) | with_reducible intro _
    | (with_reducible apply State.smbusAnswer_keep) | (dsimp only) | split | (with_reducible apply Keep.kept)
    | (with_reducible refine Keep.mk (Keep.kept ?_))

theorem execMfrSerial_keep {s0 s : State} (h : Keep s0 s)  :
    Keeps s0 (execMfrSerial s) := by
  unfold execMfrSerial
  repeat' first
    | with_reducible assumption | (with_reducible apply act_keep) | with_reducible intro _
    | (with_reducible apply State.smbusAnswer_keep) | (dsimp only) | split | (with_reducible apply Keep.kept)
    | (with_reducible refine Keep.mk (Keep.kept ?_))

theorem execMfrEnergy_keep {s0 s : State} (h : Keep s0 s)  :
    Keeps s0 (execMfrEnergy s) := by
  unfold execMfrEnergy
  repeat' first
    | with_reducible assumption | (with_reducible apply act_keep) | with_reducible intro _
    | (with_reducible apply State.smbusAnswer_keep) | (dsimp only) | split | (with_reducible apply Keep.kept)
    | (with_reducible refine Keep.mk (Keep.kept ?_))

theorem execSmbusInvalid_keep {s0 s : State} (h : Keep s0 s) (code : BitVec 8) (write : Bool) :
    Keeps s0 (execSmbusInvalid code write s) := by
  unfold execSmbusInvalid
  repeat' first
    | with_reducible assumption | (with_reducible apply act_keep) | with_reducible intro _
    | (with_reducible apply State.emit_keep) | (with_reducible apply State.on_keep)
    | (with_reducible apply State.write_keep) | (dsimp only) | split | (with_reducible apply Keep.kept)
    | (with_reducible refine Keep.mk (Keep.kept ?_))

theorem execAlertResponse_keep {s0 s : State} (h : Keep s0 s)  :
    Keeps s0 (execAlertResponse s) := by
  unfold execAlertResponse
  repeat' first
    | with_reducible assumption | (with_reducible apply act_keep) | with_reducible intro _
    | (with_reducible apply Keep.ite) | (with_reducible apply State.emit_keep)
    | (with_reducible apply State.on_keep) | (with_reducible apply State.setBoot_keep)
    | (with_reducible apply State.smbusAnswer_keep) | with_reducible rfl | (dsimp only) | split
    | (with_reducible apply Keep.kept) | (with_reducible refine Keep.mk (Keep.kept ?_))

end Sys2Proof.Machine
end

