-- ==== Sys2Proof/Laws/KeepHostRing.lean ====
section
/-!
SUPPORT. What the operations of Machine/HostRing.lean keep (Laws/Keep.lean).
-/

namespace Sys2Proof.Machine

theorem State.complete_keep {s0 s : State} (h : Keep s0 s) (e status : Nat) (words : List Nat) :
    Keep s0 (State.complete s e status words) := by
  unfold State.complete
  repeat' first
    | with_reducible assumption | with_reducible intro _ | (with_reducible apply Keep.ite)
    | (with_reducible apply State.on_keep) | (with_reducible apply State.log_keep)
    | (with_reducible apply State.interrupt_keep) | (with_reducible apply State.setHost_keep) | (dsimp only)
    | split | (with_reducible apply Keep.kept) | (with_reducible refine Keep.mk (Keep.kept ?_))

theorem State.done_keep {s0 s : State} (h : Keep s0 s)  :
    Keep s0 (State.done s).2.2 := by
  unfold State.done
  repeat' first
    | with_reducible assumption | with_reducible intro _ | (dsimp only) | split | (with_reducible apply Keep.kept)
    | (with_reducible refine Keep.mk (Keep.kept ?_))

theorem State.fails_keep {s0 s : State} (h : Keep s0 s) (status : Nat) (word : Nat) :
    Keep s0 (State.fails s status word).2.2 := by
  unfold State.fails
  repeat' first
    | with_reducible assumption | with_reducible intro _ | (dsimp only) | split | (with_reducible apply Keep.kept)
    | (with_reducible refine Keep.mk (Keep.kept ?_))

theorem State.mpUp_keep {s0 s : State} (h : Keep s0 s)  :
    Keep s0 (State.mpUp s) := by
  unfold State.mpUp
  repeat' first
    | with_reducible assumption | with_reducible intro _ | (with_reducible apply Keep.ite)
    | (with_reducible apply State.setFaults_keep) | (with_reducible apply State.setHost_keep) | with_reducible rfl
    | (dsimp only) | split | (with_reducible apply Keep.kept) | (with_reducible refine Keep.mk (Keep.kept ?_))

theorem State.takeEntry_keep {s0 s : State} (h : Keep s0 s) (e : BitVec 512) :
    Keep s0 (State.takeEntry s e) := by
  unfold State.takeEntry
  repeat' first
    | with_reducible assumption | with_reducible intro _ | (with_reducible apply Keep.ite)
    | (with_reducible apply State.setHost_keep) | (dsimp only) | split | (with_reducible apply Keep.kept)
    | (with_reducible refine Keep.mk (Keep.kept ?_))

theorem hostCommand_keep {s0 s : State} (h : Keep s0 s) (opcode : Nat) (e : BitVec 512) (run : Nat → State → Result)
      (hrun : ∀ x0 u, Keep s0 u → Keep s0 (run x0 u).2.2) :
    Keeps s0 (hostCommand opcode e run s) := by
  unfold hostCommand
  repeat' first
    | with_reducible assumption | (with_reducible apply act_keep) | with_reducible intro _
    | (with_reducible apply Keep.ite) | (with_reducible apply hrun) | (with_reducible apply State.streamAll_keep)
    | (with_reducible apply State.complete_keep) | (with_reducible apply State.mpUp_keep)
    | (with_reducible apply State.takeEntry_keep) | (dsimp only) | split | (with_reducible apply Keep.kept)
    | (with_reducible refine Keep.mk (Keep.kept ?_))

theorem State.fetchArg_keep {s0 s : State} (h : Keep s0 s) (a n : Nat) (f : List Byte → Result)
    (hf : ∀ bs, Keep s0 (f bs).2.2) : Keep s0 (State.fetchArg s a n f).2.2 := by
  unfold State.fetchArg
  refine Keep.ite22 (State.fails_keep h _ _) (Keep.ite22 (State.fails_keep (State.readPoison_keep h _ _) _ _) (hf _))

theorem State.bar2Blocked_keep {s0 s : State} (h : Keep s0 s) (a : Nat) :
    Keep s0 (State.bar2Blocked s a) := by
  unfold State.bar2Blocked
  repeat' first
    | with_reducible assumption | with_reducible intro _ | (with_reducible apply State.count_keep)
    | (with_reducible apply State.log_keep) | (dsimp only) | split | (with_reducible apply Keep.kept)
    | (with_reducible refine Keep.mk (Keep.kept ?_))

theorem execBar2Read_keep {s0 s : State} (h : Keep s0 s) (offset : BitVec 41) (len : Nat) :
    Keeps s0 (execBar2Read offset len s) := by
  unfold execBar2Read
  repeat' first
    | with_reducible assumption | (with_reducible apply act_keep) | with_reducible intro _
    | (with_reducible apply Keep.ite) | (with_reducible apply State.draw_keep)
    | (with_reducible apply State.emit_keep) | (with_reducible apply State.readPoison_keep)
    | (with_reducible apply State.bar2Blocked_keep) | (with_reducible refine Keep.snd ?_ (by assumption))
    | (dsimp only) | split | (with_reducible apply Keep.kept) | (with_reducible refine Keep.mk (Keep.kept ?_))

theorem execBar2Write_keep {s0 s : State} (h : Keep s0 s) (offset : BitVec 41) (data : List Byte) :
    Keeps s0 (execBar2Write offset data s) := by
  unfold execBar2Write
  repeat' first
    | with_reducible assumption | (with_reducible apply act_keep) | with_reducible intro _
    | (with_reducible apply Keep.ite) | (with_reducible apply State.write_keep)
    | (with_reducible apply State.bar2Blocked_keep) | (dsimp only) | split | (with_reducible apply Keep.kept)
    | (with_reducible refine Keep.mk (Keep.kept ?_))

theorem execHostFunctionReset_keep {s0 s : State} (h : Keep s0 s)  :
    Keeps s0 (execHostFunctionReset s) := by
  unfold execHostFunctionReset
  repeat' first
    | with_reducible assumption | (with_reducible apply act_keep) | with_reducible intro _
    | (with_reducible apply Keep.ite) | (with_reducible apply State.log_keep)
    | (with_reducible apply State.each_keep) | (with_reducible apply State.releaseHolds_keep)
    | (with_reducible apply State.setDict_keep) | (with_reducible apply State.setHost_keep)
    | (with_reducible apply State.closeSession_keep) | (dsimp only) | split | (with_reducible apply Keep.kept)
    | (with_reducible refine Keep.mk (Keep.kept ?_))

end Sys2Proof.Machine
end

