-- ==== Sys2Proof/Laws/KeepHostCmds.lean ====
section
/-!
SUPPORT. What the operations of Machine/HostCmds.lean keep (Laws/Keep.lean).
-/

namespace Sys2Proof.Machine

theorem State.loadTables_keep {s0 s : State} (h : Keep s0 s) (e : Nat) :
    Keep s0 (State.loadTables s e).2.2 := by
  unfold State.loadTables
  repeat' first
    | with_reducible assumption | with_reducible intro _ | (with_reducible apply Keep.ite)
    | (with_reducible apply Keep.ite22) | (with_reducible apply State.setObj_keep)
    | (with_reducible apply State.write_keep) | (with_reducible apply State.each_keep)
    | (with_reducible apply State.setArmed_keep) | (with_reducible apply State.checkBank_keep)
    | (with_reducible apply State.take_keep) | (with_reducible apply State.fails_keep)
    | (with_reducible apply State.fetchArg_keep) | (with_reducible refine Keep.snd ?_ (by assumption))
    | (with_reducible refine Keep.fst ?_ (by assumption)) | (dsimp only) | split | (with_reducible apply Keep.kept)
    | (with_reducible refine Keep.mk (Keep.kept ?_))

theorem execTtLoad_keep {s0 s : State} (h : Keep s0 s) (e : BitVec 512) :
    Keeps s0 (execTtLoad e s) := by
  unfold execTtLoad
  repeat' first
    | with_reducible assumption | (with_reducible apply hostCommand_keep) | with_reducible intro _
    | (with_reducible apply State.loadTables_keep) | (with_reducible refine Keep.snd ?_ (by assumption))
    | (dsimp only) | split | (with_reducible apply Keep.kept) | (with_reducible refine Keep.mk (Keep.kept ?_))

theorem State.onCore_keep {s0 s : State} (h : Keep s0 s) (c : Nat) (f : State → Result) (hf : ∀ u, Keep s0 u → Keep
      s0 (f u).2.2) :
    Keep s0 (State.onCore s c f).2.2 := by
  unfold State.onCore
  repeat' first
    | with_reducible assumption | with_reducible intro _ | (with_reducible apply Keep.ite)
    | (with_reducible apply Keep.ite22) | (with_reducible apply hf) | (with_reducible apply State.wakeCore_keep)
    | (with_reducible apply State.fails_keep) | (with_reducible refine Keep.snd ?_ (by assumption)) | (dsimp only)
    | split | (with_reducible apply Keep.kept) | (with_reducible refine Keep.mk (Keep.kept ?_))

theorem execImemLoad_keep {s0 s : State} (h : Keep s0 s) (e : BitVec 512) :
    Keeps s0 (execImemLoad e s) := by
  unfold execImemLoad
  repeat' first
    | with_reducible assumption | (with_reducible apply hostCommand_keep) | with_reducible intro _
    | (with_reducible apply Keep.ite) | (with_reducible apply Keep.ite22) | (with_reducible apply State.count_keep)
    | (with_reducible apply State.loadImem_keep) | (with_reducible apply State.done_keep)
    | (with_reducible apply State.fails_keep) | (with_reducible apply State.fetchArg_keep)
    | (with_reducible apply State.onCore_keep) | (with_reducible refine Keep.snd ?_ (by assumption)) | (dsimp only)
    | split | (with_reducible apply Keep.kept) | (with_reducible refine Keep.mk (Keep.kept ?_))

theorem execCtxStart_keep {s0 s : State} (h : Keep s0 s) (e : BitVec 512) :
    Keeps s0 (execCtxStart e s) := by
  unfold execCtxStart
  repeat' first
    | with_reducible assumption | (with_reducible apply hostCommand_keep) | with_reducible intro _
    | (with_reducible apply Keep.ite) | (with_reducible apply Keep.ite22)
    | (with_reducible apply State.setHost_keep) | (with_reducible apply State.startCtx_keep)
    | (with_reducible apply State.done_keep) | (with_reducible apply State.fails_keep)
    | (with_reducible apply State.fetchArg_keep) | (with_reducible apply State.onCore_keep)
    | (with_reducible refine Keep.snd ?_ (by assumption)) | (dsimp only) | split | (with_reducible apply Keep.kept)
    | (with_reducible refine Keep.mk (Keep.kept ?_))

theorem execCtxStop_keep {s0 s : State} (h : Keep s0 s) (e : BitVec 512) :
    Keeps s0 (execCtxStop e s) := by
  unfold execCtxStop
  repeat' first
    | with_reducible assumption | (with_reducible apply hostCommand_keep) | with_reducible intro _
    | (with_reducible apply State.countStalls_keep) | (with_reducible apply State.stopCtx_keep)
    | (with_reducible apply State.done_keep) | (with_reducible apply State.onCore_keep)
    | (with_reducible refine Keep.snd ?_ (by assumption)) | (dsimp only) | split | (with_reducible apply Keep.kept)
    | (with_reducible refine Keep.mk (Keep.kept ?_))

theorem execCtxRead_keep {s0 s : State} (h : Keep s0 s) (e : BitVec 512) :
    Keeps s0 (execCtxRead e s) := by
  unfold execCtxRead
  repeat' first
    | with_reducible assumption | (with_reducible apply hostCommand_keep) | with_reducible intro _
    | (with_reducible apply Keep.ite) | (with_reducible apply Keep.ite22) | (with_reducible apply State.write_keep)
    | (with_reducible apply State.done_keep) | (with_reducible apply State.fails_keep)
    | (with_reducible apply State.onCore_keep) | (with_reducible refine Keep.snd ?_ (by assumption)) | (dsimp only)
    | split | (with_reducible apply Keep.kept) | (with_reducible refine Keep.mk (Keep.kept ?_))

theorem State.onFlow_keep {s0 s : State} (h : Keep s0 s) (c : Nat) (f : State → Result) (hf : ∀ u, Keep s0 u → Keep
      s0 (f u).2.2) :
    Keep s0 (State.onFlow s c f).2.2 := by
  unfold State.onFlow
  repeat' first
    | with_reducible assumption | with_reducible intro _ | (with_reducible apply Keep.ite)
    | (with_reducible apply Keep.ite22) | (with_reducible apply hf) | (with_reducible apply State.fails_keep)
    | (with_reducible refine Keep.snd ?_ (by assumption)) | (dsimp only) | split | (with_reducible apply Keep.kept)
    | (with_reducible refine Keep.mk (Keep.kept ?_))

theorem execFlowOpen_keep {s0 s : State} (h : Keep s0 s) (e : BitVec 512) :
    Keeps s0 (execFlowOpen e s) := by
  unfold execFlowOpen
  repeat' first
    | with_reducible assumption | (with_reducible apply hostCommand_keep) | with_reducible intro _
    | (with_reducible apply Keep.ite) | (with_reducible apply Keep.ite22) | (with_reducible apply State.count_keep)
    | (with_reducible apply State.setFlow_keep) | (with_reducible apply State.useFlow_keep)
    | (with_reducible apply State.done_keep) | (with_reducible apply State.fails_keep)
    | (with_reducible apply State.fetchArg_keep) | (with_reducible apply State.onFlow_keep)
    | (with_reducible refine Keep.snd ?_ (by assumption)) | (dsimp only) | split | (with_reducible apply Keep.kept)
    | (with_reducible refine Keep.mk (Keep.kept ?_))

theorem execFlowClose_keep {s0 s : State} (h : Keep s0 s) (e : BitVec 512) :
    Keeps s0 (execFlowClose e s) := by
  unfold execFlowClose
  repeat' first
    | with_reducible assumption | (with_reducible apply hostCommand_keep) | with_reducible intro _
    | (with_reducible apply State.setFlow_keep) | (with_reducible apply State.sendBreak_keep)
    | (with_reducible apply State.endFlow_keep) | (with_reducible apply State.useFlow_keep)
    | (with_reducible apply State.done_keep) | (with_reducible apply State.onFlow_keep)
    | (with_reducible refine Keep.snd ?_ (by assumption)) | (dsimp only) | split | (with_reducible apply Keep.kept)
    | (with_reducible refine Keep.mk (Keep.kept ?_))

theorem execFlowHead_keep {s0 s : State} (h : Keep s0 s) (e : BitVec 512) :
    Keeps s0 (execFlowHead e s) := by
  unfold execFlowHead
  repeat' first
    | with_reducible assumption | (with_reducible apply hostCommand_keep) | with_reducible intro _
    | (with_reducible apply Keep.ite) | (with_reducible apply Keep.ite22)
    | (with_reducible apply State.setFlow_keep) | (with_reducible apply State.renewLease_keep)
    | (with_reducible apply State.useFlow_keep) | (with_reducible apply State.done_keep)
    | (with_reducible apply State.fails_keep) | (with_reducible apply State.onFlow_keep)
    | (with_reducible refine Keep.snd ?_ (by assumption)) | (dsimp only) | split | (with_reducible apply Keep.kept)
    | (with_reducible refine Keep.mk (Keep.kept ?_))

theorem State.writePieces_keep {s0 s : State} (h : Keep s0 s) (y0 : List (Nat × Nat)) (y1 : List Byte) :
    Keep s0 (State.writePieces s y0 y1) := by
  induction y0 generalizing s y1 with
  | nil => exact h
  | cons y ys ih =>
    unfold State.writePieces
    repeat' first
    | with_reducible assumption | with_reducible intro _ | (with_reducible apply ih)
    | (with_reducible apply State.write_keep) | (with_reducible apply State.take_keep) | (dsimp only) | split
    | (with_reducible apply Keep.kept) | (with_reducible refine Keep.mk (Keep.kept ?_))

theorem State.bulkCopy_keep {s0 s : State} (h : Keep s0 s) (e : Nat) (bus : List Byte) (busError : Bool) :
    Keep s0 (State.bulkCopy s e bus busError).2.2 := by
  unfold State.bulkCopy
  repeat' first
    | with_reducible assumption | with_reducible intro _ | (with_reducible apply Keep.ite)
    | (with_reducible apply Keep.ite22) | (with_reducible apply State.draw_keep)
    | (with_reducible apply State.emit_keep) | (with_reducible apply State.on_keep)
    | (with_reducible apply State.fails_keep) | (with_reducible apply State.writePieces_keep)
    | (with_reducible apply Keep.foldl) | (with_reducible apply Keep.foldl1) | (with_reducible apply Keep.foldl2)
    | (with_reducible refine Keep.snd ?_ (by assumption)) | (dsimp only) | split | (with_reducible apply Keep.kept)
    | (with_reducible refine Keep.mk (Keep.kept ?_))

theorem execBulkCopy_keep {s0 s : State} (h : Keep s0 s) (e : BitVec 512) (bus : List Byte) (busError : Bool) :
    Keeps s0 (execBulkCopy e bus busError s) := by
  unfold execBulkCopy
  repeat' first
    | with_reducible assumption | (with_reducible apply hostCommand_keep) | with_reducible intro _
    | (with_reducible apply State.bulkCopy_keep) | (with_reducible refine Keep.snd ?_ (by assumption))
    | (dsimp only) | split | (with_reducible apply Keep.kept) | (with_reducible refine Keep.mk (Keep.kept ?_))

end Sys2Proof.Machine
end

