-- ==== Sys2Proof/Laws/KeepJobLoad.lean ====
section
/-!
SUPPORT. What the operations of Machine/JobLoad.lean keep (Laws/Keep.lean).
-/

namespace Sys2Proof.Machine

theorem State.growSpans_keep {s0 s : State} (h : Keep s0 s)  :
    Keep s0 (State.growSpans s) := by
  unfold State.growSpans
  repeat' first
    | with_reducible assumption | with_reducible intro _ | (with_reducible apply Keep.foldl)
    | (with_reducible apply Keep.foldl1) | (with_reducible apply Keep.foldl2) | (dsimp only) | split
    | (with_reducible apply Keep.kept) | (with_reducible refine Keep.mk (Keep.kept ?_))

theorem State.installTables_keep {s0 s : State} (h : Keep s0 s) (m regs keys : List Byte) :
    Keep s0 (State.installTables s m regs keys) := by
  unfold State.installTables
  repeat' first
    | with_reducible assumption | with_reducible intro _ | (with_reducible apply State.setObj_keep)
    | (with_reducible apply State.mapCore_keep) | (with_reducible apply State.each_keep)
    | (with_reducible apply Keep.foldl) | (with_reducible apply Keep.foldl1) | (with_reducible apply Keep.foldl2)
    | (dsimp only) | split | (with_reducible apply Keep.kept) | (with_reducible refine Keep.mk (Keep.kept ?_))

theorem State.runPending_keep {s0 s : State} (h : Keep s0 s)  :
    Keep s0 (State.runPending s) := by
  unfold State.runPending
  repeat' first
    | with_reducible assumption | with_reducible intro _ | (with_reducible apply State.each_keep)
    | (with_reducible apply State.migrate_keep) | (with_reducible apply State.migrated_keep) | (dsimp only) | split
    | (with_reducible apply Keep.kept) | (with_reducible refine Keep.mk (Keep.kept ?_))

theorem State.clearForJob_keep {s0 s : State} (h : Keep s0 s)  :
    Keep s0 (State.clearForJob s) := by
  unfold State.clearForJob
  repeat' first
    | with_reducible assumption | with_reducible intro _ | (with_reducible apply Keep.ite)
    | (with_reducible apply State.setObj_keep) | (with_reducible apply State.setHold_keep)
    | (with_reducible apply State.schedFault_keep) | (with_reducible apply State.setArmed_keep)
    | (with_reducible apply State.clearTally_keep) | (dsimp only) | split | (with_reducible apply Keep.kept)
    | (with_reducible refine Keep.mk (Keep.kept ?_))

theorem State.takeTraining_keep {s0 s : State} (h : Keep s0 s)  :
    Keep s0 (State.takeTraining s) := by
  unfold State.takeTraining
  repeat' first
    | with_reducible assumption | with_reducible intro _ | (with_reducible apply Keep.ite)
    | (with_reducible apply State.on_keep) | (with_reducible apply State.setObj_keep)
    | (with_reducible apply State.setTrain_keep) | (with_reducible apply State.loadShardFp_keep)
    | (with_reducible apply State.resumeSweeps_keep) | (with_reducible apply State.formRopeFps_keep) | (dsimp only)
    | split | (with_reducible apply Keep.kept) | (with_reducible refine Keep.mk (Keep.kept ?_))

theorem State.jobLoaded_keep {s0 s : State} (h : Keep s0 s) (m : List Byte) :
    Keep s0 (State.jobLoaded s m) := by
  unfold State.jobLoaded
  repeat' first
    | with_reducible assumption | with_reducible intro _ | (with_reducible apply State.setObj_keep)
    | (with_reducible apply State.log_keep) | (with_reducible apply State.ropeJob_keep)
    | (with_reducible apply State.setBoot_keep) | (with_reducible apply State.clearMeasure_keep)
    | (with_reducible apply State.measure_keep) | (with_reducible apply State.takeTraining_keep)
    | with_reducible rfl | decide | (dsimp only) | split | (with_reducible apply Keep.kept)
    | (with_reducible refine Keep.mk (Keep.kept ?_))

theorem State.noteRefusal_keep {s0 s : State} (h : Keep s0 s) (t : State) : Keep s0 (State.noteRefusal s t) := by
  unfold State.noteRefusal
  repeat' first
    | with_reducible assumption | (with_reducible apply Keep.ite) | (with_reducible apply State.log_keep)
    | (with_reducible apply State.setStateStatus_keep) | split

theorem State.loadJob_keep {s0 s : State} (h : Keep s0 s) (m regs keys : List Byte) :
    Keep s0 (State.loadJob s m regs keys).2.2 := by
  unfold State.loadJob
  repeat' first
    | with_reducible assumption | with_reducible intro _ | (with_reducible apply State.setStateStatus_keep)
    | (with_reducible apply State.done_keep) | (with_reducible apply State.growSpans_keep)
    | (with_reducible apply State.installTables_keep) | (with_reducible apply State.runPending_keep)
    | (with_reducible apply State.clearForJob_keep) | (with_reducible apply State.jobLoaded_keep)
    | (with_reducible apply State.noteRefusal_keep) | (with_reducible refine Keep.snd ?_ (by assumption))
    | (dsimp only) | split | (with_reducible apply Keep.kept) | (with_reducible refine Keep.mk (Keep.kept ?_))

theorem execJobLoad_keep {s0 s : State} (h : Keep s0 s) (e : BitVec 512) :
    Keeps s0 (execJobLoad e s) := by
  unfold execJobLoad
  repeat' first
    | with_reducible assumption | (with_reducible apply hostCommand_keep) | with_reducible intro _
    | (with_reducible apply Keep.ite) | (with_reducible apply Keep.ite22) | (with_reducible apply State.fails_keep)
    | (with_reducible apply State.fetchArg_keep) | (with_reducible apply State.loadJob_keep)
    | (with_reducible refine Keep.snd ?_ (by assumption)) | (dsimp only) | split | (with_reducible apply Keep.kept)
    | (with_reducible refine Keep.mk (Keep.kept ?_))

theorem State.quiesce_keep {s0 s : State} (h : Keep s0 s)  :
    Keep s0 (State.quiesce s) := by
  unfold State.quiesce
  repeat' first
    | with_reducible assumption | with_reducible intro _ | (with_reducible apply Keep.ite)
    | (with_reducible apply State.reach_keep) | (with_reducible apply State.stopAll_keep)
    | (with_reducible apply State.endSweep_keep) | (dsimp only) | split | (with_reducible apply Keep.kept)
    | (with_reducible refine Keep.mk (Keep.kept ?_))

theorem State.breakJobFlows_keep {s0 s : State} (h : Keep s0 s)  :
    Keep s0 (State.breakJobFlows s) := by
  unfold State.breakJobFlows
  repeat' first
    | with_reducible assumption | with_reducible intro _ | (with_reducible apply Keep.ite)
    | (with_reducible apply State.each_keep) | (with_reducible apply State.breakFlow_keep) | (dsimp only) | split
    | (with_reducible apply Keep.kept) | (with_reducible refine Keep.mk (Keep.kept ?_))

theorem State.stopTables_keep {s0 s : State} (h : Keep s0 s)  :
    Keep s0 (State.stopTables s) := by
  unfold State.stopTables
  repeat' first
    | with_reducible assumption | with_reducible intro _ | (dsimp only) | split | (with_reducible apply Keep.kept)
    | (with_reducible refine Keep.mk (Keep.kept ?_))

theorem State.dropJob_keep {s0 s : State} (h : Keep s0 s)  :
    Keep s0 (State.dropJob s) := by
  unfold State.dropJob
  repeat' first
    | with_reducible assumption | with_reducible intro _ | (dsimp only) | split | (with_reducible apply Keep.kept)
    | (with_reducible refine Keep.mk (Keep.kept ?_))

theorem State.unloadJob_keep {s0 s : State} (h : Keep s0 s)  :
    Keep s0 (State.unloadJob s) := by
  unfold State.unloadJob
  repeat' first
    | with_reducible assumption | with_reducible intro _ | (with_reducible apply Keep.ite)
    | (with_reducible apply State.setObj_keep) | (with_reducible apply State.log_keep)
    | (with_reducible apply State.each_keep) | (with_reducible apply State.setHold_keep)
    | (with_reducible apply State.schedFault_keep) | (with_reducible apply State.coreReset_keep)
    | (with_reducible apply State.setArmed_keep) | (with_reducible apply State.disarmBankSwitch_keep)
    | (with_reducible apply State.setFaults_keep) | (with_reducible apply State.clearMeasure_keep)
    | (with_reducible apply State.quiesce_keep) | (with_reducible apply State.breakJobFlows_keep)
    | (with_reducible apply State.stopTables_keep) | (with_reducible apply State.dropJob_keep) | with_reducible rfl
    | decide | (dsimp only) | split | (with_reducible apply Keep.kept)
    | (with_reducible refine Keep.mk (Keep.kept ?_))

theorem execJobUnload_keep {s0 s : State} (h : Keep s0 s) (e : BitVec 512) :
    Keeps s0 (execJobUnload e s) := by
  unfold execJobUnload
  repeat' first
    | with_reducible assumption | (with_reducible apply hostCommand_keep) | with_reducible intro _
    | (with_reducible apply State.done_keep) | (with_reducible apply State.unloadJob_keep)
    | (with_reducible refine Keep.snd ?_ (by assumption)) | (dsimp only) | split | (with_reducible apply Keep.kept)
    | (with_reducible refine Keep.mk (Keep.kept ?_))

end Sys2Proof.Machine
end

