-- ==== Sys2Proof/Laws/KeepLinks.lean ====
section
/-!
SUPPORT. What the operations of Machine/Links.lean keep (Laws/Keep.lean).
-/

namespace Sys2Proof.Machine

theorem State.bringUp_keep {s0 s : State} (h : Keep s0 s) (l partner plink : Nat) :
    Keep s0 (State.bringUp s l partner plink) := by
  unfold State.bringUp
  repeat' first
    | with_reducible assumption | with_reducible intro _ | (with_reducible apply Keep.ite)
    | (with_reducible apply State.setObj_keep) | (with_reducible apply State.log_keep)
    | (with_reducible apply State.mapLink_keep) | (with_reducible apply State.setLinkTime_keep) | (dsimp only)
    | split | (with_reducible apply Keep.kept) | (with_reducible refine Keep.mk (Keep.kept ?_))

theorem State.offer_keep {s0 s : State} (h : Keep s0 s) (l : Nat) :
    Keep s0 (State.offer s l) := by
  unfold State.offer
  repeat' first
    | with_reducible assumption | with_reducible intro _ | (with_reducible apply State.emit_keep) | (dsimp only)
    | split | (with_reducible apply Keep.kept) | (with_reducible refine Keep.mk (Keep.kept ?_))

theorem State.trainLink_keep {s0 s : State} (h : Keep s0 s) (l partner plink entry : Nat) (versions : List Nat) :
    Keep s0 (State.trainLink s l partner plink entry versions) := by
  unfold State.trainLink
  repeat' first
    | with_reducible assumption | with_reducible intro _ | (with_reducible apply Keep.ite)
    | (with_reducible apply State.setObj_keep) | (with_reducible apply State.log_keep)
    | (with_reducible apply State.bringUp_keep) | (with_reducible apply State.offer_keep) | (dsimp only) | split
    | (with_reducible apply Keep.kept) | (with_reducible refine Keep.mk (Keep.kept ?_))

theorem execLinkTrain_keep {s0 s : State} (h : Keep s0 s) (link : Link) (partner : BitVec 16) (plink : Link) (entry :
      BitVec 16) (versions : List Nat) :
    Keeps s0 (execLinkTrain link partner plink entry versions s) := by
  unfold execLinkTrain
  repeat' first
    | with_reducible assumption | (with_reducible apply act_keep) | with_reducible intro _
    | (with_reducible apply State.trainLink_keep) | (dsimp only) | split | (with_reducible apply Keep.kept)
    | (with_reducible refine Keep.mk (Keep.kept ?_))

theorem State.nameLost_keep {s0 s : State} (h : Keep s0 s) (l : Nat) :
    Keep s0 (State.nameLost s l) := by
  unfold State.nameLost
  repeat' first
    | with_reducible assumption | with_reducible intro _ | (with_reducible apply Keep.ite)
    | (with_reducible apply State.setHold_keep) | (dsimp only) | split | (with_reducible apply Keep.kept)
    | (with_reducible refine Keep.mk (Keep.kept ?_))

theorem State.loseLink_keep {s0 s : State} (h : Keep s0 s) (l : Nat) :
    Keep s0 (State.loseLink s l) := by
  unfold State.loseLink
  repeat' first
    | with_reducible assumption | with_reducible intro _ | (with_reducible apply State.setObj_keep)
    | (with_reducible apply State.log_keep) | (with_reducible apply State.mapLink_keep)
    | (with_reducible apply State.reroute_keep) | (with_reducible apply State.nameLost_keep) | (dsimp only) | split
    | (with_reducible apply Keep.kept) | (with_reducible refine Keep.mk (Keep.kept ?_))

theorem State.retireLane_keep {s0 s : State} (h : Keep s0 s) (l lane : Nat) :
    Keep s0 (State.retireLane s l lane) := by
  unfold State.retireLane
  repeat' first
    | with_reducible assumption | with_reducible intro _ | (with_reducible apply Keep.ite)
    | (with_reducible apply State.setObj_keep) | (with_reducible apply State.log_keep)
    | (with_reducible apply State.nameLost_keep) | (with_reducible apply State.loseLink_keep) | (dsimp only)
    | split | (with_reducible apply Keep.kept) | (with_reducible refine Keep.mk (Keep.kept ?_))

theorem State.laneTransient_keep {s0 s : State} (h : Keep s0 s) (l lane : Nat) :
    Keep s0 (State.laneTransient s l lane) := by
  unfold State.laneTransient
  repeat' first
    | with_reducible assumption | with_reducible intro _ | (with_reducible apply Keep.ite)
    | (with_reducible apply State.log_keep) | (with_reducible apply State.mapLink_keep)
    | (with_reducible apply State.retireLane_keep) | (dsimp only) | split | (with_reducible apply Keep.kept)
    | (with_reducible refine Keep.mk (Keep.kept ?_))

theorem State.endLinkRecovery_keep {s0 s : State} (h : Keep s0 s) (l : Nat) :
    Keep s0 (State.endLinkRecovery s l) := by
  unfold State.endLinkRecovery
  repeat' first
    | with_reducible assumption | with_reducible intro _ | (with_reducible apply State.mapLink_keep)
    | (with_reducible apply State.originateResume_keep) | (dsimp only) | split | (with_reducible apply Keep.kept)
    | (with_reducible refine Keep.mk (Keep.kept ?_))

theorem State.lossHold_keep {s0 s : State} (h : Keep s0 s) (l cause : Nat) :
    Keep s0 (State.lossHold s l cause) := by
  unfold State.lossHold
  repeat' first
    | with_reducible assumption | with_reducible intro _ | (with_reducible apply Keep.ite)
    | (with_reducible apply State.mapLink_keep) | (with_reducible apply State.originateHold_keep)
    | (with_reducible apply State.schedFault_keep) | (with_reducible apply State.faultCount_keep)
    | (with_reducible refine Keep.snd ?_ (by assumption)) | (dsimp only) | split | (with_reducible apply Keep.kept)
    | (with_reducible refine Keep.mk (Keep.kept ?_))

theorem execLaneLoss_keep {s0 s : State} (h : Keep s0 s) (link : Link) (lane : Lane) :
    Keeps s0 (execLaneLoss link lane s) := by
  unfold execLaneLoss
  repeat' first
    | with_reducible assumption | (with_reducible apply act_keep) | with_reducible intro _
    | (with_reducible apply Keep.ite) | (with_reducible apply State.mapLink_keep)
    | (with_reducible apply State.lossHold_keep) | (dsimp only) | split | (with_reducible apply Keep.kept)
    | (with_reducible refine Keep.mk (Keep.kept ?_))

theorem execLaneRelockComplete_keep {s0 s : State} (h : Keep s0 s) (link : Link) (lane : Lane) (ok partnerOk : Bool) :
    Keeps s0 (execLaneRelockComplete link lane ok partnerOk s) := by
  unfold execLaneRelockComplete
  repeat' first
    | with_reducible assumption | (with_reducible apply act_keep) | with_reducible intro _
    | (with_reducible apply Keep.ite) | (with_reducible apply State.on_keep) | (with_reducible apply State.ok_keep)
    | (with_reducible apply State.nameLost_keep) | (with_reducible apply State.retireLane_keep)
    | (with_reducible apply State.laneTransient_keep) | (with_reducible apply State.endLinkRecovery_keep)
    | (with_reducible refine Keep.fst ?_ (by assumption)) | (dsimp only) | split | (with_reducible apply Keep.kept)
    | (with_reducible refine Keep.mk (Keep.kept ?_))

theorem execLinkLoss_keep {s0 s : State} (h : Keep s0 s) (link : Link) :
    Keeps s0 (execLinkLoss link s) := by
  unfold execLinkLoss
  repeat' first
    | with_reducible assumption | (with_reducible apply act_keep) | with_reducible intro _
    | (with_reducible apply Keep.ite) | (with_reducible apply State.on_keep)
    | (with_reducible apply State.setObj_keep) | (with_reducible apply State.count_keep)
    | (with_reducible apply State.log_keep) | (with_reducible apply State.mapLink_keep)
    | (with_reducible apply State.releaseHolds_keep) | (with_reducible apply State.loseParent_keep)
    | (with_reducible apply State.lossHold_keep) | (dsimp only) | split | (with_reducible apply Keep.kept)
    | (with_reducible refine Keep.mk (Keep.kept ?_))

theorem execLinkRetrainComplete_keep {s0 s : State} (h : Keep s0 s) (link : Link) (ok partnerOk : Bool) :
    Keeps s0 (execLinkRetrainComplete link ok partnerOk s) := by
  unfold execLinkRetrainComplete
  repeat' first
    | with_reducible assumption | (with_reducible apply act_keep) | with_reducible intro _
    | (with_reducible apply Keep.ite) | (with_reducible apply State.on_keep)
    | (with_reducible apply State.setObj_keep) | (with_reducible apply State.log_keep)
    | (with_reducible apply State.mapLink_keep) | (with_reducible apply State.setLinkTime_keep)
    | (with_reducible apply State.ok_keep) | (with_reducible apply State.nameLost_keep)
    | (with_reducible apply State.loseLink_keep) | (with_reducible apply State.endLinkRecovery_keep)
    | (with_reducible refine Keep.fst ?_ (by assumption)) | (dsimp only) | split | (with_reducible apply Keep.kept)
    | (with_reducible refine Keep.mk (Keep.kept ?_))

theorem execLinkAgreementTimeout_keep {s0 s : State} (h : Keep s0 s) (link : Link) :
    Keeps s0 (execLinkAgreementTimeout link s) := by
  unfold execLinkAgreementTimeout
  repeat' first
    | with_reducible assumption | (with_reducible apply act_keep) | with_reducible intro _
    | (with_reducible apply Keep.ite) | (with_reducible apply State.nameLost_keep)
    | (with_reducible apply State.endLinkRecovery_keep) | (dsimp only) | split | (with_reducible apply Keep.kept)
    | (with_reducible refine Keep.mk (Keep.kept ?_))

theorem execCodewordUncorrectable_keep {s0 s : State} (h : Keep s0 s) (link : Link) (slots : Fin 3) (_flits : Bool)
      (lane : Option Lane) :
    Keeps s0 (execCodewordUncorrectable link slots _flits lane s) := by
  unfold execCodewordUncorrectable
  repeat' first
    | with_reducible assumption | (with_reducible apply act_keep) | with_reducible intro _
    | (with_reducible apply Keep.ite) | (with_reducible apply State.count_keep)
    | (with_reducible apply State.log_keep) | (with_reducible apply State.mapLink_keep)
    | (with_reducible apply State.schedFault_keep) | (with_reducible apply State.laneTransient_keep) | (dsimp only)
    | split | (with_reducible apply Keep.kept) | (with_reducible refine Keep.mk (Keep.kept ?_))

theorem execFreeSlotSend_keep {s0 s : State} (h : Keep s0 s) (link : Link) (credits : List Nat) :
    Keeps s0 (execFreeSlotSend link credits s) := by
  unfold execFreeSlotSend
  repeat' first
    | with_reducible assumption | (with_reducible apply act_keep) | with_reducible intro _
    | (with_reducible apply Keep.ite) | (with_reducible apply State.returnCredits_keep)
    | (with_reducible apply State.addCredits_keep) | (with_reducible apply State.retryWaiting_keep)
    | (with_reducible apply State.sendFlits_keep) | (dsimp only) | split | (with_reducible apply Keep.kept)
    | (with_reducible refine Keep.mk (Keep.kept ?_))

theorem execPacketForward_keep {s0 s : State} (h : Keep s0 s) (die : HDie) (port : Fin 35) (p : Packet) :
    Keeps s0 (execPacketForward die port p s) := by
  unfold execPacketForward
  repeat' first
    | with_reducible assumption | (with_reducible apply act_keep) | with_reducible intro _
    | (with_reducible apply State.forward_keep) | (with_reducible apply State.receiveHold_keep)
    | (with_reducible apply State.receiveResume_keep) | (dsimp only) | split | (with_reducible apply Keep.kept)
    | (with_reducible refine Keep.mk (Keep.kept ?_))

theorem execEscapeWaitExpire_keep {s0 s : State} (h : Keep s0 s) (p : Packet) :
    Keeps s0 (execEscapeWaitExpire p s) := by
  unfold execEscapeWaitExpire
  repeat' first
    | with_reducible assumption | (with_reducible apply act_keep) | with_reducible intro _
    | (with_reducible apply State.reach_keep) | (with_reducible apply State.route_keep)
    | (with_reducible apply State.inject_keep) | (dsimp only) | split | (with_reducible apply Keep.kept)
    | (with_reducible refine Keep.mk (Keep.kept ?_))

end Sys2Proof.Machine
end

