-- ==== Sys2Proof/Laws/Only.lean ====
section
/-!
SUPPORT. What every operation of the machine can change: the parts of the state that it may leave different.
The files Only… beside this one have one lemma per operation.
-/

namespace Sys2Proof.Machine

/-- The same of an outcome. -/
def OnlyO (ps : List Part) (s : State) (o : Host.Outcome State Fault Refusal) : Prop := ∀ t, o = .next t → Only ps s t

/-- The same of a state that may be answered, alone or beside a number. -/
def OnlyOpt (ps : List Part) (s : State) (o : Option State) : Prop := ∀ t, o = some t → Only ps s t

def OnlyOpt2 (ps : List Part) (s : State) (o : Option (Nat × State)) : Prop := ∀ r, o = some r → Only ps s r.2

variable {ps qs : List Part} {s0 s t u : State}

theorem Only.refl (ps : List Part) (s : State) : Only ps s s := ⟨rfl, fun p _ => by cases p <;> rfl⟩

theorem Only.mono (h : Only qs s t) (hs : qs ⊆ ps) : Only ps s t := ⟨h.1, fun p hp => h.2 p fun hq => hp (hs hq)⟩

theorem Part.same_trans {p : Part} (h : p.same s t) (k : p.same t u) : p.same s u := by
  cases p <;> simp only [Part.same] at h k ⊢ <;> first | exact k.trans h | (rw [k, h])

theorem Only.trans (h : Only ps s t) (k : Only ps t u) : Only ps s u :=
  ⟨k.1.trans h.1, fun p hp => Part.same_trans (h.2 p hp) (k.2 p hp)⟩

/-- One operation more, which changes no more parts. -/
theorem Only.then (h : Only ps s t) (k : Only qs t u) (hs : qs ⊆ ps) : Only ps s u := h.trans (k.mono hs)

/-- The parts outside `ps` are the same. -/
def Same (ps : List Part) (s t : State) : Prop := ∀ p, p ∉ ps → p.same s t

/-- A state written out, from the one whose queue it has. -/
theorem Only.leaf {out hall drawn down time tt hold links fabric mem poison stores maps imem accs cores ctxs sems movers
    posts dies mailboxes deltas regions spans invals watch train rope dict faults job host supply memctl boot}
    (h : Only ps s0 s)
    (k : Same ps s ⟨s.pending, out, hall, drawn, down, time, tt, hold, links, fabric, mem, poison, stores, maps,
      imem, accs, cores, ctxs, sems, movers, posts, dies, mailboxes, deltas, regions, spans, invals, watch, train, rope,
      dict, faults, job, host, supply, memctl, boot⟩) :
    Only ps s0 ⟨s.pending, out, hall, drawn, down, time, tt, hold, links, fabric, mem, poison, stores, maps,
      imem, accs, cores, ctxs, sems, movers, posts, dies, mailboxes, deltas, regions, spans, invals, watch, train, rope,
      dict, faults, job, host, supply, memctl, boot⟩ :=
  h.trans ⟨rfl, k⟩

/-! ### Combinators -/

theorem State.each_only {α : Type} (h : Only ps s0 s) (xs : List α) (f : State → α → State)
    (hf : ∀ s x, Only ps s0 s → Only ps s0 (f s x)) : Only ps s0 (s.each xs f) := by
  unfold State.each
  induction xs generalizing s with
  | nil => exact h
  | cons x xs ih => exact ih (hf s x h)

theorem State.on_only (h : Only ps s0 s) (c : Bool) (f : State → State) (hf : ∀ s, Only ps s0 s → Only ps s0 (f s)) :
    Only ps s0 (s.on c f) := by
  unfold State.on
  split
  · exact hf s h
  · exact h

theorem act_only (h : Only ps s0 s) (f : State → State) (hf : ∀ s, Only ps s0 s → Only ps s0 (f s)) : OnlyO ps s0 (act s f) := by
  intro t ht
  unfold act at ht
  injection ht with ht
  subst ht
  split
  · exact h
  · exact hf s h

theorem OnlyOpt.some {t : State} (h : Only ps s0 t) : OnlyOpt ps s0 (some t) := by
  intro u hu
  injection hu with hu
  exact hu ▸ h

theorem OnlyOpt.none : OnlyOpt ps s0 none := fun _ hu => by cases hu

theorem OnlyOpt.ite {c : Prop} [Decidable c] {a b : Option State} (ha : OnlyOpt ps s0 a) (hb : OnlyOpt ps s0 b) :
    OnlyOpt ps s0 (if c then a else b) := by
  by_cases hc : c
  · rw [if_pos hc]; exact ha
  · rw [if_neg hc]; exact hb

theorem OnlyOpt.get {o : Option State} {t : State} (h : OnlyOpt ps s0 o) (e : o = Option.some t) : Only ps s0 t := h t e

theorem OnlyOpt.getD {o : Option State} (h : OnlyOpt ps s0 o) (hs : Only ps s0 s) : Only ps s0 (o.getD s) := by
  cases ho : o with
  | none => exact hs
  | some t => exact h t ho

theorem OnlyOpt2.some {r : Nat × State} (h : Only ps s0 r.2) : OnlyOpt2 ps s0 (some r) := by
  intro u hu
  injection hu with hu
  exact hu ▸ h

theorem OnlyOpt2.none : OnlyOpt2 ps s0 none := fun _ hu => by cases hu

theorem OnlyOpt2.ite {c : Prop} [Decidable c] {a b : Option (Nat × State)} (ha : OnlyOpt2 ps s0 a)
    (hb : OnlyOpt2 ps s0 b) : OnlyOpt2 ps s0 (if c then a else b) := by
  by_cases hc : c
  · rw [if_pos hc]; exact ha
  · rw [if_neg hc]; exact hb

theorem OnlyOpt2.get {o : Option (Nat × State)} {r : Nat × State} (h : OnlyOpt2 ps s0 o) (e : o = Option.some r) :
    Only ps s0 r.2 := h r e

theorem OnlyOpt2.get' {o : Option (Nat × State)} {n : Nat} {t : State} (h : OnlyOpt2 ps s0 o)
    (e : o = Option.some (n, t)) : Only ps s0 t := h _ e

theorem OnlyO.next {t : State} (h : Only ps s0 t) : OnlyO ps s0 (.next t) := by
  intro u hu
  injection hu with hu
  exact hu ▸ h

/-- What a function answers beside a value. -/
theorem Only.snd {α : Type} {r : α × State} {x : α} {t : State} (h : Only ps s0 r.2) (e : r = (x, t)) : Only ps s0 t := by
  subst e; exact h

theorem Only.fst {α : Type} {r : State × α} {x : α} {t : State} (h : Only ps s0 r.1) (e : r = (t, x)) : Only ps s0 t := by
  subst e; exact h

theorem Only.foldl {β : Type} (h : Only ps s0 s) (xs : List β) (f : State → β → State)
    (hf : ∀ u x, Only ps s0 u → Only ps s0 (f u x)) : Only ps s0 (xs.foldl f s) := by
  induction xs generalizing s with
  | nil => exact h
  | cons x xs ih => exact ih (hf s x h)

theorem Only.foldl1 {β γ : Type} {a : State × γ} (h : Only ps s0 a.1) (xs : List β) (f : State × γ → β → State × γ)
    (hf : ∀ u x, Only ps s0 u.1 → Only ps s0 (f u x).1) : Only ps s0 (xs.foldl f a).1 := by
  induction xs generalizing a with
  | nil => exact h
  | cons x xs ih => exact ih (hf a x h)

theorem Only.foldl2 {β γ : Type} {a : γ × State} (h : Only ps s0 a.2) (xs : List β) (f : γ × State → β → γ × State)
    (hf : ∀ u x, Only ps s0 u.2 → Only ps s0 (f u x).2) : Only ps s0 (xs.foldl f a).2 := by
  induction xs generalizing a with
  | nil => exact h
  | cons x xs ih => exact ih (hf a x h)

theorem Only.ite {c : Prop} [Decidable c] {a b : State} (ha : Only ps s0 a) (hb : Only ps s0 b) :
    Only ps s0 (if c then a else b) := by
  by_cases hc : c
  · rw [if_pos hc]; exact ha
  · rw [if_neg hc]; exact hb

theorem Only.ite1 {α : Type} {c : Prop} [Decidable c] {a b : State × α} (ha : Only ps s0 a.1) (hb : Only ps s0 b.1) :
    Only ps s0 (if c then a else b).1 := by
  by_cases hc : c
  · rw [if_pos hc]; exact ha
  · rw [if_neg hc]; exact hb

theorem Only.ite2 {α : Type} {c : Prop} [Decidable c] {a b : α × State} (ha : Only ps s0 a.2) (hb : Only ps s0 b.2) :
    Only ps s0 (if c then a else b).2 := by
  by_cases hc : c
  · rw [if_pos hc]; exact ha
  · rw [if_neg hc]; exact hb

theorem Only.ite11 {α β : Type} {c : Prop} [Decidable c] {a b : (State × α) × β} (ha : Only ps s0 a.1.1) (hb : Only ps s0 b.1.1) :
    Only ps s0 (if c then a else b).1.1 := by
  by_cases hc : c
  · rw [if_pos hc]; exact ha
  · rw [if_neg hc]; exact hb

theorem Only.ite22 {α β : Type} {c : Prop} [Decidable c] {a b : α × β × State} (ha : Only ps s0 a.2.2) (hb : Only ps s0 b.2.2) :
    Only ps s0 (if c then a else b).2.2 := by
  by_cases hc : c
  · rw [if_pos hc]; exact ha
  · rw [if_neg hc]; exact hb

end Sys2Proof.Machine
end

