-- ==== Sys2Proof/Laws/OnlyTick.lean ====
section
/-!
SUPPORT. What the operations of Machine/Tick.lean can change (Laws/Only.lean).
-/

namespace Sys2Proof.Machine

theorem idleTick_only {s : State} : OnlyO [.hall, .time] s (idleTick s) := by
  intro t ht
  unfold idleTick at ht
  dsimp only at ht
  split at ht
  · injection ht with ht; subst ht
    exact .leaf (.refl _ _) (by intro p hp; cases p <;> first | rfl | exact absurd (by decide) hp)
  · cases ht

theorem State.reach64_only {parts : List Part} {s0 s : State} (h : Only parts s0 s) (hp : [.hall, .time] ⊆ parts) (t
      : Nat) :
    Only parts s0 (State.reach64 s t) := by
  unfold State.reach64
  repeat' first
    | with_reducible assumption | with_reducible exact List.Subset.trans (by decide) hp | with_reducible intro _
    | (with_reducible apply Only.ite) | (dsimp only) | split | (with_reducible refine Only.leaf ?_ ?_)
    | (unfold Same; intro p hq; cases p <;> first | exact absurd (hp (by decide)) hq | dsimp only [Part.same])

theorem State.reach_only {parts : List Part} {s0 s : State} (h : Only parts s0 s) (hp : [.hall, .time] ⊆ parts) (t :
      Nat) :
    Only parts s0 (State.reach s t) := by
  unfold State.reach
  repeat' first
    | with_reducible assumption | with_reducible exact List.Subset.trans (by decide) hp | with_reducible intro _
    | (with_reducible apply State.reach64_only) | (dsimp only) | split | (with_reducible refine Only.leaf ?_ ?_)
    | (unfold Same; intro p hq; cases p <;> first | exact absurd (hp (by decide)) hq | dsimp only [Part.same])

end Sys2Proof.Machine
end

