-- ==== Sys2Proof/Laws/OnlyOps.lean ====
section
/-!
SUPPORT. What the operations of Machine/Ops.lean can change (Laws/Only.lean).
-/

namespace Sys2Proof.Machine

theorem State.draw_only {parts : List Part} {s0 s : State} (h : Only parts s0 s) (hp : [.drawn] ⊆ parts)  :
    Only parts s0 (State.draw s).2 := by
  unfold State.draw
  repeat' first
    | with_reducible assumption | with_reducible exact List.Subset.trans (by decide) hp | with_reducible intro _
    | (dsimp only) | split | (with_reducible refine Only.leaf ?_ ?_)
    | (unfold Same; intro p hq; cases p <;> first | exact absurd (hp (by decide)) hq | dsimp only [Part.same])

theorem State.emit_only {parts : List Part} {s0 s : State} (h : Only parts s0 s) (hp : [.out] ⊆ parts) (o : Out) :
    Only parts s0 (State.emit s o) := by
  unfold State.emit
  repeat' first
    | with_reducible assumption | with_reducible exact List.Subset.trans (by decide) hp | with_reducible intro _
    | (dsimp only) | split | (with_reducible refine Only.leaf ?_ ?_)
    | (unfold Same; intro p hq; cases p <;> first | exact absurd (hp (by decide)) hq | dsimp only [Part.same])

theorem State.setObj_only {parts : List Part} {s0 s : State} (h : Only parts s0 s) (hp : [.objects] ⊆ parts) (idx sub
      v : Nat) :
    Only parts s0 (State.setObj s idx sub v) := by
  unfold State.setObj
  repeat' first
    | with_reducible assumption | with_reducible exact List.Subset.trans (by decide) hp | with_reducible intro _
    | (with_reducible apply Only.ite) | (dsimp only) | split | (with_reducible refine Only.leaf ?_ ?_)
    | (unfold Same; intro p hq; cases p <;> first | exact absurd (hp (by decide)) hq | dsimp only [Part.same])

theorem State.count_only {parts : List Part} {s0 s : State} (h : Only parts s0 s) (hp : [.objects] ⊆ parts) (idx sub
      : Nat) (n : Nat) :
    Only parts s0 (State.count s idx sub n) := by
  unfold State.count
  repeat' first
    | with_reducible assumption | with_reducible exact List.Subset.trans (by decide) hp | with_reducible intro _
    | (with_reducible apply State.setObj_only) | (dsimp only) | split | (with_reducible refine Only.leaf ?_ ?_)
    | (unfold Same; intro p hq; cases p <;> first | exact absurd (hp (by decide)) hq | dsimp only [Part.same])

theorem State.count64_only {parts : List Part} {s0 s : State} (h : Only parts s0 s) (hp : [.objects] ⊆ parts) (idx
      sub : Nat) (n : Nat) :
    Only parts s0 (State.count64 s idx sub n) := by
  unfold State.count64
  repeat' first
    | with_reducible assumption | with_reducible exact List.Subset.trans (by decide) hp | with_reducible intro _
    | (with_reducible apply State.setObj_only) | (dsimp only) | split | (with_reducible refine Only.leaf ?_ ?_)
    | (unfold Same; intro p hq; cases p <;> first | exact absurd (hp (by decide)) hq | dsimp only [Part.same])

theorem State.setRec_only {parts : List Part} {s0 s : State} (h : Only parts s0 s) (hp : [.dict] ⊆ parts) (idx sub :
      Nat) (v : List Byte) :
    Only parts s0 (State.setRec s idx sub v) := by
  unfold State.setRec
  repeat' first
    | with_reducible assumption | with_reducible exact List.Subset.trans (by decide) hp | with_reducible intro _
    | (dsimp only) | split | (with_reducible refine Only.leaf ?_ ?_)
    | (unfold Same; intro p hq; cases p <;> first | exact absurd (hp (by decide)) hq | dsimp only [Part.same])

theorem State.log_only {parts : List Part} {s0 s : State} (h : Only parts s0 s) (hp : [.objects, .ring] ⊆ parts) (ev
      : Nat) (dom : Nat) (items : List (Nat × Nat)) :
    Only parts s0 (State.log s ev dom items) := by
  unfold State.log
  repeat' first
    | with_reducible assumption | with_reducible exact List.Subset.trans (by decide) hp | with_reducible intro _
    | (with_reducible apply State.on_only) | (with_reducible apply State.setObj_only)
    | (with_reducible apply State.count64_only) | (dsimp only) | split | (with_reducible refine Only.leaf ?_ ?_)
    | (unfold Same; intro p hq; cases p <;> first | exact absurd (hp (by decide)) hq | dsimp only [Part.same])

theorem State.alerting_only {parts : List Part} {s0 s : State} (h : Only parts s0 s) (hp : [.alert] ⊆ parts) (f :
      State → State) (hf : ∀ u, Only parts s0 u → Only parts s0 (f u)) :
    Only parts s0 (State.alerting s f) := by
  unfold State.alerting
  repeat' first
    | with_reducible assumption | with_reducible exact List.Subset.trans (by decide) hp | with_reducible intro _
    | (with_reducible apply Only.ite) | (with_reducible apply hf) | (dsimp only) | split
    | (with_reducible refine Only.leaf ?_ ?_)
    | (unfold Same; intro p hq; cases p <;> first | exact absurd (hp (by decide)) hq | dsimp only [Part.same])

theorem State.interrupt_only {parts : List Part} {s0 s : State} (h : Only parts s0 s) (hp : [.out, .msix] ⊆ parts) (v
      : Nat) :
    Only parts s0 (State.interrupt s v) := by
  unfold State.interrupt
  repeat' first
    | with_reducible assumption | with_reducible exact List.Subset.trans (by decide) hp | with_reducible intro _
    | (with_reducible apply Only.ite) | (with_reducible apply State.emit_only) | (dsimp only) | split
    | (with_reducible refine Only.leaf ?_ ?_)
    | (unfold Same; intro p hq; cases p <;> first | exact absurd (hp (by decide)) hq | dsimp only [Part.same])

theorem State.write_only {parts : List Part} {s0 s : State} (h : Only parts s0 s) (hp : [.mem, .poison] ⊆ parts) (a :
      Nat) (bs : List Byte) :
    Only parts s0 (State.write s a bs) := by
  unfold State.write
  repeat' first
    | with_reducible assumption | with_reducible exact List.Subset.trans (by decide) hp | with_reducible intro _
    | (dsimp only) | split | (with_reducible refine Only.leaf ?_ ?_)
    | (unfold Same; intro p hq; cases p <;> first | exact absurd (hp (by decide)) hq | dsimp only [Part.same])

theorem State.writeBytes_only {parts : List Part} {s0 s : State} (h : Only parts s0 s) (hp : [.mem, .poison] ⊆ parts)
      (ws : List (Nat × Byte)) :
    Only parts s0 (State.writeBytes s ws) := by
  unfold State.writeBytes
  repeat' first
    | with_reducible assumption | with_reducible exact List.Subset.trans (by decide) hp | with_reducible intro _
    | (with_reducible apply Only.foldl) | (with_reducible apply Only.foldl1) | (with_reducible apply Only.foldl2)
    | (dsimp only) | split | (with_reducible refine Only.leaf ?_ ?_)
    | (unfold Same; intro p hq; cases p <;> first | exact absurd (hp (by decide)) hq | dsimp only [Part.same])

theorem State.poisonAt_only {parts : List Part} {s0 s : State} (h : Only parts s0 s) (hp : [.poison] ⊆ parts) (a :
      Nat) :
    Only parts s0 (State.poisonAt s a) := by
  unfold State.poisonAt
  repeat' first
    | with_reducible assumption | with_reducible exact List.Subset.trans (by decide) hp | with_reducible intro _
    | (dsimp only) | split | (with_reducible refine Only.leaf ?_ ?_)
    | (unfold Same; intro p hq; cases p <;> first | exact absurd (hp (by decide)) hq | dsimp only [Part.same])

theorem State.storeWrite_only {parts : List Part} {s0 s : State} (h : Only parts s0 s) (hp : [.stores] ⊆ parts) (core
      st off : Nat) (bs : List Byte) :
    Only parts s0 (State.storeWrite s core st off bs) := by
  unfold State.storeWrite
  repeat' first
    | with_reducible assumption | with_reducible exact List.Subset.trans (by decide) hp | with_reducible intro _
    | (dsimp only) | split | (with_reducible refine Only.leaf ?_ ?_)
    | (unfold Same; intro p hq; cases p <;> first | exact absurd (hp (by decide)) hq | dsimp only [Part.same])

theorem State.storeWriteRaw_only {parts : List Part} {s0 s : State} (h : Only parts s0 s) (hp : [.stores, .maps] ⊆
      parts) (c st off : Nat) (bs : List Byte) :
    Only parts s0 (State.storeWriteRaw s c st off bs) := by
  unfold State.storeWriteRaw
  repeat' first
    | with_reducible assumption | with_reducible exact List.Subset.trans (by decide) hp | with_reducible intro _
    | (with_reducible apply Only.ite) | (with_reducible apply State.storeWrite_only)
    | (with_reducible apply Only.foldl) | (with_reducible apply Only.foldl1) | (with_reducible apply Only.foldl2)
    | (dsimp only) | split | (with_reducible refine Only.leaf ?_ ?_)
    | (unfold Same; intro p hq; cases p <;> first | exact absurd (hp (by decide)) hq | dsimp only [Part.same])

theorem State.storeBytes_only {parts : List Part} {s0 s : State} (h : Only parts s0 s) (hp : [.stores, .maps] ⊆
      parts) (ws : List (Nat × Byte)) :
    Only parts s0 (State.storeBytes s ws) := by
  unfold State.storeBytes
  repeat' first
    | with_reducible assumption | with_reducible exact List.Subset.trans (by decide) hp | with_reducible intro _
    | (with_reducible apply Only.ite) | (with_reducible apply Only.foldl) | (with_reducible apply Only.foldl1)
    | (with_reducible apply Only.foldl2) | (dsimp only) | split | (with_reducible refine Only.leaf ?_ ?_)
    | (unfold Same; intro p hq; cases p <;> first | exact absurd (hp (by decide)) hq | dsimp only [Part.same])

theorem State.setCore_only {parts : List Part} {s0 s : State} (h : Only parts s0 s) (hp : [.cores] ⊆ parts) (c : Nat)
      (x : CoreSt) :
    Only parts s0 (State.setCore s c x) := by
  unfold State.setCore
  repeat' first
    | with_reducible assumption | with_reducible exact List.Subset.trans (by decide) hp | with_reducible intro _
    | (dsimp only) | split | (with_reducible refine Only.leaf ?_ ?_)
    | (unfold Same; intro p hq; cases p <;> first | exact absurd (hp (by decide)) hq | dsimp only [Part.same])

theorem State.mapCore_only {parts : List Part} {s0 s : State} (h : Only parts s0 s) (hp : [.cores] ⊆ parts) (c : Nat)
      (f : CoreSt → CoreSt) :
    Only parts s0 (State.mapCore s c f) := by
  unfold State.mapCore
  repeat' first
    | with_reducible assumption | with_reducible exact List.Subset.trans (by decide) hp | with_reducible intro _
    | (with_reducible apply State.setCore_only) | (dsimp only) | split | (with_reducible refine Only.leaf ?_ ?_)
    | (unfold Same; intro p hq; cases p <;> first | exact absurd (hp (by decide)) hq | dsimp only [Part.same])

theorem State.setDie_only {parts : List Part} {s0 s : State} (h : Only parts s0 s) (hp : [.dies] ⊆ parts) (d : Nat)
      (p : CorePower) :
    Only parts s0 (State.setDie s d p) := by
  unfold State.setDie
  repeat' first
    | with_reducible assumption | with_reducible exact List.Subset.trans (by decide) hp | with_reducible intro _
    | (dsimp only) | split | (with_reducible refine Only.leaf ?_ ?_)
    | (unfold Same; intro p hq; cases p <;> first | exact absurd (hp (by decide)) hq | dsimp only [Part.same])

theorem State.setCtx_only {parts : List Part} {s0 s : State} (h : Only parts s0 s) (hp : [.ctxs] ⊆ parts) (c x : Nat)
      (v : CtxSt) :
    Only parts s0 (State.setCtx s c x v) := by
  unfold State.setCtx
  repeat' first
    | with_reducible assumption | with_reducible exact List.Subset.trans (by decide) hp | with_reducible intro _
    | (dsimp only) | split | (with_reducible refine Only.leaf ?_ ?_)
    | (unfold Same; intro p hq; cases p <;> first | exact absurd (hp (by decide)) hq | dsimp only [Part.same])

theorem State.mapCtx_only {parts : List Part} {s0 s : State} (h : Only parts s0 s) (hp : [.ctxs] ⊆ parts) (c x : Nat)
      (f : CtxSt → CtxSt) :
    Only parts s0 (State.mapCtx s c x f) := by
  unfold State.mapCtx
  repeat' first
    | with_reducible assumption | with_reducible exact List.Subset.trans (by decide) hp | with_reducible intro _
    | (with_reducible apply State.setCtx_only) | (dsimp only) | split | (with_reducible refine Only.leaf ?_ ?_)
    | (unfold Same; intro p hq; cases p <;> first | exact absurd (hp (by decide)) hq | dsimp only [Part.same])

theorem State.setSem_only {parts : List Part} {s0 s : State} (h : Only parts s0 s) (hp : [.sems] ⊆ parts) (c n : Nat)
      (v : SemSt) :
    Only parts s0 (State.setSem s c n v) := by
  unfold State.setSem
  repeat' first
    | with_reducible assumption | with_reducible exact List.Subset.trans (by decide) hp | with_reducible intro _
    | (dsimp only) | split | (with_reducible refine Only.leaf ?_ ?_)
    | (unfold Same; intro p hq; cases p <;> first | exact absurd (hp (by decide)) hq | dsimp only [Part.same])

theorem State.setMover_only {parts : List Part} {s0 s : State} (h : Only parts s0 s) (hp : [.movers] ⊆ parts) (m :
      Nat) (v : MoverSt) :
    Only parts s0 (State.setMover s m v) := by
  unfold State.setMover
  repeat' first
    | with_reducible assumption | with_reducible exact List.Subset.trans (by decide) hp | with_reducible intro _
    | (dsimp only) | split | (with_reducible refine Only.leaf ?_ ?_)
    | (unfold Same; intro p hq; cases p <;> first | exact absurd (hp (by decide)) hq | dsimp only [Part.same])

theorem State.setLink_only {parts : List Part} {s0 s : State} (h : Only parts s0 s) (hp : [.links] ⊆ parts) (l : Nat)
      (v : LinkSt) :
    Only parts s0 (State.setLink s l v) := by
  unfold State.setLink
  repeat' first
    | with_reducible assumption | with_reducible exact List.Subset.trans (by decide) hp | with_reducible intro _
    | (dsimp only) | split | (with_reducible refine Only.leaf ?_ ?_)
    | (unfold Same; intro p hq; cases p <;> first | exact absurd (hp (by decide)) hq | dsimp only [Part.same])

theorem State.mapLink_only {parts : List Part} {s0 s : State} (h : Only parts s0 s) (hp : [.links] ⊆ parts) (l : Nat)
      (f : LinkSt → LinkSt) :
    Only parts s0 (State.mapLink s l f) := by
  unfold State.mapLink
  repeat' first
    | with_reducible assumption | with_reducible exact List.Subset.trans (by decide) hp | with_reducible intro _
    | (with_reducible apply State.setLink_only) | (dsimp only) | split | (with_reducible refine Only.leaf ?_ ?_)
    | (unfold Same; intro p hq; cases p <;> first | exact absurd (hp (by decide)) hq | dsimp only [Part.same])

theorem State.setFlow_only {parts : List Part} {s0 s : State} (h : Only parts s0 s) (hp : [.fabric] ⊆ parts) (c :
      Nat) (v : Flow) :
    Only parts s0 (State.setFlow s c v) := by
  unfold State.setFlow
  repeat' first
    | with_reducible assumption | with_reducible exact List.Subset.trans (by decide) hp | with_reducible intro _
    | (dsimp only) | split | (with_reducible refine Only.leaf ?_ ?_)
    | (unfold Same; intro p hq; cases p <;> first | exact absurd (hp (by decide)) hq | dsimp only [Part.same])

end Sys2Proof.Machine
end

