-- ==== Sys2Proof/Laws/OnlyFlags.lean ====
section
/-!
SUPPORT. What the operations of Machine/Flags.lean can change (Laws/Only.lean).
-/

namespace Sys2Proof.Machine

theorem State.countFlushed_only {parts : List Part} {s0 s : State} (h : Only parts s0 s) (hp : [.objects] ⊆ parts) (n
      : Nat) :
    Only parts s0 (State.countFlushed s n) := by
  unfold State.countFlushed
  repeat' first
    | with_reducible assumption | with_reducible exact List.Subset.trans (by decide) hp | with_reducible intro _
    | (with_reducible apply State.on_only) | (with_reducible apply State.count64_only) | (dsimp only) | split
    | (with_reducible refine Only.leaf ?_ ?_)
    | (unfold Same; intro p hq; cases p <;> first | exact absurd (hp (by decide)) hq | dsimp only [Part.same])

theorem State.sendDeltas_only {parts : List Part} {s0 s : State} (h : Only parts s0 s) (hp : [.deltas] ⊆ parts) (ds :
      List Delta) :
    Only parts s0 (State.sendDeltas s ds) := by
  unfold State.sendDeltas
  repeat' first
    | with_reducible assumption | with_reducible exact List.Subset.trans (by decide) hp | with_reducible intro _
    | (dsimp only) | split | (with_reducible refine Only.leaf ?_ ?_)
    | (unfold Same; intro p hq; cases p <;> first | exact absurd (hp (by decide)) hq | dsimp only [Part.same])

end Sys2Proof.Machine
end

