-- ==== Sys2Proof/Laws/OnlyMemMap.lean ====
section
/-!
SUPPORT. What the operations of Machine/MemMap.lean can change (Laws/Only.lean).
-/

namespace Sys2Proof.Machine

theorem State.setMem_only {parts : List Part} {s0 s : State} (h : Only parts s0 s) (hp : [.memctl] ⊆ parts) (f :
      MemCtl → MemCtl) :
    Only parts s0 (State.setMem s f) := by
  unfold State.setMem
  repeat' first
    | with_reducible assumption | with_reducible exact List.Subset.trans (by decide) hp | with_reducible intro _
    | (dsimp only) | split | (with_reducible refine Only.leaf ?_ ?_)
    | (unfold Same; intro p hq; cases p <;> first | exact absurd (hp (by decide)) hq | dsimp only [Part.same])

theorem State.setPc_only {parts : List Part} {s0 s : State} (h : Only parts s0 s) (hp : [.memctl] ⊆ parts) (p : Nat)
      (v : PcErr) :
    Only parts s0 (State.setPc s p v) := by
  unfold State.setPc
  repeat' first
    | with_reducible assumption | with_reducible exact List.Subset.trans (by decide) hp | with_reducible intro _
    | (with_reducible apply State.setMem_only) | (dsimp only) | split | (with_reducible refine Only.leaf ?_ ?_)
    | (unfold Same; intro p hq; cases p <;> first | exact absurd (hp (by decide)) hq | dsimp only [Part.same])

theorem State.logPc_only {parts : List Part} {s0 s : State} (h : Only parts s0 s) (hp : [.objects, .ring] ⊆ parts)
      (ev p : Nat) (a : Option Nat) :
    Only parts s0 (State.logPc s ev p a) := by
  unfold State.logPc
  repeat' first
    | with_reducible assumption | with_reducible exact List.Subset.trans (by decide) hp | with_reducible intro _
    | (with_reducible apply State.log_only) | (dsimp only) | split | (with_reducible refine Only.leaf ?_ ?_)
    | (unfold Same; intro p hq; cases p <;> first | exact absurd (hp (by decide)) hq | dsimp only [Part.same])

theorem State.readPoison_only {parts : List Part} {s0 s : State} (h : Only parts s0 s) (hp : [.objects, .ring] ⊆
      parts) (a n : Nat) :
    Only parts s0 (State.readPoison s a n) := by
  unfold State.readPoison
  repeat' first
    | with_reducible assumption | with_reducible exact List.Subset.trans (by decide) hp | with_reducible intro _
    | (with_reducible apply State.logPc_only) | (dsimp only) | split | (with_reducible refine Only.leaf ?_ ?_)
    | (unfold Same; intro p hq; cases p <;> first | exact absurd (hp (by decide)) hq | dsimp only [Part.same])

end Sys2Proof.Machine
end

