-- ==== Sys2Proof/Laws/OnlyPackets.lean ====
section
/-!
SUPPORT. What the operations of Machine/Packets.lean can change (Laws/Only.lean).
-/

namespace Sys2Proof.Machine

theorem State.owe_only {parts : List Part} {s0 s : State} (h : Only parts s0 s) (hp : [.links] ⊆ parts) (die port vc
      n : Nat) :
    Only parts s0 (State.owe s die port vc n) := by
  unfold State.owe
  repeat' first
    | with_reducible assumption | with_reducible exact List.Subset.trans (by decide) hp | with_reducible intro _
    | (with_reducible apply Only.ite) | (with_reducible apply State.mapLink_only) | (dsimp only) | split
    | (with_reducible refine Only.leaf ?_ ?_)
    | (unfold Same; intro p hq; cases p <;> first | exact absurd (hp (by decide)) hq | dsimp only [Part.same])

theorem State.returnCredits_only {parts : List Part} {s0 s : State} (h : Only parts s0 s) (hp : [.out, .links] ⊆
      parts) (l : Nat) :
    Only parts s0 (State.returnCredits s l) := by
  unfold State.returnCredits
  repeat' first
    | with_reducible assumption | with_reducible exact List.Subset.trans (by decide) hp | with_reducible intro _
    | (with_reducible apply State.emit_only) | (with_reducible apply State.mapLink_only) | (dsimp only) | split
    | (with_reducible refine Only.leaf ?_ ?_)
    | (unfold Same; intro p hq; cases p <;> first | exact absurd (hp (by decide)) hq | dsimp only [Part.same])

theorem State.addCredits_only {parts : List Part} {s0 s : State} (h : Only parts s0 s) (hp : [.links] ⊆ parts) (l :
      Nat) (credits : List Nat) :
    Only parts s0 (State.addCredits s l credits) := by
  unfold State.addCredits
  repeat' first
    | with_reducible assumption | with_reducible exact List.Subset.trans (by decide) hp | with_reducible intro _
    | (with_reducible apply State.mapLink_only) | (dsimp only) | split | (with_reducible refine Only.leaf ?_ ?_)
    | (unfold Same; intro p hq; cases p <;> first | exact absurd (hp (by decide)) hq | dsimp only [Part.same])

theorem State.enqueue_only {parts : List Part} {s0 s : State} (h : Only parts s0 s) (hp : [.links] ⊆ parts) (l : Nat)
      (q : Queued) :
    Only parts s0 (State.enqueue s l q) := by
  unfold State.enqueue
  repeat' first
    | with_reducible assumption | with_reducible exact List.Subset.trans (by decide) hp | with_reducible intro _
    | (with_reducible apply Only.ite) | (with_reducible apply State.mapLink_only) | (dsimp only) | split
    | (with_reducible refine Only.leaf ?_ ?_)
    | (unfold Same; intro p hq; cases p <;> first | exact absurd (hp (by decide)) hq | dsimp only [Part.same])

end Sys2Proof.Machine
end

