-- ==== Sys2Proof/Laws/OnlyHold.lean ====
section
/-!
SUPPORT. What the operations of Machine/Hold.lean can change (Laws/Only.lean).
-/

namespace Sys2Proof.Machine

theorem State.flood_only {parts : List Part} {s0 s : State} (h : Only parts s0 s) (hp : [.links] ⊆ parts) (msg :
      BitVec 256) (except : Option Nat) :
    Only parts s0 (State.flood s msg except) := by
  unfold State.flood
  repeat' first
    | with_reducible assumption | with_reducible exact List.Subset.trans (by decide) hp | with_reducible intro _
    | (with_reducible apply Only.ite) | (with_reducible apply State.each_only)
    | (with_reducible apply State.enqueue_only) | (dsimp only) | split | (with_reducible refine Only.leaf ?_ ?_)
    | (unfold Same; intro p hq; cases p <;> first | exact absurd (hp (by decide)) hq | dsimp only [Part.same])

theorem State.firstSeen_only {parts : List Part} {s0 s : State} (h : Only parts s0 s) (hp : [.hold] ⊆ parts) (origin
      seq kind : Nat) :
    Only parts s0 (State.firstSeen s origin seq kind).2 := by
  unfold State.firstSeen
  repeat' first
    | with_reducible assumption | with_reducible exact List.Subset.trans (by decide) hp | with_reducible intro _
    | (with_reducible apply Only.ite) | (with_reducible apply Only.ite2) | (dsimp only) | split
    | (with_reducible refine Only.leaf ?_ ?_)
    | (unfold Same; intro p hq; cases p <;> first | exact absurd (hp (by decide)) hq | dsimp only [Part.same])

theorem State.setHold_only {parts : List Part} {s0 s : State} (h : Only parts s0 s) (hp : [.hold] ⊆ parts) (f :
      HallHold → HallHold) :
    Only parts s0 (State.setHold s f) := by
  unfold State.setHold
  repeat' first
    | with_reducible assumption | with_reducible exact List.Subset.trans (by decide) hp | with_reducible intro _
    | (dsimp only) | split | (with_reducible refine Only.leaf ?_ ?_)
    | (unfold Same; intro p hq; cases p <;> first | exact absurd (hp (by decide)) hq | dsimp only [Part.same])

theorem State.originateHoldAt_only {parts : List Part} {s0 s : State} (h : Only parts s0 s) (hp : [.hold, .links] ⊆
      parts) (cause tick : Nat) :
    Only parts s0 (State.originateHoldAt s cause tick).2 := by
  unfold State.originateHoldAt
  repeat' first
    | with_reducible assumption | with_reducible exact List.Subset.trans (by decide) hp | with_reducible intro _
    | (with_reducible apply State.flood_only) | (with_reducible apply State.firstSeen_only)
    | (with_reducible apply State.setHold_only) | (with_reducible refine Only.snd ?_ (by assumption))
    | (dsimp only) | split | (with_reducible refine Only.leaf ?_ ?_)
    | (unfold Same; intro p hq; cases p <;> first | exact absurd (hp (by decide)) hq | dsimp only [Part.same])

theorem State.originateHold_only {parts : List Part} {s0 s : State} (h : Only parts s0 s) (hp : [.hold, .links] ⊆
      parts) (cause : Nat) :
    Only parts s0 (State.originateHold s cause).2 := by
  unfold State.originateHold
  repeat' first
    | with_reducible assumption | with_reducible exact List.Subset.trans (by decide) hp | with_reducible intro _
    | (with_reducible apply State.originateHoldAt_only) | (with_reducible refine Only.snd ?_ (by assumption))
    | (dsimp only) | split | (with_reducible refine Only.leaf ?_ ?_)
    | (unfold Same; intro p hq; cases p <;> first | exact absurd (hp (by decide)) hq | dsimp only [Part.same])

theorem State.originateResume_only {parts : List Part} {s0 s : State} (h : Only parts s0 s) (hp : [.hold, .links] ⊆
      parts) (seq : Nat) :
    Only parts s0 (State.originateResume s seq) := by
  unfold State.originateResume
  repeat' first
    | with_reducible assumption | with_reducible exact List.Subset.trans (by decide) hp | with_reducible intro _
    | (with_reducible apply Only.ite) | (with_reducible apply State.flood_only)
    | (with_reducible apply State.firstSeen_only) | (with_reducible apply State.setHold_only)
    | (with_reducible refine Only.snd ?_ (by assumption)) | (dsimp only) | split
    | (with_reducible refine Only.leaf ?_ ?_)
    | (unfold Same; intro p hq; cases p <;> first | exact absurd (hp (by decide)) hq | dsimp only [Part.same])

theorem State.schedFault_only {parts : List Part} {s0 s : State} (h : Only parts s0 s) (hp : [.hold] ⊆ parts)  :
    Only parts s0 (State.schedFault s) := by
  unfold State.schedFault
  repeat' first
    | with_reducible assumption | with_reducible exact List.Subset.trans (by decide) hp | with_reducible intro _
    | (with_reducible apply State.setHold_only) | (dsimp only) | split | (with_reducible refine Only.leaf ?_ ?_)
    | (unfold Same; intro p hq; cases p <;> first | exact absurd (hp (by decide)) hq | dsimp only [Part.same])

theorem State.stopAll_only {parts : List Part} {s0 s : State} (h : Only parts s0 s) (hp : [.ctxs] ⊆ parts)  :
    Only parts s0 (State.stopAll s) := by
  unfold State.stopAll
  repeat' first
    | with_reducible assumption | with_reducible exact List.Subset.trans (by decide) hp | with_reducible intro _
    | (with_reducible apply Only.ite) | (with_reducible apply State.each_only) | (dsimp only) | split
    | (with_reducible refine Only.leaf ?_ ?_)
    | (unfold Same; intro p hq; cases p <;> first | exact absurd (hp (by decide)) hq | dsimp only [Part.same])

theorem State.faultCount_only {parts : List Part} {s0 s : State} (h : Only parts s0 s) (hp : [.objects] ⊆ parts)
      (cause : Nat) :
    Only parts s0 (State.faultCount s cause) := by
  unfold State.faultCount
  repeat' first
    | with_reducible assumption | with_reducible exact List.Subset.trans (by decide) hp | with_reducible intro _
    | (with_reducible apply State.count_only) | (dsimp only) | split | (with_reducible refine Only.leaf ?_ ?_)
    | (unfold Same; intro p hq; cases p <;> first | exact absurd (hp (by decide)) hq | dsimp only [Part.same])

theorem State.jobFail_only {parts : List Part} {s0 s : State} (h : Only parts s0 s) (hp : [.out, .hold, .links,
      .ctxs, .objects, .ring, .msix, .alert] ⊆ parts) (cause : Nat) :
    Only parts s0 (State.jobFail s cause) := by
  unfold State.jobFail
  repeat' first
    | with_reducible assumption | with_reducible exact List.Subset.trans (by decide) hp | with_reducible intro _
    | (with_reducible apply Only.ite) | (with_reducible apply State.setObj_only)
    | (with_reducible apply State.log_only) | (with_reducible apply State.alerting_only)
    | (with_reducible apply State.interrupt_only) | (with_reducible apply State.setHold_only)
    | (with_reducible apply State.originateHold_only) | (with_reducible apply State.schedFault_only)
    | (with_reducible apply State.stopAll_only) | (with_reducible refine Only.snd ?_ (by assumption))
    | (dsimp only) | split | (with_reducible refine Only.leaf ?_ ?_)
    | (unfold Same; intro p hq; cases p <;> first | exact absurd (hp (by decide)) hq | dsimp only [Part.same])

theorem State.outOfService_only {parts : List Part} {s0 s : State} (h : Only parts s0 s) (hp : [.out, .hold, .links,
      .ctxs, .objects, .ring, .msix, .alert] ⊆ parts) (ev : Nat) :
    Only parts s0 (State.outOfService s ev) := by
  unfold State.outOfService
  repeat' first
    | with_reducible assumption | with_reducible exact List.Subset.trans (by decide) hp | with_reducible intro _
    | (with_reducible apply Only.ite) | (with_reducible apply State.setObj_only)
    | (with_reducible apply State.log_only) | (with_reducible apply State.alerting_only)
    | (with_reducible apply State.interrupt_only) | (with_reducible apply State.faultCount_only)
    | (with_reducible apply State.jobFail_only) | (dsimp only) | split | (with_reducible refine Only.leaf ?_ ?_)
    | (unfold Same; intro p hq; cases p <;> first | exact absurd (hp (by decide)) hq | dsimp only [Part.same])

theorem State.countedReset_only {parts : List Part} {s0 s : State} (h : Only parts s0 s) (hp : [.out, .hold, .links,
      .ctxs, .objects, .ring, .faults, .msix, .alert] ⊆ parts) (f : State → State) (hf : ∀ u, Only parts s0 u → Only
      parts s0 (f u)) :
    Only parts s0 (State.countedReset s f) := by
  unfold State.countedReset
  repeat' first
    | with_reducible assumption | with_reducible exact List.Subset.trans (by decide) hp | with_reducible intro _
    | (with_reducible apply Only.ite) | (with_reducible apply hf) | (with_reducible apply State.log_only)
    | (with_reducible apply State.outOfService_only) | (dsimp only) | split
    | (with_reducible refine Only.leaf ?_ ?_)
    | (unfold Same; intro p hq; cases p <;> first | exact absurd (hp (by decide)) hq | dsimp only [Part.same])

theorem State.timeLoss_only {parts : List Part} {s0 s : State} (h : Only parts s0 s) (hp : [.out, .hold, .links,
      .ctxs, .objects, .ring, .msix, .alert] ⊆ parts)  :
    Only parts s0 (State.timeLoss s) := by
  unfold State.timeLoss
  repeat' first
    | with_reducible assumption | with_reducible exact List.Subset.trans (by decide) hp | with_reducible intro _
    | (with_reducible apply Only.ite) | (with_reducible apply State.log_only)
    | (with_reducible apply State.faultCount_only) | (with_reducible apply State.jobFail_only) | (dsimp only)
    | split | (with_reducible refine Only.leaf ?_ ?_)
    | (unfold Same; intro p hq; cases p <;> first | exact absurd (hp (by decide)) hq | dsimp only [Part.same])

end Sys2Proof.Machine
end

