-- ==== Sys2Proof/Laws/OnlySync.lean ====
section
/-!
SUPPORT. What the operations of Machine/Sync.lean can change (Laws/Only.lean).
-/

namespace Sys2Proof.Machine

theorem State.retire_only {parts : List Part} {s0 s : State} (h : Only parts s0 s) (hp : [.ctxs] ⊆ parts) (c x : Nat)
      :
    Only parts s0 (State.retire s c x) := by
  unfold State.retire
  repeat' first
    | with_reducible assumption | with_reducible exact List.Subset.trans (by decide) hp | with_reducible intro _
    | (with_reducible apply State.mapCtx_only) | (dsimp only) | split | (with_reducible refine Only.leaf ?_ ?_)
    | (unfold Same; intro p hq; cases p <;> first | exact absurd (hp (by decide)) hq | dsimp only [Part.same])

theorem State.ctxEnded_only {parts : List Part} {s0 s : State} (h : Only parts s0 s) (hp : [.out, .msix] ⊆ parts) (c
      x : Nat) :
    Only parts s0 (State.ctxEnded s c x) := by
  unfold State.ctxEnded
  repeat' first
    | with_reducible assumption | with_reducible exact List.Subset.trans (by decide) hp | with_reducible intro _
    | (with_reducible apply Only.ite) | (with_reducible apply State.interrupt_only) | (dsimp only) | split
    | (with_reducible refine Only.leaf ?_ ?_)
    | (unfold Same; intro p hq; cases p <;> first | exact absurd (hp (by decide)) hq | dsimp only [Part.same])

theorem State.ctxStops_only {parts : List Part} {s0 s : State} (h : Only parts s0 s) (hp : [.out, .msix] ⊆ parts) (c
      x : Nat) :
    Only parts s0 (State.ctxStops s c x) := by
  unfold State.ctxStops
  repeat' first
    | with_reducible assumption | with_reducible exact List.Subset.trans (by decide) hp | with_reducible intro _
    | (with_reducible apply State.emit_only) | (with_reducible apply State.ctxEnded_only) | (dsimp only) | split
    | (with_reducible refine Only.leaf ?_ ?_)
    | (unfold Same; intro p hq; cases p <;> first | exact absurd (hp (by decide)) hq | dsimp only [Part.same])

theorem State.ctxFault_only {parts : List Part} {s0 s : State} (h : Only parts s0 s) (hp : [.out, .hold, .links,
      .ctxs, .objects, .ring, .msix, .alert] ⊆ parts) (c x cause : Nat) :
    Only parts s0 (State.ctxFault s c x cause) := by
  unfold State.ctxFault
  repeat' first
    | with_reducible assumption | with_reducible exact List.Subset.trans (by decide) hp | with_reducible intro _
    | (with_reducible apply State.on_only) | (with_reducible apply State.count_only)
    | (with_reducible apply State.log_only) | (with_reducible apply State.setCtx_only)
    | (with_reducible apply State.faultCount_only) | (with_reducible apply State.jobFail_only)
    | (with_reducible apply State.ctxStops_only) | (dsimp only) | split | (with_reducible refine Only.leaf ?_ ?_)
    | (unfold Same; intro p hq; cases p <;> first | exact absurd (hp (by decide)) hq | dsimp only [Part.same])

theorem State.brokenWait_only {parts : List Part} {s0 s : State} (h : Only parts s0 s) (hp : [.out, .hold, .links,
      .ctxs, .objects, .ring, .msix, .alert] ⊆ parts) (c x : Nat) :
    Only parts s0 (State.brokenWait s c x) := by
  unfold State.brokenWait
  repeat' first
    | with_reducible assumption | with_reducible exact List.Subset.trans (by decide) hp | with_reducible intro _
    | (with_reducible apply State.log_only) | (with_reducible apply State.ctxFault_only) | (dsimp only) | split
    | (with_reducible refine Only.leaf ?_ ?_)
    | (unfold Same; intro p hq; cases p <;> first | exact absurd (hp (by decide)) hq | dsimp only [Part.same])

theorem State.evalSem_only {parts : List Part} {s0 s : State} (h : Only parts s0 s) (hp : [.out, .hold, .links,
      .ctxs, .sems, .objects, .ring, .msix, .alert] ⊆ parts) (c n : Nat) :
    Only parts s0 (State.evalSem s c n) := by
  unfold State.evalSem
  repeat' first
    | with_reducible assumption | with_reducible exact List.Subset.trans (by decide) hp | with_reducible intro _
    | (with_reducible apply Only.ite) | (with_reducible apply State.setSem_only)
    | (with_reducible apply State.each_only) | (with_reducible apply State.retire_only)
    | (with_reducible apply State.brokenWait_only) | (dsimp only) | split | (with_reducible refine Only.leaf ?_ ?_)
    | (unfold Same; intro p hq; cases p <;> first | exact absurd (hp (by decide)) hq | dsimp only [Part.same])

theorem State.breakSem_only {parts : List Part} {s0 s : State} (h : Only parts s0 s) (hp : [.out, .hold, .links,
      .ctxs, .sems, .objects, .ring, .msix, .alert] ⊆ parts) (c n : Nat) :
    Only parts s0 (State.breakSem s c n) := by
  unfold State.breakSem
  repeat' first
    | with_reducible assumption | with_reducible exact List.Subset.trans (by decide) hp | with_reducible intro _
    | (with_reducible apply State.setSem_only) | (with_reducible apply State.evalSem_only) | (dsimp only) | split
    | (with_reducible refine Only.leaf ?_ ?_)
    | (unfold Same; intro p hq; cases p <;> first | exact absurd (hp (by decide)) hq | dsimp only [Part.same])

theorem State.wakeDie_only {parts : List Part} {s0 s : State} (h : Only parts s0 s) (hp : [.dies, .supply] ⊆ parts)
      (d : Nat) :
    Only parts s0 (State.wakeDie s d) := by
  unfold State.wakeDie
  repeat' first
    | with_reducible assumption | with_reducible exact List.Subset.trans (by decide) hp | with_reducible intro _
    | (dsimp only) | split | (with_reducible refine Only.leaf ?_ ?_)
    | (unfold Same; intro p hq; cases p <;> first | exact absurd (hp (by decide)) hq | dsimp only [Part.same])

theorem State.wakeCore_only {parts : List Part} {s0 s : State} (h : Only parts s0 s) (hp : [.cores, .dies, .supply] ⊆
      parts) (c : Nat) :
    Only parts s0 (State.wakeCore s c) := by
  unfold State.wakeCore
  repeat' first
    | with_reducible assumption | with_reducible exact List.Subset.trans (by decide) hp | with_reducible intro _
    | (with_reducible apply State.mapCore_only) | (with_reducible apply State.wakeDie_only) | (dsimp only) | split
    | (with_reducible refine Only.leaf ?_ ?_)
    | (unfold Same; intro p hq; cases p <;> first | exact absurd (hp (by decide)) hq | dsimp only [Part.same])

theorem State.post_only {parts : List Part} {s0 s : State} (h : Only parts s0 s) (hp : [.out, .hold, .links, .cores,
      .ctxs, .sems, .dies, .objects, .ring, .msix, .supply, .alert] ⊆ parts) (c sem n : Nat) (inner : Bool) :
    Only parts s0 (State.post s c sem n inner) := by
  unfold State.post
  repeat' first
    | with_reducible assumption | with_reducible exact List.Subset.trans (by decide) hp | with_reducible intro _
    | (with_reducible apply Only.ite) | (with_reducible apply State.count_only)
    | (with_reducible apply State.log_only) | (with_reducible apply State.mapCore_only)
    | (with_reducible apply State.mapCtx_only) | (with_reducible apply State.setSem_only)
    | (with_reducible apply State.each_only) | (with_reducible apply State.evalSem_only)
    | (with_reducible apply State.breakSem_only) | (with_reducible apply State.wakeCore_only) | (dsimp only)
    | split | (with_reducible refine Only.leaf ?_ ?_)
    | (unfold Same; intro p hq; cases p <;> first | exact absurd (hp (by decide)) hq | dsimp only [Part.same])

theorem State.postDone_only {parts : List Part} {s0 s : State} (h : Only parts s0 s) (hp : [.out, .hold, .links,
      .cores, .ctxs, .sems, .dies, .objects, .ring, .msix, .supply, .alert] ⊆ parts) (c sem : Nat) (inner : Bool) :
    Only parts s0 (State.postDone s c sem inner) := by
  unfold State.postDone
  repeat' first
    | with_reducible assumption | with_reducible exact List.Subset.trans (by decide) hp | with_reducible intro _
    | (with_reducible apply Only.ite) | (with_reducible apply State.post_only) | (dsimp only) | split
    | (with_reducible refine Only.leaf ?_ ?_)
    | (unfold Same; intro p hq; cases p <;> first | exact absurd (hp (by decide)) hq | dsimp only [Part.same])

theorem State.breakDone_only {parts : List Part} {s0 s : State} (h : Only parts s0 s) (hp : [.out, .hold, .links,
      .ctxs, .sems, .objects, .ring, .msix, .alert] ⊆ parts) (c sem : Nat) :
    Only parts s0 (State.breakDone s c sem) := by
  unfold State.breakDone
  repeat' first
    | with_reducible assumption | with_reducible exact List.Subset.trans (by decide) hp | with_reducible intro _
    | (with_reducible apply Only.ite) | (with_reducible apply State.breakSem_only) | (dsimp only) | split
    | (with_reducible refine Only.leaf ?_ ?_)
    | (unfold Same; intro p hq; cases p <;> first | exact absurd (hp (by decide)) hq | dsimp only [Part.same])

theorem State.breakProducer_only {parts : List Part} {s0 s : State} (h : Only parts s0 s) (hp : [.out, .hold, .links,
      .ctxs, .sems, .objects, .ring, .msix, .alert] ⊆ parts) (dom : Nat) :
    Only parts s0 (State.breakProducer s dom) := by
  unfold State.breakProducer
  repeat' first
    | with_reducible assumption | with_reducible exact List.Subset.trans (by decide) hp | with_reducible intro _
    | (with_reducible apply Only.ite) | (with_reducible apply State.each_only)
    | (with_reducible apply State.breakSem_only) | (dsimp only) | split | (with_reducible refine Only.leaf ?_ ?_)
    | (unfold Same; intro p hq; cases p <;> first | exact absurd (hp (by decide)) hq | dsimp only [Part.same])

theorem State.countStalls_only {parts : List Part} {s0 s : State} (h : Only parts s0 s) (hp : [.ctxs, .objects] ⊆
      parts)  :
    Only parts s0 (State.countStalls s) := by
  unfold State.countStalls
  repeat' first
    | with_reducible assumption | with_reducible exact List.Subset.trans (by decide) hp | with_reducible intro _
    | (with_reducible apply State.count64_only) | (with_reducible apply Only.foldl)
    | (with_reducible apply Only.foldl1) | (with_reducible apply Only.foldl2) | (dsimp only) | split
    | (with_reducible refine Only.leaf ?_ ?_)
    | (unfold Same; intro p hq; cases p <;> first | exact absurd (hp (by decide)) hq | dsimp only [Part.same])

theorem State.noteActive_only {parts : List Part} {s0 s : State} (h : Only parts s0 s) (hp : [.cores] ⊆ parts) (c :
      Nat) :
    Only parts s0 (State.noteActive s c) := by
  unfold State.noteActive
  repeat' first
    | with_reducible assumption | with_reducible exact List.Subset.trans (by decide) hp | with_reducible intro _
    | (with_reducible apply State.mapCore_only) | (dsimp only) | split | (with_reducible refine Only.leaf ?_ ?_)
    | (unfold Same; intro p hq; cases p <;> first | exact absurd (hp (by decide)) hq | dsimp only [Part.same])

theorem State.evalWaitQ_only {parts : List Part} {s0 s : State} (h : Only parts s0 s) (hp : [.ctxs] ⊆ parts) (c :
      Nat) :
    Only parts s0 (State.evalWaitQ s c) := by
  unfold State.evalWaitQ
  repeat' first
    | with_reducible assumption | with_reducible exact List.Subset.trans (by decide) hp | with_reducible intro _
    | (with_reducible apply Only.ite) | (with_reducible apply State.each_only)
    | (with_reducible apply State.retire_only) | (dsimp only) | split | (with_reducible refine Only.leaf ?_ ?_)
    | (unfold Same; intro p hq; cases p <;> first | exact absurd (hp (by decide)) hq | dsimp only [Part.same])

end Sys2Proof.Machine
end

