-- ==== Sys2Proof/Laws/OnlyJunction.lean ====
section
/-!
SUPPORT. What the operations of Machine/Junction.lean can change (Laws/Only.lean).
-/

namespace Sys2Proof.Machine

theorem State.deliver_only {parts : List Part} {s0 s : State} (h : Only parts s0 s) (hp : [.out, .fabric, .objects,
      .ring] ⊆ parts) (p : Packet) :
    Only parts s0 (State.deliver s p) := by
  unfold State.deliver
  repeat' first
    | with_reducible assumption | with_reducible exact List.Subset.trans (by decide) hp | with_reducible intro _
    | (with_reducible apply Only.ite) | (with_reducible apply State.emit_only)
    | (with_reducible apply State.count_only) | (with_reducible apply State.log_only) | (dsimp only) | split
    | (with_reducible refine Only.leaf ?_ ?_)
    | (unfold Same; intro p hq; cases p <;> first | exact absurd (hp (by decide)) hq | dsimp only [Part.same])

theorem State.keepWaiting_only {parts : List Part} {s0 s : State} (h : Only parts s0 s) (hp : [.fabric] ⊆ parts) (w :
      Waiting) :
    Only parts s0 (State.keepWaiting s w) := by
  unfold State.keepWaiting
  repeat' first
    | with_reducible assumption | with_reducible exact List.Subset.trans (by decide) hp | with_reducible intro _
    | (dsimp only) | split | (with_reducible refine Only.leaf ?_ ?_)
    | (unfold Same; intro p hq; cases p <;> first | exact absurd (hp (by decide)) hq | dsimp only [Part.same])

theorem State.route_only {parts : List Part} {s0 s : State} (h : Only parts s0 s) (hp : [.out, .links, .fabric,
      .objects, .ring] ⊆ parts) (w : Waiting) (answer : State → Packet → State) (hanswer : ∀ u x1, Only parts s0 u →
      Only parts s0 (answer u x1)) :
    Only parts s0 (State.route s w answer) := by
  unfold State.route
  repeat' first
    | with_reducible assumption | with_reducible exact List.Subset.trans (by decide) hp | with_reducible intro _
    | (with_reducible apply Only.ite) | (with_reducible apply hanswer) | (with_reducible apply State.count_only)
    | (with_reducible apply State.log_only) | (with_reducible apply State.owe_only)
    | (with_reducible apply State.enqueue_only) | (with_reducible apply State.deliver_only)
    | (with_reducible apply State.keepWaiting_only) | (dsimp only) | split
    | (with_reducible refine Only.leaf ?_ ?_)
    | (unfold Same; intro p hq; cases p <;> first | exact absurd (hp (by decide)) hq | dsimp only [Part.same])

theorem State.inject_only {parts : List Part} {s0 s : State} (h : Only parts s0 s) (hp : [.out, .links, .fabric,
      .objects, .ring] ⊆ parts) (die : Nat) (p : Packet) (unit : Option Nat) :
    Only parts s0 (State.inject s die p unit) := by
  unfold State.inject
  repeat' first
    | with_reducible assumption | with_reducible exact List.Subset.trans (by decide) hp | with_reducible intro _
    | (with_reducible apply Only.ite) | (with_reducible apply State.keepWaiting_only)
    | (with_reducible apply State.route_only) | (dsimp only) | split | (with_reducible refine Only.leaf ?_ ?_)
    | (unfold Same; intro p hq; cases p <;> first | exact absurd (hp (by decide)) hq | dsimp only [Part.same])

theorem State.errorTo_only {parts : List Part} {s0 s : State} (h : Only parts s0 s) (hp : [.out, .links, .fabric,
      .objects, .ring] ⊆ parts) (die : Nat) (p : Packet) (status : Nat) :
    Only parts s0 (State.errorTo s die p status) := by
  unfold State.errorTo
  repeat' first
    | with_reducible assumption | with_reducible exact List.Subset.trans (by decide) hp | with_reducible intro _
    | (with_reducible apply State.inject_only) | (dsimp only) | split | (with_reducible refine Only.leaf ?_ ?_)
    | (unfold Same; intro p hq; cases p <;> first | exact absurd (hp (by decide)) hq | dsimp only [Part.same])

theorem State.refusePacket_only {parts : List Part} {s0 s : State} (h : Only parts s0 s) (hp : [.out, .links,
      .fabric, .objects, .ring] ⊆ parts) (die : Nat) (p : Packet) (status : Nat) :
    Only parts s0 (State.refusePacket s die p status) := by
  unfold State.refusePacket
  repeat' first
    | with_reducible assumption | with_reducible exact List.Subset.trans (by decide) hp | with_reducible intro _
    | (with_reducible apply Only.ite) | (with_reducible apply State.errorTo_only) | (dsimp only) | split
    | (with_reducible refine Only.leaf ?_ ?_)
    | (unfold Same; intro p hq; cases p <;> first | exact absurd (hp (by decide)) hq | dsimp only [Part.same])

theorem State.forward_only {parts : List Part} {s0 s : State} (h : Only parts s0 s) (hp : [.out, .links, .fabric,
      .objects, .ring] ⊆ parts) (die port : Nat) (p : Packet) :
    Only parts s0 (State.forward s die port p) := by
  unfold State.forward
  repeat' first
    | with_reducible assumption | with_reducible exact List.Subset.trans (by decide) hp | with_reducible intro _
    | (with_reducible apply Only.ite) | (with_reducible apply State.count_only)
    | (with_reducible apply State.log_only) | (with_reducible apply State.owe_only)
    | (with_reducible apply State.route_only) | (with_reducible apply State.inject_only)
    | (with_reducible apply State.refusePacket_only) | (dsimp only) | split
    | (with_reducible refine Only.leaf ?_ ?_)
    | (unfold Same; intro p hq; cases p <;> first | exact absurd (hp (by decide)) hq | dsimp only [Part.same])

theorem State.retryWaiting_only {parts : List Part} {s0 s : State} (h : Only parts s0 s) (hp : [.out, .links,
      .fabric, .objects, .ring] ⊆ parts)  :
    Only parts s0 (State.retryWaiting s) := by
  unfold State.retryWaiting
  repeat' first
    | with_reducible assumption | with_reducible exact List.Subset.trans (by decide) hp | with_reducible intro _
    | (with_reducible apply Only.ite) | (with_reducible apply State.each_only)
    | (with_reducible apply State.keepWaiting_only) | (with_reducible apply State.route_only)
    | (with_reducible apply State.inject_only) | (dsimp only) | split | (with_reducible refine Only.leaf ?_ ?_)
    | (unfold Same; intro p hq; cases p <;> first | exact absurd (hp (by decide)) hq | dsimp only [Part.same])

theorem State.reroute_only {parts : List Part} {s0 s : State} (h : Only parts s0 s) (hp : [.out, .links, .fabric,
      .objects, .ring] ⊆ parts) (l : Nat) :
    Only parts s0 (State.reroute s l) := by
  unfold State.reroute
  repeat' first
    | with_reducible assumption | with_reducible exact List.Subset.trans (by decide) hp | with_reducible intro _
    | (with_reducible apply State.setLink_only) | (with_reducible apply State.each_only)
    | (with_reducible apply State.route_only) | (with_reducible apply State.inject_only) | (dsimp only) | split
    | (with_reducible refine Only.leaf ?_ ?_)
    | (unfold Same; intro p hq; cases p <;> first | exact absurd (hp (by decide)) hq | dsimp only [Part.same])

theorem State.sent_only {parts : List Part} {s0 s : State} (h : Only parts s0 s) (hp : [.out, .links] ⊆ parts) (l :
      Nat) (q : Queued) :
    Only parts s0 (State.sent s l q) := by
  unfold State.sent
  repeat' first
    | with_reducible assumption | with_reducible exact List.Subset.trans (by decide) hp | with_reducible intro _
    | (with_reducible apply State.emit_only) | (with_reducible apply State.mapLink_only)
    | (with_reducible apply State.owe_only) | (dsimp only) | split | (with_reducible refine Only.leaf ?_ ?_)
    | (unfold Same; intro p hq; cases p <;> first | exact absurd (hp (by decide)) hq | dsimp only [Part.same])

theorem State.sendFlits_only {parts : List Part} {s0 s : State} (h : Only parts s0 s) (hp : [.out, .links] ⊆ parts)
      (l : Nat) (y0 : Nat) (y1 : Nat) (y2 : Option (Nat × Nat)) :
    Only parts s0 (State.sendFlits s l y0 y1 y2) := by
  induction y0 generalizing s l y1 y2 with
  | zero => exact h
  | succ n ih =>
    unfold State.sendFlits
    repeat' first
    | with_reducible assumption | with_reducible exact List.Subset.trans (by decide) hp | with_reducible intro _
    | (with_reducible apply Only.ite) | (with_reducible apply ih) | (with_reducible apply State.setLink_only)
    | (with_reducible apply State.sent_only) | (dsimp only) | split | (with_reducible refine Only.leaf ?_ ?_)
    | (unfold Same; intro p hq; cases p <;> first | exact absurd (hp (by decide)) hq | dsimp only [Part.same])

theorem State.renewLease_only {parts : List Part} {s0 s : State} (h : Only parts s0 s) (hp : [.fabric] ⊆ parts) (c :
      Nat) :
    Only parts s0 (State.renewLease s c) := by
  unfold State.renewLease
  repeat' first
    | with_reducible assumption | with_reducible exact List.Subset.trans (by decide) hp | with_reducible intro _
    | (with_reducible apply State.setFlow_only) | (dsimp only) | split | (with_reducible refine Only.leaf ?_ ?_)
    | (unfold Same; intro p hq; cases p <;> first | exact absurd (hp (by decide)) hq | dsimp only [Part.same])

theorem State.setPool_only {parts : List Part} {s0 s : State} (h : Only parts s0 s) (hp : [.fabric] ⊆ parts) (die n :
      Nat) :
    Only parts s0 (State.setPool s die n) := by
  unfold State.setPool
  repeat' first
    | with_reducible assumption | with_reducible exact List.Subset.trans (by decide) hp | with_reducible intro _
    | (with_reducible apply Only.ite) | (dsimp only) | split | (with_reducible refine Only.leaf ?_ ?_)
    | (unfold Same; intro p hq; cases p <;> first | exact absurd (hp (by decide)) hq | dsimp only [Part.same])

theorem State.failIssuer_only {parts : List Part} {s0 s : State} (h : Only parts s0 s) (hp : [.movers] ⊆ parts) (r :
      Request) :
    Only parts s0 (State.failIssuer s r) := by
  unfold State.failIssuer
  repeat' first
    | with_reducible assumption | with_reducible exact List.Subset.trans (by decide) hp | with_reducible intro _
    | (with_reducible apply State.setMover_only) | (dsimp only) | split | (with_reducible refine Only.leaf ?_ ?_)
    | (unfold Same; intro p hq; cases p <;> first | exact absurd (hp (by decide)) hq | dsimp only [Part.same])

theorem State.queueRequests_only {parts : List Part} {s0 s : State} (h : Only parts s0 s) (hp : [.fabric, .movers] ⊆
      parts) (rs : List Request) :
    Only parts s0 (State.queueRequests s rs) := by
  unfold State.queueRequests
  repeat' first
    | with_reducible assumption | with_reducible exact List.Subset.trans (by decide) hp | with_reducible intro _
    | (with_reducible apply Only.ite) | (with_reducible apply State.each_only)
    | (with_reducible apply State.failIssuer_only) | (dsimp only) | split | (with_reducible refine Only.leaf ?_ ?_)
    | (unfold Same; intro p hq; cases p <;> first | exact absurd (hp (by decide)) hq | dsimp only [Part.same])

theorem State.releaseRequest_only {parts : List Part} {s0 s : State} (h : Only parts s0 s) (hp : [.fabric] ⊆ parts)
      (r : Request) (st : Nat) :
    Only parts s0 (State.releaseRequest s r st) := by
  unfold State.releaseRequest
  repeat' first
    | with_reducible assumption | with_reducible exact List.Subset.trans (by decide) hp | with_reducible intro _
    | (with_reducible apply Only.ite) | (with_reducible apply State.setFlow_only)
    | (with_reducible apply State.setPool_only) | (dsimp only) | split | (with_reducible refine Only.leaf ?_ ?_)
    | (unfold Same; intro p hq; cases p <;> first | exact absurd (hp (by decide)) hq | dsimp only [Part.same])

theorem State.sendBreak_only {parts : List Part} {s0 s : State} (h : Only parts s0 s) (hp : [.out, .links, .fabric,
      .objects, .ring] ⊆ parts) (c : Nat) (f : Flow) :
    Only parts s0 (State.sendBreak s c f) := by
  unfold State.sendBreak
  repeat' first
    | with_reducible assumption | with_reducible exact List.Subset.trans (by decide) hp | with_reducible intro _
    | (with_reducible apply State.inject_only) | (dsimp only) | split | (with_reducible refine Only.leaf ?_ ?_)
    | (unfold Same; intro p hq; cases p <;> first | exact absurd (hp (by decide)) hq | dsimp only [Part.same])

theorem State.endFlow_only {parts : List Part} {s0 s : State} (h : Only parts s0 s) (hp : [.fabric, .movers,
      .objects] ⊆ parts) (c : Nat) (f : Flow) (note : State → State) (hnote : ∀ u, Only parts s0 u → Only parts s0
      (note u)) :
    Only parts s0 (State.endFlow s c f note) := by
  unfold State.endFlow
  repeat' first
    | with_reducible assumption | with_reducible exact List.Subset.trans (by decide) hp | with_reducible intro _
    | (with_reducible apply hnote) | (with_reducible apply State.setObj_only)
    | (with_reducible apply State.setFlow_only) | (with_reducible apply State.each_only)
    | (with_reducible apply State.setPool_only) | (with_reducible apply State.failIssuer_only)
    | (with_reducible apply Only.foldl) | (with_reducible apply Only.foldl1) | (with_reducible apply Only.foldl2)
    | (dsimp only) | split | (with_reducible refine Only.leaf ?_ ?_)
    | (unfold Same; intro p hq; cases p <;> first | exact absurd (hp (by decide)) hq | dsimp only [Part.same])

theorem State.breakFlow_only {parts : List Part} {s0 s : State} (h : Only parts s0 s) (hp : [.out, .links, .fabric,
      .movers, .objects, .ring] ⊆ parts) (c err : Nat) (tell : Bool) :
    Only parts s0 (State.breakFlow s c err tell) := by
  unfold State.breakFlow
  repeat' first
    | with_reducible assumption | with_reducible exact List.Subset.trans (by decide) hp | with_reducible intro _
    | (with_reducible apply Only.ite) | (with_reducible apply State.on_only)
    | (with_reducible apply State.count_only) | (with_reducible apply State.log_only)
    | (with_reducible apply State.sendBreak_only) | (with_reducible apply State.endFlow_only) | (dsimp only)
    | split | (with_reducible refine Only.leaf ?_ ?_)
    | (unfold Same; intro p hq; cases p <;> first | exact absurd (hp (by decide)) hq | dsimp only [Part.same])

theorem State.useFlow_only {parts : List Part} {s0 s : State} (h : Only parts s0 s) (hp : [.out, .links, .fabric,
      .movers, .objects, .ring] ⊆ parts) (c : Nat) :
    Only parts s0 (State.useFlow s c) := by
  unfold State.useFlow
  repeat' first
    | with_reducible assumption | with_reducible exact List.Subset.trans (by decide) hp | with_reducible intro _
    | (with_reducible apply State.on_only) | (with_reducible apply State.count64_only)
    | (with_reducible apply State.readPoison_only) | (with_reducible apply State.breakFlow_only) | (dsimp only)
    | split | (with_reducible refine Only.leaf ?_ ?_)
    | (unfold Same; intro p hq; cases p <;> first | exact absurd (hp (by decide)) hq | dsimp only [Part.same])

theorem State.issueRequest_only {parts : List Part} {s0 s : State} (h : Only parts s0 s) (hp : [.out, .links,
      .fabric, .movers, .objects, .ring] ⊆ parts) (r : Request) :
    Only parts s0 (State.issueRequest s r) := by
  unfold State.issueRequest
  repeat' first
    | with_reducible assumption | with_reducible exact List.Subset.trans (by decide) hp | with_reducible intro _
    | (with_reducible apply Only.ite) | (with_reducible apply State.on_only)
    | (with_reducible apply State.setFlow_only) | (with_reducible apply State.inject_only)
    | (with_reducible apply State.errorTo_only) | (with_reducible apply State.renewLease_only)
    | (with_reducible apply State.setPool_only) | (with_reducible apply State.useFlow_only) | (dsimp only) | split
    | (with_reducible refine Only.leaf ?_ ?_)
    | (unfold Same; intro p hq; cases p <;> first | exact absurd (hp (by decide)) hq | dsimp only [Part.same])

theorem State.breakOwned_only {parts : List Part} {s0 s : State} (h : Only parts s0 s) (hp : [.out, .links, .fabric,
      .movers, .objects, .ring] ⊆ parts) (dom : Nat) :
    Only parts s0 (State.breakOwned s dom) := by
  unfold State.breakOwned
  repeat' first
    | with_reducible assumption | with_reducible exact List.Subset.trans (by decide) hp | with_reducible intro _
    | (with_reducible apply Only.ite) | (with_reducible apply State.each_only)
    | (with_reducible apply State.breakFlow_only) | (dsimp only) | split | (with_reducible refine Only.leaf ?_ ?_)
    | (unfold Same; intro p hq; cases p <;> first | exact absurd (hp (by decide)) hq | dsimp only [Part.same])

theorem State.releaseHolds_only {parts : List Part} {s0 s : State} (h : Only parts s0 s) (hp : [.out, .hold, .links,
      .fabric, .ctxs, .sems, .movers, .objects, .ring, .msix, .alert] ⊆ parts) (dom : Nat) :
    Only parts s0 (State.releaseHolds s dom) := by
  unfold State.releaseHolds
  repeat' first
    | with_reducible assumption | with_reducible exact List.Subset.trans (by decide) hp | with_reducible intro _
    | (with_reducible apply State.breakProducer_only) | (with_reducible apply State.breakOwned_only) | (dsimp only)
    | split | (with_reducible refine Only.leaf ?_ ?_)
    | (unfold Same; intro p hq; cases p <;> first | exact absurd (hp (by decide)) hq | dsimp only [Part.same])

theorem State.flushBreaks_only {parts : List Part} {s0 s : State} (h : Only parts s0 s) (hp : [.out] ⊆ parts)  :
    Only parts s0 (State.flushBreaks s) := by
  unfold State.flushBreaks
  repeat' first
    | with_reducible assumption | with_reducible exact List.Subset.trans (by decide) hp | with_reducible intro _
    | (with_reducible apply State.emit_only) | (with_reducible apply State.each_only) | (dsimp only) | split
    | (with_reducible refine Only.leaf ?_ ?_)
    | (unfold Same; intro p hq; cases p <;> first | exact absurd (hp (by decide)) hq | dsimp only [Part.same])

end Sys2Proof.Machine
end

