-- ==== Sys2Proof/Laws/OnlyResets.lean ====
section
/-!
SUPPORT. What the operations of Machine/Resets.lean can change (Laws/Only.lean).
-/

namespace Sys2Proof.Machine

theorem State.landCoded_only {parts : List Part} {s0 s : State} (h : Only parts s0 s) (hp : [.mem, .poison, .stores,
      .maps] ⊆ parts) (w : SlotWrite) :
    Only parts s0 (State.landCoded s w) := by
  unfold State.landCoded
  repeat' first
    | with_reducible assumption | with_reducible exact List.Subset.trans (by decide) hp | with_reducible intro _
    | (with_reducible apply Only.ite) | (with_reducible apply State.writeBytes_only)
    | (with_reducible apply Only.foldl) | (with_reducible apply Only.foldl1) | (with_reducible apply Only.foldl2)
    | (dsimp only) | split | (with_reducible refine Only.leaf ?_ ?_)
    | (unfold Same; intro p hq; cases p <;> first | exact absurd (hp (by decide)) hq | dsimp only [Part.same])

theorem State.partialWrites_only {parts : List Part} {s0 s : State} (h : Only parts s0 s) (hp : [.drawn, .mem,
      .poison, .stores, .maps] ⊆ parts) (r : MovRun) :
    Only parts s0 (State.partialWrites s r) := by
  unfold State.partialWrites
  repeat' first
    | with_reducible assumption | with_reducible exact List.Subset.trans (by decide) hp | with_reducible intro _
    | (with_reducible apply Only.ite) | (with_reducible apply State.draw_only)
    | (with_reducible apply State.writeBytes_only) | (with_reducible apply State.storeBytes_only)
    | (with_reducible apply State.each_only) | (with_reducible apply State.landCoded_only)
    | (with_reducible apply Only.foldl) | (with_reducible apply Only.foldl1) | (with_reducible apply Only.foldl2)
    | (with_reducible refine Only.snd ?_ (by assumption)) | (dsimp only) | split
    | (with_reducible refine Only.leaf ?_ ?_)
    | (unfold Same; intro p hq; cases p <;> first | exact absurd (hp (by decide)) hq | dsimp only [Part.same])

theorem State.releaseClaims_only {parts : List Part} {s0 s : State} (h : Only parts s0 s) (hp : [.fabric] ⊆ parts) (m
      : Nat) :
    Only parts s0 (State.releaseClaims s m) := by
  unfold State.releaseClaims
  repeat' first
    | with_reducible assumption | with_reducible exact List.Subset.trans (by decide) hp | with_reducible intro _
    | (with_reducible apply Only.ite) | (dsimp only) | split | (with_reducible refine Only.leaf ?_ ?_)
    | (unfold Same; intro p hq; cases p <;> first | exact absurd (hp (by decide)) hq | dsimp only [Part.same])

theorem State.moverReset_only {parts : List Part} {s0 s : State} (h : Only parts s0 s) (hp : [.out, .drawn, .hold,
      .links, .fabric, .mem, .poison, .stores, .maps, .ctxs, .sems, .movers, .objects, .ring, .msix, .alert] ⊆ parts)
      (m : Nat) :
    Only parts s0 (State.moverReset s m) := by
  unfold State.moverReset
  repeat' first
    | with_reducible assumption | with_reducible exact List.Subset.trans (by decide) hp | with_reducible intro _
    | (with_reducible apply State.log_only) | (with_reducible apply State.setMover_only)
    | (with_reducible apply State.each_only) | (with_reducible apply State.breakDone_only)
    | (with_reducible apply State.evalWaitQ_only) | (with_reducible apply State.releaseHolds_only)
    | (with_reducible apply State.partialWrites_only) | (with_reducible apply State.releaseClaims_only)
    | (dsimp only) | split | (with_reducible refine Only.leaf ?_ ?_)
    | (unfold Same; intro p hq; cases p <;> first | exact absurd (hp (by decide)) hq | dsimp only [Part.same])

theorem State.discardPasses_only {parts : List Part} {s0 s : State} (h : Only parts s0 s) (hp : [.drawn, .stores,
      .accs, .cores, .ctxs, .objects, .ring] ⊆ parts) (c : Nat) :
    Only parts s0 (State.discardPasses s c) := by
  unfold State.discardPasses
  repeat' first
    | with_reducible assumption | with_reducible exact List.Subset.trans (by decide) hp | with_reducible intro _
    | (with_reducible apply Only.ite) | (with_reducible apply State.draw_only)
    | (with_reducible apply State.on_only) | (with_reducible apply State.log_only)
    | (with_reducible apply State.storeWrite_only) | (with_reducible apply State.setCore_only)
    | (with_reducible apply State.each_only) | (with_reducible apply State.countStalls_only)
    | (with_reducible apply Only.foldl) | (with_reducible apply Only.foldl1) | (with_reducible apply Only.foldl2)
    | (with_reducible refine Only.snd ?_ (by assumption)) | (dsimp only) | split
    | (with_reducible refine Only.leaf ?_ ?_)
    | (unfold Same; intro p hq; cases p <;> first | exact absurd (hp (by decide)) hq | dsimp only [Part.same])

theorem State.coreReset_only {parts : List Part} {s0 s : State} (h : Only parts s0 s) (hp : [.out, .drawn, .hold,
      .links, .fabric, .stores, .accs, .cores, .ctxs, .sems, .movers, .objects, .ring, .msix, .alert] ⊆ parts) (c :
      Nat) :
    Only parts s0 (State.coreReset s c) := by
  unfold State.coreReset
  repeat' first
    | with_reducible assumption | with_reducible exact List.Subset.trans (by decide) hp | with_reducible intro _
    | (with_reducible apply State.on_only) | (with_reducible apply State.setCore_only)
    | (with_reducible apply State.setCtx_only) | (with_reducible apply State.setSem_only)
    | (with_reducible apply State.each_only) | (with_reducible apply State.ctxEnded_only)
    | (with_reducible apply State.releaseHolds_only) | (with_reducible apply State.discardPasses_only)
    | (dsimp only) | split | (with_reducible refine Only.leaf ?_ ?_)
    | (unfold Same; intro p hq; cases p <;> first | exact absurd (hp (by decide)) hq | dsimp only [Part.same])

theorem State.replayReset_only {parts : List Part} {s0 s : State} (h : Only parts s0 s) (hp : [.out, .drawn, .links,
      .fabric, .stores, .accs, .cores, .ctxs, .sems, .movers, .objects, .ring] ⊆ parts) (c : Nat) :
    Only parts s0 (State.replayReset s c) := by
  unfold State.replayReset
  repeat' first
    | with_reducible assumption | with_reducible exact List.Subset.trans (by decide) hp | with_reducible intro _
    | (with_reducible apply State.count_only) | (with_reducible apply State.mapCore_only)
    | (with_reducible apply State.setCtx_only) | (with_reducible apply State.setSem_only)
    | (with_reducible apply State.each_only) | (with_reducible apply State.noteActive_only)
    | (with_reducible apply State.breakOwned_only) | (with_reducible apply State.discardPasses_only) | (dsimp only)
    | split | (with_reducible refine Only.leaf ?_ ?_)
    | (unfold Same; intro p hq; cases p <;> first | exact absurd (hp (by decide)) hq | dsimp only [Part.same])

end Sys2Proof.Machine
end

