-- ==== Sys2Proof/Laws/OnlyIssue.lean ====
section
/-!
SUPPORT. What the operations of Machine/Issue.lean can change (Laws/Only.lean).
-/

namespace Sys2Proof.Machine

theorem State.reject_only {parts : List Part} {s0 s : State} (h : Only parts s0 s) (hp : [.out, .hold, .links, .ctxs,
      .objects, .ring, .msix, .alert] ⊆ parts) (c x : Nat) (r : Reject) :
    Only parts s0 (State.reject s c x r) := by
  unfold State.reject
  repeat' first
    | with_reducible assumption | with_reducible exact List.Subset.trans (by decide) hp | with_reducible intro _
    | (with_reducible apply State.on_only) | (with_reducible apply State.count_only)
    | (with_reducible apply State.log_only) | (with_reducible apply State.ctxFault_only) | (dsimp only) | split
    | (with_reducible refine Only.leaf ?_ ?_)
    | (unfold Same; intro p hq; cases p <;> first | exact absurd (hp (by decide)) hq | dsimp only [Part.same])

theorem State.tookTurn_only {parts : List Part} {s0 s : State} (h : Only parts s0 s) (hp : [.cores] ⊆ parts) (c q x :
      Nat) :
    Only parts s0 (State.tookTurn s c q x) := by
  unfold State.tookTurn
  repeat' first
    | with_reducible assumption | with_reducible exact List.Subset.trans (by decide) hp | with_reducible intro _
    | (with_reducible apply State.mapCore_only) | (dsimp only) | split | (with_reducible refine Only.leaf ?_ ?_)
    | (unfold Same; intro p hq; cases p <;> first | exact absurd (hp (by decide)) hq | dsimp only [Part.same])

theorem State.enterQueue_only {parts : List Part} {s0 s : State} (h : Only parts s0 s) (hp : [.cores, .ctxs] ⊆ parts)
      (c x q : Nat) (xs : List Nat) (room : Bool) (enter : State → State) (w : Wait) (henter : ∀ u, Only parts s0 u →
      Only parts s0 (enter u)) :
    Only parts s0 (State.enterQueue s c x q xs room enter w) := by
  unfold State.enterQueue
  repeat' first
    | with_reducible assumption | with_reducible exact List.Subset.trans (by decide) hp | with_reducible intro _
    | (with_reducible apply Only.ite) | (with_reducible apply henter) | (with_reducible apply State.mapCtx_only)
    | (with_reducible apply State.retire_only) | (with_reducible apply State.tookTurn_only) | (dsimp only) | split
    | (with_reducible refine Only.leaf ?_ ?_)
    | (unfold Same; intro p hq; cases p <;> first | exact absurd (hp (by decide)) hq | dsimp only [Part.same])

theorem State.streamMiss_only {parts : List Part} {s0 s : State} (h : Only parts s0 s) (hp : [.ctxs, .objects] ⊆
      parts) (c x : Nat) :
    Only parts s0 (State.streamMiss s c x) := by
  unfold State.streamMiss
  repeat' first
    | with_reducible assumption | with_reducible exact List.Subset.trans (by decide) hp | with_reducible intro _
    | (with_reducible apply State.count64_only) | (with_reducible apply State.mapCtx_only) | (dsimp only) | split
    | (with_reducible refine Only.leaf ?_ ?_)
    | (unfold Same; intro p hq; cases p <;> first | exact absurd (hp (by decide)) hq | dsimp only [Part.same])

theorem State.issue_only {parts : List Part} {s0 s : State} (h : Only parts s0 s) (hp : [.out, .hold, .links, .cores,
      .ctxs, .objects, .ring, .msix, .alert] ⊆ parts) (c x op : Nat) (enc : Nat → Option Reject) (dyn : State → Nat →
      Option Reject) (run : State → Nat → State) (hrun : ∀ u x1, Only parts s0 u → Only parts s0 (run u x1)) :
    Only parts s0 (State.issue s c x op enc dyn run) := by
  unfold State.issue
  repeat' first
    | with_reducible assumption | with_reducible exact List.Subset.trans (by decide) hp | with_reducible intro _
    | (with_reducible apply Only.ite) | (with_reducible apply hdyn) | (with_reducible apply hrun)
    | (with_reducible apply State.count64_only) | (with_reducible apply State.retire_only)
    | (with_reducible apply State.ctxFault_only) | (with_reducible apply State.reject_only)
    | (with_reducible apply State.tookTurn_only) | (with_reducible apply State.streamMiss_only) | (dsimp only)
    | split | (with_reducible refine Only.leaf ?_ ?_)
    | (unfold Same; intro p hq; cases p <;> first | exact absurd (hp (by decide)) hq | dsimp only [Part.same])

end Sys2Proof.Machine
end

