-- ==== Sys2Proof/Laws/OnlyRecovery.lean ====
section
/-!
SUPPORT. What the operations of Machine/Recovery.lean can change (Laws/Only.lean).
-/

namespace Sys2Proof.Machine

theorem State.setFaults_only {parts : List Part} {s0 s : State} (h : Only parts s0 s) (hp : [.ring, .faults] ⊆ parts)
    (f : Faults → Faults) : Only parts s0 (State.setFaults s f) :=
  Only.leaf h (by intro p hp'; cases p <;> first | rfl | exact absurd (hp (by decide)) hp')

/-- Where the ring stay. -/
theorem State.setFaults_only' {parts : List Part} {s0 s : State} (h : Only parts s0 s) (hp : [.faults] ⊆ parts) (f :
      Faults → Faults)
    (hf : ∀ x, (f x).ring = x.ring) : Only parts s0 (State.setFaults s f) :=
  Only.leaf h (by intro p hp'; cases p <;> first | rfl | exact hf _ | exact absurd (hp (by decide)) hp')

/-- Where only the ring change. -/
theorem State.setFaults_only'' {parts : List Part} {s0 s : State} (h : Only parts s0 s) (hp : [.ring] ⊆ parts) (f :
      Faults → Faults)
    (hf : ∀ x, f x = { x with ring := (f x).ring }) : Only parts s0 (State.setFaults s f) :=
  Only.leaf h (by intro p hp'; cases p <;> first | rfl | exact hf _ | exact absurd (hp (by decide)) hp')

theorem State.setRecovery_only {parts : List Part} {s0 s : State} (h : Only parts s0 s) (hp : [.faults] ⊆ parts) (c :
      Nat) (r : Option Recovery) :
    Only parts s0 (State.setRecovery s c r) := by
  unfold State.setRecovery
  repeat' first
    | with_reducible assumption | with_reducible exact List.Subset.trans (by decide) hp | with_reducible intro _
    | (with_reducible refine State.setFaults_only' ?_ (List.Subset.trans (by decide) hp) _ (fun _ => rfl))
    | (with_reducible apply State.setFaults_only) | (dsimp only) | split | (with_reducible refine Only.leaf ?_ ?_)
    | (unfold Same; intro p hq; cases p <;> first | exact absurd (hp (by decide)) hq | dsimp only [Part.same])

theorem State.snapshot_only {parts : List Part} {s0 s : State} (h : Only parts s0 s) (hp : [.ctxs, .objects, .ring,
      .faults] ⊆ parts) (c : Nat) :
    Only parts s0 (State.snapshot s c) := by
  unfold State.snapshot
  repeat' first
    | with_reducible assumption | with_reducible exact List.Subset.trans (by decide) hp | with_reducible intro _
    | (with_reducible refine State.setFaults_only' ?_ (List.Subset.trans (by decide) hp) _ (fun _ => rfl))
    | (with_reducible apply State.log_only) | (with_reducible apply State.mapCtx_only)
    | (with_reducible apply State.each_only) | (with_reducible apply State.countStalls_only)
    | (with_reducible apply State.setFaults_only) | (dsimp only) | split | (with_reducible refine Only.leaf ?_ ?_)
    | (unfold Same; intro p hq; cases p <;> first | exact absurd (hp (by decide)) hq | dsimp only [Part.same])

theorem State.startRecovery_only {parts : List Part} {s0 s : State} (h : Only parts s0 s) (hp : [.out, .hold, .links,
      .ctxs, .objects, .ring, .faults, .msix, .alert] ⊆ parts) (c cause : Nat) (mover : Option (Fin 2)) :
    Only parts s0 (State.startRecovery s c cause mover) := by
  unfold State.startRecovery
  repeat' first
    | with_reducible assumption | with_reducible exact List.Subset.trans (by decide) hp | with_reducible intro _
    | (with_reducible apply Only.ite) | (with_reducible apply State.originateHold_only)
    | (with_reducible apply State.schedFault_only) | (with_reducible apply State.faultCount_only)
    | (with_reducible apply State.jobFail_only) | (with_reducible apply State.setRecovery_only)
    | (with_reducible apply State.snapshot_only) | (with_reducible refine Only.snd ?_ (by assumption))
    | (dsimp only) | split | (with_reducible refine Only.leaf ?_ ?_)
    | (unfold Same; intro p hq; cases p <;> first | exact absurd (hp (by decide)) hq | dsimp only [Part.same])

theorem State.startSuspects_only {parts : List Part} {s0 s : State} (h : Only parts s0 s) (hp : [.out, .hold, .links,
      .ctxs, .objects, .ring, .faults, .msix, .alert] ⊆ parts) (c : Nat) (r : Recovery) :
    Only parts s0 (State.startSuspects s c r) := by
  unfold State.startSuspects
  repeat' first
    | with_reducible assumption | with_reducible exact List.Subset.trans (by decide) hp | with_reducible intro _
    | (with_reducible apply State.log_only) | (with_reducible apply State.countedReset_only)
    | (with_reducible apply State.setRecovery_only) | (dsimp only) | split
    | (with_reducible refine Only.leaf ?_ ?_)
    | (unfold Same; intro p hq; cases p <;> first | exact absurd (hp (by decide)) hq | dsimp only [Part.same])

theorem State.hang_only {parts : List Part} {s0 s : State} (h : Only parts s0 s) (hp : [.out, .hold, .links, .ctxs,
      .objects, .ring, .faults, .msix, .alert] ⊆ parts) (c cause : Nat) (mover : Option (Fin 2)) :
    Only parts s0 (State.hang s c cause mover) := by
  unfold State.hang
  repeat' first
    | with_reducible assumption | with_reducible exact List.Subset.trans (by decide) hp | with_reducible intro _
    | (with_reducible apply Only.ite) | (with_reducible apply State.originateHold_only)
    | (with_reducible apply State.schedFault_only) | (with_reducible apply State.faultCount_only)
    | (with_reducible apply State.jobFail_only) | (with_reducible apply State.setRecovery_only)
    | (with_reducible apply State.snapshot_only) | (with_reducible apply State.startRecovery_only)
    | (with_reducible apply State.startSuspects_only) | (with_reducible refine Only.snd ?_ (by assumption))
    | (dsimp only) | split | (with_reducible refine Only.leaf ?_ ?_)
    | (unfold Same; intro p hq; cases p <;> first | exact absurd (hp (by decide)) hq | dsimp only [Part.same])

theorem State.guilty_only {parts : List Part} {s0 s : State} (h : Only parts s0 s) (hp : [.out, .hold, .links,
      .cores, .ctxs, .objects, .ring, .faults, .msix, .alert] ⊆ parts) (c x : Nat) :
    Only parts s0 (State.guilty s c x) := by
  unfold State.guilty
  repeat' first
    | with_reducible assumption | with_reducible exact List.Subset.trans (by decide) hp | with_reducible intro _
    | (with_reducible apply State.log_only) | (with_reducible apply State.mapCore_only)
    | (with_reducible apply State.faultCount_only) | (with_reducible apply State.jobFail_only)
    | (with_reducible apply State.setRecovery_only) | (dsimp only) | split
    | (with_reducible refine Only.leaf ?_ ?_)
    | (unfold Same; intro p hq; cases p <;> first | exact absurd (hp (by decide)) hq | dsimp only [Part.same])

theorem execContextPaceExpire_only {parts : List Part} {s0 s : State} (h : Only parts s0 s) (hp : [.out, .hall,
      .time, .hold, .links, .cores, .ctxs, .objects, .ring, .faults, .msix, .alert] ⊆ parts) (core : Core) (ctx :
      Ctx) :
    OnlyO parts s0 (execContextPaceExpire core ctx s) := by
  unfold execContextPaceExpire
  repeat' first
    | with_reducible assumption | with_reducible exact List.Subset.trans (by decide) hp
    | (with_reducible apply act_only) | with_reducible intro _ | (with_reducible apply Only.ite)
    | (with_reducible apply State.reach_only) | (with_reducible apply State.log_only)
    | (with_reducible apply State.faultCount_only) | (with_reducible apply State.hang_only)
    | (with_reducible apply State.guilty_only) | (dsimp only) | split | (with_reducible refine Only.leaf ?_ ?_)
    | (unfold Same; intro p hq; cases p <;> first | exact absurd (hp (by decide)) hq | dsimp only [Part.same])

theorem execMoverPaceExpire_only {parts : List Part} {s0 s : State} (h : Only parts s0 s) (hp : [.out, .hall, .time,
      .hold, .links, .ctxs, .objects, .ring, .faults, .msix, .alert] ⊆ parts) (mover : Mover) :
    OnlyO parts s0 (execMoverPaceExpire mover s) := by
  unfold execMoverPaceExpire
  repeat' first
    | with_reducible assumption | with_reducible exact List.Subset.trans (by decide) hp
    | (with_reducible apply act_only) | with_reducible intro _ | (with_reducible apply Only.ite)
    | (with_reducible apply State.reach_only) | (with_reducible apply State.log_only)
    | (with_reducible apply State.faultCount_only) | (with_reducible apply State.hang_only) | (dsimp only) | split
    | (with_reducible refine Only.leaf ?_ ?_)
    | (unfold Same; intro p hq; cases p <;> first | exact absurd (hp (by decide)) hq | dsimp only [Part.same])

theorem State.replayMover_only {parts : List Part} {s0 s : State} (h : Only parts s0 s) (hp : [.out, .drawn, .hold,
      .links, .fabric, .mem, .poison, .stores, .maps, .ctxs, .sems, .movers, .objects, .ring, .msix, .alert] ⊆ parts)
      (c : Nat) (m : Fin 2) :
    Only parts s0 (State.replayMover s c m) := by
  unfold State.replayMover
  repeat' first
    | with_reducible assumption | with_reducible exact List.Subset.trans (by decide) hp | with_reducible intro _
    | (with_reducible apply Only.ite) | (with_reducible apply State.mapCtx_only)
    | (with_reducible apply State.setSem_only) | (with_reducible apply State.each_only)
    | (with_reducible apply State.moverReset_only) | (dsimp only) | split | (with_reducible refine Only.leaf ?_ ?_)
    | (unfold Same; intro p hq; cases p <;> first | exact absurd (hp (by decide)) hq | dsimp only [Part.same])

theorem State.doReplay_only {parts : List Part} {s0 s : State} (h : Only parts s0 s) (hp : [.out, .drawn, .hold,
      .links, .fabric, .mem, .poison, .stores, .maps, .accs, .cores, .ctxs, .sems, .movers, .objects, .ring, .msix,
      .alert] ⊆ parts) (c cause : Nat) (m : Option (Fin 2)) :
    Only parts s0 (State.doReplay s c cause m) := by
  unfold State.doReplay
  repeat' first
    | with_reducible assumption | with_reducible exact List.Subset.trans (by decide) hp | with_reducible intro _
    | (with_reducible apply State.log_only) | (with_reducible apply State.replayReset_only)
    | (with_reducible apply State.replayMover_only) | (dsimp only) | split
    | (with_reducible refine Only.leaf ?_ ?_)
    | (unfold Same; intro p hq; cases p <;> first | exact absurd (hp (by decide)) hq | dsimp only [Part.same])

theorem execReplay_only {parts : List Part} {s0 s : State} (h : Only parts s0 s) (hp : [.out, .drawn, .hold, .links,
      .fabric, .mem, .poison, .stores, .maps, .accs, .cores, .ctxs, .sems, .movers, .dies, .objects, .ring, .faults,
      .msix, .supply, .alert] ⊆ parts) (core : Core) :
    OnlyO parts s0 (execReplay core s) := by
  unfold execReplay
  repeat' first
    | with_reducible assumption | with_reducible exact List.Subset.trans (by decide) hp
    | (with_reducible apply act_only) | with_reducible intro _ | (with_reducible apply Only.ite)
    | (with_reducible apply State.emit_only) | (with_reducible apply State.on_only)
    | (with_reducible apply State.countedReset_only) | (with_reducible apply State.wakeCore_only)
    | (with_reducible apply State.setRecovery_only) | (with_reducible apply State.doReplay_only) | (dsimp only)
    | split | (with_reducible refine Only.leaf ?_ ?_)
    | (unfold Same; intro p hq; cases p <;> first | exact absurd (hp (by decide)) hq | dsimp only [Part.same])

theorem execIsolate_only {parts : List Part} {s0 s : State} (h : Only parts s0 s) (hp : [.out, .drawn, .hold, .links,
      .fabric, .mem, .poison, .stores, .maps, .accs, .cores, .ctxs, .sems, .movers, .dies, .objects, .ring, .faults,
      .msix, .supply, .alert] ⊆ parts) (core : Core) (ctx : Ctx) :
    OnlyO parts s0 (execIsolate core ctx s) := by
  unfold execIsolate
  repeat' first
    | with_reducible assumption | with_reducible exact List.Subset.trans (by decide) hp
    | (with_reducible apply act_only) | with_reducible intro _ | (with_reducible apply Only.ite)
    | (with_reducible apply State.emit_only) | (with_reducible apply State.mapCore_only)
    | (with_reducible apply State.wakeCore_only) | (with_reducible apply State.setRecovery_only)
    | (with_reducible apply State.doReplay_only) | (dsimp only) | split | (with_reducible refine Only.leaf ?_ ?_)
    | (unfold Same; intro p hq; cases p <;> first | exact absurd (hp (by decide)) hq | dsimp only [Part.same])

theorem State.coreDead_only {parts : List Part} {s0 s : State} (h : Only parts s0 s) (hp : [.out, .hold, .links,
      .ctxs, .objects, .ring, .faults, .msix, .alert] ⊆ parts) (c : Nat) :
    Only parts s0 (State.coreDead s c) := by
  unfold State.coreDead
  repeat' first
    | with_reducible assumption | with_reducible exact List.Subset.trans (by decide) hp | with_reducible intro _
    | (with_reducible refine State.setFaults_only' ?_ (List.Subset.trans (by decide) hp) _ (fun _ => rfl))
    | (with_reducible apply State.outOfService_only) | (with_reducible apply State.setFaults_only)
    | (with_reducible apply State.setRecovery_only) | (dsimp only) | split
    | (with_reducible refine Only.leaf ?_ ?_)
    | (unfold Same; intro p hq; cases p <;> first | exact absurd (hp (by decide)) hq | dsimp only [Part.same])

theorem execRerunEnd_only {parts : List Part} {s0 s : State} (h : Only parts s0 s) (hp : [.out, .hold, .links,
      .cores, .ctxs, .objects, .ring, .faults, .msix, .alert] ⊆ parts) (core : Core) :
    OnlyO parts s0 (execRerunEnd core s) := by
  unfold execRerunEnd
  repeat' first
    | with_reducible assumption | with_reducible exact List.Subset.trans (by decide) hp
    | (with_reducible apply act_only) | with_reducible intro _ | (with_reducible apply Only.ite)
    | (with_reducible refine State.setFaults_only' ?_ (List.Subset.trans (by decide) hp) _ (fun _ => rfl))
    | (with_reducible apply State.log_only) | (with_reducible apply State.mapCore_only)
    | (with_reducible apply State.originateResume_only) | (with_reducible apply State.setFaults_only)
    | (with_reducible apply State.setRecovery_only) | (with_reducible apply State.coreDead_only) | (dsimp only)
    | split | (with_reducible refine Only.leaf ?_ ?_)
    | (unfold Same; intro p hq; cases p <;> first | exact absurd (hp (by decide)) hq | dsimp only [Part.same])

end Sys2Proof.Machine
end

