-- ==== Sys2Proof/Laws/OnlyFrames.lean ====
section
/-!
SUPPORT. What the operations of Machine/Frames.lean can change (Laws/Only.lean).
-/

namespace Sys2Proof.Machine

theorem State.runTile_only {parts : List Part} {s0 s : State} (h : Only parts s0 s) (hp : [.drawn, .accs, .objects] ⊆
      parts) (c : Nat) (g : Running) (t : Nat) (bs : List Byte) :
    Only parts s0 (State.runTile s c g t bs).1 := by
  unfold State.runTile
  repeat' first
    | with_reducible assumption | with_reducible exact List.Subset.trans (by decide) hp | with_reducible intro _
    | (with_reducible apply Only.ite) | (with_reducible apply Only.ite1) | (with_reducible apply State.draw_only)
    | (with_reducible apply State.on_only) | (with_reducible apply State.count64_only)
    | (with_reducible apply State.countFlushed_only) | (with_reducible apply Only.foldl)
    | (with_reducible apply Only.foldl1) | (with_reducible apply Only.foldl2)
    | (with_reducible refine Only.snd ?_ (by assumption)) | (dsimp only) | split
    | (with_reducible refine Only.leaf ?_ ?_)
    | (unfold Same; intro p hq; cases p <;> first | exact absurd (hp (by decide)) hq | dsimp only [Part.same])

theorem State.loadBank_only {parts : List Part} {s0 s : State} (h : Only parts s0 s) (hp : [.cores] ⊆ parts) (c :
      Nat) (r : PassRec) (t : Nat) (bs : List Byte) :
    Only parts s0 (State.loadBank s c r t bs) := by
  unfold State.loadBank
  repeat' first
    | with_reducible assumption | with_reducible exact List.Subset.trans (by decide) hp | with_reducible intro _
    | (with_reducible apply Only.ite) | (with_reducible apply State.mapCore_only) | (dsimp only) | split
    | (with_reducible refine Only.leaf ?_ ?_)
    | (unfold Same; intro p hq; cases p <;> first | exact absurd (hp (by decide)) hq | dsimp only [Part.same])

theorem State.runTiles_only {parts : List Part} {s0 s : State} (h : Only parts s0 s) (hp : [.drawn, .accs, .cores,
      .objects] ⊆ parts) (c : Nat) (g : Running) (y0 : Nat) :
    Only parts s0 (State.runTiles s c g y0).1 := by
  induction y0 generalizing s c g with
  | zero => exact h
  | succ n ih =>
    unfold State.runTiles
    repeat' first
    | with_reducible assumption | with_reducible exact List.Subset.trans (by decide) hp | with_reducible intro _
    | (with_reducible apply ih) | (with_reducible apply State.on_only) | (with_reducible apply State.count64_only)
    | (with_reducible apply State.runTile_only) | (with_reducible apply State.loadBank_only)
    | (with_reducible refine Only.fst ?_ (by assumption)) | (dsimp only) | split
    | (with_reducible refine Only.leaf ?_ ?_)
    | (unfold Same; intro p hq; cases p <;> first | exact absurd (hp (by decide)) hq | dsimp only [Part.same])

theorem State.finishTiles_only {parts : List Part} {s0 s : State} (h : Only parts s0 s) (hp : [.cores] ⊆ parts) (c :
      Nat) (g : Running) :
    Only parts s0 (State.finishTiles s c g) := by
  unfold State.finishTiles
  repeat' first
    | with_reducible assumption | with_reducible exact List.Subset.trans (by decide) hp | with_reducible intro _
    | (with_reducible apply State.mapCore_only) | (with_reducible apply Only.foldl)
    | (with_reducible apply Only.foldl1) | (with_reducible apply Only.foldl2) | (dsimp only) | split
    | (with_reducible refine Only.leaf ?_ ?_)
    | (unfold Same; intro p hq; cases p <;> first | exact absurd (hp (by decide)) hq | dsimp only [Part.same])

theorem State.stallSlot_only {parts : List Part} {s0 s : State} (h : Only parts s0 s) (hp : [.cores, .objects, .ring]
      ⊆ parts) (c : Nat) (g : Running) (addr rule : Nat) :
    Only parts s0 (State.stallSlot s c g addr rule) := by
  unfold State.stallSlot
  repeat' first
    | with_reducible assumption | with_reducible exact List.Subset.trans (by decide) hp | with_reducible intro _
    | (with_reducible apply State.count_only) | (with_reducible apply State.log_only)
    | (with_reducible apply State.mapCore_only) | (dsimp only) | split | (with_reducible refine Only.leaf ?_ ?_)
    | (unfold Same; intro p hq; cases p <;> first | exact absurd (hp (by decide)) hq | dsimp only [Part.same])

theorem State.runPass_only {parts : List Part} {s0 s : State} (h : Only parts s0 s) (hp : [.drawn, .accs, .cores,
      .objects, .ring] ⊆ parts) (c : Nat) (g : Running) :
    Only parts s0 (State.runPass s c g) := by
  unfold State.runPass
  repeat' first
    | with_reducible assumption | with_reducible exact List.Subset.trans (by decide) hp | with_reducible intro _
    | (with_reducible apply State.runTiles_only) | (with_reducible apply State.finishTiles_only)
    | (with_reducible apply State.stallSlot_only) | (with_reducible refine Only.fst ?_ (by assumption))
    | (dsimp only) | split | (with_reducible refine Only.leaf ?_ ?_)
    | (unfold Same; intro p hq; cases p <;> first | exact absurd (hp (by decide)) hq | dsimp only [Part.same])

theorem State.queuePass_only {parts : List Part} {s0 s : State} (h : Only parts s0 s) (hp : [.cores] ⊆ parts) (c :
      Nat) (p : PassItem) :
    Only parts s0 (State.queuePass s c p) := by
  unfold State.queuePass
  repeat' first
    | with_reducible assumption | with_reducible exact List.Subset.trans (by decide) hp | with_reducible intro _
    | (with_reducible apply State.mapCore_only) | (dsimp only) | split | (with_reducible refine Only.leaf ?_ ?_)
    | (unfold Same; intro p hq; cases p <;> first | exact absurd (hp (by decide)) hq | dsimp only [Part.same])

theorem State.joinGroup_only {parts : List Part} {s0 s : State} (h : Only parts s0 s) (hp : [.cores] ⊆ parts) (c x i
      : Nat) (r : PassRec) :
    Only parts s0 (State.joinGroup s c x i r) := by
  unfold State.joinGroup
  repeat' first
    | with_reducible assumption | with_reducible exact List.Subset.trans (by decide) hp | with_reducible intro _
    | (with_reducible apply State.mapCore_only) | (dsimp only) | split | (with_reducible refine Only.leaf ?_ ?_)
    | (unfold Same; intro p hq; cases p <;> first | exact absurd (hp (by decide)) hq | dsimp only [Part.same])

theorem State.joinGathered_only {parts : List Part} {s0 s : State} (h : Only parts s0 s) (hp : [.cores, .ctxs,
      .objects] ⊆ parts) (c x : Nat) (r : PassRec) :
    Only parts s0 (State.joinGathered s c x r) := by
  unfold State.joinGathered
  repeat' first
    | with_reducible assumption | with_reducible exact List.Subset.trans (by decide) hp | with_reducible intro _
    | (with_reducible apply State.countStalls_only) | (with_reducible apply State.joinGroup_only) | (dsimp only)
    | split | (with_reducible refine Only.leaf ?_ ?_)
    | (unfold Same; intro p hq; cases p <;> first | exact absurd (hp (by decide)) hq | dsimp only [Part.same])

theorem execMmG_only {parts : List Part} {s0 s : State} (h : Only parts s0 s) (hp : [.out, .hold, .links, .cores,
      .ctxs, .objects, .ring, .msix, .alert] ⊆ parts) (core : Core) (ctx : Ctx) :
    OnlyO parts s0 (execMmG core ctx s) := by
  unfold execMmG
  repeat' first
    | with_reducible assumption | with_reducible exact List.Subset.trans (by decide) hp
    | (with_reducible apply act_only) | with_reducible intro _ | (with_reducible apply State.enterQueue_only)
    | (with_reducible apply State.issue_only) | (with_reducible apply State.joinGathered_only) | (dsimp only)
    | split | (with_reducible refine Only.leaf ?_ ?_)
    | (unfold Same; intro p hq; cases p <;> first | exact absurd (hp (by decide)) hq | dsimp only [Part.same])

theorem execMm_only {parts : List Part} {s0 s : State} (h : Only parts s0 s) (hp : [.out, .hold, .links, .cores,
      .ctxs, .objects, .ring, .msix, .alert] ⊆ parts) (core : Core) (ctx : Ctx) :
    OnlyO parts s0 (execMm core ctx s) := by
  unfold execMm
  repeat' first
    | with_reducible assumption | with_reducible exact List.Subset.trans (by decide) hp
    | (with_reducible apply act_only) | with_reducible intro _ | (with_reducible apply State.enterQueue_only)
    | (with_reducible apply State.issue_only) | (with_reducible apply State.queuePass_only) | (dsimp only) | split
    | (with_reducible refine Only.leaf ?_ ?_)
    | (unfold Same; intro p hq; cases p <;> first | exact absurd (hp (by decide)) hq | dsimp only [Part.same])

theorem execGatherHoldExpire_only {parts : List Part} {s0 s : State} (h : Only parts s0 s) (hp : [.hall, .time,
      .cores] ⊆ parts) (core : Core) (slot : Fin 4) :
    OnlyO parts s0 (execGatherHoldExpire core slot s) := by
  unfold execGatherHoldExpire
  repeat' first
    | with_reducible assumption | with_reducible exact List.Subset.trans (by decide) hp
    | (with_reducible apply act_only) | with_reducible intro _ | (with_reducible apply Only.ite)
    | (with_reducible apply State.reach_only) | (with_reducible apply State.mapCore_only) | (dsimp only) | split
    | (with_reducible refine Only.leaf ?_ ?_)
    | (unfold Same; intro p hq; cases p <;> first | exact absurd (hp (by decide)) hq | dsimp only [Part.same])

theorem execGatherGroupStart_only {parts : List Part} {s0 s : State} (h : Only parts s0 s) (hp : [.cores, .objects] ⊆
      parts) (core : Core) :
    OnlyO parts s0 (execGatherGroupStart core s) := by
  unfold execGatherGroupStart
  repeat' first
    | with_reducible assumption | with_reducible exact List.Subset.trans (by decide) hp
    | (with_reducible apply act_only) | with_reducible intro _ | (with_reducible apply Only.ite)
    | (with_reducible apply State.on_only) | (with_reducible apply State.count64_only)
    | (with_reducible apply State.mapCore_only) | (with_reducible apply State.tookTurn_only)
    | (with_reducible apply State.queuePass_only) | (dsimp only) | split | (with_reducible refine Only.leaf ?_ ?_)
    | (unfold Same; intro p hq; cases p <;> first | exact absurd (hp (by decide)) hq | dsimp only [Part.same])

theorem execPassStart_only {parts : List Part} {s0 s : State} (h : Only parts s0 s) (hp : [.drawn, .accs, .cores,
      .objects, .ring] ⊆ parts) (core : Core) :
    OnlyO parts s0 (execPassStart core s) := by
  unfold execPassStart
  repeat' first
    | with_reducible assumption | with_reducible exact List.Subset.trans (by decide) hp
    | (with_reducible apply act_only) | with_reducible intro _ | (with_reducible apply Only.ite)
    | (with_reducible apply State.setCore_only) | (with_reducible apply State.runPass_only) | (dsimp only) | split
    | (with_reducible refine Only.leaf ?_ ?_)
    | (unfold Same; intro p hq; cases p <;> first | exact absurd (hp (by decide)) hq | dsimp only [Part.same])

theorem execExpanderRetry_only {parts : List Part} {s0 s : State} (h : Only parts s0 s) (hp : [.out, .drawn, .hold,
      .links, .accs, .cores, .ctxs, .sems, .objects, .ring, .faults, .msix, .alert] ⊆ parts) (core : Core) :
    OnlyO parts s0 (execExpanderRetry core s) := by
  unfold execExpanderRetry
  repeat' first
    | with_reducible assumption | with_reducible exact List.Subset.trans (by decide) hp
    | (with_reducible apply act_only) | with_reducible intro _ | (with_reducible apply Only.ite)
    | (with_reducible apply State.count_only) | (with_reducible apply State.log_only)
    | (with_reducible apply State.mapCore_only) | (with_reducible apply State.each_only)
    | (with_reducible apply State.schedFault_only) | (with_reducible apply State.faultCount_only)
    | (with_reducible apply State.jobFail_only) | (with_reducible apply State.breakDone_only)
    | (with_reducible apply State.evalWaitQ_only) | (with_reducible apply State.setRecovery_only)
    | (with_reducible apply State.startRecovery_only) | (with_reducible apply State.runTiles_only)
    | (with_reducible apply State.finishTiles_only) | (with_reducible apply State.stallSlot_only)
    | (with_reducible refine Only.fst ?_ (by assumption)) | (dsimp only) | split
    | (with_reducible refine Only.leaf ?_ ?_)
    | (unfold Same; intro p hq; cases p <;> first | exact absurd (hp (by decide)) hq | dsimp only [Part.same])

theorem execPassComplete_only {parts : List Part} {s0 s : State} (h : Only parts s0 s) (hp : [.out, .hold, .links,
      .stores, .cores, .ctxs, .sems, .dies, .deltas, .objects, .ring, .msix, .supply, .alert] ⊆ parts) (core : Core) :
    OnlyO parts s0 (execPassComplete core s) := by
  unfold execPassComplete
  repeat' first
    | with_reducible assumption | with_reducible exact List.Subset.trans (by decide) hp
    | (with_reducible apply act_only) | with_reducible intro _ | (with_reducible apply Only.ite)
    | (with_reducible apply State.count64_only) | (with_reducible apply State.storeWrite_only)
    | (with_reducible apply State.setCore_only) | (with_reducible apply State.each_only)
    | (with_reducible apply State.sendDeltas_only) | (with_reducible apply State.postDone_only)
    | (with_reducible apply State.evalWaitQ_only) | (dsimp only) | split | (with_reducible refine Only.leaf ?_ ?_)
    | (unfold Same; intro p hq; cases p <;> first | exact absurd (hp (by decide)) hq | dsimp only [Part.same])

theorem execFrameGateApply_only {parts : List Part} {s0 s : State} (h : Only parts s0 s) (hp : [.cores] ⊆ parts)
      (core : Core) :
    OnlyO parts s0 (execFrameGateApply core s) := by
  unfold execFrameGateApply
  repeat' first
    | with_reducible assumption | with_reducible exact List.Subset.trans (by decide) hp
    | (with_reducible apply act_only) | with_reducible intro _ | (with_reducible apply State.mapCore_only)
    | (dsimp only) | split | (with_reducible refine Only.leaf ?_ ?_)
    | (unfold Same; intro p hq; cases p <;> first | exact absurd (hp (by decide)) hq | dsimp only [Part.same])

end Sys2Proof.Machine
end

