-- ==== Sys2Proof/Laws/OnlyTime.lean ====
section
/-!
SUPPORT. What the operations of Machine/Time.lean can change (Laws/Only.lean).
-/

namespace Sys2Proof.Machine

theorem State.setTime_only {parts : List Part} {s0 s : State} (h : Only parts s0 s) (hp : [.time] ⊆ parts) (f :
      TimeUnit → TimeUnit) :
    Only parts s0 (State.setTime s f) := by
  unfold State.setTime
  repeat' first
    | with_reducible assumption | with_reducible exact List.Subset.trans (by decide) hp | with_reducible intro _
    | (dsimp only) | split | (with_reducible refine Only.leaf ?_ ?_)
    | (unfold Same; intro p hq; cases p <;> first | exact absurd (hp (by decide)) hq | dsimp only [Part.same])

theorem State.setLinkTime_only {parts : List Part} {s0 s : State} (h : Only parts s0 s) (hp : [.time] ⊆ parts) (l :
      Nat) (v : LinkTime) :
    Only parts s0 (State.setLinkTime s l v) := by
  unfold State.setLinkTime
  repeat' first
    | with_reducible assumption | with_reducible exact List.Subset.trans (by decide) hp | with_reducible intro _
    | (with_reducible apply State.setTime_only) | (dsimp only) | split | (with_reducible refine Only.leaf ?_ ?_)
    | (unfold Same; intro p hq; cases p <;> first | exact absurd (hp (by decide)) hq | dsimp only [Part.same])

theorem State.stepHall_only {parts : List Part} {s0 s : State} (h : Only parts s0 s) (hp : [.hall, .time, .boot] ⊆
      parts) (h : Nat) :
    Only parts s0 (State.stepHall s h) := by
  unfold State.stepHall
  repeat' first
    | with_reducible assumption | with_reducible exact List.Subset.trans (by decide) hp | with_reducible intro _
    | (with_reducible apply Only.foldl) | (with_reducible apply Only.foldl1) | (with_reducible apply Only.foldl2)
    | (dsimp only) | split | (with_reducible refine Only.leaf ?_ ?_)
    | (unfold Same; intro p hq; cases p <;> first | exact absurd (hp (by decide)) hq | dsimp only [Part.same])

theorem State.enterLocked_only {parts : List Part} {s0 s : State} (h : Only parts s0 s) (hp : [.time, .objects,
      .ring] ⊆ parts)  :
    Only parts s0 (State.enterLocked s) := by
  unfold State.enterLocked
  repeat' first
    | with_reducible assumption | with_reducible exact List.Subset.trans (by decide) hp | with_reducible intro _
    | (with_reducible apply State.log_only) | (with_reducible apply State.setTime_only) | (dsimp only) | split
    | (with_reducible refine Only.leaf ?_ ?_)
    | (unfold Same; intro p hq; cases p <;> first | exact absurd (hp (by decide)) hq | dsimp only [Part.same])

theorem State.leaveToFine_only {parts : List Part} {s0 s : State} (h : Only parts s0 s) (hp : [.out, .time, .hold,
      .links, .ctxs, .objects, .ring, .msix, .alert] ⊆ parts) (fromLocked : Bool) :
    Only parts s0 (State.leaveToFine s fromLocked) := by
  unfold State.leaveToFine
  repeat' first
    | with_reducible assumption | with_reducible exact List.Subset.trans (by decide) hp | with_reducible intro _
    | (with_reducible apply Only.ite) | (with_reducible apply State.log_only)
    | (with_reducible apply State.timeLoss_only) | (with_reducible apply State.setTime_only) | (dsimp only) | split
    | (with_reducible refine Only.leaf ?_ ?_)
    | (unfold Same; intro p hq; cases p <;> first | exact absurd (hp (by decide)) hq | dsimp only [Part.same])

theorem State.becomeRoot_only {parts : List Part} {s0 s : State} (h : Only parts s0 s) (hp : [.time] ⊆ parts) (i :
      Nat) :
    Only parts s0 (State.becomeRoot s i) := by
  unfold State.becomeRoot
  repeat' first
    | with_reducible assumption | with_reducible exact List.Subset.trans (by decide) hp | with_reducible intro _
    | (with_reducible apply State.setTime_only) | (dsimp only) | split | (with_reducible refine Only.leaf ?_ ?_)
    | (unfold Same; intro p hq; cases p <;> first | exact absurd (hp (by decide)) hq | dsimp only [Part.same])

theorem State.startRoot_only {parts : List Part} {s0 s : State} (h : Only parts s0 s) (hp : [.time, .objects, .ring]
      ⊆ parts) (i : Nat) (valid : Bool) :
    Only parts s0 (State.startRoot s i valid) := by
  unfold State.startRoot
  repeat' first
    | with_reducible assumption | with_reducible exact List.Subset.trans (by decide) hp | with_reducible intro _
    | (with_reducible apply State.setTime_only) | (with_reducible apply State.enterLocked_only)
    | (with_reducible apply State.becomeRoot_only) | (dsimp only) | split | (with_reducible refine Only.leaf ?_ ?_)
    | (unfold Same; intro p hq; cases p <;> first | exact absurd (hp (by decide)) hq | dsimp only [Part.same])

theorem State.takeParent_only {parts : List Part} {s0 s : State} (h : Only parts s0 s) (hp : [.time, .objects, .ring]
      ⊆ parts) (l : Nat) :
    Only parts s0 (State.takeParent s l) := by
  unfold State.takeParent
  repeat' first
    | with_reducible assumption | with_reducible exact List.Subset.trans (by decide) hp | with_reducible intro _
    | (with_reducible apply Only.ite) | (with_reducible apply State.on_only)
    | (with_reducible apply State.log_only) | (with_reducible apply State.setTime_only) | (dsimp only) | split
    | (with_reducible refine Only.leaf ?_ ?_)
    | (unfold Same; intro p hq; cases p <;> first | exact absurd (hp (by decide)) hq | dsimp only [Part.same])

theorem State.loseParent_only {parts : List Part} {s0 s : State} (h : Only parts s0 s) (hp : [.time, .objects, .ring]
      ⊆ parts)  :
    Only parts s0 (State.loseParent s) := by
  unfold State.loseParent
  repeat' first
    | with_reducible assumption | with_reducible exact List.Subset.trans (by decide) hp | with_reducible intro _
    | (with_reducible apply Only.ite) | (with_reducible apply State.log_only)
    | (with_reducible apply State.setTime_only) | (with_reducible apply State.takeParent_only) | (dsimp only)
    | split | (with_reducible refine Only.leaf ?_ ?_)
    | (unfold Same; intro p hq; cases p <;> first | exact absurd (hp (by decide)) hq | dsimp only [Part.same])

theorem State.sendSymbol_only {parts : List Part} {s0 s : State} (h : Only parts s0 s) (hp : [.out, .time] ⊆ parts)
      (l : Nat) :
    Only parts s0 (State.sendSymbol s l) := by
  unfold State.sendSymbol
  repeat' first
    | with_reducible assumption | with_reducible exact List.Subset.trans (by decide) hp | with_reducible intro _
    | (with_reducible apply Only.ite) | (with_reducible apply State.emit_only)
    | (with_reducible apply State.setLinkTime_only) | (dsimp only) | split
    | (with_reducible refine Only.leaf ?_ ?_)
    | (unfold Same; intro p hq; cases p <;> first | exact absurd (hp (by decide)) hq | dsimp only [Part.same])

theorem execTimeSymbolSend_only {parts : List Part} {s0 s : State} (h : Only parts s0 s) (hp : [.out, .time] ⊆ parts)
      (link : Link) :
    OnlyO parts s0 (execTimeSymbolSend link s) := by
  unfold execTimeSymbolSend
  repeat' first
    | with_reducible assumption | with_reducible exact List.Subset.trans (by decide) hp
    | (with_reducible apply act_only) | with_reducible intro _ | (with_reducible apply State.sendSymbol_only)
    | (dsimp only) | split | (with_reducible refine Only.leaf ?_ ?_)
    | (unfold Same; intro p hq; cases p <;> first | exact absurd (hp (by decide)) hq | dsimp only [Part.same])

theorem State.noteSymbol_only {parts : List Part} {s0 s : State} (h : Only parts s0 s) (hp : [.time] ⊆ parts) (l w
      at_ : Nat) :
    Only parts s0 (State.noteSymbol s l w at_) := by
  unfold State.noteSymbol
  repeat' first
    | with_reducible assumption | with_reducible exact List.Subset.trans (by decide) hp | with_reducible intro _
    | (with_reducible apply Only.ite) | (with_reducible apply State.setTime_only)
    | (with_reducible apply State.setLinkTime_only) | (dsimp only) | split
    | (with_reducible refine Only.leaf ?_ ?_)
    | (unfold Same; intro p hq; cases p <;> first | exact absurd (hp (by decide)) hq | dsimp only [Part.same])

theorem State.demote_only {parts : List Part} {s0 s : State} (h : Only parts s0 s) (hp : [.time, .objects, .ring] ⊆
      parts)  :
    Only parts s0 (State.demote s) := by
  unfold State.demote
  repeat' first
    | with_reducible assumption | with_reducible exact List.Subset.trans (by decide) hp | with_reducible intro _
    | (with_reducible apply State.log_only) | (with_reducible apply State.setTime_only)
    | (with_reducible apply State.loseParent_only) | (dsimp only) | split | (with_reducible refine Only.leaf ?_ ?_)
    | (unfold Same; intro p hq; cases p <;> first | exact absurd (hp (by decide)) hq | dsimp only [Part.same])

theorem State.followSymbol_only {parts : List Part} {s0 s : State} (h : Only parts s0 s) (hp : [.out, .hall, .drawn,
      .time, .hold, .links, .ctxs, .objects, .ring, .msix, .alert, .boot] ⊆ parts) (l w : Nat) :
    Only parts s0 (State.followSymbol s l w) := by
  unfold State.followSymbol
  repeat' first
    | with_reducible assumption | with_reducible exact List.Subset.trans (by decide) hp | with_reducible intro _
    | (with_reducible apply Only.ite) | (with_reducible apply State.draw_only)
    | (with_reducible apply State.setTime_only) | (with_reducible apply State.stepHall_only)
    | (with_reducible apply State.leaveToFine_only) | (with_reducible apply State.takeParent_only)
    | (with_reducible refine Only.snd ?_ (by assumption)) | (dsimp only) | split
    | (with_reducible refine Only.leaf ?_ ?_)
    | (unfold Same; intro p hq; cases p <;> first | exact absurd (hp (by decide)) hq | dsimp only [Part.same])

theorem State.receiveSymbol_only {parts : List Part} {s0 s : State} (h : Only parts s0 s) (hp : [.out, .hall, .drawn,
      .time, .hold, .links, .ctxs, .objects, .ring, .msix, .alert, .boot] ⊆ parts) (l w at_ : Nat) :
    Only parts s0 (State.receiveSymbol s l w at_) := by
  unfold State.receiveSymbol
  repeat' first
    | with_reducible assumption | with_reducible exact List.Subset.trans (by decide) hp | with_reducible intro _
    | (with_reducible apply Only.ite) | (with_reducible apply State.setTime_only)
    | (with_reducible apply State.noteSymbol_only) | (with_reducible apply State.demote_only)
    | (with_reducible apply State.followSymbol_only) | (dsimp only) | split
    | (with_reducible refine Only.leaf ?_ ?_)
    | (unfold Same; intro p hq; cases p <;> first | exact absurd (hp (by decide)) hq | dsimp only [Part.same])

theorem execTimeSymbolReceive_only {parts : List Part} {s0 s : State} (h : Only parts s0 s) (hp : [.out, .hall,
      .drawn, .time, .hold, .links, .ctxs, .objects, .ring, .msix, .alert, .boot] ⊆ parts) (link : Link) (symbol :
      BitVec 192) (arrival : BitVec 70) :
    OnlyO parts s0 (execTimeSymbolReceive link symbol arrival s) := by
  unfold execTimeSymbolReceive
  repeat' first
    | with_reducible assumption | with_reducible exact List.Subset.trans (by decide) hp
    | (with_reducible apply act_only) | with_reducible intro _ | (with_reducible apply State.reach64_only)
    | (with_reducible apply State.receiveSymbol_only) | (dsimp only) | split
    | (with_reducible refine Only.leaf ?_ ?_)
    | (unfold Same; intro p hq; cases p <;> first | exact absurd (hp (by decide)) hq | dsimp only [Part.same])

theorem State.declareLinkLost_only {parts : List Part} {s0 s : State} (h : Only parts s0 s) (hp : [.out, .hold,
      .links, .fabric, .objects, .ring] ⊆ parts) (l : Nat) :
    Only parts s0 (State.declareLinkLost s l) := by
  unfold State.declareLinkLost
  repeat' first
    | with_reducible assumption | with_reducible exact List.Subset.trans (by decide) hp | with_reducible intro _
    | (with_reducible apply Only.ite) | (with_reducible apply State.setObj_only)
    | (with_reducible apply State.log_only) | (with_reducible apply State.mapLink_only)
    | (with_reducible apply State.setHold_only) | (with_reducible apply State.originateHold_only)
    | (with_reducible apply State.schedFault_only) | (with_reducible apply State.faultCount_only)
    | (with_reducible apply State.reroute_only) | (with_reducible refine Only.snd ?_ (by assumption))
    | (dsimp only) | split | (with_reducible refine Only.leaf ?_ ?_)
    | (unfold Same; intro p hq; cases p <;> first | exact absurd (hp (by decide)) hq | dsimp only [Part.same])

theorem State.publishDelays_only {parts : List Part} {s0 s : State} (h : Only parts s0 s) (hp : [.out, .hold, .links,
      .fabric, .objects, .ring] ⊆ parts)  :
    Only parts s0 (State.publishDelays s) := by
  unfold State.publishDelays
  repeat' first
    | with_reducible assumption | with_reducible exact List.Subset.trans (by decide) hp | with_reducible intro _
    | (with_reducible apply Only.ite) | (with_reducible apply State.setObj_only)
    | (with_reducible apply State.each_only) | (with_reducible apply State.declareLinkLost_only) | (dsimp only)
    | split | (with_reducible refine Only.leaf ?_ ?_)
    | (unfold Same; intro p hq; cases p <;> first | exact absurd (hp (by decide)) hq | dsimp only [Part.same])

theorem State.judgeEstimate_only {parts : List Part} {s0 s : State} (h : Only parts s0 s) (hp : [.out, .time, .hold,
      .links, .ctxs, .objects, .ring, .msix, .alert] ⊆ parts) (e : Int) :
    Only parts s0 (State.judgeEstimate s e) := by
  unfold State.judgeEstimate
  repeat' first
    | with_reducible assumption | with_reducible exact List.Subset.trans (by decide) hp | with_reducible intro _
    | (with_reducible apply Only.ite) | (with_reducible apply State.setTime_only)
    | (with_reducible apply State.leaveToFine_only) | (dsimp only) | split
    | (with_reducible refine Only.leaf ?_ ?_)
    | (unfold Same; intro p hq; cases p <;> first | exact absurd (hp (by decide)) hq | dsimp only [Part.same])

theorem State.estimate_only {parts : List Part} {s0 s : State} (h : Only parts s0 s) (hp : [.out, .time, .hold,
      .links, .fabric, .ctxs, .objects, .ring, .msix, .alert] ⊆ parts)  :
    Only parts s0 (State.estimate s) := by
  unfold State.estimate
  repeat' first
    | with_reducible assumption | with_reducible exact List.Subset.trans (by decide) hp | with_reducible intro _
    | (with_reducible apply Only.ite) | (with_reducible apply State.setTime_only)
    | (with_reducible apply State.publishDelays_only) | (with_reducible apply State.judgeEstimate_only)
    | (dsimp only) | split | (with_reducible refine Only.leaf ?_ ?_)
    | (unfold Same; intro p hq; cases p <;> first | exact absurd (hp (by decide)) hq | dsimp only [Part.same])

theorem execOffsetEstimate_only {parts : List Part} {s0 s : State} (h : Only parts s0 s) (hp : [.out, .time, .hold,
      .links, .fabric, .ctxs, .objects, .ring, .msix, .alert] ⊆ parts)  :
    OnlyO parts s0 (execOffsetEstimate s) := by
  unfold execOffsetEstimate
  repeat' first
    | with_reducible assumption | with_reducible exact List.Subset.trans (by decide) hp
    | (with_reducible apply act_only) | with_reducible intro _ | (with_reducible apply State.estimate_only)
    | (dsimp only) | split | (with_reducible refine Only.leaf ?_ ?_)
    | (unfold Same; intro p hq; cases p <;> first | exact absurd (hp (by decide)) hq | dsimp only [Part.same])

theorem execLockDwellExpire_only {parts : List Part} {s0 s : State} (h : Only parts s0 s) (hp : [.hall, .time,
      .objects, .ring] ⊆ parts)  :
    OnlyO parts s0 (execLockDwellExpire s) := by
  unfold execLockDwellExpire
  repeat' first
    | with_reducible assumption | with_reducible exact List.Subset.trans (by decide) hp
    | (with_reducible apply act_only) | with_reducible intro _ | (with_reducible apply Only.ite)
    | (with_reducible apply State.reach_only) | (with_reducible apply State.enterLocked_only) | (dsimp only)
    | split | (with_reducible refine Only.leaf ?_ ?_)
    | (unfold Same; intro p hq; cases p <;> first | exact absurd (hp (by decide)) hq | dsimp only [Part.same])

theorem execParentLost_only {parts : List Part} {s0 s : State} (h : Only parts s0 s) (hp : [.time, .objects, .ring] ⊆
      parts)  :
    OnlyO parts s0 (execParentLost s) := by
  unfold execParentLost
  repeat' first
    | with_reducible assumption | with_reducible exact List.Subset.trans (by decide) hp
    | (with_reducible apply act_only) | with_reducible intro _ | (with_reducible apply Only.ite)
    | (with_reducible apply State.loseParent_only) | (dsimp only) | split | (with_reducible refine Only.leaf ?_ ?_)
    | (unfold Same; intro p hq; cases p <;> first | exact absurd (hp (by decide)) hq | dsimp only [Part.same])

theorem execSymbolTimeout_only {parts : List Part} {s0 s : State} (h : Only parts s0 s) (hp : [.hall, .time,
      .objects, .ring] ⊆ parts)  :
    OnlyO parts s0 (execSymbolTimeout s) := by
  unfold execSymbolTimeout
  repeat' first
    | with_reducible assumption | with_reducible exact List.Subset.trans (by decide) hp
    | (with_reducible apply act_only) | with_reducible intro _ | (with_reducible apply State.reach64_only)
    | (with_reducible apply State.setLinkTime_only) | (with_reducible apply State.loseParent_only) | (dsimp only)
    | split | (with_reducible refine Only.leaf ?_ ?_)
    | (unfold Same; intro p hq; cases p <;> first | exact absurd (hp (by decide)) hq | dsimp only [Part.same])

theorem execHoldoverLimitExpire_only {parts : List Part} {s0 s : State} (h : Only parts s0 s) (hp : [.out, .hall,
      .time, .hold, .links, .ctxs, .objects, .ring, .msix, .alert] ⊆ parts)  :
    OnlyO parts s0 (execHoldoverLimitExpire s) := by
  unfold execHoldoverLimitExpire
  repeat' first
    | with_reducible assumption | with_reducible exact List.Subset.trans (by decide) hp
    | (with_reducible apply act_only) | with_reducible intro _ | (with_reducible apply Only.ite)
    | (with_reducible apply State.reach_only) | (with_reducible apply State.log_only)
    | (with_reducible apply State.timeLoss_only) | (dsimp only) | split | (with_reducible refine Only.leaf ?_ ?_)
    | (unfold Same; intro p hq; cases p <;> first | exact absurd (hp (by decide)) hq | dsimp only [Part.same])

theorem State.coldStart_only {parts : List Part} {s0 s : State} (h : Only parts s0 s) (hp : [.hall, .time, .objects,
      .ring, .boot] ⊆ parts) (i : Nat) :
    Only parts s0 (State.coldStart s i) := by
  unfold State.coldStart
  repeat' first
    | with_reducible assumption | with_reducible exact List.Subset.trans (by decide) hp | with_reducible intro _
    | (with_reducible apply State.stepHall_only) | (with_reducible apply State.startRoot_only) | (dsimp only)
    | split | (with_reducible refine Only.leaf ?_ ?_)
    | (unfold Same; intro p hq; cases p <;> first | exact absurd (hp (by decide)) hq | dsimp only [Part.same])

theorem State.discipline_only {parts : List Part} {s0 s : State} (h : Only parts s0 s) (hp : [.time] ⊆ parts) (tai :
      Int) (at_ : Nat) :
    Only parts s0 (State.discipline s tai at_) := by
  unfold State.discipline
  repeat' first
    | with_reducible assumption | with_reducible exact List.Subset.trans (by decide) hp | with_reducible intro _
    | (with_reducible apply State.setTime_only) | (dsimp only) | split | (with_reducible refine Only.leaf ?_ ?_)
    | (unfold Same; intro p hq; cases p <;> first | exact absurd (hp (by decide)) hq | dsimp only [Part.same])

theorem State.acquire_only {parts : List Part} {s0 s : State} (h : Only parts s0 s) (hp : [.hall, .time, .objects,
      .ring, .boot] ⊆ parts) (tai : Int) (at_ : Nat) :
    Only parts s0 (State.acquire s tai at_) := by
  unfold State.acquire
  repeat' first
    | with_reducible assumption | with_reducible exact List.Subset.trans (by decide) hp | with_reducible intro _
    | (with_reducible apply Only.ite) | (with_reducible apply State.on_only)
    | (with_reducible apply State.setTime_only) | (with_reducible apply State.coldStart_only)
    | (with_reducible apply State.discipline_only) | (dsimp only) | split | (with_reducible refine Only.leaf ?_ ?_)
    | (unfold Same; intro p hq; cases p <;> first | exact absurd (hp (by decide)) hq | dsimp only [Part.same])

theorem State.loseReference_only {parts : List Part} {s0 s : State} (h : Only parts s0 s) (hp : [.time, .objects,
      .ring] ⊆ parts)  :
    Only parts s0 (State.loseReference s) := by
  unfold State.loseReference
  repeat' first
    | with_reducible assumption | with_reducible exact List.Subset.trans (by decide) hp | with_reducible intro _
    | (with_reducible apply Only.ite) | (with_reducible apply State.log_only)
    | (with_reducible apply State.setTime_only) | (dsimp only) | split | (with_reducible refine Only.leaf ?_ ?_)
    | (unfold Same; intro p hq; cases p <;> first | exact absurd (hp (by decide)) hq | dsimp only [Part.same])

theorem State.sourceChanged_only {parts : List Part} {s0 s : State} (h : Only parts s0 s) (hp : [.time] ⊆ parts)  :
    Only parts s0 (State.sourceChanged s) := by
  unfold State.sourceChanged
  repeat' first
    | with_reducible assumption | with_reducible exact List.Subset.trans (by decide) hp | with_reducible intro _
    | (with_reducible apply Only.ite) | (with_reducible apply State.setTime_only) | (dsimp only) | split
    | (with_reducible refine Only.leaf ?_ ?_)
    | (unfold Same; intro p hq; cases p <;> first | exact absurd (hp (by decide)) hq | dsimp only [Part.same])

theorem State.missEdge_only {parts : List Part} {s0 s : State} (h : Only parts s0 s) (hp : [.time, .objects, .ring] ⊆
      parts)  :
    Only parts s0 (State.missEdge s) := by
  unfold State.missEdge
  repeat' first
    | with_reducible assumption | with_reducible exact List.Subset.trans (by decide) hp | with_reducible intro _
    | (with_reducible apply Only.ite) | (with_reducible apply State.setTime_only)
    | (with_reducible apply State.loseReference_only) | (dsimp only) | split
    | (with_reducible refine Only.leaf ?_ ?_)
    | (unfold Same; intro p hq; cases p <;> first | exact absurd (hp (by decide)) hq | dsimp only [Part.same])

theorem State.edge_only {parts : List Part} {s0 s : State} (h : Only parts s0 s) (hp : [.hall, .time, .objects,
      .ring, .boot] ⊆ parts) (at_ : Nat) :
    Only parts s0 (State.edge s at_) := by
  unfold State.edge
  repeat' first
    | with_reducible assumption | with_reducible exact List.Subset.trans (by decide) hp | with_reducible intro _
    | (with_reducible apply Only.ite) | (with_reducible apply State.acquire_only)
    | (with_reducible apply State.missEdge_only) | (dsimp only) | split | (with_reducible refine Only.leaf ?_ ?_)
    | (unfold Same; intro p hq; cases p <;> first | exact absurd (hp (by decide)) hq | dsimp only [Part.same])

theorem execPpsEdge_only {parts : List Part} {s0 s : State} (h : Only parts s0 s) (hp : [.hall, .time, .objects,
      .ring, .boot] ⊆ parts) (edge : BitVec 70) :
    OnlyO parts s0 (execPpsEdge edge s) := by
  unfold execPpsEdge
  repeat' first
    | with_reducible assumption | with_reducible exact List.Subset.trans (by decide) hp
    | (with_reducible apply act_only) | with_reducible intro _ | (with_reducible apply State.reach64_only)
    | (with_reducible apply State.edge_only) | (dsimp only) | split | (with_reducible refine Only.leaf ?_ ?_)
    | (unfold Same; intro p hq; cases p <;> first | exact absurd (hp (by decide)) hq | dsimp only [Part.same])

theorem execPpsEdgeMissed_only {parts : List Part} {s0 s : State} (h : Only parts s0 s) (hp : [.time, .objects,
      .ring] ⊆ parts)  :
    OnlyO parts s0 (execPpsEdgeMissed s) := by
  unfold execPpsEdgeMissed
  repeat' first
    | with_reducible assumption | with_reducible exact List.Subset.trans (by decide) hp
    | (with_reducible apply act_only) | with_reducible intro _ | (with_reducible apply Only.ite)
    | (with_reducible apply State.missEdge_only) | (dsimp only) | split | (with_reducible refine Only.leaf ?_ ?_)
    | (unfold Same; intro p hq; cases p <;> first | exact absurd (hp (by decide)) hq | dsimp only [Part.same])

theorem State.ptpTime_only {parts : List Part} {s0 s : State} (h : Only parts s0 s) (hp : [.hall, .time, .objects,
      .ring, .boot] ⊆ parts) (tai : Int) (at_ : Nat) :
    Only parts s0 (State.ptpTime s tai at_) := by
  unfold State.ptpTime
  repeat' first
    | with_reducible assumption | with_reducible exact List.Subset.trans (by decide) hp | with_reducible intro _
    | (with_reducible apply Only.ite) | (with_reducible apply State.setTime_only)
    | (with_reducible apply State.acquire_only) | (dsimp only) | split | (with_reducible refine Only.leaf ?_ ?_)
    | (unfold Same; intro p hq; cases p <;> first | exact absurd (hp (by decide)) hq | dsimp only [Part.same])

theorem State.askDelay_only {parts : List Part} {s0 s : State} (h : Only parts s0 s) (hp : [.out, .time] ⊆ parts)  :
    Only parts s0 (State.askDelay s) := by
  unfold State.askDelay
  repeat' first
    | with_reducible assumption | with_reducible exact List.Subset.trans (by decide) hp | with_reducible intro _
    | (with_reducible apply State.emit_only) | (with_reducible apply State.setTime_only) | (dsimp only) | split
    | (with_reducible refine Only.leaf ?_ ?_)
    | (unfold Same; intro p hq; cases p <;> first | exact absurd (hp (by decide)) hq | dsimp only [Part.same])

theorem State.ptpExchange_only {parts : List Part} {s0 s : State} (h : Only parts s0 s) (hp : [.hall, .time,
      .objects, .ring, .boot] ⊆ parts) (t1 t2 t3 t4 : Nat) :
    Only parts s0 (State.ptpExchange s t1 t2 t3 t4) := by
  unfold State.ptpExchange
  repeat' first
    | with_reducible assumption | with_reducible exact List.Subset.trans (by decide) hp | with_reducible intro _
    | (with_reducible apply State.ptpTime_only) | (dsimp only) | split | (with_reducible refine Only.leaf ?_ ?_)
    | (unfold Same; intro p hq; cases p <;> first | exact absurd (hp (by decide)) hq | dsimp only [Part.same])

theorem State.ptpMessage_only {parts : List Part} {s0 s : State} (h : Only parts s0 s) (hp : [.out, .hall, .time,
      .objects, .ring, .boot] ⊆ parts) (domain : Nat) (m : PtpMsg) :
    Only parts s0 (State.ptpMessage s domain m) := by
  unfold State.ptpMessage
  repeat' first
    | with_reducible assumption | with_reducible exact List.Subset.trans (by decide) hp | with_reducible intro _
    | (with_reducible apply Only.ite) | (with_reducible apply State.setTime_only)
    | (with_reducible apply State.askDelay_only) | (with_reducible apply State.ptpExchange_only) | (dsimp only)
    | split | (with_reducible refine Only.leaf ?_ ?_)
    | (unfold Same; intro p hq; cases p <;> first | exact absurd (hp (by decide)) hq | dsimp only [Part.same])

theorem execPtpMessage_only {parts : List Part} {s0 s : State} (h : Only parts s0 s) (hp : [.out, .hall, .time,
      .objects, .ring, .boot] ⊆ parts) (domain : BitVec 8) (msg : PtpMsg) :
    OnlyO parts s0 (execPtpMessage domain msg s) := by
  unfold execPtpMessage
  repeat' first
    | with_reducible assumption | with_reducible exact List.Subset.trans (by decide) hp
    | (with_reducible apply act_only) | with_reducible intro _ | (with_reducible apply State.ptpMessage_only)
    | (dsimp only) | split | (with_reducible refine Only.leaf ?_ ?_)
    | (unfold Same; intro p hq; cases p <;> first | exact absurd (hp (by decide)) hq | dsimp only [Part.same])

theorem execPtpLossTimeout_only {parts : List Part} {s0 s : State} (h : Only parts s0 s) (hp : [.hall, .time,
      .objects, .ring] ⊆ parts)  :
    OnlyO parts s0 (execPtpLossTimeout s) := by
  unfold execPtpLossTimeout
  repeat' first
    | with_reducible assumption | with_reducible exact List.Subset.trans (by decide) hp
    | (with_reducible apply act_only) | with_reducible intro _ | (with_reducible apply Only.ite)
    | (with_reducible apply State.reach64_only) | (with_reducible apply State.loseReference_only) | (dsimp only)
    | split | (with_reducible refine Only.leaf ?_ ?_)
    | (unfold Same; intro p hq; cases p <;> first | exact absurd (hp (by decide)) hq | dsimp only [Part.same])

theorem execRootSourceWaitExpire_only {parts : List Part} {s0 s : State} (h : Only parts s0 s) (hp : [.hall, .time,
      .objects, .ring, .boot] ⊆ parts)  :
    OnlyO parts s0 (execRootSourceWaitExpire s) := by
  unfold execRootSourceWaitExpire
  repeat' first
    | with_reducible assumption | with_reducible exact List.Subset.trans (by decide) hp
    | (with_reducible apply act_only) | with_reducible intro _ | (with_reducible apply Only.ite)
    | (with_reducible apply State.reach_only) | (with_reducible apply State.coldStart_only) | (dsimp only) | split
    | (with_reducible refine Only.leaf ?_ ?_)
    | (unfold Same; intro p hq; cases p <;> first | exact absurd (hp (by decide)) hq | dsimp only [Part.same])

theorem execRootBeatTick_only {parts : List Part} {s0 s : State} (h : Only parts s0 s) (hp : [.hall, .time] ⊆ parts) 
      :
    OnlyO parts s0 (execRootBeatTick s) := by
  unfold execRootBeatTick
  repeat' first
    | with_reducible assumption | with_reducible exact List.Subset.trans (by decide) hp
    | (with_reducible apply act_only) | with_reducible intro _ | (with_reducible apply Only.ite)
    | (with_reducible apply State.reach_only) | (with_reducible apply State.setTime_only) | (dsimp only) | split
    | (with_reducible refine Only.leaf ?_ ?_)
    | (unfold Same; intro p hq; cases p <;> first | exact absurd (hp (by decide)) hq | dsimp only [Part.same])

theorem execRootBeatTimeout_only {parts : List Part} {s0 s : State} (h : Only parts s0 s) (hp : [.hall, .time] ⊆
      parts)  :
    OnlyO parts s0 (execRootBeatTimeout s) := by
  unfold execRootBeatTimeout
  repeat' first
    | with_reducible assumption | with_reducible exact List.Subset.trans (by decide) hp
    | (with_reducible apply act_only) | with_reducible intro _ | (with_reducible apply Only.ite)
    | (with_reducible apply State.reach_only) | (with_reducible apply State.setTime_only) | (dsimp only) | split
    | (with_reducible refine Only.leaf ?_ ?_)
    | (unfold Same; intro p hq; cases p <;> first | exact absurd (hp (by decide)) hq | dsimp only [Part.same])

theorem execRootPromote_only {parts : List Part} {s0 s : State} (h : Only parts s0 s) (hp : [.hall, .time, .objects,
      .ring, .boot] ⊆ parts)  :
    OnlyO parts s0 (execRootPromote s) := by
  unfold execRootPromote
  repeat' first
    | with_reducible assumption | with_reducible exact List.Subset.trans (by decide) hp
    | (with_reducible apply act_only) | with_reducible intro _ | (with_reducible apply Only.ite)
    | (with_reducible apply State.reach_only) | (with_reducible apply State.log_only)
    | (with_reducible apply State.becomeRoot_only) | (with_reducible apply State.coldStart_only) | (dsimp only)
    | split | (with_reducible refine Only.leaf ?_ ?_)
    | (unfold Same; intro p hq; cases p <;> first | exact absurd (hp (by decide)) hq | dsimp only [Part.same])

theorem execPpsOutPulse_only {parts : List Part} {s0 s : State} (h : Only parts s0 s) (hp : [.out, .hall, .time] ⊆
      parts)  :
    OnlyO parts s0 (execPpsOutPulse s) := by
  unfold execPpsOutPulse
  repeat' first
    | with_reducible assumption | with_reducible exact List.Subset.trans (by decide) hp
    | (with_reducible apply act_only) | with_reducible intro _ | (with_reducible apply Only.ite)
    | (with_reducible apply State.reach_only) | (with_reducible apply State.emit_only)
    | (with_reducible apply State.setTime_only) | (dsimp only) | split | (with_reducible refine Only.leaf ?_ ?_)
    | (unfold Same; intro p hq; cases p <;> first | exact absurd (hp (by decide)) hq | dsimp only [Part.same])

end Sys2Proof.Machine
end

