-- ==== Sys2Proof/Laws/OnlyTimetable.lean ====
section
/-!
SUPPORT. What the operations of Machine/Timetable.lean can change (Laws/Only.lean).
-/

namespace Sys2Proof.Machine

theorem State.setArmed_only {parts : List Part} {s0 s : State} (h : Only parts s0 s) (hp : [.tt] ⊆ parts) (b : Nat)
      (v : Bool) :
    Only parts s0 (State.setArmed s b v) := by
  unfold State.setArmed
  repeat' first
    | with_reducible assumption | with_reducible exact List.Subset.trans (by decide) hp | with_reducible intro _
    | (with_reducible apply Only.ite) | (dsimp only) | split | (with_reducible refine Only.leaf ?_ ?_)
    | (unfold Same; intro p hq; cases p <;> first | exact absurd (hp (by decide)) hq | dsimp only [Part.same])

theorem State.landWrite_only {parts : List Part} {s0 s : State} (h : Only parts s0 s) (hp : [.mem, .poison, .stores,
      .maps, .mailboxes] ⊆ parts) (kind addr : Nat) (bs : List (Int × Byte)) :
    Only parts s0 (State.landWrite s kind addr bs) := by
  unfold State.landWrite
  repeat' first
    | with_reducible assumption | with_reducible exact List.Subset.trans (by decide) hp | with_reducible intro _
    | (with_reducible apply State.writeBytes_only) | (with_reducible apply State.storeBytes_only)
    | (with_reducible apply Only.foldl) | (with_reducible apply Only.foldl1) | (with_reducible apply Only.foldl2)
    | (dsimp only) | split | (with_reducible refine Only.leaf ?_ ?_)
    | (unfold Same; intro p hq; cases p <;> first | exact absurd (hp (by decide)) hq | dsimp only [Part.same])

theorem State.landBytes_only {parts : List Part} {s0 s : State} (h : Only parts s0 s) (hp : [.mem, .poison, .stores,
      .maps, .mailboxes] ⊆ parts) (kind addr : Nat) (pat : Option Nat) (i : Nat) (bs : List Byte) :
    Only parts s0 (State.landBytes s kind addr pat i bs) := by
  unfold State.landBytes
  repeat' first
    | with_reducible assumption | with_reducible exact List.Subset.trans (by decide) hp | with_reducible intro _
    | (with_reducible apply State.landWrite_only) | (dsimp only) | split | (with_reducible refine Only.leaf ?_ ?_)
    | (unfold Same; intro p hq; cases p <;> first | exact absurd (hp (by decide)) hq | dsimp only [Part.same])

theorem State.copyPatterns_only {parts : List Part} {s0 s : State} (h : Only parts s0 s) (hp : [.tt] ⊆ parts) (b :
      Nat) :
    Only parts s0 (State.copyPatterns s b) := by
  unfold State.copyPatterns
  repeat' first
    | with_reducible assumption | with_reducible exact List.Subset.trans (by decide) hp | with_reducible intro _
    | (with_reducible apply Only.foldl) | (with_reducible apply Only.foldl1) | (with_reducible apply Only.foldl2)
    | (dsimp only) | split | (with_reducible refine Only.leaf ?_ ?_)
    | (unfold Same; intro p hq; cases p <;> first | exact absurd (hp (by decide)) hq | dsimp only [Part.same])

theorem State.armSwitch_only {parts : List Part} {s0 s : State} (h : Only parts s0 s) (hp : [.tt, .objects, .ring] ⊆
      parts) (b : Fin 2) :
    Only parts s0 (State.armSwitch s b).2 := by
  unfold State.armSwitch
  repeat' first
    | with_reducible assumption | with_reducible exact List.Subset.trans (by decide) hp | with_reducible intro _
    | (with_reducible apply Only.ite) | (with_reducible apply Only.ite2) | (with_reducible apply State.setObj_only)
    | (with_reducible apply State.log_only) | (dsimp only) | split | (with_reducible refine Only.leaf ?_ ?_)
    | (unfold Same; intro p hq; cases p <;> first | exact absurd (hp (by decide)) hq | dsimp only [Part.same])

theorem State.disarmBankSwitch_only {parts : List Part} {s0 s : State} (h : Only parts s0 s) (hp : [.tt, .objects] ⊆
      parts)  :
    Only parts s0 (State.disarmBankSwitch s) := by
  unfold State.disarmBankSwitch
  repeat' first
    | with_reducible assumption | with_reducible exact List.Subset.trans (by decide) hp | with_reducible intro _
    | (with_reducible apply State.setObj_only) | (dsimp only) | split | (with_reducible refine Only.leaf ?_ ?_)
    | (unfold Same; intro p hq; cases p <;> first | exact absurd (hp (by decide)) hq | dsimp only [Part.same])

theorem State.unplanned_only {parts : List Part} {s0 s : State} (h : Only parts s0 s) (hp : [.out, .hold, .links,
      .ctxs, .objects, .ring, .msix, .alert] ⊆ parts)  :
    Only parts s0 (State.unplanned s) := by
  unfold State.unplanned
  repeat' first
    | with_reducible assumption | with_reducible exact List.Subset.trans (by decide) hp | with_reducible intro _
    | (with_reducible apply State.log_only) | (with_reducible apply State.setHold_only)
    | (with_reducible apply State.faultCount_only) | (with_reducible apply State.jobFail_only) | (dsimp only)
    | split | (with_reducible refine Only.leaf ?_ ?_)
    | (unfold Same; intro p hq; cases p <;> first | exact absurd (hp (by decide)) hq | dsimp only [Part.same])

theorem State.checkLoss_only {parts : List Part} {s0 s : State} (h : Only parts s0 s) (hp : [.out, .hold, .links,
      .ctxs, .objects, .ring, .msix, .alert] ⊆ parts)  :
    Only parts s0 (State.checkLoss s) := by
  unfold State.checkLoss
  repeat' first
    | with_reducible assumption | with_reducible exact List.Subset.trans (by decide) hp | with_reducible intro _
    | (with_reducible apply Only.ite) | (with_reducible apply State.unplanned_only) | (dsimp only) | split
    | (with_reducible refine Only.leaf ?_ ?_)
    | (unfold Same; intro p hq; cases p <;> first | exact absurd (hp (by decide)) hq | dsimp only [Part.same])

theorem State.setEngine_only {parts : List Part} {s0 s : State} (h : Only parts s0 s) (hp : [.tt] ⊆ parts) (l : Nat)
      (e : TtEngine) :
    Only parts s0 (State.setEngine s l e) := by
  unfold State.setEngine
  repeat' first
    | with_reducible assumption | with_reducible exact List.Subset.trans (by decide) hp | with_reducible intro _
    | (dsimp only) | split | (with_reducible refine Only.leaf ?_ ?_)
    | (unfold Same; intro p hq; cases p <;> first | exact absurd (hp (by decide)) hq | dsimp only [Part.same])

theorem State.markFired_only {parts : List Part} {s0 s : State} (h : Only parts s0 s) (hp : [.tt] ⊆ parts) (l i n :
      Nat) :
    Only parts s0 (State.markFired s l i n) := by
  unfold State.markFired
  repeat' first
    | with_reducible assumption | with_reducible exact List.Subset.trans (by decide) hp | with_reducible intro _
    | (with_reducible apply State.setEngine_only) | (dsimp only) | split | (with_reducible refine Only.leaf ?_ ?_)
    | (unfold Same; intro p hq; cases p <;> first | exact absurd (hp (by decide)) hq | dsimp only [Part.same])

theorem State.mergedWakes_only {parts : List Part} {s0 s : State} (h : Only parts s0 s) (hp : [.tt, .cores, .dies,
      .supply] ⊆ parts)  :
    Only parts s0 (State.mergedWakes s) := by
  unfold State.mergedWakes
  repeat' first
    | with_reducible assumption | with_reducible exact List.Subset.trans (by decide) hp | with_reducible intro _
    | (with_reducible apply Only.ite) | (with_reducible apply State.each_only)
    | (with_reducible apply State.wakeDie_only) | (with_reducible apply State.wakeCore_only)
    | (with_reducible apply State.markFired_only) | (dsimp only) | split | (with_reducible refine Only.leaf ?_ ?_)
    | (unfold Same; intro p hq; cases p <;> first | exact absurd (hp (by decide)) hq | dsimp only [Part.same])

theorem State.switchBank_only {parts : List Part} {s0 s : State} (h : Only parts s0 s) (hp : [.out, .tt, .hold,
      .links, .cores, .ctxs, .dies, .rope, .objects, .ring, .msix, .supply, .alert] ⊆ parts)  :
    Only parts s0 (State.switchBank s) := by
  unfold State.switchBank
  repeat' first
    | with_reducible assumption | with_reducible exact List.Subset.trans (by decide) hp | with_reducible intro _
    | (with_reducible apply State.on_only) | (with_reducible apply State.setObj_only)
    | (with_reducible apply State.log_only) | (with_reducible apply State.setHold_only)
    | (with_reducible apply State.checkLoss_only) | (with_reducible apply State.mergedWakes_only)
    | (with_reducible apply Only.foldl) | (with_reducible apply Only.foldl1) | (with_reducible apply Only.foldl2)
    | (dsimp only) | split | (with_reducible refine Only.leaf ?_ ?_)
    | (unfold Same; intro p hq; cases p <;> first | exact absurd (hp (by decide)) hq | dsimp only [Part.same])

theorem execBankSwitch_only {parts : List Part} {s0 s : State} (h : Only parts s0 s) (hp : [.out, .hall, .time, .tt,
      .hold, .links, .cores, .ctxs, .dies, .rope, .objects, .ring, .msix, .supply, .alert] ⊆ parts)  :
    OnlyO parts s0 (execBankSwitch s) := by
  unfold execBankSwitch
  repeat' first
    | with_reducible assumption | with_reducible exact List.Subset.trans (by decide) hp
    | (with_reducible apply act_only) | with_reducible intro _ | (with_reducible apply Only.ite)
    | (with_reducible apply State.reach_only) | (with_reducible apply State.switchBank_only) | (dsimp only) | split
    | (with_reducible refine Only.leaf ?_ ?_)
    | (unfold Same; intro p hq; cases p <;> first | exact absurd (hp (by decide)) hq | dsimp only [Part.same])

theorem execTtBatchArrive_only {parts : List Part} {s0 s : State} (h : Only parts s0 s) (hp : [.tt] ⊆ parts) (link :
      Link) :
    OnlyO parts s0 (execTtBatchArrive link s) := by
  unfold execTtBatchArrive
  repeat' first
    | with_reducible assumption | with_reducible exact List.Subset.trans (by decide) hp
    | (with_reducible apply act_only) | with_reducible intro _ | (with_reducible apply Only.ite)
    | (with_reducible apply State.setEngine_only) | (dsimp only) | split | (with_reducible refine Only.leaf ?_ ?_)
    | (unfold Same; intro p hq; cases p <;> first | exact absurd (hp (by decide)) hq | dsimp only [Part.same])

theorem State.loseWindow_only {parts : List Part} {s0 s : State} (h : Only parts s0 s) (hp : [.out, .hold, .objects,
      .ring, .msix] ⊆ parts) (l : Nat) :
    Only parts s0 (State.loseWindow s l) := by
  unfold State.loseWindow
  repeat' first
    | with_reducible assumption | with_reducible exact List.Subset.trans (by decide) hp | with_reducible intro _
    | (with_reducible apply State.count_only) | (with_reducible apply State.log_only)
    | (with_reducible apply State.interrupt_only) | (with_reducible apply State.schedFault_only) | (dsimp only)
    | split | (with_reducible refine Only.leaf ?_ ?_)
    | (unfold Same; intro p hq; cases p <;> first | exact absurd (hp (by decide)) hq | dsimp only [Part.same])

theorem State.openWindow_only {parts : List Part} {s0 s : State} (h : Only parts s0 s) (hp : [.out, .tt, .deltas] ⊆
      parts) (b l e start : Nat) (eng : TtEngine) :
    Only parts s0 (State.openWindow s b l e start eng) := by
  unfold State.openWindow
  repeat' first
    | with_reducible assumption | with_reducible exact List.Subset.trans (by decide) hp | with_reducible intro _
    | (with_reducible apply Only.ite) | (with_reducible apply State.emit_only)
    | (with_reducible apply State.on_only) | (with_reducible apply State.setEngine_only) | (dsimp only) | split
    | (with_reducible refine Only.leaf ?_ ?_)
    | (unfold Same; intro p hq; cases p <;> first | exact absurd (hp (by decide)) hq | dsimp only [Part.same])

theorem State.startWindow_only {parts : List Part} {s0 s : State} (h : Only parts s0 s) (hp : [.out, .hall, .time,
      .tt, .hold, .deltas, .objects, .ring, .msix] ⊆ parts) (l : Nat) :
    Only parts s0 (State.startWindow s l) := by
  unfold State.startWindow
  repeat' first
    | with_reducible assumption | with_reducible exact List.Subset.trans (by decide) hp
    | (with_reducible apply OnlyO.next) | with_reducible intro _ | (with_reducible apply Only.ite)
    | (with_reducible apply State.reach_only) | (with_reducible apply State.readPoison_only)
    | (with_reducible apply State.setEngine_only) | (with_reducible apply State.loseWindow_only)
    | (with_reducible apply State.openWindow_only) | (dsimp only) | split | (with_reducible refine Only.leaf ?_ ?_)
    | (unfold Same; intro p hq; cases p <;> first | exact absurd (hp (by decide)) hq | dsimp only [Part.same])

theorem execWindowStart_only {parts : List Part} {s0 s : State} (h : Only parts s0 s) (hp : [.out, .hall, .time, .tt,
      .hold, .deltas, .objects, .ring, .msix] ⊆ parts) (link : Link) :
    OnlyO parts s0 (execWindowStart link s) := by
  unfold execWindowStart
  repeat' first
    | with_reducible assumption | with_reducible exact List.Subset.trans (by decide) hp
    | (with_reducible apply act_only) | with_reducible intro _ | (with_reducible apply State.startWindow_only)
    | (dsimp only) | split | (with_reducible refine Only.leaf ?_ ?_)
    | (unfold Same; intro p hq; cases p <;> first | exact absurd (hp (by decide)) hq | dsimp only [Part.same])

theorem State.sendSlot_only {parts : List Part} {s0 s : State} (h : Only parts s0 s) (hp : [.out, .hall, .time, .tt,
      .links, .objects, .ring] ⊆ parts) (l : Nat) :
    Only parts s0 (State.sendSlot s l) := by
  unfold State.sendSlot
  repeat' first
    | with_reducible assumption | with_reducible exact List.Subset.trans (by decide) hp | with_reducible intro _
    | (with_reducible apply Only.ite) | (with_reducible apply State.reach_only)
    | (with_reducible apply State.emit_only) | (with_reducible apply State.readPoison_only)
    | (with_reducible apply State.returnCredits_only) | (with_reducible apply State.setEngine_only) | (dsimp only)
    | split | (with_reducible refine Only.leaf ?_ ?_)
    | (unfold Same; intro p hq; cases p <;> first | exact absurd (hp (by decide)) hq | dsimp only [Part.same])

theorem execWindowSlotSend_only {parts : List Part} {s0 s : State} (h : Only parts s0 s) (hp : [.out, .hall, .time,
      .tt, .links, .objects, .ring] ⊆ parts) (link : Link) :
    OnlyO parts s0 (execWindowSlotSend link s) := by
  unfold execWindowSlotSend
  repeat' first
    | with_reducible assumption | with_reducible exact List.Subset.trans (by decide) hp
    | (with_reducible apply act_only) | with_reducible intro _ | (with_reducible apply State.sendSlot_only)
    | (dsimp only) | split | (with_reducible refine Only.leaf ?_ ?_)
    | (unfold Same; intro p hq; cases p <;> first | exact absurd (hp (by decide)) hq | dsimp only [Part.same])

theorem State.setRx_only {parts : List Part} {s0 s : State} (h : Only parts s0 s) (hp : [.tt] ⊆ parts) (l : Nat) (w :
      Option RxWindow) :
    Only parts s0 (State.setRx s l w) := by
  unfold State.setRx
  repeat' first
    | with_reducible assumption | with_reducible exact List.Subset.trans (by decide) hp | with_reducible intro _
    | (dsimp only) | split | (with_reducible refine Only.leaf ?_ ?_)
    | (unfold Same; intro p hq; cases p <;> first | exact absurd (hp (by decide)) hq | dsimp only [Part.same])

theorem execWindowOpenReceive_only {parts : List Part} {s0 s : State} (h : Only parts s0 s) (hp : [.tt] ⊆ parts)
      (link : Link) (w : OpenWord) :
    OnlyO parts s0 (execWindowOpenReceive link w s) := by
  unfold execWindowOpenReceive
  repeat' first
    | with_reducible assumption | with_reducible exact List.Subset.trans (by decide) hp
    | (with_reducible apply act_only) | with_reducible intro _ | (with_reducible apply State.setRx_only)
    | (dsimp only) | split | (with_reducible refine Only.leaf ?_ ?_)
    | (unfold Same; intro p hq; cases p <;> first | exact absurd (hp (by decide)) hq | dsimp only [Part.same])

theorem State.landingFault_only {parts : List Part} {s0 s : State} (h : Only parts s0 s) (hp : [.hold, .objects,
      .ring] ⊆ parts) (l : Nat) (w : RxWindow) (slots : Nat) :
    Only parts s0 (State.landingFault s l w slots) := by
  unfold State.landingFault
  repeat' first
    | with_reducible assumption | with_reducible exact List.Subset.trans (by decide) hp | with_reducible intro _
    | (with_reducible apply State.on_only) | (with_reducible apply State.count_only)
    | (with_reducible apply State.log_only) | (with_reducible apply State.schedFault_only) | (dsimp only) | split
    | (with_reducible refine Only.leaf ?_ ?_)
    | (unfold Same; intro p hq; cases p <;> first | exact absurd (hp (by decide)) hq | dsimp only [Part.same])

theorem State.landSlot_only {parts : List Part} {s0 s : State} (h : Only parts s0 s) (hp : [.tt, .hold, .links, .mem,
      .poison, .stores, .maps, .cores, .dies, .mailboxes, .objects, .ring, .supply] ⊆ parts) (l : Nat) (data : List
      Byte) (bad overflow : Bool) :
    Only parts s0 (State.landSlot s l data bad overflow) := by
  unfold State.landSlot
  repeat' first
    | with_reducible assumption | with_reducible exact List.Subset.trans (by decide) hp | with_reducible intro _
    | (with_reducible apply Only.ite) | (with_reducible apply State.on_only)
    | (with_reducible apply State.setLink_only) | (with_reducible apply State.wakeCore_only)
    | (with_reducible apply State.landBytes_only) | (with_reducible apply State.setRx_only)
    | (with_reducible apply State.landingFault_only) | (dsimp only) | split
    | (with_reducible refine Only.leaf ?_ ?_)
    | (unfold Same; intro p hq; cases p <;> first | exact absurd (hp (by decide)) hq | dsimp only [Part.same])

theorem execSlotLand_only {parts : List Part} {s0 s : State} (h : Only parts s0 s) (hp : [.tt, .hold, .links, .mem,
      .poison, .stores, .maps, .cores, .dies, .mailboxes, .objects, .ring, .supply] ⊆ parts) (link : Link) (data :
      SlotWord) (bad overflow : Bool) :
    OnlyO parts s0 (execSlotLand link data bad overflow s) := by
  unfold execSlotLand
  repeat' first
    | with_reducible assumption | with_reducible exact List.Subset.trans (by decide) hp
    | (with_reducible apply act_only) | with_reducible intro _ | (with_reducible apply State.addCredits_only)
    | (with_reducible apply State.landSlot_only) | (dsimp only) | split | (with_reducible refine Only.leaf ?_ ?_)
    | (unfold Same; intro p hq; cases p <;> first | exact absurd (hp (by decide)) hq | dsimp only [Part.same])

theorem onEvent_only {parts : List Part} {s0 s : State} (h : Only parts s0 s) (hp : [.out, .hall, .time, .tt, .hold,
      .objects, .ring, .msix] ⊆ parts) (is : Nat → Bool) (f : State → State) (hf : ∀ u, Only parts s0 u → Only parts
      s0 (f u)) :
    OnlyO parts s0 (onEvent s is f) := by
  unfold onEvent
  repeat' first
    | with_reducible assumption | with_reducible exact List.Subset.trans (by decide) hp
    | (with_reducible apply act_only) | (with_reducible apply OnlyO.next) | with_reducible intro _
    | (with_reducible apply Only.ite) | (with_reducible apply hf) | (with_reducible apply State.reach_only)
    | (with_reducible apply State.readPoison_only) | (with_reducible apply State.markFired_only)
    | (with_reducible apply State.loseWindow_only) | (dsimp only) | split | (with_reducible refine Only.leaf ?_ ?_)
    | (unfold Same; intro p hq; cases p <;> first | exact absurd (hp (by decide)) hq | dsimp only [Part.same])

theorem execWakeCore_only {parts : List Part} {s0 s : State} (h : Only parts s0 s) (hp : [.out, .hall, .time, .tt,
      .hold, .cores, .dies, .objects, .ring, .msix, .supply] ⊆ parts) (core : Core) :
    OnlyO parts s0 (execWakeCore core s) := by
  unfold execWakeCore
  repeat' first
    | with_reducible assumption | with_reducible exact List.Subset.trans (by decide) hp
    | (with_reducible apply onEvent_only) | with_reducible intro _ | (with_reducible apply State.wakeCore_only)
    | (dsimp only) | split | (with_reducible refine Only.leaf ?_ ?_)
    | (unfold Same; intro p hq; cases p <;> first | exact absurd (hp (by decide)) hq | dsimp only [Part.same])

theorem execWakeDie_only {parts : List Part} {s0 s : State} (h : Only parts s0 s) (hp : [.out, .hall, .time, .tt,
      .hold, .dies, .objects, .ring, .msix, .supply] ⊆ parts) (die : Die) :
    OnlyO parts s0 (execWakeDie die s) := by
  unfold execWakeDie
  repeat' first
    | with_reducible assumption | with_reducible exact List.Subset.trans (by decide) hp
    | (with_reducible apply onEvent_only) | with_reducible intro _ | (with_reducible apply State.wakeDie_only)
    | (dsimp only) | split | (with_reducible refine Only.leaf ?_ ?_)
    | (unfold Same; intro p hq; cases p <;> first | exact absurd (hp (by decide)) hq | dsimp only [Part.same])

theorem State.ignoreSleep_only {parts : List Part} {s0 s : State} (h : Only parts s0 s) (hp : [.objects, .ring] ⊆
      parts) (dom : Nat) :
    Only parts s0 (State.ignoreSleep s dom) := by
  unfold State.ignoreSleep
  repeat' first
    | with_reducible assumption | with_reducible exact List.Subset.trans (by decide) hp | with_reducible intro _
    | (with_reducible apply State.count_only) | (with_reducible apply State.log_only) | (dsimp only) | split
    | (with_reducible refine Only.leaf ?_ ?_)
    | (unfold Same; intro p hq; cases p <;> first | exact absurd (hp (by decide)) hq | dsimp only [Part.same])

theorem execSleepCore_only {parts : List Part} {s0 s : State} (h : Only parts s0 s) (hp : [.out, .hall, .time, .tt,
      .hold, .cores, .objects, .ring, .msix] ⊆ parts) (core : Core) :
    OnlyO parts s0 (execSleepCore core s) := by
  unfold execSleepCore
  repeat' first
    | with_reducible assumption | with_reducible exact List.Subset.trans (by decide) hp
    | (with_reducible apply onEvent_only) | with_reducible intro _ | (with_reducible apply Only.ite)
    | (with_reducible apply State.mapCore_only) | (with_reducible apply State.ignoreSleep_only) | (dsimp only)
    | split | (with_reducible refine Only.leaf ?_ ?_)
    | (unfold Same; intro p hq; cases p <;> first | exact absurd (hp (by decide)) hq | dsimp only [Part.same])

theorem execSleepDie_only {parts : List Part} {s0 s : State} (h : Only parts s0 s) (hp : [.out, .hall, .time, .tt,
      .hold, .dies, .objects, .ring, .msix] ⊆ parts) (die : Die) :
    OnlyO parts s0 (execSleepDie die s) := by
  unfold execSleepDie
  repeat' first
    | with_reducible assumption | with_reducible exact List.Subset.trans (by decide) hp
    | (with_reducible apply onEvent_only) | with_reducible intro _ | (with_reducible apply Only.ite)
    | (with_reducible apply State.setDie_only) | (with_reducible apply State.ignoreSleep_only) | (dsimp only)
    | split | (with_reducible refine Only.leaf ?_ ?_)
    | (unfold Same; intro p hq; cases p <;> first | exact absurd (hp (by decide)) hq | dsimp only [Part.same])

theorem execEventSemPost_only {parts : List Part} {s0 s : State} (h : Only parts s0 s) (hp : [.out, .hall, .time,
      .tt, .hold, .links, .cores, .ctxs, .sems, .dies, .objects, .ring, .msix, .supply, .alert] ⊆ parts) (core :
      Core) (sem : BitVec 8) :
    OnlyO parts s0 (execEventSemPost core sem s) := by
  unfold execEventSemPost
  repeat' first
    | with_reducible assumption | with_reducible exact List.Subset.trans (by decide) hp
    | (with_reducible apply onEvent_only) | with_reducible intro _ | (with_reducible apply State.post_only)
    | (dsimp only) | split | (with_reducible refine Only.leaf ?_ ?_)
    | (unfold Same; intro p hq; cases p <;> first | exact absurd (hp (by decide)) hq | dsimp only [Part.same])

theorem execStrobe_only {parts : List Part} {s0 s : State} (h : Only parts s0 s) (hp : [.out, .hall, .time, .tt,
      .hold, .objects, .ring, .msix] ⊆ parts)  :
    OnlyO parts s0 (execStrobe s) := by
  unfold execStrobe
  repeat' first
    | with_reducible assumption | with_reducible exact List.Subset.trans (by decide) hp
    | (with_reducible apply onEvent_only) | with_reducible intro _ | (with_reducible apply Only.ite)
    | (with_reducible apply State.emit_only) | (dsimp only) | split | (with_reducible refine Only.leaf ?_ ?_)
    | (unfold Same; intro p hq; cases p <;> first | exact absurd (hp (by decide)) hq | dsimp only [Part.same])

end Sys2Proof.Machine
end

