-- ==== Sys2Proof/Laws/OnlyVector.lean ====
section
/-!
SUPPORT. What the operations of Machine/Vector.lean can change (Laws/Only.lean).
-/

namespace Sys2Proof.Machine

theorem execVectorComplete_only {parts : List Part} {s0 s : State} (h : Only parts s0 s) (hp : [.out, .hold, .links,
      .stores, .maps, .cores, .ctxs, .sems, .dies, .deltas, .objects, .ring, .msix, .supply, .alert] ⊆ parts) (core :
      Core) :
    OnlyO parts s0 (execVectorComplete core s) := by
  unfold execVectorComplete
  repeat' first
    | with_reducible assumption | with_reducible exact List.Subset.trans (by decide) hp
    | (with_reducible apply act_only) | with_reducible intro _ | (with_reducible apply Only.ite)
    | (with_reducible apply State.storeWriteRaw_only) | (with_reducible apply State.setCore_only)
    | (with_reducible apply State.each_only) | (with_reducible apply State.countFlushed_only)
    | (with_reducible apply State.sendDeltas_only) | (with_reducible apply State.postDone_only)
    | (with_reducible apply State.evalWaitQ_only) | (dsimp only) | split | (with_reducible refine Only.leaf ?_ ?_)
    | (unfold Same; intro p hq; cases p <;> first | exact absurd (hp (by decide)) hq | dsimp only [Part.same])

theorem State.queueVec_only {parts : List Part} {s0 s : State} (h : Only parts s0 s) (hp : [.cores] ⊆ parts) (c :
      Nat) (v : VecItem) :
    Only parts s0 (State.queueVec s c v) := by
  unfold State.queueVec
  repeat' first
    | with_reducible assumption | with_reducible exact List.Subset.trans (by decide) hp | with_reducible intro _
    | (with_reducible apply State.mapCore_only) | (dsimp only) | split | (with_reducible refine Only.leaf ?_ ?_)
    | (unfold Same; intro p hq; cases p <;> first | exact absurd (hp (by decide)) hq | dsimp only [Part.same])

theorem State.issueVec_only {parts : List Part} {s0 s : State} (h : Only parts s0 s) (hp : [.out, .hold, .links,
      .cores, .ctxs, .objects, .ring, .msix, .alert] ⊆ parts) (c x op : Nat) :
    Only parts s0 (State.issueVec s c x op) := by
  unfold State.issueVec
  repeat' first
    | with_reducible assumption | with_reducible exact List.Subset.trans (by decide) hp | with_reducible intro _
    | (with_reducible apply State.enterQueue_only) | (with_reducible apply State.issue_only)
    | (with_reducible apply State.queueVec_only) | (dsimp only) | split | (with_reducible refine Only.leaf ?_ ?_)
    | (unfold Same; intro p hq; cases p <;> first | exact absurd (hp (by decide)) hq | dsimp only [Part.same])

theorem execVadd_only {parts : List Part} {s0 s : State} (h : Only parts s0 s) (hp : [.out, .hold, .links, .cores,
      .ctxs, .objects, .ring, .msix, .alert] ⊆ parts) (core : Core) (ctx : Ctx) :
    OnlyO parts s0 (execVadd core ctx s) := by
  unfold execVadd
  repeat' first
    | with_reducible assumption | with_reducible exact List.Subset.trans (by decide) hp
    | (with_reducible apply act_only) | with_reducible intro _ | (with_reducible apply State.issueVec_only)
    | (dsimp only) | split | (with_reducible refine Only.leaf ?_ ?_)
    | (unfold Same; intro p hq; cases p <;> first | exact absurd (hp (by decide)) hq | dsimp only [Part.same])

theorem execVsub_only {parts : List Part} {s0 s : State} (h : Only parts s0 s) (hp : [.out, .hold, .links, .cores,
      .ctxs, .objects, .ring, .msix, .alert] ⊆ parts) (core : Core) (ctx : Ctx) :
    OnlyO parts s0 (execVsub core ctx s) := by
  unfold execVsub
  repeat' first
    | with_reducible assumption | with_reducible exact List.Subset.trans (by decide) hp
    | (with_reducible apply act_only) | with_reducible intro _ | (with_reducible apply State.issueVec_only)
    | (dsimp only) | split | (with_reducible refine Only.leaf ?_ ?_)
    | (unfold Same; intro p hq; cases p <;> first | exact absurd (hp (by decide)) hq | dsimp only [Part.same])

theorem execVmul_only {parts : List Part} {s0 s : State} (h : Only parts s0 s) (hp : [.out, .hold, .links, .cores,
      .ctxs, .objects, .ring, .msix, .alert] ⊆ parts) (core : Core) (ctx : Ctx) :
    OnlyO parts s0 (execVmul core ctx s) := by
  unfold execVmul
  repeat' first
    | with_reducible assumption | with_reducible exact List.Subset.trans (by decide) hp
    | (with_reducible apply act_only) | with_reducible intro _ | (with_reducible apply State.issueVec_only)
    | (dsimp only) | split | (with_reducible refine Only.leaf ?_ ?_)
    | (unfold Same; intro p hq; cases p <;> first | exact absurd (hp (by decide)) hq | dsimp only [Part.same])

theorem execVfma_only {parts : List Part} {s0 s : State} (h : Only parts s0 s) (hp : [.out, .hold, .links, .cores,
      .ctxs, .objects, .ring, .msix, .alert] ⊆ parts) (core : Core) (ctx : Ctx) :
    OnlyO parts s0 (execVfma core ctx s) := by
  unfold execVfma
  repeat' first
    | with_reducible assumption | with_reducible exact List.Subset.trans (by decide) hp
    | (with_reducible apply act_only) | with_reducible intro _ | (with_reducible apply State.issueVec_only)
    | (dsimp only) | split | (with_reducible refine Only.leaf ?_ ?_)
    | (unfold Same; intro p hq; cases p <;> first | exact absurd (hp (by decide)) hq | dsimp only [Part.same])

theorem execVmax_only {parts : List Part} {s0 s : State} (h : Only parts s0 s) (hp : [.out, .hold, .links, .cores,
      .ctxs, .objects, .ring, .msix, .alert] ⊆ parts) (core : Core) (ctx : Ctx) :
    OnlyO parts s0 (execVmax core ctx s) := by
  unfold execVmax
  repeat' first
    | with_reducible assumption | with_reducible exact List.Subset.trans (by decide) hp
    | (with_reducible apply act_only) | with_reducible intro _ | (with_reducible apply State.issueVec_only)
    | (dsimp only) | split | (with_reducible refine Only.leaf ?_ ?_)
    | (unfold Same; intro p hq; cases p <;> first | exact absurd (hp (by decide)) hq | dsimp only [Part.same])

theorem execVmin_only {parts : List Part} {s0 s : State} (h : Only parts s0 s) (hp : [.out, .hold, .links, .cores,
      .ctxs, .objects, .ring, .msix, .alert] ⊆ parts) (core : Core) (ctx : Ctx) :
    OnlyO parts s0 (execVmin core ctx s) := by
  unfold execVmin
  repeat' first
    | with_reducible assumption | with_reducible exact List.Subset.trans (by decide) hp
    | (with_reducible apply act_only) | with_reducible intro _ | (with_reducible apply State.issueVec_only)
    | (dsimp only) | split | (with_reducible refine Only.leaf ?_ ?_)
    | (unfold Same; intro p hq; cases p <;> first | exact absurd (hp (by decide)) hq | dsimp only [Part.same])

theorem execVcvt_only {parts : List Part} {s0 s : State} (h : Only parts s0 s) (hp : [.out, .hold, .links, .cores,
      .ctxs, .objects, .ring, .msix, .alert] ⊆ parts) (core : Core) (ctx : Ctx) :
    OnlyO parts s0 (execVcvt core ctx s) := by
  unfold execVcvt
  repeat' first
    | with_reducible assumption | with_reducible exact List.Subset.trans (by decide) hp
    | (with_reducible apply act_only) | with_reducible intro _ | (with_reducible apply State.issueVec_only)
    | (dsimp only) | split | (with_reducible refine Only.leaf ?_ ?_)
    | (unfold Same; intro p hq; cases p <;> first | exact absurd (hp (by decide)) hq | dsimp only [Part.same])

theorem execVaddCp_only {parts : List Part} {s0 s : State} (h : Only parts s0 s) (hp : [.out, .hold, .links, .cores,
      .ctxs, .objects, .ring, .msix, .alert] ⊆ parts) (core : Core) (ctx : Ctx) :
    OnlyO parts s0 (execVaddCp core ctx s) := by
  unfold execVaddCp
  repeat' first
    | with_reducible assumption | with_reducible exact List.Subset.trans (by decide) hp
    | (with_reducible apply act_only) | with_reducible intro _ | (with_reducible apply State.issueVec_only)
    | (dsimp only) | split | (with_reducible refine Only.leaf ?_ ?_)
    | (unfold Same; intro p hq; cases p <;> first | exact absurd (hp (by decide)) hq | dsimp only [Part.same])

theorem execVredSum_only {parts : List Part} {s0 s : State} (h : Only parts s0 s) (hp : [.out, .hold, .links, .cores,
      .ctxs, .objects, .ring, .msix, .alert] ⊆ parts) (core : Core) (ctx : Ctx) :
    OnlyO parts s0 (execVredSum core ctx s) := by
  unfold execVredSum
  repeat' first
    | with_reducible assumption | with_reducible exact List.Subset.trans (by decide) hp
    | (with_reducible apply act_only) | with_reducible intro _ | (with_reducible apply State.issueVec_only)
    | (dsimp only) | split | (with_reducible refine Only.leaf ?_ ?_)
    | (unfold Same; intro p hq; cases p <;> first | exact absurd (hp (by decide)) hq | dsimp only [Part.same])

theorem execVredMax_only {parts : List Part} {s0 s : State} (h : Only parts s0 s) (hp : [.out, .hold, .links, .cores,
      .ctxs, .objects, .ring, .msix, .alert] ⊆ parts) (core : Core) (ctx : Ctx) :
    OnlyO parts s0 (execVredMax core ctx s) := by
  unfold execVredMax
  repeat' first
    | with_reducible assumption | with_reducible exact List.Subset.trans (by decide) hp
    | (with_reducible apply act_only) | with_reducible intro _ | (with_reducible apply State.issueVec_only)
    | (dsimp only) | split | (with_reducible refine Only.leaf ?_ ?_)
    | (unfold Same; intro p hq; cases p <;> first | exact absurd (hp (by decide)) hq | dsimp only [Part.same])

theorem execVredSsq_only {parts : List Part} {s0 s : State} (h : Only parts s0 s) (hp : [.out, .hold, .links, .cores,
      .ctxs, .objects, .ring, .msix, .alert] ⊆ parts) (core : Core) (ctx : Ctx) :
    OnlyO parts s0 (execVredSsq core ctx s) := by
  unfold execVredSsq
  repeat' first
    | with_reducible assumption | with_reducible exact List.Subset.trans (by decide) hp
    | (with_reducible apply act_only) | with_reducible intro _ | (with_reducible apply State.issueVec_only)
    | (dsimp only) | split | (with_reducible refine Only.leaf ?_ ?_)
    | (unfold Same; intro p hq; cases p <;> first | exact absurd (hp (by decide)) hq | dsimp only [Part.same])

theorem execSfExp_only {parts : List Part} {s0 s : State} (h : Only parts s0 s) (hp : [.out, .hold, .links, .cores,
      .ctxs, .objects, .ring, .msix, .alert] ⊆ parts) (core : Core) (ctx : Ctx) :
    OnlyO parts s0 (execSfExp core ctx s) := by
  unfold execSfExp
  repeat' first
    | with_reducible assumption | with_reducible exact List.Subset.trans (by decide) hp
    | (with_reducible apply act_only) | with_reducible intro _ | (with_reducible apply State.issueVec_only)
    | (dsimp only) | split | (with_reducible refine Only.leaf ?_ ?_)
    | (unfold Same; intro p hq; cases p <;> first | exact absurd (hp (by decide)) hq | dsimp only [Part.same])

theorem execSfLog_only {parts : List Part} {s0 s : State} (h : Only parts s0 s) (hp : [.out, .hold, .links, .cores,
      .ctxs, .objects, .ring, .msix, .alert] ⊆ parts) (core : Core) (ctx : Ctx) :
    OnlyO parts s0 (execSfLog core ctx s) := by
  unfold execSfLog
  repeat' first
    | with_reducible assumption | with_reducible exact List.Subset.trans (by decide) hp
    | (with_reducible apply act_only) | with_reducible intro _ | (with_reducible apply State.issueVec_only)
    | (dsimp only) | split | (with_reducible refine Only.leaf ?_ ?_)
    | (unfold Same; intro p hq; cases p <;> first | exact absurd (hp (by decide)) hq | dsimp only [Part.same])

theorem execSfRsqrt_only {parts : List Part} {s0 s : State} (h : Only parts s0 s) (hp : [.out, .hold, .links, .cores,
      .ctxs, .objects, .ring, .msix, .alert] ⊆ parts) (core : Core) (ctx : Ctx) :
    OnlyO parts s0 (execSfRsqrt core ctx s) := by
  unfold execSfRsqrt
  repeat' first
    | with_reducible assumption | with_reducible exact List.Subset.trans (by decide) hp
    | (with_reducible apply act_only) | with_reducible intro _ | (with_reducible apply State.issueVec_only)
    | (dsimp only) | split | (with_reducible refine Only.leaf ?_ ?_)
    | (unfold Same; intro p hq; cases p <;> first | exact absurd (hp (by decide)) hq | dsimp only [Part.same])

end Sys2Proof.Machine
end

