-- ==== Sys2Proof/Laws/OnlyMovers.lean ====
section
/-!
SUPPORT. What the operations of Machine/Movers.lean can change (Laws/Only.lean).
-/

namespace Sys2Proof.Machine

theorem State.tcUse_only {parts : List Part} {s0 s : State} (h : Only parts s0 s) (hp : [.cores] ⊆ parts) (c : Nat)
      (e : TcEntry) :
    Only parts s0 (State.tcUse s c e) := by
  unfold State.tcUse
  repeat' first
    | with_reducible assumption | with_reducible exact List.Subset.trans (by decide) hp | with_reducible intro _
    | (with_reducible apply State.mapCore_only) | (dsimp only) | split | (with_reducible refine Only.leaf ?_ ?_)
    | (unfold Same; intro p hq; cases p <;> first | exact absurd (hp (by decide)) hq | dsimp only [Part.same])

theorem State.countSlot_only {parts : List Part} {s0 s : State} (h : Only parts s0 s) (hp : [.objects] ⊆ parts) (sec
      : Nat) (w : SlotWrite) :
    Only parts s0 (State.countSlot s sec w) := by
  unfold State.countSlot
  repeat' first
    | with_reducible assumption | with_reducible exact List.Subset.trans (by decide) hp | with_reducible intro _
    | (with_reducible apply Only.ite) | (with_reducible apply State.on_only)
    | (with_reducible apply State.count64_only) | (dsimp only) | split | (with_reducible refine Only.leaf ?_ ?_)
    | (unfold Same; intro p hq; cases p <;> first | exact absurd (hp (by decide)) hq | dsimp only [Part.same])

theorem State.setRun_only {parts : List Part} {s0 s : State} (h : Only parts s0 s) (hp : [.movers] ⊆ parts) (m : Nat)
      (r : MovRun) :
    Only parts s0 (State.setRun s m r) := by
  unfold State.setRun
  repeat' first
    | with_reducible assumption | with_reducible exact List.Subset.trans (by decide) hp | with_reducible intro _
    | (with_reducible apply State.setMover_only) | (dsimp only) | split | (with_reducible refine Only.leaf ?_ ?_)
    | (unfold Same; intro p hq; cases p <;> first | exact absurd (hp (by decide)) hq | dsimp only [Part.same])

theorem State.moverFault_only {parts : List Part} {s0 s : State} (h : Only parts s0 s) (hp : [.out, .drawn, .hold,
      .links, .fabric, .mem, .poison, .stores, .maps, .ctxs, .sems, .movers, .objects, .ring, .msix, .alert] ⊆ parts)
      (m : Nat) (r : MovRun) (code addr : Nat) (slot : Option (Nat × Nat)) :
    Only parts s0 (State.moverFault s m r code addr slot) := by
  unfold State.moverFault
  repeat' first
    | with_reducible assumption | with_reducible exact List.Subset.trans (by decide) hp | with_reducible intro _
    | (with_reducible apply State.emit_only) | (with_reducible apply State.on_only)
    | (with_reducible apply State.count_only) | (with_reducible apply State.log_only)
    | (with_reducible apply State.setMover_only) | (with_reducible apply State.readPoison_only)
    | (with_reducible apply State.faultCount_only) | (with_reducible apply State.jobFail_only)
    | (with_reducible apply State.ctxFault_only) | (with_reducible apply State.breakDone_only)
    | (with_reducible apply State.evalWaitQ_only) | (with_reducible apply State.partialWrites_only)
    | (with_reducible apply State.releaseClaims_only) | (dsimp only) | split
    | (with_reducible refine Only.leaf ?_ ?_)
    | (unfold Same; intro p hq; cases p <;> first | exact absurd (hp (by decide)) hq | dsimp only [Part.same])

theorem State.runSlots_only {parts : List Part} {s0 s : State} (h : Only parts s0 s) (hp : [.out, .drawn, .hold,
      .links, .fabric, .mem, .poison, .stores, .maps, .ctxs, .sems, .movers, .objects, .ring, .msix, .alert] ⊆ parts)
      (m : Nat) (r : MovRun)
    (again : Bool) (n : Nat) : Only parts s0 (State.runSlots s m r again n) := by
  induction n generalizing s r again with
  | zero => exact State.setRun_only h (List.Subset.trans (by decide) hp) _ _
  | succ n ih =>
    unfold State.runSlots
    dsimp only
    split
    · exact ih (State.countSlot_only h (List.Subset.trans (by decide) hp) _ _) _ _
    · exact State.moverFault_only h (List.Subset.trans (by decide) hp) _ _ _ _ _
    · split
      · exact State.moverFault_only h (List.Subset.trans (by decide) hp) _ _ _ _ _
      · exact State.setRun_only (State.count_only h (List.Subset.trans (by decide) hp) _ _ _)
          (List.Subset.trans (by decide) hp) _ _

theorem State.runMoves_only {parts : List Part} {s0 s : State} (h : Only parts s0 s) (hp : [.out, .drawn, .hold,
      .links, .fabric, .mem, .poison, .stores, .maps, .ctxs, .sems, .movers, .objects, .ring, .msix, .alert] ⊆ parts)
      (m : Nat) (r : MovRun) :
    Only parts s0 (State.runMoves s m r) := by
  unfold State.runMoves
  repeat' first
    | with_reducible assumption | with_reducible exact List.Subset.trans (by decide) hp | with_reducible intro _
    | (with_reducible apply Only.ite) | (with_reducible apply State.queueRequests_only)
    | (with_reducible apply State.setRun_only) | (with_reducible apply State.moverFault_only)
    | (with_reducible apply State.runSlots_only) | (with_reducible apply Only.foldl)
    | (with_reducible apply Only.foldl1) | (with_reducible apply Only.foldl2) | (dsimp only) | split
    | (with_reducible refine Only.leaf ?_ ?_)
    | (unfold Same; intro p hq; cases p <;> first | exact absurd (hp (by decide)) hq | dsimp only [Part.same])

theorem State.resolve_only {parts : List Part} {s0 s : State} (h : Only parts s0 s) (hp : [.out, .drawn, .hold,
      .links, .fabric, .mem, .poison, .stores, .maps, .cores, .ctxs, .sems, .movers, .objects, .ring, .msix, .alert]
      ⊆ parts) (m : Nat) (r : MovRun) :
    Only parts s0 (State.resolve s m r) := by
  unfold State.resolve
  repeat' first
    | with_reducible assumption | with_reducible exact List.Subset.trans (by decide) hp | with_reducible intro _
    | (with_reducible apply Only.ite) | (with_reducible apply State.each_only)
    | (with_reducible apply State.tcUse_only) | (with_reducible apply State.setRun_only)
    | (with_reducible apply State.runMoves_only) | (dsimp only) | split | (with_reducible refine Only.leaf ?_ ?_)
    | (unfold Same; intro p hq; cases p <;> first | exact absurd (hp (by decide)) hq | dsimp only [Part.same])

theorem execDescriptorStart_only {parts : List Part} {s0 s : State} (h : Only parts s0 s) (hp : [.out, .drawn, .hold,
      .links, .fabric, .mem, .poison, .stores, .maps, .cores, .ctxs, .sems, .movers, .objects, .ring, .msix, .alert]
      ⊆ parts) (mover : Mover) :
    OnlyO parts s0 (execDescriptorStart mover s) := by
  unfold execDescriptorStart
  repeat' first
    | with_reducible assumption | with_reducible exact List.Subset.trans (by decide) hp
    | (with_reducible apply act_only) | with_reducible intro _ | (with_reducible apply Only.ite)
    | (with_reducible apply State.on_only) | (with_reducible apply State.count_only)
    | (with_reducible apply State.setMover_only) | (with_reducible apply State.resolve_only) | (dsimp only) | split
    | (with_reducible refine Only.leaf ?_ ?_)
    | (unfold Same; intro p hq; cases p <;> first | exact absurd (hp (by decide)) hq | dsimp only [Part.same])

theorem execDescriptorComplete_only {parts : List Part} {s0 s : State} (h : Only parts s0 s) (hp : [.out, .drawn,
      .hold, .links, .fabric, .mem, .poison, .stores, .maps, .cores, .ctxs, .sems, .movers, .dies, .objects, .ring,
      .msix, .supply, .alert] ⊆ parts) (mover : Mover) :
    OnlyO parts s0 (execDescriptorComplete mover s) := by
  unfold execDescriptorComplete
  repeat' first
    | with_reducible assumption | with_reducible exact List.Subset.trans (by decide) hp
    | (with_reducible apply act_only) | with_reducible intro _ | (with_reducible apply Only.ite)
    | (with_reducible apply State.count64_only) | (with_reducible apply State.writeBytes_only)
    | (with_reducible apply State.storeBytes_only) | (with_reducible apply State.mapCtx_only)
    | (with_reducible apply State.setMover_only) | (with_reducible apply State.each_only)
    | (with_reducible apply State.postDone_only) | (with_reducible apply State.evalWaitQ_only)
    | (with_reducible apply State.landCoded_only) | (with_reducible apply State.moverFault_only) | (dsimp only)
    | split | (with_reducible refine Only.leaf ?_ ?_)
    | (unfold Same; intro p hq; cases p <;> first | exact absurd (hp (by decide)) hq | dsimp only [Part.same])

theorem execMoverCheckRetry_only {parts : List Part} {s0 s : State} (h : Only parts s0 s) (hp : [.out, .drawn, .hold,
      .links, .fabric, .mem, .poison, .stores, .maps, .ctxs, .sems, .movers, .objects, .ring, .msix, .alert] ⊆ parts)
      (mover : Mover) :
    OnlyO parts s0 (execMoverCheckRetry mover s) := by
  unfold execMoverCheckRetry
  repeat' first
    | with_reducible assumption | with_reducible exact List.Subset.trans (by decide) hp
    | (with_reducible apply act_only) | with_reducible intro _ | (with_reducible apply Only.ite)
    | (with_reducible apply State.runSlots_only) | (dsimp only) | split | (with_reducible refine Only.leaf ?_ ?_)
    | (unfold Same; intro p hq; cases p <;> first | exact absurd (hp (by decide)) hq | dsimp only [Part.same])

theorem execMoverReset_only {parts : List Part} {s0 s : State} (h : Only parts s0 s) (hp : [.out, .drawn, .hold,
      .links, .fabric, .mem, .poison, .stores, .maps, .ctxs, .sems, .movers, .objects, .ring, .msix, .alert] ⊆ parts)
      (mover : Mover) :
    OnlyO parts s0 (execMoverReset mover s) := by
  unfold execMoverReset
  repeat' first
    | with_reducible assumption | with_reducible exact List.Subset.trans (by decide) hp
    | (with_reducible apply act_only) | with_reducible intro _ | (with_reducible apply State.log_only)
    | (with_reducible apply State.moverReset_only) | (dsimp only) | split | (with_reducible refine Only.leaf ?_ ?_)
    | (unfold Same; intro p hq; cases p <;> first | exact absurd (hp (by decide)) hq | dsimp only [Part.same])

theorem State.queueMov_only {parts : List Part} {s0 s : State} (h : Only parts s0 s) (hp : [.ctxs, .movers] ⊆ parts)
      (c x : Nat) (out : Bool) (i : MovItem) :
    Only parts s0 (State.queueMov s c x out i) := by
  unfold State.queueMov
  repeat' first
    | with_reducible assumption | with_reducible exact List.Subset.trans (by decide) hp | with_reducible intro _
    | (with_reducible apply Only.ite) | (with_reducible apply State.mapCtx_only)
    | (with_reducible apply State.setMover_only) | (dsimp only) | split | (with_reducible refine Only.leaf ?_ ?_)
    | (unfold Same; intro p hq; cases p <;> first | exact absurd (hp (by decide)) hq | dsimp only [Part.same])

theorem execMovX_only {parts : List Part} {s0 s : State} (h : Only parts s0 s) (hp : [.out, .hold, .links, .cores,
      .ctxs, .movers, .objects, .ring, .msix, .alert] ⊆ parts) (core : Core) (ctx : Ctx) :
    OnlyO parts s0 (execMovX core ctx s) := by
  unfold execMovX
  repeat' first
    | with_reducible assumption | with_reducible exact List.Subset.trans (by decide) hp
    | (with_reducible apply act_only) | with_reducible intro _ | (with_reducible apply Only.ite)
    | (with_reducible apply State.mapCore_only) | (with_reducible apply State.setCtx_only)
    | (with_reducible apply State.retire_only) | (with_reducible apply State.enterQueue_only)
    | (with_reducible apply State.issue_only) | (with_reducible apply State.queueMov_only) | (dsimp only) | split
    | (with_reducible refine Only.leaf ?_ ?_)
    | (unfold Same; intro p hq; cases p <;> first | exact absurd (hp (by decide)) hq | dsimp only [Part.same])

theorem execQueueAdmit_only {parts : List Part} {s0 s : State} (h : Only parts s0 s) (hp : [.cores, .ctxs, .movers,
      .objects] ⊆ parts) (core : Core) (ctx : Ctx) :
    OnlyO parts s0 (execQueueAdmit core ctx s) := by
  unfold execQueueAdmit
  repeat' first
    | with_reducible assumption | with_reducible exact List.Subset.trans (by decide) hp
    | (with_reducible apply act_only) | with_reducible intro _ | (with_reducible apply Only.ite)
    | (with_reducible apply State.enterQueue_only) | (with_reducible apply State.queuePass_only)
    | (with_reducible apply State.joinGathered_only) | (with_reducible apply State.queueVec_only)
    | (with_reducible apply State.queueMov_only) | (dsimp only) | split | (with_reducible refine Only.leaf ?_ ?_)
    | (unfold Same; intro p hq; cases p <;> first | exact absurd (hp (by decide)) hq | dsimp only [Part.same])

theorem State.streamFail_only {parts : List Part} {s0 s : State} (h : Only parts s0 s) (hp : [.out, .hold, .links,
      .ctxs, .objects, .ring, .msix, .alert] ⊆ parts) (c x : Nat) :
    Only parts s0 (State.streamFail s c x) := by
  unfold State.streamFail
  repeat' first
    | with_reducible assumption | with_reducible exact List.Subset.trans (by decide) hp | with_reducible intro _
    | (with_reducible apply State.ctxFault_only) | (dsimp only) | split | (with_reducible refine Only.leaf ?_ ?_)
    | (unfold Same; intro p hq; cases p <;> first | exact absurd (hp (by decide)) hq | dsimp only [Part.same])

theorem execStreamRefill_only {parts : List Part} {s0 s : State} (h : Only parts s0 s) (hp : [.out, .hold, .links,
      .cores, .ctxs, .objects, .ring, .msix, .alert] ⊆ parts) (core : Core) (ctx : Ctx) :
    OnlyO parts s0 (execStreamRefill core ctx s) := by
  unfold execStreamRefill
  repeat' first
    | with_reducible assumption | with_reducible exact List.Subset.trans (by decide) hp
    | (with_reducible apply act_only) | with_reducible intro _ | (with_reducible apply Only.ite)
    | (with_reducible apply State.setCtx_only) | (with_reducible apply State.each_only)
    | (with_reducible apply State.tcUse_only) | (with_reducible apply State.streamFail_only) | (dsimp only) | split
    | (with_reducible refine Only.leaf ?_ ?_)
    | (unfold Same; intro p hq; cases p <;> first | exact absurd (hp (by decide)) hq | dsimp only [Part.same])

theorem execTableWalkComplete_only {parts : List Part} {s0 s : State} (h : Only parts s0 s) (hp : [.out, .drawn,
      .hold, .links, .fabric, .mem, .poison, .stores, .maps, .cores, .ctxs, .sems, .movers, .objects, .ring, .msix,
      .alert] ⊆ parts) (core : Core) (user : WalkUser) (va : BitVec 48) (_write : Bool) :
    OnlyO parts s0 (execTableWalkComplete core user va _write s) := by
  unfold execTableWalkComplete
  repeat' first
    | with_reducible assumption | with_reducible exact List.Subset.trans (by decide) hp
    | (with_reducible apply act_only) | with_reducible intro _ | (with_reducible apply Only.ite)
    | (with_reducible apply State.count64_only) | (with_reducible apply State.tcUse_only)
    | (with_reducible apply State.moverFault_only) | (with_reducible apply State.resolve_only)
    | (with_reducible apply State.streamFail_only) | (dsimp only) | split | (with_reducible refine Only.leaf ?_ ?_)
    | (unfold Same; intro p hq; cases p <;> first | exact absurd (hp (by decide)) hq | dsimp only [Part.same])

theorem execTranslationInvalidate_only {parts : List Part} {s0 s : State} (h : Only parts s0 s) (hp : [.invals] ⊆
      parts) (page : Option (BitVec 48)) :
    OnlyO parts s0 (execTranslationInvalidate page s) := by
  unfold execTranslationInvalidate
  repeat' first
    | with_reducible assumption | with_reducible exact List.Subset.trans (by decide) hp
    | (with_reducible apply act_only) | with_reducible intro _ | (dsimp only) | split
    | (with_reducible refine Only.leaf ?_ ?_)
    | (unfold Same; intro p hq; cases p <;> first | exact absurd (hp (by decide)) hq | dsimp only [Part.same])

theorem execInvalidateComplete_only {parts : List Part} {s0 s : State} (h : Only parts s0 s) (hp : [.cores, .invals,
      .train] ⊆ parts)  :
    OnlyO parts s0 (execInvalidateComplete s) := by
  unfold execInvalidateComplete
  repeat' first
    | with_reducible assumption | with_reducible exact List.Subset.trans (by decide) hp
    | (with_reducible apply act_only) | with_reducible intro _ | (dsimp only) | split
    | (with_reducible refine Only.leaf ?_ ?_)
    | (unfold Same; intro p hq; cases p <;> first | exact absurd (hp (by decide)) hq | dsimp only [Part.same])

theorem execRegionChangeEffective_only {parts : List Part} {s0 s : State} (h : Only parts s0 s) (hp : [.hall, .time,
      .regions, .objects, .ring] ⊆ parts) (n : Fin 256) (entry : RegionChange) :
    OnlyO parts s0 (execRegionChangeEffective n entry s) := by
  unfold execRegionChangeEffective
  repeat' first
    | with_reducible assumption | with_reducible exact List.Subset.trans (by decide) hp
    | (with_reducible apply act_only) | with_reducible intro _ | (with_reducible apply Only.ite)
    | (with_reducible apply State.reach_only) | (with_reducible apply State.count_only)
    | (with_reducible apply State.log_only) | (dsimp only) | split | (with_reducible refine Only.leaf ?_ ?_)
    | (unfold Same; intro p hq; cases p <;> first | exact absurd (hp (by decide)) hq | dsimp only [Part.same])

end Sys2Proof.Machine
end

