-- ==== Sys2Proof/Laws/OnlyWatch.lean ====
section
/-!
SUPPORT. What the operations of Machine/Watch.lean can change (Laws/Only.lean).
-/

namespace Sys2Proof.Machine

theorem State.setWatch_only {parts : List Part} {s0 s : State} (h : Only parts s0 s) (hp : [.watch] ⊆ parts) (f :
      Watch → Watch) :
    Only parts s0 (State.setWatch s f) := by
  unfold State.setWatch
  repeat' first
    | with_reducible assumption | with_reducible exact List.Subset.trans (by decide) hp | with_reducible intro _
    | (dsimp only) | split | (with_reducible refine Only.leaf ?_ ?_)
    | (unfold Same; intro p hq; cases p <;> first | exact absurd (hp (by decide)) hq | dsimp only [Part.same])

theorem State.tallyPut_only {parts : List Part} {s0 s : State} (h : Only parts s0 s) (hp : [.mem, .poison, .watch] ⊆
      parts) (tag : Nat) (r : TallyRec) :
    Only parts s0 (State.tallyPut s tag r) := by
  unfold State.tallyPut
  repeat' first
    | with_reducible assumption | with_reducible exact List.Subset.trans (by decide) hp | with_reducible intro _
    | (with_reducible apply State.write_only) | (with_reducible apply State.setWatch_only) | (dsimp only) | split
    | (with_reducible refine Only.leaf ?_ ?_)
    | (unfold Same; intro p hq; cases p <;> first | exact absurd (hp (by decide)) hq | dsimp only [Part.same])

theorem State.tallyLoad_only {parts : List Part} {s0 s : State} (h : Only parts s0 s) (hp : [.mem, .poison, .watch,
      .objects, .ring] ⊆ parts) (tag : Nat) :
    Only parts s0 (State.tallyLoad s tag).2 := by
  unfold State.tallyLoad
  repeat' first
    | with_reducible assumption | with_reducible exact List.Subset.trans (by decide) hp | with_reducible intro _
    | (with_reducible apply State.on_only) | (with_reducible apply State.count64_only)
    | (with_reducible apply State.readPoison_only) | (with_reducible apply State.tallyPut_only) | (dsimp only)
    | split | (with_reducible refine Only.leaf ?_ ?_)
    | (unfold Same; intro p hq; cases p <;> first | exact absurd (hp (by decide)) hq | dsimp only [Part.same])

theorem State.applyDelta_only {parts : List Part} {s0 s : State} (h : Only parts s0 s) (hp : [.mem, .poison, .watch,
      .objects, .ring] ⊆ parts) (d : Delta) :
    Only parts s0 (State.applyDelta s d) := by
  unfold State.applyDelta
  repeat' first
    | with_reducible assumption | with_reducible exact List.Subset.trans (by decide) hp | with_reducible intro _
    | (with_reducible apply Only.ite) | (with_reducible apply State.on_only)
    | (with_reducible apply State.count_only) | (with_reducible apply State.count64_only)
    | (with_reducible apply State.setWatch_only) | (with_reducible apply State.tallyPut_only)
    | (with_reducible apply State.tallyLoad_only) | (with_reducible refine Only.snd ?_ (by assumption))
    | (dsimp only) | split | (with_reducible refine Only.leaf ?_ ?_)
    | (unfold Same; intro p hq; cases p <;> first | exact absurd (hp (by decide)) hq | dsimp only [Part.same])

theorem execTallyDelta_only {parts : List Part} {s0 s : State} (h : Only parts s0 s) (hp : [.mem, .poison, .ctxs,
      .deltas, .watch, .objects, .ring] ⊆ parts)  :
    OnlyO parts s0 (execTallyDelta s) := by
  unfold execTallyDelta
  repeat' first
    | with_reducible assumption | with_reducible exact List.Subset.trans (by decide) hp
    | (with_reducible apply act_only) | with_reducible intro _ | (with_reducible apply State.each_only)
    | (with_reducible apply State.applyDelta_only) | (dsimp only) | split | (with_reducible refine Only.leaf ?_ ?_)
    | (unfold Same; intro p hq; cases p <;> first | exact absurd (hp (by decide)) hq | dsimp only [Part.same])

theorem execTallyReadServe_only {parts : List Part} {s0 s : State} (h : Only parts s0 s) (hp : [.mem, .poison,
      .stores, .ctxs, .watch, .objects, .ring] ⊆ parts) (core : Core) (ctx : Ctx) :
    OnlyO parts s0 (execTallyReadServe core ctx s) := by
  unfold execTallyReadServe
  repeat' first
    | with_reducible assumption | with_reducible exact List.Subset.trans (by decide) hp
    | (with_reducible apply act_only) | with_reducible intro _ | (with_reducible apply State.storeWrite_only)
    | (with_reducible apply State.retire_only) | (with_reducible apply State.tallyLoad_only)
    | (with_reducible refine Only.snd ?_ (by assumption)) | (dsimp only) | split
    | (with_reducible refine Only.leaf ?_ ?_)
    | (unfold Same; intro p hq; cases p <;> first | exact absurd (hp (by decide)) hq | dsimp only [Part.same])

theorem State.clearTally_only {parts : List Part} {s0 s : State} (h : Only parts s0 s) (hp : [.poison, .watch] ⊆
      parts)  :
    Only parts s0 (State.clearTally s) := by
  unfold State.clearTally
  repeat' first
    | with_reducible assumption | with_reducible exact List.Subset.trans (by decide) hp | with_reducible intro _
    | (with_reducible apply State.setWatch_only) | (dsimp only) | split | (with_reducible refine Only.leaf ?_ ?_)
    | (unfold Same; intro p hq; cases p <;> first | exact absurd (hp (by decide)) hq | dsimp only [Part.same])

theorem State.closeEpoch_only {parts : List Part} {s0 s : State} (h : Only parts s0 s) (hp : [.watch, .objects,
      .dict] ⊆ parts)  :
    Only parts s0 (State.closeEpoch s) := by
  unfold State.closeEpoch
  repeat' first
    | with_reducible assumption | with_reducible exact List.Subset.trans (by decide) hp | with_reducible intro _
    | (with_reducible apply State.setObj_only) | (with_reducible apply State.setRec_only)
    | (with_reducible apply State.each_only) | (with_reducible apply State.setWatch_only) | (dsimp only) | split
    | (with_reducible refine Only.leaf ?_ ?_)
    | (unfold Same; intro p hq; cases p <;> first | exact absurd (hp (by decide)) hq | dsimp only [Part.same])

theorem State.writeScale_only {parts : List Part} {s0 s : State} (h : Only parts s0 s) (hp : [.stores] ⊆ parts) (c :
      Nat) :
    Only parts s0 (State.writeScale s c) := by
  unfold State.writeScale
  repeat' first
    | with_reducible assumption | with_reducible exact List.Subset.trans (by decide) hp | with_reducible intro _
    | (with_reducible apply Only.ite) | (with_reducible apply State.storeWrite_only) | (dsimp only) | split
    | (with_reducible refine Only.leaf ?_ ?_)
    | (unfold Same; intro p hq; cases p <;> first | exact absurd (hp (by decide)) hq | dsimp only [Part.same])

theorem State.sendScale_only {parts : List Part} {s0 s : State} (h : Only parts s0 s) (hp : [.stores, .cores] ⊆
      parts)  :
    Only parts s0 (State.sendScale s) := by
  unfold State.sendScale
  repeat' first
    | with_reducible assumption | with_reducible exact List.Subset.trans (by decide) hp | with_reducible intro _
    | (with_reducible apply Only.ite) | (with_reducible apply State.mapCore_only)
    | (with_reducible apply State.each_only) | (with_reducible apply State.writeScale_only) | (dsimp only) | split
    | (with_reducible refine Only.leaf ?_ ?_)
    | (unfold Same; intro p hq; cases p <;> first | exact absurd (hp (by decide)) hq | dsimp only [Part.same])

theorem State.lossScale_only {parts : List Part} {s0 s : State} (h : Only parts s0 s) (hp : [.out, .stores, .cores,
      .objects, .ring, .msix] ⊆ parts) (kind : Decision) :
    Only parts s0 (State.lossScale s kind) := by
  unfold State.lossScale
  repeat' first
    | with_reducible assumption | with_reducible exact List.Subset.trans (by decide) hp | with_reducible intro _
    | (with_reducible apply Only.ite) | (with_reducible apply State.on_only)
    | (with_reducible apply State.setObj_only) | (with_reducible apply State.log_only)
    | (with_reducible apply State.interrupt_only) | (with_reducible apply State.sendScale_only) | (dsimp only)
    | split | (with_reducible refine Only.leaf ?_ ?_)
    | (unfold Same; intro p hq; cases p <;> first | exact absurd (hp (by decide)) hq | dsimp only [Part.same])

end Sys2Proof.Machine
end

