-- ==== Sys2Proof/Laws/OnlyEngines.lean ====
section
/-!
SUPPORT. What the operations of Machine/Engines.lean can change (Laws/Only.lean).
-/

namespace Sys2Proof.Machine

theorem State.mpWrite_only {parts : List Part} {s0 s : State} (h : Only parts s0 s) (hp : [.mem, .poison] ⊆ parts)
      (va : Nat) (bs : List Byte) :
    Only parts s0 (State.mpWrite s va bs) := by
  unfold State.mpWrite
  repeat' first
    | with_reducible assumption | with_reducible exact List.Subset.trans (by decide) hp | with_reducible intro _
    | (with_reducible apply State.writeBytes_only) | (dsimp only) | split | (with_reducible refine Only.leaf ?_ ?_)
    | (unfold Same; intro p hq; cases p <;> first | exact absurd (hp (by decide)) hq | dsimp only [Part.same])

theorem State.setTrain_only {parts : List Part} {s0 s : State} (h : Only parts s0 s) (hp : [.train] ⊆ parts) (f :
      Train → Train) :
    Only parts s0 (State.setTrain s f) := by
  unfold State.setTrain
  repeat' first
    | with_reducible assumption | with_reducible exact List.Subset.trans (by decide) hp | with_reducible intro _
    | (dsimp only) | split | (with_reducible refine Only.leaf ?_ ?_)
    | (unfold Same; intro p hq; cases p <;> first | exact absurd (hp (by decide)) hq | dsimp only [Part.same])

theorem State.setEngineSt_only {parts : List Part} {s0 s : State} (h : Only parts s0 s) (hp : [.train] ⊆ parts) (n :
      Nat) (e : EngineSt) :
    Only parts s0 (State.setEngineSt s n e) := by
  unfold State.setEngineSt
  repeat' first
    | with_reducible assumption | with_reducible exact List.Subset.trans (by decide) hp | with_reducible intro _
    | (with_reducible apply State.setTrain_only) | (dsimp only) | split | (with_reducible refine Only.leaf ?_ ?_)
    | (unfold Same; intro p hq; cases p <;> first | exact absurd (hp (by decide)) hq | dsimp only [Part.same])

theorem State.enginePages_only {parts : List Part} {s0 s : State} (h : Only parts s0 s) (hp : [.train] ⊆ parts) (n :
      Nat) (us : List Nat) :
    Only parts s0 (State.enginePages s n us).1 := by
  unfold State.enginePages
  repeat' first
    | with_reducible assumption | with_reducible exact List.Subset.trans (by decide) hp | with_reducible intro _
    | (with_reducible apply Only.ite) | (with_reducible apply Only.ite1)
    | (with_reducible apply State.setEngineSt_only) | (with_reducible apply Only.foldl)
    | (with_reducible apply Only.foldl1) | (with_reducible apply Only.foldl2) | (dsimp only) | split
    | (with_reducible refine Only.leaf ?_ ?_)
    | (unfold Same; intro p hq; cases p <;> first | exact absurd (hp (by decide)) hq | dsimp only [Part.same])

theorem Eff.andThen_only {parts : List Part} {s0 : State} {e : Eff} (h : Only parts s0 e.1) (f : State → Eff)
    (hf : ∀ u, Only parts s0 u → Only parts s0 (f u).1) : Only parts s0 (Eff.andThen e f).1 := by
  unfold Eff.andThen
  split
  · exact hf _ h
  · exact h

theorem State.ok_only {parts : List Part} {s0 s : State} (h : Only parts s0 s)  :
    Only parts s0 (State.ok s).1 := by
  unfold State.ok
  repeat' first
    | with_reducible assumption | with_reducible intro _ | (dsimp only) | split

theorem State.eWrite_only {parts : List Part} {s0 s : State} (h : Only parts s0 s) (hp : [.mem, .poison] ⊆ parts) (ps
      : List TcEntry) (va : Nat) (bs : List Byte) :
    Only parts s0 (State.eWrite s ps va bs).1 := by
  unfold State.eWrite
  repeat' first
    | with_reducible assumption | with_reducible exact List.Subset.trans (by decide) hp | with_reducible intro _
    | (with_reducible apply State.writeBytes_only) | (with_reducible apply State.ok_only)
    | (with_reducible refine Only.fst ?_ (by assumption)) | (dsimp only) | split
    | (with_reducible refine Only.leaf ?_ ?_)
    | (unfold Same; intro p hq; cases p <;> first | exact absurd (hp (by decide)) hq | dsimp only [Part.same])

theorem State.eWrites_only {parts : List Part} {s0 s : State} (h : Only parts s0 s) (hp : [.mem, .poison] ⊆ parts)
      (ps : List TcEntry) (ws : List (Nat × List Byte)) :
    Only parts s0 (State.eWrites s ps ws).1 := by
  unfold State.eWrites
  repeat' first
    | with_reducible assumption | with_reducible exact List.Subset.trans (by decide) hp | with_reducible intro _
    | (with_reducible apply Eff.andThen_only) | (with_reducible apply State.ok_only)
    | (with_reducible apply State.eWrite_only) | (with_reducible apply Only.foldl)
    | (with_reducible apply Only.foldl1) | (with_reducible apply Only.foldl2)
    | (with_reducible refine Only.fst ?_ (by assumption)) | (dsimp only) | split
    | (with_reducible refine Only.leaf ?_ ?_)
    | (unfold Same; intro p hq; cases p <;> first | exact absurd (hp (by decide)) hq | dsimp only [Part.same])

theorem State.tallyBlocks_only {parts : List Part} {s0 s : State} (h : Only parts s0 s) (hp : [.deltas] ⊆ parts) (tag
      fmt : Nat) (os : List (List Outcome)) :
    Only parts s0 (State.tallyBlocks s tag fmt os) := by
  unfold State.tallyBlocks
  repeat' first
    | with_reducible assumption | with_reducible exact List.Subset.trans (by decide) hp | with_reducible intro _
    | (with_reducible apply State.sendDeltas_only) | (dsimp only) | split | (with_reducible refine Only.leaf ?_ ?_)
    | (unfold Same; intro p hq; cases p <;> first | exact absurd (hp (by decide)) hq | dsimp only [Part.same])

theorem State.setRepair_only {parts : List Part} {s0 s : State} (h : Only parts s0 s) (hp : [.train] ⊆ parts) (r :
      Option Repair) :
    Only parts s0 (State.setRepair s r) := by
  unfold State.setRepair
  repeat' first
    | with_reducible assumption | with_reducible exact List.Subset.trans (by decide) hp | with_reducible intro _
    | (with_reducible apply State.setTrain_only) | (dsimp only) | split | (with_reducible refine Only.leaf ?_ ?_)
    | (unfold Same; intro p hq; cases p <;> first | exact absurd (hp (by decide)) hq | dsimp only [Part.same])

theorem State.askRepair_only {parts : List Part} {s0 s : State} (h : Only parts s0 s) (hp : [.fabric, .movers,
      .train] ⊆ parts)  :
    Only parts s0 (State.askRepair s) := by
  unfold State.askRepair
  repeat' first
    | with_reducible assumption | with_reducible exact List.Subset.trans (by decide) hp | with_reducible intro _
    | (with_reducible apply Only.ite) | (with_reducible apply State.queueRequests_only)
    | (with_reducible apply State.setRepair_only) | (dsimp only) | split | (with_reducible refine Only.leaf ?_ ?_)
    | (unfold Same; intro p hq; cases p <;> first | exact absurd (hp (by decide)) hq | dsimp only [Part.same])

theorem State.repairImpossible_only {parts : List Part} {s0 s : State} (h : Only parts s0 s) (hp : [.out, .hold,
      .links, .ctxs, .objects, .ring, .msix, .alert] ⊆ parts)  :
    Only parts s0 (State.repairImpossible s) := by
  unfold State.repairImpossible
  repeat' first
    | with_reducible assumption | with_reducible exact List.Subset.trans (by decide) hp | with_reducible intro _
    | (with_reducible apply State.log_only) | (with_reducible apply State.faultCount_only)
    | (with_reducible apply State.jobFail_only) | (dsimp only) | split | (with_reducible refine Only.leaf ?_ ?_)
    | (unfold Same; intro p hq; cases p <;> first | exact absurd (hp (by decide)) hq | dsimp only [Part.same])

theorem State.queueRepair_only {parts : List Part} {s0 s : State} (h : Only parts s0 s) (hp : [.out, .hold, .links,
      .fabric, .ctxs, .movers, .train, .objects, .ring, .msix, .alert] ⊆ parts) (b : Nat) :
    Only parts s0 (State.queueRepair s b) := by
  unfold State.queueRepair
  repeat' first
    | with_reducible assumption | with_reducible exact List.Subset.trans (by decide) hp | with_reducible intro _
    | (with_reducible apply Only.ite) | (with_reducible apply State.schedFault_only)
    | (with_reducible apply State.setRepair_only) | (with_reducible apply State.askRepair_only)
    | (with_reducible apply State.repairImpossible_only) | (dsimp only) | split
    | (with_reducible refine Only.leaf ?_ ?_)
    | (unfold Same; intro p hq; cases p <;> first | exact absurd (hp (by decide)) hq | dsimp only [Part.same])

theorem State.tagFault_only {parts : List Part} {s0 s : State} (h : Only parts s0 s) (hp : [.out, .hold, .links,
      .fabric, .ctxs, .movers, .train, .objects, .ring, .msix, .alert] ⊆ parts) (k : Blk) :
    Only parts s0 (State.tagFault s k) := by
  unfold State.tagFault
  repeat' first
    | with_reducible assumption | with_reducible exact List.Subset.trans (by decide) hp | with_reducible intro _
    | (with_reducible apply State.count_only) | (with_reducible apply State.log_only)
    | (with_reducible apply State.queueRepair_only) | (dsimp only) | split
    | (with_reducible refine Only.leaf ?_ ?_)
    | (unfold Same; intro p hq; cases p <;> first | exact absurd (hp (by decide)) hq | dsimp only [Part.same])

theorem State.engineReset_only {parts : List Part} {s0 s : State} (h : Only parts s0 s) (hp : [.out, .hold, .links,
      .fabric, .ctxs, .sems, .movers, .train, .objects, .ring, .faults, .msix, .alert] ⊆ parts) (n cause : Nat) :
    Only parts s0 (State.engineReset s n cause) := by
  unfold State.engineReset
  repeat' first
    | with_reducible assumption | with_reducible exact List.Subset.trans (by decide) hp | with_reducible intro _
    | (with_reducible apply State.log_only) | (with_reducible apply State.countedReset_only)
    | (with_reducible apply State.releaseHolds_only) | (with_reducible apply State.setEngineSt_only) | (dsimp only)
    | split | (with_reducible refine Only.leaf ?_ ?_)
    | (unfold Same; intro p hq; cases p <;> first | exact absurd (hp (by decide)) hq | dsimp only [Part.same])

theorem Eff.settle_only {parts : List Part} {s0 : State} {e : Eff} (h : Only parts s0 e.1)
    (hp : [.out, .hold, .links, .fabric, .ctxs, .sems, .movers, .train, .objects, .ring, .faults, .msix, .alert] ⊆
      parts) (k : Blk) :
    Only parts s0 (Eff.settle e k).1 := by
  unfold Eff.settle
  split
  · exact State.tagFault_only h (List.Subset.trans (by decide) hp) _
  · exact State.engineReset_only h (List.Subset.trans (by decide) hp) _ _
  · exact h

theorem State.quantiseBlk_only {parts : List Part} {s0 s : State} (h : Only parts s0 s) (hp : [.out, .hold, .links,
      .fabric, .mem, .poison, .ctxs, .sems, .movers, .deltas, .train, .objects, .ring, .faults, .msix, .alert] ⊆
      parts) (k : Blk) :
    Only parts s0 (State.quantiseBlk s k).1 := by
  unfold State.quantiseBlk
  repeat' first
    | with_reducible assumption | with_reducible exact List.Subset.trans (by decide) hp | with_reducible intro _
    | (with_reducible apply Only.ite) | (with_reducible apply Only.ite1)
    | (with_reducible apply State.countFlushed_only) | (with_reducible apply State.enginePages_only)
    | (with_reducible apply Eff.andThen_only) | (with_reducible apply State.ok_only)
    | (with_reducible apply State.eWrites_only) | (with_reducible apply State.tallyBlocks_only)
    | (with_reducible apply Eff.settle_only) | (with_reducible refine Only.fst ?_ (by assumption)) | (dsimp only)
    | split | (with_reducible refine Only.leaf ?_ ?_)
    | (unfold Same; intro p hq; cases p <;> first | exact absurd (hp (by decide)) hq | dsimp only [Part.same])

theorem State.atStep_only {parts : List Part} {s0 s : State} (h : Only parts s0 s) (hp : [.hall, .time] ⊆ parts) (off
      : Nat) (f : State → State) (hf : ∀ u, Only parts s0 u → Only parts s0 (f u)) :
    Only parts s0 (State.atStep s off f) := by
  unfold State.atStep
  repeat' first
    | with_reducible assumption | with_reducible exact List.Subset.trans (by decide) hp | with_reducible intro _
    | (with_reducible apply Only.ite) | (with_reducible apply hf) | (with_reducible apply State.reach_only)
    | (dsimp only) | split | (with_reducible refine Only.leaf ?_ ?_)
    | (unfold Same; intro p hq; cases p <;> first | exact absurd (hp (by decide)) hq | dsimp only [Part.same])

theorem execGroupQuantise_only {parts : List Part} {s0 s : State} (h : Only parts s0 s) (hp : [.out, .hall, .time,
      .hold, .links, .fabric, .mem, .poison, .ctxs, .sems, .movers, .deltas, .train, .objects, .ring, .faults, .msix,
      .alert] ⊆ parts) (g : Fin 1024) :
    OnlyO parts s0 (execGroupQuantise g s) := by
  unfold execGroupQuantise
  repeat' first
    | with_reducible assumption | with_reducible exact List.Subset.trans (by decide) hp
    | (with_reducible apply act_only) | with_reducible intro _ | (with_reducible apply Only.ite)
    | (with_reducible apply State.on_only) | (with_reducible apply State.count_only)
    | (with_reducible apply State.log_only) | (with_reducible apply State.schedFault_only)
    | (with_reducible apply State.setTrain_only) | (with_reducible apply Eff.andThen_only)
    | (with_reducible apply State.ok_only) | (with_reducible apply State.quantiseBlk_only)
    | (with_reducible apply State.atStep_only) | (with_reducible apply Only.foldl)
    | (with_reducible apply Only.foldl1) | (with_reducible apply Only.foldl2)
    | (with_reducible refine Only.fst ?_ (by assumption)) | (dsimp only) | split
    | (with_reducible refine Only.leaf ?_ ?_)
    | (unfold Same; intro p hq; cases p <;> first | exact absurd (hp (by decide)) hq | dsimp only [Part.same])

theorem State.engineSum_only {parts : List Part} {s0 s : State} (h : Only parts s0 s) (hp : [.out, .hold, .links,
      .fabric, .ctxs, .sems, .movers, .train, .objects, .ring, .faults, .msix, .alert] ⊆ parts) (n : Nat) :
    Only parts s0 (State.engineSum s n).1 := by
  unfold State.engineSum
  repeat' first
    | with_reducible assumption | with_reducible exact List.Subset.trans (by decide) hp | with_reducible intro _
    | (with_reducible apply Only.ite) | (with_reducible apply Only.ite1)
    | (with_reducible apply State.countFlushed_only) | (with_reducible apply State.enginePages_only)
    | (with_reducible apply Eff.settle_only) | (with_reducible apply Only.foldl)
    | (with_reducible apply Only.foldl1) | (with_reducible apply Only.foldl2)
    | (with_reducible refine Only.fst ?_ (by assumption)) | (dsimp only) | split
    | (with_reducible refine Only.leaf ?_ ?_)
    | (unfold Same; intro p hq; cases p <;> first | exact absurd (hp (by decide)) hq | dsimp only [Part.same])

theorem execNormSum_only {parts : List Part} {s0 s : State} (h : Only parts s0 s) (hp : [.out, .hall, .time, .hold,
      .links, .fabric, .ctxs, .sems, .movers, .train, .objects, .ring, .faults, .msix, .alert] ⊆ parts)  :
    OnlyO parts s0 (execNormSum s) := by
  unfold execNormSum
  repeat' first
    | with_reducible assumption | with_reducible exact List.Subset.trans (by decide) hp
    | (with_reducible apply act_only) | with_reducible intro _ | (with_reducible apply Only.ite)
    | (with_reducible apply State.setTrain_only) | (with_reducible apply State.atStep_only)
    | (with_reducible apply State.engineSum_only) | (with_reducible apply Only.foldl)
    | (with_reducible apply Only.foldl1) | (with_reducible apply Only.foldl2)
    | (with_reducible refine Only.fst ?_ (by assumption)) | (dsimp only) | split
    | (with_reducible refine Only.leaf ?_ ?_)
    | (unfold Same; intro p hq; cases p <;> first | exact absurd (hp (by decide)) hq | dsimp only [Part.same])

theorem State.setMailbox_only {parts : List Part} {s0 s : State} (h : Only parts s0 s) (hp : [.mailboxes] ⊆ parts) (m
      : Nat) (bs : List Byte) :
    Only parts s0 (State.setMailbox s m bs) := by
  unfold State.setMailbox
  repeat' first
    | with_reducible assumption | with_reducible exact List.Subset.trans (by decide) hp | with_reducible intro _
    | (dsimp only) | split | (with_reducible refine Only.leaf ?_ ?_)
    | (unfold Same; intro p hq; cases p <;> first | exact absurd (hp (by decide)) hq | dsimp only [Part.same])

theorem State.countSlots_only {parts : List Part} {s0 s : State} (h : Only parts s0 s) (hp : [.objects] ⊆ parts) (ws
      : List (Nat × List Byte)) :
    Only parts s0 (State.countSlots s ws) := by
  unfold State.countSlots
  repeat' first
    | with_reducible assumption | with_reducible exact List.Subset.trans (by decide) hp | with_reducible intro _
    | (with_reducible apply State.on_only) | (with_reducible apply State.count64_only) | (dsimp only) | split
    | (with_reducible refine Only.leaf ?_ ?_)
    | (unfold Same; intro p hq; cases p <;> first | exact absurd (hp (by decide)) hq | dsimp only [Part.same])

theorem State.moveShardFp_only {parts : List Part} {s0 s : State} (h : Only parts s0 s) (hp : [.objects] ⊆ parts)
      (old new : Nat) :
    Only parts s0 (State.moveShardFp s old new) := by
  unfold State.moveShardFp
  repeat' first
    | with_reducible assumption | with_reducible exact List.Subset.trans (by decide) hp | with_reducible intro _
    | (with_reducible apply State.setObj_only) | (dsimp only) | split | (with_reducible refine Only.leaf ?_ ?_)
    | (unfold Same; intro p hq; cases p <;> first | exact absurd (hp (by decide)) hq | dsimp only [Part.same])

end Sys2Proof.Machine
end

