-- ==== Sys2Proof/Laws/OnlyRopeSweep.lean ====
section
/-!
SUPPORT. What the operations of Machine/RopeSweep.lean can change (Laws/Only.lean).
-/

namespace Sys2Proof.Machine

theorem State.setRope_only {parts : List Part} {s0 s : State} (h : Only parts s0 s) (hp : [.rope] ⊆ parts) (f : Rope
      → Rope) :
    Only parts s0 (State.setRope s f) := by
  unfold State.setRope
  repeat' first
    | with_reducible assumption | with_reducible exact List.Subset.trans (by decide) hp | with_reducible intro _
    | (dsimp only) | split | (with_reducible refine Only.leaf ?_ ?_)
    | (unfold Same; intro p hq; cases p <;> first | exact absurd (hp (by decide)) hq | dsimp only [Part.same])

theorem State.setRopeRec_only {parts : List Part} {s0 s : State} (h : Only parts s0 s) (hp : [.mem, .poison,
      .objects] ⊆ parts) (w : Nat) :
    Only parts s0 (State.setRopeRec s w) := by
  unfold State.setRopeRec
  repeat' first
    | with_reducible assumption | with_reducible exact List.Subset.trans (by decide) hp | with_reducible intro _
    | (with_reducible apply State.setObj_only) | (with_reducible apply State.mpWrite_only) | (dsimp only) | split
    | (with_reducible refine Only.leaf ?_ ?_)
    | (unfold Same; intro p hq; cases p <;> first | exact absurd (hp (by decide)) hq | dsimp only [Part.same])

theorem State.setStream_only {parts : List Part} {s0 s : State} (h : Only parts s0 s) (hp : [.poison, .rope] ⊆ parts)
      (round n : Nat) (bs : List Byte) :
    Only parts s0 (State.setStream s round n bs) := by
  unfold State.setStream
  repeat' first
    | with_reducible assumption | with_reducible exact List.Subset.trans (by decide) hp | with_reducible intro _
    | (with_reducible apply State.setRope_only) | (dsimp only) | split | (with_reducible refine Only.leaf ?_ ?_)
    | (unfold Same; intro p hq; cases p <;> first | exact absurd (hp (by decide)) hq | dsimp only [Part.same])

theorem State.outerBlk_only {parts : List Part} {s0 s : State} (h : Only parts s0 s) (hp : [.mem, .poison, .objects]
      ⊆ parts) (ps : List TcEntry) (sw : Sweep) (k : Blk) :
    Only parts s0 (State.outerBlk s ps sw k).1 := by
  unfold State.outerBlk
  repeat' first
    | with_reducible assumption | with_reducible exact List.Subset.trans (by decide) hp | with_reducible intro _
    | (with_reducible apply Only.ite) | (with_reducible apply Only.ite1) | (with_reducible apply Eff.andThen_only)
    | (with_reducible apply State.ok_only) | (with_reducible apply State.eWrites_only)
    | (with_reducible apply State.countSlots_only) | (with_reducible refine Only.fst ?_ (by assumption))
    | (dsimp only) | split | (with_reducible refine Only.leaf ?_ ?_)
    | (unfold Same; intro p hq; cases p <;> first | exact absurd (hp (by decide)) hq | dsimp only [Part.same])

theorem State.roundEndBlk_only {parts : List Part} {s0 s : State} (h : Only parts s0 s) (hp : [.mem, .poison,
      .deltas, .rope, .objects, .ring] ⊆ parts) (ps : List TcEntry) (sw : Sweep) (k : Blk) :
    Only parts s0 (State.roundEndBlk s ps sw k).1.1 := by
  unfold State.roundEndBlk
  repeat' first
    | with_reducible assumption | with_reducible exact List.Subset.trans (by decide) hp | with_reducible intro _
    | (with_reducible apply Only.ite) | (with_reducible apply Only.ite11) | (with_reducible apply State.on_only)
    | (with_reducible apply State.count_only) | (with_reducible apply State.count64_only)
    | (with_reducible apply State.log_only) | (with_reducible apply Eff.andThen_only)
    | (with_reducible apply State.ok_only) | (with_reducible apply State.eWrites_only)
    | (with_reducible apply State.tallyBlocks_only) | (with_reducible apply State.setRope_only)
    | (with_reducible apply State.setStream_only) | (with_reducible apply Only.foldl)
    | (with_reducible apply Only.foldl1) | (with_reducible apply Only.foldl2)
    | (with_reducible refine Only.fst ?_ (by assumption)) | (dsimp only) | split
    | (with_reducible refine Only.leaf ?_ ?_)
    | (unfold Same; intro p hq; cases p <;> first | exact absurd (hp (by decide)) hq | dsimp only [Part.same])

theorem State.ropeBlk_only {parts : List Part} {s0 s : State} (h : Only parts s0 s) (hp : [.mem, .poison, .deltas,
      .rope, .objects, .ring] ⊆ parts) (ps : List TcEntry) (sw : Sweep) (i : Nat) (k : Blk) (skip : Bool) :
    Only parts s0 (State.ropeBlk s ps sw i k skip).1 := by
  unfold State.ropeBlk
  repeat' first
    | with_reducible assumption | with_reducible exact List.Subset.trans (by decide) hp | with_reducible intro _
    | (with_reducible apply Only.ite) | (with_reducible apply Only.ite1) | (with_reducible apply Eff.andThen_only)
    | (with_reducible apply State.ok_only) | (with_reducible apply State.eWrites_only)
    | (with_reducible apply State.roundEndBlk_only) | (with_reducible refine Only.fst ?_ (by assumption))
    | (dsimp only) | split | (with_reducible refine Only.leaf ?_ ?_)
    | (unfold Same; intro p hq; cases p <;> first | exact absurd (hp (by decide)) hq | dsimp only [Part.same])

theorem State.setPeer_only {parts : List Part} {s0 s : State} (h : Only parts s0 s) (hp : [.rope] ⊆ parts) (site :
      Nat) (p : RopePeer) :
    Only parts s0 (State.setPeer s site p) := by
  unfold State.setPeer
  repeat' first
    | with_reducible assumption | with_reducible exact List.Subset.trans (by decide) hp | with_reducible intro _
    | (with_reducible apply State.setRope_only) | (dsimp only) | split | (with_reducible refine Only.leaf ?_ ?_)
    | (unfold Same; intro p hq; cases p <;> first | exact absurd (hp (by decide)) hq | dsimp only [Part.same])

theorem State.setSess_only {parts : List Part} {s0 s : State} (h : Only parts s0 s) (hp : [.rope] ⊆ parts) (x : Nat)
      (v : RopeSess) :
    Only parts s0 (State.setSess s x v) := by
  unfold State.setSess
  repeat' first
    | with_reducible assumption | with_reducible exact List.Subset.trans (by decide) hp | with_reducible intro _
    | (with_reducible apply State.setRope_only) | (dsimp only) | split | (with_reducible refine Only.leaf ?_ ?_)
    | (unfold Same; intro p hq; cases p <;> first | exact absurd (hp (by decide)) hq | dsimp only [Part.same])

theorem State.mapSess_only {parts : List Part} {s0 s : State} (h : Only parts s0 s) (hp : [.rope] ⊆ parts) (x : Nat)
      (f : RopeSess → RopeSess) :
    Only parts s0 (State.mapSess s x f) := by
  unfold State.mapSess
  repeat' first
    | with_reducible assumption | with_reducible exact List.Subset.trans (by decide) hp | with_reducible intro _
    | (with_reducible apply State.setSess_only) | (dsimp only) | split | (with_reducible refine Only.leaf ?_ ?_)
    | (unfold Same; intro p hq; cases p <;> first | exact absurd (hp (by decide)) hq | dsimp only [Part.same])

theorem State.goSlack_only {parts : List Part} {s0 s : State} (h : Only parts s0 s) (hp : [.rope, .objects, .ring] ⊆
      parts) (x : Nat) :
    Only parts s0 (State.goSlack s x) := by
  unfold State.goSlack
  repeat' first
    | with_reducible assumption | with_reducible exact List.Subset.trans (by decide) hp | with_reducible intro _
    | (with_reducible apply Only.ite) | (with_reducible apply State.log_only)
    | (with_reducible apply State.setPeer_only) | (with_reducible apply State.setSess_only) | (dsimp only) | split
    | (with_reducible refine Only.leaf ?_ ?_)
    | (unfold Same; intro p hq; cases p <;> first | exact absurd (hp (by decide)) hq | dsimp only [Part.same])

theorem State.reuseArea_only {parts : List Part} {s0 s : State} (h : Only parts s0 s) (hp : [.rope, .objects, .ring]
      ⊆ parts) (round : Nat) :
    Only parts s0 (State.reuseArea s round) := by
  unfold State.reuseArea
  repeat' first
    | with_reducible assumption | with_reducible exact List.Subset.trans (by decide) hp | with_reducible intro _
    | (with_reducible apply Only.ite) | (with_reducible apply State.log_only)
    | (with_reducible apply State.each_only) | (with_reducible apply State.goSlack_only) | (dsimp only) | split
    | (with_reducible refine Only.leaf ?_ ?_)
    | (unfold Same; intro p hq; cases p <;> first | exact absurd (hp (by decide)) hq | dsimp only [Part.same])

end Sys2Proof.Machine
end

