-- ==== Sys2Proof/Laws/OnlyDxp.lean ====
section
/-!
SUPPORT. What the operations of Machine/Dxp.lean can change (Laws/Only.lean).
-/

namespace Sys2Proof.Machine

theorem State.setDict_only {parts : List Part} {s0 s : State} (h : Only parts s0 s) (hp : [.objects, .dict] ⊆ parts)
    (f : Dict → Dict) : Only parts s0 (State.setDict s f) :=
  Only.leaf h (by intro p hp'; cases p <;> first | rfl | exact absurd (hp (by decide)) hp')

/-- Where the objects stay. -/
theorem State.setDict_only' {parts : List Part} {s0 s : State} (h : Only parts s0 s) (hp : [.dict] ⊆ parts) (f : Dict
      → Dict)
    (hf : ∀ x, (f x).objs = x.objs) : Only parts s0 (State.setDict s f) :=
  Only.leaf h (by intro p hp'; cases p <;> first | rfl | exact hf _ | exact absurd (hp (by decide)) hp')

/-- Where only the objects change. -/
theorem State.setDict_only'' {parts : List Part} {s0 s : State} (h : Only parts s0 s) (hp : [.objects] ⊆ parts) (f :
      Dict → Dict)
    (hf : ∀ x, f x = { x with objs := (f x).objs }) : Only parts s0 (State.setDict s f) :=
  Only.leaf h (by intro p hp'; cases p <;> first | rfl | exact hf _ | exact absurd (hp (by decide)) hp')

theorem State.setHost_only {parts : List Part} {s0 s : State} (h : Only parts s0 s) (hp : [.msix, .host] ⊆ parts)
    (f : HostPort → HostPort) : Only parts s0 (State.setHost s f) :=
  Only.leaf h (by intro p hp'; cases p <;> first | rfl | exact absurd (hp (by decide)) hp')

/-- Where the msix stay. -/
theorem State.setHost_only' {parts : List Part} {s0 s : State} (h : Only parts s0 s) (hp : [.host] ⊆ parts) (f :
      HostPort → HostPort)
    (hf : ∀ x, (f x).pendingBits = x.pendingBits) : Only parts s0 (State.setHost s f) :=
  Only.leaf h (by intro p hp'; cases p <;> first | rfl | exact hf _ | exact absurd (hp (by decide)) hp')

/-- Where only the msix change. -/
theorem State.setHost_only'' {parts : List Part} {s0 s : State} (h : Only parts s0 s) (hp : [.msix] ⊆ parts) (f :
      HostPort → HostPort)
    (hf : ∀ x, f x = { x with pendingBits := (f x).pendingBits }) : Only parts s0 (State.setHost s f) :=
  Only.leaf h (by intro p hp'; cases p <;> first | rfl | exact hf _ | exact absurd (hp (by decide)) hp')

theorem State.sendMgmt_only {parts : List Part} {s0 s : State} (h : Only parts s0 s) (hp : [.out, .links, .fabric,
      .objects, .ring] ⊆ parts) (dst : Nat) (bs : List Byte) :
    Only parts s0 (State.sendMgmt s dst bs) := by
  unfold State.sendMgmt
  repeat' first
    | with_reducible assumption | with_reducible exact List.Subset.trans (by decide) hp | with_reducible intro _
    | (with_reducible apply State.inject_only) | (dsimp only) | split | (with_reducible refine Only.leaf ?_ ?_)
    | (unfold Same; intro p hq; cases p <;> first | exact absurd (hp (by decide)) hq | dsimp only [Part.same])

theorem State.sendDxp_only {parts : List Part} {s0 s : State} (h : Only parts s0 s) (hp : [.out, .links, .fabric,
      .rope, .objects, .ring, .msix, .host] ⊆ parts) (transport dest : Nat) (h : BitVec 256) (data : List Byte) :
    Only parts s0 (State.sendDxp s transport dest h data) := by
  unfold State.sendDxp
  repeat' first
    | with_reducible assumption | with_reducible exact List.Subset.trans (by decide) hp | with_reducible intro _
    | (with_reducible refine State.setHost_only' ?_ (List.Subset.trans (by decide) hp) _ (fun _ => rfl))
    | (with_reducible refine State.setHost_only'' ?_ (List.Subset.trans (by decide) hp) _ (fun _ => rfl))
    | (with_reducible apply State.emit_only) | (with_reducible apply State.interrupt_only)
    | (with_reducible apply State.mapSess_only) | (with_reducible apply State.setHost_only)
    | (with_reducible apply State.sendMgmt_only) | (dsimp only) | split | (with_reducible refine Only.leaf ?_ ?_)
    | (unfold Same; intro p hq; cases p <;> first | exact absurd (hp (by decide)) hq | dsimp only [Part.same])

theorem State.sendSession_only {parts : List Part} {s0 s : State} (h : Only parts s0 s) (hp : [.out, .links, .fabric,
      .rope, .objects, .ring, .msix, .host] ⊆ parts) (v : Session) (h : BitVec 256) (data : List Byte) :
    Only parts s0 (State.sendSession s v h data) := by
  unfold State.sendSession
  repeat' first
    | with_reducible assumption | with_reducible exact List.Subset.trans (by decide) hp | with_reducible intro _
    | (with_reducible apply Only.ite) | (with_reducible apply State.sendDxp_only) | (dsimp only) | split
    | (with_reducible refine Only.leaf ?_ ?_)
    | (unfold Same; intro p hq; cases p <;> first | exact absurd (hp (by decide)) hq | dsimp only [Part.same])

theorem State.setSubscription_only {parts : List Part} {s0 s : State} (h : Only parts s0 s) (hp : [.faults] ⊆ parts)
      (n : Nat) (x : Option Stream) :
    Only parts s0 (State.setSubscription s n x) := by
  unfold State.setSubscription
  repeat' first
    | with_reducible assumption | with_reducible exact List.Subset.trans (by decide) hp | with_reducible intro _
    | (dsimp only) | split | (with_reducible refine Only.leaf ?_ ?_)
    | (unfold Same; intro p hq; cases p <;> first | exact absurd (hp (by decide)) hq | dsimp only [Part.same])

theorem State.streamSend_only {parts : List Part} {s0 s : State} (h : Only parts s0 s) (hp : [.out, .links, .fabric,
      .rope, .objects, .ring, .faults, .msix, .host] ⊆ parts) (n : Nat) :
    Only parts s0 (State.streamSend s n) := by
  unfold State.streamSend
  repeat' first
    | with_reducible assumption | with_reducible exact List.Subset.trans (by decide) hp
    | (with_reducible apply OnlyO.next) | with_reducible intro _ | (with_reducible apply Only.ite)
    | (with_reducible apply State.on_only) | (with_reducible apply State.count_only)
    | (with_reducible apply State.log_only) | (with_reducible apply State.sendSession_only)
    | (with_reducible apply State.setSubscription_only) | (dsimp only) | split
    | (with_reducible refine Only.leaf ?_ ?_)
    | (unfold Same; intro p hq; cases p <;> first | exact absurd (hp (by decide)) hq | dsimp only [Part.same])

theorem State.streamAll_only {parts : List Part} {s0 s : State} (h : Only parts s0 s) (hp : [.out, .links, .fabric,
      .rope, .objects, .ring, .faults, .msix, .host] ⊆ parts)  :
    Only parts s0 (State.streamAll s) := by
  unfold State.streamAll
  repeat' first
    | with_reducible assumption | with_reducible exact List.Subset.trans (by decide) hp | with_reducible intro _
    | (with_reducible apply State.each_only) | (with_reducible apply State.streamSend_only) | (dsimp only) | split
    | (with_reducible refine Only.leaf ?_ ?_)
    | (unfold Same; intro p hq; cases p <;> first | exact absurd (hp (by decide)) hq | dsimp only [Part.same])

theorem execCairnStreamSend_only {parts : List Part} {s0 s : State} (h : Only parts s0 s) (hp : [.out, .links,
      .fabric, .rope, .objects, .ring, .faults, .msix, .host] ⊆ parts) (stream : Fin 4) :
    OnlyO parts s0 (execCairnStreamSend stream s) := by
  unfold execCairnStreamSend
  repeat' first
    | with_reducible assumption | with_reducible exact List.Subset.trans (by decide) hp
    | (with_reducible apply act_only) | with_reducible intro _ | (with_reducible apply State.streamSend_only)
    | (dsimp only) | split | (with_reducible refine Only.leaf ?_ ?_)
    | (unfold Same; intro p hq; cases p <;> first | exact absurd (hp (by decide)) hq | dsimp only [Part.same])

theorem State.ownRequest_only {parts : List Part} {s0 s : State} (h : Only parts s0 s) (hp : [.out, .links, .fabric,
      .objects, .dict, .ring] ⊆ parts) (dst : Nat) (session : Option Nat) (op index sub offset length : Nat) (data :
      List Byte) :
    Only parts s0 (State.ownRequest s dst session op index sub offset length data) := by
  unfold State.ownRequest
  repeat' first
    | with_reducible assumption | with_reducible exact List.Subset.trans (by decide) hp | with_reducible intro _
    | (with_reducible refine State.setDict_only' ?_ (List.Subset.trans (by decide) hp) _ (fun _ => rfl))
    | (with_reducible refine State.setDict_only'' ?_ (List.Subset.trans (by decide) hp) _ (fun _ => rfl))
    | (with_reducible apply State.setDict_only) | (with_reducible apply State.sendMgmt_only) | (dsimp only) | split
    | (with_reducible refine Only.leaf ?_ ?_)
    | (unfold Same; intro p hq; cases p <;> first | exact absurd (hp (by decide)) hq | dsimp only [Part.same])

theorem State.ownHello_only {parts : List Part} {s0 s : State} (h : Only parts s0 s) (hp : [.out, .links, .fabric,
      .objects, .dict, .ring] ⊆ parts) (dst : Nat) :
    Only parts s0 (State.ownHello s dst) := by
  unfold State.ownHello
  repeat' first
    | with_reducible assumption | with_reducible exact List.Subset.trans (by decide) hp | with_reducible intro _
    | (with_reducible apply State.ownRequest_only) | (dsimp only) | split | (with_reducible refine Only.leaf ?_ ?_)
    | (unfold Same; intro p hq; cases p <;> first | exact absurd (hp (by decide)) hq | dsimp only [Part.same])

theorem State.dropOwn_only {parts : List Part} {s0 s : State} (h : Only parts s0 s) (hp : [.dict] ⊆ parts) (seq :
      Nat) :
    Only parts s0 (State.dropOwn s seq) := by
  unfold State.dropOwn
  repeat' first
    | with_reducible assumption | with_reducible exact List.Subset.trans (by decide) hp | with_reducible intro _
    | (with_reducible refine State.setDict_only' ?_ (List.Subset.trans (by decide) hp) _ (fun _ => rfl))
    | (with_reducible refine State.setDict_only'' ?_ (List.Subset.trans (by decide) hp) _ (fun _ => rfl))
    | (with_reducible apply State.setDict_only) | (dsimp only) | split | (with_reducible refine Only.leaf ?_ ?_)
    | (unfold Same; intro p hq; cases p <;> first | exact absurd (hp (by decide)) hq | dsimp only [Part.same])

end Sys2Proof.Machine
end

