-- ==== Sys2Proof/Laws/OnlyHoldCmds.lean ====
section
/-!
SUPPORT. What the operations of Machine/HoldCmds.lean can change (Laws/Only.lean).
-/

namespace Sys2Proof.Machine

theorem State.setSupply_only {parts : List Part} {s0 s : State} (h : Only parts s0 s) (hp : [.supply] ⊆ parts) (f :
      Supply → Supply) :
    Only parts s0 (State.setSupply s f) := by
  unfold State.setSupply
  repeat' first
    | with_reducible assumption | with_reducible exact List.Subset.trans (by decide) hp | with_reducible intro _
    | (dsimp only) | split | (with_reducible refine Only.leaf ?_ ?_)
    | (unfold Same; intro p hq; cases p <;> first | exact absurd (hp (by decide)) hq | dsimp only [Part.same])

theorem State.applyCut_only {parts : List Part} {s0 s : State} (h : Only parts s0 s) (hp : [.supply] ⊆ parts)  :
    Only parts s0 (State.applyCut s) := by
  unfold State.applyCut
  repeat' first
    | with_reducible assumption | with_reducible exact List.Subset.trans (by decide) hp | with_reducible intro _
    | (with_reducible apply State.setSupply_only) | (dsimp only) | split | (with_reducible refine Only.leaf ?_ ?_)
    | (unfold Same; intro p hq; cases p <;> first | exact absurd (hp (by decide)) hq | dsimp only [Part.same])

theorem State.enterHold_only {parts : List Part} {s0 s : State} (h : Only parts s0 s) (hp : [.hold, .objects, .ring,
      .supply] ⊆ parts)  :
    Only parts s0 (State.enterHold s) := by
  unfold State.enterHold
  repeat' first
    | with_reducible assumption | with_reducible exact List.Subset.trans (by decide) hp | with_reducible intro _
    | (with_reducible apply State.on_only) | (with_reducible apply State.log_only)
    | (with_reducible apply State.setHold_only) | (with_reducible apply State.applyCut_only) | (dsimp only) | split
    | (with_reducible refine Only.leaf ?_ ?_)
    | (unfold Same; intro p hq; cases p <;> first | exact absurd (hp (by decide)) hq | dsimp only [Part.same])

theorem State.discardMessage_only {parts : List Part} {s0 s : State} (h : Only parts s0 s) (hp : [.objects, .ring] ⊆
      parts)  :
    Only parts s0 (State.discardMessage s) := by
  unfold State.discardMessage
  repeat' first
    | with_reducible assumption | with_reducible exact List.Subset.trans (by decide) hp | with_reducible intro _
    | (with_reducible apply State.count_only) | (with_reducible apply State.log_only) | (dsimp only) | split
    | (with_reducible refine Only.leaf ?_ ?_)
    | (unfold Same; intro p hq; cases p <;> first | exact absurd (hp (by decide)) hq | dsimp only [Part.same])

theorem State.receiveHold_only {parts : List Part} {s0 s : State} (h : Only parts s0 s) (hp : [.hold, .links,
      .objects, .ring, .supply] ⊆ parts) (l w : Nat) :
    Only parts s0 (State.receiveHold s l w) := by
  unfold State.receiveHold
  repeat' first
    | with_reducible assumption | with_reducible exact List.Subset.trans (by decide) hp | with_reducible intro _
    | (with_reducible apply Only.ite) | (with_reducible apply State.on_only)
    | (with_reducible apply State.log_only) | (with_reducible apply State.owe_only)
    | (with_reducible apply State.flood_only) | (with_reducible apply State.firstSeen_only)
    | (with_reducible apply State.setHold_only) | (with_reducible apply State.schedFault_only)
    | (with_reducible apply State.enterHold_only) | (with_reducible apply State.discardMessage_only)
    | (with_reducible refine Only.snd ?_ (by assumption)) | (dsimp only) | split
    | (with_reducible refine Only.leaf ?_ ?_)
    | (unfold Same; intro p hq; cases p <;> first | exact absurd (hp (by decide)) hq | dsimp only [Part.same])

theorem execHold_only {parts : List Part} {s0 s : State} (h : Only parts s0 s) (hp : [.hold, .links, .objects, .ring,
      .supply] ⊆ parts) (link : Link) (msg : BitVec 256) :
    OnlyO parts s0 (execHold link msg s) := by
  unfold execHold
  repeat' first
    | with_reducible assumption | with_reducible exact List.Subset.trans (by decide) hp
    | (with_reducible apply act_only) | with_reducible intro _ | (with_reducible apply State.receiveHold_only)
    | (dsimp only) | split | (with_reducible refine Only.leaf ?_ ?_)
    | (unfold Same; intro p hq; cases p <;> first | exact absurd (hp (by decide)) hq | dsimp only [Part.same])

theorem State.receiveResume_only {parts : List Part} {s0 s : State} (h : Only parts s0 s) (hp : [.hold, .links,
      .objects, .ring] ⊆ parts) (l w : Nat) :
    Only parts s0 (State.receiveResume s l w) := by
  unfold State.receiveResume
  repeat' first
    | with_reducible assumption | with_reducible exact List.Subset.trans (by decide) hp | with_reducible intro _
    | (with_reducible apply Only.ite) | (with_reducible apply State.owe_only)
    | (with_reducible apply State.flood_only) | (with_reducible apply State.firstSeen_only)
    | (with_reducible apply State.setHold_only) | (with_reducible apply State.discardMessage_only)
    | (with_reducible refine Only.snd ?_ (by assumption)) | (dsimp only) | split
    | (with_reducible refine Only.leaf ?_ ?_)
    | (unfold Same; intro p hq; cases p <;> first | exact absurd (hp (by decide)) hq | dsimp only [Part.same])

theorem execResume_only {parts : List Part} {s0 s : State} (h : Only parts s0 s) (hp : [.hold, .links, .objects,
      .ring] ⊆ parts) (link : Link) (msg : BitVec 256) :
    OnlyO parts s0 (execResume link msg s) := by
  unfold execResume
  repeat' first
    | with_reducible assumption | with_reducible exact List.Subset.trans (by decide) hp
    | (with_reducible apply act_only) | with_reducible intro _ | (with_reducible apply State.receiveResume_only)
    | (dsimp only) | split | (with_reducible refine Only.leaf ?_ ?_)
    | (unfold Same; intro p hq; cases p <;> first | exact absurd (hp (by decide)) hq | dsimp only [Part.same])

theorem execHoldTick_only {parts : List Part} {s0 s : State} (h : Only parts s0 s) (hp : [.hall, .time, .hold,
      .objects, .ring, .supply] ⊆ parts)  :
    OnlyO parts s0 (execHoldTick s) := by
  unfold execHoldTick
  repeat' first
    | with_reducible assumption | with_reducible exact List.Subset.trans (by decide) hp
    | (with_reducible apply act_only) | with_reducible intro _ | (with_reducible apply Only.ite)
    | (with_reducible apply State.reach_only) | (with_reducible apply State.enterHold_only) | (dsimp only) | split
    | (with_reducible refine Only.leaf ?_ ?_)
    | (unfold Same; intro p hq; cases p <;> first | exact absurd (hp (by decide)) hq | dsimp only [Part.same])

theorem State.enterLost_only {parts : List Part} {s0 s : State} (h : Only parts s0 s) (hp : [.out, .hold, .links,
      .ctxs, .objects, .ring, .msix, .alert] ⊆ parts)  :
    Only parts s0 (State.enterLost s) := by
  unfold State.enterLost
  repeat' first
    | with_reducible assumption | with_reducible exact List.Subset.trans (by decide) hp | with_reducible intro _
    | (with_reducible apply Only.ite) | (with_reducible apply State.log_only)
    | (with_reducible apply State.setHold_only) | (with_reducible apply State.unplanned_only)
    | (with_reducible apply State.checkLoss_only) | (dsimp only) | split | (with_reducible refine Only.leaf ?_ ?_)
    | (unfold Same; intro p hq; cases p <;> first | exact absurd (hp (by decide)) hq | dsimp only [Part.same])

theorem State.recoveriesEnd_only {parts : List Part} {s0 s : State} (h : Only parts s0 s) (hp : [.objects, .ring,
      .faults] ⊆ parts) (length : Nat) :
    Only parts s0 (State.recoveriesEnd s length) := by
  unfold State.recoveriesEnd
  repeat' first
    | with_reducible assumption | with_reducible exact List.Subset.trans (by decide) hp | with_reducible intro _
    | (with_reducible apply Only.ite) | (with_reducible apply State.log_only)
    | (with_reducible apply State.each_only) | (dsimp only) | split | (with_reducible refine Only.leaf ?_ ?_)
    | (unfold Same; intro p hq; cases p <;> first | exact absurd (hp (by decide)) hq | dsimp only [Part.same])

theorem State.resumeStep_only {parts : List Part} {s0 s : State} (h : Only parts s0 s) (hp : [.objects, .ring] ⊆
      parts)  :
    Only parts s0 (State.resumeStep s) := by
  unfold State.resumeStep
  repeat' first
    | with_reducible assumption | with_reducible exact List.Subset.trans (by decide) hp | with_reducible intro _
    | (with_reducible apply Only.ite) | (with_reducible apply State.on_only)
    | (with_reducible apply State.setObj_only) | (with_reducible apply State.log_only) | (dsimp only) | split
    | (with_reducible refine Only.leaf ?_ ?_)
    | (unfold Same; intro p hq; cases p <;> first | exact absurd (hp (by decide)) hq | dsimp only [Part.same])

theorem State.resumeHall_only {parts : List Part} {s0 s : State} (h : Only parts s0 s) (hp : [.out, .hall, .time,
      .tt, .hold, .links, .cores, .ctxs, .dies, .rope, .objects, .ring, .faults, .msix, .supply, .alert] ⊆ parts)  :
    Only parts s0 (State.resumeHall s) := by
  unfold State.resumeHall
  repeat' first
    | with_reducible assumption | with_reducible exact List.Subset.trans (by decide) hp
    | (with_reducible apply OnlyO.next) | with_reducible intro _ | (with_reducible apply Only.ite)
    | (with_reducible apply State.reach_only) | (with_reducible apply State.on_only)
    | (with_reducible apply State.log_only) | (with_reducible apply State.setHold_only)
    | (with_reducible apply State.switchBank_only) | (with_reducible apply State.enterLost_only)
    | (with_reducible apply State.recoveriesEnd_only) | (with_reducible apply State.resumeStep_only) | (dsimp only)
    | split | (with_reducible refine Only.leaf ?_ ?_)
    | (unfold Same; intro p hq; cases p <;> first | exact absurd (hp (by decide)) hq | dsimp only [Part.same])

theorem execResumeTick_only {parts : List Part} {s0 s : State} (h : Only parts s0 s) (hp : [.out, .hall, .time, .tt,
      .hold, .links, .cores, .ctxs, .dies, .rope, .objects, .ring, .faults, .msix, .supply, .alert] ⊆ parts)  :
    OnlyO parts s0 (execResumeTick s) := by
  unfold execResumeTick
  repeat' first
    | with_reducible assumption | with_reducible exact List.Subset.trans (by decide) hp
    | (with_reducible apply act_only) | with_reducible intro _ | (with_reducible apply State.resumeHall_only)
    | (dsimp only) | split | (with_reducible refine Only.leaf ?_ ?_)
    | (unfold Same; intro p hq; cases p <;> first | exact absurd (hp (by decide)) hq | dsimp only [Part.same])

theorem execHoldLimitExpire_only {parts : List Part} {s0 s : State} (h : Only parts s0 s) (hp : [.out, .hall, .time,
      .hold, .links, .ctxs, .objects, .ring, .msix, .alert] ⊆ parts)  :
    OnlyO parts s0 (execHoldLimitExpire s) := by
  unfold execHoldLimitExpire
  repeat' first
    | with_reducible assumption | with_reducible exact List.Subset.trans (by decide) hp
    | (with_reducible apply act_only) | with_reducible intro _ | (with_reducible apply State.reach_only)
    | (with_reducible apply State.log_only) | (with_reducible apply State.faultCount_only)
    | (with_reducible apply State.jobFail_only) | (dsimp only) | split | (with_reducible refine Only.leaf ?_ ?_)
    | (unfold Same; intro p hq; cases p <;> first | exact absurd (hp (by decide)) hq | dsimp only [Part.same])

theorem execKeptResumeExpire_only {parts : List Part} {s0 s : State} (h : Only parts s0 s) (hp : [.hall, .time,
      .hold] ⊆ parts) (origin seq : BitVec 16) :
    OnlyO parts s0 (execKeptResumeExpire origin seq s) := by
  unfold execKeptResumeExpire
  repeat' first
    | with_reducible assumption | with_reducible exact List.Subset.trans (by decide) hp
    | (with_reducible apply act_only) | with_reducible intro _ | (with_reducible apply State.reach_only)
    | (with_reducible apply State.setHold_only) | (dsimp only) | split | (with_reducible refine Only.leaf ?_ ?_)
    | (unfold Same; intro p hq; cases p <;> first | exact absurd (hp (by decide)) hq | dsimp only [Part.same])

end Sys2Proof.Machine
end

