-- ==== Sys2Proof/Laws/OnlyMemory.lean ====
section
/-!
SUPPORT. What the operations of Machine/Memory.lean can change (Laws/Only.lean).
-/

namespace Sys2Proof.Machine

theorem State.migrate_only {parts : List Part} {s0 s : State} (h : Only parts s0 s) (hp : [.memctl] ⊆ parts) (p :
      Nat) :
    Only parts s0 (State.migrate s p) := by
  unfold State.migrate
  repeat' first
    | with_reducible assumption | with_reducible exact List.Subset.trans (by decide) hp | with_reducible intro _
    | (with_reducible apply State.setMem_only) | (with_reducible apply State.setPc_only) | (dsimp only) | split
    | (with_reducible refine Only.leaf ?_ ?_)
    | (unfold Same; intro p hq; cases p <;> first | exact absurd (hp (by decide)) hq | dsimp only [Part.same])

theorem State.migrated_only {parts : List Part} {s0 s : State} (h : Only parts s0 s) (hp : [.objects, .ring, .memctl]
      ⊆ parts) (p : Nat) :
    Only parts s0 (State.migrated s p) := by
  unfold State.migrated
  repeat' first
    | with_reducible assumption | with_reducible exact List.Subset.trans (by decide) hp | with_reducible intro _
    | (with_reducible apply State.setMem_only) | (with_reducible apply State.setPc_only)
    | (with_reducible apply State.logPc_only) | (dsimp only) | split | (with_reducible refine Only.leaf ?_ ?_)
    | (unfold Same; intro p hq; cases p <;> first | exact absurd (hp (by decide)) hq | dsimp only [Part.same])

theorem State.pcPermanent_only {parts : List Part} {s0 s : State} (h : Only parts s0 s) (hp : [.out, .hold, .links,
      .ctxs, .objects, .ring, .msix, .memctl, .alert] ⊆ parts) (p : Nat) :
    Only parts s0 (State.pcPermanent s p) := by
  unfold State.pcPermanent
  repeat' first
    | with_reducible assumption | with_reducible exact List.Subset.trans (by decide) hp | with_reducible intro _
    | (with_reducible apply Only.ite) | (with_reducible apply State.log_only)
    | (with_reducible apply State.setMem_only) | (with_reducible apply State.setPc_only)
    | (with_reducible apply State.logPc_only) | (with_reducible apply State.outOfService_only)
    | (with_reducible apply State.migrate_only) | (dsimp only) | split | (with_reducible refine Only.leaf ?_ ?_)
    | (unfold Same; intro p hq; cases p <;> first | exact absurd (hp (by decide)) hq | dsimp only [Part.same])

theorem State.judgePc_only {parts : List Part} {s0 s : State} (h : Only parts s0 s) (hp : [.out, .hold, .links,
      .ctxs, .objects, .ring, .msix, .memctl, .alert] ⊆ parts) (p : Nat) :
    Only parts s0 (State.judgePc s p) := by
  unfold State.judgePc
  repeat' first
    | with_reducible assumption | with_reducible exact List.Subset.trans (by decide) hp | with_reducible intro _
    | (with_reducible apply Only.ite) | (with_reducible apply State.pcPermanent_only) | (dsimp only) | split
    | (with_reducible refine Only.leaf ?_ ?_)
    | (unfold Same; intro p hq; cases p <;> first | exact absurd (hp (by decide)) hq | dsimp only [Part.same])

theorem State.countCorrected_only {parts : List Part} {s0 s : State} (h : Only parts s0 s) (hp : [.memctl] ⊆ parts)
      (p : Nat) :
    Only parts s0 (State.countCorrected s p) := by
  unfold State.countCorrected
  repeat' first
    | with_reducible assumption | with_reducible exact List.Subset.trans (by decide) hp | with_reducible intro _
    | (with_reducible apply State.setMem_only) | (with_reducible apply State.setPc_only) | (dsimp only) | split
    | (with_reducible refine Only.leaf ?_ ?_)
    | (unfold Same; intro p hq; cases p <;> first | exact absurd (hp (by decide)) hq | dsimp only [Part.same])

theorem State.countRetried_only {parts : List Part} {s0 s : State} (h : Only parts s0 s) (hp : [.objects, .ring,
      .memctl] ⊆ parts) (p a : Nat) :
    Only parts s0 (State.countRetried s p a) := by
  unfold State.countRetried
  repeat' first
    | with_reducible assumption | with_reducible exact List.Subset.trans (by decide) hp | with_reducible intro _
    | (with_reducible apply Only.ite) | (with_reducible apply State.on_only)
    | (with_reducible apply State.setMem_only) | (with_reducible apply State.setPc_only)
    | (with_reducible apply State.logPc_only) | (dsimp only) | split | (with_reducible refine Only.leaf ?_ ?_)
    | (unfold Same; intro p hq; cases p <;> first | exact absurd (hp (by decide)) hq | dsimp only [Part.same])

theorem State.poisonCodeword_only {parts : List Part} {s0 s : State} (h : Only parts s0 s) (hp : [.poison, .objects,
      .ring, .memctl] ⊆ parts) (p a : Nat) :
    Only parts s0 (State.poisonCodeword s p a) := by
  unfold State.poisonCodeword
  repeat' first
    | with_reducible assumption | with_reducible exact List.Subset.trans (by decide) hp | with_reducible intro _
    | (with_reducible apply State.poisonAt_only) | (with_reducible apply State.setMem_only)
    | (with_reducible apply State.setPc_only) | (with_reducible apply State.logPc_only) | (dsimp only) | split
    | (with_reducible refine Only.leaf ?_ ?_)
    | (unfold Same; intro p hq; cases p <;> first | exact absurd (hp (by decide)) hq | dsimp only [Part.same])

theorem execMemoryRetry_only {parts : List Part} {s0 s : State} (h : Only parts s0 s) (hp : [.out, .hold, .links,
      .poison, .ctxs, .objects, .ring, .msix, .memctl, .alert] ⊆ parts) (a : BitVec 41) (outcome : RetryOutcome) :
    OnlyO parts s0 (execMemoryRetry a outcome s) := by
  unfold execMemoryRetry
  repeat' first
    | with_reducible assumption | with_reducible exact List.Subset.trans (by decide) hp
    | (with_reducible apply act_only) | with_reducible intro _ | (with_reducible apply Only.ite)
    | (with_reducible apply State.judgePc_only) | (with_reducible apply State.countCorrected_only)
    | (with_reducible apply State.countRetried_only) | (with_reducible apply State.poisonCodeword_only)
    | (dsimp only) | split | (with_reducible refine Only.leaf ?_ ?_)
    | (unfold Same; intro p hq; cases p <;> first | exact absurd (hp (by decide)) hq | dsimp only [Part.same])

theorem State.freeCodeword_only {parts : List Part} {s0 s : State} (h : Only parts s0 s) (hp : [.drawn, .mem] ⊆
      parts) (a : Nat) :
    Only parts s0 (State.freeCodeword s a) := by
  unfold State.freeCodeword
  repeat' first
    | with_reducible assumption | with_reducible exact List.Subset.trans (by decide) hp | with_reducible intro _
    | (with_reducible apply State.draw_only) | (with_reducible apply State.each_only)
    | (with_reducible refine Only.snd ?_ (by assumption)) | (dsimp only) | split
    | (with_reducible refine Only.leaf ?_ ?_)
    | (unfold Same; intro p hq; cases p <;> first | exact absurd (hp (by decide)) hq | dsimp only [Part.same])

theorem execScrubRead_only {parts : List Part} {s0 s : State} (h : Only parts s0 s) (hp : [.out, .drawn, .hold,
      .links, .mem, .poison, .ctxs, .objects, .ring, .msix, .memctl, .alert] ⊆ parts) (a : BitVec 41) (symbols : Nat)
      :
    OnlyO parts s0 (execScrubRead a symbols s) := by
  unfold execScrubRead
  repeat' first
    | with_reducible assumption | with_reducible exact List.Subset.trans (by decide) hp
    | (with_reducible apply act_only) | with_reducible intro _ | (with_reducible apply Only.ite)
    | (with_reducible apply State.draw_only) | (with_reducible apply State.on_only)
    | (with_reducible apply State.logPc_only) | (with_reducible apply State.judgePc_only)
    | (with_reducible apply State.countCorrected_only) | (with_reducible apply State.poisonCodeword_only)
    | (with_reducible apply State.freeCodeword_only) | (with_reducible refine Only.snd ?_ (by assumption))
    | (dsimp only) | split | (with_reducible refine Only.leaf ?_ ?_)
    | (unfold Same; intro p hq; cases p <;> first | exact absurd (hp (by decide)) hq | dsimp only [Part.same])

theorem execMigrationComplete_only {parts : List Part} {s0 s : State} (h : Only parts s0 s) (hp : [.objects, .ring,
      .memctl] ⊆ parts)  :
    OnlyO parts s0 (execMigrationComplete s) := by
  unfold execMigrationComplete
  repeat' first
    | with_reducible assumption | with_reducible exact List.Subset.trans (by decide) hp
    | (with_reducible apply act_only) | with_reducible intro _ | (with_reducible apply Only.ite)
    | (with_reducible apply State.migrated_only) | (dsimp only) | split | (with_reducible refine Only.leaf ?_ ?_)
    | (unfold Same; intro p hq; cases p <;> first | exact absurd (hp (by decide)) hq | dsimp only [Part.same])

theorem State.trainStack_only {parts : List Part} {s0 s : State} (h : Only parts s0 s) (hp : [.out, .hold, .links,
      .ctxs, .objects, .ring, .msix, .memctl, .alert] ⊆ parts) (n : Nat) (bad : List Nat) :
    Only parts s0 (State.trainStack s n bad) := by
  unfold State.trainStack
  repeat' first
    | with_reducible assumption | with_reducible exact List.Subset.trans (by decide) hp | with_reducible intro _
    | (with_reducible apply Only.ite) | (with_reducible apply State.log_only)
    | (with_reducible apply State.each_only) | (with_reducible apply State.setMem_only)
    | (with_reducible apply State.outOfService_only) | (with_reducible apply State.pcPermanent_only) | (dsimp only)
    | split | (with_reducible refine Only.leaf ?_ ?_)
    | (unfold Same; intro p hq; cases p <;> first | exact absurd (hp (by decide)) hq | dsimp only [Part.same])

theorem State.stackReset_only {parts : List Part} {s0 s : State} (h : Only parts s0 s) (hp : [.out, .hall, .time,
      .hold, .links, .fabric, .ctxs, .sems, .movers, .objects, .ring, .msix, .supply, .memctl, .alert] ⊆ parts) (n :
      Nat) (bad : List Nat) :
    Only parts s0 (State.stackReset s n bad) := by
  unfold State.stackReset
  repeat' first
    | with_reducible assumption | with_reducible exact List.Subset.trans (by decide) hp | with_reducible intro _
    | (with_reducible apply Only.ite) | (with_reducible apply State.reach_only)
    | (with_reducible apply State.log_only) | (with_reducible apply State.originateHold_only)
    | (with_reducible apply State.originateResume_only) | (with_reducible apply State.faultCount_only)
    | (with_reducible apply State.releaseHolds_only) | (with_reducible apply State.enterHold_only)
    | (with_reducible apply State.trainStack_only) | (with_reducible refine Only.snd ?_ (by assumption))
    | (dsimp only) | split | (with_reducible refine Only.leaf ?_ ?_)
    | (unfold Same; intro p hq; cases p <;> first | exact absurd (hp (by decide)) hq | dsimp only [Part.same])

theorem execMemoryStackReset_only {parts : List Part} {s0 s : State} (h : Only parts s0 s) (hp : [.out, .hall, .time,
      .hold, .links, .fabric, .ctxs, .sems, .movers, .objects, .ring, .faults, .msix, .supply, .memctl, .alert] ⊆
      parts) (stack : Stack) (failed : List PseudoChan) :
    OnlyO parts s0 (execMemoryStackReset stack failed s) := by
  unfold execMemoryStackReset
  repeat' first
    | with_reducible assumption | with_reducible exact List.Subset.trans (by decide) hp
    | (with_reducible apply act_only) | with_reducible intro _ | (with_reducible apply Only.ite)
    | (with_reducible apply State.countedReset_only) | (with_reducible apply State.stackReset_only) | (dsimp only)
    | split | (with_reducible refine Only.leaf ?_ ?_)
    | (unfold Same; intro p hq; cases p <;> first | exact absurd (hp (by decide)) hq | dsimp only [Part.same])

end Sys2Proof.Machine
end

