-- ==== Sys2Proof/Laws/OnlyPlan.lean ====
section
/-!
SUPPORT. What the operations of Machine/Plan.lean can change (Laws/Only.lean).
-/

namespace Sys2Proof.Machine

theorem State.checkBank_only {parts : List Part} {s0 s : State} (h : Only parts s0 s) (hp : [.tt, .objects, .dict,
      .ring] ⊆ parts) (b : Nat) :
    Only parts s0 (State.checkBank s b).1 := by
  unfold State.checkBank
  repeat' first
    | with_reducible assumption | with_reducible exact List.Subset.trans (by decide) hp | with_reducible intro _
    | (with_reducible apply Only.ite) | (with_reducible apply Only.ite1) | (with_reducible apply State.on_only)
    | (with_reducible apply State.setRec_only) | (with_reducible apply State.log_only)
    | (with_reducible apply State.setArmed_only) | (with_reducible apply State.copyPatterns_only) | (dsimp only)
    | split | (with_reducible refine Only.leaf ?_ ?_)
    | (unfold Same; intro p hq; cases p <;> first | exact absurd (hp (by decide)) hq | dsimp only [Part.same])

end Sys2Proof.Machine
end

