-- ==== Sys2Proof/Laws/OnlyPower.lean ====
section
/-!
SUPPORT. What the operations of Machine/Power.lean can change (Laws/Only.lean).
-/

namespace Sys2Proof.Machine

theorem State.flashOnly_only {parts : List Part} {s0 s : State} (h : Only parts s0 s) (hp : [.hall, .down, .time,
      .tt, .hold, .links, .fabric, .mem, .poison, .stores, .maps, .imem, .accs, .cores, .ctxs, .sems, .movers,
      .posts, .dies, .mailboxes, .deltas, .regions, .spans, .invals, .watch, .train, .rope, .objects, .dict, .ring,
      .faults, .job, .msix, .host, .supply, .memctl, .alert, .boot] ⊆ parts)  :
    Only parts s0 (State.flashOnly s) := by
  unfold State.flashOnly
  repeat' first
    | with_reducible assumption | with_reducible exact List.Subset.trans (by decide) hp | with_reducible intro _
    | (dsimp only) | split | (with_reducible refine Only.leaf ?_ ?_)
    | (unfold Same; intro p hq; cases p <;> first | exact absurd (hp (by decide)) hq | dsimp only [Part.same])

theorem State.powerFail_only {parts : List Part} {s0 s : State} (h : Only parts s0 s) (hp : [.out, .hall, .down,
      .time, .tt, .hold, .links, .fabric, .mem, .poison, .stores, .maps, .imem, .accs, .cores, .ctxs, .sems, .movers,
      .posts, .dies, .mailboxes, .deltas, .regions, .spans, .invals, .watch, .train, .rope, .objects, .dict, .ring,
      .faults, .job, .msix, .host, .supply, .memctl, .alert, .boot] ⊆ parts)  :
    Only parts s0 (State.powerFail s) := by
  unfold State.powerFail
  repeat' first
    | with_reducible assumption | with_reducible exact List.Subset.trans (by decide) hp | with_reducible intro _
    | (with_reducible apply State.log_only) | (with_reducible apply State.streamAll_only)
    | (with_reducible apply State.flashOnly_only) | (dsimp only) | split | (with_reducible refine Only.leaf ?_ ?_)
    | (unfold Same; intro p hq; cases p <;> first | exact absurd (hp (by decide)) hq | dsimp only [Part.same])

theorem State.takeCut_only {parts : List Part} {s0 s : State} (h : Only parts s0 s) (hp : [.hold, .links, .objects,
      .supply] ⊆ parts) (cause : Nat) :
    Only parts s0 (State.takeCut s cause).2 := by
  unfold State.takeCut
  repeat' first
    | with_reducible assumption | with_reducible exact List.Subset.trans (by decide) hp | with_reducible intro _
    | (with_reducible apply Only.ite) | (with_reducible apply Only.ite2)
    | (with_reducible apply State.originateHold_only) | (with_reducible apply State.faultCount_only)
    | (with_reducible apply State.setSupply_only) | (with_reducible apply State.applyCut_only)
    | (with_reducible refine Only.snd ?_ (by assumption)) | (dsimp only) | split
    | (with_reducible refine Only.leaf ?_ ?_)
    | (unfold Same; intro p hq; cases p <;> first | exact absurd (hp (by decide)) hq | dsimp only [Part.same])

theorem State.startBrace_only {parts : List Part} {s0 s : State} (h : Only parts s0 s) (hp : [.hold, .links,
      .objects, .ring, .supply, .alert] ⊆ parts)  :
    Only parts s0 (State.startBrace s) := by
  unfold State.startBrace
  repeat' first
    | with_reducible assumption | with_reducible exact List.Subset.trans (by decide) hp | with_reducible intro _
    | (with_reducible apply State.count_only) | (with_reducible apply State.log_only)
    | (with_reducible apply State.alerting_only) | (with_reducible apply State.setSupply_only)
    | (with_reducible apply State.takeCut_only) | (with_reducible refine Only.snd ?_ (by assumption))
    | (dsimp only) | split | (with_reducible refine Only.leaf ?_ ?_)
    | (unfold Same; intro p hq; cases p <;> first | exact absurd (hp (by decide)) hq | dsimp only [Part.same])

theorem State.governorTrip_only {parts : List Part} {s0 s : State} (h : Only parts s0 s) (hp : [.out, .hold, .links,
      .ctxs, .objects, .ring, .msix, .supply, .alert] ⊆ parts) (cause : Nat) :
    Only parts s0 (State.governorTrip s cause) := by
  unfold State.governorTrip
  repeat' first
    | with_reducible assumption | with_reducible exact List.Subset.trans (by decide) hp | with_reducible intro _
    | (with_reducible apply Only.ite) | (with_reducible apply State.on_only)
    | (with_reducible apply State.count_only) | (with_reducible apply State.log_only)
    | (with_reducible apply State.alerting_only) | (with_reducible apply State.jobFail_only)
    | (with_reducible apply State.setSupply_only) | (with_reducible apply State.takeCut_only)
    | (with_reducible refine Only.snd ?_ (by assumption)) | (dsimp only) | split
    | (with_reducible refine Only.leaf ?_ ?_)
    | (unfold Same; intro p hq; cases p <;> first | exact absurd (hp (by decide)) hq | dsimp only [Part.same])

theorem State.liftCut_only {parts : List Part} {s0 s : State} (h : Only parts s0 s) (hp : [.supply] ⊆ parts)  :
    Only parts s0 (State.liftCut s) := by
  unfold State.liftCut
  repeat' first
    | with_reducible assumption | with_reducible exact List.Subset.trans (by decide) hp | with_reducible intro _
    | (with_reducible apply Only.ite) | (with_reducible apply State.setSupply_only) | (dsimp only) | split
    | (with_reducible refine Only.leaf ?_ ?_)
    | (unfold Same; intro p hq; cases p <;> first | exact absurd (hp (by decide)) hq | dsimp only [Part.same])

theorem State.noteClear_only {parts : List Part} {s0 s : State} (h : Only parts s0 s) (hp : [.supply] ⊆ parts)  :
    Only parts s0 (State.noteClear s) := by
  unfold State.noteClear
  repeat' first
    | with_reducible assumption | with_reducible exact List.Subset.trans (by decide) hp | with_reducible intro _
    | (with_reducible apply Only.ite) | (with_reducible apply State.setSupply_only) | (dsimp only) | split
    | (with_reducible refine Only.leaf ?_ ?_)
    | (unfold Same; intro p hq; cases p <;> first | exact absurd (hp (by decide)) hq | dsimp only [Part.same])

theorem State.takeSample_only {parts : List Part} {s0 s : State} (h : Only parts s0 s) (hp : [.supply] ⊆ parts) (mv
      ma bank : Nat) (loads : List Nat) :
    Only parts s0 (State.takeSample s mv ma bank loads) := by
  unfold State.takeSample
  repeat' first
    | with_reducible assumption | with_reducible exact List.Subset.trans (by decide) hp | with_reducible intro _
    | (with_reducible apply Only.ite) | (with_reducible apply State.setSupply_only) | (dsimp only) | split
    | (with_reducible refine Only.leaf ?_ ?_)
    | (unfold Same; intro p hq; cases p <;> first | exact absurd (hp (by decide)) hq | dsimp only [Part.same])

theorem State.judgeLine_only {parts : List Part} {s0 s : State} (h : Only parts s0 s) (hp : [.objects, .ring,
      .supply, .alert] ⊆ parts)  :
    Only parts s0 (State.judgeLine s) := by
  unfold State.judgeLine
  repeat' first
    | with_reducible assumption | with_reducible exact List.Subset.trans (by decide) hp | with_reducible intro _
    | (with_reducible apply State.on_only) | (with_reducible apply State.log_only)
    | (with_reducible apply State.alerting_only) | (with_reducible apply State.setSupply_only) | (dsimp only)
    | split | (with_reducible refine Only.leaf ?_ ?_)
    | (unfold Same; intro p hq; cases p <;> first | exact absurd (hp (by decide)) hq | dsimp only [Part.same])

theorem State.endDip_only {parts : List Part} {s0 s : State} (h : Only parts s0 s) (hp : [.objects, .ring, .supply] ⊆
      parts)  :
    Only parts s0 (State.endDip s) := by
  unfold State.endDip
  repeat' first
    | with_reducible assumption | with_reducible exact List.Subset.trans (by decide) hp | with_reducible intro _
    | (with_reducible apply Only.ite) | (with_reducible apply State.on_only)
    | (with_reducible apply State.count_only) | (with_reducible apply State.log_only)
    | (with_reducible apply State.setSupply_only) | (dsimp only) | split | (with_reducible refine Only.leaf ?_ ?_)
    | (unfold Same; intro p hq; cases p <;> first | exact absurd (hp (by decide)) hq | dsimp only [Part.same])

theorem execPowerSample_only {parts : List Part} {s0 s : State} (h : Only parts s0 s) (hp : [.out, .hold, .links,
      .ctxs, .objects, .ring, .msix, .supply, .alert] ⊆ parts) (mv ma bank : Nat) (loads : List Nat) :
    OnlyO parts s0 (execPowerSample mv ma bank loads s) := by
  unfold execPowerSample
  repeat' first
    | with_reducible assumption | with_reducible exact List.Subset.trans (by decide) hp
    | (with_reducible apply act_only) | with_reducible intro _ | (with_reducible apply State.on_only)
    | (with_reducible apply State.governorTrip_only) | (with_reducible apply State.noteClear_only)
    | (with_reducible apply State.takeSample_only) | (with_reducible apply State.judgeLine_only)
    | (with_reducible apply State.endDip_only) | (dsimp only) | split | (with_reducible refine Only.leaf ?_ ?_)
    | (unfold Same; intro p hq; cases p <;> first | exact absurd (hp (by decide)) hq | dsimp only [Part.same])

theorem execDipDeclare_only {parts : List Part} {s0 s : State} (h : Only parts s0 s) (hp : [.hall, .time, .supply,
      .alert] ⊆ parts)  :
    OnlyO parts s0 (execDipDeclare s) := by
  unfold execDipDeclare
  repeat' first
    | with_reducible assumption | with_reducible exact List.Subset.trans (by decide) hp
    | (with_reducible apply act_only) | with_reducible intro _ | (with_reducible apply Only.ite)
    | (with_reducible apply State.reach_only) | (with_reducible apply State.alerting_only)
    | (with_reducible apply State.setSupply_only) | (dsimp only) | split | (with_reducible refine Only.leaf ?_ ?_)
    | (unfold Same; intro p hq; cases p <;> first | exact absurd (hp (by decide)) hq | dsimp only [Part.same])

theorem execBraceStart_only {parts : List Part} {s0 s : State} (h : Only parts s0 s) (hp : [.hall, .time, .hold,
      .links, .objects, .ring, .supply, .alert] ⊆ parts)  :
    OnlyO parts s0 (execBraceStart s) := by
  unfold execBraceStart
  repeat' first
    | with_reducible assumption | with_reducible exact List.Subset.trans (by decide) hp
    | (with_reducible apply act_only) | with_reducible intro _ | (with_reducible apply Only.ite)
    | (with_reducible apply State.reach_only) | (with_reducible apply State.startBrace_only) | (dsimp only) | split
    | (with_reducible refine Only.leaf ?_ ?_)
    | (unfold Same; intro p hq; cases p <;> first | exact absurd (hp (by decide)) hq | dsimp only [Part.same])

theorem execBraceRelease_only {parts : List Part} {s0 s : State} (h : Only parts s0 s) (hp : [.hall, .time, .objects,
      .ring, .supply] ⊆ parts)  :
    OnlyO parts s0 (execBraceRelease s) := by
  unfold execBraceRelease
  repeat' first
    | with_reducible assumption | with_reducible exact List.Subset.trans (by decide) hp
    | (with_reducible apply act_only) | with_reducible intro _ | (with_reducible apply State.reach_only)
    | (with_reducible apply State.log_only) | (with_reducible apply State.setSupply_only)
    | (with_reducible apply State.liftCut_only) | (dsimp only) | split | (with_reducible refine Only.leaf ?_ ?_)
    | (unfold Same; intro p hq; cases p <;> first | exact absurd (hp (by decide)) hq | dsimp only [Part.same])

theorem execGovernorClear_only {parts : List Part} {s0 s : State} (h : Only parts s0 s) (hp : [.hall, .time, .supply]
      ⊆ parts)  :
    OnlyO parts s0 (execGovernorClear s) := by
  unfold execGovernorClear
  repeat' first
    | with_reducible assumption | with_reducible exact List.Subset.trans (by decide) hp
    | (with_reducible apply act_only) | with_reducible intro _ | (with_reducible apply State.reach_only)
    | (with_reducible apply State.setSupply_only) | (with_reducible apply State.liftCut_only) | (dsimp only)
    | split | (with_reducible refine Only.leaf ?_ ?_)
    | (unfold Same; intro p hq; cases p <;> first | exact absurd (hp (by decide)) hq | dsimp only [Part.same])

theorem execBallastAdjust_only {parts : List Part} {s0 s : State} (h : Only parts s0 s) (hp : [.objects, .supply] ⊆
      parts)  :
    OnlyO parts s0 (execBallastAdjust s) := by
  unfold execBallastAdjust
  repeat' first
    | with_reducible assumption | with_reducible exact List.Subset.trans (by decide) hp
    | (with_reducible apply act_only) | (with_reducible apply OnlyO.next) | with_reducible intro _
    | (with_reducible apply State.on_only) | (with_reducible apply State.setObj_only)
    | (with_reducible apply State.setSupply_only) | (dsimp only) | split | (with_reducible refine Only.leaf ?_ ?_)
    | (unfold Same; intro p hq; cases p <;> first | exact absurd (hp (by decide)) hq | dsimp only [Part.same])

theorem execBraceResumeSend_only {parts : List Part} {s0 s : State} (h : Only parts s0 s) (hp : [.hold, .links,
      .supply] ⊆ parts)  :
    OnlyO parts s0 (execBraceResumeSend s) := by
  unfold execBraceResumeSend
  repeat' first
    | with_reducible assumption | with_reducible exact List.Subset.trans (by decide) hp
    | (with_reducible apply act_only) | (with_reducible apply OnlyO.next) | with_reducible intro _
    | (with_reducible apply Only.ite) | (with_reducible apply State.originateResume_only)
    | (with_reducible apply State.setSupply_only) | (dsimp only) | split | (with_reducible refine Only.leaf ?_ ?_)
    | (unfold Same; intro p hq; cases p <;> first | exact absurd (hp (by decide)) hq | dsimp only [Part.same])

theorem State.applyTarget_only {parts : List Part} {s0 s : State} (h : Only parts s0 s) (hp : [.objects, .ring,
      .supply] ⊆ parts) (w : Nat) :
    Only parts s0 (State.applyTarget s w) := by
  unfold State.applyTarget
  repeat' first
    | with_reducible assumption | with_reducible exact List.Subset.trans (by decide) hp | with_reducible intro _
    | (with_reducible apply State.log_only) | (with_reducible apply State.setSupply_only) | (dsimp only) | split
    | (with_reducible refine Only.leaf ?_ ?_)
    | (unfold Same; intro p hq; cases p <;> first | exact absurd (hp (by decide)) hq | dsimp only [Part.same])

theorem State.writeTarget_only {parts : List Part} {s0 s : State} (h : Only parts s0 s) (hp : [.objects, .dict,
      .ring, .supply] ⊆ parts) (val : List Byte) :
    Only parts s0 (State.writeTarget s val) := by
  unfold State.writeTarget
  repeat' first
    | with_reducible assumption | with_reducible exact List.Subset.trans (by decide) hp | with_reducible intro _
    | (with_reducible apply Only.ite) | (with_reducible apply State.setRec_only)
    | (with_reducible apply State.setSupply_only) | (with_reducible apply State.applyTarget_only) | (dsimp only)
    | split | (with_reducible refine Only.leaf ?_ ?_)
    | (unfold Same; intro p hq; cases p <;> first | exact absurd (hp (by decide)) hq | dsimp only [Part.same])

theorem execTargetTick_only {parts : List Part} {s0 s : State} (h : Only parts s0 s) (hp : [.hall, .time, .objects,
      .ring, .supply] ⊆ parts)  :
    OnlyO parts s0 (execTargetTick s) := by
  unfold execTargetTick
  repeat' first
    | with_reducible assumption | with_reducible exact List.Subset.trans (by decide) hp
    | (with_reducible apply act_only) | (with_reducible apply OnlyO.next) | with_reducible intro _
    | (with_reducible apply Only.ite) | (with_reducible apply State.reach_only)
    | (with_reducible apply State.applyTarget_only) | (dsimp only) | split
    | (with_reducible refine Only.leaf ?_ ?_)
    | (unfold Same; intro p hq; cases p <;> first | exact absurd (hp (by decide)) hq | dsimp only [Part.same])

theorem execTargetTimeoutExpire_only {parts : List Part} {s0 s : State} (h : Only parts s0 s) (hp : [.hall, .time,
      .objects, .ring, .supply] ⊆ parts)  :
    OnlyO parts s0 (execTargetTimeoutExpire s) := by
  unfold execTargetTimeoutExpire
  repeat' first
    | with_reducible assumption | with_reducible exact List.Subset.trans (by decide) hp
    | (with_reducible apply act_only) | with_reducible intro _ | (with_reducible apply State.reach_only)
    | (with_reducible apply State.log_only) | (with_reducible apply State.setSupply_only) | (dsimp only) | split
    | (with_reducible refine Only.leaf ?_ ?_)
    | (unfold Same; intro p hq; cases p <;> first | exact absurd (hp (by decide)) hq | dsimp only [Part.same])

theorem execOvervoltageDisconnect_only {parts : List Part} {s0 s : State} (h : Only parts s0 s) (hp : [.hall, .time,
      .objects, .ring, .supply, .alert] ⊆ parts)  :
    OnlyO parts s0 (execOvervoltageDisconnect s) := by
  unfold execOvervoltageDisconnect
  repeat' first
    | with_reducible assumption | with_reducible exact List.Subset.trans (by decide) hp
    | (with_reducible apply act_only) | with_reducible intro _ | (with_reducible apply Only.ite)
    | (with_reducible apply State.reach_only) | (with_reducible apply State.log_only)
    | (with_reducible apply State.alerting_only) | (with_reducible apply State.setSupply_only) | (dsimp only)
    | split | (with_reducible refine Only.leaf ?_ ?_)
    | (unfold Same; intro p hq; cases p <;> first | exact absurd (hp (by decide)) hq | dsimp only [Part.same])

theorem execOvervoltageReconnect_only {parts : List Part} {s0 s : State} (h : Only parts s0 s) (hp : [.hall, .time,
      .supply] ⊆ parts)  :
    OnlyO parts s0 (execOvervoltageReconnect s) := by
  unfold execOvervoltageReconnect
  repeat' first
    | with_reducible assumption | with_reducible exact List.Subset.trans (by decide) hp
    | (with_reducible apply act_only) | with_reducible intro _ | (with_reducible apply State.reach_only)
    | (with_reducible apply State.setSupply_only) | (dsimp only) | split | (with_reducible refine Only.leaf ?_ ?_)
    | (unfold Same; intro p hq; cases p <;> first | exact absurd (hp (by decide)) hq | dsimp only [Part.same])

theorem execPowerFail_only {parts : List Part} {s0 s : State} (h : Only parts s0 s) (hp : [.out, .hall, .down, .time,
      .tt, .hold, .links, .fabric, .mem, .poison, .stores, .maps, .imem, .accs, .cores, .ctxs, .sems, .movers,
      .posts, .dies, .mailboxes, .deltas, .regions, .spans, .invals, .watch, .train, .rope, .objects, .dict, .ring,
      .faults, .job, .msix, .host, .supply, .memctl, .alert, .boot] ⊆ parts)  :
    OnlyO parts s0 (execPowerFail s) := by
  unfold execPowerFail
  repeat' first
    | with_reducible assumption | with_reducible exact List.Subset.trans (by decide) hp
    | (with_reducible apply act_only) | with_reducible intro _ | (with_reducible apply Only.ite)
    | (with_reducible apply State.powerFail_only) | (dsimp only) | split | (with_reducible refine Only.leaf ?_ ?_)
    | (unfold Same; intro p hq; cases p <;> first | exact absurd (hp (by decide)) hq | dsimp only [Part.same])

theorem execPowerOn_only {parts : List Part} {s0 s : State} (h : Only parts s0 s) (hp : [.supply] ⊆ parts) (mv : Nat)
      :
    OnlyO parts s0 (execPowerOn mv s) := by
  unfold execPowerOn
  repeat' first
    | with_reducible assumption | with_reducible exact List.Subset.trans (by decide) hp
    | (with_reducible apply OnlyO.next) | with_reducible intro _ | (with_reducible apply Only.ite)
    | (with_reducible apply State.setSupply_only) | (dsimp only) | split | (with_reducible refine Only.leaf ?_ ?_)
    | (unfold Same; intro p hq; cases p <;> first | exact absurd (hp (by decide)) hq | dsimp only [Part.same])

theorem execPowerGood_only {parts : List Part} {s0 s : State} (h : Only parts s0 s) (hp : [.hall, .down, .time, .tt,
      .hold, .links, .fabric, .mem, .poison, .stores, .maps, .imem, .accs, .cores, .ctxs, .sems, .movers, .posts,
      .dies, .mailboxes, .deltas, .regions, .spans, .invals, .watch, .train, .rope, .objects, .dict, .ring, .faults,
      .job, .msix, .host, .supply, .memctl, .alert, .boot] ⊆ parts) (straps : BitVec 4) :
    OnlyO parts s0 (execPowerGood straps s) := by
  unfold execPowerGood
  repeat' first
    | with_reducible assumption | with_reducible exact List.Subset.trans (by decide) hp
    | (with_reducible apply OnlyO.next) | with_reducible intro _ | (with_reducible apply Only.ite)
    | (with_reducible apply State.setObj_only) | (with_reducible apply State.flashOnly_only) | (dsimp only) | split
    | (with_reducible refine Only.leaf ?_ ?_)
    | (unfold Same; intro p hq; cases p <;> first | exact absurd (hp (by decide)) hq | dsimp only [Part.same])

theorem State.thermalWarn_only {parts : List Part} {s0 s : State} (h : Only parts s0 s) (hp : [.objects, .ring,
      .supply, .alert] ⊆ parts)  :
    Only parts s0 (State.thermalWarn s) := by
  unfold State.thermalWarn
  repeat' first
    | with_reducible assumption | with_reducible exact List.Subset.trans (by decide) hp | with_reducible intro _
    | (with_reducible apply State.log_only) | (with_reducible apply State.alerting_only)
    | (with_reducible apply State.each_only) | (with_reducible apply State.setSupply_only) | (dsimp only) | split
    | (with_reducible refine Only.leaf ?_ ?_)
    | (unfold Same; intro p hq; cases p <;> first | exact absurd (hp (by decide)) hq | dsimp only [Part.same])

theorem State.thermalTrip_only {parts : List Part} {s0 s : State} (h : Only parts s0 s) (hp : [.out, .hold, .links,
      .ctxs, .objects, .ring, .msix, .supply, .alert] ⊆ parts)  :
    Only parts s0 (State.thermalTrip s) := by
  unfold State.thermalTrip
  repeat' first
    | with_reducible assumption | with_reducible exact List.Subset.trans (by decide) hp | with_reducible intro _
    | (with_reducible apply State.setSupply_only) | (with_reducible apply State.governorTrip_only)
    | (with_reducible apply State.noteClear_only) | (dsimp only) | split | (with_reducible refine Only.leaf ?_ ?_)
    | (unfold Same; intro p hq; cases p <;> first | exact absurd (hp (by decide)) hq | dsimp only [Part.same])

theorem State.noteCool_only {parts : List Part} {s0 s : State} (h : Only parts s0 s) (hp : [.supply] ⊆ parts)  :
    Only parts s0 (State.noteCool s) := by
  unfold State.noteCool
  repeat' first
    | with_reducible assumption | with_reducible exact List.Subset.trans (by decide) hp | with_reducible intro _
    | (with_reducible apply State.setSupply_only) | (dsimp only) | split | (with_reducible refine Only.leaf ?_ ?_)
    | (unfold Same; intro p hq; cases p <;> first | exact absurd (hp (by decide)) hq | dsimp only [Part.same])

theorem execThermalSample_only {parts : List Part} {s0 s : State} (h : Only parts s0 s) (hp : [.out, .hall, .down,
      .time, .tt, .hold, .links, .fabric, .mem, .poison, .stores, .maps, .imem, .accs, .cores, .ctxs, .sems, .movers,
      .posts, .dies, .mailboxes, .deltas, .regions, .spans, .invals, .watch, .train, .rope, .objects, .dict, .ring,
      .faults, .job, .msix, .host, .supply, .memctl, .alert, .boot] ⊆ parts) (dies hbms : List Int) (lid : Int) :
    OnlyO parts s0 (execThermalSample dies hbms lid s) := by
  unfold execThermalSample
  repeat' first
    | with_reducible assumption | with_reducible exact List.Subset.trans (by decide) hp
    | (with_reducible apply act_only) | with_reducible intro _ | (with_reducible apply Only.ite)
    | (with_reducible apply State.setSupply_only) | (with_reducible apply State.powerFail_only)
    | (with_reducible apply State.thermalWarn_only) | (with_reducible apply State.thermalTrip_only)
    | (with_reducible apply State.noteCool_only) | (dsimp only) | split | (with_reducible refine Only.leaf ?_ ?_)
    | (unfold Same; intro p hq; cases p <;> first | exact absurd (hp (by decide)) hq | dsimp only [Part.same])

theorem execThermalWarnClear_only {parts : List Part} {s0 s : State} (h : Only parts s0 s) (hp : [.hall, .time,
      .objects, .ring, .supply] ⊆ parts)  :
    OnlyO parts s0 (execThermalWarnClear s) := by
  unfold execThermalWarnClear
  repeat' first
    | with_reducible assumption | with_reducible exact List.Subset.trans (by decide) hp
    | (with_reducible apply act_only) | with_reducible intro _ | (with_reducible apply State.reach_only)
    | (with_reducible apply State.log_only) | (with_reducible apply State.setSupply_only) | (dsimp only) | split
    | (with_reducible refine Only.leaf ?_ ?_)
    | (unfold Same; intro p hq; cases p <;> first | exact absurd (hp (by decide)) hq | dsimp only [Part.same])

theorem execRefInLost_only {parts : List Part} {s0 s : State} (h : Only parts s0 s) (hp : [.out, .hold, .links,
      .ctxs, .objects, .ring, .msix, .supply, .alert] ⊆ parts)  :
    OnlyO parts s0 (execRefInLost s) := by
  unfold execRefInLost
  repeat' first
    | with_reducible assumption | with_reducible exact List.Subset.trans (by decide) hp
    | (with_reducible apply act_only) | with_reducible intro _ | (with_reducible apply Only.ite)
    | (with_reducible apply State.log_only) | (with_reducible apply State.alerting_only)
    | (with_reducible apply State.timeLoss_only) | (with_reducible apply State.setSupply_only) | (dsimp only)
    | split | (with_reducible refine Only.leaf ?_ ?_)
    | (unfold Same; intro p hq; cases p <;> first | exact absurd (hp (by decide)) hq | dsimp only [Part.same])

theorem execRefInRestore_only {parts : List Part} {s0 s : State} (h : Only parts s0 s) (hp : [.objects, .ring,
      .supply] ⊆ parts)  :
    OnlyO parts s0 (execRefInRestore s) := by
  unfold execRefInRestore
  repeat' first
    | with_reducible assumption | with_reducible exact List.Subset.trans (by decide) hp
    | (with_reducible apply act_only) | with_reducible intro _ | (with_reducible apply Only.ite)
    | (with_reducible apply State.log_only) | (with_reducible apply State.setSupply_only) | (dsimp only) | split
    | (with_reducible refine Only.leaf ?_ ?_)
    | (unfold Same; intro p hq; cases p <;> first | exact absurd (hp (by decide)) hq | dsimp only [Part.same])

theorem execCoreGate_only {parts : List Part} {s0 s : State} (h : Only parts s0 s) (hp : [.cores] ⊆ parts) (core :
      Core) :
    OnlyO parts s0 (execCoreGate core s) := by
  unfold execCoreGate
  repeat' first
    | with_reducible assumption | with_reducible exact List.Subset.trans (by decide) hp
    | (with_reducible apply act_only) | with_reducible intro _ | (with_reducible apply Only.ite)
    | (with_reducible apply State.mapCore_only) | (dsimp only) | split | (with_reducible refine Only.leaf ?_ ?_)
    | (unfold Same; intro p hq; cases p <;> first | exact absurd (hp (by decide)) hq | dsimp only [Part.same])

theorem State.coreAwakes_only {parts : List Part} {s0 s : State} (h : Only parts s0 s) (hp : [.out, .hold, .links,
      .stores, .cores, .ctxs, .sems, .movers, .dies, .objects, .ring, .msix, .supply, .alert] ⊆ parts) (c : Nat) :
    Only parts s0 (State.coreAwakes s c) := by
  unfold State.coreAwakes
  repeat' first
    | with_reducible assumption | with_reducible exact List.Subset.trans (by decide) hp | with_reducible intro _
    | (with_reducible apply State.on_only) | (with_reducible apply State.mapCore_only)
    | (with_reducible apply State.mapCtx_only) | (with_reducible apply State.setMover_only)
    | (with_reducible apply State.each_only) | (with_reducible apply State.post_only)
    | (with_reducible apply State.writeScale_only) | (dsimp only) | split | (with_reducible refine Only.leaf ?_ ?_)
    | (unfold Same; intro p hq; cases p <;> first | exact absurd (hp (by decide)) hq | dsimp only [Part.same])

theorem execCoreWakeComplete_only {parts : List Part} {s0 s : State} (h : Only parts s0 s) (hp : [.out, .hall, .time,
      .hold, .links, .stores, .cores, .ctxs, .sems, .movers, .dies, .objects, .ring, .msix, .supply, .alert] ⊆ parts)
      (core : Core) :
    OnlyO parts s0 (execCoreWakeComplete core s) := by
  unfold execCoreWakeComplete
  repeat' first
    | with_reducible assumption | with_reducible exact List.Subset.trans (by decide) hp
    | (with_reducible apply act_only) | with_reducible intro _ | (with_reducible apply Only.ite)
    | (with_reducible apply State.reach_only) | (with_reducible apply State.coreAwakes_only) | (dsimp only) | split
    | (with_reducible refine Only.leaf ?_ ?_)
    | (unfold Same; intro p hq; cases p <;> first | exact absurd (hp (by decide)) hq | dsimp only [Part.same])

theorem execDieWakeComplete_only {parts : List Part} {s0 s : State} (h : Only parts s0 s) (hp : [.hall, .time,
      .cores, .dies, .supply] ⊆ parts) (die : Die) :
    OnlyO parts s0 (execDieWakeComplete die s) := by
  unfold execDieWakeComplete
  repeat' first
    | with_reducible assumption | with_reducible exact List.Subset.trans (by decide) hp
    | (with_reducible apply act_only) | with_reducible intro _ | (with_reducible apply Only.ite)
    | (with_reducible apply State.reach_only) | (with_reducible apply State.mapCore_only)
    | (with_reducible apply State.setDie_only) | (with_reducible apply State.each_only)
    | (with_reducible apply State.setSupply_only) | (dsimp only) | split | (with_reducible refine Only.leaf ?_ ?_)
    | (unfold Same; intro p hq; cases p <;> first | exact absurd (hp (by decide)) hq | dsimp only [Part.same])

end Sys2Proof.Machine
end

