-- ==== Sys2Proof/Laws/OnlySweep.lean ====
section
/-!
SUPPORT. What the operations of Machine/Sweep.lean can change (Laws/Only.lean).
-/

namespace Sys2Proof.Machine

theorem execNormRecordWrite_only {parts : List Part} {s0 s : State} (h : Only parts s0 s) (hp : [.hold, .mailboxes,
      .watch, .train] ⊆ parts)  :
    OnlyO parts s0 (execNormRecordWrite s) := by
  unfold execNormRecordWrite
  repeat' first
    | with_reducible assumption | with_reducible exact List.Subset.trans (by decide) hp
    | (with_reducible apply act_only) | with_reducible intro _ | (with_reducible apply Only.ite)
    | (with_reducible apply State.setHold_only) | (with_reducible apply State.setWatch_only)
    | (with_reducible apply State.setTrain_only) | (with_reducible apply State.setMailbox_only) | (dsimp only)
    | split | (with_reducible refine Only.leaf ?_ ?_)
    | (unfold Same; intro p hq; cases p <;> first | exact absurd (hp (by decide)) hq | dsimp only [Part.same])

theorem State.loadShardFp_only {parts : List Part} {s0 s : State} (h : Only parts s0 s) (hp : [.objects] ⊆ parts)  :
    Only parts s0 (State.loadShardFp s) := by
  unfold State.loadShardFp
  repeat' first
    | with_reducible assumption | with_reducible exact List.Subset.trans (by decide) hp | with_reducible intro _
    | (with_reducible apply State.setObj_only) | (dsimp only) | split | (with_reducible refine Only.leaf ?_ ?_)
    | (unfold Same; intro p hq; cases p <;> first | exact absurd (hp (by decide)) hq | dsimp only [Part.same])

theorem execFpRecordWrite_only {parts : List Part} {s0 s : State} (h : Only parts s0 s) (hp : [.hall, .time,
      .mailboxes, .train] ⊆ parts)  :
    OnlyO parts s0 (execFpRecordWrite s) := by
  unfold execFpRecordWrite
  repeat' first
    | with_reducible assumption | with_reducible exact List.Subset.trans (by decide) hp
    | (with_reducible apply act_only) | with_reducible intro _ | (with_reducible apply Only.ite)
    | (with_reducible apply State.setTrain_only) | (with_reducible apply State.atStep_only)
    | (with_reducible apply State.setMailbox_only) | (dsimp only) | split | (with_reducible refine Only.leaf ?_ ?_)
    | (unfold Same; intro p hq; cases p <;> first | exact absurd (hp (by decide)) hq | dsimp only [Part.same])

theorem State.momentsBlk_only {parts : List Part} {s0 s : State} (h : Only parts s0 s) (hp : [.mem, .poison,
      .objects] ⊆ parts) (ps : List TcEntry) (sw : Sweep) (k : Blk) :
    Only parts s0 (State.momentsBlk s ps sw k).1 := by
  unfold State.momentsBlk
  repeat' first
    | with_reducible assumption | with_reducible exact List.Subset.trans (by decide) hp | with_reducible intro _
    | (with_reducible apply Only.ite) | (with_reducible apply Only.ite1)
    | (with_reducible apply State.countFlushed_only) | (with_reducible apply State.eWrites_only)
    | (with_reducible apply Only.foldl) | (with_reducible apply Only.foldl1) | (with_reducible apply Only.foldl2)
    | (with_reducible refine Only.fst ?_ (by assumption)) | (dsimp only) | split
    | (with_reducible refine Only.leaf ?_ ?_)
    | (unfold Same; intro p hq; cases p <;> first | exact absurd (hp (by decide)) hq | dsimp only [Part.same])

theorem State.weightsBlk_only {parts : List Part} {s0 s : State} (h : Only parts s0 s) (hp : [.mem, .poison, .deltas,
      .objects] ⊆ parts) (ps : List TcEntry) (sw : Sweep) (k : Blk) (tag : Nat) :
    Only parts s0 (State.weightsBlk s ps sw k tag).1 := by
  unfold State.weightsBlk
  repeat' first
    | with_reducible assumption | with_reducible exact List.Subset.trans (by decide) hp | with_reducible intro _
    | (with_reducible apply State.countFlushed_only) | (with_reducible apply Eff.andThen_only)
    | (with_reducible apply State.ok_only) | (with_reducible apply State.eWrites_only)
    | (with_reducible apply State.tallyBlocks_only) | (with_reducible apply State.countSlots_only)
    | (with_reducible apply State.moveShardFp_only) | (with_reducible apply Only.foldl)
    | (with_reducible apply Only.foldl1) | (with_reducible apply Only.foldl2)
    | (with_reducible refine Only.fst ?_ (by assumption)) | (dsimp only) | split
    | (with_reducible refine Only.leaf ?_ ?_)
    | (unfold Same; intro p hq; cases p <;> first | exact absurd (hp (by decide)) hq | dsimp only [Part.same])

theorem State.cursorWrite_only {parts : List Part} {s0 s : State} (h : Only parts s0 s) (hp : [.mem, .poison] ⊆
      parts) (ps : List TcEntry) (sw : Sweep) (n i : Nat) :
    Only parts s0 (State.cursorWrite s ps sw n i).1 := by
  unfold State.cursorWrite
  repeat' first
    | with_reducible assumption | with_reducible exact List.Subset.trans (by decide) hp | with_reducible intro _
    | (with_reducible apply State.eWrite_only) | (with_reducible refine Only.fst ?_ (by assumption)) | (dsimp only)
    | split | (with_reducible refine Only.leaf ?_ ?_)
    | (unfold Same; intro p hq; cases p <;> first | exact absurd (hp (by decide)) hq | dsimp only [Part.same])

theorem State.sweepBlk_only {parts : List Part} {s0 s : State} (h : Only parts s0 s) (hp : [.out, .hold, .links,
      .fabric, .mem, .poison, .ctxs, .sems, .movers, .deltas, .train, .rope, .objects, .ring, .faults, .msix, .alert]
      ⊆ parts) (sw : Sweep) (i : Nat) (k : Blk) :
    Only parts s0 (State.sweepBlk s sw i k).1 := by
  unfold State.sweepBlk
  repeat' first
    | with_reducible assumption | with_reducible exact List.Subset.trans (by decide) hp | with_reducible intro _
    | (with_reducible apply Only.ite) | (with_reducible apply Only.ite1)
    | (with_reducible apply State.enginePages_only) | (with_reducible apply Eff.andThen_only)
    | (with_reducible apply State.ok_only) | (with_reducible apply State.tagFault_only)
    | (with_reducible apply Eff.settle_only) | (with_reducible apply State.outerBlk_only)
    | (with_reducible apply State.ropeBlk_only) | (with_reducible apply State.momentsBlk_only)
    | (with_reducible apply State.weightsBlk_only) | (with_reducible apply State.cursorWrite_only)
    | (with_reducible refine Only.fst ?_ (by assumption)) | (dsimp only) | split
    | (with_reducible refine Only.leaf ?_ ?_)
    | (unfold Same; intro p hq; cases p <;> first | exact absurd (hp (by decide)) hq | dsimp only [Part.same])

theorem State.openStream_only {parts : List Part} {s0 s : State} (h : Only parts s0 s) (hp : [.poison, .rope] ⊆
      parts) (sw : Sweep) (n : Nat) :
    Only parts s0 (State.openStream s sw n) := by
  unfold State.openStream
  repeat' first
    | with_reducible assumption | with_reducible exact List.Subset.trans (by decide) hp | with_reducible intro _
    | (with_reducible apply Only.ite) | (with_reducible apply State.setStream_only) | (dsimp only) | split
    | (with_reducible refine Only.leaf ?_ ?_)
    | (unfold Same; intro p hq; cases p <;> first | exact absurd (hp (by decide)) hq | dsimp only [Part.same])

theorem State.sweepEngine_only {parts : List Part} {s0 s : State} (h : Only parts s0 s) (hp : [.out, .hold, .links,
      .fabric, .mem, .poison, .ctxs, .sems, .movers, .deltas, .train, .rope, .objects, .ring, .faults, .msix, .alert]
      ⊆ parts) (n : Nat) :
    Only parts s0 (State.sweepEngine s n) := by
  unfold State.sweepEngine
  repeat' first
    | with_reducible assumption | with_reducible exact List.Subset.trans (by decide) hp | with_reducible intro _
    | (with_reducible apply Only.ite) | (with_reducible apply State.setEngineSt_only)
    | (with_reducible apply Eff.andThen_only) | (with_reducible apply State.ok_only)
    | (with_reducible apply State.sweepBlk_only) | (with_reducible apply State.openStream_only)
    | (with_reducible apply Only.foldl) | (with_reducible apply Only.foldl1) | (with_reducible apply Only.foldl2)
    | (with_reducible refine Only.fst ?_ (by assumption)) | (dsimp only) | split
    | (with_reducible refine Only.leaf ?_ ?_)
    | (unfold Same; intro p hq; cases p <;> first | exact absurd (hp (by decide)) hq | dsimp only [Part.same])

theorem State.setStepRec_only {parts : List Part} {s0 s : State} (h : Only parts s0 s) (hp : [.mem, .poison,
      .objects] ⊆ parts) (w : Nat) :
    Only parts s0 (State.setStepRec s w) := by
  unfold State.setStepRec
  repeat' first
    | with_reducible assumption | with_reducible exact List.Subset.trans (by decide) hp | with_reducible intro _
    | (with_reducible apply State.setObj_only) | (with_reducible apply State.mpWrite_only) | (dsimp only) | split
    | (with_reducible refine Only.leaf ?_ ?_)
    | (unfold Same; intro p hq; cases p <;> first | exact absurd (hp (by decide)) hq | dsimp only [Part.same])

theorem State.nextStep_only {parts : List Part} {s0 s : State} (h : Only parts s0 s) (hp : [.train] ⊆ parts)  :
    Only parts s0 (State.nextStep s) := by
  unfold State.nextStep
  repeat' first
    | with_reducible assumption | with_reducible exact List.Subset.trans (by decide) hp | with_reducible intro _
    | (with_reducible apply State.setTrain_only) | (dsimp only) | split | (with_reducible refine Only.leaf ?_ ?_)
    | (unfold Same; intro p hq; cases p <;> first | exact absurd (hp (by decide)) hq | dsimp only [Part.same])

theorem State.decided_only {parts : List Part} {s0 s : State} (h : Only parts s0 s) (hp : [.out, .stores, .cores,
      .watch, .train, .objects, .dict, .ring, .msix] ⊆ parts) (d : Decision) :
    Only parts s0 (State.decided s d) := by
  unfold State.decided
  repeat' first
    | with_reducible assumption | with_reducible exact List.Subset.trans (by decide) hp
    | (with_reducible apply OnlyO.next) | with_reducible intro _ | (with_reducible apply State.closeEpoch_only)
    | (with_reducible apply State.lossScale_only) | (with_reducible apply State.nextStep_only) | (dsimp only)
    | split | (with_reducible refine Only.leaf ?_ ?_)
    | (unfold Same; intro p hq; cases p <;> first | exact absurd (hp (by decide)) hq | dsimp only [Part.same])

theorem State.skipStep_only {parts : List Part} {s0 s : State} (h : Only parts s0 s) (hp : [.out, .stores, .cores,
      .watch, .train, .objects, .dict, .ring, .msix] ⊆ parts) (d : Decision) :
    Only parts s0 (State.skipStep s d) := by
  unfold State.skipStep
  repeat' first
    | with_reducible assumption | with_reducible exact List.Subset.trans (by decide) hp | with_reducible intro _
    | (with_reducible apply Only.ite) | (with_reducible apply State.count_only)
    | (with_reducible apply State.log_only) | (with_reducible apply State.decided_only) | (dsimp only) | split
    | (with_reducible refine Only.leaf ?_ ?_)
    | (unfold Same; intro p hq; cases p <;> first | exact absurd (hp (by decide)) hq | dsimp only [Part.same])

theorem State.commitStep_only {parts : List Part} {s0 s : State} (h : Only parts s0 s) (hp : [.out, .hold, .links,
      .fabric, .mem, .poison, .stores, .cores, .ctxs, .sems, .movers, .deltas, .watch, .train, .rope, .objects,
      .dict, .ring, .faults, .msix, .alert] ⊆ parts) (norm : Nat) :
    Only parts s0 (State.commitStep s norm) := by
  unfold State.commitStep
  repeat' first
    | with_reducible assumption | with_reducible exact List.Subset.trans (by decide) hp | with_reducible intro _
    | (with_reducible apply Only.ite) | (with_reducible apply State.on_only)
    | (with_reducible apply State.setObj_only) | (with_reducible apply State.each_only)
    | (with_reducible apply State.setTrain_only) | (with_reducible apply State.setRope_only)
    | (with_reducible apply State.setRopeRec_only) | (with_reducible apply State.reuseArea_only)
    | (with_reducible apply State.sweepEngine_only) | (with_reducible apply State.setStepRec_only)
    | (with_reducible apply State.decided_only) | (dsimp only) | split | (with_reducible refine Only.leaf ?_ ?_)
    | (unfold Same; intro p hq; cases p <;> first | exact absurd (hp (by decide)) hq | dsimp only [Part.same])

theorem execCommitDecision_only {parts : List Part} {s0 s : State} (h : Only parts s0 s) (hp : [.out, .hall, .time,
      .hold, .links, .fabric, .mem, .poison, .stores, .cores, .ctxs, .sems, .movers, .deltas, .watch, .train, .rope,
      .objects, .dict, .ring, .faults, .msix, .alert] ⊆ parts)  :
    OnlyO parts s0 (execCommitDecision s) := by
  unfold execCommitDecision
  repeat' first
    | with_reducible assumption | with_reducible exact List.Subset.trans (by decide) hp
    | (with_reducible apply act_only) | with_reducible intro _ | (with_reducible apply Only.ite)
    | (with_reducible apply State.atStep_only) | (with_reducible apply State.skipStep_only)
    | (with_reducible apply State.commitStep_only) | (with_reducible apply Only.foldl)
    | (with_reducible apply Only.foldl1) | (with_reducible apply Only.foldl2) | (dsimp only) | split
    | (with_reducible refine Only.leaf ?_ ?_)
    | (unfold Same; intro p hq; cases p <;> first | exact absurd (hp (by decide)) hq | dsimp only [Part.same])

theorem execSweepLimitExpire_only {parts : List Part} {s0 s : State} (h : Only parts s0 s) (hp : [.hall, .time,
      .hold, .train, .objects, .ring] ⊆ parts)  :
    OnlyO parts s0 (execSweepLimitExpire s) := by
  unfold execSweepLimitExpire
  repeat' first
    | with_reducible assumption | with_reducible exact List.Subset.trans (by decide) hp
    | (with_reducible apply act_only) | with_reducible intro _ | (with_reducible apply Only.ite)
    | (with_reducible apply State.reach_only) | (with_reducible apply State.count_only)
    | (with_reducible apply State.log_only) | (with_reducible apply State.schedFault_only)
    | (with_reducible apply State.setTrain_only) | (dsimp only) | split | (with_reducible refine Only.leaf ?_ ?_)
    | (unfold Same; intro p hq; cases p <;> first | exact absurd (hp (by decide)) hq | dsimp only [Part.same])

theorem State.resumeSweeps_only {parts : List Part} {s0 s : State} (h : Only parts s0 s) (hp : [.out, .hold, .links,
      .fabric, .mem, .poison, .ctxs, .sems, .movers, .deltas, .train, .rope, .objects, .ring, .faults, .msix, .alert]
      ⊆ parts)  :
    Only parts s0 (State.resumeSweeps s) := by
  unfold State.resumeSweeps
  repeat' first
    | with_reducible assumption | with_reducible exact List.Subset.trans (by decide) hp | with_reducible intro _
    | (with_reducible apply Only.ite) | (with_reducible apply State.count_only)
    | (with_reducible apply State.log_only) | (with_reducible apply State.each_only)
    | (with_reducible apply State.sweepEngine_only) | (dsimp only) | split
    | (with_reducible refine Only.leaf ?_ ?_)
    | (unfold Same; intro p hq; cases p <;> first | exact absurd (hp (by decide)) hq | dsimp only [Part.same])

theorem State.setStateStatus_only {parts : List Part} {s0 s : State} (h : Only parts s0 s) (hp : [.dict] ⊆ parts) (f
      : Option StateFault) :
    Only parts s0 (State.setStateStatus s f) := by
  unfold State.setStateStatus
  repeat' first
    | with_reducible assumption | with_reducible exact List.Subset.trans (by decide) hp | with_reducible intro _
    | (with_reducible apply hf) | (with_reducible apply State.setRec_only)
    | (with_reducible refine OnlyOpt.get ?_ (by assumption)) | (with_reducible apply OnlyOpt.getD) | (dsimp only)
    | split | (with_reducible refine Only.leaf ?_ ?_)
    | (unfold Same; intro p hq; cases p <;> first | exact absurd (hp (by decide)) hq | dsimp only [Part.same])

theorem State.rebuildBlk_only {parts : List Part} {s0 s : State} (h : Only parts s0 s) (hp : [.mem, .poison, .deltas,
      .train, .objects] ⊆ parts) (k : Blk) (check : Nat → Bool) (tag : Bool) :
    Only parts s0 (State.rebuildBlk s k check tag).1 := by
  unfold State.rebuildBlk
  repeat' first
    | with_reducible assumption | with_reducible exact List.Subset.trans (by decide) hp | with_reducible intro _
    | (with_reducible apply Only.ite) | (with_reducible apply Only.ite1)
    | (with_reducible apply State.countFlushed_only) | (with_reducible apply State.enginePages_only)
    | (with_reducible apply Eff.andThen_only) | (with_reducible apply State.ok_only)
    | (with_reducible apply State.eWrite_only) | (with_reducible apply State.eWrites_only)
    | (with_reducible apply State.tallyBlocks_only) | (with_reducible apply State.countSlots_only)
    | (with_reducible refine Only.fst ?_ (by assumption)) | (dsimp only) | split
    | (with_reducible refine Only.leaf ?_ ?_)
    | (unfold Same; intro p hq; cases p <;> first | exact absurd (hp (by decide)) hq | dsimp only [Part.same])

theorem State.rebuildAll_only {parts : List Part} {s0 s : State} (h : Only parts s0 s) (hp : [.mem, .poison, .deltas,
      .train, .objects] ⊆ parts) (step : Nat) (fresh : Bool) :
    Only parts s0 (State.rebuildAll s step fresh).1 := by
  unfold State.rebuildAll
  repeat' first
    | with_reducible assumption | with_reducible exact List.Subset.trans (by decide) hp | with_reducible intro _
    | (with_reducible apply Only.ite) | (with_reducible apply Only.ite1)
    | (with_reducible apply State.rebuildBlk_only) | (with_reducible apply Only.foldl)
    | (with_reducible apply Only.foldl1) | (with_reducible apply Only.foldl2)
    | (with_reducible refine Only.fst ?_ (by assumption)) | (dsimp only) | split
    | (with_reducible refine Only.leaf ?_ ?_)
    | (unfold Same; intro p hq; cases p <;> first | exact absurd (hp (by decide)) hq | dsimp only [Part.same])

theorem State.formRopeFps_only {parts : List Part} {s0 s : State} (h : Only parts s0 s) (hp : [.mem, .poison,
      .objects] ⊆ parts)  :
    Only parts s0 (State.formRopeFps s) := by
  unfold State.formRopeFps
  repeat' first
    | with_reducible assumption | with_reducible exact List.Subset.trans (by decide) hp | with_reducible intro _
    | (with_reducible apply Only.ite) | (with_reducible apply State.setRopeRec_only)
    | (with_reducible apply Only.foldl) | (with_reducible apply Only.foldl1) | (with_reducible apply Only.foldl2)
    | (dsimp only) | split | (with_reducible refine Only.leaf ?_ ?_)
    | (unfold Same; intro p hq; cases p <;> first | exact absurd (hp (by decide)) hq | dsimp only [Part.same])

theorem State.freshRecords_only {parts : List Part} {s0 s : State} (h : Only parts s0 s) (hp : [.mem, .poison,
      .objects] ⊆ parts)  :
    Only parts s0 (State.freshRecords s) := by
  unfold State.freshRecords
  repeat' first
    | with_reducible assumption | with_reducible exact List.Subset.trans (by decide) hp | with_reducible intro _
    | (with_reducible apply State.mpWrite_only) | (with_reducible apply State.setStepRec_only) | (dsimp only)
    | split | (with_reducible refine Only.leaf ?_ ?_)
    | (unfold Same; intro p hq; cases p <;> first | exact absurd (hp (by decide)) hq | dsimp only [Part.same])

theorem State.freshRope_only {parts : List Part} {s0 s : State} (h : Only parts s0 s) (hp : [.mem, .poison, .objects]
      ⊆ parts)  :
    Only parts s0 (State.freshRope s) := by
  unfold State.freshRope
  repeat' first
    | with_reducible assumption | with_reducible exact List.Subset.trans (by decide) hp | with_reducible intro _
    | (with_reducible apply Only.ite) | (with_reducible apply State.mpWrite_only)
    | (with_reducible apply State.setRopeRec_only) | (with_reducible apply State.formRopeFps_only) | (dsimp only)
    | split | (with_reducible refine Only.leaf ?_ ?_)
    | (unfold Same; intro p hq; cases p <;> first | exact absurd (hp (by decide)) hq | dsimp only [Part.same])

theorem State.freshStart_only {parts : List Part} {s0 s : State} (h : Only parts s0 s) (hp : [.mem, .poison, .deltas,
      .train, .rope, .objects] ⊆ parts)  :
    Only parts s0 (State.freshStart s) := by
  unfold State.freshStart
  repeat' first
    | with_reducible assumption | with_reducible exact List.Subset.trans (by decide) hp | with_reducible intro _
    | (with_reducible apply Only.ite) | (with_reducible apply State.setTrain_only)
    | (with_reducible apply State.setRope_only) | (with_reducible apply State.rebuildAll_only)
    | (with_reducible apply State.freshRecords_only) | (with_reducible apply State.freshRope_only)
    | (with_reducible refine Only.fst ?_ (by assumption)) | (dsimp only) | split
    | (with_reducible refine Only.leaf ?_ ?_)
    | (unfold Same; intro p hq; cases p <;> first | exact absurd (hp (by decide)) hq | dsimp only [Part.same])

theorem State.restoreState_only {parts : List Part} {s0 s : State} (h : Only parts s0 s) (hp : [.mem, .poison,
      .deltas, .train, .rope, .objects] ⊆ parts)  :
    Only parts s0 (State.restoreState s) := by
  unfold State.restoreState
  repeat' first
    | with_reducible assumption | with_reducible exact List.Subset.trans (by decide) hp | with_reducible intro _
    | (with_reducible apply Only.ite) | (with_reducible apply State.setTrain_only)
    | (with_reducible apply State.setRope_only) | (with_reducible apply State.rebuildAll_only)
    | (with_reducible refine Only.fst ?_ (by assumption)) | (dsimp only) | split
    | (with_reducible refine Only.leaf ?_ ?_)
    | (unfold Same; intro p hq; cases p <;> first | exact absurd (hp (by decide)) hq | dsimp only [Part.same])

theorem execRestoreComplete_only {parts : List Part} {s0 s : State} (h : Only parts s0 s) (hp : [.mem, .poison,
      .train, .objects, .dict, .ring] ⊆ parts)  :
    OnlyO parts s0 (execRestoreComplete s) := by
  unfold execRestoreComplete
  repeat' first
    | with_reducible assumption | with_reducible exact List.Subset.trans (by decide) hp
    | (with_reducible apply act_only) | with_reducible intro _ | (with_reducible apply State.log_only)
    | (with_reducible apply State.setTrain_only) | (with_reducible apply State.loadShardFp_only)
    | (with_reducible apply State.setStepRec_only) | (with_reducible apply State.setStateStatus_only)
    | (dsimp only) | split | (with_reducible refine Only.leaf ?_ ?_)
    | (unfold Same; intro p hq; cases p <;> first | exact absurd (hp (by decide)) hq | dsimp only [Part.same])

theorem execBelayManifestWrite_only {parts : List Part} {s0 s : State} (h : Only parts s0 s) (hp : [.mem, .poison,
      .train, .objects, .ring] ⊆ parts)  :
    OnlyO parts s0 (execBelayManifestWrite s) := by
  unfold execBelayManifestWrite
  repeat' first
    | with_reducible assumption | with_reducible exact List.Subset.trans (by decide) hp
    | (with_reducible apply act_only) | with_reducible intro _ | (with_reducible apply Only.ite)
    | (with_reducible apply State.log_only) | (with_reducible apply State.mpWrite_only)
    | (with_reducible apply State.setTrain_only) | (dsimp only) | split | (with_reducible refine Only.leaf ?_ ?_)
    | (unfold Same; intro p hq; cases p <;> first | exact absurd (hp (by decide)) hq | dsimp only [Part.same])

end Sys2Proof.Machine
end

