-- ==== Sys2Proof/Laws/OnlyReplica.lean ====
section
/-!
SUPPORT. What the operations of Machine/Replica.lean can change (Laws/Only.lean).
-/

namespace Sys2Proof.Machine

theorem State.repairFails_only {parts : List Part} {s0 s : State} (h : Only parts s0 s) (hp : [.out, .hold, .links,
      .ctxs, .train, .objects, .ring, .msix, .alert] ⊆ parts)  :
    Only parts s0 (State.repairFails s) := by
  unfold State.repairFails
  repeat' first
    | with_reducible assumption | with_reducible exact List.Subset.trans (by decide) hp | with_reducible intro _
    | (with_reducible apply State.setRepair_only) | (with_reducible apply State.repairImpossible_only)
    | (dsimp only) | split | (with_reducible refine Only.leaf ?_ ?_)
    | (unfold Same; intro p hq; cases p <;> first | exact absurd (hp (by decide)) hq | dsimp only [Part.same])

theorem State.repairEnds_only {parts : List Part} {s0 s : State} (h : Only parts s0 s) (hp : [.train, .objects,
      .ring] ⊆ parts) (r : Repair) :
    Only parts s0 (State.repairEnds s r) := by
  unfold State.repairEnds
  repeat' first
    | with_reducible assumption | with_reducible exact List.Subset.trans (by decide) hp | with_reducible intro _
    | (with_reducible apply State.log_only) | (with_reducible apply State.setRepair_only) | (dsimp only) | split
    | (with_reducible refine Only.leaf ?_ ?_)
    | (unfold Same; intro p hq; cases p <;> first | exact absurd (hp (by decide)) hq | dsimp only [Part.same])

theorem State.askPiece_only {parts : List Part} {s0 s : State} (h : Only parts s0 s) (hp : [.out, .links, .fabric,
      .objects, .dict, .ring] ⊆ parts) (r : Repair) (sub offset total : Nat) :
    Only parts s0 (State.askPiece s r sub offset total) := by
  unfold State.askPiece
  repeat' first
    | with_reducible assumption | with_reducible exact List.Subset.trans (by decide) hp | with_reducible intro _
    | (with_reducible apply State.ownRequest_only) | (dsimp only) | split | (with_reducible refine Only.leaf ?_ ?_)
    | (unfold Same; intro p hq; cases p <;> first | exact absurd (hp (by decide)) hq | dsimp only [Part.same])

theorem State.askSpans_only {parts : List Part} {s0 s : State} (h : Only parts s0 s) (hp : [.out, .links, .fabric,
      .train, .objects, .dict, .ring] ⊆ parts) (r : Repair) :
    Only parts s0 (State.askSpans s r) := by
  unfold State.askSpans
  repeat' first
    | with_reducible assumption | with_reducible exact List.Subset.trans (by decide) hp | with_reducible intro _
    | (with_reducible apply Only.ite) | (with_reducible apply State.setRepair_only)
    | (with_reducible apply State.askPiece_only) | (dsimp only) | split | (with_reducible refine Only.leaf ?_ ?_)
    | (unfold Same; intro p hq; cases p <;> first | exact absurd (hp (by decide)) hq | dsimp only [Part.same])

theorem State.askBlocks_only {parts : List Part} {s0 s : State} (h : Only parts s0 s) (hp : [.out, .links, .fabric,
      .train, .objects, .dict, .ring] ⊆ parts) (r : Repair) (spans : List Nat) :
    Only parts s0 (State.askBlocks s r spans) := by
  unfold State.askBlocks
  repeat' first
    | with_reducible assumption | with_reducible exact List.Subset.trans (by decide) hp | with_reducible intro _
    | (with_reducible apply State.setRepair_only) | (with_reducible apply State.askPiece_only) | (dsimp only)
    | split | (with_reducible refine Only.leaf ?_ ?_)
    | (unfold Same; intro p hq; cases p <;> first | exact absurd (hp (by decide)) hq | dsimp only [Part.same])

theorem State.repairCheck_only {parts : List Part} {s0 s : State} (h : Only parts s0 s) (hp : [.out, .hold, .links,
      .fabric, .ctxs, .train, .objects, .dict, .ring, .msix, .alert] ⊆ parts) (r : Repair) :
    Only parts s0 (State.repairCheck s r) := by
  unfold State.repairCheck
  repeat' first
    | with_reducible assumption | with_reducible exact List.Subset.trans (by decide) hp | with_reducible intro _
    | (with_reducible apply Only.ite) | (with_reducible apply State.repairFails_only)
    | (with_reducible apply State.repairEnds_only) | (with_reducible apply State.askSpans_only) | (dsimp only)
    | split | (with_reducible refine Only.leaf ?_ ?_)
    | (unfold Same; intro p hq; cases p <;> first | exact absurd (hp (by decide)) hq | dsimp only [Part.same])

theorem State.repairIfDone_only {parts : List Part} {s0 s : State} (h : Only parts s0 s) (hp : [.out, .hold, .links,
      .fabric, .ctxs, .train, .objects, .dict, .ring, .msix, .alert] ⊆ parts)  :
    Only parts s0 (State.repairIfDone s) := by
  unfold State.repairIfDone
  repeat' first
    | with_reducible assumption | with_reducible exact List.Subset.trans (by decide) hp | with_reducible intro _
    | (with_reducible apply Only.ite) | (with_reducible apply State.repairCheck_only) | (dsimp only) | split
    | (with_reducible refine Only.leaf ?_ ?_)
    | (unfold Same; intro p hq; cases p <;> first | exact absurd (hp (by decide)) hq | dsimp only [Part.same])

theorem State.dropReads_only {parts : List Part} {s0 s : State} (h : Only parts s0 s) (hp : [.fabric] ⊆ parts)  :
    Only parts s0 (State.dropReads s) := by
  unfold State.dropReads
  repeat' first
    | with_reducible assumption | with_reducible exact List.Subset.trans (by decide) hp | with_reducible intro _
    | (dsimp only) | split | (with_reducible refine Only.leaf ?_ ?_)
    | (unfold Same; intro p hq; cases p <;> first | exact absurd (hp (by decide)) hq | dsimp only [Part.same])

theorem State.sourceFails_only {parts : List Part} {s0 s : State} (h : Only parts s0 s) (hp : [.out, .hold, .links,
      .fabric, .ctxs, .movers, .train, .objects, .dict, .ring, .msix, .alert] ⊆ parts) (r : Repair) :
    Only parts s0 (State.sourceFails s r) := by
  unfold State.sourceFails
  repeat' first
    | with_reducible assumption | with_reducible exact List.Subset.trans (by decide) hp
    | (with_reducible apply OnlyO.next) | with_reducible intro _ | (with_reducible apply State.setRepair_only)
    | (with_reducible apply State.askRepair_only) | (with_reducible apply State.repairFails_only)
    | (with_reducible apply State.askSpans_only) | (with_reducible apply State.dropReads_only) | (dsimp only)
    | split | (with_reducible refine Only.leaf ?_ ?_)
    | (unfold Same; intro p hq; cases p <;> first | exact absurd (hp (by decide)) hq | dsimp only [Part.same])

theorem State.copyFails_only {parts : List Part} {s0 s : State} (h : Only parts s0 s) (hp : [.out, .hold, .links,
      .fabric, .ctxs, .movers, .train, .objects, .dict, .ring, .msix, .alert] ⊆ parts) (c : Nat) :
    Only parts s0 (State.copyFails s c) := by
  unfold State.copyFails
  repeat' first
    | with_reducible assumption | with_reducible exact List.Subset.trans (by decide) hp | with_reducible intro _
    | (with_reducible apply Only.ite) | (with_reducible apply State.sourceFails_only) | (dsimp only) | split
    | (with_reducible refine Only.leaf ?_ ?_)
    | (unfold Same; intro p hq; cases p <;> first | exact absurd (hp (by decide)) hq | dsimp only [Part.same])

theorem State.repairMoves_only {parts : List Part} {s0 s : State} (h : Only parts s0 s) (hp : [.out, .hold, .links,
      .fabric, .ctxs, .movers, .train, .objects, .dict, .ring, .msix, .alert] ⊆ parts)  :
    Only parts s0 (State.repairMoves s) := by
  unfold State.repairMoves
  repeat' first
    | with_reducible assumption | with_reducible exact List.Subset.trans (by decide) hp | with_reducible intro _
    | (with_reducible apply Only.ite) | (with_reducible apply State.sourceFails_only) | (dsimp only) | split
    | (with_reducible refine Only.leaf ?_ ?_)
    | (unfold Same; intro p hq; cases p <;> first | exact absurd (hp (by decide)) hq | dsimp only [Part.same])

theorem State.judgeValues_only {parts : List Part} {s0 s : State} (h : Only parts s0 s) (hp : [.out, .hold, .links,
      .fabric, .ctxs, .train, .objects, .dict, .ring, .msix, .alert] ⊆ parts) (r : Repair) :
    Only parts s0 (State.judgeValues s r) := by
  unfold State.judgeValues
  repeat' first
    | with_reducible assumption | with_reducible exact List.Subset.trans (by decide) hp
    | (with_reducible apply OnlyO.next) | with_reducible intro _ | (with_reducible apply Only.ite)
    | (with_reducible apply State.schedFault_only) | (with_reducible apply State.setRepair_only)
    | (with_reducible apply State.repairFails_only) | (with_reducible apply State.askSpans_only) | (dsimp only)
    | split | (with_reducible refine Only.leaf ?_ ?_)
    | (unfold Same; intro p hq; cases p <;> first | exact absurd (hp (by decide)) hq | dsimp only [Part.same])

theorem State.localise_only {parts : List Part} {s0 s : State} (h : Only parts s0 s) (hp : [.out, .hold, .links,
      .fabric, .ctxs, .train, .objects, .dict, .ring, .msix, .alert] ⊆ parts)  :
    Only parts s0 (State.localise s) := by
  unfold State.localise
  repeat' first
    | with_reducible assumption | with_reducible exact List.Subset.trans (by decide) hp | with_reducible intro _
    | (with_reducible apply Only.ite) | (with_reducible apply State.each_only)
    | (with_reducible apply State.setRepair_only) | (with_reducible apply State.ownHello_only)
    | (with_reducible apply State.judgeValues_only) | (dsimp only) | split
    | (with_reducible refine Only.leaf ?_ ?_)
    | (unfold Same; intro p hq; cases p <;> first | exact absurd (hp (by decide)) hq | dsimp only [Part.same])

theorem execFpCheck_only {parts : List Part} {s0 s : State} (h : Only parts s0 s) (hp : [.out, .hall, .time, .hold,
      .links, .fabric, .ctxs, .train, .objects, .dict, .ring, .msix, .alert] ⊆ parts)  :
    OnlyO parts s0 (execFpCheck s) := by
  unfold execFpCheck
  repeat' first
    | with_reducible assumption | with_reducible exact List.Subset.trans (by decide) hp
    | (with_reducible apply act_only) | with_reducible intro _ | (with_reducible apply Only.ite)
    | (with_reducible apply State.count_only) | (with_reducible apply State.log_only)
    | (with_reducible apply State.interrupt_only) | (with_reducible apply State.setTrain_only)
    | (with_reducible apply State.atStep_only) | (with_reducible apply State.localise_only) | (dsimp only) | split
    | (with_reducible refine Only.leaf ?_ ?_)
    | (unfold Same; intro p hq; cases p <;> first | exact absurd (hp (by decide)) hq | dsimp only [Part.same])

theorem State.ownFails_only {parts : List Part} {s0 s : State} (h : Only parts s0 s) (hp : [.out, .hold, .links,
      .fabric, .ctxs, .movers, .train, .objects, .dict, .ring, .msix, .alert] ⊆ parts) (q : OwnRequest) :
    Only parts s0 (State.ownFails s q) := by
  unfold State.ownFails
  repeat' first
    | with_reducible assumption | with_reducible exact List.Subset.trans (by decide) hp | with_reducible intro _
    | (with_reducible apply Only.ite) | (with_reducible apply State.sourceFails_only)
    | (with_reducible apply State.judgeValues_only) | (dsimp only) | split
    | (with_reducible refine Only.leaf ?_ ?_)
    | (unfold Same; intro p hq; cases p <;> first | exact absurd (hp (by decide)) hq | dsimp only [Part.same])

theorem State.takeValue_only {parts : List Part} {s0 s : State} (h : Only parts s0 s) (hp : [.out, .hold, .links,
      .fabric, .ctxs, .train, .objects, .dict, .ring, .msix, .alert] ⊆ parts) (r : Repair) (i sub : Nat) (index :
      Nat) (data : List Byte) (session : Nat) :
    Only parts s0 (State.takeValue s r i sub index data session) := by
  unfold State.takeValue
  repeat' first
    | with_reducible assumption | with_reducible exact List.Subset.trans (by decide) hp | with_reducible intro _
    | (with_reducible apply Only.ite) | (with_reducible apply State.setRepair_only)
    | (with_reducible apply State.ownRequest_only) | (with_reducible apply State.judgeValues_only) | (dsimp only)
    | split | (with_reducible refine Only.leaf ?_ ?_)
    | (unfold Same; intro p hq; cases p <;> first | exact absurd (hp (by decide)) hq | dsimp only [Part.same])

theorem State.takePiece_only {parts : List Part} {s0 s : State} (h : Only parts s0 s) (hp : [.out, .hold, .links,
      .fabric, .ctxs, .train, .objects, .dict, .ring, .msix, .alert] ⊆ parts) (r : Repair) (data : List Byte) :
    Only parts s0 (State.takePiece s r data) := by
  unfold State.takePiece
  repeat' first
    | with_reducible assumption | with_reducible exact List.Subset.trans (by decide) hp | with_reducible intro _
    | (with_reducible apply Only.ite) | (with_reducible apply State.setRepair_only)
    | (with_reducible apply State.askPiece_only) | (with_reducible apply State.askBlocks_only)
    | (with_reducible apply State.repairIfDone_only) | (with_reducible apply Only.foldl)
    | (with_reducible apply Only.foldl1) | (with_reducible apply Only.foldl2) | (dsimp only) | split
    | (with_reducible refine Only.leaf ?_ ?_)
    | (unfold Same; intro p hq; cases p <;> first | exact absurd (hp (by decide)) hq | dsimp only [Part.same])

theorem State.takeAnswer_only {parts : List Part} {s0 s : State} (h : Only parts s0 s) (hp : [.out, .hold, .links,
      .fabric, .ctxs, .movers, .train, .objects, .dict, .ring, .msix, .alert] ⊆ parts) (q : OwnRequest) (w : Nat)
      (data : List Byte) :
    Only parts s0 (State.takeAnswer s q w data) := by
  unfold State.takeAnswer
  repeat' first
    | with_reducible assumption | with_reducible exact List.Subset.trans (by decide) hp | with_reducible intro _
    | (with_reducible apply Only.ite) | (with_reducible apply State.setRepair_only)
    | (with_reducible apply State.ownRequest_only) | (with_reducible apply State.dropOwn_only)
    | (with_reducible apply State.ownFails_only) | (with_reducible apply State.takeValue_only)
    | (with_reducible apply State.takePiece_only) | (dsimp only) | split | (with_reducible refine Only.leaf ?_ ?_)
    | (unfold Same; intro p hq; cases p <;> first | exact absurd (hp (by decide)) hq | dsimp only [Part.same])

theorem State.popVc0_only {parts : List Part} {s0 s : State} (h : Only parts s0 s) (hp : [.fabric] ⊆ parts) (m :
      DxpMsg) :
    Only parts s0 (State.popVc0 s m) := by
  unfold State.popVc0
  repeat' first
    | with_reducible assumption | with_reducible exact List.Subset.trans (by decide) hp | with_reducible intro _
    | (with_reducible apply Only.ite) | (dsimp only) | split | (with_reducible refine Only.leaf ?_ ?_)
    | (unfold Same; intro p hq; cases p <;> first | exact absurd (hp (by decide)) hq | dsimp only [Part.same])

theorem execDxpResponse_only {parts : List Part} {s0 s : State} (h : Only parts s0 s) (hp : [.out, .hold, .links,
      .fabric, .ctxs, .movers, .train, .objects, .dict, .ring, .msix, .alert] ⊆ parts) (m : DxpMsg) :
    OnlyO parts s0 (execDxpResponse m s) := by
  unfold execDxpResponse
  repeat' first
    | with_reducible assumption | with_reducible exact List.Subset.trans (by decide) hp
    | (with_reducible apply act_only) | with_reducible intro _ | (with_reducible apply Only.ite)
    | (with_reducible apply State.askRepair_only) | (with_reducible apply State.takeAnswer_only)
    | (with_reducible apply State.popVc0_only) | (dsimp only) | split | (with_reducible refine Only.leaf ?_ ?_)
    | (unfold Same; intro p hq; cases p <;> first | exact absurd (hp (by decide)) hq | dsimp only [Part.same])

theorem execVc0RetryExpire_only {parts : List Part} {s0 s : State} (h : Only parts s0 s) (hp : [.out, .hall, .time,
      .hold, .links, .fabric, .ctxs, .movers, .train, .objects, .dict, .ring, .msix, .alert] ⊆ parts) (seq : BitVec
      32) :
    OnlyO parts s0 (execVc0RetryExpire seq s) := by
  unfold execVc0RetryExpire
  repeat' first
    | with_reducible assumption | with_reducible exact List.Subset.trans (by decide) hp
    | (with_reducible apply act_only) | with_reducible intro _ | (with_reducible apply Only.ite)
    | (with_reducible refine State.setDict_only' ?_ (List.Subset.trans (by decide) hp) _ (fun _ => rfl))
    | (with_reducible refine State.setDict_only'' ?_ (List.Subset.trans (by decide) hp) _ (fun _ => rfl))
    | (with_reducible apply State.reach_only) | (with_reducible apply State.askRepair_only)
    | (with_reducible apply State.setDict_only) | (with_reducible apply State.sendMgmt_only)
    | (with_reducible apply State.dropOwn_only) | (with_reducible apply State.ownFails_only) | (dsimp only) | split
    | (with_reducible refine Only.leaf ?_ ?_)
    | (unfold Same; intro p hq; cases p <;> first | exact absurd (hp (by decide)) hq | dsimp only [Part.same])

theorem State.takeRecords_only {parts : List Part} {s0 s : State} (h : Only parts s0 s) (hp : [.mem, .poison,
      .objects] ⊆ parts) (r : Repair) (d : RepairData) :
    Only parts s0 (State.takeRecords s r d) := by
  unfold State.takeRecords
  repeat' first
    | with_reducible assumption | with_reducible exact List.Subset.trans (by decide) hp | with_reducible intro _
    | (with_reducible apply Only.ite) | (with_reducible apply State.on_only)
    | (with_reducible apply State.setRopeRec_only) | (with_reducible apply State.setStepRec_only) | (dsimp only)
    | split | (with_reducible refine Only.leaf ?_ ?_)
    | (unfold Same; intro p hq; cases p <;> first | exact absurd (hp (by decide)) hq | dsimp only [Part.same])

theorem State.repairBlk_only {parts : List Part} {s0 s : State} (h : Only parts s0 s) (hp : [.out, .hold, .links,
      .fabric, .mem, .poison, .ctxs, .sems, .movers, .train, .objects, .dict, .ring, .faults, .msix, .alert] ⊆ parts)
      (r : Repair) (k : Blk) (d : RepairData) :
    Only parts s0 (State.repairBlk s r k d) := by
  unfold State.repairBlk
  repeat' first
    | with_reducible assumption | with_reducible exact List.Subset.trans (by decide) hp | with_reducible intro _
    | (with_reducible apply Only.ite) | (with_reducible apply State.count_only)
    | (with_reducible apply State.enginePages_only) | (with_reducible apply State.eWrites_only)
    | (with_reducible apply State.setRepair_only) | (with_reducible apply State.askRepair_only)
    | (with_reducible apply State.engineReset_only) | (with_reducible apply State.moveShardFp_only)
    | (with_reducible apply State.repairFails_only) | (with_reducible apply State.repairIfDone_only)
    | (with_reducible apply State.takeRecords_only) | (with_reducible refine Only.fst ?_ (by assumption))
    | (dsimp only) | split | (with_reducible refine Only.leaf ?_ ?_)
    | (unfold Same; intro p hq; cases p <;> first | exact absurd (hp (by decide)) hq | dsimp only [Part.same])

theorem State.finishCopy_only {parts : List Part} {s0 s : State} (h : Only parts s0 s) (hp : [.out, .links, .fabric,
      .movers, .train, .objects, .ring] ⊆ parts)  :
    Only parts s0 (State.finishCopy s) := by
  unfold State.finishCopy
  repeat' first
    | with_reducible assumption | with_reducible exact List.Subset.trans (by decide) hp | with_reducible intro _
    | (with_reducible apply State.each_only) | (with_reducible apply State.releaseRequest_only)
    | (with_reducible apply State.issueRequest_only) | (with_reducible apply State.askRepair_only) | (dsimp only)
    | split | (with_reducible refine Only.leaf ?_ ?_)
    | (unfold Same; intro p hq; cases p <;> first | exact absurd (hp (by decide)) hq | dsimp only [Part.same])

theorem execRepairBlock_only {parts : List Part} {s0 s : State} (h : Only parts s0 s) (hp : [.out, .hold, .links,
      .fabric, .mem, .poison, .ctxs, .sems, .movers, .train, .objects, .dict, .ring, .faults, .msix, .alert] ⊆ parts)
      (b : Nat) (data : RepairData) :
    OnlyO parts s0 (execRepairBlock b data s) := by
  unfold execRepairBlock
  repeat' first
    | with_reducible assumption | with_reducible exact List.Subset.trans (by decide) hp
    | (with_reducible apply act_only) | with_reducible intro _ | (with_reducible apply Only.ite)
    | (with_reducible apply State.repairIfDone_only) | (with_reducible apply State.sourceFails_only)
    | (with_reducible apply State.takeRecords_only) | (with_reducible apply State.repairBlk_only)
    | (with_reducible apply State.finishCopy_only) | (dsimp only) | split | (with_reducible refine Only.leaf ?_ ?_)
    | (unfold Same; intro p hq; cases p <;> first | exact absurd (hp (by decide)) hq | dsimp only [Part.same])

theorem execEnginePaceExpire_only {parts : List Part} {s0 s : State} (h : Only parts s0 s) (hp : [.out, .hall, .time,
      .hold, .links, .fabric, .mem, .poison, .ctxs, .sems, .movers, .deltas, .train, .rope, .objects, .ring, .faults,
      .msix, .alert] ⊆ parts) (engine : Engine) :
    OnlyO parts s0 (execEnginePaceExpire engine s) := by
  unfold execEnginePaceExpire
  repeat' first
    | with_reducible assumption | with_reducible exact List.Subset.trans (by decide) hp
    | (with_reducible apply act_only) | with_reducible intro _ | (with_reducible apply Only.ite)
    | (with_reducible apply State.reach_only) | (with_reducible apply State.count_only)
    | (with_reducible apply State.log_only) | (with_reducible apply State.faultCount_only)
    | (with_reducible apply State.setEngineSt_only) | (with_reducible apply State.engineReset_only)
    | (with_reducible apply State.sweepEngine_only) | (dsimp only) | split
    | (with_reducible refine Only.leaf ?_ ?_)
    | (unfold Same; intro p hq; cases p <;> first | exact absurd (hp (by decide)) hq | dsimp only [Part.same])

end Sys2Proof.Machine
end

