-- ==== Sys2Proof/Laws/OnlyRemote.lean ====
section
/-!
SUPPORT. What the operations of Machine/Remote.lean can change (Laws/Only.lean).
-/

namespace Sys2Proof.Machine

theorem execRequestIssue_only {parts : List Part} {s0 s : State} (h : Only parts s0 s) (hp : [.out, .links, .fabric,
      .movers, .objects, .ring] ⊆ parts) (die : HDie) :
    OnlyO parts s0 (execRequestIssue die s) := by
  unfold execRequestIssue
  repeat' first
    | with_reducible assumption | with_reducible exact List.Subset.trans (by decide) hp
    | (with_reducible apply act_only) | (with_reducible apply OnlyO.next) | with_reducible intro _
    | (with_reducible apply State.issueRequest_only) | (dsimp only) | split
    | (with_reducible refine Only.leaf ?_ ?_)
    | (unfold Same; intro p hq; cases p <;> first | exact absurd (hp (by decide)) hq | dsimp only [Part.same])

theorem State.targetWrite_only {parts : List Part} {s0 s : State} (h : Only parts s0 s) (hp : [.mem, .poison,
      .stores, .maps] ⊆ parts) (p : Packet) (bs : List Byte) :
    Only parts s0 (State.targetWrite s p bs) := by
  unfold State.targetWrite
  repeat' first
    | with_reducible assumption | with_reducible exact List.Subset.trans (by decide) hp | with_reducible intro _
    | (with_reducible apply Only.ite) | (with_reducible apply State.write_only)
    | (with_reducible apply State.storeWriteRaw_only) | (dsimp only) | split
    | (with_reducible refine Only.leaf ?_ ?_)
    | (unfold Same; intro p hq; cases p <;> first | exact absurd (hp (by decide)) hq | dsimp only [Part.same])

theorem State.respond_only {parts : List Part} {s0 s : State} (h : Only parts s0 s) (hp : [.out, .links, .fabric,
      .objects, .ring] ⊆ parts) (p : Packet) (op status operand : Nat) (data : List Byte) :
    Only parts s0 (State.respond s p op status operand data) := by
  unfold State.respond
  repeat' first
    | with_reducible assumption | with_reducible exact List.Subset.trans (by decide) hp | with_reducible intro _
    | (with_reducible apply State.inject_only) | (dsimp only) | split | (with_reducible refine Only.leaf ?_ ?_)
    | (unfold Same; intro p hq; cases p <;> first | exact absurd (hp (by decide)) hq | dsimp only [Part.same])

theorem State.target_only {parts : List Part} {s0 s : State} (h : Only parts s0 s) (hp : [.out, .links, .fabric,
      .movers, .objects, .ring] ⊆ parts) (p : Packet) (op : Nat) (run : State → State) (hrun : ∀ u, Only parts s0 u →
      Only parts s0 (run u)) :
    Only parts s0 (State.target s p op run) := by
  unfold State.target
  repeat' first
    | with_reducible assumption | with_reducible exact List.Subset.trans (by decide) hp | with_reducible intro _
    | (with_reducible apply Only.ite) | (with_reducible apply hrun) | (with_reducible apply State.on_only)
    | (with_reducible apply State.setFlow_only) | (with_reducible apply State.errorTo_only)
    | (with_reducible apply State.breakFlow_only) | (with_reducible apply State.useFlow_only) | (dsimp only)
    | split | (with_reducible refine Only.leaf ?_ ?_)
    | (unfold Same; intro p hq; cases p <;> first | exact absurd (hp (by decide)) hq | dsimp only [Part.same])

theorem execMemRead_only {parts : List Part} {s0 s : State} (h : Only parts s0 s) (hp : [.out, .links, .fabric,
      .movers, .objects, .ring] ⊆ parts) (p : Packet) :
    OnlyO parts s0 (execMemRead p s) := by
  unfold execMemRead
  repeat' first
    | with_reducible assumption | with_reducible exact List.Subset.trans (by decide) hp
    | (with_reducible apply act_only) | with_reducible intro _ | (with_reducible apply Only.ite)
    | (with_reducible apply State.readPoison_only) | (with_reducible apply State.errorTo_only)
    | (with_reducible apply State.respond_only) | (with_reducible apply State.target_only) | (dsimp only) | split
    | (with_reducible refine Only.leaf ?_ ?_)
    | (unfold Same; intro p hq; cases p <;> first | exact absurd (hp (by decide)) hq | dsimp only [Part.same])

theorem State.serveWrite_only {parts : List Part} {s0 s : State} (h : Only parts s0 s) (hp : [.out, .links, .fabric,
      .mem, .poison, .stores, .maps, .movers, .objects, .ring] ⊆ parts) (p : Packet) :
    Only parts s0 (State.serveWrite s p) := by
  unfold State.serveWrite
  repeat' first
    | with_reducible assumption | with_reducible exact List.Subset.trans (by decide) hp | with_reducible intro _
    | (with_reducible apply State.errorTo_only) | (with_reducible apply State.targetWrite_only)
    | (with_reducible apply State.respond_only) | (with_reducible apply State.target_only) | (dsimp only) | split
    | (with_reducible refine Only.leaf ?_ ?_)
    | (unfold Same; intro p hq; cases p <;> first | exact absurd (hp (by decide)) hq | dsimp only [Part.same])

theorem execMemAtomic_only {parts : List Part} {s0 s : State} (h : Only parts s0 s) (hp : [.out, .links, .fabric,
      .mem, .poison, .stores, .maps, .movers, .objects, .ring] ⊆ parts) (p : Packet) :
    OnlyO parts s0 (execMemAtomic p s) := by
  unfold execMemAtomic
  repeat' first
    | with_reducible assumption | with_reducible exact List.Subset.trans (by decide) hp
    | (with_reducible apply act_only) | with_reducible intro _ | (with_reducible apply Only.ite)
    | (with_reducible apply State.readPoison_only) | (with_reducible apply State.errorTo_only)
    | (with_reducible apply State.targetWrite_only) | (with_reducible apply State.respond_only)
    | (with_reducible apply State.target_only) | (dsimp only) | split | (with_reducible refine Only.leaf ?_ ?_)
    | (unfold Same; intro p hq; cases p <;> first | exact absurd (hp (by decide)) hq | dsimp only [Part.same])

theorem State.notify_only {parts : List Part} {s0 s : State} (h : Only parts s0 s) (hp : [.out, .hold, .links,
      .cores, .ctxs, .sems, .dies, .objects, .ring, .msix, .supply, .alert] ⊆ parts) (f : Flow) :
    Only parts s0 (State.notify s f) := by
  unfold State.notify
  repeat' first
    | with_reducible assumption | with_reducible exact List.Subset.trans (by decide) hp | with_reducible intro _
    | (with_reducible apply State.interrupt_only) | (with_reducible apply State.post_only) | (dsimp only) | split
    | (with_reducible refine Only.leaf ?_ ?_)
    | (unfold Same; intro p hq; cases p <;> first | exact absurd (hp (by decide)) hq | dsimp only [Part.same])

theorem execMemMessage_only {parts : List Part} {s0 s : State} (h : Only parts s0 s) (hp : [.out, .drawn, .hold,
      .links, .fabric, .mem, .poison, .cores, .ctxs, .sems, .movers, .dies, .objects, .ring, .msix, .supply, .alert]
      ⊆ parts) (p : Packet) :
    OnlyO parts s0 (execMemMessage p s) := by
  unfold execMemMessage
  repeat' first
    | with_reducible assumption | with_reducible exact List.Subset.trans (by decide) hp
    | (with_reducible apply act_only) | with_reducible intro _ | (with_reducible apply Only.ite)
    | (with_reducible apply State.draw_only) | (with_reducible apply State.on_only)
    | (with_reducible apply State.write_only) | (with_reducible apply State.setFlow_only)
    | (with_reducible apply State.errorTo_only) | (with_reducible apply State.respond_only)
    | (with_reducible apply State.target_only) | (with_reducible apply State.notify_only)
    | (with_reducible refine Only.snd ?_ (by assumption)) | (dsimp only) | split
    | (with_reducible refine Only.leaf ?_ ?_)
    | (unfold Same; intro p hq; cases p <;> first | exact absurd (hp (by decide)) hq | dsimp only [Part.same])

theorem State.answerMover_only {parts : List Part} {s0 s : State} (h : Only parts s0 s) (hp : [.fabric, .movers] ⊆
      parts) (m dst count : Nat) (data : List Byte) :
    Only parts s0 (State.answerMover s m dst count data) := by
  unfold State.answerMover
  repeat' first
    | with_reducible assumption | with_reducible exact List.Subset.trans (by decide) hp | with_reducible intro _
    | (with_reducible apply Only.ite) | (with_reducible apply State.setMover_only)
    | (with_reducible apply State.queueRequests_only) | (dsimp only) | split
    | (with_reducible refine Only.leaf ?_ ?_)
    | (unfold Same; intro p hq; cases p <;> first | exact absurd (hp (by decide)) hq | dsimp only [Part.same])

theorem execResponseArrive_only {parts : List Part} {s0 s : State} (h : Only parts s0 s) (hp : [.out, .hold, .links,
      .fabric, .ctxs, .movers, .train, .objects, .dict, .ring, .msix, .alert] ⊆ parts) (die : HDie) (p : Packet) :
    OnlyO parts s0 (execResponseArrive die p s) := by
  unfold execResponseArrive
  repeat' first
    | with_reducible assumption | with_reducible exact List.Subset.trans (by decide) hp
    | (with_reducible apply act_only) | with_reducible intro _ | (with_reducible apply Only.ite)
    | (with_reducible apply State.count_only) | (with_reducible apply State.failIssuer_only)
    | (with_reducible apply State.releaseRequest_only) | (with_reducible apply State.useFlow_only)
    | (with_reducible apply State.copyFails_only) | (with_reducible apply State.answerMover_only) | (dsimp only)
    | split | (with_reducible refine Only.leaf ?_ ?_)
    | (unfold Same; intro p hq; cases p <;> first | exact absurd (hp (by decide)) hq | dsimp only [Part.same])

theorem execFlowBreak_only {parts : List Part} {s0 s : State} (h : Only parts s0 s) (hp : [.out, .hold, .links,
      .fabric, .ctxs, .movers, .train, .objects, .dict, .ring, .msix, .alert] ⊆ parts) (p : Packet) :
    OnlyO parts s0 (execFlowBreak p s) := by
  unfold execFlowBreak
  repeat' first
    | with_reducible assumption | with_reducible exact List.Subset.trans (by decide) hp
    | (with_reducible apply act_only) | with_reducible intro _ | (with_reducible apply Only.ite)
    | (with_reducible apply State.breakFlow_only) | (with_reducible apply State.repairMoves_only) | (dsimp only)
    | split | (with_reducible refine Only.leaf ?_ ?_)
    | (unfold Same; intro p hq; cases p <;> first | exact absurd (hp (by decide)) hq | dsimp only [Part.same])

theorem execLeaseLapse_only {parts : List Part} {s0 s : State} (h : Only parts s0 s) (hp : [.out, .hall, .time,
      .hold, .links, .fabric, .ctxs, .movers, .train, .objects, .dict, .ring, .msix, .alert] ⊆ parts) (c : FlowId) :
    OnlyO parts s0 (execLeaseLapse c s) := by
  unfold execLeaseLapse
  repeat' first
    | with_reducible assumption | with_reducible exact List.Subset.trans (by decide) hp
    | (with_reducible apply act_only) | with_reducible intro _ | (with_reducible apply Only.ite)
    | (with_reducible apply State.reach_only) | (with_reducible apply State.breakFlow_only)
    | (with_reducible apply State.repairMoves_only) | (dsimp only) | split
    | (with_reducible refine Only.leaf ?_ ?_)
    | (unfold Same; intro p hq; cases p <;> first | exact absurd (hp (by decide)) hq | dsimp only [Part.same])

theorem execRespTimeoutExpire_only {parts : List Part} {s0 s : State} (h : Only parts s0 s) (hp : [.out, .hall,
      .time, .hold, .links, .fabric, .ctxs, .movers, .train, .objects, .dict, .ring, .msix, .alert] ⊆ parts) (c :
      FlowId) (seq : BitVec 32) :
    OnlyO parts s0 (execRespTimeoutExpire c seq s) := by
  unfold execRespTimeoutExpire
  repeat' first
    | with_reducible assumption | with_reducible exact List.Subset.trans (by decide) hp
    | (with_reducible apply act_only) | with_reducible intro _ | (with_reducible apply State.reach_only)
    | (with_reducible apply State.breakFlow_only) | (with_reducible apply State.repairMoves_only) | (dsimp only)
    | split | (with_reducible refine Only.leaf ?_ ?_)
    | (unfold Same; intro p hq; cases p <;> first | exact absurd (hp (by decide)) hq | dsimp only [Part.same])

theorem execReduceGroupCombine_only {parts : List Part} {s0 s : State} (h : Only parts s0 s) (hp : [.tt, .hold, .mem,
      .poison, .stores, .maps, .mailboxes, .deltas, .objects, .ring] ⊆ parts) (link : Link) :
    OnlyO parts s0 (execReduceGroupCombine link s) := by
  unfold execReduceGroupCombine
  repeat' first
    | with_reducible assumption | with_reducible exact List.Subset.trans (by decide) hp
    | (with_reducible apply act_only) | with_reducible intro _ | (with_reducible apply Only.ite)
    | (with_reducible apply State.on_only) | (with_reducible apply State.countFlushed_only)
    | (with_reducible apply State.sendDeltas_only) | (with_reducible apply State.readPoison_only)
    | (with_reducible apply State.landBytes_only) | (with_reducible apply State.setRx_only)
    | (with_reducible apply State.landingFault_only) | (dsimp only) | split
    | (with_reducible refine Only.leaf ?_ ?_)
    | (unfold Same; intro p hq; cases p <;> first | exact absurd (hp (by decide)) hq | dsimp only [Part.same])

end Sys2Proof.Machine
end

