-- ==== Sys2Proof/Laws/OnlyRopeLink.lean ====
section
/-!
SUPPORT. What the operations of Machine/RopeLink.lean can change (Laws/Only.lean).
-/

namespace Sys2Proof.Machine

theorem State.portSend_only {parts : List Part} {s0 s : State} (h : Only parts s0 s) (hp : [.out, .rope] ⊆ parts)
      (stripe : Nat) (h : BitVec 512) (body : List Byte) :
    Only parts s0 (State.portSend s stripe h body) := by
  unfold State.portSend
  repeat' first
    | with_reducible assumption | with_reducible exact List.Subset.trans (by decide) hp | with_reducible intro _
    | (with_reducible apply State.emit_only) | (with_reducible apply State.setRope_only) | (dsimp only) | split
    | (with_reducible refine Only.leaf ?_ ?_)
    | (unfold Same; intro p hq; cases p <;> first | exact absurd (hp (by decide)) hq | dsimp only [Part.same])

theorem State.packetSend_only {parts : List Part} {s0 s : State} (h : Only parts s0 s) (hp : [.out, .links, .fabric,
      .objects, .ring] ⊆ parts) (dst : Nat) (h : BitVec 512) (body : List Byte) :
    Only parts s0 (State.packetSend s dst h body) := by
  unfold State.packetSend
  repeat' first
    | with_reducible assumption | with_reducible exact List.Subset.trans (by decide) hp | with_reducible intro _
    | (with_reducible apply State.inject_only) | (dsimp only) | split | (with_reducible refine Only.leaf ?_ ?_)
    | (unfold Same; intro p hq; cases p <;> first | exact absurd (hp (by decide)) hq | dsimp only [Part.same])

theorem State.routeFrame_only {parts : List Part} {s0 s : State} (h : Only parts s0 s) (hp : [.out, .links, .fabric,
      .rope, .objects, .ring] ⊆ parts) (stripe : Nat) (h : BitVec 512) (body : List Byte) :
    Only parts s0 (State.routeFrame s stripe h body) := by
  unfold State.routeFrame
  repeat' first
    | with_reducible assumption | with_reducible exact List.Subset.trans (by decide) hp | with_reducible intro _
    | (with_reducible apply Only.ite) | (with_reducible apply State.portSend_only)
    | (with_reducible apply State.packetSend_only) | (dsimp only) | split | (with_reducible refine Only.leaf ?_ ?_)
    | (unfold Same; intro p hq; cases p <;> first | exact absurd (hp (by decide)) hq | dsimp only [Part.same])

theorem State.takeTokens_only {parts : List Part} {s0 s : State} (h : Only parts s0 s) (hp : [.rope] ⊆ parts) (site n
      : Nat) :
    OnlyOpt parts s0 (State.takeTokens s site n) := by
  unfold State.takeTokens
  repeat' first
    | with_reducible assumption | with_reducible exact List.Subset.trans (by decide) hp | with_reducible intro _
    | (with_reducible apply OnlyOpt.none) | (with_reducible apply OnlyOpt.some)
    | (with_reducible apply OnlyOpt.ite) | (with_reducible apply Only.ite)
    | (with_reducible apply State.setRope_only) | (with_reducible apply State.setPeer_only) | (dsimp only) | split
    | (with_reducible refine Only.leaf ?_ ?_)
    | (unfold Same; intro p hq; cases p <;> first | exact absurd (hp (by decide)) hq | dsimp only [Part.same])

theorem State.transmit_only {parts : List Part} {s0 s : State} (h : Only parts s0 s) (hp : [.out, .links, .fabric,
      .rope, .objects, .ring] ⊆ parts) (x kind : Nat) (retx : Bool) (seq round engine slot item : Nat) (body : List
      Byte) :
    OnlyOpt parts s0 (State.transmit s x kind retx seq round engine slot item body) := by
  unfold State.transmit
  repeat' first
    | with_reducible assumption | with_reducible exact List.Subset.trans (by decide) hp | with_reducible intro _
    | (with_reducible apply OnlyOpt.none) | (with_reducible apply OnlyOpt.some)
    | (with_reducible apply OnlyOpt.ite) | (with_reducible apply Only.ite)
    | (with_reducible apply State.setSess_only) | (with_reducible apply State.routeFrame_only)
    | (with_reducible apply State.takeTokens_only) | (with_reducible refine OnlyOpt.get ?_ (by assumption))
    | (with_reducible apply OnlyOpt.getD) | (dsimp only) | split | (with_reducible refine Only.leaf ?_ ?_)
    | (unfold Same; intro p hq; cases p <;> first | exact absurd (hp (by decide)) hq | dsimp only [Part.same])

theorem State.switchEpoch_only {parts : List Part} {s0 s : State} (h : Only parts s0 s) (hp : [.rope, .objects,
      .ring] ⊆ parts) (x seq : Nat) :
    Only parts s0 (State.switchEpoch s x seq) := by
  unfold State.switchEpoch
  repeat' first
    | with_reducible assumption | with_reducible exact List.Subset.trans (by decide) hp
    | (with_reducible apply OnlyO.next) | with_reducible intro _ | (with_reducible apply Only.ite)
    | (with_reducible apply State.log_only) | (with_reducible apply State.setSess_only) | (dsimp only) | split
    | (with_reducible refine Only.leaf ?_ ?_)
    | (unfold Same; intro p hq; cases p <;> first | exact absurd (hp (by decide)) hq | dsimp only [Part.same])

theorem State.queueSack_only {parts : List Part} {s0 s : State} (h : Only parts s0 s) (hp : [.rope] ⊆ parts) (x :
      Nat) :
    Only parts s0 (State.queueSack s x) := by
  unfold State.queueSack
  repeat' first
    | with_reducible assumption | with_reducible exact List.Subset.trans (by decide) hp | with_reducible intro _
    | (with_reducible apply State.mapSess_only) | (dsimp only) | split | (with_reducible refine Only.leaf ?_ ?_)
    | (unfold Same; intro p hq; cases p <;> first | exact absurd (hp (by decide)) hq | dsimp only [Part.same])

theorem State.resend_only {parts : List Part} {s0 s : State} (h : Only parts s0 s) (hp : [.out, .links, .fabric,
      .rope, .objects, .ring] ⊆ parts) (x : Nat) (f : OutFrame) :
    Only parts s0 (State.resend s x f) := by
  unfold State.resend
  repeat' first
    | with_reducible assumption | with_reducible exact List.Subset.trans (by decide) hp | with_reducible intro _
    | (with_reducible apply Only.ite) | (with_reducible apply State.count64_only)
    | (with_reducible apply State.mapSess_only) | (with_reducible apply State.transmit_only)
    | (with_reducible refine OnlyOpt.get ?_ (by assumption)) | (with_reducible apply OnlyOpt.getD) | (dsimp only)
    | split | (with_reducible refine Only.leaf ?_ ?_)
    | (unfold Same; intro p hq; cases p <;> first | exact absurd (hp (by decide)) hq | dsimp only [Part.same])

theorem State.ropeSendNext_only {parts : List Part} {s0 s : State} (h : Only parts s0 s) (hp : [.out, .links,
      .fabric, .rope, .objects, .ring] ⊆ parts) (x : Nat) :
    Only parts s0 (State.ropeSendNext s x) := by
  unfold State.ropeSendNext
  repeat' first
    | with_reducible assumption | with_reducible exact List.Subset.trans (by decide) hp | with_reducible intro _
    | (with_reducible apply Only.ite) | (with_reducible apply State.mapSess_only)
    | (with_reducible apply State.transmit_only) | (with_reducible apply State.switchEpoch_only)
    | (with_reducible apply State.resend_only) | (with_reducible refine OnlyOpt.get ?_ (by assumption))
    | (with_reducible apply OnlyOpt.getD) | (dsimp only) | split | (with_reducible refine Only.leaf ?_ ?_)
    | (unfold Same; intro p hq; cases p <;> first | exact absurd (hp (by decide)) hq | dsimp only [Part.same])

theorem State.flushGateway_only {parts : List Part} {s0 s : State} (h : Only parts s0 s) (hp : [.out, .rope] ⊆ parts)
       :
    Only parts s0 (State.flushGateway s) := by
  unfold State.flushGateway
  repeat' first
    | with_reducible assumption | with_reducible exact List.Subset.trans (by decide) hp | with_reducible intro _
    | (with_reducible apply Only.ite) | (with_reducible apply State.each_only)
    | (with_reducible apply State.setRope_only) | (with_reducible apply State.portSend_only) | (dsimp only) | split
    | (with_reducible refine Only.leaf ?_ ?_)
    | (unfold Same; intro p hq; cases p <;> first | exact absurd (hp (by decide)) hq | dsimp only [Part.same])

theorem execRopeSend_only {parts : List Part} {s0 s : State} (h : Only parts s0 s) (hp : [.out, .links, .fabric,
      .rope, .objects, .ring] ⊆ parts) (sess : Sess) :
    OnlyO parts s0 (execRopeSend sess s) := by
  unfold execRopeSend
  repeat' first
    | with_reducible assumption | with_reducible exact List.Subset.trans (by decide) hp
    | (with_reducible apply act_only) | with_reducible intro _ | (with_reducible apply State.ropeSendNext_only)
    | (with_reducible apply State.flushGateway_only) | (dsimp only) | split
    | (with_reducible refine Only.leaf ?_ ?_)
    | (unfold Same; intro p hq; cases p <;> first | exact absurd (hp (by decide)) hq | dsimp only [Part.same])

theorem execResendTimeout_only {parts : List Part} {s0 s : State} (h : Only parts s0 s) (hp : [.out, .hall, .time,
      .links, .fabric, .rope, .objects, .ring] ⊆ parts) (sess : Sess) :
    OnlyO parts s0 (execResendTimeout sess s) := by
  unfold execResendTimeout
  repeat' first
    | with_reducible assumption | with_reducible exact List.Subset.trans (by decide) hp
    | (with_reducible apply act_only) | with_reducible intro _ | (with_reducible apply Only.ite)
    | (with_reducible apply State.reach_only) | (with_reducible apply State.mapSess_only)
    | (with_reducible apply State.resend_only) | (with_reducible apply Only.foldl)
    | (with_reducible apply Only.foldl1) | (with_reducible apply Only.foldl2) | (dsimp only) | split
    | (with_reducible refine Only.leaf ?_ ?_)
    | (unfold Same; intro p hq; cases p <;> first | exact absurd (hp (by decide)) hq | dsimp only [Part.same])

theorem execSackTimer_only {parts : List Part} {s0 s : State} (h : Only parts s0 s) (hp : [.hall, .time, .rope] ⊆
      parts) (sess : Sess) :
    OnlyO parts s0 (execSackTimer sess s) := by
  unfold execSackTimer
  repeat' first
    | with_reducible assumption | with_reducible exact List.Subset.trans (by decide) hp
    | (with_reducible apply act_only) | with_reducible intro _ | (with_reducible apply State.reach_only)
    | (with_reducible apply State.queueSack_only) | (dsimp only) | split | (with_reducible refine Only.leaf ?_ ?_)
    | (unfold Same; intro p hq; cases p <;> first | exact absurd (hp (by decide)) hq | dsimp only [Part.same])

theorem State.queueFrame_only {parts : List Part} {s0 s : State} (h : Only parts s0 s) (hp : [.rope] ⊆ parts) (x :
      Nat) (f : OutFrame) :
    Only parts s0 (State.queueFrame s x f) := by
  unfold State.queueFrame
  repeat' first
    | with_reducible assumption | with_reducible exact List.Subset.trans (by decide) hp | with_reducible intro _
    | (with_reducible apply State.mapSess_only) | (dsimp only) | split | (with_reducible refine Only.leaf ?_ ?_)
    | (unfold Same; intro p hq; cases p <;> first | exact absurd (hp (by decide)) hq | dsimp only [Part.same])

theorem State.queueTo_only {parts : List Part} {s0 s : State} (h : Only parts s0 s) (hp : [.rope] ⊆ parts) (site :
      Nat) (f : OutFrame) :
    Only parts s0 (State.queueTo s site f) := by
  unfold State.queueTo
  repeat' first
    | with_reducible assumption | with_reducible exact List.Subset.trans (by decide) hp | with_reducible intro _
    | (with_reducible apply State.queueFrame_only) | (dsimp only) | split | (with_reducible refine Only.leaf ?_ ?_)
    | (unfold Same; intro p hq; cases p <;> first | exact absurd (hp (by decide)) hq | dsimp only [Part.same])

theorem State.dealTo_only {parts : List Part} {s0 s : State} (h : Only parts s0 s) (hp : [.rope] ⊆ parts) (site :
      Nat) (f : OutFrame) :
    Only parts s0 (State.dealTo s site f) := by
  unfold State.dealTo
  repeat' first
    | with_reducible assumption | with_reducible exact List.Subset.trans (by decide) hp | with_reducible intro _
    | (with_reducible apply State.setPeer_only) | (with_reducible apply State.queueFrame_only) | (dsimp only)
    | split | (with_reducible refine Only.leaf ?_ ?_)
    | (unfold Same; intro p hq; cases p <;> first | exact absurd (hp (by decide)) hq | dsimp only [Part.same])

theorem State.openStripe_only {parts : List Part} {s0 s : State} (h : Only parts s0 s) (hp : [.rope] ⊆ parts) (ss th
      : List Byte) (x window : Nat) :
    Only parts s0 (State.openStripe s ss th x window) := by
  unfold State.openStripe
  repeat' first
    | with_reducible assumption | with_reducible exact List.Subset.trans (by decide) hp | with_reducible intro _
    | (with_reducible apply State.setSess_only) | (dsimp only) | split | (with_reducible refine Only.leaf ?_ ?_)
    | (unfold Same; intro p hq; cases p <;> first | exact absurd (hp (by decide)) hq | dsimp only [Part.same])

theorem State.openSession_only {parts : List Part} {s0 s : State} (h : Only parts s0 s) (hp : [.rope, .objects,
      .ring] ⊆ parts) (site stripes window : Nat) (ss th idKey : List Byte) :
    Only parts s0 (State.openSession s site stripes window ss th idKey) := by
  unfold State.openSession
  repeat' first
    | with_reducible assumption | with_reducible exact List.Subset.trans (by decide) hp | with_reducible intro _
    | (with_reducible apply State.on_only) | (with_reducible apply State.log_only)
    | (with_reducible apply State.each_only) | (with_reducible apply State.setRope_only)
    | (with_reducible apply State.setPeer_only) | (with_reducible apply State.openStripe_only) | (dsimp only)
    | split | (with_reducible refine Only.leaf ?_ ?_)
    | (unfold Same; intro p hq; cases p <;> first | exact absurd (hp (by decide)) hq | dsimp only [Part.same])

theorem execSessionOpenAttempt_only {parts : List Part} {s0 s : State} (h : Only parts s0 s) (hp : [.out, .hall,
      .drawn, .time, .links, .fabric, .rope, .objects, .ring] ⊆ parts) (site : Site) :
    OnlyO parts s0 (execSessionOpenAttempt site s) := by
  unfold execSessionOpenAttempt
  repeat' first
    | with_reducible assumption | with_reducible exact List.Subset.trans (by decide) hp
    | (with_reducible apply act_only) | with_reducible intro _ | (with_reducible apply Only.ite)
    | (with_reducible apply State.reach_only) | (with_reducible apply State.draw_only)
    | (with_reducible apply State.log_only) | (with_reducible apply State.each_only)
    | (with_reducible apply State.setPeer_only) | (with_reducible apply State.mapSess_only)
    | (with_reducible apply State.routeFrame_only) | (with_reducible apply State.takeTokens_only)
    | (with_reducible refine Only.snd ?_ (by assumption)) | (with_reducible refine OnlyOpt.get ?_ (by assumption))
    | (with_reducible apply OnlyOpt.getD) | (dsimp only) | split | (with_reducible refine Only.leaf ?_ ?_)
    | (unfold Same; intro p hq; cases p <;> first | exact absurd (hp (by decide)) hq | dsimp only [Part.same])

theorem State.discard_only {parts : List Part} {s0 s : State} (h : Only parts s0 s) (hp : [.rope] ⊆ parts)  :
    Only parts s0 (State.discard s) := by
  unfold State.discard
  repeat' first
    | with_reducible assumption | with_reducible exact List.Subset.trans (by decide) hp | with_reducible intro _
    | (with_reducible apply State.setRope_only) | (dsimp only) | split | (with_reducible refine Only.leaf ?_ ?_)
    | (unfold Same; intro p hq; cases p <;> first | exact absurd (hp (by decide)) hq | dsimp only [Part.same])

theorem State.takeOpen_only {parts : List Part} {s0 s : State} (h : Only parts s0 s) (hp : [.out, .drawn, .links,
      .fabric, .rope, .objects, .ring] ⊆ parts) (f : RopeFrame) :
    Only parts s0 (State.takeOpen s f) := by
  unfold State.takeOpen
  repeat' first
    | with_reducible assumption | with_reducible exact List.Subset.trans (by decide) hp | with_reducible intro _
    | (with_reducible apply Only.ite) | (with_reducible apply State.draw_only)
    | (with_reducible apply State.log_only) | (with_reducible apply State.setPeer_only)
    | (with_reducible apply State.routeFrame_only) | (with_reducible apply State.takeTokens_only)
    | (with_reducible apply State.openSession_only) | (with_reducible apply State.discard_only)
    | (with_reducible refine Only.snd ?_ (by assumption)) | (with_reducible refine OnlyOpt.get ?_ (by assumption))
    | (with_reducible apply OnlyOpt.getD) | (dsimp only) | split | (with_reducible refine Only.leaf ?_ ?_)
    | (unfold Same; intro p hq; cases p <;> first | exact absurd (hp (by decide)) hq | dsimp only [Part.same])

theorem State.takeAccept_only {parts : List Part} {s0 s : State} (h : Only parts s0 s) (hp : [.rope, .objects, .ring]
      ⊆ parts) (f : RopeFrame) :
    Only parts s0 (State.takeAccept s f) := by
  unfold State.takeAccept
  repeat' first
    | with_reducible assumption | with_reducible exact List.Subset.trans (by decide) hp | with_reducible intro _
    | (with_reducible apply Only.ite) | (with_reducible apply State.log_only)
    | (with_reducible apply State.openSession_only) | (with_reducible apply State.discard_only) | (dsimp only)
    | split | (with_reducible refine Only.leaf ?_ ?_)
    | (unfold Same; intro p hq; cases p <;> first | exact absurd (hp (by decide)) hq | dsimp only [Part.same])

theorem State.openFrame_only {parts : List Part} {s0 s : State} (h : Only parts s0 s) (hp : [.rope, .objects, .ring]
      ⊆ parts) (f : RopeFrame) :
    Only parts s0 (State.openFrame s f).1 := by
  unfold State.openFrame
  repeat' first
    | with_reducible assumption | with_reducible exact List.Subset.trans (by decide) hp | with_reducible intro _
    | (with_reducible apply Only.ite) | (with_reducible apply Only.ite1)
    | (with_reducible apply State.count64_only) | (with_reducible apply State.log_only)
    | (with_reducible apply State.discard_only) | (dsimp only) | split | (with_reducible refine Only.leaf ?_ ?_)
    | (unfold Same; intro p hq; cases p <;> first | exact absurd (hp (by decide)) hq | dsimp only [Part.same])

theorem State.noteFrame_only {parts : List Part} {s0 s : State} (h : Only parts s0 s) (hp : [.rope] ⊆ parts) (x w :
      Nat) (fresh : Bool) :
    Only parts s0 (State.noteFrame s x w fresh) := by
  unfold State.noteFrame
  repeat' first
    | with_reducible assumption | with_reducible exact List.Subset.trans (by decide) hp | with_reducible intro _
    | (with_reducible apply Only.ite) | (with_reducible apply State.on_only)
    | (with_reducible apply State.setSess_only) | (with_reducible apply State.queueSack_only) | (dsimp only)
    | split | (with_reducible refine Only.leaf ?_ ?_)
    | (unfold Same; intro p hq; cases p <;> first | exact absurd (hp (by decide)) hq | dsimp only [Part.same])

theorem State.receiveFrame_only {parts : List Part} {s0 s : State} (h : Only parts s0 s) (hp : [.rope, .objects,
      .ring] ⊆ parts) (f : RopeFrame) (kind : Nat) (effect : State → Nat → List Byte → Option State) (heffect : ∀ u
      x1 x2, Only parts s0 u → OnlyOpt parts s0 (effect u x1 x2)) :
    Only parts s0 (State.receiveFrame s f kind effect) := by
  unfold State.receiveFrame
  repeat' first
    | with_reducible assumption | with_reducible exact List.Subset.trans (by decide) hp | with_reducible intro _
    | (with_reducible apply Only.ite) | (with_reducible apply heffect) | (with_reducible apply State.log_only)
    | (with_reducible apply State.setRope_only) | (with_reducible apply State.discard_only)
    | (with_reducible apply State.openFrame_only) | (with_reducible apply State.noteFrame_only)
    | (with_reducible refine Only.fst ?_ (by assumption)) | (with_reducible refine OnlyOpt.get ?_ (by assumption))
    | (with_reducible apply OnlyOpt.getD) | (dsimp only) | split | (with_reducible refine Only.leaf ?_ ?_)
    | (unfold Same; intro p hq; cases p <;> first | exact absurd (hp (by decide)) hq | dsimp only [Part.same])

theorem State.takeSack_only {parts : List Part} {s0 s : State} (h : Only parts s0 s) (hp : [.rope] ⊆ parts) (x : Nat)
      (body : List Byte) :
    OnlyOpt parts s0 (State.takeSack s x body) := by
  unfold State.takeSack
  repeat' first
    | with_reducible assumption | with_reducible exact List.Subset.trans (by decide) hp | with_reducible intro _
    | (with_reducible apply OnlyOpt.none) | (with_reducible apply OnlyOpt.some)
    | (with_reducible apply OnlyOpt.ite) | (with_reducible apply Only.ite)
    | (with_reducible apply State.setSess_only) | (dsimp only) | split | (with_reducible refine Only.leaf ?_ ?_)
    | (unfold Same; intro p hq; cases p <;> first | exact absurd (hp (by decide)) hq | dsimp only [Part.same])

theorem State.startRekey_only {parts : List Part} {s0 s : State} (h : Only parts s0 s) (hp : [.drawn, .rope] ⊆ parts)
      (site : Nat) :
    Only parts s0 (State.startRekey s site) := by
  unfold State.startRekey
  repeat' first
    | with_reducible assumption | with_reducible exact List.Subset.trans (by decide) hp | with_reducible intro _
    | (with_reducible apply Only.ite) | (with_reducible apply State.draw_only)
    | (with_reducible apply State.setPeer_only) | (with_reducible apply State.queueTo_only)
    | (with_reducible refine Only.snd ?_ (by assumption)) | (dsimp only) | split
    | (with_reducible refine Only.leaf ?_ ?_)
    | (unfold Same; intro p hq; cases p <;> first | exact absurd (hp (by decide)) hq | dsimp only [Part.same])

theorem State.agreeEpoch_only {parts : List Part} {s0 s : State} (h : Only parts s0 s) (hp : [.rope] ⊆ parts) (site :
      Nat) (ss th : List Byte) (own peer : List Nat) :
    Only parts s0 (State.agreeEpoch s site ss th own peer) := by
  unfold State.agreeEpoch
  repeat' first
    | with_reducible assumption | with_reducible exact List.Subset.trans (by decide) hp | with_reducible intro _
    | (with_reducible apply State.each_only) | (with_reducible apply State.setPeer_only)
    | (with_reducible apply State.mapSess_only) | (dsimp only) | split | (with_reducible refine Only.leaf ?_ ?_)
    | (unfold Same; intro p hq; cases p <;> first | exact absurd (hp (by decide)) hq | dsimp only [Part.same])

theorem State.takeRekey_only {parts : List Part} {s0 s : State} (h : Only parts s0 s) (hp : [.drawn, .rope, .objects,
      .ring] ⊆ parts) (w x : Nat) (b : List Byte) :
    OnlyOpt parts s0 (State.takeRekey s w x b) := by
  unfold State.takeRekey
  repeat' first
    | with_reducible assumption | with_reducible exact List.Subset.trans (by decide) hp | with_reducible intro _
    | (with_reducible apply OnlyOpt.none) | (with_reducible apply OnlyOpt.some)
    | (with_reducible apply OnlyOpt.ite) | (with_reducible apply Only.ite) | (with_reducible apply State.draw_only)
    | (with_reducible apply State.on_only) | (with_reducible apply State.log_only)
    | (with_reducible apply State.each_only) | (with_reducible apply State.mapSess_only)
    | (with_reducible apply State.queueTo_only) | (with_reducible apply State.agreeEpoch_only)
    | (with_reducible refine Only.snd ?_ (by assumption)) | (dsimp only) | split
    | (with_reducible refine Only.leaf ?_ ?_)
    | (unfold Same; intro p hq; cases p <;> first | exact absurd (hp (by decide)) hq | dsimp only [Part.same])

theorem State.takeRekeyAck_only {parts : List Part} {s0 s : State} (h : Only parts s0 s) (hp : [.rope, .objects,
      .ring] ⊆ parts) (w x : Nat) (b : List Byte) :
    OnlyOpt parts s0 (State.takeRekeyAck s w x b) := by
  unfold State.takeRekeyAck
  repeat' first
    | with_reducible assumption | with_reducible exact List.Subset.trans (by decide) hp | with_reducible intro _
    | (with_reducible apply OnlyOpt.none) | (with_reducible apply OnlyOpt.some)
    | (with_reducible apply OnlyOpt.ite) | (with_reducible apply Only.ite) | (with_reducible apply State.log_only)
    | (with_reducible apply State.agreeEpoch_only) | (dsimp only) | split | (with_reducible refine Only.leaf ?_ ?_)
    | (unfold Same; intro p hq; cases p <;> first | exact absurd (hp (by decide)) hq | dsimp only [Part.same])

theorem State.receiveRekey_only {parts : List Part} {s0 s : State} (h : Only parts s0 s) (hp : [.drawn, .rope,
      .objects, .ring] ⊆ parts) (f : RopeFrame) :
    Only parts s0 (State.receiveRekey s f) := by
  unfold State.receiveRekey
  repeat' first
    | with_reducible assumption | with_reducible exact List.Subset.trans (by decide) hp | with_reducible intro _
    | (with_reducible apply State.receiveFrame_only) | (with_reducible apply State.takeRekey_only)
    | (with_reducible refine OnlyOpt.get ?_ (by assumption)) | (with_reducible apply OnlyOpt.getD)
    | (with_reducible apply OnlyOpt.none) | (with_reducible apply OnlyOpt.some)
    | (with_reducible apply OnlyOpt.ite) | (dsimp only) | split | (with_reducible refine Only.leaf ?_ ?_)
    | (unfold Same; intro p hq; cases p <;> first | exact absurd (hp (by decide)) hq | dsimp only [Part.same])

theorem State.receiveRekeyAck_only {parts : List Part} {s0 s : State} (h : Only parts s0 s) (hp : [.rope, .objects,
      .ring] ⊆ parts) (f : RopeFrame) :
    Only parts s0 (State.receiveRekeyAck s f) := by
  unfold State.receiveRekeyAck
  repeat' first
    | with_reducible assumption | with_reducible exact List.Subset.trans (by decide) hp | with_reducible intro _
    | (with_reducible apply State.receiveFrame_only) | (with_reducible apply State.takeRekeyAck_only)
    | (with_reducible refine OnlyOpt.get ?_ (by assumption)) | (with_reducible apply OnlyOpt.getD)
    | (with_reducible apply OnlyOpt.none) | (with_reducible apply OnlyOpt.some)
    | (with_reducible apply OnlyOpt.ite) | (dsimp only) | split | (with_reducible refine Only.leaf ?_ ?_)
    | (unfold Same; intro p hq; cases p <;> first | exact absurd (hp (by decide)) hq | dsimp only [Part.same])

theorem execRekeyIntervalExpire_only {parts : List Part} {s0 s : State} (h : Only parts s0 s) (hp : [.hall, .drawn,
      .time, .rope] ⊆ parts) (site : Site) :
    OnlyO parts s0 (execRekeyIntervalExpire site s) := by
  unfold execRekeyIntervalExpire
  repeat' first
    | with_reducible assumption | with_reducible exact List.Subset.trans (by decide) hp
    | (with_reducible apply act_only) | with_reducible intro _ | (with_reducible apply Only.ite)
    | (with_reducible apply State.reach_only) | (with_reducible apply State.startRekey_only) | (dsimp only) | split
    | (with_reducible refine Only.leaf ?_ ?_)
    | (unfold Same; intro p hq; cases p <;> first | exact absurd (hp (by decide)) hq | dsimp only [Part.same])

theorem execNonceLimit_only {parts : List Part} {s0 s : State} (h : Only parts s0 s) (hp : [.drawn, .rope] ⊆ parts)
      (sess : Sess) :
    OnlyO parts s0 (execNonceLimit sess s) := by
  unfold execNonceLimit
  repeat' first
    | with_reducible assumption | with_reducible exact List.Subset.trans (by decide) hp
    | (with_reducible apply act_only) | with_reducible intro _ | (with_reducible apply Only.ite)
    | (with_reducible apply State.startRekey_only) | (dsimp only) | split | (with_reducible refine Only.leaf ?_ ?_)
    | (unfold Same; intro p hq; cases p <;> first | exact absurd (hp (by decide)) hq | dsimp only [Part.same])

theorem State.leaveSlack_only {parts : List Part} {s0 s : State} (h : Only parts s0 s) (hp : [.rope] ⊆ parts) (site :
      Nat) :
    Only parts s0 (State.leaveSlack s site) := by
  unfold State.leaveSlack
  repeat' first
    | with_reducible assumption | with_reducible exact List.Subset.trans (by decide) hp | with_reducible intro _
    | (with_reducible apply State.setPeer_only) | (dsimp only) | split | (with_reducible refine Only.leaf ?_ ?_)
    | (unfold Same; intro p hq; cases p <;> first | exact absurd (hp (by decide)) hq | dsimp only [Part.same])

theorem execProbeIntervalExpire_only {parts : List Part} {s0 s : State} (h : Only parts s0 s) (hp : [.out, .hall,
      .time, .links, .fabric, .rope, .objects, .ring] ⊆ parts) (sess : Sess) :
    OnlyO parts s0 (execProbeIntervalExpire sess s) := by
  unfold execProbeIntervalExpire
  repeat' first
    | with_reducible assumption | with_reducible exact List.Subset.trans (by decide) hp
    | (with_reducible apply act_only) | with_reducible intro _ | (with_reducible apply Only.ite)
    | (with_reducible apply State.reach_only) | (with_reducible apply State.mapSess_only)
    | (with_reducible apply State.transmit_only) | (with_reducible refine OnlyOpt.get ?_ (by assumption))
    | (with_reducible apply OnlyOpt.getD) | (dsimp only) | split | (with_reducible refine Only.leaf ?_ ?_)
    | (unfold Same; intro p hq; cases p <;> first | exact absurd (hp (by decide)) hq | dsimp only [Part.same])

theorem State.receiveProbe_only {parts : List Part} {s0 s : State} (h : Only parts s0 s) (hp : [.out, .links,
      .fabric, .rope, .objects, .ring] ⊆ parts) (f : RopeFrame) :
    Only parts s0 (State.receiveProbe s f) := by
  unfold State.receiveProbe
  repeat' first
    | with_reducible assumption | with_reducible exact List.Subset.trans (by decide) hp | with_reducible intro _
    | (with_reducible apply Only.ite) | (with_reducible apply State.each_only)
    | (with_reducible apply State.mapSess_only) | (with_reducible apply State.transmit_only)
    | (with_reducible apply State.openFrame_only) | (with_reducible apply State.noteFrame_only)
    | (with_reducible apply State.leaveSlack_only) | (with_reducible refine Only.fst ?_ (by assumption))
    | (with_reducible refine OnlyOpt.get ?_ (by assumption)) | (with_reducible apply OnlyOpt.getD) | (dsimp only)
    | split | (with_reducible refine Only.leaf ?_ ?_)
    | (unfold Same; intro p hq; cases p <;> first | exact absurd (hp (by decide)) hq | dsimp only [Part.same])

theorem State.receiveSack_only {parts : List Part} {s0 s : State} (h : Only parts s0 s) (hp : [.rope, .objects,
      .ring] ⊆ parts) (f : RopeFrame) :
    Only parts s0 (State.receiveSack s f) := by
  unfold State.receiveSack
  repeat' first
    | with_reducible assumption | with_reducible exact List.Subset.trans (by decide) hp | with_reducible intro _
    | (with_reducible apply Only.ite) | (with_reducible apply State.openFrame_only)
    | (with_reducible apply State.receiveFrame_only) | (with_reducible apply State.takeSack_only)
    | (with_reducible apply State.leaveSlack_only) | (with_reducible refine Only.fst ?_ (by assumption))
    | (with_reducible refine OnlyOpt.get ?_ (by assumption)) | (with_reducible apply OnlyOpt.getD)
    | (with_reducible apply OnlyOpt.none) | (with_reducible apply OnlyOpt.some)
    | (with_reducible apply OnlyOpt.ite) | (dsimp only) | split | (with_reducible refine Only.leaf ?_ ?_)
    | (unfold Same; intro p hq; cases p <;> first | exact absurd (hp (by decide)) hq | dsimp only [Part.same])

theorem State.resetStripe_only {parts : List Part} {s0 s : State} (h : Only parts s0 s) (hp : [.out, .hold, .links,
      .fabric, .ctxs, .sems, .movers, .rope, .objects, .ring, .msix, .alert] ⊆ parts) (x : Nat) :
    Only parts s0 (State.resetStripe s x) := by
  unfold State.resetStripe
  repeat' first
    | with_reducible assumption | with_reducible exact List.Subset.trans (by decide) hp | with_reducible intro _
    | (with_reducible apply State.log_only) | (with_reducible apply State.releaseHolds_only)
    | (with_reducible apply State.setPeer_only) | (with_reducible apply State.setSess_only) | (dsimp only) | split
    | (with_reducible refine Only.leaf ?_ ?_)
    | (unfold Same; intro p hq; cases p <;> first | exact absurd (hp (by decide)) hq | dsimp only [Part.same])

theorem State.retireStripe_only {parts : List Part} {s0 s : State} (h : Only parts s0 s) (hp : [.rope, .objects,
      .ring, .faults] ⊆ parts) (x : Nat) :
    Only parts s0 (State.retireStripe s x) := by
  unfold State.retireStripe
  repeat' first
    | with_reducible assumption | with_reducible exact List.Subset.trans (by decide) hp | with_reducible intro _
    | (with_reducible apply Only.ite) | (with_reducible apply State.log_only)
    | (with_reducible apply State.each_only) | (with_reducible apply State.setSess_only)
    | (with_reducible apply State.dealTo_only) | (dsimp only) | split | (with_reducible refine Only.leaf ?_ ?_)
    | (unfold Same; intro p hq; cases p <;> first | exact absurd (hp (by decide)) hq | dsimp only [Part.same])

theorem State.countSessReset_only {parts : List Part} {s0 s : State} (h : Only parts s0 s) (hp : [.faults] ⊆ parts)
      (x : Nat) :
    Only parts s0 (State.countSessReset s x) := by
  unfold State.countSessReset
  repeat' first
    | with_reducible assumption | with_reducible exact List.Subset.trans (by decide) hp | with_reducible intro _
    | (with_reducible refine State.setFaults_only' ?_ (List.Subset.trans (by decide) hp) _ (fun _ => rfl))
    | (with_reducible apply State.setFaults_only) | (dsimp only) | split | (with_reducible refine Only.leaf ?_ ?_)
    | (unfold Same; intro p hq; cases p <;> first | exact absurd (hp (by decide)) hq | dsimp only [Part.same])

theorem State.resetSession_only {parts : List Part} {s0 s : State} (h : Only parts s0 s) (hp : [.out, .hold, .links,
      .fabric, .ctxs, .sems, .movers, .rope, .objects, .ring, .faults, .msix, .alert] ⊆ parts) (x : Nat) :
    Only parts s0 (State.resetSession s x) := by
  unfold State.resetSession
  repeat' first
    | with_reducible assumption | with_reducible exact List.Subset.trans (by decide) hp | with_reducible intro _
    | (with_reducible apply Only.ite) | (with_reducible apply State.resetStripe_only)
    | (with_reducible apply State.retireStripe_only) | (with_reducible apply State.countSessReset_only)
    | (dsimp only) | split | (with_reducible refine Only.leaf ?_ ?_)
    | (unfold Same; intro p hq; cases p <;> first | exact absurd (hp (by decide)) hq | dsimp only [Part.same])

theorem execSessionPaceExpire_only {parts : List Part} {s0 s : State} (h : Only parts s0 s) (hp : [.out, .hall,
      .time, .hold, .links, .fabric, .ctxs, .sems, .movers, .rope, .objects, .ring, .faults, .msix, .alert] ⊆ parts)
      (sess : Sess) :
    OnlyO parts s0 (execSessionPaceExpire sess s) := by
  unfold execSessionPaceExpire
  repeat' first
    | with_reducible assumption | with_reducible exact List.Subset.trans (by decide) hp
    | (with_reducible apply act_only) | with_reducible intro _ | (with_reducible apply Only.ite)
    | (with_reducible apply State.reach_only) | (with_reducible apply State.log_only)
    | (with_reducible apply State.faultCount_only) | (with_reducible apply State.resetSession_only) | (dsimp only)
    | split | (with_reducible refine Only.leaf ?_ ?_)
    | (unfold Same; intro p hq; cases p <;> first | exact absurd (hp (by decide)) hq | dsimp only [Part.same])

end Sys2Proof.Machine
end

