-- ==== Sys2Proof/Laws/OnlyRopeRounds.lean ====
section
/-!
SUPPORT. What the operations of Machine/RopeRounds.lean can change (Laws/Only.lean).
-/

namespace Sys2Proof.Machine

theorem State.repairRequest_only {parts : List Part} {s0 s : State} (h : Only parts s0 s) (hp : [.fabric, .movers] ⊆
      parts) (r op addr : Nat) (data : List Byte) :
    Only parts s0 (State.repairRequest s r op addr data) := by
  unfold State.repairRequest
  repeat' first
    | with_reducible assumption | with_reducible exact List.Subset.trans (by decide) hp | with_reducible intro _
    | (with_reducible apply Only.ite) | (with_reducible apply State.queueRequests_only) | (dsimp only) | split
    | (with_reducible refine Only.leaf ?_ ?_)
    | (unfold Same; intro p hq; cases p <;> first | exact absurd (hp (by decide)) hq | dsimp only [Part.same])

theorem State.writeAll_only {parts : List Part} {s0 s : State} (h : Only parts s0 s) (hp : [.fabric, .mem, .poison,
      .movers] ⊆ parts) (va : Nat) (bs : List Byte) :
    Only parts s0 (State.writeAll s va bs) := by
  unfold State.writeAll
  repeat' first
    | with_reducible assumption | with_reducible exact List.Subset.trans (by decide) hp | with_reducible intro _
    | (with_reducible apply State.each_only) | (with_reducible apply State.mpWrite_only)
    | (with_reducible apply State.repairRequest_only) | (with_reducible apply Only.foldl)
    | (with_reducible apply Only.foldl1) | (with_reducible apply Only.foldl2) | (dsimp only) | split
    | (with_reducible refine Only.leaf ?_ ?_)
    | (unfold Same; intro p hq; cases p <;> first | exact absurd (hp (by decide)) hq | dsimp only [Part.same])

theorem State.setRopeState_only {parts : List Part} {s0 s : State} (h : Only parts s0 s) (hp : [.mem, .poison,
      .objects] ⊆ parts) (st : Nat) :
    Only parts s0 (State.setRopeState s st) := by
  unfold State.setRopeState
  repeat' first
    | with_reducible assumption | with_reducible exact List.Subset.trans (by decide) hp | with_reducible intro _
    | (with_reducible apply State.setRopeRec_only) | (dsimp only) | split | (with_reducible refine Only.leaf ?_ ?_)
    | (unfold Same; intro p hq; cases p <;> first | exact absurd (hp (by decide)) hq | dsimp only [Part.same])

theorem State.commitClose_only {parts : List Part} {s0 s : State} (h : Only parts s0 s) (hp : [.fabric, .mem,
      .poison, .movers, .rope, .objects] ⊆ parts)  :
    Only parts s0 (State.commitClose s) := by
  unfold State.commitClose
  repeat' first
    | with_reducible assumption | with_reducible exact List.Subset.trans (by decide) hp | with_reducible intro _
    | (with_reducible apply State.each_only) | (with_reducible apply State.setRope_only)
    | (with_reducible apply State.setRopeRec_only) | (with_reducible apply State.repairRequest_only) | (dsimp only)
    | split | (with_reducible refine Only.leaf ?_ ?_)
    | (unfold Same; intro p hq; cases p <;> first | exact absurd (hp (by decide)) hq | dsimp only [Part.same])

theorem State.deltaGone_only {parts : List Part} {s0 s : State} (h : Only parts s0 s) (hp : [.objects, .ring] ⊆
      parts) (site : Nat) :
    Only parts s0 (State.deltaGone s site) := by
  unfold State.deltaGone
  repeat' first
    | with_reducible assumption | with_reducible exact List.Subset.trans (by decide) hp | with_reducible intro _
    | (with_reducible apply State.count_only) | (with_reducible apply State.log_only) | (dsimp only) | split
    | (with_reducible refine Only.leaf ?_ ?_)
    | (unfold Same; intro p hq; cases p <;> first | exact absurd (hp (by decide)) hq | dsimp only [Part.same])

theorem State.dropHeld_only {parts : List Part} {s0 s : State} (h : Only parts s0 s) (hp : [.rope, .objects, .ring] ⊆
      parts)  :
    Only parts s0 (State.dropHeld s) := by
  unfold State.dropHeld
  repeat' first
    | with_reducible assumption | with_reducible exact List.Subset.trans (by decide) hp | with_reducible intro _
    | (with_reducible apply State.each_only) | (with_reducible apply State.setRope_only)
    | (with_reducible apply State.deltaGone_only) | (dsimp only) | split | (with_reducible refine Only.leaf ?_ ?_)
    | (unfold Same; intro p hq; cases p <;> first | exact absurd (hp (by decide)) hq | dsimp only [Part.same])

theorem State.closeWith_only {parts : List Part} {s0 s : State} (h : Only parts s0 s) (hp : [.fabric, .mem, .poison,
      .movers, .rope, .objects, .ring] ⊆ parts) (members : List Nat) (regroup : Bool) (cause : Nat) :
    Only parts s0 (State.closeWith s members regroup cause) := by
  unfold State.closeWith
  repeat' first
    | with_reducible assumption | with_reducible exact List.Subset.trans (by decide) hp | with_reducible intro _
    | (with_reducible apply Only.ite) | (with_reducible apply State.on_only)
    | (with_reducible apply State.log_only) | (with_reducible apply State.each_only)
    | (with_reducible apply State.setRope_only) | (with_reducible apply State.setRopeRec_only)
    | (with_reducible apply State.repairRequest_only) | (with_reducible apply State.commitClose_only)
    | (with_reducible apply State.dropHeld_only) | (dsimp only) | split | (with_reducible refine Only.leaf ?_ ?_)
    | (unfold Same; intro p hq; cases p <;> first | exact absurd (hp (by decide)) hq | dsimp only [Part.same])

theorem State.tryClose_only {parts : List Part} {s0 s : State} (h : Only parts s0 s) (hp : [.fabric, .mem, .poison,
      .movers, .rope, .objects, .ring] ⊆ parts)  :
    Only parts s0 (State.tryClose s) := by
  unfold State.tryClose
  repeat' first
    | with_reducible assumption | with_reducible exact List.Subset.trans (by decide) hp | with_reducible intro _
    | (with_reducible apply Only.ite) | (with_reducible apply State.closeWith_only) | (dsimp only) | split
    | (with_reducible refine Only.leaf ?_ ?_)
    | (unfold Same; intro p hq; cases p <;> first | exact absurd (hp (by decide)) hq | dsimp only [Part.same])

theorem execRoundDeadline_only {parts : List Part} {s0 s : State} (h : Only parts s0 s) (hp : [.hall, .time, .fabric,
      .mem, .poison, .movers, .rope, .objects, .ring] ⊆ parts)  :
    OnlyO parts s0 (execRoundDeadline s) := by
  unfold execRoundDeadline
  repeat' first
    | with_reducible assumption | with_reducible exact List.Subset.trans (by decide) hp
    | (with_reducible apply act_only) | with_reducible intro _ | (with_reducible apply Only.ite)
    | (with_reducible apply State.reach_only) | (with_reducible apply State.closeWith_only) | (dsimp only) | split
    | (with_reducible refine Only.leaf ?_ ?_)
    | (unfold Same; intro p hq; cases p <;> first | exact absurd (hp (by decide)) hq | dsimp only [Part.same])

theorem State.holdDelta_only {parts : List Part} {s0 s : State} (h : Only parts s0 s) (hp : [.rope, .objects, .ring]
      ⊆ parts) (site round : Nat) (vals : Tbl Nat) :
    Only parts s0 (State.holdDelta s site round vals) := by
  unfold State.holdDelta
  repeat' first
    | with_reducible assumption | with_reducible exact List.Subset.trans (by decide) hp | with_reducible intro _
    | (with_reducible apply Only.ite) | (with_reducible apply State.on_only)
    | (with_reducible apply State.setRope_only) | (with_reducible apply State.deltaGone_only)
    | (with_reducible apply Only.foldl) | (with_reducible apply Only.foldl1) | (with_reducible apply Only.foldl2)
    | (dsimp only) | split | (with_reducible refine Only.leaf ?_ ?_)
    | (unfold Same; intro p hq; cases p <;> first | exact absurd (hp (by decide)) hq | dsimp only [Part.same])

theorem State.replicaHold_only {parts : List Part} {s0 s : State} (h : Only parts s0 s) (hp : [.rope, .objects,
      .ring] ⊆ parts) (prev : Nat) (prevMembers now carry : List Nat) :
    Only parts s0 (State.replicaHold s prev prevMembers now carry) := by
  unfold State.replicaHold
  repeat' first
    | with_reducible assumption | with_reducible exact List.Subset.trans (by decide) hp | with_reducible intro _
    | (with_reducible apply Only.ite) | (with_reducible apply State.each_only)
    | (with_reducible apply State.holdDelta_only) | (dsimp only) | split | (with_reducible refine Only.leaf ?_ ?_)
    | (unfold Same; intro p hq; cases p <;> first | exact absurd (hp (by decide)) hq | dsimp only [Part.same])

theorem State.answerPrepare_only {parts : List Part} {s0 s : State} (h : Only parts s0 s) (hp : [.fabric, .movers,
      .rope] ⊆ parts)  :
    Only parts s0 (State.answerPrepare s) := by
  unfold State.answerPrepare
  repeat' first
    | with_reducible assumption | with_reducible exact List.Subset.trans (by decide) hp | with_reducible intro _
    | (with_reducible apply Only.ite) | (with_reducible apply State.setRope_only)
    | (with_reducible apply State.repairRequest_only) | (dsimp only) | split
    | (with_reducible refine Only.leaf ?_ ?_)
    | (unfold Same; intro p hq; cases p <;> first | exact absurd (hp (by decide)) hq | dsimp only [Part.same])

theorem execClosePrepare_only {parts : List Part} {s0 s : State} (h : Only parts s0 s) (hp : [.fabric, .mem, .poison,
      .movers, .rope, .objects, .ring] ⊆ parts) (entry : List Byte) :
    OnlyO parts s0 (execClosePrepare entry s) := by
  unfold execClosePrepare
  repeat' first
    | with_reducible assumption | with_reducible exact List.Subset.trans (by decide) hp
    | (with_reducible apply act_only) | with_reducible intro _ | (with_reducible apply Only.ite)
    | (with_reducible apply State.setRope_only) | (with_reducible apply State.setRopeRec_only)
    | (with_reducible apply State.dropHeld_only) | (with_reducible apply State.replicaHold_only)
    | (with_reducible apply State.answerPrepare_only) | (with_reducible apply Only.foldl)
    | (with_reducible apply Only.foldl1) | (with_reducible apply Only.foldl2) | (dsimp only) | split
    | (with_reducible refine Only.leaf ?_ ?_)
    | (unfold Same; intro p hq; cases p <;> first | exact absurd (hp (by decide)) hq | dsimp only [Part.same])

theorem execCloseAck_only {parts : List Part} {s0 s : State} (h : Only parts s0 s) (hp : [.fabric, .mem, .poison,
      .movers, .rope, .objects] ⊆ parts) (replica : Fin 64) (entry : List Byte) :
    OnlyO parts s0 (execCloseAck replica entry s) := by
  unfold execCloseAck
  repeat' first
    | with_reducible assumption | with_reducible exact List.Subset.trans (by decide) hp
    | (with_reducible apply act_only) | with_reducible intro _ | (with_reducible apply Only.ite)
    | (with_reducible apply State.setRope_only) | (with_reducible apply State.commitClose_only) | (dsimp only)
    | split | (with_reducible refine Only.leaf ?_ ?_)
    | (unfold Same; intro p hq; cases p <;> first | exact absurd (hp (by decide)) hq | dsimp only [Part.same])

theorem execCloseCommit_only {parts : List Part} {s0 s : State} (h : Only parts s0 s) (hp : [.mem, .poison, .objects]
      ⊆ parts) (entry : List Byte) :
    OnlyO parts s0 (execCloseCommit entry s) := by
  unfold execCloseCommit
  repeat' first
    | with_reducible assumption | with_reducible exact List.Subset.trans (by decide) hp
    | (with_reducible apply act_only) | with_reducible intro _ | (with_reducible apply Only.ite)
    | (with_reducible apply State.setRopeRec_only) | (dsimp only) | split | (with_reducible refine Only.leaf ?_ ?_)
    | (unfold Same; intro p hq; cases p <;> first | exact absurd (hp (by decide)) hq | dsimp only [Part.same])

theorem execCloseAckLimitExpire_only {parts : List Part} {s0 s : State} (h : Only parts s0 s) (hp : [.out, .hall,
      .time, .hold, .links, .ctxs, .rope, .objects, .ring, .msix, .alert] ⊆ parts)  :
    OnlyO parts s0 (execCloseAckLimitExpire s) := by
  unfold execCloseAckLimitExpire
  repeat' first
    | with_reducible assumption | with_reducible exact List.Subset.trans (by decide) hp
    | (with_reducible apply act_only) | with_reducible intro _ | (with_reducible apply Only.ite)
    | (with_reducible apply State.reach_only) | (with_reducible apply State.log_only)
    | (with_reducible apply State.faultCount_only) | (with_reducible apply State.jobFail_only)
    | (with_reducible apply State.setRope_only) | (dsimp only) | split | (with_reducible refine Only.leaf ?_ ?_)
    | (unfold Same; intro p hq; cases p <;> first | exact absurd (hp (by decide)) hq | dsimp only [Part.same])

theorem execMemWrite_only {parts : List Part} {s0 s : State} (h : Only parts s0 s) (hp : [.out, .links, .fabric,
      .mem, .poison, .stores, .maps, .movers, .rope, .objects, .ring] ⊆ parts) (p : Packet) :
    OnlyO parts s0 (execMemWrite p s) := by
  unfold execMemWrite
  repeat' first
    | with_reducible assumption | with_reducible exact List.Subset.trans (by decide) hp
    | (with_reducible apply act_only) | with_reducible intro _ | (with_reducible apply Only.ite)
    | (with_reducible apply State.serveWrite_only) | (with_reducible apply State.answerPrepare_only) | (dsimp only)
    | split | (with_reducible refine Only.leaf ?_ ?_)
    | (unfold Same; intro p hq; cases p <;> first | exact absurd (hp (by decide)) hq | dsimp only [Part.same])

theorem State.deltaArrived_only {parts : List Part} {s0 s : State} (h : Only parts s0 s) (hp : [.fabric, .mem,
      .poison, .movers, .rope, .objects, .ring] ⊆ parts) (site round : Nat) (was : Bool) :
    Only parts s0 (State.deltaArrived s site round was) := by
  unfold State.deltaArrived
  repeat' first
    | with_reducible assumption | with_reducible exact List.Subset.trans (by decide) hp | with_reducible intro _
    | (with_reducible apply Only.ite) | (with_reducible apply State.count_only)
    | (with_reducible apply State.log_only) | (with_reducible apply State.deltaGone_only)
    | (with_reducible apply State.tryClose_only) | (with_reducible apply State.holdDelta_only) | (dsimp only)
    | split | (with_reducible refine Only.leaf ?_ ?_)
    | (unfold Same; intro p hq; cases p <;> first | exact absurd (hp (by decide)) hq | dsimp only [Part.same])

theorem State.takeDelta_only {parts : List Part} {s0 s : State} (h : Only parts s0 s) (hp : [.fabric, .mem, .poison,
      .movers, .rope, .objects, .ring] ⊆ parts) (w x : Nat) (body : List Byte) :
    OnlyOpt parts s0 (State.takeDelta s w x body) := by
  unfold State.takeDelta
  repeat' first
    | with_reducible assumption | with_reducible exact List.Subset.trans (by decide) hp | with_reducible intro _
    | (with_reducible apply OnlyOpt.none) | (with_reducible apply OnlyOpt.some)
    | (with_reducible apply OnlyOpt.ite) | (with_reducible apply Only.ite) | (with_reducible apply State.on_only)
    | (with_reducible apply State.setRope_only) | (with_reducible apply State.writeAll_only)
    | (with_reducible apply State.deltaArrived_only) | (dsimp only) | split
    | (with_reducible refine Only.leaf ?_ ?_)
    | (unfold Same; intro p hq; cases p <;> first | exact absurd (hp (by decide)) hq | dsimp only [Part.same])

theorem State.receiveDelta_only {parts : List Part} {s0 s : State} (h : Only parts s0 s) (hp : [.fabric, .mem,
      .poison, .movers, .rope, .objects, .ring] ⊆ parts) (f : RopeFrame) :
    Only parts s0 (State.receiveDelta s f) := by
  unfold State.receiveDelta
  repeat' first
    | with_reducible assumption | with_reducible exact List.Subset.trans (by decide) hp | with_reducible intro _
    | (with_reducible apply State.receiveFrame_only) | (with_reducible apply State.takeDelta_only)
    | (with_reducible refine OnlyOpt.get ?_ (by assumption)) | (with_reducible apply OnlyOpt.getD)
    | (with_reducible apply OnlyOpt.none) | (with_reducible apply OnlyOpt.some)
    | (with_reducible apply OnlyOpt.ite) | (dsimp only) | split | (with_reducible refine Only.leaf ?_ ?_)
    | (unfold Same; intro p hq; cases p <;> first | exact absurd (hp (by decide)) hq | dsimp only [Part.same])

theorem State.compareRefs_only {parts : List Part} {s0 s : State} (h : Only parts s0 s) (hp : [.rope, .objects,
      .ring] ⊆ parts) (site round : Nat) :
    Only parts s0 (State.compareRefs s site round) := by
  unfold State.compareRefs
  repeat' first
    | with_reducible assumption | with_reducible exact List.Subset.trans (by decide) hp | with_reducible intro _
    | (with_reducible apply Only.ite) | (with_reducible apply State.log_only)
    | (with_reducible apply State.setRope_only) | (dsimp only) | split | (with_reducible refine Only.leaf ?_ ?_)
    | (unfold Same; intro p hq; cases p <;> first | exact absurd (hp (by decide)) hq | dsimp only [Part.same])

theorem State.sendDifference_only {parts : List Part} {s0 s : State} (h : Only parts s0 s) (hp : [.rope] ⊆ parts) (b
      : Bid) :
    Only parts s0 (State.sendDifference s b) := by
  unfold State.sendDifference
  repeat' first
    | with_reducible assumption | with_reducible exact List.Subset.trans (by decide) hp | with_reducible intro _
    | (with_reducible apply State.each_only) | (with_reducible apply State.queueTo_only) | (dsimp only) | split
    | (with_reducible refine Only.leaf ?_ ?_)
    | (unfold Same; intro p hq; cases p <;> first | exact absurd (hp (by decide)) hq | dsimp only [Part.same])

theorem State.adoptBid_only {parts : List Part} {s0 s : State} (h : Only parts s0 s) (hp : [.rope] ⊆ parts) (b : Bid)
      :
    Only parts s0 (State.adoptBid s b) := by
  unfold State.adoptBid
  repeat' first
    | with_reducible assumption | with_reducible exact List.Subset.trans (by decide) hp | with_reducible intro _
    | (with_reducible apply Only.ite) | (with_reducible apply State.setRope_only)
    | (with_reducible apply State.sendDifference_only) | (dsimp only) | split
    | (with_reducible refine Only.leaf ?_ ?_)
    | (unfold Same; intro p hq; cases p <;> first | exact absurd (hp (by decide)) hq | dsimp only [Part.same])

theorem State.takeInfo_only {parts : List Part} {s0 s : State} (h : Only parts s0 s) (hp : [.fabric, .mem, .poison,
      .movers, .rope, .objects, .ring] ⊆ parts) (x : Nat) (body : List Byte) :
    OnlyOpt parts s0 (State.takeInfo s x body) := by
  unfold State.takeInfo
  repeat' first
    | with_reducible assumption | with_reducible exact List.Subset.trans (by decide) hp | with_reducible intro _
    | (with_reducible apply OnlyOpt.none) | (with_reducible apply OnlyOpt.some)
    | (with_reducible apply OnlyOpt.ite) | (with_reducible apply Only.ite)
    | (with_reducible apply State.setRope_only) | (with_reducible apply State.setPeer_only)
    | (with_reducible apply State.writeAll_only) | (with_reducible apply State.tryClose_only)
    | (with_reducible apply State.deltaArrived_only) | (with_reducible apply State.compareRefs_only)
    | (with_reducible apply State.adoptBid_only) | (dsimp only) | split | (with_reducible refine Only.leaf ?_ ?_)
    | (unfold Same; intro p hq; cases p <;> first | exact absurd (hp (by decide)) hq | dsimp only [Part.same])

theorem State.receiveInfo_only {parts : List Part} {s0 s : State} (h : Only parts s0 s) (hp : [.fabric, .mem,
      .poison, .movers, .rope, .objects, .ring] ⊆ parts) (f : RopeFrame) :
    Only parts s0 (State.receiveInfo s f) := by
  unfold State.receiveInfo
  repeat' first
    | with_reducible assumption | with_reducible exact List.Subset.trans (by decide) hp | with_reducible intro _
    | (with_reducible apply State.receiveFrame_only) | (with_reducible apply State.takeInfo_only)
    | (with_reducible refine OnlyOpt.get ?_ (by assumption)) | (with_reducible apply OnlyOpt.getD)
    | (with_reducible apply OnlyOpt.none) | (with_reducible apply OnlyOpt.some)
    | (with_reducible apply OnlyOpt.ite) | (dsimp only) | split | (with_reducible refine Only.leaf ?_ ?_)
    | (unfold Same; intro p hq; cases p <;> first | exact absurd (hp (by decide)) hq | dsimp only [Part.same])

theorem State.takeRegroup_only {parts : List Part} {s0 s : State} (h : Only parts s0 s) (hp : [.fabric, .mem,
      .poison, .movers, .rope, .objects, .ring] ⊆ parts) (w x : Nat) (body : List Byte) :
    OnlyOpt parts s0 (State.takeRegroup s w x body) := by
  unfold State.takeRegroup
  repeat' first
    | with_reducible assumption | with_reducible exact List.Subset.trans (by decide) hp | with_reducible intro _
    | (with_reducible apply OnlyOpt.none) | (with_reducible apply OnlyOpt.some)
    | (with_reducible apply OnlyOpt.ite) | (with_reducible apply Only.ite)
    | (with_reducible apply State.setRope_only) | (with_reducible apply State.writeAll_only)
    | (with_reducible apply State.tryClose_only) | (dsimp only) | split | (with_reducible refine Only.leaf ?_ ?_)
    | (unfold Same; intro p hq; cases p <;> first | exact absurd (hp (by decide)) hq | dsimp only [Part.same])

theorem State.receiveRegroup_only {parts : List Part} {s0 s : State} (h : Only parts s0 s) (hp : [.fabric, .mem,
      .poison, .movers, .rope, .objects, .ring] ⊆ parts) (f : RopeFrame) :
    Only parts s0 (State.receiveRegroup s f) := by
  unfold State.receiveRegroup
  repeat' first
    | with_reducible assumption | with_reducible exact List.Subset.trans (by decide) hp | with_reducible intro _
    | (with_reducible apply State.receiveFrame_only) | (with_reducible apply State.takeRegroup_only)
    | (with_reducible refine OnlyOpt.get ?_ (by assumption)) | (with_reducible apply OnlyOpt.getD)
    | (with_reducible apply OnlyOpt.none) | (with_reducible apply OnlyOpt.some)
    | (with_reducible apply OnlyOpt.ite) | (dsimp only) | split | (with_reducible refine Only.leaf ?_ ?_)
    | (unfold Same; intro p hq; cases p <;> first | exact absurd (hp (by decide)) hq | dsimp only [Part.same])

theorem State.sendBelay_only {parts : List Part} {s0 s : State} (h : Only parts s0 s) (hp : [.rope] ⊆ parts) (site :
      Nat) :
    Only parts s0 (State.sendBelay s site) := by
  unfold State.sendBelay
  repeat' first
    | with_reducible assumption | with_reducible exact List.Subset.trans (by decide) hp | with_reducible intro _
    | (with_reducible apply State.each_only) | (with_reducible apply State.queueTo_only) | (dsimp only) | split
    | (with_reducible refine Only.leaf ?_ ?_)
    | (unfold Same; intro p hq; cases p <;> first | exact absurd (hp (by decide)) hq | dsimp only [Part.same])

theorem State.receiveOpen_only {parts : List Part} {s0 s : State} (h : Only parts s0 s) (hp : [.out, .drawn, .links,
      .fabric, .rope, .objects, .ring] ⊆ parts) (f : RopeFrame) :
    Only parts s0 (State.receiveOpen s f) := by
  unfold State.receiveOpen
  repeat' first
    | with_reducible assumption | with_reducible exact List.Subset.trans (by decide) hp | with_reducible intro _
    | (with_reducible apply Only.ite) | (with_reducible apply State.setPeer_only)
    | (with_reducible apply State.takeOpen_only) | (with_reducible apply State.sendBelay_only) | (dsimp only)
    | split | (with_reducible refine Only.leaf ?_ ?_)
    | (unfold Same; intro p hq; cases p <;> first | exact absurd (hp (by decide)) hq | dsimp only [Part.same])

theorem State.repeatBelays_only {parts : List Part} {s0 s : State} (h : Only parts s0 s) (hp : [.rope] ⊆ parts)  :
    Only parts s0 (State.repeatBelays s) := by
  unfold State.repeatBelays
  repeat' first
    | with_reducible assumption | with_reducible exact List.Subset.trans (by decide) hp | with_reducible intro _
    | (with_reducible apply Only.ite) | (with_reducible apply State.each_only)
    | (with_reducible apply State.mapSess_only) | (with_reducible apply State.sendBelay_only) | (dsimp only)
    | split | (with_reducible refine Only.leaf ?_ ?_)
    | (unfold Same; intro p hq; cases p <;> first | exact absurd (hp (by decide)) hq | dsimp only [Part.same])

theorem State.joinBlk_only {parts : List Part} {s0 s : State} (h : Only parts s0 s) (hp : [.fabric, .mem, .poison,
      .movers, .objects] ⊆ parts) (t : Tbl (List Byte)) (i : Nat) (k : Blk) :
    Only parts s0 (State.joinBlk s t i k) := by
  unfold State.joinBlk
  repeat' first
    | with_reducible assumption | with_reducible exact List.Subset.trans (by decide) hp | with_reducible intro _
    | (with_reducible apply Only.ite) | (with_reducible apply State.each_only)
    | (with_reducible apply State.countSlots_only) | (with_reducible apply State.writeAll_only) | (dsimp only)
    | split | (with_reducible refine Only.leaf ?_ ?_)
    | (unfold Same; intro p hq; cases p <;> first | exact absurd (hp (by decide)) hq | dsimp only [Part.same])

theorem State.finishJoin_only {parts : List Part} {s0 s : State} (h : Only parts s0 s) (hp : [.fabric, .mem, .poison,
      .movers, .rope, .objects, .ring] ⊆ parts) (site : Nat) :
    Only parts s0 (State.finishJoin s site) := by
  unfold State.finishJoin
  repeat' first
    | with_reducible assumption | with_reducible exact List.Subset.trans (by decide) hp | with_reducible intro _
    | (with_reducible apply Only.ite) | (with_reducible apply State.log_only)
    | (with_reducible apply State.each_only) | (with_reducible apply State.setRope_only)
    | (with_reducible apply State.setRopeRec_only) | (with_reducible apply State.setPeer_only)
    | (with_reducible apply State.setSess_only) | (with_reducible apply State.writeAll_only)
    | (with_reducible apply State.joinBlk_only) | (with_reducible apply Only.foldl)
    | (with_reducible apply Only.foldl1) | (with_reducible apply Only.foldl2) | (dsimp only) | split
    | (with_reducible refine Only.leaf ?_ ?_)
    | (unfold Same; intro p hq; cases p <;> first | exact absurd (hp (by decide)) hq | dsimp only [Part.same])

theorem State.takeBelay_only {parts : List Part} {s0 s : State} (h : Only parts s0 s) (hp : [.fabric, .mem, .poison,
      .movers, .rope, .objects, .ring] ⊆ parts) (w x : Nat) (body : List Byte) :
    OnlyOpt parts s0 (State.takeBelay s w x body) := by
  unfold State.takeBelay
  repeat' first
    | with_reducible assumption | with_reducible exact List.Subset.trans (by decide) hp | with_reducible intro _
    | (with_reducible apply OnlyOpt.none) | (with_reducible apply OnlyOpt.some)
    | (with_reducible apply OnlyOpt.ite) | (with_reducible apply Only.ite)
    | (with_reducible apply State.setRope_only) | (with_reducible apply State.finishJoin_only) | (dsimp only)
    | split | (with_reducible refine Only.leaf ?_ ?_)
    | (unfold Same; intro p hq; cases p <;> first | exact absurd (hp (by decide)) hq | dsimp only [Part.same])

theorem State.receiveBelay_only {parts : List Part} {s0 s : State} (h : Only parts s0 s) (hp : [.fabric, .mem,
      .poison, .movers, .rope, .objects, .ring] ⊆ parts) (f : RopeFrame) :
    Only parts s0 (State.receiveBelay s f) := by
  unfold State.receiveBelay
  repeat' first
    | with_reducible assumption | with_reducible exact List.Subset.trans (by decide) hp | with_reducible intro _
    | (with_reducible apply State.receiveFrame_only) | (with_reducible apply State.takeBelay_only)
    | (with_reducible refine OnlyOpt.get ?_ (by assumption)) | (with_reducible apply OnlyOpt.getD)
    | (with_reducible apply OnlyOpt.none) | (with_reducible apply OnlyOpt.some)
    | (with_reducible apply OnlyOpt.ite) | (dsimp only) | split | (with_reducible refine Only.leaf ?_ ?_)
    | (unfold Same; intro p hq; cases p <;> first | exact absurd (hp (by decide)) hq | dsimp only [Part.same])

theorem State.checkSlack_only {parts : List Part} {s0 s : State} (h : Only parts s0 s) (hp : [.rope, .objects, .ring]
      ⊆ parts)  :
    Only parts s0 (State.checkSlack s) := by
  unfold State.checkSlack
  repeat' first
    | with_reducible assumption | with_reducible exact List.Subset.trans (by decide) hp | with_reducible intro _
    | (with_reducible apply State.each_only) | (with_reducible apply State.goSlack_only) | (dsimp only) | split
    | (with_reducible refine Only.leaf ?_ ?_)
    | (unfold Same; intro p hq; cases p <;> first | exact absurd (hp (by decide)) hq | dsimp only [Part.same])

theorem State.sendRound_only {parts : List Part} {s0 s : State} (h : Only parts s0 s) (hp : [.rope] ⊆ parts) (round :
      Nat) (info : List Byte) :
    Only parts s0 (State.sendRound s round info) := by
  unfold State.sendRound
  repeat' first
    | with_reducible assumption | with_reducible exact List.Subset.trans (by decide) hp | with_reducible intro _
    | (with_reducible apply State.each_only) | (with_reducible apply State.queueTo_only)
    | (with_reducible apply State.dealTo_only) | (dsimp only) | split | (with_reducible refine Only.leaf ?_ ?_)
    | (unfold Same; intro p hq; cases p <;> first | exact absurd (hp (by decide)) hq | dsimp only [Part.same])

theorem State.abandonRegroup_only {parts : List Part} {s0 s : State} (h : Only parts s0 s) (hp : [.rope, .objects,
      .ring] ⊆ parts) (round : Nat) :
    Only parts s0 (State.abandonRegroup s round) := by
  unfold State.abandonRegroup
  repeat' first
    | with_reducible assumption | with_reducible exact List.Subset.trans (by decide) hp | with_reducible intro _
    | (with_reducible apply Only.ite) | (with_reducible apply State.log_only)
    | (with_reducible apply State.setRope_only) | (dsimp only) | split | (with_reducible refine Only.leaf ?_ ?_)
    | (unfold Same; intro p hq; cases p <;> first | exact absurd (hp (by decide)) hq | dsimp only [Part.same])

theorem State.forceClose_only {parts : List Part} {s0 s : State} (h : Only parts s0 s) (hp : [.fabric, .mem, .poison,
      .movers, .rope, .objects, .ring] ⊆ parts) (round : Nat) :
    Only parts s0 (State.forceClose s round) := by
  unfold State.forceClose
  repeat' first
    | with_reducible assumption | with_reducible exact List.Subset.trans (by decide) hp | with_reducible intro _
    | (with_reducible apply Only.ite) | (with_reducible apply State.closeWith_only) | (dsimp only) | split
    | (with_reducible refine Only.leaf ?_ ?_)
    | (unfold Same; intro p hq; cases p <;> first | exact absurd (hp (by decide)) hq | dsimp only [Part.same])

theorem State.makeBid_only {parts : List Part} {s0 s : State} (h : Only parts s0 s) (hp : [.rope] ⊆ parts) (round :
      Nat) :
    Only parts s0 (State.makeBid s round).1 := by
  unfold State.makeBid
  repeat' first
    | with_reducible assumption | with_reducible exact List.Subset.trans (by decide) hp | with_reducible intro _
    | (with_reducible apply Only.ite) | (with_reducible apply Only.ite1)
    | (with_reducible apply State.setRope_only) | (dsimp only) | split | (with_reducible refine Only.leaf ?_ ?_)
    | (unfold Same; intro p hq; cases p <;> first | exact absurd (hp (by decide)) hq | dsimp only [Part.same])

theorem State.afterRound_only {parts : List Part} {s0 s : State} (h : Only parts s0 s) (hp : [.fabric, .mem, .poison,
      .movers, .rope, .objects, .ring] ⊆ parts) (round : Nat) :
    Only parts s0 (State.afterRound s round) := by
  unfold State.afterRound
  repeat' first
    | with_reducible assumption | with_reducible exact List.Subset.trans (by decide) hp | with_reducible intro _
    | (with_reducible apply Only.ite) | (with_reducible apply State.each_only)
    | (with_reducible apply State.setRope_only) | (with_reducible apply State.tryClose_only)
    | (with_reducible apply State.compareRefs_only) | (with_reducible apply State.sendDifference_only)
    | (with_reducible apply State.adoptBid_only) | (with_reducible apply State.checkSlack_only)
    | (with_reducible apply State.sendRound_only) | (with_reducible apply State.abandonRegroup_only)
    | (with_reducible apply State.forceClose_only) | (with_reducible apply State.makeBid_only)
    | (with_reducible refine Only.fst ?_ (by assumption)) | (dsimp only) | split
    | (with_reducible refine Only.leaf ?_ ?_)
    | (unfold Same; intro p hq; cases p <;> first | exact absurd (hp (by decide)) hq | dsimp only [Part.same])

theorem State.endShift_only {parts : List Part} {s0 s : State} (h : Only parts s0 s) (hp : [.mem, .poison, .rope,
      .objects, .ring] ⊆ parts) (step : Nat) :
    Only parts s0 (State.endShift s step) := by
  unfold State.endShift
  repeat' first
    | with_reducible assumption | with_reducible exact List.Subset.trans (by decide) hp | with_reducible intro _
    | (with_reducible apply Only.ite) | (with_reducible apply State.count_only)
    | (with_reducible apply State.log_only) | (with_reducible apply State.setRope_only)
    | (with_reducible apply State.setRopeRec_only) | (with_reducible apply State.repeatBelays_only)
    | (with_reducible apply Only.foldl) | (with_reducible apply Only.foldl1) | (with_reducible apply Only.foldl2)
    | (dsimp only) | split | (with_reducible refine Only.leaf ?_ ?_)
    | (unfold Same; intro p hq; cases p <;> first | exact absurd (hp (by decide)) hq | dsimp only [Part.same])

theorem State.endRound_only {parts : List Part} {s0 s : State} (h : Only parts s0 s) (hp : [.mem, .poison, .rope,
      .objects] ⊆ parts) (step : Nat) :
    Only parts s0 (State.endRound s step) := by
  unfold State.endRound
  repeat' first
    | with_reducible assumption | with_reducible exact List.Subset.trans (by decide) hp | with_reducible intro _
    | (with_reducible apply State.setObj_only) | (with_reducible apply State.each_only)
    | (with_reducible apply State.mpWrite_only) | (with_reducible apply State.setRopeRec_only)
    | (with_reducible apply State.setStream_only) | (dsimp only) | split | (with_reducible refine Only.leaf ?_ ?_)
    | (unfold Same; intro p hq; cases p <;> first | exact absurd (hp (by decide)) hq | dsimp only [Part.same])

theorem State.endSweep_only {parts : List Part} {s0 s : State} (h : Only parts s0 s) (hp : [.out, .hold, .links,
      .fabric, .mem, .poison, .ctxs, .sems, .movers, .deltas, .train, .rope, .objects, .ring, .faults, .msix, .alert]
      ⊆ parts)  :
    Only parts s0 (State.endSweep s) := by
  unfold State.endSweep
  repeat' first
    | with_reducible assumption | with_reducible exact List.Subset.trans (by decide) hp | with_reducible intro _
    | (with_reducible apply Only.ite) | (with_reducible apply State.on_only)
    | (with_reducible apply State.setStepRec_only) | (with_reducible apply State.resumeSweeps_only)
    | (with_reducible apply State.tryClose_only) | (with_reducible apply State.afterRound_only)
    | (with_reducible apply State.endShift_only) | (with_reducible apply State.endRound_only) | (dsimp only)
    | split | (with_reducible refine Only.leaf ?_ ?_)
    | (unfold Same; intro p hq; cases p <;> first | exact absurd (hp (by decide)) hq | dsimp only [Part.same])

theorem execSweepEnd_only {parts : List Part} {s0 s : State} (h : Only parts s0 s) (hp : [.out, .hold, .links,
      .fabric, .mem, .poison, .ctxs, .sems, .movers, .deltas, .train, .rope, .objects, .ring, .faults, .msix, .alert]
      ⊆ parts)  :
    OnlyO parts s0 (execSweepEnd s) := by
  unfold execSweepEnd
  repeat' first
    | with_reducible assumption | with_reducible exact List.Subset.trans (by decide) hp
    | (with_reducible apply act_only) | with_reducible intro _ | (with_reducible apply State.endSweep_only)
    | (dsimp only) | split | (with_reducible refine Only.leaf ?_ ?_)
    | (unfold Same; intro p hq; cases p <;> first | exact absurd (hp (by decide)) hq | dsimp only [Part.same])

theorem State.ropeJob_only {parts : List Part} {s0 s : State} (h : Only parts s0 s) (hp : [.rope] ⊆ parts)  :
    Only parts s0 (State.ropeJob s) := by
  unfold State.ropeJob
  repeat' first
    | with_reducible assumption | with_reducible exact List.Subset.trans (by decide) hp | with_reducible intro _
    | (with_reducible apply Only.ite) | (with_reducible apply State.each_only)
    | (with_reducible apply State.setRope_only) | (with_reducible apply State.sendRound_only) | (dsimp only)
    | split | (with_reducible refine Only.leaf ?_ ?_)
    | (unfold Same; intro p hq; cases p <;> first | exact absurd (hp (by decide)) hq | dsimp only [Part.same])

theorem State.atGateway_only {parts : List Part} {s0 s : State} (h : Only parts s0 s) (hp : [.out, .links, .fabric,
      .objects, .ring] ⊆ parts) (f : RopeFrame) (run : State → State) (hrun : ∀ u, Only parts s0 u → Only parts s0
      (run u)) :
    Only parts s0 (State.atGateway s f run) := by
  unfold State.atGateway
  repeat' first
    | with_reducible assumption | with_reducible exact List.Subset.trans (by decide) hp | with_reducible intro _
    | (with_reducible apply Only.ite) | (with_reducible apply hrun) | (with_reducible apply State.packetSend_only)
    | (dsimp only) | split | (with_reducible refine Only.leaf ?_ ?_)
    | (unfold Same; intro p hq; cases p <;> first | exact absurd (hp (by decide)) hq | dsimp only [Part.same])

theorem execRopeOpen_only {parts : List Part} {s0 s : State} (h : Only parts s0 s) (hp : [.out, .drawn, .links,
      .fabric, .rope, .objects, .ring] ⊆ parts) (f : RopeFrame) :
    OnlyO parts s0 (execRopeOpen f s) := by
  unfold execRopeOpen
  repeat' first
    | with_reducible assumption | with_reducible exact List.Subset.trans (by decide) hp
    | (with_reducible apply act_only) | with_reducible intro _ | (with_reducible apply State.receiveOpen_only)
    | (with_reducible apply State.atGateway_only) | (dsimp only) | split | (with_reducible refine Only.leaf ?_ ?_)
    | (unfold Same; intro p hq; cases p <;> first | exact absurd (hp (by decide)) hq | dsimp only [Part.same])

theorem execRopeAccept_only {parts : List Part} {s0 s : State} (h : Only parts s0 s) (hp : [.out, .links, .fabric,
      .rope, .objects, .ring] ⊆ parts) (f : RopeFrame) :
    OnlyO parts s0 (execRopeAccept f s) := by
  unfold execRopeAccept
  repeat' first
    | with_reducible assumption | with_reducible exact List.Subset.trans (by decide) hp
    | (with_reducible apply act_only) | with_reducible intro _ | (with_reducible apply State.takeAccept_only)
    | (with_reducible apply State.atGateway_only) | (dsimp only) | split | (with_reducible refine Only.leaf ?_ ?_)
    | (unfold Same; intro p hq; cases p <;> first | exact absurd (hp (by decide)) hq | dsimp only [Part.same])

theorem execRopeDelta_only {parts : List Part} {s0 s : State} (h : Only parts s0 s) (hp : [.out, .links, .fabric,
      .mem, .poison, .movers, .rope, .objects, .ring] ⊆ parts) (f : RopeFrame) :
    OnlyO parts s0 (execRopeDelta f s) := by
  unfold execRopeDelta
  repeat' first
    | with_reducible assumption | with_reducible exact List.Subset.trans (by decide) hp
    | (with_reducible apply act_only) | with_reducible intro _ | (with_reducible apply State.receiveDelta_only)
    | (with_reducible apply State.atGateway_only) | (dsimp only) | split | (with_reducible refine Only.leaf ?_ ?_)
    | (unfold Same; intro p hq; cases p <;> first | exact absurd (hp (by decide)) hq | dsimp only [Part.same])

theorem execRopeSack_only {parts : List Part} {s0 s : State} (h : Only parts s0 s) (hp : [.out, .links, .fabric,
      .rope, .objects, .ring] ⊆ parts) (f : RopeFrame) :
    OnlyO parts s0 (execRopeSack f s) := by
  unfold execRopeSack
  repeat' first
    | with_reducible assumption | with_reducible exact List.Subset.trans (by decide) hp
    | (with_reducible apply act_only) | with_reducible intro _ | (with_reducible apply State.receiveSack_only)
    | (with_reducible apply State.atGateway_only) | (dsimp only) | split | (with_reducible refine Only.leaf ?_ ?_)
    | (unfold Same; intro p hq; cases p <;> first | exact absurd (hp (by decide)) hq | dsimp only [Part.same])

theorem execRoundInfo_only {parts : List Part} {s0 s : State} (h : Only parts s0 s) (hp : [.out, .links, .fabric,
      .mem, .poison, .movers, .rope, .objects, .ring] ⊆ parts) (f : RopeFrame) :
    OnlyO parts s0 (execRoundInfo f s) := by
  unfold execRoundInfo
  repeat' first
    | with_reducible assumption | with_reducible exact List.Subset.trans (by decide) hp
    | (with_reducible apply act_only) | with_reducible intro _ | (with_reducible apply State.receiveInfo_only)
    | (with_reducible apply State.atGateway_only) | (dsimp only) | split | (with_reducible refine Only.leaf ?_ ?_)
    | (unfold Same; intro p hq; cases p <;> first | exact absurd (hp (by decide)) hq | dsimp only [Part.same])

theorem execRekey_only {parts : List Part} {s0 s : State} (h : Only parts s0 s) (hp : [.out, .drawn, .links, .fabric,
      .rope, .objects, .ring] ⊆ parts) (f : RopeFrame) :
    OnlyO parts s0 (execRekey f s) := by
  unfold execRekey
  repeat' first
    | with_reducible assumption | with_reducible exact List.Subset.trans (by decide) hp
    | (with_reducible apply act_only) | with_reducible intro _ | (with_reducible apply State.receiveRekey_only)
    | (with_reducible apply State.atGateway_only) | (dsimp only) | split | (with_reducible refine Only.leaf ?_ ?_)
    | (unfold Same; intro p hq; cases p <;> first | exact absurd (hp (by decide)) hq | dsimp only [Part.same])

theorem execRekeyAck_only {parts : List Part} {s0 s : State} (h : Only parts s0 s) (hp : [.out, .links, .fabric,
      .rope, .objects, .ring] ⊆ parts) (f : RopeFrame) :
    OnlyO parts s0 (execRekeyAck f s) := by
  unfold execRekeyAck
  repeat' first
    | with_reducible assumption | with_reducible exact List.Subset.trans (by decide) hp
    | (with_reducible apply act_only) | with_reducible intro _ | (with_reducible apply State.receiveRekeyAck_only)
    | (with_reducible apply State.atGateway_only) | (dsimp only) | split | (with_reducible refine Only.leaf ?_ ?_)
    | (unfold Same; intro p hq; cases p <;> first | exact absurd (hp (by decide)) hq | dsimp only [Part.same])

theorem execRegroup_only {parts : List Part} {s0 s : State} (h : Only parts s0 s) (hp : [.out, .links, .fabric, .mem,
      .poison, .movers, .rope, .objects, .ring] ⊆ parts) (f : RopeFrame) :
    OnlyO parts s0 (execRegroup f s) := by
  unfold execRegroup
  repeat' first
    | with_reducible assumption | with_reducible exact List.Subset.trans (by decide) hp
    | (with_reducible apply act_only) | with_reducible intro _ | (with_reducible apply State.receiveRegroup_only)
    | (with_reducible apply State.atGateway_only) | (dsimp only) | split | (with_reducible refine Only.leaf ?_ ?_)
    | (unfold Same; intro p hq; cases p <;> first | exact absurd (hp (by decide)) hq | dsimp only [Part.same])

theorem execRopeBelay_only {parts : List Part} {s0 s : State} (h : Only parts s0 s) (hp : [.out, .links, .fabric,
      .mem, .poison, .movers, .rope, .objects, .ring] ⊆ parts) (f : RopeFrame) :
    OnlyO parts s0 (execRopeBelay f s) := by
  unfold execRopeBelay
  repeat' first
    | with_reducible assumption | with_reducible exact List.Subset.trans (by decide) hp
    | (with_reducible apply act_only) | with_reducible intro _ | (with_reducible apply State.receiveBelay_only)
    | (with_reducible apply State.atGateway_only) | (dsimp only) | split | (with_reducible refine Only.leaf ?_ ?_)
    | (unfold Same; intro p hq; cases p <;> first | exact absurd (hp (by decide)) hq | dsimp only [Part.same])

theorem execProbe_only {parts : List Part} {s0 s : State} (h : Only parts s0 s) (hp : [.out, .links, .fabric, .rope,
      .objects, .ring] ⊆ parts) (f : RopeFrame) :
    OnlyO parts s0 (execProbe f s) := by
  unfold execProbe
  repeat' first
    | with_reducible assumption | with_reducible exact List.Subset.trans (by decide) hp
    | (with_reducible apply act_only) | with_reducible intro _ | (with_reducible apply State.receiveProbe_only)
    | (with_reducible apply State.atGateway_only) | (dsimp only) | split | (with_reducible refine Only.leaf ?_ ?_)
    | (unfold Same; intro p hq; cases p <;> first | exact absurd (hp (by decide)) hq | dsimp only [Part.same])

end Sys2Proof.Machine
end

