-- ==== Sys2Proof/Laws/OnlySequencer.lean ====
section
/-!
SUPPORT. What the operations of Machine/Sequencer.lean can change (Laws/Only.lean).
-/

namespace Sys2Proof.Machine

theorem State.retireS_only {parts : List Part} {s0 s : State} (h : Only parts s0 s) (hp : [.ctxs] ⊆ parts) (c x dst :
      Nat) (v : BitVec 64) :
    Only parts s0 (State.retireS s c x dst v) := by
  unfold State.retireS
  repeat' first
    | with_reducible assumption | with_reducible exact List.Subset.trans (by decide) hp | with_reducible intro _
    | (with_reducible apply State.mapCtx_only) | (with_reducible apply State.retire_only) | (dsimp only) | split
    | (with_reducible refine Only.leaf ?_ ?_)
    | (unfold Same; intro p hq; cases p <;> first | exact absurd (hp (by decide)) hq | dsimp only [Part.same])

theorem State.retireP_only {parts : List Part} {s0 s : State} (h : Only parts s0 s) (hp : [.ctxs] ⊆ parts) (c x pd :
      Nat) (v : Bool) :
    Only parts s0 (State.retireP s c x pd v) := by
  unfold State.retireP
  repeat' first
    | with_reducible assumption | with_reducible exact List.Subset.trans (by decide) hp | with_reducible intro _
    | (with_reducible apply State.mapCtx_only) | (with_reducible apply State.retire_only) | (dsimp only) | split
    | (with_reducible refine Only.leaf ?_ ?_)
    | (unfold Same; intro p hq; cases p <;> first | exact absurd (hp (by decide)) hq | dsimp only [Part.same])

theorem State.retireTo_only {parts : List Part} {s0 s : State} (h : Only parts s0 s) (hp : [.ctxs] ⊆ parts) (c x :
      Nat) (f : CtxSt → CtxSt) :
    Only parts s0 (State.retireTo s c x f) := by
  unfold State.retireTo
  repeat' first
    | with_reducible assumption | with_reducible exact List.Subset.trans (by decide) hp | with_reducible intro _
    | (with_reducible apply State.mapCtx_only) | (dsimp only) | split | (with_reducible refine Only.leaf ?_ ?_)
    | (unfold Same; intro p hq; cases p <;> first | exact absurd (hp (by decide)) hq | dsimp only [Part.same])

theorem execNop_only {parts : List Part} {s0 s : State} (h : Only parts s0 s) (hp : [.out, .hold, .links, .cores,
      .ctxs, .objects, .ring, .msix, .alert] ⊆ parts) (core : Core) (ctx : Ctx) :
    OnlyO parts s0 (execNop core ctx s) := by
  unfold execNop
  repeat' first
    | with_reducible assumption | with_reducible exact List.Subset.trans (by decide) hp
    | (with_reducible apply act_only) | with_reducible intro _ | (with_reducible apply State.retire_only)
    | (with_reducible apply State.issue_only) | (dsimp only) | split | (with_reducible refine Only.leaf ?_ ?_)
    | (unfold Same; intro p hq; cases p <;> first | exact absurd (hp (by decide)) hq | dsimp only [Part.same])

theorem execAlu_only {parts : List Part} {s0 s : State} (h : Only parts s0 s) (hp : [.out, .hold, .links, .cores,
      .ctxs, .objects, .ring, .msix, .alert] ⊆ parts) (core : Core) (ctx : Ctx) :
    OnlyO parts s0 (execAlu core ctx s) := by
  unfold execAlu
  repeat' first
    | with_reducible assumption | with_reducible exact List.Subset.trans (by decide) hp
    | (with_reducible apply act_only) | with_reducible intro _ | (with_reducible apply State.issue_only)
    | (with_reducible apply State.retireS_only) | (dsimp only) | split | (with_reducible refine Only.leaf ?_ ?_)
    | (unfold Same; intro p hq; cases p <;> first | exact absurd (hp (by decide)) hq | dsimp only [Part.same])

theorem execCmp_only {parts : List Part} {s0 s : State} (h : Only parts s0 s) (hp : [.out, .hold, .links, .cores,
      .ctxs, .objects, .ring, .msix, .alert] ⊆ parts) (core : Core) (ctx : Ctx) :
    OnlyO parts s0 (execCmp core ctx s) := by
  unfold execCmp
  repeat' first
    | with_reducible assumption | with_reducible exact List.Subset.trans (by decide) hp
    | (with_reducible apply act_only) | with_reducible intro _ | (with_reducible apply State.issue_only)
    | (with_reducible apply State.retireP_only) | (dsimp only) | split | (with_reducible refine Only.leaf ?_ ?_)
    | (unfold Same; intro p hq; cases p <;> first | exact absurd (hp (by decide)) hq | dsimp only [Part.same])

theorem execLd_only {parts : List Part} {s0 s : State} (h : Only parts s0 s) (hp : [.out, .hold, .links, .cores,
      .ctxs, .objects, .ring, .msix, .alert] ⊆ parts) (core : Core) (ctx : Ctx) :
    OnlyO parts s0 (execLd core ctx s) := by
  unfold execLd
  repeat' first
    | with_reducible assumption | with_reducible exact List.Subset.trans (by decide) hp
    | (with_reducible apply act_only) | with_reducible intro _ | (with_reducible apply State.issue_only)
    | (with_reducible apply State.retireS_only) | (dsimp only) | split | (with_reducible refine Only.leaf ?_ ?_)
    | (unfold Same; intro p hq; cases p <;> first | exact absurd (hp (by decide)) hq | dsimp only [Part.same])

theorem execSt_only {parts : List Part} {s0 s : State} (h : Only parts s0 s) (hp : [.out, .hold, .links, .stores,
      .cores, .ctxs, .objects, .ring, .msix, .alert] ⊆ parts) (core : Core) (ctx : Ctx) :
    OnlyO parts s0 (execSt core ctx s) := by
  unfold execSt
  repeat' first
    | with_reducible assumption | with_reducible exact List.Subset.trans (by decide) hp
    | (with_reducible apply act_only) | with_reducible intro _ | (with_reducible apply State.storeWrite_only)
    | (with_reducible apply State.retire_only) | (with_reducible apply State.issue_only) | (dsimp only) | split
    | (with_reducible refine Only.leaf ?_ ?_)
    | (unfold Same; intro p hq; cases p <;> first | exact absurd (hp (by decide)) hq | dsimp only [Part.same])

theorem execBr_only {parts : List Part} {s0 s : State} (h : Only parts s0 s) (hp : [.out, .hold, .links, .cores,
      .ctxs, .objects, .ring, .msix, .alert] ⊆ parts) (core : Core) (ctx : Ctx) :
    OnlyO parts s0 (execBr core ctx s) := by
  unfold execBr
  repeat' first
    | with_reducible assumption | with_reducible exact List.Subset.trans (by decide) hp
    | (with_reducible apply act_only) | with_reducible intro _ | (with_reducible apply State.issue_only)
    | (with_reducible apply State.retireTo_only) | (dsimp only) | split | (with_reducible refine Only.leaf ?_ ?_)
    | (unfold Same; intro p hq; cases p <;> first | exact absurd (hp (by decide)) hq | dsimp only [Part.same])

theorem execLoop_only {parts : List Part} {s0 s : State} (h : Only parts s0 s) (hp : [.out, .hold, .links, .cores,
      .ctxs, .objects, .ring, .msix, .alert] ⊆ parts) (core : Core) (ctx : Ctx) :
    OnlyO parts s0 (execLoop core ctx s) := by
  unfold execLoop
  repeat' first
    | with_reducible assumption | with_reducible exact List.Subset.trans (by decide) hp
    | (with_reducible apply act_only) | with_reducible intro _ | (with_reducible apply Only.ite)
    | (with_reducible apply State.issue_only) | (with_reducible apply State.retireTo_only) | (dsimp only) | split
    | (with_reducible refine Only.leaf ?_ ?_)
    | (unfold Same; intro p hq; cases p <;> first | exact absurd (hp (by decide)) hq | dsimp only [Part.same])

theorem execHalt_only {parts : List Part} {s0 s : State} (h : Only parts s0 s) (hp : [.out, .hold, .links, .cores,
      .ctxs, .objects, .ring, .msix, .alert] ⊆ parts) (core : Core) (ctx : Ctx) :
    OnlyO parts s0 (execHalt core ctx s) := by
  unfold execHalt
  repeat' first
    | with_reducible assumption | with_reducible exact List.Subset.trans (by decide) hp
    | (with_reducible apply act_only) | with_reducible intro _ | (with_reducible apply State.mapCtx_only)
    | (with_reducible apply State.ctxStops_only) | (with_reducible apply State.noteActive_only)
    | (with_reducible apply State.issue_only) | (dsimp only) | split | (with_reducible refine Only.leaf ?_ ?_)
    | (unfold Same; intro p hq; cases p <;> first | exact absurd (hp (by decide)) hq | dsimp only [Part.same])

theorem State.semInit_only {parts : List Part} {s0 s : State} (h : Only parts s0 s) (hp : [.out, .hold, .links,
      .ctxs, .sems, .objects, .ring, .msix, .alert] ⊆ parts) (c n count producer lease : Nat) :
    Only parts s0 (State.semInit s c n count producer lease) := by
  unfold State.semInit
  repeat' first
    | with_reducible assumption | with_reducible exact List.Subset.trans (by decide) hp | with_reducible intro _
    | (with_reducible apply State.setSem_only) | (with_reducible apply State.evalSem_only) | (dsimp only) | split
    | (with_reducible refine Only.leaf ?_ ?_)
    | (unfold Same; intro p hq; cases p <;> first | exact absurd (hp (by decide)) hq | dsimp only [Part.same])

theorem execSemInit_only {parts : List Part} {s0 s : State} (h : Only parts s0 s) (hp : [.out, .hold, .links, .cores,
      .ctxs, .sems, .objects, .ring, .msix, .alert] ⊆ parts) (core : Core) (ctx : Ctx) :
    OnlyO parts s0 (execSemInit core ctx s) := by
  unfold execSemInit
  repeat' first
    | with_reducible assumption | with_reducible exact List.Subset.trans (by decide) hp
    | (with_reducible apply act_only) | with_reducible intro _ | (with_reducible apply State.retire_only)
    | (with_reducible apply State.issue_only) | (with_reducible apply State.semInit_only) | (dsimp only) | split
    | (with_reducible refine Only.leaf ?_ ?_)
    | (unfold Same; intro p hq; cases p <;> first | exact absurd (hp (by decide)) hq | dsimp only [Part.same])

theorem execSemPost_only {parts : List Part} {s0 s : State} (h : Only parts s0 s) (hp : [.out, .hold, .links, .cores,
      .ctxs, .sems, .posts, .dies, .objects, .ring, .msix, .supply, .alert] ⊆ parts) (core : Core) (ctx : Ctx) :
    OnlyO parts s0 (execSemPost core ctx s) := by
  unfold execSemPost
  repeat' first
    | with_reducible assumption | with_reducible exact List.Subset.trans (by decide) hp
    | (with_reducible apply act_only) | with_reducible intro _ | (with_reducible apply Only.ite)
    | (with_reducible apply State.mapCore_only) | (with_reducible apply State.setCtx_only)
    | (with_reducible apply State.retire_only) | (with_reducible apply State.post_only)
    | (with_reducible apply State.issue_only) | (dsimp only) | split | (with_reducible refine Only.leaf ?_ ?_)
    | (unfold Same; intro p hq; cases p <;> first | exact absurd (hp (by decide)) hq | dsimp only [Part.same])

theorem execSemPostArrive_only {parts : List Part} {s0 s : State} (h : Only parts s0 s) (hp : [.out, .hold, .links,
      .cores, .ctxs, .sems, .posts, .dies, .objects, .ring, .msix, .supply, .alert] ⊆ parts) (core : Core) (sem :
      BitVec 8) (posts : Nat) :
    OnlyO parts s0 (execSemPostArrive core sem posts s) := by
  unfold execSemPostArrive
  repeat' first
    | with_reducible assumption | with_reducible exact List.Subset.trans (by decide) hp
    | (with_reducible apply act_only) | with_reducible intro _ | (with_reducible apply Only.ite)
    | (with_reducible apply State.post_only) | (dsimp only) | split | (with_reducible refine Only.leaf ?_ ?_)
    | (unfold Same; intro p hq; cases p <;> first | exact absurd (hp (by decide)) hq | dsimp only [Part.same])

theorem execSemWait_only {parts : List Part} {s0 s : State} (h : Only parts s0 s) (hp : [.out, .hold, .links, .cores,
      .ctxs, .sems, .objects, .ring, .msix, .alert] ⊆ parts) (core : Core) (ctx : Ctx) :
    OnlyO parts s0 (execSemWait core ctx s) := by
  unfold execSemWait
  repeat' first
    | with_reducible assumption | with_reducible exact List.Subset.trans (by decide) hp
    | (with_reducible apply act_only) | with_reducible intro _ | (with_reducible apply Only.ite)
    | (with_reducible apply State.mapCtx_only) | (with_reducible apply State.setSem_only)
    | (with_reducible apply State.retire_only) | (with_reducible apply State.brokenWait_only)
    | (with_reducible apply State.issue_only) | (dsimp only) | split | (with_reducible refine Only.leaf ?_ ?_)
    | (unfold Same; intro p hq; cases p <;> first | exact absurd (hp (by decide)) hq | dsimp only [Part.same])

theorem execSemTry_only {parts : List Part} {s0 s : State} (h : Only parts s0 s) (hp : [.out, .hold, .links, .cores,
      .ctxs, .sems, .objects, .ring, .msix, .alert] ⊆ parts) (core : Core) (ctx : Ctx) :
    OnlyO parts s0 (execSemTry core ctx s) := by
  unfold execSemTry
  repeat' first
    | with_reducible assumption | with_reducible exact List.Subset.trans (by decide) hp
    | (with_reducible apply act_only) | with_reducible intro _ | (with_reducible apply Only.ite)
    | (with_reducible apply State.setSem_only) | (with_reducible apply State.brokenWait_only)
    | (with_reducible apply State.issue_only) | (with_reducible apply State.retireP_only) | (dsimp only) | split
    | (with_reducible refine Only.leaf ?_ ?_)
    | (unfold Same; intro p hq; cases p <;> first | exact absurd (hp (by decide)) hq | dsimp only [Part.same])

theorem execSemLeaseLapse_only {parts : List Part} {s0 s : State} (h : Only parts s0 s) (hp : [.out, .hall, .time,
      .hold, .links, .ctxs, .sems, .objects, .ring, .msix, .alert] ⊆ parts) (core : Core) (sem : Sem) :
    OnlyO parts s0 (execSemLeaseLapse core sem s) := by
  unfold execSemLeaseLapse
  repeat' first
    | with_reducible assumption | with_reducible exact List.Subset.trans (by decide) hp
    | (with_reducible apply act_only) | with_reducible intro _ | (with_reducible apply Only.ite)
    | (with_reducible apply State.reach_only) | (with_reducible apply State.log_only)
    | (with_reducible apply State.breakSem_only) | (with_reducible apply Only.foldl)
    | (with_reducible apply Only.foldl1) | (with_reducible apply Only.foldl2) | (dsimp only) | split
    | (with_reducible refine Only.leaf ?_ ?_)
    | (unfold Same; intro p hq; cases p <;> first | exact absurd (hp (by decide)) hq | dsimp only [Part.same])

theorem State.releaseWaitT_only {parts : List Part} {s0 s : State} (h : Only parts s0 s) (hp : [.hall, .time, .cores,
      .ctxs, .objects] ⊆ parts) (c x target : Nat) :
    Only parts s0 (State.releaseWaitT s c x target) := by
  unfold State.releaseWaitT
  repeat' first
    | with_reducible assumption | with_reducible exact List.Subset.trans (by decide) hp | with_reducible intro _
    | (with_reducible apply Only.ite) | (with_reducible apply State.reach64_only)
    | (with_reducible apply State.on_only) | (with_reducible apply State.count64_only)
    | (with_reducible apply State.retire_only) | (with_reducible apply State.noteActive_only) | (dsimp only)
    | split | (with_reducible refine Only.leaf ?_ ?_)
    | (unfold Same; intro p hq; cases p <;> first | exact absurd (hp (by decide)) hq | dsimp only [Part.same])

theorem execWaitT_only {parts : List Part} {s0 s : State} (h : Only parts s0 s) (hp : [.out, .hall, .time, .hold,
      .links, .cores, .ctxs, .objects, .ring, .msix, .alert] ⊆ parts) (core : Core) (ctx : Ctx) :
    OnlyO parts s0 (execWaitT core ctx s) := by
  unfold execWaitT
  repeat' first
    | with_reducible assumption | with_reducible exact List.Subset.trans (by decide) hp
    | (with_reducible apply act_only) | with_reducible intro _ | (with_reducible apply Only.ite)
    | (with_reducible apply State.mapCtx_only) | (with_reducible apply State.noteActive_only)
    | (with_reducible apply State.issue_only) | (with_reducible apply State.releaseWaitT_only) | (dsimp only)
    | split | (with_reducible refine Only.leaf ?_ ?_)
    | (unfold Same; intro p hq; cases p <;> first | exact absurd (hp (by decide)) hq | dsimp only [Part.same])

theorem execWaitTRelease_only {parts : List Part} {s0 s : State} (h : Only parts s0 s) (hp : [.hall, .time, .cores,
      .ctxs, .dies, .objects, .supply] ⊆ parts) (core : Core) (ctx : Ctx) :
    OnlyO parts s0 (execWaitTRelease core ctx s) := by
  unfold execWaitTRelease
  repeat' first
    | with_reducible assumption | with_reducible exact List.Subset.trans (by decide) hp
    | (with_reducible apply act_only) | with_reducible intro _ | (with_reducible apply Only.ite)
    | (with_reducible apply State.reach64_only) | (with_reducible apply State.wakeCore_only)
    | (with_reducible apply State.releaseWaitT_only) | (dsimp only) | split
    | (with_reducible refine Only.leaf ?_ ?_)
    | (unfold Same; intro p hq; cases p <;> first | exact absurd (hp (by decide)) hq | dsimp only [Part.same])

theorem execWaitQ_only {parts : List Part} {s0 s : State} (h : Only parts s0 s) (hp : [.out, .hold, .links, .cores,
      .ctxs, .objects, .ring, .msix, .alert] ⊆ parts) (core : Core) (ctx : Ctx) :
    OnlyO parts s0 (execWaitQ core ctx s) := by
  unfold execWaitQ
  repeat' first
    | with_reducible assumption | with_reducible exact List.Subset.trans (by decide) hp
    | (with_reducible apply act_only) | with_reducible intro _ | (with_reducible apply Only.ite)
    | (with_reducible apply State.mapCtx_only) | (with_reducible apply State.retire_only)
    | (with_reducible apply State.issue_only) | (dsimp only) | split | (with_reducible refine Only.leaf ?_ ?_)
    | (unfold Same; intro p hq; cases p <;> first | exact absurd (hp (by decide)) hq | dsimp only [Part.same])

theorem execTimeRd_only {parts : List Part} {s0 s : State} (h : Only parts s0 s) (hp : [.out, .hold, .links, .cores,
      .ctxs, .objects, .ring, .msix, .alert] ⊆ parts) (core : Core) (ctx : Ctx) :
    OnlyO parts s0 (execTimeRd core ctx s) := by
  unfold execTimeRd
  repeat' first
    | with_reducible assumption | with_reducible exact List.Subset.trans (by decide) hp
    | (with_reducible apply act_only) | with_reducible intro _ | (with_reducible apply Only.ite)
    | (with_reducible apply State.issue_only) | (with_reducible apply State.retireS_only) | (dsimp only) | split
    | (with_reducible refine Only.leaf ?_ ?_)
    | (unfold Same; intro p hq; cases p <;> first | exact absurd (hp (by decide)) hq | dsimp only [Part.same])

theorem State.flushGroups_only {parts : List Part} {s0 s : State} (h : Only parts s0 s) (hp : [.cores] ⊆ parts) (c :
      Nat) :
    Only parts s0 (State.flushGroups s c) := by
  unfold State.flushGroups
  repeat' first
    | with_reducible assumption | with_reducible exact List.Subset.trans (by decide) hp | with_reducible intro _
    | (with_reducible apply State.mapCore_only) | (dsimp only) | split | (with_reducible refine Only.leaf ?_ ?_)
    | (unfold Same; intro p hq; cases p <;> first | exact absurd (hp (by decide)) hq | dsimp only [Part.same])

theorem execFence_only {parts : List Part} {s0 s : State} (h : Only parts s0 s) (hp : [.out, .hold, .links, .cores,
      .ctxs, .objects, .ring, .msix, .alert] ⊆ parts) (core : Core) (ctx : Ctx) :
    OnlyO parts s0 (execFence core ctx s) := by
  unfold execFence
  repeat' first
    | with_reducible assumption | with_reducible exact List.Subset.trans (by decide) hp
    | (with_reducible apply act_only) | with_reducible intro _ | (with_reducible apply State.mapCtx_only)
    | (with_reducible apply State.retire_only) | (with_reducible apply State.issue_only)
    | (with_reducible apply State.flushGroups_only) | (dsimp only) | split
    | (with_reducible refine Only.leaf ?_ ?_)
    | (unfold Same; intro p hq; cases p <;> first | exact absurd (hp (by decide)) hq | dsimp only [Part.same])

theorem execFenceForm_only {parts : List Part} {s0 s : State} (h : Only parts s0 s) (hp : [.cores, .ctxs, .sems,
      .faults] ⊆ parts) (core : Core) :
    OnlyO parts s0 (execFenceForm core s) := by
  unfold execFenceForm
  repeat' first
    | with_reducible assumption | with_reducible exact List.Subset.trans (by decide) hp
    | (with_reducible apply act_only) | with_reducible intro _ | (with_reducible apply Only.ite)
    | (with_reducible apply State.mapCore_only) | (with_reducible apply State.mapCtx_only)
    | (with_reducible apply State.setSem_only) | (with_reducible apply State.each_only) | (dsimp only) | split
    | (with_reducible refine Only.leaf ?_ ?_)
    | (unfold Same; intro p hq; cases p <;> first | exact absurd (hp (by decide)) hq | dsimp only [Part.same])

theorem execFenceSpanExceeded_only {parts : List Part} {s0 s : State} (h : Only parts s0 s) (hp : [.hall, .time,
      .cores, .objects, .ring] ⊆ parts) (core : Core) :
    OnlyO parts s0 (execFenceSpanExceeded core s) := by
  unfold execFenceSpanExceeded
  repeat' first
    | with_reducible assumption | with_reducible exact List.Subset.trans (by decide) hp
    | (with_reducible apply act_only) | with_reducible intro _ | (with_reducible apply Only.ite)
    | (with_reducible apply State.reach_only) | (with_reducible apply State.count_only)
    | (with_reducible apply State.log_only) | (with_reducible apply State.setCore_only) | (dsimp only) | split
    | (with_reducible refine Only.leaf ?_ ?_)
    | (unfold Same; intro p hq; cases p <;> first | exact absurd (hp (by decide)) hq | dsimp only [Part.same])

theorem execTalRd_only {parts : List Part} {s0 s : State} (h : Only parts s0 s) (hp : [.out, .hold, .links, .cores,
      .ctxs, .objects, .ring, .msix, .alert] ⊆ parts) (core : Core) (ctx : Ctx) :
    OnlyO parts s0 (execTalRd core ctx s) := by
  unfold execTalRd
  repeat' first
    | with_reducible assumption | with_reducible exact List.Subset.trans (by decide) hp
    | (with_reducible apply act_only) | with_reducible intro _ | (with_reducible apply State.mapCtx_only)
    | (with_reducible apply State.issue_only) | (dsimp only) | split | (with_reducible refine Only.leaf ?_ ?_)
    | (unfold Same; intro p hq; cases p <;> first | exact absurd (hp (by decide)) hq | dsimp only [Part.same])

theorem execTalNf_only {parts : List Part} {s0 s : State} (h : Only parts s0 s) (hp : [.out, .hold, .links, .cores,
      .ctxs, .objects, .ring, .msix, .alert] ⊆ parts) (core : Core) (ctx : Ctx) :
    OnlyO parts s0 (execTalNf core ctx s) := by
  unfold execTalNf
  repeat' first
    | with_reducible assumption | with_reducible exact List.Subset.trans (by decide) hp
    | (with_reducible apply act_only) | with_reducible intro _ | (with_reducible apply State.mapCtx_only)
    | (with_reducible apply State.issue_only) | (with_reducible apply State.retireS_only) | (dsimp only) | split
    | (with_reducible refine Only.leaf ?_ ?_)
    | (unfold Same; intro p hq; cases p <;> first | exact absurd (hp (by decide)) hq | dsimp only [Part.same])

theorem State.startCtx_only {parts : List Part} {s0 s : State} (h : Only parts s0 s) (hp : [.cores, .ctxs, .host] ⊆
      parts) (c x : Nat) (stream : Bool) (key : BitVec 8) (pc : BitVec 44) (regs : List (BitVec 64)) (preds : BitVec
      7) :
    Only parts s0 (State.startCtx s c x stream key pc regs preds) := by
  unfold State.startCtx
  repeat' first
    | with_reducible assumption | with_reducible exact List.Subset.trans (by decide) hp | with_reducible intro _
    | (with_reducible apply Only.ite) | (with_reducible apply State.mapCore_only)
    | (with_reducible apply State.mapCtx_only) | (dsimp only) | split | (with_reducible refine Only.leaf ?_ ?_)
    | (unfold Same; intro p hq; cases p <;> first | exact absurd (hp (by decide)) hq | dsimp only [Part.same])

theorem execDcStart_only {parts : List Part} {s0 s : State} (h : Only parts s0 s) (hp : [.out, .cores, .ctxs, .dies,
      .host, .supply] ⊆ parts) (core : Core) (ctx : Ctx) (stream : Bool) (key : BitVec 8) (pc : BitVec 44) (regs :
      List (BitVec 64)) (preds : BitVec 7) :
    OnlyO parts s0 (execDcStart core ctx stream key pc regs preds s) := by
  unfold execDcStart
  repeat' first
    | with_reducible assumption | with_reducible exact List.Subset.trans (by decide) hp
    | (with_reducible apply act_only) | with_reducible intro _ | (with_reducible apply Only.ite)
    | (with_reducible apply State.emit_only) | (with_reducible apply State.wakeCore_only)
    | (with_reducible apply State.startCtx_only) | (dsimp only) | split | (with_reducible refine Only.leaf ?_ ?_)
    | (unfold Same; intro p hq; cases p <;> first | exact absurd (hp (by decide)) hq | dsimp only [Part.same])

theorem State.stopCtx_only {parts : List Part} {s0 s : State} (h : Only parts s0 s) (hp : [.cores, .ctxs] ⊆ parts) (c
      x : Nat) :
    Only parts s0 (State.stopCtx s c x) := by
  unfold State.stopCtx
  repeat' first
    | with_reducible assumption | with_reducible exact List.Subset.trans (by decide) hp | with_reducible intro _
    | (with_reducible apply State.mapCtx_only) | (with_reducible apply State.noteActive_only) | (dsimp only)
    | split | (with_reducible refine Only.leaf ?_ ?_)
    | (unfold Same; intro p hq; cases p <;> first | exact absurd (hp (by decide)) hq | dsimp only [Part.same])

theorem execDcStop_only {parts : List Part} {s0 s : State} (h : Only parts s0 s) (hp : [.cores, .ctxs, .dies,
      .objects, .supply] ⊆ parts) (core : Core) (ctx : Ctx) :
    OnlyO parts s0 (execDcStop core ctx s) := by
  unfold execDcStop
  repeat' first
    | with_reducible assumption | with_reducible exact List.Subset.trans (by decide) hp
    | (with_reducible apply act_only) | with_reducible intro _ | (with_reducible apply State.wakeCore_only)
    | (with_reducible apply State.countStalls_only) | (with_reducible apply State.stopCtx_only) | (dsimp only)
    | split | (with_reducible refine Only.leaf ?_ ?_)
    | (unfold Same; intro p hq; cases p <;> first | exact absurd (hp (by decide)) hq | dsimp only [Part.same])

theorem execContextRead_only {parts : List Part} {s0 s : State} (h : Only parts s0 s) (hp : [.out, .cores, .dies,
      .supply] ⊆ parts) (core : Core) (ctx : Ctx) :
    OnlyO parts s0 (execContextRead core ctx s) := by
  unfold execContextRead
  repeat' first
    | with_reducible assumption | with_reducible exact List.Subset.trans (by decide) hp
    | (with_reducible apply act_only) | with_reducible intro _ | (with_reducible apply State.emit_only)
    | (with_reducible apply State.wakeCore_only) | (dsimp only) | split | (with_reducible refine Only.leaf ?_ ?_)
    | (unfold Same; intro p hq; cases p <;> first | exact absurd (hp (by decide)) hq | dsimp only [Part.same])

theorem State.loadImem_only {parts : List Part} {s0 s : State} (h : Only parts s0 s) (hp : [.imem] ⊆ parts) (c first
      count src : Nat) :
    Only parts s0 (State.loadImem s c first count src) := by
  unfold State.loadImem
  repeat' first
    | with_reducible assumption | with_reducible exact List.Subset.trans (by decide) hp | with_reducible intro _
    | (with_reducible apply Only.foldl) | (with_reducible apply Only.foldl1) | (with_reducible apply Only.foldl2)
    | (dsimp only) | split | (with_reducible refine Only.leaf ?_ ?_)
    | (unfold Same; intro p hq; cases p <;> first | exact absurd (hp (by decide)) hq | dsimp only [Part.same])

theorem execSeqImemLoad_only {parts : List Part} {s0 s : State} (h : Only parts s0 s) (hp : [.out, .imem, .cores,
      .dies, .supply] ⊆ parts) (core : Core) (first count : BitVec 13) (src : BitVec 41) :
    OnlyO parts s0 (execSeqImemLoad core first count src s) := by
  unfold execSeqImemLoad
  repeat' first
    | with_reducible assumption | with_reducible exact List.Subset.trans (by decide) hp
    | (with_reducible apply act_only) | with_reducible intro _ | (with_reducible apply Only.ite)
    | (with_reducible apply State.emit_only) | (with_reducible apply State.wakeCore_only)
    | (with_reducible apply State.loadImem_only) | (dsimp only) | split | (with_reducible refine Only.leaf ?_ ?_)
    | (unfold Same; intro p hq; cases p <;> first | exact absurd (hp (by decide)) hq | dsimp only [Part.same])

theorem execSemSet_only {parts : List Part} {s0 s : State} (h : Only parts s0 s) (hp : [.out, .hold, .links, .cores,
      .ctxs, .sems, .dies, .objects, .ring, .msix, .supply, .alert] ⊆ parts) (core : Core) (sem : Sem) (count
      producer lease : BitVec 16) :
    OnlyO parts s0 (execSemSet core sem count producer lease s) := by
  unfold execSemSet
  repeat' first
    | with_reducible assumption | with_reducible exact List.Subset.trans (by decide) hp
    | (with_reducible apply act_only) | with_reducible intro _ | (with_reducible apply State.wakeCore_only)
    | (with_reducible apply State.semInit_only) | (dsimp only) | split | (with_reducible refine Only.leaf ?_ ?_)
    | (unfold Same; intro p hq; cases p <;> first | exact absurd (hp (by decide)) hq | dsimp only [Part.same])

end Sys2Proof.Machine
end

