-- ==== Sys2Proof/Laws/OnlyCamps.lean ====
section
/-!
SUPPORT. What the operations of Machine/Camps.lean can change (Laws/Only.lean).
-/

namespace Sys2Proof.Machine

theorem State.logConflict_only {parts : List Part} {s0 s : State} (h : Only parts s0 s) (hp : [.objects, .ring] ⊆
      parts) (c : Nat × Nat) :
    Only parts s0 (State.logConflict s c) := by
  unfold State.logConflict
  repeat' first
    | with_reducible assumption | with_reducible exact List.Subset.trans (by decide) hp | with_reducible intro _
    | (with_reducible apply State.log_only) | (dsimp only) | split | (with_reducible refine Only.leaf ?_ ?_)
    | (unfold Same; intro p hq; cases p <;> first | exact absurd (hp (by decide)) hq | dsimp only [Part.same])

theorem State.changeRole_only {parts : List Part} {s0 s : State} (h : Only parts s0 s) (hp : [.out, .links, .fabric,
      .objects, .ring] ⊆ parts) (l : Nat) :
    Only parts s0 (State.changeRole s l) := by
  unfold State.changeRole
  repeat' first
    | with_reducible assumption | with_reducible exact List.Subset.trans (by decide) hp | with_reducible intro _
    | (with_reducible apply Only.ite) | (with_reducible apply State.setObj_only)
    | (with_reducible apply State.reroute_only) | (dsimp only) | split | (with_reducible refine Only.leaf ?_ ?_)
    | (unfold Same; intro p hq; cases p <;> first | exact absurd (hp (by decide)) hq | dsimp only [Part.same])

theorem State.closeSession_only {parts : List Part} {s0 s : State} (h : Only parts s0 s) (hp : [.dict, .faults,
      .boot] ⊆ parts) (n : Nat) :
    Only parts s0 (State.closeSession s n) := by
  unfold State.closeSession
  repeat' first
    | with_reducible assumption | with_reducible exact List.Subset.trans (by decide) hp | with_reducible intro _
    | (with_reducible apply Only.ite)
    | (with_reducible refine State.setDict_only' ?_ (List.Subset.trans (by decide) hp) _ (fun _ => rfl))
    | (with_reducible refine State.setDict_only'' ?_ (List.Subset.trans (by decide) hp) _ (fun _ => rfl))
    | (with_reducible apply State.setDict_only) | (dsimp only) | split | (with_reducible refine Only.leaf ?_ ?_)
    | (unfold Same; intro p hq; cases p <;> first | exact absurd (hp (by decide)) hq | dsimp only [Part.same])

theorem State.operatorsChanged_only {parts : List Part} {s0 s : State} (h : Only parts s0 s) (hp : [.objects, .dict,
      .ring, .faults, .boot] ⊆ parts)  :
    Only parts s0 (State.operatorsChanged s) := by
  unfold State.operatorsChanged
  repeat' first
    | with_reducible assumption | with_reducible exact List.Subset.trans (by decide) hp | with_reducible intro _
    | (with_reducible apply State.log_only) | (with_reducible apply State.each_only)
    | (with_reducible apply State.closeSession_only) | (dsimp only) | split
    | (with_reducible refine Only.leaf ?_ ?_)
    | (unfold Same; intro p hq; cases p <;> first | exact absurd (hp (by decide)) hq | dsimp only [Part.same])

theorem State.valueChanged_only {parts : List Part} {s0 s : State} (h : Only parts s0 s) (hp : [.out, .time, .links,
      .fabric, .objects, .dict, .ring, .faults, .boot] ⊆ parts) (k : Nat) :
    Only parts s0 (State.valueChanged s k) := by
  unfold State.valueChanged
  repeat' first
    | with_reducible assumption | with_reducible exact List.Subset.trans (by decide) hp | with_reducible intro _
    | (with_reducible apply Only.ite) | (with_reducible apply State.setObj_only)
    | (with_reducible apply State.sourceChanged_only) | (with_reducible apply State.changeRole_only)
    | (with_reducible apply State.operatorsChanged_only) | (dsimp only) | split
    | (with_reducible refine Only.leaf ?_ ?_)
    | (unfold Same; intro p hq; cases p <;> first | exact absurd (hp (by decide)) hq | dsimp only [Part.same])

theorem State.assign_only {parts : List Part} {s0 s : State} (h : Only parts s0 s) (hp : [.out, .time, .links,
      .fabric, .objects, .dict, .ring, .faults, .boot] ⊆ parts) (k v : Nat) :
    Only parts s0 (State.assign s k v) := by
  unfold State.assign
  repeat' first
    | with_reducible assumption | with_reducible exact List.Subset.trans (by decide) hp | with_reducible intro _
    | (with_reducible apply Only.ite) | (with_reducible apply State.setObj_only)
    | (with_reducible apply State.valueChanged_only) | (dsimp only) | split
    | (with_reducible refine Only.leaf ?_ ?_)
    | (unfold Same; intro p hq; cases p <;> first | exact absurd (hp (by decide)) hq | dsimp only [Part.same])

theorem State.loadValues_only {parts : List Part} {s0 s : State} (h : Only parts s0 s) (hp : [.objects, .dict] ⊆
      parts) (slot : Nat) :
    Only parts s0 (State.loadValues s slot) := by
  unfold State.loadValues
  repeat' first
    | with_reducible assumption | with_reducible exact List.Subset.trans (by decide) hp | with_reducible intro _
    | (with_reducible refine State.setDict_only' ?_ (List.Subset.trans (by decide) hp) _ (fun _ => rfl))
    | (with_reducible refine State.setDict_only'' ?_ (List.Subset.trans (by decide) hp) _ (fun _ => rfl))
    | (with_reducible apply State.setObj_only) | (with_reducible apply State.each_only)
    | (with_reducible apply State.setDict_only) | (with_reducible apply Only.foldl)
    | (with_reducible apply Only.foldl1) | (with_reducible apply Only.foldl2) | (dsimp only) | split
    | (with_reducible refine Only.leaf ?_ ?_)
    | (unfold Same; intro p hq; cases p <;> first | exact absurd (hp (by decide)) hq | dsimp only [Part.same])

theorem State.loadCamp_only {parts : List Part} {s0 s : State} (h : Only parts s0 s) (hp : [.objects, .dict, .ring] ⊆
      parts)  :
    Only parts s0 (State.loadCamp s) := by
  unfold State.loadCamp
  repeat' first
    | with_reducible assumption | with_reducible exact List.Subset.trans (by decide) hp | with_reducible intro _
    | (with_reducible apply Only.ite) | (with_reducible apply State.log_only)
    | (with_reducible apply State.loadValues_only) | (dsimp only) | split | (with_reducible refine Only.leaf ?_ ?_)
    | (unfold Same; intro p hq; cases p <;> first | exact absurd (hp (by decide)) hq | dsimp only [Part.same])

theorem State.lowerLocked_only {parts : List Part} {s0 s : State} (h : Only parts s0 s) (hp : [.drawn] ⊆ parts) (list
      : List Nat) (j : Nat) :
    Only parts s0 (State.lowerLocked s list j).2 := by
  unfold State.lowerLocked
  repeat' first
    | with_reducible assumption | with_reducible exact List.Subset.trans (by decide) hp | with_reducible intro _
    | (with_reducible apply Only.ite) | (with_reducible apply Only.ite2) | (with_reducible apply State.draw_only)
    | (with_reducible refine Only.snd ?_ (by assumption)) | (dsimp only) | split
    | (with_reducible refine Only.leaf ?_ ?_)
    | (unfold Same; intro p hq; cases p <;> first | exact absurd (hp (by decide)) hq | dsimp only [Part.same])

theorem State.latchRoots_only {parts : List Part} {s0 s : State} (h : Only parts s0 s) (hp : [.drawn, .time,
      .objects, .ring] ⊆ parts)  :
    Only parts s0 (State.latchRoots s) := by
  unfold State.latchRoots
  repeat' first
    | with_reducible assumption | with_reducible exact List.Subset.trans (by decide) hp | with_reducible intro _
    | (with_reducible apply Only.ite) | (with_reducible apply State.log_only)
    | (with_reducible apply State.setTime_only) | (with_reducible apply State.becomeRoot_only)
    | (with_reducible apply State.demote_only) | (with_reducible apply State.lowerLocked_only)
    | (with_reducible refine Only.snd ?_ (by assumption)) | (dsimp only) | split
    | (with_reducible refine Only.leaf ?_ ?_)
    | (unfold Same; intro p hq; cases p <;> first | exact absurd (hp (by decide)) hq | dsimp only [Part.same])

theorem State.switchRefused_only {parts : List Part} {s0 s : State} (h : Only parts s0 s) (hp : [.dict] ⊆ parts)
      (abort slot row k : Nat) :
    Only parts s0 (State.switchRefused s abort slot row k).2 := by
  unfold State.switchRefused
  repeat' first
    | with_reducible assumption | with_reducible exact List.Subset.trans (by decide) hp | with_reducible intro _
    | (with_reducible apply State.setRec_only) | (dsimp only) | split | (with_reducible refine Only.leaf ?_ ?_)
    | (unfold Same; intro p hq; cases p <;> first | exact absurd (hp (by decide)) hq | dsimp only [Part.same])

theorem State.armCamp_only {parts : List Part} {s0 s : State} (h : Only parts s0 s) (hp : [.objects, .dict, .ring] ⊆
      parts) (slot : Nat) :
    Only parts s0 (State.armCamp s slot).2 := by
  unfold State.armCamp
  repeat' first
    | with_reducible assumption | with_reducible exact List.Subset.trans (by decide) hp | with_reducible intro _
    | (with_reducible apply Only.ite) | (with_reducible apply Only.ite2) | (with_reducible apply State.setObj_only)
    | (with_reducible apply State.setRec_only) | (with_reducible apply State.log_only)
    | (with_reducible apply State.logConflict_only) | (with_reducible apply State.switchRefused_only)
    | (with_reducible refine Only.snd ?_ (by assumption)) | (dsimp only) | split
    | (with_reducible refine Only.leaf ?_ ?_)
    | (unfold Same; intro p hq; cases p <;> first | exact absurd (hp (by decide)) hq | dsimp only [Part.same])

theorem State.disarmCamp_only {parts : List Part} {s0 s : State} (h : Only parts s0 s) (hp : [.objects, .ring] ⊆
      parts)  :
    Only parts s0 (State.disarmCamp s) := by
  unfold State.disarmCamp
  repeat' first
    | with_reducible assumption | with_reducible exact List.Subset.trans (by decide) hp | with_reducible intro _
    | (with_reducible apply State.on_only) | (with_reducible apply State.setObj_only)
    | (with_reducible apply State.log_only) | (dsimp only) | split | (with_reducible refine Only.leaf ?_ ?_)
    | (unfold Same; intro p hq; cases p <;> first | exact absurd (hp (by decide)) hq | dsimp only [Part.same])

theorem State.clearCores_only {parts : List Part} {s0 s : State} (h : Only parts s0 s) (hp : [.stores, .maps, .imem,
      .accs, .cores, .ctxs, .sems, .movers, .posts, .dies, .invals] ⊆ parts)  :
    Only parts s0 (State.clearCores s) := by
  unfold State.clearCores
  repeat' first
    | with_reducible assumption | with_reducible exact List.Subset.trans (by decide) hp | with_reducible intro _
    | (dsimp only) | split | (with_reducible refine Only.leaf ?_ ?_)
    | (unfold Same; intro p hq; cases p <;> first | exact absurd (hp (by decide)) hq | dsimp only [Part.same])

theorem State.bivouac_only {parts : List Part} {s0 s : State} (h : Only parts s0 s) (hp : [.stores, .maps, .imem,
      .accs, .cores, .ctxs, .sems, .movers, .posts, .dies, .invals, .objects, .ring, .supply] ⊆ parts) (old new :
      Nat) :
    Only parts s0 (State.bivouac s old new) := by
  unfold State.bivouac
  repeat' first
    | with_reducible assumption | with_reducible exact List.Subset.trans (by decide) hp | with_reducible intro _
    | (with_reducible apply Only.ite) | (with_reducible apply State.log_only)
    | (with_reducible apply State.setSupply_only) | (with_reducible apply State.clearCores_only) | (dsimp only)
    | split | (with_reducible refine Only.leaf ?_ ?_)
    | (unfold Same; intro p hq; cases p <;> first | exact absurd (hp (by decide)) hq | dsimp only [Part.same])

theorem State.switchCamp_only {parts : List Part} {s0 s : State} (h : Only parts s0 s) (hp : [.out, .drawn, .time,
      .links, .fabric, .stores, .maps, .imem, .accs, .cores, .ctxs, .sems, .movers, .posts, .dies, .invals, .objects,
      .dict, .ring, .faults, .supply, .boot] ⊆ parts)  :
    Only parts s0 (State.switchCamp s) := by
  unfold State.switchCamp
  repeat' first
    | with_reducible assumption | with_reducible exact List.Subset.trans (by decide) hp | with_reducible intro _
    | (with_reducible apply Only.ite)
    | (with_reducible refine State.setDict_only' ?_ (List.Subset.trans (by decide) hp) _ (fun _ => rfl))
    | (with_reducible refine State.setDict_only'' ?_ (List.Subset.trans (by decide) hp) _ (fun _ => rfl))
    | (with_reducible apply State.setObj_only) | (with_reducible apply State.count_only)
    | (with_reducible apply State.log_only) | (with_reducible apply State.each_only)
    | (with_reducible apply State.setDict_only) | (with_reducible apply State.assign_only)
    | (with_reducible apply State.latchRoots_only) | (with_reducible apply State.bivouac_only) | (dsimp only)
    | split | (with_reducible refine Only.leaf ?_ ?_)
    | (unfold Same; intro p hq; cases p <;> first | exact absurd (hp (by decide)) hq | dsimp only [Part.same])

theorem execCampSwitch_only {parts : List Part} {s0 s : State} (h : Only parts s0 s) (hp : [.out, .hall, .drawn,
      .time, .links, .fabric, .stores, .maps, .imem, .accs, .cores, .ctxs, .sems, .movers, .posts, .dies, .invals,
      .objects, .dict, .ring, .faults, .supply, .boot] ⊆ parts)  :
    OnlyO parts s0 (execCampSwitch s) := by
  unfold execCampSwitch
  repeat' first
    | with_reducible assumption | with_reducible exact List.Subset.trans (by decide) hp
    | (with_reducible apply act_only) | with_reducible intro _ | (with_reducible apply Only.ite)
    | (with_reducible apply State.reach64_only) | (with_reducible apply State.switchCamp_only) | (dsimp only)
    | split | (with_reducible refine Only.leaf ?_ ?_)
    | (unfold Same; intro p hq; cases p <;> first | exact absurd (hp (by decide)) hq | dsimp only [Part.same])

theorem execBivouacWakeStart_only {parts : List Part} {s0 s : State} (h : Only parts s0 s) (hp : [.hall, .time,
      .supply] ⊆ parts)  :
    OnlyO parts s0 (execBivouacWakeStart s) := by
  unfold execBivouacWakeStart
  repeat' first
    | with_reducible assumption | with_reducible exact List.Subset.trans (by decide) hp
    | (with_reducible apply act_only) | with_reducible intro _ | (with_reducible apply Only.ite)
    | (with_reducible apply State.reach_only) | (with_reducible apply State.setSupply_only) | (dsimp only) | split
    | (with_reducible refine Only.leaf ?_ ?_)
    | (unfold Same; intro p hq; cases p <;> first | exact absurd (hp (by decide)) hq | dsimp only [Part.same])

theorem State.installCamp_only {parts : List Part} {s0 s : State} (h : Only parts s0 s) (hp : [.objects, .dict,
      .ring] ⊆ parts) (slot : Nat) (image : List Byte) :
    Only parts s0 (State.installCamp s slot image).2 := by
  unfold State.installCamp
  repeat' first
    | with_reducible assumption | with_reducible exact List.Subset.trans (by decide) hp | with_reducible intro _
    | (with_reducible refine State.setDict_only' ?_ (List.Subset.trans (by decide) hp) _ (fun _ => rfl))
    | (with_reducible refine State.setDict_only'' ?_ (List.Subset.trans (by decide) hp) _ (fun _ => rfl))
    | (with_reducible apply State.log_only) | (with_reducible apply State.setDict_only) | (dsimp only) | split
    | (with_reducible refine Only.leaf ?_ ?_)
    | (unfold Same; intro p hq; cases p <;> first | exact absurd (hp (by decide)) hq | dsimp only [Part.same])

theorem State.campPiece_only {parts : List Part} {s0 s : State} (h : Only parts s0 s) (hp : [.objects, .dict, .ring]
      ⊆ parts) (session slot off : Nat) (data : List Byte) :
    Only parts s0 (State.campPiece s session slot off data).2 := by
  unfold State.campPiece
  repeat' first
    | with_reducible assumption | with_reducible exact List.Subset.trans (by decide) hp | with_reducible intro _
    | (with_reducible apply Only.ite) | (with_reducible apply Only.ite2)
    | (with_reducible refine State.setDict_only' ?_ (List.Subset.trans (by decide) hp) _ (fun _ => rfl))
    | (with_reducible refine State.setDict_only'' ?_ (List.Subset.trans (by decide) hp) _ (fun _ => rfl))
    | (with_reducible apply State.setDict_only) | (with_reducible apply State.installCamp_only)
    | (with_reducible refine Only.snd ?_ (by assumption)) | (dsimp only) | split
    | (with_reducible refine Only.leaf ?_ ?_)
    | (unfold Same; intro p hq; cases p <;> first | exact absurd (hp (by decide)) hq | dsimp only [Part.same])

end Sys2Proof.Machine
end

