-- ==== Sys2Proof/Laws/OnlySecurity.lean ====
section
/-!
SUPPORT. What the operations of Machine/Security.lean can change (Laws/Only.lean).
-/

namespace Sys2Proof.Machine

theorem State.setBoot_only {parts : List Part} {s0 s : State} (h : Only parts s0 s) (hp : [.alert, .boot] ⊆ parts)
    (f : Boot → Boot) : Only parts s0 (State.setBoot s f) :=
  Only.leaf h (by intro p hp'; cases p <;> first | rfl | exact absurd (hp (by decide)) hp')

/-- Where the alert stay. -/
theorem State.setBoot_only' {parts : List Part} {s0 s : State} (h : Only parts s0 s) (hp : [.boot] ⊆ parts) (f : Boot
      → Boot)
    (hf : ∀ x, (f x).alert = x.alert) : Only parts s0 (State.setBoot s f) :=
  Only.leaf h (by intro p hp'; cases p <;> first | rfl | exact hf _ | exact absurd (hp (by decide)) hp')

/-- Where only the alert change. -/
theorem State.setBoot_only'' {parts : List Part} {s0 s : State} (h : Only parts s0 s) (hp : [.alert] ⊆ parts) (f :
      Boot → Boot)
    (hf : ∀ x, f x = { x with alert := (f x).alert }) : Only parts s0 (State.setBoot s f) :=
  Only.leaf h (by intro p hp'; cases p <;> first | rfl | exact hf _ | exact absurd (hp (by decide)) hp')

theorem State.clearMeasure_only {parts : List Part} {s0 s : State} (h : Only parts s0 s) (hp : [.boot] ⊆ parts) (r :
      Nat) :
    Only parts s0 (State.clearMeasure s r) := by
  unfold State.clearMeasure
  repeat' first
    | with_reducible assumption | with_reducible exact List.Subset.trans (by decide) hp | with_reducible intro _
    | (with_reducible refine State.setBoot_only' ?_ (List.Subset.trans (by decide) hp) _ (fun _ => rfl))
    | (with_reducible refine State.setBoot_only'' ?_ (List.Subset.trans (by decide) hp) _ (fun _ => rfl))
    | (with_reducible apply State.setBoot_only) | (dsimp only) | split | (with_reducible refine Only.leaf ?_ ?_)
    | (unfold Same; intro p hq; cases p <;> first | exact absurd (hp (by decide)) hq | dsimp only [Part.same])

theorem State.extend_only {parts : List Part} {s0 s : State} (h : Only parts s0 s) (hp : [.boot] ⊆ parts) (r : Nat)
      (item : Byte) (d : List Byte) :
    Only parts s0 (State.extend s r item d) := by
  unfold State.extend
  repeat' first
    | with_reducible assumption | with_reducible exact List.Subset.trans (by decide) hp | with_reducible intro _
    | (with_reducible refine State.setBoot_only' ?_ (List.Subset.trans (by decide) hp) _ (fun _ => rfl))
    | (with_reducible refine State.setBoot_only'' ?_ (List.Subset.trans (by decide) hp) _ (fun _ => rfl))
    | (with_reducible apply State.setBoot_only) | (dsimp only) | split | (with_reducible refine Only.leaf ?_ ?_)
    | (unfold Same; intro p hq; cases p <;> first | exact absurd (hp (by decide)) hq | dsimp only [Part.same])

theorem State.extendImage_only {parts : List Part} {s0 s : State} (h : Only parts s0 s) (hp : [.boot] ⊆ parts) (r
      kind : Nat) (header : List Byte) :
    Only parts s0 (State.extendImage s r kind header) := by
  unfold State.extendImage
  repeat' first
    | with_reducible assumption | with_reducible exact List.Subset.trans (by decide) hp | with_reducible intro _
    | (with_reducible apply State.extend_only) | (dsimp only) | split | (with_reducible refine Only.leaf ?_ ?_)
    | (unfold Same; intro p hq; cases p <;> first | exact absurd (hp (by decide)) hq | dsimp only [Part.same])

theorem State.attest_only {parts : List Part} {s0 s : State} (h : Only parts s0 s) (hp : [.objects, .ring] ⊆ parts)
      (nonce : List Byte) :
    Only parts s0 (State.attest s nonce).2 := by
  unfold State.attest
  repeat' first
    | with_reducible assumption | with_reducible exact List.Subset.trans (by decide) hp | with_reducible intro _
    | (with_reducible apply State.log_only) | (dsimp only) | split | (with_reducible refine Only.leaf ?_ ?_)
    | (unfold Same; intro p hq; cases p <;> first | exact absurd (hp (by decide)) hq | dsimp only [Part.same])

theorem execDoeAttest_only {parts : List Part} {s0 s : State} (h : Only parts s0 s) (hp : [.out, .objects, .ring] ⊆
      parts) (nonce : BitVec 256) :
    OnlyO parts s0 (execDoeAttest nonce s) := by
  unfold execDoeAttest
  repeat' first
    | with_reducible assumption | with_reducible exact List.Subset.trans (by decide) hp
    | (with_reducible apply act_only) | with_reducible intro _ | (with_reducible apply Only.ite)
    | (with_reducible apply State.emit_only) | (with_reducible apply State.attest_only)
    | (with_reducible refine Only.snd ?_ (by assumption)) | (dsimp only) | split
    | (with_reducible refine Only.leaf ?_ ?_)
    | (unfold Same; intro p hq; cases p <;> first | exact absurd (hp (by decide)) hq | dsimp only [Part.same])

theorem execDoeMeasureLog_only {parts : List Part} {s0 s : State} (h : Only parts s0 s) (hp : [.out] ⊆ parts)  :
    OnlyO parts s0 (execDoeMeasureLog s) := by
  unfold execDoeMeasureLog
  repeat' first
    | with_reducible assumption | with_reducible exact List.Subset.trans (by decide) hp
    | (with_reducible apply act_only) | with_reducible intro _ | (with_reducible apply Only.ite)
    | (with_reducible apply State.emit_only) | (dsimp only) | split | (with_reducible refine Only.leaf ?_ ?_)
    | (unfold Same; intro p hq; cases p <;> first | exact absurd (hp (by decide)) hq | dsimp only [Part.same])

theorem execIdeKm_only {parts : List Part} {s0 s : State} (h : Only parts s0 s) (hp : [.host] ⊆ parts) (stream :
      Bool) (slot : Nat) (key : List Byte) :
    OnlyO parts s0 (execIdeKm stream slot key s) := by
  unfold execIdeKm
  repeat' first
    | with_reducible assumption | with_reducible exact List.Subset.trans (by decide) hp
    | (with_reducible apply act_only) | with_reducible intro _ | (with_reducible apply Only.ite)
    | (with_reducible refine State.setHost_only' ?_ (List.Subset.trans (by decide) hp) _ (fun _ => rfl))
    | (with_reducible refine State.setHost_only'' ?_ (List.Subset.trans (by decide) hp) _ (fun _ => rfl))
    | (with_reducible apply State.setHost_only) | (dsimp only) | split | (with_reducible refine Only.leaf ?_ ?_)
    | (unfold Same; intro p hq; cases p <;> first | exact absurd (hp (by decide)) hq | dsimp only [Part.same])

theorem State.setFw_only {parts : List Part} {s0 s : State} (h : Only parts s0 s) (hp : [.boot] ⊆ parts) (state kind
      rule : Nat) :
    Only parts s0 (State.setFw s state kind rule) := by
  unfold State.setFw
  repeat' first
    | with_reducible assumption | with_reducible exact List.Subset.trans (by decide) hp | with_reducible intro _
    | (with_reducible refine State.setBoot_only' ?_ (List.Subset.trans (by decide) hp) _ (fun _ => rfl))
    | (with_reducible refine State.setBoot_only'' ?_ (List.Subset.trans (by decide) hp) _ (fun _ => rfl))
    | (with_reducible apply State.setBoot_only) | (dsimp only) | split | (with_reducible refine Only.leaf ?_ ?_)
    | (unfold Same; intro p hq; cases p <;> first | exact absurd (hp (by decide)) hq | dsimp only [Part.same])

theorem State.stagePiece_only {parts : List Part} {s0 s : State} (h : Only parts s0 s) (hp : [.boot] ⊆ parts)
      (session off : Nat) (data : List Byte) :
    Only parts s0 (State.stagePiece s session off data).2 := by
  unfold State.stagePiece
  repeat' first
    | with_reducible assumption | with_reducible exact List.Subset.trans (by decide) hp | with_reducible intro _
    | (with_reducible apply Only.ite) | (with_reducible apply Only.ite2)
    | (with_reducible refine State.setBoot_only' ?_ (List.Subset.trans (by decide) hp) _ (fun _ => rfl))
    | (with_reducible refine State.setBoot_only'' ?_ (List.Subset.trans (by decide) hp) _ (fun _ => rfl))
    | (with_reducible apply State.setBoot_only) | (dsimp only) | split | (with_reducible refine Only.leaf ?_ ?_)
    | (unfold Same; intro p hq; cases p <;> first | exact absurd (hp (by decide)) hq | dsimp only [Part.same])

theorem State.startInstall_only {parts : List Part} {s0 s : State} (h : Only parts s0 s) (hp : [.objects, .ring,
      .boot] ⊆ parts) (session : Nat) (bundle : Bool) :
    Only parts s0 (State.startInstall s session bundle) := by
  unfold State.startInstall
  repeat' first
    | with_reducible assumption | with_reducible exact List.Subset.trans (by decide) hp | with_reducible intro _
    | (with_reducible apply Only.ite)
    | (with_reducible refine State.setBoot_only' ?_ (List.Subset.trans (by decide) hp) _ (fun _ => rfl))
    | (with_reducible refine State.setBoot_only'' ?_ (List.Subset.trans (by decide) hp) _ (fun _ => rfl))
    | (with_reducible apply State.log_only) | (with_reducible apply State.setBoot_only)
    | (with_reducible apply State.setFw_only) | (dsimp only) | split | (with_reducible refine Only.leaf ?_ ?_)
    | (unfold Same; intro p hq; cases p <;> first | exact absurd (hp (by decide)) hq | dsimp only [Part.same])

theorem execFwInstallComplete_only {parts : List Part} {s0 s : State} (h : Only parts s0 s) (hp : [.objects, .ring,
      .boot] ⊆ parts)  :
    OnlyO parts s0 (execFwInstallComplete s) := by
  unfold execFwInstallComplete
  repeat' first
    | with_reducible assumption | with_reducible exact List.Subset.trans (by decide) hp
    | (with_reducible apply act_only) | with_reducible intro _ | (with_reducible apply Only.ite)
    | (with_reducible refine State.setBoot_only' ?_ (List.Subset.trans (by decide) hp) _ (fun _ => rfl))
    | (with_reducible refine State.setBoot_only'' ?_ (List.Subset.trans (by decide) hp) _ (fun _ => rfl))
    | (with_reducible apply State.log_only) | (with_reducible apply State.setBoot_only)
    | (with_reducible apply State.setFw_only) | (dsimp only) | split | (with_reducible refine Only.leaf ?_ ?_)
    | (unfold Same; intro p hq; cases p <;> first | exact absurd (hp (by decide)) hq | dsimp only [Part.same])

theorem State.commitSvn_only {parts : List Part} {s0 s : State} (h : Only parts s0 s) (hp : [.objects, .ring, .boot]
      ⊆ parts)  :
    Only parts s0 (State.commitSvn s) := by
  unfold State.commitSvn
  repeat' first
    | with_reducible assumption | with_reducible exact List.Subset.trans (by decide) hp | with_reducible intro _
    | (with_reducible refine State.setBoot_only' ?_ (List.Subset.trans (by decide) hp) _ (fun _ => rfl))
    | (with_reducible refine State.setBoot_only'' ?_ (List.Subset.trans (by decide) hp) _ (fun _ => rfl))
    | (with_reducible apply State.log_only) | (with_reducible apply State.setBoot_only)
    | (with_reducible apply Only.foldl) | (with_reducible apply Only.foldl1) | (with_reducible apply Only.foldl2)
    | (dsimp only) | split | (with_reducible refine Only.leaf ?_ ?_)
    | (unfold Same; intro p hq; cases p <;> first | exact absurd (hp (by decide)) hq | dsimp only [Part.same])

end Sys2Proof.Machine
end

