-- ==== Sys2Proof/Laws/OnlyDictionary.lean ====
section
/-!
SUPPORT. What the operations of Machine/Dictionary.lean can change (Laws/Only.lean).
-/

namespace Sys2Proof.Machine

theorem State.writeSwitchBank_only {parts : List Part} {s0 s : State} (h : Only parts s0 s) (hp : [.tt, .objects,
      .ring] ⊆ parts) (v : Nat) :
    Only parts s0 (State.writeSwitchBank s v).2 := by
  unfold State.writeSwitchBank
  repeat' first
    | with_reducible assumption | with_reducible exact List.Subset.trans (by decide) hp | with_reducible intro _
    | (with_reducible apply Only.ite) | (with_reducible apply Only.ite2) | (with_reducible apply State.on_only)
    | (with_reducible apply State.armSwitch_only) | (with_reducible apply State.disarmBankSwitch_only)
    | (with_reducible refine Only.snd ?_ (by assumption)) | (dsimp only) | split
    | (with_reducible refine Only.leaf ?_ ?_)
    | (unfold Same; intro p hq; cases p <;> first | exact absurd (hp (by decide)) hq | dsimp only [Part.same])

theorem State.writeSwitchSlot_only {parts : List Part} {s0 s : State} (h : Only parts s0 s) (hp : [.objects, .dict,
      .ring] ⊆ parts) (v : Nat) :
    Only parts s0 (State.writeSwitchSlot s v).2 := by
  unfold State.writeSwitchSlot
  repeat' first
    | with_reducible assumption | with_reducible exact List.Subset.trans (by decide) hp | with_reducible intro _
    | (with_reducible apply Only.ite) | (with_reducible apply Only.ite2)
    | (with_reducible apply State.armCamp_only) | (with_reducible apply State.disarmCamp_only)
    | (with_reducible refine Only.snd ?_ (by assumption)) | (dsimp only) | split
    | (with_reducible refine Only.leaf ?_ ?_)
    | (unfold Same; intro p hq; cases p <;> first | exact absurd (hp (by decide)) hq | dsimp only [Part.same])

theorem State.writeRestore_only {parts : List Part} {s0 s : State} (h : Only parts s0 s) (hp : [.mem, .poison,
      .deltas, .train, .rope, .objects] ⊆ parts) (v : Nat) :
    Only parts s0 (State.writeRestore s v) := by
  unfold State.writeRestore
  repeat' first
    | with_reducible assumption | with_reducible exact List.Subset.trans (by decide) hp | with_reducible intro _
    | (with_reducible apply Only.ite) | (with_reducible apply State.freshStart_only)
    | (with_reducible apply State.restoreState_only) | (dsimp only) | split
    | (with_reducible refine Only.leaf ?_ ?_)
    | (unfold Same; intro p hq; cases p <;> first | exact absurd (hp (by decide)) hq | dsimp only [Part.same])

theorem State.writeNonce_only {parts : List Part} {s0 s : State} (h : Only parts s0 s) (hp : [.objects, .ring, .boot]
      ⊆ parts) (session : Nat) (data : List Byte) :
    Only parts s0 (State.writeNonce s session data) := by
  unfold State.writeNonce
  repeat' first
    | with_reducible assumption | with_reducible exact List.Subset.trans (by decide) hp | with_reducible intro _
    | (with_reducible refine State.setBoot_only' ?_ (List.Subset.trans (by decide) hp) _ (fun _ => rfl))
    | (with_reducible refine State.setBoot_only'' ?_ (List.Subset.trans (by decide) hp) _ (fun _ => rfl))
    | (with_reducible apply State.setBoot_only) | (with_reducible apply State.attest_only)
    | (with_reducible refine Only.snd ?_ (by assumption)) | (dsimp only) | split
    | (with_reducible refine Only.leaf ?_ ?_)
    | (unfold Same; intro p hq; cases p <;> first | exact absurd (hp (by decide)) hq | dsimp only [Part.same])

theorem State.trigger_only {parts : List Part} {s0 s : State} (h : Only parts s0 s) (hp : [.tt, .hold, .links, .mem,
      .poison, .deltas, .train, .rope, .objects, .dict, .ring, .supply, .boot] ⊆ parts) (q : DxpReq) (v : Nat) :
    OnlyOpt2 parts s0 (State.trigger s q v) := by
  unfold State.trigger
  repeat' first
    | with_reducible assumption | with_reducible exact List.Subset.trans (by decide) hp | with_reducible intro _
    | (with_reducible apply OnlyOpt2.none) | (with_reducible apply OnlyOpt2.some)
    | (with_reducible apply OnlyOpt2.ite) | (with_reducible apply Only.ite) | (with_reducible apply Only.ite2)
    | (with_reducible refine State.setBoot_only' ?_ (List.Subset.trans (by decide) hp) _ (fun _ => rfl))
    | (with_reducible refine State.setBoot_only'' ?_ (List.Subset.trans (by decide) hp) _ (fun _ => rfl))
    | (with_reducible apply State.originateHoldAt_only) | (with_reducible apply State.setTrain_only)
    | (with_reducible apply State.setRope_only) | (with_reducible apply State.checkBank_only)
    | (with_reducible apply State.writeTarget_only) | (with_reducible apply State.setBoot_only)
    | (with_reducible apply State.startInstall_only) | (with_reducible apply State.commitSvn_only)
    | (with_reducible apply State.writeSwitchBank_only) | (with_reducible apply State.writeSwitchSlot_only)
    | (with_reducible apply State.writeRestore_only) | (with_reducible apply State.writeNonce_only)
    | (with_reducible refine Only.snd ?_ (by assumption)) | (with_reducible refine Only.fst ?_ (by assumption))
    | (dsimp only) | split | (with_reducible refine Only.leaf ?_ ?_)
    | (unfold Same; intro p hq; cases p <;> first | exact absurd (hp (by decide)) hq | dsimp only [Part.same])

theorem State.take_only {parts : List Part} {s0 s : State} (h : Only parts s0 s) (hp : [.out, .time, .tt, .links,
      .fabric, .objects, .dict, .ring, .faults, .boot] ⊆ parts) (r : ObjRow) (k v : Nat) (data : List Byte) :
    Only parts s0 (State.take s r k v data) := by
  unfold State.take
  repeat' first
    | with_reducible assumption | with_reducible exact List.Subset.trans (by decide) hp | with_reducible intro _
    | (with_reducible apply Only.ite) | (with_reducible apply State.setRec_only)
    | (with_reducible apply State.setArmed_only) | (with_reducible apply State.valueChanged_only)
    | (with_reducible apply State.assign_only) | (dsimp only) | split | (with_reducible refine Only.leaf ?_ ?_)
    | (unfold Same; intro p hq; cases p <;> first | exact absurd (hp (by decide)) hq | dsimp only [Part.same])

theorem State.writeRequest_only {parts : List Part} {s0 s : State} (h : Only parts s0 s) (hp : [.out, .time, .tt,
      .hold, .links, .fabric, .mem, .poison, .deltas, .train, .rope, .objects, .dict, .ring, .faults, .supply, .boot]
      ⊆ parts) (q : DxpReq) :
    Only parts s0 (State.writeRequest s q).2 := by
  unfold State.writeRequest
  repeat' first
    | with_reducible assumption | with_reducible exact List.Subset.trans (by decide) hp | with_reducible intro _
    | (with_reducible apply Only.ite) | (with_reducible apply Only.ite2)
    | (with_reducible refine State.setDict_only' ?_ (List.Subset.trans (by decide) hp) _ (fun _ => rfl))
    | (with_reducible refine State.setDict_only'' ?_ (List.Subset.trans (by decide) hp) _ (fun _ => rfl))
    | (with_reducible apply State.setDict_only) | (with_reducible apply State.logConflict_only)
    | (with_reducible apply State.trigger_only) | (with_reducible apply State.take_only)
    | (with_reducible refine OnlyOpt2.get' ?_ (by assumption))
    | (with_reducible refine OnlyOpt2.get ?_ (by assumption)) | (dsimp only) | split
    | (with_reducible refine Only.leaf ?_ ?_)
    | (unfold Same; intro p hq; cases p <;> first | exact absurd (hp (by decide)) hq | dsimp only [Part.same])

theorem State.writeTable_only {parts : List Part} {s0 s : State} (h : Only parts s0 s) (hp : [.tt, .mem, .poison] ⊆
      parts) (q : DxpReq) :
    Only parts s0 (State.writeTable s q) := by
  unfold State.writeTable
  repeat' first
    | with_reducible assumption | with_reducible exact List.Subset.trans (by decide) hp | with_reducible intro _
    | (with_reducible apply State.write_only) | (with_reducible apply State.setArmed_only) | (dsimp only) | split
    | (with_reducible refine Only.leaf ?_ ?_)
    | (unfold Same; intro p hq; cases p <;> first | exact absurd (hp (by decide)) hq | dsimp only [Part.same])

theorem State.writeBlobRequest_only {parts : List Part} {s0 s : State} (h : Only parts s0 s) (hp : [.tt, .mem,
      .poison, .objects, .dict, .ring, .boot] ⊆ parts) (q : DxpReq) :
    Only parts s0 (State.writeBlobRequest s q).2 := by
  unfold State.writeBlobRequest
  repeat' first
    | with_reducible assumption | with_reducible exact List.Subset.trans (by decide) hp | with_reducible intro _
    | (with_reducible apply Only.ite) | (with_reducible apply Only.ite2)
    | (with_reducible apply State.campPiece_only) | (with_reducible apply State.stagePiece_only)
    | (with_reducible apply State.writeTable_only) | (with_reducible refine Only.snd ?_ (by assumption))
    | (dsimp only) | split | (with_reducible refine Only.leaf ?_ ?_)
    | (unfold Same; intro p hq; cases p <;> first | exact absurd (hp (by decide)) hq | dsimp only [Part.same])

theorem State.afterRead_only {parts : List Part} {s0 s : State} (h : Only parts s0 s) (hp : [.time, .supply] ⊆ parts)
      (k : Nat) :
    Only parts s0 (State.afterRead s k) := by
  unfold State.afterRead
  repeat' first
    | with_reducible assumption | with_reducible exact List.Subset.trans (by decide) hp | with_reducible intro _
    | (with_reducible apply Only.ite) | (with_reducible apply State.setTime_only)
    | (with_reducible apply State.setSupply_only) | (dsimp only) | split | (with_reducible refine Only.leaf ?_ ?_)
    | (unfold Same; intro p hq; cases p <;> first | exact absurd (hp (by decide)) hq | dsimp only [Part.same])

theorem State.readRequest_only {parts : List Part} {s0 s : State} (h : Only parts s0 s) (hp : [.time, .supply] ⊆
      parts) (q : DxpReq) :
    Only parts s0 (State.readRequest s q).2 := by
  unfold State.readRequest
  repeat' first
    | with_reducible assumption | with_reducible exact List.Subset.trans (by decide) hp | with_reducible intro _
    | (with_reducible apply Only.ite) | (with_reducible apply Only.ite2)
    | (with_reducible apply State.afterRead_only) | (dsimp only) | split | (with_reducible refine Only.leaf ?_ ?_)
    | (unfold Same; intro p hq; cases p <;> first | exact absurd (hp (by decide)) hq | dsimp only [Part.same])

theorem State.subscribeRequest_only {parts : List Part} {s0 s : State} (h : Only parts s0 s) (hp : [.faults] ⊆ parts)
      (q : DxpReq) :
    Only parts s0 (State.subscribeRequest s q).2 := by
  unfold State.subscribeRequest
  repeat' first
    | with_reducible assumption | with_reducible exact List.Subset.trans (by decide) hp | with_reducible intro _
    | (with_reducible apply Only.ite) | (with_reducible apply Only.ite2) | (dsimp only) | split
    | (with_reducible refine Only.leaf ?_ ?_)
    | (unfold Same; intro p hq; cases p <;> first | exact absurd (hp (by decide)) hq | dsimp only [Part.same])

theorem State.groupKeyRequest_only {parts : List Part} {s0 s : State} (h : Only parts s0 s) (hp : [.dict] ⊆ parts) (q
      : DxpReq) :
    Only parts s0 (State.groupKeyRequest s q).2 := by
  unfold State.groupKeyRequest
  repeat' first
    | with_reducible assumption | with_reducible exact List.Subset.trans (by decide) hp | with_reducible intro _
    | (with_reducible apply Only.ite) | (with_reducible apply Only.ite2)
    | (with_reducible refine State.setDict_only' ?_ (List.Subset.trans (by decide) hp) _ (fun _ => rfl))
    | (with_reducible refine State.setDict_only'' ?_ (List.Subset.trans (by decide) hp) _ (fun _ => rfl))
    | (with_reducible apply State.setDict_only) | (dsimp only) | split | (with_reducible refine Only.leaf ?_ ?_)
    | (unfold Same; intro p hq; cases p <;> first | exact absurd (hp (by decide)) hq | dsimp only [Part.same])

theorem State.request_only {parts : List Part} {s0 s : State} (h : Only parts s0 s) (hp : [.out, .time, .tt, .hold,
      .links, .fabric, .mem, .poison, .deltas, .train, .rope, .objects, .dict, .ring, .faults, .supply, .boot] ⊆
      parts) (q : DxpReq) :
    Only parts s0 (State.request s q).2 := by
  unfold State.request
  repeat' first
    | with_reducible assumption | with_reducible exact List.Subset.trans (by decide) hp | with_reducible intro _
    | (with_reducible apply Only.ite) | (with_reducible apply Only.ite2)
    | (with_reducible apply State.writeRequest_only) | (with_reducible apply State.writeBlobRequest_only)
    | (with_reducible apply State.readRequest_only) | (with_reducible apply State.subscribeRequest_only)
    | (with_reducible apply State.groupKeyRequest_only) | (with_reducible refine Only.snd ?_ (by assumption))
    | (dsimp only) | split | (with_reducible refine Only.leaf ?_ ?_)
    | (unfold Same; intro p hq; cases p <;> first | exact absurd (hp (by decide)) hq | dsimp only [Part.same])

theorem State.countAbort_only {parts : List Part} {s0 s : State} (h : Only parts s0 s) (hp : [.objects] ⊆ parts)
      (abort : Nat) :
    Only parts s0 (State.countAbort s abort) := by
  unfold State.countAbort
  repeat' first
    | with_reducible assumption | with_reducible exact List.Subset.trans (by decide) hp | with_reducible intro _
    | (with_reducible apply State.on_only) | (with_reducible apply State.count_only) | (dsimp only) | split
    | (with_reducible refine Only.leaf ?_ ?_)
    | (unfold Same; intro p hq; cases p <;> first | exact absurd (hp (by decide)) hq | dsimp only [Part.same])

theorem State.plainAnswer_only {parts : List Part} {s0 s : State} (h : Only parts s0 s) (hp : [.out, .links, .fabric,
      .rope, .objects, .ring, .msix, .host] ⊆ parts) (m : DxpMsg) (kind abort : Nat) :
    Only parts s0 (State.plainAnswer s m kind abort) := by
  unfold State.plainAnswer
  repeat' first
    | with_reducible assumption | with_reducible exact List.Subset.trans (by decide) hp | with_reducible intro _
    | (with_reducible apply State.sendDxp_only) | (with_reducible apply State.countAbort_only) | (dsimp only)
    | split | (with_reducible refine Only.leaf ?_ ?_)
    | (unfold Same; intro p hq; cases p <;> first | exact absurd (hp (by decide)) hq | dsimp only [Part.same])

theorem State.sessionAnswer_only {parts : List Part} {s0 s : State} (h : Only parts s0 s) (hp : [.out, .links,
      .fabric, .rope, .objects, .dict, .ring, .msix, .host] ⊆ parts) (v : Session) (w abort type : Nat) (data : List
      Byte) :
    Only parts s0 (State.sessionAnswer s v w abort type data) := by
  unfold State.sessionAnswer
  repeat' first
    | with_reducible assumption | with_reducible exact List.Subset.trans (by decide) hp | with_reducible intro _
    | (with_reducible apply Only.ite)
    | (with_reducible refine State.setDict_only' ?_ (List.Subset.trans (by decide) hp) _ (fun _ => rfl))
    | (with_reducible refine State.setDict_only'' ?_ (List.Subset.trans (by decide) hp) _ (fun _ => rfl))
    | (with_reducible apply State.setDict_only) | (with_reducible apply State.sendSession_only)
    | (with_reducible apply State.countAbort_only) | (dsimp only) | split | (with_reducible refine Only.leaf ?_ ?_)
    | (unfold Same; intro p hq; cases p <;> first | exact absurd (hp (by decide)) hq | dsimp only [Part.same])

theorem State.multicast_only {parts : List Part} {s0 s : State} (h : Only parts s0 s) (hp : [.out, .time, .tt, .hold,
      .links, .fabric, .mem, .poison, .deltas, .train, .rope, .objects, .dict, .ring, .faults, .supply, .boot] ⊆
      parts) (m : DxpMsg) (data : List Byte) :
    Only parts s0 (State.multicast s m data) := by
  unfold State.multicast
  repeat' first
    | with_reducible assumption | with_reducible exact List.Subset.trans (by decide) hp | with_reducible intro _
    | (with_reducible apply Only.ite)
    | (with_reducible refine State.setDict_only' ?_ (List.Subset.trans (by decide) hp) _ (fun _ => rfl))
    | (with_reducible refine State.setDict_only'' ?_ (List.Subset.trans (by decide) hp) _ (fun _ => rfl))
    | (with_reducible apply State.emit_only) | (with_reducible apply State.setDict_only)
    | (with_reducible apply State.request_only) | (with_reducible apply State.countAbort_only)
    | (with_reducible refine Only.snd ?_ (by assumption)) | (dsimp only) | split
    | (with_reducible refine Only.leaf ?_ ?_)
    | (unfold Same; intro p hq; cases p <;> first | exact absurd (hp (by decide)) hq | dsimp only [Part.same])

theorem State.inSession_only {parts : List Part} {s0 s : State} (h : Only parts s0 s) (hp : [.out, .time, .tt, .hold,
      .links, .fabric, .mem, .poison, .deltas, .train, .rope, .objects, .dict, .ring, .faults, .msix, .host, .supply,
      .boot] ⊆ parts) (v : Session) (m : DxpMsg) (data : List Byte) :
    Only parts s0 (State.inSession s v m data) := by
  unfold State.inSession
  repeat' first
    | with_reducible assumption | with_reducible exact List.Subset.trans (by decide) hp | with_reducible intro _
    | (with_reducible apply Only.ite)
    | (with_reducible refine State.setDict_only' ?_ (List.Subset.trans (by decide) hp) _ (fun _ => rfl))
    | (with_reducible refine State.setDict_only'' ?_ (List.Subset.trans (by decide) hp) _ (fun _ => rfl))
    | (with_reducible apply State.on_only) | (with_reducible apply State.count_only)
    | (with_reducible apply State.setDict_only) | (with_reducible apply State.sendSession_only)
    | (with_reducible apply State.closeSession_only) | (with_reducible apply State.request_only)
    | (with_reducible apply State.sessionAnswer_only) | (with_reducible refine Only.snd ?_ (by assumption))
    | (dsimp only) | split | (with_reducible refine Only.leaf ?_ ?_)
    | (unfold Same; intro p hq; cases p <;> first | exact absurd (hp (by decide)) hq | dsimp only [Part.same])

theorem State.openDxp_only {parts : List Part} {s0 s : State} (h : Only parts s0 s) (hp : [.dict, .faults, .boot] ⊆
      parts) (m : DxpMsg) (write : Bool) (operator : List Byte) :
    Only parts s0 (State.openDxp s m write operator).1 := by
  unfold State.openDxp
  repeat' first
    | with_reducible assumption | with_reducible exact List.Subset.trans (by decide) hp
    | (with_reducible apply OnlyO.next) | with_reducible intro _ | (with_reducible apply Only.ite)
    | (with_reducible apply Only.ite1)
    | (with_reducible refine State.setDict_only' ?_ (List.Subset.trans (by decide) hp) _ (fun _ => rfl))
    | (with_reducible refine State.setDict_only'' ?_ (List.Subset.trans (by decide) hp) _ (fun _ => rfl))
    | (with_reducible apply State.each_only) | (with_reducible apply State.setDict_only)
    | (with_reducible apply State.closeSession_only) | (dsimp only) | split
    | (with_reducible refine Only.leaf ?_ ?_)
    | (unfold Same; intro p hq; cases p <;> first | exact absurd (hp (by decide)) hq | dsimp only [Part.same])

theorem State.logOpened_only {parts : List Part} {s0 s : State} (h : Only parts s0 s) (hp : [.objects, .ring] ⊆
      parts) (transport access : Nat) :
    Only parts s0 (State.logOpened s transport access) := by
  unfold State.logOpened
  repeat' first
    | with_reducible assumption | with_reducible exact List.Subset.trans (by decide) hp | with_reducible intro _
    | (with_reducible apply State.log_only) | (dsimp only) | split | (with_reducible refine Only.leaf ?_ ?_)
    | (unfold Same; intro p hq; cases p <;> first | exact absurd (hp (by decide)) hq | dsimp only [Part.same])

theorem State.plainHello_only {parts : List Part} {s0 s : State} (h : Only parts s0 s) (hp : [.out, .links, .fabric,
      .rope, .objects, .dict, .ring, .faults, .msix, .host, .boot] ⊆ parts) (m : DxpMsg) :
    Only parts s0 (State.plainHello s m) := by
  unfold State.plainHello
  repeat' first
    | with_reducible assumption | with_reducible exact List.Subset.trans (by decide) hp | with_reducible intro _
    | (with_reducible apply Only.ite) | (with_reducible apply State.log_only)
    | (with_reducible apply State.sendDxp_only) | (with_reducible apply State.plainAnswer_only)
    | (with_reducible apply State.openDxp_only) | (with_reducible apply State.logOpened_only)
    | (with_reducible refine Only.fst ?_ (by assumption)) | (dsimp only) | split
    | (with_reducible refine Only.leaf ?_ ?_)
    | (unfold Same; intro p hq; cases p <;> first | exact absurd (hp (by decide)) hq | dsimp only [Part.same])

theorem State.sendPieces_only {parts : List Part} {s0 s : State} (h : Only parts s0 s) (hp : [.out, .links, .fabric,
      .rope, .objects, .ring, .msix, .host] ⊆ parts) (m : DxpMsg) (abort n : Nat) (body : List Byte) :
    Only parts s0 (State.sendPieces s m abort n body) := by
  unfold State.sendPieces
  repeat' first
    | with_reducible assumption | with_reducible exact List.Subset.trans (by decide) hp | with_reducible intro _
    | (with_reducible apply State.each_only) | (with_reducible apply State.sendDxp_only) | (dsimp only) | split
    | (with_reducible refine Only.leaf ?_ ?_)
    | (unfold Same; intro p hq; cases p <;> first | exact absurd (hp (by decide)) hq | dsimp only [Part.same])

theorem State.keyedHello_only {parts : List Part} {s0 s : State} (h : Only parts s0 s) (hp : [.out, .drawn, .links,
      .fabric, .rope, .objects, .dict, .ring, .faults, .msix, .host, .boot] ⊆ parts) (m : DxpMsg) (first : BitVec
      256) (b : List Byte) :
    Only parts s0 (State.keyedHello s m first b) := by
  unfold State.keyedHello
  repeat' first
    | with_reducible assumption | with_reducible exact List.Subset.trans (by decide) hp | with_reducible intro _
    | (with_reducible apply Only.ite)
    | (with_reducible refine State.setDict_only' ?_ (List.Subset.trans (by decide) hp) _ (fun _ => rfl))
    | (with_reducible refine State.setDict_only'' ?_ (List.Subset.trans (by decide) hp) _ (fun _ => rfl))
    | (with_reducible apply State.draw_only) | (with_reducible apply State.on_only)
    | (with_reducible apply State.log_only) | (with_reducible apply State.setDict_only)
    | (with_reducible apply State.countAbort_only) | (with_reducible apply State.plainAnswer_only)
    | (with_reducible apply State.openDxp_only) | (with_reducible apply State.logOpened_only)
    | (with_reducible apply State.sendPieces_only) | (with_reducible refine Only.snd ?_ (by assumption))
    | (with_reducible refine Only.fst ?_ (by assumption)) | (dsimp only) | split
    | (with_reducible refine Only.leaf ?_ ?_)
    | (unfold Same; intro p hq; cases p <;> first | exact absurd (hp (by decide)) hq | dsimp only [Part.same])

theorem State.helloPiece_only {parts : List Part} {s0 s : State} (h : Only parts s0 s) (hp : [.out, .drawn, .links,
      .fabric, .rope, .objects, .dict, .ring, .faults, .msix, .host, .boot] ⊆ parts) (m : DxpMsg) :
    Only parts s0 (State.helloPiece s m) := by
  unfold State.helloPiece
  repeat' first
    | with_reducible assumption | with_reducible exact List.Subset.trans (by decide) hp | with_reducible intro _
    | (with_reducible apply Only.ite)
    | (with_reducible refine State.setDict_only' ?_ (List.Subset.trans (by decide) hp) _ (fun _ => rfl))
    | (with_reducible refine State.setDict_only'' ?_ (List.Subset.trans (by decide) hp) _ (fun _ => rfl))
    | (with_reducible apply State.setDict_only) | (with_reducible apply State.plainAnswer_only)
    | (with_reducible apply State.keyedHello_only) | (dsimp only) | split | (with_reducible refine Only.leaf ?_ ?_)
    | (unfold Same; intro p hq; cases p <;> first | exact absurd (hp (by decide)) hq | dsimp only [Part.same])

theorem State.hello_only {parts : List Part} {s0 s : State} (h : Only parts s0 s) (hp : [.out, .drawn, .links,
      .fabric, .rope, .objects, .dict, .ring, .faults, .msix, .host, .boot] ⊆ parts) (m : DxpMsg) :
    Only parts s0 (State.hello s m) := by
  unfold State.hello
  repeat' first
    | with_reducible assumption | with_reducible exact List.Subset.trans (by decide) hp | with_reducible intro _
    | (with_reducible apply Only.ite) | (with_reducible apply State.plainHello_only)
    | (with_reducible apply State.helloPiece_only) | (dsimp only) | split | (with_reducible refine Only.leaf ?_ ?_)
    | (unfold Same; intro p hq; cases p <;> first | exact absurd (hp (by decide)) hq | dsimp only [Part.same])

theorem State.handle_only {parts : List Part} {s0 s : State} (h : Only parts s0 s) (hp : [.out, .drawn, .time, .tt,
      .hold, .links, .fabric, .mem, .poison, .deltas, .train, .rope, .objects, .dict, .ring, .faults, .msix, .host,
      .supply, .boot] ⊆ parts) (m : DxpMsg) :
    Only parts s0 (State.handle s m) := by
  unfold State.handle
  repeat' first
    | with_reducible assumption | with_reducible exact List.Subset.trans (by decide) hp | with_reducible intro _
    | (with_reducible apply Only.ite) | (with_reducible apply State.count_only)
    | (with_reducible apply State.sendSession_only) | (with_reducible apply State.countAbort_only)
    | (with_reducible apply State.plainAnswer_only) | (with_reducible apply State.multicast_only)
    | (with_reducible apply State.inSession_only) | (with_reducible apply State.hello_only) | (dsimp only) | split
    | (with_reducible refine Only.leaf ?_ ?_)
    | (unfold Same; intro p hq; cases p <;> first | exact absurd (hp (by decide)) hq | dsimp only [Part.same])

theorem State.mboxSettle_only {parts : List Part} {s0 s : State} (h : Only parts s0 s) (hp : [.host] ⊆ parts)  :
    Only parts s0 (State.mboxSettle s) := by
  unfold State.mboxSettle
  repeat' first
    | with_reducible assumption | with_reducible exact List.Subset.trans (by decide) hp | with_reducible intro _
    | (with_reducible apply Only.ite)
    | (with_reducible refine State.setHost_only' ?_ (List.Subset.trans (by decide) hp) _ (fun _ => rfl))
    | (with_reducible refine State.setHost_only'' ?_ (List.Subset.trans (by decide) hp) _ (fun _ => rfl))
    | (with_reducible apply State.setHost_only) | (dsimp only) | split | (with_reducible refine Only.leaf ?_ ?_)
    | (unfold Same; intro p hq; cases p <;> first | exact absurd (hp (by decide)) hq | dsimp only [Part.same])

theorem State.arrive_only {parts : List Part} {s0 s : State} (h : Only parts s0 s) (hp : [.out, .drawn, .time, .tt,
      .hold, .links, .fabric, .mem, .poison, .deltas, .train, .rope, .objects, .dict, .ring, .faults, .msix, .host,
      .supply, .boot] ⊆ parts) (m : DxpMsg) :
    Only parts s0 (State.arrive s m) := by
  unfold State.arrive
  repeat' first
    | with_reducible assumption | with_reducible exact List.Subset.trans (by decide) hp | with_reducible intro _
    | (with_reducible apply Only.ite)
    | (with_reducible refine State.setHost_only' ?_ (List.Subset.trans (by decide) hp) _ (fun _ => rfl))
    | (with_reducible refine State.setHost_only'' ?_ (List.Subset.trans (by decide) hp) _ (fun _ => rfl))
    | (with_reducible apply State.on_only) | (with_reducible apply State.setHost_only)
    | (with_reducible apply State.streamAll_only) | (with_reducible apply State.popVc0_only)
    | (with_reducible apply State.handle_only) | (with_reducible apply State.mboxSettle_only) | (dsimp only)
    | split | (with_reducible refine Only.leaf ?_ ?_)
    | (unfold Same; intro p hq; cases p <;> first | exact absurd (hp (by decide)) hq | dsimp only [Part.same])

theorem State.persistAnswer_only {parts : List Part} {s0 s : State} (h : Only parts s0 s) (hp : [.out, .links,
      .fabric, .rope, .objects, .dict, .ring, .msix, .host] ⊆ parts) (j : PersistJob) (abort : Nat) :
    Only parts s0 (State.persistAnswer s j abort) := by
  unfold State.persistAnswer
  repeat' first
    | with_reducible assumption | with_reducible exact List.Subset.trans (by decide) hp | with_reducible intro _
    | (with_reducible apply State.sessionAnswer_only) | (dsimp only) | split
    | (with_reducible refine Only.leaf ?_ ?_)
    | (unfold Same; intro p hq; cases p <;> first | exact absurd (hp (by decide)) hq | dsimp only [Part.same])

theorem State.persistEnds_only {parts : List Part} {s0 s : State} (h : Only parts s0 s) (hp : [.out, .time, .tt,
      .links, .fabric, .rope, .objects, .dict, .ring, .faults, .msix, .host, .boot] ⊆ parts) (j : PersistJob) (ok :
      Bool) :
    Only parts s0 (State.persistEnds s j ok) := by
  unfold State.persistEnds
  repeat' first
    | with_reducible assumption | with_reducible exact List.Subset.trans (by decide) hp | with_reducible intro _
    | (with_reducible apply Only.ite)
    | (with_reducible refine State.setDict_only' ?_ (List.Subset.trans (by decide) hp) _ (fun _ => rfl))
    | (with_reducible refine State.setDict_only'' ?_ (List.Subset.trans (by decide) hp) _ (fun _ => rfl))
    | (with_reducible apply State.log_only) | (with_reducible apply State.setDict_only)
    | (with_reducible apply State.take_only) | (with_reducible apply State.persistAnswer_only) | (dsimp only)
    | split | (with_reducible refine Only.leaf ?_ ?_)
    | (unfold Same; intro p hq; cases p <;> first | exact absurd (hp (by decide)) hq | dsimp only [Part.same])

theorem execPersistWriteComplete_only {parts : List Part} {s0 s : State} (h : Only parts s0 s) (hp : [.out, .drawn,
      .time, .tt, .hold, .links, .fabric, .mem, .poison, .deltas, .train, .rope, .objects, .dict, .ring, .faults,
      .msix, .host, .supply, .boot] ⊆ parts) (ok : Bool) :
    OnlyO parts s0 (execPersistWriteComplete ok s) := by
  unfold execPersistWriteComplete
  repeat' first
    | with_reducible assumption | with_reducible exact List.Subset.trans (by decide) hp
    | (with_reducible apply act_only) | with_reducible intro _
    | (with_reducible refine State.setDict_only' ?_ (List.Subset.trans (by decide) hp) _ (fun _ => rfl))
    | (with_reducible refine State.setDict_only'' ?_ (List.Subset.trans (by decide) hp) _ (fun _ => rfl))
    | (with_reducible apply State.each_only) | (with_reducible apply State.setDict_only)
    | (with_reducible apply State.streamAll_only) | (with_reducible apply State.handle_only)
    | (with_reducible apply State.mboxSettle_only) | (with_reducible apply State.persistEnds_only) | (dsimp only)
    | split | (with_reducible refine Only.leaf ?_ ?_)
    | (unfold Same; intro p hq; cases p <;> first | exact absurd (hp (by decide)) hq | dsimp only [Part.same])

theorem execSessionIdleExpire_only {parts : List Part} {s0 s : State} (h : Only parts s0 s) (hp : [.hall, .time,
      .dict, .faults, .boot] ⊆ parts) (session : BitVec 16) :
    OnlyO parts s0 (execSessionIdleExpire session s) := by
  unfold execSessionIdleExpire
  repeat' first
    | with_reducible assumption | with_reducible exact List.Subset.trans (by decide) hp
    | (with_reducible apply act_only) | with_reducible intro _ | (with_reducible apply State.reach_only)
    | (with_reducible apply State.closeSession_only) | (dsimp only) | split
    | (with_reducible refine Only.leaf ?_ ?_)
    | (unfold Same; intro p hq; cases p <;> first | exact absurd (hp (by decide)) hq | dsimp only [Part.same])

end Sys2Proof.Machine
end

