-- ==== Sys2Proof/Laws/OnlyDictRows.lean ====
section
/-!
SUPPORT. What the operations of Machine/DictRows.lean can change (Laws/Only.lean).
-/

namespace Sys2Proof.Machine

theorem onRow_only {parts : List Part} {s0 s : State} (h : Only parts s0 s) (hp : [.out, .drawn, .time, .tt, .hold,
      .links, .fabric, .mem, .poison, .deltas, .train, .rope, .objects, .dict, .ring, .faults, .msix, .host, .supply,
      .boot] ⊆ parts) (row : DxpRow) (m : DxpMsg) :
    OnlyO parts s0 (onRow row m s) := by
  unfold onRow
  repeat' first
    | with_reducible assumption | with_reducible exact List.Subset.trans (by decide) hp
    | (with_reducible apply act_only) | with_reducible intro _ | (with_reducible apply Only.ite)
    | (with_reducible apply State.arrive_only) | (dsimp only) | split | (with_reducible refine Only.leaf ?_ ?_)
    | (unfold Same; intro p hq; cases p <;> first | exact absurd (hp (by decide)) hq | dsimp only [Part.same])

theorem execDxpHello_only {parts : List Part} {s0 s : State} (h : Only parts s0 s) (hp : [.out, .drawn, .time, .tt,
      .hold, .links, .fabric, .mem, .poison, .deltas, .train, .rope, .objects, .dict, .ring, .faults, .msix, .host,
      .supply, .boot] ⊆ parts) (m : DxpMsg) :
    OnlyO parts s0 (execDxpHello m s) := by
  unfold execDxpHello
  repeat' first
    | with_reducible assumption | with_reducible exact List.Subset.trans (by decide) hp
    | (with_reducible apply onRow_only) | with_reducible intro _ | (dsimp only) | split
    | (with_reducible refine Only.leaf ?_ ?_)
    | (unfold Same; intro p hq; cases p <;> first | exact absurd (hp (by decide)) hq | dsimp only [Part.same])

theorem execDxpRead_only {parts : List Part} {s0 s : State} (h : Only parts s0 s) (hp : [.out, .drawn, .time, .tt,
      .hold, .links, .fabric, .mem, .poison, .deltas, .train, .rope, .objects, .dict, .ring, .faults, .msix, .host,
      .supply, .boot] ⊆ parts) (m : DxpMsg) :
    OnlyO parts s0 (execDxpRead m s) := by
  unfold execDxpRead
  repeat' first
    | with_reducible assumption | with_reducible exact List.Subset.trans (by decide) hp
    | (with_reducible apply onRow_only) | with_reducible intro _ | (dsimp only) | split
    | (with_reducible refine Only.leaf ?_ ?_)
    | (unfold Same; intro p hq; cases p <;> first | exact absurd (hp (by decide)) hq | dsimp only [Part.same])

theorem execHallTimeRead_only {parts : List Part} {s0 s : State} (h : Only parts s0 s) (hp : [.out, .drawn, .time,
      .tt, .hold, .links, .fabric, .mem, .poison, .deltas, .train, .rope, .objects, .dict, .ring, .faults, .msix,
      .host, .supply, .boot] ⊆ parts) (m : DxpMsg) :
    OnlyO parts s0 (execHallTimeRead m s) := by
  unfold execHallTimeRead
  repeat' first
    | with_reducible assumption | with_reducible exact List.Subset.trans (by decide) hp
    | (with_reducible apply onRow_only) | with_reducible intro _ | (dsimp only) | split
    | (with_reducible refine Only.leaf ?_ ?_)
    | (unfold Same; intro p hq; cases p <;> first | exact absurd (hp (by decide)) hq | dsimp only [Part.same])

theorem execDxpWrite_only {parts : List Part} {s0 s : State} (h : Only parts s0 s) (hp : [.out, .drawn, .time, .tt,
      .hold, .links, .fabric, .mem, .poison, .deltas, .train, .rope, .objects, .dict, .ring, .faults, .msix, .host,
      .supply, .boot] ⊆ parts) (m : DxpMsg) :
    OnlyO parts s0 (execDxpWrite m s) := by
  unfold execDxpWrite
  repeat' first
    | with_reducible assumption | with_reducible exact List.Subset.trans (by decide) hp
    | (with_reducible apply onRow_only) | with_reducible intro _ | (dsimp only) | split
    | (with_reducible refine Only.leaf ?_ ?_)
    | (unfold Same; intro p hq; cases p <;> first | exact absurd (hp (by decide)) hq | dsimp only [Part.same])

theorem execReadBlob_only {parts : List Part} {s0 s : State} (h : Only parts s0 s) (hp : [.out, .drawn, .time, .tt,
      .hold, .links, .fabric, .mem, .poison, .deltas, .train, .rope, .objects, .dict, .ring, .faults, .msix, .host,
      .supply, .boot] ⊆ parts) (m : DxpMsg) :
    OnlyO parts s0 (execReadBlob m s) := by
  unfold execReadBlob
  repeat' first
    | with_reducible assumption | with_reducible exact List.Subset.trans (by decide) hp
    | (with_reducible apply onRow_only) | with_reducible intro _ | (dsimp only) | split
    | (with_reducible refine Only.leaf ?_ ?_)
    | (unfold Same; intro p hq; cases p <;> first | exact absurd (hp (by decide)) hq | dsimp only [Part.same])

theorem execWriteBlob_only {parts : List Part} {s0 s : State} (h : Only parts s0 s) (hp : [.out, .drawn, .time, .tt,
      .hold, .links, .fabric, .mem, .poison, .deltas, .train, .rope, .objects, .dict, .ring, .faults, .msix, .host,
      .supply, .boot] ⊆ parts) (m : DxpMsg) :
    OnlyO parts s0 (execWriteBlob m s) := by
  unfold execWriteBlob
  repeat' first
    | with_reducible assumption | with_reducible exact List.Subset.trans (by decide) hp
    | (with_reducible apply onRow_only) | with_reducible intro _ | (dsimp only) | split
    | (with_reducible refine Only.leaf ?_ ?_)
    | (unfold Same; intro p hq; cases p <;> first | exact absurd (hp (by decide)) hq | dsimp only [Part.same])

theorem execDescribe_only {parts : List Part} {s0 s : State} (h : Only parts s0 s) (hp : [.out, .drawn, .time, .tt,
      .hold, .links, .fabric, .mem, .poison, .deltas, .train, .rope, .objects, .dict, .ring, .faults, .msix, .host,
      .supply, .boot] ⊆ parts) (m : DxpMsg) :
    OnlyO parts s0 (execDescribe m s) := by
  unfold execDescribe
  repeat' first
    | with_reducible assumption | with_reducible exact List.Subset.trans (by decide) hp
    | (with_reducible apply onRow_only) | with_reducible intro _ | (dsimp only) | split
    | (with_reducible refine Only.leaf ?_ ?_)
    | (unfold Same; intro p hq; cases p <;> first | exact absurd (hp (by decide)) hq | dsimp only [Part.same])

theorem execDxpList_only {parts : List Part} {s0 s : State} (h : Only parts s0 s) (hp : [.out, .drawn, .time, .tt,
      .hold, .links, .fabric, .mem, .poison, .deltas, .train, .rope, .objects, .dict, .ring, .faults, .msix, .host,
      .supply, .boot] ⊆ parts) (m : DxpMsg) :
    OnlyO parts s0 (execDxpList m s) := by
  unfold execDxpList
  repeat' first
    | with_reducible assumption | with_reducible exact List.Subset.trans (by decide) hp
    | (with_reducible apply onRow_only) | with_reducible intro _ | (dsimp only) | split
    | (with_reducible refine Only.leaf ?_ ?_)
    | (unfold Same; intro p hq; cases p <;> first | exact absurd (hp (by decide)) hq | dsimp only [Part.same])

theorem execSubscribe_only {parts : List Part} {s0 s : State} (h : Only parts s0 s) (hp : [.out, .drawn, .time, .tt,
      .hold, .links, .fabric, .mem, .poison, .deltas, .train, .rope, .objects, .dict, .ring, .faults, .msix, .host,
      .supply, .boot] ⊆ parts) (m : DxpMsg) :
    OnlyO parts s0 (execSubscribe m s) := by
  unfold execSubscribe
  repeat' first
    | with_reducible assumption | with_reducible exact List.Subset.trans (by decide) hp
    | (with_reducible apply onRow_only) | with_reducible intro _ | (dsimp only) | split
    | (with_reducible refine Only.leaf ?_ ?_)
    | (unfold Same; intro p hq; cases p <;> first | exact absurd (hp (by decide)) hq | dsimp only [Part.same])

theorem execGroupKey_only {parts : List Part} {s0 s : State} (h : Only parts s0 s) (hp : [.out, .drawn, .time, .tt,
      .hold, .links, .fabric, .mem, .poison, .deltas, .train, .rope, .objects, .dict, .ring, .faults, .msix, .host,
      .supply, .boot] ⊆ parts) (m : DxpMsg) :
    OnlyO parts s0 (execGroupKey m s) := by
  unfold execGroupKey
  repeat' first
    | with_reducible assumption | with_reducible exact List.Subset.trans (by decide) hp
    | (with_reducible apply onRow_only) | with_reducible intro _ | (dsimp only) | split
    | (with_reducible refine Only.leaf ?_ ?_)
    | (unfold Same; intro p hq; cases p <;> first | exact absurd (hp (by decide)) hq | dsimp only [Part.same])

theorem execDxpClose_only {parts : List Part} {s0 s : State} (h : Only parts s0 s) (hp : [.out, .drawn, .time, .tt,
      .hold, .links, .fabric, .mem, .poison, .deltas, .train, .rope, .objects, .dict, .ring, .faults, .msix, .host,
      .supply, .boot] ⊆ parts) (m : DxpMsg) :
    OnlyO parts s0 (execDxpClose m s) := by
  unfold execDxpClose
  repeat' first
    | with_reducible assumption | with_reducible exact List.Subset.trans (by decide) hp
    | (with_reducible apply onRow_only) | with_reducible intro _ | (dsimp only) | split
    | (with_reducible refine Only.leaf ?_ ?_)
    | (unfold Same; intro p hq; cases p <;> first | exact absurd (hp (by decide)) hq | dsimp only [Part.same])

theorem execBankCheck_only {parts : List Part} {s0 s : State} (h : Only parts s0 s) (hp : [.out, .drawn, .time, .tt,
      .hold, .links, .fabric, .mem, .poison, .deltas, .train, .rope, .objects, .dict, .ring, .faults, .msix, .host,
      .supply, .boot] ⊆ parts) (m : DxpMsg) :
    OnlyO parts s0 (execBankCheck m s) := by
  unfold execBankCheck
  repeat' first
    | with_reducible assumption | with_reducible exact List.Subset.trans (by decide) hp
    | (with_reducible apply onRow_only) | with_reducible intro _ | (dsimp only) | split
    | (with_reducible refine Only.leaf ?_ ?_)
    | (unfold Same; intro p hq; cases p <;> first | exact absurd (hp (by decide)) hq | dsimp only [Part.same])

theorem execSwitchBankArm_only {parts : List Part} {s0 s : State} (h : Only parts s0 s) (hp : [.out, .drawn, .time,
      .tt, .hold, .links, .fabric, .mem, .poison, .deltas, .train, .rope, .objects, .dict, .ring, .faults, .msix,
      .host, .supply, .boot] ⊆ parts) (m : DxpMsg) :
    OnlyO parts s0 (execSwitchBankArm m s) := by
  unfold execSwitchBankArm
  repeat' first
    | with_reducible assumption | with_reducible exact List.Subset.trans (by decide) hp
    | (with_reducible apply onRow_only) | with_reducible intro _ | (dsimp only) | split
    | (with_reducible refine Only.leaf ?_ ?_)
    | (unfold Same; intro p hq; cases p <;> first | exact absurd (hp (by decide)) hq | dsimp only [Part.same])

theorem execSwitchBankDisarm_only {parts : List Part} {s0 s : State} (h : Only parts s0 s) (hp : [.out, .drawn,
      .time, .tt, .hold, .links, .fabric, .mem, .poison, .deltas, .train, .rope, .objects, .dict, .ring, .faults,
      .msix, .host, .supply, .boot] ⊆ parts) (m : DxpMsg) :
    OnlyO parts s0 (execSwitchBankDisarm m s) := by
  unfold execSwitchBankDisarm
  repeat' first
    | with_reducible assumption | with_reducible exact List.Subset.trans (by decide) hp
    | (with_reducible apply onRow_only) | with_reducible intro _ | (dsimp only) | split
    | (with_reducible refine Only.leaf ?_ ?_)
    | (unfold Same; intro p hq; cases p <;> first | exact absurd (hp (by decide)) hq | dsimp only [Part.same])

theorem execHoldRequest_only {parts : List Part} {s0 s : State} (h : Only parts s0 s) (hp : [.out, .drawn, .time,
      .tt, .hold, .links, .fabric, .mem, .poison, .deltas, .train, .rope, .objects, .dict, .ring, .faults, .msix,
      .host, .supply, .boot] ⊆ parts) (m : DxpMsg) :
    OnlyO parts s0 (execHoldRequest m s) := by
  unfold execHoldRequest
  repeat' first
    | with_reducible assumption | with_reducible exact List.Subset.trans (by decide) hp
    | (with_reducible apply onRow_only) | with_reducible intro _ | (dsimp only) | split
    | (with_reducible refine Only.leaf ?_ ?_)
    | (unfold Same; intro p hq; cases p <;> first | exact absurd (hp (by decide)) hq | dsimp only [Part.same])

theorem execRestore_only {parts : List Part} {s0 s : State} (h : Only parts s0 s) (hp : [.out, .drawn, .time, .tt,
      .hold, .links, .fabric, .mem, .poison, .deltas, .train, .rope, .objects, .dict, .ring, .faults, .msix, .host,
      .supply, .boot] ⊆ parts) (m : DxpMsg) :
    OnlyO parts s0 (execRestore m s) := by
  unfold execRestore
  repeat' first
    | with_reducible assumption | with_reducible exact List.Subset.trans (by decide) hp
    | (with_reducible apply onRow_only) | with_reducible intro _ | (dsimp only) | split
    | (with_reducible refine Only.leaf ?_ ?_)
    | (unfold Same; intro p hq; cases p <;> first | exact absurd (hp (by decide)) hq | dsimp only [Part.same])

theorem execFreshStart_only {parts : List Part} {s0 s : State} (h : Only parts s0 s) (hp : [.out, .drawn, .time, .tt,
      .hold, .links, .fabric, .mem, .poison, .deltas, .train, .rope, .objects, .dict, .ring, .faults, .msix, .host,
      .supply, .boot] ⊆ parts) (m : DxpMsg) :
    OnlyO parts s0 (execFreshStart m s) := by
  unfold execFreshStart
  repeat' first
    | with_reducible assumption | with_reducible exact List.Subset.trans (by decide) hp
    | (with_reducible apply onRow_only) | with_reducible intro _ | (dsimp only) | split
    | (with_reducible refine Only.leaf ?_ ?_)
    | (unfold Same; intro p hq; cases p <;> first | exact absurd (hp (by decide)) hq | dsimp only [Part.same])

theorem execBelayRequest_only {parts : List Part} {s0 s : State} (h : Only parts s0 s) (hp : [.out, .drawn, .time,
      .tt, .hold, .links, .fabric, .mem, .poison, .deltas, .train, .rope, .objects, .dict, .ring, .faults, .msix,
      .host, .supply, .boot] ⊆ parts) (m : DxpMsg) :
    OnlyO parts s0 (execBelayRequest m s) := by
  unfold execBelayRequest
  repeat' first
    | with_reducible assumption | with_reducible exact List.Subset.trans (by decide) hp
    | (with_reducible apply onRow_only) | with_reducible intro _ | (dsimp only) | split
    | (with_reducible refine Only.leaf ?_ ?_)
    | (unfold Same; intro p hq; cases p <;> first | exact absurd (hp (by decide)) hq | dsimp only [Part.same])

theorem execLsInitWrite_only {parts : List Part} {s0 s : State} (h : Only parts s0 s) (hp : [.out, .drawn, .time,
      .tt, .hold, .links, .fabric, .mem, .poison, .deltas, .train, .rope, .objects, .dict, .ring, .faults, .msix,
      .host, .supply, .boot] ⊆ parts) (m : DxpMsg) :
    OnlyO parts s0 (execLsInitWrite m s) := by
  unfold execLsInitWrite
  repeat' first
    | with_reducible assumption | with_reducible exact List.Subset.trans (by decide) hp
    | (with_reducible apply onRow_only) | with_reducible intro _ | (dsimp only) | split
    | (with_reducible refine Only.leaf ?_ ?_)
    | (unfold Same; intro p hq; cases p <;> first | exact absurd (hp (by decide)) hq | dsimp only [Part.same])

theorem execRegroupRequest_only {parts : List Part} {s0 s : State} (h : Only parts s0 s) (hp : [.out, .drawn, .time,
      .tt, .hold, .links, .fabric, .mem, .poison, .deltas, .train, .rope, .objects, .dict, .ring, .faults, .msix,
      .host, .supply, .boot] ⊆ parts) (m : DxpMsg) :
    OnlyO parts s0 (execRegroupRequest m s) := by
  unfold execRegroupRequest
  repeat' first
    | with_reducible assumption | with_reducible exact List.Subset.trans (by decide) hp
    | (with_reducible apply onRow_only) | with_reducible intro _ | (dsimp only) | split
    | (with_reducible refine Only.leaf ?_ ?_)
    | (unfold Same; intro p hq; cases p <;> first | exact absurd (hp (by decide)) hq | dsimp only [Part.same])

theorem execDrawTargetWrite_only {parts : List Part} {s0 s : State} (h : Only parts s0 s) (hp : [.out, .drawn, .time,
      .tt, .hold, .links, .fabric, .mem, .poison, .deltas, .train, .rope, .objects, .dict, .ring, .faults, .msix,
      .host, .supply, .boot] ⊆ parts) (m : DxpMsg) :
    OnlyO parts s0 (execDrawTargetWrite m s) := by
  unfold execDrawTargetWrite
  repeat' first
    | with_reducible assumption | with_reducible exact List.Subset.trans (by decide) hp
    | (with_reducible apply onRow_only) | with_reducible intro _ | (dsimp only) | split
    | (with_reducible refine Only.leaf ?_ ?_)
    | (unfold Same; intro p hq; cases p <;> first | exact absurd (hp (by decide)) hq | dsimp only [Part.same])

theorem execCampImageWrite_only {parts : List Part} {s0 s : State} (h : Only parts s0 s) (hp : [.out, .drawn, .time,
      .tt, .hold, .links, .fabric, .mem, .poison, .deltas, .train, .rope, .objects, .dict, .ring, .faults, .msix,
      .host, .supply, .boot] ⊆ parts) (m : DxpMsg) :
    OnlyO parts s0 (execCampImageWrite m s) := by
  unfold execCampImageWrite
  repeat' first
    | with_reducible assumption | with_reducible exact List.Subset.trans (by decide) hp
    | (with_reducible apply onRow_only) | with_reducible intro _ | (dsimp only) | split
    | (with_reducible refine Only.leaf ?_ ?_)
    | (unfold Same; intro p hq; cases p <;> first | exact absurd (hp (by decide)) hq | dsimp only [Part.same])

theorem execSwitchSlotArm_only {parts : List Part} {s0 s : State} (h : Only parts s0 s) (hp : [.out, .drawn, .time,
      .tt, .hold, .links, .fabric, .mem, .poison, .deltas, .train, .rope, .objects, .dict, .ring, .faults, .msix,
      .host, .supply, .boot] ⊆ parts) (m : DxpMsg) :
    OnlyO parts s0 (execSwitchSlotArm m s) := by
  unfold execSwitchSlotArm
  repeat' first
    | with_reducible assumption | with_reducible exact List.Subset.trans (by decide) hp
    | (with_reducible apply onRow_only) | with_reducible intro _ | (dsimp only) | split
    | (with_reducible refine Only.leaf ?_ ?_)
    | (unfold Same; intro p hq; cases p <;> first | exact absurd (hp (by decide)) hq | dsimp only [Part.same])

theorem execSwitchSlotDisarm_only {parts : List Part} {s0 s : State} (h : Only parts s0 s) (hp : [.out, .drawn,
      .time, .tt, .hold, .links, .fabric, .mem, .poison, .deltas, .train, .rope, .objects, .dict, .ring, .faults,
      .msix, .host, .supply, .boot] ⊆ parts) (m : DxpMsg) :
    OnlyO parts s0 (execSwitchSlotDisarm m s) := by
  unfold execSwitchSlotDisarm
  repeat' first
    | with_reducible assumption | with_reducible exact List.Subset.trans (by decide) hp
    | (with_reducible apply onRow_only) | with_reducible intro _ | (dsimp only) | split
    | (with_reducible refine Only.leaf ?_ ?_)
    | (unfold Same; intro p hq; cases p <;> first | exact absurd (hp (by decide)) hq | dsimp only [Part.same])

theorem execAttestNonce_only {parts : List Part} {s0 s : State} (h : Only parts s0 s) (hp : [.out, .drawn, .time,
      .tt, .hold, .links, .fabric, .mem, .poison, .deltas, .train, .rope, .objects, .dict, .ring, .faults, .msix,
      .host, .supply, .boot] ⊆ parts) (m : DxpMsg) :
    OnlyO parts s0 (execAttestNonce m s) := by
  unfold execAttestNonce
  repeat' first
    | with_reducible assumption | with_reducible exact List.Subset.trans (by decide) hp
    | (with_reducible apply onRow_only) | with_reducible intro _ | (dsimp only) | split
    | (with_reducible refine Only.leaf ?_ ?_)
    | (unfold Same; intro p hq; cases p <;> first | exact absurd (hp (by decide)) hq | dsimp only [Part.same])

theorem execFwStagingWrite_only {parts : List Part} {s0 s : State} (h : Only parts s0 s) (hp : [.out, .drawn, .time,
      .tt, .hold, .links, .fabric, .mem, .poison, .deltas, .train, .rope, .objects, .dict, .ring, .faults, .msix,
      .host, .supply, .boot] ⊆ parts) (m : DxpMsg) :
    OnlyO parts s0 (execFwStagingWrite m s) := by
  unfold execFwStagingWrite
  repeat' first
    | with_reducible assumption | with_reducible exact List.Subset.trans (by decide) hp
    | (with_reducible apply onRow_only) | with_reducible intro _ | (dsimp only) | split
    | (with_reducible refine Only.leaf ?_ ?_)
    | (unfold Same; intro p hq; cases p <;> first | exact absurd (hp (by decide)) hq | dsimp only [Part.same])

theorem execFwInstallFirstStage_only {parts : List Part} {s0 s : State} (h : Only parts s0 s) (hp : [.out, .drawn,
      .time, .tt, .hold, .links, .fabric, .mem, .poison, .deltas, .train, .rope, .objects, .dict, .ring, .faults,
      .msix, .host, .supply, .boot] ⊆ parts) (m : DxpMsg) :
    OnlyO parts s0 (execFwInstallFirstStage m s) := by
  unfold execFwInstallFirstStage
  repeat' first
    | with_reducible assumption | with_reducible exact List.Subset.trans (by decide) hp
    | (with_reducible apply onRow_only) | with_reducible intro _ | (dsimp only) | split
    | (with_reducible refine Only.leaf ?_ ?_)
    | (unfold Same; intro p hq; cases p <;> first | exact absurd (hp (by decide)) hq | dsimp only [Part.same])

theorem execFwInstallBundle_only {parts : List Part} {s0 s : State} (h : Only parts s0 s) (hp : [.out, .drawn, .time,
      .tt, .hold, .links, .fabric, .mem, .poison, .deltas, .train, .rope, .objects, .dict, .ring, .faults, .msix,
      .host, .supply, .boot] ⊆ parts) (m : DxpMsg) :
    OnlyO parts s0 (execFwInstallBundle m s) := by
  unfold execFwInstallBundle
  repeat' first
    | with_reducible assumption | with_reducible exact List.Subset.trans (by decide) hp
    | (with_reducible apply onRow_only) | with_reducible intro _ | (dsimp only) | split
    | (with_reducible refine Only.leaf ?_ ?_)
    | (unfold Same; intro p hq; cases p <;> first | exact absurd (hp (by decide)) hq | dsimp only [Part.same])

theorem execWarmResetRequest_only {parts : List Part} {s0 s : State} (h : Only parts s0 s) (hp : [.out, .drawn,
      .time, .tt, .hold, .links, .fabric, .mem, .poison, .deltas, .train, .rope, .objects, .dict, .ring, .faults,
      .msix, .host, .supply, .boot] ⊆ parts) (m : DxpMsg) :
    OnlyO parts s0 (execWarmResetRequest m s) := by
  unfold execWarmResetRequest
  repeat' first
    | with_reducible assumption | with_reducible exact List.Subset.trans (by decide) hp
    | (with_reducible apply onRow_only) | with_reducible intro _ | (dsimp only) | split
    | (with_reducible refine Only.leaf ?_ ?_)
    | (unfold Same; intro p hq; cases p <;> first | exact absurd (hp (by decide)) hq | dsimp only [Part.same])

theorem execColdResetRequest_only {parts : List Part} {s0 s : State} (h : Only parts s0 s) (hp : [.out, .drawn,
      .time, .tt, .hold, .links, .fabric, .mem, .poison, .deltas, .train, .rope, .objects, .dict, .ring, .faults,
      .msix, .host, .supply, .boot] ⊆ parts) (m : DxpMsg) :
    OnlyO parts s0 (execColdResetRequest m s) := by
  unfold execColdResetRequest
  repeat' first
    | with_reducible assumption | with_reducible exact List.Subset.trans (by decide) hp
    | (with_reducible apply onRow_only) | with_reducible intro _ | (dsimp only) | split
    | (with_reducible refine Only.leaf ?_ ?_)
    | (unfold Same; intro p hq; cases p <;> first | exact absurd (hp (by decide)) hq | dsimp only [Part.same])

theorem execSvnCommit_only {parts : List Part} {s0 s : State} (h : Only parts s0 s) (hp : [.out, .drawn, .time, .tt,
      .hold, .links, .fabric, .mem, .poison, .deltas, .train, .rope, .objects, .dict, .ring, .faults, .msix, .host,
      .supply, .boot] ⊆ parts) (m : DxpMsg) :
    OnlyO parts s0 (execSvnCommit m s) := by
  unfold execSvnCommit
  repeat' first
    | with_reducible assumption | with_reducible exact List.Subset.trans (by decide) hp
    | (with_reducible apply onRow_only) | with_reducible intro _ | (dsimp only) | split
    | (with_reducible refine Only.leaf ?_ ?_)
    | (unfold Same; intro p hq; cases p <;> first | exact absurd (hp (by decide)) hq | dsimp only [Part.same])

theorem execOperatorKeyWrite_only {parts : List Part} {s0 s : State} (h : Only parts s0 s) (hp : [.out, .drawn,
      .time, .tt, .hold, .links, .fabric, .mem, .poison, .deltas, .train, .rope, .objects, .dict, .ring, .faults,
      .msix, .host, .supply, .boot] ⊆ parts) (m : DxpMsg) :
    OnlyO parts s0 (execOperatorKeyWrite m s) := by
  unfold execOperatorKeyWrite
  repeat' first
    | with_reducible assumption | with_reducible exact List.Subset.trans (by decide) hp
    | (with_reducible apply onRow_only) | with_reducible intro _ | (dsimp only) | split
    | (with_reducible refine Only.leaf ?_ ?_)
    | (unfold Same; intro p hq; cases p <;> first | exact absurd (hp (by decide)) hq | dsimp only [Part.same])

theorem execMboxDoorbell_only {parts : List Part} {s0 s : State} (h : Only parts s0 s) (hp : [.out, .drawn, .time,
      .tt, .hold, .links, .fabric, .mem, .poison, .deltas, .train, .rope, .objects, .dict, .ring, .faults, .msix,
      .host, .supply, .boot] ⊆ parts) (msg : List Byte) (value : BitVec 32) :
    OnlyO parts s0 (execMboxDoorbell msg value s) := by
  unfold execMboxDoorbell
  repeat' first
    | with_reducible assumption | with_reducible exact List.Subset.trans (by decide) hp
    | (with_reducible apply act_only) | with_reducible intro _ | (with_reducible apply Only.ite)
    | (with_reducible refine State.setHost_only' ?_ (List.Subset.trans (by decide) hp) _ (fun _ => rfl))
    | (with_reducible refine State.setHost_only'' ?_ (List.Subset.trans (by decide) hp) _ (fun _ => rfl))
    | (with_reducible apply State.setHost_only) | (with_reducible apply State.arrive_only) | (dsimp only) | split
    | (with_reducible refine Only.leaf ?_ ?_)
    | (unfold Same; intro p hq; cases p <;> first | exact absurd (hp (by decide)) hq | dsimp only [Part.same])

theorem State.receiveDxp_only {parts : List Part} {s0 s : State} (h : Only parts s0 s) (hp : [.out, .drawn, .time,
      .tt, .hold, .links, .fabric, .mem, .poison, .deltas, .train, .rope, .objects, .dict, .ring, .faults, .msix,
      .host, .supply, .boot] ⊆ parts) (f : RopeFrame) :
    Only parts s0 (State.receiveDxp s f) := by
  unfold State.receiveDxp
  repeat' first
    | with_reducible assumption | with_reducible exact List.Subset.trans (by decide) hp | with_reducible intro _
    | (with_reducible apply Only.ite) | (with_reducible apply State.receiveFrame_only)
    | (with_reducible apply State.arrive_only) | (with_reducible apply OnlyOpt.none)
    | (with_reducible apply OnlyOpt.some) | (with_reducible apply OnlyOpt.ite) | (dsimp only) | split
    | (with_reducible refine Only.leaf ?_ ?_)
    | (unfold Same; intro p hq; cases p <;> first | exact absurd (hp (by decide)) hq | dsimp only [Part.same])

theorem execDxpFrame_only {parts : List Part} {s0 s : State} (h : Only parts s0 s) (hp : [.out, .drawn, .time, .tt,
      .hold, .links, .fabric, .mem, .poison, .deltas, .train, .rope, .objects, .dict, .ring, .faults, .msix, .host,
      .supply, .boot] ⊆ parts) (f : RopeFrame) :
    OnlyO parts s0 (execDxpFrame f s) := by
  unfold execDxpFrame
  repeat' first
    | with_reducible assumption | with_reducible exact List.Subset.trans (by decide) hp
    | (with_reducible apply act_only) | with_reducible intro _ | (with_reducible apply State.atGateway_only)
    | (with_reducible apply State.receiveDxp_only) | (dsimp only) | split | (with_reducible refine Only.leaf ?_ ?_)
    | (unfold Same; intro p hq; cases p <;> first | exact absurd (hp (by decide)) hq | dsimp only [Part.same])

theorem State.receiveRope_only {parts : List Part} {s0 s : State} (h : Only parts s0 s) (hp : [.out, .drawn, .time,
      .tt, .hold, .links, .fabric, .mem, .poison, .movers, .deltas, .train, .rope, .objects, .dict, .ring, .faults,
      .msix, .host, .supply, .boot] ⊆ parts) (f : RopeFrame) :
    Only parts s0 (State.receiveRope s f) := by
  unfold State.receiveRope
  repeat' first
    | with_reducible assumption | with_reducible exact List.Subset.trans (by decide) hp | with_reducible intro _
    | (with_reducible apply State.takeAccept_only) | (with_reducible apply State.receiveRekey_only)
    | (with_reducible apply State.receiveRekeyAck_only) | (with_reducible apply State.receiveProbe_only)
    | (with_reducible apply State.receiveSack_only) | (with_reducible apply State.receiveDelta_only)
    | (with_reducible apply State.receiveInfo_only) | (with_reducible apply State.receiveRegroup_only)
    | (with_reducible apply State.receiveOpen_only) | (with_reducible apply State.receiveBelay_only)
    | (with_reducible apply State.receiveDxp_only) | (dsimp only) | split | (with_reducible refine Only.leaf ?_ ?_)
    | (unfold Same; intro p hq; cases p <;> first | exact absurd (hp (by decide)) hq | dsimp only [Part.same])

theorem execRopeFrame_only {parts : List Part} {s0 s : State} (h : Only parts s0 s) (hp : [.out, .drawn, .time, .tt,
      .hold, .links, .fabric, .mem, .poison, .movers, .deltas, .train, .rope, .objects, .dict, .ring, .faults, .msix,
      .host, .supply, .boot] ⊆ parts) (p : Packet) :
    OnlyO parts s0 (execRopeFrame p s) := by
  unfold execRopeFrame
  repeat' first
    | with_reducible assumption | with_reducible exact List.Subset.trans (by decide) hp
    | (with_reducible apply act_only) | with_reducible intro _ | (with_reducible apply Only.ite)
    | (with_reducible apply State.portSend_only) | (with_reducible apply State.atGateway_only)
    | (with_reducible apply State.receiveRope_only) | (dsimp only) | split
    | (with_reducible refine Only.leaf ?_ ?_)
    | (unfold Same; intro p hq; cases p <;> first | exact absurd (hp (by decide)) hq | dsimp only [Part.same])

end Sys2Proof.Machine
end

