-- ==== Sys2Proof/Laws/OnlyBoot.lean ====
section
/-!
SUPPORT. What the operations of Machine/Boot.lean can change (Laws/Only.lean).
-/

namespace Sys2Proof.Machine

theorem State.stageEnds_only {parts : List Part} {s0 s : State} (h : Only parts s0 s) (hp : [.objects, .ring, .boot]
      ⊆ parts) (stage reported : Nat) :
    Only parts s0 (State.stageEnds s stage reported) := by
  unfold State.stageEnds
  repeat' first
    | with_reducible assumption | with_reducible exact List.Subset.trans (by decide) hp | with_reducible intro _
    | (with_reducible refine State.setBoot_only' ?_ (List.Subset.trans (by decide) hp) _ (fun _ => rfl))
    | (with_reducible refine State.setBoot_only'' ?_ (List.Subset.trans (by decide) hp) _ (fun _ => rfl))
    | (with_reducible apply State.setObj_only) | (with_reducible apply State.log_only)
    | (with_reducible apply State.setBoot_only) | (dsimp only) | split | (with_reducible refine Only.leaf ?_ ?_)
    | (unfold Same; intro p hq; cases p <;> first | exact absurd (hp (by decide)) hq | dsimp only [Part.same])

theorem State.bootFails_only {parts : List Part} {s0 s : State} (h : Only parts s0 s) (hp : [.alert, .boot] ⊆ parts) 
      :
    Only parts s0 (State.bootFails s) := by
  unfold State.bootFails
  repeat' first
    | with_reducible assumption | with_reducible exact List.Subset.trans (by decide) hp | with_reducible intro _
    | (with_reducible refine State.setBoot_only' ?_ (List.Subset.trans (by decide) hp) _ (fun _ => rfl))
    | (with_reducible refine State.setBoot_only'' ?_ (List.Subset.trans (by decide) hp) _ (fun _ => rfl))
    | (with_reducible apply State.alerting_only) | (with_reducible apply State.setBoot_only) | (dsimp only) | split
    | (with_reducible refine Only.leaf ?_ ?_)
    | (unfold Same; intro p hq; cases p <;> first | exact absurd (hp (by decide)) hq | dsimp only [Part.same])

theorem State.verifySlot_only {parts : List Part} {s0 s : State} (h : Only parts s0 s) (hp : [.objects, .ring] ⊆
      parts) (bundle : Bool) (slot : Nat) :
    Only parts s0 (State.verifySlot s bundle slot).2 := by
  unfold State.verifySlot
  repeat' first
    | with_reducible assumption | with_reducible exact List.Subset.trans (by decide) hp | with_reducible intro _
    | (with_reducible apply Only.ite) | (with_reducible apply Only.ite2) | (with_reducible apply State.log_only)
    | (dsimp only) | split | (with_reducible refine Only.leaf ?_ ?_)
    | (unfold Same; intro p hq; cases p <;> first | exact absurd (hp (by decide)) hq | dsimp only [Part.same])

theorem State.runFirstStage_only {parts : List Part} {s0 s : State} (h : Only parts s0 s) (hp : [.boot] ⊆ parts)
      (slot : Nat) :
    Only parts s0 (State.runFirstStage s slot) := by
  unfold State.runFirstStage
  repeat' first
    | with_reducible assumption | with_reducible exact List.Subset.trans (by decide) hp | with_reducible intro _
    | (with_reducible refine State.setBoot_only' ?_ (List.Subset.trans (by decide) hp) _ (fun _ => rfl))
    | (with_reducible refine State.setBoot_only'' ?_ (List.Subset.trans (by decide) hp) _ (fun _ => rfl))
    | (with_reducible apply State.setBoot_only) | (with_reducible apply State.extendImage_only) | (dsimp only)
    | split | (with_reducible refine Only.leaf ?_ ?_)
    | (unfold Same; intro p hq; cases p <;> first | exact absurd (hp (by decide)) hq | dsimp only [Part.same])

theorem State.otherFirstStage_only {parts : List Part} {s0 s : State} (h : Only parts s0 s) (hp : [.objects, .ring,
      .alert, .boot] ⊆ parts) (slot : Nat) :
    Only parts s0 (State.otherFirstStage s slot) := by
  unfold State.otherFirstStage
  repeat' first
    | with_reducible assumption | with_reducible exact List.Subset.trans (by decide) hp | with_reducible intro _
    | (with_reducible apply State.log_only) | (with_reducible apply State.bootFails_only)
    | (with_reducible apply State.verifySlot_only) | (with_reducible apply State.runFirstStage_only)
    | (with_reducible refine Only.snd ?_ (by assumption)) | (dsimp only) | split
    | (with_reducible refine Only.leaf ?_ ?_)
    | (unfold Same; intro p hq; cases p <;> first | exact absurd (hp (by decide)) hq | dsimp only [Part.same])

theorem execRomBootStage_only {parts : List Part} {s0 s : State} (h : Only parts s0 s) (hp : [.objects, .ring,
      .alert, .boot] ⊆ parts)  :
    OnlyO parts s0 (execRomBootStage s) := by
  unfold execRomBootStage
  repeat' first
    | with_reducible assumption | with_reducible exact List.Subset.trans (by decide) hp
    | (with_reducible apply act_only) | with_reducible intro _ | (with_reducible apply Only.ite)
    | (with_reducible refine State.setBoot_only' ?_ (List.Subset.trans (by decide) hp) _ (fun _ => rfl))
    | (with_reducible refine State.setBoot_only'' ?_ (List.Subset.trans (by decide) hp) _ (fun _ => rfl))
    | (with_reducible apply State.on_only) | (with_reducible apply State.setBoot_only)
    | (with_reducible apply State.stageEnds_only) | (with_reducible apply State.verifySlot_only)
    | (with_reducible apply State.runFirstStage_only) | (with_reducible apply State.otherFirstStage_only)
    | (with_reducible refine Only.snd ?_ (by assumption)) | (dsimp only) | split
    | (with_reducible refine Only.leaf ?_ ?_)
    | (unfold Same; intro p hq; cases p <;> first | exact absurd (hp (by decide)) hq | dsimp only [Part.same])

theorem State.loadBundle_only {parts : List Part} {s0 s : State} (h : Only parts s0 s) (hp : [.objects, .ring,
      .alert, .boot] ⊆ parts) (slot : Nat) :
    Only parts s0 (State.loadBundle s slot) := by
  unfold State.loadBundle
  repeat' first
    | with_reducible assumption | with_reducible exact List.Subset.trans (by decide) hp | with_reducible intro _
    | (with_reducible refine State.setBoot_only' ?_ (List.Subset.trans (by decide) hp) _ (fun _ => rfl))
    | (with_reducible refine State.setBoot_only'' ?_ (List.Subset.trans (by decide) hp) _ (fun _ => rfl))
    | (with_reducible apply State.setBoot_only) | (with_reducible apply State.clearMeasure_only)
    | (with_reducible apply State.extendImage_only) | (with_reducible apply State.bootFails_only)
    | (with_reducible apply State.verifySlot_only) | (with_reducible refine Only.snd ?_ (by assumption))
    | (dsimp only) | split | (with_reducible refine Only.leaf ?_ ?_)
    | (unfold Same; intro p hq; cases p <;> first | exact absurd (hp (by decide)) hq | dsimp only [Part.same])

theorem State.measure_only {parts : List Part} {s0 s : State} (h : Only parts s0 s) (hp : [.boot] ⊆ parts) (r item :
      Nat) (bs : List Byte) :
    Only parts s0 (State.measure s r item bs) := by
  unfold State.measure
  repeat' first
    | with_reducible assumption | with_reducible exact List.Subset.trans (by decide) hp | with_reducible intro _
    | (with_reducible apply State.extend_only) | (dsimp only) | split | (with_reducible refine Only.leaf ?_ ?_)
    | (unfold Same; intro p hq; cases p <;> first | exact absurd (hp (by decide)) hq | dsimp only [Part.same])

theorem State.latchModes_only {parts : List Part} {s0 s : State} (h : Only parts s0 s) (hp : [.mem, .poison, .memctl]
      ⊆ parts)  :
    Only parts s0 (State.latchModes s) := by
  unfold State.latchModes
  repeat' first
    | with_reducible assumption | with_reducible exact List.Subset.trans (by decide) hp | with_reducible intro _
    | (with_reducible apply Only.ite) | (with_reducible apply State.writeBytes_only)
    | (with_reducible apply State.each_only) | (with_reducible apply State.setMem_only) | (dsimp only) | split
    | (with_reducible refine Only.leaf ?_ ?_)
    | (unfold Same; intro p hq; cases p <;> first | exact absurd (hp (by decide)) hq | dsimp only [Part.same])

theorem State.loadShadow_only {parts : List Part} {s0 s : State} (h : Only parts s0 s) (hp : [.time, .mem, .poison,
      .objects, .dict, .ring, .memctl, .boot] ⊆ parts)  :
    Only parts s0 (State.loadShadow s) := by
  unfold State.loadShadow
  repeat' first
    | with_reducible assumption | with_reducible exact List.Subset.trans (by decide) hp | with_reducible intro _
    | (with_reducible apply State.on_only) | (with_reducible apply State.setObj_only)
    | (with_reducible apply State.setTime_only) | (with_reducible apply State.startRoot_only)
    | (with_reducible apply State.loadCamp_only) | (with_reducible apply State.clearMeasure_only)
    | (with_reducible apply State.measure_only) | (with_reducible apply State.latchModes_only) | (dsimp only)
    | split | (with_reducible refine Only.leaf ?_ ?_)
    | (unfold Same; intro p hq; cases p <;> first | exact absurd (hp (by decide)) hq | dsimp only [Part.same])

theorem execFirstBootStage_only {parts : List Part} {s0 s : State} (h : Only parts s0 s) (hp : [.out, .time, .hold,
      .links, .mem, .poison, .ctxs, .objects, .dict, .ring, .msix, .memctl, .alert, .boot] ⊆ parts) (failed : List
      PseudoChan) :
    OnlyO parts s0 (execFirstBootStage failed s) := by
  unfold execFirstBootStage
  repeat' first
    | with_reducible assumption | with_reducible exact List.Subset.trans (by decide) hp
    | (with_reducible apply act_only) | with_reducible intro _ | (with_reducible apply Only.ite)
    | (with_reducible refine State.setBoot_only' ?_ (List.Subset.trans (by decide) hp) _ (fun _ => rfl))
    | (with_reducible refine State.setBoot_only'' ?_ (List.Subset.trans (by decide) hp) _ (fun _ => rfl))
    | (with_reducible apply State.on_only) | (with_reducible apply State.log_only)
    | (with_reducible apply State.each_only) | (with_reducible apply State.trainStack_only)
    | (with_reducible apply State.setBoot_only) | (with_reducible apply State.stageEnds_only)
    | (with_reducible apply State.bootFails_only) | (with_reducible apply State.loadBundle_only)
    | (with_reducible apply State.loadShadow_only) | (dsimp only) | split | (with_reducible refine Only.leaf ?_ ?_)
    | (unfold Same; intro p hq; cases p <;> first | exact absurd (hp (by decide)) hq | dsimp only [Part.same])

theorem execLinksAndTimeStage_only {parts : List Part} {s0 s : State} (h : Only parts s0 s) (hp : [.objects, .ring,
      .boot] ⊆ parts)  :
    OnlyO parts s0 (execLinksAndTimeStage s) := by
  unfold execLinksAndTimeStage
  repeat' first
    | with_reducible assumption | with_reducible exact List.Subset.trans (by decide) hp
    | (with_reducible apply act_only) | with_reducible intro _ | (with_reducible apply Only.ite)
    | (with_reducible apply State.stageEnds_only) | (dsimp only) | split | (with_reducible refine Only.leaf ?_ ?_)
    | (unfold Same; intro p hq; cases p <;> first | exact absurd (hp (by decide)) hq | dsimp only [Part.same])

theorem State.applyRetirements_only {parts : List Part} {s0 s : State} (h : Only parts s0 s) (hp : [.spans, .memctl]
      ⊆ parts)  :
    Only parts s0 (State.applyRetirements s) := by
  unfold State.applyRetirements
  repeat' first
    | with_reducible assumption | with_reducible exact List.Subset.trans (by decide) hp | with_reducible intro _
    | (with_reducible apply Only.ite) | (with_reducible apply State.each_only)
    | (with_reducible apply State.setMem_only) | (with_reducible apply State.setPc_only)
    | (with_reducible apply Only.foldl) | (with_reducible apply Only.foldl1) | (with_reducible apply Only.foldl2)
    | (dsimp only) | split | (with_reducible refine Only.leaf ?_ ?_)
    | (unfold Same; intro p hq; cases p <;> first | exact absurd (hp (by decide)) hq | dsimp only [Part.same])

theorem State.becomeReady_only {parts : List Part} {s0 s : State} (h : Only parts s0 s) (hp : [.objects, .alert,
      .boot] ⊆ parts)  :
    Only parts s0 (State.becomeReady s) := by
  unfold State.becomeReady
  repeat' first
    | with_reducible assumption | with_reducible exact List.Subset.trans (by decide) hp | with_reducible intro _
    | (with_reducible refine State.setBoot_only' ?_ (List.Subset.trans (by decide) hp) _ (fun _ => rfl))
    | (with_reducible refine State.setBoot_only'' ?_ (List.Subset.trans (by decide) hp) _ (fun _ => rfl))
    | (with_reducible apply State.on_only) | (with_reducible apply State.setObj_only)
    | (with_reducible apply State.alerting_only) | (with_reducible apply State.setBoot_only) | (dsimp only) | split
    | (with_reducible refine Only.leaf ?_ ?_)
    | (unfold Same; intro p hq; cases p <;> first | exact absurd (hp (by decide)) hq | dsimp only [Part.same])

theorem execMemoryBootStage_only {parts : List Part} {s0 s : State} (h : Only parts s0 s) (hp : [.out, .hold, .links,
      .ctxs, .spans, .objects, .ring, .msix, .memctl, .alert, .boot] ⊆ parts) (failed : List PseudoChan) :
    OnlyO parts s0 (execMemoryBootStage failed s) := by
  unfold execMemoryBootStage
  repeat' first
    | with_reducible assumption | with_reducible exact List.Subset.trans (by decide) hp
    | (with_reducible apply act_only) | with_reducible intro _ | (with_reducible apply Only.ite)
    | (with_reducible apply State.on_only) | (with_reducible apply State.each_only)
    | (with_reducible apply State.outOfService_only) | (with_reducible apply State.trainStack_only)
    | (with_reducible apply State.clearMeasure_only) | (with_reducible apply State.stageEnds_only)
    | (with_reducible apply State.measure_only) | (with_reducible apply State.applyRetirements_only)
    | (with_reducible apply State.becomeReady_only) | (dsimp only) | split
    | (with_reducible refine Only.leaf ?_ ?_)
    | (unfold Same; intro p hq; cases p <;> first | exact absurd (hp (by decide)) hq | dsimp only [Part.same])

theorem execFirstStageTimeout_only {parts : List Part} {s0 s : State} (h : Only parts s0 s) (hp : [.objects, .ring,
      .alert, .boot] ⊆ parts)  :
    OnlyO parts s0 (execFirstStageTimeout s) := by
  unfold execFirstStageTimeout
  repeat' first
    | with_reducible assumption | with_reducible exact List.Subset.trans (by decide) hp
    | (with_reducible apply act_only) | with_reducible intro _ | (with_reducible apply Only.ite)
    | (with_reducible refine State.setBoot_only' ?_ (List.Subset.trans (by decide) hp) _ (fun _ => rfl))
    | (with_reducible refine State.setBoot_only'' ?_ (List.Subset.trans (by decide) hp) _ (fun _ => rfl))
    | (with_reducible apply State.setBoot_only) | (with_reducible apply State.bootFails_only)
    | (with_reducible apply State.otherFirstStage_only) | (dsimp only) | split
    | (with_reducible refine Only.leaf ?_ ?_)
    | (unfold Same; intro p hq; cases p <;> first | exact absurd (hp (by decide)) hq | dsimp only [Part.same])

theorem execTrialBundleTimeout_only {parts : List Part} {s0 s : State} (h : Only parts s0 s) (hp : [.boot] ⊆ parts)  :
    OnlyO parts s0 (execTrialBundleTimeout s) := by
  unfold execTrialBundleTimeout
  repeat' first
    | with_reducible assumption | with_reducible exact List.Subset.trans (by decide) hp
    | (with_reducible apply act_only) | with_reducible intro _ | (with_reducible apply Only.ite)
    | (with_reducible refine State.setBoot_only' ?_ (List.Subset.trans (by decide) hp) _ (fun _ => rfl))
    | (with_reducible refine State.setBoot_only'' ?_ (List.Subset.trans (by decide) hp) _ (fun _ => rfl))
    | (with_reducible apply State.setBoot_only) | (dsimp only) | split | (with_reducible refine Only.leaf ?_ ?_)
    | (unfold Same; intro p hq; cases p <;> first | exact absurd (hp (by decide)) hq | dsimp only [Part.same])

theorem execPerstDeassert_only {parts : List Part} {s0 s : State} (h : Only parts s0 s) (hp : [.host] ⊆ parts)  :
    OnlyO parts s0 (execPerstDeassert s) := by
  unfold execPerstDeassert
  repeat' first
    | with_reducible assumption | with_reducible exact List.Subset.trans (by decide) hp
    | (with_reducible apply act_only) | with_reducible intro _
    | (with_reducible refine State.setHost_only' ?_ (List.Subset.trans (by decide) hp) _ (fun _ => rfl))
    | (with_reducible refine State.setHost_only'' ?_ (List.Subset.trans (by decide) hp) _ (fun _ => rfl))
    | (with_reducible apply State.setHost_only) | (dsimp only) | split | (with_reducible refine Only.leaf ?_ ?_)
    | (unfold Same; intro p hq; cases p <;> first | exact absurd (hp (by decide)) hq | dsimp only [Part.same])

theorem State.linksDown_only {parts : List Part} {s0 s : State} (h : Only parts s0 s) (hp : [.links, .objects] ⊆
      parts)  :
    Only parts s0 (State.linksDown s) := by
  unfold State.linksDown
  repeat' first
    | with_reducible assumption | with_reducible exact List.Subset.trans (by decide) hp | with_reducible intro _
    | (with_reducible apply Only.ite) | (with_reducible apply State.setObj_only)
    | (with_reducible apply State.each_only) | (dsimp only) | split | (with_reducible refine Only.leaf ?_ ?_)
    | (unfold Same; intro p hq; cases p <;> first | exact absurd (hp (by decide)) hq | dsimp only [Part.same])

theorem State.warmReset_only {parts : List Part} {s0 s : State} (h : Only parts s0 s) (hp : [.out, .tt, .hold,
      .links, .fabric, .mem, .poison, .stores, .maps, .imem, .accs, .cores, .ctxs, .sems, .movers, .posts, .dies,
      .mailboxes, .deltas, .regions, .invals, .watch, .train, .rope, .objects, .dict, .ring, .faults, .job, .msix,
      .host, .supply, .memctl, .alert, .boot] ⊆ parts)  :
    Only parts s0 (State.warmReset s) := by
  unfold State.warmReset
  repeat' first
    | with_reducible assumption | with_reducible exact List.Subset.trans (by decide) hp | with_reducible intro _
    | (with_reducible refine State.setBoot_only' ?_ (List.Subset.trans (by decide) hp) _ (fun _ => rfl))
    | (with_reducible refine State.setBoot_only'' ?_ (List.Subset.trans (by decide) hp) _ (fun _ => rfl))
    | (with_reducible apply State.on_only) | (with_reducible apply State.each_only)
    | (with_reducible apply State.releaseHolds_only) | (with_reducible apply State.flushBreaks_only)
    | (with_reducible apply State.disarmBankSwitch_only) | (with_reducible apply State.endSweep_only)
    | (with_reducible apply State.disarmCamp_only) | (with_reducible apply State.clearCores_only)
    | (with_reducible apply State.setBoot_only) | (with_reducible apply State.clearMeasure_only)
    | (with_reducible apply State.linksDown_only) | (dsimp only) | split | (with_reducible refine Only.leaf ?_ ?_)
    | (unfold Same; intro p hq; cases p <;> first | exact absurd (hp (by decide)) hq | dsimp only [Part.same])

theorem execModuleWarmReset_only {parts : List Part} {s0 s : State} (h : Only parts s0 s) (hp : [.out, .tt, .hold,
      .links, .fabric, .mem, .poison, .stores, .maps, .imem, .accs, .cores, .ctxs, .sems, .movers, .posts, .dies,
      .mailboxes, .deltas, .regions, .invals, .watch, .train, .rope, .objects, .dict, .ring, .faults, .job, .msix,
      .host, .supply, .memctl, .alert, .boot] ⊆ parts)  :
    OnlyO parts s0 (execModuleWarmReset s) := by
  unfold execModuleWarmReset
  repeat' first
    | with_reducible assumption | with_reducible exact List.Subset.trans (by decide) hp
    | (with_reducible apply act_only) | with_reducible intro _ | (with_reducible apply Only.ite)
    | (with_reducible apply State.alerting_only) | (with_reducible apply State.warmReset_only) | (dsimp only)
    | split | (with_reducible refine Only.leaf ?_ ?_)
    | (unfold Same; intro p hq; cases p <;> first | exact absurd (hp (by decide)) hq | dsimp only [Part.same])

theorem State.coldReset_only {parts : List Part} {s0 s : State} (h : Only parts s0 s) (hp : [.out, .hall, .down,
      .time, .tt, .hold, .links, .fabric, .mem, .poison, .stores, .maps, .imem, .accs, .cores, .ctxs, .sems, .movers,
      .posts, .dies, .mailboxes, .deltas, .regions, .spans, .invals, .watch, .train, .rope, .objects, .dict, .ring,
      .faults, .job, .msix, .host, .supply, .memctl, .alert, .boot] ⊆ parts)  :
    Only parts s0 (State.coldReset s) := by
  unfold State.coldReset
  repeat' first
    | with_reducible assumption | with_reducible exact List.Subset.trans (by decide) hp | with_reducible intro _
    | (with_reducible apply State.setObj_only) | (with_reducible apply State.releaseHolds_only)
    | (with_reducible apply State.flushBreaks_only) | (with_reducible apply State.streamAll_only)
    | (with_reducible apply State.flashOnly_only) | (with_reducible apply State.disarmCamp_only) | (dsimp only)
    | split | (with_reducible refine Only.leaf ?_ ?_)
    | (unfold Same; intro p hq; cases p <;> first | exact absurd (hp (by decide)) hq | dsimp only [Part.same])

theorem execModuleColdReset_only {parts : List Part} {s0 s : State} (h : Only parts s0 s) (hp : [.out, .hall, .down,
      .time, .tt, .hold, .links, .fabric, .mem, .poison, .stores, .maps, .imem, .accs, .cores, .ctxs, .sems, .movers,
      .posts, .dies, .mailboxes, .deltas, .regions, .spans, .invals, .watch, .train, .rope, .objects, .dict, .ring,
      .faults, .job, .msix, .host, .supply, .memctl, .alert, .boot] ⊆ parts)  :
    OnlyO parts s0 (execModuleColdReset s) := by
  unfold execModuleColdReset
  repeat' first
    | with_reducible assumption | with_reducible exact List.Subset.trans (by decide) hp
    | (with_reducible apply act_only) | with_reducible intro _ | (with_reducible apply Only.ite)
    | (with_reducible apply State.coldReset_only) | (dsimp only) | split | (with_reducible refine Only.leaf ?_ ?_)
    | (unfold Same; intro p hq; cases p <;> first | exact absurd (hp (by decide)) hq | dsimp only [Part.same])

theorem State.loseStores_only {parts : List Part} {s0 s : State} (h : Only parts s0 s) (hp : [.drawn, .stores, .maps,
      .imem] ⊆ parts) (d : Nat) :
    Only parts s0 (State.loseStores s d) := by
  unfold State.loseStores
  repeat' first
    | with_reducible assumption | with_reducible exact List.Subset.trans (by decide) hp | with_reducible intro _
    | (with_reducible apply State.draw_only) | (with_reducible apply Only.foldl)
    | (with_reducible apply Only.foldl1) | (with_reducible apply Only.foldl2)
    | (with_reducible refine Only.snd ?_ (by assumption)) | (dsimp only) | split
    | (with_reducible refine Only.leaf ?_ ?_)
    | (unfold Same; intro p hq; cases p <;> first | exact absurd (hp (by decide)) hq | dsimp only [Part.same])

theorem State.enginesDown_only {parts : List Part} {s0 s : State} (h : Only parts s0 s) (hp : [.train] ⊆ parts) (d :
      Nat) :
    Only parts s0 (State.enginesDown s d) := by
  unfold State.enginesDown
  repeat' first
    | with_reducible assumption | with_reducible exact List.Subset.trans (by decide) hp | with_reducible intro _
    | (with_reducible apply State.each_only) | (with_reducible apply State.setEngineSt_only) | (dsimp only) | split
    | (with_reducible refine Only.leaf ?_ ?_)
    | (unfold Same; intro p hq; cases p <;> first | exact absurd (hp (by decide)) hq | dsimp only [Part.same])

theorem State.dieReset_only {parts : List Part} {s0 s : State} (h : Only parts s0 s) (hp : [.out, .drawn, .hold,
      .links, .fabric, .mem, .poison, .stores, .maps, .imem, .accs, .cores, .ctxs, .sems, .movers, .dies, .train,
      .objects, .ring, .faults, .msix, .alert] ⊆ parts) (d cause : Nat) :
    Only parts s0 (State.dieReset s d cause) := by
  unfold State.dieReset
  repeat' first
    | with_reducible assumption | with_reducible exact List.Subset.trans (by decide) hp | with_reducible intro _
    | (with_reducible refine State.setFaults_only' ?_ (List.Subset.trans (by decide) hp) _ (fun _ => rfl))
    | (with_reducible apply State.log_only) | (with_reducible apply State.setCore_only)
    | (with_reducible apply State.setDie_only) | (with_reducible apply State.each_only)
    | (with_reducible apply State.releaseHolds_only) | (with_reducible apply State.moverReset_only)
    | (with_reducible apply State.coreReset_only) | (with_reducible apply State.setFaults_only)
    | (with_reducible apply State.loseStores_only) | (with_reducible apply State.enginesDown_only) | (dsimp only)
    | split | (with_reducible refine Only.leaf ?_ ?_)
    | (unfold Same; intro p hq; cases p <;> first | exact absurd (hp (by decide)) hq | dsimp only [Part.same])

theorem execDieControllerFault_only {parts : List Part} {s0 s : State} (h : Only parts s0 s) (hp : [.out, .drawn,
      .hold, .links, .fabric, .mem, .poison, .stores, .maps, .imem, .accs, .cores, .ctxs, .sems, .movers, .dies,
      .train, .objects, .ring, .faults, .msix, .alert] ⊆ parts) (die : Die) :
    OnlyO parts s0 (execDieControllerFault die s) := by
  unfold execDieControllerFault
  repeat' first
    | with_reducible assumption | with_reducible exact List.Subset.trans (by decide) hp
    | (with_reducible apply act_only) | with_reducible intro _ | (with_reducible apply Only.ite)
    | (with_reducible apply State.faultCount_only) | (with_reducible apply State.jobFail_only)
    | (with_reducible apply State.countedReset_only) | (with_reducible apply State.dieReset_only) | (dsimp only)
    | split | (with_reducible refine Only.leaf ?_ ?_)
    | (unfold Same; intro p hq; cases p <;> first | exact absurd (hp (by decide)) hq | dsimp only [Part.same])

theorem execDieResetComplete_only {parts : List Part} {s0 s : State} (h : Only parts s0 s) (hp : [.out, .hold,
      .links, .fabric, .mem, .poison, .ctxs, .sems, .movers, .deltas, .train, .rope, .objects, .ring, .faults, .msix,
      .alert] ⊆ parts) (die : Fin 6) (ok : Bool) :
    OnlyO parts s0 (execDieResetComplete die ok s) := by
  unfold execDieResetComplete
  repeat' first
    | with_reducible assumption | with_reducible exact List.Subset.trans (by decide) hp
    | (with_reducible apply act_only) | with_reducible intro _ | (with_reducible apply Only.ite)
    | (with_reducible refine State.setFaults_only' ?_ (List.Subset.trans (by decide) hp) _ (fun _ => rfl))
    | (with_reducible apply State.on_only) | (with_reducible apply State.each_only)
    | (with_reducible apply State.outOfService_only) | (with_reducible apply State.setFaults_only)
    | (with_reducible apply State.setEngineSt_only) | (with_reducible apply State.resumeSweeps_only) | (dsimp only)
    | split | (with_reducible refine Only.leaf ?_ ?_)
    | (unfold Same; intro p hq; cases p <;> first | exact absurd (hp (by decide)) hq | dsimp only [Part.same])

theorem State.firmwareLost_only {parts : List Part} {s0 s : State} (h : Only parts s0 s) (hp : [.train, .objects,
      .dict, .ring, .faults, .host, .boot] ⊆ parts)  :
    Only parts s0 (State.firmwareLost s) := by
  unfold State.firmwareLost
  repeat' first
    | with_reducible assumption | with_reducible exact List.Subset.trans (by decide) hp | with_reducible intro _
    | (with_reducible refine State.setDict_only' ?_ (List.Subset.trans (by decide) hp) _ (fun _ => rfl))
    | (with_reducible refine State.setDict_only'' ?_ (List.Subset.trans (by decide) hp) _ (fun _ => rfl))
    | (with_reducible refine State.setHost_only' ?_ (List.Subset.trans (by decide) hp) _ (fun _ => rfl))
    | (with_reducible refine State.setHost_only'' ?_ (List.Subset.trans (by decide) hp) _ (fun _ => rfl))
    | (with_reducible refine State.setBoot_only' ?_ (List.Subset.trans (by decide) hp) _ (fun _ => rfl))
    | (with_reducible refine State.setBoot_only'' ?_ (List.Subset.trans (by decide) hp) _ (fun _ => rfl))
    | (with_reducible apply State.each_only) | (with_reducible apply State.setTrain_only)
    | (with_reducible apply State.setDict_only) | (with_reducible apply State.setHost_only)
    | (with_reducible apply State.closeSession_only) | (with_reducible apply State.disarmCamp_only)
    | (with_reducible apply State.setBoot_only) | (dsimp only) | split | (with_reducible refine Only.leaf ?_ ?_)
    | (unfold Same; intro p hq; cases p <;> first | exact absurd (hp (by decide)) hq | dsimp only [Part.same])

theorem State.holdForever_only {parts : List Part} {s0 s : State} (h : Only parts s0 s) (hp : [.hold, .links] ⊆
      parts) (cause : Nat) :
    Only parts s0 (State.holdForever s cause) := by
  unfold State.holdForever
  repeat' first
    | with_reducible assumption | with_reducible exact List.Subset.trans (by decide) hp | with_reducible intro _
    | (with_reducible apply State.setHold_only) | (with_reducible apply State.originateHold_only)
    | (with_reducible refine Only.snd ?_ (by assumption)) | (dsimp only) | split
    | (with_reducible refine Only.leaf ?_ ?_)
    | (unfold Same; intro p hq; cases p <;> first | exact absurd (hp (by decide)) hq | dsimp only [Part.same])

theorem execWatchdogExpire_only {parts : List Part} {s0 s : State} (h : Only parts s0 s) (hp : [.out, .hold, .links,
      .fabric, .ctxs, .sems, .movers, .train, .objects, .dict, .ring, .faults, .msix, .host, .alert, .boot] ⊆ parts)
      (die : HDie) :
    OnlyO parts s0 (execWatchdogExpire die s) := by
  unfold execWatchdogExpire
  repeat' first
    | with_reducible assumption | with_reducible exact List.Subset.trans (by decide) hp
    | (with_reducible apply act_only) | with_reducible intro _ | (with_reducible apply Only.ite)
    | (with_reducible refine State.setFaults_only' ?_ (List.Subset.trans (by decide) hp) _ (fun _ => rfl))
    | (with_reducible apply State.on_only) | (with_reducible apply State.count_only)
    | (with_reducible apply State.log_only) | (with_reducible apply State.faultCount_only)
    | (with_reducible apply State.jobFail_only) | (with_reducible apply State.countedReset_only)
    | (with_reducible apply State.releaseHolds_only) | (with_reducible apply State.setFaults_only)
    | (with_reducible apply State.firmwareLost_only) | (with_reducible apply State.holdForever_only) | (dsimp only)
    | split | (with_reducible refine Only.leaf ?_ ?_)
    | (unfold Same; intro p hq; cases p <;> first | exact absurd (hp (by decide)) hq | dsimp only [Part.same])

theorem execMpRestartComplete_only {parts : List Part} {s0 s : State} (h : Only parts s0 s) (hp : [.faults, .host] ⊆
      parts) (die : HDie) :
    OnlyO parts s0 (execMpRestartComplete die s) := by
  unfold execMpRestartComplete
  repeat' first
    | with_reducible assumption | with_reducible exact List.Subset.trans (by decide) hp
    | (with_reducible apply act_only) | with_reducible intro _ | (with_reducible apply Only.ite)
    | (with_reducible refine State.setFaults_only' ?_ (List.Subset.trans (by decide) hp) _ (fun _ => rfl))
    | (with_reducible refine State.setHost_only' ?_ (List.Subset.trans (by decide) hp) _ (fun _ => rfl))
    | (with_reducible refine State.setHost_only'' ?_ (List.Subset.trans (by decide) hp) _ (fun _ => rfl))
    | (with_reducible apply State.on_only) | (with_reducible apply State.setFaults_only)
    | (with_reducible apply State.setHost_only) | (dsimp only) | split | (with_reducible refine Only.leaf ?_ ?_)
    | (unfold Same; intro p hq; cases p <;> first | exact absurd (hp (by decide)) hq | dsimp only [Part.same])

end Sys2Proof.Machine
end

