-- ==== Sys2Proof/Laws/OnlySmbus.lean ====
section
/-!
SUPPORT. What the operations of Machine/Smbus.lean can change (Laws/Only.lean).
-/

namespace Sys2Proof.Machine

theorem State.smbusAnswer_only {parts : List Part} {s0 s : State} (h : Only parts s0 s) (hp : [.out] ⊆ parts) (data :
      List Byte) :
    Only parts s0 (State.smbusAnswer s data) := by
  unfold State.smbusAnswer
  repeat' first
    | with_reducible assumption | with_reducible exact List.Subset.trans (by decide) hp | with_reducible intro _
    | (with_reducible apply State.emit_only) | (with_reducible apply State.on_only) | (dsimp only) | split
    | (with_reducible refine Only.leaf ?_ ?_)
    | (unfold Same; intro p hq; cases p <;> first | exact absurd (hp (by decide)) hq | dsimp only [Part.same])

theorem execReadVin_only {parts : List Part} {s0 s : State} (h : Only parts s0 s) (hp : [.out] ⊆ parts)  :
    OnlyO parts s0 (execReadVin s) := by
  unfold execReadVin
  repeat' first
    | with_reducible assumption | with_reducible exact List.Subset.trans (by decide) hp
    | (with_reducible apply act_only) | with_reducible intro _ | (with_reducible apply State.smbusAnswer_only)
    | (dsimp only) | split | (with_reducible refine Only.leaf ?_ ?_)
    | (unfold Same; intro p hq; cases p <;> first | exact absurd (hp (by decide)) hq | dsimp only [Part.same])

theorem execReadIin_only {parts : List Part} {s0 s : State} (h : Only parts s0 s) (hp : [.out] ⊆ parts)  :
    OnlyO parts s0 (execReadIin s) := by
  unfold execReadIin
  repeat' first
    | with_reducible assumption | with_reducible exact List.Subset.trans (by decide) hp
    | (with_reducible apply act_only) | with_reducible intro _ | (with_reducible apply State.smbusAnswer_only)
    | (dsimp only) | split | (with_reducible refine Only.leaf ?_ ?_)
    | (unfold Same; intro p hq; cases p <;> first | exact absurd (hp (by decide)) hq | dsimp only [Part.same])

theorem execReadTemperature1_only {parts : List Part} {s0 s : State} (h : Only parts s0 s) (hp : [.out] ⊆ parts)  :
    OnlyO parts s0 (execReadTemperature1 s) := by
  unfold execReadTemperature1
  repeat' first
    | with_reducible assumption | with_reducible exact List.Subset.trans (by decide) hp
    | (with_reducible apply act_only) | with_reducible intro _ | (with_reducible apply State.smbusAnswer_only)
    | (dsimp only) | split | (with_reducible refine Only.leaf ?_ ?_)
    | (unfold Same; intro p hq; cases p <;> first | exact absurd (hp (by decide)) hq | dsimp only [Part.same])

theorem execReadTemperature2_only {parts : List Part} {s0 s : State} (h : Only parts s0 s) (hp : [.out] ⊆ parts)  :
    OnlyO parts s0 (execReadTemperature2 s) := by
  unfold execReadTemperature2
  repeat' first
    | with_reducible assumption | with_reducible exact List.Subset.trans (by decide) hp
    | (with_reducible apply act_only) | with_reducible intro _ | (with_reducible apply State.smbusAnswer_only)
    | (dsimp only) | split | (with_reducible refine Only.leaf ?_ ?_)
    | (unfold Same; intro p hq; cases p <;> first | exact absurd (hp (by decide)) hq | dsimp only [Part.same])

theorem execReadTemperature3_only {parts : List Part} {s0 s : State} (h : Only parts s0 s) (hp : [.out] ⊆ parts)  :
    OnlyO parts s0 (execReadTemperature3 s) := by
  unfold execReadTemperature3
  repeat' first
    | with_reducible assumption | with_reducible exact List.Subset.trans (by decide) hp
    | (with_reducible apply act_only) | with_reducible intro _ | (with_reducible apply State.smbusAnswer_only)
    | (dsimp only) | split | (with_reducible refine Only.leaf ?_ ?_)
    | (unfold Same; intro p hq; cases p <;> first | exact absurd (hp (by decide)) hq | dsimp only [Part.same])

theorem execReadPin_only {parts : List Part} {s0 s : State} (h : Only parts s0 s) (hp : [.out] ⊆ parts)  :
    OnlyO parts s0 (execReadPin s) := by
  unfold execReadPin
  repeat' first
    | with_reducible assumption | with_reducible exact List.Subset.trans (by decide) hp
    | (with_reducible apply act_only) | with_reducible intro _ | (with_reducible apply State.smbusAnswer_only)
    | (dsimp only) | split | (with_reducible refine Only.leaf ?_ ?_)
    | (unfold Same; intro p hq; cases p <;> first | exact absurd (hp (by decide)) hq | dsimp only [Part.same])

theorem execPmbusRevision_only {parts : List Part} {s0 s : State} (h : Only parts s0 s) (hp : [.out] ⊆ parts)  :
    OnlyO parts s0 (execPmbusRevision s) := by
  unfold execPmbusRevision
  repeat' first
    | with_reducible assumption | with_reducible exact List.Subset.trans (by decide) hp
    | (with_reducible apply act_only) | with_reducible intro _ | (with_reducible apply State.smbusAnswer_only)
    | (dsimp only) | split | (with_reducible refine Only.leaf ?_ ?_)
    | (unfold Same; intro p hq; cases p <;> first | exact absurd (hp (by decide)) hq | dsimp only [Part.same])

theorem execMfrStatus_only {parts : List Part} {s0 s : State} (h : Only parts s0 s) (hp : [.out] ⊆ parts)  :
    OnlyO parts s0 (execMfrStatus s) := by
  unfold execMfrStatus
  repeat' first
    | with_reducible assumption | with_reducible exact List.Subset.trans (by decide) hp
    | (with_reducible apply act_only) | with_reducible intro _ | (with_reducible apply State.smbusAnswer_only)
    | (dsimp only) | split | (with_reducible refine Only.leaf ?_ ?_)
    | (unfold Same; intro p hq; cases p <;> first | exact absurd (hp (by decide)) hq | dsimp only [Part.same])

theorem execMfrState_only {parts : List Part} {s0 s : State} (h : Only parts s0 s) (hp : [.out] ⊆ parts)  :
    OnlyO parts s0 (execMfrState s) := by
  unfold execMfrState
  repeat' first
    | with_reducible assumption | with_reducible exact List.Subset.trans (by decide) hp
    | (with_reducible apply act_only) | with_reducible intro _ | (with_reducible apply State.smbusAnswer_only)
    | (dsimp only) | split | (with_reducible refine Only.leaf ?_ ?_)
    | (unfold Same; intro p hq; cases p <;> first | exact absurd (hp (by decide)) hq | dsimp only [Part.same])

theorem execMfrCause_only {parts : List Part} {s0 s : State} (h : Only parts s0 s) (hp : [.out] ⊆ parts)  :
    OnlyO parts s0 (execMfrCause s) := by
  unfold execMfrCause
  repeat' first
    | with_reducible assumption | with_reducible exact List.Subset.trans (by decide) hp
    | (with_reducible apply act_only) | with_reducible intro _ | (with_reducible apply State.smbusAnswer_only)
    | (dsimp only) | split | (with_reducible refine Only.leaf ?_ ?_)
    | (unfold Same; intro p hq; cases p <;> first | exact absurd (hp (by decide)) hq | dsimp only [Part.same])

theorem execMfrModule_only {parts : List Part} {s0 s : State} (h : Only parts s0 s) (hp : [.out] ⊆ parts)  :
    OnlyO parts s0 (execMfrModule s) := by
  unfold execMfrModule
  repeat' first
    | with_reducible assumption | with_reducible exact List.Subset.trans (by decide) hp
    | (with_reducible apply act_only) | with_reducible intro _ | (with_reducible apply State.smbusAnswer_only)
    | (dsimp only) | split | (with_reducible refine Only.leaf ?_ ?_)
    | (unfold Same; intro p hq; cases p <;> first | exact absurd (hp (by decide)) hq | dsimp only [Part.same])

theorem execMfrSerial_only {parts : List Part} {s0 s : State} (h : Only parts s0 s) (hp : [.out] ⊆ parts)  :
    OnlyO parts s0 (execMfrSerial s) := by
  unfold execMfrSerial
  repeat' first
    | with_reducible assumption | with_reducible exact List.Subset.trans (by decide) hp
    | (with_reducible apply act_only) | with_reducible intro _ | (with_reducible apply State.smbusAnswer_only)
    | (dsimp only) | split | (with_reducible refine Only.leaf ?_ ?_)
    | (unfold Same; intro p hq; cases p <;> first | exact absurd (hp (by decide)) hq | dsimp only [Part.same])

theorem execMfrEnergy_only {parts : List Part} {s0 s : State} (h : Only parts s0 s) (hp : [.out] ⊆ parts)  :
    OnlyO parts s0 (execMfrEnergy s) := by
  unfold execMfrEnergy
  repeat' first
    | with_reducible assumption | with_reducible exact List.Subset.trans (by decide) hp
    | (with_reducible apply act_only) | with_reducible intro _ | (with_reducible apply State.smbusAnswer_only)
    | (dsimp only) | split | (with_reducible refine Only.leaf ?_ ?_)
    | (unfold Same; intro p hq; cases p <;> first | exact absurd (hp (by decide)) hq | dsimp only [Part.same])

theorem execSmbusInvalid_only {parts : List Part} {s0 s : State} (h : Only parts s0 s) (hp : [.out] ⊆ parts) (code :
      BitVec 8) (write : Bool) :
    OnlyO parts s0 (execSmbusInvalid code write s) := by
  unfold execSmbusInvalid
  repeat' first
    | with_reducible assumption | with_reducible exact List.Subset.trans (by decide) hp
    | (with_reducible apply act_only) | with_reducible intro _ | (with_reducible apply State.emit_only)
    | (with_reducible apply State.on_only) | (dsimp only) | split | (with_reducible refine Only.leaf ?_ ?_)
    | (unfold Same; intro p hq; cases p <;> first | exact absurd (hp (by decide)) hq | dsimp only [Part.same])

theorem execAlertResponse_only {parts : List Part} {s0 s : State} (h : Only parts s0 s) (hp : [.out, .alert] ⊆ parts)
       :
    OnlyO parts s0 (execAlertResponse s) := by
  unfold execAlertResponse
  repeat' first
    | with_reducible assumption | with_reducible exact List.Subset.trans (by decide) hp
    | (with_reducible apply act_only) | with_reducible intro _ | (with_reducible apply Only.ite)
    | (with_reducible refine State.setBoot_only' ?_ (List.Subset.trans (by decide) hp) _ (fun _ => rfl))
    | (with_reducible refine State.setBoot_only'' ?_ (List.Subset.trans (by decide) hp) _ (fun _ => rfl))
    | (with_reducible apply State.emit_only) | (with_reducible apply State.on_only)
    | (with_reducible apply State.setBoot_only) | (with_reducible apply State.smbusAnswer_only) | (dsimp only)
    | split | (with_reducible refine Only.leaf ?_ ?_)
    | (unfold Same; intro p hq; cases p <;> first | exact absurd (hp (by decide)) hq | dsimp only [Part.same])

end Sys2Proof.Machine
end

