-- ==== Sys2Proof/Laws/OnlyHostRing.lean ====
section
/-!
SUPPORT. What the operations of Machine/HostRing.lean can change (Laws/Only.lean).
-/

namespace Sys2Proof.Machine

theorem State.complete_only {parts : List Part} {s0 s : State} (h : Only parts s0 s) (hp : [.out, .objects, .ring,
      .msix, .host] ⊆ parts) (e status : Nat) (words : List Nat) :
    Only parts s0 (State.complete s e status words) := by
  unfold State.complete
  repeat' first
    | with_reducible assumption | with_reducible exact List.Subset.trans (by decide) hp | with_reducible intro _
    | (with_reducible apply Only.ite)
    | (with_reducible refine State.setHost_only' ?_ (List.Subset.trans (by decide) hp) _ (fun _ => rfl))
    | (with_reducible refine State.setHost_only'' ?_ (List.Subset.trans (by decide) hp) _ (fun _ => rfl))
    | (with_reducible apply State.on_only) | (with_reducible apply State.log_only)
    | (with_reducible apply State.interrupt_only) | (with_reducible apply State.setHost_only) | (dsimp only)
    | split | (with_reducible refine Only.leaf ?_ ?_)
    | (unfold Same; intro p hq; cases p <;> first | exact absurd (hp (by decide)) hq | dsimp only [Part.same])

theorem State.done_only {parts : List Part} {s0 s : State} (h : Only parts s0 s)  :
    Only parts s0 (State.done s).2.2 := by
  unfold State.done
  repeat' first
    | with_reducible assumption | with_reducible intro _ | (dsimp only) | split

theorem State.fails_only {parts : List Part} {s0 s : State} (h : Only parts s0 s) (status : Nat) (word : Nat) :
    Only parts s0 (State.fails s status word).2.2 := by
  unfold State.fails
  repeat' first
    | with_reducible assumption | with_reducible intro _ | (dsimp only) | split

theorem State.mpUp_only {parts : List Part} {s0 s : State} (h : Only parts s0 s) (hp : [.faults, .host] ⊆ parts)  :
    Only parts s0 (State.mpUp s) := by
  unfold State.mpUp
  repeat' first
    | with_reducible assumption | with_reducible exact List.Subset.trans (by decide) hp | with_reducible intro _
    | (with_reducible apply Only.ite)
    | (with_reducible refine State.setFaults_only' ?_ (List.Subset.trans (by decide) hp) _ (fun _ => rfl))
    | (with_reducible refine State.setHost_only' ?_ (List.Subset.trans (by decide) hp) _ (fun _ => rfl))
    | (with_reducible refine State.setHost_only'' ?_ (List.Subset.trans (by decide) hp) _ (fun _ => rfl))
    | (with_reducible apply State.setFaults_only) | (with_reducible apply State.setHost_only) | (dsimp only)
    | split | (with_reducible refine Only.leaf ?_ ?_)
    | (unfold Same; intro p hq; cases p <;> first | exact absurd (hp (by decide)) hq | dsimp only [Part.same])

theorem State.takeEntry_only {parts : List Part} {s0 s : State} (h : Only parts s0 s) (hp : [.host] ⊆ parts) (e :
      BitVec 512) :
    Only parts s0 (State.takeEntry s e) := by
  unfold State.takeEntry
  repeat' first
    | with_reducible assumption | with_reducible exact List.Subset.trans (by decide) hp | with_reducible intro _
    | (with_reducible apply Only.ite)
    | (with_reducible refine State.setHost_only' ?_ (List.Subset.trans (by decide) hp) _ (fun _ => rfl))
    | (with_reducible refine State.setHost_only'' ?_ (List.Subset.trans (by decide) hp) _ (fun _ => rfl))
    | (with_reducible apply State.setHost_only) | (dsimp only) | split | (with_reducible refine Only.leaf ?_ ?_)
    | (unfold Same; intro p hq; cases p <;> first | exact absurd (hp (by decide)) hq | dsimp only [Part.same])

theorem hostCommand_only {parts : List Part} {s0 s : State} (h : Only parts s0 s) (hp : [.out, .links, .fabric,
      .rope, .objects, .ring, .faults, .msix, .host] ⊆ parts) (opcode : Nat)
    (e : BitVec 512) (run : Nat → State → Result)
    (hrun : ∀ x0 u, Only parts s0 u → Only parts s0 (run x0 u).2.2) : OnlyO parts s0 (hostCommand opcode e run s) :=
      by
  unfold hostCommand
  refine act_only h _ fun u hu => ?_
  have hu' : Only parts s0 (u.mpUp.takeEntry e) :=
    State.takeEntry_only (State.mpUp_only hu (List.Subset.trans (by decide) hp)) (List.Subset.trans (by decide) hp) _
  refine Only.ite hu (State.streamAll_only (State.complete_only ?_ (List.Subset.trans (by decide) hp) _ _ _)
    (List.Subset.trans (by decide) hp))
  exact Only.ite22 (hrun _ _ hu') hu'

theorem State.fetchArg_only {parts : List Part} {s0 s : State} (h : Only parts s0 s) (hp : [.objects, .ring] ⊆ parts)
      (a n : Nat)
    (f : List Byte → Result) (hf : ∀ bs, Only parts s0 (f bs).2.2) : Only parts s0 (State.fetchArg s a n f).2.2 := by
  unfold State.fetchArg
  refine Only.ite22 (State.fails_only h _ _) (Only.ite22 (State.fails_only (State.readPoison_only h
    (List.Subset.trans (by decide) hp) _ _) _ _) (hf _))

theorem State.bar2Blocked_only {parts : List Part} {s0 s : State} (h : Only parts s0 s) (hp : [.objects, .ring] ⊆
      parts) (a : Nat) :
    Only parts s0 (State.bar2Blocked s a) := by
  unfold State.bar2Blocked
  repeat' first
    | with_reducible assumption | with_reducible exact List.Subset.trans (by decide) hp | with_reducible intro _
    | (with_reducible apply State.count_only) | (with_reducible apply State.log_only) | (dsimp only) | split
    | (with_reducible refine Only.leaf ?_ ?_)
    | (unfold Same; intro p hq; cases p <;> first | exact absurd (hp (by decide)) hq | dsimp only [Part.same])

theorem execBar2Read_only {parts : List Part} {s0 s : State} (h : Only parts s0 s) (hp : [.out, .drawn, .objects,
      .ring] ⊆ parts) (offset : BitVec 41) (len : Nat) :
    OnlyO parts s0 (execBar2Read offset len s) := by
  unfold execBar2Read
  repeat' first
    | with_reducible assumption | with_reducible exact List.Subset.trans (by decide) hp
    | (with_reducible apply act_only) | with_reducible intro _ | (with_reducible apply Only.ite)
    | (with_reducible apply State.draw_only) | (with_reducible apply State.emit_only)
    | (with_reducible apply State.readPoison_only) | (with_reducible apply State.bar2Blocked_only)
    | (with_reducible refine Only.snd ?_ (by assumption)) | (dsimp only) | split
    | (with_reducible refine Only.leaf ?_ ?_)
    | (unfold Same; intro p hq; cases p <;> first | exact absurd (hp (by decide)) hq | dsimp only [Part.same])

theorem execBar2Write_only {parts : List Part} {s0 s : State} (h : Only parts s0 s) (hp : [.mem, .poison, .objects,
      .ring] ⊆ parts) (offset : BitVec 41) (data : List Byte) :
    OnlyO parts s0 (execBar2Write offset data s) := by
  unfold execBar2Write
  repeat' first
    | with_reducible assumption | with_reducible exact List.Subset.trans (by decide) hp
    | (with_reducible apply act_only) | with_reducible intro _ | (with_reducible apply Only.ite)
    | (with_reducible apply State.write_only) | (with_reducible apply State.bar2Blocked_only) | (dsimp only)
    | split | (with_reducible refine Only.leaf ?_ ?_)
    | (unfold Same; intro p hq; cases p <;> first | exact absurd (hp (by decide)) hq | dsimp only [Part.same])

theorem execHostFunctionReset_only {parts : List Part} {s0 s : State} (h : Only parts s0 s) (hp : [.out, .hold,
      .links, .fabric, .ctxs, .sems, .movers, .objects, .dict, .ring, .faults, .msix, .host, .alert, .boot] ⊆ parts) 
      :
    OnlyO parts s0 (execHostFunctionReset s) := by
  unfold execHostFunctionReset
  repeat' first
    | with_reducible assumption | with_reducible exact List.Subset.trans (by decide) hp
    | (with_reducible apply act_only) | with_reducible intro _ | (with_reducible apply Only.ite)
    | (with_reducible refine State.setDict_only' ?_ (List.Subset.trans (by decide) hp) _ (fun _ => rfl))
    | (with_reducible refine State.setDict_only'' ?_ (List.Subset.trans (by decide) hp) _ (fun _ => rfl))
    | (with_reducible refine State.setHost_only' ?_ (List.Subset.trans (by decide) hp) _ (fun _ => rfl))
    | (with_reducible refine State.setHost_only'' ?_ (List.Subset.trans (by decide) hp) _ (fun _ => rfl))
    | (with_reducible apply State.log_only) | (with_reducible apply State.each_only)
    | (with_reducible apply State.releaseHolds_only) | (with_reducible apply State.setDict_only)
    | (with_reducible apply State.setHost_only) | (with_reducible apply State.closeSession_only) | (dsimp only)
    | split | (with_reducible refine Only.leaf ?_ ?_)
    | (unfold Same; intro p hq; cases p <;> first | exact absurd (hp (by decide)) hq | dsimp only [Part.same])

end Sys2Proof.Machine
end

