-- ==== Sys2Proof/Laws/OnlyHostCmds.lean ====
section
/-!
SUPPORT. What the operations of Machine/HostCmds.lean can change (Laws/Only.lean).
-/

namespace Sys2Proof.Machine

theorem State.loadTables_only {parts : List Part} {s0 s : State} (h : Only parts s0 s) (hp : [.tt, .mem, .poison,
      .objects, .dict, .ring] ⊆ parts) (e : Nat) :
    Only parts s0 (State.loadTables s e).2.2 := by
  unfold State.loadTables
  repeat' first
    | with_reducible assumption | with_reducible exact List.Subset.trans (by decide) hp | with_reducible intro _
    | (with_reducible apply Only.ite) | (with_reducible apply Only.ite22)
    | (with_reducible apply State.setObj_only) | (with_reducible apply State.write_only)
    | (with_reducible apply State.each_only) | (with_reducible apply State.setArmed_only)
    | (with_reducible apply State.checkBank_only) | (with_reducible apply State.fails_only)
    | (with_reducible apply State.fetchArg_only) | (with_reducible refine Only.snd ?_ (by assumption))
    | (with_reducible refine Only.fst ?_ (by assumption)) | (dsimp only) | split
    | (with_reducible refine Only.leaf ?_ ?_)
    | (unfold Same; intro p hq; cases p <;> first | exact absurd (hp (by decide)) hq | dsimp only [Part.same])

theorem execTtLoad_only {parts : List Part} {s0 s : State} (h : Only parts s0 s) (hp : [.out, .tt, .links, .fabric,
      .mem, .poison, .rope, .objects, .dict, .ring, .faults, .msix, .host] ⊆ parts) (e : BitVec 512) :
    OnlyO parts s0 (execTtLoad e s) := by
  unfold execTtLoad
  repeat' first
    | with_reducible assumption | with_reducible exact List.Subset.trans (by decide) hp
    | (with_reducible apply hostCommand_only) | with_reducible intro _
    | (with_reducible apply State.loadTables_only) | (with_reducible refine Only.snd ?_ (by assumption))
    | (dsimp only) | split | (with_reducible refine Only.leaf ?_ ?_)
    | (unfold Same; intro p hq; cases p <;> first | exact absurd (hp (by decide)) hq | dsimp only [Part.same])

theorem State.onCore_only {parts : List Part} {s0 s : State} (h : Only parts s0 s) (hp : [.cores, .dies, .supply] ⊆
      parts) (c : Nat) (f : State → Result) (hf : ∀ u, Only parts s0 u → Only parts s0 (f u).2.2) :
    Only parts s0 (State.onCore s c f).2.2 := by
  unfold State.onCore
  repeat' first
    | with_reducible assumption | with_reducible exact List.Subset.trans (by decide) hp | with_reducible intro _
    | (with_reducible apply Only.ite) | (with_reducible apply Only.ite22) | (with_reducible apply hf)
    | (with_reducible apply State.wakeCore_only) | (with_reducible apply State.fails_only)
    | (with_reducible refine Only.snd ?_ (by assumption)) | (dsimp only) | split
    | (with_reducible refine Only.leaf ?_ ?_)
    | (unfold Same; intro p hq; cases p <;> first | exact absurd (hp (by decide)) hq | dsimp only [Part.same])

theorem execImemLoad_only {parts : List Part} {s0 s : State} (h : Only parts s0 s) (hp : [.out, .links, .fabric,
      .imem, .cores, .dies, .rope, .objects, .ring, .faults, .msix, .host, .supply] ⊆ parts) (e : BitVec 512) :
    OnlyO parts s0 (execImemLoad e s) := by
  unfold execImemLoad
  repeat' first
    | with_reducible assumption | with_reducible exact List.Subset.trans (by decide) hp
    | (with_reducible apply hostCommand_only) | with_reducible intro _ | (with_reducible apply Only.ite)
    | (with_reducible apply Only.ite22) | (with_reducible apply State.loadImem_only)
    | (with_reducible apply State.done_only) | (with_reducible apply State.fails_only)
    | (with_reducible apply State.fetchArg_only) | (with_reducible apply State.onCore_only)
    | (with_reducible refine Only.snd ?_ (by assumption)) | (dsimp only) | split
    | (with_reducible refine Only.leaf ?_ ?_)
    | (unfold Same; intro p hq; cases p <;> first | exact absurd (hp (by decide)) hq | dsimp only [Part.same])

theorem execCtxStart_only {parts : List Part} {s0 s : State} (h : Only parts s0 s) (hp : [.out, .links, .fabric,
      .cores, .ctxs, .dies, .rope, .objects, .ring, .faults, .msix, .host, .supply] ⊆ parts) (e : BitVec 512) :
    OnlyO parts s0 (execCtxStart e s) := by
  unfold execCtxStart
  repeat' first
    | with_reducible assumption | with_reducible exact List.Subset.trans (by decide) hp
    | (with_reducible apply hostCommand_only) | with_reducible intro _ | (with_reducible apply Only.ite)
    | (with_reducible apply Only.ite22)
    | (with_reducible refine State.setHost_only' ?_ (List.Subset.trans (by decide) hp) _ (fun _ => rfl))
    | (with_reducible refine State.setHost_only'' ?_ (List.Subset.trans (by decide) hp) _ (fun _ => rfl))
    | (with_reducible apply State.setHost_only) | (with_reducible apply State.startCtx_only)
    | (with_reducible apply State.done_only) | (with_reducible apply State.fails_only)
    | (with_reducible apply State.fetchArg_only) | (with_reducible apply State.onCore_only)
    | (with_reducible refine Only.snd ?_ (by assumption)) | (dsimp only) | split
    | (with_reducible refine Only.leaf ?_ ?_)
    | (unfold Same; intro p hq; cases p <;> first | exact absurd (hp (by decide)) hq | dsimp only [Part.same])

theorem execCtxStop_only {parts : List Part} {s0 s : State} (h : Only parts s0 s) (hp : [.out, .links, .fabric,
      .cores, .ctxs, .dies, .rope, .objects, .ring, .faults, .msix, .host, .supply] ⊆ parts) (e : BitVec 512) :
    OnlyO parts s0 (execCtxStop e s) := by
  unfold execCtxStop
  repeat' first
    | with_reducible assumption | with_reducible exact List.Subset.trans (by decide) hp
    | (with_reducible apply hostCommand_only) | with_reducible intro _
    | (with_reducible apply State.countStalls_only) | (with_reducible apply State.stopCtx_only)
    | (with_reducible apply State.done_only) | (with_reducible apply State.onCore_only)
    | (with_reducible refine Only.snd ?_ (by assumption)) | (dsimp only) | split
    | (with_reducible refine Only.leaf ?_ ?_)
    | (unfold Same; intro p hq; cases p <;> first | exact absurd (hp (by decide)) hq | dsimp only [Part.same])

theorem execCtxRead_only {parts : List Part} {s0 s : State} (h : Only parts s0 s) (hp : [.out, .links, .fabric, .mem,
      .poison, .cores, .dies, .rope, .objects, .ring, .faults, .msix, .host, .supply] ⊆ parts) (e : BitVec 512) :
    OnlyO parts s0 (execCtxRead e s) := by
  unfold execCtxRead
  repeat' first
    | with_reducible assumption | with_reducible exact List.Subset.trans (by decide) hp
    | (with_reducible apply hostCommand_only) | with_reducible intro _ | (with_reducible apply Only.ite)
    | (with_reducible apply Only.ite22) | (with_reducible apply State.write_only)
    | (with_reducible apply State.done_only) | (with_reducible apply State.fails_only)
    | (with_reducible apply State.onCore_only) | (with_reducible refine Only.snd ?_ (by assumption)) | (dsimp only)
    | split | (with_reducible refine Only.leaf ?_ ?_)
    | (unfold Same; intro p hq; cases p <;> first | exact absurd (hp (by decide)) hq | dsimp only [Part.same])

theorem State.onFlow_only {parts : List Part} {s0 s : State} (h : Only parts s0 s) (c : Nat) (f : State → Result) (hf
      : ∀ u, Only parts s0 u → Only parts s0 (f u).2.2) :
    Only parts s0 (State.onFlow s c f).2.2 := by
  unfold State.onFlow
  repeat' first
    | with_reducible assumption | with_reducible intro _ | (with_reducible apply Only.ite)
    | (with_reducible apply Only.ite22) | (with_reducible apply hf) | (with_reducible apply State.fails_only)
    | (with_reducible refine Only.snd ?_ (by assumption)) | (dsimp only) | split

theorem execFlowOpen_only {parts : List Part} {s0 s : State} (h : Only parts s0 s) (hp : [.out, .links, .fabric,
      .movers, .rope, .objects, .ring, .faults, .msix, .host] ⊆ parts) (e : BitVec 512) :
    OnlyO parts s0 (execFlowOpen e s) := by
  unfold execFlowOpen
  repeat' first
    | with_reducible assumption | with_reducible exact List.Subset.trans (by decide) hp
    | (with_reducible apply hostCommand_only) | with_reducible intro _ | (with_reducible apply Only.ite)
    | (with_reducible apply Only.ite22) | (with_reducible apply State.count_only)
    | (with_reducible apply State.setFlow_only) | (with_reducible apply State.useFlow_only)
    | (with_reducible apply State.done_only) | (with_reducible apply State.fails_only)
    | (with_reducible apply State.fetchArg_only) | (with_reducible apply State.onFlow_only)
    | (with_reducible refine Only.snd ?_ (by assumption)) | (dsimp only) | split
    | (with_reducible refine Only.leaf ?_ ?_)
    | (unfold Same; intro p hq; cases p <;> first | exact absurd (hp (by decide)) hq | dsimp only [Part.same])

theorem execFlowClose_only {parts : List Part} {s0 s : State} (h : Only parts s0 s) (hp : [.out, .links, .fabric,
      .movers, .rope, .objects, .ring, .faults, .msix, .host] ⊆ parts) (e : BitVec 512) :
    OnlyO parts s0 (execFlowClose e s) := by
  unfold execFlowClose
  repeat' first
    | with_reducible assumption | with_reducible exact List.Subset.trans (by decide) hp
    | (with_reducible apply hostCommand_only) | with_reducible intro _ | (with_reducible apply State.setFlow_only)
    | (with_reducible apply State.sendBreak_only) | (with_reducible apply State.endFlow_only)
    | (with_reducible apply State.useFlow_only) | (with_reducible apply State.done_only)
    | (with_reducible apply State.onFlow_only) | (with_reducible refine Only.snd ?_ (by assumption)) | (dsimp only)
    | split | (with_reducible refine Only.leaf ?_ ?_)
    | (unfold Same; intro p hq; cases p <;> first | exact absurd (hp (by decide)) hq | dsimp only [Part.same])

theorem execFlowHead_only {parts : List Part} {s0 s : State} (h : Only parts s0 s) (hp : [.out, .links, .fabric,
      .movers, .rope, .objects, .ring, .faults, .msix, .host] ⊆ parts) (e : BitVec 512) :
    OnlyO parts s0 (execFlowHead e s) := by
  unfold execFlowHead
  repeat' first
    | with_reducible assumption | with_reducible exact List.Subset.trans (by decide) hp
    | (with_reducible apply hostCommand_only) | with_reducible intro _ | (with_reducible apply Only.ite)
    | (with_reducible apply Only.ite22) | (with_reducible apply State.setFlow_only)
    | (with_reducible apply State.renewLease_only) | (with_reducible apply State.useFlow_only)
    | (with_reducible apply State.done_only) | (with_reducible apply State.fails_only)
    | (with_reducible apply State.onFlow_only) | (with_reducible refine Only.snd ?_ (by assumption)) | (dsimp only)
    | split | (with_reducible refine Only.leaf ?_ ?_)
    | (unfold Same; intro p hq; cases p <;> first | exact absurd (hp (by decide)) hq | dsimp only [Part.same])

theorem State.writePieces_only {parts : List Part} {s0 s : State} (h : Only parts s0 s) (hp : [.mem, .poison] ⊆
      parts) (y0 : List (Nat × Nat)) (y1 : List Byte) :
    Only parts s0 (State.writePieces s y0 y1) := by
  induction y0 generalizing s y1 with
  | nil => exact h
  | cons y ys ih =>
    unfold State.writePieces
    repeat' first
    | with_reducible assumption | with_reducible exact List.Subset.trans (by decide) hp | with_reducible intro _
    | (with_reducible apply ih) | (with_reducible apply State.write_only) | (dsimp only) | split
    | (with_reducible refine Only.leaf ?_ ?_)
    | (unfold Same; intro p hq; cases p <;> first | exact absurd (hp (by decide)) hq | dsimp only [Part.same])

theorem State.bulkCopy_only {parts : List Part} {s0 s : State} (h : Only parts s0 s) (hp : [.out, .drawn, .mem,
      .poison] ⊆ parts) (e : Nat) (bus : List Byte) (busError : Bool) :
    Only parts s0 (State.bulkCopy s e bus busError).2.2 := by
  unfold State.bulkCopy
  repeat' first
    | with_reducible assumption | with_reducible exact List.Subset.trans (by decide) hp | with_reducible intro _
    | (with_reducible apply Only.ite) | (with_reducible apply Only.ite22) | (with_reducible apply State.draw_only)
    | (with_reducible apply State.emit_only) | (with_reducible apply State.on_only)
    | (with_reducible apply State.fails_only) | (with_reducible apply State.writePieces_only)
    | (with_reducible apply Only.foldl) | (with_reducible apply Only.foldl1) | (with_reducible apply Only.foldl2)
    | (with_reducible refine Only.snd ?_ (by assumption)) | (dsimp only) | split
    | (with_reducible refine Only.leaf ?_ ?_)
    | (unfold Same; intro p hq; cases p <;> first | exact absurd (hp (by decide)) hq | dsimp only [Part.same])

theorem execBulkCopy_only {parts : List Part} {s0 s : State} (h : Only parts s0 s) (hp : [.out, .drawn, .links,
      .fabric, .mem, .poison, .rope, .objects, .ring, .faults, .msix, .host] ⊆ parts) (e : BitVec 512) (bus : List
      Byte) (busError : Bool) :
    OnlyO parts s0 (execBulkCopy e bus busError s) := by
  unfold execBulkCopy
  repeat' first
    | with_reducible assumption | with_reducible exact List.Subset.trans (by decide) hp
    | (with_reducible apply hostCommand_only) | with_reducible intro _ | (with_reducible apply State.bulkCopy_only)
    | (with_reducible refine Only.snd ?_ (by assumption)) | (dsimp only) | split
    | (with_reducible refine Only.leaf ?_ ?_)
    | (unfold Same; intro p hq; cases p <;> first | exact absurd (hp (by decide)) hq | dsimp only [Part.same])

end Sys2Proof.Machine
end

