-- ==== Sys2Proof/Laws/OnlyJobLoad.lean ====
section
/-!
SUPPORT. What the operations of Machine/JobLoad.lean can change (Laws/Only.lean).
-/

namespace Sys2Proof.Machine

theorem State.growSpans_only {parts : List Part} {s0 s : State} (h : Only parts s0 s) (hp : [.spans] ⊆ parts)  :
    Only parts s0 (State.growSpans s) := by
  unfold State.growSpans
  repeat' first
    | with_reducible assumption | with_reducible exact List.Subset.trans (by decide) hp | with_reducible intro _
    | (with_reducible apply Only.foldl) | (with_reducible apply Only.foldl1) | (with_reducible apply Only.foldl2)
    | (dsimp only) | split | (with_reducible refine Only.leaf ?_ ?_)
    | (unfold Same; intro p hq; cases p <;> first | exact absurd (hp (by decide)) hq | dsimp only [Part.same])

theorem State.installTables_only {parts : List Part} {s0 s : State} (h : Only parts s0 s) (hp : [.cores, .regions,
      .objects, .job] ⊆ parts) (m regs keys : List Byte) :
    Only parts s0 (State.installTables s m regs keys) := by
  unfold State.installTables
  repeat' first
    | with_reducible assumption | with_reducible exact List.Subset.trans (by decide) hp | with_reducible intro _
    | (with_reducible apply State.setObj_only) | (with_reducible apply State.mapCore_only)
    | (with_reducible apply State.each_only) | (with_reducible apply Only.foldl)
    | (with_reducible apply Only.foldl1) | (with_reducible apply Only.foldl2) | (dsimp only) | split
    | (with_reducible refine Only.leaf ?_ ?_)
    | (unfold Same; intro p hq; cases p <;> first | exact absurd (hp (by decide)) hq | dsimp only [Part.same])

theorem State.runPending_only {parts : List Part} {s0 s : State} (h : Only parts s0 s) (hp : [.objects, .ring,
      .memctl] ⊆ parts)  :
    Only parts s0 (State.runPending s) := by
  unfold State.runPending
  repeat' first
    | with_reducible assumption | with_reducible exact List.Subset.trans (by decide) hp | with_reducible intro _
    | (with_reducible apply State.each_only) | (with_reducible apply State.migrate_only)
    | (with_reducible apply State.migrated_only) | (dsimp only) | split | (with_reducible refine Only.leaf ?_ ?_)
    | (unfold Same; intro p hq; cases p <;> first | exact absurd (hp (by decide)) hq | dsimp only [Part.same])

theorem State.clearForJob_only {parts : List Part} {s0 s : State} (h : Only parts s0 s) (hp : [.tt, .hold, .poison,
      .watch, .objects] ⊆ parts)  :
    Only parts s0 (State.clearForJob s) := by
  unfold State.clearForJob
  repeat' first
    | with_reducible assumption | with_reducible exact List.Subset.trans (by decide) hp | with_reducible intro _
    | (with_reducible apply Only.ite) | (with_reducible apply State.setObj_only)
    | (with_reducible apply State.setHold_only) | (with_reducible apply State.setArmed_only)
    | (with_reducible apply State.clearTally_only) | (dsimp only) | split | (with_reducible refine Only.leaf ?_ ?_)
    | (unfold Same; intro p hq; cases p <;> first | exact absurd (hp (by decide)) hq | dsimp only [Part.same])

theorem State.takeTraining_only {parts : List Part} {s0 s : State} (h : Only parts s0 s) (hp : [.out, .hold, .links,
      .fabric, .mem, .poison, .ctxs, .sems, .movers, .deltas, .train, .rope, .objects, .ring, .faults, .msix, .alert]
      ⊆ parts)  :
    Only parts s0 (State.takeTraining s) := by
  unfold State.takeTraining
  repeat' first
    | with_reducible assumption | with_reducible exact List.Subset.trans (by decide) hp | with_reducible intro _
    | (with_reducible apply Only.ite) | (with_reducible apply State.on_only)
    | (with_reducible apply State.setObj_only) | (with_reducible apply State.setTrain_only)
    | (with_reducible apply State.loadShardFp_only) | (with_reducible apply State.resumeSweeps_only)
    | (with_reducible apply State.formRopeFps_only) | (dsimp only) | split
    | (with_reducible refine Only.leaf ?_ ?_)
    | (unfold Same; intro p hq; cases p <;> first | exact absurd (hp (by decide)) hq | dsimp only [Part.same])

theorem State.jobLoaded_only {parts : List Part} {s0 s : State} (h : Only parts s0 s) (hp : [.out, .hold, .links,
      .fabric, .mem, .poison, .ctxs, .sems, .movers, .deltas, .train, .rope, .objects, .ring, .faults, .job, .msix,
      .alert, .boot] ⊆ parts) (m : List Byte) :
    Only parts s0 (State.jobLoaded s m) := by
  unfold State.jobLoaded
  repeat' first
    | with_reducible assumption | with_reducible exact List.Subset.trans (by decide) hp | with_reducible intro _
    | (with_reducible refine State.setBoot_only' ?_ (List.Subset.trans (by decide) hp) _ (fun _ => rfl))
    | (with_reducible refine State.setBoot_only'' ?_ (List.Subset.trans (by decide) hp) _ (fun _ => rfl))
    | (with_reducible apply State.setObj_only) | (with_reducible apply State.log_only)
    | (with_reducible apply State.ropeJob_only) | (with_reducible apply State.setBoot_only)
    | (with_reducible apply State.clearMeasure_only) | (with_reducible apply State.measure_only)
    | (with_reducible apply State.takeTraining_only) | (dsimp only) | split
    | (with_reducible refine Only.leaf ?_ ?_)
    | (unfold Same; intro p hq; cases p <;> first | exact absurd (hp (by decide)) hq | dsimp only [Part.same])

theorem State.noteRefusal_only {parts : List Part} {s0 s : State} (h : Only parts s0 s) (hp : [.objects, .dict,
      .ring] ⊆ parts) (t : State) :
    Only parts s0 (State.noteRefusal s t) := by
  unfold State.noteRefusal
  repeat' first
    | with_reducible assumption | with_reducible exact List.Subset.trans (by decide) hp
    | (with_reducible apply Only.ite)
    | (with_reducible apply State.log_only) | (with_reducible apply State.setStateStatus_only) | split

theorem State.loadJob_only {parts : List Part} {s0 s : State} (h : Only parts s0 s) (hp : [.out, .tt, .hold, .links,
      .fabric, .mem, .poison, .cores, .ctxs, .sems, .movers, .deltas, .regions, .spans, .watch, .train, .rope,
      .objects, .dict, .ring, .faults, .job, .msix, .memctl, .alert, .boot] ⊆ parts) (m regs keys : List Byte) :
    Only parts s0 (State.loadJob s m regs keys).2.2 := by
  unfold State.loadJob
  repeat' first
    | with_reducible assumption | with_reducible exact List.Subset.trans (by decide) hp | with_reducible intro _
    | (with_reducible apply State.setStateStatus_only) | (with_reducible apply State.done_only)
    | (with_reducible apply State.growSpans_only) | (with_reducible apply State.installTables_only)
    | (with_reducible apply State.runPending_only) | (with_reducible apply State.clearForJob_only)
    | (with_reducible apply State.jobLoaded_only) | (with_reducible apply State.noteRefusal_only)
    | (with_reducible refine Only.snd ?_ (by assumption)) | (dsimp only) | split
    | (with_reducible refine Only.leaf ?_ ?_)
    | (unfold Same; intro p hq; cases p <;> first | exact absurd (hp (by decide)) hq | dsimp only [Part.same])

theorem execJobLoad_only {parts : List Part} {s0 s : State} (h : Only parts s0 s) (hp : [.out, .tt, .hold, .links,
      .fabric, .mem, .poison, .cores, .ctxs, .sems, .movers, .deltas, .regions, .spans, .watch, .train, .rope,
      .objects, .dict, .ring, .faults, .job, .msix, .host, .memctl, .alert, .boot] ⊆ parts) (e : BitVec 512) :
    OnlyO parts s0 (execJobLoad e s) := by
  unfold execJobLoad
  repeat' first
    | with_reducible assumption | with_reducible exact List.Subset.trans (by decide) hp
    | (with_reducible apply hostCommand_only) | with_reducible intro _ | (with_reducible apply Only.ite)
    | (with_reducible apply Only.ite22) | (with_reducible apply State.fails_only)
    | (with_reducible apply State.fetchArg_only) | (with_reducible apply State.loadJob_only)
    | (with_reducible refine Only.snd ?_ (by assumption)) | (dsimp only) | split
    | (with_reducible refine Only.leaf ?_ ?_)
    | (unfold Same; intro p hq; cases p <;> first | exact absurd (hp (by decide)) hq | dsimp only [Part.same])

theorem State.quiesce_only {parts : List Part} {s0 s : State} (h : Only parts s0 s) (hp : [.out, .hall, .time, .hold,
      .links, .fabric, .mem, .poison, .ctxs, .sems, .movers, .deltas, .train, .rope, .objects, .ring, .faults, .msix,
      .alert] ⊆ parts)  :
    Only parts s0 (State.quiesce s) := by
  unfold State.quiesce
  repeat' first
    | with_reducible assumption | with_reducible exact List.Subset.trans (by decide) hp | with_reducible intro _
    | (with_reducible apply Only.ite) | (with_reducible apply State.reach_only)
    | (with_reducible apply State.stopAll_only) | (with_reducible apply State.endSweep_only) | (dsimp only) | split
    | (with_reducible refine Only.leaf ?_ ?_)
    | (unfold Same; intro p hq; cases p <;> first | exact absurd (hp (by decide)) hq | dsimp only [Part.same])

theorem State.breakJobFlows_only {parts : List Part} {s0 s : State} (h : Only parts s0 s) (hp : [.out, .links,
      .fabric, .movers, .objects, .ring] ⊆ parts)  :
    Only parts s0 (State.breakJobFlows s) := by
  unfold State.breakJobFlows
  repeat' first
    | with_reducible assumption | with_reducible exact List.Subset.trans (by decide) hp | with_reducible intro _
    | (with_reducible apply Only.ite) | (with_reducible apply State.each_only)
    | (with_reducible apply State.breakFlow_only) | (dsimp only) | split | (with_reducible refine Only.leaf ?_ ?_)
    | (unfold Same; intro p hq; cases p <;> first | exact absurd (hp (by decide)) hq | dsimp only [Part.same])

theorem State.stopTables_only {parts : List Part} {s0 s : State} (h : Only parts s0 s) (hp : [.tt] ⊆ parts)  :
    Only parts s0 (State.stopTables s) := by
  unfold State.stopTables
  repeat' first
    | with_reducible assumption | with_reducible exact List.Subset.trans (by decide) hp | with_reducible intro _
    | (dsimp only) | split | (with_reducible refine Only.leaf ?_ ?_)
    | (unfold Same; intro p hq; cases p <;> first | exact absurd (hp (by decide)) hq | dsimp only [Part.same])

theorem State.dropJob_only {parts : List Part} {s0 s : State} (h : Only parts s0 s) (hp : [.regions, .train, .job] ⊆
      parts)  :
    Only parts s0 (State.dropJob s) := by
  unfold State.dropJob
  repeat' first
    | with_reducible assumption | with_reducible exact List.Subset.trans (by decide) hp | with_reducible intro _
    | (dsimp only) | split | (with_reducible refine Only.leaf ?_ ?_)
    | (unfold Same; intro p hq; cases p <;> first | exact absurd (hp (by decide)) hq | dsimp only [Part.same])

theorem State.unloadJob_only {parts : List Part} {s0 s : State} (h : Only parts s0 s) (hp : [.out, .hall, .drawn,
      .time, .tt, .hold, .links, .fabric, .mem, .poison, .stores, .accs, .cores, .ctxs, .sems, .movers, .deltas,
      .regions, .train, .rope, .objects, .ring, .faults, .job, .msix, .alert, .boot] ⊆ parts)  :
    Only parts s0 (State.unloadJob s) := by
  unfold State.unloadJob
  repeat' first
    | with_reducible assumption | with_reducible exact List.Subset.trans (by decide) hp | with_reducible intro _
    | (with_reducible apply Only.ite)
    | (with_reducible refine State.setFaults_only' ?_ (List.Subset.trans (by decide) hp) _ (fun _ => rfl))
    | (with_reducible apply State.setObj_only) | (with_reducible apply State.log_only)
    | (with_reducible apply State.each_only) | (with_reducible apply State.setHold_only)
    | (with_reducible apply State.coreReset_only) | (with_reducible apply State.setArmed_only)
    | (with_reducible apply State.disarmBankSwitch_only) | (with_reducible apply State.setFaults_only)
    | (with_reducible apply State.clearMeasure_only) | (with_reducible apply State.quiesce_only)
    | (with_reducible apply State.breakJobFlows_only) | (with_reducible apply State.stopTables_only)
    | (with_reducible apply State.dropJob_only) | (dsimp only) | split | (with_reducible refine Only.leaf ?_ ?_)
    | (unfold Same; intro p hq; cases p <;> first | exact absurd (hp (by decide)) hq | dsimp only [Part.same])

theorem execJobUnload_only {parts : List Part} {s0 s : State} (h : Only parts s0 s) (hp : [.out, .hall, .drawn,
      .time, .tt, .hold, .links, .fabric, .mem, .poison, .stores, .accs, .cores, .ctxs, .sems, .movers, .deltas,
      .regions, .train, .rope, .objects, .ring, .faults, .job, .msix, .host, .alert, .boot] ⊆ parts) (e : BitVec 512)
      :
    OnlyO parts s0 (execJobUnload e s) := by
  unfold execJobUnload
  repeat' first
    | with_reducible assumption | with_reducible exact List.Subset.trans (by decide) hp
    | (with_reducible apply hostCommand_only) | with_reducible intro _ | (with_reducible apply State.done_only)
    | (with_reducible apply State.unloadJob_only) | (with_reducible refine Only.snd ?_ (by assumption))
    | (dsimp only) | split | (with_reducible refine Only.leaf ?_ ?_)
    | (unfold Same; intro p hq; cases p <;> first | exact absurd (hp (by decide)) hq | dsimp only [Part.same])

end Sys2Proof.Machine
end

