-- ==== Sys2Proof/Laws/OnlyLinks.lean ====
section
/-!
SUPPORT. What the operations of Machine/Links.lean can change (Laws/Only.lean).
-/

namespace Sys2Proof.Machine

theorem State.bringUp_only {parts : List Part} {s0 s : State} (h : Only parts s0 s) (hp : [.time, .links, .objects,
      .ring] ⊆ parts) (l partner plink : Nat) :
    Only parts s0 (State.bringUp s l partner plink) := by
  unfold State.bringUp
  repeat' first
    | with_reducible assumption | with_reducible exact List.Subset.trans (by decide) hp | with_reducible intro _
    | (with_reducible apply Only.ite) | (with_reducible apply State.setObj_only)
    | (with_reducible apply State.log_only) | (with_reducible apply State.mapLink_only)
    | (with_reducible apply State.setLinkTime_only) | (dsimp only) | split
    | (with_reducible refine Only.leaf ?_ ?_)
    | (unfold Same; intro p hq; cases p <;> first | exact absurd (hp (by decide)) hq | dsimp only [Part.same])

theorem State.offer_only {parts : List Part} {s0 s : State} (h : Only parts s0 s) (hp : [.out] ⊆ parts) (l : Nat) :
    Only parts s0 (State.offer s l) := by
  unfold State.offer
  repeat' first
    | with_reducible assumption | with_reducible exact List.Subset.trans (by decide) hp | with_reducible intro _
    | (with_reducible apply State.emit_only) | (dsimp only) | split | (with_reducible refine Only.leaf ?_ ?_)
    | (unfold Same; intro p hq; cases p <;> first | exact absurd (hp (by decide)) hq | dsimp only [Part.same])

theorem State.trainLink_only {parts : List Part} {s0 s : State} (h : Only parts s0 s) (hp : [.out, .time, .links,
      .objects, .ring] ⊆ parts) (l partner plink entry : Nat) (versions : List Nat) :
    Only parts s0 (State.trainLink s l partner plink entry versions) := by
  unfold State.trainLink
  repeat' first
    | with_reducible assumption | with_reducible exact List.Subset.trans (by decide) hp | with_reducible intro _
    | (with_reducible apply Only.ite) | (with_reducible apply State.setObj_only)
    | (with_reducible apply State.log_only) | (with_reducible apply State.bringUp_only)
    | (with_reducible apply State.offer_only) | (dsimp only) | split | (with_reducible refine Only.leaf ?_ ?_)
    | (unfold Same; intro p hq; cases p <;> first | exact absurd (hp (by decide)) hq | dsimp only [Part.same])

theorem execLinkTrain_only {parts : List Part} {s0 s : State} (h : Only parts s0 s) (hp : [.out, .time, .links,
      .objects, .ring] ⊆ parts) (link : Link) (partner : BitVec 16) (plink : Link) (entry : BitVec 16) (versions :
      List Nat) :
    OnlyO parts s0 (execLinkTrain link partner plink entry versions s) := by
  unfold execLinkTrain
  repeat' first
    | with_reducible assumption | with_reducible exact List.Subset.trans (by decide) hp
    | (with_reducible apply act_only) | with_reducible intro _ | (with_reducible apply State.trainLink_only)
    | (dsimp only) | split | (with_reducible refine Only.leaf ?_ ?_)
    | (unfold Same; intro p hq; cases p <;> first | exact absurd (hp (by decide)) hq | dsimp only [Part.same])

theorem State.nameLost_only {parts : List Part} {s0 s : State} (h : Only parts s0 s) (hp : [.hold] ⊆ parts) (l : Nat)
      :
    Only parts s0 (State.nameLost s l) := by
  unfold State.nameLost
  repeat' first
    | with_reducible assumption | with_reducible exact List.Subset.trans (by decide) hp | with_reducible intro _
    | (with_reducible apply Only.ite) | (with_reducible apply State.setHold_only) | (dsimp only) | split
    | (with_reducible refine Only.leaf ?_ ?_)
    | (unfold Same; intro p hq; cases p <;> first | exact absurd (hp (by decide)) hq | dsimp only [Part.same])

theorem State.loseLink_only {parts : List Part} {s0 s : State} (h : Only parts s0 s) (hp : [.out, .hold, .links,
      .fabric, .objects, .ring] ⊆ parts) (l : Nat) :
    Only parts s0 (State.loseLink s l) := by
  unfold State.loseLink
  repeat' first
    | with_reducible assumption | with_reducible exact List.Subset.trans (by decide) hp | with_reducible intro _
    | (with_reducible apply State.setObj_only) | (with_reducible apply State.log_only)
    | (with_reducible apply State.mapLink_only) | (with_reducible apply State.reroute_only)
    | (with_reducible apply State.nameLost_only) | (dsimp only) | split | (with_reducible refine Only.leaf ?_ ?_)
    | (unfold Same; intro p hq; cases p <;> first | exact absurd (hp (by decide)) hq | dsimp only [Part.same])

theorem State.retireLane_only {parts : List Part} {s0 s : State} (h : Only parts s0 s) (hp : [.out, .hold, .links,
      .fabric, .objects, .ring] ⊆ parts) (l lane : Nat) :
    Only parts s0 (State.retireLane s l lane) := by
  unfold State.retireLane
  repeat' first
    | with_reducible assumption | with_reducible exact List.Subset.trans (by decide) hp | with_reducible intro _
    | (with_reducible apply Only.ite) | (with_reducible apply State.setObj_only)
    | (with_reducible apply State.log_only) | (with_reducible apply State.nameLost_only)
    | (with_reducible apply State.loseLink_only) | (dsimp only) | split | (with_reducible refine Only.leaf ?_ ?_)
    | (unfold Same; intro p hq; cases p <;> first | exact absurd (hp (by decide)) hq | dsimp only [Part.same])

theorem State.laneTransient_only {parts : List Part} {s0 s : State} (h : Only parts s0 s) (hp : [.out, .hold, .links,
      .fabric, .objects, .ring] ⊆ parts) (l lane : Nat) :
    Only parts s0 (State.laneTransient s l lane) := by
  unfold State.laneTransient
  repeat' first
    | with_reducible assumption | with_reducible exact List.Subset.trans (by decide) hp | with_reducible intro _
    | (with_reducible apply Only.ite) | (with_reducible apply State.log_only)
    | (with_reducible apply State.mapLink_only) | (with_reducible apply State.retireLane_only) | (dsimp only)
    | split | (with_reducible refine Only.leaf ?_ ?_)
    | (unfold Same; intro p hq; cases p <;> first | exact absurd (hp (by decide)) hq | dsimp only [Part.same])

theorem State.endLinkRecovery_only {parts : List Part} {s0 s : State} (h : Only parts s0 s) (hp : [.hold, .links] ⊆
      parts) (l : Nat) :
    Only parts s0 (State.endLinkRecovery s l) := by
  unfold State.endLinkRecovery
  repeat' first
    | with_reducible assumption | with_reducible exact List.Subset.trans (by decide) hp | with_reducible intro _
    | (with_reducible apply State.mapLink_only) | (with_reducible apply State.originateResume_only) | (dsimp only)
    | split | (with_reducible refine Only.leaf ?_ ?_)
    | (unfold Same; intro p hq; cases p <;> first | exact absurd (hp (by decide)) hq | dsimp only [Part.same])

theorem State.lossHold_only {parts : List Part} {s0 s : State} (h : Only parts s0 s) (hp : [.hold, .links, .objects]
      ⊆ parts) (l cause : Nat) :
    Only parts s0 (State.lossHold s l cause) := by
  unfold State.lossHold
  repeat' first
    | with_reducible assumption | with_reducible exact List.Subset.trans (by decide) hp | with_reducible intro _
    | (with_reducible apply Only.ite) | (with_reducible apply State.mapLink_only)
    | (with_reducible apply State.originateHold_only) | (with_reducible apply State.schedFault_only)
    | (with_reducible apply State.faultCount_only) | (with_reducible refine Only.snd ?_ (by assumption))
    | (dsimp only) | split | (with_reducible refine Only.leaf ?_ ?_)
    | (unfold Same; intro p hq; cases p <;> first | exact absurd (hp (by decide)) hq | dsimp only [Part.same])

theorem execLaneLoss_only {parts : List Part} {s0 s : State} (h : Only parts s0 s) (hp : [.hold, .links, .objects] ⊆
      parts) (link : Link) (lane : Lane) :
    OnlyO parts s0 (execLaneLoss link lane s) := by
  unfold execLaneLoss
  repeat' first
    | with_reducible assumption | with_reducible exact List.Subset.trans (by decide) hp
    | (with_reducible apply act_only) | with_reducible intro _ | (with_reducible apply Only.ite)
    | (with_reducible apply State.mapLink_only) | (with_reducible apply State.lossHold_only) | (dsimp only) | split
    | (with_reducible refine Only.leaf ?_ ?_)
    | (unfold Same; intro p hq; cases p <;> first | exact absurd (hp (by decide)) hq | dsimp only [Part.same])

theorem execLaneRelockComplete_only {parts : List Part} {s0 s : State} (h : Only parts s0 s) (hp : [.out, .hold,
      .links, .fabric, .objects, .ring] ⊆ parts) (link : Link) (lane : Lane) (ok partnerOk : Bool) :
    OnlyO parts s0 (execLaneRelockComplete link lane ok partnerOk s) := by
  unfold execLaneRelockComplete
  repeat' first
    | with_reducible assumption | with_reducible exact List.Subset.trans (by decide) hp
    | (with_reducible apply act_only) | with_reducible intro _ | (with_reducible apply Only.ite)
    | (with_reducible apply State.on_only) | (with_reducible apply State.nameLost_only)
    | (with_reducible apply State.retireLane_only) | (with_reducible apply State.laneTransient_only)
    | (with_reducible apply State.endLinkRecovery_only) | (dsimp only) | split
    | (with_reducible refine Only.leaf ?_ ?_)
    | (unfold Same; intro p hq; cases p <;> first | exact absurd (hp (by decide)) hq | dsimp only [Part.same])

theorem execLinkLoss_only {parts : List Part} {s0 s : State} (h : Only parts s0 s) (hp : [.out, .time, .hold, .links,
      .fabric, .ctxs, .sems, .movers, .objects, .ring, .msix, .alert] ⊆ parts) (link : Link) :
    OnlyO parts s0 (execLinkLoss link s) := by
  unfold execLinkLoss
  repeat' first
    | with_reducible assumption | with_reducible exact List.Subset.trans (by decide) hp
    | (with_reducible apply act_only) | with_reducible intro _ | (with_reducible apply Only.ite)
    | (with_reducible apply State.on_only) | (with_reducible apply State.setObj_only)
    | (with_reducible apply State.count_only) | (with_reducible apply State.log_only)
    | (with_reducible apply State.mapLink_only) | (with_reducible apply State.releaseHolds_only)
    | (with_reducible apply State.loseParent_only) | (with_reducible apply State.lossHold_only) | (dsimp only)
    | split | (with_reducible refine Only.leaf ?_ ?_)
    | (unfold Same; intro p hq; cases p <;> first | exact absurd (hp (by decide)) hq | dsimp only [Part.same])

theorem execLinkRetrainComplete_only {parts : List Part} {s0 s : State} (h : Only parts s0 s) (hp : [.out, .time,
      .hold, .links, .fabric, .objects, .ring] ⊆ parts) (link : Link) (ok partnerOk : Bool) :
    OnlyO parts s0 (execLinkRetrainComplete link ok partnerOk s) := by
  unfold execLinkRetrainComplete
  repeat' first
    | with_reducible assumption | with_reducible exact List.Subset.trans (by decide) hp
    | (with_reducible apply act_only) | with_reducible intro _ | (with_reducible apply Only.ite)
    | (with_reducible apply State.on_only) | (with_reducible apply State.setObj_only)
    | (with_reducible apply State.log_only) | (with_reducible apply State.mapLink_only)
    | (with_reducible apply State.setLinkTime_only) | (with_reducible apply State.nameLost_only)
    | (with_reducible apply State.loseLink_only) | (with_reducible apply State.endLinkRecovery_only) | (dsimp only)
    | split | (with_reducible refine Only.leaf ?_ ?_)
    | (unfold Same; intro p hq; cases p <;> first | exact absurd (hp (by decide)) hq | dsimp only [Part.same])

theorem execLinkAgreementTimeout_only {parts : List Part} {s0 s : State} (h : Only parts s0 s) (hp : [.hold, .links]
      ⊆ parts) (link : Link) :
    OnlyO parts s0 (execLinkAgreementTimeout link s) := by
  unfold execLinkAgreementTimeout
  repeat' first
    | with_reducible assumption | with_reducible exact List.Subset.trans (by decide) hp
    | (with_reducible apply act_only) | with_reducible intro _ | (with_reducible apply Only.ite)
    | (with_reducible apply State.nameLost_only) | (with_reducible apply State.endLinkRecovery_only) | (dsimp only)
    | split | (with_reducible refine Only.leaf ?_ ?_)
    | (unfold Same; intro p hq; cases p <;> first | exact absurd (hp (by decide)) hq | dsimp only [Part.same])

theorem execCodewordUncorrectable_only {parts : List Part} {s0 s : State} (h : Only parts s0 s) (hp : [.out, .hold,
      .links, .fabric, .objects, .ring] ⊆ parts) (link : Link) (slots : Fin 3) (_flits : Bool) (lane : Option Lane) :
    OnlyO parts s0 (execCodewordUncorrectable link slots _flits lane s) := by
  unfold execCodewordUncorrectable
  repeat' first
    | with_reducible assumption | with_reducible exact List.Subset.trans (by decide) hp
    | (with_reducible apply act_only) | with_reducible intro _ | (with_reducible apply Only.ite)
    | (with_reducible apply State.count_only) | (with_reducible apply State.log_only)
    | (with_reducible apply State.mapLink_only) | (with_reducible apply State.schedFault_only)
    | (with_reducible apply State.laneTransient_only) | (dsimp only) | split
    | (with_reducible refine Only.leaf ?_ ?_)
    | (unfold Same; intro p hq; cases p <;> first | exact absurd (hp (by decide)) hq | dsimp only [Part.same])

theorem execFreeSlotSend_only {parts : List Part} {s0 s : State} (h : Only parts s0 s) (hp : [.out, .links, .fabric,
      .objects, .ring] ⊆ parts) (link : Link) (credits : List Nat) :
    OnlyO parts s0 (execFreeSlotSend link credits s) := by
  unfold execFreeSlotSend
  repeat' first
    | with_reducible assumption | with_reducible exact List.Subset.trans (by decide) hp
    | (with_reducible apply act_only) | with_reducible intro _ | (with_reducible apply Only.ite)
    | (with_reducible apply State.returnCredits_only) | (with_reducible apply State.addCredits_only)
    | (with_reducible apply State.retryWaiting_only) | (with_reducible apply State.sendFlits_only) | (dsimp only)
    | split | (with_reducible refine Only.leaf ?_ ?_)
    | (unfold Same; intro p hq; cases p <;> first | exact absurd (hp (by decide)) hq | dsimp only [Part.same])

theorem execPacketForward_only {parts : List Part} {s0 s : State} (h : Only parts s0 s) (hp : [.out, .hold, .links,
      .fabric, .objects, .ring, .supply] ⊆ parts) (die : HDie) (port : Fin 35) (p : Packet) :
    OnlyO parts s0 (execPacketForward die port p s) := by
  unfold execPacketForward
  repeat' first
    | with_reducible assumption | with_reducible exact List.Subset.trans (by decide) hp
    | (with_reducible apply act_only) | with_reducible intro _ | (with_reducible apply State.forward_only)
    | (with_reducible apply State.receiveHold_only) | (with_reducible apply State.receiveResume_only)
    | (dsimp only) | split | (with_reducible refine Only.leaf ?_ ?_)
    | (unfold Same; intro p hq; cases p <;> first | exact absurd (hp (by decide)) hq | dsimp only [Part.same])

theorem execEscapeWaitExpire_only {parts : List Part} {s0 s : State} (h : Only parts s0 s) (hp : [.out, .hall, .time,
      .links, .fabric, .objects, .ring] ⊆ parts) (p : Packet) :
    OnlyO parts s0 (execEscapeWaitExpire p s) := by
  unfold execEscapeWaitExpire
  repeat' first
    | with_reducible assumption | with_reducible exact List.Subset.trans (by decide) hp
    | (with_reducible apply act_only) | with_reducible intro _ | (with_reducible apply State.reach_only)
    | (with_reducible apply State.route_only) | (with_reducible apply State.inject_only) | (dsimp only) | split
    | (with_reducible refine Only.leaf ?_ ?_)
    | (unfold Same; intro p hq; cases p <;> first | exact absurd (hp (by decide)) hq | dsimp only [Part.same])

end Sys2Proof.Machine
end

