-- ==== Sys2Proof/Laws/State.lean ====
section
/-!
SUPPORT. What each update of the state leaves as it was: one lemma per field and update; and what it reads
back as.
-/

namespace Sys2Proof.Machine

variable (s : State)

/-! ### Draw -/

@[simp] theorem State.draw_pending : s.draw.2.pending = s.pending := (rfl)
@[simp] theorem State.draw_out : s.draw.2.out = s.out := (rfl)
@[simp] theorem State.draw_hall : s.draw.2.hall = s.hall := (rfl)
@[simp] theorem State.draw_down : s.draw.2.down = s.down := (rfl)
@[simp] theorem State.draw_time : s.draw.2.time = s.time := (rfl)
@[simp] theorem State.draw_tt : s.draw.2.tt = s.tt := (rfl)
@[simp] theorem State.draw_hold : s.draw.2.hold = s.hold := (rfl)
@[simp] theorem State.draw_links : s.draw.2.links = s.links := (rfl)
@[simp] theorem State.draw_fabric : s.draw.2.fabric = s.fabric := (rfl)
@[simp] theorem State.draw_mem : s.draw.2.mem = s.mem := (rfl)
@[simp] theorem State.draw_poison : s.draw.2.poison = s.poison := (rfl)
@[simp] theorem State.draw_stores : s.draw.2.stores = s.stores := (rfl)
@[simp] theorem State.draw_maps : s.draw.2.maps = s.maps := (rfl)
@[simp] theorem State.draw_imem : s.draw.2.imem = s.imem := (rfl)
@[simp] theorem State.draw_accs : s.draw.2.accs = s.accs := (rfl)
@[simp] theorem State.draw_cores : s.draw.2.cores = s.cores := (rfl)
@[simp] theorem State.draw_ctxs : s.draw.2.ctxs = s.ctxs := (rfl)
@[simp] theorem State.draw_sems : s.draw.2.sems = s.sems := (rfl)
@[simp] theorem State.draw_movers : s.draw.2.movers = s.movers := (rfl)
@[simp] theorem State.draw_posts : s.draw.2.posts = s.posts := (rfl)
@[simp] theorem State.draw_dies : s.draw.2.dies = s.dies := (rfl)
@[simp] theorem State.draw_mailboxes : s.draw.2.mailboxes = s.mailboxes := (rfl)
@[simp] theorem State.draw_deltas : s.draw.2.deltas = s.deltas := (rfl)
@[simp] theorem State.draw_regions : s.draw.2.regions = s.regions := (rfl)
@[simp] theorem State.draw_spans : s.draw.2.spans = s.spans := (rfl)
@[simp] theorem State.draw_invals : s.draw.2.invals = s.invals := (rfl)
@[simp] theorem State.draw_watch : s.draw.2.watch = s.watch := (rfl)
@[simp] theorem State.draw_train : s.draw.2.train = s.train := (rfl)
@[simp] theorem State.draw_rope : s.draw.2.rope = s.rope := (rfl)
@[simp] theorem State.draw_dict : s.draw.2.dict = s.dict := (rfl)
@[simp] theorem State.draw_faults : s.draw.2.faults = s.faults := (rfl)
@[simp] theorem State.draw_job : s.draw.2.job = s.job := (rfl)
@[simp] theorem State.draw_host : s.draw.2.host = s.host := (rfl)
@[simp] theorem State.draw_supply : s.draw.2.supply = s.supply := (rfl)
@[simp] theorem State.draw_memctl : s.draw.2.memctl = s.memctl := (rfl)
@[simp] theorem State.draw_boot : s.draw.2.boot = s.boot := (rfl)

/-! ### emit -/

@[simp] theorem State.emit_pending (o : Out) : (s.emit o).pending = s.pending := (rfl)
@[simp] theorem State.emit_hall (o : Out) : (s.emit o).hall = s.hall := (rfl)
@[simp] theorem State.emit_drawn (o : Out) : (s.emit o).drawn = s.drawn := (rfl)
@[simp] theorem State.emit_down (o : Out) : (s.emit o).down = s.down := (rfl)
@[simp] theorem State.emit_time (o : Out) : (s.emit o).time = s.time := (rfl)
@[simp] theorem State.emit_tt (o : Out) : (s.emit o).tt = s.tt := (rfl)
@[simp] theorem State.emit_hold (o : Out) : (s.emit o).hold = s.hold := (rfl)
@[simp] theorem State.emit_links (o : Out) : (s.emit o).links = s.links := (rfl)
@[simp] theorem State.emit_fabric (o : Out) : (s.emit o).fabric = s.fabric := (rfl)
@[simp] theorem State.emit_mem (o : Out) : (s.emit o).mem = s.mem := (rfl)
@[simp] theorem State.emit_poison (o : Out) : (s.emit o).poison = s.poison := (rfl)
@[simp] theorem State.emit_stores (o : Out) : (s.emit o).stores = s.stores := (rfl)
@[simp] theorem State.emit_maps (o : Out) : (s.emit o).maps = s.maps := (rfl)
@[simp] theorem State.emit_imem (o : Out) : (s.emit o).imem = s.imem := (rfl)
@[simp] theorem State.emit_accs (o : Out) : (s.emit o).accs = s.accs := (rfl)
@[simp] theorem State.emit_cores (o : Out) : (s.emit o).cores = s.cores := (rfl)
@[simp] theorem State.emit_ctxs (o : Out) : (s.emit o).ctxs = s.ctxs := (rfl)
@[simp] theorem State.emit_sems (o : Out) : (s.emit o).sems = s.sems := (rfl)
@[simp] theorem State.emit_movers (o : Out) : (s.emit o).movers = s.movers := (rfl)
@[simp] theorem State.emit_posts (o : Out) : (s.emit o).posts = s.posts := (rfl)
@[simp] theorem State.emit_dies (o : Out) : (s.emit o).dies = s.dies := (rfl)
@[simp] theorem State.emit_mailboxes (o : Out) : (s.emit o).mailboxes = s.mailboxes := (rfl)
@[simp] theorem State.emit_deltas (o : Out) : (s.emit o).deltas = s.deltas := (rfl)
@[simp] theorem State.emit_regions (o : Out) : (s.emit o).regions = s.regions := (rfl)
@[simp] theorem State.emit_spans (o : Out) : (s.emit o).spans = s.spans := (rfl)
@[simp] theorem State.emit_invals (o : Out) : (s.emit o).invals = s.invals := (rfl)
@[simp] theorem State.emit_watch (o : Out) : (s.emit o).watch = s.watch := (rfl)
@[simp] theorem State.emit_train (o : Out) : (s.emit o).train = s.train := (rfl)
@[simp] theorem State.emit_rope (o : Out) : (s.emit o).rope = s.rope := (rfl)
@[simp] theorem State.emit_dict (o : Out) : (s.emit o).dict = s.dict := (rfl)
@[simp] theorem State.emit_faults (o : Out) : (s.emit o).faults = s.faults := (rfl)
@[simp] theorem State.emit_job (o : Out) : (s.emit o).job = s.job := (rfl)
@[simp] theorem State.emit_host (o : Out) : (s.emit o).host = s.host := (rfl)
@[simp] theorem State.emit_supply (o : Out) : (s.emit o).supply = s.supply := (rfl)
@[simp] theorem State.emit_memctl (o : Out) : (s.emit o).memctl = s.memctl := (rfl)
@[simp] theorem State.emit_boot (o : Out) : (s.emit o).boot = s.boot := (rfl)

/-! ### setObj -/

@[simp] theorem State.setObj_pending (i j v : Nat) : (s.setObj i j v).pending = s.pending := (rfl)
@[simp] theorem State.setObj_out (i j v : Nat) : (s.setObj i j v).out = s.out := (rfl)
@[simp] theorem State.setObj_hall (i j v : Nat) : (s.setObj i j v).hall = s.hall := (rfl)
@[simp] theorem State.setObj_drawn (i j v : Nat) : (s.setObj i j v).drawn = s.drawn := (rfl)
@[simp] theorem State.setObj_down (i j v : Nat) : (s.setObj i j v).down = s.down := (rfl)
@[simp] theorem State.setObj_time (i j v : Nat) : (s.setObj i j v).time = s.time := (rfl)
@[simp] theorem State.setObj_tt (i j v : Nat) : (s.setObj i j v).tt = s.tt := (rfl)
@[simp] theorem State.setObj_hold (i j v : Nat) : (s.setObj i j v).hold = s.hold := (rfl)
@[simp] theorem State.setObj_links (i j v : Nat) : (s.setObj i j v).links = s.links := (rfl)
@[simp] theorem State.setObj_fabric (i j v : Nat) : (s.setObj i j v).fabric = s.fabric := (rfl)
@[simp] theorem State.setObj_mem (i j v : Nat) : (s.setObj i j v).mem = s.mem := (rfl)
@[simp] theorem State.setObj_poison (i j v : Nat) : (s.setObj i j v).poison = s.poison := (rfl)
@[simp] theorem State.setObj_stores (i j v : Nat) : (s.setObj i j v).stores = s.stores := (rfl)
@[simp] theorem State.setObj_maps (i j v : Nat) : (s.setObj i j v).maps = s.maps := (rfl)
@[simp] theorem State.setObj_imem (i j v : Nat) : (s.setObj i j v).imem = s.imem := (rfl)
@[simp] theorem State.setObj_accs (i j v : Nat) : (s.setObj i j v).accs = s.accs := (rfl)
@[simp] theorem State.setObj_cores (i j v : Nat) : (s.setObj i j v).cores = s.cores := (rfl)
@[simp] theorem State.setObj_ctxs (i j v : Nat) : (s.setObj i j v).ctxs = s.ctxs := (rfl)
@[simp] theorem State.setObj_sems (i j v : Nat) : (s.setObj i j v).sems = s.sems := (rfl)
@[simp] theorem State.setObj_movers (i j v : Nat) : (s.setObj i j v).movers = s.movers := (rfl)
@[simp] theorem State.setObj_posts (i j v : Nat) : (s.setObj i j v).posts = s.posts := (rfl)
@[simp] theorem State.setObj_dies (i j v : Nat) : (s.setObj i j v).dies = s.dies := (rfl)
@[simp] theorem State.setObj_mailboxes (i j v : Nat) : (s.setObj i j v).mailboxes = s.mailboxes := (rfl)
@[simp] theorem State.setObj_deltas (i j v : Nat) : (s.setObj i j v).deltas = s.deltas := (rfl)
@[simp] theorem State.setObj_regions (i j v : Nat) : (s.setObj i j v).regions = s.regions := (rfl)
@[simp] theorem State.setObj_spans (i j v : Nat) : (s.setObj i j v).spans = s.spans := (rfl)
@[simp] theorem State.setObj_invals (i j v : Nat) : (s.setObj i j v).invals = s.invals := (rfl)
@[simp] theorem State.setObj_watch (i j v : Nat) : (s.setObj i j v).watch = s.watch := (rfl)
@[simp] theorem State.setObj_train (i j v : Nat) : (s.setObj i j v).train = s.train := (rfl)
@[simp] theorem State.setObj_rope (i j v : Nat) : (s.setObj i j v).rope = s.rope := (rfl)
@[simp] theorem State.setObj_faults (i j v : Nat) : (s.setObj i j v).faults = s.faults := (rfl)
@[simp] theorem State.setObj_job (i j v : Nat) : (s.setObj i j v).job = s.job := (rfl)
@[simp] theorem State.setObj_host (i j v : Nat) : (s.setObj i j v).host = s.host := (rfl)
@[simp] theorem State.setObj_supply (i j v : Nat) : (s.setObj i j v).supply = s.supply := (rfl)
@[simp] theorem State.setObj_memctl (i j v : Nat) : (s.setObj i j v).memctl = s.memctl := (rfl)
@[simp] theorem State.setObj_boot (i j v : Nat) : (s.setObj i j v).boot = s.boot := (rfl)

/-! ### count -/

@[simp] theorem State.count_pending (i j n : Nat) : (s.count i j n).pending = s.pending := (rfl)
@[simp] theorem State.count_out (i j n : Nat) : (s.count i j n).out = s.out := (rfl)
@[simp] theorem State.count_hall (i j n : Nat) : (s.count i j n).hall = s.hall := (rfl)
@[simp] theorem State.count_drawn (i j n : Nat) : (s.count i j n).drawn = s.drawn := (rfl)
@[simp] theorem State.count_down (i j n : Nat) : (s.count i j n).down = s.down := (rfl)
@[simp] theorem State.count_time (i j n : Nat) : (s.count i j n).time = s.time := (rfl)
@[simp] theorem State.count_tt (i j n : Nat) : (s.count i j n).tt = s.tt := (rfl)
@[simp] theorem State.count_hold (i j n : Nat) : (s.count i j n).hold = s.hold := (rfl)
@[simp] theorem State.count_links (i j n : Nat) : (s.count i j n).links = s.links := (rfl)
@[simp] theorem State.count_fabric (i j n : Nat) : (s.count i j n).fabric = s.fabric := (rfl)
@[simp] theorem State.count_mem (i j n : Nat) : (s.count i j n).mem = s.mem := (rfl)
@[simp] theorem State.count_poison (i j n : Nat) : (s.count i j n).poison = s.poison := (rfl)
@[simp] theorem State.count_stores (i j n : Nat) : (s.count i j n).stores = s.stores := (rfl)
@[simp] theorem State.count_maps (i j n : Nat) : (s.count i j n).maps = s.maps := (rfl)
@[simp] theorem State.count_imem (i j n : Nat) : (s.count i j n).imem = s.imem := (rfl)
@[simp] theorem State.count_accs (i j n : Nat) : (s.count i j n).accs = s.accs := (rfl)
@[simp] theorem State.count_cores (i j n : Nat) : (s.count i j n).cores = s.cores := (rfl)
@[simp] theorem State.count_ctxs (i j n : Nat) : (s.count i j n).ctxs = s.ctxs := (rfl)
@[simp] theorem State.count_sems (i j n : Nat) : (s.count i j n).sems = s.sems := (rfl)
@[simp] theorem State.count_movers (i j n : Nat) : (s.count i j n).movers = s.movers := (rfl)
@[simp] theorem State.count_posts (i j n : Nat) : (s.count i j n).posts = s.posts := (rfl)
@[simp] theorem State.count_dies (i j n : Nat) : (s.count i j n).dies = s.dies := (rfl)
@[simp] theorem State.count_mailboxes (i j n : Nat) : (s.count i j n).mailboxes = s.mailboxes := (rfl)
@[simp] theorem State.count_deltas (i j n : Nat) : (s.count i j n).deltas = s.deltas := (rfl)
@[simp] theorem State.count_regions (i j n : Nat) : (s.count i j n).regions = s.regions := (rfl)
@[simp] theorem State.count_spans (i j n : Nat) : (s.count i j n).spans = s.spans := (rfl)
@[simp] theorem State.count_invals (i j n : Nat) : (s.count i j n).invals = s.invals := (rfl)
@[simp] theorem State.count_watch (i j n : Nat) : (s.count i j n).watch = s.watch := (rfl)
@[simp] theorem State.count_train (i j n : Nat) : (s.count i j n).train = s.train := (rfl)
@[simp] theorem State.count_rope (i j n : Nat) : (s.count i j n).rope = s.rope := (rfl)
@[simp] theorem State.count_faults (i j n : Nat) : (s.count i j n).faults = s.faults := (rfl)
@[simp] theorem State.count_job (i j n : Nat) : (s.count i j n).job = s.job := (rfl)
@[simp] theorem State.count_host (i j n : Nat) : (s.count i j n).host = s.host := (rfl)
@[simp] theorem State.count_supply (i j n : Nat) : (s.count i j n).supply = s.supply := (rfl)
@[simp] theorem State.count_memctl (i j n : Nat) : (s.count i j n).memctl = s.memctl := (rfl)
@[simp] theorem State.count_boot (i j n : Nat) : (s.count i j n).boot = s.boot := (rfl)

/-! ### count64 -/

@[simp] theorem State.count64_pending (i j n : Nat) : (s.count64 i j n).pending = s.pending := (rfl)
@[simp] theorem State.count64_out (i j n : Nat) : (s.count64 i j n).out = s.out := (rfl)
@[simp] theorem State.count64_hall (i j n : Nat) : (s.count64 i j n).hall = s.hall := (rfl)
@[simp] theorem State.count64_drawn (i j n : Nat) : (s.count64 i j n).drawn = s.drawn := (rfl)
@[simp] theorem State.count64_down (i j n : Nat) : (s.count64 i j n).down = s.down := (rfl)
@[simp] theorem State.count64_time (i j n : Nat) : (s.count64 i j n).time = s.time := (rfl)
@[simp] theorem State.count64_tt (i j n : Nat) : (s.count64 i j n).tt = s.tt := (rfl)
@[simp] theorem State.count64_hold (i j n : Nat) : (s.count64 i j n).hold = s.hold := (rfl)
@[simp] theorem State.count64_links (i j n : Nat) : (s.count64 i j n).links = s.links := (rfl)
@[simp] theorem State.count64_fabric (i j n : Nat) : (s.count64 i j n).fabric = s.fabric := (rfl)
@[simp] theorem State.count64_mem (i j n : Nat) : (s.count64 i j n).mem = s.mem := (rfl)
@[simp] theorem State.count64_poison (i j n : Nat) : (s.count64 i j n).poison = s.poison := (rfl)
@[simp] theorem State.count64_stores (i j n : Nat) : (s.count64 i j n).stores = s.stores := (rfl)
@[simp] theorem State.count64_maps (i j n : Nat) : (s.count64 i j n).maps = s.maps := (rfl)
@[simp] theorem State.count64_imem (i j n : Nat) : (s.count64 i j n).imem = s.imem := (rfl)
@[simp] theorem State.count64_accs (i j n : Nat) : (s.count64 i j n).accs = s.accs := (rfl)
@[simp] theorem State.count64_cores (i j n : Nat) : (s.count64 i j n).cores = s.cores := (rfl)
@[simp] theorem State.count64_ctxs (i j n : Nat) : (s.count64 i j n).ctxs = s.ctxs := (rfl)
@[simp] theorem State.count64_sems (i j n : Nat) : (s.count64 i j n).sems = s.sems := (rfl)
@[simp] theorem State.count64_movers (i j n : Nat) : (s.count64 i j n).movers = s.movers := (rfl)
@[simp] theorem State.count64_posts (i j n : Nat) : (s.count64 i j n).posts = s.posts := (rfl)
@[simp] theorem State.count64_dies (i j n : Nat) : (s.count64 i j n).dies = s.dies := (rfl)
@[simp] theorem State.count64_mailboxes (i j n : Nat) : (s.count64 i j n).mailboxes = s.mailboxes := (rfl)
@[simp] theorem State.count64_deltas (i j n : Nat) : (s.count64 i j n).deltas = s.deltas := (rfl)
@[simp] theorem State.count64_regions (i j n : Nat) : (s.count64 i j n).regions = s.regions := (rfl)
@[simp] theorem State.count64_spans (i j n : Nat) : (s.count64 i j n).spans = s.spans := (rfl)
@[simp] theorem State.count64_invals (i j n : Nat) : (s.count64 i j n).invals = s.invals := (rfl)
@[simp] theorem State.count64_watch (i j n : Nat) : (s.count64 i j n).watch = s.watch := (rfl)
@[simp] theorem State.count64_train (i j n : Nat) : (s.count64 i j n).train = s.train := (rfl)
@[simp] theorem State.count64_rope (i j n : Nat) : (s.count64 i j n).rope = s.rope := (rfl)
@[simp] theorem State.count64_faults (i j n : Nat) : (s.count64 i j n).faults = s.faults := (rfl)
@[simp] theorem State.count64_job (i j n : Nat) : (s.count64 i j n).job = s.job := (rfl)
@[simp] theorem State.count64_host (i j n : Nat) : (s.count64 i j n).host = s.host := (rfl)
@[simp] theorem State.count64_supply (i j n : Nat) : (s.count64 i j n).supply = s.supply := (rfl)
@[simp] theorem State.count64_memctl (i j n : Nat) : (s.count64 i j n).memctl = s.memctl := (rfl)
@[simp] theorem State.count64_boot (i j n : Nat) : (s.count64 i j n).boot = s.boot := (rfl)

/-! ### setRec -/

@[simp] theorem State.setRec_pending (i j : Nat) (v : List Byte) : (s.setRec i j v).pending = s.pending := (rfl)
@[simp] theorem State.setRec_out (i j : Nat) (v : List Byte) : (s.setRec i j v).out = s.out := (rfl)
@[simp] theorem State.setRec_hall (i j : Nat) (v : List Byte) : (s.setRec i j v).hall = s.hall := (rfl)
@[simp] theorem State.setRec_drawn (i j : Nat) (v : List Byte) : (s.setRec i j v).drawn = s.drawn := (rfl)
@[simp] theorem State.setRec_down (i j : Nat) (v : List Byte) : (s.setRec i j v).down = s.down := (rfl)
@[simp] theorem State.setRec_time (i j : Nat) (v : List Byte) : (s.setRec i j v).time = s.time := (rfl)
@[simp] theorem State.setRec_tt (i j : Nat) (v : List Byte) : (s.setRec i j v).tt = s.tt := (rfl)
@[simp] theorem State.setRec_hold (i j : Nat) (v : List Byte) : (s.setRec i j v).hold = s.hold := (rfl)
@[simp] theorem State.setRec_links (i j : Nat) (v : List Byte) : (s.setRec i j v).links = s.links := (rfl)
@[simp] theorem State.setRec_fabric (i j : Nat) (v : List Byte) : (s.setRec i j v).fabric = s.fabric := (rfl)
@[simp] theorem State.setRec_mem (i j : Nat) (v : List Byte) : (s.setRec i j v).mem = s.mem := (rfl)
@[simp] theorem State.setRec_poison (i j : Nat) (v : List Byte) : (s.setRec i j v).poison = s.poison := (rfl)
@[simp] theorem State.setRec_stores (i j : Nat) (v : List Byte) : (s.setRec i j v).stores = s.stores := (rfl)
@[simp] theorem State.setRec_maps (i j : Nat) (v : List Byte) : (s.setRec i j v).maps = s.maps := (rfl)
@[simp] theorem State.setRec_imem (i j : Nat) (v : List Byte) : (s.setRec i j v).imem = s.imem := (rfl)
@[simp] theorem State.setRec_accs (i j : Nat) (v : List Byte) : (s.setRec i j v).accs = s.accs := (rfl)
@[simp] theorem State.setRec_cores (i j : Nat) (v : List Byte) : (s.setRec i j v).cores = s.cores := (rfl)
@[simp] theorem State.setRec_ctxs (i j : Nat) (v : List Byte) : (s.setRec i j v).ctxs = s.ctxs := (rfl)
@[simp] theorem State.setRec_sems (i j : Nat) (v : List Byte) : (s.setRec i j v).sems = s.sems := (rfl)
@[simp] theorem State.setRec_movers (i j : Nat) (v : List Byte) : (s.setRec i j v).movers = s.movers := (rfl)
@[simp] theorem State.setRec_posts (i j : Nat) (v : List Byte) : (s.setRec i j v).posts = s.posts := (rfl)
@[simp] theorem State.setRec_dies (i j : Nat) (v : List Byte) : (s.setRec i j v).dies = s.dies := (rfl)
@[simp] theorem State.setRec_mailboxes (i j : Nat) (v : List Byte) : (s.setRec i j v).mailboxes = s.mailboxes := (rfl)
@[simp] theorem State.setRec_deltas (i j : Nat) (v : List Byte) : (s.setRec i j v).deltas = s.deltas := (rfl)
@[simp] theorem State.setRec_regions (i j : Nat) (v : List Byte) : (s.setRec i j v).regions = s.regions := (rfl)
@[simp] theorem State.setRec_spans (i j : Nat) (v : List Byte) : (s.setRec i j v).spans = s.spans := (rfl)
@[simp] theorem State.setRec_invals (i j : Nat) (v : List Byte) : (s.setRec i j v).invals = s.invals := (rfl)
@[simp] theorem State.setRec_watch (i j : Nat) (v : List Byte) : (s.setRec i j v).watch = s.watch := (rfl)
@[simp] theorem State.setRec_train (i j : Nat) (v : List Byte) : (s.setRec i j v).train = s.train := (rfl)
@[simp] theorem State.setRec_rope (i j : Nat) (v : List Byte) : (s.setRec i j v).rope = s.rope := (rfl)
@[simp] theorem State.setRec_faults (i j : Nat) (v : List Byte) : (s.setRec i j v).faults = s.faults := (rfl)
@[simp] theorem State.setRec_job (i j : Nat) (v : List Byte) : (s.setRec i j v).job = s.job := (rfl)
@[simp] theorem State.setRec_host (i j : Nat) (v : List Byte) : (s.setRec i j v).host = s.host := (rfl)
@[simp] theorem State.setRec_supply (i j : Nat) (v : List Byte) : (s.setRec i j v).supply = s.supply := (rfl)
@[simp] theorem State.setRec_memctl (i j : Nat) (v : List Byte) : (s.setRec i j v).memctl = s.memctl := (rfl)
@[simp] theorem State.setRec_boot (i j : Nat) (v : List Byte) : (s.setRec i j v).boot = s.boot := (rfl)

/-! ### write -/

@[simp] theorem State.write_pending (a : Nat) (bs : List Byte) : (s.write a bs).pending = s.pending := (rfl)
@[simp] theorem State.write_out (a : Nat) (bs : List Byte) : (s.write a bs).out = s.out := (rfl)
@[simp] theorem State.write_hall (a : Nat) (bs : List Byte) : (s.write a bs).hall = s.hall := (rfl)
@[simp] theorem State.write_drawn (a : Nat) (bs : List Byte) : (s.write a bs).drawn = s.drawn := (rfl)
@[simp] theorem State.write_down (a : Nat) (bs : List Byte) : (s.write a bs).down = s.down := (rfl)
@[simp] theorem State.write_time (a : Nat) (bs : List Byte) : (s.write a bs).time = s.time := (rfl)
@[simp] theorem State.write_tt (a : Nat) (bs : List Byte) : (s.write a bs).tt = s.tt := (rfl)
@[simp] theorem State.write_hold (a : Nat) (bs : List Byte) : (s.write a bs).hold = s.hold := (rfl)
@[simp] theorem State.write_links (a : Nat) (bs : List Byte) : (s.write a bs).links = s.links := (rfl)
@[simp] theorem State.write_fabric (a : Nat) (bs : List Byte) : (s.write a bs).fabric = s.fabric := (rfl)
@[simp] theorem State.write_stores (a : Nat) (bs : List Byte) : (s.write a bs).stores = s.stores := (rfl)
@[simp] theorem State.write_maps (a : Nat) (bs : List Byte) : (s.write a bs).maps = s.maps := (rfl)
@[simp] theorem State.write_imem (a : Nat) (bs : List Byte) : (s.write a bs).imem = s.imem := (rfl)
@[simp] theorem State.write_accs (a : Nat) (bs : List Byte) : (s.write a bs).accs = s.accs := (rfl)
@[simp] theorem State.write_cores (a : Nat) (bs : List Byte) : (s.write a bs).cores = s.cores := (rfl)
@[simp] theorem State.write_ctxs (a : Nat) (bs : List Byte) : (s.write a bs).ctxs = s.ctxs := (rfl)
@[simp] theorem State.write_sems (a : Nat) (bs : List Byte) : (s.write a bs).sems = s.sems := (rfl)
@[simp] theorem State.write_movers (a : Nat) (bs : List Byte) : (s.write a bs).movers = s.movers := (rfl)
@[simp] theorem State.write_posts (a : Nat) (bs : List Byte) : (s.write a bs).posts = s.posts := (rfl)
@[simp] theorem State.write_dies (a : Nat) (bs : List Byte) : (s.write a bs).dies = s.dies := (rfl)
@[simp] theorem State.write_mailboxes (a : Nat) (bs : List Byte) : (s.write a bs).mailboxes = s.mailboxes := (rfl)
@[simp] theorem State.write_deltas (a : Nat) (bs : List Byte) : (s.write a bs).deltas = s.deltas := (rfl)
@[simp] theorem State.write_regions (a : Nat) (bs : List Byte) : (s.write a bs).regions = s.regions := (rfl)
@[simp] theorem State.write_spans (a : Nat) (bs : List Byte) : (s.write a bs).spans = s.spans := (rfl)
@[simp] theorem State.write_invals (a : Nat) (bs : List Byte) : (s.write a bs).invals = s.invals := (rfl)
@[simp] theorem State.write_watch (a : Nat) (bs : List Byte) : (s.write a bs).watch = s.watch := (rfl)
@[simp] theorem State.write_train (a : Nat) (bs : List Byte) : (s.write a bs).train = s.train := (rfl)
@[simp] theorem State.write_rope (a : Nat) (bs : List Byte) : (s.write a bs).rope = s.rope := (rfl)
@[simp] theorem State.write_dict (a : Nat) (bs : List Byte) : (s.write a bs).dict = s.dict := (rfl)
@[simp] theorem State.write_faults (a : Nat) (bs : List Byte) : (s.write a bs).faults = s.faults := (rfl)
@[simp] theorem State.write_job (a : Nat) (bs : List Byte) : (s.write a bs).job = s.job := (rfl)
@[simp] theorem State.write_host (a : Nat) (bs : List Byte) : (s.write a bs).host = s.host := (rfl)
@[simp] theorem State.write_supply (a : Nat) (bs : List Byte) : (s.write a bs).supply = s.supply := (rfl)
@[simp] theorem State.write_memctl (a : Nat) (bs : List Byte) : (s.write a bs).memctl = s.memctl := (rfl)
@[simp] theorem State.write_boot (a : Nat) (bs : List Byte) : (s.write a bs).boot = s.boot := (rfl)

/-! ### writeBytes -/

@[simp] theorem State.writeBytes_pending (ws : List (Nat × Byte)) : (s.writeBytes ws).pending = s.pending := (rfl)
@[simp] theorem State.writeBytes_out (ws : List (Nat × Byte)) : (s.writeBytes ws).out = s.out := (rfl)
@[simp] theorem State.writeBytes_hall (ws : List (Nat × Byte)) : (s.writeBytes ws).hall = s.hall := (rfl)
@[simp] theorem State.writeBytes_drawn (ws : List (Nat × Byte)) : (s.writeBytes ws).drawn = s.drawn := (rfl)
@[simp] theorem State.writeBytes_down (ws : List (Nat × Byte)) : (s.writeBytes ws).down = s.down := (rfl)
@[simp] theorem State.writeBytes_time (ws : List (Nat × Byte)) : (s.writeBytes ws).time = s.time := (rfl)
@[simp] theorem State.writeBytes_tt (ws : List (Nat × Byte)) : (s.writeBytes ws).tt = s.tt := (rfl)
@[simp] theorem State.writeBytes_hold (ws : List (Nat × Byte)) : (s.writeBytes ws).hold = s.hold := (rfl)
@[simp] theorem State.writeBytes_links (ws : List (Nat × Byte)) : (s.writeBytes ws).links = s.links := (rfl)
@[simp] theorem State.writeBytes_fabric (ws : List (Nat × Byte)) : (s.writeBytes ws).fabric = s.fabric := (rfl)
@[simp] theorem State.writeBytes_stores (ws : List (Nat × Byte)) : (s.writeBytes ws).stores = s.stores := (rfl)
@[simp] theorem State.writeBytes_maps (ws : List (Nat × Byte)) : (s.writeBytes ws).maps = s.maps := (rfl)
@[simp] theorem State.writeBytes_imem (ws : List (Nat × Byte)) : (s.writeBytes ws).imem = s.imem := (rfl)
@[simp] theorem State.writeBytes_accs (ws : List (Nat × Byte)) : (s.writeBytes ws).accs = s.accs := (rfl)
@[simp] theorem State.writeBytes_cores (ws : List (Nat × Byte)) : (s.writeBytes ws).cores = s.cores := (rfl)
@[simp] theorem State.writeBytes_ctxs (ws : List (Nat × Byte)) : (s.writeBytes ws).ctxs = s.ctxs := (rfl)
@[simp] theorem State.writeBytes_sems (ws : List (Nat × Byte)) : (s.writeBytes ws).sems = s.sems := (rfl)
@[simp] theorem State.writeBytes_movers (ws : List (Nat × Byte)) : (s.writeBytes ws).movers = s.movers := (rfl)
@[simp] theorem State.writeBytes_posts (ws : List (Nat × Byte)) : (s.writeBytes ws).posts = s.posts := (rfl)
@[simp] theorem State.writeBytes_dies (ws : List (Nat × Byte)) : (s.writeBytes ws).dies = s.dies := (rfl)
@[simp] theorem State.writeBytes_mailboxes (ws : List (Nat × Byte)) : (s.writeBytes ws).mailboxes = s.mailboxes := (rfl)
@[simp] theorem State.writeBytes_deltas (ws : List (Nat × Byte)) : (s.writeBytes ws).deltas = s.deltas := (rfl)
@[simp] theorem State.writeBytes_regions (ws : List (Nat × Byte)) : (s.writeBytes ws).regions = s.regions := (rfl)
@[simp] theorem State.writeBytes_spans (ws : List (Nat × Byte)) : (s.writeBytes ws).spans = s.spans := (rfl)
@[simp] theorem State.writeBytes_invals (ws : List (Nat × Byte)) : (s.writeBytes ws).invals = s.invals := (rfl)
@[simp] theorem State.writeBytes_watch (ws : List (Nat × Byte)) : (s.writeBytes ws).watch = s.watch := (rfl)
@[simp] theorem State.writeBytes_train (ws : List (Nat × Byte)) : (s.writeBytes ws).train = s.train := (rfl)
@[simp] theorem State.writeBytes_rope (ws : List (Nat × Byte)) : (s.writeBytes ws).rope = s.rope := (rfl)
@[simp] theorem State.writeBytes_dict (ws : List (Nat × Byte)) : (s.writeBytes ws).dict = s.dict := (rfl)
@[simp] theorem State.writeBytes_faults (ws : List (Nat × Byte)) : (s.writeBytes ws).faults = s.faults := (rfl)
@[simp] theorem State.writeBytes_job (ws : List (Nat × Byte)) : (s.writeBytes ws).job = s.job := (rfl)
@[simp] theorem State.writeBytes_host (ws : List (Nat × Byte)) : (s.writeBytes ws).host = s.host := (rfl)
@[simp] theorem State.writeBytes_supply (ws : List (Nat × Byte)) : (s.writeBytes ws).supply = s.supply := (rfl)
@[simp] theorem State.writeBytes_memctl (ws : List (Nat × Byte)) : (s.writeBytes ws).memctl = s.memctl := (rfl)
@[simp] theorem State.writeBytes_boot (ws : List (Nat × Byte)) : (s.writeBytes ws).boot = s.boot := (rfl)

/-! ### storeWrite -/

@[simp] theorem State.storeWrite_pending (c st off : Nat) (bs : List Byte) : (s.storeWrite c st off bs).pending = s.pending := (rfl)
@[simp] theorem State.storeWrite_out (c st off : Nat) (bs : List Byte) : (s.storeWrite c st off bs).out = s.out := (rfl)
@[simp] theorem State.storeWrite_hall (c st off : Nat) (bs : List Byte) : (s.storeWrite c st off bs).hall = s.hall := (rfl)
@[simp] theorem State.storeWrite_drawn (c st off : Nat) (bs : List Byte) : (s.storeWrite c st off bs).drawn = s.drawn := (rfl)
@[simp] theorem State.storeWrite_down (c st off : Nat) (bs : List Byte) : (s.storeWrite c st off bs).down = s.down := (rfl)
@[simp] theorem State.storeWrite_time (c st off : Nat) (bs : List Byte) : (s.storeWrite c st off bs).time = s.time := (rfl)
@[simp] theorem State.storeWrite_tt (c st off : Nat) (bs : List Byte) : (s.storeWrite c st off bs).tt = s.tt := (rfl)
@[simp] theorem State.storeWrite_hold (c st off : Nat) (bs : List Byte) : (s.storeWrite c st off bs).hold = s.hold := (rfl)
@[simp] theorem State.storeWrite_links (c st off : Nat) (bs : List Byte) : (s.storeWrite c st off bs).links = s.links := (rfl)
@[simp] theorem State.storeWrite_fabric (c st off : Nat) (bs : List Byte) : (s.storeWrite c st off bs).fabric = s.fabric := (rfl)
@[simp] theorem State.storeWrite_mem (c st off : Nat) (bs : List Byte) : (s.storeWrite c st off bs).mem = s.mem := (rfl)
@[simp] theorem State.storeWrite_poison (c st off : Nat) (bs : List Byte) : (s.storeWrite c st off bs).poison = s.poison := (rfl)
@[simp] theorem State.storeWrite_maps (c st off : Nat) (bs : List Byte) : (s.storeWrite c st off bs).maps = s.maps := (rfl)
@[simp] theorem State.storeWrite_imem (c st off : Nat) (bs : List Byte) : (s.storeWrite c st off bs).imem = s.imem := (rfl)
@[simp] theorem State.storeWrite_accs (c st off : Nat) (bs : List Byte) : (s.storeWrite c st off bs).accs = s.accs := (rfl)
@[simp] theorem State.storeWrite_cores (c st off : Nat) (bs : List Byte) : (s.storeWrite c st off bs).cores = s.cores := (rfl)
@[simp] theorem State.storeWrite_ctxs (c st off : Nat) (bs : List Byte) : (s.storeWrite c st off bs).ctxs = s.ctxs := (rfl)
@[simp] theorem State.storeWrite_sems (c st off : Nat) (bs : List Byte) : (s.storeWrite c st off bs).sems = s.sems := (rfl)
@[simp] theorem State.storeWrite_movers (c st off : Nat) (bs : List Byte) : (s.storeWrite c st off bs).movers = s.movers := (rfl)
@[simp] theorem State.storeWrite_posts (c st off : Nat) (bs : List Byte) : (s.storeWrite c st off bs).posts = s.posts := (rfl)
@[simp] theorem State.storeWrite_dies (c st off : Nat) (bs : List Byte) : (s.storeWrite c st off bs).dies = s.dies := (rfl)
@[simp] theorem State.storeWrite_mailboxes (c st off : Nat) (bs : List Byte) : (s.storeWrite c st off bs).mailboxes = s.mailboxes := (rfl)
@[simp] theorem State.storeWrite_deltas (c st off : Nat) (bs : List Byte) : (s.storeWrite c st off bs).deltas = s.deltas := (rfl)
@[simp] theorem State.storeWrite_regions (c st off : Nat) (bs : List Byte) : (s.storeWrite c st off bs).regions = s.regions := (rfl)
@[simp] theorem State.storeWrite_spans (c st off : Nat) (bs : List Byte) : (s.storeWrite c st off bs).spans = s.spans := (rfl)
@[simp] theorem State.storeWrite_invals (c st off : Nat) (bs : List Byte) : (s.storeWrite c st off bs).invals = s.invals := (rfl)
@[simp] theorem State.storeWrite_watch (c st off : Nat) (bs : List Byte) : (s.storeWrite c st off bs).watch = s.watch := (rfl)
@[simp] theorem State.storeWrite_train (c st off : Nat) (bs : List Byte) : (s.storeWrite c st off bs).train = s.train := (rfl)
@[simp] theorem State.storeWrite_rope (c st off : Nat) (bs : List Byte) : (s.storeWrite c st off bs).rope = s.rope := (rfl)
@[simp] theorem State.storeWrite_dict (c st off : Nat) (bs : List Byte) : (s.storeWrite c st off bs).dict = s.dict := (rfl)
@[simp] theorem State.storeWrite_faults (c st off : Nat) (bs : List Byte) : (s.storeWrite c st off bs).faults = s.faults := (rfl)
@[simp] theorem State.storeWrite_job (c st off : Nat) (bs : List Byte) : (s.storeWrite c st off bs).job = s.job := (rfl)
@[simp] theorem State.storeWrite_host (c st off : Nat) (bs : List Byte) : (s.storeWrite c st off bs).host = s.host := (rfl)
@[simp] theorem State.storeWrite_supply (c st off : Nat) (bs : List Byte) : (s.storeWrite c st off bs).supply = s.supply := (rfl)
@[simp] theorem State.storeWrite_memctl (c st off : Nat) (bs : List Byte) : (s.storeWrite c st off bs).memctl = s.memctl := (rfl)
@[simp] theorem State.storeWrite_boot (c st off : Nat) (bs : List Byte) : (s.storeWrite c st off bs).boot = s.boot := (rfl)

/-! ### storeBytes -/

@[simp] theorem State.storeBytes_pending (ws : List (Nat × Byte)) : (s.storeBytes ws).pending = s.pending := (rfl)
@[simp] theorem State.storeBytes_out (ws : List (Nat × Byte)) : (s.storeBytes ws).out = s.out := (rfl)
@[simp] theorem State.storeBytes_hall (ws : List (Nat × Byte)) : (s.storeBytes ws).hall = s.hall := (rfl)
@[simp] theorem State.storeBytes_drawn (ws : List (Nat × Byte)) : (s.storeBytes ws).drawn = s.drawn := (rfl)
@[simp] theorem State.storeBytes_down (ws : List (Nat × Byte)) : (s.storeBytes ws).down = s.down := (rfl)
@[simp] theorem State.storeBytes_time (ws : List (Nat × Byte)) : (s.storeBytes ws).time = s.time := (rfl)
@[simp] theorem State.storeBytes_tt (ws : List (Nat × Byte)) : (s.storeBytes ws).tt = s.tt := (rfl)
@[simp] theorem State.storeBytes_hold (ws : List (Nat × Byte)) : (s.storeBytes ws).hold = s.hold := (rfl)
@[simp] theorem State.storeBytes_links (ws : List (Nat × Byte)) : (s.storeBytes ws).links = s.links := (rfl)
@[simp] theorem State.storeBytes_fabric (ws : List (Nat × Byte)) : (s.storeBytes ws).fabric = s.fabric := (rfl)
@[simp] theorem State.storeBytes_mem (ws : List (Nat × Byte)) : (s.storeBytes ws).mem = s.mem := (rfl)
@[simp] theorem State.storeBytes_poison (ws : List (Nat × Byte)) : (s.storeBytes ws).poison = s.poison := (rfl)
@[simp] theorem State.storeBytes_imem (ws : List (Nat × Byte)) : (s.storeBytes ws).imem = s.imem := (rfl)
@[simp] theorem State.storeBytes_accs (ws : List (Nat × Byte)) : (s.storeBytes ws).accs = s.accs := (rfl)
@[simp] theorem State.storeBytes_cores (ws : List (Nat × Byte)) : (s.storeBytes ws).cores = s.cores := (rfl)
@[simp] theorem State.storeBytes_ctxs (ws : List (Nat × Byte)) : (s.storeBytes ws).ctxs = s.ctxs := (rfl)
@[simp] theorem State.storeBytes_sems (ws : List (Nat × Byte)) : (s.storeBytes ws).sems = s.sems := (rfl)
@[simp] theorem State.storeBytes_movers (ws : List (Nat × Byte)) : (s.storeBytes ws).movers = s.movers := (rfl)
@[simp] theorem State.storeBytes_posts (ws : List (Nat × Byte)) : (s.storeBytes ws).posts = s.posts := (rfl)
@[simp] theorem State.storeBytes_dies (ws : List (Nat × Byte)) : (s.storeBytes ws).dies = s.dies := (rfl)
@[simp] theorem State.storeBytes_mailboxes (ws : List (Nat × Byte)) : (s.storeBytes ws).mailboxes = s.mailboxes := (rfl)
@[simp] theorem State.storeBytes_deltas (ws : List (Nat × Byte)) : (s.storeBytes ws).deltas = s.deltas := (rfl)
@[simp] theorem State.storeBytes_regions (ws : List (Nat × Byte)) : (s.storeBytes ws).regions = s.regions := (rfl)
@[simp] theorem State.storeBytes_spans (ws : List (Nat × Byte)) : (s.storeBytes ws).spans = s.spans := (rfl)
@[simp] theorem State.storeBytes_invals (ws : List (Nat × Byte)) : (s.storeBytes ws).invals = s.invals := (rfl)
@[simp] theorem State.storeBytes_watch (ws : List (Nat × Byte)) : (s.storeBytes ws).watch = s.watch := (rfl)
@[simp] theorem State.storeBytes_train (ws : List (Nat × Byte)) : (s.storeBytes ws).train = s.train := (rfl)
@[simp] theorem State.storeBytes_rope (ws : List (Nat × Byte)) : (s.storeBytes ws).rope = s.rope := (rfl)
@[simp] theorem State.storeBytes_dict (ws : List (Nat × Byte)) : (s.storeBytes ws).dict = s.dict := (rfl)
@[simp] theorem State.storeBytes_faults (ws : List (Nat × Byte)) : (s.storeBytes ws).faults = s.faults := (rfl)
@[simp] theorem State.storeBytes_job (ws : List (Nat × Byte)) : (s.storeBytes ws).job = s.job := (rfl)
@[simp] theorem State.storeBytes_host (ws : List (Nat × Byte)) : (s.storeBytes ws).host = s.host := (rfl)
@[simp] theorem State.storeBytes_supply (ws : List (Nat × Byte)) : (s.storeBytes ws).supply = s.supply := (rfl)
@[simp] theorem State.storeBytes_memctl (ws : List (Nat × Byte)) : (s.storeBytes ws).memctl = s.memctl := (rfl)
@[simp] theorem State.storeBytes_boot (ws : List (Nat × Byte)) : (s.storeBytes ws).boot = s.boot := (rfl)

/-! ### setCore -/

@[simp] theorem State.setCore_pending (c : Nat) (x : CoreSt) : (s.setCore c x).pending = s.pending := (rfl)
@[simp] theorem State.setCore_out (c : Nat) (x : CoreSt) : (s.setCore c x).out = s.out := (rfl)
@[simp] theorem State.setCore_hall (c : Nat) (x : CoreSt) : (s.setCore c x).hall = s.hall := (rfl)
@[simp] theorem State.setCore_drawn (c : Nat) (x : CoreSt) : (s.setCore c x).drawn = s.drawn := (rfl)
@[simp] theorem State.setCore_down (c : Nat) (x : CoreSt) : (s.setCore c x).down = s.down := (rfl)
@[simp] theorem State.setCore_time (c : Nat) (x : CoreSt) : (s.setCore c x).time = s.time := (rfl)
@[simp] theorem State.setCore_tt (c : Nat) (x : CoreSt) : (s.setCore c x).tt = s.tt := (rfl)
@[simp] theorem State.setCore_hold (c : Nat) (x : CoreSt) : (s.setCore c x).hold = s.hold := (rfl)
@[simp] theorem State.setCore_links (c : Nat) (x : CoreSt) : (s.setCore c x).links = s.links := (rfl)
@[simp] theorem State.setCore_fabric (c : Nat) (x : CoreSt) : (s.setCore c x).fabric = s.fabric := (rfl)
@[simp] theorem State.setCore_mem (c : Nat) (x : CoreSt) : (s.setCore c x).mem = s.mem := (rfl)
@[simp] theorem State.setCore_poison (c : Nat) (x : CoreSt) : (s.setCore c x).poison = s.poison := (rfl)
@[simp] theorem State.setCore_stores (c : Nat) (x : CoreSt) : (s.setCore c x).stores = s.stores := (rfl)
@[simp] theorem State.setCore_maps (c : Nat) (x : CoreSt) : (s.setCore c x).maps = s.maps := (rfl)
@[simp] theorem State.setCore_imem (c : Nat) (x : CoreSt) : (s.setCore c x).imem = s.imem := (rfl)
@[simp] theorem State.setCore_accs (c : Nat) (x : CoreSt) : (s.setCore c x).accs = s.accs := (rfl)
@[simp] theorem State.setCore_ctxs (c : Nat) (x : CoreSt) : (s.setCore c x).ctxs = s.ctxs := (rfl)
@[simp] theorem State.setCore_sems (c : Nat) (x : CoreSt) : (s.setCore c x).sems = s.sems := (rfl)
@[simp] theorem State.setCore_movers (c : Nat) (x : CoreSt) : (s.setCore c x).movers = s.movers := (rfl)
@[simp] theorem State.setCore_posts (c : Nat) (x : CoreSt) : (s.setCore c x).posts = s.posts := (rfl)
@[simp] theorem State.setCore_dies (c : Nat) (x : CoreSt) : (s.setCore c x).dies = s.dies := (rfl)
@[simp] theorem State.setCore_mailboxes (c : Nat) (x : CoreSt) : (s.setCore c x).mailboxes = s.mailboxes := (rfl)
@[simp] theorem State.setCore_deltas (c : Nat) (x : CoreSt) : (s.setCore c x).deltas = s.deltas := (rfl)
@[simp] theorem State.setCore_regions (c : Nat) (x : CoreSt) : (s.setCore c x).regions = s.regions := (rfl)
@[simp] theorem State.setCore_spans (c : Nat) (x : CoreSt) : (s.setCore c x).spans = s.spans := (rfl)
@[simp] theorem State.setCore_invals (c : Nat) (x : CoreSt) : (s.setCore c x).invals = s.invals := (rfl)
@[simp] theorem State.setCore_watch (c : Nat) (x : CoreSt) : (s.setCore c x).watch = s.watch := (rfl)
@[simp] theorem State.setCore_train (c : Nat) (x : CoreSt) : (s.setCore c x).train = s.train := (rfl)
@[simp] theorem State.setCore_rope (c : Nat) (x : CoreSt) : (s.setCore c x).rope = s.rope := (rfl)
@[simp] theorem State.setCore_dict (c : Nat) (x : CoreSt) : (s.setCore c x).dict = s.dict := (rfl)
@[simp] theorem State.setCore_faults (c : Nat) (x : CoreSt) : (s.setCore c x).faults = s.faults := (rfl)
@[simp] theorem State.setCore_job (c : Nat) (x : CoreSt) : (s.setCore c x).job = s.job := (rfl)
@[simp] theorem State.setCore_host (c : Nat) (x : CoreSt) : (s.setCore c x).host = s.host := (rfl)
@[simp] theorem State.setCore_supply (c : Nat) (x : CoreSt) : (s.setCore c x).supply = s.supply := (rfl)
@[simp] theorem State.setCore_memctl (c : Nat) (x : CoreSt) : (s.setCore c x).memctl = s.memctl := (rfl)
@[simp] theorem State.setCore_boot (c : Nat) (x : CoreSt) : (s.setCore c x).boot = s.boot := (rfl)

/-! ### mapCore -/

@[simp] theorem State.mapCore_pending (c : Nat) (f : CoreSt → CoreSt) : (s.mapCore c f).pending = s.pending := (rfl)
@[simp] theorem State.mapCore_out (c : Nat) (f : CoreSt → CoreSt) : (s.mapCore c f).out = s.out := (rfl)
@[simp] theorem State.mapCore_hall (c : Nat) (f : CoreSt → CoreSt) : (s.mapCore c f).hall = s.hall := (rfl)
@[simp] theorem State.mapCore_drawn (c : Nat) (f : CoreSt → CoreSt) : (s.mapCore c f).drawn = s.drawn := (rfl)
@[simp] theorem State.mapCore_down (c : Nat) (f : CoreSt → CoreSt) : (s.mapCore c f).down = s.down := (rfl)
@[simp] theorem State.mapCore_time (c : Nat) (f : CoreSt → CoreSt) : (s.mapCore c f).time = s.time := (rfl)
@[simp] theorem State.mapCore_tt (c : Nat) (f : CoreSt → CoreSt) : (s.mapCore c f).tt = s.tt := (rfl)
@[simp] theorem State.mapCore_hold (c : Nat) (f : CoreSt → CoreSt) : (s.mapCore c f).hold = s.hold := (rfl)
@[simp] theorem State.mapCore_links (c : Nat) (f : CoreSt → CoreSt) : (s.mapCore c f).links = s.links := (rfl)
@[simp] theorem State.mapCore_fabric (c : Nat) (f : CoreSt → CoreSt) : (s.mapCore c f).fabric = s.fabric := (rfl)
@[simp] theorem State.mapCore_mem (c : Nat) (f : CoreSt → CoreSt) : (s.mapCore c f).mem = s.mem := (rfl)
@[simp] theorem State.mapCore_poison (c : Nat) (f : CoreSt → CoreSt) : (s.mapCore c f).poison = s.poison := (rfl)
@[simp] theorem State.mapCore_stores (c : Nat) (f : CoreSt → CoreSt) : (s.mapCore c f).stores = s.stores := (rfl)
@[simp] theorem State.mapCore_maps (c : Nat) (f : CoreSt → CoreSt) : (s.mapCore c f).maps = s.maps := (rfl)
@[simp] theorem State.mapCore_imem (c : Nat) (f : CoreSt → CoreSt) : (s.mapCore c f).imem = s.imem := (rfl)
@[simp] theorem State.mapCore_accs (c : Nat) (f : CoreSt → CoreSt) : (s.mapCore c f).accs = s.accs := (rfl)
@[simp] theorem State.mapCore_ctxs (c : Nat) (f : CoreSt → CoreSt) : (s.mapCore c f).ctxs = s.ctxs := (rfl)
@[simp] theorem State.mapCore_sems (c : Nat) (f : CoreSt → CoreSt) : (s.mapCore c f).sems = s.sems := (rfl)
@[simp] theorem State.mapCore_movers (c : Nat) (f : CoreSt → CoreSt) : (s.mapCore c f).movers = s.movers := (rfl)
@[simp] theorem State.mapCore_posts (c : Nat) (f : CoreSt → CoreSt) : (s.mapCore c f).posts = s.posts := (rfl)
@[simp] theorem State.mapCore_dies (c : Nat) (f : CoreSt → CoreSt) : (s.mapCore c f).dies = s.dies := (rfl)
@[simp] theorem State.mapCore_mailboxes (c : Nat) (f : CoreSt → CoreSt) : (s.mapCore c f).mailboxes = s.mailboxes := (rfl)
@[simp] theorem State.mapCore_deltas (c : Nat) (f : CoreSt → CoreSt) : (s.mapCore c f).deltas = s.deltas := (rfl)
@[simp] theorem State.mapCore_regions (c : Nat) (f : CoreSt → CoreSt) : (s.mapCore c f).regions = s.regions := (rfl)
@[simp] theorem State.mapCore_spans (c : Nat) (f : CoreSt → CoreSt) : (s.mapCore c f).spans = s.spans := (rfl)
@[simp] theorem State.mapCore_invals (c : Nat) (f : CoreSt → CoreSt) : (s.mapCore c f).invals = s.invals := (rfl)
@[simp] theorem State.mapCore_watch (c : Nat) (f : CoreSt → CoreSt) : (s.mapCore c f).watch = s.watch := (rfl)
@[simp] theorem State.mapCore_train (c : Nat) (f : CoreSt → CoreSt) : (s.mapCore c f).train = s.train := (rfl)
@[simp] theorem State.mapCore_rope (c : Nat) (f : CoreSt → CoreSt) : (s.mapCore c f).rope = s.rope := (rfl)
@[simp] theorem State.mapCore_dict (c : Nat) (f : CoreSt → CoreSt) : (s.mapCore c f).dict = s.dict := (rfl)
@[simp] theorem State.mapCore_faults (c : Nat) (f : CoreSt → CoreSt) : (s.mapCore c f).faults = s.faults := (rfl)
@[simp] theorem State.mapCore_job (c : Nat) (f : CoreSt → CoreSt) : (s.mapCore c f).job = s.job := (rfl)
@[simp] theorem State.mapCore_host (c : Nat) (f : CoreSt → CoreSt) : (s.mapCore c f).host = s.host := (rfl)
@[simp] theorem State.mapCore_supply (c : Nat) (f : CoreSt → CoreSt) : (s.mapCore c f).supply = s.supply := (rfl)
@[simp] theorem State.mapCore_memctl (c : Nat) (f : CoreSt → CoreSt) : (s.mapCore c f).memctl = s.memctl := (rfl)
@[simp] theorem State.mapCore_boot (c : Nat) (f : CoreSt → CoreSt) : (s.mapCore c f).boot = s.boot := (rfl)

/-! ### setCtx -/

@[simp] theorem State.setCtx_pending (c x : Nat) (v : CtxSt) : (s.setCtx c x v).pending = s.pending := (rfl)
@[simp] theorem State.setCtx_out (c x : Nat) (v : CtxSt) : (s.setCtx c x v).out = s.out := (rfl)
@[simp] theorem State.setCtx_hall (c x : Nat) (v : CtxSt) : (s.setCtx c x v).hall = s.hall := (rfl)
@[simp] theorem State.setCtx_drawn (c x : Nat) (v : CtxSt) : (s.setCtx c x v).drawn = s.drawn := (rfl)
@[simp] theorem State.setCtx_down (c x : Nat) (v : CtxSt) : (s.setCtx c x v).down = s.down := (rfl)
@[simp] theorem State.setCtx_time (c x : Nat) (v : CtxSt) : (s.setCtx c x v).time = s.time := (rfl)
@[simp] theorem State.setCtx_tt (c x : Nat) (v : CtxSt) : (s.setCtx c x v).tt = s.tt := (rfl)
@[simp] theorem State.setCtx_hold (c x : Nat) (v : CtxSt) : (s.setCtx c x v).hold = s.hold := (rfl)
@[simp] theorem State.setCtx_links (c x : Nat) (v : CtxSt) : (s.setCtx c x v).links = s.links := (rfl)
@[simp] theorem State.setCtx_fabric (c x : Nat) (v : CtxSt) : (s.setCtx c x v).fabric = s.fabric := (rfl)
@[simp] theorem State.setCtx_mem (c x : Nat) (v : CtxSt) : (s.setCtx c x v).mem = s.mem := (rfl)
@[simp] theorem State.setCtx_poison (c x : Nat) (v : CtxSt) : (s.setCtx c x v).poison = s.poison := (rfl)
@[simp] theorem State.setCtx_stores (c x : Nat) (v : CtxSt) : (s.setCtx c x v).stores = s.stores := (rfl)
@[simp] theorem State.setCtx_maps (c x : Nat) (v : CtxSt) : (s.setCtx c x v).maps = s.maps := (rfl)
@[simp] theorem State.setCtx_imem (c x : Nat) (v : CtxSt) : (s.setCtx c x v).imem = s.imem := (rfl)
@[simp] theorem State.setCtx_accs (c x : Nat) (v : CtxSt) : (s.setCtx c x v).accs = s.accs := (rfl)
@[simp] theorem State.setCtx_cores (c x : Nat) (v : CtxSt) : (s.setCtx c x v).cores = s.cores := (rfl)
@[simp] theorem State.setCtx_sems (c x : Nat) (v : CtxSt) : (s.setCtx c x v).sems = s.sems := (rfl)
@[simp] theorem State.setCtx_movers (c x : Nat) (v : CtxSt) : (s.setCtx c x v).movers = s.movers := (rfl)
@[simp] theorem State.setCtx_posts (c x : Nat) (v : CtxSt) : (s.setCtx c x v).posts = s.posts := (rfl)
@[simp] theorem State.setCtx_dies (c x : Nat) (v : CtxSt) : (s.setCtx c x v).dies = s.dies := (rfl)
@[simp] theorem State.setCtx_mailboxes (c x : Nat) (v : CtxSt) : (s.setCtx c x v).mailboxes = s.mailboxes := (rfl)
@[simp] theorem State.setCtx_deltas (c x : Nat) (v : CtxSt) : (s.setCtx c x v).deltas = s.deltas := (rfl)
@[simp] theorem State.setCtx_regions (c x : Nat) (v : CtxSt) : (s.setCtx c x v).regions = s.regions := (rfl)
@[simp] theorem State.setCtx_spans (c x : Nat) (v : CtxSt) : (s.setCtx c x v).spans = s.spans := (rfl)
@[simp] theorem State.setCtx_invals (c x : Nat) (v : CtxSt) : (s.setCtx c x v).invals = s.invals := (rfl)
@[simp] theorem State.setCtx_watch (c x : Nat) (v : CtxSt) : (s.setCtx c x v).watch = s.watch := (rfl)
@[simp] theorem State.setCtx_train (c x : Nat) (v : CtxSt) : (s.setCtx c x v).train = s.train := (rfl)
@[simp] theorem State.setCtx_rope (c x : Nat) (v : CtxSt) : (s.setCtx c x v).rope = s.rope := (rfl)
@[simp] theorem State.setCtx_dict (c x : Nat) (v : CtxSt) : (s.setCtx c x v).dict = s.dict := (rfl)
@[simp] theorem State.setCtx_faults (c x : Nat) (v : CtxSt) : (s.setCtx c x v).faults = s.faults := (rfl)
@[simp] theorem State.setCtx_job (c x : Nat) (v : CtxSt) : (s.setCtx c x v).job = s.job := (rfl)
@[simp] theorem State.setCtx_host (c x : Nat) (v : CtxSt) : (s.setCtx c x v).host = s.host := (rfl)
@[simp] theorem State.setCtx_supply (c x : Nat) (v : CtxSt) : (s.setCtx c x v).supply = s.supply := (rfl)
@[simp] theorem State.setCtx_memctl (c x : Nat) (v : CtxSt) : (s.setCtx c x v).memctl = s.memctl := (rfl)
@[simp] theorem State.setCtx_boot (c x : Nat) (v : CtxSt) : (s.setCtx c x v).boot = s.boot := (rfl)

/-! ### mapCtx -/

@[simp] theorem State.mapCtx_pending (c x : Nat) (f : CtxSt → CtxSt) : (s.mapCtx c x f).pending = s.pending := (rfl)
@[simp] theorem State.mapCtx_out (c x : Nat) (f : CtxSt → CtxSt) : (s.mapCtx c x f).out = s.out := (rfl)
@[simp] theorem State.mapCtx_hall (c x : Nat) (f : CtxSt → CtxSt) : (s.mapCtx c x f).hall = s.hall := (rfl)
@[simp] theorem State.mapCtx_drawn (c x : Nat) (f : CtxSt → CtxSt) : (s.mapCtx c x f).drawn = s.drawn := (rfl)
@[simp] theorem State.mapCtx_down (c x : Nat) (f : CtxSt → CtxSt) : (s.mapCtx c x f).down = s.down := (rfl)
@[simp] theorem State.mapCtx_time (c x : Nat) (f : CtxSt → CtxSt) : (s.mapCtx c x f).time = s.time := (rfl)
@[simp] theorem State.mapCtx_tt (c x : Nat) (f : CtxSt → CtxSt) : (s.mapCtx c x f).tt = s.tt := (rfl)
@[simp] theorem State.mapCtx_hold (c x : Nat) (f : CtxSt → CtxSt) : (s.mapCtx c x f).hold = s.hold := (rfl)
@[simp] theorem State.mapCtx_links (c x : Nat) (f : CtxSt → CtxSt) : (s.mapCtx c x f).links = s.links := (rfl)
@[simp] theorem State.mapCtx_fabric (c x : Nat) (f : CtxSt → CtxSt) : (s.mapCtx c x f).fabric = s.fabric := (rfl)
@[simp] theorem State.mapCtx_mem (c x : Nat) (f : CtxSt → CtxSt) : (s.mapCtx c x f).mem = s.mem := (rfl)
@[simp] theorem State.mapCtx_poison (c x : Nat) (f : CtxSt → CtxSt) : (s.mapCtx c x f).poison = s.poison := (rfl)
@[simp] theorem State.mapCtx_stores (c x : Nat) (f : CtxSt → CtxSt) : (s.mapCtx c x f).stores = s.stores := (rfl)
@[simp] theorem State.mapCtx_maps (c x : Nat) (f : CtxSt → CtxSt) : (s.mapCtx c x f).maps = s.maps := (rfl)
@[simp] theorem State.mapCtx_imem (c x : Nat) (f : CtxSt → CtxSt) : (s.mapCtx c x f).imem = s.imem := (rfl)
@[simp] theorem State.mapCtx_accs (c x : Nat) (f : CtxSt → CtxSt) : (s.mapCtx c x f).accs = s.accs := (rfl)
@[simp] theorem State.mapCtx_cores (c x : Nat) (f : CtxSt → CtxSt) : (s.mapCtx c x f).cores = s.cores := (rfl)
@[simp] theorem State.mapCtx_sems (c x : Nat) (f : CtxSt → CtxSt) : (s.mapCtx c x f).sems = s.sems := (rfl)
@[simp] theorem State.mapCtx_movers (c x : Nat) (f : CtxSt → CtxSt) : (s.mapCtx c x f).movers = s.movers := (rfl)
@[simp] theorem State.mapCtx_posts (c x : Nat) (f : CtxSt → CtxSt) : (s.mapCtx c x f).posts = s.posts := (rfl)
@[simp] theorem State.mapCtx_dies (c x : Nat) (f : CtxSt → CtxSt) : (s.mapCtx c x f).dies = s.dies := (rfl)
@[simp] theorem State.mapCtx_mailboxes (c x : Nat) (f : CtxSt → CtxSt) : (s.mapCtx c x f).mailboxes = s.mailboxes := (rfl)
@[simp] theorem State.mapCtx_deltas (c x : Nat) (f : CtxSt → CtxSt) : (s.mapCtx c x f).deltas = s.deltas := (rfl)
@[simp] theorem State.mapCtx_regions (c x : Nat) (f : CtxSt → CtxSt) : (s.mapCtx c x f).regions = s.regions := (rfl)
@[simp] theorem State.mapCtx_spans (c x : Nat) (f : CtxSt → CtxSt) : (s.mapCtx c x f).spans = s.spans := (rfl)
@[simp] theorem State.mapCtx_invals (c x : Nat) (f : CtxSt → CtxSt) : (s.mapCtx c x f).invals = s.invals := (rfl)
@[simp] theorem State.mapCtx_watch (c x : Nat) (f : CtxSt → CtxSt) : (s.mapCtx c x f).watch = s.watch := (rfl)
@[simp] theorem State.mapCtx_train (c x : Nat) (f : CtxSt → CtxSt) : (s.mapCtx c x f).train = s.train := (rfl)
@[simp] theorem State.mapCtx_rope (c x : Nat) (f : CtxSt → CtxSt) : (s.mapCtx c x f).rope = s.rope := (rfl)
@[simp] theorem State.mapCtx_dict (c x : Nat) (f : CtxSt → CtxSt) : (s.mapCtx c x f).dict = s.dict := (rfl)
@[simp] theorem State.mapCtx_faults (c x : Nat) (f : CtxSt → CtxSt) : (s.mapCtx c x f).faults = s.faults := (rfl)
@[simp] theorem State.mapCtx_job (c x : Nat) (f : CtxSt → CtxSt) : (s.mapCtx c x f).job = s.job := (rfl)
@[simp] theorem State.mapCtx_host (c x : Nat) (f : CtxSt → CtxSt) : (s.mapCtx c x f).host = s.host := (rfl)
@[simp] theorem State.mapCtx_supply (c x : Nat) (f : CtxSt → CtxSt) : (s.mapCtx c x f).supply = s.supply := (rfl)
@[simp] theorem State.mapCtx_memctl (c x : Nat) (f : CtxSt → CtxSt) : (s.mapCtx c x f).memctl = s.memctl := (rfl)
@[simp] theorem State.mapCtx_boot (c x : Nat) (f : CtxSt → CtxSt) : (s.mapCtx c x f).boot = s.boot := (rfl)

/-! ### setSem -/

@[simp] theorem State.setSem_pending (c n : Nat) (v : SemSt) : (s.setSem c n v).pending = s.pending := (rfl)
@[simp] theorem State.setSem_out (c n : Nat) (v : SemSt) : (s.setSem c n v).out = s.out := (rfl)
@[simp] theorem State.setSem_hall (c n : Nat) (v : SemSt) : (s.setSem c n v).hall = s.hall := (rfl)
@[simp] theorem State.setSem_drawn (c n : Nat) (v : SemSt) : (s.setSem c n v).drawn = s.drawn := (rfl)
@[simp] theorem State.setSem_down (c n : Nat) (v : SemSt) : (s.setSem c n v).down = s.down := (rfl)
@[simp] theorem State.setSem_time (c n : Nat) (v : SemSt) : (s.setSem c n v).time = s.time := (rfl)
@[simp] theorem State.setSem_tt (c n : Nat) (v : SemSt) : (s.setSem c n v).tt = s.tt := (rfl)
@[simp] theorem State.setSem_hold (c n : Nat) (v : SemSt) : (s.setSem c n v).hold = s.hold := (rfl)
@[simp] theorem State.setSem_links (c n : Nat) (v : SemSt) : (s.setSem c n v).links = s.links := (rfl)
@[simp] theorem State.setSem_fabric (c n : Nat) (v : SemSt) : (s.setSem c n v).fabric = s.fabric := (rfl)
@[simp] theorem State.setSem_mem (c n : Nat) (v : SemSt) : (s.setSem c n v).mem = s.mem := (rfl)
@[simp] theorem State.setSem_poison (c n : Nat) (v : SemSt) : (s.setSem c n v).poison = s.poison := (rfl)
@[simp] theorem State.setSem_stores (c n : Nat) (v : SemSt) : (s.setSem c n v).stores = s.stores := (rfl)
@[simp] theorem State.setSem_maps (c n : Nat) (v : SemSt) : (s.setSem c n v).maps = s.maps := (rfl)
@[simp] theorem State.setSem_imem (c n : Nat) (v : SemSt) : (s.setSem c n v).imem = s.imem := (rfl)
@[simp] theorem State.setSem_accs (c n : Nat) (v : SemSt) : (s.setSem c n v).accs = s.accs := (rfl)
@[simp] theorem State.setSem_cores (c n : Nat) (v : SemSt) : (s.setSem c n v).cores = s.cores := (rfl)
@[simp] theorem State.setSem_ctxs (c n : Nat) (v : SemSt) : (s.setSem c n v).ctxs = s.ctxs := (rfl)
@[simp] theorem State.setSem_movers (c n : Nat) (v : SemSt) : (s.setSem c n v).movers = s.movers := (rfl)
@[simp] theorem State.setSem_posts (c n : Nat) (v : SemSt) : (s.setSem c n v).posts = s.posts := (rfl)
@[simp] theorem State.setSem_dies (c n : Nat) (v : SemSt) : (s.setSem c n v).dies = s.dies := (rfl)
@[simp] theorem State.setSem_mailboxes (c n : Nat) (v : SemSt) : (s.setSem c n v).mailboxes = s.mailboxes := (rfl)
@[simp] theorem State.setSem_deltas (c n : Nat) (v : SemSt) : (s.setSem c n v).deltas = s.deltas := (rfl)
@[simp] theorem State.setSem_regions (c n : Nat) (v : SemSt) : (s.setSem c n v).regions = s.regions := (rfl)
@[simp] theorem State.setSem_spans (c n : Nat) (v : SemSt) : (s.setSem c n v).spans = s.spans := (rfl)
@[simp] theorem State.setSem_invals (c n : Nat) (v : SemSt) : (s.setSem c n v).invals = s.invals := (rfl)
@[simp] theorem State.setSem_watch (c n : Nat) (v : SemSt) : (s.setSem c n v).watch = s.watch := (rfl)
@[simp] theorem State.setSem_train (c n : Nat) (v : SemSt) : (s.setSem c n v).train = s.train := (rfl)
@[simp] theorem State.setSem_rope (c n : Nat) (v : SemSt) : (s.setSem c n v).rope = s.rope := (rfl)
@[simp] theorem State.setSem_dict (c n : Nat) (v : SemSt) : (s.setSem c n v).dict = s.dict := (rfl)
@[simp] theorem State.setSem_faults (c n : Nat) (v : SemSt) : (s.setSem c n v).faults = s.faults := (rfl)
@[simp] theorem State.setSem_job (c n : Nat) (v : SemSt) : (s.setSem c n v).job = s.job := (rfl)
@[simp] theorem State.setSem_host (c n : Nat) (v : SemSt) : (s.setSem c n v).host = s.host := (rfl)
@[simp] theorem State.setSem_supply (c n : Nat) (v : SemSt) : (s.setSem c n v).supply = s.supply := (rfl)
@[simp] theorem State.setSem_memctl (c n : Nat) (v : SemSt) : (s.setSem c n v).memctl = s.memctl := (rfl)
@[simp] theorem State.setSem_boot (c n : Nat) (v : SemSt) : (s.setSem c n v).boot = s.boot := (rfl)

/-! ### setMover -/

@[simp] theorem State.setMover_pending (m : Nat) (v : MoverSt) : (s.setMover m v).pending = s.pending := (rfl)
@[simp] theorem State.setMover_out (m : Nat) (v : MoverSt) : (s.setMover m v).out = s.out := (rfl)
@[simp] theorem State.setMover_hall (m : Nat) (v : MoverSt) : (s.setMover m v).hall = s.hall := (rfl)
@[simp] theorem State.setMover_drawn (m : Nat) (v : MoverSt) : (s.setMover m v).drawn = s.drawn := (rfl)
@[simp] theorem State.setMover_down (m : Nat) (v : MoverSt) : (s.setMover m v).down = s.down := (rfl)
@[simp] theorem State.setMover_time (m : Nat) (v : MoverSt) : (s.setMover m v).time = s.time := (rfl)
@[simp] theorem State.setMover_tt (m : Nat) (v : MoverSt) : (s.setMover m v).tt = s.tt := (rfl)
@[simp] theorem State.setMover_hold (m : Nat) (v : MoverSt) : (s.setMover m v).hold = s.hold := (rfl)
@[simp] theorem State.setMover_links (m : Nat) (v : MoverSt) : (s.setMover m v).links = s.links := (rfl)
@[simp] theorem State.setMover_fabric (m : Nat) (v : MoverSt) : (s.setMover m v).fabric = s.fabric := (rfl)
@[simp] theorem State.setMover_mem (m : Nat) (v : MoverSt) : (s.setMover m v).mem = s.mem := (rfl)
@[simp] theorem State.setMover_poison (m : Nat) (v : MoverSt) : (s.setMover m v).poison = s.poison := (rfl)
@[simp] theorem State.setMover_stores (m : Nat) (v : MoverSt) : (s.setMover m v).stores = s.stores := (rfl)
@[simp] theorem State.setMover_maps (m : Nat) (v : MoverSt) : (s.setMover m v).maps = s.maps := (rfl)
@[simp] theorem State.setMover_imem (m : Nat) (v : MoverSt) : (s.setMover m v).imem = s.imem := (rfl)
@[simp] theorem State.setMover_accs (m : Nat) (v : MoverSt) : (s.setMover m v).accs = s.accs := (rfl)
@[simp] theorem State.setMover_cores (m : Nat) (v : MoverSt) : (s.setMover m v).cores = s.cores := (rfl)
@[simp] theorem State.setMover_ctxs (m : Nat) (v : MoverSt) : (s.setMover m v).ctxs = s.ctxs := (rfl)
@[simp] theorem State.setMover_sems (m : Nat) (v : MoverSt) : (s.setMover m v).sems = s.sems := (rfl)
@[simp] theorem State.setMover_posts (m : Nat) (v : MoverSt) : (s.setMover m v).posts = s.posts := (rfl)
@[simp] theorem State.setMover_dies (m : Nat) (v : MoverSt) : (s.setMover m v).dies = s.dies := (rfl)
@[simp] theorem State.setMover_mailboxes (m : Nat) (v : MoverSt) : (s.setMover m v).mailboxes = s.mailboxes := (rfl)
@[simp] theorem State.setMover_deltas (m : Nat) (v : MoverSt) : (s.setMover m v).deltas = s.deltas := (rfl)
@[simp] theorem State.setMover_regions (m : Nat) (v : MoverSt) : (s.setMover m v).regions = s.regions := (rfl)
@[simp] theorem State.setMover_spans (m : Nat) (v : MoverSt) : (s.setMover m v).spans = s.spans := (rfl)
@[simp] theorem State.setMover_invals (m : Nat) (v : MoverSt) : (s.setMover m v).invals = s.invals := (rfl)
@[simp] theorem State.setMover_watch (m : Nat) (v : MoverSt) : (s.setMover m v).watch = s.watch := (rfl)
@[simp] theorem State.setMover_train (m : Nat) (v : MoverSt) : (s.setMover m v).train = s.train := (rfl)
@[simp] theorem State.setMover_rope (m : Nat) (v : MoverSt) : (s.setMover m v).rope = s.rope := (rfl)
@[simp] theorem State.setMover_dict (m : Nat) (v : MoverSt) : (s.setMover m v).dict = s.dict := (rfl)
@[simp] theorem State.setMover_faults (m : Nat) (v : MoverSt) : (s.setMover m v).faults = s.faults := (rfl)
@[simp] theorem State.setMover_job (m : Nat) (v : MoverSt) : (s.setMover m v).job = s.job := (rfl)
@[simp] theorem State.setMover_host (m : Nat) (v : MoverSt) : (s.setMover m v).host = s.host := (rfl)
@[simp] theorem State.setMover_supply (m : Nat) (v : MoverSt) : (s.setMover m v).supply = s.supply := (rfl)
@[simp] theorem State.setMover_memctl (m : Nat) (v : MoverSt) : (s.setMover m v).memctl = s.memctl := (rfl)
@[simp] theorem State.setMover_boot (m : Nat) (v : MoverSt) : (s.setMover m v).boot = s.boot := (rfl)

/-! ### setLink -/

@[simp] theorem State.setLink_pending (l : Nat) (v : LinkSt) : (s.setLink l v).pending = s.pending := (rfl)
@[simp] theorem State.setLink_out (l : Nat) (v : LinkSt) : (s.setLink l v).out = s.out := (rfl)
@[simp] theorem State.setLink_hall (l : Nat) (v : LinkSt) : (s.setLink l v).hall = s.hall := (rfl)
@[simp] theorem State.setLink_drawn (l : Nat) (v : LinkSt) : (s.setLink l v).drawn = s.drawn := (rfl)
@[simp] theorem State.setLink_down (l : Nat) (v : LinkSt) : (s.setLink l v).down = s.down := (rfl)
@[simp] theorem State.setLink_time (l : Nat) (v : LinkSt) : (s.setLink l v).time = s.time := (rfl)
@[simp] theorem State.setLink_tt (l : Nat) (v : LinkSt) : (s.setLink l v).tt = s.tt := (rfl)
@[simp] theorem State.setLink_hold (l : Nat) (v : LinkSt) : (s.setLink l v).hold = s.hold := (rfl)
@[simp] theorem State.setLink_fabric (l : Nat) (v : LinkSt) : (s.setLink l v).fabric = s.fabric := (rfl)
@[simp] theorem State.setLink_mem (l : Nat) (v : LinkSt) : (s.setLink l v).mem = s.mem := (rfl)
@[simp] theorem State.setLink_poison (l : Nat) (v : LinkSt) : (s.setLink l v).poison = s.poison := (rfl)
@[simp] theorem State.setLink_stores (l : Nat) (v : LinkSt) : (s.setLink l v).stores = s.stores := (rfl)
@[simp] theorem State.setLink_maps (l : Nat) (v : LinkSt) : (s.setLink l v).maps = s.maps := (rfl)
@[simp] theorem State.setLink_imem (l : Nat) (v : LinkSt) : (s.setLink l v).imem = s.imem := (rfl)
@[simp] theorem State.setLink_accs (l : Nat) (v : LinkSt) : (s.setLink l v).accs = s.accs := (rfl)
@[simp] theorem State.setLink_cores (l : Nat) (v : LinkSt) : (s.setLink l v).cores = s.cores := (rfl)
@[simp] theorem State.setLink_ctxs (l : Nat) (v : LinkSt) : (s.setLink l v).ctxs = s.ctxs := (rfl)
@[simp] theorem State.setLink_sems (l : Nat) (v : LinkSt) : (s.setLink l v).sems = s.sems := (rfl)
@[simp] theorem State.setLink_movers (l : Nat) (v : LinkSt) : (s.setLink l v).movers = s.movers := (rfl)
@[simp] theorem State.setLink_posts (l : Nat) (v : LinkSt) : (s.setLink l v).posts = s.posts := (rfl)
@[simp] theorem State.setLink_dies (l : Nat) (v : LinkSt) : (s.setLink l v).dies = s.dies := (rfl)
@[simp] theorem State.setLink_mailboxes (l : Nat) (v : LinkSt) : (s.setLink l v).mailboxes = s.mailboxes := (rfl)
@[simp] theorem State.setLink_deltas (l : Nat) (v : LinkSt) : (s.setLink l v).deltas = s.deltas := (rfl)
@[simp] theorem State.setLink_regions (l : Nat) (v : LinkSt) : (s.setLink l v).regions = s.regions := (rfl)
@[simp] theorem State.setLink_spans (l : Nat) (v : LinkSt) : (s.setLink l v).spans = s.spans := (rfl)
@[simp] theorem State.setLink_invals (l : Nat) (v : LinkSt) : (s.setLink l v).invals = s.invals := (rfl)
@[simp] theorem State.setLink_watch (l : Nat) (v : LinkSt) : (s.setLink l v).watch = s.watch := (rfl)
@[simp] theorem State.setLink_train (l : Nat) (v : LinkSt) : (s.setLink l v).train = s.train := (rfl)
@[simp] theorem State.setLink_rope (l : Nat) (v : LinkSt) : (s.setLink l v).rope = s.rope := (rfl)
@[simp] theorem State.setLink_dict (l : Nat) (v : LinkSt) : (s.setLink l v).dict = s.dict := (rfl)
@[simp] theorem State.setLink_faults (l : Nat) (v : LinkSt) : (s.setLink l v).faults = s.faults := (rfl)
@[simp] theorem State.setLink_job (l : Nat) (v : LinkSt) : (s.setLink l v).job = s.job := (rfl)
@[simp] theorem State.setLink_host (l : Nat) (v : LinkSt) : (s.setLink l v).host = s.host := (rfl)
@[simp] theorem State.setLink_supply (l : Nat) (v : LinkSt) : (s.setLink l v).supply = s.supply := (rfl)
@[simp] theorem State.setLink_memctl (l : Nat) (v : LinkSt) : (s.setLink l v).memctl = s.memctl := (rfl)
@[simp] theorem State.setLink_boot (l : Nat) (v : LinkSt) : (s.setLink l v).boot = s.boot := (rfl)

/-! ### mapLink -/

@[simp] theorem State.mapLink_pending (l : Nat) (f : LinkSt → LinkSt) : (s.mapLink l f).pending = s.pending := (rfl)
@[simp] theorem State.mapLink_out (l : Nat) (f : LinkSt → LinkSt) : (s.mapLink l f).out = s.out := (rfl)
@[simp] theorem State.mapLink_hall (l : Nat) (f : LinkSt → LinkSt) : (s.mapLink l f).hall = s.hall := (rfl)
@[simp] theorem State.mapLink_drawn (l : Nat) (f : LinkSt → LinkSt) : (s.mapLink l f).drawn = s.drawn := (rfl)
@[simp] theorem State.mapLink_down (l : Nat) (f : LinkSt → LinkSt) : (s.mapLink l f).down = s.down := (rfl)
@[simp] theorem State.mapLink_time (l : Nat) (f : LinkSt → LinkSt) : (s.mapLink l f).time = s.time := (rfl)
@[simp] theorem State.mapLink_tt (l : Nat) (f : LinkSt → LinkSt) : (s.mapLink l f).tt = s.tt := (rfl)
@[simp] theorem State.mapLink_hold (l : Nat) (f : LinkSt → LinkSt) : (s.mapLink l f).hold = s.hold := (rfl)
@[simp] theorem State.mapLink_fabric (l : Nat) (f : LinkSt → LinkSt) : (s.mapLink l f).fabric = s.fabric := (rfl)
@[simp] theorem State.mapLink_mem (l : Nat) (f : LinkSt → LinkSt) : (s.mapLink l f).mem = s.mem := (rfl)
@[simp] theorem State.mapLink_poison (l : Nat) (f : LinkSt → LinkSt) : (s.mapLink l f).poison = s.poison := (rfl)
@[simp] theorem State.mapLink_stores (l : Nat) (f : LinkSt → LinkSt) : (s.mapLink l f).stores = s.stores := (rfl)
@[simp] theorem State.mapLink_maps (l : Nat) (f : LinkSt → LinkSt) : (s.mapLink l f).maps = s.maps := (rfl)
@[simp] theorem State.mapLink_imem (l : Nat) (f : LinkSt → LinkSt) : (s.mapLink l f).imem = s.imem := (rfl)
@[simp] theorem State.mapLink_accs (l : Nat) (f : LinkSt → LinkSt) : (s.mapLink l f).accs = s.accs := (rfl)
@[simp] theorem State.mapLink_cores (l : Nat) (f : LinkSt → LinkSt) : (s.mapLink l f).cores = s.cores := (rfl)
@[simp] theorem State.mapLink_ctxs (l : Nat) (f : LinkSt → LinkSt) : (s.mapLink l f).ctxs = s.ctxs := (rfl)
@[simp] theorem State.mapLink_sems (l : Nat) (f : LinkSt → LinkSt) : (s.mapLink l f).sems = s.sems := (rfl)
@[simp] theorem State.mapLink_movers (l : Nat) (f : LinkSt → LinkSt) : (s.mapLink l f).movers = s.movers := (rfl)
@[simp] theorem State.mapLink_posts (l : Nat) (f : LinkSt → LinkSt) : (s.mapLink l f).posts = s.posts := (rfl)
@[simp] theorem State.mapLink_dies (l : Nat) (f : LinkSt → LinkSt) : (s.mapLink l f).dies = s.dies := (rfl)
@[simp] theorem State.mapLink_mailboxes (l : Nat) (f : LinkSt → LinkSt) : (s.mapLink l f).mailboxes = s.mailboxes := (rfl)
@[simp] theorem State.mapLink_deltas (l : Nat) (f : LinkSt → LinkSt) : (s.mapLink l f).deltas = s.deltas := (rfl)
@[simp] theorem State.mapLink_regions (l : Nat) (f : LinkSt → LinkSt) : (s.mapLink l f).regions = s.regions := (rfl)
@[simp] theorem State.mapLink_spans (l : Nat) (f : LinkSt → LinkSt) : (s.mapLink l f).spans = s.spans := (rfl)
@[simp] theorem State.mapLink_invals (l : Nat) (f : LinkSt → LinkSt) : (s.mapLink l f).invals = s.invals := (rfl)
@[simp] theorem State.mapLink_watch (l : Nat) (f : LinkSt → LinkSt) : (s.mapLink l f).watch = s.watch := (rfl)
@[simp] theorem State.mapLink_train (l : Nat) (f : LinkSt → LinkSt) : (s.mapLink l f).train = s.train := (rfl)
@[simp] theorem State.mapLink_rope (l : Nat) (f : LinkSt → LinkSt) : (s.mapLink l f).rope = s.rope := (rfl)
@[simp] theorem State.mapLink_dict (l : Nat) (f : LinkSt → LinkSt) : (s.mapLink l f).dict = s.dict := (rfl)
@[simp] theorem State.mapLink_faults (l : Nat) (f : LinkSt → LinkSt) : (s.mapLink l f).faults = s.faults := (rfl)
@[simp] theorem State.mapLink_job (l : Nat) (f : LinkSt → LinkSt) : (s.mapLink l f).job = s.job := (rfl)
@[simp] theorem State.mapLink_host (l : Nat) (f : LinkSt → LinkSt) : (s.mapLink l f).host = s.host := (rfl)
@[simp] theorem State.mapLink_supply (l : Nat) (f : LinkSt → LinkSt) : (s.mapLink l f).supply = s.supply := (rfl)
@[simp] theorem State.mapLink_memctl (l : Nat) (f : LinkSt → LinkSt) : (s.mapLink l f).memctl = s.memctl := (rfl)
@[simp] theorem State.mapLink_boot (l : Nat) (f : LinkSt → LinkSt) : (s.mapLink l f).boot = s.boot := (rfl)

/-! ### setFlow -/

@[simp] theorem State.setFlow_pending (c : Nat) (v : Flow) : (s.setFlow c v).pending = s.pending := (rfl)
@[simp] theorem State.setFlow_out (c : Nat) (v : Flow) : (s.setFlow c v).out = s.out := (rfl)
@[simp] theorem State.setFlow_hall (c : Nat) (v : Flow) : (s.setFlow c v).hall = s.hall := (rfl)
@[simp] theorem State.setFlow_drawn (c : Nat) (v : Flow) : (s.setFlow c v).drawn = s.drawn := (rfl)
@[simp] theorem State.setFlow_down (c : Nat) (v : Flow) : (s.setFlow c v).down = s.down := (rfl)
@[simp] theorem State.setFlow_time (c : Nat) (v : Flow) : (s.setFlow c v).time = s.time := (rfl)
@[simp] theorem State.setFlow_tt (c : Nat) (v : Flow) : (s.setFlow c v).tt = s.tt := (rfl)
@[simp] theorem State.setFlow_hold (c : Nat) (v : Flow) : (s.setFlow c v).hold = s.hold := (rfl)
@[simp] theorem State.setFlow_links (c : Nat) (v : Flow) : (s.setFlow c v).links = s.links := (rfl)
@[simp] theorem State.setFlow_mem (c : Nat) (v : Flow) : (s.setFlow c v).mem = s.mem := (rfl)
@[simp] theorem State.setFlow_poison (c : Nat) (v : Flow) : (s.setFlow c v).poison = s.poison := (rfl)
@[simp] theorem State.setFlow_stores (c : Nat) (v : Flow) : (s.setFlow c v).stores = s.stores := (rfl)
@[simp] theorem State.setFlow_maps (c : Nat) (v : Flow) : (s.setFlow c v).maps = s.maps := (rfl)
@[simp] theorem State.setFlow_imem (c : Nat) (v : Flow) : (s.setFlow c v).imem = s.imem := (rfl)
@[simp] theorem State.setFlow_accs (c : Nat) (v : Flow) : (s.setFlow c v).accs = s.accs := (rfl)
@[simp] theorem State.setFlow_cores (c : Nat) (v : Flow) : (s.setFlow c v).cores = s.cores := (rfl)
@[simp] theorem State.setFlow_ctxs (c : Nat) (v : Flow) : (s.setFlow c v).ctxs = s.ctxs := (rfl)
@[simp] theorem State.setFlow_sems (c : Nat) (v : Flow) : (s.setFlow c v).sems = s.sems := (rfl)
@[simp] theorem State.setFlow_movers (c : Nat) (v : Flow) : (s.setFlow c v).movers = s.movers := (rfl)
@[simp] theorem State.setFlow_posts (c : Nat) (v : Flow) : (s.setFlow c v).posts = s.posts := (rfl)
@[simp] theorem State.setFlow_dies (c : Nat) (v : Flow) : (s.setFlow c v).dies = s.dies := (rfl)
@[simp] theorem State.setFlow_mailboxes (c : Nat) (v : Flow) : (s.setFlow c v).mailboxes = s.mailboxes := (rfl)
@[simp] theorem State.setFlow_deltas (c : Nat) (v : Flow) : (s.setFlow c v).deltas = s.deltas := (rfl)
@[simp] theorem State.setFlow_regions (c : Nat) (v : Flow) : (s.setFlow c v).regions = s.regions := (rfl)
@[simp] theorem State.setFlow_spans (c : Nat) (v : Flow) : (s.setFlow c v).spans = s.spans := (rfl)
@[simp] theorem State.setFlow_invals (c : Nat) (v : Flow) : (s.setFlow c v).invals = s.invals := (rfl)
@[simp] theorem State.setFlow_watch (c : Nat) (v : Flow) : (s.setFlow c v).watch = s.watch := (rfl)
@[simp] theorem State.setFlow_train (c : Nat) (v : Flow) : (s.setFlow c v).train = s.train := (rfl)
@[simp] theorem State.setFlow_rope (c : Nat) (v : Flow) : (s.setFlow c v).rope = s.rope := (rfl)
@[simp] theorem State.setFlow_dict (c : Nat) (v : Flow) : (s.setFlow c v).dict = s.dict := (rfl)
@[simp] theorem State.setFlow_faults (c : Nat) (v : Flow) : (s.setFlow c v).faults = s.faults := (rfl)
@[simp] theorem State.setFlow_job (c : Nat) (v : Flow) : (s.setFlow c v).job = s.job := (rfl)
@[simp] theorem State.setFlow_host (c : Nat) (v : Flow) : (s.setFlow c v).host = s.host := (rfl)
@[simp] theorem State.setFlow_supply (c : Nat) (v : Flow) : (s.setFlow c v).supply = s.supply := (rfl)
@[simp] theorem State.setFlow_memctl (c : Nat) (v : Flow) : (s.setFlow c v).memctl = s.memctl := (rfl)
@[simp] theorem State.setFlow_boot (c : Nat) (v : Flow) : (s.setFlow c v).boot = s.boot := (rfl)

/-! ### setPool -/

@[simp] theorem State.setPool_pending (d n : Nat) : (s.setPool d n).pending = s.pending := (rfl)
@[simp] theorem State.setPool_out (d n : Nat) : (s.setPool d n).out = s.out := (rfl)
@[simp] theorem State.setPool_hall (d n : Nat) : (s.setPool d n).hall = s.hall := (rfl)
@[simp] theorem State.setPool_drawn (d n : Nat) : (s.setPool d n).drawn = s.drawn := (rfl)
@[simp] theorem State.setPool_down (d n : Nat) : (s.setPool d n).down = s.down := (rfl)
@[simp] theorem State.setPool_time (d n : Nat) : (s.setPool d n).time = s.time := (rfl)
@[simp] theorem State.setPool_tt (d n : Nat) : (s.setPool d n).tt = s.tt := (rfl)
@[simp] theorem State.setPool_hold (d n : Nat) : (s.setPool d n).hold = s.hold := (rfl)
@[simp] theorem State.setPool_links (d n : Nat) : (s.setPool d n).links = s.links := (rfl)
@[simp] theorem State.setPool_mem (d n : Nat) : (s.setPool d n).mem = s.mem := (rfl)
@[simp] theorem State.setPool_poison (d n : Nat) : (s.setPool d n).poison = s.poison := (rfl)
@[simp] theorem State.setPool_stores (d n : Nat) : (s.setPool d n).stores = s.stores := (rfl)
@[simp] theorem State.setPool_maps (d n : Nat) : (s.setPool d n).maps = s.maps := (rfl)
@[simp] theorem State.setPool_imem (d n : Nat) : (s.setPool d n).imem = s.imem := (rfl)
@[simp] theorem State.setPool_accs (d n : Nat) : (s.setPool d n).accs = s.accs := (rfl)
@[simp] theorem State.setPool_cores (d n : Nat) : (s.setPool d n).cores = s.cores := (rfl)
@[simp] theorem State.setPool_ctxs (d n : Nat) : (s.setPool d n).ctxs = s.ctxs := (rfl)
@[simp] theorem State.setPool_sems (d n : Nat) : (s.setPool d n).sems = s.sems := (rfl)
@[simp] theorem State.setPool_movers (d n : Nat) : (s.setPool d n).movers = s.movers := (rfl)
@[simp] theorem State.setPool_posts (d n : Nat) : (s.setPool d n).posts = s.posts := (rfl)
@[simp] theorem State.setPool_dies (d n : Nat) : (s.setPool d n).dies = s.dies := (rfl)
@[simp] theorem State.setPool_mailboxes (d n : Nat) : (s.setPool d n).mailboxes = s.mailboxes := (rfl)
@[simp] theorem State.setPool_deltas (d n : Nat) : (s.setPool d n).deltas = s.deltas := (rfl)
@[simp] theorem State.setPool_regions (d n : Nat) : (s.setPool d n).regions = s.regions := (rfl)
@[simp] theorem State.setPool_spans (d n : Nat) : (s.setPool d n).spans = s.spans := (rfl)
@[simp] theorem State.setPool_invals (d n : Nat) : (s.setPool d n).invals = s.invals := (rfl)
@[simp] theorem State.setPool_watch (d n : Nat) : (s.setPool d n).watch = s.watch := (rfl)
@[simp] theorem State.setPool_train (d n : Nat) : (s.setPool d n).train = s.train := (rfl)
@[simp] theorem State.setPool_rope (d n : Nat) : (s.setPool d n).rope = s.rope := (rfl)
@[simp] theorem State.setPool_dict (d n : Nat) : (s.setPool d n).dict = s.dict := (rfl)
@[simp] theorem State.setPool_faults (d n : Nat) : (s.setPool d n).faults = s.faults := (rfl)
@[simp] theorem State.setPool_job (d n : Nat) : (s.setPool d n).job = s.job := (rfl)
@[simp] theorem State.setPool_host (d n : Nat) : (s.setPool d n).host = s.host := (rfl)
@[simp] theorem State.setPool_supply (d n : Nat) : (s.setPool d n).supply = s.supply := (rfl)
@[simp] theorem State.setPool_memctl (d n : Nat) : (s.setPool d n).memctl = s.memctl := (rfl)
@[simp] theorem State.setPool_boot (d n : Nat) : (s.setPool d n).boot = s.boot := (rfl)

/-! ### setTime -/

@[simp] theorem State.setTime_pending (f : TimeUnit → TimeUnit) : (s.setTime f).pending = s.pending := (rfl)
@[simp] theorem State.setTime_out (f : TimeUnit → TimeUnit) : (s.setTime f).out = s.out := (rfl)
@[simp] theorem State.setTime_hall (f : TimeUnit → TimeUnit) : (s.setTime f).hall = s.hall := (rfl)
@[simp] theorem State.setTime_drawn (f : TimeUnit → TimeUnit) : (s.setTime f).drawn = s.drawn := (rfl)
@[simp] theorem State.setTime_down (f : TimeUnit → TimeUnit) : (s.setTime f).down = s.down := (rfl)
@[simp] theorem State.setTime_tt (f : TimeUnit → TimeUnit) : (s.setTime f).tt = s.tt := (rfl)
@[simp] theorem State.setTime_hold (f : TimeUnit → TimeUnit) : (s.setTime f).hold = s.hold := (rfl)
@[simp] theorem State.setTime_links (f : TimeUnit → TimeUnit) : (s.setTime f).links = s.links := (rfl)
@[simp] theorem State.setTime_fabric (f : TimeUnit → TimeUnit) : (s.setTime f).fabric = s.fabric := (rfl)
@[simp] theorem State.setTime_mem (f : TimeUnit → TimeUnit) : (s.setTime f).mem = s.mem := (rfl)
@[simp] theorem State.setTime_poison (f : TimeUnit → TimeUnit) : (s.setTime f).poison = s.poison := (rfl)
@[simp] theorem State.setTime_stores (f : TimeUnit → TimeUnit) : (s.setTime f).stores = s.stores := (rfl)
@[simp] theorem State.setTime_maps (f : TimeUnit → TimeUnit) : (s.setTime f).maps = s.maps := (rfl)
@[simp] theorem State.setTime_imem (f : TimeUnit → TimeUnit) : (s.setTime f).imem = s.imem := (rfl)
@[simp] theorem State.setTime_accs (f : TimeUnit → TimeUnit) : (s.setTime f).accs = s.accs := (rfl)
@[simp] theorem State.setTime_cores (f : TimeUnit → TimeUnit) : (s.setTime f).cores = s.cores := (rfl)
@[simp] theorem State.setTime_ctxs (f : TimeUnit → TimeUnit) : (s.setTime f).ctxs = s.ctxs := (rfl)
@[simp] theorem State.setTime_sems (f : TimeUnit → TimeUnit) : (s.setTime f).sems = s.sems := (rfl)
@[simp] theorem State.setTime_movers (f : TimeUnit → TimeUnit) : (s.setTime f).movers = s.movers := (rfl)
@[simp] theorem State.setTime_posts (f : TimeUnit → TimeUnit) : (s.setTime f).posts = s.posts := (rfl)
@[simp] theorem State.setTime_dies (f : TimeUnit → TimeUnit) : (s.setTime f).dies = s.dies := (rfl)
@[simp] theorem State.setTime_mailboxes (f : TimeUnit → TimeUnit) : (s.setTime f).mailboxes = s.mailboxes := (rfl)
@[simp] theorem State.setTime_deltas (f : TimeUnit → TimeUnit) : (s.setTime f).deltas = s.deltas := (rfl)
@[simp] theorem State.setTime_regions (f : TimeUnit → TimeUnit) : (s.setTime f).regions = s.regions := (rfl)
@[simp] theorem State.setTime_spans (f : TimeUnit → TimeUnit) : (s.setTime f).spans = s.spans := (rfl)
@[simp] theorem State.setTime_invals (f : TimeUnit → TimeUnit) : (s.setTime f).invals = s.invals := (rfl)
@[simp] theorem State.setTime_watch (f : TimeUnit → TimeUnit) : (s.setTime f).watch = s.watch := (rfl)
@[simp] theorem State.setTime_train (f : TimeUnit → TimeUnit) : (s.setTime f).train = s.train := (rfl)
@[simp] theorem State.setTime_rope (f : TimeUnit → TimeUnit) : (s.setTime f).rope = s.rope := (rfl)
@[simp] theorem State.setTime_dict (f : TimeUnit → TimeUnit) : (s.setTime f).dict = s.dict := (rfl)
@[simp] theorem State.setTime_faults (f : TimeUnit → TimeUnit) : (s.setTime f).faults = s.faults := (rfl)
@[simp] theorem State.setTime_job (f : TimeUnit → TimeUnit) : (s.setTime f).job = s.job := (rfl)
@[simp] theorem State.setTime_host (f : TimeUnit → TimeUnit) : (s.setTime f).host = s.host := (rfl)
@[simp] theorem State.setTime_supply (f : TimeUnit → TimeUnit) : (s.setTime f).supply = s.supply := (rfl)
@[simp] theorem State.setTime_memctl (f : TimeUnit → TimeUnit) : (s.setTime f).memctl = s.memctl := (rfl)
@[simp] theorem State.setTime_boot (f : TimeUnit → TimeUnit) : (s.setTime f).boot = s.boot := (rfl)

/-! ### setLinkTime -/

@[simp] theorem State.setLinkTime_pending (l : Nat) (v : LinkTime) : (s.setLinkTime l v).pending = s.pending := (rfl)
@[simp] theorem State.setLinkTime_out (l : Nat) (v : LinkTime) : (s.setLinkTime l v).out = s.out := (rfl)
@[simp] theorem State.setLinkTime_hall (l : Nat) (v : LinkTime) : (s.setLinkTime l v).hall = s.hall := (rfl)
@[simp] theorem State.setLinkTime_drawn (l : Nat) (v : LinkTime) : (s.setLinkTime l v).drawn = s.drawn := (rfl)
@[simp] theorem State.setLinkTime_down (l : Nat) (v : LinkTime) : (s.setLinkTime l v).down = s.down := (rfl)
@[simp] theorem State.setLinkTime_tt (l : Nat) (v : LinkTime) : (s.setLinkTime l v).tt = s.tt := (rfl)
@[simp] theorem State.setLinkTime_hold (l : Nat) (v : LinkTime) : (s.setLinkTime l v).hold = s.hold := (rfl)
@[simp] theorem State.setLinkTime_links (l : Nat) (v : LinkTime) : (s.setLinkTime l v).links = s.links := (rfl)
@[simp] theorem State.setLinkTime_fabric (l : Nat) (v : LinkTime) : (s.setLinkTime l v).fabric = s.fabric := (rfl)
@[simp] theorem State.setLinkTime_mem (l : Nat) (v : LinkTime) : (s.setLinkTime l v).mem = s.mem := (rfl)
@[simp] theorem State.setLinkTime_poison (l : Nat) (v : LinkTime) : (s.setLinkTime l v).poison = s.poison := (rfl)
@[simp] theorem State.setLinkTime_stores (l : Nat) (v : LinkTime) : (s.setLinkTime l v).stores = s.stores := (rfl)
@[simp] theorem State.setLinkTime_maps (l : Nat) (v : LinkTime) : (s.setLinkTime l v).maps = s.maps := (rfl)
@[simp] theorem State.setLinkTime_imem (l : Nat) (v : LinkTime) : (s.setLinkTime l v).imem = s.imem := (rfl)
@[simp] theorem State.setLinkTime_accs (l : Nat) (v : LinkTime) : (s.setLinkTime l v).accs = s.accs := (rfl)
@[simp] theorem State.setLinkTime_cores (l : Nat) (v : LinkTime) : (s.setLinkTime l v).cores = s.cores := (rfl)
@[simp] theorem State.setLinkTime_ctxs (l : Nat) (v : LinkTime) : (s.setLinkTime l v).ctxs = s.ctxs := (rfl)
@[simp] theorem State.setLinkTime_sems (l : Nat) (v : LinkTime) : (s.setLinkTime l v).sems = s.sems := (rfl)
@[simp] theorem State.setLinkTime_movers (l : Nat) (v : LinkTime) : (s.setLinkTime l v).movers = s.movers := (rfl)
@[simp] theorem State.setLinkTime_posts (l : Nat) (v : LinkTime) : (s.setLinkTime l v).posts = s.posts := (rfl)
@[simp] theorem State.setLinkTime_dies (l : Nat) (v : LinkTime) : (s.setLinkTime l v).dies = s.dies := (rfl)
@[simp] theorem State.setLinkTime_mailboxes (l : Nat) (v : LinkTime) : (s.setLinkTime l v).mailboxes = s.mailboxes := (rfl)
@[simp] theorem State.setLinkTime_deltas (l : Nat) (v : LinkTime) : (s.setLinkTime l v).deltas = s.deltas := (rfl)
@[simp] theorem State.setLinkTime_regions (l : Nat) (v : LinkTime) : (s.setLinkTime l v).regions = s.regions := (rfl)
@[simp] theorem State.setLinkTime_spans (l : Nat) (v : LinkTime) : (s.setLinkTime l v).spans = s.spans := (rfl)
@[simp] theorem State.setLinkTime_invals (l : Nat) (v : LinkTime) : (s.setLinkTime l v).invals = s.invals := (rfl)
@[simp] theorem State.setLinkTime_watch (l : Nat) (v : LinkTime) : (s.setLinkTime l v).watch = s.watch := (rfl)
@[simp] theorem State.setLinkTime_train (l : Nat) (v : LinkTime) : (s.setLinkTime l v).train = s.train := (rfl)
@[simp] theorem State.setLinkTime_rope (l : Nat) (v : LinkTime) : (s.setLinkTime l v).rope = s.rope := (rfl)
@[simp] theorem State.setLinkTime_dict (l : Nat) (v : LinkTime) : (s.setLinkTime l v).dict = s.dict := (rfl)
@[simp] theorem State.setLinkTime_faults (l : Nat) (v : LinkTime) : (s.setLinkTime l v).faults = s.faults := (rfl)
@[simp] theorem State.setLinkTime_job (l : Nat) (v : LinkTime) : (s.setLinkTime l v).job = s.job := (rfl)
@[simp] theorem State.setLinkTime_host (l : Nat) (v : LinkTime) : (s.setLinkTime l v).host = s.host := (rfl)
@[simp] theorem State.setLinkTime_supply (l : Nat) (v : LinkTime) : (s.setLinkTime l v).supply = s.supply := (rfl)
@[simp] theorem State.setLinkTime_memctl (l : Nat) (v : LinkTime) : (s.setLinkTime l v).memctl = s.memctl := (rfl)
@[simp] theorem State.setLinkTime_boot (l : Nat) (v : LinkTime) : (s.setLinkTime l v).boot = s.boot := (rfl)

/-! ### setEngine -/

@[simp] theorem State.setEngine_pending (l : Nat) (v : TtEngine) : (s.setEngine l v).pending = s.pending := (rfl)
@[simp] theorem State.setEngine_out (l : Nat) (v : TtEngine) : (s.setEngine l v).out = s.out := (rfl)
@[simp] theorem State.setEngine_hall (l : Nat) (v : TtEngine) : (s.setEngine l v).hall = s.hall := (rfl)
@[simp] theorem State.setEngine_drawn (l : Nat) (v : TtEngine) : (s.setEngine l v).drawn = s.drawn := (rfl)
@[simp] theorem State.setEngine_down (l : Nat) (v : TtEngine) : (s.setEngine l v).down = s.down := (rfl)
@[simp] theorem State.setEngine_time (l : Nat) (v : TtEngine) : (s.setEngine l v).time = s.time := (rfl)
@[simp] theorem State.setEngine_hold (l : Nat) (v : TtEngine) : (s.setEngine l v).hold = s.hold := (rfl)
@[simp] theorem State.setEngine_links (l : Nat) (v : TtEngine) : (s.setEngine l v).links = s.links := (rfl)
@[simp] theorem State.setEngine_fabric (l : Nat) (v : TtEngine) : (s.setEngine l v).fabric = s.fabric := (rfl)
@[simp] theorem State.setEngine_mem (l : Nat) (v : TtEngine) : (s.setEngine l v).mem = s.mem := (rfl)
@[simp] theorem State.setEngine_poison (l : Nat) (v : TtEngine) : (s.setEngine l v).poison = s.poison := (rfl)
@[simp] theorem State.setEngine_stores (l : Nat) (v : TtEngine) : (s.setEngine l v).stores = s.stores := (rfl)
@[simp] theorem State.setEngine_maps (l : Nat) (v : TtEngine) : (s.setEngine l v).maps = s.maps := (rfl)
@[simp] theorem State.setEngine_imem (l : Nat) (v : TtEngine) : (s.setEngine l v).imem = s.imem := (rfl)
@[simp] theorem State.setEngine_accs (l : Nat) (v : TtEngine) : (s.setEngine l v).accs = s.accs := (rfl)
@[simp] theorem State.setEngine_cores (l : Nat) (v : TtEngine) : (s.setEngine l v).cores = s.cores := (rfl)
@[simp] theorem State.setEngine_ctxs (l : Nat) (v : TtEngine) : (s.setEngine l v).ctxs = s.ctxs := (rfl)
@[simp] theorem State.setEngine_sems (l : Nat) (v : TtEngine) : (s.setEngine l v).sems = s.sems := (rfl)
@[simp] theorem State.setEngine_movers (l : Nat) (v : TtEngine) : (s.setEngine l v).movers = s.movers := (rfl)
@[simp] theorem State.setEngine_posts (l : Nat) (v : TtEngine) : (s.setEngine l v).posts = s.posts := (rfl)
@[simp] theorem State.setEngine_dies (l : Nat) (v : TtEngine) : (s.setEngine l v).dies = s.dies := (rfl)
@[simp] theorem State.setEngine_mailboxes (l : Nat) (v : TtEngine) : (s.setEngine l v).mailboxes = s.mailboxes := (rfl)
@[simp] theorem State.setEngine_deltas (l : Nat) (v : TtEngine) : (s.setEngine l v).deltas = s.deltas := (rfl)
@[simp] theorem State.setEngine_regions (l : Nat) (v : TtEngine) : (s.setEngine l v).regions = s.regions := (rfl)
@[simp] theorem State.setEngine_spans (l : Nat) (v : TtEngine) : (s.setEngine l v).spans = s.spans := (rfl)
@[simp] theorem State.setEngine_invals (l : Nat) (v : TtEngine) : (s.setEngine l v).invals = s.invals := (rfl)
@[simp] theorem State.setEngine_watch (l : Nat) (v : TtEngine) : (s.setEngine l v).watch = s.watch := (rfl)
@[simp] theorem State.setEngine_train (l : Nat) (v : TtEngine) : (s.setEngine l v).train = s.train := (rfl)
@[simp] theorem State.setEngine_rope (l : Nat) (v : TtEngine) : (s.setEngine l v).rope = s.rope := (rfl)
@[simp] theorem State.setEngine_dict (l : Nat) (v : TtEngine) : (s.setEngine l v).dict = s.dict := (rfl)
@[simp] theorem State.setEngine_faults (l : Nat) (v : TtEngine) : (s.setEngine l v).faults = s.faults := (rfl)
@[simp] theorem State.setEngine_job (l : Nat) (v : TtEngine) : (s.setEngine l v).job = s.job := (rfl)
@[simp] theorem State.setEngine_host (l : Nat) (v : TtEngine) : (s.setEngine l v).host = s.host := (rfl)
@[simp] theorem State.setEngine_supply (l : Nat) (v : TtEngine) : (s.setEngine l v).supply = s.supply := (rfl)
@[simp] theorem State.setEngine_memctl (l : Nat) (v : TtEngine) : (s.setEngine l v).memctl = s.memctl := (rfl)
@[simp] theorem State.setEngine_boot (l : Nat) (v : TtEngine) : (s.setEngine l v).boot = s.boot := (rfl)

/-! ### setRx -/

@[simp] theorem State.setRx_pending (l : Nat) (v : Option RxWindow) : (s.setRx l v).pending = s.pending := (rfl)
@[simp] theorem State.setRx_out (l : Nat) (v : Option RxWindow) : (s.setRx l v).out = s.out := (rfl)
@[simp] theorem State.setRx_hall (l : Nat) (v : Option RxWindow) : (s.setRx l v).hall = s.hall := (rfl)
@[simp] theorem State.setRx_drawn (l : Nat) (v : Option RxWindow) : (s.setRx l v).drawn = s.drawn := (rfl)
@[simp] theorem State.setRx_down (l : Nat) (v : Option RxWindow) : (s.setRx l v).down = s.down := (rfl)
@[simp] theorem State.setRx_time (l : Nat) (v : Option RxWindow) : (s.setRx l v).time = s.time := (rfl)
@[simp] theorem State.setRx_hold (l : Nat) (v : Option RxWindow) : (s.setRx l v).hold = s.hold := (rfl)
@[simp] theorem State.setRx_links (l : Nat) (v : Option RxWindow) : (s.setRx l v).links = s.links := (rfl)
@[simp] theorem State.setRx_fabric (l : Nat) (v : Option RxWindow) : (s.setRx l v).fabric = s.fabric := (rfl)
@[simp] theorem State.setRx_mem (l : Nat) (v : Option RxWindow) : (s.setRx l v).mem = s.mem := (rfl)
@[simp] theorem State.setRx_poison (l : Nat) (v : Option RxWindow) : (s.setRx l v).poison = s.poison := (rfl)
@[simp] theorem State.setRx_stores (l : Nat) (v : Option RxWindow) : (s.setRx l v).stores = s.stores := (rfl)
@[simp] theorem State.setRx_maps (l : Nat) (v : Option RxWindow) : (s.setRx l v).maps = s.maps := (rfl)
@[simp] theorem State.setRx_imem (l : Nat) (v : Option RxWindow) : (s.setRx l v).imem = s.imem := (rfl)
@[simp] theorem State.setRx_accs (l : Nat) (v : Option RxWindow) : (s.setRx l v).accs = s.accs := (rfl)
@[simp] theorem State.setRx_cores (l : Nat) (v : Option RxWindow) : (s.setRx l v).cores = s.cores := (rfl)
@[simp] theorem State.setRx_ctxs (l : Nat) (v : Option RxWindow) : (s.setRx l v).ctxs = s.ctxs := (rfl)
@[simp] theorem State.setRx_sems (l : Nat) (v : Option RxWindow) : (s.setRx l v).sems = s.sems := (rfl)
@[simp] theorem State.setRx_movers (l : Nat) (v : Option RxWindow) : (s.setRx l v).movers = s.movers := (rfl)
@[simp] theorem State.setRx_posts (l : Nat) (v : Option RxWindow) : (s.setRx l v).posts = s.posts := (rfl)
@[simp] theorem State.setRx_dies (l : Nat) (v : Option RxWindow) : (s.setRx l v).dies = s.dies := (rfl)
@[simp] theorem State.setRx_mailboxes (l : Nat) (v : Option RxWindow) : (s.setRx l v).mailboxes = s.mailboxes := (rfl)
@[simp] theorem State.setRx_deltas (l : Nat) (v : Option RxWindow) : (s.setRx l v).deltas = s.deltas := (rfl)
@[simp] theorem State.setRx_regions (l : Nat) (v : Option RxWindow) : (s.setRx l v).regions = s.regions := (rfl)
@[simp] theorem State.setRx_spans (l : Nat) (v : Option RxWindow) : (s.setRx l v).spans = s.spans := (rfl)
@[simp] theorem State.setRx_invals (l : Nat) (v : Option RxWindow) : (s.setRx l v).invals = s.invals := (rfl)
@[simp] theorem State.setRx_watch (l : Nat) (v : Option RxWindow) : (s.setRx l v).watch = s.watch := (rfl)
@[simp] theorem State.setRx_train (l : Nat) (v : Option RxWindow) : (s.setRx l v).train = s.train := (rfl)
@[simp] theorem State.setRx_rope (l : Nat) (v : Option RxWindow) : (s.setRx l v).rope = s.rope := (rfl)
@[simp] theorem State.setRx_dict (l : Nat) (v : Option RxWindow) : (s.setRx l v).dict = s.dict := (rfl)
@[simp] theorem State.setRx_faults (l : Nat) (v : Option RxWindow) : (s.setRx l v).faults = s.faults := (rfl)
@[simp] theorem State.setRx_job (l : Nat) (v : Option RxWindow) : (s.setRx l v).job = s.job := (rfl)
@[simp] theorem State.setRx_host (l : Nat) (v : Option RxWindow) : (s.setRx l v).host = s.host := (rfl)
@[simp] theorem State.setRx_supply (l : Nat) (v : Option RxWindow) : (s.setRx l v).supply = s.supply := (rfl)
@[simp] theorem State.setRx_memctl (l : Nat) (v : Option RxWindow) : (s.setRx l v).memctl = s.memctl := (rfl)
@[simp] theorem State.setRx_boot (l : Nat) (v : Option RxWindow) : (s.setRx l v).boot = s.boot := (rfl)

/-! ### setHold -/

@[simp] theorem State.setHold_pending (f : HallHold → HallHold) : (s.setHold f).pending = s.pending := (rfl)
@[simp] theorem State.setHold_out (f : HallHold → HallHold) : (s.setHold f).out = s.out := (rfl)
@[simp] theorem State.setHold_hall (f : HallHold → HallHold) : (s.setHold f).hall = s.hall := (rfl)
@[simp] theorem State.setHold_drawn (f : HallHold → HallHold) : (s.setHold f).drawn = s.drawn := (rfl)
@[simp] theorem State.setHold_down (f : HallHold → HallHold) : (s.setHold f).down = s.down := (rfl)
@[simp] theorem State.setHold_time (f : HallHold → HallHold) : (s.setHold f).time = s.time := (rfl)
@[simp] theorem State.setHold_tt (f : HallHold → HallHold) : (s.setHold f).tt = s.tt := (rfl)
@[simp] theorem State.setHold_links (f : HallHold → HallHold) : (s.setHold f).links = s.links := (rfl)
@[simp] theorem State.setHold_fabric (f : HallHold → HallHold) : (s.setHold f).fabric = s.fabric := (rfl)
@[simp] theorem State.setHold_mem (f : HallHold → HallHold) : (s.setHold f).mem = s.mem := (rfl)
@[simp] theorem State.setHold_poison (f : HallHold → HallHold) : (s.setHold f).poison = s.poison := (rfl)
@[simp] theorem State.setHold_stores (f : HallHold → HallHold) : (s.setHold f).stores = s.stores := (rfl)
@[simp] theorem State.setHold_maps (f : HallHold → HallHold) : (s.setHold f).maps = s.maps := (rfl)
@[simp] theorem State.setHold_imem (f : HallHold → HallHold) : (s.setHold f).imem = s.imem := (rfl)
@[simp] theorem State.setHold_accs (f : HallHold → HallHold) : (s.setHold f).accs = s.accs := (rfl)
@[simp] theorem State.setHold_cores (f : HallHold → HallHold) : (s.setHold f).cores = s.cores := (rfl)
@[simp] theorem State.setHold_ctxs (f : HallHold → HallHold) : (s.setHold f).ctxs = s.ctxs := (rfl)
@[simp] theorem State.setHold_sems (f : HallHold → HallHold) : (s.setHold f).sems = s.sems := (rfl)
@[simp] theorem State.setHold_movers (f : HallHold → HallHold) : (s.setHold f).movers = s.movers := (rfl)
@[simp] theorem State.setHold_posts (f : HallHold → HallHold) : (s.setHold f).posts = s.posts := (rfl)
@[simp] theorem State.setHold_dies (f : HallHold → HallHold) : (s.setHold f).dies = s.dies := (rfl)
@[simp] theorem State.setHold_mailboxes (f : HallHold → HallHold) : (s.setHold f).mailboxes = s.mailboxes := (rfl)
@[simp] theorem State.setHold_deltas (f : HallHold → HallHold) : (s.setHold f).deltas = s.deltas := (rfl)
@[simp] theorem State.setHold_regions (f : HallHold → HallHold) : (s.setHold f).regions = s.regions := (rfl)
@[simp] theorem State.setHold_spans (f : HallHold → HallHold) : (s.setHold f).spans = s.spans := (rfl)
@[simp] theorem State.setHold_invals (f : HallHold → HallHold) : (s.setHold f).invals = s.invals := (rfl)
@[simp] theorem State.setHold_watch (f : HallHold → HallHold) : (s.setHold f).watch = s.watch := (rfl)
@[simp] theorem State.setHold_train (f : HallHold → HallHold) : (s.setHold f).train = s.train := (rfl)
@[simp] theorem State.setHold_rope (f : HallHold → HallHold) : (s.setHold f).rope = s.rope := (rfl)
@[simp] theorem State.setHold_dict (f : HallHold → HallHold) : (s.setHold f).dict = s.dict := (rfl)
@[simp] theorem State.setHold_faults (f : HallHold → HallHold) : (s.setHold f).faults = s.faults := (rfl)
@[simp] theorem State.setHold_job (f : HallHold → HallHold) : (s.setHold f).job = s.job := (rfl)
@[simp] theorem State.setHold_host (f : HallHold → HallHold) : (s.setHold f).host = s.host := (rfl)
@[simp] theorem State.setHold_supply (f : HallHold → HallHold) : (s.setHold f).supply = s.supply := (rfl)
@[simp] theorem State.setHold_memctl (f : HallHold → HallHold) : (s.setHold f).memctl = s.memctl := (rfl)
@[simp] theorem State.setHold_boot (f : HallHold → HallHold) : (s.setHold f).boot = s.boot := (rfl)

/-! ### setSupply -/

@[simp] theorem State.setSupply_pending (f : Supply → Supply) : (s.setSupply f).pending = s.pending := (rfl)
@[simp] theorem State.setSupply_out (f : Supply → Supply) : (s.setSupply f).out = s.out := (rfl)
@[simp] theorem State.setSupply_hall (f : Supply → Supply) : (s.setSupply f).hall = s.hall := (rfl)
@[simp] theorem State.setSupply_drawn (f : Supply → Supply) : (s.setSupply f).drawn = s.drawn := (rfl)
@[simp] theorem State.setSupply_down (f : Supply → Supply) : (s.setSupply f).down = s.down := (rfl)
@[simp] theorem State.setSupply_time (f : Supply → Supply) : (s.setSupply f).time = s.time := (rfl)
@[simp] theorem State.setSupply_tt (f : Supply → Supply) : (s.setSupply f).tt = s.tt := (rfl)
@[simp] theorem State.setSupply_hold (f : Supply → Supply) : (s.setSupply f).hold = s.hold := (rfl)
@[simp] theorem State.setSupply_links (f : Supply → Supply) : (s.setSupply f).links = s.links := (rfl)
@[simp] theorem State.setSupply_fabric (f : Supply → Supply) : (s.setSupply f).fabric = s.fabric := (rfl)
@[simp] theorem State.setSupply_mem (f : Supply → Supply) : (s.setSupply f).mem = s.mem := (rfl)
@[simp] theorem State.setSupply_poison (f : Supply → Supply) : (s.setSupply f).poison = s.poison := (rfl)
@[simp] theorem State.setSupply_stores (f : Supply → Supply) : (s.setSupply f).stores = s.stores := (rfl)
@[simp] theorem State.setSupply_maps (f : Supply → Supply) : (s.setSupply f).maps = s.maps := (rfl)
@[simp] theorem State.setSupply_imem (f : Supply → Supply) : (s.setSupply f).imem = s.imem := (rfl)
@[simp] theorem State.setSupply_accs (f : Supply → Supply) : (s.setSupply f).accs = s.accs := (rfl)
@[simp] theorem State.setSupply_cores (f : Supply → Supply) : (s.setSupply f).cores = s.cores := (rfl)
@[simp] theorem State.setSupply_ctxs (f : Supply → Supply) : (s.setSupply f).ctxs = s.ctxs := (rfl)
@[simp] theorem State.setSupply_sems (f : Supply → Supply) : (s.setSupply f).sems = s.sems := (rfl)
@[simp] theorem State.setSupply_movers (f : Supply → Supply) : (s.setSupply f).movers = s.movers := (rfl)
@[simp] theorem State.setSupply_posts (f : Supply → Supply) : (s.setSupply f).posts = s.posts := (rfl)
@[simp] theorem State.setSupply_dies (f : Supply → Supply) : (s.setSupply f).dies = s.dies := (rfl)
@[simp] theorem State.setSupply_mailboxes (f : Supply → Supply) : (s.setSupply f).mailboxes = s.mailboxes := (rfl)
@[simp] theorem State.setSupply_deltas (f : Supply → Supply) : (s.setSupply f).deltas = s.deltas := (rfl)
@[simp] theorem State.setSupply_regions (f : Supply → Supply) : (s.setSupply f).regions = s.regions := (rfl)
@[simp] theorem State.setSupply_spans (f : Supply → Supply) : (s.setSupply f).spans = s.spans := (rfl)
@[simp] theorem State.setSupply_invals (f : Supply → Supply) : (s.setSupply f).invals = s.invals := (rfl)
@[simp] theorem State.setSupply_watch (f : Supply → Supply) : (s.setSupply f).watch = s.watch := (rfl)
@[simp] theorem State.setSupply_train (f : Supply → Supply) : (s.setSupply f).train = s.train := (rfl)
@[simp] theorem State.setSupply_rope (f : Supply → Supply) : (s.setSupply f).rope = s.rope := (rfl)
@[simp] theorem State.setSupply_dict (f : Supply → Supply) : (s.setSupply f).dict = s.dict := (rfl)
@[simp] theorem State.setSupply_faults (f : Supply → Supply) : (s.setSupply f).faults = s.faults := (rfl)
@[simp] theorem State.setSupply_job (f : Supply → Supply) : (s.setSupply f).job = s.job := (rfl)
@[simp] theorem State.setSupply_host (f : Supply → Supply) : (s.setSupply f).host = s.host := (rfl)
@[simp] theorem State.setSupply_memctl (f : Supply → Supply) : (s.setSupply f).memctl = s.memctl := (rfl)
@[simp] theorem State.setSupply_boot (f : Supply → Supply) : (s.setSupply f).boot = s.boot := (rfl)

/-! ### setBoot -/

@[simp] theorem State.setBoot_pending (f : Boot → Boot) : (s.setBoot f).pending = s.pending := (rfl)
@[simp] theorem State.setBoot_out (f : Boot → Boot) : (s.setBoot f).out = s.out := (rfl)
@[simp] theorem State.setBoot_hall (f : Boot → Boot) : (s.setBoot f).hall = s.hall := (rfl)
@[simp] theorem State.setBoot_drawn (f : Boot → Boot) : (s.setBoot f).drawn = s.drawn := (rfl)
@[simp] theorem State.setBoot_down (f : Boot → Boot) : (s.setBoot f).down = s.down := (rfl)
@[simp] theorem State.setBoot_time (f : Boot → Boot) : (s.setBoot f).time = s.time := (rfl)
@[simp] theorem State.setBoot_tt (f : Boot → Boot) : (s.setBoot f).tt = s.tt := (rfl)
@[simp] theorem State.setBoot_hold (f : Boot → Boot) : (s.setBoot f).hold = s.hold := (rfl)
@[simp] theorem State.setBoot_links (f : Boot → Boot) : (s.setBoot f).links = s.links := (rfl)
@[simp] theorem State.setBoot_fabric (f : Boot → Boot) : (s.setBoot f).fabric = s.fabric := (rfl)
@[simp] theorem State.setBoot_mem (f : Boot → Boot) : (s.setBoot f).mem = s.mem := (rfl)
@[simp] theorem State.setBoot_poison (f : Boot → Boot) : (s.setBoot f).poison = s.poison := (rfl)
@[simp] theorem State.setBoot_stores (f : Boot → Boot) : (s.setBoot f).stores = s.stores := (rfl)
@[simp] theorem State.setBoot_maps (f : Boot → Boot) : (s.setBoot f).maps = s.maps := (rfl)
@[simp] theorem State.setBoot_imem (f : Boot → Boot) : (s.setBoot f).imem = s.imem := (rfl)
@[simp] theorem State.setBoot_accs (f : Boot → Boot) : (s.setBoot f).accs = s.accs := (rfl)
@[simp] theorem State.setBoot_cores (f : Boot → Boot) : (s.setBoot f).cores = s.cores := (rfl)
@[simp] theorem State.setBoot_ctxs (f : Boot → Boot) : (s.setBoot f).ctxs = s.ctxs := (rfl)
@[simp] theorem State.setBoot_sems (f : Boot → Boot) : (s.setBoot f).sems = s.sems := (rfl)
@[simp] theorem State.setBoot_movers (f : Boot → Boot) : (s.setBoot f).movers = s.movers := (rfl)
@[simp] theorem State.setBoot_posts (f : Boot → Boot) : (s.setBoot f).posts = s.posts := (rfl)
@[simp] theorem State.setBoot_dies (f : Boot → Boot) : (s.setBoot f).dies = s.dies := (rfl)
@[simp] theorem State.setBoot_mailboxes (f : Boot → Boot) : (s.setBoot f).mailboxes = s.mailboxes := (rfl)
@[simp] theorem State.setBoot_deltas (f : Boot → Boot) : (s.setBoot f).deltas = s.deltas := (rfl)
@[simp] theorem State.setBoot_regions (f : Boot → Boot) : (s.setBoot f).regions = s.regions := (rfl)
@[simp] theorem State.setBoot_spans (f : Boot → Boot) : (s.setBoot f).spans = s.spans := (rfl)
@[simp] theorem State.setBoot_invals (f : Boot → Boot) : (s.setBoot f).invals = s.invals := (rfl)
@[simp] theorem State.setBoot_watch (f : Boot → Boot) : (s.setBoot f).watch = s.watch := (rfl)
@[simp] theorem State.setBoot_train (f : Boot → Boot) : (s.setBoot f).train = s.train := (rfl)
@[simp] theorem State.setBoot_rope (f : Boot → Boot) : (s.setBoot f).rope = s.rope := (rfl)
@[simp] theorem State.setBoot_dict (f : Boot → Boot) : (s.setBoot f).dict = s.dict := (rfl)
@[simp] theorem State.setBoot_faults (f : Boot → Boot) : (s.setBoot f).faults = s.faults := (rfl)
@[simp] theorem State.setBoot_job (f : Boot → Boot) : (s.setBoot f).job = s.job := (rfl)
@[simp] theorem State.setBoot_host (f : Boot → Boot) : (s.setBoot f).host = s.host := (rfl)
@[simp] theorem State.setBoot_supply (f : Boot → Boot) : (s.setBoot f).supply = s.supply := (rfl)
@[simp] theorem State.setBoot_memctl (f : Boot → Boot) : (s.setBoot f).memctl = s.memctl := (rfl)

/-! ### setHost -/

@[simp] theorem State.setHost_pending (f : HostPort → HostPort) : (s.setHost f).pending = s.pending := (rfl)
@[simp] theorem State.setHost_out (f : HostPort → HostPort) : (s.setHost f).out = s.out := (rfl)
@[simp] theorem State.setHost_hall (f : HostPort → HostPort) : (s.setHost f).hall = s.hall := (rfl)
@[simp] theorem State.setHost_drawn (f : HostPort → HostPort) : (s.setHost f).drawn = s.drawn := (rfl)
@[simp] theorem State.setHost_down (f : HostPort → HostPort) : (s.setHost f).down = s.down := (rfl)
@[simp] theorem State.setHost_time (f : HostPort → HostPort) : (s.setHost f).time = s.time := (rfl)
@[simp] theorem State.setHost_tt (f : HostPort → HostPort) : (s.setHost f).tt = s.tt := (rfl)
@[simp] theorem State.setHost_hold (f : HostPort → HostPort) : (s.setHost f).hold = s.hold := (rfl)
@[simp] theorem State.setHost_links (f : HostPort → HostPort) : (s.setHost f).links = s.links := (rfl)
@[simp] theorem State.setHost_fabric (f : HostPort → HostPort) : (s.setHost f).fabric = s.fabric := (rfl)
@[simp] theorem State.setHost_mem (f : HostPort → HostPort) : (s.setHost f).mem = s.mem := (rfl)
@[simp] theorem State.setHost_poison (f : HostPort → HostPort) : (s.setHost f).poison = s.poison := (rfl)
@[simp] theorem State.setHost_stores (f : HostPort → HostPort) : (s.setHost f).stores = s.stores := (rfl)
@[simp] theorem State.setHost_maps (f : HostPort → HostPort) : (s.setHost f).maps = s.maps := (rfl)
@[simp] theorem State.setHost_imem (f : HostPort → HostPort) : (s.setHost f).imem = s.imem := (rfl)
@[simp] theorem State.setHost_accs (f : HostPort → HostPort) : (s.setHost f).accs = s.accs := (rfl)
@[simp] theorem State.setHost_cores (f : HostPort → HostPort) : (s.setHost f).cores = s.cores := (rfl)
@[simp] theorem State.setHost_ctxs (f : HostPort → HostPort) : (s.setHost f).ctxs = s.ctxs := (rfl)
@[simp] theorem State.setHost_sems (f : HostPort → HostPort) : (s.setHost f).sems = s.sems := (rfl)
@[simp] theorem State.setHost_movers (f : HostPort → HostPort) : (s.setHost f).movers = s.movers := (rfl)
@[simp] theorem State.setHost_posts (f : HostPort → HostPort) : (s.setHost f).posts = s.posts := (rfl)
@[simp] theorem State.setHost_dies (f : HostPort → HostPort) : (s.setHost f).dies = s.dies := (rfl)
@[simp] theorem State.setHost_mailboxes (f : HostPort → HostPort) : (s.setHost f).mailboxes = s.mailboxes := (rfl)
@[simp] theorem State.setHost_deltas (f : HostPort → HostPort) : (s.setHost f).deltas = s.deltas := (rfl)
@[simp] theorem State.setHost_regions (f : HostPort → HostPort) : (s.setHost f).regions = s.regions := (rfl)
@[simp] theorem State.setHost_spans (f : HostPort → HostPort) : (s.setHost f).spans = s.spans := (rfl)
@[simp] theorem State.setHost_invals (f : HostPort → HostPort) : (s.setHost f).invals = s.invals := (rfl)
@[simp] theorem State.setHost_watch (f : HostPort → HostPort) : (s.setHost f).watch = s.watch := (rfl)
@[simp] theorem State.setHost_train (f : HostPort → HostPort) : (s.setHost f).train = s.train := (rfl)
@[simp] theorem State.setHost_rope (f : HostPort → HostPort) : (s.setHost f).rope = s.rope := (rfl)
@[simp] theorem State.setHost_dict (f : HostPort → HostPort) : (s.setHost f).dict = s.dict := (rfl)
@[simp] theorem State.setHost_faults (f : HostPort → HostPort) : (s.setHost f).faults = s.faults := (rfl)
@[simp] theorem State.setHost_job (f : HostPort → HostPort) : (s.setHost f).job = s.job := (rfl)
@[simp] theorem State.setHost_supply (f : HostPort → HostPort) : (s.setHost f).supply = s.supply := (rfl)
@[simp] theorem State.setHost_memctl (f : HostPort → HostPort) : (s.setHost f).memctl = s.memctl := (rfl)
@[simp] theorem State.setHost_boot (f : HostPort → HostPort) : (s.setHost f).boot = s.boot := (rfl)

/-! ### setFaults -/

@[simp] theorem State.setFaults_pending (f : Faults → Faults) : (s.setFaults f).pending = s.pending := (rfl)
@[simp] theorem State.setFaults_out (f : Faults → Faults) : (s.setFaults f).out = s.out := (rfl)
@[simp] theorem State.setFaults_hall (f : Faults → Faults) : (s.setFaults f).hall = s.hall := (rfl)
@[simp] theorem State.setFaults_drawn (f : Faults → Faults) : (s.setFaults f).drawn = s.drawn := (rfl)
@[simp] theorem State.setFaults_down (f : Faults → Faults) : (s.setFaults f).down = s.down := (rfl)
@[simp] theorem State.setFaults_time (f : Faults → Faults) : (s.setFaults f).time = s.time := (rfl)
@[simp] theorem State.setFaults_tt (f : Faults → Faults) : (s.setFaults f).tt = s.tt := (rfl)
@[simp] theorem State.setFaults_hold (f : Faults → Faults) : (s.setFaults f).hold = s.hold := (rfl)
@[simp] theorem State.setFaults_links (f : Faults → Faults) : (s.setFaults f).links = s.links := (rfl)
@[simp] theorem State.setFaults_fabric (f : Faults → Faults) : (s.setFaults f).fabric = s.fabric := (rfl)
@[simp] theorem State.setFaults_mem (f : Faults → Faults) : (s.setFaults f).mem = s.mem := (rfl)
@[simp] theorem State.setFaults_poison (f : Faults → Faults) : (s.setFaults f).poison = s.poison := (rfl)
@[simp] theorem State.setFaults_stores (f : Faults → Faults) : (s.setFaults f).stores = s.stores := (rfl)
@[simp] theorem State.setFaults_maps (f : Faults → Faults) : (s.setFaults f).maps = s.maps := (rfl)
@[simp] theorem State.setFaults_imem (f : Faults → Faults) : (s.setFaults f).imem = s.imem := (rfl)
@[simp] theorem State.setFaults_accs (f : Faults → Faults) : (s.setFaults f).accs = s.accs := (rfl)
@[simp] theorem State.setFaults_cores (f : Faults → Faults) : (s.setFaults f).cores = s.cores := (rfl)
@[simp] theorem State.setFaults_ctxs (f : Faults → Faults) : (s.setFaults f).ctxs = s.ctxs := (rfl)
@[simp] theorem State.setFaults_sems (f : Faults → Faults) : (s.setFaults f).sems = s.sems := (rfl)
@[simp] theorem State.setFaults_movers (f : Faults → Faults) : (s.setFaults f).movers = s.movers := (rfl)
@[simp] theorem State.setFaults_posts (f : Faults → Faults) : (s.setFaults f).posts = s.posts := (rfl)
@[simp] theorem State.setFaults_dies (f : Faults → Faults) : (s.setFaults f).dies = s.dies := (rfl)
@[simp] theorem State.setFaults_mailboxes (f : Faults → Faults) : (s.setFaults f).mailboxes = s.mailboxes := (rfl)
@[simp] theorem State.setFaults_deltas (f : Faults → Faults) : (s.setFaults f).deltas = s.deltas := (rfl)
@[simp] theorem State.setFaults_regions (f : Faults → Faults) : (s.setFaults f).regions = s.regions := (rfl)
@[simp] theorem State.setFaults_spans (f : Faults → Faults) : (s.setFaults f).spans = s.spans := (rfl)
@[simp] theorem State.setFaults_invals (f : Faults → Faults) : (s.setFaults f).invals = s.invals := (rfl)
@[simp] theorem State.setFaults_watch (f : Faults → Faults) : (s.setFaults f).watch = s.watch := (rfl)
@[simp] theorem State.setFaults_train (f : Faults → Faults) : (s.setFaults f).train = s.train := (rfl)
@[simp] theorem State.setFaults_rope (f : Faults → Faults) : (s.setFaults f).rope = s.rope := (rfl)
@[simp] theorem State.setFaults_dict (f : Faults → Faults) : (s.setFaults f).dict = s.dict := (rfl)
@[simp] theorem State.setFaults_job (f : Faults → Faults) : (s.setFaults f).job = s.job := (rfl)
@[simp] theorem State.setFaults_host (f : Faults → Faults) : (s.setFaults f).host = s.host := (rfl)
@[simp] theorem State.setFaults_supply (f : Faults → Faults) : (s.setFaults f).supply = s.supply := (rfl)
@[simp] theorem State.setFaults_memctl (f : Faults → Faults) : (s.setFaults f).memctl = s.memctl := (rfl)
@[simp] theorem State.setFaults_boot (f : Faults → Faults) : (s.setFaults f).boot = s.boot := (rfl)

/-! ### setRecovery -/

@[simp] theorem State.setRecovery_pending (c : Nat) (r : Option Recovery) : (s.setRecovery c r).pending = s.pending := (rfl)
@[simp] theorem State.setRecovery_out (c : Nat) (r : Option Recovery) : (s.setRecovery c r).out = s.out := (rfl)
@[simp] theorem State.setRecovery_hall (c : Nat) (r : Option Recovery) : (s.setRecovery c r).hall = s.hall := (rfl)
@[simp] theorem State.setRecovery_drawn (c : Nat) (r : Option Recovery) : (s.setRecovery c r).drawn = s.drawn := (rfl)
@[simp] theorem State.setRecovery_down (c : Nat) (r : Option Recovery) : (s.setRecovery c r).down = s.down := (rfl)
@[simp] theorem State.setRecovery_time (c : Nat) (r : Option Recovery) : (s.setRecovery c r).time = s.time := (rfl)
@[simp] theorem State.setRecovery_tt (c : Nat) (r : Option Recovery) : (s.setRecovery c r).tt = s.tt := (rfl)
@[simp] theorem State.setRecovery_hold (c : Nat) (r : Option Recovery) : (s.setRecovery c r).hold = s.hold := (rfl)
@[simp] theorem State.setRecovery_links (c : Nat) (r : Option Recovery) : (s.setRecovery c r).links = s.links := (rfl)
@[simp] theorem State.setRecovery_fabric (c : Nat) (r : Option Recovery) : (s.setRecovery c r).fabric = s.fabric := (rfl)
@[simp] theorem State.setRecovery_mem (c : Nat) (r : Option Recovery) : (s.setRecovery c r).mem = s.mem := (rfl)
@[simp] theorem State.setRecovery_poison (c : Nat) (r : Option Recovery) : (s.setRecovery c r).poison = s.poison := (rfl)
@[simp] theorem State.setRecovery_stores (c : Nat) (r : Option Recovery) : (s.setRecovery c r).stores = s.stores := (rfl)
@[simp] theorem State.setRecovery_maps (c : Nat) (r : Option Recovery) : (s.setRecovery c r).maps = s.maps := (rfl)
@[simp] theorem State.setRecovery_imem (c : Nat) (r : Option Recovery) : (s.setRecovery c r).imem = s.imem := (rfl)
@[simp] theorem State.setRecovery_accs (c : Nat) (r : Option Recovery) : (s.setRecovery c r).accs = s.accs := (rfl)
@[simp] theorem State.setRecovery_cores (c : Nat) (r : Option Recovery) : (s.setRecovery c r).cores = s.cores := (rfl)
@[simp] theorem State.setRecovery_ctxs (c : Nat) (r : Option Recovery) : (s.setRecovery c r).ctxs = s.ctxs := (rfl)
@[simp] theorem State.setRecovery_sems (c : Nat) (r : Option Recovery) : (s.setRecovery c r).sems = s.sems := (rfl)
@[simp] theorem State.setRecovery_movers (c : Nat) (r : Option Recovery) : (s.setRecovery c r).movers = s.movers := (rfl)
@[simp] theorem State.setRecovery_posts (c : Nat) (r : Option Recovery) : (s.setRecovery c r).posts = s.posts := (rfl)
@[simp] theorem State.setRecovery_dies (c : Nat) (r : Option Recovery) : (s.setRecovery c r).dies = s.dies := (rfl)
@[simp] theorem State.setRecovery_mailboxes (c : Nat) (r : Option Recovery) : (s.setRecovery c r).mailboxes = s.mailboxes := (rfl)
@[simp] theorem State.setRecovery_deltas (c : Nat) (r : Option Recovery) : (s.setRecovery c r).deltas = s.deltas := (rfl)
@[simp] theorem State.setRecovery_regions (c : Nat) (r : Option Recovery) : (s.setRecovery c r).regions = s.regions := (rfl)
@[simp] theorem State.setRecovery_spans (c : Nat) (r : Option Recovery) : (s.setRecovery c r).spans = s.spans := (rfl)
@[simp] theorem State.setRecovery_invals (c : Nat) (r : Option Recovery) : (s.setRecovery c r).invals = s.invals := (rfl)
@[simp] theorem State.setRecovery_watch (c : Nat) (r : Option Recovery) : (s.setRecovery c r).watch = s.watch := (rfl)
@[simp] theorem State.setRecovery_train (c : Nat) (r : Option Recovery) : (s.setRecovery c r).train = s.train := (rfl)
@[simp] theorem State.setRecovery_rope (c : Nat) (r : Option Recovery) : (s.setRecovery c r).rope = s.rope := (rfl)
@[simp] theorem State.setRecovery_dict (c : Nat) (r : Option Recovery) : (s.setRecovery c r).dict = s.dict := (rfl)
@[simp] theorem State.setRecovery_job (c : Nat) (r : Option Recovery) : (s.setRecovery c r).job = s.job := (rfl)
@[simp] theorem State.setRecovery_host (c : Nat) (r : Option Recovery) : (s.setRecovery c r).host = s.host := (rfl)
@[simp] theorem State.setRecovery_supply (c : Nat) (r : Option Recovery) : (s.setRecovery c r).supply = s.supply := (rfl)
@[simp] theorem State.setRecovery_memctl (c : Nat) (r : Option Recovery) : (s.setRecovery c r).memctl = s.memctl := (rfl)
@[simp] theorem State.setRecovery_boot (c : Nat) (r : Option Recovery) : (s.setRecovery c r).boot = s.boot := (rfl)

/-! ### setTrain -/

@[simp] theorem State.setTrain_pending (f : Train → Train) : (s.setTrain f).pending = s.pending := (rfl)
@[simp] theorem State.setTrain_out (f : Train → Train) : (s.setTrain f).out = s.out := (rfl)
@[simp] theorem State.setTrain_hall (f : Train → Train) : (s.setTrain f).hall = s.hall := (rfl)
@[simp] theorem State.setTrain_drawn (f : Train → Train) : (s.setTrain f).drawn = s.drawn := (rfl)
@[simp] theorem State.setTrain_down (f : Train → Train) : (s.setTrain f).down = s.down := (rfl)
@[simp] theorem State.setTrain_time (f : Train → Train) : (s.setTrain f).time = s.time := (rfl)
@[simp] theorem State.setTrain_tt (f : Train → Train) : (s.setTrain f).tt = s.tt := (rfl)
@[simp] theorem State.setTrain_hold (f : Train → Train) : (s.setTrain f).hold = s.hold := (rfl)
@[simp] theorem State.setTrain_links (f : Train → Train) : (s.setTrain f).links = s.links := (rfl)
@[simp] theorem State.setTrain_fabric (f : Train → Train) : (s.setTrain f).fabric = s.fabric := (rfl)
@[simp] theorem State.setTrain_mem (f : Train → Train) : (s.setTrain f).mem = s.mem := (rfl)
@[simp] theorem State.setTrain_poison (f : Train → Train) : (s.setTrain f).poison = s.poison := (rfl)
@[simp] theorem State.setTrain_stores (f : Train → Train) : (s.setTrain f).stores = s.stores := (rfl)
@[simp] theorem State.setTrain_maps (f : Train → Train) : (s.setTrain f).maps = s.maps := (rfl)
@[simp] theorem State.setTrain_imem (f : Train → Train) : (s.setTrain f).imem = s.imem := (rfl)
@[simp] theorem State.setTrain_accs (f : Train → Train) : (s.setTrain f).accs = s.accs := (rfl)
@[simp] theorem State.setTrain_cores (f : Train → Train) : (s.setTrain f).cores = s.cores := (rfl)
@[simp] theorem State.setTrain_ctxs (f : Train → Train) : (s.setTrain f).ctxs = s.ctxs := (rfl)
@[simp] theorem State.setTrain_sems (f : Train → Train) : (s.setTrain f).sems = s.sems := (rfl)
@[simp] theorem State.setTrain_movers (f : Train → Train) : (s.setTrain f).movers = s.movers := (rfl)
@[simp] theorem State.setTrain_posts (f : Train → Train) : (s.setTrain f).posts = s.posts := (rfl)
@[simp] theorem State.setTrain_dies (f : Train → Train) : (s.setTrain f).dies = s.dies := (rfl)
@[simp] theorem State.setTrain_mailboxes (f : Train → Train) : (s.setTrain f).mailboxes = s.mailboxes := (rfl)
@[simp] theorem State.setTrain_deltas (f : Train → Train) : (s.setTrain f).deltas = s.deltas := (rfl)
@[simp] theorem State.setTrain_regions (f : Train → Train) : (s.setTrain f).regions = s.regions := (rfl)
@[simp] theorem State.setTrain_spans (f : Train → Train) : (s.setTrain f).spans = s.spans := (rfl)
@[simp] theorem State.setTrain_invals (f : Train → Train) : (s.setTrain f).invals = s.invals := (rfl)
@[simp] theorem State.setTrain_watch (f : Train → Train) : (s.setTrain f).watch = s.watch := (rfl)
@[simp] theorem State.setTrain_rope (f : Train → Train) : (s.setTrain f).rope = s.rope := (rfl)
@[simp] theorem State.setTrain_dict (f : Train → Train) : (s.setTrain f).dict = s.dict := (rfl)
@[simp] theorem State.setTrain_faults (f : Train → Train) : (s.setTrain f).faults = s.faults := (rfl)
@[simp] theorem State.setTrain_job (f : Train → Train) : (s.setTrain f).job = s.job := (rfl)
@[simp] theorem State.setTrain_host (f : Train → Train) : (s.setTrain f).host = s.host := (rfl)
@[simp] theorem State.setTrain_supply (f : Train → Train) : (s.setTrain f).supply = s.supply := (rfl)
@[simp] theorem State.setTrain_memctl (f : Train → Train) : (s.setTrain f).memctl = s.memctl := (rfl)
@[simp] theorem State.setTrain_boot (f : Train → Train) : (s.setTrain f).boot = s.boot := (rfl)

/-! ### setWatch -/

@[simp] theorem State.setWatch_pending (f : Watch → Watch) : (s.setWatch f).pending = s.pending := (rfl)
@[simp] theorem State.setWatch_out (f : Watch → Watch) : (s.setWatch f).out = s.out := (rfl)
@[simp] theorem State.setWatch_hall (f : Watch → Watch) : (s.setWatch f).hall = s.hall := (rfl)
@[simp] theorem State.setWatch_drawn (f : Watch → Watch) : (s.setWatch f).drawn = s.drawn := (rfl)
@[simp] theorem State.setWatch_down (f : Watch → Watch) : (s.setWatch f).down = s.down := (rfl)
@[simp] theorem State.setWatch_time (f : Watch → Watch) : (s.setWatch f).time = s.time := (rfl)
@[simp] theorem State.setWatch_tt (f : Watch → Watch) : (s.setWatch f).tt = s.tt := (rfl)
@[simp] theorem State.setWatch_hold (f : Watch → Watch) : (s.setWatch f).hold = s.hold := (rfl)
@[simp] theorem State.setWatch_links (f : Watch → Watch) : (s.setWatch f).links = s.links := (rfl)
@[simp] theorem State.setWatch_fabric (f : Watch → Watch) : (s.setWatch f).fabric = s.fabric := (rfl)
@[simp] theorem State.setWatch_mem (f : Watch → Watch) : (s.setWatch f).mem = s.mem := (rfl)
@[simp] theorem State.setWatch_poison (f : Watch → Watch) : (s.setWatch f).poison = s.poison := (rfl)
@[simp] theorem State.setWatch_stores (f : Watch → Watch) : (s.setWatch f).stores = s.stores := (rfl)
@[simp] theorem State.setWatch_maps (f : Watch → Watch) : (s.setWatch f).maps = s.maps := (rfl)
@[simp] theorem State.setWatch_imem (f : Watch → Watch) : (s.setWatch f).imem = s.imem := (rfl)
@[simp] theorem State.setWatch_accs (f : Watch → Watch) : (s.setWatch f).accs = s.accs := (rfl)
@[simp] theorem State.setWatch_cores (f : Watch → Watch) : (s.setWatch f).cores = s.cores := (rfl)
@[simp] theorem State.setWatch_ctxs (f : Watch → Watch) : (s.setWatch f).ctxs = s.ctxs := (rfl)
@[simp] theorem State.setWatch_sems (f : Watch → Watch) : (s.setWatch f).sems = s.sems := (rfl)
@[simp] theorem State.setWatch_movers (f : Watch → Watch) : (s.setWatch f).movers = s.movers := (rfl)
@[simp] theorem State.setWatch_posts (f : Watch → Watch) : (s.setWatch f).posts = s.posts := (rfl)
@[simp] theorem State.setWatch_dies (f : Watch → Watch) : (s.setWatch f).dies = s.dies := (rfl)
@[simp] theorem State.setWatch_mailboxes (f : Watch → Watch) : (s.setWatch f).mailboxes = s.mailboxes := (rfl)
@[simp] theorem State.setWatch_deltas (f : Watch → Watch) : (s.setWatch f).deltas = s.deltas := (rfl)
@[simp] theorem State.setWatch_regions (f : Watch → Watch) : (s.setWatch f).regions = s.regions := (rfl)
@[simp] theorem State.setWatch_spans (f : Watch → Watch) : (s.setWatch f).spans = s.spans := (rfl)
@[simp] theorem State.setWatch_invals (f : Watch → Watch) : (s.setWatch f).invals = s.invals := (rfl)
@[simp] theorem State.setWatch_train (f : Watch → Watch) : (s.setWatch f).train = s.train := (rfl)
@[simp] theorem State.setWatch_rope (f : Watch → Watch) : (s.setWatch f).rope = s.rope := (rfl)
@[simp] theorem State.setWatch_dict (f : Watch → Watch) : (s.setWatch f).dict = s.dict := (rfl)
@[simp] theorem State.setWatch_faults (f : Watch → Watch) : (s.setWatch f).faults = s.faults := (rfl)
@[simp] theorem State.setWatch_job (f : Watch → Watch) : (s.setWatch f).job = s.job := (rfl)
@[simp] theorem State.setWatch_host (f : Watch → Watch) : (s.setWatch f).host = s.host := (rfl)
@[simp] theorem State.setWatch_supply (f : Watch → Watch) : (s.setWatch f).supply = s.supply := (rfl)
@[simp] theorem State.setWatch_memctl (f : Watch → Watch) : (s.setWatch f).memctl = s.memctl := (rfl)
@[simp] theorem State.setWatch_boot (f : Watch → Watch) : (s.setWatch f).boot = s.boot := (rfl)

/-! ### setRope -/

@[simp] theorem State.setRope_pending (f : Rope → Rope) : (s.setRope f).pending = s.pending := (rfl)
@[simp] theorem State.setRope_out (f : Rope → Rope) : (s.setRope f).out = s.out := (rfl)
@[simp] theorem State.setRope_hall (f : Rope → Rope) : (s.setRope f).hall = s.hall := (rfl)
@[simp] theorem State.setRope_drawn (f : Rope → Rope) : (s.setRope f).drawn = s.drawn := (rfl)
@[simp] theorem State.setRope_down (f : Rope → Rope) : (s.setRope f).down = s.down := (rfl)
@[simp] theorem State.setRope_time (f : Rope → Rope) : (s.setRope f).time = s.time := (rfl)
@[simp] theorem State.setRope_tt (f : Rope → Rope) : (s.setRope f).tt = s.tt := (rfl)
@[simp] theorem State.setRope_hold (f : Rope → Rope) : (s.setRope f).hold = s.hold := (rfl)
@[simp] theorem State.setRope_links (f : Rope → Rope) : (s.setRope f).links = s.links := (rfl)
@[simp] theorem State.setRope_fabric (f : Rope → Rope) : (s.setRope f).fabric = s.fabric := (rfl)
@[simp] theorem State.setRope_mem (f : Rope → Rope) : (s.setRope f).mem = s.mem := (rfl)
@[simp] theorem State.setRope_poison (f : Rope → Rope) : (s.setRope f).poison = s.poison := (rfl)
@[simp] theorem State.setRope_stores (f : Rope → Rope) : (s.setRope f).stores = s.stores := (rfl)
@[simp] theorem State.setRope_maps (f : Rope → Rope) : (s.setRope f).maps = s.maps := (rfl)
@[simp] theorem State.setRope_imem (f : Rope → Rope) : (s.setRope f).imem = s.imem := (rfl)
@[simp] theorem State.setRope_accs (f : Rope → Rope) : (s.setRope f).accs = s.accs := (rfl)
@[simp] theorem State.setRope_cores (f : Rope → Rope) : (s.setRope f).cores = s.cores := (rfl)
@[simp] theorem State.setRope_ctxs (f : Rope → Rope) : (s.setRope f).ctxs = s.ctxs := (rfl)
@[simp] theorem State.setRope_sems (f : Rope → Rope) : (s.setRope f).sems = s.sems := (rfl)
@[simp] theorem State.setRope_movers (f : Rope → Rope) : (s.setRope f).movers = s.movers := (rfl)
@[simp] theorem State.setRope_posts (f : Rope → Rope) : (s.setRope f).posts = s.posts := (rfl)
@[simp] theorem State.setRope_dies (f : Rope → Rope) : (s.setRope f).dies = s.dies := (rfl)
@[simp] theorem State.setRope_mailboxes (f : Rope → Rope) : (s.setRope f).mailboxes = s.mailboxes := (rfl)
@[simp] theorem State.setRope_deltas (f : Rope → Rope) : (s.setRope f).deltas = s.deltas := (rfl)
@[simp] theorem State.setRope_regions (f : Rope → Rope) : (s.setRope f).regions = s.regions := (rfl)
@[simp] theorem State.setRope_spans (f : Rope → Rope) : (s.setRope f).spans = s.spans := (rfl)
@[simp] theorem State.setRope_invals (f : Rope → Rope) : (s.setRope f).invals = s.invals := (rfl)
@[simp] theorem State.setRope_watch (f : Rope → Rope) : (s.setRope f).watch = s.watch := (rfl)
@[simp] theorem State.setRope_train (f : Rope → Rope) : (s.setRope f).train = s.train := (rfl)
@[simp] theorem State.setRope_dict (f : Rope → Rope) : (s.setRope f).dict = s.dict := (rfl)
@[simp] theorem State.setRope_faults (f : Rope → Rope) : (s.setRope f).faults = s.faults := (rfl)
@[simp] theorem State.setRope_job (f : Rope → Rope) : (s.setRope f).job = s.job := (rfl)
@[simp] theorem State.setRope_host (f : Rope → Rope) : (s.setRope f).host = s.host := (rfl)
@[simp] theorem State.setRope_supply (f : Rope → Rope) : (s.setRope f).supply = s.supply := (rfl)
@[simp] theorem State.setRope_memctl (f : Rope → Rope) : (s.setRope f).memctl = s.memctl := (rfl)
@[simp] theorem State.setRope_boot (f : Rope → Rope) : (s.setRope f).boot = s.boot := (rfl)

/-! ### setDict -/

@[simp] theorem State.setDict_pending (f : Dict → Dict) : (s.setDict f).pending = s.pending := (rfl)
@[simp] theorem State.setDict_out (f : Dict → Dict) : (s.setDict f).out = s.out := (rfl)
@[simp] theorem State.setDict_hall (f : Dict → Dict) : (s.setDict f).hall = s.hall := (rfl)
@[simp] theorem State.setDict_drawn (f : Dict → Dict) : (s.setDict f).drawn = s.drawn := (rfl)
@[simp] theorem State.setDict_down (f : Dict → Dict) : (s.setDict f).down = s.down := (rfl)
@[simp] theorem State.setDict_time (f : Dict → Dict) : (s.setDict f).time = s.time := (rfl)
@[simp] theorem State.setDict_tt (f : Dict → Dict) : (s.setDict f).tt = s.tt := (rfl)
@[simp] theorem State.setDict_hold (f : Dict → Dict) : (s.setDict f).hold = s.hold := (rfl)
@[simp] theorem State.setDict_links (f : Dict → Dict) : (s.setDict f).links = s.links := (rfl)
@[simp] theorem State.setDict_fabric (f : Dict → Dict) : (s.setDict f).fabric = s.fabric := (rfl)
@[simp] theorem State.setDict_mem (f : Dict → Dict) : (s.setDict f).mem = s.mem := (rfl)
@[simp] theorem State.setDict_poison (f : Dict → Dict) : (s.setDict f).poison = s.poison := (rfl)
@[simp] theorem State.setDict_stores (f : Dict → Dict) : (s.setDict f).stores = s.stores := (rfl)
@[simp] theorem State.setDict_maps (f : Dict → Dict) : (s.setDict f).maps = s.maps := (rfl)
@[simp] theorem State.setDict_imem (f : Dict → Dict) : (s.setDict f).imem = s.imem := (rfl)
@[simp] theorem State.setDict_accs (f : Dict → Dict) : (s.setDict f).accs = s.accs := (rfl)
@[simp] theorem State.setDict_cores (f : Dict → Dict) : (s.setDict f).cores = s.cores := (rfl)
@[simp] theorem State.setDict_ctxs (f : Dict → Dict) : (s.setDict f).ctxs = s.ctxs := (rfl)
@[simp] theorem State.setDict_sems (f : Dict → Dict) : (s.setDict f).sems = s.sems := (rfl)
@[simp] theorem State.setDict_movers (f : Dict → Dict) : (s.setDict f).movers = s.movers := (rfl)
@[simp] theorem State.setDict_posts (f : Dict → Dict) : (s.setDict f).posts = s.posts := (rfl)
@[simp] theorem State.setDict_dies (f : Dict → Dict) : (s.setDict f).dies = s.dies := (rfl)
@[simp] theorem State.setDict_mailboxes (f : Dict → Dict) : (s.setDict f).mailboxes = s.mailboxes := (rfl)
@[simp] theorem State.setDict_deltas (f : Dict → Dict) : (s.setDict f).deltas = s.deltas := (rfl)
@[simp] theorem State.setDict_regions (f : Dict → Dict) : (s.setDict f).regions = s.regions := (rfl)
@[simp] theorem State.setDict_spans (f : Dict → Dict) : (s.setDict f).spans = s.spans := (rfl)
@[simp] theorem State.setDict_invals (f : Dict → Dict) : (s.setDict f).invals = s.invals := (rfl)
@[simp] theorem State.setDict_watch (f : Dict → Dict) : (s.setDict f).watch = s.watch := (rfl)
@[simp] theorem State.setDict_train (f : Dict → Dict) : (s.setDict f).train = s.train := (rfl)
@[simp] theorem State.setDict_rope (f : Dict → Dict) : (s.setDict f).rope = s.rope := (rfl)
@[simp] theorem State.setDict_faults (f : Dict → Dict) : (s.setDict f).faults = s.faults := (rfl)
@[simp] theorem State.setDict_job (f : Dict → Dict) : (s.setDict f).job = s.job := (rfl)
@[simp] theorem State.setDict_host (f : Dict → Dict) : (s.setDict f).host = s.host := (rfl)
@[simp] theorem State.setDict_supply (f : Dict → Dict) : (s.setDict f).supply = s.supply := (rfl)
@[simp] theorem State.setDict_memctl (f : Dict → Dict) : (s.setDict f).memctl = s.memctl := (rfl)
@[simp] theorem State.setDict_boot (f : Dict → Dict) : (s.setDict f).boot = s.boot := (rfl)

/-! ### setMem -/

@[simp] theorem State.setMem_pending (f : MemCtl → MemCtl) : (s.setMem f).pending = s.pending := (rfl)
@[simp] theorem State.setMem_out (f : MemCtl → MemCtl) : (s.setMem f).out = s.out := (rfl)
@[simp] theorem State.setMem_hall (f : MemCtl → MemCtl) : (s.setMem f).hall = s.hall := (rfl)
@[simp] theorem State.setMem_drawn (f : MemCtl → MemCtl) : (s.setMem f).drawn = s.drawn := (rfl)
@[simp] theorem State.setMem_down (f : MemCtl → MemCtl) : (s.setMem f).down = s.down := (rfl)
@[simp] theorem State.setMem_time (f : MemCtl → MemCtl) : (s.setMem f).time = s.time := (rfl)
@[simp] theorem State.setMem_tt (f : MemCtl → MemCtl) : (s.setMem f).tt = s.tt := (rfl)
@[simp] theorem State.setMem_hold (f : MemCtl → MemCtl) : (s.setMem f).hold = s.hold := (rfl)
@[simp] theorem State.setMem_links (f : MemCtl → MemCtl) : (s.setMem f).links = s.links := (rfl)
@[simp] theorem State.setMem_fabric (f : MemCtl → MemCtl) : (s.setMem f).fabric = s.fabric := (rfl)
@[simp] theorem State.setMem_mem (f : MemCtl → MemCtl) : (s.setMem f).mem = s.mem := (rfl)
@[simp] theorem State.setMem_poison (f : MemCtl → MemCtl) : (s.setMem f).poison = s.poison := (rfl)
@[simp] theorem State.setMem_stores (f : MemCtl → MemCtl) : (s.setMem f).stores = s.stores := (rfl)
@[simp] theorem State.setMem_maps (f : MemCtl → MemCtl) : (s.setMem f).maps = s.maps := (rfl)
@[simp] theorem State.setMem_imem (f : MemCtl → MemCtl) : (s.setMem f).imem = s.imem := (rfl)
@[simp] theorem State.setMem_accs (f : MemCtl → MemCtl) : (s.setMem f).accs = s.accs := (rfl)
@[simp] theorem State.setMem_cores (f : MemCtl → MemCtl) : (s.setMem f).cores = s.cores := (rfl)
@[simp] theorem State.setMem_ctxs (f : MemCtl → MemCtl) : (s.setMem f).ctxs = s.ctxs := (rfl)
@[simp] theorem State.setMem_sems (f : MemCtl → MemCtl) : (s.setMem f).sems = s.sems := (rfl)
@[simp] theorem State.setMem_movers (f : MemCtl → MemCtl) : (s.setMem f).movers = s.movers := (rfl)
@[simp] theorem State.setMem_posts (f : MemCtl → MemCtl) : (s.setMem f).posts = s.posts := (rfl)
@[simp] theorem State.setMem_dies (f : MemCtl → MemCtl) : (s.setMem f).dies = s.dies := (rfl)
@[simp] theorem State.setMem_mailboxes (f : MemCtl → MemCtl) : (s.setMem f).mailboxes = s.mailboxes := (rfl)
@[simp] theorem State.setMem_deltas (f : MemCtl → MemCtl) : (s.setMem f).deltas = s.deltas := (rfl)
@[simp] theorem State.setMem_regions (f : MemCtl → MemCtl) : (s.setMem f).regions = s.regions := (rfl)
@[simp] theorem State.setMem_spans (f : MemCtl → MemCtl) : (s.setMem f).spans = s.spans := (rfl)
@[simp] theorem State.setMem_invals (f : MemCtl → MemCtl) : (s.setMem f).invals = s.invals := (rfl)
@[simp] theorem State.setMem_watch (f : MemCtl → MemCtl) : (s.setMem f).watch = s.watch := (rfl)
@[simp] theorem State.setMem_train (f : MemCtl → MemCtl) : (s.setMem f).train = s.train := (rfl)
@[simp] theorem State.setMem_rope (f : MemCtl → MemCtl) : (s.setMem f).rope = s.rope := (rfl)
@[simp] theorem State.setMem_dict (f : MemCtl → MemCtl) : (s.setMem f).dict = s.dict := (rfl)
@[simp] theorem State.setMem_faults (f : MemCtl → MemCtl) : (s.setMem f).faults = s.faults := (rfl)
@[simp] theorem State.setMem_job (f : MemCtl → MemCtl) : (s.setMem f).job = s.job := (rfl)
@[simp] theorem State.setMem_host (f : MemCtl → MemCtl) : (s.setMem f).host = s.host := (rfl)
@[simp] theorem State.setMem_supply (f : MemCtl → MemCtl) : (s.setMem f).supply = s.supply := (rfl)
@[simp] theorem State.setMem_boot (f : MemCtl → MemCtl) : (s.setMem f).boot = s.boot := (rfl)

/-! ### reach64 -/

@[simp] theorem State.reach64_pending (n : Nat) : (s.reach64 n).pending = s.pending := by unfold State.reach64; split <;> rfl
@[simp] theorem State.reach64_out (n : Nat) : (s.reach64 n).out = s.out := by unfold State.reach64; split <;> rfl
@[simp] theorem State.reach64_drawn (n : Nat) : (s.reach64 n).drawn = s.drawn := by unfold State.reach64; split <;> rfl
@[simp] theorem State.reach64_down (n : Nat) : (s.reach64 n).down = s.down := by unfold State.reach64; split <;> rfl
@[simp] theorem State.reach64_tt (n : Nat) : (s.reach64 n).tt = s.tt := by unfold State.reach64; split <;> rfl
@[simp] theorem State.reach64_hold (n : Nat) : (s.reach64 n).hold = s.hold := by unfold State.reach64; split <;> rfl
@[simp] theorem State.reach64_links (n : Nat) : (s.reach64 n).links = s.links := by unfold State.reach64; split <;> rfl
@[simp] theorem State.reach64_fabric (n : Nat) : (s.reach64 n).fabric = s.fabric := by unfold State.reach64; split <;> rfl
@[simp] theorem State.reach64_mem (n : Nat) : (s.reach64 n).mem = s.mem := by unfold State.reach64; split <;> rfl
@[simp] theorem State.reach64_poison (n : Nat) : (s.reach64 n).poison = s.poison := by unfold State.reach64; split <;> rfl
@[simp] theorem State.reach64_stores (n : Nat) : (s.reach64 n).stores = s.stores := by unfold State.reach64; split <;> rfl
@[simp] theorem State.reach64_maps (n : Nat) : (s.reach64 n).maps = s.maps := by unfold State.reach64; split <;> rfl
@[simp] theorem State.reach64_imem (n : Nat) : (s.reach64 n).imem = s.imem := by unfold State.reach64; split <;> rfl
@[simp] theorem State.reach64_accs (n : Nat) : (s.reach64 n).accs = s.accs := by unfold State.reach64; split <;> rfl
@[simp] theorem State.reach64_cores (n : Nat) : (s.reach64 n).cores = s.cores := by unfold State.reach64; split <;> rfl
@[simp] theorem State.reach64_ctxs (n : Nat) : (s.reach64 n).ctxs = s.ctxs := by unfold State.reach64; split <;> rfl
@[simp] theorem State.reach64_sems (n : Nat) : (s.reach64 n).sems = s.sems := by unfold State.reach64; split <;> rfl
@[simp] theorem State.reach64_movers (n : Nat) : (s.reach64 n).movers = s.movers := by unfold State.reach64; split <;> rfl
@[simp] theorem State.reach64_posts (n : Nat) : (s.reach64 n).posts = s.posts := by unfold State.reach64; split <;> rfl
@[simp] theorem State.reach64_dies (n : Nat) : (s.reach64 n).dies = s.dies := by unfold State.reach64; split <;> rfl
@[simp] theorem State.reach64_mailboxes (n : Nat) : (s.reach64 n).mailboxes = s.mailboxes := by unfold State.reach64; split <;> rfl
@[simp] theorem State.reach64_deltas (n : Nat) : (s.reach64 n).deltas = s.deltas := by unfold State.reach64; split <;> rfl
@[simp] theorem State.reach64_regions (n : Nat) : (s.reach64 n).regions = s.regions := by unfold State.reach64; split <;> rfl
@[simp] theorem State.reach64_spans (n : Nat) : (s.reach64 n).spans = s.spans := by unfold State.reach64; split <;> rfl
@[simp] theorem State.reach64_invals (n : Nat) : (s.reach64 n).invals = s.invals := by unfold State.reach64; split <;> rfl
@[simp] theorem State.reach64_watch (n : Nat) : (s.reach64 n).watch = s.watch := by unfold State.reach64; split <;> rfl
@[simp] theorem State.reach64_train (n : Nat) : (s.reach64 n).train = s.train := by unfold State.reach64; split <;> rfl
@[simp] theorem State.reach64_rope (n : Nat) : (s.reach64 n).rope = s.rope := by unfold State.reach64; split <;> rfl
@[simp] theorem State.reach64_dict (n : Nat) : (s.reach64 n).dict = s.dict := by unfold State.reach64; split <;> rfl
@[simp] theorem State.reach64_faults (n : Nat) : (s.reach64 n).faults = s.faults := by unfold State.reach64; split <;> rfl
@[simp] theorem State.reach64_job (n : Nat) : (s.reach64 n).job = s.job := by unfold State.reach64; split <;> rfl
@[simp] theorem State.reach64_host (n : Nat) : (s.reach64 n).host = s.host := by unfold State.reach64; split <;> rfl
@[simp] theorem State.reach64_supply (n : Nat) : (s.reach64 n).supply = s.supply := by unfold State.reach64; split <;> rfl
@[simp] theorem State.reach64_memctl (n : Nat) : (s.reach64 n).memctl = s.memctl := by unfold State.reach64; split <;> rfl
@[simp] theorem State.reach64_boot (n : Nat) : (s.reach64 n).boot = s.boot := by unfold State.reach64; split <;> rfl

/-! ### reach -/

@[simp] theorem State.reach_pending (n : Nat) : (s.reach n).pending = s.pending := State.reach64_pending s _
@[simp] theorem State.reach_out (n : Nat) : (s.reach n).out = s.out := State.reach64_out s _
@[simp] theorem State.reach_drawn (n : Nat) : (s.reach n).drawn = s.drawn := State.reach64_drawn s _
@[simp] theorem State.reach_down (n : Nat) : (s.reach n).down = s.down := State.reach64_down s _
@[simp] theorem State.reach_tt (n : Nat) : (s.reach n).tt = s.tt := State.reach64_tt s _
@[simp] theorem State.reach_hold (n : Nat) : (s.reach n).hold = s.hold := State.reach64_hold s _
@[simp] theorem State.reach_links (n : Nat) : (s.reach n).links = s.links := State.reach64_links s _
@[simp] theorem State.reach_fabric (n : Nat) : (s.reach n).fabric = s.fabric := State.reach64_fabric s _
@[simp] theorem State.reach_mem (n : Nat) : (s.reach n).mem = s.mem := State.reach64_mem s _
@[simp] theorem State.reach_poison (n : Nat) : (s.reach n).poison = s.poison := State.reach64_poison s _
@[simp] theorem State.reach_stores (n : Nat) : (s.reach n).stores = s.stores := State.reach64_stores s _
@[simp] theorem State.reach_maps (n : Nat) : (s.reach n).maps = s.maps := State.reach64_maps s _
@[simp] theorem State.reach_imem (n : Nat) : (s.reach n).imem = s.imem := State.reach64_imem s _
@[simp] theorem State.reach_accs (n : Nat) : (s.reach n).accs = s.accs := State.reach64_accs s _
@[simp] theorem State.reach_cores (n : Nat) : (s.reach n).cores = s.cores := State.reach64_cores s _
@[simp] theorem State.reach_ctxs (n : Nat) : (s.reach n).ctxs = s.ctxs := State.reach64_ctxs s _
@[simp] theorem State.reach_sems (n : Nat) : (s.reach n).sems = s.sems := State.reach64_sems s _
@[simp] theorem State.reach_movers (n : Nat) : (s.reach n).movers = s.movers := State.reach64_movers s _
@[simp] theorem State.reach_posts (n : Nat) : (s.reach n).posts = s.posts := State.reach64_posts s _
@[simp] theorem State.reach_dies (n : Nat) : (s.reach n).dies = s.dies := State.reach64_dies s _
@[simp] theorem State.reach_mailboxes (n : Nat) : (s.reach n).mailboxes = s.mailboxes := State.reach64_mailboxes s _
@[simp] theorem State.reach_deltas (n : Nat) : (s.reach n).deltas = s.deltas := State.reach64_deltas s _
@[simp] theorem State.reach_regions (n : Nat) : (s.reach n).regions = s.regions := State.reach64_regions s _
@[simp] theorem State.reach_spans (n : Nat) : (s.reach n).spans = s.spans := State.reach64_spans s _
@[simp] theorem State.reach_invals (n : Nat) : (s.reach n).invals = s.invals := State.reach64_invals s _
@[simp] theorem State.reach_watch (n : Nat) : (s.reach n).watch = s.watch := State.reach64_watch s _
@[simp] theorem State.reach_train (n : Nat) : (s.reach n).train = s.train := State.reach64_train s _
@[simp] theorem State.reach_rope (n : Nat) : (s.reach n).rope = s.rope := State.reach64_rope s _
@[simp] theorem State.reach_dict (n : Nat) : (s.reach n).dict = s.dict := State.reach64_dict s _
@[simp] theorem State.reach_faults (n : Nat) : (s.reach n).faults = s.faults := State.reach64_faults s _
@[simp] theorem State.reach_job (n : Nat) : (s.reach n).job = s.job := State.reach64_job s _
@[simp] theorem State.reach_host (n : Nat) : (s.reach n).host = s.host := State.reach64_host s _
@[simp] theorem State.reach_supply (n : Nat) : (s.reach n).supply = s.supply := State.reach64_supply s _
@[simp] theorem State.reach_memctl (n : Nat) : (s.reach n).memctl = s.memctl := State.reach64_memctl s _
@[simp] theorem State.reach_boot (n : Nat) : (s.reach n).boot = s.boot := State.reach64_boot s _

/-! ### log -/

@[simp] theorem State.log_pending (ev dom : Nat) (items : List (Nat × Nat)) : (s.log ev dom items).pending = s.pending := by
  unfold State.log State.on; dsimp only; split <;> rfl
@[simp] theorem State.log_out (ev dom : Nat) (items : List (Nat × Nat)) : (s.log ev dom items).out = s.out := by
  unfold State.log State.on; dsimp only; split <;> rfl
@[simp] theorem State.log_hall (ev dom : Nat) (items : List (Nat × Nat)) : (s.log ev dom items).hall = s.hall := by
  unfold State.log State.on; dsimp only; split <;> rfl
@[simp] theorem State.log_drawn (ev dom : Nat) (items : List (Nat × Nat)) : (s.log ev dom items).drawn = s.drawn := by
  unfold State.log State.on; dsimp only; split <;> rfl
@[simp] theorem State.log_down (ev dom : Nat) (items : List (Nat × Nat)) : (s.log ev dom items).down = s.down := by
  unfold State.log State.on; dsimp only; split <;> rfl
@[simp] theorem State.log_time (ev dom : Nat) (items : List (Nat × Nat)) : (s.log ev dom items).time = s.time := by
  unfold State.log State.on; dsimp only; split <;> rfl
@[simp] theorem State.log_tt (ev dom : Nat) (items : List (Nat × Nat)) : (s.log ev dom items).tt = s.tt := by
  unfold State.log State.on; dsimp only; split <;> rfl
@[simp] theorem State.log_hold (ev dom : Nat) (items : List (Nat × Nat)) : (s.log ev dom items).hold = s.hold := by
  unfold State.log State.on; dsimp only; split <;> rfl
@[simp] theorem State.log_links (ev dom : Nat) (items : List (Nat × Nat)) : (s.log ev dom items).links = s.links := by
  unfold State.log State.on; dsimp only; split <;> rfl
@[simp] theorem State.log_fabric (ev dom : Nat) (items : List (Nat × Nat)) : (s.log ev dom items).fabric = s.fabric := by
  unfold State.log State.on; dsimp only; split <;> rfl
@[simp] theorem State.log_mem (ev dom : Nat) (items : List (Nat × Nat)) : (s.log ev dom items).mem = s.mem := by
  unfold State.log State.on; dsimp only; split <;> rfl
@[simp] theorem State.log_poison (ev dom : Nat) (items : List (Nat × Nat)) : (s.log ev dom items).poison = s.poison := by
  unfold State.log State.on; dsimp only; split <;> rfl
@[simp] theorem State.log_stores (ev dom : Nat) (items : List (Nat × Nat)) : (s.log ev dom items).stores = s.stores := by
  unfold State.log State.on; dsimp only; split <;> rfl
@[simp] theorem State.log_maps (ev dom : Nat) (items : List (Nat × Nat)) : (s.log ev dom items).maps = s.maps := by
  unfold State.log State.on; dsimp only; split <;> rfl
@[simp] theorem State.log_imem (ev dom : Nat) (items : List (Nat × Nat)) : (s.log ev dom items).imem = s.imem := by
  unfold State.log State.on; dsimp only; split <;> rfl
@[simp] theorem State.log_accs (ev dom : Nat) (items : List (Nat × Nat)) : (s.log ev dom items).accs = s.accs := by
  unfold State.log State.on; dsimp only; split <;> rfl
@[simp] theorem State.log_cores (ev dom : Nat) (items : List (Nat × Nat)) : (s.log ev dom items).cores = s.cores := by
  unfold State.log State.on; dsimp only; split <;> rfl
@[simp] theorem State.log_ctxs (ev dom : Nat) (items : List (Nat × Nat)) : (s.log ev dom items).ctxs = s.ctxs := by
  unfold State.log State.on; dsimp only; split <;> rfl
@[simp] theorem State.log_sems (ev dom : Nat) (items : List (Nat × Nat)) : (s.log ev dom items).sems = s.sems := by
  unfold State.log State.on; dsimp only; split <;> rfl
@[simp] theorem State.log_movers (ev dom : Nat) (items : List (Nat × Nat)) : (s.log ev dom items).movers = s.movers := by
  unfold State.log State.on; dsimp only; split <;> rfl
@[simp] theorem State.log_posts (ev dom : Nat) (items : List (Nat × Nat)) : (s.log ev dom items).posts = s.posts := by
  unfold State.log State.on; dsimp only; split <;> rfl
@[simp] theorem State.log_dies (ev dom : Nat) (items : List (Nat × Nat)) : (s.log ev dom items).dies = s.dies := by
  unfold State.log State.on; dsimp only; split <;> rfl
@[simp] theorem State.log_mailboxes (ev dom : Nat) (items : List (Nat × Nat)) : (s.log ev dom items).mailboxes = s.mailboxes := by
  unfold State.log State.on; dsimp only; split <;> rfl
@[simp] theorem State.log_deltas (ev dom : Nat) (items : List (Nat × Nat)) : (s.log ev dom items).deltas = s.deltas := by
  unfold State.log State.on; dsimp only; split <;> rfl
@[simp] theorem State.log_regions (ev dom : Nat) (items : List (Nat × Nat)) : (s.log ev dom items).regions = s.regions := by
  unfold State.log State.on; dsimp only; split <;> rfl
@[simp] theorem State.log_spans (ev dom : Nat) (items : List (Nat × Nat)) : (s.log ev dom items).spans = s.spans := by
  unfold State.log State.on; dsimp only; split <;> rfl
@[simp] theorem State.log_invals (ev dom : Nat) (items : List (Nat × Nat)) : (s.log ev dom items).invals = s.invals := by
  unfold State.log State.on; dsimp only; split <;> rfl
@[simp] theorem State.log_watch (ev dom : Nat) (items : List (Nat × Nat)) : (s.log ev dom items).watch = s.watch := by
  unfold State.log State.on; dsimp only; split <;> rfl
@[simp] theorem State.log_train (ev dom : Nat) (items : List (Nat × Nat)) : (s.log ev dom items).train = s.train := by
  unfold State.log State.on; dsimp only; split <;> rfl
@[simp] theorem State.log_rope (ev dom : Nat) (items : List (Nat × Nat)) : (s.log ev dom items).rope = s.rope := by
  unfold State.log State.on; dsimp only; split <;> rfl
@[simp] theorem State.log_job (ev dom : Nat) (items : List (Nat × Nat)) : (s.log ev dom items).job = s.job := by
  unfold State.log State.on; dsimp only; split <;> rfl
@[simp] theorem State.log_host (ev dom : Nat) (items : List (Nat × Nat)) : (s.log ev dom items).host = s.host := by
  unfold State.log State.on; dsimp only; split <;> rfl
@[simp] theorem State.log_supply (ev dom : Nat) (items : List (Nat × Nat)) : (s.log ev dom items).supply = s.supply := by
  unfold State.log State.on; dsimp only; split <;> rfl
@[simp] theorem State.log_memctl (ev dom : Nat) (items : List (Nat × Nat)) : (s.log ev dom items).memctl = s.memctl := by
  unfold State.log State.on; dsimp only; split <;> rfl
@[simp] theorem State.log_boot (ev dom : Nat) (items : List (Nat × Nat)) : (s.log ev dom items).boot = s.boot := by
  unfold State.log State.on; dsimp only; split <;> rfl

/-! ### interrupt -/

@[simp] theorem State.interrupt_pending (v : Nat) : (s.interrupt v).pending = s.pending := by unfold State.interrupt; split <;> rfl
@[simp] theorem State.interrupt_hall (v : Nat) : (s.interrupt v).hall = s.hall := by unfold State.interrupt; split <;> rfl
@[simp] theorem State.interrupt_drawn (v : Nat) : (s.interrupt v).drawn = s.drawn := by unfold State.interrupt; split <;> rfl
@[simp] theorem State.interrupt_down (v : Nat) : (s.interrupt v).down = s.down := by unfold State.interrupt; split <;> rfl
@[simp] theorem State.interrupt_time (v : Nat) : (s.interrupt v).time = s.time := by unfold State.interrupt; split <;> rfl
@[simp] theorem State.interrupt_tt (v : Nat) : (s.interrupt v).tt = s.tt := by unfold State.interrupt; split <;> rfl
@[simp] theorem State.interrupt_hold (v : Nat) : (s.interrupt v).hold = s.hold := by unfold State.interrupt; split <;> rfl
@[simp] theorem State.interrupt_links (v : Nat) : (s.interrupt v).links = s.links := by unfold State.interrupt; split <;> rfl
@[simp] theorem State.interrupt_fabric (v : Nat) : (s.interrupt v).fabric = s.fabric := by unfold State.interrupt; split <;> rfl
@[simp] theorem State.interrupt_mem (v : Nat) : (s.interrupt v).mem = s.mem := by unfold State.interrupt; split <;> rfl
@[simp] theorem State.interrupt_poison (v : Nat) : (s.interrupt v).poison = s.poison := by unfold State.interrupt; split <;> rfl
@[simp] theorem State.interrupt_stores (v : Nat) : (s.interrupt v).stores = s.stores := by unfold State.interrupt; split <;> rfl
@[simp] theorem State.interrupt_maps (v : Nat) : (s.interrupt v).maps = s.maps := by unfold State.interrupt; split <;> rfl
@[simp] theorem State.interrupt_imem (v : Nat) : (s.interrupt v).imem = s.imem := by unfold State.interrupt; split <;> rfl
@[simp] theorem State.interrupt_accs (v : Nat) : (s.interrupt v).accs = s.accs := by unfold State.interrupt; split <;> rfl
@[simp] theorem State.interrupt_cores (v : Nat) : (s.interrupt v).cores = s.cores := by unfold State.interrupt; split <;> rfl
@[simp] theorem State.interrupt_ctxs (v : Nat) : (s.interrupt v).ctxs = s.ctxs := by unfold State.interrupt; split <;> rfl
@[simp] theorem State.interrupt_sems (v : Nat) : (s.interrupt v).sems = s.sems := by unfold State.interrupt; split <;> rfl
@[simp] theorem State.interrupt_movers (v : Nat) : (s.interrupt v).movers = s.movers := by unfold State.interrupt; split <;> rfl
@[simp] theorem State.interrupt_posts (v : Nat) : (s.interrupt v).posts = s.posts := by unfold State.interrupt; split <;> rfl
@[simp] theorem State.interrupt_dies (v : Nat) : (s.interrupt v).dies = s.dies := by unfold State.interrupt; split <;> rfl
@[simp] theorem State.interrupt_mailboxes (v : Nat) : (s.interrupt v).mailboxes = s.mailboxes := by unfold State.interrupt; split <;> rfl
@[simp] theorem State.interrupt_deltas (v : Nat) : (s.interrupt v).deltas = s.deltas := by unfold State.interrupt; split <;> rfl
@[simp] theorem State.interrupt_regions (v : Nat) : (s.interrupt v).regions = s.regions := by unfold State.interrupt; split <;> rfl
@[simp] theorem State.interrupt_spans (v : Nat) : (s.interrupt v).spans = s.spans := by unfold State.interrupt; split <;> rfl
@[simp] theorem State.interrupt_invals (v : Nat) : (s.interrupt v).invals = s.invals := by unfold State.interrupt; split <;> rfl
@[simp] theorem State.interrupt_watch (v : Nat) : (s.interrupt v).watch = s.watch := by unfold State.interrupt; split <;> rfl
@[simp] theorem State.interrupt_train (v : Nat) : (s.interrupt v).train = s.train := by unfold State.interrupt; split <;> rfl
@[simp] theorem State.interrupt_rope (v : Nat) : (s.interrupt v).rope = s.rope := by unfold State.interrupt; split <;> rfl
@[simp] theorem State.interrupt_dict (v : Nat) : (s.interrupt v).dict = s.dict := by unfold State.interrupt; split <;> rfl
@[simp] theorem State.interrupt_faults (v : Nat) : (s.interrupt v).faults = s.faults := by unfold State.interrupt; split <;> rfl
@[simp] theorem State.interrupt_job (v : Nat) : (s.interrupt v).job = s.job := by unfold State.interrupt; split <;> rfl
@[simp] theorem State.interrupt_supply (v : Nat) : (s.interrupt v).supply = s.supply := by unfold State.interrupt; split <;> rfl
@[simp] theorem State.interrupt_memctl (v : Nat) : (s.interrupt v).memctl = s.memctl := by unfold State.interrupt; split <;> rfl
@[simp] theorem State.interrupt_boot (v : Nat) : (s.interrupt v).boot = s.boot := by unfold State.interrupt; split <;> rfl

/-! ### sendDeltas -/

@[simp] theorem State.sendDeltas_pending (ds : List Delta) : (s.sendDeltas ds).pending = s.pending := (rfl)
@[simp] theorem State.sendDeltas_out (ds : List Delta) : (s.sendDeltas ds).out = s.out := (rfl)
@[simp] theorem State.sendDeltas_hall (ds : List Delta) : (s.sendDeltas ds).hall = s.hall := (rfl)
@[simp] theorem State.sendDeltas_drawn (ds : List Delta) : (s.sendDeltas ds).drawn = s.drawn := (rfl)
@[simp] theorem State.sendDeltas_down (ds : List Delta) : (s.sendDeltas ds).down = s.down := (rfl)
@[simp] theorem State.sendDeltas_time (ds : List Delta) : (s.sendDeltas ds).time = s.time := (rfl)
@[simp] theorem State.sendDeltas_tt (ds : List Delta) : (s.sendDeltas ds).tt = s.tt := (rfl)
@[simp] theorem State.sendDeltas_hold (ds : List Delta) : (s.sendDeltas ds).hold = s.hold := (rfl)
@[simp] theorem State.sendDeltas_links (ds : List Delta) : (s.sendDeltas ds).links = s.links := (rfl)
@[simp] theorem State.sendDeltas_fabric (ds : List Delta) : (s.sendDeltas ds).fabric = s.fabric := (rfl)
@[simp] theorem State.sendDeltas_mem (ds : List Delta) : (s.sendDeltas ds).mem = s.mem := (rfl)
@[simp] theorem State.sendDeltas_poison (ds : List Delta) : (s.sendDeltas ds).poison = s.poison := (rfl)
@[simp] theorem State.sendDeltas_stores (ds : List Delta) : (s.sendDeltas ds).stores = s.stores := (rfl)
@[simp] theorem State.sendDeltas_maps (ds : List Delta) : (s.sendDeltas ds).maps = s.maps := (rfl)
@[simp] theorem State.sendDeltas_imem (ds : List Delta) : (s.sendDeltas ds).imem = s.imem := (rfl)
@[simp] theorem State.sendDeltas_accs (ds : List Delta) : (s.sendDeltas ds).accs = s.accs := (rfl)
@[simp] theorem State.sendDeltas_cores (ds : List Delta) : (s.sendDeltas ds).cores = s.cores := (rfl)
@[simp] theorem State.sendDeltas_ctxs (ds : List Delta) : (s.sendDeltas ds).ctxs = s.ctxs := (rfl)
@[simp] theorem State.sendDeltas_sems (ds : List Delta) : (s.sendDeltas ds).sems = s.sems := (rfl)
@[simp] theorem State.sendDeltas_movers (ds : List Delta) : (s.sendDeltas ds).movers = s.movers := (rfl)
@[simp] theorem State.sendDeltas_posts (ds : List Delta) : (s.sendDeltas ds).posts = s.posts := (rfl)
@[simp] theorem State.sendDeltas_dies (ds : List Delta) : (s.sendDeltas ds).dies = s.dies := (rfl)
@[simp] theorem State.sendDeltas_mailboxes (ds : List Delta) : (s.sendDeltas ds).mailboxes = s.mailboxes := (rfl)
@[simp] theorem State.sendDeltas_regions (ds : List Delta) : (s.sendDeltas ds).regions = s.regions := (rfl)
@[simp] theorem State.sendDeltas_spans (ds : List Delta) : (s.sendDeltas ds).spans = s.spans := (rfl)
@[simp] theorem State.sendDeltas_invals (ds : List Delta) : (s.sendDeltas ds).invals = s.invals := (rfl)
@[simp] theorem State.sendDeltas_watch (ds : List Delta) : (s.sendDeltas ds).watch = s.watch := (rfl)
@[simp] theorem State.sendDeltas_train (ds : List Delta) : (s.sendDeltas ds).train = s.train := (rfl)
@[simp] theorem State.sendDeltas_rope (ds : List Delta) : (s.sendDeltas ds).rope = s.rope := (rfl)
@[simp] theorem State.sendDeltas_dict (ds : List Delta) : (s.sendDeltas ds).dict = s.dict := (rfl)
@[simp] theorem State.sendDeltas_faults (ds : List Delta) : (s.sendDeltas ds).faults = s.faults := (rfl)
@[simp] theorem State.sendDeltas_job (ds : List Delta) : (s.sendDeltas ds).job = s.job := (rfl)
@[simp] theorem State.sendDeltas_host (ds : List Delta) : (s.sendDeltas ds).host = s.host := (rfl)
@[simp] theorem State.sendDeltas_supply (ds : List Delta) : (s.sendDeltas ds).supply = s.supply := (rfl)
@[simp] theorem State.sendDeltas_memctl (ds : List Delta) : (s.sendDeltas ds).memctl = s.memctl := (rfl)
@[simp] theorem State.sendDeltas_boot (ds : List Delta) : (s.sendDeltas ds).boot = s.boot := (rfl)

/-! ### What an update writes -/

@[simp] theorem State.emit_out (o : Out) : (s.emit o).out = o :: s.out := (rfl)
@[simp] theorem State.setTime_time (f : TimeUnit → TimeUnit) : (s.setTime f).time = f s.time := (rfl)
@[simp] theorem State.setHold_hold (f : HallHold → HallHold) : (s.setHold f).hold = f s.hold := (rfl)
@[simp] theorem State.setSupply_supply (f : Supply → Supply) : (s.setSupply f).supply = f s.supply := (rfl)
@[simp] theorem State.setBoot_boot (f : Boot → Boot) : (s.setBoot f).boot = f s.boot := (rfl)
@[simp] theorem State.setHost_host (f : HostPort → HostPort) : (s.setHost f).host = f s.host := (rfl)
@[simp] theorem State.setFaults_faults (f : Faults → Faults) : (s.setFaults f).faults = f s.faults := (rfl)
@[simp] theorem State.setTrain_train (f : Train → Train) : (s.setTrain f).train = f s.train := (rfl)
@[simp] theorem State.setWatch_watch (f : Watch → Watch) : (s.setWatch f).watch = f s.watch := (rfl)
@[simp] theorem State.setRope_rope (f : Rope → Rope) : (s.setRope f).rope = f s.rope := (rfl)
@[simp] theorem State.setDict_dict (f : Dict → Dict) : (s.setDict f).dict = f s.dict := (rfl)
@[simp] theorem State.setMem_memctl (f : MemCtl → MemCtl) : (s.setMem f).memctl = f s.memctl := (rfl)
@[simp] theorem State.core_setCore (c : Nat) (v : CoreSt) : (s.setCore c v).core c = v := by
  simp [State.core, State.setCore, Tbl.get_set_same]
@[simp] theorem State.ctx_setCtx (c x : Nat) (v : CtxSt) : (s.setCtx c x v).ctx c x = v := by
  simp [State.ctx, State.setCtx, Tbl.get_set_same]
@[simp] theorem State.sem_setSem (c n : Nat) (v : SemSt) : (s.setSem c n v).sem c n = v := by
  simp [State.sem, State.setSem, Tbl.get_set_same]
@[simp] theorem State.mover_setMover (m : Nat) (v : MoverSt) : (s.setMover m v).mover m = v := by
  simp [State.mover, State.setMover, Tbl.get_set_same]
@[simp] theorem State.link_setLink (l : Nat) (v : LinkSt) : (s.setLink l v).link l = v := by
  simp [State.link, State.setLink, Tbl.get_set_same]
@[simp] theorem State.flow_setFlow (c : Nat) (v : Flow) : (s.setFlow c v).flow c = v := by
  simp [State.flow, State.setFlow, Tbl.get_set_same]
@[simp] theorem State.linkTime_setLinkTime (l : Nat) (v : LinkTime) : (s.setLinkTime l v).linkTime l = v := by
  simp [State.linkTime, State.setLinkTime, State.setTime, Tbl.get_set_same]
@[simp] theorem State.engine_setEngine (l : Nat) (v : TtEngine) : (s.setEngine l v).engine l = v := by
  simp [State.engine, State.setEngine, Tbl.get_set_same]

/-! ### Objects stay -/

@[simp] theorem State.draw_obj (a b : Nat) : s.draw.2.obj a b = s.obj a b := (rfl)
@[simp] theorem State.emit_obj (o : Out) (a b : Nat) : (s.emit o).obj a b = s.obj a b := by
  simp [State.obj]
@[simp] theorem State.write_obj (a : Nat) (bs : List Byte) (k b : Nat) : (s.write a bs).obj k b = s.obj k b := by
  simp [State.obj]
@[simp] theorem State.writeBytes_obj (ws : List (Nat × Byte)) (a b : Nat) : (s.writeBytes ws).obj a b = s.obj a b := by
  simp [State.obj]
@[simp] theorem State.storeWrite_obj (c st off : Nat) (bs : List Byte) (a b : Nat) : (s.storeWrite c st off bs).obj a b = s.obj a b := by
  simp [State.obj]
@[simp] theorem State.storeBytes_obj (ws : List (Nat × Byte)) (a b : Nat) : (s.storeBytes ws).obj a b = s.obj a b := by
  simp [State.obj]
@[simp] theorem State.setCore_obj (c : Nat) (x : CoreSt) (a b : Nat) : (s.setCore c x).obj a b = s.obj a b := by
  simp [State.obj]
@[simp] theorem State.mapCore_obj (c : Nat) (f : CoreSt → CoreSt) (a b : Nat) : (s.mapCore c f).obj a b = s.obj a b := by
  simp [State.obj]
@[simp] theorem State.setCtx_obj (c x : Nat) (v : CtxSt) (a b : Nat) : (s.setCtx c x v).obj a b = s.obj a b := by
  simp [State.obj]
@[simp] theorem State.mapCtx_obj (c x : Nat) (f : CtxSt → CtxSt) (a b : Nat) : (s.mapCtx c x f).obj a b = s.obj a b := by
  simp [State.obj]
@[simp] theorem State.setSem_obj (c n : Nat) (v : SemSt) (a b : Nat) : (s.setSem c n v).obj a b = s.obj a b := by
  simp [State.obj]
@[simp] theorem State.setMover_obj (m : Nat) (v : MoverSt) (a b : Nat) : (s.setMover m v).obj a b = s.obj a b := by
  simp [State.obj]
@[simp] theorem State.setLink_obj (l : Nat) (v : LinkSt) (a b : Nat) : (s.setLink l v).obj a b = s.obj a b := by
  simp [State.obj]
@[simp] theorem State.mapLink_obj (l : Nat) (f : LinkSt → LinkSt) (a b : Nat) : (s.mapLink l f).obj a b = s.obj a b := by
  simp [State.obj]
@[simp] theorem State.setFlow_obj (c : Nat) (v : Flow) (a b : Nat) : (s.setFlow c v).obj a b = s.obj a b := by
  simp [State.obj]
@[simp] theorem State.setPool_obj (d n : Nat) (a b : Nat) : (s.setPool d n).obj a b = s.obj a b := by
  simp [State.obj]
@[simp] theorem State.setTime_obj (f : TimeUnit → TimeUnit) (a b : Nat) : (s.setTime f).obj a b = s.obj a b := by
  simp [State.obj]
@[simp] theorem State.setLinkTime_obj (l : Nat) (v : LinkTime) (a b : Nat) : (s.setLinkTime l v).obj a b = s.obj a b := by
  simp [State.obj]
@[simp] theorem State.setEngine_obj (l : Nat) (v : TtEngine) (a b : Nat) : (s.setEngine l v).obj a b = s.obj a b := by
  simp [State.obj]
@[simp] theorem State.setRx_obj (l : Nat) (v : Option RxWindow) (a b : Nat) : (s.setRx l v).obj a b = s.obj a b := by
  simp [State.obj]
@[simp] theorem State.setHold_obj (f : HallHold → HallHold) (a b : Nat) : (s.setHold f).obj a b = s.obj a b := by
  simp [State.obj]
@[simp] theorem State.setSupply_obj (f : Supply → Supply) (a b : Nat) : (s.setSupply f).obj a b = s.obj a b := by
  simp [State.obj]
@[simp] theorem State.setBoot_obj (f : Boot → Boot) (a b : Nat) : (s.setBoot f).obj a b = s.obj a b := by
  simp [State.obj]
@[simp] theorem State.setHost_obj (f : HostPort → HostPort) (a b : Nat) : (s.setHost f).obj a b = s.obj a b := by
  simp [State.obj]
@[simp] theorem State.setFaults_obj (f : Faults → Faults) (a b : Nat) : (s.setFaults f).obj a b = s.obj a b := by
  simp [State.obj]
@[simp] theorem State.setRecovery_obj (c : Nat) (r : Option Recovery) (a b : Nat) : (s.setRecovery c r).obj a b = s.obj a b := by
  simp [State.obj]
@[simp] theorem State.setTrain_obj (f : Train → Train) (a b : Nat) : (s.setTrain f).obj a b = s.obj a b := by
  simp [State.obj]
@[simp] theorem State.setWatch_obj (f : Watch → Watch) (a b : Nat) : (s.setWatch f).obj a b = s.obj a b := by
  simp [State.obj]
@[simp] theorem State.setRope_obj (f : Rope → Rope) (a b : Nat) : (s.setRope f).obj a b = s.obj a b := by
  simp [State.obj]
@[simp] theorem State.setMem_obj (f : MemCtl → MemCtl) (a b : Nat) : (s.setMem f).obj a b = s.obj a b := by
  simp [State.obj]
@[simp] theorem State.reach64_obj (n : Nat) (a b : Nat) : (s.reach64 n).obj a b = s.obj a b := by
  simp [State.obj]
@[simp] theorem State.reach_obj (n : Nat) (a b : Nat) : (s.reach n).obj a b = s.obj a b := by
  simp [State.obj]
@[simp] theorem State.interrupt_obj (v : Nat) (a b : Nat) : (s.interrupt v).obj a b = s.obj a b := by
  simp [State.obj]
@[simp] theorem State.sendDeltas_obj (ds : List Delta) (a b : Nat) : (s.sendDeltas ds).obj a b = s.obj a b := by
  simp [State.obj]

/-! ### Reaching an instant leaves the time unit but for its slew -/

@[simp] theorem State.reach64_time_state (n : Nat) : (s.reach64 n).time.state = s.time.state := by
  unfold State.reach64; split <;> rfl
@[simp] theorem State.reach64_time_everLocked (n : Nat) : (s.reach64 n).time.everLocked = s.time.everLocked := by
  unfold State.reach64; split <;> rfl
@[simp] theorem State.reach64_time_isRoot (n : Nat) : (s.reach64 n).time.isRoot = s.time.isRoot := by
  unfold State.reach64; split <;> rfl
@[simp] theorem State.reach64_time_started (n : Nat) : (s.reach64 n).time.started = s.time.started := by
  unfold State.reach64; split <;> rfl
@[simp] theorem State.reach64_time_tier (n : Nat) : (s.reach64 n).time.tier = s.time.tier := by
  unfold State.reach64; split <;> rfl
@[simp] theorem State.reach64_time_parent (n : Nat) : (s.reach64 n).time.parent = s.time.parent := by
  unfold State.reach64; split <;> rfl
@[simp] theorem State.reach64_time_rootIndex (n : Nat) : (s.reach64 n).time.rootIndex = s.time.rootIndex := by
  unfold State.reach64; split <;> rfl
@[simp] theorem State.reach64_time_rootBeat (n : Nat) : (s.reach64 n).time.rootBeat = s.time.rootBeat := by
  unfold State.reach64; split <;> rfl
@[simp] theorem State.reach64_time_beatAt (n : Nat) : (s.reach64 n).time.beatAt = s.time.beatAt := by
  unfold State.reach64; split <;> rfl
@[simp] theorem State.reach64_time_beatLost (n : Nat) : (s.reach64 n).time.beatLost = s.time.beatLost := by
  unfold State.reach64; split <;> rfl
@[simp] theorem State.reach64_time_beats (n : Nat) : (s.reach64 n).time.beats = s.time.beats := by
  unfold State.reach64; split <;> rfl
@[simp] theorem State.reach64_time_samples (n : Nat) : (s.reach64 n).time.samples = s.time.samples := by
  unfold State.reach64; split <;> rfl
@[simp] theorem State.reach64_time_offsetEst (n : Nat) : (s.reach64 n).time.offsetEst = s.time.offsetEst := by
  unfold State.reach64; split <;> rfl
@[simp] theorem State.reach64_time_freqAdj (n : Nat) : (s.reach64 n).time.freqAdj = s.time.freqAdj := by
  unfold State.reach64; split <;> rfl
@[simp] theorem State.reach64_time_within (n : Nat) : (s.reach64 n).time.within = s.time.within := by
  unfold State.reach64; split <;> rfl
@[simp] theorem State.reach64_time_beyond (n : Nat) : (s.reach64 n).time.beyond = s.time.beyond := by
  unfold State.reach64; split <;> rfl
@[simp] theorem State.reach64_time_holdoverAt (n : Nat) : (s.reach64 n).time.holdoverAt = s.time.holdoverAt := by
  unfold State.reach64; split <;> rfl
@[simp] theorem State.reach64_time_fracLatch (n : Nat) : (s.reach64 n).time.fracLatch = s.time.fracLatch := by
  unfold State.reach64; split <;> rfl
@[simp] theorem State.reach64_time_taiValid (n : Nat) : (s.reach64 n).time.taiValid = s.time.taiValid := by
  unfold State.reach64; split <;> rfl
@[simp] theorem State.reach64_time_taiError (n : Nat) : (s.reach64 n).time.taiError = s.time.taiError := by
  unfold State.reach64; split <;> rfl
@[simp] theorem State.reach64_time_acquired (n : Nat) : (s.reach64 n).time.acquired = s.time.acquired := by
  unfold State.reach64; split <;> rfl
@[simp] theorem State.reach64_time_extLost (n : Nat) : (s.reach64 n).time.extLost = s.time.extLost := by
  unfold State.reach64; split <;> rfl
@[simp] theorem State.reach64_time_misses (n : Nat) : (s.reach64 n).time.misses = s.time.misses := by
  unfold State.reach64; split <;> rfl
@[simp] theorem State.reach64_time_ptp (n : Nat) : (s.reach64 n).time.ptp = s.time.ptp := by
  unfold State.reach64; split <;> rfl
@[simp] theorem State.reach64_time_discarded (n : Nat) : (s.reach64 n).time.discarded = s.time.discarded := by
  unfold State.reach64; split <;> rfl
@[simp] theorem State.reach64_time_lastBeatTick (n : Nat) : (s.reach64 n).time.lastBeatTick = s.time.lastBeatTick := by
  unfold State.reach64; split <;> rfl
@[simp] theorem State.reach64_time_lastPps (n : Nat) : (s.reach64 n).time.lastPps = s.time.lastPps := by
  unfold State.reach64; split <;> rfl
@[simp] theorem State.reach64_time_links (n : Nat) : (s.reach64 n).time.links = s.time.links := by
  unfold State.reach64; split <;> rfl
@[simp] theorem State.reach64_time_roots (n : Nat) : (s.reach64 n).time.roots = s.time.roots := by
  unfold State.reach64; split <;> rfl
@[simp] theorem State.reach64_time_epoch (n : Nat) : (s.reach64 n).time.epoch = s.time.epoch := by
  unfold State.reach64; split <;> rfl
@[simp] theorem State.reach_time_state (n : Nat) : (s.reach n).time.state = s.time.state :=
  State.reach64_time_state s _
@[simp] theorem State.reach_time_everLocked (n : Nat) : (s.reach n).time.everLocked = s.time.everLocked :=
  State.reach64_time_everLocked s _
@[simp] theorem State.reach_time_isRoot (n : Nat) : (s.reach n).time.isRoot = s.time.isRoot :=
  State.reach64_time_isRoot s _
@[simp] theorem State.reach_time_started (n : Nat) : (s.reach n).time.started = s.time.started :=
  State.reach64_time_started s _
@[simp] theorem State.reach_time_tier (n : Nat) : (s.reach n).time.tier = s.time.tier :=
  State.reach64_time_tier s _
@[simp] theorem State.reach_time_parent (n : Nat) : (s.reach n).time.parent = s.time.parent :=
  State.reach64_time_parent s _
@[simp] theorem State.reach_time_rootIndex (n : Nat) : (s.reach n).time.rootIndex = s.time.rootIndex :=
  State.reach64_time_rootIndex s _
@[simp] theorem State.reach_time_rootBeat (n : Nat) : (s.reach n).time.rootBeat = s.time.rootBeat :=
  State.reach64_time_rootBeat s _
@[simp] theorem State.reach_time_beatAt (n : Nat) : (s.reach n).time.beatAt = s.time.beatAt :=
  State.reach64_time_beatAt s _
@[simp] theorem State.reach_time_beatLost (n : Nat) : (s.reach n).time.beatLost = s.time.beatLost :=
  State.reach64_time_beatLost s _
@[simp] theorem State.reach_time_beats (n : Nat) : (s.reach n).time.beats = s.time.beats :=
  State.reach64_time_beats s _
@[simp] theorem State.reach_time_samples (n : Nat) : (s.reach n).time.samples = s.time.samples :=
  State.reach64_time_samples s _
@[simp] theorem State.reach_time_offsetEst (n : Nat) : (s.reach n).time.offsetEst = s.time.offsetEst :=
  State.reach64_time_offsetEst s _
@[simp] theorem State.reach_time_freqAdj (n : Nat) : (s.reach n).time.freqAdj = s.time.freqAdj :=
  State.reach64_time_freqAdj s _
@[simp] theorem State.reach_time_within (n : Nat) : (s.reach n).time.within = s.time.within :=
  State.reach64_time_within s _
@[simp] theorem State.reach_time_beyond (n : Nat) : (s.reach n).time.beyond = s.time.beyond :=
  State.reach64_time_beyond s _
@[simp] theorem State.reach_time_holdoverAt (n : Nat) : (s.reach n).time.holdoverAt = s.time.holdoverAt :=
  State.reach64_time_holdoverAt s _
@[simp] theorem State.reach_time_fracLatch (n : Nat) : (s.reach n).time.fracLatch = s.time.fracLatch :=
  State.reach64_time_fracLatch s _
@[simp] theorem State.reach_time_taiValid (n : Nat) : (s.reach n).time.taiValid = s.time.taiValid :=
  State.reach64_time_taiValid s _
@[simp] theorem State.reach_time_taiError (n : Nat) : (s.reach n).time.taiError = s.time.taiError :=
  State.reach64_time_taiError s _
@[simp] theorem State.reach_time_acquired (n : Nat) : (s.reach n).time.acquired = s.time.acquired :=
  State.reach64_time_acquired s _
@[simp] theorem State.reach_time_extLost (n : Nat) : (s.reach n).time.extLost = s.time.extLost :=
  State.reach64_time_extLost s _
@[simp] theorem State.reach_time_misses (n : Nat) : (s.reach n).time.misses = s.time.misses :=
  State.reach64_time_misses s _
@[simp] theorem State.reach_time_ptp (n : Nat) : (s.reach n).time.ptp = s.time.ptp :=
  State.reach64_time_ptp s _
@[simp] theorem State.reach_time_discarded (n : Nat) : (s.reach n).time.discarded = s.time.discarded :=
  State.reach64_time_discarded s _
@[simp] theorem State.reach_time_lastBeatTick (n : Nat) : (s.reach n).time.lastBeatTick = s.time.lastBeatTick :=
  State.reach64_time_lastBeatTick s _
@[simp] theorem State.reach_time_lastPps (n : Nat) : (s.reach n).time.lastPps = s.time.lastPps :=
  State.reach64_time_lastPps s _
@[simp] theorem State.reach_time_links (n : Nat) : (s.reach n).time.links = s.time.links :=
  State.reach64_time_links s _
@[simp] theorem State.reach_time_roots (n : Nat) : (s.reach n).time.roots = s.time.roots :=
  State.reach64_time_roots s _
@[simp] theorem State.reach_time_epoch (n : Nat) : (s.reach n).time.epoch = s.time.epoch :=
  State.reach64_time_epoch s _

/-! ### Units stay -/

@[simp] theorem State.draw_core (u : Nat) : s.draw.2.core u = s.core u := (rfl)
@[simp] theorem State.emit_core (o : Out) (u : Nat) : (s.emit o).core u = s.core u := by
  simp [State.core]
@[simp] theorem State.setObj_core (i j v : Nat) (u : Nat) : (s.setObj i j v).core u = s.core u := by
  simp [State.core]
@[simp] theorem State.count_core (i j n : Nat) (u : Nat) : (s.count i j n).core u = s.core u := by
  simp [State.core]
@[simp] theorem State.count64_core (i j n : Nat) (u : Nat) : (s.count64 i j n).core u = s.core u := by
  simp [State.core]
@[simp] theorem State.setRec_core (i j : Nat) (v : List Byte) (u : Nat) : (s.setRec i j v).core u = s.core u := by
  simp [State.core]
@[simp] theorem State.write_core (a : Nat) (bs : List Byte) (u : Nat) : (s.write a bs).core u = s.core u := by
  simp [State.core]
@[simp] theorem State.writeBytes_core (ws : List (Nat × Byte)) (u : Nat) : (s.writeBytes ws).core u = s.core u := by
  simp [State.core]
@[simp] theorem State.storeWrite_core (c st off : Nat) (bs : List Byte) (u : Nat) : (s.storeWrite c st off bs).core u = s.core u := by
  simp [State.core]
@[simp] theorem State.storeBytes_core (ws : List (Nat × Byte)) (u : Nat) : (s.storeBytes ws).core u = s.core u := by
  simp [State.core]
@[simp] theorem State.setCtx_core (c x : Nat) (v : CtxSt) (u : Nat) : (s.setCtx c x v).core u = s.core u := by
  simp [State.core]
@[simp] theorem State.mapCtx_core (c x : Nat) (f : CtxSt → CtxSt) (u : Nat) : (s.mapCtx c x f).core u = s.core u := by
  simp [State.core]
@[simp] theorem State.setSem_core (c n : Nat) (v : SemSt) (u : Nat) : (s.setSem c n v).core u = s.core u := by
  simp [State.core]
@[simp] theorem State.setMover_core (m : Nat) (v : MoverSt) (u : Nat) : (s.setMover m v).core u = s.core u := by
  simp [State.core]
@[simp] theorem State.setLink_core (l : Nat) (v : LinkSt) (u : Nat) : (s.setLink l v).core u = s.core u := by
  simp [State.core]
@[simp] theorem State.mapLink_core (l : Nat) (f : LinkSt → LinkSt) (u : Nat) : (s.mapLink l f).core u = s.core u := by
  simp [State.core]
@[simp] theorem State.setFlow_core (c : Nat) (v : Flow) (u : Nat) : (s.setFlow c v).core u = s.core u := by
  simp [State.core]
@[simp] theorem State.setPool_core (d n : Nat) (u : Nat) : (s.setPool d n).core u = s.core u := by
  simp [State.core]
@[simp] theorem State.setTime_core (f : TimeUnit → TimeUnit) (u : Nat) : (s.setTime f).core u = s.core u := by
  simp [State.core]
@[simp] theorem State.setLinkTime_core (l : Nat) (v : LinkTime) (u : Nat) : (s.setLinkTime l v).core u = s.core u := by
  simp [State.core]
@[simp] theorem State.setEngine_core (l : Nat) (v : TtEngine) (u : Nat) : (s.setEngine l v).core u = s.core u := by
  simp [State.core]
@[simp] theorem State.setRx_core (l : Nat) (v : Option RxWindow) (u : Nat) : (s.setRx l v).core u = s.core u := by
  simp [State.core]
@[simp] theorem State.setHold_core (f : HallHold → HallHold) (u : Nat) : (s.setHold f).core u = s.core u := by
  simp [State.core]
@[simp] theorem State.setSupply_core (f : Supply → Supply) (u : Nat) : (s.setSupply f).core u = s.core u := by
  simp [State.core]
@[simp] theorem State.setBoot_core (f : Boot → Boot) (u : Nat) : (s.setBoot f).core u = s.core u := by
  simp [State.core]
@[simp] theorem State.setHost_core (f : HostPort → HostPort) (u : Nat) : (s.setHost f).core u = s.core u := by
  simp [State.core]
@[simp] theorem State.setFaults_core (f : Faults → Faults) (u : Nat) : (s.setFaults f).core u = s.core u := by
  simp [State.core]
@[simp] theorem State.setRecovery_core (c : Nat) (r : Option Recovery) (u : Nat) : (s.setRecovery c r).core u = s.core u := by
  simp [State.core]
@[simp] theorem State.setTrain_core (f : Train → Train) (u : Nat) : (s.setTrain f).core u = s.core u := by
  simp [State.core]
@[simp] theorem State.setWatch_core (f : Watch → Watch) (u : Nat) : (s.setWatch f).core u = s.core u := by
  simp [State.core]
@[simp] theorem State.setRope_core (f : Rope → Rope) (u : Nat) : (s.setRope f).core u = s.core u := by
  simp [State.core]
@[simp] theorem State.setDict_core (f : Dict → Dict) (u : Nat) : (s.setDict f).core u = s.core u := by
  simp [State.core]
@[simp] theorem State.setMem_core (f : MemCtl → MemCtl) (u : Nat) : (s.setMem f).core u = s.core u := by
  simp [State.core]
@[simp] theorem State.reach64_core (n : Nat) (u : Nat) : (s.reach64 n).core u = s.core u := by
  simp [State.core]
@[simp] theorem State.reach_core (n : Nat) (u : Nat) : (s.reach n).core u = s.core u := by
  simp [State.core]
@[simp] theorem State.log_core (ev dom : Nat) (items : List (Nat × Nat)) (u : Nat) : (s.log ev dom items).core u = s.core u := by
  simp [State.core]
@[simp] theorem State.interrupt_core (v : Nat) (u : Nat) : (s.interrupt v).core u = s.core u := by
  simp [State.core]
@[simp] theorem State.sendDeltas_core (ds : List Delta) (u : Nat) : (s.sendDeltas ds).core u = s.core u := by
  simp [State.core]
@[simp] theorem State.draw_ctx (u w : Nat) : s.draw.2.ctx u w = s.ctx u w := (rfl)
@[simp] theorem State.emit_ctx (o : Out) (u w : Nat) : (s.emit o).ctx u w = s.ctx u w := by
  simp [State.ctx]
@[simp] theorem State.setObj_ctx (i j v : Nat) (u w : Nat) : (s.setObj i j v).ctx u w = s.ctx u w := by
  simp [State.ctx]
@[simp] theorem State.count_ctx (i j n : Nat) (u w : Nat) : (s.count i j n).ctx u w = s.ctx u w := by
  simp [State.ctx]
@[simp] theorem State.count64_ctx (i j n : Nat) (u w : Nat) : (s.count64 i j n).ctx u w = s.ctx u w := by
  simp [State.ctx]
@[simp] theorem State.setRec_ctx (i j : Nat) (v : List Byte) (u w : Nat) : (s.setRec i j v).ctx u w = s.ctx u w := by
  simp [State.ctx]
@[simp] theorem State.write_ctx (a : Nat) (bs : List Byte) (u w : Nat) : (s.write a bs).ctx u w = s.ctx u w := by
  simp [State.ctx]
@[simp] theorem State.writeBytes_ctx (ws : List (Nat × Byte)) (u w : Nat) : (s.writeBytes ws).ctx u w = s.ctx u w := by
  simp [State.ctx]
@[simp] theorem State.storeWrite_ctx (c st off : Nat) (bs : List Byte) (u w : Nat) : (s.storeWrite c st off bs).ctx u w = s.ctx u w := by
  simp [State.ctx]
@[simp] theorem State.storeBytes_ctx (ws : List (Nat × Byte)) (u w : Nat) : (s.storeBytes ws).ctx u w = s.ctx u w := by
  simp [State.ctx]
@[simp] theorem State.setCore_ctx (c : Nat) (x : CoreSt) (u w : Nat) : (s.setCore c x).ctx u w = s.ctx u w := by
  simp [State.ctx]
@[simp] theorem State.mapCore_ctx (c : Nat) (f : CoreSt → CoreSt) (u w : Nat) : (s.mapCore c f).ctx u w = s.ctx u w := by
  simp [State.ctx]
@[simp] theorem State.setSem_ctx (c n : Nat) (v : SemSt) (u w : Nat) : (s.setSem c n v).ctx u w = s.ctx u w := by
  simp [State.ctx]
@[simp] theorem State.setMover_ctx (m : Nat) (v : MoverSt) (u w : Nat) : (s.setMover m v).ctx u w = s.ctx u w := by
  simp [State.ctx]
@[simp] theorem State.setLink_ctx (l : Nat) (v : LinkSt) (u w : Nat) : (s.setLink l v).ctx u w = s.ctx u w := by
  simp [State.ctx]
@[simp] theorem State.mapLink_ctx (l : Nat) (f : LinkSt → LinkSt) (u w : Nat) : (s.mapLink l f).ctx u w = s.ctx u w := by
  simp [State.ctx]
@[simp] theorem State.setFlow_ctx (c : Nat) (v : Flow) (u w : Nat) : (s.setFlow c v).ctx u w = s.ctx u w := by
  simp [State.ctx]
@[simp] theorem State.setPool_ctx (d n : Nat) (u w : Nat) : (s.setPool d n).ctx u w = s.ctx u w := by
  simp [State.ctx]
@[simp] theorem State.setTime_ctx (f : TimeUnit → TimeUnit) (u w : Nat) : (s.setTime f).ctx u w = s.ctx u w := by
  simp [State.ctx]
@[simp] theorem State.setLinkTime_ctx (l : Nat) (v : LinkTime) (u w : Nat) : (s.setLinkTime l v).ctx u w = s.ctx u w := by
  simp [State.ctx]
@[simp] theorem State.setEngine_ctx (l : Nat) (v : TtEngine) (u w : Nat) : (s.setEngine l v).ctx u w = s.ctx u w := by
  simp [State.ctx]
@[simp] theorem State.setRx_ctx (l : Nat) (v : Option RxWindow) (u w : Nat) : (s.setRx l v).ctx u w = s.ctx u w := by
  simp [State.ctx]
@[simp] theorem State.setHold_ctx (f : HallHold → HallHold) (u w : Nat) : (s.setHold f).ctx u w = s.ctx u w := by
  simp [State.ctx]
@[simp] theorem State.setSupply_ctx (f : Supply → Supply) (u w : Nat) : (s.setSupply f).ctx u w = s.ctx u w := by
  simp [State.ctx]
@[simp] theorem State.setBoot_ctx (f : Boot → Boot) (u w : Nat) : (s.setBoot f).ctx u w = s.ctx u w := by
  simp [State.ctx]
@[simp] theorem State.setHost_ctx (f : HostPort → HostPort) (u w : Nat) : (s.setHost f).ctx u w = s.ctx u w := by
  simp [State.ctx]
@[simp] theorem State.setFaults_ctx (f : Faults → Faults) (u w : Nat) : (s.setFaults f).ctx u w = s.ctx u w := by
  simp [State.ctx]
@[simp] theorem State.setRecovery_ctx (c : Nat) (r : Option Recovery) (u w : Nat) : (s.setRecovery c r).ctx u w = s.ctx u w := by
  simp [State.ctx]
@[simp] theorem State.setTrain_ctx (f : Train → Train) (u w : Nat) : (s.setTrain f).ctx u w = s.ctx u w := by
  simp [State.ctx]
@[simp] theorem State.setWatch_ctx (f : Watch → Watch) (u w : Nat) : (s.setWatch f).ctx u w = s.ctx u w := by
  simp [State.ctx]
@[simp] theorem State.setRope_ctx (f : Rope → Rope) (u w : Nat) : (s.setRope f).ctx u w = s.ctx u w := by
  simp [State.ctx]
@[simp] theorem State.setDict_ctx (f : Dict → Dict) (u w : Nat) : (s.setDict f).ctx u w = s.ctx u w := by
  simp [State.ctx]
@[simp] theorem State.setMem_ctx (f : MemCtl → MemCtl) (u w : Nat) : (s.setMem f).ctx u w = s.ctx u w := by
  simp [State.ctx]
@[simp] theorem State.reach64_ctx (n : Nat) (u w : Nat) : (s.reach64 n).ctx u w = s.ctx u w := by
  simp [State.ctx]
@[simp] theorem State.reach_ctx (n : Nat) (u w : Nat) : (s.reach n).ctx u w = s.ctx u w := by
  simp [State.ctx]
@[simp] theorem State.log_ctx (ev dom : Nat) (items : List (Nat × Nat)) (u w : Nat) : (s.log ev dom items).ctx u w = s.ctx u w := by
  simp [State.ctx]
@[simp] theorem State.interrupt_ctx (v : Nat) (u w : Nat) : (s.interrupt v).ctx u w = s.ctx u w := by
  simp [State.ctx]
@[simp] theorem State.sendDeltas_ctx (ds : List Delta) (u w : Nat) : (s.sendDeltas ds).ctx u w = s.ctx u w := by
  simp [State.ctx]
@[simp] theorem State.draw_sem (u w : Nat) : s.draw.2.sem u w = s.sem u w := (rfl)
@[simp] theorem State.emit_sem (o : Out) (u w : Nat) : (s.emit o).sem u w = s.sem u w := by
  simp [State.sem]
@[simp] theorem State.setObj_sem (i j v : Nat) (u w : Nat) : (s.setObj i j v).sem u w = s.sem u w := by
  simp [State.sem]
@[simp] theorem State.count_sem (i j n : Nat) (u w : Nat) : (s.count i j n).sem u w = s.sem u w := by
  simp [State.sem]
@[simp] theorem State.count64_sem (i j n : Nat) (u w : Nat) : (s.count64 i j n).sem u w = s.sem u w := by
  simp [State.sem]
@[simp] theorem State.setRec_sem (i j : Nat) (v : List Byte) (u w : Nat) : (s.setRec i j v).sem u w = s.sem u w := by
  simp [State.sem]
@[simp] theorem State.write_sem (a : Nat) (bs : List Byte) (u w : Nat) : (s.write a bs).sem u w = s.sem u w := by
  simp [State.sem]
@[simp] theorem State.writeBytes_sem (ws : List (Nat × Byte)) (u w : Nat) : (s.writeBytes ws).sem u w = s.sem u w := by
  simp [State.sem]
@[simp] theorem State.storeWrite_sem (c st off : Nat) (bs : List Byte) (u w : Nat) : (s.storeWrite c st off bs).sem u w = s.sem u w := by
  simp [State.sem]
@[simp] theorem State.storeBytes_sem (ws : List (Nat × Byte)) (u w : Nat) : (s.storeBytes ws).sem u w = s.sem u w := by
  simp [State.sem]
@[simp] theorem State.setCore_sem (c : Nat) (x : CoreSt) (u w : Nat) : (s.setCore c x).sem u w = s.sem u w := by
  simp [State.sem]
@[simp] theorem State.mapCore_sem (c : Nat) (f : CoreSt → CoreSt) (u w : Nat) : (s.mapCore c f).sem u w = s.sem u w := by
  simp [State.sem]
@[simp] theorem State.setCtx_sem (c x : Nat) (v : CtxSt) (u w : Nat) : (s.setCtx c x v).sem u w = s.sem u w := by
  simp [State.sem]
@[simp] theorem State.mapCtx_sem (c x : Nat) (f : CtxSt → CtxSt) (u w : Nat) : (s.mapCtx c x f).sem u w = s.sem u w := by
  simp [State.sem]
@[simp] theorem State.setMover_sem (m : Nat) (v : MoverSt) (u w : Nat) : (s.setMover m v).sem u w = s.sem u w := by
  simp [State.sem]
@[simp] theorem State.setLink_sem (l : Nat) (v : LinkSt) (u w : Nat) : (s.setLink l v).sem u w = s.sem u w := by
  simp [State.sem]
@[simp] theorem State.mapLink_sem (l : Nat) (f : LinkSt → LinkSt) (u w : Nat) : (s.mapLink l f).sem u w = s.sem u w := by
  simp [State.sem]
@[simp] theorem State.setFlow_sem (c : Nat) (v : Flow) (u w : Nat) : (s.setFlow c v).sem u w = s.sem u w := by
  simp [State.sem]
@[simp] theorem State.setPool_sem (d n : Nat) (u w : Nat) : (s.setPool d n).sem u w = s.sem u w := by
  simp [State.sem]
@[simp] theorem State.setTime_sem (f : TimeUnit → TimeUnit) (u w : Nat) : (s.setTime f).sem u w = s.sem u w := by
  simp [State.sem]
@[simp] theorem State.setLinkTime_sem (l : Nat) (v : LinkTime) (u w : Nat) : (s.setLinkTime l v).sem u w = s.sem u w := by
  simp [State.sem]
@[simp] theorem State.setEngine_sem (l : Nat) (v : TtEngine) (u w : Nat) : (s.setEngine l v).sem u w = s.sem u w := by
  simp [State.sem]
@[simp] theorem State.setRx_sem (l : Nat) (v : Option RxWindow) (u w : Nat) : (s.setRx l v).sem u w = s.sem u w := by
  simp [State.sem]
@[simp] theorem State.setHold_sem (f : HallHold → HallHold) (u w : Nat) : (s.setHold f).sem u w = s.sem u w := by
  simp [State.sem]
@[simp] theorem State.setSupply_sem (f : Supply → Supply) (u w : Nat) : (s.setSupply f).sem u w = s.sem u w := by
  simp [State.sem]
@[simp] theorem State.setBoot_sem (f : Boot → Boot) (u w : Nat) : (s.setBoot f).sem u w = s.sem u w := by
  simp [State.sem]
@[simp] theorem State.setHost_sem (f : HostPort → HostPort) (u w : Nat) : (s.setHost f).sem u w = s.sem u w := by
  simp [State.sem]
@[simp] theorem State.setFaults_sem (f : Faults → Faults) (u w : Nat) : (s.setFaults f).sem u w = s.sem u w := by
  simp [State.sem]
@[simp] theorem State.setRecovery_sem (c : Nat) (r : Option Recovery) (u w : Nat) : (s.setRecovery c r).sem u w = s.sem u w := by
  simp [State.sem]
@[simp] theorem State.setTrain_sem (f : Train → Train) (u w : Nat) : (s.setTrain f).sem u w = s.sem u w := by
  simp [State.sem]
@[simp] theorem State.setWatch_sem (f : Watch → Watch) (u w : Nat) : (s.setWatch f).sem u w = s.sem u w := by
  simp [State.sem]
@[simp] theorem State.setRope_sem (f : Rope → Rope) (u w : Nat) : (s.setRope f).sem u w = s.sem u w := by
  simp [State.sem]
@[simp] theorem State.setDict_sem (f : Dict → Dict) (u w : Nat) : (s.setDict f).sem u w = s.sem u w := by
  simp [State.sem]
@[simp] theorem State.setMem_sem (f : MemCtl → MemCtl) (u w : Nat) : (s.setMem f).sem u w = s.sem u w := by
  simp [State.sem]
@[simp] theorem State.reach64_sem (n : Nat) (u w : Nat) : (s.reach64 n).sem u w = s.sem u w := by
  simp [State.sem]
@[simp] theorem State.reach_sem (n : Nat) (u w : Nat) : (s.reach n).sem u w = s.sem u w := by
  simp [State.sem]
@[simp] theorem State.log_sem (ev dom : Nat) (items : List (Nat × Nat)) (u w : Nat) : (s.log ev dom items).sem u w = s.sem u w := by
  simp [State.sem]
@[simp] theorem State.interrupt_sem (v : Nat) (u w : Nat) : (s.interrupt v).sem u w = s.sem u w := by
  simp [State.sem]
@[simp] theorem State.sendDeltas_sem (ds : List Delta) (u w : Nat) : (s.sendDeltas ds).sem u w = s.sem u w := by
  simp [State.sem]
@[simp] theorem State.draw_mover (u : Nat) : s.draw.2.mover u = s.mover u := (rfl)
@[simp] theorem State.emit_mover (o : Out) (u : Nat) : (s.emit o).mover u = s.mover u := by
  simp [State.mover]
@[simp] theorem State.setObj_mover (i j v : Nat) (u : Nat) : (s.setObj i j v).mover u = s.mover u := by
  simp [State.mover]
@[simp] theorem State.count_mover (i j n : Nat) (u : Nat) : (s.count i j n).mover u = s.mover u := by
  simp [State.mover]
@[simp] theorem State.count64_mover (i j n : Nat) (u : Nat) : (s.count64 i j n).mover u = s.mover u := by
  simp [State.mover]
@[simp] theorem State.setRec_mover (i j : Nat) (v : List Byte) (u : Nat) : (s.setRec i j v).mover u = s.mover u := by
  simp [State.mover]
@[simp] theorem State.write_mover (a : Nat) (bs : List Byte) (u : Nat) : (s.write a bs).mover u = s.mover u := by
  simp [State.mover]
@[simp] theorem State.writeBytes_mover (ws : List (Nat × Byte)) (u : Nat) : (s.writeBytes ws).mover u = s.mover u := by
  simp [State.mover]
@[simp] theorem State.storeWrite_mover (c st off : Nat) (bs : List Byte) (u : Nat) : (s.storeWrite c st off bs).mover u = s.mover u := by
  simp [State.mover]
@[simp] theorem State.storeBytes_mover (ws : List (Nat × Byte)) (u : Nat) : (s.storeBytes ws).mover u = s.mover u := by
  simp [State.mover]
@[simp] theorem State.setCore_mover (c : Nat) (x : CoreSt) (u : Nat) : (s.setCore c x).mover u = s.mover u := by
  simp [State.mover]
@[simp] theorem State.mapCore_mover (c : Nat) (f : CoreSt → CoreSt) (u : Nat) : (s.mapCore c f).mover u = s.mover u := by
  simp [State.mover]
@[simp] theorem State.setCtx_mover (c x : Nat) (v : CtxSt) (u : Nat) : (s.setCtx c x v).mover u = s.mover u := by
  simp [State.mover]
@[simp] theorem State.mapCtx_mover (c x : Nat) (f : CtxSt → CtxSt) (u : Nat) : (s.mapCtx c x f).mover u = s.mover u := by
  simp [State.mover]
@[simp] theorem State.setSem_mover (c n : Nat) (v : SemSt) (u : Nat) : (s.setSem c n v).mover u = s.mover u := by
  simp [State.mover]
@[simp] theorem State.setLink_mover (l : Nat) (v : LinkSt) (u : Nat) : (s.setLink l v).mover u = s.mover u := by
  simp [State.mover]
@[simp] theorem State.mapLink_mover (l : Nat) (f : LinkSt → LinkSt) (u : Nat) : (s.mapLink l f).mover u = s.mover u := by
  simp [State.mover]
@[simp] theorem State.setFlow_mover (c : Nat) (v : Flow) (u : Nat) : (s.setFlow c v).mover u = s.mover u := by
  simp [State.mover]
@[simp] theorem State.setPool_mover (d n : Nat) (u : Nat) : (s.setPool d n).mover u = s.mover u := by
  simp [State.mover]
@[simp] theorem State.setTime_mover (f : TimeUnit → TimeUnit) (u : Nat) : (s.setTime f).mover u = s.mover u := by
  simp [State.mover]
@[simp] theorem State.setLinkTime_mover (l : Nat) (v : LinkTime) (u : Nat) : (s.setLinkTime l v).mover u = s.mover u := by
  simp [State.mover]
@[simp] theorem State.setEngine_mover (l : Nat) (v : TtEngine) (u : Nat) : (s.setEngine l v).mover u = s.mover u := by
  simp [State.mover]
@[simp] theorem State.setRx_mover (l : Nat) (v : Option RxWindow) (u : Nat) : (s.setRx l v).mover u = s.mover u := by
  simp [State.mover]
@[simp] theorem State.setHold_mover (f : HallHold → HallHold) (u : Nat) : (s.setHold f).mover u = s.mover u := by
  simp [State.mover]
@[simp] theorem State.setSupply_mover (f : Supply → Supply) (u : Nat) : (s.setSupply f).mover u = s.mover u := by
  simp [State.mover]
@[simp] theorem State.setBoot_mover (f : Boot → Boot) (u : Nat) : (s.setBoot f).mover u = s.mover u := by
  simp [State.mover]
@[simp] theorem State.setHost_mover (f : HostPort → HostPort) (u : Nat) : (s.setHost f).mover u = s.mover u := by
  simp [State.mover]
@[simp] theorem State.setFaults_mover (f : Faults → Faults) (u : Nat) : (s.setFaults f).mover u = s.mover u := by
  simp [State.mover]
@[simp] theorem State.setRecovery_mover (c : Nat) (r : Option Recovery) (u : Nat) : (s.setRecovery c r).mover u = s.mover u := by
  simp [State.mover]
@[simp] theorem State.setTrain_mover (f : Train → Train) (u : Nat) : (s.setTrain f).mover u = s.mover u := by
  simp [State.mover]
@[simp] theorem State.setWatch_mover (f : Watch → Watch) (u : Nat) : (s.setWatch f).mover u = s.mover u := by
  simp [State.mover]
@[simp] theorem State.setRope_mover (f : Rope → Rope) (u : Nat) : (s.setRope f).mover u = s.mover u := by
  simp [State.mover]
@[simp] theorem State.setDict_mover (f : Dict → Dict) (u : Nat) : (s.setDict f).mover u = s.mover u := by
  simp [State.mover]
@[simp] theorem State.setMem_mover (f : MemCtl → MemCtl) (u : Nat) : (s.setMem f).mover u = s.mover u := by
  simp [State.mover]
@[simp] theorem State.reach64_mover (n : Nat) (u : Nat) : (s.reach64 n).mover u = s.mover u := by
  simp [State.mover]
@[simp] theorem State.reach_mover (n : Nat) (u : Nat) : (s.reach n).mover u = s.mover u := by
  simp [State.mover]
@[simp] theorem State.log_mover (ev dom : Nat) (items : List (Nat × Nat)) (u : Nat) : (s.log ev dom items).mover u = s.mover u := by
  simp [State.mover]
@[simp] theorem State.interrupt_mover (v : Nat) (u : Nat) : (s.interrupt v).mover u = s.mover u := by
  simp [State.mover]
@[simp] theorem State.sendDeltas_mover (ds : List Delta) (u : Nat) : (s.sendDeltas ds).mover u = s.mover u := by
  simp [State.mover]
@[simp] theorem State.draw_link (u : Nat) : s.draw.2.link u = s.link u := (rfl)
@[simp] theorem State.emit_link (o : Out) (u : Nat) : (s.emit o).link u = s.link u := by
  simp [State.link]
@[simp] theorem State.setObj_link (i j v : Nat) (u : Nat) : (s.setObj i j v).link u = s.link u := by
  simp [State.link]
@[simp] theorem State.count_link (i j n : Nat) (u : Nat) : (s.count i j n).link u = s.link u := by
  simp [State.link]
@[simp] theorem State.count64_link (i j n : Nat) (u : Nat) : (s.count64 i j n).link u = s.link u := by
  simp [State.link]
@[simp] theorem State.setRec_link (i j : Nat) (v : List Byte) (u : Nat) : (s.setRec i j v).link u = s.link u := by
  simp [State.link]
@[simp] theorem State.write_link (a : Nat) (bs : List Byte) (u : Nat) : (s.write a bs).link u = s.link u := by
  simp [State.link]
@[simp] theorem State.writeBytes_link (ws : List (Nat × Byte)) (u : Nat) : (s.writeBytes ws).link u = s.link u := by
  simp [State.link]
@[simp] theorem State.storeWrite_link (c st off : Nat) (bs : List Byte) (u : Nat) : (s.storeWrite c st off bs).link u = s.link u := by
  simp [State.link]
@[simp] theorem State.storeBytes_link (ws : List (Nat × Byte)) (u : Nat) : (s.storeBytes ws).link u = s.link u := by
  simp [State.link]
@[simp] theorem State.setCore_link (c : Nat) (x : CoreSt) (u : Nat) : (s.setCore c x).link u = s.link u := by
  simp [State.link]
@[simp] theorem State.mapCore_link (c : Nat) (f : CoreSt → CoreSt) (u : Nat) : (s.mapCore c f).link u = s.link u := by
  simp [State.link]
@[simp] theorem State.setCtx_link (c x : Nat) (v : CtxSt) (u : Nat) : (s.setCtx c x v).link u = s.link u := by
  simp [State.link]
@[simp] theorem State.mapCtx_link (c x : Nat) (f : CtxSt → CtxSt) (u : Nat) : (s.mapCtx c x f).link u = s.link u := by
  simp [State.link]
@[simp] theorem State.setSem_link (c n : Nat) (v : SemSt) (u : Nat) : (s.setSem c n v).link u = s.link u := by
  simp [State.link]
@[simp] theorem State.setMover_link (m : Nat) (v : MoverSt) (u : Nat) : (s.setMover m v).link u = s.link u := by
  simp [State.link]
@[simp] theorem State.setFlow_link (c : Nat) (v : Flow) (u : Nat) : (s.setFlow c v).link u = s.link u := by
  simp [State.link]
@[simp] theorem State.setPool_link (d n : Nat) (u : Nat) : (s.setPool d n).link u = s.link u := by
  simp [State.link]
@[simp] theorem State.setTime_link (f : TimeUnit → TimeUnit) (u : Nat) : (s.setTime f).link u = s.link u := by
  simp [State.link]
@[simp] theorem State.setLinkTime_link (l : Nat) (v : LinkTime) (u : Nat) : (s.setLinkTime l v).link u = s.link u := by
  simp [State.link]
@[simp] theorem State.setEngine_link (l : Nat) (v : TtEngine) (u : Nat) : (s.setEngine l v).link u = s.link u := by
  simp [State.link]
@[simp] theorem State.setRx_link (l : Nat) (v : Option RxWindow) (u : Nat) : (s.setRx l v).link u = s.link u := by
  simp [State.link]
@[simp] theorem State.setHold_link (f : HallHold → HallHold) (u : Nat) : (s.setHold f).link u = s.link u := by
  simp [State.link]
@[simp] theorem State.setSupply_link (f : Supply → Supply) (u : Nat) : (s.setSupply f).link u = s.link u := by
  simp [State.link]
@[simp] theorem State.setBoot_link (f : Boot → Boot) (u : Nat) : (s.setBoot f).link u = s.link u := by
  simp [State.link]
@[simp] theorem State.setHost_link (f : HostPort → HostPort) (u : Nat) : (s.setHost f).link u = s.link u := by
  simp [State.link]
@[simp] theorem State.setFaults_link (f : Faults → Faults) (u : Nat) : (s.setFaults f).link u = s.link u := by
  simp [State.link]
@[simp] theorem State.setRecovery_link (c : Nat) (r : Option Recovery) (u : Nat) : (s.setRecovery c r).link u = s.link u := by
  simp [State.link]
@[simp] theorem State.setTrain_link (f : Train → Train) (u : Nat) : (s.setTrain f).link u = s.link u := by
  simp [State.link]
@[simp] theorem State.setWatch_link (f : Watch → Watch) (u : Nat) : (s.setWatch f).link u = s.link u := by
  simp [State.link]
@[simp] theorem State.setRope_link (f : Rope → Rope) (u : Nat) : (s.setRope f).link u = s.link u := by
  simp [State.link]
@[simp] theorem State.setDict_link (f : Dict → Dict) (u : Nat) : (s.setDict f).link u = s.link u := by
  simp [State.link]
@[simp] theorem State.setMem_link (f : MemCtl → MemCtl) (u : Nat) : (s.setMem f).link u = s.link u := by
  simp [State.link]
@[simp] theorem State.reach64_link (n : Nat) (u : Nat) : (s.reach64 n).link u = s.link u := by
  simp [State.link]
@[simp] theorem State.reach_link (n : Nat) (u : Nat) : (s.reach n).link u = s.link u := by
  simp [State.link]
@[simp] theorem State.log_link (ev dom : Nat) (items : List (Nat × Nat)) (u : Nat) : (s.log ev dom items).link u = s.link u := by
  simp [State.link]
@[simp] theorem State.interrupt_link (v : Nat) (u : Nat) : (s.interrupt v).link u = s.link u := by
  simp [State.link]
@[simp] theorem State.sendDeltas_link (ds : List Delta) (u : Nat) : (s.sendDeltas ds).link u = s.link u := by
  simp [State.link]
@[simp] theorem State.draw_flow (u : Nat) : s.draw.2.flow u = s.flow u := (rfl)
@[simp] theorem State.emit_flow (o : Out) (u : Nat) : (s.emit o).flow u = s.flow u := by
  simp [State.flow]
@[simp] theorem State.setObj_flow (i j v : Nat) (u : Nat) : (s.setObj i j v).flow u = s.flow u := by
  simp [State.flow]
@[simp] theorem State.count_flow (i j n : Nat) (u : Nat) : (s.count i j n).flow u = s.flow u := by
  simp [State.flow]
@[simp] theorem State.count64_flow (i j n : Nat) (u : Nat) : (s.count64 i j n).flow u = s.flow u := by
  simp [State.flow]
@[simp] theorem State.setRec_flow (i j : Nat) (v : List Byte) (u : Nat) : (s.setRec i j v).flow u = s.flow u := by
  simp [State.flow]
@[simp] theorem State.write_flow (a : Nat) (bs : List Byte) (u : Nat) : (s.write a bs).flow u = s.flow u := by
  simp [State.flow]
@[simp] theorem State.writeBytes_flow (ws : List (Nat × Byte)) (u : Nat) : (s.writeBytes ws).flow u = s.flow u := by
  simp [State.flow]
@[simp] theorem State.storeWrite_flow (c st off : Nat) (bs : List Byte) (u : Nat) : (s.storeWrite c st off bs).flow u = s.flow u := by
  simp [State.flow]
@[simp] theorem State.storeBytes_flow (ws : List (Nat × Byte)) (u : Nat) : (s.storeBytes ws).flow u = s.flow u := by
  simp [State.flow]
@[simp] theorem State.setCore_flow (c : Nat) (x : CoreSt) (u : Nat) : (s.setCore c x).flow u = s.flow u := by
  simp [State.flow]
@[simp] theorem State.mapCore_flow (c : Nat) (f : CoreSt → CoreSt) (u : Nat) : (s.mapCore c f).flow u = s.flow u := by
  simp [State.flow]
@[simp] theorem State.setCtx_flow (c x : Nat) (v : CtxSt) (u : Nat) : (s.setCtx c x v).flow u = s.flow u := by
  simp [State.flow]
@[simp] theorem State.mapCtx_flow (c x : Nat) (f : CtxSt → CtxSt) (u : Nat) : (s.mapCtx c x f).flow u = s.flow u := by
  simp [State.flow]
@[simp] theorem State.setSem_flow (c n : Nat) (v : SemSt) (u : Nat) : (s.setSem c n v).flow u = s.flow u := by
  simp [State.flow]
@[simp] theorem State.setMover_flow (m : Nat) (v : MoverSt) (u : Nat) : (s.setMover m v).flow u = s.flow u := by
  simp [State.flow]
@[simp] theorem State.setLink_flow (l : Nat) (v : LinkSt) (u : Nat) : (s.setLink l v).flow u = s.flow u := by
  simp [State.flow]
@[simp] theorem State.mapLink_flow (l : Nat) (f : LinkSt → LinkSt) (u : Nat) : (s.mapLink l f).flow u = s.flow u := by
  simp [State.flow]
@[simp] theorem State.setTime_flow (f : TimeUnit → TimeUnit) (u : Nat) : (s.setTime f).flow u = s.flow u := by
  simp [State.flow]
@[simp] theorem State.setLinkTime_flow (l : Nat) (v : LinkTime) (u : Nat) : (s.setLinkTime l v).flow u = s.flow u := by
  simp [State.flow]
@[simp] theorem State.setEngine_flow (l : Nat) (v : TtEngine) (u : Nat) : (s.setEngine l v).flow u = s.flow u := by
  simp [State.flow]
@[simp] theorem State.setRx_flow (l : Nat) (v : Option RxWindow) (u : Nat) : (s.setRx l v).flow u = s.flow u := by
  simp [State.flow]
@[simp] theorem State.setHold_flow (f : HallHold → HallHold) (u : Nat) : (s.setHold f).flow u = s.flow u := by
  simp [State.flow]
@[simp] theorem State.setSupply_flow (f : Supply → Supply) (u : Nat) : (s.setSupply f).flow u = s.flow u := by
  simp [State.flow]
@[simp] theorem State.setBoot_flow (f : Boot → Boot) (u : Nat) : (s.setBoot f).flow u = s.flow u := by
  simp [State.flow]
@[simp] theorem State.setHost_flow (f : HostPort → HostPort) (u : Nat) : (s.setHost f).flow u = s.flow u := by
  simp [State.flow]
@[simp] theorem State.setFaults_flow (f : Faults → Faults) (u : Nat) : (s.setFaults f).flow u = s.flow u := by
  simp [State.flow]
@[simp] theorem State.setRecovery_flow (c : Nat) (r : Option Recovery) (u : Nat) : (s.setRecovery c r).flow u = s.flow u := by
  simp [State.flow]
@[simp] theorem State.setTrain_flow (f : Train → Train) (u : Nat) : (s.setTrain f).flow u = s.flow u := by
  simp [State.flow]
@[simp] theorem State.setWatch_flow (f : Watch → Watch) (u : Nat) : (s.setWatch f).flow u = s.flow u := by
  simp [State.flow]
@[simp] theorem State.setRope_flow (f : Rope → Rope) (u : Nat) : (s.setRope f).flow u = s.flow u := by
  simp [State.flow]
@[simp] theorem State.setDict_flow (f : Dict → Dict) (u : Nat) : (s.setDict f).flow u = s.flow u := by
  simp [State.flow]
@[simp] theorem State.setMem_flow (f : MemCtl → MemCtl) (u : Nat) : (s.setMem f).flow u = s.flow u := by
  simp [State.flow]
@[simp] theorem State.reach64_flow (n : Nat) (u : Nat) : (s.reach64 n).flow u = s.flow u := by
  simp [State.flow]
@[simp] theorem State.reach_flow (n : Nat) (u : Nat) : (s.reach n).flow u = s.flow u := by
  simp [State.flow]
@[simp] theorem State.log_flow (ev dom : Nat) (items : List (Nat × Nat)) (u : Nat) : (s.log ev dom items).flow u = s.flow u := by
  simp [State.flow]
@[simp] theorem State.interrupt_flow (v : Nat) (u : Nat) : (s.interrupt v).flow u = s.flow u := by
  simp [State.flow]
@[simp] theorem State.sendDeltas_flow (ds : List Delta) (u : Nat) : (s.sendDeltas ds).flow u = s.flow u := by
  simp [State.flow]
@[simp] theorem State.draw_linkTime (u : Nat) : s.draw.2.linkTime u = s.linkTime u := (rfl)
@[simp] theorem State.emit_linkTime (o : Out) (u : Nat) : (s.emit o).linkTime u = s.linkTime u := by
  simp [State.linkTime]
@[simp] theorem State.setObj_linkTime (i j v : Nat) (u : Nat) : (s.setObj i j v).linkTime u = s.linkTime u := by
  simp [State.linkTime]
@[simp] theorem State.count_linkTime (i j n : Nat) (u : Nat) : (s.count i j n).linkTime u = s.linkTime u := by
  simp [State.linkTime]
@[simp] theorem State.count64_linkTime (i j n : Nat) (u : Nat) : (s.count64 i j n).linkTime u = s.linkTime u := by
  simp [State.linkTime]
@[simp] theorem State.setRec_linkTime (i j : Nat) (v : List Byte) (u : Nat) : (s.setRec i j v).linkTime u = s.linkTime u := by
  simp [State.linkTime]
@[simp] theorem State.write_linkTime (a : Nat) (bs : List Byte) (u : Nat) : (s.write a bs).linkTime u = s.linkTime u := by
  simp [State.linkTime]
@[simp] theorem State.writeBytes_linkTime (ws : List (Nat × Byte)) (u : Nat) : (s.writeBytes ws).linkTime u = s.linkTime u := by
  simp [State.linkTime]
@[simp] theorem State.storeWrite_linkTime (c st off : Nat) (bs : List Byte) (u : Nat) : (s.storeWrite c st off bs).linkTime u = s.linkTime u := by
  simp [State.linkTime]
@[simp] theorem State.storeBytes_linkTime (ws : List (Nat × Byte)) (u : Nat) : (s.storeBytes ws).linkTime u = s.linkTime u := by
  simp [State.linkTime]
@[simp] theorem State.setCore_linkTime (c : Nat) (x : CoreSt) (u : Nat) : (s.setCore c x).linkTime u = s.linkTime u := by
  simp [State.linkTime]
@[simp] theorem State.mapCore_linkTime (c : Nat) (f : CoreSt → CoreSt) (u : Nat) : (s.mapCore c f).linkTime u = s.linkTime u := by
  simp [State.linkTime]
@[simp] theorem State.setCtx_linkTime (c x : Nat) (v : CtxSt) (u : Nat) : (s.setCtx c x v).linkTime u = s.linkTime u := by
  simp [State.linkTime]
@[simp] theorem State.mapCtx_linkTime (c x : Nat) (f : CtxSt → CtxSt) (u : Nat) : (s.mapCtx c x f).linkTime u = s.linkTime u := by
  simp [State.linkTime]
@[simp] theorem State.setSem_linkTime (c n : Nat) (v : SemSt) (u : Nat) : (s.setSem c n v).linkTime u = s.linkTime u := by
  simp [State.linkTime]
@[simp] theorem State.setMover_linkTime (m : Nat) (v : MoverSt) (u : Nat) : (s.setMover m v).linkTime u = s.linkTime u := by
  simp [State.linkTime]
@[simp] theorem State.setLink_linkTime (l : Nat) (v : LinkSt) (u : Nat) : (s.setLink l v).linkTime u = s.linkTime u := by
  simp [State.linkTime]
@[simp] theorem State.mapLink_linkTime (l : Nat) (f : LinkSt → LinkSt) (u : Nat) : (s.mapLink l f).linkTime u = s.linkTime u := by
  simp [State.linkTime]
@[simp] theorem State.setFlow_linkTime (c : Nat) (v : Flow) (u : Nat) : (s.setFlow c v).linkTime u = s.linkTime u := by
  simp [State.linkTime]
@[simp] theorem State.setPool_linkTime (d n : Nat) (u : Nat) : (s.setPool d n).linkTime u = s.linkTime u := by
  simp [State.linkTime]
@[simp] theorem State.setEngine_linkTime (l : Nat) (v : TtEngine) (u : Nat) : (s.setEngine l v).linkTime u = s.linkTime u := by
  simp [State.linkTime]
@[simp] theorem State.setRx_linkTime (l : Nat) (v : Option RxWindow) (u : Nat) : (s.setRx l v).linkTime u = s.linkTime u := by
  simp [State.linkTime]
@[simp] theorem State.setHold_linkTime (f : HallHold → HallHold) (u : Nat) : (s.setHold f).linkTime u = s.linkTime u := by
  simp [State.linkTime]
@[simp] theorem State.setSupply_linkTime (f : Supply → Supply) (u : Nat) : (s.setSupply f).linkTime u = s.linkTime u := by
  simp [State.linkTime]
@[simp] theorem State.setBoot_linkTime (f : Boot → Boot) (u : Nat) : (s.setBoot f).linkTime u = s.linkTime u := by
  simp [State.linkTime]
@[simp] theorem State.setHost_linkTime (f : HostPort → HostPort) (u : Nat) : (s.setHost f).linkTime u = s.linkTime u := by
  simp [State.linkTime]
@[simp] theorem State.setFaults_linkTime (f : Faults → Faults) (u : Nat) : (s.setFaults f).linkTime u = s.linkTime u := by
  simp [State.linkTime]
@[simp] theorem State.setRecovery_linkTime (c : Nat) (r : Option Recovery) (u : Nat) : (s.setRecovery c r).linkTime u = s.linkTime u := by
  simp [State.linkTime]
@[simp] theorem State.setTrain_linkTime (f : Train → Train) (u : Nat) : (s.setTrain f).linkTime u = s.linkTime u := by
  simp [State.linkTime]
@[simp] theorem State.setWatch_linkTime (f : Watch → Watch) (u : Nat) : (s.setWatch f).linkTime u = s.linkTime u := by
  simp [State.linkTime]
@[simp] theorem State.setRope_linkTime (f : Rope → Rope) (u : Nat) : (s.setRope f).linkTime u = s.linkTime u := by
  simp [State.linkTime]
@[simp] theorem State.setDict_linkTime (f : Dict → Dict) (u : Nat) : (s.setDict f).linkTime u = s.linkTime u := by
  simp [State.linkTime]
@[simp] theorem State.setMem_linkTime (f : MemCtl → MemCtl) (u : Nat) : (s.setMem f).linkTime u = s.linkTime u := by
  simp [State.linkTime]
@[simp] theorem State.reach64_linkTime (n : Nat) (u : Nat) : (s.reach64 n).linkTime u = s.linkTime u := by
  simp [State.linkTime]
@[simp] theorem State.reach_linkTime (n : Nat) (u : Nat) : (s.reach n).linkTime u = s.linkTime u := by
  simp [State.linkTime]
@[simp] theorem State.log_linkTime (ev dom : Nat) (items : List (Nat × Nat)) (u : Nat) : (s.log ev dom items).linkTime u = s.linkTime u := by
  simp [State.linkTime]
@[simp] theorem State.interrupt_linkTime (v : Nat) (u : Nat) : (s.interrupt v).linkTime u = s.linkTime u := by
  simp [State.linkTime]
@[simp] theorem State.sendDeltas_linkTime (ds : List Delta) (u : Nat) : (s.sendDeltas ds).linkTime u = s.linkTime u := by
  simp [State.linkTime]
@[simp] theorem State.draw_engine (u : Nat) : s.draw.2.engine u = s.engine u := (rfl)
@[simp] theorem State.emit_engine (o : Out) (u : Nat) : (s.emit o).engine u = s.engine u := by
  simp [State.engine]
@[simp] theorem State.setObj_engine (i j v : Nat) (u : Nat) : (s.setObj i j v).engine u = s.engine u := by
  simp [State.engine]
@[simp] theorem State.count_engine (i j n : Nat) (u : Nat) : (s.count i j n).engine u = s.engine u := by
  simp [State.engine]
@[simp] theorem State.count64_engine (i j n : Nat) (u : Nat) : (s.count64 i j n).engine u = s.engine u := by
  simp [State.engine]
@[simp] theorem State.setRec_engine (i j : Nat) (v : List Byte) (u : Nat) : (s.setRec i j v).engine u = s.engine u := by
  simp [State.engine]
@[simp] theorem State.write_engine (a : Nat) (bs : List Byte) (u : Nat) : (s.write a bs).engine u = s.engine u := by
  simp [State.engine]
@[simp] theorem State.writeBytes_engine (ws : List (Nat × Byte)) (u : Nat) : (s.writeBytes ws).engine u = s.engine u := by
  simp [State.engine]
@[simp] theorem State.storeWrite_engine (c st off : Nat) (bs : List Byte) (u : Nat) : (s.storeWrite c st off bs).engine u = s.engine u := by
  simp [State.engine]
@[simp] theorem State.storeBytes_engine (ws : List (Nat × Byte)) (u : Nat) : (s.storeBytes ws).engine u = s.engine u := by
  simp [State.engine]
@[simp] theorem State.setCore_engine (c : Nat) (x : CoreSt) (u : Nat) : (s.setCore c x).engine u = s.engine u := by
  simp [State.engine]
@[simp] theorem State.mapCore_engine (c : Nat) (f : CoreSt → CoreSt) (u : Nat) : (s.mapCore c f).engine u = s.engine u := by
  simp [State.engine]
@[simp] theorem State.setCtx_engine (c x : Nat) (v : CtxSt) (u : Nat) : (s.setCtx c x v).engine u = s.engine u := by
  simp [State.engine]
@[simp] theorem State.mapCtx_engine (c x : Nat) (f : CtxSt → CtxSt) (u : Nat) : (s.mapCtx c x f).engine u = s.engine u := by
  simp [State.engine]
@[simp] theorem State.setSem_engine (c n : Nat) (v : SemSt) (u : Nat) : (s.setSem c n v).engine u = s.engine u := by
  simp [State.engine]
@[simp] theorem State.setMover_engine (m : Nat) (v : MoverSt) (u : Nat) : (s.setMover m v).engine u = s.engine u := by
  simp [State.engine]
@[simp] theorem State.setLink_engine (l : Nat) (v : LinkSt) (u : Nat) : (s.setLink l v).engine u = s.engine u := by
  simp [State.engine]
@[simp] theorem State.mapLink_engine (l : Nat) (f : LinkSt → LinkSt) (u : Nat) : (s.mapLink l f).engine u = s.engine u := by
  simp [State.engine]
@[simp] theorem State.setFlow_engine (c : Nat) (v : Flow) (u : Nat) : (s.setFlow c v).engine u = s.engine u := by
  simp [State.engine]
@[simp] theorem State.setPool_engine (d n : Nat) (u : Nat) : (s.setPool d n).engine u = s.engine u := by
  simp [State.engine]
@[simp] theorem State.setTime_engine (f : TimeUnit → TimeUnit) (u : Nat) : (s.setTime f).engine u = s.engine u := by
  simp [State.engine]
@[simp] theorem State.setLinkTime_engine (l : Nat) (v : LinkTime) (u : Nat) : (s.setLinkTime l v).engine u = s.engine u := by
  simp [State.engine]
@[simp] theorem State.setHold_engine (f : HallHold → HallHold) (u : Nat) : (s.setHold f).engine u = s.engine u := by
  simp [State.engine]
@[simp] theorem State.setSupply_engine (f : Supply → Supply) (u : Nat) : (s.setSupply f).engine u = s.engine u := by
  simp [State.engine]
@[simp] theorem State.setBoot_engine (f : Boot → Boot) (u : Nat) : (s.setBoot f).engine u = s.engine u := by
  simp [State.engine]
@[simp] theorem State.setHost_engine (f : HostPort → HostPort) (u : Nat) : (s.setHost f).engine u = s.engine u := by
  simp [State.engine]
@[simp] theorem State.setFaults_engine (f : Faults → Faults) (u : Nat) : (s.setFaults f).engine u = s.engine u := by
  simp [State.engine]
@[simp] theorem State.setRecovery_engine (c : Nat) (r : Option Recovery) (u : Nat) : (s.setRecovery c r).engine u = s.engine u := by
  simp [State.engine]
@[simp] theorem State.setTrain_engine (f : Train → Train) (u : Nat) : (s.setTrain f).engine u = s.engine u := by
  simp [State.engine]
@[simp] theorem State.setWatch_engine (f : Watch → Watch) (u : Nat) : (s.setWatch f).engine u = s.engine u := by
  simp [State.engine]
@[simp] theorem State.setRope_engine (f : Rope → Rope) (u : Nat) : (s.setRope f).engine u = s.engine u := by
  simp [State.engine]
@[simp] theorem State.setDict_engine (f : Dict → Dict) (u : Nat) : (s.setDict f).engine u = s.engine u := by
  simp [State.engine]
@[simp] theorem State.setMem_engine (f : MemCtl → MemCtl) (u : Nat) : (s.setMem f).engine u = s.engine u := by
  simp [State.engine]
@[simp] theorem State.reach64_engine (n : Nat) (u : Nat) : (s.reach64 n).engine u = s.engine u := by
  simp [State.engine]
@[simp] theorem State.reach_engine (n : Nat) (u : Nat) : (s.reach n).engine u = s.engine u := by
  simp [State.engine]
@[simp] theorem State.log_engine (ev dom : Nat) (items : List (Nat × Nat)) (u : Nat) : (s.log ev dom items).engine u = s.engine u := by
  simp [State.engine]
@[simp] theorem State.interrupt_engine (v : Nat) (u : Nat) : (s.interrupt v).engine u = s.engine u := by
  simp [State.engine]
@[simp] theorem State.sendDeltas_engine (ds : List Delta) (u : Nat) : (s.sendDeltas ds).engine u = s.engine u := by
  simp [State.engine]

end Sys2Proof.Machine
end

