-- ==== Sys2Proof/Laws/Ops.lean ====
section
/-!
SUPPORT. What the shared operations do: objects, the cairn log, hall time, holds, and the failure of a job
stage.
-/

namespace Sys2Proof.Machine

variable {s t u : State}

/-! ### Objects -/

/-- A value written is the value read. -/
@[simp] theorem State.obj_setObj_same (i j v : Nat) : (s.setObj i j v).obj i j = v := by
  simp only [State.obj, State.setObj, Tbl.get_set_same]
  split <;> simp_all

/-- Writing an object leaves every other object as it was. -/
theorem State.obj_setObj_other {i j a b : Nat} (v : Nat) (h : okey a b ≠ okey i j) :
    (s.setObj i j v).obj a b = s.obj a b := by
  simp only [State.obj, State.setObj, Tbl.get_set_other h]

/-- Both at once. -/
theorem State.obj_setObj (i j a b v : Nat) :
    (s.setObj i j v).obj a b = if okey a b = okey i j then v else s.obj a b := by
  split
  · next h =>
    unfold okey at h
    simp only [State.obj, State.setObj, show okey a b = okey i j from h, Tbl.get_set_same]
    split <;> simp_all
  · next h => exact State.obj_setObj_other v h

theorem State.obj_congr (h : t.dict = s.dict) (a b : Nat) : t.obj a b = s.obj a b := by
  simp only [State.obj, h]

theorem State.obj_count (i j n a b : Nat) :
    (s.count i j n).obj a b = if okey a b = okey i j then (s.obj i j + n) % 2 ^ 32 else s.obj a b :=
  State.obj_setObj ..

theorem State.obj_count64 (i j n a b : Nat) :
    (s.count64 i j n).obj a b = if okey a b = okey i j then (s.obj i j + n) % 2 ^ 64 else s.obj a b :=
  State.obj_setObj ..

/-- Writing a scalar object changes nothing of the dictionary but the scalar objects. -/
theorem State.setObj_dict (i j v : Nat) : (s.setObj i j v).dict = { s.dict with objs := (s.setObj i j v).dict.objs } :=
  rfl

/-! ### Hall time -/

theorem State.reach64_hall' (n : Nat) : (s.reach64 n).hall = max s.hall n := by
  unfold State.reach64
  split
  · show n = _
    omega
  · omega

theorem State.reach_hall' (n : Nat) : (s.reach n).hall = max s.hall (64 * n) := State.reach64_hall' _

/-- Reaching an instant changes hall time and what is left of a slew. -/
theorem State.reach64_time' (n : Nat) :
    (s.reach64 n).time = { s.time with slew := (s.reach64 n).time.slew, slewPhase := (s.reach64 n).time.slewPhase } := by
  unfold State.reach64
  split <;> rfl

theorem State.reached (n : Nat) : Reached s n (s.reach n) :=
  ⟨State.reach_hall' n, (s.reach n).time, State.reach64_time' _, by
    unfold State.reach State.reach64
    split <;> rfl⟩

theorem State.reach_now (n : Nat) : (s.reach n).now = max s.now n := by
  unfold State.now
  rw [State.reach_hall']
  omega

/-! ### The cairn log -/

theorem eventOf_cairnRecord (sev : Nat) (u : Bool) (ev seq time dom data : Nat) :
    eventOf (cairnRecord sev u ev seq time dom data) = ev % 2 ^ 16 := by
  simp only [eventOf, cairnRecord, BitVec.extractLsb'_append_eq_ite]
  simp

theorem Logged.refl (s : State) (h : s.faults.ring.length ≤ 8192) : Logged s s [] :=
  ⟨[], rfl, by simp [List.take_of_length_le h]⟩

/-- What was logged in two stretches. -/
theorem Logged.trans {a b : List Nat} (h : Logged s t a) (k : Logged t u b) : Logged s u (b ++ a) := by
  obtain ⟨xs, hx, h⟩ := h
  obtain ⟨ys, hy, k⟩ := k
  refine ⟨ys ++ xs, by simp [hx, hy], ?_⟩
  rw [k, h]
  have e : ∀ l : List (BitVec 256), (ys ++ l).take 8192 = ys.take 8192 ++ l.take (8192 - ys.length) :=
    fun l => List.take_append
  rw [List.append_assoc, e, e, List.take_take, Nat.min_eq_left (Nat.sub_le _ _)]

/-- A record is at the head of the ring, and the ring keeps the newest 8,192. -/
theorem State.log_ring (ev dom : Nat) (items : List (Nat × Nat)) :
    (s.log ev dom items).faults.ring =
      ((cairnRecord (severity ev) (!s.time.everLocked) ev (s.obj 0x9004 2) s.now dom (packItems 0 items)) ::
        s.faults.ring).take 8192 := by
  unfold State.log State.on
  dsimp only
  split <;> rfl

/-- Logging changes the ring alone of the fault handling. -/
theorem State.log_faults' (ev dom : Nat) (items : List (Nat × Nat)) :
    (s.log ev dom items).faults = { s.faults with ring := (s.log ev dom items).faults.ring } := by
  unfold State.log State.on
  dsimp only
  split <;> rfl

theorem State.log_logged (ev dom : Nat) (items : List (Nat × Nat)) : Logged s (s.log ev dom items) [ev % 2 ^ 16] :=
  ⟨[_], by rw [List.map_singleton, eventOf_cairnRecord], State.log_ring ev dom items⟩

/-- Logging writes only RECORDS_TOTAL and RECORDS_LOST of the objects. -/
theorem State.log_obj {a b : Nat} (ev dom : Nat) (items : List (Nat × Nat)) (h : okey a b ≠ okey 0x9004 2)
    (h' : okey a b ≠ okey 0x9004 3) : (s.log ev dom items).obj a b = s.obj a b := by
  unfold State.log State.on
  dsimp only
  split
  · simp only [State.obj_count64, if_neg h', State.obj_setObj, if_neg h]
    exact State.obj_congr rfl a b
  · rw [State.obj_setObj_other _ h]
    exact State.obj_congr rfl a b

/-- Nothing else of the dictionary changes with a record. -/
theorem State.log_dict' (ev dom : Nat) (items : List (Nat × Nat)) :
    (s.log ev dom items).dict = { s.dict with objs := (s.log ev dom items).dict.objs } := by
  unfold State.log State.on
  dsimp only
  split <;> rfl

/-- What does not touch the ring has logged nothing. -/
theorem Logged.congr {a : List Nat} (h : Logged s t a) (k : u.faults.ring = t.faults.ring) : Logged s u a := by
  obtain ⟨rs, h1, h2⟩ := h
  exact ⟨rs, h1, k.trans h2⟩

theorem Logged.congr_left {a : List Nat} (h : Logged t u a) (k : s.faults.ring = t.faults.ring) : Logged s u a := by
  obtain ⟨rs, h1, h2⟩ := h
  exact ⟨rs, h1, by rw [k]; exact h2⟩

/-! ### Folds -/

/-- A part that no step of a fold changes is as it was. -/
theorem State.each_part {α β : Type} (π : State → β) (f : State → α → State) (xs : List α)
    (h : ∀ s x, π (f s x) = π s) : π (s.each xs f) = π s := by
  unfold State.each
  induction xs generalizing s with
  | nil => rfl
  | cons x xs ih => rw [List.foldl_cons, ih, h]

end Sys2Proof.Machine
end

