-- ==== Sys2Proof/Laws/Specs.lean ====
section
/-!
SUPPORT. What the shared operations do, said once: the frame of a command, records logged, an instruction issued,
the job stage failed.
-/

namespace Sys2Proof.Machine

theorem act_up {s : State} (h : s.down = false) (f : State → State) : act s f = .next (f s) := by simp [act, h]

theorem Logged.same {s t u : State} {a : List Nat} (h : Logged s t a) (k : u.faults.ring = t.faults.ring) : Logged s u a :=
  h.congr k

/-- logging after a stretch -/
theorem Logged.log {s t : State} {a : List Nat} (h : Logged s t a) (ev dom items) (he : ev < 2 ^ 16) :
    Logged s (t.log ev dom items) (ev :: a) := by
  have := h.trans (t.log_logged ev dom items)
  rwa [Nat.mod_eq_of_lt he] at this

/-- ring unchanged by what is `Only` without ring -/
theorem Logged.only {s t u : State} {a : List Nat} {ps} (h : Logged s t a) (k : Only ps t u) (hp : Part.ring ∉ ps) :
    Logged s u a := h.congr (k.2 .ring hp)

/-- start from the state itself -/
theorem Logged.log1 (s : State) (ev dom items) (he : ev < 2 ^ 16) : Logged s (s.log ev dom items) [ev] := by
  have := s.log_logged ev dom items
  rwa [Nat.mod_eq_of_lt he] at this

/-- one record, from a state with the same ring -/
theorem logged1 {s u : State} (h : s.faults.ring = u.faults.ring) (ev dom items) (he : ev < 2 ^ 16) :
    Logged s (u.log ev dom items) [ev] := (Logged.log1 u ev dom items he).congr_left h

theorem logged0 {s u : State} (h : u.faults.ring = s.faults.ring) (hl : s.faults.ring.length ≤ 8192) : Logged s u [] :=
  (Logged.refl s hl).congr h

/-- a chain of records -/
theorem loggedN {s t u : State} {a : List Nat} (h : Logged s t a) (k : u.faults.ring = t.faults.ring) (ev dom items)
    (he : ev < 2 ^ 16) : Logged s (u.log ev dom items) (ev :: a) := (h.congr k).log ev dom items he

theorem alerting_ring (s : State) (f) (h : (f s).faults.ring = s.faults.ring) : (s.alerting f).faults.ring = s.faults.ring := by
  unfold State.alerting; dsimp only; split <;> exact h

theorem alerting_obj (s : State) (f) (a b) : (s.alerting f).obj a b = (f s).obj a b := by
  unfold State.alerting; dsimp only; split <;> rfl

theorem obj_of_only {s t : State} {ps} (h : Only ps s t) (hp : Part.objects ∉ ps) (a b) : t.obj a b = s.obj a b := by
  have : t.dict.objs = s.dict.objs := h.2 .objects hp
  simp [State.obj, this]

theorem each_id {α : Type} {s : State} {xs : List α} {f : State → α → State} (h : ∀ x ∈ xs, f s x = s) : s.each xs f = s := by
  unfold State.each
  induction xs with
  | nil => rfl
  | cons x xs ih =>
    rw [List.foldl_cons, h x (by simp)]
    exact ih fun y hy => h y (by simp [hy])

/-- what failing the job stage does -/
theorem jobFail_logged {s : State} (c : Nat) (hl : s.job.loaded = true) (hf : s.obj 0x9003 3 ≠ 1) :
    Logged s (s.jobFail c) [0x9010] := by
  unfold State.jobFail
  rw [if_neg (by simp [hl, hf])]
  dsimp only
  have hL := Logged.log1 s 0x9010 0 [(8, c)] (by decide)
  generalize s.log 0x9010 0 [(8, c)] = u at hL ⊢
  refine Logged.same hL ?_
  have h2 : ∀ u : State, (u.schedFault).faults.ring = u.faults.ring := fun u => by simp [State.schedFault]
  have h3 : ∀ u : State, (u.stopAll).faults.ring = u.faults.ring := fun u =>
    (State.stopAll_only (parts := [.ctxs]) (Only.refl _ u) (by decide)).2 .ring (by decide)
  have h4 : ∀ (u : State) (c), (u.originateHold c).2.faults.ring = u.faults.ring := fun u c =>
    (State.originateHold_only (parts := [.hold, .links]) (Only.refl _ u) (by decide) c).2 .ring (by decide)
  rw [h2, State.setHold_faults]
  split
  · rw [h4, h3, State.interrupt_faults]; exact alerting_ring _ _ (by simp)
  · rw [h3, State.interrupt_faults]; exact alerting_ring _ _ (by simp)

theorem jobFail_failed {s : State} (c : Nat) (hl : s.job.loaded = true) (hf : s.obj 0x9003 3 ≠ 1) :
    (s.jobFail c).obj 0x9003 3 = 1 ∧ (s.jobFail c).obj 0x9003 4 = c ∧ (s.jobFail c).hold.noResume = true ∧
    (s.jobFail c).hold.schedFault = true := by
  unfold State.jobFail
  rw [if_neg (by simp [hl, hf])]
  dsimp only
  have h2 : ∀ (u : State) a b, (u.schedFault).obj a b = u.obj a b := fun _ _ _ => rfl
  have h3 : ∀ (u : State) a b, (u.stopAll).obj a b = u.obj a b := fun u =>
    obj_of_only (State.stopAll_only (parts := [.ctxs]) (Only.refl _ u) (by decide)) (by decide)
  have h4 : ∀ (u : State) (c) a b, (u.originateHold c).2.obj a b = u.obj a b := fun u c =>
    obj_of_only (State.originateHold_only (parts := [.hold, .links]) (Only.refl _ u) (by decide) c) (by decide)
  refine ⟨?_, ?_, rfl, rfl⟩
  · rw [h2, State.setHold_obj]
    split
    · rw [h4, h3, State.interrupt_obj, alerting_obj, State.obj_setObj_other _ (by decide), State.obj_setObj_same]
    · rw [h3, State.interrupt_obj, alerting_obj, State.obj_setObj_other _ (by decide), State.obj_setObj_same]
  · rw [h2, State.setHold_obj]
    split
    · rw [h4, h3, State.interrupt_obj, alerting_obj, State.obj_setObj_same]
    · rw [h3, State.interrupt_obj, alerting_obj, State.obj_setObj_same]

theorem jobFail_none {s : State} (c : Nat) (h : s.job.loaded = false ∨ s.obj 0x9003 3 = 1) : s.jobFail c = s := by
  unfold State.jobFail
  rw [if_pos]
  rcases h with h | h <;> simp [h]

theorem ctxKey_inj {c d : Core} {x y : Ctx} (h : (d, y) ≠ (c, x)) : ctxKey d y ≠ ctxKey c x := by
  intro k
  unfold ctxKey at k
  apply h
  have h1 := c.isLt
  have h2 := d.isLt
  have h3 := x.isLt
  have h4 := y.isLt
  rw [Prod.mk.injEq, Fin.ext_iff, Fin.ext_iff]
  omega

/-- Two contexts are apart. -/
theorem ctx_setCtx_other {s : State} {c d : Core} {x y : Ctx} (v : CtxSt) (h : (d, y) ≠ (c, x)) :
    (s.setCtx c x v).ctx d y = s.ctx d y := by
  unfold State.ctx State.setCtx
  exact Tbl.get_set_other (ctxKey_inj h)

@[simp] theorem ctx_mapCtx {s : State} (c x : Nat) (f : CtxSt → CtxSt) : (s.mapCtx c x f).ctx c x = f (s.ctx c x) := by
  simp [State.mapCtx]

theorem ctx_mapCtx_other {s : State} {c d : Core} {x y : Ctx} (f : CtxSt → CtxSt) (h : (d, y) ≠ (c, x)) :
    (s.mapCtx c x f).ctx d y = s.ctx d y := ctx_setCtx_other _ h

theorem retire_ctx {s : State} (c x : Nat) : (s.retire c x).ctx c x = s.retired (s.ctx c x) := by
  simp [State.retire, State.retired]

theorem retire_other {s : State} {c d : Core} {x y : Ctx} (h : (d, y) ≠ (c, x)) :
    (s.retire c x).ctx d y = s.ctx d y := ctx_mapCtx_other _ h

/-- Winning the place changes no context, no semaphore and no object of the machine. -/
@[simp] theorem tookTurn_ctx {s : State} (c q x d y : Nat) : (s.tookTurn c q x).ctx d y = s.ctx d y := rfl
@[simp] theorem tookTurn_sem {s : State} (c q x d y : Nat) : (s.tookTurn c q x).sem d y = s.sem d y := rfl
@[simp] theorem tookTurn_obj {s : State} (c q x o i : Nat) : (s.tookTurn c q x).obj o i = s.obj o i := rfl

/-- What an instruction that executes is judged by and does: its issue checks, then its effect, in the state in which its
context has won the issue. -/
theorem issue_eq {s : State} {c x op w : Nat} (h : s.Issues c x op w) (hl : listedOpcode op = true)
    {enc : Nat → Option Reject} {dyn : State → Nat → Option Reject} (run : State → Nat → State) (he : enc w = none) :
    s.issue c x op enc dyn run = match dyn (s.tookTurn c 0 x) w with
      | some r => (s.tookTurn c 0 x).reject c x r
      | none => run ((s.tookTurn c 0 x).count64 0x4037 c) w := by
  obtain ⟨h1, h2, h3, h4, h5, h6⟩ := h
  have hw : (BitVec.ofNat 128 w).toNat = w := by rw [BitVec.toNat_ofNat, Nat.mod_eq_of_lt h3]
  unfold State.issue
  rw [h2, if_neg (by simp [h1])]
  dsimp only
  rw [hw, if_neg (by simp [h4]), if_neg (by simp [h4, hl]), if_neg (by simp [h5]), he]
  dsimp only
  rw [tookTurn_ctx]
  refine (if_neg (by simpa using h6)).trans ?_
  cases dyn (s.tookTurn c 0 x) w <;> rfl

/-- An instruction that executes and passes its checks has its effect, and is counted in 0x4037. -/
theorem issue_runs {s : State} {c x op w : Nat} (h : s.Issues c x op w) (hl : listedOpcode op = true)
    {enc : Nat → Option Reject} {dyn : State → Nat → Option Reject} (run : State → Nat → State)
    (he : enc w = none) (hd : dyn (s.tookTurn c 0 x) w = none) :
    s.issue c x op enc dyn run = run ((s.tookTurn c 0 x).count64 0x4037 c) w := by
  rw [issue_eq h hl run he, hd]

/-- A word that an issue check rejects: the context faults as the rejection says. -/
theorem issue_rejects {s : State} {c x op w : Nat} (h : s.Issues c x op w) (hl : listedOpcode op = true)
    {enc : Nat → Option Reject} {dyn : State → Nat → Option Reject} (run : State → Nat → State) (r : Reject)
    (he : enc w = none) (hd : dyn (s.tookTurn c 0 x) w = some r) :
    s.issue c x op enc dyn run = (s.tookTurn c 0 x).reject c x r := by
  rw [issue_eq h hl run he, hd]

@[simp] theorem core_mapCore {s : State} (c : Nat) (f : CoreSt → CoreSt) : (s.mapCore c f).core c = f (s.core c) := by
  simp [State.mapCore]

theorem ctx_set_ne {s : State} {c x y : Nat} (v : CtxSt) (h : x ≠ y) : (s.setCtx c x v).ctx c y = s.ctx c y := by
  unfold State.ctx State.setCtx
  exact Tbl.get_set_other (by unfold ctxKey; omega)

theorem sem_set_ne {s : State} {c x y : Nat} (v : SemSt) (h : x ≠ y) : (s.setSem c x v).sem c y = s.sem c y := by
  unfold State.sem State.setSem
  exact Tbl.get_set_other (by omega)

/-- What a walk keeps, if each of its steps does. -/
theorem each_ind {α : Type} {P : State → Prop} {f : State → α → State} {xs : List α} {s : State} (h : P s)
    (hs : ∀ t x, x ∈ xs → P t → P (f t x)) : P (s.each xs f) := by
  unfold State.each
  induction xs generalizing s with
  | nil => exact h
  | cons x xs ih =>
    rw [List.foldl_cons]
    exact ih (hs s x (by simp) h) fun t y hy => hs t y (by simp [hy])

/-- A walk over the first numbers, each step of which changes the entry of its number alone. -/
theorem each_entry {β : Type} (key : Nat → State → β) {f : State → Nat → State} (g : Nat → β → β)
    (h1 : ∀ s x, key x (f s x) = g x (key x s)) (h2 : ∀ s x y, x ≠ y → key y (f s x) = key y s) (n : Nat) (s : State) :
    ∀ x, key x (s.each (List.range n) f) = if x < n then g x (key x s) else key x s := by
  induction n with
  | zero => intro x; simp [State.each]
  | succ n ih =>
    intro x
    have : s.each (List.range (n + 1)) f = f (s.each (List.range n) f) n := by
      simp [State.each, List.range_succ, List.foldl_append]
    rw [this]
    by_cases hx : x = n
    · subst hx; rw [h1, ih, if_neg (by omega), if_pos (by omega)]
    · rw [h2 _ _ _ (Ne.symm hx), ih]
      by_cases h : x < n
      · rw [if_pos h, if_pos (by omega)]
      · rw [if_neg h, if_neg (by omega)]

/-- A walk over the first numbers whose step at `x` gives the entry of `x` a value that no step of the walk changes. -/
theorem each_entry' {β : Type} (key : Nat → State → β) {f : State → Nat → State} (v : Nat → β) {P : State → Prop}
    {Q : Nat → Prop}
    (h0 : ∀ s x, P s → P (f s x)) (h1 : ∀ s x, Q x → P s → key x (f s x) = v x)
    (h2 : ∀ s x y, x ≠ y → key y (f s x) = key y s) (n : Nat) (s : State) (hs : P s) :
    P (s.each (List.range n) f) ∧ ∀ x, x < n → Q x → key x (s.each (List.range n) f) = v x := by
  induction n with
  | zero => exact ⟨hs, fun x hx _ => by omega⟩
  | succ n ih =>
    have : s.each (List.range (n + 1)) f = f (s.each (List.range n) f) n := by
      simp [State.each, List.range_succ, List.foldl_append]
    rw [this]
    refine ⟨h0 _ _ ih.1, fun x hx hq => ?_⟩
    by_cases h : x = n
    · subst h; exact h1 _ _ hq ih.1
    · rw [h2 _ _ _ (Ne.symm h)]; exact ih.2 x (by omega) hq

theorem leBytes_length : ∀ n v : Nat, (leBytes n v).length = n
  | 0, _ => rfl
  | n + 1, v => by simp [leBytes, leBytes_length n]

theorem leNat_leBytes : ∀ n v : Nat, v < 256 ^ n → leNat (leBytes n v) = v
  | 0, v, h => by simp at h; simp [leBytes, leNat, h]
  | n + 1, v, h => by
    have := leNat_leBytes n (v / 256) (by rw [Nat.pow_succ] at h; omega)
    simp [leBytes, leNat, this]
    omega

end Sys2Proof.Machine
end

