-- ==== Sys2Proof/WellFormed.lean ====
section
/-!
DEFINITION. Commands whose operands the outside can present: the bounds that their types leave open.
-/

namespace Sys2Proof

/-- A packet whose data is as long as its header says: none in a READ, LENGTH bytes in any other (R104). -/
def Packet.wf (p : Packet) : Bool :=
  decide (p.data.length = if fld p.header.toNat 507 502 = 1 then 0 else fld p.header.toNat 346 333)

/-- The most data of a message on each transport, the tag of an encrypted one included (R396, R398). -/
def dxpMost (transport : Fin 4) : Nat := [4064, 1200, 224, 4064].getD transport 0

/-- A message that its transport can carry (R396). -/
def DxpMsg.wf (m : DxpMsg) : Bool := decide (m.data.length ≤ dxpMost m.transport)

/-- A frame whose body field of 14 bits, with its tag of 16 bytes, can hold the body (R331). -/
def RopeFrame.wf (f : RopeFrame) : Bool := decide (f.body.length < 2 ^ 14 + 16)

/-- What the READ requests of a repair returned (R316): arrays, or none where a request failed. -/
def RepairData.wf (d : RepairData) : Bool :=
  d.ok || [d.master, d.m1, d.m2, d.work, d.maps, d.rope, d.anchorMaps, d.hists].all (·.isEmpty)

/-- A3 of BULK_COPY (R452). -/
def bulkLength (e : BitVec 512) : Nat := fld e.toNat 255 192

/-- The operands are such as the unit or the port that a command comes by can present. -/
def Instr.wf : Instr → Bool
  | .firstBootStage failed => failed.all (·.val < 512)
  | .memoryBootStage failed => failed.all (512 ≤ ·.val)
  | .hallTimeRead m => m.wf
  | .bankCheck m => m.wf
  | .switchBankArm m => m.wf
  | .switchBankDisarm m => m.wf
  | .windowOpenReceive _ w => decide (w.byteCount < 2 ^ 41)
  | .slotLand _ data _ _ => decide (data.bytes.length = 512) && decide (data.credits.length = 5)
  | .holdRequest m => m.wf
  | .linkTrain _ _ _ _ versions => versions.all (· < 16)
  | .freeSlotSend _ credits => decide (credits.length = 5)
  | .packetForward _ _ p => p.wf
  | .escapeWaitExpire p => p.wf
  | .memRead p => p.wf
  | .memWrite p => p.wf
  | .memAtomic p => p.wf
  | .memMessage p => p.wf
  | .responseArrive _ p => p.wf
  | .flowBreak p => p.wf
  | .ropeFrame p => p.wf
  | .semPostArrive _ _ posts => decide (1 ≤ posts)
  | .dcStart _ _ _ _ _ regs _ => decide (regs.length = 15)
  | .freshStart m => m.wf
  | .restore m => m.wf
  | .belayRequest m => m.wf
  | .repairBlock _ d => d.wf
  | .lsInitWrite m => m.wf
  | .ropeOpen f => f.wf
  | .ropeAccept f => f.wf
  | .ropeDelta f => f.wf
  | .ropeSack f => f.wf
  | .roundInfo f => f.wf
  | .rekey f => f.wf
  | .rekeyAck f => f.wf
  | .regroup f => f.wf
  | .ropeBelay f => f.wf
  | .dxpFrame f => f.wf
  | .probe f => f.wf
  | .closePrepare entry => decide (entry.length = 64)
  | .closeAck _ entry => decide (entry.length = 64)
  | .closeCommit entry => decide (entry.length = 64)
  | .regroupRequest m => m.wf
  | .scrubRead _ symbols => decide (symbols ≤ 72)
  | .memoryStackReset stack failed => failed.all (·.val / 64 == stack.val)
  | .powerSample _ _ _ loads => decide (loads.length = 0) || decide (loads.length = 11)
  | .drawTargetWrite m => m.wf
  | .thermalSample dies hbms _ => decide (dies.length = 6) && decide (hbms.length = 32)
  | .dxpHello m => m.wf
  | .dxpRead m => m.wf
  | .dxpWrite m => m.wf
  | .readBlob m => m.wf
  | .writeBlob m => m.wf
  | .describe m => m.wf
  | .dxpList m => m.wf
  | .subscribe m => m.wf
  | .groupKey m => m.wf
  | .dxpClose m => m.wf
  | .campImageWrite m => m.wf
  | .switchSlotArm m => m.wf
  | .switchSlotDisarm m => m.wf
  | .mboxDoorbell msg _ => decide (32 ≤ msg.length) && decide (msg.length ≤ 4096)
  | .bulkCopy e bus _ => decide (bus.length = if e.toNat % 2 = 0 then bulkLength e else 0)
  | .bar2Read _ len => decide (1 ≤ len) && decide (len ≤ 4096)
  | .bar2Write _ data => decide (1 ≤ data.length) && decide (data.length ≤ 4096)
  | .attestNonce m => m.wf
  | .fwStagingWrite m => m.wf
  | .fwInstallFirstStage m => m.wf
  | .fwInstallBundle m => m.wf
  | .warmResetRequest m => m.wf
  | .coldResetRequest m => m.wf
  | .svnCommit m => m.wf
  | .operatorKeyWrite m => m.wf
  | .dxpResponse m => m.wf
  | .ideKm _ slot key => decide (slot < 256) && decide (key.length = 32)
  | .powerOn .. | .powerGood .. | .romBootStage .. | .linksAndTimeStage .. | .firstStageTimeout ..
  | .trialBundleTimeout .. | .moduleWarmReset .. | .moduleColdReset .. | .timeSymbolSend ..
  | .timeSymbolReceive .. | .offsetEstimate .. | .lockDwellExpire .. | .parentLost .. | .symbolTimeout ..
  | .holdoverLimitExpire .. | .ppsEdge .. | .ppsEdgeMissed .. | .ptpMessage .. | .ptpLossTimeout ..
  | .rootSourceWaitExpire .. | .rootBeatTick .. | .rootBeatTimeout .. | .rootPromote .. | .ppsOutPulse ..
  | .ttLoad .. | .bankSwitch .. | .ttBatchArrive .. | .windowStart .. | .windowSlotSend ..
  | .reduceGroupCombine .. | .wakeCore .. | .wakeDie .. | .sleepCore .. | .sleepDie .. | .eventSemPost ..
  | .strobe .. | .hold .. | .resume .. | .holdTick .. | .resumeTick .. | .holdLimitExpire ..
  | .keptResumeExpire .. | .codewordUncorrectable .. | .requestIssue .. | .leaseLapse ..
  | .respTimeoutExpire .. | .mm .. | .mmG .. | .queueAdmit .. | .passStart .. | .passComplete ..
  | .gatherHoldExpire .. | .gatherGroupStart .. | .frameGateApply .. | .vadd .. | .vsub .. | .vmul ..
  | .vfma .. | .vmax .. | .vmin .. | .vcvt .. | .vaddCp .. | .vredSum .. | .vredMax .. | .vredSsq ..
  | .sfExp .. | .sfLog .. | .sfRsqrt .. | .vectorComplete .. | .movX .. | .semInit .. | .semPost ..
  | .semWait .. | .semTry .. | .semLeaseLapse .. | .waitT .. | .waitTRelease .. | .waitQ .. | .fence ..
  | .fenceForm .. | .fenceSpanExceeded .. | .timeRd .. | .nop .. | .alu .. | .cmp .. | .ld .. | .st .. | .br ..
  | .loop .. | .halt .. | .talRd .. | .tallyReadServe .. | .talNf .. | .streamRefill .. | .dcStop ..
  | .contextRead .. | .seqImemLoad .. | .semSet .. | .replay .. | .isolate .. | .rerunEnd ..
  | .descriptorStart .. | .descriptorComplete .. | .tableWalkComplete .. | .moverReset ..
  | .translationInvalidate .. | .invalidateComplete .. | .regionChangeEffective .. | .expanderRetry ..
  | .moverCheckRetry .. | .groupQuantise .. | .normSum .. | .normRecordWrite .. | .commitDecision ..
  | .sweepEnd .. | .sweepLimitExpire .. | .restoreComplete .. | .belayManifestWrite .. | .tallyDelta ..
  | .fpRecordWrite .. | .fpCheck .. | .sessionOpenAttempt .. | .sackTimer .. | .resendTimeout ..
  | .rekeyIntervalExpire .. | .nonceLimit .. | .ropeSend .. | .roundDeadline .. | .closeAckLimitExpire ..
  | .sessionPaceExpire .. | .memoryRetry .. | .migrationComplete .. | .refInLost .. | .refInRestore ..
  | .coreGate .. | .coreWakeComplete .. | .dieWakeComplete .. | .bivouacWakeStart .. | .governorClear ..
  | .ballastAdjust .. | .targetTick .. | .targetTimeoutExpire .. | .dipDeclare .. | .braceStart ..
  | .braceRelease .. | .braceResumeSend .. | .overvoltageDisconnect .. | .overvoltageReconnect ..
  | .powerFail .. | .thermalWarnClear .. | .sessionIdleExpire .. | .vc0RetryExpire .. | .campSwitch ..
  | .contextPaceExpire .. | .moverPaceExpire .. | .enginePaceExpire .. | .laneLoss .. | .linkLoss ..
  | .laneRelockComplete .. | .linkRetrainComplete .. | .linkAgreementTimeout .. | .dieControllerFault ..
  | .watchdogExpire .. | .mpRestartComplete .. | .cairnStreamSend .. | .jobLoad .. | .jobUnload ..
  | .imemLoad .. | .ctxStart .. | .ctxStop .. | .ctxRead .. | .flowOpen .. | .flowClose .. | .flowHead ..
  | .hostFunctionReset .. | .doeAttest .. | .doeMeasureLog .. | .readVin .. | .readIin ..
  | .readTemperature1 .. | .readTemperature2 .. | .readTemperature3 .. | .readPin .. | .pmbusRevision ..
  | .mfrStatus .. | .mfrState .. | .mfrCause .. | .mfrModule .. | .mfrSerial .. | .mfrEnergy ..
  | .smbusInvalid .. | .alertResponse .. | .probeIntervalExpire .. | .persistWriteComplete ..
  | .fwInstallComplete .. | .dieResetComplete .. | .perstDeassert .. => true

end Sys2Proof
end

