-- ==== Sys2Proof/Tests/Slice0.lean ====
section
/-!
SUPPORT. The model's own tests: for each statement with hypotheses, a state and operands that meet them together; a term
that each bound of `Instr.wf` refuses; and a few results that the spec gives in numbers.
-/

open Sys2Proof Sys2Proof.Machine

namespace Sys2Proof.Tests

-- One theorem is checked before the next is begun: they wait on each other's kernel checks otherwise, each on a thread.
set_option Elab.async false

/-! ### States -/

/-- A module that is READY, without a job. -/
def ready : State := { State.reset with boot := { Boot.reset with stage := 4 } }

/-- It has a job in force. -/
def busy : State := { ready with job := { Job.reset with loaded := true } }

/-- Link 0 is in the fabric role and up. -/
def linked : State := (ready.setObj 0xB021 0 1).setObj 0x6002 0 2

def withTime (f : TimeUnit → TimeUnit) (s : State := ready) : State := { s with time := f s.time }

/-- A hold of this module is joined, with its tick. -/
def joined (held : Bool) (s : State := ready) : State :=
  { s with hold := { s.hold with tick := some 1000, held := held, joined := [⟨3, 4, 1⟩] } }

/-! ### Hypotheses that can be met -/

theorem witness_EmptyQueuePassesOneNanosecond :
    (State.reset.pending = [] ∧ State.reset.hall + 65 < 2 ^ 70) ∧
    ∃ s : State, s.pending = [] ∧ 2 ^ 70 ≤ s.hall + 63 :=
  ⟨by decide, { State.reset with hall := 2 ^ 70 - 63 }, by decide⟩

theorem witness_EveryStepKeepsTheInvariant : State.reset.Inv ∧ (Runs { State.reset with pending := [.strobe] }) :=
  ⟨⟨by decide, by decide, by decide, by decide, by decide, by decide, by decide, by decide⟩, _, rfl⟩

theorem witness_SvnFloorsNeverFall : Runs { ready with pending := [.doeMeasureLog] } := ⟨_, rfl⟩

/-- JOB_UNLOAD is a command that leaves no job; a load that succeeds is witness_JobsLoadAndUnload. -/
theorem witness_JobsComeOnlyFromJobLoad : ready.job.loaded = false ∧ busy.job.loaded = true := by decide

theorem witness_PowerFailureStopsTheModule :
    (∃ s : State, s.down = false ∧ s.supply.dip = true ∧ s.supply.bank = 0) ∧
    (∃ s : State, s.down = false ∧ s.supply.critical = true) ∧
    (∃ (s : State) (c : Instr), s.down = true ∧ (∀ mv, c ≠ .powerOn mv) ∧ ∀ straps, c ≠ .powerGood straps) ∧
    ∃ s : State, s.down = true ∧ 46000 ≤ s.supply.mv :=
  ⟨⟨{ ready with supply := { Supply.reset with dip := true } }, by decide⟩,
   ⟨{ ready with supply := { Supply.reset with dieTemps := [115] } }, by decide⟩,
   ⟨{ ready with down := true }, .readVin, by decide, by intros; simp, by intros; simp⟩,
   ⟨{ ready with down := true, supply := { Supply.reset with mv := 46000 } }, by decide⟩⟩

theorem witness_MemoryKeepsWhatIsWritten :
    (let t := ready.write 126 [1, 2]; t.read 126 2 = [1, 2] ∧ t.read 128 1 = [0]) ∧ 126 ≤ 64 * 2 ∧
    (65535 : Nat) < 256 ^ 2 ∧ ∃ s : State, (s.write 64 (List.replicate 64 1)).poisoned 64 64 = false ∧ s.poisoned 64 64 = true :=
  ⟨by decide, by decide, by decide, { ready with poison := [1] }, by decide⟩

theorem witness_JobStageFails : (ready.job.loaded = false) ∧ (busy.job.loaded = true ∧ busy.obj 0x9003 3 ≠ 1) ∧
    (busy.setObj 0x9003 3 1).obj 0x9003 3 = 1 := by decide

theorem witness_NoFenceNoReplay :
    (busy.setCtx 0 1 { CtxSt.reset with status := .ready }).paceExempt 0 1 = false ∧ (busy.core 0).replay = [] ∧
    busy.recovery 0 = none ∧
    (∃ (s : State) (m : Mover), s.job.loaded = true ∧ s.obj 0x9003 3 ≠ 1 ∧ m.val / 2 = 191 ∧ s.coreDown 191 = false ∧
      (s.mover m).run = none ∧ (s.mover m).queue ≠ []) ∧
    ∃ (s : State) (m : Mover) (r : MovRun), s.job.loaded = true ∧ m.val / 2 = 0 ∧ s.coreDown 0 = false ∧
      (s.mover m).run = some r ∧ (r.moved = false ∨ r.remaining = 0) :=
  ⟨by decide, by decide, by decide,
   ⟨busy.setMover 383 ⟨[⟨0, 0, 0, 0, 0⟩], none, 0⟩, 383, by decide⟩,
   ⟨busy.setMover 0 ⟨[], some ⟨⟨0, 0, 0, 0, 0⟩, [], [], false, 0, none, false, [], [], [], []⟩, 0⟩, 0, _,
     by decide, by decide, by decide, rfl, .inl rfl⟩⟩

theorem witness_NarrowElementsArePacked :
    elemAt [0x21] 4 0 = 1 ∧ elemAt [0x21] 4 1 = 2 ∧ elemAt [0x41, 0x20, 0x0C] 6 3 = 3 ∧
    (packElems 6 (List.replicate 32 63)).length = 24 := by decide

theorem witness_CairnRecordsHaveTheirLayout :
    (0x9010 : Nat) < 2 ^ 16 ∧ domHost < 2 ^ 16 ∧ ready.faults.ring.length ≤ 8192 ∧ 0 + 120 ≤ 120 ∧ 120 < 1 + 120 := by decide

theorem witness_TimeSymbolIsSent : linked.down = false ∧ linked.role 0 = 1 ∧ linked.linkUp 0 = true := by decide

theorem witness_TimeSymbolIsReceived :
    (let w := ((0x2#4 ++ 0x1#4 ++ 0#156 ++ 4#3 ++ 0#25 : BitVec 192)).toNat
     fld w 191 188 = 2 ∧ fld w 187 184 = 1 ∧ fld w 27 25 = 4 ∧ fld w 1 0 = 0) ∧ linked.role 0 = 1 ∧ linked.linkUp 0 = true := by
  decide

theorem witness_LockAndHoldover :
    (∃ s : State, s.down = false ∧ 64 ≤ s.time.samples.length ∧ s.time.isRoot = false) ∧
    (∃ s : State, s.down = false ∧ s.time.state = .fine ∧ s.time.within = some 0 ∧ s.time.parent = some 0 ∧
      (s.linkTime 0).state = 3) ∧
    (∃ s : State, s.time.parent = some 1 ∧ s.linkUp 1 = false ∧ s.time.state = .coarse ∧ ∀ l < 64, s.candidate l = false) ∧
    (∃ s : State, s.time.parent = some 0 ∧ s.time.state = .fine ∧ ∀ l < 64, l ≠ 0 → s.candidate l = false) ∧
    (∃ s : State, s.time.state = .holdover ∧ s.job.loaded = false) ∧
    ∃ s : State, s.time.state = .holdover ∧ s.job.loaded = true ∧ s.obj 0x9003 3 ≠ 1 :=
  ⟨⟨withTime fun t => { t with samples := List.replicate 64 0 }, by decide⟩,
   ⟨(withTime fun t => { t with state := .fine, within := some 0, parent := some 0 }).setLinkTime 0
      { LinkTime.reset with state := 3 }, by decide⟩,
   ⟨withTime fun t => { t with state := .coarse, parent := some 1 }, by decide⟩,
   ⟨withTime fun t => { t with state := .fine, parent := some 0 }, by decide⟩,
   ⟨withTime fun t => { t with state := .holdover }, by decide⟩,
   ⟨withTime (fun t => { t with state := .holdover }) busy, by decide⟩⟩

/-- Module 0 is the only root, and its source is `n`. -/
def rooted (n : Nat) : State := (withTime fun t => { t with roots := [0] }).setObj 0x2002 1 n

theorem witness_RootSource :
    (∃ s : State, s.source = 1 ∧ s.time.isRoot = true ∧ s.time.started = true ∧ s.time.tied = true ∧ s.time.extLost = false ∧
      s.time.misses = 2) ∧
    ((rooted 2).ownIndex = some 0 ∧ (rooted 2).time.started = false ∧ (rooted 2).time.state = .unset ∧
      (rooted 2).time.early = none ∧ ({ rooted 2 with time := { (rooted 2).time with early := some (5, 6) } }).time.early = some (5, 6)) ∧
    (∃ s : State, s.source = 2 ∧ s.time.isRoot = true ∧ s.time.extLost = false ∧ s.time.ptp = none ∧ (3 : BitVec 8).toNat = s.obj 0x2002 3) ∧
    (∃ s : State, s.time.ptpSync = some ((7 : BitVec 16).toNat, none, 64)) ∧
    (∀ n : Nat, n = 1 ∨ n = 2 → let s := (rooted n).setTime fun t => { t with ptpSync := some (7, some 1, 64), ptpReq := some (8, 128) }
      s.source = n ∧ s.time.ptpSync = some (7, some 1, 64) ∧ s.time.ptpReq = some ((8 : BitVec 16).toNat, 128) ∧
      s.ownIndex = some 0 ∧ s.time.started = false ∧ s.time.state = .unset ∧ 2 ≤ s.boot.stage) ∧
    (let own := (6400 : Int) + 64 * 0; (own - 64 * nearestSecond own).natAbs ≤ 6400) ∧
    (let own := (6401 : Int) + 64 * 0; 6400 < (own - 64 * nearestSecond own).natAbs) :=
  ⟨⟨{ rooted 1 with time := { (rooted 1).time with isRoot := true, started := true, tied := true, misses := 2 } }, by decide⟩, by decide,
   ⟨{ (rooted 2).setObj 0x2002 3 3 with time := { (rooted 2).time with isRoot := true } }, by decide⟩,
   ⟨withTime fun t => { t with ptpSync := some (7, none, 64) }, by decide⟩,
   by rintro n (rfl | rfl) <;> decide, by decide, by decide⟩

/-- Bank A is active in a period of 600 ns, and link 0 has the one entry `e`. -/
def scheduled (e : BitVec 256) : State :=
  let s := ((linked.setObj 0x2011 0x40 1).setObj 0x2010 2 600).write (bankTable 0 0 0) (leBytes 32 e.toNat)
  { s with tt := { s.tt with active := some 0, engines := [(0, ⟨0, 0, 4096, none, 0, []⟩)] }
           time := { s.time with state := .locked } }

/-- One DATA entry of one slot, at slot 12. -/
def timed : State := scheduled (0x2#4 ++ 0x1#4 ++ 12#30 ++ 1#24 ++ 0#194)

/-- One EVENT of action `op`, at slot 12. -/
def eventful (op : BitVec 4) (dst src : BitVec 41 := 0) : State :=
  scheduled (0x2#4 ++ 0x4#4 ++ 12#30 ++ 0#54 ++ src ++ dst ++ 0#48 ++ op ++ 0#30)

theorem witness_RootsAndPulses :
    (∃ s : State, s.time.isRoot = true ∧ s.down = false) ∧
    (∃ s : State, s.time.isRoot = false ∧ s.time.rootIndex = some 0) ∧
    (∃ s : State, s.ownIndex = some 1 ∧ s.time.isRoot = false ∧ s.time.state = .locked ∧ s.time.rootIndex = some 0 ∧
      s.time.beatLost = true ∧ s.lowerBeating 1 (some s.time.beatAt) = false) ∧
    (∃ s : State, s.ownIndex = some 1 ∧ s.time.isRoot = false ∧ s.time.started = false ∧ s.time.state = .unset ∧
      s.lowerBeating 1 none = false ∧ s.time.early = none) ∧
    (∃ s : State, s.obj 0x2006 1 = 0 ∧ s.obj 0xB020 1 = 1) ∧
    ∃ s : State, s.EventDue (isEvent 6 0) 0 0 60 ∧ s.obj 0x2006 1 = 1 ∧ s.obj 0xB020 1 = 2 :=
  ⟨⟨withTime fun t => { t with isRoot := true }, by decide⟩,
   ⟨withTime fun t => { t with rootIndex := some 0 }, by decide⟩,
   ⟨withTime fun t => { t with roots := [7, 0], state := .locked, rootIndex := some 0, beatLost := true }, by decide⟩,
   ⟨withTime fun t => { t with roots := [7, 0] }, by decide⟩,
   ⟨(ready.setObj 0x2006 1 0).setObj 0xB020 1 1, by decide⟩,
   ⟨((eventful 6).setObj 0x2006 1 1).setObj 0xB020 1 2, ⟨0, by decide +kernel⟩, by decide, by decide⟩⟩

theorem witness_BanksAndWindows :
    (∃ s : State, s.tt.switch = some 1 ∧ s.frozenAt (s.obj 0x2010 8 + s.lag) = false ∧ s.hall ≤ 64 * (s.obj 0x2010 8 + s.lag)) ∧
    (timed.tt.active.isSome ∧ ({ timed with tt := { timed.tt with engines := [(0, ⟨0, 0, 3072, none, 0, []⟩)] } }.engine 0).fetched = 3072) ∧
    (∃ e passed, timed.nextWindow 0 0 (2 * timed.bankCount 0 0) (timed.engine 0) 0 = some (e, passed) ∧
      timed.ownLost 0 = false ∧ passed < e.fetched ∧ timed.poison = [] ∧ entKind (timed.entry 0 0 e.index) ≠ 3 ∧
      (let start := e.period + 5 * entStart (timed.entry 0 0 e.index)
       e.spanEnd ≤ start ∧ timed.frozenAt (start + timed.lag) = false ∧ (timed.reach (start + timed.lag)).timeOk = true)) ∧
    (∃ (s : State) (w : TxWindow), s.tt.active = some 0 ∧ (s.engine 0).window = some w ∧
      s.frozenAt (w.start + 5 * dataSlot (entStart w.entry) w.sent + s.lag) = false ∧ s.poison = []) ∧
    ∃ w : OpenWord, (timed.landPattern w).isSome ∧ ∃ v : OpenWord, timed.landPattern v = none :=
  ⟨⟨{ ready with tt := { ready.tt with switch := some 1 } }, by decide⟩, by decide,
   ⟨⟨0, 0, 4096, none, 0, []⟩, 0, by decide⟩,
   ⟨{ timed with tt := { timed.tt with engines := [(0, ⟨0, 0, 4096, some ⟨0, 60, 0, 1, 512, 0⟩, 0, []⟩)] } }, ⟨0, 60, 0, 1, 512, 0⟩, by decide⟩,
   ⟨0, 0, 0, 0, 0, 0, 512⟩, by decide, ⟨0, 0, 1, 0, 0, 0, 512⟩, by decide⟩

/-- A window lands on link 0 at address 4,096. -/
def landing (op : BitVec 4) (held : List (Nat × Byte)) : State :=
  { linked with tt := { linked.tt with rx := [(0, some ⟨⟨0, 4096, 0, 0, 0, op, 512⟩, false, none, 0, false, held, []⟩)] } }

theorem witness_SlotsLand :
    (∃ w, (landing 0 []).rxOf 0 = some w ∧ w.open_.op = 0 ∧ w.refused = false ∧ ((landing 0 []).link 0).badSlots = 0 ∧
      (landing 0 []).sleepingTarget w.open_ = none ∧ w.pattern = none ∧ w.open_.dstKind = 0) ∧
    ∃ w, let s := landing 4 ((List.range (groupBytes 4)).map fun i => (i, 1#8))
      s.rxOf 0 = some w ∧ w.wholeGroup = some 0 ∧ w.open_.dstKind = 0 ∧ s.poison = [] :=
  ⟨⟨_, rfl, by decide⟩, ⟨_, rfl, by decide +kernel⟩⟩

theorem witness_EventsAndBivouac :
    (∃ due, let s := (eventful 1 191).setCore 191 { CoreSt.reset with power := .asleep }
      s.EventDue (isEvent 1 191) 0 0 due ∧ (s.core 191).power = .asleep) ∧
    (∃ due, let s := (eventful 2 3).setDie 3 .asleep
      s.EventDue (isEvent 2 3) 0 0 due ∧ Tbl.get .awake s.dies 3 = .asleep) ∧
    ((eventful 3 0).EventDue (isEvent 3 0) 0 0 60 ∧ (eventful 3 0).coreParked 0 = true ∧ ((eventful 3 0).core 0).power = .awake ∧
      ((eventful 3 0).setCtx 0 0 { CtxSt.reset with status := .ready }).coreParked 0 = false) ∧
    ((eventful 4 0).EventDue (isEvent 4 0) 0 0 60 ∧ (∃ i < 48, ((eventful 4 0).core (48 * 0 + i)).power ≠ .asleep) ∧
      ∃ s : State, s.EventDue (isEvent 4 0) 0 0 60 ∧ ∀ i < 48, (s.core (48 * 0 + i)).power = .asleep) ∧
    (let s := eventful 5 0 63
     s.EventDue (fun e => isEvent 5 0 e && entSrc e == (63 : BitVec 8).toNat) 0 0 60 ∧ (63 : BitVec 8).toNat < 64 ∧
      (s.core 0).power = .awake ∧ s.semWaiters 0 63 = [] ∧ (s.sem 0 63).count.toNat < 65535) ∧
    (eventful 5 0 64).EventDue (fun e => isEvent 5 0 e && entSrc e == (64 : BitVec 8).toNat) 0 0 60 ∧
    (∃ s : State, (s.core 0).power = .draining ∧ s.queuesEmpty 0 = true) ∧
    (∃ s : State, (s.core 0).power = .waking ∧ Tbl.get .awake s.dies 0 = .awake ∧ (s.core 0).latePosts = [] ∧
      (s.core 0).lateScale = false) ∧
    ∃ s : State, Tbl.get .awake s.dies 0 = .waking :=
  ⟨⟨_, ⟨0, rfl, rfl, by decide +kernel⟩, by decide +kernel⟩, ⟨_, ⟨0, rfl, rfl, by decide +kernel⟩, by decide +kernel⟩,
   ⟨⟨0, by decide +kernel⟩, by decide +kernel⟩,
   ⟨⟨0, by decide +kernel⟩, by decide +kernel,
    { eventful 4 0 with cores := (List.range 48).map fun i => (i, { CoreSt.reset with power := .asleep }) },
    ⟨0, by decide +kernel⟩, by decide +kernel⟩,
   ⟨⟨0, by decide +kernel⟩, by decide +kernel⟩, ⟨0, by decide +kernel⟩,
   ⟨ready.setCore 0 { CoreSt.reset with power := .draining }, by decide⟩,
   ⟨ready.setCore 0 { CoreSt.reset with power := .waking }, by decide⟩, ⟨ready.setDie 0 .waking, by decide⟩⟩

/-- A HOLD of module 5 with its tick. -/
def holdAt (tick : Nat) : Nat := (holdMessage 1 5 6 1 tick []).toNat

theorem witness_HoldsAndResumes :
    (holdMessageOk (holdAt 21) 1 = false ∧ holdMessageOk (holdAt 40) 1 = true) ∧
    (∃ s : State, s.hold.seen.contains (5, 6, 1) = true) ∧
    (ready.hold.seen.contains (5, 6, 1) = false ∧ ready.hold.tick = none ∧ ready.hold.held = false ∧ ready.hold.joined = [] ∧
      ready.now ≤ fld (holdAt 40) 199 136) ∧
    (fld (holdAt 40) 199 136 < { ready with hall := 64 * 41 }.now) ∧
    (holdMessageOk (holdMessage 2 3 4 1 2000 [1]).toNat 2 = true ∧ holdMessageOk (holdMessage 2 3 5 1 2000 [1]).toNat 2 = true ∧
      (joined true).hold.joined.any (fun i => i.origin == 3 && i.seq == 4) ∧
      !(joined true).hold.joined.any (fun i => i.origin == 3 && i.seq == 5) ∧ holdMessageOk (holdAt 40) 2 = false) ∧
    ((joined false).hold.tick = some 1000 ∧ (joined false).hold.held = false) ∧
    (∃ s : State, s.hold.tick = some 1000 ∧ s.hold.held = true ∧ s.hold.allResumed = true ∧ namedLinks s.hold = [] ∧
      s.hold.later = [] ∧ s.tt.switch = none) ∧
    ((joined true).hold.tick = some 1000 ∧ (joined true).hold.held = true ∧ (joined true).job.loaded = false) ∧
    (∃ s : State, s.hold.tick = some 1000 ∧ s.hold.held = true ∧ s.job.loaded = true ∧ s.obj 0x9003 3 ≠ 1) ∧
    ∃ s : State, (s.hold.kept.find? fun r => r.1.origin == (5 : BitVec 16).toNat && r.1.seq == (6 : BitVec 16).toNat) =
      some (⟨5, 6, 2000, []⟩, 7) :=
  ⟨by decide, ⟨{ ready with hold := { ready.hold with seen := [(5, 6, 1)] } }, by decide⟩, by decide, by decide, by decide, by decide,
   ⟨{ joined true with hold := { (joined true).hold with resumes := [⟨3, 4, 2000, []⟩] } }, by decide⟩, by decide,
   ⟨joined true busy, by decide⟩,
   ⟨{ ready with hold := { ready.hold with kept := [(⟨5, 6, 2000, []⟩, 7)] } }, by decide⟩⟩

/-- Link 0 with lanes and a partner, in a state of its own. -/
def fourLanes (f : LinkSt → LinkSt) : State :=
  let s := (linked.setObj 0x6000 3 1).setObj 0x6005 0 0x0F
  s.setLink 0 (f (s.link 0))

theorem witness_LinksTrainAndFail :
    (let s := fourLanes id
     s.down = false ∧ s.role 0 = 1 ∧ (s.link 0).permanent = false ∧ s.obj 0x6000 3 ≠ 0 ∧ mapUsed (s.mapEntry 0) = true ∧
     s.mapOk = true ∧ [1].any (2 ≤ ·) = false ∧ [1, 2].any (2 ≤ ·) = true ∧ s.partnerOf (s.mapEntry 0) = 1 ∧ s.mapEntry 0 % 512 = 260) ∧
    (let s := fourLanes id; s.linkUp 0 = true ∧ (s.link 0).relock = none ∧ bitAt (s.obj 0x6005 0) 3 = true) ∧
    (let s := fourLanes fun l => { l with relock := some 3 }
     (s.link 0).relock = some 3 ∧ s.obj 0x6005 0 = 0x0F ∧
     recent s.now (1000000 * s.obj 0x9001 2) ((((3, s.now) :: (s.link 0).laneTransients).filter (·.1 == 3)).map (·.2)) < s.obj 0x9001 1) ∧
    (let s := fourLanes id; s.hall < (s.linkTime 0).rxAt + 256000 ∧ s.time.parent ≠ some 0) ∧
    (let s := fourLanes fun l => { l with retraining := true }
     (s.link 0).retraining = true ∧ recent s.now (1000000000 * s.obj 0x9001 4) (s.now :: (s.link 0).linkTransients) < s.obj 0x9001 3) ∧
    (let s := fourLanes fun l => { l with holdSeq := some 7 }
     let t := { s with hold := { s.hold with own := [(7, 4)] } }
     (t.link 0).holdSeq = some 7 ∧ t.role 0 = 1 ∧ t.hold.own.find? (·.1 == 7) = some (7, 4) ∧ t.hold.noResume = false ∧
     t.hold.toName = []) ∧
    (let s := fourLanes fun l => { l with retraining := true, queue := [], sending := none }
     (s.link 0).retraining = true ∧ (s.link 0).queue = [] ∧ (s.link 0).sending = none) := by
  decide +kernel

/-- A packet of module 1 for this module, on VC `vc`, with its bytes. -/
def packet (op vc dst len : Nat) (data : List Byte) : Packet := ⟨packetHeader op vc 1 dst 5 9 0 0 0 0 len 0 2 0 0 0, data⟩

/-- A MGMT packet that carries a HOLD (1) or a RESUME (2) of module 5. -/
def heldIn (kind : Nat) : Packet := packet 6 0 0 32 (leBytes 32 (holdMessage kind 5 6 1 40 []).toNat)

theorem witness_PacketsAndFlows :
    (let q : Queued := ⟨32, true, false, false, some 0, packet 1 0 0 64 []⟩
     let s := fun r => linked.setLink 0 { linked.link 0 with sending := some (q, r) }
     ∀ r, r = 1 ∨ r = 100 → (s r).down = false ∧ (s r).linkUp 0 = true ∧ (s r).fabric.waiting = [] ∧ ((s r).link 0).queue = [] ∧
       ((s r).link 0).sending = some (q, r) ∧ (1 ≤ (s r).slotFlits 0 ∧ (s r).slotFlits 0 < 100)) ∧
    (portLink 0 0 = some (0 : Link).val ∧ portLink 0 34 = none ∧ holdIn (heldIn 1) = some 1 ∧ holdIn (heldIn 2) = some 2) ∧
    ((packet 1 0 0 64 []).ok = true ∧ linked.portRoom 0 0 (packet 1 0 0 64 []) = true ∧ holdIn (packet 1 0 0 64 []) = none ∧
     (packet 1 0 0 64 []).dst = linked.moduleNumber ∧ (packet 1 0 0 64 []).op ≠ 6 ∧ (packet 1 7 0 64 []).ok = false ∧
     (packet 6 0 0 0 []).op = 6 ∧ (packet 6 0 0 0 []).ok = true ∧ holdIn (packet 6 0 0 0 []) = none ∧
     linked.portRoom 0 0 (packet 6 0 0 0 []) = true ∧ linked.fabric.vc0Ring.length < 256) ∧
    (let p := packet 1 0 1 64 []; p.ok = true ∧ p.dst ≠ linked.moduleNumber ∧ linked.noTransit = false ∧ p.vc ≠ 2 ∧ p.vc ≠ 3 ∧
     linked.orderedHop p.dst p.seq (portLink 0 0) = .link 0 ∧ linked.portRoom 0 0 p = true ∧
     linked.orderedHop p.dst p.seq (portLink 1 0) = .link 0 ∧ linked.portRoom 1 0 p = true ∧ linked.portRoom 0 34 p = true) ∧
    (let p := packet 1 2 1 64 []; let s := linked.setLink 0 { linked.link 0 with credits := fullCredits }
     p.ok = true ∧ p.dst ≠ s.moduleNumber ∧ p.vc = 2 ∧ s.adaptiveHop p.dst p.vc p.flits = .link 0 ∧ s.portRoom 0 0 p = true) ∧
    (let p := packet 1 2 1 64 []; let w : Waiting := ⟨0, 0, false, true, false, p, 5⟩
     let s := { linked.setLink 0 { linked.link 0 with credits := fullCredits } with
       fabric := { linked.fabric with waiting := [w] } }
     (s.fabric.waiting.find? fun w => w.p == p && (p.vc == 2 || p.vc == 3) && w.buffered && !w.escaping) = some w ∧
     p.dst ≠ s.moduleNumber ∧ s.orderedHop p.dst p.seq (portLink 0 0) = .link 0 ∧ p.flits ≤ (s.link 0).credits.getD 4 0) := by
  refine ⟨?_, ?_, ?_, ?_, ?_, ?_⟩
  · rintro q s r (rfl | rfl) <;> decide +kernel
  all_goals decide +kernel

/-- Flow context 5 is open, for context 9 of module 1. -/
def opened (f : Fabric → Fabric := id) (g : Flow → Flow := id) : State :=
  let s := linked.setFlow 5 (g { Flow.reset with state := .opened, peerModule := 1, peerContext := 9, outLimit := 4 })
  { s with fabric := f s.fabric }

/-- A READ of 64 bytes at its source. -/
def request : Request := ⟨5, 1, 0, 0, 64, [], .other, 0, 0, 0⟩

theorem witness_PacketsAndFlowsOfARequest :
    (let s := opened fun f => { f with waitReq := [request] }
     s.down = false ∧ s.nextRequest 0 [] s.fabric.waitReq = some request ∧ s.poisoned (flowTable + 128 * request.ctx.val) 128 = false) ∧
    (let p := packet 0x21 1 0 64 (List.replicate 64 7); let s := opened fun f => { f with inFlight := [request] }
     p.ok = true ∧ 0x21 ≤ p.op ∧ p.op ≤ 0x25 ∧ p.dst = s.moduleNumber ∧
     (s.fabric.inFlight.find? fun r => r.ctx.val == p.dstCtx && r.seq == p.seq && home r.ctx == 0) = some request ∧
     s.poisoned (flowTable + 128 * request.ctx.val) 128 = false ∧ (s.flow request.ctx).state = .opened ∧ request.issuer ≠ .repair ∧
     ((opened id).fabric.inFlight.find? fun r => r.ctx.val == p.dstCtx && r.seq == p.seq && home r.ctx == 0) = none) ∧
    (let p := packet 0x21 1 0 64 (List.replicate 64 7); responseStatus p { request with issuer := .repair } = 0) ∧
    (let p := packet 7 0 0 0 []; p.op = 7 ∧ p.ok = true ∧ p.dst = opened.moduleNumber ∧ (opened.flow p.dstCtx).state = .opened) ∧
    (opened.flow 5).state = .opened ∧
    (let s := opened fun f => { f with inFlight := [request] }
     (s.fabric.inFlight.find? fun r => r.ctx == 5 && r.seq == (0 : BitVec 32).toNat) = some request) := by
  decide +kernel

/-- Its context is keyed 1, with a ring of 4,096 bytes at 4,096, and the first 64 KiB of memory is open to that key. -/
def target : State :=
  let s := opened id fun f => { f with stageKey := 1, ringBase := 4096, ringLog2 := 12 }
  { s with regions := [(0, 0x2#4 ++ 7#3 ++ 1#8 ++ 0#113)] }

/-- A request of 64 bytes with that key. -/
def keyed (op vc atomic : Nat) (key : Nat := 1) (data : List Byte := []) : Packet :=
  ⟨packetHeader op vc 1 0 5 9 0 key 128 0 64 atomic 2 3 0 0, data⟩

theorem witness_RemoteOperations :
    (target.down = false ∧ target.Accepts (keyed 1 0 0) 1 ∧ (keyed 1 0 0).length ≤ 4096 ∧
     target.targetCheck (keyed 1 0 0) false 64 = none ∧ target.poison = []) ∧
    (let p := keyed 2 0 0 1 (List.replicate 64 3)
     target.Accepts p 2 ∧ target.targetCheck p true p.length = none ∧ target.rope.unanswered = false) ∧
    (let p := keyed 3 0 1 1 (List.replicate 64 3)
     target.Accepts p 3 ∧ 2 ≤ p.atomicSize ∧ target.targetCheck p false 4 = none ∧ target.targetCheck p true 4 = none ∧
     p.addr % 4 = 0 ∧ atomicFn p.atomicOp 32 (leNat (target.targetRead p 4)) p.operand0 p.operand1 = some 3) ∧
    (let p := keyed 4 0 0 1 (List.replicate 64 3); let f := target.flow p.dstCtx; let size := 2 ^ f.ringLog2.toNat
     let pos := f.ringTail.toNat % size; let entry := roundUp (16 + p.length) 64
     target.Accepts p 4 ∧ p.length ≤ 4096 ∧ f.ringLog2 ≠ 0 ∧ f.notifyMode = 0 ∧ target.visible f.ringBase.toNat size = true ∧
     pos + entry ≤ size ∧ (f.ringTail.toNat + size - f.ringHead.toNat % size) % size + entry < size) ∧
    ∀ op : Nat, op = 1 ∨ op = 2 ∨ op = 4 → let p := keyed op 0 0 2 (if op = 1 then [] else List.replicate 64 3)
      p.op = op ∧ target.Reaches p p.op ∧ p.key ≠ (target.flow p.dstCtx).stageKey := by
  refine ⟨?_, ?_, ?_, ?_, ?_⟩
  · simp only [State.Accepts, State.Reaches]; decide +kernel
  · simp only [State.Accepts, State.Reaches]; decide +kernel
  · simp only [State.Accepts, State.Reaches]; decide +kernel
  · simp only [State.Accepts, State.Reaches]; decide +kernel
  · rintro op (rfl | rfl | rfl) <;> simp only [State.Reaches] <;> decide +kernel

/-- The word of an instruction: version 0x2, its opcode, predicate 0, and its other bits. -/
def ins (op low : Nat) : Nat := 2 * 2 ^ 124 + op * 2 ^ 116 + low

/-- Context 0 of core 0 runs, and the instruction that it fetches is `w`. -/
def running (w : Nat) (f : CtxSt → CtxSt := id) (s : State := busy) : State :=
  { s.setCtx 0 0 (f { CtxSt.reset with status := .ready }) with imem := [(0, BitVec.ofNat 128 w)] }

theorem witness_ScalarInstructions :
    (ready.down = false ∧ (running (ins 0x60 0)).Issues 0 0 0x60 (ins 0x60 0) ∧ unassigned (ins 0x60 0) [] = false) ∧
    (let w := ins 0x61 (1 * 2 ^ 108 + 0xC * 2 ^ 96 + 5)
     (running w).Issues 0 0 0x61 w ∧ unassigned w [(111, 96), (63, 0)] = false ∧ fld w 99 96 ≤ 0xC) ∧
    (let w := ins 0x62 (1 * 2 ^ 108 + 5 * 2 ^ 96)
     (running w).Issues 0 0 0x62 w ∧ unassigned w [(110, 96), (63, 0)] = false ∧ fld w 99 96 ≤ 5) ∧
    (let w := ins 0x63 (storeSize 3 - 8)
     (running w).Issues 0 0 0x63 w ∧ unassigned w [(111, 104), (63, 0)] = false ∧ fld w 63 0 % 8 = 0 ∧ fld w 63 0 + 8 ≤ storeSize 3) ∧
    (let w := ins 0x64 (storeSize 3 - 8)
     (running w).Issues 0 0 0x64 w ∧ unassigned w [(107, 100), (63, 0)] = false) ∧
    (let w := ins 0x57 (2 * 2 ^ 108 + 2 ^ 104)
     (running w).Issues 0 0 0x57 w ∧ unassigned w [(111, 108), (104, 104)] = false) ∧
    let w := ins 0x71 (2 * 2 ^ 100 + 3 * 2 ^ 97)
    (running w).Issues 0 0 0x71 w ∧ unassigned w [(103, 97)] = false := by
  refine ⟨?_, ?_, ?_, ?_, ?_, ?_, ?_⟩ <;> (try simp only [State.Issues]) <;> decide +kernel

theorem witness_ControlInstructions :
    (let w := ins 0x65 4095; (running w).Issues 0 0 0x65 w ∧ unassigned w [(63, 0)] = false ∧ sext 64 (fld w 63 0) = 4095) ∧
    (let w := ins 0x66 (2 * 2 ^ 108 + 3 * 2 ^ 80 + 7); let s := running w
     s.Issues 0 0 0x66 w ∧ unassigned w [(111, 104), (95, 80), (63, 0)] = false ∧ fld w 95 80 ≠ 0 ∧ fld w 63 0 < 2 ^ 32 ∧
     (s.ctx 0 0).loops = []) ∧
    (let w := ins 0x66 (2 * 2 ^ 108 + 3 * 2 ^ 80)
     (running w).Issues 0 0 0x66 w ∧ unassigned w [(111, 104), (95, 80), (63, 0)] = false ∧ fld w 95 80 ≠ 0 ∧ fld w 63 0 = 0) ∧
    ((running (ins 0x67 0)).Issues 0 0 0x67 (ins 0x67 0) ∧ unassigned (ins 0x67 0) [] = false) ∧
    ((running (ins 0x56 0)).Issues 0 0 0x56 (ins 0x56 0) ∧ unassigned (ins 0x56 0) [] = false) ∧
    (let w := ins 0x55 (31 * 2 ^ 83); (running w).Issues 0 0 0x55 w ∧ unassigned w [(87, 83)] = false) ∧
    (let w := ins 0x54 9; let s := running w
     s.Issues 0 0 0x54 w ∧ unassigned w [(111, 108), (47, 0)] = false ∧ s.sched < unsext 64 (0 + sext 48 (fld w 47 0))) ∧
    (let w := ins 0x54 0; let s := running w
     s.Issues 0 0 0x54 w ∧ unassigned w [(111, 108), (47, 0)] = false ∧ unsext 64 (0 + sext 48 (fld w 47 0)) ≤ s.sched) ∧
    let s := running 0 fun c => { c with status := .parkedT, wait := .waitT 9 }
    let t := { s with job := { s.job with clockMhz := 2000 } }
    (t.ctx 0 0).wait = .waitT 9 ∧ t.coreAwake 0 = true ∧ t.hold.held = false ∧ t.hold.tick = none ∧ t.job.clockMhz ≠ 0 := by
  refine ⟨?_, ?_, ?_, ?_, ?_, ?_, ?_, ?_, ?_⟩ <;> (try simp only [State.Issues]) <;> decide +kernel

/-- Semaphore 63 of core 0 has its count. -/
def counted (n : BitVec 16) (broken : Bool) (w : Nat) : State := (running w).setSem 0 63 { SemSt.reset with count := n, broken := broken }

theorem witness_Semaphores :
    (let w := ins 0x50 (63 * 2 ^ 88 + 65535 * 2 ^ 64); (running w).Issues 0 0 0x50 w ∧ unassigned w [(95, 88), (79, 32)] = false ∧
     fld w 95 88 < 64) ∧
    (let w := ins 0x51 (0xFF * 2 ^ 96 + 63 * 2 ^ 88 + 2 ^ 64)
     (counted 65534 false w).Issues 0 0 0x51 w ∧ unassigned w [(103, 88), (79, 64)] = false ∧ fld w 79 64 ≠ 0 ∧
     ((counted 65534 false w).sem 0 63).count.toNat + 1 ≤ 65535 ∧ 65535 < ((counted 65535 false w).sem 0 63).count.toNat + 1 ∧
     (counted 65535 false w).Issues 0 0 0x51 w) ∧
    (let w := ins 0x51 (191 * 2 ^ 96 + 63 * 2 ^ 88 + 2 ^ 64)
     (running w).Issues 0 0 0x51 w ∧ unassigned w [(103, 88), (79, 64)] = false ∧ fld w 103 96 < 192 ∧ fld w 103 96 ≠ 0) ∧
    (let s := { ready with posts := [(63, 1), (5, 9), (63, 2)] }
     (s.core 0).power = .awake ∧ (takePosts 63 s.posts 2).1 = 3 ∧ (s.sem 0 63).count.toNat + 3 ≤ 65535) ∧
    (let w := ins 0x52 (63 * 2 ^ 88 + 2 ^ 64)
     (counted 1 false w).Issues 0 0 0x52 w ∧ unassigned w [(95, 88), (79, 64)] = false ∧ ((counted 0 true w).sem 0 63).broken = true ∧ (counted 0 false w).Issues 0 0 0x52 w ∧
     (counted 0 true w).Issues 0 0 0x52 w) ∧
    let w := ins 0x53 (7 * 2 ^ 105 + 63 * 2 ^ 88 + 2 ^ 64)
    (counted 1 false w).Issues 0 0 0x53 w ∧ unassigned w [(107, 105), (95, 88), (79, 64)] = false ∧ (counted 0 false w).Issues 0 0 0x53 w ∧
    (counted 0 true w).Issues 0 0 0x53 w ∧ ((counted 0 true w).sem 0 63).broken = true ∧ ((counted 1 false w).sem 0 63).broken = false := by
  refine ⟨?_, ?_, ?_, ?_, ?_, ?_⟩ <;> (try simp only [State.Issues]) <;> decide +kernel

theorem witness_SemaphoreLeases : ∃ (s : State) (t0 : Nat), s.down = false ∧ (s.sem 0 63).broken = false ∧ (s.sem 0 63).lease ≠ 0 ∧
    (∃ (x : Ctx) (j : Nat), (s.ctx 0 x).wait = .sem 63 j t0) ∧ ∀ (x : Ctx) (j t1 : Nat), (s.ctx 0 x).wait = .sem 63 j t1 → t0 ≤ t1 :=
  ⟨(running 0 fun c => { c with status := .waiting, wait := .sem 63 1 0 }).setSem 0 63 { SemSt.reset with lease := 1 }, 0,
    by decide, by decide, by decide, ⟨0, 1, by decide⟩, fun _ _ _ _ => Nat.zero_le _⟩

/-- A pass record: format 0x05 by 0x05, of one row and one tile, without a DONE_SEM. -/
def passRec : Nat := (0x2#4 ++ 5#5 ++ 5#5 ++ 0#42 ++ 0xFF#8 ++ 0#448 : BitVec 512).toNat

/-- Context 0 of core 0 runs `w`, with a pass record at scratch address 0 and the gatherer on; its core is `f`. -/
def atPass (w : Nat) (f : CoreSt → CoreSt := id) : State :=
  let s := { (running w).storeWrite 0 3 0 (leBytes 64 passRec) with job := { busy.job with gather := true } }
  s.setCore 0 (f (s.core 0))

/-- Its pass, and a group of it. -/
def onePass : PassRec := (atPass 0).passAt 0 0 0
def oneGroup (expired : Bool) : Group := ⟨[⟨0, onePass⟩], 1, 0, 4, 9, false, expired, false⟩

theorem witness_MatrixPasses :
    (let w := ins 0x10 0
     (atPass w).Issues 0 0 0x10 w ∧ unassigned w [(111, 83)] = false ∧ (atPass w).passCheck 0 0 w false = none ∧
     (atPass w).passRoom 0 = true ∧ (atPass w).winsPlace 0 1 (insertAsc 0 ((atPass w).passContenders 0)) 0 = true) ∧
    ((atPass 0 fun k => { k with passQ := List.replicate 4 ⟨none, onePass, []⟩ }).passRoom 0 = false) ∧
    (let w := ins 0x11 0
     (atPass w).Issues 0 0 0x11 w ∧ unassigned w [(111, 83)] = false ∧ (atPass w).passCheck 0 0 w true = none ∧
     (atPass w).groupSlot 0 ((atPass w).passAt 0 0 w) = some 0 ∧
     (atPass w).winsPlace 0 2 (insertAsc 0 ((atPass w).gatherContenders 0)) 0 = true) ∧
    ((atPass 0 fun k => { k with groups := (List.range 4).map fun i => (i, some { oneGroup false with rows := 256 }) }).groupSlot 0 onePass = none) ∧
    (let s := atPass 0 fun k => { k with groups := [(3, some (oneGroup false))] }
     s.down = false ∧ Tbl.get none (s.core 0).groups 3 = some (oneGroup false) ∧
     s.frozenAt ((oneGroup false).first + (oneGroup false).hold + s.lag) = false) ∧
    (let s := atPass 0 fun k => { k with groups := [(3, some (oneGroup true))] }
     s.readyGroup 0 = some (3, oneGroup true, 5) ∧ s.frozen = false ∧ s.passRoom 0 = true ∧
     s.winsPlace 0 1 (s.passContenders 0) 8 = true) ∧
    (let s := atPass 0 fun k => { k with passQ := [⟨none, onePass, []⟩] }
     (s.core 0).running = none ∧ (s.core 0).passQ = [⟨none, onePass, []⟩] ∧ s.coreAwake 0 = true ∧ (s.core 0).gated = false) ∧
    (let g : Running := ⟨⟨none, onePass, []⟩, 1, [], [], 0, 0, none⟩
     let s := atPass 0 fun k => { k with running := some g }
     (s.core 0).running = some g ∧ (s.core 0).suspended = false ∧ g.corrupt = none ∧ g.item.rec_.t ≤ g.tile) ∧
    (let g : Running := ⟨⟨none, onePass, []⟩, 0, [], [], 0, 0, some 0⟩
     let s := atPass 0 fun k => { k with running := some g }
     (s.core 0).running = some g ∧ g.corrupt = some 0 ∧ g.tile < g.item.rec_.t ∧ g.item.rec_.t = g.tile + 1 ∧
     (s.core 0).gated = false ∧ (s.core 0).suspended = false ∧
     (match s.tileElems 0 onePass (onePass.wAddr + 0 * onePass.wTile) with | .ok _ => true | .error _ => false) = true ∧
     let t := { s with maps := [(0, 0x40)] }
     (match t.tileElems 0 onePass (onePass.wAddr + 0 * onePass.wTile) with | .ok _ => false | .error (a, _) => decide (a = 0)) = true) := by
  refine ⟨?_, ?_, ?_, ?_, ?_, ?_, ?_, ?_, ?_⟩ <;> (try simp only [State.Issues]) <;> decide +kernel

/-- A vector instruction of FP32, one element, without a DONE_SEM. -/
def vword (op : Nat) : Nat := ins op (1 * 2 ^ 107 + 1 * 2 ^ 102 + 0x7F * 2 ^ 53 + 0xFF * 2 ^ 25)

theorem witness_VectorInstructions :
    (∀ op ∈ [0x20, 0x21, 0x22, 0x23, 0x24, 0x25, 0x26, 0x27, 0x28, 0x29, 0x2A, 0x30, 0x31, 0x32],
      (running (vword op)).Issues 0 0 op (vword op) ∧ vecEnc op (vword op) = none ∧ ((running (vword op)).vecItem 0 0 (vword op)).ok = true ∧
      (running (vword op)).winsPlace 0 3 (insertAsc 0 ((running (vword op)).vecContenders 0)) 0 = true) ∧
    let x := (running (vword 0x20)).vecItem 0 0 (vword 0x20)
    let s := (running 0).setCore 0 { CoreSt.reset with vecQ := [x] }
    (s.core 0).vecQ = [x] ∧ s.coreAwake 0 = true ∧ ¬ (List.replicate 8 x).length < 8 := by
  refine ⟨?_, ?_⟩ <;> (try simp only [State.Issues]) <;> decide +kernel

/-- A COPY of 4,096 bytes from memory into the activation store, and one of a slot into the weight store. -/
def copy : Nat :=
  (0x2#4 ++ 1#4 ++ 1#3 ++ 3#2 ++ 0#2 ++ 1#2 ++ 0#93 ++ 65536#48 ++ 0x80000000#48 ++ 0x80000000#48 ++ 0x80001000#48 ++ 0#722 :
    BitVec 1024).toNat + (511 * 2 ^ 80 + 8 * 2 ^ 40 + 8)
def slotCopy : Nat :=
  (0x2#4 ++ 1#4 ++ 1#3 ++ 3#2 ++ 1#2 ++ 1#2 ++ 0#3 ++ 1#2 ++ 1#5 ++ 0#83 ++ 4096#48 ++ 0#48 ++ 0#48 ++ 0x1000#48 ++ 0#722 :
    BitVec 1024).toNat + (511 * 2 ^ 80 + 8 * 2 ^ 40 + 8)
def copyItem (d : Nat) : MovItem := ⟨0, 0, 1, 0xFF, BitVec.ofNat 1024 d⟩

/-- Mover 0 holds this. -/
def moving (run : Option MovRun) (queue : List MovItem := []) (s : State := busy) : State := s.setMover 0 ⟨queue, run, 0⟩

theorem witness_Movers :
    (let w := ins 0x40 (0xFF * 2 ^ 86); let s := (running w).storeWrite 0 3 0 (leBytes 128 copy)
     s.Issues 0 0 0x40 w ∧ unassigned w [(111, 86)] = false ∧ s.movAddr 0 0 w = 0 ∧ s.descCheck (s.ctx 0 0).stageKey (s.storeNat 0 3 0 128) = none ∧
     (s.ctx 0 0).skipMovs = 0 ∧ s.movRoom 0 = true ∧ s.winsPlace 0 4 (insertAsc 0 (s.movContenders 0 false)) 0 = true ∧
     (s.setMover 0 ⟨List.replicate 16 (copyItem copy), none, 0⟩).movRoom 0 = false) ∧
    (let w := ins 0x40 (63 * 2 ^ 86); let s := running w fun c => { c with skipMovs := 1 }
     s.Issues 0 0 0x40 w ∧ fld w 93 86 < 64 ∧ (s.ctx 0 0).skipMovs ≠ 0) ∧
    (let s := (running 0 fun c => { c with status := .waiting, wait := .pass onePass })
     s.coreAwake 0 = true ∧ (s.ctx 0 0).wait = .pass onePass ∧ s.passRoom 0 = true ∧ s.winsPlace 0 1 (s.passContenders 0) 0 = true) ∧
    (let s := (running 0 fun c => { c with status := .waiting, wait := .gather onePass 7 })
     s.coreAwake 0 = true ∧ (s.ctx 0 0).wait = .gather onePass 7 ∧ s.groupSlot 0 onePass = some 0 ∧
     s.winsPlace 0 2 (s.gatherContenders 0) 0 = true) ∧
    (let v := (running 0).vecItem 0 0 (vword 0x20)
     let s := running 0 fun c => { c with status := .waiting, wait := .vec v }
     (s.ctx 0 0).wait = .vec v ∧ (s.core 0).vecQ.length < 8 ∧ s.winsPlace 0 3 (s.vecContenders 0) 0 = true) ∧
    (let s := running 0 fun c => { c with status := .waiting, wait := .mov true (copyItem copy) }
     (s.ctx 0 0).wait = .mov true (copyItem copy) ∧ s.movRoom 1 = true ∧ s.winsPlace 0 5 (s.movContenders 0 true) 0 = true) ∧
    (let s := moving none [copyItem copy]
     (s.mover 0).run = none ∧ (s.mover 0).queue = [copyItem copy] ∧ s.coreDown 0 = false ∧ s.descUnits copy ≠ [] ∧
     ∀ x ∈ s.descUnits copy, pageOf (s.core 0).tcache (65536 * x) = none) ∧
    (let r : MovRun := ⟨copyItem copy, [], [], true, 0, none, false, [(65536, 1)], [], [], []⟩
     ((moving (some r)).mover 0).run = some r ∧ r.fault = none ∧ r.moved = true ∧ r.retry = false ∧ r.remaining = 0 ∧ r.slots = []) ∧
    let r : MovRun := ⟨copyItem slotCopy, [], [], false, 0, none, true, [], [], [], []⟩
    let s := moving (some r)
    (s.mover 0).run = some r ∧ r.retry = true ∧ r.slotsLeft = 1 ∧ (s.sems = [] ∧ s.fabric.flows = []) ∧
    (match s.slotMove 0 r.item.desc.toNat r.item.key r.xlat r.slots.length with | .ok _ => true | _ => false) = true := by
  refine ⟨?_, ?_, ?_, ?_, ?_, ?_, ?_, ?_, ?_⟩ <;> (try simp only [State.Issues]) <;> decide +kernel

/-- A page table at 4,096 that maps the first GiB to itself, and the first 64 KiB granted to key 1. -/
def mapped (s : State := busy) : State :=
  let s := s.setObj 0x4040 1 0x1000
  { (s.write 0x1000 (leBytes 8 (2 ^ 62 + 0x2000))).write 0x2000 (leBytes 8 (2 * 2 ^ 62 + 3 * 2 ^ 60)) with
    regions := [(0, 0x2#4 ++ 7#3 ++ 1#8 ++ 0#113)] }

def page : TcEntry := ⟨0, 2 ^ 30, 0, true, true⟩

theorem witness_Translation :
    (let s := mapped ((running 0 fun c => { c with stream := true, stageKey := 1 }).setCore 0 { CoreSt.reset with tcache := [page] })
     let c := s.ctx 0 0
     s.down = false ∧ c.streamHungry = true ∧ s.coreDown 0 = false ∧
     (unitsOf c.burst.1 c.burst.2).map (fun u => pageOf (s.core 0).tcache (65536 * u)) = [page].map some ∧
     (match s.xlate [page] c.stageKey false (pieces c.burst.1 c.burst.2) with | .ok _ => true | .error _ => false) = true) ∧
    (let r : MovRun := ⟨copyItem copy, [], [1], false, 0, none, false, [], [], [], []⟩
     let s := mapped (moving (some r))
     (s.mover 0).run = some r ∧ r.need.contains 1 = true ∧ pageOf (s.core 0).tcache 65536 = none ∧
     (match s.walk 65536 with | .ok e => decide (e = page) | .error _ => false) = true) ∧
    (let s := mapped (running 0 fun c => { c with stream := true, stageKey := 1 }); let c := s.ctx 0 0
     c.streamHungry = true ∧ (unitsOf c.burst.1 c.burst.2).contains 0 = true ∧ pageOf (s.core 0).tcache 0 = none ∧
     s.coreDown 0 = false ∧ (match s.walk 5 with | .ok e => decide (e = page) | .error _ => false) = true) ∧
    ({ busy with invals := [none] }.invals = [none]) ∧
    let e : RegionChange := ⟨0x2#4 ++ 7#3 ++ 1#8 ++ 0#113, 0, 10000⟩
    busy.job.loaded = true ∧ busy.regionEntryOk e.word.toNat = true ∧ e.named + 10000 ≤ e.effective := by
  decide +kernel

theorem witness_DieControllerCommands :
    (ready.down = false ∧ (ready.ctx 0 0).startable = true ∧ ((running 0).ctx 0 0).startable = false) ∧
    (∃ s : State, (s.ctx 191 7).status = .faulted) ∧
    (ready.residentBusy 0 = false ∧ imemRange ready 0 4096 64 = true) :=
  ⟨by decide, ⟨busy.setCtx 191 7 { CtxSt.reset with status := .faulted }, by decide⟩, by decide +kernel⟩

/-- The contexts of core 0 as a fence recorded them. -/
def recorded (s : State) : State := s.setCore 0 { s.core 0 with replay := (List.range 8).map fun _ => CtxSt.reset.record, fenceAt := some 0 }

theorem witness_FencesAndRecovery :
    (let s := running 0 fun c => { c with status := .atFence }; s.down = false ∧ s.fenceReady 0 = true) ∧
    (let s := recorded (running 0)
     (s.core 0).fenceAt = some 0 ∧ (s.core 0).overrun = false ∧ (s.core 0).parkedAt = none ∧ s.hold.held = false) ∧
    (let s := recorded (running 0); s.paceExempt 0 0 = false ∧ s.recovery 0 = none ∧ s.faults.recovered.contains 0 = false ∧
      (s.core 0).replay ≠ []) ∧
    (let s := recorded (moving none [copyItem copy]); s.coreDown 0 = false ∧ (s.mover 0).run = none ∧ (s.mover 0).queue ≠ [] ∧
      s.recovery 0 = none ∧ s.faults.recovered.contains 0 = false ∧ (s.core 0).replay ≠ []) ∧
    ((recorded (running 0)).core 0).replay.length = 8 ∧ ((running 0).core 0).replay = [] ∧
    (let r : Recovery := ⟨2, 7, none, false, [], none⟩
     let s := (recorded (joined true busy)).setRecovery 0 (some r)
     (s.core 0).replay.length = 8 ∧ s.recovery 0 = some r ∧ s.hold.held = true ∧ s.resetsInWindow + 1 < s.obj 0x9002 1 ∧
     s.obj 0x9003 1 ≠ 1) ∧
    (let s := ready.setCore 0 { CoreSt.reset with rerun := true }
     (s.core 0).rerun = true ∧ s.rerunGoesOn 0 = false ∧ s.recovery 0 = none) ∧
    let r : Recovery := ⟨2, 7, none, true, [], none⟩
    let s := (ready.setCore 0 { CoreSt.reset with rerun := true }).setRecovery 0 (some r)
    let t := { s with hold := { s.hold with own := [(7, 4)] } }
    (t.core 0).rerun = true ∧ t.rerunGoesOn 0 = false ∧ t.recovery 0 = some r ∧
    t.hold.own.find? (·.1 == r.holdSeq) = some (r.holdSeq, 4) ∧ t.hold.noResume = false := by
  decide +kernel

theorem witness_TallyTable :
    ({ busy with deltas := [⟨5, 1, 3, 0, 0, 0, 1, 1, 0, []⟩] }.deltas = [⟨5, 1, 3, 0, 0, 0, 1, 1, 0, []⟩]) ∧
    (let w := ins 0x70 (65535 * 2 ^ 80); let s := running w
     s.Issues 0 0 0x70 w ∧ unassigned w [(111, 104), (95, 80)] = false ∧ ((s.ctx 0 0).s (fld w 107 104)).toNat = 0) ∧
    ((running 0 fun c => { c with status := .waiting, wait := .tally 65535 0 0 }).ctx 0 0).wait = .tally 65535 0 0 := by
  refine ⟨?_, ?_, ?_⟩ <;> (try simp only [State.Issues]) <;> decide +kernel

/-- A job with training state: an empty group, bank A active, the step record at 8,192 with its STATE. -/
def trainee (state : Nat) (f : Train → Train := id) : State :=
  let s := ((mapped busy).setObj 0x8000 3 1).setObj 0x8000 4 0x3000
  let s := s.write 0x3000 (leBytes 64 (2 * 2 ^ 508 + state * 2 ^ 506))
  { s with tt := { s.tt with active := some 0 }, train := f { Train.reset with groups := [2 * 2 ^ 508 + 2 ^ 504] } }

theorem witness_TrainingStep :
    (let s := trainee 0; s.down = false ∧ s.training = true ∧ s.hold.held = false ∧ s.hold.tick = none ∧ s.repairOpen = false ∧ recState s.stepRec = 0 ∧ s.ropeOn = false) ∧
    (let w := 2 * 2 ^ 508 + 2 ^ 504; let s := trainee 0
     s.train.groups[0]? = some w ∧ s.train.quantised.contains 0 = false ∧ gFrozen w = false ∧ s.stepTime (20 * gQuant w) = some 0 ∧
     (s.reach (0 + s.lag)).sweptPast w = true ∧ s.train.delayed.contains 0 = false ∧ List.range (gCount w) = []) ∧
    (let w := 2 * 2 ^ 508 + 2 ^ 504 + 2 ^ 419; let s := trainee 1 fun t => { t with groups := [w] }
     s.train.groups[0]? = some w ∧ (s.reach (0 + s.lag)).sweptPast w = false) ∧
    (let s := trainee 0; s.train.norms = none ∧ s.train.normWritten = false ∧ s.stepTime (s.obj 0x8000 9) = some 0 ∧
     (match (List.range 32).foldl (fun (acc : State × Option (List Nat)) n => match acc.2 with
        | none => acc
        | some xs => ((acc.1.engineSum n).1, (acc.1.engineSum n).2.map fun x => xs ++ [x])) (s.reach (0 + s.lag), some []) with
      | (_, some xs) => xs.length | (_, none) => 0) = 32) ∧
    (let s := trainee 0 fun t => { t with norms := some (List.replicate 32 0) }
     s.train.norms = some (List.replicate 32 0) ∧ s.train.normWritten = false) ∧
    (trainee 0).stepTime ((trainee 0).obj 0x8000 0xA) = some 0 ∧
    (let s := trainee 1; recState s.stepRec = 1 ∧ s.train.groups ≠ [] ∧ (∀ n : Engine, s.resumeSweeps.engineDone n = true) ∧
     s.resumeSweeps.repairOpen = false ∧ s.resumeSweeps.ropeOn = false) ∧
    (let s := trainee 1 fun t => { t with sweepAt := some 9 }
     s.train.overran = false ∧ recState s.stepRec = 1 ∧ s.train.sweepAt = some 9) ∧
    ((trainee 0 fun t => { t with restoring := some ⟨false, none⟩ }).train.restoring = some ⟨false, none⟩) ∧
    (trainee 0 fun t => { t with belayAsked := true }).train.belayAsked = true := by
  decide +kernel

/-- A value that this module has asked of module 1, unanswered after `n` attempts, and its answer. -/
def asked (n : Nat) : OwnRequest := ⟨9, 1, none, 0, [], n, 0⟩
def answer (kind abort : Nat) : DxpMsg := ⟨2, 1, BitVec.ofNat 256 (2 * 2 ^ 252 + kind * 2 ^ 248 + abort * 2 ^ 232 + 9 * 2 ^ 184 + 4 * 2 ^ 116), [1, 0, 5, 0]⟩
def localising (phase : LocPhase) (todo : List Nat) : Repair := ⟨phase, [], [], none, 1, [], [], todo, 0, false, false, false⟩

/-- The fingerprint record that arrived: one replica, agreed on, with its fingerprint and step. -/
def agreed (fp : Nat) : List Byte :=
  leBytes 4 (f32Nat 1) ++ List.replicate 252 0 ++ (leBytes 8 fp ++ leBytes 8 (notBits 64 5) ++ leBytes 4 3 ++ leBytes 4 (notBits 32 3)) ++
  leBytes 8 1 ++ leBytes 4 0 ++ List.replicate 220 0

theorem witness_ReplicaAgreement :
    (let s := trainee 0; s.training = true ∧ s.hold.held = false ∧ s.hold.tick = none ∧ s.train.fpWritten = false ∧
     s.stepTime (s.obj 0x8014 1) = some 0) ∧
    (∀ fp ∈ [5, 7], let s := (trainee 0).setObj 0x8013 0 1
     let t := s.setMailbox 1 (agreed fp); let r := (t.reach (0 + t.lag)).mailbox 1
     t.training = true ∧ t.hold.held = false ∧ t.hold.tick = none ∧ t.train.fpChecked = false ∧ t.stepTime (t.obj 0x8014 2) = some 0 ∧
     leAt r 0 4 = f32Nat t.replicaCount ∧ (∀ i < t.replicaCount, (leAt r 280 8).testBit i = true) ∧ bitAt (leAt r 288 4) 0 = false ∧
     (Nat.land (leAt r 256 8) (leAt r 264 8) = 0 ∧ Nat.land (leAt r 272 4) (leAt r 276 4) = 0 ↔ fp = 5)) ∧
    (leAt ((trainee 0).mailbox 1) 0 4 ≠ f32Nat 1) ∧
    (∀ a : Nat, a = 0 ∨ a = 1 →
     let m := answer 2 a; let h := m.header.toNat; let q := asked 1; let r := localising .values []
     let s := ((((trainee 0 fun t => { t with repair := some r }).setObj 0x8013 0 2).setObj 0x8013 2 1).setDict fun d =>
       { d with ownRequests := [q] })
     m.transport = 2 ∧ hKind h = 2 ∧ (hAbort h = 0 ↔ a = 0) ∧ q.session = none ∧ r.phase ≠ .repair ∧
     s.train.repair = some r ∧ s.replicaOf q.dst = some 1 ∧ (s.popVc0 m).train.repair = some r ∧
     (s.popVc0 m).dict.ownRequests.find? (fun q => answerFormat h m.data.length && q.seq == hSeq h && q.dst == m.source &&
       (if q.session.isNone then hKind h == 2 else hKind h == 4)) = some q) ∧
    (hKind (answer 4 0).header.toNat = 4 ∧ (answer 4 0).transport = 2) ∧
    (1 < ready.obj 0x1002 0xE ∧ ready.obj 0x1002 0xE ≤ 10 ∧
     (ready.setDict fun d => { d with ownRequests := [asked 1] }).dict.ownRequests.find? (fun q => q.seq == (9 : BitVec 32).toNat) =
       some (asked 1) ∧ ready.train.repair = none) ∧
    (let w := 2 * 2 ^ 508 + 2 ^ 504 + 2 ^ 419; let r := localising .repair [0]
     let s := (trainee 0 fun t => { t with groups := [w], repair := some r }).setFlow 0 { Flow.reset with state := .opened }
     s.train.repair = some r ∧ r.phase = .repair ∧ r.todo.head? = some 0 ∧ ((allBlocks s.train.groups).find? (·.b == 0)) = some ⟨w, 0, 0⟩ ∧
     (s.finishCopy.flow (s.finishCopy.replicaCtx r.src)).state = .opened) ∧
    (let w := 2 * 2 ^ 508 + 2 ^ 504 + 2 ^ 419; let s := trainee 1 fun t => { t with groups := [w] }
     s.training = true ∧ recState s.stepRec = 1 ∧ s.engineDone 0 = false ∧ s.obj 0x9003 1 ≠ 1) ∧
    let s := { trainee 0 with hall := 64 * (trainee 0).obj 0x9000 3 }
    let t := s.setEngineSt 0 { EngineSt.reset with stopped := true }
    recState t.stepRec ≠ 1 ∧ (t.engineSt 0).stopped = true ∧ t.obj 0x9003 1 ≠ 1 ∧ t.resetsInWindow + 1 < t.obj 0x9002 1 ∧
    t.hall = 64 * ((t.engineSt 0).pace + t.obj 0x9000 3) := by
  refine ⟨?_, ?_, ?_, ?_, ?_, ?_, ?_, ?_, ?_⟩
  · decide +kernel
  · decide +kernel
  · decide +kernel
  · rintro a (rfl | rfl) <;> decide +kernel
  all_goals decide +kernel

/-- The arrays of an empty copy fit a block whose group has neither second moments, maps nor the rope. -/
theorem witness_ReplicaAgreementCopyFits :
    ∃ (d : RepairData) (k : Blk), repairFits d k = true :=
  ⟨⟨true, List.replicate 65536 0, List.replicate 32768 0, [], List.replicate (gWorkBytes 0) 0, [], [], [], [], 0, 0, 0, 0⟩, ⟨0, 0, 0⟩,
    by simp only [repairFits, List.length_replicate]; decide +kernel⟩

/-- A module of site `own`, with site `1 - own` as its peer, in a group of `n` replicas, with the rope record `w` at 16,384. -/
def roped (own n w : Nat) (f : Rope → Rope := id) : State :=
  let s := ((trainee 0).setObj 0x7000 1 own).setObj 0x7000 2 3
  let s := (s.setObj 0x8013 0 n).setObj 0x7000 4 0x4000
  let s := s.setRec 0x7001 (1 - own) (leBytes 2 0 ++ List.replicate 48 0 ++ [32] ++ leBytes 8 1000000)
  let s := s.write 0x4000 (leBytes 64 w)
  { s with rope := f s.rope }

/-- The first stripe toward the peer of site 0. -/
def striped (v : RopeSess) : State := roped 0 1 freshRopeRec fun r => { r with sess := [(32, v)] }
def openSess : RopeSess := { RopeSess.reset with state := .opened, window := 1024 }

/-- CRC-32C byte by byte; the test makes an evaluator form each code before the next. -/
def crcByte (c : Nat) (b : Byte) : Nat :=
  crcStep (crcStep (crcStep (crcStep (crcStep (crcStep (crcStep (crcStep (Nat.xor c b.toNat))))))))
def crcNow : Nat → List Byte → Nat
  | c, [] => c
  | c, b :: bs => if crcByte c b = 0 then crcNow 0 bs else crcNow (crcByte c b) bs

theorem crcNow_foldl (c : Nat) (bs : List Byte) : crcNow c bs = bs.foldl crcByte c := by
  induction bs generalizing c with
  | nil => rfl
  | cons b bs ih => simp only [crcNow, List.foldl_cons]; split <;> simp_all

theorem crc32c_now (bs : List Byte) : crc32c bs = Nat.xor 0xFFFFFFFF (crcNow 0xFFFFFFFF bs) := by
  rw [crcNow_foldl]; rfl

/-- A frame of site 1 on its first stripe, of `n` bytes and the tag; its plain bytes are zero. -/
def ropeFrame (kind n : Nat) : RopeFrame :=
  let w := ((roped 1 1 freshRopeRec).ropeHeader 0 kind 0 false 0 0 0 0 [] 0 0).toNat
  let crc := Nat.xor 0xFFFFFFFF (crcNow 0xFFFFFFFF (List.replicate n 0))
  ⟨BitVec.ofNat 512 (setFld (setFld w 371 358 n) 357 326 crc), List.replicate (n + 16) 0⟩

theorem witness_RopeFramesForward :
    let s := (roped 0 1 freshRopeRec).setObj 0xB021 5 2
    let w := setFld (ropeFrame 3 8).header.toNat 477 462 7
    s.down = false ∧ rfDstSite w = s.ownSite ∧ rfDstModule w ≠ s.moduleNumber ∧ (List.range 64).any (s.role · == 2) = true := by
  decide +kernel

/-- A frame that is judged by its tag: neither foreign nor of an epoch not held nor of another length; and one that is foreign.
What the cipher answers is open. -/
theorem witness_RopeFramesJudged :
    let s := striped openSess; let f := ropeFrame 3 8; let w := f.header.toNat
    rfDstModule w = s.moduleNumber ∧ rfKind w = 3 ∧ rfVersion w = 2 ∧ fld w 173 0 = 0 ∧ rfDstSite w = s.ownSite ∧
    s.peerSites.contains (rfSrcSite w) = true ∧ rfSrcModule w = s.peerModule (rfSrcSite w) ∧ sequencedKind 3 = true ∧
    (s.ropeSess (32 * rfSrcSite w + rfStripe w)).state = .opened ∧ f.body.length = rfBodyLen w + 16 ∧
    (s.ropeSess (32 * rfSrcSite w + rfStripe w)).epochOf (rfEpoch w) = some .none ∧
    (s.ropeSess (32 * rfSrcSite w + rfStripe w)).epochOf 1 = none ∧
    (roped 0 1 freshRopeRec).ropeSess (32 * rfSrcSite w + rfStripe w) = .reset := by
  decide +kernel

/-- What the authenticated cipher answers is open; where it opens the frame, R334 passes it. -/
theorem openFrame_of (s : State) (f : RopeFrame) (n x : Nat) (body : List Byte) (k : KeyEpoch)
    (c : ¬ (rfVersion f.header.toNat ≠ 2 ∨ fld f.header.toNat 173 0 ≠ 0 ∨ rfDstSite f.header.toNat ≠ s.ownSite ∨
      rfDstModule f.header.toNat ≠ s.moduleNumber ∨ !s.peerSites.contains (rfSrcSite f.header.toNat) ∨
      rfSrcModule f.header.toNat ≠ s.peerModule (rfSrcSite f.header.toNat) ∨
      (!sequencedKind (rfKind f.header.toNat) ∧ rfSeq f.header.toNat ≠ 0) ∨
      !((s.ropeSess x).state == .opened || (s.ropeSess x).state == .slack)))
    (hx : 32 * rfSrcSite f.header.toNat + rfStripe f.header.toNat = x)
    (hk : (s.ropeSess x).epochOf (rfEpoch f.header.toNat) = some k) (hn : f.body.length - 16 = n)
    (hl : ¬ (f.body.length < 16 ∨ rfBodyLen f.header.toNat ≠ n))
    (g : Config.gcmOpen k.keyIn (ropeNonce k.saltIn (rfNonce f.header.toNat)) (leBytes 64 f.header.toNat) (f.body.take n) (f.body.drop n) =
      some body)
    (hc : Nat.xor 0xFFFFFFFF (crcNow 0xFFFFFFFF body) = rfCrc f.header.toNat) : s.openFrame f = (s, some (x, body)) := by
  subst hx hn
  unfold State.openFrame
  rw [if_neg c]
  simp only [hk]
  rw [if_neg hl]
  simp only [g]
  rw [if_neg (by rw [crc32c_now, hc]; simp)]

/-- The stripe toward site 1, and a frame of it that the cipher opens to zeros. -/
def Opens (kind n : Nat) : Prop :=
  Config.gcmOpen KeyEpoch.none.keyIn (ropeNonce KeyEpoch.none.saltIn (rfNonce (ropeFrame kind n).header.toNat))
    (leBytes 64 (ropeFrame kind n).header.toNat) ((ropeFrame kind n).body.take n) ((ropeFrame kind n).body.drop n) =
    some (List.replicate n 0)

theorem witness_RopeFramesOfSessions (h : Opens 3 8) :
    let s := striped openSess; let f := ropeFrame 3 8; let body := List.replicate 8 (0 : Byte)
    s.openFrame f = (s, some (32, body)) ∧ (s.ropeSess 32).state = .opened ∧ rfKind f.header.toNat = 3 ∧
    (s.ropeSess 32).fresh 0 = some true ∧ (s.ropeSess 32).fresh (2 ^ 32 - 1) = some false ∧ (s.ropeSess 32).fresh (2 ^ 31) = none ∧
    s.takeDelta f.header.toNat 32 body = none ∧ (s.takeInfo 32 (List.replicate 256 0)).isSome = true :=
  ⟨openFrame_of _ _ 8 32 _ .none (by decide +kernel) (by decide +kernel) (by decide +kernel) (by decide +kernel) (by decide +kernel) h
    (by decide +kernel), by decide +kernel⟩

/-- A SACK, a PROBE and a frame with a message. -/
theorem witness_RopeFramesOfOtherKinds (h4 : Opens 4 576) (hB : Opens 0xB 0) :
    let s := striped openSess; let t := striped { openSess with state := .slack }
    s.openFrame (ropeFrame 4 576) = (s, some (32, List.replicate 576 0)) ∧ s.openFrame (ropeFrame 0xB 0) = (s, some (32, [])) ∧
    t.openFrame (ropeFrame 4 576) = (t, some (32, List.replicate 576 0)) ∧ (t.ropeSess 32).state = .slack ∧
    rfKind (ropeFrame 4 576).header.toNat = 4 ∧ rfKind (ropeFrame 0xB 0).header.toNat = 0xB ∧ (s.ropeSess 32).state = .opened ∧
    32 * rfSrcSite (ropeFrame 4 576).header.toNat + rfStripe (ropeFrame 4 576).header.toNat = 32 := by
  refine ⟨openFrame_of _ _ 576 32 _ .none (by decide +kernel) (by decide +kernel) (by decide +kernel) (by decide +kernel) (by decide +kernel)
      h4 (by decide +kernel),
    openFrame_of _ _ 0 32 _ .none (by decide +kernel) (by decide +kernel) (by decide +kernel) (by decide +kernel) (by decide +kernel) hB
      (by decide +kernel),
    openFrame_of _ _ 576 32 _ .none (by decide +kernel) (by decide +kernel) (by decide +kernel) (by decide +kernel) (by decide +kernel)
      h4 (by decide +kernel), by decide +kernel⟩

/-- The bodies of an OPEN and of an ACCEPT: one stripe, a window of 1,024, no flags, the rest zero. -/
def openBody : List Byte := [2, 2, 1, 0] ++ leBytes 4 1024 ++ List.replicate 6453 0
def acceptBody : List Byte := [2, 1, 0, 0] ++ leBytes 4 1024 ++ List.replicate 6357 0

theorem crc_openBody : crc32c openBody = 2402599367 := by rw [crc32c_now]; decide +kernel
theorem crc_acceptBody : crc32c acceptBody = 3299089059 := by rw [crc32c_now]; decide +kernel

theorem length_openBody : openBody.length = 6461 := by
  simp only [openBody, List.length_append, List.length_replicate]; rfl
theorem length_acceptBody : acceptBody.length = 6365 := by
  simp only [acceptBody, List.length_append, List.length_replicate]; rfl

/-- They come from the other site. -/
def openFrame : RopeFrame := ⟨(roped 0 1 freshRopeRec).ropeHeader 32 1 0 false 0 0 0 0 openBody 0 0, openBody⟩
def acceptFrame : RopeFrame := ⟨(roped 1 1 freshRopeRec).ropeHeader 0 2 0 false 0 0 0 0 acceptBody 0 0, acceptBody⟩

theorem witness_RopeFramesAreForThisModule :
    (roped 1 1 freshRopeRec).clearFrameOk openFrame 1 = true ∧ rfSrcSite openFrame.header.toNat = 0 ∧
    (roped 0 1 freshRopeRec).clearFrameOk acceptFrame 2 = true ∧ rfSrcSite acceptFrame.header.toNat = 1 := by
  simp only [State.clearFrameOk, openFrame, acceptFrame, State.ropeHeader, crc_openBody, crc_acceptBody, length_openBody, length_acceptBody]
  decide +kernel

/-- Signatures and hashes are open; where they verify, the OPEN and the ACCEPT pass. -/
theorem witness_RopeFramesOpen (hash : Config.sha3 ((openBody.drop 1200).take 1952) = List.replicate 48 0) :
    openFrame.body = openBody ∧ openBody.length = 6461 ∧
    (let s := roped 1 1 freshRopeRec; let b := openBody
     s.job.loaded = true ∧ s.isLeader = true ∧ 0 < s.ownSite ∧ leAt b 0 1 ≤ 2 ∧ 2 ≤ leAt b 1 1 ∧ 1 ≤ leAt b 2 1 ∧ leAt b 2 1 ≤ 32 ∧
     leAt b 3 1 ≤ 1 ∧ 1024 ≤ leAt b 4 4 ∧ leAt b 4 4 ≤ 1048576 ∧ leAt b 8 8 = 0 ∧ s.peerStripes 0 ≠ 0 ∧
     6429 ≤ refill (s.ropePeer 0).tokens (s.ropePeer 0).tokensAt (s.peerRate 0) s.now ∧
     6429 ≤ refill s.rope.tokens s.rope.tokensAt (s.obj 0x7003 1) s.now ∧ s.faults.deadSessions.contains (32 * 0 + 0) = false ∧
     s.isSponsor 0 = true) ∧
    Config.sha3 ((openBody.drop 1200).take 1952) = (roped 1 1 freshRopeRec).peerHash 0 :=
  ⟨rfl, length_openBody, by decide +kernel, hash.trans (by decide +kernel)⟩

theorem witness_RopeFramesAccept (hash : Config.sha3 ((acceptBody.drop 1104).take 1952) = List.replicate 48 0) :
    acceptFrame.body = acceptBody ∧ acceptBody.length = 6365 ∧
    (let s := roped 0 1 freshRopeRec fun r => { r with peers := [(1, { RopePeer.reset with opening := some ⟨[], [], []⟩ })] }
     let b := acceptBody
     s.job.loaded = true ∧ s.isLeader = true ∧ (s.ropePeer 1).opening = some ⟨[], [], []⟩ ∧ leAt b 0 1 = 2 ∧ 1 ≤ leAt b 1 1 ∧
     leAt b 1 1 ≤ s.peerStripes 1 ∧ leAt b 2 2 = 0 ∧ 1024 ≤ leAt b 4 4 ∧ leAt b 4 4 ≤ s.obj 0x7003 2 ∧ leAt b 8 8 = 0) ∧
    Config.sha3 ((acceptBody.drop 1104).take 1952) = (roped 0 1 freshRopeRec).peerHash 1 :=
  ⟨rfl, length_acceptBody, by decide +kernel, hash.trans (by decide +kernel)⟩

/-- A frame of a stripe, unacknowledged since hall time 0. -/
def sentFrame : OutFrame := ⟨3, 0, 0, 0, 0, List.replicate 64 1, 0, 0, 0, false⟩

theorem witness_RopeSending :
    (let s := striped { openSess with urgent := [(4, [])] }
     s.down = false ∧ 80 ≤ refill (s.ropePeer 1).tokens (s.ropePeer 1).tokensAt (s.peerRate 1) s.now ∧
     80 ≤ refill s.rope.tokens s.rope.tokensAt (s.obj 0x7003 1) s.now ∧ (s.ropeSess 32).nonce < 2 ^ 32 - 1 ∧
     (s.flushGateway.ropeSess 32).urgent = [(4, [])] ∧ (s.flushGateway.transmit 32 4 false 0 0 0 0 0 []).isSome = true) ∧
    (let s := striped openSess
     refill ((s.setPeer 1 { s.ropePeer 1 with tokens := 79 }).ropePeer 1).tokens 0 (s.peerRate 1) 0 < 80) ∧
    (let s := striped { openSess with unacked := [{ sentFrame with due := true }] }; let u := s.flushGateway; let v := u.ropeSess 32
     v.urgent = [] ∧ v.state = .opened ∧
     v.unacked.find? (fun f => f.due && !(f.kind == 3 && u.storeBad f.round f.engine f.slot)) = some { sentFrame with due := true } ∧
     (u.transmit 32 3 true 0 0 0 0 0 sentFrame.body).isSome = true) ∧
    (let s := striped { openSess with queue := [sentFrame] }; let u := s.flushGateway; let v := u.ropeSess 32
     let bad := fun f : OutFrame => f.kind == 3 && u.storeBad f.round f.engine f.slot
     v.urgent = [] ∧ v.state = .opened ∧ v.unacked.find? (fun f => f.due && !bad f) = none ∧
     firstFrame (v.queue.filter fun f => !bad f) = some sentFrame ∧ serialLt v.txSeq (v.cumOut + v.window) = true ∧
     ((u.switchEpoch 32 v.txSeq).transmit 32 3 false v.txSeq 0 0 0 0 sentFrame.body).isSome = true) ∧
    (let s := striped { openSess with next := some (.none, 5) }
     (s.ropeSess 32).next = some (.none, 5) ∧ serialLt 4 5 = true ∧ serialLt 5 5 = false) ∧
    (let s := striped { openSess with unacked := [sentFrame] }; let limit := max (2 * (s.ropeSess 32).srtt) 1000000
     let u := s.reach (sentFrame.sentAt + limit + 1)
     (s.ropeSess 32).state = .opened ∧ (s.ropeSess 32).unacked = [sentFrame] ∧
     [sentFrame].find? (fun g => decide (g.sentAt + limit < u.now)) = some sentFrame) ∧
    ((striped { openSess with since := some 5 }).ropeSess 32).since = some 5 ∧
    (let s := striped .reset
     s.job.loaded = true ∧ s.isLeader = true ∧ s.peerSites.contains 1 = true ∧ s.ownSite < 1 ∧
     (∃ k ∈ s.stripesTo 1, s.wantsOpen (32 * 1 + k) = true ∧ (s.ropeSess (32 * 1 + k)).state = .closed) ∧
     (s.ropePeer 1).triedAt = none ∧ s.pathUp = false ∧ (s.setObj 0x7000 3 1).pathUp = true ∧
     6525 ≤ refill (s.ropePeer 1).tokens (s.ropePeer 1).tokensAt (s.peerRate 1) s.now ∧
     6525 ≤ refill s.rope.tokens s.rope.tokensAt (s.obj 0x7003 1) s.now) ∧
    (let s := roped 1 1 0; s.isJoiner = true ∧ s.isLeader = true ∧ s.peerSites.contains 0 = true ∧
     ∃ k ∈ s.stripesTo 0, s.wantsOpen (32 * 0 + k) = true) ∧
    (let s := striped { openSess with nonce := 2 ^ 31 }
     (sessionsTo 1).any (fun x => (s.ropeSess x).state == .opened) = true ∧ (s.ropePeer 1).rekey = none ∧ s.rekeyFree 1 = true ∧
     (s.ropePeer 1).rekeyDue = false ∧ (s.setPeer 1 { s.ropePeer 1 with rekeyDue := true }).ropePeer 1 = { s.ropePeer 1 with rekeyDue := true } ∧
     2 ^ 31 ≤ (s.ropeSess 32).nonce) ∧
    ((striped { openSess with prevOut := some .none }).rekeyFree 1 = false ∧
     (striped { openSess with prevIn := some .none }).rekeyFree 1 = false) ∧
    (let s := striped { openSess with state := .slack }
     (s.ropeSess 32).state = .slack ∧ (s.ropeSess 32).probedAt = none ∧ (s.transmit 32 0xB false 0 0 0 0 0 []).isSome = true) ∧
    (let s := striped { openSess with unacked := [sentFrame] }
     (s.ropeSess 32).state = .opened ∧ (s.ropeSess 32).unacked ≠ [] ∧ s.sessResetsIn 32 + 1 < s.obj 0x9001 5) := by
  decide +kernel

/-- A rope record whose round 1 has begun, in a STATE. -/
def roundRec (state : Nat) : Nat := 2 * 2 ^ 508 + state * 2 ^ 506 + 1 * 2 ^ 464 + noRound * 2 ^ 432

/-- An entry of the close exchange, of the round `r`. -/
def closeEntryOf (kind r : Nat) : List Byte := leBytes 4 kind ++ leBytes 4 r ++ List.replicate 56 0

theorem witness_RopeRoundClose :
    (let s := roped 0 1 (roundRec rrOpen)
     s.down = false ∧ s.closable = true ∧ s.isLeader = true ∧ s.rope.bid = none ∧ s.pendingRound + 1 = rrRound s.ropeRec ∧
     s.otherReplicas = [] ∧ s.pendingRound = 0) ∧
    ((roped 0 2 (roundRec rrOpen)).otherReplicas ≠ []) ∧
    (let s := (roped 0 2 (roundRec rrPrepared)).setObj 0x8013 1 1
     let s := s.setObj 0x8013 2 0
     s.isLeader = false ∧ s.entryOk (closeEntryOf 1 0) 1 = true ∧ s.entryOk (closeEntryOf 3 noRound) 3 = true ∧
     rrState s.ropeRec = rrPrepared ∧ leAt (closeEntryOf 3 noRound) 4 4 = rrClosed s.ropeRec) ∧
    (∀ n ∈ [0, 1], let s := roped 0 2 (roundRec rrPrepared + n * 2 ^ 393) fun r => { r with unanswered := true }
     s.rope.unanswered = true ∧ rrState s.ropeRec = rrPrepared ∧
     (((sitesOf (rrMembers s.ropeRec)).filter (· != s.ownSite) = [] ∧ sitesOf (rrCarry s.ropeRec) = []) ↔ n = 0)) ∧
    (let s := roped 0 2 (roundRec rrPrepared) fun r => { r with closingAt := some 5 }
     s.isLeader = true ∧ s.entryOk (closeEntryOf 2 noRound) 2 = true ∧ rrState s.ropeRec = rrPrepared ∧
     leAt (closeEntryOf 2 noRound) 4 4 = rrClosed s.ropeRec ∧ s.otherReplicas.contains 1 = true ∧ s.rope.closingAt = some 5 ∧
     let u := fun acks => s.setRope fun x => { x with acks := insertAsc 1 acks }
     (u []).otherReplicas.all (u []).rope.acks.contains = true) ∧
    (let s := (roped 0 3 (roundRec rrPrepared)).setObj 0x8013 3 2
     let u := s.setRope fun x => { x with acks := insertAsc 1 [] }
     u.otherReplicas.all u.rope.acks.contains = false) := by
  decide +kernel

theorem witness_MemoryErrors :
    (ready.down = false ∧ ready.kind ≠ 6 ∧ (memTop - 1 < memTop ∧ 0 < memTop ∧ memTop < 2 ^ 41)) ∧
    ((ready.locate 0).1 % 2 = 0 ∧ ∃ a < 2 ^ 38, (ready.locate a).1 % 2 = 1) ∧
    ((ready.pcErr 5).loggedAt = none ∧ ¬ (7 + 1000000000 ≤ ready.now) ∧
     ({ ready with memctl := { ready.memctl with pcs := [(5, { PcErr.reset with loggedAt := some 7 })] } }.pcErr 5).loggedAt = some 7) ∧
    (∃ s : State, ¬ (s.obj 0x5000 8 ≤ s.windowCount 5 s.memctl.retries ∨ s.obj 0x5000 9 ≤ s.windowCount 5 s.memctl.corrections)) ∧
    (∀ retired : List Nat, retired = [5] ∨ retired = [] ∨ retired = [1, 2, 3, 4] ∨ retired = [1, 2, 3, 4, 513, 514, 515, 516] →
     let s := (ready.setObj 0x5000 8 1).setObj 0x5000 9 2
     let t := { s with memctl := { s.memctl with retries := [(5, 0)], retired := retired }, spans := [(0, 1)] }
     let mine := ((insertAsc 5 retired).filter (· / 512 == 5 / 512)).length
     t.obj 0x5000 8 ≤ t.windowCount 5 t.memctl.retries ∧ (t.memctl.retired.contains 5 = true ↔ retired = [5]) ∧
     (mine ≤ t.spanOf 0 ↔ retired = [] ∨ retired = [5]) ∧ (4 < mine ↔ retired.length ≥ 4) ∧
     ({ t with spans := [] }.spanOf 0 < mine)) ∧
    ({ ready with memctl := { ready.memctl with migrating := [5, 6] } }.memctl.migrating = 5 :: [6]) ∧
    (ready.resetsInWindow + 1 < ready.obj 0x9002 1 ∧ (ready.setObj 0x9002 1 1).obj 0x9002 1 ≤ (ready.setObj 0x9002 1 1).resetsInWindow + 1) := by
  refine ⟨by decide, ⟨by decide +kernel, 2 ^ 19, by decide +kernel⟩, by decide +kernel,
    ⟨(ready.setObj 0x5000 8 1).setObj 0x5000 9 2, by decide +kernel⟩, ?_, by decide, by decide +kernel⟩
  rintro r (rfl | rfl | rfl | rfl) <;> decide +kernel

/-- A supply in a state of its own. -/
def supplied (f : Supply → Supply) : State := { ready with supply := f Supply.reset }

theorem witness_PowerManager :
    (ready.down = false ∧ (supplied fun p => { p with brace := true }).supply.brace = true ∧ ready.supply.brace = false ∧
     ready.supply.governor = false) ∧
    (let s := supplied fun p => { p with belowSince := some 7 }; s.supply.belowSince = some 7 ∧ s.supply.dip = false) ∧
    (let s := supplied fun p => { p with dip := true }; s.supply.dip = true ∧ s.supply.brace = false) ∧
    (let s := supplied fun p => { p with brace := true, connected := true, releaseSince := some 7 }
     s.supply.brace = true ∧ s.supply.connected = true ∧ s.supply.releaseSince = some 7) ∧
    (let s := supplied fun p => { p with governor := true, clearSince := some 7 }
     s.supply.governor = true ∧ s.supply.clearSince = some 7) ∧
    (ready.preBallast = none ∧ ({ ready with tt := { ready.tt with switch := some 1 } }.preBallast).isSome = true) ∧
    (∀ a b : Option Nat, let s := supplied fun p => { p with restoring := true, ballast := 10000000, holdSeq := a, govSeq := b }
     s.supply.restoring = true ∧ s.supply.cut = false ∧ s.nextBallast ≤ s.supply.ballast ∧ (∀ c : Core, s.queuesEmpty c = true) ∧
     s.supply.holdSeq = a ∧ s.supply.govSeq = b) := by
  refine ⟨by decide +kernel, by decide +kernel, by decide +kernel, by decide +kernel, by decide +kernel, by decide +kernel, ?_⟩
  have h : (let s := supplied fun p => { p with restoring := true, ballast := 10000000 }
     s.nextBallast ≤ s.supply.ballast ∧ ∀ c : Core, s.queuesEmpty c = true) := by decide +kernel
  exact fun a b => ⟨rfl, rfl, h.1, h.2, rfl, rfl⟩

theorem witness_SupplyAndHeat :
    (ready.down = false ∧ (supplied fun p => { p with brace := true }).supply.brace = true) ∧
    (let s := supplied fun p => { p with nextTarget := some (5, 7) }; s.supply.nextTarget = some (5, 7) ∧ s.supply.brace = false) ∧
    (supplied fun p => { p with targetAt := some 7 }).supply.targetAt = some 7 ∧
    (let s := supplied fun p => { p with connected := true, overSince := some 7 }; s.supply.connected = true ∧ s.supply.overSince = some 7) ∧
    (let s := supplied fun p => { p with connected := false, okSince := some 7 }; s.supply.connected = false ∧ s.supply.okSince = some 7) ∧
    (supplied fun p => { p with dieTemps := [115] }).supply.critical = true ∧
    (let s := supplied fun p => { p with warned := [3], coolSince := some 7 }; s.supply.warned ≠ [] ∧ s.supply.coolSince = some 7) ∧
    ready.supply.refLost = false ∧
    (let s := supplied fun p => { p with refLost := true }; s.supply.refLost = true ∧ s.job.loaded = false) ∧
    (let s := { supplied (fun p => { p with mv := 46000 }) with down := true }; s.down = true ∧ 46000 ≤ s.supply.mv) := by
  decide

/-! ### The dictionary -/

/-- A request of session 5 on the management processor's mailbox. -/
def dxpReq (op idx sub type : Nat) (data : List Byte) (len : Nat := data.length) (seq : Nat := 7) : DxpMsg :=
  ⟨0, 0, dxpHead 3 op 0 5 seq idx sub 0 len 0 type, data⟩

/-- The session, with write access, and what it keeps. -/
def session (f : Session → Session := id) : Session := f ⟨0, 0, 5, true, none, [], 0, [], [], []⟩
def inSession (f : Session → Session := id) : State := ready.setDict fun d => { d with sessions := [session f] }

theorem witness_DictionaryRequestIsExecuted :
    (let s := inSession; let m := dxpReq 1 0x2000 1 0 []; let w := m.header.toNat
     let u := (s.popVc0 m).on (m.transport == 0) (·.setHost fun p => { p with mboxStatus := 1 })
     s.down = false ∧ s.dxpRow m = .hallTime ∧ s.dictUp = true ∧ hKind w = 3 ∧ s.host.mboxStatus = 0 ∧ u.clearData m = some [] ∧
     m.transport ≠ 1 ∧ dxpFormat m.transport w 0 = true ∧ u.sessionOf m = some session ∧
     (session).kept.find? (·.1 == hSeq w) = none ∧ (session).high = none ∧ u.mustWait w = false) ∧
    (let v := session fun v => { v with kept := [(7, ⟨0, []⟩)], high := some 71 }
     v.kept.find? (·.1 == 7) = some (7, ⟨0, []⟩) ∧ v.high = some 71 ∧ (71 : Nat) ≤ 7 + 64 ∧ (6 + 64 : Nat) < 71 ∧
     v.kept.find? (·.1 == 6) = none) ∧
    (ready.dxpRow (dxpReq 1 0x2000 1 0 []) = .hallTime ∧ ready.sessionOf (dxpReq 1 0x2000 1 0 []) = none ∧
     ready.clearData (dxpReq 1 0x2000 1 0 []) = some [] ∧ { ready with boot := { ready.boot with stage := 1 } }.boot.stage < 2 ∧
     dxpFormat 0 (dxpReq 1 0x2000 1 0xE []).header.toNat 0 = false) ∧
    (let s := inSession.setDict fun d => { d with persist := [⟨5, 0, 0, 0, okey 0x2003 2, 0, []⟩] }
     s.mustWait (dxpReq 2 0x2003 2 ObjType.u32.code [1, 0, 0, 0]).header.toNat = true) ∧
    (let rows := [(DxpRow.read, dxpReq 1 0x1000 8 0 []), (.write, dxpReq 2 0x2003 2 ObjType.u32.code [1, 0, 0, 0]), (.readBlob, dxpReq 3 0x2011 0 0 [] 4),
       (.writeBlob, dxpReq 4 0x2011 0 0 [1]), (.describe, dxpReq 5 0x2003 2 0 []), (.list, dxpReq 6 0 0 0 [] 4),
       (.subscribe, dxpReq 7 0 0 0 (List.replicate 16 0)), (.groupKey, dxpReq 8 0 0 0 (List.replicate 36 0)), (.close, dxpReq 9 0 0 0 []),
       (.bankCheck, dxpReq 2 0x2010 0xB 2 [0]), (.bankArm, dxpReq 2 0x2010 9 2 [0]), (.bankDisarm, dxpReq 2 0x2010 9 2 [0xFF]),
       (.holdRequest, dxpReq 2 0x2013 7 ObjType.time64.code (List.replicate 8 0)), (.restore, dxpReq 2 0x8004 3 2 [1]), (.freshStart, dxpReq 2 0x8004 3 2 [2]),
       (.belay, dxpReq 2 0x8004 2 2 [1]), (.lsInit, dxpReq 2 0x8012 2 2 [1]), (.regroup, dxpReq 2 0x7005 0x10 2 [1]),
       (.drawTarget, dxpReq 2 0x3003 3 ObjType.recd.code (List.replicate 10 0)), (.campImage, dxpReq 4 0xB010 1 0 [1]), (.slotArm, dxpReq 2 0xB000 3 2 [1]),
       (.slotDisarm, dxpReq 2 0xB000 3 2 [0xFF]), (.nonce, dxpReq 2 0xA002 4 ObjType.recd.code (List.replicate 32 0)), (.staging, dxpReq 4 0xA001 1 0 [1]),
       (.installFirst, dxpReq 2 0xA001 2 2 [1]), (.installBundle, dxpReq 2 0xA001 2 2 [2]), (.warmReset, dxpReq 2 0xA000 2 2 [1]),
       (.coldReset, dxpReq 2 0xA000 2 2 [2]), (.svnCommit, dxpReq 2 0xA001 4 2 [1]), (.operatorKey, dxpReq 2 0xA003 1 ObjType.recd.code (List.replicate 48 0))]
     ∀ r ∈ rows, inSession.dxpRow r.2 = r.1 ∧ dxpFormat 0 r.2.header.toNat r.2.data.length = true) := by
  decide +kernel

/-- A READ for the group, and a module with the group's key. What the cipher answers is open. -/
def groupRead : DxpMsg := ⟨1, 0, dxpHead 3 1 0 0xFFFF 9 0x1000 8 0 0 0 0 true, List.replicate 16 0⟩
def inGroup : State := ready.setDict fun d => { d with groupKey := some ([1], [2]), groupSeq := some 8 }

theorem witness_DictionaryRequestIsExecutedForTheGroup (h : dxpOpen ([1] ++ [2]) 0 groupRead.header groupRead.data = some []) :
    let s := inGroup; let w := groupRead.header.toNat
    let u := (s.popVc0 groupRead).on (groupRead.transport == 0) (·.setHost fun p => { p with mboxStatus := 1 })
    u.clearData groupRead = some [] ∧ s.dictUp = true ∧ s.dxpRow groupRead = .read ∧ hKind w = 3 ∧
    (groupRead.transport = 1 ∧ hSession w = 0xFFFF ∧ hMulticast w = true) ∧ u.dict.groupKey = some ([1], [2]) ∧
    u.dict.groupSeq = some 8 ∧ 8 < hSeq w ∧ u.mustWait w = false ∧ dxpFormat 1 w 0 = true :=
  ⟨h, by decide +kernel⟩

/-- A request as its session hands it on. -/
def asReq (op idx sub type : Nat) (data : List Byte) (transport : Fin 4 := 0) (len : Nat := data.length) : DxpReq :=
  ⟨5, transport, 0, true, (dxpHead 3 op 0 5 7 idx sub 0 len 0 type).toNat, data⟩

/-- The row of an object. -/
def rowOf (idx sub : Nat) : ObjRow := (ready.defined idx sub).getD ⟨0, 0, 0, 0, .u8, .ro, false, 1, 0, 0, 0, 1, false, ""⟩

theorem witness_DictionaryRequests :
    (ready.defined 0xBFFF 0 = none ∧ ready.defined 0xF000 0 = none ∧ ready.defined 0x2003 2 = some (rowOf 0x2003 2) ∧
     (rowOf 0x2011 63).acc = .wo ∧ (rowOf 0xA001 1).acc ≠ .wo ∧ (rowOf 0xA001 1).ty = .blob ∧ (rowOf 0x2003 2).acc ≠ .wo ∧
     (rowOf 0x2003 2).ty ≠ .blob ∧ (ready.valueOf (rowOf 0x2003 2) 0x2003 2).length ≤ dxpLimit 1) ∧
    ((asReq 1 0x2000 1 0 []).key = okey 0x2000 1 ∧ ready.defined 0x2000 1 = some (rowOf 0x2000 1) ∧
     (ready.valueOf (rowOf 0x2000 1) 0x2000 1).length ≤ dxpLimit 2) ∧
    ((rowOf 0x2000 1).acc = .ro ∧ (rowOf 0x1000 1).acc = .const ∧ (rowOf 0xF000 0).stored = false ∧
     ObjType.u32.code ≠ ObjType.u8.code) ∧
    (let q := asReq 2 0x2003 2 ObjType.u32.code (leBytes 4 10000); let v := leNat q.data; let r := rowOf 0x2003 2
     hType q.w = r.ty.code ∧ q.data.length = r.size ∧ (inRange r q.key v && boundsKept ready.inForce q.key v) = true ∧
     ready.chapterRule r q.key v q.data = 0 ∧ ready.writeConflict q.key v = none ∧ ready.trigger q v = none ∧ hPersist q.w = false ∧
     r.stored = true ∧ (inRange r q.key (v + 1) && boundsKept ready.inForce q.key (v + 1)) = false) ∧
    (let q := asReq 2 0x2006 1 ObjType.u8.code [1]; let r := rowOf 0x2006 1
     hType q.w = r.ty.code ∧ (inRange r q.key 1 && boundsKept ready.inForce q.key 1) = true ∧ ready.chapterRule r q.key 1 q.data = 0 ∧
     (ready.writeConflict q.key 1).isSome = true) ∧
    (let q := asReq 2 0x2010 0xB ObjType.u8.code [0]; let s := { ready with tt := { ready.tt with active := some 0 } }
     s.chapterRule (rowOf 0x2010 0xB) q.key 0 q.data = 9) ∧
    (let q := asReq 3 0xA001 1 0 [] 0 4
     ready.defined 0xA001 1 = some (rowOf 0xA001 1) ∧ hOffset q.w + hLength q.w ≤ (rowOf 0xA001 1).size) ∧
    (let q := asReq 4 0x2011 63 0 [1]; ready.defined 0x2011 63 = some (rowOf 0x2011 63) ∧ ready.blobRule q = 0) ∧
    (let q := asReq 6 0xA002 0 0 [] 0 8; (listAfter ready.kind q.key (hLength q.w / 4)).length ≤ dxpLimit q.transport) ∧
    (let q := asReq 7 0 0 0 ([3, 0] ++ leBytes 2 1 ++ List.replicate 12 0)
     q.data.length = 16 ∧ leAt q.data 1 1 ≤ 1 ∧ allZero (q.data.drop 8) = true ∧ leAt q.data 0 1 ≤ 3 ∧ leAt q.data 2 2 ≠ 0) ∧
    (let m : Stream := ⟨5, 0, 0xFFFF, 7, 0⟩; let s := ready.setSubscription 2 (some m); let q := asReq 7 0 0 0 (List.replicate 16 0)
     Tbl.get none s.faults.streams 2 = some m ∧ m.session = q.session ∧ leAt q.data 2 2 = 0) ∧
    (asReq 8 0 0 0 (List.replicate 36 0) 1).data.length = 36 ∧
    ((asReq 1 0x3000 5 0 []).key = okey 0x3000 5 ∧ ready.defined 0x3000 5 = some (rowOf 0x3000 5) ∧ (rowOf 0x3000 5).acc ≠ .wo ∧
     (ready.valueOf (rowOf 0x3000 5) 0x3000 5).length ≤ dxpLimit 0) ∧
    (ready.defined 0xA001 6 = some (rowOf 0xA001 6) ∧ (rowOf 0xA001 6).acc ≠ .wo ∧ (rowOf 0xA001 6).ty = .recd ∧
     dxpLimit 2 < (ready.valueOf (rowOf 0xA001 6) 0xA001 6).length) ∧
    (let q := asReq 3 0xA001 1 0 [] 0 4; (rowOf 0xA001 1).acc ≠ .wo ∧
     (rowOf 0xA001 1).size < hOffset (setFld q.w 159 128 (2 ^ 24)) + hLength (setFld q.w 159 128 (2 ^ 24))) ∧
    (asReq 7 0 0 0 [] 2).transport = 2 ∧ (asReq 7 0 0 0 [] 3).transport = 3 ∧ (asReq 9 0 0 0 []).transport = 0 := by
  decide +kernel

/-- Time is in lock, camp 3 holds an image without entries, both switches have their ticks, and the partitions of all
cores are written. -/
def switchable : State :=
  let s := withTime fun t => { t with state := .locked }
  let s := s.setDict fun d => { d with
    objs := (List.range 192).map fun c => (okey 0xB022 c, some 0)
    camps := [(3, leBytes 64 (2 * 2 ^ 508 + 1 * 2 ^ 500))] }
  let s := (s.setObj 0xB000 4 20000000).setObj 0x2010 8 60000000
  { s with tt := { s.tt with armedB := true } }

/-- An image of a kind: its header, without a body. -/
def fwImage (kind : Byte) : List Byte := [2, kind] ++ List.replicate 8190 0

theorem length_fwImage (kind : Byte) : (fwImage kind).length = 8192 := by
  simp only [fwImage, List.length_append, List.length_replicate, List.length_cons, List.length_nil]

/-- Hashes and signatures are open; where they verify, such an image passes. -/
def Verifies (kind : Byte) : Prop :=
  Config.signerHashes.contains (Config.sha3 (List.replicate 1952 0)) = true ∧ Config.sha3 [] = List.replicate 48 0 ∧
  Config.mldsaVerify (List.replicate 1952 0) ((fwImage kind).take 2048) (List.replicate 3309 0) = true

theorem fwImage_pieces (kind : Byte) (off n : Nat) (h2 : 2 ≤ off) (h : off + n ≤ 8192) :
    piece (fwImage kind) off n = List.replicate n 0 := by
  obtain ⟨k, rfl⟩ : ∃ k, off = k + 2 := ⟨off - 2, by omega⟩
  have : (fwImage kind).drop (k + 2) = List.replicate (8190 - k) 0 := by
    rw [show fwImage kind = 2 :: kind :: List.replicate 8190 0 from rfl, List.drop_succ_cons, List.drop_succ_cons, List.drop_replicate]
  rw [piece, this, List.take_replicate, Nat.min_eq_left (by omega)]

theorem fwImage_passes (s : State) (kind : Byte) (room : Nat) (hf : s.boot.floors = []) (hr : 8192 ≤ room) (h : Verifies kind) :
    s.imageFault kind.toNat room (fwImage kind) = none := by
  have z : ∀ n, allZero (List.replicate n (0 : Byte)) = true := by intro n; simp [allZero]
  have a0 : leAt (fwImage kind) 0 1 = 2 := rfl
  have a1 : leAt (fwImage kind) 1 1 = kind.toNat := by
    show kind.toNat + 256 * 0 = _
    omega
  have a4 : leAt (fwImage kind) 4 4 = 0 := rfl
  have a12 : leAt (fwImage kind) 12 4 = 0 := rfl
  have l : imageLength (fwImage kind) = 8192 := by simp only [imageLength, a12]; rfl
  have e : Tbl.get 0 s.boot.floors kind.toNat = 0 := by rw [hf]; rfl
  have q := h.2.1
  simp only [State.imageFault, fwImage_pieces, a0, a1, a4, a12, l, e, z, h.1, h.2.2, Nat.reduceLeDiff, Nat.reduceAdd]
  simp [q, hr]

theorem imageLength_of (kind : Byte) (rest : List Byte) : imageLength (fwImage kind ++ rest) = 8192 := by
  have : leAt (fwImage kind ++ rest) 12 4 = 0 := rfl
  simp only [imageLength, this]; rfl

theorem take_fwImage (kind : Byte) (rest : List Byte) :
    (fwImage kind ++ rest).take 8192 = fwImage kind ∧ (fwImage kind ++ rest).drop 8192 = rest := by
  have l := length_fwImage kind
  constructor
  · rw [← l, List.take_left]
  · rw [← l, List.drop_left]

theorem slotFault_first (h : Verifies 1) : ready.slotFault false (fwImage 1) = none := by
  have s1 : splitImages 1 (fwImage 1) = [fwImage 1] := by
    have t := take_fwImage 1 []
    have l := imageLength_of 1 []
    simp only [List.append_nil] at t l
    simp only [splitImages, l, t.1]
  have l : imageLength (fwImage 1) = 8192 := by simpa using imageLength_of 1 []
  simp only [State.slotFault, slotKinds, Bool.false_eq_true, if_false, List.length_cons, List.length_nil, Nat.zero_add, s1,
    List.foldl, l, slotSize]
  have a : ready.imageFault 1 0x100000 (fwImage 1#8) = none := fwImage_passes ready 1 0x100000 rfl (by decide) h
  simp [a]

theorem slotFault_bundle (h2 : Verifies 2) (h3 : Verifies 3) (h4 : Verifies 4) :
    ready.slotFault true (fwImage 2 ++ (fwImage 3 ++ (fwImage 4 ++ []))) = none := by
  have s3 : splitImages 3 (fwImage 2 ++ (fwImage 3 ++ (fwImage 4 ++ []))) = [fwImage 2, fwImage 3, fwImage 4] := by
    simp only [splitImages, imageLength_of, take_fwImage]
  have l : ∀ k, imageLength (fwImage k) = 8192 := fun k => by simpa using imageLength_of k []
  simp only [State.slotFault, slotKinds, if_true, List.length_cons, List.length_nil, Nat.zero_add, Nat.reduceAdd, s3,
    List.foldl, l, slotSize]
  have a : ready.imageFault 2 0x1000000 (fwImage 2#8) = none := fwImage_passes ready 2 0x1000000 rfl (by decide) h2
  have b : ready.imageFault 3 0x1000000 (fwImage 3#8) = none := fwImage_passes ready 3 0x1000000 rfl (by decide) h3
  have c : ready.imageFault 4 0x1000000 (fwImage 4#8) = none := fwImage_passes ready 4 0x1000000 rfl (by decide) h4
  simp [a, b, c]

/-- The staging area holds `image`. -/
def staging (image : List Byte) : State := ready.setBoot fun b => { b with staging := Memory.write [] 0 image, stagingEnd := image.length }

theorem witness_DictionaryTriggers :
    (let s := switchable; let tick := s.obj 0x2010 8
     s.tt.switch = none ∧ s.tt.active ≠ some 1 ∧ s.bankArmed 1 = true ∧ tick % 60 = 0 ∧ s.tt.active = none ∧
     s.sched + 1000 * s.obj 0xB000 6 ≤ tick ∧ s.comparatorFree = true) ∧
    (asReq 2 0x2010 0xB 2 [0]).key = okey 0x2010 0xB ∧ (asReq 2 0xA003 255 12 []).key = okey 0xA003 255 ∧
    (let s := switchable; let tick := s.obj 0xB000 4; let vs := overlaid (s.switchValues 3) s.inForce
     s.campArmed = false ∧ s.timeOk = true ∧ tick % 20 = 0 ∧
     s.now + (if s.kind = 6 then max (1000 * s.obj 0xB000 6) 2500000 else 1000 * s.obj 0xB000 6) ≤ tick ∧ s.slotValid 3 = true ∧
     s.obj 0x9003 1 ≠ 1 ∧ s.conflict vs (s.slotKind 3) = none ∧ crossRules vs (leAt (s.recOf 0x8002 6) 0 4) = true ∧
     s.job.loaded = false ∧ s.comparatorFree = true ∧ s.slotKind 3 ≠ 6) ∧
    (ready.slotFault false (ready.staged false) = some (1, 1)) ∧
    (let s := ready; s.dict.staging.find? (·.slot == 3) = none ∧
     ((List.replicate 16 (0 : Byte)).length < 64 ∨ campCount (campHeader (List.replicate 16 0)) ≤ 512)) ∧
    (let s := ready; let w := 2 * 2 ^ 508 + 1 * 2 ^ 500; let bytes := leBytes 64 (setFld w 489 458 (crc32c (leBytes 64 w))); let u := s.setDict fun d => { d with staging := d.staging.filter (·.slot != 3) }
     bytes.length = 64 + 16 * campCount (campHeader bytes) ∧ campCount (campHeader bytes) ≤ 512 ∧ u.campCheck bytes = none ∧
     (u.campCheck (List.replicate 64 0)).isSome = true ∧ campCount (campHeader (List.replicate 64 0)) = 0) ∧
    (let q := asReq 2 0x3003 3 ObjType.recd.code (leBytes 2 100 ++ leBytes 8 0)
     q.key = okey 0x3003 3 ∧ leAt q.data 2 8 ≤ ready.now ∧ ready.supply.brace = false ∧ ready.now < leAt (leBytes 2 100 ++ leBytes 8 7) 2 8 ∧
     (supplied fun p => { p with brace := true }).supply.brace = true) ∧
    (asReq 2 0x2010 9 2 [0xFF]).key = okey 0x2010 9 ∧ (asReq 2 0x2013 7 2 []).key = okey 0x2013 7 ∧ (asReq 2 0xA001 2 2 []).key = okey 0xA001 2 ∧
    (ready.boot.install = none ∧ ready.boot.owner = none) ∧
    (rowOf 0xA003 1).ty = .recd ∧ (rowOf 0x8012 2).ty ≠ .recd ∧ ready.recOf 0xA003 1 ≠ List.replicate 48 1 := by
  decide +kernel

theorem staging_staged (image : List Byte) (h : image.length ≤ slotSize false + 1) : (staging image).staged false = image := by
  have e : (staging image).staged false = Memory.read (Memory.write [] 0 image) 0 (min image.length (slotSize false + 1)) := rfl
  rw [e, Nat.min_eq_left h]
  exact Memory.read_write_same

theorem staging_slotFault (image bs : List Byte) : (staging image).slotFault false bs = ready.slotFault false bs := rfl

theorem witness_DictionaryTriggersInstall (h : Verifies 1) :
    (staging (fwImage 1)).slotFault false ((staging (fwImage 1)).staged false) = none := by
  rw [staging_staged _ (by rw [length_fwImage]; decide), staging_slotFault]
  exact slotFault_first h

theorem witness_DictionaryMessages :
    (let m : DxpMsg := ⟨2, 3, dxpHead 1 0 0 0 9 0 0 0 16, [2, 2, 1, 0] ++ List.replicate 12 0⟩; let w := m.header.toNat
     ready.down = false ∧ ready.dictUp = true ∧ hKind w = 1 ∧ m.transport ≠ 1 ∧ dxpFormat m.transport w m.data.length = true ∧
     m.data.length = 16 ∧ helloOk m.data = true ∧ leAt m.data 0 1 ≤ 2 ∧ 2 ≤ leAt m.data 1 1 ∧
     (((ready.popVc0 m).openDxp m true []).2).isSome = true) ∧
    (let m : DxpMsg := ⟨1, 3, dxpHead 1 0 0 0 9 0 0 0 16 0 0 false true, [2, 2, 0, 0] ++ List.replicate 12 0⟩; let w := m.header.toNat
     hKind w = 1 ∧ m.transport = 1 ∧ dxpFormat 1 w m.data.length = true ∧ hOffset w = ([] : List Byte).length ∧ hMore w = true ∧
     ([] ++ m.data).length ≤ 6461) ∧
    (let m : DxpMsg := ⟨1, 3, dxpHead 1 0 0 0 9 0 0 1184 16, List.replicate 16 0⟩; let w := m.header.toNat
     let s := ready.setDict fun d => { d with hellos := [(3, m.header, List.replicate 1184 0)] }
     hKind w = 1 ∧ dxpFormat 1 w m.data.length = true ∧ hMore w = false ∧ hOffset w ≠ 0 ∧ hOffset w = (List.replicate 1184 (0 : Byte)).length ∧
     (s.dict.hellos.find? (·.1 == m.source)).map (·.2) = some (m.header, List.replicate 1184 0)) ∧
    (let b : List Byte := [2, 2, 0, 0] ++ List.replicate 1196 0
     b.length = 1200 ∧ helloOk b = true ∧ leAt b 0 1 ≤ 2 ∧ 2 ≤ leAt b 1 1 ∧ leAt b 2 1 = 0) ∧
    (let s := ready.setDict fun d => { d with sessions := (List.range 64).map fun n => { session with number := n + 1, source := n } }
     64 ≤ s.dict.sessions.length ∧ s.dict.sessions.length < 65 ∧ ready.dict.sessions.length < 64) ∧
    (ready.host.mboxStatus ≠ 1 ∧ 32 ≤ (List.replicate 32 (0 : Byte)).length ∧
     (ready.setHost fun p => { p with mboxStatus := 1 }).host.mboxStatus = 1) ∧
    (let f : RopeFrame := ⟨0, []⟩; let p := packet 5 0 0 64 (List.replicate 64 0)
     p.op = 5 ∧ p.dst = ready.moduleNumber ∧ 64 ≤ p.data.length ∧ rfDstSite f.header.toNat = ready.ownSite ∧
     rfDstSite f.header.toNat ≠ (ready.setObj 0x7000 1 3).ownSite) ∧
    (let j : PersistJob := ⟨5, 0, 0, 0, okey 0x2003 2, 500, leBytes 4 500⟩
     let s := ready.setDict fun d => { d with persist := [j] }
     s.dict.persist = [j] ∧ objRow j.key = some (rowOf 0x2003 2) ∧ (rowOf 0x2003 2).ty ≠ .recd) ∧
    (inSession.dict.sessions.find? (·.number == (5 : BitVec 16).toNat)) = some session ∧
    (let m : Stream := ⟨5, 0, 0xFFFF, 7, 0⟩; let s := inSession.setSubscription 3 (some m)
     Tbl.get none s.faults.streams 3 = some m ∧ s.dict.sessions.find? (·.number == m.session) = some session ∧
     m.gap (s.obj 0x9004 2) s.faults.ring.length = false ∧ m.gap 9 0 = true) := by
  decide +kernel

/-- A HELLO that asks for write access: whether it is granted is open. -/
def askingHello : List Byte := [2, 2, 1, 0] ++ List.replicate 6457 0

theorem witness_DictionaryMessagesOfAnOperator :
    askingHello.length = 6461 ∧ helloOk askingHello = true ∧ leAt askingHello 0 1 ≤ 2 ∧ 2 ≤ leAt askingHello 1 1 ∧ leAt askingHello 2 1 = 1 ∧
    ∀ granted op, (ready.openDxp ⟨1, 3, 0, []⟩ granted op).2.isSome = true := by
  refine ⟨?_, by decide +kernel, by decide +kernel, by decide +kernel, by decide +kernel, fun _ _ => rfl⟩
  simp only [askingHello, List.length_append, List.length_replicate]; rfl

/-! ### Boot, resets, SMBus -/

/-- A module before its ROM has run, with images in its two first-stage slots and its first bundle slot. -/
def booting (stage : Nat) (a b c : List Byte) (f : Boot → Boot := id) : State :=
  { State.reset with boot := f { Boot.reset with good := true, stage := stage, images := [(0, a), (1, b), (2, c)] } }

theorem booting_slotFault (n : Nat) (a b c bs : List Byte) (x : Bool) :
    (booting n a b c).slotFault x bs = ready.slotFault x bs := rfl

theorem booting_flashImage (n k : Nat) (a b c : List Byte) (f : Boot → Boot) (h : (f { Boot.reset with good := true, stage := n, images :=
    [(0, a), (1, b), (2, c)] }).images = [(0, a), (1, b), (2, c)]) (ne : (Tbl.get [] [(0, a), (1, b), (2, c)] k).isEmpty = false) :
    (booting n a b c f).flashImage k = Tbl.get [] [(0, a), (1, b), (2, c)] k := by
  have e : (booting n a b c f).boot.images = [(0, a), (1, b), (2, c)] := h
  simp [State.flashImage, e, ne]

theorem witness_BootStages (h : Verifies 1) (h2 : Verifies 2) (h3 : Verifies 3) (h4 : Verifies 4) :
    (∀ a b c, let s := booting 0 a b c
     s.down = false ∧ s.boot.good = true ∧ s.boot.failed = false ∧ s.boot.stage = 0 ∧ s.boot.measures.length = 8 ∧ s.boot.activeFirst = 0) ∧
    (let s := booting 0 (fwImage 1) [1] []; s.slotFault false (s.flashImage 0) = none) ∧
    (let s := booting 0 [1] (fwImage 1) []; s.slotFault false (s.flashImage 0) ≠ none ∧ s.slotFault false (s.flashImage 1) = none) ∧
    (let s := booting 0 [1] [1] []; s.slotFault false (s.flashImage 0) ≠ none ∧ s.slotFault false (s.flashImage 1) ≠ none) ∧
    (∀ a b c, let s := booting 1 a b c
     s.boot.failed = false ∧ s.boot.stage = 1 ∧ s.boot.trialBundle = false ∧ s.boot.otherBundle = false ∧ s.boot.triedFirst = false) ∧
    (let s := booting 1 [] [] (fwImage 2 ++ (fwImage 3 ++ (fwImage 4 ++ []))); s.slotFault true (s.flashImage (2 + 0)) = none) := by
  have bad : ready.slotFault false [1] ≠ none := by decide +kernel
  refine ⟨fun _ _ _ => ⟨rfl, rfl, rfl, rfl, rfl, rfl⟩, ?_, ⟨?_, ?_⟩, ⟨?_, ?_⟩, fun _ _ _ => ⟨rfl, rfl, rfl, rfl, rfl⟩, ?_⟩ <;> (try dsimp only) <;>
    rw [booting_slotFault, booting_flashImage _ _ _ _ _ _ rfl rfl]
  · exact slotFault_first h
  · exact bad
  · exact slotFault_first h
  · exact bad
  · exact bad
  · exact slotFault_bundle h2 h3 h4

/-- A first stage whose bundle slots both hold an image that fails, with a bundle on trial that had its start, or not. -/
def badBundles (trial other : Bool) : State :=
  { State.reset with boot := { Boot.reset with good := true, stage := 1, trialBundle := trial, otherBundle := other, images :=
      [(2, [1]), (3, [1])] } }

/-- Every bundle fails, or the one that is to run passes; what the checks of the base camp and of the identity key find is
open (log entry 65). -/
theorem witness_BootStagesOfBundles (h2 : Verifies 2) (h3 : Verifies 3) (h4 : Verifies 4) :
    (∀ a b : Bool, (badBundles a b).boot.failed = false ∧ (badBundles a b).boot.stage = 1) ∧
    (let u := (badBundles true false).each (List.range 8) fun s n => s.trainStack n []
     (u.loadBundle 0).boot.failed = true ∧ (u.boot.trialBundle && !u.boot.otherBundle) = true) ∧
    ((booting 1 [] [] (fwImage 2 ++ (fwImage 3 ++ (fwImage 4 ++ [])))).loadBundle 0).boot.failed = false := by
  refine ⟨by decide, by decide +kernel, ?_⟩
  have h : (booting 1 [] [] (fwImage 2 ++ (fwImage 3 ++ (fwImage 4 ++ [])))).verifySlot true 0 =
      (true, booting 1 [] [] (fwImage 2 ++ (fwImage 3 ++ (fwImage 4 ++ [])))) := by
    have e : (booting 1 [] [] (fwImage 2 ++ (fwImage 3 ++ (fwImage 4 ++ [])))).slotFault true
        ((booting 1 [] [] (fwImage 2 ++ (fwImage 3 ++ (fwImage 4 ++ [])))).flashImage (2 + 0)) = none := by
      rw [booting_slotFault, booting_flashImage _ _ _ _ _ _ rfl rfl]
      exact slotFault_bundle h2 h3 h4
    simp only [State.verifySlot, ↓reduceIte, e]
  simp only [State.loadBundle, h]
  rfl

theorem witness_BootStagesLater :
    (booting 2 [] [] []).boot.stage = 2 ∧ (booting 3 [] [] []).boot.stage = 3 ∧ (booting 2 [] [] []).boot.failed = false ∧
    (booting 1 [] [] [] fun b => { b with triedFirst := true }).boot.triedFirst = true ∧
    (booting 2 [] [] [] fun b => { b with trialBundle := true, otherBundle := true, runBundle := 1 }).trialRuns = true := by
  decide

theorem witness_ModuleResetsAndCamps :
    (let s := booting 4 [] [] [] fun b => { b with install := some (2, [1]) }
     s.down = false ∧ s.boot.good = true ∧ s.boot.failed = false ∧ 1 ≤ s.boot.stage ∧ s.boot.measures.length = 8 ∧
     (s.setObj 0x1000 8 1).obj 0x1000 8 ≠ 0 ∧ s.boot.install = some (2, [1]) ∧ s.boot.activeBundle ≤ 1) ∧
    (okey 0x6001 3 ≠ okey 0xB000 3 ∧ restarts (okey 0x2003 2) = false) ∧
    (let s := (switchable.setObj 0xB000 3 3).setObj 0xB000 2 6
     s.campArmed = true ∧ s.kind = 6 ∧ s.slotKind (s.obj 0xB000 3) ≠ 6) := by
  decide +kernel

theorem witness_DieResetsAndWatchdogs :
    (ready.down = false ∧ ready.faults.diesDown.contains 3 = false ∧ ready.resetsInWindow + 1 < ready.obj 0x9002 1 ∧
     (let s := ready.setObj 0x9002 1 1; s.obj 0x9002 1 ≤ s.resetsInWindow + 1) ∧ ready.faults.mpsDown.contains 1 = false) ∧
    (ready.setFaults fun f => { f with diesDown := [5] }).faults.diesDown.contains 5 = true ∧
    (ready.setFaults fun f => { f with mpsDown := [0] }).faults.mpsDown.contains 0 = true := by
  decide +kernel

theorem witness_SmbusTarget :
    (booting 0 [] [] []).down = false ∧ (booting 0 [] [] []).boot.good = true ∧ (0x89 : BitVec 8).toNat ∈ smbusCodes ∧
    (0xFF : BitVec 8).toNat ∉ smbusCodes ∧ (booting 0 [] [] [] fun b => { b with alert := true }).boot.alert = true ∧
    ready.boot.alert = false ∧ (booting 0 [] [] [] fun b => { b with good := false }).boot.good = false := by
  decide

theorem witness_LinearElevenIsTheSmallestExponent :
    (0 < 1000 ∧ (54000 : Int).natAbs ≤ 1023 * 2 ^ 15 * 1000) ∧ (-1023 * 2 ^ 15 : Int).natAbs ≤ 1023 * 2 ^ 15 * 1 := by
  decide

/-! ### The host -/

/-- An entry of the command ring: opcode, tag 9, and arguments from A0 on. -/
def ringEntry (op : Nat) (args : List Nat) : BitVec 512 :=
  BitVec.ofNat 512 (2 * 2 ^ 508 + op * 2 ^ 500 + 9 * 2 ^ 484 + (args.zip (List.range 7)).foldl (fun n a => n + a.1 * 2 ^ (64 * a.2)) 0)

theorem witness_CommandAndCompletionRings :
    (ready.down = false ∧ 2 ≤ ready.boot.stage ∧ State.reset.boot.stage < 2 ∧ ready.host.cplTail < 256) ∧
    (∀ op ∈ [1, 2, 3, 4, 5, 6, 7, 8, 9, 10, 11], entryOk (ringEntry op []).toNat = true ∧ eOpcode (ringEntry op []).toNat = op) ∧
    (entryOk (ringEntry 6 [2 ^ 11]).toNat = false ∧ eOpcode (ringEntry 6 [2 ^ 11]).toNat = 6 ∧ entryOk (ringEntry 12 []).toNat = false ∧
     11 < eOpcode (ringEntry 12 []).toNat ∧ entryOk (ringEntry 0 []).toNat = false ∧ eOpcode (ringEntry 0 []).toNat = 0) := by
  decide +kernel

/-- The state in which the command of an entry runs. -/
def taken (e : BitVec 512) (s : State := ready) : State := s.mpUp.takeEntry e

theorem witness_CoreCommandsOfTheRing :
    (let e := ringEntry 4 [191, 2 * 2 ^ 16 + 4094, 0x1000]; let w := e.toNat; let v := (taken e).wakeCore (eArg w 0)
     entryOk w = true ∧ eArg w 0 < 192 ∧ fld (eArg w 1) 28 16 = 2 ∧ fld (eArg w 1) 12 0 + 2 ≤ 4096 ∧
     v.visible (eArg w 2) 32 = true ∧ v.poisoned (eArg w 2) 32 = false ∧ v.residentBusy (eArg w 0) = false) ∧
    (let e := ringEntry 4 [0, 2 * 2 ^ 16 + 4095, 0x1000]; let w := e.toNat; entryOk w = true ∧ 4096 < fld (eArg w 1) 12 0 + fld (eArg w 1) 28 16) ∧
    (let e := ringEntry 4 [0, 2 * 2 ^ 16, 2 ^ 41 - 16]; let w := e.toNat
     entryOk w = true ∧ ((taken e).wakeCore (eArg w 0)).visible (eArg w 2) 32 = false) ∧
    (let e := ringEntry 4 [0, 2 * 2 ^ 16, 0x1000]; let v := (taken e (running 0)).wakeCore 0
     v.residentBusy 0 = true ∧ ({ v with poison := [64] }).poisoned 0x1000 32 = true) ∧
    (let e := ringEntry 4 [192]; entryOk e.toNat = true ∧ 192 ≤ eArg e.toNat 0) ∧
    (∀ op ∈ [5, 6, 7], entryOk (ringEntry op [192]).toNat = true ∧ argCore (ringEntry op [192]).toNat = 192) ∧
    (let e := ringEntry 5 [0, 5, 2 ^ 41 - 16]; entryOk e.toNat = true ∧ ((taken e).wakeCore 0).visible (eArg e.toNat 2) 128 = false) ∧
    (let e := ringEntry 5 [0, 5, 0x1000]; let v := (taken e { ready with poison := [65] }).wakeCore 0
     v.visible (eArg e.toNat 2) 128 = true ∧ v.poisoned (eArg e.toNat 2) 128 = true) ∧
    (let e := ringEntry 6 [191 + 256 * 7]; entryOk e.toNat = true ∧ argCore e.toNat = 191 ∧ (ready.ctx 191 7).stop = ready.ctx 191 7 ∧
     ((running 0).ctx 0 0).stop ≠ (running 0).ctx 0 0) ∧
    (let e := ringEntry 5 [191 + 256 * 7, 5, 0x1000]; let w := e.toNat; let v := (taken e).wakeCore 191
     entryOk w = true ∧ argCore w = 191 ∧ argCtx w = 7 ∧ v.visible (eArg w 2) 128 = true ∧ v.poisoned (eArg w 2) 128 = false ∧
     (v.ctx 191 7).startable = true ∧ ((taken e (running 0)).ctx 0 0).startable = false) ∧
    (let e := ringEntry 7 [191 + 256 * 7, 0x1000]; let w := e.toNat; let v := (taken e).wakeCore 191
     entryOk w = true ∧ argCore w = 191 ∧ v.visible (eArg w 1) 168 = true ∧ v.visible (2 ^ 41 - 16) 168 = false) := by
  decide +kernel

/-- An image of a flow context: VC2, a limit of 4 outstanding requests, a ring of 4 KiB, MSI-X vector 16 and a timeout of
10 µs. -/
def flowImage : Nat := 2 * 2 ^ 1020 + 2 * 2 ^ 908 + 4 * 2 ^ 811 + 12 * 2 ^ 741 + 10 * 2 ^ 640 + 16 * 2 ^ 664

theorem witness_FlowCommandsOfTheRing :
    (let e := ringEntry 8 [5, 0x1000]; let w := e.toNat; let u := taken e (ready.write 0x1000 (leBytes 128 flowImage))
     entryOk w = true ∧ eArg w 0 < 262144 ∧ u.visible (eArg w 1) 128 = true ∧ u.poisoned (eArg w 1) 128 = false ∧
     (u.flow 5).state = .free ∧ flowOk (u.readNat (eArg w 1) 128) = true ∧ 16 ≤ fld (u.readNat (eArg w 1) 128) 674 664 ∧
     flowOk (u.readNat 0x2000 128) = false) ∧
    (∀ op ∈ [8, 9, 10], let e := ringEntry op [262144]; entryOk e.toNat = true ∧ eOpcode e.toNat = op ∧ eArg e.toNat 0 = 262144) ∧
    (let e := ringEntry 8 [5, 2 ^ 41 - 16]; entryOk e.toNat = true ∧ (taken e).visible (eArg e.toNat 1) 128 = false) ∧
    (let e := ringEntry 8 [5, 0x1000]; (taken e { ready with poison := [65] }).visible (eArg e.toNat 1) 128 = true ∧
     (taken e { ready with poison := [65] }).poisoned (eArg e.toNat 1) 128 = true) ∧
    (let i := flowImage - 16 * 2 ^ 664; flowOk i = true ∧ fld i 674 664 < 16) ∧
    (opened.flow 5).state = .opened ∧ (opened.flow 5).state ≠ .free ∧
    (let e := ringEntry 10 [5, 4096]; entryOk e.toNat = true ∧ eOpcode e.toNat = 10 ∧ (opened.flow 5).ringLog2 = 0 ∧
     2 ^ ((opened id fun f => { f with ringLog2 := 12 }).flow 5).ringLog2.toNat ≤ eArg e.toNat 1) ∧
    (let e := ringEntry 10 [5, 64]; let w := e.toNat
     let f := ((opened id fun f => { f with ringLog2 := 12, ringTail := 128 }).flow (eArg w 0))
     entryOk w = true ∧ f.ringLog2 ≠ 0 ∧ f.ringHead.toNat < 4096 ∧ f.ringTail.toNat < 4096 ∧ f.ringLog2.toNat ≤ 24 ∧
     64 ≤ (f.ringTail.toNat + 4096 - f.ringHead.toNat) % 4096 ∧ eArg w 1 = (f.ringHead.toNat + 64) % 4096) := by
  decide +kernel

/-- The host owns the bulk path, and memory is mapped. -/
def bulky : State := (mapped ready).setObj 0xB020 4 2

theorem witness_BulkCopies :
    (let e := ringEntry 11 [1, 0, 0x10000, 64, 1]; entryOk e.toNat = true ∧ ready.obj 0xB020 4 ≠ 2) ∧
    (let e := ringEntry 11 [1, 0, 0x10000 - 64, 0, 1]; entryOk e.toNat = true ∧ eArg e.toNat 3 = 0) ∧
    (∀ out ∈ [0, 1], let e := ringEntry 11 [out, 0, 0x1000, 64, 1]; let w := e.toNat; let u := taken e bulky
     entryOk w = true ∧ bulky.obj 0xB020 4 = 2 ∧ eArg w 3 ≠ 0 ∧ eArg w 3 % 64 = 0 ∧ eArg w 3 ≤ 2 ^ 32 ∧ eArg w 2 + eArg w 3 ≤ 2 ^ 48 ∧
     (u.bulkPieces (u.walkPages (eArg w 2) 64) 1 (!bitAt (eArg w 0) 0) (pieces (eArg w 2) 64)).2 = 0) ∧
    (let e := ringEntry 11 [1, 0, 2 ^ 40, 64, 1]; let w := e.toNat; let u := taken e bulky
     entryOk w = true ∧ (u.bulkPieces (u.walkPages (eArg w 2) 64) 1 false (pieces (eArg w 2) 64)).2 ≠ 0) := by
  decide +kernel

/-- A manifest of one region, no training state, a clock of 1,000 MHz, tree at 4,096, its tables at 24,576 and 28,672. -/
def manifest : List Byte :=
  let b := [2, 0, 0, 0] ++ leBytes 2 1000 ++ [1, 0] ++ leBytes 8 7 ++ leBytes 8 0x1000 ++ leBytes 8 0x6000 ++ leBytes 2 1 ++
    List.replicate 6 0 ++ leBytes 8 0x7000 ++ List.replicate 12 0
  b ++ leBytes 4 (crc32c (b ++ List.replicate 4 0))

def loadEntry : BitVec 512 := ringEntry 1 [0x5000]

/-- Time is in lock, and device memory holds the manifest and its region table. -/
def loadable : State :=
  let s := withTime fun t => { t with state := .locked }
  (s.write 0x5000 manifest).write 0x6000 (leBytes 16 (0x2#4 ++ 7#3 ++ 1#8 ++ 0#113 : BitVec 128).toNat)

/-- What JOB_LOAD installs. -/
def installed : State :=
  let u := taken loadEntry loadable
  u.growSpans.installTables manifest (u.read 0x6000 16) (u.read 0x7000 768)

theorem witness_JobsLoadAndUnload :
    (let w := loadEntry.toNat; let u := taken loadEntry loadable; let m := u.read (eArg w 0) 64
     entryOk w = true ∧ eOpcode w = 1 ∧ u.loadState = none ∧ u.visible (eArg w 0) 64 = true ∧ u.poisoned (eArg w 0) 64 = false ∧
     m = manifest ∧ manifestOk m = true ∧ u.visible (jRegions m) (16 * jCount m) = true ∧ u.poisoned (jRegions m) (16 * jCount m) = false ∧
     u.visible (jKeys m) 768 = true ∧ u.poisoned (jKeys m) 768 = false ∧
     u.growSpans.tablesFault m (u.read (jRegions m) (16 * jCount m)) = none ∧ manifestOk (u.read 0x8000 64) = false) ∧
    (busy.job.loaded = true ∧ ready.timeOk = false) ∧
    (let s := loadable; s.job.loaded = false ∧ s.timeOk = true ∧ s.obj 0x9003 1 ≠ 1 ∧ (s.setObj 0x9003 1 1).obj 0x9003 1 = 1 ∧
     (s.setObj 0xB000 2 6).obj 0xB000 2 = 6 ∧ s.obj 0xB000 2 ≠ 6 ∧ s.boot.measures.length = 8) ∧
    (let s := switchable.setDict fun d => { d with camps := [(3, leBytes 64 (2 * 2 ^ 508 + 6 * 2 ^ 500))] }
     let s := s.setObj 0xB000 3 3
     s.job.loaded = false ∧ s.timeOk = true ∧ s.campArmed = true ∧ s.switchForbids (s.obj 0xB000 3) ≠ none) ∧
    (let e := ringEntry 1 [2 ^ 41 - 16]; let u := taken e loadable; u.loadState = none ∧ u.visible (eArg e.toNat 0) 64 = false) ∧
    (let u := taken loadEntry { loadable with poison := [0x140] }
     u.loadState = none ∧ u.visible 0x5000 64 = true ∧ u.poisoned 0x5000 64 = true) ∧
    (entryOk (ringEntry 2 []).toNat = true ∧ eOpcode (ringEntry 2 []).toNat = 2) := by
  decide +kernel

theorem witness_JobsLoadInstalls : installed.subjectFault (jHostKey manifest) = none := by
  decide +kernel

theorem witness_TimetableImagesLoad :
    (let w := (ringEntry 3 [1, 0x8000, 60000, 20, 0, 0, 4096]).toNat; let u := taken (ringEntry 3 [1, 0x8000, 60000, 20, 0, 0, 4096])
     let counts := bankCounts (u.read (eArg w 1) 256)
     entryOk w = true ∧ eOpcode w = 3 ∧ eArg w 0 % 2 = 1 ∧ u.visible (eArg w 1) 256 = true ∧ u.poisoned (eArg w 1) 256 = false ∧
     bankRange (bankValues 1 w counts) = none ∧ u.visible (eArg w 1) (tableAt counts 64) = true ∧
     u.poisoned (eArg w 1) (tableAt counts 64) = false ∧ u.visible (2 ^ 41 - 64) 256 = false) ∧
    (let w := (ringEntry 3 [0, 0x8000, 2 ^ 32]).toNat
     entryOk w = true ∧ bankRange (bankValues 0 w (List.replicate 64 0)) = some (okey 0x2010 2)) ∧
    (∃ a : Fin 2, busy.tt.active ≠ some a ∧ busy.tt.switch ≠ some a ∧ a.val = 1) := by
  refine ⟨by decide +kernel, by decide +kernel, 1, by decide⟩

theorem witness_HostFunction :
    (ready.down = false ∧ ready.boot.good = true ∧ 2 ≤ ready.boot.stage ∧ State.reset.boot.stage < 2) ∧
    (ready.bar2Ok false (ready.host.windowBase + 64) 64 = true ∧ ready.poisoned (ready.host.windowBase + 64) 64 = false ∧
     busy.bar2Ok false (busy.host.windowBase + 64) 64 = false ∧ ({ ready with poison := [1] }).poisoned (ready.host.windowBase + 64) 64 = true) ∧
    (ready.bar2Ok true (ready.host.windowBase + 64) 64 = true ∧ busy.bar2Ok true (busy.host.windowBase + 64) 64 = false) ∧
    (let s := ready.setDict fun d => { d with sessions := [session, session fun v => { v with number := 6, transport := 2 }] }
     ∀ v ∈ s.dict.sessions, ∀ x ∈ s.dict.sessions, x.number = v.number → x = v) ∧
    (let s := opened id fun f => { f with owner := 0x9000 }
     (∃ e ∈ s.fabric.flows, e.2.owner.toNat = 0x9000 ∧ e.2.state = .opened) ∧ s.sems = []) ∧
    ((booting 0 [] [] [] fun b => { b with good := false }).boot.good = false ∧ State.reset.boot.stage < 2) := by
  decide +kernel

/-! ### Terms that `Instr.wf` refuses -/

/-- A frame whose body no body field can name. -/
def longFrame : RopeFrame := ⟨0, List.replicate 16400 0⟩

/-- A message longer than SMBus carries. -/
def longMessage : DxpMsg := ⟨2, 0, 0, List.replicate 225 0⟩

/-- A READ with data. -/
def longPacket : Packet := ⟨BitVec.ofNat 512 (2 ^ 502), [0]⟩

/-- A repair whose request failed, with data. -/
def longRepair : RepairData := ⟨false, [], [], [], [], [], [], [0], [], 0, 0, 0, 0⟩

/-- A window longer than its word can say. -/
def longWindow : OpenWord := ⟨0, 0, 0, 0, 0, 0, 2 ^ 41⟩

/-- A copy out of 64 bytes, with none. -/
def longCopy : BitVec 512 := BitVec.ofNat 512 (64 * 2 ^ 192)

/-- No command takes a message that its transport cannot carry (R396). -/
theorem test_wf_refuses_long_messages :
    ([
    .hallTimeRead longMessage, .bankCheck longMessage, .switchBankArm longMessage, .switchBankDisarm longMessage,
     .holdRequest longMessage, .freshStart longMessage, .restore longMessage, .belayRequest longMessage,
     .lsInitWrite longMessage, .regroupRequest longMessage, .drawTargetWrite longMessage, .dxpHello longMessage,
     .dxpRead longMessage, .dxpWrite longMessage, .readBlob longMessage, .writeBlob longMessage,
     .describe longMessage, .dxpList longMessage, .subscribe longMessage, .groupKey longMessage,
     .dxpClose longMessage, .campImageWrite longMessage, .switchSlotArm longMessage,
     .switchSlotDisarm longMessage, .attestNonce longMessage, .fwStagingWrite longMessage,
     .fwInstallFirstStage longMessage, .fwInstallBundle longMessage, .warmResetRequest longMessage,
     .coldResetRequest longMessage, .svnCommit longMessage, .operatorKeyWrite longMessage, .dxpResponse longMessage
    ] : List Instr).all (fun i => !i.wf) = true := by
  decide +kernel

/-- No command takes a frame longer than its body field (R331). -/
theorem test_wf_refuses_long_frames :
    ([
    .ropeOpen longFrame, .ropeAccept longFrame, .ropeDelta longFrame, .ropeSack longFrame, .roundInfo longFrame,
     .rekey longFrame, .rekeyAck longFrame, .regroup longFrame, .ropeBelay longFrame, .dxpFrame longFrame,
     .probe longFrame
    ] : List Instr).all (fun i => !i.wf) = true := by
  decide +kernel

/-- No command takes a packet whose data is not as long as its header says (R104). -/
theorem test_wf_refuses_long_packets :
    ([
    .packetForward 0 0 longPacket, .escapeWaitExpire longPacket, .memRead longPacket, .memWrite longPacket,
     .memAtomic longPacket, .memMessage longPacket, .responseArrive 0 longPacket, .flowBreak longPacket,
     .ropeFrame longPacket
    ] : List Instr).all (fun i => !i.wf) = true := by
  decide +kernel

/-- Each of the other bounds refuses a term. -/
theorem test_wf_refuses_other_bounds :
    ([
    .firstBootStage [512], .memoryBootStage [511], .memoryStackReset 1 [0], .windowOpenReceive 0 longWindow,
     .slotLand 0 ⟨[0], []⟩ false false, .linkTrain 0 0 0 0 [16], .freeSlotSend 0 [1], .semPostArrive 0 0 0,
     .dcStart 0 0 false 0 0 [] 0, .repairBlock 0 longRepair, .closePrepare [], .closeAck 0 [], .closeCommit [],
     .scrubRead 0 73, .powerSample 0 0 0 [1], .thermalSample [] [] 0, .mboxDoorbell [] 0,
     .bulkCopy longCopy [] false, .bar2Read 0 0, .bar2Write 0 [], .ideKm false 256 []
    ] : List Instr).all (fun i => !i.wf) = true := by
  decide +kernel

/-- The same commands are taken with operands within their bounds. -/
theorem test_wf_accepts :
    ([.firstBootStage [511], .memoryBootStage [512], .memoryStackReset 1 [64], .slotLand 0 ⟨List.replicate 512 0, [0, 0, 0, 0, 0]⟩ false false,
      .dxpRead ⟨2, 0, 0, List.replicate 224 0⟩, .ropeOpen ⟨0, []⟩, .memRead ⟨BitVec.ofNat 512 (2 ^ 502), []⟩,
      .repairBlock 0 ⟨false, [], [], [], [], [], [], [], [], 0, 0, 0, 0⟩, .bulkCopy longCopy (List.replicate 64 0) false,
      .powerOn 48000] : List Instr).all (·.wf) = true := by
  decide +kernel

/-! ### Results that the spec gives in numbers -/

/-- No row of the table has bits, so no word spells a command. -/
theorem test_no_table_word (n w : Nat) : decodeTableWord n w = none := rfl

theorem test_withFetchWord (n w : Nat) : ready.withFetchWord n w = ready := rfl

/-- As worked under R162. -/
theorem test_narrow_e4m3 :
    let f : FloatFmt := ⟨4, 3, true⟩
    narrow f .rne false (.fin false 244 0) = (0x77, .value 7) ∧ narrow f .rne false (.fin false 248 0) = (0x78, .inf) ∧
    narrow f .rne true (.fin false 248 0) = (0x77, .saturated) ∧ narrow f .rne false (.fin true 1000 0) = (0xF8, .inf) ∧
    narrow f .rne true (.fin true 1000 0) = (0xF7, .saturated) ∧ narrow f .rtz false (.fin false 1000 0) = (0x77, .saturated) := by
  decide

/-- As worked under R164: 1 + 3 × 2⁻¹⁰ to B16. -/
theorem test_narrow_stochastic :
    let v : Machine.Num := .fin false 1027 (-10)
    (narrow b16 .rne false v).1 = 0x3F80 ∧ (narrow b16 .rtz false v).1 = 0x3F80 ∧
    (narrow b16 (.sr 0x12345678) false v).1 = 0x3F80 ∧ (narrow b16 (.sr 0xB0000000) false v).1 = 0x3F81 := by
  decide

/-- As worked under R169: 0.75, −2.6, 10 and 0.05 in a block of E2M1. -/
theorem test_quantise_e2m1 :
    quantiseBlock ⟨2, 1, false⟩ [.rne, .rne, .rne, .rne] [.fin false 3 (-2), .fin true 2662 (-10), .fin false 10 0, .fin false 51 (-10)] =
      (0x80, [0x0, 0xB, 0x6, 0x0], [.vanished, .value 1, .value 3, .vanished]) := by
  decide

/-- As worked under R116: 3.96875 and 2⁻¹⁵ in a block of E4M3. -/
theorem test_quantise_e4m3 :
    (quantiseBlock ⟨4, 3, true⟩ [.rne, .rne] [.fin false 127 (-5), .fin false 1 (-15)]).1 = 0x7A ∧
    (quantiseBlock ⟨4, 3, true⟩ [.rne, .rne] [.fin false 127 (-5), .fin false 1 (-15)]).2.1 = [0x70, 0x00] := by
  decide

/-- As worked under R356: unit 9,321 of a region in HASHED interleave is row 18 of stack 3, channel 15, pseudo-channel 0. -/
theorem test_place_hashed : place 0 9321 = (3 * 64 + 15 * 2 + 0, 18) := by decide

/-- As worked under R74: 40 data slots from slot 100 span 43. -/
theorem test_span_slots : spanSlots 100 40 = 43 ∧ (List.range 12).map (dataSlot 100) = [0, 1, 2, 3, 4, 5, 6, 8, 9, 10, 11, 12] := by
  decide

/-- R329 and R330 as worked there: positions 3, 4 and 300; and a budget of 100, with bins 503 to 509 as 0 to 6. -/
theorem test_rope_gaps : codeGaps 0 [3, 4, 300] = [0x03, 0x00, 0xFF, 0x27, 0x01] := by decide

theorem test_rope_threshold : thresholdFrom [0, 0, 0, 55, 41, 30, 12] 100 6 0 = 507 - 503 := by decide +kernel

/-- L, clean and streak after a decision, from their values before it (R307). -/
def scaled (l clean streak : Nat) (k : Decision) : List Nat :=
  let s := (((ready.setObj 0x8012 6 l).setObj 0x8012 7 clean).setObj 0x8012 8 streak).setObj 0x8012 0xA 0xFFFFFFFF
  let s := s.lossScale k
  [s.obj 0x8012 6, s.obj 0x8012 7, s.obj 0x8012 8]

/-- The rows of the table worked under R309. -/
theorem test_loss_scale_commit :
    scaled 16 1998 0 .commit = [16, 1999, 0] ∧ scaled 16 1999 0 .commit = [17, 0, 0] ∧ scaled 15 0 3 .commit = [15, 1, 0] := by
  decide +kernel

theorem test_loss_scale_skips : scaled 17 0 0 .nonfinite = [16, 0, 1] ∧ scaled 16 0 1 .schedule = [16, 0, 2] := by
  decide +kernel

/-- 54 V, 61.25 V and 3,308 W in LINEAR11 (R485). -/
theorem test_linear11 : linear11 54000 1000 = 0xE360 ∧ linear11 61250 1000 = 0xE3D4 ∧ linear11 3308 1 = 0x133B := by decide

/-- CRC-32C of the nine ASCII digits 1 to 9 (the polynomial of R251). -/
theorem test_crc32c : crc32c [0x31, 0x32, 0x33, 0x34, 0x35, 0x36, 0x37, 0x38, 0x39] = 0xE3069283 := by decide +kernel

end Sys2Proof.Tests
end

/-!
Device memory (O9): what a write leaves in memory and in the list of poisoned codewords, and how a
number lies in the bytes that hold it.
-/
namespace Sys2Proof.Machine

/-! ### Memory that nothing has written, and single bytes -/

/-- Memory that lists no byte reads as zero (R355). -/
theorem Memory.read_empty (a n : Nat) : Memory.read [] a n = List.replicate n 0 := by
  induction n generalizing a with
  | zero => rfl
  | succ n ih => rw [Memory.read, ih, Tbl.get, List.replicate_succ]

/-- A one-byte number is the byte at its address. -/
theorem State.readNat_one (s : State) (a : Nat) : s.readNat a 1 = (Tbl.get 0 s.mem a).toNat := by
  simp [State.readNat, Memory.read, leNat]

/-! ### Poison (R360) -/

/-- A write keeps the poison of the codewords that it does not cover whole, and of no other. -/
theorem State.mem_poison_write {s : State} {a c : Nat} {bs : List Byte} :
    c ∈ (s.write a bs).poison ↔ c ∈ s.poison ∧ ¬(a ≤ 64 * c ∧ 64 * c + 64 ≤ a + bs.length) := by
  simp [State.write, imp_iff_not_or]

/-- Bytes are poisoned when a poisoned codeword overlaps them. -/
theorem State.poisoned_iff {s : State} {a n : Nat} :
    s.poisoned a n = true ↔ ∃ c ∈ s.poison, a < 64 * c + 64 ∧ 64 * c < a + n := by
  simp [State.poisoned]

/-- A write poisons nothing. -/
theorem State.poisoned_of_poisoned_write {s : State} {a b n : Nat} {bs : List Byte}
    (h : (s.write a bs).poisoned b n = true) : s.poisoned b n = true := by
  obtain ⟨c, hc, hover⟩ := State.poisoned_iff.mp h
  exact State.poisoned_iff.mpr ⟨c, (State.mem_poison_write.mp hc).1, hover⟩

/-- A codeword that a write covers whole is not poisoned after it: it alone overlaps itself. -/
theorem State.poisoned_write_covered {s : State} {a b : Nat} {bs : List Byte} (hlo : a ≤ 64 * b)
    (hhi : 64 * b + 64 ≤ a + bs.length) : (s.write a bs).poisoned (64 * b) 64 = false := by
  rw [← Bool.not_eq_true, State.poisoned_iff]
  rintro ⟨c, hc, habove, hbelow⟩
  have hcb : c = b := by omega
  subst hcb
  exact (State.mem_poison_write.mp hc).2 ⟨hlo, hhi⟩

/-! ### Little-endian order (R9) -/

/-- Byte `i` of a number is its field [8i + 7 : 8i]. -/
theorem toNat_getElem_leBytes {n i v : Nat} (hi : i < (leBytes n v).length) :
    ((leBytes n v)[i]).toNat = fld v (8 * i + 7) (8 * i) := by
  induction n generalizing i v with
  | zero => exact absurd hi (Nat.not_lt_zero i)
  | succ n ih =>
    cases i with
    | zero => simp [leBytes, fld]
    | succ i =>
      have hfld : fld (v / 256) (8 * i + 7) (8 * i) = fld v (8 * (i + 1) + 7) (8 * (i + 1)) := by
        rw [fld, fld, Nat.div_div_eq_div_mul, show 256 * 2 ^ (8 * i) = 2 ^ (8 * (i + 1)) by ring,
          show 8 * i + 7 + 1 - 8 * i = 8 * (i + 1) + 7 + 1 - 8 * (i + 1) by omega]
      rw [← hfld]
      exact ih (Nat.lt_of_succ_lt_succ hi)

/-- A number written is the number read. -/
theorem State.readNat_write_leBytes (s : State) (a : Nat) {n v : Nat} (hv : v < 256 ^ n) :
    (s.write a (leBytes n v)).readNat a n = v := by
  have hread : Memory.read (Memory.write s.mem a (leBytes n v)) a n = leBytes n v := by
    simpa only [leBytes_length] using Memory.read_write_same (m := s.mem) (a := a) (bs := leBytes n v)
  calc (s.write a (leBytes n v)).readNat a n
      = leNat (Memory.read (Memory.write s.mem a (leBytes n v)) a n) := rfl
    _ = leNat (leBytes n v) := by rw [hread]
    _ = v := leNat_leBytes n v hv

/-- Byte `i` of a number written lies `i` bytes from its address. -/
theorem State.readNat_one_write_leBytes (s : State) (a v : Nat) {n i : Nat} (hi : i < n) :
    (s.write a (leBytes n v)).readNat (a + i) 1 = fld v (8 * i + 7) (8 * i) := by
  have hlen : i < (leBytes n v).length := by rwa [leBytes_length]
  calc (s.write a (leBytes n v)).readNat (a + i) 1
      = (Tbl.get 0 (Memory.write s.mem a (leBytes n v)) (a + i)).toNat := State.readNat_one ..
    _ = ((leBytes n v)[i]).toNat := by rw [Memory.get_write_same hlen]
    _ = fld v (8 * i + 7) (8 * i) := toNat_getElem_leBytes hlen

/-- Settles O9, from what a write leaves in memory (Laws/Tables), what it leaves poisoned, and the
place of each byte of a number. -/
theorem memoryKeepsWhatIsWritten : Obligations.MemoryKeepsWhatIsWritten := by
  intro s a bs
  refine ⟨?readBack, ?frame, ?canonical, ?unwritten, ?noNewPoison, ?poisonCleared, ?number⟩
  case readBack => exact Memory.read_write_same
  case frame => exact fun b n h => Memory.read_write_other h
  case canonical => exact Memory.write_wf a bs
  case unwritten => exact Memory.read_empty
  case noNewPoison => exact fun b n => State.poisoned_of_poisoned_write
  case poisonCleared => exact fun b => State.poisoned_write_covered
  case number =>
    exact fun n v hv => ⟨s.readNat_write_leBytes a hv, fun i hi => s.readNat_one_write_leBytes a v hi⟩

end Sys2Proof.Machine

/-!
The machine after reset (O14): what an unlisted object, context, flow context or byte reads as, and the
links in their default roles.
-/
namespace Sys2Proof.Machine

/-- After reset every scalar object has its default (R391). -/
theorem State.obj_reset (idx sub : Nat) : State.reset.obj idx sub = objDefault (okey idx sub) := rfl

/-- After reset link 15 of each H-die is a rope port, and every other a fabric link (R28). -/
theorem State.role_reset (l : Link) : State.reset.role l = if l.val % 16 = 15 then 2 else 1 := by
  have hidx : okey 0xB021 l.val / 256 = 0xB021 := by unfold okey; omega
  have hsub : okey 0xB021 l.val % 256 = l.val := by unfold okey; omega
  rw [State.role, State.obj_reset, objDefault, if_neg (by omega), if_pos hidx, hsub]

/-- After reset no link is up (R120). -/
theorem State.linkUp_reset : ∀ l : Link, State.reset.linkUp l = false := by decide +kernel

/-- After reset every measurement register is zero (R462). -/
theorem measures_reset : ∀ n < 8, State.reset.boot.measures.getD n [] = List.replicate 48 0 := by decide

/-- Settles O14: the reset values by the definition of the reset state, objects by their defaults, and
every table by what it reads as where it lists nothing. -/
theorem theStateAfterReset : Obligations.TheStateAfterReset := by
  unfold Obligations.TheStateAfterReset
  refine ⟨?pending, ?hall, ?timeState, ?isRoot, ?parent, ?held, ?offset, ?job, ?contexts, ?memory, ?stores, ?maps,
    ?ready, ?outOfService, ?stageFailed, ?bootStage, ?alert, ?measures, ?mfrStatus, ?faultN, ?links, ?active, ?armedA,
    ?armedB, ?flows, ?sessions⟩
  case contexts => exact fun c x => rfl
  case memory => exact Memory.read_empty
  case stores => exact fun k => rfl
  case maps => exact fun k => rfl
  case ready | outOfService | stageFailed => rw [State.obj_reset]; decide
  case measures => exact measures_reset
  case mfrStatus | faultN => decide
  case links => exact fun l => ⟨State.role_reset l, State.linkUp_reset l⟩
  case flows => exact fun c => rfl
  all_goals rfl

end Sys2Proof.Machine

/-!
A link that is lost (O24): before its recovery holds the hall, the loss releases what the link owns
(R419). That release can fail the job stage, whose hold (R431) then takes the SEQ that was next.
-/
namespace Sys2Proof.Machine

/-! ### The SEQ that a failure of the job stage uses up (R83, R431) -/

theorem State.alerting_hold (s : State) (f : State → State) : (s.alerting f).hold = (f s).hold := by
  unfold State.alerting
  dsimp only
  split <;> rfl

theorem State.stopAll_hold (s : State) : s.stopAll.hold = s.hold :=
  (State.stopAll_only (parts := [.ctxs]) (Only.refl _ s) (by decide)).2 .hold (by decide)

theorem State.stopAll_obj (s : State) (a b : Nat) : s.stopAll.obj a b = s.obj a b :=
  obj_of_only (State.stopAll_only (parts := [.ctxs]) (Only.refl _ s) (by decide)) (by decide) a b

theorem State.originateHold_obj (s : State) (cause a b : Nat) : (s.originateHold cause).2.obj a b = s.obj a b :=
  obj_of_only (State.originateHold_only (parts := [.hold, .links]) (Only.refl _ s) (by decide) cause) (by decide) a b

theorem State.flood_hold (s : State) (msg : BitVec 256) (except : Option Nat) : (s.flood msg except).hold = s.hold :=
  (State.flood_only (parts := [.links]) (Only.refl _ s) (by decide) msg except).2 .hold (by decide)

/-- What a hold of this module's own changes of the hall hold: it is seen, it joins, and it takes a SEQ (R83). -/
theorem State.originateHoldAt_hold (s : State) (cause tick : Nat) :
    (s.originateHoldAt cause tick).2.hold = { (s.firstSeen s.moduleNumber s.hold.ownSeq 1).2.hold.join
        ⟨s.moduleNumber, s.hold.ownSeq, cause⟩ tick with
      ownSeq := (s.hold.ownSeq + 1) % 2 ^ 16
      own := (s.firstSeen s.moduleNumber s.hold.ownSeq 1).2.hold.own ++ [(s.hold.ownSeq, cause)] } := by
  unfold State.originateHoldAt
  exact State.flood_hold _ _ _

theorem State.originateHold_ownSeq (s : State) (cause : Nat) :
    (s.originateHold cause).2.hold.ownSeq = (s.hold.ownSeq + 1) % 2 ^ 16 := by
  rw [State.originateHold, State.originateHoldAt_hold]

/-- The last part of the failure of a job stage (R431): while no hold is joined, one of this module's own, for which it
sends no RESUME. -/
theorem State.failedStageHold_ownSeq {u : State} (hjoined : u.hold.joined = []) :
    ((if u.hold.joined.isEmpty then (u.originateHold 9).2 else u).setHold fun h =>
      { h with noResume := true }).schedFault.hold.ownSeq = (u.hold.ownSeq + 1) % 2 ^ 16 := by
  rw [if_pos (by rw [hjoined]; rfl), State.schedFault, State.setHold_hold, State.setHold_hold,
    State.originateHold_ownSeq]

/-- A job stage that fails while no hold is joined originates one. -/
theorem State.jobFail_ownSeq {s : State} (cause : Nat) (hloaded : s.job.loaded = true) (hstage : s.obj 0x9003 3 ≠ 1)
    (hjoined : s.hold.joined = []) : (s.jobFail cause).hold.ownSeq = (s.hold.ownSeq + 1) % 2 ^ 16 := by
  unfold State.jobFail
  rw [if_neg (by simp [hloaded, hstage])]
  dsimp only
  generalize hstopped : State.stopAll _ = u
  have hhold : u.hold = s.hold := by
    rw [← hstopped, State.stopAll_hold, State.interrupt_hold, State.alerting_hold, State.setObj_hold,
      State.setObj_hold, State.log_hold]
  rw [← hhold]
  exact State.failedStageHold_ownSeq (by rw [hhold, hjoined])

/-- Of the objects a failure of the job stage changes the stage's own, and those of the cairn log. -/
theorem State.jobFail_obj {s : State} {a b : Nat} (cause : Nat)
    (hkey : okey a b ∉ [okey 0x9003 3, okey 0x9003 4, okey 0x9004 2, okey 0x9004 3]) :
    (s.jobFail cause).obj a b = s.obj a b := by
  simp only [List.mem_cons, List.not_mem_nil, or_false, not_or] at hkey
  obtain ⟨hfailed, hcause, htotal, hlost⟩ := hkey
  unfold State.jobFail
  split
  · rfl
  · simp only [State.schedFault, State.setHold_obj]
    split <;>
      simp only [State.originateHold_obj, State.stopAll_obj, State.interrupt_obj, alerting_obj,
        State.obj_setObj_other _ hcause, State.obj_setObj_other _ hfailed, State.log_obj _ _ _ htotal hlost]

/-! ### A context that faults, and the semaphore that it waited on (R202, R210, R428) -/

theorem State.ctxStops_hold (s : State) (c x : Nat) : (s.ctxStops c x).hold = s.hold :=
  (State.ctxStops_only (parts := [.out, .msix]) (Only.refl _ s) (by decide) c x).2 .hold (by decide)

theorem State.ctxStops_job (s : State) (c x : Nat) : (s.ctxStops c x).job = s.job :=
  (State.ctxStops_only (parts := [.out, .msix]) (Only.refl _ s) (by decide) c x).2 .job (by decide)

theorem State.ctxStops_obj (s : State) (c x a b : Nat) : (s.ctxStops c x).obj a b = s.obj a b :=
  obj_of_only (State.ctxStops_only (parts := [.out, .msix]) (Only.refl _ s) (by decide) c x) (by decide) a b

/-- In a job, the fault of a context uses up a SEQ where no hold is joined. -/
theorem State.ctxFault_ownSeq {s : State} {c : Nat} (x cause : Nat) (hc : c < 192)
    (hloaded : s.job.loaded = true) (hstage : s.obj 0x9003 3 ≠ 1) (hjoined : s.hold.joined = []) :
    (s.ctxFault c x cause).hold.ownSeq = (s.hold.ownSeq + 1) % 2 ^ 16 := by
  have hcount : okey 0x9003 3 ≠ okey 0x4032 c := by unfold okey; omega
  simp only [State.ctxFault, State.on, State.ctxStops_job, State.log_job, State.count_job, State.setCtx_job, hloaded,
    if_true, State.faultCount]
  rw [State.jobFail_ownSeq]
  · simp only [State.count_hold, State.ctxStops_hold, State.log_hold, State.setCtx_hold]
  · simpa only [State.count_job, State.ctxStops_job, State.log_job, State.setCtx_job] using hloaded
  · rw [State.obj_count, if_neg (by decide), State.ctxStops_obj, State.log_obj _ _ _ (by decide) (by decide),
      State.obj_count, if_neg hcount, State.setCtx_obj]
    exact hstage
  · simpa only [State.count_hold, State.ctxStops_hold, State.log_hold, State.setCtx_hold] using hjoined

/-- The fault of a context changes the role of no link. -/
theorem State.ctxFault_role (s : State) {c l : Nat} (x cause : Nat) (hc : c < 192) (hl : l < 64) :
    (s.ctxFault c x cause).role l = s.role l := by
  have hcount : okey 0xB021 l ≠ okey 0x4032 c := by unfold okey; omega
  have htotal : okey 0xB021 l ≠ okey 0x9004 2 := by unfold okey; omega
  have hlost : okey 0xB021 l ≠ okey 0x9004 3 := by unfold okey; omega
  have hfault : okey 0xB021 l ≠ okey 0x9005 0x0F := by unfold okey; omega
  have hstage : okey 0xB021 l ∉ [okey 0x9003 3, okey 0x9003 4, okey 0x9004 2, okey 0x9004 3] := by
    simp only [okey, List.mem_cons, List.not_mem_nil, or_false, not_or]
    omega
  simp only [State.role, State.ctxFault, State.on]
  split <;>
    simp only [State.jobFail_obj _ hstage, State.faultCount, State.obj_count, if_neg hfault, State.ctxStops_obj,
      State.log_obj _ _ _ htotal hlost, if_neg hcount, State.setCtx_obj]

/-- A semaphore that one context waits on breaks, and the wait ends with a fault (R202). -/
theorem State.breakSem_of_waiter {s : State} {c n x k since : Nat} (hwaiters : s.semWaiters c n = [(x, k)])
    (hwait : (s.ctx c x).wait = .sem n k since) :
    s.breakSem c n = (s.setSem c n { s.sem c n with broken := true }).brokenWait c x := by
  have hwaiters' : (s.setSem c n { s.sem c n with broken := true }).semWaiters c n = [(x, k)] := hwaiters
  simp [State.breakSem, State.evalSem, hwaiters', rotate101, Nat.mod_one, State.each, hwait]

/-- Of a single semaphore, one whose PRODUCER lies in the domain breaks (R419). -/
theorem State.breakProducer_single {s : State} {k dom : Nat} {v : SemSt} (hsems : s.sems = [(k, v)])
    (howned : v.producer.toNat ≠ 0) (hdom : domWithin v.producer.toNat dom = true) :
    s.breakProducer dom = s.breakSem (k / 64) (k % 64) := by
  simp [State.breakProducer, hsems, howned, hdom, State.each]

/-! ### The loss of a link (R429) -/

theorem exec_linkLoss (link : Link) (s : State) : exec (.linkLoss link) s = execLinkLoss link s := rfl

/-- The link goes down, before what it owns is released. -/
def State.takeDown (s : State) (link : Link) : State :=
  (s.setObj 0x6002 link 1).mapLink link fun v => { v with retraining := true }

/-- LINK_LOSS where the link's time symbols still arrive: the release comes before the link's own hold. -/
theorem execLinkLoss_heard {s : State} {link : Link} (hdown : s.down = false) (hup : s.linkUp link = true)
    (hheard : s.hall < (s.linkTime link).rxAt + 256000) :
    let u := ((s.takeDown link).releaseHolds (domLink link)).lossHold link 6
    execLinkLoss link s = .next (u.on (u.time.parent == some link) State.loseParent) := by
  have hlate : decide ((s.linkTime link).rxAt + 4000 * 64 ≤ s.hall) = false := decide_eq_false (by omega)
  rw [execLinkLoss, act_up hdown, if_pos hup, hlate]
  rfl

/-- A lost parent changes no link. -/
theorem State.loseParent_link (s : State) (l : Nat) : s.loseParent.link l = s.link l := by
  have hlinks : s.loseParent.links = s.links :=
    (State.loseParent_only (parts := [.time, .objects, .ring]) (Only.refl _ s) (by decide)).2 .links (by decide)
  rw [State.link, hlinks, State.link]

/-- On a fabric link the loss's own hold has the SEQ that is next when it is originated. -/
theorem State.lossHold_holdSeq {s : State} {l : Nat} (cause : Nat) (hrole : s.role l = 1) :
    ((s.lossHold l cause).link l).holdSeq = some s.hold.ownSeq := by
  rw [State.lossHold, if_pos hrole]
  simp [State.originateHold, State.originateHoldAt, State.schedFault, State.faultCount, State.mapLink]

/-- The recovery of a lost fabric link resumes a hold whose SEQ is what the release has left as the next. -/
theorem linkLoss_holdSeq {s t : State} {link : Link} (hdown : s.down = false) (hup : s.linkUp link = true)
    (hheard : s.hall < (s.linkTime link).rxAt + 256000)
    (hrole : ((s.takeDown link).releaseHolds (domLink link)).role link = 1) (ht : exec (.linkLoss link) s = .next t) :
    (t.link link).holdSeq = some ((s.takeDown link).releaseHolds (domLink link)).hold.ownSeq := by
  rw [exec_linkLoss, execLinkLoss_heard hdown hup hheard] at ht
  injection ht with ht
  rw [← ht, ← State.lossHold_holdSeq 6 hrole, State.on]
  split
  · rw [State.loseParent_link]
  · rfl

/-! ### A link whose loss fails the job stage -/

/-- A job is in force, link 0, a fabric link, is up, and context 0 of core 0 waits on its semaphore 0, whose
PRODUCER is link 0 (R200, R417). -/
def awaitedLink : State :=
  let s := { State.reset with boot := { Boot.reset with stage := 4 }, job := { Job.reset with loaded := true } }
  ((s.setObj 0x6002 0 2).setSem 0 0 { SemSt.reset with producer := 0x4000 }).setCtx 0 0
    { CtxSt.reset with status := .waiting, wait := .sem 0 1 0 }

/-- With the link down its semaphore has broken, and the wait has been logged as ended (R202). -/
def awaitedLinkBroken : State :=
  ((awaitedLink.takeDown 0).setSem 0 0 { SemSt.reset with producer := 0x4000, broken := true }).log 0x4031 (domCore 0)

/-- The link owns one semaphore and no flow context: its release is the fault of the waiter. -/
theorem awaitedLink_releaseHolds :
    (awaitedLink.takeDown 0).releaseHolds (domLink (0 : Link)) = awaitedLinkBroken.ctxFault 0 0 4 := by
  have howned : (awaitedLink.takeDown 0).breakProducer (domLink (0 : Link)) = (awaitedLink.takeDown 0).breakSem 0 0 :=
    State.breakProducer_single (k := 0) (v := { SemSt.reset with producer := 0x4000 }) rfl (by decide) (by decide)
  have hbreak : (awaitedLink.takeDown 0).breakSem 0 0 = awaitedLinkBroken.ctxFault 0 0 4 :=
    State.breakSem_of_waiter (k := 1) (since := 0) (by decide) (by decide)
  have hflows : (awaitedLinkBroken.ctxFault 0 0 4).fabric = Fabric.reset :=
    (State.ctxFault_only (parts := [.out, .hold, .links, .ctxs, .objects, .ring, .msix, .alert]) (Only.refl _ _)
      (by decide) 0 0 4).2 .fabric (by decide)
  rw [State.releaseHolds, howned, hbreak, State.breakOwned, hflows]
  rfl

/-- Refutes O24: in `awaitedLink` the release of link 0 fails the job stage, whose hold has SEQ 0, so that
the recovery of link 0 resumes a hold of SEQ 1; the statement gives that hold the SEQ that was next before
the loss. -/
theorem not_linksTrainAndFail : ¬ Obligations.LinksTrainAndFail := by
  intro h
  have hup : awaitedLink.linkUp 0 = true := by decide
  have hheard : awaitedLink.hall < (awaitedLink.linkTime 0).rxAt + 256000 := by decide
  obtain ⟨-, -, -, hloss, -⟩ := h awaitedLink 0 rfl
  obtain ⟨t, ht, -, -, -, hfabric⟩ := hloss hup hheard (by decide)
  have hstated : (t.link 0).holdSeq = some 0 := (hfabric (by decide)).1
  have hrole : ((awaitedLink.takeDown 0).releaseHolds (domLink (0 : Link))).role (0 : Link) = 1 := by
    rw [awaitedLink_releaseHolds]
    exact (State.ctxFault_role awaitedLinkBroken 0 4 (by decide) (by decide)).trans (by decide +kernel)
  have hnext : ((awaitedLink.takeDown 0).releaseHolds (domLink (0 : Link))).hold.ownSeq = 1 := by
    rw [awaitedLink_releaseHolds]
    exact (State.ctxFault_ownSeq 0 4 (by decide) (by decide +kernel) (by decide +kernel) (by decide +kernel)).trans
      (by decide +kernel)
  have hactual : (t.link 0).holdSeq = some 1 :=
    (linkLoss_holdSeq rfl hup hheard hrole ht).trans (congrArg some hnext)
  rw [hstated] at hactual
  exact absurd hactual (by decide)

end Sys2Proof.Machine

/-!
Hall time that passes by itself (O2), and the time symbols that links send and receive (O15, O16).
-/
namespace Sys2Proof.Machine

/-! ### One nanosecond without a command (R35, R36) -/

/-- In 1 ns slewing moves the count by one unit at most (R36). -/
theorem slewStep_one_le (t : TimeUnit) : -1 ≤ (slewStep t 1).1 ∧ (slewStep t 1).1 ≤ 1 := by
  have hunits : (t.slewPhase % 1000 + 1) / 1000 ≤ 1 := by omega
  simp only [slewStep]
  split <;> omega

/-- The count after 1 ns without a command. -/
def State.idleHall (s : State) : Nat := ((s.hall : Int) + 64 + (slewStep s.time 1).1).toNat

theorem State.idleHall_bounds (s : State) : s.hall + 63 ≤ s.idleHall ∧ s.idleHall ≤ s.hall + 65 := by
  have hslew := slewStep_one_le s.time
  unfold State.idleHall
  omega

/-- With nothing waiting a step passes 1 ns, or stops where the count would leave its 70 bits. -/
theorem step_of_empty {s : State} (hempty : s.pending = []) :
    step s = if s.idleHall < hallEnd then .next { s with hall := s.idleHall, time := (slewStep s.time 1).2 }
      else .fault .hallTimeExhausted := by
  have htick : step s = idleTick s := by rw [step, hempty]
  exact htick

/-- Settles O2: slewing adds or takes away one unit at most of the 64 that pass. -/
theorem emptyQueuePassesOneNanosecond : Obligations.EmptyQueuePassesOneNanosecond := by
  intro s hempty
  obtain ⟨hlow, hhigh⟩ := s.idleHall_bounds
  rw [step_of_empty hempty]
  refine ⟨fun hroom => ?next, fun hfull => ?fault⟩
  case next =>
    have hin : s.idleHall < hallEnd := by unfold hallEnd; omega
    exact ⟨_, if_pos hin, hlow, hhigh, rfl, rfl⟩
  case fault =>
    have hout : ¬ s.idleHall < hallEnd := by unfold hallEnd; omega
    exact if_neg hout

/-! ### The symbol that a link sends (R43) -/

/-- The record of one link leaves the records of the others as they were. -/
theorem State.linkTime_setLinkTime_other {s : State} {k l : Nat} (v : LinkTime) (hl : l ≠ k) :
    (s.setLinkTime k v).linkTime l = s.linkTime l := Tbl.get_set_other hl

/-- A change of the time unit that keeps its links' records. -/
theorem State.linkTime_setTime {s : State} {f : TimeUnit → TimeUnit} (hf : (f s.time).links = s.time.links)
    (l : Nat) : (s.setTime f).linkTime l = s.linkTime l := by
  rw [State.linkTime, State.setTime_time, hf, State.linkTime]

/-- A command of a powered module answers the state that its row gives. -/
theorem exec_of_act {s : State} {c : Instr} {f : State → State} (hrow : exec c s = act s f) (hdown : s.down = false) :
    exec c s = .next (f s) := hrow.trans (act_up hdown f)

theorem exec_timeSymbolSend {s : State} {link : Link} (hdown : s.down = false) :
    exec (.timeSymbolSend link) s = .next (s.sendSymbol link) := exec_of_act rfl hdown

/-- Settles O15, from the one branch in which a symbol is sent. -/
theorem timeSymbolIsSent : Obligations.TimeSymbolIsSent := by
  intro s link hdown hrole hup
  have hsends : s.role link = 1 ∧ s.linkUp link = true := ⟨hrole, hup⟩
  rw [exec_timeSymbolSend hdown, State.sendSymbol, if_pos hsends]
  refine ⟨_, _, rfl, rfl, rfl, ?nextSeq, fun l hl => ?others⟩
  case nextSeq => rw [State.emit_linkTime, State.linkTime_setLinkTime]
  case others =>
    rw [State.emit_linkTime]
    exact State.linkTime_setLinkTime_other _ fun h => hl (Fin.ext h)

/-! ### The symbol that a link receives (R43) -/

/-- What the link's record keeps of the symbol `w`. -/
def LinkTime.Reports (v : LinkTime) (w : Nat) : Prop :=
  v.heard = true ∧ v.rxSeq = fld w 183 176 ∧ v.state = fld w 27 25 ∧ v.tier = fld w 24 22 ∧
    v.rootIndex = fld w 21 19 ∧ v.beat = fld w 18 3

theorem symbolOk_iff (w : Nat) :
    symbolOk w = true ↔ fld w 191 188 = 2 ∧ fld w 187 184 = 1 ∧ fld w 27 25 ≤ 4 ∧ fld w 1 0 = 0 := by
  simp [symbolOk, and_assoc]

theorem State.noteSymbol_reports (s : State) (l w at_ : Nat) : ((s.noteSymbol l w at_).linkTime l).Reports w := by
  unfold State.noteSymbol
  dsimp only
  split
  · rw [State.linkTime_setLinkTime]
    exact ⟨rfl, rfl, rfl, rfl, rfl, rfl⟩
  · rw [apply_ite (State.linkTime · l), State.linkTime_setTime rfl, ite_self, State.linkTime_setLinkTime]
    exact ⟨rfl, rfl, rfl, rfl, rfl, rfl⟩

/-! Parents come and go, and the links' records stay. -/

theorem State.takeParent_linkTime (s : State) (k l : Nat) : (s.takeParent k).linkTime l = s.linkTime l := by
  unfold State.takeParent State.on
  dsimp only
  split
  · split <;> simp [State.linkTime_setTime]
  · rfl

theorem State.loseParent_linkTime (s : State) (l : Nat) : s.loseParent.linkTime l = s.linkTime l := by
  unfold State.loseParent
  dsimp only
  split
  · rw [State.takeParent_linkTime, State.linkTime_setTime rfl]
  · split
    · rw [State.log_linkTime, State.linkTime_setTime rfl, State.linkTime_setTime rfl]
    · rw [State.linkTime_setTime rfl]

theorem State.demote_linkTime (s : State) (l : Nat) : s.demote.linkTime l = s.linkTime l := by
  rw [State.demote, State.loseParent_linkTime, State.log_linkTime, State.linkTime_setTime rfl]

theorem State.leaveToFine_linkTime (s : State) (l : Nat) : (s.leaveToFine false).linkTime l = s.linkTime l :=
  (State.log_linkTime ..).trans (State.linkTime_setTime rfl l)

/-- A walk over the first `n` entries of a table, each of which it changes by `f`. -/
theorem Tbl.get_foldl_set_range {α : Type} [DecidableEq α] {d : α} (f : α → α) (t : Tbl α) (n l : Nat) :
    Tbl.get d ((List.range n).foldl (fun m k => Tbl.set d m k (f (Tbl.get d m k))) t) l =
      if l < n then f (Tbl.get d t l) else Tbl.get d t l := by
  induction n with
  | zero => rfl
  | succ n ih =>
    rw [List.range_succ, List.foldl_append, List.foldl_cons, List.foldl_nil]
    by_cases hl : l = n
    · subst hl
      rw [Tbl.get_set_same, ih, if_neg (Nat.lt_irrefl l), if_pos (Nat.lt_succ_self l)]
    · rw [Tbl.get_set_other hl, ih]
      exact if_congr (by omega) rfl rfl

theorem State.stepHall_links (s : State) (h : Nat) : (s.stepHall h).time.links =
    (List.range 64).foldl (fun m l => Tbl.set .reset m l ((Tbl.get .reset m l).stepped ((h : Int) - s.hall)))
      s.time.links := by
  rw [State.stepHall]

/-- A step of the counter moves what a link's record keeps of it, and nothing else of the record (R36). -/
theorem State.stepHall_linkTime (s : State) (h : Nat) {l : Nat} (hl : l < 64) :
    (s.stepHall h).linkTime l = (s.linkTime l).stepped ((h : Int) - s.hall) := by
  rw [State.linkTime, State.stepHall_links,
    Tbl.get_foldl_set_range (d := LinkTime.reset) (·.stepped ((h : Int) - s.hall)), if_pos hl,
    State.linkTime]

/-- What follows on a symbol in a module that is no root keeps what the link's record says of it. -/
theorem State.followSymbol_reports {s : State} {l w : Nat} (x : Nat) (hl : l < 64) (h : (s.linkTime l).Reports w) :
    ((s.followSymbol l x).linkTime l).Reports w := by
  unfold State.followSymbol
  split
  case h_1 =>
    split
    · split
      · rw [State.stepHall_linkTime _ _ hl, State.linkTime_setTime rfl, State.draw_linkTime, State.takeParent_linkTime]
        exact h
      · exact h
    · exact h
  case h_2 =>
    split
    · rw [State.leaveToFine_linkTime, State.takeParent_linkTime]
      exact h
    · exact h
  case h_3 =>
    split
    · rw [State.takeParent_linkTime]
      exact h
    · exact h

/-- What a symbol that fails its checks leaves: it is counted. -/
theorem State.receiveSymbol_bad {s : State} {l w : Nat} (at_ : Nat) (hrole : s.role l = 1) (hup : s.linkUp l = true)
    (hbad : symbolOk w = false) :
    s.receiveSymbol l w at_ = s.setTime fun t => { t with discarded := t.discarded + 1 } := by
  simp [State.receiveSymbol, hrole, hup, hbad]

theorem State.receiveSymbol_reports {s : State} {l w : Nat} (at_ : Nat) (hl : l < 64) (hrole : s.role l = 1)
    (hup : s.linkUp l = true) (hok : symbolOk w = true) : ((s.receiveSymbol l w at_).linkTime l).Reports w := by
  have hnote := s.noteSymbol_reports l w at_
  unfold State.receiveSymbol
  rw [if_neg (by simp [hrole, hup]), if_neg (by simp [hok])]
  dsimp only
  split
  · split
    · split
      · rw [State.demote_linkTime, State.linkTime_setTime rfl]
        exact hnote
      · exact hnote
    · exact hnote
  · exact State.followSymbol_reports w hl hnote

theorem exec_timeSymbolReceive {s : State} {link : Link} {symbol : BitVec 192} {arrival : BitVec 70}
    (hdown : s.down = false) : exec (.timeSymbolReceive link symbol arrival) s =
      .next ((s.reach64 arrival.toNat).receiveSymbol link symbol.toNat arrival.toNat) :=
  exec_of_act (f := fun s => (s.reach64 arrival.toNat).receiveSymbol link symbol.toNat arrival.toNat) rfl hdown

/-- Settles O16: the record of the link takes the symbol, and what follows on it keeps that record. -/
theorem timeSymbolIsReceived : Obligations.TimeSymbolIsReceived := by
  intro s link symbol arrival hdown hrole hup
  have hrole' : (s.reach64 arrival.toNat).role link = 1 := (State.reach64_obj ..).trans hrole
  have hup' : (s.reach64 arrival.toNat).linkUp link = true := by
    rw [State.linkUp, State.linkState, State.reach64_obj]
    exact hup
  refine ⟨_, exec_timeSymbolReceive hdown, ?_⟩
  dsimp only
  by_cases hok : symbolOk symbol.toNat = true
  · rw [if_pos ((symbolOk_iff _).mp hok)]
    exact State.receiveSymbol_reports _ link.isLt hrole' hup' hok
  · rw [if_neg (mt (symbolOk_iff _).mpr hok), State.receiveSymbol_bad _ hrole' hup' (Bool.eq_false_iff.mpr hok)]
    refine ⟨?counted, ?records, ?silent⟩
    case counted => rw [State.setTime_time, State.reach64_time_discarded]
    case records => rw [State.setTime_time, State.reach64_time']
    case silent => rw [State.setTime_out, State.reach64_out]

end Sys2Proof.Machine

/-!
Lock, the loss of a parent, and holdover (O17).
-/
namespace Sys2Proof.Machine

/-- One record, from a state with the same fault handling. -/
theorem Logged.log_of_faults {s u : State} (hfaults : u.faults = s.faults) (ev dom : Nat) (items : List (Nat × Nat))
    (hev : ev < 2 ^ 16) : Logged s (u.log ev dom items) [ev] :=
  logged1 (congrArg Faults.ring hfaults.symm) ev dom items hev

/-! ### The time-loss fault (R47) -/

theorem State.timeLoss_frame (s : State) :
    Only [.out, .hold, .links, .ctxs, .objects, .ring, .msix, .alert] s s.timeLoss :=
  State.timeLoss_only (Only.refl _ s) (by decide)

theorem State.timeLoss_time (s : State) : s.timeLoss.time = s.time := s.timeLoss_frame.2 .time (by decide)

theorem State.timeLoss_hall (s : State) : s.timeLoss.hall = s.hall := s.timeLoss_frame.2 .hall (by decide)

/-- Without a job there is nothing that the loss of time could fail. -/
theorem State.timeLoss_of_unloaded {s : State} (hloaded : s.job.loaded = false) : s.timeLoss = s := by
  simp [State.timeLoss, hloaded]

/-- In a job the loss of time is logged and fails the stage, with cause 0x0A. -/
theorem State.timeLoss_fails {s : State} (hloaded : s.job.loaded = true) (hstage : s.obj 0x9003 3 ≠ 1) :
    Logged s s.timeLoss [0x9010, 0x900A] ∧ s.timeLoss.obj 0x9003 3 = 1 ∧ s.timeLoss.obj 0x9003 4 = 0x0A := by
  rw [State.timeLoss, if_pos hloaded]
  have hlogged : Logged s ((s.faultCount 0x0A).log 0x900A) [0x900A] :=
    Logged.log_of_faults (State.count_faults ..) 0x900A 0 [] (by decide)
  have hloaded' : ((s.faultCount 0x0A).log 0x900A).job.loaded = true := by
    rwa [State.log_job, State.faultCount, State.count_job]
  have hstage' : ((s.faultCount 0x0A).log 0x900A).obj 0x9003 3 ≠ 1 := by
    rwa [State.log_obj _ _ _ (by decide) (by decide), State.faultCount, State.obj_count, if_neg (by decide)]
  obtain ⟨hfailed, hcause, -, -⟩ := jobFail_failed 0x0A hloaded' hstage'
  exact ⟨hlogged.trans (jobFail_logged 0x0A hloaded' hstage'), hfailed, hcause⟩

/-! ### An estimate (R44) -/

theorem State.publishDelays_time (s : State) : s.publishDelays.time = s.time :=
  (State.publishDelays_only (parts := [.out, .hold, .links, .fabric, .objects, .ring]) (Only.refl _ s)
    (by decide)).2 .time (by decide)

/-- The time unit after LOCKED or HOLDOVER has been left (R47). -/
theorem State.leaveToFine_time (s : State) (fromLocked : Bool) :
    (s.leaveToFine fromLocked).time = { s.time with state := .fine, within := none, beyond := 0 } := by
  unfold State.leaveToFine
  dsimp only
  split
  · rw [State.timeLoss_time, State.log_time, State.setTime_time]
  · rw [State.log_time, State.setTime_time]

/-- The estimate that moves the lock state stays as it was taken. -/
theorem State.judgeEstimate_estimate (s : State) (e : Int) :
    (s.judgeEstimate e).time.offsetEst = s.time.offsetEst ∧ (s.judgeEstimate e).time.freqAdj = s.time.freqAdj ∧
      (s.judgeEstimate e).time.samples = s.time.samples := by
  unfold State.judgeEstimate
  dsimp only
  split
  case h_1 => split <;> exact ⟨rfl, rfl, rfl⟩
  case h_2 => exact ⟨rfl, rfl, rfl⟩
  case h_3 =>
    generalize (if 2 * (s.obj 0x2003 3 : Int) < e.natAbs then s.time.beyond + 1 else 0) = n
    split
    · rw [State.leaveToFine_time]
      exact ⟨rfl, rfl, rfl⟩
    · exact ⟨rfl, rfl, rfl⟩
  case h_4 => exact ⟨rfl, rfl, rfl⟩

theorem State.estimate_time {s : State} (hsamples : 64 ≤ s.time.samples.length) (hroot : s.time.isRoot = false) :
    s.estimate.time.offsetEst = Config.offsetFilter s.time.samples ∧
      s.estimate.time.freqAdj = max (-100000) (min 100000 (Config.freqFilter s.time.samples)) ∧
      s.estimate.time.samples = [] := by
  unfold State.estimate
  dsimp only
  rw [State.publishDelays_time, if_neg (by simp [hroot, hsamples])]
  exact State.judgeEstimate_estimate ..

theorem exec_offsetEstimate {s : State} (hdown : s.down = false) : exec .offsetEstimate s = .next s.estimate :=
  exec_of_act rfl hdown

/-! ### LOCKED is entered (R46) -/

theorem State.enterLocked_time (s : State) :
    s.enterLocked.time = { s.time with state := .locked, everLocked := true, beyond := 0 } := State.log_time ..

theorem State.enterLocked_hall (s : State) : s.enterLocked.hall = s.hall := State.log_hall ..

theorem State.enterLocked_logged (s : State) : Logged s s.enterLocked [0x2001] :=
  logged1 rfl 0x2001 0 [] (by decide)

theorem exec_lockDwellExpire {s : State} {since : Nat} {p : Link} (hdown : s.down = false)
    (hfine : s.time.state = .fine) (hwithin : s.time.within = some since) (hparent : s.time.parent = some p)
    (hlocked : (s.linkTime p).state = 3) :
    exec .lockDwellExpire s = .next (s.reach (since + 1000 * s.obj 0x2003 4)).enterLocked := by
  change execLockDwellExpire s = _
  simp only [execLockDwellExpire, act_up hdown, hfine, hwithin, hparent, hlocked, if_true]

/-! ### A parent that is lost (R50) -/

theorem State.bestParent_eq_none {s : State} (hnone : ∀ l < 64, s.candidate l = false) : s.bestParent = none := by
  have hempty : (List.range 64).filter s.candidate = [] := by simpa using hnone
  rw [State.bestParent, hempty]
  rfl

/-- With no other to take, a module that has had time holds over without a parent. -/
theorem State.loseParent_of_alone {s : State} (hunset : s.time.state ≠ .unset)
    (hholdover : s.time.state ≠ .holdover) (hnone : ∀ l < 64, s.candidate l = false) :
    s.loseParent = (s.setTime fun t => { t with
      parent := none, tier := 7, samples := [], state := .holdover, holdoverAt := s.now }).log 0x2003 := by
  have hnone' : ∀ l < 64,
      (s.setTime fun t => { t with parent := none, tier := 7, samples := [] }).candidate l = false := hnone
  unfold State.loseParent
  dsimp only
  rw [State.bestParent_eq_none hnone', State.setTime_time]
  dsimp only
  rw [if_pos (by simp [hunset, hholdover])]
  rfl

theorem exec_parentLost {s : State} {p : Link} (hdown : s.down = false) (hparent : s.time.parent = some p)
    (hlost : s.linkUp p = false) : exec .parentLost s = .next s.loseParent := by
  change execParentLost s = _
  simp [execParentLost, act_up hdown, State.parentLink, hparent, hlost]

/-- The parent's symbols have stayed away for 4 µs. -/
def State.silentParent (s : State) (p : Link) : State :=
  (s.reach64 ((s.linkTime p).rxAt + 256000)).setLinkTime p { s.linkTime p with heard := false }

theorem State.setLinkTime_state (s : State) (l : Nat) (v : LinkTime) :
    (s.setLinkTime l v).time.state = s.time.state := rfl

theorem State.silentParent_state (s : State) (p : Link) : (s.silentParent p).time.state = s.time.state := by
  rw [State.silentParent, State.setLinkTime_state, State.reach64_time_state]

theorem State.silentParent_hall (s : State) (p : Link) :
    (s.silentParent p).hall = max s.hall ((s.linkTime p).rxAt + 256000) := by
  rw [State.silentParent, State.setLinkTime_hall, State.reach64_hall']

theorem State.silentParent_faults (s : State) (p : Link) : (s.silentParent p).faults = s.faults := by
  rw [State.silentParent, State.setLinkTime_faults, State.reach64_faults]

theorem exec_symbolTimeout {s : State} {p : Link} (hdown : s.down = false) (hparent : s.time.parent = some p) :
    exec .symbolTimeout s = .next (s.silentParent p).loseParent := by
  change execSymbolTimeout s = _
  simp only [execSymbolTimeout, act_up hdown, State.parentLink, hparent, Option.map_some]
  rfl

/-- A link that is silent is no candidate; the others are as they were. -/
theorem State.silentParent_candidate {s : State} {p : Link}
    (hnone : ∀ l < 64, l ≠ (p : Nat) → s.candidate l = false) :
    ∀ l < 64, (s.silentParent p).candidate l = false := by
  intro l hl
  by_cases hlp : l = p
  · subst hlp
    simp [State.candidate, State.silentParent]
  · have hrecord : (s.silentParent p).linkTime l = s.linkTime l := by
      rw [State.silentParent, State.linkTime_setLinkTime_other _ hlp, State.reach64_linkTime]
    rw [← hnone l hl hlp, State.candidate, hrecord]
    simp [State.candidate, State.silentParent, State.setLinkTime, State.role, State.linkUp, State.linkState]

theorem exec_holdoverLimitExpire {s : State} (hdown : s.down = false) (hholdover : s.time.state = .holdover) :
    exec .holdoverLimitExpire s =
      .next ((s.reach (s.time.holdoverAt + 1000 * s.obj 0x2003 2)).log 0x2004).timeLoss := by
  change execHoldoverLimitExpire s = _
  rw [execHoldoverLimitExpire, act_up hdown, if_pos hholdover]

/-- Settles O17, from what an estimate, LOCKED and a lost parent leave in the time unit. -/
theorem lockAndHoldover : Obligations.LockAndHoldover := by
  intro s hdown
  refine ⟨?estimate, ?dwell, ?lost, ?silent, ?limit⟩
  case estimate => exact fun hsamples hroot => ⟨_, exec_offsetEstimate hdown, State.estimate_time hsamples hroot⟩
  case dwell =>
    intro since p hfine hwithin hparent hlocked
    refine ⟨_, exec_lockDwellExpire hdown hfine hwithin hparent hlocked, ?_, ?_, ?_, ?_⟩
    · rw [State.enterLocked_time]
    · rw [State.enterLocked_time]
    · rw [State.enterLocked_hall, State.reach_hall']
    · exact (State.enterLocked_logged _).congr_left (congrArg Faults.ring (State.reach_faults s _).symm)
  case lost =>
    intro p hparent hlost hunset hholdover hnone
    refine ⟨_, exec_parentLost hdown hparent hlost, ?_⟩
    rw [State.loseParent_of_alone hunset hholdover hnone, State.log_time]
    exact ⟨rfl, rfl, rfl, rfl, logged1 rfl 0x2003 0 [] (by decide)⟩
  case silent =>
    intro p hparent hunset hholdover hnone
    rw [← s.silentParent_state p] at hunset hholdover
    refine ⟨_, exec_symbolTimeout hdown hparent, ?_⟩
    rw [State.loseParent_of_alone hunset hholdover (State.silentParent_candidate hnone), State.log_time,
      State.log_linkTime, State.log_hall]
    refine ⟨rfl, rfl, ?hall, ?heard, ?logged⟩
    case hall => rw [State.setTime_hall, State.silentParent_hall]
    case heard => rw [State.linkTime_setTime rfl, State.silentParent, State.linkTime_setLinkTime]
    case logged =>
      exact Logged.log_of_faults ((State.setTime_faults ..).trans (s.silentParent_faults p)) 0x2003 0 [] (by decide)
  case limit =>
    intro hholdover
    refine ⟨_, exec_holdoverLimitExpire hdown hholdover, ?hall, fun hloaded => ?idle, fun hloaded hstage => ?job⟩
    case hall => rw [State.timeLoss_hall, State.log_hall, State.reach_hall']
    case idle =>
      rw [State.timeLoss_of_unloaded (by rwa [State.log_job, State.reach_job])]
      exact Logged.log_of_faults (State.reach_faults ..) 0x2004 0 [] (by decide)
    case job =>
      have hstage' : ((s.reach (s.time.holdoverAt + 1000 * s.obj 0x2003 2)).log 0x2004).obj 0x9003 3 ≠ 1 := by
        rwa [State.log_obj _ _ _ (by decide) (by decide), State.reach_obj]
      obtain ⟨hlogged, hfailed, hcause⟩ := State.timeLoss_fails (by rwa [State.log_job, State.reach_job]) hstage'
      exact ⟨(Logged.log_of_faults (State.reach_faults ..) 0x2004 0 [] (by decide)).trans hlogged, hfailed, hcause⟩

end Sys2Proof.Machine

/-!
The root's source (O18), and roots at work (O19).
-/
namespace Sys2Proof.Machine

/-! ### Reaching an instant (assumption 3) -/

@[simp] theorem State.reach64_time_early (s : State) (n : Nat) : (s.reach64 n).time.early = s.time.early := by
  rw [State.reach64_time']

@[simp] theorem State.reach64_time_tied (s : State) (n : Nat) : (s.reach64 n).time.tied = s.time.tied := by
  rw [State.reach64_time']

@[simp] theorem State.reach64_source (s : State) (n : Nat) : (s.reach64 n).source = s.source := State.reach64_obj ..

@[simp] theorem State.reach_time_early (s : State) (n : Nat) : (s.reach n).time.early = s.time.early :=
  s.reach64_time_early _

@[simp] theorem State.reach_ownIndex (s : State) (n : Nat) : (s.reach n).ownIndex = s.ownIndex := by
  simp [State.ownIndex, State.moduleNumber]

@[simp] theorem State.reach_lowerBeating (s : State) (n j : Nat) (t : Option Nat) :
    (s.reach n).lowerBeating j t = s.lowerBeating j t := by
  simp [State.lowerBeating]

/-! ### The epoch in force (R37, R57) -/

theorem State.epoch_of_started {s : State} (hstarted : s.time.started = true) : s.epoch = s.time.epoch := by
  simp [State.epoch, hstarted]

theorem State.epoch_of_unstarted {s : State} (hstarted : s.time.started = false) (hunset : s.time.state = .unset) :
    s.epoch = s.obj 0x2002 2 := by
  simp [State.epoch, hstarted, hunset]

/-! ### A root starts hall time (R42) -/

theorem State.startRoot_time (s : State) (i : Nat) (valid : Bool) : (s.startRoot i valid).time = { s.time with
    epoch := s.obj 0x2002 2, isRoot := true, started := true, tier := 0, parent := none, rootIndex := some i
    samples := [], acquired := valid, taiValid := valid, extLost := false, misses := 0, tied := valid, early := none
    lastBeatTick := s.now, beatAt := s.now, beatLost := false
    state := .locked, everLocked := true, beyond := 0 } := by
  rw [State.startRoot, State.enterLocked_time]
  rfl

theorem State.startRoot_hall (s : State) (i : Nat) (valid : Bool) : (s.startRoot i valid).hall = s.hall :=
  State.enterLocked_hall _

theorem State.startRoot_logged (s : State) (i : Nat) (valid : Bool) : Logged s (s.startRoot i valid) [0x2001] :=
  (State.enterLocked_logged _).congr_left rfl

/-- Without a source the root starts from its own counter. -/
theorem State.coldStart_free {s : State} (i : Nat) (hearly : s.time.early = none) :
    s.coldStart i = s.startRoot i false := by
  simp only [State.coldStart, hearly]

/-- With one it sets the counter to TAI less the epoch. -/
theorem State.coldStart_tai {s : State} (i : Nat) {tai : Int} {at_ : Nat} (hearly : s.time.early = some (tai, at_)) :
    s.coldStart i = (s.stepHall ((s.hall : Int) + (tai - s.epoch) * 64 - at_).toNat).startRoot i true := by
  simp only [State.coldStart, hearly]

/-- The module after a cold start: the active root, LOCKED, with TAI where a source gave it. -/
theorem State.coldStart_starts (s : State) (i : Nat) :
    (s.coldStart i).time.isRoot = true ∧ (s.coldStart i).time.state = .locked ∧ (s.coldStart i).time.tier = 0 ∧
      (s.coldStart i).time.rootIndex = some i ∧ (s.coldStart i).time.epoch = s.obj 0x2002 2 ∧
      (s.coldStart i).time.taiValid = s.time.early.isSome ∧ Logged s (s.coldStart i) [0x2001] := by
  cases hearly : s.time.early with
  | none =>
    rw [State.coldStart_free i hearly, State.startRoot_time]
    exact ⟨rfl, rfl, rfl, rfl, rfl, rfl, State.startRoot_logged ..⟩
  | some source =>
    rw [State.coldStart_tai i hearly, State.startRoot_time]
    exact ⟨rfl, rfl, rfl, rfl, rfl, rfl, (State.startRoot_logged ..).congr_left rfl⟩

theorem State.coldStart_hall_free {s : State} (i : Nat) (hearly : s.time.early = none) :
    (s.coldStart i).hall = s.hall := by
  rw [State.coldStart_free i hearly, State.startRoot_hall]

theorem State.coldStart_hall_tai {s : State} (i : Nat) {tai : Int} {at_ : Nat}
    (hearly : s.time.early = some (tai, at_)) :
    (s.coldStart i).hall = ((s.hall : Int) + (tai - s.epoch) * 64 - at_).toNat := by
  rw [State.coldStart_tai i hearly, State.startRoot_hall]
  rfl

/-! ### The reference is lost (R41) -/

theorem State.loseReference_of_known {s : State} (hlost : s.time.extLost = false) : s.loseReference =
    (s.setTime fun t => { t with extLost := true, taiValid := false, acquired := false }).log 0x2008 := by
  simp [State.loseReference, hlost]

theorem State.loseReference_misses (s : State) : s.loseReference.time.misses = s.time.misses := by
  unfold State.loseReference
  split
  · rfl
  · rw [State.log_time, State.setTime_time]

theorem State.missEdge_hall (s : State) : s.missEdge.hall = s.hall :=
  (State.missEdge_only (parts := [.time, .objects, .ring]) (Only.refl _ s) (by decide)).2 .hall (by decide)

theorem State.missEdge_misses (s : State) : s.missEdge.time.misses = s.time.misses + 1 := by
  unfold State.missEdge
  dsimp only
  split
  · rw [State.loseReference_misses, State.setTime_time]
  · rfl

/-- The third miss in a row loses the reference. -/
theorem State.missEdge_loses {s : State} (hlost : s.time.extLost = false) (hmisses : 2 ≤ s.time.misses) :
    s.missEdge.time.extLost = true ∧ s.missEdge.time.taiValid = false ∧ Logged s s.missEdge [0x2008] := by
  have hthird : 3 ≤ s.time.misses + 1 := by omega
  unfold State.missEdge
  dsimp only
  rw [State.setTime_time, if_pos hthird, State.loseReference_of_known (by exact hlost), State.log_time]
  exact ⟨rfl, rfl, Logged.log_of_faults (by simp only [State.setTime_faults]) 0x2008 0 [] (by decide)⟩

theorem State.missEdge_waits {s : State} (hmisses : s.time.misses < 2) :
    s.missEdge = s.setTime fun t => { t with misses := t.misses + 1 } := by
  have hbefore : ¬ 3 ≤ s.time.misses + 1 := by omega
  unfold State.missEdge
  dsimp only
  rw [State.setTime_time, if_neg hbefore]

/-! ### An edge (R41) -/

/-- A root's own time at the edge, with what is left of a slew, and the epoch (log entry 104). -/
def State.edgeTime (s : State) (at_ : Nat) : Int := (at_ : Int) + s.time.epoch * 64 + s.time.slew

/-- A root tied to its source takes the edge for the nearest second, or counts it as a miss. -/
theorem State.edge_of_tied {s : State} (at_ : Nat) (hsource : s.source = 1) (hroot : s.time.isRoot = true)
    (hstarted : s.time.started = true) (htied : s.time.tied = true) :
    s.edge at_ = if 6400 < (s.edgeTime at_ - nearestSecond (s.edgeTime at_) * 64).natAbs then s.missEdge
      else s.discipline (nearestSecond (s.edgeTime at_)) at_ := by
  have htakes : s.takesSource = true := by simp [State.takesSource, hsource, hroot]
  unfold State.edge
  dsimp only
  rw [if_neg (by simp [hsource, htakes]), if_pos htied, State.epoch_of_started hstarted, State.acquire,
    if_pos hstarted]
  rfl

/-- What a started root takes from its source (R37, R42). -/
theorem State.discipline_takes (s : State) (tai : Int) (at_ : Nat) (hstarted : s.time.started = true) :
    (s.discipline tai at_).time.acquired = true ∧ (s.discipline tai at_).time.taiValid = true ∧
      (s.discipline tai at_).time.misses = 0 ∧
      (s.discipline tai at_).time.taiError = ((at_ : Int) + (s.time.epoch - tai) * 64) / 64 ∧
      (s.discipline tai at_).time.slew = -((at_ : Int) + (s.time.epoch - tai) * 64) ∧
      -100000 ≤ (s.discipline tai at_).time.freqAdj ∧ (s.discipline tai at_).time.freqAdj ≤ 100000 := by
  rw [State.discipline, State.epoch_of_started hstarted]
  exact ⟨rfl, rfl, rfl, rfl, rfl, le_max_left _ _, max_le (by decide) (min_le_left _ _)⟩

theorem exec_ppsEdge {s : State} {edge : BitVec 70} (hdown : s.down = false) :
    exec (.ppsEdge edge) s = .next ((s.reach64 edge.toNat).edge edge.toNat) :=
  exec_of_act (f := fun s => (s.reach64 edge.toNat).edge edge.toNat) rfl hdown

theorem exec_ppsEdgeMissed {s : State} (hdown : s.down = false) (hsource : s.source = 1)
    (hroot : s.time.isRoot = true) : exec .ppsEdgeMissed s = .next s.missEdge := by
  change execPpsEdgeMissed s = _
  rw [execPpsEdgeMissed, act_up hdown, if_pos ⟨hsource, hroot⟩]

/-! ### PTP (R40) -/

theorem exec_ptpMessage {s : State} {domain : BitVec 8} {msg : PtpMsg} (hdown : s.down = false) :
    exec (.ptpMessage domain msg) s = .next (s.ptpMessage domain.toNat msg) :=
  exec_of_act (f := fun s => s.ptpMessage domain.toNat msg) rfl hdown

/-- A message in the module's own domain, while PTP is not ignored. -/
theorem State.ptpMessage_sync {s : State} {domain : Nat} (n : BitVec 16) (two : Bool) (t1 : BitVec 64)
    (hdomain : domain = s.obj 0x2002 3) (hsource : s.source ≠ 0) :
    s.ptpMessage domain (.sync n two t1) =
      let u := s.setTime fun t => { t with ptpSync := some (n.toNat, if two then none else some t1.toNat, s.hall) }
      if two then u else u.askDelay := by
  unfold State.ptpMessage
  rw [if_neg (by simp [hdomain, hsource])]

theorem State.ptpMessage_followUp {s : State} {domain t2 : Nat} {n : BitVec 16} (t1 : BitVec 64)
    (hdomain : domain = s.obj 0x2002 3) (hsource : s.source ≠ 0) (hsync : s.time.ptpSync = some (n.toNat, none, t2)) :
    s.ptpMessage domain (.followUp n t1) =
      (s.setTime fun t => { t with ptpSync := some (n.toNat, some t1.toNat, t2) }).askDelay := by
  unfold State.ptpMessage
  rw [if_neg (by simp [hdomain, hsource])]
  simp only [hsync, if_true]

theorem State.ptpMessage_delayResp {s : State} {domain k t1 t2 t3 : Nat} {n : BitVec 16} (t4 : BitVec 64)
    (hdomain : domain = s.obj 0x2002 3) (hsource : s.source ≠ 0) (hsync : s.time.ptpSync = some (k, some t1, t2))
    (hreq : s.time.ptpReq = some (n.toNat, t3)) :
    s.ptpMessage domain (.delayResp n t4) =
      (s.setTime fun t => { t with ptpReq := none }).ptpExchange t1 t2 t3 t4.toNat := by
  unfold State.ptpMessage
  rw [if_neg (by simp [hdomain, hsource])]
  simp only [hsync, hreq, if_true]

/-- Where PTP labels seconds only, its time is kept. -/
theorem State.ptpTime_of_label {s : State} (tai : Int) (at_ : Nat) (hsource : s.source = 1) :
    s.ptpTime tai at_ = s.setTime fun t => { t with ptp := some (tai, at_) } := by
  have hlabel : ¬ (s.source = 2 ∧ (s.setTime fun t => { t with ptp := some (tai, at_) }).takesSource = true) := by
    simp [hsource]
  exact if_neg hlabel

/-- Where it is the source of the first root, within the wait of R42, hall time starts from it. -/
theorem State.ptpTime_of_source {s : State} (tai : Int) (at_ : Nat) (hsource : s.source = 2)
    (hindex : s.ownIndex = some 0) (hstarted : s.time.started = false) (hunset : s.time.state = .unset)
    (hstage : 2 ≤ s.boot.stage) (hwait : at_ ≤ 64 * sourceWait) :
    s.ptpTime tai at_ = ((s.setTime fun t => { t with ptp := some (tai, at_) }).setTime fun t =>
      { t with early := some (tai, at_) }).coldStart 0 := by
  have htakes : (s.setTime fun t => { t with ptp := some (tai, at_) }).takesSource = true := by
    have hindex' : (s.setTime fun t => { t with ptp := some (tai, at_) }).ownIndex = some 0 := hindex
    have hsource' : (s.setTime fun t => { t with ptp := some (tai, at_) }).source = 2 := hsource
    simp [State.takesSource, hindex', hsource', hstarted, hunset, hstage]
  have hsource' : (s.setTime fun t => { t with ptp := some (tai, at_) }).source = 2 := hsource
  unfold State.ptpTime
  dsimp only
  rw [if_pos ⟨hsource', htakes⟩, State.acquire, State.setTime_time, hstarted]
  dsimp only
  rw [decide_eq_true hwait]
  exact if_neg (not_not_intro hindex)

/-- TAI at this instant, in 1/64 ns, by the exchange of R40: t1 and t4 are the master's, in ns. -/
def State.ptpTai (s : State) (t1 t2 t3 t4 : Nat) : Int := s.hall - (((t2 : Int) - 64 * t1) - (64 * t4 - t3)) / 2

/-- The counter at the last whole nanosecond of TAI. -/
def State.ptpAt (s : State) (t1 t2 t3 t4 : Nat) : Nat := s.hall - (s.ptpTai t1 t2 t3 t4 % 64).toNat

theorem State.setTime_ptpTai (s : State) (f : TimeUnit → TimeUnit) (t1 t2 t3 t4 : Nat) :
    (s.setTime f).ptpTai t1 t2 t3 t4 = s.ptpTai t1 t2 t3 t4 := by
  rw [State.ptpTai, State.setTime_hall, State.ptpTai]

theorem State.setTime_ptpAt (s : State) (f : TimeUnit → TimeUnit) (t1 t2 t3 t4 : Nat) :
    (s.setTime f).ptpAt t1 t2 t3 t4 = s.ptpAt t1 t2 t3 t4 := by
  rw [State.ptpAt, State.setTime_hall, State.setTime_ptpTai, State.ptpAt]

theorem State.ptpExchange_eq (s : State) (t1 t2 t3 t4 : Nat) :
    s.ptpExchange t1 t2 t3 t4 = s.ptpTime (s.ptpTai t1 t2 t3 t4 / 64) (s.ptpAt t1 t2 t3 t4) := rfl

/-- The answer of the master labels seconds (R40). -/
theorem State.ptpMessage_delayResp_label {s : State} {domain k t1 t2 t3 : Nat} {n : BitVec 16} (t4 : BitVec 64)
    (hdomain : domain = s.obj 0x2002 3) (hsource : s.source = 1) (hsync : s.time.ptpSync = some (k, some t1, t2))
    (hreq : s.time.ptpReq = some (n.toNat, t3)) :
    s.ptpMessage domain (.delayResp n t4) = (s.setTime fun t => { t with ptpReq := none }).setTime fun t =>
      { t with ptp := some (s.ptpTai t1 t2 t3 t4.toNat / 64, s.ptpAt t1 t2 t3 t4.toNat) } := by
  rw [State.ptpMessage_delayResp t4 hdomain (by omega) hsync hreq, State.ptpExchange_eq,
    State.setTime_ptpTai, State.setTime_ptpAt]
  exact State.ptpTime_of_label _ _ hsource

/-- The answer of the master starts the first root, with PTP as its source (R42). -/
theorem State.ptpMessage_delayResp_source {s : State} {domain k t1 t2 t3 : Nat} {n : BitVec 16} (t4 : BitVec 64)
    (hdomain : domain = s.obj 0x2002 3) (hsource : s.source = 2) (hsync : s.time.ptpSync = some (k, some t1, t2))
    (hreq : s.time.ptpReq = some (n.toNat, t3)) (hindex : s.ownIndex = some 0) (hstarted : s.time.started = false)
    (hunset : s.time.state = .unset) (hstage : 2 ≤ s.boot.stage)
    (hwait : s.ptpAt t1 t2 t3 t4.toNat ≤ 64 * sourceWait) :
    ∃ u : State, s.ptpMessage domain (.delayResp n t4) = u.coldStart 0 ∧ u.hall = s.hall ∧
      u.epoch = s.obj 0x2002 2 ∧
      u.time.early = some (s.ptpTai t1 t2 t3 t4.toNat / 64, s.ptpAt t1 t2 t3 t4.toNat) ∧
      u.obj 0x2002 2 = s.obj 0x2002 2 ∧ u.faults = s.faults := by
  rw [State.ptpMessage_delayResp t4 hdomain (by omega) hsync hreq, State.ptpExchange_eq,
    State.setTime_ptpTai, State.setTime_ptpAt]
  refine ⟨_, State.ptpTime_of_source _ _ hsource hindex hstarted hunset hstage hwait, ?hall, ?epoch, ?early, ?obj,
    ?faults⟩
  case hall => simp only [State.setTime_hall]
  case epoch =>
    rw [State.epoch_of_unstarted (by simpa only [State.setTime_time] using hstarted)
      (by simpa only [State.setTime_time] using hunset), State.setTime_obj, State.setTime_obj, State.setTime_obj]
  case early => simp only [State.setTime_time]
  case obj => simp only [State.setTime_obj]
  case faults => simp only [State.setTime_faults]

/-- The instant at which the loss of PTP is found, in 1/64 ns (R41). -/
def State.ptpLossAt (s : State) : Nat := s.time.ptp.elim 0 (·.2) + 192000000000

theorem exec_ptpLossTimeout {s : State} (hdown : s.down = false) (hsource : s.source = 2)
    (hroot : s.time.isRoot = true) : exec .ptpLossTimeout s = .next (s.reach64 s.ptpLossAt).loseReference := by
  change execPtpLossTimeout s = _
  rw [execPtpLossTimeout, act_up hdown, if_pos ⟨hsource, hroot⟩, State.ptpLossAt]
  cases s.time.ptp <;> simp only [Option.elim_none, Option.elim_some]

theorem exec_rootSourceWaitExpire {s : State} (hdown : s.down = false) (hindex : s.ownIndex = some 0)
    (hstarted : s.time.started = false) (hunset : s.time.state = .unset) :
    exec .rootSourceWaitExpire s = .next ((s.reach sourceWait).coldStart 0) := by
  change execRootSourceWaitExpire s = _
  rw [execRootSourceWaitExpire, act_up hdown, if_pos ⟨hindex, by simp [hstarted], hunset⟩]

/-- Settles O18, from what an edge, a PTP exchange and a cold start leave in the time unit. -/
theorem rootSource : Obligations.RootSource := by
  intro s hdown
  refine ⟨?edge, ?missed, ?ptp, ?ptpLoss, ?wait⟩
  case edge =>
    intro edge hsource hroot hstarted htied own sec
    have hown : (s.reach64 edge.toNat).edgeTime edge.toNat = own := by
      rw [State.edgeTime, State.reach64_time_epoch]
    refine ⟨_, exec_ppsEdge hdown, ?_⟩
    rw [State.edge_of_tied edge.toNat (by simpa using hsource) (by simpa using hroot) (by simpa using hstarted)
      (by simpa using htied), hown]
    by_cases hfar : 6400 < (own - nearestSecond own * 64).natAbs
    · rw [if_pos hfar]
      refine ⟨?_, fun hnear => absurd hnear (by omega), fun _ => ?_⟩
      · rw [State.missEdge_hall, State.reach64_hall']
      · rw [State.missEdge_misses, State.reach64_time_misses]
    · rw [if_neg hfar]
      refine ⟨State.reach64_hall' _, fun _ => ?_, fun h => absurd h hfar⟩
      have htakes := (s.reach64 edge.toNat).discipline_takes sec edge.toNat (by simpa using hstarted)
      rwa [State.reach64_time_epoch] at htakes
  case missed =>
    intro hsource hroot hlost
    refine ⟨_, exec_ppsEdgeMissed hdown hsource hroot, State.missEdge_misses s,
      fun hmisses => State.missEdge_loses hlost hmisses, fun hmisses => ?_⟩
    rw [State.missEdge_waits hmisses]
    exact ⟨hlost, rfl⟩
  case ptp =>
    intro domain hdomain hsource
    refine ⟨?sync, ?followUp, ?answer⟩
    case sync =>
      intro n two t1
      refine ⟨_, exec_ptpMessage hdown, ?_⟩
      rw [State.ptpMessage_sync n two t1 hdomain hsource]
      cases two
      · exact ⟨rfl, rfl, fun h => absurd h (by decide), fun _ => ⟨rfl, rfl⟩⟩
      · exact ⟨rfl, rfl, fun _ => rfl, fun h => absurd h (by decide)⟩
    case followUp =>
      intro n t1 t2 hsync
      refine ⟨_, exec_ptpMessage hdown, ?_⟩
      rw [State.ptpMessage_followUp t1 hdomain hsource hsync]
      exact ⟨rfl, rfl, rfl⟩
    case answer =>
      intro n t4 k t1 t2 t3 hsync hreq tai at_
      refine ⟨fun hlabel => ⟨_, exec_ptpMessage hdown, ?label⟩,
        fun hptp hindex hstarted hunset hstage hwait => ⟨_, exec_ptpMessage hdown, ?start⟩⟩
      case label =>
        rw [State.ptpMessage_delayResp_label t4 hdomain hlabel hsync hreq]
        exact ⟨rfl, rfl, rfl, rfl⟩
      case start =>
        obtain ⟨u, hu, hhall, hepoch, hearly, hobj, hfaults⟩ :=
          State.ptpMessage_delayResp_source t4 hdomain hptp hsync hreq hindex hstarted hunset hstage hwait
        obtain ⟨hroot, hlocked, -, -, hstartEpoch, htai, hlogged⟩ := u.coldStart_starts 0
        rw [hu]
        refine ⟨?hall, hroot, hlocked, by rw [htai, hearly]; rfl, hstartEpoch.trans hobj,
          hlogged.congr_left (congrArg Faults.ring hfaults.symm)⟩
        rw [State.coldStart_hall_tai 0 hearly, hhall, hepoch]
        rfl
  case ptpLoss =>
    intro hsource hroot hlost last
    have hlast : s.ptpLossAt = last + 192000000000 := by
      simp only [State.ptpLossAt, last]
      cases s.time.ptp <;> simp only [Option.elim_none, Option.elim_some]
    refine ⟨_, exec_ptpLossTimeout hdown hsource hroot, ?_⟩
    rw [State.loseReference_of_known (by simpa using hlost), State.log_hall, State.log_time, State.setTime_hall,
      State.reach64_hall', hlast]
    exact ⟨rfl, rfl, rfl,
      Logged.log_of_faults ((State.setTime_faults ..).trans (State.reach64_faults ..)) 0x2008 0 [] (by decide)⟩
  case wait =>
    intro hindex hstarted hunset
    obtain ⟨hroot, hlocked, htier, hrootIndex, hepoch, htai, hlogged⟩ := (s.reach sourceWait).coldStart_starts 0
    rw [State.reach_obj] at hepoch
    rw [State.reach_time_early] at htai
    refine ⟨_, exec_rootSourceWaitExpire hdown hindex hstarted hunset, hroot, hlocked, htier, hrootIndex, hepoch,
      hlogged.congr_left (congrArg Faults.ring (State.reach_faults ..).symm), fun hearly => ?free,
      fun tai at_ hearly => ?source⟩
    case free =>
      refine ⟨by rw [htai, hearly]; rfl, ?_⟩
      rw [State.coldStart_hall_free 0 (by rwa [State.reach_time_early]), State.reach_hall', sourceWait]
    case source =>
      refine ⟨by rw [htai, hearly]; rfl, ?_⟩
      rw [State.coldStart_hall_tai 0 (by rwa [State.reach_time_early]),
        State.epoch_of_unstarted (by simpa using hstarted) (by simpa using hunset), State.reach_obj, State.reach_hall',
        sourceWait]

/-! ### Roots at work (R45, R51) -/

theorem exec_rootBeatTick {s : State} (hdown : s.down = false) (hroot : s.time.isRoot = true) :
    exec .rootBeatTick s = .next ((s.reach (s.time.lastBeatTick + 10000)).setTime fun t => { t with
      rootBeat := (t.rootBeat + 1) % 65536, lastBeatTick := t.lastBeatTick + 10000
      beatAt := (s.reach (s.time.lastBeatTick + 10000)).now }) := by
  change execRootBeatTick s = _
  rw [execRootBeatTick, act_up hdown, if_pos hroot]

theorem exec_rootBeatTimeout {s : State} {a : Nat} (hdown : s.down = false) (hroot : s.time.isRoot = false)
    (hindex : s.time.rootIndex = some a) :
    exec .rootBeatTimeout s =
      .next ((s.reach (s.time.beatAt + 1000 * s.obj 0x2003 1)).setTime fun t => { t with beatLost := true }) := by
  change execRootBeatTimeout s = _
  rw [execRootBeatTimeout, act_up hdown, if_neg (by simp [hroot, hindex])]

/-- At failover module `j` becomes the root after its share of timeouts: one for the root `a`, and one for each listed
between the two. -/
theorem exec_rootPromote_failover {s : State} {a j : Nat} (hdown : s.down = false) (hown : s.ownIndex = some j)
    (hroot : s.time.isRoot = false) (hlocked : s.time.state = .locked) (hindex : s.time.rootIndex = some a)
    (haj : a < j) (hbeat : s.time.beatLost = true) (hlower : s.lowerBeating j (some s.time.beatAt) = false) :
    exec .rootPromote s =
      .next (((s.reach (s.time.beatAt + (j - a) * (1000 * s.obj 0x2003 1))).becomeRoot j).log 0x2006) := by
  have hshare : s.time.beatAt + 1000 * s.obj 0x2003 1 + (j - a - 1) * (1000 * s.obj 0x2003 1) =
      s.time.beatAt + (j - a) * (1000 * s.obj 0x2003 1) := by
    obtain ⟨k, rfl⟩ : ∃ k, j = a + 1 + k := Nat.exists_eq_add_of_le haj
    rw [show a + 1 + k - a - 1 = k by omega, show a + 1 + k - a = k + 1 by omega]
    ring
  change execRootPromote s = _
  simp only [execRootPromote, act_up hdown, hown, hroot, hlocked, hindex, haj, hbeat, hshare, State.reach_time_beatAt,
    State.reach_lowerBeating, hlower, true_or, and_self, if_true, if_false, Bool.false_eq_true]

/-- At cold start a listed module j > 0 starts hall time after 3.5 s and j timeouts. -/
theorem exec_rootPromote_coldStart {s : State} {j : Nat} (hdown : s.down = false) (hown : s.ownIndex = some j)
    (hj : 0 < j) (hroot : s.time.isRoot = false) (hstarted : s.time.started = false) (hunset : s.time.state = .unset)
    (hlower : s.lowerBeating j none = false) :
    exec .rootPromote s =
      .next (((s.reach (sourceWait + j * (1000 * s.obj 0x2003 1))).coldStart j).log 0x2006) := by
  change execRootPromote s = _
  simp [execRootPromote, act_up hdown, hown, hroot, hunset, hj, hstarted, hlower]

theorem exec_ppsOutPulse {s : State} (hdown : s.down = false) (hmode : s.obj 0x2006 1 = 0) (hpin : s.obj 0xB020 1 = 1) :
    exec .ppsOutPulse s = .next
      (((s.reach (max (s.time.lastPps + 1000000000) (roundUp s.now 1000000000))).setTime fun u =>
        { u with lastPps := max (s.time.lastPps + 1000000000) (roundUp s.now 1000000000) }).emit
        (.pulse (max (s.time.lastPps + 1000000000) (roundUp s.now 1000000000)) 1000000)) := by
  change execPpsOutPulse s = _
  rw [execPpsOutPulse, act_up hdown, if_pos ⟨hmode, hpin⟩]

/-! ### An EVENT of the timetable (R77) -/

/-- The state in which the EVENT of entry `i` of link `l` acts: at its time, and with this firing counted. -/
def State.fires (s : State) (l i due : Nat) : State :=
  (s.reach (due + s.lag)).markFired l i (Tbl.get 0 (s.engine l).fired i + 1)

/-- An EVENT that is due has its effect. -/
theorem onEvent_of_due {s : State} {is : Nat → Bool} {l i due : Nat} (f : State → State) (hdown : s.down = false)
    (hdue : s.EventDue is l i due) : onEvent s is f = .next (f (s.fires l i due)) := by
  obtain ⟨b, hactive, hnext, hfrozen, hreadable⟩ := hdue
  have hreadable' : (s.fires l i due).poisoned (bankTable b l i) 32 = false := by
    rw [← hreadable]
    simp [State.poisoned, State.fires, State.markFired]
  unfold onEvent
  rw [act_up hdown]
  simp only [hactive, hnext, hfrozen, Bool.false_eq_true, if_false]
  exact congrArg _ (if_neg (by rw [Bool.not_eq_true]; exact hreadable'))

theorem exec_strobe {s : State} {l i due : Nat} (hdown : s.down = false) (hdue : s.EventDue (isEvent 6 0) l i due)
    (hmode : s.obj 0x2006 1 = 1) (hpin : s.obj 0xB020 1 = 2) :
    exec .strobe s = .next ((s.fires l i due).emit (.pulse (s.fires l i due).now 20)) := by
  have howned : (s.fires l i due).obj 0x2006 1 = 1 ∧ (s.fires l i due).obj 0xB020 1 = 2 := by
    simp [State.fires, State.markFired, hmode, hpin]
  change execStrobe s = _
  rw [execStrobe, onEvent_of_due _ hdown hdue, if_pos howned]

theorem State.fires_hall (s : State) (l i due : Nat) : (s.fires l i due).hall = max s.hall (64 * (due + s.lag)) := by
  rw [State.fires, State.markFired, State.setEngine_hall, State.reach_hall']

theorem State.fires_out (s : State) (l i due : Nat) : (s.fires l i due).out = s.out := by
  rw [State.fires, State.markFired, State.setEngine_out, State.reach_out]

/-- Settles O19, by what each command of a root answers. -/
theorem rootsAndPulses : Obligations.RootsAndPulses := by
  intro s hdown
  refine ⟨?beat, ?timeout, ?failover, ?coldStart, ?pulse, ?strobe⟩
  case beat =>
    intro hroot
    refine ⟨_, exec_rootBeatTick hdown hroot, ?_⟩
    rw [State.setTime_time, State.setTime_hall, State.reach_hall', State.reach_time_rootBeat,
      State.reach_time_lastBeatTick]
    exact ⟨rfl, rfl, rfl⟩
  case timeout =>
    intro a hroot hindex
    refine ⟨_, exec_rootBeatTimeout hdown hroot hindex, ?_⟩
    rw [State.setTime_time, State.setTime_hall, State.reach_hall']
    exact ⟨rfl, rfl⟩
  case failover =>
    intro a j hown hroot hlocked hindex haj hbeat hlower
    refine ⟨_, exec_rootPromote_failover hdown hown hroot hlocked hindex haj hbeat hlower, ?_⟩
    rw [State.log_time, State.log_hall]
    refine ⟨rfl, rfl, rfl, rfl, State.reach_hall' .., ?_⟩
    exact Logged.log_of_faults ((State.setTime_faults ..).trans (State.reach_faults ..)) 0x2006 0 [] (by decide)
  case coldStart =>
    intro j hown hj hroot hstarted hunset hlower
    obtain ⟨hroot', hlocked, -, hrootIndex, -, htai, hlogged⟩ :=
      (s.reach (sourceWait + j * (1000 * s.obj 0x2003 1))).coldStart_starts j
    rw [State.reach_time_early] at htai
    refine ⟨_, exec_rootPromote_coldStart hdown hown hj hroot hstarted hunset hlower, ?_⟩
    rw [State.log_time, State.log_hall]
    refine ⟨hroot', hlocked, hrootIndex, htai, fun hearly => ?hall, ?logged⟩
    case hall => rw [State.coldStart_hall_free j (by rwa [State.reach_time_early]), State.reach_hall', sourceWait]
    case logged =>
      exact (hlogged.congr_left (congrArg Faults.ring (State.reach_faults ..).symm)).log 0x2006 0 [] (by decide)
  case pulse =>
    intro hmode hpin second
    refine ⟨_, exec_ppsOutPulse hdown hmode hpin, ?_⟩
    rw [State.emit_hall, State.setTime_hall, State.reach_hall', State.emit_time, State.setTime_time, State.emit,
      State.setTime_out, State.reach_out]
    exact ⟨rfl, rfl, rfl⟩
  case strobe =>
    intro l i due hdue hmode hpin
    refine ⟨_, exec_strobe hdown hdue hmode hpin, ?_, ?_⟩
    · rw [State.emit_hall, State.fires_hall]
    · rw [State.emit, State.fires_out]
      rfl

end Sys2Proof.Machine

/-!
The switch of banks, prefetch, and windows of the timetable (O20).
-/
namespace Sys2Proof.Machine

/-! ### A bank becomes active (R60, R64) -/

/-- Schedule time lies behind hall time by the lag at least: from a hold tick on it stands (R60, R84). -/
theorem State.sched_le (s : State) : s.sched ≤ s.now - s.lag := by
  unfold State.sched
  split
  · exact Nat.sub_le_sub_right (Nat.min_le_right _ _) _
  · exact Nat.le_refl _

theorem State.reach_lag (s : State) (n : Nat) : (s.reach n).lag = s.lag := by
  rw [State.lag, State.reach_tt, State.reach_hold, State.lag]

/-- The wakes that fire with a switch are counted, and change nothing else of the timetable (R77). -/
theorem State.mergedWakes_tt (s : State) : s.mergedWakes.tt = { s.tt with engines := s.mergedWakes.tt.engines } := by
  unfold State.mergedWakes
  split
  · rfl
  · refine each_ind (P := fun t => t.tt = { s.tt with engines := t.tt.engines }) rfl fun t x _ ht => ?_
    have hfired : ∀ n, (t.markFired x.1 x.2 n).tt =
        { s.tt with engines := (t.markFired x.1 x.2 n).tt.engines } := fun n => by
      rw [State.markFired, State.setEngine, ht]
    dsimp only
    split
    · have hwake : ∀ (u : State) c, (u.wakeCore c).tt = u.tt := fun u c =>
        (State.wakeCore_only (parts := [.cores, .dies, .supply]) (Only.refl _ u) (by decide) c).2 .tt (by decide)
      rw [hwake]
      exact hfired _
    · have hwake : ∀ (u : State) d, (u.wakeDie d).tt = u.tt := fun u d =>
        (State.wakeDie_only (parts := [.dies, .supply]) (Only.refl _ u) (by decide) d).2 .tt (by decide)
      rw [hwake]
      exact hfired _

theorem State.mergedWakes_frame (s : State) : Only [.tt, .cores, .dies, .supply] s s.mergedWakes :=
  State.mergedWakes_only (Only.refl _ s) (by decide)

theorem State.mergedWakes_hall (s : State) : s.mergedWakes.hall = s.hall := s.mergedWakes_frame.2 .hall (by decide)

theorem State.mergedWakes_obj (s : State) (a b : Nat) : s.mergedWakes.obj a b = s.obj a b :=
  obj_of_only s.mergedWakes_frame (by decide) a b

theorem State.checkLoss_frame (s : State) :
    Only [.out, .hold, .links, .ctxs, .objects, .ring, .msix, .alert] s s.checkLoss :=
  State.checkLoss_only (Only.refl _ s) (by decide)

theorem State.checkLoss_tt (s : State) : s.checkLoss.tt = s.tt := s.checkLoss_frame.2 .tt (by decide)

theorem State.checkLoss_hall (s : State) : s.checkLoss.hall = s.hall := s.checkLoss_frame.2 .hall (by decide)

/-- Of the objects a loss without a detour changes those of the job stage, of the cairn log, and its cause's count. -/
theorem State.checkLoss_obj {s : State} {a b : Nat}
    (hkey : okey a b ∉ [okey 0x9003 3, okey 0x9003 4, okey 0x9004 2, okey 0x9004 3])
    (hcause : okey a b ≠ okey 0x9005 0x12) : s.checkLoss.obj a b = s.obj a b := by
  have hkeys := hkey
  simp only [List.mem_cons, not_or] at hkeys
  obtain ⟨-, -, htotal, hlost, -⟩ := hkeys
  unfold State.checkLoss
  split
  · rw [State.unplanned, State.jobFail_obj _ hkey, State.faultCount, State.obj_count, if_neg hcause, State.setHold_obj,
      State.log_obj _ _ _ htotal hlost]
  · rfl

/-- What a switch writes before the wakes and the lost links of the new bank are seen to. -/
theorem State.switchBank_of_armed {s : State} {b : Fin 2} (harmed : s.tt.switch = some b) :
    ∃ u : State, s.switchBank = u.mergedWakes.checkLoss ∧ u.hall = s.hall ∧ u.tt.active = some b ∧
      u.tt.switch = none ∧ u.obj 0x2010 1 = b ∧ u.obj 0x3003 6 = 0 ∧
      u.tt.origin = max (s.obj 0x2010 8)
        (s.on s.tt.active.isNone fun s => s.setHold fun h => { h with offset := 0 }).sched := by
  unfold State.switchBank
  rw [harmed]
  refine ⟨_, rfl, ?hall, ?active, ?switch, ?bank, ?floorShort, ?origin⟩
  case bank =>
    rw [State.log_obj _ _ _ (by decide) (by decide), State.obj_setObj_other _ (by decide), State.obj_setObj_same]
  case floorShort => rw [State.log_obj _ _ _ (by decide) (by decide), State.obj_setObj_same]
  case hall =>
    simp only [State.log_hall, State.setObj_hall, State.on]
    split <;> rfl
  all_goals
    simp only [State.log_tt, State.setObj_tt, State.on]
    split <;> rfl

/-- At the tick the bank's slot 0 starts there, unless hall time is past it. -/
theorem State.sched_at_switch {s : State} {tick : Nat} (hnow : s.now ≤ tick + s.lag) :
    (s.on s.tt.active.isNone fun s => s.setHold fun h => { h with offset := 0 }).sched ≤ tick := by
  have hsched := State.sched_le (s.on s.tt.active.isNone fun s => s.setHold fun h => { h with offset := 0 })
  have hlag : (s.on s.tt.active.isNone fun s => s.setHold fun h => { h with offset := 0 }).lag = s.lag := by
    unfold State.on State.lag
    split
    next hnone => rw [State.setHold_tt, if_pos hnone]
    next => rfl
  have hnow' : (s.on s.tt.active.isNone fun s => s.setHold fun h => { h with offset := 0 }).now = s.now := by
    unfold State.on
    split <;> rfl
  omega

theorem exec_bankSwitch {s : State} {b : Fin 2} (hdown : s.down = false) (harmed : s.tt.switch = some b)
    (hfrozen : s.frozenAt (s.obj 0x2010 8 + s.lag) = false) :
    exec .bankSwitch s = .next (s.reach (s.obj 0x2010 8 + s.lag)).switchBank := by
  change execBankSwitch s = _
  rw [execBankSwitch, act_up hdown]
  exact congrArg _ (if_neg (by simp [harmed, hfrozen]))

/-! ### Prefetch (R72) -/

theorem exec_ttBatchArrive {s : State} {link : Link} (hdown : s.down = false) (hactive : s.tt.active.isSome = true)
    (hroom : (s.engine link).fetched ≤ 3072) : exec (.ttBatchArrive link) s =
      .next (s.setEngine link { s.engine link with fetched := (s.engine link).fetched + 1024 }) := by
  change execTtBatchArrive link s = _
  rw [execTtBatchArrive, act_up hdown, if_pos ⟨hactive, hroom⟩]

/-! ### Where a window's bytes are read (R69) -/

theorem State.poisoned_of_none {s : State} (hnone : s.poison = []) (a n : Nat) : s.poisoned a n = false := by
  rw [State.poisoned, hnone]
  rfl

theorem State.reach_landRead (s : State) (n kind addr : Nat) (off : Int) :
    (s.reach n).landRead kind addr off = s.landRead kind addr off := by
  unfold State.landRead
  rw [State.reach_mem, State.reach_stores, State.reach_mailboxes]

theorem State.reach_capacity (s : State) (n e : Nat) : (s.reach n).capacity e = s.capacity e := by
  simp only [State.capacity, State.reach_landRead]

theorem State.reach_sendSource (s : State) (n b e : Nat) : (s.reach n).sendSource b e = s.sendSource b e := by
  rw [State.sendSource, State.reach_tt, State.sendSource]

theorem State.reach_windowByte (s : State) (n : Nat) (w : TxWindow) (pat : Option Nat) (i : Nat) :
    (s.reach n).windowByte w pat i = s.windowByte w pat i := by
  simp only [State.windowByte, State.reach_landRead]

/-! ### A window starts (R73, R75) -/

theorem State.reach_linkName (s : State) (n l : Nat) : (s.reach n).linkName l = s.linkName l := by
  rw [State.linkName, State.moduleNumber, State.reach_obj, State.reach_obj, State.linkName, State.moduleNumber]

/-- The window of entry `x` as it starts: a CAPACITY window carries its header and the count that it has read. -/
def State.startedWindow (s : State) (b x start : Nat) : TxWindow :=
  if entKind x = 3 then
    ⟨x, start, 0, (64 + (s.capacity x).2 + 511) / 512, 64 + (s.capacity x).2, (s.capacity x).1⟩
  else ⟨x, start, 0, entLength x, (s.sendSource b x).2, 0⟩

theorem State.reach_startedWindow (s : State) (n b x start : Nat) :
    (s.reach n).startedWindow b x start = s.startedWindow b x start := by
  rw [State.startedWindow, State.reach_capacity, State.reach_sendSource, State.startedWindow]

/-- What a window that starts does, but for the drops of a CAPACITY window. -/
theorem State.openWindow_eq (s : State) (b l x start : Nat) (eng : TtEngine) :
    ∃ u : State, u.hall = s.hall ∧ u.out = s.out ∧ s.openWindow b l x start eng =
      (u.setEngine l { eng with
        window := some (s.startedWindow b x start)
        spanEnd := start + 5 * spanSlots (entStart x) (entLength x) }).emit
          (.windowOpen l (openWord x (s.startedWindow b x start).bytes)) := by
  unfold State.openWindow State.startedWindow
  by_cases hcapacity : entKind x = 3
  · simp only [if_pos hcapacity]
    refine ⟨_, ?hall, ?out, rfl⟩
    all_goals
      unfold State.on
      split <;> rfl
  · simp only [if_neg hcapacity]
    exact ⟨_, rfl, rfl, rfl⟩

/-- A window that starts sends its open word, and is in progress on its engine. -/
theorem State.openWindow_sends (s : State) (b l x start : Nat) (eng : TtEngine) :
    (s.openWindow b l x start eng).hall = s.hall ∧
      (s.openWindow b l x start eng).out = .windowOpen l (openWord x (s.startedWindow b x start).bytes) :: s.out ∧
      (s.openWindow b l x start eng).engine l = { eng with
        window := some (s.startedWindow b x start), spanEnd := start + 5 * spanSlots (entStart x) (entLength x) } := by
  obtain ⟨u, hhall, hout, heq⟩ := s.openWindow_eq b l x start eng
  rw [heq, State.emit_hall, State.setEngine_hall, State.emit_engine, State.engine_setEngine, State.emit_out,
    State.setEngine_out]
  exact ⟨hhall, congrArg _ hout, rfl⟩

/-- A window whose entry has been fetched and can be read, that follows the span before it, on a link that is not lost,
in time that permits it, is sent. -/
theorem exec_windowStart {s : State} {link : Link} {b : Fin 2} {e : TtEngine} {passed start : Nat}
    (hdown : s.down = false) (hactive : s.tt.active = some b)
    (hnext : s.nextWindow b link (2 * s.bankCount b link) (s.engine link) 0 = some (e, passed))
    (hlost : s.ownLost link = false) (hfetched : passed < e.fetched) (hpoison : s.poison = [])
    (hstart : start = e.period + 5 * entStart (s.entry b link e.index)) (hspan : e.spanEnd ≤ start)
    (hfrozen : s.frozenAt (start + s.lag) = false) (htime : (s.reach (start + s.lag)).timeOk = true) :
    exec (.windowStart link) s = .next ((s.reach (start + s.lag)).openWindow b link (s.entry b link e.index) start
      { (s.reach (start + s.lag)).pastEntry b link e with fetched := e.fetched - (passed + 1) }) := by
  have hlost' : (s.reach (start + s.lag)).ownLost link = false := by
    rwa [State.ownLost, State.reach_linkName, State.reach_hold]
  have hreadable : (s.reach (start + s.lag)).poisoned (bankTable b link e.index) 32 = false :=
    State.poisoned_of_none (by rwa [State.reach_poison]) _ _
  have hfollows : ¬ start < e.spanEnd := Nat.not_lt.mpr hspan
  subst hstart
  change act s (·.startWindow link) = _
  rw [act_up hdown]
  unfold State.startWindow
  rw [hactive]
  dsimp only
  rw [hnext]
  dsimp only
  rw [if_neg (by simp [hfrozen]), if_neg (by simp [hlost', htime]), if_neg (by simp [hfetched, hreadable, hfollows])]

/-! ### A slot is sent (R62, R73) -/

/-- The slot of a window without a poisoned byte carries the window's bytes and returns the credits owed. -/
theorem exec_windowSlotSend {s : State} {link : Link} {b : Fin 2} {w : TxWindow} {due n : Nat} (hdown : s.down = false)
    (hactive : s.tt.active = some b) (hwindow : (s.engine link).window = some w) (hpoison : s.poison = [])
    (hdue : due = w.start + 5 * dataSlot (entStart w.entry) w.sent + s.lag) (hfrozen : s.frozenAt due = false)
    (hn : n = min 512 (w.bytes - 512 * w.sent)) :
    exec (.windowSlotSend link) s = .next ((((s.reach due).setEngine link { s.engine link with
        window := if w.sent + 1 < w.slots then some { w with sent := w.sent + 1 } else none }).emit
      (.slot link ((List.range n).map (fun i => s.windowByte w (s.sendSource b w.entry).1 (512 * w.sent + i)) ++
        List.replicate (512 - n) 0) false)).returnCredits link) := by
  have hclean : ∀ i, (s.reach due).windowPoison w (s.sendSource b w.entry).1 i = false := fun i => by
    rw [State.windowPoison, State.poisoned_of_none (by rwa [State.reach_poison]), Bool.and_false]
  have hfind : (List.range n).find? (fun i =>
      (s.reach due).windowPoison w (s.sendSource b w.entry).1 (512 * w.sent + i)) = none :=
    List.find?_eq_none.mpr fun i _ => by rw [hclean]; exact Bool.false_ne_true
  change act s (·.sendSlot link) = _
  rw [act_up hdown]
  unfold State.sendSlot
  simp only [hactive, hwindow, ← hdue, hfrozen, Bool.false_eq_true, if_false, State.reach_sendSource,
    State.reach_windowByte, ← hn, hfind, Option.isSome_none, State.reach_engine]

/-- A window that its pattern places is accepted where it is permitted. -/
theorem exec_windowOpenReceive_placed {s : State} {link : Link} {w : OpenWord} {pat : Option Nat}
    (hdown : s.down = false) (hpat : s.landPattern w = some pat) : exec (.windowOpenReceive link w) s =
      .next (s.setRx link (some ⟨w, !s.landPermitted w pat, pat, 0, false, [], []⟩)) := by
  change execWindowOpenReceive link w s = _
  rw [execWindowOpenReceive, act_up hdown, hpat]

/-- One whose pattern fails its checks is discarded whole. -/
theorem exec_windowOpenReceive_unplaced {s : State} {link : Link} {w : OpenWord} (hdown : s.down = false)
    (hpat : s.landPattern w = none) :
    exec (.windowOpenReceive link w) s = .next (s.setRx link (some ⟨w, true, none, 0, false, [], []⟩)) := by
  change execWindowOpenReceive link w s = _
  rw [execWindowOpenReceive, act_up hdown, hpat]

/-- What lands on a link is what it was set to. -/
theorem State.rxOf_setRx (s : State) (l : Nat) (w : Option RxWindow) : (s.setRx l w).rxOf l = w := Tbl.get_set_same

/-- Settles O20, from what a switch, a batch, a window and a slot leave in the timetable. -/
theorem banksAndWindows : Obligations.BanksAndWindows := by
  intro s hdown
  refine ⟨?switch, ?batch, ?start, ?slot, ?received⟩
  case switch =>
    intro b harmed hfrozen
    obtain ⟨u, hu, hhall, hactive, hswitch, hbank, hshort, horigin⟩ :=
      State.switchBank_of_armed (s := s.reach (s.obj 0x2010 8 + s.lag)) (by rwa [State.reach_tt])
    refine ⟨_, exec_bankSwitch hdown harmed hfrozen, ?_⟩
    rw [hu, State.checkLoss_tt, State.mergedWakes_tt, State.checkLoss_hall, State.mergedWakes_hall, hhall,
      State.reach_hall', State.checkLoss_obj (by decide) (by decide), State.mergedWakes_obj, hbank,
      State.checkLoss_obj (by decide) (by decide), State.mergedWakes_obj, hshort]
    refine ⟨hactive, hswitch, rfl, rfl, rfl, fun hearly => horigin.trans ?_⟩
    rw [State.reach_obj]
    refine Nat.max_eq_left (State.sched_at_switch ?_)
    rw [State.reach_now, State.reach_lag, State.now]
    omega
  case batch =>
    intro link hactive hroom
    exact ⟨_, exec_ttBatchArrive hdown hactive hroom, by rw [State.engine_setEngine]⟩
  case start =>
    intro link b e passed hactive hnext hlost hfetched hpoison x start w hspan hfrozen htime
    obtain ⟨hhall, hout, hengine⟩ := (s.reach (start + s.lag)).openWindow_sends b link x start
      { (s.reach (start + s.lag)).pastEntry b link e with fetched := e.fetched - (passed + 1) }
    refine ⟨_, exec_windowStart hdown hactive hnext hlost hfetched hpoison rfl hspan hfrozen htime, ?_⟩
    rw [State.reach_startedWindow, State.reach_out] at hout
    rw [State.reach_startedWindow] at hengine
    exact ⟨hhall.trans (State.reach_hall' ..), hout, by rw [hengine]; rfl, by rw [hengine]⟩
  case slot =>
    intro link b w hactive hwindow due hfrozen hpoison n
    refine ⟨_, exec_windowSlotSend hdown hactive hwindow hpoison rfl hfrozen rfl, ?_⟩
    rw [State.returnCredits, State.emit_hall, State.mapLink_hall, State.emit_hall, State.setEngine_hall,
      State.reach_hall', State.emit_out, State.mapLink_out, State.emit_out, State.setEngine_out, State.reach_out,
      State.emit_link, State.setEngine_link, State.reach_link, State.emit_engine, State.mapLink_engine,
      State.emit_engine, State.engine_setEngine]
    exact ⟨rfl, rfl, rfl⟩
  case received =>
    intro link w
    cases hland : s.landPattern w with
    | none =>
      exact ⟨_, exec_windowOpenReceive_unplaced hdown hland, fun pat hpat => (by cases hpat),
        fun _ => State.rxOf_setRx ..⟩
    | some placed =>
      refine ⟨_, exec_windowOpenReceive_placed hdown hland, fun pat hpat => ?_, fun hnone => (by cases hnone)⟩
      cases hpat
      exact State.rxOf_setRx ..

end Sys2Proof.Machine

/-!
The draw target, over-voltage, power failure and return, temperatures and REF_IN (O44).
-/
namespace Sys2Proof.Machine

/-! ### SMB_ALERT_N (R486): an alert is asserted beside the change that causes it -/

theorem State.alerting_supply (s : State) (f : State → State) : (s.alerting f).supply = (f s).supply := by
  unfold State.alerting
  dsimp only
  split <;> rfl

theorem State.alerting_hall (s : State) (f : State → State) : (s.alerting f).hall = (f s).hall := by
  unfold State.alerting
  dsimp only
  split <;> rfl

theorem State.alerting_faults (s : State) (f : State → State) : (s.alerting f).faults = (f s).faults := by
  unfold State.alerting
  dsimp only
  split <;> rfl

/-! ### The draw target (R379, R386) -/

theorem exec_targetTick_braced {s : State} (hdown : s.down = false) (hbrace : s.supply.brace = true) :
    exec .targetTick s = .next s := by
  change execTargetTick s = _
  rw [execTargetTick, act_up hdown]
  split
  · rw [if_pos hbrace]
  · rfl

theorem exec_targetTick {s : State} {w t : Nat} (hdown : s.down = false) (hbrace : s.supply.brace = false)
    (hnext : s.supply.nextTarget = some (w, t)) : exec .targetTick s = .next ((s.reach t).applyTarget w) := by
  change execTargetTick s = _
  rw [execTargetTick, act_up hdown, hnext]
  dsimp only
  rw [if_neg (by simp [hbrace])]

theorem exec_targetTimeoutExpire {s : State} {t : Nat} (hdown : s.down = false) (hat : s.supply.targetAt = some t) :
    exec .targetTimeoutExpire s = .next
      (((s.reach (t + 1000000000 * s.obj 0x3003 4)).setSupply fun p =>
        { p with target := 0, nextTarget := none, targetAt := none }).log 0x300D 0
        (s.reach (t + 1000000000 * s.obj 0x3003 4)).powerItems) := by
  change execTargetTimeoutExpire s = _
  rw [execTargetTimeoutExpire, act_up hdown, hat]

/-! ### Over-voltage (R382) -/

/-- The instant of the disconnect: at once above 80 V, else past 1 ms above 60 V. -/
def State.overvoltage (s : State) (t : Nat) : State := if 80000 < s.supply.mv then s else s.reach (t + 1000001)

theorem State.overvoltage_hall (s : State) (t : Nat) :
    (s.overvoltage t).hall = if 80000 < s.supply.mv then s.hall else max s.hall (64 * (t + 1000001)) := by
  unfold State.overvoltage
  split
  · rfl
  · rw [State.reach_hall']

theorem State.overvoltage_supply (s : State) (t : Nat) : (s.overvoltage t).supply = s.supply := by
  unfold State.overvoltage
  split
  · rfl
  · rw [State.reach_supply]

theorem State.overvoltage_faults (s : State) (t : Nat) : (s.overvoltage t).faults = s.faults := by
  unfold State.overvoltage
  split
  · rfl
  · rw [State.reach_faults]

/-- The input is taken away, and the module proceeds as for a dip that begins now. -/
def State.disconnect (s : State) : State := s.alerting fun s => s.setSupply fun p =>
  { p with connected := false, dip := true, lowBank := decide (p.bank < 2800), belowSince := some s.now }

theorem State.disconnect_supply (s : State) : s.disconnect.supply = { s.supply with
    connected := false, dip := true, lowBank := decide (s.supply.bank < 2800), belowSince := some s.now } :=
  State.alerting_supply ..

theorem exec_overvoltageDisconnect {s : State} {t : Nat} (hdown : s.down = false)
    (hconnected : s.supply.connected = true) (hover : s.supply.overSince = some t) : exec .overvoltageDisconnect s =
      .next ((s.overvoltage t).disconnect.log 0x3006 0 (s.overvoltage t).disconnect.powerItems) := by
  change execOvervoltageDisconnect s = _
  rw [execOvervoltageDisconnect, act_up hdown, hconnected, hover]
  rfl

theorem exec_overvoltageReconnect {s : State} {t : Nat} (hdown : s.down = false)
    (hconnected : s.supply.connected = false) (hok : s.supply.okSince = some t) : exec .overvoltageReconnect s =
      .next ((s.reach (t + 100000)).setSupply fun p => { p with connected := true }) := by
  change execOvervoltageReconnect s = _
  rw [execOvervoltageReconnect, act_up hdown, hconnected, hok]

/-! ### Power failure and return (R36, R387) -/

theorem State.streamAll_frame (s : State) :
    Only [.out, .links, .fabric, .rope, .objects, .ring, .faults, .msix, .host] s s.streamAll :=
  State.streamAll_only (Only.refl _ s) (by decide)

theorem State.streamAll_pending (s : State) : s.streamAll.pending = s.pending := s.streamAll_frame.1

theorem State.streamAll_camps (s : State) : s.streamAll.dict.camps = s.dict.camps := by
  have hdict : s.streamAll.dict = { s.dict with objs := s.streamAll.dict.objs } :=
    s.streamAll_frame.2 .dict (by decide)
  rw [hdict]

theorem State.streamAll_floors (s : State) : s.streamAll.boot.floors = s.boot.floors := by
  have hboot : s.streamAll.boot = { s.boot with alert := s.streamAll.boot.alert } :=
    s.streamAll_frame.2 .boot (by decide)
  rw [hboot]

theorem State.log_camps (s : State) (ev dom : Nat) (items : List (Nat × Nat)) :
    (s.log ev dom items).dict.camps = s.dict.camps := by
  rw [State.log_dict']

/-- A power failure keeps what waits, and the camps and the floors of the flash. -/
theorem State.powerFail_keeps (s : State) : s.powerFail.pending = s.pending ∧
    s.powerFail.dict.camps = s.dict.camps ∧ s.powerFail.boot.floors = s.boot.floors := by
  simp only [State.powerFail, State.flashOnly, State.streamAll_pending, State.streamAll_camps, State.streamAll_floors,
    State.log_pending, State.log_boot, State.log_camps, and_self]

theorem exec_powerFail {s : State} (hdown : s.down = false)
    (hcause : (s.supply.dip = true ∧ s.supply.bank = 0) ∨ s.supply.critical = true) :
    exec .powerFail s = .next s.powerFail := by
  have hfails : (s.supply.dip && s.supply.bank == 0 || s.supply.critical) = true := by simpa using hcause
  change execPowerFail s = _
  rw [execPowerFail, act_up hdown, if_pos hfails]

theorem exec_powerOn {s : State} {mv : Nat} (hdown : s.down = true) (hmv : 46000 ≤ mv) :
    exec (.powerOn mv) s = .next (s.setSupply fun p => { p with mv := mv / 10 * 10 }) := by
  change execPowerOn mv s = _
  rw [execPowerOn, if_pos (by simp [hdown, hmv])]

theorem exec_powerGood {s : State} {straps : BitVec 4} (hdown : s.down = true) (hmv : 46000 ≤ s.supply.mv) :
    exec (.powerGood straps) s = .next
      (({ s.flashOnly with supply := { Supply.reset with mv := s.supply.mv } }).setObj 0x1000 9 straps.toNat) := by
  change execPowerGood straps s = _
  rw [execPowerGood, if_pos (by simp [hdown, hmv])]

/-! ### Temperatures (R489): what is done about a sample keeps the sample -/

/-- The temperatures of the latest sample. -/
def Supply.temps (u : Supply) : List Int × List Int × Int := (u.dieTemps, u.stackTemps, u.lidTemp)

theorem State.originateHold_supply (s : State) (cause : Nat) : (s.originateHold cause).2.supply = s.supply :=
  (State.originateHold_only (parts := [.hold, .links]) (Only.refl _ s) (by decide) cause).2 .supply (by decide)

theorem State.jobFail_supply (s : State) (cause : Nat) : (s.jobFail cause).supply = s.supply :=
  (State.jobFail_only (parts := [.out, .hold, .links, .ctxs, .objects, .ring, .msix, .alert]) (Only.refl _ s)
    (by decide) cause).2 .supply (by decide)

theorem State.setSupply_temps {s : State} {f : Supply → Supply} (hf : (f s.supply).temps = s.supply.temps) :
    (s.setSupply f).supply.temps = s.supply.temps := hf

theorem State.takeCut_temps (s : State) (cause : Nat) : (s.takeCut cause).2.supply.temps = s.supply.temps := by
  unfold State.takeCut
  dsimp only
  split
  · rw [State.applyCut, State.setSupply_temps rfl, State.faultCount, State.count_supply]
  · split
    · rw [State.applyCut, State.setSupply_temps rfl, State.originateHold_supply, State.faultCount, State.count_supply]
    · rw [State.setSupply_temps rfl, State.originateHold_supply, State.faultCount, State.count_supply]

theorem State.governorTrip_temps (s : State) (cause : Nat) : (s.governorTrip cause).supply.temps = s.supply.temps := by
  unfold State.governorTrip State.on
  dsimp only
  split
  · rfl
  · split
    · rw [State.jobFail_supply, State.setSupply_temps rfl, State.takeCut_temps, State.log_supply, State.count_supply,
        State.alerting_supply, State.setSupply_temps rfl]
    · rw [State.setSupply_temps rfl, State.takeCut_temps, State.log_supply, State.count_supply,
        State.alerting_supply, State.setSupply_temps rfl]

theorem State.thermalWarn_temps (s : State) : s.thermalWarn.supply.temps = s.supply.temps := by
  unfold State.thermalWarn
  dsimp only
  rw [State.alerting_supply, State.setSupply_temps rfl, State.each_part State.supply]
  exact fun _ _ => State.log_supply ..

theorem State.thermalTrip_temps (s : State) : s.thermalTrip.supply.temps = s.supply.temps := by
  unfold State.thermalTrip
  dsimp only
  split
  · rw [State.governorTrip_temps]
    rfl
  · rfl

/-- A sample of temperatures taken, and the warning and the trip that it calls for done. -/
def State.sampled (s : State) (dies hbms : List Int) (lid : Int) : State :=
  (s.setSupply fun p =>
    { p with dieTemps := dies.take 6, stackTemps := hbms.take 32, lidTemp := lid }).thermalWarn.noteCool.thermalTrip

theorem State.sampled_temps (s : State) (dies hbms : List Int) (lid : Int) :
    (s.sampled dies hbms lid).supply.temps = (dies.take 6, hbms.take 32, lid) := by
  rw [State.sampled, State.thermalTrip_temps, State.noteCool, State.setSupply_temps rfl, State.thermalWarn_temps]
  rfl

theorem exec_thermalSample {s : State} {dies hbms : List Int} {lid : Int} (hdown : s.down = false) :
    exec (.thermalSample dies hbms lid) s = .next (if (s.sampled dies hbms lid).supply.critical
      then (s.sampled dies hbms lid).powerFail else s.sampled dies hbms lid) := by
  change execThermalSample dies hbms lid s = _
  rw [execThermalSample, act_up hdown]
  rfl

theorem exec_thermalWarnClear {s : State} {t : Nat} (hdown : s.down = false) (hwarned : s.supply.warned ≠ [])
    (hcool : s.supply.coolSince = some t) : exec .thermalWarnClear s =
      .next (((s.reach (t + 1000000000)).setSupply fun p => { p with warned := [] }).log 0x3012) := by
  obtain ⟨sensor, sensors, hsensors⟩ := List.exists_cons_of_ne_nil hwarned
  change execThermalWarnClear s = _
  rw [execThermalWarnClear, act_up hdown, hsensors, hcool]

/-! ### REF_IN (R370) -/

/-- REF_IN is lost: it is logged, before the time loss. -/
def State.refInGone (s : State) : State :=
  let u := s.alerting fun s => s.setSupply fun p => { p with refLost := true }
  u.log 0x3008 0 u.powerItems

theorem exec_refInLost {s : State} (hdown : s.down = false) (hthere : s.supply.refLost = false) :
    exec .refInLost s = .next s.refInGone.timeLoss := by
  change execRefInLost s = _
  rw [execRefInLost, act_up hdown, if_neg (by simp [hthere])]
  rfl

theorem exec_refInRestore {s : State} (hdown : s.down = false) (hlost : s.supply.refLost = true)
    (hloaded : s.job.loaded = false) : exec .refInRestore s =
      .next ((s.setSupply fun p => { p with refLost := false }).log 0x3009 0 s.powerItems) := by
  change execRefInRestore s = _
  rw [execRefInRestore, act_up hdown, if_neg (by simp [hlost, hloaded])]

/-- Settles O44, by what each command of the supply answers. -/
theorem supplyAndHeat : Obligations.SupplyAndHeat := by
  intro s
  refine ⟨fun hdown => ⟨?braced, ?target, ?timeout, ?disconnect, ?reconnect, ?fail, ?sample, ?cool, ?refLost,
    ?refBack⟩, fun hdown => ⟨?on, ?good⟩⟩
  case braced => exact exec_targetTick_braced hdown
  case target =>
    intro w t hbrace hnext
    refine ⟨_, exec_targetTick hdown hbrace hnext, ?_⟩
    rw [State.applyTarget, State.log_hall, State.log_supply, State.setSupply_hall, State.reach_hall']
    exact ⟨Logged.log_of_faults ((State.setSupply_faults ..).trans (State.reach_faults ..)) 0x300C 0 _ (by decide),
      rfl, rfl, rfl⟩
  case timeout =>
    intro t hat
    refine ⟨_, exec_targetTimeoutExpire hdown hat, ?_⟩
    rw [State.log_hall, State.log_supply, State.setSupply_hall, State.reach_hall']
    exact ⟨Logged.log_of_faults ((State.setSupply_faults ..).trans (State.reach_faults ..)) 0x300D 0 _ (by decide),
      rfl, rfl, rfl, rfl⟩
  case disconnect =>
    intro t hconnected hover
    have hhall : (s.overvoltage t).disconnect.hall = (s.overvoltage t).hall := State.alerting_hall ..
    have hfaults : (s.overvoltage t).disconnect.faults = s.faults :=
      (State.alerting_faults ..).trans (State.overvoltage_faults ..)
    refine ⟨_, exec_overvoltageDisconnect hdown hconnected hover, ?_⟩
    rw [State.now, State.log_hall, State.log_supply, State.disconnect_supply, hhall, State.overvoltage_hall,
      State.overvoltage_supply, State.now, State.overvoltage_hall]
    exact ⟨Logged.log_of_faults hfaults 0x3006 0 _ (by decide), rfl, rfl, rfl, rfl, rfl⟩
  case reconnect =>
    intro t hconnected hok
    refine ⟨_, exec_overvoltageReconnect hdown hconnected hok, ?_⟩
    rw [State.setSupply_hall, State.reach_hall', State.setSupply_supply, State.reach_supply]
    exact ⟨rfl, rfl⟩
  case fail =>
    intro hcause
    obtain ⟨hpending, hcamps, hfloors⟩ := s.powerFail_keeps
    exact ⟨_, exec_powerFail hdown hcause, rfl, rfl, rfl, rfl, rfl, rfl, hpending, hcamps, hfloors, rfl⟩
  case sample =>
    intro dies hbms lid
    have htemps := s.sampled_temps dies hbms lid
    simp only [Supply.temps, Prod.mk.injEq] at htemps
    obtain ⟨hdies, hstacks, hlid⟩ := htemps
    exact ⟨_, hdies, hstacks, hlid, exec_thermalSample hdown⟩
  case cool =>
    intro t hwarned hcool
    refine ⟨_, exec_thermalWarnClear hdown hwarned hcool, ?_⟩
    rw [State.log_hall, State.log_supply, State.setSupply_hall, State.reach_hall', State.setSupply_supply,
      State.reach_supply]
    exact ⟨Logged.log_of_faults ((State.setSupply_faults ..).trans (State.reach_faults ..)) 0x3012 0 [] (by decide),
      rfl, rfl⟩
  case refLost =>
    intro hthere
    refine ⟨s.refInGone, ?logged, ?supply, exec_refInLost hdown hthere⟩
    case logged => exact Logged.log_of_faults (State.alerting_faults ..) 0x3008 0 _ (by decide)
    case supply => rw [State.refInGone, State.log_supply, State.alerting_supply, State.setSupply_supply]
  case refBack =>
    intro hlost hloaded
    refine ⟨_, exec_refInRestore hdown hlost hloaded, ?_⟩
    rw [State.log_supply, State.setSupply_supply]
    exact ⟨Logged.log_of_faults (State.setSupply_faults ..) 0x3009 0 _ (by decide), rfl⟩
  case on => exact fun mv hmv => exec_powerOn hdown hmv
  case good =>
    intro straps hmv
    exact ⟨_, exec_powerGood hdown hmv, rfl, rfl, rfl, State.obj_setObj_same .., rfl, rfl, rfl, rfl⟩

end Sys2Proof.Machine

/-!
Where timed slots land (O21): the bytes of a good slot, the discard of a bad one, and a REDUCE group that is held whole.
-/
namespace Sys2Proof.Machine

/-! ### Bytes placed one by one (R73) -/

/-- Bytes written each at its own number are the bytes written in one run. -/
theorem foldl_set_run (m : Memory) (a k : Nat) (bs : List Byte) :
    ((List.range' k bs.length).zip bs).foldl (fun m b => Tbl.set 0 m (a + b.1) b.2) m = Memory.write m (a + k) bs := by
  induction bs generalizing m k with
  | nil => rfl
  | cons b bs ih =>
    rw [List.length_cons, List.range'_succ, List.zip_cons_cons, List.foldl_cons, ih, Memory.write, Nat.add_assoc]

/-- A landing in device memory without a pattern is one run of bytes. -/
theorem State.landBytes_mem (s : State) (addr i : Nat) (bs : List Byte) :
    (s.landBytes 0 addr none i bs).mem = Memory.write s.mem (addr + i) bs := by
  have hplace : ∀ k : Nat, ((addr : Int) + winOffset none (i + k)).toNat = addr + i + k := fun k => by
    rw [winOffset]
    omega
  have hrun := foldl_set_run s.mem (addr + i) 0 bs
  rw [← List.range_eq_range', Nat.add_zero] at hrun
  rw [← hrun]
  simp only [State.landBytes, State.landWrite, State.writeBytes, List.map_map, List.foldl_map, Function.comp_apply,
    hplace]

theorem State.landBytes_frame (s : State) (kind addr : Nat) (pat : Option Nat) (i : Nat) (bs : List Byte) :
    Only [.mem, .poison, .stores, .maps, .mailboxes] s (s.landBytes kind addr pat i bs) :=
  State.landBytes_only (Only.refl _ s) (by decide) kind addr pat i bs

/-! ### A slot lands, or is discarded (R73) -/

/-- The returned credits of a slot raise no count of spoilt slots. -/
theorem State.addCredits_badSlots (s : State) (l : Nat) (credits : List Nat) :
    ((s.addCredits l credits).link l).badSlots = (s.link l).badSlots := by
  rw [State.addCredits, State.mapLink, State.link_setLink]

theorem State.addCredits_frame (s : State) (l : Nat) (credits : List Nat) : Only [.links] s (s.addCredits l credits) :=
  State.addCredits_only (Only.refl _ s) (by decide) l credits

theorem State.addCredits_rxOf (s : State) (l : Nat) (credits : List Nat) (k : Nat) :
    (s.addCredits l credits).rxOf k = s.rxOf k := by
  rw [State.rxOf, (s.addCredits_frame l credits).2 .tt (by decide), State.rxOf]

theorem State.addCredits_sleepingTarget (s : State) (l : Nat) (credits : List Nat) (w : OpenWord) :
    (s.addCredits l credits).sleepingTarget w = s.sleepingTarget w := by
  have hcores : (s.addCredits l credits).cores = s.cores := (s.addCredits_frame l credits).2 .cores (by decide)
  unfold State.sleepingTarget State.core
  rw [hcores]

/-- A good slot of an accepted DATA window, whose target is awake, is written where it belongs. -/
theorem State.landSlot_good {s : State} {l : Nat} {w : RxWindow} (data : List Byte) (hrx : s.rxOf l = some w)
    (hop : w.open_.op = 0) (haccepted : w.refused = false) (hspoilt : (s.link l).badSlots = 0)
    (hawake : s.sleepingTarget w.open_ = none) : s.landSlot l data false false =
      (s.landBytes w.open_.dstKind.toNat w.open_.dstAddr.toNat w.pattern (512 * w.slots)
        (data.take (min 512 (w.open_.byteCount - 512 * w.slots)))).setRx l (some { w with slots := w.slots + 1 }) := by
  simp [State.landSlot, hrx, hop, haccepted, hspoilt, hawake, State.on]

/-- A bad slot is counted, and its bytes go nowhere; the core that it aimed at begins to wake. -/
theorem State.landSlot_bad {s : State} {l : Nat} {w : RxWindow} (data : List Byte) (overflow : Bool)
    (hrx : s.rxOf l = some w) : ∃ (u : State) (v : RxWindow), Only [.links, .cores, .dies, .supply] s u ∧
      v.slots = w.slots + 1 ∧ s.landSlot l data true overflow = (u.landingFault l w 1).setRx l (some v) := by
  have htorn : ∀ v : LinkSt, ∀ c : Bool, Only [.links, .cores, .dies, .supply] s (s.on c fun s => s.setLink l v) :=
    fun v c => State.on_only (Only.refl _ s) c _ fun t ht => State.setLink_only ht (by decide) l v
  unfold State.landSlot
  simp only [hrx, Bool.or_true, Bool.true_or, if_true]
  refine ⟨_, _, ?frame, ?slots, rfl⟩
  case slots => rfl
  case frame =>
    split
    · exact State.wakeCore_only (htorn _ _) (by decide) _
    · exact htorn _ _

/-- The slots that a landing discards are counted under its link. -/
theorem State.landingFault_counted (s : State) (l : Link) (w : RxWindow) (slots : Nat) :
    (s.landingFault l w slots).obj 0x2016 l = (s.obj 0x2016 l + slots) % 2 ^ 32 := by
  have hl := l.isLt
  have htotal : okey 0x2016 l ≠ okey 0x9004 2 := by unfold okey; omega
  have hlost : okey 0x2016 l ≠ okey 0x9004 3 := by unfold okey; omega
  rw [State.landingFault, State.schedFault, State.setHold_obj, State.on]
  split
  · rw [State.log_obj _ _ _ htotal hlost, State.obj_count, if_pos rfl]
  · rw [State.obj_count, if_pos rfl]

theorem exec_slotLand {s : State} {link : Link} {data : SlotWord} {bad overflow : Bool} (hdown : s.down = false) :
    exec (.slotLand link data bad overflow) s =
      .next ((s.addCredits link data.credits).landSlot link data.bytes bad overflow) :=
  exec_of_act (f := fun s => (s.addCredits link data.credits).landSlot link data.bytes bad overflow) rfl hdown

/-! ### A REDUCE group that is held whole (R115, R496) -/

/-- The number of the group's first byte. -/
def RxWindow.groupStart (w : RxWindow) (j : Nat) : Nat := groupBytes w.open_.op.toNat * j

/-- The byte is of group `j`. -/
def RxWindow.inGroup (w : RxWindow) (j : Nat) (b : Nat × Byte) : Bool :=
  decide (w.groupStart j ≤ b.1) && decide (b.1 < w.groupStart j + groupBytes w.open_.op.toNat)

/-- The bytes held of group `j`. -/
def RxWindow.heldOf (w : RxWindow) (j : Nat) : List (Nat × Byte) := w.held.filter (w.inGroup j)

/-- The window once it holds group `j` no longer. -/
def RxWindow.release (w : RxWindow) (j : Nat) : RxWindow := { w with held := w.held.filter fun b => !w.inGroup j b }

/-- The operand that memory gives to group `j`. -/
def State.localOperand (s : State) (w : RxWindow) (j : Nat) : List Byte :=
  (List.range (w.heldOf j).length).map fun i =>
    s.landRead w.open_.dstKind.toNat w.open_.dstAddr.toNat ((w.groupStart j + i : Nat) : Int)

/-- Group `j` combined with its local operand: its bytes, and its delta. -/
def State.combined (s : State) (w : RxWindow) (j : Nat) : List Byte × Delta :=
  s.reduce w.open_.op.toNat w.open_.tag.toNat (s.localOperand w j) ((w.heldOf j).map (·.2))

/-- Where its local operand can be read, the lowest whole group is combined, written back, and held no longer. -/
theorem exec_reduceGroupCombine {s : State} {link : Link} {w : RxWindow} {j : Nat} (hdown : s.down = false)
    (hrx : s.rxOf link = some w) (hwhole : w.wholeGroup = some j) (hpoison : s.poison = []) :
    exec (.reduceGroupCombine link) s = .next ((((s.landBytes w.open_.dstKind.toNat w.open_.dstAddr.toNat none
        (w.groupStart j) (s.combined w j).1).setRx link (some (w.release j))).countFlushed
          (reduceFlushed w.open_.op.toNat (s.localOperand w j) ((w.heldOf j).map (·.2)))).on (w.open_.op != 4)
            (·.sendDeltas [(s.combined w j).2])) := by
  change execReduceGroupCombine link s = _
  rw [execReduceGroupCombine, act_up hdown]
  simp only [hrx, hwhole, State.poisoned_of_none hpoison, Bool.false_eq_true, and_false, if_false]
  rfl

/-- What is counted and sent after a group has been written back leaves memory and the window alone. -/
theorem State.combineEnds_frame (s : State) (n : Nat) (c : Bool) (ds : List Delta) :
    Only [.objects, .deltas] s ((s.countFlushed n).on c (·.sendDeltas ds)) :=
  State.on_only (State.countFlushed_only (Only.refl _ s) (by decide) n) c _ fun t ht =>
    State.sendDeltas_only ht (by decide) ds

theorem State.combineEnds_deltas (s : State) (n : Nat) (op : BitVec 4) (d : Delta) :
    ((s.countFlushed n).on (op != 4) (·.sendDeltas [d])).deltas = if op = 4 then s.deltas else s.deltas ++ [d] := by
  have hcounted : (s.countFlushed n).deltas = s.deltas :=
    (State.countFlushed_only (parts := [.objects]) (Only.refl _ s) (by decide) n).2 .deltas (by decide)
  by_cases hop : op = 4
  · rw [State.on, if_neg (by simp [hop]), if_pos hop, hcounted]
  · rw [State.on, if_pos (bne_iff_ne.mpr hop), if_neg hop, State.sendDeltas, hcounted]

/-- Settles O21, from where a landing places its bytes, what a discard leaves, and how a group is combined. -/
theorem slotsLand : Obligations.SlotsLand := by
  intro s link w hdown hrx
  refine ⟨?good, ?bad, ?group⟩
  case good =>
    intro data hop haccepted hspoilt hawake hpattern hkind bytes a
    have hland := State.landSlot_good (s := s.addCredits link data.credits) data.bytes
      (by rwa [State.addCredits_rxOf]) hop haccepted (by rwa [State.addCredits_badSlots])
      (by rwa [State.addCredits_sleepingTarget])
    rw [hkind, hpattern] at hland
    have hmem : ((s.addCredits link data.credits).landSlot link data.bytes false false).mem =
        Memory.write s.mem a bytes := by
      rw [hland, State.setRx_mem]
      exact State.landBytes_mem ..
    refine ⟨_, exec_slotLand hdown, ?readBack, fun x hx => ?elsewhere, ?window⟩
    case readBack => rw [State.read, hmem, Memory.read_write_same]
    case elsewhere => rw [hmem, Memory.get_write_other hx]
    case window => rw [hland, State.rxOf_setRx, hpattern]
  case bad =>
    intro data overflow
    obtain ⟨u, v, hframe, hslots, hland⟩ := State.landSlot_bad (s := s.addCredits link data.credits) data.bytes overflow
      (by rwa [State.addCredits_rxOf])
    have hbefore : Only [.links, .cores, .dies, .supply] s u :=
      ((s.addCredits_frame link data.credits).mono (by decide)).trans hframe
    have hafter : Only [.links, .cores, .dies, .supply, .hold, .objects, .ring] s (u.landingFault link w 1) :=
      State.landingFault_only (hbefore.mono (by decide)) (by decide) ..
    refine ⟨_, exec_slotLand hdown, ?_⟩
    rw [hland, State.setRx_mem, State.setRx_stores, State.setRx_mailboxes, State.setRx_obj, State.setRx_hold,
      State.rxOf_setRx, State.landingFault_counted, obj_of_only hbefore (by decide)]
    exact ⟨hafter.2 .mem (by decide), hafter.2 .stores (by decide), hafter.2 .mailboxes (by decide), rfl, rfl,
      congrArg some hslots⟩
  case group =>
    intro j hwhole o lo mine operand r hkind hpoison
    refine ⟨_, exec_reduceGroupCombine hdown hrx hwhole hpoison, ?_⟩
    have hkind' : w.open_.dstKind.toNat = 0 := congrArg BitVec.toNat hkind
    have hwritten := s.landBytes_mem w.open_.dstAddr.toNat (w.groupStart j) (s.combined w j).1
    rw [hkind', State.combineEnds_deltas, State.setRx_deltas, (s.landBytes_frame ..).2 .deltas (by decide), State.read,
      (State.combineEnds_frame ..).2 .mem (by decide), State.setRx_mem, hwritten, State.rxOf,
      (State.combineEnds_frame ..).2 .tt (by decide)]
    exact ⟨Memory.read_write_same, State.rxOf_setRx .., rfl⟩

end Sys2Proof.Machine

/-!
The EVENTs of the timetable on cores, dies and semaphores, and bivouac (O22).
-/
namespace Sys2Proof.Machine

/-! ### Units outside the parts that change -/

theorem core_of_only {s t : State} {ps : List Part} (h : Only ps s t) (hp : Part.cores ∉ ps) (c : Nat) :
    t.core c = s.core c := congrArg (Tbl.get CoreSt.reset · c) (h.2 .cores hp)

theorem ctx_of_only {s t : State} {ps : List Part} (h : Only ps s t) (hp : Part.ctxs ∉ ps) (c x : Nat) :
    t.ctx c x = s.ctx c x := congrArg (Tbl.get CtxSt.reset · (ctxKey c x)) (h.2 .ctxs hp)

theorem sem_of_only {s t : State} {ps : List Part} (h : Only ps s t) (hp : Part.sems ∉ ps) (c n : Nat) :
    t.sem c n = s.sem c n := congrArg (Tbl.get SemSt.reset · (64 * c + n)) (h.2 .sems hp)

theorem semWaiters_of_only {s t : State} {ps : List Part} (h : Only ps s t) (hp : Part.ctxs ∉ ps) (c n : Nat) :
    t.semWaiters c n = s.semWaiters c n := by
  simp only [State.semWaiters, ctx_of_only h hp]

/-! ### An EVENT fires (R77) -/

theorem State.fires_frame (s : State) (l i due : Nat) : Only [.hall, .time, .tt] s (s.fires l i due) :=
  State.markFired_only (State.reach_only (Only.refl _ s) (by decide) _) (by decide) l i _

/-- Each time an EVENT is due it fires once: its entry counts it. -/
theorem State.fires_counted (s : State) (l i due : Nat) :
    Tbl.get 0 ((s.fires l i due).engine l).fired i = Tbl.get 0 (s.engine l).fired i + 1 := by
  rw [State.fires, State.markFired, State.engine_setEngine, Tbl.get_set_same]

theorem State.fires_logged {s u : State} {l i due : Nat} {events : List Nat}
    (h : Logged (s.fires l i due) u events) : Logged s u events :=
  h.congr_left ((s.fires_frame l i due).2 .ring (by decide)).symm

/-- What the effect of an EVENT on cores and dies keeps of the firing: its instant, and its count. -/
theorem State.fired_of_only {s u : State} {l i due : Nat} {ps : List Part} (h : Only ps (s.fires l i due) u)
    (hhall : Part.hall ∉ ps) (htt : Part.tt ∉ ps) : u.hall = max s.hall (64 * (due + s.lag)) ∧
      u.now = (s.fires l i due).now ∧ Tbl.get 0 (u.engine l).fired i = Tbl.get 0 (s.engine l).fired i + 1 := by
  have hu : u.hall = (s.fires l i due).hall := h.2 .hall hhall
  refine ⟨hu.trans (s.fires_hall l i due), by rw [State.now, hu, State.now], ?_⟩
  rw [State.engine, h.2 .tt htt]
  exact s.fires_counted l i due

/-! ### Waking (R372) -/

theorem State.wakeDie_frame (s : State) (d : Nat) : Only [.dies, .supply] s (s.wakeDie d) :=
  State.wakeDie_only (Only.refl _ s) (by decide) d

theorem State.wakeCore_frame (s : State) (c : Nat) : Only [.cores, .dies, .supply] s (s.wakeCore c) :=
  State.wakeCore_only (Only.refl _ s) (by decide) c

/-- A sleeping core begins to wake at this instant. -/
theorem State.wakeCore_asleep {s : State} {c : Nat} (hasleep : (s.core c).power = .asleep) :
    ((s.wakeCore c).core c).power = .waking ∧ ((s.wakeCore c).core c).wakeAt = s.now := by
  have hcore : (s.wakeDie (c / 48)).core c = s.core c := core_of_only (s.wakeDie_frame _) (by decide) c
  have hnow : (s.wakeDie (c / 48)).now = s.now := by
    rw [State.now, (s.wakeDie_frame _).2 .hall (by decide), State.now]
  rw [State.wakeCore, core_mapCore, hcore]
  simp only [hasleep, true_and]

/-- A sleeping die begins to wake at this instant. -/
theorem State.wakeDie_asleep {s : State} {d : Nat} (hasleep : Tbl.get .awake s.dies d = .asleep) :
    Tbl.get .awake (s.wakeDie d).dies d = .waking ∧ Tbl.get 0 (s.wakeDie d).supply.dieWakes d = s.now := by
  simp only [State.wakeDie, hasleep, Tbl.get_set_same, and_self]

theorem State.die_setDie (s : State) (d : Nat) (p : CorePower) : Tbl.get .awake (s.setDie d p).dies d = p := by
  rw [State.setDie, Tbl.get_set_same]

theorem State.setDie_hall (s : State) (d : Nat) (p : CorePower) : (s.setDie d p).hall = s.hall := rfl

theorem exec_wakeCore {s : State} {core : Core} {l i due : Nat} (hdown : s.down = false)
    (hdue : s.EventDue (isEvent 1 core) l i due) :
    exec (.wakeCore core) s = .next ((s.fires l i due).wakeCore core) := onEvent_of_due (·.wakeCore core) hdown hdue

theorem exec_wakeDie {s : State} {die : Die} {l i due : Nat} (hdown : s.down = false)
    (hdue : s.EventDue (isEvent 2 die) l i due) :
    exec (.wakeDie die) s = .next ((s.fires l i due).wakeDie die) := onEvent_of_due (·.wakeDie die) hdown hdue

/-! ### Sleeping (R78, R371) -/

theorem State.ignoreSleep_frame (s : State) (dom : Nat) : Only [.objects, .ring] s (s.ignoreSleep dom) :=
  State.ignoreSleep_only (Only.refl _ s) (by decide) dom

/-- A sleep that does not apply is counted and logged. -/
theorem State.ignoreSleep_counted (s : State) (dom : Nat) :
    (s.ignoreSleep dom).obj 0x2014 3 = (s.obj 0x2014 3 + 1) % 2 ^ 32 ∧ Logged s (s.ignoreSleep dom) [0x2019] := by
  refine ⟨?_, Logged.log_of_faults (State.count_faults ..) 0x2019 dom [] (by decide)⟩
  rw [State.ignoreSleep, State.log_obj _ _ _ (by decide) (by decide), State.obj_count, if_pos rfl]

/-- What an EVENT leaves that asks for a sleep which does not apply. -/
theorem State.fires_ignoreSleep (s : State) (l i due dom : Nat) :
    Only [.hall, .time, .tt, .objects, .ring] s ((s.fires l i due).ignoreSleep dom) ∧
      ((s.fires l i due).ignoreSleep dom).obj 0x2014 3 = (s.obj 0x2014 3 + 1) % 2 ^ 32 ∧
      Logged s ((s.fires l i due).ignoreSleep dom) [0x2019] := by
  obtain ⟨hcounted, hlogged⟩ := (s.fires l i due).ignoreSleep_counted dom
  rw [obj_of_only (s.fires_frame l i due) (by decide)] at hcounted
  exact ⟨((s.fires_frame l i due).mono (by decide)).then ((s.fires l i due).ignoreSleep_frame dom) (by decide),
    hcounted, State.fires_logged hlogged⟩

theorem State.fires_coreParked (s : State) (l i due c : Nat) :
    (s.fires l i due).coreParked c = s.coreParked c := by
  simp only [State.coreParked, ctx_of_only (s.fires_frame l i due) (by decide)]

/-- The core drains where it is clocked. -/
def State.drain (s : State) (c : Nat) : State :=
  s.mapCore c fun v => if v.power = .awake then { v with power := .draining } else v

theorem exec_sleepCore {s : State} {core : Core} {l i due : Nat} (hdown : s.down = false)
    (hdue : s.EventDue (isEvent 3 core) l i due) : exec (.sleepCore core) s =
      .next (if s.coreParked core then (s.fires l i due).drain core
        else (s.fires l i due).ignoreSleep (domCore core)) := by
  change execSleepCore core s = _
  rw [execSleepCore, onEvent_of_due _ hdown hdue, State.fires_coreParked]
  rfl

theorem State.drain_awake {s : State} {c : Nat} (hawake : (s.core c).power = .awake) :
    ((s.drain c).core c).power = .draining := by
  rw [State.drain, core_mapCore, if_pos hawake]

/-- The 48 cores of the die are gated. -/
def State.dieGated (s : State) (d : Nat) : Bool := (List.range 48).all fun i => (s.core (48 * d + i)).power == .asleep

theorem State.dieGated_iff (s : State) (d : Nat) :
    s.dieGated d = true ↔ ∀ i < 48, (s.core (48 * d + i)).power = .asleep := by
  simp [State.dieGated]

theorem State.fires_dieGated (s : State) (l i due d : Nat) : (s.fires l i due).dieGated d = s.dieGated d := by
  simp only [State.dieGated, core_of_only (s.fires_frame l i due) (by decide)]

theorem exec_sleepDie {s : State} {die : Die} {l i due : Nat} (hdown : s.down = false)
    (hdue : s.EventDue (isEvent 4 die) l i due) : exec (.sleepDie die) s =
      .next (if s.dieGated die then (s.fires l i due).setDie die .asleep
        else (s.fires l i due).ignoreSleep (domDie die)) := by
  rw [← State.fires_dieGated s l i due]
  change execSleepDie die s = _
  rw [execSleepDie, onEvent_of_due _ hdown hdue]
  rfl

/-! ### A post (R202, R203) -/

theorem State.evalSem_of_no_waiters {s : State} {c n : Nat} (hnone : s.semWaiters c n = []) : s.evalSem c n = s := by
  rw [State.evalSem, hnone]
  rfl

theorem State.wait_of_no_waiters {s : State} {c n x : Nat} (hnone : s.semWaiters c n = []) (hx : x < 8)
    (k since : Nat) : (s.ctx c x).wait ≠ .sem n k since := by
  intro hwait
  have hskipped := List.filterMap_eq_nil_iff.mp hnone x (List.mem_range.mpr hx)
  rw [hwait] at hskipped
  simp at hskipped

/-- One post to a semaphore of a clocked core that nothing waits on. -/
theorem State.post_unawaited {s : State} {c n : Nat} (hn : n < 64) (hawake : (s.core c).power = .awake)
    (hnone : s.semWaiters c n = []) (hroom : (s.sem c n).count.toNat < 65535) :
    s.post c n 1 false = s.setSem c n { s.sem c n with count := (s.sem c n).count + 1 } := by
  have hnone' : ∀ v : SemSt, (s.setSem c n v).semWaiters c n = [] := fun v => hnone
  have hclocked : ¬ ((s.core c).power = .asleep ∨ (s.core c).power = .waking) := by simp [hawake]
  have hfits : ¬ 65535 < (s.sem c n).count.toNat + 1 := by omega
  unfold State.post
  rw [if_neg (Nat.not_le.mpr hn)]
  dsimp only
  rw [if_neg hclocked, if_neg Bool.false_ne_true, if_neg hfits, each_id, State.evalSem_of_no_waiters (hnone' _)]
  · rfl
  · intro x hx
    split
    next m k since hwait =>
      exact if_neg fun hm => State.wait_of_no_waiters (hnone' _) (List.mem_range.mp hx) k since (hm ▸ hwait)
    next => rfl

/-- A post to a semaphore that does not exist is counted and logged (R202). -/
theorem State.post_missing {s : State} {n : Nat} (c k : Nat) (inner : Bool) (hn : 64 ≤ n) :
    s.post c n k inner = (s.count 0x4030 2).log 0x4033 (domCore c) := if_pos hn

theorem State.post_frame (s : State) (c n k : Nat) (inner : Bool) :
    Only [.out, .hold, .links, .cores, .ctxs, .sems, .dies, .objects, .ring, .msix, .supply, .alert] s
      (s.post c n k inner) := State.post_only (Only.refl _ s) (by decide) c n k inner

theorem exec_eventSemPost {s : State} {core : Core} {sem : BitVec 8} {l i due : Nat} (hdown : s.down = false)
    (hdue : s.EventDue (fun e => isEvent 5 core e && entSrc e == sem.toNat) l i due) :
    exec (.eventSemPost core sem) s = .next ((s.fires l i due).post core sem.toNat 1 false) :=
  onEvent_of_due (·.post core sem.toNat 1 false) hdown hdue

/-! ### Gating, and the end of a wake (R371, R372) -/

theorem exec_coreGate {s : State} {core : Core} (hdown : s.down = false) (hdraining : (s.core core).power = .draining)
    (hempty : s.queuesEmpty core = true) :
    exec (.coreGate core) s = .next (s.mapCore core fun v => { v with power := .asleep }) := by
  change execCoreGate core s = _
  rw [execCoreGate, act_up hdown, if_pos ⟨hdraining, hempty⟩]

theorem exec_coreWakeComplete {s : State} {core : Core} (hdown : s.down = false)
    (hwaking : (s.core core).power = .waking) (hdie : Tbl.get .awake s.dies (core / 48) = .awake) :
    exec (.coreWakeComplete core) s = .next ((s.reach ((s.core core).wakeAt + 50)).coreAwakes core) := by
  change execCoreWakeComplete core s = _
  rw [execCoreWakeComplete, act_up hdown, if_pos ⟨hwaking, hdie⟩]

theorem State.coreAwakes_hall (s : State) (c : Nat) : (s.coreAwakes c).hall = s.hall :=
  (State.coreAwakes_only (parts := [.out, .hold, .links, .stores, .cores, .ctxs, .sems, .movers, .dies, .objects, .ring,
    .msix, .supply, .alert]) (Only.refl _ s) (by decide) c).2 .hall (by decide)

/-- With nothing that waited for the wake, the core is awake. -/
theorem State.coreAwakes_power {s : State} {c : Nat} (hposts : (s.core c).latePosts = [])
    (hscale : (s.core c).lateScale = false) : ((s.coreAwakes c).core c).power = .awake := by
  have hstarts : ∀ u : State, Only [.ctxs, .movers] u ((u.each (List.range 8) fun t x =>
      t.mapCtx c x fun v => { v with pace := t.now }).each [2 * c, 2 * c + 1] fun t m =>
        t.setMover m { t.mover m with pace := t.now }) := fun u =>
    State.each_only (State.each_only (Only.refl _ u) _ _ fun t x ht => State.mapCtx_only ht (by decide) ..) _ _
      fun t m ht => State.setMover_only ht (by decide) ..
  unfold State.coreAwakes
  dsimp only
  rw [hposts, hscale, State.on, if_neg Bool.false_ne_true, State.each, List.foldl_nil,
    core_of_only (hstarts _) (by decide), core_mapCore]

/-- The cores of a die that is awake again: those that wake with it follow from now. -/
def State.coresFollow (s : State) (d : Nat) : State :=
  s.each (List.range 48) fun s i => s.mapCore (48 * d + i) fun v =>
    if v.power = .waking then { v with wakeAt := s.now } else v

theorem State.coresFollow_frame (s : State) (d : Nat) : Only [.cores] s (s.coresFollow d) :=
  State.each_only (Only.refl _ s) _ _ fun _ _ ht => State.mapCore_only ht (by decide) ..

theorem exec_dieWakeComplete {s : State} {die : Die} (hdown : s.down = false)
    (hwaking : Tbl.get .awake s.dies die = .waking) : exec (.dieWakeComplete die) s =
      .next ((((s.reach (Tbl.get 0 s.supply.dieWakes die + 20000)).setDie die .awake).setSupply fun p =>
        { p with dieWakes := Tbl.set 0 p.dieWakes die 0 }).coresFollow die) := by
  change execDieWakeComplete die s = _
  rw [execDieWakeComplete, act_up hdown, if_neg (not_not_intro hwaking)]
  rfl

/-- Settles O22, from what each EVENT does in the state in which it fires. -/
theorem eventsAndBivouac : Obligations.EventsAndBivouac := by
  intro s hdown
  refine ⟨?wakeCore, ?wakeDie, ?sleepCore, ?sleepDie, ?post, ?gate, ?coreWake, ?dieWake⟩
  case wakeCore =>
    intro core l i due hdue hasleep
    obtain ⟨hhall, hnow, hfired⟩ := State.fired_of_only ((s.fires l i due).wakeCore_frame core) (by decide) (by decide)
    obtain ⟨hwaking, hwakeAt⟩ := State.wakeCore_asleep (s := s.fires l i due) (c := core)
      (by rwa [core_of_only (s.fires_frame l i due) (by decide)])
    exact ⟨_, exec_wakeCore hdown hdue, hhall, hwaking, hwakeAt.trans hnow.symm, hfired⟩
  case wakeDie =>
    intro die l i due hdue hasleep
    have hframe := (s.fires l i due).wakeDie_frame die
    obtain ⟨hhall, hnow, -⟩ := State.fired_of_only hframe (by decide) (by decide)
    obtain ⟨hwaking, hwakeAt⟩ := State.wakeDie_asleep (s := s.fires l i due) (d := die)
      (by rwa [(s.fires_frame l i due).2 .dies (by decide)])
    exact ⟨_, exec_wakeDie hdown hdue, hhall, hwaking, hwakeAt.trans hnow.symm,
      (hframe.2 .cores (by decide)).trans ((s.fires_frame l i due).2 .cores (by decide))⟩
  case sleepCore =>
    intro core l i due hdue
    obtain ⟨hframe, hcounted, hlogged⟩ := s.fires_ignoreSleep l i due (domCore core)
    refine ⟨_, exec_sleepCore hdown hdue, ?_⟩
    by_cases hparked : s.coreParked core = true
    · rw [if_pos hparked]
      refine ⟨(State.mapCore_hall ..).trans (s.fires_hall l i due), fun _ hawake => State.drain_awake ?_,
        fun h => absurd hparked (by simp [h])⟩
      rwa [core_of_only (s.fires_frame l i due) (by decide)]
    · rw [if_neg hparked]
      exact ⟨((State.ignoreSleep_frame ..).2 .hall (by decide)).trans (s.fires_hall l i due), fun h => absurd h hparked,
        fun _ => ⟨hframe.2 .cores (by decide), hcounted, hlogged⟩⟩
  case sleepDie =>
    intro die l i due hdue
    obtain ⟨hframe, hcounted, hlogged⟩ := s.fires_ignoreSleep l i due (domDie die)
    refine ⟨_, exec_sleepDie hdown hdue, ?_⟩
    by_cases hgated : s.dieGated die = true
    · rw [if_pos hgated]
      refine ⟨s.fires_hall l i due, fun _ => State.die_setDie .., fun ⟨k, hk, hclocked⟩ => ?_⟩
      exact absurd ((s.dieGated_iff die).mp hgated k hk) hclocked
    · rw [if_neg hgated]
      exact ⟨((State.ignoreSleep_frame ..).2 .hall (by decide)).trans (s.fires_hall l i due),
        fun h => absurd ((s.dieGated_iff die).mpr h) hgated, fun _ => ⟨hframe.2 .dies (by decide), hcounted, hlogged⟩⟩
  case post =>
    intro core sem l i due hdue
    have hfires := s.fires_frame l i due
    refine ⟨_, exec_eventSemPost hdown hdue, ((State.post_frame ..).2 .hall (by decide)).trans (s.fires_hall l i due),
      fun hn hawake hnone hroom => ?counted, fun hn => ?missing⟩
    case counted =>
      rw [State.post_unawaited hn (by rwa [core_of_only hfires (by decide)])
        (by rwa [semWaiters_of_only hfires (by decide)]) (by rwa [sem_of_only hfires (by decide)]), State.sem_setSem,
        sem_of_only hfires (by decide)]
    case missing =>
      rw [State.post_missing _ _ _ hn, State.log_sems, State.count_sems, State.log_obj _ _ _ (by decide) (by decide),
        State.obj_count, if_pos rfl, obj_of_only hfires (by decide)]
      exact ⟨hfires.2 .sems (by decide), rfl,
        State.fires_logged (Logged.log_of_faults (State.count_faults ..) 0x4033 _ [] (by decide))⟩
  case gate =>
    intro core hdraining hempty
    exact ⟨_, exec_coreGate hdown hdraining hempty, by rw [core_mapCore]⟩
  case coreWake =>
    intro core hwaking hdie
    have hcore : (s.reach ((s.core core).wakeAt + 50)).core core = s.core core := by rw [State.reach_core]
    refine ⟨_, exec_coreWakeComplete hdown hwaking hdie, (State.coreAwakes_hall ..).trans (State.reach_hall' _),
      fun hposts hscale => State.coreAwakes_power ?_ ?_⟩
    · rwa [hcore]
    · rwa [hcore]
  case dieWake =>
    intro die hwaking
    refine ⟨_, exec_dieWakeComplete hdown hwaking, ?_, ?_⟩
    · rw [(State.coresFollow_frame ..).2 .dies (by decide), State.setSupply_dies, State.die_setDie]
    · rw [(State.coresFollow_frame ..).2 .hall (by decide), State.setSupply_hall, State.setDie_hall, State.reach_hall']

end Sys2Proof.Machine

/-!
The hall hold and its resume (O23): HOLD and RESUME messages, the hold tick and the resume tick, a hold past its
limit, and a RESUME that waits for its HOLD.
-/
namespace Sys2Proof.Machine

/-! ### A message arrives (R82, R83) -/

theorem State.owe_frame (s : State) (die port vc n : Nat) : Only [.links] s (s.owe die port vc n) :=
  State.owe_only (Only.refl _ s) (by decide) die port vc n

/-- A change of a link's record that keeps its queue. -/
theorem State.mapLink_queue {s : State} {k : Nat} {f : LinkSt → LinkSt} (hf : (f (s.link k)).queue = (s.link k).queue)
    (l : Nat) : ((s.mapLink k f).link l).queue = (s.link l).queue := by
  by_cases hl : l = k
  · subst hl
    rw [State.mapLink, State.link_setLink, hf]
  · have hother : (s.mapLink k f).link l = s.link l := Tbl.get_set_other hl
    rw [hother]

/-- Credits that a link owes join no packet to its queue. -/
theorem State.owe_queue (s : State) (die port vc n l : Nat) :
    ((s.owe die port vc n).link l).queue = (s.link l).queue := by
  unfold State.owe
  split
  · exact State.mapLink_queue rfl l
  · rfl

theorem State.discardMessage_hold (s : State) : s.discardMessage.hold = s.hold := by
  rw [State.discardMessage, State.log_hold, State.count_hold]

theorem State.discardMessage_counted (s : State) :
    s.discardMessage.obj 0x6000 7 = (s.obj 0x6000 7 + 1) % 2 ^ 32 := by
  rw [State.discardMessage, State.log_obj _ _ _ (by decide) (by decide), State.obj_count, if_pos rfl]

theorem State.discardMessage_logged (s : State) : Logged s s.discardMessage [0x600A] :=
  Logged.log_of_faults (State.count_faults ..) 0x600A _ [] (by decide)

/-- The buffer that held a message returns its credits to the link (R119). -/
def State.consume (s : State) (l : Nat) : State := s.owe (l / 32) (l % 32) 0 2

theorem State.consume_frame (s : State) (l : Nat) : Only [.links] s (s.consume l) := s.owe_frame ..

theorem State.consume_hold (s : State) (l : Nat) : (s.consume l).hold = s.hold :=
  (s.consume_frame l).2 .hold (by decide)

/-- What a message that fails its checks leaves (R82). -/
theorem State.consume_discard (s : State) (l : Nat) : (s.consume l).discardMessage.hold = s.hold ∧
    (s.consume l).discardMessage.obj 0x6000 7 = (s.obj 0x6000 7 + 1) % 2 ^ 32 ∧
    Logged s (s.consume l).discardMessage [0x600A] :=
  ⟨(State.discardMessage_hold _).trans (s.consume_hold l),
    (State.discardMessage_counted _).trans (by rw [obj_of_only (s.consume_frame l) (by decide)]),
    (State.discardMessage_logged _).congr_left ((s.consume_frame l).2 .ring (by decide)).symm⟩

/-- A message that is flooded already only leaves its buffer. -/
theorem State.consume_repeat (s : State) (l : Nat) :
    Only [.links] s (s.consume l) ∧ ∀ k : Nat, ((s.consume l).link k).queue = (s.link k).queue :=
  ⟨s.consume_frame l, fun k => s.owe_queue _ _ _ _ k⟩

/-- A new message, by its identity, is noted and goes on over the other links (R83). -/
def State.relay (s : State) (l w kind : Nat) : State :=
  ((s.consume l).setHold fun h => { h with seen := (fld w 247 232, fld w 231 216, kind) :: h.seen }).flood
    (BitVec.ofNat 256 w) (some l)

theorem State.relay_hold (s : State) (l w kind : Nat) :
    (s.relay l w kind).hold = { s.hold with seen := (fld w 247 232, fld w 231 216, kind) :: s.hold.seen } := by
  rw [State.relay, State.flood_hold, State.setHold_hold, State.consume_hold]

theorem State.relay_frame (s : State) (l w kind : Nat) : Only [.links, .hold] s (s.relay l w kind) :=
  State.flood_only ((s.consume_frame l).mono (by decide) |>.then
    (State.setHold_only (parts := [.hold]) (Only.refl _ _) (by decide) _) (by decide)) (by decide) _ _

theorem State.relay_now (s : State) (l w kind : Nat) : (s.relay l w kind).now = s.now := by
  rw [State.now, (s.relay_frame l w kind).2 .hall (by decide), State.now]

theorem State.relay_ring (s : State) (l w kind : Nat) : (s.relay l w kind).faults.ring = s.faults.ring :=
  (s.relay_frame l w kind).2 .ring (by decide)

theorem State.firstSeen_of_seen {s : State} {origin seq kind : Nat}
    (hseen : s.hold.seen.contains (origin, seq, kind) = true) : s.firstSeen origin seq kind = (false, s) :=
  if_pos hseen

theorem State.firstSeen_of_new {s : State} {origin seq kind : Nat}
    (hnew : s.hold.seen.contains (origin, seq, kind) = false) : s.firstSeen origin seq kind =
      (true, s.setHold fun h => { h with seen := (origin, seq, kind) :: h.seen }) :=
  if_neg (by rw [hnew]; exact Bool.false_ne_true)

/-! ### HOLD (R83, R85, R86) -/

theorem State.enterHold_hold (s : State) : s.enterHold.hold = { s.hold with held := true } := by
  unfold State.enterHold State.on
  dsimp only
  split <;> simp [State.applyCut]

theorem State.enterHold_hall (s : State) : s.enterHold.hall = s.hall :=
  (State.enterHold_only (parts := [.hold, .objects, .ring, .supply]) (Only.refl _ s) (by decide)).2 .hall (by decide)

theorem State.enterHold_logged (s : State) : Logged s s.enterHold [0x2013] := by
  have hlogged : Logged s ((s.setHold fun h => { h with held := true }).log 0x2013) [0x2013] :=
    Logged.log_of_faults (State.setHold_faults ..) 0x2013 0 [] (by decide)
  unfold State.enterHold State.on
  dsimp only
  split
  · exact hlogged.congr (by rw [State.applyCut, State.setSupply_faults])
  · exact hlogged

/-- A load cut that waits for the hold tick is in force from it on (R384). -/
theorem State.enterHold_cut {s : State} (hpending : s.supply.cutPending = true) : s.enterHold.supply.cut = true := by
  unfold State.enterHold State.on
  dsimp only
  rw [State.log_supply, State.setHold_supply, if_pos hpending]
  rfl

/-- The first hold that joins. -/
theorem HallHold.join_first {h : HallHold} (i : HoldId) (tick : Nat) (htick : h.tick = none) (hjoined : h.joined = []) :
    h.join i tick = { h with tick := some tick, joined := [i] }.takeKept i := by
  simp [HallHold.join, HallHold.joinOne, htick, hjoined]

theorem State.receiveHold_bad {s : State} {l w : Nat} (hbad : holdMessageOk w 1 = false) :
    s.receiveHold l w = (s.consume l).discardMessage := by
  simp only [State.receiveHold, hbad, State.consume, Bool.not_false, if_true]

theorem State.receiveHold_repeat {s : State} {l w : Nat} (hok : holdMessageOk w 1 = true)
    (hseen : s.hold.seen.contains (fld w 247 232, fld w 231 216, 1) = true) : s.receiveHold l w = s.consume l := by
  unfold State.receiveHold
  rw [if_neg (by simp [hok])]
  dsimp only
  rw [State.firstSeen_of_seen (by rw [← State.consume, State.consume_hold]; exact hseen)]
  exact if_pos rfl

/-- A new HOLD while no hold is in progress: it joins, and stops the module at once where its tick has passed. -/
theorem State.receiveHold_first {s : State} {l w : Nat} (hok : holdMessageOk w 1 = true)
    (hnew : s.hold.seen.contains (fld w 247 232, fld w 231 216, 1) = false) (hheld : s.hold.held = false) :
    s.receiveHold l w =
      let u := (s.relay l w 1).setHold (·.join ⟨fld w 247 232, fld w 231 216, fld w 215 208⟩ (fld w 199 136))
      if fld w 199 136 < s.now then (u.log 0x2015).schedFault.enterHold else u := by
  have hnow := s.relay_now l w 1
  have hheld' : (s.relay l w 1).hold.held = false := by rw [State.relay_hold]; exact hheld
  unfold State.receiveHold
  rw [if_neg (by simp [hok])]
  dsimp only
  rw [State.firstSeen_of_new (by rw [← State.consume, State.consume_hold]; exact hnew)]
  rw [State.relay, State.consume] at hnow hheld' ⊢
  simp only [Bool.not_true, Bool.false_eq_true, if_false, hheld', hnow, Bool.not_false, Bool.true_or, Bool.and_true,
    State.on, decide_eq_true_eq]
  split <;> rfl

theorem exec_hold {s : State} {link : Link} {msg : BitVec 256} (hdown : s.down = false) :
    exec (.hold link msg) s = .next (s.receiveHold link msg.toNat) :=
  exec_of_act (f := fun s => s.receiveHold link msg.toNat) rfl hdown

/-- What the first HOLD leaves: its tick in force, and the module stopped where that has passed (log entry 15). -/
theorem State.receiveHold_first_spec {s : State} {l w : Nat} (hok : holdMessageOk w 1 = true)
    (hnew : s.hold.seen.contains (fld w 247 232, fld w 231 216, 1) = false) (htick : s.hold.tick = none)
    (hheld : s.hold.held = false) (hjoined : s.hold.joined = []) :
    let t := s.receiveHold l w
    t.hold.tick = some (fld w 199 136) ∧ t.hold.joined = [⟨fld w 247 232, fld w 231 216, fld w 215 208⟩] ∧
      (s.now ≤ fld w 199 136 → t.hold.held = false ∧ t.hold.schedFault = s.hold.schedFault) ∧
      (fld w 199 136 < s.now → t.hold.held = true ∧ t.hold.schedFault = true ∧ Logged s t [0x2013, 0x2015]) := by
  rw [State.receiveHold_first hok hnew hheld]
  dsimp only
  have hjoin : ((s.relay l w 1).hold).join ⟨fld w 247 232, fld w 231 216, fld w 215 208⟩ (fld w 199 136) =
      { (s.relay l w 1).hold with
        tick := some (fld w 199 136)
        joined := [⟨fld w 247 232, fld w 231 216, fld w 215 208⟩] }.takeKept
          ⟨fld w 247 232, fld w 231 216, fld w 215 208⟩ :=
    HallHold.join_first _ _ (by rw [State.relay_hold]; exact htick) (by rw [State.relay_hold]; exact hjoined)
  by_cases hlate : fld w 199 136 < s.now
  · rw [if_pos hlate, State.enterHold_hold, State.schedFault, State.setHold_hold, State.log_hold, State.setHold_hold,
      hjoin]
    refine ⟨rfl, rfl, fun hnow => absurd hlate (Nat.not_lt.mpr hnow), fun _ => ⟨rfl, rfl, ?logged⟩⟩
    have hfirst : Logged s (((s.relay l w 1).setHold (·.join ⟨fld w 247 232, fld w 231 216, fld w 215 208⟩
        (fld w 199 136))).log 0x2015) [0x2015] :=
      logged1 (by rw [State.setHold_faults, State.relay_ring]) 0x2015 0 [] (by decide)
    exact (hfirst.congr (u := State.schedFault _) (by rw [State.schedFault, State.setHold_faults])).trans
      (State.enterHold_logged _)
  · rw [if_neg hlate, State.setHold_hold, hjoin, State.relay_hold]
    exact ⟨rfl, rfl, fun _ => ⟨hheld, rfl⟩, fun h => absurd h hlate⟩

/-! ### RESUME (R85, R87) -/

/-- The RESUME that a message carries. -/
def resumeOf (w : Nat) : ResumeMsg :=
  ⟨fld w 247 232, fld w 231 216, fld w 199 136, (msgLost w).take (fld w 207 200)⟩

theorem State.receiveResume_bad {s : State} {l w : Nat} (hbad : holdMessageOk w 2 = false) :
    s.receiveResume l w = (s.consume l).discardMessage := by
  simp only [State.receiveResume, hbad, State.consume, Bool.not_false, if_true]

theorem State.receiveResume_repeat {s : State} {l w : Nat} (hok : holdMessageOk w 2 = true)
    (hseen : s.hold.seen.contains (fld w 247 232, fld w 231 216, 2) = true) : s.receiveResume l w = s.consume l := by
  unfold State.receiveResume
  rw [if_neg (by simp [hok])]
  dsimp only
  rw [State.firstSeen_of_seen (by rw [← State.consume, State.consume_hold]; exact hseen)]
  exact if_pos rfl

/-- A new RESUME counts for the joined hold of its identity, or is kept with its arrival. -/
theorem State.receiveResume_new {s : State} {l w : Nat} (hok : holdMessageOk w 2 = true)
    (hnew : s.hold.seen.contains (fld w 247 232, fld w 231 216, 2) = false) :
    (s.receiveResume l w).hold =
      if s.hold.joined.any (fun i => i.origin == fld w 247 232 && i.seq == fld w 231 216) then
        { (s.relay l w 2).hold with resumes := s.hold.resumes ++ [resumeOf w] }
      else { (s.relay l w 2).hold with kept := s.hold.kept ++ [(resumeOf w, s.now)] } := by
  have hnow := s.relay_now l w 2
  have hhold := s.relay_hold l w 2
  unfold State.receiveResume
  rw [if_neg (by simp [hok])]
  dsimp only
  rw [State.firstSeen_of_new (by rw [← State.consume, State.consume_hold]; exact hnew)]
  rw [State.relay, State.consume] at hnow hhold ⊢
  simp only [Bool.not_true, Bool.false_eq_true, if_false, hhold, hnow]
  split <;> simp only [State.setHold_hold, hhold, resumeOf]

theorem exec_resume {s : State} {link : Link} {msg : BitVec 256} (hdown : s.down = false) :
    exec (.resume link msg) s = .next (s.receiveResume link msg.toNat) :=
  exec_of_act (f := fun s => s.receiveResume link msg.toNat) rfl hdown

/-! ### The hold tick and the resume tick (R84, R85) -/

theorem exec_holdTick {s : State} {tick : Nat} (hdown : s.down = false) (htick : s.hold.tick = some tick)
    (hheld : s.hold.held = false) : exec .holdTick s = .next (s.reach tick).enterHold := by
  change execHoldTick s = _
  rw [execHoldTick, act_up hdown, htick]
  exact congrArg _ (if_neg (by simp [hheld]))

/-- What is recorded of a hold that ends. -/
theorem State.resumeRecords_frame (s : State) (length : Nat) :
    Only [.objects, .ring, .faults] s ((s.log 0x2014).recoveriesEnd length).resumeStep :=
  State.resumeStep_only (State.recoveriesEnd_only (State.log_only (Only.refl _ s) (by decide) _ _ _) (by decide) _)
    (by decide)

theorem State.enterLost_of_none {s : State} (hnone : namedLinks s.hold = []) : s.enterLost = s := by
  simp [State.enterLost, hnone]

/-- With no hold behind it the hold that ends leaves none in progress. -/
theorem HallHold.nextHold_of_none {h : HallHold} (hlater : h.later = []) :
    h.nextHold = { h with tick := none, joined := [], resumes := [] } := by
  simp only [HallHold.nextHold, hlater]

/-- The hall hold once everything goes on. -/
def State.holdAfterResume (s : State) (tick : Nat) : HallHold :=
  { s.hold with
    held := false, tick := none, joined := [], resumes := []
    offset := s.hold.offset + if s.tt.active.isSome then s.hold.resumeTick - tick else 0
    lastLength := s.hold.resumeTick - tick, endedAt := s.hold.resumeTick }

/-- A resume that names no lost link, with no hold behind it and no switch armed. -/
theorem State.resumeHall_plain {s : State} {tick : Nat} (htick : s.hold.tick = some tick) (hheld : s.hold.held = true)
    (hall : s.hold.allResumed = true) (hnamed : namedLinks s.hold = []) (hlater : s.hold.later = [])
    (hswitch : s.tt.switch = none) :
    s.resumeHall.hall = max s.hall (64 * s.hold.resumeTick) ∧ s.resumeHall.hold = s.holdAfterResume tick := by
  have hlost : (s.reach s.hold.resumeTick).enterLost = s.reach s.hold.resumeTick :=
    State.enterLost_of_none (by rwa [State.reach_hold])
  unfold State.resumeHall
  simp only [htick, hheld, hall, Bool.not_true, Bool.or_self, Bool.false_eq_true, if_false, hlost, State.reach_tt]
  generalize hended : (s.reach s.hold.resumeTick).setHold _ = u
  have hframe := u.resumeRecords_frame (s.hold.resumeTick - tick)
  have htt : u.tt.switch = none := by rw [← hended, State.setHold_tt, State.reach_tt, hswitch]
  have hnoSwitch : ((u.log 0x2014).recoveriesEnd (s.hold.resumeTick - tick)).resumeStep.tt.switch.isSome = false := by
    rw [hframe.2 .tt (by decide), htt]
    rfl
  rw [State.on, hnoSwitch, Bool.false_and, if_neg Bool.false_ne_true, hframe.2 .hall (by decide),
    hframe.2 .hold (by decide), ← hended, State.setHold_hall, State.reach_hall', State.setHold_hold, State.reach_hold,
    HallHold.nextHold_of_none hlater]
  exact ⟨rfl, rfl⟩

theorem exec_resumeTick {s : State} (hdown : s.down = false) : exec .resumeTick s = .next s.resumeHall :=
  exec_of_act rfl hdown

/-! ### A hold past its limit, and a RESUME without its HOLD (R85, R86) -/

/-- The state in which the limit of a hold acts: at its instant, with the cause counted and the event logged. -/
def State.pastLimit (s : State) (tick : Nat) : State :=
  ((s.reach (tick + 1000 * s.obj 0x2013 6)).faultCount 0x11).log 0x9009

theorem State.pastLimit_hall (s : State) (tick : Nat) :
    (s.pastLimit tick).hall = max s.hall (64 * (tick + 1000 * s.obj 0x2013 6)) := by
  rw [State.pastLimit, State.log_hall, State.faultCount, State.count_hall, State.reach_hall']

theorem State.pastLimit_job (s : State) (tick : Nat) : (s.pastLimit tick).job = s.job := by
  rw [State.pastLimit, State.log_job, State.faultCount, State.count_job, State.reach_job]

theorem State.pastLimit_stage (s : State) (tick : Nat) : (s.pastLimit tick).obj 0x9003 3 = s.obj 0x9003 3 := by
  rw [State.pastLimit, State.log_obj _ _ _ (by decide) (by decide), State.faultCount, State.obj_count,
    if_neg (by decide), State.reach_obj]

theorem State.pastLimit_logged (s : State) (tick : Nat) : Logged s (s.pastLimit tick) [0x9009] :=
  Logged.log_of_faults ((State.count_faults ..).trans (State.reach_faults ..)) 0x9009 0 [] (by decide)

theorem State.jobFail_hall (s : State) (cause : Nat) : (s.jobFail cause).hall = s.hall :=
  (State.jobFail_only (parts := [.out, .hold, .links, .ctxs, .objects, .ring, .msix, .alert]) (Only.refl _ s)
    (by decide) cause).2 .hall (by decide)

theorem exec_holdLimitExpire {s : State} {tick : Nat} (hdown : s.down = false) (htick : s.hold.tick = some tick)
    (hheld : s.hold.held = true) : exec .holdLimitExpire s = .next ((s.pastLimit tick).jobFail 0x11) := by
  change execHoldLimitExpire s = _
  rw [execHoldLimitExpire, act_up hdown]
  simp only [htick, hheld, State.pastLimit]

theorem exec_keptResumeExpire {s : State} {origin seq : BitVec 16} {r : ResumeMsg × Nat} (hdown : s.down = false)
    (hkept : (s.hold.kept.find? fun r => r.1.origin == origin.toNat && r.1.seq == seq.toNat) = some r) :
    exec (.keptResumeExpire origin seq) s = .next ((s.reach (r.2 + 1000 * s.obj 0x2013 6)).setHold fun h =>
      { h with kept := h.kept.erase r }) := by
  change execKeptResumeExpire origin seq s = _
  rw [execKeptResumeExpire, act_up hdown]
  simp only [hkept]

/-- Settles O23, from what a message, a tick and a limit leave in the hall hold. -/
theorem holdsAndResumes : Obligations.HoldsAndResumes := by
  intro s hdown
  refine ⟨?hold, ?resume, ?holdTick, ?resumeTick, ?limit, ?kept⟩
  case hold =>
    intro link msg w id
    refine ⟨_, exec_hold hdown, fun hbad => ?bad, fun hok hseen => ?repeated,
      fun hok hnew htick hheld hjoined => ?first⟩
    case bad => rw [State.receiveHold_bad hbad]; exact s.consume_discard link
    case repeated => rw [State.receiveHold_repeat hok hseen]; exact s.consume_repeat link
    case first => exact State.receiveHold_first_spec hok hnew htick hheld hjoined
  case resume =>
    intro link msg w m
    refine ⟨_, exec_resume hdown, fun hbad => ?bad, fun hok hseen => ?repeated, fun hok hnew => ?new⟩
    case bad => rw [State.receiveResume_bad hbad]; exact s.consume_discard link
    case repeated => rw [State.receiveResume_repeat hok hseen]; exact s.consume_repeat link
    case new =>
      rw [State.receiveResume_new hok hnew, State.relay_hold]
      split <;> exact ⟨rfl, rfl⟩
  case holdTick =>
    intro tick htick hheld
    refine ⟨_, exec_holdTick hdown htick hheld, ?hold, ?hall, fun hcut => ?cut, ?logged⟩
    case hold => rw [State.enterHold_hold, State.reach_hold]
    case hall => rw [State.enterHold_hall, State.reach_hall']
    case cut => exact State.enterHold_cut (by rwa [State.reach_supply])
    case logged => exact (State.enterHold_logged _).congr_left (congrArg Faults.ring (State.reach_faults ..).symm)
  case resumeTick =>
    intro tick htick hheld hall hnamed hlater hswitch
    exact ⟨_, exec_resumeTick hdown, State.resumeHall_plain htick hheld hall hnamed hlater hswitch⟩
  case limit =>
    intro tick htick hheld
    refine ⟨_, exec_holdLimitExpire hdown htick hheld, (State.jobFail_hall ..).trans (s.pastLimit_hall tick),
      fun hloaded => ?idle, fun hloaded hstage => ?fails⟩
    case idle =>
      rw [jobFail_none _ (.inl (by rwa [State.pastLimit_job]))]
      exact s.pastLimit_logged tick
    case fails =>
      have hloaded' : (s.pastLimit tick).job.loaded = true := by rwa [State.pastLimit_job]
      have hstage' : (s.pastLimit tick).obj 0x9003 3 ≠ 1 := by rwa [State.pastLimit_stage]
      obtain ⟨hfailed, hcause, -, -⟩ := jobFail_failed 0x11 hloaded' hstage'
      exact ⟨(s.pastLimit_logged tick).trans (jobFail_logged 0x11 hloaded' hstage'), hfailed, hcause⟩
  case kept =>
    intro origin seq r hkept
    refine ⟨_, exec_keptResumeExpire hdown hkept, ?_, ?_⟩
    · rw [State.setHold_hold, State.reach_hold]
    · rw [State.setHold_hall, State.reach_hall']

end Sys2Proof.Machine

/-!
TT_LOAD (O59): the refusals, the image that is copied into a bank's tables, and the bank's objects.
-/
namespace Sys2Proof.Machine

/-! ### A command of the ring (R451, R455) -/

/-- A command completes with its STATUS and its RESULT words, from the state that it leaves. -/
def State.answers (e : Nat) (r : Result) : State := (r.2.2.complete e r.1 r.2.1).streamAll

/-- A well-formed entry runs its own command once management firmware runs. -/
theorem hostCommand_runs {s : State} {opcode : Nat} {e : BitVec 512} (run : Nat → State → Result)
    (hdown : s.down = false) (hstage : 2 ≤ s.boot.stage) (hok : entryOk e.toNat = true)
    (hopcode : eOpcode e.toNat = opcode) :
    hostCommand opcode e run s = .next (State.answers e.toNat (run e.toNat (s.mpUp.takeEntry e))) := by
  rw [hostCommand, act_up hdown, if_neg (by simp [hopcode]; omega)]
  dsimp only
  rw [if_pos hok, State.answers]

theorem exec_ttLoad {s : State} {e : BitVec 512} (hdown : s.down = false) (hstage : 2 ≤ s.boot.stage)
    (hok : entryOk e.toNat = true) (hopcode : eOpcode e.toNat = 3) :
    exec (.ttLoad e) s = .next (State.answers e.toNat ((s.mpUp.takeEntry e).loadTables e.toNat)) :=
  hostCommand_runs (fun e s => s.loadTables e) hdown hstage hok hopcode

theorem exec_ttLoad_of_result {s v : State} {e : BitVec 512} {status : Nat} {words : List Nat} (hdown : s.down = false)
    (hstage : 2 ≤ s.boot.stage) (hok : entryOk e.toNat = true) (hopcode : eOpcode e.toNat = 3)
    (hload : (s.mpUp.takeEntry e).loadTables e.toNat = (status, words, v)) :
    exec (.ttLoad e) s = .next ((v.complete e.toNat status words).streamAll) := by
  rw [exec_ttLoad hdown hstage hok hopcode, hload, State.answers]

/-- Taking an entry from the ring leaves the timetable as it was. -/
theorem State.takeEntry_tt (s : State) (e : BitVec 512) : (s.mpUp.takeEntry e).tt = s.tt :=
  (State.takeEntry_only (parts := [.faults, .host]) (State.mpUp_only (Only.refl _ s) (by decide)) (by decide) e).2 .tt
    (by decide)

theorem State.fetchArg_hidden {s : State} {a n : Nat} (f : List Byte → Result) (hhidden : s.visible a n = false) :
    s.fetchArg a n f = s.fails 5 := by
  rw [State.fetchArg, hhidden]
  rfl

theorem State.fetchArg_clean {s : State} {a n : Nat} (f : List Byte → Result) (hvisible : s.visible a n = true)
    (hclean : s.poisoned a n = false) : s.fetchArg a n f = f (s.read a n) := by
  rw [State.fetchArg, hvisible, hclean]
  rfl

/-! ### A stretch of a run of bytes -/

theorem Memory.read_append (m : Memory) (a i k : Nat) :
    Memory.read m a (i + k) = Memory.read m a i ++ Memory.read m (a + i) k := by
  induction i generalizing a with
  | zero => rw [Nat.zero_add]; rfl
  | succ i ih => rw [Nat.succ_add, Memory.read, Memory.read, ih, List.cons_append, Nat.add_assoc, Nat.add_comm 1 i]

/-- Bytes `i` to `i + k - 1` of a run are the bytes at their own addresses. -/
theorem Memory.read_stretch {m : Memory} {a n i k : Nat} (hfits : i + k ≤ n) :
    ((Memory.read m a n).drop i).take k = Memory.read m (a + i) k := by
  obtain ⟨rest, rfl⟩ := Nat.exists_eq_add_of_le hfits
  rw [Nat.add_assoc, Memory.read_append, List.drop_left' Memory.read_length, Memory.read_append,
    List.take_left' Memory.read_length]

/-! ### The bank's objects (R63) -/

/-- The keys of the objects of bank `b`, in the order in which TT_LOAD sets them. -/
def bankKeys (b : Nat) : List Nat :=
  [okey 0x2010 (2 + b), okey 0x2010 (4 + b), okey 0x2010 (6 + b), okey 0x3002 (5 + b), okey 0x3002 (7 + b)] ++
    (List.range 64).map fun l => okey (0x2011 + b) (0x40 + l)

theorem bankKeys_nodup : ∀ b < 2, (bankKeys b).Nodup := by decide +kernel

theorem bankCounts_length (bs : List Byte) : (bankCounts bs).length = 64 := by
  rw [bankCounts, List.length_map, List.length_range]

theorem map_fst_bankValues (b e : Nat) {counts : List Nat} (hlength : counts.length = 64) :
    (bankValues b e counts).map (·.1) = bankKeys b := by
  have hlinks : ((List.range 64).zip counts).map Prod.fst = List.range 64 :=
    List.map_fst_zip (by rw [List.length_range, hlength])
  have hkeys : (((List.range 64).zip counts).map fun x => (okey (0x2011 + b) (0x40 + x.1), x.2)).map (·.1) =
      (List.range 64).map fun l => okey (0x2011 + b) (0x40 + l) := by
    conv_rhs => rw [← hlinks]
    simp only [List.map_map, Function.comp_def]
  rw [bankValues, List.map_append, hkeys]
  rfl

/-- The five objects that the entry itself gives a value are among them. -/
theorem argument_mem_bankValues (b e : Nat) (counts : List Nat) {x : Nat × Nat}
    (hx : x ∈ [(okey 0x2010 (2 + b), eArg e 2), (okey 0x2010 (4 + b), eArg e 3), (okey 0x2010 (6 + b), eArg e 4),
      (okey 0x3002 (5 + b), eArg e 5), (okey 0x3002 (7 + b), eArg e 6)]) : x ∈ bankValues b e counts :=
  List.mem_append_left _ hx

/-- The count of link `l`'s table is among the values. -/
theorem count_mem_bankValues (b e : Nat) {counts : List Nat} {l : Nat} (hlength : counts.length = 64) (hl : l < 64) :
    (okey (0x2011 + b) (0x40 + l), counts.getD l 0) ∈ bankValues b e counts := by
  have hlink : (l, counts.getD l 0) ∈ (List.range 64).zip counts := by
    refine List.mem_iff_getElem.mpr ⟨l, by rw [List.length_zip, List.length_range, hlength]; omega, ?_⟩
    rw [List.getElem_zip, List.getElem_range, List.getD_eq_getElem _ _ (by omega)]
  exact List.mem_append_right _ (List.mem_map.mpr ⟨_, hlink, rfl⟩)

/-- A table holds at most 65,536 entries (R63). -/
theorem objRow_count : ∀ b < 2, ∀ l < 64,
    (objRow (okey (0x2011 + b) (0x40 + l))).map (fun r => (r.ty, r.max)) = some (.u32, 65536) := by decide +kernel

theorem le_max_of_inRange {r : ObjRow} {k v : Nat} (hty : r.ty = .u32) (h : inRange r k v = true) :
    (v : Int) ≤ r.max := by
  unfold inRange at h
  rw [hty] at h
  simp only [Bool.and_eq_true, decide_eq_true_eq] at h
  obtain ⟨⟨⟨-, hmax⟩, -⟩, -⟩ := h
  exact hmax

/-- Counts in the ranges of their objects fit the tables. -/
theorem count_le_of_bankRange {b e l : Nat} {counts : List Nat} (hlength : counts.length = 64) (hb : b < 2)
    (hl : l < 64) (hrange : bankRange (bankValues b e counts) = none) : counts.getD l 0 ≤ 65536 := by
  have hin := List.find?_eq_none.mp (Option.map_eq_none_iff.mp hrange) _ (count_mem_bankValues b e hlength hl)
  obtain ⟨r, hr, hrow⟩ := Option.map_eq_some_iff.mp (objRow_count b hb l hl)
  simp only [Prod.mk.injEq] at hrow
  obtain ⟨hty, hmax⟩ := hrow
  rw [hr] at hin
  have hle := le_max_of_inRange hty (k := okey (0x2011 + b) (0x40 + l)) (v := counts.getD l 0) (by simpa using hin)
  rw [hmax] at hle
  omega

/-- Objects set one after another, each by its key. -/
def State.setValues (s : State) (vs : List (Nat × Nat)) : State :=
  s.each vs fun s x => s.setObj (x.1 / 256) (x.1 % 256) x.2

theorem State.setValues_frame (s : State) (vs : List (Nat × Nat)) : Only [.objects] s (s.setValues vs) :=
  State.each_only (Only.refl _ s) _ _ fun _ _ ht => State.setObj_only ht (by decide) ..

theorem State.setValues_cons (s : State) (x : Nat × Nat) (vs : List (Nat × Nat)) :
    s.setValues (x :: vs) = (s.setObj (x.1 / 256) (x.1 % 256) x.2).setValues vs := rfl

theorem okey_div_mod (k : Nat) : okey (k / 256) (k % 256) = k := by
  unfold okey
  omega

/-- An object that is not among them keeps its value. -/
theorem State.obj_setValues_other {s : State} {vs : List (Nat × Nat)} {i j : Nat} (h : okey i j ∉ vs.map (·.1)) :
    (s.setValues vs).obj i j = s.obj i j := by
  induction vs generalizing s with
  | nil => rfl
  | cons x vs ih =>
    rw [List.map_cons, List.mem_cons, not_or] at h
    obtain ⟨hfirst, hrest⟩ := h
    rw [State.setValues_cons, ih hrest, State.obj_setObj_other _ (by rwa [okey_div_mod])]

/-- Objects that are set once each hold what they were set to. -/
theorem State.obj_setValues {s : State} {vs : List (Nat × Nat)} {i j v : Nat} (hnodup : (vs.map (·.1)).Nodup)
    (hmem : (okey i j, v) ∈ vs) : (s.setValues vs).obj i j = v := by
  induction vs generalizing s with
  | nil => exact absurd hmem List.not_mem_nil
  | cons x vs ih =>
    rw [List.map_cons, List.nodup_cons] at hnodup
    obtain ⟨hfirst, hrest⟩ := hnodup
    rw [State.setValues_cons]
    rcases List.mem_cons.mp hmem with rfl | htail
    · rw [State.obj_setValues_other hfirst, State.obj_setObj, if_pos (okey_div_mod _).symm]
    · exact ih hrest htail

/-! ### The bank's tables (R63) -/

theorem tableAt_succ (counts : List Nat) (l : Nat) :
    tableAt counts (l + 1) = tableAt counts l + 32 * counts.getD l 0 := by
  rw [tableAt, tableAt, List.take_add_one, List.foldl_append, List.getD_eq_getElem?_getD]
  cases counts[l]? with
  | none => rfl
  | some n => simp only [Option.toList_some, List.foldl_cons, List.foldl_nil, Option.getD_some]; ring

/-- The tables of an image follow one another. -/
theorem tableAt_mono (counts : List Nat) : Monotone (tableAt counts) :=
  monotone_nat_of_le_succ fun l => by rw [tableAt_succ]; omega

/-- The table of link `l` in the image of a bank. -/
def tableImage (counts : List Nat) (image : List Byte) (l : Nat) : List Byte :=
  (image.drop (tableAt counts l)).take (32 * counts.getD l 0)

/-- In an image read from memory a table lies at its own address. -/
theorem tableImage_read {s : State} {a l : Nat} {counts : List Nat} (hl : l < 64) :
    tableImage counts (s.read a (tableAt counts 64)) l = s.read (a + tableAt counts l) (32 * counts.getD l 0) :=
  Memory.read_stretch (by rw [← tableAt_succ]; exact tableAt_mono counts hl)

theorem bankTable_eq (b l i : Nat) : bankTable b l i = bankTable b l 0 + 32 * i := by
  unfold bankTable
  omega

/-- The tables of an image are copied into bank `b`. -/
def State.copyTables (s : State) (b : Nat) (counts : List Nat) (image : List Byte) : State :=
  s.each (List.range 64) fun s l => s.write (bankTable b l 0) (tableImage counts image l)

theorem State.copyTables_frame (s : State) (b : Nat) (counts : List Nat) (image : List Byte) :
    Only [.mem, .poison] s (s.copyTables b counts image) :=
  State.each_only (Only.refl _ s) _ _ fun _ _ ht => State.write_only ht (by decide) ..

/-- The tables of two links lie apart, so that each holds what was copied into it. -/
theorem State.read_copyTables {s : State} {b l : Nat} {counts : List Nat} {image : List Byte}
    (hfit : ∀ k, counts.getD k 0 ≤ 65536)
    (hfull : ∀ k < 64, (tableImage counts image k).length = 32 * counts.getD k 0) (hl : l < 64) :
    (s.copyTables b counts image).read (bankTable b l 0) (32 * counts.getD l 0) = tableImage counts image l := by
  refine (each_entry' (P := fun _ => True) (Q := (· < 64))
    (fun k (s : State) => s.read (bankTable b k 0) (32 * counts.getD k 0)) (tableImage counts image)
    (fun _ _ _ => trivial) (fun s k hk _ => ?_) (fun s k i hki => ?_) 64 s trivial).2 l hl hl
  · rw [← hfull k hk]
    exact Memory.read_write_same
  · have hk := hfit k
    have hi := hfit i
    have hlength : (tableImage counts image k).length ≤ 32 * counts.getD k 0 := List.length_take_le ..
    refine Memory.read_write_other ?_
    unfold bankTable
    omega

/-- Where two runs of bytes agree, each part of them does. -/
theorem State.read_within {s t : State} {a c n i k : Nat} (h : s.read a n = t.read c n) (hfits : i + k ≤ n) :
    s.read (a + i) k = t.read (c + i) k := by
  rw [State.read, State.read, ← Memory.read_stretch hfits, ← Memory.read_stretch hfits]
  exact congrArg (fun bs => (List.drop i bs).take k) h

/-! ### TT_LOAD (R63, R452) -/

/-- Bank `b` is neither active nor about to be. -/
def State.BankFree (s : State) (b : Nat) : Prop :=
  ∀ a : Fin 2, s.tt.active = some a ∨ s.tt.switch = some a → a.val ≠ b

theorem any_val_eq_true {o : Option (Fin 2)} {b : Nat} : o.any (·.val == b) = true ↔ ∃ a, o = some a ∧ a.val = b := by
  cases o <;> simp

theorem any_val_eq_false {o : Option (Fin 2)} {b : Nat} (h : ∀ a, o = some a → a.val ≠ b) :
    ¬ o.any (·.val == b) = true := fun hany => by
  obtain ⟨a, ha, hb⟩ := any_val_eq_true.mp hany
  exact h a ha hb

theorem State.loadTables_active {s : State} {e : Nat} (hactive : ∃ a, s.tt.active = some a ∧ a.val = eArg e 0 % 2) :
    s.loadTables e = s.fails 2 (okey 0x2010 1) := if_pos (any_val_eq_true.mpr hactive)

theorem State.loadTables_armed {s : State} {e : Nat} (hactive : ∀ a, s.tt.active = some a → a.val ≠ eArg e 0 % 2)
    (harmed : ∃ a, s.tt.switch = some a ∧ a.val = eArg e 0 % 2) :
    s.loadTables e = s.fails 2 (okey 0x2010 9) := by
  rw [State.loadTables]
  dsimp only
  rw [if_neg (any_val_eq_false hactive), if_pos (any_val_eq_true.mpr harmed)]

theorem State.loadTables_hidden {s : State} {e : Nat} (hfree : s.BankFree (eArg e 0 % 2))
    (hhidden : s.visible (eArg e 1) 256 = false) : s.loadTables e = s.fails 5 := by
  rw [State.loadTables]
  dsimp only
  rw [if_neg (any_val_eq_false fun a ha => hfree a (.inl ha)), if_neg (any_val_eq_false fun a ha => hfree a (.inr ha)),
    State.fetchArg_hidden _ hhidden]

/-- The counts at the head of the image at A1. -/
def State.imageCounts (s : State) (e : Nat) : List Nat := bankCounts (s.read (eArg e 1) 256)

theorem State.imageCounts_length (s : State) (e : Nat) : (s.imageCounts e).length = 64 := bankCounts_length _

theorem State.loadTables_outOfRange {s : State} {e k : Nat} (hfree : s.BankFree (eArg e 0 % 2))
    (hvisible : s.visible (eArg e 1) 256 = true) (hclean : s.poisoned (eArg e 1) 256 = false)
    (hrange : bankRange (bankValues (eArg e 0 % 2) e (s.imageCounts e)) = some k) :
    s.loadTables e = s.fails 3 k := by
  rw [State.imageCounts] at hrange
  rw [State.loadTables]
  dsimp only
  rw [if_neg (any_val_eq_false fun a ha => hfree a (.inl ha)), if_neg (any_val_eq_false fun a ha => hfree a (.inr ha)),
    State.fetchArg_clean _ hvisible hclean, hrange]

/-- The state in which both checks run: the bank disarmed, its objects set, and its tables copied. -/
def State.loadedBank (s : State) (e : Nat) : State :=
  ((s.setArmed (eArg e 0 % 2) false).setValues (bankValues (eArg e 0 % 2) e (s.imageCounts e))).copyTables
    (eArg e 0 % 2) (s.imageCounts e) (s.read (eArg e 1) (tableAt (s.imageCounts e) 64))

theorem State.loadTables_loads {s : State} {e : Nat} {r : State × Option (Nat × Nat × Nat) × Option (Nat × Nat)}
    (hfree : s.BankFree (eArg e 0 % 2))
    (hvisible : s.visible (eArg e 1) 256 = true) (hclean : s.poisoned (eArg e 1) 256 = false)
    (hrange : bankRange (bankValues (eArg e 0 % 2) e (s.imageCounts e)) = none)
    (himage : s.visible (eArg e 1) (tableAt (s.imageCounts e) 64) = true)
    (himageClean : s.poisoned (eArg e 1) (tableAt (s.imageCounts e) 64) = false)
    (hchecks : (s.loadedBank e).checkBank (eArg e 0 % 2) = r) :
    s.loadTables e = (if r.2.1.isNone ∧ r.2.2.isNone then 0 else 3,
      [leNat (r.1.recOf 0x2010 0xA), leNat (r.1.recOf 0x3002 9)], r.1) := by
  simp only [State.loadedBank, State.copyTables, State.setValues, tableImage, State.imageCounts] at hchecks
  rw [State.imageCounts] at hrange himage himageClean
  rw [State.loadTables]
  dsimp only
  rw [if_neg (any_val_eq_false fun a ha => hfree a (.inl ha)), if_neg (any_val_eq_false fun a ha => hfree a (.inr ha)),
    State.fetchArg_clean _ hvisible hclean, hrange]
  dsimp only
  rw [State.fetchArg_clean _ himage himageClean, hchecks]

/-- The objects of the bank hold what TT_LOAD sets. -/
theorem State.obj_loadedBank {s : State} {e i j v : Nat}
    (hmem : (okey i j, v) ∈ bankValues (eArg e 0 % 2) e (s.imageCounts e)) : (s.loadedBank e).obj i j = v := by
  rw [State.loadedBank, obj_of_only (State.copyTables_frame ..) (by decide)]
  refine State.obj_setValues ?_ hmem
  rw [map_fst_bankValues _ _ (s.imageCounts_length e)]
  exact bankKeys_nodup _ (Nat.mod_lt _ (by decide))

theorem State.imageCounts_getD {s : State} {e l : Nat} (hl : l < 64) :
    (s.imageCounts e).getD l 0 = s.readNat (eArg e 1 + 4 * l) 4 := by
  rw [State.imageCounts, bankCounts, List.getD_eq_getElem _ _ (by rwa [List.length_map, List.length_range]),
    List.getElem_map, List.getElem_range, leAt, State.read, Memory.read_stretch (by omega), State.readNat]

theorem State.bankArmed_setArmed (s : State) (b : Nat) (v : Bool) : (s.setArmed b v).bankArmed b = v := by
  unfold State.bankArmed State.setArmed
  split <;> rfl

theorem State.loadedBank_disarmed (s : State) (e : Nat) : (s.loadedBank e).bankArmed (eArg e 0 % 2) = false := by
  rw [State.loadedBank, State.bankArmed, (State.copyTables_frame ..).2 .tt (by decide),
    (State.setValues_frame ..).2 .tt (by decide)]
  exact State.bankArmed_setArmed ..

/-- Every entry of the image lies in its bank's table. -/
theorem State.read_loadedBank {s : State} {e l i : Nat}
    (hrange : bankRange (bankValues (eArg e 0 % 2) e (s.imageCounts e)) = none) (hl : l < 64)
    (hi : i < (s.imageCounts e).getD l 0) : (s.loadedBank e).read (bankTable (eArg e 0 % 2) l i) 32 =
      s.read (eArg e 1 + tableAt (s.imageCounts e) l + 32 * i) 32 := by
  have hlength := s.imageCounts_length e
  have hfit : ∀ k, (s.imageCounts e).getD k 0 ≤ 65536 := fun k => by
    by_cases hk : k < 64
    · exact count_le_of_bankRange hlength (Nat.mod_lt _ (by decide)) hk hrange
    · rw [List.getD_eq_default _ _ (by omega)]
      exact Nat.zero_le _
  have hfull : ∀ k < 64, (tableImage (s.imageCounts e) (s.read (eArg e 1) (tableAt (s.imageCounts e) 64)) k).length =
      32 * (s.imageCounts e).getD k 0 := fun k hk => by rw [tableImage_read hk, State.read, Memory.read_length]
  have htable := State.read_copyTables (b := eArg e 0 % 2)
    (s := (s.setArmed (eArg e 0 % 2) false).setValues (bankValues (eArg e 0 % 2) e (s.imageCounts e))) hfit hfull hl
  rw [tableImage_read hl] at htable
  rw [bankTable_eq]
  exact State.read_within htable (by omega)

/-- Settles O59, from what TT_LOAD refuses, and what the bank holds when its checks run. -/
theorem timetableImagesLoad : Obligations.TimetableImagesLoad := by
  intro s e hdown hstage hok hopcode w u b ends
  have hends : ∀ (v : State) (status : Nat) (words : List Nat), u.loadTables w = (status, words, v) →
      ends v status words := fun _ _ _ hload => exec_ttLoad_of_result hdown hstage hok hopcode hload
  have htt : u.tt = s.tt := s.takeEntry_tt e
  refine ⟨fun hactive => ?active, fun hactive harmed => ?armed, fun hfree => ?free⟩
  case active => exact hends _ _ _ (State.loadTables_active (by rwa [htt]))
  case armed => exact hends _ _ _ (State.loadTables_armed (by rwa [htt]) (by rwa [htt]))
  case free =>
    have hfree' : u.BankFree b := by rwa [State.BankFree, htt]
    refine ⟨fun hhidden => ?hidden, fun hvisible hclean => ?image⟩
    case hidden => exact hends _ _ _ (State.loadTables_hidden hfree' hhidden)
    case image =>
      intro counts vs
      refine ⟨fun k hrange => ?outOfRange, fun hrange himage himageClean => ?loads⟩
      case outOfRange => exact hends _ _ _ (State.loadTables_outOfRange hfree' hvisible hclean hrange)
      case loads =>
        have hcount : ∀ l : Link, (u.loadedBank w).obj (0x2011 + b) (0x40 + l) = counts.getD l 0 := fun l =>
          State.obj_loadedBank (count_mem_bankValues b w (u.imageCounts_length w) l.isLt)
        refine ⟨u.loadedBank w, ?answer, ?period, ?patterns, ?patternCount, ?plan, ?planCount,
          fun l => (hcount l).trans (State.imageCounts_getD l.isLt), u.loadedBank_disarmed w,
          fun l i hi => State.read_loadedBank hrange l.isLt (by rwa [hcount l] at hi)⟩
        case answer =>
          generalize hchecks : (u.loadedBank w).checkBank b = r
          exact hends _ _ _ (State.loadTables_loads hfree' hvisible hclean hrange himage himageClean hchecks)
        all_goals
          exact State.obj_loadedBank (argument_mem_bankValues b w _ (by simp only [List.mem_cons, true_or, or_true]))

end Sys2Proof.Machine

/-!
Packets, the flow contexts and the requests on them (O25, O26, O56): what moving a packet leaves of the requests, what
routing looks at, and what the end of a context does.
-/
namespace Sys2Proof.Machine

theorem flow_of_fabric {s t : State} (h : t.fabric.flows = s.fabric.flows) (c : Nat) : t.flow c = s.flow c := by
  rw [State.flow, h, State.flow]

theorem State.setFabric_frame (s : State) (f : Fabric) : Only [.fabric] s { s with fabric := f } := by
  refine ⟨rfl, fun p hp => ?_⟩
  cases p
  case fabric => exact absurd (by decide) hp
  all_goals rfl

/-! ### Packets that move (R97-R105) -/

/-- The junctions without the packets that lie in them: requests, flow contexts, pools. -/
def Fabric.requests (f : Fabric) : Fabric := { f with waiting := [], vc0Ring := [] }

/-- The objects that a packet on its way may count in, and those of the cairn log. -/
def packetCounts : List Nat := [okey 0x6000 5, okey 0x6000 6, okey 0x9004 2, okey 0x9004 3]

/-- From `s` to `t` packets have moved, and no request, flow context or other object has changed. -/
structure PacketsMove (s t : State) : Prop where
  requests : t.fabric.requests = s.fabric.requests
  objects : ∀ a b, okey a b ∉ packetCounts → t.obj a b = s.obj a b

namespace PacketsMove

variable {s t u : State}

theorem refl (s : State) : PacketsMove s s := ⟨rfl, fun _ _ _ => rfl⟩

theorem trans (h : PacketsMove s t) (k : PacketsMove t u) : PacketsMove s u :=
  ⟨k.requests.trans h.requests, fun a b hab => (k.objects a b hab).trans (h.objects a b hab)⟩

theorem of_only {ps : List Part} (h : Only ps s t) (hfabric : Part.fabric ∉ ps) (hobjects : Part.objects ∉ ps) :
    PacketsMove s t :=
  ⟨by rw [h.2 .fabric hfabric], fun a b _ => obj_of_only h hobjects a b⟩

theorem of_requests (hrequests : t.fabric.requests = s.fabric.requests) (hdict : t.dict = s.dict) : PacketsMove s t :=
  ⟨hrequests, fun a b _ => State.obj_congr hdict a b⟩

theorem flows (h : PacketsMove s t) : t.fabric.flows = s.fabric.flows :=
  (congrArg Fabric.flows h.requests :)
theorem inFlight (h : PacketsMove s t) : t.fabric.inFlight = s.fabric.inFlight :=
  (congrArg Fabric.inFlight h.requests :)
theorem waitReq (h : PacketsMove s t) : t.fabric.waitReq = s.fabric.waitReq :=
  (congrArg Fabric.waitReq h.requests :)
theorem flow (h : PacketsMove s t) (c : Nat) : t.flow c = s.flow c := flow_of_fabric h.flows c

end PacketsMove

/-- A packet that is dropped is counted and logged. -/
theorem State.countLog_moves (s : State) {i j : Nat} (ev dom : Nat) (hij : okey i j ∈ packetCounts) :
    PacketsMove s ((s.count i j).log ev dom) where
  requests := by rw [State.log_fabric, State.count_fabric]
  objects a b hab := by
    have hother : okey a b ≠ okey i j := fun h => hab (by rwa [h])
    simp only [packetCounts, List.mem_cons, List.not_mem_nil, or_false, not_or] at hab
    obtain ⟨-, -, htotal, hlost⟩ := hab
    rw [State.log_obj _ _ _ htotal hlost, State.obj_count, if_neg hother]

theorem State.deliver_moves (s : State) (p : Packet) : PacketsMove s (s.deliver p) := by
  unfold State.deliver
  split
  · split
    · exact .of_requests rfl rfl
    · exact s.countLog_moves _ _ (by decide)
  · exact .of_requests rfl rfl

theorem State.keepWaiting_moves (s : State) (w : Waiting) : PacketsMove s (s.keepWaiting w) := .of_requests rfl rfl

theorem State.enqueue_moves (s : State) (l : Nat) (q : Queued) : PacketsMove s (s.enqueue l q) :=
  .of_only (State.enqueue_only (parts := [.links]) (Only.refl _ s) (by decide) l q) (by decide) (by decide)

/-- The buffer of a waiting packet is free again, with its credits owed (R99). -/
def State.freed (s : State) (w : Waiting) : State := if w.buffered then s.owe w.die w.port w.p.vc w.p.flits else s

theorem State.freed_frame (s : State) (w : Waiting) : Only [.links] s (s.freed w) := by
  unfold State.freed
  split
  · exact s.owe_frame ..
  · exact Only.refl _ s

theorem State.freed_moves (s : State) (w : Waiting) : PacketsMove s (s.freed w) :=
  .of_only (s.freed_frame w) (by decide) (by decide)

theorem State.freed_out (s : State) (w : Waiting) : (s.freed w).out = s.out := (s.freed_frame w).2 .out (by decide)

theorem State.freed_queue (s : State) (w : Waiting) (l : Nat) : ((s.freed w).link l).queue = (s.link l).queue := by
  unfold State.freed
  split
  · exact s.owe_queue ..
  · rfl

theorem State.route_moves {s : State} {w : Waiting} {answer : State → Packet → State}
    (hanswer : ∀ u e, PacketsMove u (answer u e)) : PacketsMove s (s.route w answer) := by
  unfold State.route
  dsimp only
  split
  case h_1 => exact (s.freed_moves w).trans (State.deliver_moves _ _)
  case h_2 => exact s.keepWaiting_moves w
  case h_3 =>
    split
    · exact s.enqueue_moves _ _
    · split
      · exact (s.freed_moves w).trans (State.enqueue_moves _ _ _)
      · exact s.keepWaiting_moves w
  case h_4 =>
    have hdropped := (s.freed_moves w).trans ((s.freed w).countLog_moves 0x600C (domDie (4 + w.die)) (i := 0x6000)
      (j := 6) (by decide))
    split
    · exact hdropped.trans (hanswer _ _)
    · exact hdropped

theorem State.inject_moves (s : State) (die : Nat) (p : Packet) (unit : Option Nat) :
    PacketsMove s (s.inject die p unit) := by
  unfold State.inject
  dsimp only
  split
  · exact State.route_moves fun u _ => .refl u
  · exact s.keepWaiting_moves _

theorem State.errorTo_moves (s : State) (die : Nat) (p : Packet) (status : Nat) :
    PacketsMove s (s.errorTo die p status) := s.inject_moves ..

theorem State.refusePacket_moves (s : State) (die : Nat) (p : Packet) (status : Nat) :
    PacketsMove s (s.refusePacket die p status) := by
  unfold State.refusePacket
  split
  · exact s.errorTo_moves ..
  · exact .refl s

/-! ### The hop of a packet (R97, R102, R103) -/

theorem State.route_here {s : State} {w : Waiting} {answer : State → Packet → State}
    (h : w.p.dst = s.moduleNumber) : s.route w answer = (s.freed w).deliver w.p := by
  have hhop : s.hopOf w = .here := by rw [State.hopOf, if_pos h]
  rw [State.route, hhop]
  rfl

/-- A packet whose hop is link `l` joins its queue, where that is of its H-die or the bridge to the other has room: by
its port or the bridge's, its credit taken where it is on VC2 or VC3, or escapes. -/
theorem State.route_link {s : State} {w : Waiting} {answer : State → Packet → State} {l : Nat}
    (hhop : s.hopOf w = .link l) (hbuffered : w.buffered = true)
    (hroom : l / 32 = w.die ∨ s.portRoom (l / 32) 34 w.p = true) :
    ((s.route w answer).link l).queue = (s.link l).queue ++ [⟨if l / 32 = w.die then w.port else 34, w.own, false,
      w.escaping || w.p.vc == 2 || w.p.vc == 3, some w.p.vc,
      w.p.hopped (if w.escaping then 4 else w.p.vc) w.escaping⟩] := by
  have hqueue : ∀ (u : State) (q : Queued), q.first = false →
      ((u.enqueue l q).link l).queue = (u.link l).queue ++ [q] := fun u q hq => by
    simp [State.enqueue, State.mapLink, hq]
  rw [State.route, hhop]
  dsimp only
  by_cases hdie : l / 32 = w.die
  · rw [if_pos hdie, if_pos hdie, if_pos hbuffered]
    exact hqueue s _ rfl
  · rw [if_neg hdie, if_neg hdie, if_pos (hroom.resolve_left hdie), ← State.freed, hqueue _ _ rfl, State.freed_queue]

theorem State.deliver_out {s : State} {p : Packet} (hop : p.op ≠ 6) : (s.deliver p).out = .deliver p :: s.out := by
  rw [State.deliver, if_neg hop, State.emit_out]

theorem State.deliver_mgmt {s : State} {p : Packet} (hop : p.op = 6) (hroom : s.fabric.vc0Ring.length < 256) :
    (s.deliver p).fabric.vc0Ring = s.fabric.vc0Ring ++ [p] := by
  rw [State.deliver, if_pos hop, if_pos hroom]

/-! ### What routing looks at -/

/-- Of the state `u` a packet is routed as in `s`. -/
structure RoutesAs (s u : State) : Prop where
  out : u.out = s.out
  links : u.links = s.links
  waiting : u.fabric.waiting = s.fabric.waiting
  timeLinks : u.time.links = s.time.links
  lost : u.hold.lost = s.hold.lost
  moduleNumber : u.moduleNumber = s.moduleNumber
  mapEntry : ∀ l < 64, u.mapEntry l = s.mapEntry l
  linkState : ∀ l < 64, u.linkState l = s.linkState l

namespace RoutesAs

variable {s t u : State}

theorem trans (h : RoutesAs s t) (k : RoutesAs t u) : RoutesAs s u where
  out := k.out.trans h.out
  links := k.links.trans h.links
  waiting := k.waiting.trans h.waiting
  timeLinks := k.timeLinks.trans h.timeLinks
  lost := k.lost.trans h.lost
  moduleNumber := k.moduleNumber.trans h.moduleNumber
  mapEntry l hl := (k.mapEntry l hl).trans (h.mapEntry l hl)
  linkState l hl := (k.linkState l hl).trans (h.linkState l hl)

theorem of_only {ps : List Part} (h : Only ps s u) (hp : ∀ q ∈ [Part.out, .links, .time, .hold], q ∉ ps)
    (hwaiting : u.fabric.waiting = s.fabric.waiting)
    (hobjects : ∀ a b, a ≤ 0x6002 → b < 64 → u.obj a b = s.obj a b) : RoutesAs s u where
  out := h.2 .out (hp _ (by decide))
  links := h.2 .links (hp _ (by decide))
  waiting := hwaiting
  timeLinks := congrArg TimeUnit.links (h.2 .time (hp _ (by decide)))
  lost := congrArg HallHold.lost (h.2 .hold (hp _ (by decide)))
  moduleNumber := hobjects 0x6000 2 (by decide) (by decide)
  mapEntry l hl := hobjects 0x6001 l (by decide) hl
  linkState l hl := hobjects 0x6002 l (by decide) hl

theorem link (h : RoutesAs s u) (l : Nat) : u.link l = s.link l := by rw [State.link, h.links, State.link]

theorem linkUp (h : RoutesAs s u) {l : Nat} (hl : l < 64) : u.linkUp l = s.linkUp l := by
  rw [State.linkUp, h.linkState l hl, State.linkUp]

theorem partnerOos (h : RoutesAs s u) : u.partnerOos = s.partnerOos := by
  funext l
  rw [State.partnerOos, h.timeLinks, State.partnerOos]

theorem gang (h : RoutesAs s u) (k x : Nat) : u.gang k x = s.gang k x := by
  unfold State.gang
  rw [List.filter_flatMap, List.filter_flatMap]
  congr 1
  funext g
  rw [List.filter_filter, List.filter_filter]
  refine List.filter_congr fun l hl => ?_
  rw [h.mapEntry l (List.mem_range.mp hl), h.linkUp (List.mem_range.mp hl)]

theorem detourEndUp (h : RoutesAs s u) (cur dst k m : Nat) : u.detourEndUp cur dst k m = s.detourEndUp cur dst k m := by
  unfold State.detourEndUp
  rw [h.lost]
  dsimp only
  rw [Bool.eq_iff_iff, List.any_eq_true, List.any_eq_true]
  refine exists_congr fun l => and_congr_right fun hl => ?_
  rw [h.mapEntry l (List.mem_range.mp hl)]

theorem orderedHop (h : RoutesAs s u) (dst seq : Nat) : u.orderedHop dst seq none = s.orderedHop dst seq none := by
  unfold State.orderedHop
  simp only [h.moduleNumber, h.gang, h.partnerOos, h.detourEndUp]

theorem adaptiveHop (h : RoutesAs s u) (dst vc flits : Nat) :
    u.adaptiveHop dst vc flits = s.adaptiveHop dst vc flits := by
  have hlinks : ∀ (cur : Nat), (List.range 64).filter (fun l =>
      mapUsed (u.mapEntry l) && u.linkUp l && !u.partnerOos l &&
        nibble cur (mapDim (u.mapEntry l)) != nibble dst (mapDim (u.mapEntry l)) &&
        mapXor (u.mapEntry l) == Nat.xor (nibble cur (mapDim (u.mapEntry l))) (nibble dst (mapDim (u.mapEntry l))) &&
        decide (flits ≤ (u.link l).credits.getD vc 0)) = (List.range 64).filter (fun l =>
      mapUsed (s.mapEntry l) && s.linkUp l && !s.partnerOos l &&
        nibble cur (mapDim (s.mapEntry l)) != nibble dst (mapDim (s.mapEntry l)) &&
        mapXor (s.mapEntry l) == Nat.xor (nibble cur (mapDim (s.mapEntry l))) (nibble dst (mapDim (s.mapEntry l))) &&
        decide (flits ≤ (s.link l).credits.getD vc 0)) := fun cur =>
    List.filter_congr fun l hl => by
      rw [h.mapEntry l (List.mem_range.mp hl), h.linkUp (List.mem_range.mp hl), h.partnerOos, h.link]
  unfold State.adaptiveHop
  dsimp only
  rw [h.moduleNumber, hlinks]
  simp only [h.link]

theorem portFlits (h : RoutesAs s u) (die port vc : Nat) : u.portFlits die port vc = s.portFlits die port vc := by
  simp only [State.portFlits, h.link, h.waiting]

theorem portRoom (h : RoutesAs s u) (die port : Nat) (p : Packet) : u.portRoom die port p = s.portRoom die port p := by
  rw [State.portRoom, h.portFlits, State.portRoom]

/-- What is sent from `u` counts as sent from `s`. -/
theorem sends (h : RoutesAs s u) {die : Nat} {p : Packet} {unit : Option Nat} (k : u.Sends t die p unit) :
    s.Sends t die p unit := by
  simpa only [State.Sends, h.out, h.moduleNumber, h.orderedHop, h.adaptiveHop, h.portRoom, h.link] using k

end RoutesAs

theorem portLink_unitPort (die : Nat) (unit : Option Nat) : portLink die (unitPort die unit) = none := by
  have hport : ¬ unitPort die unit < 32 := by
    unfold unitPort
    split
    · decide
    · split <;> omega
  rw [portLink, if_neg hport]

/-- A unit's packet for this module is handed over, and any other with a hop and room joins the queue of its link. -/
theorem State.inject_sends (s : State) (die : Nat) (p : Packet) (unit : Option Nat) :
    s.Sends (s.inject die p unit) die p unit := by
  refine ⟨fun hdst hop => ?here, fun l hdst hhop hdie hroom => ?link⟩
  case here =>
    rw [State.inject]
    dsimp only
    rw [if_pos (by simp [hdst]), State.route_here hdst, State.deliver_out hop, State.freed_out]
  case link =>
    have hhop' : s.hopOf ⟨die, unitPort die unit, true, true, false, p, s.now⟩ = .link l := by
      unfold State.hopOf
      simpa [hdst, portLink_unitPort] using hhop
    rw [State.inject]
    dsimp only
    rw [hroom, if_pos (by simp), State.route_link hhop' rfl (.inl hdie)]
    simp [hdie]

/-! ### The end of a flow context (R109) -/

theorem State.failIssuer_frame (s : State) (r : Request) : Only [.movers] s (s.failIssuer r) :=
  State.failIssuer_only (Only.refl _ s) (by decide) r

/-- Context `c` becomes `f`, and the requests on it are gone; their issuers do not know of it yet. -/
def State.emptied (s : State) (c : Nat) (f : Flow) : State :=
  let bytes := (s.fabric.inFlight.filter (·.ctx.val == c)).foldl (fun n r => n + r.bytes) 0
  let u := { s with fabric := { s.fabric with
    inFlight := s.fabric.inFlight.filter (·.ctx.val != c)
    waitReq := s.fabric.waitReq.filter (·.ctx.val != c) } }
  let v := (u.setPool (home c) (u.poolFree (home c) + bytes)).setFlow c f
  v.setObj 0x6010 3 (v.obj 0x6010 3 - 1)

theorem State.endFlow_frame (s : State) (c : Nat) (f : Flow) (note : State → State) :
    Only [.movers] (note (s.emptied c f)) (s.endFlow c f note) :=
  State.each_only (ps := [.movers]) (Only.refl _ _) _ _ fun _ r h => State.failIssuer_only h (by decide) r

theorem State.emptied_flow (s : State) (c : Nat) (f : Flow) : (s.emptied c f).flow c = f := by
  rw [State.emptied, State.setObj_flow, State.flow_setFlow]

theorem State.setPool_lists (s : State) (die n : Nat) :
    (s.setPool die n).fabric.inFlight = s.fabric.inFlight ∧ (s.setPool die n).fabric.waitReq = s.fabric.waitReq ∧
    (s.setPool die n).fabric.flows = s.fabric.flows ∧ (s.setPool die n).fabric.waiting = s.fabric.waiting := by
  unfold State.setPool
  dsimp only
  split <;> exact ⟨rfl, rfl, rfl, rfl⟩

theorem State.emptied_inFlight (s : State) (c : Nat) (f : Flow) :
    (s.emptied c f).fabric.inFlight = s.fabric.inFlight.filter (·.ctx.val != c) := (State.setPool_lists _ _ _).1

theorem State.emptied_waitReq (s : State) (c : Nat) (f : Flow) :
    (s.emptied c f).fabric.waitReq = s.fabric.waitReq.filter (·.ctx.val != c) := (State.setPool_lists _ _ _).2.1

theorem State.emptied_obj (s : State) (c : Nat) (f : Flow) (a b : Nat) :
    (s.emptied c f).obj a b = if okey a b = okey 0x6010 3 then s.obj 0x6010 3 - 1 else s.obj a b := by
  rw [State.emptied, State.obj_setObj, State.setFlow_obj, State.setPool_obj, State.setFlow_obj, State.setPool_obj]
  rfl

/-- From `s` to `t` context `c` has become `f`, and no request on it is left. -/
structure EndsFlow (s t : State) (c : Nat) (f : Flow) : Prop where
  flow : t.flow c = f
  inFlight : t.fabric.inFlight = s.fabric.inFlight.filter (·.ctx.val != c)
  waitReq : t.fabric.waitReq = s.fabric.waitReq.filter (·.ctx.val != c)
  openCount : t.obj 0x6010 3 = s.obj 0x6010 3 - 1

namespace EndsFlow

variable {s t u : State} {c : Nat} {f : Flow}

theorem then_moves (h : EndsFlow s t c f) (k : PacketsMove t u) : EndsFlow s u c f :=
  ⟨(k.flow c).trans h.flow, k.inFlight.trans h.inFlight, k.waitReq.trans h.waitReq,
    (k.objects _ _ (by decide)).trans h.openCount⟩

theorem after_moves (h : EndsFlow t u c f) (k : PacketsMove s t) : EndsFlow s u c f :=
  ⟨h.flow, by rw [h.inFlight, k.inFlight], by rw [h.waitReq, k.waitReq],
    by rw [h.openCount, k.objects _ _ (by decide)]⟩

theorem no_inFlight (h : EndsFlow s t c f) : ∀ r ∈ t.fabric.inFlight, r.ctx.val ≠ c := by
  intro r hr
  rw [h.inFlight] at hr
  simpa using (List.mem_filter.mp hr).2

theorem no_waitReq (h : EndsFlow s t c f) : ∀ r ∈ t.fabric.waitReq, r.ctx.val ≠ c := by
  intro r hr
  rw [h.waitReq] at hr
  simpa using (List.mem_filter.mp hr).2

end EndsFlow

theorem State.endFlow_ends {s : State} {c : Nat} {f : Flow} {note : State → State}
    (hfabric : ∀ u, (note u).fabric = u.fabric) (hobj : ∀ u, (note u).obj 0x6010 3 = u.obj 0x6010 3) :
    EndsFlow s (s.endFlow c f note) c f := by
  have hframe := s.endFlow_frame c f note
  have hend : (s.endFlow c f note).fabric = (s.emptied c f).fabric := (hframe.2 .fabric (by decide)).trans (hfabric _)
  refine ⟨?flow, ?inFlight, ?waitReq, ?openCount⟩
  case flow => rw [flow_of_fabric (congrArg Fabric.flows hend), State.emptied_flow]
  case inFlight => rw [hend, State.emptied_inFlight]
  case waitReq => rw [hend, State.emptied_waitReq]
  case openCount => rw [obj_of_only hframe (by decide), hobj, State.emptied_obj, if_pos rfl]

/-- The context that a break leaves of `f`. -/
def Flow.brokenBy (f : Flow) (err : Nat) : Flow :=
  { f with state := .broken, error := BitVec.ofNat 8 err, outstanding := 0, respReserved := 0 }

theorem State.breakFlow_of_not_opened {s : State} {c : Nat} (err : Nat) (tell : Bool) (h : (s.flow c).state ≠ .opened) :
    s.breakFlow c err tell = s := by rw [State.breakFlow, if_pos h]

theorem State.sendBreak_moves (s : State) (c : Nat) (f : Flow) : PacketsMove s (s.sendBreak c f) := s.inject_moves ..

theorem PacketsMove.on {s : State} (b : Bool) {f : State → State} (h : PacketsMove s (f s)) :
    PacketsMove s (s.on b f) := by
  unfold State.on
  split
  · exact h
  · exact .refl s

theorem State.breakFlow_ends {s : State} {c : Nat} (err : Nat) (tell : Bool) (h : (s.flow c).state = .opened) :
    EndsFlow s (s.breakFlow c err tell) c ((s.flow c).brokenBy err) := by
  rw [State.breakFlow, if_neg (by simp [h])]
  refine EndsFlow.then_moves (State.endFlow_ends (fun u => ?fabric) fun u => ?openCount)
    (.on tell (State.sendBreak_moves _ _ _))
  case fabric => rw [State.log_fabric, State.count_fabric]
  case openCount => rw [State.log_obj _ _ _ (by decide) (by decide), State.obj_count, if_neg (by decide)]

theorem State.breakFlow_frame (s : State) (c err : Nat) (tell : Bool) :
    Only [.out, .links, .fabric, .movers, .objects, .ring] s (s.breakFlow c err tell) :=
  State.breakFlow_only (Only.refl _ s) (by decide) c err tell

/-! ### The cache of flow contexts (R106) -/

/-- The key of the set that holds context `c` in the cache of its home. -/
def cacheSet (c : Nat) : Nat := 2048 * home c + c % 2048

def State.cached (s : State) (c : Nat) : Bool := (Tbl.get [] s.fabric.cache (cacheSet c)).contains c

/-- Context `c` is the most recent of its set. -/
def State.cacheFirst (s : State) (c : Nat) : State :=
  let set := (c :: (Tbl.get [] s.fabric.cache (cacheSet c)).erase c).take 8
  { s with fabric := { s.fabric with cache := Tbl.set [] s.fabric.cache (cacheSet c) set } }

/-- A fill reads the context from memory, and logs the poison that it meets (R360). -/
def State.fill (s : State) (c : Nat) : State :=
  (s.count64 0x6010 5).on (s.poisoned (flowTable + 128 * c) 128) (·.readPoison (flowTable + 128 * c) 128)

/-- Context `c` is brought into the cache of its home. -/
def State.fillCache (s : State) (c : Nat) : State := (s.cacheFirst c).on (!s.cached c) (·.fill c)

/-- A use of a context fills the cache, and breaks the context where the fill meets poison. -/
theorem State.useFlow_cases (s : State) (c : Nat) :
    s.useFlow c = s.fillCache c ∨
    s.poisoned (flowTable + 128 * c) 128 = true ∧ s.useFlow c = (s.fillCache c).breakFlow c 8 true := by
  have huse : s.useFlow c = (s.cacheFirst c).on (!s.cached c) fun u => (u.count64 0x6010 5).on
      (u.poisoned (flowTable + 128 * c) 128) fun u => (u.readPoison (flowTable + 128 * c) 128).breakFlow c 8 true := rfl
  have hpoison : (s.cacheFirst c).poisoned (flowTable + 128 * c) 128 = s.poisoned (flowTable + 128 * c) 128 := rfl
  rw [huse, State.fillCache]
  cases !s.cached c
  · exact .inl rfl
  · simp only [State.on, if_true, State.fill, hpoison]
    cases s.poisoned (flowTable + 128 * c) 128
    · exact .inl rfl
    · exact .inr ⟨rfl, rfl⟩

theorem State.useFlow_clean {s : State} {c : Nat} (hclean : s.poisoned (flowTable + 128 * c) 128 = false) :
    s.useFlow c = s.fillCache c :=
  (s.useFlow_cases c).resolve_right fun h => by simp [hclean] at h

/-- From `s` to `t` the cache of flow contexts has changed, what counts its fills, and the cairn log. -/
structure FillsCache (s t : State) : Prop where
  frame : Only [.fabric, .objects, .ring] s t
  fabric : t.fabric = { s.fabric with cache := t.fabric.cache }
  objects : ∀ a b, okey a b ∉ [okey 0x6010 5, okey 0x9004 2, okey 0x9004 3] → t.obj a b = s.obj a b

namespace FillsCache

variable {s t u : State}

theorem refl (s : State) : FillsCache s s := ⟨Only.refl _ s, rfl, fun _ _ _ => rfl⟩

theorem trans (h : FillsCache s t) (k : FillsCache t u) : FillsCache s u :=
  ⟨h.frame.trans k.frame, by rw [k.fabric, h.fabric], fun a b hab => (k.objects a b hab).trans (h.objects a b hab)⟩

theorem on (b : Bool) {f : State → State} (h : FillsCache s (f s)) : FillsCache s (s.on b f) := by
  unfold State.on
  split
  · exact h
  · exact refl s

theorem flow (h : FillsCache s t) (c : Nat) : t.flow c = s.flow c := flow_of_fabric (by rw [h.fabric]) c

theorem routes (h : FillsCache s t) : RoutesAs s t :=
  .of_only h.frame (by decide) (by rw [h.fabric]) fun a b ha hb => h.objects a b (by simp [okey]; omega)

end FillsCache

theorem State.cacheFirst_fills (s : State) (c : Nat) : FillsCache s (s.cacheFirst c) :=
  ⟨(s.setFabric_frame _).mono (by decide), rfl, fun _ _ _ => rfl⟩

theorem State.readPoison_fills (s : State) (a n : Nat) : FillsCache s (s.readPoison a n) := by
  have hframe : Only [.objects, .ring] s (s.readPoison a n) := State.readPoison_only (Only.refl _ s) (by decide) a n
  have hfabric : (s.readPoison a n).fabric = s.fabric := hframe.2 .fabric (by decide)
  refine ⟨hframe.mono (by decide), by rw [hfabric], fun i j hij => ?objects⟩
  simp only [List.mem_cons, List.not_mem_nil, or_false, not_or] at hij
  obtain ⟨-, htotal, hlost⟩ := hij
  unfold State.readPoison
  split
  · exact State.log_obj _ _ _ htotal hlost
  · rfl

theorem State.fill_fills (s : State) (c : Nat) : FillsCache s (s.fill c) := by
  refine FillsCache.trans (t := s.count64 0x6010 5) ⟨?frame, rfl, fun a b hab => ?objects⟩
    (.on _ (State.readPoison_fills _ _ _))
  case frame => exact State.count64_only (Only.refl _ s) (by decide) 0x6010 5 1
  case objects => rw [State.obj_count64, if_neg fun h => hab (by simp [h])]

theorem State.fillCache_fills (s : State) (c : Nat) : FillsCache s (s.fillCache c) :=
  (s.cacheFirst_fills c).trans (.on _ (State.fill_fills _ c))

end Sys2Proof.Machine

/-!
FLOW_OPEN, FLOW_CLOSE and FLOW_HEAD (O56): the refusals, the context that an image describes, and what a use of the
context leaves of its ring.
-/
namespace Sys2Proof.Machine

/-! ### What a use of a context leaves of it -/

theorem State.useFlow_of_not_opened {s : State} {c : Nat} (h : (s.flow c).state ≠ .opened) :
    s.useFlow c = s.fillCache c := by
  rcases s.useFlow_cases c with huse | ⟨-, huse⟩
  · exact huse
  · rw [huse, State.breakFlow_of_not_opened _ _ (by rwa [(s.fillCache_fills c).flow])]

theorem State.breakFlow_obj {s : State} {a b : Nat} (c err : Nat) (tell : Bool)
    (h : okey a b ∉ okey 0x6010 3 :: okey 0x6010 4 :: packetCounts) : (s.breakFlow c err tell).obj a b = s.obj a b := by
  simp only [List.mem_cons, not_or] at h
  obtain ⟨hopen, hbreaks, hcounts⟩ := h
  by_cases hstate : (s.flow c).state = .opened
  · rw [State.breakFlow, if_neg (by simp [hstate])]
    dsimp only
    rw [(PacketsMove.on tell (State.sendBreak_moves _ _ _)).objects a b hcounts,
      obj_of_only (State.endFlow_frame _ _ _ _) (by decide)]
    simp only [packetCounts, List.mem_cons, List.not_mem_nil, or_false, not_or] at hcounts
    obtain ⟨-, -, htotal, hlost⟩ := hcounts
    rw [State.log_obj _ _ _ htotal hlost, State.obj_count, if_neg hbreaks, State.emptied_obj, if_neg hopen]
  · rw [State.breakFlow_of_not_opened _ _ hstate]

/-- The fields of a context's ring (R107). -/
def Flow.ring (f : Flow) : BitVec 5 × BitVec 24 × BitVec 24 := (f.ringLog2, f.ringHead, f.ringTail)

/-- A use of a context leaves its ring, hall time and LEASE_TIME as they were, even where it breaks the context. -/
theorem State.useFlow_ring (s : State) (c : Nat) : ((s.useFlow c).flow c).ring = (s.flow c).ring := by
  have hfills := s.fillCache_fills c
  by_cases hopen : (s.flow c).state = .opened
  · rcases s.useFlow_cases c with huse | ⟨-, huse⟩
    · rw [huse, hfills.flow]
    · rw [huse, (State.breakFlow_ends 8 true (by rwa [hfills.flow])).flow, hfills.flow]
      rfl
  · rw [State.useFlow_of_not_opened hopen, hfills.flow]

theorem State.useFlow_lease (s : State) (c : Nat) : (s.useFlow c).obj 0x6010 1 = s.obj 0x6010 1 := by
  have hfills := (s.fillCache_fills c).objects 0x6010 1 (by decide)
  rcases s.useFlow_cases c with huse | ⟨-, huse⟩
  · rw [huse, hfills]
  · rw [huse, State.breakFlow_obj _ _ _ (by decide), hfills]

theorem State.useFlow_frame (s : State) (c : Nat) :
    Only [.out, .links, .fabric, .movers, .objects, .ring] s (s.useFlow c) :=
  State.useFlow_only (Only.refl _ s) (by decide) c

/-! ### The commands (R452, log entry 79) -/

theorem State.takeEntry_frame (s : State) (e : BitVec 512) : Only [.faults, .host] s (s.mpUp.takeEntry e) :=
  State.takeEntry_only (State.mpUp_only (Only.refl _ s) (by decide)) (by decide) e

theorem State.takeEntry_flow (s : State) (e : BitVec 512) (c : Nat) : (s.mpUp.takeEntry e).flow c = s.flow c :=
  flow_of_fabric (by rw [(s.takeEntry_frame e).2 .fabric (by decide)]) c

theorem State.takeEntry_obj (s : State) (e : BitVec 512) (a b : Nat) : (s.mpUp.takeEntry e).obj a b = s.obj a b :=
  obj_of_only (s.takeEntry_frame e) (by decide) a b

theorem State.onFlow_missing {s : State} {c : Nat} (run : State → Result) (hc : 262144 ≤ c) :
    s.onFlow c run = (3, [106], s) := by
  rw [State.onFlow, if_neg (by omega), State.fails]

theorem State.onFlow_there {s : State} {c : Nat} (run : State → Result) (hc : c < 262144) : s.onFlow c run = run s := by
  rw [State.onFlow, if_pos hc]

/-- FLOW_OPEN of context `c` with the image `w`. -/
def State.openFlow (s : State) (c w : Nat) : Result :=
  if (s.flow c).state ≠ .free then s.fails 3 108
  else if !flowOk w then s.fails 3 107
  else if fld w 674 664 < 16 then s.fails 3 452
  else (((s.useFlow c).setFlow c (flowOf w)).count 0x6010 3).done

theorem exec_flowOpen {s v : State} {e : BitVec 512} {status : Nat} {words : List Nat} (hdown : s.down = false)
    (hstage : 2 ≤ s.boot.stage) (hok : entryOk e.toNat = true) (hopcode : eOpcode e.toNat = 8)
    (hrun : ((s.mpUp.takeEntry e).onFlow (eArg e.toNat 0) fun s => s.fetchArg (eArg e.toNat 1) 128 fun bs =>
      s.openFlow (eArg e.toNat 0) (leNat bs)) = (status, words, v)) :
    exec (.flowOpen e) s = .next ((v.complete e.toNat status words).streamAll) :=
  (hostCommand_runs (fun e s => s.onFlow (eArg e 0) fun s => s.fetchArg (eArg e 1) 128 fun bs =>
    s.openFlow (eArg e 0) (leNat bs)) hdown hstage hok hopcode).trans (by rw [hrun, State.answers])

/-- FLOW_CLOSE of context `c`. -/
def State.closeFlow (s : State) (c : Nat) : State :=
  match (s.flow c).state with
  | .free => s
  | .broken => s.setFlow c .reset
  | .opened => (s.sendBreak c (s.flow c)).endFlow c .reset fun s => s

theorem execFlowClose_eq (e : BitVec 512) (s : State) : execFlowClose e s = hostCommand 9 e (fun e s =>
    s.onFlow (eArg e 0) fun s => ((s.useFlow (eArg e 0)).closeFlow (eArg e 0)).done) s := by
  unfold execFlowClose
  congr 1
  funext e s
  dsimp only
  congr 1
  funext s
  unfold State.closeFlow
  generalize ((s.useFlow (eArg e 0)).flow (eArg e 0)).state = state
  cases state <;> rfl

theorem exec_flowClose {s v : State} {e : BitVec 512} {status : Nat} {words : List Nat} (hdown : s.down = false)
    (hstage : 2 ≤ s.boot.stage) (hok : entryOk e.toNat = true) (hopcode : eOpcode e.toNat = 9)
    (hrun : ((s.mpUp.takeEntry e).onFlow (eArg e.toNat 0) fun s =>
      ((s.useFlow (eArg e.toNat 0)).closeFlow (eArg e.toNat 0)).done) = (status, words, v)) :
    exec (.flowClose e) s = .next ((v.complete e.toNat status words).streamAll) :=
  ((execFlowClose_eq e s).trans (hostCommand_runs _ hdown hstage hok hopcode)).trans (by rw [hrun, State.answers])

/-- FLOW_HEAD of context `c` to offset `h`. -/
def State.moveHead (s : State) (c h : Nat) : Result :=
  let f := s.flow c
  let size := 2 ^ f.ringLog2.toNat
  let head := f.ringHead.toNat
  let filled := (f.ringTail.toNat + size - head % size) % size
  if f.ringLog2 = 0 ∨ size ≤ h ∨ filled < (h + size - head % size) % size then s.fails 3 452
  else ((s.setFlow c { f with ringHead := BitVec.ofNat 24 h }).renewLease c).done

theorem exec_flowHead {s v : State} {e : BitVec 512} {status : Nat} {words : List Nat} (hdown : s.down = false)
    (hstage : 2 ≤ s.boot.stage) (hok : entryOk e.toNat = true) (hopcode : eOpcode e.toNat = 10)
    (hrun : ((s.mpUp.takeEntry e).onFlow (eArg e.toNat 0) fun s =>
      (s.useFlow (eArg e.toNat 0)).moveHead (eArg e.toNat 0) (eArg e.toNat 1)) = (status, words, v)) :
    exec (.flowHead e) s = .next ((v.complete e.toNat status words).streamAll) :=
  (hostCommand_runs (fun e s => s.onFlow (eArg e 0) fun s => (s.useFlow (eArg e 0)).moveHead (eArg e 0) (eArg e 1))
    hdown hstage hok hopcode).trans (by rw [hrun, State.answers])

/-! ### Opening -/

theorem State.fetchArg_poisoned {s : State} {a n : Nat} (f : List Byte → Result) (hvisible : s.visible a n = true)
    (hpoisoned : s.poisoned a n = true) : s.fetchArg a n f = (s.readPoison a n).fails 7 := by
  rw [State.fetchArg, hvisible, hpoisoned]
  rfl

/-- A field of a layout fits the bits of its width. -/
theorem toNat_ofNat_fld {n : Nat} (w hi lo : Nat) (hn : n = hi + 1 - lo) :
    (BitVec.ofNat n (fld w hi lo)).toNat = fld w hi lo := by
  subst hn
  rw [BitVec.toNat_ofNat]
  exact Nat.mod_eq_of_lt (Nat.mod_lt _ (Nat.two_pow_pos _))

/-- The state that an open leaves. -/
def State.flowOpened (s : State) (c w : Nat) : State := ((s.useFlow c).setFlow c (flowOf w)).count 0x6010 3

theorem State.openFlow_opens {s : State} {c w : Nat} (hfree : (s.flow c).state = .free) (himage : flowOk w = true)
    (hvector : 16 ≤ fld w 674 664) : s.openFlow c w = (0, [], s.flowOpened c w) := by
  rw [State.openFlow, if_neg (by simp [hfree]), if_neg (by simp [himage]), if_neg (by omega)]
  rfl

theorem State.flowOpened_flow (s : State) (c w : Nat) : (s.flowOpened c w).flow c = flowOf w := by
  rw [State.flowOpened, State.count_flow, State.flow_setFlow]

theorem State.flowOpened_mem (s : State) (c w : Nat) : (s.flowOpened c w).mem = s.mem := by
  rw [State.flowOpened, State.count_mem, State.setFlow_mem, (s.useFlow_frame c).2 .mem (by decide)]

theorem State.flowOpened_count {s : State} {c : Nat} (w : Nat) (hfree : (s.flow c).state = .free) :
    (s.flowOpened c w).obj 0x6010 3 = (s.obj 0x6010 3 + 1) % 2 ^ 32 := by
  rw [State.flowOpened, State.obj_count, if_pos rfl, State.setFlow_obj, State.useFlow_of_not_opened (by simp [hfree]),
    (s.fillCache_fills c).objects _ _ (by decide)]

/-! ### Closing -/

theorem State.closeFlow_free (s : State) (c : Nat) : ((s.closeFlow c).flow c).state = .free := by
  unfold State.closeFlow
  split
  case h_1 hfree => exact hfree
  case h_2 => rw [State.flow_setFlow]; rfl
  case h_3 => rw [(State.endFlow_ends (fun _ => rfl) fun _ => rfl).flow]; rfl

/-- A close of an open context ends it, whether the use broke it before or not. -/
theorem State.useFlow_closeFlow_ends {s : State} {c : Nat} (hopen : (s.flow c).state = .opened) :
    EndsFlow s ((s.useFlow c).closeFlow c) c .reset := by
  have hfills := s.fillCache_fills c
  have hopen' : ((s.fillCache c).flow c).state = .opened := by rwa [hfills.flow]
  have hends : ∀ t f, EndsFlow (s.fillCache c) t c f → EndsFlow s t c f := fun t f h =>
    ⟨h.flow, by rw [h.inFlight, hfills.fabric], by rw [h.waitReq, hfills.fabric],
      by rw [h.openCount, hfills.objects _ _ (by decide)]⟩
  rcases s.useFlow_cases c with huse | ⟨-, huse⟩
  · rw [huse, State.closeFlow, hopen']
    exact hends _ _ ((State.endFlow_ends (fun _ => rfl) fun _ => rfl).after_moves (State.sendBreak_moves ..))
  · have hbreaks := State.breakFlow_ends 8 true hopen'
    have hbroken : (((s.fillCache c).breakFlow c 8 true).flow c).state = .broken := by rw [hbreaks.flow]; rfl
    rw [huse, State.closeFlow, hbroken]
    exact hends _ _ ⟨State.flow_setFlow .., hbreaks.inFlight, hbreaks.waitReq, hbreaks.openCount⟩

/-! ### The consumer offset -/

/-- An offset `k` bytes past `head`, both taken round a ring of `size` bytes, lies `k` bytes past it. -/
theorem ring_distance {size head k : Nat} (hhead : head < size) (hk : k < size) :
    ((head + k) % size + size - head % size) % size = k := by
  rw [Nat.mod_eq_of_lt hhead]
  by_cases hwrap : head + k < size
  · rw [Nat.mod_eq_of_lt hwrap, show head + k + size - head = k + size by omega, Nat.add_mod_right, Nat.mod_eq_of_lt hk]
  · have hpast : (head + k) % size = head + k - size := by
      rw [Nat.mod_eq_sub_mod (by omega), Nat.mod_eq_of_lt (by omega)]
    rw [hpast, show head + k - size + size - head = k by omega, Nat.mod_eq_of_lt hk]

/-- The state that FLOW_HEAD leaves where it takes the offset. -/
def State.headMoved (s : State) (c h : Nat) : State :=
  (s.setFlow c { s.flow c with ringHead := BitVec.ofNat 24 h }).renewLease c

theorem State.headMoved_flow (s : State) (c h : Nat) : (s.headMoved c h).flow c = { s.flow c with
    ringHead := BitVec.ofNat 24 h, leaseEnd := BitVec.ofNat 48 (s.now / 1000 + s.obj 0x6010 1) } := by
  rw [State.headMoved, State.renewLease, State.flow_setFlow, State.flow_setFlow, State.setFlow_obj]
  rfl

theorem State.moveHead_takes {s : State} {c h k : Nat} (hring : (s.flow c).ringLog2 ≠ 0)
    (hhead : (s.flow c).ringHead.toNat < 2 ^ (s.flow c).ringLog2.toNat)
    (hfilled : k ≤ ((s.flow c).ringTail.toNat + 2 ^ (s.flow c).ringLog2.toNat - (s.flow c).ringHead.toNat) %
      2 ^ (s.flow c).ringLog2.toNat)
    (hoffset : h = ((s.flow c).ringHead.toNat + k) % 2 ^ (s.flow c).ringLog2.toNat) :
    s.moveHead c h = (0, [], s.headMoved c h) := by
  have hsize : 0 < 2 ^ (s.flow c).ringLog2.toNat := Nat.two_pow_pos _
  have hk : k < 2 ^ (s.flow c).ringLog2.toNat := lt_of_le_of_lt hfilled (Nat.mod_lt _ hsize)
  rw [State.moveHead, if_neg]
  · rfl
  · rw [hoffset, ring_distance hhead hk, Nat.mod_eq_of_lt hhead]
    simp only [not_or, Nat.not_le, Nat.not_lt]
    exact ⟨hring, Nat.mod_lt _ hsize, hfilled⟩

theorem State.moveHead_refuses {s : State} {c h : Nat}
    (hbad : (s.flow c).ringLog2 = 0 ∨ 2 ^ (s.flow c).ringLog2.toNat ≤ h) : s.moveHead c h = (3, [452], s) := by
  rw [State.moveHead, if_pos (hbad.imp_right .inl), State.fails]

/-- Settles O56, from what each command answers and the state that it leaves. -/
theorem flowCommandsOfTheRing : Obligations.FlowCommandsOfTheRing := by
  intro s e hdown hstage hok w u c ends
  have hflow : u.flow c = s.flow c := s.takeEntry_flow e c
  have hobj : ∀ a b, u.obj a b = s.obj a b := s.takeEntry_obj e
  have hmem : u.mem = s.mem := (s.takeEntry_frame e).2 .mem (by decide)
  refine ⟨fun hc => ⟨fun h => ?openMissing, fun h => ?closeMissing, fun h => ?headMissing⟩,
    fun hc h => ⟨fun hhidden => ?openHidden, fun hvisible hpoisoned => ?openPoisoned⟩,
    fun hc h hvisible hclean => ?openImage, fun hc h => ?close, fun hc h => ?head, fun hc h hbad => ?headBad⟩
  case openMissing => exact exec_flowOpen hdown hstage hok h (State.onFlow_missing _ hc)
  case closeMissing => exact exec_flowClose hdown hstage hok h (State.onFlow_missing _ hc)
  case headMissing => exact exec_flowHead hdown hstage hok h (State.onFlow_missing _ hc)
  case openHidden =>
    exact exec_flowOpen hdown hstage hok h ((State.onFlow_there _ hc).trans (State.fetchArg_hidden _ hhidden))
  case openPoisoned =>
    exact exec_flowOpen hdown hstage hok h
      ((State.onFlow_there _ hc).trans (State.fetchArg_poisoned _ hvisible hpoisoned))
  case openImage =>
    intro image
    have hends : ∀ {v : State} {status : Nat} {words : List Nat}, u.openFlow c image = (status, words, v) →
        ends (.flowOpen e) v status words := fun hopens => exec_flowOpen hdown hstage hok h
      (((State.onFlow_there _ hc).trans (State.fetchArg_clean _ hvisible hclean)).trans hopens)
    refine ⟨fun hused => hends ?used, fun hfree => ⟨fun himage => hends ?badImage,
      fun himage hvector => hends ?reserved, fun himage hvector => ?opens⟩⟩
    case used => rw [State.openFlow, if_pos (by rwa [hflow]), State.fails]
    case badImage => rw [State.openFlow, if_neg (by simp [hflow, hfree]), if_pos (by simp [himage]), State.fails]
    case reserved =>
      rw [State.openFlow, if_neg (by simp [hflow, hfree]), if_neg (by simp [himage]), if_pos hvector, State.fails]
    case opens =>
      have hfree' : (u.flow c).state = .free := by rwa [hflow]
      refine ⟨u.flowOpened c image, hends (State.openFlow_opens hfree' himage hvector), ?count, ?mem, ?fields⟩
      case count => rw [State.flowOpened_count image hfree', hobj]
      case mem => rw [State.flowOpened_mem, hmem]
      case fields =>
        rw [State.flowOpened_flow]
        exact ⟨rfl, toNat_ofNat_fld _ _ _ rfl, toNat_ofNat_fld _ _ _ rfl, toNat_ofNat_fld _ _ _ rfl,
          toNat_ofNat_fld _ _ _ rfl, toNat_ofNat_fld _ _ _ rfl, toNat_ofNat_fld _ _ _ rfl, rfl,
          toNat_ofNat_fld _ _ _ rfl, toNat_ofNat_fld _ _ _ rfl, toNat_ofNat_fld _ _ _ rfl,
          toNat_ofNat_fld _ _ _ rfl, toNat_ofNat_fld _ _ _ rfl⟩
  case close =>
    refine ⟨(u.useFlow c).closeFlow c, exec_flowClose hdown hstage hok h (State.onFlow_there _ hc),
      State.closeFlow_free _ _, fun hopen => ?opened⟩
    have hends := State.useFlow_closeFlow_ends (s := u) (c := c) (by rwa [hflow])
    exact ⟨hends.openCount.trans (by rw [hobj]), hends.no_inFlight, hends.no_waitReq⟩
  case head =>
    intro f size hring hhead _ hlog k hfilled hoffset
    have hsame : ((u.useFlow c).flow c).ring = f.ring := by rw [State.useFlow_ring, hflow]
    obtain ⟨hlog2, hheads, htails⟩ : _ ∧ _ ∧ _ := by simpa only [Flow.ring, Prod.mk.injEq] using hsame
    refine ⟨(u.useFlow c).headMoved c (eArg w 1), exec_flowHead hdown hstage hok h ((State.onFlow_there _ hc).trans
      (State.moveHead_takes (k := k) ?ring ?inRing ?filled ?offset)), ?newHead, ?lease, ?tail⟩
    case ring => rwa [hlog2]
    case inRing => rwa [hlog2, hheads]
    case filled => rwa [hlog2, hheads, htails]
    case offset => rwa [hlog2, hheads]
    case newHead =>
      have hfits : eArg w 1 < 2 ^ 24 := by
        rw [hoffset]
        exact lt_of_lt_of_le (Nat.mod_lt _ (Nat.two_pow_pos _)) (Nat.pow_le_pow_right (by decide) hlog)
      rw [State.headMoved_flow]
      exact (BitVec.toNat_ofNat ..).trans (Nat.mod_eq_of_lt hfits)
    case lease =>
      have hnow : (u.useFlow c).now = s.now := by
        rw [State.now, (u.useFlow_frame c).2 .hall (by decide), (s.takeEntry_frame e).2 .hall (by decide), State.now]
      rw [State.headMoved_flow, State.useFlow_lease, hobj, hnow]
    case tail => rw [State.headMoved_flow]; exact htails
  case headBad =>
    have hsame : ((u.useFlow c).flow c).ring = (s.flow c).ring := by rw [State.useFlow_ring, hflow]
    obtain ⟨hlog2, -, -⟩ : _ ∧ _ ∧ _ := by simpa only [Flow.ring, Prod.mk.injEq] using hsame
    exact ⟨u.useFlow c, exec_flowHead hdown hstage hok h ((State.onFlow_there _ hc).trans
      (State.moveHead_refuses (by rwa [hlog2])))⟩

end Sys2Proof.Machine

/-!
Packets and flow contexts (O25): a free slot, a packet that arrives, one that escapes, a request and its response, and
what breaks a context.
-/
namespace Sys2Proof.Machine

/-! ### A free slot (R98-R100) -/

theorem State.owe_link (s : State) (die port vc n l : Nat) :
    ∃ o, (s.owe die port vc n).link l = { s.link l with owed := o } := by
  unfold State.owe
  split
  · by_cases hl : l = 32 * die + port
    · subst hl
      exact ⟨_, by rw [State.mapLink, State.link_setLink]⟩
    · exact ⟨_, Tbl.get_set_other hl⟩
  · exact ⟨_, rfl⟩

theorem State.retryWaiting_of_none {s : State} (hnone : s.fabric.waiting = []) : s.retryWaiting = s := by
  calc s.retryWaiting = { s with fabric := { s.fabric with waiting := [] } } := by
        rw [State.retryWaiting, hnone]; rfl
    _ = { s with fabric := { s.fabric with waiting := s.fabric.waiting } } := by rw [hnone]
    _ = s := rfl

/-- The credits of a slot's framing are taken in, and those owed returned. -/
def State.exchangeCredits (s : State) (l : Nat) (credits : List Nat) : State := (s.addCredits l credits).returnCredits l

theorem exec_freeSlotSend {s : State} {link : Link} {credits : List Nat} (hdown : s.down = false)
    (hup : s.linkUp link = true) (hnone : s.fabric.waiting = []) : exec (.freeSlotSend link credits) s =
      .next ((s.exchangeCredits link credits).sendFlits link 16 (s.slotFlits link) none) := by
  have hnone' : (s.addCredits link credits).fabric.waiting = [] := by
    rw [(s.addCredits_frame link credits).2 .fabric (by decide), hnone]
  change execFreeSlotSend link credits s = _
  rw [execFreeSlotSend, act_up hdown, if_pos hup, State.retryWaiting_of_none hnone', State.exchangeCredits]

theorem State.exchangeCredits_link (s : State) (l : Nat) (credits : List Nat) :
    (s.exchangeCredits l credits).link l = { s.link l with
      credits := (List.range 5).map fun i =>
        min (fullCredits.getD i 0) ((s.link l).credits.getD i 0 + credits.getD i 0)
      owed := [0, 0, 0, 0, 0] } := by
  rw [State.exchangeCredits, State.returnCredits, State.emit_link, State.mapLink, State.link_setLink, State.addCredits,
    State.mapLink, State.link_setLink]

theorem State.exchangeCredits_out (s : State) (l : Nat) (credits : List Nat) :
    (s.exchangeCredits l credits).out = .credits l (s.link l).owed :: s.out := by
  rw [State.exchangeCredits, State.returnCredits, State.emit_out, State.mapLink_out, State.addCredits, State.mapLink,
    State.link_setLink]
  rfl

theorem State.sendFlits_part {s : State} {l budget r : Nat} {q : Queued} (fuel : Nat) (last : Option (Nat × Nat))
    (hsending : (s.link l).sending = some (q, r)) (hmore : budget < r) :
    s.sendFlits l (fuel + 1) budget last = s.setLink l { s.link l with sending := some (q, r - budget) } := by
  rw [State.sendFlits, hsending]
  exact if_pos hmore

theorem State.sendFlits_last {s : State} {l budget r : Nat} {q : Queued} (fuel : Nat) (last : Option (Nat × Nat))
    (hsending : (s.link l).sending = some (q, r)) (hall : r ≤ budget) :
    s.sendFlits l (fuel + 1) budget last = (s.sent l q).sendFlits l fuel (budget - r) last := by
  rw [State.sendFlits, hsending]
  exact if_neg (Nat.not_lt.mpr hall)

theorem State.sendFlits_idle {s : State} {l : Nat} (fuel budget : Nat) (last : Option (Nat × Nat))
    (hsending : (s.link l).sending = none) (hqueue : (s.link l).queue = []) : s.sendFlits l fuel budget last = s := by
  have hnone : ∀ ok, nextVc (s.link l) (fun vc => !(contenders (s.link l).queue vc ok).isEmpty) = none := fun ok => by
    simp [nextVc, contenders, hqueue]
  cases fuel with
  | zero => rfl
  | succ fuel =>
    rw [State.sendFlits, hsending]
    dsimp only
    rw [hnone]
    exact ite_self s

/-- A packet that has left whole: the link sends nothing, and owes for the buffer that held it. -/
theorem State.sent_link (s : State) (l : Nat) (q : Queued) :
    ∃ o, (s.sent l q).link l = { s.link l with sending := none, owed := o } := by
  have hsent : ((s.mapLink l fun v => { v with sending := none }).emit (.packet l q.p)).link l =
      { s.link l with sending := none } := by rw [State.emit_link, State.mapLink, State.link_setLink]
  unfold State.sent
  split
  · obtain ⟨o, ho⟩ := State.owe_link ((s.mapLink l fun v => { v with sending := none }).emit (.packet l q.p)) (l / 32)
      q.port _ q.p.flits l
    exact ⟨o, by rw [ho, hsent]⟩
  · exact ⟨_, hsent⟩

theorem State.sent_out (s : State) (l : Nat) (q : Queued) : (s.sent l q).out = .packet l q.p :: s.out := by
  unfold State.sent
  split
  · exact (State.owe_frame ..).2 .out (by decide)
  · rfl

/-! ### A packet arrives (R82, R102-R105, R119) -/

theorem leNat_lt : ∀ bs : List Byte, leNat bs < 256 ^ bs.length
  | [] => by simp [leNat]
  | b :: bs => by
    have hrest := leNat_lt bs
    have hb : b.toNat < 256 := b.isLt
    rw [leNat, List.length_cons, Nat.pow_succ]
    omega

theorem length_of_holdIn {p : Packet} {k : Nat} (h : holdIn p = some k) : p.data.length = 32 := by
  unfold holdIn at h
  dsimp only at h
  split at h
  · next hmessage =>
    simp only [Bool.and_eq_true, beq_iff_eq] at hmessage
    exact hmessage.2
  · cases h

theorem toNat_ofNat_leNat {p : Packet} {k : Nat} (h : holdIn p = some k) :
    (BitVec.ofNat 256 (leNat p.data)).toNat = leNat p.data := by
  have hfits := leNat_lt p.data
  rw [length_of_holdIn h] at hfits
  exact (BitVec.toNat_ofNat ..).trans (Nat.mod_eq_of_lt hfits)

theorem exec_packetForward_hold {s : State} {die : HDie} {port : Fin 35} {p : Packet} {l : Link}
    (hdown : s.down = false) (hlink : portLink die port = some l.val) (hhold : holdIn p = some 1) :
    exec (.packetForward die port p) s = exec (.hold l (BitVec.ofNat 256 (leNat p.data))) s := by
  change execPacketForward die port p s = _
  rw [exec_hold hdown, toNat_ofNat_leNat hhold, execPacketForward, act_up hdown, hlink, hhold]
  rfl

theorem exec_packetForward_resume {s : State} {die : HDie} {port : Fin 35} {p : Packet} {l : Link}
    (hdown : s.down = false) (hlink : portLink die port = some l.val) (hresume : holdIn p = some 2) :
    exec (.packetForward die port p) s = exec (.resume l (BitVec.ofNat 256 (leNat p.data))) s := by
  change execPacketForward die port p s = _
  rw [exec_resume hdown, toNat_ofNat_leNat hresume, execPacketForward, act_up hdown, hlink, hresume]
  rfl

theorem exec_packetForward {s : State} {die : HDie} {port : Fin 35} {p : Packet} (hdown : s.down = false)
    (hother : portLink die port = none ∨ holdIn p = none) :
    exec (.packetForward die port p) s = .next (s.forward die port p) := by
  change execPacketForward die port p s = _
  rw [execPacketForward, act_up hdown]
  rcases hother with hnone | hnone
  · rw [hnone]
  · rw [hnone]
    cases portLink die port <;> rfl

theorem State.owe_obj (s : State) (die port vc n a b : Nat) : (s.owe die port vc n).obj a b = s.obj a b :=
  obj_of_only (s.owe_frame die port vc n) (by decide) a b

theorem State.forward_malformed {s : State} {die port : Nat} {p : Packet} (hbad : p.ok = false) :
    (s.forward die port p).obj 0x6000 7 = (s.obj 0x6000 7 + 1) % 2 ^ 32 := by
  rw [State.forward, if_pos (by simp [hbad]), (State.refusePacket_moves ..).objects _ _ (by decide),
    State.log_obj _ _ _ (by decide) (by decide), State.obj_count, if_pos rfl, State.owe_obj]

/-- A packet as it waits in the buffer of an input port from now on. -/
def State.arrived (s : State) (die port : Nat) (p : Packet) : Waiting := ⟨die, port, false, true, false, p, s.now⟩

theorem State.forward_routes {s : State} {die port : Nat} {p : Packet} (hok : p.ok = true)
    (hroom : s.portRoom die port p = true) :
    s.forward die port p = s.route (s.arrived die port p) fun s e => s.inject die e := by
  rw [State.forward, if_neg (by simp [hok]), if_neg (by simp [hroom]), State.arrived]

theorem State.hopOf_arrived_ordered {s : State} {die port : Nat} {p : Packet} (hdst : p.dst ≠ s.moduleNumber)
    (htransit : s.noTransit = false ∨ p.vc = 0) (h2 : p.vc ≠ 2) (h3 : p.vc ≠ 3) :
    s.hopOf (s.arrived die port p) = s.orderedHop p.dst p.seq (portLink die port) := by
  have hrefused : (s.noTransit && p.vc != 0) = false := by rcases htransit with h | h <;> simp [h]
  simp [State.hopOf, State.arrived, hdst, hrefused, h2, h3]

theorem State.hopOf_arrived_adaptive {s : State} {die port : Nat} {p : Packet} (hdst : p.dst ≠ s.moduleNumber)
    (htransit : s.noTransit = false) (hvc : p.vc = 2 ∨ p.vc = 3) :
    s.hopOf (s.arrived die port p) = s.adaptiveHop p.dst p.vc p.flits := by
  simp [State.hopOf, State.arrived, hdst, htransit, hvc]

/-! ### A packet escapes (R102) -/

theorem State.reach_orderedHop (s : State) (n dst seq : Nat) (l : Option Nat) :
    (s.reach n).orderedHop dst seq l = s.orderedHop dst seq l := by
  unfold State.reach State.reach64
  split <;> rfl

/-- A packet that waits, with its wait over, leaves the list of those that wait. -/
def State.escapes (s : State) (w : Waiting) : State :=
  let u := s.reach (w.since + s.obj 0x6000 4)
  { u with fabric := { u.fabric with waiting := u.fabric.waiting.erase w } }

theorem exec_escapeWaitExpire {s : State} {p : Packet} {w : Waiting} (hdown : s.down = false)
    (hfind : (s.fabric.waiting.find? fun w => w.p == p && (p.vc == 2 || p.vc == 3) && w.buffered && !w.escaping) =
      some w) :
    exec (.escapeWaitExpire p) s =
      .next ((s.escapes w).route { w with escaping := true } fun s e => s.inject w.die e) := by
  change execEscapeWaitExpire p s = _
  rw [execEscapeWaitExpire, act_up hdown, hfind, State.escapes]

theorem State.hopOf_escaping {s : State} {w : Waiting} {l : Nat} (hdst : w.p.dst ≠ s.moduleNumber)
    (hhop : s.orderedHop w.p.dst w.p.seq (portLink w.die w.port) = .link l)
    (hcredit : w.p.flits ≤ (s.link l).credits.getD 4 0) : s.hopOf { w with escaping := true } = .link l := by
  rw [State.hopOf, if_neg hdst]
  dsimp only
  rw [if_pos rfl, hhop]
  exact if_pos hcredit

/-! ### Requests and responses (R110, R111) -/

theorem State.nextRequest_issuable {s : State} {die : Nat} {skip : List Nat} {rs : List Request} {r : Request}
    (h : s.nextRequest die skip rs = some r) : home r.ctx = die ∧ s.issuable r = true := by
  induction rs generalizing skip with
  | nil => cases h
  | cons x rs ih =>
    rw [State.nextRequest] at h
    split at h
    · next hissues =>
      cases h
      exact ⟨hissues.1, hissues.2.2⟩
    · exact ih h

theorem State.opened_of_issuable {s : State} {r : Request} (h : s.issuable r = true) :
    (s.flow r.ctx).state = .opened := by
  simp only [State.issuable, Bool.and_eq_true, beq_iff_eq] at h
  exact h.1.1

/-- The VC of a request: VC4 on an ordered context. -/
def Flow.vc (f : Flow) : Nat := if f.ordered then 4 else f.reqVc.toNat

/-- A request as a packet. -/
def State.requestPacket (s : State) (r : Request) : Packet :=
  let f := s.flow r.ctx
  ⟨packetHeader r.op f.vc s.moduleNumber f.peerModule.toNat f.peerContext.toNat r.ctx f.txSeq.toNat f.stageKey.toNat
    r.addr r.addrKind r.length 0 0 0 0 0, r.data⟩

/-- The C-die of the unit that makes a request. -/
def Request.unit (r : Request) : Option Nat :=
  match r.issuer with
  | .mover m _ _ => some (m / 96)
  | .repair | .other => none

/-- A context with one request more. -/
def Flow.withRequest (f : Flow) (r : Request) : Flow :=
  { f with
    txSeq := f.txSeq + 1, outstanding := f.outstanding + 1
    respReserved := f.respReserved + BitVec.ofNat 24 r.reserve }

/-- A request has its SEQ and its reservation, and is in flight. -/
def State.booked (s : State) (r : Request) : State :=
  let u := s.setFlow r.ctx ((s.flow r.ctx).withRequest r)
  let v := u.setPool (home r.ctx) (u.poolFree (home r.ctx) - r.reserve)
  { v with fabric := { v.fabric with
    waitReq := v.fabric.waitReq.erase r
    inFlight := v.fabric.inFlight ++
      [{ r with seq := (s.flow r.ctx).txSeq.toNat, bytes := r.reserve, at_ := v.now }] } }

/-- A request is booked and sent; one on VC4 whose destination is out of reach is answered at once (R103). -/
def State.sendRequest (s : State) (r : Request) : State :=
  let u := s.booked r
  let p := s.requestPacket r
  (u.inject (home r.ctx) p r.unit).on (u.orderedHop p.dst p.seq none == .unreachable && (s.flow r.ctx).vc == 4)
    (·.errorTo (home r.ctx) p 6)

theorem State.issueRequest_eq (s : State) (r : Request) : s.issueRequest r =
    if ((s.useFlow r.ctx).flow r.ctx).state ≠ .opened then s.useFlow r.ctx
    else ((s.useFlow r.ctx).renewLease r.ctx).sendRequest r := by
  unfold State.issueRequest
  generalize s.useFlow r.ctx = u
  refine if_congr Iff.rfl rfl ?_
  generalize u.renewLease r.ctx = v
  rfl

theorem State.renewLease_fabric (s : State) (c : Nat) :
    (s.renewLease c).fabric = { s.fabric with flows := (s.renewLease c).fabric.flows } := rfl

/-- A renewed lease is all that a renewal changes of a context. -/
theorem State.renewLease_flow (s : State) (c : Nat) :
    (s.renewLease c).flow c = { s.flow c with leaseEnd := BitVec.ofNat 48 (s.now / 1000 + s.obj 0x6010 1) } := by
  rw [State.renewLease, State.flow_setFlow]

theorem State.requestPacket_renewLease (s : State) (r : Request) :
    (s.renewLease r.ctx).requestPacket r = s.requestPacket r := by
  rw [State.requestPacket, State.renewLease_flow, State.requestPacket]
  rfl

theorem FillsCache.requestPacket {s t : State} (h : FillsCache s t) (r : Request) :
    t.requestPacket r = s.requestPacket r := by
  rw [State.requestPacket, h.flow, h.routes.moduleNumber, State.requestPacket]

theorem toNat_append_eq {m k : Nat} (x : BitVec m) (z : BitVec k) : (x ++ z).toNat = x.toNat * 2 ^ k + z.toNat := by
  rw [BitVec.toNat_append, ← Nat.shiftLeft_add_eq_or_of_lt z.isLt, Nat.shiftLeft_eq]

/-- A field above the part `z` of a layout is one of the rest. -/
theorem fld_append_high {m k hi lo : Nat} (x : BitVec m) (z : BitVec k) (hk : k ≤ lo) (hhi : lo ≤ hi) :
    fld (x ++ z).toNat hi lo = fld x.toNat (hi - k) (lo - k) := by
  obtain ⟨d, rfl⟩ := Nat.exists_eq_add_of_le hk
  have hshift : (x.toNat * 2 ^ k + z.toNat) / 2 ^ (k + d) = x.toNat / 2 ^ d := by
    rw [Nat.pow_add, ← Nat.div_div_eq_div_mul, Nat.mul_comm, Nat.mul_add_div (Nat.two_pow_pos k),
      Nat.div_eq_of_lt z.isLt, Nat.add_zero]
  rw [toNat_append_eq, fld, hshift, fld, Nat.add_sub_cancel_left]
  congr 2
  omega

/-- The lowest part of a layout, as a field. -/
theorem fld_append_low {m k : Nat} (x : BitVec m) (z : BitVec (k + 1)) : fld (x ++ z).toNat k 0 = z.toNat := by
  rw [toNat_append_eq, fld, Nat.pow_zero, Nat.div_one, Nat.sub_zero, Nat.mul_add_mod_self_right,
    Nat.mod_eq_of_lt z.isLt]

theorem vc_packetHeader (op vc src dst dstCtx srcCtx seq key addr addrKind length atomicOp atomicSize operand0 operand1
    status : Nat) (data : List Byte) (hvc : vc < 8) :
    Packet.vc ⟨packetHeader op vc src dst dstCtx srcCtx seq key addr addrKind length atomicOp atomicSize operand0
      operand1 status, data⟩ = vc := by
  have hlow : fld ((0x2#4 ++ BitVec.ofNat 6 op) ++ BitVec.ofNat 3 vc).toNat 2 0 = vc :=
    (fld_append_low _ _).trans ((BitVec.toNat_ofNat ..).trans (Nat.mod_eq_of_lt hvc))
  rewrite [Packet.vc, packetHeader]
  iterate 15 rewrite [fld_append_high _ _ (by decide) (by decide)]
  exact hlow

theorem Flow.vc_lt (f : Flow) : f.vc < 8 := by
  have hreq := f.reqVc.isLt
  unfold Flow.vc
  split <;> omega

theorem State.requestPacket_vc (s : State) (r : Request) : (s.requestPacket r).vc = (s.flow r.ctx).vc :=
  vc_packetHeader _ _ _ _ _ _ _ _ _ _ _ _ _ _ _ _ _ (s.flow r.ctx).vc_lt

theorem State.orderedHop_here (s : State) (seq : Nat) (l : Option Nat) : s.orderedHop s.moduleNumber seq l = .here := by
  have hsame : firstDim s.moduleNumber s.moduleNumber = none := by simp [firstDim]
  rw [State.orderedHop]
  dsimp only
  rw [hsame]

/-- Nothing is said of a packet that is out of reach. -/
theorem State.sends_of_unreachable {s t : State} {die : Nat} {p : Packet} {unit : Option Nat} (hvc : p.vc = 4)
    (hlost : s.orderedHop p.dst p.seq none = .unreachable) : s.Sends t die p unit := by
  refine ⟨fun hdst => ?here, fun l _ hhop => ?link⟩
  case here =>
    rw [hdst, State.orderedHop_here] at hlost
    cases hlost
  case link =>
    simp only [hvc, hlost] at hhop
    cases hhop

theorem State.sendRequest_sends (s : State) (r : Request) :
    (s.booked r).Sends (s.sendRequest r) (home r.ctx) (s.requestPacket r) r.unit := by
  unfold State.sendRequest State.on
  dsimp only
  split
  · next hlost =>
    rw [Bool.and_eq_true, beq_iff_eq, beq_iff_eq] at hlost
    exact State.sends_of_unreachable ((s.requestPacket_vc r).trans hlost.2) hlost.1
  · exact State.inject_sends ..

theorem State.sendRequest_moves (s : State) (r : Request) : PacketsMove (s.booked r) (s.sendRequest r) :=
  (State.inject_moves _ _ _ _).trans (.on (f := fun u => u.errorTo (home r.ctx) (s.requestPacket r) 6) _
    (State.errorTo_moves _ _ _ _))

/-- The lists of the junctions when the context and the pool have taken a request. -/
theorem State.reserved_lists (s : State) (r : Request) :
    let u := s.setFlow r.ctx ((s.flow r.ctx).withRequest r)
    let v := u.setPool (home r.ctx) (u.poolFree (home r.ctx) - r.reserve)
    v.fabric.inFlight = s.fabric.inFlight ∧ v.fabric.waitReq = s.fabric.waitReq ∧ v.fabric.flows = u.fabric.flows ∧
    v.fabric.waiting = s.fabric.waiting := State.setPool_lists _ _ _

theorem State.booked_frame (s : State) (r : Request) : Only [.fabric] s (s.booked r) := by
  have hflow : Only [.fabric] s (s.setFlow r.ctx ((s.flow r.ctx).withRequest r)) :=
    State.setFlow_only (Only.refl _ s) (by decide) _ _
  unfold State.booked
  generalize s.setFlow r.ctx ((s.flow r.ctx).withRequest r) = u at hflow ⊢
  have hpool : Only [.fabric] s (u.setPool (home r.ctx) (u.poolFree (home r.ctx) - r.reserve)) :=
    State.setPool_only hflow (by decide) _ _
  exact hpool.trans (State.setFabric_frame _ _)

theorem State.booked_flow (s : State) (r : Request) : (s.booked r).flow r.ctx = (s.flow r.ctx).withRequest r :=
  (flow_of_fabric (s.reserved_lists r).2.2.1 r.ctx).trans (State.flow_setFlow ..)

theorem State.booked_waitReq (s : State) (r : Request) : (s.booked r).fabric.waitReq = s.fabric.waitReq.erase r :=
  congrArg (List.erase · r) (s.reserved_lists r).2.1

theorem State.booked_waiting (s : State) (r : Request) : (s.booked r).fabric.waiting = s.fabric.waiting :=
  (s.reserved_lists r).2.2.2

theorem State.booked_inFlight (s : State) (r : Request) : (s.booked r).fabric.inFlight = s.fabric.inFlight ++
    [{ r with seq := (s.flow r.ctx).txSeq.toNat, bytes := r.reserve, at_ := s.now }] :=
  congrArg (fun l => l ++ [({ r with seq := (s.flow r.ctx).txSeq.toNat, bytes := r.reserve, at_ := s.now } : Request)])
    (s.reserved_lists r).1

theorem State.booked_routes (s : State) (r : Request) : RoutesAs s (s.booked r) :=
  .of_only (s.booked_frame r) (by decide) (s.booked_waiting r) fun a b _ _ =>
    obj_of_only (s.booked_frame r) (by decide) a b

theorem State.renewLease_routes (s : State) (c : Nat) : RoutesAs s (s.renewLease c) :=
  .of_only (State.renewLease_only (parts := [.fabric]) (Only.refl _ s) (by decide) c) (by decide) rfl
    fun a b _ _ => State.setFlow_obj ..

/-! ### Repairs that wait for a context (R316) -/

/-- From `s` to `t` no flow context has changed, and no request has entered or left the fabric. -/
structure KeepsFlights (s t : State) : Prop where
  flows : t.fabric.flows = s.fabric.flows
  inFlight : t.fabric.inFlight = s.fabric.inFlight

namespace KeepsFlights

variable {s t u : State}

theorem refl (s : State) : KeepsFlights s s := ⟨rfl, rfl⟩

theorem trans (h : KeepsFlights s t) (k : KeepsFlights t u) : KeepsFlights s u :=
  ⟨k.flows.trans h.flows, k.inFlight.trans h.inFlight⟩

theorem of_fabric (h : t.fabric = s.fabric) : KeepsFlights s t := ⟨by rw [h], by rw [h]⟩

theorem of_moves (h : PacketsMove s t) : KeepsFlights s t := ⟨h.flows, h.inFlight⟩

theorem flow (h : KeepsFlights s t) (c : Nat) : t.flow c = s.flow c := flow_of_fabric h.flows c

end KeepsFlights

theorem State.failIssuer_flights (s : State) (r : Request) : KeepsFlights s (s.failIssuer r) :=
  .of_fabric ((s.failIssuer_frame r).2 .fabric (by decide))

theorem State.queueRequests_flights (s : State) (rs : List Request) : KeepsFlights s (s.queueRequests rs) := by
  unfold State.queueRequests
  refine each_ind (.refl s) fun t r _ h => h.trans ?_
  split
  · exact ⟨rfl, rfl⟩
  · exact t.failIssuer_flights r

theorem State.setRepair_flights (s : State) (r : Option Repair) : KeepsFlights s (s.setRepair r) := .of_fabric rfl

theorem State.askRepair_flights (s : State) : KeepsFlights s s.askRepair := by
  unfold State.askRepair
  split
  · split
    · exact .refl s
    · exact (State.setRepair_flights s _).trans (State.queueRequests_flights _ _)
  · exact .refl s

theorem State.setDict_flights (s : State) (f : Dict → Dict) : KeepsFlights s (s.setDict f) := .of_fabric rfl

theorem State.askPiece_flights (s : State) (r : Repair) (sub offset total : Nat) :
    KeepsFlights s (s.askPiece r sub offset total) :=
  (s.setDict_flights _).trans (.of_moves (State.inject_moves _ 0 _ none))

theorem State.askSpans_flights (s : State) (r : Repair) : KeepsFlights s (s.askSpans r) := by
  unfold State.askSpans
  dsimp only
  split
  · exact s.setRepair_flights _
  · exact (s.setRepair_flights _).trans (State.askPiece_flights _ _ _ _ _)

theorem State.repairFails_flights (s : State) : KeepsFlights s s.repairFails :=
  .of_fabric ((State.repairFails_only (parts := [.out, .hold, .links, .ctxs, .train, .objects, .ring, .msix, .alert])
    (Only.refl _ s) (by decide)).2 .fabric (by decide))

theorem State.dropReads_flights (s : State) : KeepsFlights s s.dropReads := ⟨rfl, rfl⟩

theorem State.sourceFails_flights (s : State) (r : Repair) : KeepsFlights s (s.sourceFails r) := by
  unfold State.sourceFails
  refine s.dropReads_flights.trans ?_
  dsimp only
  split
  · exact State.repairFails_flights _
  · split
    · exact State.askSpans_flights _ _
    · exact State.askSpans_flights _ _
    · exact (State.setRepair_flights _ _).trans (State.askRepair_flights _)

theorem State.repairMoves_flights (s : State) : KeepsFlights s s.repairMoves := by
  unfold State.repairMoves
  split
  · split
    · exact s.sourceFails_flights _
    · exact .refl s
  · exact .refl s

theorem State.repairMoves_hall (s : State) : s.repairMoves.hall = s.hall :=
  (State.repairMoves_only
    (parts := [.out, .hold, .links, .fabric, .ctxs, .movers, .train, .objects, .dict, .ring, .msix, .alert])
    (Only.refl _ s) (by decide)).2 .hall (by decide)

/-! ### A response (R110) -/

/-- A mover that goes on, with the requests of its next step unless it has failed. -/
theorem State.moverStep_flights (s : State) (m : Nat) (v : MoverSt) (failed : Bool) (rs : List Request) :
    KeepsFlights s (if failed then s.setMover m v else (s.setMover m v).queueRequests rs) := by
  have hmover : KeepsFlights s (s.setMover m v) := .of_fabric rfl
  split
  · exact hmover
  · exact hmover.trans (State.queueRequests_flights _ _)

theorem State.answerMover_flights (s : State) (m dst count : Nat) (data : List Byte) :
    KeepsFlights s (s.answerMover m dst count data) := by
  unfold State.answerMover
  generalize (s.mover m).run = run
  cases run with
  | none => exact .refl s
  | some r => exact s.moverStep_flights m _ _ _

theorem State.releaseRequest_flow (s : State) (r : Request) (st : Nat) : (s.releaseRequest r st).flow r.ctx =
    { s.flow r.ctx with
      outstanding := (s.flow r.ctx).outstanding - 1
      respReserved := (s.flow r.ctx).respReserved - BitVec.ofNat 24 r.bytes
      error := if st = 0 then (s.flow r.ctx).error else BitVec.ofNat 8 st } := by
  rw [State.releaseRequest, State.flow_setFlow]

theorem State.releaseRequest_inFlight (s : State) (r : Request) (st : Nat) :
    (s.releaseRequest r st).fabric.inFlight = s.fabric.inFlight.erase r := (State.setPool_lists _ _ _).1

/-- The request in flight that a response on a die answers. -/
def State.answered (s : State) (die : Nat) (p : Packet) : Option Request :=
  s.fabric.inFlight.find? fun r => r.ctx.val == p.dstCtx && r.seq == p.seq && home r.ctx == die

theorem exec_responseArrive_unmatched {s : State} {die : HDie} {p : Packet} (hdown : s.down = false) (hok : p.ok = true)
    (hlow : 0x21 ≤ p.op) (hhigh : p.op ≤ 0x25) (hdst : p.dst = s.moduleNumber) (hnone : s.answered die p = none) :
    exec (.responseArrive die p) s = .next (s.count 0x6000 8) := by
  rw [State.answered] at hnone
  change execResponseArrive die p s = _
  rw [execResponseArrive, act_up hdown, if_neg (by simp [hok, hlow, hhigh, hdst]), hnone]

theorem exec_responseArrive {s : State} {die : HDie} {p : Packet} {r : Request} (hdown : s.down = false)
    (hok : p.ok = true) (hlow : 0x21 ≤ p.op) (hhigh : p.op ≤ 0x25) (hdst : p.dst = s.moduleNumber)
    (hfind : s.answered die p = some r) (hclean : s.poisoned (flowTable + 128 * r.ctx.val) 128 = false)
    (hopen : (s.flow r.ctx).state = .opened) (hissuer : r.issuer ≠ .repair ∨ responseStatus p r = 0) :
    ∃ t, exec (.responseArrive die p) s = .next t ∧
      KeepsFlights ((s.fillCache r.ctx).releaseRequest r (responseStatus p r)) t := by
  rw [State.answered] at hfind
  change ∃ t, execResponseArrive die p s = .next t ∧ _
  rw [execResponseArrive, act_up hdown, if_neg (by simp [hok, hlow, hhigh, hdst]), hfind]
  dsimp only
  rw [State.useFlow_clean hclean, if_neg (by rw [(s.fillCache_fills r.ctx).flow, hopen]; decide)]
  refine ⟨_, rfl, ?_⟩
  split
  case h_1 =>
    split
    · exact State.failIssuer_flights _ _
    · exact State.answerMover_flights _ _ _ _ _
  case h_2 hrepair => rw [if_neg (by simpa using hissuer.resolve_left (by simp [hrepair]))]; exact .refl _
  case h_3 => exact .refl _

/-! ### What breaks a context (R109) -/

/-- A break of an open context, and what its repair does of it. -/
theorem State.breakFlow_repairMoves {s : State} {c : Nat} (err : Nat) (tell : Bool)
    (hopen : (s.flow c).state = .opened) :
    let t := (s.breakFlow c err tell).repairMoves
    t.flow c = (s.flow c).brokenBy err ∧ (∀ r ∈ t.fabric.inFlight, r.ctx.val ≠ c) ∧ t.hall = s.hall := by
  have hends := State.breakFlow_ends err tell hopen
  have hkeeps := (s.breakFlow c err tell).repairMoves_flights
  refine ⟨(hkeeps.flow c).trans hends.flow, ?inFlight, ?hall⟩
  case inFlight => rw [hkeeps.inFlight]; exact hends.no_inFlight
  case hall => rw [State.repairMoves_hall, (s.breakFlow_frame c err tell).2 .hall (by decide)]

theorem exec_flowBreak {s : State} {p : Packet} (hdown : s.down = false) (hop : p.op = 7) (hok : p.ok = true)
    (hdst : p.dst = s.moduleNumber) : exec (.flowBreak p) s = .next (s.breakFlow p.dstCtx 0xA false).repairMoves := by
  change execFlowBreak p s = _
  rw [execFlowBreak, act_up hdown, if_neg (by simp [hop, hok, hdst])]

theorem exec_leaseLapse {s : State} {c : FlowId} (hdown : s.down = false) (hopen : (s.flow c).state = .opened) :
    exec (.leaseLapse c) s =
      .next ((s.reach (1000 * (s.flow c).leaseEnd.toNat)).breakFlow c 9 true).repairMoves := by
  change execLeaseLapse c s = _
  rw [execLeaseLapse, act_up hdown]
  dsimp only
  rw [if_neg (by simp [hopen])]

theorem exec_respTimeoutExpire {s : State} {c : FlowId} {seq : BitVec 32} {r : Request} (hdown : s.down = false)
    (hfind : (s.fabric.inFlight.find? fun r => r.ctx == c && r.seq == seq.toNat) = some r) :
    exec (.respTimeoutExpire c seq) s =
      .next ((s.reach (r.at_ + 1000 * s.respTimeout c)).breakFlow c 0xB true).repairMoves := by
  change execRespTimeoutExpire c seq s = _
  rw [execRespTimeoutExpire, act_up hdown, hfind]

/-! ### The statement, clause by clause -/

/-- A free slot of a link whose only packet is the one it sends. -/
theorem freeSlotSend_spec {s : State} {link : Link} {credits : List Nat} {q : Queued} {r : Nat} (hdown : s.down = false)
    (hup : s.linkUp link = true) (hnone : s.fabric.waiting = []) (hqueue : (s.link link).queue = [])
    (hsending : (s.link link).sending = some (q, r)) :
    ∃ t, exec (.freeSlotSend link credits) s = .next t ∧
      (t.link link).credits = (List.range 5).map (fun i =>
        min (fullCredits.getD i 0) ((s.link link).credits.getD i 0 + credits.getD i 0)) ∧
      (r ≤ s.slotFlits link → t.out = .packet link q.p :: .credits link (s.link link).owed :: s.out ∧
        (t.link link).sending = none) ∧
      (s.slotFlits link < r → t.out = .credits link (s.link link).owed :: s.out ∧
        (t.link link).sending = some (q, r - s.slotFlits link) ∧ (t.link link).owed = [0, 0, 0, 0, 0]) := by
  refine ⟨_, exec_freeSlotSend hdown hup hnone, ?_⟩
  have hlink := s.exchangeCredits_link link credits
  have hout := s.exchangeCredits_out link credits
  generalize s.exchangeCredits link credits = u at hlink hout ⊢
  have husing : (u.link link).sending = some (q, r) := by rw [hlink]; exact hsending
  by_cases hlast : r ≤ s.slotFlits link
  · obtain ⟨o, ho⟩ := u.sent_link link q
    rw [State.sendFlits_last 15 none husing hlast,
      State.sendFlits_idle _ _ _ (by rw [ho]) (by rw [ho, hlink]; exact hqueue)]
    refine ⟨by rw [ho, hlink], fun _ => ⟨by rw [State.sent_out, hout], by rw [ho]⟩, fun hmore => ?_⟩
    exact absurd hmore (by omega)
  · have hmore : s.slotFlits link < r := by omega
    rw [State.sendFlits_part 15 none husing hmore]
    refine ⟨?credits, fun h => absurd h hlast, fun _ => ⟨by rw [State.setLink_out, hout], ?sending, ?owed⟩⟩
    all_goals rw [State.link_setLink, hlink]

/-- A packet that arrives and has a hop joins the queue of its link, its credit taken where `paid` says so. -/
theorem State.forward_queue {s : State} {die port l : Nat} {p : Packet} {paid : Bool} (hok : p.ok = true)
    (hroom : s.portRoom die port p = true) (hhop : s.hopOf (s.arrived die port p) = .link l)
    (hdie : l / 32 = die ∨ s.portRoom (l / 32) 34 p = true) (hpaid : (p.vc == 2 || p.vc == 3) = paid) :
    ((s.forward die port p).link l).queue = (s.link l).queue ++
      [⟨if l / 32 = die then port else 34, false, false, paid, some p.vc, p.hopped p.vc false⟩] := by
  rw [State.forward_routes hok hroom, State.route_link hhop rfl hdie, ← hpaid]
  rfl

/-- A packet that arrives is malformed, or is for this module, or joins the queue of its hop. -/
theorem packetForward_spec {s : State} {die : HDie} {port : Fin 35} {p : Packet} (hdown : s.down = false)
    (hother : portLink die port = none ∨ holdIn p = none) :
    ∃ t, exec (.packetForward die port p) s = .next t ∧
      (p.ok = false → t.obj 0x6000 7 = (s.obj 0x6000 7 + 1) % 2 ^ 32) ∧
      (p.ok = true → s.portRoom die port p = true →
        (p.dst = s.moduleNumber → p.op ≠ 6 → t.out = .deliver p :: s.out) ∧
        (p.dst = s.moduleNumber → p.op = 6 → s.fabric.vc0Ring.length < 256 →
          t.fabric.vc0Ring = s.fabric.vc0Ring ++ [p]) ∧
        (∀ l, p.dst ≠ s.moduleNumber → s.noTransit = false ∨ p.vc = 0 → p.vc ≠ 2 → p.vc ≠ 3 →
          s.orderedHop p.dst p.seq (portLink die port) = .link l → l / 32 = die.val ∨ s.portRoom (l / 32) 34 p = true →
          (t.link l).queue = (s.link l).queue ++
            [⟨if l / 32 = die.val then port else 34, false, false, false, some p.vc, p.hopped p.vc false⟩]) ∧
        (∀ l, p.dst ≠ s.moduleNumber → s.noTransit = false → p.vc = 2 ∨ p.vc = 3 →
          s.adaptiveHop p.dst p.vc p.flits = .link l → l / 32 = die.val ∨ s.portRoom (l / 32) 34 p = true →
          (t.link l).queue = (s.link l).queue ++
            [⟨if l / 32 = die.val then port else 34, false, false, true, some p.vc, p.hopped p.vc false⟩])) := by
  refine ⟨_, exec_packetForward hdown hother, fun hbad => State.forward_malformed hbad, fun hok hroom => ?_⟩
  have hhere : p.dst = s.moduleNumber →
      s.forward die port p = (s.freed (s.arrived die port p)).deliver p := fun hdst =>
    (State.forward_routes hok hroom).trans (State.route_here hdst)
  refine ⟨fun hdst hop => ?deliver, fun hdst hop hring => ?mgmt, fun l hdst htransit h2 h3 hhop hdie => ?ordered,
    fun l hdst htransit hvc hhop hdie => ?adaptive⟩
  case deliver => rw [hhere hdst, State.deliver_out hop, State.freed_out]
  case mgmt =>
    have hfabric : (s.freed (s.arrived die port p)).fabric = s.fabric := (s.freed_frame _).2 .fabric (by decide)
    rw [hhere hdst, State.deliver_mgmt hop (by rwa [hfabric]), hfabric]
  case ordered =>
    exact State.forward_queue hok hroom ((State.hopOf_arrived_ordered hdst htransit h2 h3).trans hhop) hdie
      (by simp [h2, h3])
  case adaptive =>
    exact State.forward_queue hok hroom ((State.hopOf_arrived_adaptive hdst htransit hvc).trans hhop) hdie
      (by simpa using hvc)

/-- A packet whose hop is a link of its own H-die moves to its queue, and nothing else changes. -/
theorem State.route_own_frame {s : State} {w : Waiting} {answer : State → Packet → State} {l : Nat}
    (hhop : s.hopOf w = .link l) (hdie : l / 32 = w.die) : Only [.links] s (s.route w answer) := by
  rw [State.route, hhop]
  dsimp only
  rw [if_pos hdie]
  exact State.enqueue_only (Only.refl _ s) (by decide) _ _

/-- A packet that has waited joins the queue of its ordered hop, on VC4. -/
theorem escapeWaitExpire_spec {s : State} {p : Packet} {w : Waiting} {l : Nat} (hdown : s.down = false)
    (hfind : (s.fabric.waiting.find? fun w => w.p == p && (p.vc == 2 || p.vc == 3) && w.buffered && !w.escaping) =
      some w) (hdst : p.dst ≠ s.moduleNumber) (hhop : s.orderedHop p.dst p.seq (portLink w.die w.port) = .link l)
    (hdie : l / 32 = w.die) (hcredit : p.flits ≤ (s.link l).credits.getD 4 0) :
    ∃ t, exec (.escapeWaitExpire p) s = .next t ∧ t.hall = max s.hall (64 * (w.since + s.obj 0x6000 4)) ∧
      (t.link l).queue = (s.link l).queue ++ [⟨w.port, w.own, false, true, some p.vc, p.hopped 4 true⟩] ∧
      t.fabric.waiting = s.fabric.waiting.erase w := by
  obtain ⟨rfl, hbuffered⟩ : w.p = p ∧ w.buffered = true := by
    have hw := List.find?_some hfind
    simp only [Bool.and_eq_true, beq_iff_eq] at hw
    exact ⟨hw.1.1.1, hw.1.2⟩
  have hescapes : (s.escapes w).hopOf { w with escaping := true } = .link l := by
    refine State.hopOf_escaping ?module ?hop ?credit
    case module => exact fun h => hdst (h.trans (s.reach_obj _ 0x6000 2))
    case hop => exact (s.reach_orderedHop _ _ _ _).trans hhop
    case credit =>
      exact le_of_le_of_eq hcredit (congrArg (fun v : LinkSt => v.credits.getD 4 0) (s.reach_link _ l).symm)
  refine ⟨_, exec_escapeWaitExpire hdown hfind, ?hall, ?queue, ?waiting⟩
  case hall => rw [(State.route_own_frame hescapes hdie).2 .hall (by decide)]; exact s.reach_hall' _
  case queue =>
    rw [State.route_link hescapes hbuffered (.inl hdie)]
    have hlink : (s.escapes w).link l = s.link l := s.reach_link _ l
    simp [hlink, hdie]
  case waiting =>
    rw [(State.route_own_frame hescapes hdie).2 .fabric (by decide)]
    exact congrArg (fun f : Fabric => f.waiting.erase w) (s.reach_fabric _)

/-- A request that may issue is booked and sent. -/
theorem requestIssue_spec {s : State} {die : HDie} {r : Request} (hdown : s.down = false)
    (hnext : s.nextRequest die [] s.fabric.waitReq = some r)
    (hclean : s.poisoned (flowTable + 128 * r.ctx.val) 128 = false) :
    let f := s.flow r.ctx
    ∃ t, exec (.requestIssue die) s = .next t ∧ t.fabric.waitReq = s.fabric.waitReq.erase r ∧
      (t.flow r.ctx).txSeq = f.txSeq + 1 ∧ (t.flow r.ctx).outstanding = f.outstanding + 1 ∧
      t.fabric.inFlight = s.fabric.inFlight ++ [{ r with seq := f.txSeq.toNat, bytes := r.reserve, at_ := s.now }] ∧
      s.Sends t die (s.requestPacket r) r.unit := by
  obtain ⟨hhome, hissuable⟩ := State.nextRequest_issuable hnext
  have hfills := s.fillCache_fills r.ctx
  have hopen : ((s.fillCache r.ctx).flow r.ctx).state = .opened := by
    rw [hfills.flow]; exact State.opened_of_issuable hissuable
  generalize hu : (s.fillCache r.ctx).renewLease r.ctx = u
  have hissue : s.issueRequest r = u.sendRequest r := by
    rw [State.issueRequest_eq, State.useFlow_clean hclean, if_neg (by simp [hopen]), hu]
  have hroutes : RoutesAs s u := hu ▸ hfills.routes.trans (State.renewLease_routes _ _)
  have hpacket : u.requestPacket r = s.requestPacket r := by
    rw [← hu, State.requestPacket_renewLease, hfills.requestPacket]
  have hlists : u.fabric.waitReq = s.fabric.waitReq ∧ u.fabric.inFlight = s.fabric.inFlight := by
    rw [← hu, State.renewLease_fabric, hfills.fabric]; exact ⟨rfl, rfl⟩
  have hflow : (u.flow r.ctx).txSeq = (s.flow r.ctx).txSeq ∧
      (u.flow r.ctx).outstanding = (s.flow r.ctx).outstanding := by
    rw [← hu, State.renewLease_flow, hfills.flow]; exact ⟨rfl, rfl⟩
  have hnow : u.now = s.now := by
    rw [State.now, State.now, ← hu]; exact congrArg (· / 64) (hfills.frame.2 .hall (by decide))
  have hmoves := u.sendRequest_moves r
  refine ⟨u.sendRequest r, ?run, ?waitReq, ?txSeq, ?outstanding, ?inFlight, ?sends⟩
  case run =>
    change execRequestIssue die s = _
    rw [execRequestIssue, act_up hdown, hnext]
    exact congrArg Host.Outcome.next hissue
  case waitReq => rw [hmoves.waitReq, State.booked_waitReq, hlists.1]
  case txSeq => rw [hmoves.flow, State.booked_flow]; exact congrArg (· + 1) hflow.1
  case outstanding => rw [hmoves.flow, State.booked_flow]; exact congrArg (· + 1) hflow.2
  case inFlight => rw [hmoves.inFlight, State.booked_inFlight, hlists.2, hflow.1, hnow]
  case sends =>
    rw [← hhome, ← hpacket]
    exact (hroutes.trans (u.booked_routes r)).sends (u.sendRequest_sends r)

/-- Settles O25, from what each command of the fabric does of the state. -/
theorem packetsAndFlows : Obligations.PacketsAndFlows := by
  intro s hdown
  refine ⟨fun link credits q r => freeSlotSend_spec hdown,
    fun die port p => ⟨fun l => exec_packetForward_hold hdown, fun l => exec_packetForward_resume hdown,
      packetForward_spec hdown⟩,
    fun p w l => escapeWaitExpire_spec hdown, fun die r hnext hclean => ?issue,
    fun die p hok hlow hhigh hdst => ⟨fun r hfind hclean hopen hissuer => ?answered, fun hnone => ?unmatched⟩,
    fun p hop hok hdst hopen => ?peer, fun c hopen => ?lease, fun c seq r hfind hopen => ?timeout⟩
  case issue =>
    obtain ⟨t, hexec, hwaitReq, htxSeq, houtstanding, hinFlight, hsends⟩ := requestIssue_spec hdown hnext hclean
    refine ⟨t, hexec, hwaitReq, htxSeq, houtstanding, hinFlight, ?_⟩
    unfold Request.unit at hsends
    cases hissuer : r.issuer <;> rw [hissuer] at hsends <;> exact hsends
  case answered =>
    obtain ⟨t, hexec, hkeeps⟩ := exec_responseArrive hdown hok hlow hhigh hdst hfind hclean hopen hissuer
    have hfills := s.fillCache_fills r.ctx
    refine ⟨t, hexec, ?_, ?_⟩
    · rw [hkeeps.inFlight, State.releaseRequest_inFlight, hfills.fabric]
    · rw [hkeeps.flow, State.releaseRequest_flow, hfills.flow]
  case unmatched =>
    exact ⟨_, exec_responseArrive_unmatched hdown hok hlow hhigh hdst hnone, (State.obj_count ..).trans (if_pos rfl),
      State.count_fabric ..⟩
  case peer =>
    obtain ⟨hflow, hgone, -⟩ := State.breakFlow_repairMoves 0xA false hopen
    exact ⟨_, exec_flowBreak hdown hop hok hdst, congrArg Flow.state hflow, congrArg Flow.error hflow, hgone⟩
  case lease =>
    obtain ⟨hflow, -, hhall⟩ := State.breakFlow_repairMoves (s := s.reach (1000 * (s.flow c).leaseEnd.toNat)) 9 true
      ((congrArg Flow.state (s.reach_flow _ c)).trans hopen)
    exact ⟨_, exec_leaseLapse hdown hopen, congrArg Flow.state hflow, congrArg Flow.error hflow,
      hhall.trans (s.reach_hall' _)⟩
  case timeout =>
    obtain ⟨hflow, -, hhall⟩ := State.breakFlow_repairMoves (s := s.reach (r.at_ + 1000 * s.respTimeout c)) 0xB true
      ((congrArg Flow.state (s.reach_flow _ c)).trans hopen)
    exact ⟨_, exec_respTimeoutExpire hdown hfind, congrArg Flow.state hflow, congrArg Flow.error hflow,
      hhall.trans (s.reach_hall' _)⟩

end Sys2Proof.Machine

/-!
Remote operations at their target (O26): what a request that the checks of R111 and R112 let through finds, and its
answer.
-/
namespace Sys2Proof.Machine

/-! ### The checks at the target (R111, R112) -/

/-- A context after a request that it takes: an ordered one expects the next SEQ. -/
def Flow.taken (f : Flow) : Flow := { f with rxNext := if f.ordered then f.rxNext + 1 else f.rxNext }

/-- The state in which the operation of a request runs. -/
def State.checked (s : State) (p : Packet) : State :=
  (s.fillCache p.dstCtx).on (s.flow p.dstCtx).ordered (·.setFlow p.dstCtx (s.flow p.dstCtx).taken)

theorem State.checked_flow (s : State) (p : Packet) : (s.checked p).flow p.dstCtx = (s.flow p.dstCtx).taken := by
  unfold State.checked State.on
  split
  · exact State.flow_setFlow ..
  · next hfree => rw [(s.fillCache_fills p.dstCtx).flow, Flow.taken, if_neg hfree]

theorem State.setFlow_routes (s : State) (c : Nat) (f : Flow) : RoutesAs s (s.setFlow c f) :=
  .of_only (State.setFlow_only (parts := [.fabric]) (Only.refl _ s) (by decide) c f) (by decide) rfl
    fun a b _ _ => State.setFlow_obj ..

theorem State.checked_frame (s : State) (p : Packet) : Only [.fabric, .objects, .ring] s (s.checked p) := by
  have hfills := (s.fillCache_fills p.dstCtx).frame
  unfold State.checked State.on
  split
  · exact State.setFlow_only hfills (by decide) _ _
  · exact hfills

theorem State.checked_routes (s : State) (p : Packet) : RoutesAs s (s.checked p) := by
  have hfills := (s.fillCache_fills p.dstCtx).routes
  unfold State.checked State.on
  split
  · exact hfills.trans (State.setFlow_routes _ _ _)
  · exact hfills

theorem State.checked_storeKeys (s : State) (p : Packet) {core : Nat} (hcore : core < 256) :
    (s.checked p).obj 0x4042 core = s.obj 0x4042 core := by
  have hfills := (s.fillCache_fills p.dstCtx).objects 0x4042 core (by simp [okey]; omega)
  unfold State.checked State.on
  split
  · rw [State.setFlow_obj, hfills]
  · exact hfills

theorem State.target_reaches {s : State} {p : Packet} {op : Nat} (run : State → State) (h : s.Reaches p op) :
    s.target p op run =
      if p.key ≠ (s.flow p.dstCtx).stageKey then (s.checked p).errorTo (home p.dstCtx) p 1
      else run (s.checked p) := by
  obtain ⟨hop, hok, hdst, hclean, hopen, hpeer, hcontext, horder⟩ := h
  rw [State.target, if_neg (by simp [hop, hok, hdst])]
  dsimp only
  rw [State.useFlow_clean hclean, (s.fillCache_fills p.dstCtx).flow, if_neg (by simp [hopen, hpeer, hcontext]),
    if_neg (by simpa using horder)]
  have htaken : (s.fillCache p.dstCtx).on (s.flow p.dstCtx).ordered (·.setFlow p.dstCtx
      { s.flow p.dstCtx with rxNext := (s.flow p.dstCtx).rxNext + 1 }) = s.checked p := by
    unfold State.checked State.on
    split
    · next hordered => rw [Flow.taken, if_pos hordered]
    · rfl
  rw [htaken]

theorem State.target_accepts {s : State} {p : Packet} {op : Nat} (run : State → State) (h : s.Accepts p op) :
    s.target p op run = run (s.checked p) := by
  rw [State.target_reaches run h.1, if_neg (by simp [h.2])]

theorem State.target_refuses {s : State} {p : Packet} {op : Nat} (run : State → State) (h : s.Reaches p op)
    (hkey : p.key ≠ (s.flow p.dstCtx).stageKey) :
    s.target p op run = (s.checked p).errorTo (home p.dstCtx) p 1 := by
  rw [State.target_reaches run h, if_pos hkey]

theorem visible_of_only {s t : State} {ps : List Part} (h : Only ps s t) (hp : Part.spans ∉ ps) (a n : Nat) :
    t.visible a n = s.visible a n := by
  have hspan : ∀ d, t.spanBytes d = s.spanBytes d := fun d => by
    rw [State.spanBytes, h.2 .spans hp, State.spanBytes]
  simp only [State.visible, State.touchesSpan, hspan]

theorem granted_of_only {s t : State} {ps : List Part} (h : Only ps s t) (hp : Part.regions ∉ ps) (key : BitVec 8)
    (write : Bool) (a n : Nat) : t.granted key write a n = s.granted key write a n := by
  have hregions : t.regions = s.regions := h.2 .regions hp
  simp only [State.granted, State.grantsByte, hregions]

theorem State.checked_targetCheck (s : State) (p : Packet) (write : Bool) (n : Nat) :
    (s.checked p).targetCheck p write n = s.targetCheck p write n := by
  have hframe := s.checked_frame p
  have hkeys : (s.checked p).storeKeyOk (fld p.addr 40 33) p.key = s.storeKeyOk (fld p.addr 40 33) p.key := by
    rw [State.storeKeyOk, s.checked_storeKeys p (core := fld p.addr 40 33) (Nat.mod_lt _ (Nat.two_pow_pos _)),
      State.storeKeyOk]
  rw [State.targetCheck, visible_of_only hframe (by decide), granted_of_only hframe (by decide), hkeys,
    State.targetCheck]

theorem State.targetRead_congr {s t : State} (hmem : t.mem = s.mem) (hstores : t.stores = s.stores) (p : Packet)
    (n : Nat) : t.targetRead p n = s.targetRead p n := by
  rw [State.targetRead, State.read, State.storeRead, hmem, hstores]
  rfl

theorem State.checked_targetRead (s : State) (p : Packet) (n : Nat) :
    (s.checked p).targetRead p n = s.targetRead p n :=
  State.targetRead_congr ((s.checked_frame p).2 .mem (by decide)) ((s.checked_frame p).2 .stores (by decide)) p n

theorem State.checked_poisoned {s : State} (p : Packet) (hnone : s.poison = []) (a n : Nat) :
    (s.checked p).poisoned a n = false :=
  State.poisoned_of_none (((s.checked_frame p).2 .poison (by decide)).trans hnone) a n

theorem State.targetRead_length (s : State) (p : Packet) (n : Nat) : (s.targetRead p n).length = n := by
  unfold State.targetRead
  split <;> exact Memory.read_length

/-- What a request writes at its target is what it reads there. -/
theorem State.targetRead_targetWrite (s : State) (p : Packet) (bs : List Byte) :
    (s.targetWrite p bs).targetRead p bs.length = bs := by
  unfold State.targetWrite State.targetRead
  dsimp only
  by_cases hkind : p.addrKind = 0
  · simp only [if_pos hkind]
    exact Memory.read_write_same
  · simp only [if_neg hkind]
    unfold State.storeWriteRaw
    dsimp only
    split <;> exact Memory.read_write_same

/-! ### The answer (R110, R114) -/

/-- The answer to a request, under the key of its context. -/
def State.answer (s : State) (p : Packet) (op length operand status : Nat) (data : List Byte) : Packet :=
  ⟨packetHeader op 1 s.moduleNumber p.src p.srcCtx p.dstCtx p.seq (s.flow p.dstCtx).stageKey.toNat 0 0 length 0 0
    operand 0 status, data⟩

theorem State.respond_sends {s u : State} {p : Packet} (op status operand : Nat) (data : List Byte) (h : RoutesAs s u)
    (hkey : (u.flow p.dstCtx).stageKey = (s.flow p.dstCtx).stageKey) :
    s.Sends (u.respond p op status operand data) (home p.dstCtx) (s.answer p op data.length operand status data)
      (cdieOf p) := by
  have hanswer : u.answer p op data.length operand status data = s.answer p op data.length operand status data := by
    rw [State.answer, h.moduleNumber, hkey, State.answer]
  rw [← hanswer]
  exact h.sends (u.inject_sends _ _ _)

theorem State.respond_moves (s : State) (p : Packet) (op status operand : Nat) (data : List Byte) :
    PacketsMove s (s.respond p op status operand data) := s.inject_moves ..

theorem State.respond_frame (s : State) (p : Packet) (op status operand : Nat) (data : List Byte) :
    Only [.out, .links, .fabric, .objects, .ring] s (s.respond p op status operand data) :=
  State.respond_only (Only.refl _ s) (by decide) p op status operand data

/-- A request with another key is answered with status 0x01. -/
theorem State.errorTo_sends {s u : State} {p : Packet} (status : Nat) (h : RoutesAs s u) (hdst : p.dst = s.moduleNumber)
    (hkey : (u.flow p.dstCtx).stageKey = (s.flow p.dstCtx).stageKey) :
    s.Sends (u.errorTo (home p.dstCtx) p status) (home p.dstCtx) (s.answer p 0x25 0 0 status []) (cdieOf p) := by
  have herror : u.errorFor p status = s.answer p 0x25 0 0 status [] := by
    rw [State.errorFor, if_pos (hdst.trans h.moduleNumber.symm), h.moduleNumber, hkey, State.answer]
  rw [← herror]
  exact h.sends (u.inject_sends _ _ _)

theorem State.targetWrite_frame (s : State) (p : Packet) (bs : List Byte) :
    Only [.mem, .poison, .stores, .maps] s (s.targetWrite p bs) :=
  State.targetWrite_only (Only.refl _ s) (by decide) p bs

/-- Routing looks at no byte of memory and of the stores. -/
theorem RoutesAs.of_bytes {s t : State} (h : Only [.mem, .poison, .stores, .maps] s t) : RoutesAs s t :=
  .of_only h (by decide) (congrArg Fabric.waiting (h.2 .fabric (by decide))) fun a b _ _ =>
    obj_of_only h (by decide) a b

theorem State.checked_key (s : State) (p : Packet) :
    ((s.checked p).flow p.dstCtx).stageKey = (s.flow p.dstCtx).stageKey := by rw [State.checked_flow]; rfl

/-- A request that writes `bs` at its target, and is answered. -/
theorem State.written_answered (s : State) (p : Packet) (bs : List Byte) (op operand : Nat) :
    let t := ((s.checked p).targetWrite p bs).respond p op 0 operand []
    s.Sends t (home p.dstCtx) (s.answer p op 0 operand 0 []) (cdieOf p) ∧ t.targetRead p bs.length = bs ∧
      t.flow p.dstCtx = (s.flow p.dstCtx).taken := by
  intro t
  have hwrite := (s.checked p).targetWrite_frame p bs
  have hflow : ((s.checked p).targetWrite p bs).flow p.dstCtx = (s.flow p.dstCtx).taken := by
    rw [← State.checked_flow]; exact flow_of_fabric (congrArg Fabric.flows (hwrite.2 .fabric (by decide))) _
  have hanswer := State.respond_frame ((s.checked p).targetWrite p bs) p op 0 operand []
  refine ⟨?sends, ?reads, ?flow⟩
  case sends =>
    exact State.respond_sends op 0 operand [] ((s.checked_routes p).trans (.of_bytes hwrite)) (by rw [hflow]; rfl)
  case reads =>
    exact (State.targetRead_congr (hanswer.2 .mem (by decide)) (hanswer.2 .stores (by decide)) p _).trans
      (State.targetRead_targetWrite _ p bs)
  case flow => exact ((State.respond_moves _ p op 0 operand []).flow _).trans hflow

/-! ### READ, WRITE and ATOMIC -/

theorem exec_memRead {s : State} {p : Packet} (hdown : s.down = false) (haccepts : s.Accepts p 1)
    (hlength : p.length ≤ 4096) (hcheck : s.targetCheck p false p.length = none) (hclean : s.poison = []) :
    exec (.memRead p) s = .next ((s.checked p).respond p 0x21 0 0 (s.targetRead p p.length)) := by
  change execMemRead p s = _
  rw [execMemRead, act_up hdown, State.target_accepts _ haccepts]
  dsimp only
  rw [if_neg (Nat.not_lt.mpr hlength), State.checked_targetCheck, hcheck]
  dsimp only
  rw [if_neg (by simp [State.checked_poisoned p hclean]), State.checked_targetRead]

theorem State.serveWrite_accepts {s : State} {p : Packet} (haccepts : s.Accepts p 2)
    (hcheck : s.targetCheck p true p.length = none) :
    s.serveWrite p = ((s.checked p).targetWrite p p.data).respond p 0x22 0 0 [] := by
  rw [State.serveWrite, State.target_accepts _ haccepts, State.checked_targetCheck, hcheck]

theorem exec_memWrite {s : State} {p : Packet} (hdown : s.down = false)
    (hrope : (s.serveWrite p).rope.unanswered = false) : exec (.memWrite p) s = .next (s.serveWrite p) := by
  change execMemWrite p s = _
  rw [execMemWrite, act_up hdown]
  dsimp only
  rw [if_neg (by simp [hrope])]

theorem exec_memAtomic {s : State} {p : Packet} {n v : Nat} (hdown : s.down = false) (haccepts : s.Accepts p 3)
    (hclean : s.poison = []) (hn : n = if p.atomicSize = 2 then 4 else 8) (hsize : 2 ≤ p.atomicSize)
    (hread : s.targetCheck p false n = none) (hwrite : s.targetCheck p true n = none) (haligned : p.addr % n = 0)
    (hfn : atomicFn p.atomicOp (8 * n) (leNat (s.targetRead p n)) p.operand0 p.operand1 = some v) :
    exec (.memAtomic p) s =
      .next (((s.checked p).targetWrite p (leBytes n v)).respond p 0x23 0 (leNat (s.targetRead p n)) []) := by
  change execMemAtomic p s = _
  rw [execMemAtomic, act_up hdown, State.target_accepts _ haccepts]
  dsimp only
  rw [if_neg (Nat.not_lt.mpr hsize), ← hn, State.checked_targetCheck, State.checked_targetCheck, hread, hwrite]
  dsimp only [Option.orElse]
  rw [if_neg (by simp [haligned]), if_neg (by simp [State.checked_poisoned p hclean]), State.checked_targetRead, hfn]

/-! ### MESSAGE (R113) -/

/-- The header of an entry of a ring. -/
def messageHead (p : Packet) : List Byte :=
  leBytes 2 p.length ++ leBytes 2 p.src ++ leBytes 4 p.srcCtx ++ leBytes 4 p.seq ++ leBytes 4 0

theorem messageHead_length (p : Packet) : (messageHead p).length = 16 := by
  simp [messageHead, leBytes_length]

/-- An entry of a ring: the message behind its header, up to the entry's end. -/
def messageEntry (p : Packet) : List Byte :=
  messageHead p ++ p.data ++
    List.replicate (roundUp (16 + p.length) 64 - (messageHead p ++ p.data).length) 0

/-- The bytes of an entry lie in the ring at `pos`, and its next one begins behind it. -/
def State.entered (s : State) (p : Packet) (pos : Nat) : State :=
  let f := s.flow p.dstCtx
  (s.write (f.ringBase.toNat + pos) (messageEntry p)).setFlow p.dstCtx
    { f with ringTail := BitVec.ofNat 24 ((pos + roundUp (16 + p.length) 64) % 2 ^ f.ringLog2.toNat) }

theorem State.notify_none {s : State} {f : Flow} (hnone : f.notifyMode = 0) : s.notify f = s := by
  rw [State.notify, hnone]
  rfl

/-- A message that fits goes behind the last entry of the ring. -/
theorem exec_memMessage {s : State} {p : Packet} {f : Flow} (hdown : s.down = false) (haccepts : s.Accepts p 4)
    (hlength : p.length ≤ 4096) (hflow : (s.checked p).flow p.dstCtx = f) (hring : f.ringLog2 ≠ 0)
    (hnotify : f.notifyMode = 0) (hvisible : (s.checked p).visible f.ringBase.toNat (2 ^ f.ringLog2.toNat) = true)
    (hfits : f.ringTail.toNat % 2 ^ f.ringLog2.toNat + roundUp (16 + p.length) 64 ≤ 2 ^ f.ringLog2.toNat)
    (hroom : (f.ringTail.toNat + 2 ^ f.ringLog2.toNat - f.ringHead.toNat % 2 ^ f.ringLog2.toNat) %
      2 ^ f.ringLog2.toNat + roundUp (16 + p.length) 64 < 2 ^ f.ringLog2.toNat) :
    exec (.memMessage p) s = .next
      (((s.checked p).entered p (f.ringTail.toNat % 2 ^ f.ringLog2.toNat)).respond p 0x24 0 0 []) := by
  change execMemMessage p s = _
  rw [execMemMessage, act_up hdown, State.target_accepts _ haccepts]
  generalize s.checked p = u at hflow hvisible ⊢
  dsimp only
  rw [hflow]
  simp only [if_neg (Nat.not_lt.mpr hfits)]
  rw [if_neg (Nat.not_lt.mpr hlength), if_neg (by simp [hvisible]),
    if_neg (by rw [not_or, Nat.add_zero, Nat.not_le]; exact ⟨hring, hroom⟩), State.notify_none hnotify]
  simp only [if_true, State.on, bne_self_eq_false, Bool.false_eq_true, if_false, State.entered, State.write_flow, hflow]
  rfl

theorem Memory.read_write_append (m : Memory) (a : Nat) (bs cs : List Byte) :
    Memory.read (Memory.write m a (bs ++ cs)) a bs.length = bs := by
  have hwhole : Memory.read (Memory.write m a (bs ++ cs)) a (bs.length + cs.length) = bs ++ cs := by
    rw [← List.length_append]; exact Memory.read_write_same
  rw [Memory.read_append] at hwhole
  exact (List.append_inj hwhole Memory.read_length).1

theorem State.entered_read {s : State} {p : Packet} (pos : Nat) (hdata : p.data.length = p.length) :
    (s.entered p pos).read ((s.flow p.dstCtx).ringBase.toNat + pos) (16 + p.length) = messageHead p ++ p.data := by
  have hlength : 16 + p.length = (messageHead p ++ p.data).length := by
    rw [List.length_append, messageHead_length, hdata]
  rw [hlength]
  exact Memory.read_write_append ..

theorem State.entered_flow (s : State) (p : Packet) (pos : Nat) : (s.entered p pos).flow p.dstCtx =
    { s.flow p.dstCtx with
      ringTail := BitVec.ofNat 24 ((pos + roundUp (16 + p.length) 64) % 2 ^ (s.flow p.dstCtx).ringLog2.toNat) } :=
  State.flow_setFlow ..

theorem State.entered_routes (s : State) (p : Packet) (pos : Nat) : RoutesAs s (s.entered p pos) :=
  (RoutesAs.of_bytes (State.write_only (Only.refl _ s) (by decide) _ _)).trans (State.setFlow_routes _ _ _)

theorem Packet.data_length {p : Packet} (hok : p.ok = true) (hop : p.op ≠ 1) : p.data.length = p.length := by
  simp only [Packet.ok, Bool.and_eq_true, decide_eq_true_eq] at hok
  rw [hok.2, Packet.dataLength, if_neg hop]

/-! ### Another key (R111) -/

/-- A request under another key than its context's is answered, and changes no byte. -/
theorem exec_wrongKey {s : State} {p : Packet} {c : Instr} (hdown : s.down = false)
    (hkind : (p.op = 1 ∧ c = .memRead p) ∨ (p.op = 2 ∧ c = .memWrite p) ∨ (p.op = 3 ∧ c = .memAtomic p) ∨
      (p.op = 4 ∧ c = .memMessage p))
    (hreaches : s.Reaches p p.op) (hkey : p.key ≠ (s.flow p.dstCtx).stageKey) (hrope : s.rope.unanswered = false) :
    exec c s = .next ((s.checked p).errorTo (home p.dstCtx) p 1) := by
  have hrefused : ∀ {op : Nat} (run : State → State), p.op = op →
      s.target p op run = (s.checked p).errorTo (home p.dstCtx) p 1 := fun run hop =>
    State.target_refuses run (hop ▸ hreaches) hkey
  have hacts : ∀ {op : Nat} (run : State → State), p.op = op →
      act s (·.target p op run) = .next ((s.checked p).errorTo (home p.dstCtx) p 1) := fun run hop =>
    (act_up hdown _).trans (congrArg Host.Outcome.next (hrefused run hop))
  rcases hkind with ⟨hop, rfl⟩ | ⟨hop, rfl⟩ | ⟨hop, rfl⟩ | ⟨hop, rfl⟩
  · exact hacts _ hop
  · have hserved : s.serveWrite p = (s.checked p).errorTo (home p.dstCtx) p 1 := hrefused _ hop
    have hframe : Only [.out, .links, .fabric, .objects, .ring] s (s.serveWrite p) := by
      rw [hserved]
      exact State.errorTo_only ((s.checked_frame p).mono (by decide)) (by decide) _ _ _
    rw [exec_memWrite hdown ((congrArg Rope.unanswered (hframe.2 .rope (by decide))).trans hrope), hserved]
  · exact hacts _ hop
  · exact hacts _ hop

/-- Settles O26, from what each operation does in the state that the checks leave. -/
theorem remoteOperations : Obligations.RemoteOperations := by
  intro s p hdown die f answer
  refine ⟨fun haccepts hlength hcheck hclean => ?read, fun haccepts hcheck hrope => ?write,
    fun v haccepts hclean => ?atomic, fun haccepts hlength hring hnotify => ?message,
    fun c hkind hreaches hkey hrope => ?wrongKey⟩
  case read =>
    refine ⟨_, exec_memRead hdown haccepts hlength hcheck hclean, ?sends, ?mem, ?stores, ?flow⟩
    case sends =>
      have hsends := State.respond_sends 0x21 0 0 (s.targetRead p p.length) (s.checked_routes p) (s.checked_key p)
      rwa [State.targetRead_length] at hsends
    case mem => rw [(State.respond_frame ..).2 .mem (by decide), (s.checked_frame p).2 .mem (by decide)]
    case stores => rw [(State.respond_frame ..).2 .stores (by decide), (s.checked_frame p).2 .stores (by decide)]
    case flow => rw [(State.respond_moves ..).flow, State.checked_flow]; rfl
  case write =>
    have hserved := State.serveWrite_accepts haccepts hcheck
    obtain ⟨hsends, hreads, hflow⟩ := s.written_answered p p.data 0x22 0
    have hdata : p.data.length = p.length := Packet.data_length haccepts.1.2.1 (by rw [haccepts.1.1]; decide)
    rw [← hserved, hdata] at hreads
    rw [← hserved] at hsends hflow
    refine ⟨_, exec_memWrite hdown ?rope, hsends, hreads, congrArg Flow.rxNext hflow⟩
    case rope =>
      rw [hserved, (State.respond_frame ..).2 .rope (by decide), (State.targetWrite_frame ..).2 .rope (by decide),
        (s.checked_frame p).2 .rope (by decide), hrope]
  case atomic =>
    intro n old hsize hread hwrite haligned hfn
    obtain ⟨hsends, hreads, -⟩ := s.written_answered p (leBytes n v) 0x23 old
    rw [leBytes_length] at hreads
    exact ⟨_, exec_memAtomic hdown haccepts hclean rfl hsize hread hwrite haligned hfn, hsends, hreads⟩
  case message =>
    intro size pos entry hvisible hfits hroom
    have hdata : p.data.length = p.length := Packet.data_length haccepts.1.2.1 (by rw [haccepts.1.1]; decide)
    have hflow := s.checked_flow p
    have hentered := (s.checked p).entered_flow p pos
    have hvisible' := (visible_of_only (s.checked_frame p) (by decide) f.ringBase.toNat size).trans hvisible
    refine ⟨((s.checked p).entered p pos).respond p 0x24 0 0 [],
      exec_memMessage (f := f.taken) hdown haccepts hlength hflow hring hnotify hvisible' hfits hroom, ?sends, ?reads,
      ?tail⟩
    case sends =>
      exact State.respond_sends 0x24 0 0 [] ((s.checked_routes p).trans (State.entered_routes _ p pos))
        (by rw [hentered, hflow]; rfl)
    case reads =>
      rw [State.read, (State.respond_frame ..).2 .mem (by decide), ← State.read]
      have hread := State.entered_read (s := s.checked p) pos hdata
      rw [hflow] at hread
      exact hread
    case tail => rw [(State.respond_moves ..).flow, hentered, hflow]; rfl
  case wrongKey =>
    have hframe := State.errorTo_only (parts := [.out, .links, .fabric, .objects, .ring])
      ((s.checked_frame p).mono (by decide)) (by decide) (home p.dstCtx) p 1
    exact ⟨_, exec_wrongKey hdown hkind hreaches hkey hrope,
      State.errorTo_sends 1 (s.checked_routes p) hreaches.2.2.1 (s.checked_key p), hframe.2 .mem (by decide),
      hframe.2 .stores (by decide)⟩

end Sys2Proof.Machine

/-!
Messages of the dictionary beside requests (O48): HELLO, the carriers of a message, a write of flash that ends, a
session that is idle, and a stream.
-/
namespace Sys2Proof.Machine

/-! ### A message that is handled (R396) -/

/-- A message as the dictionary takes it: its packet has left the VC0 ring, or its mailbox is busy. -/
def State.taken (s : State) (m : DxpMsg) : State :=
  (s.popVc0 m).on (m.transport == 0) (·.setHost fun p => { p with mboxStatus := 1 })

theorem exec_dxpHello {s : State} {m : DxpMsg} (hdown : s.down = false) (hup : s.dictUp = true)
    (hkind : hKind m.header.toNat = 1) (hidle : ¬ (m.transport = 0 ∧ s.host.mboxStatus = 1)) :
    exec (.dxpHello m) s = .next (((s.taken m).handle m).mboxSettle.streamAll) := by
  have hrow : s.dxpRow m = .hello := by rw [State.dxpRow]; exact if_pos hkind
  change onRow .hello m s = _
  rw [onRow, act_up hdown, if_pos hrow, State.arrive]
  dsimp only
  rw [if_neg (by simpa [hkind] using hidle), if_neg (by simp [hup]), State.taken]

/-- A HELLO of the right form, whose data is never protected. -/
theorem State.handle_hello {s : State} {m : DxpMsg} (hkind : hKind m.header.toNat = 1)
    (hformat : dxpFormat m.transport m.header.toNat m.data.length = true) : s.handle m = s.hello m := by
  have hclear : s.clearData m = some m.data := by rw [State.clearData]; exact if_pos (.inr hkind)
  rw [State.handle, hclear]
  dsimp only
  rw [if_neg (by simp [hkind]), if_pos hkind, if_pos hformat]

/-! ### HELLO (R397, R398) -/

/-- The access that a HELLO without keys asks for; over the rope, only reading. -/
def plainAccess (m : DxpMsg) : Nat := if m.transport = 3 then 0 else leAt m.data 2 1

theorem State.plainHello_opens {s z : State} {m : DxpMsg} {v : Session} (hlength : m.data.length = 16)
    (hok : helloOk m.data = true) (hmin : leAt m.data 0 1 ≤ 2) (hmax : 2 ≤ leAt m.data 1 1)
    (hopens : s.openDxp m (plainAccess m == 1) [] = (z, some v)) :
    s.plainHello m = (z.logOpened m.transport (plainAccess m)).sendDxp m.transport m.source
      (z.answerHead m.header.toNat 2 0 v.number 0 16) (ackStart (plainAccess m) v.number) := by
  rw [State.plainHello]
  rw [if_neg (by simp [hlength, hok]), if_neg (by omega), ← plainAccess, hopens]


theorem State.helloPiece_follows {s : State} {m : DxpMsg} {first : BitVec 256} {old : List Byte}
    (hfind : (if hOffset m.header.toNat = 0 then some (m.header, [])
      else (s.dict.hellos.find? (·.1 == m.source)).map (·.2)) = some (first, old))
    (hoffset : hOffset m.header.toNat = old.length) (hlength : (old ++ m.data).length ≤ 6461) :
    let rest := s.dict.hellos.filter (·.1 != m.source)
    s.helloPiece m = if hMore m.header.toNat then
        s.setDict fun d => { d with hellos := rest ++ [(m.source, first, old ++ m.data)] }
      else (s.setDict fun d => { d with hellos := rest }).keyedHello m first (old ++ m.data) := by
  rw [State.helloPiece]
  dsimp only
  rw [hfind]
  dsimp only
  rw [if_neg (by rw [not_or, Nat.not_lt]; exact ⟨fun h => h hoffset, hlength⟩)]
  rfl

/-- A HELLO that asks in vain for write access is logged, and counted as aborted. -/
def State.helloJudged (s : State) (denied : Bool) : State :=
  (s.on denied (·.log 0x1003 (domMp 0))).countAbort (if denied then 7 else 0)

/-- The HELLO_ACK of the management port: the module's share of the keys and its signature. -/
def State.helloAck (s : State) (m : DxpMsg) (b : List Byte) (abort n access rnd : Nat) : List Byte :=
  let part := ackStart access n ++ (Config.mlkemEncaps (piece b 16 1184) rnd).1 ++ Config.identityKey
  part ++ Config.identitySign
    (leBytes 32 (s.answerHead m.header.toNat 2 abort n 0 1184 true).toNat ++ part ++ Config.sha3 b)

/-- The key of a direction. -/
def helloKey (b ack : List Byte) (rnd : Nat) (dir : Byte) : List Byte :=
  (Config.sha3 ((Config.mlkemEncaps (piece b 16 1184) rnd).2 ++ Config.sha3 (b ++ ack) ++ [dir])).take 36

/-- Session `n` has its keys. -/
def State.withKeys (s : State) (n : Nat) (key : Byte → List Byte) : State :=
  s.setDict fun d => { d with
    sessions := d.sessions.map fun x => if x.number = n then { x with keyIn := key 0, keyOut := key 1 } else x }

theorem State.keyedHello_opens {s z : State} {m : DxpMsg} {first : BitVec 256} {b : List Byte} {v : Session}
    {granted denied : Bool} (hgranted : granted = (leAt b 2 1 == 1 && s.operatorOk first b))
    (hdenied : denied = (leAt b 2 1 == 1 && !granted))
    (hlength : b.length = if leAt b 2 1 = 1 then 6461 else 1200) (hok : helloOk b = true) (hmin : leAt b 0 1 ≤ 2)
    (hmax : 2 ≤ leAt b 1 1)
    (hopens : s.openDxp m granted (if granted then Config.sha3 (piece b 1200 1952) else []) = (z, some v)) :
    let u := z.helloJudged denied
    let ack := u.draw.2.helloAck m b (if denied then 7 else 0) v.number (bit01 granted) u.draw.1
    let t := (u.draw.2.withKeys v.number (helloKey b ack u.draw.1)).logOpened 1 (bit01 granted)
    s.keyedHello m first b = t.sendPieces m (if denied then 7 else 0) v.number ack := by
  rw [State.keyedHello]
  dsimp only
  rw [if_neg (by simp [hlength, hok]), if_neg (by omega), ← hgranted, hopens]
  dsimp only
  rw [← hdenied]
  rfl

theorem State.helloJudged_logged (s : State) : Logged s (s.helloJudged true) [0x1003] :=
  (Logged.log1 s 0x1003 (domMp 0) [] (by decide)).congr
    (congrArg Faults.ring (State.count_faults (s.log 0x1003 (domMp 0)) 0x1002 0xA 1))

theorem State.helloAck_start (s : State) (m : DxpMsg) (b : List Byte) (abort n access rnd : Nat) :
    (s.helloAck m b abort n access rnd).take 16 = ackStart access n := by
  rw [State.helloAck, List.append_assoc, List.append_assoc, List.append_assoc]
  exact List.take_left' (by simp [ackStart, leBytes_length])

theorem State.log_sessions (s : State) (ev dom : Nat) (items : List (Nat × Nat)) :
    (s.log ev dom items).dict.sessions = s.dict.sessions := by rw [State.log_dict']

theorem State.withKeys_keys {s : State} {n : Nat} {key : Byte → List Byte} {x : Session}
    (hx : x ∈ (s.withKeys n key).dict.sessions) (hn : x.number = n) : x.keyIn = key 0 ∧ x.keyOut = key 1 := by
  obtain ⟨y, -, rfl⟩ := List.mem_map.mp hx
  split at hn
  · next hnumber => rw [if_pos hnumber]; exact ⟨rfl, rfl⟩
  · next hother => exact absurd hn hother

/-- The sessions of a message's source are closed. -/
def State.replaced (s : State) (m : DxpMsg) : State :=
  s.each ((s.dict.sessions.filter fun v => v.transport == m.transport && v.source == m.source).map (·.number))
    State.closeSession

theorem State.openDxp_full {s : State} {m : DxpMsg} (wr : Bool) (op : List Byte)
    (hfull : 64 ≤ (s.replaced m).dict.sessions.length) : s.openDxp m wr op = (s.replaced m, none) := by
  rw [State.openDxp]
  exact if_pos hfull

theorem State.openDxp_room {s : State} {m : DxpMsg} (wr : Bool) (op : List Byte)
    (hroom : (s.replaced m).dict.sessions.length < 64) :
    let u := s.replaced m
    let n := u.freeSession 65 u.dict.nextSession
    let v : Session := ⟨m.transport, m.source, n, wr, none, [], u.now, [], [], op⟩
    s.openDxp m wr op =
      (u.setDict fun d => { d with nextSession := n + 1, sessions := d.sessions ++ [v] }, some v) := by
  rw [State.openDxp]
  exact if_neg (Nat.not_le.mpr hroom)

/-! ### What carries a message (R113, R396, R447) -/

/-- The request buffer of the mailbox holds a message. -/
def State.mailed (s : State) (msg : List Byte) : State := s.setHost fun p => { p with mboxRequest := msg.take 4096 }

theorem exec_mboxDoorbell_submits {s : State} {msg : List Byte} (hdown : s.down = false)
    (hidle : s.host.mboxStatus ≠ 1) (hwhole : 32 ≤ msg.length) :
    let w := leAt msg 0 32
    exec (.mboxDoorbell msg 1) s = .next ((s.mailed msg).arrive
      ⟨0, 0, BitVec.ofNat 256 w, fit (if carriesNone w then 0 else min 4064 (hLength w)) (msg.drop 32)⟩) := by
  have hrings : ¬ ((1 : BitVec 32) ≠ 1 ∨ (s.mailed msg).host.mboxStatus = 1 ∨ msg.length < 32) := by
    rw [not_or, not_or, Nat.not_lt]
    exact ⟨fun h => h rfl, hidle, hwhole⟩
  intro w
  change execMboxDoorbell msg 1 s = _
  rw [execMboxDoorbell, act_up hdown]
  exact congrArg Host.Outcome.next (if_neg hrings)

theorem exec_mboxDoorbell_ignored {s : State} {msg : List Byte} {v : BitVec 32} (hdown : s.down = false)
    (hignored : v ≠ 1 ∨ s.host.mboxStatus = 1) : exec (.mboxDoorbell msg v) s = .next (s.mailed msg) := by
  have hsilent : v ≠ 1 ∨ (s.mailed msg).host.mboxStatus = 1 ∨ msg.length < 32 := hignored.imp_right .inl
  change execMboxDoorbell msg v s = _
  rw [execMboxDoorbell, act_up hdown]
  exact congrArg Host.Outcome.next (if_pos hsilent)

theorem exec_dxpFrame {s : State} {f : RopeFrame} {x : Nat} {body : List Byte} (hdown : s.down = false)
    (hhere : ¬ (rfDstSite f.header.toNat = s.ownSite ∧ rfDstModule f.header.toNat ≠ s.moduleNumber ∧
      (List.range 64).any (s.role · == 2) = true))
    (hframe : s.openFrame f = (s, some (x, body))) (hopen : (s.ropeSess x).state = .opened)
    (hkind : rfKind f.header.toNat = 0xA) (hfresh : (s.ropeSess x).fresh (rfSeq f.header.toNat) = some true)
    (hstripe : x % 32 = 0) (hwhole : 32 ≤ body.length) :
    exec (.dxpFrame f) s = .next ((s.arrive ⟨3, 65536 * (x / 32) + s.peerModule (x / 32),
      BitVec.ofNat 256 (leAt body 0 32), body.drop 32⟩).noteFrame x f.header.toNat true) := by
  have hsequenced : sequencedKind 0xA = true := rfl
  change execDxpFrame f s = _
  rw [execDxpFrame, act_up hdown, State.atGateway]
  rw [if_neg hhere, State.receiveDxp, State.receiveFrame]
  dsimp only
  rw [if_neg (by simp [hkind]), hframe]
  dsimp only
  rw [if_neg (by simp [hopen]), if_pos hsequenced, hfresh]
  dsimp only
  rw [if_neg (by simp [hstripe]), if_neg (Nat.not_lt.mpr hwhole)]

theorem exec_ropeFrame {s : State} {p : Packet} (hdown : s.down = false) (hop : p.op = 5)
    (hdst : p.dst = s.moduleNumber) (hwhole : 64 ≤ p.data.length) :
    let f : RopeFrame := ⟨BitVec.ofNat 512 (leAt p.data 0 64), p.data.drop 64⟩
    exec (.ropeFrame p) s = .next (if rfDstSite f.header.toNat = s.ownSite then s.atGateway f (·.receiveRope f)
      else s.portSend (rfStripe f.header.toNat) f.header f.body) := by
  intro f
  change execRopeFrame p s = _
  rw [execRopeFrame, act_up hdown]
  refine congrArg Host.Outcome.next (if_neg ?_)
  rw [not_or, not_or, Nat.not_lt]
  exact ⟨fun h => h hop, fun h => h hdst, hwhole⟩

/-! ### Flash (R401, R405) -/

theorem exec_persistWriteComplete {s : State} {ok : Bool} {j : PersistJob} {rest : List PersistJob}
    (hdown : s.down = false) (hpersist : s.dict.persist = j :: rest) :
    let u := s.persistEnds j ok
    exec (.persistWriteComplete ok) s = .next (((u.setDict fun d => { d with waiting := [] }).each u.dict.waiting
      State.handle).mboxSettle.streamAll) := by
  intro u
  change execPersistWriteComplete ok s = _
  rw [execPersistWriteComplete, act_up hdown, hpersist]

/-- The base camp has the value of a write, and the write is done. -/
def State.stored (s : State) (r : ObjRow) (j : PersistJob) : State :=
  (s.setDict fun d => { d with persist := d.persist.drop 1 }).setDict fun d =>
    if r.ty = .recd then { d with baseRecs := Tbl.set [] d.baseRecs j.key j.bytes }
    else { d with base := Tbl.set none d.base j.key (if j.value = objDefault j.key then none else some j.value) }

theorem State.persistEnds_fails (s : State) (j : PersistJob) : s.persistEnds j false =
    ((s.setDict fun d => { d with persist := d.persist.drop 1 }).log 0x1005 (domMp 0)).persistAnswer j 0xA := rfl

theorem State.persistEnds_done {s : State} {j : PersistJob} {r : ObjRow} (hrow : objRow j.key = some r) :
    s.persistEnds j true = (((s.stored r j).log 0x1004 (domMp 0)).take r j.key j.value j.bytes).persistAnswer j 0 := by
  rw [State.persistEnds]
  dsimp only
  rw [if_neg (by decide), hrow]
  rfl

theorem State.stored_faults (s : State) (r : ObjRow) (j : PersistJob) : (s.stored r j).faults = s.faults := rfl

theorem State.stored_persist (s : State) (r : ObjRow) (j : PersistJob) :
    (s.stored r j).dict.persist = s.dict.persist.drop 1 := by
  unfold State.stored State.setDict
  dsimp only
  split <;> rfl

theorem State.stored_base {s : State} {r : ObjRow} (j : PersistJob) (hplain : r.ty ≠ .recd) :
    (s.stored r j).dict.base =
      Tbl.set none s.dict.base j.key (if j.value = objDefault j.key then none else some j.value) := by
  unfold State.stored State.setDict
  dsimp only
  rw [if_neg hplain]

theorem State.stored_baseRecs {s : State} {r : ObjRow} (j : PersistJob) (hrecord : r.ty = .recd) :
    (s.stored r j).dict.baseRecs = Tbl.set [] s.dict.baseRecs j.key j.bytes := by
  unfold State.stored State.setDict
  dsimp only
  rw [if_pos hrecord]

/-! ### An idle session (R397) -/

theorem exec_sessionIdleExpire {s : State} {n : BitVec 16} {v : Session} (hdown : s.down = false)
    (hfind : s.dict.sessions.find? (·.number == n.toNat) = some v) :
    exec (.sessionIdleExpire n) s =
      .next ((s.reach (v.last + 1000000000 * s.obj 0x1002 8)).closeSession v.number) := by
  change execSessionIdleExpire n s = _
  rw [execSessionIdleExpire, act_up hdown, hfind]

theorem State.closeSession_sessions (s : State) (n : Nat) :
    (s.closeSession n).dict.sessions = s.dict.sessions.filter (·.number != n) := rfl

theorem State.closeSession_hall (s : State) (n : Nat) : (s.closeSession n).hall = s.hall := rfl

/-! ### Streams (R441) -/

/-- The state in which a stream finds its records: one that has fallen a whole ring behind is counted and logged. -/
def State.gapNoted (s : State) (m : Stream) : State :=
  if m.gap (s.obj 0x9004 2) s.faults.ring.length then (s.count 0x9004 5).log 0x9012 else s

/-- The records of a stream's next message. -/
def State.streamed (s : State) (m : Stream) (v : Session) : List (BitVec 256) :=
  let seq := s.obj 0x9004 2
  (((s.gapNoted m).recordsFrom (if m.gap seq s.faults.ring.length then seqBefore seq s.faults.ring.length
    else m.next)).filter m.takes).take (streamRoom v.transport)

theorem State.setSubscription_ring (s : State) (n : Nat) (x : Option Stream) :
    (s.setSubscription n x).faults.ring = s.faults.ring := rfl

theorem State.setSubscription_sessions (s : State) (n : Nat) (x : Option Stream) :
    (s.setSubscription n x).dict.sessions = s.dict.sessions := rfl

theorem State.gapNoted_sessions (s : State) (m : Stream) : (s.gapNoted m).dict.sessions = s.dict.sessions := by
  unfold State.gapNoted
  split
  · rw [State.log_sessions]; rfl
  · rfl

theorem exec_cairnStreamSend {s : State} {n : Fin 4} {m : Stream} {v : Session} (hdown : s.down = false)
    (hstream : Tbl.get none s.faults.streams n.val = some m)
    (hfind : s.dict.sessions.find? (·.number == m.session) = some v) :
    ∃ last : Nat, let u := (s.gapNoted m).setSubscription n (some { m with next := last })
      let data := (s.streamed m v).flatMap fun r => leBytes 32 r.toNat
      exec (.cairnStreamSend n) s = .next (if (s.streamed m v).isEmpty then u else
        u.sendSession v (dxpHead 4 7 0 v.number m.request 0 0 0 data.length u.moduleNumber) data) := by
  change ∃ last : Nat, execCairnStreamSend n s = _
  rw [execCairnStreamSend, act_up hdown, State.streamSend, hstream]
  dsimp only
  rw [hfind]
  exact ⟨_, rfl⟩

/-- A HELLO on the management port that opens a session is answered in pieces, and the session has the keys. -/
theorem keyedHello_spec {s z : State} {m : DxpMsg} {first : BitVec 256} {b : List Byte} {v : Session}
    {granted denied : Bool} (hgranted : granted = (leAt b 2 1 == 1 && s.operatorOk first b))
    (hdenied : denied = (leAt b 2 1 == 1 && !granted))
    (hlength : b.length = if leAt b 2 1 = 1 then 6461 else 1200) (hok : helloOk b = true) (hmin : leAt b 0 1 ≤ 2)
    (hmax : 2 ≤ leAt b 1 1)
    (hopens : s.openDxp m granted (if granted then Config.sha3 (piece b 1200 1952) else []) = (z, some v)) :
    ∃ (t : State) (ack : List Byte) (rnd : Nat),
      s.keyedHello m first b = t.sendPieces m (if denied then 7 else 0) v.number ack ∧
      Logged z t (if denied then [0x1001, 0x1003] else [0x1001]) ∧
      ack.take 16 = ackStart (bit01 granted) v.number ∧
      ∀ x ∈ t.dict.sessions, x.number = v.number →
        x.keyIn = helloKey b ack rnd 0 ∧ x.keyOut = helloKey b ack rnd 1 := by
  refine ⟨_, _, (z.helloJudged denied).draw.1,
    State.keyedHello_opens hgranted hdenied hlength hok hmin hmax hopens, ?logged,
    State.helloAck_start .., fun x hx hnumber => ?keys⟩
  case logged =>
    have hring : ∀ u : State, (u.draw.2.withKeys v.number (helloKey b (u.draw.2.helloAck m b (if denied then 7 else 0)
        v.number (bit01 granted) u.draw.1) u.draw.1)).faults = u.faults := fun _ => rfl
    rw [State.logOpened]
    cases denied
    · exact Logged.log_of_faults (hring z) 0x1001 _ _ (by decide)
    · exact (z.helloJudged_logged.congr (congrArg Faults.ring (hring _))).log 0x1001 _ _ (by decide)
  case keys =>
    rw [State.logOpened, State.log_sessions] at hx
    exact State.withKeys_keys hx hnumber

/-- A stream sends the records it has for its session, in one message, where it has any. -/
theorem cairnStreamSend_spec {s : State} {n : Fin 4} {m : Stream} {v : Session} (hdown : s.down = false)
    (hstream : Tbl.get none s.faults.streams n.val = some m)
    (hfind : s.dict.sessions.find? (·.number == m.session) = some v) :
    let data := (s.streamed m v).flatMap fun r => leBytes 32 r.toNat
    ∃ u : State, u.faults.ring = (s.gapNoted m).faults.ring ∧ u.dict.sessions = s.dict.sessions ∧
      (s.streamed m v = [] → exec (.cairnStreamSend n) s = .next u) ∧
      (s.streamed m v ≠ [] → exec (.cairnStreamSend n) s =
        .next (u.sendSession v (dxpHead 4 7 0 v.number m.request 0 0 0 data.length u.moduleNumber) data)) := by
  obtain ⟨last, hexec⟩ := exec_cairnStreamSend hdown hstream hfind
  refine ⟨(s.gapNoted m).setSubscription n (some { m with next := last }), State.setSubscription_ring ..,
    (State.setSubscription_sessions ..).trans (s.gapNoted_sessions m),
    fun hnone => hexec.trans ?_, fun hsome => hexec.trans ?_⟩
  · exact congrArg Host.Outcome.next (if_pos (List.isEmpty_iff.mpr hnone))
  · exact congrArg Host.Outcome.next (if_neg fun h => hsome (List.isEmpty_iff.mp h))

/-- Settles O48, from what each message and its carrier does. -/
theorem dictionaryMessages : Obligations.DictionaryMessages := by
  intro s hdown
  refine ⟨fun m hup hkind hport hidle hformat hlength hok hmin hmax z v hopens => ?plain,
    fun m hup hkind hport hformat first old hfind hoffset hlength => ?pieces,
    fun m first b hlength hok hmin hmax z v hopens => ?keyed,
    fun m wr op => ⟨State.openDxp_full wr op, fun hroom => ?opens⟩,
    fun msg v => ⟨fun hv hidle hwhole => ?mailbox, exec_mboxDoorbell_ignored hdown⟩,
    fun f x body hhere hframe hopen hkind hfresh hstripe hwhole =>
      exec_dxpFrame hdown hhere hframe hopen hkind hfresh hstripe hwhole,
    fun p hop hdst hwhole => ⟨fun hsite => ?ropeHere, fun hsite => ?ropeOut⟩,
    fun ok j rest hpersist => exec_persistWriteComplete hdown hpersist,
    fun j r hrow => ⟨s.persistEnds_fails j, ?flash⟩,
    fun n v hfind => ?idle,
    fun n m v hstream hfind => ?stream⟩
  case plain =>
    have hhello : (s.taken m).plainHello m = _ := State.plainHello_opens hlength hok hmin hmax hopens
    rw [exec_dxpHello hdown hup hkind hidle, State.handle_hello hkind hformat, State.hello, if_neg hport, hhello]
    rfl
  case pieces =>
    have hlocal : s.taken m = s := by
      rw [State.taken, State.popVc0, hport]; rfl
    have hruns : exec (.dxpHello m) s = .next ((s.helloPiece m).mboxSettle.streamAll) := by
      rw [exec_dxpHello hdown hup hkind (by simp [hport]), hlocal, State.handle_hello hkind (by rwa [hport]),
        State.hello, if_pos hport]
    rw [State.helloPiece_follows hfind hoffset hlength] at hruns
    refine ⟨fun hmore => ?_, fun hlast => ?_⟩
    · rw [hruns, if_pos hmore]
    · rw [hruns, if_neg (by simp [hlast])]
  case keyed => exact keyedHello_spec rfl rfl hlength hok hmin hmax hopens
  case opens => exact ⟨_, _, State.openDxp_room wr op hroom, rfl, rfl, rfl, rfl, rfl, rfl, rfl⟩
  case mailbox =>
    subst hv
    exact exec_mboxDoorbell_submits hdown hidle hwhole
  case ropeHere => rw [exec_ropeFrame hdown hop hdst hwhole, if_pos hsite]
  case ropeOut => rw [exec_ropeFrame hdown hop hdst hwhole, if_neg hsite]
  case flash =>
    refine ⟨(s.stored r j).log 0x1004 (domMp 0),
      Logged.log_of_faults (s.stored_faults r j) 0x1004 _ _ (by decide), fun hplain => ?base,
      fun hrecord => ?baseRecs, ?persist, State.persistEnds_done hrow⟩
    case base => rw [State.log_dict']; exact State.stored_base j hplain
    case baseRecs => rw [State.log_dict']; exact State.stored_baseRecs j hrecord
    case persist => rw [State.log_dict']; exact State.stored_persist s r j
  case idle =>
    have hnumber : v.number = n.toNat := by simpa using List.find?_some hfind
    refine ⟨_, exec_sessionIdleExpire hdown hfind, (State.closeSession_hall _ _).trans (s.reach_hall' _), ?_⟩
    rw [State.closeSession_sessions, State.reach_dict, hnumber]
  case stream =>
    have hspec := cairnStreamSend_spec hdown hstream hfind
    unfold State.streamed State.gapNoted at hspec
    exact hspec

end Sys2Proof.Machine

/-!
Matrix passes (O30): what an instruction finds when it executes, the pass queue and the gatherer, the pass in the
frames, and what becomes of a pass whose slot is corrupt.
-/
namespace Sys2Proof.Machine

/-! ### An instruction that executes finds the queues as they were (R184, R189) -/

/-- The state in which an instruction has its effect: its context has had its turn, and 0x4037 has counted it. -/
def State.issued (s : State) (c x : Nat) : State := (s.tookTurn c 0 x).count64 0x4037 c

theorem State.issued_core (s : State) (c x : Nat) : (s.issued c x).core c =
    { s.core c with turns := Tbl.set (0, 0) (s.core c).turns 0 (s.now / 5 + 1, x) } := by
  rw [State.issued, State.count64_core, State.tookTurn, core_mapCore]

theorem State.issued_ctx (s : State) (c x d y : Nat) : (s.issued c x).ctx d y = s.ctx d y := rfl

theorem State.issued_now (s : State) (c x : Nat) : (s.issued c x).now = s.now := rfl

theorem State.issued_sched (s : State) (c x : Nat) : (s.issued c x).sched = s.sched := rfl

theorem State.issued_frozen (s : State) (c x : Nat) : (s.issued c x).frozen = s.frozen := rfl

/-- The turn among the contexts is not that among those that wait for a queue (R101). -/
theorem State.issued_winsPlace (s : State) (c x : Nat) {q : Nat} (hq : q ≠ 0) (xs : List Nat) (y : Nat) :
    (s.issued c x).winsPlace c q xs y = s.winsPlace c q xs y := by
  simp only [State.winsPlace, State.order101, State.issued_core, State.issued_now, Tbl.get_set_other hq]

theorem State.issued_passRoom (s : State) (c x : Nat) : (s.issued c x).passRoom c = s.passRoom c := by
  simp only [State.passRoom, State.issued_core]

theorem State.issued_groupSlot (s : State) (c x : Nat) (r : PassRec) :
    (s.issued c x).groupSlot c r = s.groupSlot c r := by
  simp only [State.groupSlot, State.issued_core]

theorem State.issued_readyGroup (s : State) (c x : Nat) : (s.issued c x).readyGroup c = s.readyGroup c := by
  simp only [State.readyGroup, State.openGroups, State.issued_core, State.issued_sched]

theorem State.issued_passContenders (s : State) (c x : Nat) : (s.issued c x).passContenders c = s.passContenders c := by
  simp only [State.passContenders, State.waiters, State.issued_ctx, State.issued_frozen, State.issued_readyGroup]

theorem State.issued_gatherContenders (s : State) (c x : Nat) :
    (s.issued c x).gatherContenders c = s.gatherContenders c := by
  simp only [State.gatherContenders, State.waiters, State.issued_ctx, State.issued_groupSlot]

/-- A context's item enters its queue. -/
theorem State.enterQueue_enters {s : State} {c x q : Nat} {xs : List Nat} {room : Bool} (enter : State → State) (w : Wait)
    (h : (room && s.winsPlace c q (insertAsc x xs) x) = true) :
    s.enterQueue c x q xs room enter w = ((enter s).tookTurn c q x).retire c x := if_pos h

/-- Its context waits with it. -/
theorem State.enterQueue_waits {s : State} {c x q : Nat} {xs : List Nat} {room : Bool} (enter : State → State) (w : Wait)
    (h : (room && s.winsPlace c q (insertAsc x xs) x) = false) :
    s.enterQueue c x q xs room enter w = s.mapCtx c x fun v => { v with status := .waiting, wait := w } :=
  if_neg (by simp [h])

/-- A context that retires at the instant of `s`. -/
theorem State.retire_ctx_of_now {s u : State} (hnow : u.now = s.now) (c x : Nat) :
    (u.retire c x).ctx c x = s.retired (u.ctx c x) := by
  rw [retire_ctx, State.retired, hnow, State.retired]

/-! ### MM (R129, R130) -/

theorem passEnc_ok {w : Nat} (henc : unassigned w [(111, 83)] = false) : passEnc w = none := by
  rw [passEnc, henc]
  rfl

/-- An MM that passes its checks contends for a place in the pass queue. -/
theorem exec_mm {s : State} {core : Core} {ctx : Ctx} {w : Nat} (hdown : s.down = false)
    (hissues : s.Issues core ctx 0x10 w) (henc : unassigned w [(111, 83)] = false)
    (hcheck : s.passCheck core ctx w false = none) :
    exec (.mm core ctx) s = .next ((s.issued core ctx).enterQueue core ctx 1 (s.passContenders core) (s.passRoom core)
      (·.queuePass core ⟨some ctx, s.passAt core ctx w, []⟩) (.pass (s.passAt core ctx w))) := by
  change execMm core ctx s = _
  rw [execMm, act_up hdown, issue_runs hissues (by decide) _ (passEnc_ok henc) hcheck, ← State.issued,
    State.issued_passContenders, State.issued_passRoom]
  rfl

/-- The state after an MM whose pass has entered the queue. -/
def State.queuedBy (s : State) (c x : Nat) (p : PassItem) : State :=
  (((s.issued c x).queuePass c p).tookTurn c 1 x).retire c x

theorem State.queuedBy_passQ (s : State) (c x : Nat) (p : PassItem) :
    ((s.queuedBy c x p).core c).passQ = (s.core c).passQ ++ [p] := by
  rw [State.queuedBy, State.retire, State.mapCtx_core, State.tookTurn, core_mapCore, State.queuePass, core_mapCore,
    State.issued_core]

theorem State.queuePass_ctx (s : State) (c : Nat) (p : PassItem) (d y : Nat) : (s.queuePass c p).ctx d y = s.ctx d y :=
  State.mapCore_ctx ..

theorem State.mapCore_now (s : State) (c : Nat) (f : CoreSt → CoreSt) : (s.mapCore c f).now = s.now :=
  congrArg (· / 64) (State.mapCore_hall ..)

theorem State.queuedBy_ctx (s : State) (c x : Nat) (p : PassItem) :
    (s.queuedBy c x p).ctx c x = s.retired (s.ctx c x) := by
  have hnow : (((s.issued c x).queuePass c p).tookTurn c 1 x).now = s.now := by
    rw [State.tookTurn, State.mapCore_now, State.queuePass, State.mapCore_now, State.issued_now]
  rw [State.queuedBy, State.retire_ctx_of_now hnow, tookTurn_ctx, State.queuePass_ctx, State.issued_ctx]

theorem State.queuedBy_onlyCtx (s : State) (c : Core) (x : Ctx) (p : PassItem) : OnlyCtx s (s.queuedBy c x p) c x := by
  intro d y hne
  rw [State.queuedBy, retire_other hne, tookTurn_ctx, State.queuePass_ctx, State.issued_ctx]

/-- The state after an instruction whose context waits with its item (R184). -/
def State.stalled (s : State) (c x : Nat) (w : Wait) : State :=
  (s.issued c x).mapCtx c x fun v => { v with status := .waiting, wait := w }

theorem State.stalled_ctx (s : State) (c x : Nat) (w : Wait) :
    (s.stalled c x w).ctx c x = { s.ctx c x with status := .waiting, wait := w } := ctx_mapCtx ..

theorem State.stalled_onlyCtx (s : State) (c : Core) (x : Ctx) (w : Wait) : OnlyCtx s (s.stalled c x w) c x :=
  fun _ _ hne => ctx_mapCtx_other _ hne

theorem State.stalled_core (s : State) (c x : Nat) (w : Wait) : (s.stalled c x w).core c =
    { s.core c with turns := Tbl.set (0, 0) (s.core c).turns 0 (s.now / 5 + 1, x) } := by
  rw [State.stalled, State.mapCtx_core, State.issued_core]

theorem exec_mm_enters {s : State} {core : Core} {ctx : Ctx} {w : Nat} (hdown : s.down = false)
    (hissues : s.Issues core ctx 0x10 w) (henc : unassigned w [(111, 83)] = false)
    (hcheck : s.passCheck core ctx w false = none)
    (henters : (s.passRoom core && s.winsPlace core 1 (insertAsc ctx (s.passContenders core)) ctx) = true) :
    exec (.mm core ctx) s = .next (s.queuedBy core ctx ⟨some ctx, s.passAt core ctx w, []⟩) := by
  rw [exec_mm hdown hissues henc hcheck, State.enterQueue_enters _ _ (by rwa [State.issued_winsPlace _ _ _ (by decide)]),
    State.queuedBy]

theorem exec_mm_waits {s : State} {core : Core} {ctx : Ctx} {w : Nat} (hdown : s.down = false)
    (hissues : s.Issues core ctx 0x10 w) (henc : unassigned w [(111, 83)] = false)
    (hcheck : s.passCheck core ctx w false = none)
    (hwaits : (s.passRoom core && s.winsPlace core 1 (insertAsc ctx (s.passContenders core)) ctx) = false) :
    exec (.mm core ctx) s = .next (s.stalled core ctx (.pass (s.passAt core ctx w))) := by
  rw [exec_mm hdown hissues henc hcheck, State.enterQueue_waits _ _ (by rwa [State.issued_winsPlace _ _ _ (by decide)]),
    State.stalled]

/-! ### Stalls are counted (R153) -/

/-- A stall of MM.G counts from `now`. -/
def CtxSt.recounted (v : CtxSt) (now : Nat) : CtxSt :=
  match v.wait with
  | .gather p _ => { v with wait := .gather p now }
  | _ => v

/-- What a table reads as whose entries a function that keeps the default has changed. -/
theorem Tbl.get_map_values {α : Type} {d : α} (f : α → α) (hd : f d = d) (t : Tbl α) (k : Nat) :
    Tbl.get d (t.map fun e => (e.1, f e.2)) k = f (Tbl.get d t k) := by
  induction t with
  | nil => exact hd.symm
  | cons e t ih =>
    rw [List.map_cons, Tbl.get, Tbl.get, ih]
    split <;> rfl

theorem State.countStalls_ctx (s : State) (d y : Nat) :
    s.countStalls.ctx d y = s.ctx d y ∨ s.countStalls.ctx d y = (s.ctx d y).recounted s.now := by
  unfold State.countStalls
  split
  · exact .inl rfl
  · exact .inr (Tbl.get_map_values (CtxSt.recounted · s.now) rfl s.ctxs (ctxKey d y))

theorem State.countStalls_frame (s : State) : Only [.ctxs, .objects] s s.countStalls :=
  State.countStalls_only (Only.refl _ s) (by decide)

theorem State.countStalls_core (s : State) (c : Nat) : s.countStalls.core c = s.core c :=
  core_of_only s.countStalls_frame (by decide) c

theorem sched_of_only {s t : State} {ps : List Part} (h : Only ps s t) (hhall : Part.hall ∉ ps) (htt : Part.tt ∉ ps)
    (hhold : Part.hold ∉ ps) : t.sched = s.sched := by
  have hnow : t.now = s.now := congrArg (· / 64) (h.2 .hall hhall)
  have hlag : t.lag = s.lag := by rw [State.lag, h.2 .tt htt, h.2 .hold hhold, State.lag]
  rw [State.sched, h.2 .hold hhold, hnow, hlag, State.sched]

theorem CtxSt.recounted_cases (v : CtxSt) (now : Nat) :
    v.recounted now = v ∨ ∃ p a, v.wait = .gather p a ∧ v.recounted now = { v with wait := .gather p now } := by
  unfold CtxSt.recounted
  split
  · next p a hwait => exact .inr ⟨p, a, hwait, rfl⟩
  · exact .inl rfl

/-- Nothing but the wait of a context depends on it as a loop ends (R191). -/
theorem loopEnd_go_wait (fs : List LoopFrame) (v : CtxSt) (a : Wait) :
    loopEnd.go fs { v with wait := a } = { loopEnd.go fs v with wait := a } := by
  induction fs generalizing v with
  | nil => rfl
  | cons f fs ih =>
    simp only [loopEnd.go]
    split
    · split
      · exact ih v
      · simp only [CtxSt.setS]
        split
        · split <;> rfl
        · rfl
    · rfl

/-- A context retires alike whatever it waited for. -/
theorem State.retired_wait (s : State) (v : CtxSt) (a : Wait) : s.retired { v with wait := a } = s.retired v := by
  have hadvance : advance { v with wait := a } = { advance v with wait := a } :=
    loopEnd_go_wait v.loops { v with pc := v.pc + 1 } a
  rw [State.retired, hadvance, State.retired]

theorem State.retired_countStalls (s : State) (u : State) (c x : Nat) :
    s.retired (u.countStalls.ctx c x) = s.retired (u.ctx c x) := by
  rcases u.countStalls_ctx c x with h | h
  · rw [h]
  · rcases (u.ctx c x).recounted_cases u.now with h' | ⟨p, a, -, h'⟩
    · rw [h, h']
    · rw [h, h', State.retired_wait]

/-! ### MM.G (R144, R145) -/

/-- The group that request `q` has joined, or opened at schedule time `now`. -/
def Group.Holds (g : Group) (old : Option Group) (q : GatherReq) (now : Nat) : Prop :=
  match old with
  | some old => g.reqs = old.reqs ++ [q] ∧ g.rows = old.rows + q.rec_.m
  | none => g.reqs = [q] ∧ g.rows = q.rec_.m ∧ g.first = now

theorem State.joinGroup_holds (s : State) (c x i : Nat) (r : PassRec) :
    ∃ g, Tbl.get none ((s.joinGroup c x i r).core c).groups i = some g ∧
      g.Holds (Tbl.get none (s.core c).groups i) ⟨x, r⟩ s.sched := by
  simp only [State.joinGroup, core_mapCore, Tbl.get_set_same]
  cases Tbl.get none (s.core c).groups i with
  | none => exact ⟨_, rfl, rfl, rfl, rfl⟩
  | some old => exact ⟨_, rfl, rfl, rfl⟩

/-- An MM.G that passes its checks contends for a place in a group. -/
theorem exec_mmG {s : State} {core : Core} {ctx : Ctx} {w : Nat} (hdown : s.down = false)
    (hissues : s.Issues core ctx 0x11 w) (henc : unassigned w [(111, 83)] = false)
    (hcheck : s.passCheck core ctx w true = none) :
    exec (.mmG core ctx) s = .next ((s.issued core ctx).enterQueue core ctx 2 (s.gatherContenders core)
      (s.groupSlot core (s.passAt core ctx w)).isSome (·.joinGathered core ctx (s.passAt core ctx w))
      (.gather (s.passAt core ctx w) s.now)) := by
  change execMmG core ctx s = _
  rw [execMmG, act_up hdown, issue_runs hissues (by decide) _ (passEnc_ok henc) hcheck, ← State.issued,
    State.issued_gatherContenders]
  dsimp only
  rw [State.issued_groupSlot]
  rfl

/-- The state after an MM.G whose request has entered group `i`. -/
def State.gatheredBy (s : State) (c x i : Nat) (r : PassRec) : State :=
  (((s.issued c x).countStalls.joinGroup c x i r).tookTurn c 2 x).retire c x

theorem exec_mmG_enters {s : State} {core : Core} {ctx : Ctx} {w i : Nat} (hdown : s.down = false)
    (hissues : s.Issues core ctx 0x11 w) (henc : unassigned w [(111, 83)] = false)
    (hcheck : s.passCheck core ctx w true = none) (hslot : s.groupSlot core (s.passAt core ctx w) = some i)
    (hwins : s.winsPlace core 2 (insertAsc ctx (s.gatherContenders core)) ctx = true) :
    exec (.mmG core ctx) s = .next (s.gatheredBy core ctx i (s.passAt core ctx w)) := by
  rw [exec_mmG hdown hissues henc hcheck, State.enterQueue_enters _ _
    (by rw [State.issued_winsPlace _ _ _ (by decide), hslot, hwins]; rfl)]
  simp only [State.joinGathered, State.issued_groupSlot, hslot, State.gatheredBy]

theorem exec_mmG_waits {s : State} {core : Core} {ctx : Ctx} {w : Nat} (hdown : s.down = false)
    (hissues : s.Issues core ctx 0x11 w) (henc : unassigned w [(111, 83)] = false)
    (hcheck : s.passCheck core ctx w true = none)
    (hwaits : s.groupSlot core (s.passAt core ctx w) = none ∨
      s.winsPlace core 2 (insertAsc ctx (s.gatherContenders core)) ctx = false) :
    exec (.mmG core ctx) s = .next (s.stalled core ctx (.gather (s.passAt core ctx w) s.now)) := by
  rw [exec_mmG hdown hissues henc hcheck, State.enterQueue_waits _ _ ?_, State.stalled]
  rw [State.issued_winsPlace _ _ _ (by decide)]
  rcases hwaits with hnone | hloses
  · rw [hnone]; rfl
  · rw [hloses, Bool.and_false]

theorem State.gatheredBy_ctx (s : State) (c x i : Nat) (r : PassRec) :
    (s.gatheredBy c x i r).ctx c x = s.retired (s.ctx c x) := by
  have hnow : (((s.issued c x).countStalls.joinGroup c x i r).tookTurn c 2 x).now = s.now :=
    congrArg (· / 64) ((s.issued c x).countStalls_frame.2 .hall (by decide))
  exact (State.retire_ctx_of_now hnow c x).trans (s.retired_countStalls (s.issued c x) c x)

theorem State.gatheredBy_onlyCtxAndStalls (s : State) (c : Core) (x : Ctx) (i : Nat) (r : PassRec) :
    OnlyCtxAndStalls s (s.gatheredBy c x i r) c x := by
  intro d y hne
  have hctx : (s.gatheredBy c x i r).ctx d y = (s.issued c x).countStalls.ctx d y := retire_other hne
  rw [hctx]
  rcases (s.issued c x).countStalls_ctx d y with h | h
  · exact .inl h
  · rcases (s.ctx d y).recounted_cases s.now with h' | ⟨p, a, hwait, h'⟩
    · exact .inl (h.trans h')
    · exact .inr ⟨p, a, hwait, h.trans h'⟩

theorem State.gatheredBy_holds (s : State) (c x i : Nat) (r : PassRec) :
    ∃ g, Tbl.get none ((s.gatheredBy c x i r).core c).groups i = some g ∧
      g.Holds (Tbl.get none (s.core c).groups i) ⟨x, r⟩ s.sched := by
  obtain ⟨g, hg, hholds⟩ := (s.issued c x).countStalls.joinGroup_holds c x i r
  rw [State.countStalls_core, State.issued_core,
    sched_of_only (s.issued c x).countStalls_frame (by decide) (by decide) (by decide), State.issued_sched] at hholds
  refine ⟨g, ?_, hholds⟩
  rwa [State.gatheredBy, State.retire, State.mapCtx_core, State.tookTurn, core_mapCore]

/-! ### The gatherer (R145, R146) -/

/-- A group's hold runs out. -/
theorem exec_gatherHoldExpire {s : State} {core : Core} {slot : Fin 4} {g : Group} (hdown : s.down = false)
    (hopen : Tbl.get none (s.core core).groups slot = some g) (hruns : s.frozenAt (g.first + g.hold + s.lag) = false) :
    exec (.gatherHoldExpire core slot) s = .next ((s.reach (g.first + g.hold + s.lag)).mapCore core fun k =>
      { k with groups := Tbl.set none k.groups slot (some { g with expired := true }) }) := by
  change execGatherHoldExpire core slot s = _
  rw [execGatherHoldExpire, act_up hdown]
  dsimp only
  rw [hopen]
  exact congrArg _ (if_neg (by simp [hruns]))

/-- The group of slot `i` is the chosen one; the cause counts, where it has not been chosen before (R153). -/
def State.choose (s : State) (c i : Nat) (g : Group) (why : Nat) : State :=
  s.on (!g.chosen) fun s => (s.count64 0x4010 why).mapCore c fun k =>
    { k with groups := Tbl.set none k.groups i (some { g with chosen := true }) }

theorem State.choose_core (s : State) (c i : Nat) (g : Group) (why : Nat) :
    ∃ gs, (s.choose c i g why).core c = { s.core c with groups := gs } := by
  unfold State.choose State.on
  split
  · exact ⟨_, by rw [core_mapCore, State.count64_core]⟩
  · exact ⟨_, rfl⟩

theorem State.choose_passRoom (s : State) (c i : Nat) (g : Group) (why : Nat) :
    (s.choose c i g why).passRoom c = s.passRoom c := by
  obtain ⟨gs, hcore⟩ := s.choose_core c i g why
  simp only [State.passRoom, hcore]

/-- The gathered pass of a group whose first request is `q` (R147). -/
def Group.pass (g : Group) (q : GatherReq) : PassItem :=
  ⟨none, { q.rec_ with m := g.rows, accBase := 192, accumulate := false, wb := true, rowMask := none }, g.reqs⟩

/-- The chosen group leaves its slot and enters the pass queue. -/
def State.startGroup (s : State) (c i : Nat) (p : PassItem) : State :=
  ((s.mapCore c fun k => { k with groups := Tbl.set none k.groups i none }).tookTurn c 1 8).queuePass c p

theorem State.startGroup_group (s : State) (c i : Nat) (p : PassItem) :
    Tbl.get none ((s.startGroup c i p).core c).groups i = none := by
  simp only [State.startGroup, State.queuePass, State.tookTurn, core_mapCore, Tbl.get_set_same]

theorem State.startGroup_passQ (s : State) (c i : Nat) (p : PassItem) :
    ((s.startGroup c i p).core c).passQ = (s.core c).passQ ++ [p] := by
  simp only [State.startGroup, State.queuePass, State.tookTurn, core_mapCore]

theorem exec_gatherGroupStart {s : State} {core : Core} {i why : Nat} {g : Group} {q : GatherReq} {qs : List GatherReq}
    (hdown : s.down = false) (hready : s.readyGroup core = some (i, g, why)) (hruns : s.frozen = false)
    (hreqs : g.reqs = q :: qs) (hroom : s.passRoom core = true)
    (hwins : s.winsPlace core 1 (s.passContenders core) 8 = true) :
    exec (.gatherGroupStart core) s = .next ((s.choose core i g why).startGroup core i (g.pass q)) := by
  have hroom' : ((s.choose core i g why).passRoom core && s.winsPlace core 1 (s.passContenders core) 8) = true := by
    rw [State.choose_passRoom, hroom, hwins]; rfl
  change execGatherGroupStart core s = _
  rw [execGatherGroupStart, act_up hdown]
  dsimp only
  rw [hready]
  dsimp only
  rw [if_neg (by simp [hruns]), ← State.choose, hroom', Group.pass, hreqs]
  rfl

/-! ### The tiles of a pass (R122, R131, R260-R262) -/

/-- The state after tile `g.tile` of a pass has run from its element bytes. -/
def State.tileRun (s : State) (c : Nat) (g : Running) (bs : List Byte) (coded : Nat) : State :=
  ((s.loadBank c g.item.rec_ g.tile bs).runTile c g g.tile bs).1.on (coded != 0) (·.count64 0x4053 c coded)

/-- The pass after that tile. -/
def State.tilePast (s : State) (c : Nat) (g : Running) (bs : List Byte) : Running :=
  { g with
    deltas := ((s.loadBank c g.item.rec_ g.tile bs).runTile c g g.tile bs).2, tile := g.tile + 1, corrupt := none }

/-- The element bytes of the next tile of a pass. -/
def State.nextTile (s : State) (c : Nat) (g : Running) : Except (Nat × Nat) (List Byte × Nat) :=
  s.tileElems c g.item.rec_ (g.item.rec_.wAddr + g.tile * g.item.rec_.wTile)

theorem State.runTiles_zero (s : State) (c : Nat) (g : Running) : s.runTiles c g 0 = (s, g, none) := rfl

theorem State.runTiles_corrupt {s : State} {c : Nat} {g : Running} {addr rule : Nat} (n : Nat)
    (h : s.nextTile c g = .error (addr, rule)) :
    s.runTiles c g (n + 1) = (s, { g with corrupt := some addr }, some rule) := by
  rw [State.nextTile] at h
  rw [State.runTiles, h]

theorem State.runTiles_ok {s : State} {c : Nat} {g : Running} {bs : List Byte} {coded : Nat} (n : Nat)
    (h : s.nextTile c g = .ok (bs, coded)) :
    s.runTiles c g (n + 1) = (s.tileRun c g bs coded).runTiles c (s.tilePast c g bs) n := by
  rw [State.nextTile] at h
  rw [State.runTiles, h]
  rfl

/-- A tile changes the weight registers of its core, and nothing else of it. -/
theorem State.tileRun_passQ (s : State) (c : Nat) (g : Running) (bs : List Byte) (coded : Nat) :
    ((s.tileRun c g bs coded).core c).passQ = (s.core c).passQ := by
  have hframe : Only [.drawn, .accs, .objects] (s.loadBank c g.item.rec_ g.tile bs) (s.tileRun c g bs coded) :=
    State.on_only (State.runTile_only (Only.refl _ _) (by decide) ..) _ _
      fun _ h => State.count64_only h (by decide) ..
  rw [core_of_only hframe (by decide), State.loadBank, core_mapCore]
  split <;> rfl

/-- How the tiles of a pass go: through all that are asked for, or up to one whose slot is corrupt. -/
theorem State.runTiles_ends (n : Nat) : ∀ (s : State) (c : Nat) (g : Running), g.corrupt = none →
    ((s.runTiles c g n).1.core c).passQ = (s.core c).passQ ∧ (s.runTiles c g n).2.1.item = g.item ∧
    ((s.runTiles c g n).2.1.corrupt = none ∧ (s.runTiles c g n).2.1.tile = g.tile + n ∨
      ∃ addr rule, (s.runTiles c g n).2.1.corrupt = some addr ∧ (s.runTiles c g n).2.2 = some rule) := by
  induction n with
  | zero => exact fun s c g h => ⟨rfl, rfl, .inl ⟨h, rfl⟩⟩
  | succ n ih =>
    intro s c g _
    match h : s.nextTile c g with
    | .error (addr, rule) =>
      rw [State.runTiles_corrupt n h]
      exact ⟨rfl, rfl, .inr ⟨addr, rule, rfl, rfl⟩⟩
    | .ok (bs, coded) =>
      rw [State.runTiles_ok n h]
      obtain ⟨hqueue, hitem, hends⟩ := ih (s.tileRun c g bs coded) c (s.tilePast c g bs) rfl
      refine ⟨hqueue.trans (s.tileRun_passQ c g bs coded), hitem, hends.imp_left fun ⟨hsound, htile⟩ => ⟨hsound, ?_⟩⟩
      calc ((s.tileRun c g bs coded).runTiles c (s.tilePast c g bs) n).2.1.tile
          = g.tile + 1 + n := htile
        _ = g.tile + (n + 1) := by omega

/-- The pass in the frames after its tiles. -/
theorem State.finishTiles_running (s : State) (c : Nat) (g : Running) : ∃ ws ds,
    ((s.finishTiles c g).core c).running = some { g with writes := ws, deltas := ds } := by
  unfold State.finishTiles
  rw [core_mapCore]
  exact ⟨_, _, rfl⟩

theorem State.finishTiles_passQ (s : State) (c : Nat) (g : Running) :
    ((s.finishTiles c g).core c).passQ = (s.core c).passQ := by
  unfold State.finishTiles
  rw [core_mapCore]

theorem State.stallSlot_core (s : State) (c : Nat) (g : Running) (addr rule : Nat) :
    (s.stallSlot c g addr rule).core c = { s.core c with running := some { g with cycles := g.cycles + 8 } } := by
  rw [State.stallSlot, State.log_core, State.count_core, core_mapCore]

/-- What a pass that goes on leaves in the frames: itself, through all its tiles or stalled on a corrupt slot. -/
theorem State.runPass_core {s : State} {c : Nat} {g : Running} (hsound : g.corrupt = none)
    (htile : g.tile ≤ g.item.rec_.t) : ((s.runPass c g).core c).passQ = (s.core c).passQ ∧
    ∃ h, ((s.runPass c g).core c).running = some h ∧ h.item = g.item ∧ (h.corrupt = none → h.tile = g.item.rec_.t) := by
  obtain ⟨hqueue, hitem, hends⟩ := State.runTiles_ends (g.item.rec_.t - g.tile) s c g hsound
  unfold State.runPass
  dsimp only
  generalize s.runTiles c g (g.item.rec_.t - g.tile) = r at hqueue hitem hends ⊢
  rcases hends with ⟨hnone, hall⟩ | ⟨addr, rule, hcorrupt, hrule⟩
  · rw [hnone]
    obtain ⟨ws, ds, hrunning⟩ := r.1.finishTiles_running c r.2.1
    exact ⟨(r.1.finishTiles_passQ c r.2.1).trans hqueue, _, hrunning, hitem, fun _ => hall.trans (by omega)⟩
  · rw [hcorrupt, hrule]
    dsimp only
    rw [State.stallSlot_core]
    exact ⟨hqueue, _, rfl, hitem, fun h => absurd (hcorrupt.symm.trans h) (by simp)⟩

/-! ### PASS_START (R130, R150) -/

/-- A pass as it enters the frames. -/
def State.entering (s : State) (c : Nat) (p : PassItem) : Running := ⟨p, 0, [], p.deltas, p.cycles, s.rowMask c p, none⟩

theorem exec_passStart {s : State} {core : Core} {p : PassItem} {ps : List PassItem} (hdown : s.down = false)
    (hfree : (s.core core).running = none) (hqueue : (s.core core).passQ = p :: ps) (hawake : s.coreAwake core = true)
    (hgate : (s.core core).gated = false) : exec (.passStart core) s =
      .next ((s.setCore core { s.core core with passQ := ps }).runPass core (s.entering core p)) := by
  change execPassStart core s = _
  rw [execPassStart, act_up hdown]
  dsimp only
  rw [hfree, hqueue]
  dsimp only
  rw [if_neg (by simp [hawake, hgate]), State.entering]

/-! ### PASS_COMPLETE (R133, R134) -/

/-- The pass leaves the frames: its rows are written back, its deltas sent, and it is counted. -/
def State.wroteBack (s : State) (c : Nat) (g : Running) : State :=
  ((((s.setCore c { s.core c with running := none }).each g.writes fun s w => s.storeWrite c 2 w.1 w.2).sendDeltas
    g.deltas).count64 0x4011 c).count64 0x4013 c (g.item.busyCycles g.mask)

theorem exec_passComplete {s : State} {core : Core} {g : Running} (hdown : s.down = false)
    (hrunning : (s.core core).running = some g) (hruns : (s.core core).suspended = false) (hsound : g.corrupt = none)
    (hdone : g.item.rec_.t ≤ g.tile) : exec (.passComplete core) s = .next
      (((s.wroteBack core g).each g.item.doneSems fun s n => s.postDone core n true).evalWaitQ core) := by
  change execPassComplete core s = _
  rw [execPassComplete, act_up hdown]
  dsimp only
  rw [hrunning]
  exact congrArg _ (if_neg (by simp [hruns, hsound, hdone]))

/-- Writes to a core's result store are writes to the memory of stores. -/
theorem State.each_storeWrite_stores (s : State) (c : Nat) (ws : List (Nat × List Byte)) :
    (s.each ws fun s w => s.storeWrite c 2 w.1 w.2).stores =
      ws.foldl (fun m x => Memory.write m (storeKey c 2 x.1) x.2) s.stores :=
  (List.foldl_hom State.stores fun _ _ => rfl).symm

theorem State.each_storeWrite_frame (s : State) (c : Nat) (ws : List (Nat × List Byte)) :
    Only [.stores] s (s.each ws fun s w => s.storeWrite c 2 w.1 w.2) :=
  State.each_only (Only.refl _ s) _ _ fun _ _ h => State.storeWrite_only h (by decide) ..

theorem State.wroteBack_stores (s : State) (c : Nat) (g : Running) : (s.wroteBack c g).stores =
    g.writes.foldl (fun m x => Memory.write m (storeKey c 2 x.1) x.2) s.stores := State.each_storeWrite_stores ..

theorem State.wroteBack_running (s : State) (c : Nat) (g : Running) : ((s.wroteBack c g).core c).running = none := by
  rw [State.wroteBack, State.count64_core, State.count64_core, State.sendDeltas_core,
    core_of_only (State.each_storeWrite_frame ..) (by decide), State.core_setCore]

theorem State.wroteBack_deltas (s : State) (c : Nat) (g : Running) : (s.wroteBack c g).deltas = s.deltas ++ g.deltas :=
  congrArg (· ++ g.deltas) ((State.each_storeWrite_frame ..).2 .deltas (by decide))

theorem State.wroteBack_sems (s : State) (c : Nat) (g : Running) : (s.wroteBack c g).sems = s.sems :=
  (State.each_storeWrite_frame ..).2 .sems (by decide)

/-- A wake changes nothing of the frames. -/
theorem State.wakeCore_running (s : State) (c : Nat) : ((s.wakeCore c).core c).running = (s.core c).running := by
  rw [State.wakeCore, core_mapCore, core_of_only (s.wakeDie_frame _) (by decide)]
  split <;> rfl

theorem State.breakSem_frame (s : State) (c n : Nat) :
    Only [.out, .hold, .links, .ctxs, .sems, .objects, .ring, .msix, .alert] s (s.breakSem c n) :=
  State.breakSem_only (Only.refl _ s) (by decide) c n

theorem State.evalSem_frame (s : State) (c n : Nat) :
    Only [.out, .hold, .links, .ctxs, .sems, .objects, .ring, .msix, .alert] s (s.evalSem c n) :=
  State.evalSem_only (Only.refl _ s) (by decide) c n

/-- A post changes nothing of the frames. -/
theorem State.post_running (s : State) (c sem n : Nat) (inner : Bool) :
    ((s.post c sem n inner).core c).running = (s.core c).running := by
  unfold State.post
  split
  · rw [State.log_core, State.count_core]
  · dsimp only
    split
    · rw [State.wakeCore_running, core_mapCore]
    · generalize (if inner = true then { s.sem c sem with innerPosts := (s.sem c sem).innerPosts + n }
        else s.sem c sem) = v
      split
      · rw [core_of_only (State.breakSem_frame ..) (by decide), State.log_core, State.setSem_core]
      · rw [core_of_only (State.evalSem_frame ..) (by decide)]
        refine (congrArg (·.running) (State.each_part (·.core c) _ _ fun u x => ?_)).trans
          (congrArg (·.running) (State.setSem_core ..))
        split
        · split
          · exact State.mapCtx_core ..
          · rfl
        · rfl

theorem State.postDone_running (s : State) (c sem : Nat) (inner : Bool) :
    ((s.postDone c sem inner).core c).running = (s.core c).running := by
  unfold State.postDone
  split
  · rfl
  · exact State.post_running ..

theorem State.evalWaitQ_frame (s : State) (c : Nat) : Only [.ctxs] s (s.evalWaitQ c) :=
  State.evalWaitQ_only (Only.refl _ s) (by decide) c

/-- What ends a pass: its posts, and the waits for its items. -/
theorem State.posted_frame (s : State) (c : Nat) (sems : List Nat) :
    Only [.out, .hold, .links, .cores, .ctxs, .sems, .dies, .objects, .ring, .msix, .supply, .alert] s
      ((s.each sems fun s n => s.postDone c n true).evalWaitQ c) :=
  State.evalWaitQ_only (State.each_only (Only.refl _ s) _ _ fun _ _ h => State.postDone_only h (by decide) ..)
    (by decide) c

theorem State.posted_running (s : State) (c : Nat) (sems : List Nat) :
    ((((s.each sems fun s n => s.postDone c n true).evalWaitQ c).core c)).running = (s.core c).running := by
  rw [core_of_only (State.evalWaitQ_frame ..) (by decide)]
  exact State.each_part (fun s => (s.core c).running) _ _ fun s n => s.postDone_running c n true

/-! ### EXPANDER_RETRY (R262, R428) -/

/-- The slot is corrupt again: the pass leaves the frames, counted and logged. -/
def State.lostPass (s : State) (c addr rule : Nat) : State :=
  ((s.mapCore c fun k => { k with running := none }).count 0x4052 c).log 0x4051 (domCore c)
    [(8, c), (48, addr), (8, s.mapByte c addr), (8, rule)]

/-- The DONE_SEMs of a lost pass break, and the waits for its items end. -/
def State.breakDones (s : State) (c : Nat) (sems : List Nat) : State :=
  (s.each sems fun s n => s.breakDone c n).evalWaitQ c

/-- The core whose pass is lost recovers; one that has recovered since its last fence, or recovers now, fails the job
stage (R428). -/
def State.passFailure (v : State) (c : Nat) : State :=
  if v.faults.recovered.contains c || (v.recovery c).isSome then
    ((v.setRecovery c none).schedFault.faultCount 4).jobFail 4
  else v.startRecovery c 4 none

/-- What the retry of the slot at `addr` comes to, by how the tiles of pass `g` then go (`r`). -/
def State.retried (s : State) (c : Nat) (g : Running) (addr : Nat) (r : State × Running × Option Nat) : State :=
  match r.2.1.corrupt, r.2.2 with
  | some a, some rule =>
    if a = addr ∧ r.2.1.tile = g.tile then ((s.lostPass c addr rule).breakDones c g.item.doneSems).passFailure c
    else r.1.stallSlot c r.2.1 a rule
  | _, _ => r.1.finishTiles c r.2.1

theorem exec_expanderRetry {s : State} {core : Core} {g : Running} {addr : Nat} (hdown : s.down = false)
    (hrunning : (s.core core).running = some g) (hcorrupt : g.corrupt = some addr) (hgate : (s.core core).gated = false)
    (hruns : (s.core core).suspended = false) : exec (.expanderRetry core) s =
      .next (s.retried core g addr (s.runTiles core g (g.item.rec_.t - g.tile))) := by
  change execExpanderRetry core s = _
  rw [execExpanderRetry, act_up hdown]
  dsimp only
  rw [hrunning]
  dsimp only
  rw [hcorrupt]
  exact congrArg _ (if_neg (by simp [hgate, hruns]))

/-- A slot that is corrupt again. -/
theorem exec_expanderRetry_again {s : State} {core : Core} {g : Running} {addr rule : Nat} (hdown : s.down = false)
    (hrunning : (s.core core).running = some g) (hcorrupt : g.corrupt = some addr) (hgate : (s.core core).gated = false)
    (hruns : (s.core core).suspended = false) (htile : g.tile < g.item.rec_.t)
    (hagain : s.nextTile core g = .error (addr, rule)) : exec (.expanderRetry core) s =
      .next (((s.lostPass core addr rule).breakDones core g.item.doneSems).passFailure core) := by
  have hleft : g.item.rec_.t - g.tile = (g.item.rec_.t - g.tile - 1) + 1 := by omega
  rw [exec_expanderRetry hdown hrunning hcorrupt hgate hruns, hleft, State.runTiles_corrupt _ hagain]
  exact congrArg _ (if_pos ⟨rfl, rfl⟩)

/-- A slot of the last tile that is read well. -/
theorem exec_expanderRetry_last {s : State} {core : Core} {g : Running} {addr coded : Nat} {bs : List Byte}
    (hdown : s.down = false) (hrunning : (s.core core).running = some g) (hcorrupt : g.corrupt = some addr)
    (hgate : (s.core core).gated = false) (hruns : (s.core core).suspended = false)
    (hlast : g.item.rec_.t = g.tile + 1) (hsound : s.nextTile core g = .ok (bs, coded)) :
    exec (.expanderRetry core) s =
      .next ((s.tileRun core g bs coded).finishTiles core (s.tilePast core g bs)) := by
  have hleft : g.item.rec_.t - g.tile = 0 + 1 := by omega
  rw [exec_expanderRetry hdown hrunning hcorrupt hgate hruns, hleft, State.runTiles_ok _ hsound, State.runTiles_zero]
  rfl

theorem State.lostPass_logged (s : State) (c addr rule : Nat) : Logged s (s.lostPass c addr rule) [0x4051] :=
  logged1 rfl 0x4051 _ _ (by decide)

theorem State.lostPass_running (s : State) (c addr rule : Nat) : ((s.lostPass c addr rule).core c).running = none := by
  rw [State.lostPass, State.log_core, State.count_core, core_mapCore]

theorem State.breakDones_frame (s : State) (c : Nat) (sems : List Nat) :
    Only [.out, .hold, .links, .ctxs, .sems, .objects, .ring, .msix, .alert] s (s.breakDones c sems) :=
  State.evalWaitQ_only (State.each_only (Only.refl _ s) _ _ fun _ _ h => State.breakDone_only h (by decide) ..)
    (by decide) c

theorem State.passFailure_frame (v : State) (c : Nat) :
    Only [.out, .hold, .links, .ctxs, .objects, .ring, .faults, .msix, .alert] v (v.passFailure c) := by
  unfold State.passFailure
  exact Only.ite
    (State.jobFail_only (State.faultCount_only (State.schedFault_only (State.setRecovery_only (Only.refl _ v)
      (by decide) ..) (by decide)) (by decide) _) (by decide) _)
    (State.startRecovery_only (Only.refl _ v) (by decide) ..)

/-! ### The schedule-fault flag stays (R81, R85) -/

theorem HallHold.joinOne_schedFault (h : HallHold) (i : HoldId) (tick : Nat) :
    (h.joinOne i tick).schedFault = h.schedFault := by
  unfold HallHold.joinOne
  split
  · rfl
  · split
    · rfl
    · split <;> rfl

theorem HallHold.join_schedFault (h : HallHold) (i : HoldId) (tick : Nat) :
    (h.join i tick).schedFault = h.schedFault := by
  have hlater : ∀ (xs : List (HoldId × Nat)) (g : HallHold),
      (xs.foldl (fun h x => h.joinOne x.1 x.2) g).schedFault = g.schedFault := by
    intro xs
    induction xs with
    | nil => exact fun _ => rfl
    | cons x xs ih => exact fun g => (ih _).trans (g.joinOne_schedFault x.1 x.2)
  unfold HallHold.join
  dsimp only
  split
  · exact h.joinOne_schedFault i tick
  · exact (hlater _ _).trans (h.joinOne_schedFault i tick)

theorem State.firstSeen_schedFault (s : State) (origin seq kind : Nat) :
    (s.firstSeen origin seq kind).2.hold.schedFault = s.hold.schedFault := by
  unfold State.firstSeen
  split <;> rfl

theorem State.originateHold_schedFault (s : State) (cause : Nat) :
    (s.originateHold cause).2.hold.schedFault = s.hold.schedFault := by
  rw [State.originateHold, State.originateHoldAt_hold]
  exact (HallHold.join_schedFault ..).trans (State.firstSeen_schedFault ..)

/-- The failure of a job stage raises the flag, and none lowers it. -/
theorem State.jobFail_schedFault {s : State} (cause : Nat) (hflag : s.hold.schedFault = true) :
    (s.jobFail cause).hold.schedFault = true := by
  unfold State.jobFail
  split
  · exact hflag
  · rfl

/-- A core that starts to recover has raised it. -/
theorem State.startRecovery_schedFault (s : State) (c cause : Nat) (mover : Option (Fin 2)) :
    (s.startRecovery c cause mover).hold.schedFault = true := by
  unfold State.startRecovery
  dsimp only
  split
  · exact State.jobFail_schedFault cause rfl
  · rw [(State.snapshot_only (parts := [.ctxs, .objects, .ring, .faults]) (Only.refl _ _) (by decide) c).2 .hold
      (by decide)]
    exact State.originateHold_schedFault ..

theorem State.passFailure_schedFault (v : State) (c : Nat) : (v.passFailure c).hold.schedFault = true := by
  unfold State.passFailure
  split
  · exact State.jobFail_schedFault 4 rfl
  · exact State.startRecovery_schedFault ..

/-! ### The frame gate (R151) -/

theorem exec_frameGateApply {s : State} {core : Core} (hdown : s.down = false) : exec (.frameGateApply core) s =
    .next (s.mapCore core fun k => { k with gated := s.supply.cut, suspended := s.supply.cut && k.running.isSome }) :=
  exec_of_act (f := fun s => s.mapCore core fun k =>
    { k with gated := s.supply.cut, suspended := s.supply.cut && k.running.isSome }) rfl hdown

/-- Settles O30, from what each command of the pass queue, the gatherer, the frames and the expander leaves. -/
theorem matrixPasses : Obligations.MatrixPasses := by
  intro s core ctx w hdown
  refine ⟨fun hissues henc hcheck => ⟨fun henters => ?mmEnters, fun hwaits => ?mmWaits⟩,
    fun hissues henc hcheck => ⟨fun i hslot hwins => ?mmGEnters, fun hwaits => ?mmGWaits⟩,
    fun slot g hopen hruns => ?expire, fun i g why q qs hready hruns hreqs hroom hwins => ?group,
    fun p ps hfree hqueue hawake hgate => ?start, fun g hrunning hruns hsound hdone => ?complete,
    fun g addr hrunning hcorrupt htile hgate hruns =>
      ⟨fun rule hagain => ?again, fun bs coded hsound hlast => ?last⟩, ?gate⟩
  case mmEnters =>
    exact ⟨_, exec_mm_enters hdown hissues henc hcheck henters, s.queuedBy_onlyCtx core ctx _, State.queuedBy_ctx ..,
      State.queuedBy_passQ ..⟩
  case mmWaits =>
    exact ⟨_, exec_mm_waits hdown hissues henc hcheck hwaits, s.stalled_onlyCtx core ctx _, State.stalled_ctx ..,
      by rw [State.stalled_core]⟩
  case mmGEnters =>
    obtain ⟨g, hg, hholds⟩ := s.gatheredBy_holds core ctx i (s.passAt core ctx w)
    refine ⟨_, g, exec_mmG_enters hdown hissues henc hcheck hslot hwins, s.gatheredBy_onlyCtxAndStalls core ctx i _,
      State.gatheredBy_ctx .., hg, ?_⟩
    exact hholds
  case mmGWaits =>
    exact ⟨_, exec_mmG_waits hdown hissues henc hcheck hwaits, s.stalled_onlyCtx core ctx _,
      by rw [State.stalled_core], State.stalled_ctx ..⟩
  case expire =>
    refine ⟨_, exec_gatherHoldExpire hdown hopen hruns, (State.mapCore_hall ..).trans (State.reach_hall' _), ?_⟩
    rw [core_mapCore, Tbl.get_set_same]
  case group =>
    obtain ⟨gs, hcore⟩ := s.choose_core core i g why
    refine ⟨_, exec_gatherGroupStart hdown hready hruns hreqs hroom hwins, State.startGroup_group .., ?_⟩
    rw [State.startGroup_passQ, hcore, Group.pass]
  case start =>
    obtain ⟨hqueue', g, hrunning, hitem, hall⟩ := State.runPass_core
      (s := s.setCore core { s.core core with passQ := ps }) (c := core) (g := s.entering core p) rfl (Nat.zero_le _)
    rw [State.core_setCore] at hqueue'
    exact ⟨_, g, exec_passStart hdown hfree hqueue hawake hgate, hqueue', hrunning, hitem, hall⟩
  case complete =>
    have hframe := (s.wroteBack core g).posted_frame core g.item.doneSems
    exact ⟨_, s.wroteBack core g, exec_passComplete hdown hrunning hruns hsound hdone, rfl,
      (State.posted_running ..).trans (s.wroteBack_running core g),
      (hframe.2 .deltas (by decide)).trans (s.wroteBack_deltas core g), s.wroteBack_sems core g,
      (hframe.2 .stores (by decide)).trans (s.wroteBack_stores core g)⟩
  case again =>
    refine ⟨_, s.lostPass core addr rule,
      exec_expanderRetry_again hdown hrunning hcorrupt hgate hruns htile hagain, s.lostPass_logged core addr rule, ?_,
      State.passFailure_schedFault .., rfl⟩
    rw [core_of_only (State.passFailure_frame ..) (by decide), core_of_only (State.breakDones_frame ..) (by decide)]
    exact s.lostPass_running core addr rule
  case last =>
    obtain ⟨ws, ds, hpass⟩ := (s.tileRun core g bs coded).finishTiles_running core (s.tilePast core g bs)
    exact ⟨_, _, exec_expanderRetry_last hdown hrunning hcorrupt hgate hruns hlast hsound, hpass, rfl, rfl, rfl⟩
  case gate =>
    refine ⟨_, exec_frameGateApply hdown, ?_, ?_⟩ <;> rw [core_mapCore]

end Sys2Proof.Machine

/-!
Elements narrower than a byte (O12): bytes and packed codes spell numbers, to base 256 and to base 2 ^ w, and an
element is a field of the number.
-/
namespace Sys2Proof.Machine

/-! ### Fields of numbers -/

/-- Bits `m` and above of a number do not reach its field of `n` bits from `lo` on. -/
theorem mod_div_mod_two_pow (x : Nat) {m lo n : Nat} (h : lo + n ≤ m) :
    x % 2 ^ m / 2 ^ lo % 2 ^ n = x / 2 ^ lo % 2 ^ n := by
  obtain ⟨k, rfl⟩ := Nat.exists_eq_add_of_le h
  rw [Nat.add_assoc, Nat.pow_add, Nat.mod_mul_right_div_self, Nat.pow_add, Nat.mod_mul_right_mod]

/-- A field of `m` bits that stand `k` bits up in a number is a field of the number. -/
theorem fld_div_mod (x : Nat) {k m hi lo : Nat} (hlo : lo ≤ hi) (hhi : hi < m) :
    fld (x / 2 ^ k % 2 ^ m) hi lo = fld x (k + hi) (k + lo) := by
  have hwidth : k + hi + 1 - (k + lo) = hi + 1 - lo := by omega
  rw [fld, fld, mod_div_mod_two_pow _ (by omega), Nat.div_div_eq_div_mul, ← Nat.pow_add, hwidth]

/-! ### Digits of numbers -/

/-- Digit `i` of a number that digits spell; there is none past the last. -/
theorem ofDigits_div_pow_mod {b : Nat} (hb : 0 < b) {ds : List Nat} (hds : ∀ d ∈ ds, d < b) (i : Nat) :
    Nat.ofDigits b ds / b ^ i % b = ds.getD i 0 := by
  calc Nat.ofDigits b ds / b ^ i % b
      = Nat.ofDigits b (ds.drop i) % b ^ 1 := by
        rw [Nat.ofDigits_div_pow_eq_ofDigits_drop i hb ds hds, Nat.pow_one]
    _ = Nat.ofDigits b ((ds.drop i).take 1) :=
        Nat.ofDigits_mod_pow_eq_ofDigits_take 1 hb _ fun d hd => hds d (List.mem_of_mem_drop hd)
    _ = ds.getD i 0 := by
        rcases Nat.lt_or_ge i ds.length with hin | hout
        · rw [List.take_one_drop_eq_of_lt_length hin, Nat.ofDigits_singleton, List.get_eq_getElem,
            List.getD_eq_getElem _ _ hin]
        · rw [List.drop_eq_nil_of_le hout, List.take_nil, Nat.ofDigits_nil, List.getD_eq_default _ _ hout]

/-! ### Bytes (R9) -/

/-- Bytes are the digits to base 256 of the number that they spell. -/
theorem leNat_eq_ofDigits (bs : List Byte) : leNat bs = Nat.ofDigits (2 ^ 8) (bs.map BitVec.toNat) := by
  induction bs with
  | nil => rfl
  | cons b bs ih => rw [leNat, List.map_cons, Nat.ofDigits_cons, ih]; norm_num

theorem toNat_lt_of_mem {bs : List Byte} : ∀ d ∈ bs.map BitVec.toNat, d < 2 ^ 8 :=
  List.forall_mem_map.mpr fun b _ => b.isLt

/-- The number that a window of `n` bytes spells, from byte `k` on. -/
theorem leNat_take_drop (bs : List Byte) (k n : Nat) :
    leNat ((bs.drop k).take n) = leNat bs / 2 ^ (8 * k) % 2 ^ (8 * n) := by
  simp only [leNat_eq_ofDigits, List.map_take, List.map_drop, Nat.pow_mul]
  rw [Nat.ofDigits_div_pow_eq_ofDigits_drop k (by decide) _ toNat_lt_of_mem,
    Nat.ofDigits_mod_pow_eq_ofDigits_take n (by decide) _ fun d hd => toNat_lt_of_mem d (List.mem_of_mem_drop hd)]

/-- Byte `i` of the number that bytes spell. -/
theorem toNat_getD_eq (bs : List Byte) (i : Nat) : (bs.getD i 0).toNat = leNat bs / 2 ^ (8 * i) % 2 ^ 8 := by
  rw [leNat_eq_ofDigits, Nat.pow_mul, ofDigits_div_pow_mod (by decide) toNat_lt_of_mem]
  exact (List.getD_map ..).symm

/-! ### Elements (R159) -/

/-- An element of `w` bits is bits `w i` and up of the number that its bytes spell: the window that `elemAt` reads
holds the element whole. -/
theorem elemAt_eq (bs : List Byte) (w i : Nat) : elemAt bs w i = leNat bs / 2 ^ (w * i) % 2 ^ w := by
  have hplace : 8 * (w * i / 8) + w * i % 8 = w * i := Nat.div_add_mod ..
  rw [elemAt, leNat_take_drop, mod_div_mod_two_pow _ (by omega), Nat.div_div_eq_div_mul, ← Nat.pow_add, hplace]

/-- The same, as a field. -/
theorem elemAt_eq_fld (bs : List Byte) {w : Nat} (hw : 0 < w) (i : Nat) :
    elemAt bs w i = fld (leNat bs) (w * i + w - 1) (w * i) := by
  have hwidth : w * i + w - 1 + 1 - w * i = w := by omega
  rw [elemAt_eq, fld, hwidth]

/-- The codes, cut to `w` bits, are the digits to base `2 ^ w` of the number whose bytes are packed. -/
theorem packElems_eq (w : Nat) (cs : List Nat) :
    packElems w cs = leBytes ((w * cs.length + 7) / 8) (Nat.ofDigits (2 ^ w) (cs.map (· % 2 ^ w))) := by
  rw [packElems, Nat.ofDigits_eq_foldr, List.foldr_map]
  rfl

theorem packElems_length (w : Nat) (cs : List Nat) : (packElems w cs).length = (w * cs.length + 7) / 8 :=
  leBytes_length ..

/-- A code cut to `w` bits is a digit to base `2 ^ w`. -/
theorem mod_lt_of_mem (w : Nat) {cs : List Nat} : ∀ d ∈ cs.map (· % 2 ^ w), d < 2 ^ w :=
  List.forall_mem_map.mpr fun c _ => Nat.mod_lt c (Nat.two_pow_pos w)

/-- The packed bytes spell that number whole. -/
theorem leNat_packElems {w : Nat} (hw : 0 < w) (cs : List Nat) :
    leNat (packElems w cs) = Nat.ofDigits (2 ^ w) (cs.map (· % 2 ^ w)) := by
  rw [packElems_eq]
  refine leNat_leBytes _ _ ?_
  calc Nat.ofDigits (2 ^ w) (cs.map (· % 2 ^ w))
      < (2 ^ w) ^ (cs.map (· % 2 ^ w)).length :=
        Nat.ofDigits_lt_base_pow_length (Nat.one_lt_two_pow hw.ne') (mod_lt_of_mem w)
    _ = 2 ^ (w * cs.length) := by rw [List.length_map, Nat.pow_mul]
    _ ≤ 2 ^ (8 * ((w * cs.length + 7) / 8)) := Nat.pow_le_pow_right (by decide) (by omega)
    _ = 256 ^ ((w * cs.length + 7) / 8) := Nat.pow_mul ..

/-- What is packed is read back, cut to its width. -/
theorem elemAt_packElems {w : Nat} (hw : 0 < w) (cs : List Nat) (i : Nat) :
    elemAt (packElems w cs) w i = cs.getD i 0 % 2 ^ w := by
  rw [elemAt_eq, leNat_packElems hw, Nat.pow_mul, ofDigits_div_pow_mod (Nat.two_pow_pos w) (mod_lt_of_mem w)]
  simpa only [Nat.zero_mod] using List.getD_map (n := i) cs 0 (· % 2 ^ w)

/-- Settles O12: an element is a field of the number that the bytes spell, and what is packed spells its codes. -/
theorem narrowElementsArePacked : Obligations.NarrowElementsArePacked := by
  refine ⟨by decide, fun bs i _ => ⟨?low, ?high⟩, fun bs g j _ hj => ?group, fun cs hcs => ?block,
    fun w cs i hw _ => elemAt_packElems (by omega) cs i⟩
  case low | high =>
    rw [elemAt_eq_fld _ (by decide), toNat_getD_eq, fld_div_mod _ (by decide) (by decide)]
    congr 1 <;> omega
  case group =>
    rw [elemAt_eq_fld _ (by decide), leNat_take_drop, fld_div_mod _ (by omega) (by omega)]
    congr 1 <;> omega
  case block => rw [packElems_length, packElems_length, hcs]; decide

end Sys2Proof.Machine

/-!
Vector instructions (O31): what enters the vector queue of a core, and what its oldest instruction leaves as it
completes.
-/
namespace Sys2Proof.Machine

/-! ### An instruction enters a queue of its core (R184) -/

/-- The state after an instruction whose item, by `f`, has entered queue `q` of its core. -/
def State.enteredBy (s : State) (c x q : Nat) (f : CoreSt → CoreSt) : State :=
  (((s.issued c x).mapCore c f).tookTurn c q x).retire c x

theorem State.enteredBy_ctx (s : State) (c x q : Nat) (f : CoreSt → CoreSt) :
    (s.enteredBy c x q f).ctx c x = s.retired (s.ctx c x) := by
  have hnow : (((s.issued c x).mapCore c f).tookTurn c q x).now = s.now := by
    rw [State.tookTurn, State.mapCore_now, State.mapCore_now, State.issued_now]
  rw [State.enteredBy, State.retire_ctx_of_now hnow, tookTurn_ctx, State.mapCore_ctx, State.issued_ctx]

theorem State.enteredBy_onlyCtx (s : State) (c : Core) (x : Ctx) (q : Nat) (f : CoreSt → CoreSt) :
    OnlyCtx s (s.enteredBy c x q f) c x := by
  intro d y hne
  rw [State.enteredBy, retire_other hne, tookTurn_ctx, State.mapCore_ctx, State.issued_ctx]

/-- The core of that state, but for the turns that its contexts have had. -/
theorem State.enteredBy_core (s : State) (c x q : Nat) (f : CoreSt → CoreSt) : ∃ ts,
    (s.enteredBy c x q f).core c = { f ((s.issued c x).core c) with turns := ts } := by
  rw [State.enteredBy, State.retire, State.mapCtx_core, State.tookTurn, core_mapCore, core_mapCore]
  exact ⟨_, rfl⟩

/-! ### The fourteen vector instructions (R190, R195) -/

/-- The commands of the vector instructions of a context, with their opcodes. -/
def vecInstrs (core : Core) (ctx : Ctx) : List (Instr × Nat) :=
  [(.vadd core ctx, 0x20), (.vsub core ctx, 0x21), (.vmul core ctx, 0x22), (.vfma core ctx, 0x23),
    (.vmax core ctx, 0x24), (.vmin core ctx, 0x25), (.vcvt core ctx, 0x26), (.vaddCp core ctx, 0x27),
    (.vredSum core ctx, 0x28), (.vredMax core ctx, 0x29), (.vredSsq core ctx, 0x2A), (.sfExp core ctx, 0x30),
    (.sfLog core ctx, 0x31), (.sfRsqrt core ctx, 0x32)]

/-- Each of them issues by its opcode, which R190 lists. -/
theorem exec_of_mem_vecInstrs {core : Core} {ctx : Ctx} {p : Instr × Nat} (hp : p ∈ vecInstrs core ctx) (s : State) :
    exec p.1 s = act s (·.issueVec core ctx p.2) ∧ listedOpcode p.2 = true := by
  fin_cases hp <;> exact ⟨rfl, rfl⟩

/-- A vector instruction that passes its checks contends for a place in the vector queue. -/
theorem State.issueVec_passes {s : State} {c x op w : Nat} (hissues : s.Issues c x op w)
    (hlisted : listedOpcode op = true) (henc : vecEnc op w = none) (hok : (s.vecItem c x w).ok = true) :
    s.issueVec c x op = (s.issued c x).enterQueue c x 3 (s.vecContenders c) (decide ((s.core c).vecQ.length < 8))
      (·.queueVec c (s.vecItem c x w)) (.vec (s.vecItem c x w)) := by
  have hdyn : failIf (!((s.tookTurn c 0 x).vecItem c x w).ok) 5 = none := by
    rw [show (s.tookTurn c 0 x).vecItem c x w = s.vecItem c x w from rfl, hok]
    rfl
  have hroom : ((s.issued c x).core c).vecQ = (s.core c).vecQ := by rw [State.issued_core]
  rw [State.issueVec, issue_runs hissues hlisted _ henc hdyn, ← State.issued, hroom]
  rfl

/-- It enters the queue. -/
theorem exec_vec_enters {s : State} {core : Core} {ctx : Ctx} {w : Nat} {p : Instr × Nat} (hdown : s.down = false)
    (hp : p ∈ vecInstrs core ctx) (hissues : s.Issues core ctx p.2 w) (henc : vecEnc p.2 w = none)
    (hok : (s.vecItem core ctx w).ok = true)
    (henters : (decide ((s.core core).vecQ.length < 8) &&
      s.winsPlace core 3 (insertAsc ctx (s.vecContenders core)) ctx) = true) :
    exec p.1 s = .next (s.enteredBy core ctx 3 fun k => { k with vecQ := k.vecQ ++ [s.vecItem core ctx w] }) := by
  obtain ⟨hrow, hlisted⟩ := exec_of_mem_vecInstrs hp s
  rw [exec_of_act hrow hdown, State.issueVec_passes hissues hlisted henc hok,
    State.enterQueue_enters _ _ (by rwa [State.issued_winsPlace _ _ _ (by decide)])]
  rfl

/-- Its context waits with it. -/
theorem exec_vec_waits {s : State} {core : Core} {ctx : Ctx} {w : Nat} {p : Instr × Nat} (hdown : s.down = false)
    (hp : p ∈ vecInstrs core ctx) (hissues : s.Issues core ctx p.2 w) (henc : vecEnc p.2 w = none)
    (hok : (s.vecItem core ctx w).ok = true)
    (hwaits : (decide ((s.core core).vecQ.length < 8) &&
      s.winsPlace core 3 (insertAsc ctx (s.vecContenders core)) ctx) = false) :
    exec p.1 s = .next (s.stalled core ctx (.vec (s.vecItem core ctx w))) := by
  obtain ⟨hrow, hlisted⟩ := exec_of_mem_vecInstrs hp s
  rw [exec_of_act hrow hdown, State.issueVec_passes hissues hlisted henc hok,
    State.enterQueue_waits _ _ (by rwa [State.issued_winsPlace _ _ _ (by decide)]), State.stalled]

/-! ### VECTOR_COMPLETE (R185) -/

/-- Writes by operand address into the stores of a core (R195, R256). -/
def State.writeOperands (s : State) (c : Nat) (ws : List (Nat × List Byte)) : State :=
  s.each ws fun s w => s.storeWriteRaw c (fld w.1 32 31) (fld w.1 22 0) w.2

theorem State.storeWriteRaw_stores (s : State) (c st off : Nat) (bs : List Byte) :
    (s.storeWriteRaw c st off bs).stores = Memory.write s.stores (storeKey c st off) bs := by
  unfold State.storeWriteRaw
  dsimp only
  split <;> rfl

theorem State.writeOperands_stores (s : State) (c : Nat) (ws : List (Nat × List Byte)) :
    (s.writeOperands c ws).stores =
      ws.foldl (fun m y => Memory.write m (storeKey c (fld y.1 32 31) (fld y.1 22 0)) y.2) s.stores :=
  (List.foldl_hom State.stores fun _ _ => (State.storeWriteRaw_stores ..).symm).symm

/-- The oldest vector instruction, `x`, has left the queue, its results are stored, and its outcomes are sent. -/
def State.vecDone (s : State) (c : Nat) (x : VecItem) (xs : List VecItem) : State :=
  (((s.setCore c { s.core c with vecQ := xs }).writeOperands c (s.vecRun c x).writes).countFlushed
    (s.vecRun c x).subs).sendDeltas [s.tally (.empty x.tag x.dstFmt) (s.vecRun c x).counts]

theorem State.writeOperands_countFlushed_frame (s : State) (c : Nat) (ws : List (Nat × List Byte)) (n : Nat) :
    Only [.stores, .maps, .objects] s ((s.writeOperands c ws).countFlushed n) :=
  State.countFlushed_only (State.each_only (Only.refl _ s) _ _ fun _ _ h => State.storeWriteRaw_only h (by decide) ..)
    (by decide) n

theorem tally_of_only {s t : State} {ps : List Part} (h : Only ps s t) (hp : Part.job ∉ ps) (d : Delta)
    (os : List Outcome) : t.tally d os = s.tally d os := by
  rw [State.tally, State.tally, h.2 .job hp]

theorem exec_vectorComplete {s : State} {core : Core} {x : VecItem} {xs : List VecItem} (hdown : s.down = false)
    (hqueue : (s.core core).vecQ = x :: xs) (hawake : s.coreAwake core = true) : exec (.vectorComplete core) s =
      .next (((s.vecDone core x xs).postDone core x.doneSem true).evalWaitQ core) := by
  change execVectorComplete core s = _
  rw [execVectorComplete, act_up hdown]
  dsimp only
  rw [hqueue]
  dsimp only
  rw [if_neg (by simp [hawake])]
  have htally := tally_of_only (State.writeOperands_countFlushed_frame (s.setCore core { s.core core with vecQ := xs })
    core (s.vecRun core x).writes (s.vecRun core x).subs) (by decide) (.empty x.tag x.dstFmt) (s.vecRun core x).counts
  rw [State.writeOperands] at htally
  rw [htally]
  rfl

theorem State.vecDone_stores (s : State) (c : Nat) (x : VecItem) (xs : List VecItem) : (s.vecDone c x xs).stores =
    (s.vecRun c x).writes.foldl (fun m y => Memory.write m (storeKey c (fld y.1 32 31) (fld y.1 22 0)) y.2) s.stores := by
  have hflushed (u : State) (n : Nat) : (u.countFlushed n).stores = u.stores :=
    (State.countFlushed_only (parts := [.objects]) (Only.refl _ u) (by decide) n).2 .stores (by decide)
  rw [State.vecDone, State.sendDeltas_stores, hflushed, State.writeOperands_stores, State.setCore_stores]

theorem State.vecDone_vecQ (s : State) (c : Nat) (x : VecItem) (xs : List VecItem) :
    ((s.vecDone c x xs).core c).vecQ = xs := by
  rw [State.vecDone, State.sendDeltas_core, core_of_only (State.writeOperands_countFlushed_frame ..) (by decide),
    State.core_setCore]

theorem State.vecDone_deltas (s : State) (c : Nat) (x : VecItem) (xs : List VecItem) :
    (s.vecDone c x xs).deltas = s.deltas ++ [s.tally (.empty x.tag x.dstFmt) (s.vecRun c x).counts] :=
  congrArg (· ++ _) ((State.writeOperands_countFlushed_frame ..).2 .deltas (by decide))

theorem State.vecDone_sems (s : State) (c : Nat) (x : VecItem) (xs : List VecItem) : (s.vecDone c x xs).sems = s.sems :=
  (State.writeOperands_countFlushed_frame ..).2 .sems (by decide)

/-! ### A post leaves the queues of its core (R201, R202) -/

/-- A wake changes of a core its power alone, and the instant from which it wakes. -/
theorem State.wakeCore_core (s : State) (c : Nat) : ∃ power wake,
    (s.wakeCore c).core c = { s.core c with power := power, wakeAt := wake } := by
  rw [State.wakeCore, core_mapCore, core_of_only (s.wakeDie_frame _) (by decide)]
  split <;> exact ⟨_, _, rfl⟩

/-- A post to a core that does not sleep leaves the core as it is. -/
theorem State.post_frame_awake {s : State} {c sem n : Nat} {inner : Bool} (hsem : sem < 64)
    (hawake : ¬((s.core c).power = .asleep ∨ (s.core c).power = .waking)) :
    Only [.out, .hold, .links, .ctxs, .sems, .objects, .ring, .msix, .alert] s (s.post c sem n inner) := by
  unfold State.post
  rw [if_neg (by omega)]
  dsimp only
  rw [if_neg hawake]
  generalize (if inner = true then { s.sem c sem with innerPosts := (s.sem c sem).innerPosts + n }
    else s.sem c sem) = v
  refine Only.ite ?breaks ?counts
  case breaks =>
    exact State.breakSem_only (State.log_only (State.setSem_only (Only.refl _ s) (by decide) ..) (by decide) ..)
      (by decide) ..
  case counts =>
    refine State.evalSem_only (State.each_only (State.setSem_only (Only.refl _ s) (by decide) ..) _ _ fun u x h => ?_)
      (by decide) ..
    split
    · exact Only.ite (State.mapCtx_only h (by decide) ..) h
    · exact h

/-- A post changes of a core its power alone, its wake, and the posts that wait for it. -/
theorem State.post_core (s : State) (c sem n : Nat) (inner : Bool) : ∃ power wake late,
    (s.post c sem n inner).core c = { s.core c with power := power, wakeAt := wake, latePosts := late } := by
  rcases Nat.lt_or_ge sem 64 with hsem | hsem
  · by_cases hawake : (s.core c).power = .asleep ∨ (s.core c).power = .waking
    · unfold State.post
      rw [if_neg (by omega)]
      dsimp only
      rw [if_pos hawake]
      obtain ⟨power, wake, hcore⟩ := State.wakeCore_core
        (s.mapCore c fun k => { k with latePosts := k.latePosts ++ [(sem, n)] }) c
      exact ⟨power, wake, _, hcore.trans (by rw [core_mapCore])⟩
    · exact ⟨_, _, _, core_of_only (State.post_frame_awake hsem hawake) (by decide) c⟩
  · exact ⟨_, _, _, by rw [State.post, if_pos hsem, State.log_core, State.count_core]⟩

theorem State.postDone_vecQ (s : State) (c sem : Nat) (inner : Bool) :
    ((s.postDone c sem inner).core c).vecQ = (s.core c).vecQ := by
  unfold State.postDone
  split
  · rfl
  · obtain ⟨power, wake, late, hcore⟩ := s.post_core c sem 1 inner
    rw [hcore]

/-- Settles O31, from what the issue of a vector instruction and the completion of the oldest one leave. -/
theorem vectorInstructions : Obligations.VectorInstructions := by
  intro s core ctx w hdown
  refine ⟨fun p hp hissues henc hok => ⟨fun henters => ?enters, fun hwaits => ?waits⟩,
    fun x xs hqueue hawake => ?completes⟩
  case enters =>
    obtain ⟨ts, hcore⟩ := s.enteredBy_core core ctx 3 fun k => { k with vecQ := k.vecQ ++ [s.vecItem core ctx w] }
    refine ⟨_, exec_vec_enters hdown hp hissues henc hok henters, s.enteredBy_onlyCtx core ctx 3 _,
      State.enteredBy_ctx .., ?_⟩
    rw [hcore, State.issued_core]
  case waits =>
    exact ⟨_, exec_vec_waits hdown hp hissues henc hok hwaits, s.stalled_onlyCtx core ctx _, State.stalled_ctx ..,
      by rw [State.stalled_core]⟩
  case completes =>
    have hframe := (s.vecDone core x xs).posted_frame core [x.doneSem]
    refine ⟨_, s.vecDone core x xs, exec_vectorComplete hdown hqueue hawake, rfl, ?_,
      (hframe.2 .deltas (by decide)).trans (s.vecDone_deltas core x xs), s.vecDone_sems core x xs,
      (hframe.2 .stores (by decide)).trans (s.vecDone_stores core x xs)⟩
    rw [core_of_only (State.evalWaitQ_frame ..) (by decide), State.postDone_vecQ, State.vecDone_vecQ]

end Sys2Proof.Machine

/-!
The scalar instructions (O27): what an instruction that executes leaves, and the contexts that it leaves alone.
-/
namespace Sys2Proof.Machine

/-! ### An instruction that executes (R184-R190) -/

theorem failIf_false {b : Bool} (h : b = false) (cause : Nat) : failIf b cause = none := by rw [h]; rfl

/-- A command that issues an instruction has the instruction's effect where its word and its operands pass. -/
theorem exec_of_issue {s t : State} {i : Instr} {c x op w : Nat} {enc : Nat → Option Reject}
    {dyn : State → Nat → Option Reject} {run : State → Nat → State} (hrow : exec i s = act s (·.issue c x op enc dyn run))
    (hdown : s.down = false) (hissues : s.Issues c x op w) (hlisted : listedOpcode op = true) (henc : enc w = none)
    (hdyn : dyn (s.tookTurn c 0 x) w = none) (hrun : run (s.issued c x) w = t) : exec i s = .next t := by
  rw [exec_of_act hrow hdown, issue_runs hissues hlisted run henc hdyn, ← State.issued, hrun]

theorem State.issued_obj (s : State) {c x a b : Nat} (h : okey a b ≠ okey 0x4037 c) :
    (s.issued c x).obj a b = s.obj a b := by
  rw [State.issued, State.obj_count64, if_neg h, tookTurn_obj]

/-! ### Contexts that nothing changes -/

theorem OnlyCtx.trans {s t u : State} {c : Core} {x : Ctx} (h : OnlyCtx s t c x) (k : OnlyCtx t u c x) :
    OnlyCtx s u c x := fun d y hne => (k d y hne).trans (h d y hne)

theorem OnlyCtx.of_only {s t : State} {ps : List Part} (h : Only ps s t) (hp : Part.ctxs ∉ ps) (c : Core) (x : Ctx) :
    OnlyCtx s t c x := fun d y _ => ctx_of_only h hp d y

theorem State.issued_onlyCtx (s : State) (c : Core) (x : Ctx) : OnlyCtx s (s.issued c x) c x := fun _ _ _ => rfl

theorem State.mapCtx_onlyCtx (s : State) (c : Core) (x : Ctx) (f : CtxSt → CtxSt) : OnlyCtx s (s.mapCtx c x f) c x :=
  fun _ _ hne => ctx_mapCtx_other f hne

theorem State.retire_onlyCtx (s : State) (c : Core) (x : Ctx) : OnlyCtx s (s.retire c x) c x :=
  fun _ _ hne => retire_other hne

theorem State.retireS_onlyCtx (s : State) (c : Core) (x : Ctx) (dst : Nat) (v : BitVec 64) :
    OnlyCtx s (s.retireS c x dst v) c x :=
  (s.mapCtx_onlyCtx c x _).trans (State.retire_onlyCtx _ _ _)

theorem State.retireP_onlyCtx (s : State) (c : Core) (x : Ctx) (pd : Nat) (v : Bool) :
    OnlyCtx s (s.retireP c x pd v) c x :=
  (s.mapCtx_onlyCtx c x _).trans (State.retire_onlyCtx _ _ _)

/-! ### Retirement -/

theorem State.mapCtx_now (s : State) (c x : Nat) (f : CtxSt → CtxSt) : (s.mapCtx c x f).now = s.now :=
  congrArg (· / 64) (State.mapCtx_hall ..)

theorem State.retireS_ctx (s : State) (c x dst : Nat) (v : BitVec 64) :
    (s.retireS c x dst v).ctx c x = s.retired ((s.ctx c x).setS dst v) := by
  rw [State.retireS, State.retire_ctx_of_now (State.mapCtx_now ..), ctx_mapCtx]

theorem State.retireP_ctx (s : State) (c x pd : Nat) (v : Bool) :
    (s.retireP c x pd v).ctx c x = s.retired ((s.ctx c x).setP pd v) := by
  rw [State.retireP, State.retire_ctx_of_now (State.mapCtx_now ..), ctx_mapCtx]

/-! ### The seven instructions -/

section
variable {s : State} {core : Core} {ctx : Ctx} {w : Nat}

theorem exec_nop (hdown : s.down = false) (hissues : s.Issues core ctx 0x60 w) (henc : unassigned w [] = false) :
    exec (.nop core ctx) s = .next ((s.issued core ctx).retire core ctx) :=
  exec_of_issue rfl hdown hissues (by decide) (failIf_false henc 1) rfl rfl

theorem exec_alu (hdown : s.down = false) (hissues : s.Issues core ctx 0x61 w)
    (henc : unassigned w [(111, 96), (63, 0)] = false) (hfn : fld w 99 96 ≤ 0xC) : exec (.alu core ctx) s =
      .next ((s.issued core ctx).retireS core ctx (fld w 111 108)
        (aluFn (fld w 99 96) ((s.ctx core ctx).s (fld w 107 104)) (s.operandB core ctx w))) :=
  exec_of_issue rfl hdown hissues (by decide) (failIf_false (by simp [henc, hfn]) 1) rfl rfl

theorem exec_cmp (hdown : s.down = false) (hissues : s.Issues core ctx 0x62 w)
    (henc : unassigned w [(110, 96), (63, 0)] = false) (hfn : fld w 99 96 ≤ 5) : exec (.cmp core ctx) s =
      .next ((s.issued core ctx).retireP core ctx (fld w 110 108)
        (cmpFn (fld w 99 96) ((s.ctx core ctx).s (fld w 107 104)) (s.operandB core ctx w))) :=
  exec_of_issue rfl hdown hissues (by decide) (failIf_false (by simp [henc, hfn]) 1) rfl rfl

theorem State.scratchCheck_ok {c x : Nat} (haligned : s.scratchAddr c x w % 8 = 0)
    (hfits : s.scratchAddr c x w + 8 ≤ storeSize 3) : s.scratchCheck c x w = none :=
  failIf_false (by simp [haligned, hfits]) 5

theorem exec_ld (hdown : s.down = false) (hissues : s.Issues core ctx 0x63 w)
    (henc : unassigned w [(111, 104), (63, 0)] = false) (haligned : s.scratchAddr core ctx w % 8 = 0)
    (hfits : s.scratchAddr core ctx w + 8 ≤ storeSize 3) : exec (.ld core ctx) s =
      .next ((s.issued core ctx).retireS core ctx (fld w 111 108)
        (BitVec.ofNat 64 (s.storeNat core 3 (s.scratchAddr core ctx w) 8))) :=
  exec_of_issue rfl hdown hissues (by decide) (failIf_false henc 1) (State.scratchCheck_ok haligned hfits) rfl

/-- The state after an ST: its register is in scratch. -/
def State.scratched (s : State) (c x w : Nat) : State :=
  ((s.issued c x).storeWrite c 3 (s.scratchAddr c x w) (leBytes 8 (s.sreg c x (fld w 103 100)))).retire c x

theorem exec_st (hdown : s.down = false) (hissues : s.Issues core ctx 0x64 w)
    (henc : unassigned w [(107, 100), (63, 0)] = false) (haligned : s.scratchAddr core ctx w % 8 = 0)
    (hfits : s.scratchAddr core ctx w + 8 ≤ storeSize 3) : exec (.st core ctx) s = .next (s.scratched core ctx w) :=
  exec_of_issue rfl hdown hissues (by decide) (failIf_false henc 1) (State.scratchCheck_ok haligned hfits) rfl

theorem State.scratched_stores (s : State) (c x w : Nat) : (s.scratched c x w).stores =
    Memory.write s.stores (storeKey c 3 (s.scratchAddr c x w)) (leBytes 8 (s.sreg c x (fld w 103 100))) := rfl

theorem State.scratched_ctx (s : State) (c x w : Nat) : (s.scratched c x w).ctx c x = s.retired (s.ctx c x) := by
  rw [State.scratched, retire_ctx, State.storeWrite_ctx, State.issued_ctx]
  rfl

/-- What was stored is what scratch reads back. -/
theorem State.scratched_reads (s : State) (c x w : Nat) :
    leNat ((s.scratched c x w).storeRead c 3 (s.scratchAddr c x w) 8) = s.sreg c x (fld w 103 100) := by
  have hread := Memory.read_write_same (m := s.stores) (a := storeKey c 3 (s.scratchAddr c x w))
    (bs := leBytes 8 (s.sreg c x (fld w 103 100)))
  rw [leBytes_length] at hread
  rw [State.storeRead, State.scratched_stores, hread, leNat_leBytes]
  exact BitVec.isLt _

theorem State.scratched_stores_other (s : State) {c x w key : Nat}
    (hkey : key < storeKey c 3 (s.scratchAddr c x w) ∨ storeKey c 3 (s.scratchAddr c x w) + 8 ≤ key) :
    Tbl.get 0 (s.scratched c x w).stores key = Tbl.get 0 s.stores key := by
  rw [State.scratched_stores, Memory.get_write_other (by rwa [leBytes_length])]

theorem exec_timeRd (hdown : s.down = false) (hissues : s.Issues core ctx 0x57 w)
    (henc : unassigned w [(111, 108), (104, 104)] = false) : exec (.timeRd core ctx) s =
      .next ((s.issued core ctx).retireS core ctx (fld w 111 108)
        (BitVec.ofNat 64 (if bitAt w 104 then s.now else s.sched))) :=
  exec_of_issue rfl hdown hissues (by decide) (failIf_false henc 1) rfl rfl

/-- The state after a TAL.NF that finds `n`. -/
def State.nfRead (s : State) (c x w n : Nat) : State :=
  ((s.issued c x).mapCtx c x (·.setP (fld w 99 97) (n != 0))).retireS c x (fld w 103 100) (BitVec.ofNat 64 n)

theorem exec_talNf (hdown : s.down = false) (hissues : s.Issues core ctx 0x71 w)
    (henc : unassigned w [(103, 97)] = false) :
    exec (.talNf core ctx) s = .next (s.nfRead core ctx w (s.obj 0x8010 4)) := by
  rw [← s.issued_obj (c := core) (x := ctx) (a := 0x8010) (b := 4) (by unfold okey; omega)]
  exact exec_of_issue rfl hdown hissues (by decide) (failIf_false henc 1) rfl rfl

theorem State.nfRead_ctx (s : State) (c x w n : Nat) : (s.nfRead c x w n).ctx c x =
    s.retired (((s.ctx c x).setP (fld w 99 97) (n != 0)).setS (fld w 103 100) (BitVec.ofNat 64 n)) := by
  rw [State.nfRead, State.retireS_ctx, ctx_mapCtx, State.issued_ctx]
  rfl

theorem State.nfRead_onlyCtx (s : State) (c : Core) (x : Ctx) (w n : Nat) : OnlyCtx s (s.nfRead c x w n) c x :=
  ((s.issued_onlyCtx c x).trans (State.mapCtx_onlyCtx _ _ _ _)).trans (State.retireS_onlyCtx _ _ _ _ _)

end

/-- Settles O27, from what each scalar instruction that executes leaves. -/
theorem scalarInstructions : Obligations.ScalarInstructions := by
  intro s core ctx w hdown
  have honly := s.issued_onlyCtx core ctx
  refine ⟨fun hissues henc => ?nop, fun hissues henc hfn => ?alu, fun hissues henc hfn => ?cmp,
    fun hissues henc haligned hfits => ?ld, fun hissues henc haligned hfits => ?st, fun hissues henc => ?timeRd,
    fun hissues henc => ?talNf⟩
  case nop =>
    exact ⟨_, exec_nop hdown hissues henc, retire_ctx .., honly.trans (State.retire_onlyCtx _ _ _)⟩
  case alu =>
    exact ⟨_, exec_alu hdown hissues henc hfn, State.retireS_ctx .., honly.trans (State.retireS_onlyCtx _ _ _ _ _)⟩
  case cmp =>
    exact ⟨_, exec_cmp hdown hissues henc hfn, State.retireP_ctx .., honly.trans (State.retireP_onlyCtx _ _ _ _ _)⟩
  case ld =>
    exact ⟨_, exec_ld hdown hissues henc haligned hfits, State.retireS_ctx .., honly.trans (State.retireS_onlyCtx _ _ _ _ _)⟩
  case st =>
    exact ⟨_, exec_st hdown hissues henc haligned hfits, s.scratched_ctx core ctx w,
      honly.trans (State.retire_onlyCtx _ _ _), s.scratched_reads core ctx w, fun key => s.scratched_stores_other⟩
  case timeRd =>
    exact ⟨_, exec_timeRd hdown hissues henc, State.retireS_ctx .., honly.trans (State.retireS_onlyCtx _ _ _ _ _)⟩
  case talNf =>
    exact ⟨_, exec_talNf hdown hissues henc, s.nfRead_ctx core ctx w _, s.nfRead_onlyCtx core ctx w _⟩

end Sys2Proof.Machine

/-!
Control instructions (O28): branches, loops, halts, fences and waits, and the release of a context that is parked.
-/
namespace Sys2Proof.Machine

section
variable {s : State} {core : Core} {ctx : Ctx} {w : Nat}

/-! ### Branches and loops (R191, R192) -/

theorem State.retireTo_ctx (s : State) (c x : Nat) (f : CtxSt → CtxSt) : (s.retireTo c x f).ctx c x =
    { f (s.ctx c x) with status := .ready, wait := .none, pace := s.now } := ctx_mapCtx ..

theorem State.retireTo_onlyCtx (s : State) (c : Core) (x : Ctx) (f : CtxSt → CtxSt) :
    OnlyCtx s (s.retireTo c x f) c x := s.mapCtx_onlyCtx c x _

theorem exec_br (hdown : s.down = false) (hissues : s.Issues core ctx 0x65 w) (henc : unassigned w [(63, 0)] = false)
    (htarget : (s.ctx core ctx).stream = true ∨ 0 ≤ s.branchTarget core ctx w ∧ s.branchTarget core ctx w ≤ 4095) :
    exec (.br core ctx) s = .next ((s.issued core ctx).retireTo core ctx fun v =>
      { v with
        pc := BitVec.ofNat 44 (unsext 44 (s.branchTarget core ctx w))
        loops := keepLoops (unsext 44 (s.branchTarget core ctx w)) v.loops }) := by
  refine exec_of_issue rfl hdown hissues (by decide) (failIf_false henc 1) (failIf_false ?_ 8) rfl
  change (!(s.ctx core ctx).stream &&
    (decide (s.branchTarget core ctx w < 0) || decide (4095 < s.branchTarget core ctx w))) = false
  rcases htarget with hstream | ⟨hlow, hhigh⟩
  · rw [hstream]; rfl
  · simp [hlow, hhigh]

/-- The slot after the body of a LOOP. -/
def State.loopLast (s : State) (c x w : Nat) : Nat := (s.ctx c x).pc.toNat + 1 + fld w 95 80

/-- The context after a LOOP: in the first iteration of its body, or past it. -/
def State.looped (s : State) (c x w : Nat) : CtxSt :=
  if s.loopCount c x w = 0 then loopEnd { s.ctx c x with pc := BitVec.ofNat 44 (s.loopLast c x w) }
  else { (s.ctx c x).setS (fld w 111 108) 0 with
    pc := BitVec.ofNat 44 ((s.ctx c x).pc.toNat + 1)
    loops := ⟨(s.ctx c x).pc.toNat + 1, s.loopLast c x w, s.loopCount c x w - 1, fld w 111 108, 0⟩ ::
      (s.ctx c x).loops }

theorem exec_loop (hdown : s.down = false) (hissues : s.Issues core ctx 0x66 w)
    (henc : unassigned w [(111, 104), (95, 80), (63, 0)] = false) (hbody : fld w 95 80 ≠ 0)
    (hcount : s.loopCount core ctx w < 2 ^ 32)
    (hnests : ∀ f fs, (s.ctx core ctx).loops = f :: fs → s.loopLast core ctx w ≤ f.last)
    (hroom : s.loopCount core ctx w = 0 ∨ (s.ctx core ctx).loops.length < 4) : ∃ t, exec (.loop core ctx) s = .next t ∧
      OnlyCtx s t core ctx ∧
      t.ctx core ctx = { s.looped core ctx w with status := .ready, wait := .none, pace := s.now } := by
  have hdeep : (match (s.ctx core ctx).loops with
      | f :: _ => decide (f.last < s.loopLast core ctx w) | [] => false) = false := by
    cases hloops : (s.ctx core ctx).loops with
    | nil => rfl
    | cons f fs => simp [hnests f fs hloops]
  have hfull : (s.loopCount core ctx w != 0 && decide (4 ≤ (s.ctx core ctx).loops.length)) = false := by
    rcases hroom with hzero | hshort
    · simp [hzero]
    · simp [hshort]
  exact ⟨_, exec_of_issue rfl hdown hissues (by decide) (failIf_false (by simp [henc, hbody]) 1)
    ((if_neg (Nat.not_le.mpr hcount)).trans (failIf_false (Bool.or_eq_false_iff.mpr ⟨hdeep, hfull⟩) 7)) rfl,
    State.retireTo_onlyCtx _ _ _ _, State.retireTo_ctx ..⟩

/-! ### HALT and FENCE (R191, R204) -/

theorem State.noteActive_frame (s : State) (c : Nat) : Only [.cores] s (s.noteActive c) :=
  State.noteActive_only (Only.refl _ s) (by decide) c

theorem State.ctxStops_frame (s : State) (c x : Nat) : Only [.out, .msix] s (s.ctxStops c x) :=
  State.ctxStops_only (Only.refl _ s) (by decide) c x

/-- The die controller is interrupted, whatever else is sent. -/
theorem State.dcInterrupt_mem_ctxStops (s : State) (c x : Nat) : .dcInterrupt c x ∈ (s.ctxStops c x).out := by
  unfold State.ctxStops State.ctxEnded
  split
  · unfold State.interrupt
    split <;> simp
  · simp

/-- The state after a HALT. -/
def State.halted (s : State) (c x : Nat) : State :=
  (((s.issued c x).mapCtx c x fun v =>
    { v with status := .idle, wait := .none, pace := s.now }).ctxStops c x).noteActive c

theorem exec_halt (hdown : s.down = false) (hissues : s.Issues core ctx 0x67 w) (henc : unassigned w [] = false) :
    exec (.halt core ctx) s = .next (s.halted core ctx) :=
  exec_of_issue rfl hdown hissues (by decide) (failIf_false henc 1) rfl rfl

theorem State.halted_frame (s : State) (c x : Nat) : Only [.out, .cores, .msix] ((s.issued c x).mapCtx c x fun v =>
    { v with status := .idle, wait := .none, pace := s.now }) (s.halted c x) :=
  State.noteActive_only (State.ctxStops_only (Only.refl _ _) (by decide) c x) (by decide) c

theorem State.halted_ctx (s : State) (c x : Nat) :
    (s.halted c x).ctx c x = { s.ctx c x with status := .idle, wait := .none, pace := s.now } := by
  rw [ctx_of_only (s.halted_frame c x) (by decide), ctx_mapCtx, State.issued_ctx]

theorem State.halted_onlyCtx (s : State) (c : Core) (x : Ctx) : OnlyCtx s (s.halted c x) c x :=
  ((s.issued_onlyCtx c x).trans (State.mapCtx_onlyCtx _ _ _ _)).trans (.of_only (s.halted_frame c x) (by decide) c x)

theorem State.dcInterrupt_mem_halted (s : State) (c x : Nat) : .dcInterrupt c x ∈ (s.halted c x).out := by
  rw [State.halted, (State.noteActive_frame ..).2 .out (by decide)]
  exact State.dcInterrupt_mem_ctxStops ..

/-- The state after a FENCE. -/
def State.fencing (s : State) (c x : Nat) : State :=
  (((s.issued c x).retire c x).mapCtx c x fun v => { v with status := .atFence }).flushGroups c

theorem exec_fence (hdown : s.down = false) (hissues : s.Issues core ctx 0x56 w) (henc : unassigned w [] = false) :
    exec (.fence core ctx) s = .next (s.fencing core ctx) :=
  exec_of_issue rfl hdown hissues (by decide) (failIf_false henc 1) rfl rfl

theorem State.fencing_ctx (s : State) (c x : Nat) :
    (s.fencing c x).ctx c x = { s.retired (s.ctx c x) with status := .atFence } := by
  rw [State.fencing, State.flushGroups, State.mapCore_ctx, ctx_mapCtx, retire_ctx, State.issued_ctx]
  rfl

theorem State.fencing_onlyCtx (s : State) (c : Core) (x : Ctx) : OnlyCtx s (s.fencing c x) c x := by
  have hfenced := ((s.issued_onlyCtx c x).trans (State.retire_onlyCtx _ _ _)).trans
    (State.mapCtx_onlyCtx _ c x fun v => { v with status := .atFence })
  exact hfenced.trans fun d y _ => State.mapCore_ctx ..

theorem State.flushGroups_flush {s : State} {c : Nat} {e : Nat × Option Group} {g : Group}
    (he : e ∈ ((s.flushGroups c).core c).groups) (hg : e.2 = some g) : g.flush = true := by
  rw [State.flushGroups, core_mapCore] at he
  obtain ⟨old, -, rfl⟩ := List.mem_map.mp he
  obtain ⟨h, -, rfl⟩ := Option.map_eq_some_iff.mp hg
  rfl

/-! ### WAIT.Q (R201) -/

theorem State.issued_ownItems (s : State) (c x y m : Nat) : (s.issued c x).ownItems c y m = s.ownItems c y m := by
  simp only [State.ownItems, State.issued_core]
  rfl

theorem exec_waitQ (hdown : s.down = false) (hissues : s.Issues core ctx 0x55 w)
    (henc : unassigned w [(87, 83)] = false) : exec (.waitQ core ctx) s =
      .next (if s.ownItems core ctx (fld w 87 83) then s.stalled core ctx (.waitQ (fld w 87 83))
        else (s.issued core ctx).retire core ctx) := by
  rw [← s.issued_ownItems core ctx]
  exact exec_of_issue rfl hdown hissues (by decide) (failIf_false henc 1) rfl rfl

/-! ### WAIT.T and its release (R203, R423) -/

theorem State.reach64_lag (s : State) (n : Nat) : (s.reach64 n).lag = s.lag := by
  rw [State.lag, State.reach64_tt, State.reach64_hold, State.lag]

/-- Schedule time does not go back as hall time goes on. -/
theorem State.sched_le_reach64 (s : State) (n : Nat) : s.sched ≤ (s.reach64 n).sched := by
  have hnow : s.now ≤ (s.reach64 n).now := by
    rw [State.now, State.now, State.reach64_hall']
    omega
  rw [State.sched, State.sched, State.reach64_hold, State.reach64_lag]
  cases s.hold.tick with
  | none => exact Nat.sub_le_sub_right hnow _
  | some t => exact Nat.sub_le_sub_right (by omega) _

/-- A clock edge at or after an instant is no earlier. -/
theorem State.le_edge64 {s : State} (hclock : s.job.clockMhz ≠ 0) (t : Nat) : 64 * t ≤ s.edge64 t := by
  unfold State.edge64
  dsimp only
  rw [Nat.le_div_iff_mul_le (Nat.pos_of_ne_zero hclock), Nat.mul_assoc]
  omega

/-- The first edge at which a core that has woken may release a context. -/
def State.wakeEdge (s : State) (c : Nat) : Nat :=
  if (s.core c).wakeAt = 0 then 0 else s.edge64 ((s.core c).wakeAt + 50)

/-- The instant at which a parked context is released; in a hold it is now. -/
def State.atRelease (s : State) (c target : Nat) : State :=
  if s.hold.held then s else s.reach64 (max (s.edge64 (target + s.lag)) (s.wakeEdge c))

theorem State.atRelease_frame (s : State) (c target : Nat) : Only [.hall, .time] s (s.atRelease c target) :=
  Only.ite (Only.refl _ s) (State.reach64_only (Only.refl _ s) (by decide) _)

theorem State.sched_le_atRelease (s : State) (c target : Nat) : s.sched ≤ (s.atRelease c target).sched := by
  unfold State.atRelease
  split
  · exact Nat.le_refl _
  · exact s.sched_le_reach64 _

/-- What a release leaves: the context has gone on, and the others are as they were. -/
theorem State.releaseWaitT_released {s : State} {c : Core} {x : Ctx} {target : Nat}
    (hdue : target ≤ (s.atRelease c target).sched) : (s.releaseWaitT c x target).hall = (s.atRelease c target).hall ∧
      OnlyCtx s (s.releaseWaitT c x target) c x ∧
      (s.releaseWaitT c x target).ctx c x = (s.releaseWaitT c x target).retired (s.ctx c x) := by
  generalize hlate : (s.atRelease c target).on
    (decide (s.edge64 (target + s.lag) < (s.atRelease c target).hall) && !((s.atRelease c target).core c).rerun)
    (·.count64 0x4034 c) = v
  have heq : s.releaseWaitT c x target = (v.retire c x).noteActive c := by
    rw [← hlate]
    exact if_pos hdue
  have hcount : Only [.objects] (s.atRelease c target) v := hlate ▸
    State.on_only (Only.refl _ _) _ _ fun _ h => State.count64_only h (by decide) ..
  have hbefore : Only [.hall, .time, .objects] s v :=
    ((s.atRelease_frame c target).mono (by decide)).then hcount (by decide)
  have hafter : Only [.ctxs, .cores] v ((v.retire c x).noteActive c) :=
    State.noteActive_only (State.retire_only (Only.refl _ v) (by decide) c x) (by decide) c
  have hnow : ((v.retire c x).noteActive c).now = v.now := congrArg (· / 64) (hafter.2 .hall (by decide))
  rw [heq]
  refine ⟨(hafter.2 .hall (by decide)).trans (hcount.2 .hall (by decide)),
    ((OnlyCtx.of_only hbefore (by decide) c x).trans (v.retire_onlyCtx c x)).trans
      (.of_only (State.noteActive_frame ..) (by decide) c x), ?_⟩
  rw [ctx_of_only (State.noteActive_frame ..) (by decide), retire_ctx, ctx_of_only hbefore (by decide), State.retired,
    State.retired, hnow]

/-- The schedule time that a WAIT.T names. -/
def State.waitTarget (s : State) (c x w : Nat) : Nat :=
  unsext 64 (((s.ctx c x).s (fld w 111 108)).toNat + sext 48 (fld w 47 0))

/-- The state after a WAIT.T whose time has not come. -/
def State.parked (s : State) (c x target : Nat) : State :=
  ((s.issued c x).mapCtx c x fun v => { v with status := .parkedT, wait := .waitT target }).noteActive c

theorem State.parked_ctx (s : State) (c x target : Nat) :
    (s.parked c x target).ctx c x = { s.ctx c x with status := .parkedT, wait := .waitT target } := by
  rw [State.parked, ctx_of_only (State.noteActive_frame ..) (by decide), ctx_mapCtx, State.issued_ctx]

theorem State.parked_onlyCtx (s : State) (c : Core) (x : Ctx) (target : Nat) :
    OnlyCtx s (s.parked c x target) c x :=
  ((s.issued_onlyCtx c x).trans (State.mapCtx_onlyCtx _ _ _ _)).trans (.of_only (State.noteActive_frame ..) (by decide) c x)

/-- A WAIT.T whose word is in order. -/
theorem exec_waitT (hdown : s.down = false) (hissues : s.Issues core ctx 0x54 w)
    (henc : unassigned w [(111, 108), (47, 0)] = false) : exec (.waitT core ctx) s =
      .next (if s.waitTarget core ctx w ≤ s.sched then
          (s.issued core ctx).releaseWaitT core ctx (s.waitTarget core ctx w)
        else s.parked core ctx (s.waitTarget core ctx w)) :=
  exec_of_issue rfl hdown hissues (by decide) (failIf_false henc 1) rfl rfl

theorem exec_waitTRelease {d : Nat} (hdown : s.down = false) (hwait : (s.ctx core ctx).wait = .waitT d)
    (hawake : s.coreAwake core = true) (hheld : s.hold.held = false) (htick : s.hold.tick = none) :
    exec (.waitTRelease core ctx) s = .next (s.releaseWaitT core ctx d) := by
  have hclocked : s.coreDown core = false := by
    simp only [State.coreAwake, Bool.and_eq_true, Bool.not_eq_true'] at hawake
    exact hawake.1
  change execWaitTRelease core ctx s = _
  rw [execWaitTRelease, act_up hdown]
  dsimp only
  rw [hwait]
  dsimp only
  rw [if_neg (by simp [hclocked, State.frozenAt, hheld, htick]), if_pos hawake]

/-- Out of a hold, the edge of a release is no earlier than its schedule time. -/
theorem State.le_sched_atRelease {c d : Nat} (hheld : s.hold.held = false) (htick : s.hold.tick = none)
    (hclock : s.job.clockMhz ≠ 0) : d ≤ (s.atRelease c d).sched := by
  have hedge := State.le_edge64 hclock (d + s.lag)
  have hnow : d + s.lag ≤ (s.atRelease c d).now := by
    rw [State.atRelease, if_neg (by simp [hheld]), State.now, State.reach64_hall']
    omega
  have hlag : (s.atRelease c d).lag = s.lag := by
    rw [State.atRelease, if_neg (by simp [hheld]), State.reach64_lag]
  rw [State.sched, (s.atRelease_frame c d).2 .hold (by decide), htick, hlag]
  exact Nat.le_sub_of_add_le hnow

end

/-- Settles O28, from what each control instruction that executes leaves, and what a release does. -/
theorem controlInstructions : Obligations.ControlInstructions := by
  intro s core ctx w hdown
  have honly := s.issued_onlyCtx core ctx
  refine ⟨fun hissues henc htarget => ?br, fun hissues henc hbody hcount hnests hroom => ?loop,
    fun hissues henc => ?halt, fun hissues henc => ?fence, fun hissues henc => ?waitQ,
    fun hissues henc hlater => ?parks, fun hissues henc hpast => ?goesOn,
    fun d hwait hawake hheld htick hclock => ?release⟩
  case br =>
    exact ⟨_, exec_br hdown hissues henc htarget, honly.trans (State.retireTo_onlyCtx _ _ _ _), State.retireTo_ctx ..⟩
  case loop => exact exec_loop hdown hissues henc hbody hcount hnests hroom
  case halt =>
    exact ⟨_, exec_halt hdown hissues henc, s.halted_onlyCtx core ctx, s.dcInterrupt_mem_halted core ctx,
      s.halted_ctx core ctx⟩
  case fence =>
    exact ⟨_, exec_fence hdown hissues henc, s.fencing_onlyCtx core ctx, s.fencing_ctx core ctx,
      fun e he g hg => State.flushGroups_flush he hg⟩
  case waitQ =>
    refine ⟨_, exec_waitQ hdown hissues henc, ?_, ?_⟩
    · split
      · exact s.stalled_onlyCtx core ctx _
      · exact honly.trans (State.retire_onlyCtx _ _ _)
    · split
      · exact s.stalled_ctx core ctx _
      · exact retire_ctx ..
  case parks =>
    exact ⟨_, (exec_waitT hdown hissues henc).trans (congrArg _ (if_neg (Nat.not_le.mpr hlater))),
      s.parked_onlyCtx core ctx _, s.parked_ctx core ctx _⟩
  case goesOn =>
    have hdue : s.waitTarget core ctx w ≤ (s.issued core ctx).sched := hpast
    obtain ⟨-, hothers, hctx⟩ := State.releaseWaitT_released (s := s.issued core ctx) (c := core) (x := ctx)
      (hdue.trans ((s.issued core ctx).sched_le_atRelease core _))
    exact ⟨_, (exec_waitT hdown hissues henc).trans (congrArg _ (if_pos hpast)), honly.trans hothers, hctx⟩
  case release =>
    obtain ⟨hhall, hothers, hctx⟩ := State.releaseWaitT_released (s := s) (c := core) (x := ctx)
      (State.le_sched_atRelease (c := core) (d := d) hheld htick hclock)
    refine ⟨_, exec_waitTRelease hdown hwait hawake hheld htick, hothers, hhall.trans ?_, hctx⟩
    rw [State.atRelease, if_neg (by simp [hheld]), State.reach64_hall']
    rfl

end Sys2Proof.Machine

/-!
Semaphores (O29): what sets them, what posts and takes do, and how a broken one ends a wait.
-/
namespace Sys2Proof.Machine

/-! ### A stage that fails stops the contexts (R213, R431) -/

theorem CtxSt.stop_stop (v : CtxSt) : v.stop.stop = v.stop := by
  cases hstatus : v.status <;> simp [CtxSt.stop, hstatus]

/-- A context may have been stopped. -/
def CtxSt.StopsAs (v v' : CtxSt) : Prop := v' = v ∨ v' = v.stop

theorem State.stopAll_ctx (s : State) (c x : Nat) : (s.ctx c x).StopsAs (s.stopAll.ctx c x) := by
  refine each_ind (P := fun t => (s.ctx c x).StopsAs (t.ctx c x)) (.inl rfl) fun t k _ ht => ?_
  dsimp only
  split
  · exact ht
  · by_cases hkey : ctxKey c x = k
    · have hctx : Tbl.get .reset t.ctxs k = t.ctx c x := by rw [← hkey]; rfl
      have hset : ({ t with ctxs := Tbl.set .reset t.ctxs k (Tbl.get .reset t.ctxs k).stop } : State).ctx c x =
          (t.ctx c x).stop := by
        rw [State.ctx, hkey, Tbl.get_set_same, hctx]
      rw [hset]
      rcases ht with h | h
      · exact .inr (by rw [h])
      · exact .inr (by rw [h, CtxSt.stop_stop])
    · have hother : ({ t with ctxs := Tbl.set .reset t.ctxs k (Tbl.get .reset t.ctxs k).stop } : State).ctx c x =
          t.ctx c x := Tbl.get_set_other hkey
      rw [hother]
      exact ht

theorem State.jobFail_ctx (s : State) (cause c x : Nat) : (s.ctx c x).StopsAs ((s.jobFail cause).ctx c x) := by
  unfold State.jobFail
  split
  · exact .inl rfl
  · dsimp only
    generalize hbefore : (State.alerting (s.log 0x9010 0 [(8, cause)]) fun s =>
      (s.setObj 0x9003 3 1).setObj 0x9003 4 cause).interrupt 2 = u
    have hctx : u.ctx c x = s.ctx c x := by
      have hframe : Only [.out, .objects, .ring, .msix, .alert] s u := hbefore ▸
        State.interrupt_only (State.alerting_only (State.log_only (Only.refl _ s) (by decide) ..) (by decide) _
          fun v hv => State.setObj_only (State.setObj_only hv (by decide) ..) (by decide) ..) (by decide) 2
      exact ctx_of_only hframe (by decide) c x
    have hhold : ∀ v : State, ((if v.hold.joined.isEmpty then (v.originateHold 9).2 else v).setHold fun h =>
        { h with noResume := true }).schedFault.ctx c x = v.ctx c x := by
      intro v
      split
      · exact ctx_of_only (State.originateHold_only (parts := [.hold, .links]) (Only.refl _ v) (by decide) 9)
          (by decide) c x
      · rfl
    rw [hhold, ← hctx]
    exact u.stopAll_ctx c x

/-- A context that faults is FAULTED with its cause, whatever becomes of its job stage (R210, R428). -/
theorem State.ctxFault_ctx (s : State) (c x cause : Nat) : (s.ctxFault c x cause).ctx c x =
    { s.ctx c x with status := .faulted, cause := BitVec.ofNat 8 cause, wait := .none } := by
  unfold State.ctxFault
  dsimp only
  generalize hfaulted : State.ctxStops _ c x = u
  have hctx : u.ctx c x = { s.ctx c x with status := .faulted, cause := BitVec.ofNat 8 cause, wait := .none } := by
    rw [← hfaulted, ctx_of_only (State.ctxStops_frame ..) (by decide), State.log_ctx, State.count_ctx,
      State.ctx_setCtx]
  rw [← hctx]
  unfold State.on
  split
  · rcases (u.faultCount 0x0F).jobFail_ctx 0x0F c x with h | h
    · exact h
    · refine h.trans ?_
      change (u.ctx c x).stop = u.ctx c x
      rw [hctx]
      rfl
  · rfl

/-! ### A broken semaphore stays broken (R200) -/

/-- From `s` to `t` no semaphore has been mended. -/
def BreaksStay (s t : State) : Prop := ∀ c n, (s.sem c n).broken = true → (t.sem c n).broken = true

theorem BreaksStay.trans {s t u : State} (h : BreaksStay s t) (k : BreaksStay t u) : BreaksStay s u :=
  fun c n hn => k c n (h c n hn)

theorem BreaksStay.of_only {s t : State} {ps : List Part} (h : Only ps s t) (hp : Part.sems ∉ ps) : BreaksStay s t :=
  fun c n hn => by rwa [sem_of_only h hp]

theorem BreaksStay.of_each {α : Type} {s : State} {xs : List α} {f : State → α → State}
    (hf : ∀ t x, BreaksStay t (f t x)) : BreaksStay s (s.each xs f) :=
  each_ind (P := BreaksStay s) (fun _ _ h => h) fun t x _ ht => ht.trans (hf t x)

theorem State.sem_setSem_of_key {s : State} {c n d m : Nat} (v : SemSt) (hkey : 64 * d + m = 64 * c + n) :
    (s.setSem c n v).sem d m = v := by
  rw [State.sem, hkey]
  exact s.sem_setSem c n v

theorem State.setSem_breaksStay {s : State} {c n : Nat} {v : SemSt}
    (h : (s.sem c n).broken = true → v.broken = true) : BreaksStay s (s.setSem c n v) := by
  intro d m hm
  by_cases hkey : 64 * d + m = 64 * c + n
  · rw [State.sem_setSem_of_key v hkey]
    refine h ?_
    rwa [State.sem, ← hkey]
  · rwa [show (s.setSem c n v).sem d m = s.sem d m from Tbl.get_set_other hkey]

theorem State.brokenWait_frame (s : State) (c x : Nat) :
    Only [.out, .hold, .links, .ctxs, .objects, .ring, .msix, .alert] s (s.brokenWait c x) :=
  State.brokenWait_only (Only.refl _ s) (by decide) c x

theorem State.retire_frame (s : State) (c x : Nat) : Only [.ctxs] s (s.retire c x) :=
  State.retire_only (Only.refl _ s) (by decide) c x

theorem State.evalSem_breaksStay (s : State) (c n : Nat) : BreaksStay s (s.evalSem c n) := by
  refine BreaksStay.of_each fun t x => ?_
  dsimp only
  split
  · split
    · exact fun _ _ h => h
    · split
      · exact .of_only (t.brokenWait_frame c x) (by decide)
      · split
        · refine BreaksStay.trans (State.setSem_breaksStay ?_) (.of_only (State.retire_frame _ c x) (by decide))
          exact fun h => h
        · exact fun _ _ h => h
  · exact fun _ _ h => h

theorem State.breakSem_breaksStay (s : State) (c n : Nat) : BreaksStay s (s.breakSem c n) :=
  (State.setSem_breaksStay (s := s) (c := c) (n := n) (v := { s.sem c n with broken := true }) fun _ => rfl).trans
    (State.evalSem_breaksStay _ c n)

/-- A semaphore that breaks is broken once its waits have ended. -/
theorem State.breakSem_broken (s : State) (c n : Nat) : ((s.breakSem c n).sem c n).broken = true :=
  State.evalSem_breaksStay _ c n c n (by rw [State.sem_setSem])

/-! ### Nothing waits (R202) -/

theorem State.no_waiters_of_waits {s t : State} {c n : Nat} (hnone : s.semWaiters c n = [])
    (hwaits : ∀ y, (t.ctx c y).wait = (s.ctx c y).wait ∨ (t.ctx c y).wait = .none) : t.semWaiters c n = [] := by
  refine List.filterMap_eq_nil_iff.mpr fun y hy => ?_
  have hother := State.wait_of_no_waiters hnone (List.mem_range.mp hy)
  rcases hwaits y with h | h
  · rw [h]
    split
    next m k since hwait => exact if_neg fun hm : m = n => hother k since (hm ▸ hwait)
    next => rfl
  · rw [h]

theorem State.retire_wait (s : State) (c x y : Nat) :
    ((s.retire c x).ctx c y).wait = (s.ctx c y).wait ∨ ((s.retire c x).ctx c y).wait = .none := by
  by_cases hxy : x = y
  · subst hxy
    exact .inr (by rw [retire_ctx]; rfl)
  · exact .inl (congrArg CtxSt.wait (ctx_set_ne _ hxy))

theorem State.retire_no_waiters {s : State} {c n : Nat} (x : Nat) (hnone : s.semWaiters c n = []) :
    (s.retire c x).semWaiters c n = [] := State.no_waiters_of_waits hnone (s.retire_wait c x)

/-! ### A post to a clocked core (R201-R203) -/

/-- A post of the core's own counts since the fence (R205). -/
def SemSt.posted (v : SemSt) (n : Nat) (inner : Bool) : SemSt :=
  if inner then { v with innerPosts := v.innerPosts + n } else v

theorem SemSt.posted_count (v : SemSt) (n : Nat) (inner : Bool) : (v.posted n inner).count = v.count := by
  cases inner <;> rfl

/-- The waits for a semaphore count from now. -/
def State.recountWaits (s : State) (c sem : Nat) : State :=
  s.each (List.range 8) fun s x => match (s.ctx c x).wait with
    | .sem m k _ => if m = sem then s.mapCtx c x fun v => { v with wait := .sem m k s.now } else s
    | _ => s

/-- A post has been counted; its waiters have still to be examined. -/
def State.raised (s : State) (c sem n : Nat) (v : SemSt) : State :=
  (s.setSem c sem { v with count := v.count + BitVec.ofNat 16 n }).recountWaits c sem

theorem State.post_counts {s : State} {c sem n : Nat} (inner : Bool) (hsem : sem < 64)
    (hclocked : ¬((s.core c).power = .asleep ∨ (s.core c).power = .waking))
    (hfits : (s.sem c sem).count.toNat + n ≤ 65535) :
    s.post c sem n inner = (s.raised c sem n ((s.sem c sem).posted n inner)).evalSem c sem := by
  have hcount : ¬65535 < ((s.sem c sem).posted n inner).count.toNat + n := by
    rw [SemSt.posted_count]
    omega
  unfold State.post
  rw [if_neg (Nat.not_le.mpr hsem)]
  dsimp only
  rw [if_neg hclocked]
  exact if_neg hcount

theorem State.post_overflows {s : State} {c sem n : Nat} (inner : Bool) (hsem : sem < 64)
    (hclocked : ¬((s.core c).power = .asleep ∨ (s.core c).power = .waking))
    (hover : 65535 < (s.sem c sem).count.toNat + n) : s.post c sem n inner =
      ((s.setSem c sem ((s.sem c sem).posted n inner)).log 0x4034 (domCore c)).breakSem c sem := by
  have hcount : 65535 < ((s.sem c sem).posted n inner).count.toNat + n := by
    rwa [SemSt.posted_count]
  unfold State.post
  rw [if_neg (Nat.not_le.mpr hsem)]
  dsimp only
  rw [if_neg hclocked]
  exact if_pos hcount

theorem State.recountWaits_frame (s : State) (c sem : Nat) : Only [.ctxs] s (s.recountWaits c sem) := by
  refine State.each_only (Only.refl _ s) _ _ fun t x ht => ?_
  split
  · exact Only.ite (State.mapCtx_only ht (by decide) ..) ht
  · exact ht

theorem State.recountWaits_ctx {s : State} {c x sem : Nat} (hwait : (s.ctx c x).wait = .none) :
    (s.recountWaits c sem).ctx c x = s.ctx c x := by
  refine each_ind (P := fun t => t.ctx c x = s.ctx c x) rfl fun t y _ ht => ?_
  split
  next m k since hy =>
    split
    · have hxy : y ≠ x := by
        rintro rfl
        rw [ht, hwait] at hy
        exact Wait.noConfusion hy
      exact (ctx_set_ne _ hxy).trans ht
    · exact ht
  next => exact ht

theorem State.recountWaits_of_no_waiters {s : State} {c sem : Nat} (hnone : s.semWaiters c sem = []) :
    s.recountWaits c sem = s := by
  refine each_id fun x hx => ?_
  split
  next m k since hwait =>
    exact if_neg fun hm : m = sem => State.wait_of_no_waiters hnone (List.mem_range.mp hx) k since (hm ▸ hwait)
  next => rfl

theorem State.raised_frame (s : State) (c sem n : Nat) (v : SemSt) : Only [.ctxs, .sems] s (s.raised c sem n v) :=
  (State.setSem_only (Only.refl _ s) (by decide) ..).then (State.recountWaits_frame ..) (by decide)

theorem State.raised_sem (s : State) (c sem n : Nat) (v : SemSt) :
    (s.raised c sem n v).sem c sem = { v with count := v.count + BitVec.ofNat 16 n } := by
  rw [State.raised, sem_of_only (State.recountWaits_frame ..) (by decide), State.sem_setSem]

theorem State.raised_ctx {s : State} {c x : Nat} (sem n : Nat) (v : SemSt) (hwait : (s.ctx c x).wait = .none) :
    (s.raised c sem n v).ctx c x = s.ctx c x := State.recountWaits_ctx hwait

theorem State.evalSem_raised {s : State} {c sem : Nat} (n : Nat) (v : SemSt) (hnone : s.semWaiters c sem = []) :
    (s.raised c sem n v).evalSem c sem = s.raised c sem n v := by
  have hset : ∀ v, (s.setSem c sem v).semWaiters c sem = [] := fun _ => hnone
  rw [State.raised, State.recountWaits_of_no_waiters (hset _), State.evalSem_of_no_waiters (hset _)]

/-- A core that issues is clocked. -/
theorem State.Issues.clocked {s : State} {c x op w : Nat} (h : s.Issues c x op w) :
    ¬((s.core c).power = .asleep ∨ (s.core c).power = .waking) := by
  obtain ⟨hissue, -⟩ := h
  simp only [State.canIssue, State.mayIssue, State.coreAwake, Bool.and_eq_true, Bool.or_eq_true, beq_iff_eq] at hissue
  obtain ⟨⟨⟨⟨⟨-, hpower⟩, -⟩, -⟩, -⟩, -⟩ := hissue
  rcases hpower with h | h <;> simp [h]

/-! ### The semaphore instructions -/

section
variable {s : State} {core : Core} {ctx : Ctx} {w : Nat}

theorem semEnc_ok {fields : List (Nat × Nat)} {needN : Bool} (henc : unassigned w fields = false)
    (hsem : fld w 95 88 < 64) (hn : needN = false ∨ fld w 79 64 ≠ 0) : semEnc fields needN w = none := by
  have hcount : (needN && fld w 79 64 == 0) = false := by
    rcases hn with h | h <;> simp [h]
  rw [semEnc, henc, if_neg (by simp), if_neg (by omega)]
  exact failIf_false hcount 1

/-- What SEM.INIT and SEM_SET give a semaphore; its waiters have still to be examined. -/
def State.semGiven (s : State) (c n count producer lease : Nat) : State :=
  s.setSem c n { s.sem c n with
    count := BitVec.ofNat 16 count, producer := BitVec.ofNat 16 producer, lease := BitVec.ofNat 16 lease, broken := false }

theorem exec_semInit (hdown : s.down = false) (hissues : s.Issues core ctx 0x50 w)
    (henc : unassigned w [(95, 88), (79, 32)] = false) (hsem : fld w 95 88 < 64) : exec (.semInit core ctx) s =
      .next ((((s.issued core ctx).retire core ctx).semGiven core (fld w 95 88) (fld w 79 64) (fld w 63 48)
        (fld w 47 32)).evalSem core (fld w 95 88)) :=
  exec_of_issue rfl hdown hissues (by decide) (semEnc_ok henc hsem (.inl rfl)) rfl rfl

theorem exec_semSet {sem : Sem} {count producer lease : BitVec 16} (hdown : s.down = false) :
    exec (.semSet core sem count producer lease) s = .next (((s.wakeCore core).semGiven core sem count.toNat
      producer.toNat lease.toNat).evalSem core sem) :=
  exec_of_act (f := fun s => (s.wakeCore core).semInit core sem count.toNat producer.toNat lease.toNat) rfl hdown

/-- The core that a SEM.POST names. -/
def postDest (core w : Nat) : Nat := if fld w 103 96 = 0xFF then core else fld w 103 96

theorem postDest_ok (hdest : fld w 103 96 = 0xFF ∨ fld w 103 96 < 192) :
    (decide (0xC0 ≤ fld w 103 96) && fld w 103 96 != 0xFF) = false := by
  rcases hdest with h | h
  · simp [h]
  · simp [Nat.not_le.mpr h]

/-- The state after a post that travels to another core (R201). -/
def State.travels (s : State) (c x : Nat) (p : Nat × Nat) : State :=
  let u := ((s.issued c x).mapCtx c x fun v => { v with posts := v.posts + 1 }).retire c x
  { u with posts := u.posts ++ [p] }

/-- The state after a post that a re-run suppresses (R207). -/
def State.suppresses (s : State) (c x : Nat) : State :=
  (((s.issued c x).mapCtx c x fun v => { v with skipPosts := v.skipPosts - 1 }).mapCore c fun k =>
    { k with suppressedPosts := k.suppressedPosts + 1 }).retire c x

theorem exec_semPost {t : State} (hdown : s.down = false) (hissues : s.Issues core ctx 0x51 w)
    (henc : unassigned w [(103, 88), (79, 64)] = false) (hsem : fld w 95 88 < 64) (hn : fld w 79 64 ≠ 0)
    (hdest : fld w 103 96 = 0xFF ∨ fld w 103 96 < 192) (hposts :
      (if postDest core w = core then
        ((s.issued core ctx).retire core ctx).post core (fld w 95 88) (fld w 79 64) true
      else if ((s.issued core ctx).ctx core ctx).skipPosts ≠ 0 then s.suppresses core ctx
      else s.travels core ctx (64 * postDest core w + fld w 95 88, fld w 79 64)) = t) :
    exec (.semPost core ctx) s = .next t := by
  refine exec_of_issue rfl hdown hissues (by decide) ?_ rfl hposts
  rw [semEnc_ok henc hsem (.inr hn)]
  exact failIf_false (postDest_ok hdest) 0xA

theorem State.travels_ctx (s : State) (c x : Nat) (p : Nat × Nat) :
    (s.travels c x p).ctx c x = s.retired { s.ctx c x with posts := (s.ctx c x).posts + 1 } := by
  change (((s.issued c x).mapCtx c x fun v => { v with posts := v.posts + 1 }).retire c x).ctx c x = _
  rw [State.retire_ctx_of_now ((State.mapCtx_now ..).trans (s.issued_now c x)), ctx_mapCtx, State.issued_ctx]

theorem State.travels_onlyCtx (s : State) (c : Core) (x : Ctx) (p : Nat × Nat) : OnlyCtx s (s.travels c x p) c x := by
  change OnlyCtx s (((s.issued c x).mapCtx c x fun v => { v with posts := v.posts + 1 }).retire c x) c x
  exact ((s.issued_onlyCtx c x).trans (State.mapCtx_onlyCtx _ _ _ _)).trans (State.retire_onlyCtx _ _ _)

theorem State.issued_faults (s : State) (c x : Nat) : (s.issued c x).faults = s.faults := rfl

theorem State.issued_sems (s : State) (c x : Nat) : (s.issued c x).sems = s.sems := rfl

theorem State.issued_posts (s : State) (c x : Nat) : (s.issued c x).posts = s.posts := rfl

theorem State.travels_posts (s : State) (c x : Nat) (p : Nat × Nat) : (s.travels c x p).posts = s.posts ++ [p] := by
  have hframe := State.retire_only (State.mapCtx_only (Only.refl _ (s.issued c x)) (List.Subset.refl [Part.ctxs]) c x
    fun v => { v with posts := v.posts + 1 }) (by decide) c x
  rw [State.travels]
  dsimp only
  rw [hframe.2 .posts (by decide), State.issued_posts]

theorem State.suppresses_posts (s : State) (c x : Nat) : (s.suppresses c x).posts = s.posts := by
  have hframe : Only [.ctxs, .cores] (s.issued c x) (s.suppresses c x) :=
    State.retire_only (State.mapCore_only (State.mapCtx_only (Only.refl _ (s.issued c x)) (by decide) c x _) (by decide)
      c _) (by decide) c x
  rw [hframe.2 .posts (by decide), State.issued_posts]

theorem State.suppresses_ctx (s : State) (c x : Nat) :
    (s.suppresses c x).ctx c x = s.retired { s.ctx c x with skipPosts := (s.ctx c x).skipPosts - 1 } := by
  have hnow := (State.mapCtx_now (s.issued c x) c x fun v => { v with skipPosts := v.skipPosts - 1 }).trans
    (s.issued_now c x)
  rw [State.suppresses, State.retire_ctx_of_now ((State.mapCore_now ..).trans hnow), State.mapCore_ctx, ctx_mapCtx,
    State.issued_ctx]

theorem State.suppresses_onlyCtx (s : State) (c : Core) (x : Ctx) : OnlyCtx s (s.suppresses c x) c x :=
  (((s.issued_onlyCtx c x).trans (State.mapCtx_onlyCtx _ _ _ _)).trans fun _ _ _ => State.mapCore_ctx ..).trans
    (State.retire_onlyCtx _ _ _)

/-- The state without the posts that arrive. -/
def State.withoutPosts (s : State) (c n count : Nat) : State :=
  { s with posts := (takePosts (64 * c + n) s.posts count).2 }

theorem State.withoutPosts_core (s : State) (c n count : Nat) : (s.withoutPosts c n count).core c = s.core c := rfl

theorem State.withoutPosts_sem (s : State) (c n count m : Nat) : (s.withoutPosts c n count).sem c m = s.sem c m := rfl

theorem State.withoutPosts_semWaiters (s : State) (c n count m : Nat) :
    (s.withoutPosts c n count).semWaiters c m = s.semWaiters c m := rfl

theorem exec_semPostArrive {sem : BitVec 8} {count : Nat} (hdown : s.down = false) (hsem : sem.toNat < 64)
    (hsum : (takePosts (64 * core + sem.toNat) s.posts count).1 ≠ 0) : exec (.semPostArrive core sem count) s =
      .next ((s.withoutPosts core sem.toNat count).post core sem.toNat
        (takePosts (64 * core + sem.toNat) s.posts count).1 false) := by
  change execSemPostArrive core sem count s = _
  rw [execSemPostArrive, act_up hdown]
  exact congrArg _ (if_pos ⟨hsum, hsem⟩)

/-- A semaphore from which `k` have been taken (R201, R205). -/
def SemSt.taken (v : SemSt) (k : Nat) : SemSt :=
  { v with count := v.count - BitVec.ofNat 16 k, innerTakes := v.innerTakes + k }

theorem exec_semWait (hdown : s.down = false) (hissues : s.Issues core ctx 0x52 w)
    (henc : unassigned w [(95, 88), (79, 64)] = false) (hsem : fld w 95 88 < 64) (hn : fld w 79 64 ≠ 0) :
    exec (.semWait core ctx) s = .next (
      if (s.sem core (fld w 95 88)).broken then (s.issued core ctx).brokenWait core ctx
      else if fld w 79 64 ≤ (s.sem core (fld w 95 88)).count.toNat then
        ((s.issued core ctx).setSem core (fld w 95 88) ((s.sem core (fld w 95 88)).taken (fld w 79 64))).retire core ctx
      else s.stalled core ctx (.sem (fld w 95 88) (fld w 79 64) s.now)) :=
  exec_of_issue rfl hdown hissues (by decide) (semEnc_ok henc hsem (.inr hn)) rfl rfl

theorem exec_semTry (hdown : s.down = false) (hissues : s.Issues core ctx 0x53 w)
    (henc : unassigned w [(107, 105), (95, 88), (79, 64)] = false) (hsem : fld w 95 88 < 64) (hn : fld w 79 64 ≠ 0) :
    exec (.semTry core ctx) s = .next (
      if (s.sem core (fld w 95 88)).broken then (s.issued core ctx).brokenWait core ctx
      else if fld w 79 64 ≤ (s.sem core (fld w 95 88)).count.toNat then
        ((s.issued core ctx).setSem core (fld w 95 88) ((s.sem core (fld w 95 88)).taken (fld w 79 64))).retireP core
          ctx (fld w 107 105) true
      else (s.issued core ctx).retireP core ctx (fld w 107 105) false) :=
  exec_of_issue rfl hdown hissues (by decide) (semEnc_ok henc hsem (.inr hn)) rfl rfl

theorem State.issued_retireP_sems (s : State) (c x p : Nat) (b : Bool) :
    ((s.issued c x).retireP c x p b).sems = s.sems := by
  have hframe := State.retireP_only (Only.refl _ (s.issued c x)) (List.Subset.refl [Part.ctxs]) c x p b
  exact (hframe.2 .sems (by decide)).trans (s.issued_sems c x)

/-- A wait on a broken semaphore ends the context's run, and is logged. -/
theorem State.issued_brokenWait (s : State) (c x : Nat) : ∃ u : State,
    (s.issued c x).brokenWait c x = u.ctxFault c x 4 ∧ Logged s u [0x4031] ∧
      (((s.issued c x).brokenWait c x).ctx c x).status = .faulted ∧
      (((s.issued c x).brokenWait c x).ctx c x).cause = 4 := by
  refine ⟨(s.issued c x).log 0x4031 (domCore c), rfl, Logged.log_of_faults rfl 0x4031 _ [] (by decide), ?_, ?_⟩
  · rw [State.brokenWait, State.ctxFault_ctx]
  · rw [State.brokenWait, State.ctxFault_ctx]
    rfl

/-! ### A lease that lapses (R200) -/

/-- Since when the contexts of a core that wait for a semaphore do so. -/
def State.waitsSince (s : State) (c n : Nat) : List Nat :=
  (List.range 8).filterMap fun x => match (s.ctx c x).wait with
    | .sem m _ t => if m = n then some t else none
    | _ => none

theorem State.mem_waitsSince {s : State} {c n t : Nat} :
    t ∈ s.waitsSince c n ↔ ∃ x < 8, ∃ k, (s.ctx c x).wait = .sem n k t := by
  simp only [State.waitsSince, List.mem_filterMap, List.mem_range]
  refine exists_congr fun x => and_congr_right fun _ => ?_
  cases (s.ctx c x).wait <;> simp

theorem foldl_min_eq {t t0 : Nat} {ts : List Nat} (hmem : t0 ∈ t :: ts) (hleast : ∀ b ∈ t :: ts, t0 ≤ b) :
    ts.foldl min t = t0 := by
  have hmin : (t :: ts).min? = some t0 := List.min?_eq_some_iff.mpr ⟨hmem, hleast⟩
  rw [List.min?_cons'] at hmin
  exact Option.some.inj hmin

/-- The state in which a lease that has been waited out since `t0` breaks its semaphore. -/
def State.lapsed (s : State) (c n t0 : Nat) : State :=
  (s.reach (t0 + 1000 * (s.sem c n).lease.toNat)).log 0x4035 (domCore c)

theorem exec_semLeaseLapse {sem : Sem} {t0 : Nat} (hdown : s.down = false) (hwhole : (s.sem core sem).broken = false)
    (hlease : (s.sem core sem).lease ≠ 0) (hmem : t0 ∈ s.waitsSince core sem)
    (hleast : ∀ b ∈ s.waitsSince core sem, t0 ≤ b) :
    exec (.semLeaseLapse core sem) s = .next ((s.lapsed core sem t0).breakSem core sem) := by
  change execSemLeaseLapse core sem s = _
  rw [execSemLeaseLapse, act_up hdown]
  dsimp only
  rw [if_neg (not_or.mpr ⟨hlease, by simp [hwhole]⟩)]
  change Host.Outcome.next (match s.waitsSince core sem with
    | [] => s
    | t :: ts => ((s.reach (ts.foldl min t + 1000 * (s.sem core sem).lease.toNat)).log 0x4035
        (domCore core)).breakSem core sem) = _
  generalize s.waitsSince core sem = ts at hmem hleast
  cases ts with
  | nil => exact absurd hmem List.not_mem_nil
  | cons t ts =>
    dsimp only
    rw [foldl_min_eq hmem hleast]
    rfl

end

/-- Settles O29, from what each semaphore instruction that executes and each post that arrives leaves. -/
theorem semaphores : Obligations.Semaphores := by
  intro s core ctx w hdown
  have honly := s.issued_onlyCtx core ctx
  have hretired : ((s.issued core ctx).retire core ctx).ctx core ctx = s.retired (s.ctx core ctx) := retire_ctx ..
  have hsems : ∀ n, ((s.issued core ctx).retire core ctx).sem core n = s.sem core n := fun n =>
    sem_of_only (State.retire_frame ..) (by decide) core n
  refine ⟨fun hissues henc hsem => ?init, fun sem count producer lease => ?set,
    fun hissues henc hsem hn hdest => ⟨fun hown hfits => ?posts, fun hown hover => ?overflows, fun haway => ?away⟩,
    fun sem count hsem hawake hsum hfits => ?arrives,
    fun hissues henc hsem hn => ⟨fun hbroken => ?waitBroken, fun hwhole => ?waits⟩,
    fun hissues henc hsem hn hbroken => ?tryBroken, fun hissues henc hsem hn hwhole => ?tries,
    fun sem t0 hwhole hlease hwaiter hleast => ?lapse⟩
  case init =>
    exact ⟨_, _, exec_semInit hdown hissues henc hsem, rfl,
      fun hnone => State.evalSem_of_no_waiters (State.retire_no_waiters (s := s.issued core ctx) ctx hnone), hretired,
      State.sem_setSem ..⟩
  case set =>
    have hframe := s.wakeCore_frame core
    have hgiven := State.sem_setSem (s.wakeCore core) core sem { (s.wakeCore core).sem core sem with
      count := BitVec.ofNat 16 count.toNat, producer := BitVec.ofNat 16 producer.toNat
      lease := BitVec.ofNat 16 lease.toNat, broken := false }
    rw [sem_of_only hframe (by decide)] at hgiven
    simp only [BitVec.ofNat_toNat, BitVec.setWidth_eq] at hgiven
    refine ⟨_, _, exec_semSet hdown, rfl, fun hnone => State.evalSem_of_no_waiters ?_, ?_⟩
    · exact (semWaiters_of_only hframe (by decide) core sem).trans hnone
    · rw [State.semGiven, sem_of_only hframe (by decide)]
      simpa only [BitVec.ofNat_toNat, BitVec.setWidth_eq] using hgiven
  case posts =>
    have hpost := State.post_counts (s := (s.issued core ctx).retire core ctx) (c := core) true hsem
      (by rw [State.retire, State.mapCtx_core, State.issued_core]; exact hissues.clocked) hfits
    refine ⟨_, _, exec_semPost hdown hissues henc hsem hn hdest ((if_pos hown).trans hpost), rfl,
      fun hnone => State.evalSem_raised _ _ (State.retire_no_waiters (s := s.issued core ctx) ctx hnone), ?_, ?_⟩
    · exact (State.raised_ctx _ _ _ (congrArg CtxSt.wait hretired)).trans hretired
    · rw [State.raised_sem, hsems]
      rfl
  case overflows =>
    have hpost := State.post_overflows (s := (s.issued core ctx).retire core ctx) (c := core) true hsem
      (by rw [State.retire, State.mapCtx_core, State.issued_core]; exact hissues.clocked) hover
    refine ⟨_, _, exec_semPost hdown hissues henc hsem hn hdest ((if_pos hown).trans hpost), rfl,
      State.breakSem_broken .., ?_, Logged.log_of_faults ?_ 0x4034 _ [] (by decide)⟩
    · rw [State.log_ctx, State.setSem_ctx, hretired]
    · rw [State.setSem_faults, (State.retire_frame ..).2 .faults (by decide)]
      exact s.issued_faults core ctx
  case away =>
    by_cases hskip : (s.ctx core ctx).skipPosts = 0
    · refine ⟨_, exec_semPost hdown hissues henc hsem hn hdest ((if_neg haway).trans (if_neg (not_not_intro hskip))),
        s.travels_onlyCtx core ctx _, ?_⟩
      rw [if_pos hskip]
      exact ⟨s.travels_ctx core ctx _, s.travels_posts core ctx _⟩
    · refine ⟨_, exec_semPost hdown hissues henc hsem hn hdest ((if_neg haway).trans (if_pos hskip)),
        s.suppresses_onlyCtx core ctx, ?_⟩
      rw [if_neg hskip]
      exact ⟨s.suppresses_ctx core ctx, s.suppresses_posts core ctx⟩
  case arrives =>
    have hpost := State.post_counts (c := core) (sem := sem.toNat)
      (s := s.withoutPosts core sem.toNat count) false hsem
      (by rw [State.withoutPosts_core, hawake]; exact of_decide_eq_true rfl) hfits
    refine ⟨_, _, (exec_semPostArrive hdown hsem hsum).trans (congrArg _ hpost), rfl, ?_,
      fun hnone => State.evalSem_raised _ _ ((State.withoutPosts_semWaiters ..).trans hnone), ?_⟩
    · rw [(State.evalSem_frame ..).2 .posts (by decide), (State.raised_frame ..).2 .posts (by decide)]
      rfl
    · rw [State.raised_sem, State.withoutPosts_sem]
      rfl
  case waitBroken =>
    obtain ⟨u, hfault, hlogged, hstatus, hcause⟩ := s.issued_brokenWait core ctx
    exact ⟨_, u, (exec_semWait hdown hissues henc hsem hn).trans (congrArg _ (if_pos hbroken)), hfault, hlogged,
      hstatus, hcause⟩
  case waits =>
    refine ⟨_, (exec_semWait hdown hissues henc hsem hn).trans (congrArg _ (if_neg (by simp [hwhole]))), ?_, ?_⟩
    · split
      · exact (honly.trans fun d y _ => State.setSem_ctx ..).trans (State.retire_onlyCtx _ _ _)
      · exact s.stalled_onlyCtx core ctx _
    · by_cases hthere : fld w 79 64 ≤ (s.sem core (fld w 95 88)).count.toNat
      · rw [if_pos hthere, if_pos hthere]
        exact ⟨retire_ctx .., State.sem_setSem ..⟩
      · rw [if_neg hthere, if_neg hthere]
        exact ⟨s.stalled_ctx core ctx _, rfl⟩
  case tryBroken =>
    obtain ⟨u, hfault, hlogged, hstatus, hcause⟩ := s.issued_brokenWait core ctx
    exact ⟨_, u, (exec_semTry hdown hissues henc hsem hn).trans (congrArg _ (if_pos hbroken)), hfault, hlogged,
      hstatus, hcause⟩
  case tries =>
    refine ⟨_, (exec_semTry hdown hissues henc hsem hn).trans (congrArg _ (if_neg (by simp [hwhole]))), ?_⟩
    by_cases hthere : fld w 79 64 ≤ (s.sem core (fld w 95 88)).count.toNat
    · rw [if_pos hthere, if_pos hthere, decide_eq_true hthere]
      exact ⟨(honly.trans fun d y _ => State.setSem_ctx ..).trans (State.retireP_onlyCtx _ _ _ _ _), State.retireP_ctx ..,
        State.sem_setSem ..⟩
    · rw [if_neg hthere, if_neg hthere, decide_eq_false hthere]
      exact ⟨honly.trans (State.retireP_onlyCtx _ _ _ _ _), State.retireP_ctx .., State.issued_retireP_sems _ _ _ _ _⟩
  case lapse =>
    obtain ⟨x, j, hwait⟩ := hwaiter
    refine ⟨_, _, exec_semLeaseLapse hdown hwhole hlease (State.mem_waitsSince.mpr ⟨x, x.isLt, j, hwait⟩) ?_, rfl,
      Logged.log_of_faults (State.reach_faults ..) 0x4035 _ [] (by decide), State.breakSem_broken .., ?_⟩
    · intro b hb
      obtain ⟨y, hy, k, hk⟩ := State.mem_waitsSince.mp hb
      exact hleast ⟨y, hy⟩ k b hk
    · rw [(State.breakSem_frame ..).2 .hall (by decide), State.lapsed, State.log_hall, State.reach_hall']

end Sys2Proof.Machine

/-!
The tally table (O36): the record of a tag as the table keeps it, a delta that is applied, and TAL.RD.
-/
namespace Sys2Proof.Machine

/-! ### Records in the table (R300) -/

/-- What stands at the head of the table is found. -/
theorem State.tallyRec_of_head {s : State} {tag : Nat} {r : TallyRec} {rest : List (Nat × TallyRec)}
    (hchip : s.watch.chip = (tag, r) :: rest) : s.tallyRec tag = r := by
  rw [State.tallyRec, hchip, List.find?_cons_of_pos (by simp)]

theorem tallyRec_of_only {s t : State} {ps : List Part} (h : Only ps s t) (hwatch : Part.watch ∉ ps)
    (hmem : Part.mem ∉ ps) (hpoison : Part.poison ∉ ps) (tag : Nat) : t.tallyRec tag = s.tallyRec tag := by
  have hw : t.watch = s.watch := h.2 .watch hwatch
  have hm : t.mem = s.mem := h.2 .mem hmem
  have hp : t.poison = s.poison := h.2 .poison hpoison
  simp only [State.tallyRec, State.slotRec, State.poisoned, State.read, hw, hm, hp] <;> rfl

theorem State.tallyPut_chip (s : State) (tag : Nat) (r : TallyRec) :
    ∃ rest, (s.tallyPut tag r).watch.chip = (tag, r) :: rest := ⟨_, rfl⟩

theorem State.tallyPut_frame (s : State) (tag : Nat) (r : TallyRec) :
    Only [.mem, .poison, .watch] s (s.tallyPut tag r) :=
  State.tallyPut_only (Only.refl _ s) (by decide) tag r

theorem State.tallyLoad_frame (s : State) (tag : Nat) :
    Only [.mem, .poison, .watch, .objects, .ring] s (s.tallyLoad tag).2 :=
  State.tallyLoad_only (Only.refl _ s) (by decide) tag

theorem State.tallyLoad_fst (s : State) (tag : Nat) :
    (s.tallyLoad tag).1 = (s.tallyRec tag).rollOver (s.obj 0x8010 3) := rfl

/-- Loading a record counts a load and logs a poisoned slot; it writes no other object. -/
theorem State.tallyLoad_obj (s : State) {tag a b : Nat} (hload : okey a b ≠ okey 0x8010 5)
    (htotal : okey a b ≠ okey 0x9004 2) (hlost : okey a b ≠ okey 0x9004 3) :
    (s.tallyLoad tag).2.obj a b = s.obj a b := by
  have hput : ∀ t : State, ∀ r, (t.tallyPut tag r).obj a b = t.obj a b := fun t r =>
    obj_of_only (t.tallyPut_frame tag r) (by decide) a b
  change (State.tallyPut _ tag _).obj a b = _
  rw [hput, State.on]
  split
  · rw [State.obj_count64, if_neg hload]
    unfold State.readPoison
    split
    · exact State.log_obj _ _ _ htotal hlost
    · rfl
  · rfl

/-! ### A delta that is applied (R300, R302, R306) -/

/-- The record of a delta's tag with the delta charged, and the counters that reached their limit. -/
def State.charged (s : State) (d : Delta) : TallyRec × Nat :=
  ((s.tallyRec d.tag).rollOver (s.obj 0x8010 3)).charge d

/-- The state in which the charged record and the shares are in the table, and nothing is counted yet. -/
def State.chargedPut (s : State) (d : Delta) : State :=
  ((s.tallyLoad d.tag).2.tallyPut d.tag (s.charged d).1).setWatch fun w => { w with
    shares := if d.fmt = 0 then w.shares
      else Tbl.set .none w.shares d.fmt ((Tbl.get .none w.shares d.fmt).add d) }

theorem State.applyDelta_eq (s : State) (d : Delta) : s.applyDelta d =
    ((s.chargedPut d).count64 0x8010 4 (d.inf + d.nan)).on ((s.charged d).2 != 0) (·.count 0x8010 6 (s.charged d).2) :=
  rfl

theorem State.applyDelta_frame (s : State) (d : Delta) :
    Only [.mem, .poison, .watch, .objects, .ring] s (s.applyDelta d) :=
  State.applyDelta_only (Only.refl _ s) (by decide) d

theorem State.applyDelta_counts (s : State) (d : Delta) : Only [.objects] (s.chargedPut d) (s.applyDelta d) := by
  rw [State.applyDelta_eq]
  exact State.on_only (State.count64_only (Only.refl _ _) (by decide) ..) _ _ fun t ht =>
    State.count_only ht (by decide) ..

theorem State.applyDelta_tallyRec (s : State) (d : Delta) : (s.applyDelta d).tallyRec d.tag = (s.charged d).1 := by
  obtain ⟨rest, hchip⟩ := (s.tallyLoad d.tag).2.tallyPut_chip d.tag (s.charged d).1
  refine State.tallyRec_of_head (rest := rest) ?_
  rw [(s.applyDelta_counts d).2 .watch (by decide)]
  exact hchip

theorem State.chargedPut_obj (s : State) (d : Delta) : (s.chargedPut d).obj 0x8010 4 = s.obj 0x8010 4 := by
  have hput := obj_of_only ((s.tallyLoad d.tag).2.tallyPut_frame d.tag (s.charged d).1) (by decide) 0x8010 4
  rw [State.chargedPut, State.setWatch_obj, hput, s.tallyLoad_obj (by decide) (by decide) (by decide)]

theorem State.applyDelta_nf (s : State) (d : Delta) :
    (s.applyDelta d).obj 0x8010 4 = (s.obj 0x8010 4 + (d.inf + d.nan)) % 2 ^ 64 := by
  have hcount : ((s.chargedPut d).count64 0x8010 4 (d.inf + d.nan)).obj 0x8010 4 =
      (s.obj 0x8010 4 + (d.inf + d.nan)) % 2 ^ 64 := by
    rw [State.obj_count64, if_pos rfl, State.chargedPut_obj]
  rw [State.applyDelta_eq, State.on]
  split
  · rw [State.obj_count, if_neg (by decide), hcount]
  · exact hcount

/-- The reads that wait for the table come one delta nearer. -/
def State.readsNearer (s : State) : State :=
  s.each (s.ctxs.map (·.1)) fun s k =>
    let v := Tbl.get .reset s.ctxs k
    match v.wait with
    | .tally tag a n => { s with ctxs := Tbl.set .reset s.ctxs k { v with wait := .tally tag a (n - 1) } }
    | _ => s

theorem State.readsNearer_frame (s : State) : Only [.ctxs] s s.readsNearer := by
  refine State.each_only (Only.refl _ s) _ _ fun t k ht => ?_
  dsimp only
  split
  · refine Only.leaf ht fun p hp => ?_
    cases p
    case ctxs => exact absurd (by decide) hp
    all_goals rfl
  · exact ht

theorem exec_tallyDelta {s : State} {d : Delta} {ds : List Delta} (hdown : s.down = false) (hdeltas : s.deltas = d :: ds) :
    exec .tallyDelta s = .next (({ s with deltas := ds } : State).applyDelta d).readsNearer := by
  change execTallyDelta s = _
  rw [execTallyDelta, act_up hdown]
  dsimp only
  rw [hdeltas]
  rfl

/-! ### TAL.RD (R301) -/

theorem exec_talRd {s : State} {core : Core} {ctx : Ctx} {w : Nat} (hdown : s.down = false)
    (hissues : s.Issues core ctx 0x70 w) (henc : unassigned w [(111, 104), (95, 80)] = false)
    (haligned : s.sreg core ctx (fld w 107 104) % 64 = 0) (hfits : s.sreg core ctx (fld w 107 104) + 256 ≤ storeSize 3) :
    exec (.talRd core ctx) s = .next ((s.issued core ctx).mapCtx core ctx fun v => { v with
      status := .waiting
      wait := .tally ((s.sreg core ctx (fld w 111 108) + fld w 95 80) % 65536) (s.sreg core ctx (fld w 107 104))
        s.deltas.length }) := by
  have hchecks : (decide (s.sreg core ctx (fld w 107 104) % 64 ≠ 0) ||
      decide (storeSize 3 < s.sreg core ctx (fld w 107 104) + 256)) = false := by
    simp [haligned, hfits]
  exact exec_of_issue rfl hdown hissues (by decide) (failIf_false henc 1) (failIf_false hchecks 5) rfl

/-- The state in which the record that a context waits for is in scratch, and the context waits still. -/
def State.tallyStored (s : State) (c tag a : Nat) : State :=
  (s.tallyLoad tag).2.storeWrite c 3 a (((s.tallyRec tag).rollOver (s.obj 0x8010 3)).image tag)

/-- The state after a TAL.RD that is served. -/
def State.tallyServed (s : State) (c x tag a : Nat) : State := (s.tallyStored c tag a).retire c x

theorem exec_tallyReadServe {s : State} {core : Core} {ctx : Ctx} {tag a : Nat} (hdown : s.down = false)
    (hwait : (s.ctx core ctx).wait = .tally tag a 0) :
    exec (.tallyReadServe core ctx) s = .next (s.tallyServed core ctx tag a) := by
  change execTallyReadServe core ctx s = _
  rw [execTallyReadServe, act_up hdown]
  dsimp only
  rw [hwait]
  rfl

theorem TallyRec.image_length (r : TallyRec) (tag : Nat) : (r.image tag).length = 256 := by
  simp [TallyRec.image, List.length_flatMap, leBytes_length]

/-- What is written into a core store is what it reads back. -/
theorem State.storeRead_storeWrite (u : State) (c st off : Nat) (bs : List Byte) :
    (u.storeWrite c st off bs).storeRead c st off bs.length = bs :=
  Memory.read_write_same

theorem State.tallyServed_reads (s : State) (c x tag a : Nat) : (s.tallyServed c x tag a).storeRead c 3 a 256 =
    ((s.tallyRec tag).rollOver (s.obj 0x8010 3)).image tag := by
  have hread := (s.tallyLoad tag).2.storeRead_storeWrite c 3 a (((s.tallyRec tag).rollOver (s.obj 0x8010 3)).image tag)
  rw [TallyRec.image_length, ← State.tallyStored] at hread
  rw [State.tallyServed, State.storeRead, ((s.tallyStored c tag a).retire_frame c x).2 .stores (by decide),
    ← State.storeRead, hread]

theorem State.tallyServed_ctx (s : State) (c x tag a : Nat) :
    (s.tallyServed c x tag a).ctx c x = s.retired (s.ctx c x) := by
  have hnow : (s.tallyStored c tag a).now = s.now := congrArg (· / 64) ((s.tallyLoad_frame tag).2 .hall (by decide))
  rw [State.tallyServed, State.retire_ctx_of_now hnow, State.tallyStored, State.storeWrite_ctx,
    ctx_of_only (s.tallyLoad_frame tag) (by decide)]

theorem State.tallyServed_onlyCtx (s : State) (c : Core) (x : Ctx) (tag a : Nat) :
    OnlyCtx s (s.tallyServed c x tag a) c x :=
  ((OnlyCtx.of_only (s.tallyLoad_frame tag) (by decide) c x).trans fun _ _ _ => State.storeWrite_ctx ..).trans
    (State.retire_onlyCtx _ _ _)

/-- Settles O36, from the delta that is applied and the record that is served. -/
theorem tallyTable : Obligations.TallyTable := by
  intro s hdown
  refine ⟨fun d ds hdeltas => ?delta, fun core ctx => ⟨fun w hissues henc haligned hfits => ?reads, fun tag a hwait => ?served⟩⟩
  case delta =>
    have hnearer := (({ s with deltas := ds } : State).applyDelta d).readsNearer_frame
    have happlied := ({ s with deltas := ds } : State).applyDelta_frame d
    refine ⟨_, exec_tallyDelta hdown hdeltas, ?_, ?_, ?_, ?_⟩
    · rw [hnearer.2 .deltas (by decide), happlied.2 .deltas (by decide)]
    · rw [tallyRec_of_only hnearer (by decide) (by decide) (by decide), State.applyDelta_tallyRec]
      rfl
    · rw [obj_of_only hnearer (by decide), State.applyDelta_nf]
      rfl
    · rw [hnearer.2 .stores (by decide), happlied.2 .stores (by decide)]
  case reads =>
    exact ⟨_, exec_talRd hdown hissues henc haligned hfits,
      (s.issued_onlyCtx core ctx).trans (State.mapCtx_onlyCtx _ _ _ _), ctx_mapCtx ..⟩
  case served =>
    exact ⟨_, exec_tallyReadServe hdown hwait, s.tallyServed_onlyCtx core ctx tag a, s.tallyServed_ctx core ctx tag a,
      s.tallyServed_reads core ctx tag a⟩

end Sys2Proof.Machine

/-!
The die controller's commands (O34): START, STOP, READ and the load of instructions, in a core that has been woken.
-/
namespace Sys2Proof.Machine

/-! ### A core that sleeps wakes (R372) -/

/-- A later part of the command that keeps the core's power keeps that it wakes. -/
theorem State.wakes_of_power {s t : State} {c : Nat} (hpower : (t.core c).power = ((s.wakeCore c).core c).power)
    (hasleep : (s.core c).power = .asleep) : (t.core c).power = .waking :=
  hpower.trans (State.wakeCore_asleep hasleep).1

theorem State.wakeCore_ctxs (s : State) (c : Nat) : (s.wakeCore c).ctxs = s.ctxs :=
  (s.wakeCore_frame c).2 .ctxs (by decide)

theorem State.wakeCore_ctx (s : State) (c d y : Nat) : (s.wakeCore c).ctx d y = s.ctx d y :=
  ctx_of_only (s.wakeCore_frame c) (by decide) d y

theorem State.wakeCore_residentBusy (s : State) (c d : Nat) : (s.wakeCore c).residentBusy d = s.residentBusy d := by
  simp only [State.residentBusy, State.wakeCore_ctx]

/-! ### START -/

section
variable (s : State) (c x : Nat) (stream : Bool) (key : BitVec 8) (pc : BitVec 44) (regs : List (BitVec 64))
  (preds : BitVec 7)

/-- A context as START leaves it. -/
def CtxSt.started (v : CtxSt) (now : Nat) : CtxSt :=
  { CtxSt.reset with
    regs := Vector.ofFn fun i => if i.val = 0 then 0 else regs.getD (i.val - 1) 0
    preds := preds ++ 0#1
    pc := pc, stream := stream, stageKey := key, status := .ready, cause := v.cause, pace := now }

theorem State.startCtx_eq : s.startCtx c x stream key pc regs preds =
    ((s.mapCtx c x fun v => v.started stream key pc regs preds s.now).setHost fun p =>
      { p with started := p.started.filter (· != ctxKey c x) }).mapCore c fun k =>
        { k with replay := [], fenceAt := none, parkedAt := none, overrun := false } := rfl

theorem State.startCtx_ctx : (s.startCtx c x stream key pc regs preds).ctx c x =
    (s.ctx c x).started stream key pc regs preds s.now := by
  rw [State.startCtx_eq, State.mapCore_ctx, State.setHost_ctx, ctx_mapCtx]

theorem State.startCtx_onlyCtx (core : Core) (ctx : Ctx) :
    OnlyCtx s (s.startCtx core ctx stream key pc regs preds) core ctx := fun d y hne => by
  rw [State.startCtx_eq, State.mapCore_ctx, State.setHost_ctx, ctx_mapCtx_other _ hne]

theorem State.startCtx_core : (s.startCtx c x stream key pc regs preds).core c =
    { s.core c with replay := [], fenceAt := none, parkedAt := none, overrun := false } := by
  rw [State.startCtx_eq, core_mapCore, State.setHost_core, State.mapCtx_core]

variable (v : CtxSt) (now : Nat)

theorem CtxSt.started_s (i : Fin 15) : (v.started stream key pc regs preds now).s (i + 1) = regs.getD i 0 := by
  have hi : i.val + 1 < 16 := by omega
  rw [CtxSt.s, if_neg (Nat.succ_ne_zero _)]
  simp [CtxSt.started, List.getD_eq_getElem?_getD, hi]

theorem CtxSt.started_p (i : Fin 7) : (v.started stream key pc regs preds now).p (i + 1) = preds.getLsbD i := by
  rw [CtxSt.p, CtxSt.started, BitVec.getLsbD_append, if_neg (by omega)]
  rfl

end

/-! ### STOP -/

theorem CtxSt.stop_of_runs {v : CtxSt} (hidle : v.status ≠ .idle) (hfaulted : v.status ≠ .faulted)
    (hstopped : v.status ≠ .stopped) : v.stop = { v with status := .stopped, wait := .none } := by
  unfold CtxSt.stop
  split
  next h => exact absurd h hidle
  next h => exact absurd h hfaulted
  next h => exact absurd h hstopped
  next => rfl

theorem CtxSt.stop_of_rests {v : CtxSt} (hrests : v.status = .idle ∨ v.status = .faulted ∨ v.status = .stopped) :
    v.stop = v := by
  rcases hrests with h | h | h <;> rw [CtxSt.stop, h]

theorem CtxSt.recounted_eq (v : CtxSt) (now : Nat) : ∃ wait, v.recounted now = { v with wait := wait } := by
  unfold CtxSt.recounted
  split
  · exact ⟨_, rfl⟩
  · exact ⟨v.wait, rfl⟩

theorem State.stopCtx_ctx (s : State) (c x : Nat) : (s.stopCtx c x).ctx c x = (s.ctx c x).stop := by
  rw [State.stopCtx, ctx_of_only (State.noteActive_frame ..) (by decide), ctx_mapCtx]

/-- Counting the stalls first does not change how a context that runs is stopped. -/
theorem State.countStalls_stop {s : State} {c x : Nat} (hruns : (s.ctx c x).stop ≠ s.ctx c x) :
    (s.countStalls.ctx c x).stop = (s.ctx c x).stop := by
  have hrunning : (s.ctx c x).status ≠ .idle ∧ (s.ctx c x).status ≠ .faulted ∧ (s.ctx c x).status ≠ .stopped := by
    refine ⟨?_, ?_, ?_⟩ <;> exact fun h => hruns (CtxSt.stop_of_rests (by simp [h]))
  obtain ⟨hidle, hfaulted, hstopped⟩ := hrunning
  rcases s.countStalls_ctx c x with h | h
  · rw [h]
  · obtain ⟨wait, hwait⟩ := (s.ctx c x).recounted_eq s.now
    rw [h, hwait, CtxSt.stop_of_runs hidle hfaulted hstopped, CtxSt.stop_of_runs (v := { s.ctx c x with wait := wait })
      hidle hfaulted hstopped]

theorem State.countStalls_rest {s : State} {c x : Nat} :
    ∃ wait, s.countStalls.ctx c x = { s.ctx c x with wait := wait } := by
  rcases s.countStalls_ctx c x with h | h
  · exact ⟨(s.ctx c x).wait, h⟩
  · obtain ⟨wait, hwait⟩ := (s.ctx c x).recounted_eq s.now
    exact ⟨wait, h.trans hwait⟩

theorem State.countStalls_other (s : State) (d y : Nat) : s.countStalls.ctx d y = s.ctx d y ∨
    ∃ p a, (s.ctx d y).wait = .gather p a ∧ s.countStalls.ctx d y = { s.ctx d y with wait := .gather p s.now } := by
  rcases s.countStalls_ctx d y with h | h
  · exact .inl h
  · unfold CtxSt.recounted at h
    split at h
    next p a hwait => exact .inr ⟨p, a, hwait, h⟩
    next => exact .inl h

/-! ### Resident instructions (R213) -/

/-- Slots `k` to `k + n` filled in order hold what each was filled with. -/
theorem Tbl.get_filled {α : Type} [DecidableEq α] (d : α) (f : Nat → α) (k n : Nat) (t : Tbl α) (a : Nat) :
    Tbl.get d ((List.range n).foldl (fun t i => Tbl.set d t (k + i) (f i)) t) a =
      if k ≤ a ∧ a < k + n then f (a - k) else Tbl.get d t a := by
  induction n with
  | zero => rw [if_neg (by omega)]; rfl
  | succ n ih =>
    rw [List.range_succ, List.foldl_append, List.foldl_cons, List.foldl_nil]
    by_cases ha : a = k + n
    · rw [ha, Tbl.get_set_same, if_pos (by omega), Nat.add_sub_cancel_left]
    · rw [Tbl.get_set_other ha, ih]
      by_cases hin : k ≤ a ∧ a < k + n
      · rw [if_pos hin, if_pos (by omega)]
      · rw [if_neg hin, if_neg (by omega)]

theorem poisoned_of_only {s t : State} {ps : List Part} (h : Only ps s t) (hp : Part.poison ∉ ps) (a n : Nat) :
    t.poisoned a n = s.poisoned a n :=
  congrArg (List.any · _) (h.2 .poison hp)

theorem readNat_of_only {s t : State} {ps : List Part} (h : Only ps s t) (hp : Part.mem ∉ ps) (a n : Nat) :
    t.readNat a n = s.readNat a n :=
  congrArg (fun m => leNat (Memory.read m a n)) (h.2 .mem hp)

theorem imemRange_of_only {s t : State} {ps : List Part} (h : Only ps s t) (hspans : Part.spans ∉ ps)
    (hpoison : Part.poison ∉ ps) (first count src : Nat) : imemRange t first count src = imemRange s first count src := by
  rw [imemRange, visible_of_only h hspans, poisoned_of_only h hpoison, imemRange]

theorem State.loadImem_imem (s : State) (c first count src k : Nat) :
    Tbl.get 0 (s.loadImem c first count src).imem k =
      if 4096 * c + first ≤ k ∧ k < 4096 * c + first + count then
        BitVec.ofNat 128 (s.readNat (src + 16 * (k - (4096 * c + first))) 16)
      else Tbl.get 0 s.imem k :=
  Tbl.get_filled 0 _ (4096 * c + first) count s.imem k

/-! ### The commands (R213) -/

section
variable {s : State} {core : Core} {ctx : Ctx}

theorem exec_dcStart {stream : Bool} {key : BitVec 8} {pc : BitVec 44} {regs : List (BitVec 64)} {preds : BitVec 7}
    (hdown : s.down = false) : exec (.dcStart core ctx stream key pc regs preds) s =
      .next (if (s.ctx core ctx).startable then (s.wakeCore core).startCtx core ctx stream key pc regs preds
        else (s.wakeCore core).emit (.dcRefused .notStartable)) := by
  change execDcStart core ctx stream key pc regs preds s = _
  rw [execDcStart, act_up hdown]
  dsimp only
  rw [State.wakeCore_ctx]

theorem exec_dcStop (hdown : s.down = false) :
    exec (.dcStop core ctx) s = .next ((s.countStalls.wakeCore core).stopCtx core ctx) := by
  change execDcStop core ctx s = _
  rw [execDcStop, act_up hdown]

theorem exec_contextRead (hdown : s.down = false) : exec (.contextRead core ctx) s = .next ((s.wakeCore core).emit
    (.context (s.ctx core ctx).word ((List.range 15).map fun i => (s.ctx core ctx).s (i + 1)) (s.ctx core ctx).preds
      (s.ctx core ctx).loops)) := by
  change execContextRead core ctx s = _
  rw [execContextRead, act_up hdown]
  dsimp only
  rw [State.wakeCore_ctx]

theorem exec_seqImemLoad {first count : BitVec 13} {src : BitVec 41} (hdown : s.down = false) :
    exec (.seqImemLoad core first count src) s =
      .next (if s.residentBusy core then (s.wakeCore core).emit (.dcRefused .residentRuns)
        else if !imemRange (s.wakeCore core) first.toNat count.toNat src.toNat then
          (s.wakeCore core).emit (.dcRefused .badRange)
        else (s.wakeCore core).loadImem core first.toNat count.toNat src.toNat) := by
  change execSeqImemLoad core first count src s = _
  rw [execSeqImemLoad, act_up hdown]
  dsimp only
  rw [State.wakeCore_residentBusy]

/-- A STOP leaves the power of the core as its wake has made it. -/
theorem State.dcStop_power (s : State) (c x : Nat) :
    (((s.countStalls.wakeCore c).stopCtx c x).core c).power = ((s.countStalls.wakeCore c).core c).power := by
  have hnote : ∀ t : State, ((t.noteActive c).core c).power = (t.core c).power := fun t => by
    rw [State.noteActive, core_mapCore]
    split <;> rfl
  rw [State.stopCtx, hnote, State.mapCtx_core]

theorem State.dcStop_ctx (s : State) (c x : Nat) :
    ((s.countStalls.wakeCore c).stopCtx c x).ctx c x = (s.countStalls.ctx c x).stop := by
  rw [State.stopCtx_ctx, State.wakeCore_ctx]

theorem State.dcStop_others (s : State) (core : Core) (ctx : Ctx) :
    OnlyCtxAndStalls s ((s.countStalls.wakeCore core).stopCtx core ctx) core ctx := fun d y hne => by
  rw [State.stopCtx, ctx_of_only (State.noteActive_frame ..) (by decide), ctx_mapCtx_other _ hne, State.wakeCore_ctx]
  exact s.countStalls_other d y

end

/-- Settles O34, from what each command of the die controller leaves. -/
theorem dieControllerCommands : Obligations.DieControllerCommands := by
  intro s core ctx hdown
  have hstops : (s.core core).power = .asleep →
      (((s.countStalls.wakeCore core).stopCtx core ctx).core core).power = .waking := fun hasleep =>
    State.wakes_of_power (s.dcStop_power core ctx) (by rwa [State.countStalls_core])
  refine ⟨fun stream key pc regs preds => ⟨fun hstartable => ?starts, fun hbusy => ?refused⟩,
    fun hidle hfaulted hstopped => ?stops, fun hrests => ?rests, ?reads,
    fun first count src => ⟨fun hbusy => ?resident, fun hfree hrange => ?loads⟩⟩
  case starts =>
    have hcore := (s.wakeCore core).startCtx_core core ctx stream key pc regs preds
    refine ⟨_, (exec_dcStart hdown).trans (congrArg _ (if_pos hstartable)),
      (OnlyCtx.of_only (s.wakeCore_frame core) (by decide) core ctx).trans (State.startCtx_onlyCtx _ _ _ _ _ _ _ _),
      by rw [hcore], by rw [hcore], State.wakes_of_power (by rw [hcore]), ?_⟩
    rw [State.startCtx_ctx]
    exact ⟨rfl, rfl, rfl, rfl, rfl, rfl, fun i => CtxSt.started_s .., fun i => CtxSt.started_p ..⟩
  case refused =>
    exact ⟨_, (exec_dcStart hdown).trans (congrArg _ (if_neg (by simp [hbusy]))),
      congrArg (_ :: ·) ((s.wakeCore_frame core).2 .out (by decide)), s.wakeCore_ctxs core, State.wakes_of_power rfl⟩
  case stops =>
    refine ⟨_, exec_dcStop hdown, s.dcStop_others core ctx, hstops, ?_⟩
    rw [State.dcStop_ctx, State.countStalls_stop, CtxSt.stop_of_runs hidle hfaulted hstopped]
    rw [CtxSt.stop_of_runs hidle hfaulted hstopped]
    exact fun h => hstopped (congrArg CtxSt.status h).symm
  case rests =>
    obtain ⟨wait, hwait⟩ := s.countStalls_rest (c := core) (x := ctx)
    refine ⟨_, exec_dcStop hdown, s.dcStop_others core ctx, hstops, ?_⟩
    rw [State.dcStop_ctx, hwait, CtxSt.stop_of_rests (v := { s.ctx core ctx with wait := wait }) hrests]
    exact ⟨rfl, rfl, rfl⟩
  case reads =>
    exact ⟨_, exec_contextRead hdown, s.wakeCore_ctxs core, State.wakes_of_power rfl,
      congrArg (_ :: ·) ((s.wakeCore_frame core).2 .out (by decide))⟩
  case resident =>
    exact ⟨_, (exec_seqImemLoad hdown).trans (congrArg _ (if_pos hbusy)),
      congrArg (_ :: ·) ((s.wakeCore_frame core).2 .out (by decide)), (s.wakeCore_frame core).2 .imem (by decide),
      State.wakes_of_power rfl⟩
  case loads =>
    have hframe := s.wakeCore_frame core
    have hrange' : imemRange (s.wakeCore core) first.toNat count.toNat src.toNat = true := by
      rwa [imemRange_of_only hframe (by decide) (by decide)]
    refine ⟨_, (exec_seqImemLoad hdown).trans (congrArg _ ((if_neg (by simp [hfree])).trans (if_neg (by simp [hrange'])))),
      State.wakes_of_power rfl, fun k => ?_⟩
    rw [State.loadImem_imem, hframe.2 .imem (by decide), readNat_of_only hframe (by decide)]

end Sys2Proof.Machine

/-!
The ring's commands to a core (O55): what each completes with, and what an accepted one leaves.
-/
namespace Sys2Proof.Machine

/-! ### Fields of a run of bytes (R9) -/

/-- Bytes within a stretch that has been read are the bytes at their own addresses. -/
theorem State.leAt_read {s : State} {a n i k : Nat} (hfits : i + k ≤ n) :
    leAt (s.read a n) i k = s.readNat (a + i) k := by
  rw [leAt, State.read, Memory.read_stretch hfits, State.readNat]

/-- What is read within a stretch that has been written is what the bytes written hold there. -/
theorem State.readNat_write {s : State} {a i k : Nat} {bs : List Byte} (hfits : i + k ≤ bs.length) :
    (s.write a bs).readNat (a + i) k = leAt bs i k := by
  rw [← State.leAt_read hfits]
  exact congrArg (leAt · i k) Memory.read_write_same

theorem leAt_append_left {xs ys : List Byte} {i k : Nat} (hfits : i + k ≤ xs.length) :
    leAt (xs ++ ys) i k = leAt xs i k := by
  rw [leAt, leAt, List.drop_append_of_le_length (by omega), List.take_append_of_le_length (by simp; omega)]

theorem leAt_append_right (xs ys : List Byte) (i k : Nat) : leAt (xs ++ ys) (xs.length + i) k = leAt ys i k := by
  rw [leAt, leAt, List.drop_append, List.drop_of_length_le (Nat.le_add_right ..), List.nil_append, Nat.add_sub_cancel_left]

theorem leAt_leBytes {n v : Nat} (hv : v < 256 ^ n) : leAt (leBytes n v) 0 n = v := by
  rw [leAt, List.drop_zero, List.take_of_length_le (leBytes_length n v).le, leNat_leBytes n v hv]

/-- Element `i` of equal pieces in a row. -/
theorem leAt_flatMap_range {f : Nat → List Byte} {k : Nat} (hlength : ∀ i, (f i).length = k) {m i : Nat} (hi : i < m) :
    leAt ((List.range m).flatMap f) (k * i) k = leNat (f i) := by
  have hpieces : ∀ j, ((List.range j).flatMap f).length = k * j := fun j => by
    simp [List.length_flatMap, hlength, Nat.mul_comm]
  obtain ⟨rest, rfl⟩ : ∃ rest, m = i + 1 + rest := ⟨m - (i + 1), by omega⟩
  rw [List.range_add, List.flatMap_append, leAt_append_left (by rw [hpieces, Nat.mul_succ]), List.range_succ,
    List.flatMap_append]
  have hlast := leAt_append_right ((List.range i).flatMap f) ([i].flatMap f) 0 k
  rw [hpieces, Nat.add_zero] at hlast
  rw [hlast, leAt, List.flatMap_singleton, List.drop_zero, List.take_of_length_le (hlength i).le]

/-! ### The image of a context (R213) -/

namespace CtxSt
variable (v : CtxSt)

/-- The status word and the registers, at the head of the image. -/
def registersImage : List Byte :=
  leBytes 16 v.word.toNat ++ (List.range 15).flatMap fun i => leBytes 8 (v.s (i + 1)).toNat

theorem image_eq : ∃ loops : List Byte, loops.length = 24 ∧
    v.image = v.registersImage ++ (leBytes 8 (v.preds.toNat / 2) ++ loops) := by
  refine ⟨_, ?_, List.append_assoc ..⟩
  simp [fit]
  omega

theorem registersImage_length : v.registersImage.length = 136 := by
  simp [registersImage, List.length_flatMap, leBytes_length]

theorem image_length : v.image.length = 168 := by
  obtain ⟨loops, hloops, himage⟩ := v.image_eq
  rw [himage, List.length_append, List.length_append, registersImage_length, leBytes_length, hloops]

theorem image_word : leAt v.image 0 16 = v.word.toNat := by
  obtain ⟨loops, -, himage⟩ := v.image_eq
  rw [himage, leAt_append_left (by rw [registersImage_length]; omega), registersImage,
    leAt_append_left (by rw [leBytes_length]), leAt_leBytes v.word.isLt]

theorem image_s (i : Fin 15) : leAt v.image (16 + 8 * i) 8 = (v.s (i + 1)).toNat := by
  obtain ⟨loops, -, himage⟩ := v.image_eq
  have hat := leAt_append_right (leBytes 16 v.word.toNat) ((List.range 15).flatMap fun i => leBytes 8 (v.s (i + 1)).toNat)
    (8 * i) 8
  rw [leBytes_length, leAt_flatMap_range (fun _ => leBytes_length ..) i.isLt, leNat_leBytes _ _ (v.s _).isLt] at hat
  rw [himage, leAt_append_left (by rw [registersImage_length]; omega)]
  exact hat

theorem image_preds : leAt v.image 136 8 = v.preds.toNat / 2 := by
  obtain ⟨loops, -, himage⟩ := v.image_eq
  have hat := leAt_append_right v.registersImage (leBytes 8 (v.preds.toNat / 2) ++ loops) 0 8
  rw [registersImage_length] at hat
  have hsmall : v.preds.toNat / 2 < 256 ^ 8 := by have := v.preds.isLt; omega
  rw [himage, hat, leAt_append_left (by rw [leBytes_length]), leAt_leBytes hsmall]

end CtxSt

theorem State.write_get_other (s : State) {a i : Nat} {bs : List Byte} (houtside : i < a ∨ a + bs.length ≤ i) :
    Tbl.get 0 (s.write a bs).mem i = Tbl.get 0 s.mem i :=
  Memory.get_write_other houtside

theorem State.readNat_image (s : State) (a : Nat) (v : CtxSt) {i k : Nat} (hfits : i + k ≤ 168) :
    (s.write a v.image).readNat (a + i) k = leAt v.image i k :=
  State.readNat_write (by rwa [CtxSt.image_length])

/-! ### The four commands -/

section
variable {s v : State} {e : BitVec 512} {status : Nat} {words : List Nat}

theorem State.onCore_missing {c : Nat} (run : State → Result) (hc : 192 ≤ c) : s.onCore c run = s.fails 3 452 :=
  if_neg (Nat.not_lt.mpr hc)

theorem State.onCore_exists {c : Nat} (run : State → Result) (hc : c < 192) : s.onCore c run = run (s.wakeCore c) :=
  if_pos hc

/-- What IMEM_LOAD does in a core that has been woken. -/
def State.imemLoad (s : State) (e : Nat) : Result :=
  if fld (eArg e 1) 28 16 = 0 ∨ 4096 < fld (eArg e 1) 28 16 ∨ 4096 < fld (eArg e 1) 12 0 + fld (eArg e 1) 28 16 then
    s.fails 3 213
  else s.fetchArg (eArg e 2) (16 * fld (eArg e 1) 28 16) fun _ =>
    if s.residentBusy (eArg e 0) then s.fails 6 (Config.refusalReason 4)
    else (s.loadImem (eArg e 0) (fld (eArg e 1) 12 0) (fld (eArg e 1) 28 16) (eArg e 2)).done

/-- The state after a CTX_START whose arguments are the bytes `bs`: the context is the host's. -/
def State.hostStarted (s : State) (e : Nat) (bs : List Byte) : State :=
  (s.startCtx (argCore e) (argCtx e) (bitAt (eArg e 0) 11) (BitVec.ofNat 8 (fld (eArg e 0) 19 12))
    (BitVec.ofNat 44 (eArg e 1)) ((List.range 15).map fun i => BitVec.ofNat 64 (leAt bs (8 * i) 8))
    (BitVec.ofNat 7 (leAt bs 120 1))).setHost fun p =>
      { p with started := p.started ++ [ctxKey (argCore e) (argCtx e)] }

/-- What CTX_START does in a core that has been woken. -/
def State.ctxStart (s : State) (e : Nat) : Result :=
  s.fetchArg (eArg e 2) 128 fun bs =>
    if !(s.ctx (argCore e) (argCtx e)).startable then s.fails 6 (Config.refusalReason 5)
    else (s.hostStarted e bs).done

/-- What CTX_READ does in a core that has been woken. -/
def State.ctxRead (s : State) (e : Nat) : Result :=
  if !s.visible (eArg e 1) 168 then s.fails 5
  else (s.write (eArg e 1) (s.ctx (argCore e) (argCtx e)).image).done

variable (hdown : s.down = false) (hstage : 2 ≤ s.boot.stage) (hok : entryOk e.toNat = true)
include hdown hstage hok

theorem exec_imemLoad (hopcode : eOpcode e.toNat = 4)
    (hrun : ((s.mpUp.takeEntry e).onCore (eArg e.toNat 0) fun s => s.imemLoad e.toNat) = (status, words, v)) :
    exec (.imemLoad e) s = .next ((v.complete e.toNat status words).streamAll) :=
  (hostCommand_runs (fun e s => s.onCore (eArg e 0) fun s => s.imemLoad e) hdown hstage hok hopcode).trans
    (by rw [hrun, State.answers])

theorem exec_ctxStart (hopcode : eOpcode e.toNat = 5)
    (hrun : ((s.mpUp.takeEntry e).onCore (argCore e.toNat) fun s => s.ctxStart e.toNat) = (status, words, v)) :
    exec (.ctxStart e) s = .next ((v.complete e.toNat status words).streamAll) :=
  (hostCommand_runs (fun e s => s.onCore (argCore e) fun s => s.ctxStart e) hdown hstage hok hopcode).trans
    (by rw [hrun, State.answers])

theorem exec_ctxStop (hopcode : eOpcode e.toNat = 6)
    (hrun : ((s.mpUp.takeEntry e).onCore (argCore e.toNat) fun s =>
      (s.countStalls.stopCtx (argCore e.toNat) (argCtx e.toNat)).done) = (status, words, v)) :
    exec (.ctxStop e) s = .next ((v.complete e.toNat status words).streamAll) :=
  (hostCommand_runs (fun e s => s.onCore (argCore e) fun s => (s.countStalls.stopCtx (argCore e) (argCtx e)).done)
    hdown hstage hok hopcode).trans (by rw [hrun, State.answers])

theorem exec_ctxRead (hopcode : eOpcode e.toNat = 7)
    (hrun : ((s.mpUp.takeEntry e).onCore (argCore e.toNat) fun s => s.ctxRead e.toNat) = (status, words, v)) :
    exec (.ctxRead e) s = .next ((v.complete e.toNat status words).streamAll) :=
  (hostCommand_runs (fun e s => s.onCore (argCore e) fun s => s.ctxRead e) hdown hstage hok hopcode).trans
    (by rw [hrun, State.answers])

end

/-! ### A context that is stopped keeps its program counter and its registers -/

theorem CtxSt.stop_eq (v : CtxSt) : ∃ status wait, v.stop = { v with status := status, wait := wait } := by
  unfold CtxSt.stop
  split
  case h_4 => exact ⟨_, _, rfl⟩
  all_goals exact ⟨v.status, v.wait, rfl⟩

theorem CtxSt.stop_pc (v : CtxSt) : v.stop.pc = v.pc := by
  obtain ⟨status, wait, hstop⟩ := v.stop_eq
  rw [hstop]

theorem CtxSt.stop_regs (v : CtxSt) : v.stop.regs = v.regs := by
  obtain ⟨status, wait, hstop⟩ := v.stop_eq
  rw [hstop]

/-- How a context is stopped does not turn on what it waits for. -/
theorem CtxSt.stop_status_of_wait (v : CtxSt) (wait : Wait) : ({ v with wait := wait } : CtxSt).stop.status = v.stop.status := by
  cases hstatus : v.status <;> simp [CtxSt.stop, hstatus]

/-! ### What an accepted command leaves -/

theorem State.hostStarted_ctx (s : State) (e : Nat) (bs : List Byte) :
    (s.hostStarted e bs).ctx (argCore e) (argCtx e) = (s.ctx (argCore e) (argCtx e)).started (bitAt (eArg e 0) 11)
      (BitVec.ofNat 8 (fld (eArg e 0) 19 12)) (BitVec.ofNat 44 (eArg e 1))
      ((List.range 15).map fun i => BitVec.ofNat 64 (leAt bs (8 * i) 8)) (BitVec.ofNat 7 (leAt bs 120 1)) s.now := by
  rw [State.hostStarted, State.setHost_ctx, State.startCtx_ctx]

theorem State.mem_hostStarted (s : State) (e : Nat) (bs : List Byte) :
    ctxKey (argCore e) (argCtx e) ∈ (s.hostStarted e bs).host.started := by
  rw [State.hostStarted, State.setHost_host]
  exact List.mem_append_right _ (List.mem_singleton_self _)

/-- The register that the image of a CTX_START gives. -/
theorem State.argRegister (s : State) (a : Nat) (i : Fin 15) :
    ((List.range 15).map fun i => BitVec.ofNat 64 (leAt (s.read a 128) (8 * i) 8)).getD i 0 =
      BitVec.ofNat 64 (s.readNat (a + 8 * i) 8) := by
  rw [← State.leAt_read (n := 128) (by omega)]
  simp [List.getD_eq_getElem?_getD]

theorem State.argPredicate (s : State) (a : Nat) (i : Fin 7) :
    (BitVec.ofNat 7 (leAt (s.read a 128) 120 1)).getLsbD i = bitAt (s.readNat (a + 120) 1) i := by
  rw [← State.leAt_read (n := 128) (by omega), BitVec.getLsbD_ofNat, decide_eq_true i.isLt, Bool.true_and, bitAt]

/-- Settles O55, from what each command does in a core that has been woken. -/
theorem coreCommandsOfTheRing : Obligations.CoreCommandsOfTheRing := by
  intro s e hdown hstage hok
  have htaken := s.takeEntry_frame e
  have hnow : ∀ c, ((s.mpUp.takeEntry e).wakeCore c).now = s.now := fun c =>
    congrArg (· / 64) ((((s.mpUp.takeEntry e).wakeCore_frame c).2 .hall (by decide)).trans (htaken.2 .hall (by decide)))
  have hctx : ∀ c d y, ((s.mpUp.takeEntry e).wakeCore c).ctx d y = s.ctx d y := fun c d y =>
    (State.wakeCore_ctx ..).trans (ctx_of_only htaken (by decide) d y)
  refine ⟨fun hop => ⟨fun hmissing => ?noImem, fun hcore => ⟨fun hrange => ?badRange, fun hone hmost hfits =>
      ⟨fun hhidden => ?imemHidden, fun hvisible hpoisoned => ?imemPoisoned, fun hvisible hclean =>
        ⟨fun hbusy => ?imemBusy, fun hfree => ?imemLoads⟩⟩⟩⟩,
    fun hop => ⟨fun hmissing => ?noStart, fun hcore => ⟨fun hhidden => ?startHidden,
      fun hvisible hpoisoned => ?startPoisoned, fun hvisible hclean => ⟨fun hbusy => ?startBusy, fun hstartable => ?starts⟩⟩⟩,
    fun hop => ⟨fun hmissing => ?noStop, fun hcore => ?stops⟩,
    fun hop => ⟨fun hmissing => ?noRead, fun hcore => ⟨fun hhidden => ?readHidden, fun hvisible => ?reads⟩⟩⟩
  case noImem => exact exec_imemLoad hdown hstage hok hop (State.onCore_missing _ hmissing)
  case badRange => exact exec_imemLoad hdown hstage hok hop ((State.onCore_exists _ hcore).trans (if_pos hrange))
  case imemHidden =>
    exact exec_imemLoad hdown hstage hok hop ((State.onCore_exists _ hcore).trans
      ((if_neg (by omega)).trans (State.fetchArg_hidden _ hhidden)))
  case imemPoisoned =>
    exact exec_imemLoad hdown hstage hok hop ((State.onCore_exists _ hcore).trans
      ((if_neg (by omega)).trans (State.fetchArg_poisoned _ hvisible hpoisoned)))
  case imemBusy =>
    exact exec_imemLoad hdown hstage hok hop ((State.onCore_exists _ hcore).trans
      ((if_neg (by omega)).trans ((State.fetchArg_clean _ hvisible hclean).trans (if_pos hbusy))))
  case imemLoads =>
    exact ⟨_, exec_imemLoad hdown hstage hok hop ((State.onCore_exists _ hcore).trans
      ((if_neg (by omega)).trans ((State.fetchArg_clean _ hvisible hclean).trans (if_neg (by simp [hfree]))))), rfl,
      fun k => State.loadImem_imem ..⟩
  case noStart => exact exec_ctxStart hdown hstage hok hop (State.onCore_missing _ hmissing)
  case startHidden =>
    exact exec_ctxStart hdown hstage hok hop ((State.onCore_exists _ hcore).trans (State.fetchArg_hidden _ hhidden))
  case startPoisoned =>
    exact exec_ctxStart hdown hstage hok hop ((State.onCore_exists _ hcore).trans
      (State.fetchArg_poisoned _ hvisible hpoisoned))
  case startBusy =>
    exact exec_ctxStart hdown hstage hok hop ((State.onCore_exists _ hcore).trans
      ((State.fetchArg_clean _ hvisible hclean).trans (if_pos (by simp [hbusy]))))
  case starts =>
    refine ⟨_, exec_ctxStart hdown hstage hok hop ((State.onCore_exists _ hcore).trans
      ((State.fetchArg_clean _ hvisible hclean).trans (if_neg (by simp [hstartable])))), State.mem_hostStarted .., ?_⟩
    rw [State.hostStarted_ctx]
    exact ⟨rfl, rfl, toNat_ofNat_fld _ 19 12 rfl, rfl, rfl, fun i => (CtxSt.started_s ..).trans (State.argRegister ..),
      fun i => (CtxSt.started_p ..).trans (State.argPredicate ..)⟩
  case noStop => exact exec_ctxStop hdown hstage hok hop (State.onCore_missing _ hmissing)
  case stops =>
    have hstopped : ∀ v : State, ∀ d y, ctxKey d y ≠ ctxKey (argCore e.toNat) (argCtx e.toNat) →
        (v.stopCtx (argCore e.toNat) (argCtx e.toNat)).ctx d y = v.ctx d y := fun v d y hother => by
      rw [State.stopCtx, ctx_of_only (State.noteActive_frame ..) (by decide)]
      exact Tbl.get_set_other hother
    obtain ⟨wait, hwait⟩ := ((s.mpUp.takeEntry e).wakeCore (argCore e.toNat)).countStalls_rest
      (c := argCore e.toNat) (x := argCtx e.toNat)
    refine ⟨_, exec_ctxStop hdown hstage hok hop (State.onCore_exists _ hcore), ?_⟩
    rw [State.stopCtx_ctx]
    refine ⟨?_, ?_, ?_, fun hruns => ?_, fun d y hother => ?_⟩
    · rw [hwait, hctx, CtxSt.stop_status_of_wait]
    · rw [CtxSt.stop_pc, hwait, hctx]
    · rw [CtxSt.stop_regs, hwait, hctx]
    · rw [State.countStalls_stop (by rwa [hctx]), hctx]
    · have hothers := ((s.mpUp.takeEntry e).wakeCore (argCore e.toNat)).countStalls_other d y
      rw [hctx, hnow] at hothers
      rwa [hstopped _ d y hother]
  case noRead => exact exec_ctxRead hdown hstage hok hop (State.onCore_missing _ hmissing)
  case readHidden =>
    exact exec_ctxRead hdown hstage hok hop ((State.onCore_exists _ hcore).trans (if_pos (by simp [hhidden])))
  case reads =>
    have hmem : ((s.mpUp.takeEntry e).wakeCore (argCore e.toNat)).mem = s.mem :=
      ((State.wakeCore_frame ..).2 .mem (by decide)).trans (htaken.2 .mem (by decide))
    have hctxs : ((s.mpUp.takeEntry e).wakeCore (argCore e.toNat)).ctxs = s.ctxs :=
      (State.wakeCore_ctxs ..).trans (htaken.2 .ctxs (by decide))
    have hread := exec_ctxRead hdown hstage hok hop ((State.onCore_exists _ hcore).trans (if_neg (by simp [hvisible])))
    have hheld := hctx (argCore e.toNat) (argCore e.toNat) (argCtx e.toNat)
    generalize (s.mpUp.takeEntry e).wakeCore (argCore e.toNat) = v at hread hheld hmem hctxs
    rw [hheld] at hread
    exact ⟨_, hread, (State.write_ctxs ..).trans hctxs, (v.readNat_image _ _ (i := 0) (by omega)).trans (CtxSt.image_word _),
      fun i => by rw [Nat.add_assoc]; exact (v.readNat_image _ _ (by omega)).trans (CtxSt.image_s _ i),
      (v.readNat_image _ _ (by omega)).trans (CtxSt.image_preds _),
      fun a ha => by rw [← hmem]; exact v.write_get_other (by rwa [CtxSt.image_length])⟩

end Sys2Proof.Machine

/-!
Translation (O33): pages that come into a cache or leave it, the bursts that they translate, and region changes.
-/
namespace Sys2Proof.Machine

/-! ### Pages of a cache (R238) -/

theorem pageOf_eq_none {ps : List TcEntry} {va : Nat} :
    pageOf ps va = none ↔ ∀ e ∈ ps, ¬(e.va ≤ va ∧ va < e.va + e.size) := by
  simp [pageOf, List.find?_eq_none]

theorem mem_of_pageOf {ps : List TcEntry} {va : Nat} {e : TcEntry} (h : pageOf ps va = some e) : e ∈ ps :=
  List.mem_of_find?_eq_some h

theorem State.tcUse_frame (s : State) (c : Nat) (e : TcEntry) : Only [.cores] s (s.tcUse c e) :=
  State.tcUse_only (Only.refl _ s) (by decide) c e

theorem State.tcUse_tcache (s : State) (c : Nat) (e : TcEntry) :
    ((s.tcUse c e).core c).tcache = (e :: (s.core c).tcache.erase e).take 256 := by
  rw [State.tcUse, core_mapCore]

/-- Pages of the cache, used one after the other. -/
theorem State.each_tcUse_frame (s : State) (c : Nat) (es : List TcEntry) :
    Only [.cores] s (s.each es fun s e => s.tcUse c e) :=
  State.each_only (Only.refl _ s) es _ fun _ e ht => State.tcUse_only ht (by decide) c e

/-! ### The pieces of an access (R237-R240) -/

theorem xlate_of_only {s t : State} {ps : List Part} (h : Only ps s t) (hregions : Part.regions ∉ ps)
    (hpoison : Part.poison ∉ ps) (pages : List TcEntry) (key : BitVec 8) (write : Bool) (xs : List (Nat × Nat)) :
    t.xlate pages key write xs = s.xlate pages key write xs := by
  have hone : ∀ va n, t.xlate1 pages key write va n = s.xlate1 pages key write va n := fun va n => by
    simp only [State.xlate1, granted_of_only h hregions, poisoned_of_only h hpoison]
  induction xs with
  | nil => rfl
  | cons x xs ih => rw [State.xlate, State.xlate, hone, ih]

theorem read_of_only {s t : State} {ps : List Part} (h : Only ps s t) (hp : Part.mem ∉ ps) (a n : Nat) :
    t.read a n = s.read a n :=
  congrArg (Memory.read · a n) (h.2 .mem hp)

theorem filterMap_id_map_some {α : Type} (xs : List α) : (xs.map some).filterMap id = xs := by
  simp [List.filterMap_map]

/-! ### Bursts of the streamer (R187) -/

/-- The instructions of a burst, from where it has been translated to. -/
def State.burstWords (s : State) (v : CtxSt) (xs : List (Nat × Nat)) : List (BitVec 128) :=
  (List.range (v.burst.2 / 16)).map fun i =>
    BitVec.ofNat 128 (leAt (xs.flatMap fun x => s.read x.1 x.2) (16 * i) 16)

/-- The ring that a burst is put behind: the context's own, or a new one at the burst's start. -/
def CtxSt.ringBefore (v : CtxSt) : Nat × List (BitVec 128) :=
  if v.streamNext = v.ringLo + v.ring.length then (v.ringLo, v.ring) else (v.streamNext, [])

/-- A context whose ring has taken the words of a burst. -/
def CtxSt.refilled (v : CtxSt) (words : List (BitVec 128)) : CtxSt :=
  { v with
    ringLo := v.ringBefore.1 + (v.pc.toNat - 128 - v.ringBefore.1)
    ring := (v.ringBefore.2 ++ words).drop (v.pc.toNat - 128 - v.ringBefore.1)
    status := if v.wait = .streamMiss then .ready else v.status
    wait := if v.wait = .streamMiss then .none else v.wait }

section
variable {s : State} {core : Core} {ctx : Ctx}

theorem exec_streamRefill {ps : List TcEntry} {xs : List (Nat × Nat)} (hdown : s.down = false)
    (hhungry : (s.ctx core ctx).streamHungry = true) (hcore : s.coreDown core = false)
    (hpages : (unitsOf (s.ctx core ctx).burst.1 (s.ctx core ctx).burst.2).map (fun u =>
      pageOf (s.core core).tcache (65536 * u)) = ps.map some)
    (hxlate : s.xlate ps (s.ctx core ctx).stageKey false
      (pieces (s.ctx core ctx).burst.1 (s.ctx core ctx).burst.2) = .ok xs) :
    exec (.streamRefill core ctx) s = .next ((s.each ps fun s e => s.tcUse core e).setCtx core ctx
      ((s.ctx core ctx).refilled (s.burstWords (s.ctx core ctx) xs))) := by
  have hframe := s.each_tcUse_frame core ps
  have hused : (s.each ps fun s e => s.tcUse core e).xlate ps (s.ctx core ctx).stageKey false
      (pieces (s.ctx core ctx).burst.1 (s.ctx core ctx).burst.2) = .ok xs :=
    (xlate_of_only hframe (by decide) (by decide) ..).trans hxlate
  change execStreamRefill core ctx s = _
  rw [execStreamRefill, act_up hdown]
  dsimp only
  rw [if_neg (by simp [hhungry, hcore]), hpages, if_neg (by simp), filterMap_id_map_some, hused]
  dsimp only
  simp only [read_of_only hframe (by decide)]
  rfl

end

/-! ### Invalidation (R239) -/

/-- A table whose entries `f` has changed, one after the other. -/
theorem Tbl.get_foldr_set {α : Type} [DecidableEq α] {d : α} (f : α → α) (hd : f d = d) (t : Tbl α) (k : Nat) :
    Tbl.get d (t.foldr (fun e t => Tbl.set d t e.1 (f e.2)) []) k = f (Tbl.get d t k) := by
  induction t with
  | nil => exact hd.symm
  | cons e t ih =>
    rw [List.foldr_cons]
    by_cases hk : k = e.1
    · rw [hk, Tbl.get_set_same, Tbl.get, if_pos rfl]
    · rw [Tbl.get_set_other hk, ih, Tbl.get, if_neg (Ne.symm hk)]

theorem exec_translationInvalidate {s : State} {page : Option (BitVec 48)} (hdown : s.down = false) :
    exec (.translationInvalidate page) s = .next { s with invals := s.invals ++ [page.map (·.toNat)] } := by
  change execTranslationInvalidate page s = _
  rw [execTranslationInvalidate, act_up hdown]

theorem exec_invalidateComplete {s : State} {p : Option Nat} {ps : List (Option Nat)} (hdown : s.down = false)
    (hinvals : s.invals = p :: ps) : exec .invalidateComplete s = .next { s with
      invals := ps
      cores := s.cores.foldr (fun e t => Tbl.set .reset t e.1 { e.2 with tcache := keptPages p e.2.tcache }) []
      train := { s.train with engines := s.train.engines.foldr (fun e t =>
        Tbl.set .reset t e.1 { e.2 with tcache := keptPages p e.2.tcache }) [] } } := by
  change execInvalidateComplete s = _
  rw [execInvalidateComplete, act_up hdown]
  dsimp only
  rw [hinvals]

theorem keptPages_nil (p : Option Nat) : keptPages p [] = [] := by
  cases p <;> rfl

theorem core_keptPages (p : Option Nat) (cores : Tbl CoreSt) (d : Nat) : Tbl.get CoreSt.reset (cores.foldr (fun e t =>
    Tbl.set .reset t e.1 { e.2 with tcache := keptPages p e.2.tcache }) []) d =
      { Tbl.get CoreSt.reset cores d with tcache := keptPages p (Tbl.get CoreSt.reset cores d).tcache } :=
  Tbl.get_foldr_set (fun v => { v with tcache := keptPages p v.tcache }) (congrArg (fun ps => { CoreSt.reset with
    tcache := ps }) (keptPages_nil p)) cores d

theorem engine_keptPages (p : Option Nat) (engines : Tbl EngineSt) (n : Nat) :
    Tbl.get EngineSt.reset (engines.foldr (fun e t =>
      Tbl.set .reset t e.1 { e.2 with tcache := keptPages p e.2.tcache }) []) n =
        { Tbl.get EngineSt.reset engines n with tcache := keptPages p (Tbl.get EngineSt.reset engines n).tcache } :=
  Tbl.get_foldr_set (fun v => { v with tcache := keptPages p v.tcache }) (congrArg (fun ps => { EngineSt.reset with
    tcache := ps }) (keptPages_nil p)) engines n

/-! ### Page walks (R238) -/

/-- The pages of the cache that a descriptor still needs. -/
def State.hits (s : State) (c : Nat) (need : List Nat) : List TcEntry :=
  need.filterMap fun u => pageOf (s.core c).tcache (65536 * u)

/-- The descriptor with these pages taken over. -/
def MovRun.withPages (r : MovRun) (hits : List TcEntry) : MovRun :=
  { r with
    xlat := r.xlat ++ hits.eraseDups
    need := r.need.filter fun u => (pageOf hits (65536 * u)).isNone }

theorem State.resolve_eq (s : State) (m : Nat) (r : MovRun) : s.resolve m r =
    if (r.withPages (s.hits (m / 2) r.need)).need.isEmpty then
      (s.each (s.hits (m / 2) r.need) fun s e => s.tcUse (m / 2) e).runMoves m (r.withPages (s.hits (m / 2) r.need))
    else (s.each (s.hits (m / 2) r.need) fun s e => s.tcUse (m / 2) e).setRun m
      (r.withPages (s.hits (m / 2) r.need)) := rfl

/-- A page that the cache does not hold is not among those taken over. -/
theorem State.pageOf_hits {s : State} {c va : Nat} (need : List Nat) (hmissing : pageOf (s.core c).tcache va = none) :
    pageOf (s.hits c need) va = none := by
  refine pageOf_eq_none.mpr fun e he => pageOf_eq_none.mp hmissing e ?_
  obtain ⟨u, -, hu⟩ := List.mem_filterMap.mp he
  exact mem_of_pageOf hu

theorem State.resolve_of_missing {s : State} {m x : Nat} {r : MovRun} (hx : x ∈ r.need)
    (hmissing : pageOf (s.core (m / 2)).tcache (65536 * x) = none) : s.resolve m r =
      (s.each (s.hits (m / 2) r.need) fun s e => s.tcUse (m / 2) e).setRun m (r.withPages (s.hits (m / 2) r.need)) := by
  have hwaits : x ∈ (r.withPages (s.hits (m / 2) r.need)).need :=
    List.mem_filter.mpr ⟨hx, by rw [State.pageOf_hits _ hmissing]; rfl⟩
  rw [State.resolve_eq, if_neg (by simpa using List.ne_nil_of_mem hwaits)]

theorem State.mover_setRun (s : State) (m : Nat) (r : MovRun) :
    (s.setRun m r).mover m = { s.mover m with run := some r } := State.mover_setMover ..

/-- A descriptor with a page still to come keeps its item, and moves nothing. -/
theorem State.resolve_waits {s : State} {m : Nat} {r : MovRun} {x : Nat} (hx : x ∈ r.need)
    (hmissing : pageOf (s.core (m / 2)).tcache (65536 * x) = none) :
    ∃ r', ((s.resolve m r).mover m).run = some r' ∧ r'.item = r.item ∧ r'.moved = r.moved := by
  rw [State.resolve_of_missing hx hmissing, State.mover_setRun]
  exact ⟨_, rfl, rfl, rfl⟩

/-- The state in which a page that has been walked for is in its core's cache. -/
def State.walked (s : State) (c : Nat) (e : TcEntry) : State := (s.count64 0x4045 c).tcUse c e

theorem State.walked_frame (s : State) (c : Nat) (e : TcEntry) : Only [.cores, .objects] s (s.walked c e) :=
  State.tcUse_only (State.count64_only (Only.refl _ s) (by decide) ..) (by decide) c e

theorem State.walked_tcache (s : State) (c : Nat) (e : TcEntry) :
    ((s.walked c e).core c).tcache = (e :: (s.core c).tcache.erase e).take 256 := by
  rw [State.walked, State.tcUse_tcache, State.count64_core]

theorem walkFrom_of_only {s t : State} {ps : List Part} (h : Only ps s t) (hpoison : Part.poison ∉ ps)
    (hmem : Part.mem ∉ ps) (hspans : Part.spans ∉ ps) (va fuel level table : Nat) :
    t.walkFrom va fuel level table = s.walkFrom va fuel level table := by
  induction fuel generalizing level table with
  | zero => rfl
  | succ fuel ih =>
    simp only [State.walkFrom, poisoned_of_only h hpoison, readNat_of_only h hmem, visible_of_only h hspans, ih]

/-- Counting a walk moves no table. -/
theorem State.count64_walk (s : State) (c va : Nat) : (s.count64 0x4045 c).walk va = s.walk va := by
  have hframe : Only [.objects] s (s.count64 0x4045 c) := State.count64_only (Only.refl _ s) (by decide) ..
  rw [State.walk, walkFrom_of_only hframe (by decide) (by decide) (by decide), State.obj_count64,
    if_neg (by unfold okey; omega), State.walk]

section
variable {s : State} {core : Core} {va : BitVec 48} {write : Bool} {e : TcEntry} (hdown : s.down = false)
  (hmiss : pageOf (s.core core).tcache (65536 * (va.toNat / 65536)) = none) (hwalk : s.walk va.toNat = .ok e)
include hdown hmiss hwalk

theorem exec_moverWalk {out : Bool} {r : MovRun} (hrun : (s.mover (2 * core.val + (if out then 1 else 0))).run = some r)
    (hneed : r.need.contains (va.toNat / 65536) = true) : exec (.tableWalkComplete core (.mover out) va write) s =
      .next ((s.walked core e).resolve (2 * core.val + (if out then 1 else 0)) r) := by
  change execTableWalkComplete core (.mover out) va write s = _
  rw [execTableWalkComplete, act_up hdown]
  dsimp only
  rw [hrun]
  dsimp only
  rw [if_neg (by simpa using hneed), if_neg (by simp [hmiss]), State.count64_walk, hwalk]
  rfl

theorem exec_streamerWalk {ctx : Ctx} (hhungry : (s.ctx core ctx).streamHungry = true)
    (hneed : (unitsOf (s.ctx core ctx).burst.1 (s.ctx core ctx).burst.2).contains (va.toNat / 65536) = true)
    (hcore : s.coreDown core = false) :
    exec (.tableWalkComplete core (.streamer ctx) va write) s = .next (s.walked core e) := by
  change execTableWalkComplete core (.streamer ctx) va write s = _
  rw [execTableWalkComplete, act_up hdown]
  dsimp only
  rw [if_neg ?needed, State.count64_walk, hwalk]
  · rfl
  case needed => simpa [hhungry, hmiss, hcore] using hneed

end

/-! ### Region changes (R240) -/

/-- The state in which an entry of the region table has its new value. -/
def State.regionTaken (s : State) (n : Fin 256) (entry : RegionChange) : State :=
  ({ s.reach entry.effective with
    regions := Tbl.set regionReset (s.reach entry.effective).regions n entry.word } : State).count 0x4040 3

theorem exec_regionChangeEffective {s : State} {n : Fin 256} {entry : RegionChange} (hdown : s.down = false)
    (hloaded : s.job.loaded = true) (hok : s.regionEntryOk entry.word.toNat = true)
    (hahead : entry.named + 10000 ≤ entry.effective) : exec (.regionChangeEffective n entry) s =
      .next ((s.regionTaken n entry).log 0x4046 (domDie 0) [(8, 0), (1, 0), (3, 0), (8, 0)]) := by
  change execRegionChangeEffective n entry s = _
  rw [execRegionChangeEffective, act_up hdown, if_neg (by simp [hloaded, hok, hahead])]
  rfl

theorem State.regionTaken_regions (s : State) (n : Fin 256) (entry : RegionChange) :
    (s.regionTaken n entry).regions = Tbl.set regionReset s.regions n entry.word := by
  rw [State.regionTaken, State.count_regions, State.reach_regions]

theorem State.regionTaken_hall (s : State) (n : Fin 256) (entry : RegionChange) :
    (s.regionTaken n entry).hall = max s.hall (64 * entry.effective) := by
  rw [State.regionTaken, State.count_hall]
  exact State.reach_hall' _

theorem State.regionTaken_counted (s : State) (n : Fin 256) (entry : RegionChange) :
    (s.regionTaken n entry).obj 0x4040 3 = (s.obj 0x4040 3 + 1) % 2 ^ 32 := by
  rw [State.regionTaken, State.obj_count, if_pos rfl, ← State.reach_obj (s := s) entry.effective]
  rfl

theorem State.regionTaken_faults (s : State) (n : Fin 256) (entry : RegionChange) :
    (s.regionTaken n entry).faults = s.faults := by
  rw [State.regionTaken, State.count_faults]
  exact State.reach_faults ..

/-- Settles O33, clause by clause. -/
theorem translation : Obligations.Translation := by
  intro s core ctx hdown
  refine ⟨fun ps xs hhungry hcore hpages hxlate => ?burst, fun out va write r e hrun hneed hmiss hwalk => ?mover,
    fun va write e hhungry hneed hmiss hcore hwalk => ?streamer, fun page => ?invalidates, fun p ps hinvals => ?dropped,
    fun n entry hloaded hok hahead => ?region⟩
  case burst =>
    refine ⟨_, exec_streamRefill hdown hhungry hcore hpages hxlate, ?_, ?_⟩
    · exact (OnlyCtx.of_only (s.each_tcUse_frame core ps) (by decide) core ctx).trans fun d y hne =>
        ctx_setCtx_other _ hne
    · rw [State.ctx_setCtx]
      refine ⟨?_, ?_, fun hmiss => ?_⟩
      · simp only [CtxSt.refilled, CtxSt.ringBefore, apply_ite Prod.fst]
      · simp only [CtxSt.refilled, CtxSt.ringBefore, apply_ite Prod.fst, apply_ite Prod.snd]
        rfl
      · simp only [CtxSt.refilled, if_pos hmiss, and_self]
  case mover =>
    have hcore : (2 * core.val + (if out then 1 else 0)) / 2 = core := by split <;> omega
    refine ⟨_, s.walked core e, exec_moverWalk hdown hmiss hwalk hrun hneed, rfl,
      (s.walked_frame core e).2 .movers (by decide), s.walked_tcache core e, fun ⟨x, hx, hmissing⟩ => ?_⟩
    exact State.resolve_waits hx (by rwa [hcore])
  case streamer =>
    exact ⟨_, exec_streamerWalk hdown hmiss hwalk hhungry hneed hcore, (s.walked_frame core e).2 .ctxs (by decide),
      s.walked_tcache core e⟩
  case invalidates =>
    exact ⟨_, exec_translationInvalidate hdown, rfl, rfl⟩
  case dropped =>
    exact ⟨_, exec_invalidateComplete hdown hinvals, rfl, fun d => core_keptPages p s.cores d,
      fun n => engine_keptPages p s.train.engines n⟩
  case region =>
    refine ⟨_, exec_regionChangeEffective hdown hloaded hok hahead,
      Logged.log_of_faults (s.regionTaken_faults n entry) 0x4046 _ _ (by decide), ?_, ?_, ?_⟩
    · rw [State.log_obj _ _ _ (by decide) (by decide), State.regionTaken_counted]
    · rw [State.log_hall, State.regionTaken_hall]
    · rw [State.log_regions, State.regionTaken_regions]

end Sys2Proof.Machine

/-!
Fences and recovery (O35): a fence that forms, a pace counter that runs out, the replay reset and the end of a re-run.
-/
namespace Sys2Proof.Machine

/-! ### Walks -/

/-- Two walks whose steps agree wherever what they keep holds. -/
theorem each_congr {α : Type} {P : State → Prop} {f g : State → α → State} (hkeep : ∀ t x, P t → P (f t x))
    (hagree : ∀ t x, P t → f t x = g t x) (xs : List α) {s : State} (hs : P s) : s.each xs f = s.each xs g := by
  unfold State.each
  induction xs generalizing s with
  | nil => rfl
  | cons x xs ih => rw [List.foldl_cons, List.foldl_cons, ih (hkeep s x hs), hagree s x hs]

/-- Every context of a core, changed in its turn. -/
theorem State.each_mapCtx_ctx (s : State) (c n : Nat) (f : CtxSt → CtxSt) (x : Nat) :
    (s.each (List.range n) fun t x => t.mapCtx c x f).ctx c x = if x < n then f (s.ctx c x) else s.ctx c x :=
  each_entry (fun x t => t.ctx c x) (fun _ => f) (fun _ _ => ctx_mapCtx ..) (fun _ _ _ hne => ctx_set_ne _ hne) n s x

theorem State.each_mapCtx_frame (s : State) (c : Nat) (f : CtxSt → CtxSt) (xs : List Nat) :
    Only [.ctxs] s (s.each xs fun t x => t.mapCtx c x f) :=
  State.each_only (Only.refl _ s) xs _ fun _ x ht => State.mapCtx_only ht (by decide) c x f

/-- Every semaphore of a core, changed in its turn. -/
theorem State.each_setSem_sem (s : State) (c k : Nat) (f : SemSt → SemSt) (n : Nat) :
    (s.each (List.range k) fun t n => t.setSem c n (f (t.sem c n))).sem c n = if n < k then f (s.sem c n) else s.sem c n :=
  each_entry (fun n t => t.sem c n) (fun _ => f) (fun _ _ => State.sem_setSem ..) (fun _ _ _ hne => sem_set_ne _ hne) k s n

theorem State.each_setSem_frame (s : State) (c : Nat) (f : SemSt → SemSt) (ns : List Nat) :
    Only [.sems] s (s.each ns fun t n => t.setSem c n (f (t.sem c n))) :=
  State.each_only (Only.refl _ s) ns _ fun _ n ht => State.setSem_only ht (by decide) c n _

/-! ### A fence that forms (R204-R206) -/

theorem CtxSt.fenced_status {v : CtxSt} (now : Nat) (hfence : v.status = .atFence) : (v.fenced now).status = .ready := by
  rw [CtxSt.fenced, if_pos hfence]

theorem CtxSt.fenced_counts (v : CtxSt) (now : Nat) : (v.fenced now).pc = v.pc ∧ (v.fenced now).posts = 0 ∧
    (v.fenced now).movs0 = 0 ∧ (v.fenced now).movs1 = 0 := by
  unfold CtxSt.fenced
  dsimp only
  split <;> exact ⟨rfl, rfl, rfl, rfl⟩

/-- A semaphore whose counts start at 0. -/
def SemSt.recounted (v : SemSt) : SemSt := { v with innerPosts := 0, innerTakes := 0 }

/-- The state in which the counts of a core's semaphores and contexts start at 0, and its contexts at the fence go on. -/
def State.fenceCounts (s : State) (c : Nat) : State :=
  (s.each (List.range 64) fun t n => t.setSem c n (t.sem c n).recounted).each (List.range 8)
    fun t x => t.mapCtx c x (·.fenced s.now)

theorem State.fenceCounts_frame (s : State) (c : Nat) : Only [.sems, .ctxs] s (s.fenceCounts c) :=
  ((s.each_setSem_frame c SemSt.recounted _).mono (by decide)).then (State.each_mapCtx_frame ..) (by decide)

theorem State.fenceCounts_sem (s : State) (c : Nat) (n : Sem) : (s.fenceCounts c).sem c n = (s.sem c n).recounted := by
  rw [State.fenceCounts, sem_of_only (State.each_mapCtx_frame ..) (by decide),
    State.each_setSem_sem s c 64 SemSt.recounted n, if_pos n.isLt]

theorem State.fenceCounts_ctx (s : State) (c : Nat) (x : Ctx) : (s.fenceCounts c).ctx c x = (s.ctx c x).fenced s.now := by
  rw [State.fenceCounts, State.each_mapCtx_ctx, if_pos x.isLt, ctx_of_only (s.each_setSem_frame c SemSt.recounted _)
    (by decide)]

/-- The state that a fence leaves. -/
def State.fenceFormed (s : State) (c : Nat) : State :=
  ((s.fenceCounts c).mapCore c fun k => { k with
    replay := (List.range 8).map fun x => (s.ctx c x).record
    fenceAt := some s.sched
    parkedAt := none
    overrun := false }).setFaults fun f => { f with recovered := f.recovered.erase c }

theorem exec_fenceForm {s : State} {core : Core} (hdown : s.down = false) (hready : s.fenceReady core = true) :
    exec (.fenceForm core) s = .next (s.fenceFormed core) := by
  have hcounted : ((s.each (List.range 64) fun t n => t.setSem core n (t.sem core n).recounted).each (List.range 8)
      fun t x => t.mapCtx core x (·.fenced t.now)) = s.fenceCounts core :=
    each_congr (P := fun t => t.now = s.now) (fun t x ht => (State.mapCtx_now ..).trans ht)
      (fun t x ht => by rw [ht]) _ (congrArg (· / 64) ((s.each_setSem_frame core SemSt.recounted _).2 .hall (by decide)))
  have hsched : (s.fenceCounts core).sched = s.sched :=
    sched_of_only (s.fenceCounts_frame core) (by decide) (by decide) (by decide)
  change execFenceForm core s = _
  rw [execFenceForm, act_up hdown, if_neg (by simp [hready])]
  simp only [SemSt.recounted] at hcounted
  dsimp only
  rw [hcounted, hsched]
  rfl

theorem State.fenceFormed_core (s : State) (c : Nat) : (s.fenceFormed c).core c = { s.core c with
    replay := (List.range 8).map fun x => (s.ctx c x).record
    fenceAt := some s.sched
    parkedAt := none
    overrun := false } := by
  rw [State.fenceFormed, State.setFaults_core, core_mapCore, core_of_only (s.fenceCounts_frame c) (by decide)]

/-! ### The span between fences (R206) -/

/-- The state in which a span has run out, and nothing is counted or logged yet. -/
def State.overran (s : State) (c t0 : Nat) : State :=
  (s.reach (t0 + s.obj 0x4030 1 + s.lag)).setCore c { s.core c with overrun := true }

theorem State.overran_frame (s : State) (c t0 : Nat) : Only [.hall, .time, .cores] s (s.overran c t0) :=
  State.setCore_only (State.reach_only (Only.refl _ s) (by decide) _) (by decide) ..

theorem exec_fenceSpanExceeded {s : State} {core : Core} {t0 : Nat} (hdown : s.down = false)
    (hfence : (s.core core).fenceAt = some t0) (hfirst : (s.core core).overrun = false)
    (hruns : (s.core core).parkedAt = none) (hheld : s.hold.held = false) : exec (.fenceSpanExceeded core) s =
      .next (((s.overran core t0).count 0x4033 core).log 0x4032 (domCore core)) := by
  change execFenceSpanExceeded core s = _
  rw [execFenceSpanExceeded, act_up hdown]
  dsimp only
  rw [hfence]
  dsimp only
  rw [if_neg (by simp [hfirst, hruns, hheld]), ← hfence]
  rfl

/-! ### A core or a mover that hangs (R421-R426) -/

/-- The state in which a recovery of the core has started, and its contexts have still to be stopped. -/
def State.recovering (u : State) (c cause : Nat) (mover : Option (Fin 2)) : State :=
  ((u.schedFault.faultCount cause).originateHold cause).2.setRecovery c (some ⟨cause, u.hold.ownSeq, mover, false, [], none⟩)

theorem State.startRecovery_eq {u : State} {c : Nat} (cause : Nat) (mover : Option (Fin 2))
    (hreplay : (u.core c).replay ≠ []) : u.startRecovery c cause mover = (u.recovering c cause mover).snapshot c := by
  have hcore : (u.schedFault.faultCount cause).core c = u.core c := by
    rw [State.faultCount, State.count_core, State.schedFault, State.setHold_core]
  unfold State.startRecovery
  dsimp only
  rw [if_neg (by rw [hcore]; simpa using hreplay)]
  rfl

/-- The contexts of a core, stopped. -/
def State.coreStopped (s : State) (c : Nat) : State :=
  s.countStalls.each (List.range 8) fun t x => t.mapCtx c x CtxSt.stop

theorem State.coreStopped_frame (s : State) (c : Nat) : Only [.ctxs, .objects] s (s.coreStopped c) :=
  s.countStalls_frame.then (State.each_mapCtx_frame ..) (by decide)

theorem State.coreStopped_status (s : State) (c : Nat) (x : Ctx) :
    ((s.coreStopped c).ctx c x).status = (s.ctx c x).stop.status := by
  obtain ⟨wait, hwait⟩ := s.countStalls_rest (c := c) (x := x)
  rw [State.coreStopped, State.each_mapCtx_ctx, if_pos x.isLt, hwait, CtxSt.stop_status_of_wait]

theorem State.countStalls_obj (s : State) {a b : Nat} (h : okey a b ≠ okey 0x4010 7) :
    s.countStalls.obj a b = s.obj a b := by
  unfold State.countStalls
  split
  · rfl
  · exact (State.obj_count64 ..).trans (if_neg h)

theorem State.coreStopped_obj (s : State) (c : Nat) {a b : Nat} (h : okey a b ≠ okey 0x4010 7) :
    (s.coreStopped c).obj a b = s.obj a b := by
  rw [State.coreStopped, obj_of_only (State.each_mapCtx_frame ..) (by decide), s.countStalls_obj h]

/-- The state in which the contexts are stopped and the snapshot is kept, and nothing is logged yet. -/
def State.snapshotKept (s : State) (c : Nat) : State :=
  (s.coreStopped c).setFaults fun f => { f with snapshots := ((s.coreStopped c).snapshotItems c :: f.snapshots).take 4 }

theorem State.snapshot_eq (s : State) (c : Nat) : s.snapshot c = (s.snapshotKept c).log 0x9013 (domCore c) := rfl

theorem recovery_of_only {s t : State} {ps : List Part} (h : Only ps s t) (hp : Part.faults ∉ ps) (c : Nat) :
    t.recovery c = s.recovery c := by
  have hfaults : t.faults = { s.faults with ring := t.faults.ring } := h.2 .faults hp
  rw [State.recovery, hfaults, State.recovery]

theorem recovered_of_only {s t : State} {ps : List Part} (h : Only ps s t) (hp : Part.faults ∉ ps) :
    t.faults.recovered = s.faults.recovered := by
  have hfaults : t.faults = { s.faults with ring := t.faults.ring } := h.2 .faults hp
  rw [hfaults]

theorem State.recovery_setFaults (s : State) (f : Faults → Faults) (hkept : (f s.faults).recovery = s.faults.recovery)
    (c : Nat) : (s.setFaults f).recovery c = s.recovery c :=
  congrArg (Tbl.get none · c) hkept

theorem State.recovery_setRecovery (s : State) (c : Nat) (r : Option Recovery) : (s.setRecovery c r).recovery c = r :=
  Tbl.get_set_same

/-- What a recovery that starts leaves, where all of it follows the instant `n` at which a unit of the core hung. -/
structure State.Recovers (s t : State) (c cause : Nat) (mover : Option (Fin 2)) (n : Nat) : Prop where
  recovery : t.recovery c = some ⟨cause, s.hold.ownSeq, mover, false, [], none⟩
  flag : t.hold.schedFault = true
  stopped : ∀ x : Ctx, (t.ctx c x).status = (s.ctx c x).stop.status
  counted : cause ≠ 0 → t.obj 0x9005 0 = (s.obj 0x9005 0 + 1) % 2 ^ 32 ∧
    t.obj 0x9005 cause = (s.obj 0x9005 cause + 1) % 2 ^ 32
  logged : Logged s t [0x9013, 0x9001]
  hall : t.hall = max s.hall (64 * n)

section
variable (s : State) (n dom : Nat) (items : List (Nat × Nat))

/-- The state in which a pace counter that has run out is counted and logged. -/
def State.paceLogged : State := ((s.reach n).faultCount 0).log 0x9001 dom items

theorem State.paceLogged_frame : Only [.hall, .time, .objects, .ring] s (s.paceLogged n dom items) :=
  State.log_only (State.count_only (State.reach_only (Only.refl _ s) (by decide) n) (by decide) ..) (by decide) ..

theorem State.paceLogged_obj {a b : Nat} (htotal : okey a b ≠ okey 0x9004 2) (hlost : okey a b ≠ okey 0x9004 3) :
    (s.paceLogged n dom items).obj a b =
      if okey a b = okey 0x9005 0 then (s.obj 0x9005 0 + 1) % 2 ^ 32 else s.obj a b := by
  rw [State.paceLogged, State.log_obj _ _ _ htotal hlost, State.faultCount, State.obj_count, State.reach_obj,
    State.reach_obj]

theorem State.paceLogged_logged : Logged s (s.paceLogged n dom items) [0x9001] :=
  Logged.log_of_faults ((State.count_faults ..).trans (State.reach_faults ..)) 0x9001 dom items (by decide)

theorem State.paceLogged_hall : (s.paceLogged n dom items).hall = max s.hall (64 * n) := by
  rw [State.paceLogged, State.log_hall, State.faultCount, State.count_hall, State.reach_hall']

end

theorem State.recovering_frame (u : State) (c cause : Nat) (mover : Option (Fin 2)) :
    Only [.hold, .links, .objects, .faults] u (u.recovering c cause mover) :=
  State.setRecovery_only (State.originateHold_only (State.count_only (State.setHold_only (Only.refl _ u) (by decide) _)
    (by decide) ..) (by decide) cause) (by decide) c _

theorem State.recovering_obj (u : State) (c cause : Nat) (mover : Option (Fin 2)) (a b : Nat) :
    (u.recovering c cause mover).obj a b =
      if okey a b = okey 0x9005 cause then (u.obj 0x9005 cause + 1) % 2 ^ 32 else u.obj a b := by
  have hset : ∀ (v : State) r, (v.setRecovery c r).obj a b = v.obj a b := fun _ _ => rfl
  rw [State.recovering, hset, State.originateHold_obj, State.faultCount, State.obj_count]
  rfl

theorem State.recovering_ring (u : State) (c cause : Nat) (mover : Option (Fin 2)) :
    (u.recovering c cause mover).faults.ring = u.faults.ring :=
  (u.recovering_frame c cause mover).2 .ring (by decide)

theorem State.snapshotKept_frame (s : State) (c : Nat) : Only [.ctxs, .objects, .faults] s (s.snapshotKept c) :=
  State.setFaults_only' ((s.coreStopped_frame c).mono (by decide)) (by decide) _ fun _ => rfl

theorem State.snapshot_recovery (s : State) (c d : Nat) : (s.snapshot c).recovery d = s.recovery d := by
  have hlog : Only [.objects, .ring] (s.snapshotKept c) ((s.snapshotKept c).log 0x9013 (domCore c)) :=
    State.log_only (Only.refl _ _) (by decide) ..
  rw [State.snapshot_eq, recovery_of_only hlog (by decide), State.snapshotKept,
    State.recovery_setFaults _ _ rfl, recovery_of_only (s.coreStopped_frame c) (by decide)]

theorem State.snapshot_obj (s : State) (c : Nat) {a b : Nat} (hstalls : okey a b ≠ okey 0x4010 7)
    (htotal : okey a b ≠ okey 0x9004 2) (hlost : okey a b ≠ okey 0x9004 3) : (s.snapshot c).obj a b = s.obj a b := by
  rw [State.snapshot_eq, State.log_obj _ _ _ htotal hlost, State.snapshotKept, State.setFaults_obj,
    s.coreStopped_obj c hstalls]

/-- A recovery that starts where a pace counter has run out. -/
theorem State.paceLogged_recovers {s : State} {c cause : Nat} (n dom : Nat) (items : List (Nat × Nat))
    (mover : Option (Fin 2)) (hcause : cause < 256) (hreplay : (s.core c).replay ≠ []) :
    s.Recovers ((s.paceLogged n dom items).startRecovery c cause mover) c cause mover n := by
  have hlogged := s.paceLogged_frame n dom items
  have hrecovering := (s.paceLogged n dom items).recovering_frame c cause mover
  have heq := State.startRecovery_eq (u := s.paceLogged n dom items) cause mover
    (by rwa [core_of_only hlogged (by decide)])
  have hflag := (s.paceLogged n dom items).startRecovery_schedFault c cause mover
  rw [heq] at hflag ⊢
  refine ⟨?recovery, hflag, fun x => ?stopped, fun hcause0 => ⟨?total, ?counted⟩, ?logged, ?hall⟩
  case recovery =>
    rw [State.snapshot_recovery, State.recovering, State.recovery_setRecovery]
    have hhold : (s.paceLogged n dom items).hold = s.hold := hlogged.2 .hold (by decide)
    rw [hhold]
  case stopped =>
    rw [State.snapshot_eq, State.log_ctx, State.snapshotKept, State.setFaults_ctx, State.coreStopped_status,
      ctx_of_only hrecovering (by decide), ctx_of_only hlogged (by decide)]
  case total =>
    rw [State.snapshot_obj _ _ (by decide) (by decide) (by decide), State.recovering_obj,
      if_neg (by unfold okey; omega), State.paceLogged_obj _ _ _ _ (by decide) (by decide), if_pos rfl]
  case counted =>
    rw [State.snapshot_obj _ _ (by unfold okey; omega) (by unfold okey; omega) (by unfold okey; omega),
      State.recovering_obj, if_pos rfl, State.paceLogged_obj _ _ _ _ (by unfold okey; omega) (by unfold okey; omega),
      if_neg (by unfold okey; omega)]
  case logged =>
    rw [State.snapshot_eq]
    exact loggedN (s.paceLogged_logged n dom items)
      (((State.snapshotKept_frame ..).2 .ring (by decide)).trans (State.recovering_ring ..)) 0x9013 _ _ (by decide)
  case hall =>
    rw [State.snapshot_eq, State.log_hall, (State.snapshotKept_frame ..).2 .hall (by decide),
      hrecovering.2 .hall (by decide), s.paceLogged_hall]

/-- The first hang of a core that has a replay record, and has not recovered since its last fence, starts a recovery. -/
theorem State.hang_first {s : State} {c : Nat} (cause : Nat) (mover : Option (Fin 2)) (hnone : s.recovery c = none)
    (hfirst : s.faults.recovered.contains c = false) : s.hang c cause mover = s.startRecovery c cause mover := by
  unfold State.hang
  rw [hnone]
  dsimp only
  rw [if_neg (by rw [hfirst]; simp)]

section
variable {s : State} {core : Core} (hdown : s.down = false) (hnone : s.recovery core = none)
  (hfirst : s.faults.recovered.contains core.val = false)
include hdown hnone hfirst

theorem exec_contextPaceExpire {ctx : Ctx} (hpaced : s.paceExempt core ctx = false) :
    exec (.contextPaceExpire core ctx) s =
      .next ((s.paceLogged (max (s.ctx core ctx).pace s.hold.endedAt + s.obj 0x9000 1) (domCore core)
        [(8, core), (3, ctx)]).startRecovery core 2 none) := by
  have hframe := s.paceLogged_frame (max (s.ctx core ctx).pace s.hold.endedAt + s.obj 0x9000 1) (domCore core)
    [(8, core), (3, ctx)]
  change execContextPaceExpire core ctx s = _
  rw [execContextPaceExpire, act_up hdown, if_neg (by simp [hpaced])]
  dsimp only
  rw [← State.paceLogged, if_neg (by rw [recovery_of_only hframe (by decide), hnone]; simp),
    State.hang_first _ _ ((recovery_of_only hframe (by decide) _).trans hnone)
      (by rwa [recovered_of_only hframe (by decide)])]

theorem exec_moverPaceExpire {m : Mover} {out : Fin 2} (hmover : m.val = 2 * core.val + out.val)
    (hcore : s.coreDown core = false) (hbusy : ((s.mover m).run = none ∧ (s.mover m).queue ≠ []) ∨
      (∃ r, (s.mover m).run = some r ∧ (r.moved = false ∨ r.remaining = 0))) : exec (.moverPaceExpire m) s =
        .next ((s.paceLogged ((s.mover m).pace + s.obj 0x9000 2) (domMover m)
          [(8, core), (1, m % 2)]).startRecovery core 3 (some out)) := by
  have hframe := s.paceLogged_frame ((s.mover m).pace + s.obj 0x9000 2) (domMover m) [(8, core), (1, m % 2)]
  have hhalf : m.val / 2 = core.val := by omega
  have hside : (⟨m.val % 2, Nat.mod_lt _ (by decide)⟩ : Fin 2) = out := Fin.ext (by simp only; omega)
  change execMoverPaceExpire m s = _
  rw [execMoverPaceExpire, act_up hdown]
  dsimp only
  rw [hhalf, if_neg ?waits, ← State.paceLogged, hside, State.hang_first _ _
    ((recovery_of_only hframe (by decide) _).trans hnone) (by rwa [recovered_of_only hframe (by decide)])]
  case waits =>
    rcases hbusy with ⟨hrun, hqueue⟩ | ⟨r, hrun, hr | hr⟩
    · simpa [hrun, hcore] using hqueue
    · simp [hrun, hcore, hr]
    · simp [hrun, hcore, hr]

end

/-! ### The replay reset (R207) -/

/-- A semaphore whose count is back where it was at the fence. -/
def SemSt.rewound (v : SemSt) : SemSt :=
  { v with count := BitVec.ofNat 16 (v.count.toNat + v.innerTakes - v.innerPosts), innerPosts := 0, innerTakes := 0 }

theorem State.discardPasses_frame (s : State) (c : Nat) :
    Only [.drawn, .stores, .accs, .cores, .ctxs, .objects, .ring] s (s.discardPasses c) :=
  State.discardPasses_only (Only.refl _ s) (by decide) c

theorem State.breakOwned_frame (s : State) (dom : Nat) :
    Only [.out, .links, .fabric, .movers, .objects, .ring] s (s.breakOwned dom) :=
  State.breakOwned_only (Only.refl _ s) (by decide) dom

theorem State.breakOwned_obj {s : State} {a b : Nat} (dom : Nat)
    (h : okey a b ∉ okey 0x6010 3 :: okey 0x6010 4 :: packetCounts) : (s.breakOwned dom).obj a b = s.obj a b :=
  State.each_part (fun t => t.obj a b) _ _ fun _ c => State.breakFlow_obj c 5 true h

theorem State.discardPasses_obj {s : State} {a b : Nat} (c : Nat) (hstalls : okey a b ≠ okey 0x4010 7)
    (htotal : okey a b ≠ okey 0x9004 2) (hlost : okey a b ≠ okey 0x9004 3) :
    (s.discardPasses c).obj a b = s.obj a b := by
  have hlogs : ∀ (u : State) (more : Bool) items, ((u.log 0x4011 (domCore c) items).on more fun u =>
      u.log 0x4012 (domCore c)).obj a b = u.obj a b := fun u more items => by
    cases more
    · exact State.log_obj _ _ _ htotal hlost
    · exact (State.log_obj _ _ _ htotal hlost).trans (State.log_obj _ _ _ htotal hlost)
  unfold State.discardPasses
  dsimp only
  rw [hlogs]
  refine (State.obj_congr ?_ a b).trans (s.countStalls_obj hstalls)
  split
  · exact State.each_part (fun t => t.dict) _ _ fun _ _ => State.storeWrite_dict ..
  · rfl

/-- The state of a replay reset in which the semaphores are back at the fence, and the contexts are not. -/
def State.rewound (s : State) (c : Nat) : State :=
  ((s.discardPasses c).each (List.range 64) fun t n => t.setSem c n (t.sem c n).rewound).breakOwned (domCore c)

theorem State.rewound_frame (s : State) (c : Nat) : Only [.drawn, .stores, .accs, .cores, .ctxs, .sems, .out, .links,
    .fabric, .movers, .objects, .ring] s (s.rewound c) :=
  (((s.discardPasses_frame c).mono (by decide)).then (State.each_setSem_frame _ c SemSt.rewound _) (by decide)).then
    (State.breakOwned_frame ..) (by decide)

theorem State.rewound_sem (s : State) (c : Nat) (n : Sem) : (s.rewound c).sem c n = (s.sem c n).rewound := by
  rw [State.rewound, sem_of_only (State.breakOwned_frame ..) (by decide),
    State.each_setSem_sem _ c 64 SemSt.rewound, if_pos n.isLt, sem_of_only (s.discardPasses_frame c) (by decide)]

theorem State.rewound_obj {s : State} {a b : Nat} (c : Nat) (hstalls : okey a b ≠ okey 0x4010 7)
    (h : okey a b ∉ okey 0x6010 3 :: okey 0x6010 4 :: packetCounts) : (s.rewound c).obj a b = s.obj a b := by
  have hlogs := h
  simp only [packetCounts, List.mem_cons, List.not_mem_nil, or_false, not_or] at hlogs
  obtain ⟨-, -, -, -, htotal, hlost⟩ := hlogs
  rw [State.rewound, State.breakOwned_obj _ h, obj_of_only (State.each_setSem_frame _ c SemSt.rewound _) (by decide),
    State.discardPasses_obj c hstalls htotal hlost]

/-- The contexts of a core are put back as a record has them, each with what it must suppress. -/
def State.restored (u : State) (c : Nat) (record : List ReplayCtx) (old : List CtxSt) : State :=
  u.each (List.range 8) fun t x =>
    match record[x]?, old[x]? with
    | some r, some o => t.setCtx c x (r.restore o t.now)
    | _, _ => t

theorem State.replayReset_eq (s : State) (c : Nat) : s.replayReset c =
    ((((s.rewound c).restored c (s.core c).replay ((List.range 8).map (s.ctx c))).noteActive c).mapCore c fun k =>
      { k with rerun := true, suppressedPosts := 0, suppressedMovs := 0 }).count 0x4036 c := rfl

theorem State.restored_frame (u : State) (c : Nat) (record : List ReplayCtx) (old : List CtxSt) :
    Only [.ctxs] u (u.restored c record old) := by
  refine State.each_only (Only.refl _ u) _ _ fun t x ht => ?_
  split
  · exact State.setCtx_only ht (by decide) ..
  · exact ht

theorem State.restored_ctx {u : State} {c : Nat} {record : List ReplayCtx} {old : List CtxSt} {x : Nat} {r : ReplayCtx}
    {o : CtxSt} (hrecord : record[x]? = some r) (hold : old[x]? = some o) (hx : x < 8) :
    (u.restored c record old).ctx c x = r.restore o u.now := by
  refine (each_entry' (fun x t => t.ctx c x) (fun _ => r.restore o u.now) (P := fun t => t.now = u.now)
    (Q := fun y => y = x) ?_ ?_ ?_ 8 u rfl).2 x hx rfl
  · intro t y ht
    split
    · exact (congrArg (· / 64) (State.setCtx_hall ..)).trans ht
    · exact ht
  · rintro t y rfl ht
    rw [hrecord, hold]
    dsimp only
    rw [State.ctx_setCtx, ht]
  · intro t y z hyz
    split
    · exact ctx_set_ne _ hyz
    · rfl

theorem State.replayReset_sem (s : State) (c : Nat) (n : Sem) : (s.replayReset c).sem c n = (s.sem c n).rewound := by
  rw [State.replayReset_eq, State.count_sem, State.mapCore_sem, sem_of_only (State.noteActive_frame ..) (by decide),
    sem_of_only (State.restored_frame ..) (by decide), State.rewound_sem]

theorem State.replayReset_rerun (s : State) (c : Nat) : ((s.replayReset c).core c).rerun = true := by
  rw [State.replayReset_eq, State.count_core, core_mapCore]

theorem State.replayReset_ctx {s : State} {c : Nat} (hrecord : (s.core c).replay.length = 8) (x : Ctx) :
    ∃ r, (s.core c).replay[x.val]? = some r ∧ (s.replayReset c).ctx c x = r.restore (s.ctx c x) s.now := by
  have hx : x.val < (s.core c).replay.length := by omega
  refine ⟨_, List.getElem?_eq_getElem hx, ?_⟩
  have hnow : (s.rewound c).now = s.now := congrArg (· / 64) ((s.rewound_frame c).2 .hall (by decide))
  rw [State.replayReset_eq, State.count_ctx, State.mapCore_ctx, ctx_of_only (State.noteActive_frame ..) (by decide),
    State.restored_ctx (List.getElem?_eq_getElem hx) (o := s.ctx c x) (by simp) x.isLt, hnow]

theorem State.replayReset_obj {s : State} {a b : Nat} (c : Nat) (hstalls : okey a b ≠ okey 0x4010 7)
    (h : okey a b ∉ okey 0x6010 3 :: okey 0x6010 4 :: packetCounts) (hcount : okey a b ≠ okey 0x4036 c) :
    (s.replayReset c).obj a b = s.obj a b := by
  rw [State.replayReset_eq, State.obj_count, if_neg hcount, State.mapCore_obj,
    obj_of_only (State.noteActive_frame ..) (by decide), obj_of_only (State.restored_frame ..) (by decide),
    State.rewound_obj c hstalls h]

/-! ### REPLAY and ISOLATE (R213, R423, R427) -/

/-- The state after a replay without a mover's reset. -/
def State.replayed (s : State) (c cause : Nat) : State :=
  (s.replayReset c).log 0x9002 (domCore c) [(16, domCore c), (8, cause)]

theorem State.replayed_frame (s : State) (c cause : Nat) : Only [.out, .drawn, .links, .fabric, .stores, .accs, .cores,
    .ctxs, .sems, .movers, .objects, .ring] s (s.replayed c cause) :=
  State.log_only (State.replayReset_only (Only.refl _ s) (by decide) c) (by decide) ..

theorem State.wakeCore_replay (s : State) (c : Nat) : ((s.wakeCore c).core c).replay = (s.core c).replay := by
  obtain ⟨power, wake, hcore⟩ := s.wakeCore_core c
  rw [hcore]

/-- What REPLAY and ISOLATE put back of a core that they have woken: its contexts and its semaphores. -/
structure State.Rewinds (s t : State) (core : Core) : Prop where
  sem : ∀ n : Sem, t.sem core n = (s.sem core n).rewound
  ctx : ∀ x : Ctx, ∃ r, (s.core core).replay[x.val]? = some r ∧ t.ctx core x = r.restore (s.ctx core x) s.now

theorem State.replayed_rewinds {s : State} {core : Core} (cause : Nat) (hrecord : (s.core core).replay.length = 8) :
    s.Rewinds ((s.wakeCore core).replayed core cause) core := by
  have hwoken := s.wakeCore_frame core
  have hnow : (s.wakeCore core).now = s.now := congrArg (· / 64) (hwoken.2 .hall (by decide))
  refine ⟨fun n => ?_, fun x => ?_⟩
  · rw [State.replayed, State.log_sem, State.replayReset_sem, sem_of_only hwoken (by decide)]
  · have hctx := State.replayReset_ctx (s := s.wakeCore core) (by rwa [s.wakeCore_replay]) x
    rwa [s.wakeCore_replay, s.wakeCore_ctx, hnow, ← State.log_ctx] at hctx

theorem State.replayed_rerun (s : State) (c cause : Nat) : ((s.replayed c cause).core c).rerun = true := by
  rw [State.replayed, State.log_core, State.replayReset_rerun]

theorem faults_of_only {s t : State} {ps : List Part} (h : Only ps s t) (hring : Part.ring ∉ ps)
    (hrest : Part.faults ∉ ps) : t.faults = s.faults := by
  have hfaults : t.faults = { s.faults with ring := t.faults.ring } := h.2 .faults hrest
  have hkept : t.faults.ring = s.faults.ring := h.2 .ring hring
  rw [hfaults, hkept]

theorem State.wakeCore_resetsInWindow (s : State) (c : Nat) : (s.wakeCore c).resetsInWindow = s.resetsInWindow := by
  have hwoken := s.wakeCore_frame c
  have hnow : (s.wakeCore c).now = s.now := congrArg (· / 64) (hwoken.2 .hall (by decide))
  rw [State.resetsInWindow, faults_of_only hwoken (by decide) (by decide), hnow, obj_of_only hwoken (by decide),
    State.resetsInWindow]

/-- The state in which a counted reset of the core has been noted, and the replay has been done in it (R423, R434). -/
def State.recoveryReplayed (s : State) (core : Core) (r : Recovery) : State :=
  (((s.wakeCore core).setFaults fun f => { f with resets := s.now :: f.resets }).replayed core r.cause).setRecovery core
    (some { r with replayed := true, mover := none })

theorem State.recoveryReplayed_obj (s : State) (core : Core) (r : Recovery) :
    (s.recoveryReplayed core r).obj 0x9003 1 = s.obj 0x9003 1 := by
  rw [State.recoveryReplayed, State.setRecovery, State.setFaults_obj, State.replayed,
    State.log_obj _ _ _ (by decide) (by decide), State.replayReset_obj _ (by decide) (by decide) (by unfold okey; omega),
    State.setFaults_obj, obj_of_only (s.wakeCore_frame core) (by decide)]

theorem State.recoveryReplayed_rerun (s : State) (core : Core) (r : Recovery) :
    ((s.recoveryReplayed core r).core core).rerun = true := by
  rw [State.recoveryReplayed, State.setRecovery, State.setFaults_core, State.replayed_rerun]

theorem State.recoveryReplayed_resets (s : State) (core : Core) (r : Recovery) :
    (s.recoveryReplayed core r).faults.resets = s.now :: s.faults.resets := by
  have hreplayed := (State.replayed_frame ((s.wakeCore core).setFaults fun f => { f with resets := s.now :: f.resets })
    core r.cause).2 .faults (by decide)
  rw [State.recoveryReplayed, State.setRecovery, State.setFaults_faults, hreplayed, State.setFaults_faults,
    faults_of_only (s.wakeCore_frame core) (by decide) (by decide)]

section
variable {s : State} {core : Core} (hdown : s.down = false)
include hdown

theorem exec_replay_refused (hreplay : (s.core core).replay = []) :
    exec (.replay core) s = .next ((s.wakeCore core).emit (.dcRefused .noFence)) := by
  change execReplay core s = _
  rw [execReplay, act_up hdown]
  dsimp only
  rw [if_pos (by rw [s.wakeCore_replay, hreplay]; rfl)]

theorem exec_isolate_refused {ctx : Ctx} (hreplay : (s.core core).replay = []) :
    exec (.isolate core ctx) s = .next ((s.wakeCore core).emit (.dcRefused .noFence)) := by
  change execIsolate core ctx s = _
  rw [execIsolate, act_up hdown]
  dsimp only
  rw [if_pos (by rw [s.wakeCore_replay, hreplay]; rfl)]

variable (hreplay : (s.core core).replay ≠ [])
include hreplay

/-- REPLAY outside a recovery. -/
theorem exec_replay_alone (hnone : s.recovery core = none) :
    exec (.replay core) s = .next ((s.wakeCore core).replayed core 0) := by
  change execReplay core s = _
  rw [execReplay, act_up hdown]
  dsimp only
  rw [if_neg (by rw [s.wakeCore_replay]; simpa using hreplay), recovery_of_only (s.wakeCore_frame core) (by decide), hnone]
  rfl

/-- ISOLATE outside a recovery. -/
theorem exec_isolate_alone {ctx : Ctx} (hnone : s.recovery core = none) : exec (.isolate core ctx) s =
    .next (((s.wakeCore core).replayed core 0).mapCore core fun k => { k with isolate := some ctx.val }) := by
  have hwoken : (s.wakeCore core).recovery core = none :=
    (recovery_of_only (s.wakeCore_frame core) (by decide) core).trans hnone
  have hafter : (((s.wakeCore core).replayed core 0).mapCore core fun k => { k with isolate := some ctx.val }).recovery
      core = none :=
    (recovery_of_only (State.mapCore_only (State.replayed_frame _ core 0) (by decide) core _) (by decide) core).trans hwoken
  change execIsolate core ctx s = _
  rw [execIsolate, act_up hdown]
  dsimp only
  rw [if_neg (by rw [s.wakeCore_replay]; simpa using hreplay), hwoken]
  rw [State.replayed] at hafter
  dsimp only [Option.bind_none, State.doReplay]
  rw [hafter]
  rfl

/-- REPLAY in a recovery, within the resets that its window allows. -/
theorem exec_replay_counted {r : Recovery} (hrecovery : s.recovery core = some r) (hfirst : r.replayed = false)
    (hmover : r.mover = none) (hheld : s.hold.held = true) (hlimit : s.resetsInWindow + 1 < s.obj 0x9002 1)
    (hservice : s.obj 0x9003 1 ≠ 1) : exec (.replay core) s = .next (s.recoveryReplayed core r) := by
  have hwoken := s.wakeCore_frame core
  have hnow : (s.wakeCore core).now = s.now := congrArg (· / 64) (hwoken.2 .hall (by decide))
  have hhold : (s.wakeCore core).hold = s.hold := hwoken.2 .hold (by decide)
  have hreset : (s.wakeCore core).countedReset (fun s => (s.doReplay core r.cause none).setRecovery core
      (some { r with replayed := true, mover := none })) = s.recoveryReplayed core r := by
    unfold State.countedReset
    rw [if_pos (by rwa [s.wakeCore_resetsInWindow, obj_of_only hwoken (by decide)]), hnow]
    rfl
  change execReplay core s = _
  rw [execReplay, act_up hdown]
  dsimp only
  rw [if_neg (by rw [s.wakeCore_replay]; simpa using hreplay), recovery_of_only hwoken (by decide), hrecovery]
  dsimp only
  rw [if_neg (by simp [hfirst, hhold, hheld]), hmover, hreset, State.recoveryReplayed_obj]
  simp [State.on, hservice]

end

/-! ### The end of a re-run (R207) -/

/-- The state in which the re-run has ended, and a recovery has still to go on. -/
def State.rerunEnded (s : State) (c : Nat) : State :=
  (s.mapCore c fun k => { k with rerun := false, isolate := none }).log 0x4036 (domCore c)
    [(32, (s.core c).suppressedPosts), (32, (s.core c).suppressedMovs)]

theorem State.rerunEnded_frame (s : State) (c : Nat) : Only [.cores, .objects, .ring] s (s.rerunEnded c) :=
  State.log_only (State.mapCore_only (Only.refl _ s) (by decide) c _) (by decide) ..

theorem State.rerunEnded_core (s : State) (c : Nat) :
    (s.rerunEnded c).core c = { s.core c with rerun := false, isolate := none } := by
  rw [State.rerunEnded, State.log_core, core_mapCore]

theorem State.rerunEnded_logged (s : State) (c : Nat) : Logged s (s.rerunEnded c) [0x4036] :=
  Logged.log_of_faults (State.mapCore_faults ..) 0x4036 _ _ (by decide)

/-- The state in which the core counts as recovered. -/
def State.coreRecovered (s : State) (c : Nat) : State :=
  (s.rerunEnded c).setFaults fun f => { f with recovered := f.recovered ++ [c] }

section
variable {s : State} {core : Core} (hdown : s.down = false) (hrerun : (s.core core).rerun = true)
  (hends : s.rerunGoesOn core = false)
include hdown hrerun hends

theorem exec_rerunEnd_alone (hnone : s.recovery core = none) : exec (.rerunEnd core) s = .next (s.rerunEnded core) := by
  have hafter := (recovery_of_only (s.rerunEnded_frame core) (by decide) core).trans hnone
  rw [State.rerunEnded] at hafter
  change execRerunEnd core s = _
  rw [execRerunEnd, act_up hdown]
  dsimp only
  rw [if_neg (by simp [hrerun, hends]), hafter]
  rfl

theorem exec_rerunEnd_recovered {r : Recovery} (hrecovery : s.recovery core = some r) (hisolated : r.isolated = none)
    (hsuspects : r.suspects = []) :
    exec (.rerunEnd core) s = .next ((s.coreRecovered core).originateResume r.holdSeq) := by
  have hafter := (recovery_of_only (s.rerunEnded_frame core) (by decide) core).trans hrecovery
  rw [State.rerunEnded] at hafter
  change execRerunEnd core s = _
  rw [execRerunEnd, act_up hdown]
  dsimp only
  rw [if_neg (by simp [hrerun, hends]), hafter]
  dsimp only
  rw [if_neg (by simp [hisolated]), if_neg (by simp [hsuspects])]
  rfl

end

/-- A RESUME that this module sends for one of its own holds is taken in by it as well (R83, R85). -/
theorem State.originateResume_resumes {s : State} {seq cause : Nat}
    (hown : s.hold.own.find? (·.1 == seq) = some (seq, cause)) (hresumes : s.hold.noResume = false) :
    (s.originateResume seq).hold.resumes =
      s.hold.resumes ++ [⟨s.moduleNumber, seq, s.leadTick, s.hold.toName.take 4⟩] := by
  unfold State.originateResume
  rw [hown]
  dsimp only
  rw [if_neg (by rw [State.setHold_hold, hresumes]; simp), State.flood_hold, State.setHold_hold]
  unfold State.firstSeen
  split <;> rfl

/-- Settles O35, clause by clause. -/
theorem fencesAndRecovery : Obligations.FencesAndRecovery := by
  intro s core hdown
  have hunheld : ∀ {n : Nat}, (s.core core).replay.length = n + 1 → (s.core core).replay ≠ [] := fun h hnil => by
    simp [hnil] at h
  refine ⟨fun hready => ?fence, fun t0 hfence hfirst hruns hheld => ?span,
    fun x hpaced hnone hfirst hreplay => ?contextPace, fun out m hmover hcore hbusy hnone hfirst hreplay => ?moverPace,
    fun hlength hnone => ⟨?replay, fun y => ?isolate⟩,
    fun r hlength hrecovery hfirst hmover hheld hlimit hservice => ?counted,
    fun hreplay y => ⟨?noReplay, ?noIsolate⟩,
    fun hrerun hends => ⟨fun hnone => ?ends, fun r hrecovery hisolated hsuspects => ?recovered⟩⟩
  case fence =>
    refine ⟨_, exec_fenceForm hdown hready, by rw [State.fenceFormed_core], by rw [State.fenceFormed_core], fun n => ?_,
      fun x => ?_⟩
    · rw [State.fenceFormed, State.setFaults_sem, State.mapCore_sem, State.fenceCounts_sem]
      rfl
    · rw [State.fenceFormed, State.setFaults_ctx, State.mapCore_ctx, State.fenceCounts_ctx]
      exact ⟨CtxSt.fenced_status _, CtxSt.fenced_counts ..⟩
  case span =>
    have hframe := s.overran_frame core t0
    refine ⟨_, exec_fenceSpanExceeded hdown hfence hfirst hruns hheld,
      Logged.log_of_faults ((State.count_faults ..).trans (faults_of_only hframe (by decide) (by decide))) 0x4032 _ _
        (by decide), ?_, ?_, ?_, ?_⟩
    · rw [State.log_core, State.count_core, State.overran, State.core_setCore]
    · rw [State.log_hall, State.count_hall, State.overran, State.setCore_hall, State.reach_hall']
    · rw [State.log_obj _ _ _ (by unfold okey; omega) (by unfold okey; omega), State.obj_count, if_pos rfl,
        obj_of_only hframe (by decide)]
    · rw [State.log_ctxs, State.count_ctxs, hframe.2 .ctxs (by decide)]
  case contextPace =>
    obtain ⟨hrecovery, hflag, hstopped, hcounted, hlogged, hhall⟩ := State.paceLogged_recovers (c := core) (cause := 2)
      (max (s.ctx core x).pace s.hold.endedAt + s.obj 0x9000 1) (domCore core) [(8, core), (3, x)] none (by decide) hreplay
    obtain ⟨htotal, hcause⟩ := hcounted (by decide)
    exact ⟨_, exec_contextPaceExpire hdown hnone hfirst hpaced, hrecovery, hflag, hstopped, htotal, hcause, hlogged, hhall⟩
  case moverPace =>
    obtain ⟨hrecovery, hflag, -, hcounted, hlogged, hhall⟩ := State.paceLogged_recovers (c := core) (cause := 3)
      ((s.mover m).pace + s.obj 0x9000 2) (domMover m) [(8, core), (1, m % 2)] (some out) (by decide) hreplay
    obtain ⟨htotal, hcause⟩ := hcounted (by decide)
    exact ⟨_, exec_moverPaceExpire hdown hnone hfirst hmover hcore hbusy, hrecovery, hflag, htotal, hcause, hlogged, hhall⟩
  case replay =>
    obtain ⟨hsem, hctx⟩ := State.replayed_rewinds (s := s) 0 hlength
    exact ⟨_, exec_replay_alone hdown (hunheld hlength) hnone, State.replayed_rerun .., hctx,
      fun n => by rw [hsem n]; exact ⟨rfl, rfl, rfl⟩⟩
  case isolate =>
    obtain ⟨hsem, hctx⟩ := State.replayed_rewinds (s := s) 0 hlength
    refine ⟨_, exec_isolate_alone hdown (hunheld hlength) hnone, ?_, ?_, fun n => ?_, fun x => ?_⟩
    · rw [core_mapCore, State.replayed_rerun]
    · rw [core_mapCore]
    · rw [State.mapCore_sem, hsem n]
      exact ⟨rfl, rfl, rfl⟩
    · rw [State.mapCore_ctx]
      exact hctx x
  case counted =>
    exact ⟨_, exec_replay_counted hdown (hunheld hlength) hrecovery hfirst hmover hheld hlimit hservice,
      s.recoveryReplayed_rerun core r, (State.recovery_setRecovery ..).trans (by rw [← hmover]), s.recoveryReplayed_resets core r⟩
  case noReplay =>
    exact ⟨_, exec_replay_refused hdown hreplay, congrArg (_ :: ·) ((s.wakeCore_frame core).2 .out (by decide)),
      s.wakeCore_ctxs core⟩
  case noIsolate =>
    exact ⟨_, exec_isolate_refused hdown hreplay, congrArg (_ :: ·) ((s.wakeCore_frame core).2 .out (by decide)),
      s.wakeCore_ctxs core⟩
  case ends =>
    exact ⟨_, exec_rerunEnd_alone hdown hrerun hends hnone, s.rerunEnded_logged core, by rw [State.rerunEnded_core],
      by rw [State.rerunEnded_core]⟩
  case recovered =>
    have hended := s.rerunEnded_frame core
    have hresume : Only [.hold, .links] (s.coreRecovered core) ((s.coreRecovered core).originateResume r.holdSeq) :=
      State.originateResume_only (Only.refl _ _) (by decide) r.holdSeq
    have hhold : (s.coreRecovered core).hold = s.hold :=
      (State.setFaults_hold ..).trans (hended.2 .hold (by decide))
    refine ⟨_, exec_rerunEnd_recovered hdown hrerun hends hrecovery hisolated hsuspects,
      (s.rerunEnded_logged core).congr (hresume.2 .ring (by decide)), ?_, ?_, fun cause hown hresumes => ?_⟩
    · rw [core_of_only hresume (by decide), State.coreRecovered, State.setFaults_core, State.rerunEnded_core]
    · rw [recovered_of_only hresume (by decide), State.coreRecovered, State.setFaults_faults,
        recovered_of_only hended (by decide)]
    · rw [State.originateResume_resumes (cause := cause) (by rwa [hhold]) (by rwa [hhold]), hhold]
      have hobj : ∀ {a b : Nat}, okey a b ≠ okey 0x9004 2 → okey a b ≠ okey 0x9004 3 →
          (s.coreRecovered core).obj a b = s.obj a b := fun htotal hlost => by
        rw [State.coreRecovered, State.setFaults_obj, State.rerunEnded, State.log_obj _ _ _ htotal hlost, State.mapCore_obj]
      have hnow : (s.coreRecovered core).now = s.now := congrArg (· / 64) (hended.2 .hall (by decide))
      rw [State.moduleNumber, State.leadTick, hobj (by decide) (by decide), hobj (by decide) (by decide), hnow]
      rfl

end Sys2Proof.Machine

/-!
Movers (O32): a descriptor that is queued, and an item that enters its queue in its turn.
-/
namespace Sys2Proof.Machine

/-! ### A context that waits is among the contenders (R101, R184) -/

/-- A number that stands in an ascending list is inserted where it is. -/
theorem insertAsc_of_mem {x : Nat} {xs : List Nat} (hsorted : xs.Pairwise (· < ·)) (hx : x ∈ xs) : insertAsc x xs = xs := by
  induction xs with
  | nil => exact absurd hx List.not_mem_nil
  | cons y ys ih =>
    obtain ⟨hfirst, hrest⟩ := List.pairwise_cons.mp hsorted
    rw [insertAsc]
    rcases List.mem_cons.mp hx with rfl | hlater
    · rw [if_pos rfl]
    · have hlt := hfirst x hlater
      rw [if_neg (by omega), if_neg (by omega), ih hrest hlater]

theorem State.waiters_sorted (s : State) (c : Nat) (f : Wait → Bool) : (s.waiters c f).Pairwise (· < ·) :=
  List.Pairwise.filter _ List.pairwise_lt_range

theorem State.mem_waiters {s : State} {c : Nat} {f : Wait → Bool} {x : Ctx} (hwait : f (s.ctx c x).wait = true) :
    x.val ∈ s.waiters c f :=
  List.mem_filter.mpr ⟨List.mem_range.mpr x.isLt, hwait⟩

theorem State.passContenders_sorted (s : State) (c : Nat) : (s.passContenders c).Pairwise (· < ·) := by
  refine List.pairwise_append.mpr ⟨s.waiters_sorted c _, ?_, fun a ha b hb => ?_⟩
  · split
    · exact List.pairwise_singleton _ _
    · exact List.Pairwise.nil
  · have ha8 := List.mem_range.mp (List.mem_filter.mp ha).1
    split at hb
    · rw [List.mem_singleton] at hb
      omega
    · exact absurd hb List.not_mem_nil

/-! ### An item that enters its queue (R184) -/

/-- `u` is the state in which the item of a context has entered queue `q`; its instruction retires. -/
def State.tookPlace (u : State) (c x q : Nat) : State := (u.tookTurn c q x).retire c x

theorem State.tookPlace_frame (u : State) (c x q : Nat) : Only [.cores, .ctxs] u (u.tookPlace c x q) :=
  State.retire_only (State.mapCore_only (Only.refl _ u) (by decide) c _) (by decide) c x

theorem State.tookPlace_core (u : State) (c x q : Nat) : (u.tookPlace c x q).core c =
    { u.core c with turns := Tbl.set (0, 0) (u.core c).turns q (u.now / 5 + 1, x) } := by
  rw [State.tookPlace, State.retire, State.mapCtx_core, State.tookTurn, core_mapCore]

theorem State.tookPlace_ctx {s u : State} (hnow : u.now = s.now) (c x q : Nat) :
    (u.tookPlace c x q).ctx c x = s.retired (u.ctx c x) := by
  rw [State.tookPlace, State.retire_ctx_of_now (u := u.tookTurn c q x) ((State.mapCore_now ..).trans hnow), tookTurn_ctx]

theorem State.tookPlace_onlyCtx (u : State) (c : Core) (x : Ctx) (q : Nat) : OnlyCtx u (u.tookPlace c x q) c x :=
  fun _ _ hne => (retire_other hne).trans (tookTurn_ctx ..)

/-- A context that wins its place among the contenders enters. -/
theorem State.enterQueue_of_wins {s : State} {c q : Nat} {x : Ctx} {xs : List Nat} {room : Bool} (enter : State → State)
    (w : Wait) (hsorted : xs.Pairwise (· < ·)) (hx : x.val ∈ xs) (hroom : room = true)
    (hwins : s.winsPlace c q xs x = true) :
    (if (room && s.winsPlace c q xs x) = true then s.enterQueue c x q xs room enter w else s) =
      (enter s).tookPlace c x q := by
  rw [if_pos (by rw [hroom, hwins]; rfl), State.enterQueue_enters enter w
    (by rw [insertAsc_of_mem hsorted hx, hroom, hwins]; rfl), State.tookPlace]

section
variable {s : State} {core : Core} {ctx : Ctx} (hdown : s.down = false) (hawake : s.coreAwake core = true)
include hdown hawake

theorem exec_queueAdmit_pass {p : PassRec} (hwait : (s.ctx core ctx).wait = .pass p) (hroom : s.passRoom core = true)
    (hwins : s.winsPlace core 1 (s.passContenders core) ctx = true) :
    exec (.queueAdmit core ctx) s = .next ((s.queuePass core ⟨some ctx, p, []⟩).tookPlace core ctx 1) := by
  change execQueueAdmit core ctx s = _
  rw [execQueueAdmit, act_up hdown, if_neg (by simp [hawake])]
  dsimp only
  rw [hwait]
  exact congrArg _ (State.enterQueue_of_wins _ _ (s.passContenders_sorted core)
    (List.mem_append_left _ (State.mem_waiters (by rw [hwait]))) hroom hwins)

theorem exec_queueAdmit_gather {p : PassRec} {since i : Nat} (hwait : (s.ctx core ctx).wait = .gather p since)
    (hslot : s.groupSlot core p = some i) (hwins : s.winsPlace core 2 (s.gatherContenders core) ctx = true) :
    exec (.queueAdmit core ctx) s = .next ((s.countStalls.joinGroup core ctx i p).tookPlace core ctx 2) := by
  have hjoined : s.joinGathered core ctx p = s.countStalls.joinGroup core ctx i p := by
    rw [State.joinGathered, hslot]
  change execQueueAdmit core ctx s = _
  rw [execQueueAdmit, act_up hdown, if_neg (by simp [hawake])]
  dsimp only
  rw [hwait]
  refine congrArg _ ((State.enterQueue_of_wins _ _ (s.waiters_sorted core _)
    (State.mem_waiters (by rw [hwait]; simp [hslot])) (by rw [hslot]; rfl) hwins).trans ?_)
  rw [hjoined]

theorem exec_queueAdmit_vec {v : VecItem} (hwait : (s.ctx core ctx).wait = .vec v)
    (hroom : (s.core core).vecQ.length < 8) (hwins : s.winsPlace core 3 (s.vecContenders core) ctx = true) :
    exec (.queueAdmit core ctx) s = .next ((s.queueVec core v).tookPlace core ctx 3) := by
  change execQueueAdmit core ctx s = _
  rw [execQueueAdmit, act_up hdown, if_neg (by simp [hawake])]
  dsimp only
  rw [hwait]
  exact congrArg _ (State.enterQueue_of_wins _ _ (s.waiters_sorted core _)
    (State.mem_waiters (by rw [hwait])) (decide_eq_true hroom) hwins)

theorem exec_queueAdmit_mov {out : Bool} {i : MovItem} (hwait : (s.ctx core ctx).wait = .mov out i)
    (hroom : s.movRoom (2 * core.val + (if out then 1 else 0)) = true)
    (hwins : s.winsPlace core (if out then 5 else 4) (s.movContenders core out) ctx = true) :
    exec (.queueAdmit core ctx) s = .next ((s.queueMov core ctx out i).tookPlace core ctx (if out then 5 else 4)) := by
  change execQueueAdmit core ctx s = _
  rw [execQueueAdmit, act_up hdown, if_neg (by simp [hawake])]
  dsimp only
  rw [hwait]
  exact congrArg _ (State.enterQueue_of_wins _ _ (s.waiters_sorted core _)
    (State.mem_waiters (by rw [hwait]; simp)) hroom hwins)

end

/-! ### MOV.X (R199, R205, R207) -/

/-- A context that has issued one descriptor more to a mover (R205). -/
def CtxSt.movCounted (v : CtxSt) (out : Bool) : CtxSt :=
  if out then { v with movs1 := v.movs1 + 1 } else { v with movs0 := v.movs0 + 1 }

theorem State.queueMov_ctx (s : State) (c x : Nat) (out : Bool) (i : MovItem) :
    (s.queueMov c x out i).ctx c x = (s.ctx c x).movCounted out := by
  rw [State.queueMov]
  rw [ctx_mapCtx, State.setMover_ctx, CtxSt.movCounted]

theorem State.queueMov_onlyCtx (s : State) (c : Core) (x : Ctx) (out : Bool) (i : MovItem) :
    OnlyCtx s (s.queueMov c x out i) c x := fun d y hne => by
  rw [State.queueMov]
  rw [ctx_mapCtx_other _ hne, State.setMover_ctx]

theorem State.queueMov_queue (s : State) (c x : Nat) (out : Bool) (i : MovItem) :
    ((s.queueMov c x out i).mover (2 * c + (if out then 1 else 0))).queue =
      (s.mover (2 * c + (if out then 1 else 0))).queue ++ [i] := by
  rw [State.queueMov]
  rw [State.mapCtx_mover, State.mover_setMover]

theorem State.queueMov_now (s : State) (c x : Nat) (out : Bool) (i : MovItem) : (s.queueMov c x out i).now = s.now := by
  rw [State.queueMov]
  rw [State.mapCtx_now]
  exact congrArg (· / 64) (State.setMover_hall ..)

/-- The descriptor that a MOV.X issues. -/
def State.movItem (s : State) (c x w : Nat) : MovItem :=
  ⟨x, s.movAddr c x w, (s.ctx c x).stageKey, fld w 93 86,
    BitVec.ofNat 1024 (s.storeNat c 3 (s.movAddr c x w) 128)⟩

/-- The state after a MOV.X that a re-run suppresses. -/
def State.movSuppressed (s : State) (c x : Nat) : State :=
  (((s.issued c x).setCtx c x { (s.issued c x).ctx c x with skipMovs := ((s.issued c x).ctx c x).skipMovs - 1 }).mapCore c
    fun k => { k with suppressedMovs := k.suppressedMovs + 1 }).retire c x

theorem State.movSuppressed_ctx (s : State) (c x : Nat) : (s.movSuppressed c x).ctx c x =
    s.retired { s.ctx c x with skipMovs := (s.ctx c x).skipMovs - 1 } := by
  have hnow : ∀ v, (((s.issued c x).setCtx c x v).mapCore c fun k =>
      { k with suppressedMovs := k.suppressedMovs + 1 }).now = s.now := fun v =>
    (State.mapCore_now ..).trans ((congrArg (· / 64) (State.setCtx_hall ..)).trans (s.issued_now c x))
  rw [State.movSuppressed, State.retire_ctx_of_now (hnow _), State.mapCore_ctx, State.ctx_setCtx, State.issued_ctx]

theorem State.movSuppressed_onlyCtx (s : State) (c : Core) (x : Ctx) : OnlyCtx s (s.movSuppressed c x) c x :=
  fun d y hne => by
    rw [State.movSuppressed, retire_other hne, State.mapCore_ctx, ctx_setCtx_other _ hne, State.issued_ctx]

theorem State.issued_movers (s : State) (c x : Nat) : (s.issued c x).movers = s.movers := rfl

theorem State.movSuppressed_movers (s : State) (c x : Nat) : (s.movSuppressed c x).movers = s.movers := by
  have hframe : Only [.ctxs, .cores] (s.issued c x) (s.movSuppressed c x) :=
    State.retire_only (State.mapCore_only (State.setCtx_only (Only.refl _ _) (by decide) c x _) (by decide) c _)
      (by decide) c x
  rw [hframe.2 .movers (by decide), State.issued_movers]

section
variable {s : State} {core : Core} {ctx : Ctx} {w : Nat} (hdown : s.down = false)
  (hissues : s.Issues core ctx 0x40 w) (henc : unassigned w [(111, 86)] = false)
  (hsem : fld w 93 86 < 64 ∨ fld w 93 86 = 0xFF) (haligned : s.movAddr core ctx w % 64 = 0)
  (hfits : s.movAddr core ctx w + 128 ≤ storeSize 3)

include henc hsem in
theorem movEnc_ok : (if unassigned w [(111, 86)] then some (Reject.cause 1)
    else failIf (decide (64 ≤ fld w 93 86) && fld w 93 86 != 0xFF) 0xA) = none := by
  rw [henc]
  refine failIf_false ?_ 0xA
  rcases hsem with h | h
  · simp [Nat.not_le.mpr h]
  · simp [h]

include haligned hfits in
theorem State.movAddr_ok : ¬(s.movAddr core ctx w % 64 ≠ 0 ∨ storeSize 3 < s.movAddr core ctx w + 128) := by omega

include hdown hissues henc hsem haligned hfits

theorem exec_movX_suppressed (hskip : (s.ctx core ctx).skipMovs ≠ 0) :
    exec (.movX core ctx) s = .next (s.movSuppressed core ctx) :=
  exec_of_issue rfl hdown hissues (by decide) (movEnc_ok henc hsem)
    ((if_neg (State.movAddr_ok haligned hfits)).trans (if_pos hskip)) (if_pos hskip)

theorem exec_movX (hskip : (s.ctx core ctx).skipMovs = 0)
    (hcheck : s.descCheck (s.ctx core ctx).stageKey (s.storeNat core 3 (s.movAddr core ctx w) 128) = none) :
    exec (.movX core ctx) s = .next ((s.issued core ctx).enterQueue core ctx (if bitAt w 111 then 5 else 4)
      (s.movContenders core (bitAt w 111)) (s.movRoom (2 * core.val + (if bitAt w 111 then 1 else 0)))
      (·.queueMov core ctx (bitAt w 111) (s.movItem core ctx w)) (.mov (bitAt w 111) (s.movItem core ctx w))) := by
  have hsound : Option.map (fun code => Reject.descriptor (if bitAt w 111 then 1 else 0) code
      (code == 1 && dReserved (s.storeNat core 3 (s.movAddr core ctx w) 128)))
      (s.descCheck (s.ctx core ctx).stageKey (s.storeNat core 3 (s.movAddr core ctx w) 128)) = none := by
    rw [hcheck]; rfl
  exact exec_of_issue rfl hdown hissues (by decide) (movEnc_ok henc hsem)
    ((if_neg (State.movAddr_ok haligned hfits)).trans ((if_neg (not_not_intro hskip)).trans hsound)) (if_neg (not_not_intro hskip))

end

end Sys2Proof.Machine

/-!
Movers (O32): the pages and the moves of a descriptor, its completion, its retry, and the reset of a mover.
-/
namespace Sys2Proof.Machine

/-! ### Queues that a descriptor under way leaves alone -/

theorem mover_of_only {s t : State} {ps : List Part} (h : Only ps s t) (hp : Part.movers ∉ ps) (m : Nat) :
    t.mover m = s.mover m := congrArg (Tbl.get MoverSt.reset · m) (h.2 .movers hp)

theorem State.mover_setMover_other (s : State) {m n : Nat} (v : MoverSt) (hne : n ≠ m) :
    (s.setMover m v).mover n = s.mover n := Tbl.get_set_other hne

/-- From `s` to `t` no descriptor has entered or left a queue. -/
structure QueuesKept (s t : State) : Prop where
  queue : ∀ n, (t.mover n).queue = (s.mover n).queue

namespace QueuesKept
variable {s t u : State}

theorem refl (s : State) : QueuesKept s s := ⟨fun _ => rfl⟩

theorem trans (h : QueuesKept s t) (k : QueuesKept t u) : QueuesKept s u :=
  ⟨fun n => (k.queue n).trans (h.queue n)⟩

theorem of_only {ps : List Part} (h : Only ps s t) (hp : Part.movers ∉ ps) : QueuesKept s t :=
  ⟨fun n => by rw [mover_of_only h hp]⟩

end QueuesKept

theorem State.setMover_queues {s : State} {m : Nat} {v : MoverSt} (hv : v.queue = (s.mover m).queue) :
    QueuesKept s (s.setMover m v) := by
  refine ⟨fun n => ?_⟩
  by_cases hne : n = m
  · rw [hne, State.mover_setMover, hv]
  · rw [State.mover_setMover_other _ _ hne]

theorem State.setRun_queues (s : State) (m : Nat) (r : MovRun) : QueuesKept s (s.setRun m r) := State.setMover_queues rfl

theorem State.failIssuer_queues (s : State) (r : Request) : QueuesKept s (s.failIssuer r) := by
  unfold State.failIssuer
  split
  · exact State.setMover_queues rfl
  · exact .refl s

theorem State.queueRequests_queues (s : State) (rs : List Request) : QueuesKept s (s.queueRequests rs) := by
  refine each_ind (P := QueuesKept s) (.refl s) fun t r _ ht => ht.trans ?_
  dsimp only
  split
  · exact ⟨fun _ => rfl⟩
  · exact t.failIssuer_queues r

/-- The state in which a descriptor that faults has left its mover, and its fault is not reported yet (R243). -/
def State.moverFreed (s : State) (m : Nat) (r : MovRun) : State :=
  let u := (s.partialWrites r).releaseClaims m
  u.setMover m { u.mover m with run := none, pace := u.now }

theorem State.moverFreed_queues (s : State) (m : Nat) (r : MovRun) : QueuesKept s (s.moverFreed m r) := by
  have hframe : Only [.drawn, .mem, .poison, .stores, .maps, .fabric] s ((s.partialWrites r).releaseClaims m) :=
    State.releaseClaims_only (State.partialWrites_only (Only.refl _ s) (by decide) r) (by decide) m
  exact (QueuesKept.of_only hframe (by decide)).trans (State.setMover_queues rfl)

/-- What the report of a fault changes of the machine. -/
def faultParts : List Part := [.out, .hold, .links, .ctxs, .sems, .objects, .ring, .msix, .alert]

theorem State.moverFault_frame (s : State) (m : Nat) (r : MovRun) (code addr : Nat) (slot : Option (Nat × Nat)) :
    Only faultParts (s.moverFreed m r) (s.moverFault m r code addr slot) := by
  unfold State.moverFault
  refine State.jobFail_only (State.count_only (State.evalWaitQ_only ?_ (by decide) _) (by decide) _ _ _) (by decide) _
  dsimp only
  rw [← State.moverFreed]
  have htold : ∀ v : State, Only faultParts (s.moverFreed m r) v → ∀ ev dom items o c n, Only faultParts
      (s.moverFreed m r) ((((v.count 0x4044 (m / 2)).log ev dom items).emit o).breakDone c n) := fun v hv ev dom items o c n =>
    State.breakDone_only (State.emit_only (State.log_only (State.count_only hv (by decide) _ _ _) (by decide) _ _ _)
      (by decide) _) (by decide) _ _
  have hread : Only faultParts (s.moverFreed m r) (match pageOf r.xlat addr with
      | some e => (s.moverFreed m r).on (code == 0x13) (·.readPoison (e.pa + (addr - e.va)) 64)
      | none => s.moverFreed m r) := by
    split
    · exact State.on_only (Only.refl _ _) _ _ fun t ht => State.readPoison_only ht (by decide) _ _
    · exact Only.refl _ _
  split
  · exact State.on_only (htold _ hread _ _ _ _ _ _) _ _ fun t ht => State.ctxFault_only ht (by decide) _ _ _
  · exact htold _ hread _ _ _ _ _ _

theorem State.moverFault_queues (s : State) (m : Nat) (r : MovRun) (code addr : Nat) (slot : Option (Nat × Nat)) :
    QueuesKept s (s.moverFault m r code addr slot) :=
  (s.moverFreed_queues m r).trans (.of_only (s.moverFault_frame m r code addr slot) (by decide))

theorem State.runSlots_queues (s : State) (m : Nat) (r : MovRun) (again : Bool) (n : Nat) :
    QueuesKept s (s.runSlots m r again n) := by
  induction n generalizing s r again with
  | zero => exact s.setRun_queues m _
  | succ n ih =>
    rw [State.runSlots]
    split
    · exact QueuesKept.trans (.of_only (State.countSlot_only (parts := [.objects]) (Only.refl _ s) (by decide) _ _)
        (by decide)) (ih _ _ _)
    · exact s.moverFault_queues ..
    · split
      · exact s.moverFault_queues ..
      · exact QueuesKept.trans (.of_only (State.count_only (parts := [.objects]) (Only.refl _ s) (by decide) _ _ _)
          (by decide)) (State.setRun_queues _ _ _)

theorem State.runMoves_queues (s : State) (m : Nat) (r : MovRun) : QueuesKept s (s.runMoves m r) := by
  unfold State.runMoves
  dsimp only
  split
  · exact s.runSlots_queues ..
  · split
    · split
      · exact s.moverFault_queues ..
      · exact s.moverFault_queues ..
      · exact (s.setRun_queues m _).trans (State.queueRequests_queues _ _)
    · split
      · exact s.moverFault_queues ..
      · exact s.setRun_queues m _

theorem State.resolve_queues (s : State) (m : Nat) (r : MovRun) : QueuesKept s (s.resolve m r) := by
  rw [State.resolve_eq]
  refine QueuesKept.trans (.of_only (s.each_tcUse_frame (m / 2) (s.hits (m / 2) r.need)) (by decide)) ?_
  split
  · exact State.runMoves_queues ..
  · exact State.setRun_queues ..

/-! ### A descriptor that starts (R218) -/

/-- The state in which a mover has taken the descriptor at the head of its queue, and not begun on it. -/
def State.descTaken (s : State) (m : Nat) (i : MovItem) (rest : List MovItem) : State :=
  (s.setMover m { s.mover m with queue := rest, pace := s.now }).on (dAlias i.desc.toNat) (·.count 0x4046 (m / 2))

theorem State.descTaken_counts (s : State) (m : Nat) (i : MovItem) (rest : List MovItem) :
    Only [.objects] (s.setMover m { s.mover m with queue := rest, pace := s.now }) (s.descTaken m i rest) :=
  State.on_only (Only.refl _ _) _ _ fun _ ht => State.count_only ht (by decide) _ _ _

theorem State.descTaken_mover (s : State) (m : Nat) (i : MovItem) (rest : List MovItem) :
    (s.descTaken m i rest).mover m = { s.mover m with queue := rest, pace := s.now } := by
  rw [mover_of_only (s.descTaken_counts m i rest) (by decide), State.mover_setMover]

theorem State.descTaken_core (s : State) (m : Nat) (i : MovItem) (rest : List MovItem) (c : Nat) :
    (s.descTaken m i rest).core c = s.core c := by
  rw [core_of_only (s.descTaken_counts m i rest) (by decide), State.setMover_core]

/-- A descriptor as its mover takes it. -/
def State.newRun (s : State) (i : MovItem) : MovRun :=
  ⟨i, [], s.descUnits i.desc.toNat, false, 0, none, false, [], [], [], []⟩

/-- The units of a descriptor depend on where the store maps lie, and on nothing that taking it changes. -/
theorem State.descTaken_units (s : State) (m : Mover) (i : MovItem) (rest : List MovItem) (w : Nat) :
    (s.descTaken m i rest).descUnits w = s.descUnits w := by
  have hobj : (s.descTaken m i rest).obj 0x4050 1 = s.obj 0x4050 1 := by
    rw [State.descTaken, State.on]
    split
    · rw [State.obj_count, if_neg (by unfold okey; omega), State.setMover_obj]
    · rw [State.setMover_obj]
  simp only [State.descUnits, State.mapAddr, hobj]

theorem exec_descriptorStart {s : State} {m : Mover} {i : MovItem} {rest : List MovItem} (hdown : s.down = false)
    (hfree : (s.mover m).run = none) (hqueue : (s.mover m).queue = i :: rest) (hcore : s.coreDown (m / 2) = false) :
    exec (.descriptorStart m) s = .next ((s.descTaken m i rest).resolve m (s.newRun i)) := by
  rw [State.newRun, ← s.descTaken_units m i rest]
  change execDescriptorStart m s = _
  rw [execDescriptorStart, act_up hdown]
  dsimp only
  rw [hfree, hqueue]
  dsimp only
  rw [if_neg (by simp [hcore])]
  simp only [State.descTaken, hfree]

/-- Where the cache holds none of its pages, a descriptor waits as it was taken. -/
theorem State.resolve_of_uncached {s : State} {m : Nat} {r : MovRun} (hfirst : r.xlat = []) (hneed : r.need ≠ [])
    (hmissing : ∀ x ∈ r.need, pageOf (s.core (m / 2)).tcache (65536 * x) = none) : s.resolve m r = s.setRun m r := by
  have hhits : s.hits (m / 2) r.need = [] := by
    simpa [State.hits, List.filterMap_eq_nil_iff] using hmissing
  have hsame : r.withPages [] = r := by
    cases r
    simp_all [MovRun.withPages, pageOf]
  obtain ⟨x, hx⟩ := List.exists_mem_of_ne_nil _ hneed
  rw [State.resolve_of_missing hx (hmissing x hx), hhits, hsame]
  rfl

/-! ### A descriptor that completes (R218, R205) -/

/-- A context with one descriptor of its mover more that has completed. -/
def CtxSt.descDone (v : CtxSt) (m : Nat) : CtxSt :=
  if m % 2 = 0 then { v with done0 := v.done0 + 1 } else { v with done1 := v.done1 + 1 }

/-- The state in which the bytes of a descriptor have landed. -/
def State.bytesLanded (s : State) (r : MovRun) : State := (s.writeBytes r.memWrites).storeBytes r.storeWrites

theorem State.bytesLanded_frame (s : State) (r : MovRun) : Only [.mem, .poison, .stores, .maps] s (s.bytesLanded r) :=
  State.storeBytes_only (State.writeBytes_only (Only.refl _ s) (by decide) _) (by decide) _

/-- The state in which a descriptor has landed and is counted, and its DONE_SEM has still to be posted. -/
def State.descLanded (s : State) (m : Nat) (r : MovRun) : State :=
  (((s.bytesLanded r).setMover m { (s.bytesLanded r).mover m with run := none, pace := (s.bytesLanded r).now }).count64
    0x4043 (m / 2)).mapCtx (m / 2) r.item.ctx (·.descDone m)

theorem State.descLanded_frame (s : State) (m : Nat) (r : MovRun) : Only [.movers, .objects, .ctxs] (s.bytesLanded r)
    (s.descLanded m r) :=
  State.mapCtx_only (State.count64_only (State.setMover_only (Only.refl _ _) (by decide) m _) (by decide) _ _ _)
    (by decide) _ _ _

theorem State.descLanded_mover (s : State) (m : Nat) (r : MovRun) :
    (s.descLanded m r).mover m = { s.mover m with run := none, pace := s.now } := by
  have hnow : (s.bytesLanded r).now = s.now := congrArg (· / 64) ((s.bytesLanded_frame r).2 .hall (by decide))
  rw [State.descLanded, State.mapCtx_mover, State.count64_mover, State.mover_setMover,
    mover_of_only (s.bytesLanded_frame r) (by decide), hnow]

theorem State.descLanded_counted (s : State) (m : Nat) (r : MovRun) :
    (s.descLanded m r).obj 0x4043 (m / 2) = (s.obj 0x4043 (m / 2) + 1) % 2 ^ 64 := by
  rw [State.descLanded, State.mapCtx_obj, State.obj_count64, if_pos rfl, State.setMover_obj,
    obj_of_only (s.bytesLanded_frame r) (by decide)]

theorem exec_descriptorComplete {s : State} {m : Mover} {r : MovRun} (hdown : s.down = false)
    (hrun : (s.mover m).run = some r) (hsound : r.fault = none) (hmoved : r.moved = true) (hretry : r.retry = false)
    (hremaining : r.remaining = 0) (hslots : r.slots = []) : exec (.descriptorComplete m) s =
      .next (((s.descLanded m r).postDone (m / 2) r.item.doneSem false).evalWaitQ (m / 2)) := by
  change execDescriptorComplete m s = _
  rw [execDescriptorComplete, act_up hdown]
  dsimp only
  rw [hrun]
  dsimp only
  rw [hsound]
  dsimp only
  have hlanded : (s.bytesLanded r).each [] State.landCoded = s.bytesLanded r := rfl
  rw [if_neg (by simp [hmoved, hretry, hremaining]), hslots, ← State.bytesLanded, hlanded]
  have hcore : (m / 2 : Mover).val = m.val / 2 := rfl
  have hin : (m % 2 = 0) ↔ (m.val % 2 = 0) := Fin.ext_iff
  simp only [State.descLanded, CtxSt.descDone, hcore, hin]

/-! ### A slot that is read again (R263) -/

theorem exec_moverCheckRetry {s : State} {m : Mover} {r : MovRun} {x : SlotWrite} (hdown : s.down = false)
    (hrun : (s.mover m).run = some r) (hretry : r.retry = true) (hlast : r.slotsLeft = 1)
    (hslot : s.slotMove (m / 2) r.item.desc.toNat r.item.key r.xlat r.slots.length = .ok x) :
    exec (.moverCheckRetry m) s = .next ((s.countSlot (dSec r.item.desc.toNat) x).setRun m
      { r with moved := true, retry := false, slots := r.slots ++ [x] }) := by
  change execMoverCheckRetry m s = _
  rw [execMoverCheckRetry, act_up hdown]
  rw [hrun]
  dsimp only
  rw [if_pos hretry, hlast, State.runSlots, hslot]
  rfl

end Sys2Proof.Machine

/-!
Movers (O32): the reset of a mover, and the statement.
-/
namespace Sys2Proof.Machine

/-! ### What a reset of a mover leaves as it has made it (R244) -/

/-- From `s` to `t` an idle mover `m` has stayed as it was, no semaphore has been mended, and no request has come up. -/
structure StaysCleared (m : Nat) (s t : State) : Prop where
  idle : (s.mover m).run = none → t.mover m = s.mover m
  broken : BreaksStay s t
  inFlight : t.fabric.inFlight ⊆ s.fabric.inFlight
  waitReq : t.fabric.waitReq ⊆ s.fabric.waitReq

namespace StaysCleared
variable {m : Nat} {s t u : State}

theorem refl (m : Nat) (s : State) : StaysCleared m s s :=
  ⟨fun _ => rfl, fun _ _ h => h, List.Subset.refl _, List.Subset.refl _⟩

theorem trans (h : StaysCleared m s t) (k : StaysCleared m t u) : StaysCleared m s u where
  idle hs := (k.idle (by rwa [h.idle hs])).trans (h.idle hs)
  broken := h.broken.trans k.broken
  inFlight := List.Subset.trans k.inFlight h.inFlight
  waitReq := List.Subset.trans k.waitReq h.waitReq

theorem of_only {ps : List Part} (h : Only ps s t) (hmovers : Part.movers ∉ ps) (hfabric : Part.fabric ∉ ps)
    (hbroken : BreaksStay s t) : StaysCleared m s t where
  idle _ := mover_of_only h hmovers m
  broken := hbroken
  inFlight := by rw [h.2 .fabric hfabric]; exact List.Subset.refl _
  waitReq := by rw [h.2 .fabric hfabric]; exact List.Subset.refl _

theorem each {α : Type} {xs : List α} {f : State → α → State} (hf : ∀ t x, StaysCleared m t (f t x)) :
    StaysCleared m s (s.each xs f) :=
  each_ind (P := StaysCleared m s) (.refl m s) fun t x _ ht => ht.trans (hf t x)

end StaysCleared

/-- A request that ends in error changes a mover that has a descriptor under way, and no other. -/
theorem State.failIssuer_idle {s : State} {m : Nat} (r : Request) (hidle : (s.mover m).run = none) :
    (s.failIssuer r).mover m = s.mover m := by
  unfold State.failIssuer
  split
  next k _ _ _ =>
    by_cases hk : m = k
    · subst hk
      rw [State.mover_setMover, hidle, Option.map_none, ← hidle]
    · exact State.mover_setMover_other _ _ hk
  next => rfl

/-- Requests that end in error leave an idle mover as it is. -/
theorem State.failIssuers_idle {s : State} {m : Nat} {v : MoverSt} (rs : List Request) (hmover : s.mover m = v)
    (hidle : v.run = none) : (s.each rs fun s r => s.failIssuer r).mover m = v :=
  each_ind (P := fun t => t.mover m = v) hmover fun t r _ ht => (t.failIssuer_idle r (by rwa [ht])).trans ht

theorem State.emptied_mover (s : State) (c : Nat) (f : Flow) (m : Nat) : (s.emptied c f).mover m = s.mover m := by
  rw [State.emptied, State.setObj_mover, State.setFlow_mover]
  unfold State.setPool
  rfl

theorem State.endFlow_idle {s : State} {m : Nat} {c : Nat} {f : Flow} {note : State → State}
    (hnote : ∀ u, (note u).mover m = u.mover m) (hidle : (s.mover m).run = none) :
    (s.endFlow c f note).mover m = s.mover m :=
  State.failIssuers_idle _ ((hnote _).trans (s.emptied_mover c f m)) hidle

theorem State.breakFlow_staysCleared (s : State) (m c err : Nat) (tell : Bool) : StaysCleared m s (s.breakFlow c err tell) := by
  by_cases hopen : (s.flow c).state = .opened
  · have hends := State.breakFlow_ends err tell hopen
    refine ⟨fun hidle => ?_, .of_only (s.breakFlow_frame c err tell) (by decide), ?_, ?_⟩
    · rw [State.breakFlow, if_neg (by simp [hopen])]
      refine Eq.trans (mover_of_only (State.on_only (Only.refl [.out, .links, .fabric, .objects, .ring] _) _ _
        fun t ht => State.sendBreak_only ht (by decide) _ _) (by decide) m) (State.endFlow_idle (fun u => ?_) hidle)
      rw [State.log_mover, State.count_mover]
    · rw [hends.inFlight]
      exact List.filter_subset_self _
    · rw [hends.waitReq]
      exact List.filter_subset_self _
  · rw [State.breakFlow_of_not_opened err tell hopen]
    exact .refl m s

theorem State.breakSem_staysCleared (s : State) (m c n : Nat) : StaysCleared m s (s.breakSem c n) :=
  .of_only (State.breakSem_only (parts := [.out, .hold, .links, .ctxs, .sems, .objects, .ring, .msix, .alert])
    (Only.refl _ s) (by decide) c n) (by decide) (by decide) (s.breakSem_breaksStay c n)

theorem State.breakDone_staysCleared (s : State) (m c n : Nat) : StaysCleared m s (s.breakDone c n) := by
  unfold State.breakDone
  split
  · exact s.breakSem_staysCleared m c n
  · exact .refl m s

theorem State.releaseHolds_staysCleared (s : State) (m dom : Nat) : StaysCleared m s (s.releaseHolds dom) :=
  StaysCleared.trans (.each fun t _ => t.breakSem_staysCleared m _ _) (.each fun t c => t.breakFlow_staysCleared m c 5 true)

/-- Items that break their DONE_SEMs have each broken its own. -/
theorem State.breakDones_broken (s : State) (c : Nat) (items : List MovItem) : ∀ i ∈ items, i.doneSem < 64 →
    ((s.each items fun s i => s.breakDone c i.doneSem).sem c i.doneSem).broken = true := by
  induction items generalizing s with
  | nil => exact fun _ hi => absurd hi List.not_mem_nil
  | cons j js ih =>
    intro i hi hsem
    change (((s.breakDone c j.doneSem).each js _).sem c i.doneSem).broken = true
    rcases List.mem_cons.mp hi with rfl | hlater
    · refine BreaksStay.of_each (fun t (k : MovItem) => (t.breakDone_staysCleared 0 c k.doneSem).broken) c _ ?_
      rw [State.breakDone, if_pos hsem]
      exact s.breakSem_broken c _
    · exact ih _ i hlater hsem

/-! ### MOVER_RESET (R244) -/

/-- What a mover holds: the descriptor under way, and those of its queue. -/
def MoverSt.items (v : MoverSt) : List MovItem := (match v.run with | some r => [r.item] | none => []) ++ v.queue

/-- The state in which the descriptor of a mover, if it has one under way, has ended early. -/
def State.moverStopped (s : State) (m : Nat) : State :=
  match (s.mover m).run with
  | some r => s.partialWrites r
  | none => s

theorem State.moverStopped_now (s : State) (m : Nat) : (s.moverStopped m).now = s.now := by
  unfold State.moverStopped
  split
  · exact congrArg (· / 64) ((State.partialWrites_only (parts := [.drawn, .mem, .poison, .stores, .maps])
      (Only.refl _ s) (by decide) _).2 .hall (by decide))
  · rfl

/-- The state in which a mover has given up what it held, and nobody has been told. -/
def State.moverCleared (s : State) (m : Nat) : State :=
  ((s.moverStopped m).setMover m { MoverSt.reset with pace := (s.moverStopped m).now }).releaseClaims m

/-- The state in which everything that a mover held has broken its DONE_SEM, and the holds of its domain are released. -/
def State.moverReleased (s : State) (m : Nat) : State :=
  ((s.moverCleared m).each (s.mover m).items fun s i => s.breakDone (m / 2) i.doneSem).releaseHolds (domMover m)

theorem State.moverReleased_staysCleared (s : State) (m : Nat) : StaysCleared m (s.moverCleared m) (s.moverReleased m) :=
  StaysCleared.trans (.each fun t _ => t.breakDone_staysCleared m _ _) (State.releaseHolds_staysCleared _ m _)

/-- The record of a mover's reset (R244). -/
def MoverSt.resetItems (v : MoverSt) (m : Nat) : List (Nat × Nat) :=
  [(8, m / 2), (1, m % 2), (3, (v.items.head?.map (·.ctx)).getD 0), (8, 0x16), (32, v.items.length)]

theorem State.moverReset_eq (s : State) (m : Nat) : s.moverReset m =
    ((s.moverReleased m).log 0x4045 (domMover m) ((s.mover m).resetItems m)).evalWaitQ (m / 2) := rfl

theorem exec_moverReset {s : State} {m : Mover} (hdown : s.down = false) : exec (.moverReset m) s =
    .next ((s.moverReset m).log 0x9002 (domMover m) [(16, domMover m), (8, 0)]) := by
  change execMoverReset m s = _
  rw [execMoverReset, act_up hdown]

theorem State.moverCleared_mover (s : State) (m : Nat) :
    (s.moverCleared m).mover m = { MoverSt.reset with pace := s.now } := by
  rw [State.moverCleared, State.moverStopped_now, mover_of_only (State.releaseClaims_only (parts := [.fabric]) (Only.refl _ _) (by decide) m) (by decide),
    State.mover_setMover]

theorem State.releaseClaims_inFlight (s : State) (m : Nat) :
    ∀ r ∈ (s.releaseClaims m).fabric.inFlight, ∀ a b, r.issuer ≠ .mover m a b := by
  intro r hr a b
  obtain ⟨q, -, rfl⟩ := List.mem_map.mp hr
  split
  next hissuer =>
    split
    · simp
    next hk => simp [hissuer, hk]
  next hother => exact hother m a b

theorem State.releaseClaims_waitReq (s : State) (m : Nat) :
    ∀ r ∈ (s.releaseClaims m).fabric.waitReq, ∀ a b, r.issuer ≠ .mover m a b := by
  intro r hr a b hissuer
  have hkept := (List.mem_filter.mp hr).2
  simp [hissuer] at hkept

/-- Once the holds of a mover are released, only the log is written, and waiters on the queues go on. -/
theorem State.moverReset_frame (s : State) (m : Nat) (items : List (Nat × Nat)) :
    Only [.objects, .ring, .ctxs] (s.moverReleased m) ((s.moverReset m).log 0x9002 (domMover m) items) := by
  rw [State.moverReset_eq]
  exact State.log_only (State.evalWaitQ_only (State.log_only (Only.refl _ _) (by decide) _ _ _) (by decide) _)
    (by decide) _ _ _

theorem State.moverReset_staysCleared (s : State) (m : Nat) (items : List (Nat × Nat)) :
    StaysCleared m (s.moverCleared m) ((s.moverReset m).log 0x9002 (domMover m) items) :=
  have htold := s.moverReset_frame m items
  (s.moverReleased_staysCleared m).trans (.of_only htold (by decide) (by decide) (.of_only htold (by decide)))

theorem State.moverReset_broken (s : State) (m : Nat) (items : List (Nat × Nat)) :
    ∀ i ∈ (s.mover m).items, i.doneSem < 64 →
      (((s.moverReset m).log 0x9002 (domMover m) items).sem (m / 2) i.doneSem).broken = true := by
  intro i hi hsem
  rw [sem_of_only (s.moverReset_frame m items) (by decide)]
  exact (State.releaseHolds_staysCleared _ m _).broken _ _ (State.breakDones_broken _ _ _ i hi hsem)

/-- Where a mover holds nothing, and no semaphore and no flow context is there to break, only the reset is logged. -/
theorem State.moverReset_logged {s : State} {m : Nat} (hitems : (s.mover m).items = []) (hsems : s.sems = [])
    (hflows : s.fabric.flows = []) (items : List (Nat × Nat)) :
    Logged s ((s.moverReset m).log 0x9002 (domMover m) items) [0x9002, 0x4045] := by
  have hrun : (s.mover m).run = none := by
    rw [MoverSt.items] at hitems
    split at hitems
    · simp at hitems
    next h => exact h
  have hcleared : s.moverCleared m = (s.setMover m { MoverSt.reset with pace := s.now }).releaseClaims m := by
    rw [State.moverCleared, State.moverStopped, hrun]
  have hreleased : s.moverReleased m = s.moverCleared m := by
    have hsems' : (s.moverCleared m).sems = [] := by rw [hcleared]; exact hsems
    have hflows' : (s.moverCleared m).fabric.flows = [] := by rw [hcleared]; exact hflows
    rw [State.moverReleased, hitems]
    change ((s.moverCleared m).breakProducer _).breakOwned _ = _
    have hproducer : (s.moverCleared m).breakProducer (domMover m) = s.moverCleared m := by
      rw [State.breakProducer, hsems']
      rfl
    rw [hproducer, State.breakOwned, hflows']
    rfl
  have hring : (s.moverCleared m).faults.ring = s.faults.ring := by rw [hcleared]; rfl
  rw [State.moverReset_eq, hreleased]
  exact ((logged1 hring.symm _ _ _ (by decide)).only (State.evalWaitQ_frame _ _) (by decide)).log _ _ _ (by decide)

/-! ### MOV.X and QUEUE_ADMIT enter (R184, R199) -/

/-- The state in which the descriptor of a context has entered the queue of its mover. -/
def State.movTook (u : State) (c x : Nat) (out : Bool) (i : MovItem) : State :=
  (u.queueMov c x out i).tookPlace c x (if out then 5 else 4)

theorem State.movTook_ctx {s u : State} (hnow : u.now = s.now) (c x : Nat) (out : Bool) (i : MovItem) :
    (u.movTook c x out i).ctx c x = s.retired ((u.ctx c x).movCounted out) := by
  rw [State.movTook, State.tookPlace_ctx ((u.queueMov_now c x out i).trans hnow), State.queueMov_ctx]

theorem State.movTook_onlyCtx (u : State) (c : Core) (x : Ctx) (out : Bool) (i : MovItem) :
    OnlyCtx u (u.movTook c x out i) c x := fun d y hne =>
  (State.tookPlace_onlyCtx _ c x _ d y hne).trans (u.queueMov_onlyCtx c x out i d y hne)

theorem State.movTook_queue (u : State) (c x : Nat) (out : Bool) (i : MovItem) :
    ((u.movTook c x out i).mover (2 * c + (if out then 1 else 0))).queue =
      (u.mover (2 * c + (if out then 1 else 0))).queue ++ [i] := by
  rw [State.movTook, mover_of_only (State.tookPlace_frame _ c x _) (by decide), State.queueMov_queue]

section
variable {s : State} {core : Core} {ctx : Ctx} {w : Nat} (hdown : s.down = false)
  (hissues : s.Issues core ctx 0x40 w) (henc : unassigned w [(111, 86)] = false)
  (hsem : fld w 93 86 < 64 ∨ fld w 93 86 = 0xFF) (haligned : s.movAddr core ctx w % 64 = 0)
  (hfits : s.movAddr core ctx w + 128 ≤ storeSize 3) (hskip : (s.ctx core ctx).skipMovs = 0)
  (hcheck : s.descCheck (s.ctx core ctx).stageKey (s.storeNat core 3 (s.movAddr core ctx w) 128) = none)

/-- The queue that a MOV.X contends for is not that of the issue turns (R101). -/
theorem State.issued_winsMov (s : State) (c x : Nat) (out : Bool) (xs : List Nat) (y : Nat) :
    (s.issued c x).winsPlace c (if out then 5 else 4) xs y = s.winsPlace c (if out then 5 else 4) xs y :=
  s.issued_winsPlace c x (by split <;> decide) xs y

include hdown hissues henc hsem haligned hfits hskip hcheck

theorem exec_movX_enters (henters : (s.movRoom (2 * core.val + (if bitAt w 111 then 1 else 0)) &&
      s.winsPlace core (if bitAt w 111 then 5 else 4) (insertAsc ctx (s.movContenders core (bitAt w 111))) ctx) = true) :
    exec (.movX core ctx) s = .next ((s.issued core ctx).movTook core ctx (bitAt w 111) (s.movItem core ctx w)) := by
  rw [exec_movX hdown hissues henc hsem haligned hfits hskip hcheck,
    State.enterQueue_enters _ _ (by rwa [State.issued_winsMov])]
  rfl

theorem exec_movX_waits (hwaits : (s.movRoom (2 * core.val + (if bitAt w 111 then 1 else 0)) &&
      s.winsPlace core (if bitAt w 111 then 5 else 4) (insertAsc ctx (s.movContenders core (bitAt w 111))) ctx) = false) :
    exec (.movX core ctx) s = .next (s.stalled core ctx (.mov (bitAt w 111) (s.movItem core ctx w))) := by
  rw [exec_movX hdown hissues henc hsem haligned hfits hskip hcheck,
    State.enterQueue_waits _ _ (by rwa [State.issued_winsMov]), State.stalled]

end

theorem State.stalled_movers (s : State) (c x : Nat) (w : Wait) : (s.stalled c x w).movers = s.movers := rfl

theorem State.groupTook_ctx (s : State) (c x i : Nat) (r : PassRec) :
    ((s.countStalls.joinGroup c x i r).tookPlace c x 2).ctx c x = s.retired (s.ctx c x) :=
  (State.tookPlace_ctx (congrArg (· / 64) (s.countStalls_frame.2 .hall (by decide))) c x 2).trans
    (s.retired_countStalls s c x)

theorem State.groupTook_holds (s : State) (c x i : Nat) (r : PassRec) : ∃ g,
    Tbl.get none (((s.countStalls.joinGroup c x i r).tookPlace c x 2).core c).groups i = some g ∧
      g.Holds (Tbl.get none (s.core c).groups i) ⟨x, r⟩ s.countStalls.sched := by
  obtain ⟨g, hg, hholds⟩ := s.countStalls.joinGroup_holds c x i r
  rw [State.countStalls_core] at hholds
  exact ⟨g, by rw [State.tookPlace_core]; exact hg, hholds⟩

/-! ### A descriptor that has landed (R218) -/

/-- The state after a descriptor that completes. -/
def State.descCompleted (s : State) (m : Nat) (r : MovRun) : State :=
  ((s.descLanded m r).postDone (m / 2) r.item.doneSem false).evalWaitQ (m / 2)

/-- What the post of a DONE_SEM changes of the machine. -/
def postParts : List Part := [.out, .hold, .links, .cores, .ctxs, .sems, .dies, .objects, .ring, .msix, .supply, .alert]

theorem State.descCompleted_frame (s : State) (m : Nat) (r : MovRun) :
    Only postParts (s.descLanded m r) (s.descCompleted m r) :=
  State.evalWaitQ_only (State.postDone_only (Only.refl _ _) (by decide) _ _ _) (by decide) _

theorem State.descCompleted_mem (s : State) (m : Nat) (r : MovRun) :
    (s.descCompleted m r).mem = r.memWrites.foldl (fun t x => Tbl.set 0 t x.1 x.2) s.mem := by
  rw [(s.descCompleted_frame m r).2 .mem (by decide), (s.descLanded_frame m r).2 .mem (by decide)]
  rfl

theorem State.descCompleted_stores (s : State) (m : Nat) (r : MovRun) :
    (s.descCompleted m r).stores = r.storeWrites.foldl (fun t x => Tbl.set 0 t x.1 x.2) s.stores := by
  rw [(s.descCompleted_frame m r).2 .stores (by decide), (s.descLanded_frame m r).2 .stores (by decide)]
  rfl

/-! ### The statement -/

/-- Settles O32: each item enters its queue last and its context retires, or its context waits; a mover that is reset is
left as `State.moverCleared` has made it, since what follows touches no idle mover, mends no semaphore and raises no
request (`StaysCleared`). -/
theorem movers : Obligations.Movers := by
  unfold Obligations.Movers
  intro s core ctx w hdown
  dsimp only
  refine ⟨fun hissues henc hsem haligned hfits => ⟨fun hskip => ?suppressed, fun hskip hcheck =>
      ⟨fun henters => ?enters, fun hwaits => ?waits⟩⟩,
    fun hawake => ⟨fun p hwait hroom hwins => ?pass, fun p since i hwait hslot hwins => ?gather,
      fun v hwait hroom hwins => ?vec, fun o i hwait hroom hwins => ?mov⟩,
    fun n => ⟨fun i is hfree hqueue hcore => ?start, fun r hrun hsound hmoved hretry hremaining hslots => ?complete,
      fun r x hrun hretry hlast hslot => ?retry, ?reset⟩⟩
  case suppressed =>
    exact ⟨_, exec_movX_suppressed hdown hissues henc hsem haligned hfits hskip, s.movSuppressed_onlyCtx core ctx,
      s.movSuppressed_movers core ctx, s.movSuppressed_ctx core ctx⟩
  case enters =>
    exact ⟨_, exec_movX_enters hdown hissues henc hsem haligned hfits hskip hcheck henters,
      State.movTook_onlyCtx (s.issued core ctx) core ctx _ _, State.movTook_ctx (s.issued_now core ctx) core ctx _ _,
      State.movTook_queue (s.issued core ctx) core ctx _ _⟩
  case waits =>
    exact ⟨_, exec_movX_waits hdown hissues henc hsem haligned hfits hskip hcheck hwaits,
      s.stalled_onlyCtx core ctx _, s.stalled_ctx core ctx _, s.stalled_movers core ctx _⟩
  case pass =>
    exact ⟨_, exec_queueAdmit_pass hdown hawake hwait hroom hwins,
      State.tookPlace_ctx (State.mapCore_now ..) core ctx 1,
      by rw [State.tookPlace_core, State.queuePass, core_mapCore]⟩
  case gather =>
    obtain ⟨g, hg, hholds⟩ := s.groupTook_holds core ctx i p
    refine ⟨_, g, exec_queueAdmit_gather hdown hawake hwait hslot hwins, s.groupTook_ctx core ctx i p, hg, ?_⟩
    cases hgroup : Tbl.get none (s.core core).groups i with
    | none =>
      rw [hgroup] at hholds
      exact hholds.1
    | some old =>
      rw [hgroup] at hholds
      exact hholds.1
  case vec =>
    exact ⟨_, exec_queueAdmit_vec hdown hawake hwait hroom hwins,
      State.tookPlace_ctx (State.mapCore_now ..) core ctx 3,
      by rw [State.tookPlace_core, State.queueVec, core_mapCore]⟩
  case mov =>
    exact ⟨_, exec_queueAdmit_mov hdown hawake hwait hroom hwins, State.movTook_ctx rfl core ctx o i,
      s.movTook_queue core ctx o i⟩
  case start =>
    refine ⟨_, s.descTaken n i is, exec_descriptorStart hdown hfree hqueue hcore, rfl, s.descTaken_mover n i is, ?_,
      fun hmissing hneed => ?_⟩
    · rw [(State.resolve_queues ..).queue, State.descTaken_mover]
    · rw [State.resolve_of_uncached rfl hneed (fun x hx => by rw [State.descTaken_core]; exact hmissing x hx)]
      exact congrArg MoverSt.run (State.mover_setMover ..)
  case complete =>
    exact ⟨s.descCompleted n r, s.descLanded n r, exec_descriptorComplete hdown hrun hsound hmoved hretry hremaining hslots,
      rfl, (s.descLanded_frame n r).2 .sems (by decide), s.descLanded_counted n r,
      (mover_of_only (s.descCompleted_frame n r) (by decide) n).trans (s.descLanded_mover n r),
      s.descCompleted_mem n r, s.descCompleted_stores n r⟩
  case retry =>
    exact ⟨_, exec_moverCheckRetry hdown hrun hretry hlast hslot, congrArg MoverSt.run (State.mover_setMover ..)⟩
  case reset =>
    have hstays := s.moverReset_staysCleared n [(16, domMover n), (8, 0)]
    have hcleared := s.moverCleared_mover n
    exact ⟨_, exec_moverReset hdown, (hstays.idle (by rw [hcleared]; rfl)).trans hcleared,
      s.moverReset_broken n _, fun r hr => State.releaseClaims_waitReq _ n r (hstays.waitReq hr),
      fun r hr => State.releaseClaims_inFlight _ n r (hstays.inFlight hr),
      fun hitems hsems hflows => State.moverReset_logged hitems hsems hflows _⟩

end Sys2Proof.Machine

/-!
A commit whose sweep faults a context (O37). Where an engine cannot read a block, its domain is reset (R273), the reset
breaks the semaphores that the engine produces for (R419), and each context that waits on one of them faults (R202) and
is counted under its core, in 0x4032 (R210). For the 192 cores these are the objects 0x4032.00 to 0x4032.BF; for core
0x3FD107 it would be 0x8003.07, LAST_NORM. There is no such core, but the statement speaks of every `State`, and a
`State` can list its contexts and semaphores.
-/
namespace Sys2Proof.Machine

/-! ### The fault of a context that waits on a domain (R202, R210, R419) -/

/-- The core whose faults are counted where LAST_NORM is. -/
def strayCore : Nat := 0x3FD107

theorem okey_strayCore : okey 0x4032 strayCore = okey 0x8003 7 := by decide

theorem State.obj_strayCore (s : State) : s.obj 0x4032 strayCore = s.obj 0x8003 7 := by
  rw [State.obj, okey_strayCore, State.obj]

theorem State.log_norm (s : State) (ev dom : Nat) (items : List (Nat × Nat)) :
    (s.log ev dom items).obj 0x8003 7 = s.obj 0x8003 7 :=
  State.log_obj _ _ _ (by decide) (by decide)

theorem State.ctxFault_strayCore (s : State) (x cause : Nat) :
    (s.ctxFault strayCore x cause).obj 0x8003 7 = (s.obj 0x8003 7 + 1) % 2 ^ 32 := by
  have hfaults : okey 0x8003 7 ≠ okey 0x9005 0x0F := by decide
  unfold State.ctxFault State.on
  dsimp only
  split <;>
    simp only [State.jobFail_obj _ (show okey 0x8003 7 ∉ _ by decide), State.faultCount, State.obj_count, if_neg hfaults,
      State.ctxStops_obj, State.log_norm, okey_strayCore, if_true, State.setCtx_obj, State.obj_strayCore]

/-- The one semaphore that `s` lists is semaphore 0 of core `c`, `dom` produces for it, context `x` alone waits on it, and
no flow context is listed: `dom` owns nothing else. -/
structure State.HoldsOnly (s : State) (dom c x : Nat) : Prop where
  sems : ∃ v : SemSt, s.sems = [(64 * c, v)] ∧ v.producer.toNat = dom
  waits : ∃ k since, s.semWaiters c 0 = [(x, k)] ∧ (s.ctx c x).wait = .sem 0 k since
  flows : s.fabric.flows = []

theorem State.HoldsOnly.of_only {s t : State} {dom c x : Nat} {ps : List Part} (h : s.HoldsOnly dom c x) (k : Only ps s t)
    (hp : ∀ p ∈ [Part.sems, .ctxs, .fabric], p ∉ ps) : t.HoldsOnly dom c x := by
  have hctxs := hp .ctxs (by decide)
  obtain ⟨hsems, hwaits, hflows⟩ := h
  refine ⟨?_, ?_, ?_⟩
  · rwa [k.2 .sems (hp _ (by decide))]
  · rwa [semWaiters_of_only k hctxs, ctx_of_only k hctxs]
  · rwa [k.2 .fabric (hp _ (by decide))]

/-- Releasing the one hold ends the one wait. -/
theorem State.HoldsOnly.releaseHolds {s : State} {dom c x : Nat} (h : s.HoldsOnly dom c x) (hdom : dom ≠ 0)
    (hwithin : domWithin dom dom = true) :
    s.releaseHolds dom = (s.setSem c 0 { s.sem c 0 with broken := true }).brokenWait c x := by
  obtain ⟨⟨v, hsems, hproducer⟩, ⟨k, since, hwaiters, hwait⟩, hflows⟩ := h
  have hbroken : s.breakProducer dom = (s.setSem c 0 { s.sem c 0 with broken := true }).brokenWait c x := by
    rw [State.breakProducer_single hsems (by rwa [hproducer]) (by rwa [hproducer]), Nat.mul_div_cancel_left c (by decide),
      Nat.mul_mod_right, State.breakSem_of_waiter hwaiters hwait]
  have hflows' : ((s.setSem c 0 { s.sem c 0 with broken := true }).brokenWait c x).fabric.flows = [] := by
    rw [(State.brokenWait_frame ..).2 .fabric (by decide)]
    exact hflows
  rw [State.releaseHolds, hbroken, State.breakOwned, hflows']
  rfl

/-! ### The reset of an engine (R273, R434) -/

/-- An engine's domain that is reset while its count of resets allows: what it holds is then released (R419). -/
def State.engineCleared (s : State) (n : Nat) : State :=
  (s.setFaults fun f => { f with resets := s.now :: f.resets }).setEngineSt n
    { s.engineSt n with tcache := [], stopped := true, pace := s.now }

theorem State.engineReset_eq {s : State} {n : Nat} (cause : Nat) (hroom : s.resetsInWindow + 1 < s.obj 0x9002 1) :
    s.engineReset n cause =
      ((s.engineCleared n).releaseHolds (domEngine n)).log 0x9002 (domEngine n) [(16, domEngine n), (8, cause)] := by
  rw [State.engineReset, State.countedReset, if_pos hroom]
  rfl

theorem State.engineCleared_frame (s : State) (n : Nat) : Only [.train, .faults] s (s.engineCleared n) :=
  State.setEngineSt_only (parts := [.train, .faults])
    (State.setFaults_only' (Only.refl _ s) (by decide) (fun f => { f with resets := s.now :: f.resets }) fun _ => rfl)
    (by decide) n _

/-- The reset of an engine leaves the group table as it was. -/
theorem State.engineReset_groups {s : State} {n : Nat} (cause : Nat) (hroom : s.resetsInWindow + 1 < s.obj 0x9002 1) :
    (s.engineReset n cause).train.groups = s.train.groups := by
  rw [State.engineReset_eq cause hroom, State.log_train,
    (State.releaseHolds_only (Only.refl _ (s.engineCleared n)) (List.Subset.refl _) (domEngine n)).2 .train (by decide)]
  rfl

/-- The reset of an engine on which a context of `strayCore` waits. -/
theorem State.HoldsOnly.engineReset_norm {s : State} {n x : Nat} (h : s.HoldsOnly (domEngine n) strayCore x) (cause : Nat)
    (hn : n < 32) (hroom : s.resetsInWindow + 1 < s.obj 0x9002 1) :
    (s.engineReset n cause).obj 0x8003 7 = (s.obj 0x8003 7 + 1) % 2 ^ 32 := by
  have hcleared := h.of_only (s.engineCleared_frame n) (by decide)
  rw [State.engineReset_eq cause hroom, State.log_norm,
    hcleared.releaseHolds (by unfold domEngine; omega) (by simp [domWithin]), State.brokenWait,
    State.ctxFault_strayCore, State.log_norm, State.setSem_obj, obj_of_only (s.engineCleared_frame n) (by decide)]

/-! ### An engine's sweep (R288) -/

/-- The state in which an engine takes up its sweep. -/
def State.sweepBegun (s : State) (n : Nat) : State :=
  (s.setEngineSt n { s.engineSt n with stopped := false, pace := s.now }).openStream s.sweepOf n

theorem State.sweepEngine_eq (s : State) (n : Nat) : s.sweepEngine n =
    ((((List.range (engineList s.train.groups n).length).zip (engineList s.train.groups n)).drop
      (if (s.cursor n).1 = s.sweepOf.step then (s.cursor n).2 else 0)).foldl
        (fun (e : Eff) x => e.andThen fun s' => s'.sweepBlk s.sweepOf x.1 x.2) (s.sweepBegun n).ok).1 := rfl

theorem State.sweepBegun_frame (s : State) (n : Nat) : Only [.train, .poison, .rope] s (s.sweepBegun n) :=
  State.openStream_only (State.setEngineSt_only (Only.refl _ s) (by decide) n _) (by decide) _ n

theorem State.sweepBegun_groups (s : State) (n : Nat) : (s.sweepBegun n).train.groups = s.train.groups := by
  rw [State.sweepBegun, (State.openStream_only (Only.refl _ _) (List.Subset.refl _) s.sweepOf n).2 .train (by decide)]
  rfl

/-- An engine without blocks only takes up its sweep. -/
theorem State.sweepEngine_idle {s : State} {n : Nat} (h : engineList s.train.groups n = []) :
    s.sweepEngine n = s.sweepBegun n := by
  rw [State.sweepEngine_eq, h]
  simp [State.ok]

/-- Filling an engine's cache leaves the group table as it was. -/
theorem State.enginePages_groups (s : State) (n : Nat) (us : List Nat) :
    (s.enginePages n us).1.train.groups = s.train.groups := by
  unfold State.enginePages
  refine List.foldlRecOn us _ (motive := fun acc : State × List TcEntry => acc.1.train.groups = s.train.groups) rfl ?_
  intro acc hacc u _
  dsimp only
  split
  · exact hacc
  · split
    · exact hacc
    · split
      · exact hacc
      · exact hacc

/-- The state in which an engine has the pages for a block, and the pages. -/
def State.sweepPages (s : State) (sw : Sweep) (k : Blk) : State × List TcEntry :=
  s.enginePages k.engine (s.sweepUnits sw k)

theorem State.sweepPages_frame (s : State) (sw : Sweep) (k : Blk) : Only [.train] s (s.sweepPages sw k).1 :=
  State.enginePages_only (Only.refl _ s) (by decide) ..

/-- What the engine reads of a block's tag entry. -/
def State.sweepTag (s : State) (sw : Sweep) (k : Blk) : Except Nat (List Byte) :=
  (s.sweepPages sw k).1.eRead (s.sweepPages sw k).2 ((s.sweepPages sw k).1.tagAt k.b) 16

/-- A block whose tag entry cannot be read, but for a memory error, resets its engine. -/
theorem State.sweepBlk_unreadable {s : State} {sw : Sweep} {k : Blk} {cause : Nat} (i : Nat) (hcause : cause ≠ 0x13)
    (hread : s.sweepTag sw k = .error cause) :
    s.sweepBlk sw i k = ((s.sweepPages sw k).1.engineReset k.engine cause, some cause) := by
  unfold State.sweepBlk
  dsimp only
  rw [← State.sweepPages, show State.eRead _ _ _ _ = _ from hread]
  simp [Eff.settle, Eff.andThen]

/-- The sweep of an engine whose one block cannot be read, and on which a context of `strayCore` waits. -/
theorem State.HoldsOnly.sweepEngine_unreadable {s : State} {n x cause : Nat} {k : Blk}
    (h : s.HoldsOnly (domEngine n) strayCore x) (hn : n < 32) (hlist : engineList s.train.groups n = [k])
    (hengine : k.engine = n) (hstart : s.cursor n = (0, 0)) (hroom : s.resetsInWindow + 1 < s.obj 0x9002 1)
    (hcause : cause ≠ 0x13) (hread : (s.sweepBegun n).sweepTag s.sweepOf k = .error cause) :
    (s.sweepEngine n).train.groups = s.train.groups ∧
      (s.sweepEngine n).obj 0x8003 7 = (s.obj 0x8003 7 + 1) % 2 ^ 32 := by
  obtain ⟨u, hu⟩ : ∃ u, ((s.sweepBegun n).sweepPages s.sweepOf k).1 = u := ⟨_, rfl⟩
  have hframe : Only [.train, .poison, .rope] s u :=
    hu ▸ (s.sweepBegun_frame n).then ((s.sweepBegun n).sweepPages_frame s.sweepOf k) (by decide)
  have hgroups : u.train.groups = s.train.groups :=
    hu ▸ ((s.sweepBegun n).enginePages_groups ..).trans (s.sweepBegun_groups n)
  have hnow : u.now = s.now := congrArg (· / 64) (hframe.2 .hall (by decide))
  have hroom' : u.resetsInWindow + 1 < u.obj 0x9002 1 := by
    rwa [State.resetsInWindow, faults_of_only hframe (by decide) (by decide), hnow, obj_of_only hframe (by decide),
      obj_of_only hframe (by decide)]
  have hsweep : s.sweepEngine n = u.engineReset n cause := by
    rw [State.sweepEngine_eq, hlist, hstart]
    simp [State.ok, Eff.andThen, State.sweepBlk_unreadable 0 hcause hread, hu, hengine]
  rw [hsweep, State.engineReset_groups cause hroom', (h.of_only hframe (by decide)).engineReset_norm cause hn hroom',
    obj_of_only hframe (by decide)]
  exact ⟨hgroups, rfl⟩

/-- The sweep of an engine without blocks changes neither the group table nor the norm. -/
theorem State.sweepEngine_idle_keeps {s : State} {n : Nat} (h : engineList s.train.groups n = []) :
    (s.sweepEngine n).train.groups = s.train.groups ∧ (s.sweepEngine n).obj 0x8003 7 = s.obj 0x8003 7 := by
  rw [State.sweepEngine_idle h]
  exact ⟨s.sweepBegun_groups n, obj_of_only (s.sweepBegun_frame n) (by decide) ..⟩

/-- Nor do the sweeps of several. -/
theorem State.each_sweepEngine_idle {s : State} {ns : List Nat} (h : ∀ n ∈ ns, engineList s.train.groups n = []) :
    (s.each ns State.sweepEngine).obj 0x8003 7 = s.obj 0x8003 7 := by
  refine (each_ind (P := fun t => t.train.groups = s.train.groups ∧ t.obj 0x8003 7 = s.obj 0x8003 7) ⟨rfl, rfl⟩ ?_).2
  intro t n hn ⟨hgroups, hnorm⟩
  obtain ⟨hgroups', hnorm'⟩ := State.sweepEngine_idle_keeps (s := t) (n := n) (by rw [hgroups]; exact h n hn)
  exact ⟨hgroups'.trans hgroups, hnorm'.trans hnorm⟩

/-! ### The commit whose norm does not stay -/

/-- A group of one block, for ADAMW in region 0. -/
def strayGroup : Nat := 2 * 2 ^ 508 + 2 ^ 504 + 2 ^ 419

def strayBlock : Blk := ⟨strayGroup, 0, 0⟩

/-- Engine 0 serves the block, and no other engine has one (R273). -/
theorem engineList_strayGroup : engineList [strayGroup] 0 = [strayBlock] ∧
    ∀ n ∈ List.range' 1 31, engineList [strayGroup] n = [] := by
  decide +kernel

theorem strayBlock_engine : strayBlock.engine = 0 := by decide +kernel

/-- A job trains `strayGroup`. Its step record lies in the one granted unit of memory, its tag table does not; and
context 0 of `strayCore` waits on a semaphore for which engine 0 produces. -/
def strayTraining : State :=
  let s := { State.reset with
    boot := { Boot.reset with stage := 4 }
    job := { Job.reset with loaded := true }
    tt := { Timetable.reset with active := some 0 }
    train := { Train.reset with groups := [strayGroup] }
    regions := [(0, 0x2#4 ++ 7#3 ++ 1#8 ++ 0#113)]
    sems := [(64 * strayCore, { SemSt.reset with producer := 0x3000 })]
    ctxs := [(8 * strayCore, { CtxSt.reset with status := .waiting, wait := .sem 0 1 0 })] }
  let s := (s.write 0x1000 (leBytes 8 (2 ^ 62 + 0x2000))).write 0x2000 (leBytes 8 (2 * 2 ^ 62 + 3 * 2 ^ 60))
  let s := s.write 0x3000 (leBytes 64 (2 * 2 ^ 508))
  (((s.setObj 0x4040 1 0x1000).setObj 0x8000 3 1).setObj 0x8000 4 0x3000).setObj 0x8000 7 0x10000

/-- A commit is what it records, and then the sweeps of all engines. -/
theorem strayTraining_commits : ∃ u : State,
    strayTraining.commitStep 0 = u.each (List.range 32) State.sweepEngine ∧
    u.obj 0x8003 7 = 0 ∧ u.train.groups = [strayGroup] ∧ u.HoldsOnly (domEngine 0) strayCore 0 ∧ u.cursor 0 = (0, 0) ∧
    u.resetsInWindow + 1 < u.obj 0x9002 1 ∧ (u.sweepBegun 0).sweepTag u.sweepOf strayBlock = .error 0x12 := by
  refine ⟨_, rfl, ?_, ?_, ⟨⟨{ SemSt.reset with producer := 0x3000 }, ?_⟩, ⟨1, 0, ?_⟩, ?_⟩, ?_, ?_, ?_⟩ <;> decide +kernel

/-- The sweep of engine 0 counts a fault where the norm of the step, zero, has been recorded. -/
theorem strayTraining_norm : (strayTraining.commitStep 0).obj 0x8003 7 = 1 := by
  obtain ⟨u, hcommit, hzero, hgroups, hholds, hstart, hroom, hread⟩ := strayTraining_commits
  obtain ⟨hlist, hidle⟩ := engineList_strayGroup
  obtain ⟨hgroups', hnorm⟩ := hholds.sweepEngine_unreadable (by decide) (by rw [hgroups, hlist]) strayBlock_engine hstart
    hroom (by decide) hread
  have hengines : List.range 32 = 0 :: List.range' 1 31 := by decide
  calc (strayTraining.commitStep 0).obj 0x8003 7
      = ((u.sweepEngine 0).each (List.range' 1 31) State.sweepEngine).obj 0x8003 7 := by
        rw [hcommit, hengines, State.each, List.foldl_cons, State.each]
    _ = (u.sweepEngine 0).obj 0x8003 7 := State.each_sweepEngine_idle (by rwa [hgroups', hgroups])
    _ = (0 + 1) % 2 ^ 32 := by rw [hnorm, hzero]
    _ = 1 := rfl

/-- Refutes O37: in `strayTraining` the step commits with a norm of zero, and after its sweep LAST_NORM is 1. The one value
at fault is that of LAST_NORM after a commit, and only for a state that lists a semaphore of a core past the last. -/
theorem not_trainingStep : ¬ Obligations.TrainingStep := by
  unfold Obligations.TrainingStep
  intro h
  obtain ⟨-, -, -, hdecision, -⟩ := h strayTraining rfl (by decide +kernel) rfl rfl
  have hreach : strayTraining.reach (0 + strayTraining.lag) = strayTraining := rfl
  obtain ⟨v, -, -, -, hcommits⟩ := hdecision 0 (by decide +kernel)
  dsimp only at hcommits
  rw [hreach] at hcommits
  have htotal : f32Sqrt ((List.range 32).foldl (fun a n => f32Add a (leAt (strayTraining.mailbox 0) (4 * n) 4)) 0) = 0 := by
    decide +kernel
  obtain ⟨hv, hnorm⟩ := hcommits (by decide +kernel) (by decide +kernel)
  rw [htotal] at hv hnorm
  rw [hv, strayTraining_norm] at hnorm
  exact absurd hnorm (by decide)

end Sys2Proof.Machine

/-!
The hang of an update engine that takes the module's own flag (O38). The reset of an idle engine (R428) breaks the
semaphores that it produces for (R419), and each context that waits on one of them faults and is counted under its core,
in 0x4032 (R202, R210). For core 0x4FD101 that count would be 0x9003.01, the flag that is 1 out of service (R432), at
which the row ends. There is no such core, but the statement speaks of every `State`.
-/
namespace Sys2Proof.Machine

/-! ### A count that is another object's -/

/-- The fault of a context of a core whose count is the object `a`.`b`. -/
theorem State.ctxFault_counts (s : State) {c a b : Nat} (x cause : Nat) (hcount : okey a b = okey 0x4032 c)
    (hcause : okey a b ≠ okey 0x9005 0x0F)
    (hstage : okey a b ∉ [okey 0x9003 3, okey 0x9003 4, okey 0x9004 2, okey 0x9004 3]) :
    (s.ctxFault c x cause).obj a b = (s.obj a b + 1) % 2 ^ 32 := by
  have hlogs := hstage
  simp only [List.mem_cons, List.not_mem_nil, or_false, not_or] at hlogs
  obtain ⟨-, -, htotal, hlost⟩ := hlogs
  have hobj : s.obj 0x4032 c = s.obj a b := by rw [State.obj, ← hcount, State.obj]
  have hfault : ∀ (u : State) (dom : Nat) items, (((u.count 0x4032 c).log 0x4030 dom items).ctxStops c x).obj a b =
      (u.obj 0x4032 c + 1) % 2 ^ 32 := fun u dom items => by
    rw [State.ctxStops_obj, State.log_obj _ _ _ htotal hlost, State.obj_count, if_pos hcount]
  unfold State.ctxFault State.on
  dsimp only
  split
  · rw [State.jobFail_obj _ hstage, State.faultCount, State.obj_count, if_neg hcause, hfault, State.setCtx_obj, hobj]
  · rw [hfault, State.setCtx_obj, hobj]

/-- The reset of an engine that holds one semaphore, on which one context of such a core waits. -/
theorem State.HoldsOnly.engineReset_counts {s : State} {n c x a b : Nat} (h : s.HoldsOnly (domEngine n) c x) (cause : Nat)
    (hn : n < 32) (hroom : s.resetsInWindow + 1 < s.obj 0x9002 1) (hcount : okey a b = okey 0x4032 c)
    (hcause : okey a b ≠ okey 0x9005 0x0F)
    (hstage : okey a b ∉ [okey 0x9003 3, okey 0x9003 4, okey 0x9004 2, okey 0x9004 3]) :
    (s.engineReset n cause).obj a b = (s.obj a b + 1) % 2 ^ 32 := by
  have hlogs := hstage
  simp only [List.mem_cons, List.not_mem_nil, or_false, not_or] at hlogs
  obtain ⟨-, -, htotal, hlost⟩ := hlogs
  have hcleared := h.of_only (s.engineCleared_frame n) (by decide)
  rw [State.engineReset_eq cause hroom, State.log_obj _ _ _ htotal hlost,
    hcleared.releaseHolds (by unfold domEngine; omega) (by simp [domWithin]), State.brokenWait,
    State.ctxFault_counts _ x 4 hcount hcause hstage, State.log_obj _ _ _ htotal hlost, State.setSem_obj,
    obj_of_only (s.engineCleared_frame n) (by decide)]

theorem State.engineCleared_engine (s : State) (n : Nat) :
    (s.engineCleared n).engineSt n = { s.engineSt n with tcache := [], stopped := true, pace := s.now } := by
  have hengines : (s.engineCleared n).train.engines = Tbl.set .reset s.train.engines n
      { s.engineSt n with tcache := [], stopped := true, pace := s.now } := rfl
  rw [State.engineSt, hengines, Tbl.get_set_same]

/-- A counted reset leaves its engine stopped. -/
theorem State.engineReset_stopped {s : State} (n cause : Nat) (hroom : s.resetsInWindow + 1 < s.obj 0x9002 1) :
    ((s.engineReset n cause).engineSt n).stopped = true := by
  rw [State.engineReset_eq cause hroom, State.engineSt, State.log_train,
    (State.releaseHolds_only (Only.refl _ (s.engineCleared n)) (List.Subset.refl _) (domEngine n)).2 .train (by decide)]
  exact congrArg EngineSt.stopped (s.engineCleared_engine n)

/-! ### ENGINE_PACE_EXPIRE (R428) -/

/-- The state in which the hang of engine `n` has been counted and logged. -/
def State.hangLogged (s : State) (n : Nat) : State :=
  s.paceLogged ((s.engineSt n).pace + s.obj 0x9000 3) (domEngine n) [(5, n)]

/-- Where the reset of a stopped engine leaves the module out of service, the row ends with it. -/
theorem exec_enginePaceExpire_outOfService {s : State} {n : Engine} (hdown : s.down = false) (htraining : s.training = true)
    (hstopped : (s.engineSt n).stopped = true)
    (hflag : ((s.hangLogged n).engineReset n 0).obj 0x9003 1 = 1) :
    exec (.enginePaceExpire n) s = .next ((s.hangLogged n).engineReset n 0) := by
  have hrow : exec (.enginePaceExpire n) s = execEnginePaceExpire n s := rfl
  rw [hrow, execEnginePaceExpire, act_up hdown]
  dsimp only
  rw [if_neg (by simp [htraining, hstopped])]
  exact congrArg Host.Outcome.next (if_pos hflag)

/-! ### An engine that stays stopped -/

/-- The core whose faults would be counted in 0x9003.01. -/
def flagCore : Nat := 0x4FD101

/-- A job trains the group of `strayTraining`, engine 0 is stopped and its pace counter runs out now; it produces for
semaphore 0 of `flagCore`, on which context 0 of that core waits. -/
def strayHang : State :=
  { strayTraining with
    hall := 64 * State.reset.obj 0x9000 3
    train := { Train.reset with groups := [strayGroup], engines := [(0, { EngineSt.reset with stopped := true })] }
    sems := [(64 * flagCore, { SemSt.reset with producer := 0x3000 })]
    ctxs := [(8 * flagCore, { CtxSt.reset with status := .waiting, wait := .sem 0 1 0 })] }

theorem strayHang_holdsOnly : strayHang.HoldsOnly (domEngine 0) flagCore 0 :=
  ⟨⟨{ SemSt.reset with producer := 0x3000 }, rfl, rfl⟩, ⟨1, 0, by decide, by decide⟩, rfl⟩

/-- The reset of engine 0 counts a fault where the module's flag is, and leaves the engine stopped. -/
theorem strayHang_reset : ((strayHang.hangLogged 0).engineReset 0 0).obj 0x9003 1 = 1 ∧
    (((strayHang.hangLogged 0).engineReset 0 0).engineSt 0).stopped = true := by
  have hholds : (strayHang.hangLogged 0).HoldsOnly (domEngine 0) flagCore 0 :=
    strayHang_holdsOnly.of_only (State.paceLogged_frame ..) (by decide)
  have hroom : (strayHang.hangLogged 0).resetsInWindow + 1 < (strayHang.hangLogged 0).obj 0x9002 1 := by decide +kernel
  have hflag : (strayHang.hangLogged 0).obj 0x9003 1 = 0 := by decide +kernel
  refine ⟨?_, State.engineReset_stopped 0 0 hroom⟩
  rw [hholds.engineReset_counts 0 (by decide) hroom (by decide) (by decide) (by decide), hflag]
  rfl

/-- Refutes O38: in `strayHang` the reset of engine 0 counts a fault in 0x9003.01, so that the row ends and engine 0 stays
stopped. The value at fault is that of `stopped` in the last clause: for none of the 192 cores is the count of its faults
that flag. -/
theorem not_replicaAgreement : ¬ Obligations.ReplicaAgreement := by
  unfold Obligations.ReplicaAgreement
  intro h
  obtain ⟨-, -, -, -, -, hengine⟩ := h strayHang rfl
  obtain ⟨-, hidle⟩ := hengine 0 (by decide)
  have hrest : recState strayHang.stepRec ≠ 1 := by decide +kernel
  have hstopped : (strayHang.engineSt 0).stopped = true := by decide
  obtain ⟨t, ht, hgoes, -, -⟩ := hidle hrest hstopped (by decide +kernel) (by decide +kernel) (by decide +kernel)
  obtain ⟨hflag, hstays⟩ := strayHang_reset
  rw [exec_enginePaceExpire_outOfService (n := 0) rfl (by decide) hstopped hflag] at ht
  injection ht with ht
  subst ht
  exact absurd (hstays.symm.trans hgoes) (by decide)

end Sys2Proof.Machine

/-!
JOB_LOAD and JOB_UNLOAD (O58): what refuses a load, what stands once it has installed its tables and measured its
manifest, and what an unload has cleared once every core has been reset.
-/
namespace Sys2Proof.Machine

/-! ### JOB_LOAD and its refusals (R453) -/

/-- What JOB_LOAD does where nothing refuses it before its manifest is read. -/
def State.readJob (s : State) (e : Nat) : Result :=
  s.fetchArg (eArg e 0) 64 fun m =>
    if !manifestOk m then s.fails 3 453
    else s.fetchArg (jRegions m) (16 * jCount m) fun regs => s.fetchArg (jKeys m) 768 fun keys => s.loadJob m regs keys

section
variable {s v : State} {e : BitVec 512} {status : Nat} {words : List Nat} (hdown : s.down = false)
  (hstage : 2 ≤ s.boot.stage) (hok : entryOk e.toNat = true) (hopcode : eOpcode e.toNat = 1)
include hdown hstage hok hopcode

theorem exec_jobLoad_refused (hload : (s.mpUp.takeEntry e).loadState = some (status, words)) :
    exec (.jobLoad e) s = .next (((s.mpUp.takeEntry e).complete e.toNat status words).streamAll) := by
  have hrow : exec (.jobLoad e) s = execJobLoad e s := rfl
  rw [hrow, execJobLoad, hostCommand_runs _ hdown hstage hok hopcode, hload, State.answers]

theorem exec_jobLoad_reads (hload : (s.mpUp.takeEntry e).loadState = none)
    (hread : (s.mpUp.takeEntry e).readJob e.toNat = (status, words, v)) :
    exec (.jobLoad e) s = .next ((v.complete e.toNat status words).streamAll) := by
  have hrow : exec (.jobLoad e) s = execJobLoad e s := rfl
  rw [State.readJob] at hread
  rw [hrow, execJobLoad, hostCommand_runs _ hdown hstage hok hopcode, hload]
  dsimp only
  rw [hread, State.answers]

end

theorem exec_jobUnload {s : State} {e : BitVec 512} (hdown : s.down = false) (hstage : 2 ≤ s.boot.stage)
    (hok : entryOk e.toNat = true) (hopcode : eOpcode e.toNat = 2) : exec (.jobUnload e) s =
      .next (((s.mpUp.takeEntry e).unloadJob.complete e.toNat 0 []).streamAll) := by
  have hrow : exec (.jobUnload e) s = execJobUnload e s := rfl
  rw [hrow, execJobUnload, hostCommand_runs _ hdown hstage hok hopcode, State.answers, State.done]

section
variable {s : State}

theorem State.loadState_busy (h : s.job.loaded = true ∨ s.timeOk = false) : s.loadState = some (2, []) :=
  if_pos (by simpa using h)

variable (hfree : s.job.loaded = false) (htime : s.timeOk = true)
include hfree htime

theorem State.loadState_outOfService (hflag : s.obj 0x9003 1 = 1) : s.loadState = some (3, [432]) := by
  rw [State.loadState, if_neg (by simp [hfree, htime]), if_pos hflag]

variable (hserves : s.obj 0x9003 1 ≠ 1)
include hserves

theorem State.loadState_bivouac (hkind : s.kind = 6) : s.loadState = some (3, [373]) := by
  rw [State.loadState, if_neg (by simp [hfree, htime]), if_neg hserves, if_pos hkind]

theorem State.loadState_switch (hkind : s.kind ≠ 6) (harmed : s.campArmed = true)
    (hforbids : s.switchForbids (s.obj 0xB000 3) ≠ none) : s.loadState = some (3, [411]) := by
  rw [State.loadState, if_neg (by simp [hfree, htime]), if_neg hserves, if_neg hkind,
    if_pos (by simpa [harmed, Option.isSome_iff_ne_none] using hforbids)]

end

/-! What they look at, taking the entry from the ring leaves as it was. -/

theorem State.takeEntry_timeOk (s : State) (e : BitVec 512) : (s.mpUp.takeEntry e).timeOk = s.timeOk := by
  have hframe := s.takeEntry_frame e
  have hnow : (s.mpUp.takeEntry e).now = s.now := congrArg (· / 64) (hframe.2 .hall (by decide))
  rw [State.timeOk, hframe.2 .time (by decide), hnow, State.takeEntry_obj, State.timeOk]

theorem State.takeEntry_switchForbids (s : State) (e : BitVec 512) (slot : Nat) :
    (s.mpUp.takeEntry e).switchForbids slot = s.switchForbids slot := by
  unfold State.mpUp
  split <;> rfl

section
variable {s : State} {e : Nat} (hvisible : s.visible (eArg e 0) 64 = true) (hclean : s.poisoned (eArg e 0) 64 = false)
include hvisible hclean

theorem State.readJob_badManifest (hbad : manifestOk (s.read (eArg e 0) 64) = false) : s.readJob e = s.fails 3 453 := by
  rw [State.readJob, State.fetchArg_clean _ hvisible hclean, if_pos (by simp [hbad])]

theorem State.readJob_loads {m : List Byte} (hm : s.read (eArg e 0) 64 = m) (hgood : manifestOk m = true)
    (hregions : s.visible (jRegions m) (16 * jCount m) = true)
    (hregionsClean : s.poisoned (jRegions m) (16 * jCount m) = false)
    (hkeys : s.visible (jKeys m) 768 = true) (hkeysClean : s.poisoned (jKeys m) 768 = false) :
    s.readJob e = s.loadJob m (s.read (jRegions m) (16 * jCount m)) (s.read (jKeys m) 768) := by
  rw [State.readJob, State.fetchArg_clean _ hvisible hclean, hm, if_neg (by simp [hgood]),
    State.fetchArg_clean _ hregions hregionsClean, State.fetchArg_clean _ hkeys hkeysClean]

end

/-! ### What a load installs and clears -/

/-- The state after the checks of a load, up to the training state that it takes over. -/
def State.jobTaken (s : State) (m : List Byte) : State :=
  let s := (((s.clearMeasure 6).measure 6 7 m).setBoot fun b => { b with jobId := jId m }).setObj 0xA000 5 (jHostKey m)
  { s with
    job := {
      loaded := true
      gather := s.obj 0x4010 1 == 1
      sr := s.obj 0x4020 3 == 1
      histBase := sext 32 (s.obj 0x8010 1)
      histWidth := s.obj 0x8010 2
      clockMhz := jClock m } }

/-- The state in which a load that nothing refuses takes over the training state; `s` has its tables installed. -/
def State.jobInstalled (s : State) (m : List Byte) : State :=
  (((s.setStateStatus none).runPending).clearForJob).jobTaken m

section
variable {s : State} {m regs keys : List Byte}

theorem State.loadJob_badTables {f : LoadFault} (hfault : s.growSpans.tablesFault m regs = some f) :
    s.loadJob m regs keys = (f.1, f.2, s) := by
  rw [State.loadJob, hfault]

variable (htables : s.growSpans.tablesFault m regs = none)
include htables

theorem State.loadJob_badSubject {f : LoadFault}
    (hfault : (s.growSpans.installTables m regs keys).subjectFault (jHostKey m) = some f) :
    s.loadJob m regs keys = (f.1, f.2, s.noteRefusal (s.growSpans.installTables m regs keys)) := by
  rw [State.loadJob, htables]
  dsimp only
  rw [hfault]

theorem State.loadJob_loads (hsubject : (s.growSpans.installTables m regs keys).subjectFault (jHostKey m) = none) :
    s.loadJob m regs keys = ((((s.growSpans.installTables m regs keys).jobInstalled m).takeTraining.ropeJob).log 0xA00A
      (domMp 0) [(64, jId m)]).done := by
  rw [State.loadJob, htables]
  dsimp only
  rw [hsubject]
  rfl

end

/-- Migrations that were pending run without a change of an object outside the log. -/
theorem State.runPending_obj (s : State) {a b : Nat} (htotal : okey a b ≠ okey 0x9004 2)
    (hlost : okey a b ≠ okey 0x9004 3) : s.runPending.obj a b = s.obj a b :=
  State.each_part (fun t => t.obj a b) _ _ fun t p => by
    rw [State.migrated, State.logPc, State.log_obj _ _ _ htotal hlost]
    exact obj_of_only (State.migrate_only (parts := [.memctl]) (Only.refl _ t) (by decide) p) (by decide) a b

theorem State.clearForJob_obj (s : State) {a b : Nat} (hdecision : okey a b ≠ okey 0x8012 8) :
    s.clearForJob.obj a b = s.obj a b := State.obj_setObj_other _ hdecision

theorem State.jobTaken_obj (s : State) (m : List Byte) {a b : Nat} (hkey : okey a b ≠ okey 0xA000 5) :
    (s.jobTaken m).obj a b = s.obj a b := State.obj_setObj_other _ hkey

theorem State.jobTaken_hostKey (s : State) (m : List Byte) : (s.jobTaken m).obj 0xA000 5 = jHostKey m :=
  State.obj_setObj_same ..

/-- A load keeps the objects of its tables. -/
theorem State.jobInstalled_obj (s : State) (m : List Byte) {a b : Nat} (htotal : okey a b ≠ okey 0x9004 2)
    (hlost : okey a b ≠ okey 0x9004 3) (hdecision : okey a b ≠ okey 0x8012 8) (hkey : okey a b ≠ okey 0xA000 5) :
    (s.jobInstalled m).obj a b = s.obj a b := by
  rw [State.jobInstalled, State.jobTaken_obj _ m hkey, State.clearForJob_obj _ hdecision,
    State.runPending_obj _ htotal hlost]
  exact obj_of_only (State.setStateStatus_only (parts := [.dict]) (Only.refl _ s) (by decide) none) (by decide) a b

/-- What a load clears before it measures leaves the region table and the measurements as they were. -/
theorem State.clearedForJob_frame (s : State) : Only [.tt, .hold, .poison, .watch, .objects, .dict, .ring, .memctl] s
    ((s.setStateStatus none).runPending.clearForJob) :=
  State.clearForJob_only (State.runPending_only (State.setStateStatus_only (Only.refl _ s) (by decide) none) (by decide))
    (by decide)

theorem State.jobInstalled_regions (s : State) (m : List Byte) : (s.jobInstalled m).regions = s.regions :=
  s.clearedForJob_frame.2 .regions (by decide)

/-- The job is in force, with its holds and banks afresh (R453). -/
theorem State.jobInstalled_job (s : State) (m : List Byte) : let t := s.jobInstalled m
    t.job.loaded = true ∧ t.job.clockMhz = jClock m ∧ t.boot.jobId = jId m ∧ t.tt.armedA = false ∧ t.tt.armedB = false ∧
      t.hold.offset = 0 ∧ t.hold.lost = [] ∧ t.hold.noResume = false ∧ t.hold.schedFault = false :=
  ⟨rfl, rfl, rfl, rfl, rfl, rfl, rfl, rfl, rfl⟩

theorem measures_of_only {s t : State} {ps : List Part} (h : Only ps s t) (hp : Part.boot ∉ ps) :
    t.boot.measures = s.boot.measures := by
  rw [h.2 .boot hp]

/-- M6 extends zero with the manifest (R462). -/
theorem State.jobTaken_measure {s : State} (m : List Byte) (hlength : s.boot.measures.length = 8) :
    (s.jobTaken m).boot.measures.getD 6 [] = Config.sha3 (List.replicate 48 0 ++ Config.sha3 m) := by
  have hmeasures : (s.jobTaken m).boot.measures = (s.boot.measures.set 6 (List.replicate 48 0)).set 6
      (Config.sha3 ((s.boot.measures.set 6 (List.replicate 48 0)).getD 6 [] ++ Config.sha3 m)) := rfl
  rw [hmeasures]
  simp [List.getD_eq_getElem?_getD, hlength]

theorem State.jobInstalled_measure {s : State} (m : List Byte) (hlength : s.boot.measures.length = 8) :
    (s.jobInstalled m).boot.measures.getD 6 [] = Config.sha3 (List.replicate 48 0 ++ Config.sha3 m) :=
  State.jobTaken_measure m (by rwa [measures_of_only s.clearedForJob_frame (by decide)])

/-- The store keys of the first `n` cores are installed, and their translation caches emptied. -/
def State.keysInstalled (s : State) (keys : List Byte) (n : Nat) : State :=
  s.each (List.range n) fun s c =>
    (s.setObj 0x4042 c (leAt keys (4 * c) 4)).mapCore c fun k => { k with tcache := [] }

/-- The state in which the region table and the tree are in force, and the store keys are not. -/
def State.treeInstalled (s : State) (m regs : List Byte) : State :=
  let s := { s with
    regions := (List.range (jCount m)).foldl (fun t n => Tbl.set regionReset t n (regionWord regs n)) []
    job := { s.job with clockMhz := jClock m } }
  (s.setObj 0x4040 1 (jTree m)).setObj 0x4040 3 0

theorem State.installTables_eq (s : State) (m regs keys : List Byte) :
    s.installTables m regs keys = (s.treeInstalled m regs).keysInstalled keys 192 := by
  unfold State.installTables State.treeInstalled State.keysInstalled
  rfl

theorem State.keysInstalled_tree (s : State) (keys : List Byte) (n : Nat) :
    (s.keysInstalled keys n).obj 0x4040 1 = s.obj 0x4040 1 := by
  refine State.each_part (fun t => t.obj 0x4040 1) _ _ fun t c => ?_
  rw [State.mapCore_obj, State.obj_setObj_other _ (by unfold okey; omega)]

theorem State.keysInstalled_key (s : State) (keys : List Byte) {n c : Nat} (hc : c < n) :
    (s.keysInstalled keys n).obj 0x4042 c = leAt keys (4 * c) 4 := by
  refine (each_entry' (fun c t => t.obj 0x4042 c) (fun c => leAt keys (4 * c) 4) (P := fun _ => True) (Q := fun _ => True)
    (fun _ _ _ => trivial) (fun t c _ _ => ?_) (fun t c d hcd => ?_) n s trivial).2 c hc trivial
  · rw [State.mapCore_obj, State.obj_setObj_same]
  · rw [State.mapCore_obj, State.obj_setObj_other _ (by unfold okey; omega)]

theorem State.keysInstalled_regions (s : State) (keys : List Byte) (n : Nat) :
    (s.keysInstalled keys n).regions = s.regions :=
  State.each_part (fun t => t.regions) _ _ fun _ _ => rfl

theorem State.installTables_tree (s : State) (m regs keys : List Byte) :
    (s.installTables m regs keys).obj 0x4040 1 = jTree m := by
  rw [State.installTables_eq, State.keysInstalled_tree, State.treeInstalled,
    State.obj_setObj_other _ (by decide), State.obj_setObj_same]

theorem State.installTables_key (s : State) (m regs keys : List Byte) (c : Core) :
    (s.installTables m regs keys).obj 0x4042 c = leAt keys (4 * c) 4 := by
  rw [State.installTables_eq, State.keysInstalled_key _ _ c.isLt]

/-- The region table is that of the manifest. -/
theorem State.installTables_regions (s : State) (m regs keys : List Byte) (n : Nat) :
    Tbl.get regionReset (s.installTables m regs keys).regions n =
      if n < jCount m then BitVec.ofNat 128 (leAt regs (16 * n) 16) else regionReset := by
  have hfilled := Tbl.get_filled regionReset (regionWord regs) 0 (jCount m) [] n
  simp only [Nat.zero_add, Nat.zero_le, true_and, Nat.sub_zero] at hfilled
  rw [State.installTables_eq, State.keysInstalled_regions]
  exact hfilled

/-- What stands once a load has installed its tables and measured its manifest. -/
theorem State.load_installs {s u : State} (hmeasures : u.boot.measures = s.boot.measures) (m regs keys : List Byte) :
    let x := (u.growSpans.installTables m regs keys).jobInstalled m
    x.job.loaded = true ∧ x.job.clockMhz = jClock m ∧ x.obj 0x4040 1 = jTree m ∧ x.obj 0xA000 5 = jHostKey m ∧
      x.boot.jobId = jId m ∧ (∀ c : Core, x.obj 0x4042 c = leAt keys (4 * c) 4) ∧
      (∀ n, Tbl.get regionReset x.regions n =
        if n < jCount m then BitVec.ofNat 128 (leAt regs (16 * n) 16) else regionReset) ∧
      x.tt.armedA = false ∧ x.tt.armedB = false ∧ x.hold.offset = 0 ∧ x.hold.lost = [] ∧ x.hold.noResume = false ∧
      x.hold.schedFault = false ∧ (s.boot.measures.length = 8 → x.boot.measures.getD 6 [] =
        Config.sha3 (List.replicate 48 0 ++ Config.sha3 m)) := by
  obtain ⟨hloaded, hclock, hid, harmedA, harmedB, hoffset, hlost, hresume, hfault⟩ :=
    (u.growSpans.installTables m regs keys).jobInstalled_job m
  refine ⟨hloaded, hclock, ?tree, State.jobTaken_hostKey .., hid, fun c => ?storeKey, fun n => ?region, harmedA, harmedB,
    hoffset, hlost, hresume, hfault, fun hlength => ?measure⟩
  case tree =>
    rw [State.jobInstalled_obj _ _ (by decide) (by decide) (by decide) (by decide), State.installTables_tree]
  case storeKey =>
    have hc := c.isLt
    rw [State.jobInstalled_obj _ _ (by unfold okey; omega) (by unfold okey; omega) (by unfold okey; omega)
      (by unfold okey; omega), State.installTables_key]
  case region => rw [State.jobInstalled_regions, State.installTables_regions]
  case measure =>
    have htables : Only [.spans, .cores, .regions, .objects, .job] u (u.growSpans.installTables m regs keys) :=
      State.installTables_only (State.growSpans_only (Only.refl _ u) (by decide)) (by decide) ..
    exact State.jobInstalled_measure m (by rwa [measures_of_only htables (by decide), hmeasures])

/-! ### A context at rest stays so (R183, R419) -/

/-- Context `x` of core `c` is IDLE and waits for nothing. -/
def State.Rests (s : State) (c x : Nat) : Prop := (s.ctx c x).status = .idle ∧ (s.ctx c x).wait = .none

section
variable {s : State} {c x : Nat} (h : s.Rests c x)
include h

theorem State.Rests.of_ctx {t : State} (hctx : t.ctx c x = s.ctx c x) : t.Rests c x := by
  rwa [State.Rests, hctx]

theorem State.Rests.of_only {t : State} {ps : List Part} (k : Only ps s t) (hp : Part.ctxs ∉ ps) : t.Rests c x :=
  h.of_ctx (ctx_of_only k hp c x)

theorem State.Rests.setCtx_other {d y : Nat} (v : CtxSt) (hkey : ctxKey c x ≠ ctxKey d y) : (s.setCtx d y v).Rests c x :=
  h.of_ctx (Tbl.get_set_other hkey)

theorem State.Rests.jobFail (cause : Nat) : (s.jobFail cause).Rests c x := by
  rcases s.jobFail_ctx cause c x with hsame | hstop
  · exact h.of_ctx hsame
  · exact h.of_ctx (hstop.trans (CtxSt.stop_of_rests (.inl h.1)))

theorem State.Rests.ctxFault {d y : Nat} (cause : Nat) (hkey : ctxKey c x ≠ ctxKey d y) :
    (s.ctxFault d y cause).Rests c x := by
  unfold State.ctxFault
  dsimp only
  generalize hfaulted : State.ctxStops _ d y = u
  have hu : u.Rests c x := by
    rw [← hfaulted]
    refine State.Rests.of_only ?_ (State.ctxStops_frame ..) (by decide)
    exact (h.setCtx_other _ hkey).of_ctx (by rw [State.log_ctx, State.count_ctx])
  unfold State.on
  split
  · exact State.Rests.jobFail (hu.of_ctx (State.count_ctx ..)) 0x0F
  · exact hu

/-- The walk over the waiters of a semaphore touches none but these. -/
theorem State.Rests.evalSem (d n : Nat) : (s.evalSem d n).Rests c x := by
  refine each_ind (P := fun t => t.Rests c x) h fun t y _ ht => ?_
  dsimp only
  split
  next m k since hwait =>
    have hkey : ctxKey c x ≠ ctxKey d y := fun hsame => by
      have hctx : t.ctx d y = t.ctx c x := by rw [State.ctx, ← hsame, State.ctx]
      rw [hctx, ht.2] at hwait
      cases hwait
    split
    · exact ht
    · split
      · exact State.Rests.ctxFault (ht.of_ctx (State.log_ctx ..)) 4 hkey
      · split
        · exact State.Rests.setCtx_other (ht.of_ctx (State.setSem_ctx ..)) _ hkey
        · exact ht
  next => exact ht

theorem State.Rests.releaseHolds (dom : Nat) : (s.releaseHolds dom).Rests c x := by
  have hbroken : (s.breakProducer dom).Rests c x :=
    each_ind (P := fun t => t.Rests c x) h fun t k _ ht =>
      State.Rests.evalSem (ht.of_ctx (State.setSem_ctx ..)) (k / 64) (k % 64)
  exact hbroken.of_only (State.breakOwned_frame ..) (by decide)

theorem State.Rests.countStalls : s.countStalls.Rests c x := by
  rcases s.countStalls_ctx c x with hsame | hcounts
  · exact h.of_ctx hsame
  · exact h.of_ctx (hcounts.trans (by rw [CtxSt.recounted, h.2]))

end

/-- Of the contexts, what discards a core's passes changes no more than their stall counts. -/
theorem State.discardPasses_ctxs (s : State) (c : Nat) : (s.discardPasses c).ctxs = s.countStalls.ctxs := by
  have hlogs : ∀ (u : State) (more : Bool) items, ((u.log 0x4011 (domCore c) items).on more fun u =>
      u.log 0x4012 (domCore c)).ctxs = u.ctxs := fun u more items => by
    cases more
    · exact State.log_ctxs ..
    · exact (State.log_ctxs ..).trans (State.log_ctxs ..)
  unfold State.discardPasses
  dsimp only
  rw [hlogs]
  split
  · exact State.each_part (fun t => t.ctxs) _ _ fun _ _ => State.storeWrite_ctxs ..
  · rfl

/-- A context of a core that is reset. -/
def State.idled (s : State) (c x : Nat) : State :=
  (s.on ((s.ctx c x).status != .idle) (·.ctxEnded c x)).setCtx c x { CtxSt.reset with pace := s.now }

theorem State.idled_rests (s : State) (c x : Nat) : (s.idled c x).Rests c x := by
  rw [State.Rests, State.idled, State.ctx_setCtx]
  exact ⟨rfl, rfl⟩

theorem State.Rests.idled {s : State} {c x : Nat} (h : s.Rests c x) (d y : Nat) : (s.idled d y).Rests c x := by
  by_cases hkey : ctxKey c x = ctxKey d y
  · have hctx : (s.idled d y).ctx c x = (s.idled d y).ctx d y := by rw [State.ctx, hkey, State.ctx]
    exact ⟨hctx ▸ (s.idled_rests d y).1, hctx ▸ (s.idled_rests d y).2⟩
  · refine State.Rests.setCtx_other (h.of_ctx ?_) _ hkey
    unfold State.on
    split
    · exact ctx_of_only (State.ctxEnded_only (parts := [.out, .msix]) (Only.refl _ s) (by decide) d y) (by decide) c x
    · rfl

/-- The state in which a core's items are discarded and its semaphores broken. -/
def State.coreBroken (s : State) (c : Nat) : State :=
  (s.discardPasses c).each (List.range 64) fun s n => s.setSem c n { s.sem c n with broken := true }

/-- A core as its reset leaves it. -/
def CoreSt.afterReset (k : CoreSt) : CoreSt :=
  { CoreSt.reset with gated := k.gated, power := k.power, replay := k.replay, tcache := k.tcache, wakeAt := k.wakeAt }

/-- The contexts of a core whose items are discarded are idle. -/
def State.coreIdled (s : State) (c : Nat) : State := (s.coreBroken c).each (List.range 8) fun s x => s.idled c x

theorem State.coreReset_eq (s : State) (c : Nat) : s.coreReset c =
    ((s.coreIdled c).setCore c ((s.coreIdled c).core c).afterReset).releaseHolds (domCore c) := rfl

theorem State.Rests.coreReset {s : State} {c x : Nat} (h : s.Rests c x) (d : Nat) : (s.coreReset d).Rests c x := by
  have hdiscarded : (s.discardPasses d).ctx c x = s.countStalls.ctx c x := by
    rw [State.ctx, s.discardPasses_ctxs, State.ctx]
  have hbroken : (s.coreBroken d).Rests c x := (h.countStalls.of_ctx hdiscarded).of_only
      (State.each_setSem_frame _ d (fun v => { v with broken := true }) _) (by decide)
  have hidled : (s.coreIdled d).Rests c x := each_ind (P := fun t => t.Rests c x) hbroken fun t y _ ht => ht.idled d y
  rw [State.coreReset_eq]
  exact State.Rests.releaseHolds (hidled.of_ctx (State.setCore_ctx ..)) (domCore d)

/-- A walk after one of whose steps `P` holds, where every step keeps `P`. -/
theorem each_makes {α : Type} {P : State → Prop} {f : State → α → State} {xs : List α} {x : α} (hx : x ∈ xs)
    (hmakes : ∀ t, P (f t x)) (hkeeps : ∀ t y, P t → P (f t y)) (s : State) : P (s.each xs f) := by
  obtain ⟨before, after, rfl⟩ := List.append_of_mem hx
  rw [State.each, List.foldl_append, List.foldl_cons]
  exact each_ind (hmakes _) fun t y _ ht => hkeeps t y ht

theorem State.coreReset_rests (s : State) (c : Nat) (x : Ctx) : (s.coreReset c).Rests c x := by
  have hidled : (s.coreIdled c).Rests c x :=
    each_makes (P := fun t => t.Rests c x) (List.mem_range.mpr x.isLt) (fun t => t.idled_rests c x)
      (fun t y ht => ht.idled c y) _
  rw [State.coreReset_eq]
  exact State.Rests.releaseHolds (hidled.of_ctx (State.setCore_ctx ..)) (domCore c)

/-! ### The objects below those of the cores -/

section
variable {s : State} {a b : Nat} (hbelow : okey a b < okey 0x4010 0)
include hbelow

theorem okey_below_counts : okey a b ≠ okey 0x4010 7 ∧ okey a b ≠ okey 0x9005 0x0F ∧ okey a b ≠ okey 0x9004 2 ∧
    okey a b ≠ okey 0x9004 3 ∧ okey a b ∉ [okey 0x9003 3, okey 0x9003 4, okey 0x9004 2, okey 0x9004 3] ∧
    okey a b ∉ okey 0x6010 3 :: okey 0x6010 4 :: packetCounts := by
  simp only [okey] at hbelow
  simp only [packetCounts, okey, List.mem_cons, List.not_mem_nil, or_false, not_or]
  omega

/-- What the fault of a context counts lies above. -/
theorem State.ctxFault_below (c x cause : Nat) : (s.ctxFault c x cause).obj a b = s.obj a b := by
  obtain ⟨-, hfault, htotal, hlost, hstage, -⟩ := okey_below_counts hbelow
  have hcount : okey a b ≠ okey 0x4032 c := by unfold okey at hbelow ⊢; omega
  simp only [State.ctxFault, State.on]
  split <;>
    simp only [State.jobFail_obj _ hstage, State.faultCount, State.obj_count, if_neg hfault, State.ctxStops_obj,
      State.log_obj _ _ _ htotal hlost, if_neg hcount, State.setCtx_obj]

theorem State.evalSem_below (c n : Nat) : (s.evalSem c n).obj a b = s.obj a b := by
  obtain ⟨-, -, htotal, hlost, -, -⟩ := okey_below_counts hbelow
  refine State.each_part (fun t => t.obj a b) _ _ fun t x => ?_
  dsimp only
  split
  · split
    · rfl
    · split
      · exact (State.ctxFault_below hbelow c x 4).trans (State.log_obj _ _ _ htotal hlost)
      · split
        · exact obj_of_only (State.retire_frame ..) (by decide) a b
        · rfl
  · rfl

theorem State.releaseHolds_below (dom : Nat) : (s.releaseHolds dom).obj a b = s.obj a b := by
  obtain ⟨-, -, -, -, -, hflows⟩ := okey_below_counts hbelow
  rw [State.releaseHolds, State.breakOwned_obj _ hflows]
  exact State.each_part (fun t => t.obj a b) _ _ fun t k => State.evalSem_below hbelow _ _

theorem State.coreReset_below (c : Nat) : (s.coreReset c).obj a b = s.obj a b := by
  obtain ⟨hstalls, -, htotal, hlost, -, -⟩ := okey_below_counts hbelow
  have hidled : (s.coreIdled c).obj a b = (s.coreBroken c).obj a b :=
    State.each_part (fun t => t.obj a b) _ _ fun t x => by
      rw [State.idled, State.setCtx_obj, State.on]
      split
      · exact obj_of_only (State.ctxEnded_only (parts := [.out, .msix]) (Only.refl _ t) (by decide) c x) (by decide) a b
      · rfl
  rw [State.coreReset_eq, State.releaseHolds_below hbelow, State.setCore_obj, hidled, State.coreBroken,
    obj_of_only (State.each_setSem_frame _ c (fun v => { v with broken := true }) _) (by decide),
    State.discardPasses_obj c hstalls htotal hlost]

theorem State.breakJobFlows_below : s.breakJobFlows.obj a b = s.obj a b := by
  obtain ⟨-, -, -, -, -, hflows⟩ := okey_below_counts hbelow
  exact State.each_part (fun t => t.obj a b) _ _ fun t c => State.breakFlow_obj c 5 true hflows

end

/-! ### JOB_UNLOAD (R454) -/

/-- The state in which no bank is active and contexts have stopped. -/
def State.tablesStopped (s : State) : State := s.quiesce.disarmBankSwitch.stopTables.setObj 0x2010 1 0xFF

theorem State.stopTables_active (s : State) : s.stopTables.tt.active = none := rfl

theorem State.tablesStopped_active (s : State) : s.tablesStopped.tt.active = none := by
  rw [State.tablesStopped, State.setObj_tt, State.stopTables_active]

/-- The first `n` cores are reset. -/
def State.coresReset (s : State) (n : Nat) : State := s.each (List.range n) State.coreReset

/-- The state in which every core has been reset and the job's flow contexts have broken. -/
def State.coresStopped (s : State) : State := (s.coresReset 192).breakJobFlows

/-- No job is in force, and no core has a recovery. -/
def State.jobForgotten (s : State) : State := s.dropJob.setFaults fun f => { f with recovery := [], recovered := [] }

/-- The banks are disarmed, the flags of a failed stage are down, and the manifest is no longer measured. -/
def State.stageForgotten (s : State) : State :=
  (((s.setArmed 0 false).setArmed 1 false).setHold fun h => { h with
    own := if h.noResume then [] else h.own
    noResume := false
    schedFault := false
    sticky := false }).clearMeasure 6

/-- What an unload then drops. -/
def State.jobDropped (s : State) : State := ((s.jobForgotten.setObj 0x4040 1 0).setObj 0x9003 3 0).stageForgotten

theorem State.stageForgotten_obj (s : State) (a b : Nat) : s.stageForgotten.obj a b = s.obj a b := rfl

theorem State.jobForgotten_obj (s : State) (a b : Nat) : s.jobForgotten.obj a b = s.obj a b := rfl

theorem State.jobDropped_obj (s : State) (a b : Nat) : s.jobDropped.obj a b =
    if okey a b = okey 0x9003 3 ∨ okey a b = okey 0x4040 1 then 0 else s.obj a b := by
  rw [State.jobDropped, State.stageForgotten_obj, State.obj_setObj, State.obj_setObj, State.jobForgotten_obj, ite_or]

theorem State.jobDropped_measures (s : State) :
    s.jobDropped.boot.measures = s.boot.measures.set 6 (List.replicate 48 0) := (rfl)

theorem State.jobDropped_tt (s : State) : s.jobDropped.tt.active = s.tt.active ∧ s.jobDropped.tt.armedA = false ∧
    s.jobDropped.tt.armedB = false := ⟨rfl, rfl, rfl⟩

theorem State.jobDropped_frame (s : State) :
    Only [.regions, .train, .job, .faults, .objects, .tt, .hold, .boot] s s.jobDropped := by
  have hforgotten : Only [.regions, .train, .job, .faults, .objects, .tt, .hold, .boot] s s.jobForgotten :=
    State.setFaults_only' (State.dropJob_only (Only.refl _ s) (by decide)) (by decide) _ fun _ => rfl
  unfold State.jobDropped State.stageForgotten
  exact State.clearMeasure_only (State.setHold_only (State.setArmed_only (State.setArmed_only (State.setObj_only
    (State.setObj_only hforgotten (by decide) ..) (by decide) ..) (by decide) ..) (by decide) ..) (by decide) _)
    (by decide) 6

theorem State.jobDropped_clears (s : State) : s.jobDropped.job.loaded = false ∧ s.jobDropped.regions = [] ∧
    s.jobDropped.train = .reset ∧ s.jobDropped.hold.noResume = false ∧ s.jobDropped.hold.schedFault = false ∧
    s.jobDropped.faults.recovery = [] := ⟨rfl, rfl, rfl, rfl, rfl, rfl⟩

theorem State.unloadJob_eq (s : State) :
    s.unloadJob = (s.tablesStopped.coresStopped.jobDropped).log 0xA00B (domMp 0) := by
  unfold State.unloadJob State.tablesStopped State.coresStopped State.coresReset State.jobDropped State.jobForgotten
    State.stageForgotten
  rfl

theorem State.coresReset_frame (s : State) (n : Nat) : Only [.out, .drawn, .hold, .links, .fabric, .stores, .accs, .cores,
    .ctxs, .sems, .movers, .objects, .ring, .msix, .alert] s (s.coresReset n) :=
  State.each_only (Only.refl _ s) _ _ fun _ c ht => State.coreReset_only ht (by decide) c

theorem State.breakJobFlows_frame (s : State) :
    Only [.out, .links, .fabric, .movers, .objects, .ring] s s.breakJobFlows :=
  State.breakJobFlows_only (Only.refl _ s) (by decide)

theorem State.coresStopped_frame (s : State) : Only [.out, .drawn, .hold, .links, .fabric, .stores, .accs, .cores, .ctxs,
    .sems, .movers, .objects, .ring, .msix, .alert] s s.coresStopped :=
  (s.coresReset_frame 192).then (State.breakJobFlows_frame _) (by decide)

theorem State.coresStopped_tt (s : State) : s.coresStopped.tt = s.tt := s.coresStopped_frame.2 .tt (by decide)

theorem State.coresReset_rests (s : State) {n c : Nat} (hc : c < n) (x : Ctx) : (s.coresReset n).Rests c x :=
  each_makes (P := fun t => t.Rests c x) (List.mem_range.mpr hc) (fun t => t.coreReset_rests c x)
    (fun _ d ht => ht.coreReset d) s

/-- Every context of every core is idle. -/
theorem State.coresStopped_rests (s : State) (c : Core) (x : Ctx) : s.coresStopped.Rests c x :=
  (s.coresReset_rests c.isLt x).of_only (State.breakJobFlows_frame _) (by decide)

theorem State.coresReset_below {s : State} {a b : Nat} (hbelow : okey a b < okey 0x4010 0) (n : Nat) :
    (s.coresReset n).obj a b = s.obj a b :=
  State.each_part (fun t => t.obj a b) _ _ fun _ c => State.coreReset_below hbelow c

theorem State.coresStopped_below {s : State} {a b : Nat} (hbelow : okey a b < okey 0x4010 0) :
    s.coresStopped.obj a b = s.obj a b := by
  rw [State.coresStopped, State.breakJobFlows_below hbelow, State.coresReset_below hbelow]

theorem State.unloadJob_obj (s : State) {a b : Nat} (htotal : okey a b ≠ okey 0x9004 2)
    (hlost : okey a b ≠ okey 0x9004 3) : s.unloadJob.obj a b = if okey a b = okey 0x9003 3 ∨ okey a b = okey 0x4040 1 then 0
      else s.tablesStopped.coresStopped.obj a b := by
  rw [State.unloadJob_eq, State.log_obj _ _ _ htotal hlost, State.jobDropped_obj]

/-- The record of an unload is the newest. -/
theorem State.log_head (s : State) {ev : Nat} (dom : Nat) (items : List (Nat × Nat)) (hev : ev < 2 ^ 16) :
    ((s.log ev dom items).faults.ring.map eventOf).head? = some ev := by
  rw [State.log_ring, List.take_succ_cons, List.map_cons, List.head?_cons, eventOf_cairnRecord, Nat.mod_eq_of_lt hev]

theorem State.unloadJob_measure {s : State} (hlength : s.boot.measures.length = 8) :
    s.unloadJob.boot.measures.getD 6 [] = List.replicate 48 0 := by
  have hkept : s.tablesStopped.coresStopped.boot.measures = s.boot.measures := by
    refine (measures_of_only (State.coresStopped_frame _) (by decide)).trans ?_
    refine measures_of_only (ps := [.out, .hall, .time, .tt, .hold, .links, .fabric, .mem, .poison, .ctxs, .sems, .movers,
      .deltas, .train, .rope, .objects, .ring, .faults, .msix, .alert]) ?_ (by decide)
    exact State.setObj_only (State.stopTables_only (State.disarmBankSwitch_only (State.quiesce_only (Only.refl _ s)
      (by decide)) (by decide)) (by decide)) (by decide) ..
  rw [State.unloadJob_eq, State.log_boot, State.jobDropped_measures, hkept]
  simp [List.getD_eq_getElem?_getD, hlength]

theorem State.unloadJob_drops (s : State) : s.unloadJob.job.loaded = false ∧ s.unloadJob.regions = [] ∧
    s.unloadJob.train = .reset ∧ s.unloadJob.hold.noResume = false ∧ s.unloadJob.hold.schedFault = false ∧
    s.unloadJob.faults.recovery = [] := by
  obtain ⟨hloaded, hregions, htrain, hresume, hfault, hrecovery⟩ := s.tablesStopped.coresStopped.jobDropped_clears
  rw [State.unloadJob_eq, State.log_job, State.log_regions, State.log_train, State.log_hold, State.log_faults']
  exact ⟨hloaded, hregions, htrain, hresume, hfault, hrecovery⟩

theorem State.unloadJob_tt (s : State) : s.unloadJob.tt.active = none ∧ s.unloadJob.tt.armedA = false ∧
    s.unloadJob.tt.armedB = false := by
  obtain ⟨hactive, harmedA, harmedB⟩ := s.tablesStopped.coresStopped.jobDropped_tt
  rw [State.coresStopped_tt, State.tablesStopped_active] at hactive
  rw [State.unloadJob_eq, State.log_tt]
  exact ⟨hactive, harmedA, harmedB⟩

/-- BANK_ACTIVE names no bank: what the resets of the cores count lies above it. -/
theorem State.unloadJob_bank (s : State) : s.unloadJob.obj 0x2010 1 = 0xFF := by
  rw [State.unloadJob_obj _ (by decide) (by decide), if_neg (by decide), State.coresStopped_below (by decide),
    State.tablesStopped, State.obj_setObj_same]

theorem State.unloadJob_logs (s : State) : (s.unloadJob.faults.ring.map eventOf).head? = some 0xA00B := by
  rw [State.unloadJob_eq, State.log_head _ _ _ (by decide)]

theorem State.unloadJob_idle (s : State) (c : Core) (x : Ctx) : (s.unloadJob.ctx c x).status = .idle := by
  rw [State.unloadJob_eq, State.log_ctx, ctx_of_only (State.jobDropped_frame _) (by decide)]
  exact (s.tablesStopped.coresStopped_rests c x).1

/-! ### The statement -/

/-- Settles O58: a load that is refused is so from the state in which its entry is taken; one that is not goes on from its
tables (`State.jobInstalled`); and what JOB_UNLOAD clears stays cleared, since no context at rest leaves it
(`State.Rests`), and no reset of a core counts in an object below those of the cores. -/
theorem jobsLoadAndUnload : Obligations.JobsLoadAndUnload := by
  intro s e hdown hstage hok w u ends
  have htaken := s.takeEntry_frame e
  have hjob : u.job = s.job := htaken.2 .job (by decide)
  have htime : u.timeOk = s.timeOk := s.takeEntry_timeOk e
  have hobj : ∀ a b, u.obj a b = s.obj a b := s.takeEntry_obj e
  refine ⟨fun hop => ⟨fun hbusy => ?busy, fun hfree hclock => ⟨fun hflag => ?outOfService, fun hserves hkind => ?bivouac,
      fun hserves hkind harmed hforbids => ?switch⟩, fun hload hhidden => ?hidden,
      fun hload hvisible hpoisoned => ?poisoned, fun hload hvisible hclean => ⟨fun hbad => ?badManifest,
        fun hgood hregions hregionsClean hkeys hkeysClean => ⟨fun f hfault => ?badTables, fun htables =>
          ⟨fun f hfault => ?badSubject, fun hsubject => ?loads⟩⟩⟩⟩,
    fun hop => exec_jobUnload hdown hstage hok hop, ?unloaded⟩
  case busy =>
    exact exec_jobLoad_refused hdown hstage hok hop (State.loadState_busy (by rwa [hjob, htime]))
  case outOfService =>
    exact exec_jobLoad_refused hdown hstage hok hop (State.loadState_outOfService (by rwa [hjob]) (by rwa [htime])
      (by rwa [hobj]))
  case bivouac =>
    exact exec_jobLoad_refused hdown hstage hok hop (State.loadState_bivouac (by rwa [hjob]) (by rwa [htime])
      (by rwa [hobj]) (by rwa [State.kind, hobj]))
  case switch =>
    exact exec_jobLoad_refused hdown hstage hok hop (State.loadState_switch (by rwa [hjob]) (by rwa [htime])
      (by rwa [hobj]) (by rwa [State.kind, hobj]) (by rwa [State.campArmed, hobj])
      (by rwa [hobj, State.takeEntry_switchForbids]))
  case hidden => exact exec_jobLoad_reads hdown hstage hok hop hload (State.fetchArg_hidden _ hhidden)
  case poisoned => exact exec_jobLoad_reads hdown hstage hok hop hload (State.fetchArg_poisoned _ hvisible hpoisoned)
  case badManifest =>
    exact exec_jobLoad_reads hdown hstage hok hop hload (State.readJob_badManifest hvisible hclean hbad)
  case badTables =>
    exact exec_jobLoad_reads hdown hstage hok hop hload ((State.readJob_loads hvisible hclean rfl hgood hregions
      hregionsClean hkeys hkeysClean).trans (State.loadJob_badTables hfault))
  case badSubject =>
    exact exec_jobLoad_reads hdown hstage hok hop hload ((State.readJob_loads hvisible hclean rfl hgood hregions
      hregionsClean hkeys hkeysClean).trans (State.loadJob_badSubject htables hfault))
  case loads =>
    exact ⟨_, exec_jobLoad_reads hdown hstage hok hop hload ((State.readJob_loads hvisible hclean rfl hgood hregions
      hregionsClean hkeys hkeysClean).trans (State.loadJob_loads htables hsubject)),
      State.load_installs (measures_of_only htaken (by decide)) ..⟩
  case unloaded =>
    obtain ⟨hloaded, hregions, htrain, hresume, hfault, hrecovery⟩ := s.unloadJob_drops
    obtain ⟨hactive, harmedA, harmedB⟩ := s.unloadJob_tt
    have htree : s.unloadJob.obj 0x4040 1 = 0 := by
      rw [State.unloadJob_obj _ (by decide) (by decide), if_pos (by decide)]
    have hstage : s.unloadJob.obj 0x9003 3 = 0 := by
      rw [State.unloadJob_obj _ (by decide) (by decide), if_pos (by decide)]
    exact ⟨hloaded, hregions, htrain, hactive, s.unloadJob_bank, htree, hstage, harmedA, harmedB, hresume, hfault, hrecovery,
      State.unloadJob_measure, s.unloadJob_logs, s.unloadJob_idle⟩

end Sys2Proof.Machine

/-!
The rope tier's part of the state (chapter 12): one rule per operation for the stripes and the peers, and what they keep
where a state changes elsewhere.
-/
namespace Sys2Proof.Machine

/-! ### Stripes and peers (R335, R336) -/

section
variable (s : State)

@[simp] theorem State.ropeSess_setSess (x : Nat) (v : RopeSess) : (s.setSess x v).ropeSess x = v := Tbl.get_set_same

theorem State.ropeSess_setSess_other {x y : Nat} (v : RopeSess) (h : y ≠ x) : (s.setSess x v).ropeSess y = s.ropeSess y :=
  Tbl.get_set_other h

@[simp] theorem State.ropeSess_mapSess (x : Nat) (f : RopeSess → RopeSess) : (s.mapSess x f).ropeSess x = f (s.ropeSess x) :=
  s.ropeSess_setSess x _

@[simp] theorem State.ropePeer_setPeer (n : Nat) (p : RopePeer) : (s.setPeer n p).ropePeer n = p := Tbl.get_set_same

@[simp] theorem State.ropeSess_setPeer (n : Nat) (p : RopePeer) (x : Nat) : (s.setPeer n p).ropeSess x = s.ropeSess x := rfl

@[simp] theorem State.ropePeer_setSess (x : Nat) (v : RopeSess) (n : Nat) : (s.setSess x v).ropePeer n = s.ropePeer n := rfl

@[simp] theorem State.ropeSess_log (ev dom : Nat) (items : List (Nat × Nat)) (x : Nat) :
    (s.log ev dom items).ropeSess x = s.ropeSess x := by rw [State.ropeSess, State.log_rope, State.ropeSess]

@[simp] theorem State.ropePeer_log (ev dom : Nat) (items : List (Nat × Nat)) (n : Nat) :
    (s.log ev dom items).ropePeer n = s.ropePeer n := by rw [State.ropePeer, State.log_rope, State.ropePeer]

end

theorem ropePeer_of_only {s t : State} {ps : List Part} (h : Only ps s t) (hp : Part.rope ∉ ps) (n : Nat) :
    t.ropePeer n = s.ropePeer n := by
  rw [State.ropePeer, h.2 .rope hp, State.ropePeer]

/-- What the dictionary holds besides the scalar objects (R391). -/
theorem recOf_of_only {s t : State} {ps : List Part} (h : Only ps s t) (hp : Part.dict ∉ ps) (a b : Nat) :
    t.recOf a b = s.recOf a b := by
  rw [State.recOf, h.2 .dict hp, State.recOf]

theorem peerStripes_of_only {s t : State} {ps : List Part} (h : Only ps s t) (hp : Part.dict ∉ ps) (n : Nat) :
    t.peerStripes n = s.peerStripes n := by
  rw [State.peerStripes, recOf_of_only h hp, State.peerStripes]

/-- Stripes are retired with the fault handling's records. -/
theorem deadSessions_of_only {s t : State} {ps : List Part} (h : Only ps s t) (hp : Part.faults ∉ ps) :
    t.faults.deadSessions = s.faults.deadSessions := by
  have hfaults : t.faults = { s.faults with ring := t.faults.ring } := h.2 .faults hp
  rw [hfaults]

end Sys2Proof.Machine

/-!
The close of a rope round among the replicas (O41).
-/
namespace Sys2Proof.Machine

/-! ### The rope record is written (R326) -/

/-- Writing the record changes of memory what the management processor's write changes. -/
theorem State.setRopeRec_mem (s : State) (w : Nat) : (s.setRopeRec w).mem = (s.mpWrite s.ropeBase (leBytes 64 w)).mem := by
  simp only [State.setRopeRec, State.setObj_mem]

/-- The objects by which the management processor finds and reaches the rope record: the tables of R238, its stage key and
ROPE_BASE. -/
def ropeAccess : List Nat := [okey 0x4040 1, okey 0x8000 3, okey 0x7000 4]

/-- The record that two states write is the same, where they agree on memory and on the way to it. -/
theorem setRopeRec_mem_of_only {s t : State} {ps : List Part} (h : Only ps s t)
    (hparts : ∀ p ∈ [Part.mem, .poison, .spans, .regions], p ∉ ps)
    (hobj : ∀ a b, okey a b ∈ ropeAccess → t.obj a b = s.obj a b) (w : Nat) :
    (t.setRopeRec w).mem = (s.setRopeRec w).mem := by
  have hpoison := hparts .poison (by decide)
  have hmem := hparts .mem (by decide)
  have hwalk : ∀ va, t.walk va = s.walk va := fun va => by
    rw [State.walk, walkFrom_of_only h hpoison hmem (hparts .spans (by decide)), hobj _ _ (by decide), State.walk]
  have hbase : t.ropeBase = s.ropeBase := hobj _ _ (by decide)
  have hkey : t.stateKey = s.stateKey := congrArg (BitVec.ofNat 8) (hobj _ _ (by decide))
  have hpages : ∀ va n, t.walkPages va n = s.walkPages va n := fun va n => by simp only [State.walkPages, hwalk]
  have hmem' : t.mem = s.mem := h.2 .mem hmem
  rw [State.setRopeRec_mem, State.setRopeRec_mem, hbase, State.mpWrite, State.mpWrite, hpages, hkey,
    xlate_of_only h (hparts .regions (by decide)) hpoison]
  split
  · simp only [State.writeBytes, hmem']
  · exact hmem'

/-! ### Deltas held and discarded (R345) -/

/-- Neither a delta that is discarded nor one that is held changes an object but its count and the log's. -/
theorem State.deltaGone_obj (s : State) (site : Nat) {a b : Nat} (h : okey a b ∈ ropeAccess) :
    (s.deltaGone site).obj a b = s.obj a b := by
  have hne : ∀ k ∈ ropeAccess, k ≠ okey 0x7005 9 ∧ k ≠ okey 0x9004 2 ∧ k ≠ okey 0x9004 3 := by decide
  obtain ⟨hgone, htotal, hlost⟩ := hne _ h
  rw [State.deltaGone, State.log_obj _ _ _ htotal hlost, State.obj_count, if_neg hgone]

theorem State.dropHeld_obj (s : State) {a b : Nat} (h : okey a b ∈ ropeAccess) : s.dropHeld.obj a b = s.obj a b := by
  rw [State.dropHeld, State.setRope_obj]
  exact State.each_part (·.obj a b) _ _ fun t x => t.deltaGone_obj x h

theorem State.holdDelta_obj (s : State) (site round : Nat) (vals : Tbl Nat) {a b : Nat} (h : okey a b ∈ ropeAccess) :
    (s.holdDelta site round vals).obj a b = s.obj a b := by
  unfold State.holdDelta State.on
  dsimp only
  split
  · split
    · exact State.setRope_obj ..
    · split
      · exact State.setRope_obj ..
      · split
        · exact s.deltaGone_obj site h
        · rw [State.setRope_obj]
          split
          · exact s.deltaGone_obj site h
          · rfl
  · exact State.setRope_obj ..

theorem State.replicaHold_obj (s : State) (prev : Nat) (prevMembers now carry : List Nat) {a b : Nat}
    (h : okey a b ∈ ropeAccess) : (s.replicaHold prev prevMembers now carry).obj a b = s.obj a b := by
  unfold State.replicaHold
  split
  · rfl
  · exact State.each_part (·.obj a b) _ _ fun t x => by
      split
      · exact t.holdDelta_obj x prev _ h
      · rfl

/-! ### PREPARE at a replica (R343) -/

/-- What a replica does with the deltas it holds, before it takes the round of a PREPARE. -/
def State.prepareHeld (s : State) (e : List Byte) : State :=
  if bitAt (leAt e 3 1) 0 then s.dropHeld
  else s.replicaHold (rrClosed s.ropeRec) (sitesOf (rrMembers s.ropeRec)) (sitesOf (leAt e 1 1)) (sitesOf (leAt e 2 1))

theorem State.prepareHeld_frame (s : State) (e : List Byte) : Only [.rope, .objects, .ring] s (s.prepareHeld e) :=
  Only.ite (State.dropHeld_only (Only.refl _ s) (by decide)) (State.replicaHold_only (Only.refl _ s) (by decide) ..)

theorem State.prepareHeld_mem (s : State) (e : List Byte) (w : Nat) :
    ((s.prepareHeld e).setRopeRec w).mem = (s.setRopeRec w).mem :=
  setRopeRec_mem_of_only (s.prepareHeld_frame e) (by decide) (fun a b h => by
    unfold State.prepareHeld
    split
    · exact s.dropHeld_obj h
    · exact s.replicaHold_obj _ _ _ _ h) w

/-- The round of a PREPARE, as a replica records it. -/
def preparedRec (w : Nat) (e : List Byte) : Nat :=
  setFld (setFld (setFld (setFld (setFld w 507 506 rrPrepared) 503 503 (leAt e 3 1)) 463 432 (leAt e 4 4)) 399 392 (leAt e 1 1))
    391 384 (leAt e 2 1)

theorem exec_closePrepare {s : State} {e : List Byte} (hdown : s.down = false) (hleader : s.isLeader = false)
    (hentry : s.entryOk e 1 = true) : ∃ infos, exec (.closePrepare e) s =
      .next (((s.prepareHeld e).setRopeRec (preparedRec s.ropeRec e)).setRope fun r => { r with
        weights := (List.range 8).map fun x => leAt e (16 + 4 * x) 4
        closeRound := leAt e 4 4, infos := infos, unanswered := true }).answerPrepare := by
  have hrow : exec (.closePrepare e) s = execClosePrepare e s := rfl
  rw [hrow, execClosePrepare, act_up hdown]
  dsimp only
  rw [if_neg (by simp [hleader, hentry])]
  exact ⟨_, rfl⟩

/-! ### The leader closes (R342, R343) -/

theorem exec_roundDeadline {s : State} (hdown : s.down = false) (hclosable : s.closable = true) (hleader : s.isLeader = true)
    (hbid : ∀ b, s.rope.bid = some b → b.round ≠ s.pendingRound) (hround : s.pendingRound + 1 = rrRound s.ropeRec) :
    exec .roundDeadline s =
      let w := s.ropeRec
      let start := if s.pendingRound = 0 then s.rope.activeAt else 1000 * rrPrevEndUs w
      let u := s.reach (1000 * rrEndUs w + ropeBudget (s.obj 0x7002 3) (1000 * rrEndUs w - start))
      .next (u.closeWith (u.membersNow s.pendingRound) false 2) := by
  have hrow : exec .roundDeadline s = execRoundDeadline s := rfl
  rw [hrow, execRoundDeadline, act_up hdown]
  dsimp only
  rw [if_neg]
  have hnobid : ∀ b, s.rope.bid = some b → (b.round == s.pendingRound) = false := fun b h => by simpa using hbid b h
  simp only [hclosable, hleader, hround, Bool.and_self, Bool.not_true, Bool.false_or, bne_self_eq_false, Bool.or_false]
  cases h : s.rope.bid with
  | none => exact Bool.false_ne_true
  | some b => simp [hnobid b h]

/-- The record of the pending round, PREPARED, as the leader closes it without a regroup. -/
def State.closingRec (s : State) (members : List Nat) : Nat :=
  setFld (setFld (setFld (setFld (setFld s.ropeRec 507 506 rrPrepared) 503 503 0) 463 432 s.pendingRound) 399 392
    (maskOf members)) 391 384 (maskOf (members.filter fun x => (Tbl.get none s.rope.held x).isSome))

/-- The pending round is recorded: its members and weights, and that no replica has answered yet. -/
def State.closeRecorded (s : State) (members : List Nat) : State :=
  (s.setRopeRec (s.closingRec members)).setRope fun x => { x with
    weights := (List.range 8).map fun x => if members.contains x then leAt (s.infoOf x s.pendingRound) 4 4 else 0
    closeRound := s.pendingRound, acks := [], closingAt := some s.now }

/-- Its close is logged: forced (R342), or with its cause. -/
def State.closeLogged (s : State) (members : List Nat) (cause : Nat) : State :=
  if cause = 3 then (s.closeRecorded members).log 0x7009 (domMp 0)
  else (s.closeRecorded members).log 0x7008 (domMp 0) [(8, maskOf members), (8, cause)]

theorem State.closeWith_eq (s : State) (members : List Nat) {cause : Nat} (hcause : cause ≠ 0) :
    let u := s.closeLogged members cause
    s.closeWith members false cause = if u.otherReplicas = [] then u.commitClose
      else u.each u.otherReplicas fun t i => t.repairRequest i 4 0 (t.closeEntry 1) := by
  unfold State.closeWith State.on State.closeLogged
  simp only [Bool.false_eq_true, if_false, bne_iff_ne, ne_eq, hcause, not_false_eq_true, if_true, List.isEmpty_iff]
  rfl

theorem State.closeRecorded_faults (s : State) (members : List Nat) : (s.closeRecorded members).faults = s.faults := by
  rw [State.closeRecorded, State.setRope_faults]
  exact faults_of_only (State.setRopeRec_only (Only.refl _ s) (List.Subset.refl _) _) (by decide) (by decide)

theorem State.closeLogged_logged (s : State) (members : List Nat) (cause : Nat) :
    Logged s (s.closeLogged members cause) [if cause = 3 then 0x7009 else 0x7008] := by
  have hring : s.faults.ring = (s.closeRecorded members).faults.ring := by rw [s.closeRecorded_faults]
  unfold State.closeLogged
  split
  · exact logged1 hring _ _ _ (by decide)
  · exact logged1 hring _ _ _ (by decide)

/-- The log of a close leaves memory and the rope tier as they were recorded. -/
theorem State.closeLogged_keeps (s : State) (members : List Nat) (cause : Nat) :
    (s.closeLogged members cause).mem = (s.closeRecorded members).mem ∧
    (s.closeLogged members cause).rope = (s.closeRecorded members).rope := by
  unfold State.closeLogged
  split
  · exact ⟨State.log_mem .., State.log_rope ..⟩
  · exact ⟨State.log_mem .., State.log_rope ..⟩

/-- The commit recorded: APPLY_STEP is the next step, and no answer is awaited. -/
def State.commitRecorded (s : State) : State :=
  (s.setRopeRec (setFld (setFld s.ropeRec 507 506 rrCommitted) 431 400 ((recStep s.stepRec + 1) % 2 ^ 32))).setRope
    fun r => { r with closingAt := none }

theorem State.commitClose_eq (s : State) : s.commitClose =
    s.commitRecorded.each s.commitRecorded.otherReplicas fun t i => t.repairRequest i 4 0 (t.closeEntry 3) := rfl

/-! ### Answers (R343) -/

section
variable {s : State} (hunanswered : s.rope.unanswered = true) (hprepared : rrState s.ropeRec = rrPrepared)
include hunanswered hprepared

/-- A replica answers once the deltas of the other members are whole and those of CARRY are held. -/
theorem State.answerPrepare_eq : s.answerPrepare =
    if (∀ x ∈ (sitesOf (rrMembers s.ropeRec)).filter (· != s.ownSite), (s.deltaValues x (rrClosed s.ropeRec)).isSome = true) ∧
      ∀ x ∈ sitesOf (rrCarry s.ropeRec), (Tbl.get none s.rope.held x).isSome = true
    then (s.setRope fun r => { r with unanswered := false }).repairRequest 0 4 0 (s.closeEntry 2) else s := by
  unfold State.answerPrepare
  dsimp only
  rw [if_neg (by simp [hunanswered, hprepared])]
  simp only [Bool.and_eq_true, List.all_eq_true]

end

theorem exec_closeAck {s : State} {r : Fin 64} {e : List Byte} (hdown : s.down = false) (hleader : s.isLeader = true)
    (hentry : s.entryOk e 2 = true) (hprepared : rrState s.ropeRec = rrPrepared) (hround : leAt e 4 4 = rrClosed s.ropeRec)
    (hreplica : s.otherReplicas.contains r.val = true) :
    exec (.closeAck r e) s =
      let u := s.setRope fun x => { x with acks := insertAsc r.val x.acks }
      .next (if u.otherReplicas.all u.rope.acks.contains then u.commitClose else u) := by
  have hrow : exec (.closeAck r e) s = execCloseAck r e s := rfl
  rw [hrow, execCloseAck, act_up hdown]
  dsimp only
  rw [if_neg (by simpa [hleader, hentry, hprepared, hround] using hreplica)]

theorem exec_closeCommit {s : State} {e : List Byte} (hdown : s.down = false) (hleader : s.isLeader = false)
    (hentry : s.entryOk e 3 = true) (hprepared : rrState s.ropeRec = rrPrepared) (hround : leAt e 4 4 = rrClosed s.ropeRec) :
    exec (.closeCommit e) s =
      .next (s.setRopeRec (setFld (setFld s.ropeRec 507 506 rrCommitted) 431 400 (leAt e 8 4))) := by
  have hrow : exec (.closeCommit e) s = execCloseCommit e s := rfl
  rw [hrow, execCloseCommit, act_up hdown]
  dsimp only
  rw [if_neg (by simp [hleader, hentry, hprepared, hround])]

/-- The answers have not come in time: no answer is awaited, and the expiry is logged (R343). -/
def State.ackExpired (s : State) (t : Nat) : State :=
  ((s.reach (t + 1000 * s.obj 0x7002 7)).setRope fun r => { r with closingAt := none }).log 0x7012 (domMp 0)

theorem exec_closeAckLimitExpire {s : State} {t : Nat} (hdown : s.down = false) (hclosing : s.rope.closingAt = some t)
    (hprepared : rrState s.ropeRec = rrPrepared) :
    exec .closeAckLimitExpire s = .next (((s.ackExpired t).faultCount 9).jobFail 9) := by
  have hrow : exec .closeAckLimitExpire s = execCloseAckLimitExpire s := rfl
  rw [hrow, execCloseAckLimitExpire, act_up hdown]
  dsimp only
  rw [hclosing]
  dsimp only
  rw [if_neg (by simp [hprepared])]
  rfl

/-- Settles O41, clause by clause: each row runs once its guards are known, and the record that a replica writes at a PREPARE
is that of the state before, since a delta discarded or held moves neither memory nor the way to it. -/
theorem ropeRoundClose : Obligations.RopeRoundClose := by
  unfold Obligations.RopeRoundClose
  intro s hdown
  refine ⟨fun hclosable hleader hbid hround => exec_roundDeadline hdown hclosable hleader hbid hround, ?closes,
    ⟨s.commitRecorded, State.setRope_mem .., congrArg Rope.closingAt (State.setRope_rope ..), s.commitClose_eq⟩, ?prepares,
    ?answers, ?acks, fun e hleader hentry hprepared hround => exec_closeCommit hdown hleader hentry hprepared hround, ?expires⟩
  case closes =>
    intro members cause hcause
    obtain ⟨hmem, hrope⟩ := s.closeLogged_keeps members cause
    refine ⟨s.closeLogged members cause, s.closeLogged_logged members cause, ?_, ?_, ?_, ?_, ?_, s.closeWith_eq members hcause⟩
    · rw [hmem, State.closeRecorded, State.setRope_mem, State.closingRec]
    all_goals rw [hrope, State.closeRecorded, State.setRope_rope]
  case prepares =>
    intro e hleader hentry
    obtain ⟨infos, hexec⟩ := exec_closePrepare hdown hleader hentry
    refine ⟨_, _, hexec, rfl, ?_, ?_, ?_, ?_⟩
    · rw [State.setRope_mem, s.prepareHeld_mem, preparedRec]
    all_goals rw [State.setRope_rope]
  case answers =>
    intro members ready hunanswered hprepared
    rw [State.answerPrepare_eq hunanswered hprepared]
    exact ⟨fun hready => ⟨s.setRope fun r => { r with unanswered := false }, rfl, rfl, if_pos hready⟩,
      fun hready => if_neg hready⟩
  case acks =>
    intro r e hleader hentry hprepared hround hreplica
    rw [exec_closeAck hdown hleader hentry hprepared hround hreplica]
    exact ⟨fun hall => congrArg Host.Outcome.next (if_pos hall),
      fun hsome => congrArg Host.Outcome.next (if_neg (ne_true_of_eq_false hsome))⟩
  case expires =>
    intro t hclosing hprepared
    refine ⟨s.ackExpired t, logged1 (by simp) _ _ _ (by decide), ?_, ?_, exec_closeAckLimitExpire hdown hclosing hprepared⟩
    · rw [State.ackExpired, State.log_hall, State.setRope_hall, State.reach_hall']
    · rw [State.ackExpired, State.log_rope, State.setRope_rope]

end Sys2Proof.Machine

/-!
Rope frames received (O39): what the gateway hands on, which frames are this module's, and what each kind does.
-/
namespace Sys2Proof.Machine

/-! ### The gateway (R323) -/

/-- The gateway hands the frame on to another module of its site. -/
def State.handsOn (s : State) (f : RopeFrame) : Prop :=
  rfDstSite f.header.toNat = s.ownSite ∧ rfDstModule f.header.toNat ≠ s.moduleNumber ∧
    (List.range 64).any (s.role · == 2) = true

theorem State.atGateway_forwards {s : State} {f : RopeFrame} (run : State → State) (h : s.handsOn f) :
    s.atGateway f run = s.packetSend (rfDstModule f.header.toNat) f.header f.body := if_pos h

theorem State.atGateway_runs {s : State} {f : RopeFrame} (run : State → State) (h : ¬ s.handsOn f) :
    s.atGateway f run = run s := if_neg h

/-- A command that runs `run` on the frames that are not handed on. -/
def RunsAtGateway (f : RopeFrame) (c : Instr) (run : State → State) : Prop := ∀ s, exec c s = act s (·.atGateway f run)

theorem RunsAtGateway.forwards {f : RopeFrame} {c : Instr} {run : State → State} (h : RunsAtGateway f c run) {s : State}
    (hdown : s.down = false) (hands : s.handsOn f) :
    exec c s = .next (s.packetSend (rfDstModule f.header.toNat) f.header f.body) := by
  rw [h, act_up hdown, State.atGateway_forwards run hands]

theorem RunsAtGateway.runs {f : RopeFrame} {c : Instr} {run : State → State} (h : RunsAtGateway f c run) {s : State}
    (hdown : s.down = false) (hands : ¬ s.handsOn f) : exec c s = .next (run s) := by
  rw [h, act_up hdown, State.atGateway_runs run hands]

/-! ### The frames that are judged by their tag (R334) -/

/-- Frames in the wrong form, from or for another module, or of a session that is not open. -/
def State.Foreign (s : State) (w : Nat) : Prop :=
  rfVersion w ≠ 2 ∨ fld w 173 0 ≠ 0 ∨ rfDstSite w ≠ s.ownSite ∨ rfDstModule w ≠ s.moduleNumber ∨
    s.peerSites.contains (rfSrcSite w) = false ∨ rfSrcModule w ≠ s.peerModule (rfSrcSite w) ∨
    (sequencedKind (rfKind w) = false ∧ rfSeq w ≠ 0) ∨
    ((s.ropeSess (32 * rfSrcSite w + rfStripe w)).state ≠ .opened ∧ (s.ropeSess (32 * rfSrcSite w + rfStripe w)).state ≠ .slack)

/-- The test of the model is this one. -/
theorem State.foreign_iff (s : State) (w : Nat) :
    (rfVersion w ≠ 2 ∨ fld w 173 0 ≠ 0 ∨ rfDstSite w ≠ s.ownSite ∨ rfDstModule w ≠ s.moduleNumber ∨
      !s.peerSites.contains (rfSrcSite w) ∨ rfSrcModule w ≠ s.peerModule (rfSrcSite w) ∨
      (!sequencedKind (rfKind w) ∧ rfSeq w ≠ 0) ∨ !((s.ropeSess (32 * rfSrcSite w + rfStripe w)).state == .opened ||
        (s.ropeSess (32 * rfSrcSite w + rfStripe w)).state == .slack)) ↔ s.Foreign w := by
  simp [State.Foreign]

theorem State.openFrame_foreign {s : State} {f : RopeFrame} (h : s.Foreign f.header.toNat) :
    s.openFrame f = (s.discard, none) := by
  unfold State.openFrame
  exact if_pos ((s.foreign_iff _).mpr h)

/-- The plain body of a frame under the keys of an epoch, if its tag holds (R334, R339). -/
def KeyEpoch.plainOf (k : KeyEpoch) (f : RopeFrame) : Option (List Byte) :=
  Config.gcmOpen k.keyIn (ropeNonce k.saltIn (rfNonce f.header.toNat)) (leBytes 64 f.header.toNat)
    (f.body.take (rfBodyLen f.header.toNat)) (f.body.drop (rfBodyLen f.header.toNat))

/-- A frame whose tag fails is discarded, counted and logged (R334). -/
def State.tagFailed (s : State) (f : RopeFrame) : State :=
  (s.discard.count64 0x7005 0xB).log 0x7004 (domSession (32 * rfSrcSite f.header.toNat + rfStripe f.header.toNat))
    [(3, rfSrcSite f.header.toNat), (5, (32 * rfSrcSite f.header.toNat + rfStripe f.header.toNat) % 32)]

/-- A frame of a known epoch is judged by its tag, and its body by its CRC. -/
def State.judged (s : State) (f : RopeFrame) : Option (List Byte) → State × Option (Nat × List Byte)
  | none => (s.tagFailed f, none)
  | some body =>
    if crc32c body ≠ rfCrc f.header.toNat then (s.discard, none)
    else (s, some (32 * rfSrcSite f.header.toNat + rfStripe f.header.toNat, body))

section
variable {s : State} {f : RopeFrame} (hknown : ¬ s.Foreign f.header.toNat)
include hknown

theorem State.openFrame_noEpoch
    (hepoch : (s.ropeSess (32 * rfSrcSite f.header.toNat + rfStripe f.header.toNat)).epochOf (rfEpoch f.header.toNat) = none) :
    s.openFrame f = (s.discard, none) := by
  unfold State.openFrame
  dsimp only
  rw [if_neg (mt (s.foreign_iff _).mp hknown), hepoch]

variable {k : KeyEpoch}
  (hepoch : (s.ropeSess (32 * rfSrcSite f.header.toNat + rfStripe f.header.toNat)).epochOf (rfEpoch f.header.toNat) = some k)
include hepoch

theorem State.openFrame_length (hlength : f.body.length ≠ rfBodyLen f.header.toNat + 16) :
    s.openFrame f = (s.discard, none) := by
  unfold State.openFrame
  dsimp only
  rw [if_neg (mt (s.foreign_iff _).mp hknown), hepoch]
  exact if_pos (by omega)

variable (hlength : f.body.length = rfBodyLen f.header.toNat + 16)
include hlength

/-- What the frame's cipher answers decides. -/
theorem State.openFrame_judged : s.openFrame f = s.judged f (k.plainOf f) := by
  have hbody : f.body.length - 16 = rfBodyLen f.header.toNat := by omega
  unfold State.openFrame KeyEpoch.plainOf
  dsimp only
  rw [if_neg (mt (s.foreign_iff _).mp hknown), hepoch]
  dsimp only
  rw [hbody, if_neg (by omega)]
  generalize Config.gcmOpen _ _ _ _ _ = plain
  cases plain <;> rfl

end

/-- A frame that passes names its stripe. -/
theorem State.openFrame_stripe {s t : State} {f : RopeFrame} {x : Nat} {body : List Byte}
    (h : s.openFrame f = (t, some (x, body))) : x = 32 * rfSrcSite f.header.toNat + rfStripe f.header.toNat := by
  unfold State.openFrame at h
  dsimp only at h
  split at h
  · cases h
  · split at h
    · cases h
    · split at h
      · cases h
      · split at h
        · cases h
        · split at h
          · cases h
          · cases h
            rfl

/-! ### Frames that R334 refuses -/

theorem State.receiveFrame_refused {s t : State} {f : RopeFrame} {kind : Nat} (effect : State → Nat → List Byte → Option State)
    (hkind : rfKind f.header.toNat = kind) (h : s.openFrame f = (t, none)) : s.receiveFrame f kind effect = t := by
  unfold State.receiveFrame
  dsimp only
  rw [if_neg (by simp [hkind]), h]

theorem State.receiveSack_refused {s t : State} {f : RopeFrame} (hkind : rfKind f.header.toNat = 4)
    (h : s.openFrame f = (t, none)) : s.receiveSack f = t := by
  unfold State.receiveSack
  dsimp only
  split
  · rw [h]
    rfl
  · exact State.receiveFrame_refused _ hkind h

theorem State.receiveProbe_refused {s t : State} {f : RopeFrame} (hkind : rfKind f.header.toNat = 0xB)
    (h : s.openFrame f = (t, none)) : s.receiveProbe f = t := by
  unfold State.receiveProbe
  dsimp only
  rw [if_neg (by simp [hkind]), h]

/-- The commands of the frames under a tag, each with its kind (R331). -/
def taggedRows (f : RopeFrame) : List (Instr × Nat) :=
  [(.ropeDelta f, 3), (.ropeSack f, 4), (.roundInfo f, 5), (.rekey f, 6), (.rekeyAck f, 7), (.regroup f, 8), (.ropeBelay f, 9),
    (.probe f, 0xB)]

/-- Each judges its frame first, and of one that is refused leaves what the judgement leaves. -/
theorem taggedRow_judges {f : RopeFrame} {r : Instr × Nat} (hr : r ∈ taggedRows f) : ∃ run, RunsAtGateway f r.1 run ∧
    ∀ s t : State, rfKind f.header.toNat = r.2 → s.openFrame f = (t, none) → run s = t := by
  simp only [taggedRows, List.mem_cons, List.not_mem_nil, or_false] at hr
  obtain rfl | rfl | rfl | rfl | rfl | rfl | rfl | rfl := hr
  · exact ⟨(·.receiveDelta f), fun _ => rfl, fun _ _ hkind h => State.receiveFrame_refused _ hkind h⟩
  · exact ⟨(·.receiveSack f), fun _ => rfl, fun _ _ hkind h => State.receiveSack_refused hkind h⟩
  · exact ⟨(·.receiveInfo f), fun _ => rfl, fun _ _ hkind h => State.receiveFrame_refused _ hkind h⟩
  · exact ⟨(·.receiveRekey f), fun _ => rfl, fun _ _ hkind h => State.receiveFrame_refused _ hkind h⟩
  · exact ⟨(·.receiveRekeyAck f), fun _ => rfl, fun _ _ hkind h => State.receiveFrame_refused _ hkind h⟩
  · exact ⟨(·.receiveRegroup f), fun _ => rfl, fun _ _ hkind h => State.receiveFrame_refused _ hkind h⟩
  · exact ⟨(·.receiveBelay f), fun _ => rfl, fun _ _ hkind h => State.receiveFrame_refused _ hkind h⟩
  · exact ⟨(·.receiveProbe f), fun _ => rfl, fun _ _ hkind h => State.receiveProbe_refused hkind h⟩

theorem exec_taggedRow_refused {s t : State} {f : RopeFrame} {r : Instr × Nat} (hdown : s.down = false)
    (hands : ¬ s.handsOn f) (hr : r ∈ taggedRows f) (hkind : rfKind f.header.toNat = r.2) (h : s.openFrame f = (t, none)) :
    exec r.1 s = .next t := by
  obtain ⟨run, hruns, hjudges⟩ := taggedRow_judges hr
  rw [hruns.runs hdown hands, hjudges s t hkind h]

/-- Every command of a received frame begins at the gateway. -/
theorem ropeCommand_atGateway {f : RopeFrame} {c : Instr}
    (hc : c ∈ [Instr.ropeOpen f, .ropeAccept f] ++ (taggedRows f).map (·.1)) : ∃ run, RunsAtGateway f c run := by
  rw [List.mem_append] at hc
  rcases hc with hclear | htagged
  · simp only [List.mem_cons, List.not_mem_nil, or_false] at hclear
    obtain rfl | rfl := hclear
    · exact ⟨(·.receiveOpen f), fun _ => rfl⟩
    · exact ⟨(·.takeAccept f), fun _ => rfl⟩
  · obtain ⟨r, hr, rfl⟩ := List.mem_map.mp htagged
    obtain ⟨run, hruns, -⟩ := taggedRow_judges hr
    exact ⟨run, hruns⟩

theorem State.tagFailed_logged (s : State) (f : RopeFrame) :
    Logged s (s.tagFailed f) [0x7004] ∧ (s.tagFailed f).rope.sess = s.rope.sess ∧
    (s.tagFailed f).obj 0x7005 0xB = (s.obj 0x7005 0xB + 1) % 2 ^ 64 := by
  refine ⟨logged1 (by simp [State.discard]) _ _ _ (by decide), ?_, ?_⟩
  · rw [State.tagFailed, State.log_rope, State.count64_rope, State.discard, State.setRope_rope]
  · rw [State.tagFailed, State.log_obj _ _ _ (by decide) (by decide), State.obj_count64, if_pos rfl, State.discard,
      State.setRope_obj]

/-! ### Sequenced frames (R332, R336) -/

/-- What becomes of a sequenced frame on an open stripe: by whether it is of the window and new (`RopeSess.fresh`), and by
the effect of its content, none where it is refused. -/
def State.takeSequenced (s : State) (w x : Nat) : Option Bool → Option State → State
  | none, _ => s.discard
  | some false, _ => (s.setRope fun r => { r with duplicates := r.duplicates + 1 }).noteFrame x w false
  | some true, none => s.discard.log 0x7014 (domSession x) [(3, x / 32), (5, x % 32)]
  | some true, some t => t.noteFrame x w true

section
variable {s : State} {f : RopeFrame} {kind x : Nat} {body : List Byte} (effect : State → Nat → List Byte → Option State)
  (hkind : rfKind f.header.toNat = kind) (hopen : s.openFrame f = (s, some (x, body)))
  (hstate : (s.ropeSess x).state = .opened)
include hkind hopen hstate

theorem State.receiveFrame_sequenced (hsequenced : sequencedKind kind = true) : s.receiveFrame f kind effect =
    s.takeSequenced f.header.toNat x ((s.ropeSess x).fresh (rfSeq f.header.toNat)) (effect s x body) := by
  unfold State.receiveFrame
  dsimp only
  rw [if_neg (by simp [hkind]), hopen]
  dsimp only
  rw [if_neg (by simp [hstate]), if_pos hsequenced]
  generalize (s.ropeSess x).fresh _ = fresh
  generalize effect s x body = taken
  rcases fresh with - | - | -
  · rfl
  · rfl
  · cases taken <;> rfl

theorem State.receiveFrame_unsequenced (hsequenced : sequencedKind kind = false) {t : State}
    (heffect : effect s x body = some t) : s.receiveFrame f kind effect = t.noteFrame x f.header.toNat true := by
  unfold State.receiveFrame
  dsimp only
  rw [if_neg (by simp [hkind]), hopen]
  dsimp only
  rw [if_neg (by simp [hstate]), if_neg (by simp [hsequenced]), heffect]

end

/-- The commands of the sequenced frames, each with its kind and the effect of the content in `s` (R332). -/
def State.sequencedRows (s : State) (f : RopeFrame) (x : Nat) (body : List Byte) : List (Instr × Nat × Option State) :=
  let w := f.header.toNat
  [(.ropeDelta f, 3, s.takeDelta w x body), (.roundInfo f, 5, s.takeInfo x body), (.rekey f, 6, s.takeRekey w x body),
    (.rekeyAck f, 7, s.takeRekeyAck w x body), (.regroup f, 8, s.takeRegroup w x body), (.ropeBelay f, 9, s.takeBelay w x body)]

theorem sequencedRow_receives {s : State} {f : RopeFrame} {x : Nat} {body : List Byte} {r : Instr × Nat × Option State}
    (hr : r ∈ s.sequencedRows f x body) : sequencedKind r.2.1 = true ∧ ∃ effect : State → Nat → List Byte → Option State,
      RunsAtGateway f r.1 (·.receiveFrame f r.2.1 effect) ∧ effect s x body = r.2.2 := by
  simp only [State.sequencedRows, List.mem_cons, List.not_mem_nil, or_false] at hr
  obtain rfl | rfl | rfl | rfl | rfl | rfl := hr
  · exact ⟨rfl, fun s x body => s.takeDelta f.header.toNat x body, fun _ => rfl, rfl⟩
  · exact ⟨rfl, (·.takeInfo), fun _ => rfl, rfl⟩
  · exact ⟨rfl, fun s x body => s.takeRekey f.header.toNat x body, fun _ => rfl, rfl⟩
  · exact ⟨rfl, fun s x body => s.takeRekeyAck f.header.toNat x body, fun _ => rfl, rfl⟩
  · exact ⟨rfl, fun s x body => s.takeRegroup f.header.toNat x body, fun _ => rfl, rfl⟩
  · exact ⟨rfl, fun s x body => s.takeBelay f.header.toNat x body, fun _ => rfl, rfl⟩

theorem exec_sequencedRow {s : State} {f : RopeFrame} {x : Nat} {body : List Byte} {r : Instr × Nat × Option State}
    (hdown : s.down = false) (hands : ¬ s.handsOn f) (hopen : s.openFrame f = (s, some (x, body)))
    (hr : r ∈ s.sequencedRows f x body) (hkind : rfKind f.header.toNat = r.2.1) (hstate : (s.ropeSess x).state = .opened) :
    exec r.1 s = .next (s.takeSequenced f.header.toNat x ((s.ropeSess x).fresh (rfSeq f.header.toNat)) r.2.2) := by
  obtain ⟨hsequenced, effect, hruns, heffect⟩ := sequencedRow_receives hr
  rw [hruns.runs hdown hands, State.receiveFrame_sequenced effect hkind hopen hstate hsequenced, heffect]

/-- A frame whose content is refused is discarded and logged. -/
theorem State.contentRefused_logged (s : State) (w x : Nat) : let t := s.takeSequenced w x (some true) none
    Logged s t [0x7014] ∧ t.rope.sess = s.rope.sess ∧ t.rope.discarded = s.rope.discarded + 1 := by
  refine ⟨logged1 (by simp [State.discard]) _ _ _ (by decide), ?_, ?_⟩
  all_goals rw [State.takeSequenced, State.log_rope, State.discard, State.setRope_rope]

/-! ### SACK (R337) -/

/-- A frame that is not sequenced leaves what its stripe acknowledges and holds. -/
theorem State.noteFrame_unsequenced (s : State) {x w : Nat} (fresh : Bool) (h : sequencedKind (rfKind w) = false) :
    ∃ v : RopeSess, s.noteFrame x w fresh = s.setSess x v ∧ v.state = (s.ropeSess x).state ∧ v.srtt = (s.ropeSess x).srtt ∧
      v.cumOut = (s.ropeSess x).cumOut ∧ v.unacked = (s.ropeSess x).unacked := by
  unfold State.noteFrame
  dsimp only
  rw [if_pos (by simp [h])]
  exact ⟨_, rfl, rfl, rfl, rfl, rfl⟩

theorem RopeSess.retireOut_keeps (v : RopeSess) :
    v.retireOut.srtt = v.srtt ∧ v.retireOut.cumOut = v.cumOut ∧ v.retireOut.unacked = v.unacked := by
  unfold RopeSess.retireOut
  split
  · split <;> exact ⟨rfl, rfl, rfl⟩
  · exact ⟨rfl, rfl, rfl⟩

/-- A SACK of the right form: the smoothed round-trip time, CUM, and the frames that it leaves unacknowledged. -/
theorem State.takeSack_takes (s : State) {x : Nat} {body : List Byte} (hlength : body.length = 576)
    (hreserved : leAt body 16 48 = 0) : ∃ v' : RopeSess, s.takeSack x body = some (s.setSess x v') ∧
      let v := s.ropeSess x
      v'.srtt = (7 * v.srtt + 1000 * (s.now / 1000 - leAt body 4 8 - leAt body 12 4)) / 8 ∧
      v'.cumOut = (if serialLt v.cumOut (leAt body 0 4) then leAt body 0 4 else v.cumOut) ∧
      v'.unacked.map (·.seq) = (v.unacked.map (·.seq)).filter fun q =>
        !(serialLt q (leAt body 0 4) || (sackSeqs (leAt body 0 4) (body.drop 64)).contains q) := by
  unfold State.takeSack
  dsimp only
  rw [if_neg (by simp [hlength, hreserved])]
  refine ⟨_, rfl, ?_⟩
  obtain ⟨hsrtt, hcum, hunacked⟩ := RopeSess.retireOut_keeps _
  rw [hsrtt, hcum, hunacked]
  refine ⟨rfl, rfl, ?_⟩
  rw [List.map_map, List.filter_map]
  refine List.map_congr_left fun g _ => ?_
  dsimp only [Function.comp]
  split <;> rfl

theorem State.receiveSack_opened {s : State} {f : RopeFrame} {x : Nat} {body : List Byte}
    (hopen : s.openFrame f = (s, some (x, body))) (hstate : (s.ropeSess x).state = .opened) :
    s.receiveSack f = s.receiveFrame f 4 (·.takeSack) := by
  unfold State.receiveSack
  dsimp only
  rw [← State.openFrame_stripe hopen, if_neg (by simp [hstate])]

theorem State.receiveSack_slack {s : State} {f : RopeFrame} {x : Nat} {body : List Byte}
    (hopen : s.openFrame f = (s, some (x, body))) (hkind : rfKind f.header.toNat = 4)
    (hstate : (s.ropeSess (32 * rfSrcSite f.header.toNat + rfStripe f.header.toNat)).state = .slack) :
    s.receiveSack f = s.leaveSlack (rfSrcSite f.header.toNat) := by
  unfold State.receiveSack
  dsimp only
  rw [if_pos ⟨hstate, hkind⟩, hopen]
  rfl

/-! ### PROBE (R346) -/

/-- Every open stripe toward a site closes, and keeps the frames that it holds. -/
def State.closeSite (s : State) (site : Nat) : State :=
  s.each (sessionsTo site) fun t y =>
    if (t.ropeSess y).state = .opened then
      t.mapSess y fun v => { RopeSess.reset with queue := v.heldFrames, pace := s.now }
    else t

theorem State.closeSite_out (s : State) (site : Nat) : (s.closeSite site).out = s.out :=
  State.each_part (·.out) _ _ fun t y => by split <;> rfl

theorem State.closeSite_closed (s : State) (site : Nat) {k : Nat} (hk : k < 32) :
    ((s.closeSite site).ropeSess (32 * site + k)).state ≠ .opened := by
  refine each_makes (P := fun t : State => (t.ropeSess (32 * site + k)).state ≠ .opened)
    (List.mem_map.mpr ⟨k, List.mem_range.mpr hk, rfl⟩) (fun t => ?_) (fun t y ht => ?_) s
  · split
    · rw [State.ropeSess_mapSess]
      exact show SessState.closed ≠ .opened by decide
    · assumption
  · split
    · next hopened =>
      have hne : 32 * site + k ≠ y := fun h => ht (h ▸ hopened)
      rwa [State.mapSess, State.ropeSess_setSess_other _ _ hne]
    · exact ht

/-- A SACK has been sent at once, if the tokens allow it. -/
def State.sackSent (s : State) (x : Nat) : State :=
  (s.transmit x 4 false 0 0 0 0 0 (sackBody (s.ropeSess x) s.now)).getD s

/-- A PROBE to an open session is answered, and every stripe toward its site closes. -/
theorem State.receiveProbe_opened {s : State} {f : RopeFrame} {x : Nat} (hkind : rfKind f.header.toNat = 0xB)
    (hopen : s.openFrame f = (s, some (x, []))) (hstate : (s.ropeSess x).state = .opened) :
    ∃ u : State, s.receiveProbe f = u.leaveSlack (x / 32) ∧ u.out = ((s.noteFrame x f.header.toNat true).sackSent x).out ∧
      ∀ k < 32, (u.ropeSess (32 * (x / 32) + k)).state ≠ .opened := by
  have hsequenced : sequencedKind (rfKind f.header.toNat) = false := by
    rw [hkind]
    rfl
  obtain ⟨v, hnote, hnoted, -⟩ := s.noteFrame_unsequenced (x := x) true hsequenced
  have hslack : ¬ ((s.noteFrame x f.header.toNat true).ropeSess x).state = .slack := by
    rw [hnote, State.ropeSess_setSess, hnoted, hstate]
    decide
  refine ⟨((s.noteFrame x f.header.toNat true).sackSent x).closeSite (x / 32), ?_, State.closeSite_out .., fun k hk =>
    State.closeSite_closed _ _ hk⟩
  unfold State.receiveProbe
  dsimp only
  rw [if_neg (by simp [hkind]), hopen]
  dsimp only
  rw [if_neg (by simp), if_neg hslack]
  rfl

/-! ### A session opens (R335, R339) -/

/-- A stripe open in key epoch 0, with SEQ from 0 in both directions. -/
def State.OpenedAfresh (s : State) (x : Nat) : Prop :=
  (s.ropeSess x).state = .opened ∧ (s.ropeSess x).cur.number = 0 ∧ (s.ropeSess x).txSeq = 0 ∧ (s.ropeSess x).rxCum = 0

theorem State.openStripe_afresh (s : State) (ss th : List Byte) (x window : Nat) :
    (s.openStripe ss th x window).OpenedAfresh x := by
  rw [State.OpenedAfresh, State.openStripe, State.ropeSess_setSess]
  exact ⟨rfl, rfl, rfl, rfl⟩

theorem State.OpenedAfresh.openStripe {s : State} {x : Nat} (h : s.OpenedAfresh x) (ss th : List Byte) (y window : Nat) :
    (s.openStripe ss th y window).OpenedAfresh x := by
  by_cases hxy : x = y
  · rw [hxy]
    exact s.openStripe_afresh ss th y window
  · rwa [State.OpenedAfresh, State.openStripe, State.ropeSess_setSess_other _ _ hxy]

/-- The peer as the agreement leaves it. -/
def State.agreePeer (s : State) (site stripes window : Nat) (idKey : List Byte) : State :=
  s.setPeer site { s.ropePeer site with
    opening := none, answered := false, stripes := stripes, window := window, epochAt := s.now, rekey := none
    rekeyDue := false, idKey := idKey }

/-- The agreed stripes that have not been retired open. -/
def State.openStripes (s : State) (site stripes window : Nat) (ss th : List Byte) : State :=
  s.each ((List.range stripes).filter fun k => !s.faults.deadSessions.contains (32 * site + k)) fun t k =>
    t.openStripe ss th (32 * site + k) window

/-- The opening is logged, and that a slack session has left slack (R347). -/
def State.openLogged (s : State) (site : Nat) (wasSlack : Bool) : State :=
  (s.log 0x7001 (domSession (32 * site)) [(3, site)]).on wasSlack fun s =>
    (s.log 0x7007 (domSession (32 * site)) [(3, site)]).setRope fun r => { r with trigger := true }

theorem State.openSession_eq (s : State) (site stripes window : Nat) (ss th idKey : List Byte) :
    s.openSession site stripes window ss th idKey =
      ((s.agreePeer site stripes window idKey).openStripes site stripes window ss th).openLogged site (s.siteSlack site) := rfl

theorem State.openStripes_afresh {s : State} {site stripes k : Nat} (window : Nat) (ss th : List Byte) (hk : k < stripes)
    (hlive : s.faults.deadSessions.contains (32 * site + k) = false) :
    (s.openStripes site stripes window ss th).OpenedAfresh (32 * site + k) :=
  each_makes (P := fun t : State => t.OpenedAfresh (32 * site + k))
    (List.mem_filter.mpr ⟨List.mem_range.mpr hk, by rw [hlive]; rfl⟩)
    (fun t => t.openStripe_afresh ss th _ window) (fun t y ht => ht.openStripe ss th _ window) s

theorem State.openStripes_ropePeer (s : State) (site stripes window : Nat) (ss th : List Byte) (n : Nat) :
    (s.openStripes site stripes window ss th).ropePeer n = s.ropePeer n :=
  State.each_part (·.ropePeer n) _ _ fun _ _ => rfl

/-- The log leaves stripes and peers. -/
theorem State.openLogged_keeps (s : State) (site : Nat) (wasSlack : Bool) :
    (∀ x, (s.openLogged site wasSlack).ropeSess x = s.ropeSess x) ∧
    ∀ n, (s.openLogged site wasSlack).ropePeer n = s.ropePeer n := by
  unfold State.openLogged State.on
  split
  · exact ⟨fun x => ((State.ropeSess_log ..).trans (State.ropeSess_log ..) :),
      fun n => ((State.ropePeer_log ..).trans (State.ropePeer_log ..) :)⟩
  · exact ⟨fun x => State.ropeSess_log .., fun n => State.ropePeer_log ..⟩

theorem State.openSession_afresh {s : State} {site stripes k : Nat} (window : Nat) (ss th idKey : List Byte)
    (hk : k < stripes) (hlive : s.faults.deadSessions.contains (32 * site + k) = false) :
    (s.openSession site stripes window ss th idKey).OpenedAfresh (32 * site + k) := by
  rw [State.openSession_eq, State.OpenedAfresh, (State.openLogged_keeps ..).1]
  exact State.openStripes_afresh window ss th hk hlive

theorem State.openSession_ropePeer (s : State) (site stripes window : Nat) (ss th idKey : List Byte) :
    (s.openSession site stripes window ss th idKey).ropePeer site = { s.ropePeer site with
      opening := none, answered := false, stripes := stripes, window := window, epochAt := s.now, rekey := none
      rekeyDue := false, idKey := idKey } := by
  rw [State.openSession_eq, (State.openLogged_keeps ..).2, State.openStripes_ropePeer, State.agreePeer, State.ropePeer_setPeer]

/-! ### Tokens (R338) -/

theorem State.takeTokens_takes {s : State} {site n : Nat}
    (hpeer : n ≤ refill (s.ropePeer site).tokens (s.ropePeer site).tokensAt (s.peerRate site) s.now)
    (htotal : n ≤ refill s.rope.tokens s.rope.tokensAt (s.obj 0x7003 1) s.now) :
    ∃ t, s.takeTokens site n = some t ∧ Only [.rope] s t := by
  have h : ∃ t, s.takeTokens site n = some t := ⟨_, if_pos ⟨hpeer, htotal⟩⟩
  obtain ⟨t, ht⟩ := h
  exact ⟨t, ht, (State.takeTokens_only (parts := [.rope]) (Only.refl _ s) (by decide) site n).get ht⟩

/-! ### OPEN (R335, R349) -/

/-- An OPEN that the leader answers when its tokens suffice. -/
structure State.OpenOk (s : State) (f : RopeFrame) : Prop where
  loaded : s.job.loaded = true
  leader : s.isLeader = true
  order : rfSrcSite f.header.toNat < s.ownSite ∨ bitAt (leAt f.body 3 1) 0 = true
  clear : s.clearFrameOk f 1 = true
  length : f.body.length = 6461
  least : leAt f.body 0 1 ≤ 2
  most : 2 ≤ leAt f.body 1 1
  stripes : 1 ≤ leAt f.body 2 1
  stripesMax : leAt f.body 2 1 ≤ 32
  flags : leAt f.body 3 1 ≤ 1
  window : 1024 ≤ leAt f.body 4 4
  windowMax : leAt f.body 4 4 ≤ 1048576
  reserved : leAt f.body 8 8 = 0
  peer : s.peerStripes (rfSrcSite f.header.toNat) ≠ 0
  key : Config.sha3 ((f.body.drop 1200).take 1952) = s.peerHash (rfSrcSite f.header.toNat)
  signed : Config.mldsaVerify ((f.body.drop 1200).take 1952) (signedHeader f.header.toNat ++ f.body.take 3152)
    (f.body.drop 3152) = true

/-- The kind of a frame in clear that passes. -/
theorem State.clearFrameOk_kind {s : State} {f : RopeFrame} {kind : Nat} (h : s.clearFrameOk f kind = true) :
    rfKind f.header.toNat = kind := by
  simp only [State.clearFrameOk, Bool.and_eq_true, beq_iff_eq] at h
  obtain ⟨⟨⟨⟨⟨⟨⟨⟨-, hkind⟩, -⟩, -⟩, -⟩, -⟩, -⟩, -⟩, -⟩ := h
  exact hkind

/-- An OPEN that is answered opens the session, and notes whether it is a joiner's. -/
theorem State.OpenOk.takeOpen {s : State} {f : RopeFrame} (h : s.OpenOk f)
    (hpeer : 6429 ≤ refill (s.ropePeer (rfSrcSite f.header.toNat)).tokens (s.ropePeer (rfSrcSite f.header.toNat)).tokensAt
      (s.peerRate (rfSrcSite f.header.toNat)) s.now)
    (htotal : 6429 ≤ refill s.rope.tokens s.rope.tokensAt (s.obj 0x7003 1) s.now) :
    ∃ (v : State) (ss th key : List Byte), v.faults.deadSessions = s.faults.deadSessions ∧
      let u := v.openSession (rfSrcSite f.header.toNat) (min (leAt f.body 2 1) (s.peerStripes (rfSrcSite f.header.toNat)))
        (min (leAt f.body 4 4) (s.obj 0x7003 2)) ss th key
      s.takeOpen f = u.setPeer (rfSrcSite f.header.toNat)
        { u.ropePeer (rfSrcSite f.header.toNat) with joining := bitAt (leAt f.body 3 1) 0 } := by
  have horder : ¬ (s.ownSite ≤ rfSrcSite f.header.toNat ∧ bitAt (leAt f.body 3 1) 0 = false) := by
    rcases h.order with hlt | hjoin
    · omega
    · simp [hjoin]
  obtain ⟨t, ht, htokens⟩ := State.takeTokens_takes (s := s.draw.2) (n := 6429) hpeer htotal
  have hbody : ¬ (f.body.length ≠ 6461 ∨ 2 < leAt f.body 0 1 ∨ leAt f.body 1 1 < 2 ∨ leAt f.body 2 1 = 0 ∨
      32 < leAt f.body 2 1 ∨ 1 < leAt f.body 3 1 ∨ leAt f.body 4 4 < 1024 ∨ 1048576 < leAt f.body 4 4 ∨
      leAt f.body 8 8 ≠ 0 ∨ s.peerStripes (rfSrcSite f.header.toNat) = 0) := by
    obtain ⟨-, -, -, -, hlength, hleast, hmost, hstripes, hstripesMax, hflags, hwindow, hwindowMax, hreserved, hconfigured,
      -, -⟩ := h
    omega
  unfold State.takeOpen
  dsimp only
  rw [if_neg (by simp [State.clearFrameOk_kind h.clear]), if_neg (by simp [h.clear]),
    if_neg (by simpa [h.loaded, h.leader] using horder), if_neg hbody, if_neg (by rw [h.signed]; simp [h.key]), ht]
  dsimp only
  refine ⟨t.routeFrame 0 _ _, _, _, _, ?_, rfl⟩
  have hrouted := fun head body => State.routeFrame_only (Only.refl _ t) (List.Subset.refl _) 0 head body
  exact (deadSessions_of_only (hrouted _ _) (by decide)).trans ((deadSessions_of_only htokens (by decide)).trans rfl)

/-- That a peer joins is forgotten, until its OPEN says so. -/
def State.joinForgotten (s : State) (site : Nat) : State := s.setPeer site { s.ropePeer site with joining := false }

theorem State.OpenOk.joinForgotten {s : State} {f : RopeFrame} (h : s.OpenOk f) (site : Nat) :
    (s.joinForgotten site).OpenOk f :=
  ⟨h.loaded, h.leader, h.order, h.clear, h.length, h.least, h.most, h.stripes, h.stripesMax, h.flags, h.window, h.windowMax,
    h.reserved, h.peer, h.key, h.signed⟩

/-- What an OPEN leaves that is answered: the session agreed and open, and a joiner is sent the belay by its sponsor. -/
theorem State.OpenOk.receiveOpen {s : State} {f : RopeFrame} (h : s.OpenOk f)
    (hpeer : 6429 ≤ refill (s.ropePeer (rfSrcSite f.header.toNat)).tokens (s.ropePeer (rfSrcSite f.header.toNat)).tokensAt
      (s.peerRate (rfSrcSite f.header.toNat)) s.now)
    (htotal : 6429 ≤ refill s.rope.tokens s.rope.tokensAt (s.obj 0x7003 1) s.now) :
    let site := rfSrcSite f.header.toNat
    let n := min (leAt f.body 2 1) (s.peerStripes site)
    ∃ u : State, (u.ropePeer site).stripes = n ∧ (u.ropePeer site).window = min (leAt f.body 4 4) (s.obj 0x7003 2) ∧
      (∀ k < n, s.faults.deadSessions.contains (32 * site + k) = false → u.OpenedAfresh (32 * site + k)) ∧
      s.receiveOpen f = if bitAt (leAt f.body 3 1) 0 && u.isSponsor site then u.sendBelay site else u := by
  intro site n
  have htokens : ∀ rate now, refill ((s.joinForgotten site).ropePeer site).tokens
      ((s.joinForgotten site).ropePeer site).tokensAt rate now = refill (s.ropePeer site).tokens (s.ropePeer site).tokensAt rate now := fun rate now => by
    rw [State.joinForgotten, State.ropePeer_setPeer]
  obtain ⟨v, ss, th, key, hdead, htake⟩ := (h.joinForgotten site).takeOpen ((htokens _ _).symm ▸ hpeer) htotal
  refine ⟨(s.joinForgotten site).takeOpen f, ?_, ?_, fun k hk hlive => ?_, ?_⟩
  · rw [htake, State.ropePeer_setPeer, State.openSession_ropePeer]
    rfl
  · rw [htake, State.ropePeer_setPeer, State.openSession_ropePeer]
    rfl
  · rw [htake]
    exact State.openSession_afresh _ ss th key hk (by rw [hdead]; exact hlive)
  · have hjoining : (((s.joinForgotten site).takeOpen f).ropePeer site).joining = bitAt (leAt f.body 3 1) 0 := by
      rw [htake, State.ropePeer_setPeer]
    rw [← hjoining]
    rfl

/-! ### ACCEPT (R335) -/

/-- An ACCEPT that answers this module's OPEN `o`. -/
structure State.AcceptOk (s : State) (f : RopeFrame) (o : Handshake) : Prop where
  opening : (s.ropePeer (rfSrcSite f.header.toNat)).opening = some o
  clear : s.clearFrameOk f 2 = true
  length : f.body.length = 6365
  version : leAt f.body 0 1 = 2
  stripes : 1 ≤ leAt f.body 1 1
  stripesMax : leAt f.body 1 1 ≤ s.peerStripes (rfSrcSite f.header.toNat)
  flags : leAt f.body 2 2 = 0
  window : 1024 ≤ leAt f.body 4 4
  windowMax : leAt f.body 4 4 ≤ s.obj 0x7003 2
  reserved : leAt f.body 8 8 = 0
  key : Config.sha3 ((f.body.drop 1104).take 1952) = s.peerHash (rfSrcSite f.header.toNat)
  signed : Config.mldsaVerify ((f.body.drop 1104).take 1952)
    (signedHeader f.header.toNat ++ f.body.take 3056 ++ Config.sha3 o.sent) (f.body.drop 3056) = true

theorem State.AcceptOk.takeAccept {s : State} {f : RopeFrame} {o : Handshake} (h : s.AcceptOk f o) : ∃ ss th key : List Byte,
    s.takeAccept f = s.openSession (rfSrcSite f.header.toNat) (leAt f.body 1 1) (leAt f.body 4 4) ss th key := by
  have hbody : ¬ (f.body.length ≠ 6365 ∨ leAt f.body 0 1 ≠ 2 ∨ leAt f.body 1 1 = 0 ∨
      s.peerStripes (rfSrcSite f.header.toNat) < leAt f.body 1 1 ∨ leAt f.body 2 2 ≠ 0 ∨ leAt f.body 4 4 < 1024 ∨
      s.obj 0x7003 2 < leAt f.body 4 4 ∨ leAt f.body 8 8 ≠ 0) := by
    obtain ⟨-, -, hlength, hversion, hstripes, hstripesMax, hflags, hwindow, hwindowMax, hreserved, -, -⟩ := h
    omega
  unfold State.takeAccept
  dsimp only
  rw [h.opening]
  dsimp only
  rw [if_neg (by simp [State.clearFrameOk_kind h.clear]), if_neg (by simp [h.clear]), if_neg hbody,
    if_neg (by rw [h.signed]; simp [h.key])]
  exact ⟨_, _, _, rfl⟩

/-! ### The statement, row by row -/

section
variable {s : State} {f : RopeFrame} (hdown : s.down = false) (hands : ¬ s.handsOn f)
include hdown hands

/-- A frame that is foreign, of an epoch not held or of another length is discarded. -/
theorem exec_taggedRow_discards {r : Instr × Nat} (hr : r ∈ taggedRows f) (hkind : rfKind f.header.toNat = r.2)
    (hbad : s.Foreign f.header.toNat ∨
      (s.ropeSess (32 * rfSrcSite f.header.toNat + rfStripe f.header.toNat)).epochOf (rfEpoch f.header.toNat) = none ∨
      f.body.length ≠ rfBodyLen f.header.toNat + 16) : exec r.1 s = .next s.discard := by
  refine exec_taggedRow_refused hdown hands hr hkind ?_
  by_cases hknown : s.Foreign f.header.toNat
  · exact State.openFrame_foreign hknown
  · cases hepoch : (s.ropeSess (32 * rfSrcSite f.header.toNat + rfStripe f.header.toNat)).epochOf (rfEpoch f.header.toNat) with
    | none => exact State.openFrame_noEpoch hknown hepoch
    | some k => exact State.openFrame_length hknown hepoch (by simpa [hknown, hepoch] using hbad)

theorem exec_ropeSack_opened {x : Nat} {body : List Byte} (hopen : s.openFrame f = (s, some (x, body)))
    (hkind : rfKind f.header.toNat = 4) (hstate : (s.ropeSess x).state = .opened) (hlength : body.length = 576)
    (hreserved : leAt body 16 48 = 0) : ∃ t, exec (.ropeSack f) s = .next t ∧
      let v := s.ropeSess x
      let v' := t.ropeSess x
      v'.srtt = (7 * v.srtt + 1000 * (s.now / 1000 - leAt body 4 8 - leAt body 12 4)) / 8 ∧
      v'.cumOut = (if serialLt v.cumOut (leAt body 0 4) then leAt body 0 4 else v.cumOut) ∧
      v'.unacked.map (·.seq) = (v.unacked.map (·.seq)).filter fun q =>
        !(serialLt q (leAt body 0 4) || (sackSeqs (leAt body 0 4) (body.drop 64)).contains q) := by
  have hruns : RunsAtGateway f (.ropeSack f) (·.receiveSack f) := fun _ => rfl
  obtain ⟨v', htake, hsrtt, hcum, hunacked⟩ := s.takeSack_takes (x := x) hlength hreserved
  obtain ⟨v'', hnote, -, hsrtt', hcum', hunacked'⟩ :=
    (s.setSess x v').noteFrame_unsequenced (x := x) (w := f.header.toNat) true (by rw [hkind]; rfl)
  rw [State.ropeSess_setSess] at hsrtt' hcum' hunacked'
  refine ⟨_, hruns.runs hdown hands, ?_⟩
  rw [State.receiveSack_opened hopen hstate, State.receiveFrame_unsequenced (·.takeSack) hkind hopen hstate rfl htake, hnote]
  dsimp only
  rw [State.ropeSess_setSess, hsrtt', hcum', hunacked']
  exact ⟨hsrtt, hcum, hunacked⟩

theorem exec_ropeSack_slack {x : Nat} {body : List Byte} (hopen : s.openFrame f = (s, some (x, body)))
    (hkind : rfKind f.header.toNat = 4)
    (hstate : (s.ropeSess (32 * rfSrcSite f.header.toNat + rfStripe f.header.toNat)).state = .slack) :
    exec (.ropeSack f) s = .next (s.leaveSlack (rfSrcSite f.header.toNat)) := by
  have hruns : RunsAtGateway f (.ropeSack f) (·.receiveSack f) := fun _ => rfl
  rw [hruns.runs hdown hands, State.receiveSack_slack hopen hkind hstate]

theorem exec_probe_opened {x : Nat} (hopen : s.openFrame f = (s, some (x, []))) (hkind : rfKind f.header.toNat = 0xB)
    (hstate : (s.ropeSess x).state = .opened) :
    ∃ t u : State, exec (.probe f) s = .next t ∧ t = u.leaveSlack (x / 32) ∧
      u.out = ((s.noteFrame x f.header.toNat true).sackSent x).out ∧
      ∀ k < 32, (t.ropeSess (32 * (x / 32) + k)).state ≠ .opened := by
  have hruns : RunsAtGateway f (.probe f) (·.receiveProbe f) := fun _ => rfl
  obtain ⟨u, hprobe, hout, hclosed⟩ := State.receiveProbe_opened hkind hopen hstate
  exact ⟨_, u, by rw [hruns.runs hdown hands, hprobe], rfl, hout, hclosed⟩

theorem exec_ropeOpen (h : s.OpenOk f)
    (hpeer : 6429 ≤ refill (s.ropePeer (rfSrcSite f.header.toNat)).tokens (s.ropePeer (rfSrcSite f.header.toNat)).tokensAt
      (s.peerRate (rfSrcSite f.header.toNat)) s.now)
    (htotal : 6429 ≤ refill s.rope.tokens s.rope.tokensAt (s.obj 0x7003 1) s.now) :
    let site := rfSrcSite f.header.toNat
    let n := min (leAt f.body 2 1) (s.peerStripes site)
    ∃ t u : State, exec (.ropeOpen f) s = .next t ∧ (u.ropePeer site).stripes = n ∧
      (u.ropePeer site).window = min (leAt f.body 4 4) (s.obj 0x7003 2) ∧
      (∀ k < n, s.faults.deadSessions.contains (32 * site + k) = false → u.OpenedAfresh (32 * site + k)) ∧
      (bitAt (leAt f.body 3 1) 0 = true → u.isSponsor site = true → t = u.sendBelay site) ∧
      (bitAt (leAt f.body 3 1) 0 = false ∨ u.isSponsor site = false → t = u) := by
  have hruns : RunsAtGateway f (.ropeOpen f) (·.receiveOpen f) := fun _ => rfl
  obtain ⟨u, hagreed, hwindow, hafresh, hopen⟩ := h.receiveOpen hpeer htotal
  refine ⟨_, u, hruns.runs hdown hands, hagreed, hwindow, hafresh, fun hjoin hsponsor => ?_, fun hnot => ?_⟩
  · rw [hopen, if_pos (by simp [hjoin, hsponsor])]
  · rw [hopen, if_neg (by rcases hnot with h | h <;> simp [h])]

theorem exec_ropeAccept {o : Handshake} (h : s.AcceptOk f o) :
    let site := rfSrcSite f.header.toNat
    ∃ t, exec (.ropeAccept f) s = .next t ∧ (t.ropePeer site).stripes = leAt f.body 1 1 ∧
      (t.ropePeer site).window = leAt f.body 4 4 ∧ (t.ropePeer site).opening = none ∧
      ∀ k < leAt f.body 1 1, s.faults.deadSessions.contains (32 * site + k) = false → t.OpenedAfresh (32 * site + k) := by
  have hruns : RunsAtGateway f (.ropeAccept f) (·.takeAccept f) := fun _ => rfl
  obtain ⟨ss, th, key, haccept⟩ := h.takeAccept
  refine ⟨_, hruns.runs hdown hands, ?_⟩
  rw [haccept, State.openSession_ropePeer]
  exact ⟨rfl, rfl, rfl, fun k hk hlive => State.openSession_afresh _ ss th key hk hlive⟩

end

/-- Settles O39, clause by clause: a frame is handed on, or it is judged by its tag, and one that passes has the effect of its
kind; OPEN and ACCEPT, which come in clear, open the session once their checks hold. -/
theorem ropeFrames : Obligations.RopeFrames := by
  unfold Obligations.RopeFrames
  intro s f hdown w y forwards rows
  refine ⟨fun hands c hc => ?handedOn, fun hands r hr hkind => ?tagged,
    fun hands x body hopen => ⟨fun r hr hkind hstate => ?sequenced,
    fun hkind hstate hlength hreserved => exec_ropeSack_opened hdown hands hopen hkind hstate hlength hreserved,
    fun hkind hstate => exec_ropeSack_slack hdown hands hopen hkind hstate, fun hkind hbody hstate => ?probe⟩,
    fun hands hloaded hleader => ⟨?opens, ?accepts⟩⟩
  case handedOn =>
    obtain ⟨run, hruns⟩ := ropeCommand_atGateway hc
    exact hruns.forwards hdown hands
  case tagged =>
    intro foreign
    have hforeign : foreign ↔ s.Foreign w := by simp only [foreign, State.Foreign, ← hkind, y]
    refine ⟨fun hbad => exec_taggedRow_discards hdown hands hr hkind (hbad.imp_left hforeign.mp),
      fun hknown hlength k hepoch => ?_⟩
    have hjudged := State.openFrame_judged (mt hforeign.mpr hknown) hepoch hlength
    intro plain
    refine ⟨fun hplain => ?_, fun body hplain hcrc => ?_, fun body hplain hcrc => ?_⟩
    · obtain ⟨hlogged, hsess, hcount⟩ := s.tagFailed_logged f
      exact ⟨_, exec_taggedRow_refused hdown hands hr hkind (hjudged.trans (congrArg (s.judged f) hplain)), hlogged, hsess,
        hcount⟩
    · exact exec_taggedRow_refused hdown hands hr hkind (hjudged.trans ((congrArg (s.judged f) hplain).trans (if_pos hcrc)))
    · exact hjudged.trans ((congrArg (s.judged f) hplain).trans (if_neg (not_not_intro hcrc)))
  case sequenced =>
    have hexec := exec_sequencedRow hdown hands hopen hr hkind hstate
    refine ⟨fun u hfresh heffect => ?_, fun hfresh heffect => ?_, fun hfresh => ?_, fun hfresh => ?_⟩
    · rw [hexec, hfresh, heffect, State.takeSequenced]
    · obtain ⟨hlogged, hsess, hdiscarded⟩ := s.contentRefused_logged w x
      exact ⟨_, by rw [hexec, hfresh, heffect], hlogged, hsess, hdiscarded⟩
    · exact ⟨_, s.setRope fun r => { r with duplicates := r.duplicates + 1 }, hexec, by rw [hfresh, State.takeSequenced], rfl,
        rfl, rfl⟩
    · rw [hexec, hfresh, State.takeSequenced]
  case probe =>
    subst hbody
    exact exec_probe_opened hdown hands hopen hkind hstate
  case opens =>
    intro horder hclear hlength hleast hmost hstripes hstripesMax hflags hwindow hwindowMax hreserved hpeer hkey hsigned
      htokens htotal
    have hok : s.OpenOk f := ⟨hloaded, hleader, horder, hclear, hlength, hleast, hmost, hstripes, hstripesMax, hflags, hwindow,
      hwindowMax, hreserved, hpeer, hkey, hsigned⟩
    exact exec_ropeOpen hdown hands hok htokens htotal
  case accepts =>
    intro o hopening hclear hlength hversion hstripes hstripesMax hflags hwindow hwindowMax hreserved hkey hsigned
    have hok : s.AcceptOk f o := ⟨hopening, hclear, hlength, hversion, hstripes, hstripesMax, hflags, hwindow, hwindowMax,
      hreserved, hkey, hsigned⟩
    exact exec_ropeAccept hdown hands hok

end Sys2Proof.Machine

/-!
A session whose reset counts where its threshold is (O40). The reset of a stripe breaks the semaphores that its session
produces for (R419), and each context that waits on one of them faults and is counted under its core, in 0x4032 (R202,
R210). For core 0x4FCF05 that count would be 0x9001.05, the threshold at which a stripe retires (R422): a threshold of
2³² − 1 becomes 0, and a stripe with room for resets retires at its first. There is no such core, but the statement
speaks of every `State`.
-/
namespace Sys2Proof.Machine

/-- The core whose faults would be counted in 0x9001.05. -/
def thresholdCore : Nat := 0x4FCF05

/-- No stripe is configured toward site 0, stripe 0 may be reset 2³² − 1 times, and its session produces for semaphore 0 of
`thresholdCore`, on which context 0 of that core waits. -/
def straySession : State :=
  { State.reset with
    sems := [(64 * thresholdCore, { SemSt.reset with producer := 0x5000 })]
    ctxs := [(8 * thresholdCore, { CtxSt.reset with status := .waiting, wait := .sem 0 1 0 })] }.setObj
    0x9001 5 (2 ^ 32 - 1)

theorem straySession_holdsOnly : straySession.HoldsOnly (domSession 0) thresholdCore 0 :=
  ⟨⟨{ SemSt.reset with producer := 0x5000 }, rfl, rfl⟩, ⟨1, 0, by decide, by decide⟩, rfl⟩

/-- The stripe as its reset leaves it before its holds are released. -/
def State.stripeCleared (s : State) (x : Nat) : State :=
  (s.countSessReset x).setSess x { RopeSess.reset with queue := (s.ropeSess x).heldFrames, pace := s.now }

theorem State.stripeCleared_frame (s : State) (x : Nat) : Only [.faults, .rope] s (s.stripeCleared x) :=
  State.setSess_only (State.countSessReset_only (Only.refl _ s) (by decide) x) (by decide) x _

theorem State.resetStripe_eq (s : State) (x : Nat) : (s.countSessReset x).resetStripe x =
    (((s.stripeCleared x).releaseHolds (domSession x)).setPeer (x / 32)
      { ((s.stripeCleared x).releaseHolds (domSession x)).ropePeer (x / 32) with opening := none }).log 0x9002
        (domSession x) [(16, domSession x), (8, 0)] := rfl

/-- The reset of a stripe on whose session a context of `thresholdCore` waits. -/
theorem State.HoldsOnly.resetStripe_threshold {s : State} {x y : Nat} (h : s.HoldsOnly (domSession x) thresholdCore y) :
    ((s.countSessReset x).resetStripe x).obj 0x9001 5 = (s.obj 0x9001 5 + 1) % 2 ^ 32 := by
  have hcleared := h.of_only (s.stripeCleared_frame x) (by decide)
  rw [State.resetStripe_eq, State.log_obj _ _ _ (by decide) (by decide), State.setPeer, State.setRope_obj,
    hcleared.releaseHolds (by unfold domSession; omega) (by simp [domWithin]), State.brokenWait,
    State.ctxFault_counts _ y 4 (by decide) (by decide) (by decide), State.log_obj _ _ _ (by decide) (by decide),
    State.setSem_obj, obj_of_only (s.stripeCleared_frame x) (by decide)]

/-- The reset of a stripe leaves what is configured of its peer, and the stripes agreed with it. -/
theorem State.resetStripe_stripes (s : State) (x : Nat) :
    (((s.countSessReset x).resetStripe x).ropePeer (x / 32)).stripes = (s.ropePeer (x / 32)).stripes ∧
    ((s.countSessReset x).resetStripe x).peerStripes (x / 32) = s.peerStripes (x / 32) := by
  have hreleased := State.releaseHolds_only (Only.refl _ (s.stripeCleared x)) (List.Subset.refl _) (domSession x)
  have hreset : Only [.out, .hold, .links, .fabric, .ctxs, .sems, .movers, .rope, .objects, .ring, .msix, .alert]
      (s.countSessReset x) ((s.countSessReset x).resetStripe x) :=
    State.resetStripe_only (Only.refl _ _) (List.Subset.refl _) x
  refine ⟨?_, (peerStripes_of_only hreset (by decide) _).trans rfl⟩
  rw [State.resetStripe_eq, State.ropePeer_log, State.ropePeer_setPeer]
  have hkept := congrArg RopePeer.stripes (ropePeer_of_only hreleased (by decide) (x / 32))
  exact hkept

/-- A stripe that retires is slack where its site has no stripe left (R422). -/
theorem State.retireStripe_slack {s : State} {x : Nat} (hagreed : (s.ropePeer (x / 32)).stripes = 0)
    (hpeer : s.peerStripes (x / 32) = 0) : ((s.retireStripe x).ropeSess x).state = .slack := by
  have hnone : ∀ (u : State), (u.ropePeer (x / 32)).stripes = 0 → u.peerStripes (x / 32) = 0 →
      (u.stripesTo (x / 32)).isEmpty = true := fun u hu hu' => by simp [State.stripesTo, hu, hu']
  unfold State.retireStripe
  dsimp only
  rw [if_pos]
  · rw [State.ropeSess_log, State.ropeSess_setSess]
  · refine hnone _ ?_ ?_
    · rw [State.ropePeer_log, State.ropePeer_setSess]
      exact hagreed
    · rw [peerStripes_of_only (State.log_only (parts := [.objects, .ring]) (Only.refl _ _) (by decide) ..) (by decide)]
      exact hpeer

/-- Stripe 0 has room for 2³² − 2 resets more, and retires at its first. -/
theorem straySession_retires : ((straySession.resetSession 0).ropeSess 0).state = .slack := by
  obtain ⟨hagreed, hpeer⟩ := straySession.resetStripe_stripes 0
  have hthreshold : ((straySession.countSessReset 0).resetStripe 0).obj 0x9001 5 = 0 := by
    rw [straySession_holdsOnly.resetStripe_threshold]
    decide +kernel
  rw [State.resetSession, if_pos (by rw [hthreshold]; exact Nat.zero_le _)]
  exact State.retireStripe_slack (hagreed.trans (by decide)) (hpeer.trans (by decide))

/-- Refutes O40: in `straySession` the first reset of stripe 0, which may be reset 2³² − 1 times, takes the threshold to 0;
the stripe retires and is slack, where the last clause has it closed. The value at fault is that of the threshold after the
reset: for none of the 192 cores is the count of its faults that threshold. -/
theorem not_ropeSending : ¬ Obligations.RopeSending := by
  unfold Obligations.RopeSending
  intro h
  obtain ⟨-, -, -, -, -, -, -, -, -, -, -, -, hreset⟩ := h straySession rfl
  have hroom : straySession.sessResetsIn 0 + 1 < straySession.obj 0x9001 5 := by decide +kernel
  obtain ⟨hclosed, -⟩ := hreset 0 hroom
  exact absurd (hclosed.symm.trans straySession_retires) (by decide)

end Sys2Proof.Machine
/-!
What holds of every command: it completes, it keeps the invariant and the SVN floors, and it changes nothing outside the
parts that its row names (O1, O3, O4, O5, O6, O7, R387).
-/
namespace Sys2Proof.Machine

/-- What a command keeps (Laws/Keep.lean), row by row of the table. -/
theorem exec_keep (c : Instr) (s : State) : Keeps s (exec c s) :=
  match c with
  | .powerOn .. => execPowerOn_keep (.refl s) _
  | .powerGood .. => execPowerGood_keep (.refl s) _
  | .romBootStage => execRomBootStage_keep (.refl s)
  | .firstBootStage .. => execFirstBootStage_keep (.refl s) _
  | .linksAndTimeStage => execLinksAndTimeStage_keep (.refl s)
  | .memoryBootStage .. => execMemoryBootStage_keep (.refl s) _
  | .firstStageTimeout => execFirstStageTimeout_keep (.refl s)
  | .trialBundleTimeout => execTrialBundleTimeout_keep (.refl s)
  | .moduleWarmReset => execModuleWarmReset_keep (.refl s)
  | .moduleColdReset => execModuleColdReset_keep (.refl s)
  | .timeSymbolSend .. => execTimeSymbolSend_keep (.refl s) _
  | .timeSymbolReceive .. => execTimeSymbolReceive_keep (.refl s) _ _ _
  | .offsetEstimate => execOffsetEstimate_keep (.refl s)
  | .lockDwellExpire => execLockDwellExpire_keep (.refl s)
  | .parentLost => execParentLost_keep (.refl s)
  | .symbolTimeout => execSymbolTimeout_keep (.refl s)
  | .holdoverLimitExpire => execHoldoverLimitExpire_keep (.refl s)
  | .ppsEdge .. => execPpsEdge_keep (.refl s) _
  | .ppsEdgeMissed => execPpsEdgeMissed_keep (.refl s)
  | .ptpMessage .. => execPtpMessage_keep (.refl s) _ _
  | .ptpLossTimeout => execPtpLossTimeout_keep (.refl s)
  | .rootSourceWaitExpire => execRootSourceWaitExpire_keep (.refl s)
  | .rootBeatTick => execRootBeatTick_keep (.refl s)
  | .rootBeatTimeout => execRootBeatTimeout_keep (.refl s)
  | .rootPromote => execRootPromote_keep (.refl s)
  | .hallTimeRead .. => execHallTimeRead_keep (.refl s) _
  | .ppsOutPulse => execPpsOutPulse_keep (.refl s)
  | .ttLoad .. => execTtLoad_keep (.refl s) _
  | .bankCheck .. => execBankCheck_keep (.refl s) _
  | .switchBankArm .. => execSwitchBankArm_keep (.refl s) _
  | .switchBankDisarm .. => execSwitchBankDisarm_keep (.refl s) _
  | .bankSwitch => execBankSwitch_keep (.refl s)
  | .ttBatchArrive .. => execTtBatchArrive_keep (.refl s) _
  | .windowStart .. => execWindowStart_keep (.refl s) _
  | .windowSlotSend .. => execWindowSlotSend_keep (.refl s) _
  | .windowOpenReceive .. => execWindowOpenReceive_keep (.refl s) _ _
  | .slotLand .. => execSlotLand_keep (.refl s) _ _ _ _
  | .reduceGroupCombine .. => execReduceGroupCombine_keep (.refl s) _
  | .wakeCore .. => execWakeCore_keep (.refl s) _
  | .wakeDie .. => execWakeDie_keep (.refl s) _
  | .sleepCore .. => execSleepCore_keep (.refl s) _
  | .sleepDie .. => execSleepDie_keep (.refl s) _
  | .eventSemPost .. => execEventSemPost_keep (.refl s) _ _
  | .strobe => execStrobe_keep (.refl s)
  | .holdRequest .. => execHoldRequest_keep (.refl s) _
  | .hold .. => execHold_keep (.refl s) _ _
  | .resume .. => execResume_keep (.refl s) _ _
  | .holdTick => execHoldTick_keep (.refl s)
  | .resumeTick => execResumeTick_keep (.refl s)
  | .holdLimitExpire => execHoldLimitExpire_keep (.refl s)
  | .keptResumeExpire .. => execKeptResumeExpire_keep (.refl s) _ _
  | .linkTrain .. => execLinkTrain_keep (.refl s) _ _ _ _ _
  | .codewordUncorrectable _ _ flits _ => execCodewordUncorrectable_keep (.refl s) _ _ flits _
  | .freeSlotSend .. => execFreeSlotSend_keep (.refl s) _ _
  | .packetForward .. => execPacketForward_keep (.refl s) _ _ _
  | .escapeWaitExpire .. => execEscapeWaitExpire_keep (.refl s) _
  | .requestIssue .. => execRequestIssue_keep (.refl s) _
  | .memRead .. => execMemRead_keep (.refl s) _
  | .memWrite .. => execMemWrite_keep (.refl s) _
  | .memAtomic .. => execMemAtomic_keep (.refl s) _
  | .memMessage .. => execMemMessage_keep (.refl s) _
  | .responseArrive .. => execResponseArrive_keep (.refl s) _ _
  | .flowBreak .. => execFlowBreak_keep (.refl s) _
  | .leaseLapse .. => execLeaseLapse_keep (.refl s) _
  | .respTimeoutExpire .. => execRespTimeoutExpire_keep (.refl s) _ _
  | .ropeFrame .. => execRopeFrame_keep (.refl s) _
  | .mm .. => execMm_keep (.refl s) _ _
  | .mmG .. => execMmG_keep (.refl s) _ _
  | .queueAdmit .. => execQueueAdmit_keep (.refl s) _ _
  | .passStart .. => execPassStart_keep (.refl s) _
  | .passComplete .. => execPassComplete_keep (.refl s) _
  | .gatherHoldExpire .. => execGatherHoldExpire_keep (.refl s) _ _
  | .gatherGroupStart .. => execGatherGroupStart_keep (.refl s) _
  | .frameGateApply .. => execFrameGateApply_keep (.refl s) _
  | .vadd .. => execVadd_keep (.refl s) _ _
  | .vsub .. => execVsub_keep (.refl s) _ _
  | .vmul .. => execVmul_keep (.refl s) _ _
  | .vfma .. => execVfma_keep (.refl s) _ _
  | .vmax .. => execVmax_keep (.refl s) _ _
  | .vmin .. => execVmin_keep (.refl s) _ _
  | .vcvt .. => execVcvt_keep (.refl s) _ _
  | .vaddCp .. => execVaddCp_keep (.refl s) _ _
  | .vredSum .. => execVredSum_keep (.refl s) _ _
  | .vredMax .. => execVredMax_keep (.refl s) _ _
  | .vredSsq .. => execVredSsq_keep (.refl s) _ _
  | .sfExp .. => execSfExp_keep (.refl s) _ _
  | .sfLog .. => execSfLog_keep (.refl s) _ _
  | .sfRsqrt .. => execSfRsqrt_keep (.refl s) _ _
  | .vectorComplete .. => execVectorComplete_keep (.refl s) _
  | .movX .. => execMovX_keep (.refl s) _ _
  | .semInit .. => execSemInit_keep (.refl s) _ _
  | .semPost .. => execSemPost_keep (.refl s) _ _
  | .semPostArrive .. => execSemPostArrive_keep (.refl s) _ _ _
  | .semWait .. => execSemWait_keep (.refl s) _ _
  | .semTry .. => execSemTry_keep (.refl s) _ _
  | .semLeaseLapse .. => execSemLeaseLapse_keep (.refl s) _ _
  | .waitT .. => execWaitT_keep (.refl s) _ _
  | .waitTRelease .. => execWaitTRelease_keep (.refl s) _ _
  | .waitQ .. => execWaitQ_keep (.refl s) _ _
  | .fence .. => execFence_keep (.refl s) _ _
  | .fenceForm .. => execFenceForm_keep (.refl s) _
  | .fenceSpanExceeded .. => execFenceSpanExceeded_keep (.refl s) _
  | .timeRd .. => execTimeRd_keep (.refl s) _ _
  | .nop .. => execNop_keep (.refl s) _ _
  | .alu .. => execAlu_keep (.refl s) _ _
  | .cmp .. => execCmp_keep (.refl s) _ _
  | .ld .. => execLd_keep (.refl s) _ _
  | .st .. => execSt_keep (.refl s) _ _
  | .br .. => execBr_keep (.refl s) _ _
  | .loop .. => execLoop_keep (.refl s) _ _
  | .halt .. => execHalt_keep (.refl s) _ _
  | .talRd .. => execTalRd_keep (.refl s) _ _
  | .tallyReadServe .. => execTallyReadServe_keep (.refl s) _ _
  | .talNf .. => execTalNf_keep (.refl s) _ _
  | .streamRefill .. => execStreamRefill_keep (.refl s) _ _
  | .dcStart .. => execDcStart_keep (.refl s) _ _ _ _ _ _ _
  | .dcStop .. => execDcStop_keep (.refl s) _ _
  | .contextRead .. => execContextRead_keep (.refl s) _ _
  | .seqImemLoad .. => execSeqImemLoad_keep (.refl s) _ _ _ _
  | .semSet .. => execSemSet_keep (.refl s) _ _ _ _ _
  | .replay .. => execReplay_keep (.refl s) _
  | .isolate .. => execIsolate_keep (.refl s) _ _
  | .rerunEnd .. => execRerunEnd_keep (.refl s) _
  | .descriptorStart .. => execDescriptorStart_keep (.refl s) _
  | .descriptorComplete .. => execDescriptorComplete_keep (.refl s) _
  | .tableWalkComplete _ _ _ write => execTableWalkComplete_keep (.refl s) _ _ _ write
  | .moverReset .. => execMoverReset_keep (.refl s) _
  | .translationInvalidate .. => execTranslationInvalidate_keep (.refl s) _
  | .invalidateComplete => execInvalidateComplete_keep (.refl s)
  | .regionChangeEffective .. => execRegionChangeEffective_keep (.refl s) _ _
  | .expanderRetry .. => execExpanderRetry_keep (.refl s) _
  | .moverCheckRetry .. => execMoverCheckRetry_keep (.refl s) _
  | .groupQuantise .. => execGroupQuantise_keep (.refl s) _
  | .normSum => execNormSum_keep (.refl s)
  | .normRecordWrite => execNormRecordWrite_keep (.refl s)
  | .commitDecision => execCommitDecision_keep (.refl s)
  | .sweepEnd => execSweepEnd_keep (.refl s)
  | .sweepLimitExpire => execSweepLimitExpire_keep (.refl s)
  | .freshStart .. => execFreshStart_keep (.refl s) _
  | .restore .. => execRestore_keep (.refl s) _
  | .restoreComplete => execRestoreComplete_keep (.refl s)
  | .belayRequest .. => execBelayRequest_keep (.refl s) _
  | .belayManifestWrite => execBelayManifestWrite_keep (.refl s)
  | .tallyDelta => execTallyDelta_keep (.refl s)
  | .fpRecordWrite => execFpRecordWrite_keep (.refl s)
  | .fpCheck => execFpCheck_keep (.refl s)
  | .repairBlock .. => execRepairBlock_keep (.refl s) _ _
  | .lsInitWrite .. => execLsInitWrite_keep (.refl s) _
  | .ropeOpen .. => execRopeOpen_keep (.refl s) _
  | .ropeAccept .. => execRopeAccept_keep (.refl s) _
  | .sessionOpenAttempt .. => execSessionOpenAttempt_keep (.refl s) _
  | .ropeDelta .. => execRopeDelta_keep (.refl s) _
  | .ropeSack .. => execRopeSack_keep (.refl s) _
  | .sackTimer .. => execSackTimer_keep (.refl s) _
  | .resendTimeout .. => execResendTimeout_keep (.refl s) _
  | .roundInfo .. => execRoundInfo_keep (.refl s) _
  | .rekey .. => execRekey_keep (.refl s) _
  | .rekeyAck .. => execRekeyAck_keep (.refl s) _
  | .rekeyIntervalExpire .. => execRekeyIntervalExpire_keep (.refl s) _
  | .nonceLimit .. => execNonceLimit_keep (.refl s) _
  | .regroup .. => execRegroup_keep (.refl s) _
  | .ropeBelay .. => execRopeBelay_keep (.refl s) _
  | .dxpFrame .. => execDxpFrame_keep (.refl s) _
  | .probe .. => execProbe_keep (.refl s) _
  | .ropeSend .. => execRopeSend_keep (.refl s) _
  | .roundDeadline => execRoundDeadline_keep (.refl s)
  | .closePrepare .. => execClosePrepare_keep (.refl s) _
  | .closeAck .. => execCloseAck_keep (.refl s) _ _
  | .closeCommit .. => execCloseCommit_keep (.refl s) _
  | .closeAckLimitExpire => execCloseAckLimitExpire_keep (.refl s)
  | .regroupRequest .. => execRegroupRequest_keep (.refl s) _
  | .sessionPaceExpire .. => execSessionPaceExpire_keep (.refl s) _
  | .memoryRetry .. => execMemoryRetry_keep (.refl s) _ _
  | .scrubRead .. => execScrubRead_keep (.refl s) _ _
  | .migrationComplete => execMigrationComplete_keep (.refl s)
  | .memoryStackReset .. => execMemoryStackReset_keep (.refl s) _ _
  | .refInLost => execRefInLost_keep (.refl s)
  | .refInRestore => execRefInRestore_keep (.refl s)
  | .coreGate .. => execCoreGate_keep (.refl s) _
  | .coreWakeComplete .. => execCoreWakeComplete_keep (.refl s) _
  | .dieWakeComplete .. => execDieWakeComplete_keep (.refl s) _
  | .bivouacWakeStart => execBivouacWakeStart_keep (.refl s)
  | .powerSample .. => execPowerSample_keep (.refl s) _ _ _ _
  | .governorClear => execGovernorClear_keep (.refl s)
  | .ballastAdjust => execBallastAdjust_keep (.refl s)
  | .drawTargetWrite .. => execDrawTargetWrite_keep (.refl s) _
  | .targetTick => execTargetTick_keep (.refl s)
  | .targetTimeoutExpire => execTargetTimeoutExpire_keep (.refl s)
  | .dipDeclare => execDipDeclare_keep (.refl s)
  | .braceStart => execBraceStart_keep (.refl s)
  | .braceRelease => execBraceRelease_keep (.refl s)
  | .braceResumeSend => execBraceResumeSend_keep (.refl s)
  | .overvoltageDisconnect => execOvervoltageDisconnect_keep (.refl s)
  | .overvoltageReconnect => execOvervoltageReconnect_keep (.refl s)
  | .powerFail => execPowerFail_keep (.refl s)
  | .thermalSample .. => execThermalSample_keep (.refl s) _ _ _
  | .thermalWarnClear => execThermalWarnClear_keep (.refl s)
  | .dxpHello .. => execDxpHello_keep (.refl s) _
  | .dxpRead .. => execDxpRead_keep (.refl s) _
  | .dxpWrite .. => execDxpWrite_keep (.refl s) _
  | .readBlob .. => execReadBlob_keep (.refl s) _
  | .writeBlob .. => execWriteBlob_keep (.refl s) _
  | .describe .. => execDescribe_keep (.refl s) _
  | .dxpList .. => execDxpList_keep (.refl s) _
  | .subscribe .. => execSubscribe_keep (.refl s) _
  | .groupKey .. => execGroupKey_keep (.refl s) _
  | .dxpClose .. => execDxpClose_keep (.refl s) _
  | .sessionIdleExpire .. => execSessionIdleExpire_keep (.refl s) _
  | .vc0RetryExpire .. => execVc0RetryExpire_keep (.refl s) _
  | .campImageWrite .. => execCampImageWrite_keep (.refl s) _
  | .switchSlotArm .. => execSwitchSlotArm_keep (.refl s) _
  | .switchSlotDisarm .. => execSwitchSlotDisarm_keep (.refl s) _
  | .campSwitch => execCampSwitch_keep (.refl s)
  | .contextPaceExpire .. => execContextPaceExpire_keep (.refl s) _ _
  | .moverPaceExpire .. => execMoverPaceExpire_keep (.refl s) _
  | .enginePaceExpire .. => execEnginePaceExpire_keep (.refl s) _
  | .laneLoss .. => execLaneLoss_keep (.refl s) _ _
  | .linkLoss .. => execLinkLoss_keep (.refl s) _
  | .laneRelockComplete .. => execLaneRelockComplete_keep (.refl s) _ _ _ _
  | .linkRetrainComplete .. => execLinkRetrainComplete_keep (.refl s) _ _ _
  | .linkAgreementTimeout .. => execLinkAgreementTimeout_keep (.refl s) _
  | .dieControllerFault .. => execDieControllerFault_keep (.refl s) _
  | .watchdogExpire .. => execWatchdogExpire_keep (.refl s) _
  | .mpRestartComplete .. => execMpRestartComplete_keep (.refl s) _
  | .cairnStreamSend .. => execCairnStreamSend_keep (.refl s) _
  | .mboxDoorbell .. => execMboxDoorbell_keep (.refl s) _ _
  | .jobLoad .. => execJobLoad_keep (.refl s) _
  | .jobUnload .. => execJobUnload_keep (.refl s) _
  | .imemLoad .. => execImemLoad_keep (.refl s) _
  | .ctxStart .. => execCtxStart_keep (.refl s) _
  | .ctxStop .. => execCtxStop_keep (.refl s) _
  | .ctxRead .. => execCtxRead_keep (.refl s) _
  | .flowOpen .. => execFlowOpen_keep (.refl s) _
  | .flowClose .. => execFlowClose_keep (.refl s) _
  | .flowHead .. => execFlowHead_keep (.refl s) _
  | .bulkCopy .. => execBulkCopy_keep (.refl s) _ _ _
  | .bar2Read .. => execBar2Read_keep (.refl s) _ _
  | .bar2Write .. => execBar2Write_keep (.refl s) _ _
  | .hostFunctionReset => execHostFunctionReset_keep (.refl s)
  | .doeAttest .. => execDoeAttest_keep (.refl s) _
  | .doeMeasureLog => execDoeMeasureLog_keep (.refl s)
  | .attestNonce .. => execAttestNonce_keep (.refl s) _
  | .fwStagingWrite .. => execFwStagingWrite_keep (.refl s) _
  | .fwInstallFirstStage .. => execFwInstallFirstStage_keep (.refl s) _
  | .fwInstallBundle .. => execFwInstallBundle_keep (.refl s) _
  | .warmResetRequest .. => execWarmResetRequest_keep (.refl s) _
  | .coldResetRequest .. => execColdResetRequest_keep (.refl s) _
  | .svnCommit .. => execSvnCommit_keep (.refl s) _
  | .operatorKeyWrite .. => execOperatorKeyWrite_keep (.refl s) _
  | .readVin => execReadVin_keep (.refl s)
  | .readIin => execReadIin_keep (.refl s)
  | .readTemperature1 => execReadTemperature1_keep (.refl s)
  | .readTemperature2 => execReadTemperature2_keep (.refl s)
  | .readTemperature3 => execReadTemperature3_keep (.refl s)
  | .readPin => execReadPin_keep (.refl s)
  | .pmbusRevision => execPmbusRevision_keep (.refl s)
  | .mfrStatus => execMfrStatus_keep (.refl s)
  | .mfrState => execMfrState_keep (.refl s)
  | .mfrCause => execMfrCause_keep (.refl s)
  | .mfrModule => execMfrModule_keep (.refl s)
  | .mfrSerial => execMfrSerial_keep (.refl s)
  | .mfrEnergy => execMfrEnergy_keep (.refl s)
  | .smbusInvalid .. => execSmbusInvalid_keep (.refl s) _ _
  | .alertResponse => execAlertResponse_keep (.refl s)
  | .probeIntervalExpire .. => execProbeIntervalExpire_keep (.refl s) _
  | .persistWriteComplete .. => execPersistWriteComplete_keep (.refl s) _
  | .fwInstallComplete => execFwInstallComplete_keep (.refl s)
  | .dxpResponse .. => execDxpResponse_keep (.refl s) _
  | .dieResetComplete .. => execDieResetComplete_keep (.refl s) _ _
  | .perstDeassert => execPerstDeassert_keep (.refl s)
  | .ideKm .. => execIdeKm_keep (.refl s) _ _ _

/-- The parts that a command can change (Laws/Only.lean), row by row of the table. -/
theorem exec_only (c : Instr) (s : State) : OnlyO c.touches s (exec c s) :=
  match c with
  | .powerOn .. => execPowerOn_only (.refl _ s) (List.Subset.refl _) _
  | .powerGood .. => execPowerGood_only (.refl _ s) (List.Subset.refl _) _
  | .romBootStage => execRomBootStage_only (.refl _ s) (List.Subset.refl _)
  | .firstBootStage .. => execFirstBootStage_only (.refl _ s) (List.Subset.refl _) _
  | .linksAndTimeStage => execLinksAndTimeStage_only (.refl _ s) (List.Subset.refl _)
  | .memoryBootStage .. => execMemoryBootStage_only (.refl _ s) (List.Subset.refl _) _
  | .firstStageTimeout => execFirstStageTimeout_only (.refl _ s) (List.Subset.refl _)
  | .trialBundleTimeout => execTrialBundleTimeout_only (.refl _ s) (List.Subset.refl _)
  | .moduleWarmReset => execModuleWarmReset_only (.refl _ s) (List.Subset.refl _)
  | .moduleColdReset => execModuleColdReset_only (.refl _ s) (List.Subset.refl _)
  | .timeSymbolSend .. => execTimeSymbolSend_only (.refl _ s) (List.Subset.refl _) _
  | .timeSymbolReceive .. => execTimeSymbolReceive_only (.refl _ s) (List.Subset.refl _) _ _ _
  | .offsetEstimate => execOffsetEstimate_only (.refl _ s) (List.Subset.refl _)
  | .lockDwellExpire => execLockDwellExpire_only (.refl _ s) (List.Subset.refl _)
  | .parentLost => execParentLost_only (.refl _ s) (List.Subset.refl _)
  | .symbolTimeout => execSymbolTimeout_only (.refl _ s) (List.Subset.refl _)
  | .holdoverLimitExpire => execHoldoverLimitExpire_only (.refl _ s) (List.Subset.refl _)
  | .ppsEdge .. => execPpsEdge_only (.refl _ s) (List.Subset.refl _) _
  | .ppsEdgeMissed => execPpsEdgeMissed_only (.refl _ s) (List.Subset.refl _)
  | .ptpMessage .. => execPtpMessage_only (.refl _ s) (List.Subset.refl _) _ _
  | .ptpLossTimeout => execPtpLossTimeout_only (.refl _ s) (List.Subset.refl _)
  | .rootSourceWaitExpire => execRootSourceWaitExpire_only (.refl _ s) (List.Subset.refl _)
  | .rootBeatTick => execRootBeatTick_only (.refl _ s) (List.Subset.refl _)
  | .rootBeatTimeout => execRootBeatTimeout_only (.refl _ s) (List.Subset.refl _)
  | .rootPromote => execRootPromote_only (.refl _ s) (List.Subset.refl _)
  | .hallTimeRead .. => execHallTimeRead_only (.refl _ s) (List.Subset.refl _) _
  | .ppsOutPulse => execPpsOutPulse_only (.refl _ s) (List.Subset.refl _)
  | .ttLoad .. => execTtLoad_only (.refl _ s) (List.Subset.refl _) _
  | .bankCheck .. => execBankCheck_only (.refl _ s) (List.Subset.refl _) _
  | .switchBankArm .. => execSwitchBankArm_only (.refl _ s) (List.Subset.refl _) _
  | .switchBankDisarm .. => execSwitchBankDisarm_only (.refl _ s) (List.Subset.refl _) _
  | .bankSwitch => execBankSwitch_only (.refl _ s) (List.Subset.refl _)
  | .ttBatchArrive .. => execTtBatchArrive_only (.refl _ s) (List.Subset.refl _) _
  | .windowStart .. => execWindowStart_only (.refl _ s) (List.Subset.refl _) _
  | .windowSlotSend .. => execWindowSlotSend_only (.refl _ s) (List.Subset.refl _) _
  | .windowOpenReceive .. => execWindowOpenReceive_only (.refl _ s) (List.Subset.refl _) _ _
  | .slotLand .. => execSlotLand_only (.refl _ s) (List.Subset.refl _) _ _ _ _
  | .reduceGroupCombine .. => execReduceGroupCombine_only (.refl _ s) (List.Subset.refl _) _
  | .wakeCore .. => execWakeCore_only (.refl _ s) (List.Subset.refl _) _
  | .wakeDie .. => execWakeDie_only (.refl _ s) (List.Subset.refl _) _
  | .sleepCore .. => execSleepCore_only (.refl _ s) (List.Subset.refl _) _
  | .sleepDie .. => execSleepDie_only (.refl _ s) (List.Subset.refl _) _
  | .eventSemPost .. => execEventSemPost_only (.refl _ s) (List.Subset.refl _) _ _
  | .strobe => execStrobe_only (.refl _ s) (List.Subset.refl _)
  | .holdRequest .. => execHoldRequest_only (.refl _ s) (List.Subset.refl _) _
  | .hold .. => execHold_only (.refl _ s) (List.Subset.refl _) _ _
  | .resume .. => execResume_only (.refl _ s) (List.Subset.refl _) _ _
  | .holdTick => execHoldTick_only (.refl _ s) (List.Subset.refl _)
  | .resumeTick => execResumeTick_only (.refl _ s) (List.Subset.refl _)
  | .holdLimitExpire => execHoldLimitExpire_only (.refl _ s) (List.Subset.refl _)
  | .keptResumeExpire .. => execKeptResumeExpire_only (.refl _ s) (List.Subset.refl _) _ _
  | .linkTrain .. => execLinkTrain_only (.refl _ s) (List.Subset.refl _) _ _ _ _ _
  | .codewordUncorrectable _ _ flits _ => execCodewordUncorrectable_only (.refl _ s) (List.Subset.refl _) _ _ flits _
  | .freeSlotSend .. => execFreeSlotSend_only (.refl _ s) (List.Subset.refl _) _ _
  | .packetForward .. => execPacketForward_only (.refl _ s) (List.Subset.refl _) _ _ _
  | .escapeWaitExpire .. => execEscapeWaitExpire_only (.refl _ s) (List.Subset.refl _) _
  | .requestIssue .. => execRequestIssue_only (.refl _ s) (List.Subset.refl _) _
  | .memRead .. => execMemRead_only (.refl _ s) (List.Subset.refl _) _
  | .memWrite .. => execMemWrite_only (.refl _ s) (List.Subset.refl _) _
  | .memAtomic .. => execMemAtomic_only (.refl _ s) (List.Subset.refl _) _
  | .memMessage .. => execMemMessage_only (.refl _ s) (List.Subset.refl _) _
  | .responseArrive .. => execResponseArrive_only (.refl _ s) (List.Subset.refl _) _ _
  | .flowBreak .. => execFlowBreak_only (.refl _ s) (List.Subset.refl _) _
  | .leaseLapse .. => execLeaseLapse_only (.refl _ s) (List.Subset.refl _) _
  | .respTimeoutExpire .. => execRespTimeoutExpire_only (.refl _ s) (List.Subset.refl _) _ _
  | .ropeFrame .. => execRopeFrame_only (.refl _ s) (List.Subset.refl _) _
  | .mm .. => execMm_only (.refl _ s) (List.Subset.refl _) _ _
  | .mmG .. => execMmG_only (.refl _ s) (List.Subset.refl _) _ _
  | .queueAdmit .. => execQueueAdmit_only (.refl _ s) (List.Subset.refl _) _ _
  | .passStart .. => execPassStart_only (.refl _ s) (List.Subset.refl _) _
  | .passComplete .. => execPassComplete_only (.refl _ s) (List.Subset.refl _) _
  | .gatherHoldExpire .. => execGatherHoldExpire_only (.refl _ s) (List.Subset.refl _) _ _
  | .gatherGroupStart .. => execGatherGroupStart_only (.refl _ s) (List.Subset.refl _) _
  | .frameGateApply .. => execFrameGateApply_only (.refl _ s) (List.Subset.refl _) _
  | .vadd .. => execVadd_only (.refl _ s) (List.Subset.refl _) _ _
  | .vsub .. => execVsub_only (.refl _ s) (List.Subset.refl _) _ _
  | .vmul .. => execVmul_only (.refl _ s) (List.Subset.refl _) _ _
  | .vfma .. => execVfma_only (.refl _ s) (List.Subset.refl _) _ _
  | .vmax .. => execVmax_only (.refl _ s) (List.Subset.refl _) _ _
  | .vmin .. => execVmin_only (.refl _ s) (List.Subset.refl _) _ _
  | .vcvt .. => execVcvt_only (.refl _ s) (List.Subset.refl _) _ _
  | .vaddCp .. => execVaddCp_only (.refl _ s) (List.Subset.refl _) _ _
  | .vredSum .. => execVredSum_only (.refl _ s) (List.Subset.refl _) _ _
  | .vredMax .. => execVredMax_only (.refl _ s) (List.Subset.refl _) _ _
  | .vredSsq .. => execVredSsq_only (.refl _ s) (List.Subset.refl _) _ _
  | .sfExp .. => execSfExp_only (.refl _ s) (List.Subset.refl _) _ _
  | .sfLog .. => execSfLog_only (.refl _ s) (List.Subset.refl _) _ _
  | .sfRsqrt .. => execSfRsqrt_only (.refl _ s) (List.Subset.refl _) _ _
  | .vectorComplete .. => execVectorComplete_only (.refl _ s) (List.Subset.refl _) _
  | .movX .. => execMovX_only (.refl _ s) (List.Subset.refl _) _ _
  | .semInit .. => execSemInit_only (.refl _ s) (List.Subset.refl _) _ _
  | .semPost .. => execSemPost_only (.refl _ s) (List.Subset.refl _) _ _
  | .semPostArrive .. => execSemPostArrive_only (.refl _ s) (List.Subset.refl _) _ _ _
  | .semWait .. => execSemWait_only (.refl _ s) (List.Subset.refl _) _ _
  | .semTry .. => execSemTry_only (.refl _ s) (List.Subset.refl _) _ _
  | .semLeaseLapse .. => execSemLeaseLapse_only (.refl _ s) (List.Subset.refl _) _ _
  | .waitT .. => execWaitT_only (.refl _ s) (List.Subset.refl _) _ _
  | .waitTRelease .. => execWaitTRelease_only (.refl _ s) (List.Subset.refl _) _ _
  | .waitQ .. => execWaitQ_only (.refl _ s) (List.Subset.refl _) _ _
  | .fence .. => execFence_only (.refl _ s) (List.Subset.refl _) _ _
  | .fenceForm .. => execFenceForm_only (.refl _ s) (List.Subset.refl _) _
  | .fenceSpanExceeded .. => execFenceSpanExceeded_only (.refl _ s) (List.Subset.refl _) _
  | .timeRd .. => execTimeRd_only (.refl _ s) (List.Subset.refl _) _ _
  | .nop .. => execNop_only (.refl _ s) (List.Subset.refl _) _ _
  | .alu .. => execAlu_only (.refl _ s) (List.Subset.refl _) _ _
  | .cmp .. => execCmp_only (.refl _ s) (List.Subset.refl _) _ _
  | .ld .. => execLd_only (.refl _ s) (List.Subset.refl _) _ _
  | .st .. => execSt_only (.refl _ s) (List.Subset.refl _) _ _
  | .br .. => execBr_only (.refl _ s) (List.Subset.refl _) _ _
  | .loop .. => execLoop_only (.refl _ s) (List.Subset.refl _) _ _
  | .halt .. => execHalt_only (.refl _ s) (List.Subset.refl _) _ _
  | .talRd .. => execTalRd_only (.refl _ s) (List.Subset.refl _) _ _
  | .tallyReadServe .. => execTallyReadServe_only (.refl _ s) (List.Subset.refl _) _ _
  | .talNf .. => execTalNf_only (.refl _ s) (List.Subset.refl _) _ _
  | .streamRefill .. => execStreamRefill_only (.refl _ s) (List.Subset.refl _) _ _
  | .dcStart .. => execDcStart_only (.refl _ s) (List.Subset.refl _) _ _ _ _ _ _ _
  | .dcStop .. => execDcStop_only (.refl _ s) (List.Subset.refl _) _ _
  | .contextRead .. => execContextRead_only (.refl _ s) (List.Subset.refl _) _ _
  | .seqImemLoad .. => execSeqImemLoad_only (.refl _ s) (List.Subset.refl _) _ _ _ _
  | .semSet .. => execSemSet_only (.refl _ s) (List.Subset.refl _) _ _ _ _ _
  | .replay .. => execReplay_only (.refl _ s) (List.Subset.refl _) _
  | .isolate .. => execIsolate_only (.refl _ s) (List.Subset.refl _) _ _
  | .rerunEnd .. => execRerunEnd_only (.refl _ s) (List.Subset.refl _) _
  | .descriptorStart .. => execDescriptorStart_only (.refl _ s) (List.Subset.refl _) _
  | .descriptorComplete .. => execDescriptorComplete_only (.refl _ s) (List.Subset.refl _) _
  | .tableWalkComplete _ _ _ write => execTableWalkComplete_only (.refl _ s) (List.Subset.refl _) _ _ _ write
  | .moverReset .. => execMoverReset_only (.refl _ s) (List.Subset.refl _) _
  | .translationInvalidate .. => execTranslationInvalidate_only (.refl _ s) (List.Subset.refl _) _
  | .invalidateComplete => execInvalidateComplete_only (.refl _ s) (List.Subset.refl _)
  | .regionChangeEffective .. => execRegionChangeEffective_only (.refl _ s) (List.Subset.refl _) _ _
  | .expanderRetry .. => execExpanderRetry_only (.refl _ s) (List.Subset.refl _) _
  | .moverCheckRetry .. => execMoverCheckRetry_only (.refl _ s) (List.Subset.refl _) _
  | .groupQuantise .. => execGroupQuantise_only (.refl _ s) (List.Subset.refl _) _
  | .normSum => execNormSum_only (.refl _ s) (List.Subset.refl _)
  | .normRecordWrite => execNormRecordWrite_only (.refl _ s) (List.Subset.refl _)
  | .commitDecision => execCommitDecision_only (.refl _ s) (List.Subset.refl _)
  | .sweepEnd => execSweepEnd_only (.refl _ s) (List.Subset.refl _)
  | .sweepLimitExpire => execSweepLimitExpire_only (.refl _ s) (List.Subset.refl _)
  | .freshStart .. => execFreshStart_only (.refl _ s) (List.Subset.refl _) _
  | .restore .. => execRestore_only (.refl _ s) (List.Subset.refl _) _
  | .restoreComplete => execRestoreComplete_only (.refl _ s) (List.Subset.refl _)
  | .belayRequest .. => execBelayRequest_only (.refl _ s) (List.Subset.refl _) _
  | .belayManifestWrite => execBelayManifestWrite_only (.refl _ s) (List.Subset.refl _)
  | .tallyDelta => execTallyDelta_only (.refl _ s) (List.Subset.refl _)
  | .fpRecordWrite => execFpRecordWrite_only (.refl _ s) (List.Subset.refl _)
  | .fpCheck => execFpCheck_only (.refl _ s) (List.Subset.refl _)
  | .repairBlock .. => execRepairBlock_only (.refl _ s) (List.Subset.refl _) _ _
  | .lsInitWrite .. => execLsInitWrite_only (.refl _ s) (List.Subset.refl _) _
  | .ropeOpen .. => execRopeOpen_only (.refl _ s) (List.Subset.refl _) _
  | .ropeAccept .. => execRopeAccept_only (.refl _ s) (List.Subset.refl _) _
  | .sessionOpenAttempt .. => execSessionOpenAttempt_only (.refl _ s) (List.Subset.refl _) _
  | .ropeDelta .. => execRopeDelta_only (.refl _ s) (List.Subset.refl _) _
  | .ropeSack .. => execRopeSack_only (.refl _ s) (List.Subset.refl _) _
  | .sackTimer .. => execSackTimer_only (.refl _ s) (List.Subset.refl _) _
  | .resendTimeout .. => execResendTimeout_only (.refl _ s) (List.Subset.refl _) _
  | .roundInfo .. => execRoundInfo_only (.refl _ s) (List.Subset.refl _) _
  | .rekey .. => execRekey_only (.refl _ s) (List.Subset.refl _) _
  | .rekeyAck .. => execRekeyAck_only (.refl _ s) (List.Subset.refl _) _
  | .rekeyIntervalExpire .. => execRekeyIntervalExpire_only (.refl _ s) (List.Subset.refl _) _
  | .nonceLimit .. => execNonceLimit_only (.refl _ s) (List.Subset.refl _) _
  | .regroup .. => execRegroup_only (.refl _ s) (List.Subset.refl _) _
  | .ropeBelay .. => execRopeBelay_only (.refl _ s) (List.Subset.refl _) _
  | .dxpFrame .. => execDxpFrame_only (.refl _ s) (List.Subset.refl _) _
  | .probe .. => execProbe_only (.refl _ s) (List.Subset.refl _) _
  | .ropeSend .. => execRopeSend_only (.refl _ s) (List.Subset.refl _) _
  | .roundDeadline => execRoundDeadline_only (.refl _ s) (List.Subset.refl _)
  | .closePrepare .. => execClosePrepare_only (.refl _ s) (List.Subset.refl _) _
  | .closeAck .. => execCloseAck_only (.refl _ s) (List.Subset.refl _) _ _
  | .closeCommit .. => execCloseCommit_only (.refl _ s) (List.Subset.refl _) _
  | .closeAckLimitExpire => execCloseAckLimitExpire_only (.refl _ s) (List.Subset.refl _)
  | .regroupRequest .. => execRegroupRequest_only (.refl _ s) (List.Subset.refl _) _
  | .sessionPaceExpire .. => execSessionPaceExpire_only (.refl _ s) (List.Subset.refl _) _
  | .memoryRetry .. => execMemoryRetry_only (.refl _ s) (List.Subset.refl _) _ _
  | .scrubRead .. => execScrubRead_only (.refl _ s) (List.Subset.refl _) _ _
  | .migrationComplete => execMigrationComplete_only (.refl _ s) (List.Subset.refl _)
  | .memoryStackReset .. => execMemoryStackReset_only (.refl _ s) (List.Subset.refl _) _ _
  | .refInLost => execRefInLost_only (.refl _ s) (List.Subset.refl _)
  | .refInRestore => execRefInRestore_only (.refl _ s) (List.Subset.refl _)
  | .coreGate .. => execCoreGate_only (.refl _ s) (List.Subset.refl _) _
  | .coreWakeComplete .. => execCoreWakeComplete_only (.refl _ s) (List.Subset.refl _) _
  | .dieWakeComplete .. => execDieWakeComplete_only (.refl _ s) (List.Subset.refl _) _
  | .bivouacWakeStart => execBivouacWakeStart_only (.refl _ s) (List.Subset.refl _)
  | .powerSample .. => execPowerSample_only (.refl _ s) (List.Subset.refl _) _ _ _ _
  | .governorClear => execGovernorClear_only (.refl _ s) (List.Subset.refl _)
  | .ballastAdjust => execBallastAdjust_only (.refl _ s) (List.Subset.refl _)
  | .drawTargetWrite .. => execDrawTargetWrite_only (.refl _ s) (List.Subset.refl _) _
  | .targetTick => execTargetTick_only (.refl _ s) (List.Subset.refl _)
  | .targetTimeoutExpire => execTargetTimeoutExpire_only (.refl _ s) (List.Subset.refl _)
  | .dipDeclare => execDipDeclare_only (.refl _ s) (List.Subset.refl _)
  | .braceStart => execBraceStart_only (.refl _ s) (List.Subset.refl _)
  | .braceRelease => execBraceRelease_only (.refl _ s) (List.Subset.refl _)
  | .braceResumeSend => execBraceResumeSend_only (.refl _ s) (List.Subset.refl _)
  | .overvoltageDisconnect => execOvervoltageDisconnect_only (.refl _ s) (List.Subset.refl _)
  | .overvoltageReconnect => execOvervoltageReconnect_only (.refl _ s) (List.Subset.refl _)
  | .powerFail => execPowerFail_only (.refl _ s) (List.Subset.refl _)
  | .thermalSample .. => execThermalSample_only (.refl _ s) (List.Subset.refl _) _ _ _
  | .thermalWarnClear => execThermalWarnClear_only (.refl _ s) (List.Subset.refl _)
  | .dxpHello .. => execDxpHello_only (.refl _ s) (List.Subset.refl _) _
  | .dxpRead .. => execDxpRead_only (.refl _ s) (List.Subset.refl _) _
  | .dxpWrite .. => execDxpWrite_only (.refl _ s) (List.Subset.refl _) _
  | .readBlob .. => execReadBlob_only (.refl _ s) (List.Subset.refl _) _
  | .writeBlob .. => execWriteBlob_only (.refl _ s) (List.Subset.refl _) _
  | .describe .. => execDescribe_only (.refl _ s) (List.Subset.refl _) _
  | .dxpList .. => execDxpList_only (.refl _ s) (List.Subset.refl _) _
  | .subscribe .. => execSubscribe_only (.refl _ s) (List.Subset.refl _) _
  | .groupKey .. => execGroupKey_only (.refl _ s) (List.Subset.refl _) _
  | .dxpClose .. => execDxpClose_only (.refl _ s) (List.Subset.refl _) _
  | .sessionIdleExpire .. => execSessionIdleExpire_only (.refl _ s) (List.Subset.refl _) _
  | .vc0RetryExpire .. => execVc0RetryExpire_only (.refl _ s) (List.Subset.refl _) _
  | .campImageWrite .. => execCampImageWrite_only (.refl _ s) (List.Subset.refl _) _
  | .switchSlotArm .. => execSwitchSlotArm_only (.refl _ s) (List.Subset.refl _) _
  | .switchSlotDisarm .. => execSwitchSlotDisarm_only (.refl _ s) (List.Subset.refl _) _
  | .campSwitch => execCampSwitch_only (.refl _ s) (List.Subset.refl _)
  | .contextPaceExpire .. => execContextPaceExpire_only (.refl _ s) (List.Subset.refl _) _ _
  | .moverPaceExpire .. => execMoverPaceExpire_only (.refl _ s) (List.Subset.refl _) _
  | .enginePaceExpire .. => execEnginePaceExpire_only (.refl _ s) (List.Subset.refl _) _
  | .laneLoss .. => execLaneLoss_only (.refl _ s) (List.Subset.refl _) _ _
  | .linkLoss .. => execLinkLoss_only (.refl _ s) (List.Subset.refl _) _
  | .laneRelockComplete .. => execLaneRelockComplete_only (.refl _ s) (List.Subset.refl _) _ _ _ _
  | .linkRetrainComplete .. => execLinkRetrainComplete_only (.refl _ s) (List.Subset.refl _) _ _ _
  | .linkAgreementTimeout .. => execLinkAgreementTimeout_only (.refl _ s) (List.Subset.refl _) _
  | .dieControllerFault .. => execDieControllerFault_only (.refl _ s) (List.Subset.refl _) _
  | .watchdogExpire .. => execWatchdogExpire_only (.refl _ s) (List.Subset.refl _) _
  | .mpRestartComplete .. => execMpRestartComplete_only (.refl _ s) (List.Subset.refl _) _
  | .cairnStreamSend .. => execCairnStreamSend_only (.refl _ s) (List.Subset.refl _) _
  | .mboxDoorbell .. => execMboxDoorbell_only (.refl _ s) (List.Subset.refl _) _ _
  | .jobLoad .. => execJobLoad_only (.refl _ s) (List.Subset.refl _) _
  | .jobUnload .. => execJobUnload_only (.refl _ s) (List.Subset.refl _) _
  | .imemLoad .. => execImemLoad_only (.refl _ s) (List.Subset.refl _) _
  | .ctxStart .. => execCtxStart_only (.refl _ s) (List.Subset.refl _) _
  | .ctxStop .. => execCtxStop_only (.refl _ s) (List.Subset.refl _) _
  | .ctxRead .. => execCtxRead_only (.refl _ s) (List.Subset.refl _) _
  | .flowOpen .. => execFlowOpen_only (.refl _ s) (List.Subset.refl _) _
  | .flowClose .. => execFlowClose_only (.refl _ s) (List.Subset.refl _) _
  | .flowHead .. => execFlowHead_only (.refl _ s) (List.Subset.refl _) _
  | .bulkCopy .. => execBulkCopy_only (.refl _ s) (List.Subset.refl _) _ _ _
  | .bar2Read .. => execBar2Read_only (.refl _ s) (List.Subset.refl _) _ _
  | .bar2Write .. => execBar2Write_only (.refl _ s) (List.Subset.refl _) _ _
  | .hostFunctionReset => execHostFunctionReset_only (.refl _ s) (List.Subset.refl _)
  | .doeAttest .. => execDoeAttest_only (.refl _ s) (List.Subset.refl _) _
  | .doeMeasureLog => execDoeMeasureLog_only (.refl _ s) (List.Subset.refl _)
  | .attestNonce .. => execAttestNonce_only (.refl _ s) (List.Subset.refl _) _
  | .fwStagingWrite .. => execFwStagingWrite_only (.refl _ s) (List.Subset.refl _) _
  | .fwInstallFirstStage .. => execFwInstallFirstStage_only (.refl _ s) (List.Subset.refl _) _
  | .fwInstallBundle .. => execFwInstallBundle_only (.refl _ s) (List.Subset.refl _) _
  | .warmResetRequest .. => execWarmResetRequest_only (.refl _ s) (List.Subset.refl _) _
  | .coldResetRequest .. => execColdResetRequest_only (.refl _ s) (List.Subset.refl _) _
  | .svnCommit .. => execSvnCommit_only (.refl _ s) (List.Subset.refl _) _
  | .operatorKeyWrite .. => execOperatorKeyWrite_only (.refl _ s) (List.Subset.refl _) _
  | .readVin => execReadVin_only (.refl _ s) (List.Subset.refl _)
  | .readIin => execReadIin_only (.refl _ s) (List.Subset.refl _)
  | .readTemperature1 => execReadTemperature1_only (.refl _ s) (List.Subset.refl _)
  | .readTemperature2 => execReadTemperature2_only (.refl _ s) (List.Subset.refl _)
  | .readTemperature3 => execReadTemperature3_only (.refl _ s) (List.Subset.refl _)
  | .readPin => execReadPin_only (.refl _ s) (List.Subset.refl _)
  | .pmbusRevision => execPmbusRevision_only (.refl _ s) (List.Subset.refl _)
  | .mfrStatus => execMfrStatus_only (.refl _ s) (List.Subset.refl _)
  | .mfrState => execMfrState_only (.refl _ s) (List.Subset.refl _)
  | .mfrCause => execMfrCause_only (.refl _ s) (List.Subset.refl _)
  | .mfrModule => execMfrModule_only (.refl _ s) (List.Subset.refl _)
  | .mfrSerial => execMfrSerial_only (.refl _ s) (List.Subset.refl _)
  | .mfrEnergy => execMfrEnergy_only (.refl _ s) (List.Subset.refl _)
  | .smbusInvalid .. => execSmbusInvalid_only (.refl _ s) (List.Subset.refl _) _ _
  | .alertResponse => execAlertResponse_only (.refl _ s) (List.Subset.refl _)
  | .probeIntervalExpire .. => execProbeIntervalExpire_only (.refl _ s) (List.Subset.refl _) _
  | .persistWriteComplete .. => execPersistWriteComplete_only (.refl _ s) (List.Subset.refl _) _
  | .fwInstallComplete => execFwInstallComplete_only (.refl _ s) (List.Subset.refl _)
  | .dxpResponse .. => execDxpResponse_only (.refl _ s) (List.Subset.refl _) _
  | .dieResetComplete .. => execDieResetComplete_only (.refl _ s) (List.Subset.refl _) _ _
  | .perstDeassert => execPerstDeassert_only (.refl _ s) (List.Subset.refl _)
  | .ideKm .. => execIdeKm_only (.refl _ s) (List.Subset.refl _) _ _ _

theorem act_down {s : State} (hdown : s.down = true) (f : State → State) : act s f = .next s := by
  rw [act, if_pos hdown]

/-- Every command but the two that bring the power acts on a powered module. -/
theorem exec_acts (c : Instr) (hon : ∀ mv, c ≠ .powerOn mv) (hgood : ∀ straps, c ≠ .powerGood straps) :
    ∃ f, ∀ s, exec c s = act s f := by
  cases c with
  | powerOn mv => exact absurd rfl (hon mv)
  | powerGood straps => exact absurd rfl (hgood straps)
  | _ => exact ⟨_, fun _ => rfl⟩

/-- No command ends in a fault or a refusal. -/
theorem exec_completes (c : Instr) (s : State) : ∃ t, exec c s = .next t := by
  by_cases hon : ∃ mv, c = .powerOn mv
  · obtain ⟨mv, rfl⟩ := hon
    exact ⟨_, rfl⟩
  by_cases hgood : ∃ straps, c = .powerGood straps
  · obtain ⟨straps, rfl⟩ := hgood
    exact ⟨_, rfl⟩
  obtain ⟨f, hf⟩ := exec_acts c (fun mv h => hon ⟨mv, h⟩) (fun straps h => hgood ⟨straps, h⟩)
  exact ⟨_, hf s⟩

/-- A step keeps what every command keeps, of a state whose first command it has taken from the queue. -/
theorem step_keep {s t : State} (h : step s = .next t) :
    (∀ k, Tbl.get 0 s.boot.floors k ≤ Tbl.get 0 t.boot.floors k) ∧ (s.Inv → t.Inv) := by
  unfold step at h
  split at h
  · have hkept := idleTick_keep s t h
    exact ⟨hkept.floors, hkept.inv⟩
  · next c rest _ =>
    have hkept := exec_keep c { s with pending := rest } t h
    exact ⟨hkept.floors, hkept.inv⟩

/-- Settles O1: it is how a step reads its queue. -/
theorem stepRunsTheFrontCommand : Obligations.StepRunsTheFrontCommand := fun _ _ _ => rfl

/-- Settles O3: the memories, the log and the ring are empty, and the measurement registers zero. -/
theorem resetMeetsTheInvariant : Obligations.ResetMeetsTheInvariant :=
  ⟨rfl, rfl, rfl, rfl, rfl, rfl, Nat.zero_le _, Nat.zero_le _⟩

/-- Settles O4, by what every command and the tick of an empty queue keep. -/
theorem everyStepKeepsTheInvariant : Obligations.EveryStepKeepsTheInvariant :=
  fun _ _ hinv hstep => (step_keep hstep).2 hinv

/-- Settles O6, by what every command and the tick of an empty queue keep. -/
theorem svnFloorsNeverFall : Obligations.SvnFloorsNeverFall :=
  fun _ _ hstep => (step_keep hstep).1

/-- Settles O5: every command completes, within the parts of its row. -/
theorem everyCommandCompletesWithinItsFrame : Obligations.EveryCommandCompletesWithinItsFrame := fun c s => by
  obtain ⟨t, ht⟩ := exec_completes c s
  exact ⟨t, ht, exec_only c s t ht⟩

end Sys2Proof.Machine

/-!
Jobs come only from JOB_LOAD (O7): no other command has a part in the job but the resets, the power and JOB_UNLOAD, and
these leave none.
-/
namespace Sys2Proof.Machine

/-- The job is as it was, or none is loaded. -/
def NoNewJob (s t : State) : Prop := t.job = s.job ∨ t.job.loaded = false

/-- What a command on a powered module leaves: the state itself, or what the row does to it. -/
theorem act_cases {s t : State} {f : State → State} (h : act s f = .next t) : t = s ∨ t = f s := by
  unfold act at h
  injection h with h
  rw [← h]
  split
  · exact .inl rfl
  · exact .inr rfl

theorem NoNewJob.of_act {s t : State} {f : State → State} (h : act s f = .next t) (hf : NoNewJob s (f s)) :
    NoNewJob s t := by
  obtain rfl | rfl := act_cases h
  · exact .inl rfl
  · exact hf

theorem job_of_only {s t : State} {ps : List Part} (h : Only ps s t) (hp : Part.job ∉ ps) : t.job = s.job := h.2 .job hp

/-- A row that does not name the job leaves it as it is. -/
theorem NoNewJob.of_untouched {c : Instr} {s t : State} (h : exec c s = .next t)
    (hjob : Part.job ∉ c.touches) : NoNewJob s t :=
  .inl (job_of_only (exec_only c s t h) hjob)

theorem State.alerting_job (s : State) (f : State → State) : (s.alerting f).job = (f s).job := by
  unfold State.alerting
  dsimp only
  split <;> rfl

theorem State.warmReset_job (s : State) : s.warmReset.job.loaded = false := by
  unfold State.warmReset
  dsimp only
  rw [job_of_only (State.linksDown_only (parts := [.links, .objects]) (Only.refl _ _) (by decide)) (by decide),
    State.setBoot_job, State.each_part State.job State.clearMeasure _ fun _ _ => rfl]
  rfl

theorem State.coldReset_job (s : State) : s.coldReset.job.loaded = false := rfl

theorem State.powerFail_job (s : State) : s.powerFail.job.loaded = false := rfl

theorem State.sampled_job (s : State) (dies hbms : List Int) (lid : Int) : (s.sampled dies hbms lid).job = s.job := by
  refine job_of_only (ps := [.out, .hold, .links, .ctxs, .objects, .ring, .msix, .supply, .alert]) ?_ (by decide)
  exact State.thermalTrip_only (State.noteCool_only (State.thermalWarn_only (State.setSupply_only (Only.refl _ s)
    (by decide) _) (by decide)) (by decide)) (by decide)

theorem State.answers_job (e : Nat) (r : Result) : (State.answers e r).job = r.2.2.job := by
  refine (job_of_only (State.streamAll_frame _) (by decide)).trans (job_of_only (State.complete_only (parts :=
    [.out, .objects, .ring, .host, .msix]) (Only.refl _ _) (by decide) e r.1 r.2.1) (by decide))

/-- A command of the ring that is not loading leaves no new job, if what it runs does not. -/
theorem NoNewJob.of_hostCommand {opcode : Nat} {e : BitVec 512} {run : Nat → State → Result} {s t : State}
    (h : hostCommand opcode e run s = .next t)
    (hrun : NoNewJob s (run e.toNat (s.mpUp.takeEntry e)).2.2) : NoNewJob s t := by
  refine .of_act h ?_
  dsimp only
  split
  · exact .inl rfl
  · change NoNewJob s (State.answers e.toNat _)
    unfold NoNewJob
    rw [State.answers_job]
    split
    · exact hrun
    · exact .inl (job_of_only (s.takeEntry_frame e) (by decide))

theorem NoNewJob.of_powerGood {straps : BitVec 4} {s t : State} (h : exec (.powerGood straps) s = .next t) :
    NoNewJob s t := by
  change execPowerGood straps s = _ at h
  unfold execPowerGood at h
  injection h with h
  rw [← h]
  split
  · exact .inr rfl
  · exact .inl rfl

theorem NoNewJob.of_jobUnload {e : BitVec 512} {s t : State} (h : exec (.jobUnload e) s = .next t) : NoNewJob s t := by
  change execJobUnload e s = _ at h
  unfold execJobUnload at h
  refine .of_hostCommand h ?_
  dsimp only [State.done]
  exact .inr (State.unloadJob_drops _).1

theorem NoNewJob.of_powerFail {s t : State} (h : exec .powerFail s = .next t) : NoNewJob s t := by
  change execPowerFail s = _ at h
  unfold execPowerFail at h
  refine .of_act h ?_
  split
  · exact .inr (State.powerFail_job _)
  · exact .inl rfl

theorem NoNewJob.of_thermalSample {dies hbms : List Int} {lid : Int} {s t : State}
    (h : exec (.thermalSample dies hbms lid) s = .next t) : NoNewJob s t := by
  change execThermalSample dies hbms lid s = _ at h
  unfold execThermalSample at h
  refine .of_act h ?_
  change NoNewJob s (if (s.sampled dies hbms lid).supply.critical then (s.sampled dies hbms lid).powerFail
    else s.sampled dies hbms lid)
  split
  · exact .inr (State.powerFail_job _)
  · exact .inl (State.sampled_job ..)

theorem NoNewJob.of_moduleWarmReset {s t : State} (h : exec .moduleWarmReset s = .next t) : NoNewJob s t := by
  change execModuleWarmReset s = _ at h
  unfold execModuleWarmReset at h
  refine .of_act h ?_
  split
  · exact .inr (by rw [State.alerting_job, State.warmReset_job])
  · exact .inl rfl

theorem NoNewJob.of_moduleColdReset {s t : State} (h : exec .moduleColdReset s = .next t) : NoNewJob s t := by
  change execModuleColdReset s = _ at h
  unfold execModuleColdReset at h
  refine .of_act h ?_
  split
  · exact .inr (State.coldReset_job _)
  · exact .inl rfl

/-- No command but JOB_LOAD leaves a job that was not there. -/
theorem exec_noNewJob {c : Instr} {s t : State} (hc : ∀ e, c ≠ .jobLoad e) (h : exec c s = .next t) : NoNewJob s t := by
  cases c with
  | jobLoad e => exact absurd rfl (hc e)
  | jobUnload e => exact .of_jobUnload h
  | powerGood straps => exact .of_powerGood h
  | powerFail => exact .of_powerFail h
  | thermalSample dies hbms lid => exact .of_thermalSample h
  | moduleWarmReset => exact .of_moduleWarmReset h
  | moduleColdReset => exact .of_moduleColdReset h
  | _ => exact .of_untouched h (by simp [Instr.touches])

/-- Settles O7: what is loaded where nothing was is a new job. -/
theorem jobsComeOnlyFromJobLoad : Obligations.JobsComeOnlyFromJobLoad := by
  intro c s t hexec hnone hloaded
  by_contra hother
  obtain hsame | hno := exec_noNewJob (fun e he => hother ⟨e, he⟩) hexec
  · rw [hsame, hnone] at hloaded
    cases hloaded
  · rw [hno] at hloaded
    cases hloaded

end Sys2Proof.Machine

/-!
Power failure (O8).
-/
namespace Sys2Proof.Machine

/-- What a power failure leaves (R387, R355): nothing but the flash, with FAULT_N asserted. -/
theorem State.powerFail_stops (s : State) : s.powerFail.faultN = false ∧ s.powerFail.down = true ∧
    s.powerFail.job.loaded = false ∧ s.powerFail.mem = [] ∧ ∀ a n, s.powerFail.read a n = List.replicate n 0 :=
  ⟨rfl, rfl, rfl, rfl, Memory.read_empty⟩

/-- READY (R391) is an object of its own, apart from the straps. -/
theorem State.straps_ready (s : State) (straps : Nat) : (s.setObj 0x1000 9 straps).obj 0x1000 8 = s.obj 0x1000 8 :=
  State.obj_setObj_other _ (by decide)

/-- Settles O8: without power no row but the two that bring it acts (`exec_acts`), and they start from the flash. -/
theorem powerFailureStopsTheModule : Obligations.PowerFailureStopsTheModule := by
  refine ⟨fun s hdown hcause => ?fails, fun s c hdown hon hgood => ?stopped, fun s hdown => ⟨fun mv hmv => ?on,
    fun straps hmv => ?good⟩⟩
  case fails => exact ⟨_, exec_powerFail hdown hcause, Logged.log1 _ _ _ _ (by decide), rfl, s.powerFail_stops⟩
  case stopped =>
    obtain ⟨f, hf⟩ := exec_acts c hon hgood
    exact (hf s).trans (act_down hdown f)
  case on => exact ⟨_, exec_powerOn hdown hmv, hdown, rfl⟩
  case good => exact ⟨_, exec_powerGood hdown hmv, rfl, rfl, rfl, rfl, State.straps_ready ..⟩

end Sys2Proof.Machine

/-!
LINEAR11 (O53): rounding to nearest, the exponents that keep a mantissa in range, and the word of two fields.
-/
namespace Sys2Proof.Machine

/-! ### Rounding to nearest -/

/-- `nearest` answers the quotient rounded down where the remainder is at most half, and rounded up where it is at least
half. -/
theorem nearest_cases (a : Int) (b : Nat) : (nearest a b = a / b ∧ 2 * (a % b) ≤ b) ∨
    (nearest a b = a / b + 1 ∧ (b : Int) ≤ 2 * (a % b)) := by
  unfold nearest
  dsimp only
  split
  · exact .inl ⟨rfl, by omega⟩
  · split
    · exact .inr ⟨rfl, by omega⟩
    · split
      · exact .inl ⟨rfl, by omega⟩
      · exact .inr ⟨rfl, by omega⟩

/-- What `nearest` answers is within half of the divisor. -/
theorem nearest_close {a : Int} {b : Nat} (hb : 0 < b) : 2 * (a - nearest a b * b).natAbs ≤ b := by
  have hdiv : a / b * b + a % b = a := Int.ediv_mul_add_emod a b
  have hlow : 0 ≤ a % b := Int.emod_nonneg a (by omega)
  have hhigh : a % b < b := Int.emod_lt_of_pos a (by omega)
  obtain ⟨hdown, hhalf⟩ | ⟨hup, hhalf⟩ := nearest_cases a b
  · rw [hdown]
    omega
  · rw [hup, Int.add_mul, Int.one_mul]
    omega

/-- A quotient of at most `m` rounds to at most `m`. -/
theorem nearest_le {a : Int} {b m : Nat} (hb : 0 < b) (ha : a.natAbs ≤ m * b) : (nearest a b).natAbs ≤ m := by
  have hclose := nearest_close (a := a) hb
  generalize nearest a b = y at *
  by_contra hlarge
  have hfar : (m + 1) * b ≤ y.natAbs * b := Nat.mul_le_mul_right b (by omega)
  have hproduct : (y * b).natAbs = y.natAbs * b := by rw [Int.natAbs_mul, Int.natAbs_natCast]
  have hnext : (m + 1) * b = m * b + b := by ring
  omega

/-! ### Exponents -/

/-- The exponent of index `i` keeps the mantissa in range. -/
def mantissaFits (a : Int) (b i : Nat) : Prop :=
  -1024 ≤ mantissa a b ((i : Int) - 16) ∧ mantissa a b ((i : Int) - 16) ≤ 1023

/-- The largest exponent keeps the mantissa of any value in range within it. -/
theorem mantissaFits_largest {a : Int} {b : Nat} (hb : 0 < b) (ha : a.natAbs ≤ 1023 * 2 ^ 15 * b) :
    mantissaFits a b 31 := by
  have hscaled : a.natAbs ≤ 1023 * (b * 2 ^ 15) := by rw [Nat.mul_comm b, ← Nat.mul_assoc]; exact ha
  have hbound := nearest_le (by positivity) hscaled
  change -1024 ≤ nearest a (b * 2 ^ 15) ∧ nearest a (b * 2 ^ 15) ≤ 1023
  omega

/-- The word of an exponent's index and a mantissa. -/
def linearWord (a : Int) (b i : Nat) : Nat :=
  unsext 5 ((i : Int) - 16) * 2048 + unsext 11 (mantissa a b ((i : Int) - 16))

/-- LINEAR11 is the word of the first index that fits. -/
theorem linear11_first {a : Int} {b : Nat} (hsome : mantissaFits a b 31) :
    ∃ i < 32, mantissaFits a b i ∧ (∀ j < i, ¬ mantissaFits a b j) ∧ linear11 a b = linearWord a b i := by
  classical
  obtain ⟨i, ⟨hfits, hleast⟩⟩ : ∃ i, mantissaFits a b i ∧ ∀ j < i, ¬ mantissaFits a b j :=
    ⟨Nat.find ⟨31, hsome⟩, Nat.find_spec _, fun j hj => Nat.find_min _ hj⟩
  have hi : i < 32 := by
    by_contra hlarge
    exact hleast 31 (by omega) hsome
  have hrange : List.range 32 = List.range i ++ i :: (List.range (31 - i)).map (i + 1 + ·) := by
    rw [show 32 = i + 1 + (31 - i) by omega, List.range_add, List.range_succ, List.append_assoc, List.singleton_append]
  have hfirst : (List.range 32).findSome? (fun i : Nat =>
      if -1024 ≤ mantissa a b ((i : Int) - 16) ∧ mantissa a b ((i : Int) - 16) ≤ 1023 then some (linearWord a b i)
      else none) = some (linearWord a b i) :=
    List.findSome?_eq_some_iff.mpr ⟨_, i, _, hrange, if_pos hfits, fun j hj => if_neg (hleast j (List.mem_range.mp hj))⟩
  refine ⟨i, hi, hfits, hleast, ?_⟩
  unfold linear11
  dsimp only
  unfold linearWord at hfirst ⊢
  rw [hfirst, Option.getD_some]

/-! ### The two fields of the word -/

/-- The low bits of a value in range spell it. -/
theorem sext_unsext {n : Nat} {v : Int} (hlow : -2 ^ n ≤ v) (hhigh : v < 2 ^ n) : sext (n + 1) (unsext (n + 1) v) = v := by
  have hdouble : (2 : Int) ^ (n + 1) = 2 * 2 ^ n := by ring
  have hcast : ((2 ^ (n + 1) : Nat) : Int) = 2 ^ (n + 1) := by push_cast; rfl
  have hdoubleNat : 2 ^ (n + 1) = 2 * 2 ^ n := by ring
  have hcastHalf : ((2 ^ n : Nat) : Int) = 2 ^ n := by push_cast; rfl
  have hpos : 0 < 2 ^ n := by positivity
  unfold sext unsext
  rw [Nat.add_sub_cancel, hcast, hdouble, hdoubleNat]
  have hmod : v % (2 * 2 ^ n) = if 0 ≤ v then v else v + 2 * 2 ^ n := by
    split
    · exact Int.emod_eq_of_lt (by omega) (by omega)
    · rw [← Int.add_emod_right, Int.emod_eq_of_lt (by omega) (by omega)]
  rw [hmod]
  generalize (2 : Int) ^ n = h at *
  generalize 2 ^ n = k at *
  subst hcastHalf
  split
  · rw [Nat.mod_eq_of_lt (by omega)]
    split <;> omega
  · rw [Nat.mod_eq_of_lt (by omega)]
    split <;> omega

theorem unsext_lt (n : Nat) (v : Int) : unsext n v < 2 ^ n := by
  have hlow : 0 ≤ v % (2 ^ n : Nat) := Int.emod_nonneg v (by positivity)
  have hhigh : v % (2 ^ n : Nat) < (2 ^ n : Nat) := Int.emod_lt_of_pos v (by positivity)
  unfold unsext
  omega

/-- Exponent and mantissa of a word. -/
theorem linearWord_fields {a : Int} {b i : Nat} (hi : i < 32) (hfits : mantissaFits a b i) :
    linearWord a b i < 65536 ∧ sext 5 (linearWord a b i / 2048) = (i : Int) - 16 ∧
    sext 11 (linearWord a b i % 2048) = mantissa a b ((i : Int) - 16) := by
  have hexponent := unsext_lt 5 ((i : Int) - 16)
  have hmantissa := unsext_lt 11 (mantissa a b ((i : Int) - 16))
  have hhigh : linearWord a b i / 2048 = unsext 5 ((i : Int) - 16) := by unfold linearWord; omega
  have hlow : linearWord a b i % 2048 = unsext 11 (mantissa a b ((i : Int) - 16)) := by unfold linearWord; omega
  rw [hhigh, hlow]
  refine ⟨by unfold linearWord; omega, sext_unsext (by omega) (by omega), sext_unsext ?_ ?_⟩
  · exact hfits.1
  · have := hfits.2
    omega

/-- Settles O53: the exponent of the word is the first index that fits. -/
theorem linearElevenIsTheSmallestExponent : Obligations.LinearElevenIsTheSmallestExponent := by
  intro a b hb ha w n y
  obtain ⟨i, hi, hfits, hleast, hw⟩ := linear11_first (mantissaFits_largest hb ha)
  obtain ⟨hword, hn, hy⟩ := linearWord_fields hi hfits
  rw [← hw] at hword hn hy
  change n = (i : Int) - 16 at hn
  change y = mantissa a b ((i : Int) - 16) at hy
  rw [← hn] at hy
  refine ⟨hword, hy, fun hpos => ?up, fun hneg => ?down, fun m hm hmn => ?smaller⟩
  case up =>
    rw [hy, mantissa, if_pos hpos]
    exact nearest_close (by positivity)
  case down =>
    rw [hy, mantissa, if_neg (by omega)]
    exact nearest_close hb
  case smaller =>
    have hj := hleast (m + 16).toNat (by omega)
    unfold mantissaFits at hj
    rw [show (((m + 16).toNat : Nat) : Int) - 16 = m by omega] at hj
    omega

end Sys2Proof.Machine

/-!
The errors of memory (O42): where a state's cairn ring is longer than its bound, a retry that is not due logs nothing and
so keeps the ring as it is, while the state that the statement names has a ring within the bound.
-/
namespace Sys2Proof.Machine

/-- The thresholds of retirement keep a ring within its bound. -/
theorem State.judgePc_ring_length {u t : State} {p : Nat} (ht : u.judgePc p = t) (hring : u.faults.ring.length ≤ 8192)
    (hsound : Sound t.mem t.stores t.maps t.mailboxes t.boot.measures t.boot.log []) :
    t.faults.ring.length ≤ 8192 := by
  subst ht
  obtain ⟨hmem, hstores, hmaps, hmailboxes, hcount, hm7, hlog, -⟩ := hsound
  have hframe := State.judgePc_only (Only.refl [.out, .hold, .links, .ctxs, .objects, .ring, .msix, .memctl, .alert] u)
    (by decide) p
  have hboot := hframe.2 .boot (by decide)
  rw [show (u.judgePc p).mem = u.mem from hframe.2 .mem (by decide)] at hmem
  rw [show (u.judgePc p).stores = u.stores from hframe.2 .stores (by decide)] at hstores
  rw [show (u.judgePc p).maps = u.maps from hframe.2 .maps (by decide)] at hmaps
  rw [show (u.judgePc p).mailboxes = u.mailboxes from hframe.2 .mailboxes (by decide)] at hmailboxes
  rw [hboot] at hcount hm7 hlog
  exact ((State.judgePc_keep (Keep.refl u) p).inv ⟨hmem, hstores, hmaps, hmailboxes, hcount, hm7, hlog, hring⟩).ring

/-- A retry that succeeded, on a module whose memory runs (R360). -/
theorem exec_memoryRetry_clean {s : State} {a : BitVec 41} (hdown : s.down = false) (ha : s.memoryRuns a.toNat = true) :
    exec (.memoryRetry a .clean) s = .next ((s.countRetried (s.locate a.toNat).1 a.toNat).judgePc (s.locate a.toNat).1) := by
  change execMemoryRetry a .clean s = _
  rw [execMemoryRetry, act_up hdown]
  simp [ha]

/-- A module after reset whose ring holds one record more than its bound, and whose first pseudo-channel has logged a
retry just now. -/
def overfull : State :=
  { State.reset with
    faults := { State.reset.faults with ring := List.replicate 8193 0 }
    memctl := { State.reset.memctl with pcs := [(0, { PcErr.reset with loggedAt := some 0 })] } }

/-- The same after a clean retry on its first pseudo-channel, which is not due and not past a threshold. -/
def overfullRetried : State :=
  { overfull with
    memctl := { overfull.memctl with
      pcs := [(0, { PcErr.reset with retried := 1, loggedAt := some 0 })]
      retries := [(0, 0)] } }

theorem overfull_countRetried : overfull.countRetried 0 0 = overfullRetried := by rfl

theorem overfullRetried_judgePc : overfullRetried.judgePc 0 = overfullRetried := by
  rw [State.judgePc, if_neg (by decide +kernel)]

theorem exec_memoryRetry_overfull : exec (.memoryRetry 0 .clean) overfull = .next overfullRetried := by
  rw [exec_memoryRetry_clean rfl (by decide +kernel), show (overfull.locate (0 : BitVec 41).toNat).1 = 0 by decide +kernel,
    show (0 : BitVec 41).toNat = 0 from rfl, overfull_countRetried, overfullRetried_judgePc]

/-- Refutes O42: a clean retry on `overfull` leaves a ring of 8,193 records, and the state that the statement names for a
retry that is not due has at most 8,192. -/
theorem not_memoryErrors : ¬ Obligations.MemoryErrors := by
  intro h
  obtain ⟨hretry, -⟩ := h overfull rfl (by decide)
  obtain ⟨⟨u, -, hkept, -, -, -, -, -, hexec⟩, -⟩ := hretry 0 (by decide)
  obtain ⟨records, hnone, hring⟩ := hkept (by decide +kernel)
  have hshort : u.faults.ring.length ≤ 8192 := by
    rw [hring, List.length_take]
    exact Nat.min_le_left _ _
  have hsame : u.judgePc (overfull.locate (0 : BitVec 41).toNat).1 = overfullRetried := by
    rw [exec_memoryRetry_overfull] at hexec
    injection hexec with hsame
    exact hsame.symm
  have hbound := State.judgePc_ring_length hsame hshort ⟨rfl, rfl, rfl, rfl, rfl, rfl, Nat.zero_le _, Nat.zero_le _⟩
  have hlong : overfullRetried.faults.ring.length = 8193 := List.length_replicate
  omega

end Sys2Proof.Machine

/-!
The failure of a job stage (O10).
-/
namespace Sys2Proof.Machine

theorem State.interrupt_reaches (s : State) (v : Nat) :
    if Tbl.get false s.host.unmasked v then Out.msix v ∈ (s.interrupt v).out
    else Tbl.get false (s.interrupt v).host.pendingBits v = true := by
  unfold State.interrupt
  split
  · exact List.mem_cons_self
  · dsimp only
    exact Tbl.get_set_same

/-- Every context of the module stops (R431). -/
theorem State.stopAll_stops (s : State) (c : Core) (x : Ctx) : s.stopAll.ctx c x = (s.ctx c x).stop := by
  have hentry := each_entry (fun k (t : State) => Tbl.get .reset t.ctxs k) (f := fun s k =>
    let c := Tbl.get .reset s.ctxs k
    if c.stop = c then s else { s with ctxs := Tbl.set .reset s.ctxs k c.stop }) (fun _ => CtxSt.stop)
    (fun t k => by
      dsimp only
      split
      · next hsame => exact hsame.symm
      · exact Tbl.get_set_same)
    (fun t k l hne => by
      dsimp only
      split
      · rfl
      · exact Tbl.get_set_other hne.symm) 1536 s (ctxKey c x)
  rw [if_pos (by have := c.isLt; have := x.isLt; unfold ctxKey; omega)] at hentry
  exact hentry

theorem State.firstSeen_own (s : State) (origin seq kind : Nat) : (s.firstSeen origin seq kind).2.hold.own = s.hold.own := by
  unfold State.firstSeen
  split <;> rfl

theorem State.originateHold_own (s : State) (cause : Nat) :
    (s.originateHold cause).2.hold.own = s.hold.own ++ [(s.hold.ownSeq, cause)] := by
  rw [State.originateHold, State.originateHoldAt_hold, State.firstSeen_own]

theorem State.alerting_host (s : State) (f : State → State) : (s.alerting f).host = (f s).host := by
  unfold State.alerting
  dsimp only
  split <;> rfl

/-- What fails with the stage before the hold: the record, the objects, the interrupt and the contexts (R431). -/
def State.stageStopped (s : State) (cause : Nat) : State :=
  (((s.log 0x9010 0 [(8, cause)]).alerting fun s => (s.setObj 0x9003 3 1).setObj 0x9003 4 cause).interrupt 2).stopAll

theorem State.jobFail_eq {s : State} (cause : Nat) (hloaded : s.job.loaded = true) (hstage : s.obj 0x9003 3 ≠ 1) :
    s.jobFail cause = ((if (s.stageStopped cause).hold.joined.isEmpty then ((s.stageStopped cause).originateHold 9).2
      else s.stageStopped cause).setHold fun h => { h with noResume := true }).schedFault := by
  unfold State.jobFail
  rw [if_neg (by simp [hloaded, hstage])]
  delta State.stageStopped
  rfl

theorem State.stageStopped_hold (s : State) (cause : Nat) : (s.stageStopped cause).hold = s.hold := by
  rw [State.stageStopped, State.stopAll_hold, State.interrupt_hold, State.alerting_hold, State.setObj_hold,
    State.setObj_hold, State.log_hold]

theorem State.stageStopped_ctx (s : State) (cause : Nat) (c : Core) (x : Ctx) :
    (s.stageStopped cause).ctx c x = (s.ctx c x).stop := by
  rw [State.stageStopped, State.stopAll_stops]
  refine congrArg CtxSt.stop (ctx_of_only (ps := [.out, .objects, .ring, .msix, .alert]) ?_ (by decide) c x)
  exact State.interrupt_only (State.alerting_only (State.log_only (Only.refl _ s) (by decide) ..) (by decide) _
    fun v hv => State.setObj_only (State.setObj_only hv (by decide) ..) (by decide) ..) (by decide) 2

/-- The host is interrupted by vector 2 (R456). -/
theorem State.stageStopped_interrupts (s : State) (cause : Nat) :
    if Tbl.get false s.host.unmasked 2 then Out.msix 2 ∈ (s.stageStopped cause).out
    else Tbl.get false (s.stageStopped cause).host.pendingBits 2 = true := by
  rw [State.stageStopped]
  generalize hcaused : ((s.log 0x9010 0 [(8, cause)]).alerting fun s => (s.setObj 0x9003 3 1).setObj 0x9003 4 cause) = u
  have hhost : u.host = s.host := by
    rw [← hcaused, State.alerting_host, State.setObj_host, State.setObj_host, State.log_host]
  have hframe := State.stopAll_only (Only.refl [.ctxs] (u.interrupt 2)) (by decide)
  rw [hframe.2 .out (by decide), hframe.2 .msix (by decide), ← hhost]
  exact u.interrupt_reaches 2

/-- Nothing but the hold and the links follows once the contexts have stopped. -/
theorem State.jobFail_frame_of_stopped {s : State} (cause : Nat) (hloaded : s.job.loaded = true)
    (hstage : s.obj 0x9003 3 ≠ 1) : Only [.hold, .links] (s.stageStopped cause) (s.jobFail cause) := by
  rw [State.jobFail_eq cause hloaded hstage]
  refine State.schedFault_only (State.setHold_only ?_ (by decide) _) (by decide)
  split
  · exact State.originateHold_only (Only.refl _ _) (by decide) 9
  · exact Only.refl _ _

theorem State.failedStageHold_own (u : State) :
    ((if u.hold.joined.isEmpty then (u.originateHold 9).2 else u).setHold fun h =>
      { h with noResume := true }).schedFault.hold.own =
      if u.hold.joined = [] then u.hold.own ++ [(u.hold.ownSeq, 9)] else u.hold.own := by
  rw [State.schedFault, State.setHold_hold, State.setHold_hold]
  simp only [List.isEmpty_iff]
  split
  · exact State.originateHold_own ..
  · rfl

/-- The hold of a failed stage is a new one of this module's own, unless one is in force (R431). -/
theorem State.jobFail_own {s : State} (cause : Nat) (hloaded : s.job.loaded = true) (hstage : s.obj 0x9003 3 ≠ 1) :
    (s.jobFail cause).hold.own = if s.hold.joined = [] then s.hold.own ++ [(s.hold.ownSeq, 9)] else s.hold.own := by
  rw [State.jobFail_eq cause hloaded hstage, State.failedStageHold_own, State.stageStopped_hold]

/-- Settles O10. -/
theorem jobStageFails : Obligations.JobStageFails := by
  refine fun s cause => ⟨jobFail_none cause, fun hloaded hstage => ?_⟩
  obtain ⟨hfailed, hcause, hresume, hfault⟩ := jobFail_failed cause hloaded hstage
  have hframe := State.jobFail_frame_of_stopped cause hloaded hstage
  refine ⟨jobFail_logged cause hloaded hstage, hfailed, hcause, hfault, hresume, fun c x => ?contexts, ?interrupt,
    State.jobFail_own cause hloaded hstage, State.jobFail_only (Only.refl _ s) (by decide) cause⟩
  case contexts => rw [ctx_of_only hframe (by decide) c x, State.stageStopped_ctx]
  case interrupt =>
    rw [hframe.2 .out (by decide), hframe.2 .msix (by decide)]
    exact s.stageStopped_interrupts cause

end Sys2Proof.Machine

/-!
The layout of a cairn record and the packing of its items (O13).
-/
namespace Sys2Proof.Machine

/-- Items from bit `pos` on stay below bit 120, above what is below `pos` (R439). -/
theorem packItems_add_two_pow_le (items : List (Nat × Nat)) :
    ∀ pos, pos ≤ 120 → packItems pos items + 2 ^ pos ≤ 2 ^ 120 := by
  induction items with
  | nil =>
    intro pos hpos
    rw [packItems, Nat.zero_add]
    exact Nat.pow_le_pow_right (by decide) hpos
  | cons item rest ih =>
    obtain ⟨w, v⟩ := item
    intro pos hpos
    rw [packItems]
    split
    · next hfits =>
      have hvalue : v % 2 ^ w + 1 ≤ 2 ^ w := Nat.mod_lt _ (Nat.two_pow_pos w)
      calc v % 2 ^ w * 2 ^ pos + packItems (pos + w) rest + 2 ^ pos
          = (v % 2 ^ w + 1) * 2 ^ pos + packItems (pos + w) rest := by ring
        _ ≤ 2 ^ w * 2 ^ pos + packItems (pos + w) rest := Nat.add_le_add_right (Nat.mul_le_mul_right _ hvalue) _
        _ = packItems (pos + w) rest + 2 ^ (pos + w) := by ring
        _ ≤ 2 ^ 120 := ih _ hfits
    · rw [Nat.zero_add]
      exact Nat.pow_le_pow_right (by decide) hpos

theorem packItems_lt (items : List (Nat × Nat)) : packItems 0 items < 2 ^ 120 := packItems_add_two_pow_le items 0 (by decide)

theorem severity_lt (ev : Nat) : severity ev < 2 ^ 2 := by
  unfold severity
  split_ifs <;> decide

/-- A single bit above the part `z` of a layout is one of the rest. -/
theorem bitAt_append_high {m k i : Nat} (x : BitVec m) (z : BitVec k) (hk : k ≤ i) :
    bitAt (x ++ z).toNat i = bitAt x.toNat (i - k) := by
  rw [bitAt, bitAt, BitVec.testBit_toNat, BitVec.testBit_toNat, BitVec.getLsbD_append, if_neg (by omega)]

theorem bitAt_append_bit {m : Nat} (x : BitVec m) (b : Bool) : bitAt (x ++ BitVec.ofBool b).toNat 0 = b := by
  rw [bitAt, BitVec.testBit_toNat, BitVec.getLsbD_append, if_pos (by decide)]
  cases b <;> rfl

section

variable (sev : Nat) (unlocked : Bool) (ev seq time dom data : Nat)

/-- The fields of a record (R438), the highest first. -/
theorem cairnRecord_fields : let w := (cairnRecord sev unlocked ev seq time dom data).toNat
    fld w 255 252 = 2 ∧ fld w 251 250 = sev % 2 ^ 2 ∧ bitAt w 249 = unlocked ∧ bitAt w 248 = false ∧
    fld w 247 232 = ev % 2 ^ 16 ∧ fld w 231 200 = seq % 2 ^ 32 ∧ fld w 199 136 = time % 2 ^ 64 ∧
    fld w 135 120 = dom % 2 ^ 16 ∧ fld w 119 0 = data % 2 ^ 120 := by
  refine ⟨?version, ?severity, ?unlocked, ?dropped, ?event, ?seq, ?time, ?domain, fld_append_low _ _⟩
  case version =>
    unfold cairnRecord
    iterate 8 rw [fld_append_high _ _ (by decide) (by decide)]
    rfl
  case severity =>
    unfold cairnRecord
    iterate 7 rw [fld_append_high _ _ (by decide) (by decide)]
    exact fld_append_low _ _
  case unlocked =>
    unfold cairnRecord
    iterate 6 rw [bitAt_append_high _ _ (by decide)]
    exact bitAt_append_bit _ _
  case dropped =>
    unfold cairnRecord
    iterate 5 rw [bitAt_append_high _ _ (by decide)]
    exact bitAt_append_bit _ false
  case event =>
    unfold cairnRecord
    iterate 4 rw [fld_append_high _ _ (by decide) (by decide)]
    exact fld_append_low _ _
  case seq =>
    unfold cairnRecord
    iterate 3 rw [fld_append_high _ _ (by decide) (by decide)]
    exact fld_append_low _ _
  case time =>
    unfold cairnRecord
    iterate 2 rw [fld_append_high _ _ (by decide) (by decide)]
    exact fld_append_low _ _
  case domain =>
    unfold cairnRecord
    rw [fld_append_high _ _ (by decide) (by decide)]
    exact fld_append_low _ _

end

/-- A record is counted, and the one that the ring loses (R437). -/
theorem State.log_counts (s : State) (ev dom : Nat) (items : List (Nat × Nat)) :
    (s.log ev dom items).obj 0x9004 2 = (s.obj 0x9004 2 + 1) % 2 ^ 32 ∧
    (s.log ev dom items).obj 0x9004 3 =
      if s.faults.ring.length = 8192 then (s.obj 0x9004 3 + 1) % 2 ^ 64 else s.obj 0x9004 3 := by
  unfold State.log State.on
  dsimp only
  simp only [beq_iff_eq]
  split
  · rw [State.obj_count64, if_neg (by decide), State.obj_count64, if_pos rfl, State.obj_setObj_same,
      State.obj_setObj_other _ (by decide)]
    exact ⟨rfl, rfl⟩
  · rw [State.obj_setObj_same, State.obj_setObj_other _ (by decide)]
    exact ⟨rfl, rfl⟩

/-- Settles O13. -/
theorem cairnRecordsHaveTheirLayout : Obligations.CairnRecordsHaveTheirLayout := by
  refine ⟨fun s ev dom items hev hdom _ => ⟨⟨_, s.log_ring ev dom items, ?_⟩, s.log_counts ev dom items⟩,
    fun pos w v rest hfits => ?packed, fun pos w v rest hover => ?dropped, packItems_lt⟩
  case packed => rw [packItems, if_pos hfits]
  case dropped => rw [packItems, if_neg (by omega)]
  obtain ⟨hversion, hsev, hunlocked, hdropped, hevent, hseq, htime, hdomain, hdata⟩ := cairnRecord_fields (severity ev)
    (!s.time.everLocked) ev (s.obj 0x9004 2) s.now dom (packItems 0 items)
  rw [Nat.mod_eq_of_lt (severity_lt ev)] at hsev
  rw [Nat.mod_eq_of_lt hev] at hevent
  rw [Nat.mod_eq_of_lt hdom] at hdomain
  rw [Nat.mod_eq_of_lt (packItems_lt items)] at hdata
  exact ⟨hversion, hsev, hunlocked, hdropped, hevent, hseq, htime, hdomain, hdata⟩

end Sys2Proof.Machine

/-!
The SMBus target (O52).
-/
namespace Sys2Proof.Machine

/-! ### Answers -/

theorem State.smbusAnswer_good {s : State} (data : List Byte) (hgood : s.boot.good = true) :
    (s.smbusAnswer data).out = .smbus data :: s.out ∧ Only [.out] s (s.smbusAnswer data) :=
  ⟨by rw [State.smbusAnswer, hgood]; rfl, State.smbusAnswer_only (Only.refl _ s) (by decide) data⟩

/-- A read of the target is an answer from power-good, and nothing before it. -/
def SmbusReads (c : Instr) (s : State) (data : List Byte) : Prop := exec c s = .next (s.smbusAnswer data)

theorem SmbusReads.good {c : Instr} {s : State} {data : List Byte} (h : SmbusReads c s data)
    (hgood : s.boot.good = true) : ∃ t, exec c s = .next t ∧ t.out = .smbus data :: s.out ∧ Only [.out] s t :=
  ⟨_, h, State.smbusAnswer_good data hgood⟩

theorem SmbusReads.silent {c : Instr} {s : State} {data : List Byte} (h : SmbusReads c s data)
    (hgood : s.boot.good = false) : exec c s = .next s := by
  rw [h, State.smbusAnswer, hgood]
  rfl

section

variable {s : State} (hdown : s.down = false)
include hdown

theorem readVin_reads : SmbusReads .readVin s (leBytes 2 (linear11 s.supply.mv 1000)) := act_up hdown _

theorem readIin_reads : SmbusReads .readIin s (leBytes 2 (linear11 s.supply.ma 1000)) := act_up hdown _

theorem readTemperature1_reads :
    SmbusReads .readTemperature1 s (leBytes 2 (linear11 (hottest s.supply.dieTemps 6) 1)) := act_up hdown _

theorem readTemperature2_reads :
    SmbusReads .readTemperature2 s (leBytes 2 (linear11 (hottest s.supply.stackTemps 32) 1)) := act_up hdown _

theorem readTemperature3_reads : SmbusReads .readTemperature3 s (leBytes 2 (linear11 s.supply.lidTemp 1)) :=
  act_up hdown _

theorem readPin_reads : SmbusReads .readPin s (leBytes 2 (linear11 (s.drawNow / 1000 : Nat) 1)) := act_up hdown _

theorem pmbusRevision_reads : SmbusReads .pmbusRevision s [0x44] := act_up hdown _

theorem mfrStatus_reads : SmbusReads .mfrStatus s (leBytes 2 s.mfrStatus.toNat) := act_up hdown _

theorem mfrState_reads : SmbusReads .mfrState s
    ([4, s.obj 0x1000 8, s.obj 0xA000 1, s.supply.state, s.obj 0xB000 2].map (BitVec.ofNat 8)) := act_up hdown _

theorem mfrCause_reads : SmbusReads .mfrCause s
    (4 :: leBytes 2 (s.obj 0x9003 2) ++ leBytes 1 (s.obj 0x9003 4) ++ [0]) := act_up hdown _

theorem mfrModule_reads : SmbusReads .mfrModule s (2 :: leBytes 2 s.moduleNumber) := act_up hdown _

theorem mfrSerial_reads : SmbusReads .mfrSerial s (BitVec.ofNat 8 Config.serial.length :: Config.serial) :=
  act_up hdown _

theorem mfrEnergy_reads : SmbusReads .mfrEnergy s (8 :: leBytes 8 (s.supply.energy / 1000000)) := act_up hdown _

end

/-- Every write, and a read of a code that is not listed, is refused (R485). -/
theorem exec_smbusInvalid {s : State} {code : BitVec 8} {write : Bool} (hdown : s.down = false)
    (hgood : s.boot.good = true) (hrefused : write = true ∨ code.toNat ∉ smbusCodes) :
    exec (.smbusInvalid code write) s = .next (s.emit .smbusNack) := by
  change execSmbusInvalid code write s = _
  have hnack : (s.boot.good && (write || !smbusCodes.contains code.toNat)) = true := by
    simpa [hgood] using hrefused
  rw [execSmbusInvalid, act_up hdown, hnack]
  rfl

/-- A module that asserts SMB_ALERT_N answers with its address and releases the line (R482). -/
theorem exec_alertResponse_asserted {s : State} (hdown : s.down = false) (halert : s.boot.alert = true) :
    exec .alertResponse s = .next ((s.setBoot fun b => { b with alert := false }).smbusAnswer
      [BitVec.ofNat 8 (0x58 + s.obj 0x1000 9 / 2 % 8)]) := by
  change execAlertResponse s = _
  rw [execAlertResponse, act_up hdown, if_pos halert]

theorem exec_alertResponse_released {s : State} (hdown : s.down = false) (hgood : s.boot.good = true)
    (halert : s.boot.alert = false) : exec .alertResponse s = .next (s.emit .smbusNack) := by
  change execAlertResponse s = _
  rw [execAlertResponse, act_up hdown, if_neg (by simp [halert]), hgood]
  rfl

/-! ### MFR_STATUS -/

/-- The bits of MFR_STATUS (R486). -/
theorem State.mfrStatus_bits (s : State) : let w := s.mfrStatus.toNat
    (bitAt w 0 = true ↔ s.obj 0x1000 8 = 0) ∧ (bitAt w 1 = true ↔ s.obj 0x9003 1 = 1) ∧ bitAt w 2 = s.boot.failed ∧
    (bitAt w 3 = true ↔ s.supply.state ≠ 0) ∧ bitAt w 4 = s.supply.brace ∧ (bitAt w 5 = true ↔ s.supply.warned ≠ []) ∧
    bitAt w 6 = s.supply.governor ∧ bitAt w 7 = s.supply.refLost ∧ (bitAt w 8 = true ↔ s.obj 0x9003 3 = 1) := by
  unfold State.mfrStatus
  dsimp only
  refine ⟨?ready, ?outOfService, ?failed, ?supply, ?brace, ?warned, ?governor, ?reference, ?stage⟩
  case ready => rw [bitAt_append_bit]; exact beq_iff_eq
  case outOfService =>
    rw [bitAt_append_high _ _ (by decide), bitAt_append_bit]
    exact beq_iff_eq
  case failed =>
    iterate 2 rw [bitAt_append_high _ _ (by decide)]
    exact bitAt_append_bit _ _
  case supply =>
    iterate 3 rw [bitAt_append_high _ _ (by decide)]
    rw [bitAt_append_bit]
    exact bne_iff_ne
  case brace =>
    iterate 4 rw [bitAt_append_high _ _ (by decide)]
    exact bitAt_append_bit _ _
  case warned =>
    iterate 5 rw [bitAt_append_high _ _ (by decide)]
    rw [bitAt_append_bit]
    simp
  case governor =>
    iterate 6 rw [bitAt_append_high _ _ (by decide)]
    exact bitAt_append_bit _ _
  case reference =>
    iterate 7 rw [bitAt_append_high _ _ (by decide)]
    exact bitAt_append_bit _ _
  case stage =>
    iterate 8 rw [bitAt_append_high _ _ (by decide)]
    rw [bitAt_append_bit]
    exact beq_iff_eq

theorem State.mfrStatus_lt (s : State) : s.mfrStatus.toNat < 512 := by
  refine Nat.lt_pow_two_of_testBit (n := 9) _ fun i hi => ?_
  change bitAt s.mfrStatus.toNat i = false
  unfold State.mfrStatus
  dsimp only
  iterate 9 rw [bitAt_append_high _ _ (by omega)]
  exact Nat.zero_testBit _

/-- The line is asserted where a bit of MFR_STATUS has risen, and only there (R486). -/
theorem State.alerting_asserts (s : State) (f : State → State) : (s.alerting f).boot.alert = true ∨
    (s.alerting f = f s ∧ ∀ i, i < 16 → bitAt (f s).mfrStatus.toNat i = true → bitAt s.mfrStatus.toNat i = true) := by
  unfold State.alerting
  dsimp only
  split
  · next hnone =>
    refine .inr ⟨rfl, fun i hi hset => ?_⟩
    have hbit := congrArg (BitVec.getLsbD · i) hnone
    rw [bitAt, BitVec.testBit_toNat] at hset ⊢
    simpa [hi, hset] using hbit
  · exact .inl rfl

/-- Settles O52. -/
theorem smbusTarget : Obligations.SmbusTarget := by
  intro s hdown
  refine ⟨fun hgood => ⟨(readVin_reads hdown).good hgood, (readIin_reads hdown).good hgood,
    (readTemperature1_reads hdown).good hgood, (readTemperature2_reads hdown).good hgood,
    (readTemperature3_reads hdown).good hgood, (readPin_reads hdown).good hgood, (pmbusRevision_reads hdown).good hgood,
    (mfrStatus_reads hdown).good hgood, (mfrState_reads hdown).good hgood, (mfrCause_reads hdown).good hgood,
    (mfrModule_reads hdown).good hgood, (mfrSerial_reads hdown).good hgood, (mfrEnergy_reads hdown).good hgood,
    fun code write hrefused => ?invalid, fun halert => ?asserted, fun halert => ?released⟩, fun hgood => ?silent, ?bits,
    s.alerting_asserts⟩
  case invalid =>
    exact ⟨_, exec_smbusInvalid hdown hgood hrefused, rfl, State.emit_only (Only.refl _ s) (by decide) _⟩
  case asserted =>
    refine ⟨_, exec_alertResponse_asserted hdown halert, ?_⟩
    obtain ⟨hout, hframe⟩ := State.smbusAnswer_good (s := s.setBoot fun b => { b with alert := false })
      [BitVec.ofNat 8 (0x58 + s.obj 0x1000 9 / 2 % 8)] hgood
    exact ⟨congrArg Boot.alert (hframe.2 .boot (by decide)) |>.trans (hframe.2 .alert (by decide)), hout,
      State.smbusAnswer_only (State.setBoot_only'' (Only.refl _ s) (by decide) _ fun _ => rfl) (by decide) _⟩
  case released =>
    exact ⟨_, exec_alertResponse_released hdown hgood halert, rfl, State.emit_only (Only.refl _ s) (by decide) _⟩
  case silent =>
    simp only [List.forall_mem_cons, List.not_mem_nil, false_implies, implies_true, and_true]
    exact ⟨(readVin_reads hdown).silent hgood, (readIin_reads hdown).silent hgood,
      (readTemperature1_reads hdown).silent hgood, (readTemperature2_reads hdown).silent hgood,
      (readTemperature3_reads hdown).silent hgood, (readPin_reads hdown).silent hgood,
      (pmbusRevision_reads hdown).silent hgood, (mfrStatus_reads hdown).silent hgood, (mfrState_reads hdown).silent hgood,
      (mfrCause_reads hdown).silent hgood, (mfrModule_reads hdown).silent hgood, (mfrSerial_reads hdown).silent hgood,
      (mfrEnergy_reads hdown).silent hgood⟩
  case bits =>
    obtain ⟨hready, hoos, hfailed, hsupply, hbrace, hwarned, hgovernor, href, hstage⟩ := s.mfrStatus_bits
    exact ⟨hready, hoos, hfailed, hsupply, hbrace, hwarned, hgovernor, href, hstage, s.mfrStatus_lt⟩

end Sys2Proof.Machine

/-!
A hang on a core that has formed no fence (O11).
-/
namespace Sys2Proof.Machine

/-- A core without a replay record starts no recovery: the job stage fails (R426). -/
theorem State.hang_unfenced {s : State} {c : Nat} (cause : Nat) (mover : Option (Fin 2)) (hnone : s.recovery c = none)
    (hreplay : (s.core c).replay = []) : s.hang c cause mover = (s.schedFault.faultCount cause).jobFail cause := by
  have hcore : (s.schedFault.faultCount cause).core c = s.core c := by
    rw [State.faultCount, State.count_core, State.schedFault, State.setHold_core]
  unfold State.hang State.startRecovery
  rw [hnone]
  dsimp only
  rw [if_neg (by simp [hreplay]), if_pos (by rw [hcore, hreplay]; rfl)]

/-- The job stage fails at a hang of a core without a replay record, for the cause of the hang. -/
theorem State.paceLogged_hang_unfenced {s : State} {c : Nat} (n dom : Nat) (items : List (Nat × Nat)) (cause : Nat)
    (mover : Option (Fin 2)) (hnone : s.recovery c = none) (hreplay : (s.core c).replay = [])
    (hloaded : s.job.loaded = true) (hstage : s.obj 0x9003 3 ≠ 1) :
    let t := (s.paceLogged n dom items).hang c cause mover
    t.obj 0x9003 3 = 1 ∧ t.obj 0x9003 4 = cause ∧ t.recovery c = none := by
  have hlogged := s.paceLogged_frame n dom items
  have hflagged : Only [.hold, .objects] (s.paceLogged n dom items) ((s.paceLogged n dom items).schedFault.faultCount cause) :=
    State.faultCount_only (State.schedFault_only (Only.refl _ _) (by decide)) (by decide) cause
  have hfailed := State.jobFail_only (Only.refl [.out, .hold, .links, .ctxs, .objects, .ring, .msix, .alert]
    ((s.paceLogged n dom items).schedFault.faultCount cause)) (by decide) cause
  rw [State.hang_unfenced cause mover ((recovery_of_only hlogged (by decide) c).trans hnone)
    (by rw [core_of_only hlogged (by decide), hreplay])]
  obtain ⟨hstate, hcause, -, -⟩ := jobFail_failed (s := (s.paceLogged n dom items).schedFault.faultCount cause) cause
    (((hflagged.2 .job (by decide)).trans (hlogged.2 .job (by decide))).symm ▸ hloaded) (by
      rw [State.faultCount, State.obj_count, if_neg (by unfold okey; omega)]
      exact (State.paceLogged_obj _ _ _ _ (by decide) (by decide)).trans_ne (by rwa [if_neg (by decide)]))
  exact ⟨hstate, hcause, by
    rw [recovery_of_only hfailed (by decide), recovery_of_only hflagged (by decide), recovery_of_only hlogged (by decide),
      hnone]⟩

section
variable {s : State} (hdown : s.down = false)
include hdown

/-- CONTEXT_PACE_EXPIRE on a core that is not in a recovery is a hang. -/
theorem exec_contextPaceExpire_hangs {core : Core} {ctx : Ctx} (hnone : s.recovery core = none)
    (hpaced : s.paceExempt core ctx = false) : exec (.contextPaceExpire core ctx) s =
      .next ((s.paceLogged (max (s.ctx core ctx).pace s.hold.endedAt + s.obj 0x9000 1) (domCore core)
        [(8, core), (3, ctx)]).hang core 2 none) := by
  have hframe := s.paceLogged_frame (max (s.ctx core ctx).pace s.hold.endedAt + s.obj 0x9000 1) (domCore core)
    [(8, core), (3, ctx)]
  change execContextPaceExpire core ctx s = _
  rw [execContextPaceExpire, act_up hdown, if_neg (by simp [hpaced])]
  dsimp only
  rw [← State.paceLogged, if_neg (by rw [recovery_of_only hframe (by decide), hnone]; simp)]

/-- MOVER_PACE_EXPIRE of a mover that has work, on a core that runs, is a hang. -/
theorem exec_moverPaceExpire_hangs {m : Mover} (hcore : s.coreDown (m.val / 2) = false)
    (hbusy : ((s.mover m).run = none ∧ (s.mover m).queue ≠ []) ∨
      (∃ r, (s.mover m).run = some r ∧ (r.moved = false ∨ r.remaining = 0))) : exec (.moverPaceExpire m) s =
      .next ((s.paceLogged ((s.mover m).pace + s.obj 0x9000 2) (domMover m) [(8, m.val / 2), (1, m % 2)]).hang
        (m.val / 2) 3 (some ⟨m % 2, Nat.mod_lt _ (by decide)⟩)) := by
  change execMoverPaceExpire m s = _
  rw [execMoverPaceExpire, act_up hdown]
  dsimp only
  rw [if_neg ?waits, ← State.paceLogged]
  case waits =>
    rcases hbusy with ⟨hrun, hqueue⟩ | ⟨r, hrun, hr | hr⟩
    · simpa [hrun, hcore] using hqueue
    · simp [hrun, hcore, hr]
    · simp [hrun, hcore, hr]

end

/-- Settles O11. -/
theorem noFenceNoReplay : Obligations.NoFenceNoReplay := by
  refine fun s core hdown hreplay hnone hloaded hstage => ⟨fun x hpaced => ?context, fun m hm hcore hbusy => ?mover,
    ?refused⟩
  case context =>
    exact ⟨_, exec_contextPaceExpire_hangs hdown hnone hpaced,
      State.paceLogged_hang_unfenced _ _ _ 2 none hnone hreplay hloaded hstage⟩
  case mover =>
    rw [← hm] at hnone hreplay hcore ⊢
    exact ⟨_, exec_moverPaceExpire_hangs hdown hcore hbusy,
      State.paceLogged_hang_unfenced _ _ _ 3 _ hnone hreplay hloaded hstage⟩
  case refused =>
    exact ⟨_, exec_replay_refused hdown hreplay, congrArg (_ :: ·) ((s.wakeCore_frame core).2 .out (by decide)),
      s.wakeCore_ctxs core⟩

end Sys2Proof.Machine

/-!
The command and completion rings of the host (O54).
-/
namespace Sys2Proof.Machine

/-! ### Entries -/

/-- The commands of the ring, each with its opcode (R452). -/
def ringCommands (e : BitVec 512) (bus : List Byte) (err : Bool) : List (Nat × Instr) :=
  [(1, .jobLoad e), (2, .jobUnload e), (3, .ttLoad e), (4, .imemLoad e), (5, .ctxStart e), (6, .ctxStop e), (7, .ctxRead e),
    (8, .flowOpen e), (9, .flowClose e), (10, .flowHead e), (11, .bulkCopy e bus err)]

/-- Each of them is a command of the ring under its own opcode. -/
theorem exec_ringCommand {e : BitVec 512} {bus : List Byte} {err : Bool} {c : Nat × Instr} (hc : c ∈ ringCommands e bus err) :
    ∃ run, exec c.2 = hostCommand c.1 e run := by
  simp only [ringCommands, List.mem_cons, List.not_mem_nil, or_false] at hc
  rcases hc with rfl | rfl | rfl | rfl | rfl | rfl | rfl | rfl | rfl | rfl | rfl
  · exact ⟨_, (show exec (.jobLoad e) = execJobLoad e from rfl).trans (funext fun s => rfl)⟩
  · exact ⟨_, (show exec (.jobUnload e) = execJobUnload e from rfl).trans (funext fun s => rfl)⟩
  · exact ⟨_, (show exec (.ttLoad e) = execTtLoad e from rfl).trans (funext fun s => rfl)⟩
  · exact ⟨_, (show exec (.imemLoad e) = execImemLoad e from rfl).trans (funext fun s => rfl)⟩
  · exact ⟨_, (show exec (.ctxStart e) = execCtxStart e from rfl).trans (funext fun s => rfl)⟩
  · exact ⟨_, (show exec (.ctxStop e) = execCtxStop e from rfl).trans (funext fun s => rfl)⟩
  · exact ⟨_, (show exec (.ctxRead e) = execCtxRead e from rfl).trans (funext fun s => rfl)⟩
  · exact ⟨_, (show exec (.flowOpen e) = execFlowOpen e from rfl).trans (funext fun s => rfl)⟩
  · exact ⟨_, (show exec (.flowClose e) = execFlowClose e from rfl).trans (funext fun s => rfl)⟩
  · exact ⟨_, (show exec (.flowHead e) = execFlowHead e from rfl).trans (funext fun s => rfl)⟩
  · exact ⟨_, (show exec (.bulkCopy e bus err) = execBulkCopy e bus err from rfl).trans (funext fun s => rfl)⟩

section
variable {s : State} {opcode : Nat} {e : BitVec 512} (run : Nat → State → Result) (hdown : s.down = false)
include hdown

/-- A command waits until management firmware runs. -/
theorem hostCommand_waits (hstage : s.boot.stage < 2) : hostCommand opcode e run s = .next s := by
  rw [hostCommand, act_up hdown, if_pos (by simp [hstage])]

/-- An entry that is not as the ring gives it completes with STATUS 0x01. -/
theorem hostCommand_malformed (hstage : 2 ≤ s.boot.stage) (hbad : entryOk e.toNat = false)
    (hopcode : eOpcode e.toNat = opcode ∨ eOpcode e.toNat = 0 ∨ 11 < eOpcode e.toNat) :
    hostCommand opcode e run s = .next (((s.mpUp.takeEntry e).complete e.toNat 1 []).streamAll) := by
  rw [hostCommand, act_up hdown, if_neg ?mine]
  · dsimp only
    rw [if_neg (by simp [hbad])]
  case mine =>
    simp only [Bool.or_eq_true, Bool.and_eq_true, decide_eq_true_eq, bne_iff_ne, ne_eq]
    omega

end

/-- The entry is taken at CMD_TAIL, and the completion ring has room for its completion (R450). -/
theorem State.takeEntry_taken (s : State) (e : BitVec 512) : let u := s.takeEntry e
    Tbl.get 0 u.host.commands s.host.cmdTail = e ∧ u.host.cmdTail = (s.host.cmdTail + 1) % 256 ∧
    u.host.cmdHead = u.host.cmdTail ∧ (s.host.cplTail < 256 → (u.host.cplTail + 1) % 256 ≠ u.host.cplHead) := by
  refine ⟨Tbl.get_set_same, rfl, rfl, fun hcpl => ?_⟩
  change (s.host.cplTail + 1) % 256 ≠ if (s.host.cplTail + 1) % 256 = s.host.cplHead then s.host.cplTail else s.host.cplHead
  split <;> omega

/-! ### Completions -/

/-- The fields of a completion entry (R451), the highest first. -/
theorem completionEntry_fields (phase : Bool) (opcode tag status : Nat) (words : List Nat) :
    let c := (completionEntry phase opcode tag status words).toNat
    fld c 255 252 = 2 ∧ bitAt c 251 = phase ∧ fld c 250 243 = opcode % 2 ^ 8 ∧ fld c 242 227 = tag % 2 ^ 16 ∧
    fld c 226 219 = status % 2 ^ 8 ∧ fld c 218 192 = 0 ∧ fld c 191 128 = words.getD 2 0 % 2 ^ 64 ∧
    fld c 127 64 = words.getD 1 0 % 2 ^ 64 ∧ fld c 63 0 = words.getD 0 0 % 2 ^ 64 := by
  refine ⟨?version, ?phase, ?opcode, ?tag, ?status, ?reserved, ?third, ?second, fld_append_low _ _⟩
  case version =>
    unfold completionEntry
    iterate 8 rw [fld_append_high _ _ (by decide) (by decide)]
    rfl
  case phase =>
    unfold completionEntry
    iterate 7 rw [bitAt_append_high _ _ (by decide)]
    exact bitAt_append_bit _ _
  case opcode =>
    unfold completionEntry
    iterate 6 rw [fld_append_high _ _ (by decide) (by decide)]
    exact fld_append_low _ _
  case tag =>
    unfold completionEntry
    iterate 5 rw [fld_append_high _ _ (by decide) (by decide)]
    exact fld_append_low _ _
  case status =>
    unfold completionEntry
    iterate 4 rw [fld_append_high _ _ (by decide) (by decide)]
    exact fld_append_low _ _
  case reserved =>
    unfold completionEntry
    iterate 3 rw [fld_append_high _ _ (by decide) (by decide)]
    exact fld_append_low _ _
  case third =>
    unfold completionEntry
    iterate 2 rw [fld_append_high _ _ (by decide) (by decide)]
    exact fld_append_low _ _
  case second =>
    unfold completionEntry
    rw [fld_append_high _ _ (by decide) (by decide)]
    exact fld_append_low _ _

/-- The completion ring takes the entry at CPL_TAIL, before anything is logged or interrupted (R451). -/
def State.completed (s : State) (e status : Nat) (words : List Nat) : State :=
  s.setHost fun p => { p with
    completions := Tbl.set 0 p.completions p.cplTail (completionEntry p.phase (eOpcode e) (eTag e) status words)
    cplTail := (p.cplTail + 1) % 256
    phase := if p.cplTail = 255 then !p.phase else p.phase }

theorem State.complete_eq (s : State) (e status : Nat) (words : List Nat) : s.complete e status words =
    ((s.completed e status words).on (status != 0) (·.log 0xA00C (domMp 0) [(8, eOpcode e), (8, status)])).interrupt 0 := rfl

theorem State.on_log_frame (s : State) (b : Bool) (ev dom : Nat) (items : List (Nat × Nat)) :
    Only [.objects, .ring] s (s.on b (·.log ev dom items)) := by
  unfold State.on
  split
  · exact State.log_only (Only.refl _ s) (by decide) ..
  · exact Only.refl _ s

theorem State.on_log_host (s : State) (b : Bool) (ev dom : Nat) (items : List (Nat × Nat)) :
    (s.on b (·.log ev dom items)).host = s.host := by
  unfold State.on
  split
  · exact State.log_host ..
  · rfl

/-- Of the host port an interrupt changes a pending bit alone. -/
theorem State.interrupt_host (s : State) (v : Nat) :
    (s.interrupt v).host = { s.host with pendingBits := (s.interrupt v).host.pendingBits } := by
  unfold State.interrupt
  split <;> rfl

theorem State.complete_host (s : State) (e status : Nat) (words : List Nat) : (s.complete e status words).host =
    { (s.completed e status words).host with pendingBits := (s.complete e status words).host.pendingBits } := by
  rw [State.complete_eq, State.interrupt_host, State.on_log_host]

theorem State.complete_ring (s : State) (e status : Nat) (words : List Nat) : (s.complete e status words).faults.ring =
    ((s.completed e status words).on (status != 0) (·.log 0xA00C (domMp 0) [(8, eOpcode e), (8, status)])).faults.ring := by
  rw [State.complete_eq, State.interrupt_faults]

theorem State.complete_refusal {s : State} {e status : Nat} (words : List Nat) (hstatus : status ≠ 0) :
    Logged s (s.complete e status words) [0xA00C] := by
  refine Logged.congr ?_ (s.complete_ring e status words)
  rw [State.on, if_pos (by simpa using hstatus)]
  exact logged1 rfl _ _ _ (by decide)

theorem State.complete_success (s : State) (e : Nat) (words : List Nat) :
    (s.complete e 0 words).faults.ring = s.faults.ring := s.complete_ring e 0 words

/-- Vector 0 fires, or is pending (R456). -/
theorem State.complete_interrupts (s : State) (e status : Nat) (words : List Nat) :
    if Tbl.get false s.host.unmasked 0 then (s.complete e status words).out = .msix 0 :: s.out
    else Tbl.get false (s.complete e status words).host.pendingBits 0 = true := by
  rw [State.complete_eq]
  have hframe := (s.completed e status words).on_log_frame (status != 0) 0xA00C (domMp 0) [(8, eOpcode e), (8, status)]
  have hhost := (s.completed e status words).on_log_host (status != 0) 0xA00C (domMp 0) [(8, eOpcode e), (8, status)]
  generalize State.on _ _ _ = u at hframe hhost ⊢
  have hout : u.out = s.out := hframe.2 .out (by decide)
  have hunmasked : u.host.unmasked = s.host.unmasked := by rw [hhost]; rfl
  rw [← hout, ← hunmasked]
  unfold State.interrupt
  split
  · rfl
  · dsimp only
    exact Tbl.get_set_same

/-- Settles O54. -/
theorem commandAndCompletionRings : Obligations.CommandAndCompletionRings := by
  intro s e bus err hdown
  refine ⟨fun c hc hstage => ?waits, fun c hc hstage hbad hopcode => ?malformed, fun c hc hstage hok hopcode => ?runs,
    s.takeEntry_taken e, fun status words hstatus => ?completion⟩
  case waits =>
    obtain ⟨run, hrun⟩ := exec_ringCommand (e := e) (bus := bus) (err := err) hc
    rw [hrun, hostCommand_waits run hdown hstage]
  case malformed =>
    obtain ⟨run, hrun⟩ := exec_ringCommand (e := e) (bus := bus) (err := err) hc
    rw [hrun, hostCommand_malformed run hdown hstage hbad hopcode]
  case runs =>
    obtain ⟨run, hrun⟩ := exec_ringCommand (e := e) (bus := bus) (err := err) hc
    exact ⟨_, _, _, (congrFun hrun s).trans (hostCommand_runs run hdown hstage hok hopcode)⟩
  case completion =>
    have hhost := s.complete_host e.toNat status words
    obtain ⟨hversion, hphase, hopcode, htag, hcode, hreserved, hthird, hsecond, hfirst⟩ :=
      completionEntry_fields s.host.phase (eOpcode e.toNat) (eTag e.toNat) status words
    have hentry : Tbl.get 0 (s.complete e.toNat status words).host.completions s.host.cplTail =
        completionEntry s.host.phase (eOpcode e.toNat) (eTag e.toNat) status words := by
      rw [hhost]
      exact Tbl.get_set_same
    refine ⟨?fields, ?tail, ?turn, s.complete_refusal words, ?success, s.complete_interrupts e.toNat status words⟩
    case fields =>
      dsimp only
      rw [hentry]
      refine ⟨hversion, hphase, ?_, ?_, hcode.trans (Nat.mod_eq_of_lt hstatus), hreserved, fun i hi => ?_⟩
      · exact hopcode.trans (Nat.mod_eq_of_lt (Nat.mod_lt _ (by decide)))
      · exact htag.trans (Nat.mod_eq_of_lt (Nat.mod_lt _ (by decide)))
      · match i, hi with
        | 0, _ => exact hfirst
        | 1, _ => exact hsecond
        | 2, _ => exact hthird
    case tail => rw [hhost]; rfl
    case turn => rw [hhost]; rfl
    case success => rintro rfl; exact s.complete_success e.toNat words

end Sys2Proof.Machine

/-!
BULK_COPY (O57).
-/
namespace Sys2Proof.Machine

/-! ### The pieces of a copy (R452) -/

theorem pieces_pos {va n : Nat} {p : Nat × Nat} (hp : p ∈ pieces va n) : 0 < p.2 := by
  unfold pieces unitsOf at hp
  split at hp
  · cases hp
  · simp only [List.map_map, List.mem_map, List.mem_range, Function.comp_apply] at hp
    obtain ⟨i, hi, rfl⟩ := hp
    omega

/-- The pieces up to a unit fill the range up to the unit's end. -/
theorem sum_pieces_upto {va n : Nat} (k : Nat) (hk : k ≤ (va + n - 1) / 65536 - va / 65536 + 1) (hn : 0 < n) :
    ((List.range k).map fun i => min (va + n) (65536 * (va / 65536 + i + 1)) - max va (65536 * (va / 65536 + i))).sum =
      min (va + n) (65536 * (va / 65536 + k)) - va := by
  induction k with
  | zero => simp only [List.range_zero, List.map_nil, List.sum_nil]; omega
  | succ k ih =>
    rw [List.range_succ, List.map_append, List.sum_append, ih (by omega)]
    simp only [List.map_cons, List.map_nil, List.sum_cons, List.sum_nil]
    omega

/-- The pieces of a range are as long as the range. -/
theorem sum_pieces (va n : Nat) : ((pieces va n).map (·.2)).sum = n := by
  unfold pieces unitsOf
  split
  · next hn => rw [hn]; rfl
  · next hn =>
    rw [List.map_map, List.map_map]
    refine (sum_pieces_upto ((va + n - 1) / 65536 - va / 65536 + 1) (Nat.le_refl _) (Nat.pos_of_ne_zero hn)).trans ?_
    omega

theorem bulkStatus_cases (code : Nat) : bulkStatus code = 5 ∨ bulkStatus code = 7 := by
  unfold bulkStatus
  split <;> simp

section
variable (s : State) (pages : List TcEntry) (key : BitVec 8) (write : Bool)

theorem State.bulkPieces_status (ps : List (Nat × Nat)) (h : (s.bulkPieces pages key write ps).2 ≠ 0) :
    (s.bulkPieces pages key write ps).2 = 5 ∨ (s.bulkPieces pages key write ps).2 = 7 := by
  induction ps with
  | nil => exact absurd rfl h
  | cons p rest ih =>
    unfold State.bulkPieces at h ⊢
    dsimp only at h ⊢
    split at h
    · exact bulkStatus_cases _
    · exact ih h

/-- Where every piece can be accessed, the physical pieces are as long as the pieces of the range. -/
theorem State.bulkPieces_lengths (ps : List (Nat × Nat)) (h : (s.bulkPieces pages key write ps).2 = 0) :
    (s.bulkPieces pages key write ps).1.map (·.2) = ps.map (·.2) := by
  induction ps with
  | nil => rfl
  | cons p rest ih =>
    unfold State.bulkPieces at h ⊢
    dsimp only at h ⊢
    split at h
    · next c hcode =>
      obtain hc | hc := bulkStatus_cases c <;> (rw [hc] at h; cases h)
    · exact congrArg (p.2 :: ·) (ih h)

end

/-- Pieces cut to their own length are whole. -/
theorem cutPieces_whole (ps : List (Nat × Nat)) (hpos : ∀ n ∈ ps.map (·.2), 0 < n) :
    cutPieces (ps.map (·.2)).sum ps = ps := by
  induction ps with
  | nil => rfl
  | cons p rest ih =>
    obtain ⟨a, n⟩ := p
    have hn : 0 < n := hpos n List.mem_cons_self
    rw [List.map_cons, List.sum_cons, cutPieces, if_neg (by omega), Nat.min_eq_right (Nat.le_add_right _ _),
      Nat.add_sub_cancel_left, ih fun m hm => hpos m (List.mem_cons_of_mem _ hm)]

theorem foldl_lengths (ps : List (Nat × Nat)) : ps.foldl (fun n p => n + p.2) 0 = (ps.map (·.2)).sum := by
  rw [List.sum_eq_foldl, List.foldl_map]

/-- What is written over pieces of memory depends on the memory alone. -/
theorem State.writePieces_mem {s t : State} (h : s.mem = t.mem) (ps : List (Nat × Nat)) (bs : List Byte) :
    (s.writePieces ps bs).mem = (t.writePieces ps bs).mem := by
  induction ps generalizing s t bs with
  | nil => exact h
  | cons p rest ih =>
    refine ih ?_ _
    exact congrArg (Memory.write · p.1 (bs.take p.2)) h

theorem fit_length {n : Nat} {bs : List Byte} (h : bs.length = n) : fit n bs = bs := by
  rw [fit, ← h, Nat.sub_self, List.replicate_zero, List.append_nil, List.take_length]

/-! ### The copy -/

/-- The length that a copy may not have (R452). -/
def bulkBad (e : Nat) : Prop :=
  eArg e 3 = 0 ∨ eArg e 3 % 64 ≠ 0 ∨ 2 ^ 32 < eArg e 3 ∨ 2 ^ 48 < eArg e 2 + eArg e 3

/-- The physical pieces of a copy, and its STATUS before the bus. -/
def State.bulkRun (s : State) (e : Nat) : List (Nat × Nat) × Nat :=
  s.bulkPieces (s.walkPages (eArg e 2) (eArg e 3)) (BitVec.ofNat 8 (eArg e 4)) (!bitAt (eArg e 0) 0)
    (pieces (eArg e 2) (eArg e 3))

section
variable {s : State} {e : Nat} (bus : List Byte) (err : Bool)

theorem State.bulkCopy_unowned (howner : s.obj 0xB020 4 ≠ 2) : s.bulkCopy e bus err = s.fails 4 (okey 0xB020 4) := by
  unfold State.bulkCopy
  exact if_pos howner

variable (howner : s.obj 0xB020 4 = 2)
include howner

theorem State.bulkCopy_badLength (hbad : bulkBad e) : s.bulkCopy e bus err = s.fails 3 452 := by
  unfold State.bulkCopy
  exact (if_neg (by simp [howner])).trans (if_pos hbad)

/-- The STATUS of a copy whose length is good: that of its pieces, or the bus's. -/
theorem State.bulkCopy_status (hgood : ¬ bulkBad e) : ∃ v, s.bulkCopy e bus err =
    (if (s.bulkRun e).2 ≠ 0 then (s.bulkRun e).2 else if err then 8 else 0, [], v) := by
  unfold State.bulkCopy
  exact ⟨_, (if_neg (by simp [howner])).trans (if_neg hgood)⟩

/-- A copy that succeeds moves all of its pieces. -/
theorem State.bulkCopy_success (hgood : ¬ bulkBad e) (hrun : (s.bulkRun e).2 = 0) : s.bulkCopy e bus false =
    (0, [], if bitAt (eArg e 0) 0 then
        s.draw.2.emit (.hostWrite (eArg e 1) ((s.bulkRun e).1.flatMap fun p => s.read p.1 p.2))
      else s.draw.2.writePieces (s.bulkRun e).1 (fit (eArg e 3) bus)) := by
  have hlengths := State.bulkPieces_lengths _ _ _ _ _ hrun
  have hsum : ((s.bulkRun e).1.map (·.2)).sum = eArg e 3 := (congrArg List.sum hlengths).trans (sum_pieces ..)
  have htotal : (s.bulkRun e).1.foldl (fun n p => n + p.2) 0 = eArg e 3 := (foldl_lengths _).trans hsum
  have hcut : cutPieces (eArg e 3) (s.bulkRun e).1 = (s.bulkRun e).1 := by
    rw [← hsum]
    refine cutPieces_whole _ fun n hn => ?_
    obtain ⟨p, hp, rfl⟩ := List.mem_map.mp (hlengths ▸ hn)
    exact pieces_pos hp
  have hlength : (eArg e 3 != 0) = true := bne_iff_ne.mpr fun h => hgood (.inl h)
  unfold State.bulkCopy
  refine (if_neg (by simp [howner])).trans ((if_neg hgood).trans ?_)
  dsimp only
  rw [← State.bulkRun, hrun, htotal]
  simp only [ne_eq, not_true_eq_false, if_false, Bool.false_eq_true, if_true, hcut, hlength, State.on]
  rfl

end

theorem exec_bulkCopy {s : State} {e : BitVec 512} (bus : List Byte) (err : Bool) (hdown : s.down = false)
    (hstage : 2 ≤ s.boot.stage) (hok : entryOk e.toNat = true) (hopcode : eOpcode e.toNat = 11) {v : State} {status : Nat}
    {words : List Nat} (hcopy : (s.mpUp.takeEntry e).bulkCopy e.toNat bus err = (status, words, v)) :
    exec (.bulkCopy e bus err) s = .next ((v.complete e.toNat status words).streamAll) := by
  refine (hostCommand_runs (fun e s => s.bulkCopy e bus err) hdown hstage hok hopcode).trans ?_
  rw [hcopy, State.answers]

/-- Settles O57. -/
theorem bulkCopies : Obligations.BulkCopies := by
  intro s e bus err hdown hstage hok hopcode w u va len key out c ends bad
  have howner : u.obj 0xB020 4 = s.obj 0xB020 4 := s.takeEntry_obj e _ _
  have hmem : u.mem = s.mem := (s.takeEntry_frame e).2 .mem (by decide)
  refine ⟨fun hother => ?unowned, fun hmine => ⟨fun hbad => ?badLength, fun hgood => ⟨fun hrun hbus hout => ?out,
    fun hrun hbus hin hlength => ?into, fun (hrun : (u.bulkRun w).2 ≠ 0) => ?pages, fun (hrun : (u.bulkRun w).2 = 0) hbus => ?bus⟩⟩⟩
  case unowned =>
    exact exec_bulkCopy bus err hdown hstage hok hopcode (State.bulkCopy_unowned bus err (by rwa [howner]))
  case badLength =>
    exact exec_bulkCopy bus err hdown hstage hok hopcode (State.bulkCopy_badLength bus err (howner.trans hmine) hbad)
  case out =>
    have hcopy := State.bulkCopy_success (e := w) bus (howner.trans hmine) hgood hrun
    rw [if_pos hout] at hcopy
    rw [← hbus] at hcopy
    have hread : ∀ p : Nat × Nat, u.read p.1 p.2 = s.read p.1 p.2 := fun p => congrArg (Memory.read · p.1 p.2) hmem
    refine ⟨_, exec_bulkCopy bus err hdown hstage hok hopcode hcopy, hmem, ?_⟩
    simp only [State.emit, hread]
    rfl
  case into =>
    have hcopy := State.bulkCopy_success (e := w) bus (howner.trans hmine) hgood hrun
    rw [if_neg (by simpa using hin), fit_length hlength] at hcopy
    rw [← hbus] at hcopy
    refine ⟨_, exec_bulkCopy bus err hdown hstage hok hopcode hcopy, ?_⟩
    exact State.writePieces_mem (s := u.draw.2) (t := u) rfl (u.bulkRun w).1 bus
  case pages =>
    obtain ⟨v, hcopy⟩ := State.bulkCopy_status (e := w) bus err (howner.trans hmine) hgood
    rw [if_pos hrun] at hcopy
    exact ⟨v, exec_bulkCopy bus err hdown hstage hok hopcode hcopy, State.bulkPieces_status _ _ _ _ _ hrun⟩
  case bus =>
    obtain ⟨v, hcopy⟩ := State.bulkCopy_status (e := w) bus err (howner.trans hmine) hgood
    rw [if_neg (by simpa using hrun), if_pos hbus] at hcopy
    exact ⟨v, exec_bulkCopy bus err hdown hstage hok hopcode hcopy⟩

end Sys2Proof.Machine

/-!
The host function (O60): BAR2, DOE, IDE_KM and the function reset.
-/
namespace Sys2Proof.Machine

/-! ### BAR2 (R448) -/

section
variable {s : State}

theorem State.configUp_of (hgood : s.boot.good = true) (hstage : 2 ≤ s.boot.stage) : s.configUp = true := by
  simp [State.configUp, hgood, hstage]

theorem State.configUp_not (h : s.boot.good = false ∨ s.boot.stage < 2) : s.configUp = false := by
  rcases h with h | h <;> simp [State.configUp, h]

/-- A blocked access is counted and logged, and reaches no memory. -/
theorem State.bar2Blocked_counts (s : State) (a : Nat) : (s.bar2Blocked a).obj 0xA000 6 = (s.obj 0xA000 6 + 1) % 2 ^ 32 ∧
    Logged s (s.bar2Blocked a) [0xA008] ∧ (s.bar2Blocked a).mem = s.mem := by
  refine ⟨?counted, logged1 (congrArg Faults.ring (State.count_faults ..)).symm _ _ _ (by decide), ?mem⟩
  case counted => rw [State.bar2Blocked, State.log_obj _ _ _ (by decide) (by decide), State.obj_count, if_pos rfl]
  case mem => rw [State.bar2Blocked, State.log_mem, State.count_mem]

theorem State.bar2Blocked_out (s : State) (a : Nat) : (s.bar2Blocked a).out = s.out := by
  rw [State.bar2Blocked, State.log_out, State.count_out]

variable (hdown : s.down = false)
include hdown

section
variable {off : BitVec 41} {n : Nat} (hup : s.configUp = true)
include hup

theorem exec_bar2Read_served (hok : s.bar2Ok false (s.host.windowBase + off.toNat) n = true)
    (hclean : s.poisoned (s.host.windowBase + off.toNat) n = false) :
    exec (.bar2Read off n) s = .next (s.emit (.hostData (s.read (s.host.windowBase + off.toNat) n))) := by
  change execBar2Read off n s = _
  rw [execBar2Read, act_up hdown, if_neg (by simp [hup]), if_neg (by simp [hok]), if_neg (by simp [hclean])]

theorem exec_bar2Read_blocked (hblocked : s.bar2Ok false (s.host.windowBase + off.toNat) n = false) :
    exec (.bar2Read off n) s =
      .next ((s.bar2Blocked (s.host.windowBase + off.toNat)).emit (.hostData (List.replicate n 0xFF))) := by
  change execBar2Read off n s = _
  rw [execBar2Read, act_up hdown, if_neg (by simp [hup]), if_pos (by simp [hblocked])]

theorem exec_bar2Read_poisoned (hok : s.bar2Ok false (s.host.windowBase + off.toNat) n = true)
    (hpoisoned : s.poisoned (s.host.windowBase + off.toNat) n = true) : exec (.bar2Read off n) s =
      .next ((s.readPoison (s.host.windowBase + off.toNat) n).draw.2.emit
        (.hostData (leBytes n (s.readPoison (s.host.windowBase + off.toNat) n).draw.1))) := by
  change execBar2Read off n s = _
  rw [execBar2Read, act_up hdown, if_neg (by simp [hup]), if_neg (by simp [hok]), if_pos hpoisoned]

theorem exec_bar2Write_served {bs : List Byte} (hok : s.bar2Ok true (s.host.windowBase + off.toNat) bs.length = true) :
    exec (.bar2Write off bs) s = .next (s.write (s.host.windowBase + off.toNat) bs) := by
  change execBar2Write off bs s = _
  rw [execBar2Write, act_up hdown, if_neg (by simp [hup]), if_pos hok]

theorem exec_bar2Write_blocked {bs : List Byte}
    (hblocked : s.bar2Ok true (s.host.windowBase + off.toNat) bs.length = false) :
    exec (.bar2Write off bs) s = .next (s.bar2Blocked (s.host.windowBase + off.toNat)) := by
  change execBar2Write off bs s = _
  rw [execBar2Write, act_up hdown, if_neg (by simp [hup]), if_neg (by simp [hblocked])]

/-! ### DOE and IDE_KM (R445, R464) -/

theorem exec_doeAttest (nonce : BitVec 256) : exec (.doeAttest nonce) s =
    .next ((s.log 0xA007 (domMp 0)).emit (.doe (s.report (leBytes 32 nonce.toNat)))) := by
  change execDoeAttest nonce s = _
  rw [execDoeAttest, act_up hdown, if_neg (by simp [hup])]
  rfl

theorem exec_doeMeasureLog : exec .doeMeasureLog s = .next (s.emit (.doe s.boot.log.flatten)) := by
  change execDoeMeasureLog s = _
  rw [execDoeMeasureLog, act_up hdown, if_pos hup]

theorem exec_ideKm (stream : Bool) (slot : Nat) (key : List Byte) : exec (.ideKm stream slot key) s =
    .next (s.setHost fun p => { p with ideKeys := Tbl.set [] p.ideKeys (256 * bit01 stream + slot % 256) key }) := by
  change execIdeKm stream slot key s = _
  rw [execIdeKm, act_up hdown, if_neg (by simp [hup])]

end

/-- Before boot stage 1 has ended the host function does nothing (R457). -/
theorem exec_hostFunction_silent (hup : s.configUp = false) (off : BitVec 41) (n : Nat) (bs : List Byte)
    (nonce : BitVec 256) (stream : Bool) : exec (.bar2Read off n) s = .next s ∧ exec (.bar2Write off bs) s = .next s ∧
      exec (.doeAttest nonce) s = .next s ∧ exec .doeMeasureLog s = .next s ∧ exec (.ideKm stream n bs) s = .next s := by
  have hsilent : (!s.configUp) = true := by rw [hup]; rfl
  refine ⟨?read, ?write, ?attest, ?measures, ?key⟩
  case read =>
    change execBar2Read off n s = _
    rw [execBar2Read, act_up hdown, if_pos hsilent]
  case write =>
    change execBar2Write off bs s = _
    rw [execBar2Write, act_up hdown, if_pos hsilent]
  case attest =>
    change execDoeAttest nonce s = _
    rw [execDoeAttest, act_up hdown, if_pos hsilent]
  case measures =>
    change execDoeMeasureLog s = _
    rw [execDoeMeasureLog, act_up hdown, if_neg (by simp [hup])]
  case key =>
    change execIdeKm stream n bs s = _
    rw [execIdeKm, act_up hdown, if_pos hsilent]

end

/-- A report is logged, and sent as it was before the record. -/
theorem State.emit_log (s : State) (ev dom : Nat) (o : Out) :
    ((s.log ev dom).emit o).out = o :: s.out ∧ ((s.log ev dom).emit o).faults.ring = (s.log ev dom).faults.ring := by
  refine ⟨?_, rfl⟩
  change o :: (s.log ev dom).out = _
  rw [State.log_out]

/-- A report is a body of 1,024 bytes with its signature (R463). -/
theorem State.report_signed (s : State) (nonce : List Byte) :
    ∃ body : List Byte, body.length = 1024 ∧ s.report nonce = body ++ Config.identitySign body := by
  unfold State.report
  refine ⟨_, ?_, rfl⟩
  rw [fit, List.length_take, List.length_append, List.length_replicate]
  omega

/-! ### The flow contexts that a domain owns (R419) -/

theorem State.emptied_flow_other {s : State} {c d : Nat} (f : Flow) (hne : d ≠ c) : (s.emptied c f).flow d = s.flow d := by
  have hpool := fun (u : State) (die n : Nat) => (State.setPool_lists u die n).2.2.1
  rw [State.emptied, State.setObj_flow]
  refine (Tbl.get_set_other hne).trans ?_
  rw [hpool]
  rfl

/-- A break of one context leaves the others as they were. -/
theorem State.breakFlow_flow_other {s : State} {c d : Nat} (err : Nat) (tell : Bool) (hne : d ≠ c) :
    (s.breakFlow c err tell).flow d = s.flow d := by
  rw [State.breakFlow]
  split
  · rfl
  · rw [(PacketsMove.on tell (State.sendBreak_moves _ _ _)).flow d]
    have hframe := s.endFlow_frame c ((s.flow c).brokenBy err) fun s =>
      (s.count 0x6010 4).log (if err = 9 then 0x6009 else 0x6008) (domDie (4 + home c)) [(32, c), (8, err)]
    refine (flow_of_fabric (congrArg Fabric.flows (hframe.2 .fabric (by decide))) d).trans ?_
    rw [State.log_flow, State.count_flow, State.emptied_flow_other _ hne]

/-- A context that is not open does not become open by a break of any. -/
theorem State.breakFlow_closed {s : State} {d : Nat} (c err : Nat) (tell : Bool) (h : (s.flow d).state ≠ .opened) :
    ((s.breakFlow c err tell).flow d).state ≠ .opened := by
  by_cases hsame : d = c
  · rw [hsame] at h ⊢
    rwa [State.breakFlow_of_not_opened err tell h]
  · rwa [State.breakFlow_flow_other err tell hsame]

theorem State.breakFlow_closes (s : State) (c err : Nat) (tell : Bool) : ((s.breakFlow c err tell).flow c).state ≠ .opened := by
  by_cases hopen : (s.flow c).state = .opened
  · rw [(State.breakFlow_ends err tell hopen).flow]
    exact nofun
  · rwa [State.breakFlow_of_not_opened err tell hopen]

/-- A reset breaks every context that its domain owns (R419). -/
theorem State.breakOwned_closes {s : State} {dom : Nat} {e : Nat × Flow} (he : e ∈ s.fabric.flows)
    (howner : e.2.owner.toNat ≠ 0) (hdom : domWithin e.2.owner.toNat dom = true) :
    ((s.breakOwned dom).flow e.1).state ≠ .opened := by
  refine each_makes (P := fun t => (t.flow e.1).state ≠ .opened) (x := e.1) ?_ (fun t => t.breakFlow_closes e.1 5 true)
    (fun t c ht => State.breakFlow_closed c 5 true ht) s
  exact List.mem_filterMap.mpr ⟨e, he, by simp [howner, hdom]⟩

/-- A domain that no semaphore names as its producer breaks none. -/
theorem State.breakProducer_none {s : State} {dom : Nat}
    (h : ∀ e ∈ s.sems, e.2.producer.toNat = 0 ∨ domWithin e.2.producer.toNat dom = false) : s.breakProducer dom = s := by
  have hnone : (s.sems.filterMap fun e =>
      let p := e.2.producer.toNat
      if p ≠ 0 && domWithin p dom then some e.1 else none) = [] := by
    refine List.filterMap_eq_nil_iff.mpr fun e he => ?_
    rcases h e he with h | h <;> simp [h]
  rw [State.breakProducer, hnone]
  rfl

theorem State.releaseHolds_frame (s : State) (dom : Nat) :
    Only [.out, .hold, .links, .fabric, .ctxs, .sems, .movers, .objects, .ring, .msix, .alert] s (s.releaseHolds dom) :=
  State.releaseHolds_only (Only.refl _ s) (by decide) dom

/-! ### The function reset (R449) -/

/-- The host port as a function reset leaves it. -/
def State.portReset (s : State) : State :=
  (s.releaseHolds domHost).setHost fun p => { p with
    cmdTail := 0
    cmdHead := 0
    cplTail := 0
    cplHead := 0
    windowBase := 0
    phase := true
    mboxStatus := if (s.releaseHolds domHost).faults.mpsDown.contains 0 then 1 else 0
    unmasked := [] }

/-- The numbers of the sessions of the mailbox. -/
def State.mailboxSessions (s : State) : List Nat := (s.dict.sessions.filter (·.transport == 0)).map (·.number)

/-- The mailbox's sessions closed, and its requests gone. -/
def State.mailboxClosed (s : State) : State :=
  (s.each s.mailboxSessions State.closeSession).setDict fun d => { d with waiting := d.waiting.filter (·.transport != 0) }

theorem exec_hostFunctionReset {s : State} (hdown : s.down = false) :
    exec .hostFunctionReset s = .next (s.portReset.mailboxClosed.log 0xA009 domHost) := by
  change execHostFunctionReset s = _
  rw [execHostFunctionReset, act_up hdown]
  rfl

theorem State.closeSessions_sessions (s : State) (ns : List Nat) :
    (s.each ns State.closeSession).dict.sessions = s.dict.sessions.filter fun v => !ns.contains v.number := by
  unfold State.each
  induction ns generalizing s with
  | nil => simp
  | cons n ns ih =>
    rw [List.foldl_cons, ih, State.closeSession_sessions, List.filter_filter]
    refine List.filter_congr fun v _ => ?_
    rw [List.contains_cons]
    cases h : v.number == n <;> simp [bne, h]

theorem State.mailboxClosed_sessions (s : State) : s.mailboxClosed.dict.sessions =
    s.dict.sessions.filter fun v => !s.mailboxSessions.contains v.number := s.closeSessions_sessions _

/-- The sessions that stay are those of the other transports. -/
theorem State.mailboxClosed_others {s : State} {v : Session} (hv : v ∈ s.mailboxClosed.dict.sessions) :
    v.transport ≠ 0 ∧ v ∈ s.dict.sessions := by
  rw [State.mailboxClosed_sessions, List.mem_filter] at hv
  obtain ⟨hmem, hkept⟩ := hv
  refine ⟨fun hmailbox => ?_, hmem⟩
  have hnumber : v.number ∈ s.mailboxSessions :=
    List.mem_map.mpr ⟨v, List.mem_filter.mpr ⟨hmem, by simp [hmailbox]⟩, rfl⟩
  simp [hnumber] at hkept

theorem State.mem_mailboxClosed {s : State} {v : Session} (hmem : v ∈ s.dict.sessions) (hother : v.transport ≠ 0)
    (hunique : ∀ x ∈ s.dict.sessions, x.number = v.number → x = v) : v ∈ s.mailboxClosed.dict.sessions := by
  rw [State.mailboxClosed_sessions, List.mem_filter]
  refine ⟨hmem, ?_⟩
  have hnumber : v.number ∉ s.mailboxSessions := fun hin => by
    obtain ⟨x, hx, hnum⟩ := List.mem_map.mp hin
    obtain ⟨hx, hmailbox⟩ := List.mem_filter.mp hx
    rw [hunique x hx hnum] at hmailbox
    exact hother (by simpa using hmailbox)
  simp [hnumber]

theorem State.mailboxClosed_frame (s : State) : Only [.dict, .faults, .boot] s s.mailboxClosed :=
  State.setDict_only' (State.each_only (Only.refl _ s) _ _ fun _ n h => State.closeSession_only h (by decide) n)
    (by decide) _ fun _ => rfl

theorem State.portReset_sessions (s : State) : s.portReset.dict.sessions = s.dict.sessions := by
  change (s.releaseHolds domHost).dict.sessions = _
  rw [(s.releaseHolds_frame domHost).2 .dict (by decide)]

/-- What follows the port's reset leaves the port as it is. -/
theorem State.portReset_host (s : State) : (s.portReset.mailboxClosed.log 0xA009 domHost).host = s.portReset.host := by
  have hframe := s.portReset.mailboxClosed_frame
  rw [State.log_host, hframe.2 .host (by decide), hframe.2 .msix (by decide)]

theorem State.portReset_fields (s : State) : let h := s.portReset.host
    h.cmdTail = 0 ∧ h.cmdHead = 0 ∧ h.cplTail = 0 ∧ h.cplHead = 0 ∧ h.windowBase = 0 ∧ h.phase = true ∧
    h.mboxStatus = (if s.faults.mpsDown.contains 0 then 1 else 0) ∧ h.unmasked = [] ∧
    h.ideKeys = s.host.ideKeys ∧ h.linkUp = s.host.linkUp := by
  have hframe := s.releaseHolds_frame domHost
  have hfaults : (s.releaseHolds domHost).faults.mpsDown = s.faults.mpsDown := by rw [hframe.2 .faults (by decide)]
  have hhost := hframe.2 .host (by decide)
  refine ⟨rfl, rfl, rfl, rfl, rfl, rfl, ?_, rfl, ?_, ?_⟩
  · rw [← hfaults]
    rfl
  · change (s.releaseHolds domHost).host.ideKeys = _
    rw [hhost]
  · change (s.releaseHolds domHost).host.linkUp = _
    rw [hhost]

/-- The contexts of the cores stay where the host produces for no semaphore. -/
theorem State.portReset_ctxs {s : State}
    (h : ∀ e ∈ s.sems, e.2.producer.toNat = 0 ∨ domWithin e.2.producer.toNat domHost = false) :
    s.portReset.ctxs = s.ctxs := by
  change (s.releaseHolds domHost).ctxs = _
  rw [State.releaseHolds, State.breakProducer_none h]
  exact (State.breakOwned_frame s domHost).2 .ctxs (by decide)

theorem State.portReset_closes {s : State} {e : Nat × Flow} (he : e ∈ s.fabric.flows) (howner : e.2.owner.toNat = 0x9000) :
    (s.portReset.flow e.1).state ≠ .opened := by
  have hflows : (s.breakProducer domHost).fabric = s.fabric :=
    (State.breakProducer_only (parts := [.out, .hold, .links, .ctxs, .sems, .objects, .ring, .msix, .alert])
      (Only.refl _ s) (by decide) domHost).2 .fabric (by decide)
  exact State.breakOwned_closes (hflows ▸ he) (by rw [howner]; decide) (by rw [howner]; decide)

/-- Settles O60. -/
theorem hostFunction : Obligations.HostFunction := by
  intro s hdown
  refine ⟨fun hgood hstage => ?up, fun hup off n bs nonce stream =>
    exec_hostFunction_silent hdown (State.configUp_not hup) off n bs nonce stream, s.report_signed, ?reset⟩
  case up =>
    have hup := State.configUp_of hgood hstage
    refine ⟨fun off n => ⟨fun hok hclean => ?readServed, fun hblocked => ?readBlocked, fun hok hpoisoned => ?readPoisoned⟩,
      fun off bs => ⟨fun hok => ?writeServed, fun hblocked => ?writeBlocked⟩, fun nonce => ?attest, ?measures,
      fun stream slot key hslot => ?key⟩
    case readServed =>
      exact ⟨_, exec_bar2Read_served hdown hup hok hclean, rfl, State.emit_only (Only.refl _ s) (by decide) _⟩
    case readBlocked =>
      exact ⟨_, exec_bar2Read_blocked hdown hup hblocked, s.bar2Blocked_counts _, congrArg (_ :: ·) (s.bar2Blocked_out _)⟩
    case readPoisoned =>
      have hframe := State.readPoison_only (Only.refl [.objects, .ring] s) (by decide) (s.host.windowBase + off.toNat) n
      exact ⟨_, exec_bar2Read_poisoned hdown hup hok hpoisoned,
        ⟨_, leBytes_length _ _, congrArg (_ :: ·) (hframe.2 .out (by decide))⟩, hframe.2 .mem (by decide)⟩
    case writeServed =>
      exact ⟨_, exec_bar2Write_served hdown hup hok, Memory.read_write_same, State.write_only (Only.refl _ s) (by decide) _ _,
        fun b hb => Memory.get_write_other hb⟩
    case writeBlocked =>
      exact ⟨_, exec_bar2Write_blocked hdown hup hblocked, s.bar2Blocked_counts _, s.bar2Blocked_out _⟩
    case attest =>
      obtain ⟨hout, hring⟩ := s.emit_log 0xA007 (domMp 0) (.doe (s.report (leBytes 32 nonce.toNat)))
      exact ⟨_, exec_doeAttest hdown hup nonce, (Logged.log1 s 0xA007 _ _ (by decide)).congr hring, hout⟩
    case measures => exact ⟨_, exec_doeMeasureLog hdown hup, rfl, State.emit_only (Only.refl _ s) (by decide) _⟩
    case key =>
      refine ⟨_, exec_ideKm hdown hup stream slot key, ?_, State.setHost_only' (Only.refl _ s) (by decide) _ fun _ => rfl⟩
      rw [Nat.mod_eq_of_lt hslot]
      exact Tbl.get_set_same
  case reset =>
    have hexec := exec_hostFunctionReset hdown
    have hframe := exec_only _ _ _ hexec
    have hclosed := s.portReset.mailboxClosed_frame
    refine ⟨_, hexec, ?port, fun v hv => ?others, fun v hmem hother hunique => ?kept, ?logged, hframe.2 .mem (by decide),
      hframe.2 .cores (by decide), hframe.2 .job (by decide), fun e he howner => ?flows, fun hproducers => ?ctxs⟩
    case port =>
      rw [State.portReset_host]
      exact s.portReset_fields
    case others =>
      rw [State.log_dict'] at hv
      obtain ⟨hother, hmem⟩ := State.mailboxClosed_others hv
      exact ⟨hother, by rwa [s.portReset_sessions] at hmem⟩
    case kept =>
      rw [State.log_dict']
      exact State.mem_mailboxClosed (by rwa [s.portReset_sessions]) hother (by rwa [s.portReset_sessions])
    case logged =>
      rw [State.log_ring, List.take_succ_cons, List.map_cons, List.head?_cons, eventOf_cairnRecord]
      rfl
    case flows =>
      rw [State.log_flow, flow_of_fabric (congrArg Fabric.flows (hclosed.2 .fabric (by decide)))]
      exact State.portReset_closes he howner
    case ctxs => rw [State.log_ctxs, hclosed.2 .ctxs (by decide), State.portReset_ctxs hproducers]

end Sys2Proof.Machine

/-!
The power manager (O43).
-/
namespace Sys2Proof.Machine

/-! ### The cut (R381, R384, R385) -/

theorem State.on_supply {s : State} {b : Bool} {f : State → State} (h : ∀ u, (f u).supply = u.supply) :
    (s.on b f).supply = s.supply := by
  unfold State.on
  split
  · exact h s
  · rfl

/-- What of the supply a cut does not touch. -/
def Supply.beforeCut (p : Supply) : Bool × Bool × Nat := (p.brace, p.governor, p.ballast)

theorem State.takeCut_beforeCut (s : State) (cause : Nat) :
    (s.takeCut cause).2.supply.beforeCut = s.supply.beforeCut := by
  unfold State.takeCut
  dsimp only
  split
  · rw [State.applyCut, State.setSupply_supply, State.faultCount, State.count_supply]
    rfl
  · split
    · rw [State.applyCut, State.setSupply_supply, State.originateHold_supply, State.faultCount, State.count_supply]
      rfl
    · rw [State.setSupply_supply, State.originateHold_supply, State.faultCount, State.count_supply]
      rfl

/-- A brace stands, without ballast, once it has started. -/
theorem State.startBrace_beforeCut (s : State) :
    s.startBrace.supply.beforeCut = (true, s.supply.governor, 0) := by
  unfold State.startBrace
  dsimp only
  rw [State.setSupply_supply]
  refine (State.takeCut_beforeCut _ 7).trans ?_
  rw [State.log_supply, State.count_supply, State.alerting_supply, State.setSupply_supply]
  rfl

/-- A trip has no effect during a brace, or with the governor's cut in force (R381). -/
theorem State.governorTrip_again {s : State} (cause : Nat) (h : s.supply.brace = true ∨ s.supply.governor = true) :
    s.governorTrip cause = s := by
  unfold State.governorTrip
  exact if_pos h

theorem State.governorTrip_beforeCut {s : State} (cause : Nat) (hbrace : s.supply.brace = false)
    (hgovernor : s.supply.governor = false) : (s.governorTrip cause).supply.beforeCut = (false, true, 0) := by
  unfold State.governorTrip
  rw [if_neg (by simp [hbrace, hgovernor])]
  dsimp only
  rw [State.on_supply fun u => State.jobFail_supply u 0x0D, State.setSupply_supply]
  refine (State.takeCut_beforeCut _ 0x0D).trans ?_
  rw [State.log_supply, State.count_supply, State.alerting_supply, State.setSupply_supply, ← hbrace]
  rfl

/-- A cut that lifts lifts unless another cause holds it (R385). -/
theorem State.liftCut_supply (s : State) : s.liftCut.supply.brace = s.supply.brace ∧
    s.liftCut.supply.governor = s.supply.governor ∧ s.liftCut.supply.dip = s.supply.dip ∧
    s.liftCut.supply.cut = ((s.supply.brace || s.supply.governor) && s.supply.cut) := by
  unfold State.liftCut
  rw [State.setSupply_supply]
  split
  · next h => simp [h]
  · next h => simp [h]

/-! ### Samples (R388) -/

theorem State.judgeLine_supply (s : State) : s.judgeLine.supply = { s.supply with
    lowLine := decide (44000 ≤ s.supply.mv) && decide (s.supply.mv < 48000)
    surge := decide (60000 < s.supply.mv) && decide (s.supply.mv ≤ 80000) } := by
  unfold State.judgeLine
  dsimp only
  rw [State.alerting_supply, State.setSupply_supply, State.on_supply fun u => u.log_supply 0x3005 0 u.powerItems,
    State.on_supply fun u => u.log_supply 0x3001 0 u.powerItems]

/-- A dip that ends changes nothing of the supply but the dip. -/
theorem State.endDip_supply (s : State) :
    s.endDip.supply = { s.supply with dip := s.endDip.supply.dip, lowBank := s.endDip.supply.lowBank } := by
  unfold State.endDip
  split
  · dsimp only
    rw [State.on_supply fun u => (State.log_supply ..).trans (State.count_supply ..), State.setSupply_supply]
  · rfl

/-- A sample taken and judged, before the governor looks at the mean. -/
def State.powerSampled (s : State) (mv ma bank : Nat) (loads : List Nat) : State :=
  (s.takeSample mv ma bank loads).judgeLine.endDip.noteClear

theorem State.powerSampled_supply (s : State) (mv ma bank : Nat) (loads : List Nat) :
    let u := (s.powerSampled mv ma bank loads).supply
    u.mv = mv / 10 * 10 ∧ u.ma = ma / 10 * 10 ∧ u.bank = bank ∧
    u.samples = ((mv / 10 * 10) * (ma / 10 * 10) / 1000 :: s.supply.samples).take 1000 ∧
    u.energy = s.supply.energy + (mv / 10 * 10) * (ma / 10 * 10) / 1000 ∧
    u.lowLine = (decide (44000 ≤ mv / 10 * 10) && decide (mv / 10 * 10 < 48000)) ∧
    u.surge = (decide (60000 < mv / 10 * 10) && decide (mv / 10 * 10 ≤ 80000)) := by
  unfold State.powerSampled State.noteClear
  dsimp only
  rw [State.setSupply_supply, State.endDip_supply, State.judgeLine_supply, State.takeSample, State.setSupply_supply]
  exact ⟨rfl, rfl, rfl, rfl, rfl, rfl, rfl⟩

/-- The RESUMEs of the holds of a cut: the brace's, then the governor's (R385). -/
def State.sendResumes (s : State) (brace governor : Option Nat) : State :=
  let u := match brace with | some q => s.originateResume q | none => s
  match governor with | some q => u.originateResume q | none => u

section
variable {s : State} (hdown : s.down = false)
include hdown

theorem exec_powerSample (mv ma bank : Nat) (loads : List Nat) : exec (.powerSample mv ma bank loads) s =
    .next (if 1000 * (s.powerSampled mv ma bank loads).obj 0x3002 2 <
        (s.powerSampled mv ma bank loads).drawMean ((s.powerSampled mv ma bank loads).obj 0x3002 3)
      then (s.powerSampled mv ma bank loads).governorTrip 0 else s.powerSampled mv ma bank loads) := by
  change execPowerSample mv ma bank loads s = _
  rw [execPowerSample, act_up hdown]
  dsimp only
  rw [← State.powerSampled, State.on]
  simp only [decide_eq_true_eq]

/-! ### Dips and braces (R383-R385) -/

theorem exec_dipDeclare {t : Nat} (hbelow : s.supply.belowSince = some t) (hdip : s.supply.dip = false) :
    exec .dipDeclare s = .next ((s.reach (t + 1000)).alerting fun s => s.setSupply fun p =>
      { p with dip := true, lowBank := decide (p.bank < 2800) }) := by
  change execDipDeclare s = _
  rw [execDipDeclare, act_up hdown, hbelow]
  dsimp only
  rw [if_neg (by simp [hdip])]

/-- The instant at which a brace starts: at once on a low bank, else once the dip has lasted for BRACE_DELAY. -/
def State.braceDue (s : State) : State :=
  if s.supply.lowBank then s else s.reach (s.supply.belowSince.getD s.now + 1000 * s.obj 0x3001 2)

omit hdown in
theorem State.braceDue_spec (s : State) : s.braceDue.supply = s.supply ∧ s.braceDue.hall =
    if s.supply.lowBank then s.hall else max s.hall (64 * (s.supply.belowSince.getD s.now + 1000 * s.obj 0x3001 2)) := by
  unfold State.braceDue
  split
  · exact ⟨rfl, rfl⟩
  · exact ⟨State.reach_supply .., State.reach_hall' ..⟩

theorem exec_braceStart (hdip : s.supply.dip = true) (hbrace : s.supply.brace = false) :
    exec .braceStart s = .next s.braceDue.startBrace := by
  change execBraceStart s = _
  rw [execBraceStart, act_up hdown, if_neg (by simp [hdip, hbrace])]
  rfl

theorem exec_braceRelease {t : Nat} (hbrace : s.supply.brace = true) (hconnected : s.supply.connected = true)
    (hrelease : s.supply.releaseSince = some t) : exec .braceRelease s =
      .next ((((s.reach (t + 1000 * s.obj 0x3001 4)).setSupply fun p =>
        { p with brace := false, dip := false, lowBank := false }).log 0x3004 0
          ((s.reach (t + 1000 * s.obj 0x3001 4)).setSupply fun p =>
            { p with brace := false, dip := false, lowBank := false }).powerItems).liftCut) := by
  change execBraceRelease s = _
  rw [execBraceRelease, act_up hdown, hbrace, hconnected, hrelease]

theorem exec_governorClear {t : Nat} (hgovernor : s.supply.governor = true) (hclear : s.supply.clearSince = some t) :
    exec .governorClear s =
      .next ((s.reach (t + 1000000)).setSupply fun p => { p with governor := false }).liftCut := by
  change execGovernorClear s = _
  rw [execGovernorClear, act_up hdown, hgovernor, hclear]

/-! ### Ballast (R378, R380, R385) -/

/-- The ballast that an adjustment sets. -/
def State.adjustedBallast (s : State) : Nat :=
  match s.preBallast with | some b => max b s.nextBallast | none => s.nextBallast

theorem exec_ballastAdjust : ∃ u, exec .ballastAdjust s = .next u ∧ u.supply = { s.supply with
    envelope := s.nextEnvelope, raised := s.nextRaised, ballast := s.adjustedBallast } := by
  refine ⟨_, (by change execBallastAdjust s = _; rw [execBallastAdjust, act_up hdown]), ?_⟩
  rw [State.on_supply fun u => u.setObj_supply 0x3003 6 _, State.setSupply_supply]
  rfl

theorem exec_braceResumeSend (hrestoring : s.supply.restoring = true) (hcut : s.supply.cut = false)
    (hrisen : s.nextBallast ≤ s.supply.ballast) (hempty : ∀ c : Core, s.queuesEmpty c = true) : exec .braceResumeSend s =
      .next ((s.setSupply fun p => { p with restoring := false, holdSeq := none, govSeq := none }).sendResumes
        s.supply.holdSeq s.supply.govSeq) := by
  have hall : (List.range 192).all s.queuesEmpty = true :=
    List.all_eq_true.mpr fun c hc => hempty ⟨c, List.mem_range.mp hc⟩
  change execBraceResumeSend s = _
  rw [execBraceResumeSend, act_up hdown]
  dsimp only
  rw [if_neg (by simp [hrestoring, hcut, hrisen, hall])]
  rfl

end

/-- Settles O43. -/
theorem powerManager : Obligations.PowerManager := by
  intro s hdown
  refine ⟨fun mv ma bank loads => ?sample, fun c => ⟨State.governorTrip_again c, fun hbrace hgovernor => ?trip⟩,
    fun t hbelow hdip => ?dip, fun hdip hbrace => ?brace, fun t hbrace hconnected hrelease => ?release,
    fun t hgovernor hclear => ?clear, ?ballast, fun hrestoring hcut hrisen hempty => ?resume⟩
  case sample =>
    obtain ⟨hmv, hma, hbank, hsamples, henergy, hlow, hsurge⟩ := s.powerSampled_supply mv ma bank loads
    exact ⟨_, hmv, hma, hbank, hsamples, henergy, hlow, hsurge, exec_powerSample hdown mv ma bank loads⟩
  case trip =>
    have htripped := State.governorTrip_beforeCut c hbrace hgovernor
    simp only [Supply.beforeCut, Prod.mk.injEq] at htripped
    obtain ⟨-, hgovernor, hballast⟩ := htripped
    exact ⟨hgovernor, hballast⟩
  case dip =>
    refine ⟨_, exec_dipDeclare hdown hbelow hdip, ?_⟩
    rw [State.alerting_hall, State.alerting_supply, State.setSupply_hall, State.reach_hall', State.setSupply_supply,
      State.reach_supply]
    exact ⟨rfl, rfl, rfl⟩
  case brace =>
    obtain ⟨hsupply, hhall⟩ := s.braceDue_spec
    have hbraced := s.braceDue.startBrace_beforeCut
    simp only [Supply.beforeCut, Prod.mk.injEq] at hbraced
    obtain ⟨hbrace', -, hballast⟩ := hbraced
    exact ⟨_, hsupply, hhall, exec_braceStart hdown hdip hbrace, hbrace', hballast⟩
  case release =>
    refine ⟨_, exec_braceRelease hdown hbrace hconnected hrelease, ?_⟩
    obtain ⟨hbrace', -, hdip, hcut⟩ := State.liftCut_supply (((s.reach (t + 1000 * s.obj 0x3001 4)).setSupply fun p =>
      { p with brace := false, dip := false, lowBank := false }).log 0x3004 0
        ((s.reach (t + 1000 * s.obj 0x3001 4)).setSupply fun p =>
          { p with brace := false, dip := false, lowBank := false }).powerItems)
    rw [State.log_supply, State.setSupply_supply, State.reach_supply] at hbrace' hdip hcut
    refine ⟨?logged, ?hall, hbrace', hdip, hcut⟩
    case logged =>
      exact (Logged.log_of_faults ((State.setSupply_faults ..).trans (State.reach_faults ..)) 0x3004 0 _ (by decide)).congr
        rfl
    case hall =>
      rw [State.liftCut, State.setSupply_hall, State.log_hall, State.setSupply_hall, State.reach_hall']
  case clear =>
    refine ⟨_, exec_governorClear hdown hgovernor hclear, ?_⟩
    obtain ⟨-, hgovernor', -, hcut⟩ := State.liftCut_supply ((s.reach (t + 1000000)).setSupply fun p =>
      { p with governor := false })
    rw [State.setSupply_supply, State.reach_supply] at hgovernor' hcut
    refine ⟨?hall, hgovernor', by rw [hcut, Bool.or_false]⟩
    case hall => rw [State.liftCut, State.setSupply_hall, State.setSupply_hall, State.reach_hall']
  case ballast =>
    obtain ⟨u, hexec, hsupply⟩ := exec_ballastAdjust hdown
    exact ⟨u, hexec, by rw [hsupply], by rw [hsupply], by rw [hsupply]; rfl⟩
  case resume =>
    refine ⟨s.setSupply fun p => { p with restoring := false, holdSeq := none, govSeq := none }, rfl, rfl,
      (exec_braceResumeSend hdown hrestoring hcut hrisen hempty).trans ?_⟩
    cases s.supply.holdSeq <;> cases s.supply.govSeq <;> rfl

end Sys2Proof.Machine

/-!
Die resets and watchdogs (O51).
-/
namespace Sys2Proof.Machine

/-! ### Counted resets (R434) -/

theorem State.resetsInWindow_of {s u : State} (hhall : u.hall = s.hall) (hresets : u.faults.resets = s.faults.resets)
    (hwindow : u.obj 0x9002 2 = s.obj 0x9002 2) : u.resetsInWindow = s.resetsInWindow := by
  rw [State.resetsInWindow, State.resetsInWindow, State.now, State.now, hhall, hresets, hwindow]

/-- A reset is counted at its instant. -/
def State.resetCounted (s : State) : State := { s with faults := { s.faults with resets := s.now :: s.faults.resets } }

theorem State.countedReset_done {s : State} (f : State → State) (hroom : s.resetsInWindow + 1 < s.obj 0x9002 1) :
    s.countedReset f = f s.resetCounted := by
  rw [State.countedReset, if_pos hroom]
  rfl

theorem State.countedReset_refused {s : State} (f : State → State) (hlimit : s.obj 0x9002 1 ≤ s.resetsInWindow + 1) :
    s.countedReset f = (s.log 0x900C).outOfService 0x900C := by
  rw [State.countedReset, if_neg (by omega)]

/-! ### The reset of a C-die (R418, R432) -/

theorem exec_dieControllerFault {s : State} {die : Die} (hdown : s.down = false)
    (hup : s.faults.diesDown.contains die.val = false) : exec (.dieControllerFault die) s =
      .next ((s.faultCount 0x10).countedReset fun s => (s.dieReset die 0x10).jobFail 0x10) := by
  change execDieControllerFault die s = _
  rw [execDieControllerFault, act_up hdown, if_neg (by rw [hup]; decide)]

theorem State.faultCount_limits (s : State) (cause : Nat) :
    (s.faultCount cause).resetsInWindow = s.resetsInWindow ∧ (s.faultCount cause).obj 0x9002 1 = s.obj 0x9002 1 ∧
    (s.faultCount cause).faults = s.faults ∧ (s.faultCount cause).now = s.now := by
  have hobj : ∀ i, i < 3 → (s.faultCount cause).obj 0x9002 i = s.obj 0x9002 i := fun i hi => by
    rw [State.faultCount, State.obj_count, if_neg (by unfold okey; omega)]
  refine ⟨State.resetsInWindow_of rfl rfl (hobj 2 (by decide)), hobj 1 (by decide), rfl, rfl⟩

theorem State.setCore_core_other {t : State} {c e : Nat} (v : CoreSt) (hne : e ≠ c) : (t.setCore c v).core e = t.core e :=
  Tbl.get_set_other hne

/-- What of the fault handling stays where only the ring of it may change. -/
theorem down_of_only {s t : State} {ps : List Part} (h : Only ps s t) (hp : Part.faults ∉ ps) :
    t.faults.diesDown = s.faults.diesDown ∧ t.faults.mpsDown = s.faults.mpsDown := by
  have hfaults : t.faults = { s.faults with ring := t.faults.ring } := h.2 .faults hp
  rw [hfaults]
  exact ⟨rfl, rfl⟩

/-- What is lost with a C-die before its cores are as after power-on. -/
def State.dieCleared (s : State) (d : Nat) : State :=
  (s.each (List.range 96) fun s i => s.moverReset (96 * d + i)).each (List.range 48) fun s i => s.coreReset (48 * d + i)

theorem State.dieCleared_frame (s : State) (d : Nat) : Only [.out, .drawn, .hold, .links, .fabric, .mem, .poison, .stores,
    .maps, .accs, .cores, .ctxs, .sems, .movers, .objects, .ring, .msix, .alert] s (s.dieCleared d) :=
  State.each_only (State.each_only (Only.refl _ s) _ _ fun _ i h => State.moverReset_only h (by decide) _) _ _
    fun _ i h => State.coreReset_only h (by decide) _

/-- The cores of the die, as after power-on. -/
def State.dieCoresReset (s : State) (d : Nat) : State :=
  (s.dieCleared d).each (List.range 48) fun s i => s.setCore (48 * d + i) .reset

theorem State.dieCoresReset_core (s : State) (d : Nat) {i : Nat} (hi : i < 48) :
    (s.dieCoresReset d).core (48 * d + i) = .reset := by
  have hentry := each_entry (fun i (t : State) => t.core (48 * d + i)) (f := fun s i => s.setCore (48 * d + i) .reset)
    (fun _ _ => .reset) (fun t i => State.core_setCore ..) (fun t i j hne => State.setCore_core_other _ (by omega)) 48 (s.dieCleared d) i
  rwa [if_pos hi] at hentry

theorem State.dieCoresReset_frame (s : State) (d : Nat) : Only [.out, .drawn, .hold, .links, .fabric, .mem, .poison, .stores,
    .maps, .accs, .cores, .ctxs, .sems, .movers, .objects, .ring, .msix, .alert] s (s.dieCoresReset d) :=
  State.each_only (s.dieCleared_frame d) _ _ fun _ i h => State.setCore_only h (by decide) _ _

/-- What follows: engines, holds, stores, power. -/
def State.dieLost (s : State) (d : Nat) : State :=
  ((((s.dieCoresReset d).enginesDown d).releaseHolds (domDie d)).loseStores d).setDie d .awake

theorem State.dieLost_frame (s : State) (d : Nat) : Only [.out, .drawn, .hold, .links, .fabric, .stores, .maps, .imem, .ctxs,
    .sems, .movers, .dies, .train, .objects, .ring, .msix, .alert] (s.dieCoresReset d) (s.dieLost d) :=
  State.setDie_only (State.loseStores_only (State.releaseHolds_only (State.enginesDown_only (Only.refl _ _) (by decide) d)
    (by decide) _) (by decide) d) (by decide) d .awake

theorem State.dieReset_eq (s : State) (d cause : Nat) : s.dieReset d cause =
    ((s.dieLost d).setFaults fun f => { f with
      diesDown := insertAsc d f.diesDown
      recovery := f.recovery.filter fun e => e.1 / 48 != d }).log 0x9002 (domDie d) [(16, domDie d), (8, cause)] := rfl

theorem State.dieReset_diesDown (s : State) (d cause : Nat) :
    (s.dieReset d cause).faults.diesDown = insertAsc d s.faults.diesDown := by
  have hlost : (s.dieLost d).faults.diesDown = s.faults.diesDown := by
    rw [(down_of_only (s.dieLost_frame d) (by decide)).1, (down_of_only (s.dieCoresReset_frame d) (by decide)).1]
  rw [State.dieReset_eq, State.log_faults', State.setFaults_faults, ← hlost]

theorem State.dieReset_core (s : State) (d cause : Nat) {i : Nat} (hi : i < 48) :
    (s.dieReset d cause).core (48 * d + i) = .reset := by
  rw [State.dieReset_eq, State.log_core, State.setFaults_core, core_of_only (s.dieLost_frame d) (by decide),
    s.dieCoresReset_core d hi]

theorem State.dieReset_logged (s : State) (d cause : Nat) :
    ((s.dieReset d cause).faults.ring.map eventOf).head? = some 0x9002 := by
  rw [State.dieReset_eq, State.log_ring, List.take_succ_cons, List.map_cons, List.head?_cons, eventOf_cairnRecord]
  rfl

/-! ### The end of a die reset -/

/-- The die is in service again, and its engines may go on. -/
def State.dieBack (s : State) (die : Nat) : State :=
  (s.setFaults fun f => { f with diesDown := f.diesDown.erase die }).each
    ((List.range 32).filter (· / 8 == die)) fun s n => s.setEngineSt n { s.engineSt n with stopped := false, pace := s.now }

/-- The sweeps that the reset interrupted go on with it. -/
def State.dieResumed (s : State) (die : Nat) : State :=
  (s.dieBack die).on ((s.dieBack die).training && recState (s.dieBack die).stepRec == 1) State.resumeSweeps

section
variable {s : State} {die : Fin 6} (hdown : s.down = false) (hreset : s.faults.diesDown.contains die.val = true)
include hdown hreset

theorem exec_dieResetComplete : exec (.dieResetComplete die true) s = .next (s.dieResumed die.val) := by
  change execDieResetComplete die true s = .next _
  rw [execDieResetComplete, act_up hdown, if_neg (by rw [hreset]; decide), if_pos rfl]
  rfl

theorem exec_dieResetComplete_failed : exec (.dieResetComplete die false) s = .next (s.outOfService 0x9002) := by
  change execDieResetComplete die false s = _
  rw [execDieResetComplete, act_up hdown, if_neg (by rw [hreset]; decide), if_neg Bool.false_ne_true]

end

theorem State.dieBack_frame (s : State) (die : Nat) :
    Only [.train] (s.setFaults fun f => { f with diesDown := f.diesDown.erase die }) (s.dieBack die) :=
  State.each_only (Only.refl _ _) _ _ fun _ n h => State.setEngineSt_only h (by decide) n _

theorem State.engineSt_setEngineSt (t : State) (n : Nat) (e : EngineSt) : (t.setEngineSt n e).engineSt n = e :=
  Tbl.get_set_same

theorem State.setEngineSt_stopped {t : State} {n : Nat} (m : Nat) (h : (t.engineSt n).stopped = false) :
    ((t.setEngineSt m { t.engineSt m with stopped := false, pace := t.now }).engineSt n).stopped = false := by
  by_cases hsame : n = m
  · rw [hsame, State.engineSt_setEngineSt]
  · exact (congrArg EngineSt.stopped (Tbl.get_set_other hsame)).trans h

/-- Every engine of the die goes on. -/
theorem State.dieBack_engines (s : State) {die n : Nat} (hn : n < 32) (hdie : n / 8 = die) :
    ((s.dieBack die).engineSt n).stopped = false := by
  refine each_makes (P := fun t => (t.engineSt n).stopped = false) (x := n) ?_ (fun t => ?_)
    (fun t m ht => State.setEngineSt_stopped m ht) _
  · exact List.mem_filter.mpr ⟨List.mem_range.mpr hn, beq_iff_eq.mpr hdie⟩
  · rw [State.engineSt_setEngineSt]

/-! ### Watchdogs (R436, R465) -/

/-- A watchdog that has run out is counted and logged (R436). -/
def State.watchdogLogged (s : State) (die : Nat) : State := (s.count 0xA004 2).log 0x900B (domMp die)

theorem State.watchdogLogged_spec (s : State) (die : Nat) :
    (s.watchdogLogged die).obj 0xA004 2 = (s.obj 0xA004 2 + 1) % 2 ^ 32 ∧ Logged s (s.watchdogLogged die) [0x900B] ∧
    (s.watchdogLogged die).resetsInWindow = s.resetsInWindow ∧ (s.watchdogLogged die).obj 0x9002 1 = s.obj 0x9002 1 ∧
    (s.watchdogLogged die).faults.mpsDown = s.faults.mpsDown := by
  have hkept : ∀ i, i = 1 ∨ i = 2 → (s.watchdogLogged die).obj 0x9002 i = s.obj 0x9002 i := by
    rintro i (rfl | rfl) <;>
      rw [State.watchdogLogged, State.log_obj _ _ _ (by decide) (by decide), State.obj_count, if_neg (by decide)]
  refine ⟨?counted, logged1 (congrArg Faults.ring (State.count_faults ..)).symm _ _ _ (by decide), ?window,
    hkept 1 (.inl rfl), ?mps⟩
  case counted => rw [State.watchdogLogged, State.log_obj _ _ _ (by decide) (by decide), State.obj_count, if_pos rfl]
  case window =>
    refine State.resetsInWindow_of ?_ ?_ (hkept 2 (.inr rfl))
    · rw [State.watchdogLogged, State.log_hall, State.count_hall]
    · rw [State.watchdogLogged, State.log_faults', State.count_faults]
  case mps => rw [State.watchdogLogged, State.log_faults', State.count_faults]

/-- The processor goes down, and what its domain owns is released. -/
def State.mpDown (s : State) (die : Nat) : State :=
  (((s.log 0x9002 (domMp die) [(16, domMp die), (8, 0x0B)]).setFaults fun f =>
    { f with mpsDown := insertAsc die f.mpsDown }).faultCount 0x0B).releaseHolds (domMp die)

theorem State.mpDown_mpsDown (s : State) (die : Nat) : (s.mpDown die).faults.mpsDown = insertAsc die s.faults.mpsDown := by
  have hframe := State.releaseHolds_frame (((s.log 0x9002 (domMp die) [(16, domMp die), (8, 0x0B)]).setFaults fun f =>
    { f with mpsDown := insertAsc die f.mpsDown }).faultCount 0x0B) (domMp die)
  rw [State.mpDown, (down_of_only hframe (by decide)).2, State.faultCount, State.count_faults, State.setFaults_faults,
    State.log_faults']

theorem State.on_frame {ps : List Part} {s : State} {b : Bool} {f : State → State} (h : Only ps s (f s)) :
    Only ps s (s.on b f) := by
  unfold State.on
  split
  · exact h
  · exact Only.refl _ s

/-- The state in which the job stage fails with the processor: on H-die 0 with what its firmware held. -/
def State.mpLost (s : State) (die : Nat) : State :=
  let u := (s.mpDown die).on (die == 0) State.firmwareLost
  u.on u.tt.active.isSome (·.holdForever 0x0B)

theorem exec_watchdogExpire {s : State} {die : HDie} (hdown : s.down = false)
    (hup : s.faults.mpsDown.contains die.val = false) : exec (.watchdogExpire die) s =
      .next ((s.watchdogLogged die.val).countedReset fun s => (s.mpLost die.val).jobFail 0x0B) := by
  change execWatchdogExpire die s = _
  rw [execWatchdogExpire, act_up hdown, if_neg (by rw [hup]; decide)]
  rfl

theorem State.mpLost_frame (s : State) (die : Nat) :
    Only [.hold, .links] ((s.mpDown die).on (die == 0) State.firmwareLost) (s.mpLost die) :=
  State.on_frame (State.holdForever_only (Only.refl _ _) (by decide) 0x0B)

theorem State.closeSession_faults (s : State) (n : Nat) : (s.closeSession n).faults.mpsDown = s.faults.mpsDown := rfl

/-- The state in which the sessions have ended with the firmware. -/
def State.sessionsLost (s : State) : State :=
  s.disarmCamp.each (s.disarmCamp.dict.sessions.map (·.number)) State.closeSession

/-- What else the firmware had under way is gone with it. -/
theorem State.firmwareLost_eq (s : State) : s.firmwareLost = (((s.sessionsLost.setDict fun d => { d with
    hellos := [], groupKey := none, groupSeq := none, persist := [], waiting := [], ownRequests := [] }).setBoot fun b =>
      { b with install := none }).setTrain fun t => { t with restoring := none, belayAsked := false }).setHost fun p =>
        { p with mboxStatus := 1 } := rfl

theorem State.firmwareLost_mpsDown (s : State) : s.firmwareLost.faults.mpsDown = s.faults.mpsDown := by
  have hclosed : s.sessionsLost.faults.mpsDown = s.disarmCamp.faults.mpsDown :=
    State.each_part (fun t => t.faults.mpsDown) _ _ fun t n => t.closeSession_faults n
  rw [State.firmwareLost_eq, State.setHost_faults, State.setTrain_faults, State.setBoot_faults, State.setDict_faults, hclosed,
    (down_of_only (State.disarmCamp_only (Only.refl [.objects, .ring] s) (by decide)) (by decide)).2]

theorem State.firmwareLost_sessions (s : State) : s.firmwareLost.dict.sessions = [] := by
  rw [State.firmwareLost_eq, State.setHost_dict, State.setTrain_dict, State.setBoot_dict, State.setDict_dict]
  dsimp only
  rw [State.sessionsLost, State.closeSessions_sessions]
  refine List.filter_eq_nil_iff.mpr fun v hv => ?_
  have hnumber : v.number ∈ s.disarmCamp.dict.sessions.map (·.number) := List.mem_map.mpr ⟨v, hv, rfl⟩
  simp [hnumber]

/-- The armed camp switch is disarmed with the firmware (R465). -/
theorem State.disarmCamp_disarmed (s : State) : s.disarmCamp.obj 0xB000 3 = 0xFF := by
  unfold State.disarmCamp State.on
  split
  · rw [State.log_obj _ _ _ (by decide) (by decide), State.obj_setObj_same]
  · next h => simpa [State.campArmed] using h

theorem State.closeSession_obj (s : State) (n a b : Nat) : (s.closeSession n).obj a b = s.obj a b :=
  obj_of_only (State.closeSession_only (Only.refl [.dict, .faults, .boot] s) (by decide) n) (by decide) a b

theorem State.firmwareLost_disarmed (s : State) : s.firmwareLost.obj 0xB000 3 = 0xFF := by
  have hclosed : s.sessionsLost.obj 0xB000 3 = s.disarmCamp.obj 0xB000 3 :=
    State.each_part (fun t => t.obj 0xB000 3) _ _ fun t n => t.closeSession_obj n 0xB000 3
  rw [State.firmwareLost_eq, State.setHost_obj, State.setTrain_obj, State.setBoot_obj, ← s.disarmCamp_disarmed, ← hclosed]
  rfl

theorem State.mpLost_mpsDown (s : State) (die : Nat) : (s.mpLost die).faults.mpsDown = insertAsc die s.faults.mpsDown := by
  rw [(down_of_only (s.mpLost_frame die) (by decide)).2, ← State.mpDown_mpsDown, State.on]
  split
  · exact State.firmwareLost_mpsDown _
  · rfl

/-- H-die 0 loses its sessions, its armed camp switch and the mailbox (R465). -/
theorem State.mpLost_firmware (s : State) :
    (s.mpLost 0).dict.sessions = [] ∧ (s.mpLost 0).obj 0xB000 3 = 0xFF ∧ (s.mpLost 0).host.mboxStatus = 1 := by
  have hframe : Only [.hold, .links] (s.mpDown 0).firmwareLost (s.mpLost 0) := s.mpLost_frame 0
  refine ⟨?sessions, ?disarmed, ?mailbox⟩
  case sessions => rw [hframe.2 .dict (by decide), State.firmwareLost_sessions]
  case disarmed => rw [obj_of_only hframe (by decide), State.firmwareLost_disarmed]
  case mailbox => rw [hframe.2 .host (by decide), State.firmwareLost_eq, State.setHost_host]

theorem exec_mpRestartComplete {s : State} {die : HDie} (hdown : s.down = false)
    (hreset : s.faults.mpsDown.contains die.val = true) : exec (.mpRestartComplete die) s =
      .next ((s.setFaults fun f => { f with mpsDown := f.mpsDown.erase die }).on (die.val == 0)
        fun s => s.setHost fun p => { p with mboxStatus := 0 }) := by
  change execMpRestartComplete die s = _
  rw [execMpRestartComplete, act_up hdown, if_neg (by rw [hreset]; decide)]

/-- Settles O51. -/
theorem dieResetsAndWatchdogs : Obligations.DieResetsAndWatchdogs := by
  intro s hdown
  refine ⟨fun die hup => ?fault, fun u die => ⟨u.dieReset_diesDown die 0x10, fun i hi => u.dieReset_core die 0x10 hi,
    u.dieReset_logged die 0x10⟩, fun die hreset => ⟨?back, exec_dieResetComplete_failed hdown hreset⟩, fun die hup => ?watchdog,
    fun die hreset => ?restart⟩
  case fault =>
    obtain ⟨hwindow, hlimit, hfaults, hnow⟩ := s.faultCount_limits 0x10
    refine ⟨by rw [State.faultCount, State.obj_count, if_pos rfl], fun hroom => ?_, fun hfull => ?_⟩
    · rw [exec_dieControllerFault hdown hup, State.countedReset_done _ (by rwa [hwindow, hlimit]), State.resetCounted, hnow,
        hfaults]
    · rw [exec_dieControllerFault hdown hup, State.countedReset_refused _ (by rwa [hwindow, hlimit])]
  case back =>
    have hframe := s.dieBack_frame die.val
    refine ⟨s.dieBack die.val, ?_, hframe.2 .mem (by decide), fun n hn hdie => s.dieBack_engines hn hdie,
      exec_dieResetComplete hdown hreset⟩
    rw [(down_of_only hframe (by decide)).1]
    rfl
  case watchdog =>
    obtain ⟨hcounted, hlogged, hwindow, hlimit, hmps⟩ := s.watchdogLogged_spec die.val
    refine ⟨hcounted, hlogged, fun hfull => ?_, fun hroom => ⟨(s.watchdogLogged die.val).resetCounted.mpLost die.val, ?_, ?_,
      fun hdie => ?_⟩⟩
    · rw [exec_watchdogExpire hdown hup, State.countedReset_refused _ (by rwa [hwindow, hlimit])]
      rfl
    · rw [exec_watchdogExpire hdown hup, State.countedReset_done _ (by rwa [hwindow, hlimit])]
    · rw [State.mpLost_mpsDown]
      exact congrArg (insertAsc die.val) hmps
    · rw [hdie]
      exact State.mpLost_firmware _
  case restart =>
    refine ⟨_, exec_mpRestartComplete hdown hreset, ?_⟩
    rw [State.on]
    simp only [beq_iff_eq]
    split <;> exact ⟨rfl, rfl⟩

end Sys2Proof.Machine

/-!
The boot stages (O49).
-/
namespace Sys2Proof.Machine

/-! ### The end of a stage (R457) -/

theorem State.stageEnds_boot (s : State) (stage reported : Nat) :
    (s.stageEnds stage reported).boot = { s.boot with stage := stage + 1 } := by
  rw [State.stageEnds, State.log_boot, State.setObj_boot]
  rfl

theorem State.stageEnds_reports (s : State) (stage reported : Nat) :
    (s.stageEnds stage reported).obj 0xA000 1 = reported := by
  rw [State.stageEnds, State.log_obj _ _ _ (by decide) (by decide), State.obj_setObj_same]

theorem State.stageEnds_logged (s : State) (stage reported : Nat) : Logged s (s.stageEnds stage reported) [0xA003] :=
  (Logged.log1 ((s.setBoot fun b => { b with stage := stage + 1 }).setObj 0xA000 1 reported) 0xA003 (domMp 0)
    [(48, s.now)] (by decide)).congr_left rfl

/-- A boot that fails is marked, and goes no further. -/
theorem State.bootFails_spec (s : State) : s.bootFails.boot.failed = true ∧ s.bootFails.boot.stage = s.boot.stage ∧
    s.bootFails.faults = s.faults ∧ ∀ a b, s.bootFails.obj a b = s.obj a b := by
  have hboot : s.bootFails.boot.failed = true ∧ s.bootFails.boot.stage = s.boot.stage := by
    unfold State.bootFails State.alerting
    dsimp only
    split <;> exact ⟨rfl, rfl⟩
  refine ⟨hboot.1, hboot.2, ?faults, fun a b => ?obj⟩
  case faults => rw [State.bootFails, State.alerting_faults, State.setBoot_faults]
  case obj => rw [State.bootFails, alerting_obj, State.setBoot_obj]

/-! ### A slot is verified (R461) -/

theorem State.slotFault_of_floors {s t : State} (h : t.boot.floors = s.boot.floors) (bundle : Bool) (bs : List Byte) :
    t.slotFault bundle bs = s.slotFault bundle bs := by
  simp only [State.slotFault, State.imageFault, h]

theorem State.flashImage_of_images {s t : State} (h : t.boot.images = s.boot.images) (n : Nat) :
    t.flashImage n = s.flashImage n := by
  rw [State.flashImage, State.flashImage, h]

/-- The place of a slot in the flash. -/
def flashSlot (bundle : Bool) (slot : Nat) : Nat := if bundle then 2 + slot else slot

theorem State.verifySlot_passes {s : State} {bundle : Bool} {slot : Nat}
    (h : s.slotFault bundle (s.flashImage (flashSlot bundle slot)) = none) : s.verifySlot bundle slot = (true, s) := by
  unfold flashSlot at h
  rw [State.verifySlot, h]

/-- A slot that fails is logged. -/
theorem State.verifySlot_fails {s : State} {bundle : Bool} {slot : Nat}
    (h : s.slotFault bundle (s.flashImage (flashSlot bundle slot)) ≠ none) :
    ∃ items, s.verifySlot bundle slot = (false, s.log 0xA001 (domMp 0) items) := by
  obtain ⟨⟨kind, rule⟩, hfault⟩ := Option.ne_none_iff_exists'.mp h
  unfold flashSlot at hfault
  exact ⟨_, by rw [State.verifySlot, hfault]⟩

/-! ### The ROM (R457, R458) -/

/-- A boot is counted. -/
def State.romCounted (s : State) : State := s.setBoot fun b => { b with count := (b.count + 1) % 2 ^ 32, triedFirst := false }

/-- The state in which the ROM has run a first stage, or failed. -/
def State.romRan (s : State) : State :=
  match s.romCounted.verifySlot false s.boot.activeFirst with
  | (true, u) => u.runFirstStage s.boot.activeFirst
  | (false, u) => (u.setBoot fun b => { b with triedFirst := true }).otherFirstStage (1 - s.boot.activeFirst)

/-- A first stage runs with the next count, and its header is in M0 and at hand (R462). -/
structure State.RunsFirst (s t : State) (slot : Nat) : Prop where
  stage : t.boot.stage = s.boot.stage
  failed : t.boot.failed = s.boot.failed
  runs : t.boot.runFirst = slot
  header : t.boot.firstHeader = headerOf (s.flashImage slot)
  count : t.boot.count = (s.boot.count + 1) % 2 ^ 32
  measured : t.boot.measures.getD 0 [] = Config.sha3 (s.boot.measures.getD 0 [] ++ Config.sha3 (headerOf (s.flashImage slot)))

theorem getD_set_same {α : Type} {xs : List α} {i : Nat} (x d : α) (h : i < xs.length) : (xs.set i x).getD i d = x := by
  rw [List.getD_eq_getElem _ _ (by rwa [List.length_set]), List.getElem_set_self]

theorem getD_set_other {α : Type} {xs : List α} {i j : Nat} (x d : α) (h : i ≠ j) : (xs.set i x).getD j d = xs.getD j d := by
  rw [List.getD_eq_getElem?_getD, List.getD_eq_getElem?_getD, List.getElem?_set_ne h]

theorem State.runFirstStage_runs {s u : State} {slot : Nat} (hmeasures : s.boot.measures.length = 8)
    (hboot : ∃ tried, u.boot = { s.romCounted.boot with triedFirst := tried }) : s.RunsFirst (u.runFirstStage slot) slot := by
  obtain ⟨tried, hboot⟩ := hboot
  have hheader : u.flashImage slot = s.flashImage slot := State.flashImage_of_images (by rw [hboot]; rfl) slot
  have hran : (u.runFirstStage slot).boot = { u.boot with
      runFirst := slot
      firstHeader := headerOf (u.flashImage slot)
      measures := u.boot.measures.set 0
        (Config.sha3 (u.boot.measures.getD 0 [] ++ Config.sha3 (headerOf (u.flashImage slot))))
      log := (u.runFirstStage slot).boot.log } := rfl
  rw [hboot, hheader] at hran
  refine ⟨?stage, ?failed, ?runs, ?header, ?count, ?measured⟩
  case measured =>
    rw [hran]
    exact getD_set_same _ _ (show 0 < s.boot.measures.length by omega)
  case stage => rw [hran]; rfl
  case failed => rw [hran]; rfl
  case runs => rw [hran]
  case header => rw [hran]
  case count => rw [hran]; rfl

section
variable {s : State} (hdown : s.down = false) (hgood : s.boot.good = true) (hfailed : s.boot.failed = false)
  (hstage : s.boot.stage = 0)
include hdown hgood hfailed hstage

theorem exec_romBootStage :
    exec .romBootStage s = .next (s.romRan.on (!s.romRan.boot.failed) (·.stageEnds 0 0)) := by
  change execRomBootStage s = _
  rw [execRomBootStage, act_up hdown, if_neg (by simp [hgood, hfailed, hstage])]
  rfl

theorem exec_romBootStage_runs {slot : Nat} (hruns : s.RunsFirst s.romRan slot) :
    exec .romBootStage s = .next (s.romRan.stageEnds 0 0) := by
  rw [exec_romBootStage hdown hgood hfailed hstage, State.on, if_pos (by rw [hruns.failed, hfailed]; rfl)]

end

/-- The active slot passes. -/
theorem State.romRan_active {s : State} (hmeasures : s.boot.measures.length = 8)
    (hactive : s.slotFault false (s.flashImage s.boot.activeFirst) = none) :
    s.RunsFirst s.romRan s.boot.activeFirst ∧ s.romRan.faults = s.faults := by
  have hpass : s.romCounted.slotFault false (s.romCounted.flashImage (flashSlot false s.boot.activeFirst)) = none :=
    (State.slotFault_of_floors rfl false _).trans hactive
  rw [State.romRan, State.verifySlot_passes hpass]
  exact ⟨State.runFirstStage_runs hmeasures ⟨_, rfl⟩, rfl⟩

/-- The state in which the active slot has failed and is logged. -/
def State.romRetries (s : State) (items : List (Nat × Nat)) : State :=
  (s.romCounted.log 0xA001 (domMp 0) items).setBoot fun b => { b with triedFirst := true }

theorem State.romRetries_spec (s : State) (items : List (Nat × Nat)) :
    (s.romRetries items).boot = { s.romCounted.boot with triedFirst := true } ∧ Logged s (s.romRetries items) [0xA001] := by
  refine ⟨?_, (logged1 (s := s) (u := s.romCounted) rfl 0xA001 (domMp 0) items (by decide)).congr rfl⟩
  rw [State.romRetries, State.setBoot_boot, State.log_boot]

/-- The active slot fails: the other one is booted. -/
theorem State.romRan_other {s : State} (hactive : s.slotFault false (s.flashImage s.boot.activeFirst) ≠ none) :
    ∃ items, s.romRan = (s.romRetries items).otherFirstStage (1 - s.boot.activeFirst) := by
  have hfault : s.romCounted.slotFault false (s.romCounted.flashImage (flashSlot false s.boot.activeFirst)) ≠ none :=
    fun h => hactive ((State.slotFault_of_floors rfl false _).symm.trans h)
  obtain ⟨items, hverify⟩ := State.verifySlot_fails hfault
  exact ⟨items, by rw [State.romRan, hverify]; rfl⟩

/-- The other slot passes: its header extends M0 too (log entry 70). -/
theorem State.otherFirstStage_passes {s u : State} {slot : Nat} (hmeasures : s.boot.measures.length = 8)
    (hboot : u.boot = { s.romCounted.boot with triedFirst := true })
    (hother : s.slotFault false (s.flashImage slot) = none) :
    s.RunsFirst (u.otherFirstStage slot) slot ∧ Logged u (u.otherFirstStage slot) [0xA002] := by
  have hlog : (u.log 0xA002 (domMp 0)).boot = { s.romCounted.boot with triedFirst := true } := by
    rw [State.log_boot, hboot]
  have hpass : (u.log 0xA002 (domMp 0)).slotFault false
      ((u.log 0xA002 (domMp 0)).flashImage (flashSlot false slot)) = none := by
    rw [State.slotFault_of_floors (s := s) (by rw [hlog]; rfl), State.flashImage_of_images (s := s) (by rw [hlog]; rfl)]
    exact hother
  rw [State.otherFirstStage, State.verifySlot_passes hpass]
  exact ⟨State.runFirstStage_runs hmeasures ⟨true, hlog⟩, (Logged.log1 u 0xA002 (domMp 0) [] (by decide)).congr rfl⟩

/-- Both slots fail: so does the boot. -/
theorem State.otherFirstStage_fails {u : State} {slot : Nat} (hother : u.slotFault false (u.flashImage slot) ≠ none) :
    (u.otherFirstStage slot).boot.failed = true ∧ (u.otherFirstStage slot).boot.stage = u.boot.stage ∧
    Logged u (u.otherFirstStage slot) [0xA001, 0xA002] := by
  have hfault : (u.log 0xA002 (domMp 0)).slotFault false
      ((u.log 0xA002 (domMp 0)).flashImage (flashSlot false slot)) ≠ none := by
    rw [State.slotFault_of_floors (s := u) (by rw [State.log_boot]), State.flashImage_of_images (s := u) (by rw [State.log_boot])]
    exact hother
  obtain ⟨items, hverify⟩ := State.verifySlot_fails hfault
  obtain ⟨hfailed, hstage, hfaults, -⟩ := ((u.log 0xA002 (domMp 0)).log 0xA001 (domMp 0) items).bootFails_spec
  rw [State.otherFirstStage, hverify]
  refine ⟨hfailed, hstage.trans (by rw [State.log_boot, State.log_boot]), Logged.congr ?_ (congrArg Faults.ring hfaults)⟩
  exact (Logged.log1 u 0xA002 (domMp 0) [] (by decide)).log 0xA001 (domMp 0) items (by decide)

/-! ### The first stage (R457-R459) -/

theorem State.trainStacks_frame (s : State) (ns bad : List Nat) :
    Only [.out, .hold, .links, .ctxs, .objects, .ring, .msix, .memctl, .alert] s (s.each ns fun s n => s.trainStack n bad) :=
  State.each_only (Only.refl _ s) _ _ fun _ n h => State.trainStack_only h (by decide) n bad

/-- The bundle of a slot runs: its headers are measured into M1 and M2. -/
def State.runBundle (s : State) (slot : Nat) : State :=
  let hs := (splitImages 3 (s.flashImage (2 + slot))).map headerOf
  ((((s.setBoot fun b => { b with runBundle := slot, bundleHeaders := hs }).clearMeasure 1).extendImage 1 2
    (hs.getD 0 [])).clearMeasure 2).extendImage 2 3 (hs.getD 1 []) |>.extendImage 2 4 (hs.getD 2 [])

/-- Where the slot fails, the other one is tried; where both do, so does the boot (R458). -/
theorem State.loadBundle_eq (s : State) (slot : Nat) : s.loadBundle slot =
    match s.verifySlot true slot with
    | (true, u) => u.runBundle slot
    | (false, u) => match u.verifySlot true (1 - slot) with
      | (true, v) => v.runBundle (1 - slot)
      | (false, v) => v.bootFails := rfl

theorem State.loadBundle_passes {s : State} {slot : Nat} (h : s.slotFault true (s.flashImage (2 + slot)) = none) :
    s.loadBundle slot = s.runBundle slot := by
  rw [State.loadBundle_eq, State.verifySlot_passes (slot := slot) (bundle := true) h]

/-- What a bundle that runs leaves in the boot's record. -/
theorem State.runBundle_boot {s : State} (slot : Nat) (hmeasures : s.boot.measures.length = 8) :
    let hs := (splitImages 3 (s.flashImage (2 + slot))).map headerOf
    (s.runBundle slot).boot.runBundle = slot ∧ (s.runBundle slot).boot.bundleHeaders = hs ∧
    (s.runBundle slot).boot.measures.getD 1 [] = Config.sha3 (List.replicate 48 0 ++ Config.sha3 (hs.getD 0 [])) ∧
    (s.runBundle slot).boot.measures.getD 2 [] = Config.sha3 (Config.sha3 (List.replicate 48 0 ++
      Config.sha3 (hs.getD 1 [])) ++ Config.sha3 (hs.getD 2 [])) := by
  refine ⟨rfl, rfl, ?first, ?second⟩
  case first =>
    simp only [State.runBundle, State.extendImage, State.extend, State.clearMeasure, State.setBoot_boot]
    simp [List.getD_eq_getElem?_getD, hmeasures]
  case second =>
    simp only [State.runBundle, State.extendImage, State.extend, State.clearMeasure, State.setBoot_boot]
    simp [List.getD_eq_getElem?_getD, hmeasures]

/-- Loading a bundle keeps the stage. -/
theorem State.loadBundle_stage (s : State) (slot : Nat) : (s.loadBundle slot).boot.stage = s.boot.stage := by
  have hruns : ∀ (u : State) n, (u.runBundle n).boot.stage = u.boot.stage := fun _ _ => rfl
  have hlog : ∀ (u : State) ev dom items, (u.log ev dom items).boot.stage = u.boot.stage := fun u _ _ _ => by
    rw [State.log_boot]
  by_cases hslot : s.slotFault true (s.flashImage (flashSlot true slot)) = none
  · rw [State.loadBundle_passes hslot, hruns]
  obtain ⟨items, hfirst⟩ := State.verifySlot_fails hslot
  rw [State.loadBundle_eq, hfirst]
  dsimp only
  generalize hu : s.log 0xA001 (domMp 0) items = u
  by_cases hother : u.slotFault true (u.flashImage (flashSlot true (1 - slot))) = none
  · rw [State.verifySlot_passes hother]
    dsimp only
    rw [hruns, ← hu, hlog]
  · obtain ⟨items', hsecond⟩ := State.verifySlot_fails hother
    rw [hsecond]
    dsimp only
    rw [(State.bootFails_spec _).2.1, hlog, ← hu, hlog]

theorem State.trainStacks_boot (s : State) (ns bad : List Nat) :
    (s.each ns fun s n => s.trainStack n bad).boot =
      { s.boot with alert := (s.each ns fun s n => s.trainStack n bad).boot.alert } :=
  (s.trainStacks_frame ns bad).2 .boot (by decide)

/-- A trial that did not become READY is over (R458). -/
def State.endTrial (s : State) (late : Bool) : State :=
  if late then (s.log 0xA002 (domMp 0)).setBoot fun b => { b with trialBundle := false } else s

theorem State.endTrial_boot (s : State) (late : Bool) : (s.endTrial late).boot.otherBundle = s.boot.otherBundle ∧
    (s.endTrial late).boot.activeBundle = s.boot.activeBundle ∧ (s.endTrial late).boot.stage = s.boot.stage := by
  unfold State.endTrial
  split
  · rw [State.setBoot_boot, State.log_boot]
    exact ⟨rfl, rfl, rfl⟩
  · exact ⟨rfl, rfl, rfl⟩

/-- The bundle that boot takes (R458). -/
def State.takeBundle (s : State) : State :=
  let u := s.endTrial (s.boot.trialBundle && !s.boot.otherBundle)
  u.loadBundle (if u.boot.otherBundle then 1 - u.boot.activeBundle else u.boot.activeBundle)

theorem State.takeBundle_eq {s u : State} {alert : Bool} (hboot : u.boot = { s.boot with alert := alert }) :
    u.takeBundle = (u.endTrial (s.boot.trialBundle && !s.boot.otherBundle)).loadBundle
      (if s.boot.otherBundle then 1 - s.boot.activeBundle else s.boot.activeBundle) := by
  obtain ⟨hother, hactive, -⟩ := u.endTrial_boot (u.boot.trialBundle && !u.boot.otherBundle)
  rw [State.takeBundle, hother, hactive, hboot]

theorem State.takeBundle_stage (s : State) : s.takeBundle.boot.stage = s.boot.stage := by
  rw [State.takeBundle, State.loadBundle_stage, (State.endTrial_boot s _).2.2]

/-- What stage 1 comes to, once its bundle runs (R457, R404). -/
def State.firstStageEnds (s : State) : State :=
  if s.boot.failed then s
  else if Config.baseCampOk s.boot.count && Config.identityOk then s.loadShadow.stageEnds 1 1
  else s.bootFails

section
variable {s : State} (hdown : s.down = false) (hfailed : s.boot.failed = false)
include hdown hfailed

theorem exec_firstBootStage (failed : List PseudoChan) (hstage : s.boot.stage = 1) : exec (.firstBootStage failed) s =
    .next (s.each (List.range 8) fun s n => s.trainStack n (failed.map (·.val))).takeBundle.firstStageEnds := by
  change execFirstBootStage failed s = _
  rw [execFirstBootStage, act_up hdown, if_neg (by simp [hfailed, hstage])]
  dsimp only
  generalize (s.each (List.range 8) fun s n => s.trainStack n (failed.map (·.val))) = u
  rfl

theorem exec_linksAndTimeStage (hstage : s.boot.stage = 2) : exec .linksAndTimeStage s = .next (s.stageEnds 2 2) := by
  change execLinksAndTimeStage s = _
  rw [execLinksAndTimeStage, act_up hdown, if_neg (by simp [hfailed, hstage])]

theorem exec_memoryBootStage (failed : List PseudoChan) (hstage : s.boot.stage = 3) :
    let u := (s.each ((List.range 24).map (8 + ·)) fun s n => s.trainStack n (failed.map (·.val))).applyRetirements
    let v := (u.clearMeasure 5).measure 5 6 (Config.retirementImage u.memctl.retired)
    let z := if v.retiredTooMany then v.outOfService 0x5007 else v
    exec (.memoryBootStage failed) s =
      .next (if z.obj 0x9003 1 = 1 then z.stageEnds 3 3 else z.becomeReady.stageEnds 3 4) := by
  change execMemoryBootStage failed s = _
  rw [execMemoryBootStage, act_up hdown, if_neg (by simp [hfailed, hstage])]
  rfl

theorem exec_firstStageTimeout_again (hstage : s.boot.stage = 1) (htried : s.boot.triedFirst = true) :
    exec .firstStageTimeout s = .next s.bootFails := by
  change execFirstStageTimeout s = _
  rw [execFirstStageTimeout, act_up hdown, if_neg (by simp [hfailed, hstage]), if_pos htried]

theorem exec_firstStageTimeout (hstage : s.boot.stage = 1) (htried : s.boot.triedFirst = false) :
    exec .firstStageTimeout s =
      .next ((s.setBoot fun b => { b with triedFirst := true }).otherFirstStage (1 - s.boot.runFirst)) := by
  change execFirstStageTimeout s = _
  rw [execFirstStageTimeout, act_up hdown, if_neg (by simp [hfailed, hstage]), if_neg (by simp [htried])]

end

theorem exec_trialBundleTimeout {s : State} (hdown : s.down = false) (htrial : s.trialRuns = true) (hlow : 2 ≤ s.boot.stage)
    (hhigh : s.boot.stage ≤ 3) :
    exec .trialBundleTimeout s = .next (s.setBoot fun b => { b with otherBundle := false }) := by
  change execTrialBundleTimeout s = _
  rw [execTrialBundleTimeout, act_up hdown, if_pos ⟨htrial, hlow, hhigh⟩]

/-- READY, and what it makes of a bundle on trial (R391, R458). -/
theorem State.becomeReady_spec (s : State) : s.becomeReady.obj 0x1000 8 = 1 ∧
    s.becomeReady.boot.trialBundle = (s.boot.trialBundle && !s.trialRuns) ∧
    s.becomeReady.boot.activeBundle = if s.trialRuns then s.boot.runBundle else s.boot.activeBundle := by
  have halerted : ∃ alert, (s.alerting fun s => s.setObj 0x1000 8 1).boot = { s.boot with alert := alert } := by
    unfold State.alerting
    dsimp only
    split <;> exact ⟨_, rfl⟩
  have hready : (s.alerting fun s => s.setObj 0x1000 8 1).obj 0x1000 8 = 1 := by
    rw [alerting_obj, State.obj_setObj_same]
  obtain ⟨alert, hboot⟩ := halerted
  unfold State.becomeReady
  generalize (s.alerting fun s => s.setObj 0x1000 8 1) = u at hboot hready ⊢
  have htrial : u.trialRuns = s.trialRuns := by rw [State.trialRuns, hboot, State.trialRuns]
  dsimp only [State.on]
  rw [htrial]
  split
  · next h =>
    rw [State.setBoot_obj, State.setBoot_boot, hboot]
    exact ⟨hready, by simp [h], rfl⟩
  · next h =>
    rw [hboot]
    exact ⟨hready, by simp [h], rfl⟩

/-- Settles O49. -/
theorem bootStages : Obligations.BootStages := by
  intro s hdown
  refine ⟨fun u a b => ⟨by rw [u.stageEnds_boot], u.stageEnds_reports a b, u.stageEnds_logged a b⟩,
    State.becomeReady_spec, fun hgood hfailed hstage hmeasures => ⟨fun hactive => ?active, fun hactive hother => ?other,
      fun hactive hother => ?both⟩, fun failed hfailed hstage => ?first, fun slot hmeasures hslot => ?bundle,
    fun hfailed hstage => exec_linksAndTimeStage hdown hfailed hstage, fun failed hfailed hstage => ?memory,
    fun hfailed hstage => ⟨fun htried => ?again, fun htried => ?timeout⟩, fun htrial hlow hhigh => ?trial, ?perst⟩
  case active =>
    obtain ⟨hruns, hfaults⟩ := State.romRan_active hmeasures hactive
    refine ⟨_, exec_romBootStage_runs hdown hgood hfailed hstage hruns, ?_⟩
    rw [State.stageEnds_boot]
    exact ⟨rfl, hruns.runs, hruns.header, hruns.count, hruns.measured,
      (s.romRan.stageEnds_logged 0 0).congr_left (congrArg Faults.ring hfaults).symm⟩
  case other =>
    obtain ⟨items, hran⟩ := State.romRan_other hactive
    obtain ⟨hboot, hretries⟩ := s.romRetries_spec items
    obtain ⟨hruns, hother⟩ := State.otherFirstStage_passes hmeasures hboot hother
    rw [← hran] at hruns hother
    refine ⟨_, exec_romBootStage_runs hdown hgood hfailed hstage hruns, ?_⟩
    rw [State.stageEnds_boot]
    exact ⟨rfl, hruns.runs, hruns.measured, (hretries.trans hother).trans (s.romRan.stageEnds_logged 0 0)⟩
  case both =>
    obtain ⟨items, hran⟩ := State.romRan_other hactive
    obtain ⟨hboot, hretries⟩ := s.romRetries_spec items
    have hfault : (s.romRetries items).slotFault false ((s.romRetries items).flashImage (1 - s.boot.activeFirst)) ≠ none := by
      rw [State.slotFault_of_floors (s := s) (by rw [hboot]; rfl), State.flashImage_of_images (s := s) (by rw [hboot]; rfl)]
      exact hother
    obtain ⟨hfails, hstays, hlogged⟩ := State.otherFirstStage_fails hfault
    rw [← hran] at hfails hstays hlogged
    refine ⟨s.romRan, ?_, hstays.trans (by rw [hboot]; exact hstage), hfails, hretries.trans hlogged⟩
    rw [exec_romBootStage hdown hgood hfailed hstage, State.on, if_neg (by rw [hfails]; decide)]
  case first =>
    have hexec := exec_firstBootStage hdown hfailed failed hstage
    have hboot := s.trainStacks_boot (List.range 8) (failed.map (·.val))
    refine ⟨hboot, ?_⟩
    generalize (s.each (List.range 8) fun s n => s.trainStack n (failed.map (·.val))) = u at hexec hboot ⊢
    have hstays : u.takeBundle.boot.stage = 1 := u.takeBundle_stage.trans (by rw [hboot]; exact hstage)
    have htake := State.takeBundle_eq hboot
    rw [State.endTrial] at htake
    dsimp only
    rw [← htake]
    obtain ⟨hfails, hstage', -, hobj⟩ := u.takeBundle.bootFails_spec
    refine ⟨fun hbad => ?_, fun hgood hok => ?_, fun hgood hok => ⟨_, ?_, hfails, hstage'.trans hstays, hobj _ _⟩⟩
    · rw [hexec, State.firstStageEnds, if_pos hbad]
    · rw [hexec, State.firstStageEnds, if_neg (by rw [hgood]; decide), if_pos hok]
    · rw [hexec, State.firstStageEnds, if_neg (by rw [hgood]; decide), if_neg (by rw [hok]; decide)]
  case bundle =>
    rw [State.loadBundle_passes hslot]
    exact State.runBundle_boot slot hmeasures
  case memory =>
    have hexec := exec_memoryBootStage hdown hfailed failed hstage
    exact ⟨fun hoos => hexec.trans (congrArg _ (if_pos hoos)), fun hserves => hexec.trans (congrArg _ (if_neg hserves))⟩
  case again => exact ⟨_, exec_firstStageTimeout_again hdown hfailed hstage htried, s.bootFails_spec.1⟩
  case timeout => exact ⟨_, rfl, exec_firstStageTimeout hdown hfailed hstage htried⟩
  case trial => exact ⟨_, exec_trialBundleTimeout hdown htrial hlow hhigh, rfl⟩
  case perst =>
    refine ⟨s.setHost fun p => { p with linkUp := true }, ?_, rfl⟩
    change execPerstDeassert s = _
    rw [execPerstDeassert, act_up hdown]

end Sys2Proof.Machine

/-!
What each operation on the dictionary does (O46): an operation and its row, READ, the checks of WRITE in their order,
pieces of a BLOB, and SUBSCRIBE.
-/
namespace Sys2Proof.Machine

section
variable {s : State} {q : DxpReq} {r : ObjRow}

/-! ### A request and its operation (R400) -/

theorem State.request_denied (hop : hOp q.w = 2 ∨ hOp q.w = 4 ∨ hOp q.w = 8) (hreader : q.writer = false) :
    s.request q = (.abort 7, s) := by
  rw [State.request]
  exact if_pos (by simp [hop, hreader])

theorem State.request_read (hop : hOp q.w = 1) : s.request q = s.readRequest q := by
  simp [State.request, hop]

theorem State.request_write (hop : hOp q.w = 2) (hwriter : q.writer = true) : s.request q = s.writeRequest q := by
  simp [State.request, hop, hwriter]

theorem State.request_readBlob (hop : hOp q.w = 3) : s.request q = (s.readBlobRequest q, s) := by
  simp [State.request, hop]

theorem State.request_writeBlob (hop : hOp q.w = 4) (hwriter : q.writer = true) :
    s.request q = s.writeBlobRequest q := by
  simp [State.request, hop, hwriter]

theorem State.request_describe (hop : hOp q.w = 5) : s.request q = (s.describeRequest q, s) := by
  simp [State.request, hop]

theorem State.request_list (hop : hOp q.w = 6) :
    s.request q = (answerData q.transport 0 (listAfter s.kind q.key (hLength q.w / 4)), s) := by
  simp [State.request, hop]

theorem State.request_subscribe (hop : hOp q.w = 7) : s.request q = s.subscribeRequest q := by
  simp [State.request, hop]

theorem State.request_groupKey (hop : hOp q.w = 8) (hwriter : q.writer = true) :
    s.request q = s.groupKeyRequest q := by
  simp [State.request, hop, hwriter]

theorem State.request_close (hop : hOp q.w = 9) : s.request q = (.ok, s) := by
  simp [State.request, hop]

/-- A request to an object that is not defined (R394). -/
theorem State.request_undefined (hnone : s.defined q.idx q.sub = none) (hwriter : q.writer = true)
    (hlow : 1 ≤ hOp q.w) (hhigh : hOp q.w ≤ 3 ∨ hOp q.w = 5) : s.request q = (.abort 1, s) := by
  have hop : hOp q.w = 1 ∨ hOp q.w = 2 ∨ hOp q.w = 3 ∨ hOp q.w = 5 := by omega
  obtain hop | hop | hop | hop := hop
  · rw [State.request_read hop, State.readRequest, hnone]
  · rw [State.request_write hop hwriter, State.writeRequest, hnone]
  · rw [State.request_readBlob hop, State.readBlobRequest, hnone]
  · rw [State.request_describe hop, State.describeRequest, hnone]

/-! ### READ (R57, R388) -/

theorem answerData_fits {transport type : Nat} {data : List Byte} (hfits : data.length ≤ dxpLimit transport) :
    answerData transport type data = .done 0 type data :=
  if_neg (Nat.not_lt.mpr hfits)

theorem State.afterRead_hallTime : s.afterRead (okey 0x2000 1) = s.setTime fun t => { t with fracLatch := s.hall % 64 } :=
  if_pos rfl

theorem State.afterRead_peak : s.afterRead (okey 0x3000 5) = s.setSupply fun p => { p with peak := 0 } := by
  rw [State.afterRead, if_neg (by decide), if_pos rfl]

theorem State.afterRead_plain {k : Nat} (htime : k ≠ okey 0x2000 1) (hpeak : k ≠ okey 0x3000 5) : s.afterRead k = s := by
  rw [State.afterRead, if_neg htime, if_neg hpeak]

theorem State.readRequest_writeOnly (hdefined : s.defined q.idx q.sub = some r) (hacc : r.acc = .wo) :
    s.readRequest q = (.abort 2, s) := by
  rw [State.readRequest, hdefined]
  exact if_pos hacc

theorem State.readRequest_blob (hdefined : s.defined q.idx q.sub = some r) (hacc : r.acc ≠ .wo) (hty : r.ty = .blob) :
    s.readRequest q = (.abort 4, s) := by
  rw [State.readRequest, hdefined]
  exact (if_neg hacc).trans (if_pos hty)

theorem State.readRequest_value (hdefined : s.defined q.idx q.sub = some r) (hacc : r.acc ≠ .wo) (hty : r.ty ≠ .blob) :
    s.readRequest q = (answerData q.transport r.ty.code (s.valueOf r q.idx q.sub), s.afterRead q.key) := by
  rw [State.readRequest, hdefined]
  exact (if_neg hacc).trans (if_neg hty)

/-! ### WRITE: the checks in their order (R394, R405) -/

/-- The object's access, or PERSIST of an object that is not stored, bars the write. -/
def State.barred (s : State) (q : DxpReq) (r : ObjRow) : Prop :=
  r.acc = .const ∨ r.acc = .ro ∨ (r.acc = .rwd ∧ s.kind ≠ 5) ∨ (hPersist q.w = true ∧ r.stored = false)

/-- The write has the object's type and size. -/
def DxpReq.shaped (q : DxpReq) (r : ObjRow) : Prop :=
  r.ty ≠ .blob ∧ hType q.w = r.ty.code ∧ q.data.length = r.size

/-- The value is in range and within the bounds that hold between objects. -/
def State.ranged (s : State) (q : DxpReq) (r : ObjRow) : Bool :=
  if r.ty = .recd then recInRange q.key q.data
  else inRange r q.key (leNat q.data) && boundsKept s.inForce q.key (leNat q.data)

/-- What a write that passes the first three checks does. -/
def State.writePassed (s : State) (q : DxpReq) (r : ObjRow) : Answer × State :=
  let k := q.key
  let v := leNat q.data
  let a := s.chapterRule r k v q.data
  if a ≠ 0 then (.abort a, s)
  else match (if r.ty = .recd then none else s.writeConflict k v) with
    | some c => (.abort 6, s.logConflict c)
    | none =>
      match s.trigger q v with
      | some (a, s) => (.abort a, s)
      | none =>
        if hPersist q.w then
          (.later, s.setDict fun d => { d with
            persist := d.persist ++ [⟨q.session, q.transport, q.source, BitVec.ofNat 256 q.w, k, v, q.data⟩] })
        else (.ok, s.take r k v q.data)

theorem State.writeRequest_checks (hdefined : s.defined q.idx q.sub = some r) : s.writeRequest q =
    if r.acc = .const ∨ r.acc = .ro ∨ (r.acc = .rwd ∧ s.kind ≠ 5) ∨ (hPersist q.w ∧ !r.stored) then (.abort 2, s)
    else if r.ty = .blob ∨ hType q.w ≠ r.ty.code ∨ q.data.length ≠ r.size then (.abort 4, s)
    else if !s.ranged q r then (.abort 3, s)
    else s.writePassed q r := by
  rw [State.writeRequest, hdefined]
  rfl

theorem State.writeRequest_barred (hdefined : s.defined q.idx q.sub = some r) (hbarred : s.barred q r) :
    s.writeRequest q = (.abort 2, s) := by
  rw [State.writeRequest_checks hdefined]
  exact if_pos (by simpa [State.barred] using hbarred)

theorem State.writeRequest_unshaped (hdefined : s.defined q.idx q.sub = some r) (hfree : ¬ s.barred q r)
    (hunshaped : ¬ q.shaped r) : s.writeRequest q = (.abort 4, s) := by
  rw [State.writeRequest_checks hdefined, if_neg (by simpa [State.barred] using hfree)]
  refine if_pos ?_
  rw [DxpReq.shaped] at hunshaped
  tauto

theorem State.writeRequest_shaped (hdefined : s.defined q.idx q.sub = some r) (hfree : ¬ s.barred q r)
    (hshaped : q.shaped r) :
    s.writeRequest q = if !s.ranged q r then (.abort 3, s) else s.writePassed q r := by
  obtain ⟨hty, htype, hlength⟩ := hshaped
  rw [State.writeRequest_checks hdefined, if_neg (by simpa [State.barred] using hfree)]
  exact if_neg (by simp [hty, htype, hlength])

theorem State.writePassed_refused (hrule : s.chapterRule r q.key (leNat q.data) q.data ≠ 0) :
    s.writePassed q r = (.abort (s.chapterRule r q.key (leNat q.data) q.data), s) :=
  if_pos hrule

theorem State.writePassed_conflict {c : Nat × Nat} (hrule : s.chapterRule r q.key (leNat q.data) q.data = 0)
    (hplain : r.ty ≠ .recd) (hconflict : s.writeConflict q.key (leNat q.data) = some c) :
    s.writePassed q r = (.abort 6, s.logConflict c) := by
  rw [State.writePassed]
  rw [if_neg (by simp [hrule]), if_neg hplain, hconflict]

/-- A write that passes every check, and that triggers nothing. -/
theorem State.writePassed_takes (hrule : s.chapterRule r q.key (leNat q.data) q.data = 0)
    (hfree : r.ty = .recd ∨ s.writeConflict q.key (leNat q.data) = none)
    (htrigger : s.trigger q (leNat q.data) = none) : s.writePassed q r =
      if hPersist q.w then
        (.later, s.setDict fun d => { d with persist := d.persist ++
          [⟨q.session, q.transport, q.source, BitVec.ofNat 256 q.w, q.key, leNat q.data, q.data⟩] })
      else (.ok, s.take r q.key (leNat q.data) q.data) := by
  have hnone : (if r.ty = .recd then none else s.writeConflict q.key (leNat q.data)) = none := by
    obtain hrecord | hnone := hfree
    · exact if_pos hrecord
    · rw [hnone, ite_self]
  rw [State.writePassed]
  rw [if_neg (by simp [hrule]), hnone]
  dsimp only
  rw [htrigger]

/-! ### Pieces of a BLOB (R400) -/

theorem State.readBlobRequest_writeOnly (hdefined : s.defined q.idx q.sub = some r) (hacc : r.acc = .wo) :
    s.readBlobRequest q = .abort 2 := by
  rw [State.readBlobRequest, hdefined]
  exact if_pos hacc

theorem State.readBlobRequest_noBlob (hdefined : s.defined q.idx q.sub = some r) (hacc : r.acc ≠ .wo)
    (hty : r.ty ≠ .blob) : s.readBlobRequest q = .abort 4 := by
  rw [State.readBlobRequest, hdefined]
  exact (if_neg hacc).trans (if_pos hty)

theorem State.readBlobRequest_blob (hdefined : s.defined q.idx q.sub = some r) (hacc : r.acc ≠ .wo)
    (hty : r.ty = .blob) : s.readBlobRequest q =
      if r.size < hOffset q.w + hLength q.w then .abort 0xB
      else .done 0 ObjType.blob.code (s.blobPiece q.session q.idx q.sub (hOffset q.w) (hLength q.w)) := by
  rw [State.readBlobRequest, hdefined]
  exact (if_neg hacc).trans (if_neg (not_not.mpr hty))

theorem State.writeBlobRequest_refused (hrule : s.blobRule q ≠ 0) :
    s.writeBlobRequest q = (.abort (s.blobRule q), s) :=
  if_pos hrule

theorem State.writeBlobRequest_table (hrule : s.blobRule q = 0) (hcamp : q.idx ≠ 0xB010) (hstaging : q.idx ≠ 0xA001) :
    s.writeBlobRequest q = (.ok, s.writeTable q) := by
  rw [State.writeBlobRequest]
  dsimp only
  rw [if_neg (by simp [hrule]), if_neg hcamp, if_neg hstaging]

/-! ### SUBSCRIBE (R441) -/

/-- The stream of the request's session. -/
def State.streamOf (s : State) (q : DxpReq) : Option Nat :=
  (List.range 4).find? fun n => (Tbl.get none s.faults.streams n).any (·.session == q.session)

/-- The first place that no stream has. -/
def State.freeStream (s : State) : Option Nat :=
  (List.range 4).find? fun n => (Tbl.get none s.faults.streams n).isNone

/-- The first record of the stream that a SUBSCRIBE asks for. -/
def State.streamStart (s : State) (q : DxpReq) : Nat :=
  let seq := s.obj 0x9004 2
  let start := leAt q.data 4 4
  let back := (seq + 2 ^ 32 - start) % 2 ^ 32
  let have_ := s.faults.ring.length
  if leAt q.data 1 1 % 2 = 0 ∨ 2 ^ 31 ≤ back then seq
  else if back ≤ have_ then start else (seq + 2 ^ 32 - have_) % 2 ^ 32

/-- The stream that a SUBSCRIBE asks for. -/
def State.askedStream (s : State) (q : DxpReq) : Stream :=
  ⟨q.session, leAt q.data 0 1, leAt q.data 2 2, hSeq q.w, s.streamStart q⟩

/-- A SUBSCRIBE in the form of R441. -/
structure DxpReq.subscribes (q : DxpReq) : Prop where
  transport : q.transport = 0 ∨ q.transport = 1
  length : q.data.length = 16
  flags : leAt q.data 1 1 ≤ 1
  reserved : allZero (q.data.drop 8) = true
  severity : leAt q.data 0 1 ≤ 3

theorem State.subscribeRequest_checked (hform : q.subscribes) : s.subscribeRequest q =
    if leAt q.data 2 2 = 0 then
      (.ok, match s.streamOf q with | some n => s.setSubscription n none | none => s)
    else match (s.streamOf q).orElse fun _ => s.freeStream with
      | some n => (.ok, s.setSubscription n (some (s.askedStream q)))
      | none => (.abort 0xC, s) := by
  obtain ⟨htransport, hlength, hflags, hreserved, hseverity⟩ := hform
  have hport : ¬ (q.transport = 2 ∨ q.transport = 3) := by
    obtain h | h := htransport <;> rw [h] <;> decide
  rw [State.subscribeRequest]
  dsimp only
  rw [if_neg hport, if_neg (by simp [hlength]), if_neg (by simp [hreserved]; omega), if_neg (by omega)]
  rfl

theorem State.streamStart_newest (hflags : leAt q.data 1 1 = 0) : s.streamStart q = s.obj 0x9004 2 := by
  rw [State.streamStart]
  exact if_pos (.inl (by rw [hflags]))

theorem range_find?_first {p : Nat → Bool} {n : Nat} (hn : n < 4) (hp : p n = true) (hbelow : ∀ k < n, p k = false) :
    (List.range 4).find? p = some n := by
  rw [List.find?_range_eq_some]
  exact ⟨hp, List.mem_range.mpr hn, fun k hk => by simp [hbelow k hk]⟩

theorem State.streamOf_first {n : Nat} {m : Stream} (hn : n < 4) (hstream : Tbl.get none s.faults.streams n = some m)
    (hsession : m.session = q.session)
    (hbelow : ∀ k < n, ∀ m, Tbl.get none s.faults.streams k = some m → m.session ≠ q.session) :
    s.streamOf q = some n := by
  refine range_find?_first hn (by simp [hstream, hsession]) fun k hk => ?_
  cases hget : Tbl.get none s.faults.streams k with
  | none => rfl
  | some x => simp [hbelow k hk x hget]

theorem State.streamOf_none
    (hother : ∀ k < 4, ∀ m, Tbl.get none s.faults.streams k = some m → m.session ≠ q.session) : s.streamOf q = none := by
  refine List.find?_eq_none.mpr fun k hk => ?_
  cases hget : Tbl.get none s.faults.streams k with
  | none => simp
  | some x => simp [hother k (List.mem_range.mp hk) x hget]

theorem State.freeStream_first {n : Nat} (hn : n < 4) (hfree : Tbl.get none s.faults.streams n = none)
    (htaken : ∀ k < n, Tbl.get none s.faults.streams k ≠ none) : s.freeStream = some n :=
  range_find?_first hn (by simp [hfree]) fun k hk => by
    rw [Option.isNone_eq_false_iff, Option.isSome_iff_ne_none]
    exact htaken k hk

theorem State.setSubscription_stream (n : Nat) (x : Option Stream) :
    Tbl.get none (s.setSubscription n x).faults.streams n = x := Tbl.get_set_same ..

/-- A SUBSCRIBE of a session that has no stream opens one in the first free place. -/
theorem State.subscribeRequest_opens {n : Nat} (hform : q.subscribes) (hmask : leAt q.data 2 2 ≠ 0) (hn : n < 4)
    (hfree : Tbl.get none s.faults.streams n = none)
    (hother : ∀ k < 4, ∀ m, Tbl.get none s.faults.streams k = some m → m.session ≠ q.session)
    (htaken : ∀ k < n, Tbl.get none s.faults.streams k ≠ none) :
    s.subscribeRequest q = (.ok, s.setSubscription n (some (s.askedStream q))) := by
  rw [State.subscribeRequest_checked hform, if_neg hmask, State.streamOf_none hother,
    State.freeStream_first hn hfree htaken]
  rfl

/-- A SUBSCRIBE of a session that has a stream changes or ends it. -/
theorem State.subscribeRequest_changes {n : Nat} (hform : q.subscribes) (hmine : s.streamOf q = some n) :
    s.subscribeRequest q =
      (.ok, s.setSubscription n (if leAt q.data 2 2 = 0 then none else some (s.askedStream q))) := by
  rw [State.subscribeRequest_checked hform, hmine]
  dsimp only [Option.orElse]
  split <;> rfl

theorem State.subscribeRequest_noStream (hport : q.transport = 2 ∨ q.transport = 3) :
    s.subscribeRequest q = (.abort 9, s) := if_pos hport

/-! ### GROUP_KEY (R402) -/

theorem State.groupKeyRequest_takes (hport : q.transport = 1) (hlength : q.data.length = 36) :
    s.groupKeyRequest q =
      (.ok, s.setDict fun d => { d with groupKey := some (q.data.take 32, q.data.drop 32), groupSeq := none }) := by
  rw [State.groupKeyRequest, if_neg (by simp [hport]), if_neg (by simp [hlength])]

end

/-- Settles O46, operation by operation. -/
theorem dictionaryRequests : Obligations.DictionaryRequests := by
  intro s q
  refine ⟨State.request_denied, State.request_undefined, fun r hdefined =>
      ⟨fun hop => ?read, fun hop hwriter => ?write, fun hop hacc hty hfits => ?piece, fun hop hacc => ?hidden,
        fun hop hacc hty => ?noBlob, fun hop hacc hty hbeyond => ?beyond, fun hop hwriter hrule => ?blobRefused,
        fun hop hwriter hrule hcamp hstaging => ?table, fun hop => ?describe⟩,
    fun hop hfits => ?list, fun hop hport hlength hflags hreserved hseverity hmask n hn hfree hother htaken => ?subscribe,
    fun hop hport hlength hflags hreserved hseverity n hn m hstream hsession hbelow => ?change,
    fun hop hport => ?noStream, fun hop hwriter hport hlength => ?groupKey, State.request_close⟩
  case read =>
    rw [State.request_read hop]
    refine ⟨State.readRequest_writeOnly hdefined, State.readRequest_blob hdefined, fun hacc hty hfits => ?_,
      fun hacc hty hlong => ?_⟩
    · refine ⟨s.afterRead q.key, ?_, fun hkey => ?_, fun hkey => ?_, State.afterRead_plain⟩
      · rw [State.readRequest_value hdefined hacc hty, answerData_fits hfits]
      · rw [hkey, State.afterRead_hallTime]
      · rw [hkey, State.afterRead_peak]
    · rw [State.readRequest_value hdefined hacc hty, answerData, if_pos hlong]
  case write =>
    rw [State.request_write hop hwriter]
    refine ⟨State.writeRequest_barred hdefined, State.writeRequest_unshaped hdefined, fun hfree hshaped hranged => ?_,
      fun hfree hshaped hranged hrule => ?_, fun hfree hshaped hranged hrule => ?_⟩
    all_goals rw [State.writeRequest_shaped hdefined hfree hshaped]
    · exact if_pos (by simpa using (show ¬ s.ranged q r = true from hranged))
    · exact (if_neg (by simpa using (show s.ranged q r = true from hranged))).trans (State.writePassed_refused hrule)
    · rw [if_neg (by simpa using (show s.ranged q r = true from hranged))]
      refine ⟨fun c => State.writePassed_conflict hrule, fun hconflict htrigger => ?_⟩
      rw [State.writePassed_takes hrule hconflict htrigger]
      exact ⟨fun hnow => if_neg (by simp [hnow]), fun hpersist => ⟨_, if_pos hpersist, rfl, rfl⟩⟩
  case piece =>
    rw [State.request_readBlob hop, State.readBlobRequest_blob hdefined hacc hty, if_neg (Nat.not_lt.mpr hfits)]
  case hidden => rw [State.request_readBlob hop, State.readBlobRequest_writeOnly hdefined hacc]
  case noBlob => rw [State.request_readBlob hop, State.readBlobRequest_noBlob hdefined hacc hty]
  case beyond => rw [State.request_readBlob hop, State.readBlobRequest_blob hdefined hacc hty, if_pos hbeyond]
  case blobRefused => rw [State.request_writeBlob hop hwriter, State.writeBlobRequest_refused hrule]
  case table => rw [State.request_writeBlob hop hwriter, State.writeBlobRequest_table hrule hcamp hstaging]
  case describe => rw [State.request_describe hop, State.describeRequest, hdefined]
  case list => rw [State.request_list hop, answerData_fits hfits]
  case subscribe =>
    exact ⟨s.askedStream q, _, (State.request_subscribe hop).trans (State.subscribeRequest_opens
        ⟨hport, hlength, hflags, hreserved, hseverity⟩ hmask hn hfree hother htaken),
      State.setSubscription_stream n _, rfl, rfl, rfl, State.streamStart_newest⟩
  case change =>
    refine ⟨_, (State.request_subscribe hop).trans (State.subscribeRequest_changes
      ⟨hport, hlength, hflags, hreserved, hseverity⟩ (State.streamOf_first hn hstream hsession hbelow)), ?_⟩
    rw [State.setSubscription_stream]
    exact ⟨fun hmask => if_pos hmask, fun hmask => by rw [if_neg hmask]; rfl⟩
  case noStream => rw [State.request_subscribe hop, State.subscribeRequest_noStream hport]
  case groupKey =>
    exact ⟨_, (State.request_groupKey hop hwriter).trans (State.groupKeyRequest_takes hport hlength), rfl, rfl, rfl⟩

end Sys2Proof.Machine

/-!
How a dictionary request is taken (O45): the row that runs it, a message outside a session, a request in a session,
and a multicast request.
-/
namespace Sys2Proof.Machine

section
variable {s : State} {m : DxpMsg} {data : List Byte} {v : Session}

/-! ### Rows and arrival (R396) -/

theorem exec_request_row {row : DxpRow} {c : Instr}
    (hrow : (row, c) ∈ [(DxpRow.read, Instr.dxpRead m), (.hallTime, .hallTimeRead m), (.write, .dxpWrite m),
      (.readBlob, .readBlob m), (.writeBlob, .writeBlob m), (.describe, .describe m), (.list, .dxpList m),
      (.subscribe, .subscribe m), (.groupKey, .groupKey m), (.close, .dxpClose m), (.bankCheck, .bankCheck m),
      (.bankArm, .switchBankArm m), (.bankDisarm, .switchBankDisarm m), (.holdRequest, .holdRequest m),
      (.restore, .restore m), (.freshStart, .freshStart m), (.belay, .belayRequest m), (.lsInit, .lsInitWrite m),
      (.regroup, .regroupRequest m), (.drawTarget, .drawTargetWrite m), (.campImage, .campImageWrite m),
      (.slotArm, .switchSlotArm m), (.slotDisarm, .switchSlotDisarm m), (.nonce, .attestNonce m),
      (.staging, .fwStagingWrite m), (.installFirst, .fwInstallFirstStage m), (.installBundle, .fwInstallBundle m),
      (.warmReset, .warmResetRequest m), (.coldReset, .coldResetRequest m), (.svnCommit, .svnCommit m),
      (.operatorKey, .operatorKeyWrite m)]) : exec c s = onRow row m s := by
  simp only [List.mem_cons, List.not_mem_nil, or_false, Prod.mk.injEq] at hrow
  obtain h | h | h | h | h | h | h | h | h | h | h | h | h | h | h | h | h | h | h | h | h | h | h | h | h | h | h | h |
    h | h | h := hrow
  all_goals
    obtain ⟨rfl, rfl⟩ := h
    rfl

theorem onRow_arrives (hdown : s.down = false) (hkind : hKind m.header.toNat = 3)
    (hidle : ¬ (m.transport = 0 ∧ s.host.mboxStatus = 1)) :
    onRow (s.dxpRow m) m s = .next (if !s.dictUp then (if s.boot.stage < 2 then s.popVc0 m else s)
      else ((s.taken m).handle m).mboxSettle.streamAll) := by
  rw [onRow, act_up hdown, if_pos rfl, State.arrive]
  dsimp only
  rw [if_neg (by simpa [hkind] using hidle), State.taken]

theorem State.dictUp_of_early (hstage : s.boot.stage < 2) : s.dictUp = false := by
  rw [State.dictUp, decide_eq_false (Nat.not_le.mpr hstage), Bool.false_and]

/-! ### A message whose tag is good (R397, R399) -/

/-- What an answer that no request has earned is made of: the abort is 8. -/
theorem State.answerHead_abort (abort : Nat) (kind session type length : Nat) :
    hAbort (s.answerHead m.header.toNat kind abort session type length).toNat = abort % 2 ^ 8 := by
  rw [State.answerHead, hAbort]
  unfold dxpHead
  iterate 13 rw [fld_append_high _ _ (by decide) (by decide)]
  exact (fld_append_low _ _).trans (BitVec.toNat_ofNat ..)

theorem State.handle_multicast (hkind : hKind m.header.toNat = 3) (hclear : s.clearData m = some data)
    (hport : m.transport = 1) (hsession : hSession m.header.toNat = 0xFFFF)
    (hmulticast : hMulticast m.header.toNat = true) : s.handle m = s.multicast m data := by
  rw [State.handle, hclear]
  exact if_pos ⟨hport, hkind, hsession, hmulticast⟩

/-- A request to this module alone: answered outside a session, or taken by its session in the form of R399. -/
def State.routed (s : State) (m : DxpMsg) (data : List Byte) : Option Session → State
  | none => s.plainAnswer m 4 (if dxpFormat m.transport m.header.toNat data.length then 0xC else 8)
  | some v =>
    if dxpFormat m.transport m.header.toNat data.length then s.inSession v m data
    else (s.countAbort 8).sendSession v (s.answerHead m.header.toNat 4 8 v.number 0 0) []

theorem State.handle_request (hkind : hKind m.header.toNat = 3) (hclear : s.clearData m = some data)
    (hsingle : ¬ (m.transport = 1 ∧ hSession m.header.toNat = 0xFFFF ∧ hMulticast m.header.toNat = true)) :
    s.handle m = s.routed m data (s.sessionOf m) := by
  rw [State.handle, hclear]
  dsimp only
  rw [if_neg (fun h => hsingle ⟨h.1, h.2.2⟩), if_neg (by simp [hkind])]
  cases s.sessionOf m <;> rfl

/-! ### A request in a session (R401) -/

/-- The session of a message is touched. -/
def State.touchedSession (s : State) (v : Session) (f : Session → Session) : State :=
  s.setDict fun d => { d with sessions := d.sessions.map fun x => if x.number = v.number then f x else x }

/-- The request's SEQ is the session's highest. -/
def State.seqTaken (s : State) (v : Session) (w : Nat) : State :=
  s.touchedSession v fun x => { x with high := some (max (hSeq w) (x.high.getD 0)) }

theorem State.inSession_kept {r : Nat × DxpReply} (hkept : v.kept.find? (·.1 == hSeq m.header.toNat) = some r) :
    s.inSession v m data =
      ((s.touchedSession v fun x => { x with last := s.now }).count 0x1002 0xC).sendSession v r.2.header r.2.data := by
  rw [State.inSession]
  dsimp only
  rw [hkept]
  rfl

theorem State.inSession_old {n : Nat} (hkept : v.kept.find? (·.1 == hSeq m.header.toNat) = none)
    (hhigh : v.high = some n) (hold : hSeq m.header.toNat + 64 < n) :
    s.inSession v m data = s.touchedSession v fun x => { x with last := s.now } := by
  rw [State.inSession]
  dsimp only
  rw [hkept]
  exact if_pos (by simp [hhigh, hold])

/-- What a request that is executed leaves behind. -/
def requestEnds (v : Session) (w : Nat) : Answer × State → State
  | (.later, s) => s
  | (.done abort type out, s) =>
    (s.sessionAnswer v w abort type out).on (hOp w == 9 && abort == 0) (·.closeSession v.number)

/-- A request that is new to its session waits, or is executed. -/
theorem State.inSession_new (hkept : v.kept.find? (·.1 == hSeq m.header.toNat) = none)
    (hnew : ∀ n, v.high = some n → n ≤ hSeq m.header.toNat + 64) :
    let y := s.touchedSession v fun x => { x with last := s.now }
    s.inSession v m data =
      if s.mustWait m.header.toNat then y.setDict fun d => { d with waiting := d.waiting ++ [m] }
      else requestEnds v m.header.toNat ((y.seqTaken v m.header.toNat).request
        ⟨v.number, m.transport, m.source, v.write, m.header.toNat, data⟩) := by
  have hfresh : v.high.any (fun n => decide (hSeq m.header.toNat + 64 < n)) = false := by
    cases hhigh : v.high with
    | none => rfl
    | some n => simpa using hnew n hhigh
  dsimp only
  rw [State.inSession]
  dsimp only
  rw [hkept, hfresh]
  dsimp only
  rw [if_neg Bool.false_ne_true]
  refine ite_congr rfl (fun _ => rfl) fun _ => ?_
  unfold requestEnds
  rfl

theorem requestEnds_closes {w type : Nat} {out : List Byte} (hop : hOp w = 9) :
    requestEnds v w (.done 0 type out, s) = (s.sessionAnswer v w 0 type out).closeSession v.number := by
  rw [requestEnds, hop]
  rfl

theorem requestEnds_stays {w abort type : Nat} {out : List Byte} (hopen : hOp w ≠ 9 ∨ abort ≠ 0) :
    requestEnds v w (.done abort type out, s) = s.sessionAnswer v w abort type out := by
  have hkeeps : (hOp w == 9 && abort == 0) = false := by
    obtain h | h := hopen <;> simp [h]
  rw [requestEnds, hkeeps]
  rfl

/-! ### A multicast request (R402) -/

theorem State.multicast_old {g : List Byte × List Byte} {n : Nat} (hkey : s.dict.groupKey = some g)
    (hhigh : s.dict.groupSeq = some n) (hold : hSeq m.header.toNat ≤ n) : s.multicast m data = s := by
  rw [State.multicast]
  dsimp only
  rw [hkey]
  exact if_pos (by simp [hhigh, hold])

theorem State.multicast_new {g : List Byte × List Byte} (hkey : s.dict.groupKey = some g)
    (hnew : ∀ n, s.dict.groupSeq = some n → n < hSeq m.header.toNat) (hready : s.mustWait m.header.toNat = false)
    (hformat : dxpFormat 1 m.header.toNat data.length = true) {abort type : Nat} {out : List Byte} {t : State}
    (hrequest : (s.setDict fun d => { d with groupSeq := some (hSeq m.header.toNat) }).request
      ⟨0xFFFF, m.transport, m.source, true, m.header.toNat, data⟩ = (.done abort type out, t)) :
    let h := t.answerHead m.header.toNat 4 abort 0xFFFF type out.length
    s.multicast m data = (t.countAbort abort).emit (.dxp 1 m.source h (dxpSeal (g.1 ++ g.2) 1 h out)) := by
  have hfresh : s.dict.groupSeq.any (fun n => decide (hSeq m.header.toNat ≤ n)) = false := by
    cases hhigh : s.dict.groupSeq with
    | none => rfl
    | some n => simpa using hnew n hhigh
  dsimp only
  rw [State.multicast]
  dsimp only
  rw [hkey]
  dsimp only
  rw [hfresh, if_neg Bool.false_ne_true, hready, if_neg Bool.false_ne_true, if_pos hformat, hrequest]

end

/-- Settles O45, following a message from its arrival to its answer. -/
theorem dictionaryRequestIsExecuted : Obligations.DictionaryRequestIsExecuted := by
  intro s m row c hdown hmem w hrow hkind hidle u ends multicast
  have hexec : exec c s = _ := (exec_request_row hmem).trans
    ((congrArg (onRow · m s) hrow.symm).trans (onRow_arrives hdown hkind hidle))
  have hserved (hup : s.dictUp = true) {t : State} (hhandle : u.handle m = t) : exec c s = .next (ends t) := by
    rw [hexec, if_neg (by simp [hup]), ← hhandle]
    rfl
  refine ⟨fun hstage => ?early, fun v data hup hclear hsingle hsession => ⟨fun hbad => ?bad, fun hgood => ?good⟩,
    fun data hup hclear hsingle hsession => ?outside, fun data g hup hclear hmulticast hkey => ?group⟩
  case early => rw [hexec, State.dictUp_of_early hstage, if_pos (by decide), if_pos hstage]
  case bad =>
    refine ⟨_, State.answerHead_abort (s := u) (m := m) 8 4 v.number 0 0, hserved hup ?_⟩
    rw [State.handle_request hkind hclear hsingle, hsession]
    exact if_neg (by rw [hbad]; decide)
  case good =>
    have hhandle : u.handle m = u.inSession v m data := by
      rw [State.handle_request hkind hclear hsingle, hsession]
      exact if_pos hgood
    refine ⟨fun r hkept => hserved hup (hhandle.trans (State.inSession_kept hkept)),
      fun hkept ⟨n, hhigh, hold⟩ => hserved hup (hhandle.trans (State.inSession_old hkept hhigh hold)),
      fun hkept hnew => ?new⟩
    have hinside := hhandle.trans (State.inSession_new hkept hnew)
    refine ⟨fun hwaits => hserved hup (hinside.trans (if_pos hwaits)), fun hready => ?ready⟩
    have hdone := hinside.trans (if_neg (by rw [hready]; decide))
    refine ⟨fun t hlater => hserved hup (hdone.trans (congrArg (requestEnds v w) hlater)),
      fun abort type out t hanswer => ⟨fun hop habort => hserved hup (hdone.trans ?_),
        fun hopen => hserved hup (hdone.trans ?_)⟩⟩
    · subst habort
      exact (congrArg (requestEnds v w) hanswer).trans (requestEnds_closes hop)
    · exact (congrArg (requestEnds v w) hanswer).trans (requestEnds_stays hopen)
  case outside =>
    refine hserved hup ?_
    rw [State.handle_request hkind hclear hsingle, hsession, State.routed]
  case group =>
    obtain ⟨hport, hsession, hbit⟩ := hmulticast
    have hhandle := State.handle_multicast hkind hclear hport hsession hbit
    exact ⟨fun ⟨n, hhigh, hold⟩ => hserved hup (hhandle.trans (State.multicast_old hkey hhigh hold)),
      fun hnew hready hformat abort type out t hrequest =>
        hserved hup (hhandle.trans (State.multicast_new hkey hnew hready hformat hrequest))⟩

end Sys2Proof.Machine

/-!
Module resets, field update and camp switches (O50).
-/
namespace Sys2Proof.Machine

/-! ### What the resets begin with (R291, R418) -/

/-- The holds of every unit released, their BREAKs sent, and the sweep in progress ended. -/
def State.swept (s : State) : State :=
  ((s.releaseHolds 0xA000).flushBreaks).on ((s.releaseHolds 0xA000).flushBreaks).training State.endSweep

theorem State.flushed_frame (s : State) (dom : Nat) :
    Only [.out, .hold, .links, .fabric, .ctxs, .sems, .movers, .objects, .ring, .msix, .alert] s
      (s.releaseHolds dom).flushBreaks :=
  State.flushBreaks_only (s.releaseHolds_frame dom) (by decide)

theorem State.swept_frame (s : State) :
    Only [.out, .hold, .links, .fabric, .mem, .poison, .ctxs, .sems, .movers, .deltas, .train, .rope, .objects, .ring,
      .faults, .msix, .alert] s s.swept :=
  (s.flushed_frame 0xA000).mono (by decide) |>.trans
    (State.on_frame (State.endSweep_only (Only.refl _ _) (by decide)))

/-- Both armed switches are disarmed. -/
def State.switchesOff (s : State) : State := s.disarmCamp.disarmBankSwitch

theorem State.switchesOff_frame (s : State) : Only [.tt, .objects, .ring] s s.switchesOff :=
  State.disarmBankSwitch_only (State.disarmCamp_only (Only.refl _ s) (by decide)) (by decide)

theorem State.switchesOff_camp (s : State) : s.switchesOff.obj 0xB000 3 = 0xFF := by
  rw [State.switchesOff, State.disarmBankSwitch, State.obj_setObj_other _ (by decide)]
  exact s.disarmCamp_disarmed

theorem State.switchesOff_bank (s : State) : s.switchesOff.obj 0x2010 9 = 0xFF := by
  rw [State.switchesOff, State.disarmBankSwitch, State.obj_setObj_same]

theorem State.disarmCamp_obj {s : State} {a b : Nat} (hcamp : okey a b ≠ okey 0xB000 3) (hlog : okey a b ≠ okey 0x9004 2)
    (hlost : okey a b ≠ okey 0x9004 3) : s.disarmCamp.obj a b = s.obj a b := by
  unfold State.disarmCamp State.on
  split
  · rw [State.log_obj _ _ _ hlog hlost, State.obj_setObj_other _ hcamp]
  · rfl

theorem State.switchesOff_obj {s : State} {a b : Nat} (hcamp : okey a b ≠ okey 0xB000 3)
    (hbank : okey a b ≠ okey 0x2010 9) (hlog : okey a b ≠ okey 0x9004 2) (hlost : okey a b ≠ okey 0x9004 3) :
    s.switchesOff.obj a b = s.obj a b := by
  rw [State.switchesOff, State.disarmBankSwitch, State.obj_setObj_other _ hbank]
  exact State.disarmCamp_obj hcamp hlog hlost

/-! ### The dictionary through a module warm reset (R418) -/

theorem Tbl.get_filter_key {α : Type} [DecidableEq α] {d : α} (p : Nat → Bool) (t : Tbl α) (k : Nat) :
    Tbl.get d (t.filter fun e => p e.1) k = if p k then Tbl.get d t k else d := by
  induction t with
  | nil => simp [Tbl.get]
  | cons e t ih =>
    obtain ⟨j, v⟩ := e
    rw [List.filter_cons]
    by_cases hkey : j = k
    · subst hkey
      cases hp : p j <;> simp [Tbl.get, hp, ih]
    · cases hp : p j <;> simp [Tbl.get, hkey, ih]

/-- Sessions end; the base camp and the camp images stay. -/
theorem Dict.warm_keeps (d : Dict) : d.warm.sessions = [] ∧ d.warm.base = d.base ∧ d.warm.baseRecs = d.baseRecs ∧
    d.warm.camps = d.camps := ⟨rfl, rfl, rfl, rfl⟩

theorem State.obj_warm {s t : State} (hdict : t.dict = s.dict.warm) (a b : Nat) :
    t.obj a b = if restarts (okey a b) then objDefault (okey a b) else s.obj a b := by
  have hget : Tbl.get none t.dict.objs (okey a b) =
      if (!restarts (okey a b)) = true then Tbl.get none s.dict.objs (okey a b) else none := by
    rw [hdict]
    exact Tbl.get_filter_key (fun k => !restarts k) _ _
  rw [State.obj, hget]
  cases restarts (okey a b) <;> rfl

/-! ### Measurements (R462) -/

theorem State.clearMeasure_measure {s : State} {r : Nat} (hr : r < s.boot.measures.length) (n : Nat) :
    (s.clearMeasure r).boot.measures.getD n [] =
      if n = r then List.replicate 48 0 else s.boot.measures.getD n [] := by
  rw [State.clearMeasure, State.setBoot_boot]
  split
  · next hn => rw [hn, getD_set_same _ _ hr]
  · next hn => exact getD_set_other _ _ (Ne.symm hn)

theorem State.clearMeasure_length (s : State) (r : Nat) :
    (s.clearMeasure r).boot.measures.length = s.boot.measures.length := by
  rw [State.clearMeasure, State.setBoot_boot, List.length_set]

/-- Registers that are cleared one after another. -/
theorem State.clearMeasures_measure (rs : List Nat) : ∀ s : State, (∀ r ∈ rs, r < s.boot.measures.length) → ∀ n,
    (s.each rs State.clearMeasure).boot.measures.getD n [] =
      if n ∈ rs then List.replicate 48 0 else s.boot.measures.getD n [] := by
  induction rs with
  | nil => exact fun s _ n => (if_neg List.not_mem_nil).symm
  | cons r rs ih =>
    intro s hrs n
    have hr : r < s.boot.measures.length := hrs r List.mem_cons_self
    change ((s.clearMeasure r).each rs State.clearMeasure).boot.measures.getD n [] = _
    rw [ih _ (fun x hx => by rw [s.clearMeasure_length]; exact hrs x (List.mem_cons_of_mem r hx)),
      State.clearMeasure_measure hr]
    by_cases hn : n = r <;> simp [hn]

/-- The registers that a module warm reset clears, M1 to M5. -/
theorem mem_warmMeasures {n : Nat} : n ∈ warmMeasures ↔ 1 ≤ n ∧ n ≤ 5 := by
  simp only [warmMeasures, List.mem_cons, List.not_mem_nil, or_false]
  omega

/-! ### Links (R94) -/

/-- Walks whose steps agree on the states that they pass through. -/
theorem each_congr_mem {α : Type} {P : State → Prop} {f g : State → α → State} : ∀ (xs : List α) {s : State}, P s →
    (∀ t, ∀ x ∈ xs, P t → f t x = g t x) → (∀ t, ∀ x ∈ xs, P t → P (g t x)) → s.each xs f = s.each xs g
  | [], _, _, _, _ => rfl
  | x :: xs, s, hs, hagree, hkeep => by
    unfold State.each
    rw [List.foldl_cons, List.foldl_cons, hagree s x List.mem_cons_self hs]
    exact each_congr_mem xs (hkeep s x List.mem_cons_self hs) (fun t y hy => hagree t y (List.mem_cons_of_mem x hy))
      fun t y hy => hkeep t y (List.mem_cons_of_mem x hy)

/-- The status that a link has when it has been reset: 7 without a role, and otherwise it trains (R94). -/
def State.resetStatus (s : State) (l : Nat) : Nat := if s.role l = 0 then 7 else 0

/-- The status of links does not bear on their roles. -/
theorem State.linksDown_eq (s : State) : s.linksDown =
    { s with links := [] }.each (List.range 64) fun t l => t.setObj 0x6002 l (s.resetStatus l) := by
  refine each_congr_mem (P := fun t => ∀ l, l < 64 → t.role l = s.role l) _ (fun _ _ => rfl)
    (fun t x hx ht => ?agree) fun t x hx ht l hl => ?keep
  case agree => rw [ht x (List.mem_range.mp hx), State.resetStatus]
  case keep =>
    have hlink := List.mem_range.mp hx
    exact (State.obj_setObj_other _ (by unfold okey; omega)).trans (ht l hl)

theorem State.linksDown_status {s : State} {l : Nat} (hl : l < 64) : s.linksDown.obj 0x6002 l = s.resetStatus l := by
  rw [State.linksDown_eq]
  have hall := each_entry (fun l t => t.obj 0x6002 l) (f := fun t l => t.setObj 0x6002 l (s.resetStatus l))
    (fun l _ => s.resetStatus l) (fun t x => State.obj_setObj_same ..)
    (fun t x y hxy => State.obj_setObj_other _ (by unfold okey; omega)) 64 { s with links := [] } l
  exact hall.trans (if_pos hl)

theorem State.linksDown_obj {s : State} {a b : Nat} (hother : ∀ l < 64, okey a b ≠ okey 0x6002 l) :
    s.linksDown.obj a b = s.obj a b :=
  each_ind (P := fun t => t.obj a b = s.obj a b) rfl fun _ l hl ht =>
    (State.obj_setObj_other _ (hother l (List.mem_range.mp hl))).trans ht

/-! ### MODULE_WARM_RESET (R418) -/

/-- The module cleared, but for its measurements and the stage of its boot. -/
def State.warmCleared (s : State) : State :=
  let s := s.clearCores
  { s with
    tt := .reset
    hold := { HallHold.reset with ownSeq := s.hold.ownSeq }
    fabric := .reset
    mailboxes := []
    deltas := []
    regions := []
    watch := .reset
    train := .reset
    rope := .reset
    job := .reset
    dict := s.dict.warm
    host := { HostPort.reset with linkUp := s.host.linkUp }
    faults := { s.faults with
      streams := []
      recovery := []
      recovered := []
      sessResets := []
      deadSessions := []
      diesDown := []
      mpsDown := [] }
    supply := { s.supply with
      dieWakes := []
      bivouacWaking := false
      holdSeq := none
      govSeq := none }
    memctl := { s.memctl with
      trained := []
      failed := [] } }

/-- The measurements of what boots again cleared. -/
def State.warmMeasured (s : State) : State := s.each warmMeasures State.clearMeasure

/-- Boot goes on with stage 1. -/
def State.warmBoots (s : State) : State :=
  s.setBoot fun b => { b with
    stage := 1
    cold := false
    owner := none
    staging := []
    stagingEnd := 0
    install := none
    reports := []
    jobId := 0
    asked := 0 }

/-- What is left before the links go down. -/
def State.warmLeft (s : State) : State := s.warmCleared.warmMeasured.warmBoots

/-- The state in which the links go down. -/
def State.warmed (s : State) : State := s.swept.switchesOff.warmLeft

theorem State.warmReset_eq (s : State) : s.warmReset = s.warmed.linksDown := by
  unfold State.warmReset State.warmed State.warmLeft State.warmBoots State.warmMeasured State.warmCleared
    State.switchesOff State.swept
  dsimp only

/-- After the clearing, measurements and the boot change, and nothing else. -/
theorem State.warmLeft_frame (s : State) : Only [.boot] s.warmCleared s.warmLeft :=
  State.setBoot_only' (State.each_only (Only.refl _ _) _ _ fun _ _ h => State.clearMeasure_only h (by decide) _) (by decide) _
    fun _ => rfl

/-- HBM contents and the time unit stay. -/
theorem State.warmLeft_keeps (s : State) : s.warmLeft.mem = s.mem ∧ s.warmLeft.time = s.time ∧
    s.warmLeft.hall = s.hall ∧ s.warmLeft.memctl.retired = s.memctl.retired :=
  ⟨s.warmLeft_frame.2 .mem (by decide), s.warmLeft_frame.2 .time (by decide), s.warmLeft_frame.2 .hall (by decide),
    by rw [s.warmLeft_frame.2 .memctl (by decide)]; rfl⟩

/-- The rest of the module is as after a reset. -/
theorem State.warmLeft_clears (s : State) : let t := s.warmLeft
    t.stores = [] ∧ t.maps = [] ∧ t.imem = [] ∧ t.accs = [] ∧ t.cores = [] ∧ t.ctxs = [] ∧ t.sems = [] ∧
      t.movers = [] ∧ t.fabric = .reset ∧ t.tt = .reset ∧ t.watch = .reset ∧ t.train = .reset ∧ t.rope = .reset ∧
      t.job = .reset ∧ t.regions = [] ∧ t.deltas = [] ∧ t.mailboxes = [] := by
  have hframe := s.warmLeft_frame
  exact ⟨hframe.2 .stores (by decide), hframe.2 .maps (by decide), hframe.2 .imem (by decide),
    hframe.2 .accs (by decide), hframe.2 .cores (by decide), hframe.2 .ctxs (by decide), hframe.2 .sems (by decide),
    hframe.2 .movers (by decide), hframe.2 .fabric (by decide), hframe.2 .tt (by decide), hframe.2 .watch (by decide),
    hframe.2 .train (by decide), hframe.2 .rope (by decide), hframe.2 .job (by decide), hframe.2 .regions (by decide),
    hframe.2 .deltas (by decide), hframe.2 .mailboxes (by decide)⟩

theorem State.warmLeft_dict (s : State) : s.warmLeft.dict = s.dict.warm := by
  rw [State.warmLeft, State.warmBoots, State.setBoot_dict]
  exact State.each_part State.dict _ _ fun _ _ => rfl

/-- Boot goes on with stage 1; the images and the SVN floors stay. -/
theorem State.warmLeft_boot (s : State) : s.warmLeft.boot.stage = 1 ∧ s.warmLeft.boot.cold = false ∧
    s.warmLeft.boot.images = s.boot.images ∧ s.warmLeft.boot.floors = s.boot.floors := by
  rw [State.warmLeft, State.warmBoots, State.setBoot_boot]
  exact ⟨rfl, rfl, State.each_part (fun t => t.boot.images) _ _ fun _ _ => rfl,
    State.each_part (fun t => t.boot.floors) _ _ fun _ _ => rfl⟩

/-- M1 to M5 are zero. -/
theorem State.warmLeft_measure {s : State} (hlength : s.boot.measures.length = 8) (n : Nat) :
    s.warmLeft.boot.measures.getD n [] =
      if 1 ≤ n ∧ n ≤ 5 then List.replicate 48 0 else s.boot.measures.getD n [] := by
  have hcleared : s.warmCleared.boot = s.boot := rfl
  have hmeasures := State.clearMeasures_measure warmMeasures s.warmCleared
    (fun r hr => by have := mem_warmMeasures.mp hr; rw [hcleared, hlength]; omega) n
  simp only [mem_warmMeasures, hcleared] at hmeasures
  rw [State.warmLeft, State.warmBoots, State.setBoot_boot]
  exact hmeasures

/-- After the clearing, links, their objects and the alert change, and nothing else. -/
theorem State.warmReset_frame (s : State) : Only [.links, .objects, .alert] s.warmed (s.alerting State.warmReset) := by
  have hlinks : Only [.links, .objects, .alert] s.warmed s.warmReset := by
    rw [State.warmReset_eq]
    exact State.linksDown_only (Only.refl _ s.warmed) (by decide)
  unfold State.alerting
  dsimp only
  split
  · exact hlinks
  · exact State.setBoot_only'' hlinks (by decide) (fun b => { b with alert := true }) fun _ => rfl

theorem exec_moduleWarmReset {s : State} (hdown : s.down = false) (hgood : s.boot.good = true)
    (hfailed : s.boot.failed = false) (hstage : 1 ≤ s.boot.stage) :
    exec .moduleWarmReset s = .next (s.alerting State.warmReset) := by
  change execModuleWarmReset s = _
  rw [execModuleWarmReset, act_up hdown, if_pos (by simp [hgood, hfailed, hstage])]

/-- What leads to the clearing. -/
theorem State.beforeWarm_frame (s : State) :
    Only [.out, .tt, .hold, .links, .fabric, .mem, .poison, .ctxs, .sems, .movers, .deltas, .train, .rope, .objects,
      .ring, .faults, .msix, .alert] s s.swept.switchesOff :=
  (s.swept_frame.mono (by decide)).then s.swept.switchesOff_frame (by decide)

theorem State.warmReset_clears (s : State) : let t := s.alerting State.warmReset
    t.stores = [] ∧ t.maps = [] ∧ t.imem = [] ∧ t.accs = [] ∧ t.cores = [] ∧ t.ctxs = [] ∧ t.sems = [] ∧
      t.movers = [] ∧ t.fabric = .reset ∧ t.tt = .reset ∧ t.watch = .reset ∧ t.train = .reset ∧ t.rope = .reset ∧
      t.job = .reset ∧ t.regions = [] ∧ t.deltas = [] ∧ t.mailboxes = [] := by
  have hframe := s.warmReset_frame
  obtain ⟨hstores, hmaps, himem, haccs, hcores, hctxs, hsems, hmovers, hfabric, htt, hwatch, htrain, hrope, hjob,
    hregions, hdeltas, hmailboxes⟩ := s.swept.switchesOff.warmLeft_clears
  exact ⟨(hframe.2 .stores (by decide)).trans hstores, (hframe.2 .maps (by decide)).trans hmaps,
    (hframe.2 .imem (by decide)).trans himem, (hframe.2 .accs (by decide)).trans haccs,
    (hframe.2 .cores (by decide)).trans hcores, (hframe.2 .ctxs (by decide)).trans hctxs,
    (hframe.2 .sems (by decide)).trans hsems, (hframe.2 .movers (by decide)).trans hmovers,
    (hframe.2 .fabric (by decide)).trans hfabric, (hframe.2 .tt (by decide)).trans htt,
    (hframe.2 .watch (by decide)).trans hwatch, (hframe.2 .train (by decide)).trans htrain,
    (hframe.2 .rope (by decide)).trans hrope, (hframe.2 .job (by decide)).trans hjob,
    (hframe.2 .regions (by decide)).trans hregions, (hframe.2 .deltas (by decide)).trans hdeltas,
    (hframe.2 .mailboxes (by decide)).trans hmailboxes⟩

theorem State.warmReset_dict (s : State) : let t := s.alerting State.warmReset
    t.dict.sessions = [] ∧ t.dict.base = s.dict.base ∧ t.dict.baseRecs = s.dict.baseRecs ∧
      t.dict.camps = s.dict.camps := by
  have hbefore : s.swept.switchesOff.dict = { s.dict with objs := s.swept.switchesOff.dict.objs } :=
    s.beforeWarm_frame.2 .dict (by decide)
  have hafter : (s.alerting State.warmReset).dict =
      { s.warmed.dict with objs := (s.alerting State.warmReset).dict.objs } := s.warmReset_frame.2 .dict (by decide)
  obtain ⟨hsessions, hbase, hrecs, hcamps⟩ := s.swept.switchesOff.dict.warm_keeps
  dsimp only
  rw [hafter, State.warmed, State.warmLeft_dict]
  dsimp only
  rw [hsessions, hbase, hrecs, hcamps, hbefore]
  exact ⟨rfl, rfl, rfl, rfl⟩

/-- HBM contents, the time unit and the retirements outlast the reset. -/
theorem State.warmed_keeps (s : State) : s.warmed.mem = s.swept.mem ∧ s.warmed.time = s.time ∧ s.warmed.hall = s.hall ∧
    s.warmed.memctl.retired = s.memctl.retired := by
  obtain ⟨hmem, htime, hhall, hretired⟩ := s.swept.switchesOff.warmLeft_keeps
  have hbefore := s.beforeWarm_frame
  rw [State.warmed, hmem, htime, hhall, hretired, hbefore.2 .time (by decide), hbefore.2 .hall (by decide),
    hbefore.2 .memctl (by decide)]
  exact ⟨s.swept.switchesOff_frame.2 .mem (by decide), rfl, rfl, rfl⟩

/-- Boot goes on with stage 1; the images, the SVN floors and the other measurements stay. -/
theorem State.warmed_boot (s : State) : s.warmed.boot.stage = 1 ∧ s.warmed.boot.cold = false ∧
    s.warmed.boot.images = s.boot.images ∧ s.warmed.boot.floors = s.boot.floors ∧
    (s.boot.measures.length = 8 → ∀ n, s.warmed.boot.measures.getD n [] =
      if 1 ≤ n ∧ n ≤ 5 then List.replicate 48 0 else s.boot.measures.getD n []) := by
  obtain ⟨hstage, hcold, himages, hfloors⟩ := s.swept.switchesOff.warmLeft_boot
  have hbefore : s.swept.switchesOff.boot = { s.boot with alert := s.swept.switchesOff.boot.alert } :=
    s.beforeWarm_frame.2 .boot (by decide)
  have hmeasures : s.swept.switchesOff.boot.measures = s.boot.measures := by rw [hbefore]
  rw [State.warmed, himages, hfloors]
  refine ⟨hstage, hcold, by rw [hbefore], by rw [hbefore], fun hlength n => ?_⟩
  rw [State.warmLeft_measure (by rwa [hmeasures]), hmeasures]

theorem State.warmed_obj (s : State) (a b : Nat) : s.warmed.obj a b =
    if restarts (okey a b) then objDefault (okey a b) else s.swept.switchesOff.obj a b :=
  State.obj_warm s.swept.switchesOff.warmLeft_dict a b

theorem State.warmReset_obj {s : State} {a b : Nat} (hlinks : ∀ l < 64, okey a b ≠ okey 0x6002 l) :
    (s.alerting State.warmReset).obj a b =
      if restarts (okey a b) then objDefault (okey a b) else s.swept.switchesOff.obj a b := by
  rw [alerting_obj, State.warmReset_eq, State.linksDown_obj hlinks, State.warmed_obj]

/-- A module that was ready is not, so its alert is raised (R486). -/
theorem State.warmReset_alerts {s : State} (hready : s.obj 0x1000 8 ≠ 0) :
    (s.alerting State.warmReset).boot.alert = true := by
  obtain halert | ⟨hsame, hbits⟩ := s.alerting_asserts State.warmReset
  · exact halert
  · have hnot : s.warmReset.obj 0x1000 8 = 0 := by
      rw [← hsame, State.warmReset_obj (fun l hl => by unfold okey; omega), if_pos (by decide)]
      decide
    have hbit := hbits 0 (by decide) (s.warmReset.mfrStatus_bits.1.mpr hnot)
    exact absurd (s.mfrStatus_bits.1.mp hbit) hready

theorem restarts_roles {l : Nat} (hl : l < 64) : restarts (okey 0xB021 l) = false := by
  have hidx : okey 0xB021 l / 256 = 0xB021 := by unfold okey; omega
  have hready : (okey 0xB021 l == okey 0x1000 8) = false := by rw [beq_eq_false_iff_ne]; unfold okey; omega
  have hstage : (okey 0xB021 l == okey 0x9003 3) = false := by rw [beq_eq_false_iff_ne]; unfold okey; omega
  have hcause : (okey 0xB021 l == okey 0x9003 4) = false := by rw [beq_eq_false_iff_ne]; unfold okey; omega
  rw [restarts]
  rw [hidx, hready, hstage, hcause]
  simp

/-- The roles of links outlast the reset. -/
theorem State.warmed_role {s : State} {l : Nat} (hl : l < 64) : s.warmed.role l = s.swept.role l := by
  rw [State.role, State.warmed_obj, restarts_roles hl, if_neg (by decide), State.role]
  refine State.switchesOff_obj ?_ ?_ ?_ ?_ <;> · unfold okey; omega

/-! ### MODULE_COLD_RESET (R418) -/

/-- The module with its holds released, its camp switch disarmed and its records streamed. -/
def State.coldStarts (s : State) : State := (s.releaseHolds 0xB000).flushBreaks.disarmCamp.streamAll

theorem State.coldStarts_frame (s : State) :
    Only [.out, .hold, .links, .fabric, .ctxs, .sems, .movers, .rope, .objects, .ring, .faults, .msix, .host, .alert] s
      s.coldStarts :=
  State.streamAll_only (State.disarmCamp_only ((s.flushed_frame 0xB000).mono (by decide)) (by decide)) (by decide)

theorem exec_moduleColdReset {s : State} (hdown : s.down = false) (hgood : s.boot.good = true) :
    exec .moduleColdReset s = .next s.coldReset := by
  change execModuleColdReset s = _
  rw [execModuleColdReset, act_up hdown, if_pos hgood]

/-- A module that starts cold, with its straps. -/
def State.coldLeft (s : State) (straps : Nat) : State :=
  { s.flashOnly with
    supply := { Supply.reset with
      mv := s.supply.mv
      ma := s.supply.ma
      bank := s.supply.bank
      connected := s.supply.connected
      dieTemps := s.supply.dieTemps
      stackTemps := s.supply.stackTemps
      lidTemp := s.supply.lidTemp }
    host := { HostPort.reset with linkUp := s.host.linkUp } }.setObj 0x1000 9 straps

theorem State.coldReset_eq (s : State) : s.coldReset = s.coldStarts.coldLeft (s.obj 0x1000 9) := by
  unfold State.coldReset State.coldStarts State.coldLeft
  dsimp only

/-- What the flash holds, and the supply, outlast a module cold reset. -/
theorem State.coldLeft_keeps (s : State) (straps : Nat) : let t := s.coldLeft straps
    t.dict.base = s.dict.base ∧ t.dict.camps = s.dict.camps ∧ t.boot.images = s.boot.images ∧
      t.boot.floors = s.boot.floors ∧ t.boot.count = s.boot.count ∧ t.memctl.retired = s.memctl.retired ∧
      t.supply.mv = s.supply.mv := ⟨rfl, rfl, rfl, rfl, rfl, rfl, rfl⟩

/-- All else is as at power-up. -/
theorem State.coldLeft_clears (s : State) (straps : Nat) : let t := s.coldLeft straps
    t.boot.stage = 0 ∧ t.boot.cold = true ∧ t.boot.good = true ∧ t.mem = [] ∧ t.ctxs = [] ∧ t.dict.sessions = [] ∧
      t.job.loaded = false ∧ t.faults.ring = [] ∧ t.obj 0x1000 9 = straps :=
  ⟨rfl, rfl, rfl, rfl, rfl, rfl, rfl, rfl, State.obj_setObj_same ..⟩

/-! ### FW_INSTALL_COMPLETE (R466) -/

/-- The slot that an image has been written to: the inactive one. A first stage is active, and a bundle on trial. -/
def State.installed (s : State) (kind : Nat) (image : List Byte) : State :=
  if kind = 1 then
    s.setBoot fun b => { b with
      images := Tbl.set [] b.images (1 - s.boot.activeFirst) image, activeFirst := 1 - s.boot.activeFirst, install := none }
  else
    s.setBoot fun b => { b with
      images := Tbl.set [] b.images (2 + (1 - s.boot.activeBundle)) image, trialBundle := true, otherBundle := true,
      install := none }

theorem exec_fwInstallComplete {s : State} {kind : Nat} {image : List Byte} (hdown : s.down = false)
    (hinstall : s.boot.install = some (kind, image)) :
    exec .fwInstallComplete s = .next (((s.installed kind image).setFw 2 kind 0).log 0xA004 (domMp 0)) := by
  change execFwInstallComplete s = _
  rw [execFwInstallComplete, act_up hdown, hinstall]
  rfl

theorem State.installed_faults (s : State) (kind : Nat) (image : List Byte) :
    ((s.installed kind image).setFw 2 kind 0).faults = s.faults := by
  unfold State.installed
  split <;> rfl

theorem State.installed_done (s : State) (kind : Nat) (image : List Byte) :
    ((s.installed kind image).setFw 2 kind 0).boot.install = none ∧
      ((s.installed kind image).setFw 2 kind 0).boot.fwState = (2, kind, 0) := by
  unfold State.installed
  split <;> exact ⟨rfl, rfl⟩

theorem State.installed_first (s : State) (image : List Byte) :
    ((s.installed 1 image).setFw 2 1 0).boot.images = Tbl.set [] s.boot.images (1 - s.boot.activeFirst) image ∧
      ((s.installed 1 image).setFw 2 1 0).boot.activeFirst = 1 - s.boot.activeFirst := ⟨rfl, rfl⟩

theorem State.installed_bundle (s : State) (image : List Byte) :
    ((s.installed 2 image).setFw 2 2 0).boot.images = Tbl.set [] s.boot.images (2 + (1 - s.boot.activeBundle)) image ∧
      ((s.installed 2 image).setFw 2 2 0).boot.trialBundle = true ∧
      ((s.installed 2 image).setFw 2 2 0).boot.otherBundle = true ∧
      ((s.installed 2 image).setFw 2 2 0).boot.activeBundle = s.boot.activeBundle := ⟨rfl, rfl, rfl, rfl⟩

theorem State.flashImage_of_set {s t : State} {slot : Nat} {image : List Byte}
    (himages : t.boot.images = Tbl.set [] s.boot.images slot image) (himage : image ≠ []) : t.flashImage slot = image := by
  rw [State.flashImage, himages, Tbl.get_set_same]
  exact if_neg (by simpa using himage)

/-! ### Camp switches (R373, R405, R410) -/

/-- The objects with the values, the slot and the kind of the camp that is switched to. -/
def State.campTaken (s : State) : State :=
  let slot := s.obj 0xB000 3
  let u := s.each (s.switchValues slot) fun s e => if s.inForce e.1 = e.2 then s else s.assign e.1 e.2
  ((((u.setDict fun d => { d with overlay := s.slotEntries slot }).setObj 0xB000 1 slot).setObj 0xB000 2
    (s.slotKind slot)).setObj 0xB000 3 0xFF)

/-- The switch is counted and logged. -/
def State.switchLogged (s : State) (old slot : Nat) : State :=
  (s.count 0xB000 8).log 0xB002 (domMp 0) [(8, old), (8, slot)]

theorem State.switchCamp_eq (s : State) : s.switchCamp =
    ((s.campTaken.switchLogged (s.obj 0xB000 1) (s.obj 0xB000 3)).bivouac s.kind
      (s.slotKind (s.obj 0xB000 3))).latchRoots := rfl

section
variable {a b : Nat} (hlog : okey a b ≠ okey 0x9004 2) (hlost : okey a b ≠ okey 0x9004 3)
include hlog hlost

theorem State.takeParent_obj (s : State) (l : Nat) : (s.takeParent l).obj a b = s.obj a b := by
  unfold State.takeParent
  split
  · dsimp only
    unfold State.on
    split
    · exact (State.log_obj _ _ _ hlog hlost).trans (State.setTime_obj ..)
    · exact State.setTime_obj ..
  · rfl

theorem State.loseParent_obj (s : State) : s.loseParent.obj a b = s.obj a b := by
  unfold State.loseParent
  dsimp only
  split
  · exact State.takeParent_obj hlog hlost ..
  · split
    · exact State.log_obj _ _ _ hlog hlost
    · rfl

theorem State.demote_obj (s : State) : s.demote.obj a b = s.obj a b := by
  rw [State.demote, State.loseParent_obj hlog hlost, State.log_obj _ _ _ hlog hlost, State.setTime_obj]

/-- The list of roots concerns the time unit, and no object but those of the log. -/
theorem State.latchRoots_obj (s : State) : s.latchRoots.obj a b = s.obj a b := by
  unfold State.latchRoots
  dsimp only
  split
  · rfl
  · split
    · split
      · rfl
      · exact (State.demote_obj hlog hlost _).trans (State.setTime_obj ..)
    · split
      · rfl
      · split
        next j _ _ =>
          have hdrawn : ∀ u : State, (u.lowerLocked s.rootList j).2.obj a b = u.obj a b := fun u =>
            obj_of_only (State.lowerLocked_only (parts := [.drawn]) (Only.refl _ u) (by decide) _ _) (by decide) a b
          split
          · exact hdrawn _
          · exact (State.log_obj _ _ _ hlog hlost).trans (hdrawn _)
        next => rfl

theorem State.bivouac_obj (s : State) (old new : Nat) : (s.bivouac old new).obj a b = s.obj a b := by
  unfold State.bivouac
  split
  · exact State.log_obj _ _ _ hlog hlost
  · split
    · exact State.log_obj _ _ _ hlog hlost
    · rfl

theorem State.switchCamp_obj (hcount : okey a b ≠ okey 0xB000 8) (s : State) :
    s.switchCamp.obj a b = s.campTaken.obj a b := by
  rw [State.switchCamp_eq, State.latchRoots_obj hlog hlost, State.bivouac_obj hlog hlost, State.switchLogged,
    State.log_obj _ _ _ hlog hlost, State.obj_count, if_neg hcount]

end

theorem State.campTaken_slot (s : State) : s.campTaken.obj 0xB000 1 = s.obj 0xB000 3 := by
  rw [State.campTaken, State.obj_setObj_other _ (by decide), State.obj_setObj_other _ (by decide), State.obj_setObj_same]

theorem State.campTaken_kind (s : State) : s.campTaken.obj 0xB000 2 = s.slotKind (s.obj 0xB000 3) := by
  rw [State.campTaken, State.obj_setObj_other _ (by decide), State.obj_setObj_same]

theorem State.campTaken_disarmed (s : State) : s.campTaken.obj 0xB000 3 = 0xFF := State.obj_setObj_same ..

theorem State.switchCamp_kind (s : State) : s.switchCamp.kind = s.slotKind (s.obj 0xB000 3) := by
  rw [State.kind, State.switchCamp_obj (by decide) (by decide) (by decide), State.campTaken_kind]

/-- What follows a camp's values leaves the dictionary, but for its objects. -/
theorem State.switchCamp_frame (s : State) : Only [.drawn, .time, .stores, .maps, .imem, .accs, .cores, .ctxs, .sems,
    .movers, .posts, .dies, .invals, .objects, .ring, .supply] s.campTaken s.switchCamp := by
  rw [State.switchCamp_eq]
  exact State.latchRoots_only (State.bivouac_only (State.log_only (State.count_only (Only.refl _ _) (by decide) ..)
    (by decide) ..) (by decide) ..) (by decide)

theorem State.switchCamp_overlay (s : State) : s.switchCamp.dict.overlay = s.slotEntries (s.obj 0xB000 3) := by
  rw [s.switchCamp_frame.2 .dict (by decide)]
  rfl

/-- Leaving module bivouac clears the cores (R373). -/
theorem State.bivouac_left {s : State} {old new : Nat} (hold : old = 6) (hnew : new ≠ 6) :
    (s.bivouac old new).cores = [] ∧ (s.bivouac old new).ctxs = [] ∧ (s.bivouac old new).stores = [] := by
  rw [State.bivouac, if_neg (fun h => h.1 hold), if_pos ⟨hold, hnew⟩, State.log_cores, State.log_ctxs, State.log_stores]
  exact ⟨rfl, rfl, rfl⟩

theorem State.switchCamp_wakes {s : State} (hold : s.kind = 6) (hnew : s.switchCamp.kind ≠ 6) :
    s.switchCamp.cores = [] ∧ s.switchCamp.ctxs = [] ∧ s.switchCamp.stores = [] := by
  rw [State.switchCamp_kind] at hnew
  rw [State.switchCamp_eq]
  have hroots : ∀ u : State, Only [.drawn, .time, .objects, .ring] u u.latchRoots := fun u =>
    State.latchRoots_only (Only.refl _ u) (by decide)
  obtain ⟨hcores, hctxs, hstores⟩ := State.bivouac_left
    (s := s.campTaken.switchLogged (s.obj 0xB000 1) (s.obj 0xB000 3)) hold hnew
  exact ⟨((hroots _).2 .cores (by decide)).trans hcores, ((hroots _).2 .ctxs (by decide)).trans hctxs,
    ((hroots _).2 .stores (by decide)).trans hstores⟩

theorem exec_campSwitch {s : State} (hdown : s.down = false) (harmed : s.campArmed = true) :
    exec .campSwitch s = .next (s.reach64 (s.edge64 (s.obj 0xB000 4))).switchCamp := by
  change execCampSwitch s = _
  rw [execCampSwitch, act_up hdown, if_pos harmed]

theorem exec_bivouacWakeStart {s : State} (hdown : s.down = false) (harmed : s.campArmed = true) (hkind : s.kind = 6)
    (hnew : s.slotKind (s.obj 0xB000 3) ≠ 6) : exec .bivouacWakeStart s =
      .next ((s.reach (s.obj 0xB000 4 - 2000000)).setSupply fun p => { p with bivouacWaking := true }) := by
  change execBivouacWakeStart s = _
  rw [execBivouacWakeStart, act_up hdown, if_pos (by simp [harmed, hkind, hnew])]

/-- Settles O50. -/
theorem moduleResetsAndCamps : Obligations.ModuleResetsAndCamps := by
  intro s hdown
  refine ⟨fun hgood hfailed hstage => ?warm, fun hgood => ?cold, fun kind image hinstall => ?install,
    exec_campSwitch hdown, fun u => ⟨?slot, u.switchCamp_kind, ?disarmed, u.switchCamp_overlay, State.switchCamp_wakes⟩,
    fun harmed hkind hnew => ?wake⟩
  case warm =>
    have hframe := s.warmReset_frame
    obtain ⟨hmem, htime, hhall, hretired⟩ := s.warmed_keeps
    obtain ⟨hstage', hcold, himages, hfloors, hmeasures⟩ := s.warmed_boot
    have hboot : (s.alerting State.warmReset).boot =
        { s.warmed.boot with alert := (s.alerting State.warmReset).boot.alert } := hframe.2 .boot (by decide)
    refine ⟨_, exec_moduleWarmReset hdown hgood hfailed hstage, State.warmReset_alerts, ?stage, ?coldFlag, ?mem, ?time,
      ?hall, ?cleared, ?dict, ?flash, fun hlength n => ?measures, ?camp, ?bank,
      fun idx sub hsub hlink hlog hcamp hbank => ?objects, fun l => ?links⟩
    case stage => rw [hboot]; exact hstage'
    case coldFlag => rw [hboot]; exact hcold
    case mem => exact (hframe.2 .mem (by decide)).trans hmem
    case time => exact (hframe.2 .time (by decide)).trans htime
    case hall => exact (hframe.2 .hall (by decide)).trans hhall
    case cleared => exact s.warmReset_clears
    case dict => exact s.warmReset_dict
    case flash =>
      rw [hboot, hframe.2 .memctl (by decide)]
      dsimp only
      exact ⟨himages, hfloors, hretired⟩
    case measures =>
      rw [hboot]
      dsimp only
      exact hmeasures hlength n
    case camp => rw [State.warmReset_obj (fun l hl => by unfold okey; omega), if_neg (by decide), State.switchesOff_camp]
    case bank => rw [State.warmReset_obj (fun l hl => by unfold okey; omega), if_neg (by decide), State.switchesOff_bank]
    case objects =>
      rw [State.warmReset_obj (fun l hl => by unfold okey; omega), State.switchesOff_obj hcamp hbank
        (by unfold okey; omega) (by unfold okey; omega)]
      rfl
    case links =>
      rw [alerting_obj, State.warmReset_eq, State.linksDown_status l.isLt, State.resetStatus, State.warmed_role l.isLt]
      rfl
  case cold =>
    have hframe := s.coldStarts_frame
    obtain ⟨hbase, hcamps, himages, hfloors, hcount, hretired, hmv⟩ := s.coldStarts.coldLeft_keeps (s.obj 0x1000 9)
    obtain ⟨hstage, hcold, hstays, hmem, hctxs, hsessions, hjob, hring, hstraps⟩ :=
      s.coldStarts.coldLeft_clears (s.obj 0x1000 9)
    have hdict : s.coldStarts.dict = { s.dict with objs := s.coldStarts.dict.objs } := hframe.2 .dict (by decide)
    have hboot : s.coldStarts.boot = { s.boot with alert := s.coldStarts.boot.alert } := hframe.2 .boot (by decide)
    rw [exec_moduleColdReset hdown hgood, State.coldReset_eq]
    refine ⟨_, rfl, hstage, hcold, hstays, hmem, hctxs, hsessions, hjob, hring, hstraps,
      ⟨hbase.trans ?_, hcamps.trans ?_, himages.trans ?_, hfloors.trans ?_, hcount.trans ?_, hretired.trans ?_⟩,
      hmv.trans ?_⟩
    · rw [hdict]
    · rw [hdict]
    · rw [hboot]
    · rw [hboot]
    · rw [hboot]
    · rw [hframe.2 .memctl (by decide)]
    · rw [hframe.2 .supply (by decide)]
  case install =>
    obtain ⟨hnone, hstate⟩ := s.installed_done kind image
    refine ⟨_, exec_fwInstallComplete hdown hinstall, Logged.log_of_faults (s.installed_faults kind image) _ _ _
      (by decide), ?_, ?_, fun hfirst => ?first, fun hbundle => ?bundle⟩
    · rw [State.log_boot, hnone]
    · rw [State.log_boot, hstate]
    case first =>
      subst hfirst
      obtain ⟨himages, hactive⟩ := s.installed_first image
      exact ⟨State.flashImage_of_set (s := s) (by rw [State.log_boot, himages]), by rw [State.log_boot, hactive]⟩
    case bundle =>
      subst hbundle
      obtain ⟨himages, htrial, hother, hactive⟩ := s.installed_bundle image
      refine ⟨fun himage hslot => State.flashImage_of_set (s := s) ?_ himage, ?_⟩
      · rw [State.log_boot, himages]
        congr 1
        omega
      · rw [State.log_boot, htrial, hother, hactive]
        exact ⟨rfl, rfl, rfl⟩
  case slot => exact (State.switchCamp_obj (by decide) (by decide) (by decide) u).trans u.campTaken_slot
  case disarmed => exact (State.switchCamp_obj (by decide) (by decide) (by decide) u).trans u.campTaken_disarmed
  case wake =>
    refine ⟨_, exec_bivouacWakeStart hdown harmed hkind hnew, ?_, ?_⟩
    · rw [State.setSupply_supply, State.reach_supply]
    · rw [State.setSupply_hall, State.reach_hall']

end Sys2Proof.Machine
